-- ==== Sys2Proof/Word.lean ====
section
/-! DEFINITION. The word types of the module and the plainest arithmetic on them (00_scope.md, R9 to R13). -/

namespace Sys2Proof

/-- A register: 32 bits (R13). -/
abbrev Word := BitVec 32

/-- A byte. -/
abbrev Byte := BitVec 8

/-- A binary32 value by its bits. -/
abbrev F32 := BitVec 32

/-- A binary64 value by its bits. -/
abbrev F64 := BitVec 64

/-- An angle stamp: cycle count in bits 63:24, angle in bits 23:0 (R20). -/
abbrev Stamp := BitVec 64

/-- Angle counts in one grid cycle. -/
def countsPerCycle : Nat := 16777216

/-- The field of `width` bits from bit `lo` of a natural number. -/
def bitsOf (n lo width : Nat) : Nat := n / 2 ^ lo % 2 ^ width

/-- Bit `i` of a natural number. -/
def bitOf (n i : Nat) : Bool := bitsOf n i 1 == 1

/-- 1 for true, 0 for false. -/
def ofBool (b : Bool) : Nat := if b then 1 else 0

/-- `n`, but never above `m` (a counter that saturates). -/
def satAt (m n : Nat) : Nat := if n ≤ m then n else m

/-- `n` read as a two's complement number of `w` bits. -/
def signedOf (w n : Nat) : Int :=
  if n % 2 ^ w < 2 ^ (w - 1) then Int.ofNat (n % 2 ^ w) else Int.ofNat (n % 2 ^ w) - Int.ofNat (2 ^ w)

/-- The two's complement bits of `i` in `w` bits. -/
def unsignedOf (w : Nat) (i : Int) : Nat := (i % (2 ^ w : Nat)).toNat

/-- The little-endian value of a list of bytes. -/
def leNat : List Byte → Nat
  | [] => 0
  | b :: bs => b.toNat + 256 * leNat bs

/-- `k` bytes of `n`, little-endian. -/
def leBytes : Nat → Nat → List Byte
  | 0, _ => []
  | k + 1, n => BitVec.ofNat 8 n :: leBytes k (n / 256)

/-- The little-endian field of `k` bytes from byte `i` of a list; missing bytes are 0. -/
def leField (l : List Byte) (i k : Nat) : Nat := leNat ((l.drop i).take k)

/-- The list with element `i` changed by `f`; the same list when `i` is beyond its end. -/
def updAt {α : Type} (l : List α) (i : Nat) (f : α → α) : List α :=
  match l, i with
  | [], _ => []
  | x :: xs, 0 => f x :: xs
  | x :: xs, i + 1 => x :: updAt xs i f

/-- The value under key `k` of a list of pairs. -/
def assocGet {κ α : Type} [DecidableEq κ] (l : List (κ × α)) (k : κ) : Option α :=
  match l with
  | [] => none
  | (k', a) :: t => if k' = k then some a else assocGet t k

/-- The list of pairs with `k` bound to `a`, in its old place or at the end. -/
def assocSet {κ α : Type} [DecidableEq κ] (l : List (κ × α)) (k : κ) (a : α) : List (κ × α) :=
  match l with
  | [] => [(k, a)]
  | (k', b) :: t => if k' = k then (k, a) :: t else (k', b) :: assocSet t k a

/-- The list of pairs without key `k`. -/
def assocDel {κ α : Type} [DecidableEq κ] (l : List (κ × α)) (k : κ) : List (κ × α) :=
  l.filter fun p => decide (p.1 ≠ k)

end Sys2Proof
end

