-- ==== Sys2Proof/Machine/Types.lean ====
section
/-! DEFINITION. The fixed sets of names and the messages of the module, as the chapters lay them out: they are the operands
of commands and the contents of the state. -/

namespace Sys2Proof

/-- Privilege of a core access (R251). -/
inductive Priv | machine | supervisor | user
  deriving DecidableEq, Repr

/-- Who makes a register access: a core of a pair, the host port, the debug master, or an engine (R615, R621). -/
inductive Requester
  | core (pair : Nat) (second : Bool) (priv : Priv)
  | host
  | debug
  | engine (e : Nat)
  deriving DecidableEq, Repr

/-- The code of a requester in XXX_LOCK.HOLDER and HQ_n_CTRL.OWNER; debug 10 in HOLDER. -/
def Requester.code : Requester → Nat
  | .core p c _ => if c then 5 + p else 1 + p
  | .host => 9
  | .debug => 10
  | .engine _ => 0

/-- The twelve modes, in the order of SYS_MODE.MODE (R594). -/
inductive Mode | inserted | boot | quarantine | service | sync | standby | active | solo | handover | cocoon | update | safeHold
  deriving DecidableEq, Repr

/-- The code of a mode in SYS_MODE. -/
def Mode.code : Mode → Nat
  | .inserted => 0 | .boot => 1 | .quarantine => 2 | .service => 3 | .sync => 4 | .standby => 5 | .active => 6 | .solo => 7
  | .handover => 8 | .cocoon => 9 | .update => 10 | .safeHold => 11

/-- Lease states (WB_LEASE_STATUS.STATE). -/
inductive Lease | none | request | held | consent | lost
  deriving DecidableEq, Repr

/-- The code of a lease state. -/
def Lease.code : Lease → Nat
  | .none => 0 | .request => 1 | .held => 2 | .consent => 3 | .lost => 4

/-- States of the angle clock (R101). -/
inductive AngState | locked | acquire | slew | synth
  deriving DecidableEq, Repr

/-- The code of ANG_STATE. -/
def AngState.code : AngState → Nat
  | .locked => 0 | .acquire => 1 | .slew => 2 | .synth => 3

/-- States of plant time (R123). -/
inductive PtState | locked | acquire | freerun | unset
  deriving DecidableEq, Repr

/-- The code of PT_STATE. -/
def PtState.code : PtState → Nat
  | .locked => 0 | .acquire => 1 | .freerun => 2 | .unset => 3

/-- Plant time: seconds, then nanoseconds (R20). -/
structure PlantTime where
  sec : Nat := 0
  ns : Nat := 0
  deriving DecidableEq, Repr

/-- Nanoseconds since the origin of plant time. -/
def PlantTime.total (t : PlantTime) : Nat := t.sec * 1000000000 + t.ns

/-- The plant time of a count of nanoseconds; a count below 0 is taken as 0. -/
def PlantTime.ofTotal (n : Nat) : PlantTime := ⟨n / 1000000000 % 2 ^ 48, n % 1000000000⟩

/-- The units of SYS_UNIT_HEALTH (R54). -/
inductive UnitId
  | corePair (k : Nat) | core1 (k : Nat) | laneGrp (g : Nat) | ringEnd (p : Nat) | netPort (p : Nat) | wbLane (l : Nat)
  | holdup | loop | nand | can
  deriving DecidableEq, Repr

/-- The bit of a unit in SYS_UNIT_HEALTH. -/
def UnitId.bit : UnitId → Nat
  | .corePair k => k % 4 | .core1 k => 4 + k % 4 | .laneGrp g => 8 + g % 4 | .ringEnd p => 12 + p % 4
  | .netPort p => 16 + p % 4 | .wbLane l => 20 + l % 2 | .holdup => 22 | .loop => 23 | .nand => 24 | .can => 25

/-- What an operation in flight or accepted work is named by: its tag, or its journal sequence number. -/
inductive WorkRef | tag (t : Nat) | jsn (j : Nat)
  deriving DecidableEq, Repr

/-- A consumer's input that can pass its stale age (R27). -/
inductive StaleInput
  | slot (s i : Nat)   -- MEAS, SP or FF of a loop slot
  | stagePos (o : Nat) -- POS_SRC of an output stage
  | dispatch           -- the manager's set-point at a worker
  deriving DecidableEq, Repr

/-- Who read DRAM when an uncorrectable error was found (R539): a core, an engine, the journal logic with its partner's copy good or not,
or another requester. -/
inductive DramUser | core (pair : Nat) (second : Bool) | engine (e : Nat) | journal (jsn : Nat) (partnerOk : Bool)
  | other
  deriving DecidableEq, Repr

/-- The code of a DRAM reader as DRAM_UE names it. -/
def DramUser.code : DramUser → Nat
  | .core p c => if c then 5 + p else 1 + p
  | .engine e => 16 + e
  | .journal _ _ => 31
  | .other => 9

/-- Body of HEARTBEAT (table Wingbeat messages). -/
structure HbBody where
  mode : Mode
  lease : Lease
  gen : Nat
  cycle : Nat
  jsn : Nat
  holdupOk : Bool
  refReach : Bool
  unitHealth : Nat
  safeHoldCause : Nat
  cocoonReq : Bool
  deriving DecidableEq, Repr

/-- What a Wingbeat message carries beside its body: MSG_SEQ of its header, and the sender's lease generation (table Wingbeat message header,
R217). -/
structure WbHead where
  seq : Nat
  gen : Nat
  deriving DecidableEq, Repr

/-- Body of HELLO (table Wingbeat messages). -/
structure HelloBody where
  version : Nat
  minPeer : Nat
  proto : Nat
  protoMin : Nat
  role : Bool
  carrierId : Nat
  pairId : Nat
  slotB : Bool
  deriving DecidableEq, Repr

/-- Manifest entry, 16 bytes (table Manifest entry). -/
structure ManEntry where
  kind : Nat
  b1 : Nat
  b2 : Nat
  b4 : Nat
  b8 : Nat
  deriving DecidableEq, Repr

/-- One part of a manifest (table Manifest header). -/
structure ManPart where
  cycle : Nat
  angle : Nat
  astatus : Nat
  gen : Nat
  task : Nat
  part : Nat
  parts : Nat
  jsnCut : Nat
  entries : List ManEntry
  deriving DecidableEq, Repr

/-- What FETCH asks for: an item that a manifest names, or a whole message by its type and MSG_SEQ (R197, R199). -/
inductive FetchOf
  | item (e : ManEntry)
  | msg (type seq : Nat)
  deriving DecidableEq, Repr

/-- What a network referee keeps for one served pair (R222 to R227). -/
structure RefPair where
  pairId : Nat
  holder : Nat := 0
  expiry : Nat := 0
  gen : Nat := 0
  lastGranted : Nat := 0
  epochA : Nat := 0
  seqA : Nat := 0
  epochB : Nat := 0
  seqB : Nat := 0
  fencedA : Bool := false
  fencedB : Bool := false
  termUs : Nat := 4000
  deriving DecidableEq, Repr

/-- Kinds of journal entry with their bodies (table Journal entry header). -/
inductive JBody
  | desc (ring : Nat) (submitId : Nat) (bytes : List Byte)
  | step (ring : Nat) (submitId : Nat) (steps : Nat)
  | intent (stream : Nat) (seq : Nat) (epoch : Nat) (payload : List Byte)
  | done (ring : Nat) (submitId : Nat) (jsn : Nat) (status : Nat) (result : Nat) (angle : Nat) (astatus : Nat)
  | retained (cycle : Nat) (vars : List (Nat × Nat))
  | checkpoint (cycle : Nat) (digest : List Byte) (vars : List (Nat × Nat))
  | lease (gen : Nat) (slotB : Bool)
  | ordAck (stream : Nat) (epoch : Nat) (h : Nat)
  | referee (p : RefPair)                -- a served pair's entry of the lease table (R224, R227; notes/assumptions/83.md)
  deriving DecidableEq, Repr

/-- A journal entry: its sequence number, the writer's generation, its body. -/
structure JEntry where
  jsn : Nat
  gen : Nat
  body : JBody
  deriving DecidableEq, Repr

/-- The module's messages to the referee, and the referee's replies (table Referee message body). -/
inductive RefType | request | renew | release | fenced | probe | grant | deny | status
  deriving DecidableEq, Repr

/-- Referee message body. -/
structure RefMsg where
  type : RefType
  slotB : Bool
  pairId : Nat
  seq : Nat
  termUs : Nat
  gen : Nat
  rstatus : Nat := 0
  holder : Nat := 0
  bootEpoch : Nat := 0
  deriving DecidableEq, Repr

/-- An anchor: cycle-boundary stamp, plant time at it, period in 2^-16 ns, CAN counter at it (R118, R514). -/
structure Anchor where
  ang : Nat := 0
  pt : PlantTime := {}
  period : Nat := 0
  canCnt : Nat := 0
  deriving DecidableEq, Repr

/-- What a received PTP frame is (table PTP support): its port, by layer 2, by the peer-to-peer mechanism, a management message, its
domain. -/
structure PtpForm where
  port : Nat
  layer2 : Bool := true
  peer : Bool := true
  mgmt : Bool := false
  domain : Nat := 0
  deriving DecidableEq, Repr

/-- Where a cycle count seed comes from (table Cycle count seed sources); a seed pair's anchor with its age and its stamp status word. -/
inductive SeedFrom
  | partner (count : Nat)
  | seedPair (anchor : Anchor) (ageMs astatus : Nat)
  | plantTime
  deriving DecidableEq, Repr

/-- A call of a timer, counter or edge detector by the program (R303 to R306). -/
inductive FbCall
  | ton (id : Nat) (inp : Bool) (pt : Nat)
  | tof (id : Nat) (inp : Bool) (pt : Nat)
  | tp (id : Nat) (inp : Bool) (pt : Nat)
  | ctu (id : Nat) (cu reset : Bool) (pv : Int)
  | ctd (id : Nat) (cd load : Bool) (pv : Int)
  | ctud (id : Nat) (cu cd reset load : Bool) (pv : Int)
  | rTrig (id : Nat) (inp : Bool)
  | fTrig (id : Nat) (inp : Bool)
  deriving DecidableEq, Repr

/-- An instance of a program: identity, kind as in the change report (1 variable to 6 I/O point), data type of the
table Force data types (for a counter the type of CV), target (0 variable, 1 input point, 2 output point), initial value,
retained, writer task. -/
structure ProgItem where
  ident : Nat
  kind : Nat
  type : Nat
  target : Nat
  init : Nat
  retained : Bool
  writer : Nat
  elements : Nat
  deriving DecidableEq, Repr

/-- A task of a program (table Task model). -/
structure TaskCfg where
  num : Nat
  prot : Bool
  priority : Nat
  home : Nat
  backups : List Nat
  ovrLimit : Nat
  firstRel : Nat
  period : Nat
  deriving DecidableEq, Repr

/-- A signed control program, as Gelef compiles it (07). -/
structure ProgImage where
  digest : List Byte
  role : Bool
  pairId : Nat
  runtime : Nat
  stateKib : Nat
  minCycleUs : Nat
  ovrLimit : Nat
  watchUs : Nat
  maxCycleUs : Nat
  tasks : List TaskCfg
  items : List ProgItem
  exchange : List (Nat × Nat) := []      -- identity and index of the loop exchange variables it writes
  deriving DecidableEq, Repr

/-- Node kinds (ID body). -/
inductive NType | cell | shunt | aux
  deriving DecidableEq, Repr

/-- SAMPLE frame of a node (tables Frame header, SAMPLE body): FLAGS and the body; fields of other node kinds are 0. -/
structure Sample where
  epoch : Nat
  ntype : NType
  toEndB : Bool := false
  alarmPend : Bool := false
  strbEndB : Bool := false
  nstat : Nat := 0
  cells : Nat := 0
  cmpf : Nat := 0
  stack : Nat := 0
  temps : List Int := []
  volts : List Nat := []
  bleed : Nat := 0
  current : Int := 0
  qint : Int := 0
  dt : Nat := 0
  inputs : Nat := 0
  lineFault : Nat := 0
  changed : Nat := 0
  deriving DecidableEq, Repr

/-- A HALF_RING message received (table HALF_RING body): KIND, ring, epoch with the stamp of its strobe, samples, breaks, the last position
read, END_OK, missing positions, a frame to relay. -/
structure HalfBody where
  kind : Nat
  ring : Nat
  epoch : Nat := 0
  angle : Nat := 0
  astatus : Nat := 0
  samples : List (Nat × Sample) := []
  break1 : Nat := 0
  break2 : Nat := 0
  last : Nat := 0
  endOk : Bool := false
  missing : List Nat := []
  frame : List Byte := []
  deriving DecidableEq, Repr

/-- A position of the ring table of the configuration (R359, R368, R409). -/
structure RingPos where
  ntype : NType
  cells : Nat
  nodeId : Nat
  string : Nat
  rBleed : F32
  tempCh : List Nat
  model : Nat
  deriving DecidableEq, Repr

/-- Trip group entry of a protection set. -/
structure GroupEntry where
  en : Bool
  backupEn : Bool
  backupPdo : Nat
  confRing : Nat
  confPos : Nat
  confInput : Nat
  confirmMs : Nat
  deriving DecidableEq, Repr

/-- Warn, limit and trip level and hysteresis of one quantity. -/
structure Levels where
  warn : Int
  limit : Int
  trip : Int
  hyst : Int
  deriving DecidableEq, Repr

/-- Threshold class of a protection set. -/
structure ThrClass where
  ov : Levels
  uv : Levels
  ot : Levels
  chUt : Levels
  ocDis : Levels
  ocCh : Levels
  warnN : Nat
  limitN : Nat
  releaseN : Nat
  nodeFilter : Nat
  deriving DecidableEq, Repr

/-- String entry of a protection set. -/
structure StrEntry where
  cls : Nat
  groups : Nat
  ring : Nat
  pos : Nat
  deriving DecidableEq, Repr

/-- Auxiliary entry of a protection set. -/
structure AuxEntry where
  ring : Nat
  pos : Nat
  input : Nat
  severity : Nat
  activeOpen : Bool
  groups : Nat
  deriving DecidableEq, Repr

/-- Protection set content (table Protection set content). -/
structure ProtSet where
  format : Nat
  setSeq : Nat
  pairId : Nat
  missLimitMs : Nat
  missTripMs : Nat
  canId : Nat
  canPorts : Nat
  fd : Bool
  appId : Nat
  groups : List GroupEntry
  classes : List ThrClass
  strings : List StrEntry
  aux : List AuxEntry
  deriving DecidableEq, Repr

/-- A worker report (table Worker report). -/
structure WorkerReport where
  epoch : Nat
  angle : Nat
  pDis10 : F32
  pDis60 : F32
  pCh10 : F32
  pCh60 : F32
  eDis : F32
  eCh : F32
  socMin : F32
  socMax : F32
  socMean : F32
  pMeas : F32
  pFfr : F32
  wflags : Nat
  worker : Nat
  spSeq : Nat
  astatus : Nat := 0                     -- stamp status word of `angle` (R116)
  deriving DecidableEq, Repr

/-- A set-point frame (table Set-point frame). -/
structure SetPoint where
  epoch : Nat
  pSet : F32
  kFfr : F32
  ffrLim : F32
  ffrDb : F32
  excluded : Bool
  ffrEn : Bool
  worker : Nat
  anchor : Anchor
  anchorStatus : Nat                     -- stamp status word of the anchor (R116)
  deriving DecidableEq, Repr

/-- A received CAN frame (table CAN receive packet body). -/
structure CanFrame where
  id : Nat
  ide : Bool
  fmt : Nat          -- 1 classical, 2 FD, 3 XL
  brs : Bool := false
  esi : Bool := false
  remote : Bool := false
  sdt : Nat := 0
  vcid : Nat := 0
  af : Nat := 0
  data : List Byte
  deriving DecidableEq, Repr

/-- A signal map entry (table Signal map entry). -/
structure Signal where
  port : Nat
  id : Nat
  ide : Bool
  start : Nat
  bits : Nat
  bigEndian : Bool
  form : Nat         -- 0 unsigned, 1 signed, 2 binary32
  transmit : Bool
  scale : F32
  offset : F32
  deriving DecidableEq, Repr

/-- A station session of the configuration (R531). -/
structure Session where
  station : Nat
  mac : Nat
  network : Nat
  stream : Nat
  ordered : List Nat
  inIdent : List Nat                     -- identities of its input points, then of its output points
  outIdent : List Nat
  subst : List Word
  deriving DecidableEq, Repr

/-- Safe value kinds of an output (R302). -/
inductive SafeVal | value (v : Nat) | hold | fail
  deriving DecidableEq, Repr

/-- A cell model block by its words (table Cell model block); word i is the binary32 at offset 4 * i. -/
structure CellModel where
  words : List F32
  deriving DecidableEq, Repr

/-- An AO channel of the configuration. -/
structure AoCfg where
  srcLoop : Bool := false
  shared : Bool := false
  failHigh : Bool := false
  clampNe43 : Bool := true
  hartMode : Bool := false
  deriving DecidableEq, Repr

/-- A delegated key of the key table (R572). -/
structure DelKey where
  idx : Nat
  key : List Byte
  mask : Nat
  deriving DecidableEq, Repr

/-- The signed configuration that stage 3 applies, by what the chapters take from it. -/
structure Cfg where
  seq : Nat := 0
  digest : List Byte := []
  manager : Bool := false
  pairId : Nat := 0
  settings : List (Nat × Word) := []      -- register address and value (R620)
  keys : List DelKey := []
  refKey : List Byte := []
  servedPairs : List (Nat × List Byte) := []
  ringTable : List (List RingPos) := []
  strings : List (Nat × Nat) := []        -- ring and position of each string's shunt node
  models : List CellModel := []
  sessions : List Session := []
  scanTmoUs : Nat := 1000
  staleLimit : Nat := 3
  safeValues : List (Nat × SafeVal) := [] -- by output identity
  orderedStreams : List Nat := []
  cyclicStreams : List Nat := []
  taskStreams : List (Nat × Nat) := []    -- task, stream
  dspSpBase : Nat := 0
  dspRpBase : Nat := 0
  dspSlot : Nat := 0
  dspFfrVar : Nat := 0
  dspWorker : Nat := 0
  workers : Nat := 0
  pcsSignal : Nat := 0
  seedPair : Bool := false
  signals : List Signal := []
  parMode : Nat := 0                      -- bit g: PDO g paralleled
  ao : List AoCfg := []
  aiHart : Nat := 0
  aiPairWired : Nat := 0
  diPairWired : Nat := 0
  diPoint : List Nat := []                -- image identities of DI, AI, DO and AO channels
  aiPoint : List Nat := []
  doPoint : List Nat := []
  aoPoint : List Nat := []
  deriving DecidableEq, Repr

/-- What stage 3 of the boot finds in the CFG partition (R582). -/
inductive Stage3
  | ok (cfg : Cfg) (prog : Option ProgImage) (set : Option ProtSet) (setDigest : List Byte)
  | none
  | bad
  deriving DecidableEq, Repr

/-- An ORDERED stream of the pair (R204 to R211). -/
structure Stream where
  id : Nat
  epoch : Nat := 1
  nextSeq : Nat := 1
  ackH : Nat := 0
  journalledH : Nat := 0
  unacked : List (Nat × Nat × List Byte) := []   -- SEQ, JSN of its INTENT, payload
  waiting : List (List Byte) := []
  startDue : Bool := false
  deriving DecidableEq, Repr

/-- A loop slot (08_loop_engine.md): the 128-byte record and the state of its law. -/
structure Slot where
  record : List Byte := []
  enabled : Bool := false
  w : F32 := 0
  target : F32 := 0
  ramping : Bool := false
  i : F64 := 0
  d : F64 := 0
  yPrev : F32 := 0
  uPrevIn : F32 := 0
  vPrev : F32 := 0
  uSlot : F32 := 0
  uRaw : F32 := 0
  e : F32 := 0
  ts : F32 := 0
  setTarget : Option F32 := none
  fresh : Bool := false
  adjust : Option (List Byte) := none
  safe : Bool := false
  staleM : Bool := false
  staleS : Bool := false
  staleF : Bool := false
  holdM : F32 := 0
  holdS : F32 := 0
  holdF : F32 := 0
  frozen : Bool := false
  selected : Bool := false
  atLimit : Bool := false
  late : Bool := false
  skips : Nat := 0
  last : Nat := 0
  deriving DecidableEq, Repr

/-- An override group. -/
structure Group where
  record : List Byte := []
  configured : Bool := false
  conflict : Bool := false
  none_ : Bool := false
  selected : Nat := 0
  deriving DecidableEq, Repr

/-- An output stage. -/
structure Stage where
  record : List Byte := []
  active : Bool := false
  has : Bool := false
  uApp : F32 := 0
  extSat : Bool := false
  extCause : Nat := 0
  clamped : Bool := false
  fric : Bool := false
  safeOut : Bool := false
  value : F32 := 0
  deriving DecidableEq, Repr

/-- Accumulators of a cell's summary interval and its lifetime record. -/
structure Life where
  disThru : Nat := 0
  chThru : Nat := 0
  bleedThru : Nat := 0
  qFirst : F32 := 0
  qNow : F32 := 0
  rsFirst : F32 := 0
  rsNow : F32 := 0
  tcPeak : Int := 0
  vPeak : Nat := 0
  vLow : Nat := 65535
  leakPeak : Nat := 0
  hours : List Nat := [0, 0, 0, 0]               -- µs
  begun : Bool := false
  deriving DecidableEq, Repr

/-- A cell summary (table Cell summary). -/
structure CellSum where
  socMean : Nat
  vMin : Nat
  vMax : Nat
  tcMax : Int
  tsMean : Int
  corr : Int
  thru : Nat
  bleed : Nat
  flags : Nat
  deriving DecidableEq, Repr

/-- A result of a parameter update or a summary that waits for its epoch (R407): θ with its factors, or a leak score. -/
inductive PendEst
  | theta (epoch : Nat) (th : List F32) (u : List (List F32)) (d : List F32)
  | leak (epoch : Nat) (score : Option F32)
  deriving DecidableEq, Repr

/-- The estimator state of one cell (10_cell_state_estimation_and_balancing.md). -/
structure Cell where
  ring : Nat
  pos : Nat
  k : Nat
  string : Nat
  model : Nat := 0
  rBleed : F32 := 0
  tempCh : Nat := 0
  x : List F32 := [0, 0, 0, 0]
  u : List (List F32) := []
  d : List F32 := []
  th : List F32 := [0, 0]
  tu : List (List F32) := []
  td : List F32 := []
  tc : F32 := 0
  ts : F32 := 0
  tm : F32 := 0
  tempLost : Nat := 0                            -- µs
  tempSub : Bool := false
  started : Bool := false
  measured : Bool := false
  missing : Bool := false
  lost : Bool := false
  tap : Bool := false
  reinit : Bool := false
  anomaly : Bool := false
  leakSuspect : Bool := false
  leakAlert : Bool := false
  limitZero : Bool := false
  vUsed : F32 := 0
  heat : F32 := 0
  pDis10 : F32 := 0
  pDis60 : F32 := 0
  pCh10 : F32 := 0
  pCh60 : F32 := 0
  iDis10 : F32 := 0
  iDis60 : F32 := 0
  iCh10 : F32 := 0
  iCh60 : F32 := 0
  endD10 : F32 × F32 := (0, 0)
  endD60 : F32 × F32 := (0, 0)
  endC10 : F32 × F32 := (0, 0)
  endC60 : F32 × F32 := (0, 0)
  leak : Option F32 := none
  noMeasUs : Nat := 0
  restUs : Nat := 0
  prevNormal : Bool := false
  prevEpoch : Nat := 0
  prevY : F32 := 0
  prevI : F32 := 0
  prevPred : F32 := 0
  sAcc : F32 := 0
  wAcc : F32 := 0
  nisSum : F32 := 0
  nisN : Nat := 0
  nisHigh : Nat := 0
  winOpen : Bool := false
  winZ : F32 := 0
  winS : F32 := 0
  winC : F32 := 0                                -- η q of the open window up to the last parameter update
  winP : F32 := 0                                -- the same since then
  winAge : Nat := 0                              -- µs
  corr : F32 := 0
  sumN : Nat := 0
  sumMiss : Nat := 0
  sumBleed : Nat := 0                            -- µs
  sumMeas : Nat := 0
  sumRead : Nat := 0
  sumInit : Bool := false
  sumUs : Nat := 0
  sumHours : List Nat := [0, 0, 0, 0]            -- µs
  socSum : F32 := 0
  tsSum : F32 := 0
  vMin : Nat := 65535
  vMax : Nat := 0
  tcMax : F32 := 0
  thru : F32 := 0
  disThru : Nat := 0
  chThru : Nat := 0
  bleedMc : Nat := 0
  history : List (Bool × F32 × Nat) := []        -- per summary: valid, C - median, time in µs
  life : Life := {}
  learned : Option (F32 × F32) := none           -- Q and RS_REF at first learning
  recs : List (Nat × List Byte) := []            -- the result records of the two banks, by epoch
  pending : List PendEst := []                   -- results waiting for their epoch
  deriving DecidableEq, Repr

/-- A task of the running program. -/
structure Task where
  present : Bool := false
  prot : Bool := false
  priority : Nat := 0
  home : Nat := 0
  backups : List Nat := []
  ovrLimit : Nat := 3
  pair : Nat := 0
  moved : Bool := false
  running : Bool := false
  ovrRun : Nat := 0
  ovrTotal : Nat := 0
  rel : Nat := 0
  per : Nat := 0
  relNum : Nat := 0
  late : Bool := false                   -- a release that fires LATE is due: it was passed over, or its start came after it
  skips : Nat := 0                       -- SKIP_COUNT of that release
  excess : Bool := false                   -- a release found this one still running
  time : Nat := 0                        -- task time of its present cycle or release
  angle : Nat := 0                       -- angle stamp of that cycle's or release's manifest
  deriving DecidableEq, Repr

/-- The kept state of a program item: its value; for function blocks start instant, previous input and output, count. -/
structure ItemSt where
  value : Nat := 0
  start : Nat := 0
  active : Bool := false
  prevIn : Bool := false
  prevIn2 : Bool := false
  q : Bool := false
  qd : Bool := false
  called : Bool := false
  et : Nat := 0
  cv : Int := 0
  pt : Nat := 0
  kindCode : Nat := 0
  deriving DecidableEq, Repr

/-- A force (table Force entry). -/
structure Force where
  ident : Nat
  element : Nat
  target : Nat
  type : Nat
  value : Nat
  setTime : PlantTime
  setStatus : Nat
  setBy : Nat
  deriving DecidableEq, Repr

/-- The estimator state that a returning module takes from the active (R418). -/
structure EstCopy where
  cells : List Cell := []
  epoch : Nat := 0
  ringEpoch : List Nat := [0, 0, 0, 0]
  paramEpoch : Nat := 0
  lastQ : List (Nat × F32) := []
  resets : List (Nat × Bool × Nat) := []
  parSnap : List (Nat × List (Nat × Cell)) := []
  sumSnap : List (Nat × List (Nat × Cell)) := []
  sumFirst : Option (Nat × Nat × Nat) := none
  plans : List ((Nat × Nat) × List Nat × List Nat) := []
  outlierDay : List (Nat × Nat) := []
  deriving DecidableEq, Repr

/-- Contents carried by RESYNC messages (table Resynchronisation steps). -/
inductive ResyncMsg
  | admission (ok : Bool)
  | config (cfg : Cfg) (prog : Option ProgImage) (set : Option ProtSet) (setDigest : List Byte) (owner : List Byte) (sigOk : Bool)
  | time (pt : PlantTime) (ptValid : Bool) (count : Nat) (offset : Nat) (pairOffset : Int)
  | cut (boundary : Nat) (journal : List JEntry) (items : List (Nat × ItemSt)) (forces : List Force) (tasks : List Task)
      (gen : Nat) (slots : List Slot) (groups : List Group)
      (stages : List Stage) (friction ripple : List (List F32)) (est : EstCopy) (streams : List Stream)
      (cyclic : List (Nat × Nat × Nat)) (served : List RefPair)
  | live (jsn : Nat)
  | follow (cycles : Nat)
  | standby
  deriving DecidableEq, Repr

/-- A signed artefact as the envelope gives it (table Artefact envelope): the fields, the body and the signature. -/
structure Artefact where
  format : Nat
  type : Nat
  keyIdx : Nat
  serial : Nat
  pairId : Nat
  notAfter : Option PlantTime
  issueSeq : Nat
  body : List Byte
  sig : List Byte
  deriving DecidableEq, Repr

/-- Image header of a firmware image (table Image header). -/
structure ImageHdr where
  version : Nat
  minPeer : Nat
  svn : Nat
  proto : Nat
  protoMin : Nat
  raiseFloor : Bool
  full : Bool
  targetLen : Nat
  confirmS : Nat
  baseDigest : List Byte
  targetDigest : List Byte
  deriving DecidableEq, Repr

/-- Boot slot states (R543). -/
inductive SlotState | empty | writing | trial | imago | chrysalis | factory | invalid
  deriving DecidableEq, Repr

/-- The code of a boot slot state, in the order of the table. -/
def SlotState.code : SlotState → Nat
  | .empty => 0 | .writing => 1 | .trial => 2 | .imago => 3 | .chrysalis => 4 | .factory => 5 | .invalid => 6

end Sys2Proof
end

