-- ==== Sys2Proof/Syntax.lean ====
section
/-! DEFINITION. The commands of the block: one constructor per row of spec/opcode_table.json, in the table's order, with
what the outside supplies as operands. `w` names the operation or the accepted work that an engine carries out. -/

namespace Sys2Proof

/-- The commands (spec/opcode_table.json). `q` is the requester of a register access, `v` the word written. -/
inductive Instr
  -- register access (17_register_map.md)
  | registerWrite (q : Requester) (addr : Nat) (v : Word)
  | wideReadLatch (q : Requester) (addr : Nat)
  | angNowRead (q : Requester)
  | mapRead (q : Requester)
  | ptNowRead (q : Requester)
  | calReadFreeze (q : Requester) (which : Nat)
  | registerBadAccess (q : Requester) (addr size : Nat)
  | lockOpen (q : Requester) (block key : Nat)
  | lockClose (q : Requester) (block key : Nat)
  | lockTimeout (block : Nat)
  -- architecture (01_architecture.md)
  | longOpStep (w : WorkRef) (total : Nat) (last : Bool)
  | opComplete (tag : Nat)
  | tagGrant (issuer : Nat)
  | unitLost (u : UnitId)
  | unitRestored (u : UnitId)
  | inputStale (i : StaleInput)
  -- power and insertion (02_module_power_and_insertion.md)
  | insertion (prechargeMv : Nat)
  | strapRead (selA selB : Bool) (carrier : Nat)
  | holdupMeasure (found : Option (Nat × Nat))
  | holdupLost (volt : Nat)
  | holdupRestored (volt : Nat)
  | feedLost (b : Bool) (volt : Nat)
  | feedRestored (b : Bool) (volt : Nat)
  | powerFail (goodFor1ms : Bool) (dipUs : Nat)
  | powerFailFlushDone
  | presentLost
  | ejectReq
  | pullOk
  | leverReturn
  -- clocks (03_grid_angle_clock_and_plant_time.md)
  | angSrcLost
  | angFallback (freq : Nat) (d : Int)
  | angSrcReturn (freq : Nat) (d : Int)
  | angLocked
  | angSrcSwitch (q : Requester) (v : Word) (freq : Nat) (d : Int)
  | slewDone
  | cycleBoundary (src : Option (Nat × Int))
  | mapRecord
  | cycleSeed (src : SeedFrom)
  | ptpSyncRx (f : PtpForm) (offset : Int)
  | ptpAnnounceRx (f : PtpForm) (master : Nat) (utc : Option Nat)
  | ptMasterLost
  | ptSoftStep (q : Requester) (v : Word)
  | frameLaunch (id : Nat)
  | alarmArm (q : Requester) (n : Nat) (v : Word)
  | alarmDisarm (q : Requester) (n : Nat) (v : Word)
  | alarmFire (n : Nat)
  | calDateStage (q : Requester) (v : Word)
  | calCommit (q : Requester) (v : Word)
  | calTick
  | rtcTrimUpdate (temp : Nat)
  | backupMeasure (volt : Nat) (weak : Bool)
  | backupSwitchover
  | rtcLost (retention : Bool)
  | calendarAlarm
  -- rings, queues and events (04_rings_queues_and_events.md)
  | ringClaim (q : Requester) (n : Nat) (v : Word)
  | ringRelease (q : Requester) (n : Nat) (v : Word)
  | queueEnable (q : Requester) (n : Nat) (v : Word)
  | queueDisable (q : Requester) (n : Nat) (v : Word)
  | hqKick (q : Requester) (v : Word)
  | doorbellPoll
  | ringFetch
  | ringErrClear (q : Requester) (n : Nat)
  | descIssue (ring : Nat)
  | nop (w : WorkRef)
  | abort (w : WorkRef)
  | drain (w : WorkRef)
  | timedDescDue (w : WorkRef)
  | shadowPairComplete (ring submitId : Nat)
  | queuePtrReset (n pointer : Nat) (ownCopyOk partnerCopyOk : Bool)
  | queueStale (n : Nat)
  | wordPacketDone (n type : Nat) (trunc : Bool) (bytes : List Byte)
  | portRead (q : Requester) (n : Nat)
  | legacyPopRead (q : Requester) (n : Nat)
  | legacyPopTimeout (n : Nat)
  | evtRouteWrite (q : Requester) (src : Nat) (v : Word)
  | evtPendClear (q : Requester) (k : Nat) (v : Word)
  | evtSoft (q : Requester) (v : Word)
  | evtHostEoi (q : Requester) (v : Word)
  | evtHostMaskWrite (q : Requester) (v : Word)
  | msixMaskWrite (vec : Nat) (mask : Bool)
  | msixMessage (src : Nat)
  | hostLinkUp
  | hostPortReset
  -- pair operation (05_pair_operation.md)
  | heartbeatTx
  | heartbeatRx (crcOk : Bool) (hb : HbBody)
  | heartbeatMissed
  | helloTx
  | helloRx (crcOk : Bool) (gen : Nat) (h : HelloBody)
  | manifestRx (crcOk : Bool) (msgSeq : Nat) (m : ManPart)
  | fetchRx (crcOk : Bool) (gen : Nat) (f : FetchOf)
  | fetchDataRx (crcOk : Bool) (gen : Nat) (e : ManEntry) (content : List Byte) (checkOk : Bool)
  | followerCycleStart (task : Nat) (distUs : Nat)
  | outputDigestRx (crcOk : Bool) (gen cycle : Nat) (digests : List (Nat × List Byte))
  | journalRx (crcOk : Bool) (msgSeq gen : Nat) (solo : Bool) (entries : List JEntry)
  | journalAckRx (crcOk : Bool) (gen jsn : Nat)
  | journalStall
  | journalStreamWrite (bytes : Nat)
  | checkpointWrite
  | orderedSend (stream : Nat) (payload : List Byte)
  | streamAckRx (stream epoch seq reason : Nat)
  | ordAckTimeout (stream : Nat)
  | ordAckJournal (stream : Nat)
  | renewTx
  | refereeReplyTimeout
  | grantRx (checkOk : Bool) (seq gen termUs : Nat)
  | denyRx (checkOk : Bool) (seq rstatus holder gen : Nat)
  | statusRx (checkOk : Bool) (seq holder gen bootEpoch : Nat)
  | probeTx
  | requestRepeat
  | leaseExpiry
  | consentAskRx (crcOk : Bool) (gen termUs : Nat)
  | consentGiveRx (crcOk : Bool) (gen termUs : Nat)
  | consentRefuseRx (crcOk : Bool) (gen : Nat)
  | consentLapse
  | leaseWdWrite (q : Requester) (v : Word)
  | fenceWdExpiry
  | handoverPlan (q : Requester) (v : Word)
  | plannedHandoverStart
  | handoverOfferRx (crcOk : Bool) (gen jsn : Nat)
  | handoverReadyRx (crcOk : Bool) (gen : Nat)
  | handoverGoRx (crcOk : Bool) (gen : Nat)
  | handoverDoneRx (crcOk : Bool) (gen : Nat)
  | handoverAbandonRx (crcOk : Bool) (gen : Nat)
  | handoverReadyTimeout
  | powerFailNoticeRx (crcOk : Bool) (gen jsn : Nat)
  | resyncRx (crcOk : Bool) (gen : Nat) (m : ResyncMsg)
  | resyncStep (ok : Bool)
  | wbLaneDown (l : Nat)
  | drillDue
  | drillDwellEnd
  | refereeMsgRx (m : RefMsg) (checkOk : Bool) (same : Option (RefMsg × Bool))
  | refereeStartupHoldEnd
  -- cores, MPU and debug (06_control_cores_and_protection_units.md)
  | lockstepMismatch (pair cause port v1 v2 pc : Nat)
  | comparatorSelftest (pair : Nat) (detected : Bool)
  | coreSelftestDone (pair : Nat) (pass : Bool)
  | coreAccess (pair : Nat) (second : Bool) (priv : Priv) (kind addr size data : Nat) (corrected : Bool)
  | mpuSync (q : Requester) (m : Nat)
  | mpuSyncDone (m : Nat)
  | mpuDrainDone (m : Nat)
  | debugAccess (write : Bool) (addr : Nat) (v : Word)
  | debugHalt (pair : Nat)
  | dmCommand (write : Bool) (reg : Nat) (v : Word)
  | debugTokenGo (q : Requester)
  | debugRelock (q : Requester)
  | debugUnlockExpiry
  -- control programs (07_control_program_execution.md)
  | cycleStart (cycleUs : Nat)
  | task0End (writes : List (Nat × Nat)) (calls : List FbCall)
  | taskRelease (t : Nat) (di : Nat) (ai : List Nat)
  | taskReleaseEnd (t : Nat) (writes : List (Nat × Nat)) (calls : List FbCall)
  | stationReplyRx (station pairId mac echo : Nat) (points : List Word)
  | scanTimeout (di : Nat) (ai : List Nat)
  | restart (w : WorkRef)
  | instarPrepare (w : WorkRef) (img : ProgImage) (memOk runtimeOk typesOk : Bool)
  | instarLoad (w : WorkRef)
  | instarBind (w : WorkRef)
  | instarSwitch (w : WorkRef)
  | instarConfirm (w : WorkRef)
  | instarAbandon (w : WorkRef)
  | instarConfirmExpiry
  | forceSet (w : WorkRef)
  | forceRemove (w : WorkRef)
  | forceList (w : WorkRef)
  -- loop engine (08_loop_engine.md)
  | loopSample (slot : Nat) (stamp : Nat) (late : Bool) (skips : Nat)
  | loopBundleTx (window : Nat) (ai : List Nat)
  | slotWrite (w : WorkRef)
  | slotEnable (w : WorkRef)
  | setTarget (w : WorkRef)
  | groupWrite (w : WorkRef)
  | outWrite (w : WorkRef)
  | tableLoad (w : WorkRef)
  | slotRead (w : WorkRef)
  -- Silkline (09_silkline_cell_rings.md)
  | strobeLaunch (ring : Nat)
  | sampleRx (ring pos : Nat) (crcOk : Bool) (smp : Sample)
  | sampleTimeout (ring pos : Nat)
  | sweepPartDone (ring us : Nat)
  | halfRingRx (crcOk : Bool) (gen : Nat) (b : HalfBody)
  | halfRingTimeout (ring : Nat)
  | breakRx (ring pos : Nat) (sideB : Bool)
  | ringInputDown (ring : Nat)
  | ringInputUp (ring : Nat)
  | breakHeal (ring : Nat)
  | alarmSymbolRx (ring : Nat)
  | alarmFrameRx (ring pos cause channel reading epoch : Nat)
  | alarmUnnamed (ring : Nat)
  | commandWindow (ring : Nat)
  | nodeAckRx (ring pos cseq gen8 result : Nat) (readings : List Nat)
  | nodeAckTimeout (ring pos : Nat)
  | echoCheck (ring : Nat)
  | latchRemeasure (ring : Nat)
  | echoReplyRx (ring pos rttNs : Nat)
  | idRx (ring pos nodeId : Nat) (ntype : NType) (cells hopA hopB : Nat)
  | tapTestAuto (ring : Nat)
  | ringEnumerate (w : WorkRef) (hops : Nat) (answered : List Nat)
  | nodeCmd (w : WorkRef)
  | sweepCopy (w : WorkRef)
  | tapTest (w : WorkRef)
  | diagRead (w : WorkRef) (body : List Byte)
  -- estimator (10_cell_state_estimation_and_balancing.md)
  | strobeUpdate (ring epoch : Nat) (arrayUs : Nat)
  | quantityPublish (epoch : Nat)
  | paramUpdate (epoch : Nat)
  | summary (epoch : Nat)
  | balancingPlan (epoch : Nat)
  | cocoonCheckSweep (ring : Nat) (hours : Nat)
  | cocoonWake (cause : Nat)
  | cellRead (w : WorkRef)
  | cellReset (w : WorkRef)
  | historyRead (w : WorkRef)
  | lifetimeRead (w : WorkRef)
  | planRead (w : WorkRef)
  -- protection and dispatch (11_protection_thermal_control_and_dispatch.md)
  | missLimit (string : Nat)
  | missTrip (string : Nat)
  | protNoticeRx (crcOk : Bool) (gen groups cause ring pos channel epoch : Nat)
  | auxConfirmTimeout (g : Nat)
  | protFrameTx
  | gooseRetransmit
  | protStage (w : WorkRef)
  | protCommit (w : WorkRef)
  | protDiscard (w : WorkRef)
  | protReset (w : WorkRef)
  | protTest (w : WorkRef) (ownOff partnerOff confirmOpen : Bool)
  | protRead (w : WorkRef)
  | dspReport
  | dspAlloc
  | setpointFrameRx (sp : SetPoint) (epoch seq : Nat)
  | dspFallback
  | dspFfr
  | dspPlantSet (w : WorkRef)
  | dspWorkerEnable (w : WorkRef)
  -- local field I/O (12_local_field_io.md)
  | fieldSupplyLost (privileged : Bool) (volt : Nat)
  | fieldSupplyGood (privileged : Bool) (volt : Nat)
  | diFilterChange (n : Nat) (level : Bool) (stamp : Nat)
  | doFault (n : Nat) (high atLimit : Bool)
  | darkTest (n : Nat)
  | darkTestEnd (n : Nat) (fellLow : Bool) (alsoFell : List Nat)
  | doShort (n : Nat)
  | doRetry (n : Nat) (stillShort : Bool)
  | doReset (w : WorkRef)
  | aiOverload (n : Nat)
  | aiOverloadRetry (n : Nat) (current : Nat)
  | aoOpen (n : Nat)
  | aoOpenEnd (n : Nat)
  | aoCompliance (n headroom : Nat)
  | aoComplianceEnd (n headroom : Nat)
  | makeupStart (n : Nat)
  | makeupEnd (n : Nat)
  | gsOverrange (ovr : Nat)
  | calEnable (q : Requester) (v : Word)
  | selKeyPress
  | selKeyHold
  | calKeyPress
  | calKeyHold
  | hartCmd (w : WorkRef) (reply : Option (List Byte))
  | aoTrim (w : WorkRef)
  -- CAN and network (13_can_and_plant_network.md)
  | canRx (port : Nat) (f : CanFrame)
  | canTxComplete (port : Nat) (sent err : Bool)
  | canBusOff (port : Nat)
  | canRecoverWrite (q : Requester) (port : Nat) (v : Word)
  | canRecover (w : WorkRef)
  | canRecoveryDone (port : Nat)
  | canSleep (q : Requester) (port : Nat) (v : Word)
  | canWake (port : Nat)
  | canSend (w : WorkRef)
  | canFilter (w : WorkRef)
  | netSend (w : WorkRef)
  | gateLoad (w : WorkRef)
  | gateListSwitch (port : Nat)
  | netPortDown (port : Nat)
  | netModuleRefused (port : Nat)
  | supervisionTx
  | svSampleRx (datasetOk qualityOk globalSync : Bool) (smpCnt : Nat) (per256 : Bool)
  | mgmtOpen (authOk : Bool)
  | mgmtClose
  | svcLinkChange (up : Bool)
  | wakeFrameRx (etype w0 w1 : Nat)
  -- storage and recorder (14_storage_integrity_and_event_recorder.md)
  | dramUe (addr : Nat) (user : DramUser)
  | dramCeHigh (count : Nat)
  | dramPatrolLap (minutes : Nat)
  | scrubLap (hours : Nat) (reads : List (Nat × Nat × Nat × Bool))
  | bootSlotVerify (ok0 ok1 ok2 : Bool)
  | counterFlush
  | logRecord (code sev source : Nat) (body : List Byte)
  | recorderFlush
  | nvsRead (w : WorkRef) (reads : List (Nat × Nat × Nat))
  | nvsWrite (w : WorkRef)
  | nvsErase (w : WorkRef)
  | nvsCounters (w : WorkRef)
  | logWrite (w : WorkRef)
  | logExport (w : WorkRef)
  | logClear (w : WorkRef)
  -- security and update (15_security_and_field_update.md)
  | secAttest (w : WorkRef)
  | secVerify (w : WorkRef)
  | secOwner (w : WorkRef)
  | updPrepare (w : WorkRef) (partnerTrial : Bool)
  | updActivate (w : WorkRef)
  | updActivateDue
  | updConfirm (w : WorkRef)
  | updAutoConfirm
  | updAbandon (w : WorkRef)
  | updConfirmExpiry
  -- modes, start-up and faults (16_modes_start_up_and_faults.md)
  | bootStart (ok0 ok1 ok2 : Bool)
  | bootStageVerified (stage : Nat) (digest : List Byte) (s3 : Stage3) (rebuilt : List JEntry) (flushMarker : Bool) (lost : List Nat)
  | bootWatchdog
  | peerWaitExpiry
  | restartReset (cause : Nat)
  | sysRestart (q : Requester) (v : Word)
  | sysEnterService (q : Requester) (v : Word)
  | safeHoldExitWarm (q : Requester) (v : Word)
  | safeHoldExitCold (q : Requester) (v : Word)
  | plantStartColdSet (q : Requester) (v : Word)
  | plantStartColdClear (q : Requester) (v : Word)
  | configStop (q : Requester) (v : Word)
  | cocoonEnter (w : WorkRef)
  | cocoonPlanTimeout
  | cocoonResume (digestOk : Bool)
  | cocoonRequestTimeout
  | moduleOvertemp (inlet : Int)
  -- the table's added rows
  | powerOnReset
  | partnerPresentChange (present : Bool)
  | wbLaneUp (l : Nat)
  | netPortUp (port : Nat) (tenGig : Bool)
  | hostLinkDown
  | workerReportRx (r : WorkerReport) (stream epoch seq : Nat)
  | hsrFrameRx (port src dst id : Nat) (forUs multicast : Bool) (frame : List Byte)
  | aoSelfTestFail (n : Nat)
  | faultFlashEnd
  deriving DecidableEq, Repr

end Sys2Proof
end

