-- ==== Sys2Proof/Decode.lean ====
section
/-! DEFINITION. The command a word spells by the bits of spec/opcode_table.json. No row of the table gives bits: the block takes its
commands from outside, with their operands, and has no instruction words. -/

namespace Sys2Proof

/-- The rows of the table that give bits: none. -/
def tableRows : List (Nat × Nat × Nat × Instr) := []

/-- The command spelled by a word of `nbits` bits: that of the row whose mask and pattern it matches. -/
def decodeTableWord (nbits w : Nat) : Option Instr :=
  (tableRows.find? fun r => decide (r.1 = nbits ∧ w &&& r.2.1 = r.2.2.1)).map fun r => r.2.2.2

end Sys2Proof
end

