-- ==== Sys2Proof/Machine/Crypto.lean ====
section
/-! DEFINITION. The checks the chapters name by published standard: CRC-32 (IEEE 802.3), CRC-16 with polynomial 0x1021, SHAKE256, and
the verification of an Ed448 signature (RFC 8032, empty context; R573). -/

namespace Sys2Proof.Machine

/-- One bit of the reflected CRC-32. -/
def crcBits : Nat → Nat → Nat
  | 0, c => c
  | k + 1, c => crcBits k (if c % 2 = 1 then Nat.xor (c / 2) 0xEDB88320 else c / 2)

/-- CRC-32 of a list of bytes, IEEE 802.3 polynomial. -/
def crc32 (l : List Byte) : Nat := Nat.xor (l.foldl (fun c b => crcBits 8 (Nat.xor c b.toNat)) 0xFFFFFFFF) 0xFFFFFFFF

/-- One bit of the CRC-16 with polynomial 0x1021, highest bit first. -/
def crc16Bits : Nat → Nat → Nat
  | 0, c => c
  | k + 1, c => crc16Bits k (if 0x8000 ≤ c then Nat.xor (2 * c % 0x10000) 0x1021 else 2 * c)

/-- CRC-16, polynomial 0x1021, initial value 0xFFFF (table Backplane referee message). -/
def crc16 (l : List Byte) : Nat := l.foldl (fun c b => crc16Bits 8 (Nat.xor c (b.toNat * 256))) 0xFFFF

/-- A 64-bit word turned left by r. -/
def rotl (w r : Nat) : Nat := w * 2 ^ r % 2 ^ 64 + w / 2 ^ (64 - r)

/-- Lane i of a sponge state, lane x + 5 y of the 5 by 5 array. -/
def lane (a : List Nat) (i : Nat) : Nat := a.getD i 0

/-- Exclusive or of the lanes whose numbers a list gives. -/
def xorLanes (a : List Nat) (l : List Nat) : Nat := l.foldl (fun v i => Nat.xor v (lane a i)) 0

/-- Every lane made over by its number. -/
def mapLanes (f : Nat → Nat) : List Nat := (List.range 25).map f

/-- Parities of the columns go into both neighbours. -/
def spread (a : List Nat) : List Nat :=
  let par := (List.range 5).map fun x => xorLanes a ((List.range 5).map fun y => x + 5 * y)
  mapLanes fun i => Nat.xor (lane a i) (Nat.xor (lane par ((i + 4) % 5)) (rotl (lane par ((i + 1) % 5)) 1))

/-- The lanes of `a` turned and moved along the walk (x, y), (y, 2 x + 3 y): the t-th lane turns by (t + 1) (t + 2) / 2. -/
def turnWalk (a : List Nat) : Nat → Nat → Nat → List Nat → List Nat
  | 0, _, _, b => b
  | k + 1, x, y, b =>
    let z := (2 * x + 3 * y) % 5
    turnWalk a k y z (b.set (y + 5 * z) (rotl (lane a (x + 5 * y)) ((24 - k) * (25 - k) / 2 % 64)))

/-- Each lane joined with the two that follow it in its row. -/
def mixRows (b : List Nat) : List Nat :=
  mapLanes fun i =>
    let row := i - i % 5
    let n := lane b (row + (i + 1) % 5)
    Nat.xor (lane b i) (Nat.land (Nat.xor n (2 ^ 64 - 1)) (lane b (row + (i + 2) % 5)))

/-- The register x^8 + x^6 + x^5 + x^4 + 1 that gives the bits of the round constants, one step on. -/
def lfsrNext (r : Nat) : Nat := if 128 ≤ r then Nat.xor (2 * r) 0x171 else 2 * r

/-- Bits 2^j - 1 of a round constant for the j from `7 - k` on, and the register after them. -/
def roundBits : Nat → Nat → Nat × Nat
  | 0, r => (0, r)
  | k + 1, r =>
    let (v, r') := roundBits k (lfsrNext r)
    (v + r % 2 * 2 ^ (2 ^ (6 - k) - 1), r')

/-- The rounds of the permutation from a state of the register. -/
def keccakRounds : Nat → Nat → List Nat → List Nat
  | 0, _, a => a
  | k + 1, r, a =>
    let (rc, r') := roundBits 7 r
    let t := spread a
    let m := mixRows (turnWalk t 24 1 0 t)
    keccakRounds k r' (m.set 0 (Nat.xor (lane m 0) rc))

/-- The permutation of 24 rounds. -/
def keccakF (a : List Nat) : List Nat := keccakRounds 24 1 a

/-- A block of 136 bytes taken into the state. -/
def absorb (a : List Nat) (blk : List Byte) : List Nat :=
  keccakF ((List.range 25).map fun i => if i < 17 then Nat.xor (lane a i) (leField blk (8 * i) 8) else lane a i)

/-- The blocks of a padded message, at most n of them. -/
def absorbAll : Nat → List Nat → List Byte → List Nat
  | 0, a, _ => a
  | n + 1, a, l => absorbAll n (absorb a (l.take 136)) (l.drop 136)

/-- SHAKE256 of a message, up to 136 bytes of output. -/
def shake256 (out : Nat) (m : List Byte) : List Byte :=
  let r := 136 - m.length % 136
  let pad : List Byte := if r = 1 then [0x9F#8] else [0x1F#8] ++ List.replicate (r - 2) 0 ++ [0x80#8]
  let a := absorbAll (m.length / 136 + 1) (List.replicate 25 0) (m ++ pad)
  (((List.range 17).map fun i => leBytes 8 (lane a i)).flatten).take out

/-- A digest of the manual: 64 bytes of SHAKE256 (R573). -/
def digest (m : List Byte) : List Byte := shake256 64 m

/-- The prime of the field. -/
def edP : Nat := 2 ^ 448 - 2 ^ 224 - 1

/-- The order of the base point. -/
def edL : Nat := 2 ^ 446 - 13818066809895115352007386748515426880336692474882178609894547503885

/-- b^e mod p, over at most `fuel` bits of e. -/
def powMod (p : Nat) : Nat → Nat → Nat → Nat
  | 0, _, _ => 1
  | fuel + 1, b, e =>
    let h := powMod p fuel (b * b % p) (e / 2)
    if e % 2 = 1 then b * h % p else h

/-- The constant d = -39081. -/
def edD : Nat := edP - 39081

/-- A point in projective coordinates. -/
structure EdPoint where
  x : Nat
  y : Nat
  z : Nat
  deriving DecidableEq, Repr

/-- The sum of two points. -/
def EdPoint.add (p q : EdPoint) : EdPoint :=
  let a := p.z * q.z % edP
  let b := a * a % edP
  let c := p.x * q.x % edP
  let d := p.y * q.y % edP
  let e := edD * c % edP * d % edP
  let f := (b + edP - e) % edP
  let g := (b + e) % edP
  let h := (p.x + p.y) * (q.x + q.y) % edP
  ⟨a * f % edP * (h + 2 * edP - c - d) % edP, a * g % edP * (d + edP - c) % edP, f * g % edP⟩

/-- n times a point, over at most `fuel` bits of n. -/
def EdPoint.smul : Nat → Nat → EdPoint → EdPoint
  | 0, _, _ => ⟨0, 1, 1⟩
  | fuel + 1, n, p =>
    let h := EdPoint.smul fuel (n / 2) (p.add p)
    if n % 2 = 1 then h.add p else h

/-- The base point. -/
def edB : EdPoint :=
  ⟨224580040295924300187604334099896036246789641632564134246125461686950415467406032909029192869357953282578032075146446173674602635247710,
   298819210078481492676017930443930673437544040154080242095928241372331506189835876003536878655418784733982303233503462500531545062832660, 1⟩

/-- The point that 57 bytes encode. -/
def edDecode (l : List Byte) : Option EdPoint :=
  let n := leNat l
  let y := n % 2 ^ 455
  let sgn := n / 2 ^ 455
  if l.length ≠ 57 ∨ edP ≤ y then none
  else
    let u := (y * y + edP - 1) % edP
    let v := (edD * (y * y % edP) + edP - 1) % edP
    let u3v := u * u % edP * u % edP * v % edP
    let x := u3v * powMod edP 448 (u3v * (u * u % edP) % edP * (v * v % edP) % edP) ((edP - 3) / 4) % edP
    if v * (x * x % edP) % edP ≠ u then none
    else if x = 0 ∧ sgn = 1 then none
    else some ⟨if x % 2 = sgn then x else edP - x, y, 1⟩

/-- The two points are one. -/
def EdPoint.same (p q : EdPoint) : Bool :=
  (p.x * q.z % edP == q.x * p.z % edP) && (p.y * q.z % edP == q.y * p.z % edP)

/-- An Ed448 signature verifies (RFC 8032, empty context). -/
def ed448Verify (key msg sig : List Byte) : Bool :=
  match edDecode key, edDecode (sig.take 57) with
  | some a, some r =>
    let s := leNat (sig.drop 57)
    let dom : List Byte := [0x53#8, 0x69#8, 0x67#8, 0x45#8, 0x64#8, 0x34#8, 0x34#8, 0x38#8, 0#8, 0#8]
    let k := leNat (shake256 114 (dom ++ sig.take 57 ++ key ++ msg)) % edL
    if sig.length ≠ 114 ∨ edL ≤ s then false
    else (EdPoint.smul 3 4 (EdPoint.smul 446 s edB)).same (EdPoint.smul 3 4 (r.add (EdPoint.smul 446 k a)))
  | _, _ => false

end Sys2Proof.Machine
end

