-- ==== Sys2Proof/Machine/Records.lean ====
section
/-! DEFINITION. The recorder's records by name, with the CODE and SEV of the table Fault records (16_modes_start_up_and_faults.md, R612). -/

namespace Sys2Proof

/-- Every record that a rule names. `software` is a record made through LOG_WRITE or offered by LOG_RECORD. -/
inductive RecName
  | unitLost | guaranteeBroken | dramUe | cfgInvalid | moduleOvertemp | bootWatchdog | coldStart | powerFail | holdupLost
  | strapFault | carrierMismatch | feedLost | extractRefused | angSrcLost | ptMasterLost | rtcLost | queuePtrReset
  | leaseLost | refereeUnreachable | journalStall | shadowMismatch | shadowPersist | drillFail | incompatiblePeer
  | handoverAbandoned | followLag | journalFull | journalSuperseded | lockstepMismatch | comparatorFault | corePairRetired
  | mpuFault | taskOverrun | stationLost | loopStale | ringBreak | enumFail | nodeCmdFail | openTap | modelInvalid
  | leakAlert | protTrip | contactorFail | protLimit | protWarn | dspReportMissing | doFault | doShort | fieldSupplyLost
  | aoFault | aiOverload | canBusOff | netPortDown | nvsUncorrectable | bootSlotBad | recorderGap | recorderDropped
  | logCleared | sigFail | bootStageFail | rollbackRefused | updFallback | debugDenied | writeRefused | tripNetUnsent
  | feedRestored | feedDip | holdupRestored | keyIgnored | svRefused | angDiverge | cycleAhead | mapRec | ptStep
  | backupWeak | journalFullEnd | resyncDone | drillPass | drillSkipped | corePairRestored | debugUnlock | debugRelock
  | stationBack | taskMoved | prgRestart | prgRefused | forceSet | forceRemoved | instarReverted | instarSwitch | loopExtSat
  | loopExtSatEnd | loopConflict | loopRefused | nodeMismatch | strobeAdjusted | sweepLag | ringOneEnded | ringRestored
  | tapTestFail | stackDisagree | estLag | estReinit | paramClamp | leakSuspect | cellAnomaly | rsOutlier | cellReplaced
  | cocoonWake | alarmUnnamed | protTripAdd | protReset | protStaged | protCommitted | protNodesDone | protTestPass
  | protTestFail | dspSetpoint | dspLate | dspEpochFar | dspFallback | localDiverge | diChange | doWiredTogether
  | gsOverrange | aoTrim | aoTrimLost | canRxOverrun | canWake | netModuleRefused | mgmtOpen | mgmtClose | dramCeHigh
  | nvsFixHigh | cfgLocalLost | scrubLap | scrubSlow | logClearRefused | ownerEnrolled | ownerMismatch | bootFactory
  | updPrepared | updActivated | updConfirmed | updConfirmExpired | svnFuseExhausted | modeChange | restartRec | configStop
  | software
  deriving DecidableEq, Repr

/-- The records of the table Fault records with CODE and SEV. -/
def faultRecords : List (RecName × Nat × Nat) := [
  (.unitLost, 0x0001, 2),
  (.guaranteeBroken, 0x0002, 3),
  (.dramUe, 0x0003, 2),
  (.cfgInvalid, 0x0004, 3),
  (.moduleOvertemp, 0x0005, 2),
  (.bootWatchdog, 0x0006, 3),
  (.coldStart, 0x0007, 1),
  (.powerFail, 0x0101, 3),
  (.holdupLost, 0x0102, 2),
  (.strapFault, 0x0103, 3),
  (.carrierMismatch, 0x0104, 3),
  (.feedLost, 0x0105, 1),
  (.extractRefused, 0x0106, 1),
  (.angSrcLost, 0x0201, 1),
  (.ptMasterLost, 0x0202, 1),
  (.rtcLost, 0x0301, 1),
  (.queuePtrReset, 0x0401, 2),
  (.leaseLost, 0x0601, 2),
  (.refereeUnreachable, 0x0602, 2),
  (.journalStall, 0x0603, 2),
  (.shadowMismatch, 0x0604, 2),
  (.shadowPersist, 0x0605, 3),
  (.drillFail, 0x0606, 3),
  (.incompatiblePeer, 0x0607, 3),
  (.handoverAbandoned, 0x0608, 1),
  (.followLag, 0x0609, 1),
  (.journalFull, 0x060A, 1),
  (.journalSuperseded, 0x060B, 1),
  (.lockstepMismatch, 0x0701, 2),
  (.comparatorFault, 0x0702, 3),
  (.corePairRetired, 0x0703, 2),
  (.mpuFault, 0x0704, 2),
  (.taskOverrun, 0x0801, 1),
  (.stationLost, 0x0802, 2),
  (.loopStale, 0x0901, 1),
  (.ringBreak, 0x0A01, 2),
  (.enumFail, 0x0A02, 2),
  (.nodeCmdFail, 0x0A03, 1),
  (.openTap, 0x0A04, 2),
  (.modelInvalid, 0x0B01, 3),
  (.leakAlert, 0x0B02, 2),
  (.protTrip, 0x0C01, 3),
  (.contactorFail, 0x0C02, 3),
  (.protLimit, 0x0C03, 1),
  (.protWarn, 0x0C04, 1),
  (.dspReportMissing, 0x0D01, 1),
  (.doFault, 0x0E01, 2),
  (.doShort, 0x0E02, 2),
  (.fieldSupplyLost, 0x0E03, 2),
  (.aoFault, 0x0F01, 2),
  (.aiOverload, 0x0F02, 2),
  (.canBusOff, 0x1001, 2),
  (.netPortDown, 0x1101, 1),
  (.nvsUncorrectable, 0x1201, 2),
  (.bootSlotBad, 0x1202, 2),
  (.recorderGap, 0x1301, 2),
  (.recorderDropped, 0x1302, 1),
  (.logCleared, 0x1303, 1),
  (.sigFail, 0x1401, 2),
  (.bootStageFail, 0x1402, 3),
  (.rollbackRefused, 0x1403, 3),
  (.updFallback, 0x1501, 2),
  (.debugDenied, 0x1601, 1)]

/-- CODE and SEV of a fault record; none for a record of SEV info, whose code stands in the image's code table (R612). -/
def RecName.fault (n : RecName) : Option (Nat × Nat) := assocGet faultRecords n

end Sys2Proof
end

