-- ==== Sys2Proof/Machine/State.lean ====
section
/-! DEFINITION. The state of the module as plain data, one structure per register block (17_register_map.md, R613), the
reasons a step can stop, and the state after power-on reset. Writable register bits are in `regs`, keyed by core address;
what a register shows of the machine is computed from the fields here. -/

namespace Sys2Proof.Machine

/-- Reasons the block stops with a fault. The spec gives the block no stop: every error is a completion, a record, an event, a
mode or a bus response, so nothing raises a fault; safe. -/
inductive Fault : Type
  deriving DecidableEq, Repr

/-- Reasons the model gives a command no meaning. -/
inductive Refusal
  /-- The command has no meaning in the model yet, by its mnemonic; safe. -/
  | notModelled (mnemonic : String)
  deriving DecidableEq, Repr

/-- How a bus answered (R615). -/
inductive BusErr | ok | busError | accessFault | unsupported | waiting
  deriving DecidableEq, Repr

/-- The answer to the last read or refused access: the model's own field. -/
structure Resp where
  req : Requester
  value : Nat
  err : BusErr
  deriving DecidableEq, Repr

/-- Bodies of Wingbeat messages sent (table Wingbeat messages, R453). -/
inductive WbMsg
  | heartbeat (b : HbBody)
  | manifest (m : ManPart)
  | fetch (e : ManEntry)
  | fetchMsg (type msgSeq : Nat)
  | fetchData (e : ManEntry) (content : List Byte)
  | outputDigest (cycle : Nat) (d : List (Nat × List Byte))
  | journal (solo : Bool) (es : List JEntry)
  | journalAck (gen jsn : Nat)
  | halfSamples (ring epoch angle astatus : Nat) (s : List (Nat × Sample))
  | halfState (ring epoch angle astatus break1 break2 last : Nat) (endOk : Bool) (missing : List Nat)
  | halfRelay (ring : Nat) (frame : List Byte)
  | handover (sub : Nat) (jsn : Nat)          -- 0 OFFER, 1 READY, 2 GO, 3 DONE, 4 ABANDON
  | consent (sub : Nat) (termUs : Nat)        -- 0 ASK, 1 GIVE, 2 REFUSE
  | resync (m : ResyncMsg)
  | powerFail (jsn : Nat)
  | hello (h : HelloBody)
  | protNotice (groups cause ring pos channel epoch : Nat)
  deriving DecidableEq, Repr

/-- Frames sent on the plant network. -/
inductive NetFrame
  | stream (cls stream epoch seq : Nat) (resend start : Bool) (payload : List Byte)
  | output (station cycle epoch seq : Nat) (points : List Word)
  | report (stream epoch seq : Nat) (r : WorkerReport)
  | setpoint (stream epoch seq : Nat) (sp : SetPoint)
  | goose (goId : List Byte) (appId stNum sqNum groups inhibits setSeq : Nat)
  | supervision (hsr : Bool)
  | wake (pairId : Nat)
  | raw (bytes : List Byte)
  deriving DecidableEq, Repr

/-- Frames sent on a Silkline ring end (tables Silkline frame types, Short frame bodies, CONFIG_WRITE and BALANCE bodies). -/
inductive SlkFrame
  | strobe (epoch dither : Nat)
  | read (pos epoch : Nat)
  | enum (hops n : Nat)
  | idRead (pos : Nat)
  | echo (pos : Nat)
  | diagRead (pos : Nat)
  | command (type pos cseq gen8 : Nat) (body : List Byte)
  deriving DecidableEq, Repr

/-- What the module has sent on its pins, links and buses, in order: the model's own record of outputs. -/
inductive Out
  | wb (h : WbHead) (m : WbMsg)
  | wbAgain (h : WbHead) (m : WbMsg)     -- a message sent before, again as it stood (R197)
  | referee (network : Bool) (m : RefMsg)
  | refReply (m : RefMsg)
  | msix (vec : Nat)
  | can (port : Nat) (f : CanFrame)
  | protCan (port id : Nat) (fd : Bool) (data : List Nat)
  | net (network : Nat) (prio : Nat) (f : NetFrame)
  | slk (ring : Nat) (f : SlkFrame)
  | hart (ao : Bool) (ch poll cmd : Nat) (req : List Byte)
  deriving DecidableEq, Repr

/-- SYS: modes, units, restart (16_modes_start_up_and_faults.md). -/
structure SysSt where
  mode : Mode := .inserted
  prevMode : Mode := .inserted
  modeCause : Nat := 0
  domains : Nat := 1
  unitHealth : Nat := 0
  resetCause : Nat := 1
  wdCount : Nat := 0
  cold : Bool := false
  starter : Bool := false
  inCocoon : Bool := false
  formerHolder : Bool := false
  tempInlet : Int := 0
  tempBoard : Int := 0
  variant : Nat := 1
  siliconRev : Nat := 0
  boardRev : Nat := 0
  bomRev : Nat := 0
  pciVendor : Nat := 0
  role : Bool := false
  configured : Bool := false
  dramCe : Nat := 0
  dramUe : Nat := 0
  dramCeAt : Option Nat := none           -- instant of the last DRAM_CE_HIGH
  stageAt : Nat := 0                      -- module time at which BOOT began or its last stage was verified
  cocoonAt : Nat := 0                     -- module time at which a COCOON entry sent its plan, or of the wake
  faultAt : Nat := 0                      -- module time of the last record of SEV fault or critical
  slotsAt : Option Nat := none            -- instant of the last verification of the boot slots (R544)
  countersAt : Option Nat := none         -- instant of the last writing of the page counters (R549)
  dramPatrol : Nat := 0
  dramUeAddr : Nat := 0
  safeHoldCause : Nat := 0
  faultFlash : Bool := false
  cocoonReq : Bool := false
  cocoonEntering : Bool := false
  cocoonWoke : Bool := false
  bootStage : Nat := 0
  bootStop : Bool := false
  starting : Bool := false
  restartPend : Option Nat := none       -- restart cause due after a hand-over
  exitKind : Option Bool := none         -- SAFE-HOLD exit asked for: cold?
  stopPend : Bool := false
  deriving DecidableEq, Repr

/-- Phases of the power-fail sequence. -/
inductive PfPhase | idle | declared | flushed
  deriving DecidableEq, Repr

/-- PWR: feeds, hold-up bank, carrier, extraction (02_module_power_and_insertion.md). -/
structure PwrSt where
  feedAOk : Bool := false
  feedBOk : Bool := false
  holdupOk : Bool := false
  charging : Bool := false
  rideThrough : Bool := false
  slotB : Bool := false
  strapFault : Bool := false
  strapsRead : Bool := false             -- slot and CARRIER_ID were read since the last insertion (R69)
  partnerPresent : Bool := false
  ejectReq : Bool := false
  pullOk : Bool := false
  carrierId : Nat := 0
  bankVolt : Nat := 0
  bankCap : Nat := 0
  feedA : Nat := 0
  feedB : Nat := 0
  pullFlash : Bool := false
  extraction : Bool := false
  pf : PfPhase := .idle
  feedReturned : Bool := false
  hotSwap : Bool := false
  seated : Bool := false
  onBackup : Bool := false
  deriving DecidableEq, Repr

/-- An alarm of the TB block (R132 to R138). -/
structure AlarmSt where
  armed : Bool := false
  ptBase : Bool := false
  periodic : Bool := false
  fired : Bool := false
  skipped : Bool := false
  late : Bool := false
  skipCount : Nat := 0
  due : Nat := 0
  per : Nat := 0
  lastFired : Option Nat := none
  deriving DecidableEq, Repr

/-- A frame waiting for its launch instant (R130, R131). -/
structure TimedFrame where
  id : Nat
  work : Option WorkRef
  ring : Nat := 0
  network : Nat
  prio : Nat
  timed : Bool := true
  ptBase : Bool
  due : Nat
  headed : Bool := false                 -- it has come to the head of its queue (R131)
  lateAtHead : Bool := false
  latePolicy : Bool
  bytes : List Byte
  deriving DecidableEq, Repr

/-- A word latched for a requester by a read of its series, with the count of the time base at which the latch ends (R117, R118, R142,
R618). -/
structure Latch where
  key : Nat
  addr : Nat
  word : Word
  fin : Option Nat
  deriving DecidableEq, Repr

/-- TB: the angle clock and plant time (03_grid_angle_clock_and_plant_time.md). -/
structure TbSt where
  angState : AngState := .synth
  angSrc : Nat := 0
  ang : Nat := 0
  angFrac : Nat := 0
  freq : Nat := 500000
  lockRate : Option Nat := none          -- the last rate measured in LOCKED
  goodCycles : Nat := 0                  -- cycles in a row with a phase error below 4,660 counts
  synthCycles : Nat := 0
  slewRem : Int := 0
  slewFrac : Nat := 0
  jump : Option (Nat × Nat) := none      -- the last advance at once: the clock before and after it
  svAt : Option Nat := none              -- instant of the last valid sample, in ns of plant time
  lostSrc : Option Nat := none
  seeded : Bool := false
  anchor : Anchor := { period := 1310720000000 }
  mapHist : List Anchor := []
  ptState : PtState := .unset
  ptSw : Bool := false
  pt : PlantTime := {}
  ptSub : Nat := 0
  ptAdj : Int := 0
  ptOffset : Int := 0
  master : Nat := 255
  annTimeouts : Nat := 0
  ptGood : Nat := 0
  ptBad : Nat := 0
  adjHist : List Int := []
  csr : Nat := 0
  alarms : List AlarmSt := List.replicate 32 {}
  latches : List Latch := []
  lowWords : List (Requester × Nat × Word) := []
  frames : List TimedFrame := []
  nextFrame : Nat := 0
  deriving DecidableEq, Repr

/-- A civil date and time of the RTC (R139 to R144). -/
structure Cal where
  year : Nat := 0
  month : Nat := 1
  day : Nat := 1
  hour : Nat := 0
  min : Nat := 0
  sec : Nat := 0
  deriving DecidableEq, Repr

/-- RTC: the calendar and its backup. -/
structure RtcSt where
  cal : Cal := {}
  staged : Option Word := none
  osf : Bool := true
  rangeEnd : Bool := false
  onBackupSeen : Bool := false
  backupWeak : Bool := false
  backupVolt : Nat := 0
  temp : Nat := 0
  trim : Nat := 0
  almFired : Option Nat := none
  tickFrom : Option Nat := none          -- module time of the last commit: the prescaler started again there (R143)
  lostPend : Option Bool := none         -- a loss whose RTC_LOST record waits for the recorder: by retention loss? (R148)
  deriving DecidableEq, Repr

/-- A descriptor fetched into a hardware queue and not yet issued. -/
structure Fetched where
  idx : Nat
  bytes : List Byte
  jsn : Option Nat := none
  resubmit : Bool := false
  deriving DecidableEq, Repr

/-- A packet of a word queue: its length word's fields and its words. -/
structure Packet where
  type : Nat
  trunc : Bool
  len : Nat
  words : List Word
  deriving DecidableEq, Repr

/-- A completion entry that waits for software to release a slot (R168): its descriptor, tag, status, RESULT and CFLAGS. -/
structure HeldEntry where
  desc : List Byte
  tag : Nat
  status : Nat
  result : Nat
  flags : Nat
  deriving DecidableEq, Repr

/-- Where a hardware queue holds its entries: head cache, middle in DRAM, tail cache (R179). -/
structure Caches where
  head : Nat := 0
  mid : Nat := 0
  tail : Nat := 0
  deriving DecidableEq, Repr

/-- A hardware queue and its ring (04_rings_queues_and_events.md). -/
structure Queue where
  enable : Bool := false
  kind : Bool := false
  durable : Bool := false
  auth : Bool := false
  legacyPop : Bool := false
  poll : Bool := false
  owner : Nat := 0
  sqLog2 : Nat := 0
  cqLog2 : Nat := 0
  engine : Nat := 0
  gen : Word := 0
  prod : Word := 0
  cqCons : Word := 0
  fetchIdx : Word := 0
  cqProd : Word := 0
  fetched : List Fetched := []
  packets : List Packet := []
  readable : List Word := []
  lastWord : Word := 0
  unread : Nat := 0
  underrun : Bool := false
  busy : Bool := false
  ptrReset : Bool := false
  stale : Bool := false
  evt : Bool := false
  ringErr : Bool := false
  legacyWait : Option Requester := none
  legacyFrom : Nat := 0                  -- module time at which that read began (R186)
  reported : Word := 0                   -- fetch index that the last completion entry gave as SQ_HEAD (R157)
  held : List HeldEntry := []            -- completions that wait for a free slot, oldest first (R168)
  caches : Caches := {}
  quietFrom : Nat := 0                   -- module time from which the content has stood unread (R182)
  submitted : List (Nat × List Byte) := []
  lowestSubmit : Nat := 0
  coalesce : Nat := 1
  staleUs : Nat := 100
  deriving DecidableEq, Repr

/-- An export under way: the bytes written so far, its last SEQ, records and GAPs, and whether LENGTH stopped it (R563, R564). -/
structure Export where
  len : Nat := 0
  last : Nat
  recs : Nat := 0
  gaps : Nat := 0
  full : Bool := false
  deriving DecidableEq, Repr

/-- An operation in flight: it holds a tag from issue to its completion entry (R34). -/
structure Op where
  tag : Nat
  issuer : Nat
  ring : Nat
  idx : Nat
  bytes : List Byte
  engine : Nat
  waitTime : Bool := false
  late : Bool := false
  mark : Nat := 0                        -- carried out at a clock's jump: 1 LATE (R113), 2 ALARM_SKIPPED (R133), 0 not
  shadow : Bool := false                 -- waits for the active's counterpart (R173)
  started : Bool := false
  long : Bool := false
  steps : Nat := 0
  total : Nat := 0
  done : Option (Nat × Nat) := none      -- status and RESULT, once finished
  fin : Nat := 0                         -- place in the order in which operations finished (R38)
  jsn : Option Nat := none
  seen : Nat := 0
  rules : Nat := 0                       -- fences of its engine's MPU when it was issued (R271, R275)
  issuedAng : Nat := 0                   -- angle and plant time at issue, oldest and newest SEQ of the log then (R562, R568)
  issuedPt : PlantTime := {}
  logLo : Nat := 0
  logHi : Nat := 0
  copied : Option Export := none         -- what the steps of a LOG_EXPORT have copied
  deriving DecidableEq, Repr

/-- HQ: rings, queues, tags. -/
structure HqSt where
  lastServed : Nat := 0
  faultQueue : Nat := 0
  faultPtr : Nat := 0
  queues : List Queue := List.replicate 256 {}
  ops : List Op := []
  work : List Op := []                   -- accepted work being carried out after its ACCEPTED completion
  tagWait : List (Nat × Nat) := []       -- issuers waiting for a shared tag, and the module time of each request (R35, R36)
  tagGiven : List Nat := []              -- issuers granted a tag that they have not used yet
  finished : Nat := 0                    -- operations finished so far: the next place of `Op.fin`
  deriving DecidableEq, Repr

/-- EVT: events and MSI-X. -/
structure EvtSt where
  pend : BitVec 128 := 0
  msixMask : Word := 0
  msixPba : Word := 0
  hostLink : Bool := false
  deriving DecidableEq, Repr

/-- What the module knows of its partner from HEARTBEAT. -/
structure PartnerSt where
  heard : Bool := false
  heardAt : Nat := 0
  hb : HbBody := ⟨.inserted, .none, 0, 0, 0, false, false, 0, 0, false⟩
  hello : Option HelloBody := none
  deriving DecidableEq, Repr

/-- Phases of a planned hand-over (table Planned handover). -/
inductive HoPhase | idle | planned | offered | releasing | gone | ready | requesting
  deriving DecidableEq, Repr

/-- Phases of a swap drill. -/
inductive DrillPhase | idle | going | dwell | back
  deriving DecidableEq, Repr

/-- What the signed configuration says of a stream: the session and the task that define it (R205). -/
abbrev StreamDef : Type := Option Session × Option Nat

/-- A manifest being collected by the follower, or the last one sent. -/
structure ManSt where
  task : Nat
  cycle : Nat
  angle : Nat
  parts : Nat
  held : List Nat
  jsnCut : Nat
  entries : List ManEntry
  missing : List ManEntry
  deriving DecidableEq, Repr

/-- WB: pair operation (05_pair_operation.md). -/
structure WbSt where
  lease : Lease := .none
  holderB : Bool := false
  holderValid : Bool := false
  fenced : Bool := true
  refReach : Bool := false
  refLost : Bool := false                -- found unreachable since it last answered (R228)
  missedHb : Nat := 0
  expiry : Nat := 0
  lastSent : Nat := 0
  gen : Nat := 0
  granted : Nat := 0                     -- generation of the present or last own grant (R217)
  jsn : Nat := 0
  jsnAck : Nat := 0
  cycle : Nat := 0
  followLast : Nat := 0
  followMax : Nat := 0
  followLag : Nat := 0
  shadowCount : Nat := 0
  shadowLast : Nat := 0
  mismatches : List Nat := []
  resynced : Option Nat := none
  drillResult : Nat := 0
  drillTime : Nat := 0
  drill : DrillPhase := .idle
  drillBegun : Bool := false
  resyncStep : Nat := 0
  resyncProg : Nat := 0
  refGrants : Nat := 0
  refDenies : Nat := 0
  lane0 : Bool := false
  lane1 : Bool := false
  proto : Nat := 0
  wdAlive : Bool := false
  bootEpoch : Nat := 0
  probed : Bool := false
  refSeq : Nat := 0
  outstanding : Option RefMsg := none
  sends : Nat := 0
  consentEnd : Option Nat := none
  gaveConsent : Option Nat := none
  ho : HoPhase := .idle
  hoJsn : Nat := 0
  hoReplied : Bool := false
  hoStart : Nat := 0
  drillTimes : List Nat := []
  lagRun : Nat := 0
  partner : PartnerSt := {}
  hbSent : Bool := false
  rxSeq : List (Nat × Nat) := []
  journal : List JEntry := []
  journalBytes : Nat := 0
  unwritten : Nat := 0
  journalFull : Bool := false
  dual : Bool := false
  flushMarker : Bool := true
  streams : List Stream := []
  early : List JEntry := []              -- entries that came before one still missing (R236)
  cycEpochs : List (Nat × Nat) := []     -- STREAM_EPOCH of the own CYCLIC streams (R205)
  cyclic : List (Nat × Nat × Nat) := []  -- received CYCLIC streams: epoch and highest number delivered (R206)
  manifests : List ManSt := []
  heldItems : List (ManEntry × List Byte) := []
  newItems : List ManEntry := []                 -- items of the holder that the next manifest names
  digests : List (Nat × List (Nat × List Byte)) := []
  applied : List (Nat × Nat × Nat) := []         -- JSN, status, RESULT of work a follower applied whose DONE it awaits
  digestWait : List (Nat × List (Nat × List Byte)) := []  -- the holder's digests of cycles not yet ended here
  covered : Nat := 0
  startupHold : Bool := true
  served : List RefPair := []
  partnerJsnAtFail : Option Nat := none
  deriving DecidableEq, Repr

/-- A core pair (06_control_cores_and_protection_units.md). -/
structure PairSt where
  state : Nat := 0
  selftest : Bool := false
  mismatches : List Nat := []            -- instants of the last mismatches
  lastCause : Nat := 0
  eccCe : Nat := 0
  pc : Nat := 0
  halted : Bool := false
  deriving DecidableEq, Repr

/-- A protection region (R267). -/
structure Region where
  base : Nat := 0
  attr : Word := 10
  deriving DecidableEq, Repr

/-- A memory protection unit: the current rule set and its state; the staged copy is in `regs`. -/
structure Mpu where
  cur : List Region := []
  next : List Region := []               -- the rule set that the fence under way makes current (R272)
  syncPend : Bool := false
  own : Bool := false                    -- the fence was asked by the core that this MPU checks (R273)
  fences : Nat := 0                      -- fences completed since reset (R275)
  drain : Bool := false
  syncErr : Bool := false
  errRegion : Nat := 0
  faultCount : Nat := 0
  faultAddr : Nat := 0
  faultPriv : Nat := 0
  faultKind : Nat := 0
  deriving DecidableEq, Repr

/-- CORE/MPU. -/
structure CoreSt where
  pairs : List PairSt := List.replicate 4 {}
  svcPair : Nat := 0
  mpus : List Mpu := List.replicate 19 {}
  exc : Option (Nat × Nat × Nat) := none        -- hart, mcause, mtval of the last access-fault exception
  deriving DecidableEq, Repr

/-- DBG. -/
structure DbgSt where
  unlocked : Bool := false
  expiry : Option PlantTime := none
  denied : Nat := 0
  token : List Byte := List.replicate 256 0
  dm : List (Nat × Word) := []
  deriving DecidableEq, Repr

/-- A station session's run-time state (R294, R295). -/
structure StationSt where
  replied : Bool := false
  misses : Nat := 0
  quality : Nat := 0
  recent : List Word := []               -- the newest reply, which the present exchange may still take
  stamp : Nat := 0                       -- angle stamp at which it came
  last : List Word := []
  lastStamp : Nat := 0
  deriving DecidableEq, Repr

/-- PRG (07_control_program_execution.md). -/
structure PrgSt where
  runState : Nat := 0
  stage : Nat := 0
  lastCold : Bool := false
  refuse : Nat := 0
  progress : Nat := 0
  changeId : Nat := 0
  windowS : Nat := 0
  confirmEnd : Option Nat := none
  cycle : Nat := 0
  cycleLast : Nat := 0
  cycleMax : Nat := 0
  taskTime : Nat := 0
  pairOffset : Int := 0
  switchCycle : Bool := false
  tasks : List Task := List.replicate 32 {}
  image : Option ProgImage := none
  newImage : Option ProgImage := none
  oldImage : Option ProgImage := none
  items : List (Nat × ItemSt) := []
  forces : List Force := []
  inImage : List (Nat × Nat) := []
  outImage : List (Nat × Nat) := []
  stations : List StationSt := []
  timerDue : List Nat := []                      -- matched timers whose output the new PT changed (R324)
  drops : List (Nat × Nat) := []                 -- identity and element of forces dropped at SWITCH
  changeRing : Nat := 0
  next : Option ManSt := none                    -- manifest sent for the cycle to start
  scanOpen : Bool := false
  restartKind : Option Bool := none
  deriving DecidableEq, Repr

/-- A stamped loop input: value, stamp or epoch, validity. -/
structure LoopIn where
  value : F32
  stamp : Nat
  valid : Bool
  deriving DecidableEq, Repr

/-- A loop input of classes 4 to 6 that has arrived: what it came from, with its content, and the value that the next bundle makes current
(R350 to R352). -/
structure LoopArr where
  item : ManEntry
  content : List Byte
  cls : Nat
  idx : Nat
  val : LoopIn
  deriving DecidableEq, Repr

/-- LOOP. -/
structure LoopSt where
  slots : List Slot := List.replicate 512 {}
  groups : List Group := List.replicate 64 {}
  stages : List Stage := List.replicate 128 {}
  friction : List (List F32) := List.replicate 64 []
  ripple : List (List F32) := List.replicate 32 []
  lastRefuse : Nat := 0
  window : Nat := 0
  period : Nat := 0                              -- P of the last bundle
  seen : List (Nat × Nat) := []                  -- JSN of a loop command and the window whose bundle first covered it
  followMax : Nat := 0
  covered : Nat := 0
  inputs : List ((Nat × Nat) × LoopIn) := []     -- class and index of the selector
  arrived : List LoopArr := []                   -- values that wait for the bundle that names their items
  effect : Nat := 0                              -- stamp from which the loop command carried out last takes effect (R356)
  exchange : List (Nat × F32) := []              -- class 2 destinations, read by the program
  netOut : List (Nat × F32) := []
  deriving DecidableEq, Repr

/-- A command frame for a node: TYPE and body from byte 7 of the frame; once sent, its CSEQ, GEN8 and sends so far (R393, R394). -/
structure NodeCmd where
  type : Nat
  body : List Byte
  cseq : Nat := 0
  gen8 : Nat := 0
  sends : Nat := 0
  work : Option WorkRef := none
  deriving DecidableEq, Repr

/-- A node of a ring. -/
structure Node where
  openTap : Nat := 0
  suspects : List Nat := []
  presence : Nat := 0
  idMismatch : Bool := false
  alarmPend : Bool := false
  missHist : List Bool := []
  delay : Nat := 0
  rtts : List Nat := []
  echoDue : Nat := 0
  lastRtt : Nat := 0
  cseq : Nat := 0
  cmds : List NodeCmd := []                      -- sent and awaiting an ACK, oldest first
  tapTry : List (Nat × Nat) := []
  prev : Option Sample := none
  stackBad : Nat := 0
  stackTaps : List Nat := []                     -- end taps that a stack check wants tested
  missingRun : Bool := false
  missFrom : Nat := 0                            -- module time at which the run of missing epochs began
  block1Ok : Bool := true
  nextTap : Nat := 0
  deriving DecidableEq, Repr

/-- A sweep of one epoch of one ring: being read until `built`, then the sweep record (table Sweep record). -/
structure Sweep where
  epoch : Nat
  angle : Nat
  astatus : Nat
  meet : Nat
  mode : Nat
  break1 : Nat := 0
  break2 : Nat := 0
  samples : List (Nat × Sample) := []
  once : List Nat := []                          -- positions read again
  failed : List Nat := []                        -- positions that failed twice or do not hold the epoch
  silent : List Nat := []                        -- positions unanswered twice
  partDone : Bool := false
  partnerDone : Bool := false
  built : Bool := false
  missing : List Nat := []
  lost : List Nat := []
  deriving DecidableEq, Repr

/-- A ring as this module's end sees it. -/
structure Ring where
  rstate : Nat := 0
  carrier : Bool := false
  breakSeen : Bool := false
  missingSeen : Bool := false
  alarmSeen : Bool := false
  sweepLag : Bool := false
  enumReason : Nat := 0
  sweepUs : Nat := 0
  break1 : Nat := 0
  break2 : Nat := 0
  crcErr : Nat := 0
  rereads : Nat := 0
  alarmPos : Nat := 0
  alarmCause : Nat := 0
  alarmCount : Nat := 0
  missedN : Nat := 0
  lostN : Nat := 0
  partnerEnd : Bool := false
  epoch : Nat := 0
  occ : Nat := 0
  sweeps : List Sweep := []
  nodes : List Node := List.replicate 128 {}
  queue : List (Nat × NodeCmd) := []             -- position and command waiting for a command window
  relays : List (List Byte) := []                -- frames of the partner that wait for a command window of this end (R392)
  healing : Bool := false                        -- the nodes are measured again before the parts of R377 return (R388)
  symbolPending : Bool := false
  symbolAt : Nat := 0                            -- module time of that symbol
  deriving DecidableEq, Repr

/-- SLK. -/
structure SlkSt where
  ckCause : Nat := 0
  epoch : Nat := 0
  strobeAng : Nat := 0
  rings : List Ring := List.replicate 4 {}
  qintSum : List (Nat × Int) := []
  bleedCount : List ((Nat × Nat × Nat) × Nat × Nat × Bool) := []
  deriving DecidableEq, Repr

/-- A history block: header and summaries. -/
structure HistBlock where
  epoch : Nat
  angle : Nat
  astatus : Nat
  cells : List CellSum
  deriving DecidableEq, Repr

/-- EST. -/
structure EstSt where
  epoch : Nat := 0
  paramEpoch : Nat := 0
  arrayUs : Nat := 0
  lag : Bool := false
  modelOk : Bool := false
  running : Bool := false
  cells : List Cell := []
  lastQ : List (Nat × F32) := []                 -- per string: last I_s
  ringEpoch : List Nat := [0, 0, 0, 0]
  quantities : List (List F32) := List.replicate 5 (List.replicate 11 0)
  qEpoch : Nat := 0
  plans : List ((Nat × Nat) × List Nat × List Nat) := []
  history : List HistBlock := []
  checkpoint : List Cell := []
  sumFirst : Option (Nat × Nat × Nat) := none    -- first epoch of the interval, the stamp and status word of its strobe
  parSnap : List (Nat × List (Nat × Cell)) := []   -- cells as they stood at the end of an epoch, for its parameter update
  sumSnap : List (Nat × List (Nat × Cell)) := []   -- the same for its summary
  epochCuts : List ((Nat × Nat) × Nat) := []     -- ring and epoch of a manifest's KIND 0x03 entry, its JSN_CUT
  modelBad : Bool := false                       -- a start failed on an invalid model
  pubEpoch : Nat := 0                            -- epoch of the last publication
  planEpoch : Nat := 0                           -- epoch of the last plan
  lagWait : List (Nat × Nat × Nat) := []         -- ring, epoch, array time of updates that wait
  resets : List (Nat × Bool × Nat) := []         -- cells to reset: with θ and lifetime?, the command's JSN
  lastCsr : List Nat := [0, 0, 0, 0]             -- per ring: module time of its last strobe update
  cocoonRings : List Nat := []                   -- rings whose first update after COCOON is due
  outlierDay : List (Nat × Nat) := []            -- cell and day of its last RS_OUTLIER
  deriving DecidableEq, Repr

/-- A trip group. -/
structure TripGroup where
  en : Bool := false
  tripped : Bool := true
  rearmWait : Bool := false
  confirmed : Bool := false
  confirmDue : Bool := false
  backupFired : Bool := false
  test : Bool := false
  firstCause : Nat := 11
  firstPos : Nat := 0
  firstRing : Nat := 0
  trippedAt : Nat := 0                                  -- module time of the trip
  deriving DecidableEq, Repr

/-- Counters of one quantity of one string: consecutive samples at warn, at limit, released from warn, limit, trip. -/
structure QtyCnt where
  warn : Nat := 0
  limit : Nat := 0
  relW : Nat := 0
  relL : Nat := 0
  relT : Nat := 0
  deriving DecidableEq, Repr

/-- A string of the protection plane. -/
structure ProtStr where
  trip : Nat := 0
  tapWarn : Bool := false
  missLimit : Bool := false
  missTrip : Bool := false
  cnt : List ((Nat × Nat × Nat × Nat) × QtyCnt) := []   -- by quantity, ring, position, channel
  held : List (Nat × Nat × Nat × Nat × Nat) := []       -- severity, quantity, ring, position, channel standing
  deriving DecidableEq, Repr

/-- PROT (11_protection_thermal_control_and_dispatch.md). -/
structure ProtSt where
  set : Option ProtSet := none
  setDigest : List Byte := []
  staged : Option ProtSet := none
  stagedDigest : List Byte := []
  groups : List TripGroup := List.replicate 4 {}
  strings : List ProtStr := List.replicate 64 {}
  auxCnt : List (Nat × Nat × Nat) := []                 -- entry, active count, release count
  auxOn : List (Nat × Nat) := []                        -- entry, severity standing
  ringWarn : Nat := 0                                   -- bit p: warn of ring p on an unnamed alarm (R451)
  trips : Nat := 0
  lastCause : Nat := 0
  lastPos : Nat := 0
  lastRing : Nat := 0
  lastSev : Nat := 0
  lastCh : Nat := 0
  lastTrip : Nat × Nat × Nat × Nat := (0, 0, 0, 0)      -- ring, position, cause, channel of the most recent trip
  oldSet : Option ProtSet := none                       -- the set before the last commit
  oldRings : List Nat := []                             -- rings that still compare under it (R465)
  commitJsn : Nat := 0                                  -- JSN of the last PROT_COMMIT
  roll : Nat := 0
  stNum : Nat := 0
  sqNum : Nat := 0
  gooseMs : Nat := 1000
  deriving DecidableEq, Repr

/-- DSP. -/
structure DspSt where
  plant : F32 := 0
  kPlant : F32 := 0
  ffrLimPlant : F32 := 0
  ffrDbPlant : F32 := 0
  disabled : List Nat := []
  reports : List (Nat × WorkerReport) := []
  absent : List Nat := []
  shares : List (Nat × F32) := []
  capDis : F32 := 0
  capCh : F32 := 0
  eDis : F32 := 0
  eCh : F32 := 0
  alloc : F32 := 0
  shortfall : F32 := 0
  workers : Nat := 0
  missed : Nat := 0
  pSet : F32 := 0
  spEpoch : Nat := 0
  spPending : List (Nat × F32 × Nat) := []       -- set-points posted: epoch, target, SEQ of the frame
  kFfr : F32 := 0
  ffrLim : F32 := 0
  ffrDb : F32 := 0
  ffrEn : Bool := false
  fresh : Bool := false
  fallback : Bool := false
  cycleAhead : Bool := false
  aheadBy : Nat := 0
  ffr : F32 := 0
  spSeq : Nat := 0
  spAt : Nat := 0                                -- module time of the last set-point frame
  repRel : Nat := 0                              -- releases counted from 1: the last of DSP_REPORT
  allocRel : Nat := 0                            -- of DSP_ALLOC
  allocAt : Nat := 0                             -- its stamp
  ffrRel : Nat := 0                              -- of DSP_FFR
  deriving DecidableEq, Repr

/-- A digital input. -/
structure DiSt where
  raw : Bool := false
  filtered : Bool := false
  differ : Nat := 0
  diverge : Bool := false
  deriving DecidableEq, Repr

/-- A digital output: DO0 to DO11, then PDO0 to PDO3. -/
structure DoSt where
  cmd : Bool := false
  readback : Bool := false
  extDrive : Bool := false
  mismatch : Bool := false
  short : Bool := false
  latched : Bool := false
  darkFail : Bool := false
  noSupply : Bool := false
  retries : Nat := 0
  retryRun : Nat := 0
  thermal : Bool := false                -- switched off at thermal shutdown (R492)
  dark : Bool := false
  seenOff : Bool := false
  offAt : Nat := 0                       -- module time of its last switch-off by command or trip
  swAt : Nat := 0                        -- of the last switching of the channel
  hotAt : Nat := 0                       -- of the last thermal shutdown
  darkAt : Nat := 0                      -- of the start of the last dark test
  deriving DecidableEq, Repr

/-- DIO (12_local_field_io.md). -/
structure DioSt where
  dis : List DiSt := List.replicate 16 {}
  dos : List DoSt := List.replicate 16 {}
  darkLast : Nat := 0                    -- module time of the start of the module's last dark test
  darkDue : List Nat := []               -- outputs to test at once (R491)
  fsS : Bool := false
  fsP : Bool := false
  voltS : Nat := 0
  voltP : Nat := 0
  deriving DecidableEq, Repr

/-- A current input. -/
structure AiSt where
  quality : Nat := 6
  diverge : Bool := false
  overloadSeen : Bool := false
  protPath : Bool := false
  pathAt : Nat := 0                      -- module time of the last try of the sense path
  current : Nat := 0
  differ : Nat := 0
  value : F32 := 0
  deriving DecidableEq, Repr

/-- A current output. -/
structure AoSt where
  open_ : Bool := false
  compliance : Bool := false
  noSupply : Bool := false
  selfTestBad : Bool := false
  makeup : Bool := false
  headroom : Nat := 0
  command : F32 := 0
  safeFail : Bool := false
  readback : F32 := 0
  zero : Int := 0
  span : Int := 0
  wZero : Int := 0
  wSpan : Int := 0
  loopRes : F32 := 0
  loopResAt : Option Nat := none
  cmdAt : Nat := 0
  deriving DecidableEq, Repr

/-- AIO. -/
structure AioSt where
  ais : List AiSt := List.replicate 8 {}
  aos : List AoSt := List.replicate 4 {}
  calEn : Bool := false
  point : Nat := 0
  dirty : Bool := false
  ovr : Nat := 0
  rms : List Nat := [0, 0, 0]
  deriving DecidableEq, Repr

/-- A transmit buffer of a CAN port. -/
structure TxBuf where
  f : CanFrame
  oneShot : Bool
  work : Option WorkRef
  seq : Nat
  deriving DecidableEq, Repr

/-- A receive filter of a CAN port. -/
structure CanFilter where
  id : Nat
  mask : Nat
  ide : Bool
  queue : Nat
  deriving DecidableEq, Repr

/-- A CAN port (13_can_and_plant_network.md). -/
structure CanPort where
  sleep : Bool := false
  busOff : Bool := false
  recovering : Bool := false
  errPassive : Bool := false
  busOffSeen : Bool := false
  wakeSeen : Bool := false
  rxOverrun : Bool := false
  overrunOnset : Bool := false
  tec : Nat := 0
  recErr : Nat := 0
  remotes : Nat := 0
  overruns : Nat := 0
  bufs : List TxBuf := []
  filters : List (Nat × CanFilter) := []
  deriving DecidableEq, Repr

/-- CAN. -/
structure CanSt where
  counter : Nat := 0
  ports : List CanPort := List.replicate 4 {}
  sigs : List (Nat × Nat) := []                  -- raw bits last written per transmit signal
  posted : Nat := 0
  built : List (Nat × CanFrame) := []            -- frames the present cycle has produced (R517)
  unused : List (Nat × Nat × Nat × List Byte) := []
  deriving DecidableEq, Repr

/-- A gate control list. -/
structure GateList where
  ptBase : Bool
  base : Nat
  entries : List (Nat × Nat)
  start : Nat := 0                       -- nanoseconds from base to the cycle start at which it takes over
  deriving DecidableEq, Repr

/-- A network port. -/
structure NetPort where
  link : Bool := false
  tenGig : Bool := false
  modPresent : Bool := false
  modRefused : Bool := false
  downSeen : Bool := false
  rxErr : Nat := 0
  wrongLan : Nat := 0
  dups : Nat := 0
  gate : Option GateList := none
  newGate : Option GateList := none
  deriving DecidableEq, Repr

/-- NET. -/
structure NetSt where
  ptpDiscard : Nat := 0
  replyDiscard : Nat := 0
  sessions : Nat := 0
  svcLink : Bool := false
  ports : List NetPort := List.replicate 4 {}
  hsrSeen : List (Nat × Nat) := []
  mac : Nat := 0
  supAt : Option Nat := none             -- the last supervision frames (10 ns counts)
  deriving DecidableEq, Repr

/-- A boot slot (R543, R580). -/
structure BootSlot where
  state : SlotState := .empty
  version : Nat := 0
  minPeer : Nat := 0
  proto : Nat := 0
  protoMin : Nat := 0
  svn : Nat := 0
  confirmS : Nat := 0
  raiseFloor : Bool := false
  digest : List Byte := []
  attempted : Bool := false
  content : List Byte := []
  deriving DecidableEq, Repr

/-- A page of the NAND data store: the strength it was written with (0: erased) and its counter word (R546, R549). -/
structure Page where
  t : Nat := 32
  maxFix : Nat := 0
  uncorr : Bool := false
  excess : Nat := 0
  reported : Nat := 0                    -- day of its last NVS_FIX_HIGH, counted from 1
  deriving DecidableEq, Repr

/-- NVS (14_storage_integrity_and_event_recorder.md). -/
structure NvsSt where
  ready : Bool := false
  scrubbing : Bool := false
  fixHigh : Bool := false
  uncorrSeen : Bool := false
  scrubSlow : Bool := false
  scrubProg : Nat := 0
  scrubLap : Nat := 0
  pages : List ((Nat × Nat) × Page) := []
  data : List Host.Cell := []
  slots : List BootSlot := [{}, {}, { state := .factory }]
  counters : List ((Nat × Nat) × Page) := []
  epochs : List (Nat × Nat × StreamDef) := []  -- per stream: STREAM_EPOCH and what defined it (R205)
  deriving DecidableEq, Repr

/-- A record of the recorder. -/
structure Rec where
  name : RecName
  code : Option Nat
  sev : Nat
  source : Option Nat
  software : Bool
  seq : Nat
  ang : Nat
  astatus : Nat
  pt : PlantTime
  args : List Nat
  soft : List Byte
  size : Nat
  flushed : Bool
  deriving DecidableEq, Repr

/-- LOG. -/
structure LogSt where
  seq : Nat := 0
  recs : List Rec := []
  reservation : Nat := 131072
  taking : Bool := true
  infoLost : Nat := 0
  warnLost : Nat := 0
  replaced : List Nat := []
  dropped : Bool := false
  infoDrop : Bool := false
  droppedSeen : Bool := false
  cleared : Nat := 0
  headSeq : Nat := 0
  headOff : Nat := 0
  wraps : Nat := 0
  live : List (Nat × Nat × Nat) := []            -- SEQ, offset, size of the records in the live window
  nextOff : Nat := 64
  flushAt : Nat := 0                     -- module time of the last flush (R557)
  erased : Nat := 0                      -- highest SEQ that the partition's rollover has erased (R563)
  codeTab : List (RecName × Nat × Nat) := []     -- record, CODE, body length of the running image's code table
  deriving DecidableEq, Repr

/-- SEC (15_security_and_field_update.md). -/
structure SecSt where
  owner : List Byte := []
  vendor : List Byte := []
  bootFail : Bool := false
  picked : Bool := false                 -- the boot monitor has picked a slot
  bootSlot : Nat := 0
  factoryBoot : Bool := false
  sigFailSeen : Bool := false
  serial : Nat := 0
  svnFloor : Nat := 0
  fuseLeft : Nat := 64
  reportCtr : Nat := 0
  meas : List Byte := List.replicate 64 0
  devKey : List Byte := []
  devCert : List Byte := []
  nonceDbg : List Nat := []
  nonceLog : List Nat := []
  nonceLost : Option PlantTime := none
  deriving DecidableEq, Repr

/-- UPD. -/
structure UpdSt where
  ready : Bool := false
  trial : Bool := false
  fallbackPending : Bool := false
  scheduled : Option (Bool × Nat × WorkRef) := none   -- UPD_ACTIVATE waiting: plant time?, instant, operation
  fellBack : Bool := false
  progress : Nat := 0
  target : Nat := 0                                    -- slot being written or written
  image : List Byte := []                              -- body of the image being applied
  work : Option WorkRef := none
  confirmFrom : Option Nat := none                     -- module time at which the confirm window started
  healthFrom : Nat := 0                                -- module time of the last mode change, unit change or mismatch
  resyncDone : Bool := false
  deriving DecidableEq, Repr

/-- A block lock (R621 to R623): its holder, and when it last admitted a write. -/
structure LockSt where
  holder : Option Requester := none
  since : Nat := 0
  deriving DecidableEq, Repr

/-- The whole module. -/
structure State where
  sys : SysSt := {}
  pwr : PwrSt := {}
  tb : TbSt := {}
  rtc : RtcSt := {}
  hq : HqSt := {}
  evt : EvtSt := {}
  wb : WbSt := {}
  core : CoreSt := {}
  dbg : DbgSt := {}
  prg : PrgSt := {}
  loop : LoopSt := {}
  slk : SlkSt := {}
  est : EstSt := {}
  prot : ProtSt := {}
  dsp : DspSt := {}
  dio : DioSt := {}
  aio : AioSt := {}
  can : CanSt := {}
  net : NetSt := {}
  nvs : NvsSt := {}
  log : LogSt := {}
  sec : SecSt := {}
  upd : UpdSt := {}
  locks : List LockSt := List.replicate 23 {}
  regs : List (Nat × Word) := []
  mem : List Host.Cell := []
  cfg : Cfg := {}
  resp : Option Resp := none
  out : List Out := []
  freeCtr : Nat := 0
  pending : List Instr := []
  deriving DecidableEq, Repr

/-- The module right after power-on reset (R102, R601): every field as the structures give it. A register of `regs` that is not
listed holds its Reset value of the field tables (Machine/Regs.lean). -/
def State.reset : State := {}

end Sys2Proof.Machine
end

