-- ==== Sys2Proof/Machine/Regs.lean ====
section
/-! DEFINITION. The registers by name: block, offset, instances, and the writable fields with access code, Reset value and allowed
values, from the field tables and the tables of other registers of every chapter (R613, R15, R18, R19). Reset values that the
spec leaves out are named in notes/assumptions/2.md. -/

namespace Sys2Proof.Machine

/-- Access codes (table Register access codes). -/
inductive Acc | rw | wo | w1c | w1s | rwl | rws
  deriving DecidableEq, Repr

/-- A writable field: access, lowest bit, width, Reset value, and its allowed ranges (none listed: every value). -/
structure RegField where
  acc : Acc
  lo : Nat
  width : Nat
  reset : Nat
  ok : List (Nat × Nat)
  deriving DecidableEq, Repr

/-- A register: block, offset, instances and strides of its first and second index, writable fields. -/
structure RegDesc where
  block : Nat
  off : Nat
  n1 : Nat
  s1 : Nat
  n2 : Nat
  s2 : Nat
  fields : List RegField
  deriving DecidableEq, Repr

/-- The registers of the module (17_register_map.md, register index). -/
inductive RegName
  | sysId | sysHw | sysRole | sysPciId | sysMode | sysUnitHealth | sysCtrl | sysResetCause | sysStart | sysCocoon | sysTemp
  | dramCe | dramUe | dramCeWarn | dramPatrol | dramUeAddr | pwrStatus | pwrHoldup | pwrFeeds | pwrDraw | angCtrl
  | angStatus | angNowLo | angNowHi | angFreq | angSlew | angOffset | angSeed | mapWord | mapSel | ptCtrl | ptStatus
  | ptNowNs | ptNowSec | ptAdj | ptOffset | ptStepThresh | ptStepNs | ptStepSec | ptStepGo | ptUtc | portCtrl | asymIn
  | asymEg | asymLink | almCtrl | almDueLo | almDueHi | almDueX | almPerLo | almPerHi | rtcCtrl | rtcStatus | calTime
  | calDate | locTime | locDate | rtcUtcOffset | rtcTrim | rtcTemp | rtcAlmTime | rtcAlmDate | hqCtrl | hqKick | dbCoreLo
  | dbCoreHi | dbHostLo | dbHostHi | hqFault | legacyTmo | hqNCtrl | hqNSqLo | hqNCqLo | hqNBaseHi | hqNStatus | hqNGen
  | hqNTiming | hqNPort | evtRoute | evtPend | evtSoft | evtNextCore | evtNextHost | evtEoi | evtHostMask | wbLeaseCfg
  | wbLeaseStatus | wbPairId | wbLeaseGen | wbJsn | wbJsnAck | wbCycle | wbFollow | wbShadow | wbLeaseWd | wbHandover
  | wbOrdAckTmo | wbDrillCtrl | wbDrillDueLo | wbDrillDueHi | wbDrillLast | wbResync | wbRefMacLo | wbRefMacHi | wbRefEtype
  | wbRefStats | wbLaneStatus | coreSvc | coreCfg | coreStatus | coreMismatchPc | coreMismatchPcHi | mpuCtrl | mpuStatus
  | mpuFaultAddrLo | mpuFaultInfo | mpuBaseLo | mpuBaseHi | mpuAttr | prgId | prgStatus | prgRefuse | prgMainCfg
  | prgMainWatch | prgMainMaxc | prgScanCfg | prgCycle | prgCycleLast | prgCycleMax | prgInstar | prgConfirmLeft
  | prgTaskTime | prgTaskCfg | prgTaskStatus | prgTaskWord | loopStatus | loopBundle | loopSlotStatus | loopSlotOut
  | loopGrpStatus | loopOutStatus | loopOutValue | slkCtrl | slkStatus | slkEpoch | slkLatchBase | slkPhase | slkDither
  | slkStrobe | slkSweepBaseLo | slkSweepBaseHi | slkTapCfg | slkCommTmo | slkCkCtrl | slkCkV | slkCkT | slkCkSpread
  | slkCkCause | slkPortCtrl | slkPortStatus | slkPortBreak | slkPortErr | slkPortAlarm | slkPortMissed | slkNodeStatus
  | estCtrl | estStatus | estEpoch | estParamEpoch | estBalCfg | estBalPeriod | estRest | estLimitMiss | estQV | estQH
  | estQGr | estQQ | estMissInfl | estRsDi | estQDz | estQSig | estLeakCfg | estAnomNis | estSumEpochs | estResultBaseLo
  | estResultBaseHi | estCells | estQty | protCtrl | protStatus | protSetSeq | protDigest | protStagedSeq | protLast
  | protNodesLeft | protGrp | protStr | dspCfg | dspStatus | dspStaleMs | dspFallbackMw | dspSpreadK | dspPSet | dspSpEpoch
  | dspFfrMw | dspMgr | dspShare | dioDiState | dioFsStatus | dioDark | dioRbN | dioDiCfg | dioDoCfg | dioDoStatus | aioCal
  | aiCfg | aiLoEu | aiHiEu | aiValue | aiStatus | aoCfg | aoStatus | aoReadback | aoTrim | aoLoopRes | gsStatus | gsRms
  | canCounter | canTsMap | canCtrl | canStatus | canNbt | canDbt | canTdc | canRxErr | canWuf | netCfg | netPtpDiscard
  | netReplyDiscard | netSvCfg | netMgmtPort | netSvcIp | netSessions | netPortStatus | netPortPrp | netPortGate | nvsCtrl
  | nvsStatus | nvsScrubLap | nvsFixPages | nvsUncorrPages | nvsPartCfg | nvsPartUsed | nvsBootState | logCtrl | logStatus
  | logSeq | logFirst | logFlushed | logLiveBaseLo | logLiveBaseHi | logCleared | secStatus | secSerial | secSvnFloor
  | secFuseLeft | secReportCtr | secMeas | secDevKey | secDevCert | secOwnerDigest | updCfg | updStatus | updVersion
  | updStagedVersion | updConfirmLeft | updProgress | updAct | updPeer | updPeerWb | dbgCtrl | dbgStatus | dbgToken | dbgDm
  | lock | blkid
  deriving DecidableEq, Repr

/-- Every register, in address order of the blocks. -/
def allRegs : List RegName := [
  .sysId, .sysHw, .sysRole, .sysPciId, .sysMode, .sysUnitHealth, .sysCtrl, .sysResetCause, .sysStart, .sysCocoon, .sysTemp,
  .dramCe, .dramUe, .dramCeWarn, .dramPatrol, .dramUeAddr, .pwrStatus, .pwrHoldup, .pwrFeeds, .pwrDraw, .angCtrl,
  .angStatus, .angNowLo, .angNowHi, .angFreq, .angSlew, .angOffset, .angSeed, .mapWord, .mapSel, .ptCtrl, .ptStatus,
  .ptNowNs, .ptNowSec, .ptAdj, .ptOffset, .ptStepThresh, .ptStepNs, .ptStepSec, .ptStepGo, .ptUtc, .portCtrl, .asymIn,
  .asymEg, .asymLink, .almCtrl, .almDueLo, .almDueHi, .almDueX, .almPerLo, .almPerHi, .rtcCtrl, .rtcStatus, .calTime,
  .calDate, .locTime, .locDate, .rtcUtcOffset, .rtcTrim, .rtcTemp, .rtcAlmTime, .rtcAlmDate, .hqCtrl, .hqKick, .dbCoreLo,
  .dbCoreHi, .dbHostLo, .dbHostHi, .hqFault, .legacyTmo, .hqNCtrl, .hqNSqLo, .hqNCqLo, .hqNBaseHi, .hqNStatus, .hqNGen,
  .hqNTiming, .hqNPort, .evtRoute, .evtPend, .evtSoft, .evtNextCore, .evtNextHost, .evtEoi, .evtHostMask, .wbLeaseCfg,
  .wbLeaseStatus, .wbPairId, .wbLeaseGen, .wbJsn, .wbJsnAck, .wbCycle, .wbFollow, .wbShadow, .wbLeaseWd, .wbHandover,
  .wbOrdAckTmo, .wbDrillCtrl, .wbDrillDueLo, .wbDrillDueHi, .wbDrillLast, .wbResync, .wbRefMacLo, .wbRefMacHi, .wbRefEtype,
  .wbRefStats, .wbLaneStatus, .coreSvc, .coreCfg, .coreStatus, .coreMismatchPc, .coreMismatchPcHi, .mpuCtrl, .mpuStatus,
  .mpuFaultAddrLo, .mpuFaultInfo, .mpuBaseLo, .mpuBaseHi, .mpuAttr, .prgId, .prgStatus, .prgRefuse, .prgMainCfg,
  .prgMainWatch, .prgMainMaxc, .prgScanCfg, .prgCycle, .prgCycleLast, .prgCycleMax, .prgInstar, .prgConfirmLeft,
  .prgTaskTime, .prgTaskCfg, .prgTaskStatus, .prgTaskWord, .loopStatus, .loopBundle, .loopSlotStatus, .loopSlotOut,
  .loopGrpStatus, .loopOutStatus, .loopOutValue, .slkCtrl, .slkStatus, .slkEpoch, .slkLatchBase, .slkPhase, .slkDither,
  .slkStrobe, .slkSweepBaseLo, .slkSweepBaseHi, .slkTapCfg, .slkCommTmo, .slkCkCtrl, .slkCkV, .slkCkT, .slkCkSpread,
  .slkCkCause, .slkPortCtrl, .slkPortStatus, .slkPortBreak, .slkPortErr, .slkPortAlarm, .slkPortMissed, .slkNodeStatus,
  .estCtrl, .estStatus, .estEpoch, .estParamEpoch, .estBalCfg, .estBalPeriod, .estRest, .estLimitMiss, .estQV, .estQH,
  .estQGr, .estQQ, .estMissInfl, .estRsDi, .estQDz, .estQSig, .estLeakCfg, .estAnomNis, .estSumEpochs, .estResultBaseLo,
  .estResultBaseHi, .estCells, .estQty, .protCtrl, .protStatus, .protSetSeq, .protDigest, .protStagedSeq, .protLast,
  .protNodesLeft, .protGrp, .protStr, .dspCfg, .dspStatus, .dspStaleMs, .dspFallbackMw, .dspSpreadK, .dspPSet, .dspSpEpoch,
  .dspFfrMw, .dspMgr, .dspShare, .dioDiState, .dioFsStatus, .dioDark, .dioRbN, .dioDiCfg, .dioDoCfg, .dioDoStatus, .aioCal,
  .aiCfg, .aiLoEu, .aiHiEu, .aiValue, .aiStatus, .aoCfg, .aoStatus, .aoReadback, .aoTrim, .aoLoopRes, .gsStatus, .gsRms,
  .canCounter, .canTsMap, .canCtrl, .canStatus, .canNbt, .canDbt, .canTdc, .canRxErr, .canWuf, .netCfg, .netPtpDiscard,
  .netReplyDiscard, .netSvCfg, .netMgmtPort, .netSvcIp, .netSessions, .netPortStatus, .netPortPrp, .netPortGate, .nvsCtrl,
  .nvsStatus, .nvsScrubLap, .nvsFixPages, .nvsUncorrPages, .nvsPartCfg, .nvsPartUsed, .nvsBootState, .logCtrl, .logStatus,
  .logSeq, .logFirst, .logFlushed, .logLiveBaseLo, .logLiveBaseHi, .logCleared, .secStatus, .secSerial, .secSvnFloor,
  .secFuseLeft, .secReportCtr, .secMeas, .secDevKey, .secDevCert, .secOwnerDigest, .updCfg, .updStatus, .updVersion,
  .updStagedVersion, .updConfirmLeft, .updProgress, .updAct, .updPeer, .updPeerWb, .dbgCtrl, .dbgStatus, .dbgToken, .dbgDm,
  .lock, .blkid]

/-- Where a register lies and what can be written in it. -/
def RegName.desc : RegName → RegDesc
  | .sysId => ⟨0, 0x0, 1, 0, 1, 0, []⟩
  | .sysHw => ⟨0, 0x4, 1, 0, 1, 0, []⟩
  | .sysRole => ⟨0, 0x8, 1, 0, 1, 0, []⟩
  | .sysPciId => ⟨0, 0xC, 1, 0, 1, 0, []⟩
  | .sysMode => ⟨0, 0x10, 1, 0, 1, 0, []⟩
  | .sysUnitHealth => ⟨0, 0x14, 1, 0, 1, 0, []⟩
  | .sysCtrl => ⟨0, 0x18, 1, 0, 1, 0, [⟨.wo, 0, 4, 0, []⟩, ⟨.wo, 16, 16, 0, []⟩]⟩
  | .sysResetCause => ⟨0, 0x1C, 1, 0, 1, 0, []⟩
  | .sysStart => ⟨0, 0x20, 1, 0, 1, 0, [⟨.rws, 16, 10, 30, [(1, 600)]⟩]⟩
  | .sysCocoon => ⟨0, 0x24, 1, 0, 1, 0, [⟨.rwl, 0, 2, 0, []⟩]⟩
  | .sysTemp => ⟨0, 0x28, 1, 0, 1, 0, []⟩
  | .dramCe => ⟨0, 0x200, 1, 0, 1, 0, []⟩
  | .dramUe => ⟨0, 0x204, 1, 0, 1, 0, []⟩
  | .dramCeWarn => ⟨0, 0x208, 1, 0, 1, 0, [⟨.rwl, 0, 16, 100, []⟩]⟩
  | .dramPatrol => ⟨0, 0x20C, 1, 0, 1, 0, []⟩
  | .dramUeAddr => ⟨0, 0x210, 2, 0x4, 1, 0, []⟩
  | .pwrStatus => ⟨1, 0x0, 1, 0, 1, 0, []⟩
  | .pwrHoldup => ⟨1, 0x4, 1, 0, 1, 0, []⟩
  | .pwrFeeds => ⟨1, 0x8, 1, 0, 1, 0, []⟩
  | .pwrDraw => ⟨1, 0xC, 1, 0, 1, 0, []⟩
  | .angCtrl => ⟨2, 0x0, 1, 0, 1, 0, [⟨.rwl, 0, 2, 0, [(0, 2)]⟩, ⟨.rwl, 2, 2, 3, []⟩, ⟨.rwl, 4, 1, 0, []⟩, ⟨.rwl, 5, 1, 0, []⟩, ⟨.rwl, 8, 5, 5, [(2, 20)]⟩, ⟨.rwl, 16, 8, 10, []⟩]⟩
  | .angStatus => ⟨2, 0x4, 1, 0, 1, 0, []⟩
  | .angNowLo => ⟨2, 0x8, 1, 0, 1, 0, []⟩
  | .angNowHi => ⟨2, 0xC, 1, 0, 1, 0, []⟩
  | .angFreq => ⟨2, 0x10, 1, 0, 1, 0, []⟩
  | .angSlew => ⟨2, 0x14, 1, 0, 1, 0, [⟨.rwl, 0, 17, 10000, [(100, 100000)]⟩]⟩
  | .angOffset => ⟨2, 0x18, 1, 0, 1, 0, [⟨.rwl, 0, 24, 0, []⟩]⟩
  | .angSeed => ⟨2, 0x1C, 1, 0, 1, 0, [⟨.rwl, 0, 2, 0, [(0, 2)]⟩]⟩
  | .mapWord => ⟨2, 0x20, 7, 0x4, 1, 0, []⟩
  | .mapSel => ⟨2, 0x3C, 1, 0, 1, 0, [⟨.rw, 0, 16, 0, []⟩]⟩
  | .ptCtrl => ⟨2, 0x40, 1, 0, 1, 0, [⟨.rwl, 0, 2, 0, []⟩, ⟨.rwl, 2, 1, 0, []⟩, ⟨.rwl, 3, 1, 0, []⟩, ⟨.rwl, 8, 8, 0, []⟩, ⟨.rwl, 16, 4, 0, []⟩, ⟨.rwl, 20, 4, 0, []⟩]⟩
  | .ptStatus => ⟨2, 0x44, 1, 0, 1, 0, []⟩
  | .ptNowNs => ⟨2, 0x48, 1, 0, 1, 0, []⟩
  | .ptNowSec => ⟨2, 0x4C, 2, 0x4, 1, 0, []⟩
  | .ptAdj => ⟨2, 0x54, 1, 0, 1, 0, []⟩
  | .ptOffset => ⟨2, 0x58, 1, 0, 1, 0, []⟩
  | .ptStepThresh => ⟨2, 0x5C, 1, 0, 1, 0, [⟨.rwl, 0, 32, 1000, [(10, 10000000)]⟩]⟩
  | .ptStepNs => ⟨2, 0x60, 1, 0, 1, 0, [⟨.rwl, 0, 32, 0, []⟩]⟩
  | .ptStepSec => ⟨2, 0x64, 1, 0, 1, 0, [⟨.rwl, 0, 32, 0, []⟩]⟩
  | .ptStepGo => ⟨2, 0x68, 1, 0, 1, 0, [⟨.rwl, 0, 32, 0, []⟩]⟩
  | .ptUtc => ⟨2, 0x6C, 1, 0, 1, 0, [⟨.rw, 0, 16, 0, []⟩]⟩
  | .portCtrl => ⟨2, 0x80, 4, 0x4, 1, 0, [⟨.rwl, 0, 2, 0, [(0, 2)]⟩, ⟨.rwl, 4, 3, 0, []⟩]⟩
  | .asymIn => ⟨2, 0x100, 4, 0x80, 8, 0x10, [⟨.rwl, 0, 32, 0, []⟩]⟩
  | .asymEg => ⟨2, 0x104, 4, 0x80, 8, 0x10, [⟨.rwl, 0, 32, 0, []⟩]⟩
  | .asymLink => ⟨2, 0x108, 4, 0x80, 8, 0x10, [⟨.rwl, 0, 32, 0, []⟩]⟩
  | .almCtrl => ⟨2, 0x400, 32, 0x20, 1, 0, [⟨.rw, 0, 1, 0, []⟩, ⟨.rw, 1, 1, 0, []⟩, ⟨.rw, 2, 1, 0, []⟩, ⟨.w1c, 3, 1, 0, []⟩]⟩
  | .almDueLo => ⟨2, 0x404, 32, 0x20, 1, 0, [⟨.rw, 0, 32, 0, []⟩]⟩
  | .almDueHi => ⟨2, 0x408, 32, 0x20, 1, 0, [⟨.rw, 0, 32, 0, []⟩]⟩
  | .almDueX => ⟨2, 0x40C, 32, 0x20, 1, 0, [⟨.rw, 0, 16, 0, []⟩]⟩
  | .almPerLo => ⟨2, 0x410, 32, 0x20, 1, 0, [⟨.rw, 0, 32, 0, []⟩]⟩
  | .almPerHi => ⟨2, 0x414, 32, 0x20, 1, 0, [⟨.rw, 0, 32, 0, []⟩]⟩
  | .rtcCtrl => ⟨3, 0x0, 1, 0, 1, 0, [⟨.rw, 0, 1, 0, []⟩, ⟨.rw, 1, 1, 0, []⟩]⟩
  | .rtcStatus => ⟨3, 0x4, 1, 0, 1, 0, [⟨.w1c, 2, 1, 0, []⟩]⟩
  | .calTime => ⟨3, 0x8, 1, 0, 1, 0, [⟨.rw, 0, 6, 0, []⟩, ⟨.rw, 8, 6, 0, []⟩, ⟨.rw, 16, 5, 0, []⟩]⟩
  | .calDate => ⟨3, 0xC, 1, 0, 1, 0, [⟨.rw, 0, 5, 1, []⟩, ⟨.rw, 8, 4, 1, []⟩, ⟨.rw, 16, 8, 0, []⟩]⟩
  | .locTime => ⟨3, 0x10, 1, 0, 1, 0, []⟩
  | .locDate => ⟨3, 0x14, 1, 0, 1, 0, []⟩
  | .rtcUtcOffset => ⟨3, 0x18, 1, 0, 1, 0, [⟨.rw, 0, 32, 0, [(0, 840), (4294966576, 4294967295)]⟩]⟩
  | .rtcTrim => ⟨3, 0x1C, 1, 0, 1, 0, [⟨.rw, 16, 8, 0, []⟩]⟩
  | .rtcTemp => ⟨3, 0x20, 1, 0, 1, 0, []⟩
  | .rtcAlmTime => ⟨3, 0x24, 1, 0, 1, 0, [⟨.rw, 0, 6, 0, [(0, 59)]⟩, ⟨.rw, 8, 6, 0, [(0, 59)]⟩, ⟨.rw, 16, 5, 0, [(0, 23)]⟩]⟩
  | .rtcAlmDate => ⟨3, 0x28, 1, 0, 1, 0, [⟨.rw, 0, 5, 1, [(1, 31)]⟩, ⟨.rw, 8, 4, 1, [(1, 12)]⟩, ⟨.rw, 16, 8, 0, [(0, 199)]⟩]⟩
  | .hqCtrl => ⟨4, 0x0, 1, 0, 1, 0, [⟨.rw, 0, 1, 0, []⟩, ⟨.rw, 1, 1, 0, []⟩]⟩
  | .hqKick => ⟨4, 0x4, 1, 0, 1, 0, [⟨.wo, 0, 8, 0, []⟩, ⟨.wo, 31, 1, 0, []⟩]⟩
  | .dbCoreLo => ⟨4, 0x8, 1, 0, 1, 0, [⟨.rw, 12, 20, 0, []⟩]⟩
  | .dbCoreHi => ⟨4, 0xC, 1, 0, 1, 0, [⟨.rw, 0, 16, 0, []⟩]⟩
  | .dbHostLo => ⟨4, 0x10, 1, 0, 1, 0, [⟨.rw, 12, 20, 0, []⟩]⟩
  | .dbHostHi => ⟨4, 0x14, 1, 0, 1, 0, [⟨.rw, 0, 16, 0, []⟩]⟩
  | .hqFault => ⟨4, 0x18, 1, 0, 1, 0, []⟩
  | .legacyTmo => ⟨4, 0x1C, 1, 0, 1, 0, [⟨.rw, 0, 32, 1000, [(10, 10000)]⟩]⟩
  | .hqNCtrl => ⟨4, 0x1000, 256, 0x20, 1, 0, [⟨.rw, 0, 1, 0, []⟩, ⟨.wo, 1, 1, 0, []⟩, ⟨.wo, 2, 1, 0, []⟩, ⟨.rw, 3, 1, 0, []⟩, ⟨.rw, 4, 1, 0, []⟩, ⟨.rw, 5, 1, 0, []⟩, ⟨.rw, 6, 1, 0, []⟩, ⟨.rw, 7, 1, 0, []⟩, ⟨.rw, 12, 4, 0, [(0, 12)]⟩, ⟨.rw, 16, 4, 0, [(0, 12)]⟩, ⟨.rw, 20, 4, 0, [(0, 10)]⟩]⟩
  | .hqNSqLo => ⟨4, 0x1004, 256, 0x20, 1, 0, [⟨.rw, 0, 32, 0, []⟩]⟩
  | .hqNCqLo => ⟨4, 0x1008, 256, 0x20, 1, 0, [⟨.rw, 0, 32, 0, []⟩]⟩
  | .hqNBaseHi => ⟨4, 0x100C, 256, 0x20, 1, 0, [⟨.rw, 0, 16, 0, []⟩, ⟨.rw, 16, 16, 0, []⟩]⟩
  | .hqNStatus => ⟨4, 0x1010, 256, 0x20, 1, 0, [⟨.w1c, 2, 1, 0, []⟩, ⟨.w1c, 3, 1, 0, []⟩, ⟨.w1c, 4, 1, 0, []⟩, ⟨.w1c, 5, 1, 0, []⟩, ⟨.w1c, 6, 1, 0, []⟩, ⟨.w1c, 7, 1, 0, []⟩]⟩
  | .hqNGen => ⟨4, 0x1014, 256, 0x20, 1, 0, []⟩
  | .hqNTiming => ⟨4, 0x1018, 256, 0x20, 1, 0, [⟨.rw, 0, 8, 1, []⟩, ⟨.rw, 8, 16, 100, []⟩]⟩
  | .hqNPort => ⟨4, 0x101C, 256, 0x20, 1, 0, []⟩
  | .evtRoute => ⟨5, 0x0, 128, 0x4, 1, 0, [⟨.rw, 0, 1, 0, []⟩, ⟨.rw, 1, 1, 0, []⟩, ⟨.rw, 2, 2, 0, []⟩, ⟨.rw, 4, 5, 0, []⟩]⟩
  | .evtPend => ⟨5, 0x200, 4, 0x4, 1, 0, [⟨.w1c, 0, 32, 0, []⟩]⟩
  | .evtSoft => ⟨5, 0x210, 1, 0, 1, 0, [⟨.w1s, 0, 4, 0, []⟩]⟩
  | .evtNextCore => ⟨5, 0x400, 4, 0x20, 8, 0x4, []⟩
  | .evtNextHost => ⟨5, 0x500, 32, 0x4, 1, 0, []⟩
  | .evtEoi => ⟨5, 0x580, 1, 0, 1, 0, [⟨.wo, 0, 5, 0, []⟩]⟩
  | .evtHostMask => ⟨5, 0x584, 1, 0, 1, 0, [⟨.rw, 0, 32, 0, []⟩]⟩
  | .wbLeaseCfg => ⟨6, 0x0, 1, 0, 1, 0, [⟨.rwl, 0, 15, 4000, [(1000, 20000)]⟩, ⟨.rwl, 16, 2, 0, [(0, 2)]⟩, ⟨.rwl, 18, 1, 1, []⟩]⟩
  | .wbLeaseStatus => ⟨6, 0x4, 1, 0, 1, 0, []⟩
  | .wbPairId => ⟨6, 0x8, 1, 0, 1, 0, [⟨.rwl, 0, 16, 0, [(1, 0xFFFE)]⟩]⟩
  | .wbLeaseGen => ⟨6, 0xC, 1, 0, 1, 0, []⟩
  | .wbJsn => ⟨6, 0x10, 2, 0x4, 1, 0, []⟩
  | .wbJsnAck => ⟨6, 0x18, 2, 0x4, 1, 0, []⟩
  | .wbCycle => ⟨6, 0x20, 2, 0x4, 1, 0, []⟩
  | .wbFollow => ⟨6, 0x28, 1, 0, 1, 0, []⟩
  | .wbShadow => ⟨6, 0x2C, 1, 0, 1, 0, []⟩
  | .wbLeaseWd => ⟨6, 0x30, 1, 0, 1, 0, [⟨.wo, 0, 32, 0, []⟩]⟩
  | .wbHandover => ⟨6, 0x34, 1, 0, 1, 0, [⟨.wo, 0, 1, 0, []⟩]⟩
  | .wbOrdAckTmo => ⟨6, 0x38, 1, 0, 1, 0, [⟨.rwl, 0, 7, 5, [(1, 100)]⟩]⟩
  | .wbDrillCtrl => ⟨6, 0x40, 1, 0, 1, 0, [⟨.rwl, 0, 1, 1, []⟩, ⟨.rwl, 8, 8, 7, [(1, 255)]⟩, ⟨.rwl, 16, 16, 60, [(10, 3600)]⟩]⟩
  | .wbDrillDueLo => ⟨6, 0x44, 1, 0, 1, 0, [⟨.rwl, 0, 32, 0, []⟩]⟩
  | .wbDrillDueHi => ⟨6, 0x48, 1, 0, 1, 0, [⟨.rwl, 0, 32, 0, []⟩]⟩
  | .wbDrillLast => ⟨6, 0x4C, 1, 0, 1, 0, []⟩
  | .wbResync => ⟨6, 0x50, 1, 0, 1, 0, []⟩
  | .wbRefMacLo => ⟨6, 0x60, 1, 0, 1, 0, [⟨.rwl, 0, 32, 0, []⟩]⟩
  | .wbRefMacHi => ⟨6, 0x64, 1, 0, 1, 0, [⟨.rwl, 0, 16, 0, []⟩]⟩
  | .wbRefEtype => ⟨6, 0x68, 1, 0, 1, 0, [⟨.rwl, 0, 16, 35005, []⟩]⟩
  | .wbRefStats => ⟨6, 0x6C, 1, 0, 1, 0, []⟩
  | .wbLaneStatus => ⟨6, 0x70, 1, 0, 1, 0, []⟩
  | .coreSvc => ⟨7, 0x0, 1, 0, 1, 0, [⟨.rws, 0, 2, 0, []⟩, ⟨.rws, 4, 2, 1, []⟩]⟩
  | .coreCfg => ⟨7, 0x100, 4, 0x100, 1, 0, [⟨.rws, 0, 1, 0, []⟩]⟩
  | .coreStatus => ⟨7, 0x104, 4, 0x100, 1, 0, []⟩
  | .coreMismatchPc => ⟨7, 0x108, 4, 0x100, 1, 0, []⟩
  | .coreMismatchPcHi => ⟨7, 0x10C, 4, 0x100, 1, 0, []⟩
  | .mpuCtrl => ⟨7, 0x1000, 19, 0x400, 1, 0, [⟨.wo, 0, 1, 0, []⟩]⟩
  | .mpuStatus => ⟨7, 0x1004, 19, 0x400, 1, 0, [⟨.w1c, 2, 1, 0, []⟩]⟩
  | .mpuFaultAddrLo => ⟨7, 0x1008, 19, 0x400, 1, 0, []⟩
  | .mpuFaultInfo => ⟨7, 0x100C, 19, 0x400, 1, 0, []⟩
  | .mpuBaseLo => ⟨7, 0x1040, 19, 0x400, 32, 0x10, [⟨.rwl, 0, 32, 0, []⟩]⟩
  | .mpuBaseHi => ⟨7, 0x1044, 19, 0x400, 32, 0x10, [⟨.rwl, 0, 16, 0, []⟩]⟩
  | .mpuAttr => ⟨7, 0x1048, 19, 0x400, 32, 0x10, [⟨.rwl, 0, 1, 0, []⟩, ⟨.rwl, 1, 6, 5, [(5, 32)]⟩, ⟨.rwl, 7, 1, 0, []⟩, ⟨.rwl, 8, 1, 0, []⟩, ⟨.rwl, 9, 1, 0, []⟩, ⟨.rwl, 10, 1, 0, []⟩, ⟨.rwl, 11, 1, 0, []⟩, ⟨.rwl, 12, 1, 0, []⟩, ⟨.rwl, 13, 1, 0, []⟩]⟩
  | .prgId => ⟨8, 0x0, 1, 0, 1, 0, []⟩
  | .prgStatus => ⟨8, 0x4, 1, 0, 1, 0, []⟩
  | .prgRefuse => ⟨8, 0x8, 1, 0, 1, 0, []⟩
  | .prgMainCfg => ⟨8, 0x10, 1, 0, 1, 0, []⟩
  | .prgMainWatch => ⟨8, 0x14, 1, 0, 1, 0, []⟩
  | .prgMainMaxc => ⟨8, 0x18, 1, 0, 1, 0, []⟩
  | .prgScanCfg => ⟨8, 0x1C, 1, 0, 1, 0, []⟩
  | .prgCycle => ⟨8, 0x20, 2, 0x4, 1, 0, []⟩
  | .prgCycleLast => ⟨8, 0x28, 1, 0, 1, 0, []⟩
  | .prgCycleMax => ⟨8, 0x2C, 1, 0, 1, 0, []⟩
  | .prgInstar => ⟨8, 0x30, 1, 0, 1, 0, []⟩
  | .prgConfirmLeft => ⟨8, 0x34, 1, 0, 1, 0, []⟩
  | .prgTaskTime => ⟨8, 0x38, 2, 0x4, 1, 0, []⟩
  | .prgTaskCfg => ⟨8, 0x100, 32, 0x20, 1, 0, []⟩
  | .prgTaskStatus => ⟨8, 0x104, 32, 0x20, 1, 0, []⟩
  | .prgTaskWord => ⟨8, 0x108, 32, 0x20, 6, 0x4, []⟩
  | .loopStatus => ⟨9, 0x4, 1, 0, 1, 0, []⟩
  | .loopBundle => ⟨9, 0x8, 1, 0, 1, 0, []⟩
  | .loopSlotStatus => ⟨9, 0x1000, 512, 0x8, 1, 0, []⟩
  | .loopSlotOut => ⟨9, 0x1004, 512, 0x8, 1, 0, []⟩
  | .loopGrpStatus => ⟨9, 0x3000, 64, 0x4, 1, 0, []⟩
  | .loopOutStatus => ⟨9, 0x3400, 128, 0x8, 1, 0, []⟩
  | .loopOutValue => ⟨9, 0x3404, 128, 0x8, 1, 0, []⟩
  | .slkCtrl => ⟨10, 0x0, 1, 0, 1, 0, [⟨.rwl, 0, 1, 0, []⟩, ⟨.rwl, 1, 1, 0, []⟩, ⟨.rwl, 4, 4, 0, []⟩, ⟨.rwl, 16, 8, 2, [(1, 255)]⟩, ⟨.rwl, 24, 8, 1, [(1, 255)]⟩]⟩
  | .slkStatus => ⟨10, 0x4, 1, 0, 1, 0, []⟩
  | .slkEpoch => ⟨10, 0x8, 1, 0, 1, 0, []⟩
  | .slkLatchBase => ⟨10, 0xC, 1, 0, 1, 0, [⟨.rwl, 0, 10, 150, [(100, 600)]⟩]⟩
  | .slkPhase => ⟨10, 0x10, 1, 0, 1, 0, [⟨.rwl, 0, 24, 0, []⟩]⟩
  | .slkDither => ⟨10, 0x14, 1, 0, 1, 0, [⟨.rwl, 0, 20, 524288, []⟩]⟩
  | .slkStrobe => ⟨10, 0x18, 2, 0x4, 1, 0, []⟩
  | .slkSweepBaseLo => ⟨10, 0x20, 1, 0, 1, 0, [⟨.rwl, 20, 12, 0, []⟩]⟩
  | .slkSweepBaseHi => ⟨10, 0x24, 1, 0, 1, 0, [⟨.rwl, 0, 16, 0, []⟩]⟩
  | .slkTapCfg => ⟨10, 0x28, 1, 0, 1, 0, [⟨.rwl, 0, 16, 900, []⟩, ⟨.rwl, 16, 8, 30, []⟩, ⟨.rwl, 24, 8, 5, []⟩]⟩
  | .slkCommTmo => ⟨10, 0x2C, 1, 0, 1, 0, [⟨.rwl, 0, 13, 60, [(1, 7200)]⟩]⟩
  | .slkCkCtrl => ⟨10, 0x40, 1, 0, 1, 0, [⟨.rwl, 0, 12, 30, [(1, 3600)]⟩, ⟨.rwl, 12, 1, 0, []⟩, ⟨.rwl, 16, 8, 24, []⟩]⟩
  | .slkCkV => ⟨10, 0x44, 1, 0, 1, 0, [⟨.rwl, 0, 16, 0, []⟩, ⟨.rwl, 16, 16, 0, []⟩]⟩
  | .slkCkT => ⟨10, 0x48, 1, 0, 1, 0, [⟨.rwl, 0, 16, 0, []⟩, ⟨.rwl, 16, 16, 0, []⟩]⟩
  | .slkCkSpread => ⟨10, 0x4C, 1, 0, 1, 0, [⟨.rwl, 0, 16, 0, []⟩, ⟨.rwl, 16, 16, 0, []⟩]⟩
  | .slkCkCause => ⟨10, 0x50, 1, 0, 1, 0, []⟩
  | .slkPortCtrl => ⟨10, 0x100, 4, 0x40, 1, 0, [⟨.rwl, 0, 1, 1, []⟩, ⟨.rwl, 8, 7, 64, []⟩]⟩
  | .slkPortStatus => ⟨10, 0x104, 4, 0x40, 1, 0, [⟨.w1c, 4, 1, 0, []⟩, ⟨.w1c, 5, 1, 0, []⟩, ⟨.w1c, 6, 1, 0, []⟩, ⟨.w1c, 7, 1, 0, []⟩]⟩
  | .slkPortBreak => ⟨10, 0x108, 4, 0x40, 1, 0, []⟩
  | .slkPortErr => ⟨10, 0x10C, 4, 0x40, 1, 0, []⟩
  | .slkPortAlarm => ⟨10, 0x110, 4, 0x40, 1, 0, []⟩
  | .slkPortMissed => ⟨10, 0x114, 4, 0x40, 1, 0, []⟩
  | .slkNodeStatus => ⟨10, 0x1000, 4, 0x200, 128, 0x4, []⟩
  | .estCtrl => ⟨11, 0x0, 1, 0, 1, 0, [⟨.rwl, 0, 1, 0, []⟩, ⟨.rwl, 1, 1, 1, []⟩, ⟨.rwl, 2, 1, 0, []⟩, ⟨.rwl, 8, 8, 100, [(1, 255)]⟩, ⟨.rwl, 16, 8, 20, [(0, 60)]⟩]⟩
  | .estStatus => ⟨11, 0x4, 1, 0, 1, 0, [⟨.w1c, 5, 1, 0, []⟩]⟩
  | .estEpoch => ⟨11, 0x8, 1, 0, 1, 0, []⟩
  | .estParamEpoch => ⟨11, 0xC, 1, 0, 1, 0, []⟩
  | .estBalCfg => ⟨11, 0x10, 1, 0, 1, 0, [⟨.rwl, 0, 10, 1000, [(0, 1000)]⟩, ⟨.rwl, 10, 6, 20, []⟩, ⟨.rwl, 16, 8, 10, []⟩, ⟨.rwl, 24, 8, 20, []⟩]⟩
  | .estBalPeriod => ⟨11, 0x14, 1, 0, 1, 0, [⟨.rwl, 0, 32, 360000, []⟩]⟩
  | .estRest => ⟨11, 0x18, 1, 0, 1, 0, [⟨.rwl, 0, 16, 20, []⟩, ⟨.rwl, 16, 16, 1800, []⟩]⟩
  | .estLimitMiss => ⟨11, 0x1C, 1, 0, 1, 0, [⟨.rwl, 0, 16, 1000, []⟩]⟩
  | .estQV => ⟨11, 0x20, 1, 0, 1, 0, [⟨.rwl, 0, 32, 841731191, []⟩]⟩
  | .estQH => ⟨11, 0x24, 1, 0, 1, 0, [⟨.rwl, 0, 32, 897988541, []⟩]⟩
  | .estQGr => ⟨11, 0x28, 1, 0, 1, 0, [⟨.rwl, 0, 32, 814313567, []⟩]⟩
  | .estQQ => ⟨11, 0x2C, 1, 0, 1, 0, [⟨.rwl, 0, 32, 897988541, []⟩]⟩
  | .estMissInfl => ⟨11, 0x30, 1, 0, 1, 0, [⟨.rwl, 0, 32, 1082130432, []⟩]⟩
  | .estRsDi => ⟨11, 0x34, 1, 0, 1, 0, [⟨.rwl, 0, 32, 1101004800, []⟩]⟩
  | .estQDz => ⟨11, 0x38, 1, 0, 1, 0, [⟨.rwl, 0, 32, 1045220557, []⟩]⟩
  | .estQSig => ⟨11, 0x3C, 1, 0, 1, 0, [⟨.rwl, 0, 32, 1017370378, []⟩]⟩
  | .estLeakCfg => ⟨11, 0x40, 1, 0, 1, 0, [⟨.rwl, 0, 16, 672, []⟩, ⟨.rwl, 16, 8, 5, []⟩, ⟨.rwl, 24, 8, 20, []⟩]⟩
  | .estAnomNis => ⟨11, 0x44, 1, 0, 1, 0, [⟨.rwl, 0, 32, 1091567616, []⟩]⟩
  | .estSumEpochs => ⟨11, 0x48, 1, 0, 1, 0, [⟨.rwl, 0, 32, 90000, []⟩]⟩
  | .estResultBaseLo => ⟨11, 0x50, 1, 0, 1, 0, [⟨.rwl, 21, 11, 0, []⟩]⟩
  | .estResultBaseHi => ⟨11, 0x54, 1, 0, 1, 0, [⟨.rwl, 0, 16, 0, []⟩]⟩
  | .estCells => ⟨11, 0x58, 1, 0, 1, 0, []⟩
  | .estQty => ⟨11, 0x800, 5, 0x40, 11, 0x4, []⟩
  | .protCtrl => ⟨12, 0x0, 1, 0, 1, 0, [⟨.rwl, 0, 1, 1, []⟩]⟩
  | .protStatus => ⟨12, 0x4, 1, 0, 1, 0, []⟩
  | .protSetSeq => ⟨12, 0x8, 1, 0, 1, 0, []⟩
  | .protDigest => ⟨12, 0xC, 2, 0x4, 1, 0, []⟩
  | .protStagedSeq => ⟨12, 0x14, 1, 0, 1, 0, []⟩
  | .protLast => ⟨12, 0x18, 1, 0, 1, 0, []⟩
  | .protNodesLeft => ⟨12, 0x1C, 1, 0, 1, 0, []⟩
  | .protGrp => ⟨12, 0x100, 4, 0x4, 1, 0, []⟩
  | .protStr => ⟨12, 0x200, 64, 0x4, 1, 0, []⟩
  | .dspCfg => ⟨13, 0x0, 1, 0, 1, 0, [⟨.rwl, 0, 6, 3, [(2, 50)]⟩, ⟨.rwl, 8, 1, 1, []⟩, ⟨.rwl, 9, 23, 0, []⟩]⟩
  | .dspStatus => ⟨13, 0x4, 1, 0, 1, 0, []⟩
  | .dspStaleMs => ⟨13, 0x8, 1, 0, 1, 0, [⟨.rwl, 0, 16, 500, []⟩]⟩
  | .dspFallbackMw => ⟨13, 0xC, 1, 0, 1, 0, [⟨.rwl, 0, 32, 0, []⟩]⟩
  | .dspSpreadK => ⟨13, 0x10, 1, 0, 1, 0, [⟨.rwl, 0, 32, 1073741824, []⟩]⟩
  | .dspPSet => ⟨13, 0x14, 1, 0, 1, 0, []⟩
  | .dspSpEpoch => ⟨13, 0x18, 2, 0x4, 1, 0, []⟩
  | .dspFfrMw => ⟨13, 0x20, 1, 0, 1, 0, []⟩
  | .dspMgr => ⟨13, 0x30, 6, 0x4, 1, 0, []⟩
  | .dspShare => ⟨13, 0x100, 128, 0x4, 1, 0, []⟩
  | .dioDiState => ⟨14, 0x4, 1, 0, 1, 0, []⟩
  | .dioFsStatus => ⟨14, 0x8, 1, 0, 1, 0, []⟩
  | .dioDark => ⟨14, 0xC, 1, 0, 1, 0, [⟨.rwl, 0, 12, 60, [(1, 3600)]⟩]⟩
  | .dioRbN => ⟨14, 0x10, 1, 0, 1, 0, [⟨.rwl, 0, 8, 8, [(2, 255)]⟩]⟩
  | .dioDiCfg => ⟨14, 0x100, 16, 0x4, 1, 0, [⟨.rwl, 0, 1, 0, []⟩, ⟨.rwl, 1, 1, 1, []⟩, ⟨.rwl, 2, 1, 0, []⟩, ⟨.rwl, 3, 7, 8, []⟩]⟩
  | .dioDoCfg => ⟨14, 0x200, 16, 0x8, 1, 0, [⟨.rwl, 1, 1, 0, []⟩, ⟨.rwl, 8, 8, 3, []⟩, ⟨.rwl, 16, 14, 1000, [(0, 0), (10, 16383)]⟩]⟩
  | .dioDoStatus => ⟨14, 0x204, 16, 0x8, 1, 0, [⟨.w1c, 2, 1, 0, []⟩, ⟨.w1c, 3, 1, 0, []⟩, ⟨.w1c, 4, 1, 0, []⟩, ⟨.w1c, 6, 1, 0, []⟩]⟩
  | .aioCal => ⟨15, 0x0, 1, 0, 1, 0, [⟨.rw, 0, 1, 0, []⟩]⟩
  | .aiCfg => ⟨15, 0x100, 8, 0x20, 1, 0, [⟨.rwl, 4, 14, 0, []⟩]⟩
  | .aiLoEu => ⟨15, 0x104, 8, 0x20, 1, 0, [⟨.rwl, 0, 32, 0, []⟩]⟩
  | .aiHiEu => ⟨15, 0x108, 8, 0x20, 1, 0, [⟨.rwl, 0, 32, 0, []⟩]⟩
  | .aiValue => ⟨15, 0x10C, 8, 0x20, 1, 0, []⟩
  | .aiStatus => ⟨15, 0x110, 8, 0x20, 1, 0, [⟨.w1c, 4, 1, 0, []⟩, ⟨.w1c, 5, 1, 0, []⟩]⟩
  | .aoCfg => ⟨15, 0x300, 4, 0x20, 1, 0, [⟨.rwl, 8, 8, 10, [(5, 50)]⟩]⟩
  | .aoStatus => ⟨15, 0x304, 4, 0x20, 1, 0, []⟩
  | .aoReadback => ⟨15, 0x308, 4, 0x20, 1, 0, []⟩
  | .aoTrim => ⟨15, 0x30C, 4, 0x20, 1, 0, []⟩
  | .aoLoopRes => ⟨15, 0x310, 4, 0x20, 1, 0, []⟩
  | .gsStatus => ⟨15, 0x500, 1, 0, 1, 0, []⟩
  | .gsRms => ⟨15, 0x504, 3, 0x4, 1, 0, []⟩
  | .canCounter => ⟨16, 0x0, 1, 0, 1, 0, []⟩
  | .canTsMap => ⟨16, 0x4, 1, 0, 1, 0, []⟩
  | .canCtrl => ⟨16, 0x100, 4, 0x80, 1, 0, [⟨.rwl, 0, 1, 0, []⟩, ⟨.rwl, 1, 1, 0, []⟩, ⟨.rwl, 2, 1, 0, []⟩, ⟨.rw, 3, 1, 0, []⟩, ⟨.w1s, 4, 1, 0, []⟩, ⟨.rwl, 5, 1, 0, []⟩, ⟨.rwl, 6, 1, 0, []⟩]⟩
  | .canStatus => ⟨16, 0x104, 4, 0x80, 1, 0, [⟨.w1c, 3, 1, 0, []⟩, ⟨.w1c, 4, 1, 0, []⟩, ⟨.w1c, 5, 1, 0, []⟩]⟩
  | .canNbt => ⟨16, 0x108, 4, 0x80, 1, 0, [⟨.rwl, 0, 10, 0, []⟩, ⟨.rwl, 10, 8, 0, []⟩, ⟨.rwl, 18, 7, 0, []⟩, ⟨.rwl, 25, 7, 0, []⟩]⟩
  | .canDbt => ⟨16, 0x10C, 4, 0x80, 1, 0, [⟨.rwl, 0, 10, 0, []⟩, ⟨.rwl, 10, 8, 0, []⟩, ⟨.rwl, 18, 7, 0, []⟩, ⟨.rwl, 25, 7, 0, []⟩]⟩
  | .canTdc => ⟨16, 0x110, 4, 0x80, 1, 0, [⟨.rwl, 0, 8, 0, []⟩, ⟨.rwl, 8, 1, 0, []⟩]⟩
  | .canRxErr => ⟨16, 0x114, 4, 0x80, 1, 0, []⟩
  | .canWuf => ⟨16, 0x120, 4, 0x80, 6, 0x4, [⟨.rwl, 0, 32, 0, []⟩]⟩
  | .netCfg => ⟨17, 0x0, 1, 0, 1, 0, [⟨.rwl, 0, 2, 2, [(0, 2)]⟩, ⟨.rwl, 2, 1, 0, []⟩, ⟨.rwl, 16, 16, 35006, []⟩]⟩
  | .netPtpDiscard => ⟨17, 0x4, 1, 0, 1, 0, []⟩
  | .netReplyDiscard => ⟨17, 0x8, 1, 0, 1, 0, []⟩
  | .netSvCfg => ⟨17, 0xC, 1, 0, 1, 0, [⟨.rwl, 0, 1, 0, []⟩, ⟨.rwl, 1, 9, 80, [(80, 80), (256, 256)]⟩]⟩
  | .netMgmtPort => ⟨17, 0x10, 1, 0, 1, 0, [⟨.rwl, 0, 16, 4480, []⟩]⟩
  | .netSvcIp => ⟨17, 0x14, 1, 0, 1, 0, [⟨.rws, 0, 32, 0xC0A8F801, []⟩]⟩
  | .netSessions => ⟨17, 0x18, 1, 0, 1, 0, []⟩
  | .netPortStatus => ⟨17, 0x100, 4, 0x40, 1, 0, [⟨.w1c, 5, 1, 0, []⟩]⟩
  | .netPortPrp => ⟨17, 0x104, 4, 0x40, 1, 0, []⟩
  | .netPortGate => ⟨17, 0x108, 4, 0x40, 1, 0, []⟩
  | .nvsCtrl => ⟨18, 0x0, 1, 0, 1, 0, [⟨.rwl, 0, 1, 1, []⟩, ⟨.rwl, 8, 8, 30, []⟩]⟩
  | .nvsStatus => ⟨18, 0x4, 1, 0, 1, 0, [⟨.w1c, 2, 1, 0, []⟩, ⟨.w1c, 3, 1, 0, []⟩, ⟨.w1c, 4, 1, 0, []⟩]⟩
  | .nvsScrubLap => ⟨18, 0x8, 1, 0, 1, 0, []⟩
  | .nvsFixPages => ⟨18, 0xC, 1, 0, 1, 0, []⟩
  | .nvsUncorrPages => ⟨18, 0x10, 1, 0, 1, 0, []⟩
  | .nvsPartCfg => ⟨18, 0x100, 7, 0x10, 1, 0, [⟨.rwl, 0, 7, 32, [(8, 8), (16, 16), (24, 24), (32, 32), (40, 40), (48, 48), (56, 56), (64, 64), (72, 72), (80, 80), (88, 88), (96, 96)]⟩, ⟨.rwl, 8, 7, 24, [(1, 96)]⟩]⟩
  | .nvsPartUsed => ⟨18, 0x104, 7, 0x10, 1, 0, []⟩
  | .nvsBootState => ⟨18, 0x200, 3, 0x4, 1, 0, []⟩
  | .logCtrl => ⟨19, 0x0, 1, 0, 1, 0, [⟨.rwl, 0, 1, 1, []⟩]⟩
  | .logStatus => ⟨19, 0x4, 1, 0, 1, 0, [⟨.w1c, 2, 1, 0, []⟩]⟩
  | .logSeq => ⟨19, 0x8, 2, 0x4, 1, 0, []⟩
  | .logFirst => ⟨19, 0x10, 2, 0x4, 1, 0, []⟩
  | .logFlushed => ⟨19, 0x18, 2, 0x4, 1, 0, []⟩
  | .logLiveBaseLo => ⟨19, 0x20, 1, 0, 1, 0, [⟨.rwl, 22, 10, 0, []⟩]⟩
  | .logLiveBaseHi => ⟨19, 0x24, 1, 0, 1, 0, [⟨.rwl, 0, 16, 0, []⟩]⟩
  | .logCleared => ⟨19, 0x28, 2, 0x4, 1, 0, []⟩
  | .secStatus => ⟨20, 0x4, 1, 0, 1, 0, [⟨.w1c, 5, 1, 0, []⟩]⟩
  | .secSerial => ⟨20, 0x8, 2, 0x4, 1, 0, []⟩
  | .secSvnFloor => ⟨20, 0x10, 1, 0, 1, 0, []⟩
  | .secFuseLeft => ⟨20, 0x14, 1, 0, 1, 0, []⟩
  | .secReportCtr => ⟨20, 0x18, 1, 0, 1, 0, []⟩
  | .secMeas => ⟨20, 0x40, 16, 0x4, 1, 0, []⟩
  | .secDevKey => ⟨20, 0x100, 15, 0x4, 1, 0, []⟩
  | .secDevCert => ⟨20, 0x200, 128, 0x4, 1, 0, []⟩
  | .secOwnerDigest => ⟨20, 0x400, 16, 0x4, 1, 0, []⟩
  | .updCfg => ⟨21, 0x0, 1, 0, 1, 0, [⟨.rwl, 0, 1, 1, []⟩, ⟨.rwl, 1, 15, 300, [(10, 3600)]⟩, ⟨.rwl, 16, 16, 600, [(60, 65535)]⟩]⟩
  | .updStatus => ⟨21, 0x4, 1, 0, 1, 0, [⟨.w1c, 5, 1, 0, []⟩]⟩
  | .updVersion => ⟨21, 0x8, 1, 0, 1, 0, []⟩
  | .updStagedVersion => ⟨21, 0xC, 1, 0, 1, 0, []⟩
  | .updConfirmLeft => ⟨21, 0x10, 1, 0, 1, 0, []⟩
  | .updProgress => ⟨21, 0x14, 1, 0, 1, 0, []⟩
  | .updAct => ⟨21, 0x18, 2, 0x4, 1, 0, []⟩
  | .updPeer => ⟨21, 0x20, 1, 0, 1, 0, []⟩
  | .updPeerWb => ⟨21, 0x24, 1, 0, 1, 0, []⟩
  | .dbgCtrl => ⟨22, 0x0, 1, 0, 1, 0, [⟨.w1s, 0, 1, 0, []⟩, ⟨.w1s, 1, 1, 0, []⟩]⟩
  | .dbgStatus => ⟨22, 0x4, 1, 0, 1, 0, []⟩
  | .dbgToken => ⟨22, 0x100, 64, 0x4, 1, 0, [⟨.wo, 0, 32, 0, []⟩]⟩
  | .dbgDm => ⟨22, 0x400, 128, 0x4, 1, 0, [⟨.rw, 0, 32, 0, []⟩]⟩
  | .lock => ⟨0, 0x7FF0, 23, 0x10000, 1, 0, [⟨.rw, 0, 1, 0, []⟩, ⟨.wo, 16, 16, 0, []⟩]⟩
  | .blkid => ⟨0, 0x7FFC, 23, 0x10000, 1, 0, []⟩

/-- The core address of instance (i, j) of a register (R613). -/
def RegName.addr (r : RegName) (i j : Nat) : Nat :=
  0x40000000 + 0x10000 * r.desc.block + r.desc.off + r.desc.s1 * i + r.desc.s2 * j

/-- The strength table of the partitions (table Partitions). -/
def partStrength (p : Nat) : Nat := if p = 0 then 96 else if p ≤ 3 then 64 else 32

/-- The Reset value of instance i of a register (R18). -/
def RegName.resetWord (r : RegName) (i : Nat) : Word :=
  match r with
  | .nvsPartCfg => BitVec.ofNat 32 (partStrength i + 256 * (3 * partStrength i / 4))
  | r => r.desc.fields.foldl (fun w f => w ||| BitVec.ofNat 32 (f.reset * 2 ^ f.lo)) 0

/-- The writable bits held by a register. -/
def State.reg (s : State) (r : RegName) (i : Nat := 0) (j : Nat := 0) : Word :=
  (assocGet s.regs (r.addr i j)).getD (r.resetWord i)

/-- A field of a register. -/
def State.fld (s : State) (r : RegName) (lo width : Nat) (i : Nat := 0) (j : Nat := 0) : Nat :=
  bitsOf (s.reg r i j).toNat lo width

/-- A one-bit field of a register. -/
def State.bit (s : State) (r : RegName) (b : Nat) (i : Nat := 0) (j : Nat := 0) : Bool := bitOf (s.reg r i j).toNat b

/-- The state with the writable bits of a register set. -/
def State.setReg (s : State) (r : RegName) (i j : Nat) (w : Word) : State :=
  { s with regs := assocSet s.regs (r.addr i j) w }

/-- The word `w` with a field set to `v`. -/
def setField (w : Word) (lo width v : Nat) : Word :=
  (w &&& ~~~(BitVec.ofNat 32 ((2 ^ width - 1) * 2 ^ lo))) ||| BitVec.ofNat 32 (v % 2 ^ width * 2 ^ lo)

/-- The state with one field of a register set. -/
def State.setFld (s : State) (r : RegName) (i lo width v : Nat) : State :=
  s.setReg r i 0 (setField (s.reg r i) lo width v)

/-- The register and the instance at a core address. -/
def findRegIn (addr : Nat) : List RegName → Option (RegName × Nat × Nat)
  | [] => none
  | r :: rs =>
    let base := r.addr 0 0
    let o := addr - base
    let i := if r.desc.s1 = 0 then 0 else o / r.desc.s1
    let j := if r.desc.s2 = 0 then 0 else (o - i * r.desc.s1) / r.desc.s2
    if base ≤ addr ∧ i < r.desc.n1 ∧ j < r.desc.n2 ∧ r.addr i j = addr then some (r, i, j) else findRegIn addr rs

/-- The register and the instance at a core address; none where no register of the manual lies (R615). -/
def findReg (addr : Nat) : Option (RegName × Nat × Nat) := findRegIn addr allRegs

end Sys2Proof.Machine
end

