-- ==== Sys2Proof/Machine/Flags.lean ====
section
/-! DEFINITION. Every word of flags the machine shows or hands out: the stamp status word, the hold-up flags, completion flags, LEDs,
and the modes that a rule groups together. -/

namespace Sys2Proof.Machine

/-- MAP_VALID: plant time is not UNSET (R119). -/
def State.mapValid (s : State) : Bool := s.tb.ptState != .unset

/-- The stamp status word with its event flags (R116). -/
def State.statusWith (s : State) (late skipped : Bool) (skips : Nat) : Nat :=
  s.tb.angState.code + 4 * s.tb.angSrc + 16 * ofBool late + 32 * ofBool skipped + 64 * s.tb.ptState.code
    + 256 * ofBool s.tb.ptSw + 512 * ofBool s.mapValid + 65536 * satAt 65535 skips

/-- The live stamp status word; LATE, ALARM_SKIPPED and SKIP_COUNT read 0 (R116). -/
def State.status (s : State) : Nat := s.statusWith false false 0

/-- HOLDUP_OK from the bank's voltage (10 mV) and last measured capacitance (10 µF) (R79). -/
def holdupGood (volt cap : Nat) : Bool := decide (3800 ≤ volt ∧ 540 ≤ cap)

/-- Energy above 20 V in counts of 25 mJ, at most 255 (PWR_HOLDUP.BANK_ENERGY): C (V^2 - 400) / 2 in units of 10 µF and 10 mV. -/
def bankEnergy (volt cap : Nat) : Nat := satAt 255 (cap * (volt * volt - 2000 * 2000) / 50000000)

/-- CFLAGS of a completion entry: RESUBMIT, SOLO, LONG. -/
def cflags (resubmit solo long : Bool) : Nat := ofBool resubmit + 2 * ofBool solo + 4 * ofBool long

/-- The domains a mode keeps powered (table Modes in detail, R594). -/
def modeDomains : Mode → Nat
  | .inserted => 0x01
  | .boot => 0x07
  | .quarantine => 0x27
  | .service => 0x2F
  | .cocoon => 0x63
  | .sync | .standby | .active | .solo | .handover | .update | .safeHold => 0xFF

/-- Domain d is powered. -/
def State.powered (s : State) (d : Nat) : Bool := bitOf s.sys.domains d

/-- The module holds the lease or consent (R212). -/
def State.holds (s : State) : Bool := s.wb.lease == .held || s.wb.lease == .consent

/-- The module acts as the lease holder in ACTIVE, SOLO or HANDOVER (R49, R515); not after POWER_FAIL is declared (table Power-fail
sequence). -/
def State.rightful (s : State) : Bool :=
  s.holds && s.pwr.pf == .idle && (s.sys.mode == .active || s.sys.mode == .solo || s.sys.mode == .handover)

/-- A planned hand-over has begun at this holder: from its OFFER on it takes no new authoritative action (table Planned handover t0). -/
def State.handsOver (s : State) : Bool := s.sys.mode == .handover && (s.wb.ho == .offered || s.wb.ho == .releasing)

/-- The module carries out authoritative actions (R49, R212, R235). -/
def State.authoritative (s : State) : Bool := s.rightful && !s.handsOver

/-- The module runs its cycles by manifests of its own: as the acting holder, in a hand-over too, and on in LOST, where its CYCLIC streams
continue (R215, R231, R235). -/
def State.leads (s : State) : Bool :=
  s.rightful || (s.wb.lease == .lost && s.pwr.pf == .idle && (s.sys.mode == .active || s.sys.mode == .solo))

/-- Modes in which output streams are sent (table Modes in summary). -/
def modeEmits : Mode → Bool
  | .standby | .active | .solo | .handover | .update => true
  | _ => false

/-- R629: the lease logic may drive REF_FENCE high. -/
def State.fenceAllowed (s : State) : Bool :=
  match s.sys.mode with
  | .standby | .active | .solo | .handover | .update => true
  | .boot => s.sys.starting
  | .safeHold => s.sys.exitKind.isSome
  | .cocoon => s.sys.cocoonWoke
  | .inserted | .quarantine | .service | .sync => false

/-- REF_HB is silent: before BOOT, and in the modes whose pins keep their harmless states (R90, R629); PROBE by the network goes on from BOOT
on (R225). -/
def State.refSilent (s : State) : Bool :=
  match s.sys.mode with
  | .inserted => true
  | .sync | .quarantine | .service => s.fld .wbLeaseCfg 16 2 == 0
  | .boot | .standby | .active | .solo | .handover | .cocoon | .update | .safeHold => false

/-- The partner is absent (R230). -/
def State.partnerAbsent (s : State) : Bool := !s.pwr.partnerPresent

/-- The partner's mode as its HEARTBEAT last showed it, with heartbeats arriving. -/
def State.partnerMode (s : State) : Option Mode :=
  if s.wb.partner.heard ∧ s.wb.missedHb < 2 then some s.wb.partner.hb.mode else none

/-- The partner is in STANDBY. -/
def State.partnerStandby (s : State) : Bool := s.partnerMode == some .standby

/-- The partner reports no lost unit. -/
def State.partnerWhole (s : State) : Bool := s.partnerMode.isSome && s.wb.partner.hb.unitHealth == 0

/-- Unit u is in service (R54). -/
def State.unitUp (s : State) (u : Nat) : Bool := !bitOf s.sys.unitHealth u

/-- The loop engine runs: PD4 is on and it is not lost (R355). -/
def State.loopOn (s : State) : Bool := s.powered 4 && s.unitUp 23

/-- The estimator array runs: PD4 with at least 24 lanes, three of its four groups (table Graded services). -/
def State.arrayOn (s : State) : Bool :=
  s.powered 4 && decide (3 ≤ ((List.range 4).filter fun g => s.unitUp (8 + g)).length)

/-- Modes in which the field outputs leave their harmless states, those of PD7 powered (R90, R91). -/
def modeDrives : Mode → Bool
  | .standby | .active | .solo | .handover | .update | .safeHold => true
  | .inserted | .boot | .quarantine | .service | .sync | .cocoon => false

/-- The field outputs of PD7 are driven: the domain is on, in a mode that leaves the harmless states (R46, R90). -/
def State.fieldOn (s : State) : Bool := s.powered 7 && modeDrives s.sys.mode

/-- PD5 is on, and BOOT has verified stage 2, which drives its links (R91, R578). -/
def State.linksOn (s : State) : Bool := s.powered 5 && decide (2 ≤ s.sys.bootStage)

/-- The Wingbeat lanes and the host port run: in COCOON all of PD5 but one port is off (R91, R609). -/
def State.lanesOn (s : State) : Bool := s.linksOn && (s.sys.mode != .cocoon || s.sys.cocoonWoke)

/-- Wingbeat is up: at least one lane, with PD5 on. -/
def State.wbUp (s : State) : Bool := ((s.wb.lane0 && s.unitUp 20) || (s.wb.lane1 && s.unitUp 21)) && s.lanesOn

/-- Light of an LED. -/
inductive Led | off | on | slow | fast | flash
  deriving DecidableEq, Repr

/-- RUN (table Front-panel LEDs). -/
def State.ledRun (s : State) : Led :=
  match s.sys.mode with
  | .active | .solo => .on
  | .standby | .update => .slow
  | .inserted | .boot | .sync | .handover => .fast
  | .quarantine | .service | .cocoon | .safeHold => .off

/-- PAIR. -/
def State.ledPair (s : State) : Led :=
  if s.wbUp ∧ (s.partnerMode = some .standby ∨ s.partnerMode = some .active) then .on
  else if s.pwr.partnerPresent then .flash else .off

/-- FAULT (R67, R612). -/
def State.ledFault (s : State) : Led :=
  if s.sys.mode = .quarantine ∨ s.sys.mode = .safeHold ∨ s.sys.bootStop then .on
  else if s.sys.unitHealth ≠ 0 ∨ s.pwr.holdupOk = false ∨ s.sys.faultFlash then .flash else .off

/-- EYESPOT: lit while any force exists (R314). -/
def State.ledEyespot (s : State) : Led := if s.prg.forces.isEmpty then .off else .on

/-- PULL. -/
def State.ledPull (s : State) : Led := if s.pwr.pullOk then .on else if s.pwr.pullFlash then .flash else .off

/-- SVC: service port link. -/
def State.ledSvc (s : State) : Led := if s.net.svcLink then .on else .off

end Sys2Proof.Machine
end

