-- ==== Sys2Proof/Config.lean ====
section
/-! DEFINITION. What an implementation fixes and the spec leaves open: free values, as constants without a body. Most are applied to
`State.freeCtr`, a counter that each use advances, so that every use is a value of its own (notes/assumptions/5.md). -/

namespace Sys2Proof

/-- Sign and payload bits of a NaN result (notes/assumptions/8.md). -/
opaque Config.nanBits : Nat → Nat

/-- Byte `i` of the body of a module record, by its code and what the rule has it carry: body layouts stand in the image's code
table (R612). -/
opaque Config.recByte : Nat → List Nat → Nat → Byte

/-- Code of an informational record whose code table is not at hand, by the record's ordinal (R612). -/
opaque Config.infoCode : Nat → Nat

/-- The exponential in binary32: the spec states no accuracy for it (10). -/
opaque Config.expF32 : F32 → F32

/-- The servo's adjustment after an offset: counter, offset, gains KP and KI, adjustment before (03). -/
opaque Config.servoAdj : Nat → Int → Nat → Nat → Int → Int

/-- The counts by which the tracking loop of a bandwidth in Hz takes a phase difference back over some nanoseconds: R99 fixes the bandwidth
and no loop (notes/assumptions/91.md). -/
opaque Config.trackStep : Nat → Nat → Nat → Nat

/-- The trim of the RTC's factory-stored curve at a temperature (03). -/
opaque Config.rtcTrim : Nat → Int

/-- A value of an instruction's result that the spec does not state. -/
opaque Config.free : Nat → Nat

/-- Signature by the device identity key: the private key is fused (R571). -/
opaque Config.devSign : List Byte → List Byte

/-- A plant-time clock's value that the spec does not fix. -/
opaque Config.freeInt : Nat → Int

/-- How far a scrub lap has come at an instant, in per mille, after a lap of so many hours (14). -/
opaque Config.scrubProg : Nat → Nat → Nat

end Sys2Proof
end

