-- ==== Sys2Proof/Machine/Float.lean ====
section
/-! DEFINITION. Binary floating point by its bits: add, multiply, divide, square root, compare and convert in binary32 and
binary64, each operation rounded to nearest, ties to even (the number formats of 08 and 10; notes/assumptions/8.md). -/

namespace Sys2Proof.Machine

/-- A format: exponent bits and fraction bits. -/
structure Fmt where
  eb : Nat
  mb : Nat
  deriving DecidableEq, Repr

/-- binary32. -/
def b32 : Fmt := ⟨8, 23⟩

/-- binary64. -/
def b64 : Fmt := ⟨11, 52⟩

/-- A value: `fin s m e` is (-1)^s * m * 2^e. -/
inductive FVal | nan | inf (s : Bool) | fin (s : Bool) (m : Nat) (e : Int)
  deriving DecidableEq, Repr

/-- The exponent bias. -/
def Fmt.bias (f : Fmt) : Nat := 2 ^ (f.eb - 1) - 1

/-- The bits of the quiet NaN a result takes; sign and payload are free. -/
def Fmt.nanWord (f : Fmt) : Nat :=
  (2 ^ f.eb - 1) * 2 ^ f.mb + 2 ^ (f.mb - 1) + Config.nanBits f.mb % 2 ^ (f.mb - 1)
    + Config.nanBits (f.mb + 1) % 2 * 2 ^ (f.eb + f.mb)

/-- The value of a bit pattern. -/
def Fmt.dec (f : Fmt) (n : Nat) : FVal :=
  let s := bitOf n (f.eb + f.mb)
  let x := bitsOf n f.mb f.eb
  let m := bitsOf n 0 f.mb
  if x = 2 ^ f.eb - 1 then (if m = 0 then .inf s else .nan)
  else if x = 0 then .fin s m (1 - (f.bias : Int) - f.mb)
  else .fin s (m + 2 ^ f.mb) ((x : Int) - f.bias - f.mb)

/-- `m / 2^d` rounded to nearest, ties to even; `sticky` says that the true value lies a little above `m`. -/
def roundShift (m d : Nat) (sticky : Bool) : Nat :=
  let q := m / 2 ^ d
  let r := m % 2 ^ d
  let twice := 2 * r
  if twice < 2 ^ d then q
  else if twice = 2 ^ d ∧ !sticky then (if q % 2 = 0 then q else q + 1)
  else q + 1

/-- The bits of (-1)^s * m * 2^e rounded into the format. -/
def Fmt.round (f : Fmt) (s : Bool) (m : Nat) (e : Int) (sticky : Bool := false) : Nat :=
  let sg := ofBool s * 2 ^ (f.eb + f.mb)
  if m = 0 then sg
  else
    let top : Int := e + Nat.log2 m
    let emin : Int := 1 - (f.bias : Int)
    let q : Int := (if top < emin then emin else top) - f.mb
    let m1 := if q ≤ e then m * 2 ^ (e - q).toNat else roundShift m (q - e).toNat sticky
    let m2 := if m1 = 2 ^ (f.mb + 1) then 2 ^ f.mb else m1
    let q2 : Int := if m1 = 2 ^ (f.mb + 1) then q + 1 else q
    if m2 < 2 ^ f.mb then sg + m2
    else
      let x := (q2 + f.mb + f.bias).toNat
      if 2 ^ f.eb - 1 ≤ x then sg + (2 ^ f.eb - 1) * 2 ^ f.mb else sg + x * 2 ^ f.mb + (m2 - 2 ^ f.mb)

/-- The bits of a value. -/
def Fmt.enc (f : Fmt) : FVal → Nat
  | .nan => f.nanWord
  | .inf s => ofBool s * 2 ^ (f.eb + f.mb) + (2 ^ f.eb - 1) * 2 ^ f.mb
  | .fin s m e => f.round s m e

/-- The signed integer of a mantissa brought to exponent `e0`, at most its own. -/
def alignTo (s : Bool) (m : Nat) (e e0 : Int) : Int :=
  let v : Int := m * 2 ^ (e - e0).toNat
  if s then -v else v

/-- The exact sum. -/
def FVal.add : FVal → FVal → FVal
  | .nan, _ => .nan
  | _, .nan => .nan
  | .inf a, .inf b => if a = b then .inf a else .nan
  | .inf a, _ => .inf a
  | _, .inf b => .inf b
  | .fin a m e, .fin b n g =>
    let e0 := if e ≤ g then e else g
    let v := alignTo a m e e0 + alignTo b n g e0
    if v = 0 then .fin (a && b) 0 e0 else .fin (v < 0) v.natAbs e0

/-- The negation. -/
def FVal.neg : FVal → FVal
  | .nan => .nan
  | .inf s => .inf (!s)
  | .fin s m e => .fin (!s) m e

/-- The exact product. -/
def FVal.mul : FVal → FVal → FVal
  | .nan, _ => .nan
  | _, .nan => .nan
  | .inf a, .inf b => .inf (a != b)
  | .inf a, .fin b n _ => if n = 0 then .nan else .inf (a != b)
  | .fin a m _, .inf b => if m = 0 then .nan else .inf (a != b)
  | .fin a m e, .fin b n g => .fin (a != b) (m * n) (e + g)

/-- The bits of a sum. -/
def Fmt.add (f : Fmt) (a b : Nat) : Nat := f.enc ((f.dec a).add (f.dec b))

/-- The bits of a difference. -/
def Fmt.sub (f : Fmt) (a b : Nat) : Nat := f.enc ((f.dec a).add (f.dec b).neg)

/-- The bits of a product. -/
def Fmt.mul (f : Fmt) (a b : Nat) : Nat := f.enc ((f.dec a).mul (f.dec b))

/-- The bits of a quotient. -/
def Fmt.div (f : Fmt) (a b : Nat) : Nat :=
  match f.dec a, f.dec b with
  | .nan, _ => f.nanWord
  | _, .nan => f.nanWord
  | .inf _, .inf _ => f.nanWord
  | .inf s, .fin t _ _ => f.enc (.inf (s != t))
  | .fin s _ _, .inf t => f.enc (.fin (s != t) 0 0)
  | .fin s m e, .fin t n g =>
    if n = 0 then (if m = 0 then f.nanWord else f.enc (.inf (s != t)))
    else
      let k := 2 * f.mb + 4 + Nat.log2 n
      f.round (s != t) (m * 2 ^ k / n) (e - g - k) (m * 2 ^ k % n != 0)

/-- One step of the square root by bits, from the highest of `k` candidate bits. -/
def isqrtGo (n : Nat) : Nat → Nat → Nat
  | 0, r => r
  | k + 1, r => if (r + 2 ^ k) * (r + 2 ^ k) ≤ n then isqrtGo n k (r + 2 ^ k) else isqrtGo n k r

/-- The integer square root. -/
def isqrt (n : Nat) : Nat := isqrtGo n (Nat.log2 n / 2 + 1) 0

/-- The bits of a square root. -/
def Fmt.sqrt (f : Fmt) (a : Nat) : Nat :=
  match f.dec a with
  | .nan => f.nanWord
  | .inf s => if s then f.nanWord else a
  | .fin s m e =>
    if m = 0 then a
    else if s then f.nanWord
    else
      let k := 2 * f.mb + 4 + (if (e % 2) = 0 then 0 else 1)
      let x := m * 2 ^ k
      f.round false (isqrt x) ((e - k) / 2) (isqrt x * isqrt x != x)

/-- a below b; false with a NaN. -/
def FVal.lt : FVal → FVal → Bool
  | .nan, _ => false
  | _, .nan => false
  | .inf a, .inf b => a && !b
  | .inf a, .fin _ _ _ => a
  | .fin _ _ _, .inf b => !b
  | .fin a m e, .fin b n g =>
    let e0 := if e ≤ g then e else g
    decide (alignTo a m e e0 < alignTo b n g e0)

/-- a equal to b; false with a NaN. -/
def FVal.eq : FVal → FVal → Bool
  | .nan, _ => false
  | _, .nan => false
  | .inf a, .inf b => a == b
  | .fin a m e, .fin b n g =>
    let e0 := if e ≤ g then e else g
    decide (alignTo a m e e0 = alignTo b n g e0)
  | _, _ => false

/-- The integer nearest to a value, ties to even; none for a NaN or an infinity. -/
def FVal.toInt : FVal → Option Int
  | .fin s m e =>
    let v : Nat := if 0 ≤ e then m * 2 ^ e.toNat else roundShift m (-e).toNat false
    some (if s then -(v : Int) else v)
  | _ => none

/-- The integer part of a value, toward zero; none for a NaN or an infinity. -/
def FVal.trunc : FVal → Option Int
  | .fin s m e =>
    let v : Nat := if 0 ≤ e then m * 2 ^ e.toNat else m / 2 ^ (-e).toNat
    some (if s then -(v : Int) else v)
  | _ => none

/-- An integer as a value. -/
def FVal.ofInt (i : Int) : FVal := .fin (i < 0) i.natAbs 0

/-- binary32 sum. -/
def fadd (a b : F32) : F32 := BitVec.ofNat 32 (b32.add a.toNat b.toNat)

/-- binary32 difference. -/
def fsub (a b : F32) : F32 := BitVec.ofNat 32 (b32.sub a.toNat b.toNat)

/-- binary32 product. -/
def fmul (a b : F32) : F32 := BitVec.ofNat 32 (b32.mul a.toNat b.toNat)

/-- binary32 quotient. -/
def fdiv (a b : F32) : F32 := BitVec.ofNat 32 (b32.div a.toNat b.toNat)

/-- binary32 square root. -/
def fsqrt (a : F32) : F32 := BitVec.ofNat 32 (b32.sqrt a.toNat)

/-- binary32 a below b. -/
def flt (a b : F32) : Bool := (b32.dec a.toNat).lt (b32.dec b.toNat)

/-- binary32 equality of value. -/
def feq (a b : F32) : Bool := (b32.dec a.toNat).eq (b32.dec b.toNat)

/-- binary32 a at most b. -/
def fle (a b : F32) : Bool := flt a b || feq a b

/-- The sign turned. -/
def fneg (a : F32) : F32 := a ^^^ 0x80000000#32

/-- The magnitude. -/
def fabs (a : F32) : F32 := a &&& 0x7FFFFFFF#32

/-- The smaller; the second when they do not compare. -/
def fmin (a b : F32) : F32 := if flt a b then a else b

/-- The larger; the second when they do not compare. -/
def fmax (a b : F32) : F32 := if flt b a then a else b

/-- `x` held within [lo, hi]. -/
def fclamp (lo hi x : F32) : F32 := if flt x lo then lo else if flt hi x then hi else x

/-- An integer in binary32. -/
def fofInt (i : Int) : F32 := BitVec.ofNat 32 (b32.enc (FVal.ofInt i))

/-- A quotient of integers in binary32. -/
def fratio (n : Int) (d : Int) : F32 := fdiv (fofInt n) (fofInt d)

/-- The integer nearest to a binary32 value; 0 for a NaN or an infinity. -/
def ftoInt (a : F32) : Int := ((b32.dec a.toNat).toInt).getD 0

/-- A NaN in binary32. -/
def fisNan (a : F32) : Bool := b32.dec a.toNat == .nan

/-- A finite binary32 value. -/
def ffinite (a : F32) : Bool := bitsOf a.toNat 23 8 != 255

/-- binary32 a*b + c with one rounding. -/
def ffma (a b c : F32) : F32 :=
  BitVec.ofNat 32 (b32.enc (((b32.dec a.toNat).mul (b32.dec b.toNat)).add (b32.dec c.toNat)))

/-- binary64 sum. -/
def dadd (a b : F64) : F64 := BitVec.ofNat 64 (b64.add a.toNat b.toNat)

/-- binary64 difference. -/
def dsub (a b : F64) : F64 := BitVec.ofNat 64 (b64.sub a.toNat b.toNat)

/-- binary64 product. -/
def dmul (a b : F64) : F64 := BitVec.ofNat 64 (b64.mul a.toNat b.toNat)

/-- binary64 quotient. -/
def ddiv (a b : F64) : F64 := BitVec.ofNat 64 (b64.div a.toNat b.toNat)

/-- binary32 in binary64, exact. -/
def f2d (a : F32) : F64 := BitVec.ofNat 64 (b64.enc (b32.dec a.toNat))

/-- binary64 rounded to binary32. -/
def d2f (a : F64) : F32 := BitVec.ofNat 32 (b32.enc (b64.dec a.toNat))

/-- An integer in binary64. -/
def dofInt (i : Int) : F64 := BitVec.ofNat 64 (b64.enc (FVal.ofInt i))

/-- The sum of a list in binary32, from the left. -/
def fsum (l : List F32) : F32 := l.foldl fadd 0

end Sys2Proof.Machine
end

