-- ==== Sys2Proof/Machine/Memory.lean ====
section
/-! DEFINITION. Byte memory as a list of cells in one canonical form: addresses strictly rising, no cell that holds what an unlisted
address reads as. The cores' address space (table Default map) and the software-owned pages of the NAND data store (R545) are
held so. -/

namespace Sys2Proof.Machine

/-- Memory: the listed cells. -/
abbrev Memory := List Host.Cell

/-- What a byte that nothing has written reads as (notes/assumptions/6.md). -/
def unlisted : Byte := 0

/-- The byte at an address. -/
def Memory.read (m : Memory) (a : Nat) : Byte :=
  match m with
  | [] => unlisted
  | c :: cs => if c.1 = a then c.2 else Memory.read cs a

/-- The cells with address `a` holding `b`. -/
def Memory.write (m : Memory) (a : Nat) (b : Byte) : Memory :=
  match m with
  | [] => if b = unlisted then [] else [(a, b)]
  | c :: cs =>
    if a < c.1 then (if b = unlisted then c :: cs else (a, b) :: c :: cs)
    else if a = c.1 then (if b = unlisted then cs else (a, b) :: cs)
    else c :: Memory.write cs a b

/-- `n` bytes from an address. -/
def Memory.readN (m : Memory) : Nat → Nat → List Byte
  | _, 0 => []
  | a, n + 1 => m.read a :: m.readN (a + 1) n

/-- Bytes written from an address on. -/
def Memory.writeN (m : Memory) : Nat → List Byte → Memory
  | _, [] => m
  | a, b :: bs => Memory.writeN (m.write a b) (a + 1) bs

/-- Every address of the list lies above `lo`, rises, and holds a listed value. -/
def Memory.above (lo : Nat) : Memory → Bool
  | [] => true
  | c :: cs => decide (lo ≤ c.1) && decide (c.2 ≠ unlisted) && Memory.above (c.1 + 1) cs

/-- The canonical form. -/
def Memory.wf (m : Memory) : Bool := Memory.above 0 m

end Sys2Proof.Machine
end

