-- ==== Sys2Proof/Machine/Ops.lean ====
section
/-! DEFINITION. The shared operations of the module: stamps, events (R190 to R194), the recorder (R555 to R560), refused writes, modes
(R594 to R596), units (R54), the fence and referee messages (R213, R220, R629), the journal (R236), and restart (R601). -/

namespace Sys2Proof.Machine

/-- Microseconds of the module's own time base since power-on (R254). -/
def State.nowUs (s : State) : Nat := s.tb.csr / 100

/-- Plant time in the 12-byte module format (table Time formats). -/
def ptBytes (t : PlantTime) : List Byte := leBytes 4 t.ns ++ leBytes 6 t.sec ++ [0, 0]

/-- The next value of a free result: the counter advances, so that each use is its own. -/
def State.useFree (s : State) : State := { s with freeCtr := s.freeCtr + 1 }

/-- A message, frame or signal leaves the module. -/
def State.emit (s : State) (o : Out) : State := { s with out := s.out ++ [o] }

/-! Events. -/

/-- MSI-X vector m is masked: in EVT_HOST_MASK or in the MSI-X table (R193). -/
def State.vecMasked (s : State) (m : Nat) : Bool := s.bit .evtHostMask m || bitOf s.evt.msixMask.toNat m

/-- The host vector that source `src` is routed to (R191). -/
def State.hostVec (s : State) (src : Nat) : Option Nat :=
  if s.bit .evtRoute 0 src ∧ s.bit .evtRoute 1 src then some (s.fld .evtRoute 4 5 src) else none

/-- The host port's link carries messages: it is up and its domain is on (R46, R193). -/
def State.hostUp (s : State) : Bool := s.evt.hostLink && s.lanesOn

/-- A pending source reaches its host vector: while the vector is masked its bit of the pending-bit array is set, whatever the link; otherwise
one message while the link is up (R193). -/
def State.deliver (s : State) (src : Nat) : State :=
  match s.hostVec src with
  | none => s
  | some m =>
    if s.vecMasked m then { s with evt := { s.evt with msixPba := s.evt.msixPba ||| BitVec.ofNat 32 (2 ^ m) } }
    else if !s.hostUp then s
    else s.emit (.msix m)

/-- Source `src` is pending. -/
def State.isPending (s : State) (src : Nat) : Bool := bitOf s.evt.pend.toNat src

/-- Raises an event source: one pending bit, delivered when it becomes pending (R190, R193). -/
def State.raise (s : State) (src : Nat) : State :=
  if s.isPending src then s
  else { s with evt := { s.evt with pend := s.evt.pend ||| BitVec.ofNat 128 (2 ^ src) } }.deliver src

/-! The recorder. -/

/-- Bytes a record occupies: header and body rounded up to 64 (R555). -/
def recSize (blen : Nat) : Nat := (48 + blen + 63) / 64 * 64

/-- Bytes of the unflushed records. -/
def unflushedBytes (l : List Rec) : Nat := l.foldl (fun n r => if r.flushed then n else n + r.size) 0

/-- Lowest severity among the unflushed records. -/
def lowestSev (l : List Rec) : Nat := l.foldl (fun m r => if r.flushed then m else min m r.sev) 3

/-- The list without its oldest unflushed record of severity `v`, and that record's SEQ. -/
def dropOldest (v : Nat) : List Rec → List Rec × Option Nat
  | [] => ([], none)
  | r :: rs =>
    if !r.flushed && r.sev == v then (rs, some r.seq)
    else let (rs', q) := dropOldest v rs; (r :: rs', q)

/-- Makes room for `size` bytes by replacing records of severity at most `top`, oldest of the lowest first (R558). -/
def makeRoom (top size : Nat) : Nat → LogSt → LogSt
  | 0, l => l
  | k + 1, l =>
    if unflushedBytes l.recs + size ≤ 4194304 then l
    else
      let v := lowestSev l.recs
      if top < v then l
      else
        match dropOldest v l.recs with
        | (rs, some q) => makeRoom top size k { l with recs := rs, replaced := l.replaced ++ [q], dropped := true }
        | (_, none) => l

/-- Body of a module record: its layout stands in the image's code table (R612). -/
def recBody (r : Rec) (blen : Nat) : List Byte :=
  if r.name = .software then r.soft
  else (List.range blen).map (Config.recByte (r.code.getD (Config.infoCode r.name.ctorIdx)) r.args)

/-- The 48-byte header and the body, padded (tables Record header, R555). -/
def recBytes (slotB : Bool) (r : Rec) : List Byte :=
  let body := recBody r (r.size - 48)
  let code := r.code.getD (Config.infoCode r.name.ctorIdx)
  let blen := if r.name = .software then r.soft.length else r.size - 48
  let head := leBytes 2 blen ++ leBytes 2 code
    ++ leBytes 1 (r.sev + 4 * ofBool slotB + 8 * ofBool r.software) ++ leBytes 1 (r.source.getD (code / 256)) ++ leBytes 2 0
    ++ leBytes 8 r.seq ++ leBytes 8 r.ang ++ leBytes 4 r.astatus ++ ptBytes r.pt
  head ++ leBytes 4 (crc32 (head ++ body)) ++ leBytes 4 0 ++ body ++ List.replicate (r.size - 48 - body.length) 0

/-- Base of the live window. -/
def State.liveBase (s : State) : Nat := (s.reg .logLiveBaseLo).toNat + 2 ^ 32 * (s.reg .logLiveBaseHi).toNat

/-- An address of DRAM (table Default map). -/
def inDram (a : Nat) : Bool := decide (0x000800000000 ≤ a ∧ a ≤ 0x000BDFFFFFFF)

/-- The 64-byte header of the live window (table Live window header). -/
def liveHeader (l : LogSt) : List Byte :=
  let (tseq, toff) := match l.live.head? with
    | some (q, o, _) => (q, o)
    | none => (0, 0)
  leBytes 8 l.headSeq ++ leBytes 4 l.headOff ++ leBytes 4 (l.wraps % 2 ^ 32) ++ leBytes 8 tseq ++ leBytes 4 toff
    ++ List.replicate 36 0

/-- A PAD record that fills `room` bytes (R559): a record header of CODE 0 and SEQ 0 over a body of zeros. -/
def padBytes (room : Nat) : List Byte :=
  let head := leBytes 2 (room - 48) ++ List.replicate 38 (0 : Byte)
  (head ++ leBytes 4 (crc32 (head ++ List.replicate (room - 48) 0)) ++ List.replicate (room - 44) 0).take room

/-- The recorder after a record's copy into the live window, and the PAD record's room when the record would straddle the end (R559). -/
def LogSt.copied (l : LogSt) (r : Rec) : LogSt :=
  let wrap := 4194304 < l.nextOff + r.size
  let off := if wrap then 64 else l.nextOff
  let kept := if wrap then l.live.filter (fun e => decide (e.2.1 < l.nextOff)) else l.live
  { l with headSeq := r.seq, headOff := off, wraps := if wrap then l.wraps + 1 else l.wraps, nextOff := off + r.size,
           live := kept.filter (fun e => decide (e.2.1 + e.2.2 ≤ off ∨ off + r.size ≤ e.2.1)) ++ [(r.seq, off, r.size)] }

/-- The bytes of the live window at `base` after a record's copy, with a PAD record where it would straddle the end (R559, R560). -/
def liveMem (m : Memory) (base : Nat) (slotB : Bool) (l : LogSt) (r : Rec) : Memory :=
  let m := if 4194304 < l.nextOff + r.size ∧ l.nextOff < 4194304 then
      Memory.writeN m (base + l.nextOff) (padBytes (4194304 - l.nextOff)) else m
  let l := l.copied r
  Memory.writeN (Memory.writeN m (base + l.headOff) (recBytes slotB r)) base (liveHeader l)

/-- Copies a record into the live window, when LIVE_BASE lies in DRAM (R559). -/
def State.liveCopy (s : State) (r : Rec) : State :=
  if inDram s.liveBase ∧ r.size ≤ 4194240 then
    { s with mem := liveMem s.mem s.liveBase s.pwr.slotB s.log r, log := s.log.copied r }
  else s

/-- The recorder after a record is offered to it, and the record with its SEQ if it entered the buffer: severity info only with its
enable, and dropped past 3.5 MiB; a full buffer makes room by severity (R556, R558). -/
def LogSt.enter (l : LogSt) (info : Bool) (r : Rec) : LogSt × Option Rec :=
  let used := unflushedBytes l.recs
  if r.sev = 0 ∧ info = false then (l, none)
  else if r.sev = 0 ∧ 3670016 < used then ({ l with infoLost := l.infoLost + 1, dropped := true, infoDrop := true }, none)
  else
    let l1 := if used + r.size ≤ 4194304 then l else makeRoom (if r.sev = 1 then 0 else 3) r.size l.recs.length l
    if 4194304 < unflushedBytes l1.recs + r.size then
      ({ l with infoLost := if r.sev = 0 then l.infoLost + 1 else l.infoLost,
                warnLost := if r.sev = 1 then l.warnLost + 1 else l.warnLost, dropped := true }, none)
    else
      let r := { r with seq := l1.seq + 1 }
      ({ l1 with seq := r.seq, recs := l1.recs ++ [r], infoDrop := decide (3670016 < used),
                 reservation := if r.seq % 65536 = 0 then r.seq + 131072 else l1.reservation }, some r)

/-- A record of SEV fault or critical lights FAULT (R612). -/
def State.lightFault (s : State) (sev : Nat) : State :=
  { s with sys := { s.sys with faultFlash := s.sys.faultFlash || decide (2 ≤ sev), faultAt := if 2 ≤ sev then s.tb.csr else s.sys.faultAt } }

/-- The state with the recorder changed. -/
def State.setLog (s : State) (l : LogSt) : State := { s with log := l }

/-- A record is offered to the recorder, which enters it in the buffer under the next SEQ and copies it into the live window (R556, R558).
With PD1 off the recorder is off, and nothing is recorded (table Power domains, R94). -/
def State.addRec (s : State) (r : Rec) : State :=
  if s.log.taking && s.powered 1 then
    match s.log.enter (s.bit .logCtrl 0) r with
    | (l, some r') => ((s.lightFault r.sev).setLog l).liveCopy r'
    | (l, none) => (s.lightFault r.sev).setLog l
  else s.lightFault r.sev

/-- CODE of a record: of the table Fault records, else of the running image's code table (R612). -/
def State.recCode (s : State) (n : RecName) : Option Nat :=
  match n.fault with
  | some (c, _) => some c
  | none => (assocGet s.log.codeTab n).map (·.1)

/-- A module record of a name, with what its rule has it carry and its stamp status word. -/
def State.recordAt (s : State) (n : RecName) (args : List Nat) (status : Nat) : State :=
  let code := s.recCode n
  let sev := match n.fault with
    | some (_, v) => v
    | none => 0
  let blen := match assocGet s.log.codeTab n with
    | some (_, b) => b
    | none => 16
  s.addRec { name := n, code := code, sev := sev, source := code.map (· / 256), software := false, seq := 0, ang := s.tb.ang,
             astatus := status, pt := s.tb.pt, args := args, soft := [], size := recSize blen, flushed := false }

/-- A module record made now. -/
def State.record (s : State) (n : RecName) (args : List Nat := []) : State := s.recordAt n args s.status

/-- A record given with its CODE, SEV, SOURCE, body and instant: of software through LOG_WRITE, or offered to the recorder (R556, R568);
the body is padded to a multiple of 8 bytes. -/
def State.givenRec (s : State) (code sev source : Nat) (body : List Byte) (ang : Nat) (pt : PlantTime) : State :=
  let body := body ++ List.replicate ((8 - body.length % 8) % 8) (0 : Byte)
  s.addRec { name := .software, code := some code, sev := sev, source := some source, software := decide (0xF000 ≤ code), seq := 0,
             ang := ang, astatus := s.status, pt := pt, args := [], soft := body, size := recSize body.length, flushed := false }

/-- The newest SEQ in the RECORDER partition. -/
def lastFlushed (l : List Rec) : Nat := l.foldl (fun n r => if r.flushed then max n r.seq else n) 0

/-- Drops the oldest flushed records until the RECORDER partition holds at most its 4 GiB. -/
def trimLog : Nat → List Rec → List Rec
  | 0, l => l
  | k + 1, l =>
    if 4294967296 < l.foldl (fun n r => if r.flushed then n + r.size else n) 0 then trimLog k (l.drop 1) else l

/-- Writes the unflushed records to the RECORDER partition (R557); below 2 MiB unflushed, what was dropped is recorded (R558). -/
def State.flushLog (s : State) : State :=
  let l := s.log
  let recs := l.recs.map fun r => { r with flushed := true }
  let kept := trimLog recs.length recs
  let s1 := { s with log := { l with recs := kept, infoDrop := false, flushAt := s.tb.csr,
                                     erased := (recs.take (recs.length - kept.length)).foldl (fun n r => max n r.seq) l.erased } }
  if l.dropped then
    ({ s1 with log := { s1.log with dropped := false, droppedSeen := true, infoLost := 0, warnLost := 0, replaced := [] } }.record
      .recorderDropped ([l.infoLost, l.warnLost] ++ l.replaced)).raise 119
  else s1

/-- Writes every record to NAND, the one about dropped records among them (R95, R557). -/
def State.flushAll (s : State) : State := s.flushLog.flushLog

/-! Refused writes. -/

/-- WRITE_REFUSED naming the register and the writer, with event source 115 (R16). -/
def State.refuseWrite (s : State) (q : Requester) (addr : Nat) : State :=
  (s.record .writeRefused [addr, q.code]).raise 115

/-- DEBUG_DENIED naming the address, with event source 114 (R277). -/
def State.denyDebug (s : State) (addr : Nat) : State :=
  ({ s with dbg := { s.dbg with denied := satAt 65535 (s.dbg.denied + 1) } }.record .debugDenied [addr]).raise 114

/-- The answer of a read. -/
def State.answer (s : State) (q : Requester) (v : Nat) : State := { s with resp := some ⟨q, v, .ok⟩ }

/-- A refused access. -/
def State.answerErr (s : State) (q : Requester) (e : BusErr) : State := { s with resp := some ⟨q, 0, e⟩ }

/-! Fence and referee. -/

/-- REF_FENCE follows the toggle: high only where R629 allows it and while the lease logic toggles. -/
def State.refence (s : State) : State :=
  { s with wb := { s.wb with fenced := !(s.fenceAllowed && s.wb.wdAlive) } }

/-- Referee messages go by the network (WB_LEASE_CFG.REF_PATH). -/
def State.refByNet (s : State) : Bool :=
  let p := s.fld .wbLeaseCfg 16 2
  decide (p = 1 ∨ (p = 2 ∧ s.wb.refReach = false ∧ s.wb.sends = 3))

/-- The lease term TERM (R213). -/
def State.term (s : State) : Nat := s.fld .wbLeaseCfg 0 15

/-- PAIR_ID (R195). -/
def State.pairId (s : State) : Nat := s.fld .wbPairId 0 16

/-- Sends a message to the referee under the next SEQ; it awaits its reply (R213). -/
def State.sendRef (s : State) (t : RefType) : State :=
  let m : RefMsg := { type := t, slotB := s.pwr.slotB, pairId := s.pairId, seq := (s.wb.refSeq + 1) % 2 ^ 32, termUs := s.term,
                      gen := s.wb.gen, bootEpoch := s.wb.bootEpoch }
  { s with wb := { s.wb with refSeq := m.seq, outstanding := some m, sends := 1, lastSent := s.tb.csr } }.emit (.referee s.refByNet m)

/-- The fence falls (R220); on the network FENCED is sent in its place (R226). -/
def State.dropFence (s : State) : State :=
  let s := { s with wb := { s.wb with wdAlive := false, fenced := true } }
  if s.fld .wbLeaseCfg 16 2 ≠ 0 then s.sendRef .fenced else s

/-- TYPE of a Wingbeat message (table Wingbeat messages, R453). -/
def WbMsg.type : WbMsg → Nat
  | .heartbeat _ => 0x01
  | .manifest _ => 0x02
  | .fetch _ | .fetchMsg _ _ => 0x03
  | .fetchData _ _ => 0x04
  | .outputDigest _ _ => 0x05
  | .journal _ _ => 0x06
  | .journalAck _ _ => 0x07
  | .halfSamples .. | .halfState .. | .halfRelay _ _ => 0x08
  | .handover _ _ => 0x09
  | .consent _ _ => 0x0A
  | .resync _ => 0x0B
  | .powerFail _ => 0x0C
  | .hello _ => 0x0D
  | .protNotice .. => 0x0E

/-- MSG_SEQ of the next message of a TYPE: one more than the messages of that TYPE sent (table Wingbeat message header;
notes/assumptions/84.md). -/
def nextMsgSeq (l : List Out) (type : Nat) : Nat :=
  ((l.filter fun o => match o with
    | .wb _ m => m.type == type
    | _ => false).length + 1) % 2 ^ 32

/-- The generation a message carries: a lease holder's own grant, otherwise the highest one seen (R217). -/
def State.sendGen (s : State) : Nat := if s.holds then s.wb.granted else s.wb.gen

/-- Sends a Wingbeat message while a lane is up. -/
def State.sendWb (s : State) (m : WbMsg) : State :=
  if s.wbUp then s.emit (.wb ⟨nextMsgSeq s.out m.type, s.sendGen⟩ m) else s

/-- The highest generation seen (R217). -/
def State.seeGen (s : State) (g : Nat) : State := { s with wb := { s.wb with gen := max s.wb.gen g } }

/-! Modes. -/

/-- Closes every block lock (R623). -/
def State.closeLocks (s : State) : State := { s with locks := s.locks.map fun l => { l with holder := none } }

/-- The body of HEARTBEAT as the module would send it now (table Wingbeat messages). -/
def State.hbBody (s : State) : HbBody :=
  { mode := s.sys.mode, lease := s.wb.lease, gen := s.sendGen, cycle := s.wb.cycle, jsn := s.wb.jsn, holdupOk := s.pwr.holdupOk,
    refReach := s.wb.refReach, unitHealth := s.sys.unitHealth, safeHoldCause := s.sys.safeHoldCause, cocoonReq := s.sys.cocoonReq }

/-- RUN_STATE of the program in a mode: it runs in the modes that emit and in SYNC's follow, drives safe values in SAFE-HOLD (R302), and
is stopped elsewhere. -/
def runStateIn (m : Mode) (old : Nat) : Nat :=
  match m with
  | .safeHold => 2
  | .inserted | .boot | .quarantine | .service | .cocoon => 0
  | .sync | .standby | .active | .solo | .handover | .update => if old = 2 then 0 else old

/-! Field outputs. -/

/-- Output n: DO0 to DO11, then PDO0 to PDO3. -/
def State.doCh (s : State) (n : Nat) : DoSt := s.dio.dos.getD n {}

/-- The state with output n changed. -/
def State.setDoSt (s : State) (n : Nat) (f : DoSt → DoSt) : State := { s with dio := { s.dio with dos := updAt s.dio.dos n f } }

/-- AO n. -/
def State.aoCh (s : State) (n : Nat) : AoSt := s.aio.aos.getD n {}

/-- The state with AO n changed. -/
def State.setAoSt (s : State) (n : Nat) (f : AoSt → AoSt) : State := { s with aio := { s.aio with aos := updAt s.aio.aos n f } }

/-- What the signed configuration says of AO n. -/
def State.aoCfg (s : State) (n : Nat) : AoCfg := s.cfg.ao.getD n {}

/-- A PDO is held off by its trip group: while it is tripped, and until it re-arms (R452, R455). -/
def State.heldTrip (s : State) (n : Nat) : Bool :=
  decide (12 ≤ n) && (let g := s.prot.groups.getD (n - 12) {}; g.tripped || g.rearmWait)

/-- The switch of output n is on: commanded, not shorted or latched off, not under a dark test, not held off by a trip, supplied, with PD7
on in a mode that drives the field (R46, R90, R484, R489, R491, R492). -/
def State.doOn (s : State) (n : Nat) : Bool :=
  let d := s.doCh n
  d.cmd && !d.thermal && !d.latched && !d.dark && !s.heldTrip n && !d.noSupply && s.fieldOn

/-- Output n is switched to a level commanded (R489): a change ends a dark test (R491); a latched channel frees itself once its command has
been off for a cycle and is then turned on (R492). -/
def State.setDo (s : State) (n : Nat) (on : Bool) : State :=
  let d := s.doCh n
  let free := on && d.seenOff
  let s := s.setDoSt n fun d => { d with
    cmd := on, dark := d.dark && d.cmd == on, seenOff := !on, thermal := d.thermal && !free, latched := d.latched && !free,
    retryRun := if free then 0 else d.retryRun, offAt := if d.cmd && !on then s.tb.csr else d.offAt }
  s.setDoSt n fun c => { c with readback := s.doOn n, swAt := if d.cmd = on then c.swAt else s.tb.csr }

/-- A value for AO n from one kind of source; the other kind is ignored (R498); a value not finite, or the code FAIL, sends it to its failure
level (R499). -/
def State.setAo (s : State) (n : Nat) (fromLoop : Bool) (v : F32) (fail : Bool) : State :=
  if (s.aoCfg n).srcLoop ≠ fromLoop then s
  else s.setAoSt n fun a => { a with command := v, safeFail := fail || !ffinite v, cmdAt := if a.command = v then a.cmdAt else s.tb.csr }

/-- The safe value of output n of the DOs, or of the AOs, by the identity of its image point (R302). -/
def State.safeOf (s : State) (points : List Nat) (n : Nat) : SafeVal :=
  match points[n]? with
  | some i => (assocGet s.cfg.safeValues i).getD (.value 0)
  | none => .value 0

/-- Output n of the DOs takes its safe value (R302). -/
def State.safeDo (s : State) (n : Nat) : State := match s.safeOf s.cfg.doPoint n with
  | .value v => s.setDo n (v != 0)
  | .hold | .fail => s

/-- AO n takes its safe value: a fixed one, the last one, or its failure level (R302, R499). -/
def State.safeAo (s : State) (n : Nat) : State := match s.safeOf s.cfg.aoPoint n with
  | .value v => s.setAo n (s.aoCfg n).srcLoop (BitVec.ofNat 32 v) false
  | .hold => s
  | .fail => s.setAoSt n fun a => { a with safeFail := true }

/-- Every local output takes its safe value (R302). -/
def State.driveSafe (s : State) : State := (List.range 4).foldl State.safeAo ((List.range 16).foldl State.safeDo s)

/-- The field channels in a new mode: in one that does not drive them every output is off (R90); in SAFE-HOLD each takes its safe value (R302); AIO_CAL.EN falls outside STANDBY, its unstored trims with it
(R505, R506); a member in SYNC makes up no shared loop (R503). -/
def State.fieldMode (s : State) (m : Mode) : State :=
  let off := !modeDrives m
  let dos := if off then s.dio.dos.map fun d => { d with cmd := false, readback := false, thermal := false, dark := false } else s.dio.dos
  let aos := s.aio.aos.map fun a =>
    { a with command := if off then 0 else a.command, safeFail := a.safeFail && !off,
             makeup := a.makeup && !off,
             wZero := if m = .standby then a.wZero else a.zero, wSpan := if m = .standby then a.wSpan else a.span }
  let s := { s with dio := { s.dio with dos := dos },
                    aio := { s.aio with aos := aos, calEn := s.aio.calEn && decide (m = .standby),
                                        dirty := s.aio.dirty && decide (m = .standby) } }
  if m = .safeHold then s.driveSafe else s

/-- Modes in which the module drives its ring ends (R361). -/
def slkDrives : Mode → Bool
  | .standby | .active | .solo | .handover | .update | .safeHold | .cocoon => true
  | _ => false

/-- The ring ends in a new mode: an end that is not driven is off (R361). -/
def State.ringMode (s : State) (m : Mode) : State :=
  if slkDrives m then s
  else { s with slk := { s.slk with rings := s.slk.rings.map fun (r : Ring) => { r with rstate := 0, sweeps := r.sweeps.filter (·.built) } } }

/-- Changes the mode (R594, R596): domains as the mode's row, every lock closed (R623), MODE_CHANGE recorded, the fence as R629; the boot
watchdog count falls to 0 at STANDBY, ACTIVE or SOLO (R602). `cause` is the CODE of the record that caused the change. -/
def State.setMode (s : State) (m : Mode) (cause : Nat := 0) : State :=
  if s.sys.mode = m then s
  else
    let old := s.sys.mode
    let good := m = .standby ∨ m = .active ∨ m = .solo
    let sys := { s.sys with mode := m, prevMode := old, modeCause := cause % 256, domains := modeDomains m,
                            wdCount := if good then 0 else s.sys.wdCount,
                            safeHoldCause := if m = .safeHold then s.sys.safeHoldCause else 0,
                            exitKind := if m = .safeHold then s.sys.exitKind else none,
                            starting := s.sys.starting && decide (m = .boot),
                            cocoonWoke := s.sys.cocoonWoke && decide (m = .cocoon),
                            stopPend := s.sys.stopPend && decide (m = .active ∨ m = .solo),
                            cocoonEntering := s.sys.cocoonEntering && decide (m = .active ∨ m = .solo),
                            cocoonReq := s.sys.cocoonReq && decide (m = .active ∨ m = .solo),
                            inCocoon := decide (m = .cocoon), stageAt := if m = .boot then s.tb.csr else s.sys.stageAt }
    let prg := { s.prg with runState := runStateIn m s.prg.runState }
    let s1 := ({ s with sys := sys, prg := prg, upd := { s.upd with healthFrom := s.tb.csr } }.closeLocks).fieldMode m |>.ringMode m
    let s2 := if m = .quarantine ∨ m = .service then s1.dropFence else s1
    ((s2.record .modeChange [old.code, m.code, cause]).refence)

/-- UPDATE ends with its command: back to STANDBY. -/
def State.endUpdate (s : State) : State :=
  let s := { s with upd := { s.upd with work := none, image := [], progress := 0 } }
  if s.sys.mode = .update then s.setMode .standby else s

/-- The wake out of COCOON (R610, table Cocoon wake t0, t1): recorded with the cause bits, every domain on, one wake frame to the
partner's kept port. -/
def State.wakeCocoon (s : State) (cause : Nat) : State :=
  if s.sys.mode ≠ .cocoon ∨ s.sys.cocoonWoke then s
  else
    let s := s.record .cocoonWake [cause]
    { s with sys := { s.sys with cocoonWoke := true, cocoonAt := s.tb.csr, domains := 0xFF }, slk := { s.slk with ckCause := cause } }.emit
      (.net (s.fld .sysCocoon 0 2 / 2) 0 (.wake s.pairId))

/-- CODE of a fault record. -/
def recCodeOf (n : RecName) : Nat := match n.fault with
  | some (c, _) => c
  | none => 0

/-- Gives up whatever lease state the module has, with event source 64. -/
def State.endLease (s : State) : State :=
  if s.wb.lease = .none then s
  else { s with wb := { s.wb with lease := .none, expiry := 0, consentEnd := none, ho := .idle, dual := false } }.raise 64

/-- Enters QUARANTINE because of a record (table Modes in detail). -/
def State.enterQuarantine (s : State) (n : RecName) (args : List Nat := []) : State :=
  ((s.record n args).endLease).setMode .quarantine (recCodeOf n)

/-- Enters SERVICE. -/
def State.enterService (s : State) (cause : Nat := 0) : State := (s.endLease).setMode .service cause

/-! Restart. -/

/-- The registers that outlive a restart: those of PD0 (R601) and SPLIT. -/
def keptReg (addr : Nat) : Bool :=
  decide (addr = RegName.angCtrl.addr 0 0 ∨ addr = RegName.angSlew.addr 0 0 ∨ addr = RegName.angOffset.addr 0 0
    ∨ addr = RegName.angSeed.addr 0 0 ∨ addr = RegName.ptUtc.addr 0 0 ∨ addr / 0x10000 = 0x4003
    ∨ addr = RegName.coreCfg.addr 1 0 ∨ addr = RegName.coreCfg.addr 2 0 ∨ addr = RegName.coreCfg.addr 3 0)

/-- Core pairs after a restart: split where SPLIT asks for it (R263). -/
def State.bootPairs (s : State) : List PairSt :=
  (List.range 4).map fun k => if k ≠ 0 ∧ s.bit .coreCfg 0 k then { state := 1 } else {}

/-- UPTO of the last clear that the records tell of, 0 with none (R566). -/
def lastCleared (l : List Rec) : Nat :=
  l.foldl (fun u (r : Rec) => if r.name = .logCleared then r.args.headD 0 else u) 0

/-- A clear that a restart interrupted is completed from its flushed LOG_CLEARED record (R566). -/
def finishClear (l : List Rec) : List Rec := l.filter fun (r : Rec) => decide (lastCleared l < r.seq) || r.name == .logCleared

/-- Everything a restart leaves (R601, R620): PD0's clocks, the feeds, bank, straps and lever as they are, fused and NAND contents;
the rest as after power-on. -/
def State.afterRestart (s : State) (cause : Nat) : State :=
  { sys := { mode := s.sys.mode, prevMode := s.sys.prevMode, domains := s.sys.domains, resetCause := cause,
             wdCount := if cause = 4 then satAt 15 (s.sys.wdCount + 1) else s.sys.wdCount, cold := s.sys.cold,
             variant := s.sys.variant, siliconRev := s.sys.siliconRev, boardRev := s.sys.boardRev, bomRev := s.sys.bomRev,
             pciVendor := s.sys.pciVendor, faultFlash := s.sys.faultFlash, faultAt := s.sys.faultAt, stageAt := s.tb.csr, tempInlet := s.sys.tempInlet,
             tempBoard := s.sys.tempBoard },
    pwr := { s.pwr with pullOk := false, pullFlash := false, extraction := false, pf := .idle, rideThrough := false,
                        feedReturned := false, onBackup := false },
    tb := { s.tb with alarms := List.replicate 32 {}, latches := [], lowWords := [], frames := [],
                      mapHist := [] },
    slk := { epoch := s.slk.epoch, rings := s.slk.rings.map fun r => { epoch := r.epoch, occ := r.occ } },
    rtc := s.rtc, core := { pairs := s.bootPairs }, est := { history := s.est.history, checkpoint := s.est.checkpoint },
    aio := { aos := s.aio.aos.map fun a => { zero := a.zero, span := a.span, wZero := a.zero, wSpan := a.span } },
    net := { mac := s.net.mac },
    nvs := { s.nvs with ready := false, scrubbing := false, fixHigh := false, uncorrSeen := false, scrubSlow := false, scrubProg := 0 },
    log := { seq := if s.wb.flushMarker ∧ s.log.taking = false then lastFlushed s.log.recs else s.log.reservation - 1,
             recs := finishClear (s.log.recs.filter (·.flushed)), reservation := s.log.reservation, cleared := s.log.cleared,
             codeTab := s.log.codeTab },
    sec := { s.sec with bootFail := false, picked := false, bootSlot := 0, factoryBoot := false, sigFailSeen := false, meas := List.replicate 64 0 },
    upd := { s.upd with ready := false, scheduled := none, fellBack := false, progress := 0, work := none, image := [],
                        fallbackPending := false, resyncDone := false },
    wb := { bootEpoch := s.wb.bootEpoch, served := s.wb.served, flushMarker := s.wb.flushMarker },
    regs := s.regs.filter fun p => keptReg p.1,
    mem := s.mem.filter fun c => decide (c.1 < 0x10000 ∨ 0x001000000000 ≤ c.1 ∧ c.1 < 2 ^ 48 ∨ 2 ^ 52 ≤ c.1),
    resp := s.resp, out := s.out, freeCtr := s.freeCtr, pending := s.pending }

/-- An RTC_LOST record that waited for the recorder is made, with event source 106 (R148). -/
def State.tellRtcLost (s : State) : State :=
  match s.rtc.lostPend with
  | some r => ({ s with rtc := { s.rtc with lostPend := none } }.record .rtcLost [ofBool r]).raise 106
  | none => s

/-- A restart cause (table Restart causes): every domain but PD0 is reset, BOOT is entered, RESTART is recorded with the cause, and
RECORDER_GAP when the recorder's last flush did not end with its marker (R556, R601). -/
def State.restart (s : State) (cause : Nat) : State :=
  let gap := !(s.wb.flushMarker && !s.log.taking)
  let first := lastFlushed s.log.recs + 1
  let s1 := s.afterRestart cause
  let s2 := { s1 with sys := { s1.sys with domains := modeDomains .boot } }.setMode .boot
  let s3 := if gap then s2.record .recorderGap [first, s.log.reservation - 1] else s2
  let s4 := if s.dbg.unlocked then s3.record .debugRelock else s3
  (s4.tellRtcLost).record .restartRec [cause]

/-! Extraction. -/

/-- The module refuses extraction (R94): EXTRACT_REFUSED, PULL flashes, and an extraction under way ends. -/
def State.refuseExtract (s : State) : State :=
  { s with pwr := { s.pwr with pullFlash := true, extraction := false } }.record .extractRefused [s.sys.mode.code]

/-- What the module does about a lever at its first detent, by its mode (R94). A boot that found no slot has no further stage boundary: it
ends at once. -/
def State.actExtraction (s : State) : State :=
  match s.sys.mode with
  | .inserted => { s with pwr := { s.pwr with extraction := true, pullOk := true } }
  | .boot =>
    let s := { s with pwr := { s.pwr with extraction := true } }
    if 3 ≤ s.sys.bootStage ∨ s.sys.bootStop then (if s.sys.starting ∧ s.wb.lease = .request then s.sendRef .release else s).enterService else s
  | .standby | .update | .sync | .quarantine | .service => { s with pwr := { s.pwr with extraction := true } }.enterService
  | .active =>
    if s.partnerStandby then
      { s with pwr := { s.pwr with extraction := true },
               wb := { s.wb with ho := if s.wb.ho = .idle then .planned else s.wb.ho } }
    else s.refuseExtract
  | .handover => { s with pwr := { s.pwr with extraction := true } }
  | .solo | .cocoon | .safeHold => s.refuseExtract

/-- What waited for the lease to be settled, or for the mode to be left: a restart after the lever's return, or the extraction itself (R94,
R96). -/
def State.afterSettle (s : State) : State :=
  match s.sys.restartPend with
  | some c => { s with sys := { s.sys with restartPend := none }, pwr := { s.pwr with ejectReq := false } }.restart c
  | none => if s.pwr.ejectReq ∧ s.pwr.extraction then s.actExtraction else s

/-- An expired trial that cannot hand over falls back at its next restart (R592). -/
def State.dropFallback (s : State) : State :=
  if s.sys.restartPend = some 6 then
    { s with sys := { s.sys with restartPend := none }, upd := { s.upd with fallbackPending := true } }
  else s

/-- An extraction that cannot have its hand-over is refused (R94); where the lever is back already, EJECT_REQ and the flash go with it
(R96). -/
def State.dropExtraction (s : State) : State :=
  let s := s.dropFallback
  if s.pwr.ejectReq ∧ s.pwr.extraction then
    let t := s.refuseExtract
    if s.sys.restartPend.isSome then
      { t with sys := { t.sys with restartPend := none }, pwr := { t.pwr with ejectReq := false, pullFlash := false } }
    else t
  else s

/-- A planned hand-over that has not begun is given up, with the drill and the extraction that waited for it (R94, R245). -/
def State.dropPlanned (s : State) : State :=
  if s.wb.ho = .planned then
    ({ s with wb := { s.wb with ho := .idle, drill := .idle, drillTimes := [] } }).dropExtraction
  else s

/-- Enters SAFE-HOLD with the cause of the HEARTBEAT table: 1 own overrun, 2 partner's overrun, 3 CONTROL_LOST; an extraction or a restart that
waited for a hand-over is judged again there (R94 to R96). -/
def State.enterSafeHold (s : State) (cause : Nat) (code : Nat := 0) : State :=
  let s := s.endLease
  (({ s with sys := { s.sys with safeHoldCause := cause, exitKind := none } }.setMode .safeHold code).refence).afterSettle

/-! Journal. -/

/-- Length of a journal entry: a header of 32 bytes and its body (table Journal entry header). -/
def jLength : JBody → Nat
  | .desc _ _ b => 32 + b.length
  | .step _ _ _ => 40
  | .intent _ _ _ p => 36 + p.length
  | .done .. => 64
  | .retained _ v => 32 + 16 * v.length
  | .checkpoint _ d v => 32 + d.length + 16 * v.length
  | .lease .. => 37
  | .ordAck .. => 40
  | .referee _ => 80

/-- Bytes of the journal region. -/
def journalSize : Nat := 536870912

/-- Records JOURNAL_FULL at its onset: region at 90 % or more, or more than 14 MiB not yet in NAND (R241). -/
def State.checkJournalFull (s : State) : State :=
  if s.wb.journalFull = false ∧ (journalSize * 9 ≤ s.wb.journalBytes * 10 ∨ 14680064 < s.wb.unwritten) then
    { s with wb := { s.wb with journalFull := true } }.record .journalFull
  else s

/-- Credit returns when the region is at most 85 % full and at most 12 MiB are not yet written (R241). -/
def State.checkJournalFree (s : State) : State :=
  if s.wb.journalFull = true ∧ s.wb.journalBytes * 100 ≤ journalSize * 85 ∧ s.wb.unwritten ≤ 12582912 then
    { s with wb := { s.wb with journalFull := false } }.record .journalFullEnd
  else s

/-- The holder writes an entry under the next JSN to its own journal, then sends it (R236, R240). -/
def State.journalAdd (s : State) (b : JBody) : State :=
  let e : JEntry := ⟨s.wb.jsn + 1, s.sendGen, b⟩
  let wb := { s.wb with jsn := e.jsn, journal := s.wb.journal ++ [e], journalBytes := s.wb.journalBytes + jLength b,
                        unwritten := s.wb.unwritten + jLength b, flushMarker := false }
  ({ s with wb := wb }.sendWb (.journal (!s.wb.dual) [e])).checkJournalFull

/-- Entry `j` is committed: acknowledged by the partner, or in the own journal once dual commit has ended (R237). -/
def State.committed (s : State) (j : Nat) : Bool := decide (j ≤ if s.wb.dual then s.wb.jsnAck else s.wb.jsn)

/-- A DONE of entry `j` stands in the journal. -/
def hasDone (l : List JEntry) (j : Nat) : Bool :=
  l.any fun e => match e.body with
    | .done _ _ k _ _ _ _ => k == j
    | _ => false

/-- The sequence numbers of the output streams: of each, its identity and the last number given (R62). -/
def State.streamSeqs (s : State) : List Nat := s.wb.streams.flatMap fun t => [t.id, t.nextSeq - 1]

/-- GUARANTEE_BROKEN with the journal position, what the case adds, and the streams' sequence numbers; event source 70 (R62). -/
def State.guaranteeBroken (s : State) (args : List Nat) : State :=
  (s.record .guaranteeBroken (s.wb.jsn :: args ++ s.streamSeqs)).raise 70

/-- Numbered entries of a list. -/
def numbered {α : Type} : Nat → List α → List (Nat × α)
  | _, [] => []
  | k, a :: as => (k, a) :: numbered (k + 1) as

/-- The newest `n` of a list. -/
def newest {α : Type} (n : Nat) (l : List α) : List α := l.drop (l.length - n)

/-- A number of microseconds in counts of the lease clock (10 ns). -/
def usTicks (us : Nat) : Nat := us * 100

/-- Epoch a comes after epoch b, numbers going round at 2^32; b = 0 stands for none. -/
def laterEpoch (a b : Nat) : Bool :=
  let d := (a + 2 ^ 32 - b) % 2 ^ 32
  b == 0 || decide (0 < d ∧ d < 2 ^ 31)

/-- An item that a module now holds: no manifest misses it any more (R199). -/
def State.holdItem (s : State) (e : ManEntry) (content : List Byte) : State :=
  { s with wb := { s.wb with heldItems := newest 4096 (assocSet s.wb.heldItems e content),
                             manifests := s.wb.manifests.map fun m => { m with missing := m.missing.filter fun x => decide (x ≠ e) } } }

/-- A received item or sweep that the holder's next manifest names (R198). A follower keeps it too, for the manifest that names it, or for
its own first one as the new holder (R199, R233). -/
def State.nameItem (s : State) (e : ManEntry) (content : List Byte) : State :=
  let t := s.holdItem e content
  if s.wb.manifests.any fun m => m.entries.contains e then t
  else { t with wb := { t.wb with newItems := newest 4096 (t.wb.newItems ++ [e]) } }

/-! Units. -/

/-- The lost units of a mask of SYS_UNIT_HEALTH as a whole leave the control service without a pair, or without network and
Wingbeat (table Minimum service sets). -/
def controlLost (health : Nat) (lanesUp : Bool) : Bool :=
  bitsOf health 0 4 == 15 || (bitsOf health 16 4 == 15 && (bitsOf health 20 2 == 3 || !lanesUp))

/-- R55: an active module that has lost a unit, beside a whole partner in STANDBY, plans a handover at the next cycle boundary. -/
def State.planIfDegraded (s : State) : State :=
  if s.sys.mode = .active ∧ s.sys.unitHealth ≠ 0 ∧ s.partnerStandby ∧ s.partnerWhole ∧ s.wb.ho = .idle then
    { s with wb := { s.wb with ho := .planned } }
  else s

/-- R57: leaves the control service for SAFE-HOLD with cause CONTROL_LOST, from a mode that gives it; the fence is refreshed no more. -/
def State.leaveControl (s : State) : State :=
  if s.sys.mode = .active ∨ s.sys.mode = .standby ∨ s.sys.mode = .solo ∨ s.sys.mode = .handover ∨ s.sys.mode = .update then
    ({ s with wb := { s.wb with wdAlive := false } }.enterSafeHold 3 (recCodeOf .unitLost))
  else s

/-- R57, when the remaining units cannot give the control service. -/
def State.safeIfLost (s : State) : State := if controlLost s.sys.unitHealth true then s.leaveControl else s

/-- Sets a unit's bit (R54). -/
def State.setUnit (s : State) (u : Nat) : State :=
  { s with sys := { s.sys with unitHealth := s.sys.unitHealth ||| 2 ^ u }, upd := { s.upd with healthFrom := s.tb.csr } }

/-- Clears a unit's bit (R597). -/
def State.clearUnit (s : State) (u : Nat) : State :=
  { s with sys := { s.sys with unitHealth := if bitOf s.sys.unitHealth u then s.sys.unitHealth ^^^ 2 ^ u else s.sys.unitHealth },
           upd := { s.upd with healthFrom := s.tb.csr } }

/-- A unit is lost: its bit, UNIT_LOST naming it, event source 108, then R55 and R57. -/
def State.loseUnit (s : State) (u : Nat) : State :=
  ((((s.setUnit u).record .unitLost [u]).raise 108).planIfDegraded).safeIfLost

/-- The outcome of a command. -/
abbrev Result := Host.Outcome State Fault Refusal

/-- A message of the partner is taken when its CRC holds, a lane is up and it carries no generation below the highest one seen (R197, R217);
its generation may be the highest seen from then on. -/
def State.fromPartner (s : State) (crcOk : Bool) (gen : Nat) (f : State → State) : Result :=
  .next (if !crcOk || !s.wbUp || decide (gen < s.wb.gen) then s else f (s.seeGen gen))

/-- The state after a command's own operation. -/
def State.after (s : State) (f : State → Result) : State :=
  match f s with
  | .next t => t
  | .fault _ => s
  | .refused _ => s

end Sys2Proof.Machine
end

