-- ==== Sys2Proof/Machine/Operands.lean ====
section
/-! DEFINITION. The operand forms of commands: the descriptor and its fields, buffers in the owner's space, the MPU check of an access,
the opcodes of every engine, completion entries, and how a finished operation gives its result (04_rings_queues_and_events.md,
06_control_cores_and_protection_units.md). -/

namespace Sys2Proof.Machine

/-! The descriptor, 64 bytes (table Descriptor). -/

/-- OPCODE. -/
def dOpcode (d : List Byte) : Nat := leField d 0 1
/-- FLAGS. -/
def dFlags (d : List Byte) : Nat := leField d 1 1
/-- FENCE. -/
def dFence (d : List Byte) : Bool := bitOf (dFlags d) 0
/-- EVENT. -/
def dEvent (d : List Byte) : Bool := bitOf (dFlags d) 1
/-- TIMED. -/
def dTimed (d : List Byte) : Bool := bitOf (dFlags d) 2
/-- TIME_BASE: plant time. -/
def dPtBase (d : List Byte) : Bool := bitOf (dFlags d) 3
/-- LATE_POLICY. -/
def dLatePolicy (d : List Byte) : Bool := bitOf (dFlags d) 4
/-- PROGRESS. -/
def dProgress (d : List Byte) : Bool := bitOf (dFlags d) 5
/-- SUBOP. -/
def dSubop (d : List Byte) : Nat := leField d 2 2
/-- COOKIE. -/
def dCookie (d : List Byte) : Nat := leField d 4 4
/-- SUBMIT_ID. -/
def dSubmit (d : List Byte) : Nat := leField d 8 8
/-- LENGTH. -/
def dLength (d : List Byte) : Nat := leField d 28 4
/-- ADDR. -/
def dAddr (d : List Byte) : Nat := leField d 32 8
/-- ADDR2. -/
def dAddr2 (d : List Byte) : Nat := leField d 40 8
/-- `k` INLINE bytes from byte `i`. -/
def dInline (d : List Byte) (i k : Nat) : Nat := leField d (48 + i) k

/-- Plant time of the 12-byte module format, in nanoseconds. -/
def ptField (d : List Byte) (i : Nat) : Nat := leField d (i + 4) 6 * 1000000000 + leField d i 4

/-- TIME as an instant on its own clock: an angle stamp, or nanoseconds of plant time. -/
def dTime (d : List Byte) : Nat := if dPtBase d then ptField d 16 else leField d 16 8

/-- TIME has the form that TIME_BASE names: bytes 24 to 27 zero for an angle stamp; nanoseconds below 10^9 and reserved bytes 0 for
plant time (R161). Without TIMED nothing is read from it. -/
def dTimeOk (d : List Byte) : Bool :=
  if !dTimed d then true
  else if dPtBase d then decide (leField d 16 4 < 1000000000) && leField d 26 2 == 0
  else leField d 24 4 == 0

/-- How an opcode uses ADDR. -/
inductive BufUse | none | reads | writes
  deriving DecidableEq, Repr

/-- An opcode of an engine: number, long or not, TIMED allowed, use of ADDR, bytes of its own result at ADDR2. -/
structure OpInfo where
  opcode : Nat
  long : Bool := false
  use : BufUse := .none
  res : Nat := 0
  deriving DecidableEq, Repr

/-- The opcodes of each engine (the opcode tables of the chapters). Opcodes 0x00 to 0x02 are every engine's. -/
def engineOpcodes : Nat → List OpInfo
  | 0 => [⟨0x10, false, .writes, 0⟩, ⟨0x11, false, .none, 0⟩, ⟨0x12, true, .writes, 0⟩, ⟨0x13, false, .writes, 0⟩,
          ⟨0x14, false, .none, 72⟩]
  | 1 => [⟨0x10, false, .reads, 0⟩, ⟨0x11, false, .none, 0⟩, ⟨0x12, false, .none, 0⟩, ⟨0x13, false, .reads, 0⟩,
          ⟨0x14, false, .reads, 0⟩, ⟨0x15, false, .reads, 0⟩, ⟨0x16, false, .none, 64⟩]
  | 2 => [⟨0x10, true, .none, 0⟩, ⟨0x11, false, .reads, 12⟩, ⟨0x12, false, .writes, 0⟩, ⟨0x13, false, .none, 12⟩,
          ⟨0x14, false, .none, 40⟩, ⟨0x20, true, .reads, 0⟩, ⟨0x21, false, .none, 0⟩, ⟨0x22, false, .none, 0⟩,
          ⟨0x23, false, .none, 0⟩, ⟨0x24, false, .none, 0⟩, ⟨0x25, false, .writes, 0⟩]
  | 3 => [⟨0x10, false, .reads, 12⟩, ⟨0x11, false, .none, 0⟩, ⟨0x12, false, .reads, 0⟩]
  | 5 => [⟨0x10, false, .reads, 12⟩, ⟨0x11, false, .reads, 0⟩]
  | 7 => [⟨0x10, true, .writes, 0⟩, ⟨0x11, true, .reads, 0⟩, ⟨0x12, true, .none, 0⟩, ⟨0x13, false, .writes, 0⟩,
          ⟨0x20, false, .reads, 8⟩, ⟨0x21, true, .writes, 32⟩, ⟨0x22, true, .reads, 0⟩]
  | 8 => [⟨0x10, false, .writes, 0⟩, ⟨0x11, true, .reads, 64⟩, ⟨0x12, false, .reads, 0⟩, ⟨0x30, true, .reads, 0⟩,
          ⟨0x31, false, .none, 0⟩, ⟨0x32, false, .none, 0⟩, ⟨0x33, false, .none, 0⟩]
  | 9 => [⟨0x10, false, .reads, 256⟩, ⟨0x11, false, .none, 0⟩, ⟨0x12, false, .none, 0⟩]
  | 10 => [⟨0x20, false, .none, 0⟩, ⟨0x21, true, .reads, 0⟩, ⟨0x22, true, .none, 0⟩, ⟨0x23, true, .writes, 0⟩,
           ⟨0x24, false, .none, 0⟩, ⟨0x25, false, .none, 0⟩, ⟨0x26, false, .none, 0⟩, ⟨0x27, false, .reads, 0⟩,
           ⟨0x28, false, .none, 0⟩, ⟨0x29, false, .writes, 0⟩, ⟨0x30, false, .none, 0⟩, ⟨0x31, false, .none, 0⟩,
           ⟨0x40, false, .none, 0⟩]
  | _ => []

/-- The opcode of an engine; NOP, ABORT and DRAIN are every engine's (table Descriptor). -/
def opInfo (engine opcode : Nat) : Option OpInfo :=
  if opcode = 0 ∨ opcode = 1 then some ⟨opcode, false, .none, 0⟩
  else if opcode = 2 then some ⟨2, false, .writes, 0⟩
  else (engineOpcodes engine).find? fun o => o.opcode == opcode

/-- The operation is a long one (R40). -/
def opLong (engine opcode : Nat) : Bool := ((opInfo engine opcode).map (·.long)).getD false

/-- The rings an opcode is carried out on, by AUTH and DURABLE (R309, R356, R403, R441, R481, R509, R524, R536, R568, R593, R607). -/
def ringAllows (engine opcode : Nat) (auth durable : Bool) : Bool :=
  match engine with
  | 0 => opcode != 0x11 || durable
  | 1 => !decide (0x10 ≤ opcode ∧ opcode ≤ 0x15) || durable
  | 2 => if opcode = 0x10 ∨ opcode = 0x11 ∨ opcode = 0x13 then auth
         else !decide (0x20 ≤ opcode ∧ opcode ≤ 0x24) || durable
  | 3 => !(opcode == 0x10 || opcode == 0x11) || auth
  | 5 => opcode != 0x10 || auth
  | 7 => !(opcode == 0x11 || opcode == 0x12 || opcode == 0x22) || !auth
  | 8 => decide (opcode < 0x10) || !auth
  | 9 => if opcode = 0x10 then auth else !(opcode == 0x11 || opcode == 0x12) || !auth
  | 10 => decide (opcode < 0x10) || durable
  | _ => true

/-- FLAGS.PROGRESS as the opcode takes it: never with a program opcode (R309), always with LOG_EXPORT (R568). -/
def progressOk (engine : Nat) (d : List Byte) : Bool :=
  if engine = 10 ∧ 0x20 ≤ dOpcode d ∧ dOpcode d ≤ 0x29 then !dProgress d
  else if engine = 7 ∧ dOpcode d = 0x21 then dProgress d else true

/-- Reserved bits of the descriptor are 0 and TIME has its form (R161). -/
def descFormOk (d : List Byte) : Bool := decide (d.length = 64) && bitsOf (dFlags d) 6 2 == 0 && dTimeOk d

/-! Address spaces. -/

/-- The key of the memory list for an address of a hart's space: its own TCM lies apart (table Default map). -/
def hartKey (hart a : Nat) : Nat :=
  if 0x10000000 ≤ a ∧ a < 0x10080000 then 2 ^ 48 + hart * 2 ^ 20 + (a - 0x10000000) else a

/-- The key for an address of the station host: its memory shows in the cores' host window. -/
def hostKey (a : Nat) : Nat := if a < 2 ^ 36 then 0x001000000000 + a else 2 ^ 52 + a

/-- The hart of an owner code 1 to 8 (HQ_n_CTRL.OWNER, R253). -/
def ownerHart (o : Nat) : Nat := if o ≤ 4 then 2 * (o - 1) else 2 * (o - 5) + 1

/-- The key for an address of a ring owner's space. -/
def ownerKey (o a : Nat) : Nat := if o = 9 then hostKey a else hartKey (ownerHart o) a

/-! MPU check (R267 to R272). -/

/-- Kind of an access, as MPU_m_FAULT_INFO codes it. -/
inductive AccKind | fetch | load | store
  deriving DecidableEq, Repr

/-- Code of an access kind. -/
def AccKind.num : AccKind → Nat
  | .fetch => 0 | .load => 1 | .store => 2

/-- Privilege of an access: user, supervisor, machine, engine. -/
inductive AccPriv | user | supervisor | machine | engine
  deriving DecidableEq, Repr

/-- Code of a privilege. -/
def AccPriv.num : AccPriv → Nat
  | .user => 0 | .supervisor => 1 | .engine => 2 | .machine => 3

/-- Bytes of a region. -/
def Region.bytes (r : Region) : Nat := 2 ^ bitsOf r.attr.toNat 1 6

/-- A region grants an access. -/
def Region.grants (r : Region) (p : AccPriv) (k : AccKind) : Bool :=
  let b := match p, k with
    | .user, .load => 8 | .user, .store => 9 | .user, .fetch => 10
    | _, .load => 11 | _, .store => 12 | _, .fetch => 13
  bitOf r.attr.toNat b

/-- The enabled region of lowest number that holds an address (R267). -/
def regionAt (l : List Region) (a : Nat) : Option Region :=
  l.find? fun r => bitOf r.attr.toNat 0 && decide (r.base ≤ a ∧ a < r.base + r.bytes)

/-- The ranges of the table Default map with what machine and supervisor mode may do there. -/
def defaultMap (split : Bool) : List (Nat × Nat × (AccKind → Bool) × (AccKind → Bool)) :=
  [(0x0, 0x10000, fun k => k != .store, fun _ => false),
   (0x10000000, if split then 0x10040000 else 0x10080000, fun _ => true, fun _ => true),
   (0x40000000, 0x41000000, fun k => k != .fetch, fun k => k != .fetch),
   (0x000800000000, 0x000BE0000000, fun _ => true, fun k => k != .fetch),
   (0x000BE0000000, 0x000C00000000, fun k => k == .load, fun _ => false),
   (0x001000000000, 0x002000000000, fun k => k != .fetch, fun k => k != .fetch)]

/-- The default map grants an access at an address (R269). -/
def defaultGrants (split : Bool) (a : Nat) (p : AccPriv) (k : AccKind) : Bool :=
  match (defaultMap split).find? fun e => decide (e.1 ≤ a ∧ a < e.2.1) with
  | none => false
  | some (_, _, m, v) => match p with
    | .machine => m k
    | .supervisor => v k
    | _ => false

/-- The journal region belongs to the journal logic alone: no rule admits another's store (R541). -/
def inJournal (a : Nat) : Bool := decide (0x000BE0000000 ≤ a ∧ a < 0x000C00000000)

/-- One byte's access is granted. -/
def byteGranted (l : List Region) (split : Bool) (p : AccPriv) (k : AccKind) (a : Nat) : Bool :=
  if inJournal a && k == .store then false
  else match regionAt l a with
    | some r => r.grants p k
    | none => defaultGrants split a p k

/-- The next boundary above `a` of an enabled region or of the default map, at most `fin` (R268). -/
def nextBoundary (l : List Region) (split : Bool) (a fin : Nat) : Nat :=
  let cuts := (l.filter fun r => bitOf r.attr.toNat 0).flatMap (fun r => [r.base, r.base + r.bytes])
    ++ (defaultMap split).flatMap fun e => [e.1, e.2.1]
  cuts.foldl (fun m c => if a < c ∧ c < m then c else m) fin

/-- The first refused address of [a, fin), by its parts. -/
def firstRefused (l : List Region) (split : Bool) (p : AccPriv) (k : AccKind) : Nat → Nat → Nat → Option Nat
  | 0, _, _ => none
  | fuel + 1, a, fin =>
    if fin ≤ a then none
    else if byteGranted l split p k a then firstRefused l split p k fuel (nextBoundary l split a fin) fin
    else some a

/-- Parts an access can have: the boundaries of 32 regions and of the default map, and one more. -/
def maxParts : Nat := 80

/-- The MPU of an engine number (table MPU instances); the host's buffers are checked by the host port's (R160). -/
def engineMpu : Nat → Option Nat
  | 7 => some 16 | 8 => some 17 | 9 => some 18
  | e => if e ≤ 6 then some (8 + e) else none

/-- The regions in force of MPU `m`. -/
def State.mpuRegions (s : State) (m : Nat) : List Region := (s.core.mpus.getD m {}).cur

/-- Fences that the MPU of an engine has completed. -/
def State.fencesOf (s : State) (e : Nat) : Nat :=
  match engineMpu e with
  | some m => (s.core.mpus.getD m {}).fences
  | none => 0

/-- A refused access: counted, recorded as MPU_FAULT with instance, address, privilege and kind, event source 112 (R270). -/
def State.mpuFault (s : State) (m a : Nat) (p : AccPriv) (k : AccKind) : State :=
  let mp := updAt s.core.mpus m fun x =>
    { x with faultCount := satAt 65535 (x.faultCount + 1), faultAddr := a % 2 ^ 48, faultPriv := p.num, faultKind := k.num }
  ({ s with core := { s.core with mpus := mp } }.record .mpuFault [m, a, p.num, k.num]).raise 112

/-! Queues and completions. -/

/-- Queue `n`. -/
def State.queue (s : State) (n : Nat) : Queue := s.hq.queues.getD n {}

/-! The head cache, the tail cache and the middle (R179). -/

/-- Entries move on: from tail to head while the middle is empty and the head cache of 32 has room, otherwise through the middle in bursts
of 8 (R179). -/
def Caches.settle (c : Caches) : Caches :=
  let c := if c.mid = 0 ∧ c.head < 32 then
      let k := min c.tail (32 - c.head)
      { c with head := c.head + k, tail := c.tail - k }
    else if 8 ≤ c.tail then { c with mid := c.mid + 8, tail := c.tail - 8 } else c
  if c.mid ≠ 0 ∧ c.head ≤ 24 then { c with head := c.head + min 8 c.mid, mid := c.mid - min 8 c.mid } else c

/-- An entry comes in at the tail. -/
def Caches.push (c : Caches) : Caches := { c with tail := c.tail + 1 }.settle

/-- An entry leaves at the head. -/
def Caches.pop (c : Caches) : Caches := { c with head := c.head - 1 }.settle

/-- The part burst in the tail cache moves forward (R182). -/
def Caches.forward (c : Caches) : Caches := { c with mid := c.mid + c.tail, tail := 0 }.settle

/-- `n` changes one after the other. -/
def Caches.times (f : Caches → Caches) : Nat → Caches → Caches
  | 0, c => c
  | n + 1, c => Caches.times f n (f c)

/-- The caches of a queue that held `old` entries and now holds `new`. -/
def Caches.resize (c : Caches) (old new : Nat) : Caches :=
  if old ≤ new then c.times Caches.push (new - old) else c.times Caches.pop (old - new)

/-- Every queue pointer is held twice, the second copy complement-encoded (R180): the second copies of PROD, CQ_CONS, the fetch index and
the completion producer. No command of the table upsets a copy, so the second is a function of the first; QUEUE_PTR_RESET is the
comparison that failed. -/
def Queue.ptrCopies (q : Queue) : List Word := [~~~ q.prod, ~~~ q.cqCons, ~~~ q.fetchIdx, ~~~ q.cqProd]

/-- The state with queue `n` changed. -/
def State.setQueue (s : State) (n : Nat) (f : Queue → Queue) : State :=
  { s with hq := { s.hq with queues := updAt s.hq.queues n f } }

/-- Entries of a submission ring and of the hardware queue (R153, R169). -/
def Queue.sqSize (q : Queue) : Nat := 2 ^ (q.sqLog2 + 4)

/-- Entries of the completion ring. -/
def Queue.cqSize (q : Queue) : Nat := 2 ^ (q.cqLog2 + 4)

/-- Address of a submission ring. -/
def State.sqBase (s : State) (n : Nat) : Nat := (s.reg .hqNSqLo n).toNat + 2 ^ 32 * s.fld .hqNBaseHi 0 16 n

/-- Address of a completion ring. -/
def State.cqBase (s : State) (n : Nat) : Nat := (s.reg .hqNCqLo n).toNat + 2 ^ 32 * s.fld .hqNBaseHi 16 16 n

/-- The queue event of ring `n` raises its group's source (R182). -/
def State.queueEvent (s : State) (n : Nat) : State := (s.setQueue n fun q => { q with evt := true }).raise (n / 8)

/-- A queue holds content that software has not read: completions past CQ_CONS, or words (R182). -/
def Queue.hasContent (q : Queue) : Bool := if q.kind then !(q.readable.isEmpty && q.packets.isEmpty) else q.cqProd != q.cqCons

/-- Content became readable: the event at COALESCE, or at once when EVENT is set; `had`: the queue held content before (R182). -/
def State.contentMade (s : State) (n k : Nat) (now had : Bool) : State :=
  let q := s.queue n
  let u := q.unread + k
  let s := s.setQueue n fun q => { q with unread := u, quietFrom := if had then q.quietFrom else s.tb.csr }
  if now ∨ (q.coalesce ≠ 0 ∧ q.coalesce ≤ u) then s.queueEvent n else s

/-- The 16 bytes of a completion entry (table Completion entry). -/
def cqBytes (cookie tag head result status flags : Nat) (phase : Bool) : List Byte :=
  leBytes 4 cookie ++ leBytes 2 tag ++ leBytes 2 head ++ leBytes 4 result ++ leBytes 2 status ++ leBytes 1 flags
    ++ leBytes 1 (128 * ofBool phase)

/-- Free completion slots (R168). -/
def State.cqFree (s : State) (n : Nat) : Nat :=
  let q := s.queue n
  q.cqSize - (q.cqProd - q.cqCons).toNat

/-- Writes a completion entry into its slot and advances the completion producer (R166 to R168); the entry's SQ_HEAD reports the fetch
index (R157). -/
def State.putCompletion (s : State) (n : Nat) (d : List Byte) (tag status result flags : Nat) : State :=
  let q := s.queue n
  let c := q.cqProd.toNat
  let phase := c / q.cqSize % 2 == 0
  let a := s.cqBase n + c % q.cqSize * 16
  let bytes := cqBytes (dCookie d) tag (q.fetchIdx.toNat % 65536) result status flags phase
  let m := Memory.writeN s.mem (ownerKey q.owner a) bytes
  ({ s with mem := m }.setQueue n fun q => { q with cqProd := q.cqProd + 1, reported := q.fetchIdx }).contentMade n 1 (dEvent d) q.hasContent

/-- The completion entry of a descriptor: written into its slot, or held until software releases one (R168). -/
def State.writeCompletion (s : State) (n : Nat) (d : List Byte) (tag status result flags : Nat) : State :=
  if s.cqFree n = 0 then s.setQueue n fun q => { q with held := q.held ++ [⟨d, tag, status, result, flags⟩] }
  else s.putCompletion n d tag status result flags

/-- Writes the held entries that now have a slot, oldest first. -/
def State.putHeld (s : State) (n : Nat) : List HeldEntry → State
  | [] => s.setQueue n fun q => { q with held := [] }
  | h :: hs =>
    if s.cqFree n = 0 then s.setQueue n fun q => { q with held := h :: hs }
    else (s.putCompletion n h.desc h.tag h.status h.result h.flags).putHeld n hs

/-- Operations of ring `n` in flight. -/
def State.inFlight (s : State) (n : Nat) : Nat := (s.hq.ops.filter fun o => o.ring == n).length

/-- Unacknowledged ORDERED frames hold back the authoritative rings of the engine behind a stream (R210); a full journal holds back durable
rings (R241). -/
def State.creditWithheld (s : State) (n : Nat) : Bool :=
  let q := s.queue n
  (q.durable && s.wb.journalFull) || (q.auth && decide (q.engine = 5) && s.wb.streams.any fun t => decide (64 ≤ t.unacked.length))

/-- The credit of a ring (R33, R169): the room in the hardware queue, and the completion slots that no operation in flight, no descriptor
fetched and no held entry is going to take (notes/assumptions/71.md). -/
def State.credit (s : State) (n : Nat) : Nat :=
  let q := s.queue n
  let room := if s.creditWithheld n then 0 else q.sqSize - q.fetched.length
  min room (s.cqFree n - (s.inFlight n + q.fetched.length + q.held.length))

/-- The issuer of a ring's owner: a core pair, or the host port (R164). -/
def ownerIssuer (o : Nat) : Nat := if o = 9 then 4 else if o ≤ 4 then o - 1 else o - 5

/-- Tags an issuer holds. -/
def State.tagsOf (s : State) (i : Nat) : Nat := (s.hq.ops.filter fun o => o.issuer == i).length

/-- Shared tags in use: what the issuers hold above their floors of 32 (R35). -/
def State.sharedUsed (s : State) : Nat := (List.range 12).foldl (fun n i => n + (s.tagsOf i - 32)) 0

/-- Shared tags that are neither in use nor granted (R35). -/
def State.sharedFree (s : State) : Bool := decide (s.sharedUsed + s.hq.tagGiven.length < 640)

/-- The issuer can take a tag now: of its floor, the one granted to it, or a shared one with nobody waiting for one (R35, R36). -/
def State.tagFree (s : State) (i : Nat) : Bool :=
  decide (s.tagsOf i < 32) || s.hq.tagGiven.contains i || (s.hq.tagWait.isEmpty && s.sharedFree)

/-- An issuer joins the wait for a shared tag, behind the earlier requests; of one instant the lower issuer goes first (R35, table Fixed
arbitration orders). -/
def joinWait (i now : Nat) : List (Nat × Nat) → List (Nat × Nat)
  | [] => [(i, now)]
  | (j, t) :: l => if now < t ∨ (now = t ∧ i < j) then (i, now) :: (j, t) :: l else (j, t) :: joinWait i now l

/-- The lowest tag not in use. -/
def lowestTag (used : List Nat) : Nat → Nat → Nat
  | 0, t => t
  | k + 1, t => if used.contains t then lowestTag used k (t + 1) else t

/-- The tag an operation gets. -/
def State.newTag (s : State) : Nat := lowestTag (s.hq.ops.map (·.tag)) 1024 0

/-- The operation stands at its engine: issued, or accepted and carried out, not finished, not waiting for its TIME or its counterpart. -/
def Op.atEngine (o : Op) : Bool := o.done.isNone && !o.waitTime && !o.shadow

/-- A command that waits for its engine: not long, and not taken up by it yet. -/
def Op.waits (o : Op) : Bool := !o.long && !o.started

/-- The operations at engine `e`: those in flight of rings without DURABLE, and accepted work. -/
def State.engineOps (s : State) (e : Nat) : List Op :=
  (s.hq.ops.filter fun o => o.engine == e && o.jsn.isNone && o.atEngine) ++ s.hq.work.filter fun o => o.engine == e && o.atEngine

/-- The place of a ring in ring-service order: round-robin from the ring after the last one served (R159). -/
def State.ringTurn (s : State) (ring : Nat) : Nat := (ring + 512 - (s.hq.lastServed + 1)) % 256

/-- An operation may go on at its engine. A step of a long operation waits for every command that waits for the engine; between two steps
these are served in ring-service order (R41, R42, table Fixed arbitration orders). -/
def State.engineTurn (s : State) (o : Op) : Bool :=
  let l := s.engineOps o.engine
  if o.long then !(l.any Op.waits)
  else !(l.any fun p => p.long && p.steps != 0) || !(l.any fun p => p.waits && decide (s.ringTurn p.ring < s.ringTurn o.ring))

/-- The module may carry out an operation: one of a ring with AUTH only while it may act as the lease holder (R49, R172, R212). -/
def State.mayServe (s : State) (o : Op) : Bool := !(s.queue o.ring).auth || s.authoritative

/-- The operation or the accepted work a command names, while it is not finished, not waiting for its TIME, and has its turn. -/
def State.opOf (s : State) (w : WorkRef) : Option Op :=
  match w with
  | .tag t => s.hq.ops.find? fun o => o.tag == t && o.jsn.isNone && o.atEngine && s.engineTurn o && s.mayServe o
  | .jsn j => s.hq.work.find? fun o => o.jsn == some j && o.atEngine && s.engineTurn o && s.mayServe o

/-- The state with the named operation changed. -/
def State.setOp (s : State) (w : WorkRef) (f : Op → Op) : State :=
  match w with
  | .tag t => { s with hq := { s.hq with ops := s.hq.ops.map fun o => if o.tag = t then f o else o } }
  | .jsn j => { s with hq := { s.hq with work := s.hq.work.map fun o => if o.jsn = some j then f o else o } }

/-- A buffer of the descriptor in the owner's space. -/
def State.readBuf (s : State) (op : Op) (off n : Nat) : List Byte :=
  Memory.readN s.mem (ownerKey (s.queue op.ring).owner (dAddr op.bytes + off)) n

/-- The whole buffer at ADDR, LENGTH bytes. -/
def State.buffer (s : State) (op : Op) : List Byte := s.readBuf op 0 (dLength op.bytes)

/-- Writes into the buffer at ADDR. -/
def State.writeBuf (s : State) (op : Op) (off : Nat) (b : List Byte) : State :=
  { s with mem := Memory.writeN s.mem (ownerKey (s.queue op.ring).owner (dAddr op.bytes + off)) b }

/-- Writes into the result area at ADDR2; with ADDR2 0 there is none. -/
def State.writeRes (s : State) (op : Op) (off : Nat) (b : List Byte) : State :=
  if dAddr2 op.bytes = 0 ∨ b = [] then s
  else { s with mem := Memory.writeN s.mem (ownerKey (s.queue op.ring).owner (dAddr2 op.bytes + off)) b }

/-- Offset of the outcome record: behind the progress record of R187 (R176). -/
def outcomeOff (op : Op) : Nat := if dProgress op.bytes then 16 else 0

/-- Offset of an engine's own result: behind the progress record and, on durable work, the outcome record (R165, R176, R187). -/
def resultOff (op : Op) : Nat := outcomeOff op + (if op.jsn.isSome then 24 else 0)

/-- The 16-byte progress record (R187). -/
def progressBytes (steps total state count : Nat) : List Byte :=
  leBytes 4 steps ++ leBytes 4 total ++ leBytes 2 state ++ leBytes 2 count ++ List.replicate 4 0

/-- The status word of an operation's stamps: LATE or ALARM_SKIPPED when a jump carried it out (R113, R116, R133). -/
def State.opStatus (s : State) (op : Op) : Nat := s.statusWith (op.mark == 1) (op.mark == 2) 0

/-- The 24-byte outcome record (R176). -/
def State.outcomeBytes (s : State) (op : Op) (status result : Nat) : List Byte :=
  leBytes 2 status ++ leBytes 2 0 ++ leBytes 8 s.tb.ang ++ leBytes 4 (s.opStatus op) ++ leBytes 4 result ++ List.replicate 4 0

/-- State of a progress record at the end: 1 done, 2 aborted, 3 failed. -/
def endState (status : Nat) : Nat := if status = 0 then 1 else if status = 2 then 2 else 3

/-- The steps a finished operation has done: its end was its last step, unless it was counted already; one that was aborted or failed has
done no more than it had. -/
def lastSteps (op : Op) (status : Nat) : Nat :=
  if status ≠ 0 ∨ (op.total ≠ 0 ∧ op.total = op.steps) then op.steps else op.steps + 1

/-- The progress record of a finished long operation, after its last step (R187). -/
def State.lastProgress (s : State) (op : Op) (status : Nat) : State :=
  let n := lastSteps op status
  if opLong op.engine (dOpcode op.bytes) ∧ dProgress op.bytes then
    s.writeRes op 0 (progressBytes n (if status = 0 then n else op.total) (endState status) (n / 256 + 1))
  else s

/-- A late launch completes with LAUNCH_LATE and the actual stamp with its status word (R131, R165). -/
def State.lateResult (s : State) (op : Op) (status result : Nat) (data : List Byte) : Nat × Nat × List Byte :=
  if op.late ∧ status = 0 then (13, 12, leBytes 8 s.tb.ang ++ leBytes 4 (s.statusWith true false 0)) else (status, result, data)

/-- A finished operation: its own result behind the records of its area; an operation in flight then waits for its completion entry
(R38), accepted work writes its outcome record, raises its event and is journalled DONE by the holder (R176, R238). A
descriptor that core software posted with a SUBMIT_ID on an AUTH ring without DURABLE is journalled DONE too (R173). -/
def State.finish (s : State) (op : Op) (status0 result0 : Nat) (data0 : List Byte := []) : State :=
  let (status, result, data) := s.lateResult op status0 result0 data0
  let s1 := (s.lastProgress op status).writeRes op (resultOff op) data
  match op.jsn with
  | none =>
    let s2 := s1.setOp (.tag op.tag) fun o => { o with done := some (status, result), fin := s1.hq.finished }
    let s2 := { s2 with hq := { s2.hq with finished := s2.hq.finished + 1 } }
    let q := s.queue op.ring
    if q.auth ∧ q.owner ≠ 9 ∧ dSubmit op.bytes ≠ 0 ∧ s.authoritative then
      s2.journalAdd (.done op.ring (dSubmit op.bytes) 0 status result s.tb.ang (s.opStatus op))
    else s2
  | some j =>
    let s2 := s1.writeRes op (outcomeOff op) (s1.outcomeBytes op status result)
    let s3 := { s2 with hq := { s2.hq with work := s2.hq.work.filter fun o => decide (o.jsn ≠ some j) } }
    let s4 := if dEvent op.bytes then s3.queueEvent op.ring else s3
    if s.authoritative then s4.journalAdd (.done op.ring (dSubmit op.bytes) j status result s.tb.ang (s.opStatus op)) else s4

/-- Carries out a command of an engine on the operation it names: nothing happens unless that operation is of this engine and opcode. -/
def State.engineOp (s : State) (w : WorkRef) (engine opcode : Nat) (f : Op → State → State) : State :=
  match s.opOf w with
  | some op => if op.engine = engine ∧ dOpcode op.bytes = opcode then f op s else s
  | none => s

/-- The ring of an operation has AUTH set. -/
def State.opAuth (s : State) (op : Op) : Bool := (s.queue op.ring).auth

/-- The ring of an operation has DURABLE set. -/
def State.opDurable (s : State) (op : Op) : Bool := (s.queue op.ring).durable

/-! Completion status codes (table Completion status codes). -/

/-- OK. -/
def stOk : Nat := 0
/-- ACCEPTED. -/
def stAccepted : Nat := 1
/-- ABORTED. -/
def stAborted : Nat := 2
/-- CANCELLED. -/
def stCancelled : Nat := 3
/-- QUEUE_RESET. -/
def stQueueReset : Nat := 4
/-- NOT_ACTIVE. -/
def stNotActive : Nat := 5
/-- BAD_DESC. -/
def stBadDesc : Nat := 6
/-- BAD_OPCODE. -/
def stBadOpcode : Nat := 7
/-- ACCESS_FAULT. -/
def stAccessFault : Nat := 8
/-- SUBMIT_STALE. -/
def stSubmitStale : Nat := 9
/-- SUBMIT_CONFLICT. -/
def stSubmitConflict : Nat := 10
/-- NOT_FOUND. -/
def stNotFound : Nat := 11
/-- LAUNCH_MISSED. -/
def stLaunchMissed : Nat := 12
/-- LAUNCH_LATE. -/
def stLaunchLate : Nat := 13
/-- WINDOW_INVALID. -/
def stWindowInvalid : Nat := 14
/-- ENGINE_ERROR. -/
def stEngineError : Nat := 15

end Sys2Proof.Machine
end

