-- ==== Sys2Proof/Machine/Queues.lean ====
section
/-! DEFINITION. Rings, hardware queues and their commands (04_rings_queues_and_events.md, R151 to R189). -/

namespace Sys2Proof.Machine

/-! Ownership and set-up. -/

/-- A write of HQ_n_CTRL refused. -/
def State.refuseHq (s : State) (q : Requester) (n : Nat) : State := s.refuseWrite q (RegName.hqNCtrl.addr n 0)

/-- A requester that can own a ring: a core or the host port (R151). -/
def canOwn (q : Requester) : Bool := decide (1 ≤ q.code ∧ q.code ≤ 9)

/-- The set-up fields of HQ_n_CTRL in a word: KIND, DURABLE, AUTH, SQ_LOG2, CQ_LOG2, ENGINE with reserved codes left out (R19). -/
def hqSetup (x : Queue) (v : Nat) : Queue :=
  { x with kind := bitOf v 3, durable := bitOf v 4, auth := bitOf v 5,
           sqLog2 := if bitsOf v 12 4 ≤ 12 then bitsOf v 12 4 else x.sqLog2,
           cqLog2 := if bitsOf v 16 4 ≤ 12 then bitsOf v 16 4 else x.cqLog2,
           engine := if bitsOf v 20 4 ≤ 10 then bitsOf v 20 4 else x.engine }

/-- The word sets a field of HQ_n_CTRL to a reserved code. -/
def hqReserved (v : Nat) : Bool := decide (12 < bitsOf v 12 4 ∨ 12 < bitsOf v 16 4 ∨ 10 < bitsOf v 20 4)

/-- Completes the fetched, not issued descriptors of a ring with a status (R181, R189). -/
def State.completeFetched (s : State) (n status : Nat) : List Fetched → State
  | [] => s
  | f :: fs => (s.writeCompletion n f.bytes 0 status 0 0).completeFetched n status fs

/-- A descriptor of ring `n` in flight that is not issued to its engine yet: it waits for its TIME (R188), and is no accepted work. -/
def Op.unissued (o : Op) (n : Nat) : Bool := o.ring == n && o.waitTime && o.jsn.isNone && o.done.isNone

/-- Completes operations with a status; each gives its tag back. -/
def State.completeOps (s : State) (status : Nat) : List Op → State
  | [] => s
  | o :: os =>
    let s := s.writeCompletion o.ring o.bytes o.tag status 0 (cflags false false o.long)
    { s with hq := { s.hq with ops := s.hq.ops.filter fun p => decide (p.tag ≠ o.tag) } }.completeOps status os

/-- Every descriptor of ring `n` that is not issued completes with a status, in ring order: those waiting for their TIME, then the fetched
ones (R181, R189). -/
def State.cancelRing (s : State) (n status : Nat) : State :=
  let l := (s.queue n).fetched
  let s := s.completeOps status (s.hq.ops.filter fun o => o.unissued n)
  (s.completeFetched n status l).setQueue n fun q => { q with fetched := [], caches := {} }

/-- The word sets DURABLE with AUTH clear: the write is dropped whole (R171). -/
def badDurable (v : Nat) : Bool := bitOf v 4 && !bitOf v 5

/-- The owner's write of the remaining fields of HQ_n_CTRL: set-up only while ENABLE is 0, POLL and LEGACY_POP always, ENABLE last
(R152, R171, R189). -/
def State.hqCtrlFields (s : State) (q : Requester) (n : Nat) (v : Nat) : State :=
  let x := s.queue n
  let y := if x.enable then x else hqSetup x v
  let y := { y with legacyPop := bitOf v 6, poll := bitOf v 7 }
  let bad := hqReserved v || (x.enable && decide (hqSetup x v ≠ hqSetup x (0 + 8 * ofBool x.kind + 16 * ofBool x.durable
    + 32 * ofBool x.auth + 2 ^ 12 * x.sqLog2 + 2 ^ 16 * x.cqLog2 + 2 ^ 20 * x.engine)))
  let s := s.setQueue n fun _ => y
  let s := if bad then s.refuseHq q n else s
  if bitOf v 0 then s.setQueue n fun z => { z with enable := true }
  else if x.enable then (s.cancelRing n stCancelled).setQueue n fun z => { z with enable := false }
  else s

/-- A claim: ownership, generation, indices at 0 (R151, R156); refused on an owned ring with BUSY and event source 111. -/
def State.claimRing (s : State) (q : Requester) (n : Nat) (v : Nat) : State :=
  if !canOwn q then s.refuseHq q n
  else if (s.queue n).owner = 0 then
    (if badDurable v then s.refuseHq q n
     else (s.setQueue n fun x => { x with owner := q.code, gen := x.gen + 1, fetchIdx := 0, cqProd := 0, prod := 0, cqCons := 0,
                                          reported := 0, held := [], unread := 0 }).hqCtrlFields q n v)
  else (s.setQueue n fun x => { x with busy := true }).raise 111

/-- A release by the owner, while ENABLE is 0 (R152). -/
def State.releaseRing (s : State) (q : Requester) (n : Nat) : State :=
  let x := s.queue n
  if x.owner = q.code ∧ x.owner ≠ 0 ∧ x.enable = false then s.setQueue n fun x => { x with owner := 0, poll := false, unread := 0 }
  else s.refuseHq q n

/-- Any write of HQ_n_CTRL (R151, R152); one that sets DURABLE with AUTH clear changes nothing, whatever else it asks for (R171). -/
def State.writeHqCtrl (s : State) (q : Requester) (n : Nat) (v : Nat) : State :=
  if bitOf v 1 then s.claimRing q n v
  else if (s.queue n).owner ≠ q.code ∨ !canOwn q ∨ badDurable v then s.refuseHq q n
  else if bitOf v 2 then s.releaseRing q n
  else s.hqCtrlFields q n v

/-- RING_CLAIM. -/
def execRingClaim (q : Requester) (n : Nat) (v : Word) (s : State) : Result := .next (s.writeHqCtrl q n (v ||| 2).toNat)

/-- RING_RELEASE. -/
def execRingRelease (q : Requester) (n : Nat) (v : Word) (s : State) : Result :=
  .next (s.writeHqCtrl q n ((v ||| 4) &&& ~~~2).toNat)

/-- QUEUE_ENABLE. -/
def execQueueEnable (q : Requester) (n : Nat) (v : Word) (s : State) : Result :=
  .next (s.writeHqCtrl q n ((v ||| 1) &&& ~~~6).toNat)

/-- QUEUE_DISABLE (R189). -/
def execQueueDisable (q : Requester) (n : Nat) (v : Word) (s : State) : Result :=
  .next (s.writeHqCtrl q n (v &&& ~~~7).toNat)

/-! Doorbells and fetching. -/

/-- The address of ring n's doorbell entry in its owner's page (R155). -/
def State.doorbellKey (s : State) (n : Nat) : Nat :=
  if (s.queue n).owner = 9 then
    hostKey ((s.reg .dbHostLo).toNat + 2 ^ 32 * (s.reg .dbHostHi).toNat + 16 * n)
  else (s.reg .dbCoreLo).toNat + 2 ^ 32 * (s.reg .dbCoreHi).toNat + 16 * n

/-- Software reads the queue: the count and the age of what stays start afresh (R182). -/
def Queue.readNow (q : Queue) (now : Nat) : Queue := { q with unread := 0, quietFrom := now }

/-- Reads ring n's doorbell entry: another generation is ignored (R155); a PROD more than the ring's size ahead of the fetch index last
reported sets RING_ERR (R157); CQ_CONS that moved is a read of the queue and lets held completions out (R168, R170, R182). -/
def State.readDoorbell (s : State) (n : Nat) : State :=
  let q := s.queue n
  if !q.enable || q.owner == 0 || q.kind then s
  else
    let e := Memory.readN s.mem (s.doorbellKey n) 12
    if leField e 4 4 ≠ q.gen.toNat then s
    else
      let prod : Word := BitVec.ofNat 32 (leField e 0 4)
      let cons : Word := BitVec.ofNat 32 (leField e 8 4)
      let s := if q.cqCons = cons then s
        else (s.setQueue n fun q => { q with cqCons := cons }.readNow s.tb.csr).putHeld n q.held
      if q.sqSize < (prod - q.reported).toNat then (s.setQueue n fun q => { q with ringErr := true }).queueEvent n
      else s.setQueue n fun q => { q with prod := prod }

/-- Reads the doorbell entries of the rings below `k` that a test picks. -/
def State.readDoorbells (s : State) (p : Nat → Queue → Bool) : Nat → State
  | 0 => s
  | k + 1 => let s := s.readDoorbells p k; if p k (s.queue k) then s.readDoorbell k else s

/-- The page a requester's rings use: the host's, or the cores' (R158). -/
def ownPage (q : Requester) (x : Queue) : Bool := if q.code = 9 then x.owner == 9 else x.owner != 9 && x.owner != 0

/-- HQ_KICK (R158). -/
def execHqKick (q : Requester) (v : Word) (s : State) : Result :=
  .next (if bitOf v.toNat 31 then s.readDoorbells (fun _ x => ownPage q x) 256 else s.readDoorbell (bitsOf v.toNat 0 8))

/-- DOORBELL_POLL: every 5 µs (R158). -/
def execDoorbellPoll (s : State) : Result :=
  let host := s.bit .hqCtrl 1
  let core := s.bit .hqCtrl 0
  .next (s.readDoorbells (fun _ x => x.poll && (if x.owner = 9 then host else core)) 256)

/-- A ring with a newer PROD and credit, whose turn could come (R159, R170). -/
def State.fetchable (s : State) (n : Nat) : Bool :=
  let q := s.queue n
  q.enable && !q.kind && !q.ringErr && q.owner != 0 && q.prod != q.fetchIdx && decide (0 < s.credit n)

/-- The first fetchable ring from `n`, over `k` rings, round-robin. -/
def State.nextRing (s : State) (n : Nat) : Nat → Option Nat
  | 0 => none
  | k + 1 => if s.fetchable (n % 256) then some (n % 256) else s.nextRing (n + 1) k

/-- `k` descriptors of ring n from its fetch index. -/
def State.fetchDescs (s : State) (n : Nat) : Nat → State
  | 0 => s
  | k + 1 =>
    let q := s.queue n
    let a := s.sqBase n + q.fetchIdx.toNat % q.sqSize * 64
    let d := Memory.readN s.mem (ownerKey q.owner a) 64
    (s.setQueue n fun q => { q with fetched := q.fetched ++ [{ idx := q.fetchIdx.toNat, bytes := d }], caches := q.caches.push,
                                    fetchIdx := q.fetchIdx + 1 }).fetchDescs n k

/-- RING_FETCH: a turn of at most 8 descriptors within the credit, from the ring after the last one served (R159, R169). -/
def execRingFetch (s : State) : Result :=
  match s.nextRing (s.hq.lastServed + 1) 256 with
  | none => .next s
  | some n =>
    let q := s.queue n
    let k := min 8 (min (s.credit n) (q.prod - q.fetchIdx).toNat)
    .next { s.fetchDescs n k with hq := { (s.fetchDescs n k).hq with lastServed := n } }

/-- RING_ERR_CLEAR (R157). -/
def execRingErrClear (_q : Requester) (n : Nat) (s : State) : Result :=
  .next (s.setQueue n fun q => { q with ringErr := false })

/-! Issue. -/

/-- The MPU check of ADDR and ADDR2 at issue (R160, R271): the refusing MPU, address and kind. -/
def State.descRefused (s : State) (owner engine : Nat) (d : List Byte) (durable : Bool) : Option (Nat × Nat × AccKind) :=
  match (if owner = 9 then some 15 else engineMpu engine), opInfo engine (dOpcode d) with
  | some m, some o =>
    let rs := s.mpuRegions m
    let k := if o.use = .writes then AccKind.store else .load
    let r1 := if o.use = .none ∨ dLength d = 0 then none
      else firstRefused rs false .engine k maxParts (dAddr d) (dAddr d + dLength d)
    let own := if dTimed d ∧ dLatePolicy d then max o.res 12 else o.res
    let area := (if dProgress d then 16 else 0) + (if durable then 24 else 0) + own
    let r2 := if dAddr2 d = 0 ∨ area = 0 then none
      else firstRefused rs false .engine .store maxParts (dAddr2 d) (dAddr2 d + area)
    match r1, r2 with
    | some a, _ => some (m, a, k)
    | none, some a => some (m, a, .store)
    | none, none => none
  | _, _ => none

/-- The present instant of the clock a descriptor's TIME names. -/
def State.clockOf (s : State) (ptBase : Bool) : Nat := if ptBase then s.tb.pt.total else s.tb.ang

/-- What the journal remembers of a SUBMIT_ID (R177). -/
inductive SubmitCase | fresh | same | conflict | stale
  deriving DecidableEq, Repr

/-- Judges an arriving SUBMIT_ID against the remembered ones of its ring (R177). -/
def submitCase (l : List (Nat × List Byte)) (lowest id : Nat) (d : List Byte) : SubmitCase :=
  match assocGet l id with
  | some d' => if d' = d then .same else .conflict
  | none => if l ≠ [] ∧ id < lowest then .stale else .fresh

/-- The lowest of the remembered SUBMIT_IDs, 0 with none. -/
def lowestId : List (Nat × List Byte) → Nat
  | [] => 0
  | e :: l => l.foldl (fun m x => min m x.1) e.1

/-- Remembers an accepted SUBMIT_ID; the last 65,536 accepted are kept (R177). -/
def State.rememberSubmit (s : State) (n id : Nat) (d : List Byte) : State :=
  s.setQueue n fun q =>
    let l := (q.submitted.filter fun e => decide (e.1 ≠ id)) ++ [(id, d)]
    let l := if 65536 < l.length then l.drop 1 else l
    { q with submitted := l, lowestSubmit := lowestId l }

/-- The oldest SEQ held, 0 with no record. -/
def oldestSeq : List Rec → Nat
  | [] => 0
  | r :: rs => rs.foldl (fun m x => min m x.seq) r.seq

/-- The TIME of a descriptor has passed on its own clock (R131, R163). -/
def State.timePassed (s : State) (d : List Byte) : Bool := dTimed d && decide (dTime d < s.clockOf (dPtBase d))

/-- The operation in flight that an issued descriptor becomes. -/
def State.mkOp (s : State) (n : Nat) (f : Fetched) : Op :=
  let q := s.queue n
  { tag := s.newTag, issuer := ownerIssuer q.owner, ring := n, idx := f.idx, bytes := f.bytes, engine := q.engine,
    waitTime := dTimed f.bytes, late := s.timePassed f.bytes,
    long := opLong q.engine (dOpcode f.bytes), rules := s.fencesOf q.engine, issuedAng := s.tb.ang, issuedPt := s.tb.pt, logLo := oldestSeq s.log.recs, logHi := s.log.seq }

/-- Takes the first fetched descriptor off its queue. -/
def State.dropFetched (s : State) (n : Nat) : State :=
  s.setQueue n fun q => { q with fetched := q.fetched.drop 1, caches := q.caches.pop }

/-- An ACCEPTED completion: its SUBMIT_ID is remembered (R177), the operation gives its tag back and goes on as accepted work; a TIME that
passed while it waited for its acceptance is late (R163, R175, R176). -/
def State.acceptOp (s : State) (o : Op) (solo : Bool) : State :=
  let s := (s.writeCompletion o.ring o.bytes o.tag stAccepted 0 (cflags false solo o.long)).rememberSubmit o.ring (dSubmit o.bytes) o.bytes
  let w : Op := { o with late := o.late || s.timePassed o.bytes }
  { s with hq := { s.hq with ops := s.hq.ops.filter fun p => decide (p.tag ≠ o.tag), work := s.hq.work ++ [w] } }

/-- Writes the ACCEPTED completions that commitment allows and that have a slot, in JSN order (R168, R175, R237). -/
def State.acceptAll (s : State) : List Op → State
  | [] => s
  | o :: os =>
    match o.jsn with
    | some j => if s.committed j ∧ s.cqFree o.ring ≠ 0 then (s.acceptOp o (!s.wb.dual)).acceptAll os else s.acceptAll os
    | none => s.acceptAll os

/-- ACCEPTED completions wait in HANDOVER until the lease is settled (R175); otherwise the holder writes those that are committed. -/
def State.acceptReady (s : State) : State :=
  if s.holds ∧ s.pwr.pf = .idle ∧ (s.sys.mode = .active ∨ s.sys.mode = .solo) then s.acceptAll s.hq.ops else s

/-- The waiting descriptors of a module that has not the lease, by the JSN of their entries (R175): one whose entry stands in both journals
completes with ACCEPTED, and the holder carries it out; one whose entry stood in the own journal alone completes with NOT_ACTIVE; the others go
on waiting. -/
def State.settleOps (s : State) (both alone : Nat → Bool) : List Op → State
  | [] => s
  | o :: os =>
    match o.jsn with
    | some j =>
      if both j then
        let s := (s.writeCompletion o.ring o.bytes o.tag stAccepted 0 (cflags false false o.long)).rememberSubmit o.ring (dSubmit o.bytes) o.bytes
        { s with hq := { s.hq with ops := s.hq.ops.filter fun p => decide (p.tag ≠ o.tag) } }.settleOps both alone os
      else if alone j then
        let s := s.writeCompletion o.ring o.bytes o.tag stNotActive 0 (cflags false false o.long)
        { s with hq := { s.hq with ops := s.hq.ops.filter fun p => decide (p.tag ≠ o.tag) } }.settleOps both alone os
      else s.settleOps both alone os
    | none => s.settleOps both alone os

/-- A descriptor with this ring and SUBMIT_ID stands in the journal and waits for its ACCEPTED completion. -/
def State.awaitsAccept (s : State) (n id : Nat) : Bool :=
  s.hq.ops.any fun o => o.ring == n && o.jsn.isSome && dSubmit o.bytes == id

/-- What becomes of a descriptor of an AUTH ring on a module that may not carry it out (R172, R173): in STANDBY and UPDATE one that core
software posted with a SUBMIT_ID, or on a durable ring, waits for its counterpart; any other completes with NOT_ACTIVE. -/
def State.shadowed (s : State) (n : Nat) (d : List Byte) : Bool :=
  let q := s.queue n
  q.owner != 9 && (s.sys.mode == .standby || s.sys.mode == .update) && (q.durable || dSubmit d != 0)

/-- Issues the first fetched descriptor of a ring (R160 to R164, R171 to R177). -/
def State.issueHead (s : State) (n : Nat) (f : Fetched) : State :=
  let q := s.queue n
  let d := f.bytes
  let done (st fl : Nat) : State := (s.dropFetched n).writeCompletion n d 0 st 0 fl
  if !descFormOk d then done stBadDesc 0
  else if (opInfo q.engine (dOpcode d)).isNone ∨ ringAllows q.engine (dOpcode d) q.auth q.durable = false then done stBadOpcode 0
  else if progressOk q.engine d = false then done stBadDesc 0
  else if q.durable ∧ dSubmit d = 0 then done stBadDesc 0
  else if q.auth ∧ !s.authoritative then
    if !s.shadowed n d then done stNotActive 0
    else
      let o := { s.mkOp n f with shadow := true, seen := s.prg.cycle }
      let s := s.dropFetched n
      { s with hq := { s.hq with ops := s.hq.ops ++ [o] } }
  else
    match s.descRefused q.owner q.engine d q.durable with
    | some (m, a, k) => (((s.mpuFault m a .engine k).dropFetched n).writeCompletion n d 0 stAccessFault 0 0)
    | none =>
      if q.durable then
        match submitCase q.submitted q.lowestSubmit (dSubmit d) d with
        | .same => done stAccepted (cflags true (!s.wb.dual) false)
        | .conflict => done stSubmitConflict 0
        | .stale => done stSubmitStale 0
        | .fresh =>
          let o := { s.mkOp n f with jsn := some (s.wb.jsn + 1) }
          let s := (s.dropFetched n).journalAdd (.desc n (dSubmit d) d)
          { s with hq := { s.hq with ops := s.hq.ops ++ [o] } }.acceptReady
      else
        let o := s.mkOp n f
        let s := s.dropFetched n
        { s with hq := { s.hq with ops := s.hq.ops ++ [o] } }

/-- The issuer's granted tag is used up by its next issue beyond its floor. -/
def State.useGrant (s : State) (i : Nat) : State :=
  if s.tagsOf i < 32 then s else { s with hq := { s.hq with tagGiven := s.hq.tagGiven.erase i } }

/-- DESC_ISSUE: ring order, FENCE (R162), AUTH rings waiting in HANDOVER (R172), the tag (R35, R36); a descriptor whose SUBMIT_ID stands in
the journal and is not accepted yet waits for that (R177, notes/assumptions/72.md). -/
def execDescIssue (ring : Nat) (s : State) : Result :=
  let q := s.queue ring
  let i := ownerIssuer q.owner
  match q.fetched with
  | [] => .next s
  | f :: _ =>
    if dFence f.bytes ∧ s.inFlight ring ≠ 0 then .next s
    else if q.auth ∧ s.sys.mode = .handover then .next s
    else if q.durable ∧ s.awaitsAccept ring (dSubmit f.bytes) then .next s
    else if !s.tagFree i then
      .next { s with hq := { s.hq with tagWait := if s.hq.tagWait.any (fun e => e.1 == i) then s.hq.tagWait
                                                  else joinWait i s.tb.csr s.hq.tagWait } }
    else .next ((s.useGrant i).issueHead ring f)

/-- TAG_GRANT: the issuer that waits first takes a shared tag when one is free (R35, R36). -/
def execTagGrant (issuer : Nat) (s : State) : Result :=
  .next (match s.hq.tagWait with
    | (i, _) :: l => if i = issuer ∧ s.sharedFree then
        { s with hq := { s.hq with tagWait := l, tagGiven := s.hq.tagGiven ++ [i] } } else s
    | [] => s)

/-- OP_COMPLETE: the completion entry of a finished operation is written and its tag is free (R34); entries of one ring are written in the
order in which the operations finished (R38), into slots that software has released (R168). -/
def execOpComplete (tag : Nat) (s : State) : Result :=
  match s.hq.ops.find? fun o => o.tag == tag && o.done.isSome with
  | none => .next s
  | some o =>
    match o.done with
    | none => .next s
    | some (st, res) =>
      if s.cqFree o.ring = 0 ∨ s.hq.ops.any (fun p => p.ring == o.ring && p.done.isSome && decide (p.fin < o.fin)) then .next s
      else
      let s := s.writeCompletion o.ring o.bytes o.tag st res (cflags false false o.long)
      .next { s with hq := { s.hq with ops := s.hq.ops.filter fun p => decide (p.tag ≠ tag) } }

/-! Commands of every engine. -/

/-- The named operation, when it has this opcode, whatever its engine. -/
def State.anyOp (s : State) (w : WorkRef) (opcode : Nat) (f : Op → State → State) : State :=
  match s.opOf w with
  | some op => if dOpcode op.bytes = opcode then f op s else s
  | none => s

/-- NOP. -/
def execNop (w : WorkRef) (s : State) : Result := .next (s.anyOp w 0 fun op s => s.finish op stOk 0)

/-- Operation `a` of a ring stands before `b`: by journal sequence number on a durable ring, else by its distance behind the fetch index, as
indices are free-running 32-bit counts (R154, R188). -/
def beforeOp (fetch : Word) (a b : Op) : Bool :=
  match a.jsn, b.jsn with
  | some x, some y => decide (x < y)
  | _, _ => decide ((fetch - BitVec.ofNat 32 b.idx).toNat < (fetch - BitVec.ofNat 32 a.idx).toNat)

/-- The earliest of the operations in ring order. -/
def earliest (fetch : Word) : List Op → Option Op
  | [] => none
  | t :: ts =>
    match earliest fetch ts with
    | none => some t
    | some u => if beforeOp fetch u t then some u else some t

/-- Two references name one operation: by journal sequence number, else by tag. -/
def Op.same (a b : Op) : Bool := if a.jsn.isSome ∨ b.jsn.isSome then a.jsn == b.jsn else a.tag == b.tag

/-- Issued, uncompleted operations of the ABORT's ring that carry a COOKIE (R188). -/
def State.abortOps (s : State) (ab : Op) (cookie : Nat) : List Op :=
  (s.hq.ops ++ s.hq.work).filter fun o => o.ring == ab.ring && dCookie o.bytes == cookie && !o.same ab && o.done.isNone

/-- ABORT (R188): it names the earliest uncompleted operation of its ring with the COOKIE; what is issued stands before what is only
fetched. What is not issued or waits for its TIME is not carried out; a long operation stops at the step boundary (R43); any other runs to its
end. -/
def execAbort (w : WorkRef) (s : State) : Result :=
  .next (s.anyOp w 1 fun ab s =>
    let q := s.queue ab.ring
    let cookie := dInline ab.bytes 0 4
    match earliest q.fetchIdx (s.abortOps ab cookie), q.fetched.find? (fun f => dCookie f.bytes == cookie) with
    | some o, _ =>
      let s := if s.upd.work = some (.tag o.tag) ∧ o.jsn = none then s.endUpdate else s
      if o.waitTime ∨ o.long then (s.finish { o with late := false } stAborted 0).finish ab stOk 0 else s.finish ab stOk 0
    | none, some f =>
      let s := s.setQueue ab.ring fun q =>
        { q with fetched := q.fetched.filter fun g => decide (g.idx ≠ f.idx), caches := q.caches.pop }
      (s.writeCompletion ab.ring f.bytes 0 stAborted 0 0).finish ab stOk 0
    | none, none => s.finish ab stNotFound 0)

/-- Whole packets up to `room` bytes, with what stays. -/
def takePackets : List Packet → Nat → List Word × List Packet
  | [], _ => ([], [])
  | p :: ps, room =>
    if 4 * p.words.length ≤ room then
      let (ws, rest) := takePackets ps (room - 4 * p.words.length)
      (p.words ++ ws, rest)
    else ([], p :: ps)

/-- Words as bytes. -/
def wordBytes (l : List Word) : List Byte := l.flatMap fun w => leBytes 4 w.toNat

/-- Words held by a word queue. -/
def Queue.wordsHeld (q : Queue) : Nat := q.readable.length + q.packets.foldl (fun n p => n + p.words.length) 0

/-- Entries of 16 words that a word queue holds (R179). -/
def Queue.entriesHeld (q : Queue) : Nat := (q.wordsHeld + 15) / 16

/-- DRAIN: whole packets of a word queue into ADDR, RESULT the bytes copied (R184). -/
def execDrain (w : WorkRef) (s : State) : Result :=
  .next (s.anyOp w 2 fun op s =>
    let n := dInline op.bytes 0 1
    let q := s.queue n
    if q.kind ∧ q.readable = [] then
      let (ws, rest) := takePackets q.packets (dLength op.bytes)
      let s := s.setQueue n fun q =>
        let x := { q with packets := rest }
        { x with unread := min q.unread x.wordsHeld, caches := q.caches.resize q.entriesHeld x.entriesHeld }
      (s.writeBuf op 0 (wordBytes ws)).finish op stOk (4 * ws.length)
    else s.finish op stOk 0)

/-- A TIMED descriptor's instant has come: it is carried out, `mark` saying whether a jump did it. One on an AUTH ring, not issued until now,
waits in HANDOVER and is treated as for the mode elsewhere without the lease (R163, R172); accepted work waits for the holder. -/
def State.startDue (s : State) (w : WorkRef) (o : Op) (mark : Nat) : State :=
  let go := s.setOp w fun p => { p with waitTime := false, late := p.late && mark == 0, mark := mark }
  if o.jsn.isSome then (if s.holds then go else s)
  else if (s.queue o.ring).auth = false ∨ (s.authoritative ∧ s.sys.mode ≠ .handover) then go
  else if s.sys.mode = .handover then s
  else if s.shadowed o.ring o.bytes then s.setOp w fun p => { p with shadow := true, seen := s.prg.cycle }
  else s.completeOps stNotActive [o]

/-- The TIMED operation or work that a command names while it waits for its instant. -/
def State.timedOp (s : State) (w : WorkRef) : Option Op :=
  match w with
  | .tag t => s.hq.ops.find? fun o => o.tag == t && o.jsn.isNone && o.waitTime && !o.started && o.done.isNone && !o.shadow
  | .jsn j => s.hq.work.find? fun o => o.jsn == some j && o.waitTime && !o.started && o.done.isNone

/-- TIMED_DESC_DUE: a TIMED descriptor is carried out at its TIME; one that came too late is missed or runs late (R131, R163). -/
def execTimedDescDue (w : WorkRef) (s : State) : Result :=
  match s.timedOp w with
  | none => .next s
  | some o =>
    if o.late ∧ dLatePolicy o.bytes = false then .next (s.finish { o with late := false } stLaunchMissed 0)
    else if dTime o.bytes ≤ s.clockOf (dPtBase o.bytes) then .next (s.startDue w o 0)
    else .next s

/-- A DESC entry of a ring and SUBMIT_ID in a journal. -/
def journalDesc (l : List JEntry) (ring id : Nat) : Bool :=
  l.any fun e => match e.body with
    | .desc r i _ => r == ring && i == id
    | _ => false

/-- Status of the DONE entry for an execution on a ring without DURABLE (R173). -/
def journalDoneStatus (l : List JEntry) (ring id : Nat) : Option (Nat × Nat) :=
  l.findSome? fun e => match e.body with
    | .done r i 0 st res _ _ => if r = ring ∧ i = id then some (st, res) else none
    | _ => none

/-- SHADOW_PAIR_COMPLETE: the standby completes its copy with the status of the active's (R173). -/
def execShadowPairComplete (ring submitId : Nat) (s : State) : Result :=
  match s.hq.ops.find? fun o => o.shadow && o.ring == ring && dSubmit o.bytes == submitId with
  | none => .next s
  | some o =>
    let q := s.queue ring
    let res := if q.durable then (if journalDesc s.wb.journal ring submitId then some (stAccepted, 0) else none)
      else journalDoneStatus s.wb.journal ring submitId
    match res with
    | none => .next s
    | some (st, r) =>
      if s.cqFree ring = 0 then .next s
      else
      let s := s.writeCompletion ring o.bytes o.tag st r (cflags false false o.long)
      .next { s with hq := { s.hq with ops := s.hq.ops.filter fun p => decide (p.tag ≠ o.tag) } }

/-- Steps of a long operation journalled so far (R44). -/
def lastStep (l : List JEntry) (ring id : Nat) : Nat :=
  l.foldl (fun n e => match e.body with
    | .step r i k => if r = ring ∧ i = id then k else n
    | _ => n) 0

/-- Accepted work as it stands in the journal: every DESC without DONE, long work from its last STEP (R239). A TIME that has passed is late
(R131, R163). -/
def State.workOf (s : State) : List Op :=
  s.wb.journal.filterMap fun e =>
    match e.body with
    | .desc ring id b =>
      let q := s.queue ring
      let k := lastStep s.wb.journal ring id
      if hasDone s.wb.journal e.jsn then none
      else some { tag := 0, issuer := ownerIssuer q.owner, ring := ring, idx := 0, bytes := b, engine := q.engine,
                  waitTime := dTimed b && decide (k = 0), late := s.timePassed b, long := opLong q.engine (dOpcode b),
                  steps := k, started := decide (k ≠ 0), rules := s.fencesOf q.engine, jsn := some e.jsn }
    | _ => none

/-- Inserts work by SUBMIT_ID. -/
def insertWork (o : Op) : List Op → List Op
  | [] => [o]
  | p :: l => if dSubmit o.bytes < dSubmit p.bytes then o :: p :: l else p :: insertWork o l

/-- The accepted, unexecuted descriptors of ring `n` come back from the journal in SUBMIT_ID order; work that an engine has begun goes on
(R181). -/
def State.refillWork (s : State) (n : Nat) : State :=
  let keep := s.hq.work.filter fun o => o.ring != n || o.started || o.steps != 0
  let back := s.workOf.filter fun o =>
    o.ring == n && !(keep.any fun p => p.jsn == o.jsn) && !(s.hq.ops.any fun p => p.jsn == o.jsn)
  { s with hq := { s.hq with work := keep ++ back.foldl (fun l o => insertWork o l) [] } }

/-- QUEUE_PTR_RESET: the queue is emptied under a new generation; accepted work comes back from a whole journal copy, else the guarantee is
broken for it (R62, R180, R181). -/
def execQueuePtrReset (n pointer : Nat) (ownCopyOk partnerCopyOk : Bool) (s : State) : Result :=
  let q := s.queue n
  let s := s.cancelRing n stQueueReset
  let s := s.setQueue n fun q => { q with packets := [], readable := [], unread := 0, gen := q.gen + 1, ptrReset := true }
  let s := ({ s with hq := { s.hq with faultQueue := n % 256, faultPtr := pointer % 8 } }.record .queuePtrReset [n, pointer]).raise 109
  .next (if q.durable = false ∨ s.holds = false then s
    else if ownCopyOk ∨ partnerCopyOk then s.refillWork n
    else { s with hq := { s.hq with work := s.hq.work.filter fun o => decide (o.ring ≠ n) } }.guaranteeBroken
      (n :: (s.hq.work.filter fun (o : Op) => o.ring == n).map fun (o : Op) => dSubmit o.bytes))

/-- QUEUE_STALE: content has stood unread for STALE µs; a part burst in the tail cache moves forward (R182). -/
def execQueueStale (n : Nat) (s : State) : Result :=
  let q := s.queue n
  .next (if q.hasContent ∧ q.staleUs ≠ 0 ∧ q.quietFrom + 100 * q.staleUs ≤ s.tb.csr then
    (s.setQueue n fun q => { q with stale := true, caches := q.caches.forward }).queueEvent n else s)

/-! Word queues. -/

/-- The length word (table Length word). -/
def lengthWord (len type : Nat) (trunc : Bool) : Word :=
  BitVec.ofNat 32 (len % 65536 + 65536 * (type % 256) + 2 ^ 30 * ofBool trunc + 2 ^ 31)

/-- Bytes as words, padded with zeros. -/
def toWords : Nat → List Byte → List Word
  | 0, _ => []
  | k + 1, l => BitVec.ofNat 32 (leField l 0 4) :: toWords k (l.drop 4)

/-- A filled packet: length word and padded body. -/
def mkPacket (type : Nat) (trunc : Bool) (b : List Byte) : Packet :=
  ⟨type, trunc, b.length, lengthWord b.length type trunc :: toWords ((b.length + 3) / 4) b⟩

/-- A word queue has room for `k` more words: its depth is 2^(v+4) entries of 16 words (R169, R179). -/
def Queue.roomFor (q : Queue) (k : Nat) : Bool := decide (q.wordsHeld + k ≤ q.sqSize * 16)

/-- The queue without its first readable word, which it returned. -/
def Queue.took (q : Queue) (w : Word) (packets : List Packet) (readable : List Word) : Queue :=
  let x := { q with packets := packets, readable := readable, lastWord := w }
  { x with caches := q.caches.resize q.entriesHeld x.entriesHeld }

/-- The next readable word and the queue without it (R183, R185). -/
def Queue.pop (q : Queue) : Option (Word × Queue) :=
  match q.readable with
  | w :: ws => some (w, q.took w q.packets ws)
  | [] =>
    match q.packets with
    | p :: ps =>
      match p.words with
      | w :: ws => some (w, q.took w ps ws)
      | [] => none
    | [] => none

/-- A packet becomes readable; a core waiting on the legacy port gets its first word (R183, R186). -/
def State.pushPacket (s : State) (n type : Nat) (trunc : Bool) (b : List Byte) : State :=
  let p := mkPacket type trunc b
  let q := s.queue n
  if !q.kind || !q.enable || !q.roomFor p.words.length then s
  else
    let s := (s.setQueue n fun q =>
      let x := { q with packets := q.packets ++ [p] }
      { x with caches := q.caches.resize q.entriesHeld x.entriesHeld }).contentMade n p.words.length false q.hasContent
    match q.legacyWait, (s.queue n).pop with
    | some r, some (w, q') => (s.setQueue n fun _ => { q' with legacyWait := none }.readNow s.tb.csr).answer r w.toNat
    | _, _ => s

/-- WORD_PACKET_DONE. -/
def execWordPacketDone (n type : Nat) (trunc : Bool) (bytes : List Byte) (s : State) : Result :=
  .next (s.pushPacket n type trunc (bytes.take 65532))

/-- A read of HQ_n_PORT (R185). -/
def State.portRead (s : State) (q : Requester) (n : Nat) : State :=
  let x := s.queue n
  if !x.kind then s.answer q 0
  else if q = .debug then s.answer q ((x.pop.map fun p => p.1.toNat).getD x.lastWord.toNat)
  else if x.owner = 0 ∨ x.owner ≠ q.code then s.answer q 0
  else
    match x.pop with
    | some (w, x') => (s.setQueue n fun _ => x'.readNow s.tb.csr).answer q w.toNat
    | none => ((s.setQueue n fun x => { x with underrun := true }).raise 110).answer q x.lastWord.toNat

/-- A read of HQ_n_PORT with LEGACY_POP: an owning core waits on an empty port; no other requester waits (R185, R186). -/
def State.popRead (s : State) (q : Requester) (n : Nat) : State :=
  let x := s.queue n
  if x.kind ∧ x.legacyPop ∧ x.owner = q.code ∧ x.owner ≠ 0 ∧ x.owner < 9 ∧ x.pop = none then
    (s.setQueue n fun x => { x with legacyWait := some q, legacyFrom := s.tb.csr }).answerErr q .waiting
  else s.portRead q n

/-- PORT_READ. -/
def execPortRead (q : Requester) (n : Nat) (s : State) : Result := .next (s.popRead q n)

/-- LEGACY_POP_READ (R186). -/
def execLegacyPopRead (q : Requester) (n : Nat) (s : State) : Result := .next (s.popRead q n)

/-- LEGACY_POP_TIMEOUT: after HQ_LEGACY_TMO with nothing readable the waiting read ends in a bus error (R186). -/
def execLegacyPopTimeout (n : Nat) (s : State) : Result :=
  .next (match (s.queue n).legacyWait with
    | some q =>
      if s.tb.csr < (s.queue n).legacyFrom + 100 * s.fld .legacyTmo 0 32 then s
      else ((s.setQueue n fun x => { x with legacyWait := none }).raise 110).answerErr q .busError
    | none => s)

end Sys2Proof.Machine
end

