-- ==== Sys2Proof/Machine/RegWrite.lean ====
section
/-! DEFINITION. The rules of a register write that hold for every register: access codes, reserved codes, block locks, SERVICE, the
settings held by the signed configuration, the MPU's writers and the debug master (R15 to R19, R276 to R278, R616 to R625). -/

namespace Sys2Proof.Machine

/-- The lock of a block (R621). -/
def State.lockOf (s : State) (b : Nat) : LockSt := s.locks.getD b {}

/-- The lock of block `b` is open for this requester (R621). -/
def State.lockedFor (s : State) (b : Nat) (q : Requester) : Bool :=
  match (s.lockOf b).holder with
  | some h => h.code == q.code
  | none => false

/-- An admitted RWL write restarts the 100 ms of the block's lock (R623). -/
def State.touchLock (s : State) (b : Nat) : State :=
  { s with locks := updAt s.locks b fun l => { l with since := s.tb.csr } }

/-- Registers that the signed configuration holds outside SERVICE (R624). -/
def heldRegs : List RegName :=
  [.wbPairId, .wbLeaseCfg, .wbRefMacLo, .wbRefMacHi, .wbRefEtype, .angOffset, .angSeed, .netCfg]

/-- A debug access may write: SERVICE and QUARANTINE only (R278). -/
def State.debugMayWrite (s : State) : Bool := s.sys.mode == .service || s.sys.mode == .quarantine

/-- Lease logic addresses among the locked regions (table Locked regions). -/
def inLeaseLogic (a : Nat) : Bool := decide (0x40060000 ≤ a ∧ a ≤ 0x4006003F ∨ 0x40060060 ≤ a ∧ a ≤ 0x4006006F)

/-- A locked region of the debug master (table Locked regions): key store, protection sets, journal, lease logic. -/
def debugLocked (a : Nat) : Bool :=
  decide (0x40148000 ≤ a ∧ a ≤ 0x4014FFFF) || decide (0x400C8000 ≤ a ∧ a ≤ 0x400CFFFF) || inJournal a || inLeaseLogic a

/-- Why a requester's write does not reach the registers: the state with the refusal recorded (R277, R278, R616). -/
def State.writeBarred (s : State) (q : Requester) (addr : Nat) : Option State :=
  match q with
  | .debug =>
    if debugLocked addr then some (s.denyDebug addr)
    else if addr / 0x10000 ≠ 0x4016 ∧ s.debugMayWrite = false then some (s.denyDebug addr)
    else if addr % 0x10000 = 0x7FF0 ∧ s.debugMayWrite = false then some (s.denyDebug addr)
    else none
  | .host => if addr / 0x10000 = 0x4016 then some (s.refuseWrite q addr) else none
  | .core .. => none
  | .engine _ => none

/-- An allowed code of a field (R19). -/
def fieldOk (f : RegField) (v : Nat) : Bool := f.ok.isEmpty || f.ok.any fun r => decide (r.1 ≤ v ∧ v ≤ r.2)

/-- Sets the RW, RWL and RWS fields of `fs` from the word `v`; a reserved code leaves its field and is reported (R19). -/
def applyFields (old v : Word) : List RegField → Word × Bool
  | [] => (old, false)
  | f :: fs =>
    let (w, bad) := applyFields old v fs
    let x := bitsOf v.toNat f.lo f.width
    if f.acc = .wo ∨ f.acc = .w1c ∨ f.acc = .w1s then (w, bad)
    else if fieldOk f x then (setField w f.lo f.width x, bad) else (w, true)

/-- A strobe setting above 100 strobes per second at a nominal frequency (R373). -/
def strobesTooFast (n c : Nat) (sixty : Bool) : Bool := decide (100 * c < n * (if sixty then 60 else 50))

/-- A combination of fields reserved on the value the whole write would produce (R19): CONFIRM_HOLD_S not below CONFIRM_S, FIX_WARN above
T, a strobe setting too fast for FNOM (R373). -/
def State.comboReserved (s : State) (r : RegName) (w : Word) : Bool :=
  match r with
  | .slkCtrl => strobesTooFast (bitsOf w.toNat 16 8) (bitsOf w.toNat 24 8) (s.bit .angCtrl 4)
  | .updCfg => decide (bitsOf w.toNat 16 16 ≤ bitsOf w.toNat 1 15)
  | .nvsPartCfg => decide (bitsOf w.toNat 0 7 < bitsOf w.toNat 8 7)
  | _ => false

/-- Index of the lock bit's region: a staged region whose current copy has LOCK set is fixed (R276). -/
def State.mpuFixed (s : State) (r : RegName) (i j : Nat) : Bool :=
  match r with
  | .mpuBaseLo | .mpuBaseHi | .mpuAttr => bitOf (((s.core.mpus.getD i {}).cur.getD j {}).attr.toNat) 7
  | _ => false

/-- A register of an MPU that only machine mode on a lockstep pair writes (R276). -/
def isMpuReg (r : RegName) : Bool :=
  match r with
  | .mpuBaseLo | .mpuBaseHi | .mpuAttr | .mpuCtrl | .mpuStatus => true
  | _ => false

/-- A requester is machine mode on a lockstep pair (R276). -/
def State.machineLockstep (s : State) (q : Requester) : Bool :=
  match q with
  | .core p false .machine => (s.core.pairs.getD p {}).state == 0
  | _ => false

/-- A requester that may write a block in SERVICE: a core in machine mode, the host port, debug (R625). -/
def mayWriteRws (q : Requester) : Bool :=
  match q with
  | .core _ _ .machine | .host | .debug => true
  | _ => false

/-- Fields of a register with an access code. -/
def fieldsOf (r : RegName) (a : Acc) : List RegField := r.desc.fields.filter fun f => f.acc == a

/-- A write of the held bits of a register under every common rule; true when the write was admitted. -/
def State.writeHeld (s : State) (q : Requester) (r : RegName) (i j : Nat) (v : Word) : State × Bool :=
  let addr := r.addr i j
  let b := r.desc.block
  let old := s.reg r i j
  let refuse : State × Bool := (s.refuseWrite q addr, false)
  let rwl := fieldsOf r .rwl
  let rws := fieldsOf r .rws
  let rw := fieldsOf r .rw
  if heldRegs.contains r ∧ s.sys.mode ≠ .service then refuse
  else if r = .angCtrl ∧ s.sys.mode ≠ .service ∧ bitOf v.toNat 4 ≠ bitOf old.toNat 4 then refuse
  else if isMpuReg r ∧ (!s.machineLockstep q || s.mpuFixed r i j) then refuse
  else if rwl ≠ [] ∧ rw = [] ∧ !s.lockedFor b q then refuse
  else if rws ≠ [] ∧ (s.sys.mode ≠ .service ∨ !mayWriteRws q) then refuse
  else
    let rwlOpen := s.lockedFor b q
    let fs := rw ++ rws ++ (if rwlOpen then rwl else [])
    let (w, bad) := applyFields old v fs
    if s.comboReserved r w then refuse
    else
      let dropped := !rwlOpen && decide (rwl ≠ [])
      let s := s.setReg r i j w
      let s := if rwl ≠ [] ∧ rwlOpen then s.touchLock b else s
      (if bad || dropped then s.refuseWrite q addr else s, true)

/-- The low words that a high word completes (R618). -/
def lowOf (r : RegName) : List RegName :=
  match r with
  | .dbCoreHi => [.dbCoreLo] | .dbHostHi => [.dbHostLo] | .hqNBaseHi => [.hqNSqLo, .hqNCqLo]
  | .wbDrillDueHi => [.wbDrillDueLo] | .wbRefMacHi => [.wbRefMacLo] | .slkSweepBaseHi => [.slkSweepBaseLo]
  | .estResultBaseHi => [.estResultBaseLo] | .logLiveBaseHi => [.logLiveBaseLo] | .mpuBaseHi => [.mpuBaseLo]
  | .almPerHi => [.almPerLo] | .almDueX => [.almDueLo, .almDueHi]
  | _ => []

/-- A register is the low word of a wider value: its write waits for the highest word (R618). An angle alarm's due instant is two words
wide, so its high word completes it (R138). -/
def State.isLow (s : State) (r : RegName) (i : Nat) : Bool :=
  match r with
  | .dbCoreLo | .dbHostLo | .hqNSqLo | .hqNCqLo | .wbDrillDueLo | .wbRefMacLo | .slkSweepBaseLo | .estResultBaseLo | .logLiveBaseLo
  | .mpuBaseLo | .almPerLo | .almDueLo => true
  | .almDueHi => (s.tb.alarms.getD i {}).ptBase
  | _ => false

/-- The low words to take with a write of `r`. -/
def State.lowsFor (s : State) (r : RegName) (i : Nat) : List RegName :=
  match r with
  | .almDueHi => if (s.tb.alarms.getD i {}).ptBase then [] else [.almDueLo]
  | r => lowOf r

/-- Takes the low words last written into their registers (R618). -/
def State.takeLows (s : State) (q : Requester) (i j : Nat) : List RegName → State
  | [] => s
  | r :: rs =>
    let s := match s.tb.lowWords.find? fun e => e.2.1 == r.addr i j with
      | some (_, a, w) =>
        { (s.writeHeld q r i j w).1 with tb := { s.tb with lowWords := s.tb.lowWords.filter fun e => decide (e.2.1 ≠ a) } }
      | none => s
    s.takeLows q i j rs

/-- A write of a register without an effect beyond its held bits, the low word of a wide value waiting for the highest (R618). -/
def State.writeWide (s : State) (q : Requester) (r : RegName) (i j : Nat) (v : Word) : State × Bool :=
  if s.isLow r i then
    let (t, ok) := s.writeHeld q r i j v
    if ok then
      let a := r.addr i j
      ({ s with locks := t.locks,
                tb := { s.tb with lowWords := (s.tb.lowWords.filter fun e => decide (e.2.1 ≠ a)) ++ [(q, a, v)] } }, true)
    else (t, false)
  else
    let (t, ok) := s.writeHeld q r i j v
    if ok then (t.takeLows q i j (s.lowsFor r i), true) else (t, false)

end Sys2Proof.Machine
end

