-- ==== Sys2Proof/Machine/Clock.lean ====
section
/-! DEFINITION. The angle clock, plant time, alarms, timed frames and the calendar (03_grid_angle_clock_and_plant_time.md, R99 to
R150). -/

namespace Sys2Proof.Machine

/-! Time passing. -/

/-- Nominal frequency in 0.1 mHz (TB_ANG_CTRL.FNOM). -/
def nominal (sixty : Bool) : Nat := if sixty then 600000 else 500000

/-- Module time of `ns` nanoseconds passes for the time base (10 ns), the CAN counter (25 ns) and plant time with its adjustment in
2^-16 ns per 1,024 ns. -/
def State.elapse (s : State) (ns : Nat) : State :=
  let t : Int := Int.ofNat ((s.tb.pt.total + ns) * 65536 + s.tb.ptSub) + Int.ofNat ns * s.tb.ptAdj / 1024
  let n := t.toNat
  { s with tb := { s.tb with csr := s.tb.csr + ns / 10, pt := PlantTime.ofTotal (n / 65536), ptSub := n % 65536 },
           can := { s.can with counter := (s.can.counter + ns * 40 / 1000) % 2 ^ 32 } }

/-- Nanoseconds that a number of angle counts take at a frequency in 0.1 mHz. -/
def countsNs (counts freq : Nat) : Nat := counts * 10 ^ 13 / (2 ^ 24 * freq)

/-- The rate of the angle clock becomes `f`; until the first cycle has ended, the mapping's period is a cycle at that rate (R118). -/
def State.setRate (s : State) (f : Nat) : State :=
  let a := if s.tb.anchor.ang = 0 then { s.tb.anchor with period := countsNs (countsPerCycle * 65536) f } else s.tb.anchor
  { s with tb := { s.tb with freq := f, anchor := a } }

/-- The counts by which the clock may depart from its source over `ns` nanoseconds, of the `lim` that TB_ANG_SLEW allows: all of them in
SLEW (R111), else what the loop of TB_ANG_CTRL.BW takes (R110). -/
def State.departure (s : State) (lim ns : Nat) : Nat :=
  min s.tb.slewRem.natAbs
    (if s.tb.angState = .slew then lim else min lim (Config.trackStep (s.fld .angCtrl 8 5) s.tb.slewRem.natAbs ns))

/-- The angle clock over `ns` nanoseconds: the source's rate, departing from it while a phase difference is removed (R99, R110, R111). -/
def State.angElapse (s : State) (ns : Nat) : State :=
  let t := s.tb
  let rate := 2 ^ 24 * t.freq * ns
  let n := rate * 10 ^ 6 + t.angFrac
  let base := t.ang + n / 10 ^ 19
  if t.slewRem = 0 then { s with tb := { t with ang := base, angFrac := n % 10 ^ 19, slewFrac := 0 } }
  else
    let lim := rate * s.fld .angSlew 0 17 + t.slewFrac
    let dep := s.departure (lim / 10 ^ 19) ns
    let ang := if t.slewRem < 0 then base - dep else base + dep
    let rem : Int := if t.slewRem < 0 then t.slewRem + Int.ofNat dep else t.slewRem - Int.ofNat dep
    { s with tb := { t with ang := max t.ang ang, angFrac := n % 10 ^ 19, slewRem := rem, slewFrac := lim % 10 ^ 19 } }

/-- One microsecond with no command waiting (notes/assumptions/9.md). -/
def State.idleTick (s : State) : State := (s.angElapse 1000).elapse 1000

/-! The MAP record and clock states. -/

/-- The mapping as words: angle stamp, plant time seconds and nanoseconds, period (R118). -/
def anchorWords (a : Anchor) : List Nat := [a.ang, a.pt.sec, a.pt.ns, a.period]

/-- The time offset of a distance in angle counts by a period in 2^-16 ns, in whole nanoseconds (R121). -/
def mapOffset (period : Nat) (d : Int) : Int := d * Int.ofNat period / 2 ^ 40

/-- The plant time of an angle stamp by a mapping (R121). -/
def plantOf (a : Anchor) (stamp : Nat) : PlantTime :=
  PlantTime.ofTotal (Int.ofNat a.pt.total + mapOffset a.period (Int.ofNat stamp - Int.ofNat a.ang)).toNat

/-- A MAP record (R120). -/
def State.mapRecord (s : State) : State := s.record .mapRec (anchorWords s.tb.anchor)

/-- ANG_STATE changes: event source 104 and a MAP record (R120). -/
def State.setAng (s : State) (a : AngState) : State :=
  if s.tb.angState = a then s
  else (({ s with tb := { s.tb with angState := a } }).mapRecord).raise 104

/-- PT_STATE changes: event source 105 and a MAP record; the days after a loss of the nonce lists begin with plant time where there was none
(R552). -/
def State.setPt (s : State) (p : PtState) : State :=
  if s.tb.ptState = p then s
  else
    let sec := if s.sec.nonceLost = some {} then { s.sec with nonceLost := some s.tb.pt } else s.sec
    (({ s with tb := { s.tb with ptState := p }, sec := sec }).mapRecord).raise 105

/-! Alarms. -/

/-- The clock of an alarm. -/
def State.almClock (s : State) (ptBase : Bool) : Nat := if ptBase then s.tb.pt.total else s.tb.ang

/-- Alarm n fires: a one-shot is done, a periodic one goes on `k` periods later; event source 32 + n. -/
def State.fireAlarm (s : State) (n k : Nat) (late skipped : Bool) (skips : Nat) : State :=
  { s with tb := { s.tb with alarms := updAt s.tb.alarms n fun a =>
      { a with fired := true, late := late, skipped := skipped, skipCount := satAt 65535 skips, lastFired := some a.due,
               armed := a.periodic, due := if a.periodic then a.due + k * a.per else a.due } } }.raise (32 + n)

/-- Occurrences from `due` every `per` that lie before `new`. -/
def occBefore (due per new : Nat) : Nat := if per = 0 then 1 else (new - due + per - 1) / per

/-- What a jump passes: an alarm, the worker's set-point, a timed frame of a traffic class and ring, a TIMED descriptor. -/
inductive Due | alarm (n : Nat) | setpoint | frame (id prio ring : Nat) | work (w : WorkRef)
  deriving DecidableEq, Repr

/-- The place of a happening among those of one instant: frames by higher traffic class, then lower queue (table Fixed arbitration
orders). -/
def Due.rank : Due → Nat
  | .alarm n => n
  | .setpoint => 32
  | .frame _ prio ring => 33 + (7 - prio) * 256 + ring
  | .work _ => 33 + 8 * 256

/-- Inserts by due instant and rank, behind those equal to it. -/
def insertDue (x : Nat × Due) : List (Nat × Due) → List (Nat × Due)
  | [] => [x]
  | y :: ys => if x.1 < y.1 ∨ (x.1 = y.1 ∧ x.2.rank < y.2.rank) then x :: y :: ys else y :: insertDue x ys

/-- Work that waits for its TIME on a clock; a frame in its queue stands for its descriptor. -/
def waitingWork (ptBase : Bool) (l : List Op) (durable : Bool) : List (Nat × Due) :=
  (l.filter fun o => o.waitTime && !o.started && o.done.isNone && dPtBase o.bytes == ptBase).map fun o =>
    (dTime o.bytes, .work (if durable then .jsn (o.jsn.getD 0) else .tag o.tag))

/-- The happenings due strictly between two values of a clock, in due order (R113, R133). -/
def State.passed (s : State) (ptBase : Bool) (old new : Nat) : List (Nat × Due) :=
  let al := (List.range 32).filterMap fun n =>
    let a := s.tb.alarms.getD n {}
    if a.armed ∧ a.ptBase = ptBase then some (a.due, Due.alarm n) else none
  let sp := if ptBase then [] else s.dsp.spPending.map fun x => (x.1, Due.setpoint)
  let fr := (s.tb.frames.filter fun f => f.timed && f.ptBase == ptBase).map fun f => (f.due, Due.frame f.id f.prio f.ring)
  let all := al ++ sp ++ fr ++ waitingWork ptBase s.hq.ops false ++ waitingWork ptBase s.hq.work true
  (all.filter fun x => decide (old < x.1 ∧ x.1 < new)).foldl (fun l x => insertDue x l) []

/-- The state with slot n of the loop engine changed. -/
def State.setSlot (s : State) (n : Nat) (f : Slot → Slot) : State := { s with loop := { s.loop with slots := updAt s.loop.slots n f } }

/-- A set-point takes its place among those posted, by its epoch. -/
def postSetpoint (x : Nat × F32 × Nat) : List (Nat × F32 × Nat) → List (Nat × F32 × Nat)
  | [] => [x]
  | y :: l => if x.1 < y.1 then x :: y :: l else y :: postSetpoint x l

/-- The worker's set-points reach its dispatch slot at their epochs: of those due the last stands (R476). -/
def State.applySetpoint (s : State) (now : Nat) : State :=
  match (s.dsp.spPending.filter fun x => decide (x.1 ≤ now)).getLast? with
  | some (e, p, seq) =>
    { s with dsp := { s.dsp with spPending := s.dsp.spPending.filter fun x => decide (now < x.1),
                                 pSet := p, spEpoch := e, spSeq := seq } }.setSlot s.cfg.dspSlot fun x => { x with setTarget := some p }
  | none => s

/-! Gate lists (R529, R530). -/

/-- The gate entry in force at `ns` nanoseconds into a gate list's cycle. -/
def gateIndex : List (Nat × Nat) → Nat → Nat
  | [], _ => 0
  | (_, len) :: es, ns => if ns < len then 0 else 1 + gateIndex es (ns - len)

/-- Length of a gate list's cycle. -/
def gateCycle (l : List (Nat × Nat)) : Nat := l.foldl (fun n e => n + e.2) 0

/-- Nanoseconds since the base time of a gate list; 0 before it. -/
def State.gateNs (s : State) (g : GateList) : Nat :=
  if g.ptBase then s.almClock true - g.base else countsNs (s.almClock false - g.base) s.tb.freq

/-- A new gate list with the first start of its cycle at or after its base time that is still to come (R529). -/
def State.gateFrom (s : State) (g : GateList) : GateList :=
  { g with start := (s.gateNs g + gateCycle g.entries - 1) / gateCycle g.entries * gateCycle g.entries }

/-- The active entry of port p's gate list (NET_PORT_p_GATE). -/
def State.gateEntry (s : State) (p : Nat) : Nat :=
  match (s.net.ports.getD p {}).gate with
  | none => 0
  | some g => if gateCycle g.entries = 0 then 0 else gateIndex g.entries (s.gateNs g % gateCycle g.entries)

/-- The gate of a class is open on port p (R529). -/
def State.gateOpen (s : State) (p cls : Nat) : Bool :=
  match (s.net.ports.getD p {}).gate with
  | none => true
  | some g => bitOf ((g.entries.getD (s.gateEntry p) (255, 0)).1) cls

/-- The gates of a class are open on both ports of a network: a frame leaves on both at one instant (R530). -/
def State.gatesOpen (s : State) (n cls : Nat) : Bool := s.gateOpen (2 * n) cls && s.gateOpen (2 * n + 1) cls

/-! Timed frames in their transmit queues (R131, R528, R530). -/

/-- The operation or accepted work a frame belongs to. -/
def State.frameOp (s : State) (w : WorkRef) : Option Op :=
  match w with
  | .tag t => s.hq.ops.find? fun o => o.tag == t && o.jsn.isNone && o.done.isNone
  | .jsn j => s.hq.work.find? fun o => o.jsn == some j && o.done.isNone

/-- Completes the descriptor of a frame; `mark` says whether a jump sent it. -/
def State.finishFrame (s : State) (f : TimedFrame) (late : Bool) (mark status : Nat) : State :=
  match f.work.bind s.frameOp with
  | some op => s.finish { op with late := late, mark := mark } status 0
  | none => s

/-- The descriptor of a frame is still in flight: one that was aborted takes its frame with it (R188). -/
def State.frameAlive (s : State) (f : TimedFrame) : Bool := f.work.isNone || (f.work.bind s.frameOp).isSome

/-- A frame of an AUTH ring is sent by the module that may act on it; in a hand-over it waits (R172). -/
def State.frameMay (s : State) (f : TimedFrame) : Bool := (f.work.bind s.frameOp).all s.mayServe

/-- The frame leaves its queue. -/
def State.pullFrame (s : State) (f : TimedFrame) : State :=
  { s with tb := { s.tb with frames := s.tb.frames.filter fun g => decide (g.id ≠ f.id) } }

/-- A frame is sent, and its descriptor completes. -/
def State.launchFrame (s : State) (f : TimedFrame) (late : Bool) (mark : Nat) : State :=
  let s := s.pullFrame f
  if s.frameAlive f then (s.emit (.net f.network f.prio (.raw f.bytes))).finishFrame f late mark stOk else s

/-- A frame too late at the head of its queue goes by its LATE_POLICY (R131). -/
def State.lateFrame (s : State) (f : TimedFrame) : State :=
  if f.latePolicy then s.launchFrame f true 0 else (s.pullFrame f).finishFrame f false 0 stLaunchMissed

/-- The frame at the head of the transmit queue of a class: the first, or of those with its launch instant the one of the lowest ring
(table Fixed arbitration orders). -/
def State.headFrame (s : State) (n cls : Nat) : Option TimedFrame :=
  match s.tb.frames.filter fun f => f.network == n && f.prio == cls with
  | [] => none
  | h :: l => some (l.foldl (fun (b f : TimedFrame) =>
      if h.timed && f.timed && f.ptBase == h.ptBase && f.due == h.due && decide (f.ring < b.ring) then f else b) h)

/-- Serves the head of a queue until it is a frame that waits for its instant: one without an instant leaves when its gate is open, one
whose instant has passed goes by its LATE_POLICY (R131, R529). -/
def State.settleQueue (s : State) (n cls : Nat) : Nat → State
  | 0 => s
  | k + 1 =>
    match s.headFrame n cls with
    | none => s
    | some f =>
      if s.frameAlive f = false then (s.pullFrame f).settleQueue n cls k
      else if f.headed ∨ s.frameMay f = false then s
      else if f.timed = false then (if s.gatesOpen n cls then (s.launchFrame f false 0).settleQueue n cls k else s)
      else if f.due < s.almClock f.ptBase then (s.lateFrame f).settleQueue n cls k
      else { s with tb := { s.tb with frames := s.tb.frames.map fun (g : TimedFrame) => if g.id = f.id then { g with headed := true } else g } }

/-- Serves the head of one queue. -/
def State.settleFrames (s : State) (n cls : Nat) : State := s.settleQueue n cls (s.tb.frames.length + 1)

/-- Serves the heads of every queue. -/
def State.settleHeads (s : State) : State := (List.range 16).foldl (fun s k => s.settleFrames (k / 8) (k % 8)) s

/-! Jumps and steps. -/

/-- One happening of a jump: an alarm fires once for all it missed, a set-point is taken, a frame is sent, a TIMED descriptor is carried
out (R113, R114, R131, R133, R137). -/
def State.firePassed (s : State) (ptBase : Bool) (new : Nat) (d : Due) : State :=
  match d with
  | .alarm n =>
    let a := s.tb.alarms.getD n {}
    let k := if a.periodic then occBefore a.due a.per new else 0
    s.fireAlarm n k (!ptBase) ptBase k
  | .setpoint => s.applySetpoint new
  | .frame id _ _ =>
    match s.tb.frames.find? fun f => f.id == id with
    | some f => if s.frameMay f then s.launchFrame f false (if ptBase then 2 else 1) else s
    | none => s
  | .work w => match s.timedOp w with
    | some o => s.startDue w o (if ptBase then 2 else 1)
    | none => s

/-- Everything a jump passes, in due order; the frames that this brings to the head of their queues are served then. -/
def State.fireAll (s : State) (ptBase : Bool) (new : Nat) (l : List (Nat × Due)) : State :=
  (l.foldl (fun s x => s.firePassed ptBase new x.2) s).settleHeads

/-- An angle task over a jump: its occurrences strictly between fire once, LATE, at the next TASK_RELEASE; every one of them counts
(R114, R283, R286). -/
def jumpTask (old new : Nat) (t : Task) : Task :=
  if old < t.rel ∧ t.rel < new ∧ 0 < t.per then
    let m := occBefore t.rel t.per new
    { t with rel := t.rel + m * t.per, relNum := if t.late then t.relNum + m else t.relNum + m - 1, late := true,
             skips := if t.late then t.skips + m else m }
  else t

/-- The angle clock advances at once (R109, R112 to R114); it never moves back. A happening with a command of its own fires by that
command, due from the jump on (notes/assumptions/85.md). -/
def State.angJump (s : State) (d : Nat) : State :=
  let old := s.tb.ang
  let l := s.passed false old (old + d)
  { s with tb := { s.tb with ang := old + d, jump := some (old, old + d) },
           prg := { s.prg with tasks := s.prg.tasks.map (jumpTask old (old + d)) } }.fireAll false (old + d) l

/-- Plant time steps by `d` nanoseconds (R126, R133, R134), recorded as PT_STEP. -/
def State.stepPt (s : State) (d : Int) : State :=
  let old := s.tb.pt.total
  let new := (Int.ofNat old + d).toNat
  let l := if old < new then s.passed true old new else []
  let s1 := ({ s with tb := { s.tb with pt := PlantTime.ofTotal new } }.fireAll true new l)
  s1.record .ptStep [unsignedOf 64 d]

/-! Angle sources. -/

/-- The band in which a source is tracked, 40 Hz to 72 Hz (R99). -/
def inBand (freq : Nat) : Bool := decide (400000 ≤ freq ∧ freq ≤ 720000)

/-- A source is there: the synthetic one always, another while its frequency lies in the band, sampled values only from an accepted stream
(R99, R100, table Angle sources). -/
def State.sourceOk (s : State) (src freq : Nat) : Bool :=
  src == 2 || (inBand freq && (src != 1 || s.tb.svAt.isSome))

/-- A phase difference in range: -2^23 to 2^23 - 1. -/
def wrapPhase (d : Int) : Int := signedOf 24 (unsignedOf 24 d)

/-- The clock free-runs in SYNTH at the last rate measured in LOCKED, before any at the nominal one (R101, R102); recorded as ANG_SRC_LOST
(R103). -/
def State.toSynth (s : State) : State :=
  let s := s.setRate (s.tb.lockRate.getD (nominal (s.bit .angCtrl 4)))
  (({ s with tb := { s.tb with lostSrc := some s.tb.angSrc, synthCycles := 0, slewRem := 0, slewFrac := 0, goodCycles := 0,
                               angState := .synth } }.record .angSrcLost [s.tb.angSrc]).mapRecord).raise 104

/-- The source in use is lost (R103); the synthetic one never is. -/
def State.loseSource (s : State) : State := if s.tb.angState = .synth ∨ s.tb.angSrc = 2 then s else s.toSynth

/-- A phase difference between source and clock (R110 to R112): a small one is tracked away, a positive one stepped over with JUMP_MODE,
any other slewed. -/
def State.meetPhase (s : State) (d : Int) : State :=
  if d.natAbs ≤ 4660 then { s with tb := { s.tb with slewRem := d } }
  else if s.bit .angCtrl 5 ∧ 0 < d then
    ({ s with tb := { s.tb with slewRem := 0, slewFrac := 0 } }.angJump d.toNat).setAng .locked
  else { s with tb := { s.tb with slewRem := d } }.setAng .slew

/-- A source at its frequency and phase difference becomes the clock's, through ACQUIRE (R101, R110 to R112). The synthetic source runs at
the nominal frequency and is LOCKED; one that is not there is lost at once. -/
def State.takeSource (s : State) (src freq : Nat) (d : Int) : State :=
  if s.sourceOk src freq = false then { s with tb := { s.tb with angSrc := src } }.toSynth
  else
    let s := s.setRate (if src = 2 then nominal (s.bit .angCtrl 4) else freq)
    let s := { s with tb := { s.tb with angSrc := src, lostSrc := none, synthCycles := 0, goodCycles := 0, slewFrac := 0 } }.setAng .acquire
    let s := s.meetPhase d
    if src = 2 ∧ d.natAbs ≤ 4660 then s.setAng .locked else s

/-- ANG_SRC_LOST (R103). -/
def execAngSrcLost (s : State) : Result := .next s.loseSource

/-- ANG_FALLBACK: after FALLBACK_DELAY cycles in SYNTH, to the source FALLBACK names (R103). -/
def execAngFallback (freq : Nat) (d : Int) (s : State) : Result :=
  let f := s.fld .angCtrl 2 2
  .next (if s.tb.angState = .synth ∧ s.tb.lostSrc.isSome ∧ f ≠ 3 ∧ s.fld .angCtrl 16 8 ≤ s.tb.synthCycles ∧ s.sourceOk f freq then
    s.takeSource f freq (wrapPhase d) else s)

/-- The clock waits in SYNTH for its count from a seed pair (R107). -/
def State.awaitsSeed (s : State) : Bool := s.fld .angSeed 0 2 == 1 && !s.tb.seeded

/-- ANG_SRC_RETURN: the lost source, or the selected one at start-up, is taken through ACQUIRE (R102, R103). -/
def execAngSrcReturn (freq : Nat) (d : Int) (s : State) : Result :=
  let src := s.tb.lostSrc.getD (s.fld .angCtrl 0 2)
  .next (if s.tb.angState = .synth ∧ s.awaitsSeed = false ∧ s.sourceOk src freq then s.takeSource src freq (wrapPhase d) else s)

/-- ANG_LOCKED: ACQUIRE ends after 10 cycles in a row below 4,660 counts (R101). -/
def execAngLocked (s : State) : Result :=
  .next (if s.tb.angState = .acquire ∧ (s.tb.angSrc = 2 ∨ 10 ≤ s.tb.goodCycles) then s.setAng .locked else s)

/-- SLEW_DONE: the phase difference is removed (R111). -/
def execSlewDone (s : State) : Result :=
  .next (if s.tb.angState = .slew ∧ s.tb.slewRem = 0 then s.setAng .locked else s)

/-- A free-running clock that was never locked follows a changed FNOM (R102). -/
def State.followFnom (s : State) : State :=
  if s.tb.angState = .synth ∧ s.tb.lockRate = none then s.setRate (nominal (s.bit .angCtrl 4)) else s

/-- R373: a strobe setting that FNOM leaves above its limit becomes 5 strobes in 3 cycles. -/
def State.strobeAdjust (s : State) : State :=
  if strobesTooFast (s.fld .slkCtrl 16 8) (s.fld .slkCtrl 24 8) (s.bit .angCtrl 4) then
    (s.setReg .slkCtrl 0 0 (setField (setField (s.reg .slkCtrl) 16 8 5) 24 8 3)).record .strobeAdjusted
  else s

/-- A write of TB_ANG_CTRL: a changed SRC is a source switch to a source of frequency `freq` at phase difference `d`. -/
def State.writeAngCtrl (s : State) (q : Requester) (v : Word) (freq : Nat) (d : Int) : State :=
  let old := s.reg .angCtrl
  let (t, ok) := s.writeHeld q .angCtrl 0 0 v
  if !ok then t
  else
    let t := if bitOf old.toNat 4 = t.bit .angCtrl 4 then t else t.followFnom.strobeAdjust
    if t.fld .angCtrl 0 2 ≠ bitsOf old.toNat 0 2 ∧ t.awaitsSeed = false then t.takeSource (t.fld .angCtrl 0 2) freq (wrapPhase d) else t

/-- ANG_SRC_SWITCH (R110). -/
def execAngSrcSwitch (q : Requester) (v : Word) (freq : Nat) (d : Int) (s : State) : Result :=
  .next (match s.writeBarred q (RegName.angCtrl.addr 0 0) with
    | some t => t
    | none => s.writeAngCtrl q v freq d)

/-! The cycle boundary and the cycle count. -/

/-- The counts that the source runs while the clock runs `r`, when it departs by `ppm` and has `rem` to make good (R111). -/
def sourceCounts (r ppm : Nat) (rem : Int) : Nat :=
  if rem < 0 then min (r * 10 ^ 6 / (10 ^ 6 - ppm)) (r + rem.natAbs) else max (r * 10 ^ 6 / (10 ^ 6 + ppm)) (r - rem.natAbs)

/-- The clock stands at the next angle 0: the rest of the cycle passes for every clock, and what the departure of it removes is removed. -/
def State.toBoundary (s : State) : State :=
  let r := countsPerCycle - s.tb.ang % countsPerCycle
  let ppm := s.fld .angSlew 0 17
  let k : Nat := if s.tb.slewRem = 0 then 0
    else if s.tb.angState = .slew then ((Int.ofNat r) - Int.ofNat (sourceCounts r ppm s.tb.slewRem)).natAbs
    else s.departure (r * ppm / 10 ^ 6) (countsNs r s.tb.freq)
  let base := if s.tb.slewRem < 0 then r + k else r - k
  let rem : Int := if s.tb.slewRem < 0 then s.tb.slewRem + Int.ofNat k else s.tb.slewRem - Int.ofNat k
  let s := s.elapse (countsNs base s.tb.freq)
  { s with tb := { s.tb with ang := s.tb.ang + r, angFrac := 0, slewRem := rem, slewFrac := 0 } }

/-- The source's frequency and phase difference as the cycle measured them (R99, R101, R103, R110, R111): out of the band the source is
lost; ten small differences in a row are R101's condition for LOCKED; a large one is a phase jump. -/
def State.trackCycle (s : State) (m : Option (Nat × Int)) : State :=
  match m with
  | none => s
  | some (f, e) =>
    if s.tb.angState = .synth ∨ s.tb.angSrc = 2 then s
    else if inBand f = false then s.loseSource
    else
      let d := wrapPhase e
      let s := s.setRate f
      let s := { s with tb := { s.tb with goodCycles := if d.natAbs < 4660 then s.tb.goodCycles + 1 else 0,
                                          lockRate := if s.tb.angState = AngState.locked then some f else s.tb.lockRate } }
      if s.tb.angState = .slew then { s with tb := { s.tb with slewRem := d } } else s.meetPhase d

/-- The mapping of the new cycle; that of the cycle before goes to the history (R118, R120, R514). The RMS of the grid inputs over the cycle
is a measurement, a free value (R508). -/
def State.newMapping (s : State) : State :=
  let t := s.tb
  let old := t.anchor
  let period := if old.ang ≠ 0 ∧ old.ang + countsPerCycle = t.ang then (t.pt.total - old.pt.total) * 65536
    else countsNs (countsPerCycle * 65536) t.freq
  let a : Anchor := { ang := t.ang, pt := t.pt, period := period, canCnt := s.can.counter }
  { s with tb := { t with anchor := a, mapHist := (old :: t.mapHist).take 65536,
                          synthCycles := if t.angState = .synth then t.synthCycles + 1 else 0 },
           aio := { s.aio with rms := (List.range 3).map fun k => Config.free (s.freeCtr + k) % 2 ^ 24 },
           freeCtr := s.freeCtr + 3 }

/-- CYCLE_BOUNDARY: angle 0, the mapping, and what the cycle measured of the source. -/
def execCycleBoundary (src : Option (Nat × Int)) (s : State) : Result :=
  let s := if s.tb.ang % countsPerCycle = 0 ∧ s.tb.ang ≠ s.tb.anchor.ang then s else s.toBoundary
  .next (s.newMapping.trackCycle src)

/-- MAP_RECORD: every 60 s (R120). -/
def execMapRecord (s : State) : Result := .next s.mapRecord

/-- The last grid cycle count held in the journal: of the angle stamps of its DONE entries (R108). -/
def journalCycle (l : List JEntry) : Option Nat :=
  l.foldl (fun m e =>
    let c : Option Nat := match e.body with
      | .done _ _ _ _ _ a _ => some (a / countsPerCycle)
      | _ => none
    match c, m with
    | some c, some x => some (max c x)
    | some c, none => some c
    | none, m => m) none

/-- Seconds of plant time at 2000-01-01 00:00:00 TAI. -/
def tai2000 : Nat := 946684800

/-- The count of the module's own next cycle boundary by a seed pair's anchor (table Cycle count seed sources). -/
def State.countBy (s : State) (a : Anchor) : Nat :=
  let r := countsPerCycle - s.tb.ang % countsPerCycle
  let t := (s.tb.pt.total + countsNs r s.tb.freq) * 65536
  let t0 := a.pt.total * 65536
  let c := a.ang / countsPerCycle
  if a.period = 0 then c
  else if t0 ≤ t then c + (2 * (t - t0) + a.period) / (2 * a.period)
  else c - (2 * (t0 - t) + a.period) / (2 * a.period)

/-- The clock takes a cycle count and keeps its angle. -/
def State.setCount (s : State) (c : Nat) : State :=
  { s with tb := { s.tb with ang := c * countsPerCycle + s.tb.ang % countsPerCycle, seeded := true } }

/-- A seed from a seed pair or from plant time, never below the journal's last count plus one nor below the running count, which never
moves back (R108). -/
def State.seedCount (s : State) (c : Nat) : State :=
  let own := s.tb.ang / countsPerCycle
  let low := match journalCycle s.wb.journal with
    | some j => max own (j + 1)
    | none => own
  if c < low then
    ({ s with dsp := { s.dsp with cycleAhead := true, aheadBy := low - c } }.setCount low).record .cycleAhead [low, c]
  else s.setCount c

/-- A seeded clock against an anchor received: behind, it advances at once; ahead, it keeps counting and records it (R109). -/
def State.compareCount (s : State) (next : Nat) : State :=
  let own := s.tb.ang / countsPerCycle + 1
  if own < next then { s with dsp := { s.dsp with cycleAhead := false, aheadBy := 0 } }.angJump ((next - own) * countsPerCycle)
  else if next < own then
    { s with dsp := { s.dsp with cycleAhead := true, aheadBy := own - next } }.record .cycleAhead [own, next]
  else { s with dsp := { s.dsp with cycleAhead := false, aheadBy := 0 } }

/-- An anchor of the seed pair, its age in ms and its stamp status word: it seeds a count not yet seeded under the conditions of R107, else
the count is compared with it while the mapping holds at both ends (R109; notes/assumptions/89.md). -/
def State.takeAnchor (s : State) (a : Anchor) (age astatus : Nat) : State :=
  if s.fld .angSeed 0 2 ≠ 1 then s
  else if s.tb.seeded then (if s.mapValid && bitOf astatus 9 then s.compareCount (s.countBy a) else s)
  else if age ≤ 10000 ∧ s.tb.ptState = .locked ∧ bitsOf astatus 6 2 = 0 then s.seedCount (s.countBy a - 1)
  else s

/-- CYCLE_SEED (R107 to R109). -/
def execCycleSeed (src : SeedFrom) (s : State) : Result :=
  .next (match src with
    | .partner c => if s.sys.mode = .sync then s.setCount c else s
    | .seedPair a age astatus => s.takeAnchor a age astatus
    | .plantTime =>
      if s.fld .angSeed 0 2 = 2 ∧ s.tb.seeded = false then
        s.seedCount ((s.tb.pt.total - tai2000 * 10 ^ 9) * (if s.bit .angCtrl 4 then 60 else 50) / 10 ^ 9)
      else s)

/-! Plant time. -/

/-- A PTP frame of an unsupported form (R122). -/
def State.ptpDrop (s : State) : State := { s with net := { s.net with ptpDiscard := (s.net.ptpDiscard + 1) % 2 ^ 32 } }

/-- The adjustment of the servo, in range of the signed 16-bit TB_PT_ADJ. -/
def State.servo (s : State) (offset : Int) : State :=
  let a := Config.servoAdj s.freeCtr offset (s.fld .ptCtrl 16 4) (s.fld .ptCtrl 20 4) s.tb.ptAdj
  let a := max (-32768) (min 32767 a)
  { s with tb := { s.tb with ptAdj := a, adjHist := (a :: s.tb.adjHist).take 16 } }.useFree

/-- A frame of a supported form (table PTP support, R122, R129): layer 2, peer-to-peer, no management, on ports 0 to 3. PROFILE 0 is IEC/IEEE
61850-9-3 in DOMAIN; 1 is IEEE 802.1AS in domain 0, not on an HSR ring (the codes: notes/assumptions/92.md). -/
def State.ptpSupported (s : State) (f : PtpForm) : Bool :=
  decide (f.port < 4) && f.layer2 && f.peer && !f.mgmt
    && (match s.fld .ptCtrl 0 2 with
      | 0 => f.domain == s.fld .ptCtrl 8 8
      | 1 => f.domain == 0 && !(decide (2 ≤ f.port) && s.fld .netCfg 0 2 == 0)
      | _ => false)

/-- PTP_SYNC_RX: an offset from the selected master, stamped as TB_PORT_CTRL_p has the port stamp (R122, R123, R126, R128). -/
def execPtpSyncRx (f : PtpForm) (offset : Int) (s : State) : Result :=
  .next (if s.ptpSupported f = false then s.ptpDrop
    else if s.tb.master = 255 ∨ s.fld .portCtrl 0 2 f.port = 0 then s
    else
      let software := s.fld .portCtrl 0 2 f.port == 2
      let near := decide (offset.natAbs ≤ if software then 10000 else 100)
      let bad := if s.fld .ptStepThresh 0 32 * 1000 < offset.natAbs then s.tb.ptBad + 1 else 0
      let s := { s with tb := { s.tb with ptOffset := offset, ptSw := software, ptGood := if near then s.tb.ptGood + 1 else 0,
                                          ptBad := bad } }
      if s.bit .ptCtrl 2 ∧ 3 ≤ bad then ({ s with tb := { s.tb with ptBad := 0 } }.stepPt (-offset)).setPt .acquire
      else
        let s := s.servo offset
        if 16 ≤ s.tb.ptGood then s.setPt .locked else s.setPt .acquire)

/-- The mean of the last adjustments (R125). -/
def meanAdj (l : List Int) : Int := if l = [] then 0 else l.foldl (· + ·) 0 / Int.ofNat l.length

/-- The master is gone: PT_MASTER_LOST, FREERUN at the mean adjustment (R125). -/
def State.loseMaster (s : State) : State :=
  if s.tb.master = 255 then s
  else
    let t := { s with tb := { s.tb with master := 255, ptAdj := meanAdj s.tb.adjHist, ptGood := 0, ptBad := 0,
                                        ptState := .freerun } }.record .ptMasterLost [s.tb.master]
    if s.tb.ptState = .freerun then t else t.mapRecord.raise 105

/-- PTP_ANNOUNCE_RX: selects or changes the best master, through ACQUIRE (R125). -/
def execPtpAnnounceRx (f : PtpForm) (master : Nat) (utc : Option Nat) (s : State) : Result :=
  .next (if s.ptpSupported f = false then s.ptpDrop
    else
      let s := match utc with
        | some u => s.setReg .ptUtc 0 0 (BitVec.ofNat 32 (u % 65536))
        | none => s
      if s.tb.master = master % 256 then s
      else
        let s := s.loseMaster
        { s with tb := { s.tb with master := master % 256, ptGood := 0, ptBad := 0, adjHist := [] } }.setPt .acquire)

/-- PT_MASTER_LOST: the announce timeout (R125). -/
def execPtMasterLost (s : State) : Result :=
  .next ({ s with tb := { s.tb with annTimeouts := satAt 65535 (s.tb.annTimeouts + 1) } }.loseMaster)

/-- The signed step that TB_PT_STEP_SEC and TB_PT_STEP_NS hold. -/
def State.softStep (s : State) : Int :=
  signedOf 32 (s.reg .ptStepSec).toNat * 1000000000 + Int.ofNat (s.reg .ptStepNs).toNat

/-- A write of TB_PT_STEP_GO (R126). -/
def State.writeStepGo (s : State) (q : Requester) (v : Word) : State :=
  let (t, ok) := s.writeHeld q .ptStepGo 0 0 v
  if ok then t.stepPt t.softStep else t

/-- PT_SOFT_STEP. -/
def execPtSoftStep (q : Requester) (v : Word) (s : State) : Result :=
  .next (match s.writeBarred q (RegName.ptStepGo.addr 0 0) with
    | some t => t
    | none => s.writeStepGo q v)

/-- No frame of the same launch instant and a higher traffic class stands at the head of its queue with its gate open (table Fixed
arbitration orders). -/
def State.firstOfInstant (s : State) (f : TimedFrame) : Bool :=
  (List.range 8).all fun c => decide (c ≤ f.prio) || !s.gatesOpen f.network c || (match s.headFrame f.network c with
    | some g => !g.timed || g.ptBase != f.ptBase || g.due != f.due
    | none => true)

/-- The frame at the head of its queue at its launch instant: it leaves; with its gate closed it waits, and the opening after its instant
makes it late (R130, R131, R530). -/
def State.launchHead (s : State) (f : TimedFrame) : State :=
  if s.gatesOpen f.network f.prio = false then
    { s with tb := { s.tb with frames := s.tb.frames.map fun (g : TimedFrame) => if g.id = f.id then { g with lateAtHead := true } else g } }
  else if s.firstOfInstant f = false ∨ s.frameMay f = false then s
  else (if f.lateAtHead then s.lateFrame f else s.launchFrame f false 0).settleFrames f.network f.prio

/-- FRAME_LAUNCH: the queue's head is served; the frame named leaves when it is the head and its instant has come. -/
def execFrameLaunch (id : Nat) (s : State) : Result :=
  .next (match s.tb.frames.find? fun f => f.id == id with
    | none => s
    | some g =>
      let s := s.settleFrames g.network g.prio
      match s.headFrame g.network g.prio with
      | none => s
      | some f => if f.id = id ∧ f.due ≤ s.almClock f.ptBase then s.launchHead f else s)

/-! Alarm commands. -/

/-- Due instant and period as the registers hold them (table Alarm due instant and period by base). -/
def State.almRegs (s : State) (n : Nat) (ptBase : Bool) : Nat × Nat :=
  let lo := (s.reg .almDueLo n).toNat
  let hi := (s.reg .almDueHi n).toNat
  let due := if ptBase then (hi + 2 ^ 32 * (s.reg .almDueX n).toNat) * 1000000000 + lo else lo + 2 ^ 32 * hi
  (due, (s.reg .almPerLo n).toNat + 2 ^ 32 * (s.reg .almPerHi n).toNat)

/-- Arms alarm n (R135, R138). -/
def State.armAlarm (s : State) (q : Requester) (n : Nat) : State :=
  let a := s.tb.alarms.getD n {}
  let (due, per) := s.almRegs n a.ptBase
  if (a.ptBase ∧ 999999999 < (s.reg .almDueLo n).toNat) ∨ (a.periodic ∧ per = 0) then s.refuseWrite q (RegName.almCtrl.addr n 0)
  else
    let now := s.almClock a.ptBase
    let s := { s with tb := { s.tb with alarms := updAt s.tb.alarms n fun a =>
      { a with armed := true, due := due, per := per, lastFired := none } } }
    if now < due then s
    else
      let m := if a.periodic then (now - due) / per + 1 else 1
      s.fireAlarm n m true false (m - 1)

/-- A write of TB_ALM_n_CTRL: W1C of FIRED; BASE and PERIODIC only while disarmed (table TB_ALM_n_CTRL). -/
def State.writeAlm (s : State) (q : Requester) (n : Nat) (v : Nat) : State :=
  if 32 ≤ n then s
  else
    let s := { s with tb := { s.tb with alarms := updAt s.tb.alarms n fun a => { a with fired := a.fired && !bitOf v 3 } } }
    let a := s.tb.alarms.getD n {}
    if a.armed ∧ bitOf v 0 then
      (if bitOf v 1 ≠ a.ptBase ∨ bitOf v 2 ≠ a.periodic then s.refuseWrite q (RegName.almCtrl.addr n 0) else s)
    else
      let s := { s with tb := { s.tb with alarms := updAt s.tb.alarms n fun a =>
        { a with armed := false, ptBase := bitOf v 1, periodic := bitOf v 2 } } }
      if bitOf v 0 then s.armAlarm q n else s

/-- ALARM_ARM (R135, R138). -/
def execAlarmArm (q : Requester) (n : Nat) (v : Word) (s : State) : Result :=
  .next (match s.writeBarred q (RegName.almCtrl.addr n 0) with
    | some t => t
    | none => s.writeAlm q n (v ||| 1).toNat)

/-- ALARM_DISARM. -/
def execAlarmDisarm (q : Requester) (n : Nat) (v : Word) (s : State) : Result :=
  .next (match s.writeBarred q (RegName.almCtrl.addr n 0) with
    | some t => t
    | none => s.writeAlm q n (v &&& ~~~1).toNat)

/-- ALARM_FIRE: at its due instant (R137). -/
def execAlarmFire (n : Nat) (s : State) : Result :=
  let a := s.tb.alarms.getD n {}
  .next (if a.armed ∧ a.due ≤ s.almClock a.ptBase then s.fireAlarm n 1 false false 0 else s)

/-! The calendar. -/

/-- A leap year of the Gregorian calendar, by years since 2000. -/
def leapYear (y : Nat) : Bool := y % 4 == 0 && (y % 100 != 0 || (y + 2000) % 400 == 0)

/-- Days of a month. -/
def monthDays (y m : Nat) : Nat :=
  if m = 2 then (if leapYear y then 29 else 28) else if m = 4 ∨ m = 6 ∨ m = 9 ∨ m = 11 then 30 else 31

/-- Days from 2000-01-01 to the first day of a month. -/
def daysTo (y m : Nat) : Nat :=
  (List.range y).foldl (fun n k => n + if leapYear k then 366 else 365) 0
    + (List.range (m - 1)).foldl (fun n k => n + monthDays y (k + 1)) 0

/-- Seconds since 2000-01-01 00:00:00. -/
def Cal.secs (c : Cal) : Nat := (daysTo c.year c.month + (c.day - 1)) * 86400 + c.hour * 3600 + c.min * 60 + c.sec

/-- A possible date and time (R144). -/
def Cal.ok (c : Cal) : Bool :=
  decide (c.year ≤ 199 ∧ 1 ≤ c.month ∧ c.month ≤ 12 ∧ 1 ≤ c.day ∧ c.day ≤ monthDays c.year c.month ∧ c.hour < 24 ∧ c.min < 60
    ∧ c.sec < 60)

/-- One second later; after 2199-12-31 23:59:59 the calendar stands (R140). -/
def Cal.tick (c : Cal) : Cal × Bool :=
  if c.sec < 59 then ({ c with sec := c.sec + 1 }, false)
  else if c.min < 59 then ({ c with sec := 0, min := c.min + 1 }, false)
  else if c.hour < 23 then ({ c with sec := 0, min := 0, hour := c.hour + 1 }, false)
  else if c.day < monthDays c.year c.month then ({ c with sec := 0, min := 0, hour := 0, day := c.day + 1 }, false)
  else if c.month < 12 then ({ c with sec := 0, min := 0, hour := 0, day := 1, month := c.month + 1 }, false)
  else if c.year < 199 then ({ c with sec := 0, min := 0, hour := 0, day := 1, month := 1, year := c.year + 1 }, false)
  else (c, true)

/-- RTC_CAL_TIME. -/
def Cal.timeWord (c : Cal) : Nat := c.sec + 256 * c.min + 65536 * c.hour

/-- Day of the week, 0 for Monday: 2000-01-01 was a Saturday. -/
def Cal.wday (c : Cal) : Nat := (daysTo c.year c.month + (c.day - 1) + 5) % 7

/-- RTC_CAL_DATE. -/
def Cal.dateWord (c : Cal) : Nat := c.day + 256 * c.month + 65536 * c.year + 2 ^ 24 * c.wday

/-- Date and time of two words. -/
def calOf (date time : Nat) : Cal :=
  { year := bitsOf date 16 8, month := bitsOf date 8 4, day := bitsOf date 0 5, hour := bitsOf time 16 5, min := bitsOf time 8 6,
    sec := bitsOf time 0 6 }

/-- The first due instant of the calendar alarm (RTC_ALM_TIME, RTC_ALM_DATE). -/
def State.calDue0 (s : State) : Nat := (calOf (s.reg .rtcAlmDate).toNat (s.reg .rtcAlmTime).toNat).secs

/-- The due instant of the armed calendar alarm: daily repeat goes on a day after each firing (RTC_CTRL). -/
def State.calDue (s : State) : Option Nat :=
  if s.bit .rtcCtrl 0 = false then none
  else match s.rtc.almFired with
    | none => some s.calDue0
    | some x => if s.bit .rtcCtrl 1 then some (x + 86400) else none

/-- The calendar alarm fires for a due instant: event source 106, and a wake out of COCOON (R610). -/
def State.fireCal (s : State) (due : Nat) : State :=
  ({ s with rtc := { s.rtc with almFired := some due } }.raise 106).wakeCocoon 0

/-- The calendar alarm is armed, firing once for every due instant already passed (R135). -/
def State.armCal (s : State) : State :=
  let s := { s with rtc := { s.rtc with almFired := none } }
  let now := s.rtc.cal.secs
  if s.calDue0 ≤ now then s.fireCal (s.calDue0 + if s.bit .rtcCtrl 1 then (now - s.calDue0) / 86400 * 86400 else 0) else s

/-- The calendar steps to a new date and time: a due instant strictly between fires (R133). -/
def State.stepCal (s : State) (c : Cal) : State :=
  let old := s.rtc.cal.secs
  let s := { s with rtc := { s.rtc with cal := c } }
  match s.calDue with
  | some d =>
    if old < d ∧ d < c.secs then s.fireCal (d + if s.bit .rtcCtrl 1 then (c.secs - 1 - d) / 86400 * 86400 else 0) else s
  | none => s

/-- A field of a word where the new value lies in its range, else of the old one (R19). -/
def rangedField (lo n low high old new : Nat) : Nat :=
  if low ≤ bitsOf new lo n ∧ bitsOf new lo n ≤ high then bitsOf new lo n else bitsOf old lo n

/-- Every field of a date word lies in its range: DAY 1 to 31, MONTH 1 to 12, YEAR 0 to 199. -/
def dateFieldsOk (v : Nat) : Bool :=
  decide (1 ≤ bitsOf v 0 5) && decide (1 ≤ bitsOf v 8 4 ∧ bitsOf v 8 4 ≤ 12) && decide (bitsOf v 16 8 ≤ 199)

/-- A write of RTC_CAL_DATE (R143): a field outside its range keeps what stands staged, or the current date, as WRITE_REFUSED (R19). -/
def State.writeCalDate (s : State) (q : Requester) (v : Word) : State :=
  let old := (s.rtc.staged.getD (BitVec.ofNat 32 s.rtc.cal.dateWord)).toNat
  let new := rangedField 0 5 1 31 old v.toNat + 256 * rangedField 8 4 1 12 old v.toNat + 65536 * rangedField 16 8 0 199 old v.toNat
  let t := { s with rtc := { s.rtc with staged := some (BitVec.ofNat 32 new) } }
  if dateFieldsOk v.toNat then t else t.refuseWrite q (RegName.calDate.addr 0 0)

/-- A write of RTC_CAL_TIME (R143, R144): an impossible date or time changes nothing; the prescaler starts again; RANGE_END ends with the
commit (notes/assumptions/80.md). -/
def State.writeCalTime (s : State) (q : Requester) (v : Word) : State :=
  let c := calOf (match s.rtc.staged with
    | some d => d.toNat
    | none => s.rtc.cal.dateWord) v.toNat
  if c.ok then
    let t := s.stepCal c
    { t with rtc := { t.rtc with staged := none, osf := false, rangeEnd := false, tickFrom := some s.tb.csr } }
  else s.refuseWrite q (RegName.calTime.addr 0 0)

/-- CAL_DATE_STAGE. -/
def execCalDateStage (q : Requester) (v : Word) (s : State) : Result :=
  .next (match s.writeBarred q (RegName.calDate.addr 0 0) with
    | some t => t
    | none => s.writeCalDate q v)

/-- CAL_COMMIT. -/
def execCalCommit (q : Requester) (v : Word) (s : State) : Result :=
  .next (match s.writeBarred q (RegName.calTime.addr 0 0) with
    | some t => t
    | none => s.writeCalTime q v)

/-- Counts of the time base in a second. -/
def csrPerSec : Nat := 100000000

/-- The prescaler's next second is not over: it started again at the last commit (R143). -/
def State.tickEarly (s : State) : Bool := match s.rtc.tickFrom with
  | some t => decide (s.tb.csr < t + csrPerSec)
  | none => false

/-- CAL_TICK (R139, R140): the first tick after a commit comes 1 s after it (R143, notes/assumptions/82.md). -/
def execCalTick (s : State) : Result :=
  let (c, fin) := s.rtc.cal.tick
  .next (if s.tickEarly then s else { s with rtc := { s.rtc with cal := c, rangeEnd := s.rtc.rangeEnd || fin, tickFrom := none } })

/-- RTC_TRIM_UPDATE: the factory curve at the measured temperature and USER_TRIM (R139). -/
def execRtcTrimUpdate (temp : Nat) (s : State) : Result :=
  let user := signedOf 8 (s.fld .rtcTrim 16 8)
  .next { s with rtc := { s.rtc with temp := temp, trim := unsignedOf 16 (Config.rtcTrim temp + 10 * user) } }

/-- BACKUP_MEASURE: every measurement that projects too little is recorded (R147). -/
def execBackupMeasure (volt : Nat) (weak : Bool) (s : State) : Result :=
  let s := { s with rtc := { s.rtc with backupVolt := volt % 4096, backupWeak := weak } }
  .next (if weak then (s.record .backupWeak [volt]).raise 106 else s)

/-- BACKUP_SWITCHOVER: feeds and bank are gone, PD0 alone runs on (R146); the lease logic no longer toggles the fence. -/
def execBackupSwitchover (s : State) : Result :=
  .next (if s.pwr.feedAOk ∨ s.pwr.feedBOk then s
    else { s with pwr := { s.pwr with onBackup := true }, rtc := { s.rtc with onBackupSeen := true },
                  sys := { s.sys with domains := 1 }, wb := { s.wb with wdAlive := false, fenced := true } })

/-- PD0 lost its supply and starts again: every clock, the calendar and the registers of PD0 as at power-on, plant time UNSET (R102, R124,
R149, R150); its restart cause is power-on. -/
def State.pd0Start (s : State) : State :=
  { s with tb := {}, rtc := {}, regs := s.regs.filter (fun p => !keptReg p.1), sys := { s.sys with resetCause := 1, wdCount := 0 } }

/-- RTC_LOST (R148 to R150): OSF; after retention loss PD0 has started afresh. RTC_LOST is recorded, now or once the recorder has its
domain. -/
def execRtcLost (retention : Bool) (s : State) : Result :=
  let s := if retention then s.pd0Start else s
  let s := { s with rtc := { s.rtc with osf := true, lostPend := some retention } }
  .next (if s.log.taking ∧ s.powered 1 then s.tellRtcLost else s)

/-- CALENDAR_ALARM: at its due instant, once in its arming (R134). -/
def execCalendarAlarm (s : State) : Result :=
  .next (match s.calDue with
    | some d => if d ≤ s.rtc.cal.secs then s.fireCal d else s
    | none => s)

end Sys2Proof.Machine
end

