-- ==== Sys2Proof/Machine/Comms.lean ====
section
/-! DEFINITION. CAN ports and the plant network (13_can_and_plant_network.md, R510 to R536). -/

namespace Sys2Proof.Machine

/-! CAN ports. -/

/-- CAN port p. -/
def State.canPort (s : State) (p : Nat) : CanPort := s.can.ports.getD p {}

/-- The state with CAN port p changed. -/
def State.setCanPort (s : State) (p : Nat) (f : CanPort → CanPort) : State :=
  { s with can := { s.can with ports := updAt s.can.ports p f } }

/-- Port p takes part in the bus or listens: EN set, PD6 on, not in low power, not off the bus. -/
def State.canLive (s : State) (p : Nat) : Bool :=
  s.bit .canCtrl 0 p && s.powered 6 && s.unitUp 25 && !(s.canPort p).sleep && !(s.canPort p).busOff

/-- The transmitter of port p is enabled (R515). -/
def State.canTx (s : State) (p : Nat) : Bool := s.canLive p && s.rightful

/-- Port p is named in CAN_PORTS of the committed set. -/
def State.canProt (s : State) (p : Nat) : Bool := match s.prot.set with
  | some x => bitOf x.canPorts p
  | none => false

/-- A module without the lease sends protection frames itself: PD1 off, or no HEARTBEAT of the last 1 ms shows the partner
holding it (R458). -/
def State.protSelf (s : State) : Bool :=
  let p := s.wb.partner
  !s.holds && (!s.powered 1 || !p.heard || decide (p.heardAt + 100000 < s.tb.csr) || !(p.hb.lease == .held || p.hb.lease == .consent))

/-- TX_STATE of CAN_p_STATUS. -/
def State.canTxState (s : State) (p : Nat) : Nat :=
  let x := s.canPort p
  if x.busOff then 2 else if x.sleep then 3
  else if s.canTx p || (s.canLive p && s.canProt p && s.protSelf) then 1 else 0

/-- An angle stamp of a start-of-frame stamp by the newest mapping (R514). -/
def State.canAngle (s : State) (stamp : Nat) : Nat :=
  let a := s.tb.anchor
  let dt := (stamp + 2 ^ 32 - a.canCnt) % 2 ^ 32 * 25
  if a.period = 0 then a.ang else a.ang + dt * 2 ^ 40 / a.period

/-! Signals. -/

/-- Bits of a little-endian signal in its data: bit i is bit i % 8 of byte i / 8. -/
def leBits (data : List Byte) (start bits : Nat) : Nat := bitsOf (leNat data) start bits

/-- Bits of a big-endian signal: bit 0 is the highest bit of byte 0, and the first bit is the signal's highest. -/
def beBits (data : List Byte) (start bits : Nat) : Nat := bitsOf (leNat data.reverse) (8 * data.length - start - bits) bits

/-- The value a received signal carries: raw × SCALE + OFFSET (table Signal map entry). -/
def sigValue (g : Signal) (data : List Byte) : F32 :=
  let raw := if g.bigEndian then beBits data g.start g.bits else leBits data g.start g.bits
  let x : F32 := if g.form = 2 then BitVec.ofNat 32 raw else if g.form = 1 then fofInt (signedOf g.bits raw) else fofInt raw
  fadd (fmul x g.scale) g.offset

/-- A loop input takes a value with its stamp. -/
def State.setInput (s : State) (cls idx : Nat) (v : F32) (stamp : Nat) (valid : Bool) : State :=
  { s with loop := { s.loop with inputs := assocSet s.loop.inputs (cls, idx) ⟨v, stamp, valid⟩ } }

/-- A loop input that an item gives waits for the bundle that names the item (R350, R352). -/
def State.arrive (s : State) (e : ManEntry) (content : List Byte) (cls idx : Nat) (v : F32) (stamp : Nat) : State :=
  { s with loop := { s.loop with arrived := newest 4096 (s.loop.arrived ++ [⟨e, content, cls, idx, ⟨v, stamp, true⟩⟩]) } }

/-- Number and value of each received signal that a frame carries (R519). -/
def frameSignals (port id : Nat) (ide : Bool) (data : List Byte) (gs : List Signal) : List (Nat × F32) :=
  (numbered 0 gs).filterMap fun x =>
    if !x.2.transmit && x.2.port == port && x.2.id == id && x.2.ide == ide && decide (x.2.start + x.2.bits ≤ 8 * data.length) then
      some (x.1, sigValue x.2 data)
    else none

/-- The raw bits of a value sent: (value - OFFSET) / SCALE; one that does not fit is a value the spec does not state. -/
def sigRaw (g : Signal) (v : F32) : Option Nat :=
  let x := fdiv (fsub v g.offset) g.scale
  if g.form = 2 then some (x.toNat % 2 ^ g.bits)
  else match (b32.dec x.toNat).toInt with
    | none => none
    | some i =>
      if g.form = 1 then (if -(2 ^ (g.bits - 1) : Nat) ≤ i ∧ i < (2 ^ (g.bits - 1) : Nat) then some (unsignedOf g.bits i) else none)
      else if 0 ≤ i ∧ i < (2 ^ g.bits : Nat) then some i.toNat else none

/-- Transmit signal `i` takes a value. -/
def State.setSignal (s : State) (i : Nat) (v : F32) : State :=
  match s.cfg.signals[i]? with
  | none => s
  | some g =>
    match sigRaw g v with
    | some r => { s with can := { s.can with sigs := assocSet s.can.sigs i r } }
    | none => { s with can := { s.can with sigs := assocSet s.can.sigs i (Config.free s.freeCtr % 2 ^ g.bits) } }.useFree

/-- Transmit signals of one identifier with their numbers. -/
def framedSignals (port id : Nat) (ide : Bool) : Nat → List Signal → List (Nat × Signal)
  | _, [] => []
  | i, g :: gs =>
    let rest := framedSignals port id ide (i + 1) gs
    if g.transmit && g.port == port && g.id == id && g.ide == ide then (i, g) :: rest else rest

/-- The data of a frame from its signals' raw bits; bits no signal covers are 0 (R519). -/
def packSignals (raw : List (Nat × Nat)) (l : List (Nat × Signal)) : List Byte :=
  let len := l.foldl (fun n g => max n ((g.2.start + g.2.bits + 7) / 8)) 0
  let le := l.foldl (fun n g => if g.2.bigEndian then n else n ||| ((assocGet raw g.1).getD 0 * 2 ^ g.2.start)) 0
  let be := l.foldl (fun n g =>
    if g.2.bigEndian then n ||| ((assocGet raw g.1).getD 0 * 2 ^ (8 * len - g.2.start - g.2.bits)) else n) 0
  List.zipWith (fun a b => a ||| b) (leBytes len le) (leBytes len be).reverse

/-! Transmit buffers. -/

/-- Order of arbitration fields: the 11 leading bits, then a base before an extended identifier, then the rest. -/
def arbKey (f : CanFrame) : Nat := if f.ide then f.id / 2 ^ 18 * 2 ^ 19 + 2 ^ 18 + f.id % 2 ^ 18 else f.id * 2 ^ 19

/-- The buffer offered to the bus first (R511). -/
def headBuf : List TxBuf → Option TxBuf
  | [] => none
  | b :: bs =>
    match headBuf bs with
    | none => some b
    | some c => if arbKey b.f < arbKey c.f ∨ (arbKey b.f = arbKey c.f ∧ b.seq ≤ c.seq) then some b else some c

/-- A frame enters a transmit buffer: the newest frame of a signal's identifier replaces the older one (R516, R519). -/
def State.postCan (s : State) (port : Nat) (f : CanFrame) (oneShot : Bool) (work : Option WorkRef) : State :=
  let b : TxBuf := ⟨f, oneShot, work, s.can.posted⟩
  let s := { s with can := { s.can with posted := s.can.posted + 1 } }
  s.setCanPort port fun p =>
    { p with bufs := (p.bufs.filter fun c => !(work.isNone && c.work.isNone && c.f.id == f.id && c.f.ide == f.ide)) ++ [b] }

/-- The frame of a signal's identifier is built; the follower enters it into the comparison and does not send it (R517, R519). -/
def State.sendSignals (s : State) (i : Nat) : State :=
  match s.cfg.signals[i]? with
  | none => s
  | some g =>
    let data := packSignals s.can.sigs (framedSignals g.port g.id g.ide 0 s.cfg.signals)
    let f : CanFrame := { id := g.id, ide := g.ide, fmt := if data.length ≤ 8 then 1 else if data.length ≤ 64 then 2 else 3, data := data }
    let s := { s with can := { s.can with built := s.can.built ++ [(g.port, f)] } }
    if s.authoritative then s.postCan g.port f false none else s

/-- The new holder sends first the frames of the cycle it is running (R517). -/
def State.postBuilt (s : State) : State := s.can.built.foldl (fun s f => s.postCan f.1 f.2 false none) s

/-! Reception. -/

/-- The lowest-numbered filter a frame matches (R510). -/
def matchFilter (fs : List (Nat × CanFilter)) (f : CanFrame) : Option (Nat × CanFilter) :=
  (fs.filter fun x => x.2.ide == f.ide && x.2.id &&& x.2.mask == f.id &&& x.2.mask).foldl
    (fun m x => match m with
      | some y => if x.1 < y.1 then some x else some y
      | none => some x) none

/-- The packet body of a received frame (table CAN receive packet body). -/
def canBody (port stamp filter : Nat) (f : CanFrame) : List Byte :=
  let xl := f.fmt == 3
  leBytes 4 stamp ++ leBytes 4 (f.id % 2 ^ 29 + 2 ^ 29 * ofBool f.ide + 2 ^ 30 * ofBool f.brs + 2 ^ 31 * ofBool f.esi)
    ++ leBytes 2 f.data.length ++ leBytes 1 filter ++ leBytes 1 port ++ leBytes 1 (if xl then f.sdt else 0)
    ++ leBytes 1 (if xl then f.vcid else 0) ++ leBytes 2 0 ++ leBytes 4 (if xl then f.af else 0)
    ++ f.data ++ List.replicate ((4 - f.data.length % 4) % 4) 0

/-- Data of the packet body of a frame. -/
def bodyData (b : List Byte) : List Byte := (b.drop 20).take (leField b 8 2)

/-- Two entries name one CAN frame, each by its own module: of one port and queue, with equal data, at stamps at most 50 µs apart (R518). -/
def State.sameCan (s : State) (own e : ManEntry) : Bool :=
  own.kind == 2 && e.kind == 2 && own.b1 == e.b1 && own.b2 == e.b2 && own.b8 == e.b8
    && decide (countsNs (Int.ofNat (s.canAngle own.b4) - Int.ofNat (s.canAngle e.b4)).natAbs s.tb.freq ≤ 50000)

/-- The entry of a CAN frame received: port, queue, stamp, packet body. -/
def canEntry (x : Nat × Nat × Nat × List Byte) : ManEntry := ⟨2, x.1, x.2.1, x.2.2.1, crc32 (bodyData x.2.2.2)⟩

/-- CAN_RX (R510 to R513, R519). -/
def execCanRx (port : Nat) (f : CanFrame) (s : State) : Result :=
  .next (if !s.canLive port then s
    else if f.remote then s.setCanPort port fun p => { p with remotes := (p.remotes + 1) % 65536 }
    else
      let stamp := s.can.counter
      let hit := matchFilter (s.canPort port).filters f
      let queue := (hit.map (·.2.queue)).getD 0
      let body := canBody port stamp ((hit.map (·.1)).getD 0) f
      let s := (frameSignals port f.id f.ide f.data s.cfg.signals).foldl (fun s x =>
        s.arrive (canEntry (port, queue, stamp, body)) body 5 x.1 x.2 (s.canAngle stamp)) s
      match hit with
      | none => s
      | some (_, x) =>
        let q := s.queue x.queue
        if q.kind ∧ q.enable ∧ q.roomFor (1 + body.length / 4) then
          let s := (s.pushPacket x.queue f.fmt false body).setCanPort port fun p => { p with overrunOnset := false }
          { s with can := { s.can with unused := s.can.unused ++ [(port, queue, stamp, body)] } }
        else
          let onset := !(s.canPort port).overrunOnset
          let s := s.setCanPort port fun p => { p with rxOverrun := true, overrunOnset := true, overruns := (p.overruns + 1) % 65536 }
          if onset then s.record .canRxOverrun [port, x.queue] else s)

/-- Completes the descriptor of a buffer. -/
def State.finishBuf (s : State) (b : TxBuf) (status result : Nat) : State :=
  match b.work.bind s.opOf with
  | some op => s.finish op status result
  | none => s

/-- The transmit error count after an attempt: 8 more for an error, 1 less for a frame sent, as ISO 11898-1 has it; from 128 on the port is
error-passive (R522, notes/assumptions/74.md). -/
def State.countTx (s : State) (port : Nat) (sent err : Bool) : State :=
  s.setCanPort port fun p =>
    let n := if sent then p.tec - 1 else if err then p.tec + 8 else p.tec
    { p with tec := n, errPassive := decide (128 ≤ n ∨ 128 ≤ p.recErr) }

/-- CAN_TX_COMPLETE: the frame at the head is sent, or it lost arbitration or met an error: then a ONE_SHOT frame ends with CAN_NOT_SENT and
any other is tried again (R511, R522, R524). -/
def execCanTxComplete (port : Nat) (sent err : Bool) (s : State) : Result :=
  .next (if !s.canTx port then s
    else match headBuf (s.canPort port).bufs with
      | none => s
      | some b =>
        let drop (s : State) : State := s.setCanPort port fun p => { p with bufs := p.bufs.filter fun c => decide (c.seq ≠ b.seq) }
        let s := s.countTx port sent err
        if sent then ((drop s).emit (.can port b.f)).finishBuf b stOk s.can.counter
        else if b.oneShot then (drop s).finishBuf b 0x0901 0
        else s)

/-- CAN_BUS_OFF (R522). -/
def execCanBusOff (port : Nat) (s : State) : Result :=
  .next (if s.canLive port then
    ((s.setCanPort port fun p => { p with busOff := true, recovering := false, busOffSeen := true, tec := 255 }).record .canBusOff
      [port]).raise (92 + port)
  else s)

/-- A port in bus-off begins its recovery (R523). -/
def State.startRecovery (s : State) (port : Nat) : State :=
  s.setCanPort port fun p => { p with recovering := p.recovering || p.busOff }

/-- A write of CAN_p_CTRL: the port's settings under lock, SLEEP unless a protection set names the port (R520), RECOVER (R523). -/
def State.writeCanCtrl (s : State) (q : Requester) (p : Nat) (v : Word) : State :=
  let want := bitOf v.toNat 3
  let refused := want && s.canProt p
  let v' := setField v 3 1 (ofBool (if refused then (s.canPort p).sleep else want))
  let (t, ok) := s.writeHeld q .canCtrl p 0 v'
  if !ok then t
  else
    let t := t.setCanPort p fun x => { x with sleep := bitOf v'.toNat 3 }
    let t := if bitOf v.toNat 4 then t.startRecovery p else t
    if refused then t.refuseWrite q (RegName.canCtrl.addr p 0) else t

/-- CAN_RECOVER_WRITE. -/
def execCanRecoverWrite (q : Requester) (port : Nat) (v : Word) (s : State) : Result :=
  .next (match s.writeBarred q (RegName.canCtrl.addr port 0) with
    | some t => t
    | none => s.writeCanCtrl q port (v ||| 0x10))

/-- CAN_SLEEP. -/
def execCanSleep (q : Requester) (port : Nat) (v : Word) (s : State) : Result :=
  .next (match s.writeBarred q (RegName.canCtrl.addr port 0) with
    | some t => t
    | none => s.writeCanCtrl q port (v ||| 0x8))

/-- CAN_RECOVER (R523). -/
def execCanRecover (w : WorkRef) (s : State) : Result :=
  .next (s.engineOp w 3 0x11 fun op s =>
    let p := dInline op.bytes 0 1
    if 4 ≤ p ∨ s.bit .canCtrl 0 p = false then s.finish op 0x0900 1 else (s.startRecovery p).finish op stOk 0)

/-- CAN_RECOVERY_DONE: not without the lease (R523). -/
def execCanRecoveryDone (port : Nat) (s : State) : Result :=
  .next (if (s.canPort port).busOff ∧ (s.canPort port).recovering ∧ s.holds then
    s.setCanPort port fun p => { p with busOff := false, recovering := false, tec := 0, recErr := 0, errPassive := false }
  else s)

/-- CAN_WAKE (R521). -/
def execCanWake (port : Nat) (s : State) : Result :=
  .next (if (s.canPort port).sleep = false ∨ s.powered 6 = false then s
    else
      let s := (s.setCanPort port fun p => { p with sleep := false, wakeSeen := true }).setFld .canCtrl port 3 1 0
      let s := (s.record .canWake [port]).raise (92 + port)
      if s.bit .canCtrl 6 port then s.wakeCocoon 0 else s)

/-- The format and length a descriptor asks for are enabled on the port (table CAN support, R524). -/
def State.canFormOk (s : State) (p type len id : Nat) (ide : Bool) : Bool :=
  match type with
  | 1 => decide (len ≤ 8) && (ide || decide (id < 2048))
  | 2 => s.bit .canCtrl 1 p && (decide (len ≤ 8) || [12, 16, 20, 24, 32, 48, 64].contains len) && (ide || decide (id < 2048))
  | 3 => s.bit .canCtrl 2 p && decide (1 ≤ len ∧ len ≤ 2048) && !ide && decide (id < 2048)
  | _ => false

/-- CAN_SEND: a frame into one of the port's 32 transmit buffers (R524). -/
def execCanSend (w : WorkRef) (s : State) : Result :=
  .next (s.engineOp w 3 0x10 fun op s =>
    let b := op.bytes
    let p := dInline b 4 1
    let id := dInline b 0 4 % 2 ^ 29
    let ide := bitOf (dInline b 0 4) 29
    let type := dInline b 5 1
    if op.started then s
    else if 4 ≤ p ∨ s.bit .canCtrl 0 p = false ∨ s.powered 6 = false then s.finish op 0x0900 1
    else if s.canFormOk p type (dLength b) id ide = false then s.finish op 0x0900 2
    else if (s.canPort p).busOff then s.finish op 0x0900 3
    else if 32 ≤ (s.canPort p).bufs.length then s
    else
      let f : CanFrame := { id := id, ide := ide, fmt := type, brs := bitOf (dInline b 0 4) 30, data := s.buffer op }
      (s.setOp w fun o => { o with started := true }).postCan p f (bitOf (dInline b 6 1) 0) (some w))

/-- CAN_FILTER: a filter record; bytes 0 to 3 identifier with IDE in bit 29, 4 to 7 mask, 8 to 9 word queue (notes/assumptions/16.md). -/
def execCanFilter (w : WorkRef) (s : State) : Result :=
  .next (s.engineOp w 3 0x12 fun op s =>
    let p := dInline op.bytes 0 1
    let i := dInline op.bytes 1 1
    let r := s.buffer op
    if 4 ≤ p then s.finish op 0x0900 1
    else if 64 ≤ i ∨ dLength op.bytes ≠ 16 then s.finish op 0x0900 2
    else
      let x : CanFilter := ⟨leField r 0 4 % 2 ^ 29, leField r 4 4 % 2 ^ 29, bitOf (leField r 0 4) 29, leField r 8 2 % 256⟩
      (s.setCanPort p fun c => { c with filters := assocSet c.filters i x }).finish op stOk 0)

/-! The plant network. -/

/-- The state with network port p changed. -/
def State.setNetPort (s : State) (p : Nat) (f : NetPort → NetPort) : State :=
  { s with net := { s.net with ports := updAt s.net.ports p f } }

/-- Port p is in use: ports 2 and 3 only where NET_CFG.P23_MODE gives them a network (table Network port roles). -/
def State.netPortUsed (s : State) (p : Nat) : Bool := s.linksOn && s.unitUp (16 + p) && (decide (p < 2) || s.fld .netCfg 0 2 != 2)

/-- A network has a port in use: with one LAN of a PRP pair lost the other carries on (R52). -/
def State.netOn (s : State) (n : Nat) : Bool := s.netPortUsed (2 * n) || s.netPortUsed (2 * n + 1)

/-- Port p has its link; in COCOON only the kept port (R609). -/
def State.netUp (s : State) (p : Nat) : Bool :=
  s.netPortUsed p && (s.net.ports.getD p {}).link && (s.sys.mode != .cocoon || s.sys.cocoonWoke || s.fld .sysCocoon 0 2 == p)

/-- NET_SEND: a frame into the queue of its class on its network; a TIMED frame waits for its instant (R130, R528, R536). -/
def execNetSend (w : WorkRef) (s : State) : Result :=
  .next (match s.frameOp w with
    | none => s
    | some op =>
      let b := op.bytes
      let n := dInline b 0 1
      let cls := dInline b 1 1
      if op.engine ≠ 5 ∨ dOpcode b ≠ 0x10 ∨ op.started ∨ op.shadow ∨ s.mayServe op = false then s
      else if 2 ≤ n ∨ s.netOn n = false then s.finish { op with late := false } 0x0A00 1
      else if dLength b < 60 ∨ 1514 < dLength b ∨ 8 ≤ cls then s.finish { op with late := false } 0x0A00 2
      else if (dTimed b ∧ op.waitTime) ∨ (s.headFrame n cls).isSome ∨ s.gatesOpen n cls = false then
        let f : TimedFrame := { id := s.tb.nextFrame, work := some w, ring := op.ring, network := n, prio := cls,
                                timed := dTimed b && op.waitTime, ptBase := dPtBase b, due := dTime b, latePolicy := dLatePolicy b,
                                bytes := s.buffer op }
        ({ s with tb := { s.tb with frames := s.tb.frames ++ [f], nextFrame := s.tb.nextFrame + 1 } }.setOp w
          fun o => { o with started := true }).settleFrames n cls
      else (s.emit (.net n cls (.raw (s.buffer op)))).finish op stOk 0)

/-- Entries of a gate list: gate mask and interval in nanoseconds (notes/assumptions/16.md). -/
def gateEntries : Nat → List Byte → List (Nat × Nat)
  | 0, _ => []
  | k + 1, l => (leField l 0 1, leField l 4 4) :: gateEntries k (l.drop 8)

/-- GATE_LOAD: a valid list becomes the pending one (R529, R536). -/
def execGateLoad (w : WorkRef) (s : State) : Result :=
  .next (s.engineOp w 5 0x11 fun op s =>
    let p := dInline op.bytes 0 1
    let b := s.buffer op
    let k := (dLength op.bytes - 16) / 8
    let es := gateEntries k (b.drop 16)
    let kind := leField b 12 1
    if 4 ≤ p ∨ s.netPortUsed p = false then s.finish op 0x0A00 1
    else if dLength op.bytes ≠ 16 + 8 * k then s.finish op 0x0A00 2
    else if k = 0 ∨ 64 < k ∨ 1 < kind ∨ (kind = 1 ∧ 1000000000 ≤ leField b 0 4)
        ∨ es.any (fun e => decide (e.2 < 1000 ∨ 1000000000 < e.2)) then s.finish op 0x0A00 3
    else
      let g := s.gateFrom { ptBase := kind == 1, base := if kind = 1 then ptField b 0 else leField b 0 8, entries := es }
      (s.setNetPort p fun x => { x with newGate := some g }).finish op stOk 0)

/-- GATE_LIST_SWITCH: at the first start of the new list's cycle at or after its base time (R529). -/
def execGateListSwitch (port : Nat) (s : State) : Result :=
  .next (match (s.net.ports.getD port {}).newGate with
    | some g => if g.base ≤ s.almClock g.ptBase ∧ g.start ≤ s.gateNs g then s.setNetPort port fun x => { x with gate := some g, newGate := none } else s
    | none => s)

/-- NET_PORT_DOWN (R527). -/
def execNetPortDown (port : Nat) (s : State) : Result :=
  .next (if (s.net.ports.getD port {}).link then
    ((s.setNetPort port fun x => { x with link := false, downSeen := true }).record .netPortDown [port]).raise (96 + port)
  else s)

/-- NET_PORT_UP: with a fitting SFP+ module in a port in use (R525, R527). -/
def execNetPortUp (port : Nat) (tenGig : Bool) (s : State) : Result :=
  .next (if s.netPortUsed port then
    s.setNetPort port fun x => { x with link := true, tenGig := tenGig, modPresent := true, modRefused := false }
  else s)

/-- NET_MODULE_REFUSED (R525). -/
def execNetModuleRefused (port : Nat) (s : State) : Result :=
  .next ((s.setNetPort port fun x => { x with link := false, modPresent := true, modRefused := true }).record .netModuleRefused [port])

/-- The supervision frames of each network in use (R526). -/
def State.supervise (s : State) : State :=
  let s := if s.netOn 0 then s.emit (.net 0 7 (.supervision false)) else s
  if s.netOn 1 then s.emit (.net 1 7 (.supervision (s.fld .netCfg 0 2 == 0))) else s

/-- SUPERVISION_TX: every 2,000 ms on each network (R526). -/
def execSupervisionTx (s : State) : Result :=
  .next (if s.net.supAt.any fun t => decide (s.tb.csr < t + usTicks 2000000) then s
    else { s.supervise with net := { s.supervise.net with supAt := some s.tb.csr } })

/-- HSR_FRAME_RX: a duplicate is discarded, the module's own frame removed, any other forwarded to the other ring port unless it is for this
module alone (R526). -/
def execHsrFrameRx (port src _dst id : Nat) (forUs multicast : Bool) (frame : List Byte) (s : State) : Result :=
  .next (if s.netUp port = false ∨ s.fld .netCfg 0 2 ≠ 0 ∨ (port ≠ 2 ∧ port ≠ 3) then s
    else if src = s.net.mac then s
    else if s.net.hsrSeen.contains (src, id) then s.setNetPort port fun x => { x with dups := (x.dups + 1) % 65536 }
    else
      let s := { s with net := { s.net with hsrSeen := ((src, id) :: s.net.hsrSeen).take 1024 } }
      if (forUs ∧ multicast = false) ∨ s.netUp (5 - port) = false then s else s.emit (.net 1 0 (.raw frame)))

/-- The instant of a sample: smpCnt samples into the plant-time second nearest to the present (R100, notes/assumptions/90.md). -/
def State.sampleInstant (s : State) (smpCnt : Nat) (per256 : Bool) : Nat :=
  let t := s.tb.pt.sec * 10 ^ 9 + smpCnt * 10 ^ 9 / ((if per256 then 256 else 80) * (if s.bit .angCtrl 4 then 60 else 50))
  if s.tb.pt.total + 5 * 10 ^ 8 < t then t - 10 ^ 9 else if t + 5 * 10 ^ 8 < s.tb.pt.total then t + 10 ^ 9 else t

/-- SV_SAMPLE_RX: another dataset is refused; a sample of invalid quality or without global synchronisation is not accepted and loses the
source at once; another one has its instant (R100, R103). -/
def execSvSampleRx (datasetOk qualityOk globalSync : Bool) (smpCnt : Nat) (per256 : Bool) (s : State) : Result :=
  .next (if datasetOk = false then s.record .svRefused [ofBool qualityOk, ofBool globalSync]
    else if qualityOk && globalSync then { s with tb := { s.tb with svAt := some (s.sampleInstant smpCnt per256) } }
    else
      let t := { s with tb := { s.tb with svAt := none } }
      if t.tb.angSrc = 1 then t.loseSource else t)

/-- MGMT_OPEN: at most 8 sessions, from BOOT on (R534, R535). -/
def execMgmtOpen (authOk : Bool) (s : State) : Result :=
  .next (if authOk ∧ s.net.sessions < 8 ∧ s.sys.mode ≠ .inserted then
    { s with net := { s.net with sessions := s.net.sessions + 1 } }.record .mgmtOpen [s.net.sessions + 1] else s)

/-- MGMT_CLOSE. -/
def execMgmtClose (s : State) : Result :=
  .next (if s.net.sessions = 0 then s
    else { s with net := { s.net with sessions := s.net.sessions - 1 } }.record .mgmtClose [s.net.sessions - 1])

/-- SVC_LINK_CHANGE: event source 100; from BOOT on (R535). -/
def execSvcLinkChange (up : Bool) (s : State) : Result :=
  .next (if s.sys.mode = .inserted ∨ s.net.svcLink = up then s else { s with net := { s.net with svcLink := up } }.raise 100)

/-- WAKE_FRAME_RX (R610). -/
def execWakeFrameRx (etype w0 w1 : Nat) (s : State) : Result :=
  .next (if etype = s.fld .netCfg 16 16 ∧ w0 = 0xC0C0 ∧ w1 = s.pairId then s.wakeCocoon 0 else s)

end Sys2Proof.Machine
end

