-- ==== Sys2Proof/Machine/Power.lean ====
section
/-! DEFINITION. Feeds, hold-up bank, power loss, insertion and extraction (02_module_power_and_insertion.md, R69 to R96). -/

namespace Sys2Proof.Machine

/-! Hold-up bank. -/

/-- Modes in which a failing bank counts as a lost unit (R82). -/
def holdupModes (m : Mode) : Bool := m == .standby || m == .active || m == .solo

/-- HOLDUP_OK takes a value (R79, R82); event source 107 at a change. -/
def State.setHoldup (s : State) (ok : Bool) : State :=
  if s.pwr.holdupOk = ok then s
  else
    let s := { s with pwr := { s.pwr with holdupOk := ok } }.raise 107
    if ok then (if bitOf s.sys.unitHealth 22 then (s.clearUnit 22).record .holdupRestored else s)
    else if holdupModes s.sys.mode then (s.record .holdupLost [s.pwr.bankVolt, s.pwr.bankCap]).loseUnit 22 else s

/-- HOLDUP_OK judged on the bank's voltage and its last measured capacitance (R79). -/
def State.judgeHoldup (s : State) : State := s.setHoldup (holdupGood s.pwr.bankVolt s.pwr.bankCap)

/-- The bank's voltage as it is seen (10 mV), and HOLDUP_OK by it (R79). -/
def State.bankAt (s : State) (volt : Nat) : State := { s with pwr := { s.pwr with bankVolt := volt % 4096 } }.judgeHoldup

/-- HOLDUP_MEASURE: a measurement begins, or ends with voltage (10 mV) and capacitance (10 µF) of the bank (R79); none begins or goes on after
the detection of a power loss (R80). -/
def execHoldupMeasure (found : Option (Nat × Nat)) (s : State) : Result :=
  .next (if s.pwr.rideThrough ∨ s.pwr.pf ≠ .idle then s
    else match found with
      | none => { s with pwr := { s.pwr with charging := true } }
      | some (volt, cap) =>
        if s.pwr.charging then { s with pwr := { s.pwr with bankCap := cap % 4096, charging := false } }.bankAt volt else s)

/-- HOLDUP_LOST: the bank's voltage falls; HOLDUP_OK turns false when it is below its limit (R79, R82). -/
def execHoldupLost (volt : Nat) (s : State) : Result := .next (s.bankAt volt)

/-- HOLDUP_RESTORED: the bank's voltage recovers; HOLDUP_OK turns true when both limits are met (R79, R82). -/
def execHoldupRestored (volt : Nat) (s : State) : Result := .next (s.bankAt volt)

/-! Power loss. -/

/-- The host port loses its link, with event source 101. -/
def State.hostOff (s : State) : State :=
  if s.evt.hostLink then { s with evt := { s.evt with hostLink := false } }.raise 101 else s

/-- The field outputs are off (R46, R90). -/
def State.fieldOff (s : State) : State :=
  { s with dio := { s.dio with dos := s.dio.dos.map fun (d : DoSt) => { d with cmd := false, readback := false, thermal := false, dark := false } },
           aio := { s.aio with aos := s.aio.aos.map fun (a : AoSt) => { a with command := 0, safeFail := false, makeup := false } } }

/-- POWER_FAIL is declared (table Power-fail sequence, t0 to t3): recorded; the module drops its fence and its lease (R220, R226) and stops
numbering; a standby stops its shadow cycle; the partner is told; a capacitance measurement stops (R80); PD2 to PD5 and PD7 go off, and the
pins they drive are harmless. -/
def State.declarePf (s : State) : State :=
  if s.pwr.pf ≠ .idle then s
  else
    let s := (s.record .powerFail [s.pwr.feedA, s.pwr.feedB]).raise 107
    let s := { s with pwr := { s.pwr with pf := .declared, charging := false, feedReturned := s.pwr.feedAOk || s.pwr.feedBOk },
                      prg := { s.prg with runState := 0 } }
    let s := (s.dropFence).endLease
    let s := ((s.sendWb (.powerFail s.wb.jsn)).hostOff).fieldOff
    { s with sys := { s.sys with domains := Nat.land s.sys.domains 0x43 } }

/-- The feeds after one is measured: its voltage, whether it is good, the ride-through when none is left (R76, R83), at which a capacitance
measurement stops (R80), and that a feed has returned after a power failure (R87). -/
def PwrSt.feed (p : PwrSt) (b : Bool) (v : Nat) (ok : Bool) : PwrSt :=
  let dark := !ok && !(if b then p.feedAOk else p.feedBOk)
  let p := { p with rideThrough := p.rideThrough || dark, charging := p.charging && !dark,
                    feedReturned := p.feedReturned || (ok && p.pf == PfPhase.declared) }
  if b then { p with feedB := v, feedBOk := ok } else { p with feedA := v, feedAOk := ok }

/-- Whether a feed is good. -/
def PwrSt.feedOk (p : PwrSt) (b : Bool) : Bool := if b then p.feedBOk else p.feedAOk

/-- A feed's voltage is measured while it stays as good as it was. -/
def State.measureFeed (s : State) (b : Bool) (v : Nat) : State :=
  { s with pwr := if b then { s.pwr with feedB := v } else { s.pwr with feedA := v } }

/-- FEED_LOST: a feed below 18.00 V (R76); the second one begins the ride-through (R83). -/
def execFeedLost (b : Bool) (volt : Nat) (s : State) : Result :=
  let v := volt % 4096
  .next (if s.pwr.feedOk b ∧ v < 1800 then ({ s with pwr := s.pwr.feed b v false }.record .feedLost [ofBool b, v]).raise 107
    else s.measureFeed b v)

/-- A module whose power failure has run to its end restarts on a feed, once it is seated with its straps read and its lever latched (R69,
R87, R94). -/
def State.canRestart (s : State) : Bool :=
  s.pwr.seated && s.pwr.strapsRead && !s.pwr.pullOk && (s.pwr.feedAOk || s.pwr.feedBOk)

/-- FEED_RESTORED: a feed above 19.00 V (R76); after POWER_FAIL the module completes the sequence and restarts (R87). -/
def execFeedRestored (b : Bool) (volt : Nat) (s : State) : Result :=
  let v := volt % 4096
  .next (if s.pwr.feedOk b = false ∧ 1900 < v then
    let t := ({ s with pwr := s.pwr.feed b v true }.record .feedRestored [ofBool b, v]).raise 107
    if s.pwr.pf = .flushed ∧ t.canRestart then t.restart 2 else t
  else s.measureFeed b v)

/-- POWER_FAIL: the judgement at 10 ms of ride-through (R84). -/
def execPowerFail (goodFor1ms : Bool) (dipUs : Nat) (s : State) : Result :=
  .next (if s.pwr.rideThrough = false ∨ s.pwr.pf ≠ .idle then s
    else if goodFor1ms then { s with pwr := { s.pwr with rideThrough := false } }.record .feedDip [dipUs]
    else s.declarePf)

/-- PD1 and PD6 go off and PD0 runs on from the supercapacitor (t5): what a restart keeps is kept, in INSERTED. -/
def State.powerDown (s : State) : State :=
  let t := s.afterRestart s.sys.resetCause
  { t with sys := { t.sys with mode := .inserted, prevMode := s.sys.mode, domains := 1 },
           pwr := { t.pwr with pf := .flushed, onBackup := true, charging := false },
           rtc := { t.rtc with onBackupSeen := true }, log := { t.log with taking := false } }

/-- POWER_FAIL_FLUSH_DONE: journal tail, recorder and flush-complete marker are written (t4); then off (t5), or a restart when a feed has
returned to a module that is still seated (R87, R89). -/
def execPowerFailFlushDone (s : State) : Result :=
  .next (if s.pwr.pf ≠ .declared then s
    else
      let s := s.flushAll
      let s := { s with wb := { s.wb with flushMarker := true, unwritten := 0 }, log := { s.log with taking := false } }
      if s.pwr.feedReturned ∧ s.canRestart then s.restart 2 else s.powerDown)

/-- PRESENT_LOST (R89); a new insertion reads the straps again (R69). -/
def execPresentLost (s : State) : Result :=
  let s := { s with pwr := { s.pwr with seated := false, hotSwap := false, strapsRead := false } }
  .next (if s.sys.mode = .service ∨ s.sys.mode = .quarantine then s else s.declarePf)

/-! Insertion. -/

/-- INSERTION: PRESENT_N low; mode INSERTED, but for a module whose power-fail sequence still runs to its end; the hot-swap switches close once
the input stage has reached 18.0 V (R92). -/
def execInsertion (prechargeMv : Nat) (s : State) : Result :=
  .next (if s.pwr.seated then { s with pwr := { s.pwr with hotSwap := s.pwr.hotSwap || decide (18000 ≤ prechargeMv) } }
    else
      let t := { s with pwr := { s.pwr with seated := true, hotSwap := decide (18000 ≤ prechargeMv), strapsRead := false } }
      if s.pwr.pf = .declared then t else t.setMode .inserted)

/-- BOOT begins after an insertion: with the cause kept when PD0 came up, or as a restart on the feed that ended a power failure (R69, R87,
table Insertion sequence). -/
def State.beginBoot (s : State) : State :=
  if s.pwr.pf = .flushed then s.restart 2
  else
    let s := (s.setMode .boot).tellRtcLost
    s.record .restartRec [s.sys.resetCause]

/-- STRAP_READ: slot and CARRIER_ID, read once after insertion; equal straps lead to QUARANTINE; otherwise BOOT begins, but not while the
lever is open (R69, R70, R94). -/
def execStrapRead (selA selB : Bool) (carrier : Nat) (s : State) : Result :=
  .next (if s.sys.mode ≠ .inserted ∨ s.pwr.strapsRead then s
    else
      let s := { s with pwr := { s.pwr with slotB := selA && !selB, strapFault := selA == selB, carrierId := carrier % 256,
                                            charging := !s.pwr.pullOk, strapsRead := true } }
      if selA = selB then
        ({ s with sys := { s.sys with domains := modeDomains .quarantine } }.enterQuarantine .strapFault).afterSettle
      else if s.pwr.pullOk then s
      else s.beginBoot)

/-! Lever. -/

/-- EJECT_REQ (R94). -/
def execEjectReq (s : State) : Result :=
  .next (if s.pwr.ejectReq then s else ({ s with pwr := { s.pwr with ejectReq := true } }.raise 107).actExtraction)

/-- PULL_OK: after the recorder flush (R95). -/
def execPullOk (s : State) : Result :=
  .next (if s.pwr.ejectReq ∧ s.pwr.extraction ∧ s.sys.mode = .service then
    { s.flushAll with pwr := { s.flushAll.pwr with pullOk := true } } else s)

/-- LEVER_RETURN (R96): in INSERTED a module whose straps are not read yet begins its BOOT when they are, and one that ran out of power when a
feed returns. -/
def execLeverReturn (s : State) : Result :=
  let latched := { s with pwr := { s.pwr with ejectReq := false, pullFlash := false } }
  .next (if s.pwr.ejectReq = false then s
    else if s.pwr.extraction = false then latched
    else if s.sys.mode = .inserted ∧ (s.pwr.strapsRead = false ∨ s.pwr.pf = .flushed) then
      let t := { latched with pwr := { latched.pwr with extraction := false, pullOk := false } }
      if s.pwr.pf = .flushed ∧ t.canRestart then t.restart 2 else t
    else if s.sys.mode = .handover ∨ s.wb.ho ≠ .idle then { s with sys := { s.sys with restartPend := some 3 } }
    else { s with pwr := { s.pwr with ejectReq := false } }.restart 3)

end Sys2Proof.Machine
end

