-- ==== Sys2Proof/Machine/Pair.lean ====
section
/-! DEFINITION. Pair operation: heartbeat and HELLO, manifests at the follower, sequenced streams, the lease and its referee, hand-over,
the journal, swap drills and resynchronisation (05_pair_operation.md, R195 to R250). -/

namespace Sys2Proof.Machine

/-! Journal and streams. -/

/-- What a stream of the pair sends in (R203 to R211): class 1 ORDERED, priority 6 (table Traffic classes), on its session's network. -/
def State.streamNet (s : State) (id : Nat) : Nat := ((s.cfg.sessions.find? fun x => x.ordered.contains id).map (·.network)).getD 0

/-- Sends one ORDERED frame. -/
def State.sendOrdered (s : State) (st : Stream) (resend start : Bool) (f : Nat × Nat × List Byte) : State :=
  s.emit (.net (s.streamNet st.id) 6 (.stream 1 st.id st.epoch f.1 resend start f.2.2))

/-- Sends frames in order. -/
def State.sendAllOrdered (s : State) (st : Stream) (resend : Bool) (l : List (Nat × Nat × List Byte)) : State :=
  l.foldl (fun s f => s.sendOrdered st resend false f) s

/-- Stream `id`. -/
def State.streamOf (s : State) (id : Nat) : Option Stream := s.wb.streams.find? fun t => t.id == id

/-- The state with stream `id` changed. -/
def State.setStream (s : State) (id : Nat) (f : Stream → Stream) : State :=
  { s with wb := { s.wb with streams := s.wb.streams.map fun t => if t.id = id then f t else t } }

/-- The holder numbers and journals an ORDERED frame; it leaves once its INTENT is committed (R204, R238). -/
def State.intend (s : State) (id : Nat) (payload : List Byte) : State :=
  match s.streamOf id with
  | none => s
  | some st =>
    let seq := st.nextSeq
    let s := s.journalAdd (.intent id seq st.epoch payload)
    let f := (seq, s.wb.jsn, payload)
    let s := s.setStream id fun t => { t with nextSeq := (t.nextSeq + 1) % 2 ^ 32, unacked := t.unacked ++ [f] }
    if s.committed s.wb.jsn then s.sendOrdered st false false f else s

/-- Sends the frames whose INTENT became committed by an acknowledgement above `old` (R238). -/
def State.sendCommitted (s : State) (old : Nat) : State :=
  s.wb.streams.foldl (fun s st =>
    s.sendAllOrdered st false (st.unacked.filter fun f => decide (old < f.2.1 ∧ f.2.1 ≤ s.wb.jsnAck))) s

/-- Waiting frames take the places that acknowledgements freed, up to 64 (R210). -/
def State.fillStream (s : State) (id : Nat) : Nat → State
  | 0 => s
  | k + 1 =>
    match s.streamOf id with
    | some st =>
      match st.waiting with
      | p :: ps => if st.unacked.length < 64 then ((s.setStream id fun t => { t with waiting := ps }).intend id p).fillStream id k else s
      | [] => s
    | none => s

/-- Total length of journal entries. -/
def journalLength (l : List JEntry) : Nat := l.foldl (fun n e => n + jLength e.body) 0

/-- An entry that is no open work: a DESC with its DONE, an INTENT acknowledged, or any other (R241). -/
def State.entryDone (s : State) (e : JEntry) : Bool :=
  match e.body with
  | .desc .. => hasDone s.wb.journal e.jsn
  | .intent st seq _ _ => match s.streamOf st with
    | some t => decide (seq ≤ t.journalledH)
    | none => true
  | _ => true

/-- Number of entries before the newest CHECKPOINT. -/
def beforeCheckpoint (l : List JEntry) : Nat :=
  let n := (l.reverse.takeWhile fun e => match e.body with
    | .checkpoint .. => false
    | _ => true).length
  if n = l.length then 0 else l.length - n - 1

/-- Frees the entries older than the newest CHECKPOINT up to the first that is still open (R241). -/
def State.freeJournal (s : State) : State :=
  let old := (s.wb.journal.take (beforeCheckpoint s.wb.journal)).takeWhile s.entryDone
  let rest := s.wb.journal.drop old.length
  { s with wb := { s.wb with journal := rest, journalBytes := journalLength rest } }.checkJournalFree

/-- What a journal keeps of an item: a variable's value; of a retained timer its start instant, last input and whether it was started. -/
def keptOf (kind init : Nat) (x : Option ItemSt) : Nat :=
  match x with
  | none => if kind = 2 then 0 else init
  | some x => if kind = 2 then x.start * 4 + 2 * ofBool x.prevIn + ofBool x.active else x.value

/-- Key under which a RETAINED or CHECKPOINT entry keeps task time; the next 31 keep the release numbers of the angle tasks (R308,
notes/assumptions/31.md). -/
def keptTime : Nat := 2 ^ 64

/-- Items a restart keeps: retained variables and retained timers (table Restart contents). -/
def isKept (i : ProgItem) : Bool := i.retained && (i.kind == 1 || i.kind == 2)

/-- The key under which a journal keeps the epoch of ring p (R374, notes/assumptions/31.md). -/
def keptEpoch (p : Nat) : Nat := keptTime + 32 + p

/-- Task time, the release numbers and the epochs of the rings as a journal keeps them. -/
def State.keptNumbers (s : State) : List (Nat × Nat) :=
  ((List.range 4).filter fun p => (s.slk.rings.getD p {}).epoch != 0).map (fun p => (keptEpoch p, (s.slk.rings.getD p {}).epoch))
  ++ (keptTime, s.prg.taskTime) :: ((List.range 31).filter fun k => (s.prg.tasks.getD (k + 1) {}).present).map fun k =>
    (keptTime + k + 1, (s.prg.tasks.getD (k + 1) {}).relNum)

/-- The full retained image of the running program. -/
def State.retainedImage (s : State) : List (Nat × Nat) :=
  (match s.prg.image with
  | some im => (im.items.filter isKept).map fun i => (i.ident, keptOf i.kind i.init (assocGet s.prg.items i.ident))
  | none => []) ++ s.keptNumbers

/-- The last program cycle a journal holds (R308). -/
def journalProgCycle (l : List JEntry) : Option Nat :=
  l.foldl (fun m e => match e.body with
    | .retained c _ => some (max c (m.getD 0))
    | .checkpoint c _ _ => some (max c (m.getD 0))
    | _ => m) none

/-- What the RETAINED and CHECKPOINT entries of a journal keep, the newest of each. -/
def journalKept (l : List JEntry) : List (Nat × Nat) :=
  l.foldl (fun m e => match e.body with
    | .retained _ v => v.foldl (fun m x => assocSet m x.1 x.2) m
    | .checkpoint _ _ v => v.foldl (fun m x => assocSet m x.1 x.2) m
    | _ => m) []

/-- The task table of a program (R282). -/
def tasksOf (im : ProgImage) : List Task :=
  (List.range 32).map fun n => match im.tasks.find? fun t => t.num == n with
    | some t => { present := true, prot := t.prot, priority := t.priority, home := t.home, backups := t.backups,
                  ovrLimit := if n = 0 then im.ovrLimit else t.ovrLimit, pair := t.home, rel := t.firstRel, per := t.period }
    | none => {}

/-- What the configuration says of a stream: its session and its task (R205). -/
def State.definedBy (s : State) (id : Nat) : StreamDef :=
  (s.cfg.sessions.find? (fun x => x.ordered.contains id || x.stream == id), (s.cfg.taskStreams.find? fun e => e.2 == id).map (·.1))

/-- The STREAM_EPOCH of a stream: 1 when first defined, raised when its definition changed (R205). -/
def State.streamEpoch (s : State) (id : Nat) : Nat :=
  match assocGet s.nvs.epochs id with
  | none => 1
  | some (e, x) => if x = s.definedBy id then e else e + 1

/-- The CYCLIC streams that this module sends: of its tasks, its sessions and the dispatch service. -/
def ownCyclic (c : Cfg) : List Nat :=
  (c.cyclicStreams ++ c.taskStreams.map (·.2) ++ c.sessions.map (·.stream)
    ++ if c.manager then (List.range c.workers).map (c.dspSpBase + ·) else [c.dspRpBase + c.dspWorker]).eraseDups

/-- The STREAM_EPOCH of an own CYCLIC stream. -/
def State.cycEpoch (s : State) (id : Nat) : Nat := (assocGet s.wb.cycEpochs id).getD 1

/-- Every STREAM_EPOCH is kept over restarts, so that none decreases (R205). -/
def State.keepEpochs (s : State) : State :=
  let l := s.wb.streams.foldl (fun l (t : Stream) => assocSet l t.id (t.epoch, s.definedBy t.id)) s.nvs.epochs
  { s with nvs := { s.nvs with epochs := s.wb.cycEpochs.foldl (fun l (e : Nat × Nat) => assocSet l e.1 (e.2, s.definedBy e.1)) l } }

/-- The ORDERED streams of the pair take a new STREAM_EPOCH: their part of the journal was lost (R205). -/
def State.newOrdered (s : State) : State :=
  { s with wb := { s.wb with streams := s.wb.streams.map fun (t : Stream) => { t with epoch := t.epoch + 1, nextSeq := 1, ackH := 0,
                                                                                      journalledH := 0, unacked := [] } } }.keepEpochs

/-- Every stream of the pair takes a new STREAM_EPOCH (R205, R308). -/
def State.newEpochs (s : State) : State :=
  { s with wb := { s.wb with cycEpochs := s.wb.cycEpochs.map fun (e : Nat × Nat) => (e.1, e.2 + 1) } }.newOrdered

/-- Writes a CHECKPOINT, and the lease table of the pairs served again, and frees what they make old (R227, R241). -/
def State.checkpoint (s : State) : State :=
  match s.prg.image with
  | some im =>
    let s := s.journalAdd (.checkpoint s.prg.cycle im.digest s.retainedImage)
    (s.wb.served.foldl (fun s p => s.journalAdd (.referee p)) s).freeJournal
  | none => s

/-- CHECKPOINT_WRITE: by the holder. -/
def execCheckpointWrite (s : State) : Result := .next (if s.holds then s.checkpoint else s)

/-- JOURNAL_STREAM_WRITE: entries written to the JOURNAL partition (R241, R542). -/
def execJournalStreamWrite (bytes : Nat) (s : State) : Result :=
  .next ({ s with wb := { s.wb with unwritten := s.wb.unwritten - bytes } }.checkJournalFree)

/-- ORDERED_SEND (R204, R210). -/
def execOrderedSend (stream : Nat) (payload : List Byte) (s : State) : Result :=
  .next (if !s.authoritative then s
    else match s.streamOf stream with
      | none => s
      | some st =>
        if st.unacked.length < 64 ∧ st.waiting = [] then s.intend stream payload
        else s.setStream stream fun t => { t with waiting := t.waiting ++ [payload] })

/-- Frames whose INTENT is committed. -/
def State.committedOf (s : State) (l : List (Nat × Nat × List Byte)) : List (Nat × Nat × List Byte) :=
  l.filter fun f => s.committed f.2.1

/-- Re-sends the oldest unacknowledged frame with START and the rest behind it (R209). -/
def State.startResend (s : State) (st : Stream) : State :=
  match s.committedOf st.unacked with
  | f :: fs => (s.sendOrdered st true true f).sendAllOrdered st true fs
  | [] => s

/-- STREAM_ACK_RX: the holder acts on an ACK of the present epoch (R207, R209); REASON 3 acknowledges nothing. -/
def execStreamAckRx (stream epoch seq reason : Nat) (s : State) : Result :=
  .next (if !s.authoritative then s
    else match s.streamOf stream with
      | none => s
      | some st =>
        if epoch ≠ st.epoch then s
        else if reason = 3 then s.startResend st
        else
          let left := st.unacked.filter fun f => decide (0 < signedOf 32 (unsignedOf 32 (Int.ofNat f.1 - Int.ofNat seq)))
          let s := s.setStream stream fun t => { t with unacked := left, ackH := max t.ackH seq }
          let s := if reason = 2 then s.sendAllOrdered st true (s.committedOf left) else s
          s.fillStream stream st.waiting.length)

/-- ORD_ACK_TIMEOUT: every unacknowledged frame again (R209). -/
def execOrdAckTimeout (stream : Nat) (s : State) : Result :=
  .next (if !s.authoritative then s
    else match s.streamOf stream with
      | some st => s.sendAllOrdered st true (s.committedOf st.unacked)
      | none => s)

/-- ORD_ACK_JOURNAL (R238). -/
def execOrdAckJournal (stream : Nat) (s : State) : Result :=
  .next (if !s.authoritative then s
    else match s.streamOf stream with
      | some st =>
        if st.journalledH < st.ackH then
          (s.journalAdd (.ordAck stream st.epoch st.ackH)).setStream stream fun t => { t with journalledH := st.ackH }
        else s
      | none => s)

/-! Following. -/

/-- A module that follows its partner: it holds no lease, in STANDBY, UPDATE, SYNC or HANDOVER. -/
def State.follows (s : State) : Bool :=
  !s.holds && (s.sys.mode == .standby || s.sys.mode == .update || s.sys.mode == .sync || s.sys.mode == .handover)

/-- Every message missing in a gap of MSG_SEQ of a type is asked for with FETCH; one sent again fills its gap and moves nothing back
(R197). -/
def State.checkSeq (s : State) (type msgSeq : Nat) : State :=
  match assocGet s.wb.rxSeq type with
  | none => { s with wb := { s.wb with rxSeq := assocSet s.wb.rxSeq type msgSeq } }
  | some l =>
    let d := signedOf 32 (unsignedOf 32 (Int.ofNat msgSeq - Int.ofNat l))
    if d ≤ 0 then s
    else
      let s := (List.range (d.toNat - 1)).foldl (fun s k => s.sendWb (.fetchMsg type ((l + 1 + k) % 2 ^ 32))) s
      { s with wb := { s.wb with rxSeq := assocSet s.wb.rxSeq type msgSeq } }

/-- Enters SYNC, to be resynchronised from step 1. -/
def State.enterSync (s : State) (cause : Nat := 0) : State :=
  let wb := { s.wb with resyncStep := 1, resyncProg := 0, mismatches := [], rxSeq := [], early := [], lease := .none, ho := .idle, dual := false }
  { s with wb := wb }.setMode .sync cause

/-- Adds a part to the manifest it belongs to. -/
def addPart (l : List ManSt) (m : ManPart) (missing : List ManEntry) : List ManSt :=
  let new : ManSt := ⟨m.task, m.cycle, m.angle, m.parts, [m.part], m.jsnCut, m.entries, missing⟩
  if l.any fun x => x.task == m.task && x.cycle == m.cycle then
    l.map fun x => if x.task = m.task ∧ x.cycle = m.cycle then
      (if x.held.contains m.part then x
       else { x with held := x.held ++ [m.part], entries := x.entries ++ m.entries, missing := x.missing ++ missing }) else x
  else (l ++ [new]).drop ((l ++ [new]).length - 64)

/-- A CAN frame of the own ports that an entry names (R518). -/
def State.hasCan (s : State) (e : ManEntry) : Bool :=
  s.can.unused.any (fun x => s.sameCan (canEntry x) e) || s.loop.arrived.any fun a => s.sameCan a.item e

/-- The module has what a manifest entry names, with a matching check: a local value stands in the entry itself, an item is held under its
CRC-32, a CAN frame may be one of its own (R198, R199, R518). -/
def State.hasItem (s : State) (e : ManEntry) : Bool :=
  e.kind == 4 || (assocGet s.wb.heldItems e).isSome || (e.kind == 2 && s.hasCan e)

/-- The follower keeps a part: what it lacks of it is fetched, and what it names is no longer new (R199, R233). -/
def State.takePart (s : State) (m : ManPart) : State :=
  let lacks := m.entries.filter fun e => !s.hasItem e
  let s := { s with wb := { s.wb with manifests := addPart s.wb.manifests m lacks,
                                      newItems := s.wb.newItems.filter fun e => !(m.task == 0 && m.entries.contains e) } }
  lacks.foldl (fun s e => s.sendWb (.fetch e)) s

/-- MANIFEST_RX: a part at the follower; what it lacks is fetched (R197, R199, R217); a clock more than 4,660 counts away is recorded
(R106). -/
def execManifestRx (crcOk : Bool) (msgSeq : Nat) (m : ManPart) (s : State) : Result :=
  s.fromPartner crcOk m.gen fun s =>
    if !s.follows then s
    else
      let s := (s.checkSeq 2 msgSeq).takePart m
      if 4660 < (Int.ofNat s.tb.ang - Int.ofNat m.angle).natAbs then s.record .angDiverge [s.tb.ang, m.angle] else s

/-- The message of a TYPE and MSG_SEQ among those sent. -/
def sentMsg (l : List Out) (type seq : Nat) : Option (WbHead × WbMsg) :=
  l.findSome? fun o => match o with
    | .wb h m => if m.type = type ∧ h.seq = seq then some (h, m) else none
    | _ => none

/-- FETCH_RX: the holder sends the item's full content (R199), or the missing message again (R197). -/
def execFetchRx (crcOk : Bool) (gen : Nat) (f : FetchOf) (s : State) : Result :=
  s.fromPartner crcOk gen fun s =>
    if !s.holds then s
    else match f with
      | .item e => match assocGet s.wb.heldItems e with
        | some c => s.sendWb (.fetchData e c)
        | none => s
      | .msg type seq => match sentMsg s.out type seq with
        | some (h, m) => s.emit (.wbAgain h m)
        | none => s

/-- FETCH_DATA_RX: an item that passes its check is held and no manifest misses it any more; one that fails is fetched again (R199). -/
def execFetchDataRx (crcOk : Bool) (gen : Nat) (e : ManEntry) (content : List Byte) (checkOk : Bool) (s : State) : Result :=
  s.fromPartner crcOk gen fun s =>
    if !s.follows then s
    else if !checkOk then s.sendWb (.fetch e)
    else s.holdItem e content

/-- The first stream whose digest differs. -/
def digestDiff (own other : List (Nat × List Byte)) : Option Nat :=
  (other.find? fun d => assocGet own d.1 != some d.2).map (·.1)

/-- A mismatch of a stream in a cycle; each cycle counts once (R242, R243). -/
def State.shadowMismatch (s : State) (stream cycle : Nat) : State :=
  let s := (s.record .shadowMismatch [stream, cycle]).raise 68
  let l := if s.wb.mismatches.contains cycle then s.wb.mismatches else s.wb.mismatches ++ [cycle]
  let s := { s with wb := { s.wb with shadowCount := (s.wb.shadowCount + 1) % 65536, shadowLast := stream % 65536,
                                      mismatches := l, resyncProg := 0 },
                    upd := { s.upd with healthFrom := s.tb.csr } }
  let recent := (l.filter fun c => decide (cycle < c + 100)).length
  match s.sys.mode with
  | .standby =>
    let after := match s.wb.resynced with
      | some r => if cycle ≤ r + 1000 then (l.filter fun c => decide (r < c)).length else 0
      | none => 0
    if 3 ≤ after then s.enterQuarantine .shadowPersist [stream, cycle]
    else if 3 ≤ recent then { s with wb := { s.wb with resynced := some cycle } }.enterSync (recCodeOf .shadowMismatch)
    else s
  | _ => s

/-- The comparison of a cycle's digests (R242); in step 6 of SYNC a matching cycle counts. -/
def State.compareDigests (s : State) (cycle : Nat) (own other : List (Nat × List Byte)) : State :=
  match digestDiff own other with
  | some st => s.shadowMismatch st cycle
  | none => { s with wb := { s.wb with resyncProg := if s.sys.mode = .sync ∧ s.wb.resyncStep = 6 then min 1000 (s.wb.resyncProg + 1)
                                                       else s.wb.resyncProg } }

/-- OUTPUT_DIGEST_RX: compared with the own digests of the cycle, or kept until the own cycle ends. -/
def execOutputDigestRx (crcOk : Bool) (gen cycle : Nat) (digests : List (Nat × List Byte)) (s : State) : Result :=
  s.fromPartner crcOk gen fun s =>
    if !s.follows then s
    else match assocGet s.wb.digests cycle with
      | none => { s with wb := { s.wb with digestWait := newest 64 (assocSet s.wb.digestWait cycle digests) } }
      | some own => s.compareDigests cycle own digests

/-- Keeps a served pair's entry of the lease table. -/
def putServed (l : List RefPair) (p : RefPair) : List RefPair :=
  if l.any fun x => x.pairId == p.pairId then l.map fun x => if x.pairId = p.pairId then p else x else l ++ [p]

/-- What the follower does with an entry it has written: submissions, its own copy of an ORDERED frame (R211), acknowledged frames,
generations, the lease table. The new holder's LEASE entry settles what waited here for its ACCEPTED: what stands before it stands in both
journals, the rest was superseded (R175, R236). -/
def State.applyEntry (s : State) (e : JEntry) : State :=
  match e.body with
  | .desc ring id b => s.rememberSubmit ring id b
  | .intent id seq _ p =>
    let f := (seq, e.jsn, p)
    let s := s.setStream id fun t => { t with nextSeq := (seq + 1) % 2 ^ 32, unacked := t.unacked ++ [f] }
    match s.streamOf id with
    | some st => if modeEmits s.sys.mode then s.sendOrdered st false false f else s
    | none => s
  | .ordAck id _ h => s.setStream id fun t =>
      { t with ackH := max t.ackH h, journalledH := max t.journalledH h, unacked := t.unacked.filter fun f => decide (h < f.1) }
  | .lease g b =>
    let s := { s.seeGen g with wb := { (s.seeGen g).wb with holderB := b, holderValid := true } }
    s.settleOps (· < e.jsn) (fun _ => true) s.hq.ops
  | .checkpoint .. => s.freeJournal
  | .done _ _ j _ _ _ _ => { s with wb := { s.wb with applied := s.wb.applied.filter fun a => decide (a.1 ≠ j) } }
  | .referee p => { s with wb := { s.wb with served := putServed s.wb.served p } }
  | _ => s

/-- A stream without the frames from a JSN on. -/
def cutFrom (t : Stream) (j : Nat) : Stream :=
  let gone := t.unacked.filter fun f => decide (j ≤ f.2.1)
  { t with unacked := t.unacked.filter fun f => decide (f.2.1 < j), nextSeq := gone.foldl (fun n f => min n f.1) t.nextSeq }

/-- The submissions of discarded DESC entries are remembered no longer: none of them was accepted work (R177, R236). -/
def State.forget (s : State) (l : List JEntry) : State :=
  l.foldl (fun s e => match e.body with
    | .desc ring id _ => s.setQueue ring fun q => { q with submitted := q.submitted.filter fun x => decide (x.1 ≠ id) }
    | _ => s) s

/-- What a journal remembers of its durable rings (R177). -/
def State.rememberAll (s : State) (l : List JEntry) : State :=
  l.foldl (fun s (e : JEntry) => match e.body with
    | .desc ring id d => s.rememberSubmit ring id d
    | _ => s) s

/-- Drops the own entries from a JSN on that the holder of a higher generation supersedes, with the frames, the submissions and the work that
rest on them (R236). -/
def State.supersede (s : State) (j : Nat) : State :=
  let kept := s.wb.journal.filter fun e => decide (e.jsn < j)
  let s := (s.record .journalSuperseded [j, s.wb.jsn]).forget (s.wb.journal.filter fun e => decide (j ≤ e.jsn))
  { s with wb := { s.wb with journal := kept, jsn := j - 1, jsnAck := min s.wb.jsnAck (j - 1), journalBytes := journalLength kept,
                             streams := s.wb.streams.map (cutFrom · j), applied := s.wb.applied.filter fun a => decide (a.1 < j) },
           hq := { s.hq with work := s.hq.work.filter fun (o : Op) => decide (o.jsn.getD 0 < j) } }

/-- Writes the entry that follows the last one written. -/
def State.putEntry (s : State) (e : JEntry) : State :=
  ({ s with wb := { s.wb with journal := s.wb.journal ++ [e], jsn := e.jsn, journalBytes := s.wb.journalBytes + jLength e.body,
                              unwritten := s.wb.unwritten + jLength e.body, flushMarker := false } }.seeGen e.gen).applyEntry e

/-- Writes the entries that waited for the one just written, as far as they follow on. -/
def State.putEarly (s : State) : Nat → State
  | 0 => s
  | k + 1 =>
    match s.wb.early.find? fun e => e.jsn == s.wb.jsn + 1 with
    | none => s
    | some e => ({ s with wb := { s.wb with early := s.wb.early.filter fun x => decide (e.jsn < x.jsn) } }.putEntry e).putEarly k

/-- Writes one entry of the holder in JSN order; one that comes before a missing one waits for it (R236). -/
def State.writeEntry (s : State) (e : JEntry) : State :=
  if e.gen < s.wb.gen then s
  else
    let own := s.wb.journal.find? fun x => x.jsn == e.jsn
    let s := match own with
      | some x => if x.gen < e.gen then s.supersede e.jsn else s
      | none => s
    if e.jsn = s.wb.jsn + 1 then (s.putEntry e).putEarly s.wb.early.length
    else if s.wb.jsn < e.jsn then
      { s with wb := { s.wb with early := newest 4096 ((s.wb.early.filter fun x => decide (x.jsn ≠ e.jsn)) ++ [e]) } }
    else s

/-- READY goes out once the own journal holds the offered number (table Planned handover). -/
def State.replyReady (s : State) : State :=
  if s.wb.ho = .ready ∧ s.wb.hoReplied = false ∧ s.wb.hoJsn ≤ s.wb.jsn then
    { s with wb := { s.wb with hoReplied := true } }.sendWb (.handover 1 s.wb.jsn)
  else s

/-- JOURNAL_RX: the follower writes, acknowledges, and leaves STANDBY when dual commit has ended (R197, R236, R240). -/
def execJournalRx (crcOk : Bool) (msgSeq gen : Nat) (solo : Bool) (entries : List JEntry) (s : State) : Result :=
  s.fromPartner crcOk gen fun s =>
    if !s.follows then s
    else
      let s := s.checkSeq 6 msgSeq
      let s := entries.foldl State.writeEntry s
      let s := (s.sendWb (.journalAck s.wb.gen s.wb.jsn)).replyReady
      if solo ∧ s.sys.mode = .standby then s.enterSync (recCodeOf .journalStall) else s

/-- JOURNAL_ACK_RX: commits entries; frames and ACCEPTED completions follow (R237, R238). -/
def execJournalAckRx (crcOk : Bool) (gen jsn : Nat) (s : State) : Result :=
  s.fromPartner crcOk gen fun s =>
    if !s.holds then s
    else
      let old := s.wb.jsnAck
      let s := { s with wb := { s.wb with jsnAck := max old (min jsn s.wb.jsn) } }
      (if s.wb.dual then s.sendCommitted old else s).acceptReady

/-- JOURNAL_STALL: dual commit ends (R240). -/
def execJournalStall (s : State) : Result :=
  .next (if !s.holds || !s.wb.dual || decide (s.wb.jsn ≤ s.wb.jsnAck) then s
    else
      let s := s.record .journalStall [s.wb.jsnAck, s.wb.jsn]
      let old := s.wb.jsnAck
      let s := { s with wb := { s.wb with jsnAck := s.wb.jsn } }.sendCommitted old
      let s := { s with wb := { s.wb with dual := false, jsnAck := old } }
      (if s.sys.mode = .active then (s.setMode .solo (recCodeOf .journalStall)).dropPlanned else s).acceptReady)

/-! The lease. -/

/-- The local expiry of a lease asked for at an instant: TERM × (1 − 300 ppm) less 20 µs (R214). -/
def expiryOf (sent term : Nat) : Nat := sent + usTicks term * 9997 / 10000 - usTicks 20

/-- The promise of CONSENT GIVE still holds (R229). -/
def State.promised (s : State) : Bool := match s.wb.gaveConsent with
  | some e => decide (s.tb.csr < e)
  | none => false

/-- The modes and periods in which a module sends REQUEST (R219). -/
def State.mayRequest (s : State) : Bool :=
  match s.sys.mode with
  | .inserted | .quarantine | .service | .sync => false
  | .boot => s.sys.starting
  | .cocoon => s.sys.cocoonWoke
  | .standby | .active | .solo | .handover | .update | .safeHold => true

/-- Sends REQUEST: in a mode that may (R219), with a boot epoch (R225) and no promise (R229). -/
def State.request (s : State) : State :=
  if s.mayRequest = false ∨ s.wb.probed = false ∨ s.promised then s
  else
    let s := s.sendRef .request
    if s.wb.lease = .none then { s with wb := { s.wb with lease := .request } } else s

/-- The partner can take the lease (R216). -/
def State.partnerTakes (s : State) : Bool :=
  !s.partnerAbsent && (s.partnerMode == some .standby || s.partnerMode == some .update) && s.wb.partner.hb.refReach

/-- The partner holds the lease, as its HEARTBEAT shows. -/
def State.partnerHolds (s : State) : Bool :=
  s.partnerMode.isSome && (s.wb.partner.hb.lease == .held || s.wb.partner.hb.lease == .consent)

/-- The partner counts as giving consent (R230). -/
def State.impliedConsent (s : State) : Bool :=
  s.partnerAbsent || (match s.partnerMode with
    | some .inserted | some .boot | some .quarantine | some .service | some .sync => true
    | _ => false)

/-- The holder can no longer show its right: LOST (R215). -/
def State.loseLease (s : State) : State :=
  let s := ({ s with wb := { s.wb with lease := .lost, expiry := 0, consentEnd := none } }.record .leaseLost [s.wb.gen]).raise 64
  if s.partnerTakes then s.sendWb (.handover 4 0) else s

/-- The referee answered: event source 67 when it is reachable again. -/
def State.refAnswered (s : State) : State :=
  let s := { s with wb := { s.wb with outstanding := none, sends := 0, refLost := false } }
  if s.wb.refReach then s else { s with wb := { s.wb with refReach := true } }.raise 67

/-- A shadow copy of the standby at a takeover: an entry that stands in the journal owes its ACCEPTED; any other is issued anew. -/
def State.unshadow (s : State) (o : Op) : State :=
  let q := s.queue o.ring
  let s := { s with hq := { s.hq with ops := s.hq.ops.filter fun p => decide (p.tag ≠ o.tag) } }
  if q.durable ∧ journalDesc s.wb.journal o.ring (dSubmit o.bytes) then
    s.writeCompletion o.ring o.bytes o.tag stAccepted 0 (cflags false (!s.wb.dual) o.long)
  else s.setQueue o.ring fun q => { q with fetched := ⟨o.idx, o.bytes, none, false⟩ :: q.fetched }

/-- Work that this member applied as a follower is finished with the status it gave it. -/
def State.finishApplied (s : State) : List (Nat × Nat × Nat) → State
  | [] => { s with wb := { s.wb with applied := [] } }
  | (j, st, r) :: l =>
    let s := match s.hq.work.find? (fun (o : Op) => o.jsn == some j) with
      | some o => s.finish o st r
      | none => s
    s.finishApplied l

/-- Work that both members carry out at its place in the manifest (R202, R408, R464): the holder's accepted work, or at a follower the
entry of its journal, unless it applied it before. -/
def State.cutOp (s : State) (w : WorkRef) (engine opcode : Nat) (f : Op → State → State) : State :=
  if s.holds then s.engineOp w engine opcode f
  else match w with
    | .tag _ => s.engineOp w engine opcode f
    | .jsn j =>
      if s.wb.applied.any (fun a => a.1 == j) then s
      else match s.workOf.find? fun o => o.jsn == some j with
        | some op =>
          if op.engine = engine ∧ dOpcode op.bytes = opcode
              ∧ (op.waitTime = false ∨ dTime op.bytes ≤ s.clockOf (dPtBase op.bytes)) then f op s else s
        | none => s

/-- Such work is finished: the holder completes it, a follower remembers its status until the DONE entry arrives. -/
def State.finishCut (s : State) (op : Op) (status result : Nat) (data : List Byte := []) : State :=
  match op.jsn with
  | none => s.finish op status result data
  | some j =>
    if s.holds then s.finish op status result data
    else { s with wb := { s.wb with applied := s.wb.applied ++ [(j, status, result)] } }

/-- The duties of a new holder (R239, table Unplanned takeover t6, t7): open work, ORDERED re-sends, owed completions. -/
def State.takeDuties (s : State) : State :=
  let s := { s with hq := { s.hq with work := s.workOf } }
  let s := s.finishApplied s.wb.applied
  let s := s.wb.streams.foldl (fun s st => s.sendAllOrdered st true st.unacked) s
  let s := (s.hq.ops.filter (·.shadow)).reverse.foldl State.unshadow s
  let s := { s with wb := { s.wb with served := s.wb.served.map fun (p : RefPair) =>
    if p.holder = 0 then p else { p with expiry := s.tb.csr + usTicks p.termUs } } }
  s.acceptReady.postBuilt

/-- The running program's state when a plant start is decided: warm or cold with the reason (R606): 1 COLD, 2 no CHECKPOINT, 3 another
digest. -/
def State.coldReason (s : State) : Option Nat :=
  let cp := s.wb.journal.filterMap fun e => match e.body with
    | .checkpoint _ d _ => some d
    | _ => none
  match s.prg.image, cp.getLast? with
  | some im, some d => if s.sys.cold then some 1 else if d = im.digest then none else some 3
  | _, none => if s.sys.cold then some 1 else some 2
  | none, _ => some 2

/-- The starter starts the program (R605, R606). -/
def State.startPlant (s : State) : State :=
  let r := s.coldReason
  let s := match r with
    | some c => s.record .coldStart [c]
    | none => s
  { s with sys := { s.sys with cold := false },
           prg := { s.prg with restartKind := some r.isSome, runState := if s.prg.image.isSome then 1 else 0 } }

/-- A hand-over ends, with event source 66. -/
def State.endHandover (s : State) : State :=
  { s with wb := { s.wb with ho := .idle, hoReplied := false } }.raise 66

/-- A drill passes: result, hand-over time, DRILL_PASS with both durations (R245). -/
def State.drillPass (s : State) : State :=
  let s := { s with wb := { s.wb with drill := .idle, drillResult := 1, drillTime := satAt 65535 (s.wb.drillTimes.getLastD 0) } }
  ({ s with wb := { s.wb with drillTimes := [] } }.record .drillPass s.wb.drillTimes).raise 69

/-- Microseconds since the present hand-over began. -/
def State.hoUs (s : State) : Nat := (s.tb.csr - s.wb.hoStart) / 100

/-- The next phase of a drill after a hand-over. -/
def State.drillHandedOver (s : State) : State :=
  match s.wb.drill with
  | .going => { s with wb := { s.wb with drill := .dwell, drillTimes := [s.hoUs] } }
  | .back => { s with wb := { s.wb with drillTimes := s.wb.drillTimes ++ [s.hoUs] } }.drillPass
  | _ => s

/-- A member failed to take the lease in a drill (R247). -/
def State.drillFail (s : State) : State :=
  let s := ({ s with wb := { s.wb with drill := .idle, drillResult := 3 } }).raise 69
  (s.enterQuarantine .drillFail).afterSettle

/-- A drill given up without a verdict. -/
def State.dropDrill (s : State) : State := { s with wb := { s.wb with drill := .idle, drillTimes := [] } }

/-- A module in UPDATE that is granted the lease abandons the update; the spare slot stays unconfirmed (R50). -/
def State.dropUpdate (s : State) : State :=
  match s.upd.work with
  | some w =>
    match s.opOf w with
    | some op => { s.finish op stAborted 0 with upd := { (s.finish op stAborted 0).upd with work := none, progress := 0 } }
    | none => { s with upd := { s.upd with work := none, progress := 0 } }
  | none => s

/-- The lease is HELD under a generation until its local expiry (R214, R217), with event source 64 when it was not. -/
def State.setHeld (s : State) (gen : Nat) : State :=
  let was := s.wb.lease
  let s := { s with wb := { s.wb with lease := .held, granted := gen, expiry := expiryOf s.wb.lastSent s.term, holderB := s.pwr.slotB, holderValid := true,
                                      consentEnd := none, refGrants := (s.wb.refGrants + 1) % 65536 } }
  if was = .held then s else s.raise 64

/-- A generation above the highest seen opens with its LEASE entry (R217). -/
def State.newGen (s : State) (gen : Nat) : State :=
  if s.wb.gen < gen then { s with wb := { s.wb with gen := gen } }.journalAdd (.lease gen s.pwr.slotB) else s

/-- A new holder's duties by the mode in which it was granted the lease. -/
def State.gained (s : State) : State :=
  match s.sys.mode with
  | .handover =>
    if s.wb.ho = .requesting then
      let s := ({ s with wb := { s.wb with dual := true, jsnAck := s.wb.jsn } }.setMode .active).takeDuties
      ((s.sendWb (.handover 3 s.wb.jsn)).endHandover).drillHandedOver.planIfDegraded
    else (({ s with wb := { s.wb with dual := false } }.setMode .solo).takeDuties).endHandover.dropDrill
  | .update | .standby =>
    let s := (s.dropUpdate).setMode .handover
    (({ s with wb := { s.wb with dual := false } }.setMode .solo).takeDuties).raise 66
  | .boot => ((s.startPlant).setMode .solo).takeDuties
  | .safeHold =>
    let kind := s.sys.exitKind
    let s := { s with wb := { s.wb with dual := false } }.setMode .solo
    { s with prg := { s.prg with restartKind := kind, runState := if s.prg.image.isSome then 1 else 0 } }.takeDuties
  | .cocoon =>
    let s := s.setMode .solo
    let last := s.slk.rings.map fun (r : Ring) => r.epoch
    { s with prg := { s.prg with runState := if s.prg.image.isSome then 1 else 0 },
             est := { s.est with cocoonRings := [0, 1, 2, 3], ringEpoch := last } }.takeDuties
  | .active | .solo => s.acceptReady
  | .inserted | .quarantine | .service | .sync => ({ s with wb := { s.wb with lease := .none } }.sendRef .release)

/-- GRANT_RX: the answer to the outstanding REQUEST or RENEW (R214, R217, R224). -/
def execGrantRx (checkOk : Bool) (seq gen _termUs : Nat) (s : State) : Result :=
  .next (match s.wb.outstanding with
    | none => s
    | some m =>
      if !checkOk ∨ m.seq ≠ seq ∨ (m.type ≠ .request ∧ m.type ≠ .renew) then s
      else
        let was := s.wb.lease
        let s := (s.refAnswered.setHeld gen).newGen gen
        if was = .held ∨ was = .consent then s else ((s.gained).safeIfLost).afterSettle)

/-- A REQUEST was denied: NONE or LOST; a module in HANDOVER returns to STANDBY (R218); a drill's hand-over has failed (R247). -/
def State.requestDenied (s : State) : State :=
  let s := if s.wb.lease = .request then { s with wb := { s.wb with lease := .none } } else s
  if s.sys.mode = .handover then
    let drill := s.wb.ho == .requesting && s.wb.drill != .idle
    let s := s.setMode .standby
    let s := if s.wb.ho = .idle then s else s.endHandover
    if drill then s.drillFail else s.afterSettle
  else s

/-- Who holds the lease, as a reply says. -/
def State.noteHolder (s : State) (holder gen : Nat) : State :=
  { s.seeGen gen with wb := { (s.seeGen gen).wb with holderB := decide (holder = 2), holderValid := decide (holder ≠ 0) } }

/-- DENY_RX (R213, R218, R235). A denied RENEW leaves the lease to its local expiry. -/
def execDenyRx (checkOk : Bool) (seq _rstatus holder gen : Nat) (s : State) : Result :=
  .next (match s.wb.outstanding with
    | none => s
    | some m =>
      if !checkOk ∨ m.seq ≠ seq then s
      else
        let s := (s.refAnswered).noteHolder holder gen
        let s := { s with wb := { s.wb with refDenies := (s.wb.refDenies + 1) % 65536 } }
        if m.type = .request then s.requestDenied else s)

/-- The RELEASE of a planned hand-over is confirmed: GO, and NONE (table Planned handover t2). -/
def State.sendGo (s : State) : State :=
  ({ s with wb := { s.wb with lease := .none, expiry := 0, ho := .gone, dual := false } }.sendWb (.handover 2 s.wb.jsn)).raise 64

/-- STATUS_RX: the boot epoch of this BOOT (R225), or the confirmation of a RELEASE. -/
def execStatusRx (checkOk : Bool) (seq holder gen bootEpoch : Nat) (s : State) : Result :=
  .next (match s.wb.outstanding with
    | none => s
    | some m =>
      if !checkOk ∨ m.seq ≠ seq then s
      else
        let s := (s.refAnswered).noteHolder holder gen
        match m.type with
        | .probe =>
          if s.wb.probed then s
          else { s with wb := { s.wb with bootEpoch := (max s.wb.bootEpoch bootEpoch + 1) % 65536, refSeq := 0, probed := true } }
        | .release => if s.wb.ho = .releasing then s.sendGo else s
        | _ => s)

/-- The holder cannot renew: it asks for consent, where CONSENT_EN allows it (R229, R230). -/
def State.askConsent (s : State) : State :=
  if s.bit .wbLeaseCfg 18 = false then s
  else if s.impliedConsent then { s with wb := { s.wb with consentEnd := some (s.tb.csr + usTicks s.term) } }
  else s.sendWb (.consent 0 s.term)

/-- RENEW_TX: every 500 µs a holder renews, and one in CONSENT renews consent, or asks a referee that is back (R213, R229, R231). -/
def execRenewTx (s : State) : Result :=
  .next (match s.wb.lease with
    | .held => s.sendRef .renew
    | .consent => if s.wb.refReach then s.request else s.askConsent
    | _ => s)

/-- The planned hand-over ends with the lease where it is (R235). -/
def State.abandonHandover (s : State) : State :=
  let s := (s.sendWb (.handover 4 s.wb.jsn)).record .handoverAbandoned [s.wb.jsn]
  let s := (s.endHandover).dropDrill.setMode .active
  (s.acceptReady).dropFallback.afterSettle

/-- A referee message had no reply: again up to three sends; then the referee is unreachable (R213, R228, R229, R235). A module that has
come to a mode without REQUEST lets its own go (R219). -/
def execRefereeReplyTimeout (s : State) : Result :=
  .next (match s.wb.outstanding with
    | none => s
    | some m =>
      if m.type = .request ∧ s.mayRequest = false then { s with wb := { s.wb with outstanding := none } }.requestDenied
      else if s.wb.sends < 3 then { s with wb := { s.wb with sends := s.wb.sends + 1 } }.emit (.referee s.refByNet m)
      else
        let s := { s with wb := { s.wb with outstanding := none } }
        let s := if s.wb.refLost then s
          else ({ s with wb := { s.wb with refReach := false, refLost := true } }.record .refereeUnreachable [m.seq]).raise 67
        match m.type with
        | .request => s.requestDenied
        | .renew => s.askConsent
        | .release => if s.wb.ho = .releasing then s.abandonHandover else s.endLease
        | _ => s)

/-- PROBE_TX (R225, R228): REF_HB is silent before BOOT and in the modes whose pins are harmless (R90, R629). -/
def execProbeTx (s : State) : Result :=
  .next (if s.refSilent ∨ s.wb.outstanding.isSome then s else s.sendRef .probe)

/-- A standby or updating member has missed two heartbeats (R218). -/
def State.missesPartner (s : State) : Bool := decide (2 ≤ s.wb.missedHb)

/-- The standby asks for the lease: HANDOVER (R218). One that cannot reach the referee stays in STANDBY (R228), and a member in UPDATE stays
there, until it is granted (R50). -/
def State.askTakeover (s : State) : State :=
  let t := s.request
  if t.wb.lease ≠ .request then s
  else if t.sys.mode = .standby ∧ s.wb.refReach then (t.setMode .handover).raise 66 else t

/-- REQUEST_REPEAT (R216, R218, R598, R605, R611). -/
def execRequestRepeat (s : State) : Result :=
  .next (match s.sys.mode with
    | .standby | .update => if s.missesPartner then s.askTakeover else s
    | .boot => if s.sys.starting then s.request else s
    | .safeHold => if s.sys.exitKind.isSome ∧ !s.partnerHolds then s.request else s
    | .cocoon => if s.sys.cocoonWoke ∧ s.sys.starting then s.request else s
    | .active | .solo => if s.wb.lease = .lost ∧ !s.partnerTakes then s.request else s
    | _ => s)

/-- LEASE_EXPIRY: at the local expiry on the own clock, to CONSENT while consent holds, otherwise LOST (R66, R215, R229). -/
def execLeaseExpiry (s : State) : Result :=
  .next (if s.wb.lease ≠ .held ∨ s.tb.csr < s.wb.expiry then s
    else match s.wb.consentEnd with
      | some e => if s.tb.csr < e then { s with wb := { s.wb with lease := .consent, expiry := e } } else s.loseLease
      | none => s.loseLease)

/-- CONSENT_ASK_RX: GIVE only in STANDBY or UPDATE without the referee, where CONSENT_EN allows it (R229). -/
def execConsentAskRx (crcOk : Bool) (gen termUs : Nat) (s : State) : Result :=
  s.fromPartner crcOk gen fun s =>
    if (s.sys.mode = .standby ∨ s.sys.mode = .update) ∧ s.wb.refReach = false ∧ s.bit .wbLeaseCfg 18 then
      { s with wb := { s.wb with gaveConsent := some (s.tb.csr + usTicks termUs) } }.sendWb (.consent 1 termUs)
    else s.sendWb (.consent 2 0)

/-- CONSENT_GIVE_RX: consent for a term. -/
def execConsentGiveRx (crcOk : Bool) (gen termUs : Nat) (s : State) : Result :=
  s.fromPartner crcOk gen fun s =>
    if s.bit .wbLeaseCfg 18 ∧ s.holds then
      let e := s.tb.csr + usTicks termUs
      { s with wb := { s.wb with consentEnd := some e, expiry := if s.wb.lease = .consent then e else s.wb.expiry } }
    else s

/-- CONSENT_REFUSE_RX: no consent; one already given runs to its term. -/
def execConsentRefuseRx (crcOk : Bool) (gen : Nat) (s : State) : Result :=
  s.fromPartner crcOk gen fun s => if s.wb.lease = .held then { s with wb := { s.wb with consentEnd := none } } else s

/-- CONSENT_LAPSE: at the end of the consent's term (R66, R231). -/
def execConsentLapse (s : State) : Result :=
  .next (if s.wb.lease = .consent ∧ s.wb.consentEnd.all (fun e => decide (e ≤ s.tb.csr)) then s.loseLease else s)

/-- A write of WB_LEASE_WD (R220, R221). -/
def State.writeLeaseWd (s : State) (v : Word) : State :=
  if v = 0x5AFE#32 ∧ s.pwr.pf = .idle then { s with wb := { s.wb with wdAlive := true } }.refence else s

/-- LEASE_WD_WRITE. -/
def execLeaseWdWrite (q : Requester) (v : Word) (s : State) : Result :=
  .next (match s.writeBarred q (RegName.wbLeaseWd.addr 0 0) with
    | some t => t
    | none => s.writeLeaseWd v)

/-- FENCE_WD_EXPIRY (R220). -/
def execFenceWdExpiry (s : State) : Result := .next ({ s with wb := { s.wb with wdAlive := false } }.refence)

/-! Hand-over. -/

/-- A write of WB_HANDOVER: PLAN on a holder in ACTIVE beside a standby. -/
def State.writeHandover (s : State) (v : Word) : State :=
  if bitOf v.toNat 0 ∧ s.sys.mode = .active ∧ s.wb.ho = .idle ∧ s.partnerStandby then { s with wb := { s.wb with ho := .planned } } else s

/-- HANDOVER_PLAN. -/
def execHandoverPlan (q : Requester) (v : Word) (s : State) : Result :=
  .next (match s.writeBarred q (RegName.wbHandover.addr 0 0) with
    | some t => t
    | none => s.writeHandover v)

/-- PLANNED_HANDOVER_START: OFFER with the last JSN (table Planned handover t0); without a standby it does not begin (R94). -/
def execPlannedHandoverStart (s : State) : Result :=
  .next (if s.wb.ho ≠ .planned ∨ s.sys.mode ≠ .active then s
    else if !s.partnerStandby then s.dropPlanned
    else
      let s := { s with wb := { s.wb with ho := .offered, hoJsn := s.wb.jsn, hoStart := s.tb.csr } }.setMode .handover
      (s.sendWb (.handover 0 s.wb.jsn)).raise 66)

/-- HANDOVER_OFFER_RX (t1). -/
def execHandoverOfferRx (crcOk : Bool) (gen jsn : Nat) (s : State) : Result :=
  s.fromPartner crcOk gen fun s =>
    if s.sys.mode ≠ .standby then s
    else { s with wb := { s.wb with ho := .ready, hoJsn := jsn, hoReplied := false, hoStart := s.tb.csr } }.replyReady

/-- HANDOVER_READY_RX: RELEASE (t2). -/
def execHandoverReadyRx (crcOk : Bool) (gen : Nat) (s : State) : Result :=
  s.fromPartner crcOk gen fun s =>
    if s.wb.ho = .offered ∧ s.sys.mode = .handover then { s with wb := { s.wb with ho := .releasing } }.sendRef .release else s

/-- HANDOVER_GO_RX: REQUEST (t3). -/
def execHandoverGoRx (crcOk : Bool) (gen : Nat) (s : State) : Result :=
  s.fromPartner crcOk gen fun s =>
    if s.wb.ho = .ready ∧ s.sys.mode = .standby then
      (({ s with wb := { s.wb with ho := .requesting } }.setMode .handover).raise 66).request
    else s

/-- A holder that has given the lease away serves no more: what waits for its ACCEPTED is settled as far as the partner has acknowledged it,
what was issued of AUTH rings without DURABLE and is not finished completes with NOT_ACTIVE, and the new holder carries out the accepted
work (R172, R175, R239). -/
def State.stopServing (s : State) : State :=
  let s := s.settleOps (· ≤ s.wb.jsnAck) (fun _ => false) s.hq.ops
  let s := s.completeOps stNotActive (s.hq.ops.filter fun o => (s.queue o.ring).auth && o.jsn.isNone && o.done.isNone && !o.shadow)
  { s with hq := { s.hq with work := [] } }

/-- HANDOVER_DONE_RX: the former holder is STANDBY (t4). -/
def execHandoverDoneRx (crcOk : Bool) (gen : Nat) (s : State) : Result :=
  s.fromPartner crcOk gen fun s =>
    if s.wb.ho = .gone ∧ s.sys.mode = .handover then
      ((((s.setMode .standby).stopServing).endHandover).drillHandedOver).afterSettle
    else s

/-- HANDOVER_ABANDON_RX: ends a hand-over (R235); from a LOST holder it makes the partner send REQUEST (R216); in a drill the member that
did not take the lease has failed (R247). -/
def execHandoverAbandonRx (crcOk : Bool) (gen : Nat) (s : State) : Result :=
  s.fromPartner crcOk gen fun s =>
    if s.wb.ho = .ready ∨ s.wb.ho = .requesting then
      let drill := s.wb.drill != .idle
      let s := { s with wb := { s.wb with lease := if s.wb.lease = Lease.request then Lease.none else s.wb.lease } }
      let s := if s.sys.mode = .handover then s.setMode .standby else s
      let s := s.endHandover
      if drill then s.drillFail else s.afterSettle
    else if s.sys.mode = .standby ∨ s.sys.mode = .update then (if s.wb.refReach then s.askTakeover else s)
    else s

/-- HANDOVER_READY_TIMEOUT (R235). -/
def execHandoverReadyTimeout (s : State) : Result :=
  .next (if s.wb.ho = .offered ∧ s.sys.mode = .handover then s.abandonHandover else s)

/-- POWER_FAIL_NOTICE_RX: the JSN the partner held at t1. -/
def execPowerFailNoticeRx (crcOk : Bool) (gen jsn : Nat) (s : State) : Result :=
  s.fromPartner crcOk gen fun s => { s with wb := { s.wb with partnerJsnAtFail := some jsn } }

/-! Heartbeat and HELLO. -/

/-- HEARTBEAT_TX (R196). -/
def execHeartbeatTx (s : State) : Result :=
  .next ({ s with wb := { s.wb with hbSent := true } }.sendWb (.heartbeat s.hbBody))

/-- The cause of the present SAFE-HOLD still holds: the units are still lost (R57, R598). -/
def State.safeCauseHolds (s : State) : Bool := s.sys.safeHoldCause == 3 && controlLost s.sys.unitHealth true

/-- The module becomes the starter of a plant start: REQUEST (R604, R605, R629). A journal without its marker was recorded at stage 3. -/
def State.becomeStarter (s : State) : State :=
  ({ s with sys := { s.sys with starting := true, starter := true } }.refence).request

/-- At t4 of the table Boot to service, by what the partner's HEARTBEAT shows (R604). -/
def State.decidePlant (s : State) (hb : HbBody) : State :=
  if s.sys.mode ≠ .boot ∨ s.sys.bootStage < 3 ∨ s.sys.bootStop then s
  else if hb.mode = .active ∨ hb.mode = .solo ∨ hb.mode = .handover then
    (if s.wb.lease = .request then s.sendRef .release else s).enterSync
  else if s.sys.starting then s
  else if hb.jsn < s.wb.jsn ∨ (hb.jsn = s.wb.jsn ∧ s.pwr.slotB = false) then s.becomeStarter
  else s

/-- Enters COCOON (R608, R609): its recorder is flushed; neither member holds the lease; the host port goes off with PD5. -/
def State.enterCocoon (s : State) (former : Bool) : State :=
  let s := s.flushLog
  let s := { s with wb := { s.wb with lease := .none, expiry := 0, dual := false },
                    slk := { s.slk with qintSum := [], bleedCount := [] },
                    sys := { s.sys with formerHolder := former, cocoonReq := false, cocoonEntering := false } }
  s.hostOff.setMode .cocoon

/-- COCOON entry goes on (R608): CHECKPOINT and recorder flush, the COCOON request in HEARTBEAT; without a standby the holder releases the lease
and enters alone. -/
def State.cocoonGo (s : State) : State :=
  if s.sys.cocoonEntering = false ∨ s.sys.cocoonReq ∨ !s.holds then s
  else
    let s := match s.hq.work.find? (fun (o : Op) => o.engine == 10 && dOpcode o.bytes == 0x40 && o.started) with
      | some op => s.finishCut op stOk 0
      | none => s
    let s := ({ s with sys := { s.sys with cocoonReq := true } }.checkpoint).flushLog
    if s.partnerStandby then s else (s.sendRef .release).enterCocoon true

/-- What a HEARTBEAT makes the module do by its own mode; a standby that has not started a cycle when the holder starts the one after it is a
whole cycle behind (R201). -/
def State.heardPartner (s : State) (hb : HbBody) : State :=
  let took := hb.lease == .held || hb.lease == .consent
  match s.sys.mode with
  | .boot => s.decidePlant hb
  | .safeHold =>
    if (hb.mode = .active ∨ hb.mode = .solo) ∧ s.safeCauseHolds = false then
      (if s.wb.lease = .request then s.sendRef .release else s).enterSync
    else s
  | .standby =>
    if hb.mode = .safeHold ∧ (hb.safeHoldCause = 1 ∨ hb.safeHoldCause = 2) then s.enterSafeHold 2 (recCodeOf .taskOverrun)
    else if hb.cocoonReq ∧ took then s.enterCocoon false
    else if took ∧ s.wb.cycle + 2 ≤ hb.cycle then s.enterSync (recCodeOf .followLag)
    else s
  | .cocoon => if s.sys.cocoonWoke ∧ (hb.mode = .solo ∨ hb.mode = .active) then s.enterSync else s
  | .active | .solo =>
    if s.sys.cocoonEntering ∧ s.sys.cocoonReq ∧ hb.mode = .cocoon then (s.sendRef .release).enterCocoon true
    else if (s.wb.lease = .lost ∨ s.wb.lease = .consent) ∧ took then
      ({ s with wb := { s.wb with lease := .none, expiry := 0, consentEnd := none, dual := false } }.setMode .standby).stopServing
    else if s.wb.lease = .lost ∧ s.partnerTakes then s.sendWb (.handover 4 0)
    else if s.sys.mode = .solo ∧ hb.mode = .sync ∧ s.wb.resyncStep = 0 then
      { s with wb := { s.wb with resyncStep := 1, resyncProg := 0 } }
    else s.planIfDegraded
  | _ => s

/-- HEARTBEAT_RX: the miss count ends and the partner's state is taken (R196, R217). -/
def execHeartbeatRx (crcOk : Bool) (hb : HbBody) (s : State) : Result :=
  .next (if !crcOk || !s.lanesOn || decide (hb.gen < s.wb.gen) then s
    else
      let changed := s.wb.partner.heard = false || s.wb.partner.hb.mode != hb.mode
      let took := hb.lease == .held || hb.lease == .consent
      let s := { s.seeGen hb.gen with wb := { (s.seeGen hb.gen).wb with missedHb := 0, partner := { s.wb.partner with heard := true, heardAt := s.tb.csr, hb := hb } } }
      let s := if took ∧ s.holds = false then { s with wb := { s.wb with holderB := !s.pwr.slotB, holderValid := true } } else s
      let s := if changed then s.raise 65 else s
      s.heardPartner hb)

/-- HEARTBEAT_MISSED (R196, R218, R250). -/
def execHeartbeatMissed (s : State) : Result :=
  .next (if s.wb.partner.heard = false ∧ s.wb.hbSent = false then s
    else
      let n := satAt 255 (s.wb.missedHb + 1)
      let wasHolder := s.partnerHolds
      let s := { s with wb := { s.wb with missedHb := n } }
      let s := if n = 2 then s.raise 65 else s
      if n < 2 then s
      else match s.sys.mode with
        | .standby | .update => if n = 2 ∧ s.missesPartner then s.askTakeover else s
        | .sync => if n = 2 ∧ wasHolder then s.guaranteeBroken [] else s
        | .active | .solo => if s.sys.cocoonEntering ∧ s.sys.cocoonReq then (s.sendRef .release).enterCocoon true else s
        | _ => s)

/-- The boot slot in use. -/
def State.runningSlot (s : State) : BootSlot := s.nvs.slots.getD s.sec.bootSlot {}

/-- The body of HELLO. -/
def State.helloBody (s : State) : HelloBody :=
  let b := s.runningSlot
  { version := b.version, minPeer := b.minPeer, proto := b.proto, protoMin := b.protoMin, role := s.sys.role,
    carrierId := s.pwr.carrierId, pairId := s.pairId, slotB := s.pwr.slotB }

/-- HELLO_TX. -/
def execHelloTx (s : State) : Result := .next (s.sendWb (.hello s.helloBody))

/-- Two images are compatible (R584). -/
def imagesCompatible (v1 m1 p1 q1 v2 m2 p2 q2 : Nat) : Bool := decide (m2 ≤ v1 ∧ m1 ≤ v2 ∧ q2 ≤ p1 ∧ q1 ≤ p2)

/-- Step 1 of resynchronisation: versions, role and PAIR_ID agree. -/
def helloCompatible (a b : HelloBody) : Bool :=
  imagesCompatible a.version a.minPeer a.proto a.protoMin b.version b.minPeer b.proto b.protoMin && a.role == b.role && a.pairId == b.pairId

/-- The returning module compares the partner's HELLO with its own (table Resynchronisation steps, 1): a foreign carrier or an incompatible
partner ends in QUARANTINE (R71, R584, R585). -/
def State.judgeHello (s : State) (h : HelloBody) : State :=
  let own := s.helloBody
  if h.carrierId ≠ own.carrierId then s.enterQuarantine .carrierMismatch [own.carrierId, h.carrierId]
  else if !helloCompatible own h then s.enterQuarantine .incompatiblePeer [h.version] else s

/-- HELLO_RX: the partner's identity; a member in SYNC that does not fit goes to QUARANTINE, and the active records a foreign carrier
(R71, R584, R585). -/
def execHelloRx (crcOk : Bool) (gen : Nat) (h : HelloBody) (s : State) : Result :=
  s.fromPartner crcOk gen fun s =>
    let s := { s with wb := { s.wb with partner := { s.wb.partner with hello := some h }, proto := min s.runningSlot.proto h.proto } }
    if s.sys.mode = .sync then s.judgeHello h
    else if s.holds ∧ s.partnerMode = some .sync ∧ h.carrierId ≠ s.pwr.carrierId then
      s.record .carrierMismatch [s.pwr.carrierId, h.carrierId]
    else s

/-! Resynchronisation. -/

/-- The estimator state that a returning module takes (R418). -/
def State.estCopy (s : State) : EstCopy :=
  let e := s.est
  { cells := e.cells, epoch := e.epoch, ringEpoch := e.ringEpoch, paramEpoch := e.paramEpoch, lastQ := e.lastQ, resets := e.resets,
    parSnap := e.parSnap, sumSnap := e.sumSnap, sumFirst := e.sumFirst, plans := e.plans, outlierDay := e.outlierDay }

/-- The epochs that a manifest names, each with the highest JSN_CUT of those that name it (R408). -/
def State.noteEpochs (s : State) (es : List ManEntry) (cut : Nat) : State :=
  let l := es.foldl (fun l e =>
    if e.kind = 3 then assocSet l (e.b1, e.b4) (max cut ((assocGet l (e.b1, e.b4)).getD 0)) else l) s.est.epochCuts
  { s with est := { s.est with epochCuts := newest 64 l } }

/-- What the active sends in a step. -/
def State.resyncMsg (s : State) (step : Nat) : Option ResyncMsg :=
  match step with
  | 1 => some (.admission (match s.wb.partner.hello with
      | some h => helloCompatible s.helloBody h && h.carrierId == s.pwr.carrierId
      | none => false))
  | 2 => some (.config s.cfg s.prg.image s.prot.set s.prot.setDigest s.sec.owner true)
  | 3 => some (.time s.tb.pt s.mapValid (s.tb.ang / countsPerCycle) (s.fld .angOffset 0 24) s.prg.pairOffset)
  | 4 => some (.cut s.prg.cycle s.wb.journal s.prg.items s.prg.forces s.prg.tasks s.wb.gen s.loop.slots s.loop.groups s.loop.stages s.loop.friction
      s.loop.ripple s.estCopy s.wb.streams s.wb.cyclic s.wb.served)
  | 5 => some (.live s.wb.jsn)
  | 6 => some (.follow s.wb.resyncProg)
  | 7 => some .standby
  | _ => none

/-- Sends the message of a step. -/
def State.sendStep (s : State) : State := match s.resyncMsg s.wb.resyncStep with
  | some m => s.sendWb (.resync m)
  | none => s

/-- The admission step at the active: without a HELLO of the returning module there is nothing to compare and the step is repeated when one
has come; a foreign carrier is recorded (R71, table Resynchronisation steps). -/
def State.admitReturning (s : State) : State :=
  match s.wb.partner.hello with
  | none => s
  | some h =>
    let s := if h.carrierId ≠ s.pwr.carrierId then s.record .carrierMismatch [s.pwr.carrierId, h.carrierId] else s
    { s.sendStep with wb := { s.sendStep.wb with resyncStep := 2, resyncProg := 0 } }

/-- RESYNC_STEP: the active ends a step, or repeats it when it failed (R248); after step 5 dual commit starts and SOLO ends. -/
def execResyncStep (ok : Bool) (s : State) : Result :=
  .next (if !s.holds ∨ s.wb.resyncStep = 0 then s
    else if !ok then s.sendStep
    else if s.wb.resyncStep = 1 then s.admitReturning
    else
      let s := s.sendStep
      if s.wb.resyncStep = 5 then
        (if s.wb.jsn ≤ s.wb.jsnAck then
          let s := { s with wb := { s.wb with dual := true, resyncStep := 6, resyncProg := 0 } }
          (if s.sys.mode = .solo then s.setMode .active else s).acceptReady
        else s)
      else if s.wb.resyncStep = 7 then { s with wb := { s.wb with resyncStep := 0, resyncProg := 0 } }
      else { s with wb := { s.wb with resyncStep := s.wb.resyncStep + 1, resyncProg := 0 } })

/-! Lanes. -/

/-- WB_LANE_DOWN: traffic goes on on the other lane (R52); event source 102. -/
def execWbLaneDown (l : Nat) (s : State) : Result :=
  .next ({ s with wb := if l = 0 then { s.wb with lane0 := false } else { s.wb with lane1 := false } }.raise 102)

/-- WB_LANE_UP: HELLO on link up. -/
def execWbLaneUp (l : Nat) (s : State) : Result :=
  let s := { s with wb := if l = 0 then { s.wb with lane0 := true } else { s.wb with lane1 := true } }.raise 102
  .next (s.sendWb (.hello s.helloBody))

/-- PARTNER_PRESENT_CHANGE (R230). -/
def execPartnerPresentChange (present : Bool) (s : State) : Result :=
  .next { s with pwr := { s.pwr with partnerPresent := present } }

/-! Swap drills. -/

/-- WB_DRILL_DUE, the stamp at which the next drill falls due (R244). -/
def State.drillStamp (s : State) : Nat := (s.reg .wbDrillDueLo).toNat + 2 ^ 32 * (s.reg .wbDrillDueHi).toNat

/-- The next due stamp of a drill: PERIOD_DAYS in cycles at FNOM (R244), the first after the present (R135). -/
def State.nextDrill (s : State) : State :=
  let per := s.fld .wbDrillCtrl 8 8 * 86400 * (if s.bit .angCtrl 4 then 60 else 50) * countsPerCycle
  let new := s.drillStamp + ((s.tb.ang - s.drillStamp) / per + 1) * per
  (s.setReg .wbDrillDueLo 0 0 (BitVec.ofNat 32 new)).setReg .wbDrillDueHi 0 0 (BitVec.ofNat 32 (new / 2 ^ 32))

/-- The active's checks at the due stamp, and the drill or its skip (R245, R246). -/
def State.drillNow (s : State) : State :=
  let s := { s with wb := { s.wb with drillBegun := false } }
  if s.partnerStandby ∧ s.pwr.holdupOk ∧ s.wb.partner.hb.holdupOk ∧ s.sys.unitHealth = 0 ∧ s.partnerWhole ∧ s.wb.ho = .idle then
    { s with wb := { s.wb with drill := .going, ho := .planned, drillTimes := [] } }.raise 69
  else ({ s with wb := { s.wb with drillResult := 2 } }.record .drillSkipped).raise 69

/-- DRILL_DUE: an active in an instar change waits until it is confirmed or abandoned (table Fixed arbitration orders); a standby knows
that the coming hand-over is a drill. -/
def execDrillDue (s : State) : Result :=
  .next (if s.bit .wbDrillCtrl 0 = false ∨ s.tb.ang < s.drillStamp then s
    else
      let s := s.nextDrill
      if s.sys.mode = .active ∧ s.holds then
        (if s.prg.stage ≠ 0 then { s with wb := { s.wb with drillBegun := true } } else s.drillNow)
      else if s.sys.mode = .standby then { s with wb := { s.wb with drill := .going, drillTimes := [] } }
      else s)

/-- DRILL_DWELL_END: the lease goes back (R245). -/
def execDrillDwellEnd (s : State) : Result :=
  .next (if s.wb.drill ≠ .dwell then s
    else
      let s := { s with wb := { s.wb with drill := .back } }
      if s.sys.mode = .active ∧ s.holds ∧ s.wb.ho = .idle then { s with wb := { s.wb with ho := .planned } } else s)

/-! Serving another pair as its network referee. -/

/-- A pair's entry of the referee's table. -/
def State.servedPair (s : State) (id : Nat) : RefPair := (s.wb.served.find? fun p => p.pairId == id).getD { pairId := id }

/-- Keeps a pair's entry, and its last accepted pair of boot epoch and SEQ with it, in the durable journal (R224, R227). -/
def State.setServed (s : State) (p : RefPair) : State :=
  { s with wb := { s.wb with served := putServed s.wb.served p } }.journalAdd (.referee p)

/-- Answers a message of a served pair. -/
def State.reply (s : State) (m : RefMsg) (p : RefPair) (type : RefType) (rstatus term epoch : Nat) : State :=
  (s.setServed p).emit (.refReply { m with type := type, termUs := term, gen := p.gen, rstatus := rstatus, holder := p.holder,
                                           bootEpoch := epoch })

/-- (BOOT_EPOCH, SEQ) lies above the last pair accepted from a slot (R224). -/
def fresh (epoch seq lastEpoch lastSeq : Nat) : Bool :=
  let d := signedOf 16 (unsignedOf 16 (Int.ofNat epoch - Int.ofNat lastEpoch))
  decide (0 < d ∨ (d = 0 ∧ lastSeq < seq))

/-- Remaining microseconds of the present holder's lease. -/
def State.remainOf (s : State) (p : RefPair) : Nat := if p.holder = 0 then 0 else (p.expiry - s.tb.csr) / 100

/-- A GRANT to a slot. -/
def State.grantTo (s : State) (m : RefMsg) (p : RefPair) (gen : Nat) : State :=
  let x := if m.slotB then 2 else 1
  s.reply m { p with holder := x, expiry := s.tb.csr + usTicks m.termUs, gen := gen, lastGranted := x, termUs := m.termUs } .grant 0 m.termUs 0

/-- The rows of the table Referee duties, in order. -/
def State.referee (s : State) (m : RefMsg) (p : RefPair) : State :=
  let x := if m.slotB then 2 else 1
  let xFenced := if m.slotB then p.fencedB else p.fencedA
  let otherFenced := if m.slotB then p.fencedA else p.fencedB
  let bump := if p.lastGranted = x then p.gen else max p.gen m.gen + 1
  match m.type with
  | .request =>
    if xFenced then s.reply m p .deny 2 (s.remainOf p) 0
    else if s.wb.startupHold then s.reply m p .deny 4 (s.remainOf p) 0
    else if p.holder = 0 ∨ (p.holder ≠ x ∧ (otherFenced ∨ p.expiry ≤ s.tb.csr)) then s.grantTo m p bump
    else if p.holder = x then s.grantTo m p p.gen
    else s.reply m p .deny 1 (s.remainOf p) 0
  | .renew =>
    if xFenced then s.reply m p .deny 2 (s.remainOf p) 0
    else if p.holder = x then s.grantTo m p p.gen
    else if s.wb.startupHold ∧ p.gen ≤ m.gen then s.grantTo m p m.gen
    else s.reply m p .deny 3 (s.remainOf p) 0
  | .release => if p.holder = x then s.reply m { p with holder := 0 } .status 0 0 (if m.slotB then p.epochB else p.epochA)
    else s.reply m p .status 0 (s.remainOf p) (if m.slotB then p.epochB else p.epochA)
  | .fenced =>
    let p := if m.slotB then { p with fencedB := true } else { p with fencedA := true }
    s.setServed (if p.holder = x then { p with holder := 0, expiry := s.tb.csr } else p)
  | .probe => s.reply m p .status 0 (s.remainOf p) (if m.slotB then p.epochB else p.epochA)
  | .grant | .deny | .status => s

/-- The pair's entry with a message's boot epoch and SEQ accepted. A module that has restarted, as its new boot epoch shows, is fenced no
longer (R222, R225, notes/assumptions/73.md). -/
def acceptRef (p : RefPair) (m : RefMsg) : RefPair :=
  if m.slotB then { p with epochB := m.bootEpoch, seqB := m.seq, fencedB := p.fencedB && m.bootEpoch == p.epochB }
  else { p with epochA := m.bootEpoch, seqA := m.seq, fencedA := p.fencedA && m.bootEpoch == p.epochA }

/-- One message at the referee: its check holds, it names a served pair, and it is fresh unless it is a PROBE (R222, R224, R227). -/
def State.refereeTakes (s : State) (x : RefMsg × Bool) : State :=
  let m := x.1
  if !x.2 || !s.authoritative || !(s.cfg.servedPairs.take 32).any (fun x => x.1 == m.pairId) then s
  else
    let p := s.servedPair m.pairId
    let (e, q) := if m.slotB then (p.epochB, p.seqB) else (p.epochA, p.seqA)
    if m.type = .probe then s.referee m p
    else if !fresh m.bootEpoch m.seq e q then s
    else s.referee m (acceptRef p m)

/-- REFEREE_MSG_RX; of two messages at one clock count that of slot A is taken first (table Referee duties, table Fixed arbitration
orders). -/
def execRefereeMsgRx (m : RefMsg) (checkOk : Bool) (same : Option (RefMsg × Bool)) (s : State) : Result :=
  .next (match same with
    | none => s.refereeTakes (m, checkOk)
    | some x => if m.slotB && !x.1.slotB then (s.refereeTakes x).refereeTakes (m, checkOk) else (s.refereeTakes (m, checkOk)).refereeTakes x)

/-- REFEREE_STARTUP_HOLD_END (R223). -/
def execRefereeStartupHoldEnd (s : State) : Result := .next { s with wb := { s.wb with startupHold := false } }

end Sys2Proof.Machine
end

