-- ==== Sys2Proof/Machine/Cores.lean ====
section
/-! DEFINITION. Core pairs in lockstep, the MPU fence, debug halt and relock (06_control_cores_and_protection_units.md, R255 to R281). -/

namespace Sys2Proof.Machine

/-- Core pair k. -/
def State.pair (s : State) (k : Nat) : PairSt := s.core.pairs.getD k {}

/-- The state with core pair k changed. -/
def State.setPair (s : State) (k : Nat) (f : PairSt → PairSt) : State :=
  { s with core := { s.core with pairs := updAt s.core.pairs k f } }

/-- A healthy pair in lockstep. -/
def State.pairSafe (s : State) (k : Nat) : Bool := decide (k < 4) && (s.pair k).state == 0 && !bitOf s.sys.unitHealth k

/-- A healthy pair, in lockstep or split. -/
def State.pairUp (s : State) (k : Nat) : Bool := decide (k < 4 ∧ (s.pair k).state ≤ 1) && !bitOf s.sys.unitHealth k

/-- The domain of a core pair: PD2 for 0 and 1, PD3 for 2 and 3. -/
def pairDomain (k : Nat) : Nat := if k < 2 then 2 else 3

/-- Counts of the lease clock in 24 h and in 100 ms. -/
def ticks24h : Nat := 8640000000000
/-- Counts in 100 ms. -/
def ticks100ms : Nat := 10000000

/-- Mismatches of a pair in the last 24 h (CORE_k_STATUS.MISMATCH_24H). -/
def State.recentMismatches (s : State) (k : Nat) : Nat :=
  satAt 15 ((s.pair k).mismatches.filter fun t => decide (s.tb.csr < t + ticks24h)).length

/-- An instant within the 100 ms before now. -/
def State.within100ms (s : State) (t : Nat) : Bool := decide (s.tb.csr < t + ticks100ms)

/-- The pair service after a mismatch on its pair: on the backup pair, or the fence falls and the module restarts with cause 5 (R261,
table Restart causes). -/
def State.moveService (s : State) (contained second : Bool) : State :=
  let b := s.fld .coreSvc 4 2
  if contained ∧ second = false ∧ s.pairSafe b then { s with core := { s.core with svcPair := b } }
  else (s.dropFence).restart 5

/-- Pair k has mismatched: stopped and lost, recorded; its service moves. A contained mismatch has a self-test after it; without one the pair
stays lost until the module restarts (table Contained lockstep mismatch, R260). -/
def State.mismatch (s : State) (k cause : Nat) (args : List Nat) (contained : Bool) : State :=
  let second := (s.pair k).mismatches.any s.within100ms
  let now := s.tb.csr
  let s := s.setPair k fun p => { p with state := 2, selftest := contained, lastCause := cause % 8, mismatches := p.mismatches ++ [now],
                                         pc := args.getD 4 0 % 2 ^ 64 }
  let s := (s.record .lockstepMismatch (k :: args)).raise 113
  let s := s.loseUnit k
  if s.core.svcPair = k then s.moveService contained second else s

/-- LOCKSTEP_MISMATCH: causes 6 and 7 are uncontained (R256 to R261). -/
def execLockstepMismatch (pair cause port v1 v2 pc : Nat) (s : State) : Result :=
  .next (if s.powered (pairDomain pair) ∧ (s.pair pair).state = 0 ∧ pair < 4 then
    s.mismatch pair cause [cause, port, v1, v2, pc] (cause != 6 && cause != 7) else s)

/-- COMPARATOR_SELFTEST: an undetected difference loses the pair, uncontained (R258). -/
def execComparatorSelftest (pair : Nat) (detected : Bool) (s : State) : Result :=
  .next (if detected = false ∧ s.powered (pairDomain pair) ∧ (s.pair pair).state = 0 ∧ pair < 4 then
    (s.record .comparatorFault [pair]).mismatch pair 6 [6, 0, 0, 0, 0] false else s)

/-- CORE_SELFTEST_DONE (R260). -/
def execCoreSelftestDone (pair : Nat) (pass : Bool) (s : State) : Result :=
  .next (if (s.pair pair).selftest = false then s
    else if pass ∧ s.recentMismatches pair < 3 then
      ((s.setPair pair fun p => { p with state := 0, selftest := false }).clearUnit pair).record .corePairRestored [pair]
    else (s.setPair pair fun p => { p with state := 3, selftest := false }).record .corePairRetired [pair])

/-! MPU fence. -/

/-- Staged region r of MPU m. -/
def State.staged (s : State) (m r : Nat) : Region :=
  { base := (s.reg .mpuBaseLo m r).toNat + 2 ^ 32 * (s.reg .mpuBaseHi m r).toNat, attr := s.reg .mpuAttr m r }

/-- An enabled region whose base is not aligned to its size (R274). -/
def regionBad (r : Region) : Bool := bitOf r.attr.toNat 0 && r.base % r.bytes != 0

/-- Index 2k + 1 of a lockstep pair ignores writes and reads 0 (table MPU instances). -/
def State.mpuAbsent (s : State) (m : Nat) : Bool := decide (m < 8 ∧ m % 2 = 1) && (s.pair (m / 2)).state != 1

/-- An operation in flight that MPU m admitted before its `n`-th fence (R275). -/
def Op.underOld (o : Op) (m n : Nat) : Bool := o.done.isNone && engineMpu o.engine == some m && decide (o.rules < n)

/-- Operations in flight, accepted work among them, that MPU m admitted before its `n`-th fence (R275). -/
def State.mpuBusy (s : State) (m n : Nat) : Bool := (s.hq.ops ++ s.hq.work).any fun (o : Op) => o.underOld m n

/-- A requester is the core whose accesses MPU m checks (table MPU instances). -/
def isOwnMpu (q : Requester) (m : Nat) : Bool :=
  match q with
  | .core p c _ => 2 * p + ofBool c == m
  | _ => false

/-- A write of MPU_m_CTRL: the MPU_SYNC fence over the staged copy as it stands; the rules in force stay until it completes (R272 to R276). -/
def State.writeMpuCtrl (s : State) (q : Requester) (m : Nat) (v : Word) : State :=
  let addr := RegName.mpuCtrl.addr m 0
  if s.mpuAbsent m ∨ bitOf v.toNat 0 = false then s
  else if !s.machineLockstep q then s.refuseWrite q addr
  else
    let regions := (List.range 32).map (s.staged m)
    match (List.range 32).find? fun r => regionBad (regions.getD r {}) with
    | some r =>
      { s with core := { s.core with mpus := updAt s.core.mpus m fun x => { x with syncErr := true, errRegion := r } } }.refuseWrite q addr
    | none =>
      { s with core := { s.core with mpus := updAt s.core.mpus m fun x => { x with next := regions, syncPend := true, own := isOwnMpu q m } } }

/-- MPU_SYNC. -/
def execMpuSync (q : Requester) (m : Nat) (s : State) : Result :=
  .next (match s.writeBarred q (RegName.mpuCtrl.addr m 0) with
    | some t => t
    | none => s.writeMpuCtrl q m 1)

/-- MPU m. -/
def State.mpu (s : State) (m : Nat) : Mpu := s.core.mpus.getD m {}

/-- MPU_SYNC_DONE: the fence completes and its rule set is current; accesses admitted under an older one are drained from then on (R272, R273,
R275). -/
def execMpuSyncDone (m : Nat) (s : State) : Result :=
  .next (if (s.mpu m).syncPend then
    let busy := s.mpuBusy m ((s.mpu m).fences + 1)
    { s with core := { s.core with mpus := updAt s.core.mpus m fun x =>
      { x with cur := x.next, syncPend := false, own := false, fences := x.fences + 1, drain := busy } } }
  else s)

/-- MPU_DRAIN_DONE: the last access under an older rule set has ended (R275). -/
def execMpuDrainDone (m : Nat) (s : State) : Result :=
  .next (if s.mpuBusy m (s.mpu m).fences then s
    else { s with core := { s.core with mpus := updAt s.core.mpus m fun x => { x with drain := false } } })

/-! Debug. -/

/-- Core address of the debug module register `r`. -/
def dmAddr (r : Nat) : Nat := RegName.dbgDm.addr r 0

/-- A halt request (R279); refused outside SERVICE and QUARANTINE, naming dmcontrol. -/
def State.haltPair (s : State) (k : Nat) : State :=
  if s.debugMayWrite then s.setPair k fun p => { p with halted := true } else s.denyDebug (dmAddr 16)

/-- DEBUG_HALT. -/
def execDebugHalt (pair : Nat) (s : State) : Result := .next (s.haltPair pair)

/-- The unlock ends (R281). -/
def State.relock (s : State) : State :=
  if s.dbg.unlocked then { s with dbg := { s.dbg with unlocked := false, expiry := none } }.record .debugRelock else s

/-- DEBUG_RELOCK. -/
def execDebugRelock (q : Requester) (s : State) : Result :=
  .next (match s.writeBarred q (RegName.dbgCtrl.addr 0 0) with
    | some t => t
    | none => s.relock)


end Sys2Proof.Machine
end

