-- ==== Sys2Proof/Machine/FieldIo.lean ====
section
/-! DEFINITION. The 24 V channels, current loops and grid sense (12_local_field_io.md, R483 to R509). Currents come as the filtered current
in LSB of 0.5 µA (AIO_AI_n_STATUS.CURRENT); field supplies in 10 mV. -/

namespace Sys2Proof.Machine

/-! Channels. -/

/-- The state with DI n changed. -/
def State.setDiSt (s : State) (n : Nat) (f : DiSt → DiSt) : State := { s with dio := { s.dio with dis := updAt s.dio.dis n f } }

/-- The state with AI n changed. -/
def State.setAiSt (s : State) (n : Nat) (f : AiSt → AiSt) : State := { s with aio := { s.aio with ais := updAt s.aio.ais n f } }

/-! Field supplies. -/

/-- Outputs fed from a supply: PDO0 to PDO3 from L+P, the rest from L+S (table Field groups). -/
def fedBy (privileged : Bool) (n : Nat) : Bool := decide (12 ≤ n) == privileged

/-- NO_SUPPLY of every channel of a supply. -/
def State.setNoSupply (s : State) (privileged lost : Bool) : State :=
  let dos := (List.range 16).map fun n => let d := s.doCh n; if fedBy privileged n then { d with noSupply := lost } else d
  let aos := if privileged then s.aio.aos else s.aio.aos.map fun a => { a with noSupply := lost }
  let s := { s with dio := { s.dio with dos := dos }, aio := { s.aio with aos := aos } }
  (List.range 16).foldl (fun s n =>
    if fedBy privileged n then s.setDoSt n fun d => { d with readback := s.doOn n, swAt := s.tb.csr } else s) s

/-- A supply counts as present: not found below its threshold since. -/
def State.supplied (s : State) (privileged : Bool) : Bool :=
  (if privileged then s.dio.fsP else s.dio.fsS) || !(s.doCh (if privileged then 12 else 0)).noSupply

/-- The onset of a fault state of AO n: AO_FAULT and event source 117 (R500). -/
def State.aoFault (s : State) (n flag : Nat) : State := (s.record .aoFault [n, flag]).raise 117

/-- FIELD_SUPPLY_LOST (R484, R500). -/
def execFieldSupplyLost (privileged : Bool) (volt : Nat) (s : State) : Result :=
  let v := volt % 4096
  let s := { s with dio := if privileged then { s.dio with voltP := v } else { s.dio with voltS := v } }
  .next (if s.supplied privileged ∧ v < 1800 ∧ s.powered 7 then
    let s := { s with dio := if privileged then { s.dio with fsP := false } else { s.dio with fsS := false } }
    let s := (s.record .fieldSupplyLost [ofBool privileged, v]).raise 116
    let s := s.setNoSupply privileged true
    if privileged then s else (List.range 4).foldl (fun s n => s.aoFault n 2) s
  else s)

/-- FIELD_SUPPLY_GOOD (R484). -/
def execFieldSupplyGood (privileged : Bool) (volt : Nat) (s : State) : Result :=
  let v := volt % 4096
  let s := { s with dio := if privileged then { s.dio with voltP := v } else { s.dio with voltS := v } }
  .next (if 1900 < v ∧ s.powered 7 then
    { s with dio := if privileged then { s.dio with fsP := true } else { s.dio with fsS := true } }.setNoSupply privileged false
  else s)

/-! Digital inputs. -/

/-- DI_FILTER_CHANGE: a new filtered state; with SOE it is recorded with the stamp of the first reading (R487). -/
def execDiFilterChange (n : Nat) (level : Bool) (stamp : Nat) (s : State) : Result :=
  .next (if (s.dio.dis.getD n {}).filtered = level ∨ 16 ≤ n ∨ s.powered 7 = false then s
    else
      let s := s.setDiSt n fun d => { d with filtered := level }
      if s.bit .dioDiCfg 2 n then s.record .diChange [n, ofBool level, stamp] else s)

/-- The last raw readings (DIO_DI_STATE). -/
def State.takeDi (s : State) (bits : Nat) : State :=
  { s with dio := { s.dio with dis := (List.range 16).map fun n => { s.dio.dis.getD n {} with raw := bitOf bits n } } }

/-- The filtered states as bits. -/
def State.diBits (s : State) : Nat := (List.range 16).foldl (fun v n => v + ofBool (s.dio.dis.getD n {}).filtered * 2 ^ n) 0

/-- DIVERGE of DI n against the holder's entry, after 3 consecutive cycles (R485). -/
def State.diDiverge (s : State) (holder n : Nat) : State :=
  let d := s.dio.dis.getD n {}
  if bitOf s.cfg.diPairWired n = false then s
  else
    let k := if d.filtered = bitOf holder n then 0 else d.differ + 1
    let s := s.setDiSt n fun d => { d with differ := k, diverge := d.diverge || decide (3 ≤ k) }
    if k = 3 then (s.record .localDiverge [0, n]).raise 116 else s

/-! Digital outputs. -/

/-- Modes in which readback is judged (R490). -/
def readbackJudged (m : Mode) : Bool := m == .standby || m == .active || m == .solo || m == .handover || m == .safeHold

/-- A flag of output n sets at its onset: event source 116 and DO_FAULT with channel and flag; 2 EXT_DRIVE, 3 MISMATCH, 4 SHORT, 6
DARK_FAIL, by their bits in DIO_DO_n_STATUS (R490). -/
def State.doFlag (s : State) (n flag : Nat) : State :=
  let d := s.doCh n
  let was := if flag = 2 then d.extDrive else if flag = 3 then d.mismatch else if flag = 4 then d.short else d.darkFail
  if was then s
  else ((s.setDoSt n fun d => { d with extDrive := d.extDrive || flag == 2, mismatch := d.mismatch || flag == 3,
                                       short := d.short || flag == 4, darkFail := d.darkFail || flag == 6 }).record .doFault
    [n, flag]).raise 116

/-- An output that finds its line driven from outside has every on channel of its group with DARK_EN tested at once, one by one (R491). -/
def State.extDrive (s : State) (n : Nat) : State :=
  if (s.doCh n).extDrive then s
  else
    let l := (List.range 12).filter fun k => decide (n < 12 ∧ k ≠ n) && s.bit .dioDoCfg 1 k && s.doOn k
    { s.doFlag n 2 with dio := { (s.doFlag n 2).dio with darkDue := l } }

/-- PAR_MODE of output n, from the signed configuration (R493). -/
def State.parMode (s : State) (n : Nat) : Bool := decide (12 ≤ n) && bitOf s.cfg.parMode (n - 12)

/-- DO_FAULT: RB_N readings, none within 1 ms of a switching, disagree with the command (R490, table Readback judgement). -/
def execDoFault (n : Nat) (high atLimit : Bool) (s : State) : Result :=
  let d := s.doCh n
  .next (if 16 ≤ n ∨ readbackJudged s.sys.mode = false ∨ d.noSupply ∨ high = s.doOn n ∨ s.tb.csr < d.swAt + usTicks 1000 then s
    else
      let s := s.setDoSt n fun d => { d with readback := high }
      if high then
        (if n < 12 then s.extDrive n
         else if s.parMode n = false then s.doFlag n 3
         else if s.tb.csr < d.offAt + usTicks 2000 then s
         else s.extDrive n)
      else if atLimit then s.doFlag n 4
      else s.doFlag n 3)

/-- A dark test of output n is due: DARK_S after its last one, or at once where a channel of the group found EXT_DRIVE; tests of one module are
at least 10 ms apart (R491). -/
def State.darkDue (s : State) (n : Nat) : Bool :=
  decide (s.dio.darkLast + usTicks 10000 ≤ s.tb.csr)
    && (s.dio.darkDue.contains n || decide ((s.doCh n).darkAt + usTicks (1000000 * s.fld .dioDark 0 12) ≤ s.tb.csr))

/-- DARK_TEST: an on standard output with DARK_EN is off for 200 µs (R491). -/
def execDarkTest (n : Nat) (s : State) : Result :=
  .next (if n < 12 ∧ s.bit .dioDoCfg 1 n ∧ s.doOn n ∧ s.darkDue n then
    let s := { s with dio := { s.dio with darkLast := s.tb.csr, darkDue := s.dio.darkDue.filter (· ≠ n) } }
    s.setDoSt n fun d => { d with dark := true, darkAt := s.tb.csr, swAt := s.tb.csr }
  else s)

/-- DARK_TEST_END: at 200 µs the test is judged (R491); `alsoFell` names the flagged channels whose readback fell with it. -/
def execDarkTestEnd (n : Nat) (fellLow : Bool) (alsoFell : List Nat) (s : State) : Result :=
  .next (if (s.doCh n).dark = false ∨ s.tb.csr < (s.doCh n).darkAt + usTicks 200 then s
    else
      let s := s.setDoSt n fun d => { d with dark := false, swAt := s.tb.csr }
      let s := if fellLow then s else s.doFlag n 6
      alsoFell.foldl (fun s k => if (s.doCh k).extDrive ∧ k ≠ n ∧ k < 12 then (s.extDrive n).record .doWiredTogether [k, n] else s) s)

/-- DO_SHORT: thermal shutdown (R492). -/
def execDoShort (n : Nat) (s : State) : Result :=
  .next (if s.doOn n ∧ n < 16 then
    ((s.doFlag n 4).setDoSt n fun d => { d with thermal := true, readback := false, hotAt := s.tb.csr, swAt := s.tb.csr }).record .doShort [n]
  else s)

/-- DO_RETRY: after RETRY_MS, never on a PDO whose trip group is tripped; RETRY_MAX failed retries in a row latch it off (R492). -/
def execDoRetry (n : Nat) (stillShort : Bool) (s : State) : Result :=
  let d := s.doCh n
  let max := s.fld .dioDoCfg 8 8 n
  let ms := s.fld .dioDoCfg 16 14 n
  .next (if 16 ≤ n ∨ d.thermal = false ∨ d.latched ∨ d.cmd = false ∨ ms = 0 ∨ s.heldTrip n ∨ s.tb.csr < d.hotAt + usTicks (1000 * ms) then s
    else
      let s := s.setDoSt n fun d => { d with retries := satAt 65535 (d.retries + 1), swAt := s.tb.csr }
      if stillShort then
        (s.setDoSt n fun d => { d with short := true, hotAt := s.tb.csr, retryRun := d.retryRun + 1,
                                       latched := decide (max ≠ 0 ∧ max ≤ d.retryRun + 1) }).record .doShort [n]
      else
        let s := s.setDoSt n fun d => { d with thermal := false, retryRun := 0 }
        s.setDoSt n fun d => { d with readback := s.doOn n })

/-! Current inputs. -/

/-- Quality of a filtered current (table AI quality). -/
def aiQuality (c : Nat) : Nat :=
  if c < 7200 then 3 else if c < 7600 then 1 else if c ≤ 41000 then 0 else if c < 42000 then 2 else 4

/-- A current of 0.5 µA counts in mA. -/
def milliamps (c : Nat) : F32 := fratio c 2000

/-- 16 mA. -/
def f16 : F32 := 0x41800000
/-- 4 mA. -/
def f4 : F32 := 0x40800000

/-- The value in engineering units (R496). -/
def engUnits (lo hi : F32) (c : Nat) : F32 := fadd lo (fmul (fdiv (fsub (milliamps c) f4) f16) (fsub hi lo))

/-- AI n takes a filtered current: quality, and for the valid grades the value (R496); on its protection path it stays OVERLOAD (R497). -/
def State.takeAi (s : State) (n c : Nat) : State :=
  if (s.aio.ais.getD n {}).protPath then s
  else
    let q := aiQuality c
    let v := engUnits (s.reg .aiLoEu n) (s.reg .aiHiEu n) c
    s.setAiSt n fun a => { a with current := c % 65536, quality := q, value := if q ≤ 2 then v else a.value }

/-- The AI channels take their currents in order. -/
def State.takeAis (s : State) (n : Nat) : List Nat → State
  | [] => s
  | c :: cs => (s.takeAi n c).takeAis (n + 1) cs

/-- AI n reads valid (R496): GOOD, BELOW_RANGE or ABOVE_RANGE. -/
def State.aiValid (s : State) (n : Nat) : Bool := decide ((s.aio.ais.getD n {}).quality ≤ 2)

/-- The HART load of AI n is in at the lease holder (R495). -/
def State.hartLoad (s : State) (n : Nat) : Bool := bitOf s.cfg.aiHart n && s.holds && s.fieldOn

/-- 0.5 % of 16 mA: 0.08 mA. -/
def aiDivergeMa : F32 := 0x3DA3D70A

/-- DIVERGE of AI n against the holder's current, after 3 consecutive cycles (R485). -/
def State.aiDiverge (s : State) (n : Nat) (holder : F32) : State :=
  let a := s.aio.ais.getD n {}
  if bitOf s.cfg.aiPairWired n = false then s
  else
    let k := if fle (fabs (fsub (milliamps a.current) holder)) aiDivergeMa then 0 else a.differ + 1
    let s := s.setAiSt n fun a => { a with differ := k, diverge := a.diverge || decide (3 ≤ k) }
    if k = 3 then (s.record .localDiverge [1, n]).raise 117 else s

/-- AI_OVERLOAD (R497). -/
def execAiOverload (n : Nat) (s : State) : Result :=
  .next (if 8 ≤ n ∨ (s.aio.ais.getD n {}).protPath ∨ s.powered 7 = false then s
    else (s.setAiSt n fun a => { a with protPath := true, pathAt := s.tb.csr, quality := 5, overloadSeen := true }).record .aiOverload [n])

/-- AI_OVERLOAD_RETRY: tried every 1 s, the sense path holds unless the current is again above 25 mA (R497). -/
def execAiOverloadRetry (n current : Nat) (s : State) : Result :=
  let a := s.aio.ais.getD n {}
  .next (if a.protPath = false ∨ s.tb.csr < a.pathAt + usTicks 1000000 then s
    else if current ≤ 50000 then (s.setAiSt n fun a => { a with protPath := false }).takeAi n current
    else s.setAiSt n fun a => { a with pathAt := s.tb.csr })

/-! Current outputs. -/

/-- The channel of the calibration point. -/
def State.calChannel (s : State) : Nat := s.aio.point / 2

/-- AO n is the selected calibration point (R505). -/
def State.calSelected (s : State) (n : Nat) : Bool := s.aio.calEn && s.calChannel == n

/-- AO n stands at its failure level (R499). -/
def State.aoFailed (s : State) (n : Nat) : Bool := let a := s.aoCh n; a.safeFail || a.selfTestBad

/-- The current AO n is to source: calibration point, HART multi-drop, failure level, or its value, limited by CLAMP_NE43 (R498, R499, R501,
R505). -/
def State.aoTarget (s : State) (n : Nat) : F32 :=
  let c := s.aoCfg n
  if s.calSelected n then (if s.aio.point % 2 = 0 then f4 else 0x41A00000)
  else if c.hartMode then f4
  else if s.aoFailed n then (if c.failHigh then 0x41AC0000 else 0x40600000)
  else if c.clampNe43 then fclamp 0x40733333 0x41A40000 (s.aoCh n).command
  else fclamp 0 0x41B00000 (s.aoCh n).command

/-- A trim of 0.1 µA counts in mA. -/
def trimMa (t : Int) : F32 := fratio t 10000

/-- I + ZERO_TRIM + (I - 4 mA) / 16 mA * (SPAN_TRIM - ZERO_TRIM) (R504). -/
def trimmed (i : F32) (zero span : Int) : F32 :=
  fadd (fadd i (trimMa zero)) (fmul (fdiv (fsub i f4) f16) (fsub (trimMa span) (trimMa zero)))

/-- AO n sources current: driven (R90), supplied; of a shared loop the lease holder, or a follower making up (R484, R502). -/
def State.aoSources (s : State) (n : Nat) : Bool :=
  s.fieldOn && !(s.aoCh n).noSupply && (!(s.aoCfg n).shared || s.holds || (s.aoCh n).makeup)

/-- The sourced current of AO n: what the channel delivers; in OPEN or COMPLIANCE the most it can (R500); a follower's makeup is what the loop
lacks (R502, R503). Both are the field's to say, free values. -/
def State.aoReadback (s : State) (n : Nat) : F32 :=
  let a := s.aoCh n
  if !s.aoSources n then 0
  else if a.open_ || a.compliance || (a.makeup && (s.aoCfg n).shared && !s.holds) then a.readback
  else trimmed (s.aoTarget n) (if s.calSelected n then a.wZero else a.zero) (if s.calSelected n then a.wSpan else a.span)

/-- AO n counts as saturated from outside: calibration, multi-drop or another source are cause 2, its fault states cause 0 (R348, R498,
R500, R501, R505). -/
def State.aoExtSat (s : State) (n : Nat) (fromLoop : Bool) : Option Nat :=
  let a := s.aoCh n
  if s.calSelected n || (s.aoCfg n).hartMode || (s.aoCfg n).srcLoop != fromLoop then some 2
  else if a.open_ || a.compliance || a.noSupply then some 0 else none

/-- AO_OPEN; COMPLIANCE is not set beside it (R500). -/
def execAoOpen (n : Nat) (s : State) : Result :=
  .next (if 4 ≤ n ∨ (s.aoCh n).open_ ∨ s.aoSources n = false ∨ flt (s.aoTarget n) 0x3F800000 then s
    else ((s.setAoSt n fun a => { a with open_ := true, compliance := false, readback := BitVec.ofNat 32 (Config.free s.freeCtr) }).useFree).aoFault
      n 0)

/-- AO_OPEN_END. -/
def execAoOpenEnd (n : Nat) (s : State) : Result := .next (s.setAoSt n fun a => { a with open_ := false })

/-- AO_COMPLIANCE: headroom below 1.5 V; `headroom` in 0.1 V. -/
def execAoCompliance (n headroom : Nat) (s : State) : Result :=
  let s := s.setAoSt n fun a => { a with headroom := satAt 255 headroom }
  .next (if 4 ≤ n ∨ 15 ≤ headroom ∨ (s.aoCh n).open_ ∨ (s.aoCh n).compliance ∨ s.aoSources n = false then s
    else ((s.setAoSt n fun a => { a with compliance := true, readback := BitVec.ofNat 32 (Config.free s.freeCtr) }).useFree).aoFault n 1)

/-- AO_COMPLIANCE_END: headroom at or above 2.0 V. -/
def execAoComplianceEnd (n headroom : Nat) (s : State) : Result :=
  let s := s.setAoSt n fun a => { a with headroom := satAt 255 headroom }
  .next (if 20 ≤ headroom then s.setAoSt n fun a => { a with compliance := false } else s)

/-- AO_SELF_TEST_FAIL (R499). -/
def execAoSelfTestFail (n : Nat) (s : State) : Result := .next (s.setAoSt n fun a => { a with selfTestBad := true })

/-- LOOP_RES was learned within the last 1 s. -/
def State.loopResOk (s : State) (n : Nat) : Bool := match (s.aoCh n).loopResAt with
  | some t => decide (s.tb.csr < t + 100000000)
  | none => false

/-- LOOP_RES at a manifest, from the holder's current and terminal voltage and the own current: a total of at least 3.8 mA, the command
unchanged for 10 ms (R502). -/
def State.learnLoopRes (s : State) (n : Nat) (iHolder vHolder : F32) : State :=
  let total := fadd iHolder (s.aoReadback n)
  if (s.aoCfg n).shared ∧ fle 0x40733333 total ∧ (s.aoCh n).cmdAt + 1000000 ≤ s.tb.csr then
    s.setAoSt n fun a => { a with loopRes := fdiv (fmul vHolder 0x447A0000) total, loopResAt := some s.tb.csr }
  else s

/-- MAKEUP_START: a follower that has learned LOOP_RES judges a shortfall; not for 2 ms after a change of the command (R502). -/
def execMakeupStart (n : Nat) (s : State) : Result :=
  .next (if n < 4 ∧ (s.aoCfg n).shared ∧ s.holds = false ∧ s.fieldOn ∧ (s.aoCh n).loopResAt.isSome ∧ (s.aoCh n).makeup = false
      ∧ (s.aoCh n).cmdAt + usTicks 2000 ≤ s.tb.csr then
    (s.setAoSt n fun a => { a with makeup := true, readback := BitVec.ofNat 32 (Config.free s.freeCtr) }).useFree else s)

/-- MAKEUP_END: the follower has lowered its current to 0 (R503). -/
def execMakeupEnd (n : Nat) (s : State) : Result :=
  .next (if s.holds then s else s.setAoSt n fun a => { a with makeup := false })

/-! Calibration. -/

/-- The first of `k` points from `p` whose channel is not shared (R505). -/
def State.pointFrom (s : State) (p : Nat) : Nat → Option Nat
  | 0 => none
  | k + 1 => if (s.aoCfg (p % 8 / 2)).shared then s.pointFrom (p + 1) k else some (p % 8)

/-- EN falls: unstored trims are discarded (R506). -/
def State.calOff (s : State) : State :=
  { s with aio := { s.aio with calEn := false, dirty := false, aos := s.aio.aos.map fun a => { a with wZero := a.zero, wSpan := a.span } } }

/-- A write of AIO_CAL (R505). -/
def State.writeCal (s : State) (q : Requester) (v : Word) : State :=
  if bitOf v.toNat 0 = false then s.calOff
  else if s.sys.mode ≠ .standby then s.refuseWrite q (RegName.aioCal.addr 0 0)
  else match s.pointFrom s.aio.point 8 with
    | some p => { s with aio := { s.aio with calEn := true, point := p } }
    | none => s.refuseWrite q (RegName.aioCal.addr 0 0)

/-- CAL_ENABLE. -/
def execCalEnable (q : Requester) (v : Word) (s : State) : Result :=
  .next (match s.writeBarred q (RegName.aioCal.addr 0 0) with
    | some t => t
    | none => s.writeCal q v)

/-- A key press without calibration (R68). -/
def State.keyIgnored (s : State) (key : Nat) : State := s.record .keyIgnored [key]

/-- SEL_KEY_PRESS: the next point. -/
def execSelKeyPress (s : State) : Result :=
  .next (if s.aio.calEn then
    (match s.pointFrom (s.aio.point + 1) 8 with
    | some p => { s with aio := { s.aio with point := p } }
    | none => s)
  else s.keyIgnored 0)

/-- Trims of the AO channels as record arguments. -/
def trimArgs (l : List AoSt) : List Nat := l.flatMap fun a =>
  [unsignedOf 16 a.zero, unsignedOf 16 a.span, unsignedOf 16 a.wZero, unsignedOf 16 a.wSpan]

/-- SEL_KEY_HOLD: trims stored, EN cleared, AO_TRIM recorded with old and new values. -/
def execSelKeyHold (s : State) : Result :=
  .next (if s.aio.calEn then
    let args := trimArgs s.aio.aos
    ({ s with aio := { s.aio with aos := s.aio.aos.map (fun (a : AoSt) => { a with zero := a.wZero, span := a.wSpan }), calEn := false,
                                  dirty := false } }).record .aoTrim args
  else s.keyIgnored 0)

/-- A trim within ±200 µA. -/
def clampTrim (t : Int) : Int := max (-2000) (min 2000 t)

/-- Changes the trim of the selected point. -/
def State.stepTrim (s : State) (d : Int) : State :=
  let zero := s.aio.point % 2 == 0
  let s := s.setAoSt s.calChannel fun a =>
    if zero then { a with wZero := clampTrim (a.wZero + d) } else { a with wSpan := clampTrim (a.wSpan + d) }
  { s with aio := { s.aio with dirty := true } }

/-- CAL_KEY_PRESS: +1 µA. -/
def execCalKeyPress (s : State) : Result := .next (if s.aio.calEn then s.stepTrim 10 else s.keyIgnored 1)

/-- CAL_KEY_HOLD: -1 µA, and again every 0.25 s while held. -/
def execCalKeyHold (s : State) : Result := .next (if s.aio.calEn then s.stepTrim (-10) else s.keyIgnored 1)

/-! Grid sense. -/

/-- GS_OVERRANGE: OVR in 3 consecutive cycles (R508). -/
def execGsOverrange (ovr : Nat) (s : State) : Result :=
  .next (if ovr % 8 = 0 ∨ s.powered 7 = false then s
    else ({ s with aio := { s.aio with ovr := ovr % 8 } }.record .gsOverrange [ovr % 8]).raise 117)

/-! Engine 9. -/

/-- IO_REFUSED with its reason (R509). -/
def State.ioRefuse (s : State) (op : Op) (reason : Nat) : State := s.finish op 0x0800 reason

/-- HART_CMD: by the lease holder's modem; without a valid reply HART_NO_REPLY (R495, R501, R509). -/
def execHartCmd (w : WorkRef) (reply : Option (List Byte)) (s : State) : Result :=
  .next (s.engineOp w 9 0x10 fun op s =>
    let b := op.bytes
    let ao := dInline b 0 1 == 1
    let ch := dInline b 1 1
    let poll := dInline b 2 1
    if 1 < dInline b 0 1 ∨ (if ao then 4 else 8) ≤ ch ∨ 63 < poll ∨ 255 < dLength b then s.ioRefuse op 4
    else if ao = false ∧ bitOf s.cfg.aiHart ch = false then s.ioRefuse op 3
    else if !s.authoritative then s.finish op 0x0801 0
    else
      let s := s.emit (.hart ao ch poll (dInline b 3 1) (s.buffer op))
      match reply with
      | some r => s.finish op stOk r.length r
      | none => s.finish op 0x0801 0)

/-- AO_TRIM: in STANDBY (R504 to R506, R509). -/
def execAoTrim (w : WorkRef) (s : State) : Result :=
  .next (s.engineOp w 9 0x11 fun op s =>
    let ch := dInline op.bytes 0 1
    let zero := signedOf 16 (dInline op.bytes 4 2)
    let span := signedOf 16 (dInline op.bytes 6 2)
    if s.sys.mode ≠ .standby then s.ioRefuse op 1
    else if 4 ≤ ch ∨ 2000 < zero.natAbs ∨ 2000 < span.natAbs then s.ioRefuse op 4
    else if (s.aoCfg ch).shared then s.ioRefuse op 2
    else
      let a := s.aoCh ch
      let s := s.setAoSt ch fun a => { a with zero := zero, span := span, wZero := zero, wSpan := span }
      (s.record .aoTrim ([ch] ++ trimArgs [{ a with wZero := zero, wSpan := span }])).finish op stOk 0)

/-- DO_RESET (R492, R509). -/
def execDoReset (w : WorkRef) (s : State) : Result :=
  .next (s.engineOp w 9 0x12 fun op s =>
    let m := dInline op.bytes 0 2
    let dos := (List.range 16).map (fun n =>
      let d := s.doCh n
      if bitOf m n then { d with latched := false, thermal := false, retryRun := 0 } else d)
    { s with dio := { s.dio with dos := dos } }.finish op stOk 0)

end Sys2Proof.Machine
end

