-- ==== Sys2Proof/Machine/ProtPlane.lean ====
section
/-! DEFINITION. The protection plane: comparison of samples and alarms, trip groups, what a trip sends
(11_protection_thermal_control_and_dispatch.md, R442 to R461). Readings are compared doubled, so that half a pair's sum is exact. -/

namespace Sys2Proof.Machine

/-- The position of a ring in the ring table, counted from 1. -/
def State.ringPos (s : State) (ring pos : Nat) : Option RingPos :=
  if pos = 0 then none else (s.cfg.ringTable.getD ring [])[pos - 1]?

/-- Positions of a ring, N. -/
def State.ringN (s : State) (ring : Nat) : Nat := (s.cfg.ringTable.getD ring []).length

/-- Ring p. -/
def State.ring (s : State) (p : Nat) : Ring := s.slk.rings.getD p {}

/-- The state with ring p changed. -/
def State.setRing (s : State) (p : Nat) (f : Ring → Ring) : State := { s with slk := { s.slk with rings := updAt s.slk.rings p f } }

/-- The node at a position. -/
def State.node (s : State) (p pos : Nat) : Node := (s.ring p).nodes.getD (pos - 1) {}

/-- The state with the node at a position changed. -/
def State.setNode (s : State) (p pos : Nat) (f : Node → Node) : State :=
  s.setRing p fun r => { r with nodes := updAt r.nodes (pos - 1) f }

/-- The state with protected string i changed. -/
def State.setStr (s : State) (i : Nat) (f : ProtStr → ProtStr) : State :=
  { s with prot := { s.prot with strings := updAt s.prot.strings i f } }

/-- The state with trip group g changed. -/
def State.setGroup (s : State) (g : Nat) (f : TripGroup → TripGroup) : State :=
  { s with prot := { s.prot with groups := updAt s.prot.groups g f } }

/-- Trip group g. -/
def State.trip (s : State) (g : Nat) : TripGroup := s.prot.groups.getD g {}

/-- The set that ring p's readings are compared under: the committed one, or until the commit takes effect on the ring the one before
(R465). -/
def State.setFor (s : State) (p : Nat) : Option ProtSet := if s.prot.oldRings.contains p then s.prot.oldSet else s.prot.set

/-! What stands. -/

/-- Tripped groups as bits. -/
def State.tripBits (s : State) : Nat := (List.range 4).foldl (fun n g => n + ofBool (s.trip g).tripped * 2 ^ g) 0

/-- Groups whose backup fired, as bits. -/
def State.backupBits (s : State) : Nat := (List.range 4).foldl (fun n g => n + ofBool (s.trip g).backupFired * 2 ^ g) 0

/-- Quantities whose limit inhibits charging, or discharging (table Protected quantities). -/
def inhibits (charge : Bool) (q : Nat) : Bool := if charge then [1, 3, 4, 6].contains q else [2, 3, 5].contains q

/-- The inhibit a string asks for (R449, R450). -/
def strInhibit (t : ProtStr) (charge : Bool) : Bool := t.missLimit || t.held.any fun h => h.1 == 2 && inhibits charge h.2.1

/-- The container's inhibit (R449). -/
def State.inhibit (s : State) (charge : Bool) : Bool :=
  (s.prot.strings.any fun t => strInhibit t charge) || s.prot.auxOn.any fun a => a.2 == 2

/-- Bits of a string's warn or limit states by quantity. -/
def strBits (t : ProtStr) (sev : Nat) : Nat :=
  (List.range 6).foldl (fun n k => n + ofBool (t.held.any fun h => h.1 == sev && h.2.1 == k + 1) * 2 ^ k) 0

/-- Some tap of a node is open or suspect. -/
def tapDoubt (n : Node) : Bool := n.openTap != 0 || !n.suspects.isEmpty

/-- The warn state OPEN_TAP of a string (R444). -/
def State.strOpenTap (s : State) (i : Nat) : Bool :=
  (List.range 4).any fun p => (List.range (s.ringN p)).any fun k =>
    (match s.ringPos p (k + 1) with
     | some r => r.string == i && r.ntype == .cell
     | none => false) && tapDoubt (s.node p (k + 1))

/-- Some position of string i has it. -/
def State.strAny (s : State) (i : Nat) (f : Node → Bool) : Bool :=
  (List.range 4).any fun p => (List.range (s.ringN p)).any fun k =>
    (match s.ringPos p (k + 1) with
     | some r => r.string == i && r.ntype != .aux
     | none => false) && f (s.node p (k + 1))

/-- A position of string i is missing or lost (R455). -/
def State.strMissing (s : State) (i : Nat) : Bool := s.strAny i fun n => n.missingRun

/-- A position of string i has been missing or lost for longer than `ms` without a break (R450). -/
def State.strOverdue (s : State) (i ms : Nat) : Bool := s.strAny i fun n => n.missingRun && decide (n.missFrom + usTicks (1000 * ms) < s.tb.csr)

/-! What is sent. -/

/-- Data of a protection frame (table Protection frame on CAN). -/
def State.protData (s : State) (kind : Nat) : List Nat :=
  let flags := ofBool (s.inhibit true) + 2 * ofBool (s.inhibit false) + 4 * ofBool (s.tripBits != 0) + 8 * ofBool s.prot.set.isNone
    + 16 * ofBool s.pwr.slotB
  let t := s.prot.lastTrip
  [kind, flags, s.tripBits + 16 * s.backupBits, s.prot.roll % 256, t.1, t.2.1, t.2.2.1, t.2.2.2]

/-- The frame's identifier: CAN_ID from the holder, else CAN_ID + 1 from slot A and + 2 from slot B (R457, R458). -/
def State.protCanId (s : State) (x : ProtSet) : Nat := if s.holds then x.canId else x.canId + 1 + ofBool s.pwr.slotB

/-- Sends a protection frame on every port of CAN_PORTS on which the module may (R457, R458). -/
def State.protFrame (s : State) (kind : Nat) : State :=
  match s.prot.set with
  | none => s
  | some x =>
    let ports := (List.range 4).filter fun p => bitOf x.canPorts p && (s.canTx p || (s.canLive p && s.protSelf))
    if ports = [] then s
    else
      let s := { s with prot := { s.prot with roll := (s.prot.roll + 1) % 256 } }
      ports.foldl (fun s p => s.emit (.protCan p (s.protCanId x) x.fd (s.protData kind))) s

/-- A hexadecimal digit in ASCII. -/
def hexDigit (n : Nat) : Byte := BitVec.ofNat 8 (if n < 10 then 48 + n else 55 + n)

/-- The goID: FERIST_, the PAIR_ID in four hex digits, an underscore, the slot (R459). -/
def State.goId (s : State) : List Byte :=
  [70, 69, 82, 73, 83, 84, 95] ++ ([3, 2, 1, 0].map fun i => hexDigit (s.pairId / 16 ^ i % 16)) ++ [95, if s.pwr.slotB then 66 else 65]

/-- Publishes the protection state as GOOSE (R459). -/
def State.goose (s : State) : State :=
  match s.prot.set with
  | some x =>
    if s.bit .protCtrl 0 ∧ s.netOn 0 then
      s.emit (.net 0 7 (.goose s.goId x.appId s.prot.stNum s.prot.sqNum s.tripBits (ofBool (s.inhibit true) + 2 * ofBool (s.inhibit false))
        x.setSeq))
    else s
  | none => s

/-- A change of trip or inhibit: a trip frame at once, and GOOSE from 1 ms on (R457, R459). -/
def State.protChanged (s : State) : State :=
  let s := { s with prot := { s.prot with stNum := s.prot.stNum + 1, sqNum := 0, gooseMs := 1 } }
  (s.protFrame 2).goose

/-- Carries out a step of the plane and sends what its changes ask for. -/
def State.protStep (s : State) (f : State → State) : State :=
  let t := f s
  if t.tripBits ≠ s.tripBits ∨ t.inhibit true ≠ s.inhibit true ∨ t.inhibit false ≠ s.inhibit false then t.protChanged else t

/-- PROT_FRAME_TX: every 100 ms. -/
def execProtFrameTx (s : State) : Result := .next (if s.powered 6 then s.protFrame 1 else s)

/-- GOOSE_RETRANSMIT: the interval doubles up to 1 s (R459). -/
def execGooseRetransmit (s : State) : Result :=
  .next (if s.prot.set.isNone ∨ s.powered 6 = false then s
    else { s with prot := { s.prot with sqNum := s.prot.sqNum + 1, gooseMs := min 1000 (2 * s.prot.gooseMs) } }.goose)

/-! Trips. -/

/-- The last event of the plane (PROT_LAST). -/
def State.lastEvent (s : State) (cause ring pos ch sev : Nat) : State :=
  { s with prot := { s.prot with lastCause := cause, lastRing := ring, lastPos := pos, lastCh := ch, lastSev := sev } }

/-- Groups of a mask that the committed set enables. -/
def State.enabledOf (s : State) (mask : Nat) : List Nat := (List.range 4).filter fun g => bitOf mask g && (s.trip g).en

/-- Group g trips: its PDO is off at once (R452); its confirm input is awaited (R454). -/
def State.tripOne (s : State) (g cause ring pos : Nat) : State :=
  let named := match s.prot.set with
    | some x => (x.groups[g]?).any fun e => e.confPos != 0
    | none => false
  let was := s.doOn (12 + g)
  let s := s.setGroup g fun t =>
    { t with tripped := true, rearmWait := false, confirmed := false, confirmDue := named, backupFired := false,
             test := decide (cause = 10), firstCause := cause, firstPos := pos, firstRing := ring, trippedAt := s.tb.csr }
  if was then s.setDoSt (12 + g) fun d => { d with readback := false, offAt := s.tb.csr, swAt := s.tb.csr } else s

/-- A trip with PD5 off goes out by no network message, which is recorded (R48). -/
def State.noteUnsent (s : State) (bits cause : Nat) : State := if s.powered 5 then s else s.record .tripNetUnsent [bits, cause]

/-- Trips groups on a cause: PROT_TRIP for groups that trip now, PROT_TRIP_ADD for those that stand tripped, event source 72 (R448, R452); a
cause of the module's own whose groups are not enabled is recorded too. A trip this module decides is told the partner (R453). -/
def State.tripGroups (s : State) (mask cause ring pos ch epoch : Nat) (own : Bool) (args : List Nat) : State :=
  let l := s.enabledOf mask
  let new := l.filter fun g => !(s.trip g).tripped
  let s := (l.filter fun g => (s.trip g).tripped).foldl (fun s g => s.record .protTripAdd ([g, cause, ring, pos, ch, epoch] ++ args)) s
  if l = [] ∧ own = false then s
  else
    let bits := new.foldl (fun n g => n + 2 ^ g) 0
    let s := if new = [] ∧ l ≠ [] then s else s.record .protTrip ([bits, cause, ring, pos, ch, epoch] ++ args)
    let s := (s.raise 72).lastEvent cause ring pos ch 3
    if new = [] then s
    else
      let s := new.foldl (fun s g => s.tripOne g cause ring pos) (s.noteUnsent bits cause)
      let s := { s with prot := { s.prot with trips := satAt 65535 (s.prot.trips + 1), lastTrip := (ring, pos, cause, ch) } }
      if own then s.sendWb (.protNotice bits cause ring pos ch epoch) else s

/-- Trip groups of string i, by the set that the ring compares under. -/
def State.strGroups (s : State) (ring i : Nat) : Nat := match s.setFor ring with
  | some x => ((x.strings[i]?).map (·.groups)).getD 0
  | none => 0

/-- The channel under which a trip that a node's comparators named is held: such a trip names no single reading of the module's own. -/
def namedCh : Nat := 255

/-- String i is in trip, which holds under a channel until it is released (R447). -/
def State.tripString (s : State) (i q ring pos keyCh ch epoch : Nat) (reading : Nat) : State :=
  let key := (3, q, ring, pos, keyCh)
  if ((s.prot.strings.getD i {}).held).contains key then s
  else
    let s := s.setStr i fun t => { t with held := t.held ++ [key], trip := t.trip ||| 2 ^ (q - 1) }
    s.tripGroups (s.strGroups ring i) q ring pos ch epoch true [i, reading]

/-! Comparison. -/

/-- Levels of a quantity (table Threshold class). -/
def qtyLevels (c : ThrClass) (q : Nat) : Levels :=
  match q with
  | 1 => c.ov | 2 => c.uv | 3 => c.ot | 4 => c.chUt | 5 => c.ocDis | _ => c.ocCh

/-- Above quantities (table Protected quantities). -/
def isAbove (q : Nat) : Bool := q != 2 && q != 4

/-- The doubled reading has reached a level (R443). -/
def reached (q : Nat) (scale lvl x2 : Int) : Bool := if isAbove q then decide (2 * scale * lvl ≤ x2) else decide (x2 ≤ 2 * scale * lvl)

/-- The doubled reading lies beyond a level by more than the hysteresis (R447). -/
def beyond (q : Nat) (scale lvl hyst x2 : Int) : Bool :=
  if isAbove q then decide (x2 < 2 * scale * (lvl - hyst)) else decide (2 * scale * (lvl + hyst) < x2)

/-- One more sample in a row, or none. -/
def runOf (b : Bool) (n : Nat) : Nat := if b then satAt 255 (n + 1) else 0

/-- Enters a warn or limit state (R446, R448). -/
def State.enterSev (s : State) (sev i q ring pos ch epoch reading : Nat) : State :=
  let s := s.setStr i fun t => { t with held := t.held ++ [(sev, q, ring, pos, ch)] }
  ((s.record (if sev = 2 then .protLimit else .protWarn) [1, i, q, ring, pos, ch, reading, epoch]).raise (if sev = 2 then 73 else 74)).lastEvent
    q ring pos ch sev

/-- Leaves a state (R447, R448); a trip is released and stays tripped. -/
def State.leaveSev (s : State) (sev i q ring pos ch epoch reading : Nat) : State :=
  let s := s.setStr i fun t => { t with held := t.held.filter fun h => decide (h ≠ (sev, q, ring, pos, ch)) }
  s.record (if sev = 3 then .protTrip else if sev = 2 then .protLimit else .protWarn) [0, i, q, ring, pos, ch, reading, epoch]

/-- Judges one reading of string i against its class (R443, R446, R447). -/
def State.judge (s : State) (i : Nat) (c : ThrClass) (q ring pos ch epoch : Nat) (scale x2 : Int) : State :=
  let l := qtyLevels c q
  let key := (q, ring, pos, ch)
  let st := s.prot.strings.getD i {}
  let old := (assocGet st.cnt key).getD {}
  let n : QtyCnt := { warn := runOf (reached q scale l.warn x2) old.warn, limit := runOf (reached q scale l.limit x2) old.limit,
                      relW := runOf (beyond q scale l.warn l.hyst x2) old.relW, relL := runOf (beyond q scale l.limit l.hyst x2) old.relL,
                      relT := runOf (beyond q scale l.trip l.hyst x2) old.relT }
  let r := unsignedOf 32 (x2 / 2)
  let has (sev : Nat) : Bool := st.held.contains (sev, q, ring, pos, ch)
  let s := s.setStr i fun t => { t with cnt := assocSet t.cnt key n }
  let trips := q ≠ 4
  let s := if trips ∧ reached q scale l.trip x2 ∧ !has 3 then s.tripString i q ring pos ch ch epoch r else s
  let s := if (!trips ∨ l.limit ≠ l.trip) ∧ c.limitN ≤ n.limit ∧ n.limit ≠ 0 ∧ !has 2 then s.enterSev 2 i q ring pos ch epoch r else s
  let s := if l.warn ≠ l.limit ∧ c.warnN ≤ n.warn ∧ n.warn ≠ 0 ∧ !has 1 then s.enterSev 1 i q ring pos ch epoch r else s
  let s := if has 3 ∧ c.releaseN ≤ n.relT then s.leaveSev 3 i q ring pos ch epoch r else s
  let s := if has 2 ∧ c.releaseN ≤ n.relL then s.leaveSev 2 i q ring pos ch epoch r else s
  if has 1 ∧ c.releaseN ≤ n.relW then s.leaveSev 1 i q ring pos ch epoch r else s

/-- Tap j of a node is open or suspect. -/
def badTap (n : Node) (j : Nat) : Bool := bitOf n.openTap j || n.suspects.contains j

/-- Cell k's doubled reading, beside doubtful taps as R444 says; k counts from 1. -/
def cellReading2 (n : Node) (x : Sample) (k : Nat) : Int :=
  let v (j : Nat) : Int := Int.ofNat (x.volts.getD (j - 1) 0)
  let sum : Int := (List.range x.cells).foldl (fun t j => t + v (j + 1)) 0
  if 1 < k ∧ badTap n (k - 1) then v (k - 1) + v k
  else if k < x.cells ∧ badTap n k then v k + v (k + 1)
  else if (k = 1 ∧ badTap n 0) ∨ (k = x.cells ∧ badTap n x.cells) then 2 * (Int.ofNat (20 * x.stack) - (sum - v k))
  else 2 * v k

/-- The string and class of a position in a set. -/
def State.classIn (s : State) (x : ProtSet) (ring pos : Nat) : Option (Nat × ThrClass) :=
  match s.ringPos ring pos with
  | some r => match x.strings[r.string]? with
    | some e => (x.classes[e.cls]?).map fun c => (r.string, c)
    | none => none
  | none => none

/-- The string and class of a position in the set that its ring compares under. -/
def State.classAt (s : State) (ring pos : Nat) : Option (Nat × ThrClass) :=
  match s.setFor ring with
  | some x => s.classIn x ring pos
  | none => none

/-- Quantity that a bit of CMPF or CAUSE names; over-current by the sign of the current (R445). -/
def causeQty (bit : Nat) (discharge : Bool) : Nat := if bit < 3 then bit + 1 else if discharge then 5 else 6

/-- The causes of CMPF or an ALARM frame trip the node's string (R390, R445). -/
def State.tripCauses (s : State) (i cause ring pos ch epoch reading : Nat) (discharge : Bool) : State :=
  (List.range 4).foldl (fun s b => if bitOf cause b then s.tripString i (causeQty b discharge) ring pos namedCh ch epoch reading else s) s

/-- A trip that the comparators named is released once every reading of its quantity at that node is, and CMPF no longer names it (R447). -/
def State.releaseNamed (s : State) (i : Nat) (c : ThrClass) (ring pos epoch : Nat) (x : Sample) (qs : List (Nat × List Nat)) : State :=
  qs.foldl (fun (s : State) (q : Nat × List Nat) =>
    let st := s.prot.strings.getD i {}
    let named := (List.range 4).any fun b => bitOf x.cmpf b && causeQty b (0 ≤ x.current) == q.1
    if st.held.contains (3, q.1, ring, pos, namedCh) && !named
        && (q.2.all fun ch => decide (c.releaseN ≤ ((assocGet st.cnt (q.1, ring, pos, ch)).getD ({} : QtyCnt)).relT)) then
      s.leaveSev 3 i q.1 ring pos namedCh epoch 0
    else s) s

/-- Auxiliary entry k acts on a state of its input (table Auxiliary entry): trip on one sample, the rest on WARN_N and LIMIT_N of class 0. -/
def State.judgeAux (s : State) (x : ProtSet) (k : Nat) (e : AuxEntry) (active : Bool) (epoch : Nat) : State :=
  let c := x.classes.getD 0 ⟨⟨0, 0, 0, 0⟩, ⟨0, 0, 0, 0⟩, ⟨0, 0, 0, 0⟩, ⟨0, 0, 0, 0⟩, ⟨0, 0, 0, 0⟩, ⟨0, 0, 0, 0⟩, 1, 1, 1, 1⟩
  let old := (assocGet s.prot.auxCnt k).getD (0, 0)
  let n := (runOf active old.1, runOf (!active) old.2)
  let s := { s with prot := { s.prot with auxCnt := assocSet s.prot.auxCnt k n } }
  let on := (assocGet s.prot.auxOn k).isSome
  let need := if e.severity = 3 then 1 else if e.severity = 2 then c.limitN else c.warnN
  if !on ∧ need ≤ n.1 ∧ n.1 ≠ 0 then
    let s := { s with prot := { s.prot with auxOn := assocSet s.prot.auxOn k e.severity } }
    if e.severity = 3 then s.tripGroups e.groups 8 e.ring e.pos e.input epoch true [k]
    else ((s.record (if e.severity = 2 then .protLimit else .protWarn) [1, 8, e.ring, e.pos, e.input, epoch]).raise
      (if e.severity = 2 then 73 else 74)).lastEvent 8 e.ring e.pos e.input e.severity
  else if on ∧ c.releaseN ≤ n.2 then
    { s with prot := { s.prot with auxOn := assocDel s.prot.auxOn k } }.record
      (if e.severity = 3 then .protTrip else if e.severity = 2 then .protLimit else .protWarn) [0, 8, e.ring, e.pos, e.input, epoch]
  else s

/-- An input shows the contactor open: active by its auxiliary entry's polarity, else by an open contact (notes/assumptions/17.md). -/
def showsOpen (x : ProtSet) (ring pos input : Nat) (closed : Bool) : Bool :=
  match x.aux.find? fun e => e.ring == ring && e.pos == pos && e.input == input with
  | some e => if e.activeOpen then !closed else closed
  | none => !closed

/-- The key of an auxiliary entry's counts: entries of the set before stand beside those of the committed one. -/
def State.auxKey (s : State) (ring k : Nat) : Nat := if s.prot.oldRings.contains ring then k + 512 else k

/-- The inputs of an auxiliary node: its entries, and the confirm inputs of tripped groups (R454). -/
def State.auxSample (s : State) (x : ProtSet) (ring pos : Nat) (inputs epoch : Nat) : State :=
  let es := (numbered 0 x.aux).filter fun e => e.2.ring == ring && e.2.pos == pos
  let s := es.foldl (fun s e => s.judgeAux x (s.auxKey ring e.1) e.2 (bitOf inputs e.2.input != e.2.activeOpen) epoch) s
  (List.range 4).foldl (fun s g =>
    match x.groups[g]? with
    | some e =>
      if e.confPos = pos ∧ e.confRing = ring ∧ pos ≠ 0 ∧ (s.trip g).tripped then
        s.setGroup g fun t => { t with confirmed := showsOpen x ring pos e.confInput (bitOf inputs e.confInput) }
      else s
    | none => s) s

/-- A sample of a string's position was read: the MISSING limit ends unless another position is missing for as long (R450). -/
def State.endMissing (s : State) (x : ProtSet) (i : Nat) (epoch : Nat) : State :=
  if (s.prot.strings.getD i {}).missLimit ∧ s.strOverdue i x.missLimitMs = false then
    (s.setStr i fun t => { t with missLimit := false }).record .protLimit [0, i, 7, epoch]
  else s

/-- The warn state OPEN_TAP of a string begins or ends: recorded as quantity 0, for which the table Protected quantities has no code (R444,
R448). -/
def State.noteTap (s : State) (i ring pos epoch : Nat) : State :=
  let on := s.strOpenTap i
  if (s.prot.strings.getD i {}).tapWarn = on then s
  else
    let s := (s.setStr i fun t => { t with tapWarn := on }).record .protWarn [ofBool on, i, 0, ring, pos, 0, 0, epoch]
    if on then (s.raise 74).lastEvent 0 ring pos 0 1 else s

/-- Compares one SAMPLE (R442 to R445). -/
def State.compareSample (s : State) (ring pos : Nat) (x : Sample) : State :=
  match s.setFor ring with
  | none => s
  | some set =>
    s.protStep fun s =>
      match x.ntype with
      | .aux =>
        let s := s.auxSample set ring pos x.inputs x.epoch
        if bitOf x.cmpf 4 then
          ((numbered 0 set.aux).filter fun e => e.2.ring == ring && e.2.pos == pos && e.2.severity == 3
            && bitOf x.inputs e.2.input != e.2.activeOpen).foldl
            (fun s e => s.tripGroups e.2.groups 8 ring pos e.2.input x.epoch true [e.1]) s
        else s
      | .cell =>
        match s.classAt ring pos with
        | none => s
        | some (i, c) =>
          let n := s.node ring pos
          let s := s.noteTap i ring pos x.epoch
          let s := (List.range (min x.cells 18)).foldl (fun s j =>
            let v := cellReading2 n x (j + 1)
            (s.judge i c 1 ring pos (j + 1) x.epoch 1 v).judge i c 2 ring pos (j + 1) x.epoch 1 v) s
          let s := (List.range (min x.temps.length 4)).foldl (fun s j =>
            let v := 2 * x.temps.getD j 0
            (s.judge i c 3 ring pos j x.epoch 1 v).judge i c 4 ring pos j x.epoch 1 v) s
          let vs := (List.range (min x.cells 18)).map (· + 1)
          ((s.tripCauses i x.cmpf ring pos 0 x.epoch 0 false).releaseNamed i c ring pos x.epoch x
            [(1, vs), (2, vs), (3, List.range (min x.temps.length 4))]).endMissing set i x.epoch
      | .shunt =>
        match s.classAt ring pos with
        | none => s
        | some (i, c) =>
          let s := s.judge i c 5 ring pos 0 x.epoch 100 (2 * max x.current 0)
          let s := s.judge i c 6 ring pos 0 x.epoch 100 (2 * max (-x.current) 0)
          ((s.tripCauses i x.cmpf ring pos 0 x.epoch 0 (0 ≤ x.current)).releaseNamed i c ring pos x.epoch x
            [(5, [0]), (6, [0])]).endMissing set i x.epoch

/-! Missing samples, notices, confirmation. -/

/-- MISS_LIMIT: a position has been missing for longer than MISS_LIMIT_MS (R450). -/
def execMissLimit (string : Nat) (s : State) : Result :=
  .next (match s.prot.set with
    | none => s
    | some x =>
      if s.strOverdue string x.missLimitMs = false ∨ (s.prot.strings.getD string {}).missLimit then s
      else s.protStep fun s =>
        (((s.setStr string fun t => { t with missLimit := true }).record .protLimit [1, string, 7]).raise 73).lastEvent 7 0 0 0 2)

/-- MISS_TRIP: for longer than MISS_TRIP_MS (R450). -/
def execMissTrip (string : Nat) (s : State) : Result :=
  .next (match s.prot.set with
    | none => s
    | some x =>
      if s.strOverdue string x.missTripMs = false ∨ (s.prot.strings.getD string {}).missTrip then s
      else s.protStep fun s =>
        (s.setStr string fun t => { t with missTrip := true }).tripGroups (((x.strings[string]?).map (·.groups)).getD 0) 7 0 0 0 0 true [string])

/-- PROT_NOTICE_RX: the named groups trip with cause PARTNER (R453). -/
def execProtNoticeRx (crcOk : Bool) (gen groups _cause ring pos channel epoch : Nat) (s : State) : Result :=
  s.fromPartner crcOk gen fun s => s.protStep fun s => s.tripGroups groups 9 ring pos channel epoch false []

/-- AUX_CONFIRM_TIMEOUT: AUX_CONFIRM_MS after the trip the confirm input has not shown the contactor open (R454). -/
def execAuxConfirmTimeout (g : Nat) (s : State) : Result :=
  let t := s.trip g
  .next (match s.prot.set.bind fun x => x.groups[g]? with
    | none => s
    | some e =>
      if !t.tripped || !t.confirmDue || t.confirmed || decide (s.tb.csr < t.trippedAt + usTicks (1000 * e.confirmMs)) then s
      else s.protStep fun s =>
        let s := (s.setGroup g fun t => { t with confirmDue := false }).record .contactorFail [g]
        if e.backupEn then
          (s.setGroup g fun t => { t with backupFired := true }).tripGroups (2 ^ e.backupPdo) 12 e.confRing e.confPos e.confInput 0 true [g]
        else s)

/-! A commit takes effect ring by ring (R465, R466). -/

/-- Warn and limit states of ring p end: they are judged again from the first sample under the new levels. -/
def State.judgeAfresh (s : State) (p epoch : Nat) : State :=
  (numbered 0 s.prot.strings).foldl (fun s e =>
    let s := (e.2.held.filter fun h => decide (h.1 ≠ 3) && h.2.2.1 == p).foldl (fun s h =>
      s.leaveSev h.1 e.1 h.2.1 h.2.2.1 h.2.2.2.1 h.2.2.2.2 epoch 0) s
    s.setStr e.1 fun t => { t with cnt := t.cnt.filter fun c => c.1.2.1 != p }) s

/-- Ring p goes over to the committed set at its first epoch that a manifest covering the commit names; the samples of that epoch and of later
ones are compared under it. -/
def State.switchRing (s : State) (p : Nat) : State :=
  match s.est.epochCuts.find? fun x => x.1.1 == p && decide (s.prot.commitJsn ≤ x.2) with
  | none => s
  | some x =>
    let s := s.protStep fun s =>
      { s with prot := { s.prot with oldRings := s.prot.oldRings.filter (· != p) } }.judgeAfresh p x.1.2
    ((s.ring p).sweeps.filter fun w => w.epoch == x.1.2 || laterEpoch w.epoch x.1.2).foldl (fun s w =>
      w.samples.foldl (fun s y => s.compareSample p y.1 y.2) s) s

/-- Every ring that has not gone over does so where its epoch has come. -/
def State.switchRings (s : State) : State :=
  let t := s.prot.oldRings.foldl State.switchRing s
  if t.prot.oldRings = [] ∧ s.prot.oldRings ≠ [] then
    { t with prot := { t.prot with oldSet := none, auxCnt := t.prot.auxCnt.filter fun a => decide (a.1 < 512),
                                   auxOn := t.prot.auxOn.filter fun a => decide (a.1 < 512) } }
  else t

end Sys2Proof.Machine
end

