-- ==== Sys2Proof/Machine/Silkline.lean ====
section
/-! DEFINITION. The Silkline cell rings: strobes, sweeps, breaks, alarms, commands to nodes, open sense taps, and the engine's
commands (09_silkline_cell_rings.md, R359 to R403). -/

namespace Sys2Proof.Machine

/-! Frames. -/

/-- Code of a node kind (ID body, NTYPE). -/
def ntypeNum : NType → Nat
  | .cell => 1 | .shunt => 2 | .aux => 3

/-- The body of a SAMPLE frame, bytes 4 to 63 (table SAMPLE body). -/
def sampleBody (x : Sample) : List Byte :=
  let head := leBytes 4 x.epoch ++ leBytes 1 (ntypeNum x.ntype + 16 * ofBool x.strbEndB) ++ leBytes 1 x.nstat
    ++ leBytes 1 (if x.ntype = .cell then x.cells else 0) ++ leBytes 1 x.cmpf
  let temp (i : Nat) : List Byte := leBytes 2 (unsignedOf 16 (x.temps.getD i 0))
  match x.ntype with
  | .cell =>
    head ++ leBytes 2 x.stack ++ temp 0 ++ temp 1 ++ temp 2 ++ temp 3
      ++ (List.range 18).flatMap (fun i => leBytes 2 (if i < x.cells then x.volts.getD i 0 else 0)) ++ leBytes 3 (x.bleed % 2 ^ 18)
      ++ leBytes 3 0
  | .shunt =>
    head ++ leBytes 4 (unsignedOf 32 x.current) ++ leBytes 4 (unsignedOf 32 x.qint) ++ temp 0 ++ leBytes 2 0 ++ leBytes 4 x.dt
      ++ List.replicate 36 0
  | .aux => head ++ leBytes 4 x.inputs ++ leBytes 4 x.lineFault ++ leBytes 4 x.changed ++ List.replicate 40 0

/-- The SAMPLE frame as received, 68 bytes (table Frame header). -/
def sampleBytes (pos : Nat) (x : Sample) : List Byte :=
  let b := leBytes 1 3 ++ leBytes 1 (ofBool x.toEndB + 2 * ofBool x.alarmPend) ++ leBytes 1 pos ++ leBytes 1 68 ++ sampleBody x
  b ++ leBytes 4 (crc32 b)

/-- A command frame with its header and CRC (R364); `fromB`: the end that sends it is end B. -/
def commandBytes (fromB : Bool) (pos : Nat) (c : NodeCmd) : List Byte :=
  let b := leBytes 1 c.type ++ leBytes 1 (ofBool fromB) ++ leBytes 1 pos ++ leBytes 1 (11 + c.body.length) ++ leBytes 2 c.cseq
    ++ leBytes 1 c.gen8 ++ c.body
  b ++ leBytes 4 (crc32 b)

/-- The frame of a command relayed by the partner. -/
def relayedFrame (f : List Byte) : SlkFrame :=
  .command (leField f 0 1) (leField f 2 1) (leField f 4 2) (leField f 6 1) ((f.drop 7).take (f.length - 11))

/-- A bitmap of positions, 16 bytes. -/
def posMap (l : List Nat) : List Byte := leBytes 16 (l.foldl (fun n p => n ||| 2 ^ (p - 1)) 0)

/-- The records behind a sweep's header: the SAMPLE frames, zeros where missing or lost. -/
def sweepBody (n : Nat) (w : Sweep) : List Byte :=
  (List.range n).flatMap fun k => match assocGet w.samples (k + 1) with
    | some x => sampleBytes (k + 1) x
    | none => List.replicate 68 0

/-- Bytes 0 to 55 of a sweep record. -/
def sweepHead (ring n : Nat) (w : Sweep) : List Byte :=
  leBytes 4 w.epoch ++ leBytes 8 w.angle ++ leBytes 4 w.astatus ++ leBytes 1 ring ++ leBytes 1 n ++ leBytes 1 w.meet
    ++ leBytes 1 w.mode ++ leBytes 1 w.break1 ++ leBytes 1 w.break2 ++ leBytes 2 0 ++ posMap w.missing ++ posMap w.lost

/-- CRC of a sweep record: over bytes 0 to 55 and all records. -/
def sweepCrc (ring n : Nat) (w : Sweep) : Nat := crc32 (sweepHead ring n w ++ sweepBody n w)

/-- The sweep record (table Sweep record). -/
def sweepBytes (ring n : Nat) (w : Sweep) : List Byte :=
  sweepHead ring n w ++ leBytes 4 (sweepCrc ring n w) ++ leBytes 4 0 ++ sweepBody n w

/-! Ends and parts. -/

/-- This module drives its end of ring p (R361). In COCOON the former lease holder alone drives. -/
def State.drivesEnd (s : State) (p : Nat) : Bool :=
  slkDrives s.sys.mode && s.powered 6 && s.unitUp (12 + p) && !s.cfg.manager && s.bit .slkCtrl (4 + p) && s.bit .slkPortCtrl 0 p
    && (s.sys.mode != .cocoon || s.sys.formerHolder)

/-- The ring is started: RSTATE 2 to 5. -/
def started (r : Ring) : Bool := decide (2 ≤ r.rstate ∧ r.rstate ≤ 5)

/-- The break nearest end A, and nearest end B; 0: none. -/
def breakLow (a b : Nat) : Nat := if a = 0 then b else if b = 0 then a else min a b

/-- The last position that end A reaches. -/
def lastFromA (n a b : Nat) : Nat := if breakLow a b = 0 then n else breakLow a b - 1

/-- The first position that end B reaches. -/
def firstFromB (a b : Nat) : Nat := max 1 (max a b)

/-- Positions `lo` to `hi`. -/
def posRange (lo hi : Nat) : List Nat := (List.range (hi + 1 - lo)).map (· + lo)

/-- The part of an end in a sweep, nearest first (R377, R384, R387). MODE: 0 two-ended, 1 from A, 2 from B, 3 two-ended with a break. -/
def partOf (endB : Bool) (n : Nat) (w : Sweep) : List Nat :=
  if endB then
    (match w.mode with
     | 0 => posRange (w.meet + 1) n
     | 1 => []
     | _ => posRange (firstFromB w.break1 w.break2) n).reverse
  else
    match w.mode with
    | 0 => posRange 1 w.meet
    | 2 => []
    | _ => posRange 1 (lastFromA n w.break1 w.break2)

/-- M: MEET limited to 1 to N - 1 (R377). -/
def State.meet (s : State) (p : Nat) : Nat := max 1 (min (s.fld .slkPortCtrl 8 7 p) (s.ringN p - 1))

/-- MODE of a sweep in the ring's present state. -/
def State.sweepMode (s : State) (r : Ring) : Nat :=
  match r.rstate with
  | 2 => 0
  | 4 => 3
  | _ => if s.pwr.slotB then 2 else 1

/-- The state with the sweep of an epoch of ring p changed. -/
def State.setSweep (s : State) (p epoch : Nat) (f : Sweep → Sweep) : State :=
  s.setRing p fun r => { r with sweeps := r.sweeps.map fun w => if w.epoch = epoch then f w else w }

/-- A position of a sweep is still to be read. -/
def unread (w : Sweep) (pos : Nat) : Bool := (assocGet w.samples pos).isNone && !w.failed.contains pos

/-- The oldest sweep being read. -/
def openSweep (r : Ring) : Option Sweep := r.sweeps.find? fun w => !w.built && !w.partDone

/-- Sends READs for positions of a sweep. -/
def State.sendReads (s : State) (p epoch : Nat) (l : List Nat) : State := l.foldl (fun s pos => s.emit (.slk p (.read pos epoch))) s

/-- The position of a sweep that this end read last: its part runs from end A upward, from end B downward. -/
def lastRead (slotB : Bool) (w : Sweep) : Nat :=
  match w.samples.map (·.1) with
  | [] => 0
  | x :: l => l.foldl (fun m p => if slotB then min m p else max m p) x

/-- STATE to the partner: the stamp of the strobe, the breaks, the last position read, END_OK, the missing of its own part (table HALF_RING
body). -/
def State.sendState (s : State) (p : Nat) : State :=
  let r := s.ring p
  let w := r.sweeps.getLast?
  s.sendWb (.halfState p r.epoch ((w.map (·.angle)).getD s.slk.strobeAng) ((w.map (·.astatus)).getD s.status) r.break1 r.break2
    ((w.map (lastRead s.pwr.slotB)).getD 0) (s.drivesEnd p) ((w.map (·.failed)).getD []))

/-! The sweep record. -/

/-- Where the engine keeps the record of an epoch (R382). -/
def State.sweepAddr (s : State) (p epoch : Nat) : Nat :=
  (s.reg .slkSweepBaseLo).toNat + 2 ^ 32 * (s.reg .slkSweepBaseHi).toNat + 0x40000 * p + 0x4000 * (epoch % 16)

/-- The record enters DRAM and the holder's next manifest (R381, R382). -/
def State.storeSweep (s : State) (p : Nat) (w : Sweep) : State :=
  let b := sweepBytes p (s.ringN p) w
  let a := s.sweepAddr p w.epoch
  let s := if inDram a then { s with mem := Memory.writeN s.mem a b } else s
  s.nameItem ⟨3, p, 0, w.epoch, leField b 56 4⟩ b

/-! COCOON check sweeps (R436 to R438). -/

/-- The ledger of a cell after a check sweep: sweeps with its BLEED bit, changes of the bit, the bit (R437). -/
def ledgerCell (l : List ((Nat × Nat × Nat) × Nat × Nat × Bool)) (key : Nat × Nat × Nat) (b : Bool) :
    List ((Nat × Nat × Nat) × Nat × Nat × Bool) :=
  let old := (assocGet l key).getD (0, 0, b)
  assocSet l key (old.1 + ofBool b, old.2.1 + ofBool (old.2.2 != b), b)

/-- The ledger takes a check sweep: QINT of the strings, BLEED bits of the cells (R437). -/
def State.ledger (s : State) (p : Nat) (w : Sweep) : State :=
  w.samples.foldl (fun s e =>
    match s.ringPos p e.1 with
    | none => s
    | some r =>
      match r.ntype with
      | .shunt =>
        let q := (assocGet s.slk.qintSum r.string).getD 0 + e.2.qint
        { s with slk := { s.slk with qintSum := assocSet s.slk.qintSum r.string q } }
      | .cell =>
        let l := (List.range e.2.cells).foldl (fun l k => ledgerCell l (p, e.1, k) (bitOf e.2.bleed k)) s.slk.bleedCount
        { s with slk := { s.slk with bleedCount := l } }
      | .aux => s) s

/-- The newest sweep record of a ring. -/
def newestBuilt (r : Ring) : Option Sweep := (r.sweeps.filter (·.built)).getLast?

/-- Readings of the cells of string i in the newest sweep records of every ring. -/
def State.stringVolts (s : State) (i : Nat) : List Nat :=
  (List.range 4).flatMap fun p =>
    match newestBuilt (s.ring p) with
    | none => []
    | some w => w.samples.flatMap fun e =>
      match s.ringPos p e.1 with
      | some r => if r.ntype = .cell ∧ r.string = i then e.2.volts.take e.2.cells else []
      | none => []

/-- A protection warn, limit or trip stands. -/
def State.protStands (s : State) : Bool :=
  s.prot.strings.any (fun t => !t.held.isEmpty || t.missLimit || t.missTrip) || !s.prot.auxOn.isEmpty || s.prot.ringWarn != 0
    || s.prot.groups.any fun g => g.tripped && g.firstCause != 11

/-- Cause bits 0 to 6 at a check sweep, `old` the sweep before (table Cocoon wake conditions). -/
def State.wakeCauses (s : State) (w : Sweep) (old : Option Sweep) : Nat :=
  let cells := w.samples.filter fun e => e.2.ntype == .cell
  let volts := cells.flatMap fun e => e.2.volts.take e.2.cells
  let temps := cells.flatMap fun e => e.2.temps
  let vmin := s.fld .slkCkV 0 16
  let vmax := s.fld .slkCkV 16 16
  let tmin := signedOf 16 (s.fld .slkCkT 0 16)
  let tmax := signedOf 16 (s.fld .slkCkT 16 16)
  let wide (i : Nat) : Bool :=
    match s.stringVolts i with
    | [] => false
    | v :: vs => decide (s.fld .slkCkSpread 0 16 < vs.foldl max v - vs.foldl min v)
  let prevMissing := match old with
    | some o => o.missing
    | none => []
  let quiet (x : Sweep) : Bool := x.samples.all fun e => e.2.bleed == 0
  let c0 := volts.any fun v => decide (v < vmin ∨ vmax < v)
  let c1 := (List.range s.cfg.strings.length).any wide
  let c2 := temps.any fun t => decide (t < tmin ∨ tmax < t)
  let c3 := w.samples.any fun e => e.2.ntype == .shunt && decide (s.fld .slkCkSpread 16 16 * 1000 < e.2.current.natAbs)
  let c4 := (w.missing.any prevMissing.contains) || !w.lost.isEmpty || w.break1 != 0
  let c6 := s.bit .slkCkCtrl 12 && quiet w && (match old with
    | some o => quiet o
    | none => false)
  ofBool c0 + 2 * ofBool c1 + 4 * ofBool c2 + 8 * ofBool c3 + 16 * ofBool c4 + 32 * ofBool s.protStands + 64 * ofBool c6

/-- A wake condition holds: the engine asks for the way out of COCOON, with event source 76 + p (R438). -/
def State.askWake (s : State) (p cause : Nat) : State :=
  if cause = 0 ∨ s.sys.mode ≠ .cocoon ∨ s.sys.cocoonWoke then s else (s.wakeCocoon cause).raise (76 + p)

/-- A check sweep: no record goes to DRAM; the ledger and the wake conditions take it (R437, R438). -/
def State.checkSweep (s : State) (p : Nat) (w : Sweep) : State :=
  let old := ((s.ring p).sweeps.filter fun x => x.built && decide (x.epoch ≠ w.epoch)).getLast?
  let s := s.ledger p w
  s.askWake p (s.wakeCauses w old)

/-- The node's history of missing epochs, and whether it is missing now (R450). -/
def missNode (now : Nat) (bad : Bool) (n : Node) : Node :=
  { n with missFrom := if bad && !n.missingRun then now else n.missFrom, missHist := (n.missHist ++ [bad]).drop (n.missHist.length - 63), missingRun := bad }

/-- Builds the sweep record of an epoch: what was not read is MISSING or LOST (R379, R387). -/
def State.buildSweep (s : State) (p epoch : Nat) : State :=
  match (s.ring p).sweeps.find? fun w => w.epoch == epoch with
  | none => s
  | some w =>
    if w.built then s
    else
      let all := posRange 1 (s.ringN p)
      let bad := all.filter fun pos => (assocGet w.samples pos).isNone
      let lost := bad.filter fun pos => (s.node p pos).presence == 2
      let missing := bad.filter fun pos => (s.node p pos).presence != 2
      let w' := { w with built := true, partDone := true, missing := missing, lost := lost,
                         samples := all.filterMap fun pos => (assocGet w.samples pos).map fun x => (pos, x) }
      let s := (s.setSweep p epoch fun _ => w').setRing p fun r =>
        { r with missedN := missing.length, lostN := lost.length, missingSeen := r.missingSeen || !bad.isEmpty,
                 nodes := (numbered 1 r.nodes).map fun e => if e.1 ≤ all.length then missNode s.tb.csr (bad.contains e.1) e.2 else e.2 }
      if s.sys.mode = .cocoon then s.checkSweep p w' else s.storeSweep p w'

/-! Strobes (R373 to R376). -/

/-- Instant of occurrence k of the schedule without its dither (R373). -/
def State.occAt (s : State) (k : Nat) : Nat :=
  let n := max 1 (s.fld .slkCtrl 16 8)
  let c := s.fld .slkCtrl 24 8
  k / n * c * countsPerCycle + s.fld .slkPhase 0 24 + k % n * c * countsPerCycle / n

/-- DITHER_SEQ. -/
def ditherSeq : List Nat := [0, 2, 4, 6, 8, 10, 12, 14, 15, 13, 11, 9, 7, 5, 3, 1]

/-- Dither step of strobe j (R375). -/
def State.ditherStep (s : State) (j : Nat) : Nat := if s.bit .slkCtrl 1 then ditherSeq.getD (j % 16) 0 else 0

/-- The strobe instant of occurrence k with epoch e. -/
def State.strobeAt (s : State) (k e : Nat) : Nat := s.occAt k + s.ditherStep e * s.fld .slkDither 0 20

/-- The last occurrence of the schedule at or before the present angle. -/
def State.lastOcc (s : State) : Nat :=
  let n := max 1 (s.fld .slkCtrl 16 8)
  let c := max 1 (s.fld .slkCtrl 24 8)
  let k := (s.tb.ang - s.fld .slkPhase 0 24) * n / (c * countsPerCycle)
  if s.occAt (k + 1) ≤ s.tb.ang then k + 1 else if s.occAt k ≤ s.tb.ang then k else k - 1

/-- An instant lay strictly within the last advance of the angle clock. -/
def State.jumpedOver (s : State) (x : Nat) : Bool := match s.tb.jump with
  | some (old, new) => decide (old < x ∧ x < new)
  | none => false

/-- LATCH_BASE in counts at the present frequency: how long before its instant a strobe is launched (R370). -/
def State.launchLead (s : State) : Nat := s.fld .slkLatchBase 0 10 * 1000 * 2 ^ 24 * s.tb.freq / 10 ^ 13

/-- The occurrence that the next launch of ring p serves, its epoch, and how many were passed over: a schedule that starts, or starts anew
under a changed setting, begins with the occurrence at hand; the count continues from the journal (R374). -/
def State.nextStrobe (s : State) (p : Nat) : Nat × Nat × Nat :=
  let r := s.ring p
  let now := s.lastOcc
  if r.occ = 0 ∧ r.epoch = 0 then (now, ((assocGet (journalKept s.wb.journal) (keptEpoch p)).getD 0 + 1) % 2 ^ 32, 0)
  else if now + 256 < r.occ then (now, (r.epoch + 1) % 2 ^ 32, 0)
  else
    let e (k : Nat) : Nat := (r.epoch + (k - r.occ)) % 2 ^ 32
    let last := if s.strobeAt now (e now) < s.tb.ang then now else now - 1
    let next := r.occ + 1
    if r.occ < last ∧ (next < last ∨ s.jumpedOver (s.strobeAt next (e next))) then (last, e last, last - r.occ) else (next, e next, 0)

/-- Nodes that this end will read once the parts of R377 return: it measures them first (R388). -/
def State.healPart (s : State) (p : Nat) : List Nat :=
  let w : Sweep := { epoch := 0, angle := 0, astatus := 0, meet := s.meet p,
                     mode := if (s.ring p).partnerEnd then 0 else if s.pwr.slotB then 2 else 1 }
  (partOf s.pwr.slotB (s.ringN p) w).filter fun pos => (s.node p pos).presence == 1 || (s.node p pos).presence == 2

/-- The nodes of a ring that heals are measured and their latch delays written: no echo is due, and no CONFIG_WRITE block 0 is on its way. -/
def healReady (r : Ring) : Bool :=
  let ld (c : NodeCmd) : Bool := c.type == 9 && leField c.body 0 1 == 0
  r.healing && !r.queue.any (fun e => ld e.2) && !r.nodes.any fun n => n.echoDue != 0 || n.cmds.any ld

/-- From the next epoch after that the ends return to the parts of R377 (R388). -/
def State.finishHeal (s : State) (p : Nat) : State :=
  if healReady (s.ring p) = false then s
  else
    (s.setRing p fun r =>
      { r with rstate := if r.partnerEnd then 2 else 3, break1 := 0, break2 := 0, healing := false,
               nodes := r.nodes.map fun (n : Node) => if n.presence = 2 then { n with presence := 1 } else n }).record .ringRestored [p]

/-- Launches a strobe and reads the own part; a sweep still unread is kept to the latch of e + 2 (R376, R377). -/
def State.strobe (s : State) (p k epoch instant skips : Nat) : State :=
  let s := s.finishHeal p
  let r := s.ring p
  let lag := r.sweeps.any fun w => !w.built && !w.partDone
  let s := if lag then (s.setRing p fun r => { r with sweepLag := true }).record .sweepLag [p, r.epoch] else s
  let old := (r.sweeps.filter fun w => !w.built && decide (w.epoch ≠ r.epoch)).map (·.epoch)
  let s := old.foldl (fun s e => s.buildSweep p e) s
  let w : Sweep := { epoch := epoch, angle := instant, astatus := s.statusWith (decide (0 < skips)) false skips, meet := s.meet p, mode := s.sweepMode r,
                     break1 := r.break1, break2 := r.break2 }
  let s := s.setRing p fun r => { r with occ := k, epoch := epoch, sweeps := (r.sweeps ++ [w]).drop (r.sweeps.length - 15) }
  let s := { s with slk := { s.slk with epoch := epoch, strobeAng := instant } }
  let s := s.emit (.slk p (.strobe epoch (s.ditherStep epoch)))
  s.sendReads p epoch (partOf s.pwr.slotB (s.ringN p) w)

/-- STROBE_LAUNCH: the next occurrence of the ring's schedule, LATCH_BASE before its instant, or at once one LATE strobe for those passed over
(R115, R370, R374). -/
def execStrobeLaunch (ring : Nat) (s : State) : Result :=
  let r := s.ring ring
  .next (if ring < 4 ∧ s.drivesEnd ring ∧ s.bit .slkCtrl 0 ∧ started r ∧ s.sys.mode ≠ .cocoon then
    let x := s.nextStrobe ring
    let at_ := s.strobeAt x.1 x.2.1
    if x.2.2 = 0 then (if at_ ≤ s.tb.ang + s.launchLead then s.strobe ring x.1 x.2.1 at_ 0 else s) else s.strobe ring x.1 x.2.1 s.tb.ang x.2.2
  else s)

/-- COCOON_CHECK_SWEEP: the former holder strobes and sweeps the ring once per check interval; MAX_SLEEP_H hours since entry are a wake
condition (R437, table Cocoon wake conditions). -/
def execCocoonCheckSweep (ring : Nat) (hours : Nat) (s : State) : Result :=
  let r := s.ring ring
  let top := s.fld .slkCkCtrl 16 8
  .next (if ring < 4 ∧ s.sys.mode = .cocoon ∧ s.sys.cocoonWoke = false ∧ s.drivesEnd ring ∧ started r then
    let x := s.nextStrobe ring
    let s := s.strobe ring x.1 x.2.1 s.tb.ang 0
    if top ≠ 0 ∧ top ≤ hours then s.askWake ring 128 else s
  else s)

/-- COCOON_WAKE: the engine's wake conditions hold (R438). -/
def execCocoonWake (cause : Nat) (s : State) : Result := .next (s.wakeCocoon (cause % 256))

/-! Breaks (R383 to R388). -/

/-- Positions that a one-ended ring does not reach are LOST (R387). -/
def State.markLost (s : State) (p : Nat) : State :=
  let r := s.ring p
  if r.rstate ≠ 5 then s
  else
    let n := s.ringN p
    let far := if s.pwr.slotB then posRange 1 (firstFromB r.break1 r.break2 - 1) else posRange (lastFromA n r.break1 r.break2 + 1) n
    far.foldl (fun s pos => s.setNode p pos fun x => if x.presence = 1 then { x with presence := 2 } else x) s

/-- The sweep being read follows a change of the ring's state: positions of the own part that no end has read are read now (R384, R386). -/
def State.resplit (s : State) (p : Nat) : State :=
  let r := s.ring p
  match r.sweeps.getLast? with
  | none => s
  | some w =>
    if w.built then s
    else
      let w := { w with mode := s.sweepMode r, break1 := r.break1, break2 := r.break2 }
      let had := partOf s.pwr.slotB (s.ringN p) ((r.sweeps.getLast?).getD w)
      let more := (partOf s.pwr.slotB (s.ringN p) w).filter fun pos => unread w pos && !had.contains pos
      let s := s.setSweep p w.epoch fun _ => { w with partDone := w.partDone && more.isEmpty }
      s.sendReads p w.epoch more

/-- Places a break between positions b - 1 and b; each break is recorded once, with event source 76 + p (R383). -/
def State.placeBreak (s : State) (p b : Nat) (tell : Bool) : State :=
  let r := s.ring p
  if b = 0 ∨ r.break1 = b ∨ r.break2 = b ∨ (r.break1 ≠ 0 ∧ r.break2 ≠ 0) then s
  else
    let s := s.setRing p fun r =>
      { r with healing := false, break1 := if r.break1 = 0 then b else r.break1, break2 := if r.break1 = 0 then 0 else b, breakSeen := true,
               rstate := if r.rstate = 2 then 4 else if r.rstate = 3 then 5 else r.rstate }
    let s := if tell then s.sendState p else s
    (((s.record .ringBreak [p, b]).raise (76 + p)).markLost p).resplit p

/-- The ring runs one-ended (R386). -/
def State.oneEnded (s : State) (p : Nat) : State :=
  let r := s.ring p
  if r.rstate = 2 ∨ r.rstate = 4 then
    let s := (s.setRing p fun r => { r with rstate := if r.rstate = 2 then 3 else 5, partnerEnd := false }).record .ringOneEnded [p, r.epoch]
    (s.markLost p).resplit p
  else s

/-- BREAK_RX: the break beside the position that names its silent side (R383). -/
def execBreakRx (ring pos : Nat) (sideB : Bool) (s : State) : Result :=
  .next (if ring < 4 ∧ s.powered 6 ∧ started (s.ring ring) ∧ 0 < pos ∧ pos ≤ s.ringN ring then
    s.placeBreak ring (if sideB then pos + 1 else pos) true else s)

/-- RING_INPUT_DOWN (R363). -/
def execRingInputDown (ring : Nat) (s : State) : Result := .next (s.setRing ring fun r => { r with carrier := false })

/-- RING_INPUT_UP (R363). -/
def execRingInputUp (ring : Nat) (s : State) : Result := .next (s.setRing ring fun r => { r with carrier := true })

/-- Four ECHOs to each of some positions, to measure their delays (R366). -/
def State.measure (s : State) (p : Nat) (l : List Nat) : State :=
  l.foldl (fun s pos =>
    (List.range 4).foldl (fun s _ => s.emit (.slk p (.echo pos)))
      (s.setNode p pos fun n => { n with rtts := [], echoDue := 4 })) s

/-- Positions this end reads now that answer it. -/
def State.ownPart (s : State) (p : Nat) : List Nat :=
  let r := s.ring p
  let w : Sweep := { epoch := 0, angle := 0, astatus := 0, meet := s.meet p, mode := s.sweepMode r, break1 := r.break1, break2 := r.break2 }
  (partOf s.pwr.slotB (s.ringN p) w).filter fun pos => (s.node p pos).presence == 1

/-- BREAK_HEAL: the nodes are measured again; a partner's end that can drive joins the same way (R388). -/
def execBreakHeal (ring : Nat) (s : State) : Result :=
  let r := s.ring ring
  .next (if ring < 4 ∧ s.drivesEnd ring ∧ r.rstate ≠ 6 ∧ r.rstate ≠ 1 ∧ (3 ≤ r.rstate ∨ r.partnerEnd) then
    (s.setRing ring fun r => { r with healing := true }).measure ring (s.healPart ring)
  else s)

/-! Open sense taps (R398 to R402). -/

/-- The distance of two counts. -/
def apart (a b : Nat) : Nat := (a - b) + (b - a)

/-- A tap becomes suspect unless it is open already. -/
def suspect (n : Node) (j : Nat) : Node :=
  if n.suspects.contains j || bitOf n.openTap j then n else { n with suspects := n.suspects ++ [j] }

/-- The pair-sum check between two consecutive samples (R398): OT_STEP and OT_TOL in mV, cells in 100 µV, STACK in 2 mV. -/
def pairSums (otStep otTol : Nat) (a b : Sample) (n : Node) : Node :=
  let v (x : Sample) (k : Nat) : Nat := x.volts.getD (k - 1) 0
  let c := b.cells
  let calm := decide (apart a.stack b.stack * 2 < otTol)
  (posRange 1 c).foldl (fun n k =>
    if apart (v a k) (v b k) < 10 * otStep ∨ calm = false then n
    else
      let pair (j : Nat) : Bool := decide (apart (v a j + v a (j + 1)) (v b j + v b (j + 1)) < 10 * otTol)
      let n := if 1 < k ∧ pair (k - 1) then suspect n (k - 1) else n
      if k < c ∧ pair k then suspect n k else n) n

/-- The stack check, on three consecutive samples (R399). -/
def stackCheck (b : Sample) (n : Node) : Node :=
  let sum := (b.volts.take b.cells).foldl (· + ·) 0
  if apart sum (20 * b.stack) * 25 ≤ 5000 + b.stack then { n with stackBad := 0 }
  else if n.stackBad + 1 < 3 then { n with stackBad := n.stackBad + 1 }
  else { suspect (suspect n 0) b.cells with stackBad := 0, stackTaps := [0, b.cells] }

/-- The tap checks of a sample. -/
def State.tapChecks (s : State) (x : Sample) (n : Node) : Node :=
  let n := match n.prev with
    | some a => if x.ntype = .cell then pairSums (s.fld .slkTapCfg 16 8) (s.fld .slkTapCfg 24 8) a x n else n
    | none => n
  { (if x.ntype = .cell then stackCheck x n else n) with prev := some x }

/-! The sweep (R377 to R386). -/

/-- A sample of an epoch enters its sweep, the tap checks and the protection plane (R382, R398, R442). -/
def State.takeSample (s : State) (p pos : Nat) (x : Sample) : State :=
  let s := s.setSweep p x.epoch fun w => { w with samples := assocSet w.samples pos x, failed := w.failed.filter (· != pos) }
  let s := s.setNode p pos fun n => { s.tapChecks x n with missingRun := false, presence := 1 }
  s.compareSample p pos x

/-- Two adjacent positions unanswered twice place a break, seen from this end (R383). -/
def State.silentBreak (s : State) (p pos : Nat) (w : Sweep) : State :=
  let r := s.ring p
  let other (q : Nat) : Bool := w.silent.contains q
  if s.pwr.slotB then
    let q := if other (pos + 1) then pos + 1 else if other (pos - 1) then pos else 0
    if q = 0 ∨ q + 1 ≤ max r.break1 r.break2 then s else s.placeBreak p (q + 1) true
  else
    let q := if other (pos - 1) then pos - 1 else if other (pos + 1) then pos else 0
    let b := breakLow r.break1 r.break2
    if q = 0 ∨ (b ≠ 0 ∧ b ≤ q) then s else s.placeBreak p q true

/-- A position's SAMPLE is missing or fails its check: it is read once more, then it has failed (R379). -/
def State.sampleFails (s : State) (p pos : Nat) (silent : Bool) : State :=
  match (s.ring p).sweeps.find? fun w => !w.built && (partOf s.pwr.slotB (s.ringN p) w).contains pos && unread w pos with
  | none => s
  | some w =>
    if !w.once.contains pos then
      let s := s.setSweep p w.epoch fun w => { w with once := w.once ++ [pos] }
      (s.setRing p fun r => { r with rereads := (r.rereads + 1) % 65536 }).sendReads p w.epoch [pos]
    else
      let w := { w with failed := w.failed ++ [pos], silent := if silent then w.silent ++ [pos] else w.silent }
      let s := s.setSweep p w.epoch fun _ => w
      if silent then s.silentBreak p pos w else s

/-- SAMPLE_RX: checked, compared, kept (R379, R368). -/
def execSampleRx (ring pos : Nat) (crcOk : Bool) (smp : Sample) (s : State) : Result :=
  .next (if 4 ≤ ring ∨ s.powered 6 = false ∨ pos = 0 ∨ s.ringN ring < pos then s
    else if !crcOk then
      (s.setRing ring fun r => { r with crcErr := (r.crcErr + 1) % 65536 }).sampleFails ring pos false
    else
      match (s.ring ring).sweeps.find? fun w => w.epoch == smp.epoch && !w.built with
      | none => s
      | some w =>
        if (assocGet w.samples pos).isSome then s
        else if (s.node ring pos).presence = 3 ∨ bitOf smp.nstat 0 then
          s.setSweep ring smp.epoch fun w => { w with failed := if w.failed.contains pos then w.failed else w.failed ++ [pos] }
        else s.takeSample ring pos smp)

/-- SAMPLE_TIMEOUT (R379). -/
def execSampleTimeout (ring pos : Nat) (s : State) : Result :=
  .next (if ring < 4 ∧ s.drivesEnd ring ∧ 0 < pos then s.sampleFails ring pos true else s)

/-- SWEEP_PART_DONE: every position of the part is read or has failed; the samples go to the partner; with both parts, or alone, the record is built (R381). -/
def execSweepPartDone (ring us : Nat) (s : State) : Result :=
  .next (if 4 ≤ ring ∨ s.drivesEnd ring = false then s
    else
      match openSweep (s.ring ring) with
      | none => s
      | some w =>
        let part := partOf s.pwr.slotB (s.ringN ring) w
        if part.any (unread w) then s
        else
        let mine := (posRange 1 (s.ringN ring)).filterMap fun pos =>
          if part.contains pos then (assocGet w.samples pos).map fun x => (pos, x) else none
        let s := (s.setSweep ring w.epoch fun w =>
          { w with partDone := true }).setRing ring fun r => { r with sweepUs := us % 65536 }
        let s := s.sendWb (.halfSamples ring w.epoch w.angle w.astatus mine)
        if w.partnerDone ∨ w.mode = 1 ∨ w.mode = 2 then s.buildSweep ring w.epoch else s)

/-- The partner's half: its samples enter the sweep of the epoch; an end that does not drive builds the whole record from it (R381,
R386). -/
def State.takeHalf (s : State) (p epoch angle astatus : Nat) (l : List (Nat × Sample)) : State :=
  let s := s.setRing p fun r => { r with partnerEnd := true }
  let known := (s.ring p).sweeps.any fun w => w.epoch == epoch
  let drives := s.drivesEnd p && started (s.ring p)
  let r := s.ring p
  let w : Sweep := { epoch := epoch, angle := angle, astatus := astatus, meet := s.meet p, mode := if s.pwr.slotB then 1 else 2,
                     break1 := r.break1, break2 := r.break2, partDone := true }
  let s := if known then s
    else s.setRing p fun r => { r with epoch := if drives then r.epoch else epoch,
                                       sweeps := (r.sweeps ++ [w]).drop (r.sweeps.length - 15) }
  match (s.ring p).sweeps.find? fun w => w.epoch == epoch && !w.built with
  | none => s
  | some w =>
    let new := l.filter fun e => (assocGet w.samples e.1).isNone && e.2.epoch == epoch && decide (0 < e.1 ∧ e.1 ≤ s.ringN p)
      && (s.node p e.1).presence != 3
    let s := new.foldl (fun s e => s.takeSample p e.1 e.2) s
    let s := s.setSweep p epoch fun w => { w with partnerDone := true }
    if w.partDone then s.buildSweep p epoch else s

/-- HALF_RING_RX: samples, state, or a frame to relay, which waits for a command window unless it is an ALARM_ACK (R392, table HALF_RING body);
other kinds are reserved. -/
def execHalfRingRx (crcOk : Bool) (gen : Nat) (b : HalfBody) (s : State) : Result :=
  s.fromPartner crcOk gen fun s =>
    if 4 ≤ b.ring ∨ s.powered 6 = false ∨ s.cfg.manager then s
    else match b.kind with
      | 0 => s.takeHalf b.ring b.epoch b.angle b.astatus b.samples
      | 1 =>
        let s := ((s.setRing b.ring fun r => { r with partnerEnd := b.endOk }).placeBreak b.ring b.break1 false).placeBreak b.ring b.break2 false
        if b.endOk then s else s.oneEnded b.ring
      | 2 =>
        if s.holds ∧ leField b.frame 0 1 = 9 then
          let c : NodeCmd := { type := 9, body := (b.frame.drop 7).take (b.frame.length - 11) }
          s.setRing b.ring fun r => { r with queue := r.queue ++ [(leField b.frame 2 1, c)] }
        else if s.drivesEnd b.ring = false then s
        else if leField b.frame 0 1 = 0x0E then s.emit (.slk b.ring (relayedFrame b.frame))
        else s.setRing b.ring fun r => { r with relays := r.relays ++ [b.frame] }
      | _ => s

/-- The partner's half of a sweep is overdue: 4.0 ms after its strobe instant, or with the partner lost (R386). -/
def State.halfOverdue (s : State) (w : Sweep) : Bool :=
  !w.built && !w.partnerDone && (!s.wbUp || !s.wb.partner.heard || decide (4000000 ≤ countsNs (s.tb.ang - w.angle) s.tb.freq))

/-- HALF_RING_TIMEOUT (R386). -/
def execHalfRingTimeout (ring : Nat) (s : State) : Result :=
  .next (if ring < 4 ∧ s.drivesEnd ring ∧ (s.ring ring).sweeps.any s.halfOverdue then s.oneEnded ring else s)

/-! Commands to nodes (R391 to R395). -/

/-- This end reaches a position. -/
def State.reaches (s : State) (p pos : Nat) : Bool :=
  let r := s.ring p
  s.drivesEnd p && (if s.pwr.slotB then decide (firstFromB r.break1 r.break2 ≤ pos) else decide (pos ≤ lastFromA (s.ringN p) r.break1 r.break2))

/-- Puts a command frame on the ring, or has the partner's end send it (R392). -/
def State.putCmd (s : State) (p pos : Nat) (c : NodeCmd) : State :=
  if s.reaches p pos then s.emit (.slk p (.command c.type pos c.cseq c.gen8 c.body))
  else s.sendWb (.halfRelay p (commandBytes (!s.pwr.slotB) pos c))

/-- Sends a new command: CSEQ counts the commands to the node, GEN8 is the generation's low byte (R393). -/
def State.sendCmd (s : State) (p pos : Nat) (c : NodeCmd) : State :=
  let n := s.node p pos
  let c := { c with cseq := (n.cseq + 1) % 65536, gen8 := s.sendGen % 256, sends := 1 }
  (s.setNode p pos fun n => { n with cseq := c.cseq, cmds := n.cmds ++ [c] }).putCmd p pos c

/-- Queues a command for the next command window. -/
def State.queueCmd (s : State) (p pos : Nat) (c : NodeCmd) : State := s.setRing p fun r => { r with queue := r.queue ++ [(pos, c)] }

/-- Nanoseconds of a command frame of `len` bytes: preamble, SFD, the bytes, EOF and the 16 bit times of IDLE behind it, at 12 Mbit/s (R362,
tables Silkline physical layer and Silkline line symbols). -/
def slkFrameNs (len : Nat) : Nat := ((3 + len) * 8 + 2 + 16) * 250 / 3

/-- Nanoseconds from the start of a command to its latest end: a tap test takes 1 ms at the node and ends 200 µs before the strobe (R400). -/
def NodeCmd.needNs (c : NodeCmd) : Nat := slkFrameNs (11 + c.body.length) + if c.type = 0x0B then 1200000 else 0

/-- Nanoseconds until the next strobe of a ring is launched; none scheduled leaves the window open. -/
def State.windowNs (s : State) (p : Nat) : Option Nat :=
  let x := s.nextStrobe p
  if s.bit .slkCtrl 0 = false ∨ started (s.ring p) = false then none
  else some (countsNs (s.strobeAt x.1 x.2.1 - s.launchLead - s.tb.ang) s.tb.freq)

/-- A command that takes `need` ns fits into what is left of a window. -/
def fits (left : Option Nat) (need : Nat) : Bool := left.all fun n => decide (need ≤ n)

/-- Sends the queued commands whose node awaits no other ACK; one that cannot end before the strobe is not started (R65, R376, table Fixed
arbitration orders). -/
def State.sendQueued (s : State) (p : Nat) (left : Option Nat) : List (Nat × NodeCmd) → State
  | [] => s
  | e :: es =>
    if (s.node p e.1).cmds = [] ∧ fits left e.2.needNs then
      (s.sendCmd p e.1 e.2).sendQueued p (left.map fun n => n - slkFrameNs (11 + e.2.body.length)) es
    else (s.sendQueued p left es).setRing p fun r => { r with queue := e :: r.queue }

/-- The command is still wanted: the work it serves was not aborted. -/
def State.cmdAlive (s : State) (c : NodeCmd) : Bool := match c.work with
  | some w => (s.opOf w).isSome
  | none => true

/-- The end's part of the present sweep is read: the command window is open (R380). -/
def Ring.partRead (r : Ring) : Bool := r.sweeps.all fun w => w.built || w.partDone

/-- Frames of the partner go out on this end (R392). -/
def State.sendRelays (s : State) (p : Nat) : State :=
  if s.drivesEnd p then ((s.ring p).relays.foldl (fun s f => s.emit (.slk p (relayedFrame f))) s).setRing p fun r => { r with relays := [] }
  else s

/-- COMMAND_WINDOW: an end sends what the partner relayed, and the lease holder the queued commands, through the partner where its own end
does not drive or reach the node (R380, R392). -/
def execCommandWindow (ring : Nat) (s : State) : Result :=
  .next (if 4 ≤ ring ∨ s.powered 6 = false ∨ (s.drivesEnd ring ∧ (s.ring ring).partRead = false) then s
    else
      let s := s.sendRelays ring
      if s.holds = false then s
      else
      let q := (s.ring ring).queue.filter fun e => s.cmdAlive e.2
      (s.setRing ring fun r => { r with queue := [] }).sendQueued ring (s.windowNs ring) q)

/-- The body of an ACK, bytes 4 to 19 (table Short frame bodies). -/
def ackBytes (cseq gen8 result : Nat) (readings : List Nat) : List Byte :=
  leBytes 2 cseq ++ leBytes 1 gen8 ++ leBytes 1 result ++ ((List.range 4).flatMap fun i => leBytes 2 (readings.getD i 0)) ++ leBytes 4 0

/-- A completed node command of software; what it writes at ADDR2 is its RESULT's length (R165). -/
def State.finishCmd (s : State) (c : NodeCmd) (status : Nat) (data : List Byte) : State :=
  match c.work with
  | some w =>
    match s.opOf w with
    | some op => s.finish op status data.length data
    | none => s
  | none => s

/-- Outcome of a tap test: 1 open, 2 intact, 0 neither (R401): readings below before, after, above before, after, in 100 µV. -/
def tapOutcome (cells tap : Nat) (r : List Nat) : Nat :=
  let below := apart (r.getD 0 0) (r.getD 1 0)
  let above := apart (r.getD 2 0) (r.getD 3 0)
  let moves := (if 0 < tap then [below] else []) ++ (if tap < cells then [above] else [])
  if moves.all fun m => decide (500 ≤ m) then 1 else if moves.all fun m => decide (m ≤ 50) then 2 else 0

/-- Judges tap j of a node from a test's readings (R401, R402). -/
def State.judgeTap (s : State) (p pos j : Nat) (readings : List Nat) : State :=
  let n := s.node p pos
  let cells := match s.ringPos p pos with
    | some r => r.cells
    | none => 0
  let rest := n.stackTaps.filter (· != j)
  match tapOutcome cells j readings with
  | 1 => (s.setNode p pos fun n => { n with openTap := n.openTap ||| 2 ^ j, suspects := n.suspects.filter (· != j), stackTaps := [],
                                            tapTry := assocDel n.tapTry j }).record .openTap [p, pos, j]
  | 2 =>
    let s := s.setNode p pos fun n =>
      { n with openTap := if bitOf n.openTap j then n.openTap - 2 ^ j else n.openTap, suspects := n.suspects.filter (· != j),
               stackTaps := rest, tapTry := assocDel n.tapTry j }
    if n.stackTaps ≠ [] ∧ rest = [] then s.record .stackDisagree [p, pos] else s
  | _ =>
    let k := (assocGet n.tapTry j).getD 0 + 1
    if k < 3 then s.setNode p pos fun n => { n with tapTry := assocSet n.tapTry j k }
    else (s.setNode p pos fun n => { n with tapTry := assocDel n.tapTry j }).record .tapTestFail [p, pos, j]

/-- Every node has acknowledged its block 1 (R466). -/
def State.block1Pending (s : State) : Bool :=
  s.slk.rings.any fun r => r.nodes.any fun n => n.presence == 1 && !n.block1Ok

/-- What an acknowledged command means to the engine: block 1, a tap test, an alarm. -/
def State.acked (s : State) (p pos : Nat) (c : NodeCmd) (result : Nat) (readings : List Nat) : State :=
  let done : Bool := result == 0 || result == 1
  let present : Bool := match s.prot.set with
    | some x => decide (leField c.body 1 4 = x.setSeq)
    | none => false
  if c.type = 9 ∧ leField c.body 0 1 = 1 ∧ done ∧ present then
    let was := s.block1Pending
    let s := s.setNode p pos fun n => { n with block1Ok := true }
    if was ∧ s.block1Pending = false then s.record .protNodesDone else s
  else if c.type = 0x0B ∧ done then s.judgeTap p pos (leField c.body 0 1) readings
  else if c.type = 0x0E ∧ done then s.setNode p pos fun n => { n with alarmPend := false }
  else s

/-- Every BALANCE frame sent or waiting has been acknowledged (R608). -/
def State.plansAcked (s : State) : Bool :=
  !s.slk.rings.any fun (r : Ring) => r.queue.any (fun (e : Nat × NodeCmd) => e.2.type == 10) || r.nodes.any fun (n : Node) =>
    n.cmds.any fun (c : NodeCmd) => c.type == 10

/-- COCOON entry goes on once every node has acknowledged its plan. -/
def State.cocoonAcked (s : State) : State := if s.sys.cocoonEntering ∧ s.plansAcked then s.cocoonGo else s

/-- NODE_ACK_RX: a valid ACK completes its command (R393). -/
def execNodeAckRx (ring pos cseq gen8 result : Nat) (readings : List Nat) (s : State) : Result :=
  .next (if 4 ≤ ring ∨ pos = 0 then s
    else
      match (s.node ring pos).cmds.find? fun c => c.cseq == cseq && c.gen8 == gen8 with
      | none => s
      | some c =>
        let s := s.setNode ring pos fun n => { n with cmds := n.cmds.filter fun d => decide (d ≠ c) }
        ((s.acked ring pos c result readings).finishCmd c stOk (ackBytes cseq gen8 result readings)).cocoonAcked)

/-- NODE_ACK_TIMEOUT: the same frame again; after three sends NODE_NO_ACK (R394). -/
def execNodeAckTimeout (ring pos : Nat) (s : State) : Result :=
  .next (if 4 ≤ ring ∨ pos = 0 then s
    else
      match (s.node ring pos).cmds with
      | [] => s
      | c :: cs =>
        if c.sends < 3 then
          (s.setNode ring pos fun n => { n with cmds := { c with sends := c.sends + 1 } :: cs }).putCmd ring pos c
        else
          ((s.setNode ring pos fun n => { n with cmds := cs }).record .nodeCmdFail [ring, pos, c.type]).finishCmd c 0x0401 [])

/-! Delays (R366, R372). -/

/-- CONFIG_WRITE block 0: the own end's latch delay; the other is left unchanged. -/
def ldBody (endB : Bool) (ld : Nat) : List Byte :=
  leBytes 1 0 ++ (if endB then leBytes 4 0xFFFFFFFF ++ leBytes 4 ld else leBytes 4 ld ++ leBytes 4 0xFFFFFFFF)

/-- The holder writes a latch delay; another end sends its own over Wingbeat (R366, R388, R392). -/
def State.writeDelay (s : State) (p pos : Nat) (ld : Nat) : State :=
  let c : NodeCmd := { type := 9, body := ldBody s.pwr.slotB ld }
  if s.holds then s.queueCmd p pos c
  else s.sendWb (.halfRelay p (commandBytes s.pwr.slotB pos c))

/-- ECHO_CHECK: one ECHO to the farthest node the end reads, in a command window (R372). -/
def execEchoCheck (ring : Nat) (s : State) : Result :=
  .next (if ring < 4 ∧ s.drivesEnd ring ∧ started (s.ring ring) ∧ (s.ring ring).partRead then
    (match (s.ownPart ring).getLast? with
     | some pos => s.emit (.slk ring (.echo pos))
     | none => s) else s)

/-- LATCH_REMEASURE: every node the end reads. -/
def execLatchRemeasure (ring : Nat) (s : State) : Result :=
  .next (if ring < 4 ∧ s.drivesEnd ring ∧ started (s.ring ring) then s.measure ring (s.ownPart ring) else s)

/-- The operation in flight or accepted that enumerates ring p. -/
def State.enumOp (s : State) (p : Nat) : Option Op :=
  (s.hq.ops ++ s.hq.work).find? fun o => o.engine == 2 && dOpcode o.bytes == 0x10 && o.started && o.done.isNone
    && dInline o.bytes 0 1 == p

/-- Enumeration fails: reason, ENUM_FAIL, event source 76 + p (R367). -/
def State.enumFails (s : State) (p reason : Nat) : State :=
  let s := ((s.setRing p fun r => { r with rstate := 6, enumReason := reason }).record .enumFail [p, reason]).raise (76 + p)
  match s.enumOp p with
  | some o => s.finish o stEngineError reason
  | none => s

/-- ECHO_REPLY_RX: the fourth of a measurement gives D and LD; a check that moved by more than 20 ns has every node measured (R366,
R367, R372). -/
def execEchoReplyRx (ring pos rttNs : Nat) (s : State) : Result :=
  .next (if 4 ≤ ring ∨ pos = 0 ∨ s.drivesEnd ring = false then s
    else
      let n := s.node ring pos
      if n.echoDue = 0 then
        if started (s.ring ring) ∧ 20 < apart rttNs n.lastRtt then s.measure ring (s.ownPart ring) else s
      else
        let l := n.rtts ++ [rttNs]
        let s := s.setNode ring pos fun n => { n with rtts := l, echoDue := n.echoDue - 1, lastRtt := rttNs }
        if n.echoDue ≠ 1 then s
        else
          let d := (l.foldl (fun t r => t + (r - 12000)) 0) / 8
          let base := s.fld .slkLatchBase 0 10 * 1000
          let s := s.setNode ring pos fun n => { n with delay := d }
          if base - 50000 < d then (if (s.ring ring).rstate = 1 then s.enumFails ring 2 else s)
          else s.writeDelay ring pos (base - d))

/-! Enumeration (R366 to R369). -/

/-- ID_RX: checked against the ring table; hop counts from both ends must add up to N + 1 (R367, R368). -/
def execIdRx (ring pos nodeId : Nat) (ntype : NType) (cells hopA hopB : Nat) (s : State) : Result :=
  .next (match s.ringPos ring pos with
    | none => s
    | some r =>
      if s.drivesEnd ring = false then s
      else if (s.ring ring).rstate = 1 ∧ hopA ≠ 0 ∧ hopB ≠ 0 ∧ hopA + hopB ≠ s.ringN ring + 1 then s.enumFails ring 1
      else
        let wrong := r.ntype ≠ ntype ∨ (ntype = .cell ∧ r.cells ≠ cells)
        let s := s.setNode ring pos fun n => { n with presence := if wrong then 3 else 1, idMismatch := decide (r.nodeId ≠ nodeId) }
        if wrong ∨ r.nodeId ≠ nodeId then s.record .nodeMismatch [ring, pos] else s)

/-- The class a node's thresholds come from: its string's; an auxiliary node takes the FILTER of class 0 (notes/assumptions/17.md). -/
def State.nodeClass (s : State) (x : ProtSet) (p pos : Nat) : Option ThrClass :=
  match s.classIn x p pos with
  | some (_, c) => some c
  | none => x.classes[0]?

/-- CONFIG_WRITE block 1 for a node, from the committed set (R463, table CONFIG_WRITE block 1 body), from byte 7 of the frame. -/
def State.block1 (s : State) (x : ProtSet) (p pos : Nat) : Option (List Byte) :=
  match s.nodeClass x p pos, s.ringPos p pos with
  | some c, some r =>
    let u (w : Nat) (v : Int) : List Byte := leBytes w (unsignedOf (8 * w) v)
    let own (t : NType) (v : Int) : Int := if r.ntype = t then v else 0
    let trips := x.aux.filter fun e => e.ring == p && e.pos == pos && e.severity == 3
    let mask := if r.ntype = .aux then trips.foldl (fun n e => n ||| 2 ^ e.input) 0 else 0
    let pol := if r.ntype = .aux then trips.foldl (fun n e => if e.activeOpen then n ||| 2 ^ e.input else n) 0 else 0
    some (leBytes 1 1 ++ leBytes 4 x.setSeq ++ u 2 (own .cell c.ov.trip) ++ u 2 (own .cell c.uv.trip)
      ++ u 2 (own .cell (max c.ov.hyst c.uv.hyst)) ++ u 2 (own .cell c.ot.trip) ++ u 2 (own .cell c.ot.hyst)
      ++ u 4 (own .shunt (100 * c.ocDis.trip)) ++ u 4 (own .shunt (100 * c.ocCh.trip))
      ++ u 4 (own .shunt (100 * max c.ocDis.hyst c.ocCh.hyst)) ++ leBytes 1 c.nodeFilter ++ leBytes 1 0 ++ leBytes 4 mask ++ leBytes 4 pol
      ++ List.replicate 32 0)
  | _, _ => none

/-- Queues block 1 for every node of ring p (R397, R466). -/
def State.queueBlock1 (s : State) (p : Nat) : State :=
  match s.prot.set with
  | none => s
  | some x =>
    ((posRange 1 (s.ringN p)).filter fun pos => (s.node p pos).presence == 1).foldl (fun s pos =>
      match s.block1 x p pos with
      | some b => (s.setNode p pos fun n => { n with block1Ok := false }).queueCmd p pos { type := 9, body := b }
      | none => s) s

/-- Queues block 2 for every node of ring p: COMM_TMO; the spec gives BAL_TMAX no source, a free value. -/
def State.queueBlock2 (s : State) (p : Nat) : State :=
  ((posRange 1 (s.ringN p)).filter fun pos => (s.node p pos).presence == 1).foldl (fun s pos =>
    let b := leBytes 1 2 ++ leBytes 2 (s.fld .slkCommTmo 0 13) ++ leBytes 2 (Config.free s.freeCtr) ++ leBytes 4 0
    (s.queueCmd p pos { type := 9, body := b }).useFree) s

/-- The enumeration's last step: the ring is started, blocks 1 and 2 go to its nodes (table Enumeration from one end). -/
def State.finishEnum (s : State) (op : Op) : State :=
  let p := dInline op.bytes 0 1
  let r := s.ring p
  if r.rstate ≠ 1 then s.finish op stEngineError r.enumReason
  else
    let s := s.setRing p fun r => { r with rstate := if r.partnerEnd then 2 else 3, enumReason := 0 }
    ((s.queueBlock1 p).queueBlock2 p).finish op stOk 0

/-- Outcome SLK_REFUSED. -/
def stSlkRefused : Nat := 0x400

/-- RING_ENUMERATE: steps 1 to 3 of the table; ENUM's hop count at the far end and the answers to ID_READ decide (R367, R369). -/
def execRingEnumerate (w : WorkRef) (hops : Nat) (answered : List Nat) (s : State) : Result :=
  .next (s.engineOp w 2 0x10 fun op s =>
    let p := dInline op.bytes 0 1
    if 4 ≤ p ∨ s.ringN p = 0 then s.finish op stSlkRefused 4
    else if s.drivesEnd p = false then s.finish op stSlkRefused 3
    else if op.started then s
    else
      let n := s.ringN p
      let all := posRange 1 n
      let near := if s.pwr.slotB then all.reverse else all
      let s := (s.setOp w fun o => { o with started := true }).setRing p fun r =>
        { r with rstate := 1, enumReason := 0, break1 := 0, break2 := 0, sweeps := r.sweeps.filter (·.built),
                 nodes := r.nodes.map fun (x : Node) => { x with presence := 0, cmds := [] } }
      let s := s.emit (.slk p (.enum 0 n))
      let s := near.foldl (fun s pos => s.emit (.slk p (.idRead pos))) s
      if hops ≠ n then s.enumFails p 3
      else if !near.all answered.contains then s.enumFails p 4
      else s.measure p near)

/-! Alarms (R389 to R391, R445, R451). -/

/-- ALARM_SYMBOL_RX (R390). -/
def execAlarmSymbolRx (ring : Nat) (s : State) : Result :=
  .next (if ring < 4 ∧ s.powered 6 then
    s.setRing ring fun r => { r with alarmSeen := true, symbolPending := true, symbolAt := s.tb.csr, alarmCount := (r.alarmCount + 1) % 65536 } else s)

/-- The plane's reaction to an ALARM frame: trips of the string by cause, auxiliary entries whose input it names (R445, table Auxiliary
entry). Over-current takes the sign of the last sample's current. -/
def State.planeAlarm (s : State) (ring pos cause channel reading epoch : Nat) : State :=
  match s.setFor ring with
  | none => s
  | some x =>
    s.protStep fun s =>
      let dis := match (s.node ring pos).prev with
        | some a => decide (0 ≤ a.current)
        | none => true
      let s := match s.classAt ring pos with
        | some (i, _) => s.tripCauses i cause ring pos channel epoch reading dis
        | none => s
      if bitOf cause 4 then
        ((numbered 0 x.aux).filter fun e => e.2.ring == ring && e.2.pos == pos && e.2.input == channel).foldl
          (fun s e => s.judgeAux x (s.auxKey ring e.1) e.2 true epoch) s
      else s

/-- ALARM_FRAME_RX: named in SLK_PORT_p_ALARM, judged by the plane, acknowledged at once by the holder, or in COCOON by the end that
drives (R390, R391). -/
def execAlarmFrameRx (ring pos cause channel reading epoch : Nat) (s : State) : Result :=
  .next (if 4 ≤ ring ∨ s.powered 6 = false ∨ pos = 0 ∨ s.ringN ring < pos then s
    else
      let s := s.setRing ring fun r => { r with symbolPending := false, alarmPos := pos % 256, alarmCause := cause % 256 }
      let s := { s with prot := { s.prot with ringWarn := if bitOf s.prot.ringWarn ring then s.prot.ringWarn - 2 ^ ring else s.prot.ringWarn } }
      let s := (s.setNode ring pos fun n => { n with alarmPend := true }).planeAlarm ring pos cause channel reading epoch
      if s.holds ∨ (s.sys.mode = .cocoon ∧ s.drivesEnd ring) then s.sendCmd ring pos { type := 0x0E, body := leBytes 1 0 } else s)

/-- ALARM_UNNAMED: 50 µs after a symbol without its frame, the ring's warn state (R451). -/
def execAlarmUnnamed (ring : Nat) (s : State) : Result :=
  .next (if (s.ring ring).symbolPending ∧ (s.ring ring).symbolAt + usTicks 50 ≤ s.tb.csr then
    let s := s.setRing ring fun r => { r with symbolPending := false }
    ({ s with prot := { s.prot with ringWarn := s.prot.ringWarn ||| 2 ^ ring } }.record .alarmUnnamed [ring]).raise 74
  else s)

/-! Engine commands (R403). -/

/-- The tap a node tests out of turn: a suspect one, or one whose last test left no result (R401, R402). -/
def tapFirst (n : Node) : Option Nat := (n.suspects ++ n.tapTry.map (·.1)).head?

/-- The tap a node tests next: one out of turn, else the next in turn. -/
def tapToTest (cells : Nat) (n : Node) : Nat := (tapFirst n).getD (n.nextTap % (cells + 1))

/-- TAP_TEST_AUTO: one test per present cell node in this command window (R402), each that can end in time (R400). -/
def execTapTestAuto (ring : Nat) (s : State) : Result :=
  .next (if 4 ≤ ring ∨ s.holds = false ∨ s.drivesEnd ring = false ∨ started (s.ring ring) = false ∨ (s.ring ring).partRead = false then s
    else
      let left := s.windowNs ring
      (posRange 1 (s.ringN ring)).foldl (fun s pos =>
      match s.ringPos ring pos with
      | some r =>
        let n := s.node ring pos
        if r.ntype = .cell ∧ n.presence = 1 ∧ n.cmds = [] ∧ fits left (pos * slkFrameNs 12 + 1200000) then
          let j := tapToTest r.cells n
          let s := if (tapFirst n).isNone then s.setNode ring pos fun n => { n with nextTap := (j + 1) % (r.cells + 1) } else s
          s.sendCmd ring pos { type := 0x0B, body := leBytes 1 j }
        else s
      | none => s) s)

/-- Why a command to a node is refused: 3 ring not started, 2 position absent (R403). -/
def State.nodeRefusal (s : State) (p pos : Nat) : Option Nat :=
  if 4 ≤ p ∨ pos = 0 ∨ s.ringN p < pos then some 2
  else if !started (s.ring p) then some 3
  else if (s.node p pos).presence ≠ 1 then some 2
  else none

/-- A body of NODE_CMD has its table's length and values (table CONFIG_WRITE and BALANCE bodies). -/
def cmdBodyOk (type : Nat) (b : List Byte) : Bool :=
  if type = 9 then
    (leField b 0 1 == 0 && decide (b.length = 9)) ||
      (leField b 0 1 == 2 && decide (b.length = 9 ∧ 1 ≤ leField b 1 2 ∧ leField b 1 2 ≤ 7200))
  else decide (type = 10 ∧ b.length = 73)

/-- NODE_CMD (R392, R397, R403). -/
def execNodeCmd (w : WorkRef) (s : State) : Result :=
  .next (s.engineOp w 2 0x11 fun op s =>
    let p := dInline op.bytes 0 1
    let pos := dInline op.bytes 1 1
    let type := dInline op.bytes 2 1
    let b := s.buffer op
    match s.nodeRefusal p pos with
    | some r => s.finish op stSlkRefused r
    | none =>
      if type = 9 ∧ leField b 0 1 = 1 then s.finish op stSlkRefused 1
      else if !cmdBodyOk type b then s.finish op stSlkRefused 4
      else if op.started then s
      else (s.setOp w fun o => { o with started := true }).queueCmd p pos { type := type, body := b, work := some w })

/-- TAP_TEST. -/
def execTapTest (w : WorkRef) (s : State) : Result :=
  .next (s.engineOp w 2 0x13 fun op s =>
    let p := dInline op.bytes 0 1
    let pos := dInline op.bytes 1 1
    let tap := dInline op.bytes 2 1
    match s.nodeRefusal p pos with
    | some r => s.finish op stSlkRefused r
    | none =>
      match s.ringPos p pos with
      | none => s.finish op stSlkRefused 2
      | some r =>
        if r.ntype ≠ .cell ∨ r.cells < tap then s.finish op stSlkRefused 4
        else if op.started then s
        else (s.setOp w fun o => { o with started := true }).queueCmd p pos { type := 0x0B, body := leBytes 1 tap, work := some w })

/-- SWEEP_COPY: NOT_KEPT for an epoch no longer held. -/
def execSweepCopy (w : WorkRef) (s : State) : Result :=
  .next (s.engineOp w 2 0x12 fun op s =>
    let p := dInline op.bytes 0 1
    if 4 ≤ p then s.finish op stSlkRefused 4
    else
      match (s.ring p).sweeps.find? fun x => x.built && x.epoch == dInline op.bytes 4 4 with
      | some x => (s.writeBuf op 0 ((sweepBytes p (s.ringN p) x).take (dLength op.bytes))).finish op stOk 0
      | none => s.finish op 0x402 0)

/-- DIAG_READ: the node's DIAG body at ADDR2. -/
def execDiagRead (w : WorkRef) (body : List Byte) (s : State) : Result :=
  .next (s.engineOp w 2 0x14 fun op s =>
    let p := dInline op.bytes 0 1
    let pos := dInline op.bytes 1 1
    match s.nodeRefusal p pos with
    | some r => s.finish op stSlkRefused r
    | none => (s.emit (.slk p (.diagRead pos))).finish op stOk (body.take 40).length (body.take 40))

/-! Register writes. -/

/-- SLK_CTRL: RING_EN is dropped on a manager (R361). -/
def State.writeSlkCtrl (s : State) (q : Requester) (v : Word) : State :=
  let (t, ok) := s.writeHeld q .slkCtrl 0 0 (if s.cfg.manager then setField v 4 4 0 else v)
  if ok && s.cfg.manager && bitsOf v.toNat 4 4 != 0 then t.refuseWrite q (RegName.slkCtrl.addr 0 0) else t

/-- SLK_DITHER: a unit that brings strobes closer than 8 ms is dropped (R375). -/
def State.writeSlkDither (s : State) (q : Requester) (v : Word) : State :=
  let n := max 1 (s.fld .slkCtrl 16 8)
  let base := s.fld .slkCtrl 24 8 * countsPerCycle / n
  let short := base - 2 * bitsOf v.toNat 0 20
  if short * 1000 < 8 * (if s.bit .angCtrl 4 then 60 else 50) * countsPerCycle then s.refuseWrite q (RegName.slkDither.addr 0 0)
  else (s.writeHeld q .slkDither 0 0 v).1

/-- SLK_PORT_p_CTRL: the partner learns whether this end drives. -/
def State.writeSlkPort (s : State) (q : Requester) (p : Nat) (v : Word) : State :=
  let was := s.drivesEnd p
  let t := (s.writeHeld q .slkPortCtrl p 0 v).1
  if t.drivesEnd p = was then t
  else (if t.drivesEnd p then t else (t.setRing p fun r => { r with rstate := 0 })).sendState p

end Sys2Proof.Machine
end

