-- ==== Sys2Proof/Machine/CellModel.lean ====
section
/-! DEFINITION. The cell model's tables and the UD-factored filters (10_cell_state_estimation_and_balancing.md, R405, R411 to R413). Tables
are read in binary32, first along SOC and then along temperature (notes/assumptions/18.md). -/

namespace Sys2Proof.Machine

/-! Tables (table Cell model block). -/

/-- Word i of a model block. -/
def mW (m : CellModel) (i : Nat) : F32 := m.words.getD i 0

/-- Q_NOM. -/
def mQNom (m : CellModel) : F32 := mW m 1
/-- V_MIN. -/
def mVMin (m : CellModel) : F32 := mW m 2
/-- V_MAX. -/
def mVMax (m : CellModel) : F32 := mW m 3
/-- Z_MIN. -/
def mZMin (m : CellModel) : F32 := mW m 4
/-- Z_MAX. -/
def mZMax (m : CellModel) : F32 := mW m 5
/-- ETA_CH. -/
def mEtaCh (m : CellModel) : F32 := mW m 6
/-- HYST_GAMMA. -/
def mGamma (m : CellModel) : F32 := mW m 7
/-- CC. -/
def mCC (m : CellModel) : F32 := mW m 8
/-- CS. -/
def mCS (m : CellModel) : F32 := mW m 9
/-- RCS. -/
def mRCS (m : CellModel) : F32 := mW m 10
/-- RSA. -/
def mRSA (m : CellModel) : F32 := mW m 11
/-- SIGMA_V. -/
def mSigV (m : CellModel) : F32 := mW m 12
/-- SIGMA_I_REL. -/
def mSigIRel (m : CellModel) : F32 := mW m 13
/-- SIGMA_I_ABS. -/
def mSigIAbs (m : CellModel) : F32 := mW m 14

/-- Word offsets of the axes and tables, and the points of a table's SOC axis. -/
structure TabAt where
  base : Nat
  cols : Nat
  deriving DecidableEq, Repr

/-- OCV. -/
def tOcv : TabAt := ⟨112, 64⟩
/-- HYST_M. -/
def tHyst : TabAt := ⟨1136, 16⟩
/-- RS. -/
def tRs : TabAt := ⟨1392, 16⟩
/-- RP1. -/
def tRp1 : TabAt := ⟨1648, 16⟩
/-- TAU1. -/
def tTau1 : TabAt := ⟨1904, 16⟩
/-- RP2. -/
def tRp2 : TabAt := ⟨2160, 16⟩
/-- TAU2. -/
def tTau2 : TabAt := ⟨2416, 16⟩

/-- Word offset of the SOC axis of a table. -/
def TabAt.axis (t : TabAt) : Nat := if t.cols = 64 then 16 else 80

/-- A segment of an axis: its lower point, its length, and where in it the clamped argument lies (R412). -/
structure Seg where
  i : Nat
  len : F32
  t : F32
  deriving DecidableEq, Repr

/-- The segment of an axis of `n` points from word `off` that holds `x`: the one above a grid point, the last at the top end (R412). -/
def segOf (m : CellModel) (off n : Nat) (x : F32) : Seg :=
  let x := fclamp (mW m off) (mW m (off + n - 1)) x
  let i := (List.range (n - 1)).foldl (fun b k => if fle (mW m (off + k)) x then k else b) 0
  let len := fsub (mW m (off + i + 1)) (mW m (off + i))
  ⟨i, len, fdiv (fsub x (mW m (off + i))) len⟩

/-- a + t (b - a). -/
def flerp (a b t : F32) : F32 := fadd a (fmul t (fsub b a))

/-- The segment of a table's SOC axis. -/
def socSeg (m : CellModel) (t : TabAt) (z : F32) : Seg := segOf m t.axis t.cols z

/-- The segment of the temperature axis. -/
def tempSeg (m : CellModel) (x : F32) : Seg := segOf m 96 16 x

/-- An entry of a table. -/
def tabAt (m : CellModel) (t : TabAt) (row col : Nat) : F32 := mW m (t.base + row * t.cols + col)

/-- A row of a table at a SOC. -/
def rowAt (m : CellModel) (t : TabAt) (row : Nat) (g : Seg) : F32 := flerp (tabAt m t row g.i) (tabAt m t row (g.i + 1)) g.t

/-- The table at (z, T), by bilinear interpolation. -/
def tab (m : CellModel) (t : TabAt) (z x : F32) : F32 :=
  let g := socSeg m t z
  let h := tempSeg m x
  flerp (rowAt m t h.i g) (rowAt m t (h.i + 1) g) h.t

/-- The slope with respect to SOC. -/
def tabDz (m : CellModel) (t : TabAt) (z x : F32) : F32 :=
  let g := socSeg m t z
  let h := tempSeg m x
  let d (row : Nat) : F32 := fsub (tabAt m t row (g.i + 1)) (tabAt m t row g.i)
  fdiv (flerp (d h.i) (d (h.i + 1)) h.t) g.len

/-- The slope with respect to temperature. -/
def tabDt (m : CellModel) (t : TabAt) (z x : F32) : F32 :=
  let g := socSeg m t z
  let h := tempSeg m x
  fdiv (fsub (rowAt m t (h.i + 1) g) (rowAt m t h.i g)) h.len

/-- A current limit over temperature: IMAX_DIS at word 2672, IMAX_CH at word 2688. -/
def imax (m : CellModel) (off : Nat) (x : F32) : F32 :=
  let h := tempSeg m x
  flerp (mW m (off + h.i)) (mW m (off + h.i + 1)) h.t

/-! Validity (R411). -/

/-- Strictly increasing words. -/
def increasing (m : CellModel) (off n : Nat) : Bool := (List.range (n - 1)).all fun k => flt (mW m (off + k)) (mW m (off + k + 1))

/-- Finite and above 0. -/
def positive (x : F32) : Bool := ffinite x && flt 0 x

/-- 1.0. -/
def fOne : F32 := 0x3F800000#32

/-- The first check of R411 that a model fails: 1 axes, 2 OCV rows, 3 figures, 4 thermal products; none when it is valid. -/
def modelFails (m : CellModel) : Option Nat :=
  let axes := increasing m 16 64 && increasing m 80 16 && increasing m 96 16 && feq (mW m 16) 0 && feq (mW m 79) fOne && feq (mW m 80) 0
    && feq (mW m 95) fOne
  let rows := (List.range 16).all fun r => (List.range 63).all fun c => fle (tabAt m tOcv r c) (tabAt m tOcv r (c + 1))
  let figures := ((List.range 1280).all fun k => positive (mW m (1392 + k))) && positive (mQNom m) && positive (mCC m)
    && positive (mCS m) && positive (mRCS m) && positive (mRSA m)
  let twenty := fofInt 20
  let heat := flt twenty (fmul (mCC m) (mRCS m)) && flt twenty (fmul (mCS m) (mRCS m)) && flt twenty (fmul (mCS m) (mRSA m))
  if !axes then some 1 else if !rows then some 2 else if !figures then some 3 else if !heat then some 4 else none

/-! UD factors: sums in binary64, stored in binary32 (R405). -/

/-- Element (i, j) of a matrix. -/
def el (u : List (List F64)) (i j : Nat) : F64 := (u.getD i []).getD j 0

/-- The matrix with element (i, j) set. -/
def setEl (u : List (List F64)) (i j : Nat) (x : F64) : List (List F64) := updAt u i fun r => updAt r j fun _ => x

/-- A sum in binary64, from the left. -/
def dsum (l : List F64) : F64 := l.foldl dadd 0

/-- 1.0 in binary64. -/
def dOne : F64 := 0x3FF0000000000000#64

/-- A matrix of a filter in binary64. -/
def toD (u : List (List F32)) : List (List F64) := u.map fun r => r.map f2d

/-- A matrix rounded to binary32. -/
def toF (u : List (List F64)) : List (List F32) := u.map fun r => r.map d2f

/-- The identity of n rows. -/
def identity (n : Nat) : List (List F32) := (List.range n).map fun i => (List.range n).map fun j => if i = j then fOne else 0

/-- State of the Bierman update: U, D, b, a. -/
structure Bier where
  u : List (List F64)
  d : List F64
  b : List F64
  a : F64
  deriving DecidableEq, Repr

/-- Step j of the Bierman update. -/
def bierStep (f g : List F64) (s : Bier) (j : Nat) : Bier :=
  let fj := f.getD j 0
  let gj := g.getD j 0
  let a := dadd s.a (dmul fj gj)
  let d := updAt s.d j fun x => ddiv (dmul x s.a) a
  let b := updAt s.b j fun _ => gj
  let lam := ddiv (fj ^^^ 0x8000000000000000#64) s.a
  (List.range j).foldl (fun (s : Bier) i =>
    let uij := el s.u i j
    let bi := s.b.getD i 0
    { s with u := setEl s.u i j (dadd uij (dmul bi lam)), b := updAt s.b i fun x => dadd x (dmul uij gj) })
    { u := s.u, d := d, b := b, a := a }

/-- The scalar measurement update: new factors, gain, and hr P hrᵀ + r. -/
def bierman (u : List (List F32)) (d : List F32) (hr : List F32) (r : F32) : List (List F32) × List F32 × List F32 × F32 :=
  let n := d.length
  let ud := toD u
  let dd := d.map f2d
  let h := hr.map f2d
  let f := (List.range n).map fun j => dsum ((List.range (j + 1)).map fun i => dmul (el ud i j) (h.getD i 0))
  let g := (List.range n).map fun j => dmul (dd.getD j 0) (f.getD j 0)
  let s := (List.range n).foldl (bierStep f g) { u := ud, d := dd, b := List.replicate n 0, a := f2d r }
  (toF s.u, s.d.map d2f, s.b.map fun x => d2f (ddiv x s.a), d2f s.a)

/-- Step j of the Thornton update on (u, d, w), with dt_ the joint diagonal. -/
def thornStep (dt : List F64) (s : List (List F64) × List F64 × List (List F64)) (j : Nat) :
    List (List F64) × List F64 × List (List F64) :=
  let wj := s.2.2.getD j []
  let k := List.range dt.length
  let dj := dsum (k.map fun k => dmul (dmul (wj.getD k 0) (wj.getD k 0)) (dt.getD k 0))
  let d := updAt s.2.1 j fun _ => dj
  (List.range j).foldl (fun s i =>
    let wi := s.2.2.getD i []
    let uij := ddiv (dsum (k.map fun k => dmul (dmul (wi.getD k 0) (dt.getD k 0)) (wj.getD k 0))) dj
    (setEl s.1 i j uij, s.2.1,
     updAt s.2.2 i fun _ => k.map fun k => dadd (wi.getD k 0) (dmul uij (wj.getD k 0) ^^^ 0x8000000000000000#64)))
    (s.1, d, s.2.2)

/-- The time update p' = phi p phiᵀ + qd for a diagonal phi. -/
def thornton (u : List (List F32)) (d phi qd : List F32) : List (List F32) × List F32 :=
  let n := d.length
  let ud := toD u
  let w := (List.range n).map fun i =>
    ((List.range n).map fun j => dmul (f2d (phi.getD i 0)) (el ud i j)) ++ ((List.range n).map fun j => if i = j then dOne else 0)
  let s := (List.range n).reverse.foldl (thornStep (d.map f2d ++ qd.map f2d)) (ud, d.map f2d, w)
  (toF s.1, s.2.1.map d2f)

/-- The variance of the first state: d1 + Σ u1j² dj. -/
def firstVar (u : List (List F32)) (d : List F32) : F32 :=
  d2f (dsum ((List.range d.length).map fun j =>
    let x := if j = 0 then dOne else f2d ((u.getD 0 []).getD j 0)
    dmul (dmul x x) (f2d (d.getD j 0))))

/-- σ_z of a cell. -/
def cellSigma (c : Cell) : F32 := fsqrt (firstVar c.u c.d)

end Sys2Proof.Machine
end

