-- ==== Sys2Proof/Machine/Estimator.lean ====
section
/-! DEFINITION. The cell-state estimator, its results, history, balancing plans and commands
(10_cell_state_estimation_and_balancing.md, R404 to R441). -/

namespace Sys2Proof.Machine

/-! Inputs of a strobe update. -/

/-- FNOM in Hz. -/
def State.fnom (s : State) : Nat := if s.bit .angCtrl 4 then 60 else 50

/-- Nominal strobe interval in µs. -/
def State.nominalUs (s : State) : Nat := s.fld .slkCtrl 24 8 * 1000000 / (max 1 (s.fld .slkCtrl 16 8) * s.fnom)

/-- Nominal strobe interval in s. -/
def State.nominalDt (s : State) : F32 := fratio (Int.ofNat (s.fld .slkCtrl 24 8)) (Int.ofNat (max 1 (s.fld .slkCtrl 16 8) * s.fnom))

/-- The bleed pause t_p: LATCH_BASE + 10 µs (R409). -/
def State.bleedPause (s : State) : F32 := fratio (Int.ofNat (s.fld .slkLatchBase 0 10 + 10)) 1000000

/-- A model of the configuration. -/
def State.model (s : State) (i : Nat) : CellModel := s.cfg.models.getD i ⟨[]⟩

/-- What a string's shunt node gives an epoch: current, charge, interval; without its sample R410. -/
structure StrIn where
  ok : Bool
  i : F32
  q : F32
  dt : F32
  us : Nat
  deriving DecidableEq, Repr

/-- The sample of a position in an epoch's sweep record. -/
def State.sampleAt (s : State) (p pos epoch : Nat) : Option Sample :=
  match (s.ring p).sweeps.find? fun w => w.epoch == epoch with
  | some w => assocGet w.samples pos
  | none => none

/-- The current of string i in an epoch (R409, R410). -/
def State.strIn (s : State) (i epoch : Nat) : StrIn :=
  let at_ := s.cfg.strings.getD i (0, 0)
  match s.sampleAt at_.1 at_.2 epoch with
  | some x => ⟨true, fratio x.current 1000, fratio x.qint 1000, fratio (Int.ofNat x.dt) 1000000, x.dt⟩
  | none =>
    let l := (assocGet s.est.lastQ i).getD 0
    ⟨false, l, fmul l s.nominalDt, s.nominalDt, s.nominalUs⟩

/-- A cell reading in V from 100 µV. -/
def volts (v : Nat) : F32 := fratio (Int.ofNat v) 10000

/-- A measurement of a cell: y, r, whether it was read normally (table Measurement by cell condition). -/
structure Meas where
  y : F32
  r : F32
  normal : Bool
  deriving DecidableEq, Repr

/-- The measurement a node's sample gives its cell k, counted from 0; none where the shunt is missing. -/
def State.measOf (s : State) (m : CellModel) (c : Cell) (x : Sample) (ok : Bool) : Option Meas :=
  if !ok then none
  else
    let n := s.node c.ring c.pos
    let k := c.k + 1
    let sv2 := fmul (mSigV m) (mSigV m)
    let y := fratio (cellReading2 n x k) 20000
    let inner := (decide (1 < k) && badTap n (k - 1)) || (decide (k < x.cells) && badTap n k)
    let ends := (k == 1 && badTap n 0) || (k == x.cells && badTap n x.cells)
    if inner then
      let e := fratio 2 100
      some ⟨y, fadd sv2 (fmul e e), false⟩
    else if ends then
      let e := fadd (fratio 5 100) (fmul (fratio 1 1000) (fratio (Int.ofNat (2 * x.stack)) 1000))
      some ⟨y, fadd sv2 (fmul e e), false⟩
    else some ⟨y, sv2, true⟩

/-! The fast filter (R413). -/

/-- Constants of the filter from its registers. -/
structure EstK where
  qv : F32
  qh : F32
  infl : F32
  deriving DecidableEq, Repr

/-- The filter's constants. -/
def State.estK (s : State) : EstK := ⟨s.reg .estQV, s.reg .estQH, s.reg .estMissInfl⟩

/-- z of a cell. -/
def cz (c : Cell) : F32 := c.x.getD 0 0
/-- v1. -/
def cv1 (c : Cell) : F32 := c.x.getD 1 0
/-- v2. -/
def cv2 (c : Cell) : F32 := c.x.getD 2 0
/-- h. -/
def ch (c : Cell) : F32 := c.x.getD 3 0
/-- g_R. -/
def cgr (c : Cell) : F32 := c.th.getD 0 0
/-- Q in Ah. -/
def cq (c : Cell) : F32 := c.th.getD 1 0

/-- 3600. -/
def f3600 : F32 := fofInt 3600

/-- The sign of a value: 1, -1 or 0. -/
def fsign (x : F32) : F32 := if flt 0 x then fOne else if flt x 0 then fneg fOne else 0

/-- OCV + M h - v1 - v2 of a cell at its state. -/
def openVolt (m : CellModel) (c : Cell) : F32 :=
  fsub (fsub (fadd (tab m tOcv (cz c) c.tc) (fmul (tab m tHyst (cz c) c.tc) (ch c))) (cv1 c)) (cv2 c)

/-- The time update: mean current, and p1 and p2 as read at the prior z. `inflZ` raises the SOC noise alone (R410), `infl` all. -/
def timeUpdate (k : EstK) (m : CellModel) (q dt infl inflZ : F32) (c : Cell) : Cell × F32 × F32 × F32 :=
  let z := cz c
  let a1 := tab m tTau1 z c.tc
  let a2 := tab m tTau2 z c.tc
  let p1 := fmul (cgr c) (tab m tRp1 z c.tc)
  let p2 := fmul (cgr c) (tab m tRp2 z c.tc)
  let e1 := Config.expF32 (fdiv (fneg dt) a1)
  let e2 := Config.expF32 (fdiv (fneg dt) a2)
  let eta := if fle 0 q then fOne else mEtaCh m
  let ib := fdiv q dt
  let as := fmul f3600 (cq c)
  let eh := Config.expF32 (fdiv (fmul (fneg (mGamma m)) (fabs (fmul eta q))) as)
  let z' := fsub z (fdiv (fmul eta q) as)
  let v1 := fadd (fmul e1 (cv1 c)) (fmul (fmul p1 (fsub fOne e1)) ib)
  let v2 := fadd (fmul e2 (cv2 c)) (fmul (fmul p2 (fsub fOne e2)) ib)
  let h := fsub (fmul eh (ch c)) (fmul (fsub fOne eh) (fsign q))
  let n := fdiv (fadd (fmul (mSigIRel m) (fabs q)) (fmul (mSigIAbs m) dt)) as
  let qz := fmul (fmul n n) inflZ
  let qv := fmul k.qv dt
  let f := thornton c.u c.d [fOne, e1, e2, eh] [fmul infl qz, fmul infl qv, fmul infl qv, fmul infl (fmul k.qh dt)]
  ({ c with x := [z', v1, v2, h], u := f.1, d := f.2 }, ib, p1, p2)

/-- The measurement update with the cell current `i`: the cell, the SOC correction, the normalised innovation squared. -/
def measUpdate (m : CellModel) (y r i : F32) (c : Cell) : Cell × F32 × F32 :=
  let z := cz c
  let h := ch c
  let hm := tab m tHyst z c.tc
  let yp := fsub (openVolt m c) (fmul (fmul (cgr c) (tab m tRs z c.tc)) i)
  let hr := [fadd (tabDz m tOcv z c.tc) (fmul h (tabDz m tHyst z c.tc)), fneg fOne, fneg fOne, hm]
  let (u, d, k, a) := bierman c.u c.d hr r
  let inn := fsub y yp
  let x := (List.range 4).map fun j => fadd (c.x.getD j 0) (fmul (k.getD j 0) inn)
  let x := [fclamp 0 fOne (x.getD 0 0), x.getD 1 0, x.getD 2 0, fclamp (fneg fOne) fOne (x.getD 3 0)]
  ({ c with x := x, u := u, d := d }, fmul (k.getD 0 0) inn, fdiv (fmul inn inn) a)

/-- The thermal nodes (R423). -/
def thermal (m : CellModel) (ib dt : F32) (c : Cell) : Cell :=
  let z := cz c
  let ocv := tab m tOcv z c.tc
  let vp := fsub (openVolt m c) (fmul (fmul (cgr c) (tab m tRs z c.tc)) ib)
  let heat := fsub (fmul ib (fsub ocv vp)) (fmul (fmul ib (fadd c.tc (fratio 27315 100))) (tabDt m tOcv z c.tc))
  let flow := fdiv (fsub c.tc c.ts) (mRCS m)
  let tc := fadd c.tc (fdiv (fmul dt (fsub heat flow)) (mCC m))
  let ts := fadd c.ts (fdiv (fmul dt (fsub flow (fdiv (fsub c.ts c.tm) (mRSA m)))) (mCS m))
  { c with tc := tc, ts := ts, heat := heat }

/-- A cell's limits at a horizon (R424): discharge current, power, end voltage terms; the same in charge. -/
structure Lim where
  iDis : F32
  pDis : F32
  endDis : F32 × F32
  iCh : F32
  pCh : F32
  endCh : F32 × F32
  deriving DecidableEq, Repr

/-- The limits of a cell at horizon `hz` (R424). -/
def cellLimits (m : CellModel) (ls p1 p2 hz : F32) (c : Cell) : Lim :=
  let gr := cgr c
  let qc := cq c
  let tc := c.tc
  let sz := cellSigma c
  let zb := fsub (cz c) (fmul ls sz)
  let ea := Config.expF32 (fdiv (fneg hz) (tab m tTau1 zb tc))
  let eb := Config.expF32 (fdiv (fneg hz) (tab m tTau2 zb tc))
  let den := fadd (fadd (fadd (fmul gr (tab m tRs zb tc)) (fmul p1 (fsub fOne ea))) (fmul p2 (fsub fOne eb)))
    (fdiv (fmul (tabDz m tOcv zb tc) hz) (fmul f3600 qc))
  let num := fsub (fsub (fsub (fsub (tab m tOcv zb tc) (tab m tHyst zb tc)) (fmul (cv1 c) ea)) (fmul (cv2 c) eb)) (mVMin m)
  let idis := fmax 0 (fmin (fmin (if flt 0 den then fdiv num den else 0)
    (fdiv (fmul (fmul (fsub zb (mZMin m)) f3600) qc) hz)) (imax m 2672 tc))
  let pdis := fmul idis (fsub (fadd (mVMin m) num) (fmul den idis))
  let zc := fadd (cz c) (fmul ls sz)
  let dch := fadd (fadd (fadd (fmul gr (tab m tRs zc tc)) (fmul p1 (fsub fOne ea))) (fmul p2 (fsub fOne eb)))
    (fdiv (fmul (fmul (mEtaCh m) (tabDz m tOcv zc tc)) hz) (fmul f3600 qc))
  let nch := fadd (fadd (fsub (fsub (mVMax m) (tab m tOcv zc tc)) (tab m tHyst zc tc)) (fmul (cv1 c) ea)) (fmul (cv2 c) eb)
  let ich := fmax 0 (fmin (fmin (if flt 0 dch then fdiv nch dch else 0)
    (fdiv (fmul (fmul (fsub (mZMax m) zc) f3600) qc) (fmul (mEtaCh m) hz))) (imax m 2688 tc))
  let pch := fmul ich (fadd (fsub (mVMax m) nch) (fmul dch ich))
  ⟨idis, pdis, (num, den), ich, pch, (nch, dch)⟩

/-! Initialisation (R417, R419). -/

/-- The smallest z at which OCV(z, T) reaches v, by halving [0, 1]; within 10^-5 of it (notes/assumptions/18.md). -/
def invOcvGo (m : CellModel) (tc v : F32) : Nat → F32 → F32 → F32
  | 0, _, hi => hi
  | k + 1, lo, hi =>
    let mid := fmul (fadd lo hi) (fratio 1 2)
    if fle v (tab m tOcv mid tc) then invOcvGo m tc v k lo mid else invOcvGo m tc v k mid hi

/-- The same, clamped to [0, 1]. -/
def invOcv (m : CellModel) (tc v : F32) : F32 := if fle v (tab m tOcv 0 tc) then 0 else invOcvGo m tc v 18 0 fOne

/-- A square. -/
def sq (x : F32) : F32 := fmul x x

/-- θ and its factors at first start and after CELL_RESET SUBOP 1. -/
def initTheta (m : CellModel) (c : Cell) : Cell :=
  { c with th := [fOne, mQNom m], tu := identity 2, td := [sq (fratio 2 10), sq (fmul (fratio 5 100) (mQNom m))] }

/-- The fast states (R417): at rest from the latched voltage. -/
def initFast (m : CellModel) (c : Cell) (v : Option F32) (rest : Bool) : Cell :=
  let z := match rest, v with
    | true, some v => invOcv m c.tm v
    | _, _ => fratio 1 2
  let slope := fabs (tabDz m tOcv z c.tm)
  let top := fratio 3 10
  let sz := if rest && v.isSome then
      (if feq slope 0 then top
       else fmin top (fmax (fratio 2 100) (fdiv (fadd (tab m tHyst z c.tm) (mSigV m)) slope)))
    else top
  { c with x := [z, 0, 0, 0], u := identity 4, d := [sq sz, sq (fratio 2 100), sq (fratio 2 100), sq (fratio 6 10)],
           tc := c.tm, ts := c.tm, started := true, sumInit := true, prevNormal := false }

/-! The strobe update of a cell. -/

/-- The sensor temperature: the channel, its last value for 10 s, then the mean of the node's other channels (R423). -/
def sensorTemp (x : Option Sample) (us : Nat) (c : Cell) : Cell :=
  let l := match x with
    | some x => x.temps
    | none => []
  match l[c.tempCh]? with
  | some t => { c with tm := fratio t 100, tempLost := 0, tempSub := false }
  | none =>
    let lost := c.tempLost + us
    if lost ≤ 10000000 then { c with tempLost := lost }
    else if l = [] then { c with tempLost := lost, tempSub := true }
    else { c with tempLost := lost, tempSub := true, tm := fdiv (fsum (l.map fun t => fratio t 100)) (fofInt (Int.ofNat l.length)) }

/-- What the ledger of a COCOON gives a cell (R437, R439). -/
structure Slept where
  dt : F32
  qint : F32
  count : Nat
  changes : Nat
  interval : F32
  deriving DecidableEq, Repr

/-- The ledger's figures for a cell. -/
def State.slept (s : State) (c : Cell) : Slept :=
  let b := (assocGet s.slk.bleedCount (c.ring, c.pos, c.k)).getD (0, 0, false)
  { dt := fratio (Int.ofNat (s.tb.csr - s.est.lastCsr.getD c.ring 0)) 100000000, qint := fratio ((assocGet s.slk.qintSum c.string).getD 0) 1000,
    count := b.1, changes := b.2.1, interval := fofInt (Int.ofNat (s.fld .slkCkCtrl 0 12)) }

/-- SOC variance of a bleed change: ((interval V / R) / (3600 Q))² for each (R439). -/
def growVar (c : Cell) (sl : Slept) (ib0 : F32) : Cell :=
  let v := sq (fdiv (fmul sl.interval ib0) (fmul f3600 (cq c)))
  match c.d with
  | d1 :: ds => { c with d := fadd d1 (fmul (fofInt (Int.ofNat sl.changes)) v) :: ds }
  | [] => c

/-- The accumulators of the interval and of the lifetime record take an update. -/
def accumulate (c : Cell) (v : Option Nat) (ib0 tp q eta dt : F32) (us : Nat) (bled : Bool)
    (me : Option Meas) (missing : Bool) : Cell :=
  let bc := if bled then (ftoInt (fmul (fmul ib0 (fsub dt tp)) (fofInt 1000))).natAbs else 0
  let mc := (ftoInt (fmul q (fofInt 1000))).natAbs
  let dis := fle 0 q
  let t := ftoInt (fmul c.tc (fofInt 100))
  let hour := if t < 0 then 0 else if t < 3500 then 1 else if t < 4500 then 2 else 3
  { c with sumN := c.sumN + 1, sumMiss := c.sumMiss + ofBool missing, sumBleed := c.sumBleed + (if bled then us else 0),
           sumMeas := c.sumMeas + ofBool me.isSome, sumRead := c.sumRead + ofBool v.isSome, sumUs := c.sumUs + us,
           sumHours := updAt c.sumHours hour fun h => h + us, socSum := fadd c.socSum (cz c), tsSum := fadd c.tsSum c.ts,
           vMin := match v with
             | some w => min c.vMin w
             | none => c.vMin,
           vMax := match v with
             | some w => max c.vMax w
             | none => c.vMax,
           tcMax := if c.sumN = 0 then c.tc else fmax c.tcMax c.tc, thru := fadd c.thru (fabs q),
           disThru := c.disThru + (if dis then mc else 0), chThru := c.chThru + (if dis then 0 else mc), bleedMc := c.bleedMc + bc,
           winP := fadd c.winP (fmul eta q) }

/-- The states and factors are finite, D above 0 (R414). -/
def soundCell (c : Cell) : Bool := c.x.all ffinite && c.d.all positive

/-- The Rs pair of two consecutive epochs that were measured normally (R420): predictions before the measurement of the second. -/
def rsPair (m : CellModel) (di : F32) (pred y i : F32) (epoch : Nat) (c : Cell) : Cell :=
  let dI := fsub i c.prevI
  if c.prevNormal ∧ (c.prevEpoch + 1) % 2 ^ 32 = epoch ∧ fle di (fabs dI) then
    let dy := fsub (fsub y c.prevY) (fsub pred c.prevPred)
    let k := fmul (tab m tRs (cz c) c.tc) dI
    { c with sAcc := fadd c.sAcc (fmul (fneg k) dy), wAcc := fadd c.wAcc (fmul k k) }
  else c

/-- The strobe update of one cell (R409 to R424): the new cell, and whether it was initialised again under R414. -/
def State.updateCell (s : State) (epoch : Nat) (free : F32) (cocoon : Bool) (c : Cell) : Cell × Bool :=
  let m := s.model c.model
  let st := s.strIn c.string epoch
  let x := s.sampleAt c.ring c.pos epoch
  let v := x.map fun x => x.volts.getD c.k 0
  let vF := v.map volts
  let fresh := c.started = false && x.isNone
  let c := sensorTemp x st.us c
  let c := if fresh then { c with tm := free } else c
  let atRest := st.ok && fle (fabs st.i) (fratio (Int.ofNat (s.fld .estRest 0 16)) 10)
  let c := { c with restUs := if atRest then c.restUs + st.us else if st.ok then 0 else c.restUs }
  let rest := decide (s.fld .estRest 16 16 * 1000000 ≤ c.restUs) && atRest
  let c := if c.th.length = 2 ∧ c.tu ≠ [] then c else initTheta m c
  let c := if c.started then c else initFast m c vF rest
  let bled := match x with
    | some x => bitOf x.bleed c.k
    | none => false
  let ib0 := match vF with
    | some w => if bled then fdiv w c.rBleed else 0
    | none => 0
  let vr := match vF with
    | some w => fdiv w c.rBleed
    | none => 0
  let sl := s.slept c
  let dt := if cocoon then sl.dt else st.dt
  let us := if cocoon then (s.tb.csr - s.est.lastCsr.getD c.ring 0) / 100 else st.us
  let q := if cocoon then fadd sl.qint (fmul (fmul (fofInt (Int.ofNat sl.count)) sl.interval) vr)
    else if st.ok then fadd st.q (fmul ib0 (fsub dt s.bleedPause)) else st.q
  let i := fadd st.i ib0
  let missing := x.isNone
  let k := s.estK
  let infl := if missing then k.infl else fOne
  let inflZ := if !missing && !st.ok then k.infl else fOne
  let (c1, ib, p1, p2) := timeUpdate k m q dt infl inflZ c
  let c1 := if cocoon then growVar c1 sl vr else c1
  let me := match x with
    | some x => s.measOf m c x st.ok
    | none => none
  let c2 := match me with
    | some e =>
      let c1 := if e.normal then rsPair m (s.reg .estRsDi) (openVolt m c1) e.y i epoch c1 else c1
      let (c2, dz, nis) := measUpdate m e.y e.r i c1
      { c2 with corr := fadd c2.corr dz, nisSum := fadd c2.nisSum nis, nisN := c2.nisN + 1, vUsed := e.y, noMeasUs := 0,
                prevNormal := e.normal, prevEpoch := epoch, prevY := e.y, prevI := i, prevPred := openVolt m c2 }
    | none => { c1 with vUsed := 0, noMeasUs := c1.noMeasUs + us, prevNormal := false }
  let bad := !soundCell c2
  let c3 := if bad then { initFast m c2 vF rest with reinit := true } else { thermal m ib dt c2 with reinit := false }
  let p1 := if bad then fmul (cgr c3) (tab m tRp1 (cz c3) c3.tc) else p1
  let p2 := if bad then fmul (cgr c3) (tab m tRp2 (cz c3) c3.tc) else p2
  let ls := fratio (Int.ofNat (s.fld .estCtrl 16 8)) 10
  let l10 := cellLimits m ls p1 p2 (fofInt 10) c3
  let l60 := cellLimits m ls p1 p2 (fofInt 60) c3
  let n := s.node c.ring c.pos
  let eta := if fle 0 q then fOne else mEtaCh m
  let c4 := { c3 with measured := me.isSome, missing := missing, lost := missing && n.presence == 2,
                      tap := badTap n c.k || badTap n (c.k + 1),
                      pDis10 := l10.pDis, pDis60 := l60.pDis, pCh10 := l10.pCh, pCh60 := l60.pCh,
                      iDis10 := l10.iDis, iDis60 := l60.iDis, iCh10 := l10.iCh, iCh60 := l60.iCh,
                      endD10 := l10.endDis, endD60 := l60.endDis, endC10 := l10.endCh, endC60 := l60.endCh }
  (accumulate c4 v ib0 s.bleedPause q eta dt us bled me missing, bad)

/-! Results (R431). -/

/-- RS_REF: g_R RS(0.5, 25 °C). -/
def rsRef (m : CellModel) (c : Cell) : F32 := fmul (cgr c) (tab m tRs (fratio 1 2) (fofInt 25))

/-- The 64-byte result record of a cell. -/
def State.cellRecord (s : State) (c : Cell) (epoch : Nat) : List Byte :=
  let m := s.model c.model
  let f (x : F32) : List Byte := leBytes 4 x.toNat
  let flags := ofBool c.measured + 2 * ofBool (c.missing && !c.lost) + 4 * ofBool c.lost + 8 * ofBool c.tap + 16 * ofBool c.reinit
    + 32 * ofBool c.anomaly + 64 * ofBool c.leakSuspect + 128 * ofBool c.limitZero
  let leak := match c.leak with
    | some x => x
    | none => BitVec.ofNat 32 b32.nanWord
  leBytes 4 epoch ++ leBytes 1 flags ++ leBytes 1 c.model ++ leBytes 1 (ofBool c.tempSub) ++ leBytes 1 0 ++ f (cz c) ++ f (cellSigma c)
    ++ f c.vUsed ++ f (fmul (cgr c) (tab m tRs (cz c) c.tc)) ++ f (cq c) ++ f c.tc ++ f c.ts ++ f c.pDis10 ++ f c.pDis60 ++ f c.pCh10
    ++ f c.pCh60 ++ f leak ++ f c.heat ++ f (rsRef m c)

/-- A cell's records of its two banks, the one of the epoch's parity new (R431). -/
def putRec (l : List (Nat × List Byte)) (epoch : Nat) (b : List Byte) : List (Nat × List Byte) :=
  (l.filter fun e => e.1 % 2 != epoch % 2) ++ [(epoch, b)]

/-- Writes the result records of a ring's cells to the epoch's bank (R431). -/
def State.writeResults (s : State) (p epoch : Nat) : State :=
  let base := (s.reg .estResultBaseLo).toNat + 2 ^ 32 * (s.reg .estResultBaseHi).toNat + 0x90000 * (epoch % 2)
  let cells := s.est.cells.map fun c => if c.ring = p then { c with recs := putRec c.recs epoch (s.cellRecord c epoch) } else c
  let t := { s with est := { s.est with cells := cells } }
  if !inDram base then t
  else (numbered 0 s.est.cells).foldl (fun t e =>
    if e.2.ring = p then { t with mem := Memory.writeN t.mem (base + 64 * e.1) (s.cellRecord e.2 epoch) } else t) t

/-- The result record of a cell for an epoch, as its bank holds it; of its present state where no bank has one. -/
def State.readRecord (s : State) (epoch : Nat) (c : Cell) : List Byte := (assocGet c.recs epoch).getD (s.cellRecord c epoch)

/-! Start and strobe update of a ring. -/

/-- The cells of the ring table, in ring, position and cell order. -/
def cellsOf (t : List (List RingPos)) : List Cell :=
  (numbered 0 t).flatMap fun r => (numbered 1 r.2).flatMap fun e =>
    if e.2.ntype = .cell then (List.range e.2.cells).map fun k =>
      { ring := r.1, pos := e.1, k := k, string := e.2.string, model := e.2.model, rBleed := e.2.rBleed, tempCh := e.2.tempCh.getD k 0 }
    else []

/-- After a restart a cell keeps θ and its lifetime record from the newest checkpoint (R419). -/
def fromCheckpoint (l : List Cell) (c : Cell) : Cell :=
  match l.find? fun o => o.ring == c.ring && o.pos == c.pos && o.k == c.k with
  | some o => { c with th := o.th, tu := o.tu, td := o.td, life := o.life, learned := o.learned, history := o.history }
  | none => c

/-- The first invalid model that the ring table names, and its failed check (R411). -/
def State.badModel (s : State) : Option (Nat × Nat) :=
  (((s.cfg.ringTable.flatMap fun r => r).filter fun e => e.ntype == .cell).map (·.model)).findSome? fun i =>
    (modelFails (s.model i)).map fun k => (i, k)

/-- The estimator starts on a worker with RUN set and valid models (R404, R411). -/
def State.startEst (s : State) : State :=
  if s.est.running ∨ s.bit .estCtrl 0 = false ∨ s.cfg.manager then s
  else match s.badModel with
    | some (i, k) => { s with est := { s.est with modelOk := false, modelBad := true } }.record .modelInvalid [i, k]
    | none =>
      let cells := if s.est.cells = [] then (cellsOf s.cfg.ringTable).map (fromCheckpoint s.est.checkpoint) else s.est.cells
      { s with est := { s.est with modelOk := true, modelBad := false, running := true, cells := cells } }

/-- Before the estimator starts by RUN, epochs whose sweep records are complete get no strobe update (R404). -/
def State.skipSweeps (s : State) : State :=
  if s.est.running then s
  else
    let last (p : Nat) : Nat := match newestBuilt (s.ring p) with
      | some w => w.epoch
      | none => s.est.ringEpoch.getD p 0
    { s with est := { s.est with ringEpoch := (List.range 4).map last } }

/-- A result that waited for its epoch takes effect; a leak score judges its thresholds (R407, R429). -/
def State.takePending (s : State) (idx epoch : Nat) (c : Cell) : Cell × State :=
  let due (p : PendEst) : Bool := match p with
    | .theta e _ _ _ => decide (e ≤ epoch)
    | .leak e _ => decide (e ≤ epoch)
  let rest := c.pending.filter fun p => !due p
  (c.pending.filter due).foldl (fun (r : Cell × State) p =>
    let (c, s) := r
    match p with
    | .theta _ th u d => ({ c with th := th, tu := u, td := d }, s)
    | .leak _ score =>
      let excess (lim : Nat) : Bool := match score with
        | some x => flt (fofInt (Int.ofNat lim)) x
        | none => false
      let warn := excess (s.fld .estLeakCfg 16 8) && !c.leakSuspect
      let alert := excess (s.fld .estLeakCfg 24 8) && !c.leakAlert
      let s := if warn then (s.record .leakSuspect [idx]).raise 82 else s
      let s := if alert then s.record .leakAlert [idx] else s
      ({ c with leak := score, leakSuspect := c.leakSuspect || warn, leakAlert := c.leakAlert || alert }, s))
    ({ c with pending := rest }, s)

/-- The 64-byte lifetime record (table Lifetime record). -/
def lifeBytes (l : Life) : List Byte :=
  leBytes 8 l.disThru ++ leBytes 8 l.chThru ++ leBytes 8 l.bleedThru ++ leBytes 4 l.qFirst.toNat ++ leBytes 4 l.qNow.toNat
    ++ leBytes 4 l.rsFirst.toNat ++ leBytes 4 l.rsNow.toNat ++ leBytes 2 (unsignedOf 16 (max (-32768) (min 32767 l.tcPeak)))
    ++ leBytes 2 l.vPeak ++ leBytes 2 l.vLow ++ leBytes 2 l.leakPeak
    ++ (List.range 4).flatMap fun i => leBytes 4 (l.hours.getD i 0 / 3600000000)

/-- A cell reset by command (R417, R432): fast states, or θ and the lifetime record too, which is recorded. -/
def State.resetCell (s : State) (idx : Nat) (full : Bool) (c : Cell) : Cell × State :=
  let c1 := { c with started := false }
  if full then
    let l := c.life
    ({ c1 with th := [], tu := [], td := [], life := {}, learned := none, disThru := 0, chThru := 0, bleedMc := 0, sumHours := [0, 0, 0, 0] },
     s.record .cellReplaced (idx :: (lifeBytes l).map (·.toNat)))
  else (c1, s)

/-- The update of cell number idx: pending results, the resets that the epoch's manifest covers, the strobe update (R407, R408, R414). -/
def State.cellStep (s : State) (idx epoch : Nat) (cocoon : Bool) (c : Cell) : State :=
  let (c, s) := s.takePending idx epoch c
  let cut := assocGet s.est.epochCuts (c.ring, epoch)
  let due (r : Nat × Bool × Nat) : Bool := r.1 == idx && (match cut with
    | some n => decide (r.2.2 ≤ n)
    | none => false)
  let (c, s) := match s.est.resets.filter due with
    | [] => (c, s)
    | l => s.resetCell idx (l.any (·.2.1)) c
  let free : F32 := BitVec.ofNat 32 (Config.free s.freeCtr)
  let (c, bad) := s.updateCell epoch free cocoon c
  let s := { s.useFree with est := { s.est with cells := updAt s.est.cells idx fun _ => c,
                                                resets := s.est.resets.filter fun r => !due r } }
  if bad then s.record .estReinit [idx] else s

/-- R416: a string with a cell or its shunt unmeasured for too long has no usable measurement. -/
def State.stringBlind (s : State) (i : Nat) : Bool :=
  s.est.cells.any fun c => c.string == i && decide (s.fld .estLimitMiss 0 16 * 1000 < c.noMeasUs)

/-- LIMIT_ZERO of every cell (R416). -/
def State.markBlind (s : State) : State :=
  { s with est := { s.est with cells := s.est.cells.map fun c => { c with limitZero := s.stringBlind c.string } } }

/-- The rings that are enabled. -/
def State.enabledRings (s : State) : List Nat := (List.range 4).filter fun p => s.bit .slkCtrl (4 + p)

/-- Every enabled ring has had its strobe update of an epoch. -/
def State.allUpdated (s : State) (epoch : Nat) : Bool := s.enabledRings.all fun p => !laterEpoch epoch (s.est.ringEpoch.getD p 0)

/-- Cells as they stand join those kept for an epoch. -/
def putSnap (l : List (Nat × List (Nat × Cell))) (epoch : Nat) (cs : List (Nat × Cell)) : List (Nat × List (Nat × Cell)) :=
  assocSet l epoch ((assocGet l epoch).getD [] ++ cs)

/-- A parameter period starts afresh; its pairs lie within it (R420). -/
def freshPeriod (c : Cell) : Cell := { c with sAcc := 0, wAcc := 0, nisSum := 0, nisN := 0, winP := 0, prevNormal := false }

/-- A summary interval starts afresh. -/
def freshInterval (c : Cell) : Cell :=
  { c with corr := 0, sumN := 0, sumMiss := 0, sumBleed := 0, sumMeas := 0, sumRead := 0, sumInit := false, sumUs := 0, sumHours := [0, 0, 0, 0],
           socSum := 0, tsSum := 0, vMin := 65535, vMax := 0, tcMax := 0, thru := 0, disThru := 0, chThru := 0, bleedMc := 0 }

/-- At the end of an epoch that closes a parameter period or a summary interval, the ring's cells are kept for it (R407). -/
def State.closePeriods (s : State) (p epoch : Nat) : State :=
  let mine : List (Nat × Cell) := (numbered 0 s.est.cells).filter fun e => e.2.ring == p
  let n := s.fld .estCtrl 8 8
  let k := (s.reg .estSumEpochs).toNat
  let on (f : Cell → Cell) (l : List Cell) : List Cell := l.map fun c => if c.ring = p then f c else c
  let s := if n ≠ 0 ∧ epoch % n = 0 then
      { s with est := { s.est with parSnap := putSnap s.est.parSnap epoch mine, cells := on freshPeriod s.est.cells } } else s
  if k ≠ 0 ∧ epoch % k = 0 then
    { s with est := { s.est with sumSnap := putSnap s.est.sumSnap epoch mine, cells := on freshInterval s.est.cells } } else s

/-- The first strobe of a summary interval: its epoch, stamp and status word go into the interval's header. -/
def State.openInterval (s : State) (p epoch : Nat) : State :=
  match s.est.sumFirst, (s.ring p).sweeps.find? fun w => w.epoch == epoch with
  | none, some w => { s with est := { s.est with sumFirst := some (epoch, w.angle, w.astatus) } }
  | _, _ => s

/-- The strobe update of a ring's epoch. -/
def State.updateRing (s : State) (p epoch us : Nat) : State :=
  let cocoon := s.est.cocoonRings.contains p
  let mine := (numbered 0 s.est.cells).filter fun e => e.2.ring == p
  let s := s.openInterval p epoch
  let s := mine.foldl (fun s e => s.cellStep e.1 epoch cocoon e.2) s
  let last := (List.range s.cfg.strings.length).foldl (fun l i =>
    let x := s.strIn i epoch
    if x.ok then assocSet l i x.i else l) s.est.lastQ
  let rings := updAt s.est.ringEpoch p fun _ => epoch
  let s := { s with est := { s.est with lastQ := last, ringEpoch := rings, arrayUs := us % 65536,
                                        lastCsr := updAt s.est.lastCsr p fun _ => s.tb.csr,
                                        cocoonRings := s.est.cocoonRings.filter (· != p) } }
  let s := if s.allUpdated epoch then { s with est := { s.est with epoch := epoch } } else s
  ((s.markBlind).writeResults p epoch).closePeriods p epoch

/-- A parameter update or a summary that takes effect by this epoch is not complete (R407). -/
def State.resultsLate (s : State) (epoch : Nat) : Bool :=
  (s.est.parSnap ++ s.est.sumSnap).any fun e => !laterEpoch (e.1 + 2) epoch

/-- The sweep whose strobe update a ring runs next, once its record is complete (R404). -/
def State.nextUpdate (s : State) (p : Nat) : Option Sweep :=
  ((s.ring p).sweeps.filter fun w => laterEpoch w.epoch (s.est.ringEpoch.getD p 0)).head?

/-- A CELL_RESET that the manifest of the ring's epoch covers has not been carried out: the strobe update waits for it (R408). -/
def State.resetDue (s : State) (p epoch : Nat) : Bool :=
  match assocGet s.est.epochCuts (p, epoch) with
  | none => false
  | some cut => (if s.holds then s.hq.work else s.workOf).any fun (o : Op) =>
      o.engine == 0 && dOpcode o.bytes == 0x11 && !o.waitTime && (match o.jsn with
        | some j => decide (j ≤ cut) && !s.wb.applied.any fun a => a.1 == j
        | none => false)

/-- STROBE_UPDATE: of an enabled ring, on a complete sweep record, in epoch order; it waits for a late parameter update or summary (R404,
R407). -/
def execStrobeUpdate (ring epoch arrayUs : Nat) (s : State) : Result :=
  .next (if 4 ≤ ring ∨ s.arrayOn = false ∨ s.bit .slkCtrl (4 + ring) = false then s
    else
      let s := if s.est.modelBad then s else s.startEst
      if s.est.running = false ∨ s.bit .estCtrl 0 = false ∨ s.resetDue ring epoch then s
      else match s.nextUpdate ring with
        | none => s
        | some w =>
          if w.built = false ∨ w.epoch ≠ epoch ∨ s.est.lagWait.any (fun x => x.1 == ring) then s
          else if s.resultsLate epoch then
            { s with est := { s.est with lag := true, lagWait := s.est.lagWait ++ [(ring, epoch, arrayUs)] } }.record .estLag [epoch]
          else s.updateRing ring epoch arrayUs)

/-! Quantities (R425 to R427). -/

/-- The cells of string i. -/
def State.cellsIn (s : State) (i : Nat) : List Cell := s.est.cells.filter fun c => c.string == i

/-- The smallest of a list; the first of an empty list's stand-in. -/
def fminOf (d : F32) : List F32 → F32
  | [] => d
  | x :: xs => xs.foldl fmin x

/-- The largest of a list. -/
def fmaxOf (d : F32) : List F32 → F32
  | [] => d
  | x :: xs => xs.foldl fmax x

/-- Power limit of a string: its lowest cell current times the sum of the end voltages at it (R425). -/
def State.stringPower (s : State) (i : Nat) (cur : Cell → F32) (ends : CellModel → Cell → F32 → F32) : F32 :=
  let cs := s.cellsIn i
  if s.stringBlind i ∨ cs = [] then 0
  else
    let l := fminOf 0 (cs.map cur)
    fmul l (fsum (cs.map fun c => ends (s.model c.model) c l))

/-- End voltage in discharge: vmin + num - den I. -/
def endDis (e : Cell → F32 × F32) (m : CellModel) (c : Cell) (i : F32) : F32 := fsub (fadd (mVMin m) (e c).1) (fmul (e c).2 i)

/-- End voltage in charge: vmax - nch + dch I. -/
def endCh (e : Cell → F32 × F32) (m : CellModel) (c : Cell) (i : F32) : F32 := fadd (fsub (mVMax m) (e c).1) (fmul (e c).2 i)

/-- The strings of a scope: all, or those whose shunt is on ring scope - 1. -/
def State.scopeStrings (s : State) (scope : Nat) : List Nat :=
  (List.range s.cfg.strings.length).filter fun i => scope == 0 || (s.cfg.strings.getD i (0, 0)).1 + 1 == scope

/-- A scope's power limit in MW (R425). -/
def State.scopePower (s : State) (scope : Nat) (p : Nat → F32) : F32 :=
  let l := (s.scopeStrings scope).map p
  let w := if s.bit .estCtrl 2 then fmul (fofInt (Int.ofNat l.length)) (fminOf 0 l) else fsum l
  fdiv w (fofInt 1000000)

/-- The eleven quantities of a scope (table Estimator quantities); `free` stands where no cell gives one. -/
def State.quantitiesOf (s : State) (free : F32) (scope : Nat) : List F32 :=
  let cs := (s.scopeStrings scope).flatMap s.cellsIn
  let used := (cs.filter (·.measured)).map (·.vUsed)
  [s.scopePower scope fun i => s.stringPower i (·.iDis10) (endDis (·.endD10)),
   s.scopePower scope fun i => s.stringPower i (·.iDis60) (endDis (·.endD60)),
   s.scopePower scope fun i => s.stringPower i (·.iCh10) (endCh (·.endC10)),
   s.scopePower scope fun i => s.stringPower i (·.iCh60) (endCh (·.endC60)),
   fminOf free used, fmaxOf free used, fmaxOf free (cs.map (·.tc)), fminOf free (cs.map cz), fmaxOf free (cs.map cz),
   fsum ((s.scopeStrings scope).map fun i => (assocGet s.est.lastQ i).getD 0), fdiv (fsum (cs.map (·.heat))) (fofInt 1000)]

/-- The oldest epoch that an enabled ring contributed. -/
def State.oldestEpoch (s : State) (epoch : Nat) : Nat :=
  s.enabledRings.foldl (fun e p =>
    let r := s.est.ringEpoch.getD p 0
    if r ≠ 0 ∧ laterEpoch e r then r else e) epoch

/-- The quantities of an epoch are due: every enabled ring has had its update, or 8.8 ms have passed since the strobe instant (R427). -/
def State.publishDue (s : State) (epoch : Nat) : Bool :=
  laterEpoch epoch s.est.pubEpoch && (s.allUpdated epoch || (s.slk.rings.any fun r => r.sweeps.any fun w =>
    w.epoch == epoch && decide (8800000 ≤ countsNs (s.tb.ang - w.angle) s.tb.freq)))

/-- QUANTITY_PUBLISH: the quantities and their oldest epoch, to their registers and the loop engine (R427). -/
def execQuantityPublish (epoch : Nat) (s : State) : Result :=
  .next (if s.est.running = false ∨ s.arrayOn = false ∨ s.publishDue epoch = false then s
    else
      let e := s.oldestEpoch epoch
      let qs := (List.range 5).map (s.quantitiesOf (BitVec.ofNat 32 (Config.free s.freeCtr)))
      let s := { s.useFree with est := { s.est with quantities := qs, qEpoch := e, pubEpoch := epoch } }
      (numbered 0 qs).foldl (fun s sc => (numbered 0 sc.2).foldl (fun s q => s.arrive ⟨3, 0, 0, e, 0⟩ [] 4 (256 * sc.1 + q.1) q.2 e) s) s)

/-! Parameter update (R420 to R422, R430). -/

/-- One scalar update of θ. -/
def thetaMeas (th : List F32) (u : List (List F32)) (d hr : List F32) (obs r : F32) : List F32 × List (List F32) × List F32 :=
  let (u, d, k, _) := bierman u d hr r
  let i := if hr.getD 0 0 = 0 then 1 else 0
  let inn := fsub obs (th.getD i 0)
  ((List.range 2).map fun j => fadd (th.getD j 0) (fmul (k.getD j 0) inn), u, d)

/-- The parameter update of a cell from its state `o` at the end of epoch e: θ for epoch e + 2, whether a value was limited, the capacity and
RS_REF it learned. -/
def State.paramCell (s : State) (epoch : Nat) (o c : Cell) : Cell × Bool :=
  let m := s.model c.model
  let t := fmul (fofInt (Int.ofNat (s.fld .estCtrl 8 8))) s.nominalDt
  let (u, d) := thornton o.tu o.td [fOne, fOne] [fmul (s.reg .estQGr) t, fmul (s.reg .estQQ) t]
  let (th, u, d) := if flt 0 o.wAcc then
      thetaMeas o.th u d [fOne, 0] (fdiv o.sAcc o.wAcc) (fdiv (fmul (fofInt 2) (sq (mSigV m))) o.wAcc)
    else (o.th, u, d)
  let sz := cellSigma o
  let good := fle sz (s.reg .estQSig)
  let age := c.winAge + s.fld .estCtrl 8 8 * s.nominalUs
  let total := fadd c.winC o.winP
  let dz := fsub c.winZ (cz o)
  let closes := c.winOpen && good && fle (s.reg .estQDz) (fabs dz)
  let obs := fdiv total (fmul f3600 dz)
  let noise := fdiv (fmul (sq obs) (fadd (sq c.winS) (sq sz))) (sq dz)
  let (th, u, d) := if closes then thetaMeas th u d [0, fOne] obs noise else (th, u, d)
  let fresh := good && (closes || !c.winOpen || decide (604800000000 < age))
  let c := if fresh then { c with winOpen := true, winZ := cz o, winS := sz, winC := 0, winAge := 0 }
    else if c.winOpen && decide (604800000000 < age) then { c with winOpen := false }
    else if c.winOpen then { c with winC := total, winAge := age }
    else c
  let g := fclamp (fratio 1 2) (fofInt 4) (th.getD 0 0)
  let q := fclamp (fmul (fratio 1 2) (mQNom m)) (fmul (fratio 12 10) (mQNom m)) (th.getD 1 0)
  let limited := decide (g ≠ th.getD 0 0 ∨ q ≠ th.getD 1 0)
  let avg := fdiv o.nisSum (fofInt (Int.ofNat o.nisN))
  let high := if o.nisN ≠ 0 ∧ flt (s.reg .estAnomNis) avg then c.nisHigh + 1 else 0
  let learned := if closes && c.learned.isNone then some (q, rsRef m { c with th := [g, q] }) else c.learned
  ({ c with pending := c.pending ++ [.theta (epoch + 2) [g, q] u d], nisHigh := high, learned := learned }, limited)

/-- Insertion into a rising list. -/
def finsert (x : F32) : List F32 → List F32
  | [] => [x]
  | y :: ys => if flt x y then x :: y :: ys else y :: finsert x ys

/-- The median: the mean of the two middle values of an even number (notes/assumptions/18.md). -/
def median (l : List F32) : F32 :=
  let t := l.foldl (fun t x => finsert x t) []
  let n := t.length
  if n = 0 then 0
  else if n % 2 = 1 then t.getD (n / 2) 0
  else fmul (fadd (t.getD (n / 2 - 1) 0) (t.getD (n / 2) 0)) (fratio 1 2)

/-- RS_OUTLIER: g_R above 1.5 times its string's median, once per day (R430). -/
def State.rsOutlier (s : State) (idx : Nat) (c : Cell) : State :=
  let med := median ((s.cellsIn c.string).map cgr)
  let day := s.tb.pt.sec / 86400
  if flt (fmul (fratio 3 2) med) (cgr c) ∧ assocGet s.est.outlierDay idx ≠ some day then
    { s with est := { s.est with outlierDay := assocSet s.est.outlierDay idx day } }.record .rsOutlier [idx]
  else s

/-- The parameter update of cell number idx from its state at the end of the epoch, with its records. -/
def State.paramStep (s : State) (epoch idx : Nat) (o : Cell) : State :=
  match s.est.cells[idx]? with
  | none => s
  | some c =>
    let (c1, limited) := s.paramCell epoch o c
    let anom := decide (3 ≤ c1.nisHigh) && !c1.anomaly
    let c1 := { c1 with anomaly := c1.anomaly || anom }
    let s := { s with est := { s.est with cells := updAt s.est.cells idx fun _ => c1 } }
    let s := if limited then s.record .paramClamp [idx] else s
    let s := if anom then (s.record .cellAnomaly [idx]).raise 82 else s
    s.rsOutlier idx c1

/-- The strobe updates that waited run once nothing holds them back (R407). -/
def State.runWaiting (s : State) : State :=
  let wait := s.est.lagWait
  if wait.any fun w => s.resultsLate w.2.1 then s
  else wait.foldl (fun s w => s.updateRing w.1 w.2.1 w.2.2) { s with est := { s.est with lagWait := [] } }

/-- PARAM_UPDATE: of the oldest period whose epoch every enabled ring has completed, for every cell; strobe updates that waited for it follow
(R407, R420). -/
def execParamUpdate (epoch : Nat) (s : State) : Result :=
  .next (match s.est.parSnap.head? with
    | none => s
    | some (e, l) =>
      if s.est.running = false ∨ s.arrayOn = false ∨ e ≠ epoch ∨ s.allUpdated epoch = false then s
      else
        let s := l.foldl (fun s x => s.paramStep epoch x.1 x.2) s
        State.runWaiting { s with est := { s.est with paramEpoch := epoch, parSnap := s.est.parSnap.drop 1 } })

/-! Summary (R428, R429, R432, R418). -/

/-- A value scaled and held within [lo, hi]. -/
def fscale (x k : F32) (lo hi : Int) : Int := max lo (min hi (ftoInt (fmul x k)))

/-- A summary is valid for a cell's leak score (R428). -/
def sumValid (c : Cell) : Bool := decide (c.sumBleed * 10 ≤ c.sumUs ∧ c.sumMiss * 10 ≤ c.sumN) && !c.sumInit

/-- The 16-byte summary of a cell (table Cell summary); `free` stands for the extremes of an interval without a reading. -/
def cellSum (free : Nat) (rest : Bool) (c : Cell) : CellSum :=
  let n := fofInt (Int.ofNat (max 1 c.sumN))
  { socMean := (fscale (fdiv c.socSum n) (fofInt 65536) 0 65535).toNat, vMin := if c.sumRead = 0 then free % 65536 else c.vMin,
    vMax := if c.sumRead = 0 then free % 65536 else c.vMax, tcMax := fscale c.tcMax (fofInt 100) (-32768) 32767, tsMean := fscale (fdiv c.tsSum n) (fofInt 100) (-32768) 32767,
    corr := fscale c.corr (fofInt 1000000) (-32768) 32767, thru := (fscale c.thru (fratio 1 36) 0 65535).toNat,
    bleed := satAt 255 (c.sumBleed / 4000000),
    flags := ofBool rest + 2 * ofBool (decide (c.sumN < c.sumMiss * 10)) + 4 * ofBool (c.sumMeas == 0)
      + 8 * ofBool (decide (c.sumUs < c.sumBleed * 10)) + 16 * ofBool c.tap + 32 * ofBool c.sumInit }

/-- Bytes of a cell summary. -/
def sumBytes (x : CellSum) : List Byte :=
  leBytes 2 x.socMean ++ leBytes 2 x.vMin ++ leBytes 2 x.vMax ++ leBytes 2 (unsignedOf 16 x.tcMax) ++ leBytes 2 (unsignedOf 16 x.tsMean)
    ++ leBytes 2 (unsignedOf 16 x.corr) ++ leBytes 2 x.thru ++ leBytes 1 x.bleed ++ leBytes 1 x.flags

/-- The median correction of a string in an interval, over its cells with a valid summary. -/
def stringMedian (cs : List Cell) (i : Nat) : F32 := median ((cs.filter fun c => c.string == i && sumValid c).map (·.corr))

/-- The leak score of a cell in mA; none when its summaries cover less than half of LEAK_WIN (R428, R429). -/
def State.leakScore (s : State) (c : Cell) : Option F32 :=
  let l := c.history.filter (·.1)
  let w := l.foldl (fun n e => n + e.2.2) 0
  let d := fsum (l.map (·.2.1))
  let whole := s.fld .estLeakCfg 0 16 * (s.reg .estSumEpochs).toNat * s.nominalUs
  if w = 0 ∨ 2 * w < whole then none
  else some (fmul (fdiv (fmul (fmul (fneg f3600) (cq c)) d) (fratio (Int.ofNat w) 1000000)) (fofInt 1000))

/-- The lifetime record of a cell after an interval (R432). -/
def State.lifeOf (s : State) (c : Cell) (score : Option F32) : Life :=
  let l := c.life
  let peak := match score with
    | some x => (fscale x (fofInt 10) 0 65535).toNat
    | none => 0
  let t := ftoInt (fmul c.tcMax (fofInt 100))
  let first := match c.learned with
    | some x => x
    | none => (l.qFirst, l.rsFirst)
  { disThru := (l.disThru + c.disThru) % 2 ^ 64, chThru := (l.chThru + c.chThru) % 2 ^ 64,
    bleedThru := (l.bleedThru + c.bleedMc) % 2 ^ 64, qFirst := first.1, qNow := cq c, rsFirst := first.2, rsNow := rsRef (s.model c.model) c,
    tcPeak := if c.sumN = 0 then l.tcPeak else if l.begun then max l.tcPeak t else t, vPeak := max l.vPeak c.vMax, vLow := min l.vLow c.vMin,
    leakPeak := max l.leakPeak peak, hours := (List.range 4).map fun i => l.hours.getD i 0 + c.sumHours.getD i 0,
    begun := l.begun || c.sumN != 0 }

/-- What the summary of an interval gives a cell: the interval for its leak score, the score itself for epoch e + 2, its lifetime record. -/
structure Summed where
  history : List (Bool × F32 × Nat)
  score : Option F32
  life : Life
  deriving DecidableEq, Repr

/-- The summary of a cell that stood at the end of the epoch as `o`, among the cells `cs` (R428, R429, R432). -/
def State.summed (s : State) (cs : List Cell) (o : Cell) : Summed :=
  let h := o.history ++ [(sumValid o, fsub o.corr (stringMedian cs o.string), o.sumUs)]
  let h := h.drop (h.length - max 1 (s.fld .estLeakCfg 0 16))
  let score := s.leakScore { o with history := h }
  ⟨h, score, s.lifeOf o score⟩

/-- A cell with the summary's results. -/
def takeSummed (epoch : Nat) (x : Summed) (c : Cell) : Cell :=
  { c with history := x.history, life := x.life, pending := c.pending ++ [.leak (epoch + 2) x.score] }

/-- SUMMARY: of the oldest interval whose epoch every enabled ring has completed: history block, lifetime records, leak scores, checkpoint
(R418, R428, R432). The history store keeps five years. -/
def execSummary (epoch : Nat) (s : State) : Result :=
  .next (match s.est.sumSnap.head? with
    | none => s
    | some (e, l) =>
      if s.est.running = false ∨ s.arrayOn = false ∨ e ≠ epoch ∨ s.allUpdated epoch = false then s
      else
        let all := numbered 0 s.est.cells
        let os := all.map fun x => (assocGet l x.1).getD x.2
        let rest (c : Cell) : Bool := decide (s.fld .estRest 16 16 * 1000000 ≤ c.restUs)
        let first := s.est.sumFirst.getD (epoch, 0, 0)
        let b : HistBlock := { epoch := first.1, angle := first.2.1, astatus := first.2.2,
                               cells := os.map fun c => cellSum (Config.free s.freeCtr) (rest c) c }
        let done := all.map fun x =>
          let o := (assocGet l x.1).getD x.2
          (o, x.2, s.summed os o)
        let h := s.est.history ++ [b]
        State.runWaiting { s.useFree with
          est := { s.est with cells := done.map fun x => takeSummed epoch x.2.2 x.2.1, history := h.drop (h.length - 175320),
                              checkpoint := done.map fun x => takeSummed epoch x.2.2 x.1, sumFirst := none,
                              sumSnap := s.est.sumSnap.drop 1 } })

/-! Balancing (R433 to R436). -/

/-- The smallest integer at or above a value; 0 for a NaN or an infinity. -/
def fceil (x : F32) : Int :=
  match (b32.dec x.toNat).trunc with
  | some t => if flt (fofInt t) x then t + 1 else t
  | none => 0

/-- The largest integer at or below a value. -/
def ffloor (x : F32) : Int :=
  match (b32.dec x.toNat).trunc with
  | some t => if flt x (fofInt t) then t - 1 else t
  | none => 0

/-- Content above the alignment point: Q (z - z_p). -/
def content (zp : F32) (c : Cell) : F32 := fmul (cq c) (fsub (cz c) zp)

/-- T_k and RT_k of a cell (table Balancing plan): period cap in s, strobe rate of the plan's period. -/
def State.planCell (s : State) (cap : Nat) (rate : F32) (c : Cell) : Nat × Nat :=
  let m := s.model c.model
  let zp := fratio (Int.ofNat (s.fld .estBalCfg 0 10)) 1000
  let least := fminOf 0 ((s.cellsIn c.string).map (content zp))
  let b := fsub (content zp c) least
  let b' := fsub b (fmul (fmul (fratio (Int.ofNat (s.fld .estBalCfg 10 6)) 10) (cq c)) (cellSigma c))
  let v := match s.sampleAt c.ring c.pos s.est.epoch with
    | some x => volts (x.volts.getD c.k 0)
    | none => c.vUsed
  if flt b' (fratio (Int.ofNat (s.fld .estBalCfg 16 8)) 100) ∨ fle b' 0 ∨ s.stringBlind c.string ∨ c.tap then (0, 0)
  else
    let ieff := fmul (fdiv v c.rBleed) (fsub fOne (fmul s.bleedPause rate))
    let t := min cap (fceil (fdiv (fmul f3600 b') ieff)).toNat
    let zt := fsub (cz c) (fdiv (fdiv (fmul (fofInt (Int.ofNat t)) ieff) f3600) (cq c))
    let z := fmax 0 (fsub zt (fratio (Int.ofNat (s.fld .estBalCfg 24 8)) 1000))
    let rt := fadd (tab m tOcv z c.tc) (fmul (tab m tHyst z c.tc) (ch c))
    if t = 0 then (0, 0) else (t, (ffloor (fmul rt (fofInt 10000))).toNat % 65536)

/-- Bytes 8 to 79 of a BALANCE frame: T1 to T18, RT1 to RT18. -/
def planBytes (t rt : List Nat) : List Byte :=
  ((List.range 18).flatMap fun k => leBytes 2 (t.getD k 0)) ++ (List.range 18).flatMap fun k => leBytes 2 (rt.getD k 0)

/-- The plan of one cell node; the holder sends it, in place of any BALANCE not yet sent (R435). -/
def State.planNode (s : State) (cap : Nat) (rate : F32) (p pos : Nat) : State :=
  let l := (s.est.cells.filter fun c => c.ring == p && c.pos == pos).map (s.planCell cap rate)
  let t := l.map (·.1)
  let rt := l.map (·.2)
  let s := { s with est := { s.est with plans := assocSet s.est.plans (p, pos) (t, rt) } }
  if s.holds then
    let keep (e : Nat × NodeCmd) : Bool := decide (e.1 ≠ pos ∨ e.2.type ≠ 10 ∨ e.2.work.isSome)
    (s.setRing p fun r => { r with queue := r.queue.filter keep }).queueCmd p pos { type := 10, body := leBytes 1 0 ++ planBytes t rt }
  else s

/-- A plan for every cell node. -/
def State.planAll (s : State) (cap : Nat) (rate : F32) : State :=
  (List.range 4).foldl (fun s p => (List.range (s.ringN p)).foldl (fun s k =>
    match s.ringPos p (k + 1) with
    | some r => if r.ntype = .cell then s.planNode cap rate p (k + 1) else s
    | none => s) s) s

/-- Strobes per second. -/
def State.strobeRate (s : State) : F32 :=
  fratio (Int.ofNat (s.fld .slkCtrl 16 8 * s.fnom)) (Int.ofNat (max 1 (s.fld .slkCtrl 24 8)))

/-- BALANCING_PLAN: once its strobe update is complete, at each epoch divisible by BAL_PERIOD (R433). -/
def execBalancingPlan (epoch : Nat) (s : State) : Result :=
  let n := (s.reg .estBalPeriod).toNat
  let cap := min 65535 (2 * n * s.nominalUs / 1000000)
  .next (if s.est.running ∧ s.arrayOn ∧ s.bit .estCtrl 1 ∧ n ≠ 0 ∧ epoch % n = 0 ∧ s.est.epoch = epoch ∧ laterEpoch epoch s.est.planEpoch then
      State.planAll { s with est := { s.est with planEpoch := epoch } } cap s.strobeRate
    else s)

/-- The plan sent before COCOON: at the check interval's strobe rate, capped at 65,535 s (R436). -/
def State.cocoonPlan (s : State) : State :=
  if s.est.running then s.planAll 65535 (fratio 1 (Int.ofNat (max 1 (s.fld .slkCkCtrl 0 12)))) else s

/-! Commands (R441). -/

/-- Outcome EST_REFUSED. -/
def stEstRefused : Nat := 0x500

/-- Why a range of cells is refused. -/
def State.rangeRefusal (s : State) (first n : Nat) : Option Nat :=
  if s.est.running = false then some 2 else if s.est.cells.length < first + n then some 1 else none

/-- CELL_READ. -/
def execCellRead (w : WorkRef) (s : State) : Result :=
  .next (s.engineOp w 0 0x10 fun op s =>
    let first := dInline op.bytes 0 2
    let n := dInline op.bytes 2 2
    match s.rangeRefusal first n with
    | some r => s.finish op stEstRefused r
    | none =>
      let b := ((s.est.cells.drop first).take n).flatMap (s.readRecord s.est.epoch)
      (s.writeBuf op 0 (b.take (dLength op.bytes))).finish op stOk 0)

/-- CELL_RESET: once a manifest that names an epoch covers it; it takes effect at the strobe update of the first such epoch of the cell's ring
(R408, R417). -/
def execCellReset (w : WorkRef) (s : State) : Result :=
  .next (s.cutOp w 0 0x11 fun op s =>
    if !s.est.epochCuts.any fun e => decide (op.jsn.getD 0 ≤ e.2) then s else
    let c := dInline op.bytes 0 2
    match s.rangeRefusal c 1 with
    | some r => s.finishCut op stEstRefused r
    | none => { s with est := { s.est with resets := s.est.resets ++ [(c, dSubop op.bytes == 1, op.jsn.getD 0)] } }.finishCut op stOk 0)

/-- HISTORY_READ: a run of interval blocks from the one that starts at an epoch. -/
def execHistoryRead (w : WorkRef) (s : State) : Result :=
  .next (s.engineOp w 0 0x12 fun op s =>
    let e := dInline op.bytes 0 4
    let n := dInline op.bytes 4 4
    let first := dInline op.bytes 8 2
    let k := dInline op.bytes 10 2
    match s.rangeRefusal first k with
    | some r => s.finish op stEstRefused r
    | none =>
      let l := (s.est.history.dropWhile fun b => b.epoch != e).take n
      if l.length < n then s.finish op stEstRefused 3
      else
        let b := l.flatMap fun x => ((x.cells.drop first).take k).flatMap sumBytes
        (s.writeBuf op 0 (b.take (dLength op.bytes))).finish op stOk 0)

/-- LIFETIME_READ. -/
def execLifetimeRead (w : WorkRef) (s : State) : Result :=
  .next (s.engineOp w 0 0x13 fun op s =>
    let first := dInline op.bytes 0 2
    let n := dInline op.bytes 2 2
    match s.rangeRefusal first n with
    | some r => s.finish op stEstRefused r
    | none =>
      let b := ((s.est.cells.drop first).take n).flatMap fun c => lifeBytes c.life
      (s.writeBuf op 0 (b.take (dLength op.bytes))).finish op stOk 0)

/-- PLAN_READ: a node without a plan has been told to bleed nothing. -/
def execPlanRead (w : WorkRef) (s : State) : Result :=
  .next (s.engineOp w 0 0x14 fun op s =>
    let p := dInline op.bytes 0 1
    let pos := dInline op.bytes 1 1
    if s.est.running = false then s.finish op stEstRefused 2
    else if !(s.est.cells.any fun c => c.ring == p && c.pos == pos) then s.finish op stEstRefused 1
    else
      let x := (assocGet s.est.plans (p, pos)).getD ([], [])
      s.finish op stOk 72 (planBytes x.1 x.2))

/-! Register writes. -/

/-- EST_CTRL: RUN is dropped on a manager (R404). -/
def State.writeEstCtrl (s : State) (q : Requester) (v : Word) : State :=
  let bad := s.cfg.manager && bitOf v.toNat 0
  let (t, ok) := s.writeHeld q .estCtrl 0 0 (if bad then v &&& 0xFFFFFFFE else v)
  if !ok then t
  else if bad then t.refuseWrite q (RegName.estCtrl.addr 0 0)
  else if t.bit .estCtrl 0 then t.skipSweeps.startEst
  else { t with est := { t.est with running := false } }

/-- SLK_CK_CTRL and SLK_COMM_TMO keep INTERVAL_S below COMM_TMO (R396, R440). -/
def State.writeCk (s : State) (q : Requester) (r : RegName) (v : Word) : State :=
  let i := if r = .slkCkCtrl then bitsOf v.toNat 0 12 else s.fld .slkCkCtrl 0 12
  let c := if r = .slkCommTmo then bitsOf v.toNat 0 13 else s.fld .slkCommTmo 0 13
  if c ≤ i then s.refuseWrite q (r.addr 0 0) else (s.writeHeld q r 0 0 v).1

end Sys2Proof.Machine
end

