-- ==== Sys2Proof/Machine/LoopEngine.lean ====
section
/-! DEFINITION. The loop engine: slots, override groups, output stages and their commands (08_loop_engine.md, R325 to R358). -/

namespace Sys2Proof.Machine

/-! Forces (R312). -/

/-- Bytes of a data type of the table Force data types. -/
def typeBytes (t : Nat) : Nat := [0, 1, 1, 2, 4, 8, 1, 2, 4, 8, 4, 8, 8].getD t 0

/-- A value with element `e` of a type, or all of it (0xFFFF), replaced; elements lie packed, the first lowest. -/
def putElement (type e x v : Nat) : Nat :=
  if e = 0xFFFF then x
  else
    let w := 8 * typeBytes type
    let lo := w * e
    v / 2 ^ (lo + w) * 2 ^ (lo + w) + x % 2 ^ w * 2 ^ lo + v % 2 ^ lo

/-- A value as the forces on its item leave it (R312). -/
def forced (l : List Force) (target id v : Nat) : Nat :=
  l.foldl (fun v f => if f.ident = id ∧ f.target = target then putElement f.type f.element f.value v else v) v

/-! Records. -/

/-- The binary32 at byte i of a record. -/
def recF (r : List Byte) (i : Nat) : F32 := BitVec.ofNat 32 (leField r i 4)

/-- LAW. -/
def slLaw (r : List Byte) : Nat := leField r 0 1
/-- FLAGS[0]: direct action. -/
def slDirect (r : List Byte) : Bool := bitOf (leField r 1 1) 0
/-- FLAGS[1]: a floor. -/
def slFloor (r : List Byte) : Bool := bitOf (leField r 1 1) 1
/-- N. -/
def slN (r : List Byte) : Nat := leField r 2 2
/-- PHASE. -/
def slPhase (r : List Byte) : Nat := leField r 4 4
/-- GROUP. -/
def slGroup (r : List Byte) : Nat := leField r 8 2
/-- OUT. -/
def slOut (r : List Byte) : Nat := leField r 10 2
/-- MEAS_SRC, SP_SRC or FF_SRC. -/
def slSrc (r : List Byte) (k : Nat) : Nat := leField r (12 + 4 * k) 4
/-- STALE_MEAS, STALE_SP or STALE_FF. -/
def slAge (r : List Byte) (k : Nat) : Nat := leField r (80 + 4 * k) 4
/-- FALLBACK code of an input. -/
def slFallback (r : List Byte) (k : Nat) : Nat := bitsOf (leField r 92 1) (2 * k) 2
/-- RIPPLE_MEAS. -/
def slRipple (r : List Byte) : Nat := leField r 93 1
/-- SUBST_MEAS, SUBST_SP or SUBST_FF. -/
def slSubst (r : List Byte) (k : Nat) : F32 := recF r (96 + 4 * k)

/-- Class of a selector. -/
def selClass (x : Nat) : Nat := bitsOf x 24 8
/-- Index of a selector. -/
def selIndex (x : Nat) : Nat := bitsOf x 0 24

/-- A source selector names something (table Input source classes). -/
def srcOk (nsig : Nat) (x : Nat) : Bool :=
  let i := selIndex x
  match selClass x with
  | 0 => i == 0
  | 1 => i == 0
  | 2 => decide (i < 8)
  | 3 => decide (i < 1024)
  | 4 => decide (bitsOf i 0 8 ≤ 10 ∧ bitsOf i 8 3 ≤ 4 ∧ i < 2048)
  | 5 => decide (i < nsig)
  | 6 => true
  | 7 => decide (i < 512)
  | 8 => decide (i < 2)
  | _ => false

/-- A destination selector names something (table Destination classes). -/
def destOk (nsig : Nat) (x : Nat) : Bool :=
  let i := selIndex x
  match selClass x with
  | 0 => i == 0
  | 1 => decide (i < 4)
  | 2 => decide (i < 1024)
  | 3 => decide (i < nsig)
  | 4 => true
  | _ => false

/-- Byte offsets of `n` binary32 fields from `off` are finite. -/
def finites (r : List Byte) (off n : Nat) : Bool := (List.range n).all fun k => ffinite (recF r (off + 4 * k))

/-- Largest N at a nominal frequency (R326). -/
def maxN (sixty : Bool) : Nat := if sixty then 166 else 200

/-- Why a slot record is refused: 4 N or PHASE, 5 a value (R326, R341, R358, table Slot record). -/
def State.slotRefusal (s : State) (r : List Byte) : Option Nat :=
  let nsig := s.cfg.signals.length
  if slN r = 0 ∨ maxN (s.bit .angCtrl 4) < slN r ∨ 2 ^ 24 ≤ slPhase r then some 4
  else if r.length ≠ 128 ∨ slLaw r = 0 ∨ 3 < slLaw r ∨ 4 ≤ leField r 1 1 ∨ !(finites r 24 14) ∨ !(flt 0 (recF r 64)) ∨ !(finites r 96 3)
      ∨ flt (recF r 60) (recF r 56) ∨ !((List.range 3).all fun k => srcOk nsig (slSrc r k))
      ∨ !((List.range 3).all fun k => decide (slFallback r k ≠ 3)) ∨ 64 ≤ leField r 92 1 ∨ (slRipple r ≠ 255 ∧ 32 ≤ slRipple r)
      ∨ leField r 94 2 ≠ 0 ∨ leField r 108 20 ≠ 0 ∨ (slGroup r ≠ 0xFFFF ∧ 64 ≤ slGroup r) ∨ (slOut r ≠ 0xFFFF ∧ 128 ≤ slOut r) then some 5
  else none

/-- Member slots of a group record. -/
def grMembers (r : List Byte) : List Nat := ((List.range 8).map fun k => leField r (4 + 2 * k) 2).filter (· != 0xFFFF)
/-- OUT of a group record. -/
def grOut (r : List Byte) : Nat := leField r 2 2

/-- DEST. -/
def ouDest (r : List Byte) : Nat := leField r 0 4
/-- OMIN. -/
def ouMin (r : List Byte) : F32 := recF r 4
/-- OMAX. -/
def ouMax (r : List Byte) : F32 := recF r 8
/-- OUT_SAFE. -/
def ouSafe (r : List Byte) : F32 := recF r 12

/-- An output stage record has its values in range (table Output stage record). -/
def State.stageOk (s : State) (r : List Byte) : Bool :=
  let nsig := s.cfg.signals.length
  let fric := leField r 16 1
  let rip := leField r 17 1
  decide (r.length = 64) && destOk nsig (ouDest r) && finites r 4 3 && finites r 24 4 && finites r 44 2 && !flt (ouMax r) (ouMin r)
    && (fric == 255 || decide (fric < 64)) && (rip == 255 || decide (rip < 32 ∧ 1 ≤ leField r 18 1 ∧ leField r 18 1 ≤ 4))
    && (fric == 255 || flt (recF r 24) (recF r 28)) && srcOk nsig (leField r 20 4) && decide (leField r 40 4 < 2 ^ 24)
    && leField r 19 1 == 0 && leField r 52 12 == 0

/-- Slot n. -/
def State.slot (s : State) (n : Nat) : Slot := s.loop.slots.getD n {}
/-- Group n. -/
def State.group (s : State) (n : Nat) : Group := s.loop.groups.getD n {}
/-- Stage n. -/
def State.stage (s : State) (n : Nat) : Stage := s.loop.stages.getD n {}
/-- The state with stage n changed. -/
def State.setStage (s : State) (n : Nat) (f : Stage → Stage) : State :=
  { s with loop := { s.loop with stages := updAt s.loop.stages n f } }

/-- Slots with their numbers. -/
def State.slotsN (s : State) : List (Nat × Slot) := (List.range 512).map fun n => (n, s.slot n)

/-- Sum of N over the enabled slots (LOOP_STATUS.LOAD, R327). -/
def State.loopLoad (s : State) : Nat := s.loop.slots.foldl (fun n x => if x.enabled then n + slN x.record else n) 0

/-- The configured group that a slot is enabled in. -/
def slotGroup (x : Slot) : Option Nat := if slGroup x.record < 64 then some (slGroup x.record) else none

/-- Enabled members of a group, rising. -/
def State.enabledMembers (s : State) (g : Nat) : List Nat :=
  (s.slotsN.filter fun e => e.2.enabled && slotGroup e.2 == some g).map (·.1)

/-- The stage that a slot feeds, itself or through its group. -/
def State.stageOfSlot (s : State) (x : Slot) : Nat :=
  match slotGroup x with
  | some g => grOut (s.group g).record
  | none => slOut x.record

/-! Inputs (R326 to R335). -/

/-- n / d correctly rounded to binary32. -/
def fquot (n d : Nat) : F32 :=
  let k := 64 + Nat.log2 d
  BitVec.ofNat 32 (b32.round false (n * 2 ^ k / d) (-(k : Int)) (n * 2 ^ k % d != 0))

/-- P of the window: the bundle's, else the own clock's. -/
def State.loopPeriod (s : State) : Nat :=
  if s.loop.period ≠ 0 then s.loop.period
  else if s.tb.anchor.period ≠ 0 then s.tb.anchor.period else countsNs (countsPerCycle * 65536) s.tb.freq

/-- An interval of counts in seconds, by way of whole nanoseconds as R121 converts. -/
def State.countsSec (s : State) (d : Nat) : F32 := fquot (mapOffset s.loopPeriod (Int.ofNat d)).toNat 1000000000

/-- ts of an evaluation (R332). -/
def State.sampleTs (s : State) (x : Slot) (stamp : Nat) : F32 :=
  let n := max 1 (slN x.record)
  let d := if x.fresh then 2 ^ 24 / n else max (2 ^ 24 / (4 * n)) (min (4 * 2 ^ 24 / n) (stamp - x.last))
  s.countsSec d

/-- An interval of counts in µs, as R121 converts; by the bundle's P, so that both members judge one age alike (R350). -/
def State.countsUs (s : State) (d : Nat) : Nat := (mapOffset s.loopPeriod (Int.ofNat d)).toNat / 1000

/-- Age of an input in µs: of class 4 by its epoch, of the others by its stamp. -/
def State.inputAge (s : State) (cls : Nat) (x : LoopIn) (stamp : Nat) : Nat :=
  if cls = 4 then (s.slk.epoch - x.stamp) * (s.fld .slkCtrl 24 8 * 1000000 / (max 1 (s.fld .slkCtrl 16 8)
      * (if s.bit .angCtrl 4 then 60 else 50))) + s.countsUs (stamp - s.slk.strobeAng)
  else s.countsUs (stamp - x.stamp)

/-- The class default of a stale age in µs; none: never (R334). -/
def State.defaultAge (s : State) (cls : Nat) : Option Nat :=
  if cls = 4 then some (3 * (s.fld .slkCtrl 24 8 * 1000000 / (max 1 (s.fld .slkCtrl 16 8) * (if s.bit .angCtrl 4 then 60 else 50))))
  else if cls = 5 ∨ cls = 6 then some 10000 else none

/-- A source as it stands: its value, none when its source reports it invalid. Positive-sequence voltage is a measurement, a free value. -/
def State.source (s : State) (sel : Nat) (const : F32) (stamp : Nat) : Option LoopIn :=
  let i := selIndex sel
  match selClass sel with
  | 0 => some ⟨0, stamp, true⟩
  | 1 => some ⟨const, stamp, true⟩
  | 7 => some ⟨(s.slot i).uSlot, (s.slot i).last, true⟩
  | 8 => some ⟨if i = 0 then fratio (Int.ofNat s.tb.freq) 10000 else BitVec.ofNat 32 (Config.free s.freeCtr), stamp, true⟩
  | c => assocGet s.loop.inputs (c, i)

/-- A source that is valid, finite and not older than its stale age; 0 selects the class default (R334). -/
def State.freshSource (s : State) (sel age : Nat) (const : F32) (stamp : Nat) : Option F32 :=
  match s.source sel const stamp with
  | none => none
  | some x =>
    let lim := if age = 0 then s.defaultAge (selClass sel) else some age
    let old := match lim with
      | some l => decide (l < s.inputAge (selClass sel) x stamp)
      | none => false
    if x.valid ∧ ffinite x.value ∧ old = false ∧ selClass sel ≠ 0 then some x.value
    else if selClass sel = 0 then some 0 else none

/-- An input's value and whether its slot goes to SAFE (R335): HOLD, SUBST, SAFE; HOLD of class 4 is SUBST 0.0. -/
def inputValue (r : List Byte) (k : Nat) (v : Option F32) (hold : F32) : F32 × Bool :=
  match v with
  | some x => (x, false)
  | none =>
    match slFallback r k with
    | 0 => (if selClass (slSrc r k) = 4 then 0 else hold, false)
    | 1 => (slSubst r k, false)
    | _ => (hold, true)

/-- Ripple at an angle: gain (T[i] + f (T[i+1] - T[i])) (R347). -/
def ripple (t : List F32) (a phase h : Nat) (gain : F32) : F32 :=
  let x := (a + phase) * h % 2 ^ 24
  let i := x / 65536
  let f := fratio (Int.ofNat (x % 65536)) 65536
  let v0 := t.getD i 0
  fmul gain (fadd v0 (fmul f (fsub (t.getD ((i + 1) % 256) 0) v0)))

/-- The onset of a stale input: the flag's record and event source 83 (R335). -/
def State.staleOnset (s : State) (n k : Nat) (was now : Bool) : State :=
  if !was && now then (s.record .loopStale [n, k]).raise 83 else s

/-! The law (R336 to R341). -/

/-- The parameters of a law from a record. -/
structure LawIn where
  y : F32
  w : F32
  ff : F32
  ts : F32
  deriving DecidableEq, Repr

/-- e. -/
def lawE (r : List Byte) (x : LawIn) : F32 := if slDirect r then fsub x.y x.w else fsub x.w x.y

/-- The derivative state after the sample: (TF / (TF + ts)) d + (KD / (TF + ts)) sg (y - y_prev). -/
def lawD (r : List Byte) (x : LawIn) (d : F64) (yPrev : F32) : F64 :=
  let tf := recF r 36
  let b := fadd tf x.ts
  let sg : F32 := if slDirect r then 0x3F800000#32 else 0xBF800000#32
  dadd (dmul (f2d (fdiv tf b)) d) (f2d (fmul (fmul (fdiv (recF r 32) b) sg) (fsub x.y yPrev)))

/-- KFF ff. -/
def lawFf (r : List Byte) (x : LawIn) : F32 := fmul (recF r 44) x.ff

/-- u before the lead-lag: p + i + d in binary64, rounded, then KFF ff; for PASS w + KFF ff. -/
def lawU (r : List Byte) (x : LawIn) (i d : F64) : F32 :=
  if slLaw r = 3 then fadd x.w (lawFf r x)
  else fadd (d2f (dadd (dadd (f2d (fmul (recF r 24) (lawE r x))) i) d)) (lawFf r x)

/-- c0, c1, a1 of the lead-lag. -/
def leadLag (r : List Byte) (ts : F32) : F32 × F32 × F32 :=
  let t1 := fmul 0x40000000#32 (recF r 48)
  let t2 := fmul 0x40000000#32 (recF r 52)
  let b := fadd ts t2
  (fdiv (fadd ts t1) b, fdiv (fsub ts t1) b, fdiv (fsub ts t2) b)

/-- The lead-lag's output. -/
def lawV (r : List Byte) (ts u up vp : F32) : F32 :=
  if slLaw r = 2 then
    let (c0, c1, a1) := leadLag r ts
    fsub (fadd (fmul c0 u) (fmul c1 up)) (fmul a1 vp)
  else u

/-- The u before the lead-lag that makes its output v. -/
def backU (r : List Byte) (ts v up vp : F32) : F32 :=
  if slLaw r = 2 then
    let (c0, c1, a1) := leadLag r ts
    fdiv (fadd (fsub v (fmul c1 up)) (fmul a1 vp)) c0
  else v

/-- i such that u before the lead-lag is `u` (R337, R338). -/
def solveI (r : List Byte) (x : LawIn) (d : F64) (u : F32) : F64 :=
  dsub (dsub (dsub (f2d u) (f2d (lawFf r x))) (f2d (fmul (recF r 24) (lawE r x)))) d

/-- The set-point's end: the constant of SET_TARGET, SP_CONST, or the input. -/
def slTarget (x : Slot) (sp : F32) : F32 :=
  if selClass (slSrc x.record 1) = 1 then x.setTarget.getD (recF x.record 72) else sp

/-- w after the sample, and whether its ramp goes on (R339, R340). -/
def ramp (x : Slot) (target y ts : F32) : F32 × Bool :=
  let r := x.record
  let start := x.fresh || flt (recF r 68) (fabs (fsub target x.target))
  let w0 := if start then (if selClass (slSrc r 0) = 0 then x.w else y)
    else if x.ramping then x.w
    else if target = x.target then x.w else target
  if start || x.ramping then
    let step := fmul (recF r 64) ts
    let gap := fsub target w0
    let w := if fle (fabs gap) step then target else if flt gap 0 then fsub w0 step else fadd w0 step
    (w, !feq w target)
  else (w0, false)

/-- The law of a slot at a sample: y, ff and set-point as the inputs gave them, `u0` the stage's present output for a first sample. -/
def evalLaw (x : Slot) (y sp ff ts u0 : F32) (safe : Bool) : Slot :=
  let r := x.record
  let target := slTarget x sp
  let (w, ramping) := ramp x target y ts
  let l : LawIn := ⟨y, w, ff, ts⟩
  let yp := if x.fresh then y else x.yPrev
  let d := if x.fresh then 0 else lawD r l x.d yp
  let up := if x.fresh then u0 else x.uPrevIn
  let vp := if x.fresh then u0 else x.vPrev
  let i := if slLaw r = 3 then x.i
    else if x.fresh then solveI r l d u0
    else match x.adjust with
      | some o =>
        let uo := lawU o l x.i (lawD o l x.d yp)
        solveI r l d (backU r ts (lawV o ts uo up vp) up vp)
      | none => x.i
  let u := lawU r l i d
  let v := lawV r ts u up vp
  let c := fclamp (recF r 56) (recF r 60) v
  { x with w := w, target := target, ramping := ramping, i := i, d := d, yPrev := y, uPrevIn := u, vPrev := v, uRaw := v,
           uSlot := if safe then recF r 76 else c, atLimit := decide (c ≠ v) && !safe, e := lawE r l, ts := ts, fresh := false,
           adjust := none, safe := safe }

/-- One slot's inputs and law at a stamp. -/
def State.evalSlot (s : State) (n stamp : Nat) (late : Bool) (skips : Nat) : State :=
  let x := s.slot n
  let r := x.record
  let inp (k : Nat) : Option F32 := s.freshSource (slSrc r k) (slAge r k) (recF r 72) stamp
  let (m, p, f) := (inp 0, inp 1, inp 2)
  let s := s.staleOnset n 0 x.staleM m.isNone
  let s := s.staleOnset n 1 x.staleS p.isNone
  let s := s.staleOnset n 2 x.staleF f.isNone
  let (y, sa) := inputValue r 0 m x.holdM
  let (sp, sb) := inputValue r 1 p x.holdS
  let (ff, sc) := inputValue r 2 f x.holdF
  let y := if slRipple r < 32 then fsub y (ripple (s.loop.ripple.getD (slRipple r) []) (stamp % 2 ^ 24) 0 1 0x3F800000#32) else y
  let st := s.stage (s.stageOfSlot x)
  let u0 := if st.has then st.uApp else ouSafe st.record
  let x1 := evalLaw x y sp ff (s.sampleTs x stamp) u0 (sa || sb || sc)
  s.useFree.setSlot n fun _ =>
    { x1 with staleM := m.isNone, staleS := p.isNone, staleF := f.isNone, holdM := m.getD x.holdM, holdS := p.getD x.holdS,
              holdF := f.getD x.holdF, late := late, skips := satAt 65535 (x.skips + skips), last := stamp }

/-- Tracking: i + ts (KI e + KT (u_app - u)) unless frozen (R336, R348). -/
def track (x : Slot) (uApp : F32) (frozen : Bool) : Slot :=
  let r := x.record
  let fz := frozen || x.safe
  if fz ∨ slLaw r = 3 then { x with frozen := fz }
  else
    let g := fadd (fmul (recF r 28) x.e) (fmul (recF r 40) (fsub uApp x.uRaw))
    { x with i := dadd x.i (f2d (fmul x.ts g)), frozen := false }

/-! The output stage (R345 to R349). -/

/-- Friction: s f(p) (R346). -/
def friction (t : List F32) (r : List Byte) (uApp : F32) (pos : Option F32) : F32 :=
  match pos with
  | none => 0
  | some p =>
    let lo := recF r 24
    let hi := recF r 28
    let pc := fclamp lo hi p
    let q := fdiv (fmul (fsub pc lo) (fofInt 31)) (fsub hi lo)
    let k := min 30 (((b32.dec q.toNat).trunc).getD 0).toNat
    let f := fsub q (fofInt (Int.ofNat k))
    let v := fadd (t.getD k 0) (fmul f (fsub (t.getD (k + 1) 0) (t.getD k 0)))
    let d := fsub uApp p
    if flt (recF r 32) d then v else if flt d (fneg (recF r 32)) then fneg v else 0

/-- The point of a destination that can be forced, as force target and identity: an output image point, or the program's variable behind a
loop exchange variable (R312, R348). -/
def State.destPoint (s : State) (dest : Nat) : Option (Nat × Nat) :=
  let i := selIndex dest
  match selClass dest with
  | 1 => (s.cfg.aoPoint[i]?).map fun p => (2, p)
  | 2 => (s.prg.image.bind fun im => im.exchange.find? fun e => e.2 == i).map fun e => (0, e.1)
  | 4 => ((s.cfg.sessions.find? fun x => x.stream == i / 1024).bind fun x => x.outIdent[i % 1024]?).map fun p => (2, p)
  | _ => none

/-- A force stands on a destination. -/
def State.destForced (s : State) (dest : Nat) : Bool :=
  match s.destPoint dest with
  | some (t, id) => s.prg.forces.any fun f => f.target == t && f.ident == id
  | none => false

/-- A value for a destination as a force on it leaves it (table Fixed arbitration orders: force, then loop). -/
def State.destValue (s : State) (dest : Nat) (v : F32) : F32 :=
  match s.destPoint dest with
  | some (t, id) => BitVec.ofNat 32 (forced s.prg.forces t id v.toNat)
  | none => v

/-- The stage's value reaches its destination (table Destination classes); a network output point gets its force when its frame is built. -/
def State.deliverTo (s : State) (dest : Nat) (v : F32) : State :=
  let i := selIndex dest
  match selClass dest with
  | 1 => s.setAo i true (s.destValue dest v) false
  | 2 => { s with loop := { s.loop with exchange := assocSet s.loop.exchange i (s.destValue dest v) } }
  | 3 => s.setSignal i v
  | 4 => { s with loop := { s.loop with netOut := assocSet s.loop.netOut i v } }
  | _ => s

/-- Cause of an external saturation as this member's own destinations show it (R348). -/
def State.extCause (s : State) (dest : Nat) : Option Nat :=
  let i := selIndex dest
  match selClass dest with
  | 1 => if s.destForced dest then some 1 else if !s.fieldOn then some 2 else s.aoExtSat i true
  | 2 => if s.destForced dest then some 1 else none
  | 3 => match s.cfg.signals[i]? with
    | some g => if (s.can.ports.getD g.port {}).busOff then some 2 else none
    | none => none
  | 4 => if s.destForced dest then some 1 else if s.wb.streams.any fun t => t.id == i / 1024 && decide (64 ≤ t.unacked.length) then some 2 else none
  | _ => none

/-- The stage takes its external saturation; onset and end are recorded (R349). -/
def State.setExt (s : State) (o : Nat) (c : Option Nat) : State :=
  let t := s.stage o
  let s := s.setStage o fun t => { t with extSat := c.isSome, extCause := c.getD 0 }
  if !t.extSat && c.isSome then (s.record .loopExtSat [o, c.getD 0]).raise 83
  else if t.extSat && c.isNone then s.record .loopExtSatEnd [o] else s

/-- The chain of a stage for an input at a stamp (table Output stage chain, in evaluation order); none delivers OUT_SAFE, without
compensation (R344, notes/assumptions/64.md). -/
def State.runStage (s : State) (o stamp : Nat) (uIn : Option F32) : State :=
  let t := s.stage o
  let r := t.record
  let lo := ouMin r
  let hi := ouMax r
  let u := uIn.getD (ouSafe r)
  let uApp := fclamp lo hi u
  let pos := if selClass (leField r 20 4) = 0 then none else s.freshSource (leField r 20 4) 0 0 stamp
  let fr := if uIn.isSome ∧ leField r 16 1 < 64 then friction (s.loop.friction.getD (leField r 16 1) []) r uApp pos else 0
  let rp := if uIn.isSome ∧ leField r 17 1 < 32 then
      ripple (s.loop.ripple.getD (leField r 17 1) []) (stamp % 2 ^ 24) (leField r 40 4) (leField r 18 1) (recF r 36) else 0
  let x := fadd (fadd uApp fr) rp
  let c := fclamp lo hi x
  let v := fadd (fmul c (recF r 44)) (recF r 48)
  let s := s.setStage o fun t =>
    { t with has := true, uApp := uApp, clamped := decide (uApp ≠ u ∨ c ≠ x), fric := !feq fr 0, safeOut := uIn.isNone, value := v,
             active := true }
  s.deliverTo (ouDest r) v

/-! Groups (R342 to R344). -/

/-- The smallest of the outputs. -/
def lowest : List F32 → Option F32
  | [] => none
  | x :: xs => some (xs.foldl fmin x)

/-- The largest of the outputs. -/
def highest : List F32 → Option F32
  | [] => none
  | x :: xs => some (xs.foldl fmax x)

/-- G from C and F; F none is -∞ (R342). -/
def groupOut (c : F32) (f : Option F32) : F32 × Bool :=
  match f with
  | none => (c, false)
  | some f =>
    if fle f c then (c, false)
    else
      let g := if flt 0 c then c else if flt f 0 then f else 0
      (g, !feq g f)

/-- The selected member: the ceiling of lowest number whose output equals G, else such a floor (R343). -/
def State.selectedOf (s : State) (l : List Nat) (g : F32) : Option Nat :=
  let is (fl : Bool) (n : Nat) : Bool := slFloor (s.slot n).record == fl && feq (s.slot n).uSlot g
  match l.find? (is false) with
  | some n => some n
  | none => l.find? (is true)

/-- Evaluates a group as one unit (R328, R342 to R344). -/
def State.evalGroup (s : State) (g stamp : Nat) (late : Bool) (skips : Nat) : State :=
  let l := s.enabledMembers g
  let s := l.foldl (fun s n => s.evalSlot n stamp late skips) s
  let outs (fl : Bool) : List F32 := (l.filter fun n => slFloor (s.slot n).record == fl).map fun n => (s.slot n).uSlot
  let gr := s.group g
  let o := grOut gr.record
  let frozen := (s.stage o).extSat
  match lowest (outs false) with
  | none =>
    let s := s.runStage o stamp none
    let u := (s.stage o).uApp
    let s := l.foldl (fun s n => s.setSlot n fun x => { track x u frozen with selected := false }) s
    { s with loop := { s.loop with groups := updAt s.loop.groups g fun x => { x with conflict := false, none_ := true, selected := 0 } } }
  | some c =>
    let (v, conflict) := groupOut c (highest (outs true))
    let sel := s.selectedOf l v
    let s := if conflict && !gr.conflict then s.record .loopConflict [g] else s
    let s := s.runStage o stamp (some v)
    let u := (s.stage o).uApp
    let s := l.foldl (fun s n => s.setSlot n fun x => { track x u frozen with selected := decide (sel = some n) }) s
    { s with loop := { s.loop with groups := updAt s.loop.groups g fun x =>
      { x with conflict := conflict, none_ := sel.isNone, selected := sel.getD 0 } } }

/-- Evaluates a slot that feeds its stage itself. -/
def State.evalAlone (s : State) (n stamp : Nat) (late : Bool) (skips : Nat) : State :=
  let s := s.evalSlot n stamp late skips
  let o := slOut (s.slot n).record
  let frozen := (s.stage o).extSat
  let s := s.runStage o stamp (some (s.slot n).uSlot)
  s.setSlot n fun x => track x (s.stage o).uApp frozen

/-! Bundles (R350 to R353). -/

/-- A local-value entry: channel code, bytes 4 to 7, bytes 8 to 15. -/
def localEntry (code b4 b8 : Nat) : ManEntry := ⟨4, 0, code, b4, b8⟩

/-- The entry of AI n (table Local value channel codes). -/
def State.aiEntry (s : State) (n : Nat) : ManEntry :=
  let a := s.aio.ais.getD n {}
  localEntry (0x100 + n) (milliamps a.current).toNat (a.value.toNat + 2 ^ 32 * a.quality)

/-- EXT_SAT bits of `n` stages from stage `o`. -/
def State.extBits (s : State) (o n : Nat) : Nat := (List.range n).foldl (fun v k => v + ofBool (s.stage (o + k)).extSat * 2 ^ k) 0

/-- The AI values of a window enter the loop inputs. -/
def State.aiInputs (s : State) (l : List ManEntry) (stamp : Nat) : State :=
  l.foldl (fun s e => if e.kind = 4 ∧ 0x100 ≤ e.b2 ∧ e.b2 < 0x108 then
    s.setInput 2 (e.b2 - 0x100) (BitVec.ofNat 32 (bitsOf e.b8 0 32)) stamp (decide (bitsOf e.b8 32 8 ≤ 2)) else s) s

/-- Loop inputs that have arrived take effect: those of the items that `p` picks (R350, R352). -/
def State.takeArrived (s : State) (p : ManEntry → Bool) : State :=
  let hit := s.loop.arrived.filter fun (a : LoopArr) => p a.item
  { s with loop := { s.loop with inputs := hit.foldl (fun l a => assocSet l (a.cls, a.idx) a.val) s.loop.inputs,
                                 arrived := s.loop.arrived.filter fun (a : LoopArr) => !p a.item } }

/-- The entries that name the items of the loop inputs that have arrived: sweeps by their epoch, network and CAN frames each once (R350). -/
def State.arrivedItems (s : State) : List ManEntry :=
  let sweeps (e : Nat) : List ManEntry := (s.wb.heldItems.map (·.1)).filter fun x => x.kind == 3 && x.b4 == e
  (s.loop.arrived.flatMap fun a => if a.item.kind = 3 then sweeps a.item.b4 else [a.item]).eraseDups

/-- An own item is the one that an entry of the holder names. -/
def State.isNamed (s : State) (e own : ManEntry) : Bool :=
  if e.kind = 2 then s.sameCan own e else if e.kind = 3 then own.kind == 3 && own.b4 == e.b4 else own == e

/-- The words of a station's reply as loop inputs of class 6. -/
def State.stationInputs (s : State) (station stamp : Nat) (ws : List Word) (valid : Bool) : State :=
  (numbered 0 ws).foldl (fun s p => s.setInput 6 (station * 1024 + p.1) p.2 stamp valid) s

/-- A named item gives the follower its loop inputs: what came from the own one, else the content that was fetched (R199, R352). -/
def State.takeNamed (s : State) (stamp : Nat) (e : ManEntry) : State :=
  if s.loop.arrived.any fun a => s.isNamed e a.item then s.takeArrived (s.isNamed e)
  else match assocGet s.wb.heldItems e with
    | none => s
    | some b =>
      if e.kind = 2 then
        let id := leField b 4 4
        (frameSignals e.b1 (id % 2 ^ 29) (bitOf id 29) (bodyData b) s.cfg.signals).foldl (fun s x =>
          s.setInput 5 x.1 x.2 (s.canAngle e.b4) true) s
      else if e.kind = 1 then s.stationInputs e.b2 stamp (toWords (b.length / 4) b) true
      else s

/-- Pieces of at most `n` elements. -/
def pieces {α : Type} (n : Nat) : Nat → List α → List (List α)
  | 0, l => [l]
  | k + 1, l => if l.length ≤ n then [l] else l.take n :: pieces n k (l.drop n)

/-- Sends the manifest of a cycle, release or window in parts of up to 128 entries. -/
def State.sendManifest (s : State) (m : ManSt) (astatus : Nat) : State :=
  let ps := pieces 128 63 m.entries
  (numbered 0 ps).foldl (fun s p => s.sendWb (.manifest
    { cycle := m.cycle, angle := m.angle, astatus := astatus, gen := s.sendGen, task := m.task, part := p.1, parts := ps.length,
      jsnCut := m.jsnCut, entries := p.2 })) s

/-- Loop commands that a bundle covers for the first time are noted with its window (R356). -/
def State.coverLoop (s : State) (window cut : Nat) (work : List Op) : State :=
  let new := (work.filterMap fun o => if o.engine = 1 then o.jsn else none).filter fun j =>
    decide (j ≤ cut) && (assocGet s.loop.seen j).isNone
  { s with loop := { s.loop with covered := max s.loop.covered cut, window := window % 65536,
                                 seen := s.loop.seen ++ new.map fun j => (j, window) } }

/-- Every stage with a record notes its cause of external saturation (R348, R350). -/
def State.noteSat (s : State) (cause : State → Nat → Option Nat) : State :=
  (List.range 128).foldl (fun s o => if (s.stage o).record = [] then s else s.setExt o (cause s o)) s

/-- The items of a bundle are used; the content of a CAN frame is kept for a follower that lacks it (R199, R352). -/
def State.useArrived (s : State) : State :=
  let held := (s.loop.arrived.filter fun (a : LoopArr) => a.item.kind == 2).foldl (fun l a => assocSet l a.item a.content) s.wb.heldItems
  { s with wb := { s.wb with heldItems := newest 4096 held } }.takeArrived fun _ => true

/-- LOOP_BUNDLE_TX: of a window that has begun; the frames and epochs whose values its samples use, local inputs sampled once, external
saturation, P, and the cut (R350, R351). -/
def execLoopBundleTx (window : Nat) (ai : List Nat) (s : State) : Result :=
  .next (if !s.holds || !s.loopOn || decide (s.tb.ang < window * 65536) then s
    else
      let s := (s.takeAis 0 ai).noteSat fun s o => s.extCause (ouDest (s.stage o).record)
      let p := if s.tb.anchor.period ≠ 0 then s.tb.anchor.period else countsNs (countsPerCycle * 65536) s.tb.freq
      let b0 := s.extBits 0 96
      let es := (List.range 8).map s.aiEntry ++ [localEntry 0xFE00 (b0 % 2 ^ 32) (b0 / 2 ^ 32), localEntry 0xFE01 (s.extBits 96 32) 0,
        localEntry 0xFE02 (p % 2 ^ 32) (p / 2 ^ 32)]
      let cut := if s.wb.dual then s.wb.jsnAck else s.wb.jsn
      let m : ManSt := { cycle := window, angle := window * 65536, task := 0x100, held := [0], parts := 1, jsnCut := cut,
                         entries := s.arrivedItems ++ es, missing := [] }
      let s := ((s.useArrived.aiInputs es (window * 65536)).noteEpochs m.entries cut).coverLoop window cut s.hq.work
      { s with loop := { s.loop with period := p } }.sendManifest m s.status)

/-- The follower takes the bundle of a window when it holds it whole (R352). -/
def State.takeBundle (s : State) (window : Nat) : Option State :=
  match s.wb.manifests.find? fun m => m.task == 0x100 && m.cycle == window && m.held.length == m.parts && m.missing.isEmpty with
  | none => none
  | some m =>
    if s.loop.window = window % 65536 ∧ s.loop.period ≠ 0 then some s
    else
      let get (code : Nat) : Nat := match m.entries.find? fun e => e.kind == 4 && e.b2 == code with
        | some e => e.b4 + 2 ^ 32 * e.b8
        | none => 0
      let sat (o : Nat) : Bool := if o < 96 then bitOf (get 0xFE00) o else bitOf (get 0xFE01) (o - 96)
      let s := s.noteSat fun s o => if sat o then some ((s.extCause (ouDest (s.stage o).record)).getD 0) else none
      let s := m.entries.foldl (fun s e => if e.kind = 4 then s else s.takeNamed (window * 65536) e) s
      let s := ((s.aiInputs m.entries (window * 65536)).noteEpochs m.entries m.jsnCut).coverLoop window m.jsnCut s.workOf
      some { s with loop := { s.loop with period := get 0xFE02 % 2 ^ 64,
                                          followMax := satAt 65535 (max s.loop.followMax
                                            (countsNs (s.tb.ang - window * 65536) s.tb.freq / 1000)) } }

/-- The samples of N per cycle and PHASE with stamps below `x`, up to a constant (R326). -/
def samplesBelow (n phase x : Nat) : Nat :=
  let y := x + 2 ^ 24 - phase
  n * (y / 2 ^ 24) + (y % 2 ^ 24 * n + 2 ^ 24 - 1) / 2 ^ 24

/-- A sample of a slot at a stamp is due and not yet evaluated (R115, R326, R331): one on the slot's grid at or before the angle clock, or at
a jump the one LATE sample for those strictly between, whose number it skips. A follower goes by the holder's window, not by its clock. -/
def State.sampleDue (s : State) (x : Slot) (stamp : Nat) (late : Bool) (skips : Nat) : Bool :=
  let below := samplesBelow (slN x.record) (slPhase x.record)
  decide (x.last < stamp) && (if late then (match s.tb.jump with
      | some (old, new) => !s.holds || (stamp == new && decide (0 < skips) && skips == below new - below (max old x.last + 1))
      | none => !s.holds)
    else skips == 0 && below (stamp + 1) == below stamp + 1 && (!s.holds || decide (stamp ≤ s.tb.ang)))

/-- A slot's sample at a stamp is still owed: on its grid, or at a jump for its samples strictly between (R328, R331). -/
def State.sampleOwed (s : State) (x : Slot) (stamp : Nat) (late : Bool) : Bool :=
  let below := samplesBelow (slN x.record) (slPhase x.record)
  decide (x.last < stamp) && (if late then (match s.tb.jump with
      | some (old, new) => decide (below (max old x.last + 1) < below new)
      | none => false)
    else below (stamp + 1) == below stamp + 1)

/-- A slot evaluates alone, or is the lowest enabled member of its group, at which the group is evaluated (R328). -/
def State.leadsGroup (s : State) (n : Nat) : Bool :=
  match slotGroup (s.slot n) with
  | some g => (s.enabledMembers g).head? == some n
  | none => true

/-- A slot of a lower number, alone or for its group, is due at the same stamp and not yet evaluated (R328). -/
def State.lowerOwed (s : State) (n stamp : Nat) (late : Bool) : Bool :=
  (s.slotsN.take n).any fun e => e.2.enabled && s.sampleOwed e.2 stamp late && s.leadsGroup e.1

/-- The member that holds the lease evaluates a window that no bundle opened from its own inputs as they have arrived (R353). -/
def State.ownInputs (s : State) (window : Nat) : State :=
  if s.loop.window = window % 65536 then s else s.takeArrived fun _ => true

/-- LOOP_SAMPLE: a slot or its group at a due stamp, in slot-number order; a follower evaluates from the bundle alone (R328, R352). A group
acts at its lowest enabled member. -/
def execLoopSample (slot stamp : Nat) (late : Bool) (skips : Nat) (s : State) : Result :=
  .next (if 512 ≤ slot ∨ s.loopOn = false ∨ (s.slot slot).enabled = false ∨ s.sampleDue (s.slot slot) stamp late skips = false
      ∨ s.lowerOwed slot stamp late then s
    else
      let t := if s.holds then some (s.ownInputs (stamp / 65536)) else if s.follows then s.takeBundle (stamp / 65536) else none
      match t with
      | none => s
      | some s =>
        let s := s.applySetpoint stamp
        match slotGroup (s.slot slot) with
        | some g => if s.leadsGroup slot then s.evalGroup g stamp late skips else s
        | none => s.evalAlone slot stamp late skips)

/-! Commands (R356 to R358). -/

/-- Outcome LOOP_REFUSED. -/
def stLoopRefused : Nat := 0x300

/-- A refused loop command: LAST_REFUSE and the record name the reason. -/
def State.refuseLoop (s : State) (op : Op) (reason : Nat) : State :=
  ({ s with loop := { s.loop with lastRefuse := reason } }.record .loopRefused [reason]).finishCut op stLoopRefused reason

/-- Window of an instant on the angle clock. -/
def windowOf (t : Nat) : Nat := t / 65536

/-- A loop command takes effect once a bundle's cut covers it; a TIMED one covered too late goes by its LATE_POLICY (R356). -/
def State.loopOp (s : State) (w : WorkRef) (opcode : Nat) (f : Op → State → State) : State :=
  s.cutOp w 1 opcode fun op s =>
    match op.jsn with
    | none => f op s
    | some j =>
      match assocGet s.loop.seen j with
      | none => s
      | some win =>
        let start := max (win * 65536) (if dTimed op.bytes then (if dPtBase op.bytes then s.tb.ang else dTime op.bytes) else 0)
        let s := { s with loop := { s.loop with seen := assocDel s.loop.seen j, effect := start } }
        let late := dTimed op.bytes && !dPtBase op.bytes && decide (windowOf (dTime op.bytes) < win)
        if late ∧ dLatePolicy op.bytes = false then s.finishCut { op with late := false } stLaunchMissed 0
        else f { op with late := op.late || late } s

/-- The structural fields of two slot records agree (R338). -/
def sameShape (a b : List Byte) : Bool := a.take 24 == b.take 24

/-- SLOT_WRITE (R338, R341). -/
def execSlotWrite (w : WorkRef) (s : State) : Result :=
  .next (s.loopOp w 0x10 fun op s =>
    let n := dInline op.bytes 0 2
    let r := s.buffer op
    if 512 ≤ n then s.refuseLoop op 5
    else
      let x := s.slot n
      if x.enabled ∧ !sameShape x.record r then s.refuseLoop op 1
      else match s.slotRefusal r with
        | some k => s.refuseLoop op k
        | none =>
          let same := (x.record.drop 24).take 16 == (r.drop 24).take 16 && (x.record.drop 44).take 12 == (r.drop 44).take 12
          (s.setSlot n fun x =>
            { x with record := r, adjust := if x.enabled && !same then some (x.adjust.getD x.record) else x.adjust }).finishCut op stOk 0)

/-- Stage o has a feeder besides slot n and group g. -/
def State.otherFeeder (s : State) (o : Nat) (n g : Option Nat) : Bool :=
  (s.slotsN.any fun e => e.2.enabled && slGroup e.2.record == 0xFFFF && slOut e.2.record == o && decide (some e.1 ≠ n))
    || ((List.range 64).any fun k => (s.group k).configured && grOut (s.group k).record == o && decide (some k ≠ g))

/-- Why a slot cannot be enabled: 5 no valid record, 2 capacity, 3 topology, 6 its group's N and PHASE (R325, R327, R328). -/
def State.enableRefusal (s : State) (n : Nat) : Option Nat :=
  let r := (s.slot n).record
  match s.slotRefusal r with
  | some k => some k
  | none =>
    if 55555 < s.loopLoad + slN r then some 2
    else if (slGroup r = 0xFFFF) = (slOut r = 0xFFFF) then some 3
    else if slGroup r = 0xFFFF then
      (if (s.stage (slOut r)).record = [] ∨ s.otherFeeder (slOut r) (some n) none then some 3 else none)
    else
      let g := s.group (slGroup r)
      if !g.configured ∨ !(grMembers g.record).contains n ∨ (s.stage (grOut g.record)).record = [] then some 3
      else if (s.enabledMembers (slGroup r)).any fun m => slN (s.slot m).record != slN r || slPhase (s.slot m).record != slPhase r then some 6
      else none

/-- A stage has an enabled feeder. -/
def State.stageFed (s : State) (o : Nat) : Bool := s.slotsN.any fun e => e.2.enabled && s.stageOfSlot e.2 == o

/-- SLOT_ENABLE: bumpless from the first sample at which it takes effect, or disabled; a group without a member left delivers OUT_SAFE (R337,
R344, R356). -/
def execSlotEnable (w : WorkRef) (s : State) : Result :=
  .next (s.loopOp w 0x11 fun op s =>
    let n := dInline op.bytes 0 2
    let sub := dSubop op.bytes
    if 512 ≤ n ∨ 1 < sub then s.refuseLoop op 5
    else if sub = 0 then
      let x := s.slot n
      let o := s.stageOfSlot x
      let s := s.setSlot n fun x => { x with enabled := false, ramping := false, selected := false, safe := false }
      let s := if x.enabled ∧ (slotGroup x).isSome ∧ !s.stageFed o then s.runStage o s.loop.effect none else s
      (s.setStage o fun t => { t with active := s.stageFed o }).finishCut op stOk 0
    else if (s.slot n).enabled then s.finishCut op stOk 0
    else match s.enableRefusal n with
      | some k => s.refuseLoop op k
      | none =>
        let s := s.setSlot n fun x =>
          { x with enabled := true, fresh := true, ramping := true, last := max x.last (s.loop.effect - 1), skips := 0, late := false, staleM := false, staleS := false,
                   staleF := false, adjust := none }
        (s.setStage (s.stageOfSlot (s.slot n)) fun t => { t with active := true }).finishCut op stOk 0)

/-- SET_TARGET: slots with SP class 1 only (R339, R358). -/
def execSetTarget (w : WorkRef) (s : State) : Result :=
  .next (s.loopOp w 0x12 fun op s =>
    let n := dInline op.bytes 0 2
    let v : F32 := BitVec.ofNat 32 (dInline op.bytes 4 4)
    if 512 ≤ n ∨ !ffinite v then s.refuseLoop op 5
    else if selClass (slSrc (s.slot n).record 1) ≠ 1 ∨ (s.slot n).record = [] then s.refuseLoop op 7
    else (s.setSlot n fun x => { x with setTarget := some v }).finishCut op stOk 0)

/-- Why a group record is refused: 5 a value, 3 topology, 6 members that differ in N or PHASE (R325, R328). -/
def State.groupRefusal (s : State) (g : Nat) (r : List Byte) : Option Nat :=
  let l := grMembers r
  let written := l.filter fun n => (s.slot n).record != []
  let other (k : Nat) : Bool := decide (k ≠ g) && (s.group k).configured && l.any (grMembers (s.group k).record).contains
  if r.length ≠ 32 ∨ leField r 0 1 < 2 ∨ 8 < leField r 0 1 ∨ l.length ≠ leField r 0 1 ∨ !(l.all fun n => decide (n < 512))
      ∨ !decide l.Nodup ∨ 128 ≤ grOut r ∨ leField r 1 1 ≠ 0 ∨ leField r 20 12 ≠ 0 then some 5
  else if s.otherFeeder (grOut r) none (some g) ∨ (List.range 64).any other
      ∨ ((s.enabledMembers g).any fun n => !l.contains n)
      ∨ (l.any fun n => (s.slot n).enabled && slGroup (s.slot n).record != g) then some 3
  else match written with
    | [] => none
    | n :: ns => if ns.any fun m => slN (s.slot m).record != slN (s.slot n).record || slPhase (s.slot m).record != slPhase (s.slot n).record
        then some 6 else none

/-- GROUP_WRITE. -/
def execGroupWrite (w : WorkRef) (s : State) : Result :=
  .next (s.loopOp w 0x13 fun op s =>
    let g := dInline op.bytes 0 1
    let r := s.buffer op
    if 64 ≤ g then s.refuseLoop op 5
    else match s.groupRefusal g r with
      | some k => s.refuseLoop op k
      | none => { s with loop := { s.loop with groups := updAt s.loop.groups g fun x => { x with record := r, configured := true } } }.finishCut
          op stOk 0)

/-- OUT_WRITE. -/
def execOutWrite (w : WorkRef) (s : State) : Result :=
  .next (s.loopOp w 0x14 fun op s =>
    let o := dInline op.bytes 0 1
    let r := s.buffer op
    if 128 ≤ o ∨ s.stageOk r = false then s.refuseLoop op 5
    else (s.setStage o fun t => { t with record := r }).finishCut op stOk 0)

/-- The binary32 values of a table. -/
def tableOf (n : Nat) (b : List Byte) : List F32 := (List.range n).map fun k => recF b (4 * k)

/-- TABLE_LOAD: the table is replaced whole (R357). Friction amplitudes are not negative. -/
def execTableLoad (w : WorkRef) (s : State) : Result :=
  .next (s.loopOp w 0x15 fun op s =>
    let t := dInline op.bytes 0 1
    let b := s.buffer op
    match dSubop op.bytes with
    | 0 =>
      let l := tableOf 32 b
      if 64 ≤ t ∨ b.length ≠ 128 ∨ !(l.all fun x => ffinite x && !flt x 0) then s.refuseLoop op 5
      else { s with loop := { s.loop with friction := updAt s.loop.friction t fun _ => l } }.finishCut op stOk 0
    | 1 =>
      let l := tableOf 256 b
      if 32 ≤ t ∨ b.length ≠ 1024 ∨ !(l.all ffinite) then s.refuseLoop op 5
      else { s with loop := { s.loop with ripple := updAt s.loop.ripple t fun _ => l } }.finishCut op stOk 0
    | _ => s.refuseLoop op 5)

/-- LOOP_SLOT_s_STATUS. -/
def slotStatus (x : Slot) : Nat :=
  let st := if !x.enabled then 0 else if x.safe then 3 else if x.ramping then 1 else 2
  st + 4 * ofBool x.staleM + 8 * ofBool x.staleS + 16 * ofBool x.staleF + 32 * ofBool x.frozen + 64 * ofBool x.selected
    + 128 * ofBool x.atLimit + 256 * ofBool x.late + 65536 * x.skips

/-- SLOT_READ: w, u_slot, i, d, the lead-lag state and the status word, packed in this order; rest 0 (notes/assumptions/19.md). -/
def execSlotRead (w : WorkRef) (s : State) : Result :=
  .next (s.engineOp w 1 0x16 fun op s =>
    let n := dInline op.bytes 0 2
    if 512 ≤ n then
      ({ s with loop := { s.loop with lastRefuse := 5 } }.record .loopRefused [5]).finish op stLoopRefused 5
    else
      let x := s.slot n
      s.finish op stOk 64 (leBytes 4 x.w.toNat ++ leBytes 4 x.uSlot.toNat ++ leBytes 8 x.i.toNat ++ leBytes 8 x.d.toNat
        ++ leBytes 4 x.uPrevIn.toNat ++ leBytes 4 x.vPrev.toNat ++ leBytes 4 (slotStatus x) ++ List.replicate 28 0))

end Sys2Proof.Machine
end

