-- ==== Sys2Proof/Machine/Artefacts.lean ====
section
/-! DEFINITION. Signed artefacts: the envelope, the keys and their masks, the checks of R575 and R576, and the protection set's content
(15_security_and_field_update.md, 11_protection_thermal_control_and_dispatch.md). -/

namespace Sys2Proof.Machine

/-! The envelope. -/

/-- The artefact in a buffer (table Artefact envelope); none when the buffer ends before its signature. -/
def artefactOf (b : List Byte) : Option Artefact :=
  let n := leField b 4 4
  if b.length < 178 + n then none
  else
    let t : PlantTime := ⟨leField b 28 6, leField b 24 4⟩
    some { format := leField b 0 2, type := leField b 2 1, keyIdx := leField b 3 1, serial := leField b 8 8, pairId := leField b 16 2,
           notAfter := if leField b 24 12 = 0 then none else some t, issueSeq := leField b 36 8, body := (b.drop 64).take n,
           sig := (b.drop (64 + n)).take 114 }

/-- The digest of an artefact: over the bytes that its signature covers (R573). -/
def artefactDigest (b : List Byte) : List Byte := digest (b.take (64 + leField b 4 4))

/-- Keys that may sign a TYPE (table Artefact types, R572). -/
def keyAllowed (type key : Nat) : Bool :=
  match type with
  | 1 => key == 0
  | 2 | 7 => key == 1
  | 3 | 4 | 5 | 6 => decide (1 ≤ key ∧ key ≤ 15)
  | _ => false

/-- The key an artefact names: the delegated ones only for the types of their mask; an enrolment carries its own (R572, R574). -/
def State.artKey (s : State) (a : Artefact) : Option (List Byte) :=
  if a.keyIdx = 0 then some s.sec.vendor
  else if a.keyIdx = 1 then
    (if s.sec.owner ≠ [] then some s.sec.owner else if a.type = 7 then some (a.body.take 57) else none)
  else (s.cfg.keys.find? fun k => k.idx == a.keyIdx && bitOf k.mask a.type).map (·.key)

/-- The time by which an expiry is judged, in nanoseconds of plant time: plant time in LOCKED, otherwise the calendar while OSF is clear
(R280). -/
def State.judgeTime (s : State) : Option Nat :=
  if s.tb.ptState = .locked then some s.tb.pt.total
  else if s.rtc.osf = false then
    some ((Int.ofNat (s.rtc.cal.secs + tai2000) + signedOf 16 (s.reg .ptUtc).toNat).toNat * 1000000000)
  else none

/-- An unlock or log-clear token. -/
def isToken (a : Artefact) : Bool := a.type == 5 || a.type == 6

/-- The nonce lists were lost less than 30 days of plant time ago: the days count from the first plant time the module has had since
(R552). -/
def State.nonceGap (s : State) (now : Option Nat) : Bool :=
  match s.sec.nonceLost with
  | none => false
  | some l => match now with
    | some t => decide (l.total = 0 ∨ t < l.total + 2592000 * 1000000000)
    | none => true

/-- The expiry holds: not passed, and for a token judged (R575); for 30 days after the nonce lists were lost, a token ends within 24 h
(R552). -/
def State.unexpired (s : State) (a : Artefact) : Bool :=
  match a.notAfter, s.judgeTime with
  | none, now => !isToken a || !s.nonceGap now
  | some _, none => !isToken a
  | some t, some now => decide (now ≤ t.total) && (!isToken a || !s.nonceGap (some now) || decide (t.total ≤ now + 86400 * 1000000000))

/-- The first check of R575 that fails: 1 FORMAT, TYPE or KEY_IDX; 2 the key; 3 the signature; 4 SERIAL; 5 PAIR_ID; 6 the expiry. -/
def State.artCheck (s : State) (a : Artefact) (signed : List Byte) : Option Nat :=
  if a.format ≠ 1 ∨ keyAllowed a.type a.keyIdx = false then some 1
  else match s.artKey a with
    | none => some 2
    | some k =>
      if ed448Verify k (digest signed) a.sig = false then some 3
      else if a.serial ≠ s.sec.serial ∧ (a.serial ≠ 0 ∨ 5 ≤ a.type) then some 4
      else if a.pairId ≠ s.pairId ∧ a.pairId ≠ 0 then some 5
      else if s.unexpired a = false then some 6
      else none

/-- What the checks of an artefact answer. -/
inductive ArtVerdict | refused (type check : Nat) | good (a : Artefact)
  deriving DecidableEq, Repr

/-- Judges the artefact in a buffer, which must be of a TYPE where one is asked for (R575). -/
def State.judgeArtefact (s : State) (type : Option Nat) (b : List Byte) : ArtVerdict :=
  match artefactOf b with
  | none => .refused (leField b 2 1) 1
  | some a =>
    if (match type with
        | some t => a.type != t
        | none => false) then .refused a.type 1
    else match s.artCheck a (b.take (64 + leField b 4 4)) with
      | some c => .refused a.type c
      | none => .good a

/-- SIG_FAIL with TYPE and the failed check, event source 120 (R575). -/
def State.sigFail (s : State) (type check : Nat) : State :=
  ({ s with sec := { s.sec with sigFailSeen := true } }.record .sigFail [type, check]).raise 120

/-- Reason of SEC_REFUSED for a failed check: 1 signature or envelope, 2 binding, 3 expiry (R593). -/
def secReason (check : Nat) : Nat := if check ≤ 3 then 1 else if check ≤ 5 then 2 else 3

/-- The nonce of a token's body. -/
def tokenNonce (a : Artefact) : Nat := leField a.body 0 8

/-- The token's nonce was accepted before, among the last 64 of its TYPE (R576). -/
def State.nonceUsed (s : State) (a : Artefact) : Bool :=
  (if a.type = 5 then s.sec.nonceDbg else if a.type = 6 then s.sec.nonceLog else []).contains (tokenNonce a)

/-- Keeps an accepted nonce (R576). -/
def State.keepNonce (s : State) (a : Artefact) : State :=
  let add (l : List Nat) : List Nat := (l ++ [tokenNonce a]).drop ((l ++ [tokenNonce a]).length - 64)
  if a.type = 5 then { s with sec := { s.sec with nonceDbg := add s.sec.nonceDbg } }
  else if a.type = 6 then { s with sec := { s.sec with nonceLog := add s.sec.nonceLog } } else s

/-! The protection set's content. -/

/-- Warn, limit, trip and HYST of a quantity, four 16-bit fields; HYST is unsigned. -/
def levelsAt (b : List Byte) (i : Nat) (signed : Bool) : Levels :=
  let v (k : Nat) : Int := if signed then signedOf 16 (leField b (i + k) 2) else Int.ofNat (leField b (i + k) 2)
  ⟨v 0, v 2, v 4, Int.ofNat (leField b (i + 6) 2)⟩

/-- Table Threshold class; T_CH_UT has no trip level. -/
def classAtByte (b : List Byte) (i : Nat) : ThrClass :=
  let w := signedOf 16 (leField b (i + 24) 2)
  let l := signedOf 16 (leField b (i + 26) 2)
  { ov := levelsAt b i false, uv := levelsAt b (i + 8) false, ot := levelsAt b (i + 16) true,
    chUt := ⟨w, l, l, Int.ofNat (leField b (i + 28) 2)⟩, ocDis := levelsAt b (i + 32) false, ocCh := levelsAt b (i + 40) false,
    warnN := leField b (i + 48) 1, limitN := leField b (i + 49) 1, releaseN := leField b (i + 50) 1, nodeFilter := leField b (i + 51) 1 }

/-- Table Trip group entry. -/
def groupAt (b : List Byte) (i : Nat) : GroupEntry :=
  let f := leField b i 1
  ⟨bitOf f 0, bitOf f 1, leField b (i + 1) 1, leField b (i + 2) 1, leField b (i + 3) 1, leField b (i + 4) 1, leField b (i + 6) 2⟩

/-- String entry. -/
def strAt (b : List Byte) (i : Nat) : StrEntry :=
  ⟨leField b i 1, bitsOf (leField b (i + 1) 1) 0 4, leField b (i + 2) 1, leField b (i + 3) 1⟩

/-- Auxiliary entry. -/
def auxAt (b : List Byte) (i : Nat) : AuxEntry :=
  ⟨leField b i 1, leField b (i + 1) 1, leField b (i + 2) 1, leField b (i + 3) 1, leField b (i + 4) 1 == 1, bitsOf (leField b (i + 5) 1) 0 4⟩

/-- The content of a protection set (tables Protection set content, Header); none when a part is missing or a count out of range. -/
def protSetOf (b : List Byte) : Option ProtSet :=
  let nc := leField b 10 1
  let ns := leField b 11 1
  let na := leField b 12 2
  let c := 96
  let st := c + 64 * nc
  let a := st + 8 * ns
  if b.length < a + 8 * na ∨ nc = 0 ∨ 8 < nc ∨ ns = 0 ∨ 64 < ns ∨ 512 < na then none
  else
    some { format := leField b 0 2, setSeq := leField b 4 4, pairId := leField b 8 2, missLimitMs := leField b 16 4,
           missTripMs := leField b 20 4, canId := leField b 24 2, canPorts := bitsOf (leField b 26 1) 0 4, fd := bitOf (leField b 26 1) 4,
           appId := leField b 28 2, groups := (List.range 4).map fun g => groupAt b (64 + 8 * g),
           classes := (List.range nc).map fun k => classAtByte b (c + 64 * k),
           strings := (List.range ns).map fun k => strAt b (st + 8 * k), aux := (List.range na).map fun k => auxAt b (a + 8 * k) }

/-- Levels of an above quantity in order. -/
def risingLevels (l : Levels) : Bool := decide (l.warn ≤ l.limit ∧ l.limit ≤ l.trip)

/-- Levels of a below quantity in order. -/
def fallingLevels (l : Levels) : Bool := decide (l.limit ≤ l.warn ∧ l.trip ≤ l.limit)

/-- A number from 1 to `m`. -/
def oneTo (m n : Nat) : Bool := decide (1 ≤ n ∧ n ≤ m)

/-- The levels and counts of a class are in order (R464, table Threshold class). -/
def classOk (c : ThrClass) : Bool :=
  risingLevels c.ov && fallingLevels c.uv && risingLevels c.ot && fallingLevels c.chUt && risingLevels c.ocDis && risingLevels c.ocCh
    && oneTo 16 c.warnN && oneTo 16 c.limitN && oneTo 16 c.releaseN && oneTo 64 c.nodeFilter

/-- A position of the ring table holds a node of a kind. -/
def State.nodeIs (s : State) (ring pos : Nat) (t : NType) : Bool :=
  pos != 0 && (match (s.cfg.ringTable.getD ring [])[pos - 1]? with
    | some r => r.ntype == t
    | none => false)

/-- A trip group entry's references hold; those of a group that is not enabled are not used. -/
def State.groupOk (s : State) (g : Nat) (e : GroupEntry) : Bool :=
  !e.en || (bitOf s.cfg.parMode g && (!e.backupEn || (decide (e.backupPdo < 4) && e.backupPdo != g))
    && (e.confPos == 0 || (s.nodeIs e.confRing e.confPos .aux && decide (e.confInput < 32) && decide (10 ≤ e.confirmMs ∧ e.confirmMs ≤ 2000))))

/-- FORMAT, counts, level order and every reference of a set hold (R464, R458). -/
def State.setOk (s : State) (x : ProtSet) : Bool :=
  x.format == 1 && decide (10 ≤ x.missLimitMs ∧ x.missLimitMs ≤ x.missTripMs ∧ x.missTripMs ≤ 60000) && decide (x.canId ≤ 0x7FD)
    && x.classes.all classOk && ((List.range 4).all fun g => (x.groups[g]?).all (s.groupOk g))
    && (x.strings.all fun e => decide (e.cls < x.classes.length) && s.nodeIs e.ring e.pos .shunt)
    && (x.aux.all fun e => s.nodeIs e.ring e.pos .aux && decide (e.input < 32) && oneTo 3 e.severity)

end Sys2Proof.Machine
end

