-- ==== Sys2Proof/Machine/Protection.lean ====
section
/-! DEFINITION. The commands of the protection plane: staging, commit, discard, reset, test and read of the protection set
(11_protection_thermal_control_and_dispatch.md, R455, R456, R464 to R468, R482). -/

namespace Sys2Proof.Machine

/-- Outcome PROT_REFUSED (R482). -/
def stProtRefused : Nat := 0x600
/-- Outcome PROT_TEST_FAIL (R468). -/
def stProtTestFail : Nat := 0x601

/-- A refused protection command. -/
def State.protRefuse (s : State) (op : Op) (reason : Nat) : State := s.finishCut op stProtRefused reason

/-- Work that takes effect once a manifest's JSN_CUT covers it (R202, R297, R465, R481). -/
def State.coveredOp (s : State) (w : WorkRef) (engine opcode : Nat) (f : Op → State → State) : State :=
  s.cutOp w engine opcode fun op s =>
    match op.jsn with
    | none => f op s
    | some j => if j ≤ s.wb.covered then f op s else s

/-! The set as bytes. -/

/-- Levels as four 16-bit fields. -/
def levelsBytes (l : Levels) : List Byte :=
  leBytes 2 (unsignedOf 16 l.warn) ++ leBytes 2 (unsignedOf 16 l.limit) ++ leBytes 2 (unsignedOf 16 l.trip) ++ leBytes 2 (unsignedOf 16 l.hyst)

/-- Table Threshold class. -/
def classBytes (c : ThrClass) : List Byte :=
  levelsBytes c.ov ++ levelsBytes c.uv ++ levelsBytes c.ot ++ leBytes 2 (unsignedOf 16 c.chUt.warn) ++ leBytes 2 (unsignedOf 16 c.chUt.limit)
    ++ leBytes 2 (unsignedOf 16 c.chUt.hyst) ++ leBytes 2 0 ++ levelsBytes c.ocDis ++ levelsBytes c.ocCh
    ++ leBytes 1 c.warnN ++ leBytes 1 c.limitN ++ leBytes 1 c.releaseN ++ leBytes 1 c.nodeFilter ++ List.replicate 12 0

/-- The content of a set, reserved bytes 0 (table Protection set content). -/
def protSetBytes (x : ProtSet) : List Byte :=
  leBytes 2 x.format ++ leBytes 2 0 ++ leBytes 4 x.setSeq ++ leBytes 2 x.pairId ++ leBytes 1 x.classes.length ++ leBytes 1 x.strings.length
    ++ leBytes 2 x.aux.length ++ leBytes 2 0 ++ leBytes 4 x.missLimitMs ++ leBytes 4 x.missTripMs ++ leBytes 2 x.canId
    ++ leBytes 1 (x.canPorts + 16 * ofBool x.fd) ++ leBytes 1 0 ++ leBytes 2 x.appId ++ List.replicate 34 0
    ++ x.groups.flatMap (fun e => leBytes 1 (ofBool e.en + 2 * ofBool e.backupEn) ++ leBytes 1 e.backupPdo ++ leBytes 1 e.confRing
        ++ leBytes 1 e.confPos ++ leBytes 1 e.confInput ++ leBytes 1 0 ++ leBytes 2 e.confirmMs)
    ++ x.classes.flatMap classBytes
    ++ x.strings.flatMap (fun e => leBytes 1 e.cls ++ leBytes 1 e.groups ++ leBytes 1 e.ring ++ leBytes 1 e.pos ++ leBytes 4 0)
    ++ x.aux.flatMap (fun e => leBytes 1 e.ring ++ leBytes 1 e.pos ++ leBytes 1 e.input ++ leBytes 1 e.severity ++ leBytes 1 (ofBool e.activeOpen)
        ++ leBytes 1 e.groups ++ leBytes 2 0)

/-! Staging and commit. -/

/-- PROT_STAGE: signature, binding and role, then format, order and references; the set is staged on both members (R464). -/
def execProtStage (w : WorkRef) (s : State) : Result :=
  .next (s.cutOp w 2 0x20 fun op s =>
    let b := s.buffer op
    match s.judgeArtefact (some 4) b with
    | .refused t c => (s.sigFail t c).protRefuse op (if c = 4 ∨ c = 5 then 2 else 1)
    | .good a =>
      match protSetOf a.body with
      | none => s.protRefuse op 3
      | some x =>
        if x.pairId ≠ s.pairId ∨ s.cfg.manager then s.protRefuse op 2
        else if s.setOk x = false then s.protRefuse op 3
        else
          let d := artefactDigest b
          let s := { s with prot := { s.prot with staged := some x, stagedDigest := d } }
          ((s.record .protStaged [x.setSeq, leField d 0 8]).raise 75).finishCut op stOk 0)

/-- The groups under a new set: the NO_SET holds end without a reset and re-arm; a tripped group stays tripped (R456, R466). -/
def commitGroup (x : ProtSet) (k : Nat) (t : TripGroup) : TripGroup :=
  let en := (x.groups[k]?).any (·.en)
  if t.tripped ∧ t.firstCause = 11 then { t with en := en, tripped := false, rearmWait := true, firstCause := 0 } else { t with en := en }

/-- Trip groups with their numbers. -/
def mapGroups (f : Nat → TripGroup → TripGroup) (l : List TripGroup) : List TripGroup := (numbered 0 l).map fun e => f e.1 e.2

/-- The staged set is committed: the rings go over to it as their epochs come, and the holder sends block 1 to every node (R465, R466). -/
def State.commitSet (s : State) (x : ProtSet) (jsn q : Nat) : State :=
  let old := (s.prot.set.map (·.setSeq)).getD 0
  let s := s.protStep fun s =>
    { s with prot := { s.prot with set := some x, setDigest := s.prot.stagedDigest, staged := none, stagedDigest := [], oldSet := s.prot.set,
                                   oldRings := List.range 4, commitJsn := jsn, groups := mapGroups (commitGroup x) s.prot.groups,
                                   auxCnt := [], auxOn := [] } }
  let s := ((s.record .protCommitted [old, x.setSeq, q]).raise 75).switchRings
  if s.holds then (List.range 4).foldl (fun s p => s.queueBlock1 p) s else s

/-- PROT_COMMIT (R465). -/
def execProtCommit (w : WorkRef) (s : State) : Result :=
  .next (s.coveredOp w 2 0x21 fun op s =>
    match s.prot.staged with
    | none => s.protRefuse op 5
    | some x =>
      if leField s.prot.stagedDigest 0 8 ≠ dInline op.bytes 0 8 then s.protRefuse op 5
      else if (match s.prot.set with
          | some y => decide (x.setSeq ≤ y.setSeq)
          | none => false) then s.protRefuse op 4
      else (s.commitSet x (op.jsn.getD 0) (s.queue op.ring).owner).finishCut op stOk 0)

/-- PROT_DISCARD. -/
def execProtDiscard (w : WorkRef) (s : State) : Result :=
  .next (s.cutOp w 2 0x22 fun op s =>
    match s.prot.staged with
    | none => s.protRefuse op 5
    | some _ => ({ s with prot := { s.prot with staged := none, stagedDigest := [] } }).finishCut op stOk 0)

/-! Reset and test. -/

/-- The strings assigned to group g by the committed set. -/
def State.groupStrings (s : State) (g : Nat) : List Nat := match s.prot.set with
  | some x => (List.range x.strings.length).filter fun i => (x.strings[i]?).any fun e => bitOf e.groups g
  | none => []

/-- Every cause of group g has released, and no position of its strings is missing (R455). -/
def State.resetOk (s : State) (g : Nat) : Bool :=
  match s.prot.set with
  | none => false
  | some x =>
    ((s.groupStrings g).all fun i => !((s.prot.strings.getD i {}).held.any fun h => h.1 == 3) && !s.strMissing i)
      && !(s.prot.auxOn.any fun a => a.2 == 3 && (x.aux[a.1]?).any fun e => bitOf e.groups g)

/-- The first reason why groups cannot be reset: one that the set does not enable, or a standing cause (R455, R482). -/
def State.resetRefusal (s : State) (l : List Nat) : Option Nat :=
  if l.any fun g => !(s.trip g).en then some 8
  else if l.any fun g => (s.trip g).tripped && !s.resetOk g then some 6 else none

/-- The trip groups that the committed set assigns string i to. -/
def State.groupMask (s : State) (i : Nat) : Nat := match s.prot.set with
  | some x => ((x.strings[i]?).map (·.groups)).getD 0
  | none => 0

/-- The trip states of the strings of reset groups end with the reset, unless another group of the string stays tripped. -/
def State.clearTrips (s : State) (l : List Nat) : State :=
  l.foldl (fun s g => ((s.groupStrings g).filter fun i => !(s.enabledOf (s.groupMask i)).any fun h => (s.trip h).tripped).foldl (fun s i =>
    s.setStr i fun t => { t with trip := 0, missTrip := false }) s) s

/-- Group g is reset: its PDO stays off until it re-arms (R455). -/
def resetGroup (t : TripGroup) : TripGroup :=
  if t.tripped then { t with tripped := false, rearmWait := true, backupFired := false, test := false, confirmDue := false } else t

/-- PROT_RESET (R455). -/
def execProtReset (w : WorkRef) (s : State) : Result :=
  .next (s.cutOp w 2 0x23 fun op s =>
    let mask := dInline op.bytes 0 1 % 16
    let l := (List.range 4).filter fun g => bitOf mask g
    match s.resetRefusal l with
    | some r => s.protRefuse op r
    | none =>
      let s := s.protStep fun s => (l.foldl (fun (s : State) g => s.setGroup g resetGroup) s).clearTrips l
      (s.record .protReset [mask, (s.queue op.ring).owner]).finishCut op stOk 0)

/-- A string of group g carries more than 2 A, by the newest sample of its shunt (R468). -/
def State.groupLoaded (s : State) (g : Nat) : Bool :=
  match s.prot.set with
  | none => false
  | some x => (s.groupStrings g).any fun i => match x.strings[i]? with
    | some e => match (s.node e.ring e.pos).prev with
      | some a => decide (2000 < a.current.natAbs)
      | none => false
    | none => false

/-- Group g names a confirm input. -/
def State.confirmNamed (s : State) (g : Nat) : Bool := match s.prot.set with
  | some x => (x.groups[g]?).any fun e => e.confPos != 0
  | none => false

/-- PROT_TEST: trips the group with cause TEST; the readbacks of both members and the confirm input decide (R468). -/
def execProtTest (w : WorkRef) (ownOff partnerOff confirmOpen : Bool) (s : State) : Result :=
  .next (s.cutOp w 2 0x24 fun op s =>
    let g := dInline op.bytes 0 1
    if 4 ≤ g ∨ (s.trip g).en = false then s.protRefuse op 8
    else if s.groupLoaded g then s.protRefuse op 7
    else
      let s := s.protStep fun s => s.tripGroups (2 ^ g) 10 0 0 0 0 true []
      let named := s.confirmNamed g
      let s := if named ∧ confirmOpen then s.setGroup g fun t => { t with confirmed := true } else s
      if ownOff ∧ partnerOff ∧ (confirmOpen ∨ !named) then (s.record .protTestPass [g]).finishCut op stOk 0
      else (s.record .protTestFail [g, ofBool ownOff, ofBool partnerOff, ofBool confirmOpen]).finishCut op stProtTestFail 0)

/-- PROT_READ: the committed set's content, up to LENGTH; RESULT the bytes written. -/
def execProtRead (w : WorkRef) (s : State) : Result :=
  .next (s.engineOp w 2 0x25 fun op s =>
    let b := match s.prot.set with
      | some x => (protSetBytes x).take (dLength op.bytes)
      | none => []
    (s.writeBuf op 0 b).finish op stOk b.length)

end Sys2Proof.Machine
end

