-- ==== Sys2Proof/Machine/DspService.lean ====
section
/-! DEFINITION. The dispatch service: the worker's report, the manager's allocation, set-points and fast frequency response
(11_protection_thermal_control_and_dispatch.md, R471 to R482). -/

namespace Sys2Proof.Machine

/-- DSP_INTERVAL in cycles. -/
def State.dspInterval (s : State) : Nat := if s.bit .angCtrl 4 then 6 else 5

/-- SEQ of a CYCLIC stream: the release number of the task that sends it (R203). -/
def State.streamSeq (s : State) (id : Nat) : Nat :=
  match s.cfg.taskStreams.find? fun e => e.2 == id with
  | some (t, _) => (s.prg.tasks.getD t {}).relNum % 2 ^ 32
  | none => 0

/-- Network of the worker streams (NET_CFG.DSP_NET, table Streams by network). -/
def State.dspNet (s : State) : Nat := s.fld .netCfg 2 1

/-- A worker stream's CYCLIC frame goes out in the modes that emit, at the priority of reports and set-points (table Traffic classes). -/
def State.sendCyclic (s : State) (f : NetFrame) : State :=
  if modeEmits s.sys.mode ∧ s.netOn s.dspNet then s.emit (.net s.dspNet 5 f) else s

/-- A CYCLIC frame is delivered: of a stream without state, of a later epoch, or of the same epoch with a higher number (table Station duties
for sequenced streams). -/
def State.cyclicNew (s : State) (id epoch seq : Nat) : Bool :=
  match assocGet s.wb.cyclic id with
  | some (e, h) => decide (e < epoch) || (epoch == e && decide (0 < signedOf 32 (unsignedOf 32 (Int.ofNat seq - Int.ofNat h))))
  | none => true

/-- The stream's epoch and highest number delivered. -/
def State.takeCyclic (s : State) (id epoch seq : Nat) : State :=
  { s with wb := { s.wb with cyclic := assocSet s.wb.cyclic id (epoch, seq) } }

/-! The worker's report. -/

/-- Energy of string i in MWh: the smallest usable charge times the sum of the open-circuit voltages, never below 0 (R471). -/
def State.stringEnergy (s : State) (i : Nat) (charge : Bool) : F32 :=
  let cs := s.cellsIn i
  let usable (c : Cell) : F32 :=
    let m := s.model c.model
    fmul (cq c) (if charge then fsub (mZMax m) (cz c) else fsub (cz c) (mZMin m))
  let volts := fsum (cs.map fun c => tab (s.model c.model) tOcv (cz c) c.tc)
  fmax 0 (fdiv (fmul (fminOf 0 (cs.map usable)) volts) (fofInt 1000000))

/-- E_DIS and E_CH (R471). -/
def State.energyOf (s : State) (charge : Bool) : F32 := fsum ((List.range s.cfg.strings.length).map fun i => s.stringEnergy i charge)

/-- Some quantity of scope 0 is older than the class default (R334). -/
def State.quantityStale (s : State) : Bool := (s.freshSource 0x04000000 0 0 s.tb.ang).isNone

/-- WFLAGS. -/
def State.wflags (s : State) : Nat :=
  ofBool (s.inhibit true) + 2 * ofBool (s.inhibit false) + 4 * ofBool (s.tripBits != 0) + 8 * ofBool (s.sys.mode == .safeHold)
    + 16 * ofBool s.quantityStale + 32 * ofBool s.dsp.cycleAhead + 64 * ofBool s.dsp.fallback

/-- The newest release of an angle task of the dispatch service, `shift` counts after DSP_PHASE in each cycle divisible by DSP_INTERVAL: its
number from 1 and its stamp (R472, R473). -/
def State.dspRelease (s : State) (shift : Nat) : Option (Nat × Nat) :=
  let first := 2 * s.fld .dspCfg 9 23 + shift
  let per := s.dspInterval * countsPerCycle
  if s.tb.ang < first then none else some ((s.tb.ang - first) / per + 1, first + (s.tb.ang - first) / per * per)

/-- A release is due: it has not been served, or the angle clock was set back far enough for the schedule to start anew (R115). -/
def newRelease (k last : Nat) : Bool := decide (last < k ∨ k + 256 < last)

/-- The report as it stands (table Worker report), of the release at `at_`. -/
def State.workerReport (s : State) (at_ skips : Nat) : WorkerReport :=
  let q (i : Nat) : F32 := (s.est.quantities.getD 0 []).getD i 0
  let cs := s.est.cells
  { epoch := s.est.qEpoch, angle := at_, pDis10 := q 0, pDis60 := q 1, pCh10 := q 2, pCh60 := q 3, eDis := s.energyOf false,
    eCh := s.energyOf true, socMin := q 7, socMax := q 8,
    socMean := if cs = [] then 0 else fdiv (fsum (cs.map cz)) (fofInt (Int.ofNat cs.length)),
    pMeas := ((assocGet s.loop.inputs (5, s.cfg.pcsSignal)).map (·.value)).getD 0, pFfr := s.dsp.ffr, wflags := s.wflags,
    worker := s.cfg.dspWorker, spSeq := s.dsp.spSeq, astatus := s.statusWith (decide (0 < skips)) false skips }

/-- DSP_REPORT: at each release a worker reports on its report stream (R471, R472, R533). -/
def execDspReport (s : State) : Result :=
  let id := s.cfg.dspRpBase + s.cfg.dspWorker
  .next (match s.dspRelease 0 with
    | none => s
    | some (k, t) =>
      if s.cfg.manager ∨ newRelease k s.dsp.repRel = false then s
      else
        let skips := if s.dsp.repRel = 0 ∨ k < s.dsp.repRel then 0 else k - s.dsp.repRel - 1
        { s with dsp := { s.dsp with repRel := k } }.sendCyclic (.report id (s.cycEpoch id) (s.streamSeq id) (s.workerReport t skips)))

/-! Allocation. -/

/-- a < b in binary64. -/
def dlt (a b : F64) : Bool := (b64.dec a.toNat).lt (b64.dec b.toNat)
/-- a = b in binary64. -/
def deq (a b : F64) : Bool := (b64.dec a.toNat).eq (b64.dec b.toNat)
/-- a ≤ b in binary64. -/
def dle (a b : F64) : Bool := dlt a b || deq a b
/-- The larger of 0 and a value. -/
def dpos (a : F64) : F64 := if dlt 0 a then a else 0

/-- What the allocation knows of a worker: index, limit, weight. -/
structure Alloc where
  idx : Nat
  l : F64
  w : F64
  deriving DecidableEq, Repr

/-- Insertion by ascending l / w; equal ratios keep the lower index first. -/
def allocInsert (x : Alloc) : List Alloc → List Alloc
  | [] => [x]
  | y :: ys => if dlt (ddiv x.l x.w) (ddiv y.l y.w) then x :: y :: ys else y :: allocInsert x ys

/-- The order of the pseudocode: w = 0 sorts last. -/
def allocSort (l : List Alloc) : List Alloc := l.foldl (fun t x => allocInsert x t) []

/-- The workers that take their limit, in order; then the open ones with what is left (R473). -/
def fillLimits (rest wsum : F64) : List Alloc → List (Nat × F64) × F64 × F64 × List Alloc
  | [] => ([], rest, wsum, [])
  | x :: xs =>
    if dlt 0 wsum && dle x.l (ddiv (dmul rest x.w) wsum) then
      let (sh, r, ws, op) := fillLimits (dsub rest x.l) (dsub wsum x.w) xs
      ((x.idx, x.l) :: sh, r, ws, op)
    else ([], rest, wsum, x :: xs)

/-- Shares and shortfall of |P| (R473). -/
def allocate (p : F64) (l : List Alloc) : List (Nat × F64) × F64 :=
  let sum := dsum (l.map (·.l))
  if dle sum p then (l.map fun x => (x.idx, x.l), dsub p sum)
  else
    let (sh, rest, wsum, op) := fillLimits p (dsum (l.map (·.w))) (allocSort (l.filter fun x => dlt 0 x.l))
    let lsum := dsum (op.map (·.l))
    (sh ++ op.map (fun x => (x.idx, if dlt 0 wsum then ddiv (dmul rest x.w) wsum else ddiv (dmul rest x.l) lsum)), 0)

/-- Workers enabled for allocation. -/
def State.enabledWorkers (s : State) : List Nat := (List.range s.cfg.workers).filter fun i => !s.dsp.disabled.contains i

/-- The newest report of worker i, when it is no older than 2 DSP_INTERVAL cycles (R473). -/
def State.freshReport (s : State) (i : Nat) : Option WorkerReport :=
  match assocGet s.dsp.reports i with
  | some r => if s.dsp.allocAt ≤ r.angle + 2 * s.dspInterval * countsPerCycle then some r else none
  | none => none

/-- Limit of a worker in a direction: 0 without a fresh report, when tripped or in SAFE-HOLD, or inhibited in that direction (R473). -/
def State.limitOf (s : State) (charge : Bool) (i : Nat) : F32 :=
  match s.freshReport i with
  | none => 0
  | some r =>
    if bitOf r.wflags 2 || bitOf r.wflags 3 || bitOf r.wflags (if charge then 0 else 1) then 0
    else match s.bit .dspCfg 8, charge with
      | false, false => r.pDis10 | true, false => r.pDis60 | false, true => r.pCh10 | true, true => r.pCh60

/-- Weight of a worker in a direction (R473). -/
def State.weightOf (s : State) (charge : Bool) (i : Nat) : F64 :=
  if feq (s.limitOf charge i) 0 then 0
  else match s.freshReport i with
    | none => 0
    | some r =>
      let e := f2d (if charge then r.eCh else r.eDis)
      dpos (dmul e (dsub dOne (dmul (f2d (s.reg .dspSpreadK)) (dsub (f2d r.socMax) (f2d r.socMin)))))

/-- The records of reports that went missing (R474). -/
def State.noteAbsent (s : State) : State :=
  let gone := s.enabledWorkers.filter fun i => (s.freshReport i).isNone
  let s1 := (gone.filter fun i => !s.dsp.absent.contains i).foldl (fun s i => (s.record .dspReportMissing [i]).raise 85) s
  { s1 with dsp := { s1.dsp with absent := gone, missed := satAt 65535 (s1.dsp.missed + gone.length) } }

/-- Angle 0 of cycle C + DSP_LEAD, C the cycle of the release, moved on until it is at least two cycles ahead (R475). -/
def State.setpointEpoch (s : State) : Nat :=
  let c := s.tb.ang / countsPerCycle
  let e := (s.dsp.allocAt / countsPerCycle + s.fld .dspCfg 0 6) * countsPerCycle
  if s.tb.ang + 2 * countsPerCycle ≤ e then e
  else (c + (if s.tb.ang % countsPerCycle = 0 then 2 else 3)) * countsPerCycle

/-- The set-point frame of worker i (table Set-point frame). -/
def State.setpointOf (s : State) (epoch : Nat) (wsum : F64) (i : Nat) : SetPoint :=
  let part (g : F32) : F32 := if dlt 0 wsum then d2f (ddiv (dmul (f2d g) (s.weightOf false i)) wsum) else 0
  let excl := feq (s.limitOf (flt s.dsp.plant 0) i) 0 || s.dsp.disabled.contains i
  { epoch := epoch, pSet := (assocGet s.dsp.shares i).getD 0, kFfr := part s.dsp.kPlant, ffrLim := part s.dsp.ffrLimPlant,
    ffrDb := s.dsp.ffrDbPlant, excluded := excl, ffrEn := !feq (part s.dsp.kPlant) 0, worker := i, anchor := s.tb.anchor,
    anchorStatus := s.status }

/-- The allocation and its set-points (R473 to R475). -/
def State.allocateNow (s : State) : State :=
  let s := s.noteAbsent
  let charge := flt s.dsp.plant 0
  let ws := s.enabledWorkers
  let l := ws.map fun i => ({ idx := i, l := f2d (s.limitOf charge i), w := s.weightOf charge i } : Alloc)
  let (sh, short) := allocate (f2d (fabs s.dsp.plant)) l
  let signed (x : F64) : F32 := let f := d2f x; if charge then fneg f else f
  let sum (f : Nat → F32) : F32 := d2f (dsum (ws.map fun i => f2d (f i)))
  let energy (c : Bool) (i : Nat) : F32 := match s.freshReport i with
    | some r => if c then r.eCh else r.eDis
    | none => 0
  let out : List (Nat × F32) := sh.map fun e => (e.1, signed e.2)
  let open_ := (l.filter fun x => dlt 0 x.l).length
  let total : F64 := dsum (sh.map (·.2))
  let s := { s with dsp := { s.dsp with
    shares := out, capDis := sum (s.limitOf false), capCh := sum (s.limitOf true), eDis := sum (energy false), eCh := sum (energy true),
    alloc := signed total, shortfall := signed short, workers := open_ } }
  let epoch := s.setpointEpoch
  let wsum := dsum (ws.map (s.weightOf false))
  (List.range s.cfg.workers).foldl (fun s i =>
    let id := s.cfg.dspSpBase + i
    s.sendCyclic (.setpoint id (s.cycEpoch id) (s.streamSeq id) (s.setpointOf epoch wsum i))) s

/-- DSP_ALLOC: released 2^23 counts after the report instant (R473). -/
def execDspAlloc (s : State) : Result :=
  .next (match s.dspRelease (2 ^ 23) with
    | none => s
    | some (k, t) =>
      if s.cfg.manager = false ∨ newRelease k s.dsp.allocRel = false then s
      else State.allocateNow { s with dsp := { s.dsp with allocRel := k, allocAt := t } })

/-- WORKER_REPORT_RX: the manager keeps each worker's newest report, by the discard rule of its stream (R206, R473, R533). -/
def execWorkerReportRx (r : WorkerReport) (stream epoch seq : Nat) (s : State) : Result :=
  .next (if s.cfg.manager ∧ r.worker < s.cfg.workers ∧ stream = s.cfg.dspRpBase + r.worker ∧ s.cyclicNew stream epoch seq then
    { s.takeCyclic stream epoch seq with dsp := { s.dsp with reports := assocSet s.dsp.reports r.worker r } }
  else s)

/-! The set-point at the worker. -/

/-- The worker takes a set-point (R476 to R478): far ahead it is refused, past it is applied at once, otherwise at its epoch. -/
def State.takeSetpointFrame (s : State) (sp : SetPoint) (seq : Nat) : State :=
  let e := sp.epoch + (if s.dsp.cycleAhead then s.dsp.aheadBy * countsPerCycle else 0)
  let p : F32 := if sp.excluded then 0 else sp.pSet
  let s := { s with dsp := { s.dsp with fresh := true, fallback := false, spAt := s.tb.csr } }
  if s.tb.ang + 50 * countsPerCycle < e then s.record .dspEpochFar [e]
  else
    let s := { s with dsp := { s.dsp with kFfr := sp.kFfr, ffrLim := sp.ffrLim, ffrDb := sp.ffrDb, ffrEn := sp.ffrEn,
                                          spPending := postSetpoint (e, p, seq) s.dsp.spPending } }
    let s := (s.record .dspSetpoint [e, p.toNat, seq]).raise 84
    if e < s.tb.ang then (s.applySetpoint s.tb.ang).record .dspLate [e] else s

/-- SETPOINT_FRAME_RX: a frame of the worker's own stream, newer than the last. -/
def execSetpointFrameRx (sp : SetPoint) (epoch seq : Nat) (s : State) : Result :=
  let id := s.cfg.dspSpBase + s.cfg.dspWorker
  .next (if s.cfg.manager ∨ sp.worker ≠ s.cfg.dspWorker ∨ s.cyclicNew id epoch seq = false then s
    else ((s.takeCyclic id epoch seq).takeAnchor sp.anchor ((s.tb.pt.total - sp.anchor.pt.total) / 1000000) sp.anchorStatus).takeSetpointFrame
      sp seq)

/-- DSP_STALE_MS have passed since the last set-point frame. -/
def State.setpointStale (s : State) : Bool := decide (s.dsp.spAt + usTicks (1000 * s.fld .dspStaleMs 0 16) ≤ s.tb.csr)

/-- The worker falls back: DSP_FALLBACK_MW is its target (R478). -/
def State.dspFallBack (s : State) : State :=
  if s.cfg.manager ∨ s.dsp.fallback ∨ s.setpointStale = false then s
  else
    let p := s.reg .dspFallbackMw
    let s := { s with dsp := { s.dsp with fallback := true, fresh := false, pSet := p, spEpoch := s.tb.ang } }
    (s.setSlot s.cfg.dspSlot fun x => { x with setTarget := some p }).record .dspFallback [p.toNat]

/-- DSP_FALLBACK. -/
def execDspFallback (s : State) : Result := .next s.dspFallBack

/-- The response to a frequency: none inside the dead band, otherwise - K (df - sign DB) within the limit (R479). -/
def ffrOf (k lim db df : F32) : F32 :=
  if fle (fabs df) db then 0
  else
    let x := fneg (fmul k (fsub df (fmul (fsign df) db)))
    fclamp (fneg lim) lim x

/-- DSP_FFR: every cycle; the result is the loop exchange variable DSP_FFR_VAR (R479). -/
def execDspFfr (s : State) : Result :=
  let k := s.tb.ang / countsPerCycle + 1
  .next (if s.cfg.manager ∨ newRelease k s.dsp.ffrRel = false then s
    else
      let s := { s with dsp := { s.dsp with ffrRel := k } }.applySetpoint s.tb.ang
      let df := fsub (fratio (Int.ofNat s.tb.freq) 10000) (fofInt (Int.ofNat s.fnom))
      let x : F32 := if s.dsp.ffrEn then ffrOf s.dsp.kFfr s.dsp.ffrLim s.dsp.ffrDb df else 0
      { s with dsp := { s.dsp with ffr := x } }.setInput 3 s.cfg.dspFfrVar x ((k - 1) * countsPerCycle) true)

/-! The manager's commands. -/

/-- Outcome DSP_REFUSED (R482). -/
def stDspRefused : Nat := 0x700

/-- DSP_PLANT_SET: P, K_PLANT, FFR_LIM_PLANT, FFR_DB, from the next DSP_ALLOC on (R481). -/
def execDspPlantSet (w : WorkRef) (s : State) : Result :=
  .next (s.coveredOp w 10 0x30 fun op s =>
    let v (i : Nat) : F32 := BitVec.ofNat 32 (dInline op.bytes (4 * i) 4)
    if s.cfg.manager = false then s.finishCut op stDspRefused 1
    else if (List.range 4).any fun i => !ffinite (v i) then s.finishCut op stDspRefused 2
    else ({ s with dsp := { s.dsp with plant := v 0, kPlant := v 1, ffrLimPlant := v 2, ffrDbPlant := v 3 } }).finishCut op stOk 0)

/-- DSP_WORKER_ENABLE (R481). -/
def execDspWorkerEnable (w : WorkRef) (s : State) : Result :=
  .next (s.coveredOp w 10 0x31 fun op s =>
    let i := dInline op.bytes 0 1
    if s.cfg.manager = false then s.finishCut op stDspRefused 1
    else if s.cfg.workers ≤ i then s.finishCut op stDspRefused 3
    else
      let d := s.dsp.disabled.filter (· ≠ i)
      ({ s with dsp := { s.dsp with disabled := if dSubop op.bytes = 1 then d else d ++ [i] } }).finishCut op stOk 0)

end Sys2Proof.Machine
end

