-- ==== Sys2Proof/Machine/Security.lean ====
section
/-! DEFINITION. Attestation, enrolment, debug tokens, and field update from UPD_PREPARE to confirmation or fallback
(15_security_and_field_update.md, R574 to R593). -/

namespace Sys2Proof.Machine

/-- 0x0C00 SEC_REFUSED with its reason in RESULT (R593). -/
def State.secRefuse (s : State) (op : Op) (reason : Nat) : State := s.finish op 0x0C00 reason

/-- 0x0D00 UPD_REFUSED with its reason in RESULT (R593). -/
def State.updRefuse (s : State) (op : Op) (reason : Nat) : State := s.finish op 0x0D00 reason

/-! Attestation. -/

/-- A digest prefix: the first 8 bytes, or zeros where there is none (R573). -/
def digestPrefix (d : List Byte) : List Byte := d.take 8 ++ List.replicate (8 - d.length) 0

/-- The slots of a state. -/
def slotsIn (l : List BootSlot) (st : SlotState) : List Nat := (List.range l.length).filter fun i => (l.getD i {}).state == st

/-- Digest of the slot in a state, empty when none is. -/
def slotDigest (l : List BootSlot) (st : SlotState) : List Byte := ((l.find? fun x => x.state == st).map (·.digest)).getD []

/-- The 256-byte attestation report, all fields of one instant (table Attestation report). -/
def State.attestReport (s : State) (nonce : List Byte) (ctr : Nat) : List Byte :=
  leBytes 2 1 ++ leBytes 1 s.sys.variant ++ leBytes 1 (ofBool s.pwr.slotB) ++ leBytes 8 s.sec.serial ++ leBytes 4 s.runningSlot.version
    ++ leBytes 4 s.sec.svnFloor ++ leBytes 2 s.pairId ++ leBytes 1 s.sys.mode.code ++ leBytes 1 s.wb.lease.code ++ nonce
    ++ leBytes 8 s.tb.ang ++ leBytes 4 s.status ++ ptBytes s.tb.pt ++ s.sec.meas.take 64
    ++ digestPrefix (slotDigest s.nvs.slots .imago) ++ digestPrefix (slotDigest s.nvs.slots .chrysalis) ++ digestPrefix s.cfg.digest
    ++ digestPrefix ((s.prg.image.map (·.digest)).getD []) ++ digestPrefix s.prot.setDigest
    ++ digestPrefix (if s.sec.owner = [] then [] else digest s.sec.owner) ++ leBytes 8 ctr ++ List.replicate 72 0

/-- The signature of the device identity key, 114 bytes; its private half never leaves the secure element (R570). -/
def deviceSignature (d : List Byte) : List Byte := (List.range 114).map fun i => (Config.devSign d).getD i 0

/-- SEC_ATTEST (R583); a LENGTH below 370 is BAD_DESC. -/
def execSecAttest (w : WorkRef) (s : State) : Result :=
  .next (s.engineOp w 8 0x10 fun op s =>
    if dLength op.bytes < 370 then s.finish op stBadDesc 0
    else
      let ctr := (s.sec.reportCtr + 1) % 2 ^ 64
      let r := s.attestReport ((op.bytes.drop 48).take 16) ctr
      let s := { s with sec := { s.sec with reportCtr := ctr } }
      (s.writeBuf op 0 (r ++ deviceSignature (digest r))).finish op stOk 0)

/-! Verification and enrolment. -/

/-- An enrolment without an owner root key outside SERVICE (R574). -/
def State.enrolBarred (s : State) (a : Artefact) : Bool := a.type == 7 && s.sec.owner == [] && s.sys.mode != .service

/-- SEC_VERIFY (R575, R576): the digest goes to ADDR2 whatever the answer. -/
def execSecVerify (w : WorkRef) (s : State) : Result :=
  .next (s.engineOp w 8 0x11 fun op s =>
    let b := s.buffer op
    let d := artefactDigest b
    match s.judgeArtefact none b with
    | .refused t c => (s.sigFail t c).finish op 0x0C00 (secReason c) d
    | .good a =>
      if isToken a ∧ s.nonceUsed a then s.finish op 0x0C00 4 d
      else if s.enrolBarred a then s.finish op 0x0C00 5 d
      else s.finish op stOk 0 d)

/-- SEC_OWNER: enrolment in SERVICE, or a change signed by the present owner root key; recorded with the digest prefix of the new key
(R574). -/
def execSecOwner (w : WorkRef) (s : State) : Result :=
  .next (s.engineOp w 8 0x12 fun op s =>
    match s.judgeArtefact (some 7) (s.buffer op) with
    | .refused t c => (s.sigFail t c).secRefuse op (secReason c)
    | .good a =>
      if s.enrolBarred a then s.secRefuse op 5
      else
        let key := a.body.take 57
        let s := { s with sec := { s.sec with owner := key } }
        (s.record .ownerEnrolled [leField (digest key) 0 8]).finish op stOk 0)

/-! Debug tokens. -/

/-- A refused token: DEBUG_DENIED naming DBG_CTRL (R280). -/
def State.tokenRefused (s : State) : State := s.denyDebug (RegName.dbgCtrl.addr 0 0)

/-- A write of DBG_CTRL.TOKEN_GO: the token in DBG_TOKEN is checked and unlocks until its expiry (R280, R281, R576). -/
def State.tokenGo (s : State) : State :=
  match s.judgeArtefact (some 5) s.dbg.token with
  | .refused t c => (s.sigFail t c).tokenRefused
  | .good a =>
    if s.nonceUsed a then s.tokenRefused
    else
      let s := s.keepNonce a
      { s with dbg := { s.dbg with unlocked := true, expiry := a.notAfter } }.record .debugUnlock [tokenNonce a]

/-- DEBUG_TOKEN_GO. -/
def execDebugTokenGo (q : Requester) (s : State) : Result :=
  .next (match s.writeBarred q (RegName.dbgCtrl.addr 0 0) with
    | some t => t
    | none => s.tokenGo)

/-- The unlock's expiry has passed on the time by which it is judged (R280). -/
def State.unlockPassed (s : State) : Bool :=
  match s.dbg.expiry, s.judgeTime with
  | some t, some now => decide (t.total ≤ now)
  | _, _ => false

/-- DEBUG_UNLOCK_EXPIRY: the unlock ends at its expiry (R281). -/
def execDebugUnlockExpiry (s : State) : Result := .next (if s.unlockPassed then s.relock else s)

/-! Images. -/

/-- The header of a firmware image (table Image header). -/
def imageHdr (b : List Byte) : ImageHdr :=
  { version := leField b 0 4, minPeer := leField b 4 4, svn := leField b 8 4, proto := leField b 12 1, protoMin := leField b 13 1,
    raiseFloor := bitOf (leField b 14 1) 0, full := bitOf (leField b 14 1) 1, targetLen := leField b 16 4, confirmS := leField b 20 4,
    baseDigest := (b.drop 24).take 64, targetDigest := (b.drop 88).take 64 }

/-- The target that delta records write behind `out`; none for a record that is no record or reaches beyond its source
(table Delta records). A FULL image holds no COPY. -/
def applyDelta (base : List Byte) (full : Bool) : Nat → List Byte → List Byte → Option (List Byte)
  | 0, _, out => some out
  | fuel + 1, l, out =>
    if l = [] then some out
    else
      let len := leField l 4 4
      let src := leField l 8 4
      match leField l 0 1 with
      | 1 => if full ∨ base.length < src + len then none
             else applyDelta base full fuel (l.drop 16) (out ++ (base.drop src).take len)
      | 2 => if l.length < 8 + len then none
             else applyDelta base full fuel (l.drop (8 + (len + 7) / 8 * 8)) (out ++ (l.drop 8).take len)
      | 3 => applyDelta base full fuel (l.drop 8) (out ++ List.replicate len (BitVec.ofNat 8 (leField l 1 1)))
      | _ => none

/-- Content of the slot in IMAGO, the base of a delta. -/
def State.imagoContent (s : State) : List Byte := ((s.nvs.slots.find? fun x => x.state == .imago).map (·.content)).getD []

/-- The partner's running image, by its HELLO, is compatible with an image (R584, R585); nothing to compare before its first HELLO. -/
def State.partnerFits (s : State) (version minPeer proto protoMin : Nat) : Bool :=
  match s.wb.partner.hello with
  | some h => imagesCompatible version minPeer proto protoMin h.version h.minPeer h.proto h.protoMin
  | none => true

/-- The reason of the first failed check of UPD_PREPARE after the envelope (R586, R581). -/
def State.prepareFault (s : State) (partnerTrial : Bool) (h : ImageHdr) : Option Nat :=
  if h.svn < s.sec.svnFloor then some 3
  else if h.full = false ∧ (s.sec.factoryBoot ∨ slotsIn s.nvs.slots .imago = [] ∨ h.baseDigest ≠ slotDigest s.nvs.slots .imago) then some 4
  else if s.partnerFits h.version h.minPeer h.proto h.protoMin = false then some 5
  else if slotsIn s.nvs.slots .trial ≠ [] ∨ partnerTrial then some 6
  else if s.prg.stage ≠ 0 then some 7
  else none

/-- The slot that is neither IMAGO nor FACTORY (R587). -/
def State.spareSlot (s : State) : Nat :=
  ((List.range 2).find? fun i => (s.nvs.slots.getD i {}).state != .imago && (s.nvs.slots.getD i {}).state != .factory).getD 0

/-- The state with boot slot i changed. -/
def State.setBoot (s : State) (i : Nat) (f : BootSlot → BootSlot) : State :=
  { s with nvs := { s.nvs with slots := updAt s.nvs.slots i f } }

/-- UPD_PREPARE: mode and checks; the spare slot is set to WRITING and the delta is then applied in steps (R586, R587). A command that is
refused leaves the module in the mode it came from. Whether a slot of the partner is TRIAL stands in no message and comes with the command
(notes/assumptions/76.md). -/
def execUpdPrepare (w : WorkRef) (partnerTrial : Bool) (s : State) : Result :=
  .next (s.engineOp w 8 0x30 fun op s =>
    if op.started then s
    else if s.sys.mode ≠ .standby ∧ s.sys.mode ≠ .service then s.updRefuse op 1
    else
      let was := s.sys.mode
      let s := if was = .standby then s.setMode .update else s
      let back (s : State) : State := s.setMode was
      match s.judgeArtefact (some 1) (s.buffer op) with
      | .refused t c => back ((s.sigFail t c).updRefuse op (if c = 4 ∨ c = 5 then 2 else 10))
      | .good a =>
        let h := imageHdr a.body
        match s.prepareFault partnerTrial h with
        | some r => back (s.updRefuse op r)
        | none =>
          let i := s.spareSlot
          let s := s.setBoot i fun _ =>
            { state := .writing, version := h.version, minPeer := h.minPeer, proto := h.proto, protoMin := h.protoMin, svn := h.svn,
              confirmS := h.confirmS, raiseFloor := h.raiseFloor }
          let s := s.setOp w fun o => { o with started := true }
          { s with upd := { s.upd with ready := false, target := i, image := a.body, work := some w, progress := 0 } })

/-- The end of the last step: the written slot's digest is checked against TARGET_DIGEST (R587). -/
def State.finishPrepare (s : State) (op : Op) : State :=
  let h := imageHdr s.upd.image
  let records := s.upd.image.drop 192
  let i := s.upd.target
  let bad (s : State) : State := ((s.setBoot i fun b => { b with state := .invalid }).updRefuse op 8).endUpdate
  match applyDelta s.imagoContent h.full records.length records [] with
  | none => bad s
  | some t =>
    if t.length ≠ h.targetLen ∨ 134217728 < t.length ∨ digest t ≠ h.targetDigest then bad s
    else
      let s := s.setBoot i fun b => { b with digest := h.targetDigest, content := t }
      let s := { s with upd := { s.upd with ready := true } }.record .updPrepared [h.version]
      (s.finish op stOk 0).endUpdate

/-! Activation. -/

/-- The operation of an UPD_ACTIVATE, waiting for its TIME or not. -/
def State.activateOp (s : State) (w : WorkRef) : Option Op :=
  match w with
  | .tag t => s.hq.ops.find? fun o => o.tag == t && o.jsn.isNone && o.done.isNone && !o.shadow && o.engine == 8 && dOpcode o.bytes == 0x31
  | .jsn _ => none

/-- The written slot becomes TRIAL, the old IMAGO CHRYSALIS, and the module restarts through BOOT (R588). -/
def State.runTrial (s : State) (op : Op) : State :=
  let slots := (s.nvs.slots.map fun (b : BootSlot) => if b.state = .imago then { b with state := .chrysalis } else b)
  let s := { s with nvs := { s.nvs with slots := updAt slots s.upd.target fun b => { b with state := .trial, attempted := false } } }
  let s := s.record .updActivated [(s.nvs.slots.getD s.upd.target {}).version]
  (s.finish { op with late := false } stOk 0).restart 6

/-- The three checks at the instant in STANDBY (R588). -/
def State.activateSafe (s : State) : Bool :=
  let b := s.nvs.slots.getD s.upd.target {}
  s.sys.mode == .standby && s.partnerMode == some .active && s.partnerHolds && s.partnerFits b.version b.minPeer b.proto b.protoMin
    && s.prg.stage == 0

/-- The activation instant (R588): in SERVICE the module restarts; a failed check completes with 0x0D01 UPD_NOT_SAFE and READY stays. -/
def State.activateNow (s : State) (op : Op) : State :=
  let s := { s with upd := { s.upd with scheduled := none } }
  if s.upd.ready ∧ (s.sys.mode = .service ∨ s.activateSafe) then s.runTrial op
  else s.finish { op with late := false } 0x0D01 0

/-- UPD_ACTIVATE: refused in every mode but STANDBY and SERVICE, and without READY; at once, or scheduled for its TIME (R588, R589). -/
def execUpdActivate (w : WorkRef) (s : State) : Result :=
  .next (match s.activateOp w with
    | none => s
    | some op =>
      if op.waitTime ∧ op.late ∧ dLatePolicy op.bytes = false then s
      else if s.sys.mode ≠ .standby ∧ s.sys.mode ≠ .service then s.updRefuse op 1
      else if s.upd.ready = false then s.updRefuse op 9
      else if op.waitTime ∧ s.clockOf (dPtBase op.bytes) < dTime op.bytes then
        { s with upd := { s.upd with scheduled := some (dPtBase op.bytes, dTime op.bytes, w) } }
      else s.activateNow op)

/-- UPD_ACTIVATE_DUE: the scheduled instant has come on its own clock (R137, R588). -/
def execUpdActivateDue (s : State) : Result :=
  .next (match s.upd.scheduled with
    | none => s
    | some (pt, t, w) =>
      if s.clockOf pt < t then s
      else match s.activateOp w with
        | some op => s.activateNow op
        | none => { s with upd := { s.upd with scheduled := none } })

/-- UPD_ABANDON: READY is cleared and the slot set to EMPTY (R587); without a prepared image there is nothing to discard. -/
def execUpdAbandon (w : WorkRef) (s : State) : Result :=
  .next (s.engineOp w 8 0x33 fun op s =>
    if s.upd.ready = false then s.finish op stOk 0
    else
      let s := s.setBoot s.upd.target fun _ => {}
      { s with upd := { s.upd with ready := false } }.finish op stOk 0)

/-! Confirmation and fallback. -/

/-- Counts of the module's time in one second. -/
def ticksPerS : Nat := 100000000

/-- Health hold of UPD_CFG, s. -/
def State.confirmHoldS (s : State) : Nat := s.fld .updCfg 1 15

/-- The confirm window in force, s (R590). -/
def State.confirmWindowS (s : State) : Nat :=
  let own := s.runningSlot.confirmS
  let c := if own = 0 then s.fld .updCfg 16 16 else own
  if s.bit .updCfg 0 ∧ c < s.confirmHoldS + 60 then s.confirmHoldS + 60 else c

/-- The module time at which the confirm window ends. -/
def State.confirmEnd (s : State) : Option Nat := s.upd.confirmFrom.map fun t => t + s.confirmWindowS * ticksPerS

/-- The trial is healthy (R590): a mismatch restarts the count of its seconds. -/
def State.trialHealthy (s : State) : Bool :=
  s.upd.trial && (s.sys.mode == .standby || s.sys.mode == .active) && s.upd.resyncDone && s.sys.unitHealth == 0

/-- Seconds of unbroken health. -/
def State.holdS (s : State) : Nat := if s.trialHealthy then (s.tb.csr - s.upd.healthFrom) / ticksPerS else 0

/-- The floor takes the image's SVN by one fuse increment (R591). -/
def State.raiseFloor (s : State) (svn : Nat) : State :=
  if svn ≤ s.sec.svnFloor then s
  else if s.sec.fuseLeft = 0 then s.record .svnFuseExhausted [svn]
  else { s with sec := { s.sec with svnFloor := svn, fuseLeft := s.sec.fuseLeft - 1 } }

/-- Confirmation (R591). -/
def State.confirmTrial (s : State) : State :=
  let b := s.runningSlot
  let s := s.setBoot s.sec.bootSlot fun x => { x with state := .imago }
  let s := { s with upd := { s.upd with trial := false, confirmFrom := none, fallbackPending := false } }
  let s := if b.raiseFloor then s.raiseFloor b.svn else s
  (s.record .updConfirmed [b.version]).raise 121

/-- UPD_CONFIRM: only while the trial is healthy and its window runs (R590). -/
def execUpdConfirm (w : WorkRef) (s : State) : Result :=
  .next (s.engineOp w 8 0x32 fun op s =>
    if s.trialHealthy ∧ s.upd.confirmFrom.isSome then s.confirmTrial.finish op stOk 0 else s.updRefuse op 9)

/-- UPD_AUTO_CONFIRM (R590). -/
def execUpdAutoConfirm (s : State) : Result :=
  .next (if s.bit .updCfg 0 ∧ s.upd.confirmFrom.isSome ∧ s.trialHealthy ∧ s.confirmHoldS ≤ s.holdS then s.confirmTrial else s)

/-- UPD_CONFIRM_EXPIRY (R592). -/
def execUpdConfirmExpiry (s : State) : Result :=
  .next (match s.confirmEnd with
    | none => s
    | some e =>
      if s.tb.csr < e then s
      else
        let s := { s with upd := { s.upd with confirmFrom := none } }
        let s := (s.record .updConfirmExpired [s.runningSlot.version]).raise 121
        match s.sys.mode with
        | .sync | .standby | .quarantine | .service => s.restart 6
        | .active =>
          if s.partnerStandby then
            { s with sys := { s.sys with restartPend := some 6 },
                     wb := { s.wb with ho := if s.wb.ho = .idle then .planned else s.wb.ho } }
          else { s with upd := { s.upd with fallbackPending := true } }
        | _ => { s with upd := { s.upd with fallbackPending := true } })

end Sys2Proof.Machine
end

