-- ==== Sys2Proof/Machine/Storage.lean ====
section
/-! DEFINITION. DRAM errors, the boot store, the NAND data store and the event recorder's commands (14_storage_integrity_and_event_recorder.md,
R537 to R569). -/

namespace Sys2Proof.Machine

/-! DRAM. -/

/-- The engine's operation that a read belonged to: its oldest one under way. -/
def State.engineHead (s : State) (e : Nat) : Option Op := (s.engineOps e).head?

/-- What an uncorrectable error means to the one who read (R539, R257, R264, R62): a journal entry is fetched again whole from the partner,
or is lost. -/
def State.dramFault (s : State) (addr : Nat) (user : DramUser) : State :=
  match user with
  | .core k second =>
    if 4 ≤ k ∨ s.powered (pairDomain k) = false then s
    else if (s.pair k).state = 0 then s.mismatch k 5 [5, addr, 0, 0, (s.pair k).pc] true
    else if (s.pair k).state = 1 then s.loseUnit (if second then 4 + k else k) else s
  | .engine e => match s.engineHead e with
    | some o => s.finish o stEngineError 1
    | none => s
  | .journal jsn ok =>
    if ok ∧ s.sys.mode ≠ .solo then s
    else { s with wb := { s.wb with journal := s.wb.journal.filter fun (e : JEntry) => e.jsn != jsn } }.guaranteeBroken [jsn, addr]
  | .other => s

/-- DRAM_UE: no data is returned; recorded with address and requester, event source 122 (R539). -/
def execDramUe (addr : Nat) (user : DramUser) (s : State) : Result :=
  let sys := { s.sys with dramUe := (s.sys.dramUe + 1) % 65536, dramUeAddr := addr % 2 ^ 48 }
  .next ((({ s with sys := sys }.record .dramUe [addr, user.code]).raise 122).dramFault addr user)

/-- DRAM_CE_HIGH: the corrections of the last 24 h exceed DRAM_CE_WARN; once per 24 h (R538). -/
def execDramCeHigh (count : Nat) (s : State) : Result :=
  let recent := match s.sys.dramCeAt with
    | some t => decide (s.tb.csr < t + ticks24h)
    | none => false
  let s := { s with sys := { s.sys with dramCe := satAt (2 ^ 32 - 1) (max s.sys.dramCe count) } }
  .next (if s.fld .dramCeWarn 0 16 < count ∧ recent = false then
    ({ s with sys := { s.sys with dramCeAt := some s.tb.csr } }.record .dramCeHigh [count]).raise 122 else s)

/-- DRAM_PATROL_LAP (R540). -/
def execDramPatrolLap (minutes : Nat) (s : State) : Result :=
  .next { s with sys := { s.sys with dramPatrol := satAt 65535 minutes } }

/-! NAND pages. -/

/-- Pages of partition p (table Partitions). -/
def partPages (p : Nat) : Nat :=
  match p with
  | 0 => 16384 | 1 | 2 => 262144 | 3 => 131072 | 4 => 1703936 | 5 => 1572864 | 6 => 245760 | _ => 0

/-- Bytes of a page. -/
def pageBytes : Nat := 16384

/-- Page `i` of partition p. -/
def State.page (s : State) (p i : Nat) : Option Page := assocGet s.nvs.pages (p, i)

/-- A page is written: erased ones have strength 0 (R547). -/
def State.pageWritten (s : State) (p i : Nat) : Bool := match s.page p i with
  | some g => g.t != 0
  | none => false

/-- Keeps a page's metadata and counters. -/
def State.setPage (s : State) (p i : Nat) (g : Page) : State := { s with nvs := { s.nvs with pages := assocSet s.nvs.pages (p, i) g } }

/-- Day of plant time, counted from 1. -/
def State.ptDay (s : State) : Nat := s.tb.pt.sec / 86400 + 1

/-- FIX_WARN as it holds for a page: at the register's Reset value, 3 / 4 of the page's own t (R550; notes/assumptions/40.md). -/
def State.fixWarn (s : State) (p : Nat) (g : Page) : Nat :=
  if s.fld .nvsPartCfg 8 7 p = 3 * partStrength p / 4 then 3 * g.t / 4 else s.fld .nvsPartCfg 8 7 p

/-- A read of a page corrected `fix` bits in one codeword, or found one uncorrectable (R548 to R551); for the JOURNAL
partition it is as R539 states. -/
def State.readPage (s : State) (p i fix : Nat) (bad : Bool) : State :=
  let g := (s.page p i).getD { t := partStrength p }
  let warn := s.fixWarn p g
  let high := decide (warn ≤ fix)
  let g1 := { g with maxFix := fix % 128, uncorr := g.uncorr || bad, excess := if high then satAt 255 (g.excess + 1) else g.excess,
                     reported := if high then s.ptDay else g.reported }
  let s := s.setPage p i g1
  let s := if high then
      let s := { s with nvs := { s.nvs with fixHigh := true } }
      (if g.reported = s.ptDay then s else s.record .nvsFixHigh [p, i]).raise 118
    else s
  if bad then
    let s : State := ({ s with nvs := { s.nvs with uncorrSeen := true } }.record .nvsUncorrectable [p, i]).raise 118
    if p = 1 ∧ s.sys.mode = .solo then s.guaranteeBroken [i] else s
  else s

/-- The reads that the ECC reports, in order. -/
def State.readPages (s : State) (l : List (Nat × Nat × Nat × Bool)) : State := l.foldl (fun s r => s.readPage r.1 r.2.1 r.2.2.1 r.2.2.2) s

/-- The reads of a lap: every page known to be written, in which nothing was corrected unless the ECC reports it, and the pages of the
module's own partitions that it reports (R553). -/
def State.lapReads (s : State) (l : List (Nat × Nat × Nat × Bool)) : List (Nat × Nat × Nat × Bool) :=
  let clean := (s.nvs.pages.filter fun g => g.2.t != 0 && !l.any fun r => r.1 == g.1.1 && r.2.1 == g.1.2).map fun g => (g.1.1, g.1.2, 0, false)
  clean ++ l.filter fun r => decide (r.2.1 < partPages r.1) && (decide (r.1 < 5) || s.pageWritten r.1 r.2.1)

/-- Pages whose OVER is not 0. -/
def State.fixPages (s : State) : Nat := (s.nvs.pages.filter fun g => g.2.excess != 0).length

/-- SCRUB_LAP: the pages read in a lap, its time, SCRUB_LAP with event source 118, SCRUB_SLOW past LAP_WARN_D days (R553, R554). -/
def execScrubLap (hours : Nat) (reads : List (Nat × Nat × Nat × Bool)) (s : State) : Result :=
  .next (if s.bit .nvsCtrl 0 = false ∨ s.nvs.ready = false then s
    else
      let s := s.readPages (s.lapReads reads)
      let s := { s with nvs := { s.nvs with scrubLap := hours, scrubProg := 0 } }
      let s := (s.record .scrubLap [hours, s.fixPages]).raise 118
      if 24 * s.fld .nvsCtrl 8 8 < hours then { s with nvs := { s.nvs with scrubSlow := true } }.record .scrubSlow [hours] else s)

/-- A boot slot whose digest fails enters INVALID (R544). -/
def State.slotBad (s : State) (k : Nat) (ok : Bool) : State :=
  let b := s.nvs.slots.getD k {}
  if ok ∨ b.state = .empty ∨ b.state = .writing ∨ b.state = .invalid then s
  else
    ({ s with nvs := { s.nvs with slots := updAt s.nvs.slots k fun (x : BootSlot) => { x with state := .invalid } } }.record
      .bootSlotBad [k]).raise 118

/-- A periodic task of the module is not yet due: less than `us` microseconds have passed since it last ran. -/
def State.tooEarly (s : State) (last : Option Nat) (us : Nat) : Bool := last.any fun t => decide (s.tb.csr < t + usTicks us)

/-- BOOT_SLOT_VERIFY: every 7 days (R544). -/
def execBootSlotVerify (ok0 ok1 ok2 : Bool) (s : State) : Result :=
  .next (if s.tooEarly s.sys.slotsAt 604800000000 then s
    else (({ s with sys := { s.sys with slotsAt := some s.tb.csr } }.slotBad 0 ok0).slotBad 1 ok1).slotBad 2 ok2)

/-- COUNTER_FLUSH: the page counters go to the CFG partition (R549). -/
def State.flushCounters (s : State) : State := { s with nvs := { s.nvs with counters := s.nvs.pages } }

/-- COUNTER_FLUSH: every 10 min (R549). -/
def execCounterFlush (s : State) : Result :=
  .next (if s.tooEarly s.sys.countersAt 600000000 then s
    else { s with sys := { s.sys with countersAt := some s.tb.csr } }.flushCounters)

/-! Storage commands. -/

/-- Outcome NVS_REFUSED. -/
def stNvsRefused : Nat := 0xB00
/-- Outcome NVS_UNCORRECTABLE. -/
def stNvsUncorrectable : Nat := 0xB01
/-- Outcome LOG_OVERTAKEN. -/
def stLogOvertaken : Nat := 0xB02
/-- Outcome LOG_REFUSED. -/
def stLogRefused : Nat := 0xB03
/-- Outcome LOG_NOT_TAKEN. -/
def stLogNotTaken : Nat := 0xB04

/-- Partition, first page or block, and count of a storage command. -/
def nvsArgs (op : Op) : Nat × Nat × Nat := (dInline op.bytes 0 1, dInline op.bytes 4 4, dInline op.bytes 8 4)

/-- Reason to refuse a storage command (R569): the partition, then its range of `unit` pages each, then LENGTH. -/
def nvsRefusal (op : Op) (unit : Nat) (len : Option Nat) : Option Nat :=
  let (p, a, n) := nvsArgs op
  if p ≠ 5 ∧ p ≠ 6 then some 1
  else if partPages p < (a + n) * unit then some 2
  else match len with
    | some l => if dLength op.bytes ≠ n * l then some 4 else none
    | none => none

/-- Address of a byte of the data store. -/
def nandKey (p page off : Nat) : Nat := (p * 2 ^ 32 + page) * pageBytes + off

/-- The content of a page; what an erased page reads as is a free value. -/
def State.pageData (s : State) (p i : Nat) : List Byte :=
  if s.pageWritten p i then Memory.readN s.nvs.data (nandKey p i 0) pageBytes else leBytes pageBytes (Config.free s.freeCtr)

/-- What the ECC reports of page `i` in a read: the bits corrected, and the codewords beyond correction, one bit each. -/
def eccOf (reads : List (Nat × Nat × Nat)) (i : Nat) : Nat × Nat := (assocGet reads i).getD (0, 0)

/-- The codewords of a page, 1 KiB each, go to the buffer; of one beyond correction no data is returned (R551). -/
def State.copyWords (s : State) (op : Op) (off : Nat) (data : List Byte) (bad : Nat) : Nat → State
  | 0 => s
  | k + 1 =>
    let s := s.copyWords op off data bad k
    if bitOf bad k then s else s.writeBuf op (off + 1024 * k) ((data.drop (1024 * k)).take 1024)

/-- Copies pages into the buffer. -/
def State.copyPages (s : State) (op : Op) (p a : Nat) (reads : List (Nat × Nat × Nat)) : Nat → State
  | 0 => s
  | k + 1 =>
    let s := s.copyPages op p a reads k
    (s.copyWords op (k * pageBytes) (s.pageData p (a + k)) (eccOf reads (a + k)).2 16).useFree

/-- Reads `n` written pages from page `a` on, with what the ECC reports of each. -/
def State.readRange (s : State) (p a : Nat) (reads : List (Nat × Nat × Nat)) : Nat → State
  | 0 => s
  | k + 1 =>
    let s := s.readRange p a reads k
    let e := eccOf reads (a + k)
    if s.pageWritten p (a + k) then s.readPage p (a + k) e.1 (e.2 % 65536 != 0) else s

/-- NVS_READ: pages of partition 5 or 6, with what the ECC reports of each. -/
def execNvsRead (w : WorkRef) (reads : List (Nat × Nat × Nat)) (s : State) : Result :=
  .next (s.engineOp w 7 0x10 fun op s =>
    match nvsRefusal op 1 (some pageBytes) with
    | some r => s.finish op stNvsRefused r
    | none =>
      let (p, a, n) := nvsArgs op
      let l := reads.filter fun r => decide (a ≤ r.1 ∧ r.1 < a + n) && s.pageWritten p r.1
      let bad := l.any fun r => r.2.2 % 65536 != 0
      ((s.readRange p a l n).copyPages op p a l n).finish op (if bad then stNvsUncorrectable else stOk) 0)

/-- Writes page `k` of a command from the buffer, with the partition's present T (R546). -/
def State.storePage (s : State) (op : Op) (p a k : Nat) : State :=
  let b := s.readBuf op (k * pageBytes) pageBytes
  let g := { ((s.page p (a + k)).getD {}) with t := s.fld .nvsPartCfg 0 7 p }
  let s := s.setPage p (a + k) g
  { s with nvs := { s.nvs with data := Memory.writeN s.nvs.data (nandKey p (a + k) 0) b } }

/-- Writes so many pages of a command from page `k` on. -/
def State.storePages (s : State) (op : Op) (p a k : Nat) : Nat → State
  | 0 => s
  | m + 1 => (s.storePages op p a k m).storePage op p a (k + m)

/-- A page that a write has still to fill is not erased (R547). -/
def State.notErased (s : State) (op : Op) : Bool :=
  let (p, a, n) := nvsArgs op
  (List.range n).any fun k => decide (op.steps ≤ k) && s.pageWritten p (a + k)

/-- NVS_WRITE: only pages whose block was erased since they were last written (R547); its steps so far have each written one (R43). -/
def execNvsWrite (w : WorkRef) (s : State) : Result :=
  .next (s.engineOp w 7 0x11 fun op s =>
    match nvsRefusal op 1 (some pageBytes) with
    | some r => s.finish op stNvsRefused r
    | none =>
      let (p, a, n) := nvsArgs op
      if s.notErased op then s.finish op stNvsRefused 3
      else (s.storePages op p a op.steps (n - op.steps)).finish op stOk 0)

/-- Pages of a block. -/
def blockPages : Nat := 256

/-- Erases `n` blocks of a partition; the counters stay. -/
def State.eraseBlocks (s : State) (p a n : Nat) : State :=
  let lo := a * blockPages
  let hi := (a + n) * blockPages
  let pages := s.nvs.pages.map fun (g : (Nat × Nat) × Page) =>
    if g.1.1 = p ∧ lo ≤ g.1.2 ∧ g.1.2 < hi then (g.1, { g.2 with t := 0 }) else g
  let data := s.nvs.data.filter fun c => decide (c.1 < nandKey p lo 0 ∨ nandKey p hi 0 ≤ c.1)
  { s with nvs := { s.nvs with pages := pages, data := data } }

/-- NVS_ERASE: blocks of partition 5 or 6; its steps so far have each erased one (R43). -/
def execNvsErase (w : WorkRef) (s : State) : Result :=
  .next (s.engineOp w 7 0x12 fun op s =>
    match nvsRefusal op blockPages none with
    | some r => s.finish op stNvsRefused r
    | none =>
      let (p, a, n) := nvsArgs op
      (s.eraseBlocks p (a + op.steps) (n - op.steps)).finish op stOk 0)

/-- The counter word of a page (R549). -/
def State.counterWord (s : State) (p i : Nat) : Nat := match s.page p i with
  | some g => g.maxFix + 128 * ofBool g.uncorr + 256 * g.excess
  | none => 0

/-- NVS_COUNTERS: counter words of partition 0 to 6. -/
def execNvsCounters (w : WorkRef) (s : State) : Result :=
  .next (s.engineOp w 7 0x13 fun op s =>
    let (p, a, n) := nvsArgs op
    if 7 ≤ p then s.finish op stNvsRefused 1
    else if partPages p < a + n then s.finish op stNvsRefused 2
    else if dLength op.bytes < 4 * n then s.finish op stNvsRefused 4
    else (s.writeBuf op 0 ((List.range n).flatMap fun k => leBytes 4 (s.counterWord p (a + k)))).finish op stOk 0)

/-! The recorder's commands. -/

/-- LOG_RECORD: a record is offered to the recorder, with a body of 16 to 1,024 bytes; the codes of PAD and GAP and the reserved one name no
record (table Record header, R555, R556). -/
def execLogRecord (code sev source : Nat) (body : List Byte) (s : State) : Result :=
  .next (if code = 0 ∨ 0xFFFE ≤ code then s
    else s.givenRec code (sev % 4) source (body.take 1024 ++ List.replicate (16 - body.length) 0) s.tb.ang s.tb.pt)

/-- A flush is due: 256 KiB unflushed, 5 s since the last one, or a record of SEV fault or critical unflushed (R557). -/
def State.flushDue (s : State) : Bool :=
  decide (262144 ≤ unflushedBytes s.log.recs ∨ s.log.flushAt + usTicks 5000000 ≤ s.tb.csr)
    || s.log.recs.any fun r => !r.flushed && decide (2 ≤ r.sev)

/-- RECORDER_FLUSH (R557). -/
def execRecorderFlush (s : State) : Result := .next (if s.flushDue then s.flushLog else s)

/-- LOG_WRITE: RESULT and the result area give its SEQ (R568). -/
def execLogWrite (w : WorkRef) (s : State) : Result :=
  .next (s.engineOp w 7 0x20 fun op s =>
    let code := dSubop op.bytes
    let sev := dInline op.bytes 0 1
    let n := dLength op.bytes
    if code < 0xF000 ∨ 0xFFFD < code ∨ 3 < sev then s.finish op stNvsRefused 5
    else if n < 16 ∨ 1024 < n then s.finish op stNvsRefused 4
    else
      let t := s.givenRec code sev 19 (s.buffer op) op.issuedAng op.issuedPt
      if t.log.seq = s.log.seq then t.finish op stLogNotTaken 0
      else t.finish op stOk (t.log.seq % 2 ^ 32) (leBytes 8 t.log.seq))

/-- A GAP record: the first and the last missing SEQ (R562). -/
def gapBytes (slotB : Bool) (a b : Nat) : List Byte :=
  let body := leBytes 8 a ++ leBytes 8 b
  let head := leBytes 2 16 ++ leBytes 2 0xFFFE ++ leBytes 1 (4 * ofBool slotB) ++ leBytes 1 19 ++ List.replicate 34 0
  head ++ leBytes 4 (crc32 (head ++ body)) ++ leBytes 4 0 ++ body

/-- One whole record more for an export, while it fits (R563): what stands copied, and the new bytes. -/
def addExport (x : Export × List Byte) (len : Nat) (b : List Byte) (last : Nat) (gap : Bool) : Export × List Byte :=
  let e := x.1
  if e.full ∨ len < e.len + b.length then ({ e with full := true }, x.2)
  else ({ e with len := e.len + b.length, last := last, recs := e.recs + ofBool (!gap), gaps := e.gaps + ofBool gap }, x.2 ++ b)

/-- Copies the records of a range up to SEQ `fin`, with a GAP record for each run of missing SEQ numbers. -/
def exportRecs (slotB : Bool) (len fin : Nat) : List Rec → Export × List Byte → Export × List Byte
  | [], x => if x.1.last < fin then addExport x len (gapBytes slotB (x.1.last + 1) fin) fin true else x
  | r :: rs, x =>
    let x := if x.1.last + 1 < r.seq then addExport x len (gapBytes slotB (x.1.last + 1) (r.seq - 1)) (r.seq - 1) true else x
    exportRecs slotB len fin rs (addExport x len (recBytes slotB r) r.seq false)

/-- The 32-byte result of an export (R564). -/
def exportResult (first : Nat) (x : Export) : List Byte :=
  leBytes 8 first ++ leBytes 8 x.last ++ leBytes 4 x.recs ++ leBytes 4 x.gaps ++ leBytes 4 x.len ++ leBytes 4 0

/-- First and last SEQ of an export, within the bounds at its issue (R562). -/
def exportBounds (op : Op) : Nat × Nat := (max (dInline op.bytes 0 8) op.logLo, min (dInline op.bytes 8 8) op.logHi)

/-- What an export has copied so far. -/
def exportSoFar (op : Op) : Export := op.copied.getD { last := (exportBounds op).1 - 1 }

/-- The partition's rollover has erased records of the range that are not yet copied (R563). -/
def State.overtaken (s : State) (op : Op) : Bool :=
  let (first, fin) := exportBounds op
  decide (first ≤ fin ∧ (exportSoFar op).last < fin ∧ (exportSoFar op).last < s.log.erased)

/-- Records of an export's range that are not yet copied. -/
def State.exportRest (s : State) (op : Op) : List Rec :=
  let (first, fin) := exportBounds op
  s.log.recs.filter fun r => decide (first ≤ r.seq ∧ r.seq ≤ fin ∧ (exportSoFar op).last < r.seq)

/-- LOG_EXPORT: a snapshot of the bounds at issue (R562 to R564); records erased before they are copied end it with LOG_OVERTAKEN. -/
def execLogExport (w : WorkRef) (s : State) : Result :=
  .next (s.engineOp w 7 0x21 fun op s =>
    let (first, fin) := exportBounds op
    let old := exportSoFar op
    let lost := s.overtaken op
    let (x, b) := if lost ∨ fin < first then (old, []) else exportRecs s.pwr.slotB (dLength op.bytes) fin (s.exportRest op) (old, [])
    let result := if x.recs + x.gaps = 0 then 0 else x.last % 2 ^ 32
    (s.writeBuf op old.len b).finish op (if lost then stLogOvertaken else stOk) result (exportResult first x))

/-- A step of LOG_EXPORT copies the next record, with the GAP record before it. -/
def State.exportStep (s : State) (w : WorkRef) (op : Op) : State :=
  let (first, fin) := exportBounds op
  if s.overtaken op ∨ fin < first then s
  else
    let old := exportSoFar op
    let (x, b) := exportRecs s.pwr.slotB (dLength op.bytes) 0 ((s.exportRest op).take 1) (old, [])
    (s.writeBuf op old.len b).setOp w fun o => { o with copied := some x }

/-- An export runs (LOG_STATUS.EXPORTING). -/
def State.exporting (s : State) : Bool :=
  (s.hq.ops ++ s.hq.work).any fun o => o.engine == 7 && dOpcode o.bytes == 0x21 && o.done.isNone && !o.waitTime

/-- The live window without the removed records: their slots read as PAD (R566). -/
def State.clearLive (s : State) (gone : Rec → Bool) : State :=
  let base := s.liveBase
  let seqs := (s.log.recs.filter gone).map (·.seq)
  let hit := s.log.live.filter fun e => seqs.contains e.1
  let live := s.log.live.filter fun e => !seqs.contains e.1
  let l' := { s.log with live := live }
  if inDram base then
    let m := hit.foldl (fun m e => Memory.writeN m (base + e.2.1) (padBytes e.2.2)) s.mem
    { s with log := l', mem := Memory.writeN m base (liveHeader l') }
  else { s with log := l' }

/-- The removal of an accepted clear: every record up to UPTO but LOG_CLEARED records (R566, R567). -/
def State.removeUpto (s : State) (upto : Nat) : State :=
  let gone (r : Rec) : Bool := decide (r.seq ≤ upto) && r.name != .logCleared
  let s := s.clearLive gone
  { s with log := { s.log with recs := s.log.recs.filter fun r => !gone r, cleared := upto } }

/-- A refused clear (R565). -/
def State.refuseClear (s : State) (op : Op) (reason : Nat) : State := (s.record .logClearRefused [reason]).finish op stLogRefused reason

/-- UPTO of a clear's token. -/
def clearUpto (a : Artefact) : Nat := leField a.body 8 8

/-- Why a clear with a verified token is refused (R565). -/
def State.clearRefusal (s : State) (a : Artefact) : Option Nat :=
  if s.log.seq < clearUpto a then some 4 else if s.nonceUsed a then some 5 else if s.exporting then some 6 else none

/-- An accepted clear begins: LOG_CLEARED is written and flushed (R566). -/
def State.beginClear (s : State) (op : Op) (a : Artefact) : State :=
  let s := s.keepNonce a
  (s.record .logCleared [clearUpto a, oldestSeq s.log.recs, leField (artefactDigest (s.buffer op)) 0 8, (s.queue op.ring).owner]).flushLog

/-- LOG_CLEAR (R565, R566); one whose first step has begun it goes on from the flushed LOG_CLEARED record. -/
def execLogClear (w : WorkRef) (s : State) : Result :=
  .next (s.engineOp w 7 0x22 fun op s =>
    if op.started then (s.removeUpto (lastCleared s.log.recs)).finish op stOk 0
    else match s.judgeArtefact (some 6) (s.buffer op) with
    | .refused t c => (s.sigFail t c).refuseClear op (secReason c)
    | .good a =>
      match s.clearRefusal a with
      | some r => s.refuseClear op r
      | none => ((s.beginClear op a).removeUpto (clearUpto a)).finish op stOk 0)

/-! Steps of the long storage operations (R43): a page of a write, a block of an erase, a record of an export or of a clear. The pages of a
read pass in its last step (notes/assumptions/10.md). -/

/-- The next record that a clear removes. -/
def State.removeOldest (s : State) (upto : Nat) : State :=
  match s.log.recs.find? fun r => decide (r.seq ≤ upto) && r.name != .logCleared with
  | some x =>
    let t := s.clearLive fun r => r.seq == x.seq
    { t with log := { t.log with recs := t.log.recs.filter fun r => r.seq != x.seq } }
  | none => s

/-- The first step of a clear begins it; a further one removes a record. -/
def State.clearStep (s : State) (w : WorkRef) (op : Op) : State :=
  if op.started then s.removeOldest (lastCleared s.log.recs)
  else match s.judgeArtefact (some 6) (s.buffer op) with
  | .refused _ _ => s
  | .good a => if (s.clearRefusal a).isSome then s else (s.beginClear op a).setOp w fun o => { o with started := true }

/-- What a step of a long storage operation does, after `op.steps` steps. -/
def State.storageStep (s : State) (w : WorkRef) (op : Op) : State :=
  let (p, a, n) := nvsArgs op
  match dOpcode op.bytes with
  | 0x11 => if (nvsRefusal op 1 (some pageBytes)).isSome ∨ s.notErased op ∨ n ≤ op.steps then s else s.storePage op p a op.steps
  | 0x12 => if (nvsRefusal op blockPages none).isSome ∨ n ≤ op.steps then s else s.eraseBlocks p (a + op.steps) 1
  | 0x21 => s.exportStep w op
  | 0x22 => s.clearStep w op
  | _ => s

end Sys2Proof.Machine
end

