-- ==== Sys2Proof/Machine/Architecture.lean ====
section
/-! DEFINITION. Steps of long operations, lost and restored units, stale inputs (01_architecture.md, R27, R40 to R44, R52 to R57;
16_modes_start_up_and_faults.md, R597). -/

namespace Sys2Proof.Machine

/-! Long operations. -/

/-- The step boundary of a long operation: its progress record after every 256th step, and its STEP entry on a durable ring (R44, R187). -/
def State.stepBoundary (s : State) (op : Op) : State :=
  let s := if dProgress op.bytes ∧ op.steps % 256 = 0 then s.writeRes op 0 (progressBytes op.steps op.total 0 (op.steps / 256)) else s
  if op.jsn.isSome ∧ s.authoritative then s.journalAdd (.step op.ring (dSubmit op.bytes) op.steps) else s

/-- UPD_PROGRESS in per mille (R587). -/
def perMille (op : Op) : Nat := if op.total = 0 then 0 else min 1000 (op.steps * 1000 / op.total)

/-- What the last step of an operation ends: an enumeration, or the writing of an image. Any other operation is ended by its own command. -/
def State.lastStep (s : State) (op : Op) : State :=
  if op.engine = 2 ∧ dOpcode op.bytes = 0x10 then s.finishEnum op
  else if op.engine = 8 ∧ dOpcode op.bytes = 0x30 then s.finishPrepare op
  else s

/-- What the step of an operation does at its engine; the steps of other engines are done by the commands that end them. -/
def State.engineStep (s : State) (w : WorkRef) (o : Op) : State := if o.engine = 7 then s.storageStep w o else s

/-- LONG_OP_STEP: the next step; `total` is the number of steps as the engine knows it by now, 0 unknown (R40 to R44, R187). -/
def execLongOpStep (w : WorkRef) (total : Nat) (last : Bool) (s : State) : Result :=
  .next (match s.opOf w with
    | none => s
    | some o =>
      if o.long = false then s
      else
        let op : Op := { o with steps := o.steps + 1, total := if last then o.steps + 1 else total }
        let s := ((s.engineStep w o).setOp w fun p => { p with steps := op.steps, total := op.total }).stepBoundary op
        let s := if op.engine = 8 ∧ op.started then { s with upd := { s.upd with progress := perMille op } } else s
        let s := if op.engine = 10 ∧ op.started then { s with prg := { s.prg with progress := perMille op } } else s
        if last ∧ op.started then s.lastStep op else s)

/-! Units. -/

/-- What the loss of a unit does to the unit itself. -/
def State.unitFails (s : State) (u : UnitId) : State :=
  match u with
  | .corePair k => if (s.pair k).state = 0 then s.setPair k fun p => { p with state := 2 } else s
  | .core1 _ | .laneGrp _ | .loop | .can | .holdup => s
  | .ringEnd p => s.setRing p fun r => { r with rstate := 0, sweeps := r.sweeps.filter (·.built) }
  | .netPort p => { s with net := { s.net with ports := updAt s.net.ports p fun x => { x with link := false } } }
  | .wbLane l => { s with wb := if l = 0 then { s.wb with lane0 := false } else { s.wb with lane1 := false } }
  | .nand => { s with nvs := { s.nvs with ready := false, scrubbing := false } }

/-- UNIT_LOST: the bit, the record, R55 and R57 (R54); the pair service of a lost pair moves (R261), the hold-up bank is judged as R79 and R82
state. -/
def execUnitLost (u : UnitId) (s : State) : Result :=
  .next (if s.unitUp u.bit = false then s
    else match u with
      | .holdup => s.judgeHoldup
      | .corePair k =>
        let s := (s.unitFails u).loseUnit u.bit
        if s.core.svcPair = k % 4 ∧ k < 4 then s.moveService true false else s
      | _ => (s.unitFails u).loseUnit u.bit)

/-- UNIT_RESTORED: the unit has passed its own check again (R597); a retired core pair stays lost (R260). -/
def execUnitRestored (u : UnitId) (s : State) : Result :=
  .next (if s.unitUp u.bit then s
    else match u with
      | .holdup => s.judgeHoldup
      | .corePair k =>
        if (s.pair k).state = 3 then s
        else ((s.setPair k fun p => { p with state := if p.state = 2 then 0 else p.state, selftest := false }).clearUnit u.bit).record
          .corePairRestored [k]
      | .nand => { s with nvs := { s.nvs with ready := true, scrubbing := true } }.clearUnit u.bit
      | _ => s.clearUnit u.bit)

/-! Stale inputs. -/

/-- Input k of slot n has passed its stale age: MEAS, SP, FF (R334, R335). -/
def State.slotStale (s : State) (n k : Nat) : State :=
  let x := s.slot n
  let old := (s.freshSource (slSrc x.record k) (slAge x.record k) (recF x.record 72) s.tb.ang).isNone
  if 512 ≤ n ∨ 3 ≤ k ∨ x.enabled = false ∨ old = false then s
  else
    let was := if k = 0 then x.staleM else if k = 1 then x.staleS else x.staleF
    (s.staleOnset n k was true).setSlot n fun x =>
      if k = 0 then { x with staleM := true } else if k = 1 then { x with staleS := true } else { x with staleF := true }

/-- INPUT_STALE: a consumer takes its fallback and sets STALE (R27): a slot's input, a stage's position (no compensation, R346), a worker's
set-point (R478). -/
def execInputStale (i : StaleInput) (s : State) : Result :=
  .next (match i with
    | .slot n k => s.slotStale n k
    | .stagePos o => s.setStage o fun x => { x with fric := false }
    | .dispatch => s.dspFallBack)

end Sys2Proof.Machine
end

