-- ==== Sys2Proof/Machine/Events.lean ====
section
/-! DEFINITION. Event routing, pending bits and MSI-X (04_rings_queues_and_events.md, R190 to R194). -/

namespace Sys2Proof.Machine

/-- Source `src` is routed to host vector `m` and pending. -/
def State.pendingOn (s : State) (m src : Nat) : Bool := s.isPending src && s.hostVec src == some m

/-- Some source routed to host vector `m` is pending. -/
def State.anyPending (s : State) (m : Nat) : Bool := (List.range 128).any (s.pendingOn m)

/-- Bit `m` of the pending-bit array. -/
def State.pba (s : State) (m : Nat) : Bool := bitOf s.evt.msixPba.toNat m

/-- The pending-bit array without bit `m`. -/
def State.clearPba (s : State) (m : Nat) : State :=
  { s with evt := { s.evt with msixPba := s.evt.msixPba &&& ~~~(BitVec.ofNat 32 (2 ^ m)) } }

/-- A vector that was unmasked while a routed source is pending: one message, its bit cleared (R193). -/
def State.unmaskVec (s : State) (m : Nat) : State :=
  if s.hostUp ∧ s.vecMasked m = false ∧ s.anyPending m then (s.clearPba m).emit (.msix m)
  else if s.vecMasked m = false then s.clearPba m else s

/-- The vectors below `k` that were masked and no longer are. -/
def State.unmaskVecs (s : State) (was : Nat → Bool) : Nat → State
  | 0 => s
  | k + 1 =>
    let s := s.unmaskVecs was k
    if was k ∧ s.vecMasked k = false then s.unmaskVec k else s

/-- VECTOR 8 to 31 is reserved while TARGET is 0 (R19). -/
def routeReserved (v : Nat) : Bool := bitOf v 1 == false && decide (8 ≤ bitsOf v 4 5)

/-- EVT_ROUTE_WRITE: a reserved combination is dropped whole (R19); a pending source is delivered on its new route (R191). -/
def execEvtRouteWrite (q : Requester) (src : Nat) (v : Word) (s : State) : Result :=
  let w := v &&& 0x1FF#32
  .next (if 128 ≤ src then s
    else if routeReserved w.toNat then s.refuseWrite q (RegName.evtRoute.addr src 0)
    else
      let s := s.setReg .evtRoute src 0 w
      if s.isPending src then s.deliver src else s)

/-- EVT_PEND_CLEAR: a 1 clears a pending bit (R190). -/
def execEvtPendClear (_q : Requester) (k : Nat) (v : Word) (s : State) : Result :=
  .next { s with evt := { s.evt with pend := s.evt.pend &&& ~~~(BitVec.ofNat 128 (v.toNat * 2 ^ (32 * k))) } }

/-- Raises the sources 124 to 127 that bits 3:0 name. -/
def State.raiseSoft (s : State) (v : Nat) : Nat → State
  | 0 => s
  | k + 1 => let s := s.raiseSoft v k; if bitOf v k then s.raise (124 + k) else s

/-- EVT_SOFT. -/
def execEvtSoft (_q : Requester) (v : Word) (s : State) : Result := .next (s.raiseSoft v.toNat 4)

/-- EVT_HOST_EOI: one further message while a routed source is pending and the vector unmasked (R193). -/
def execEvtHostEoi (_q : Requester) (v : Word) (s : State) : Result :=
  let m := bitsOf v.toNat 0 5
  .next (if s.hostUp ∧ s.anyPending m ∧ s.vecMasked m = false then s.emit (.msix m) else s)

/-- EVT_HOST_MASK_WRITE (R193). -/
def execEvtHostMaskWrite (_q : Requester) (v : Word) (s : State) : Result :=
  let was := s.vecMasked
  .next ((s.setReg .evtHostMask 0 0 v).unmaskVecs was 32)

/-- MSIX_MASK_WRITE: the Mask bit of an entry of the MSI-X table acts as EVT_HOST_MASK does (R193, R614). -/
def execMsixMaskWrite (vec : Nat) (mask : Bool) (s : State) : Result :=
  let was := s.vecMasked
  let b : Word := BitVec.ofNat 32 (2 ^ (vec % 32))
  let m := if mask then s.evt.msixMask ||| b else s.evt.msixMask &&& ~~~b
  .next ({ s with evt := { s.evt with msixMask := m } }.unmaskVecs was 32)

/-- MSIX_MESSAGE: a source becomes pending and its message goes out (R193). -/
def execMsixMessage (src : Nat) (s : State) : Result := .next (if src < 128 then s.raise src else s)

/-- One message for each unmasked vector below `k` with pending sources. -/
def State.linkMessages (s : State) : Nat → State
  | 0 => s
  | k + 1 =>
    let s := s.linkMessages k
    if s.anyPending k then
      (if s.vecMasked k then { s with evt := { s.evt with msixPba := s.evt.msixPba ||| BitVec.ofNat 32 (2 ^ k) } } else s.emit (.msix k))
    else s

/-- HOST_LINK_UP: the link comes up once the host-port stage runs (R91); event source 101. -/
def execHostLinkUp (s : State) : Result :=
  .next (if s.evt.hostLink ∨ s.lanesOn = false then s
    else ({ s with evt := { s.evt with hostLink := true } }.linkMessages 32).raise 101)

/-- HOST_LINK_DOWN: messages stop and sources stay pending (R193). -/
def execHostLinkDown (s : State) : Result :=
  .next (if s.evt.hostLink then { s with evt := { s.evt with hostLink := false } }.raise 101 else s)

/-- HOST_PORT_RESET: PCIE_PERST_N resets the host port alone: link, MSI-X table and pending-bit array (R601, R614). -/
def execHostPortReset (s : State) : Result :=
  .next { s with evt := { s.evt with hostLink := false, msixMask := 0xFFFFFFFF, msixPba := 0 } }

/-- The lowest pending enabled source on vector v of core pair k, or 0xFF (R194). -/
def State.nextCoreSource (s : State) (k v : Nat) : Nat :=
  ((List.range 128).find? fun src => s.isPending src && s.bit .evtRoute 0 src && !s.bit .evtRoute 1 src
    && s.fld .evtRoute 2 2 src == k && s.fld .evtRoute 4 5 src == v).getD 0xFF

/-- The lowest pending enabled source on host vector m, or 0xFF (R194). -/
def State.nextHostSource (s : State) (m : Nat) : Nat := ((List.range 128).find? (s.pendingOn m)).getD 0xFF

/-- A core-pair vector is asserted while an enabled source routed to it is pending (R192). -/
def State.coreVector (s : State) (k v : Nat) : Bool := s.nextCoreSource k v != 0xFF

/-- The interrupt line of vector v at a core of pair k: in a split pair vectors 0 to 3 go to core 0 and 4 to 7 to core 1; in lockstep both
cores see all of them (R192). -/
def State.coreLine (s : State) (k : Nat) (second : Bool) (v : Nat) : Bool :=
  s.coreVector k v && ((s.core.pairs.getD k {}).state != 1 || second == decide (4 ≤ v))

end Sys2Proof.Machine
end

