-- ==== Sys2Proof/Machine/Programs.lean ====
section
/-! DEFINITION. Control programs: cycles and releases with their manifests, the scan of the stations, overruns, timers and counters,
restarts, forces and instar changes (07_control_program_execution.md, R282 to R324; 05_pair_operation.md, R198 to R203). What a task
computes comes as the operands of the command that ends it. -/

namespace Sys2Proof.Machine

/-! Items, types and forces. -/

/-- An item of the running program. -/
def State.progItem (s : State) (id : Nat) : Option ProgItem := s.prg.image.bind fun im => im.items.find? fun i => i.ident == id

/-- The value of an output image point with its force (R312). -/
def State.outVal (s : State) (id : Nat) : Nat := forced s.prg.forces 2 id ((assocGet s.prg.outImage id).getD 0)

/-- Task t. -/
def State.task (s : State) (t : Nat) : Task := s.prg.tasks.getD t {}

/-- The state with task t changed. -/
def State.setTask (s : State) (t : Nat) (f : Task → Task) : State := { s with prg := { s.prg with tasks := updAt s.prg.tasks t f } }

/-- A program write: an output point, or a variable unless it is forced (R312). -/
def State.writeItem (s : State) (w : Nat × Nat) : State :=
  match s.progItem w.1 with
  | none => s
  | some i =>
    if i.kind = 6 ∧ i.target = 2 then { s with prg := { s.prg with outImage := assocSet s.prg.outImage w.1 w.2 } }
    else
      let x := (assocGet s.prg.items w.1).getD {}
      { s with prg := { s.prg with items := assocSet s.prg.items w.1 { x with value := forced s.prg.forces 0 w.1 w.2 } } }

/-! Timers, counters and edges (R303 to R306). -/

/-- The instance that a call names. -/
def fbIdent : FbCall → Nat
  | .ton i _ _ | .tof i _ _ | .tp i _ _ | .ctu i _ _ _ | .ctd i _ _ _ | .ctud i _ _ _ _ _ | .rTrig i _ | .fTrig i _ => i

/-- Limits of an integer type. -/
def typeLimits (t : Nat) : Int × Int :=
  let b := typeBytes t
  if 2 ≤ t ∧ t ≤ 5 then (-(2 ^ (8 * b - 1) : Nat), (2 ^ (8 * b - 1) : Nat) - 1) else (0, (2 ^ (8 * b) : Nat) - 1)

/-- ET: the elapsed time truncated to 1 µs, at most PT (R303). -/
def etOf (elapsed pt : Nat) : Nat := min (elapsed / 1000 * 1000) pt

/-- A timer at a call: its start instant, taken or kept, and whether one was ever taken (table Timer behaviour at a call). -/
def timerAt (x : ItemSt) (now pt : Nat) (inp take : Bool) (q : Bool → Nat → Bool) : ItemSt :=
  let start := if take then now else x.start
  let active := take || x.active
  let el := now - start
  { x with start := start, active := active, prevIn := inp, q := q active el, et := if active then etOf el pt else 0, pt := pt, called := true }

/-- A counter's next value: one step within the limits of its type (R305). -/
def countStep (t : Nat) (cv d : Int) : Int := max (typeLimits t).1 (min (typeLimits t).2 (cv + d))

/-- One call of an instance at a task time; `t` is the data type of a counter's CV. -/
def callFb (t now : Nat) (x : ItemSt) : FbCall → ItemSt
  | .ton _ inp pt => timerAt x now pt inp (inp && !x.prevIn) fun a el => inp && a && decide (pt ≤ el)
  | .tof _ inp pt => timerAt x now pt inp (!inp && x.prevIn) fun a el => inp || (a && decide (el < pt))
  | .tp _ inp pt =>
    timerAt x now pt inp (inp && !x.prevIn && !(x.active && decide (now - x.start < pt))) fun a el => a && decide (el < pt)
  | .ctu _ cu reset pv =>
    let cv := if reset then 0 else if cu && !x.prevIn then countStep t x.cv 1 else x.cv
    { x with cv := cv, prevIn := cu, q := decide (pv ≤ cv), called := true }
  | .ctd _ cd load pv =>
    let cv := if load then pv else if cd && !x.prevIn then countStep t x.cv (-1) else x.cv
    { x with cv := cv, prevIn := cd, q := decide (cv ≤ 0), called := true }
  | .ctud _ cu cd reset load pv =>
    let up : Bool := cu && !x.prevIn
    let down : Bool := cd && !x.prevIn2
    let cv := if reset then 0 else if load then pv
      else if up = down then x.cv else if up then countStep t x.cv 1 else countStep t x.cv (-1)
    { x with cv := cv, prevIn := cu, prevIn2 := cd, q := decide (pv ≤ cv), qd := decide (cv ≤ 0), called := true }
  | .rTrig _ inp => { x with q := x.called && inp && !x.prevIn, prevIn := inp, called := true }
  | .fTrig _ inp => { x with q := x.called && !inp && x.prevIn, prevIn := inp, called := true }

/-- A timer call under another PT. -/
def fbWithPt (p : Nat) : FbCall → FbCall
  | .ton i b _ => .ton i b p
  | .tof i b _ => .tof i b p
  | .tp i b _ => .tp i b p
  | c => c

/-- A call of a task at its task time; in the first cycle after SWITCH a matched timer whose output the new PT changes is noted (R324). -/
def State.callOne (s : State) (now : Nat) (c : FbCall) : State :=
  let id := fbIdent c
  let x := (assocGet s.prg.items id).getD {}
  let t := ((s.progItem id).map (·.type)).getD 0
  let y := callFb t now x c
  let due := s.prg.switchCycle && x.called && x.pt != y.pt && (callFb t now x (fbWithPt x.pt c)).q != y.q
  { s with prg := { s.prg with items := assocSet s.prg.items id y,
                               timerDue := if due then s.prg.timerDue ++ [id] else s.prg.timerDue } }

/-! Placement of tasks (R265, R287, R288, R262). -/

/-- Rings and event routes of a lost pair pass to the pair that receives its task (R262). -/
def State.passRings (s : State) (k dst : Nat) : State :=
  if s.pairUp k then s
  else
    let q := s.hq.queues.map fun (x : Queue) => if x.owner = 1 + k ∨ x.owner = 5 + k then { x with owner := 1 + dst } else x
    let s := { s with hq := { s.hq with queues := q } }
    (List.range 128).foldl (fun s src =>
      if s.bit .evtRoute 0 src ∧ s.bit .evtRoute 1 src = false ∧ s.fld .evtRoute 2 2 src = k then s.setFld .evtRoute src 2 2 dst else s) s

/-- Task t at its boundary: on its home pair, else on the first healthy backup, else on any pair that qualifies; a protection-relevant task
runs on a lockstep pair alone, and without one the module leaves the control service (R57, R265). -/
def State.placeTask (s : State) (t : Nat) : State :=
  let x := s.task t
  if x.present = false then s
  else match (x.home :: x.backups ++ [0, 1, 2, 3]).find? fun k => if x.prot then s.pairSafe k else s.pairUp k with
    | some k =>
      if k = x.pair then s
      else ((s.setTask t fun y => { y with pair := k, moved := decide (k ≠ y.home) }).record .taskMoved [t, x.pair, k]).passRings x.pair k
    | none => if x.prot then s.leaveControl else s

/-! Overruns (R298 to R300). -/

/-- One overrun of task t: counted, recorded, event source 87. -/
def State.overrun (s : State) (t n : Nat) : State :=
  ((s.setTask t fun x => { x with ovrRun := satAt 255 (x.ovrRun + 1), ovrTotal := satAt 65535 (x.ovrTotal + 1) }).record .taskOverrun [t, n]).raise
    87

/-- The tolerance is exceeded on the holder: a hand-over where the partner is whole and this module is not, else SAFE-HOLD (R300). -/
def State.toleranceGone (s : State) (t : Nat) : State :=
  if s.partnerStandby ∧ s.wb.partner.hb.holdupOk ∧ s.partnerWhole ∧ s.sys.unitHealth ≠ 0 then
    let s := { s with prg := { s.prg with tasks := s.prg.tasks.map fun (x : Task) => { x with ovrRun := 0 } } }
    { s with wb := { s.wb with ho := if s.wb.ho = .idle ∧ s.sys.mode = .active then .planned else s.wb.ho } }
  else (s.sendRef .release).enterSafeHold 1 (recCodeOf .taskOverrun)

/-! The input image (R198, R295 to R297). -/

/-- The station of session k with its run-time state. -/
def State.station (s : State) (k : Nat) : StationSt := s.prg.stations.getD k {}

/-- The state with station k changed. -/
def State.setStation (s : State) (k : Nat) (f : StationSt → StationSt) : State :=
  let l := s.prg.stations ++ List.replicate (k + 1 - s.prg.stations.length) ({} : StationSt)
  { s with prg := { s.prg with stations := updAt l k f } }

/-- The reply of session k to the exchange just ended, or none (R295); one that the partner's copy gave carries the present stamp. -/
def State.settleStation (s : State) (k : Nat) (got : Option (List Word)) : State :=
  let x := s.station k
  let n := ((s.cfg.sessions[k]?).map (·.station)).getD 0
  match got with
  | some p =>
    let at_ := if x.recent = p then x.stamp else s.tb.ang
    let s := s.setStation k fun x => { x with replied := false, misses := 0, quality := 0, last := p, lastStamp := at_ }
    if x.quality = 2 then s.record .stationBack [n] else s
  | none =>
    let m := x.misses + 1
    let lost := decide (s.cfg.staleLimit ≤ m)
    let s := s.setStation k fun x => { x with replied := false, misses := m, quality := if lost then 2 else 1 }
    if lost ∧ x.quality ≠ 2 then (s.record .stationLost [n]).raise 90 else s

/-- Every session settled by what it sent. -/
def State.settleAll (s : State) (got : Nat → Option (List Word)) : State :=
  (List.range s.cfg.sessions.length).foldl (fun s k => s.settleStation k (got k)) s

/-- The input points of session k: the last reply, or the substitutes (table Station quality byte). -/
def State.stationWords (s : State) (k : Nat) (x : Session) : List Word :=
  if (s.station k).quality = 2 then x.subst else (s.station k).last

/-- Input points of every station with their values. -/
def State.stationPoints (s : State) : List (Nat × Nat) :=
  (numbered 0 s.cfg.sessions).flatMap fun e => List.zipWith (fun (i : Nat) (w : Word) => (i, w.toNat)) e.2.inIdent (s.stationWords e.1 e.2)

/-- The entry of a channel code. -/
def codeEntry (es : List ManEntry) (code : Nat) : Option ManEntry := es.find? fun e => e.kind == 4 && e.b2 == code

/-- Local points as the entries of a manifest give them (table Local value channel codes). -/
def State.localPoints (s : State) (es : List ManEntry) : List (Nat × Nat) :=
  (match codeEntry es 0 with
   | some e => (numbered 0 s.cfg.diPoint).map fun p => (p.2, ofBool (bitOf e.b4 p.1))
   | none => [])
  ++ (numbered 0 s.cfg.aiPoint).filterMap fun p => (codeEntry es (0x100 + p.1)).map fun e => (p.2, bitsOf e.b8 0 32)

/-- The input image of a cycle, with its forces (R312). -/
def State.buildImage (s : State) (es : List ManEntry) : List (Nat × Nat) :=
  (s.stationPoints ++ s.localPoints es).map fun p => (p.1, forced s.prg.forces 1 p.1 p.2)

/-- Network input points as loop inputs of class 6, with the stamps of their frames: a reply waits for the bundle that names it, substitutes
need none (R26, R350, table Input source classes). -/
def State.networkInputs (s : State) : State :=
  (numbered 0 s.cfg.sessions).foldl (fun s e =>
    let x := s.station e.1
    let ws := s.stationWords e.1 e.2
    if x.quality = 0 then
      let b := wordBytes ws
      let item : ManEntry := ⟨1, 2 * e.2.network, e.2.station, (s.prg.cycle + 2 ^ 32 - 1) % 2 ^ 32, crc32 b⟩
      (numbered 0 ws).foldl (fun s p => s.arrive item b 6 (e.2.station * 1024 + p.1) p.2 x.lastStamp) s
    else if x.quality = 2 then s.stationInputs e.2.station x.lastStamp ws false
    else s) s

/-! Manifests at the holder (R198, R289, R296). -/

/-- Flags of output n that the readback entry shows as fault bits. -/
def doFaulty (d : DoSt) : Bool := d.extDrive || d.mismatch || d.short || d.latched || d.darkFail

/-- Bits [7:0] of AIO_AO_n_STATUS. -/
def State.aoStatus (s : State) (n : Nat) : Nat :=
  let a := s.aoCh n
  ofBool a.open_ + 2 * ofBool a.compliance + 4 * ofBool a.noSupply + 8 * ofBool (s.aoFailed n) + 16 * ofBool a.makeup
    + 32 * ofBool (s.calSelected n) + 64 * ofBool (s.loopResOk n)

/-- The holder's local values; the terminal voltage of an AO is a measurement, a free value. -/
def State.localEntries (s : State) : List ManEntry :=
  let di := s.dio.dis
  let bits (l : List Bool) : Nat := (numbered 0 l).foldl (fun v p => v + ofBool p.2 * 2 ^ p.1) 0
  [localEntry 0 (bits (di.map (·.filtered)) + 65536 * bits (di.map (·.diverge))) 0,
   localEntry 1 (bits (s.dio.dos.map (·.readback)) + 65536 * bits (s.dio.dos.map doFaulty)) 0]
  ++ (List.range 8).map s.aiEntry
  ++ (List.range 4).map fun n =>
    localEntry (0x200 + n) (s.aoReadback n).toNat (Config.free (s.freeCtr + n) % 2 ^ 32 + 2 ^ 32 * s.aoStatus n)

/-- Task time of the holder now: its time CSR count plus the pair offset; it never decreases (R289, R290). -/
def State.taskNow (s : State) : Nat := max s.prg.taskTime (Int.ofNat (s.tb.csr * 10) + s.prg.pairOffset).toNat

/-- The entry that carries task time (R289). -/
def timeEntry (t : Nat) : ManEntry := localEntry 0xFF00 (t % 2 ^ 32) (t / 2 ^ 32 % 2 ^ 32)

/-- The task time that a manifest carries. -/
def entryTime (es : List ManEntry) : Nat := match codeEntry es 0xFF00 with
  | some e => e.b4 + 2 ^ 32 * e.b8
  | none => 0

/-- CAN frames received and not yet named, as entries with their data. -/
def State.canItems (s : State) : List (ManEntry × List Byte) :=
  s.can.unused.map fun x => (canEntry x, x.2.2.2)

/-- The highest JSN whose work enters a cycle. -/
def State.jsnCut (s : State) : Nat := if s.wb.dual then s.wb.jsnAck else s.wb.jsn

/-- The manifest of a task: the items named, the local values, task time. -/
def State.manifestOf (s : State) (task cycle : Nat) (items : List ManEntry) : ManSt :=
  { task := task, cycle := cycle, angle := s.tb.ang, parts := 1, held := [0], jsnCut := s.jsnCut,
    entries := items ++ s.localEntries ++ [timeEntry s.taskNow], missing := [] }

/-- The last program cycle: of this module, or after a restart of it of the journal (R308). -/
def State.lastCycle (s : State) : Nat :=
  if s.prg.restartKind.isSome then max s.prg.cycle ((journalProgCycle s.wb.journal).getD 0) else s.prg.cycle

/-- At a plant start after a restart of the module, task time and the release numbers go on from the journal's (R307, R308). -/
def State.resumeNumbers (s : State) : State :=
  if s.prg.restartKind.isNone ∨ s.prg.taskTime ≠ 0 then s
  else
    let kept := journalKept s.wb.journal
    let t := (assocGet kept keptTime).getD 0
    let tasks := (numbered 0 s.prg.tasks).map fun p => { p.2 with relNum := (assocGet kept (keptTime + p.1)).getD 0 }
    { s with prg := { s.prg with taskTime := t, pairOffset := Int.ofNat t - Int.ofNat (s.tb.csr * 10), tasks := tasks } }

/-- The manifest of task 0's next cycle goes out; it names every frame and sweep received since the last one (table Main cycle and scan,
t4). -/
def State.prepareCycle (s : State) : State :=
  let s := s.resumeNumbers
  let can := s.canItems
  let held := can.foldl (fun (l : List (ManEntry × List Byte)) (e : ManEntry × List Byte) => assocSet l e.1 e.2) s.wb.heldItems
  let items := s.wb.newItems ++ can.map (·.1)
  let m := s.manifestOf 0 (s.lastCycle + 1) items
  let s := { s with wb := { s.wb with newItems := [], heldItems := newest 4096 held },
                    can := { s.can with unused := [] }, freeCtr := s.freeCtr + 4, prg := { s.prg with next := some m } }
  s.sendManifest m s.status

/-! Restart (R307, R308). -/

/-- An item as a journal kept it. -/
def unkept (kind v : Nat) : ItemSt :=
  if kind = 2 then { start := v / 4, prevIn := bitOf v 1, active := bitOf v 0, called := true } else { value := v }

/-- The 64-byte entry of a force (table Force entry). -/
def forceBytes (f : Force) : List Byte :=
  leBytes 8 f.ident ++ leBytes 2 f.element ++ leBytes 1 f.target ++ leBytes 1 f.type ++ leBytes 4 0 ++ leBytes 16 f.value
    ++ ptBytes f.setTime ++ leBytes 4 f.setStatus ++ leBytes 8 f.setBy ++ leBytes 8 0

/-- FORCE_REMOVED with the force's entry, cause 0 command, 1 cold restart, 2 INSTAR; event source 89 (R314). -/
def State.forceGone (s : State) (f : Force) (cause : Nat) : State :=
  (s.record .forceRemoved (cause :: (forceBytes f).map (·.toNat))).raise 89

/-- A force takes hold: variables and input points show it at once (R312). -/
def PrgSt.overlay (p : PrgSt) : PrgSt :=
  { p with inImage := p.inImage.map fun x => (x.1, forced p.forces 1 x.1 x.2),
           items := p.items.map fun x => (x.1, { x.2 with value := forced p.forces 0 x.1 x.2.value }) }

/-- The state with which the next cycle starts (table Restart contents); `down` is the time the program was not running. -/
def State.applyRestart (s : State) (cold : Bool) (down : Nat) : State :=
  let kept := journalKept s.wb.journal
  let fresh (i : ProgItem) : Option (Nat × ItemSt) :=
    let old := match assocGet s.prg.items i.ident with
      | some x => some x
      | none => (assocGet kept i.ident).map (unkept i.kind)
    match (if !cold && isKept i then old else none) with
    | some x => some (i.ident, if i.kind = 2 then { x with start := x.start + down } else x)
    | none => if i.kind = 1 then some (i.ident, { value := i.init }) else none
  let items := match s.prg.image with
    | some im => im.items.filterMap fresh
    | none => []
  let gone := if cold then s.prg.forces else []
  let s := { s with prg := { s.prg with items := items, forces := if cold then [] else s.prg.forces, lastCold := cold }.overlay }
  let s := gone.foldl (fun s f => s.forceGone f 1) s
  s.record .prgRestart [ofBool cold, s.prg.cycle]

/-- An angle task whose schedule starts now: for all its releases at or before now one LATE release is due, its SKIP_COUNT without the first,
and the next is the first after now; every one of them counts (R135, R137, R286). -/
def startTask (now : Nat) (t : Task) : Task :=
  if now < t.rel ∨ t.per = 0 then t
  else
    let m := (now - t.rel) / t.per + 1
    { t with rel := t.rel + m * t.per, relNum := t.relNum + m - 1, late := true, skips := m - 1 }

/-- A plant start's restart takes effect with its first cycle (R606): downtime is not counted, and the schedules of the angle tasks start
(R135). -/
def State.plantRestart (s : State) (newTime : Nat) : State :=
  match s.prg.restartKind with
  | none => s
  | some cold =>
    let down := newTime - s.prg.taskTime
    let tasks := s.prg.tasks.map fun (t : Task) => startTask s.tb.ang { t with running := false, ovrRun := 0, late := false, skips := 0 }
    { s with prg := { s.prg with restartKind := none, tasks := tasks } }.applyRestart cold down

/-! Manifests received (R199, R233). -/

/-- The oldest whole manifest of a task that the follower has not started. -/
def State.readyManifest (s : State) (task : Nat) : Option ManSt :=
  s.wb.manifests.find? fun m => m.task == task && m.held.length == m.parts && m.missing.isEmpty
    && decide ((if task = 0 then s.prg.cycle else (s.task task).relNum) < m.cycle)

/-- A CAN frame named by the manifest uses the oldest own one that matches it (R518). -/
def State.useCan (s : State) (l : List (Nat × Nat × Nat × List Byte)) (e : ManEntry) : List (Nat × Nat × Nat × List Byte) :=
  l.eraseP fun x => s.sameCan (canEntry x) e

/-- The reply of session k that a manifest names, by its content. -/
def State.namedReply (s : State) (es : List ManEntry) (k : Nat) : Option (List Word) :=
  match s.cfg.sessions[k]? with
  | none => none
  | some x => match es.find? fun e => e.kind == 1 && e.b2 == x.station with
    | some e => (assocGet s.wb.heldItems e).map fun b => toWords (b.length / 4) b
    | none => none

/-- What a manifest names is taken: the stations' replies by their content, the own CAN frames it uses; older manifests of the task go
(R199). -/
def State.takeManifest (s : State) (m : ManSt) : State :=
  let s := { s with wb := { s.wb with manifests := s.wb.manifests.filter fun x => decide (x.task ≠ 0 ∨ m.cycle < x.cycle) } }
  let s := s.settleAll (s.namedReply m.entries)
  { s with can := { s.can with unused := m.entries.foldl s.useCan s.can.unused } }

/-! Cycles of task 0. -/

/-- A cycle of task 0 starts by a manifest: its cut, its task time, its image (R202, R289, R297). -/
def State.beginCycle (s : State) (m : ManSt) : State :=
  let t := entryTime m.entries
  let s := { s with prg := { s.prg with cycle := m.cycle, next := none, switchCycle := false, timerDue := [], scanOpen := false } }
  let s := s.plantRestart t
  let s := { s with wb := { s.wb with covered := max s.wb.covered m.jsnCut, cycle := m.cycle }, prg := { s.prg with taskTime := t } }
  let s := ((s.noteEpochs m.entries m.jsnCut).switchRings).networkInputs
  ({ s with prg := { s.prg with inImage := s.buildImage m.entries } }.setTask 0 fun x => { x with running := true, time := t, angle := m.angle }).placeTask 0

/-- The cycle that ends with this start overran, or was longer than MAX_CYCLE_US (R298, R299); the boundary lengthened by a SWITCH is not
counted as an overrun (R317). -/
def State.judgeCycle (s : State) (im : ProgImage) (us : Nat) : State × Bool :=
  let excess := decide (im.watchUs < us) && !s.prg.switchCycle
  let s := { s with prg := { s.prg with cycleLast := min us (2 ^ 24 - 1), cycleMax := max s.prg.cycleMax (min us (2 ^ 24 - 1)) } }
  let s := if excess then s.overrun 0 s.prg.cycle else s.setTask 0 fun x => { x with ovrRun := 0 }
  (s, (excess && decide ((s.task 0).ovrLimit ≤ (s.task 0).ovrRun)) || decide (im.maxCycleUs < us))

/-- A station session's output body (table Output frame body). -/
def outputBody (station cycle : Nat) (pts : List Word) : List Byte :=
  leBytes 2 station ++ leBytes 2 pts.length ++ leBytes 8 cycle ++ leBytes 4 0 ++ wordBytes pts

/-- Value of output point k of a session, of identity `id`: the program's, or the loop engine's where a stage feeds the point (destination
class 4), with its force (R312). -/
def State.pointVal (s : State) (x : Session) (k id : Nat) : Nat :=
  match assocGet s.loop.netOut (x.stream * 1024 + k) with
  | some v => forced s.prg.forces 2 id v.toNat
  | none => s.outVal id

/-- Output points of a session as `val` gives them. -/
def sessionPoints (x : Session) (val : Session → Nat → Nat → Nat) : List Word :=
  (numbered 0 x.outIdent).map fun p => BitVec.ofNat 32 (val x p.1 p.2)

/-- Launches the output frame of every session (R203, R292): class 5, CYCLIC, SEQ the cycle number. -/
def State.sendOutputs (s : State) (val : Session → Nat → Nat → Nat) : State :=
  s.cfg.sessions.foldl (fun s x =>
    if s.netOn x.network then
      s.emit (.net x.network 5 (.output x.station s.prg.cycle (s.cycEpoch x.stream) (s.prg.cycle % 2 ^ 32) (sessionPoints x val)))
    else s) s

/-- The CYCLIC streams of a task beside station sessions and the dispatch service (R203): its output points as the payload. -/
def State.taskStreams (s : State) (t : Nat) : List Nat :=
  let own (id : Nat) : Bool := !((List.range s.cfg.workers).any fun i => id == s.cfg.dspSpBase + i || id == s.cfg.dspRpBase + i)
    && id != s.cfg.dspRpBase + s.cfg.dspWorker && !s.cfg.sessions.any fun x => x.stream == id
  (s.cfg.taskStreams.filter fun e => e.1 == t && own e.2).map (·.2)

/-- Output points that a task writes. -/
def State.taskPoints (s : State) (t : Nat) : List Nat := match s.prg.image with
  | some im => (im.items.filter fun i => i.kind == 6 && i.target == 2 && i.writer == t).map (·.ident)
  | none => []

/-- Sends the CYCLIC frames of a task under a SEQ, its points as `val` gives them. -/
def State.sendTaskStreams (s : State) (t seq : Nat) (val : Nat → Nat) : State :=
  let pay := wordBytes ((s.taskPoints t).map fun i => BitVec.ofNat 32 (val i))
  (s.taskStreams t).foldl (fun s id =>
    if s.netOn 0 then s.emit (.net 0 2 (.stream 0 id (s.cycEpoch id) (seq % 2 ^ 32) false false pay)) else s) s

/-- The value of an output point in SAFE-HOLD (R302). -/
def State.safeVal (s : State) (id : Nat) : Nat := match assocGet s.cfg.safeValues id with
  | some (.value v) => v
  | _ => s.outVal id

/-- The module stops its tasks, gives up the lease and enters SERVICE for a change of configuration or role (R600). -/
def State.configStop (s : State) : State :=
  let s := { s with sys := { s.sys with stopPend := false }, prg := { s.prg with runState := 0 } }
  ((if s.holds then s.sendRef .release else s).record .configStop [s.sys.mode.code]).enterService

/-- CYCLE_START: a cycle of task 0 at the member that leads, `cycleUs` after the last one's start. A new holder starts it by the manifest that
it got as a follower and has not started, otherwise by one of its own (R233). In SAFE-HOLD the CYCLIC streams go on with safe
values while a core pair and PD5 remain (R302). -/
def execCycleStart (cycleUs : Nat) (s : State) : Result :=
  .next (match s.prg.image with
    | none => s
    | some im =>
      if s.prg.runState = 2 ∧ s.sys.mode = .safeHold then
        (if cycleUs < im.minCycleUs ∨ bitsOf s.sys.unitHealth 0 4 = 15 ∨ s.powered 5 = false then s
         else
           let s := { s with prg := { s.prg with cycle := s.prg.cycle + 1 }, wb := { s.wb with cycle := s.prg.cycle + 1 } }
           (s.sendOutputs fun _ _ id => s.safeVal id).sendTaskStreams 0 s.prg.cycle s.safeVal)
      else if !s.leads ∨ s.prg.runState ≠ 1 ∨ (s.task 0).running ∨ s.prg.scanOpen then s
      else
        let first := decide (s.prg.cycle = 0) || s.prg.restartKind.isSome
        if !first ∧ cycleUs < im.minCycleUs then s
        else
          let (s, gone) := if first then (s, false) else s.judgeCycle im cycleUs
          let s := if gone then s.toleranceGone 0 else s
          if s.sys.stopPend then s.configStop
          else if !s.leads ∨ s.prg.runState ≠ 1 then s
          else
            match s.prg.next, s.readyManifest 0 with
            | some m, _ => s.beginCycle m
            | none, some m => (s.takeManifest m).beginCycle m
            | none, none =>
              let s := s.prepareCycle
              match s.prg.next with
              | some m => s.beginCycle m
              | none => s)

/-! Matching (R321, R323). -/

/-- How an item of the new program finds its state (table Instance matching at SWITCH). -/
inductive Matched | kept | converted | reinit | new
  deriving DecidableEq, Repr

/-- Types that an IEC 61131-3 implicit conversion widens (notes/assumptions/32.md). -/
def wider : List (Nat × List Nat) :=
  [(1, [6, 7, 8, 9]), (2, [3, 4, 5, 10, 11]), (3, [4, 5, 10, 11]), (4, [5, 11]), (6, [7, 8, 9, 3, 4, 5, 10, 11]), (7, [8, 9, 4, 5, 10, 11]),
   (8, [9, 5, 11]), (10, [11])]

/-- Type `a` widens to type `b`. -/
def widens (a b : Nat) : Bool := ((assocGet wider a).getD []).contains b

/-- The old item that carries the state of a new one: the same identity and kind, and for a function block the same type. -/
def carries (o n : ProgItem) : Bool := o.ident == n.ident && o.kind == n.kind && (n.kind == 1 || n.kind == 6 || o.type == n.type)

/-- The match of a new item among the old ones. -/
def matchItem (old : List ProgItem) (n : ProgItem) : Matched :=
  match old.find? fun o => carries o n with
  | none => .new
  | some o => if o.type = n.type then .kept else if widens o.type n.type then .converted else .reinit

/-- A value of type `a` as type `b`. -/
def convertOne (a b v : Nat) : Nat :=
  let i : Int := if 2 ≤ a ∧ a ≤ 5 then signedOf (8 * typeBytes a) v else Int.ofNat (v % 2 ^ (8 * typeBytes a))
  if a = 10 then (f2d (BitVec.ofNat 32 v)).toNat
  else if b = 10 then (fofInt i).toNat
  else if b = 11 then (dofInt i).toNat
  else unsignedOf (8 * typeBytes b) i

/-- Every element of an item converted. -/
def convertAll (a b n v : Nat) : Nat :=
  (List.range n).foldl (fun x k => x + convertOne a b (bitsOf v (8 * typeBytes a * k) (8 * typeBytes a)) * 2 ^ (8 * typeBytes b * k)) 0

/-- State of the items of a new program, from those of the old one. -/
def transfer (old new : List ProgItem) (st : List (Nat × ItemSt)) : List (Nat × ItemSt) :=
  new.filterMap fun n =>
    let init : Option (Nat × ItemSt) := if n.kind = 1 then some (n.ident, { value := n.init }) else none
    match matchItem old n, assocGet st n.ident with
    | .kept, some x => some (n.ident, x)
    | .converted, some x =>
      let t := ((old.find? fun o => carries o n).map (·.type)).getD 0
      some (n.ident, { x with value := convertAll t n.type (max 1 n.elements) x.value })
    | _, _ => init

/-- A force's item stands in a program with the same data type (R322). -/
def forceStays (items : List ProgItem) (f : Force) : Bool :=
  items.any fun i => i.ident == f.ident && i.type == f.type && i.target == f.target && (f.element == 0xFFFF || decide (f.element < i.elements))

/-- One 16-byte entry of the change report. -/
def reportEntry (ident kind action detail : Nat) : List Byte :=
  leBytes 8 ident ++ leBytes 1 kind ++ leBytes 1 action ++ leBytes 2 0 ++ leBytes 4 detail

/-- The entries with ACTION 1 to 4 (table Change report entry). -/
def reportEntries (old new : List ProgItem) (forces : List Force) : List (List Byte) :=
  let typeOf (n : ProgItem) : Nat := ((old.find? fun o => carries o n).map (·.type)).getD 0
  ((old.filter fun o => !new.any fun n => carries o n).map fun o => reportEntry o.ident o.kind 1 0)
    ++ ((new.filter fun n => matchItem old n == .converted).map fun n => reportEntry n.ident n.kind 2 (typeOf n + 256 * n.type))
    ++ ((new.filter fun n => matchItem old n == .reinit).map fun n => reportEntry n.ident n.kind 3 (typeOf n + 256 * n.type))
    ++ ((forces.filter fun f => !forceStays new f).map fun f =>
      reportEntry f.ident (((old.find? fun o => o.ident == f.ident).map (·.kind)).getD 1) 4 f.element)

/-- The 48-byte header (table Change report header). -/
def reportHeader (changeId : Nat) (old new : ProgImage) (entries : Nat) : List Byte :=
  let n (m : Matched) : Nat := (new.items.filter fun i => matchItem old.items i == m).length
  leBytes 8 changeId ++ old.digest.take 8 ++ List.replicate (8 - old.digest.length) 0 ++ new.digest.take 8
    ++ List.replicate (8 - new.digest.length) 0 ++ leBytes 4 (n .kept) ++ leBytes 4 (n .new)
    ++ leBytes 4 (old.items.filter fun o => !new.items.any fun i => carries o i).length ++ leBytes 4 (n .converted) ++ leBytes 4 (n .reinit)
    ++ leBytes 4 entries

/-! The end of a cycle or release. -/

/-- The 8-byte digest of a payload (R242). -/
def digest8 (b : List Byte) : List Byte := shake256 8 b

/-- The digests of a cycle: every station stream, the local output commands (0xFF00) and the CAN frames it queued (0xFF01). -/
def State.cycleDigests (s : State) : List (Nat × List Byte) :=
  let pts := (s.cfg.doPoint ++ s.cfg.aoPoint).map fun i => BitVec.ofNat 32 (s.outVal i)
  let can := s.can.built.flatMap fun b => leBytes 1 b.1 ++ leBytes 4 b.2.id ++ b.2.data
  (s.cfg.sessions.map fun x => (x.stream, digest8 (outputBody x.station s.prg.cycle (sessionPoints x s.pointVal))))
    ++ [(0xFF00, digest8 (wordBytes pts)), (0xFF01, digest8 can)]

/-- A PDO re-arms once the program's command for it has been 0 in a cycle of task 0 (R455). -/
def State.rearm (s : State) : State :=
  (List.range 4).foldl (fun s g =>
    let off : Bool := match s.cfg.doPoint[12 + g]? with
      | some i => (assocGet s.prg.outImage i).getD 0 == 0
      | none => true
    if (s.trip g).rearmWait && off then s.setGroup g fun t => { t with rearmWait := false } else s) s

/-- Local outputs take the values of the output image; an AO that the loop engine feeds takes a forced one (R312, R489, R498). -/
def State.driveLocal (s : State) : State :=
  let s := (numbered 0 (s.cfg.doPoint.take 16)).foldl (fun s p => s.setDo p.1 (s.outVal p.2 != 0)) s
  (numbered 0 (s.cfg.aoPoint.take 4)).foldl (fun s p =>
    s.setAo p.1 ((s.aoCfg p.1).srcLoop && s.destForced (2 ^ 24 + p.1)) (BitVec.ofNat 32 (s.outVal p.2)) false) s

/-- What a task did: its calls in order, then its writes, and the loop exchange variables it wrote (R285, class 3). -/
def State.taskDone (s : State) (t : Nat) (writes : List (Nat × Nat)) (calls : List FbCall) : State :=
  let s := calls.foldl (fun s c => s.callOne (s.task t).time c) s
  let s := writes.foldl State.writeItem s
  match s.prg.image with
  | some im => im.exchange.foldl (fun s e =>
      if writes.any fun w => w.1 == e.1 then
        s.setInput 3 e.2 (BitVec.ofNat 32 (((assocGet s.prg.items e.1).map (·.value)).getD 0)) (s.task t).angle true else s) s
  | none => s

/-- The holder journals the retained items that changed, with task time and the release numbers (R285, R308). -/
def State.journalRetained (s : State) (before : List (Nat × Nat)) : State :=
  if s.authoritative then s.journalAdd (.retained s.prg.cycle (s.retainedImage.filter fun v => !before.contains v)) else s

/-- The content of the INSTAR_SWITCH record: the change report's header, a FORCE_DROP entry per force dropped, a TIMER_DUE entry per timer due
(R324). -/
def State.switchReport (s : State) (old new : ProgImage) : List Byte :=
  let kind (id : Nat) : Nat := ((old.items.find? fun o => o.ident == id).map (·.kind)).getD 1
  let es := (s.prg.drops.map fun d => reportEntry d.1 (kind d.1) 4 d.2) ++ s.prg.timerDue.map fun id => reportEntry id 2 5 0
  reportHeader s.prg.changeId old new es.length ++ es.flatten

/-- The INSTAR_SWITCH record of the first new cycle (R324). -/
def State.switchRecord (s : State) : State :=
  match s.prg.switchCycle, s.prg.oldImage, s.prg.image with
  | true, some old, some new => s.record .instarSwitch ((s.switchReport old new).map (·.toNat))
  | _, _, _ => s

/-- Task 0 ends its cycle: its writes, a due INSTAR_SWITCH record, and what of its retained variables changed (R242, R292). -/
def State.commitCycle (s : State) (writes : List (Nat × Nat)) (calls : List FbCall) : State :=
  let t := ((s.taskDone 0 writes calls).setTask 0 fun x => { x with running := false }).switchRecord.rearm
  let d := t.cycleDigests
  { t with can := { t.can with built := [] },
           wb := { t.wb with digests := newest 64 (assocSet t.wb.digests t.prg.cycle d) } }.journalRetained s.retainedImage

/-- The digests of the cycle's outputs: the holder sends them, a follower compares those that came earlier (R242). -/
def State.shareDigests (s : State) : State :=
  let d := (assocGet s.wb.digests s.prg.cycle).getD []
  if s.holds then s.sendWb (.outputDigest s.prg.cycle d)
  else match assocGet s.wb.digestWait s.prg.cycle with
    | some o => { s with wb := { s.wb with digestWait := assocDel s.wb.digestWait s.prg.cycle } }.compareDigests s.prg.cycle d o
    | none => s

/-- The stream under which a descriptor without its counterpart counts as a mismatch (notes/assumptions/87.md). -/
def shadowStream : Nat := 0xFF02

/-- A descriptor that waits for its counterpart at the end of the program cycle after the one in which it was fetched is a mismatch of that
cycle; it goes on waiting (R173). -/
def State.judgeShadows (s : State) : State :=
  if (s.sys.mode = .standby ∨ s.sys.mode = .update) ∧ s.hq.ops.any (fun o => o.shadow && o.seen + 1 == s.prg.cycle) then
    s.shadowMismatch shadowStream s.prg.cycle
  else s

/-- The frames of exchange n and the local outputs, in the modes that emit. -/
def State.emitCycle (s : State) : State :=
  if modeEmits s.sys.mode then (s.driveLocal.sendOutputs s.pointVal).sendTaskStreams 0 s.prg.cycle s.outVal else s

/-- Exchange n is open for the stations' replies. -/
def State.openScan (s : State) : State := { s with prg := { s.prg with scanOpen := true } }

/-- A task is held off its core pair by another that runs there: one of higher priority, or of equal priority that was released before it
(R284, table Fixed arbitration orders). -/
def State.preempted (s : State) (t : Nat) : Bool :=
  let x := s.task t
  (numbered 0 s.prg.tasks).any fun u => u.2.running && u.2.pair == x.pair
    && (decide (x.priority < u.2.priority) || (u.2.priority == x.priority
      && (decide (u.2.angle < x.angle) || (u.2.angle == x.angle && decide (u.1 < t)))))

/-- A task whose pair was lost while it ran executes its cycle again on the receiving pair (R287). -/
def State.resumeTask (s : State) (t : Nat) : State := if s.pairUp (s.task t).pair then s else s.placeTask t

/-- A running task ends on a healthy pair, with nothing else before it there (R284, R287). -/
def State.mayEnd (s : State) (t : Nat) : Bool := (s.task t).running && s.pairUp (s.task t).pair && !s.preempted t

/-- TASK0_END: the output image is committed with its forces; RETAINED is journalled; the holder sends OUTPUT_DIGEST; both members launch
the frames of exchange n (table Main cycle and scan, t0 to t2; R242, R292). -/
def execTask0End (writes : List (Nat × Nat)) (calls : List FbCall) (s : State) : Result :=
  .next (
    let s := if (s.task 0).running then s.resumeTask 0 else s
    if s.mayEnd 0 = false then s
    else
      (s.commitCycle writes calls).shareDigests.judgeShadows.emitCycle.openScan)

/-- STATION_REPLY_RX: taken when it answers the present exchange of its session; every other reply is counted (R294, R531). The holder's
manifest names it; a follower keeps it for that manifest, or for its own as the new holder (R233). -/
def execStationReplyRx (station pairId mac echo : Nat) (points : List Word) (s : State) : Result :=
  let k := s.cfg.sessions.findIdx fun x => x.station == station
  .next (match s.cfg.sessions[k]? with
    | some x =>
      if pairId = s.pairId ∧ mac = x.mac ∧ echo = s.prg.cycle % 2 ^ 32 ∧ (s.prg.scanOpen ∨ s.follows) ∧ s.powered 5 then
        let b := wordBytes points
        let e : ManEntry := ⟨1, 2 * x.network, station, echo, crc32 b⟩
        (s.setStation k fun t => { t with replied := true, recent := points, stamp := s.tb.ang }).nameItem e b
      else { s with net := { s.net with replyDiscard := (s.net.replyDiscard + 1) % 2 ^ 32 } }
    | none => { s with net := { s.net with replyDiscard := (s.net.replyDiscard + 1) % 2 ^ 32 } })

/-- SCAN_TIMEOUT: the exchange ends; local inputs are sampled once, and the holder sends the manifest of the next cycle (t3, t4; R295,
R488). -/
def execScanTimeout (di : Nat) (ai : List Nat) (s : State) : Result :=
  .next (if s.prg.scanOpen = false then s
    else
      let s := { s with prg := { s.prg with scanOpen := false } }
      let s := if s.powered 7 then (s.takeDi di).takeAis 0 ai else s
      if s.leads then
        (s.settleAll fun k => if (s.station k).replied then some (s.station k).recent else none).prepareCycle
      else s)

/-! Angle tasks. -/

/-- An angle task that is not running is released: its manifest names the items since the last one and goes out, its task time is fixed, and
it is placed (R198, R286). -/
def State.startRelease (s : State) (t skips : Nat) (late : Bool) (can : List (ManEntry × List Byte)) : State :=
  let items := (s.wb.newItems.filter fun (e : ManEntry) => e.kind == 3) ++ can.map (·.1)
  let held := can.foldl (fun (l : List (ManEntry × List Byte)) (e : ManEntry × List Byte) => assocSet l e.1 e.2) s.wb.heldItems
  let s := { s with wb := { s.wb with heldItems := held } }
  let m := s.manifestOf t (s.task t).relNum items
  let time := entryTime m.entries
  let s := { s with freeCtr := s.freeCtr + 4 }.sendManifest m (s.statusWith late false skips)
  ({ s with prg := { s.prg with taskTime := max s.prg.taskTime time } }.setTask t fun y =>
    { y with running := true, excess := false, time := time, angle := m.angle }).placeTask t

/-- Angle task u goes before task t at one stamp on one core pair: higher priority, then lower number (table Fixed arbitration orders). -/
def releasesFirst (u t : Nat × Task) : Bool :=
  u.2.present && u.2.pair == t.2.pair && u.2.rel == t.2.rel && u.2.late == t.2.late && decide (0 < u.2.per)
    && (decide (t.2.priority < u.2.priority) || (u.2.priority == t.2.priority && decide (u.1 < t.1)))

/-- A release of an angle task is due, and no other of its stamp goes before it (R65, R284). -/
def State.releaseDue (s : State) (t : Nat) : Bool :=
  let x := s.task t
  (x.late || decide (x.rel ≤ s.tb.ang))
    && !((numbered 0 s.prg.tasks).any fun u => decide (0 < u.1) && releasesFirst u (t, x))

/-- TASK_RELEASE: an angle task at its stamp on the holder. Every occurrence counts; those passed over, by a clock advance or before its
schedule started, fire LATE once with their skips; a release that finds the last one running is an overrun and is skipped (R135, R283, R286,
R296, R298, R299). -/
def execTaskRelease (t : Nat) (di : Nat) (ai : List Nat) (s : State) : Result :=
  let x := s.task t
  .next (if t = 0 ∨ 32 ≤ t ∨ x.present = false ∨ x.per = 0 ∨ s.releaseDue t = false ∨ s.prg.runState ≠ 1 ∨ !s.leads then s
    else
      let k := if x.late then 1 else (s.tb.ang - x.rel) / x.per + 1
      let skips := if x.late then x.skips else k - 1
      let s := s.setTask t fun y =>
        { y with rel := if x.late then y.rel else y.rel + k * y.per, relNum := y.relNum + k, late := false, skips := 0 }
      if x.running then
        let s := (s.setTask t fun y => { y with excess := true }).overrun t (s.task t).relNum
        if (s.task t).ovrLimit ≤ (s.task t).ovrRun then s.toleranceGone t else s
      else
        let s := if s.powered 7 then (s.takeDi di).takeAis 0 ai else s
        s.startRelease t skips (x.late || decide (1 < k)) s.canItems)

/-- TASK_RELEASE_END: its global writes become visible, and its CYCLIC frames go out under its release number (R203, R285, R286, R299). -/
def execTaskReleaseEnd (t : Nat) (writes : List (Nat × Nat)) (calls : List FbCall) (s : State) : Result :=
  .next (
    let s := if t ≠ 0 ∧ (s.task t).running then s.resumeTask t else s
    if t = 0 ∨ s.mayEnd t = false then s
    else
      let before := s.retainedImage
      let s := (s.taskDone t writes calls).setTask t fun x => { x with running := false, ovrRun := if x.excess then x.ovrRun else 0, excess := false }
      let s := s.journalRetained before
      if modeEmits s.sys.mode then s.driveLocal.sendTaskStreams t (s.task t).relNum s.outVal else s)

/-! The follower (R199 to R201). -/

/-- A SWITCH that the cut covers while this member has not finished its own BIND (R318). -/
def State.bindMissing (s : State) (cut : Nat) : Bool :=
  decide (s.prg.stage = 1 ∨ s.prg.stage = 2) && s.workOf.any fun o =>
    o.engine == 10 && dOpcode o.bytes == 0x24 && dInline o.bytes 0 8 == s.prg.changeId
      && (match o.jsn with
        | some j => decide (j ≤ cut)
        | none => false) && !s.wb.applied.any fun a => o.jsn == some a.1

/-- What the follower learns of its own channels from the holder's entries (R485, R502). -/
def State.compareLocal (s : State) (es : List ManEntry) : State :=
  let s := match codeEntry es 0 with
    | some e => (List.range 16).foldl (fun s n => s.diDiverge e.b4 n) s
    | none => s
  let s := (List.range 8).foldl (fun s n => match codeEntry es (0x100 + n) with
    | some e => s.aiDiverge n (BitVec.ofNat 32 e.b4)
    | none => s) s
  (List.range 4).foldl (fun s n => match codeEntry es (0x200 + n) with
    | some e => s.learnLoopRes n (BitVec.ofNat 32 e.b4) (BitVec.ofNat 32 (bitsOf e.b8 0 32))
    | none => s) s

/-- The follow distance (R200, R201). -/
def State.followDistance (s : State) (us min : Nat) : State :=
  let run := if 150 < us then s.wb.lagRun + 1 else 0
  let s := { s with wb := { s.wb with followLast := satAt 65535 us, followMax := satAt 65535 (max s.wb.followMax us), lagRun := run } }
  let s := if run = 8 then s.record .followLag [us] else s
  if min ≤ us ∧ s.sys.mode = .standby then s.enterSync (recCodeOf .followLag) else s

/-- FOLLOWER_CYCLE_START: the follower starts a cycle or release once it holds every part and item of its manifest; it takes task time from
it, and its own offset so that a takeover goes on from there (R199, R289, R290). -/
def execFollowerCycleStart (task : Nat) (distUs : Nat) (s : State) : Result :=
  .next (match s.prg.image with
    | none => s
    | some im =>
      if !s.follows ∨ 32 ≤ task ∨ (s.task task).running ∨ (s.sys.mode = .sync ∧ s.wb.resyncStep < 5) ∨ s.pwr.pf ≠ .idle then s
      else match s.readyManifest task with
        | none => s
        | some m =>
          if s.bindMissing m.jsnCut then s
          else
            let time := entryTime m.entries
            let s := { s with prg := { s.prg with pairOffset := Int.ofNat time - Int.ofNat (s.tb.csr * 10), runState := 1 } }
            if task = 0 then
              (((s.takeManifest m).compareLocal m.entries).beginCycle m).followDistance distUs im.minCycleUs
            else
              let x := s.task task
              let s := { s with wb := { s.wb with manifests := s.wb.manifests.filter fun x => decide (x.task ≠ task ∨ m.cycle < x.cycle) },
                                prg := { s.prg with taskTime := max s.prg.taskTime time } }
              ((s.setTask task fun y => { y with running := true, excess := false, relNum := m.cycle,
                                                 rel := y.rel + (m.cycle - x.relNum) * y.per, time := time, angle := m.angle }).placeTask task))

/-! Program commands (R309, R310). -/

/-- PRG_REFUSED. -/
def stPrgRefused : Nat := 0x200
/-- STAGE_ORDER. -/
def stStageOrder : Nat := 0x201
/-- FORCE_FULL. -/
def stForceFull : Nat := 0x202
/-- NO_SUCH_ITEM. -/
def stNoItem : Nat := 0x203
/-- TYPE_MISMATCH. -/
def stTypeMismatch : Nat := 0x204
/-- REPORT_TRUNCATED. -/
def stTruncated : Nat := 0x205

/-- Program work of a lower JSN still waits: commands are applied in JSN order (R297). -/
def State.earlierWork (s : State) (j : Nat) : Bool :=
  (if s.holds then s.hq.work else s.workOf).any fun o =>
    o.engine == 10 && decide (0x20 ≤ dOpcode o.bytes ∧ dOpcode o.bytes ≤ 0x29) && !o.long && o.done.isNone && !o.waitTime
      && (match o.jsn with
        | some i => decide (i < j) && !s.wb.applied.any fun a => a.1 == i
        | none => false)

/-- A program command takes effect at the boundary whose JSN_CUT first covers it (R297). -/
def State.progOp (s : State) (w : WorkRef) (opcode : Nat) (f : Op → State → State) : State :=
  s.coveredOp w 10 opcode fun op s =>
    match op.jsn with
    | some j => if s.earlierWork j then s else f op s
    | none => f op s

/-- PRG_REFUSED: PRG_REFUSE and the record name the reason (R310). -/
def State.prgRefuse (s : State) (op : Op) (reason : Nat) : State :=
  ({ s with prg := { s.prg with refuse := reason } }.record .prgRefused [reason]).finishCut op stPrgRefused reason

/-- RESTART: out of order while a change stands between PREPARED and SWITCHED (R307, R315, notes/assumptions/63.md). -/
def execRestart (w : WorkRef) (s : State) : Result :=
  .next (s.progOp w 0x20 fun op s =>
    if 1 < dSubop op.bytes then s.finishCut op stBadDesc 0
    else if s.prg.stage ≠ 0 then s.finishCut op stStageOrder 0
    else (s.applyRestart (dSubop op.bytes == 1) 0).finishCut op stOk 0)

/-- The operation's CHANGE_ID is the change's. -/
def State.changeIs (s : State) (op : Op) : Bool := dInline op.bytes 0 8 == s.prg.changeId

/-- A refusal of an instar command raises event source 88 (R320). -/
def State.stageOrder (s : State) (op : Op) : State := (s.raise 88).finishCut op stStageOrder 0

/-- Why a new program is refused, after its signature (table Program outcome codes): 2 role or PAIR_ID, 3 memory, 4 a protection-relevant task
on a split pair, 5 two writers, 6 runtime version, 7 data type. -/
def State.imageFault (s : State) (img : ProgImage) (memOk runtimeOk typesOk : Bool) : Option Nat :=
  let split (k : Nat) : Bool := (s.pair k).state == 1
  let twice (i : ProgItem) : Bool := i.kind == 1 && img.items.any fun j => j.ident == i.ident && j.kind == 1 && j.writer != i.writer
  if img.role ≠ s.cfg.manager ∨ img.pairId ≠ s.pairId then some 2
  else if memOk = false then some 3
  else if img.tasks.any (fun t => t.prot && (t.home :: t.backups).any split) then some 4
  else if img.items.any twice then some 5
  else if runtimeOk = false then some 6
  else if typesOk = false then some 7
  else none

/-- INSTAR_PREPARE (R285, R315). -/
def execInstarPrepare (w : WorkRef) (img : ProgImage) (memOk runtimeOk typesOk : Bool) (s : State) : Result :=
  .next (s.progOp w 0x21 fun op s =>
    let win := dInline op.bytes 8 4
    if s.prg.stage ≠ 0 then s.stageOrder op
    else if win < 10 ∨ 86400 < win then s.finishCut op stBadDesc 0
    else match s.judgeArtefact (some 3) (s.buffer op) with
      | .refused t c => ((s.sigFail t c).raise 88).prgRefuse op (if c = 4 ∨ c = 5 then 2 else 1)
      | .good _ =>
        match s.imageFault img memOk runtimeOk typesOk with
        | some r => (s.raise 88).prgRefuse op r
        | none =>
          ({ s with prg := { s.prg with newImage := some img, stage := 1, changeId := dInline op.bytes 0 8, windowS := win,
                                        changeRing := op.ring, progress := 0 } }.raise 88).finishCut op stOk 0)

/-- INSTAR_LOAD (R316). -/
def execInstarLoad (w : WorkRef) (s : State) : Result :=
  .next (s.progOp w 0x22 fun op s =>
    if s.prg.stage = 1 ∧ s.changeIs op then
      ({ s with prg := { s.prg with stage := 2, progress := 0 } }.raise 88).finishCut op stOk 0
    else s.stageOrder op)

/-- INSTAR_BIND: the change report, cut to LENGTH (R316, R323). -/
def execInstarBind (w : WorkRef) (s : State) : Result :=
  .next (s.progOp w 0x23 fun op s =>
    match s.prg.image, s.prg.newImage with
    | some old, some new =>
      if s.prg.stage = 2 ∧ s.changeIs op then
        let es := reportEntries old.items new.items s.prg.forces
        let room := (dLength op.bytes - 48) / 16
        let s := { s with prg := { s.prg with stage := 3, progress := 0 } }.raise 88
        if dLength op.bytes < 48 then s.finishCut op stTruncated 0
        else
          let s := s.writeBuf op 0 (reportHeader s.prg.changeId old new es.length ++ (es.take room).flatten)
          s.finishCut op (if room < es.length then stTruncated else stOk) 0
      else s.stageOrder op
    | _, _ => s.stageOrder op)

/-- A task of the new program with what goes on from the old one (R308). -/
def mergeTask (now : Nat) (o n : Task) : Task :=
  if o.present && n.present then
    let kept := { n with pair := o.pair, moved := decide (o.pair ≠ n.home), running := o.running, ovrRun := o.ovrRun, ovrTotal := o.ovrTotal,
                         relNum := o.relNum, excess := o.excess, time := o.time, angle := o.angle }
    if o.per = n.per then { kept with rel := o.rel, late := o.late, skips := o.skips } else startTask now kept
  else startTask now n

/-- The running program becomes `new`: state transferred, forces checked (R321, R322). -/
def State.switchTo (s : State) (old new : ProgImage) : State :=
  let gone := s.prg.forces.filter fun f => !forceStays new.items f
  let tasks := List.zipWith (mergeTask s.tb.ang) s.prg.tasks (tasksOf new)
  let s := { s with prg := { s.prg with image := some new, tasks := tasks, items := transfer old.items new.items s.prg.items,
                                        forces := s.prg.forces.filter (forceStays new.items),
                                        drops := gone.map fun (f : Force) => (f.ident, f.element) }.overlay }
  gone.foldl (fun s f => s.forceGone f 2) s

/-- INSTAR_SWITCH: at the covered boundary; the confirm window runs in task time (R317 to R319). -/
def execInstarSwitch (w : WorkRef) (s : State) : Result :=
  .next (s.progOp w 0x24 fun op s =>
    match s.prg.image, s.prg.newImage with
    | some old, some new =>
      if s.prg.stage = 3 ∧ s.changeIs op then
        let s := s.switchTo old new
        ({ s with prg := { s.prg with stage := 4, oldImage := some old, newImage := none, switchCycle := true, timerDue := [],
                                      confirmEnd := some (s.prg.taskTime + s.prg.windowS * 1000000000) } }.raise 88).finishCut op stOk 0
      else s.stageOrder op
    | _, _ => s.stageOrder op)

/-- The change ends; a drill that waited for it runs (R320, table Fixed arbitration orders). -/
def State.endChange (s : State) : State :=
  let s := { s with prg := { s.prg with stage := 0, newImage := none, oldImage := none, confirmEnd := none, progress := 0, drops := [] } }.raise 88
  if s.wb.drillBegun ∧ s.sys.mode = .active ∧ s.holds then s.drillNow else s

/-- INSTAR_CONFIRM (R319). -/
def execInstarConfirm (w : WorkRef) (s : State) : Result :=
  .next (s.progOp w 0x25 fun op s =>
    if s.prg.stage = 4 ∧ s.changeIs op then s.endChange.finishCut op stOk 0 else s.stageOrder op)

/-- INSTAR_ABANDON: before SWITCH the new program is discarded; after it the old one comes back under the same matching, recorded as
INSTAR_REVERTED (R319). -/
def execInstarAbandon (w : WorkRef) (s : State) : Result :=
  .next (s.progOp w 0x26 fun op s =>
    if s.prg.stage = 0 ∨ !s.changeIs op then s.stageOrder op
    else if s.prg.stage ≤ 3 then s.endChange.finishCut op stOk 0
    else match s.prg.image, s.prg.oldImage with
      | some now, some old => (((s.switchTo now old).record .instarReverted [s.prg.changeId]).endChange).finishCut op stOk 0
      | _, _ => s.stageOrder op)

/-- The descriptor of an INSTAR_ABANDON of a change. -/
def abandonDesc (changeId : Nat) : List Byte := [0x26#8] ++ List.replicate 47 0 ++ leBytes 8 changeId ++ List.replicate 8 0

/-- INSTAR_CONFIRM_EXPIRY: the holder journals a revert as if it had received INSTAR_ABANDON (R319). -/
def execInstarConfirmExpiry (s : State) : Result :=
  .next (match s.prg.confirmEnd with
    | none => s
    | some e =>
      if s.prg.stage ≠ 4 ∨ !s.authoritative ∨ s.prg.taskTime < e then s
      else
        let d := abandonDesc s.prg.changeId
        let r := s.prg.changeRing
        let s := s.journalAdd (.desc r 0 d)
        let o : Op := { tag := 0, issuer := ownerIssuer (s.queue r).owner, ring := r, idx := 0, bytes := d, engine := 10, jsn := some s.wb.jsn }
        { s with hq := { s.hq with work := s.hq.work ++ [o] }, prg := { s.prg with confirmEnd := none } })

/-! Forces (R311 to R314). -/

/-- The forces become `fs`, over the values the program has; a variable that has no value yet gets one for its new force `f` (R311). -/
def PrgSt.placeForce (p : PrgSt) (fs : List Force) (f : Force) (init : Nat) : PrgSt :=
  let p := { p with forces := fs }.overlay
  if (assocGet p.items f.ident).isNone ∧ f.target = 0 then { p with items := assocSet p.items f.ident { value := forced fs 0 f.ident init } }
  else p

/-- FORCE_SET (R311, R314). -/
def execForceSet (w : WorkRef) (s : State) : Result :=
  .next (s.progOp w 0x27 fun op s =>
    let b := s.buffer op
    let id := leField b 0 8
    let el := leField b 8 2
    let same (f : Force) : Bool := f.ident == id && f.element == el && f.target == leField b 10 1
    if dLength op.bytes ≠ 64 then s.finishCut op stBadDesc 0
    else match s.progItem id with
      | none => s.finishCut op stNoItem 0
      | some i =>
        if i.target ≠ leField b 10 1 ∨ (el ≠ 0xFFFF ∧ i.elements ≤ el) then s.finishCut op stNoItem 0
        else if i.type = 0 ∨ 12 < i.type then s.prgRefuse op 7
        else if leField b 11 1 ≠ i.type then s.finishCut op stTypeMismatch 0
        else if 1024 ≤ (s.prg.forces.filter fun f => !same f).length then s.finishCut op stForceFull 0
        else
          let f : Force := { ident := id, element := el, target := i.target, type := i.type, value := leField b 16 16, setTime := s.tb.pt,
                             setStatus := s.status, setBy := (s.queue op.ring).owner }
          let s := { s with prg := s.prg.placeForce ((s.prg.forces.filter fun f => !same f) ++ [f]) f i.init }
          ((s.record .forceSet ((forceBytes f).map (·.toNat))).raise 89).finishCut op stOk 0)

/-- FORCE_REMOVE (R314). -/
def execForceRemove (w : WorkRef) (s : State) : Result :=
  .next (s.progOp w 0x28 fun op s =>
    let id := dInline op.bytes 0 8
    let el := dInline op.bytes 8 2
    let hit (f : Force) : Bool := dSubop op.bytes == 1 || (f.ident == id && f.element == el)
    let gone := s.prg.forces.filter hit
    if 1 < dSubop op.bytes then s.finishCut op stBadDesc 0
    else if dSubop op.bytes = 0 ∧ gone = [] then s.finishCut op stNoItem 0
    else
      let s := { s with prg := { s.prg with forces := s.prg.forces.filter fun f => !hit f } }
      (gone.foldl (fun s f => s.forceGone f 0) s).finishCut op stOk 0)

/-- FORCE_LIST: whole entries up to LENGTH; RESULT the number written. -/
def execForceList (w : WorkRef) (s : State) : Result :=
  .next (s.progOp w 0x29 fun op s =>
    let l := s.prg.forces.take (dLength op.bytes / 64)
    (s.writeBuf op 0 (l.map forceBytes).flatten).finishCut op stOk l.length)

end Sys2Proof.Machine
end

