-- ==== Sys2Proof/Machine/Modes.lean ====
section
/-! DEFINITION. Modes, restart, the boot monitor, the plant start and COCOON (16_modes_start_up_and_faults.md, R594 to R612;
15_security_and_field_update.md, R579 to R581). -/

namespace Sys2Proof.Machine

/-! SYS_CTRL (R598 to R600, R606). -/

/-- A configuration change may take the module out of service: its partner is absent, or in SERVICE or QUARANTINE (R600). -/
def State.mayStop (s : State) : Bool :=
  (s.sys.mode == .active || s.sys.mode == .solo || s.sys.mode == .safeHold)
    && (s.partnerAbsent || s.partnerMode == some .service || s.partnerMode == some .quarantine)

/-- A write of SYS_CTRL: a wrong KEY, a reserved CMD, or a command out of its place is dropped as WRITE_REFUSED. -/
def State.writeSysCtrl (s : State) (q : Requester) (v : Word) : State :=
  let refused := s.refuseWrite q (RegName.sysCtrl.addr 0 0)
  let leave (cold : Bool) : State :=
    if s.sys.mode = .safeHold ∧ s.safeCauseHolds = false then ({ s with sys := { s.sys with exitKind := some cold } }.refence).request
    else refused
  if bitsOf v.toNat 16 16 ≠ 0xA5C3 then refused
  else match bitsOf v.toNat 0 4 with
    | 1 => match s.sys.mode with
      | .quarantine | .service | .sync | .standby => s.restart 3
      | _ => refused
    | 2 => if s.sys.mode = .standby then s.enterService else refused
    | 3 => leave false
    | 4 => leave true
    | 5 => { s with sys := { s.sys with cold := true } }
    | 6 => { s with sys := { s.sys with cold := false } }
    | 7 =>
      if s.mayStop = false then refused
      else if s.prg.runState = 1 then { s with sys := { s.sys with stopPend := true } }
      else s.configStop
    | _ => refused

/-- A write of SYS_CTRL under the rules of its requester. -/
def State.sysCtrl (s : State) (q : Requester) (v : Word) : State :=
  match s.writeBarred q (RegName.sysCtrl.addr 0 0) with
  | some t => t
  | none => s.writeSysCtrl q v

/-- SYS_RESTART: command 1 (R599). -/
def execSysRestart (q : Requester) (v : Word) (s : State) : Result := .next (s.sysCtrl q v)

/-- SYS_ENTER_SERVICE: command 2 (R599). -/
def execSysEnterService (q : Requester) (v : Word) (s : State) : Result := .next (s.sysCtrl q v)

/-- SAFE_HOLD_EXIT_WARM: command 3 (R598). -/
def execSafeHoldExitWarm (q : Requester) (v : Word) (s : State) : Result := .next (s.sysCtrl q v)

/-- SAFE_HOLD_EXIT_COLD: command 4 (R598). -/
def execSafeHoldExitCold (q : Requester) (v : Word) (s : State) : Result := .next (s.sysCtrl q v)

/-- PLANT_START_COLD_SET: command 5 (R606). -/
def execPlantStartColdSet (q : Requester) (v : Word) (s : State) : Result := .next (s.sysCtrl q v)

/-- PLANT_START_COLD_CLEAR: command 6 (R606). -/
def execPlantStartColdClear (q : Requester) (v : Word) (s : State) : Result := .next (s.sysCtrl q v)

/-- CONFIG_STOP: command 7 (R600); running tasks stop at the next cycle boundary. -/
def execConfigStop (q : Requester) (v : Word) (s : State) : Result := .next (s.sysCtrl q v)

/-! Restart (R601, R602). -/

/-- A restart; the third boot watchdog restart in a row ends in QUARANTINE (R602). -/
def State.restartFor (s : State) (cause : Nat) : State :=
  let t := s.restart cause
  if cause = 4 ∧ 3 ≤ t.sys.wdCount then t.enterQuarantine .bootWatchdog [t.sys.wdCount] else t

/-- RESTART_RESET: a cause of the table Restart causes. -/
def execRestartReset (cause : Nat) (s : State) : Result :=
  .next (if 1 ≤ cause ∧ cause ≤ 8 then s.restartFor cause else s)

/-- BOOT_WATCHDOG: no stage verified within 10 s of the previous one; a monitor that found no slot stays where it is (R580, R602). -/
def execBootWatchdog (s : State) : Result :=
  .next (if s.sys.mode = .boot ∧ s.sys.bootStage < 3 ∧ s.sys.bootStop = false ∧ s.sys.stageAt + usTicks 10000000 ≤ s.tb.csr then s.restartFor 4 else s)

/-- PD0 comes up from no supply and no backup: nothing of it is kept but what lies in fuses and in the NAND store (R102, R124, R148). -/
def State.powerOn (s : State) : State :=
  let t := s.afterRestart 1
  { t with sys := { t.sys with mode := .inserted, prevMode := .inserted, domains := 1, wdCount := 0, faultFlash := false },
           pwr := { seated := s.pwr.seated, hotSwap := s.pwr.hotSwap, feedAOk := s.pwr.feedAOk, feedBOk := s.pwr.feedBOk,
                    feedA := s.pwr.feedA, feedB := s.pwr.feedB, partnerPresent := s.pwr.partnerPresent, ejectReq := s.pwr.ejectReq },
           tb := {}, rtc := { lostPend := some false }, core := {}, slk := {}, regs := [] }

/-- POWER_ON_RESET: OSF is set, plant time UNSET, the angle clock in SYNTH at 50 Hz; RTC_LOST is recorded once the recorder has its domain
(R148). -/
def execPowerOnReset (s : State) : Result := .next s.powerOn

/-! The boot monitor (R579, R580). -/

/-- Boot slot i. -/
def State.boot (s : State) (i : Nat) : BootSlot := s.nvs.slots.getD i {}

/-- The slot in a state. -/
def State.slotWith (s : State) (st : SlotState) : Option Nat := (List.range 3).find? fun i => (s.boot i).state == st

/-- The monitor verifies slot i; one that fails, also by an SVN below the floor, enters INVALID (R579, R580). -/
def State.verifySlot (s : State) (i : Nat) (ok : Bool) : State × Bool :=
  let below := decide ((s.boot i).svn < s.sec.svnFloor)
  let t := if ok && below then s.record .rollbackRefused [i, (s.boot i).svn] else s
  if ok && !below then (t, true) else ((t.setBoot i fun b => { b with state := .invalid }).record .bootStageFail [i], false)

/-- The monitor runs slot i: the measurement chain starts with M0 (R578, R580); the factory image is recorded (R581). -/
def State.runSlot (s : State) (i : Nat) : State :=
  let b := s.boot i
  let factory := b.state == .factory
  let t := { s with sec := { s.sec with picked := true, bootSlot := i, factoryBoot := factory, meas := List.replicate 64 0 },
                    upd := { s.upd with trial := b.state == .trial, confirmFrom := none } }
  if factory then t.record .bootFactory else t

/-- The candidates after a trial, in order: a CHRYSALIS that boots becomes IMAGO; without any the module stays in BOOT (R580). -/
def State.bootFrom (ok : Nat → Bool) : List SlotState → State → State
  | [], s => { s with sys := { s.sys with bootStop := true }, sec := { s.sec with bootFail := true } }
  | st :: l, s =>
    match s.slotWith st with
    | none => State.bootFrom ok l s
    | some i =>
      match s.verifySlot i (ok i) with
      | (t, true) => (if st = .chrysalis then t.setBoot i fun b => { b with state := .imago } else t).runSlot i
      | (t, false) => State.bootFrom ok l t

/-- The only attempt of a trial failed, or it was restarted before confirmation: its slot is emptied, and the module falls back (R580). -/
def State.fallBack (s : State) (t : Nat) (ok : Nat → Bool) : State :=
  let s := s.setBoot t fun b => if b.state = .invalid then b else {}
  let s := { s with upd := { s.upd with fellBack := true, trial := false, confirmFrom := none, fallbackPending := false } }.record .updFallback [t]
  State.bootFrom ok [.imago, .chrysalis, .factory] s

/-- The monitor's choice (R580). -/
def State.bootMonitor (s : State) (ok : Nat → Bool) : State :=
  match s.slotWith .trial with
  | none => State.bootFrom ok [.imago, .chrysalis, .factory] s
  | some t =>
    if (s.boot t).attempted then s.fallBack t ok
    else match (s.setBoot t fun b => { b with attempted := true }).verifySlot t (ok t) with
      | (u, true) => u.runSlot t
      | (u, false) => u.fallBack t ok

/-- BOOT_START: the verifications of slots 0 to 2 as the monitor would find them (R580); where it finds none an extraction asked for ends the
boot (R94). -/
def execBootStart (ok0 ok1 ok2 : Bool) (s : State) : Result :=
  .next (if s.sys.mode = .boot ∧ s.sec.picked = false ∧ s.sys.bootStop = false then
    let t := s.bootMonitor fun i => if i = 0 then ok0 else if i = 1 then ok1 else ok2
    if t.sys.bootStop ∧ t.pwr.ejectReq then t.actExtraction else t
  else s)

/-! The plant start. -/

/-- PEER_WAIT_EXPIRY: no HEARTBEAT within PEER_WAIT_S: the starter alone (R604). -/
def execPeerWaitExpiry (s : State) : Result :=
  .next (if s.sys.mode = .boot ∧ 3 ≤ s.sys.bootStage ∧ s.sys.bootStop = false ∧ s.wb.partner.heard = false ∧ s.sys.starting = false
      ∧ s.sys.stageAt + usTicks (s.fld .sysStart 16 10 * 1000000) ≤ s.tb.csr then
    s.becomeStarter else s)

/-! COCOON (R607 to R611). -/

/-- MODE_REFUSED. -/
def stModeRefused : Nat := 0xE00

/-- The reason to refuse COCOON_ENTER (R607). -/
def State.cocoonRefusal (s : State) : Option Nat :=
  let restI := fratio (Int.ofNat (s.fld .estRest 0 16)) 10
  if s.cfg.manager then some 1
  else if s.prot.set.isNone then some 2
  else if s.prg.stage ≠ 0 ∨ s.upd.work.isSome ∨ s.upd.scheduled.isSome ∨ s.upd.trial ∨ s.wb.drill ≠ .idle then some 3
  else if s.est.lastQ.any fun (e : Nat × F32) => flt restI (fabs e.2) then some 4
  else if s.partnerMode = some .sync ∨ s.partnerMode = some .update then some 5
  else none

/-- COCOON_ENTER: at its boundary the holder sends the plan and waits for the acknowledgements (R607, R608); the follower enters on the
holder's HEARTBEAT. -/
def execCocoonEnter (w : WorkRef) (s : State) : Result :=
  .next (s.progOp w 0x40 fun op s =>
    if op.started then s
    else if !s.holds then s.finishCut op stOk 0
    else if s.sys.mode ≠ .active ∧ s.sys.mode ≠ .solo then s
    else match s.cocoonRefusal with
      | some r => s.finishCut op stModeRefused r
      | none =>
        let s := s.setOp w fun o => { o with started := true }
        ({ s with sys := { s.sys with cocoonEntering := true, cocoonReq := false, cocoonAt := s.tb.csr } }.cocoonPlan).cocoonAcked)

/-- COCOON_PLAN_TIMEOUT: 60 s without every acknowledgement (R608). -/
def execCocoonPlanTimeout (s : State) : Result :=
  .next (if s.sys.cocoonEntering ∧ s.sys.cocoonAt + usTicks 60000000 ≤ s.tb.csr then s.cocoonGo else s)

/-- COCOON_RESUME: the runtime's digest matches, and the former holder asks for the lease; or a restart with cause 8 (R611). -/
def execCocoonResume (digestOk : Bool) (s : State) : Result :=
  .next (if s.sys.mode ≠ .cocoon ∨ s.sys.cocoonWoke = false then s
    else if !digestOk then s.restart 8
    else if s.sys.formerHolder then ({ s with sys := { s.sys with starting := true } }.refence).request
    else s)

/-- COCOON_REQUEST_TIMEOUT: 2 s after its wake the partner asks in the former holder's place (R611). -/
def execCocoonRequestTimeout (s : State) : Result :=
  .next (if s.sys.mode = .cocoon ∧ s.sys.cocoonWoke ∧ s.sys.formerHolder = false ∧ s.partnerHolds = false
      ∧ s.sys.cocoonAt + usTicks 2000000 ≤ s.tb.csr then
    ({ s with sys := { s.sys with starting := true } }.refence).request
  else s)

/-! Faults. -/

/-- MODULE_OVERTEMP: inlet air in 0.1 °C above the 70 °C of either variant for 60 s: recorded, event source 123, and R55 (R612). -/
def execModuleOvertemp (inlet : Int) (s : State) : Result :=
  let s := { s with sys := { s.sys with tempInlet := inlet } }
  .next (if inlet ≤ 700 then s
    else
      let s := (s.record .moduleOvertemp [unsignedOf 16 inlet]).raise 123
      if s.sys.mode = .active ∧ s.partnerStandby ∧ s.partnerWhole ∧ s.wb.ho = .idle then { s with wb := { s.wb with ho := .planned } } else s)

/-- FAULT_FLASH_END: ten minutes after the last record of SEV fault or critical (R67). -/
def execFaultFlashEnd (s : State) : Result :=
  .next (if s.sys.faultAt + usTicks 600000000 ≤ s.tb.csr then { s with sys := { s.sys with faultFlash := false } } else s)

end Sys2Proof.Machine
end

