-- ==== Sys2Proof/Machine/RegisterRead.lean ====
section
/-! DEFINITION. What every register reads as, from the field tables of every chapter, and the latches of values wider than a word
(17_register_map.md, R17, R117, R118, R142, R145, R615 to R618, R627). -/

namespace Sys2Proof.Machine

/-- A word of one-bit fields: each flag with its bit. -/
def flagWord (l : List (Bool × Nat)) : Nat := l.foldl (fun n (p : Bool × Nat) => n + ofBool p.1 * 2 ^ p.2) 0

/-- Word k of a value wider than a word. -/
def wordOf (n k : Nat) : Nat := n / 2 ^ (32 * k) % 2 ^ 32

/-- Word k of a value held as bytes. -/
def byteWord (l : List Byte) (k : Nat) : Nat := leField l (4 * k) 4

/-- SYS. -/
def State.sysWord (s : State) (r : RegName) (i : Nat) (held : Nat) : Nat :=
  match r with
  | .sysId => 0x0480 + 2 ^ 16 * s.sys.variant + 2 ^ 24 * s.sys.siliconRev
  | .sysHw => s.sys.boardRev % 256 + 256 * (s.sys.bomRev % 256) + 2 ^ 16
  | .sysRole => flagWord [(s.sys.role, 0), (s.sys.configured, 1), (!s.sec.owner.isEmpty, 2)]
  | .sysPciId => s.sys.pciVendor % 2 ^ 16 + 2 ^ 16 * 0x0480
  | .sysMode => s.sys.mode.code + 16 * s.sys.prevMode.code + 256 * s.sys.modeCause + 2 ^ 16 * s.sys.domains
  | .sysUnitHealth => s.sys.unitHealth
  | .sysResetCause => s.sys.resetCause + 16 * s.sys.wdCount
  | .sysStart => held + flagWord [(s.sys.cold, 0), (s.sys.starter, 1)]
  | .sysCocoon => held + flagWord [(s.sys.inCocoon, 2), (s.sys.formerHolder, 3)]
  | .sysTemp => unsignedOf 16 s.sys.tempInlet + 2 ^ 16 * unsignedOf 16 s.sys.tempBoard
  | .dramCe => s.sys.dramCe
  | .dramUe => s.sys.dramUe % 2 ^ 16
  | .dramPatrol => s.sys.dramPatrol % 2 ^ 16
  | .dramUeAddr => wordOf s.sys.dramUeAddr i
  | _ => held

/-- PWR; the module's power is a measurement, a free value. -/
def State.pwrWord (s : State) (r : RegName) (held : Nat) : Nat :=
  match r with
  | .pwrStatus => flagWord [(s.pwr.feedAOk, 0), (s.pwr.feedBOk, 1), (s.pwr.holdupOk, 2), (s.pwr.charging, 3), (s.pwr.rideThrough, 4),
      (s.pwr.slotB, 5), (s.pwr.strapFault, 6), (s.pwr.partnerPresent, 7), (s.pwr.ejectReq, 8), (s.pwr.pullOk, 9)]
      + 2 ^ 16 * (s.pwr.carrierId % 256)
  | .pwrHoldup => s.pwr.bankVolt % 2 ^ 12 + 2 ^ 12 * (s.pwr.bankCap % 2 ^ 12) + 2 ^ 24 * bankEnergy s.pwr.bankVolt s.pwr.bankCap
  | .pwrFeeds => s.pwr.feedA % 2 ^ 12 + 2 ^ 16 * (s.pwr.feedB % 2 ^ 12)
  | .pwrDraw => Config.free s.freeCtr % 2 ^ 12
  | _ => held

/-- The mapping that TB_MAP_SEL selects; a cycle that is not kept reads 0 (R120). -/
def State.mapSelected (s : State) : Anchor :=
  let n := s.fld .mapSel 0 16
  if n = 0 then s.tb.anchor else s.tb.mapHist.getD (n - 1) {}

/-- TB. -/
def State.tbWord (s : State) (r : RegName) (i : Nat) (held : Nat) : Nat :=
  let m := s.mapSelected
  match r with
  | .angStatus => s.status
  | .angNowLo => wordOf s.tb.ang 0
  | .angNowHi => wordOf s.tb.ang 1
  | .angFreq => s.tb.freq % 2 ^ 20
  | .mapWord => [wordOf m.ang 0, wordOf m.ang 1, m.pt.ns, wordOf m.pt.sec 0, wordOf m.pt.sec 1, wordOf m.period 0, wordOf m.period 1].getD i 0
  | .ptStatus => s.tb.ptState.code + 256 * s.tb.master + 2 ^ 16 * s.tb.annTimeouts
  | .ptNowNs => s.tb.pt.ns
  | .ptNowSec => wordOf s.tb.pt.sec i
  | .ptAdj => unsignedOf 16 s.tb.ptAdj
  | .ptOffset => unsignedOf 32 s.tb.ptOffset
  | .almCtrl =>
    let a := s.tb.alarms.getD i {}
    flagWord [(a.armed, 0), (a.ptBase, 1), (a.periodic, 2), (a.fired, 3), (a.skipped, 4), (a.late, 5)] + 2 ^ 16 * a.skipCount
  | .almDueX => if (s.tb.alarms.getD i {}).ptBase then held else 0
  | _ => held

/-- Days and seconds as a calendar: `n` seconds since 2000-01-01 00:00:00, by years and then months. -/
def calYears : Nat → Nat → Nat → Nat × Nat
  | 0, y, d => (y, d)
  | k + 1, y, d =>
    let n := if leapYear y then 366 else 365
    if d < n then (y, d) else calYears k (y + 1) (d - n)

/-- Month and day from a day of the year. -/
def calMonths (y : Nat) : Nat → Nat → Nat → Nat × Nat
  | 0, m, d => (m, d)
  | k + 1, m, d => if d < monthDays y m then (m, d) else calMonths y k (m + 1) (d - monthDays y m)

/-- The calendar of a count of seconds since 2000-01-01 00:00:00. -/
def calOfSecs (n : Nat) : Cal :=
  let (y, d) := calYears 200 0 (n / 86400)
  let (m, dd) := calMonths y 11 1 d
  { year := y, month := m, day := dd + 1, hour := n % 86400 / 3600, min := n % 3600 / 60, sec := n % 60 }

/-- Local time: UTC plus RTC_UTC_OFFSET minutes (R145). -/
def State.localCal (s : State) : Cal :=
  calOfSecs (Int.ofNat s.rtc.cal.secs + 60 * signedOf 32 (s.reg .rtcUtcOffset).toNat).toNat

/-- RTC. -/
def State.rtcWord (s : State) (r : RegName) (held : Nat) : Nat :=
  match r with
  | .rtcStatus => flagWord [(s.rtc.osf, 0), (s.rtc.rangeEnd, 1), (s.rtc.onBackupSeen, 2), (s.rtc.backupWeak, 3)] + 2 ^ 16 * s.rtc.backupVolt
  | .calTime => s.rtc.cal.timeWord
  | .calDate => s.rtc.cal.dateWord
  | .locTime => s.localCal.timeWord
  | .locDate => s.localCal.dateWord
  | .rtcTrim => held + s.rtc.trim
  | .rtcTemp => s.rtc.temp
  | _ => held

/-- HQ_n_CTRL. -/
def hqCtrlWord (q : Queue) : Nat :=
  flagWord [(q.enable, 0), (q.kind, 3), (q.durable, 4), (q.auth, 5), (q.legacyPop, 6), (q.poll, 7)] + 2 ^ 8 * q.owner + 2 ^ 12 * q.sqLog2
    + 2 ^ 16 * q.cqLog2 + 2 ^ 20 * q.engine

/-- HQ; HQ_n_PORT reads by its own rules (R185). -/
def State.hqWord (s : State) (r : RegName) (i : Nat) (held : Nat) : Nat :=
  let q := s.queue i
  match r with
  | .hqCtrl => held + 256 * s.hq.lastServed
  | .hqFault => s.hq.faultQueue + 256 * s.hq.faultPtr
  | .hqNCtrl => hqCtrlWord q
  | .hqNStatus => flagWord [(q.enable && !q.ringErr, 0), (q.readable.isEmpty && q.packets.isEmpty, 1), (q.underrun, 2), (q.busy, 3),
      (q.ptrReset, 4), (q.stale, 5), (q.evt, 6), (q.ringErr, 7)] + 2 ^ 15 * s.credit i
  | .hqNGen => q.gen.toNat
  | .hqNTiming => q.coalesce + 256 * q.staleUs
  | _ => held

/-- EVT. -/
def State.evtWord (s : State) (r : RegName) (i j : Nat) (held : Nat) : Nat :=
  match r with
  | .evtPend => wordOf s.evt.pend.toNat i
  | .evtSoft => bitsOf s.evt.pend.toNat 124 4
  | .evtNextCore => s.nextCoreSource i j
  | .evtNextHost => s.nextHostSource i
  | _ => held

/-- Local lease time remaining in µs (WB_LEASE_STATUS.REMAIN_US). -/
def State.remainUs (s : State) : Nat :=
  match s.wb.lease with
  | .held => satAt 65535 ((s.wb.expiry - s.tb.csr) / 100)
  | .consent => satAt 65535 ((s.wb.consentEnd.getD 0 - s.tb.csr) / 100)
  | _ => 0

/-- WB. -/
def State.wbWord (s : State) (r : RegName) (i : Nat) (held : Nat) : Nat :=
  match r with
  | .wbLeaseStatus => s.wb.lease.code + flagWord [(s.wb.holderB, 3), (s.wb.holderValid, 4), (s.wb.fenced, 5), (s.wb.refReach, 6),
      (s.wb.partner.hb.refReach, 7)] + 256 * satAt 255 s.wb.missedHb + 2 ^ 16 * s.remainUs
  | .wbLeaseGen => s.wb.gen
  | .wbJsn => wordOf s.wb.jsn i
  | .wbJsnAck => wordOf s.wb.jsnAck i
  | .wbCycle => wordOf s.wb.cycle i
  | .wbFollow => s.wb.followLast % 2 ^ 16 + 2 ^ 16 * (s.wb.followMax % 2 ^ 16)
  | .wbShadow => s.wb.shadowCount % 2 ^ 16 + 2 ^ 16 * (s.wb.shadowLast % 2 ^ 16)
  | .wbDrillLast => s.wb.drillResult % 4 + 2 ^ 16 * (s.wb.drillTime % 2 ^ 16)
  | .wbResync => s.wb.resyncStep + 2 ^ 16 * s.wb.resyncProg
  | .wbRefStats => s.wb.refGrants % 2 ^ 16 + 2 ^ 16 * (s.wb.refDenies % 2 ^ 16)
  | .wbLaneStatus => flagWord [(s.wb.lane0, 0), (s.wb.lane1, 1)] + 256 * s.wb.proto
  | _ => held

/-- CORE/MPU: index 2k + 1 of a lockstep pair reads 0 (table MPU instances). -/
def State.coreWord (s : State) (r : RegName) (i : Nat) (held : Nat) : Nat :=
  let p := s.pair i
  let m := s.core.mpus.getD i {}
  match r with
  | .coreCfg => if i = 0 then 0 else held
  | .coreStatus => p.state + 4 * ofBool p.selftest + 16 * s.recentMismatches i + 256 * p.lastCause + 2 ^ 16 * p.eccCe
  | .coreMismatchPc => wordOf p.pc 0
  | .coreMismatchPcHi => wordOf p.pc 1
  | .mpuStatus => if s.mpuAbsent i then 0
      else flagWord [(m.syncPend, 0), (m.drain, 1), (m.syncErr, 2)] + 8 * m.errRegion + 2 ^ 16 * m.faultCount
  | .mpuFaultAddrLo => if s.mpuAbsent i then 0 else wordOf m.faultAddr 0
  | .mpuFaultInfo => if s.mpuAbsent i then 0 else wordOf m.faultAddr 1 % 2 ^ 16 + 2 ^ 16 * m.faultPriv + 2 ^ 18 * m.faultKind
  | .mpuBaseLo | .mpuBaseHi | .mpuAttr => if s.mpuAbsent i then 0 else held
  | _ => held

/-- PRG. -/
def State.prgWord (s : State) (r : RegName) (i j : Nat) (held : Nat) : Nat :=
  let t := s.prg.tasks.getD i {}
  match r with
  | .prgId => (s.prg.image.map fun (p : ProgImage) => leField p.digest 0 4).getD 0
  | .prgStatus => (if s.prg.restartKind.isSome ∧ s.prg.runState = 1 then 3 else s.prg.runState) + 8 * ofBool (!s.prg.forces.isEmpty)
      + 16 * s.prg.stage + 256 * ofBool s.prg.lastCold + 2 ^ 16 * s.prg.forces.length
  | .prgRefuse => s.prg.refuse % 16
  | .prgMainCfg => (s.prg.image.map fun (p : ProgImage) => p.minCycleUs % 2 ^ 20 + 2 ^ 20 * (p.ovrLimit % 256)).getD (10000 + 2 ^ 20 * 3)
  | .prgMainWatch => (s.prg.image.map fun (p : ProgImage) => p.watchUs % 2 ^ 24).getD 0
  | .prgMainMaxc => (s.prg.image.map fun (p : ProgImage) => p.maxCycleUs % 2 ^ 24).getD 0
  | .prgScanCfg => s.cfg.scanTmoUs % 2 ^ 14 + 2 ^ 16 * (s.cfg.staleLimit % 256)
  | .prgCycle => wordOf s.prg.cycle i
  | .prgCycleLast => s.prg.cycleLast % 2 ^ 24
  | .prgCycleMax => s.prg.cycleMax % 2 ^ 24
  | .prgInstar => s.prg.progress % 2 ^ 10
  | .prgConfirmLeft => match s.prg.confirmEnd with
    | some e => satAt 131071 ((e - s.tb.csr + 99999999) / 100000000)
    | none => 0
  | .prgTaskTime => wordOf s.prg.taskTime i
  | .prgTaskCfg => flagWord [(t.present, 0), (t.prot, 1)] + 4 * (t.priority % 16) + 2 ^ 6 * (t.home % 4) + 2 ^ 8 * (t.backups.getD 0 0 % 4)
      + 2 ^ 10 * (t.backups.getD 1 0 % 4) + 2 ^ 12 * (t.backups.getD 2 0 % 4) + 2 ^ 14 * (t.ovrLimit % 256)
  | .prgTaskStatus => t.pair % 4 + flagWord [(t.moved, 2), (t.running, 3)] + 256 * satAt 255 t.ovrRun + 2 ^ 16 * satAt 65535 t.ovrTotal
  | .prgTaskWord => [wordOf t.rel 0, wordOf t.rel 1, wordOf t.per 0, wordOf t.per 1 % 2 ^ 16, wordOf t.relNum 0, wordOf t.relNum 1].getD j 0
  | _ => held

/-- LOOP. -/
def State.loopWord (s : State) (r : RegName) (i : Nat) (held : Nat) : Nat :=
  let g := s.loop.groups.getD i {}
  let o := s.loop.stages.getD i {}
  match r with
  | .loopStatus => s.loopLoad % 2 ^ 16 + 2 ^ 16 * (s.loop.lastRefuse % 16) + 2 ^ 31 * ofBool s.loopOn
  | .loopBundle => s.loop.window % 2 ^ 16 + 2 ^ 16 * (s.loop.followMax % 2 ^ 16)
  | .loopSlotStatus => slotStatus (s.loop.slots.getD i {})
  | .loopSlotOut => (s.loop.slots.getD i {}).uSlot.toNat
  | .loopGrpStatus => flagWord [(g.configured, 0), (g.conflict, 1), (g.none_, 2)] + 2 ^ 16 * (g.selected % 2 ^ 9)
  | .loopOutStatus => flagWord [(o.active, 0), (o.extSat, 1), (o.clamped, 4), (o.fric, 5), (o.safeOut, 6)] + 4 * (o.extCause % 4)
  | .loopOutValue => o.value.toNat
  | _ => held

/-- Positions that end A, and end B, reach on ring p: the end drives, the ring is started and no break lies between (R384). -/
def State.reachBits (s : State) (p pos : Nat) : Bool × Bool :=
  let r := s.ring p
  let own := s.drivesEnd p && started r
  let other := r.partnerEnd && started r
  let a := decide (pos ≤ lastFromA (s.ringN p) r.break1 r.break2)
  let b := decide (firstFromB r.break1 r.break2 ≤ pos)
  if s.pwr.slotB then (other && a, own && b) else (own && a, other && b)

/-- SLK_NODE_p_n_STATUS. -/
def State.nodeStatus (s : State) (p pos : Nat) : Nat :=
  let n := s.node p pos
  let (a, b) := s.reachBits p pos
  let cmpf := match n.prev with
    | some x => x.cmpf != 0
    | none => false
  n.openTap % 2 ^ 19 + flagWord [(!n.suspects.isEmpty, 19), (n.idMismatch, 22), (a && n.presence == 1, 23), (b && n.presence == 1, 24),
    (n.alarmPend || cmpf, 25)] + 2 ^ 20 * n.presence + 2 ^ 26 * satAt 63 (n.missHist.filter id).length

/-- SLK; RUN's rings read 0 on a manager (R361). -/
def State.slkWord (s : State) (r : RegName) (i j : Nat) (held : Nat) : Nat :=
  let x := s.ring i
  match r with
  | .slkCtrl => if s.cfg.manager then (setField (BitVec.ofNat 32 held) 4 4 0).toNat else held
  | .slkStatus => flagWord [(s.powered 6, 0), (s.sys.mode == .cocoon && s.sys.formerHolder && s.bit .slkCtrl 0, 1)]
  | .slkEpoch => s.slk.epoch % 2 ^ 32
  | .slkStrobe => wordOf s.slk.strobeAng i
  | .slkCkCause => s.slk.ckCause % 256
  | .slkPortCtrl => held + 2 ^ 16 * s.ringN i
  | .slkPortStatus => x.rstate + flagWord [(x.carrier, 3), (x.breakSeen, 4), (x.missingSeen, 5), (x.alarmSeen, 6), (x.sweepLag, 7)]
      + 256 * (x.enumReason % 256) + 2 ^ 16 * (x.sweepUs % 2 ^ 16)
  | .slkPortBreak => x.break1 % 256 + 256 * (x.break2 % 256)
  | .slkPortErr => x.crcErr % 2 ^ 16 + 2 ^ 16 * (x.rereads % 2 ^ 16)
  | .slkPortAlarm => x.alarmPos % 256 + 256 * (x.alarmCause % 256) + 2 ^ 16 * (x.alarmCount % 2 ^ 16)
  | .slkPortMissed => x.missedN % 256 + 256 * (x.lostN % 256)
  | .slkNodeStatus => s.nodeStatus i (j + 1)
  | _ => held

/-- EST; RUN reads 0 on a manager (R404). -/
def State.estWord (s : State) (r : RegName) (i j : Nat) (held : Nat) : Nat :=
  match r with
  | .estCtrl => if s.cfg.manager then (setField (BitVec.ofNat 32 held) 0 1 0).toNat else held
  | .estStatus => flagWord ([(s.arrayOn, 0), (s.est.lag, 5), (s.est.modelOk, 6)]
      ++ (List.range 4).map fun g => (s.powered 4 && s.unitUp (8 + g), 1 + g)) + 2 ^ 16 * satAt 65535 s.est.arrayUs
  | .estEpoch => s.est.epoch % 2 ^ 32
  | .estParamEpoch => s.est.paramEpoch % 2 ^ 32
  | .estCells => s.est.cells.length % 2 ^ 14
  | .estQty => ((s.est.quantities.getD i []).getD j 0).toNat
  | _ => held

/-- Nodes yet to acknowledge block 1 (PROT_NODES_LEFT, R466). -/
def State.nodesLeft (s : State) : Nat :=
  s.slk.rings.foldl (fun n (r : Ring) => n + (r.nodes.filter fun (x : Node) => x.presence == 1 && !x.block1Ok).length) 0

/-- PROT. -/
def State.protWord (s : State) (r : RegName) (i : Nat) (held : Nat) : Nat :=
  let g := s.trip i
  let t := s.prot.strings.getD i {}
  match r with
  | .protStatus => flagWord [(s.prot.set.isSome, 0), (s.prot.staged.isSome, 1), (s.block1Pending, 2), (s.inhibit true, 3), (s.inhibit false, 4),
      (s.tripBits != 0, 5), (s.prot.strings.any fun (x : ProtStr) => strBits x 2 != 0 || x.missLimit, 6),
      ((s.prot.strings.any fun (x : ProtStr) => strBits x 1 != 0) || s.prot.ringWarn != 0
        || (List.range s.cfg.strings.length).any s.strOpenTap, 7)]
      + 256 * s.tripBits + 2 ^ 16 * satAt 65535 s.prot.trips
  | .protSetSeq => (s.prot.set.map fun (x : ProtSet) => x.setSeq).getD 0
  | .protDigest => byteWord s.prot.setDigest i
  | .protStagedSeq => (s.prot.staged.map fun (x : ProtSet) => x.setSeq).getD 0
  | .protLast => s.prot.lastCause % 256 + 256 * (s.prot.lastPos % 256) + 2 ^ 16 * (s.prot.lastRing % 4) + 2 ^ 18 * (s.prot.lastSev % 4)
  | .protNodesLeft => s.nodesLeft % 2 ^ 9
  | .protGrp => flagWord [(g.en, 0), (g.tripped, 1), (s.resetOk i, 2), (g.rearmWait, 3), (g.confirmed, 4), (g.backupFired, 5), (g.test, 6)]
      + 256 * (g.firstCause % 256) + 2 ^ 16 * (g.firstPos % 256) + 2 ^ 24 * (g.firstRing % 4)
  | .protStr => strBits t 1 + 256 * strBits t 2 + 2 ^ 16 * (t.trip % 64) + flagWord [(t.missLimit, 22), (t.missTrip, 23), (s.strOpenTap i, 24),
      (strInhibit t true, 25), (strInhibit t false, 26)]
  | _ => held

/-- DSP. -/
def State.dspWord (s : State) (r : RegName) (i : Nat) (held : Nat) : Nat :=
  let d := s.dsp
  match r with
  | .dspStatus => flagWord [(s.cfg.manager, 0), (d.fresh && !s.setpointStale, 1), (d.fallback, 2), (d.cycleAhead, 3), ((d.ffr &&& 0x7FFFFFFF) != 0, 4)] + 256 * satAt 255 d.workers
      + 2 ^ 16 * satAt 65535 d.missed
  | .dspPSet => d.pSet.toNat
  | .dspSpEpoch => wordOf d.spEpoch i
  | .dspFfrMw => d.ffr.toNat
  | .dspMgr => ([d.capDis, d.capCh, d.eDis, d.eCh, d.alloc, d.shortfall].getD i 0).toNat
  | .dspShare => ((assocGet d.shares i).getD 0).toNat
  | _ => held

/-- DIO. -/
def State.dioWord (s : State) (r : RegName) (i : Nat) (held : Nat) : Nat :=
  let d := s.doCh i
  match r with
  | .dioDiState => s.diBits + 2 ^ 16 * flagWord ((numbered 0 s.dio.dis).map fun (p : Nat × DiSt) => (p.2.raw, p.1))
  | .dioFsStatus => flagWord [(s.dio.fsS, 0), (s.dio.fsP, 1)] + 2 ^ 8 * (s.dio.voltS % 2 ^ 12) + 2 ^ 20 * (s.dio.voltP % 2 ^ 12)
  | .dioDiCfg => held + 2 ^ 10 * ofBool (bitOf s.cfg.diPairWired i)
  | .dioDoCfg => held + ofBool (s.parMode i)
  | .dioDoStatus => flagWord [(d.cmd, 0), (d.readback, 1), (d.extDrive, 2), (d.mismatch, 3), (d.short, 4), (d.latched, 5), (d.darkFail, 6),
      (d.noSupply, 7), (s.heldTrip i, 8)] + 2 ^ 16 * satAt 65535 d.retries
  | _ => held

/-- AIO. -/
def State.aioWord (s : State) (r : RegName) (i : Nat) (held : Nat) : Nat :=
  let a := s.aio.ais.getD i {}
  let o := s.aoCh i
  let c := s.aoCfg i
  match r with
  | .aioCal => ofBool s.aio.calEn + 2 * (s.aio.point % 8) + 16 * ofBool s.aio.dirty
  | .aiCfg => held + flagWord [(bitOf s.cfg.aiHart i, 0), (bitOf s.cfg.aiPairWired i, 1)]
  | .aiValue => a.value.toNat
  | .aiStatus => a.quality + flagWord [(s.hartLoad i, 3), (a.diverge, 4), (a.overloadSeen, 5)] + 2 ^ 16 * satAt 65535 a.current
  | .aoCfg => held + flagWord [(c.srcLoop, 0), (c.shared, 1), (c.failHigh, 2), (c.clampNe43, 3), (c.hartMode, 4)]
  | .aoStatus => s.aoStatus i + 256 * satAt 255 o.headroom
  | .aoReadback => (s.aoReadback i).toNat
  | .aoTrim => unsignedOf 16 o.zero + 2 ^ 16 * unsignedOf 16 o.span
  | .aoLoopRes => o.loopRes.toNat
  | .gsStatus => s.aio.ovr % 8
  | .gsRms => s.aio.rms.getD i 0 % 2 ^ 24
  | _ => held

/-- CAN. -/
def State.canWord (s : State) (r : RegName) (i : Nat) (held : Nat) : Nat :=
  let p := s.canPort i
  match r with
  | .canCounter => s.can.counter
  | .canTsMap => s.mapSelected.canCnt
  | .canCtrl => (setField (BitVec.ofNat 32 held) 3 1 (ofBool p.sleep)).toNat
  | .canStatus => s.canTxState i + flagWord [(p.errPassive, 2), (p.busOffSeen, 3), (p.wakeSeen, 4), (p.rxOverrun, 5)] + 256 * satAt 255 p.tec
      + 2 ^ 16 * satAt 255 p.recErr
  | .canRxErr => p.remotes % 2 ^ 16 + 2 ^ 16 * (p.overruns % 2 ^ 16)
  | _ => held

/-- NET. -/
def State.netWord (s : State) (r : RegName) (i : Nat) (held : Nat) : Nat :=
  let p := s.net.ports.getD i {}
  match r with
  | .netPtpDiscard => s.net.ptpDiscard % 2 ^ 32
  | .netReplyDiscard => s.net.replyDiscard % 2 ^ 32
  | .netSessions => s.net.sessions % 16
  | .netPortStatus => flagWord [(p.link, 0), (p.tenGig, 1), (p.modPresent, 2), (p.modPresent && !p.modRefused, 3), (p.modRefused, 4),
      (p.downSeen, 5)] + 2 ^ 16 * (p.rxErr % 2 ^ 16)
  | .netPortPrp => p.wrongLan % 2 ^ 16 + 2 ^ 16 * (p.dups % 2 ^ 16)
  | .netPortGate => s.gateEntry i % 64 + 256 * ofBool p.newGate.isSome
  | _ => held

/-- Pages of partition p that are written. -/
def State.partUsed (s : State) (p : Nat) : Nat := (s.nvs.pages.filter fun (g : (Nat × Nat) × Page) => g.1.1 == p && g.2.t != 0).length

/-- The scrubber runs in idle cycles (NVS_STATUS.SCRUBBING). -/
def State.scrubs (s : State) : Bool := s.nvs.scrubbing && s.bit .nvsCtrl 0

/-- NVS; how far a lap has come is a free value (notes/assumptions/75.md). -/
def State.nvsWord (s : State) (r : RegName) (i : Nat) (held : Nat) : Nat :=
  match r with
  | .nvsStatus => flagWord [(s.nvs.ready, 0), (s.scrubs, 1), (s.nvs.fixHigh, 2), (s.nvs.uncorrSeen, 3), (s.nvs.scrubSlow, 4)]
      + 256 * (if s.scrubs then Config.scrubProg s.nvs.scrubLap s.tb.csr % 1001 else s.nvs.scrubProg % 2 ^ 10)
  | .nvsScrubLap => s.nvs.scrubLap
  | .nvsFixPages => s.fixPages % 2 ^ 24
  | .nvsUncorrPages => (s.nvs.pages.filter fun (g : (Nat × Nat) × Page) => g.2.uncorr).length % 2 ^ 24
  | .nvsPartUsed => s.partUsed i
  | .nvsBootState => (s.nvs.slots.getD i {}).state.code
  | _ => held

/-- A clear's removal is under way (LOG_STATUS.CLEARING). -/
def State.clearing (s : State) : Bool :=
  (s.hq.ops ++ s.hq.work).any fun (o : Op) => o.engine == 7 && dOpcode o.bytes == 0x22 && o.done.isNone && !o.waitTime

/-- LOG; a flush is one step, so FLUSHING reads 0. -/
def State.logWord (s : State) (r : RegName) (i : Nat) (held : Nat) : Nat :=
  match r with
  | .logStatus => flagWord [(s.log.infoDrop, 1), (s.log.droppedSeen, 2), (s.clearing, 3), (s.exporting, 4)]
      + 2 ^ 16 * satAt 65535 (unflushedBytes s.log.recs / 1024)
  | .logSeq => wordOf s.log.seq i
  | .logFirst => wordOf (oldestSeq s.log.recs) i
  | .logFlushed => wordOf (lastFlushed s.log.recs) i
  | .logCleared => wordOf s.log.cleared i
  | _ => held

/-- SEC. -/
def State.secWord (s : State) (r : RegName) (i : Nat) (held : Nat) : Nat :=
  match r with
  | .secStatus => flagWord [(!s.sec.owner.isEmpty, 0), (s.sec.bootFail, 1), (s.sec.factoryBoot, 4), (s.sec.sigFailSeen, 5)]
      + 4 * s.sec.bootSlot + 2 ^ 16 * (s.cfg.keys.length % 256)
  | .secSerial => wordOf s.sec.serial i
  | .secSvnFloor => s.sec.svnFloor % 2 ^ 32
  | .secFuseLeft => s.sec.fuseLeft % 128
  | .secReportCtr => s.sec.reportCtr % 2 ^ 32
  | .secMeas => byteWord s.sec.meas i
  | .secDevKey => byteWord s.sec.devKey i
  | .secDevCert => byteWord s.sec.devCert i
  | .secOwnerDigest => if s.sec.owner.isEmpty then 0 else byteWord (digest s.sec.owner) i
  | _ => held

/-- UPD. -/
def State.updWord (s : State) (r : RegName) (i : Nat) (held : Nat) : Nat :=
  match r with
  | .updStatus => flagWord [(s.upd.ready, 0), (s.upd.trial, 1), (s.trialHealthy, 2), (s.upd.fallbackPending, 3), (s.upd.scheduled.isSome, 4),
      (s.upd.fellBack, 5)] + 2 ^ 16 * satAt 65535 s.holdS
  | .updVersion => s.runningSlot.version
  | .updStagedVersion => ((s.nvs.slots.find? fun (b : BootSlot) => b.state == .writing || b.state == .trial).map
      fun (b : BootSlot) => b.version).getD 0
  | .updConfirmLeft => match s.confirmEnd with
    | some e => satAt 131071 ((e - s.tb.csr) / ticksPerS)
    | none => 0
  | .updProgress => s.upd.progress % 2 ^ 10
  | .updAct => match s.upd.scheduled with
    | some (_, t, _) => wordOf t i
    | none => 0
  | .updPeer => (s.wb.partner.hello.map fun (h : HelloBody) => h.version).getD 0
  | .updPeerWb => (s.wb.partner.hello.map fun (h : HelloBody) => h.proto % 256 + 256 * (h.protoMin % 256)).getD 0
  | _ => held

/-! The debug module (R628): registers by their debug-module address; what software wrote is in `dbg.dm`. -/

/-- A debug-module register as last written. -/
def State.dm (s : State) (a : Nat) : Nat := ((assocGet s.dbg.dm a).map fun (w : Word) => w.toNat).getD 0

/-- The core pair that dmcontrol.hartsel names; hart 2k and 2k + 1 are of pair k (R253). -/
def State.dmPair (s : State) : Nat := bitsOf (s.dm 16) 16 10 / 2

/-- hartsel names a hart of the module. -/
def State.dmHartOk (s : State) : Bool := decide (bitsOf (s.dm 16) 16 10 < 8) && bitsOf (s.dm 16) 6 10 == 0

/-- dmstatus, version 2, authenticated. -/
def State.dmStatus (s : State) : Nat :=
  let p := s.pair s.dmPair
  let ok := s.dmHartOk
  let up := ok && s.powered (pairDomain s.dmPair) && decide (p.state ≤ 1)
  let two (b : Bool) (k : Nat) : Nat := ofBool b * (3 * 2 ^ k)
  2 + 2 ^ 7 + two (up && p.halted) 8 + two (up && !p.halted) 10 + two (ok && !up) 12 + two (!ok) 14 + two (up && !p.halted) 16

/-- What a debug-module register reads as (R628); any other address reads 0. -/
def State.dmWord (s : State) (a : Nat) : Nat :=
  if a = 16 then s.dm 16 &&& 0x03FFFFC1
  else if a = 17 then s.dmStatus
  else if a = 22 then 4 + 2 ^ 8 * bitsOf (s.dm 22) 8 3
  else if a = 56 then (s.dm 56 &&& 0x001FF000) + 2 ^ 29 + 2 ^ 5 * 48 + 4
  else if a = 4 ∨ a = 5 ∨ a = 6 ∨ a = 7 ∨ a = 57 ∨ a = 58 ∨ a = 60 ∨ a = 61 then s.dm a
  else 0

/-- DBG. -/
def State.dbgWord (s : State) (r : RegName) (i : Nat) (held : Nat) : Nat :=
  match r with
  | .dbgStatus => flagWord [(s.dbg.unlocked, 0), (s.debugMayWrite, 1)] + 2 ^ 16 * satAt 65535 s.dbg.denied
  | .dbgDm => s.dmWord i
  | _ => held

/-- XXX_LOCK: OPEN and HOLDER. -/
def State.lockWord (s : State) (b : Nat) : Nat :=
  match (s.lockOf b).holder with
  | some q => 1 + 16 * q.code
  | none => 0

/-- The word of a register that holds what is written: without its WO, W1C and W1S bits. -/
def State.heldWord (s : State) (r : RegName) (i j : Nat) : Nat :=
  let fs := r.desc.fields.filter fun (f : RegField) => f.acc == .rw || f.acc == .rwl || f.acc == .rws
  fs.foldl (fun n (f : RegField) => n + 2 ^ f.lo * s.fld r f.lo f.width i j) 0

/-- The word a register shows (R17, R615). -/
def State.regWord (s : State) (r : RegName) (i j : Nat) : Word :=
  let held := s.heldWord r i j
  BitVec.ofNat 32 (
    if r = .lock then s.lockWord i
    else if r = .blkid then i + 2 ^ 8 + 2 ^ 16 * 0xE480
    else match r.desc.block with
      | 0 => s.sysWord r i held | 1 => s.pwrWord r held | 2 => s.tbWord r i held | 3 => s.rtcWord r held | 4 => s.hqWord r i held
      | 5 => s.evtWord r i j held | 6 => s.wbWord r i held | 7 => s.coreWord r i held | 8 => s.prgWord r i j held
      | 9 => s.loopWord r i held | 10 => s.slkWord r i j held | 11 => s.estWord r i j held | 12 => s.protWord r i held
      | 13 => s.dspWord r i held | 14 => s.dioWord r i held | 15 => s.aioWord r i held | 16 => s.canWord r i held
      | 17 => s.netWord r i held | 18 => s.nvsWord r i held | 19 => s.logWord r i held | 20 => s.secWord r i held
      | 21 => s.updWord r i held | 22 => s.dbgWord r i held
      | _ => held)

/-! Latches. -/

/-- How the words of a wide value latch. -/
inductive LatchKind | timed | untimed | shadow
  deriving DecidableEq, Repr

/-- The words of the wide value that a register belongs to, from its lowest to its highest (R117, R118, R142, R618). -/
def State.seriesOf (s : State) (r : RegName) (i j : Nat) : LatchKind × List (RegName × Nat × Nat) :=
  let pair (lo hi : RegName) : LatchKind × List (RegName × Nat × Nat) := (.timed, [(lo, i, j), (hi, i, j)])
  let words (n : Nat) : LatchKind × List (RegName × Nat × Nat) := (.timed, (List.range n).map fun k => (r, k, 0))
  match r with
  | .angNowLo | .angNowHi => (.untimed, [(.angNowLo, 0, 0), (.angStatus, 0, 0), (.angNowHi, 0, 0)])
  | .mapWord => (.timed, ((List.range 6).map fun k => (RegName.mapWord, k, 0)) ++ [(.canTsMap, 0, 0), (.mapWord, 6, 0)])
  | .ptNowNs | .ptNowSec => (.timed, [(.ptNowNs, 0, 0), (.ptNowSec, 0, 0), (.ptNowSec, 1, 0)])
  | .calTime | .calDate | .locTime | .locDate => (.shadow, [(.calTime, 0, 0), (.calDate, 0, 0), (.locTime, 0, 0), (.locDate, 0, 0)])
  | .almDueLo | .almDueHi | .almDueX =>
    (.timed, [(.almDueLo, i, 0), (.almDueHi, i, 0)] ++ if (s.tb.alarms.getD i {}).ptBase then [(.almDueX, i, 0)] else [])
  | .almPerLo | .almPerHi => pair .almPerLo .almPerHi
  | .dbCoreLo | .dbCoreHi => pair .dbCoreLo .dbCoreHi
  | .dbHostLo | .dbHostHi => pair .dbHostLo .dbHostHi
  | .wbDrillDueLo | .wbDrillDueHi => pair .wbDrillDueLo .wbDrillDueHi
  | .wbRefMacLo | .wbRefMacHi => pair .wbRefMacLo .wbRefMacHi
  | .coreMismatchPc | .coreMismatchPcHi => pair .coreMismatchPc .coreMismatchPcHi
  | .mpuFaultAddrLo | .mpuFaultInfo => pair .mpuFaultAddrLo .mpuFaultInfo
  | .mpuBaseLo | .mpuBaseHi => pair .mpuBaseLo .mpuBaseHi
  | .slkSweepBaseLo | .slkSweepBaseHi => pair .slkSweepBaseLo .slkSweepBaseHi
  | .estResultBaseLo | .estResultBaseHi => pair .estResultBaseLo .estResultBaseHi
  | .logLiveBaseLo | .logLiveBaseHi => pair .logLiveBaseLo .logLiveBaseHi
  | .prgTaskWord => (.timed, [(.prgTaskWord, i, j / 2 * 2), (.prgTaskWord, i, j / 2 * 2 + 1)])
  | .wbJsn | .wbJsnAck | .wbCycle | .prgCycle | .prgTaskTime | .slkStrobe | .protDigest | .dspSpEpoch | .logSeq | .logFirst | .logFlushed
  | .logCleared | .dramUeAddr | .secSerial | .secMeas | .secDevKey | .secDevCert | .secOwnerDigest | .updAct => words r.desc.n1
  | _ => (.timed, [])

/-- The requester as latches tell it apart: a core by its hart, for the calendar by its pair (R142). -/
def latchKey (k : LatchKind) (q : Requester) : Nat :=
  match q with
  | .core p c _ => if k = .shadow then p else 2 * p + ofBool c
  | .host => 8
  | .debug => 9
  | .engine e => 16 + e

/-- Latches whose time has run out are gone. -/
def State.dropOldLatches (s : State) : State :=
  { s with tb := { s.tb with latches := s.tb.latches.filter fun (l : Latch) => match l.fin with
      | some t => decide (s.tb.csr < t)
      | none => true } }

/-- The latches of a requester on some addresses are dropped. -/
def State.unlatch (s : State) (key : Nat) (addrs : List Nat) : State :=
  { s with tb := { s.tb with latches := s.tb.latches.filter fun (l : Latch) => !(l.key == key && addrs.contains l.addr) } }

/-- A word latched for a requester. -/
def State.latched (s : State) (key addr : Nat) : Option Word :=
  (s.tb.latches.find? fun (l : Latch) => l.key == key && l.addr == addr).map fun (l : Latch) => l.word

/-- The words of a series are latched for a requester, for 1 ms unless the kind has no time limit. -/
def State.latchWords (s : State) (k : LatchKind) (key : Nat) (ws : List (RegName × Nat × Nat)) : State :=
  let fin : Option Nat := match k with
    | .untimed => none
    | .timed | .shadow => some (s.tb.csr + 100000)
  let new := ws.map fun (w : RegName × Nat × Nat) =>
    ({ key := key, addr := w.1.addr w.2.1 w.2.2, word := s.regWord w.1 w.2.1 w.2.2, fin := fin } : Latch)
  { s with tb := { s.tb with latches := s.tb.latches ++ new } }

/-- Addresses of a series. -/
def seriesAddrs (ws : List (RegName × Nat × Nat)) : List Nat := ws.map fun (w : RegName × Nat × Nat) => w.1.addr w.2.1 w.2.2

/-- A read of a register of a wide value: its lowest word latches the rest, its highest ends the latch; a calendar register freezes all four
(R117, R118, R142, R618). -/
def State.readLatched (s : State) (q : Requester) (r : RegName) (i j : Nat) : State × Word :=
  let s := s.dropOldLatches
  let (k, ws) := s.seriesOf r i j
  let key := latchKey k q
  let addr := r.addr i j
  let as := seriesAddrs ws
  let lowest := as.head? = some addr
  let highest := as.getLast? = some addr
  match s.latched key addr with
  | some w => (if highest then s.unlatch key as else s, w)
  | none =>
    let w := s.regWord r i j
    if k = .shadow then (if highest then s.unlatch key as else (s.unlatch key as).latchWords k key ws, w)
    else if lowest ∧ 1 < as.length then ((s.unlatch key as).latchWords k key (ws.drop 1), w)
    else (s, w)

/-- A read of a register that lies at an address: HQ_n_PORT by R185 and R186, angle status and CAN_TS_MAP_CNT from a latch of their series, the rest
as above. A measurement read is a free value. -/
def State.readReg (s : State) (q : Requester) (r : RegName) (i j : Nat) : State :=
  match r with
  | .hqNPort => s.after (execLegacyPopRead q i)
  | .angStatus =>
    let s := s.dropOldLatches
    s.answer q ((s.latched (latchKey .untimed q) (r.addr i j)).getD (s.regWord r i j)).toNat
  | .canTsMap =>
    let s := s.dropOldLatches
    s.answer q ((s.latched (latchKey .timed q) (r.addr i j)).getD (s.regWord r i j)).toNat
  | .pwrDraw => (s.answer q (s.regWord r i j).toNat).useFree
  | r => let (t, w) := s.readLatched q r i j; t.answer q w.toNat

/-- A read of a locked window: PROT 0x8000 to 0xFFFF for cores in machine mode and an unlocked debug master, the key store for nobody (R281,
R626). -/
def windowReadable (q : Requester) (addr : Nat) (unlocked : Bool) : Bool :=
  if addr / 0x10000 = 0x4014 then false
  else match q with
    | .core _ _ .machine => true
    | .debug => unlocked
    | _ => false

/-- An address in a window that R626 locks. -/
def inWindow (addr : Nat) : Bool :=
  decide (0x8000 ≤ addr % 0x10000) && (addr / 0x10000 == 0x400C || addr / 0x10000 == 0x4014)

/-- The protection set window: the content of the committed set, then of the staged set from its second half (R626). The spec gives it no
layout, so each word is a free value. -/
def State.readWindow (s : State) (q : Requester) : State := (s.answer q (Config.free s.freeCtr % 2 ^ 32)).useFree

/-- A read of the register space (R615 to R617, R626): a hole reads 0; the host reads 0 in DBG. -/
def State.readSpace (s : State) (q : Requester) (addr : Nat) : State :=
  if q = .host ∧ addr / 0x10000 = 0x4016 then s.answer q 0
  else if inWindow addr then (if windowReadable q addr s.dbg.unlocked then s.readWindow q else s.answerErr q .busError)
  else match findReg addr with
    | some (r, i, j) => s.readReg q r i j
    | none => s.answer q 0

end Sys2Proof.Machine
end

