-- ==== Sys2Proof/Machine/RegisterEffect.lean ====
section
/-! DEFINITION. What a write does at every register: block locks, bits that clear on 1, and the registers with an effect of their own
(17_register_map.md, R15 to R19, R136, R152, R615 to R626). -/

namespace Sys2Proof.Machine

/-! The block lock (R621 to R623). -/

/-- The state with the lock of block b changed. -/
def State.setLock (s : State) (b : Nat) (f : LockSt → LockSt) : State := { s with locks := updAt s.locks b f }

/-- A requester that can open a lock: a core in machine mode, the host port, or debug in SERVICE or QUARANTINE (R621). -/
def State.mayOpenLock (s : State) (q : Requester) : Bool :=
  match q with
  | .core _ _ .machine | .host => true
  | .debug => s.debugMayWrite
  | _ => false

/-- A write of XXX_LOCK (R621 to R623). -/
def State.writeLock (s : State) (q : Requester) (b : Nat) (v : Word) : State :=
  let addr := RegName.lock.addr b 0
  let mine := s.lockedFor b q
  let free := (s.lockOf b).holder.isNone
  if bitsOf v.toNat 16 16 ≠ 0x6B0C then s.refuseWrite q addr
  else if bitOf v.toNat 0 then
    (if s.mayOpenLock q ∧ (free ∨ mine) then s.setLock b fun _ => { holder := some q, since := s.tb.csr } else s.refuseWrite q addr)
  else if mine then s.setLock b fun l => { l with holder := none }
  else s.refuseWrite q addr

/-! Bits that clear on 1. -/

/-- A flag after a write: cleared by a 1 (table Register access codes). -/
def w1c (flag : Bool) (v : Word) (b : Nat) : Bool := flag && !bitOf v.toNat b

/-- The queue's W1C bits. -/
def clearQueue (q : Queue) (v : Word) : Queue :=
  { q with underrun := w1c q.underrun v 2, busy := w1c q.busy v 3, ptrReset := w1c q.ptrReset v 4, stale := w1c q.stale v 5,
           evt := w1c q.evt v 6, ringErr := w1c q.ringErr v 7 }

/-- A write of the W1C bits of a register; none where the register has none. -/
def State.clearBits (s : State) (q : Requester) (r : RegName) (i : Nat) (v : Word) : Option State :=
  match r with
  | .rtcStatus => some { s with rtc := { s.rtc with onBackupSeen := w1c s.rtc.onBackupSeen v 2 } }
  | .hqNStatus => some (s.setQueue i fun x => clearQueue x v)
  | .mpuStatus => some (
      if s.mpuAbsent i then s
      else if !s.machineLockstep q then s.refuseWrite q (r.addr i 0)
      else { s with core := { s.core with mpus := updAt s.core.mpus i fun m => { m with syncErr := w1c m.syncErr v 2 } } })
  | .slkPortStatus => some (s.setRing i fun x => { x with breakSeen := w1c x.breakSeen v 4, missingSeen := w1c x.missingSeen v 5,
                                                          alarmSeen := w1c x.alarmSeen v 6, sweepLag := w1c x.sweepLag v 7 })
  | .estStatus => some { s with est := { s.est with lag := w1c s.est.lag v 5 } }
  | .dioDoStatus => some (s.setDoSt i fun d => { d with extDrive := w1c d.extDrive v 2, mismatch := w1c d.mismatch v 3,
                                                        short := w1c d.short v 4, darkFail := w1c d.darkFail v 6 })
  | .aiStatus => some (s.setAiSt i fun a => { a with diverge := w1c a.diverge v 4, overloadSeen := w1c a.overloadSeen v 5 })
  | .canStatus => some (s.setCanPort i fun p => { p with busOffSeen := w1c p.busOffSeen v 3, wakeSeen := w1c p.wakeSeen v 4,
                                                         rxOverrun := w1c p.rxOverrun v 5 })
  | .netPortStatus => some { s with net := { s.net with ports := updAt s.net.ports i fun p => { p with downSeen := w1c p.downSeen v 5 } } }
  | .nvsStatus => some { s with nvs := { s.nvs with fixHigh := w1c s.nvs.fixHigh v 2, uncorrSeen := w1c s.nvs.uncorrSeen v 3,
                                                    scrubSlow := w1c s.nvs.scrubSlow v 4 } }
  | .logStatus => some { s with log := { s.log with droppedSeen := w1c s.log.droppedSeen v 2 } }
  | .secStatus => some { s with sec := { s.sec with sigFailSeen := w1c s.sec.sigFailSeen v 5 } }
  | .updStatus => some { s with upd := { s.upd with fellBack := w1c s.upd.fellBack v 5 } }
  | _ => none

/-! Registers with an effect of their own. -/

/-- The owner's write of a queue's base registers, only while ENABLE is 0 (R152). -/
def State.writeHqBase (s : State) (q : Requester) (r : RegName) (n : Nat) (v : Word) : State :=
  let x := s.queue n
  if x.owner = 0 ∨ x.owner ≠ q.code ∨ x.enable then s.refuseWrite q (r.addr n 0) else (s.writeWide q r n 0 v).1

/-- The owner's write of HQ_n_TIMING (R152). -/
def State.writeHqTiming (s : State) (q : Requester) (n : Nat) (v : Word) : State :=
  let x := s.queue n
  if x.owner = 0 ∨ x.owner ≠ q.code then s.refuseWrite q (RegName.hqNTiming.addr n 0)
  else s.setQueue n fun x => { x with coalesce := bitsOf v.toNat 0 8, staleUs := bitsOf v.toNat 8 16 }

/-- A write of an alarm's due instant or period: dropped while it is armed (R136); DUE_X is ignored on the angle clock (R138). -/
def State.writeAlmWord (s : State) (q : Requester) (r : RegName) (n : Nat) (v : Word) : State :=
  let a := s.tb.alarms.getD n {}
  if r = .almDueX ∧ a.ptBase = false then s
  else if a.armed then s.refuseWrite q (r.addr n 0)
  else (s.writeWide q r n 0 v).1

/-- A write of RTC_CTRL: setting the enable arms the calendar alarm (R135). -/
def State.writeRtcCtrl (s : State) (q : Requester) (v : Word) : State :=
  let was := s.bit .rtcCtrl 0
  let t := (s.writeHeld q .rtcCtrl 0 0 v).1
  if t.bit .rtcCtrl 0 ∧ was = false then t.armCal else t

/-- A write of DBG_CTRL: RELOCK, then TOKEN_GO (R280, R281). -/
def State.writeDbgCtrl (s : State) (v : Word) : State :=
  let s := if bitOf v.toNat 0 then s.relock else s
  if bitOf v.toNat 1 then s.tokenGo else s

/-- A word of the unlock token buffer. -/
def State.writeToken (s : State) (k : Nat) (v : Word) : State :=
  { s with dbg := { s.dbg with token := s.dbg.token.take (4 * k) ++ leBytes 4 v.toNat ++ s.dbg.token.drop (4 * k + 4) } }

/-- The registers of the log's live window: a new base starts an empty window (table Live window header). -/
def State.writeLiveBase (s : State) (q : Requester) (r : RegName) (v : Word) : State :=
  let old := s.liveBase
  let t := (s.writeWide q r 0 0 v).1
  if t.liveBase = old then t else { t with log := { t.log with live := [], nextOff := 64, headSeq := 0, headOff := 0, wraps := 0 } }

/-- A write of a register without an effect of its own: its W1C bits, else its held bits; one without writable fields drops it (R16). -/
def State.writePlain (s : State) (q : Requester) (r : RegName) (i j : Nat) (v : Word) : State :=
  match s.clearBits q r i v with
  | some t => t
  | none => if r.desc.fields.isEmpty then s else (s.writeWide q r i j v).1

/-- A write that has passed the rules of R277, R278 and R616, at a register that is not of the debug module. -/
def State.writeAt (s : State) (q : Requester) (r : RegName) (i j : Nat) (v : Word) : State :=
  match r with
  | .lock => s.writeLock q i v
  | .sysCtrl => s.writeSysCtrl q v
  | .angCtrl => (s.writeAngCtrl q v (Config.free s.freeCtr) (Config.freeInt s.freeCtr)).useFree
  | .ptStepGo => s.writeStepGo q v
  | .almCtrl => s.writeAlm q i v.toNat
  | .almDueLo | .almDueHi | .almDueX | .almPerLo | .almPerHi => s.writeAlmWord q r i v
  | .rtcCtrl => s.writeRtcCtrl q v
  | .calDate => s.writeCalDate q v
  | .calTime => s.writeCalTime q v
  | .hqKick => s.after (execHqKick q v)
  | .hqNCtrl => s.writeHqCtrl q i v.toNat
  | .hqNSqLo | .hqNCqLo | .hqNBaseHi => s.writeHqBase q r i v
  | .hqNTiming => s.writeHqTiming q i v
  | .evtRoute => s.after (execEvtRouteWrite q i v)
  | .evtPend => s.after (execEvtPendClear q i v)
  | .evtSoft => s.after (execEvtSoft q v)
  | .evtEoi => s.after (execEvtHostEoi q v)
  | .evtHostMask => s.after (execEvtHostMaskWrite q v)
  | .wbLeaseWd => s.writeLeaseWd v
  | .wbHandover => s.writeHandover v
  | .mpuCtrl => s.writeMpuCtrl q i v
  | .mpuBaseLo | .mpuBaseHi | .mpuAttr => if s.mpuAbsent i then s else (s.writeWide q r i j v).1
  | .coreCfg => if i = 0 then s else (s.writeHeld q r i j v).1
  | .slkCtrl => s.writeSlkCtrl q v
  | .slkDither => s.writeSlkDither q v
  | .slkCkCtrl | .slkCommTmo => s.writeCk q r v
  | .slkPortCtrl => s.writeSlkPort q i v
  | .estCtrl => s.writeEstCtrl q v
  | .logLiveBaseLo | .logLiveBaseHi => s.writeLiveBase q r v
  | .aioCal => s.writeCal q v
  | .canCtrl => s.writeCanCtrl q i v
  | .dbgCtrl => s.writeDbgCtrl v
  | .dbgToken => s.writeToken i v
  | .dbgDm => s
  | r => s.writePlain q r i j v

/-- A write to the register space, but for the debug module's registers: the windows of R626 drop it, a hole ignores it (R615); the writer
then reads the new value (R619). -/
def State.writeSpace (s : State) (q : Requester) (addr : Nat) (v : Word) : State :=
  match s.writeBarred q addr with
  | some t => t
  | none =>
    if inWindow addr then s
    else match findReg addr with
      | some (r, i, j) => (s.writeAt q r i j v).unlatch (latchKey (s.seriesOf r i j).1 q) [addr]
      | none => s

end Sys2Proof.Machine
end

