-- ==== Sys2Proof/Machine/Boot.lean ====
section
/-! DEFINITION. The boot stages: verification, measurement, and what stage 3 applies (15_security_and_field_update.md, R577 to R582;
16_modes_start_up_and_faults.md, table Boot to service; R88, R91, R102, R124, R205, R263, R266, R302, R308, R532, R542, R552, R556, R620). -/

namespace Sys2Proof.Machine

/-! The checks of a configuration. -/

/-- Nanoseconds at 1 Gbit/s of a station's output frame with `n` points: Ethernet framing, PRP trailer or HSR tag, gap and preamble are
PRESUMED (notes/assumptions/20.md). -/
def frameNs (n : Nat) : Nat := 8 * (max 64 (14 + 16 + 16 + 4 * n + 4) + 26)

/-- The scan of network `net` fits a quarter of the minimum cycle on its ports (R532). -/
def State.scanFits (s : State) (cfg : Cfg) (minCycleUs net : Nat) : Bool :=
  let t := (cfg.sessions.filter fun (x : Session) => x.network == net).foldl (fun n (x : Session) => n + frameNs x.outIdent.length) 0
  [2 * net, 2 * net + 1].all fun p => decide (4 * t ≤ minCycleUs * 1000 * if (s.net.ports.getD p {}).tenGig then 10 else 1)

/-- Point counts: 352 per station and direction, 98,304 in all (R532). -/
def pointsOk (cfg : Cfg) : Bool :=
  cfg.sessions.all (fun (x : Session) => decide (x.inIdent.length ≤ 352 ∧ x.outIdent.length ≤ 352))
    && decide (cfg.sessions.foldl (fun n (x : Session) => n + x.inIdent.length + x.outIdent.length) 0 ≤ 98304)

/-- FAIL is the safe value of an AO alone (R302). -/
def failOk (cfg : Cfg) : Bool := cfg.safeValues.all fun (v : Nat × SafeVal) => decide (v.2 ≠ .fail) || cfg.aoPoint.contains v.1

/-- SVC_PAIR and SVC_BACKUP name two different pairs that are not split (R266). -/
def State.svcOk (s : State) : Bool :=
  let a := s.fld .coreSvc 0 2
  let b := s.fld .coreSvc 4 2
  a != b && (s.pair a).state != 1 && (s.pair b).state != 1

/-- The limits that a configuration must keep (R302, R532). -/
def State.cfgOk (s : State) (cfg : Cfg) (prog : Option ProgImage) : Bool :=
  let minCycle := (prog.map fun (p : ProgImage) => p.minCycleUs).getD 10000
  pointsOk cfg && failOk cfg && s.scanFits cfg minCycle 0 && s.scanFits cfg minCycle 1

/-! The settings (R620). -/

/-- The boot monitor as a writer: core 0 of the pair that boots, in machine mode. -/
def bootWriter : Requester := .core 0 false .machine

/-- A register that a configuration can set: it has a field under lock or writable in SERVICE, and its write is no step of plant time. -/
def settable (r : RegName) : Bool := r != .ptStepGo && r.desc.fields.any fun (f : RegField) => f.acc == .rwl || f.acc == .rws

/-- One setting; while the clock free-runs, a source of TB_ANG_CTRL is taken when it comes (R102). -/
def State.applySetting (s : State) (e : Nat × Word) : State :=
  match findReg e.1 with
  | some (r, i, j) =>
    if settable r = false then s
    else if r = .angCtrl ∧ s.tb.angState = .synth then
      let old := s.bit .angCtrl 4
      let t := (s.writeHeld bootWriter .angCtrl 0 0 e.2).1
      if t.bit .angCtrl 4 = old then t else t.followFnom.strobeAdjust
    else s.writeAt bootWriter r i j e.2
  | none => s

/-- The settings with every block lock open for the boot monitor alone (R620). -/
def State.applySettings (s : State) (l : List (Nat × Word)) : State :=
  let mode := s.sys.mode
  let s := { s with sys := { s.sys with mode := .service },
                    locks := s.locks.map fun _ => { holder := some bootWriter, since := s.tb.csr } }
  let t := l.foldl State.applySetting s
  { t with sys := { t.sys with mode := mode } }.refence.closeLocks

/-! Streams and the journal (R88, R205, R308, R542). -/

/-- INTENT entries of a stream: SEQ, JSN, payload. -/
def intentsOf (l : List JEntry) (id epoch : Nat) : List (Nat × Nat × List Byte) :=
  l.filterMap fun (e : JEntry) => match e.body with
    | .intent st sq ep p => if st = id ∧ ep = epoch then some (sq, e.jsn, p) else none
    | _ => none

/-- The highest acknowledged SEQ of a stream in a journal (R238). -/
def ackedOf (l : List JEntry) (id epoch : Nat) : Nat :=
  l.foldl (fun m (e : JEntry) => match e.body with
    | .ordAck st ep h => if st = id ∧ ep = epoch then max m h else m
    | _ => m) 0

/-- A stream as the journal leaves it. -/
def streamFrom (l : List JEntry) (id epoch : Nat) : Stream :=
  let is := intentsOf l id epoch
  let h := ackedOf l id epoch
  { id := id, epoch := epoch, nextSeq := is.foldl (fun m (x : Nat × Nat × List Byte) => max m (x.1 + 1)) (h + 1), ackH := h, journalledH := h,
    unacked := is.filter fun (x : Nat × Nat × List Byte) => decide (h < x.1) }

/-- The highest generation of a journal. -/
def genOf (l : List JEntry) : Nat := l.foldl (fun m (e : JEntry) => max m e.gen) 0

/-- The lease table of the served pairs as a journal keeps it; after the referee's own restart no slot counts as last granted (R222, R224,
R227). -/
def servedFrom (l : List JEntry) : List RefPair :=
  (l.foldl (fun t e => match e.body with
    | .referee p => putServed t p
    | _ => t) []).map fun p => { p with lastGranted := 0 }

/-- The journal region rebuilt from its partition. Without its flush-complete marker the newest entries may be lost: the guarantees are broken,
and every ORDERED stream, or where the journal holds no cycle number every stream, takes a new STREAM_EPOCH (R88, R205, R308, R542). -/
def State.rebuildJournal (s : State) (l : List JEntry) (flushed : Bool) : State :=
  let s := { s with wb := { s.wb with journal := l, journalBytes := journalLength l, unwritten := 0, flushMarker := flushed,
                                      jsn := l.foldl (fun m (e : JEntry) => max m e.jsn) 0, gen := max s.wb.gen (genOf l),
                                      streams := s.cfg.orderedStreams.map fun id => streamFrom l id (s.streamEpoch id),
                                      cycEpochs := (ownCyclic s.cfg).map fun id => (id, s.streamEpoch id), served := servedFrom l } }
  let s := (s.rememberAll l).keepEpochs
  if flushed then s
  else
    let t := s.guaranteeBroken []
    if journalProgCycle l = none then t.newEpochs else t.newOrdered

/-! Records of the module alone (R552). -/

/-- One lost record of the CFG partition starts afresh: 0 calibration, 1 nonce lists, 2 page counters, 3 recorder reservation, 4 boot epoch,
5 COLD. -/
def State.lostRecord (s : State) (k : Nat) : State :=
  if 6 ≤ k then s
  else
    let s := s.record .cfgLocalLost [k]
    match k with
    | 0 =>
      let aos := s.aio.aos.map fun (a : AoSt) => { a with zero := 0, span := 0, wZero := 0, wSpan := 0 }
      (List.range 4).foldl (fun t n => t.record .aoTrimLost [n]) { s with aio := { s.aio with aos := aos } }
    | 1 => { s with sec := { s.sec with nonceDbg := [], nonceLog := [], nonceLost := some s.tb.pt } }
    | 2 => { s with nvs := { s.nvs with counters := [],
                                        pages := s.nvs.pages.map fun (g : (Nat × Nat) × Page) =>
                                          (g.1, { g.2 with maxFix := 0, uncorr := false, excess := 0 }) } }
    | 3 =>
      let n := lastFlushed s.log.recs
      { s with log := { s.log with seq := max s.log.seq (n + 131072), reservation := max s.log.seq (n + 131072) + 131072 } }.record
        .recorderGap [n + 1, max s.log.seq (n + 131072)]
    | 4 => { s with wb := { s.wb with bootEpoch := 0 } }
    | _ => { s with sys := { s.sys with cold := true } }

/-- The page counters as the CFG partition keeps them (R549, R552). -/
def State.restoreCounters (s : State) : State :=
  { s with nvs := { s.nvs with pages := s.nvs.pages.map fun (g : (Nat × Nat) × Page) =>
      let c := (assocGet s.nvs.counters g.1).getD {}
      (g.1, { g.2 with maxFix := c.maxFix, uncorr := c.uncorr, excess := c.excess, reported := c.reported }) } }

/-! Stages. -/

/-- Plant time at power-up: from a valid calendar and TB_PT_UTC (R124). -/
def State.powerUpTime (s : State) : State :=
  if s.tb.ptState = .unset ∧ s.rtc.osf = false then
    let utc := Int.ofNat (tai2000 + s.rtc.cal.secs) + signedOf 16 (s.fld .ptUtc 0 16)
    { s with tb := { s.tb with pt := ⟨utc.toNat, 0⟩ } }
  else s

/-- A committed protection set is in force again: the NO_SET holds end under the re-arm rule (R456). -/
def State.restoreSet (s : State) (x : ProtSet) (dig : List Byte) : State :=
  { s with prot := { s.prot with set := some x, oldSet := none, oldRings := [], setDigest := dig, groups := mapGroups (commitGroup x) s.prot.groups } }

/-- The configuration, program and protection set that stage 3 has verified come into force. -/
def State.applyStage3 (s : State) (cfg : Cfg) (prog : Option ProgImage) (set : Option ProtSet) (dig : List Byte) : State :=
  let s := { s with cfg := cfg, sys := { s.sys with role := cfg.manager, configured := true },
                    prg := { s.prg with image := prog, tasks := (prog.map tasksOf).getD s.prg.tasks } }
  let s := match set with
    | some x => s.restoreSet x dig
    | none => s
  let s := s.applySettings cfg.settings
  { s with core := { s.core with svcPair := s.fld .coreSvc 0 2 } }

/-- The module leaves BOOT for QUARANTINE with CFG_INVALID (R266, R532, R582). -/
def State.cfgInvalid (s : State) : State := s.enterQuarantine .cfgInvalid

/-- Stage 3 (R582): what the CFG partition holds, the journal, the module's own records, plant time. -/
def State.stage3 (s : State) (x : Stage3) (rebuilt : List JEntry) (flushed : Bool) (lost : List Nat) : State :=
  let s := lost.foldl State.lostRecord ({ s with nvs := { s.nvs with ready := s.unitUp 24, scrubbing := s.unitUp 24 } }.restoreCounters).powerUpTime
  match x with
  | .none => s.enterService
  | .bad => s.cfgInvalid
  | .ok cfg prog set dig =>
    if s.cfgOk cfg prog = false then s.cfgInvalid
    else
      let t := s.applyStage3 cfg prog set dig
      if t.svcOk = false then t.cfgInvalid
      else (t.rebuildJournal rebuilt (flushed && s.wb.flushMarker)).startEst

/-- Stage 2: Wingbeat lanes and host port leave their harmless states, HELLO is sent; a factory image enters SERVICE (R91, R581). -/
def State.stage2 (s : State) : State :=
  let s := { s with sys := { s.sys with domains := s.sys.domains ||| 0x20 } }
  let t := s.sendWb (.hello s.helloBody)
  if s.sec.factoryBoot then t.enterService (recCodeOf .bootFactory) else t

/-- Stage 1: the boot monitor runs; the confirm window of a trial starts (R592). -/
def State.stage1 (s : State) : State :=
  if s.upd.trial then { s with upd := { s.upd with confirmFrom := some s.tb.csr, healthFrom := s.tb.csr } } else s

/-- A verified stage is measured (R578). -/
def State.extendChain (s : State) (stage : Nat) (dig : List Byte) : State :=
  { s with sys := { s.sys with bootStage := stage, stageAt := s.tb.csr }, sec := { s.sec with meas := shake256 64 (s.sec.meas ++ dig) } }

/-- BOOT_STAGE_VERIFIED: stages in order, after the monitor has picked a slot; an extraction asked for during BOOT ends it in SERVICE at the
stage boundary (R94). -/
def execBootStageVerified (stage : Nat) (dig : List Byte) (s3 : Stage3) (rebuilt : List JEntry) (flushed : Bool) (lost : List Nat)
    (s : State) : Result :=
  .next (if s.sys.mode ≠ .boot ∨ s.sec.picked = false ∨ s.sys.bootStop ∨ stage ≠ s.sys.bootStage + 1 ∨ 3 < stage then s
    else
      let s := s.extendChain stage dig
      if s.pwr.ejectReq then { s with pwr := { s.pwr with extraction := true } }.enterService
      else match stage with
        | 1 => s.stage1
        | 2 => s.stage2
        | _ => s.stage3 s3 rebuilt flushed lost)

end Sys2Proof.Machine
end

