-- ==== Sys2Proof/Machine/BusAccess.lean ====
section
/-! DEFINITION. Accesses by cores and by the debug master: MPU check and access fault, memory and registers, and the debug module
(06_control_cores_and_protection_units.md, R251 to R254, R257, R267 to R281; 17_register_map.md, R615, R628). -/

namespace Sys2Proof.Machine

/-! What lies at an address (table Default map). -/

/-- The register space. -/
def inRegs (a : Nat) : Bool := decide (0x40000000 ≤ a ∧ a < 0x41000000)

/-- The boot ROM. -/
def inRom (a : Nat) : Bool := decide (a < 0x10000)

/-- Memory on the system bus: boot ROM, DRAM with the journal region, the station host window. -/
def onBus (a : Nat) : Bool := inRom a || decide (0x000800000000 ≤ a ∧ a < 0x000C00000000) || decide (0x001000000000 ≤ a ∧ a < 0x002000000000)

/-- The TCM a core has: half of it in a split core (R264). -/
def inTcm (split : Bool) (a : Nat) : Bool := decide (0x10000000 ≤ a ∧ a < if split then 0x10040000 else 0x10080000)

/-- An access of the register space that R615 refuses. -/
def badAccess (addr size : Nat) : Bool := size != 4 || addr % 4 != 0 || decide (0x40170000 ≤ addr ∧ addr ≤ 0x40FFFFFF)

/-- The error a requester gets for such an access (R615). -/
def badError (q : Requester) : BusErr :=
  match q with
  | .core .. | .debug => .busError
  | .engine _ => .accessFault
  | .host => .unsupported

/-- `n` bytes of memory at an address of a hart. -/
def State.loadBytes (s : State) (hart a n : Nat) : List Byte := (List.range n).map fun k => Memory.read s.mem (hartKey hart (a + k))

/-- Bytes stored at an address of a hart; the boot ROM keeps its content. -/
def State.storeBytes (s : State) (hart : Nat) : Nat → List Byte → State
  | _, [] => s
  | a, b :: bs =>
    { s with mem := if inRom a then s.mem else Memory.write s.mem (hartKey hart a) b }.storeBytes hart (a + 1) bs

/-! The debug master (R277, R278, R281). -/

/-- A debug read of an address that R277 refuses: a locked region, but under an unlock only the key store (R281). -/
def State.debugBlind (s : State) (addr : Nat) : Bool :=
  debugLocked addr && (!s.dbg.unlocked || decide (0x40148000 ≤ addr ∧ addr ≤ 0x4014FFFF))

/-- A debug read of a word. A core's own TCM is not on the system bus. -/
def State.debugRead (s : State) (addr : Nat) : State :=
  if s.debugBlind addr then (s.denyDebug addr).answerErr .debug .busError
  else if inRegs addr then (if badAccess addr 4 then s.answerErr .debug .busError else s.readSpace .debug addr)
  else if onBus addr ∧ onBus (addr + 3) then s.answer .debug (leNat (s.loadBytes 0 addr 4))
  else s.answerErr .debug .busError

/-- A debug write of a word, but for the debug module's own registers. -/
def State.debugWrite (s : State) (addr : Nat) (v : Word) : State :=
  match s.writeBarred .debug addr with
  | some t => t
  | none =>
    if inRegs addr then (if badAccess addr 4 then s.answerErr .debug .busError else s.writeSpace .debug addr v)
    else if onBus addr ∧ onBus (addr + 3) then s.storeBytes 0 addr (leBytes 4 v.toNat)
    else s.answerErr .debug .busError

/-! The debug module (R628). -/

/-- The state with a debug-module register set. -/
def State.setDm (s : State) (a v : Nat) : State := { s with dbg := { s.dbg with dm := assocSet s.dbg.dm a (BitVec.ofNat 32 v) } }

/-- The system-bus address. -/
def State.sbAddr (s : State) : Nat := s.dm 57 + 2 ^ 32 * s.dm 58

/-- The sberror field. -/
def State.sbError (s : State) : Nat := bitsOf (s.dm 56) 12 3

/-- The state with sberror set. -/
def State.setSbError (s : State) (e : Nat) : State := s.setDm 56 (setField (BitVec.ofNat 32 (s.dm 56)) 12 3 e).toNat

/-- The address after an access, with sbautoincrement. -/
def State.sbNext (s : State) : State :=
  if bitOf (s.dm 56) 16 then (s.setDm 57 ((s.sbAddr + 4) % 2 ^ 32)).setDm 58 ((s.sbAddr + 4) / 2 ^ 32 % 2 ^ 32) else s

/-- An access of the system bus may begin: no error stands, and the access is of 32 bits (sbcs). -/
def State.sbReady (s : State) (f : State → State) : State :=
  if s.sbError ≠ 0 then s else if bitsOf (s.dm 56) 17 3 ≠ 2 then s.setSbError 4 else f s

/-- A system-bus read into sbdata0. -/
def State.sbRead (s : State) : State :=
  s.sbReady fun s =>
    let t := s.debugRead s.sbAddr
    match t.resp with
    | some r => if r.err = .ok then (t.setDm 60 r.value).sbNext else (t.setDm 60 0).setSbError 2
    | none => t

/-- A system-bus write of sbdata0. -/
def State.sbWrite (s : State) : State :=
  s.sbReady fun s =>
    let t := { s with resp := none }.debugWrite s.sbAddr (BitVec.ofNat 32 (s.dm 60))
    match t.resp with
    | some _ => t.setSbError 2
    | none => { t with resp := s.resp }.sbNext

/-- A command error of abstractcs; the first stands. -/
def State.cmdErr (s : State) (e : Nat) : State := if bitsOf (s.dm 22) 8 3 = 0 then s.setDm 22 (256 * e) else s

/-- A register of a hart as the debugger sees it: misa, the PMP registers, MODE of satp, the identification registers and the time count (R252
to R254); what else a core holds is a free value, as the core lies outside the block. -/
def State.hartReg (s : State) (regno : Nat) : Nat :=
  if regno = 0xF11 ∨ regno = 0x1000 ∨ (0x3A0 ≤ regno ∧ regno ≤ 0x3EF) then 0
  else if regno = 0x301 then 0x800000000014112D
  else if regno = 0x180 then Config.free s.freeCtr % 2 ^ 60
  else if regno = 0xF12 then 0x480
  else if regno = 0xF13 then s.sys.siliconRev
  else if regno = 0xF14 then bitsOf (s.dm 16) 16 10
  else if regno = 0xC01 then s.tb.csr % 2 ^ 64
  else Config.free s.freeCtr % 2 ^ 64

/-- An abstract command: access register on a halted hart; other kinds are not supported. -/
def State.abstractCmd (s : State) (v : Nat) : State :=
  let size := bitsOf v 20 3
  let regno := bitsOf v 0 16
  if bitsOf (s.dm 22) 8 3 ≠ 0 then s
  else if bitsOf v 24 8 ≠ 0 ∨ bitOf v 18 ∨ (bitOf v 17 ∧ ¬(size = 2 ∨ size = 3)) ∨ 0x1020 ≤ regno then s.cmdErr 2
  else if !s.dmHartOk || (s.pair s.dmPair).halted = false then s.cmdErr 4
  else if bitOf v 17 ∧ bitOf v 16 = false then
    let x := s.hartReg regno
    let t := (s.setDm 4 (wordOf x 0)).useFree
    if size = 3 then t.setDm 5 (wordOf x 1) else t
  else s

/-- A write of dmcontrol: hart selection, halt request (R279), resume. -/
def State.dmControl (s : State) (v : Nat) : State :=
  if bitOf v 0 = false then { s with dbg := { s.dbg with dm := [] } }
  else
    let t := s.setDm 16 v
    if bitOf v 31 then (if t.dmHartOk then t.haltPair t.dmPair else t)
    else if bitOf v 30 ∧ t.dmHartOk then t.setPair t.dmPair fun p => { p with halted := false }
    else t

/-- A write of a debug-module register. -/
def State.dmWrite (s : State) (a : Nat) (v : Word) : State :=
  if a = 16 then s.dmControl v.toNat
  else if a = 22 then s.setDm 22 ((BitVec.ofNat 32 (s.dm 22) &&& ~~~v).toNat &&& 0x700)
  else if a = 23 then s.abstractCmd v.toNat
  else if a = 56 then s.setDm 56 ((v.toNat &&& 0x001F8000) + 2 ^ 12 * (BitVec.ofNat 3 s.sbError &&& ~~~(BitVec.ofNat 3 (bitsOf v.toNat 12 3))).toNat)
  else if a = 57 then
    let t := s.setDm 57 v.toNat
    if bitOf (s.dm 56) 20 then t.sbRead else t
  else if a = 60 then (s.setDm 60 v.toNat).sbWrite
  else if a = 4 ∨ a = 5 ∨ a = 6 ∨ a = 7 ∨ a = 58 ∨ a = 61 then s.setDm a v.toNat
  else s

/-- A read of a debug-module register; sbdata0 with sbreadondata starts the next bus read. -/
def State.dmRead (s : State) (q : Requester) (a : Nat) : State :=
  let v := s.dmWord a
  let t := if a = 60 ∧ bitOf (s.dm 56) 15 then s.sbRead else s
  t.answer q v

/-- The debug-module register at an address of the register space. -/
def dmAt (addr : Nat) : Option Nat :=
  match findReg addr with
  | some (.dbgDm, a, _) => some a
  | _ => none

/-- A write of the register space by any requester. -/
def State.writeRegs (s : State) (q : Requester) (addr : Nat) (v : Word) : State :=
  match dmAt addr with
  | some a =>
    match s.writeBarred q addr with
    | some t => t
    | none => s.dmWrite a v
  | none => s.writeSpace q addr v

/-- A read of the register space by any requester; a debug read obeys R277. -/
def State.readRegs (s : State) (q : Requester) (addr : Nat) : State :=
  if q = .debug ∧ s.debugBlind addr then (s.denyDebug addr).answerErr .debug .busError
  else match dmAt addr with
    | some a => if q = .host then s.answer q 0 else s.dmRead q a
    | none => s.readSpace q addr

/-! Commands. -/

/-- The MPU of a hart. -/
def hartMpu (pair : Nat) (second : Bool) : Nat := 2 * pair + ofBool second

/-- The privilege of a core access. -/
def privOf (p : Priv) : AccPriv :=
  match p with
  | .machine => .machine
  | .supervisor => .supervisor
  | .user => .user

/-- Kind of an access by its code. -/
def accKind (k : Nat) : AccKind := if k = 0 then .fetch else if k = 1 then .load else .store

/-- The cause of an access-fault exception (R270). -/
def faultCause (k : AccKind) : Nat :=
  match k with
  | .fetch => 1 | .load => 5 | .store => 7

/-- A hart that runs: its pair powered, in lockstep or split, not lost and not halted (R255, R263). -/
def State.coreRuns (s : State) (pair : Nat) (second : Bool) : Bool :=
  let p := s.pair pair
  decide (pair < 4) && s.powered (pairDomain pair) && (p.state == 1 || (p.state == 0 && !second)) && !p.halted
    && s.unitUp (if second then 4 + pair else pair)

/-- An admitted core access: registers by word, memory by byte; an address with nothing behind it ends in a bus error. -/
def State.coreBus (s : State) (q : Requester) (hart : Nat) (split : Bool) (k : AccKind) (addr size data : Nat) : State :=
  if inRegs addr then
    if badAccess addr size then s.answerErr q .busError
    else if k = .store then s.writeRegs q addr (BitVec.ofNat 32 data) else s.readRegs q addr
  else if (List.range size).all fun i => onBus (addr + i) || inTcm split (addr + i) then
    if k = .store then s.storeBytes hart addr (leBytes size data) else s.answer q (leNat (s.loadBytes hart addr size))
  else s.answerErr q .busError

/-- CORE_ACCESS: `kind` 0 fetch, 1 load, else store; `corrected` when a single-bit TCM or L2 error was corrected on the way (R257, R268 to
R270, R273). -/
def execCoreAccess (pair : Nat) (second : Bool) (priv : Priv) (kind addr size data : Nat) (corrected : Bool) (s : State) : Result :=
  let q := Requester.core pair second priv
  let m := hartMpu pair second
  let split := (s.pair pair).state == 1
  let k := accKind kind
  .next (if s.coreRuns pair second = false then s
    else if (s.mpu m).syncPend ∧ (s.mpu m).own then s.answerErr q .waiting
    else match firstRefused (s.mpuRegions m) split (privOf priv) k maxParts addr (addr + size) with
      | some a =>
        let t := s.mpuFault m a (privOf priv) k
        { t with core := { t.core with exc := some (m, faultCause k, a) } }.answerErr q .accessFault
      | none =>
        let t := if corrected then s.setPair pair fun p => { p with eccCe := satAt 65535 (p.eccCe + 1) } else s
        t.coreBus q m split k addr size data)

/-- DEBUG_ACCESS (R277, R278, R281). -/
def execDebugAccess (write : Bool) (addr : Nat) (v : Word) (s : State) : Result :=
  .next (match dmAt addr, write with
    | some a, true => s.dmWrite a v
    | some a, false => s.dmRead .debug a
    | none, true => s.debugWrite addr v
    | none, false => s.debugRead addr)

/-- DM_COMMAND: an access of a debug-module register (R628). -/
def execDmCommand (write : Bool) (reg : Nat) (v : Word) (s : State) : Result :=
  .next (if write then s.dmWrite reg v else s.dmRead .debug reg)

end Sys2Proof.Machine
end

