-- ==== Sys2Proof/Machine/RegisterAccess.lean ====
section
/-! DEFINITION. The commands of register access: a write, the reads that latch, a refused access, and the block lock
(17_register_map.md, R15 to R19, R117, R118, R142, R615 to R625). -/

namespace Sys2Proof.Machine

/-- A read of register r by a requester: the lowest word of what it latches. -/
def State.readOf (s : State) (q : Requester) (r : RegName) (i j : Nat) : State := s.readRegs q (r.addr i j)

/-- REGISTER_WRITE: a write by the access code of every field, and by the register's own rule where it has one. An address that no register
access reaches gets its bus error (R615). -/
def execRegisterWrite (q : Requester) (addr : Nat) (v : Word) (s : State) : Result :=
  .next (if inRegs addr = false ∨ badAccess addr 4 then s.answerErr q (badError q) else s.writeRegs q addr v)

/-- WIDE_READ_LATCH: a read of a word of a wide value (R618). -/
def execWideReadLatch (q : Requester) (addr : Nat) (s : State) : Result :=
  .next (if inRegs addr = false ∨ badAccess addr 4 then s.answerErr q (badError q) else s.readRegs q addr)

/-- ANG_NOW_READ (R117). -/
def execAngNowRead (q : Requester) (s : State) : Result := .next (s.readOf q .angNowLo 0 0)

/-- MAP_READ (R118). -/
def execMapRead (q : Requester) (s : State) : Result := .next (s.readOf q .mapWord 0 0)

/-- PT_NOW_READ (table Other TB and RTC registers, R617). -/
def execPtNowRead (q : Requester) (s : State) : Result := .next (s.readOf q .ptNowNs 0 0)

/-- The calendar registers in the order of their offsets. -/
def calReg (which : Nat) : RegName :=
  match which % 4 with
  | 0 => .calTime | 1 => .calDate | 2 => .locTime | _ => .locDate

/-- CAL_READ_FREEZE (R142). -/
def execCalReadFreeze (q : Requester) (which : Nat) (s : State) : Result := .next (s.readOf q (calReg which) 0 0)

/-- REGISTER_BAD_ACCESS (R615). -/
def execRegisterBadAccess (q : Requester) (addr size : Nat) (s : State) : Result :=
  .next (if inRegs addr ∧ badAccess addr size then s.answerErr q (badError q) else s)

/-- LOCK_OPEN (R621, R622). -/
def execLockOpen (q : Requester) (block key : Nat) (s : State) : Result :=
  .next (if block < 23 then s.writeRegs q (RegName.lock.addr block 0) (BitVec.ofNat 32 (2 ^ 16 * (key % 2 ^ 16) + 1)) else s)

/-- LOCK_CLOSE (R622, R623). -/
def execLockClose (q : Requester) (block key : Nat) (s : State) : Result :=
  .next (if block < 23 then s.writeRegs q (RegName.lock.addr block 0) (BitVec.ofNat 32 (2 ^ 16 * (key % 2 ^ 16))) else s)

/-- LOCK_TIMEOUT: 100 ms after the opening or the last RWL write the lock admitted (R623). -/
def execLockTimeout (block : Nat) (s : State) : Result :=
  .next (if (s.lockOf block).holder.isSome ∧ (s.lockOf block).since + 10000000 ≤ s.tb.csr then
    s.setLock block fun l => { l with holder := none } else s)

end Sys2Proof.Machine
end

