-- ==== Sys2Proof/Machine/Resync.lean ====
section
/-! DEFINITION. Resynchronisation at the returning module: what it takes from each step of the active (05_pair_operation.md, table
Resynchronisation steps, R248 to R250; R6, R51, R57, R108, R124, R133). -/

namespace Sys2Proof.Machine

/-- Step 1: an admitted module goes on to step 2; it compares the active's HELLO itself. -/
def State.takeAdmission (s : State) (ok : Bool) : State :=
  if !ok then s.enterQuarantine .incompatiblePeer
  else
    let t := match s.wb.partner.hello with
      | some h => s.judgeHello h
      | none => s
    if t.sys.mode = .sync then { t with wb := { t.wb with resyncStep := 2 } } else t

/-- Step 2: configuration, program and protection set come into force as at stage 3 (R6, R51, R620), once their signatures are verified. -/
def State.takeConfig (s : State) (cfg : Cfg) (prog : Option ProgImage) (set : Option ProtSet) (dig owner : List Byte) (sigOk : Bool) : State :=
  if !sigOk then s
  else
    let t := s.applyStage3 cfg prog set dig
    { t with sec := { t.sec with owner := owner }, wb := { t.wb with resyncStep := 3 },
             est := { t.est with running := false, modelBad := false, cells := [] } }.startEst

/-- Plant time takes the partner's value: a step forward fires the alarms it passes (R133), and it is UNSET no longer (R123, R124;
notes/assumptions/88.md). -/
def State.takePt (s : State) (pt : PlantTime) : State :=
  let old := s.tb.pt.total
  let l := if old < pt.total then s.passed true old pt.total else []
  let t : State := { s with tb := { s.tb with pt := pt, ptSub := 0 } }
  let t := t.fireAll true pt.total l
  if t.tb.ptState = .unset then t.setPt .freerun else t

/-- Step 3: plant time, the cycle count as it stands (R108) and the angle offset; done when the angle clock is in ACQUIRE or LOCKED. -/
def State.takeTime (s : State) (pt : PlantTime) (ok : Bool) (count off : Nat) (pairOff : Int) : State :=
  let s := if ok then s.takePt pt else s
  let s := (s.setCount count).setReg .angOffset 0 0 (BitVec.ofNat 32 off)
  { s with prg := { s.prg with pairOffset := pairOff },
           wb := { s.wb with resyncStep := if s.tb.angState = .acquire ∨ s.tb.angState = .locked then 4 else 3 } }

/-- The submissions that the own journal remembered give way to those of the journal taken (R60, R64, R177). -/
def State.takeJournal (s : State) (l : List JEntry) : State :=
  let qs := s.hq.queues.map fun (q : Queue) => { q with submitted := [], lowestSubmit := 0 }
  let wb := { s.wb with journal := l, jsn := (l.getLast?.map (·.jsn)).getD 0, journalBytes := journalLength l, applied := [], early := [] }
  { s with hq := { s.hq with queues := qs, work := [] }, wb := wb }.rememberAll l

/-- The estimator state of the active (R418). -/
def takeEst (e : EstSt) (c : EstCopy) : EstSt :=
  { e with cells := c.cells, epoch := c.epoch, ringEpoch := c.ringEpoch, paramEpoch := c.paramEpoch, lastQ := c.lastQ, resets := c.resets,
           parSnap := c.parSnap, sumSnap := c.sumSnap, sumFirst := c.sumFirst, plans := c.plans, outlierDay := c.outlierDay }

/-- One message of the active in SYNC. -/
def State.takeStep (s : State) (m : ResyncMsg) : State :=
  match m with
  | .admission ok => s.takeAdmission ok
  | .config cfg prog set dig owner sigOk => s.takeConfig cfg prog set dig owner sigOk
  | .time pt ok count off pairOff => s.takeTime pt ok count off pairOff
  | .cut boundary journal items forces tasks gen slots groups stages friction ripple est streams cyclic served =>
    let s := s.takeJournal journal
    let s := { s with prg := { s.prg with items := items, forces := forces, tasks := tasks, cycle := boundary },
                      loop := { s.loop with slots := slots, groups := groups, stages := stages, friction := friction, ripple := ripple },
                      est := takeEst s.est est,
                      wb := { s.wb with resyncStep := 5, streams := streams, cyclic := cyclic, served := served, cycle := boundary } }
    (s.seeGen gen).keepEpochs
  | .live jsn =>
    let s := s.sendWb (.journalAck s.wb.gen s.wb.jsn)
    if jsn ≤ s.wb.jsn then { s with wb := { s.wb with resyncStep := 6, resyncProg := 0 } } else s
  | .follow _ => s.sendWb (.resync (.follow s.wb.resyncProg))
  | .standby =>
    if s.wb.resyncProg < 1000 ∨ s.wb.resyncStep ≠ 6 then s
    else if s.pwr.holdupOk = false then { s with wb := { s.wb with resyncProg := 1000 } }
    else
      let shadow := s.wb.resynced.isSome
      let s := { s with wb := { s.wb with resyncStep := 0, resynced := if shadow then some s.prg.cycle else none, mismatches := [] },
                        upd := { s.upd with resyncDone := true } }
      (((s.setMode .standby).record .resyncDone [s.wb.jsn]).safeIfLost).stopServing

/-- RESYNC_RX (R248): content at the returning module, progress at the active. -/
def execResyncRx (crcOk : Bool) (gen : Nat) (m : ResyncMsg) (s : State) : Result :=
  s.fromPartner crcOk gen fun s =>
    if s.sys.mode = .sync then s.takeStep m
    else match m with
      | .follow n => if s.holds then { s with wb := { s.wb with resyncProg := min n 1000 } } else s
      | _ => s

end Sys2Proof.Machine
end

