-- ==== Sys2Proof/Machine/Dispatch.lean ====
section
/-! DEFINITION. One arm per command: its meaning on everything but the queue. -/

namespace Sys2Proof.Machine

def exec (i : Instr) (s : State) : Host.Outcome State Fault Refusal :=
  match i with
  | .registerWrite q addr v => Sys2Proof.Machine.execRegisterWrite q addr v s
  | .wideReadLatch q addr => Sys2Proof.Machine.execWideReadLatch q addr s
  | .angNowRead q => Sys2Proof.Machine.execAngNowRead q s
  | .mapRead q => Sys2Proof.Machine.execMapRead q s
  | .ptNowRead q => Sys2Proof.Machine.execPtNowRead q s
  | .calReadFreeze q which => Sys2Proof.Machine.execCalReadFreeze q which s
  | .registerBadAccess q addr size => Sys2Proof.Machine.execRegisterBadAccess q addr size s
  | .lockOpen q block key => Sys2Proof.Machine.execLockOpen q block key s
  | .lockClose q block key => Sys2Proof.Machine.execLockClose q block key s
  | .lockTimeout block => Sys2Proof.Machine.execLockTimeout block s
  | .longOpStep w total last => Sys2Proof.Machine.execLongOpStep w total last s
  | .opComplete tag => Sys2Proof.Machine.execOpComplete tag s
  | .tagGrant issuer => Sys2Proof.Machine.execTagGrant issuer s
  | .unitLost u => Sys2Proof.Machine.execUnitLost u s
  | .unitRestored u => Sys2Proof.Machine.execUnitRestored u s
  | .inputStale inp => Sys2Proof.Machine.execInputStale inp s
  | .insertion prechargeMv => Sys2Proof.Machine.execInsertion prechargeMv s
  | .strapRead selA selB carrier => Sys2Proof.Machine.execStrapRead selA selB carrier s
  | .holdupMeasure found => Sys2Proof.Machine.execHoldupMeasure found s
  | .holdupLost volt => Sys2Proof.Machine.execHoldupLost volt s
  | .holdupRestored volt => Sys2Proof.Machine.execHoldupRestored volt s
  | .feedLost b volt => Sys2Proof.Machine.execFeedLost b volt s
  | .feedRestored b volt => Sys2Proof.Machine.execFeedRestored b volt s
  | .powerFail goodFor1ms dipUs => Sys2Proof.Machine.execPowerFail goodFor1ms dipUs s
  | .powerFailFlushDone => Sys2Proof.Machine.execPowerFailFlushDone s
  | .presentLost => Sys2Proof.Machine.execPresentLost s
  | .ejectReq => Sys2Proof.Machine.execEjectReq s
  | .pullOk => Sys2Proof.Machine.execPullOk s
  | .leverReturn => Sys2Proof.Machine.execLeverReturn s
  | .angSrcLost => Sys2Proof.Machine.execAngSrcLost s
  | .angFallback freq d => Sys2Proof.Machine.execAngFallback freq d s
  | .angSrcReturn freq d => Sys2Proof.Machine.execAngSrcReturn freq d s
  | .angLocked => Sys2Proof.Machine.execAngLocked s
  | .angSrcSwitch q v freq d => Sys2Proof.Machine.execAngSrcSwitch q v freq d s
  | .slewDone => Sys2Proof.Machine.execSlewDone s
  | .cycleBoundary src => Sys2Proof.Machine.execCycleBoundary src s
  | .mapRecord => Sys2Proof.Machine.execMapRecord s
  | .cycleSeed src => Sys2Proof.Machine.execCycleSeed src s
  | .ptpSyncRx f offset => Sys2Proof.Machine.execPtpSyncRx f offset s
  | .ptpAnnounceRx f master utc => Sys2Proof.Machine.execPtpAnnounceRx f master utc s
  | .ptMasterLost => Sys2Proof.Machine.execPtMasterLost s
  | .ptSoftStep q v => Sys2Proof.Machine.execPtSoftStep q v s
  | .frameLaunch id => Sys2Proof.Machine.execFrameLaunch id s
  | .alarmArm q n v => Sys2Proof.Machine.execAlarmArm q n v s
  | .alarmDisarm q n v => Sys2Proof.Machine.execAlarmDisarm q n v s
  | .alarmFire n => Sys2Proof.Machine.execAlarmFire n s
  | .calDateStage q v => Sys2Proof.Machine.execCalDateStage q v s
  | .calCommit q v => Sys2Proof.Machine.execCalCommit q v s
  | .calTick => Sys2Proof.Machine.execCalTick s
  | .rtcTrimUpdate temp => Sys2Proof.Machine.execRtcTrimUpdate temp s
  | .backupMeasure volt weak => Sys2Proof.Machine.execBackupMeasure volt weak s
  | .backupSwitchover => Sys2Proof.Machine.execBackupSwitchover s
  | .rtcLost retention => Sys2Proof.Machine.execRtcLost retention s
  | .calendarAlarm => Sys2Proof.Machine.execCalendarAlarm s
  | .ringClaim q n v => Sys2Proof.Machine.execRingClaim q n v s
  | .ringRelease q n v => Sys2Proof.Machine.execRingRelease q n v s
  | .queueEnable q n v => Sys2Proof.Machine.execQueueEnable q n v s
  | .queueDisable q n v => Sys2Proof.Machine.execQueueDisable q n v s
  | .hqKick q v => Sys2Proof.Machine.execHqKick q v s
  | .doorbellPoll => Sys2Proof.Machine.execDoorbellPoll s
  | .ringFetch => Sys2Proof.Machine.execRingFetch s
  | .ringErrClear q n => Sys2Proof.Machine.execRingErrClear q n s
  | .descIssue ring => Sys2Proof.Machine.execDescIssue ring s
  | .nop w => Sys2Proof.Machine.execNop w s
  | .abort w => Sys2Proof.Machine.execAbort w s
  | .drain w => Sys2Proof.Machine.execDrain w s
  | .timedDescDue w => Sys2Proof.Machine.execTimedDescDue w s
  | .shadowPairComplete ring submitId => Sys2Proof.Machine.execShadowPairComplete ring submitId s
  | .queuePtrReset n pointer ownCopyOk partnerCopyOk => Sys2Proof.Machine.execQueuePtrReset n pointer ownCopyOk partnerCopyOk s
  | .queueStale n => Sys2Proof.Machine.execQueueStale n s
  | .wordPacketDone n type trunc bytes => Sys2Proof.Machine.execWordPacketDone n type trunc bytes s
  | .portRead q n => Sys2Proof.Machine.execPortRead q n s
  | .legacyPopRead q n => Sys2Proof.Machine.execLegacyPopRead q n s
  | .legacyPopTimeout n => Sys2Proof.Machine.execLegacyPopTimeout n s
  | .evtRouteWrite q src v => Sys2Proof.Machine.execEvtRouteWrite q src v s
  | .evtPendClear q k v => Sys2Proof.Machine.execEvtPendClear q k v s
  | .evtSoft q v => Sys2Proof.Machine.execEvtSoft q v s
  | .evtHostEoi q v => Sys2Proof.Machine.execEvtHostEoi q v s
  | .evtHostMaskWrite q v => Sys2Proof.Machine.execEvtHostMaskWrite q v s
  | .msixMaskWrite vec mask => Sys2Proof.Machine.execMsixMaskWrite vec mask s
  | .msixMessage src => Sys2Proof.Machine.execMsixMessage src s
  | .hostLinkUp => Sys2Proof.Machine.execHostLinkUp s
  | .hostPortReset => Sys2Proof.Machine.execHostPortReset s
  | .heartbeatTx => Sys2Proof.Machine.execHeartbeatTx s
  | .heartbeatRx crcOk hb => Sys2Proof.Machine.execHeartbeatRx crcOk hb s
  | .heartbeatMissed => Sys2Proof.Machine.execHeartbeatMissed s
  | .helloTx => Sys2Proof.Machine.execHelloTx s
  | .helloRx crcOk gen h => Sys2Proof.Machine.execHelloRx crcOk gen h s
  | .manifestRx crcOk msgSeq m => Sys2Proof.Machine.execManifestRx crcOk msgSeq m s
  | .fetchRx crcOk gen f => Sys2Proof.Machine.execFetchRx crcOk gen f s
  | .fetchDataRx crcOk gen e content checkOk => Sys2Proof.Machine.execFetchDataRx crcOk gen e content checkOk s
  | .followerCycleStart task distUs => Sys2Proof.Machine.execFollowerCycleStart task distUs s
  | .outputDigestRx crcOk gen cycle digests => Sys2Proof.Machine.execOutputDigestRx crcOk gen cycle digests s
  | .journalRx crcOk msgSeq gen solo entries => Sys2Proof.Machine.execJournalRx crcOk msgSeq gen solo entries s
  | .journalAckRx crcOk gen jsn => Sys2Proof.Machine.execJournalAckRx crcOk gen jsn s
  | .journalStall => Sys2Proof.Machine.execJournalStall s
  | .journalStreamWrite bytes => Sys2Proof.Machine.execJournalStreamWrite bytes s
  | .checkpointWrite => Sys2Proof.Machine.execCheckpointWrite s
  | .orderedSend stream payload => Sys2Proof.Machine.execOrderedSend stream payload s
  | .streamAckRx stream epoch seq reason => Sys2Proof.Machine.execStreamAckRx stream epoch seq reason s
  | .ordAckTimeout stream => Sys2Proof.Machine.execOrdAckTimeout stream s
  | .ordAckJournal stream => Sys2Proof.Machine.execOrdAckJournal stream s
  | .renewTx => Sys2Proof.Machine.execRenewTx s
  | .refereeReplyTimeout => Sys2Proof.Machine.execRefereeReplyTimeout s
  | .grantRx checkOk seq gen termUs => Sys2Proof.Machine.execGrantRx checkOk seq gen termUs s
  | .denyRx checkOk seq rstatus holder gen => Sys2Proof.Machine.execDenyRx checkOk seq rstatus holder gen s
  | .statusRx checkOk seq holder gen bootEpoch => Sys2Proof.Machine.execStatusRx checkOk seq holder gen bootEpoch s
  | .probeTx => Sys2Proof.Machine.execProbeTx s
  | .requestRepeat => Sys2Proof.Machine.execRequestRepeat s
  | .leaseExpiry => Sys2Proof.Machine.execLeaseExpiry s
  | .consentAskRx crcOk gen termUs => Sys2Proof.Machine.execConsentAskRx crcOk gen termUs s
  | .consentGiveRx crcOk gen termUs => Sys2Proof.Machine.execConsentGiveRx crcOk gen termUs s
  | .consentRefuseRx crcOk gen => Sys2Proof.Machine.execConsentRefuseRx crcOk gen s
  | .consentLapse => Sys2Proof.Machine.execConsentLapse s
  | .leaseWdWrite q v => Sys2Proof.Machine.execLeaseWdWrite q v s
  | .fenceWdExpiry => Sys2Proof.Machine.execFenceWdExpiry s
  | .handoverPlan q v => Sys2Proof.Machine.execHandoverPlan q v s
  | .plannedHandoverStart => Sys2Proof.Machine.execPlannedHandoverStart s
  | .handoverOfferRx crcOk gen jsn => Sys2Proof.Machine.execHandoverOfferRx crcOk gen jsn s
  | .handoverReadyRx crcOk gen => Sys2Proof.Machine.execHandoverReadyRx crcOk gen s
  | .handoverGoRx crcOk gen => Sys2Proof.Machine.execHandoverGoRx crcOk gen s
  | .handoverDoneRx crcOk gen => Sys2Proof.Machine.execHandoverDoneRx crcOk gen s
  | .handoverAbandonRx crcOk gen => Sys2Proof.Machine.execHandoverAbandonRx crcOk gen s
  | .handoverReadyTimeout => Sys2Proof.Machine.execHandoverReadyTimeout s
  | .powerFailNoticeRx crcOk gen jsn => Sys2Proof.Machine.execPowerFailNoticeRx crcOk gen jsn s
  | .resyncRx crcOk gen m => Sys2Proof.Machine.execResyncRx crcOk gen m s
  | .resyncStep ok => Sys2Proof.Machine.execResyncStep ok s
  | .wbLaneDown l => Sys2Proof.Machine.execWbLaneDown l s
  | .drillDue => Sys2Proof.Machine.execDrillDue s
  | .drillDwellEnd => Sys2Proof.Machine.execDrillDwellEnd s
  | .refereeMsgRx m checkOk same => Sys2Proof.Machine.execRefereeMsgRx m checkOk same s
  | .refereeStartupHoldEnd => Sys2Proof.Machine.execRefereeStartupHoldEnd s
  | .lockstepMismatch pair cause port v1 v2 pc => Sys2Proof.Machine.execLockstepMismatch pair cause port v1 v2 pc s
  | .comparatorSelftest pair detected => Sys2Proof.Machine.execComparatorSelftest pair detected s
  | .coreSelftestDone pair pass => Sys2Proof.Machine.execCoreSelftestDone pair pass s
  | .coreAccess pair second priv kind addr size data corrected => Sys2Proof.Machine.execCoreAccess pair second priv kind addr size data corrected s
  | .mpuSync q m => Sys2Proof.Machine.execMpuSync q m s
  | .mpuSyncDone m => Sys2Proof.Machine.execMpuSyncDone m s
  | .mpuDrainDone m => Sys2Proof.Machine.execMpuDrainDone m s
  | .debugAccess write addr v => Sys2Proof.Machine.execDebugAccess write addr v s
  | .debugHalt pair => Sys2Proof.Machine.execDebugHalt pair s
  | .dmCommand write reg v => Sys2Proof.Machine.execDmCommand write reg v s
  | .debugTokenGo q => Sys2Proof.Machine.execDebugTokenGo q s
  | .debugRelock q => Sys2Proof.Machine.execDebugRelock q s
  | .debugUnlockExpiry => Sys2Proof.Machine.execDebugUnlockExpiry s
  | .cycleStart cycleUs => Sys2Proof.Machine.execCycleStart cycleUs s
  | .task0End writes calls => Sys2Proof.Machine.execTask0End writes calls s
  | .taskRelease t di ai => Sys2Proof.Machine.execTaskRelease t di ai s
  | .taskReleaseEnd t writes calls => Sys2Proof.Machine.execTaskReleaseEnd t writes calls s
  | .stationReplyRx station pairId mac echo points => Sys2Proof.Machine.execStationReplyRx station pairId mac echo points s
  | .scanTimeout di ai => Sys2Proof.Machine.execScanTimeout di ai s
  | .restart w => Sys2Proof.Machine.execRestart w s
  | .instarPrepare w img memOk runtimeOk typesOk => Sys2Proof.Machine.execInstarPrepare w img memOk runtimeOk typesOk s
  | .instarLoad w => Sys2Proof.Machine.execInstarLoad w s
  | .instarBind w => Sys2Proof.Machine.execInstarBind w s
  | .instarSwitch w => Sys2Proof.Machine.execInstarSwitch w s
  | .instarConfirm w => Sys2Proof.Machine.execInstarConfirm w s
  | .instarAbandon w => Sys2Proof.Machine.execInstarAbandon w s
  | .instarConfirmExpiry => Sys2Proof.Machine.execInstarConfirmExpiry s
  | .forceSet w => Sys2Proof.Machine.execForceSet w s
  | .forceRemove w => Sys2Proof.Machine.execForceRemove w s
  | .forceList w => Sys2Proof.Machine.execForceList w s
  | .loopSample slot stamp late skips => Sys2Proof.Machine.execLoopSample slot stamp late skips s
  | .loopBundleTx window ai => Sys2Proof.Machine.execLoopBundleTx window ai s
  | .slotWrite w => Sys2Proof.Machine.execSlotWrite w s
  | .slotEnable w => Sys2Proof.Machine.execSlotEnable w s
  | .setTarget w => Sys2Proof.Machine.execSetTarget w s
  | .groupWrite w => Sys2Proof.Machine.execGroupWrite w s
  | .outWrite w => Sys2Proof.Machine.execOutWrite w s
  | .tableLoad w => Sys2Proof.Machine.execTableLoad w s
  | .slotRead w => Sys2Proof.Machine.execSlotRead w s
  | .strobeLaunch ring => Sys2Proof.Machine.execStrobeLaunch ring s
  | .sampleRx ring pos crcOk smp => Sys2Proof.Machine.execSampleRx ring pos crcOk smp s
  | .sampleTimeout ring pos => Sys2Proof.Machine.execSampleTimeout ring pos s
  | .sweepPartDone ring us => Sys2Proof.Machine.execSweepPartDone ring us s
  | .halfRingRx crcOk gen b => Sys2Proof.Machine.execHalfRingRx crcOk gen b s
  | .halfRingTimeout ring => Sys2Proof.Machine.execHalfRingTimeout ring s
  | .breakRx ring pos sideB => Sys2Proof.Machine.execBreakRx ring pos sideB s
  | .ringInputDown ring => Sys2Proof.Machine.execRingInputDown ring s
  | .ringInputUp ring => Sys2Proof.Machine.execRingInputUp ring s
  | .breakHeal ring => Sys2Proof.Machine.execBreakHeal ring s
  | .alarmSymbolRx ring => Sys2Proof.Machine.execAlarmSymbolRx ring s
  | .alarmFrameRx ring pos cause channel reading epoch => Sys2Proof.Machine.execAlarmFrameRx ring pos cause channel reading epoch s
  | .alarmUnnamed ring => Sys2Proof.Machine.execAlarmUnnamed ring s
  | .commandWindow ring => Sys2Proof.Machine.execCommandWindow ring s
  | .nodeAckRx ring pos cseq gen8 result readings => Sys2Proof.Machine.execNodeAckRx ring pos cseq gen8 result readings s
  | .nodeAckTimeout ring pos => Sys2Proof.Machine.execNodeAckTimeout ring pos s
  | .echoCheck ring => Sys2Proof.Machine.execEchoCheck ring s
  | .latchRemeasure ring => Sys2Proof.Machine.execLatchRemeasure ring s
  | .echoReplyRx ring pos rttNs => Sys2Proof.Machine.execEchoReplyRx ring pos rttNs s
  | .idRx ring pos nodeId ntype cells hopA hopB => Sys2Proof.Machine.execIdRx ring pos nodeId ntype cells hopA hopB s
  | .tapTestAuto ring => Sys2Proof.Machine.execTapTestAuto ring s
  | .ringEnumerate w hops answered => Sys2Proof.Machine.execRingEnumerate w hops answered s
  | .nodeCmd w => Sys2Proof.Machine.execNodeCmd w s
  | .sweepCopy w => Sys2Proof.Machine.execSweepCopy w s
  | .tapTest w => Sys2Proof.Machine.execTapTest w s
  | .diagRead w body => Sys2Proof.Machine.execDiagRead w body s
  | .strobeUpdate ring epoch arrayUs => Sys2Proof.Machine.execStrobeUpdate ring epoch arrayUs s
  | .quantityPublish epoch => Sys2Proof.Machine.execQuantityPublish epoch s
  | .paramUpdate epoch => Sys2Proof.Machine.execParamUpdate epoch s
  | .summary epoch => Sys2Proof.Machine.execSummary epoch s
  | .balancingPlan epoch => Sys2Proof.Machine.execBalancingPlan epoch s
  | .cocoonCheckSweep ring hours => Sys2Proof.Machine.execCocoonCheckSweep ring hours s
  | .cocoonWake cause => Sys2Proof.Machine.execCocoonWake cause s
  | .cellRead w => Sys2Proof.Machine.execCellRead w s
  | .cellReset w => Sys2Proof.Machine.execCellReset w s
  | .historyRead w => Sys2Proof.Machine.execHistoryRead w s
  | .lifetimeRead w => Sys2Proof.Machine.execLifetimeRead w s
  | .planRead w => Sys2Proof.Machine.execPlanRead w s
  | .missLimit string => Sys2Proof.Machine.execMissLimit string s
  | .missTrip string => Sys2Proof.Machine.execMissTrip string s
  | .protNoticeRx crcOk gen groups cause ring pos channel epoch => Sys2Proof.Machine.execProtNoticeRx crcOk gen groups cause ring pos channel epoch s
  | .auxConfirmTimeout g => Sys2Proof.Machine.execAuxConfirmTimeout g s
  | .protFrameTx => Sys2Proof.Machine.execProtFrameTx s
  | .gooseRetransmit => Sys2Proof.Machine.execGooseRetransmit s
  | .protStage w => Sys2Proof.Machine.execProtStage w s
  | .protCommit w => Sys2Proof.Machine.execProtCommit w s
  | .protDiscard w => Sys2Proof.Machine.execProtDiscard w s
  | .protReset w => Sys2Proof.Machine.execProtReset w s
  | .protTest w ownOff partnerOff confirmOpen => Sys2Proof.Machine.execProtTest w ownOff partnerOff confirmOpen s
  | .protRead w => Sys2Proof.Machine.execProtRead w s
  | .dspReport => Sys2Proof.Machine.execDspReport s
  | .dspAlloc => Sys2Proof.Machine.execDspAlloc s
  | .setpointFrameRx sp epoch seq => Sys2Proof.Machine.execSetpointFrameRx sp epoch seq s
  | .dspFallback => Sys2Proof.Machine.execDspFallback s
  | .dspFfr => Sys2Proof.Machine.execDspFfr s
  | .dspPlantSet w => Sys2Proof.Machine.execDspPlantSet w s
  | .dspWorkerEnable w => Sys2Proof.Machine.execDspWorkerEnable w s
  | .fieldSupplyLost privileged volt => Sys2Proof.Machine.execFieldSupplyLost privileged volt s
  | .fieldSupplyGood privileged volt => Sys2Proof.Machine.execFieldSupplyGood privileged volt s
  | .diFilterChange n level stamp => Sys2Proof.Machine.execDiFilterChange n level stamp s
  | .doFault n high atLimit => Sys2Proof.Machine.execDoFault n high atLimit s
  | .darkTest n => Sys2Proof.Machine.execDarkTest n s
  | .darkTestEnd n fellLow alsoFell => Sys2Proof.Machine.execDarkTestEnd n fellLow alsoFell s
  | .doShort n => Sys2Proof.Machine.execDoShort n s
  | .doRetry n stillShort => Sys2Proof.Machine.execDoRetry n stillShort s
  | .doReset w => Sys2Proof.Machine.execDoReset w s
  | .aiOverload n => Sys2Proof.Machine.execAiOverload n s
  | .aiOverloadRetry n current => Sys2Proof.Machine.execAiOverloadRetry n current s
  | .aoOpen n => Sys2Proof.Machine.execAoOpen n s
  | .aoOpenEnd n => Sys2Proof.Machine.execAoOpenEnd n s
  | .aoCompliance n headroom => Sys2Proof.Machine.execAoCompliance n headroom s
  | .aoComplianceEnd n headroom => Sys2Proof.Machine.execAoComplianceEnd n headroom s
  | .makeupStart n => Sys2Proof.Machine.execMakeupStart n s
  | .makeupEnd n => Sys2Proof.Machine.execMakeupEnd n s
  | .gsOverrange ovr => Sys2Proof.Machine.execGsOverrange ovr s
  | .calEnable q v => Sys2Proof.Machine.execCalEnable q v s
  | .selKeyPress => Sys2Proof.Machine.execSelKeyPress s
  | .selKeyHold => Sys2Proof.Machine.execSelKeyHold s
  | .calKeyPress => Sys2Proof.Machine.execCalKeyPress s
  | .calKeyHold => Sys2Proof.Machine.execCalKeyHold s
  | .hartCmd w reply => Sys2Proof.Machine.execHartCmd w reply s
  | .aoTrim w => Sys2Proof.Machine.execAoTrim w s
  | .canRx port f => Sys2Proof.Machine.execCanRx port f s
  | .canTxComplete port sent err => Sys2Proof.Machine.execCanTxComplete port sent err s
  | .canBusOff port => Sys2Proof.Machine.execCanBusOff port s
  | .canRecoverWrite q port v => Sys2Proof.Machine.execCanRecoverWrite q port v s
  | .canRecover w => Sys2Proof.Machine.execCanRecover w s
  | .canRecoveryDone port => Sys2Proof.Machine.execCanRecoveryDone port s
  | .canSleep q port v => Sys2Proof.Machine.execCanSleep q port v s
  | .canWake port => Sys2Proof.Machine.execCanWake port s
  | .canSend w => Sys2Proof.Machine.execCanSend w s
  | .canFilter w => Sys2Proof.Machine.execCanFilter w s
  | .netSend w => Sys2Proof.Machine.execNetSend w s
  | .gateLoad w => Sys2Proof.Machine.execGateLoad w s
  | .gateListSwitch port => Sys2Proof.Machine.execGateListSwitch port s
  | .netPortDown port => Sys2Proof.Machine.execNetPortDown port s
  | .netModuleRefused port => Sys2Proof.Machine.execNetModuleRefused port s
  | .supervisionTx => Sys2Proof.Machine.execSupervisionTx s
  | .svSampleRx datasetOk qualityOk globalSync smpCnt per256 => Sys2Proof.Machine.execSvSampleRx datasetOk qualityOk globalSync smpCnt per256 s
  | .mgmtOpen authOk => Sys2Proof.Machine.execMgmtOpen authOk s
  | .mgmtClose => Sys2Proof.Machine.execMgmtClose s
  | .svcLinkChange up => Sys2Proof.Machine.execSvcLinkChange up s
  | .wakeFrameRx etype w0 w1 => Sys2Proof.Machine.execWakeFrameRx etype w0 w1 s
  | .dramUe addr user => Sys2Proof.Machine.execDramUe addr user s
  | .dramCeHigh count => Sys2Proof.Machine.execDramCeHigh count s
  | .dramPatrolLap minutes => Sys2Proof.Machine.execDramPatrolLap minutes s
  | .scrubLap hours reads => Sys2Proof.Machine.execScrubLap hours reads s
  | .bootSlotVerify ok0 ok1 ok2 => Sys2Proof.Machine.execBootSlotVerify ok0 ok1 ok2 s
  | .counterFlush => Sys2Proof.Machine.execCounterFlush s
  | .logRecord code sev source body => Sys2Proof.Machine.execLogRecord code sev source body s
  | .recorderFlush => Sys2Proof.Machine.execRecorderFlush s
  | .nvsRead w reads => Sys2Proof.Machine.execNvsRead w reads s
  | .nvsWrite w => Sys2Proof.Machine.execNvsWrite w s
  | .nvsErase w => Sys2Proof.Machine.execNvsErase w s
  | .nvsCounters w => Sys2Proof.Machine.execNvsCounters w s
  | .logWrite w => Sys2Proof.Machine.execLogWrite w s
  | .logExport w => Sys2Proof.Machine.execLogExport w s
  | .logClear w => Sys2Proof.Machine.execLogClear w s
  | .secAttest w => Sys2Proof.Machine.execSecAttest w s
  | .secVerify w => Sys2Proof.Machine.execSecVerify w s
  | .secOwner w => Sys2Proof.Machine.execSecOwner w s
  | .updPrepare w trial => Sys2Proof.Machine.execUpdPrepare w trial s
  | .updActivate w => Sys2Proof.Machine.execUpdActivate w s
  | .updActivateDue => Sys2Proof.Machine.execUpdActivateDue s
  | .updConfirm w => Sys2Proof.Machine.execUpdConfirm w s
  | .updAutoConfirm => Sys2Proof.Machine.execUpdAutoConfirm s
  | .updAbandon w => Sys2Proof.Machine.execUpdAbandon w s
  | .updConfirmExpiry => Sys2Proof.Machine.execUpdConfirmExpiry s
  | .bootStart ok0 ok1 ok2 => Sys2Proof.Machine.execBootStart ok0 ok1 ok2 s
  | .bootStageVerified stage digest s3 rebuilt flushMarker lost => Sys2Proof.Machine.execBootStageVerified stage digest s3 rebuilt flushMarker lost s
  | .bootWatchdog => Sys2Proof.Machine.execBootWatchdog s
  | .peerWaitExpiry => Sys2Proof.Machine.execPeerWaitExpiry s
  | .restartReset cause => Sys2Proof.Machine.execRestartReset cause s
  | .sysRestart q v => Sys2Proof.Machine.execSysRestart q v s
  | .sysEnterService q v => Sys2Proof.Machine.execSysEnterService q v s
  | .safeHoldExitWarm q v => Sys2Proof.Machine.execSafeHoldExitWarm q v s
  | .safeHoldExitCold q v => Sys2Proof.Machine.execSafeHoldExitCold q v s
  | .plantStartColdSet q v => Sys2Proof.Machine.execPlantStartColdSet q v s
  | .plantStartColdClear q v => Sys2Proof.Machine.execPlantStartColdClear q v s
  | .configStop q v => Sys2Proof.Machine.execConfigStop q v s
  | .cocoonEnter w => Sys2Proof.Machine.execCocoonEnter w s
  | .cocoonPlanTimeout => Sys2Proof.Machine.execCocoonPlanTimeout s
  | .cocoonResume digestOk => Sys2Proof.Machine.execCocoonResume digestOk s
  | .cocoonRequestTimeout => Sys2Proof.Machine.execCocoonRequestTimeout s
  | .moduleOvertemp inlet => Sys2Proof.Machine.execModuleOvertemp inlet s
  | .powerOnReset => Sys2Proof.Machine.execPowerOnReset s
  | .partnerPresentChange present => Sys2Proof.Machine.execPartnerPresentChange present s
  | .wbLaneUp l => Sys2Proof.Machine.execWbLaneUp l s
  | .netPortUp port tenGig => Sys2Proof.Machine.execNetPortUp port tenGig s
  | .hostLinkDown => Sys2Proof.Machine.execHostLinkDown s
  | .workerReportRx r stream epoch seq => Sys2Proof.Machine.execWorkerReportRx r stream epoch seq s
  | .hsrFrameRx port src dst id forUs multicast frame => Sys2Proof.Machine.execHsrFrameRx port src dst id forUs multicast frame s
  | .aoSelfTestFail n => Sys2Proof.Machine.execAoSelfTestFail n s
  | .faultFlashEnd => Sys2Proof.Machine.execFaultFlashEnd s

end Sys2Proof.Machine
end

