-- ==== Sys2Proof/Safety.lean ====
section
/-! DEFINITION. What counts as a safe state and a safe step of the block, in the terms the statements use. -/

namespace Sys2Proof.Machine

/-- The cores' address space and the NAND data store stand in their canonical form. -/
def State.memOk (s : State) : Bool := Memory.wf s.mem && Memory.wf s.nvs.data

/-- REF_FENCE is high only while the lease logic toggles it and the mode allows it (R220, R629). -/
def State.fenceOk (s : State) : Bool := s.wb.fenced || (s.wb.wdAlive && s.fenceAllowed)

/-- What is fused or built into the module. -/
def State.fused (s : State) : Nat × Nat × Nat × Nat × Nat × Nat × List Byte × List Byte :=
  (s.sec.serial, s.sys.variant, s.sys.siliconRev, s.sys.boardRev, s.sys.bomRev, s.sys.pciVendor, s.sec.devKey, s.sec.devCert)

/-- A state every part of which is in order. -/
def State.safe (s : State) : Bool := s.memOk && s.fenceOk

/-- Address `a` lies in the live window of the recorder (R559). -/
def State.inLive (s : State) (a : Nat) : Bool := inDram s.liveBase && decide (s.liveBase ≤ a ∧ a < s.liveBase + 4194304)

/-- A message of the host port (R193). -/
def Out.toHost (o : Out) : Bool := match o with
  | .msix _ => true
  | _ => false

/-- `t` is `u` but for what the recorder and the event unit keep: the FAULT indicator, the record buffer and its live window, the event
sources, and messages sent. Nothing is sent but to the host, and memory outside the live window reads as before. -/
structure Reports (u t : State) : Prop where
  frame : t = { u with sys := { u.sys with faultFlash := t.sys.faultFlash, faultAt := t.sys.faultAt }, evt := t.evt, log := t.log, mem := t.mem, out := t.out }
  host : t.evt.msixMask = u.evt.msixMask ∧ t.evt.hostLink = u.evt.hostLink
  sent : t.out.filter (fun o => !o.toHost) = u.out.filter (fun o => !o.toHost)
  form : Memory.wf u.mem = true → Memory.wf t.mem = true
  live : Memory.wf u.mem = true → ∀ a, u.inLive a = false → Memory.read t.mem a = Memory.read u.mem a

/-- `t` is `u` after exactly the records `recs`, in their order, and with exactly the event sources `evs` newly raised. -/
structure Says (u : State) (recs : List (RecName × List Nat)) (evs : List Nat) (t : State) : Prop extends Reports u t where
  log : t.log = (recs.foldl (fun s (r : RecName × List Nat) => s.record r.1 r.2) u).log
  events : ∀ k, t.isPending k = (u.isPending k || evs.any fun e => decide (e = k))

/-- `t` is `u` with a message sent. -/
def Sends (u : State) (o : Out) (t : State) : Prop := t = { u with out := u.out ++ [o] }

/-- An outcome that goes on. -/
def goesOn (r : Result) : Bool := match r with
  | .next _ => true
  | .fault _ | .refused _ => false

/-- An operation of an engine that a command may carry out: it is named by the command, of this engine, with this opcode. -/
def State.ready (s : State) (w : WorkRef) (engine opcode : Nat) (op : Op) : Prop :=
  s.opOf w = some op ∧ op.engine = engine ∧ dOpcode op.bytes = opcode

/-- Program work that this holder may apply now: named by `w`, of an opcode of the program engine, covered by the cycle's cut, with no
program work of a lower JSN waiting (R202, R297). -/
def State.due (s : State) (w : WorkRef) (opcode : Nat) (op : Op) : Prop :=
  s.holds = true ∧ s.ready w 10 opcode op ∧ ∃ j, op.jsn = some j ∧ j ≤ s.wb.covered ∧ s.earlierWork j = false

/-- Task `t` stays on its pair, which is healthy in lockstep (R287). -/
def State.settled (s : State) (t : Nat) : Prop :=
  t < s.prg.tasks.length ∧ (s.task t).home = (s.task t).pair ∧ s.pairSafe (s.task t).pair = true ∧ s.pairUp (s.task t).pair = true

/-- A member that leads the cycles, with its program running and between two cycles, the last scan done. -/
def State.between (s : State) (im : ProgImage) : Prop :=
  s.prg.image = some im ∧ s.leads = true ∧ s.prg.runState = 1 ∧ (s.task 0).running = false ∧ s.prg.scanOpen = false ∧
  s.prg.cycle ≠ 0 ∧ s.prg.restartKind = none

/-- Covered work that a task carries out at a covered boundary (R481): this member holds, and the cut of its cycle covers `w`. -/
def State.covers (s : State) (w : WorkRef) (opcode : Nat) (op : Op) : Prop :=
  s.holds = true ∧ s.ready w 10 opcode op ∧ ∃ j, op.jsn = some j ∧ j ≤ s.wb.covered

/-- Loop work, journalled under `j`, that a bundle has covered in time and this holder may carry out now (R356). -/
def State.loopDue (s : State) (w : WorkRef) (opcode : Nat) (op : Op) (j : Nat) : Prop :=
  s.holds = true ∧ s.ready w 1 opcode op ∧ op.jsn = some j ∧
  ∃ win, assocGet s.loop.seen j = some win ∧ (dTimed op.bytes = false ∨ dPtBase op.bytes = true ∨ win ≤ windowOf (dTime op.bytes))

/-- The state in which loop work under `j` is taken: no longer noted, with effect from the window that covered it, and where it is TIMED not
before its instant; an instant on plant time counts as now (R356). -/
def State.loopTaken (s : State) (op : Op) (j : Nat) : State :=
  let win := (assocGet s.loop.seen j).getD 0
  { s with loop := { s.loop with
      seen := assocDel s.loop.seen j,
      effect := max (win * 65536) (if dTimed op.bytes then (if dPtBase op.bytes then s.tb.ang else dTime op.bytes) else 0) } }

/-- A loop command that is refused for a reason: LAST_REFUSE and the record name it. -/
def LoopRefuses (s : State) (op : Op) (r : Result) (reason : Nat) : Prop :=
  ∃ u : State, r = .next (u.finish op stLoopRefused reason) ∧
    Says { s with loop := { s.loop with lastRefuse := reason } } [(.loopRefused, [reason])] [] u

/-- Flag k of an output, by its bit in DIO_DO_n_STATUS: 2 EXT_DRIVE, 3 MISMATCH, 4 SHORT, 6 DARK_FAIL. -/
def DoSt.flag (d : DoSt) (k : Nat) : Bool := if k = 2 then d.extDrive else if k = 3 then d.mismatch else if k = 4 then d.short else d.darkFail

/-- An output with flag k set. -/
def DoSt.withFlag (d : DoSt) (k : Nat) : DoSt :=
  { d with extDrive := d.extDrive || k == 2, mismatch := d.mismatch || k == 3, short := d.short || k == 4, darkFail := d.darkFail || k == 6 }

/-- `t` is `s` with the protection plane and the digital outputs as `t` has them, some messages sent, and exactly those records and events. -/
def Plane (s : State) (rs : List (RecName × List Nat)) (es : List Nat) (t : State) : Prop :=
  ∃ o : List Out, Says { s with prot := t.prot, dio := t.dio, out := s.out ++ o } rs es t

/-- Enabled trip groups of a mask that are not tripped yet. -/
def State.tripping (s : State) (mask : Nat) : List Nat := (s.enabledOf mask).filter fun g => !(s.trip g).tripped

/-- Enabled trip groups of a mask that stand tripped. -/
def State.standing (s : State) (mask : Nat) : List Nat := (s.enabledOf mask).filter fun g => (s.trip g).tripped

/-- A trip that reaches no enabled group of a mask and was not decided here leaves no mark. -/
abbrev State.tripless (s : State) (mask : Nat) (own : Bool) : Prop := s.enabledOf mask = [] ∧ own = false

/-- The records that a trip of the groups of a mask makes: one PROT_TRIP_ADD for each group that stands tripped, one PROT_TRIP for those that
trip now (for a cause of the module's own also where no group is enabled), and with PD5 off TRIP_NET_UNSENT (R48, R448, R452). -/
def State.tripRecords (s : State) (mask cause ring pos ch epoch : Nat) (own : Bool) (args : List Nat) : List (RecName × List Nat) :=
  let bits := (s.tripping mask).foldl (fun n g => n + 2 ^ g) 0
  (s.standing mask).map (fun g => (RecName.protTripAdd, [g, cause, ring, pos, ch, epoch] ++ args))
    ++ (if s.tripless mask own ∨ (s.tripping mask = [] ∧ s.enabledOf mask ≠ []) then []
        else [(.protTrip, [bits, cause, ring, pos, ch, epoch] ++ args)])
    ++ (if s.tripping mask = [] ∨ s.powered 5 = true then [] else [(.tripNetUnsent, [bits, cause])])

/-- `t` is `s` after a trip of the groups of a mask on a cause: its records are made and event source 72 raised, the groups that trip now keep
the cause and hold their PDO off, no other group or output changes; a new trip starts GOOSE afresh (R448, R452, R459). -/
structure TripsTo (s : State) (mask cause ring pos ch epoch : Nat) (own : Bool) (args : List Nat) (t : State) : Prop where
  said : Plane s (s.tripRecords mask cause ring pos ch epoch own args) (if s.tripless mask own then [] else [72]) t
  trips : ∀ g ∈ s.tripping mask, (t.trip g).tripped = true ∧ (t.trip g).firstCause = cause ∧ (t.trip g).firstRing = ring ∧
    (t.trip g).firstPos = pos ∧ t.doOn (12 + g) = false
  kept : ∀ g, g ∉ s.tripping mask → t.trip g = s.trip g
  enables : ∀ g, (t.trip g).en = (s.trip g).en
  outputs : ∀ n, (∀ g ∈ s.tripping mask, n ≠ 12 + g) → t.doCh n = s.doCh n
  goose : s.tripping mask ≠ [] → t.prot.stNum = s.prot.stNum + 1 ∧ t.prot.sqNum = 0 ∧ t.prot.gooseMs = 1 ∧
    t.prot.lastTrip = (ring, pos, cause, ch)
  last : ¬ s.tripless mask own → t.prot.lastCause = cause ∧ t.prot.lastRing = ring ∧ t.prot.lastPos = pos ∧ t.prot.lastCh = ch ∧
    t.prot.lastSev = 3

end Sys2Proof.Machine
end

