-- ==== Sys2Proof/Certificates/Slice0/Obligations.lean ====
section
/-! DEFINITION. The statements for the provers, family by family: what each command does where it completes, what it leaves alone, and what
every step keeps. The rules R<n> and tables named are those of spec/. -/

open Sys2Proof Sys2Proof.Machine

/-- A step with a command at the front of the queue is exec of that command on the same state with the rest of the queue; with no command
waiting a step answers the state after one microsecond of idle time, and the queue stays empty (model choice, notes/assumptions/9.md).
(95_what_each_step_holds.md, R617) -/
def Obligations.StepRunsTheFrontCommand : Prop :=
  (∀ (c : Instr) (rest : List Instr) (s : State), s.pending = c :: rest → step s = exec c { s with pending := rest }) ∧
  (∀ (c : Instr) (s : State), step (s.push c) = exec c s) ∧
  (∀ s : State, s.pending = [] → step s = .next s.idleTick ∧ s.idleTick.pending = [])

/-- For every command and every state exec answers a next state, never a fault or a refusal, and the queue of waiting commands is the same
before and after. (R617, 95_what_each_step_holds.md) -/
def Obligations.EveryCommandGoesOn : Prop :=
  ∀ (c : Instr) (s : State), ∃ t, exec c s = .next t ∧ t.pending = s.pending

/-- Right after reset memory and the NAND data store are in their canonical form, the fence rule holds with REF_FENCE low, no lease is held,
no command waits, the mode is INSERTED with only PD0 on, and every writable register holds the Reset value of its field table (values the
tables leave out: notes/assumptions/2.md). (R18, R220, R629) -/
def Obligations.ResetIsSafe : Prop :=
  State.reset.safe = true ∧ State.reset.wb.fenced = true ∧ State.reset.wb.lease = .none ∧ State.reset.pending = [] ∧
  State.reset.sys.mode = .inserted ∧ State.reset.sys.domains = 1 ∧
  ∀ (r : RegName) (i j : Nat), State.reset.reg r i j = r.resetWord i

/-- For every state, if memory and the NAND data store stand in their canonical form (addresses strictly rising, no listed byte equal to what
an unlisted address reads as) and a step answers a next state, they stand in it there. (R541, R545, R559) -/
def Obligations.StepKeepsMemoryForm : Prop :=
  ∀ s t : State, step s = .next t → s.memOk = true → t.memOk = true

/-- For every state in which REF_FENCE is high only while the lease logic toggles it and the mode allows it, the same holds in every next
state: no command and no idle time raises the fence outside the modes and periods of R629. (R213, R220, R629) -/
def Obligations.StepKeepsFenceRule : Prop :=
  ∀ s t : State, step s = .next t → s.fenceOk = true → t.fenceOk = true

/-- For every state, a step that answers a next state leaves the serial number, the variant and revisions, the PCI vendor, the device key and
the device certificate as they are, and never lowers the SVN floor. (R591, 15_security_and_field_update.md) -/
def Obligations.StepKeepsFusesAndFloor : Prop :=
  ∀ s t : State, step s = .next t → t.fused = s.fused ∧ s.sec.svnFloor ≤ t.sec.svnFloor

/-- REGISTER_BAD_ACCESS, REGISTER_WRITE and WIDE_READ_LATCH at an address of the register space that R615 refuses answer a bus error to a core
or debug, an access fault to an engine and Unsupported Request to the host, and change nothing else. At an aligned offset where no
register lies a core or the host outside DBG reads 0, and its write changes nothing. (R615, R616, R626) -/
def Obligations.RegisterAccessErrorsAndHoles : Prop :=
  (∀ (s : State) (q : Requester) (addr size : Nat), 0x40000000 ≤ addr → addr < 0x41000000 →
    (size ≠ 4 ∨ addr % 4 ≠ 0 ∨ 0x40170000 ≤ addr) →
    exec (.registerBadAccess q addr size) s = .next { s with resp := some ⟨q, 0, match q with
      | .core .. | .debug => .busError
      | .engine _ => .accessFault
      | .host => .unsupported⟩ }) ∧
  (∀ (s : State) (q : Requester) (addr : Nat) (v : Word), 0x40000000 ≤ addr → addr < 0x41000000 → (addr % 4 ≠ 0 ∨ 0x40170000 ≤ addr) →
    exec (.registerWrite q addr v) s = exec (.registerBadAccess q addr 4) s ∧
    exec (.wideReadLatch q addr) s = exec (.registerBadAccess q addr 4) s) ∧
  (∀ (s : State) (q : Requester) (addr : Nat) (v : Word), 0x40000000 ≤ addr → addr < 0x40160000 → addr % 4 = 0 → q ≠ .debug →
    findReg addr = none → inWindow addr = false →
    exec (.registerWrite q addr v) s = .next s ∧ exec (.wideReadLatch q addr) s = .next { s with resp := some ⟨q, 0, .ok⟩ })

/-- With no latch of the first word standing, ANG_NOW_READ, MAP_READ and PT_NOW_READ answer the first word and latch the other words of that
instant for the requester; CAL_READ_FREEZE latches all four calendar registers but on the last. A read of TB_ANG_NOW_HI, the last word,
answers the latched word and drops the latch. Only latches and the answer change. (R117, R118, R142, R617, R618) -/
def Obligations.WideReadsLatchTheirWords : Prop :=
  (∀ (s : State) (q : Requester), s.dropOldLatches.latched (latchKey .untimed q) (RegName.angNowLo.addr 0 0) = none →
    ∃ t, exec (.angNowRead q) s = .next t ∧ t = { s with tb := { s.tb with latches := t.tb.latches }, resp := t.resp } ∧
      t.resp = some ⟨q, s.tb.ang % 2 ^ 32, .ok⟩ ∧
      t.latched (latchKey .untimed q) (RegName.angNowHi.addr 0 0) = some (BitVec.ofNat 32 (s.tb.ang / 2 ^ 32)) ∧
      t.latched (latchKey .untimed q) (RegName.angStatus.addr 0 0) = some (s.regWord .angStatus 0 0)) ∧
  (∀ (s : State) (q : Requester) (w : Word), s.dropOldLatches.latched (latchKey .untimed q) (RegName.angNowHi.addr 0 0) = some w →
    ∃ t, exec (.wideReadLatch q (RegName.angNowHi.addr 0 0)) s = .next t ∧
      t = { s with tb := { s.tb with latches := t.tb.latches }, resp := t.resp } ∧ t.resp = some ⟨q, w.toNat, .ok⟩ ∧
      t.latched (latchKey .untimed q) (RegName.angNowHi.addr 0 0) = none ∧
      t.latched (latchKey .untimed q) (RegName.angStatus.addr 0 0) = none) ∧
  (∀ (s : State) (q : Requester) (k : Nat), 1 ≤ k → k ≤ 6 →
    s.dropOldLatches.latched (latchKey .timed q) (RegName.mapWord.addr 0 0) = none →
    ∃ t, exec (.mapRead q) s = .next t ∧ t = { s with tb := { s.tb with latches := t.tb.latches }, resp := t.resp } ∧
      t.resp = some ⟨q, (s.regWord .mapWord 0 0).toNat, .ok⟩ ∧
      t.latched (latchKey .timed q) (RegName.mapWord.addr k 0) = some (s.regWord .mapWord k 0)) ∧
  (∀ (s : State) (q : Requester) (k : Nat), k ≤ 1 → s.dropOldLatches.latched (latchKey .timed q) (RegName.ptNowNs.addr 0 0) = none →
    ∃ t, exec (.ptNowRead q) s = .next t ∧ t = { s with tb := { s.tb with latches := t.tb.latches }, resp := t.resp } ∧
      t.resp = some ⟨q, (s.regWord .ptNowNs 0 0).toNat, .ok⟩ ∧
      t.latched (latchKey .timed q) (RegName.ptNowSec.addr k 0) = some (s.regWord .ptNowSec k 0)) ∧
  (∀ (s : State) (q : Requester) (which k : Nat), which < 3 → k < 4 →
    s.dropOldLatches.latched (latchKey .shadow q) ((calReg which).addr 0 0) = none →
    ∃ t, exec (.calReadFreeze q which) s = .next t ∧ t = { s with tb := { s.tb with latches := t.tb.latches }, resp := t.resp } ∧
      t.resp = some ⟨q, (s.regWord (calReg which) 0 0).toNat, .ok⟩ ∧
      t.latched (latchKey .shadow q) ((calReg k).addr 0 0) = some (s.regWord (calReg k) 0 0))

/-- TB_MAP_SEL (RW) takes the low 16 bits of any core's or the host's write. DRAM_CE_WARN (RWL) takes it only while the SYS lock is open for
the writer, whose 100 ms start anew; otherwise it keeps its value and WRITE_REFUSED with event 115 is the one effect. SYS_START (RWS)
takes 1 to 600 in SERVICE from a core in machine mode, the host or debug; a reserved code leaves the field and is reported. A writer's own
latch of the address ends with its write. (R16, R19, R621, R623, R625) -/
def Obligations.RegisterWritesObeyAccessCodes : Prop :=
  (∀ (s : State) (q : Requester) (v : Word), q ≠ .debug →
    ∃ t, exec (.registerWrite q (RegName.mapSel.addr 0 0) v) s = .next t ∧
      t.fld .mapSel 0 16 = bitsOf v.toNat 0 16 ∧ (∀ r i j, r.addr i j ≠ RegName.mapSel.addr 0 0 → t.reg r i j = s.reg r i j) ∧
      t = { s.unlatch (latchKey .timed q) [RegName.mapSel.addr 0 0] with regs := t.regs }) ∧
  (∀ (s : State) (q : Requester) (v : Word), q ≠ .debug → s.lockedFor 0 q = true →
    ∃ t, exec (.registerWrite q (RegName.dramCeWarn.addr 0 0) v) s = .next t ∧
      t.fld .dramCeWarn 0 16 = bitsOf v.toNat 0 16 ∧ (∀ r i j, r.addr i j ≠ RegName.dramCeWarn.addr 0 0 → t.reg r i j = s.reg r i j) ∧
      t = { s.unlatch (latchKey .timed q) [RegName.dramCeWarn.addr 0 0] with
            regs := t.regs, locks := updAt s.locks 0 fun l => { l with since := s.tb.csr } }) ∧
  (∀ (s : State) (q : Requester) (v : Word), q ≠ .debug → s.lockedFor 0 q = false →
    ∃ t, exec (.registerWrite q (RegName.dramCeWarn.addr 0 0) v) s = .next t ∧
      Says (s.unlatch (latchKey .timed q) [RegName.dramCeWarn.addr 0 0])
        [(.writeRefused, [RegName.dramCeWarn.addr 0 0, q.code])] [115] t) ∧
  (∀ (s : State) (q : Requester) (v : Word), s.sys.mode = .service → mayWriteRws q = true →
    1 ≤ bitsOf v.toNat 16 10 → bitsOf v.toNat 16 10 ≤ 600 →
    ∃ t, exec (.registerWrite q (RegName.sysStart.addr 0 0) v) s = .next t ∧
      t.fld .sysStart 16 10 = bitsOf v.toNat 16 10 ∧ (∀ r i j, r.addr i j ≠ RegName.sysStart.addr 0 0 → t.reg r i j = s.reg r i j) ∧
      t = { s.unlatch (latchKey .timed q) [RegName.sysStart.addr 0 0] with regs := t.regs }) ∧
  (∀ (s : State) (q : Requester) (v : Word), s.sys.mode = .service → mayWriteRws q = true →
    (bitsOf v.toNat 16 10 = 0 ∨ 600 < bitsOf v.toNat 16 10) →
    ∃ t, exec (.registerWrite q (RegName.sysStart.addr 0 0) v) s = .next t ∧ t.reg .sysStart = s.reg .sysStart ∧
      Says { s.unlatch (latchKey .timed q) [RegName.sysStart.addr 0 0] with regs := t.regs }
        [(.writeRefused, [RegName.sysStart.addr 0 0, q.code])] [115] t)

/-- LOCK_OPEN with KEY 0x6B0C by a core in machine mode, the host, or debug in SERVICE or QUARANTINE, on a free lock or its own, makes it the
holder from now. An open by supervisor or user mode, with another key, or on a lock another holds, and a close by a non-holder, are
WRITE_REFUSED with event 115 and change no lock. The holder's close frees the lock, and so does LOCK_TIMEOUT 100 ms after its last use.
Debug in any other mode is DEBUG_DENIED with event 114. (R621, R622, R623) -/
def Obligations.BlockLocksBelongToTheirOpener : Prop :=
  (∀ (s : State) (q : Requester) (b : Nat), b < 23 → (q = .host → b ≠ 22) → s.locks.length = 23 → s.mayOpenLock q = true →
    ((s.lockOf b).holder = none ∨ s.lockedFor b q = true) →
    ∃ t, exec (.lockOpen q b 0x6B0C) s = .next t ∧ t.lockOf b = ⟨some q, s.tb.csr⟩ ∧
      (∀ c, c ≠ b → t.lockOf c = s.lockOf c) ∧
      t = { s.unlatch (latchKey .timed q) [RegName.lock.addr b 0] with locks := t.locks }) ∧
  (∀ (s : State) (q : Requester) (b key : Nat), b < 23 → (q = .host → b ≠ 22) → q ≠ .debug → key < 2 ^ 16 →
    (key ≠ 0x6B0C ∨ s.mayOpenLock q = false ∨ ((s.lockOf b).holder ≠ none ∧ s.lockedFor b q = false)) →
    ∃ t, exec (.lockOpen q b key) s = .next t ∧
      Says (s.unlatch (latchKey .timed q) [RegName.lock.addr b 0]) [(.writeRefused, [RegName.lock.addr b 0, q.code])] [115] t) ∧
  (∀ (s : State) (q : Requester) (b : Nat), b < 23 → (q = .host → b ≠ 22) → q ≠ .debug → s.lockedFor b q = true →
    ∃ t, exec (.lockClose q b 0x6B0C) s = .next t ∧ (t.lockOf b).holder = none ∧ (∀ c, c ≠ b → t.lockOf c = s.lockOf c) ∧
      t = { s.unlatch (latchKey .timed q) [RegName.lock.addr b 0] with locks := t.locks }) ∧
  (∀ (s : State) (q : Requester) (b : Nat), b < 23 → (q = .host → b ≠ 22) → q ≠ .debug → s.lockedFor b q = false →
    ∃ t, exec (.lockClose q b 0x6B0C) s = .next t ∧
      Says (s.unlatch (latchKey .timed q) [RegName.lock.addr b 0]) [(.writeRefused, [RegName.lock.addr b 0, q.code])] [115] t) ∧
  (∀ (s : State) (key : Nat), ∃ t, exec (.lockOpen .host 22 key) s = .next t ∧ exec (.lockClose .host 22 key) s = .next t ∧
      Says s [(.writeRefused, [RegName.lock.addr 22 0, 9])] [115] t) ∧
  (∀ (s : State) (b key : Nat), b < 23 → s.sys.mode ≠ .service → s.sys.mode ≠ .quarantine →
    ∃ t, exec (.lockOpen .debug b key) s = .next t ∧ exec (.lockClose .debug b key) s = .next t ∧
      Says { s with dbg := { s.dbg with denied := satAt 65535 (s.dbg.denied + 1) } }
        [(.debugDenied, [RegName.lock.addr b 0])] [114] t) ∧
  (∀ (s : State) (b : Nat), (s.lockOf b).holder ≠ none → (s.lockOf b).since + 10000000 ≤ s.tb.csr →
    ∃ t, exec (.lockTimeout b) s = .next t ∧ (t.lockOf b).holder = none ∧ (∀ c, c ≠ b → t.lockOf c = s.lockOf c) ∧
      t = { s with locks := t.locks })

/-- LONG_OP_STEP on a long operation in flight that asks for no PROGRESS, of an engine other than 7, 8 and 10, counts one step with the total
as known and changes nothing else; a step of NVS_WRITE has written its page. On accepted work of an authoritative module it adds a STEP
entry with the new count under the next JSN, and nothing else is journalled. INPUT_STALE of a stage position ends its friction
compensation, and one of an enabled slot whose input has passed its stale age sets that input's STALE flag. (R40, R43, R44, R187) -/
def Obligations.LongOperationStepsAreCounted : Prop :=
  (∀ (s : State) (t total : Nat) (op : Op), s.opOf (.tag t) = some op → op.long = true → op.jsn = none → dProgress op.bytes = false →
    op.engine ≠ 7 → op.engine ≠ 8 → op.engine ≠ 10 →
    exec (.longOpStep (.tag t) total false) s = .next { s with hq := { s.hq with ops := s.hq.ops.map fun o =>
      if o.tag = t then { o with steps := op.steps + 1, total := total } else o } }) ∧
  (∀ (s : State) (t total p a n : Nat) (op : Op), s.opOf (.tag t) = some op → op.long = true → op.jsn = none → dProgress op.bytes = false →
    op.engine = 7 → dOpcode op.bytes = 0x11 → nvsArgs op = (p, a, n) → nvsRefusal op 1 (some 16384) = none → s.notErased op = false → op.steps < n →
    exec (.longOpStep (.tag t) total false) s = .next { s.storePage op p a op.steps with hq := { s.hq with ops := s.hq.ops.map fun o =>
      if o.tag = t then { o with steps := op.steps + 1, total := total } else o } }) ∧
  (∀ (s : State) (j total : Nat) (op : Op), s.opOf (.jsn j) = some op → op.long = true → op.jsn = some j → op.engine ≠ 7 → op.engine ≠ 8 → op.engine ≠ 10 →
    s.authoritative = true →
    ∃ t, exec (.longOpStep (.jsn j) total false) s = .next t ∧ t.wb.jsn = s.wb.jsn + 1 ∧
      t.wb.journal = s.wb.journal ++ [⟨s.wb.jsn + 1, s.sendGen, .step op.ring (dSubmit op.bytes) (op.steps + 1)⟩] ∧
      t.hq.work = s.hq.work.map fun o => if o.jsn = some j then { o with steps := op.steps + 1, total := total } else o) ∧
  (∀ (s : State) (o : Nat), exec (.inputStale (.stagePos o)) s = .next { s with loop := { s.loop with
      stages := updAt s.loop.stages o fun x => { x with fric := false } } }) ∧
  (∀ (s : State) (n : Nat), n < 512 → n < s.loop.slots.length → (s.slot n).enabled = true → (s.slot n).staleM = false →
    s.freshSource (slSrc (s.slot n).record 0) (slAge (s.slot n).record 0) (recF (s.slot n).record 72) s.tb.ang = none →
    ∃ t, exec (.inputStale (.slot n 0)) s = .next t ∧
      Says (s.setSlot n fun x => { x with staleM := true }) [(.loopStale, [n, 0])] [83] t)

/-- UNIT_LOST of a unit in service, outside ACTIVE and while the rest still gives the control service, makes the unit's own change, sets its
bit, records UNIT_LOST naming it and raises event 108; for a core pair this holds when it does not run the pair service. Losing the last
core pair in STANDBY leads to SAFE-HOLD with cause 3 and the fence low. UNIT_RESTORED of a unit other than the bank or a core pair clears
its bit and no other; a pair is whole again with CORE_PAIR_RESTORED, but a retired one stays lost. (R54, R57, R260, R261, R597) -/
def Obligations.UnitsAreLostAndRestored : Prop :=
  (∀ (s : State) (u : UnitId), u ≠ .holdup → (∀ k, u ≠ .corePair k) → s.unitUp u.bit = true → s.sys.mode ≠ .active →
    controlLost (s.sys.unitHealth ||| 2 ^ u.bit) true = false →
    ∃ t, exec (.unitLost u) s = .next t ∧ Says ((s.unitFails u).setUnit u.bit) [(.unitLost, [u.bit])] [108] t) ∧
  (∀ (s : State) (k : Nat), k < 4 → s.unitUp k = true → s.sys.mode ≠ .active → s.core.svcPair ≠ k →
    controlLost (s.sys.unitHealth ||| 2 ^ k) true = false →
    ∃ t, exec (.unitLost (.corePair k)) s = .next t ∧ Says ((s.unitFails (.corePair k)).setUnit k) [(.unitLost, [k])] [108] t) ∧
  (∀ (s : State) (k : Nat), k < 4 → s.unitUp k = true → s.sys.mode = .standby → s.core.svcPair ≠ k → s.sys.restartPend = none →
    controlLost (s.sys.unitHealth ||| 2 ^ k) true = true →
    ∃ t, exec (.unitLost (.corePair k)) s = .next t ∧ t.sys.mode = .safeHold ∧ t.sys.safeHoldCause = 3 ∧ t.wb.fenced = true ∧
      t.wb.lease = .none ∧ t.unitUp k = false) ∧
  (∀ (s : State) (u : UnitId), u ≠ .holdup → u ≠ .nand → (∀ k, u ≠ .corePair k) → s.unitUp u.bit = false →
    ∃ t, exec (.unitRestored u) s = .next t ∧ (∀ i, t.unitUp i = (s.unitUp i || decide (i = u.bit))) ∧
      t = { s with sys := { s.sys with unitHealth := t.sys.unitHealth }, upd := { s.upd with healthFrom := s.tb.csr } }) ∧
  (∀ (s : State) (k : Nat), k < 4 → s.unitUp k = false → (s.pair k).state ≠ 3 →
    ∃ t, exec (.unitRestored (.corePair k)) s = .next t ∧
      Says ((s.setPair k fun p => { p with state := if p.state = 2 then 0 else p.state, selftest := false }).clearUnit k)
        [(.corePairRestored, [k])] [] t) ∧
  (∀ (s : State) (k : Nat), k < 4 → s.unitUp k = false → (s.pair k).state = 3 → exec (.unitRestored (.corePair k)) s = .next s)

/-- FEED_LOST below 18.00 V clears the feed's OK bit with FEED_LOST and event 107, and sets RIDE_THROUGH when the other feed is gone too;
FEED_RESTORED above 19.00 V before a power failure sets it again. HOLDUP_MEASURE outside a power loss begins a measurement, and at its end
HOLDUP_OK is true exactly at 38.0 V and 5.4 mF or more. HOLDUP_LOST to a voltage below the limit in STANDBY also loses unit 22; in a mode
that does not count it only clears HOLDUP_OK. HOLDUP_RESTORED to both limits clears that bit; a bank judged as before changes its voltage
alone. A dip with a feed good for the last 1 ms ends RIDE_THROUGH with FEED_DIP. (R76, R79, R80, R82, R83, R84) -/
def Obligations.FeedsAndHoldupBank : Prop :=
  (∀ (s : State) (b : Bool) (v : Nat), v < 1800 → (if b then s.pwr.feedBOk else s.pwr.feedAOk) = true →
    ∃ t, exec (.feedLost b v) s = .next t ∧
      Says { s with pwr := if b then { s.pwr with feedB := v, feedBOk := false, rideThrough := s.pwr.rideThrough || !s.pwr.feedAOk, charging := s.pwr.charging && s.pwr.feedAOk }
          else { s.pwr with feedA := v, feedAOk := false, rideThrough := s.pwr.rideThrough || !s.pwr.feedBOk, charging := s.pwr.charging && s.pwr.feedBOk } }
        [(.feedLost, [ofBool b, v])] [107] t) ∧
  (∀ (s : State) (b : Bool) (v : Nat), 1900 < v → v < 4096 → (if b then s.pwr.feedBOk else s.pwr.feedAOk) = false → s.pwr.pf = .idle →
    ∃ t, exec (.feedRestored b v) s = .next t ∧
      Says { s with pwr := if b then { s.pwr with feedB := v, feedBOk := true } else { s.pwr with feedA := v, feedAOk := true } }
        [(.feedRestored, [ofBool b, v])] [107] t) ∧
  (∀ s : State, s.pwr.rideThrough = false → s.pwr.pf = .idle →
    exec (.holdupMeasure none) s = .next { s with pwr := { s.pwr with charging := true } }) ∧
  (∀ (s : State) (volt cap : Nat), volt < 4096 → cap < 4096 → s.pwr.rideThrough = false → s.pwr.pf = .idle → s.pwr.charging = true →
    s.sys.restartPend = none →
    ∃ t, exec (.holdupMeasure (some (volt, cap))) s = .next t ∧ t.pwr.bankVolt = volt ∧ t.pwr.bankCap = cap ∧ t.pwr.charging = false ∧
      (t.pwr.holdupOk = true ↔ 3800 ≤ volt ∧ 540 ≤ cap)) ∧
  (∀ (s : State) (volt : Nat), s.pwr.holdupOk = true → volt < 4096 → volt < 3800 ∨ s.pwr.bankCap < 540 → s.sys.mode = .standby →
    controlLost (s.sys.unitHealth ||| 2 ^ 22) true = false →
    ∃ t, exec (.holdupLost volt) s = .next t ∧
      Says ({ s with pwr := { s.pwr with bankVolt := volt, holdupOk := false } }.setUnit 22)
        [(.holdupLost, [volt, s.pwr.bankCap]), (.unitLost, [22])] [107, 108] t) ∧
  (∀ (s : State) (volt : Nat), s.pwr.holdupOk = true → volt < 4096 → volt < 3800 ∨ s.pwr.bankCap < 540 → holdupModes s.sys.mode = false →
    ∃ t, exec (.holdupLost volt) s = .next t ∧ Says { s with pwr := { s.pwr with bankVolt := volt, holdupOk := false } } [] [107] t) ∧
  (∀ (s : State) (volt : Nat), s.pwr.holdupOk = false → volt < 4096 → 3800 ≤ volt → 540 ≤ s.pwr.bankCap → s.unitUp 22 = false →
    ∃ t, exec (.holdupRestored volt) s = .next t ∧
      Says ({ s with pwr := { s.pwr with bankVolt := volt, holdupOk := true } }.clearUnit 22) [(.holdupRestored, [])] [107] t) ∧
  (∀ (s : State) (volt : Nat), volt < 4096 → (s.pwr.holdupOk = true ↔ 3800 ≤ volt ∧ 540 ≤ s.pwr.bankCap) →
    exec (.holdupLost volt) s = .next { s with pwr := { s.pwr with bankVolt := volt } } ∧
    exec (.holdupRestored volt) s = .next { s with pwr := { s.pwr with bankVolt := volt } }) ∧
  (∀ (s : State) (dip : Nat), s.pwr.rideThrough = true → s.pwr.pf = .idle →
    ∃ t, exec (.powerFail true dip) s = .next t ∧
      Says { s with pwr := { s.pwr with rideThrough := false } } [(.feedDip, [dip])] [] t)

/-- POWER_FAIL after a ride-through with no good feed, and PRESENT_LOST outside SERVICE and QUARANTINE, declare the power failure: RUN_STATE
0, event 107, no host link, every DO off, only PD0, PD1 and PD6 left on, the lease given up and the fence low. POWER_FAIL_FLUSH_DONE
flushes every record, sets the flush marker, then leaves the module in INSERTED with PD0, or restarts with cause 2 when a feed has
returned to the seated module. INSERTION seats the module; the hot-swap switch needs 18.0 V. STRAP_READ, once after an insertion, starts
BOOT, not with the lever open, or QUARANTINE with STRAP_FAULT when the straps agree. (R69, R70, R84, R87, R89, R92, R220) -/
def Obligations.PowerFailAndInsertion : Prop :=
  (∀ (s : State) (dip : Nat), s.pwr.rideThrough = true → s.pwr.pf = .idle →
    ∃ t, exec (.powerFail false dip) s = .next t ∧ t.pwr.pf = .declared ∧ t.sys.domains = Nat.land s.sys.domains 0x43 ∧
      t.prg.runState = 0 ∧ t.isPending 107 = true ∧ t.sys.mode = s.sys.mode ∧
      t.wb.lease = .none ∧ t.wb.fenced = true ∧ t.pwr.charging = false ∧ t.evt.hostLink = false ∧ ∀ d ∈ t.dio.dos, d.cmd = false) ∧
  (∀ s : State, s.sys.mode ≠ .service → s.sys.mode ≠ .quarantine → s.pwr.pf = .idle →
    ∃ t, exec .presentLost s = .next t ∧ t.pwr.pf = .declared ∧ t.pwr.seated = false ∧ t.pwr.hotSwap = false ∧ t.pwr.strapsRead = false ∧
      t.sys.domains = Nat.land s.sys.domains 0x43 ∧ t.wb.lease = .none ∧ t.wb.fenced = true) ∧
  (∀ s : State, s.sys.mode = .service ∨ s.sys.mode = .quarantine →
    exec .presentLost s = .next { s with pwr := { s.pwr with seated := false, hotSwap := false, strapsRead := false } }) ∧
  (∀ s : State, s.pwr.pf = .declared → s.pwr.feedReturned = false ∨ s.canRestart = false →
    ∃ t, exec .powerFailFlushDone s = .next t ∧ t.pwr.pf = .flushed ∧ t.sys.mode = .inserted ∧ t.sys.domains = 1 ∧
      t.wb.flushMarker = true ∧ t.wb.lease = .none ∧ t.wb.fenced = true ∧ t.log.taking = false ∧
      (s.log.dropped = false → ∀ r ∈ t.log.recs, r.flushed = true)) ∧
  (∀ s : State, s.pwr.pf = .declared → s.pwr.feedReturned = true → s.canRestart = true →
    ∃ t, exec .powerFailFlushDone s = .next t ∧ t.sys.mode = .boot ∧ t.sys.resetCause = 2 ∧ t.pwr.pf = .idle ∧ t.wb.flushMarker = true) ∧
  (∀ (s : State) (mv : Nat), s.pwr.seated = false → s.pwr.pf ≠ .declared →
    ∃ t, exec (.insertion mv) s = .next t ∧ t.pwr.seated = true ∧ (t.pwr.hotSwap = true ↔ 18000 ≤ mv) ∧ t.pwr.strapsRead = false ∧
      t.sys.mode = .inserted) ∧
  (∀ (s : State) (a b : Bool) (c : Nat), s.sys.mode = .inserted → s.pwr.strapsRead = false → s.pwr.pullOk = false → a ≠ b → c < 256 →
    ∃ t, exec (.strapRead a b c) s = .next t ∧ t.sys.mode = .boot ∧ t.pwr.slotB = a ∧ t.pwr.strapFault = false ∧ t.pwr.carrierId = c ∧
      t.pwr.strapsRead = true ∧ t.sys.domains = modeDomains .boot ∧ (s.pwr.pf = .flushed → t.sys.resetCause = 2)) ∧
  (∀ (s : State) (a b : Bool) (c : Nat), s.sys.mode = .inserted → s.pwr.strapsRead = false → s.pwr.pullOk = true → a ≠ b → c < 256 →
    exec (.strapRead a b c) s = .next { s with pwr := { s.pwr with
      slotB := a, strapFault := false, carrierId := c, charging := false, strapsRead := true } }) ∧
  (∀ (s : State) (a : Bool) (c : Nat), s.sys.mode = .inserted → s.pwr.strapsRead = false → s.sys.restartPend = none → s.pwr.ejectReq = false →
    ∃ t, exec (.strapRead a a c) s = .next t ∧ t.sys.mode = .quarantine ∧ t.pwr.strapFault = true ∧ t.wb.fenced = true) ∧
  (∀ (s : State) (a b : Bool) (c : Nat), s.pwr.strapsRead = true → exec (.strapRead a b c) s = .next s)

/-- EJECT_REQ sets EJECT_REQ with event 107: INSERTED permits the pull at once; SOLO, COCOON and SAFE-HOLD refuse with EXTRACT_REFUSED and the
PULL flash; ACTIVE with its partner in STANDBY plans a handover; STANDBY, UPDATE, SYNC and QUARANTINE end in SERVICE. PULL_OK in SERVICE
sets PULL_OK with every record flushed. LEVER_RETURN clears EJECT_REQ after a refusal, waits for a handover under way, and otherwise
restarts with cause 3; a module whose straps are not read yet takes its extraction back. (R94, R95, R96) -/
def Obligations.LeverAndExtraction : Prop :=
  (∀ s : State, s.pwr.ejectReq = false → s.sys.mode = .inserted →
    ∃ t, exec .ejectReq s = .next t ∧
      Says { s with pwr := { s.pwr with ejectReq := true, extraction := true, pullOk := true } } [] [107] t) ∧
  (∀ s : State, s.pwr.ejectReq = false → s.sys.mode = .solo ∨ s.sys.mode = .cocoon ∨ s.sys.mode = .safeHold →
    ∃ t, exec .ejectReq s = .next t ∧
      Says { s with pwr := { s.pwr with ejectReq := true, pullFlash := true, extraction := false } } [(.extractRefused, [s.sys.mode.code])] [107] t) ∧
  (∀ s : State, s.pwr.ejectReq = false → s.sys.mode = .active → s.partnerStandby = true → s.wb.ho = .idle →
    ∃ t, exec .ejectReq s = .next t ∧
      Says { s with pwr := { s.pwr with ejectReq := true, extraction := true }, wb := { s.wb with ho := .planned } } [] [107] t) ∧
  (∀ s : State, s.pwr.ejectReq = false →
    s.sys.mode = .standby ∨ s.sys.mode = .update ∨ s.sys.mode = .sync ∨ s.sys.mode = .quarantine →
    ∃ t, exec .ejectReq s = .next t ∧ t.sys.mode = .service ∧ t.pwr.ejectReq = true ∧ t.pwr.extraction = true ∧ t.wb.fenced = true ∧
      t.wb.lease = .none ∧ t.isPending 107 = true) ∧
  (∀ s : State, s.pwr.ejectReq = true → s.pwr.extraction = true → s.sys.mode = .service →
    ∃ t, exec .pullOk s = .next t ∧ t.pwr = { s.pwr with pullOk := true } ∧ t.sys.mode = .service ∧ t.wb = s.wb ∧ t.regs = s.regs ∧
      (s.log.dropped = false → ∀ r ∈ t.log.recs, r.flushed = true)) ∧
  (∀ s : State, s.pwr.ejectReq = true → s.pwr.extraction = false →
    exec .leverReturn s = .next { s with pwr := { s.pwr with ejectReq := false, pullFlash := false } }) ∧
  (∀ s : State, s.pwr.ejectReq = true → s.pwr.extraction = true → s.sys.mode = .inserted → s.pwr.strapsRead = false → s.pwr.pf ≠ .flushed →
    exec .leverReturn s = .next { s with pwr := { s.pwr with ejectReq := false, pullFlash := false, extraction := false, pullOk := false } }) ∧
  (∀ s : State, s.pwr.ejectReq = true → s.pwr.extraction = true → s.sys.mode ≠ .inserted → s.sys.mode = .handover ∨ s.wb.ho ≠ .idle →
    exec .leverReturn s = .next { s with sys := { s.sys with restartPend := some 3 } }) ∧
  (∀ s : State, s.pwr.ejectReq = true → s.pwr.extraction = true → s.sys.mode ≠ .handover → s.wb.ho = .idle →
    s.sys.mode ≠ .inserted ∨ (s.pwr.strapsRead = true ∧ s.pwr.pf ≠ .flushed) →
    ∃ t, exec .leverReturn s = .next t ∧ t.sys.mode = .boot ∧ t.sys.resetCause = 3 ∧ t.pwr.ejectReq = false ∧ t.wb.fenced = true)

/-- ANG_SRC_LOST puts the clock in SYNTH at the last LOCKED rate with ANG_SRC_LOST, a MAP record and event 104. ANG_FALLBACK after
FALLBACK_DELAY cycles, ANG_SRC_RETURN and a written change of SRC take the new source, if it is there, at its frequency through ACQUIRE: a
difference up to 4,660 counts is left to be tracked, a larger one slewed, a positive one stepped over at once with JUMP_MODE. ANG_LOCKED
ends ACQUIRE after 10 good cycles, SLEW_DONE ends SLEW once no difference is left, both in LOCKED. (R99, R101, R103, R110, R111, R112,
R120) -/
def Obligations.AngleSourceChanges : Prop :=
  (∀ (s : State) (r : Nat), s.tb.angState ≠ .synth → s.tb.angSrc ≠ 2 → s.tb.lockRate.getD (if s.bit .angCtrl 4 then 600000 else 500000) = r →
    ∃ t, exec .angSrcLost s = .next t ∧
      Says { s with tb := { (s.setRate r).tb with lostSrc := some s.tb.angSrc, synthCycles := 0, slewRem := 0, slewFrac := 0, goodCycles := 0,
                                                  angState := .synth } }
        [(.angSrcLost, [s.tb.angSrc]), (.mapRec, anchorWords (s.setRate r).tb.anchor)] [104] t) ∧
  (∀ (s : State) (d : Int) (f freq : Nat), s.tb.angState = .synth → s.tb.lostSrc.isSome → s.fld .angCtrl 2 2 = f → f < 2 →
    s.sourceOk f freq = true → s.fld .angCtrl 16 8 ≤ s.tb.synthCycles → -4660 ≤ d → d ≤ 4660 →
    ∃ t, exec (.angFallback freq d) s = .next t ∧
      Says { s with tb := { (s.setRate freq).tb with angSrc := f, lostSrc := none, synthCycles := 0, goodCycles := 0, slewFrac := 0,
                                                     angState := .acquire, slewRem := d } }
        [(.mapRec, anchorWords (s.setRate freq).tb.anchor)] [104] t) ∧
  (∀ (s : State) (d : Int) (f freq : Nat), s.tb.angState = .synth → s.awaitsSeed = false → s.tb.lostSrc.getD (s.fld .angCtrl 0 2) = f → f ≠ 2 →
    s.sourceOk f freq = true → -4660 ≤ d → d ≤ 4660 →
    ∃ t, exec (.angSrcReturn freq d) s = .next t ∧
      Says { s with tb := { (s.setRate freq).tb with angSrc := f, lostSrc := none, synthCycles := 0, goodCycles := 0, slewFrac := 0,
                                                     angState := .acquire, slewRem := d } }
        [(.mapRec, anchorWords (s.setRate freq).tb.anchor)] [104] t) ∧
  (∀ (s : State) (d : Int) (f freq : Nat), s.tb.lostSrc.getD (s.fld .angCtrl 0 2) = f → s.sourceOk f freq = false →
    exec (.angSrcReturn freq d) s = .next s) ∧
  (∀ (s : State) (d : Int) (f freq : Nat), s.tb.angState = .synth → s.awaitsSeed = false → s.tb.lostSrc.getD (s.fld .angCtrl 0 2) = f → f ≠ 2 →
    s.sourceOk f freq = true → -8388608 ≤ d → d < 8388608 → 4660 < d ∨ d < -4660 → s.bit .angCtrl 5 = false ∨ d < 0 →
    ∃ v t, exec (.angSrcReturn freq d) s = .next t ∧
      Says { s with tb := { (s.setRate freq).tb with angSrc := f, lostSrc := none, synthCycles := 0, goodCycles := 0, slewFrac := 0,
                                                     angState := .acquire } }
        [(.mapRec, anchorWords (s.setRate freq).tb.anchor)] [104] v ∧
      Says { v with tb := { v.tb with slewRem := d, angState := .slew } } [(.mapRec, anchorWords (s.setRate freq).tb.anchor)] [104] t) ∧
  (∀ (s : State) (d f freq : Nat), s.tb.angState = .synth → s.awaitsSeed = false → s.tb.lostSrc.getD (s.fld .angCtrl 0 2) = f → f ≠ 2 →
    s.sourceOk f freq = true → 4660 < d → d < 8388608 → s.bit .angCtrl 5 = true → s.tb.frames = [] →
    s.passed false s.tb.ang (s.tb.ang + d) = [] →
    ∃ v t, exec (.angSrcReturn freq d) s = .next t ∧
      Says { s with tb := { (s.setRate freq).tb with angSrc := f, lostSrc := none, synthCycles := 0, goodCycles := 0, slewFrac := 0,
                                                     angState := .acquire } }
        [(.mapRec, anchorWords (s.setRate freq).tb.anchor)] [104] v ∧
      Says { v with tb := { v.tb with slewRem := 0, slewFrac := 0, ang := s.tb.ang + d, jump := some (s.tb.ang, s.tb.ang + d),
                                      angState := .locked },
                    prg := { v.prg with tasks := s.prg.tasks.map (jumpTask s.tb.ang (s.tb.ang + d)) } }
        [(.mapRec, anchorWords (s.setRate freq).tb.anchor)] [104] t) ∧
  (∀ s : State, s.tb.angState = .acquire → s.tb.angSrc = 2 ∨ 10 ≤ s.tb.goodCycles →
    ∃ t, exec .angLocked s = .next t ∧
      Says { s with tb := { s.tb with angState := .locked } } [(.mapRec, anchorWords s.tb.anchor)] [104] t) ∧
  (∀ s : State, s.tb.angState = .acquire → s.tb.angSrc ≠ 2 → s.tb.goodCycles < 10 → exec .angLocked s = .next s) ∧
  (∀ s : State, s.tb.angState = .slew → s.tb.slewRem = 0 →
    ∃ t, exec .slewDone s = .next t ∧
      Says { s with tb := { s.tb with angState := .locked } } [(.mapRec, anchorWords s.tb.anchor)] [104] t) ∧
  (∀ s : State, s.tb.slewRem ≠ 0 → exec .slewDone s = .next s) ∧
  (∀ (s : State) (q : Requester) (v : Word) (d : Int) (freq : Nat), q ≠ .debug → s.lockedFor 2 q = true → bitOf v.toNat 4 = s.bit .angCtrl 4 →
    bitsOf v.toNat 0 2 < 2 → bitsOf v.toNat 0 2 ≠ s.fld .angCtrl 0 2 → s.awaitsSeed = false → s.tb.angState ≠ .acquire →
    s.sourceOk (bitsOf v.toNat 0 2) freq = true → 2 ≤ bitsOf v.toNat 8 5 → bitsOf v.toNat 8 5 ≤ 20 → -4660 ≤ d → d ≤ 4660 →
    ∃ u t : State, exec (.angSrcSwitch q v freq d) s = .next t ∧ u = { s with regs := u.regs, locks := updAt s.locks 2 fun l => { l with since := s.tb.csr } } ∧
      u.fld .angCtrl 0 2 = bitsOf v.toNat 0 2 ∧ u.fld .angCtrl 16 8 = bitsOf v.toNat 16 8 ∧
      (∀ r i j, r.addr i j ≠ RegName.angCtrl.addr 0 0 → u.reg r i j = s.reg r i j) ∧
      Says { u with tb := { (s.setRate freq).tb with angSrc := bitsOf v.toNat 0 2, lostSrc := none, synthCycles := 0, goodCycles := 0, slewFrac := 0,
                                                     angState := .acquire, slewRem := d } }
        [(.mapRec, anchorWords (s.setRate freq).tb.anchor)] [104] t)

/-- CYCLE_BOUNDARY at a new angle 0 makes the present angle, plant time and CAN count the anchor with the period of the cycle just ended (a
cycle at the present rate after the first), keeps the old anchor in the history of 65,536, and changes no other clock; a frequency outside
40 to 72 Hz loses the source, one inside is tracked. MAP_RECORD records the anchor. CYCLE_SEED takes the partner's count in SYNC; a seed
pair's or plant time's count at the first seed, never below the running count or the journal's last plus one; later anchors only compare.
No seed outside SYNC moves the clock back. (R99, R101, R103, R107, R108, R109, R118, R120) -/
def Obligations.CycleBoundariesAndSeeds : Prop :=
  (∀ s : State, s.tb.ang % countsPerCycle = 0 → s.tb.ang ≠ s.tb.anchor.ang →
    ∃ t, exec (.cycleBoundary none) s = .next t ∧ t.tb.anchor.ang = s.tb.ang ∧ t.tb.anchor.pt = s.tb.pt ∧ t.tb.anchor.canCnt = s.can.counter ∧
      (s.tb.anchor.ang ≠ 0 → s.tb.anchor.ang + countsPerCycle = s.tb.ang →
        t.tb.anchor.period = (s.tb.pt.total - s.tb.anchor.pt.total) * 65536) ∧
      (s.tb.anchor.ang = 0 → t.tb.anchor.period = countsNs (countsPerCycle * 65536) s.tb.freq) ∧
      t.tb.mapHist = (s.tb.anchor :: s.tb.mapHist).take 65536 ∧
      (t.tb.synthCycles = if s.tb.angState = .synth then s.tb.synthCycles + 1 else 0) ∧
      t = { s with tb := { s.tb with anchor := t.tb.anchor, mapHist := t.tb.mapHist, synthCycles := t.tb.synthCycles },
                   aio := { s.aio with rms := t.aio.rms }, freeCtr := t.freeCtr }) ∧
  (∀ (s : State) (f : Nat) (e : Int), s.tb.ang % countsPerCycle = 0 → s.tb.ang ≠ s.tb.anchor.ang → s.tb.angState ≠ .synth → s.tb.angSrc ≠ 2 →
    (f < 400000 ∨ 720000 < f → ∃ t, exec (.cycleBoundary (some (f, e))) s = .next t ∧ t.tb.angState = .synth ∧ t.tb.lostSrc = some s.tb.angSrc) ∧
    (400000 ≤ f → f ≤ 720000 → s.tb.angState = .locked → -4660 < e → e < 4660 →
      ∃ t, exec (.cycleBoundary (some (f, e))) s = .next t ∧ t.tb.freq = f ∧ t.tb.lockRate = some f ∧ t.tb.slewRem = e ∧
        t.tb.goodCycles = s.tb.goodCycles + 1 ∧ t.tb.angState = .locked)) ∧
  (∀ s : State, ∃ t, exec .mapRecord s = .next t ∧
    Says s [(.mapRec, [s.tb.anchor.ang, s.tb.anchor.pt.sec, s.tb.anchor.pt.ns, s.tb.anchor.period])] [] t) ∧
  (∀ (s : State) (c : Nat), s.sys.mode = .sync → ∃ t, exec (.cycleSeed (.partner c)) s = .next t ∧
    t.tb.ang / countsPerCycle = c ∧ t.tb.ang % countsPerCycle = s.tb.ang % countsPerCycle ∧
    t = { s with tb := { s.tb with ang := t.tb.ang, seeded := true } }) ∧
  (∀ (s : State) (a : Anchor) (age st : Nat), s.fld .angSeed 0 2 = 1 → age ≤ 10000 → s.tb.ptState = .locked → bitsOf st 6 2 = 0 → s.tb.seeded = false →
    s.tb.ang / countsPerCycle ≤ s.countBy a - 1 → (∀ j, journalCycle s.wb.journal = some j → j + 1 ≤ s.countBy a - 1) →
    ∃ t, exec (.cycleSeed (.seedPair a age st)) s = .next t ∧ t.tb.ang / countsPerCycle = s.countBy a - 1 ∧
      t.tb.ang % countsPerCycle = s.tb.ang % countsPerCycle ∧ t = { s with tb := { s.tb with ang := t.tb.ang, seeded := true } }) ∧
  (∀ (s : State) (j c low : Nat), s.fld .angSeed 0 2 = 2 → s.tb.seeded = false → journalCycle s.wb.journal = some j →
    (s.tb.pt.total - tai2000 * 10 ^ 9) * (if s.bit .angCtrl 4 then 60 else 50) / 10 ^ 9 = c → max (s.tb.ang / countsPerCycle) (j + 1) = low → c < low →
    ∃ t, exec (.cycleSeed .plantTime) s = .next t ∧
      Says { s with dsp := { s.dsp with cycleAhead := true, aheadBy := low - c },
                    tb := { s.tb with ang := low * countsPerCycle + s.tb.ang % countsPerCycle, seeded := true } }
        [(.cycleAhead, [low, c])] [] t) ∧
  (∀ (s : State) (a : Anchor) (age st : Nat), s.fld .angSeed 0 2 = 1 → s.mapValid = true → bitOf st 9 = true → s.tb.seeded = true →
    s.countBy a < s.tb.ang / countsPerCycle + 1 →
    ∃ t, exec (.cycleSeed (.seedPair a age st)) s = .next t ∧
      Says { s with dsp := { s.dsp with cycleAhead := true, aheadBy := s.tb.ang / countsPerCycle + 1 - s.countBy a } }
        [(.cycleAhead, [s.tb.ang / countsPerCycle + 1, s.countBy a])] [] t) ∧
  (∀ (s : State) (src : SeedFrom), s.sys.mode ≠ .sync →
    ∃ t, exec (.cycleSeed src) s = .next t ∧ s.tb.ang ≤ t.tb.ang ∧ t.tb.ang % countsPerCycle = s.tb.ang % countsPerCycle)

/-- A PTP frame on port 4 or 5, above layer 2, end-to-end or a management message, or of any other unsupported form, only counts as discarded.
PTP_ANNOUNCE_RX of a first master enters ACQUIRE and takes its UTC offset; PT_MASTER_LOST enters FREERUN at the mean of the last 16
adjustments with PT_MASTER_LOST. PTP_SYNC_RX keeps the offset, counts the good ones and locks at the sixteenth in a row; with STEP_ENABLE
a third offset in a row beyond the threshold steps plant time by it. PT_SOFT_STEP with the lock steps plant time by TB_PT_STEP, with a
PT_STEP record. (R120, R122, R123, R125, R126) -/
def Obligations.PlantTimeAndItsMasters : Prop :=
  (∀ (s : State) (f : PtpForm), 4 ≤ f.port ∨ f.layer2 = false ∨ f.peer = false ∨ f.mgmt = true → s.ptpSupported f = false) ∧
  (∀ (s : State) (f : PtpForm) (off : Int), s.ptpSupported f = false → exec (.ptpSyncRx f off) s =
    .next { s with net := { s.net with ptpDiscard := (s.net.ptpDiscard + 1) % 2 ^ 32 } }) ∧
  (∀ (s : State) (f : PtpForm) (m : Nat) (utc : Option Nat), s.ptpSupported f = false → exec (.ptpAnnounceRx f m utc) s =
    .next { s with net := { s.net with ptpDiscard := (s.net.ptpDiscard + 1) % 2 ^ 32 } }) ∧
  (∀ (s : State) (f : PtpForm) (m : Nat), s.ptpSupported f = true → s.tb.master = 255 → m < 255 → s.tb.ptState ≠ .acquire → s.sec.nonceLost ≠ some {} →
    ∃ t, exec (.ptpAnnounceRx f m none) s = .next t ∧
      Says { s with tb := { s.tb with master := m, ptGood := 0, ptBad := 0, adjHist := [], ptState := .acquire } }
        [(.mapRec, anchorWords s.tb.anchor)] [105] t) ∧
  (∀ (s : State) (f : PtpForm) (u : Nat), s.ptpSupported f = true → s.tb.master < 255 →
    ∃ t, exec (.ptpAnnounceRx f s.tb.master (some u)) s = .next t ∧ t.fld .ptUtc 0 16 = u % 65536 ∧
      (∀ r i j, r.addr i j ≠ RegName.ptUtc.addr 0 0 → t.reg r i j = s.reg r i j) ∧ t = { s with regs := t.regs }) ∧
  (∀ s : State, s.tb.master ≠ 255 → s.tb.ptState ≠ .freerun →
    ∃ t, exec .ptMasterLost s = .next t ∧
      Says { s with tb := { s.tb with annTimeouts := satAt 65535 (s.tb.annTimeouts + 1), master := 255, ptAdj := meanAdj s.tb.adjHist,
                                      ptGood := 0, ptBad := 0, ptState := .freerun } }
        [(.ptMasterLost, [s.tb.master]), (.mapRec, anchorWords s.tb.anchor)] [105] t) ∧
  (∀ (s : State) (f : PtpForm) (off : Int), s.ptpSupported f = true → s.fld .portCtrl 0 2 f.port = 1 → s.sec.nonceLost ≠ some {} →
    s.tb.master ≠ 255 → -100 ≤ off → off ≤ 100 →
    off.natAbs ≤ s.fld .ptStepThresh 0 32 * 1000 → s.tb.ptState = .acquire →
    ∃ t, exec (.ptpSyncRx f off) s = .next t ∧ t.tb.ptOffset = off ∧ t.tb.ptGood = s.tb.ptGood + 1 ∧
      -32768 ≤ t.tb.ptAdj ∧ t.tb.ptAdj ≤ 32767 ∧ (t.tb.ptState = .locked ↔ 16 ≤ s.tb.ptGood + 1) ∧
      Reports { s with freeCtr := s.freeCtr + 1, tb :=
        { s.tb with ptOffset := off, ptSw := false, ptGood := s.tb.ptGood + 1, ptBad := 0, ptAdj := t.tb.ptAdj,
                    adjHist := (t.tb.ptAdj :: s.tb.adjHist).take 16, ptState := t.tb.ptState } } t) ∧
  (∀ (s : State) (f : PtpForm) (off : Int), s.ptpSupported f = true → s.fld .portCtrl 0 2 f.port ≠ 0 → s.tb.frames = [] → s.tb.master ≠ 255 → s.bit .ptCtrl 2 = true → 2 ≤ s.tb.ptBad →
    s.fld .ptStepThresh 0 32 * 1000 < off.natAbs → off < 0 →
    s.passed true s.tb.pt.total (s.tb.pt.total + off.natAbs) = [] → s.tb.ptState = .acquire → 10000 < off.natAbs →
    ∃ t, exec (.ptpSyncRx f off) s = .next t ∧
      Says { s with tb := { s.tb with ptOffset := off, ptSw := s.fld .portCtrl 0 2 f.port == 2, ptGood := 0, ptBad := 0,
                                      pt := PlantTime.ofTotal (s.tb.pt.total + off.natAbs) } } [(.ptStep, [unsignedOf 64 (-off)])] [] t) ∧
  (∀ (s : State) (q : Requester) (v : Word), q ≠ .debug → s.lockedFor 2 q = true → s.softStep < 0 → s.tb.frames = [] →
    ∃ u t : State, exec (.ptSoftStep q v) s = .next t ∧ u = { s with regs := u.regs, locks := updAt s.locks 2 fun l => { l with since := s.tb.csr } } ∧
      (∀ r i j, r.addr i j ≠ RegName.ptStepGo.addr 0 0 → u.reg r i j = s.reg r i j) ∧
      Says { u with tb := { s.tb with pt := PlantTime.ofTotal (Int.ofNat s.tb.pt.total + s.softStep).toNat } }
        [(.ptStep, [unsignedOf 64 s.softStep])] [] t)

/-- ALARM_ARM of an idle alarm takes its registers as due instant and period and waits, or fires at once with LATE and event 32+n when already
due; a periodic alarm with period 0 is refused. ALARM_DISARM disarms it. ALARM_FIRE at the due instant sets FIRED with event 32+n, ends a
one-shot and moves a periodic alarm one period on. CALENDAR_ALARM fires event 106. FRAME_LAUNCH at its instant sends the frame at the head
of its queue with its gates open; one whose instant has passed there without LATE_POLICY is dropped with LAUNCH_MISSED. (R130, R131, R134,
R135, R136, R137, R138) -/
def Obligations.AlarmsAndTimedFrames : Prop :=
  (∀ (s : State) (q : Requester) (n : Nat) (v : Word) (a : AlarmSt), q ≠ .debug → n < 32 → s.tb.alarms[n]? = some a → a.armed = false →
    bitOf v.toNat 1 = false → bitOf v.toNat 2 = false → bitOf v.toNat 3 = false → s.tb.ang < (s.almRegs n false).1 →
    exec (.alarmArm q n v) s = .next { s with tb := { s.tb with alarms := updAt s.tb.alarms n fun a =>
      { a with armed := true, ptBase := false, periodic := false, due := (s.almRegs n false).1, per := (s.almRegs n false).2, lastFired := none } } }) ∧
  (∀ (s : State) (q : Requester) (n : Nat) (v : Word) (a : AlarmSt), q ≠ .debug → n < 32 → s.tb.alarms[n]? = some a → a.armed = false →
    bitOf v.toNat 1 = false → bitOf v.toNat 2 = false → bitOf v.toNat 3 = false → (s.almRegs n false).1 ≤ s.tb.ang →
    ∃ t, exec (.alarmArm q n v) s = .next t ∧
      Says { s with tb := { s.tb with alarms := updAt s.tb.alarms n fun a =>
        { a with armed := false, ptBase := false, periodic := false, due := (s.almRegs n false).1, per := (s.almRegs n false).2,
                 fired := true, late := true, skipped := false, skipCount := 0, lastFired := some (s.almRegs n false).1 } } } [] [32 + n] t) ∧
  (∀ (s : State) (q : Requester) (n : Nat) (v : Word) (a : AlarmSt), q ≠ .debug → n < 32 → s.tb.alarms[n]? = some a → a.armed = false →
    bitOf v.toNat 1 = false → bitOf v.toNat 2 = true → bitOf v.toNat 3 = false → (s.almRegs n false).2 = 0 →
    ∃ t, exec (.alarmArm q n v) s = .next t ∧
      Says { s with tb := { s.tb with alarms := updAt s.tb.alarms n fun a => { a with ptBase := false, periodic := true } } }
        [(.writeRefused, [RegName.almCtrl.addr n 0, q.code])] [115] t) ∧
  (∀ (s : State) (q : Requester) (n : Nat) (v : Word), q ≠ .debug → n < 32 →
    exec (.alarmDisarm q n v) s = .next { s with tb := { s.tb with alarms := updAt s.tb.alarms n fun a =>
      { a with armed := false, ptBase := bitOf v.toNat 1, periodic := bitOf v.toNat 2, fired := a.fired && !bitOf v.toNat 3 } } }) ∧
  (∀ (s : State) (n : Nat) (a : AlarmSt), n < 32 → s.tb.alarms[n]? = some a → a.armed = true → a.due ≤ s.almClock a.ptBase →
    ∃ t, exec (.alarmFire n) s = .next t ∧
      Says { s with tb := { s.tb with alarms := updAt s.tb.alarms n fun a =>
        { a with fired := true, late := false, skipped := false, skipCount := 0, lastFired := some a.due, armed := a.periodic, due := if a.periodic then a.due + a.per else a.due } } } [] [32 + n] t) ∧
  (∀ (s : State) (d : Nat), s.calDue = some d → d ≤ s.rtc.cal.secs → s.sys.mode ≠ .cocoon →
    ∃ t, exec .calendarAlarm s = .next t ∧ Says { s with rtc := { s.rtc with almFired := some d } } [] [106] t) ∧
  (∀ (s : State) (id : Nat) (f : TimedFrame), (s.tb.frames.find? fun g => g.id == id) = some f → f.id = id → f.work = none → f.headed = true →
    (s.tb.frames.filter fun g => g.network == f.network && g.prio == f.prio) = [f] → s.gatesOpen f.network f.prio = true →
    s.firstOfInstant f = true → f.due ≤ s.almClock f.ptBase → f.lateAtHead = false ∨ f.latePolicy = true →
    exec (.frameLaunch id) s = .next { s with tb := { s.tb with frames := s.tb.frames.filter fun g => decide (g.id ≠ id) },
                                              out := s.out ++ [.net f.network f.prio (.raw f.bytes)] }) ∧
  (∀ (s : State) (id : Nat) (f : TimedFrame) (w : WorkRef) (op : Op), (s.tb.frames.find? fun g => g.id == id) = some f → f.id = id →
    f.work = some w → s.frameOp w = some op → s.mayServe op = true →
    (s.tb.frames.filter fun g => g.network == f.network && g.prio == f.prio) = [f] → f.headed = false → f.timed = true →
    f.due < s.almClock f.ptBase → f.latePolicy = false →
    exec (.frameLaunch id) s =
      .next ({ s with tb := { s.tb with frames := s.tb.frames.filter fun g => decide (g.id ≠ id) } }.finish { op with late := false, mark := 0 } 12 0))

/-- CAL_DATE_STAGE only stages a date; a field out of range keeps its old value. CAL_COMMIT of a possible date and time with no alarm armed
sets the calendar, clears OSF and ends the staging; an impossible one is refused. CAL_TICK, from 1 s after a commit, steps one second,
rolls a leap February into March, and stands at the end of 2199. RTC_TRIM_UPDATE sets trim and temperature alone. BACKUP_MEASURE records
every weak projection; BACKUP_SWITCHOVER with both feeds gone leaves PD0 alone and the fence low. RTC_LOST sets OSF, recorded once the
recorder takes records; retention loss starts PD0's clocks and registers afresh. (R139, R140, R143, R144, R146, R147, R148, R149) -/
def Obligations.CalendarAndBackup : Prop :=
  (∀ (s : State) (q : Requester) (v : Word), q ≠ .debug → 1 ≤ bitsOf v.toNat 0 5 → 1 ≤ bitsOf v.toNat 8 4 → bitsOf v.toNat 8 4 ≤ 12 →
    bitsOf v.toNat 16 8 ≤ 199 → exec (.calDateStage q v) s = .next { s with rtc := { s.rtc with
      staged := some (BitVec.ofNat 32 (bitsOf v.toNat 0 5 + 256 * bitsOf v.toNat 8 4 + 65536 * bitsOf v.toNat 16 8)) } }) ∧
  (∀ (s : State) (q : Requester) (v old : Word), q ≠ .debug → s.rtc.staged = some old → 12 < bitsOf v.toNat 8 4 → 1 ≤ bitsOf v.toNat 0 5 →
    bitsOf v.toNat 16 8 ≤ 199 → ∃ t, exec (.calDateStage q v) s = .next t ∧ Says { s with rtc := { s.rtc with
      staged := some (BitVec.ofNat 32 (bitsOf v.toNat 0 5 + 256 * bitsOf old.toNat 8 4 + 65536 * bitsOf v.toNat 16 8)) } }
      [(.writeRefused, [RegName.calDate.addr 0 0, q.code])] [115] t) ∧
  (∀ (s : State) (q : Requester) (v d : Word), q ≠ .debug → s.rtc.staged = some d → (calOf d.toNat v.toNat).ok = true → s.bit .rtcCtrl 0 = false →
    exec (.calCommit q v) s = .next { s with rtc := { s.rtc with
      cal := calOf d.toNat v.toNat, staged := none, osf := false, rangeEnd := false, tickFrom := some s.tb.csr } }) ∧
  (∀ (s : State) (q : Requester) (v d : Word), q ≠ .debug → s.rtc.staged = some d → (calOf d.toNat v.toNat).ok = false →
    ∃ t, exec (.calCommit q v) s = .next t ∧ Says s [(.writeRefused, [RegName.calTime.addr 0 0, q.code])] [115] t) ∧
  (∀ (s : State) (k : Nat), s.rtc.tickFrom = some k → s.tb.csr < k + 100000000 → exec .calTick s = .next s) ∧
  (∀ s : State, s.tickEarly = false → s.rtc.cal.sec < 59 →
    exec .calTick s = .next { s with rtc := { s.rtc with cal := { s.rtc.cal with sec := s.rtc.cal.sec + 1 }, tickFrom := none } }) ∧
  (∀ (s : State) (c : Cal), s.tickEarly = false → s.rtc.cal = { c with month := 2, day := monthDays c.year 2, hour := 23, min := 59, sec := 59 } →
    exec .calTick s = .next { s with rtc := { s.rtc with cal := { c with month := 3, day := 1, hour := 0, min := 0, sec := 0 }, tickFrom := none } } ∧
    (monthDays c.year 2 = 29 ↔ 4 ∣ c.year ∧ (¬ 100 ∣ c.year ∨ 400 ∣ c.year + 2000))) ∧
  (∀ s : State, s.tickEarly = false → s.rtc.cal = ⟨199, 12, 31, 23, 59, 59⟩ →
    exec .calTick s = .next { s with rtc := { s.rtc with rangeEnd := true, tickFrom := none } }) ∧
  (∀ (s : State) (temp : Nat), exec (.rtcTrimUpdate temp) s = .next { s with rtc :=
    { s.rtc with temp := temp, trim := unsignedOf 16 (Config.rtcTrim temp + 10 * signedOf 8 (s.fld .rtcTrim 16 8)) } }) ∧
  (∀ (s : State) (volt : Nat), volt < 4096 →
    exec (.backupMeasure volt false) s = .next { s with rtc := { s.rtc with backupVolt := volt, backupWeak := false } } ∧
    ∃ t, exec (.backupMeasure volt true) s = .next t ∧
      Says { s with rtc := { s.rtc with backupVolt := volt, backupWeak := true } } [(.backupWeak, [volt])] [106] t) ∧
  (∀ s : State, s.pwr.feedAOk = false → s.pwr.feedBOk = false →
    exec .backupSwitchover s = .next
      { s with pwr := { s.pwr with onBackup := true }, rtc := { s.rtc with onBackupSeen := true }, sys := { s.sys with domains := 1 }, wb := { s.wb with wdAlive := false, fenced := true } }) ∧
  (∀ s : State, s.log.taking = true → s.powered 1 = true →
    ∃ t, exec (.rtcLost false) s = .next t ∧ Says { s with rtc := { s.rtc with osf := true, lostPend := none } } [(.rtcLost, [0])] [106] t) ∧
  (∀ s : State, s.log.taking = false → exec (.rtcLost false) s = .next { s with rtc := { s.rtc with osf := true, lostPend := some false } }) ∧
  (∀ s : State, s.log.taking = true → s.powered 1 = true →
    ∃ t, exec (.rtcLost true) s = .next t ∧
      Says { s with tb := {}, rtc := { ({} : RtcSt) with osf := true }, regs := s.regs.filter (fun p => !keptReg p.1),
                    sys := { s.sys with resetCause := 1, wdCount := 0 } } [(.rtcLost, [1])] [106] t)

/-- RING_CLAIM of a free, disabled ring by a core or the host makes it the owner with the set-up of the written word, a new generation and
every index at 0; on an owned ring it sets BUSY with event 111. DURABLE without AUTH is refused. RING_RELEASE by the owner of a disabled
ring frees it. QUEUE_ENABLE by the owner takes the set-up and sets ENABLE. QUEUE_DISABLE clears it and completes every unissued
descriptor. A write by another requester is WRITE_REFUSED. RING_ERR_CLEAR clears RING_ERR. (R151, R152, R156, R157, R171, R189) -/
def Obligations.RingsAreClaimedAndReleased : Prop :=
  (∀ (s : State) (q : Requester) (n : Nat) (v : Word), n < s.hq.queues.length → canOwn q = true → (s.queue n).owner = 0 → (s.queue n).enable = false →
    bitOf v.toNat 0 = false → hqReserved v.toNat = false → badDurable v.toNat = false →
    exec (.ringClaim q n v) s = .next (s.setQueue n fun x =>
      { hqSetup x v.toNat with owner := q.code, gen := x.gen + 1, fetchIdx := 0, cqProd := 0, prod := 0, cqCons := 0,
                               reported := 0, held := [], unread := 0, legacyPop := bitOf v.toNat 6, poll := bitOf v.toNat 7 })) ∧
  (∀ (s : State) (q : Requester) (n : Nat) (v : Word), n < 256 → canOwn q = true → (s.queue n).owner ≠ 0 →
    ∃ t, exec (.ringClaim q n v) s = .next t ∧ Says (s.setQueue n fun x => { x with busy := true }) [] [111] t) ∧
  (∀ (s : State) (q : Requester) (n : Nat) (v : Word), canOwn q = true → (s.queue n).owner = q.code → (s.queue n).enable = false →
    badDurable v.toNat = false → exec (.ringRelease q n v) s = .next (s.setQueue n fun x => { x with owner := 0, poll := false, unread := 0 })) ∧
  (∀ (s : State) (q : Requester) (n : Nat) (v : Word), n < s.hq.queues.length → canOwn q = true → (s.queue n).owner = q.code →
    (s.queue n).enable = false → hqReserved v.toNat = false → badDurable v.toNat = false →
    exec (.queueEnable q n v) s = .next (s.setQueue n fun x =>
      { hqSetup x v.toNat with legacyPop := bitOf v.toNat 6, poll := bitOf v.toNat 7, enable := true })) ∧
  (∀ (s : State) (q : Requester) (n : Nat) (v : Word), canOwn q = true → badDurable v.toNat = true →
    ∃ t, ((s.queue n).owner = 0 → exec (.ringClaim q n v) s = .next t) ∧ exec (.ringRelease q n v) s = .next t ∧
      exec (.queueEnable q n v) s = .next t ∧ exec (.queueDisable q n v) s = .next t ∧ Says s [(.writeRefused, [RegName.hqNCtrl.addr n 0, q.code])] [115] t) ∧
  (∀ (s : State) (q : Requester) (n : Nat) (v : Word), n < 256 → n < s.hq.queues.length → canOwn q = true → (s.queue n).owner = q.code →
    (s.queue n).enable = true → hqReserved v.toNat = false → hqSetup (s.queue n) v.toNat = s.queue n → badDurable v.toNat = false →
    ∃ t k, exec (.queueDisable q n v) s = .next t ∧ (t.queue n).enable = false ∧ (t.queue n).fetched = [] ∧
      k ≤ (s.hq.ops.filter fun o => o.unissued n).length + (s.queue n).fetched.length ∧
      (t.queue n).cqProd = (s.queue n).cqProd + BitVec.ofNat 32 k ∧ (t.queue n).held.length = (s.queue n).held.length +
        ((s.hq.ops.filter fun o => o.unissued n).length + (s.queue n).fetched.length - k) ∧
      (∀ o, o ∈ t.hq.ops ↔ o ∈ s.hq.ops ∧ ∀ p ∈ s.hq.ops, p.unissued n = true → p.tag ≠ o.tag) ∧
      (∀ k, k ≠ n → t.queue k = s.queue k) ∧ t = { s with hq := t.hq, evt := t.evt, mem := t.mem, out := t.out }) ∧
  (∀ (s : State) (q : Requester) (n : Nat) (v : Word), (s.queue n).owner ≠ q.code →
    ∃ t, exec (.queueEnable q n v) s = .next t ∧ exec (.queueDisable q n v) s = .next t ∧ exec (.ringRelease q n v) s = .next t ∧
      Says s [(.writeRefused, [RegName.hqNCtrl.addr n 0, q.code])] [115] t) ∧
  (∀ (s : State) (q : Requester) (n : Nat), exec (.ringErrClear q n) s = .next (s.setQueue n fun x => { x with ringErr := false }))

/-- HQ_KICK of an enabled descriptor ring takes PROD and CQ_CONS of its doorbell entry when the entry holds the ring's generation, and leaves
the ring otherwise; a CQ_CONS that moved is a read of the queue and lets held completions out; a PROD further ahead of the fetch index
last reported than the ring is long sets RING_ERR with the queue event instead. DOORBELL_POLL of the one polled ring does the same.
RING_FETCH serves the first ring after the last one served that has descriptors and credit, takes at most 8 of them within the credit in
ring order, and changes nothing when no ring can be served. The credit never exceeds the completion slots that no operation, fetched
descriptor or held entry is going to take. (R33, R155, R157, R158, R159, R168, R169, R170, R182) -/
def Obligations.DoorbellsAndFetching : Prop :=
  (∀ (s : State) (q : Requester) (n : Nat) (v : Word), bitOf v.toNat 31 = false → bitsOf v.toNat 0 8 = n → n < s.hq.queues.length →
    (s.queue n).enable = true → (s.queue n).owner ≠ 0 → (s.queue n).kind = false →
    leField (Memory.readN s.mem (s.doorbellKey n) 12) 4 4 = (s.queue n).gen.toNat →
    (BitVec.ofNat 32 (leField (Memory.readN s.mem (s.doorbellKey n) 12) 0 4) - (s.queue n).reported).toNat ≤ (s.queue n).sqSize →
    ((s.queue n).cqCons = BitVec.ofNat 32 (leField (Memory.readN s.mem (s.doorbellKey n) 12) 8 4) →
      exec (.hqKick q v) s = .next (s.setQueue n fun x =>
        { x with prod := BitVec.ofNat 32 (leField (Memory.readN s.mem (s.doorbellKey n) 12) 0 4) })) ∧
    ((s.queue n).cqCons ≠ BitVec.ofNat 32 (leField (Memory.readN s.mem (s.doorbellKey n) 12) 8 4) → (s.queue n).held = [] →
      exec (.hqKick q v) s = .next (s.setQueue n fun x =>
        { x with prod := BitVec.ofNat 32 (leField (Memory.readN s.mem (s.doorbellKey n) 12) 0 4),
                 cqCons := BitVec.ofNat 32 (leField (Memory.readN s.mem (s.doorbellKey n) 12) 8 4), unread := 0, quietFrom := s.tb.csr }))) ∧
  (∀ (s : State) (q : Requester) (n : Nat) (v : Word), bitOf v.toNat 31 = false → bitsOf v.toNat 0 8 = n →
    (s.queue n).enable = true → (s.queue n).owner ≠ 0 → (s.queue n).kind = false →
    leField (Memory.readN s.mem (s.doorbellKey n) 12) 4 4 = (s.queue n).gen.toNat →
    (s.queue n).cqCons = BitVec.ofNat 32 (leField (Memory.readN s.mem (s.doorbellKey n) 12) 8 4) →
    (s.queue n).sqSize < (BitVec.ofNat 32 (leField (Memory.readN s.mem (s.doorbellKey n) 12) 0 4) - (s.queue n).reported).toNat →
    ∃ t, exec (.hqKick q v) s = .next t ∧ Says (s.setQueue n fun x => { x with ringErr := true, evt := true }) [] [n / 8] t) ∧
  (∀ (s : State) (n : Nat), s.credit n + (s.inFlight n + (s.queue n).fetched.length + (s.queue n).held.length) ≤
    max (s.cqFree n) (s.inFlight n + (s.queue n).fetched.length + (s.queue n).held.length) ∧ s.credit n ≤ (s.queue n).sqSize - (s.queue n).fetched.length) ∧
  (∀ (s : State) (q : Requester) (n : Nat) (v : Word), bitOf v.toNat 31 = false → bitsOf v.toNat 0 8 = n →
    leField (Memory.readN s.mem (s.doorbellKey n) 12) 4 4 ≠ (s.queue n).gen.toNat → exec (.hqKick q v) s = .next s) ∧
  (∀ (s : State) (n : Nat), n < 256 → (s.queue n).poll = true → (∀ k, k ≠ n → (s.queue k).poll = false) →
    (if (s.queue n).owner = 9 then s.bit .hqCtrl 1 else s.bit .hqCtrl 0) = true →
    exec .doorbellPoll s = exec (.hqKick .host (BitVec.ofNat 32 n)) s) ∧
  (∀ (s : State) (i n : Nat), i < 256 → (s.hq.lastServed + 1 + i) % 256 = n → n < s.hq.queues.length →
    (∀ j, j < i → s.fetchable ((s.hq.lastServed + 1 + j) % 256) = false) → s.fetchable n = true →
    ∃ k t, exec .ringFetch s = .next t ∧ k = min 8 (min (s.credit n) ((s.queue n).prod - (s.queue n).fetchIdx).toNat) ∧
      t.queue n = { s.queue n with
        caches := Caches.times Caches.push k (s.queue n).caches,
        fetchIdx := (s.queue n).fetchIdx + BitVec.ofNat 32 k,
        fetched := (s.queue n).fetched ++ (List.range k).map fun i =>
          let x := (s.queue n).fetchIdx + BitVec.ofNat 32 i
          { idx := x.toNat, bytes := Memory.readN s.mem (ownerKey (s.queue n).owner (s.sqBase n + x.toNat % (s.queue n).sqSize * 64)) 64 } } ∧
      (∀ m, m ≠ n → t.queue m = s.queue m) ∧ t = { s with hq := { s.hq with queues := t.hq.queues, lastServed := n } }) ∧
  (∀ s : State, (∀ n, n < 256 → s.fetchable n = false) → exec .ringFetch s = .next s)

/-- DESC_ISSUE either leaves the ring's fetched descriptors as they are or takes exactly the first of them; a new operation in flight is that
one. A descriptor with FENCE set changes nothing at all while an operation of its ring has not completed. (R162) -/
def Obligations.DescriptorsAreIssuedInRingOrder : Prop :=
  (∀ (s : State) (n : Nat), n < s.hq.queues.length → ∃ t, exec (.descIssue n) s = .next t ∧
    ((t.queue n).fetched = (s.queue n).fetched ∧ t.hq.ops = s.hq.ops ∧ t.mem = s.mem ∨
     (t.queue n).fetched = (s.queue n).fetched.drop 1 ∧
       (∀ o ∈ t.hq.ops, o ∉ s.hq.ops → o.ring = n ∧ ∃ f, (s.queue n).fetched.head? = some f ∧ o.idx = f.idx ∧ o.bytes = f.bytes))) ∧
  (∀ (s : State) (n : Nat) (f : Fetched) (fs : List Fetched), (s.queue n).fetched = f :: fs → dFence f.bytes = true →
    (∃ o ∈ s.hq.ops, o.ring = n) → exec (.descIssue n) s = .next s)

/-- With its 32 floor tags used, no shared tag free and none granted to it, every DESC_ISSUE on a ring of that issuer issues nothing: the
issuer is noted as waiting at most once and nothing else changes, no error is raised and no descriptor leaves its queue. An issuer with
its floor used may not pass one that waits already. TAG_GRANT serves the issuer that waits first, once a shared tag is free, and no other.
(R36) -/
def Obligations.IssuersWaitForTags : Prop :=
  (∀ (s : State) (n i : Nat), ownerIssuer (s.queue n).owner = i → 32 ≤ s.tagsOf i → s.sharedFree = false → i ∉ s.hq.tagGiven →
    ∃ l, exec (.descIssue n) s = .next { s with hq := { s.hq with tagWait := l } } ∧ (∀ e, e ∈ l → e ∈ s.hq.tagWait ∨ e = (i, s.tb.csr)) ∧
      (∀ e ∈ s.hq.tagWait, e ∈ l) ∧ l.length ≤ s.hq.tagWait.length + 1) ∧
  (∀ (s : State) (n i : Nat) (f : Fetched) (fs : List Fetched), ownerIssuer (s.queue n).owner = i → 32 ≤ s.tagsOf i →
    s.sharedFree = false ∨ s.hq.tagWait ≠ [] → i ∉ s.hq.tagGiven →
    (s.queue n).fetched = f :: fs → dFence f.bytes = false → s.sys.mode ≠ .handover →
    (s.queue n).durable = false ∨ s.awaitsAccept n (dSubmit f.bytes) = false → (∀ e ∈ s.hq.tagWait, e.1 ≠ i) →
    exec (.descIssue n) s = .next { s with hq := { s.hq with tagWait := joinWait i s.tb.csr s.hq.tagWait } }) ∧
  (∀ (l : List (Nat × Nat)) (i t : Nat), (∀ e ∈ l, e.2 < t) → joinWait i t l = l ++ [(i, t)]) ∧
  (∀ (s : State) (i t : Nat) (l : List (Nat × Nat)), s.hq.tagWait = (i, t) :: l → s.sharedFree = true →
    exec (.tagGrant i) s = .next { s with hq := { s.hq with tagWait := l, tagGiven := s.hq.tagGiven ++ [i] } }) ∧
  (∀ (s : State) (i : Nat), s.sharedFree = false ∨ (∀ e ∈ s.hq.tagWait.head?, e.1 ≠ i) → exec (.tagGrant i) s = .next s)

/-- With a tag free and no FENCE to wait for, DESC_ISSUE completes the first descriptor with BAD_DESC for its form or a durable SUBMIT_ID 0,
BAD_OPCODE for an opcode its engine or ring lacks, NOT_ACTIVE for one on an AUTH ring of a module that may not act as the lease holder,
ACCESS_FAULT where the MPU refuses a buffer. On a ring without AUTH it becomes an operation in flight; a member in STANDBY or UPDATE keeps
a core's AUTH descriptor that has a SUBMIT_ID, or is durable, as a shadow. On a durable ring a known SUBMIT_ID gives ACCEPTED with
RESUBMIT, or SUBMIT_CONFLICT, or SUBMIT_STALE. (R160, R161, R172, R173, R174, R175, R177) -/
def Obligations.DescriptorsAreJudgedAtIssue : Prop :=
  (∀ (s : State) (n : Nat) (f : Fetched) (fs : List Fetched), (s.queue n).fetched = f :: fs → dFence f.bytes = false →
    (s.queue n).auth = false ∨ s.sys.mode ≠ .handover → s.tagFree (ownerIssuer (s.queue n).owner) = true →
    (s.queue n).durable = false ∨ s.awaitsAccept n (dSubmit f.bytes) = false → ∀ u, u = s.useGrant (ownerIssuer (s.queue n).owner) →
    (descFormOk f.bytes = false → exec (.descIssue n) s = .next ((u.dropFetched n).writeCompletion n f.bytes 0 6 0 0)) ∧
    (descFormOk f.bytes = true → (opInfo (s.queue n).engine (dOpcode f.bytes) = none ∨
        ringAllows (s.queue n).engine (dOpcode f.bytes) (s.queue n).auth (s.queue n).durable = false) →
      exec (.descIssue n) s = .next ((u.dropFetched n).writeCompletion n f.bytes 0 7 0 0)) ∧
    (descFormOk f.bytes = true → (opInfo (s.queue n).engine (dOpcode f.bytes)).isSome →
      ringAllows (s.queue n).engine (dOpcode f.bytes) (s.queue n).auth (s.queue n).durable = true → progressOk (s.queue n).engine f.bytes = true →
      ((s.queue n).durable = true → dSubmit f.bytes = 0 →
        exec (.descIssue n) s = .next ((u.dropFetched n).writeCompletion n f.bytes 0 6 0 0)) ∧
      ((s.queue n).durable = false ∨ dSubmit f.bytes ≠ 0 →
        ((s.queue n).auth = true → s.authoritative = false → s.shadowed n f.bytes = false →
          exec (.descIssue n) s = .next ((u.dropFetched n).writeCompletion n f.bytes 0 5 0 0)) ∧
        ((s.queue n).auth = true → s.authoritative = false → s.shadowed n f.bytes = true →
          exec (.descIssue n) s = .next { u.dropFetched n with hq := { (u.dropFetched n).hq with
            ops := u.hq.ops ++ [{ u.mkOp n f with shadow := true, seen := u.prg.cycle }] } }) ∧
        ((s.queue n).auth = false ∨ s.authoritative = true → ∀ m a k,
          s.descRefused (s.queue n).owner (s.queue n).engine f.bytes (s.queue n).durable = some (m, a, k) →
          exec (.descIssue n) s = .next (((u.mpuFault m a .engine k).dropFetched n).writeCompletion n f.bytes 0 8 0 0)) ∧
        ((s.queue n).auth = false ∨ s.authoritative = true →
          s.descRefused (s.queue n).owner (s.queue n).engine f.bytes (s.queue n).durable = none →
          ((s.queue n).durable = false → exec (.descIssue n) s =
            .next { u.dropFetched n with hq := { (u.dropFetched n).hq with ops := u.hq.ops ++ [u.mkOp n f] } }) ∧
          ((s.queue n).durable = true → ∀ d, assocGet (s.queue n).submitted (dSubmit f.bytes) = some d →
            exec (.descIssue n) s = .next ((u.dropFetched n).writeCompletion n f.bytes 0 (if d = f.bytes then 1 else 10) 0
              (if d = f.bytes then cflags true (!s.wb.dual) false else 0))) ∧
          ((s.queue n).durable = true → assocGet (s.queue n).submitted (dSubmit f.bytes) = none → (s.queue n).submitted ≠ [] →
            dSubmit f.bytes < (s.queue n).lowestSubmit →
            exec (.descIssue n) s = .next ((u.dropFetched n).writeCompletion n f.bytes 0 9 0 0)))))) ∧
  (∀ (s : State) (n : Nat) (f : Fetched) (fs : List Fetched), (s.queue n).fetched = f :: fs → (s.queue n).auth = true → s.sys.mode = .handover →
    exec (.descIssue n) s = .next s) ∧
  (∀ (s : State) (n : Nat) (d : List Byte), s.shadowed n d = true ↔
    (s.queue n).owner ≠ 9 ∧ (s.sys.mode = .standby ∨ s.sys.mode = .update) ∧ ((s.queue n).durable = true ∨ dSubmit d ≠ 0)) ∧
  (∀ (s : State) (n : Nat) (f : Fetched) (fs : List Fetched), (s.queue n).fetched = f :: fs → (s.queue n).durable = true →
    s.awaitsAccept n (dSubmit f.bytes) = true → exec (.descIssue n) s = .next s)

/-- NOP finishes with OK: one in flight keeps its tag until OP_COMPLETE writes its 16-byte entry into slot c mod size with PHASE 1 in even
laps, advances the producer and frees the tag, never before an operation of its ring that finished earlier and never without a free slot,
as when the entry is held for one. Accepted work of the holder is journalled DONE and gone. TIMED_DESC_DUE releases a descriptor at its
TIME and completes a late one without LATE_POLICY with LAUNCH_MISSED; on an AUTH ring it waits in HANDOVER and ends NOT_ACTIVE or as a
shadow elsewhere without the lease. ABORT of an unknown COOKIE completes with NOT_FOUND, of a long or waiting operation completes that
with ABORTED, and of a fetched descriptor too. SHADOW_PAIR_COMPLETE ends a standby's copy with the active's status. (R34, R38, R163, R166,
R168, R172, R173, R176, R188) -/
def Obligations.CompletionsAreWrittenOnce : Prop :=
  (∀ (s : State) (w : WorkRef) (op : Op), s.opOf w = some op → dOpcode op.bytes = 0 → exec (.nop w) s = .next (s.finish op 0 0)) ∧
  (∀ (s : State) (tag : Nat) (op : Op) (res : Nat), s.opOf (.tag tag) = some op → op.jsn = none → op.late = false →
    opLong op.engine (dOpcode op.bytes) = false → dSubmit op.bytes = 0 →
    s.finish op 0 res = { s with hq := { s.hq with finished := s.hq.finished + 1, ops := s.hq.ops.map fun o =>
      if o.tag = tag then { o with done := some (0, res), fin := s.hq.finished } else o } }) ∧
  (∀ (s : State) (j : Nat) (op : Op) (res : Nat), op.jsn = some j → op.late = false → s.authoritative = true →
    ∃ t, t = s.finish op 0 res ∧ t.hq.work = s.hq.work.filter (fun o => decide (o.jsn ≠ some j)) ∧ t.hq.ops = s.hq.ops ∧
      t.wb.jsn = s.wb.jsn + 1 ∧
      t.wb.journal = s.wb.journal ++ [⟨s.wb.jsn + 1, s.sendGen, .done op.ring (dSubmit op.bytes) j 0 res s.tb.ang (s.opStatus op)⟩]) ∧
  (∀ (s : State) (tag n st res : Nat) (o : Op), n < 256 → n < s.hq.queues.length →
    (s.hq.ops.find? fun o => o.tag == tag && o.done.isSome) = some o → o.done = some (st, res) → o.ring = n →
    (s.cqFree n ≠ 0 → (∀ p ∈ s.hq.ops, p.ring = n → p.done.isSome = true → o.fin ≤ p.fin) →
      ∃ t, exec (.opComplete tag) s = .next t ∧ t.hq.ops = s.hq.ops.filter (fun p => decide (p.tag ≠ tag)) ∧
        (t.queue n).cqProd = (s.queue n).cqProd + 1 ∧ (t.queue n).reported = (s.queue n).fetchIdx ∧ (∀ k, k ≠ n → t.queue k = s.queue k) ∧
        t.mem = Memory.writeN s.mem (ownerKey (s.queue n).owner (s.cqBase n + (s.queue n).cqProd.toNat % (s.queue n).cqSize * 16))
          (cqBytes (dCookie o.bytes) tag ((s.queue n).fetchIdx.toNat % 65536) res st (if o.long then 4 else 0)
            (decide ((s.queue n).cqProd.toNat / (s.queue n).cqSize % 2 = 0))) ∧
        t = { s with hq := t.hq, evt := t.evt, mem := t.mem, out := t.out }) ∧
    (s.cqFree n = 0 ∨ (∃ p ∈ s.hq.ops, p.ring = n ∧ p.done.isSome = true ∧ p.fin < o.fin) → exec (.opComplete tag) s = .next s)) ∧
  (∀ (s : State) (n : Nat) (d : List Byte) (tag st res fl : Nat), n < s.hq.queues.length → s.cqFree n = 0 →
    (s.writeCompletion n d tag st res fl).queue n = { s.queue n with held := (s.queue n).held ++ [⟨d, tag, st, res, fl⟩] } ∧
    (s.writeCompletion n d tag st res fl).mem = s.mem) ∧
  (∀ (s : State) (w : WorkRef) (op : Op), s.timedOp w = some op →
    (op.late = true → dLatePolicy op.bytes = false → exec (.timedDescDue w) s = .next (s.finish { op with late := false } 12 0)) ∧
    (op.late = false ∨ dLatePolicy op.bytes = true → s.clockOf (dPtBase op.bytes) < dTime op.bytes → exec (.timedDescDue w) s = .next s) ∧
    (op.late = false ∨ dLatePolicy op.bytes = true → dTime op.bytes ≤ s.clockOf (dPtBase op.bytes) →
      (op.jsn.isSome = true ∧ s.holds = true ∨
        op.jsn = none ∧ ((s.queue op.ring).auth = false ∨ s.authoritative = true ∧ s.sys.mode ≠ .handover) →
        exec (.timedDescDue w) s = .next (s.setOp w fun p => { p with waitTime := false, mark := 0 })) ∧
      (op.jsn.isSome = true ∧ s.holds = false ∨ op.jsn = none ∧ (s.queue op.ring).auth = true ∧ s.sys.mode = .handover →
        exec (.timedDescDue w) s = .next s) ∧
      (op.jsn = none → (s.queue op.ring).auth = true → s.authoritative = false → s.sys.mode ≠ .handover →
        exec (.timedDescDue w) s = .next (if s.shadowed op.ring op.bytes = true then s.setOp w fun p => { p with shadow := true, seen := s.prg.cycle }
          else s.completeOps 5 [op])))) ∧
  (∀ (s : State) (w : WorkRef) (ab : Op), s.opOf w = some ab → dOpcode ab.bytes = 1 →
    ((∀ o, (o ∈ s.hq.ops ∨ o ∈ s.hq.work) → o.ring = ab.ring → dCookie o.bytes = dInline ab.bytes 0 4 → o.same ab = true ∨ o.done ≠ none) →
      (∀ f ∈ (s.queue ab.ring).fetched, dCookie f.bytes ≠ dInline ab.bytes 0 4) → exec (.abort w) s = .next (s.finish ab 11 0)) ∧
    (∀ f, (∀ o, (o ∈ s.hq.ops ∨ o ∈ s.hq.work) → o.ring = ab.ring → dCookie o.bytes = dInline ab.bytes 0 4 → o.same ab = true ∨ o.done ≠ none) →
      (s.queue ab.ring).fetched.find? (fun f => dCookie f.bytes == dInline ab.bytes 0 4) = some f →
      exec (.abort w) s = .next (((s.setQueue ab.ring fun q => { q with fetched := q.fetched.filter fun g => decide (g.idx ≠ f.idx), caches := q.caches.pop }).writeCompletion
        ab.ring f.bytes 0 2 0 0).finish ab 0 0)) ∧
    (∀ o, earliest (s.queue ab.ring).fetchIdx (s.abortOps ab (dInline ab.bytes 0 4)) = some o → s.upd.work ≠ some (.tag o.tag) ∨ o.jsn ≠ none →
      exec (.abort w) s = .next (if o.waitTime = true ∨ o.long = true then (s.finish { o with late := false } 2 0).finish ab 0 0 else s.finish ab 0 0))) ∧
  (∀ (s : State) (ring id : Nat) (o : Op), (s.hq.ops.find? fun o => o.shadow && o.ring == ring && dSubmit o.bytes == id) = some o →
    (s.queue ring).durable = true → journalDesc s.wb.journal ring id = true → s.cqFree ring ≠ 0 →
    ∃ t, exec (.shadowPairComplete ring id) s = .next t ∧ t.hq.ops = s.hq.ops.filter (fun p => decide (p.tag ≠ o.tag)) ∧
      t = { s.writeCompletion ring o.bytes o.tag 1 0 (if o.long then 4 else 0) with hq := t.hq })

/-- WORD_PACKET_DONE makes a packet readable behind its length word. PORT_READ by the owner returns and removes the next word, or the last one
with UNDERRUN and event 110; another requester reads 0, and debug removes nothing. With LEGACY_POP set a read by an owning core, by either
command, waits on an empty port; the host never waits. LEGACY_POP_TIMEOUT ends the wait with a bus error once HQ_LEGACY_TMO has passed,
and not before. DRAIN copies whole packets. QUEUE_STALE raises the queue's event once content has stood unread for STALE µs and moves a
part burst forward. QUEUE_PTR_RESET empties the queue under a new generation, with QUEUE_PTR_RESET and event 109. (R180, R181, R182, R183,
R184, R185, R186) -/
def Obligations.WordQueuesAndPorts : Prop :=
  (∀ (s : State) (n type : Nat) (tr : Bool) (b : List Byte), n < s.hq.queues.length → b.length ≤ 65532 → (s.queue n).kind = true →
    (s.queue n).enable = true → (s.queue n).roomFor (mkPacket type tr b).words.length = true → (s.queue n).legacyWait = none →
    (s.queue n).coalesce = 0 →
    exec (.wordPacketDone n type tr b) s = .next (s.setQueue n fun q =>
      { q with packets := q.packets ++ [mkPacket type tr b], unread := q.unread + (mkPacket type tr b).words.length,
               quietFrom := if (s.queue n).hasContent = true then q.quietFrom else s.tb.csr,
               caches := q.caches.resize q.entriesHeld ({ q with packets := q.packets ++ [mkPacket type tr b] } : Queue).entriesHeld })) ∧
  (∀ (s : State) (q : Requester) (n : Nat) (w : Word) (x : Queue), (s.queue n).kind = true → (s.queue n).owner = q.code → q ≠ .debug →
    q.code ≠ 0 → (s.queue n).pop = some (w, x) →
    exec (.portRead q n) s = .next { s.setQueue n fun _ => { x with unread := 0, quietFrom := s.tb.csr } with resp := some ⟨q, w.toNat, .ok⟩ }) ∧
  (∀ (s : State) (q : Requester) (n : Nat), (s.queue n).kind = true → (s.queue n).owner = q.code → q ≠ .debug → q.code ≠ 0 → (s.queue n).pop = none →
    (s.queue n).legacyPop = false ∨ q = .host → ∃ t, exec (.portRead q n) s = .next t ∧
      Says { s.setQueue n fun x => { x with underrun := true } with resp := some ⟨q, (s.queue n).lastWord.toNat, .ok⟩ } [] [110] t) ∧
  (∀ (s : State) (q : Requester) (n : Nat), q ≠ .debug → (s.queue n).owner ≠ q.code →
    exec (.portRead q n) s = .next { s with resp := some ⟨q, 0, .ok⟩ }) ∧
  (∀ (s : State) (n : Nat), ∃ v, exec (.portRead .debug n) s = .next { s with resp := some ⟨.debug, v, .ok⟩ } ∧
    ∀ w x, (s.queue n).kind = true → (s.queue n).pop = some (w, x) → v = w.toNat) ∧
  (∀ (s : State) (p : Nat) (h : Bool) (m : Priv) (n : Nat), (s.queue n).kind = true → (s.queue n).legacyPop = true →
    (s.queue n).owner = (Requester.core p h m).code → (Requester.core p h m).code < 9 → (s.queue n).pop = none →
    ∃ t, exec (.legacyPopRead (.core p h m) n) s = .next t ∧ exec (.portRead (.core p h m) n) s = .next t ∧
      t = { s.setQueue n fun x => { x with legacyWait := some (.core p h m), legacyFrom := s.tb.csr } with resp := some ⟨.core p h m, 0, .waiting⟩ }) ∧
  (∀ (s : State) (n : Nat) (q : Requester), (s.queue n).legacyWait = some q →
    (s.tb.csr < (s.queue n).legacyFrom + 100 * s.fld .legacyTmo 0 32 → exec (.legacyPopTimeout n) s = .next s) ∧
    ((s.queue n).legacyFrom + 100 * s.fld .legacyTmo 0 32 ≤ s.tb.csr → ∃ t, exec (.legacyPopTimeout n) s = .next t ∧
      Says { s.setQueue n fun x => { x with legacyWait := none } with resp := some ⟨q, 0, .busError⟩ } [] [110] t)) ∧
  (∀ (s : State) (w : WorkRef) (op : Op) (n : Nat), s.opOf w = some op → dOpcode op.bytes = 2 → dInline op.bytes 0 1 = n →
    (s.queue n).kind = true → (s.queue n).readable = [] →
    exec (.drain w) s = .next ((((s.setQueue n fun q =>
        { q with packets := (takePackets (s.queue n).packets (dLength op.bytes)).2,
                 unread := min q.unread ({ q with packets := (takePackets (s.queue n).packets (dLength op.bytes)).2 } : Queue).wordsHeld,
                 caches := q.caches.resize q.entriesHeld ({ q with packets := (takePackets (s.queue n).packets (dLength op.bytes)).2 } : Queue).entriesHeld }).writeBuf op 0
      (wordBytes (takePackets (s.queue n).packets (dLength op.bytes)).1)).finish op 0
      (4 * (takePackets (s.queue n).packets (dLength op.bytes)).1.length)))) ∧
  (∀ (l : List Packet) (room : Nat), ∃ k, (takePackets l room).2 = l.drop k ∧ (takePackets l room).1 = (l.take k).flatMap (·.words) ∧
    4 * (takePackets l room).1.length ≤ room) ∧
  (∀ (s : State) (n : Nat), n < 256 → (s.queue n).hasContent = true → (s.queue n).staleUs ≠ 0 → (s.queue n).quietFrom + 100 * (s.queue n).staleUs ≤ s.tb.csr →
    ∃ t, exec (.queueStale n) s = .next t ∧ Says (s.setQueue n fun q => { q with stale := true, evt := true, caches := q.caches.forward }) [] [n / 8] t) ∧
  (∀ (s : State) (n : Nat), (s.queue n).hasContent = false ∨ s.tb.csr < (s.queue n).quietFrom + 100 * (s.queue n).staleUs →
    exec (.queueStale n) s = .next s) ∧
  (∀ (s : State) (n p : Nat) (a b : Bool), n < 256 → p < 8 → (s.queue n).fetched = [] → (∀ o ∈ s.hq.ops, o.unissued n = false) →
    (s.queue n).durable = false ∨ s.holds = false →
    ∃ t, exec (.queuePtrReset n p a b) s = .next t ∧
      Says { s.setQueue n fun q => { q with fetched := [], caches := {}, packets := [], readable := [], unread := 0, gen := q.gen + 1, ptrReset := true } with
             hq := { (s.setQueue n fun q => { q with fetched := [], caches := {}, packets := [], readable := [], unread := 0, gen := q.gen + 1, ptrReset := true }).hq with
               faultQueue := n, faultPtr := p } } [(.queuePtrReset, [n, p])] [109] t) ∧
  (∀ (s : State) (n p : Nat) (a b : Bool), n < 256 → n < s.hq.queues.length →
    ∃ t k, exec (.queuePtrReset n p a b) s = .next t ∧ (t.queue n).fetched = [] ∧ (t.queue n).packets = [] ∧ (t.queue n).readable = [] ∧
      (t.queue n).gen = (s.queue n).gen + 1 ∧ (t.queue n).ptrReset = true ∧
      k ≤ (s.hq.ops.filter fun o => o.unissued n).length + (s.queue n).fetched.length ∧
      (t.queue n).cqProd = (s.queue n).cqProd + BitVec.ofNat 32 k ∧ (t.queue n).held.length = (s.queue n).held.length +
        ((s.hq.ops.filter fun o => o.unissued n).length + (s.queue n).fetched.length - k) ∧ (∀ k, k ≠ n → t.queue k = s.queue k) ∧
      ((s.queue n).durable = true → s.holds = true → a = false → b = false → ∀ o ∈ t.hq.work, o.ring ≠ n)) ∧
  (∀ (s : State) (n : Nat), (s.refillWork n).hq.ops = s.hq.ops ∧ (∀ o ∈ s.hq.work, o.ring ≠ n ∨ o.started = true ∨ o.steps ≠ 0 → o ∈ (s.refillWork n).hq.work) ∧
    (∀ o ∈ s.workOf, o.ring = n → (∀ p ∈ s.hq.ops, p.jsn ≠ o.jsn) → ∃ p ∈ (s.refillWork n).hq.work, p.jsn = o.jsn))

/-- EVT_SOFT raises exactly the named sources of 124 to 127; EVT_PEND_CLEAR clears exactly the bits written 1. MSIX_MESSAGE of an idle source
routed to the host sends one message on an unmasked vector and latches its pending-array bit on a masked one; of a pending source it does
nothing. EVT_ROUTE_WRITE takes a route, or refuses a reserved one. Masking sends nothing; unmasking with a source pending sends one
message; an EOI one more. A masked vector latches its bit while the link is down too; no message leaves then. The link going down or a
host-port reset stops messages and leaves sources pending. (R19, R190, R191, R193, R614) -/
def Obligations.EventsPendAndReachTheirVectors : Prop :=
  (∀ (s : State) (q : Requester) (v : Word), ∃ t, exec (.evtSoft q v) s = .next t ∧ Reports s t ∧ t.log = s.log ∧
    ∀ k, t.isPending k = (s.isPending k || (decide (124 ≤ k ∧ k < 128) && bitOf v.toNat (k - 124)))) ∧
  (∀ (s : State) (q : Requester) (w : Nat) (v : Word), w < 4 → ∃ t, exec (.evtPendClear q w v) s = .next t ∧
    t = { s with evt := { s.evt with pend := t.evt.pend } } ∧
    ∀ k, k < 128 → t.isPending k = (s.isPending k && !(decide (k / 32 = w) && bitOf v.toNat (k % 32)))) ∧
  (∀ (s : State) (src m : Nat), src < 128 → s.hostVec src = some m → s.isPending src = false →
    (s.vecMasked m = false → s.hostUp = true → exec (.msixMessage src) s = .next { s with
      evt := { s.evt with pend := s.evt.pend ||| BitVec.ofNat 128 (2 ^ src) }, out := s.out ++ [.msix m] }) ∧
    (s.vecMasked m = true → exec (.msixMessage src) s = .next { s with
      evt := { s.evt with pend := s.evt.pend ||| BitVec.ofNat 128 (2 ^ src), msixPba := s.evt.msixPba ||| BitVec.ofNat 32 (2 ^ m) } })) ∧
  (∀ (s : State) (src m : Nat), src < 128 → s.hostVec src = some m → s.isPending src = false → s.vecMasked m = false → s.hostUp = false →
    exec (.msixMessage src) s = .next { s with evt := { s.evt with pend := s.evt.pend ||| BitVec.ofNat 128 (2 ^ src) } }) ∧
  (∀ s : State, s.hostUp = true → s.evt.hostLink = true ∧ s.powered 5 = true ∧ 2 ≤ s.sys.bootStage) ∧
  (∀ (s : State) (src : Nat), s.isPending src = true → exec (.msixMessage src) s = .next s) ∧
  (∀ (s : State) (q : Requester) (src : Nat) (v : Word), src < 128 →
    (routeReserved (v &&& 0x1FF#32).toNat = true → ∃ t, exec (.evtRouteWrite q src v) s = .next t ∧
      Says s [(.writeRefused, [RegName.evtRoute.addr src 0, q.code])] [115] t) ∧
    (routeReserved (v &&& 0x1FF#32).toNat = false → ∃ t, exec (.evtRouteWrite q src v) s = .next t ∧ t.reg .evtRoute src = v &&& 0x1FF#32 ∧
      (∀ r i j, r.addr i j ≠ RegName.evtRoute.addr src 0 → t.reg r i j = s.reg r i j) ∧ t.evt.pend = s.evt.pend ∧
      (s.isPending src = false → t = { s with regs := t.regs }) ∧
      (s.isPending src = true → bitOf v.toNat 0 = true → bitOf v.toNat 1 = true → s.hostUp = true → s.vecMasked (bitsOf v.toNat 4 5) = false →
        t = { s with regs := t.regs, out := s.out ++ [.msix (bitsOf v.toNat 4 5)] }))) ∧
  (∀ (s : State) (q : Requester), exec (.evtHostMaskWrite q 0xFFFFFFFF) s = .next (s.setReg .evtHostMask 0 0 0xFFFFFFFF)) ∧
  (∀ (s : State) (vec : Nat), vec < 32 → exec (.msixMaskWrite vec true) s =
    .next { s with evt := { s.evt with msixMask := s.evt.msixMask ||| BitVec.ofNat 32 (2 ^ vec) } }) ∧
  (∀ (s : State) (vec : Nat), vec < 32 → s.hostUp = true → s.bit .evtHostMask vec = false → bitOf s.evt.msixMask.toNat vec = true →
    s.anyPending vec = true → ∃ t, exec (.msixMaskWrite vec false) s = .next t ∧ t.out = s.out ++ [.msix vec] ∧ t.pba vec = false ∧
      t.evt.pend = s.evt.pend ∧ t = { s with evt := t.evt, out := t.out }) ∧
  (∀ (s : State) (q : Requester) (v : Word), s.hostUp = true → s.anyPending (bitsOf v.toNat 0 5) = true → s.vecMasked (bitsOf v.toNat 0 5) = false →
    exec (.evtHostEoi q v) s = .next { s with out := s.out ++ [.msix (bitsOf v.toNat 0 5)] }) ∧
  (∀ s : State, s.evt.hostLink = false → s.lanesOn = true → (∀ m, m < 32 → s.anyPending m = false) →
    ∃ t, exec .hostLinkUp s = .next t ∧ Says { s with evt := { s.evt with hostLink := true } } [] [101] { t with out := t.out } ∧ t.evt.hostLink = true) ∧
  (∀ s : State, s.evt.hostLink = true →
    ∃ t, exec .hostLinkDown s = .next t ∧ Says { s with evt := { s.evt with hostLink := false } } [] [101] t) ∧
  (∀ s : State, exec .hostPortReset s = .next { s with evt := { s.evt with hostLink := false, msixMask := 0xFFFFFFFF, msixPba := 0 } })

/-- A core's or the host's read of EVT_NEXT of vector v of core pair k, or of host vector m, answers the lowest source that is pending,
enabled and routed to that vector, or 0xFF with none; the event unit and everything but the answer and expired latches stay as they are.
(R194) -/
def Obligations.EvtNextReadsTheLowestSource : Prop :=
  (∀ (s : State) (q : Requester) (r : RegName) (k v : Nat) (on : Nat → Bool), q ≠ .debug →
    (r = .evtNextCore ∧ k < 4 ∧ v < 8 ∧ on = (fun y => s.isPending y && s.bit .evtRoute 0 y && !s.bit .evtRoute 1 y &&
        s.fld .evtRoute 2 2 y == k && s.fld .evtRoute 4 5 y == v) ∨
     r = .evtNextHost ∧ k < 32 ∧ v = 0 ∧ on = (fun y => s.isPending y && s.bit .evtRoute 0 y && s.bit .evtRoute 1 y &&
        s.fld .evtRoute 4 5 y == k)) →
    s.dropOldLatches.latched (latchKey .timed q) (r.addr k v) = none →
    ∃ x, exec (.wideReadLatch q (r.addr k v)) s = .next { s.dropOldLatches with resp := some ⟨q, x, .ok⟩ } ∧
      (x < 128 ∧ on x = true ∧ (∀ y, y < x → on y = false) ∨ x = 255 ∧ ∀ y, y < 128 → on y = false))

/-- `t` is `s` with a message of a type sent to the referee under the next SEQ, which now awaits its reply (R213). -/
def Asks (s : State) (type : RefType) (t : State) : Prop :=
  ∃ m : RefMsg, m.type = type ∧ m.seq = (s.wb.refSeq + 1) % 2 ^ 32 ∧ m.slotB = s.pwr.slotB ∧ m.pairId = s.fld .wbPairId 0 16 ∧
    m.termUs = s.fld .wbLeaseCfg 0 15 ∧ m.gen = s.wb.gen ∧ m.bootEpoch = s.wb.bootEpoch ∧
    t = { s with wb := { s.wb with refSeq := m.seq, outstanding := some m, sends := 1, lastSent := s.tb.csr },
                 out := s.out ++ [.referee s.refByNet m] }

/-- A Wingbeat message as the module sends it now: the next MSG_SEQ of its TYPE, and the generation that the module's messages carry (R197,
R217). -/
def wbOut (s : State) (m : WbMsg) : Out := .wb ⟨nextMsgSeq s.out m.type, s.sendGen⟩ m

/-- HEARTBEAT_TX and HELLO_TX send the module's state on a lane that is up, under MSG_SEQ and generation. Every message of the partner that
fails its CRC, comes with no lane up or carries a lower generation changes nothing; a higher generation is the highest seen from then on.
A valid HEARTBEAT clears the miss count and takes the partner's state; one that shows the holder a whole cycle ahead leads a standby to
SYNC. The second miss raises event 65; with the referee reachable a standby then enters HANDOVER with REQUEST; in SYNC under a holding
partner it is GUARANTEE_BROKEN with journal position and stream numbers. A foreign carrier in HELLO leads from SYNC to QUARANTINE and is
recorded by the holder. Lanes raise event 102; presence and the partner's power-fail JSN are kept. (R71, R196, R197, R201, R217, R218,
R230, R250, R585) -/
def Obligations.HeartbeatsAndHello : Prop :=
  (∀ s : State, s.wbUp = true → exec .heartbeatTx s =
    .next { s with wb := { s.wb with hbSent := true }, out := s.out ++ [wbOut s (.heartbeat s.hbBody)] }) ∧
  (∀ (s : State) (ok : Bool) (g : Nat), ok = false ∨ s.wbUp = false ∨ g < s.wb.gen →
    (∀ h, exec (.helloRx ok g h) s = .next s) ∧ (∀ q m, m.gen = g → exec (.manifestRx ok q m) s = .next s) ∧ (∀ f, exec (.fetchRx ok g f) s = .next s) ∧
    (∀ e c b, exec (.fetchDataRx ok g e c b) s = .next s) ∧ (∀ c d, exec (.outputDigestRx ok g c d) s = .next s) ∧
    (∀ q b l, exec (.journalRx ok q g b l) s = .next s) ∧ (∀ j, exec (.journalAckRx ok g j) s = .next s) ∧
    (∀ x, exec (.consentAskRx ok g x) s = .next s) ∧ (∀ x, exec (.consentGiveRx ok g x) s = .next s) ∧ exec (.consentRefuseRx ok g) s = .next s ∧
    (∀ j, exec (.handoverOfferRx ok g j) s = .next s) ∧ exec (.handoverReadyRx ok g) s = .next s ∧ exec (.handoverGoRx ok g) s = .next s ∧
    exec (.handoverDoneRx ok g) s = .next s ∧ exec (.handoverAbandonRx ok g) s = .next s ∧ (∀ j, exec (.powerFailNoticeRx ok g j) s = .next s) ∧
    (∀ m, exec (.resyncRx ok g m) s = .next s) ∧ (∀ b, exec (.halfRingRx ok g b) s = .next s) ∧
    (∀ a b c d e f, exec (.protNoticeRx ok g a b c d e f) s = .next s)) ∧
  (∀ (s : State) (g j : Nat), s.wbUp = true → s.wb.gen ≤ g →
    exec (.powerFailNoticeRx true g j) s = .next { s with wb := { s.wb with gen := g, partnerJsnAtFail := some j } }) ∧
  (∀ (s : State) (hb : HbBody), exec (.heartbeatRx false hb) s = .next s ∧ (hb.gen < s.wb.gen ∨ s.lanesOn = false → exec (.heartbeatRx true hb) s = .next s)) ∧
  (∀ (s : State) (hb : HbBody), s.lanesOn = true → s.wb.gen ≤ hb.gen → s.wb.partner.heard = true →
    s.sys.mode = .sync ∨ s.sys.mode = .update ∨ s.sys.mode = .handover ∨
      s.sys.mode = .standby ∧ hb.mode ≠ .safeHold ∧ hb.cocoonReq = false ∧ hb.cycle < s.wb.cycle + 2 →
    ∃ t, exec (.heartbeatRx true hb) s = .next t ∧
      Says { s with wb := { s.wb with gen := hb.gen, missedHb := 0, partner := { s.wb.partner with heardAt := s.tb.csr, hb := hb },
                                      holderB := t.wb.holderB, holderValid := t.wb.holderValid } }
        [] (if s.wb.partner.hb.mode = hb.mode then [] else [65]) t ∧
      (hb.lease = .held → s.holds = false → t.wb.holderB = !s.pwr.slotB ∧ t.wb.holderValid = true)) ∧
  (∀ (s : State) (hb : HbBody), s.lanesOn = true → s.wb.gen ≤ hb.gen → s.sys.mode = .standby → hb.lease = .held → hb.mode ≠ .safeHold → hb.cocoonReq = false →
    s.wb.cycle + 2 ≤ hb.cycle → ∃ t, exec (.heartbeatRx true hb) s = .next t ∧ t.sys.mode = .sync ∧ t.wb.resyncStep = 1 ∧ t.wb.fenced = true) ∧
  (∀ (s : State) (hb : HbBody), s.lanesOn = true → s.wb.gen ≤ hb.gen → s.sys.mode = .standby → hb.mode = .safeHold → hb.safeHoldCause = 1 →
    s.sys.restartPend = none →
    ∃ t, exec (.heartbeatRx true hb) s = .next t ∧ t.sys.mode = .safeHold ∧ t.sys.safeHoldCause = 2 ∧ t.wb.fenced = true) ∧
  (∀ s : State, s.wb.partner.heard = true → s.wb.missedHb = 0 → exec .heartbeatMissed s = .next { s with wb := { s.wb with missedHb := 1 } }) ∧
  (∀ s : State, s.wb.partner.heard = true → s.wb.missedHb = 1 → s.sys.mode = .sync → s.wb.partner.hb.lease = .held →
    ∃ t, exec .heartbeatMissed s = .next t ∧
      Says { s with wb := { s.wb with missedHb := 2 } } [(.guaranteeBroken, s.wb.jsn :: s.streamSeqs)] [65, 70] t) ∧
  (∀ s : State, s.wb.partner.heard = true → s.wb.missedHb = 1 → s.sys.mode = .standby → s.wb.refReach = true → s.wb.probed = true →
    s.wb.gaveConsent = none → s.wb.lease = .none →
    ∃ t, exec .heartbeatMissed s = .next t ∧ t.sys.mode = .handover ∧ t.wb.lease = .request ∧ t.wb.missedHb = 2 ∧
      (∃ m : RefMsg, m.type = .request ∧ t.wb.outstanding = some m) ∧ t.isPending 65 = true ∧ t.isPending 66 = true) ∧
  (∀ s : State, s.wbUp = true → exec .helloTx s = .next { s with out := s.out ++ [wbOut s (.hello s.helloBody)] }) ∧
  (∀ (s : State) (g : Nat) (h : HelloBody), s.wbUp = true → s.wb.gen ≤ g → s.sys.mode ≠ .sync → s.holds = false →
    exec (.helloRx true g h) s = .next { s with wb := { s.wb with
      gen := g, partner := { s.wb.partner with hello := some h }, proto := min s.helloBody.proto h.proto } }) ∧
  (∀ (s : State) (g : Nat) (h : HelloBody), s.wbUp = true → s.wb.gen ≤ g → s.sys.mode = .sync →
    h.carrierId ≠ s.pwr.carrierId ∨ helloCompatible s.helloBody h = false →
    ∃ t, exec (.helloRx true g h) s = .next t ∧ t.sys.mode = .quarantine ∧ t.wb.lease = .none ∧ t.wb.fenced = true) ∧
  (∀ (s : State) (g : Nat) (h : HelloBody), s.wbUp = true → s.wb.gen ≤ g → s.sys.mode ≠ .sync → s.holds = true → s.partnerMode = some .sync →
    h.carrierId ≠ s.pwr.carrierId → ∃ t, exec (.helloRx true g h) s = .next t ∧
      Says { s with wb := { s.wb with gen := g, partner := { s.wb.partner with hello := some h }, proto := min s.helloBody.proto h.proto } }
        [(.carrierMismatch, [s.pwr.carrierId, h.carrierId])] [] t) ∧
  (∀ (s : State) (l : Nat), ∃ t, exec (.wbLaneDown l) s = .next t ∧
    Says { s with wb := if l = 0 then { s.wb with lane0 := false } else { s.wb with lane1 := false } } [] [102] t) ∧
  (∀ (s : State) (l : Nat), ∃ v, Says { s with wb := if l = 0 then { s.wb with lane0 := true } else { s.wb with lane1 := true } } [] [102] v ∧
    exec (.wbLaneUp l) s = exec .helloTx v) ∧
  (∀ (s : State) (b : Bool), exec (.partnerPresentChange b) s = .next { s with pwr := { s.pwr with partnerPresent := b } })

/-- MANIFEST_RX at a module that does not follow keeps nothing; a part is kept, what it names and the module does not hold is fetched, a
message missing in MSG_SEQ is asked for, and an angle more than 4,660 counts off is recorded. FETCH_RX makes the holder send an item, or a
message again; FETCH_DATA_RX fills the gap, or fetches again what fails its check. Equal output digests change nothing; different ones are
SHADOW_MISMATCH with event 68, and the third cycle within 100 leads a standby to SYNC. RESYNC_STEP repeats a failed step and goes on after
a good one, admission waiting for a HELLO, step 5 ending SOLO; RESYNC_RX takes each step, the journal and program state of the active with
the cut, and 1,000 matching cycles end in STANDBY. (R106, R197, R199, R233, R242, R243, R248, R249) -/
def Obligations.FollowersTakeManifestsAndResync : Prop :=
  (∀ (s : State) (q : Nat) (m : ManPart), s.wbUp = true → s.wb.gen ≤ m.gen → s.follows = false →
    exec (.manifestRx true q m) s = .next { s with wb := { s.wb with gen := m.gen } }) ∧
  (∀ (s : State) (q : Nat) (m : ManPart), s.wbUp = true → s.follows = true → assocGet s.wb.rxSeq 2 = some q → m.gen = s.wb.gen →
    (∀ e ∈ m.entries, s.hasItem e = true) →
    ∃ t, exec (.manifestRx true ((q + 1) % 2 ^ 32) m) s = .next t ∧
      Says { s with wb := { s.wb with
          rxSeq := assocSet s.wb.rxSeq 2 ((q + 1) % 2 ^ 32), manifests := addPart s.wb.manifests m [],
          newItems := s.wb.newItems.filter fun e => !(m.task == 0 && m.entries.contains e) } }
        (if 4660 < (Int.ofNat s.tb.ang - Int.ofNat m.angle).natAbs then [(.angDiverge, [s.tb.ang, m.angle])] else []) [] t) ∧
  (∀ (s : State) (q : Nat) (m : ManPart) (e : ManEntry), s.wbUp = true → s.follows = true → assocGet s.wb.rxSeq 2 = none → m.gen = s.wb.gen →
    s.tb.ang = m.angle → m.task ≠ 0 → m.entries = [e] → s.hasItem e = false → exec (.manifestRx true q m) s = .next { s with
      wb := { s.wb with rxSeq := assocSet s.wb.rxSeq 2 q, manifests := addPart s.wb.manifests m [e], newItems := s.wb.newItems.filter fun _ => true },
      out := s.out ++ [wbOut s (.fetch e)] }) ∧
  (∀ (s : State) (q : Nat) (m : ManPart), s.wbUp = true → s.follows = true → assocGet s.wb.rxSeq 2 = some q → m.gen = s.wb.gen →
    s.tb.ang = m.angle → m.entries = [] → exec (.manifestRx true ((q + 2) % 2 ^ 32) m) s = .next { s with
      wb := { s.wb with
        rxSeq := assocSet s.wb.rxSeq 2 ((q + 2) % 2 ^ 32), manifests := addPart s.wb.manifests m [],
        newItems := s.wb.newItems.filter fun e => !(m.task == 0 && m.entries.contains e) },
      out := s.out ++ [wbOut s (.fetchMsg 2 ((q + 1) % 2 ^ 32))] }) ∧
  (∀ (s : State) (e : ManEntry) (c : List Byte), s.holds = true → s.wbUp = true → assocGet s.wb.heldItems e = some c →
    exec (.fetchRx true s.wb.gen (.item e)) s = .next { s with out := s.out ++ [wbOut s (.fetchData e c)] }) ∧
  (∀ (s : State) (type seq : Nat) (h : WbHead) (m : WbMsg), s.holds = true → s.wbUp = true → sentMsg s.out type seq = some (h, m) →
    exec (.fetchRx true s.wb.gen (.msg type seq)) s = .next { s with out := s.out ++ [.wbAgain h m] }) ∧
  (∀ (s : State) (e : ManEntry) (c : List Byte), s.follows = true → s.wbUp = true →
    exec (.fetchDataRx true s.wb.gen e c false) s = .next { s with out := s.out ++ [wbOut s (.fetch e)] } ∧
    exec (.fetchDataRx true s.wb.gen e c true) s = .next { s with wb := { s.wb with
      heldItems := newest 4096 (assocSet s.wb.heldItems e c),
      manifests := s.wb.manifests.map fun m => { m with missing := m.missing.filter fun x => decide (x ≠ e) } } }) ∧
  (∀ (s : State) (c : Nat) (own other : List (Nat × List Byte)), s.wbUp = true → s.follows = true → assocGet s.wb.digests c = some own →
    (∀ d ∈ other, assocGet own d.1 = some d.2) → s.sys.mode ≠ .sync → exec (.outputDigestRx true s.wb.gen c other) s = .next s) ∧
  (∀ (s : State) (c st : Nat) (own : List (Nat × List Byte)) (d : List Byte), s.wbUp = true → s.follows = true → assocGet s.wb.digests c = some own →
    assocGet own st ≠ some d → st < 65536 → s.sys.mode = .update → c ∉ s.wb.mismatches →
    ∃ t, exec (.outputDigestRx true s.wb.gen c [(st, d)]) s = .next t ∧ Says { s with
      wb := { s.wb with shadowCount := (s.wb.shadowCount + 1) % 65536, shadowLast := st, mismatches := s.wb.mismatches ++ [c], resyncProg := 0 },
      upd := { s.upd with healthFrom := s.tb.csr } } [(.shadowMismatch, [st, c])] [68] t) ∧
  (∀ (s : State) (c st a b : Nat) (own : List (Nat × List Byte)) (d : List Byte), s.wbUp = true → s.follows = true → assocGet s.wb.digests c = some own →
    assocGet own st ≠ some d → s.sys.mode = .standby → s.wb.resynced = none → s.wb.mismatches = [a, b] → c ≠ a → c ≠ b → c < a + 100 → c < b + 100 →
    ∃ t, exec (.outputDigestRx true s.wb.gen c [(st, d)]) s = .next t ∧ t.sys.mode = .sync ∧ t.wb.resyncStep = 1 ∧ t.isPending 68 = true ∧ t.wb.fenced = true) ∧
  (∀ (s : State) (k : Nat) (m : ResyncMsg), s.holds = true → s.wbUp = true → s.wb.resyncStep = k → k ≠ 0 → s.resyncMsg k = some m →
    exec (.resyncStep false) s = .next { s with out := s.out ++ [wbOut s (.resync m)] } ∧
    (k = 1 → (∀ h, s.wb.partner.hello = some h → h.carrierId = s.pwr.carrierId →
        exec (.resyncStep true) s = .next { s with wb := { s.wb with resyncStep := 2, resyncProg := 0 }, out := s.out ++ [wbOut s (.resync m)] }) ∧
      (s.wb.partner.hello = none → exec (.resyncStep true) s = .next s)) ∧
    (k ≠ 1 → k ≠ 5 → k < 7 → exec (.resyncStep true) s =
      .next { s with wb := { s.wb with resyncStep := k + 1, resyncProg := 0 }, out := s.out ++ [wbOut s (.resync m)] }) ∧
    (k = 7 → exec (.resyncStep true) s = .next { s with wb := { s.wb with resyncStep := 0, resyncProg := 0 }, out := s.out ++ [wbOut s (.resync m)] }) ∧
    (k = 5 → s.wb.jsn ≤ s.wb.jsnAck → s.sys.mode = .solo → ∃ t, exec (.resyncStep true) s = .next t ∧ t.sys.mode = .active ∧ t.wb.dual = true ∧
      t.wb.resyncStep = 6)) ∧
  (∀ s : State, s.wbUp = true → s.sys.mode = .sync →
    (∀ h, s.wb.partner.hello = some h → h.carrierId = s.pwr.carrierId → helloCompatible s.helloBody h = true →
      exec (.resyncRx true s.wb.gen (.admission true)) s = .next { s with wb := { s.wb with resyncStep := 2 } }) ∧
    (∃ t, exec (.resyncRx true s.wb.gen (.admission false)) s = .next t ∧ t.sys.mode = .quarantine ∧ t.wb.fenced = true) ∧
    (∀ b j it fo ta sl gr sg fr ri es st cy se, ∃ t, exec (.resyncRx true s.wb.gen (.cut b j it fo ta s.wb.gen sl gr sg fr ri es st cy se)) s = .next t ∧
      t.wb.journal = j ∧ t.prg.items = it ∧ t.prg.forces = fo ∧ t.prg.cycle = b ∧ t.wb.resyncStep = 5 ∧ t.wb.streams = st ∧ t.wb.served = se ∧
      t.hq.work = [] ∧ t.sys.mode = .sync) ∧
    (∀ n, exec (.resyncRx true s.wb.gen (.follow n)) s = .next { s with out := s.out ++ [wbOut s (.resync (.follow s.wb.resyncProg))] }) ∧
    (s.wb.resyncProg < 1000 → exec (.resyncRx true s.wb.gen .standby) s = .next s) ∧
    (1000 ≤ s.wb.resyncProg → s.wb.resyncStep = 6 → s.pwr.holdupOk = true → controlLost s.sys.unitHealth true = false →
      ∃ t, exec (.resyncRx true s.wb.gen .standby) s = .next t ∧ t.sys.mode = .standby ∧ t.wb.resyncStep = 0 ∧ t.wb.lease = s.wb.lease))

/-- The next entry of the present generation joins the journal and is acknowledged; one that comes before a missing one waits, and one that
stands already changes nothing; the SOLO flag leads a standby to SYNC. JOURNAL_ACK_RX of the present generation commits up to its JSN, so
in dual commit every waiting operation covered whose ring has a free completion slot goes on as accepted work. JOURNAL_STALL ends dual
commit in SOLO and keeps lease and journal. JOURNAL_STREAM_WRITE counts entries down, and CHECKPOINT_WRITE of the holder ends the journal
with a CHECKPOINT. (R197, R236, R237, R240, R241) -/
def Obligations.JournalIsReplicatedInOrder : Prop :=
  (∀ (s : State) (q : Nat) (e : JEntry) (ring id k : Nat), s.wbUp = true → s.follows = true → assocGet s.wb.rxSeq 6 = some q → s.wb.ho = .idle →
    e.body = .step ring id k → e.gen = s.wb.gen → (∀ x ∈ s.wb.journal, x.jsn ≠ e.jsn) → s.wb.early = [] →
    (e.jsn = s.wb.jsn + 1 → exec (.journalRx true ((q + 1) % 2 ^ 32) s.wb.gen false [e]) s = .next { s with
      wb := { s.wb with rxSeq := assocSet s.wb.rxSeq 6 ((q + 1) % 2 ^ 32), journal := s.wb.journal ++ [e], jsn := e.jsn,
                        journalBytes := s.wb.journalBytes + 40, unwritten := s.wb.unwritten + 40, flushMarker := false },
      out := s.out ++ [wbOut s (.journalAck s.wb.gen e.jsn)] }) ∧
    (s.wb.jsn + 1 < e.jsn → exec (.journalRx true ((q + 1) % 2 ^ 32) s.wb.gen false [e]) s = .next { s with
      wb := { s.wb with rxSeq := assocSet s.wb.rxSeq 6 ((q + 1) % 2 ^ 32), early := newest 4096 [e] }, out := s.out ++ [wbOut s (.journalAck s.wb.gen s.wb.jsn)] }) ∧
    (e.jsn ≤ s.wb.jsn → exec (.journalRx true ((q + 1) % 2 ^ 32) s.wb.gen false [e]) s = .next { s with
      wb := { s.wb with rxSeq := assocSet s.wb.rxSeq 6 ((q + 1) % 2 ^ 32) }, out := s.out ++ [wbOut s (.journalAck s.wb.gen s.wb.jsn)] })) ∧
  (∀ (s : State) (q : Nat), s.wbUp = true → s.holds = false → s.sys.mode = .standby →
    ∃ t, exec (.journalRx true q s.wb.gen true []) s = .next t ∧ t.sys.mode = .sync ∧ t.wb.resyncStep = 1 ∧ t.wb.fenced = true) ∧
  (∀ (s : State) (j a : Nat), s.wbUp = true → s.holds = true → s.pwr.pf = .idle → s.sys.mode = .active → s.wb.dual = true →
    max s.wb.jsnAck (min j s.wb.jsn) = a →
    ∃ t, exec (.journalAckRx true s.wb.gen j) s = .next t ∧ t.wb = { s.wb with jsnAck := a } ∧
      (∀ o ∈ t.hq.ops, o ∈ s.hq.ops ∧ ∀ k, o.jsn = some k → k ≤ a → t.cqFree o.ring = 0) ∧
      ((∀ o ∈ s.hq.ops, ∀ p ∈ s.hq.ops, o.tag = p.tag → o = p) → ∀ o ∈ s.hq.ops, ∀ k, o.jsn = some k → k ≤ a →
        o ∈ t.hq.ops ∨ ∃ w ∈ t.hq.work, w.jsn = some k ∧ w.bytes = o.bytes ∧ w.ring = o.ring) ∧
      (∀ o ∈ s.hq.ops, (∀ p ∈ s.hq.ops, ∀ k, p.jsn = some k → k ≤ a → p.tag ≠ o.tag) → o ∈ t.hq.ops)) ∧
  (∀ s : State, s.holds = true → s.wb.dual = true → s.wb.jsnAck < s.wb.jsn → s.sys.mode = .active →
    ∃ t, exec .journalStall s = .next t ∧ t.sys.mode = .solo ∧ t.wb.dual = false ∧ t.wb.jsn = s.wb.jsn ∧ t.wb.jsnAck = s.wb.jsnAck ∧
      t.wb.lease = s.wb.lease ∧ t.wb.journal = s.wb.journal) ∧
  (∀ (s : State) (b : Nat), s.wb.journalFull = false → exec (.journalStreamWrite b) s = .next { s with wb := { s.wb with unwritten := s.wb.unwritten - b } }) ∧
  (∀ (s : State) (b : Nat), s.wb.journalFull = true → s.wb.journalBytes * 100 ≤ 536870912 * 85 → s.wb.unwritten - b ≤ 12582912 →
    ∃ t, exec (.journalStreamWrite b) s = .next t ∧
      Says { s with wb := { s.wb with unwritten := s.wb.unwritten - b, journalFull := false } } [(.journalFullEnd, [])] [] t) ∧
  (∀ (s : State) (im : ProgImage), s.holds = true → s.prg.image = some im → s.wb.served = [] →
    ∃ t, exec .checkpointWrite s = .next t ∧ t.wb.jsn = s.wb.jsn + 1 ∧
      t.wb.journal.getLast? = some ⟨s.wb.jsn + 1, s.sendGen, .checkpoint s.prg.cycle im.digest s.retainedImage⟩ ∧ t.prg = s.prg ∧ t.hq = s.hq)

/-- ORDERED_SEND of the holder completes: it journals an INTENT with the next SEQ, outside dual commit the frame leaves at once, in dual
commit none leaves; with 64 unacknowledged it waits. STREAM_ACK_RX completes: an ACK of another epoch changes nothing; one of the present
epoch drops what it acknowledges and lets waiting frames in; REASON 2 re-sends the rest; REASON 3 makes the oldest frame go again with
START and the rest behind it. ORD_ACK_TIMEOUT completes: it re-sends every committed unacknowledged frame with RESEND. ORD_ACK_JOURNAL
completes: it journals the acknowledged number once. Nothing happens without the lease. (R204, R207, R209, R210, R238) -/
def Obligations.OrderedStreamsAreSequenced : Prop :=
  (∀ (s : State) (id : Nat) (st : Stream) (p : List Byte), s.authoritative = true → s.streamOf id = some st → st.unacked.length < 64 → st.waiting = [] →
    ∃ t, exec (.orderedSend id p) s = .next t ∧ t.wb.jsn = s.wb.jsn + 1 ∧
      t.wb.journal = s.wb.journal ++ [⟨s.wb.jsn + 1, s.sendGen, .intent id st.nextSeq st.epoch p⟩] ∧
      t.streamOf id = some { st with nextSeq := (st.nextSeq + 1) % 2 ^ 32, unacked := st.unacked ++ [(st.nextSeq, s.wb.jsn + 1, p)] } ∧
      (∀ k, k ≠ id → t.streamOf k = s.streamOf k) ∧ t.hq = s.hq ∧ t.regs = s.regs ∧
      (s.wb.dual = false → t.out.getLast? = some (.net (s.streamNet id) 6 (.stream 1 id st.epoch st.nextSeq false false p))) ∧
      (s.wb.dual = true → s.wb.jsnAck ≤ s.wb.jsn → ∀ n pr f, Out.net n pr f ∈ t.out → Out.net n pr f ∈ s.out)) ∧
  (∀ (s : State) (id : Nat) (st : Stream) (p : List Byte), s.authoritative = true → s.streamOf id = some st → 64 ≤ st.unacked.length ∨ st.waiting ≠ [] →
    exec (.orderedSend id p) s = .next { s with wb := { s.wb with
      streams := s.wb.streams.map fun t => if t.id = id then { t with waiting := t.waiting ++ [p] } else t } }) ∧
  (∀ (s : State) (id e q r : Nat) (st : Stream), s.streamOf id = some st → e ≠ st.epoch → exec (.streamAckRx id e q r) s = .next s) ∧
  (∀ (s : State) (id q r : Nat) (st : Stream) (u : State), s.authoritative = true → s.streamOf id = some st → r ≠ 3 →
    u = { s with wb := { s.wb with
      streams := s.wb.streams.map fun t => if t.id = id then
        { t with unacked := st.unacked.filter fun f => decide (0 < signedOf 32 (unsignedOf 32 (Int.ofNat f.1 - Int.ofNat q))), ackH := max t.ackH q } else t } } →
    (r ≠ 2 → st.waiting = [] → exec (.streamAckRx id st.epoch q r) s = .next u) ∧
    (r = 2 → st.waiting = [] → exec (.streamAckRx id st.epoch q r) s = .next { u with
      out := s.out ++ (s.committedOf (st.unacked.filter fun f => decide (0 < signedOf 32 (unsignedOf 32 (Int.ofNat f.1 - Int.ofNat q))))).map fun g =>
        .net (s.streamNet st.id) 6 (.stream 1 st.id st.epoch g.1 true false g.2.2) }) ∧
    ∃ t, exec (.streamAckRx id st.epoch q r) s = .next t ∧ t.hq = s.hq ∧ t.regs = s.regs ∧
      (∀ x, t.streamOf id = some x → x.ackH = max st.ackH q ∧ (x.waiting = [] ∨ 64 ≤ x.unacked.length) ∧
        ∃ k, x.waiting = st.waiting.drop k ∧ t.wb.jsn = s.wb.jsn + k)) ∧
  (∀ (s : State) (id q : Nat) (st : Stream) (f : Nat × Nat × List Byte) (fs : List (Nat × Nat × List Byte)), s.authoritative = true →
    s.streamOf id = some st → s.committedOf st.unacked = f :: fs →
    exec (.streamAckRx id st.epoch q 3) s = .next { s with
      out := s.out ++ .net (s.streamNet st.id) 6 (.stream 1 st.id st.epoch f.1 true true f.2.2) :: fs.map fun g =>
        .net (s.streamNet st.id) 6 (.stream 1 st.id st.epoch g.1 true false g.2.2) }) ∧
  (∀ (s : State) (id : Nat) (st : Stream), s.authoritative = true → s.streamOf id = some st →
    exec (.ordAckTimeout id) s = .next { s with
      out := s.out ++ (s.committedOf st.unacked).map fun g =>
        .net (s.streamNet st.id) 6 (.stream 1 st.id st.epoch g.1 true false g.2.2) }) ∧
  (∀ (s : State) (id : Nat) (st : Stream), s.authoritative = true → s.streamOf id = some st → st.journalledH < st.ackH →
    ∃ t, exec (.ordAckJournal id) s = .next t ∧ t.wb.jsn = s.wb.jsn + 1 ∧
      t.wb.journal = s.wb.journal ++ [⟨s.wb.jsn + 1, s.sendGen, .ordAck id st.epoch st.ackH⟩] ∧
      t.streamOf id = some { st with journalledH := st.ackH } ∧ exec (.ordAckJournal id) t = .next t) ∧
  (∀ (s : State) (id : Nat) (st : Stream), s.streamOf id = some st → st.ackH ≤ st.journalledH → exec (.ordAckJournal id) s = .next s) ∧
  (∀ (s : State) (id e q r : Nat) (p : List Byte), s.authoritative = false ∨ s.streamOf id = none → exec (.orderedSend id p) s = .next s ∧
    exec (.streamAckRx id e q r) s = .next s ∧ exec (.ordAckTimeout id) s = .next s ∧ exec (.ordAckJournal id) s = .next s)

/-- PROBE_TX asks for STATUS, whose reply sets the boot epoch one above both known ones. REQUEST_REPEAT in INSERTED, QUARANTINE, SERVICE and
SYNC changes nothing; a standby missing its partner asks and enters HANDOVER, and with the referee unreachable goes on asking in STANDBY.
A reply whose check fails or under another SEQ changes nothing. GRANT of a RENEW sets the local expiry from the instant it was sent; GRANT
of a takeover REQUEST makes a module in HANDOVER the SOLO holder; DENY sends it back to STANDBY. A message without reply goes again up to
three sends, then the referee is unreachable with event 67, also for one never reached; a REQUEST outstanding in a mode that sends none
ends. (R213, R214, R217, R218, R219, R224, R225, R228) -/
def Obligations.RefereeGrantsTheLease : Prop :=
  (∀ s : State, s.refSilent = false → s.wb.outstanding = none → ∃ t, exec .probeTx s = .next t ∧ Asks s .probe t) ∧
  (∀ s : State, s.sys.mode = .inserted ∨ s.sys.mode = .sync ∧ s.fld .wbLeaseCfg 16 2 = 0 → exec .probeTx s = .next s) ∧
  (∀ (s : State) (m : RefMsg) (holder gen ep : Nat), s.wb.outstanding = some m → m.type = .probe → s.wb.probed = false → s.wb.refReach = true →
    exec (.statusRx true m.seq holder gen ep) s = .next { s with wb := { s.wb with
      outstanding := none, sends := 0, refLost := false, gen := max s.wb.gen gen, holderB := decide (holder = 2), holderValid := decide (holder ≠ 0),
      bootEpoch := (max s.wb.bootEpoch ep + 1) % 65536, refSeq := 0, probed := true } }) ∧
  (∀ s : State, s.sys.mode = .inserted ∨ s.sys.mode = .quarantine ∨ s.sys.mode = .service ∨ s.sys.mode = .sync → exec .requestRepeat s = .next s) ∧
  (∀ s : State, s.sys.mode = .boot → s.sys.starting = true → s.wb.probed = true → s.promised = false → s.wb.lease = .request →
    ∃ t, exec .requestRepeat s = .next t ∧ Asks s .request t) ∧
  (∀ s : State, s.sys.mode = .standby → 2 ≤ s.wb.missedHb → s.wb.refReach = true → s.wb.probed = true → s.promised = false → s.wb.lease = .none →
    ∃ t, exec .requestRepeat s = .next t ∧ t.sys.mode = .handover ∧ t.wb.lease = .request ∧ t.isPending 66 = true) ∧
  (∀ s : State, s.sys.mode = .standby → 2 ≤ s.wb.missedHb → s.wb.refReach = false → s.wb.probed = true → s.promised = false → s.wb.lease = .request →
    ∃ t, exec .requestRepeat s = .next t ∧ Asks s .request t) ∧
  (∀ (s : State) (ok : Bool) (seq gen term rs holder : Nat), ok = false ∨ (∀ m, s.wb.outstanding = some m → m.seq ≠ seq) →
    exec (.grantRx ok seq gen term) s = .next s ∧ exec (.denyRx ok seq rs holder gen) s = .next s ∧
    exec (.statusRx ok seq holder gen term) s = .next s) ∧
  (∀ (s : State) (m : RefMsg) (term : Nat), s.wb.outstanding = some m → m.type = .renew → s.wb.lease = .held → s.wb.refReach = true →
    exec (.grantRx true m.seq s.wb.gen term) s = .next { s with wb := { s.wb with
      outstanding := none, sends := 0, refLost := false, granted := s.wb.gen,
      expiry := s.wb.lastSent + s.fld .wbLeaseCfg 0 15 * 100 * 9997 / 10000 - 2000, holderB := s.pwr.slotB,
      holderValid := true, consentEnd := none, refGrants := (s.wb.refGrants + 1) % 65536 } }) ∧
  (∀ (s : State) (m : RefMsg) (gen term : Nat), s.wb.outstanding = some m → m.type = .request → s.wb.lease = .request → s.sys.mode = .handover →
    s.wb.ho = .idle → s.sys.restartPend = none → s.pwr.ejectReq = false → controlLost s.sys.unitHealth true = false →
    ∃ t, exec (.grantRx true m.seq gen term) s = .next t ∧ t.sys.mode = .solo ∧ t.wb.lease = .held ∧ t.wb.granted = gen ∧ t.wb.dual = false ∧
      t.wb.gen = max s.wb.gen gen) ∧
  (∀ (s : State) (m : RefMsg) (rs holder gen : Nat), s.wb.outstanding = some m → m.type = .request → s.wb.lease = .request → s.sys.mode = .handover →
    s.wb.ho = .idle → s.sys.restartPend = none → s.pwr.ejectReq = false →
    ∃ t, exec (.denyRx true m.seq rs holder gen) s = .next t ∧ t.sys.mode = .standby ∧ t.wb.lease = .none ∧
      t.wb.refDenies = (s.wb.refDenies + 1) % 65536 ∧ t.wb.gen = max s.wb.gen gen) ∧
  (∀ (s : State) (m : RefMsg), s.wb.outstanding = some m → s.wb.sends < 3 → m.type ≠ .request ∨ s.mayRequest = true →
    ∃ b, exec .refereeReplyTimeout s = .next { s with wb := { s.wb with sends := s.wb.sends + 1 }, out := s.out ++ [.referee b m] }) ∧
  (∀ (s : State) (m : RefMsg), s.wb.outstanding = some m → m.type = .request → s.sys.mode = .service → s.wb.lease = .none →
    exec .refereeReplyTimeout s = .next { s with wb := { s.wb with outstanding := none } }) ∧
  (∀ (s : State) (m : RefMsg), s.wb.outstanding = some m → 3 ≤ s.wb.sends → m.type = .probe → s.wb.refLost = false →
    ∃ t, exec .refereeReplyTimeout s = .next t ∧
      Says { s with wb := { s.wb with outstanding := none, refReach := false, refLost := true } } [(.refereeUnreachable, [m.seq])] [67] t)

/-- RENEW_TX of a holder sends RENEW; in CONSENT it asks for consent where CONSENT_EN allows it, or sends REQUEST once the referee is back.
LEASE_EXPIRY before the local expiry changes nothing; at it, without consent, LOST is entered with LEASE_LOST and event 64, with consent
CONSENT until its end; CONSENT_LAPSE at the end of the consent enters LOST. CONSENT ASK is answered GIVE only in STANDBY or UPDATE without
the referee and with CONSENT_EN, else REFUSE; GIVE sets the end of consent, REFUSE ends what a holder counted on. A write of 0x5AFE to
WB_LEASE_WD lets the fence follow the mode, any other value changes nothing; FENCE_WD_EXPIRY drops it at once. (R213, R215, R216, R220,
R221, R229, R230, R231) -/
def Obligations.LeaseClockFenceAndConsent : Prop :=
  (∀ s : State, s.wb.lease = .held → ∃ t, exec .renewTx s = .next t ∧ Asks s .renew t) ∧
  (∀ s : State, s.wb.lease = .consent → s.wb.refReach = true → s.wb.probed = true → s.promised = false → s.sys.mode = .solo →
    ∃ t, exec .renewTx s = .next t ∧ Asks s .request t) ∧
  (∀ s : State, s.wb.lease = .consent → s.wb.refReach = false → s.bit .wbLeaseCfg 18 = true →
    (s.impliedConsent = true → exec .renewTx s =
      .next { s with wb := { s.wb with consentEnd := some (s.tb.csr + s.fld .wbLeaseCfg 0 15 * 100) } }) ∧
    (s.impliedConsent = false → s.wbUp = true → exec .renewTx s =
      .next { s with out := s.out ++ [wbOut s (.consent 0 (s.fld .wbLeaseCfg 0 15))] })) ∧
  (∀ s : State, s.wb.lease = .consent → s.wb.refReach = false → s.bit .wbLeaseCfg 18 = false → exec .renewTx s = .next s) ∧
  (∀ s : State, s.tb.csr < s.wb.expiry → exec .leaseExpiry s = .next s) ∧
  (∀ (s : State) (e : Nat), s.wb.lease = .held → s.wb.expiry ≤ s.tb.csr → s.wb.consentEnd = some e → s.tb.csr < e →
    exec .leaseExpiry s = .next { s with wb := { s.wb with lease := .consent, expiry := e } }) ∧
  (∀ s : State, s.wb.lease = .held → s.wb.expiry ≤ s.tb.csr → s.wb.consentEnd = none → s.partnerTakes = false →
    ∃ t, exec .leaseExpiry s = .next t ∧ t.authoritative = false ∧
      Says { s with wb := { s.wb with lease := .lost, expiry := 0, consentEnd := none } } [(.leaseLost, [s.wb.gen])] [64] t) ∧
  (∀ (s : State) (e : Nat), s.wb.lease = .consent → s.wb.consentEnd = some e → (s.tb.csr < e → exec .consentLapse s = .next s) ∧
    (e ≤ s.tb.csr → s.partnerTakes = false → ∃ t, exec .consentLapse s = .next t ∧
      Says { s with wb := { s.wb with lease := .lost, expiry := 0, consentEnd := none } } [(.leaseLost, [s.wb.gen])] [64] t)) ∧
  (∀ (s : State) (term : Nat), s.wbUp = true →
    (s.sys.mode = .standby ∨ s.sys.mode = .update → s.wb.refReach = false → s.bit .wbLeaseCfg 18 = true →
      exec (.consentAskRx true s.wb.gen term) s =
        .next { s with wb := { s.wb with gaveConsent := some (s.tb.csr + term * 100) }, out := s.out ++ [wbOut s (.consent 1 term)] }) ∧
    (s.sys.mode ≠ .standby ∧ s.sys.mode ≠ .update ∨ s.wb.refReach = true ∨ s.bit .wbLeaseCfg 18 = false →
      exec (.consentAskRx true s.wb.gen term) s = .next { s with out := s.out ++ [wbOut s (.consent 2 0)] })) ∧
  (∀ (s : State) (term : Nat), s.wbUp = true →
    (s.bit .wbLeaseCfg 18 = true → s.wb.lease = .held → exec (.consentGiveRx true s.wb.gen term) s =
      .next { s with wb := { s.wb with consentEnd := some (s.tb.csr + term * 100) } }) ∧
    (s.bit .wbLeaseCfg 18 = true → s.wb.lease = .consent → exec (.consentGiveRx true s.wb.gen term) s =
      .next { s with wb := { s.wb with consentEnd := some (s.tb.csr + term * 100), expiry := s.tb.csr + term * 100 } }) ∧
    (s.bit .wbLeaseCfg 18 = false → exec (.consentGiveRx true s.wb.gen term) s = .next s)) ∧
  (∀ s : State, s.wbUp = true → s.wb.lease = .held →
    exec (.consentRefuseRx true s.wb.gen) s = .next { s with wb := { s.wb with consentEnd := none } }) ∧
  (∀ (s : State) (q : Requester), q ≠ .debug → s.pwr.pf = .idle →
    exec (.leaseWdWrite q 0x5AFE) s = .next { s with wb := { s.wb with wdAlive := true, fenced := !s.fenceAllowed } }) ∧
  (∀ (s : State) (q : Requester) (v : Word), q ≠ .debug → v ≠ 0x5AFE → exec (.leaseWdWrite q v) s = .next s) ∧
  (∀ s : State, exec .fenceWdExpiry s = .next { s with wb := { s.wb with wdAlive := false, fenced := true } })

/-- HANDOVER_PLAN on an active beside a standby plans one; PLANNED_HANDOVER_START enters HANDOVER, sends OFFER and raises event 66, and
without a standby drops the plan; from OFFER on the holder takes no authoritative action. The standby answers READY once its journal holds
the offered JSN; READY makes the holder send RELEASE; GO makes the standby enter HANDOVER with REQUEST; DONE makes the former holder
STANDBY with no work left. ABANDON or a missing READY keeps the lease with the holder; ABANDON of a LOST holder makes a standby ask.
DRILL_DUE before the due stamp changes nothing; at it the stamp moves past the present and the drill is planned, or DRILL_SKIPPED
recorded; DRILL_DWELL_END plans the way back. (R94, R115, R135, R216, R235, R244, R245, R246, R247) -/
def Obligations.HandoversAndDrills : Prop :=
  (∀ (s : State) (q : Requester) (v : Word), q ≠ .debug → bitOf v.toNat 0 = true → s.sys.mode = .active → s.wb.ho = .idle → s.partnerStandby = true →
    exec (.handoverPlan q v) s = .next { s with wb := { s.wb with ho := .planned } }) ∧
  (∀ (s : State) (q : Requester) (v : Word), q ≠ .debug → s.partnerStandby = false → exec (.handoverPlan q v) s = .next s) ∧
  (∀ s : State, s.wb.ho = .planned → s.sys.mode = .active → s.partnerStandby = true →
    ∃ t, exec .plannedHandoverStart s = .next t ∧ t.sys.mode = .handover ∧ t.wb.ho = .offered ∧ t.wb.hoJsn = s.wb.jsn ∧ t.wb.lease = s.wb.lease ∧
      t.isPending 66 = true ∧ t.authoritative = false) ∧
  (∀ s : State, s.wb.ho = .planned → s.sys.mode = .active → s.partnerStandby = false → s.sys.restartPend = none → s.pwr.ejectReq = false →
    exec .plannedHandoverStart s = .next { s with wb := { s.wb with ho := .idle, drill := .idle, drillTimes := [] } }) ∧
  (∀ (s : State) (j : Nat), s.sys.mode = .standby → s.wbUp = true → j ≤ s.wb.jsn →
    exec (.handoverOfferRx true s.wb.gen j) s = .next { s with
      wb := { s.wb with ho := .ready, hoJsn := j, hoReplied := true, hoStart := s.tb.csr }, out := s.out ++ [wbOut s (.handover 1 s.wb.jsn)] }) ∧
  (∀ (s : State) (j : Nat), s.sys.mode = .standby → s.wbUp = true → s.wb.jsn < j →
    exec (.handoverOfferRx true s.wb.gen j) s = .next { s with wb := { s.wb with ho := .ready, hoJsn := j, hoReplied := false, hoStart := s.tb.csr } }) ∧
  (∀ s : State, s.wbUp = true → s.wb.ho = .offered → s.sys.mode = .handover →
    ∃ t, exec (.handoverReadyRx true s.wb.gen) s = .next t ∧ Asks { s with wb := { s.wb with ho := .releasing } } .release t) ∧
  (∀ s : State, s.wbUp = true → s.wb.ho = .ready → s.sys.mode = .standby → s.wb.probed = true → s.wb.gaveConsent = none → s.wb.lease = .none →
    ∃ t, exec (.handoverGoRx true s.wb.gen) s = .next t ∧ t.sys.mode = .handover ∧ t.wb.ho = .requesting ∧ t.wb.lease = .request ∧ t.isPending 66 = true) ∧
  (∀ s : State, s.wbUp = true → s.wb.ho = .gone → s.sys.mode = .handover → s.wb.drill = .idle → s.sys.restartPend = none → s.pwr.ejectReq = false →
    ∃ t, exec (.handoverDoneRx true s.wb.gen) s = .next t ∧ t.sys.mode = .standby ∧ t.wb.ho = .idle ∧ t.wb.lease = s.wb.lease ∧ t.hq.work = [] ∧
      t.isPending 66 = true) ∧
  (∀ s : State, s.wbUp = true → s.wb.ho = .requesting → s.sys.mode = .handover → s.wb.drill = .idle → s.wb.lease = .request → s.sys.restartPend = none →
    s.pwr.ejectReq = false →
    ∃ t, exec (.handoverAbandonRx true s.wb.gen) s = .next t ∧ t.sys.mode = .standby ∧ t.wb.ho = .idle ∧ t.wb.lease = .none ∧ t.isPending 66 = true) ∧
  (∀ s : State, s.wbUp = true → s.wb.ho = .idle → s.sys.mode = .standby → s.wb.refReach = true → s.wb.probed = true → s.promised = false → s.wb.lease = .none →
    ∃ t, exec (.handoverAbandonRx true s.wb.gen) s = .next t ∧ t.sys.mode = .handover ∧ t.wb.lease = .request) ∧
  (∀ s : State, s.wb.ho = .offered → s.sys.mode = .handover → s.wb.lease = .held → s.sys.restartPend = none → s.pwr.ejectReq = false →
    ∃ t, exec .handoverReadyTimeout s = .next t ∧ t.sys.mode = .active ∧ t.wb.ho = .idle ∧ t.wb.lease = .held ∧ t.wb.drill = .idle ∧
      t.isPending 66 = true) ∧
  (∀ s : State, s.tb.ang < (s.reg .wbDrillDueLo).toNat + 2 ^ 32 * (s.reg .wbDrillDueHi).toNat → exec .drillDue s = .next s) ∧
  (∀ (s : State) (due per : Nat), s.bit .wbDrillCtrl 0 = true → s.sys.mode = .active → s.holds = true → s.prg.stage = 0 → s.pwr.holdupOk = false →
    (s.reg .wbDrillDueLo).toNat + 2 ^ 32 * (s.reg .wbDrillDueHi).toNat = due → due ≤ s.tb.ang →
    s.fld .wbDrillCtrl 8 8 * 86400 * (if s.bit .angCtrl 4 then 60 else 50) * countsPerCycle = per →
    ∃ u t : State, exec .drillDue s = .next t ∧ u = { s with regs := u.regs } ∧
      (u.reg .wbDrillDueLo).toNat + 2 ^ 32 * (u.reg .wbDrillDueHi).toNat = (due + ((s.tb.ang - due) / per + 1) * per) % 2 ^ 64 ∧
      Says { u with wb := { s.wb with drillBegun := false, drillResult := 2 } } [(.drillSkipped, [])] [69] t) ∧
  (∀ s : State, s.bit .wbDrillCtrl 0 = true → s.sys.mode = .active → s.holds = true → s.prg.stage = 0 → s.pwr.holdupOk = true →
    (s.reg .wbDrillDueLo).toNat + 2 ^ 32 * (s.reg .wbDrillDueHi).toNat ≤ s.tb.ang →
    s.partnerStandby = true → s.wb.partner.hb.holdupOk = true → s.sys.unitHealth = 0 → s.partnerWhole = true → s.wb.ho = .idle →
    ∃ t, exec .drillDue s = .next t ∧ t.wb.drill = .going ∧ t.wb.ho = .planned ∧ t.isPending 69 = true ∧ t.sys = s.sys) ∧
  (∀ s : State, s.wb.drill = .dwell → s.sys.mode = .active → s.holds = true → s.wb.ho = .idle →
    exec .drillDwellEnd s = .next { s with wb := { s.wb with drill := .back, ho := .planned } })

/-- REFEREE_MSG_RX whose check fails, of a pair not served, or not fresh (PROBE apart) is discarded. A REQUEST is denied to a fenced slot,
while the start-up hold lasts and while the other slot's lease runs; it is granted with a raised generation to a slot not granted last,
when nobody holds the lease or the other's has run out. RENEW of the holder is granted with the generation it has. RELEASE of the holder
frees the lease, FENCED marks the slot, and PROBE is answered with STATUS. Each accepted pair of boot epoch and SEQ goes into the table
and the journal. Of two messages at one clock count that of slot A is taken first. REFEREE_STARTUP_HOLD_END ends the hold. (R65, R217,
R222, R223, R224, R227) -/
def Obligations.RefereeDutiesForServedPairs : Prop :=
  (∀ (s : State) (m : RefMsg), exec (.refereeMsgRx m false none) s = .next s) ∧
  (∀ (s : State) (m : RefMsg) (b : Bool), s.authoritative = false → exec (.refereeMsgRx m b none) s = .next s) ∧
  (∀ (s : State) (m : RefMsg) (b : Bool), (∀ x ∈ s.cfg.servedPairs, x.1 ≠ m.pairId) → exec (.refereeMsgRx m b none) s = .next s) ∧
  (∀ (s : State) (m : RefMsg) (p : RefPair), s.servedPair m.pairId = p → m.type ≠ .probe → m.slotB = false → m.bootEpoch = p.epochA → m.seq ≤ p.seqA →
    exec (.refereeMsgRx m true none) s = .next s) ∧
  (∀ (s : State) (p : RefPair), ∃ t, t = s.setServed p ∧ t.wb.jsn = s.wb.jsn + 1 ∧
    t.wb.journal = s.wb.journal ++ [⟨s.wb.jsn + 1, s.sendGen, .referee p⟩] ∧ t.servedPair p.pairId = p) ∧
  (∀ (s : State) (m x : RefMsg) (b c : Bool) (t : State), m.slotB = true → x.slotB = false →
    exec (.refereeMsgRx x c none) s = .next t → exec (.refereeMsgRx m b (some (x, c))) s = exec (.refereeMsgRx m b none) t ∧
      exec (.refereeMsgRx x c (some (m, b))) s = exec (.refereeMsgRx m b none) t) ∧
  (∀ (s : State) (m : RefMsg) (p q : RefPair), s.authoritative = true → (s.cfg.servedPairs.take 32).any (fun x => x.1 == m.pairId) = true →
    s.servedPair m.pairId = p → m.slotB = false → m.bootEpoch = p.epochA → p.seqA < m.seq → q = { p with seqA := m.seq } →
    (m.type = .fenced → p.holder ≠ 1 → exec (.refereeMsgRx m true none) s = .next (s.setServed { q with fencedA := true })) ∧
    (m.type = .request → p.fencedA = true → ∃ t, exec (.refereeMsgRx m true none) s = .next t ∧ t = { s.setServed q with out := (s.setServed q).out ++
      [.refReply { m with type := .deny, termUs := s.remainOf p, gen := p.gen, rstatus := 2, holder := p.holder, bootEpoch := 0 }] }) ∧
    (p.fencedA = false →
      (m.type = .request → s.wb.startupHold = true → ∃ t, exec (.refereeMsgRx m true none) s = .next t ∧ t = { s.setServed q with out := (s.setServed q).out ++
        [.refReply { m with type := .deny, termUs := s.remainOf p, gen := p.gen, rstatus := 4, holder := p.holder, bootEpoch := 0 }] }) ∧
      (m.type = .request → s.wb.startupHold = false → p.holder = 2 → p.fencedB = false → s.tb.csr < p.expiry →
        ∃ t, exec (.refereeMsgRx m true none) s = .next t ∧ t = { s.setServed q with out := (s.setServed q).out ++
          [.refReply { m with type := .deny, termUs := s.remainOf p, gen := p.gen, rstatus := 1, holder := 2, bootEpoch := 0 }] }) ∧
      (m.type = .request → s.wb.startupHold = false → p.holder = 0 ∨ p.holder = 2 ∧ p.expiry ≤ s.tb.csr → p.lastGranted ≠ 1 → ∀ r,
        r = { q with holder := 1, expiry := s.tb.csr + m.termUs * 100, gen := max p.gen m.gen + 1, lastGranted := 1, termUs := m.termUs } →
        ∃ t, exec (.refereeMsgRx m true none) s = .next t ∧ t = { s.setServed r with out := (s.setServed r).out ++
            [.refReply { m with type := .grant, gen := max p.gen m.gen + 1, rstatus := 0, holder := 1, bootEpoch := 0 }] }) ∧
      (m.type = .renew → p.holder = 1 → ∀ r, r = { q with holder := 1, expiry := s.tb.csr + m.termUs * 100, lastGranted := 1, termUs := m.termUs } →
        ∃ t, exec (.refereeMsgRx m true none) s = .next t ∧ t = { s.setServed r with out := (s.setServed r).out ++
            [.refReply { m with type := .grant, gen := p.gen, rstatus := 0, holder := 1, bootEpoch := 0 }] }) ∧
      (m.type = .release → p.holder = 1 → ∀ r, r = { q with holder := 0 } →
        ∃ t, exec (.refereeMsgRx m true none) s = .next t ∧ t = { s.setServed r with out := (s.setServed r).out ++
            [.refReply { m with type := .status, termUs := 0, gen := p.gen, rstatus := 0, holder := 0, bootEpoch := p.epochA }] }))) ∧
  (∀ s : State, exec .refereeStartupHoldEnd s = .next { s with wb := { s.wb with startupHold := false } })

/-- CORE_ACCESS of a hart that does not run changes nothing; while a fence of its own is pending it waits. An access of which some byte is
refused faults with cause 1, 5 or 7 and the first refused address, counts in its MPU, records MPU_FAULT and raises event 112, and reaches
nothing. An admitted load of DRAM answers its bytes; an admitted store writes exactly its bytes. MPU_SYNC copies the staged regions when
every enabled one is aligned, the older set in force until MPU_SYNC_DONE makes it current with DRAIN while older accesses are under way;
else it refuses all with SYNC_ERR; any requester but machine mode on a lockstep pair is refused. (R257, R267, R268, R270, R272, R273,
R274, R275, R276) -/
def Obligations.CoreAccessesAreCheckedWhole : Prop :=
  (∀ (s : State) (p : Nat) (b : Bool) (pr : Priv) (k a n d : Nat) (c : Bool), s.coreRuns p b = false → exec (.coreAccess p b pr k a n d c) s = .next s) ∧
  (∀ (s : State) (p : Nat) (b : Bool) (pr : Priv) (k a n d : Nat) (c : Bool), s.coreRuns p b = true →
    (s.core.mpus.getD (2 * p + ofBool b) {}).syncPend = true → (s.core.mpus.getD (2 * p + ofBool b) {}).own = true →
    exec (.coreAccess p b pr k a n d c) s = .next { s with resp := some ⟨.core p b pr, 0, .waiting⟩ }) ∧
  (∀ (s : State) (p : Nat) (b : Bool) (pr : Priv) (k a n d x m : Nat) (c : Bool), s.coreRuns p b = true → m = 2 * p + ofBool b →
    ((s.core.mpus.getD m {}).syncPend = true → (s.core.mpus.getD m {}).own = false) →
    firstRefused (s.core.mpus.getD m {}).cur ((s.pair p).state == 1) (privOf pr) (accKind k) maxParts a (a + n) = some x →
    ∃ t, exec (.coreAccess p b pr k a n d c) s = .next t ∧ Says { s with
      core := { s.core with exc := some (m, faultCause (accKind k), x),
                            mpus := updAt s.core.mpus m fun y => { y with
                              faultCount := satAt 65535 (y.faultCount + 1), faultAddr := x % 2 ^ 48, faultPriv := (privOf pr).num,
                              faultKind := (accKind k).num } },
      resp := some ⟨.core p b pr, 0, .accessFault⟩ } [(.mpuFault, [m, x, (privOf pr).num, (accKind k).num])] [112] t) ∧
  (∀ (s : State) (p : Nat) (b : Bool) (pr : Priv) (k a n d m : Nat), s.coreRuns p b = true → m = 2 * p + ofBool b →
    ((s.core.mpus.getD m {}).syncPend = true → (s.core.mpus.getD m {}).own = false) →
    firstRefused (s.core.mpus.getD m {}).cur ((s.pair p).state == 1) (privOf pr) (accKind k) maxParts a (a + n) = none →
    0x000800000000 ≤ a → a + n ≤ 0x000C00000000 →
    (k ≤ 1 → exec (.coreAccess p b pr k a n d false) s =
      .next { s with resp := some ⟨.core p b pr, leNat ((List.range n).map fun i => Memory.read s.mem (a + i)), .ok⟩ }) ∧
    (1 < k → Memory.wf s.mem = true → ∃ t, exec (.coreAccess p b pr k a n d false) s = .next t ∧ t = { s with mem := t.mem } ∧
      (∀ x, x < a ∨ a + n ≤ x → Memory.read t.mem x = Memory.read s.mem x) ∧
      ∀ i, i < n → Memory.read t.mem (a + i) = (leBytes n d).getD i 0)) ∧
  (∀ (s : State) (p m : Nat), (s.core.pairs.getD p {}).state = 0 → s.mpuAbsent m = false →
    (∀ r, r < 32 → regionBad (s.staged m r) = false) →
    exec (.mpuSync (.core p false .machine) m) s = .next { s with core := { s.core with
      mpus := updAt s.core.mpus m fun x => { x with next := (List.range 32).map (s.staged m), syncPend := true, own := 2 * p == m } } }) ∧
  (∀ (s : State) (p m r : Nat), (s.core.pairs.getD p {}).state = 0 → s.mpuAbsent m = false → r < 32 → regionBad (s.staged m r) = true →
    (∀ x, x < r → regionBad (s.staged m x) = false) →
    ∃ t, exec (.mpuSync (.core p false .machine) m) s = .next t ∧
      Says { s with core := { s.core with mpus := updAt s.core.mpus m fun x => { x with syncErr := true, errRegion := r } } }
        [(.writeRefused, [RegName.mpuCtrl.addr m 0, (Requester.core p false .machine).code])] [115] t) ∧
  (∀ (s : State) (p m : Nat) (b : Bool) (pr : Priv), b = true ∨ pr ≠ .machine → s.mpuAbsent m = false →
    ∃ t, exec (.mpuSync (.core p b pr) m) s = .next t ∧
      Says s [(.writeRefused, [RegName.mpuCtrl.addr m 0, (Requester.core p b pr).code])] [115] t) ∧
  (∀ (s : State) (m : Nat),
    ((s.mpu m).syncPend = false → exec (.mpuSyncDone m) s = .next s) ∧
    ((s.mpu m).syncPend = true → exec (.mpuSyncDone m) s = .next { s with core := { s.core with mpus := updAt s.core.mpus m fun x =>
      { x with cur := x.next, syncPend := false, own := false, fences := x.fences + 1,
               drain := (s.hq.ops ++ s.hq.work).any fun (o : Op) => o.underOld m ((s.mpu m).fences + 1) } } }) ∧
    (s.mpuBusy m (s.mpu m).fences = true → exec (.mpuDrainDone m) s = .next s) ∧
    (s.mpuBusy m (s.mpu m).fences = false → exec (.mpuDrainDone m) s =
      .next { s with core := { s.core with mpus := updAt s.core.mpus m fun x => { x with drain := false } } }))

/-- LOCKSTEP_MISMATCH of a pair that does not run the pair service, and a COMPARATOR_SELFTEST that detects nothing, stop and lose the pair
with their records and events 113 and 108. On the service pair a contained mismatch moves the service to a healthy backup, an uncontained
one restarts the module with cause 5. A passed self-test restores the pair, a failed one or a third mismatch in 24 h retires it. Debug
accesses, halts and tokens obey mode, locked regions and unlock; a refusal is DEBUG_DENIED with event 114. RELOCK and the expiry end an
unlock. (R258, R259, R260, R261, R277, R278, R279, R280, R281) -/
def Obligations.LockstepAndDebugAreContained : Prop :=
  (∀ (s : State) (k cause port v1 v2 pc : Nat), k < 4 → s.powered (pairDomain k) = true → (s.pair k).state = 0 → s.core.svcPair ≠ k →
    s.sys.mode ≠ .active → controlLost (s.sys.unitHealth ||| 2 ^ k) true = false → cause < 8 →
    ∃ t, exec (.lockstepMismatch k cause port v1 v2 pc) s = .next t ∧
      Says ((s.setPair k fun p => { p with state := 2, selftest := cause != 6 && cause != 7, lastCause := cause, mismatches := p.mismatches ++ [s.tb.csr],
                                           pc := pc % 2 ^ 64 }).setUnit k)
        [(.lockstepMismatch, [k, cause, port, v1, v2, pc]), (.unitLost, [k])] [113, 108] t) ∧
  (∀ (s : State) (k cause port v1 v2 pc : Nat), k < 4 → s.powered (pairDomain k) = true → (s.pair k).state = 0 → s.core.svcPair = k →
    s.sys.mode ≠ .active → controlLost (s.sys.unitHealth ||| 2 ^ k) true = false → cause = 6 ∨ cause = 7 →
    ∃ t, exec (.lockstepMismatch k cause port v1 v2 pc) s = .next t ∧ t.sys.mode = .boot ∧ t.sys.resetCause = 5 ∧ t.wb.fenced = true ∧
      t.wb.lease = .none) ∧
  (∀ (s : State) (k b cause port v1 v2 pc : Nat), k < 4 → s.powered (pairDomain k) = true → (s.pair k).state = 0 → s.core.svcPair = k →
    s.sys.mode ≠ .active → controlLost (s.sys.unitHealth ||| 2 ^ k) true = false → cause < 6 →
    ((s.pair k).mismatches.any fun m => decide (s.tb.csr < m + 10000000)) = false →
    s.fld .coreSvc 4 2 = b → b ≠ k → (s.pair b).state = 0 → s.unitUp b = true →
    ∃ t, exec (.lockstepMismatch k cause port v1 v2 pc) s = .next t ∧ t.core.svcPair = b ∧ t.sys.mode = s.sys.mode ∧ t.wb = s.wb ∧
      t.unitUp k = false) ∧
  (∀ (s : State) (k : Nat), exec (.comparatorSelftest k true) s = .next s ∧
    (k < 4 → s.powered (pairDomain k) = true → (s.pair k).state = 0 → s.core.svcPair ≠ k → s.sys.mode ≠ .active →
      controlLost (s.sys.unitHealth ||| 2 ^ k) true = false → ∃ t, exec (.comparatorSelftest k false) s = .next t ∧
        Says ((s.setPair k fun p => { p with state := 2, selftest := false, lastCause := 6, mismatches := p.mismatches ++ [s.tb.csr],
                                             pc := 0 }).setUnit k)
          [(.comparatorFault, [k]), (.lockstepMismatch, [k, 6, 0, 0, 0, 0]), (.unitLost, [k])] [113, 108] t)) ∧
  (∀ (s : State) (k : Nat), (s.pair k).selftest = true →
    (s.recentMismatches k < 3 → ∃ t, exec (.coreSelftestDone k true) s = .next t ∧
      Says ((s.setPair k fun p => { p with state := 0, selftest := false }).clearUnit k) [(.corePairRestored, [k])] [] t) ∧
    (3 ≤ s.recentMismatches k → ∃ t, exec (.coreSelftestDone k true) s = .next t ∧
      Says (s.setPair k fun p => { p with state := 3, selftest := false }) [(.corePairRetired, [k])] [] t) ∧
    ∃ t, exec (.coreSelftestDone k false) s = .next t ∧
      Says (s.setPair k fun p => { p with state := 3, selftest := false }) [(.corePairRetired, [k])] [] t) ∧
  (∀ (s : State) (a : Nat) (v : Word), debugLocked a = true → dmAt a = none →
    (s.dbg.unlocked = false → ∃ t, exec (.debugAccess false a v) s = .next t ∧
      Says { s with dbg := { s.dbg with denied := satAt 65535 (s.dbg.denied + 1) }, resp := some ⟨.debug, 0, .busError⟩ }
        [(.debugDenied, [a])] [114] t) ∧
    ∃ t, exec (.debugAccess true a v) s = .next t ∧
      Says { s with dbg := { s.dbg with denied := satAt 65535 (s.dbg.denied + 1) } } [(.debugDenied, [a])] [114] t) ∧
  (∀ (s : State) (a : Nat) (v : Word), debugLocked a = false → dmAt a = none → 0x000800000000 ≤ a → a + 3 < 0x000C00000000 →
    exec (.debugAccess false a v) s = .next { s with resp := some ⟨.debug, leNat ((List.range 4).map fun i => Memory.read s.mem (a + i)), .ok⟩ }) ∧
  (∀ (s : State) (k : Nat), (s.sys.mode = .service ∨ s.sys.mode = .quarantine →
      exec (.debugHalt k) s = .next (s.setPair k fun p => { p with halted := true })) ∧
    (s.sys.mode ≠ .service → s.sys.mode ≠ .quarantine → ∃ t, exec (.debugHalt k) s = .next t ∧
      Says { s with dbg := { s.dbg with denied := satAt 65535 (s.dbg.denied + 1) } } [(.debugDenied, [RegName.dbgDm.addr 16 0])] [114] t)) ∧
  (∀ (s : State) (v : Word), exec (.dmCommand true 57 v) { s with dbg := { s.dbg with dm := [] } } =
      .next { s with dbg := { s.dbg with dm := [(57, v)] } } ∧
    exec (.dmCommand false 57 v) { s with dbg := { s.dbg with dm := [(57, v)] } } =
      .next { s with dbg := { s.dbg with dm := [(57, v)] }, resp := some ⟨.debug, v.toNat, .ok⟩ }) ∧
  (∀ (s : State) (q : Requester) (a : Artefact), s.writeBarred q (RegName.dbgCtrl.addr 0 0) = none →
    s.judgeArtefact (some 5) s.dbg.token = .good a → s.nonceUsed a = false →
    ∃ t, exec (.debugTokenGo q) s = .next t ∧
      Says { s.keepNonce a with dbg := { s.dbg with unlocked := true, expiry := a.notAfter } } [(.debugUnlock, [tokenNonce a])] [] t) ∧
  (∀ (s : State) (q : Requester), s.writeBarred q (RegName.dbgCtrl.addr 0 0) = none → s.dbg.unlocked = true →
    ∃ t, exec (.debugRelock q) s = .next t ∧ (s.unlockPassed = true → exec .debugUnlockExpiry s = .next t) ∧
      Says { s with dbg := { s.dbg with unlocked := false, expiry := none } } [(.debugRelock, [])] [] t) ∧
  (∀ (s : State), s.dbg.unlocked = false ∨ s.unlockPassed = false → exec .debugUnlockExpiry s = .next s) ∧
  (∀ (s : State) (e : PlantTime) (n : Nat), s.dbg.expiry = some e → s.judgeTime = some n → (s.unlockPassed = true ↔ e.total ≤ n))

/-- CYCLE_START without a program, at a member that does not lead, or before MIN_CYCLE_US changes nothing; in time it takes the next manifest:
its cycle, task time, cut and input image. A cycle beyond MAX_CYCLE_US, or an overrun at its limit, beside no standby ends in SAFE-HOLD
with cause 1; a requested stop in SERVICE. In SAFE-HOLD each session gets its safe values. TASK0_END journals RETAINED and opens the scan;
a reply of the present exchange is named, any other counted; SCAN_TIMEOUT closes it and prepares the next manifest. Angle releases count
their occurrences; one found running is an overrun. (R198, R202, R242, R283, R286, R289, R294, R296, R298, R300, R302, R600) -/
def Obligations.ControlCyclesFollowTheirManifest : Prop :=
  (∀ (s : State) (us : Nat), s.prg.image = none → exec (.cycleStart us) s = .next s) ∧
  (∀ (s : State) (us : Nat), s.sys.mode ≠ .safeHold → s.leads = false → exec (.cycleStart us) s = .next s) ∧
  (∀ (s : State) (us : Nat) (im : ProgImage), s.between im → s.sys.mode ≠ .safeHold → us < im.minCycleUs → exec (.cycleStart us) s = .next s) ∧
  (∀ (s : State) (us : Nat) (im : ProgImage), s.prg.image = some im → s.prg.runState = 2 → s.sys.mode = .safeHold → im.minCycleUs ≤ us →
    bitsOf s.sys.unitHealth 0 4 ≠ 15 → s.powered 5 = true → s.netOn 0 = true → (∀ x ∈ s.cfg.sessions, s.netOn x.network = true) →
    exec (.cycleStart us) s = .next { s with
      prg := { s.prg with cycle := s.prg.cycle + 1 }, wb := { s.wb with cycle := s.prg.cycle + 1 },
      out := s.out ++ (s.cfg.sessions.map fun x =>
        .net x.network 5 (.output x.station (s.prg.cycle + 1) (s.cycEpoch x.stream) ((s.prg.cycle + 1) % 2 ^ 32) (sessionPoints x fun _ _ id => s.safeVal id)))
        ++ (s.taskStreams 0).map fun id => .net 0 2 (.stream 0 id (s.cycEpoch id) ((s.prg.cycle + 1) % 2 ^ 32) false false
          (wordBytes ((s.taskPoints 0).map fun i => BitVec.ofNat 32 (s.safeVal i)))) }) ∧
  (∀ (s : State) (us : Nat) (im : ProgImage) (m : ManSt), s.between im → s.sys.mode ≠ .safeHold → im.minCycleUs ≤ us → us ≤ im.watchUs ∨ s.prg.switchCycle = true →
    us ≤ im.maxCycleUs → s.sys.stopPend = false → s.prot.oldRings = [] → s.settled 0 →
    (s.prg.next = none → s.readyManifest 0 = some m → ∃ t, exec (.cycleStart us) s = .next t ∧ t.prg.cycle = m.cycle ∧
      t.prg.taskTime = entryTime m.entries ∧ (t.task 0).running = true ∧ t.wb.covered = max s.wb.covered m.jsnCut ∧
      t.out.filter (fun o => !o.toHost) = s.out.filter (fun o => !o.toHost)) ∧
    (s.prg.next = some m → ∃ t, exec (.cycleStart us) s = .next t ∧ t.prg.cycle = m.cycle ∧ t.prg.taskTime = entryTime m.entries ∧ t.prg.next = none ∧
      (t.task 0).running = true ∧ (t.task 0).ovrRun = 0 ∧ t.wb.covered = max s.wb.covered m.jsnCut ∧ t.prg.inImage = s.buildImage m.entries ∧
      t.prg.outImage = s.prg.outImage ∧ t.out = s.out ∧ t.wb.journal = s.wb.journal ∧ t.regs = s.regs ∧ t.hq = s.hq)) ∧
  (∀ (s : State) (us : Nat) (im : ProgImage), s.between im → s.sys.mode ≠ .safeHold → im.minCycleUs ≤ us →
    im.maxCycleUs < us ∨ (im.watchUs < us ∧ s.prg.switchCycle = false ∧ 0 < s.prg.tasks.length ∧ (s.task 0).ovrRun < 255 ∧
      (s.task 0).ovrLimit ≤ (s.task 0).ovrRun + 1) →
    s.sys.stopPend = false → s.sys.restartPend = none → s.partnerStandby = false →
    ∃ t, exec (.cycleStart us) s = .next t ∧ t.sys.mode = .safeHold ∧ t.sys.safeHoldCause = 1 ∧ t.wb.lease = .none ∧ t.wb.fenced = true) ∧
  (∀ (s : State) (us : Nat) (im : ProgImage), s.between im → s.sys.mode ≠ .safeHold → im.minCycleUs ≤ us → us ≤ im.maxCycleUs →
    us ≤ im.watchUs ∨ s.prg.switchCycle = true ∨ ((s.task 0).ovrRun + 1 < (s.task 0).ovrLimit ∧ 0 < s.prg.tasks.length) → s.sys.stopPend = true →
    ∃ t, exec (.cycleStart us) s = .next t ∧ t.sys.mode = .service ∧ t.wb.lease = .none ∧ t.wb.fenced = true) ∧
  (∀ (s : State) (ws : List (Nat × Nat)) (cs : List FbCall), (s.task 0).running = false → exec (.task0End ws cs) s = .next s) ∧
  (∀ (s : State) (ws : List (Nat × Nat)) (cs : List FbCall), s.mayEnd 0 = true → s.authoritative = true →
    ∃ t, exec (.task0End ws cs) s = .next t ∧ (t.task 0).running = false ∧ t.prg.scanOpen = true ∧ t.wb.jsn = s.wb.jsn + 1 ∧
      (∃ v, t.wb.journal = s.wb.journal ++ [⟨s.wb.jsn + 1, s.sendGen, .retained s.prg.cycle v⟩]) ∧ t.prg.cycle = s.prg.cycle ∧
      t.prg.inImage = s.prg.inImage ∧ t.regs = s.regs ∧ t.hq = s.hq) ∧
  (∀ (s : State) (id v : Nat) (i : ProgItem), s.mayEnd 0 = true → s.authoritative = true → s.progItem id = some i → i.kind = 6 → i.target = 2 →
    ∃ t, exec (.task0End [(id, v)] []) s = .next t ∧ assocGet t.prg.outImage id = some v ∧ t.prg.items = s.prg.items) ∧
  (∀ (s : State) (st pid mac echo : Nat) (pts : List Word), (∀ x ∈ s.cfg.sessions, x.station = st → x.mac ≠ mac) →
    exec (.stationReplyRx st pid mac echo pts) s = .next { s with net := { s.net with replyDiscard := (s.net.replyDiscard + 1) % 2 ^ 32 } }) ∧
  (∀ (s : State) (st k : Nat) (x : Session) (pts : List Word), s.cfg.sessions.findIdx (fun y => y.station == st) = k → s.cfg.sessions[k]? = some x →
    s.prg.scanOpen = true ∨ s.follows = true → s.powered 5 = true →
    ∃ t, exec (.stationReplyRx st s.pairId x.mac (s.prg.cycle % 2 ^ 32) pts) s = .next t ∧
      t.station k = { s.station k with replied := true, recent := pts, stamp := s.tb.ang } ∧ t.net = s.net ∧ t.out = s.out ∧
      (s.wb.manifests = [] → t.wb.newItems = newest 4096 (s.wb.newItems ++ [⟨1, 2 * x.network, st, s.prg.cycle % 2 ^ 32, crc32 (wordBytes pts)⟩]))) ∧
  (∀ (s : State) (di : Nat) (ai : List Nat), s.prg.scanOpen = false → exec (.scanTimeout di ai) s = .next s) ∧
  (∀ (s : State) (di : Nat) (ai : List Nat), s.prg.scanOpen = true → s.leads = true → s.prg.restartKind = none →
    ∃ t m, exec (.scanTimeout di ai) s = .next t ∧ t.prg.scanOpen = false ∧ t.prg.next = some m ∧ m.task = 0 ∧ m.cycle = s.prg.cycle + 1 ∧
      m.jsnCut = s.jsnCut ∧ m.angle = s.tb.ang ∧ t.wb.newItems = [] ∧ t.can.unused = [] ∧ t.wb.jsn = s.wb.jsn ∧ t.regs = s.regs) ∧
  (∀ (s : State) (n di : Nat) (ai : List Nat), s.tb.ang < (s.task n).rel → (s.task n).late = false → exec (.taskRelease n di ai) s = .next s) ∧
  (∀ (s : State) (n di : Nat) (ai : List Nat) (x : Task), s.task n = x → 0 < n → n < 32 → n < s.prg.tasks.length → x.present = true →
    x.late = false → s.releaseDue n = true → s.tb.ang < x.rel + x.per → s.prg.runState = 1 → s.leads = true →
    (x.running = true → x.ovrRun < 254 → x.ovrRun + 1 < x.ovrLimit → ∃ t, exec (.taskRelease n di ai) s = .next t ∧
      Says (s.setTask n fun y => { y with rel := x.rel + x.per, relNum := x.relNum + 1, late := false, skips := 0, excess := true, ovrRun := x.ovrRun + 1,
                                          ovrTotal := satAt 65535 (x.ovrTotal + 1) }) [(.taskOverrun, [n, x.relNum + 1])] [87] t) ∧
    (x.running = false → s.settled n → ∃ t, exec (.taskRelease n di ai) s = .next t ∧ (t.task n).running = true ∧
      (t.task n).rel = x.rel + x.per ∧ (t.task n).relNum = x.relNum + 1 ∧ t.wb.jsn = s.wb.jsn ∧ t.prg.cycle = s.prg.cycle)) ∧
  (∀ (s : State) (n : Nat) (ws : List (Nat × Nat)) (cs : List FbCall), (s.task n).running = false → exec (.taskReleaseEnd n ws cs) s = .next s) ∧
  (∀ (s : State) (n : Nat) (ws : List (Nat × Nat)) (cs : List FbCall), 0 < n → s.mayEnd n = true → s.authoritative = true →
    ∃ t, exec (.taskReleaseEnd n ws cs) s = .next t ∧ (t.task n).running = false ∧ t.wb.jsn = s.wb.jsn + 1 ∧
      (∃ v, t.wb.journal = s.wb.journal ++ [⟨s.wb.jsn + 1, s.sendGen, .retained s.prg.cycle v⟩]) ∧ t.prg.cycle = s.prg.cycle)

/-- FOLLOWER_CYCLE_START at a module that does not follow, with no program, or without a whole manifest changes nothing. With one in STANDBY
and its task settled on its pair, it runs that cycle: cycle number, task time and cut are the manifest's, its pair offset makes its own
count agree, and the distance is kept with its maximum. A distance of MIN_CYCLE_US or more leads to SYNC. (R199, R200, R201, R289, R290,
R297) -/
def Obligations.FollowersRunTheHoldersCycles : Prop :=
  (∀ (s : State) (n d : Nat), s.follows = false → exec (.followerCycleStart n d) s = .next s) ∧
  (∀ (s : State) (n d : Nat), s.readyManifest n = none → exec (.followerCycleStart n d) s = .next s) ∧
  (∀ (s : State) (d : Nat) (im : ProgImage) (m : ManSt), s.prg.image = some im → s.holds = false → s.sys.mode = .standby → s.pwr.pf = .idle → s.prot.oldRings = [] →
    (s.task 0).running = false → s.readyManifest 0 = some m → s.bindMissing m.jsnCut = false → s.settled 0 → s.prg.restartKind = none →
    (d < im.minCycleUs → ∃ t, exec (.followerCycleStart 0 d) s = .next t ∧ t.prg.cycle = m.cycle ∧ t.prg.taskTime = entryTime m.entries ∧
      t.prg.pairOffset = Int.ofNat (entryTime m.entries) - Int.ofNat (s.tb.csr * 10) ∧ (t.task 0).running = true ∧ t.prg.runState = 1 ∧
      t.wb.followLast = satAt 65535 d ∧ t.wb.followMax = satAt 65535 (max s.wb.followMax d) ∧ t.wb.covered = max s.wb.covered m.jsnCut ∧
      t.sys.mode = .standby ∧ t.out.filter (fun o => !o.toHost) = s.out.filter (fun o => !o.toHost)) ∧
    (im.minCycleUs ≤ d → ∃ t, exec (.followerCycleStart 0 d) s = .next t ∧ t.sys.mode = .sync ∧ t.wb.resyncStep = 1 ∧ t.wb.fenced = true)) ∧
  (∀ (s : State) (n d : Nat) (im : ProgImage) (m : ManSt), s.prg.image = some im → s.holds = false → s.sys.mode = .standby → s.pwr.pf = .idle →
    0 < n → n < 32 → (s.task n).running = false → s.readyManifest n = some m → s.bindMissing m.jsnCut = false → s.settled n →
    ∃ t, exec (.followerCycleStart n d) s = .next t ∧ (t.task n).running = true ∧ (t.task n).relNum = m.cycle ∧
      (t.task n).time = entryTime m.entries ∧ t.prg.cycle = s.prg.cycle ∧ t.prg.taskTime = max s.prg.taskTime (entryTime m.entries) ∧
      t.out = s.out ∧ t.regs = s.regs)

/-- At a holder, for work that its cut covers: RESTART with SUBOP above 1 is BAD_DESC and while a change stands STAGE_ORDER; WARM keeps
forces, COLD drops them and gives each variable its initial value. FORCE_SET of another length is BAD_DESC, of an unknown item
NO_SUCH_ITEM, of another type TYPE_MISMATCH; otherwise it replaces the force of that element with FORCE_SET and event 89. FORCE_REMOVE of
an absent force is NO_SUCH_ITEM, else it goes with FORCE_REMOVED cause 0. FORCE_LIST writes whole entries and their number. Work not
covered changes nothing. (R307, R311, R312, R314, R315) -/
def Obligations.RestartsAndForcesTakeTheirPlace : Prop :=
  (∀ (s : State) (j : Nat) (op : Op), s.holds = true → s.ready (.jsn j) 10 0x20 op → op.jsn = some j → s.wb.covered < j →
    exec (.restart (.jsn j)) s = .next s) ∧
  (∀ (s : State) (w : WorkRef) (op : Op), s.due w 0x20 op →
    (1 < dSubop op.bytes → exec (.restart w) s = .next (s.finish op stBadDesc 0)) ∧
    (dSubop op.bytes ≤ 1 → s.prg.stage ≠ 0 → exec (.restart w) s = .next (s.finish op stStageOrder 0)) ∧
    (dSubop op.bytes = 0 → s.prg.stage = 0 → ∃ u : State, exec (.restart w) s = .next (u.finish op stOk 0) ∧
      u.prg.forces = s.prg.forces ∧ u.prg.lastCold = false ∧ u.prg.cycle = s.prg.cycle ∧ u.wb = s.wb ∧ u.regs = s.regs) ∧
    (∀ im, dSubop op.bytes = 1 → s.prg.stage = 0 → s.prg.image = some im → ∃ u : State, exec (.restart w) s = .next (u.finish op stOk 0) ∧
      u.prg.items = (im.items.filter fun i => decide (i.kind = 1)).map (fun i => (i.ident, { value := i.init })) ∧ u.prg.forces = [] ∧
      u.prg.lastCold = true ∧ u.prg.cycle = s.prg.cycle ∧ u.wb = s.wb ∧ u.regs = s.regs)) ∧
  (∀ (s : State) (w : WorkRef) (op : Op) (id el tg ty : Nat), s.due w 0x27 op → leField (s.buffer op) 0 8 = id → leField (s.buffer op) 8 2 = el →
    leField (s.buffer op) 10 1 = tg → leField (s.buffer op) 11 1 = ty →
    (dLength op.bytes ≠ 64 → exec (.forceSet w) s = .next (s.finish op stBadDesc 0)) ∧
    (dLength op.bytes = 64 → s.progItem id = none → exec (.forceSet w) s = .next (s.finish op stNoItem 0)) ∧
    (∀ i, dLength op.bytes = 64 → s.progItem id = some i → i.target = tg → el = 0xFFFF ∨ el < i.elements → 1 ≤ i.type → i.type ≤ 12 →
      (ty ≠ i.type → exec (.forceSet w) s = .next (s.finish op stTypeMismatch 0)) ∧
      (ty = i.type → (s.prg.forces.filter fun f => !(f.ident == id && f.element == el && f.target == tg)).length < 1024 →
        ∃ u, ∃ f : Force, exec (.forceSet w) s = .next (u.finish op stOk 0) ∧ f = {
              ident := id, element := el, target := tg, type := ty, value := leField (s.buffer op) 16 16, setTime := s.tb.pt, setStatus := s.status, setBy := (s.queue op.ring).owner } ∧
          u.prg.forces = (s.prg.forces.filter fun f => !(f.ident == id && f.element == el && f.target == tg)) ++ [f] ∧
          (∀ p, (p ∈ u.prg.inImage ↔ ∃ v, (p.1, v) ∈ s.prg.inImage ∧ p.2 = forced u.prg.forces 1 p.1 v)) ∧
          Says { s with prg := u.prg } [(.forceSet, (forceBytes f).map (·.toNat))] [89] u))) ∧
  (∀ (s : State) (w : WorkRef) (op : Op) (id el : Nat), s.due w 0x28 op → dInline op.bytes 0 8 = id → dInline op.bytes 8 2 = el → dSubop op.bytes = 0 →
    ((∀ f ∈ s.prg.forces, f.ident ≠ id ∨ f.element ≠ el) → exec (.forceRemove w) s = .next (s.finish op stNoItem 0)) ∧
    (∀ f, (s.prg.forces.filter fun g => g.ident == id && g.element == el) = [f] → ∃ u, exec (.forceRemove w) s = .next (u.finish op stOk 0) ∧
      Says { s with prg := { s.prg with forces := s.prg.forces.filter fun g => !(g.ident == id && g.element == el) } }
        [(.forceRemoved, 0 :: (forceBytes f).map (·.toNat))] [89] u)) ∧
  (∀ (s : State) (w : WorkRef) (op : Op) (l : List Force), s.due w 0x29 op → s.prg.forces.take (dLength op.bytes / 64) = l →
    exec (.forceList w) s = .next ((s.writeBuf op 0 (l.map forceBytes).flatten).finish op stOk l.length))

/-- At a holder, for work that its cut covers: INSTAR_PREPARE in stage 0 with a confirm window of 10 to 86,400 s and a good image takes stage
1, keeping image, CHANGE_ID, window and ring; a bad window is BAD_DESC, a refused image PRG_REFUSED. LOAD, BIND and SWITCH take stages 2,
3 and 4 of the same CHANGE_ID; out of order they are STAGE_ORDER. SWITCH starts the confirm window in task time and drops no force whose
item stays. CONFIRM ends the change, ABANDON before SWITCH discards the new program, and the window's end journals an ABANDON. (R310,
R315, R316, R317, R318, R319, R320, R322) -/
def Obligations.InstarChangesPassTheirStages : Prop :=
  (∀ (s : State) (w : WorkRef) (op : Op) (img : ProgImage) (a b c : Bool), s.due w 0x21 op →
    (s.prg.stage ≠ 0 → ∃ u, exec (.instarPrepare w img a b c) s = .next (u.finish op stStageOrder 0) ∧ Says s [] [88] u) ∧
    (s.prg.stage = 0 → dInline op.bytes 8 4 < 10 ∨ 86400 < dInline op.bytes 8 4 →
      exec (.instarPrepare w img a b c) s = .next (s.finish op stBadDesc 0)) ∧
    (∀ art, s.prg.stage = 0 → 10 ≤ dInline op.bytes 8 4 → dInline op.bytes 8 4 ≤ 86400 → s.judgeArtefact (some 3) (s.buffer op) = .good art →
      (∀ r, s.imageFault img a b c = some r → ∃ u, exec (.instarPrepare w img a b c) s = .next (u.finish op stPrgRefused r) ∧
        Says { s with prg := { s.prg with refuse := r } } [(.prgRefused, [r])] [88] u) ∧
      (s.imageFault img a b c = none → ∃ u, exec (.instarPrepare w img a b c) s = .next (u.finish op stOk 0) ∧
        Says { s with prg := { s.prg with newImage := some img, stage := 1, changeId := dInline op.bytes 0 8, windowS := dInline op.bytes 8 4,
                                          changeRing := op.ring, progress := 0 } } [] [88] u))) ∧
  (∀ (s : State) (w : WorkRef) (op : Op), s.due w 0x22 op →
    (s.prg.stage = 1 → dInline op.bytes 0 8 = s.prg.changeId → ∃ u, exec (.instarLoad w) s = .next (u.finish op stOk 0) ∧
      Says { s with prg := { s.prg with stage := 2, progress := 0 } } [] [88] u) ∧
    (s.prg.stage ≠ 1 ∨ dInline op.bytes 0 8 ≠ s.prg.changeId → ∃ u, exec (.instarLoad w) s = .next (u.finish op stStageOrder 0) ∧ Says s [] [88] u)) ∧
  (∀ (s : State) (w : WorkRef) (op : Op) (old new : ProgImage), s.due w 0x23 op → s.prg.image = some old → s.prg.newImage = some new →
    (s.prg.stage = 2 → dInline op.bytes 0 8 = s.prg.changeId → 48 ≤ dLength op.bytes →
      ∃ u n, exec (.instarBind w) s = .next ((u.writeBuf op 0 (reportHeader s.prg.changeId old new n ++
          ((reportEntries old.items new.items s.prg.forces).take ((dLength op.bytes - 48) / 16)).flatten)).finish op
            (if (dLength op.bytes - 48) / 16 < n then stTruncated else stOk) 0) ∧
        n = (reportEntries old.items new.items s.prg.forces).length ∧ Says { s with prg := { s.prg with stage := 3, progress := 0 } } [] [88] u) ∧
    (s.prg.stage ≠ 2 ∨ dInline op.bytes 0 8 ≠ s.prg.changeId → ∃ u, exec (.instarBind w) s = .next (u.finish op stStageOrder 0) ∧ Says s [] [88] u)) ∧
  (∀ (s : State) (w : WorkRef) (op : Op) (old new : ProgImage), s.due w 0x24 op → s.prg.image = some old → s.prg.newImage = some new →
    (s.prg.stage = 3 → dInline op.bytes 0 8 = s.prg.changeId → (∀ f ∈ s.prg.forces, forceStays new.items f = true) →
      ∃ u, exec (.instarSwitch w) s = .next (u.finish op stOk 0) ∧ Says { s with prg := { s.prg with
        stage := 4, oldImage := some old, newImage := none, switchCycle := true, timerDue := [],
        confirmEnd := some (s.prg.taskTime + s.prg.windowS * 1000000000), image := some new, drops := [],
        tasks := List.zipWith (mergeTask s.tb.ang) s.prg.tasks (tasksOf new),
        items := (transfer old.items new.items s.prg.items).map fun x => (x.1, { x.2 with value := forced s.prg.forces 0 x.1 x.2.value }),
        inImage := s.prg.inImage.map fun x => (x.1, forced s.prg.forces 1 x.1 x.2) } } [] [88] u) ∧
    (s.prg.stage ≠ 3 ∨ dInline op.bytes 0 8 ≠ s.prg.changeId → ∃ u, exec (.instarSwitch w) s = .next (u.finish op stStageOrder 0) ∧ Says s [] [88] u)) ∧
  (∀ (s : State) (w : WorkRef) (op : Op), s.due w 0x25 op → s.wb.drillBegun = false →
    (s.prg.stage = 4 → dInline op.bytes 0 8 = s.prg.changeId → ∃ u, exec (.instarConfirm w) s = .next (u.finish op stOk 0) ∧
      Says { s with prg := { s.prg with stage := 0, newImage := none, oldImage := none, confirmEnd := none, progress := 0, drops := [] } } [] [88] u) ∧
    (s.prg.stage ≠ 4 → ∃ u, exec (.instarConfirm w) s = .next (u.finish op stStageOrder 0) ∧ Says s [] [88] u)) ∧
  (∀ (s : State) (w : WorkRef) (op : Op), s.due w 0x26 op → s.wb.drillBegun = false →
    (1 ≤ s.prg.stage → s.prg.stage ≤ 3 → dInline op.bytes 0 8 = s.prg.changeId → ∃ u, exec (.instarAbandon w) s = .next (u.finish op stOk 0) ∧
      Says { s with prg := { s.prg with stage := 0, newImage := none, oldImage := none, confirmEnd := none, progress := 0, drops := [] } } [] [88] u) ∧
    (s.prg.stage = 0 → ∃ u, exec (.instarAbandon w) s = .next (u.finish op stStageOrder 0) ∧ Says s [] [88] u)) ∧
  (∀ (s : State) (e : Nat), s.prg.confirmEnd = some e → s.prg.stage = 4 → s.authoritative = true →
    (s.prg.taskTime < e → exec .instarConfirmExpiry s = .next s) ∧
    (e ≤ s.prg.taskTime → ∃ t, exec .instarConfirmExpiry s = .next t ∧ t.wb.jsn = s.wb.jsn + 1 ∧ t.prg = { s.prg with confirmEnd := none } ∧
      t.wb.journal = s.wb.journal ++ [⟨s.wb.jsn + 1, s.sendGen, .desc s.prg.changeRing 0 (abandonDesc s.prg.changeId)⟩] ∧
      ∃ o : Op, t.hq.work = s.hq.work ++ [o] ∧ o.bytes = abandonDesc s.prg.changeId ∧ o.jsn = some (s.wb.jsn + 1)))

/-- LOOP_SAMPLE of a slot number out of range, disabled, not due at the stamp, before a lower slot, or with PD4 or the engine off changes
nothing, nor at a module without the lease that does not follow, nor at a follower without the window's bundle, nor for a group member
that is not its first. A slot alone at the holder is evaluated at the stamp, and its stage clamps the slot's output between OMIN and OMAX
and marks itself active; lease, program, memory and registers stay. LOOP_BUNDLE_TX without the lease, or before the window, changes
nothing; the holder takes the window and its cut. (R325, R328, R332, R336, R345, R350, R351, R352) -/
def Obligations.LoopSamplesUseTheBundle : Prop :=
  (∀ (s : State) (n st sk : Nat) (late : Bool), 512 ≤ n ∨ s.loopOn = false ∨ (s.slot n).enabled = false ∨
      s.sampleDue (s.slot n) st late sk = false ∨ s.lowerOwed n st late = true →
    exec (.loopSample n st late sk) s = .next s) ∧
  (∀ (s : State) (n st sk : Nat) (late : Bool), s.holds = false → (s.follows = true → ∀ m ∈ s.wb.manifests, m.task = 0x100 → m.cycle ≠ st / 65536) →
    exec (.loopSample n st late sk) s = .next s) ∧
  (∀ (s : State) (n st sk g k : Nat) (late : Bool), s.holds = true → s.dsp.spPending = [] → s.loop.window = st / 65536 % 65536 → slotGroup (s.slot n) = some g →
    (s.enabledMembers g).head? = some k → k ≠ n → exec (.loopSample n st late sk) s = .next s) ∧
  (∀ (s : State) (n st sk o : Nat) (late : Bool), n < 512 → n < s.loop.slots.length → s.loopOn = true → (s.slot n).enabled = true → s.holds = true →
    s.sampleDue (s.slot n) st late sk = true → s.lowerOwed n st late = false → s.dsp.spPending = [] → slotGroup (s.slot n) = none → slOut (s.slot n).record = o → o < s.loop.stages.length →
    ∃ t, exec (.loopSample n st late sk) s = .next t ∧ (t.slot n).last = st ∧ (t.slot n).fresh = false ∧ (t.slot n).enabled = true ∧
      (t.slot n).record = (s.slot n).record ∧ (t.slot n).late = late ∧ (t.slot n).skips = satAt 65535 ((s.slot n).skips + sk) ∧
      (t.stage o).uApp = fclamp (ouMin (s.stage o).record) (ouMax (s.stage o).record) (t.slot n).uSlot ∧ (t.stage o).active = true ∧
      (t.stage o).record = (s.stage o).record ∧ t.wb = s.wb ∧ t.prg = s.prg ∧ t.regs = s.regs ∧ t.hq = s.hq) ∧
  (∀ (s : State) (win : Nat) (ai : List Nat), s.holds = false ∨ s.loopOn = false ∨ s.tb.ang < win * 65536 → exec (.loopBundleTx win ai) s = .next s) ∧
  (∀ (s : State) (win : Nat) (ai : List Nat), s.holds = true → s.loopOn = true → win * 65536 ≤ s.tb.ang →
    ∃ t, exec (.loopBundleTx win ai) s = .next t ∧ t.loop.window = win % 65536 ∧
      t.loop.covered = max s.loop.covered (if s.wb.dual then s.wb.jsnAck else s.wb.jsn) ∧ t.prg = s.prg ∧ t.regs = s.regs ∧ t.hq = s.hq)

/-- Work not covered waits. TIMED work first covered in a window later than its TIME, is LAUNCH_MISSED with LATE_POLICY 0 and done LATE with
1. SLOT_WRITE keeps the record; a slot number above 511 is reason 5, a changed structure of an enabled slot 1, a bad N or PHASE 4.
SLOT_ENABLE marks the slot for a bumpless start, SUBOP 0 disables it, beyond 55,555 it is reason 2. SET_TARGET acts on SP class 1 only,
else 7. GROUP_WRITE, OUT_WRITE and TABLE_LOAD replace their record or table. SLOT_READ answers 64 bytes of the slot. (R326, R327, R337,
R338, R339, R341, R356, R357, R358) -/
def Obligations.LoopCommandsTakeEffectWhenCovered : Prop :=
  (∀ (s : State) (w : WorkRef) (op : Op) (j : Nat), s.holds = true → s.ready w 1 0x10 op → op.jsn = some j → assocGet s.loop.seen j = none →
    exec (.slotWrite w) s = .next s) ∧
  (∀ (s : State) (w : WorkRef) (op : Op) (j win : Nat), s.holds = true → s.ready w 1 0x12 op → op.jsn = some j → assocGet s.loop.seen j = some win →
    dTimed op.bytes = true → dPtBase op.bytes = false → windowOf (dTime op.bytes) < win → dLatePolicy op.bytes = false →
    exec (.setTarget w) s = .next ((s.loopTaken op j).finish { op with late := false } stLaunchMissed 0)) ∧
  (∀ (s : State) (w : WorkRef) (op : Op) (j win n : Nat), s.holds = true → s.ready w 1 0x12 op → op.jsn = some j → assocGet s.loop.seen j = some win →
    dTimed op.bytes = true → dPtBase op.bytes = false → windowOf (dTime op.bytes) < win → dLatePolicy op.bytes = true → dInline op.bytes 0 2 = n →
    n < 512 → ffinite (BitVec.ofNat 32 (dInline op.bytes 4 4)) = true → selClass (slSrc (s.slot n).record 1) = 1 → (s.slot n).record ≠ [] →
    exec (.setTarget w) s = .next (((s.loopTaken op j).setSlot n fun x =>
      { x with setTarget := some (BitVec.ofNat 32 (dInline op.bytes 4 4)) }).finish { op with late := true } stOk 0)) ∧
  (∀ (s : State) (w : WorkRef) (op : Op) (j n : Nat), s.loopDue w 0x10 op j → dInline op.bytes 0 2 = n →
    (512 ≤ n → LoopRefuses (s.loopTaken op j) op (exec (.slotWrite w) s) 5) ∧
    (n < 512 → (s.slot n).enabled = true → sameShape (s.slot n).record (s.buffer op) = false →
      LoopRefuses (s.loopTaken op j) op (exec (.slotWrite w) s) 1) ∧
    (∀ k, n < 512 → (s.slot n).enabled = false → s.slotRefusal (s.buffer op) = some k → LoopRefuses (s.loopTaken op j) op (exec (.slotWrite w) s) k) ∧
    (n < 512 → (s.slot n).enabled = false → s.slotRefusal (s.buffer op) = none →
      exec (.slotWrite w) s = .next (((s.loopTaken op j).setSlot n fun x => { x with record := s.buffer op }).finish op stOk 0))) ∧
  (∀ (s : State) (w : WorkRef) (op : Op) (j n : Nat), s.loopDue w 0x11 op j → dInline op.bytes 0 2 = n → n < 512 →
    (dSubop op.bytes = 1 → (s.slot n).enabled = true → exec (.slotEnable w) s = .next ((s.loopTaken op j).finish op stOk 0)) ∧
    (dSubop op.bytes = 1 → (s.slot n).enabled = false → s.slotRefusal (s.slot n).record = none → 55555 < s.loopLoad + slN (s.slot n).record →
      LoopRefuses (s.loopTaken op j) op (exec (.slotEnable w) s) 2) ∧
    (dSubop op.bytes = 1 → (s.slot n).enabled = false → s.enableRefusal n = none → n < s.loop.slots.length →
      ∃ u : State, exec (.slotEnable w) s = .next (u.finish op stOk 0) ∧
        u.slot n = { s.slot n with
          enabled := true, fresh := true, ramping := true, last := max (s.slot n).last ((s.loopTaken op j).loop.effect - 1), skips := 0, late := false, staleM := false, staleS := false, staleF := false, adjust := none } ∧ u = { s.loopTaken op j with loop := u.loop }) ∧
    (dSubop op.bytes = 0 → n < s.loop.slots.length → slotGroup (s.slot n) = none ∨ (s.slot n).enabled = false → ∃ u : State, exec (.slotEnable w) s = .next (u.finish op stOk 0) ∧
        u.slot n = { s.slot n with enabled := false, ramping := false, selected := false, safe := false } ∧
        u = { s.loopTaken op j with loop := u.loop })) ∧
  (∀ (s : State) (w : WorkRef) (op : Op) (j n : Nat), s.loopDue w 0x12 op j → dInline op.bytes 0 2 = n → n < 512 →
    ffinite (BitVec.ofNat 32 (dInline op.bytes 4 4)) = true →
    (selClass (slSrc (s.slot n).record 1) ≠ 1 → LoopRefuses (s.loopTaken op j) op (exec (.setTarget w) s) 7) ∧
    (selClass (slSrc (s.slot n).record 1) = 1 → (s.slot n).record ≠ [] → exec (.setTarget w) s = .next
      (((s.loopTaken op j).setSlot n fun x => { x with setTarget := some (BitVec.ofNat 32 (dInline op.bytes 4 4)) }).finish op stOk 0))) ∧
  (∀ (s : State) (w : WorkRef) (op : Op) (j g : Nat), s.loopDue w 0x13 op j → dInline op.bytes 0 1 = g →
    (64 ≤ g → LoopRefuses (s.loopTaken op j) op (exec (.groupWrite w) s) 5) ∧
    (∀ k, g < 64 → s.groupRefusal g (s.buffer op) = some k → LoopRefuses (s.loopTaken op j) op (exec (.groupWrite w) s) k) ∧
    (g < 64 → s.groupRefusal g (s.buffer op) = none → exec (.groupWrite w) s = .next
      ((State.finish { s.loopTaken op j with
        loop := { (s.loopTaken op j).loop with groups := updAt s.loop.groups g fun x => { x with record := s.buffer op, configured := true } } } op stOk 0)))) ∧
  (∀ (s : State) (w : WorkRef) (op : Op) (j o : Nat), s.loopDue w 0x14 op j → dInline op.bytes 0 1 = o →
    (128 ≤ o ∨ s.stageOk (s.buffer op) = false → LoopRefuses (s.loopTaken op j) op (exec (.outWrite w) s) 5) ∧
    (o < 128 → s.stageOk (s.buffer op) = true →
      exec (.outWrite w) s = .next (((s.loopTaken op j).setStage o fun t => { t with record := s.buffer op }).finish op stOk 0))) ∧
  (∀ (s : State) (w : WorkRef) (op : Op) (j t : Nat), s.loopDue w 0x15 op j → dInline op.bytes 0 1 = t →
    (1 < dSubop op.bytes → LoopRefuses (s.loopTaken op j) op (exec (.tableLoad w) s) 5) ∧
    (dSubop op.bytes = 0 → t < 64 → (s.buffer op).length = 128 → (∀ x ∈ tableOf 32 (s.buffer op), ffinite x = true ∧ flt x 0 = false) →
      exec (.tableLoad w) s = .next (State.finish { s.loopTaken op j with
        loop := { (s.loopTaken op j).loop with friction := updAt s.loop.friction t fun _ => tableOf 32 (s.buffer op) } } op stOk 0)) ∧
    (dSubop op.bytes = 1 → t < 32 → (s.buffer op).length = 1024 → (∀ x ∈ tableOf 256 (s.buffer op), ffinite x = true) →
      exec (.tableLoad w) s = .next (State.finish { s.loopTaken op j with
        loop := { (s.loopTaken op j).loop with ripple := updAt s.loop.ripple t fun _ => tableOf 256 (s.buffer op) } } op stOk 0))) ∧
  (∀ (s : State) (w : WorkRef) (op : Op) (n : Nat), s.ready w 1 0x16 op → dInline op.bytes 0 2 = n →
    (512 ≤ n → LoopRefuses s op (exec (.slotRead w) s) 5) ∧
    (n < 512 → exec (.slotRead w) s = .next (s.finish op stOk 64 (leBytes 4 (s.slot n).w.toNat ++ leBytes 4 (s.slot n).uSlot.toNat ++
      leBytes 8 (s.slot n).i.toNat ++ leBytes 8 (s.slot n).d.toNat ++ leBytes 4 (s.slot n).uPrevIn.toNat ++ leBytes 4 (s.slot n).vPrev.toNat ++
      leBytes 4 (slotStatus (s.slot n)) ++ List.replicate 28 0))))

/-- A set-point's instant on the worker's own angle clock, and its value (R477, R478). -/
def spInstant (s : State) (sp : SetPoint) : Nat := sp.epoch + (if s.dsp.cycleAhead then s.dsp.aheadBy * countsPerCycle else 0)

/-- The worker once a new frame of its stream has come and its anchor has been used (R109, R206). -/
def spHeard (s : State) (sp : SetPoint) (ep seq : Nat) : State :=
  (s.takeCyclic (s.cfg.dspSpBase + s.cfg.dspWorker) ep seq).takeAnchor sp.anchor ((s.tb.pt.total - sp.anchor.pt.total) / 1000000) sp.anchorStatus

/-- The worker's dispatch state once it has taken a set-point that waits for its instant. -/
def spWaiting (u : State) (sp : SetPoint) (seq : Nat) : State := { u with
  dsp := { u.dsp with
    fresh := true, fallback := false, spAt := u.tb.csr, kFfr := sp.kFfr, ffrLim := sp.ffrLim, ffrDb := sp.ffrDb, ffrEn := sp.ffrEn,
    spPending := postSetpoint (spInstant u sp, if sp.excluded then 0 else sp.pSet, seq) u.dsp.spPending } }

/-- WORKER_REPORT_RX keeps a new report of a known worker on its stream, else nothing changes. DSP_REPORT answers each due release once. A due
DSP_ALLOC at the manager gives every worker its limit where these do not exceed |P|, and sends each worker one set-point for an angle 0 at
least two cycles ahead. A newer set-point of the worker's stream waits for its epoch, is recorded, or if past is applied at once with
DSP_LATE, or beyond 50 cycles is only DSP_EPOCH_FAR. Once DSP_STALE_MS have passed the fallback applies DSP_FALLBACK_MW once. The FFR task
writes 0 inside its dead band or disabled, else the clamped response. The two commands act at the manager or are DSP_REFUSED 1; values not
finite are 2, an unknown worker 3. (R471, R472, R473, R474, R475, R476, R477, R478, R479, R481, R482) -/
def Obligations.DispatchSharesThePlantSetPoint : Prop :=
  (∀ (s : State) (r : WorkerReport) (st ep q : Nat), s.cfg.manager = true → r.worker < s.cfg.workers → st = s.cfg.dspRpBase + r.worker →
    s.cyclicNew st ep q = true → exec (.workerReportRx r st ep q) s = .next { s with
      wb := { s.wb with cyclic := assocSet s.wb.cyclic st (ep, q) }, dsp := { s.dsp with reports := assocSet s.dsp.reports r.worker r } }) ∧
  (∀ (s : State) (r : WorkerReport) (st ep q : Nat),
    s.cfg.manager = false ∨ s.cfg.workers ≤ r.worker ∨ st ≠ s.cfg.dspRpBase + r.worker ∨ s.cyclicNew st ep q = false →
    exec (.workerReportRx r st ep q) s = .next s) ∧
  (∀ (s : State) (id ep q e h : Nat), assocGet s.wb.cyclic id = some (e, h) →
    (ep < e → s.cyclicNew id ep q = false) ∧ (e < ep → s.cyclicNew id ep q = true) ∧ (ep = e → q = h → s.cyclicNew id ep q = false) ∧
    (ep = e → h < q → q < h + 2 ^ 31 → s.cyclicNew id ep q = true)) ∧
  (∀ s : State, s.cfg.manager = true ∨ s.dspRelease 0 = none → exec .dspReport s = .next s) ∧
  (∀ (s : State) (k t : Nat), s.dspRelease 0 = some (k, t) → newRelease k s.dsp.repRel = false → exec .dspReport s = .next s) ∧
  (∀ (s : State) (k t n : Nat), s.cfg.manager = false → s.dspRelease 0 = some (k, t) → newRelease k s.dsp.repRel = true →
    modeEmits s.sys.mode = true → s.netOn s.dspNet = true → n = s.cfg.dspRpBase + s.cfg.dspWorker →
    exec .dspReport s = .next { s with
      dsp := { s.dsp with repRel := k },
      out := s.out ++ [.net s.dspNet 5 (.report n (s.cycEpoch n) (s.streamSeq n)
        (s.workerReport t (if s.dsp.repRel = 0 ∨ k < s.dsp.repRel then 0 else k - s.dsp.repRel - 1)))] }) ∧
  (∀ s : State, s.cfg.manager = false ∨ s.dspRelease (2 ^ 23) = none → exec .dspAlloc s = .next s) ∧
  (∀ (s u : State) (k at_ : Nat), s.cfg.manager = true → s.dspRelease (2 ^ 23) = some (k, at_) → newRelease k s.dsp.allocRel = true →
    u = { s with dsp := { s.dsp with allocRel := k, allocAt := at_ } } → ∃ t, exec .dspAlloc s = .next t ∧ t.dsp.reports = s.dsp.reports ∧ t.dsp.plant = s.dsp.plant ∧
    t.prg = s.prg ∧ t.regs = s.regs ∧ t.hq = s.hq ∧
    (dle (dsum (u.enabledWorkers.map fun i => f2d (u.limitOf (flt s.dsp.plant 0) i))) (f2d (fabs s.dsp.plant)) = true →
      t.dsp.shares = u.enabledWorkers.map fun i => (i, if flt s.dsp.plant 0 then fneg (d2f (f2d (u.limitOf true i))) else d2f (f2d (u.limitOf false i)))) ∧
    (modeEmits s.sys.mode = true → s.netOn s.dspNet = true → ∃ l, t.out.filter (fun o => !o.toHost) = s.out.filter (fun o => !o.toHost) ++ l ∧
      l.length = s.cfg.workers ∧ ∀ o ∈ l, ∃ id ep q sp, o = .net s.dspNet 5 (.setpoint id ep q sp) ∧ s.tb.ang + 2 * countsPerCycle ≤ sp.epoch ∧
        sp.epoch % countsPerCycle = 0)) ∧
  (∀ (s : State) (sp : SetPoint) (ep seq : Nat), s.cfg.manager = true ∨ sp.worker ≠ s.cfg.dspWorker ∨
    s.cyclicNew (s.cfg.dspSpBase + s.cfg.dspWorker) ep seq = false → exec (.setpointFrameRx sp ep seq) s = .next s) ∧
  (∀ (s u : State) (sp : SetPoint) (ep seq : Nat), s.cfg.manager = false → sp.worker = s.cfg.dspWorker →
    s.cyclicNew (s.cfg.dspSpBase + s.cfg.dspWorker) ep seq = true → spHeard s sp ep seq = u →
    (s.fld .angSeed 0 2 ≠ 1 → u = { s with wb := { s.wb with cyclic := assocSet s.wb.cyclic (s.cfg.dspSpBase + s.cfg.dspWorker) (ep, seq) } }) ∧
    (u.tb.ang ≤ spInstant u sp → spInstant u sp ≤ u.tb.ang + 50 * countsPerCycle → ∃ t, exec (.setpointFrameRx sp ep seq) s = .next t ∧
      Says (spWaiting u sp seq) [(.dspSetpoint, [spInstant u sp, BitVec.toNat (if sp.excluded then (0 : F32) else sp.pSet), seq])] [84] t) ∧
    (u.tb.ang + 50 * countsPerCycle < spInstant u sp → ∃ t, exec (.setpointFrameRx sp ep seq) s = .next t ∧
      Says { u with dsp := { u.dsp with fresh := true, fallback := false, spAt := u.tb.csr } } [(.dspEpochFar, [spInstant u sp])] [] t) ∧
    (spInstant u sp < u.tb.ang → ∃ t, exec (.setpointFrameRx sp ep seq) s = .next t ∧
      Says ((spWaiting u sp seq).applySetpoint u.tb.ang) [(.dspSetpoint, [spInstant u sp, BitVec.toNat (if sp.excluded then (0 : F32) else sp.pSet), seq]),
        (.dspLate, [spInstant u sp])] [84] t)) ∧
  (∀ (s : State) (e q : Nat) (p : F32), s.dsp.spPending = [(e, p, q)] →
    (s.tb.ang < e → s.applySetpoint s.tb.ang = s) ∧
    (e ≤ s.tb.ang → s.applySetpoint s.tb.ang = State.setSlot { s with dsp := { s.dsp with spPending := [], pSet := p, spEpoch := e, spSeq := q } }
      s.cfg.dspSlot fun x => { x with setTarget := some p })) ∧
  (∀ s : State, s.cfg.manager = true ∨ s.dsp.fallback = true ∨ s.tb.csr < s.dsp.spAt + usTicks (1000 * s.fld .dspStaleMs 0 16) →
    exec .dspFallback s = .next s) ∧
  (∀ s : State, s.cfg.manager = false → s.dsp.fallback = false → s.dsp.spAt + usTicks (1000 * s.fld .dspStaleMs 0 16) ≤ s.tb.csr →
    ∃ t, exec .dspFallback s = .next t ∧
    Says (State.setSlot { s with
      dsp := { s.dsp with fallback := true, fresh := false, pSet := s.reg .dspFallbackMw, spEpoch := s.tb.ang } } s.cfg.dspSlot
        fun x => { x with setTarget := some (s.reg .dspFallbackMw) }) [(.dspFallback, [(s.reg .dspFallbackMw).toNat])] [] t) ∧
  (∀ s : State, s.cfg.manager = true ∨ newRelease (s.tb.ang / countsPerCycle + 1) s.dsp.ffrRel = false → exec .dspFfr s = .next s) ∧
  (∀ (s : State) (df : F32), s.cfg.manager = false → s.dsp.spPending = [] → newRelease (s.tb.ang / countsPerCycle + 1) s.dsp.ffrRel = true →
    fsub (fratio (Int.ofNat s.tb.freq) 10000) (fofInt (Int.ofNat s.fnom)) = df →
    (s.dsp.ffrEn = false ∨ fle (fabs df) s.dsp.ffrDb = true →
      exec .dspFfr s = .next (State.setInput { s with dsp := { s.dsp with ffrRel := s.tb.ang / countsPerCycle + 1, ffr := 0 } } 3 s.cfg.dspFfrVar 0
        (s.tb.ang / countsPerCycle * countsPerCycle) true)) ∧
    (s.dsp.ffrEn = true → fle (fabs df) s.dsp.ffrDb = false → ∃ x, x = fclamp (fneg s.dsp.ffrLim) s.dsp.ffrLim
        (fneg (fmul s.dsp.kFfr (fsub df (fmul (fsign df) s.dsp.ffrDb)))) ∧
      exec .dspFfr s = .next (State.setInput { s with dsp := { s.dsp with ffrRel := s.tb.ang / countsPerCycle + 1, ffr := x } } 3 s.cfg.dspFfrVar x
        (s.tb.ang / countsPerCycle * countsPerCycle) true))) ∧
  (∀ (s : State) (w : WorkRef) (op : Op) (p k l d : F32), s.covers w 0x30 op → p = BitVec.ofNat 32 (dInline op.bytes 0 4) →
    k = BitVec.ofNat 32 (dInline op.bytes 4 4) → l = BitVec.ofNat 32 (dInline op.bytes 8 4) → d = BitVec.ofNat 32 (dInline op.bytes 12 4) →
    (s.cfg.manager = false → exec (.dspPlantSet w) s = .next (s.finish op stDspRefused 1)) ∧
    (s.cfg.manager = true → (ffinite p && ffinite k && ffinite l && ffinite d) = false →
      exec (.dspPlantSet w) s = .next (s.finish op stDspRefused 2)) ∧
    (s.cfg.manager = true → (ffinite p && ffinite k && ffinite l && ffinite d) = true → exec (.dspPlantSet w) s =
      .next (State.finish { s with dsp := { s.dsp with plant := p, kPlant := k, ffrLimPlant := l, ffrDbPlant := d } } op stOk 0))) ∧
  (∀ (s : State) (w : WorkRef) (op : Op) (i : Nat), s.covers w 0x31 op → dInline op.bytes 0 1 = i →
    (s.cfg.manager = false → exec (.dspWorkerEnable w) s = .next (s.finish op stDspRefused 1)) ∧
    (s.cfg.manager = true → s.cfg.workers ≤ i → exec (.dspWorkerEnable w) s = .next (s.finish op stDspRefused 3)) ∧
    (s.cfg.manager = true → i < s.cfg.workers → ∃ l, (i ∈ l ↔ dSubop op.bytes ≠ 1) ∧ (∀ k, k ≠ i → (k ∈ l ↔ k ∈ s.dsp.disabled)) ∧
      exec (.dspWorkerEnable w) s = .next (State.finish { s with dsp := { s.dsp with disabled := l } } op stOk 0)))

/-- At an end that does not drive its ring STROBE_LAUNCH, SAMPLE_TIMEOUT, SWEEP_PART_DONE, HALF_RING_TIMEOUT and BREAK_HEAL change nothing. A
launch waits for LATCH_BASE before the instant of the next occurrence, then takes its epoch, strobes the ring and reads; a ring that has
healed goes back to its parts there. A sample out of range, of no open sweep, or already held changes nothing; a good one is kept; a bad
one is counted and its position read once more, then failed. SWEEP_PART_DONE sends a whole part to the partner. HALF_RING_RX of good check
takes END_OK and relayed frames, which but for ALARM_ACK wait for a window. A second HALF_RING_TIMEOUT finds the ring one-ended already.
BREAK_RX places a break once. BREAK_HEAL measures the nodes again. A ring input follows its carrier. (R363, R370, R374, R376, R377, R379,
R381, R383, R384, R386, R388) -/
def Obligations.SweepsAreStrobedReadAndShared : Prop :=
  (∀ (s : State) (p us pos : Nat), p < 4 → s.drivesEnd p = false → exec (.strobeLaunch p) s = .next s ∧ exec (.sampleTimeout p pos) s = .next s ∧
    exec (.sweepPartDone p us) s = .next s ∧ exec (.halfRingTimeout p) s = .next s ∧ exec (.breakHeal p) s = .next s) ∧
  (∀ (s : State) (p : Nat) (r : Ring), s.slk.rings[p]? = some r → p < 4 → s.drivesEnd p = true → s.bit .slkCtrl 0 = true → started r = true →
    s.sys.mode ≠ .cocoon → (∀ w ∈ r.sweeps, w.built = true) →
    ((s.nextStrobe p).2.2 = 0 → s.tb.ang + s.launchLead < s.strobeAt (s.nextStrobe p).1 (s.nextStrobe p).2.1 → exec (.strobeLaunch p) s = .next s) ∧
    ((s.nextStrobe p).2.2 ≠ 0 ∨ s.strobeAt (s.nextStrobe p).1 (s.nextStrobe p).2.1 ≤ s.tb.ang + s.launchLead →
      (r.healing = false → ∃ t, exec (.strobeLaunch p) s = .next t ∧
        (t.ring p).occ = (s.nextStrobe p).1 ∧ (t.ring p).epoch = (s.nextStrobe p).2.1 ∧ t.slk.epoch = (s.nextStrobe p).2.1 ∧
        t.slk.strobeAng = (if (s.nextStrobe p).2.2 = 0 then s.strobeAt (s.nextStrobe p).1 (s.nextStrobe p).2.1 else s.tb.ang) ∧
        t.out.take (s.out.length + 1) = s.out ++ [.slk p (.strobe (s.nextStrobe p).2.1 (s.ditherStep (s.nextStrobe p).2.1))] ∧
        t = { s with slk := t.slk, out := t.out }) ∧
      (healReady r = true → ∃ t, exec (.strobeLaunch p) s = .next t ∧ (t.ring p).rstate = (if r.partnerEnd then 2 else 3) ∧
        (t.ring p).break1 = 0 ∧ (t.ring p).break2 = 0 ∧ (t.ring p).healing = false ∧ (t.ring p).epoch = (s.nextStrobe p).2.1))) ∧
  (∀ (s : State) (p pos : Nat) (ok : Bool) (x : Sample), 4 ≤ p ∨ s.powered 6 = false ∨ pos = 0 ∨ s.ringN p < pos →
    exec (.sampleRx p pos ok x) s = .next s) ∧
  (∀ (s : State) (p pos : Nat) (x : Sample), (∀ w ∈ (s.ring p).sweeps, w.epoch ≠ x.epoch ∨ w.built = true) → exec (.sampleRx p pos true x) s = .next s) ∧
  (∀ (s : State) (p pos : Nat) (x : Sample) (w : Sweep), ((s.ring p).sweeps.find? fun w => w.epoch == x.epoch && !w.built) = some w →
    (assocGet w.samples pos).isSome = true → exec (.sampleRx p pos true x) s = .next s) ∧
  (∀ (s : State) (p pos : Nat) (x : Sample) (w : Sweep), p < 4 → p < s.slk.rings.length → s.powered 6 = true → 0 < pos → pos ≤ s.ringN p → s.setFor p = none →
    ((s.ring p).sweeps.find? fun w => w.epoch == x.epoch && !w.built) = some w → assocGet w.samples pos = none →
    (s.node p pos).presence ≠ 3 → bitOf x.nstat 0 = false →
    ∃ t, exec (.sampleRx p pos true x) s = .next t ∧ t = { s with slk := t.slk } ∧
      ∃ w' ∈ (t.ring p).sweeps, w'.epoch = x.epoch ∧ assocGet w'.samples pos = some x) ∧
  (∀ (s : State) (p pos : Nat) (x : Sample) (w : Sweep) (r : Ring), s.slk.rings[p]? = some r → p < 4 → s.powered 6 = true → 0 < pos → pos ≤ s.ringN p →
    (r.sweeps.find? fun w => !w.built && (partOf s.pwr.slotB (s.ringN p) w).contains pos && unread w pos) = some w → pos ∉ w.once →
    (∃ t, exec (.sampleRx p pos false x) s = .next t ∧ (t.ring p).crcErr = (r.crcErr + 1) % 65536 ∧ (t.ring p).rereads = (r.rereads + 1) % 65536 ∧
      t.out = s.out ++ [.slk p (.read pos w.epoch)] ∧ t = { s with slk := t.slk, out := t.out }) ∧
    (s.drivesEnd p = true → ∃ t, exec (.sampleTimeout p pos) s = .next t ∧ (t.ring p).rereads = (r.rereads + 1) % 65536 ∧
      t.out = s.out ++ [.slk p (.read pos w.epoch)] ∧ t = { s with slk := t.slk, out := t.out })) ∧
  (∀ (s : State) (p us : Nat), p < 4 → s.drivesEnd p = true → openSweep (s.ring p) = none → exec (.sweepPartDone p us) s = .next s) ∧
  (∀ (s : State) (p us : Nat) (w : Sweep), p < 4 → p < s.slk.rings.length → s.drivesEnd p = true → s.wbUp = true → openSweep (s.ring p) = some w →
    ((partOf s.pwr.slotB (s.ringN p) w).any (unread w) = true → exec (.sweepPartDone p us) s = .next s) ∧
    ((partOf s.pwr.slotB (s.ringN p) w).any (unread w) = false → w.partnerDone = false → w.mode ≠ 1 → w.mode ≠ 2 →
      ∃ t l, exec (.sweepPartDone p us) s = .next t ∧
      t = { s with slk := t.slk, out := s.out ++ [wbOut s (.halfSamples p w.epoch w.angle w.astatus l)] } ∧ (t.ring p).sweepUs = us % 65536 ∧
      (∀ e ∈ l, e.1 ∈ partOf s.pwr.slotB (s.ringN p) w ∧ assocGet w.samples e.1 = some e.2))) ∧
  (∀ (s : State) (g : Nat) (ok : Bool) (b : HalfBody), ok = false ∨ s.wbUp = false ∨ g < s.wb.gen → exec (.halfRingRx ok g b) s = .next s) ∧
  (∀ (s : State) (g : Nat) (b : HalfBody), 4 ≤ b.ring ∨ s.powered 6 = false ∨ s.cfg.manager = true ∨ 3 ≤ b.kind → s.wbUp = true → g = s.wb.gen →
    exec (.halfRingRx true g b) s = .next s) ∧
  (∀ (s : State) (g p : Nat) (b : HalfBody), b.ring = p → p < 4 → s.powered 6 = true → s.cfg.manager = false → s.wbUp = true → g = s.wb.gen →
    (b.kind = 1 → b.break1 = 0 → b.break2 = 0 → b.endOk = true →
      exec (.halfRingRx true g b) s = .next (s.setRing p fun r => { r with partnerEnd := true })) ∧
    (b.kind = 2 → s.holds = false → s.drivesEnd p = false → exec (.halfRingRx true g b) s = .next s) ∧
    (b.kind = 2 → s.holds = false → s.drivesEnd p = true → leField b.frame 0 1 = 0x0E →
      exec (.halfRingRx true g b) s = .next { s with out := s.out ++ [.slk p (relayedFrame b.frame)] }) ∧
    (b.kind = 2 → s.holds = false → s.drivesEnd p = true → leField b.frame 0 1 ≠ 0x0E →
      exec (.halfRingRx true g b) s = .next (s.setRing p fun r => { r with relays := r.relays ++ [b.frame] }))) ∧
  (∀ (s : State) (p : Nat), p < 4 → (s.ring p).rstate = 3 ∨ (s.ring p).rstate = 5 ∨ (∀ w ∈ (s.ring p).sweeps, s.halfOverdue w = false) →
    exec (.halfRingTimeout p) s = .next s) ∧
  (∀ (s : State) (p : Nat) (r : Ring), s.slk.rings[p]? = some r → p < 4 → s.drivesEnd p = true → r.rstate = 2 ∨ r.rstate = 4 →
    (∃ w ∈ r.sweeps, w.built = false ∧ w.partnerDone = false ∧
      (s.wbUp = false ∨ s.wb.partner.heard = false ∨ 4000000 ≤ countsNs (s.tb.ang - w.angle) s.tb.freq)) →
    ∃ t, exec (.halfRingTimeout p) s = .next t ∧ (t.ring p).rstate = (if r.rstate = 2 then 3 else 5) ∧ (t.ring p).partnerEnd = false ∧ t.wb = s.wb ∧
      t.prot = s.prot ∧ t.regs = s.regs) ∧
  (∀ (s : State) (p pos : Nat) (b : Bool), 4 ≤ p ∨ started (s.ring p) = false ∨ (s.ring p).break1 = (if b then pos + 1 else pos) →
    exec (.breakRx p pos b) s = .next s) ∧
  (∀ (s : State) (p pos : Nat) (b : Bool) (r : Ring), s.slk.rings[p]? = some r → p < 4 → s.powered 6 = true → started r = true → 0 < pos → pos ≤ s.ringN p →
    r.break1 = 0 → r.break2 = 0 → ∃ t, exec (.breakRx p pos b) s = .next t ∧ (t.ring p).break1 = (if b then pos + 1 else pos) ∧
      (t.ring p).breakSeen = true ∧ (t.ring p).rstate = (if r.rstate = 2 then 4 else if r.rstate = 3 then 5 else r.rstate) ∧
      t.wb = s.wb ∧ t.prot = s.prot ∧ t.regs = s.regs) ∧
  (∀ (s : State) (p : Nat) (r : Ring), s.slk.rings[p]? = some r → p < 4 → s.drivesEnd p = true → 3 ≤ r.rstate → r.rstate ≤ 5 →
    ∃ t, exec (.breakHeal p) s = .next t ∧ (t.ring p).healing = true ∧ (t.ring p).rstate = r.rstate ∧ (t.ring p).break1 = r.break1 ∧
      (t.ring p).break2 = r.break2 ∧ t.out = s.out ++ (s.healPart p).flatMap (fun pos => List.replicate 4 (.slk p (.echo pos))) ∧
      t.wb = s.wb ∧ t.prot = s.prot ∧ t.regs = s.regs) ∧
  (∀ (s : State) (p : Nat), exec (.ringInputDown p) s = .next (s.setRing p fun r => { r with carrier := false }) ∧
    exec (.ringInputUp p) s = .next (s.setRing p fun r => { r with carrier := true }))

/-- A symbol counts and waits for its frame; unnamed after 50 us it sets the ring's warn with event 74. A frame names the alarm, and the
holder acknowledges it. COMMAND_WINDOW opens once the end read its part: another module sends what was relayed to it, the holder its
queued commands that end before the strobe. An ACK of another CSEQ or GEN8 changes nothing; the right one ends its command. A timeout
resends twice, then records NODE_CMD_FAIL. ECHO_CHECK echoes the farthest own node; a reply within 20 ns changes nothing; the fourth reply
of a measurement gives D, and the holder queues LATCH_BASE - D, another module relays it. ID_RX compares with the ring table; another node
id is recorded. TAP_TEST_AUTO tests the next tap of a present cell node. (R366, R367, R368, R372, R380, R390, R391, R393, R394, R401,
R402, R451) -/
def Obligations.RingAlarmsAndNodesAreAnswered : Prop :=
  (∀ (s : State) (p : Nat), (p < 4 ∧ s.powered 6 = true → exec (.alarmSymbolRx p) s = .next (s.setRing p fun r =>
      { r with alarmSeen := true, symbolPending := true, symbolAt := s.tb.csr, alarmCount := (r.alarmCount + 1) % 65536 })) ∧
    (4 ≤ p ∨ s.powered 6 = false → exec (.alarmSymbolRx p) s = .next s)) ∧
  (∀ (s : State) (p : Nat), ((s.ring p).symbolPending = false ∨ s.tb.csr < (s.ring p).symbolAt + usTicks 50 → exec (.alarmUnnamed p) s = .next s) ∧
    ((s.ring p).symbolPending = true → (s.ring p).symbolAt + usTicks 50 ≤ s.tb.csr → ∃ t, exec (.alarmUnnamed p) s = .next t ∧
      Says { s.setRing p (fun r => { r with symbolPending := false }) with prot := { s.prot with ringWarn := s.prot.ringWarn ||| 2 ^ p } }
        [(.alarmUnnamed, [p])] [74] t)) ∧
  (∀ (s : State) (p pos c ch rd e : Nat), 4 ≤ p ∨ s.powered 6 = false ∨ pos = 0 ∨ s.ringN p < pos → exec (.alarmFrameRx p pos c ch rd e) s = .next s) ∧
  (∀ (s : State) (p pos c ch rd e : Nat) (r : Ring) (n : Node), s.slk.rings[p]? = some r → r.nodes[pos - 1]? = some n → p < 4 → s.powered 6 = true →
    0 < pos → pos ≤ s.ringN p → s.setFor p = none → ∃ t, exec (.alarmFrameRx p pos c ch rd e) s = .next t ∧ (t.ring p).symbolPending = false ∧
      (t.ring p).alarmPos = pos % 256 ∧ (t.ring p).alarmCause = c % 256 ∧ (t.node p pos).alarmPend = true ∧
      t.prot.ringWarn = (if bitOf s.prot.ringWarn p then s.prot.ringWarn - 2 ^ p else s.prot.ringWarn) ∧
      t = { s with slk := t.slk, prot := t.prot, out := t.out } ∧
      (s.holds = false → s.sys.mode ≠ .cocoon → t.out = s.out) ∧
      (s.holds = true → ∃ d, (t.node p pos).cmds = n.cmds ++ [d] ∧ d.type = 0x0E ∧ d.cseq = (n.cseq + 1) % 65536 ∧
        d.gen8 = s.sendGen % 256 ∧ (s.reaches p pos = true → t.out = s.out ++ [.slk p (.command 0x0E pos d.cseq d.gen8 d.body)]))) ∧
  (∀ (s : State) (p : Nat), 4 ≤ p ∨ s.powered 6 = false ∨ (s.drivesEnd p = true ∧ (s.ring p).partRead = false) → exec (.commandWindow p) s = .next s) ∧
  (∀ (s : State) (p : Nat), p < 4 → s.powered 6 = true → s.drivesEnd p = true → (s.ring p).partRead = true → s.holds = false →
    ∃ t, exec (.commandWindow p) s = .next t ∧
      t = { s with slk := t.slk, out := s.out ++ (s.ring p).relays.map fun f => .slk p (relayedFrame f) } ∧
      ∀ r, s.slk.rings[p]? = some r → t.ring p = { r with relays := [] }) ∧
  (∀ (s : State) (p pos : Nat) (r : Ring) (n : Node) (c : NodeCmd), s.slk.rings[p]? = some r → r.nodes[pos - 1]? = some n → p < 4 → s.holds = true →
    s.drivesEnd p = true → r.partRead = true → r.relays = [] → r.queue = [(pos, c)] → c.work = none → n.cmds = [] → s.reaches p pos = true →
    (fits (s.windowNs p) c.needNs = false → ∃ t, exec (.commandWindow p) s = .next t ∧ (t.ring p).queue = [(pos, c)] ∧ (t.node p pos).cmds = [] ∧
      t = { s with slk := t.slk }) ∧
    (fits (s.windowNs p) c.needNs = true → ∃ t d, exec (.commandWindow p) s = .next t ∧ d = { c with cseq := (n.cseq + 1) % 65536, gen8 := s.sendGen % 256, sends := 1 } ∧
      (t.ring p).queue = [] ∧ (t.node p pos).cmds = [d] ∧ t = { s with slk := t.slk, out := s.out ++ [.slk p (.command d.type pos d.cseq d.gen8 d.body)] })) ∧
  (∀ (s : State) (p pos q g res : Nat) (l : List Nat), (∀ c ∈ (s.node p pos).cmds, c.cseq ≠ q ∨ c.gen8 ≠ g) →
    exec (.nodeAckRx p pos q g res l) s = .next s) ∧
  (∀ (s : State) (p pos q g res : Nat) (l : List Nat) (c : NodeCmd), p < 4 → 0 < pos → ((s.node p pos).cmds.find? fun c => c.cseq == q && c.gen8 == g) = some c →
    c.type = 10 → c.work = none → s.sys.cocoonEntering = false →
    exec (.nodeAckRx p pos q g res l) s = .next (s.setNode p pos fun n => { n with cmds := n.cmds.filter fun d => decide (d ≠ c) })) ∧
  (∀ (s : State) (p pos : Nat), (s.node p pos).cmds = [] → exec (.nodeAckTimeout p pos) s = .next s) ∧
  (∀ (s : State) (p pos : Nat) (c : NodeCmd) (cs : List NodeCmd), p < 4 → 0 < pos → (s.node p pos).cmds = c :: cs →
    (c.sends < 3 → s.reaches p pos = true → ∃ t, exec (.nodeAckTimeout p pos) s = .next t ∧
      t = { s.setNode p pos (fun n => { n with cmds := { c with sends := c.sends + 1 } :: cs }) with
        out := s.out ++ [.slk p (.command c.type pos c.cseq c.gen8 c.body)] }) ∧
    (3 ≤ c.sends → c.work = none → ∃ t, exec (.nodeAckTimeout p pos) s = .next t ∧
      Says (s.setNode p pos fun n => { n with cmds := cs }) [(.nodeCmdFail, [p, pos, c.type])] [] t)) ∧
  (∀ (s : State) (p : Nat), s.drivesEnd p = false ∨ started (s.ring p) = false ∨ (s.ring p).partRead = false →
    exec (.echoCheck p) s = .next s ∧ exec (.tapTestAuto p) s = .next s) ∧
  (∀ (s : State) (p : Nat), s.drivesEnd p = false ∨ started (s.ring p) = false → exec (.latchRemeasure p) s = .next s) ∧
  (∀ (s : State) (p pos : Nat), p < 4 → s.drivesEnd p = true → started (s.ring p) = true → (s.ring p).partRead = true → (s.ownPart p).getLast? = some pos →
    exec (.echoCheck p) s = .next { s with out := s.out ++ [.slk p (.echo pos)] }) ∧
  (∀ (s : State) (p : Nat), p < 4 → s.drivesEnd p = true → started (s.ring p) = true → ∃ t, exec (.latchRemeasure p) s = .next t ∧
    t = { s with slk := t.slk, out := s.out ++ (s.ownPart p).flatMap fun pos => List.replicate 4 (.slk p (.echo pos)) }) ∧
  (∀ (s : State) (p pos rtt : Nat), s.drivesEnd p = false ∨ ((s.node p pos).echoDue = 0 ∧
    (started (s.ring p) = false ∨ apart rtt (s.node p pos).lastRtt ≤ 20)) → exec (.echoReplyRx p pos rtt) s = .next s) ∧
  (∀ (s : State) (p pos rtt d : Nat) (r : Ring) (n : Node), s.slk.rings[p]? = some r → r.nodes[pos - 1]? = some n → p < 4 → 0 < pos →
    s.drivesEnd p = true → n.echoDue = 1 → ((n.rtts ++ [rtt]).foldl (fun t r => t + (r - 12000)) 0) / 8 = d →
    d ≤ s.fld .slkLatchBase 0 10 * 1000 - 50000 → ∃ t, exec (.echoReplyRx p pos rtt) s = .next t ∧ (t.node p pos).delay = d ∧
      (t.node p pos).echoDue = 0 ∧
      (s.holds = true → t = { s with slk := t.slk } ∧
        (t.ring p).queue = r.queue ++ [(pos, { type := 9, body := ldBody s.pwr.slotB (s.fld .slkLatchBase 0 10 * 1000 - d) })]) ∧
      (s.holds = false → s.wbUp = true → t = { s with
        slk := t.slk, out := s.out ++ [wbOut s (.halfRelay p (commandBytes s.pwr.slotB pos
          { type := 9, body := ldBody s.pwr.slotB (s.fld .slkLatchBase 0 10 * 1000 - d) }))] })) ∧
  (∀ (s : State) (p pos nid c a b : Nat) (ty : NType), s.ringPos p pos = none ∨ s.drivesEnd p = false → exec (.idRx p pos nid ty c a b) s = .next s) ∧
  (∀ (s : State) (p pos nid c a b : Nat) (ty : NType) (q : RingPos), s.ringPos p pos = some q → s.drivesEnd p = true →
    (s.ring p).rstate ≠ 1 ∨ a = 0 ∨ b = 0 ∨ a + b = s.ringN p + 1 →
    (q.ntype = ty → ty ≠ .cell ∨ q.cells = c → q.nodeId = nid →
      exec (.idRx p pos nid ty c a b) s = .next (s.setNode p pos fun n => { n with presence := 1, idMismatch := false })) ∧
    (q.ntype = ty → ty ≠ .cell ∨ q.cells = c → q.nodeId ≠ nid → ∃ t, exec (.idRx p pos nid ty c a b) s = .next t ∧
      Says (s.setNode p pos fun n => { n with presence := 1, idMismatch := true }) [(.nodeMismatch, [p, pos])] [] t) ∧
    (q.ntype ≠ ty ∨ (ty = .cell ∧ q.cells ≠ c) → ∃ t, exec (.idRx p pos nid ty c a b) s = .next t ∧
      Says (s.setNode p pos fun n => { n with presence := 3, idMismatch := decide (q.nodeId ≠ nid) }) [(.nodeMismatch, [p, pos])] [] t)) ∧
  (∀ (s : State) (p : Nat) (r : Ring) (n : Node) (q : RingPos), s.slk.rings[p]? = some r → r.nodes[0]? = some n → p < 4 → s.holds = true →
    s.drivesEnd p = true → started r = true → r.partRead = true → fits (s.windowNs p) (slkFrameNs 12 + 1200000) = true → s.ringN p = 1 → s.ringPos p 1 = some q → q.ntype = .cell → n.presence = 1 → n.cmds = [] → tapFirst n = none →
    s.reaches p 1 = true → ∃ t d, exec (.tapTestAuto p) s = .next t ∧ d.type = 0x0B ∧ d.body = leBytes 1 (n.nextTap % (q.cells + 1)) ∧
      (t.node p 1).cmds = [d] ∧ (t.node p 1).nextTap = (n.nextTap % (q.cells + 1) + 1) % (q.cells + 1) ∧
      t = { s with slk := t.slk, out := s.out ++ [.slk p (.command 0x0B 1 d.cseq d.gen8 d.body)] })

/-- RING_ENUMERATE of no such ring is SLK_REFUSED 4, at an end that does not drive 3; otherwise the ring is enumerating, ENUM and one ID_READ
per position are sent, and a hop count that is not N fails it with reason 3. NODE_CMD, TAP_TEST and DIAG_READ to a position that is absent
or on a ring not started are refused 2 or 3; NODE_CMD of block 1 is 1, of a wrong body 4; otherwise it is queued once for its node.
SWEEP_COPY writes a kept record up to LENGTH, else NOT_KEPT. DIAG_READ reads the node and answers up to 40 bytes. (R367, R369, R382, R392,
R397, R403) -/
def Obligations.RingWorkIsRefusedOrDone : Prop :=
  (∀ (s : State) (w : WorkRef) (op : Op) (p hops : Nat) (an : List Nat), s.ready w 2 0x10 op → dInline op.bytes 0 1 = p →
    (4 ≤ p ∨ s.ringN p = 0 → exec (.ringEnumerate w hops an) s = .next (s.finish op stSlkRefused 4)) ∧
    (p < 4 → s.ringN p ≠ 0 → s.drivesEnd p = false → exec (.ringEnumerate w hops an) s = .next (s.finish op stSlkRefused 3)) ∧
    (p < 4 → s.ringN p ≠ 0 → s.drivesEnd p = true → op.started = true → exec (.ringEnumerate w hops an) s = .next s) ∧
    (∀ r, s.slk.rings[p]? = some r → p < 4 → s.ringN p ≠ 0 → s.drivesEnd p = true → op.started = false → hops = s.ringN p →
      (∀ k, 1 ≤ k → k ≤ s.ringN p → k ∈ an) → ∃ t l, exec (.ringEnumerate w hops an) s = .next t ∧ (t.ring p).rstate = 1 ∧ (t.ring p).break1 = 0 ∧
        t.out = s.out ++ [.slk p (.enum 0 (s.ringN p))] ++ l ∧ t.wb.journal = s.wb.journal ∧ t.regs = s.regs ∧ t.prot = s.prot)) ∧
  (∀ (s : State) (w : WorkRef) (op : Op) (p pos : Nat) (body : List Byte), dInline op.bytes 0 1 = p → dInline op.bytes 1 1 = pos →
    (∀ r, s.nodeRefusal p pos = some r →
      (s.ready w 2 0x11 op → exec (.nodeCmd w) s = .next (s.finish op stSlkRefused r)) ∧
      (s.ready w 2 0x13 op → exec (.tapTest w) s = .next (s.finish op stSlkRefused r)) ∧
      (s.ready w 2 0x14 op → exec (.diagRead w body) s = .next (s.finish op stSlkRefused r))) ∧
    (s.nodeRefusal p pos = none → s.ready w 2 0x11 op → dInline op.bytes 2 1 = 9 → leField (s.buffer op) 0 1 = 1 →
      exec (.nodeCmd w) s = .next (s.finish op stSlkRefused 1)) ∧
    (∀ ty, s.nodeRefusal p pos = none → s.ready w 2 0x11 op → dInline op.bytes 2 1 = ty → (ty = 9 → leField (s.buffer op) 0 1 ≠ 1) →
      (cmdBodyOk ty (s.buffer op) = false → exec (.nodeCmd w) s = .next (s.finish op stSlkRefused 4)) ∧
      (cmdBodyOk ty (s.buffer op) = true → op.started = true → exec (.nodeCmd w) s = .next s) ∧
      (cmdBodyOk ty (s.buffer op) = true → op.started = false → exec (.nodeCmd w) s =
        .next ((s.setOp w fun o => { o with started := true }).queueCmd p pos { type := ty, body := s.buffer op, work := some w }))) ∧
    (∀ q tap, s.nodeRefusal p pos = none → s.ready w 2 0x13 op → s.ringPos p pos = some q → dInline op.bytes 2 1 = tap →
      (q.ntype ≠ .cell ∨ q.cells < tap → exec (.tapTest w) s = .next (s.finish op stSlkRefused 4)) ∧
      (q.ntype = .cell → tap ≤ q.cells → op.started = false → exec (.tapTest w) s =
        .next ((s.setOp w fun o => { o with started := true }).queueCmd p pos { type := 0x0B, body := leBytes 1 tap, work := some w }))) ∧
    (s.nodeRefusal p pos = none → s.ready w 2 0x14 op →
      exec (.diagRead w body) s = .next ((s.emit (.slk p (.diagRead pos))).finish op stOk (body.take 40).length (body.take 40)))) ∧
  (∀ (s : State) (p pos : Nat), (pos = 0 ∨ s.ringN p < pos → s.nodeRefusal p pos = some 2) ∧
    (p < 4 → 0 < pos → pos ≤ s.ringN p → started (s.ring p) = false → s.nodeRefusal p pos = some 3) ∧
    (p < 4 → 0 < pos → pos ≤ s.ringN p → started (s.ring p) = true → (s.node p pos).presence = 1 → s.nodeRefusal p pos = none)) ∧
  (∀ (s : State) (w : WorkRef) (op : Op) (p : Nat), s.ready w 2 0x12 op → dInline op.bytes 0 1 = p →
    (4 ≤ p → exec (.sweepCopy w) s = .next (s.finish op stSlkRefused 4)) ∧
    (p < 4 → (∀ x ∈ (s.ring p).sweeps, x.built = false ∨ x.epoch ≠ dInline op.bytes 4 4) → exec (.sweepCopy w) s = .next (s.finish op 0x402 0)) ∧
    (∀ x, p < 4 → ((s.ring p).sweeps.find? fun x => x.built && x.epoch == dInline op.bytes 4 4) = some x →
      exec (.sweepCopy w) s = .next ((s.writeBuf op 0 ((sweepBytes p (s.ringN p) x).take (dLength op.bytes))).finish op stOk 0)))

/-- Without a running estimator or its array the periodic tasks change nothing, and so does each of an epoch that is not its next. A strobe
update that waits for a late parameter update is EST_LAG; otherwise the ring's epoch is kept. QUANTITY_PUBLISH gives five scopes of eleven
quantities their oldest epoch, and they wait as the loop engine's items. PARAM_UPDATE ends a period that every ring completed. SUMMARY
appends a block, adds to the lifetime counts, hands on the leak scores and checkpoints. BALANCING_PLAN gives every cell node a plan. In
COCOON the former holder strobes a check sweep; a wake powers the domains and sends the wake frame once. (R404, R407, R416, R418, R425,
R427, R428, R432, R433, R437, R438) -/
def Obligations.EstimatorTasksKeepTheirEpochs : Prop :=
  (∀ (s : State) (e : Nat), s.est.running = false ∨ s.arrayOn = false → exec (.quantityPublish e) s = .next s ∧ exec (.paramUpdate e) s = .next s ∧
    exec (.summary e) s = .next s ∧ exec (.balancingPlan e) s = .next s) ∧
  (∀ (s : State) (e : Nat), s.publishDue e = false → exec (.quantityPublish e) s = .next s) ∧
  (∀ (s : State) (e : Nat), s.allUpdated e = false ∨ (s.est.parSnap.all fun x => x.1 != e) = true → exec (.paramUpdate e) s = .next s) ∧
  (∀ (s : State) (e : Nat), s.allUpdated e = false ∨ (s.est.sumSnap.all fun x => x.1 != e) = true → exec (.summary e) s = .next s) ∧
  (∀ (s : State) (p e us : Nat), 4 ≤ p ∨ s.arrayOn = false ∨ s.bit .slkCtrl (4 + p) = false → exec (.strobeUpdate p e us) s = .next s) ∧
  (∀ (s : State) (p e us : Nat), s.est.running = true → s.bit .estCtrl 0 = false ∨ s.resetDue p e = true ∨ s.nextUpdate p = none ∨
    (∃ w, s.nextUpdate p = some w ∧ (w.built = false ∨ w.epoch ≠ e)) → exec (.strobeUpdate p e us) s = .next s) ∧
  (∀ (s : State) (p e us : Nat) (w : Sweep), p < 4 → s.arrayOn = true → s.bit .slkCtrl (4 + p) = true → s.est.running = true → s.bit .estCtrl 0 = true →
    s.resetDue p e = false → s.nextUpdate p = some w → w.built = true → w.epoch = e → (∀ x ∈ s.est.lagWait, x.1 ≠ p) →
    (s.resultsLate e = true → ∃ t, exec (.strobeUpdate p e us) s = .next t ∧
      Says { s with est := { s.est with lag := true, lagWait := s.est.lagWait ++ [(p, e, us)] } } [(.estLag, [e])] [] t) ∧
    (s.resultsLate e = false → ∃ t, exec (.strobeUpdate p e us) s = .next t ∧ t.est.ringEpoch = updAt s.est.ringEpoch p (fun _ => e) ∧
      t.est.arrayUs = us % 65536 ∧ t.est.lastCsr = updAt s.est.lastCsr p (fun _ => s.tb.csr) ∧ t.est.cells.length = s.est.cells.length ∧ t.wb = s.wb ∧
      t.prot = s.prot ∧ t.slk = s.slk ∧ t.regs = s.regs)) ∧
  (∀ (s : State) (e : Nat), s.est.running = true → s.arrayOn = true → s.publishDue e = true → ∃ t, exec (.quantityPublish e) s = .next t ∧
    t.est.qEpoch = s.oldestEpoch e ∧ t.est.pubEpoch = e ∧ t.est.quantities.length = 5 ∧ (∀ l ∈ t.est.quantities, l.length = 11) ∧
    t.loop.arrived = newest 4096 (s.loop.arrived ++ (numbered 0 t.est.quantities).flatMap fun sc => (numbered 0 sc.2).map fun q =>
      ⟨⟨3, 0, 0, s.oldestEpoch e, 0⟩, [], 4, 256 * sc.1 + q.1, ⟨q.2, s.oldestEpoch e, true⟩⟩) ∧
    t.est.cells = s.est.cells ∧ t = { s with est := t.est, loop := { s.loop with arrived := t.loop.arrived }, freeCtr := t.freeCtr }) ∧
  (∀ (s : State) (e : Nat) (l : List (Nat × Cell)) (m : List (Nat × List (Nat × Cell))), s.est.running = true → s.arrayOn = true →
    s.est.parSnap = (e, l) :: m → s.allUpdated e = true → s.est.lagWait = [] → ∃ t, exec (.paramUpdate e) s = .next t ∧
    t.est.paramEpoch = e ∧ t.est.parSnap = m ∧ t.est.lagWait = [] ∧ t.est.cells.length = s.est.cells.length ∧ t.wb = s.wb ∧ t.prot = s.prot ∧
    t.slk = s.slk ∧ t.regs = s.regs) ∧
  (∀ (s : State) (e : Nat) (l : List (Nat × Cell)) (m : List (Nat × List (Nat × Cell))), s.est.running = true → s.arrayOn = true →
    s.est.sumSnap = (e, l) :: m → s.allUpdated e = true → s.est.lagWait = [] → ∃ t, exec (.summary e) s = .next t ∧
    t = { s with est := t.est, freeCtr := t.freeCtr } ∧ t.est.sumSnap = m ∧ t.est.sumFirst = none ∧
    t.est.checkpoint.length = s.est.cells.length ∧ t.est.cells.length = s.est.cells.length ∧
    (s.est.history.length < 175320 → ∃ b, t.est.history = s.est.history ++ [b] ∧ (b.epoch, b.angle, b.astatus) = s.est.sumFirst.getD (e, 0, 0) ∧
      b.cells.length = s.est.cells.length) ∧
    (∀ (i : Nat) (c : Cell), s.est.cells[i]? = some c → ∃ c' k sc, t.est.cells[i]? = some c' ∧ t.est.checkpoint[i]? = some k ∧ c'.th = c.th ∧
      c'.pending = c.pending ++ [.leak (e + 2) sc] ∧ k.life = c'.life ∧ k.th = ((assocGet l i).getD c).th ∧
      c'.life.disThru = (((assocGet l i).getD c).life.disThru + ((assocGet l i).getD c).disThru) % 2 ^ 64 ∧
      c'.life.chThru = (((assocGet l i).getD c).life.chThru + ((assocGet l i).getD c).chThru) % 2 ^ 64)) ∧
  (∀ (s : State) (e : Nat), s.bit .estCtrl 1 = false ∨ e % (s.reg .estBalPeriod).toNat ≠ 0 ∨ s.est.epoch ≠ e ∨ laterEpoch e s.est.planEpoch = false →
    exec (.balancingPlan e) s = .next s) ∧
  (∀ (s : State) (e : Nat), s.est.running = true → s.arrayOn = true → s.bit .estCtrl 1 = true → (s.reg .estBalPeriod).toNat ≠ 0 →
    e % (s.reg .estBalPeriod).toNat = 0 → s.est.epoch = e → laterEpoch e s.est.planEpoch = true →
    ∃ t, exec (.balancingPlan e) s = .next t ∧ t.est.cells = s.est.cells ∧
      t = { s with est := t.est, slk := t.slk } ∧ (s.holds = false → t.slk = s.slk) ∧
      (∀ p pos r, p < 4 → s.ringPos p pos = some r → r.ntype = .cell → (assocGet t.est.plans (p, pos)).isSome = true)) ∧
  (∀ (s : State) (p h : Nat), s.sys.mode ≠ .cocoon ∨ s.drivesEnd p = false → exec (.cocoonCheckSweep p h) s = .next s) ∧
  (∀ (s : State) (p h : Nat) (r : Ring), s.slk.rings[p]? = some r → p < 4 → s.sys.mode = .cocoon → s.sys.cocoonWoke = false → s.drivesEnd p = true →
    started r = true → r.healing = false → (∀ w ∈ r.sweeps, w.built = true) → s.fld .slkCkCtrl 16 8 = 0 ∨ h < s.fld .slkCkCtrl 16 8 → ∃ t, exec (.cocoonCheckSweep p h) s = .next t ∧
      (t.ring p).occ = (s.nextStrobe p).1 ∧ (t.ring p).epoch = (s.nextStrobe p).2.1 ∧ t = { s with slk := t.slk, out := t.out }) ∧
  (∀ (s : State) (c : Nat), s.sys.mode ≠ .cocoon ∨ s.sys.cocoonWoke = true → exec (.cocoonWake c) s = .next s) ∧
  (∀ (s : State) (c : Nat), s.sys.mode = .cocoon → s.sys.cocoonWoke = false → ∃ t u, exec (.cocoonWake c) s = .next t ∧
    Says s [(.cocoonWake, [c % 256])] [] u ∧ t = { u with
      sys := { u.sys with cocoonWoke := true, cocoonAt := s.tb.csr, domains := 0xFF }, slk := { u.slk with ckCause := c % 256 },
      out := u.out ++ [.net (s.fld .sysCocoon 0 2 / 2) 0 (.wake s.pairId)] })

/-- CELL_READ, HISTORY_READ, LIFETIME_READ, CELL_RESET and PLAN_READ of an estimator that does not run are EST_REFUSED 2, of cells beyond the
last, or a node with no cells, 1; a history run not kept is 3. A read writes its records up to LENGTH; CELL_RESET, once a manifest that
names an epoch covers it, notes the cell with full or fast; PLAN_READ answers T and RT. (R408, R417, R428, R432, R435, R441) -/
def Obligations.EstimatorWorkReadsAndResets : Prop :=
  (∀ (s : State) (w : WorkRef) (op : Op) (first n : Nat), dInline op.bytes 0 2 = first → dInline op.bytes 2 2 = n →
    (s.ready w 0 0x10 op →
      (s.est.running = false → exec (.cellRead w) s = .next (s.finish op stEstRefused 2)) ∧
      (s.est.running = true → s.est.cells.length < first + n → exec (.cellRead w) s = .next (s.finish op stEstRefused 1)) ∧
      (s.est.running = true → first + n ≤ s.est.cells.length → exec (.cellRead w) s = .next ((s.writeBuf op 0
        ((((s.est.cells.drop first).take n).flatMap (s.readRecord s.est.epoch)).take (dLength op.bytes))).finish op stOk 0))) ∧
    (s.ready w 0 0x13 op →
      (s.est.running = false → exec (.lifetimeRead w) s = .next (s.finish op stEstRefused 2)) ∧
      (s.est.running = true → s.est.cells.length < first + n → exec (.lifetimeRead w) s = .next (s.finish op stEstRefused 1)) ∧
      (s.est.running = true → first + n ≤ s.est.cells.length → exec (.lifetimeRead w) s = .next ((s.writeBuf op 0
        ((((s.est.cells.drop first).take n).flatMap fun c => lifeBytes c.life).take (dLength op.bytes))).finish op stOk 0))) ∧
    (s.holds = true → s.ready w 0 0x11 op → (s.est.epochCuts.all fun e => decide (e.2 < op.jsn.getD 0)) = true → exec (.cellReset w) s = .next s) ∧
    (s.holds = true → s.ready w 0 0x11 op → (s.est.epochCuts.any fun e => decide (op.jsn.getD 0 ≤ e.2)) = true →
      (s.est.running = false → exec (.cellReset w) s = .next (s.finish op stEstRefused 2)) ∧
      (s.est.running = true → s.est.cells.length ≤ first → exec (.cellReset w) s = .next (s.finish op stEstRefused 1)) ∧
      (s.est.running = true → first < s.est.cells.length → exec (.cellReset w) s = .next
        (State.finish { s with est := { s.est with resets := s.est.resets ++ [(first, dSubop op.bytes == 1, op.jsn.getD 0)] } } op stOk 0)))) ∧
  (∀ (s : State) (w : WorkRef) (op : Op) (e n first k : Nat), s.ready w 0 0x12 op → dInline op.bytes 0 4 = e → dInline op.bytes 4 4 = n →
    dInline op.bytes 8 2 = first → dInline op.bytes 10 2 = k → s.est.running = true →
    (s.est.cells.length < first + k → exec (.historyRead w) s = .next (s.finish op stEstRefused 1)) ∧
    (first + k ≤ s.est.cells.length → (∀ b ∈ s.est.history, b.epoch ≠ e) → 0 < n → exec (.historyRead w) s = .next (s.finish op stEstRefused 3)) ∧
    (∀ pre l, first + k ≤ s.est.cells.length → s.est.history = pre ++ l → (∀ b ∈ pre, b.epoch ≠ e) → (∀ b ∈ l.head?, b.epoch = e) → n ≤ l.length →
      exec (.historyRead w) s = .next ((s.writeBuf op 0
        (((l.take n).flatMap fun x => ((x.cells.drop first).take k).flatMap sumBytes).take (dLength op.bytes))).finish op stOk 0))) ∧
  (∀ (s : State) (w : WorkRef) (op : Op) (p pos : Nat), s.ready w 0 0x14 op → dInline op.bytes 0 1 = p → dInline op.bytes 1 1 = pos →
    (s.est.running = false → exec (.planRead w) s = .next (s.finish op stEstRefused 2)) ∧
    (s.est.running = true → (∀ c ∈ s.est.cells, c.ring ≠ p ∨ c.pos ≠ pos) → exec (.planRead w) s = .next (s.finish op stEstRefused 1)) ∧
    (∀ c t rt, s.est.running = true → c ∈ s.est.cells → c.ring = p → c.pos = pos → (assocGet s.est.plans (p, pos)).getD ([], []) = (t, rt) →
      exec (.planRead w) s = .next (s.finish op stOk 72 (planBytes t rt))))

/-- A string whose position is missing longer than MISS_LIMIT_MS enters the MISSING limit, which sets both inhibits, and after MISS_TRIP_MS
trips its groups with cause 7; a sound PROT_NOTICE trips the groups it names with cause 9; a confirm input that is not seen within its
time is CONTACTOR_FAIL, and with BACKUP_EN trips the group of BACKUP_PDO with cause 12; where nothing is due each changes nothing. The
cyclic frame counts ROLL and goes out on each port that may send it; a GOOSE retransmission doubles its interval up to 1 s. (R448, R449,
R450, R452, R453, R454, R457, R458, R459) -/
def Obligations.ProtectionPlaneTripsGroups : Prop :=
  (∀ (s : State) (i : Nat), s.prot.set = none ∨ (∀ x, s.prot.set = some x → s.strOverdue i x.missLimitMs = false) ∨
    (s.prot.strings.getD i {}).missLimit = true → exec (.missLimit i) s = .next s) ∧
  (∀ (s : State) (i : Nat) (x : ProtSet), s.prot.set = some x → i < s.prot.strings.length → s.strOverdue i x.missLimitMs = true →
    (s.prot.strings.getD i {}).missLimit = false → ∃ t, exec (.missLimit i) s = .next t ∧ Plane s [(.protLimit, [1, i, 7])] [73] t ∧
    (t.prot.strings.getD i {}).missLimit = true ∧ t.inhibit true = true ∧ t.inhibit false = true ∧ t.prot.lastCause = 7 ∧ t.prot.lastSev = 2 ∧
    t.prot.groups = s.prot.groups ∧ t.dio = s.dio ∧
    (s.inhibit true = false ∨ s.inhibit false = false → t.prot.stNum = s.prot.stNum + 1 ∧ t.prot.sqNum = 0 ∧ t.prot.gooseMs = 1)) ∧
  (∀ (s : State) (i : Nat), s.prot.set = none ∨ (∀ x, s.prot.set = some x → s.strOverdue i x.missTripMs = false) ∨
    (s.prot.strings.getD i {}).missTrip = true → exec (.missTrip i) s = .next s) ∧
  (∀ (s : State) (i : Nat) (x : ProtSet), s.prot.set = some x → s.strOverdue i x.missTripMs = true → (s.prot.strings.getD i {}).missTrip = false →
    ∃ t, exec (.missTrip i) s = .next t ∧
      TripsTo (s.setStr i fun y => { y with missTrip := true }) (((x.strings[i]?).map (·.groups)).getD 0) 7 0 0 0 0 true [i] t) ∧
  (∀ (s : State) (crc : Bool) (gen m c r p k e : Nat), (s.wbUp = false ∨ crc = false ∨ gen < s.wb.gen → exec (.protNoticeRx crc gen m c r p k e) s = .next s) ∧
    (s.wbUp = true → crc = true → gen = s.wb.gen → ∃ t, exec (.protNoticeRx crc gen m c r p k e) s = .next t ∧ TripsTo s m 9 r p k e false [] t)) ∧
  (∀ (s : State) (g : Nat), (s.trip g).tripped = false ∨ (s.trip g).confirmDue = false ∨ (s.trip g).confirmed = true ∨
    (∀ x e, s.prot.set = some x → x.groups[g]? = some e → s.tb.csr < (s.trip g).trippedAt + usTicks (1000 * e.confirmMs)) →
    exec (.auxConfirmTimeout g) s = .next s) ∧
  (∀ (s : State) (g : Nat) (x : ProtSet) (e : GroupEntry), g < s.prot.groups.length → (s.trip g).tripped = true → (s.trip g).confirmDue = true →
    (s.trip g).confirmed = false → s.prot.set = some x → x.groups[g]? = some e →
    (s.trip g).trippedAt + usTicks (1000 * e.confirmMs) ≤ s.tb.csr →
    (e.backupEn = false → ∃ t, exec (.auxConfirmTimeout g) s = .next t ∧ Plane s [(.contactorFail, [g])] [] t ∧ t.dio = s.dio ∧
      t.trip g = { s.trip g with confirmDue := false } ∧ ∀ k, k ≠ g → t.trip k = s.trip k) ∧
    (e.backupEn = true → ∃ t u, exec (.auxConfirmTimeout g) s = .next t ∧ Plane s [(.contactorFail, [g])] [] u ∧ u.dio = s.dio ∧
      u.trip g = { s.trip g with confirmDue := false, backupFired := true } ∧ (∀ k, k ≠ g → u.trip k = s.trip k) ∧
      TripsTo u (2 ^ e.backupPdo) 12 e.confRing e.confPos e.confInput 0 true [g] t)) ∧
  (∀ s : State, s.prot.set = none ∨ s.powered 6 = false → exec .protFrameTx s = .next s ∧ exec .gooseRetransmit s = .next s) ∧
  (∀ (s : State) (x : ProtSet), s.prot.set = some x → s.powered 6 = true →
    (∀ l, l = ((List.range 4).filter fun p => bitOf x.canPorts p && (s.canTx p || (s.canLive p && s.protSelf))) → l ≠ [] →
      exec .protFrameTx s = .next { s with prot := { s.prot with roll := (s.prot.roll + 1) % 256 }, out := s.out ++ l.map fun p => .protCan p (if s.holds = true then x.canId else x.canId + 1 + ofBool s.pwr.slotB) x.fd (State.protData { s with prot := { s.prot with roll := (s.prot.roll + 1) % 256 } } 1) }) ∧
    (∃ t o, exec .gooseRetransmit s = .next t ∧ Plane s [] [] t ∧ t.out = s.out ++ o ∧ o.length ≤ 1 ∧
      t.prot = { s.prot with sqNum := s.prot.sqNum + 1, gooseMs := min 1000 (2 * s.prot.gooseMs) } ∧ t.dio = s.dio ∧
      (s.bit .protCtrl 0 = true → s.netOn 0 = true →
        o = [.net 0 7 (.goose s.goId x.appId s.prot.stNum (s.prot.sqNum + 1) s.tripBits (ofBool (s.inhibit true) + 2 * ofBool (s.inhibit false)) x.setSeq)])))

/-- PROT_STAGE refuses an artefact that fails its checks (2 for a binding, 1 otherwise, with SIG_FAIL), bad content (3), another pair or a
manager (2), and stages the rest. PROT_COMMIT acts when covered: nothing staged or another digest is 5, no newer SET_SEQ is 4, otherwise
the set is committed: each ring compares under the old set until an epoch covers the commit, NO_SET holds end with REARM_WAIT, tripped
groups stay. PROT_DISCARD drops what is staged. PROT_RESET names its reason or resets. PROT_TEST trips and judges the readbacks. PROT_READ
writes the set. (R455, R464, R465, R466, R468, R456) -/
def Obligations.ProtectionWorkChangesTheSet : Prop :=
  (∀ (s : State) (w : WorkRef) (op : Op), s.holds = true → s.ready w 2 0x20 op →
    (∀ t c, s.judgeArtefact (some 4) (s.buffer op) = .refused t c → ∃ u, exec (.protStage w) s =
      .next (u.finish op stProtRefused (if c = 4 ∨ c = 5 then 2 else 1)) ∧
      Says { s with sec := { s.sec with sigFailSeen := true } } [(.sigFail, [t, c])] [120] u) ∧
    (∀ a, s.judgeArtefact (some 4) (s.buffer op) = .good a →
      (protSetOf a.body = none → exec (.protStage w) s = .next (s.finish op stProtRefused 3)) ∧
      (∀ x, protSetOf a.body = some x →
        (x.pairId ≠ s.pairId ∨ s.cfg.manager = true → exec (.protStage w) s = .next (s.finish op stProtRefused 2)) ∧
        (x.pairId = s.pairId → s.cfg.manager = false → s.setOk x = false → exec (.protStage w) s = .next (s.finish op stProtRefused 3)) ∧
        (x.pairId = s.pairId → s.cfg.manager = false → s.setOk x = true → ∃ u, exec (.protStage w) s = .next (u.finish op stOk 0) ∧
          Says { s with prot := { s.prot with staged := some x, stagedDigest := artefactDigest (s.buffer op) } }
            [(.protStaged, [x.setSeq, leField (artefactDigest (s.buffer op)) 0 8])] [75] u)))) ∧
  (∀ (s : State) (w : WorkRef) (op : Op), s.holds = true → s.ready w 2 0x21 op → (∀ j, op.jsn = some j → s.wb.covered < j) →
    op.jsn.isSome = true → exec (.protCommit w) s = .next s) ∧
  (∀ (s : State) (w : WorkRef) (op : Op), s.holds = true → s.ready w 2 0x21 op → (∀ j, op.jsn = some j → j ≤ s.wb.covered) →
    (s.prot.staged = none ∨ leField s.prot.stagedDigest 0 8 ≠ dInline op.bytes 0 8 → exec (.protCommit w) s = .next (s.finish op stProtRefused 5)) ∧
    (∀ x, s.prot.staged = some x → leField s.prot.stagedDigest 0 8 = dInline op.bytes 0 8 →
      (∀ y, s.prot.set = some y → x.setSeq ≤ y.setSeq → exec (.protCommit w) s = .next (s.finish op stProtRefused 4)) ∧
      ((∀ y, s.prot.set = some y → y.setSeq < x.setSeq) → (∀ c ∈ s.est.epochCuts, c.2 < op.jsn.getD 0) → ∃ u v, exec (.protCommit w) s = .next (v.finish op stOk 0) ∧
        Plane s [(.protCommitted, [(s.prot.set.map (·.setSeq)).getD 0, x.setSeq, (s.queue op.ring).owner])] [75] u ∧
        u.prot.set = some x ∧ u.prot.setDigest = s.prot.stagedDigest ∧ u.prot.staged = none ∧ u.dio = s.dio ∧
        u.prot.oldSet = s.prot.set ∧ u.prot.oldRings = List.range 4 ∧ u.prot.commitJsn = op.jsn.getD 0 ∧ u.prot.strings = s.prot.strings ∧
        (∀ p, p < 4 → u.setFor p = s.prot.set) ∧
        (∀ g, g < s.prot.groups.length → u.trip g = if (s.trip g).tripped = true ∧ (s.trip g).firstCause = 11 then
          { s.trip g with en := (x.groups[g]?).any (·.en), tripped := false, rearmWait := true, firstCause := 0 }
          else { s.trip g with en := (x.groups[g]?).any (·.en) }) ∧
        v = (List.range 4).foldl (fun s p => s.queueBlock1 p) u))) ∧
  (∀ (s : State) (w : WorkRef) (op : Op), s.holds = true → s.ready w 2 0x22 op →
    (s.prot.staged = none → exec (.protDiscard w) s = .next (s.finish op stProtRefused 5)) ∧
    (s.prot.staged ≠ none → exec (.protDiscard w) s =
      .next (State.finish { s with prot := { s.prot with staged := none, stagedDigest := [] } } op stOk 0))) ∧
  (∀ (s : State) (w : WorkRef) (op : Op), s.holds = true → s.ready w 2 0x23 op →
    ((∃ g, g < 4 ∧ bitOf (dInline op.bytes 0 1) g = true ∧ (s.trip g).en = false) →
      exec (.protReset w) s = .next (s.finish op stProtRefused 8)) ∧
    ((∀ g, g < 4 → bitOf (dInline op.bytes 0 1) g = true → (s.trip g).en = true) →
      (∃ g, g < 4 ∧ bitOf (dInline op.bytes 0 1) g = true ∧ (s.trip g).tripped = true ∧ s.resetOk g = false) →
      exec (.protReset w) s = .next (s.finish op stProtRefused 6)) ∧
    ((∀ g, g < 4 → bitOf (dInline op.bytes 0 1) g = true → (s.trip g).en = true ∧ ((s.trip g).tripped = true → s.resetOk g = true)) →
      ∃ u, exec (.protReset w) s = .next (u.finish op stOk 0) ∧
        Plane s [(.protReset, [dInline op.bytes 0 1 % 16, (s.queue op.ring).owner])] [] u ∧ u.dio = s.dio ∧
        (∀ g, g < 4 → bitOf (dInline op.bytes 0 1) g = true → (s.trip g).tripped = true → u.trip g =
          { s.trip g with tripped := false, rearmWait := true, backupFired := false, test := false, confirmDue := false }) ∧
        (∀ g, 4 ≤ g ∨ bitOf (dInline op.bytes 0 1) g = false ∨ (s.trip g).tripped = false → u.trip g = s.trip g))) ∧
  (∀ (s : State) (w : WorkRef) (op : Op) (g : Nat) (a b c : Bool), s.holds = true → s.ready w 2 0x24 op → dInline op.bytes 0 1 = g →
    (4 ≤ g ∨ (s.trip g).en = false → exec (.protTest w a b c) s = .next (s.finish op stProtRefused 8)) ∧
    (g < 4 → (s.trip g).en = true → s.groupLoaded g = true → exec (.protTest w a b c) s = .next (s.finish op stProtRefused 7)) ∧
    (g < 4 → (s.trip g).en = true → s.groupLoaded g = false → ∃ u, TripsTo s (2 ^ g) 10 0 0 0 0 true [] u ∧ (u.trip g).tripped = true ∧
      (∀ p : Bool, p = (a && b && (c || !s.confirmNamed g)) → ∃ v, exec (.protTest w a b c) s =
        .next (v.finish op (if p then stOk else stProtTestFail) 0) ∧
        Plane u [if p then (.protTestPass, [g]) else (.protTestFail, [g, ofBool a, ofBool b, ofBool c])] [] v ∧ v.dio = u.dio ∧
        v.trip g = (if s.confirmNamed g = true ∧ c = true then { u.trip g with confirmed := true } else u.trip g) ∧
        (∀ k, k ≠ g → v.trip k = u.trip k)))) ∧
  (∀ (s : State) (w : WorkRef) (op : Op), s.ready w 2 0x25 op →
    (s.prot.set = none → exec (.protRead w) s = .next ((s.writeBuf op 0 []).finish op stOk 0)) ∧
    (∀ x, s.prot.set = some x → exec (.protRead w) s = .next ((s.writeBuf op 0 ((protSetBytes x).take (dLength op.bytes))).finish op stOk
      ((protSetBytes x).take (dLength op.bytes)).length)))

/-- A supply below 18.0 V sets NO_SUPPLY on its channels, above 19.0 V clears it. A filtered DI changes, recorded with SOE. A readback that
disagrees flags EXT_DRIVE, MISMATCH or SHORT as the table judges; a dark test switches off and is judged; a short switches off, retries,
and may latch. An overloaded AI takes the protection path and leaves it. OPEN, COMPLIANCE, MAKEUP, the failed self-test and OVR set and
clear as their rules say. What the readback is in OPEN or COMPLIANCE is left open. (R484, R487, R490, R491, R492, R496, R497, R499, R500,
R502, R503, R508) -/
def Obligations.FieldChannelsFlagTheirFaults : Prop :=
  (∀ (s : State) (p : Bool) (v : Nat), s.supplied p = false ∨ 1800 ≤ v % 4096 ∨ s.powered 7 = false →
    exec (.fieldSupplyLost p v) s = .next { s with dio := if p then { s.dio with voltP := v % 4096 } else { s.dio with voltS := v % 4096 } }) ∧
  (∀ (s : State) (p : Bool) (v : Nat), s.supplied p = true → v % 4096 < 1800 → s.powered 7 = true → ∃ t,
    exec (.fieldSupplyLost p v) s = .next t ∧
    Says { s with dio := { (if p then { s.dio with voltP := v % 4096, fsP := false } else { s.dio with voltS := v % 4096, fsS := false }) with dos := t.dio.dos }, aio := { s.aio with aos := t.aio.aos } }
      ([(.fieldSupplyLost, [ofBool p, v % 4096])] ++ if p then [] else (List.range 4).map fun n => (.aoFault, [n, 2]))
      ([116] ++ if p then [] else [117]) t ∧
    (∀ n, n < 16 → t.doCh n = if decide (12 ≤ n) = p then { s.doCh n with noSupply := true, readback := false, swAt := s.tb.csr } else s.doCh n) ∧
    t.aio.aos = if p then s.aio.aos else s.aio.aos.map fun a => { a with noSupply := true }) ∧
  (∀ (s : State) (p : Bool) (v : Nat), (v % 4096 ≤ 1900 ∨ s.powered 7 = false →
    exec (.fieldSupplyGood p v) s = .next { s with dio := if p then { s.dio with voltP := v % 4096 } else { s.dio with voltS := v % 4096 } }) ∧
    (1900 < v % 4096 → s.powered 7 = true → ∃ t, exec (.fieldSupplyGood p v) s = .next t ∧
      t = { s with dio := { (if p then { s.dio with voltP := v % 4096, fsP := true } else { s.dio with voltS := v % 4096, fsS := true }) with dos := t.dio.dos }, aio := { s.aio with aos := t.aio.aos } } ∧
      (∀ n, n < 16 → t.doCh n = if decide (12 ≤ n) = p then { s.doCh n with noSupply := false, readback := t.doOn n, swAt := s.tb.csr } else s.doCh n) ∧
      t.aio.aos = if p then s.aio.aos else s.aio.aos.map fun a => { a with noSupply := false })) ∧
  (∀ (s : State) (n : Nat) (l : Bool) (e : Nat), ((s.dio.dis.getD n {}).filtered = l ∨ 16 ≤ n ∨ s.powered 7 = false →
    exec (.diFilterChange n l e) s = .next s) ∧
    ((s.dio.dis.getD n {}).filtered ≠ l → n < 16 → s.powered 7 = true → ∃ t, exec (.diFilterChange n l e) s = .next t ∧
      Says (s.setDiSt n fun d => { d with filtered := l }) (if s.bit .dioDiCfg 2 n then [(.diChange, [n, ofBool l, e])] else []) [] t)) ∧
  (∀ (s : State) (n : Nat) (h l : Bool), 16 ≤ n ∨ readbackJudged s.sys.mode = false ∨ (s.doCh n).noSupply = true ∨ h = s.doOn n ∨ s.tb.csr < (s.doCh n).swAt + usTicks 1000 →
    exec (.doFault n h l) s = .next s) ∧
  (∀ (s : State) (n : Nat) (h l : Bool) (k : Nat), n < 16 → readbackJudged s.sys.mode = true → (s.doCh n).noSupply = false → h ≠ s.doOn n → (s.doCh n).swAt + usTicks 1000 ≤ s.tb.csr →
    k = (if h = true then (if n < 12 ∨ s.parMode n = true then 2 else 3) else if l = true then 4 else 3) →
    (h = true → 12 ≤ n → s.parMode n = true → s.tb.csr < (s.doCh n).offAt + 200000 →
      exec (.doFault n h l) s = .next (s.setDoSt n fun d => { d with readback := h })) ∧
    (h = false ∨ n < 12 ∨ s.parMode n = false ∨ (s.doCh n).offAt + 200000 ≤ s.tb.csr →
      ((s.doCh n).flag k = true → exec (.doFault n h l) s = .next (s.setDoSt n fun d => { d with readback := h })) ∧
      ((s.doCh n).flag k = false → ∃ t, exec (.doFault n h l) s = .next t ∧
        Says { s with dio := { (s.setDoSt n fun d => ({ d with readback := h } : DoSt).withFlag k).dio with
          darkDue := if k = 2 then (List.range 12).filter (fun j => decide (n < 12 ∧ j ≠ n) && s.bit .dioDoCfg 1 j && s.doOn j) else s.dio.darkDue } }
          [(.doFault, [n, k])] [116] t))) ∧
  (∀ (s : State) (n : Nat), (12 ≤ n ∨ s.bit .dioDoCfg 1 n = false ∨ s.doOn n = false ∨ s.darkDue n = false → exec (.darkTest n) s = .next s) ∧
    (n < 12 → n < s.dio.dos.length → s.bit .dioDoCfg 1 n = true → s.doOn n = true → s.darkDue n = true → ∃ t, exec (.darkTest n) s = .next t ∧
      t = State.setDoSt { s with dio := { s.dio with darkLast := s.tb.csr, darkDue := s.dio.darkDue.filter (· ≠ n) } } n
        (fun d => { d with dark := true, darkAt := s.tb.csr, swAt := s.tb.csr }) ∧ t.doOn n = false)) ∧
  (∀ (s : State) (n : Nat) (f : Bool) (l : List Nat), (s.doCh n).dark = false ∨ s.tb.csr < (s.doCh n).darkAt + usTicks 200 → exec (.darkTestEnd n f l) s = .next s) ∧
  (∀ (s : State) (n : Nat) (f : Bool), (s.doCh n).dark = true → (s.doCh n).darkAt + usTicks 200 ≤ s.tb.csr →
    (f = true ∨ (s.doCh n).darkFail = true → exec (.darkTestEnd n f []) s = .next (s.setDoSt n fun d => { d with dark := false, swAt := s.tb.csr })) ∧
    (f = false → (s.doCh n).darkFail = false → ∃ t, exec (.darkTestEnd n f []) s = .next t ∧
      Says (s.setDoSt n fun d => { d with dark := false, swAt := s.tb.csr, darkFail := true }) [(.doFault, [n, 6])] [116] t) ∧
    (∀ k, f = true → k < 12 → k ≠ n → (s.doCh k).extDrive = true → (s.doCh n).extDrive = false → ∃ t, exec (.darkTestEnd n f [k]) s = .next t ∧
      Says { s with dio := { (s.setDoSt n fun d => { d with dark := false, swAt := s.tb.csr, extDrive := true }).dio with
        darkDue := (List.range 12).filter fun j => decide (n < 12 ∧ j ≠ n) && s.bit .dioDoCfg 1 j && s.doOn j } } [(.doFault, [n, 2]), (.doWiredTogether, [k, n])] [116] t)) ∧
  (∀ (s : State) (n : Nat), (16 ≤ n ∨ s.doOn n = false → exec (.doShort n) s = .next s) ∧
    (n < 16 → s.doOn n = true → (s.doCh n).short = true → ∃ t, exec (.doShort n) s = .next t ∧
      Says (s.setDoSt n fun d => { d with thermal := true, readback := false, hotAt := s.tb.csr, swAt := s.tb.csr }) [(.doShort, [n])] [] t) ∧
    (n < 16 → s.doOn n = true → (s.doCh n).short = false → ∃ t, exec (.doShort n) s = .next t ∧
      Says (s.setDoSt n fun d => { d.withFlag 4 with thermal := true, readback := false, hotAt := s.tb.csr, swAt := s.tb.csr })
        [(.doFault, [n, 4]), (.doShort, [n])] [116] t)) ∧
  (∀ (s : State) (n : Nat) (b : Bool), (16 ≤ n ∨ (s.doCh n).thermal = false ∨ (s.doCh n).latched = true ∨ (s.doCh n).cmd = false ∨
      s.fld .dioDoCfg 16 14 n = 0 ∨ s.heldTrip n = true ∨ s.tb.csr < (s.doCh n).hotAt + usTicks (1000 * s.fld .dioDoCfg 16 14 n) → exec (.doRetry n b) s = .next s) ∧
    (n < 16 → (s.doCh n).thermal = true → (s.doCh n).latched = false → (s.doCh n).cmd = true → s.fld .dioDoCfg 16 14 n ≠ 0 → s.heldTrip n = false →
      (s.doCh n).hotAt + usTicks (1000 * s.fld .dioDoCfg 16 14 n) ≤ s.tb.csr →
      (b = false → exec (.doRetry n b) s = .next (s.setDoSt n fun d =>
        { d with retries := satAt 65535 (d.retries + 1), swAt := s.tb.csr, thermal := false, retryRun := 0, readback := !d.dark && !d.noSupply && s.fieldOn })) ∧
      (b = true → ∃ t, exec (.doRetry n b) s = .next t ∧ Says (s.setDoSt n fun d => { d with
        retries := satAt 65535 (d.retries + 1), swAt := s.tb.csr, short := true, hotAt := s.tb.csr, retryRun := d.retryRun + 1, latched := decide (s.fld .dioDoCfg 8 8 n ≠ 0 ∧ s.fld .dioDoCfg 8 8 n ≤ d.retryRun + 1) })
        [(.doShort, [n])] [] t))) ∧
  (∀ (s : State) (n : Nat), (8 ≤ n ∨ (s.aio.ais.getD n {}).protPath = true ∨ s.powered 7 = false → exec (.aiOverload n) s = .next s) ∧
    (n < 8 → (s.aio.ais.getD n {}).protPath = false → s.powered 7 = true → ∃ t, exec (.aiOverload n) s = .next t ∧
      Says (s.setAiSt n fun a => { a with protPath := true, pathAt := s.tb.csr, quality := 5, overloadSeen := true }) [(.aiOverload, [n])] [] t)) ∧
  (∀ (s : State) (n c : Nat), ((s.aio.ais.getD n {}).protPath = false ∨ s.tb.csr < (s.aio.ais.getD n {}).pathAt + usTicks 1000000 → exec (.aiOverloadRetry n c) s = .next s) ∧
    ((s.aio.ais.getD n {}).protPath = true → (s.aio.ais.getD n {}).pathAt + usTicks 1000000 ≤ s.tb.csr → 50000 < c →
      exec (.aiOverloadRetry n c) s = .next (s.setAiSt n fun a => { a with pathAt := s.tb.csr })) ∧
    ((s.aio.ais.getD n {}).protPath = true → (s.aio.ais.getD n {}).pathAt + usTicks 1000000 ≤ s.tb.csr → c ≤ 50000 → n < s.aio.ais.length → exec (.aiOverloadRetry n c) s = .next (s.setAiSt n fun a =>
      { a with protPath := false, current := c % 65536, quality := aiQuality c, value := if aiQuality c ≤ 2 then fadd (s.reg .aiLoEu n) (fmul (fdiv (fsub (milliamps c) f4) f16) (fsub (s.reg .aiHiEu n) (s.reg .aiLoEu n))) else a.value }))) ∧
  (∀ (s : State) (n : Nat), (4 ≤ n ∨ (s.aoCh n).open_ = true ∨ s.aoSources n = false ∨ flt (s.aoTarget n) 0x3F800000 = true →
    exec (.aoOpen n) s = .next s) ∧
    (n < 4 → (s.aoCh n).open_ = false → s.aoSources n = true → flt (s.aoTarget n) 0x3F800000 = false → ∃ (t : State) (f : F32), exec (.aoOpen n) s = .next t ∧
      Says { s.setAoSt n (fun a => { a with open_ := true, compliance := false, readback := f }) with freeCtr := s.freeCtr + 1 } [(.aoFault, [n, 0])] [117] t) ∧
    exec (.aoOpenEnd n) s = .next (s.setAoSt n fun a => { a with open_ := false })) ∧
  (∀ (s : State) (n h : Nat), (4 ≤ n ∨ 15 ≤ h ∨ (s.aoCh n).open_ = true ∨ (s.aoCh n).compliance = true ∨ s.aoSources n = false →
    exec (.aoCompliance n h) s = .next (s.setAoSt n fun a => { a with headroom := satAt 255 h })) ∧
    (n < 4 → h < 15 → (s.aoCh n).open_ = false → (s.aoCh n).compliance = false → s.aoSources n = true → ∃ (t : State) (f : F32),
      exec (.aoCompliance n h) s = .next t ∧ Says { s.setAoSt n (fun a => { a with headroom := satAt 255 h, compliance := true, readback := f }) with freeCtr := s.freeCtr + 1 }
        [(.aoFault, [n, 1])] [117] t) ∧
    (h < 20 → exec (.aoComplianceEnd n h) s = .next (s.setAoSt n fun a => { a with headroom := satAt 255 h })) ∧
    (20 ≤ h → exec (.aoComplianceEnd n h) s = .next (s.setAoSt n fun a => { a with headroom := satAt 255 h, compliance := false }))) ∧
  (∀ (s : State) (n : Nat), (n < 4 → (s.aoCfg n).shared = true → s.holds = false → s.fieldOn = true → (s.aoCh n).loopResAt.isSome = true →
      (s.aoCh n).makeup = false → (s.aoCh n).cmdAt + usTicks 2000 ≤ s.tb.csr → ∃ f : F32,
      exec (.makeupStart n) s = .next { s.setAoSt n (fun a => { a with makeup := true, readback := f }) with freeCtr := s.freeCtr + 1 }) ∧
    (4 ≤ n ∨ (s.aoCfg n).shared = false ∨ s.holds = true ∨ s.fieldOn = false ∨ (s.aoCh n).loopResAt = none ∨ (s.aoCh n).makeup = true ∨
      s.tb.csr < (s.aoCh n).cmdAt + usTicks 2000 → exec (.makeupStart n) s = .next s) ∧
    (s.holds = true → exec (.makeupEnd n) s = .next s) ∧
    (s.holds = false → exec (.makeupEnd n) s = .next (s.setAoSt n fun a => { a with makeup := false })) ∧
    exec (.aoSelfTestFail n) s = .next (s.setAoSt n fun a => { a with selfTestBad := true })) ∧
  (∀ (s : State) (o : Nat), (o % 8 = 0 ∨ s.powered 7 = false → exec (.gsOverrange o) s = .next s) ∧
    (o % 8 ≠ 0 → s.powered 7 = true → ∃ t, exec (.gsOverrange o) s = .next t ∧
      Says { s with aio := { s.aio with ovr := o % 8 } } [(.gsOverrange, [o % 8])] [117] t))

/-- EN is set in STANDBY only, at the first point from POINT whose channel is not shared; any other write of 1 is WRITE_REFUSED; a write of 0
drops unstored trims. SEL steps to the next such point or stores, CAL steps the trim by 1 µA within 200 µA; without calibration a key is
KEY_IGNORED. HART_CMD, AO_TRIM and DO_RESET refuse with their reasons (4 value, 3 no HART, 1 mode, 2 shared) or act; a HART transaction
needs the lease and a reply. (R492, R495, R501, R504, R505, R506, R509) -/
def Obligations.CalibrationAndIoCommands : Prop :=
  (∀ (s : State) (q : Requester) (v : Word), (∀ t, s.writeBarred q (RegName.aioCal.addr 0 0) = some t → exec (.calEnable q v) s = .next t) ∧
    (s.writeBarred q (RegName.aioCal.addr 0 0) = none →
      (bitOf v.toNat 0 = false → exec (.calEnable q v) s = .next { s with aio := { s.aio with calEn := false, dirty := false, aos := s.aio.aos.map fun a => { a with wZero := a.zero, wSpan := a.span } } }) ∧
      (bitOf v.toNat 0 = true → s.sys.mode ≠ .standby ∨ (∀ k, k < 4 → (s.aoCfg k).shared = true) → ∃ t, exec (.calEnable q v) s = .next t ∧
        Says s [(.writeRefused, [RegName.aioCal.addr 0 0, q.code])] [115] t) ∧
      (∀ k, bitOf v.toNat 0 = true → s.sys.mode = .standby → k < 8 → (∀ j, j < k → (s.aoCfg ((s.aio.point + j) % 8 / 2)).shared = true) →
        (s.aoCfg ((s.aio.point + k) % 8 / 2)).shared = false →
        exec (.calEnable q v) s = .next { s with aio := { s.aio with calEn := true, point := (s.aio.point + k) % 8 } }))) ∧
  (∀ s : State, s.aio.calEn = false → ∃ t1 t2 t3 t4, exec .selKeyPress s = .next t1 ∧ Says s [(.keyIgnored, [0])] [] t1 ∧
    exec .selKeyHold s = .next t2 ∧ Says s [(.keyIgnored, [0])] [] t2 ∧ exec .calKeyPress s = .next t3 ∧ Says s [(.keyIgnored, [1])] [] t3 ∧
    exec .calKeyHold s = .next t4 ∧ Says s [(.keyIgnored, [1])] [] t4) ∧
  (∀ s : State, s.aio.calEn = true →
    ((∀ k, k < 4 → (s.aoCfg k).shared = true) → exec .selKeyPress s = .next s) ∧
    (∀ k, k < 8 → (∀ j, j < k → (s.aoCfg ((s.aio.point + 1 + j) % 8 / 2)).shared = true) → (s.aoCfg ((s.aio.point + 1 + k) % 8 / 2)).shared = false →
      exec .selKeyPress s = .next { s with aio := { s.aio with point := (s.aio.point + 1 + k) % 8 } }) ∧
    (∃ t, exec .selKeyHold s = .next t ∧ Says { s with aio := { s.aio with aos := s.aio.aos.map (fun a => { a with zero := a.wZero, span := a.wSpan }), calEn := false, dirty := false } }
      [(.aoTrim, trimArgs s.aio.aos)] [] t) ∧
    (∀ d : Int, ∀ c : Instr, (c = .calKeyPress ∧ d = 10) ∨ (c = .calKeyHold ∧ d = -10) → ∃ t, exec c s = .next t ∧
      t = { s with aio := { s.aio with aos := t.aio.aos, dirty := true } } ∧ (∀ k, k ≠ s.aio.point / 2 → t.aoCh k = s.aoCh k) ∧
      (s.aio.point / 2 < s.aio.aos.length → t.aoCh (s.aio.point / 2) = if s.aio.point % 2 = 0
        then { s.aoCh (s.aio.point / 2) with wZero := max (-2000) (min 2000 ((s.aoCh (s.aio.point / 2)).wZero + d)) }
        else { s.aoCh (s.aio.point / 2) with wSpan := max (-2000) (min 2000 ((s.aoCh (s.aio.point / 2)).wSpan + d)) }))) ∧
  (∀ (s : State) (w : WorkRef) (op : Op) (r : Option (List Byte)) (k ch p : Nat), s.ready w 9 0x10 op → dInline op.bytes 0 1 = k →
    dInline op.bytes 1 1 = ch → dInline op.bytes 2 1 = p →
    (1 < k ∨ (k = 1 ∧ 4 ≤ ch) ∨ (k = 0 ∧ 8 ≤ ch) ∨ 63 < p ∨ 255 < dLength op.bytes → exec (.hartCmd w r) s = .next (s.finish op 0x0800 4)) ∧
    (k ≤ 1 → (k = 1 → ch < 4) → (k = 0 → ch < 8) → p ≤ 63 → dLength op.bytes ≤ 255 →
      (k = 0 → bitOf s.cfg.aiHart ch = false → exec (.hartCmd w r) s = .next (s.finish op 0x0800 3)) ∧
      (k = 0 → bitOf s.cfg.aiHart ch = true → s.authoritative = false → exec (.hartCmd w r) s = .next (s.finish op 0x0801 0)) ∧
      (k = 1 → s.authoritative = false → exec (.hartCmd w r) s = .next (s.finish op 0x0801 0)) ∧
      (k = 1 ∨ bitOf s.cfg.aiHart ch = true → s.authoritative = true → exec (.hartCmd w r) s = .next (State.finish
        { s with out := s.out ++ [.hart (k == 1) ch p (dInline op.bytes 3 1) (s.buffer op)] } op (if r.isSome then stOk else 0x0801) ((r.getD []).length) (r.getD []))))) ∧
  (∀ (s : State) (w : WorkRef) (op : Op) (ch : Nat) (z p : Int), s.ready w 9 0x11 op → dInline op.bytes 0 1 = ch →
    signedOf 16 (dInline op.bytes 4 2) = z → signedOf 16 (dInline op.bytes 6 2) = p →
    (s.sys.mode ≠ .standby → exec (.aoTrim w) s = .next (s.finish op 0x0800 1)) ∧
    (s.sys.mode = .standby → 4 ≤ ch ∨ 2000 < z.natAbs ∨ 2000 < p.natAbs → exec (.aoTrim w) s = .next (s.finish op 0x0800 4)) ∧
    (s.sys.mode = .standby → ch < 4 → z.natAbs ≤ 2000 → p.natAbs ≤ 2000 → ((s.aoCfg ch).shared = true → exec (.aoTrim w) s = .next (s.finish op 0x0800 2)) ∧
      ((s.aoCfg ch).shared = false → ∃ u, exec (.aoTrim w) s = .next (u.finish op stOk 0) ∧
        Says (s.setAoSt ch fun a => { a with zero := z, span := p, wZero := z, wSpan := p })
          [(.aoTrim, [ch, unsignedOf 16 (s.aoCh ch).zero, unsignedOf 16 (s.aoCh ch).span, unsignedOf 16 z, unsignedOf 16 p])] [] u))) ∧
  (∀ (s : State) (w : WorkRef) (op : Op), s.ready w 9 0x12 op → ∃ u : State, exec (.doReset w) s = .next (u.finish op stOk 0) ∧
    u = { s with dio := { s.dio with dos := u.dio.dos } } ∧ ∀ n, n < 16 → u.doCh n = if bitOf (dInline op.bytes 0 2) n = true then
      { s.doCh n with latched := false, thermal := false, retryRun := 0 } else s.doCh n)

/-- A live port takes its signals' values as items of the frame, counts a remote frame, and writes a packet of the lowest matching filter to
its queue, or flags an overrun once per onset. The buffer offered first has the lowest arbitration field, then was posted first; it is
sent, ends with CAN_NOT_SENT if ONE_SHOT, or waits. Bus-off (TEC and its counting, filter records: model choices, notes/assumptions/33.md,
74.md, 16.md) stands until recovery that software began, with the lease. SLEEP is refused on a port of the protection set; a wake ends it.
CAN_SEND, CAN_RECOVER and CAN_FILTER refuse or act. (R510, R511, R512, R513, R515, R519, R520, R521, R522, R523, R524) -/
def Obligations.CanPortsReceiveSendAndRecover : Prop :=
  (∀ (s : State) (p : Nat) (f : CanFrame), (s.canLive p = false → exec (.canRx p f) s = .next s) ∧
    (s.canLive p = true → f.remote = true → exec (.canRx p f) s = .next (s.setCanPort p fun c => { c with remotes := (c.remotes + 1) % 65536 })) ∧
    (∀ (hit : Option (Nat × CanFilter)) (body : List Byte) (qn : Nat), s.canLive p = true → f.remote = false → hit = matchFilter (s.canPort p).filters f →
      body = canBody p s.can.counter ((hit.map (·.1)).getD 0) f → qn = (hit.map (·.2.queue)).getD 0 →
      ∃ u : State, u = { s with loop := { s.loop with arrived := u.loop.arrived } } ∧
      (s.loop.arrived.length + (frameSignals p f.id f.ide f.data s.cfg.signals).length ≤ 4096 → u.loop.arrived = s.loop.arrived ++
        (frameSignals p f.id f.ide f.data s.cfg.signals).map fun x =>
          ⟨canEntry (p, qn, s.can.counter, body), body, 5, x.1, ⟨x.2, s.canAngle s.can.counter, true⟩⟩) ∧
      (∀ i g, s.cfg.signals[i]? = some g → g.transmit = false → g.port = p → g.id = f.id → g.ide = f.ide → g.start + g.bits ≤ 8 * f.data.length →
        (i, sigValue g f.data) ∈ frameSignals p f.id f.ide f.data s.cfg.signals) ∧
      (hit = none → exec (.canRx p f) s = .next u) ∧
      (∀ i x b, hit = some (i, x) → b = body →
        ((s.queue x.queue).kind = true → (s.queue x.queue).enable = true → (s.queue x.queue).roomFor (1 + b.length / 4) = true → ∃ v w,
          v = u.pushPacket x.queue f.fmt false b ∧ exec (.canRx p f) s = .next w ∧
          w = State.setCanPort { v with can := { v.can with unused := v.can.unused ++ [(p, qn, s.can.counter, b)] } } p fun c => { c with overrunOnset := false }) ∧
        ((s.queue x.queue).kind = false ∨ (s.queue x.queue).enable = false ∨ (s.queue x.queue).roomFor (1 + b.length / 4) = false →
          ∃ w, exec (.canRx p f) s = .next w ∧ Says (u.setCanPort p fun c => { c with rxOverrun := true, overrunOnset := true, overruns := (c.overruns + 1) % 65536 })
            (if (s.canPort p).overrunOnset then [] else [(.canRxOverrun, [p, x.queue])]) [] w)))) ∧
  (∀ (l : List TxBuf) (b : TxBuf), headBuf l = some b → b ∈ l ∧ ∀ c ∈ l, arbKey b.f < arbKey c.f ∨ (arbKey b.f = arbKey c.f ∧ b.seq ≤ c.seq)) ∧
  (∀ (s : State) (p : Nat) (x e : Bool), s.canTx p = false ∨ (s.canPort p).bufs = [] → exec (.canTxComplete p x e) s = .next s) ∧
  (∀ (s : State) (p : Nat) (b : TxBuf) (e : Bool), s.canTx p = true → headBuf (s.canPort p).bufs = some b →
    exec (.canTxComplete p true e) s = .next (State.finishBuf { s.setCanPort p (fun c => { c with
      tec := c.tec - 1, errPassive := decide (128 ≤ c.tec - 1 ∨ 128 ≤ c.recErr), bufs := c.bufs.filter fun d => decide (d.seq ≠ b.seq) }) with
      out := s.out ++ [.can p b.f] } b stOk s.can.counter) ∧
    (b.oneShot = true → exec (.canTxComplete p false e) s = .next (State.finishBuf (s.setCanPort p fun c => { c with
      tec := c.tec + (if e then 8 else 0), errPassive := decide (128 ≤ c.tec + (if e then 8 else 0) ∨ 128 ≤ c.recErr),
      bufs := c.bufs.filter fun d => decide (d.seq ≠ b.seq) }) b 0x0901 0)) ∧
    (b.oneShot = false → exec (.canTxComplete p false e) s = .next (s.setCanPort p fun c => { c with
      tec := c.tec + (if e then 8 else 0), errPassive := decide (128 ≤ c.tec + (if e then 8 else 0) ∨ 128 ≤ c.recErr) }))) ∧
  (∀ (s : State) (p : Nat), (s.canLive p = false → exec (.canBusOff p) s = .next s) ∧
    (p < 4 → s.canLive p = true → ∃ t, exec (.canBusOff p) s = .next t ∧
      Says (s.setCanPort p fun c => { c with busOff := true, recovering := false, busOffSeen := true, tec := 255 }) [(.canBusOff, [p])] [92 + p] t) ∧
    ((s.canPort p).busOff = false ∨ (s.canPort p).recovering = false ∨ s.holds = false → exec (.canRecoveryDone p) s = .next s) ∧
    ((s.canPort p).busOff = true → (s.canPort p).recovering = true → s.holds = true → exec (.canRecoveryDone p) s =
      .next (s.setCanPort p fun c => { c with busOff := false, recovering := false, tec := 0, recErr := 0, errPassive := false })) ∧
    ((s.canPort p).sleep = false ∨ s.powered 6 = false → exec (.canWake p) s = .next s) ∧
    (p < 4 → (s.canPort p).sleep = true → s.powered 6 = true → ∃ u : State, exec (.canWake p) s = .next (if u.bit .canCtrl 6 p then u.wakeCocoon 0 else u) ∧
      Says ((s.setCanPort p fun c => { c with sleep := false, wakeSeen := true }).setFld .canCtrl p 3 1 0) [(.canWake, [p])] [92 + p] u)) ∧
  (∀ (s : State) (q : Requester) (p : Nat) (v x : Word) (c : Instr), (c = .canRecoverWrite q p v ∧ x = v ||| 0x10) ∨ (c = .canSleep q p v ∧ x = v ||| 0x8) →
    (∀ t, s.writeBarred q (RegName.canCtrl.addr p 0) = some t → exec c s = .next t) ∧
    (s.writeBarred q (RegName.canCtrl.addr p 0) = none → ∀ b t r, b = (if bitOf x.toNat 3 && s.canProt p then (s.canPort p).sleep else bitOf x.toNat 3) →
      s.writeHeld q .canCtrl p 0 (setField x 3 1 (ofBool b)) = (t, r) → r = true ∧ ∃ u, exec c s = .next u ∧
        Says (t.setCanPort p fun y => { y with sleep := b, recovering := y.recovering || (bitOf x.toNat 4 && y.busOff) })
          (if bitOf x.toNat 3 && s.canProt p then [(.writeRefused, [RegName.canCtrl.addr p 0, q.code])] else [])
          (if bitOf x.toNat 3 && s.canProt p then [115] else []) u)) ∧
  (∀ (s : State) (w : WorkRef) (op : Op) (p : Nat), s.ready w 3 0x11 op → dInline op.bytes 0 1 = p →
    (4 ≤ p ∨ s.bit .canCtrl 0 p = false → exec (.canRecover w) s = .next (s.finish op 0x0900 1)) ∧
    (p < 4 → s.bit .canCtrl 0 p = true → exec (.canRecover w) s =
      .next ((s.setCanPort p fun c => { c with recovering := c.recovering || c.busOff }).finish op stOk 0))) ∧
  (∀ (s : State) (w : WorkRef) (op : Op) (p id ty : Nat) (ide : Bool), s.ready w 3 0x10 op → dInline op.bytes 4 1 = p →
    dInline op.bytes 0 4 % 2 ^ 29 = id → bitOf (dInline op.bytes 0 4) 29 = ide → dInline op.bytes 5 1 = ty →
    (op.started = true → exec (.canSend w) s = .next s) ∧
    (op.started = false → 4 ≤ p ∨ s.bit .canCtrl 0 p = false ∨ s.powered 6 = false → exec (.canSend w) s = .next (s.finish op 0x0900 1)) ∧
    (op.started = false → p < 4 → s.bit .canCtrl 0 p = true → s.powered 6 = true →
      (s.canFormOk p ty (dLength op.bytes) id ide = false → exec (.canSend w) s = .next (s.finish op 0x0900 2)) ∧
      (s.canFormOk p ty (dLength op.bytes) id ide = true → ((s.canPort p).busOff = true → exec (.canSend w) s = .next (s.finish op 0x0900 3)) ∧
        ((s.canPort p).busOff = false → (32 ≤ (s.canPort p).bufs.length → exec (.canSend w) s = .next s) ∧
          ((s.canPort p).bufs.length < 32 → exec (.canSend w) s = .next { s.setOp w (fun o => { o with started := true }) with
            can := { s.can with posted := s.can.posted + 1, ports := updAt s.can.ports p fun c => { c with bufs := c.bufs ++ [(⟨{ id := id, ide := ide, fmt := ty, brs := bitOf (dInline op.bytes 0 4) 30, data := s.buffer op }, bitOf (dInline op.bytes 6 1) 0, some w, s.can.posted⟩ : TxBuf)] } } }))))) ∧
  (∀ (s : State) (w : WorkRef) (op : Op) (p i : Nat) (r : List Byte), s.ready w 3 0x12 op → dInline op.bytes 0 1 = p → dInline op.bytes 1 1 = i → s.buffer op = r →
    (4 ≤ p → exec (.canFilter w) s = .next (s.finish op 0x0900 1)) ∧
    (p < 4 → 64 ≤ i ∨ dLength op.bytes ≠ 16 → exec (.canFilter w) s = .next (s.finish op 0x0900 2)) ∧
    (p < 4 → i < 64 → dLength op.bytes = 16 → exec (.canFilter w) s = .next ((s.setCanPort p fun c => { c with filters := assocSet c.filters i (⟨leField r 0 4 % 2 ^ 29, leField r 4 4 % 2 ^ 29, bitOf (leField r 0 4) 29, leField r 8 2 % 256⟩ : CanFilter) }).finish op stOk 0)))

/-- NET_SEND refuses a network that is off (1) or a bad length (2); a frame with its instant, or behind others or a closed gate, joins the
queue of its class, any other leaves at once. The head of a queue waits for its instant. GATE_LOAD refuses or keeps a list, which takes
over at its first cycle start at or after its base that is still to come. A link that falls is NET_PORT_DOWN with source 96 + p; an
unfitting module keeps its port down. HSR drops duplicates and own frames and forwards the rest. SUPERVISION goes out on each network in
use every 2,000 ms. A sampled value of another dataset is SV_REFUSED; one accepted gives the instant of its smpCnt in the plant-time
second nearest to the present (the model takes the nearest: notes/assumptions/90.md); invalid quality or no global synchronisation loses
the source. At most 8 sessions open. The wake frame of the pair wakes it. (R100, R103, R130, R525, R526, R527, R529, R534, R535, R536,
R610) -/
def Obligations.PlantNetworkPortsFramesAndSessions : Prop :=
  (∀ (s : State) (w : WorkRef) (op : Op) (n c : Nat), s.frameOp w = some op → op.engine = 5 → dOpcode op.bytes = 0x10 → dInline op.bytes 0 1 = n →
    dInline op.bytes 1 1 = c → (op.started = true ∨ op.shadow = true ∨ s.mayServe op = false → exec (.netSend w) s = .next s) ∧
    (op.started = false → op.shadow = false → s.mayServe op = true →
      (2 ≤ n ∨ s.netOn n = false → exec (.netSend w) s = .next (s.finish { op with late := false } 0x0A00 1)) ∧
      (n < 2 → s.netOn n = true →
        (dLength op.bytes < 60 ∨ 1514 < dLength op.bytes ∨ 8 ≤ c → exec (.netSend w) s = .next (s.finish { op with late := false } 0x0A00 2)) ∧
        (60 ≤ dLength op.bytes → dLength op.bytes ≤ 1514 → c < 8 →
          ((dTimed op.bytes && op.waitTime) = false → s.headFrame n c = none → s.gatesOpen n c = true → exec (.netSend w) s =
            .next (State.finish { s with out := s.out ++ [.net n c (.raw (s.buffer op))] } op stOk 0)) ∧
          ((dTimed op.bytes && op.waitTime) = true ∨ s.headFrame n c ≠ none ∨ s.gatesOpen n c = false → ∃ f : TimedFrame,
            f.id = s.tb.nextFrame ∧ f.network = n ∧ f.prio = c ∧ f.timed = (dTimed op.bytes && op.waitTime) ∧ f.due = dTime op.bytes ∧
            f.ptBase = dPtBase op.bytes ∧ f.latePolicy = dLatePolicy op.bytes ∧ f.bytes = s.buffer op ∧ f.work = some w ∧ f.ring = op.ring ∧
            f.headed = false ∧ exec (.netSend w) s = .next (State.settleFrames { (s.setOp w fun o => { o with started := true }) with
              tb := { s.tb with frames := s.tb.frames ++ [f], nextFrame := s.tb.nextFrame + 1 } } n c)))))) ∧
  (∀ (s : State) (n c : Nat), (s.headFrame n c = none → s.settleFrames n c = s) ∧
    (∀ f, s.headFrame n c = some f → s.frameAlive f = true →
      (f.headed = true ∨ s.frameMay f = false ∨ (f.timed = false ∧ s.gatesOpen n c = false) → s.settleFrames n c = s) ∧
      (f.headed = false → s.frameMay f = true → f.timed = true → s.almClock f.ptBase ≤ f.due → s.settleFrames n c = { s with
        tb := { s.tb with frames := s.tb.frames.map fun g => if g.id = f.id then { g with headed := true } else g } }))) ∧
  (∀ (s : State) (w : WorkRef) (op : Op) (p k : Nat) (b : List Byte), s.ready w 5 0x11 op → dInline op.bytes 0 1 = p → s.buffer op = b →
    (dLength op.bytes - 16) / 8 = k →
    (4 ≤ p ∨ s.netPortUsed p = false → exec (.gateLoad w) s = .next (s.finish op 0x0A00 1)) ∧
    (p < 4 → s.netPortUsed p = true → (dLength op.bytes ≠ 16 + 8 * k → exec (.gateLoad w) s = .next (s.finish op 0x0A00 2)) ∧
      (dLength op.bytes = 16 + 8 * k →
        (k = 0 ∨ 64 < k ∨ 1 < leField b 12 1 ∨ (leField b 12 1 = 1 ∧ 1000000000 ≤ leField b 0 4) ∨
          (∃ e ∈ gateEntries k (b.drop 16), e.2 < 1000 ∨ 1000000000 < e.2) → exec (.gateLoad w) s = .next (s.finish op 0x0A00 3)) ∧
        (0 < k → k ≤ 64 → leField b 12 1 ≤ 1 → (leField b 12 1 = 1 → leField b 0 4 < 1000000000) →
          (∀ e ∈ gateEntries k (b.drop 16), 1000 ≤ e.2 ∧ e.2 ≤ 1000000000) → exec (.gateLoad w) s = .next ((s.setNetPort p fun x => { x with
            newGate := some (s.gateFrom
              { ptBase := leField b 12 1 == 1, base := if leField b 12 1 = 1 then ptField b 0 else leField b 0 8, entries := gateEntries k (b.drop 16) }) }).finish op stOk 0))))) ∧
  (∀ (s : State) (p : Nat), ((s.net.ports.getD p {}).newGate = none → exec (.gateListSwitch p) s = .next s) ∧
    (∀ g, (s.net.ports.getD p {}).newGate = some g → (s.almClock g.ptBase < g.base ∨ s.gateNs g < g.start → exec (.gateListSwitch p) s = .next s) ∧
      (g.base ≤ s.almClock g.ptBase → g.start ≤ s.gateNs g → exec (.gateListSwitch p) s = .next (s.setNetPort p fun x => { x with gate := some g, newGate := none })))) ∧
  (∀ (s : State) (g : GateList) (n : Nat), gateCycle g.entries = n → 0 < n → ∃ k, (s.gateFrom g).start = k * n ∧ s.gateNs g ≤ k * n ∧ k * n < s.gateNs g + n) ∧
  (∀ (s : State) (p : Nat), ((s.net.ports.getD p {}).link = false → exec (.netPortDown p) s = .next s) ∧
    (p < 4 → (s.net.ports.getD p {}).link = true → ∃ t, exec (.netPortDown p) s = .next t ∧
      Says (s.setNetPort p fun x => { x with link := false, downSeen := true }) [(.netPortDown, [p])] [96 + p] t) ∧
    (∀ g, (s.netPortUsed p = false → exec (.netPortUp p g) s = .next s) ∧ (s.netPortUsed p = true → exec (.netPortUp p g) s =
      .next (s.setNetPort p fun x => { x with link := true, tenGig := g, modPresent := true, modRefused := false }))) ∧
    (∃ t, exec (.netModuleRefused p) s = .next t ∧
      Says (s.setNetPort p fun x => { x with link := false, modPresent := true, modRefused := true }) [(.netModuleRefused, [p])] [] t)) ∧
  (∀ s : State, (∀ k, s.net.supAt = some k → s.tb.csr < k + usTicks 2000000 → exec .supervisionTx s = .next s) ∧
    ((∀ k, s.net.supAt = some k → k + usTicks 2000000 ≤ s.tb.csr) → exec .supervisionTx s = .next { s with
      net := { s.net with supAt := some s.tb.csr }
      out := s.out ++ (if s.netOn 0 then [.net 0 7 (.supervision false)] else []) ++
        (if s.netOn 1 then [.net 1 7 (.supervision (s.fld .netCfg 0 2 == 0))] else []) })) ∧
  (∀ (s : State) (p src dst id : Nat) (u m : Bool) (f : List Byte),
    (s.netUp p = false ∨ s.fld .netCfg 0 2 ≠ 0 ∨ (p ≠ 2 ∧ p ≠ 3) ∨ src = s.net.mac → exec (.hsrFrameRx p src dst id u m f) s = .next s) ∧
    (s.netUp p = true → s.fld .netCfg 0 2 = 0 → p = 2 ∨ p = 3 → src ≠ s.net.mac →
      ((src, id) ∈ s.net.hsrSeen → exec (.hsrFrameRx p src dst id u m f) s = .next (s.setNetPort p fun x => { x with dups := (x.dups + 1) % 65536 })) ∧
      ((src, id) ∉ s.net.hsrSeen → exec (.hsrFrameRx p src dst id u m f) s = .next { s with net := { s.net with hsrSeen := ((src, id) :: s.net.hsrSeen).take 1024 }, out := s.out ++ (if (u = true ∧ m = false) ∨ s.netUp (5 - p) = false then [] else [.net 1 0 (.raw f)]) }))) ∧
  (∀ (s : State) (q g per256 : Bool) (n : Nat), (∃ t, exec (.svSampleRx false q g n per256) s = .next t ∧ Says s [(.svRefused, [ofBool q, ofBool g])] [] t) ∧
    (q = true → g = true → exec (.svSampleRx true q g n per256) s = .next { s with tb := { s.tb with svAt := some (s.sampleInstant n per256) } }) ∧
    (q = false ∨ g = false → ∀ u : State, { s with tb := { s.tb with svAt := none } } = u →
      (s.tb.angSrc ≠ 1 ∨ s.tb.angState = .synth → exec (.svSampleRx true q g n per256) s = .next u) ∧
      (s.tb.angSrc = 1 → s.tb.angState ≠ .synth → exec (.svSampleRx true q g n per256) s = exec .angSrcLost u))) ∧
  (∀ (s : State) (n d : Nat) (per256 : Bool), s.sampleInstant n per256 = d → s.tb.pt.total < s.tb.pt.sec * 10 ^ 9 + 10 ^ 9 →
    n < (if per256 then 256 else 80) * (if s.bit .angCtrl 4 then 60 else 50) → 10 ^ 9 ≤ s.tb.pt.total →
    s.tb.pt.total ≤ d + 5 * 10 ^ 8 ∧ d ≤ s.tb.pt.total + 5 * 10 ^ 8 ∧
    d % 10 ^ 9 = n * 10 ^ 9 / ((if per256 then 256 else 80) * (if s.bit .angCtrl 4 then 60 else 50))) ∧
  (∀ (s : State) (a : Bool), (a = false ∨ 8 ≤ s.net.sessions ∨ s.sys.mode = .inserted → exec (.mgmtOpen a) s = .next s) ∧
    (a = true → s.net.sessions < 8 → s.sys.mode ≠ .inserted → ∃ t, exec (.mgmtOpen a) s = .next t ∧
      Says { s with net := { s.net with sessions := s.net.sessions + 1 } } [(.mgmtOpen, [s.net.sessions + 1])] [] t) ∧
    (s.net.sessions = 0 → exec .mgmtClose s = .next s) ∧
    (s.net.sessions ≠ 0 → ∃ t, exec .mgmtClose s = .next t ∧
      Says { s with net := { s.net with sessions := s.net.sessions - 1 } } [(.mgmtClose, [s.net.sessions - 1])] [] t)) ∧
  (∀ (s : State) (u : Bool), (s.sys.mode = .inserted ∨ s.net.svcLink = u → exec (.svcLinkChange u) s = .next s) ∧
    (s.sys.mode ≠ .inserted → s.net.svcLink ≠ u → ∃ t, exec (.svcLinkChange u) s = .next t ∧
      Says { s with net := { s.net with svcLink := u } } [] [100] t)) ∧
  (∀ (s : State) (e a b : Nat), (e ≠ s.fld .netCfg 16 16 ∨ a ≠ 0xC0C0 ∨ b ≠ s.pairId → exec (.wakeFrameRx e a b) s = .next s) ∧
    (e = s.fld .netCfg 16 16 → a = 0xC0C0 → b = s.pairId → exec (.wakeFrameRx e a b) s = exec (.cocoonWake 0) s))

/-- An uncorrectable DRAM error is recorded with its reader, who sees what the rules say: a journal entry that its holder cannot fetch again
is lost, as GUARANTEE_BROKEN says. Corrections above the warning are recorded once in 24 h. A page read keeps its counter word. A scrub
lap reads every page known to be written. A slot that fails its digest, judged every 7 days, is INVALID; the page counters go to the store
every 10 min. A storage command names why it is refused, or reads, writes, erases or counts, from the pages its steps have not yet done
on. A record offered enters under the next SEQ while it fits; a flush that is due marks every record; LOG_WRITE, LOG_EXPORT and LOG_CLEAR
refuse or do their work, an export overtaken ends with LOG_OVERTAKEN. (R43, R538, R539, R544, R547, R549, R550, R551, R554, R557, R568,
R569) -/
def Obligations.StorageAndRecorderKeepWhatTheySay : Prop :=
  (∀ (s : State) (a : Nat) (x : DramUser), ∃ u : State, exec (.dramUe a x) s = .next (u.dramFault a x) ∧
    Says { s with sys := { s.sys with dramUe := (s.sys.dramUe + 1) % 65536, dramUeAddr := a % 2 ^ 48 } } [(.dramUe, [a, x.code])] [122] u ∧
    (x = .other ∨ (∃ j, x = .journal j true ∧ s.sys.mode ≠ .solo) ∨ (∃ e, x = .engine e ∧ s.engineHead e = none) ∨
      (∃ k b, x = .core k b ∧ (4 ≤ k ∨ s.powered (pairDomain k) = false)) → u.dramFault a x = u) ∧
    (∀ e o, x = .engine e → s.engineHead e = some o → u.dramFault a x = u.finish o stEngineError 1) ∧
    (∀ j b, x = .journal j b → b = false ∨ s.sys.mode = .solo → ∃ t, u.dramFault a x = t ∧
      Says { u with wb := { u.wb with journal := u.wb.journal.filter fun e => e.jsn != j } } [(.guaranteeBroken, u.wb.jsn :: j :: a :: u.streamSeqs)] [70] t)) ∧
  (∀ (s : State) (n : Nat), (s.fld .dramCeWarn 0 16 < n → (∀ t, s.sys.dramCeAt = some t → t + ticks24h ≤ s.tb.csr) → ∃ t, exec (.dramCeHigh n) s = .next t ∧
      Says { s with sys := { s.sys with dramCe := satAt (2 ^ 32 - 1) (max s.sys.dramCe n), dramCeAt := some s.tb.csr } } [(.dramCeHigh, [n])] [122] t) ∧
    (n ≤ s.fld .dramCeWarn 0 16 ∨ (∃ t, s.sys.dramCeAt = some t ∧ s.tb.csr < t + ticks24h) →
      exec (.dramCeHigh n) s = .next { s with sys := { s.sys with dramCe := satAt (2 ^ 32 - 1) (max s.sys.dramCe n) } }) ∧
    exec (.dramPatrolLap n) s = .next { s with sys := { s.sys with dramPatrol := satAt 65535 n } }) ∧
  (∀ (s : State) (p i f : Nat) (b : Bool) (g : Page), s.page p i = some g → ∃ g', (s.readPage p i f b).page p i = some g' ∧ g'.t = g.t ∧
    g'.maxFix = f % 128 ∧ g'.uncorr = (g.uncorr || b) ∧ g'.excess = (if s.fixWarn p g ≤ f then satAt 255 (g.excess + 1) else g.excess) ∧
    Says { s with nvs := { s.nvs with pages := assocSet s.nvs.pages (p, i) g', fixHigh := s.nvs.fixHigh || decide (s.fixWarn p g ≤ f), uncorrSeen := s.nvs.uncorrSeen || b } }
      ((if s.fixWarn p g ≤ f ∧ g.reported ≠ s.ptDay then [(.nvsFixHigh, [p, i])] else []) ++ (if b = true then [(.nvsUncorrectable, [p, i])] else []) ++
        if b = true ∧ p = 1 ∧ s.sys.mode = .solo then [(.guaranteeBroken, s.wb.jsn :: i :: s.streamSeqs)] else [])
      ((if s.fixWarn p g ≤ f ∨ b = true then [118] else []) ++ if b = true ∧ p = 1 ∧ s.sys.mode = .solo then [70] else []) (s.readPage p i f b)) ∧
  (∀ (s : State) (h : Nat) (l : List (Nat × Nat × Nat × Bool)), (s.bit .nvsCtrl 0 = false ∨ s.nvs.ready = false → exec (.scrubLap h l) s = .next s) ∧
    (∀ p i f b, (p, i, f, b) ∈ s.lapReads l ↔ ((p, i, f, b) ∈ l ∧ i < partPages p ∧ (p < 5 ∨ s.pageWritten p i = true)) ∨
      (f = 0 ∧ b = false ∧ (∃ g, ((p, i), g) ∈ s.nvs.pages ∧ g.t ≠ 0) ∧ ∀ f' b', (p, i, f', b') ∉ l)) ∧
    (s.bit .nvsCtrl 0 = true → s.nvs.ready = true → ∃ u t, u = (s.lapReads l).foldl (fun s r => s.readPage r.1 r.2.1 r.2.2.1 r.2.2.2) s ∧ exec (.scrubLap h l) s = .next t ∧
      Says { u with nvs := { u.nvs with scrubLap := h, scrubProg := 0, scrubSlow := u.nvs.scrubSlow || decide (24 * s.fld .nvsCtrl 8 8 < h) } }
        ([(.scrubLap, [h, u.fixPages])] ++ if 24 * s.fld .nvsCtrl 8 8 < h then [(.scrubSlow, [h])] else []) [118] t)) ∧
  (∀ (s : State) (o0 o1 o2 : Bool), (∀ k, s.sys.slotsAt = some k → s.tb.csr < k + usTicks 604800000000 → exec (.bootSlotVerify o0 o1 o2) s = .next s) ∧
    ((∀ k, s.sys.slotsAt = some k → k + usTicks 604800000000 ≤ s.tb.csr) → exec (.bootSlotVerify o0 o1 o2) s =
      .next (((State.slotBad { s with sys := { s.sys with slotsAt := some s.tb.csr } } 0 o0).slotBad 1 o1).slotBad 2 o2))) ∧
  (∀ (s : State) (k : Nat) (ok : Bool), (ok = true ∨ (s.nvs.slots.getD k {}).state = .empty ∨ (s.nvs.slots.getD k {}).state = .writing ∨
      (s.nvs.slots.getD k {}).state = .invalid → s.slotBad k ok = s) ∧
    (ok = false → (s.nvs.slots.getD k {}).state ≠ .empty → (s.nvs.slots.getD k {}).state ≠ .writing → (s.nvs.slots.getD k {}).state ≠ .invalid →
      Says { s with nvs := { s.nvs with slots := updAt s.nvs.slots k fun (x : BootSlot) => { x with state := .invalid } } } [(.bootSlotBad, [k])] [118] (s.slotBad k ok))) ∧
  (∀ s : State, (∀ k, s.sys.countersAt = some k → s.tb.csr < k + usTicks 600000000 → exec .counterFlush s = .next s) ∧
    ((∀ k, s.sys.countersAt = some k → k + usTicks 600000000 ≤ s.tb.csr) → exec .counterFlush s =
      .next { s with sys := { s.sys with countersAt := some s.tb.csr }, nvs := { s.nvs with counters := s.nvs.pages } })) ∧
  (∀ (s : State) (w : WorkRef) (op : Op) (p a n : Nat) (l : List (Nat × Nat × Nat)), dInline op.bytes 0 1 = p → dInline op.bytes 4 4 = a → dInline op.bytes 8 4 = n →
    (∀ c o, (c = .nvsRead w l ∧ o = 0x10) ∨ (c = .nvsWrite w ∧ o = 0x11) → s.ready w 7 o op → (p ≠ 5 → p ≠ 6 → exec c s = .next (s.finish op 0xB00 1)) ∧
      (p = 5 ∨ p = 6 → partPages p < a + n → exec c s = .next (s.finish op 0xB00 2)) ∧
      (p = 5 ∨ p = 6 → a + n ≤ partPages p → dLength op.bytes ≠ n * 16384 → exec c s = .next (s.finish op 0xB00 4))) ∧
    (p = 5 ∨ p = 6 → a + n ≤ partPages p → dLength op.bytes = n * 16384 →
      (s.ready w 7 0x10 op → ∀ r, r = l.filter (fun r => decide (a ≤ r.1 ∧ r.1 < a + n) && s.pageWritten p r.1) →
        ((∃ x ∈ r, x.2.2 % 65536 ≠ 0) → exec (.nvsRead w l) s = .next (State.finish ((s.readRange p a r n).copyPages op p a r n) op 0xB01 0)) ∧
        ((∀ x ∈ r, x.2.2 % 65536 = 0) → exec (.nvsRead w l) s = .next (State.finish ((s.readRange p a r n).copyPages op p a r n) op stOk 0))) ∧
      (s.ready w 7 0x11 op → ∀ m, op.steps = m →
        ((∃ k, m ≤ k ∧ k < n ∧ s.pageWritten p (a + k) = true) → exec (.nvsWrite w) s = .next (s.finish op 0xB00 3)) ∧
        ((∀ k, m ≤ k → k < n → s.pageWritten p (a + k) = false) → ∃ u : State, exec (.nvsWrite w) s = .next (u.finish op stOk 0) ∧
          u = { s with nvs := { s.nvs with pages := u.nvs.pages, data := u.nvs.data } } ∧ (Memory.wf s.nvs.data = true → Memory.wf u.nvs.data = true) ∧
          (∀ k, m ≤ k → k < n → ∃ g, u.page p (a + k) = some g ∧ g.t = s.fld .nvsPartCfg 0 7 p) ∧
          (n = m + 1 → u.nvs.data = Memory.writeN s.nvs.data (nandKey p (a + m) 0) (s.readBuf op (m * 16384) 16384))))) ∧
    (s.ready w 7 0x12 op → (p ≠ 5 → p ≠ 6 → exec (.nvsErase w) s = .next (s.finish op 0xB00 1)) ∧
      (p = 5 ∨ p = 6 → partPages p < (a + n) * 256 → exec (.nvsErase w) s = .next (s.finish op 0xB00 2)) ∧
      (p = 5 ∨ p = 6 → (a + n) * 256 ≤ partPages p → ∀ m, op.steps = m → m ≤ n → ∃ u : State, exec (.nvsErase w) s = .next (u.finish op stOk 0) ∧
        u = { s with nvs := { s.nvs with pages := u.nvs.pages, data := u.nvs.data } } ∧
        (∀ i, (a + m) * 256 ≤ i → i < (a + n) * 256 → u.pageWritten p i = false) ∧ (∀ q i, q ≠ p ∨ i < (a + m) * 256 ∨ (a + n) * 256 ≤ i → u.page q i = s.page q i) ∧
        (∀ x, Memory.read u.nvs.data x = if x < nandKey p ((a + m) * 256) 0 ∨ nandKey p ((a + n) * 256) 0 ≤ x then Memory.read s.nvs.data x else unlisted))) ∧
    (s.ready w 7 0x13 op → (7 ≤ p → exec (.nvsCounters w) s = .next (s.finish op 0xB00 1)) ∧
      (p < 7 → partPages p < a + n → exec (.nvsCounters w) s = .next (s.finish op 0xB00 2)) ∧
      (p < 7 → a + n ≤ partPages p → dLength op.bytes < 4 * n → exec (.nvsCounters w) s = .next (s.finish op 0xB00 4)) ∧
      (p < 7 → a + n ≤ partPages p → 4 * n ≤ dLength op.bytes → exec (.nvsCounters w) s =
        .next ((s.writeBuf op 0 ((List.range n).flatMap fun k => leBytes 4 (s.counterWord p (a + k)))).finish op stOk 0)))) ∧
  (∀ (s : State) (c v o : Nat) (b : List Byte), (c = 0 ∨ 0xFFFE ≤ c → exec (.logRecord c v o b) s = .next s) ∧
    (0 < c → c < 0xFFFE → ∃ t, exec (.logRecord c v o b) s = .next t ∧ Reports s t ∧ t.evt = s.evt ∧ t.out = s.out ∧
    (s.log.taking = false ∨ s.powered 1 = false → t.log = s.log) ∧
    (s.log.taking = true → s.powered 1 = true → v % 4 = 0 → s.bit .logCtrl 0 = false → t.log = s.log) ∧
    (s.log.taking = true → s.powered 1 = true → v % 4 ≠ 0 → unflushedBytes s.log.recs + 1088 ≤ 4194304 → t.log.seq = s.log.seq + 1 ∧
      ∃ r, t.log.recs = s.log.recs ++ [r] ∧ r.seq = s.log.seq + 1 ∧ r.code = some c ∧ r.sev = v % 4 ∧ r.source = some o ∧ r.ang = s.tb.ang ∧ r.pt = s.tb.pt ∧ r.flushed = false ∧
        (16 ≤ b.length → b.length ≤ 1024 → b.length % 8 = 0 → r.soft = b)))) ∧
  (∀ s : State, (unflushedBytes s.log.recs < 262144 → s.tb.csr < s.log.flushAt + usTicks 5000000 → (∀ r ∈ s.log.recs, r.flushed = false → r.sev < 2) →
      exec .recorderFlush s = .next s) ∧
    (262144 ≤ unflushedBytes s.log.recs ∨ s.log.flushAt + usTicks 5000000 ≤ s.tb.csr ∨ (∃ r ∈ s.log.recs, r.flushed = false ∧ 2 ≤ r.sev) → s.log.dropped = false →
      ∃ t, exec .recorderFlush s = .next t ∧ t = { s with log := t.log } ∧ (∀ r ∈ t.log.recs, r.flushed = true) ∧ t.log.seq = s.log.seq)) ∧
  (∀ (s : State) (w : WorkRef) (op : Op) (c v : Nat), s.ready w 7 0x20 op → dSubop op.bytes = c → dInline op.bytes 0 1 = v →
    (c < 0xF000 ∨ 0xFFFD < c ∨ 3 < v → exec (.logWrite w) s = .next (s.finish op 0xB00 5)) ∧
    (0xF000 ≤ c → c ≤ 0xFFFD → v ≤ 3 → (dLength op.bytes < 16 ∨ 1024 < dLength op.bytes → exec (.logWrite w) s = .next (s.finish op 0xB00 4)) ∧
      (16 ≤ dLength op.bytes → dLength op.bytes ≤ 1024 → ∃ t : State, Reports s t ∧
        (t.log.seq = s.log.seq → exec (.logWrite w) s = .next (t.finish op 0xB04 0)) ∧
        (t.log.seq ≠ s.log.seq → exec (.logWrite w) s = .next (t.finish op stOk (t.log.seq % 2 ^ 32) (leBytes 8 t.log.seq))) ∧
        (s.log.taking = true → s.powered 1 = true → 0 < v → unflushedBytes s.log.recs + 1088 ≤ 4194304 → t.log.seq = s.log.seq + 1 ∧
          exec (.logWrite w) s = .next (t.finish op stOk ((s.log.seq + 1) % 2 ^ 32) (leBytes 8 (s.log.seq + 1))))))) ∧
  (∀ (s : State) (w : WorkRef) (op : Op) (a b : Nat) (e : Export), s.ready w 7 0x21 op → max (dInline op.bytes 0 8) op.logLo = a → min (dInline op.bytes 8 8) op.logHi = b →
    op.copied.getD { last := a - 1 } = e →
    (a ≤ b → e.last < b → e.last < s.log.erased → exec (.logExport w) s =
      .next ((s.writeBuf op e.len []).finish op 0xB02 (if e.recs + e.gaps = 0 then 0 else e.last % 2 ^ 32) (exportResult a e))) ∧
    (b < a → exec (.logExport w) s = .next ((s.writeBuf op e.len []).finish op stOk (if e.recs + e.gaps = 0 then 0 else e.last % 2 ^ 32) (exportResult a e))) ∧
    (a ≤ b → b ≤ e.last ∨ s.log.erased ≤ e.last → ∀ x b', exportRecs s.pwr.slotB (dLength op.bytes) b
        (s.log.recs.filter fun r => decide (a ≤ r.seq ∧ r.seq ≤ b ∧ e.last < r.seq)) (e, []) = (x, b') →
      exec (.logExport w) s = .next ((s.writeBuf op e.len b').finish op stOk (if x.recs + x.gaps = 0 then 0 else x.last % 2 ^ 32) (exportResult a x)))) ∧
  (∀ (s : State) (w : WorkRef) (op : Op), s.ready w 7 0x22 op →
    (op.started = true → exec (.logClear w) s = .next ((s.removeUpto (lastCleared s.log.recs)).finish op stOk 0)) ∧
    (op.started = false →
    (∀ y c, s.judgeArtefact (some 6) (s.buffer op) = .refused y c → ∃ u, exec (.logClear w) s = .next (u.finish op 0xB03 (secReason c)) ∧
      Says { s with sec := { s.sec with sigFailSeen := true } } [(.sigFail, [y, c]), (.logClearRefused, [secReason c])] [120] u) ∧
    (∀ z, s.judgeArtefact (some 6) (s.buffer op) = .good z → ∀ n, leField z.body 8 8 = n →
      (∀ r, (r = 4 ∧ s.log.seq < n) ∨ (r = 5 ∧ n ≤ s.log.seq ∧ s.nonceUsed z = true) ∨ (r = 6 ∧ n ≤ s.log.seq ∧ s.nonceUsed z = false ∧ s.exporting = true) →
        ∃ u, exec (.logClear w) s = .next (u.finish op 0xB03 r) ∧ Says s [(.logClearRefused, [r])] [] u) ∧
      (n ≤ s.log.seq → s.nonceUsed z = false → s.exporting = false → ∃ u : State,
        Says (s.keepNonce z) [(.logCleared, [n, oldestSeq s.log.recs, leField (artefactDigest (s.buffer op)) 0 8, (s.queue op.ring).owner])] [] u ∧
        exec (.logClear w) s = .next ((u.flushLog.removeUpto n).finish op stOk 0) ∧ (u.flushLog.removeUpto n).log.cleared = n ∧
        ∀ r ∈ (u.flushLog.removeUpto n).log.recs, n < r.seq ∨ r.name = .logCleared))))

/-- SEC_ATTEST reports with the next counter and signs. SEC_VERIFY and SEC_OWNER record a refused artefact and name the reason, else return
the digest or take the owner key. UPD_PREPARE works in STANDBY or SERVICE, names its first failed check or starts to write the slot that
is neither IMAGO nor FACTORY. UPD_ACTIVATE and its instant restart into the trial or complete NOT_SAFE. Confirmation makes the trial
IMAGO; expiry falls back. Model choices: a LENGTH below 370 is BAD_DESC, UPD_ABANDON with nothing prepared is OK, the order of the checks
(log entry 52); whether a slot of the partner is TRIAL comes with UPD_PREPARE (log entry 76). (R574, R575, R576, R579, R583, R586, R587,
R588, R590, R591, R592, R593) -/
def Obligations.SecurityAndUpdateCommandsActAsTheySay : Prop :=
  (∀ (s : State) (w : WorkRef) (op : Op) (c : Nat) (r : List Byte), s.ready w 8 0x10 op → c = (s.sec.reportCtr + 1) % 2 ^ 64 → r = s.attestReport ((op.bytes.drop 48).take 16) c →
    (dLength op.bytes < 370 → exec (.secAttest w) s = .next (s.finish op stBadDesc 0)) ∧
    (370 ≤ dLength op.bytes → exec (.secAttest w) s =
      .next ((State.writeBuf { s with sec := { s.sec with reportCtr := c } } op 0 (r ++ deviceSignature (digest r))).finish op stOk 0)) ∧
    (s.sec.meas.length = 64 → op.bytes.length = 64 → r.length = 256 ∧ (r.drop 4).take 8 = leBytes 8 s.sec.serial ∧ (r.drop 24).take 16 = op.bytes.drop 48 ∧ (r.drop 64).take 64 = s.sec.meas ∧ (r.drop 176).take 8 = leBytes 8 c)) ∧
  (∀ (s : State) (w : WorkRef) (op : Op) (d : List Byte), s.ready w 8 0x11 op → d = artefactDigest (s.buffer op) →
    (∀ y c, s.judgeArtefact none (s.buffer op) = .refused y c → ∃ u, exec (.secVerify w) s = .next (u.finish op 0x0C00 (secReason c) d) ∧
      Says { s with sec := { s.sec with sigFailSeen := true } } [(.sigFail, [y, c])] [120] u) ∧
    (∀ a, s.judgeArtefact none (s.buffer op) = .good a → ((isToken a = true ∧ s.nonceUsed a = true) → exec (.secVerify w) s = .next (s.finish op 0x0C00 4 d)) ∧
      (¬ (isToken a = true ∧ s.nonceUsed a = true) → s.enrolBarred a = true → exec (.secVerify w) s = .next (s.finish op 0x0C00 5 d)) ∧
      (¬ (isToken a = true ∧ s.nonceUsed a = true) → s.enrolBarred a = false → exec (.secVerify w) s = .next (s.finish op stOk 0 d)))) ∧
  (∀ (s : State) (w : WorkRef) (op : Op), s.ready w 8 0x12 op →
    (∀ y c, s.judgeArtefact (some 7) (s.buffer op) = .refused y c → ∃ u, exec (.secOwner w) s = .next (u.finish op 0x0C00 (secReason c)) ∧
      Says { s with sec := { s.sec with sigFailSeen := true } } [(.sigFail, [y, c])] [120] u) ∧
    (∀ a, s.judgeArtefact (some 7) (s.buffer op) = .good a → (s.enrolBarred a = true → exec (.secOwner w) s = .next (s.finish op 0x0C00 5)) ∧
      (s.enrolBarred a = false → ∃ u, exec (.secOwner w) s = .next (u.finish op stOk 0) ∧
        Says { s with sec := { s.sec with owner := a.body.take 57 } } [(.ownerEnrolled, [leField (digest (a.body.take 57)) 0 8])] [] u))) ∧
  (∀ (s : State) (w : WorkRef) (op : Op) (p : Bool), s.ready w 8 0x30 op → (op.started = true → exec (.updPrepare w p) s = .next s) ∧
    (op.started = false → s.sys.mode ≠ .standby → s.sys.mode ≠ .service → exec (.updPrepare w p) s = .next (s.finish op 0x0D00 1)) ∧
    (op.started = false → s.sys.mode = .standby ∨ s.sys.mode = .service → ∀ u, u = (if s.sys.mode = .standby then s.setMode .update else s) →
      (∀ y c, u.judgeArtefact (some 1) (u.buffer op) = .refused y c → ∃ v : State,
        exec (.updPrepare w p) s = .next ((v.finish op 0x0D00 (if c = 4 ∨ c = 5 then 2 else 10)).setMode s.sys.mode) ∧
        Says { u with sec := { u.sec with sigFailSeen := true } } [(.sigFail, [y, c])] [120] v) ∧
      (∀ a h, u.judgeArtefact (some 1) (u.buffer op) = .good a → h = imageHdr a.body →
        (∀ r, u.prepareFault p h = some r → exec (.updPrepare w p) s = .next ((u.finish op 0x0D00 r).setMode s.sys.mode)) ∧
        (u.prepareFault p h = none → ∃ t : State, exec (.updPrepare w p) s = .next t ∧ t = { u with nvs := t.nvs, hq := t.hq, upd := t.upd } ∧ t.hq = (u.setOp w fun (o : Op) => { o with started := true }).hq ∧
          t.nvs = { u.nvs with slots := updAt u.nvs.slots u.spareSlot fun (_ : BootSlot) => ({ state := .writing, version := h.version, minPeer := h.minPeer, proto := h.proto, protoMin := h.protoMin, svn := h.svn, confirmS := h.confirmS, raiseFloor := h.raiseFloor } : BootSlot) } ∧
          t.upd = { u.upd with ready := false, target := u.spareSlot, image := a.body, work := some w, progress := 0 })))) ∧
  (∀ (s : State) (h : ImageHdr) (p : Bool), ∀ x2 x3 x4 x5 : Prop, x2 = (h.full = false ∧ (s.sec.factoryBoot = true ∨ slotsIn s.nvs.slots .imago = [] ∨ h.baseDigest ≠ slotDigest s.nvs.slots .imago)) →
    x3 = (s.partnerFits h.version h.minPeer h.proto h.protoMin = false) → x4 = (slotsIn s.nvs.slots .trial ≠ [] ∨ p = true) → x5 = (s.prg.stage ≠ 0) →
    (h.svn < s.sec.svnFloor → s.prepareFault p h = some 3) ∧ (s.sec.svnFloor ≤ h.svn → x2 → s.prepareFault p h = some 4) ∧
    (s.sec.svnFloor ≤ h.svn → ¬ x2 → x3 → s.prepareFault p h = some 5) ∧ (s.sec.svnFloor ≤ h.svn → ¬ x2 → ¬ x3 → x4 → s.prepareFault p h = some 6) ∧
    (s.sec.svnFloor ≤ h.svn → ¬ x2 → ¬ x3 → ¬ x4 → x5 → s.prepareFault p h = some 7) ∧ (s.sec.svnFloor ≤ h.svn → ¬ x2 → ¬ x3 → ¬ x4 → ¬ x5 → s.prepareFault p h = none)) ∧
  (∀ (s : State) (w : WorkRef), s.activateOp w = none → exec (.updActivate w) s = .next s) ∧
  (∀ (s : State) (w : WorkRef) (op : Op) (c : Instr), s.activateOp w = some op → 
    (c = .updActivate w → op.waitTime = true ∧ op.late = true ∧ dLatePolicy op.bytes = false → exec c s = .next s) ∧
    (c = .updActivate w → op.late = false ∨ op.waitTime = false ∨ dLatePolicy op.bytes = true → (s.sys.mode ≠ .standby → s.sys.mode ≠ .service → exec c s = .next (s.finish op 0x0D00 1)) ∧
      (s.sys.mode = .standby ∨ s.sys.mode = .service → s.upd.ready = false → exec c s = .next (s.finish op 0x0D00 9)) ∧
      (s.sys.mode = .standby ∨ s.sys.mode = .service → s.upd.ready = true → op.waitTime = true → s.clockOf (dPtBase op.bytes) < dTime op.bytes →
        exec c s = .next { s with upd := { s.upd with scheduled := some (dPtBase op.bytes, dTime op.bytes, w) } })) ∧
    ((c = .updActivate w ∧ (op.late = false ∨ op.waitTime = false ∨ dLatePolicy op.bytes = true) ∧ (s.sys.mode = .standby ∨ s.sys.mode = .service) ∧ s.upd.ready = true ∧ (op.waitTime = false ∨ dTime op.bytes ≤ s.clockOf (dPtBase op.bytes))) ∨
     (c = .updActivateDue ∧ ∃ p t, s.upd.scheduled = some (p, t, w) ∧ t ≤ s.clockOf p) →
      ∀ u : State, u = { s with upd := { s.upd with scheduled := none } } →
      (s.upd.ready = true → s.sys.mode = .service ∨ s.activateSafe = true → ∀ l, l = updAt (s.nvs.slots.map fun (b : BootSlot) => if b.state = .imago then { b with state := .chrysalis } else b)
          s.upd.target (fun (b : BootSlot) => { b with state := .trial, attempted := false }) → ∃ v : State,
        exec c s = .next ((v.finish { op with late := false } stOk 0).restart 6) ∧ Says { u with nvs := { u.nvs with slots := l } } [(.updActivated, [(l.getD s.upd.target {}).version])] [] v) ∧
      (s.upd.ready = false ∨ (s.sys.mode ≠ .service ∧ s.activateSafe = false) → exec c s = .next (u.finish { op with late := false } 0x0D01 0)))) ∧
  (∀ s : State, (s.upd.scheduled = none → exec .updActivateDue s = .next s) ∧ (∀ p t w, s.upd.scheduled = some (p, t, w) →
    (s.clockOf p < t → exec .updActivateDue s = .next s) ∧
    (t ≤ s.clockOf p → s.activateOp w = none → exec .updActivateDue s = .next { s with upd := { s.upd with scheduled := none } }))) ∧
  (∀ (s : State) (w : WorkRef) (op : Op), s.ready w 8 0x33 op → (s.upd.ready = false → exec (.updAbandon w) s = .next (s.finish op stOk 0)) ∧
    (s.upd.ready = true → exec (.updAbandon w) s = .next (State.finish { s with nvs := { s.nvs with slots := updAt s.nvs.slots s.upd.target fun (_ : BootSlot) => ({} : BootSlot) }, upd := { s.upd with ready := false } } op stOk 0))) ∧
  (∀ s : State, ∃ u, Says { s with nvs := { s.nvs with slots := updAt s.nvs.slots s.sec.bootSlot fun (x : BootSlot) => { x with state := .imago } }, upd := { s.upd with trial := false, confirmFrom := none, fallbackPending := false }, sec := (if s.runningSlot.raiseFloor = true ∧ s.sec.svnFloor < s.runningSlot.svn ∧ s.sec.fuseLeft ≠ 0 then { s.sec with svnFloor := s.runningSlot.svn, fuseLeft := s.sec.fuseLeft - 1 } else s.sec) }
        ((if s.runningSlot.raiseFloor = true ∧ s.sec.svnFloor < s.runningSlot.svn ∧ s.sec.fuseLeft = 0 then [(.svnFuseExhausted, [s.runningSlot.svn])] else []) ++ [(.updConfirmed, [s.runningSlot.version])]) [121] u ∧
    (∀ w op, s.ready w 8 0x32 op → (s.trialHealthy = true → s.upd.confirmFrom.isSome = true → exec (.updConfirm w) s = .next (u.finish op stOk 0)) ∧
      (s.trialHealthy = false ∨ s.upd.confirmFrom = none → exec (.updConfirm w) s = .next (s.finish op 0x0D00 9))) ∧
    (s.bit .updCfg 0 = true → s.upd.confirmFrom.isSome = true → s.trialHealthy = true → s.confirmHoldS ≤ s.holdS → exec .updAutoConfirm s = .next u) ∧
    (s.bit .updCfg 0 = false ∨ s.upd.confirmFrom = none ∨ s.trialHealthy = false ∨ s.holdS < s.confirmHoldS → exec .updAutoConfirm s = .next s)) ∧
  (∀ s : State, ((s.confirmEnd = none ∨ ∃ e, s.confirmEnd = some e ∧ s.tb.csr < e) → exec .updConfirmExpiry s = .next s) ∧
    (∀ e, s.confirmEnd = some e → e ≤ s.tb.csr → ∃ u : State, Says { s with upd := { s.upd with confirmFrom := none } } [(.updConfirmExpired, [s.runningSlot.version])] [121] u ∧
      (s.sys.mode = .sync ∨ s.sys.mode = .standby ∨ s.sys.mode = .quarantine ∨ s.sys.mode = .service → exec .updConfirmExpiry s = .next (u.restart 6)) ∧
      (s.sys.mode = .active → s.partnerStandby = true → exec .updConfirmExpiry s =
        .next { u with sys := { u.sys with restartPend := some 6 }, wb := { u.wb with ho := (if s.wb.ho = .idle then .planned else s.wb.ho) } }) ∧
      (s.sys.mode ≠ .sync → s.sys.mode ≠ .standby → s.sys.mode ≠ .quarantine → s.sys.mode ≠ .service → (s.sys.mode = .active → s.partnerStandby = false) →
        exec .updConfirmExpiry s = .next { u with upd := { u.upd with fallbackPending := true } })))

/-- A restart ends in BOOT with its cause, keeps PD0 and what lies in fuses and NAND, and the third boot watchdog in a row ends in QUARANTINE.
The monitor takes an unattempted trial, else imago, chrysalis or factory slot that verifies, and falls back; each verified stage is
measured; stage 3 without a sound configuration ends in SERVICE or QUARANTINE. SYS_CTRL acts by KEY, CMD and mode or is refused; an exit
from SAFE-HOLD, a starter alone and a woken COCOON send REQUEST. COCOON_ENTER names its refusal. Over-temperature is recorded and plans a
handover. Model choices (log entries 50 and 51): power-on keeps fuses and NAND; 70.0 degrees; COCOON_ENTER completes when entry goes on.
(R578, R579, R580, R582, R598, R599, R600, R601, R604, R607, R611, R612) -/
def Obligations.BootRestartAndModesFollowTheirTables : Prop :=
  (∀ (s : State) (k : Nat), (k = 0 ∨ 8 < k → exec (.restartReset k) s = .next s) ∧
    (1 ≤ k → k ≤ 8 → ∃ t, t.sys.mode = .boot ∧ t.sys.resetCause = k ∧ t.sys.domains = 0x07 ∧ t.sys.wdCount = (if k = 4 then min 15 (s.sys.wdCount + 1) else s.sys.wdCount) ∧
      t.wb.lease = .none ∧ t.wb.fenced = true ∧ t.wb.flushMarker = s.wb.flushMarker ∧ t.rtc = { s.rtc with lostPend := none } ∧ (s.rtc.lostPend.isSome = true → t.isPending 106 = true) ∧ t.hq = {} ∧ t.regs = s.regs.filter (fun p => keptReg p.1) ∧
      t.tb = { s.tb with alarms := List.replicate 32 {}, latches := [], lowWords := [], frames := [], mapHist := [] } ∧
      t.sec = { s.sec with bootFail := false, picked := false, bootSlot := 0, factoryBoot := false, sigFailSeen := false, meas := List.replicate 64 0 } ∧
      t.nvs = { s.nvs with ready := false, scrubbing := false, fixHigh := false, uncorrSeen := false, scrubSlow := false, scrubProg := 0 } ∧
      (k ≠ 4 ∨ s.sys.wdCount < 2 → exec (.restartReset k) s = .next t) ∧
      (k = 4 → 2 ≤ s.sys.wdCount → ∃ u, exec (.restartReset k) s = .next u ∧ u = t.enterQuarantine .bootWatchdog [t.sys.wdCount] ∧ u.sys.mode = .quarantine ∧ u.wb.lease = .none ∧ u.wb.fenced = true)) ∧
    (s.sys.mode = .boot → s.sys.bootStage < 3 → s.sys.bootStop = false → s.sys.stageAt + usTicks 10000000 ≤ s.tb.csr → exec .bootWatchdog s = exec (.restartReset 4) s) ∧
    (s.sys.mode ≠ .boot ∨ 3 ≤ s.sys.bootStage ∨ s.sys.bootStop = true ∨ s.tb.csr < s.sys.stageAt + usTicks 10000000 → exec .bootWatchdog s = .next s) ∧
    (∃ u : State, exec .powerOnReset s = .next u ∧ u.sys.mode = .inserted ∧ u.sys.domains = 1 ∧ u.tb = {} ∧ u.rtc = { lostPend := some false } ∧ u.core = {} ∧ u.hq = {} ∧ u.wb.lease = .none ∧ u.wb.fenced = true ∧ u.regs = [] ∧
      u.nvs = { s.nvs with ready := false, scrubbing := false, fixHigh := false, uncorrSeen := false, scrubSlow := false, scrubProg := 0 })) ∧
  (({} : TbSt).angState = .synth ∧ ({} : TbSt).ptState = .unset ∧ ({} : RtcSt).osf = true) ∧
  (∀ (s : State) (o0 o1 o2 : Bool) (ok : Nat → Bool) (c : Instr), c = .bootStart o0 o1 o2 → ok = (fun i => if i = 0 then o0 else if i = 1 then o1 else o2) →
    (s.sys.mode ≠ .boot ∨ s.sec.picked = true ∨ s.sys.bootStop = true → exec c s = .next s) ∧
    (s.sys.mode = .boot → s.sec.picked = false → s.sys.bootStop = false →
      (∀ t, s.slotWith .trial = some t → (s.boot t).attempted = false → ok t = true → s.sec.svnFloor ≤ (s.boot t).svn → exec c s =
        .next { s with nvs := { s.nvs with slots := updAt s.nvs.slots t fun (b : BootSlot) => { b with attempted := true } }, sec := { s.sec with picked := true, bootSlot := t, factoryBoot := false, meas := List.replicate 64 0 }, upd := { s.upd with trial := true, confirmFrom := none } }) ∧
      (s.slotWith .trial = none → (∀ i, s.slotWith .imago = some i → (ok i = true → s.sec.svnFloor ≤ (s.boot i).svn → exec c s =
          .next { s with sec := { s.sec with picked := true, bootSlot := i, factoryBoot := false, meas := List.replicate 64 0 }, upd := { s.upd with trial := false, confirmFrom := none } }) ∧
          (∀ j, ok i = false ∨ (s.boot i).svn < s.sec.svnFloor → s.slotWith .chrysalis = some j → ok j = true → s.sec.svnFloor ≤ (s.boot j).svn → ∃ u : State,
            Says { s with nvs := { s.nvs with slots := updAt s.nvs.slots i fun (b : BootSlot) => { b with state := .invalid } } } ((if ok i = true then [(.rollbackRefused, [i, (s.boot i).svn])] else []) ++ [(.bootStageFail, [i])]) [] u ∧
            exec c s = .next { u with nvs := { u.nvs with slots := updAt u.nvs.slots j fun (b : BootSlot) => { b with state := .imago } }, sec := { u.sec with picked := true, bootSlot := j, factoryBoot := false, meas := List.replicate 64 0 }, upd := { u.upd with trial := false, confirmFrom := none } })) ∧
        (s.slotWith .imago = none → s.slotWith .chrysalis = none → (s.slotWith .factory = none → ∀ v : State, { s with sys := { s.sys with bootStop := true }, sec := { s.sec with bootFail := true } } = v →
            (s.pwr.ejectReq = false → exec c s = .next v) ∧
            (s.pwr.ejectReq = true → ∃ t, exec c s = .next t ∧ t.sys.mode = .service ∧ t.wb.lease = .none ∧ t.wb.fenced = true)) ∧
          (∀ i, s.slotWith .factory = some i → ok i = true → s.sec.svnFloor ≤ (s.boot i).svn → ∃ u, exec c s = .next u ∧
            Says { s with sec := { s.sec with picked := true, bootSlot := i, factoryBoot := true, meas := List.replicate 64 0 }, upd := { s.upd with trial := false, confirmFrom := none } } [(.bootFactory, [])] [] u))) ∧
      (∀ t i, s.slotWith .trial = some t → (s.boot t).attempted = true → s.slotWith .imago = some i → ok i = true → s.sec.svnFloor ≤ (s.boot i).svn → ∃ u : State,
        Says { s with nvs := { s.nvs with slots := updAt s.nvs.slots t fun (_ : BootSlot) => ({} : BootSlot) }, upd := { s.upd with fellBack := true, trial := false, confirmFrom := none, fallbackPending := false } } [(.updFallback, [t])] [] u ∧
        exec c s = .next { u with sec := { u.sec with picked := true, bootSlot := i, factoryBoot := false, meas := List.replicate 64 0 } }))) ∧
  (∀ (s : State) (n : Nat) (d : List Byte) (x : Stage3) (l : List JEntry) (f : Bool) (k : List Nat) (c : Instr), c = .bootStageVerified n d x l f k →
    (s.sys.mode ≠ .boot ∨ s.sec.picked = false ∨ s.sys.bootStop = true ∨ n ≠ s.sys.bootStage + 1 ∨ 3 < n → exec c s = .next s) ∧
    (s.sys.mode = .boot → s.sec.picked = true → s.sys.bootStop = false → n = s.sys.bootStage + 1 → n ≤ 3 → ∀ v : State,
      v = { s with sys := { s.sys with bootStage := n, stageAt := s.tb.csr }, sec := { s.sec with meas := shake256 64 (s.sec.meas ++ d) } } →
      (s.pwr.ejectReq = true → ∃ t, exec c s = .next t ∧ t.sys.mode = .service ∧ t.wb.lease = .none ∧ t.wb.fenced = true) ∧
      (s.pwr.ejectReq = false → n = 1 → exec c s = .next (if s.upd.trial = true then { v with upd := { v.upd with confirmFrom := some s.tb.csr, healthFrom := s.tb.csr } } else v)) ∧
      (s.pwr.ejectReq = false → n = 2 → ∃ u : State, u = { v with sys := { v.sys with domains := s.sys.domains ||| 0x20 }, out := u.out } ∧ (∃ h, u.out = if u.wbUp = true then s.out ++ [wbOut s (.hello h)] else s.out) ∧
        (s.sec.factoryBoot = false → exec c s = .next u) ∧ (s.sec.factoryBoot = true → ∃ t, exec c s = .next t ∧ t.sys.mode = .service ∧ t.wb.lease = .none ∧ t.wb.fenced = true)) ∧
      (s.pwr.ejectReq = false → n = 3 → (x = .none → ∃ t, exec c s = .next t ∧ t.sys.mode = .service ∧ t.wb.lease = .none ∧ t.wb.fenced = true) ∧
        (x = .bad → ∃ t, exec c s = .next t ∧ t.sys.mode = .quarantine ∧ t.wb.lease = .none ∧ t.wb.fenced = true) ∧
        (∀ g p z e, x = .ok g p z e → ∃ u : State, u.sys.mode = .boot ∧ u.wb = (k.foldl State.lostRecord v).wb ∧
          (u.cfgOk g p = false ∨ (u.applyStage3 g p z e).svcOk = false → ∃ t, exec c s = .next t ∧ t.sys.mode = .quarantine ∧ t.wb.lease = .none ∧ t.wb.fenced = true) ∧
          (u.cfgOk g p = true → (u.applyStage3 g p z e).svcOk = true → exec c s = .next ((u.applyStage3 g p z e).rebuildJournal l (f && u.wb.flushMarker)).startEst))))) ∧
  (∀ (s : State) (l : List JEntry) (f : Bool), (s.rebuildJournal l f).wb.journal = l ∧ (s.rebuildJournal l f).wb.flushMarker = f ∧ (s.rebuildJournal l f).wb.jsn = l.foldl (fun m (e : JEntry) => max m e.jsn) 0 ∧
    (f = false → (s.rebuildJournal l f).isPending 70 = true ∧ ∃ u v : State, Says u [(.guaranteeBroken, u.wb.jsn :: u.streamSeqs)] [70] v ∧ u.wb.journal = l ∧
      u.wb.jsn = (s.rebuildJournal l f).wb.jsn ∧ s.rebuildJournal l f = if journalProgCycle l = none then v.newEpochs else v.newOrdered)) ∧
  (∀ (s : State) (q : Requester) (v : Word) (c : Instr), c ∈ [Instr.sysRestart q v, .sysEnterService q v, .safeHoldExitWarm q v, .safeHoldExitCold q v, .plantStartColdSet q v, .plantStartColdClear q v, .configStop q v] →
    (∀ t, s.writeBarred q (RegName.sysCtrl.addr 0 0) = some t → exec c s = .next t) ∧
    (s.writeBarred q (RegName.sysCtrl.addr 0 0) = none → ∀ k, k = bitsOf v.toNat 0 4 →
      (bitsOf v.toNat 16 16 ≠ 0xA5C3 ∨ k = 0 ∨ 7 < k ∨ (k = 1 ∧ s.sys.mode ≠ .quarantine ∧ s.sys.mode ≠ .service ∧ s.sys.mode ≠ .sync ∧ s.sys.mode ≠ .standby) ∨ (k = 2 ∧ s.sys.mode ≠ .standby) ∨
          ((k = 3 ∨ k = 4) ∧ (s.sys.mode ≠ .safeHold ∨ s.safeCauseHolds = true)) ∨ (k = 7 ∧ s.mayStop = false) →
        ∃ t, exec c s = .next t ∧ Says s [(.writeRefused, [RegName.sysCtrl.addr 0 0, q.code])] [115] t) ∧
      (bitsOf v.toNat 16 16 = 0xA5C3 → (k = 1 → s.sys.mode = .quarantine ∨ s.sys.mode = .service ∨ s.sys.mode = .sync ∨ s.sys.mode = .standby → exec c s = exec (.restartReset 3) s) ∧
        (k = 2 → s.sys.mode = .standby → ∃ t, exec c s = .next t ∧ t.sys.mode = .service ∧ t.wb.lease = .none ∧ t.wb.fenced = true) ∧
        (k = 5 ∨ k = 6 → exec c s = .next { s with sys := { s.sys with cold := decide (k = 5) } }) ∧
        (k = 7 → s.mayStop = true → s.prg.runState = 1 → exec c s = .next { s with sys := { s.sys with stopPend := true } }) ∧
        (k = 7 → s.mayStop = true → s.prg.runState ≠ 1 → ∃ t, exec c s = .next t ∧ t.sys.mode = .service ∧ t.wb.lease = .none ∧ t.wb.fenced = true)))) ∧
  (∀ (s : State) (c : Instr) (y : SysSt), (∃ q v, s.writeBarred q (RegName.sysCtrl.addr 0 0) = none ∧ bitsOf v.toNat 16 16 = 0xA5C3 ∧ s.sys.mode = .safeHold ∧ s.safeCauseHolds = false ∧
        ((c = .safeHoldExitWarm q v ∧ bitsOf v.toNat 0 4 = 3 ∧ y = { s.sys with exitKind := some false }) ∨ (c = .safeHoldExitCold q v ∧ bitsOf v.toNat 0 4 = 4 ∧ y = { s.sys with exitKind := some true }))) ∨
      (c = .peerWaitExpiry ∧ s.sys.mode = .boot ∧ 3 ≤ s.sys.bootStage ∧ s.sys.bootStop = false ∧ s.wb.partner.heard = false ∧ s.sys.starting = false ∧
        s.sys.stageAt + usTicks (s.fld .sysStart 16 10 * 1000000) ≤ s.tb.csr ∧ y = { s.sys with starting := true, starter := true }) ∨
      (s.sys.mode = .cocoon ∧ s.sys.cocoonWoke = true ∧ y = { s.sys with starting := true } ∧ ((c = .cocoonResume true ∧ s.sys.formerHolder = true) ∨ (c = .cocoonRequestTimeout ∧ s.sys.formerHolder = false ∧ s.partnerHolds = false ∧ s.sys.cocoonAt + usTicks 2000000 ≤ s.tb.csr))) →
    ∀ v : State, v = { s with sys := y, wb := { s.wb with fenced := !s.wb.wdAlive } } → (s.wb.probed = false ∨ s.promised = true → exec c s = .next v) ∧
      (s.wb.probed = true → s.promised = false → ∃ u : State, Asks v .request u ∧ exec c s = .next { u with wb := { u.wb with lease := (if s.wb.lease = .none then .request else s.wb.lease) } })) ∧
  (∀ s : State, (s.sys.mode ≠ .boot ∨ s.sys.bootStage < 3 ∨ s.sys.bootStop = true ∨ s.wb.partner.heard = true ∨ s.sys.starting = true ∨ s.tb.csr < s.sys.stageAt + usTicks (s.fld .sysStart 16 10 * 1000000) → exec .peerWaitExpiry s = .next s) ∧
    (s.sys.mode ≠ .cocoon ∨ s.sys.cocoonWoke = false ∨ s.sys.formerHolder = true ∨ s.partnerHolds = true ∨ s.tb.csr < s.sys.cocoonAt + usTicks 2000000 → exec .cocoonRequestTimeout s = .next s) ∧
    (∀ b, s.sys.mode ≠ .cocoon ∨ s.sys.cocoonWoke = false ∨ (b = true ∧ s.sys.formerHolder = false) → exec (.cocoonResume b) s = .next s) ∧
    (s.sys.mode = .cocoon → s.sys.cocoonWoke = true → exec (.cocoonResume false) s = exec (.restartReset 8) s) ∧
    (s.tb.csr < s.sys.faultAt + usTicks 600000000 → exec .faultFlashEnd s = .next s) ∧
    (s.sys.faultAt + usTicks 600000000 ≤ s.tb.csr → exec .faultFlashEnd s = .next { s with sys := { s.sys with faultFlash := false } })) ∧
  (∀ (s : State) (x : Int), (x ≤ 700 → exec (.moduleOvertemp x) s = .next { s with sys := { s.sys with tempInlet := x } }) ∧
    (700 < x → ∃ u : State, Says { s with sys := { s.sys with tempInlet := x } } [(.moduleOvertemp, [unsignedOf 16 x])] [123] u ∧
      (s.sys.mode = .active → s.partnerStandby = true → s.partnerWhole = true → s.wb.ho = .idle → exec (.moduleOvertemp x) s = .next { u with wb := { u.wb with ho := .planned } }) ∧
      (s.sys.mode ≠ .active ∨ s.partnerStandby = false ∨ s.partnerWhole = false ∨ s.wb.ho ≠ .idle → exec (.moduleOvertemp x) s = .next u))) ∧
  (∀ (s : State) (w : WorkRef) (op : Op), s.due w 0x40 op → (op.started = true ∨ (s.sys.mode ≠ .active ∧ s.sys.mode ≠ .solo) → exec (.cocoonEnter w) s = .next s) ∧
    (op.started = false → s.sys.mode = .active ∨ s.sys.mode = .solo → (∀ r, s.cocoonRefusal = some r → exec (.cocoonEnter w) s = .next (s.finish op 0xE00 r)) ∧
      (s.cocoonRefusal = none → ∀ u : State, u = { (s.setOp w fun (o : Op) => { o with started := true }) with sys := { s.sys with cocoonEntering := true, cocoonReq := false, cocoonAt := s.tb.csr } } → exec (.cocoonEnter w) s = .next u.cocoonPlan.cocoonAcked ∧
        (s.est.running = false → s.slk.rings = [] → exec (.cocoonEnter w) s = .next u.cocoonGo)))) ∧
  (∀ (s : State) (x2 x3 x4 x5 : Prop), x2 = (s.prot.set = none) → x3 = (s.prg.stage ≠ 0 ∨ s.upd.work.isSome = true ∨ s.upd.scheduled.isSome = true ∨ s.upd.trial = true ∨ s.wb.drill ≠ .idle) →
    x4 = (∃ e, e ∈ s.est.lastQ ∧ flt (fratio (Int.ofNat (s.fld .estRest 0 16)) 10) (fabs e.2) = true) → x5 = (s.partnerMode = some .sync ∨ s.partnerMode = some .update) →
    (s.cfg.manager = true → s.cocoonRefusal = some 1) ∧ (s.cfg.manager = false → (x2 → s.cocoonRefusal = some 2) ∧ (¬ x2 → x3 → s.cocoonRefusal = some 3) ∧ (¬ x2 → ¬ x3 → x4 → s.cocoonRefusal = some 4) ∧
      (¬ x2 → ¬ x3 → ¬ x4 → x5 → s.cocoonRefusal = some 5) ∧ (¬ x2 → ¬ x3 → ¬ x4 → ¬ x5 → s.cocoonRefusal = none))) ∧
  (∀ s : State, (s.sys.cocoonEntering = false ∨ s.sys.cocoonReq = true ∨ s.holds = false ∨ s.tb.csr < s.sys.cocoonAt + usTicks 60000000 → exec .cocoonPlanTimeout s = .next s) ∧
    (s.sys.cocoonEntering = true → s.sys.cocoonAt + usTicks 60000000 ≤ s.tb.csr → exec .cocoonPlanTimeout s = .next s.cocoonGo) ∧
    (s.sys.cocoonEntering = true → s.sys.cocoonReq = false → s.holds = true → ∀ u : State, u = (match s.hq.work.find? (fun (o : Op) => o.engine == 10 && dOpcode o.bytes == 0x40 && o.started) with | some op => s.finish op stOk 0 | none => s) →
      ∀ v : State, v = (State.checkpoint { u with sys := { u.sys with cocoonReq := true } }).flushLog → (v.partnerStandby = true → s.cocoonGo = v) ∧
        (v.partnerStandby = false → s.cocoonGo = (v.sendRef .release).enterCocoon true ∧ s.cocoonGo.sys.mode = .cocoon ∧ s.cocoonGo.wb.lease = .none)))
end

