-- ==== Sys2Proof/Laws/State.lean ====
section
/-! SUPPORT. What the state's own updates leave as it was: a view of the state that an operation keeps. -/

namespace Sys2Proof.Machine

/-- A view of the state that is the same before and after. -/
def Same {α : Type} (view : State → α) (s t : State) : Prop := view t = view s

/-- A fold of operations that each keep a view keeps it. -/
theorem Same.foldl {α β : Type} {view : State → α} {s t : State} (f : State → β → State) (l : List β)
    (hf : ∀ u x, Same view u (f u x)) (h : Same view s t) : Same view s (l.foldl f t) := by
  induction l generalizing t with
  | nil => exact h
  | cons x xs ih => exact ih ((hf t x).trans h)

end Sys2Proof.Machine
end

