-- ==== Sys2Proof/Laws/Frame/Regs.lean ====
section
/-! SUPPORT. The parts of the state that operations of Machine/Regs.lean leave as they are. -/

namespace Sys2Proof.Machine

theorem State.setReg_same (s : State) (r : RegName) (i j : Nat) (w : Word) :
    Same (fun t => (t.sys, t.pwr, t.tb, t.rtc, t.hq, t.evt, t.wb, t.core, t.dbg, t.prg, t.loop, t.slk, t.est, t.prot, t.dsp, t.dio, t.aio, t.can, t.net, t.nvs, t.log, t.sec, t.upd, t.locks, t.mem, t.cfg, t.resp, t.out, t.freeCtr, t.pending)) s (State.setReg s r i j w) := by
  unfold State.setReg
  (try dsimp only)
  (repeat' split) <;> simp [Same]

@[simp] theorem State.setReg_frame (s : State) (r : RegName) (i j : Nat) (w : Word) :
    (State.setReg s r i j w).sys = s.sys ∧ (State.setReg s r i j w).pwr = s.pwr ∧ (State.setReg s r i j w).tb = s.tb ∧
    (State.setReg s r i j w).rtc = s.rtc ∧ (State.setReg s r i j w).hq = s.hq ∧ (State.setReg s r i j w).evt = s.evt ∧
    (State.setReg s r i j w).wb = s.wb ∧ (State.setReg s r i j w).core = s.core ∧ (State.setReg s r i j w).dbg = s.dbg ∧
    (State.setReg s r i j w).prg = s.prg ∧ (State.setReg s r i j w).loop = s.loop ∧ (State.setReg s r i j w).slk = s.slk ∧
    (State.setReg s r i j w).est = s.est ∧ (State.setReg s r i j w).prot = s.prot ∧ (State.setReg s r i j w).dsp = s.dsp ∧
    (State.setReg s r i j w).dio = s.dio ∧ (State.setReg s r i j w).aio = s.aio ∧ (State.setReg s r i j w).can = s.can ∧
    (State.setReg s r i j w).net = s.net ∧ (State.setReg s r i j w).nvs = s.nvs ∧ (State.setReg s r i j w).log = s.log ∧
    (State.setReg s r i j w).sec = s.sec ∧ (State.setReg s r i j w).upd = s.upd ∧ (State.setReg s r i j w).locks = s.locks ∧
    (State.setReg s r i j w).mem = s.mem ∧ (State.setReg s r i j w).cfg = s.cfg ∧ (State.setReg s r i j w).resp = s.resp ∧
    (State.setReg s r i j w).out = s.out ∧ (State.setReg s r i j w).freeCtr = s.freeCtr ∧
    (State.setReg s r i j w).pending = s.pending := by
  simpa [Same] using State.setReg_same s r i j w

theorem State.setFld_same (s : State) (r : RegName) (i lo width v : Nat) :
    Same (fun t => (t.sys, t.pwr, t.tb, t.rtc, t.hq, t.evt, t.wb, t.core, t.dbg, t.prg, t.loop, t.slk, t.est, t.prot, t.dsp, t.dio, t.aio, t.can, t.net, t.nvs, t.log, t.sec, t.upd, t.locks, t.mem, t.cfg, t.resp, t.out, t.freeCtr, t.pending)) s (State.setFld s r i lo width v) := by
  unfold State.setFld
  (try dsimp only)
  (repeat' split) <;> simp [Same]

@[simp] theorem State.setFld_frame (s : State) (r : RegName) (i lo width v : Nat) :
    (State.setFld s r i lo width v).sys = s.sys ∧ (State.setFld s r i lo width v).pwr = s.pwr ∧
    (State.setFld s r i lo width v).tb = s.tb ∧ (State.setFld s r i lo width v).rtc = s.rtc ∧
    (State.setFld s r i lo width v).hq = s.hq ∧ (State.setFld s r i lo width v).evt = s.evt ∧
    (State.setFld s r i lo width v).wb = s.wb ∧ (State.setFld s r i lo width v).core = s.core ∧
    (State.setFld s r i lo width v).dbg = s.dbg ∧ (State.setFld s r i lo width v).prg = s.prg ∧
    (State.setFld s r i lo width v).loop = s.loop ∧ (State.setFld s r i lo width v).slk = s.slk ∧
    (State.setFld s r i lo width v).est = s.est ∧ (State.setFld s r i lo width v).prot = s.prot ∧
    (State.setFld s r i lo width v).dsp = s.dsp ∧ (State.setFld s r i lo width v).dio = s.dio ∧
    (State.setFld s r i lo width v).aio = s.aio ∧ (State.setFld s r i lo width v).can = s.can ∧
    (State.setFld s r i lo width v).net = s.net ∧ (State.setFld s r i lo width v).nvs = s.nvs ∧
    (State.setFld s r i lo width v).log = s.log ∧ (State.setFld s r i lo width v).sec = s.sec ∧
    (State.setFld s r i lo width v).upd = s.upd ∧ (State.setFld s r i lo width v).locks = s.locks ∧
    (State.setFld s r i lo width v).mem = s.mem ∧ (State.setFld s r i lo width v).cfg = s.cfg ∧
    (State.setFld s r i lo width v).resp = s.resp ∧ (State.setFld s r i lo width v).out = s.out ∧
    (State.setFld s r i lo width v).freeCtr = s.freeCtr ∧ (State.setFld s r i lo width v).pending = s.pending := by
  simpa [Same] using State.setFld_same s r i lo width v

end Sys2Proof.Machine
end

