-- ==== Sys2Proof/Laws/Frame/Ops.lean ====
section
/-! SUPPORT. The parts of the state that operations of Machine/Ops.lean leave as they are. -/

namespace Sys2Proof.Machine

theorem State.useFree_same (s : State) :
    Same (fun t => (t.sys, t.pwr, t.tb, t.rtc, t.hq, t.evt, t.wb, t.core, t.dbg, t.prg, t.loop, t.slk, t.est, t.prot, t.dsp, t.dio, t.aio, t.can, t.net, t.nvs, t.log, t.sec, t.upd, t.locks, t.regs, t.mem, t.cfg, t.resp, t.out, t.pending)) s (State.useFree s) := by
  unfold State.useFree
  (try dsimp only)
  (repeat' split) <;> simp [Same]

@[simp] theorem State.useFree_frame (s : State) :
    (State.useFree s).sys = s.sys ∧ (State.useFree s).pwr = s.pwr ∧ (State.useFree s).tb = s.tb ∧
    (State.useFree s).rtc = s.rtc ∧ (State.useFree s).hq = s.hq ∧ (State.useFree s).evt = s.evt ∧ (State.useFree s).wb = s.wb ∧
    (State.useFree s).core = s.core ∧ (State.useFree s).dbg = s.dbg ∧ (State.useFree s).prg = s.prg ∧
    (State.useFree s).loop = s.loop ∧ (State.useFree s).slk = s.slk ∧ (State.useFree s).est = s.est ∧
    (State.useFree s).prot = s.prot ∧ (State.useFree s).dsp = s.dsp ∧ (State.useFree s).dio = s.dio ∧
    (State.useFree s).aio = s.aio ∧ (State.useFree s).can = s.can ∧ (State.useFree s).net = s.net ∧
    (State.useFree s).nvs = s.nvs ∧ (State.useFree s).log = s.log ∧ (State.useFree s).sec = s.sec ∧
    (State.useFree s).upd = s.upd ∧ (State.useFree s).locks = s.locks ∧ (State.useFree s).regs = s.regs ∧
    (State.useFree s).mem = s.mem ∧ (State.useFree s).cfg = s.cfg ∧ (State.useFree s).resp = s.resp ∧
    (State.useFree s).out = s.out ∧ (State.useFree s).pending = s.pending := by
  simpa [Same] using State.useFree_same s

theorem State.emit_same (s : State) (o : Out) :
    Same (fun t => (t.sys, t.pwr, t.tb, t.rtc, t.hq, t.evt, t.wb, t.core, t.dbg, t.prg, t.loop, t.slk, t.est, t.prot, t.dsp, t.dio, t.aio, t.can, t.net, t.nvs, t.log, t.sec, t.upd, t.locks, t.regs, t.mem, t.cfg, t.resp, t.freeCtr, t.pending)) s (State.emit s o) := by
  unfold State.emit
  (try dsimp only)
  (repeat' split) <;> simp [Same]

@[simp] theorem State.emit_frame (s : State) (o : Out) :
    (State.emit s o).sys = s.sys ∧ (State.emit s o).pwr = s.pwr ∧ (State.emit s o).tb = s.tb ∧ (State.emit s o).rtc = s.rtc ∧
    (State.emit s o).hq = s.hq ∧ (State.emit s o).evt = s.evt ∧ (State.emit s o).wb = s.wb ∧ (State.emit s o).core = s.core ∧
    (State.emit s o).dbg = s.dbg ∧ (State.emit s o).prg = s.prg ∧ (State.emit s o).loop = s.loop ∧
    (State.emit s o).slk = s.slk ∧ (State.emit s o).est = s.est ∧ (State.emit s o).prot = s.prot ∧
    (State.emit s o).dsp = s.dsp ∧ (State.emit s o).dio = s.dio ∧ (State.emit s o).aio = s.aio ∧ (State.emit s o).can = s.can ∧
    (State.emit s o).net = s.net ∧ (State.emit s o).nvs = s.nvs ∧ (State.emit s o).log = s.log ∧ (State.emit s o).sec = s.sec ∧
    (State.emit s o).upd = s.upd ∧ (State.emit s o).locks = s.locks ∧ (State.emit s o).regs = s.regs ∧
    (State.emit s o).mem = s.mem ∧ (State.emit s o).cfg = s.cfg ∧ (State.emit s o).resp = s.resp ∧
    (State.emit s o).freeCtr = s.freeCtr ∧ (State.emit s o).pending = s.pending := by
  simpa [Same] using State.emit_same s o

theorem State.deliver_same (s : State) (src : Nat) :
    Same (fun t => (t.sys, t.pwr, t.tb, t.rtc, t.hq, t.wb, t.core, t.dbg, t.prg, t.loop, t.slk, t.est, t.prot, t.dsp, t.dio, t.aio, t.can, t.net, t.nvs, t.log, t.sec, t.upd, t.locks, t.regs, t.mem, t.cfg, t.resp, t.freeCtr, t.pending)) s (State.deliver s src) := by
  unfold State.deliver
  (try dsimp only)
  (repeat' split) <;> simp [Same]

@[simp] theorem State.deliver_frame (s : State) (src : Nat) :
    (State.deliver s src).sys = s.sys ∧ (State.deliver s src).pwr = s.pwr ∧ (State.deliver s src).tb = s.tb ∧
    (State.deliver s src).rtc = s.rtc ∧ (State.deliver s src).hq = s.hq ∧ (State.deliver s src).wb = s.wb ∧
    (State.deliver s src).core = s.core ∧ (State.deliver s src).dbg = s.dbg ∧ (State.deliver s src).prg = s.prg ∧
    (State.deliver s src).loop = s.loop ∧ (State.deliver s src).slk = s.slk ∧ (State.deliver s src).est = s.est ∧
    (State.deliver s src).prot = s.prot ∧ (State.deliver s src).dsp = s.dsp ∧ (State.deliver s src).dio = s.dio ∧
    (State.deliver s src).aio = s.aio ∧ (State.deliver s src).can = s.can ∧ (State.deliver s src).net = s.net ∧
    (State.deliver s src).nvs = s.nvs ∧ (State.deliver s src).log = s.log ∧ (State.deliver s src).sec = s.sec ∧
    (State.deliver s src).upd = s.upd ∧ (State.deliver s src).locks = s.locks ∧ (State.deliver s src).regs = s.regs ∧
    (State.deliver s src).mem = s.mem ∧ (State.deliver s src).cfg = s.cfg ∧ (State.deliver s src).resp = s.resp ∧
    (State.deliver s src).freeCtr = s.freeCtr ∧ (State.deliver s src).pending = s.pending := by
  simpa [Same] using State.deliver_same s src

theorem State.raise_same (s : State) (src : Nat) :
    Same (fun t => (t.sys, t.pwr, t.tb, t.rtc, t.hq, t.wb, t.core, t.dbg, t.prg, t.loop, t.slk, t.est, t.prot, t.dsp, t.dio, t.aio, t.can, t.net, t.nvs, t.log, t.sec, t.upd, t.locks, t.regs, t.mem, t.cfg, t.resp, t.freeCtr, t.pending)) s (State.raise s src) := by
  unfold State.raise
  (try dsimp only)
  (repeat' split) <;> simp [Same]

@[simp] theorem State.raise_frame (s : State) (src : Nat) :
    (State.raise s src).sys = s.sys ∧ (State.raise s src).pwr = s.pwr ∧ (State.raise s src).tb = s.tb ∧
    (State.raise s src).rtc = s.rtc ∧ (State.raise s src).hq = s.hq ∧ (State.raise s src).wb = s.wb ∧
    (State.raise s src).core = s.core ∧ (State.raise s src).dbg = s.dbg ∧ (State.raise s src).prg = s.prg ∧
    (State.raise s src).loop = s.loop ∧ (State.raise s src).slk = s.slk ∧ (State.raise s src).est = s.est ∧
    (State.raise s src).prot = s.prot ∧ (State.raise s src).dsp = s.dsp ∧ (State.raise s src).dio = s.dio ∧
    (State.raise s src).aio = s.aio ∧ (State.raise s src).can = s.can ∧ (State.raise s src).net = s.net ∧
    (State.raise s src).nvs = s.nvs ∧ (State.raise s src).log = s.log ∧ (State.raise s src).sec = s.sec ∧
    (State.raise s src).upd = s.upd ∧ (State.raise s src).locks = s.locks ∧ (State.raise s src).regs = s.regs ∧
    (State.raise s src).mem = s.mem ∧ (State.raise s src).cfg = s.cfg ∧ (State.raise s src).resp = s.resp ∧
    (State.raise s src).freeCtr = s.freeCtr ∧ (State.raise s src).pending = s.pending := by
  simpa [Same] using State.raise_same s src

theorem State.liveCopy_same (s : State) (r : Rec) :
    Same (fun t => (t.sys, t.pwr, t.tb, t.rtc, t.hq, t.evt, t.wb, t.core, t.dbg, t.prg, t.loop, t.slk, t.est, t.prot, t.dsp, t.dio, t.aio, t.can, t.net, t.nvs, t.sec, t.upd, t.locks, t.regs, t.cfg, t.resp, t.out, t.freeCtr, t.pending)) s (State.liveCopy s r) := by
  unfold State.liveCopy
  (try dsimp only)
  (repeat' split) <;> simp [Same]

@[simp] theorem State.liveCopy_frame (s : State) (r : Rec) :
    (State.liveCopy s r).sys = s.sys ∧ (State.liveCopy s r).pwr = s.pwr ∧ (State.liveCopy s r).tb = s.tb ∧
    (State.liveCopy s r).rtc = s.rtc ∧ (State.liveCopy s r).hq = s.hq ∧ (State.liveCopy s r).evt = s.evt ∧
    (State.liveCopy s r).wb = s.wb ∧ (State.liveCopy s r).core = s.core ∧ (State.liveCopy s r).dbg = s.dbg ∧
    (State.liveCopy s r).prg = s.prg ∧ (State.liveCopy s r).loop = s.loop ∧ (State.liveCopy s r).slk = s.slk ∧
    (State.liveCopy s r).est = s.est ∧ (State.liveCopy s r).prot = s.prot ∧ (State.liveCopy s r).dsp = s.dsp ∧
    (State.liveCopy s r).dio = s.dio ∧ (State.liveCopy s r).aio = s.aio ∧ (State.liveCopy s r).can = s.can ∧
    (State.liveCopy s r).net = s.net ∧ (State.liveCopy s r).nvs = s.nvs ∧ (State.liveCopy s r).sec = s.sec ∧
    (State.liveCopy s r).upd = s.upd ∧ (State.liveCopy s r).locks = s.locks ∧ (State.liveCopy s r).regs = s.regs ∧
    (State.liveCopy s r).cfg = s.cfg ∧ (State.liveCopy s r).resp = s.resp ∧ (State.liveCopy s r).out = s.out ∧
    (State.liveCopy s r).freeCtr = s.freeCtr ∧ (State.liveCopy s r).pending = s.pending := by
  simpa [Same] using State.liveCopy_same s r

theorem State.lightFault_same (s : State) (sev : Nat) :
    Same (fun t => (t.pwr, t.tb, t.rtc, t.hq, t.evt, t.wb, t.core, t.dbg, t.prg, t.loop, t.slk, t.est, t.prot, t.dsp, t.dio, t.aio, t.can, t.net, t.nvs, t.log, t.sec, t.upd, t.locks, t.regs, t.mem, t.cfg, t.resp, t.out, t.freeCtr, t.pending)) s (State.lightFault s sev) := by
  unfold State.lightFault
  (try dsimp only)
  (repeat' split) <;> simp [Same]

@[simp] theorem State.lightFault_frame (s : State) (sev : Nat) :
    (State.lightFault s sev).pwr = s.pwr ∧ (State.lightFault s sev).tb = s.tb ∧ (State.lightFault s sev).rtc = s.rtc ∧
    (State.lightFault s sev).hq = s.hq ∧ (State.lightFault s sev).evt = s.evt ∧ (State.lightFault s sev).wb = s.wb ∧
    (State.lightFault s sev).core = s.core ∧ (State.lightFault s sev).dbg = s.dbg ∧ (State.lightFault s sev).prg = s.prg ∧
    (State.lightFault s sev).loop = s.loop ∧ (State.lightFault s sev).slk = s.slk ∧ (State.lightFault s sev).est = s.est ∧
    (State.lightFault s sev).prot = s.prot ∧ (State.lightFault s sev).dsp = s.dsp ∧ (State.lightFault s sev).dio = s.dio ∧
    (State.lightFault s sev).aio = s.aio ∧ (State.lightFault s sev).can = s.can ∧ (State.lightFault s sev).net = s.net ∧
    (State.lightFault s sev).nvs = s.nvs ∧ (State.lightFault s sev).log = s.log ∧ (State.lightFault s sev).sec = s.sec ∧
    (State.lightFault s sev).upd = s.upd ∧ (State.lightFault s sev).locks = s.locks ∧ (State.lightFault s sev).regs = s.regs ∧
    (State.lightFault s sev).mem = s.mem ∧ (State.lightFault s sev).cfg = s.cfg ∧ (State.lightFault s sev).resp = s.resp ∧
    (State.lightFault s sev).out = s.out ∧ (State.lightFault s sev).freeCtr = s.freeCtr ∧
    (State.lightFault s sev).pending = s.pending := by
  simpa [Same] using State.lightFault_same s sev

theorem State.setLog_same (s : State) (l : LogSt) :
    Same (fun t => (t.sys, t.pwr, t.tb, t.rtc, t.hq, t.evt, t.wb, t.core, t.dbg, t.prg, t.loop, t.slk, t.est, t.prot, t.dsp, t.dio, t.aio, t.can, t.net, t.nvs, t.sec, t.upd, t.locks, t.regs, t.mem, t.cfg, t.resp, t.out, t.freeCtr, t.pending)) s (State.setLog s l) := by
  unfold State.setLog
  (try dsimp only)
  (repeat' split) <;> simp [Same]

@[simp] theorem State.setLog_frame (s : State) (l : LogSt) :
    (State.setLog s l).sys = s.sys ∧ (State.setLog s l).pwr = s.pwr ∧ (State.setLog s l).tb = s.tb ∧
    (State.setLog s l).rtc = s.rtc ∧ (State.setLog s l).hq = s.hq ∧ (State.setLog s l).evt = s.evt ∧
    (State.setLog s l).wb = s.wb ∧ (State.setLog s l).core = s.core ∧ (State.setLog s l).dbg = s.dbg ∧
    (State.setLog s l).prg = s.prg ∧ (State.setLog s l).loop = s.loop ∧ (State.setLog s l).slk = s.slk ∧
    (State.setLog s l).est = s.est ∧ (State.setLog s l).prot = s.prot ∧ (State.setLog s l).dsp = s.dsp ∧
    (State.setLog s l).dio = s.dio ∧ (State.setLog s l).aio = s.aio ∧ (State.setLog s l).can = s.can ∧
    (State.setLog s l).net = s.net ∧ (State.setLog s l).nvs = s.nvs ∧ (State.setLog s l).sec = s.sec ∧
    (State.setLog s l).upd = s.upd ∧ (State.setLog s l).locks = s.locks ∧ (State.setLog s l).regs = s.regs ∧
    (State.setLog s l).mem = s.mem ∧ (State.setLog s l).cfg = s.cfg ∧ (State.setLog s l).resp = s.resp ∧
    (State.setLog s l).out = s.out ∧ (State.setLog s l).freeCtr = s.freeCtr ∧ (State.setLog s l).pending = s.pending := by
  simpa [Same] using State.setLog_same s l

theorem State.addRec_same (s : State) (r : Rec) :
    Same (fun t => (t.pwr, t.tb, t.rtc, t.hq, t.evt, t.wb, t.core, t.dbg, t.prg, t.loop, t.slk, t.est, t.prot, t.dsp, t.dio, t.aio, t.can, t.net, t.nvs, t.sec, t.upd, t.locks, t.regs, t.cfg, t.resp, t.out, t.freeCtr, t.pending)) s (State.addRec s r) := by
  unfold State.addRec
  (try dsimp only)
  (repeat' split) <;> simp [Same]

@[simp] theorem State.addRec_frame (s : State) (r : Rec) :
    (State.addRec s r).pwr = s.pwr ∧ (State.addRec s r).tb = s.tb ∧ (State.addRec s r).rtc = s.rtc ∧
    (State.addRec s r).hq = s.hq ∧ (State.addRec s r).evt = s.evt ∧ (State.addRec s r).wb = s.wb ∧
    (State.addRec s r).core = s.core ∧ (State.addRec s r).dbg = s.dbg ∧ (State.addRec s r).prg = s.prg ∧
    (State.addRec s r).loop = s.loop ∧ (State.addRec s r).slk = s.slk ∧ (State.addRec s r).est = s.est ∧
    (State.addRec s r).prot = s.prot ∧ (State.addRec s r).dsp = s.dsp ∧ (State.addRec s r).dio = s.dio ∧
    (State.addRec s r).aio = s.aio ∧ (State.addRec s r).can = s.can ∧ (State.addRec s r).net = s.net ∧
    (State.addRec s r).nvs = s.nvs ∧ (State.addRec s r).sec = s.sec ∧ (State.addRec s r).upd = s.upd ∧
    (State.addRec s r).locks = s.locks ∧ (State.addRec s r).regs = s.regs ∧ (State.addRec s r).cfg = s.cfg ∧
    (State.addRec s r).resp = s.resp ∧ (State.addRec s r).out = s.out ∧ (State.addRec s r).freeCtr = s.freeCtr ∧
    (State.addRec s r).pending = s.pending := by
  simpa [Same] using State.addRec_same s r

theorem State.recordAt_same (s : State) (n : RecName) (args : List Nat) (status : Nat) :
    Same (fun t => (t.pwr, t.tb, t.rtc, t.hq, t.evt, t.wb, t.core, t.dbg, t.prg, t.loop, t.slk, t.est, t.prot, t.dsp, t.dio, t.aio, t.can, t.net, t.nvs, t.sec, t.upd, t.locks, t.regs, t.cfg, t.resp, t.out, t.freeCtr, t.pending)) s (State.recordAt s n args status) := by
  unfold State.recordAt
  (try dsimp only)
  (repeat' split) <;> simp [Same]

@[simp] theorem State.recordAt_frame (s : State) (n : RecName) (args : List Nat) (status : Nat) :
    (State.recordAt s n args status).pwr = s.pwr ∧ (State.recordAt s n args status).tb = s.tb ∧
    (State.recordAt s n args status).rtc = s.rtc ∧ (State.recordAt s n args status).hq = s.hq ∧
    (State.recordAt s n args status).evt = s.evt ∧ (State.recordAt s n args status).wb = s.wb ∧
    (State.recordAt s n args status).core = s.core ∧ (State.recordAt s n args status).dbg = s.dbg ∧
    (State.recordAt s n args status).prg = s.prg ∧ (State.recordAt s n args status).loop = s.loop ∧
    (State.recordAt s n args status).slk = s.slk ∧ (State.recordAt s n args status).est = s.est ∧
    (State.recordAt s n args status).prot = s.prot ∧ (State.recordAt s n args status).dsp = s.dsp ∧
    (State.recordAt s n args status).dio = s.dio ∧ (State.recordAt s n args status).aio = s.aio ∧
    (State.recordAt s n args status).can = s.can ∧ (State.recordAt s n args status).net = s.net ∧
    (State.recordAt s n args status).nvs = s.nvs ∧ (State.recordAt s n args status).sec = s.sec ∧
    (State.recordAt s n args status).upd = s.upd ∧ (State.recordAt s n args status).locks = s.locks ∧
    (State.recordAt s n args status).regs = s.regs ∧ (State.recordAt s n args status).cfg = s.cfg ∧
    (State.recordAt s n args status).resp = s.resp ∧ (State.recordAt s n args status).out = s.out ∧
    (State.recordAt s n args status).freeCtr = s.freeCtr ∧ (State.recordAt s n args status).pending = s.pending := by
  simpa [Same] using State.recordAt_same s n args status

theorem State.record_same (s : State) (n : RecName) (args : List Nat) :
    Same (fun t => (t.pwr, t.tb, t.rtc, t.hq, t.evt, t.wb, t.core, t.dbg, t.prg, t.loop, t.slk, t.est, t.prot, t.dsp, t.dio, t.aio, t.can, t.net, t.nvs, t.sec, t.upd, t.locks, t.regs, t.cfg, t.resp, t.out, t.freeCtr, t.pending)) s (State.record s n args) := by
  unfold State.record
  (try dsimp only)
  (repeat' split) <;> simp [Same]

@[simp] theorem State.record_frame (s : State) (n : RecName) (args : List Nat) :
    (State.record s n args).pwr = s.pwr ∧ (State.record s n args).tb = s.tb ∧ (State.record s n args).rtc = s.rtc ∧
    (State.record s n args).hq = s.hq ∧ (State.record s n args).evt = s.evt ∧ (State.record s n args).wb = s.wb ∧
    (State.record s n args).core = s.core ∧ (State.record s n args).dbg = s.dbg ∧ (State.record s n args).prg = s.prg ∧
    (State.record s n args).loop = s.loop ∧ (State.record s n args).slk = s.slk ∧ (State.record s n args).est = s.est ∧
    (State.record s n args).prot = s.prot ∧ (State.record s n args).dsp = s.dsp ∧ (State.record s n args).dio = s.dio ∧
    (State.record s n args).aio = s.aio ∧ (State.record s n args).can = s.can ∧ (State.record s n args).net = s.net ∧
    (State.record s n args).nvs = s.nvs ∧ (State.record s n args).sec = s.sec ∧ (State.record s n args).upd = s.upd ∧
    (State.record s n args).locks = s.locks ∧ (State.record s n args).regs = s.regs ∧ (State.record s n args).cfg = s.cfg ∧
    (State.record s n args).resp = s.resp ∧ (State.record s n args).out = s.out ∧ (State.record s n args).freeCtr = s.freeCtr ∧
    (State.record s n args).pending = s.pending := by
  simpa [Same] using State.record_same s n args

theorem State.givenRec_same (s : State) (code sev source : Nat) (body : List Byte) (ang : Nat) (pt : PlantTime) :
    Same (fun t => (t.pwr, t.tb, t.rtc, t.hq, t.evt, t.wb, t.core, t.dbg, t.prg, t.loop, t.slk, t.est, t.prot, t.dsp, t.dio, t.aio, t.can, t.net, t.nvs, t.sec, t.upd, t.locks, t.regs, t.cfg, t.resp, t.out, t.freeCtr, t.pending)) s (State.givenRec s code sev source body ang pt) := by
  unfold State.givenRec
  (try dsimp only)
  (repeat' split) <;> simp [Same]

@[simp] theorem State.givenRec_frame (s : State) (code sev source : Nat) (body : List Byte) (ang : Nat) (pt : PlantTime) :
    (State.givenRec s code sev source body ang pt).pwr = s.pwr ∧ (State.givenRec s code sev source body ang pt).tb = s.tb ∧
    (State.givenRec s code sev source body ang pt).rtc = s.rtc ∧ (State.givenRec s code sev source body ang pt).hq = s.hq ∧
    (State.givenRec s code sev source body ang pt).evt = s.evt ∧ (State.givenRec s code sev source body ang pt).wb = s.wb ∧
    (State.givenRec s code sev source body ang pt).core = s.core ∧ (State.givenRec s code sev source body ang pt).dbg = s.dbg ∧
    (State.givenRec s code sev source body ang pt).prg = s.prg ∧ (State.givenRec s code sev source body ang pt).loop = s.loop ∧
    (State.givenRec s code sev source body ang pt).slk = s.slk ∧ (State.givenRec s code sev source body ang pt).est = s.est ∧
    (State.givenRec s code sev source body ang pt).prot = s.prot ∧ (State.givenRec s code sev source body ang pt).dsp = s.dsp ∧
    (State.givenRec s code sev source body ang pt).dio = s.dio ∧ (State.givenRec s code sev source body ang pt).aio = s.aio ∧
    (State.givenRec s code sev source body ang pt).can = s.can ∧ (State.givenRec s code sev source body ang pt).net = s.net ∧
    (State.givenRec s code sev source body ang pt).nvs = s.nvs ∧ (State.givenRec s code sev source body ang pt).sec = s.sec ∧
    (State.givenRec s code sev source body ang pt).upd = s.upd ∧
    (State.givenRec s code sev source body ang pt).locks = s.locks ∧
    (State.givenRec s code sev source body ang pt).regs = s.regs ∧ (State.givenRec s code sev source body ang pt).cfg = s.cfg ∧
    (State.givenRec s code sev source body ang pt).resp = s.resp ∧ (State.givenRec s code sev source body ang pt).out = s.out ∧
    (State.givenRec s code sev source body ang pt).freeCtr = s.freeCtr ∧
    (State.givenRec s code sev source body ang pt).pending = s.pending := by
  simpa [Same] using State.givenRec_same s code sev source body ang pt

theorem State.flushLog_same (s : State) :
    Same (fun t => (t.pwr, t.tb, t.rtc, t.hq, t.wb, t.core, t.dbg, t.prg, t.loop, t.slk, t.est, t.prot, t.dsp, t.dio, t.aio, t.can, t.net, t.nvs, t.sec, t.upd, t.locks, t.regs, t.cfg, t.resp, t.freeCtr, t.pending)) s (State.flushLog s) := by
  unfold State.flushLog
  (try dsimp only)
  repeat' first | (with_reducible refine Same.foldl _ _ (fun u x => ?_) ?_) | split
  all_goals simp [Same]

@[simp] theorem State.flushLog_frame (s : State) :
    (State.flushLog s).pwr = s.pwr ∧ (State.flushLog s).tb = s.tb ∧ (State.flushLog s).rtc = s.rtc ∧
    (State.flushLog s).hq = s.hq ∧ (State.flushLog s).wb = s.wb ∧ (State.flushLog s).core = s.core ∧
    (State.flushLog s).dbg = s.dbg ∧ (State.flushLog s).prg = s.prg ∧ (State.flushLog s).loop = s.loop ∧
    (State.flushLog s).slk = s.slk ∧ (State.flushLog s).est = s.est ∧ (State.flushLog s).prot = s.prot ∧
    (State.flushLog s).dsp = s.dsp ∧ (State.flushLog s).dio = s.dio ∧ (State.flushLog s).aio = s.aio ∧
    (State.flushLog s).can = s.can ∧ (State.flushLog s).net = s.net ∧ (State.flushLog s).nvs = s.nvs ∧
    (State.flushLog s).sec = s.sec ∧ (State.flushLog s).upd = s.upd ∧ (State.flushLog s).locks = s.locks ∧
    (State.flushLog s).regs = s.regs ∧ (State.flushLog s).cfg = s.cfg ∧ (State.flushLog s).resp = s.resp ∧
    (State.flushLog s).freeCtr = s.freeCtr ∧ (State.flushLog s).pending = s.pending := by
  simpa [Same] using State.flushLog_same s

theorem State.flushAll_same (s : State) :
    Same (fun t => (t.pwr, t.tb, t.rtc, t.hq, t.wb, t.core, t.dbg, t.prg, t.loop, t.slk, t.est, t.prot, t.dsp, t.dio, t.aio, t.can, t.net, t.nvs, t.sec, t.upd, t.locks, t.regs, t.cfg, t.resp, t.freeCtr, t.pending)) s (State.flushAll s) := by
  unfold State.flushAll
  (try dsimp only)
  (repeat' split) <;> simp [Same]

@[simp] theorem State.flushAll_frame (s : State) :
    (State.flushAll s).pwr = s.pwr ∧ (State.flushAll s).tb = s.tb ∧ (State.flushAll s).rtc = s.rtc ∧
    (State.flushAll s).hq = s.hq ∧ (State.flushAll s).wb = s.wb ∧ (State.flushAll s).core = s.core ∧
    (State.flushAll s).dbg = s.dbg ∧ (State.flushAll s).prg = s.prg ∧ (State.flushAll s).loop = s.loop ∧
    (State.flushAll s).slk = s.slk ∧ (State.flushAll s).est = s.est ∧ (State.flushAll s).prot = s.prot ∧
    (State.flushAll s).dsp = s.dsp ∧ (State.flushAll s).dio = s.dio ∧ (State.flushAll s).aio = s.aio ∧
    (State.flushAll s).can = s.can ∧ (State.flushAll s).net = s.net ∧ (State.flushAll s).nvs = s.nvs ∧
    (State.flushAll s).sec = s.sec ∧ (State.flushAll s).upd = s.upd ∧ (State.flushAll s).locks = s.locks ∧
    (State.flushAll s).regs = s.regs ∧ (State.flushAll s).cfg = s.cfg ∧ (State.flushAll s).resp = s.resp ∧
    (State.flushAll s).freeCtr = s.freeCtr ∧ (State.flushAll s).pending = s.pending := by
  simpa [Same] using State.flushAll_same s

theorem State.refuseWrite_same (s : State) (q : Requester) (addr : Nat) :
    Same (fun t => (t.pwr, t.tb, t.rtc, t.hq, t.wb, t.core, t.dbg, t.prg, t.loop, t.slk, t.est, t.prot, t.dsp, t.dio, t.aio, t.can, t.net, t.nvs, t.sec, t.upd, t.locks, t.regs, t.cfg, t.resp, t.freeCtr, t.pending)) s (State.refuseWrite s q addr) := by
  unfold State.refuseWrite
  (try dsimp only)
  (repeat' split) <;> simp [Same]

@[simp] theorem State.refuseWrite_frame (s : State) (q : Requester) (addr : Nat) :
    (State.refuseWrite s q addr).pwr = s.pwr ∧ (State.refuseWrite s q addr).tb = s.tb ∧
    (State.refuseWrite s q addr).rtc = s.rtc ∧ (State.refuseWrite s q addr).hq = s.hq ∧ (State.refuseWrite s q addr).wb = s.wb ∧
    (State.refuseWrite s q addr).core = s.core ∧ (State.refuseWrite s q addr).dbg = s.dbg ∧
    (State.refuseWrite s q addr).prg = s.prg ∧ (State.refuseWrite s q addr).loop = s.loop ∧
    (State.refuseWrite s q addr).slk = s.slk ∧ (State.refuseWrite s q addr).est = s.est ∧
    (State.refuseWrite s q addr).prot = s.prot ∧ (State.refuseWrite s q addr).dsp = s.dsp ∧
    (State.refuseWrite s q addr).dio = s.dio ∧ (State.refuseWrite s q addr).aio = s.aio ∧
    (State.refuseWrite s q addr).can = s.can ∧ (State.refuseWrite s q addr).net = s.net ∧
    (State.refuseWrite s q addr).nvs = s.nvs ∧ (State.refuseWrite s q addr).sec = s.sec ∧
    (State.refuseWrite s q addr).upd = s.upd ∧ (State.refuseWrite s q addr).locks = s.locks ∧
    (State.refuseWrite s q addr).regs = s.regs ∧ (State.refuseWrite s q addr).cfg = s.cfg ∧
    (State.refuseWrite s q addr).resp = s.resp ∧ (State.refuseWrite s q addr).freeCtr = s.freeCtr ∧
    (State.refuseWrite s q addr).pending = s.pending := by
  simpa [Same] using State.refuseWrite_same s q addr

theorem State.denyDebug_same (s : State) (addr : Nat) :
    Same (fun t => (t.pwr, t.tb, t.rtc, t.hq, t.wb, t.core, t.prg, t.loop, t.slk, t.est, t.prot, t.dsp, t.dio, t.aio, t.can, t.net, t.nvs, t.sec, t.upd, t.locks, t.regs, t.cfg, t.resp, t.freeCtr, t.pending)) s (State.denyDebug s addr) := by
  unfold State.denyDebug
  (try dsimp only)
  (repeat' split) <;> simp [Same]

@[simp] theorem State.denyDebug_frame (s : State) (addr : Nat) :
    (State.denyDebug s addr).pwr = s.pwr ∧ (State.denyDebug s addr).tb = s.tb ∧ (State.denyDebug s addr).rtc = s.rtc ∧
    (State.denyDebug s addr).hq = s.hq ∧ (State.denyDebug s addr).wb = s.wb ∧ (State.denyDebug s addr).core = s.core ∧
    (State.denyDebug s addr).prg = s.prg ∧ (State.denyDebug s addr).loop = s.loop ∧ (State.denyDebug s addr).slk = s.slk ∧
    (State.denyDebug s addr).est = s.est ∧ (State.denyDebug s addr).prot = s.prot ∧ (State.denyDebug s addr).dsp = s.dsp ∧
    (State.denyDebug s addr).dio = s.dio ∧ (State.denyDebug s addr).aio = s.aio ∧ (State.denyDebug s addr).can = s.can ∧
    (State.denyDebug s addr).net = s.net ∧ (State.denyDebug s addr).nvs = s.nvs ∧ (State.denyDebug s addr).sec = s.sec ∧
    (State.denyDebug s addr).upd = s.upd ∧ (State.denyDebug s addr).locks = s.locks ∧ (State.denyDebug s addr).regs = s.regs ∧
    (State.denyDebug s addr).cfg = s.cfg ∧ (State.denyDebug s addr).resp = s.resp ∧
    (State.denyDebug s addr).freeCtr = s.freeCtr ∧ (State.denyDebug s addr).pending = s.pending := by
  simpa [Same] using State.denyDebug_same s addr

theorem State.answer_same (s : State) (q : Requester) (v : Nat) :
    Same (fun t => (t.sys, t.pwr, t.tb, t.rtc, t.hq, t.evt, t.wb, t.core, t.dbg, t.prg, t.loop, t.slk, t.est, t.prot, t.dsp, t.dio, t.aio, t.can, t.net, t.nvs, t.log, t.sec, t.upd, t.locks, t.regs, t.mem, t.cfg, t.out, t.freeCtr, t.pending)) s (State.answer s q v) := by
  unfold State.answer
  (try dsimp only)
  (repeat' split) <;> simp [Same]

@[simp] theorem State.answer_frame (s : State) (q : Requester) (v : Nat) :
    (State.answer s q v).sys = s.sys ∧ (State.answer s q v).pwr = s.pwr ∧ (State.answer s q v).tb = s.tb ∧
    (State.answer s q v).rtc = s.rtc ∧ (State.answer s q v).hq = s.hq ∧ (State.answer s q v).evt = s.evt ∧
    (State.answer s q v).wb = s.wb ∧ (State.answer s q v).core = s.core ∧ (State.answer s q v).dbg = s.dbg ∧
    (State.answer s q v).prg = s.prg ∧ (State.answer s q v).loop = s.loop ∧ (State.answer s q v).slk = s.slk ∧
    (State.answer s q v).est = s.est ∧ (State.answer s q v).prot = s.prot ∧ (State.answer s q v).dsp = s.dsp ∧
    (State.answer s q v).dio = s.dio ∧ (State.answer s q v).aio = s.aio ∧ (State.answer s q v).can = s.can ∧
    (State.answer s q v).net = s.net ∧ (State.answer s q v).nvs = s.nvs ∧ (State.answer s q v).log = s.log ∧
    (State.answer s q v).sec = s.sec ∧ (State.answer s q v).upd = s.upd ∧ (State.answer s q v).locks = s.locks ∧
    (State.answer s q v).regs = s.regs ∧ (State.answer s q v).mem = s.mem ∧ (State.answer s q v).cfg = s.cfg ∧
    (State.answer s q v).out = s.out ∧ (State.answer s q v).freeCtr = s.freeCtr ∧ (State.answer s q v).pending = s.pending := by
  simpa [Same] using State.answer_same s q v

theorem State.answerErr_same (s : State) (q : Requester) (e : BusErr) :
    Same (fun t => (t.sys, t.pwr, t.tb, t.rtc, t.hq, t.evt, t.wb, t.core, t.dbg, t.prg, t.loop, t.slk, t.est, t.prot, t.dsp, t.dio, t.aio, t.can, t.net, t.nvs, t.log, t.sec, t.upd, t.locks, t.regs, t.mem, t.cfg, t.out, t.freeCtr, t.pending)) s (State.answerErr s q e) := by
  unfold State.answerErr
  (try dsimp only)
  (repeat' split) <;> simp [Same]

@[simp] theorem State.answerErr_frame (s : State) (q : Requester) (e : BusErr) :
    (State.answerErr s q e).sys = s.sys ∧ (State.answerErr s q e).pwr = s.pwr ∧ (State.answerErr s q e).tb = s.tb ∧
    (State.answerErr s q e).rtc = s.rtc ∧ (State.answerErr s q e).hq = s.hq ∧ (State.answerErr s q e).evt = s.evt ∧
    (State.answerErr s q e).wb = s.wb ∧ (State.answerErr s q e).core = s.core ∧ (State.answerErr s q e).dbg = s.dbg ∧
    (State.answerErr s q e).prg = s.prg ∧ (State.answerErr s q e).loop = s.loop ∧ (State.answerErr s q e).slk = s.slk ∧
    (State.answerErr s q e).est = s.est ∧ (State.answerErr s q e).prot = s.prot ∧ (State.answerErr s q e).dsp = s.dsp ∧
    (State.answerErr s q e).dio = s.dio ∧ (State.answerErr s q e).aio = s.aio ∧ (State.answerErr s q e).can = s.can ∧
    (State.answerErr s q e).net = s.net ∧ (State.answerErr s q e).nvs = s.nvs ∧ (State.answerErr s q e).log = s.log ∧
    (State.answerErr s q e).sec = s.sec ∧ (State.answerErr s q e).upd = s.upd ∧ (State.answerErr s q e).locks = s.locks ∧
    (State.answerErr s q e).regs = s.regs ∧ (State.answerErr s q e).mem = s.mem ∧ (State.answerErr s q e).cfg = s.cfg ∧
    (State.answerErr s q e).out = s.out ∧ (State.answerErr s q e).freeCtr = s.freeCtr ∧
    (State.answerErr s q e).pending = s.pending := by
  simpa [Same] using State.answerErr_same s q e

theorem State.refence_same (s : State) :
    Same (fun t => (t.sys, t.pwr, t.tb, t.rtc, t.hq, t.evt, t.core, t.dbg, t.prg, t.loop, t.slk, t.est, t.prot, t.dsp, t.dio, t.aio, t.can, t.net, t.nvs, t.log, t.sec, t.upd, t.locks, t.regs, t.mem, t.cfg, t.resp, t.out, t.freeCtr, t.pending)) s (State.refence s) := by
  unfold State.refence
  (try dsimp only)
  (repeat' split) <;> simp [Same]

@[simp] theorem State.refence_frame (s : State) :
    (State.refence s).sys = s.sys ∧ (State.refence s).pwr = s.pwr ∧ (State.refence s).tb = s.tb ∧
    (State.refence s).rtc = s.rtc ∧ (State.refence s).hq = s.hq ∧ (State.refence s).evt = s.evt ∧
    (State.refence s).core = s.core ∧ (State.refence s).dbg = s.dbg ∧ (State.refence s).prg = s.prg ∧
    (State.refence s).loop = s.loop ∧ (State.refence s).slk = s.slk ∧ (State.refence s).est = s.est ∧
    (State.refence s).prot = s.prot ∧ (State.refence s).dsp = s.dsp ∧ (State.refence s).dio = s.dio ∧
    (State.refence s).aio = s.aio ∧ (State.refence s).can = s.can ∧ (State.refence s).net = s.net ∧
    (State.refence s).nvs = s.nvs ∧ (State.refence s).log = s.log ∧ (State.refence s).sec = s.sec ∧
    (State.refence s).upd = s.upd ∧ (State.refence s).locks = s.locks ∧ (State.refence s).regs = s.regs ∧
    (State.refence s).mem = s.mem ∧ (State.refence s).cfg = s.cfg ∧ (State.refence s).resp = s.resp ∧
    (State.refence s).out = s.out ∧ (State.refence s).freeCtr = s.freeCtr ∧ (State.refence s).pending = s.pending := by
  simpa [Same] using State.refence_same s

theorem State.sendRef_same (s : State) (t : RefType) :
    Same (fun t => (t.sys, t.pwr, t.tb, t.rtc, t.hq, t.evt, t.core, t.dbg, t.prg, t.loop, t.slk, t.est, t.prot, t.dsp, t.dio, t.aio, t.can, t.net, t.nvs, t.log, t.sec, t.upd, t.locks, t.regs, t.mem, t.cfg, t.resp, t.freeCtr, t.pending)) s (State.sendRef s t) := by
  unfold State.sendRef
  (try dsimp only)
  (repeat' split) <;> simp [Same]

@[simp] theorem State.sendRef_frame (s : State) (t : RefType) :
    (State.sendRef s t).sys = s.sys ∧ (State.sendRef s t).pwr = s.pwr ∧ (State.sendRef s t).tb = s.tb ∧
    (State.sendRef s t).rtc = s.rtc ∧ (State.sendRef s t).hq = s.hq ∧ (State.sendRef s t).evt = s.evt ∧
    (State.sendRef s t).core = s.core ∧ (State.sendRef s t).dbg = s.dbg ∧ (State.sendRef s t).prg = s.prg ∧
    (State.sendRef s t).loop = s.loop ∧ (State.sendRef s t).slk = s.slk ∧ (State.sendRef s t).est = s.est ∧
    (State.sendRef s t).prot = s.prot ∧ (State.sendRef s t).dsp = s.dsp ∧ (State.sendRef s t).dio = s.dio ∧
    (State.sendRef s t).aio = s.aio ∧ (State.sendRef s t).can = s.can ∧ (State.sendRef s t).net = s.net ∧
    (State.sendRef s t).nvs = s.nvs ∧ (State.sendRef s t).log = s.log ∧ (State.sendRef s t).sec = s.sec ∧
    (State.sendRef s t).upd = s.upd ∧ (State.sendRef s t).locks = s.locks ∧ (State.sendRef s t).regs = s.regs ∧
    (State.sendRef s t).mem = s.mem ∧ (State.sendRef s t).cfg = s.cfg ∧ (State.sendRef s t).resp = s.resp ∧
    (State.sendRef s t).freeCtr = s.freeCtr ∧ (State.sendRef s t).pending = s.pending := by
  simpa [Same] using State.sendRef_same s t

theorem State.dropFence_same (s : State) :
    Same (fun t => (t.sys, t.pwr, t.tb, t.rtc, t.hq, t.evt, t.core, t.dbg, t.prg, t.loop, t.slk, t.est, t.prot, t.dsp, t.dio, t.aio, t.can, t.net, t.nvs, t.log, t.sec, t.upd, t.locks, t.regs, t.mem, t.cfg, t.resp, t.freeCtr, t.pending)) s (State.dropFence s) := by
  unfold State.dropFence
  (try dsimp only)
  (repeat' split) <;> simp [Same]

@[simp] theorem State.dropFence_frame (s : State) :
    (State.dropFence s).sys = s.sys ∧ (State.dropFence s).pwr = s.pwr ∧ (State.dropFence s).tb = s.tb ∧
    (State.dropFence s).rtc = s.rtc ∧ (State.dropFence s).hq = s.hq ∧ (State.dropFence s).evt = s.evt ∧
    (State.dropFence s).core = s.core ∧ (State.dropFence s).dbg = s.dbg ∧ (State.dropFence s).prg = s.prg ∧
    (State.dropFence s).loop = s.loop ∧ (State.dropFence s).slk = s.slk ∧ (State.dropFence s).est = s.est ∧
    (State.dropFence s).prot = s.prot ∧ (State.dropFence s).dsp = s.dsp ∧ (State.dropFence s).dio = s.dio ∧
    (State.dropFence s).aio = s.aio ∧ (State.dropFence s).can = s.can ∧ (State.dropFence s).net = s.net ∧
    (State.dropFence s).nvs = s.nvs ∧ (State.dropFence s).log = s.log ∧ (State.dropFence s).sec = s.sec ∧
    (State.dropFence s).upd = s.upd ∧ (State.dropFence s).locks = s.locks ∧ (State.dropFence s).regs = s.regs ∧
    (State.dropFence s).mem = s.mem ∧ (State.dropFence s).cfg = s.cfg ∧ (State.dropFence s).resp = s.resp ∧
    (State.dropFence s).freeCtr = s.freeCtr ∧ (State.dropFence s).pending = s.pending := by
  simpa [Same] using State.dropFence_same s

theorem State.sendWb_same (s : State) (m : WbMsg) :
    Same (fun t => (t.sys, t.pwr, t.tb, t.rtc, t.hq, t.evt, t.wb, t.core, t.dbg, t.prg, t.loop, t.slk, t.est, t.prot, t.dsp, t.dio, t.aio, t.can, t.net, t.nvs, t.log, t.sec, t.upd, t.locks, t.regs, t.mem, t.cfg, t.resp, t.freeCtr, t.pending)) s (State.sendWb s m) := by
  unfold State.sendWb
  (try dsimp only)
  (repeat' split) <;> simp [Same]

@[simp] theorem State.sendWb_frame (s : State) (m : WbMsg) :
    (State.sendWb s m).sys = s.sys ∧ (State.sendWb s m).pwr = s.pwr ∧ (State.sendWb s m).tb = s.tb ∧
    (State.sendWb s m).rtc = s.rtc ∧ (State.sendWb s m).hq = s.hq ∧ (State.sendWb s m).evt = s.evt ∧
    (State.sendWb s m).wb = s.wb ∧ (State.sendWb s m).core = s.core ∧ (State.sendWb s m).dbg = s.dbg ∧
    (State.sendWb s m).prg = s.prg ∧ (State.sendWb s m).loop = s.loop ∧ (State.sendWb s m).slk = s.slk ∧
    (State.sendWb s m).est = s.est ∧ (State.sendWb s m).prot = s.prot ∧ (State.sendWb s m).dsp = s.dsp ∧
    (State.sendWb s m).dio = s.dio ∧ (State.sendWb s m).aio = s.aio ∧ (State.sendWb s m).can = s.can ∧
    (State.sendWb s m).net = s.net ∧ (State.sendWb s m).nvs = s.nvs ∧ (State.sendWb s m).log = s.log ∧
    (State.sendWb s m).sec = s.sec ∧ (State.sendWb s m).upd = s.upd ∧ (State.sendWb s m).locks = s.locks ∧
    (State.sendWb s m).regs = s.regs ∧ (State.sendWb s m).mem = s.mem ∧ (State.sendWb s m).cfg = s.cfg ∧
    (State.sendWb s m).resp = s.resp ∧ (State.sendWb s m).freeCtr = s.freeCtr ∧ (State.sendWb s m).pending = s.pending := by
  simpa [Same] using State.sendWb_same s m

theorem State.seeGen_same (s : State) (g : Nat) :
    Same (fun t => (t.sys, t.pwr, t.tb, t.rtc, t.hq, t.evt, t.core, t.dbg, t.prg, t.loop, t.slk, t.est, t.prot, t.dsp, t.dio, t.aio, t.can, t.net, t.nvs, t.log, t.sec, t.upd, t.locks, t.regs, t.mem, t.cfg, t.resp, t.out, t.freeCtr, t.pending)) s (State.seeGen s g) := by
  unfold State.seeGen
  (try dsimp only)
  (repeat' split) <;> simp [Same]

@[simp] theorem State.seeGen_frame (s : State) (g : Nat) :
    (State.seeGen s g).sys = s.sys ∧ (State.seeGen s g).pwr = s.pwr ∧ (State.seeGen s g).tb = s.tb ∧
    (State.seeGen s g).rtc = s.rtc ∧ (State.seeGen s g).hq = s.hq ∧ (State.seeGen s g).evt = s.evt ∧
    (State.seeGen s g).core = s.core ∧ (State.seeGen s g).dbg = s.dbg ∧ (State.seeGen s g).prg = s.prg ∧
    (State.seeGen s g).loop = s.loop ∧ (State.seeGen s g).slk = s.slk ∧ (State.seeGen s g).est = s.est ∧
    (State.seeGen s g).prot = s.prot ∧ (State.seeGen s g).dsp = s.dsp ∧ (State.seeGen s g).dio = s.dio ∧
    (State.seeGen s g).aio = s.aio ∧ (State.seeGen s g).can = s.can ∧ (State.seeGen s g).net = s.net ∧
    (State.seeGen s g).nvs = s.nvs ∧ (State.seeGen s g).log = s.log ∧ (State.seeGen s g).sec = s.sec ∧
    (State.seeGen s g).upd = s.upd ∧ (State.seeGen s g).locks = s.locks ∧ (State.seeGen s g).regs = s.regs ∧
    (State.seeGen s g).mem = s.mem ∧ (State.seeGen s g).cfg = s.cfg ∧ (State.seeGen s g).resp = s.resp ∧
    (State.seeGen s g).out = s.out ∧ (State.seeGen s g).freeCtr = s.freeCtr ∧ (State.seeGen s g).pending = s.pending := by
  simpa [Same] using State.seeGen_same s g

theorem State.closeLocks_same (s : State) :
    Same (fun t => (t.sys, t.pwr, t.tb, t.rtc, t.hq, t.evt, t.wb, t.core, t.dbg, t.prg, t.loop, t.slk, t.est, t.prot, t.dsp, t.dio, t.aio, t.can, t.net, t.nvs, t.log, t.sec, t.upd, t.regs, t.mem, t.cfg, t.resp, t.out, t.freeCtr, t.pending)) s (State.closeLocks s) := by
  unfold State.closeLocks
  (try dsimp only)
  (repeat' split) <;> simp [Same]

@[simp] theorem State.closeLocks_frame (s : State) :
    (State.closeLocks s).sys = s.sys ∧ (State.closeLocks s).pwr = s.pwr ∧ (State.closeLocks s).tb = s.tb ∧
    (State.closeLocks s).rtc = s.rtc ∧ (State.closeLocks s).hq = s.hq ∧ (State.closeLocks s).evt = s.evt ∧
    (State.closeLocks s).wb = s.wb ∧ (State.closeLocks s).core = s.core ∧ (State.closeLocks s).dbg = s.dbg ∧
    (State.closeLocks s).prg = s.prg ∧ (State.closeLocks s).loop = s.loop ∧ (State.closeLocks s).slk = s.slk ∧
    (State.closeLocks s).est = s.est ∧ (State.closeLocks s).prot = s.prot ∧ (State.closeLocks s).dsp = s.dsp ∧
    (State.closeLocks s).dio = s.dio ∧ (State.closeLocks s).aio = s.aio ∧ (State.closeLocks s).can = s.can ∧
    (State.closeLocks s).net = s.net ∧ (State.closeLocks s).nvs = s.nvs ∧ (State.closeLocks s).log = s.log ∧
    (State.closeLocks s).sec = s.sec ∧ (State.closeLocks s).upd = s.upd ∧ (State.closeLocks s).regs = s.regs ∧
    (State.closeLocks s).mem = s.mem ∧ (State.closeLocks s).cfg = s.cfg ∧ (State.closeLocks s).resp = s.resp ∧
    (State.closeLocks s).out = s.out ∧ (State.closeLocks s).freeCtr = s.freeCtr ∧ (State.closeLocks s).pending = s.pending := by
  simpa [Same] using State.closeLocks_same s

theorem State.setDoSt_same (s : State) (n : Nat) (f : DoSt → DoSt) :
    Same (fun t => (t.sys, t.pwr, t.tb, t.rtc, t.hq, t.evt, t.wb, t.core, t.dbg, t.prg, t.loop, t.slk, t.est, t.prot, t.dsp, t.aio, t.can, t.net, t.nvs, t.log, t.sec, t.upd, t.locks, t.regs, t.mem, t.cfg, t.resp, t.out, t.freeCtr, t.pending)) s (State.setDoSt s n f) := by
  unfold State.setDoSt
  (try dsimp only)
  (repeat' split) <;> simp [Same]

@[simp] theorem State.setDoSt_frame (s : State) (n : Nat) (f : DoSt → DoSt) :
    (State.setDoSt s n f).sys = s.sys ∧ (State.setDoSt s n f).pwr = s.pwr ∧ (State.setDoSt s n f).tb = s.tb ∧
    (State.setDoSt s n f).rtc = s.rtc ∧ (State.setDoSt s n f).hq = s.hq ∧ (State.setDoSt s n f).evt = s.evt ∧
    (State.setDoSt s n f).wb = s.wb ∧ (State.setDoSt s n f).core = s.core ∧ (State.setDoSt s n f).dbg = s.dbg ∧
    (State.setDoSt s n f).prg = s.prg ∧ (State.setDoSt s n f).loop = s.loop ∧ (State.setDoSt s n f).slk = s.slk ∧
    (State.setDoSt s n f).est = s.est ∧ (State.setDoSt s n f).prot = s.prot ∧ (State.setDoSt s n f).dsp = s.dsp ∧
    (State.setDoSt s n f).aio = s.aio ∧ (State.setDoSt s n f).can = s.can ∧ (State.setDoSt s n f).net = s.net ∧
    (State.setDoSt s n f).nvs = s.nvs ∧ (State.setDoSt s n f).log = s.log ∧ (State.setDoSt s n f).sec = s.sec ∧
    (State.setDoSt s n f).upd = s.upd ∧ (State.setDoSt s n f).locks = s.locks ∧ (State.setDoSt s n f).regs = s.regs ∧
    (State.setDoSt s n f).mem = s.mem ∧ (State.setDoSt s n f).cfg = s.cfg ∧ (State.setDoSt s n f).resp = s.resp ∧
    (State.setDoSt s n f).out = s.out ∧ (State.setDoSt s n f).freeCtr = s.freeCtr ∧ (State.setDoSt s n f).pending = s.pending := by
  simpa [Same] using State.setDoSt_same s n f

theorem State.setAoSt_same (s : State) (n : Nat) (f : AoSt → AoSt) :
    Same (fun t => (t.sys, t.pwr, t.tb, t.rtc, t.hq, t.evt, t.wb, t.core, t.dbg, t.prg, t.loop, t.slk, t.est, t.prot, t.dsp, t.dio, t.can, t.net, t.nvs, t.log, t.sec, t.upd, t.locks, t.regs, t.mem, t.cfg, t.resp, t.out, t.freeCtr, t.pending)) s (State.setAoSt s n f) := by
  unfold State.setAoSt
  (try dsimp only)
  (repeat' split) <;> simp [Same]

@[simp] theorem State.setAoSt_frame (s : State) (n : Nat) (f : AoSt → AoSt) :
    (State.setAoSt s n f).sys = s.sys ∧ (State.setAoSt s n f).pwr = s.pwr ∧ (State.setAoSt s n f).tb = s.tb ∧
    (State.setAoSt s n f).rtc = s.rtc ∧ (State.setAoSt s n f).hq = s.hq ∧ (State.setAoSt s n f).evt = s.evt ∧
    (State.setAoSt s n f).wb = s.wb ∧ (State.setAoSt s n f).core = s.core ∧ (State.setAoSt s n f).dbg = s.dbg ∧
    (State.setAoSt s n f).prg = s.prg ∧ (State.setAoSt s n f).loop = s.loop ∧ (State.setAoSt s n f).slk = s.slk ∧
    (State.setAoSt s n f).est = s.est ∧ (State.setAoSt s n f).prot = s.prot ∧ (State.setAoSt s n f).dsp = s.dsp ∧
    (State.setAoSt s n f).dio = s.dio ∧ (State.setAoSt s n f).can = s.can ∧ (State.setAoSt s n f).net = s.net ∧
    (State.setAoSt s n f).nvs = s.nvs ∧ (State.setAoSt s n f).log = s.log ∧ (State.setAoSt s n f).sec = s.sec ∧
    (State.setAoSt s n f).upd = s.upd ∧ (State.setAoSt s n f).locks = s.locks ∧ (State.setAoSt s n f).regs = s.regs ∧
    (State.setAoSt s n f).mem = s.mem ∧ (State.setAoSt s n f).cfg = s.cfg ∧ (State.setAoSt s n f).resp = s.resp ∧
    (State.setAoSt s n f).out = s.out ∧ (State.setAoSt s n f).freeCtr = s.freeCtr ∧ (State.setAoSt s n f).pending = s.pending := by
  simpa [Same] using State.setAoSt_same s n f

theorem State.setDo_same (s : State) (n : Nat) (on : Bool) :
    Same (fun t => (t.sys, t.pwr, t.tb, t.rtc, t.hq, t.evt, t.wb, t.core, t.dbg, t.prg, t.loop, t.slk, t.est, t.prot, t.dsp, t.aio, t.can, t.net, t.nvs, t.log, t.sec, t.upd, t.locks, t.regs, t.mem, t.cfg, t.resp, t.out, t.freeCtr, t.pending)) s (State.setDo s n on) := by
  unfold State.setDo
  (try dsimp only)
  (repeat' split) <;> simp [Same]

@[simp] theorem State.setDo_frame (s : State) (n : Nat) (on : Bool) :
    (State.setDo s n on).sys = s.sys ∧ (State.setDo s n on).pwr = s.pwr ∧ (State.setDo s n on).tb = s.tb ∧
    (State.setDo s n on).rtc = s.rtc ∧ (State.setDo s n on).hq = s.hq ∧ (State.setDo s n on).evt = s.evt ∧
    (State.setDo s n on).wb = s.wb ∧ (State.setDo s n on).core = s.core ∧ (State.setDo s n on).dbg = s.dbg ∧
    (State.setDo s n on).prg = s.prg ∧ (State.setDo s n on).loop = s.loop ∧ (State.setDo s n on).slk = s.slk ∧
    (State.setDo s n on).est = s.est ∧ (State.setDo s n on).prot = s.prot ∧ (State.setDo s n on).dsp = s.dsp ∧
    (State.setDo s n on).aio = s.aio ∧ (State.setDo s n on).can = s.can ∧ (State.setDo s n on).net = s.net ∧
    (State.setDo s n on).nvs = s.nvs ∧ (State.setDo s n on).log = s.log ∧ (State.setDo s n on).sec = s.sec ∧
    (State.setDo s n on).upd = s.upd ∧ (State.setDo s n on).locks = s.locks ∧ (State.setDo s n on).regs = s.regs ∧
    (State.setDo s n on).mem = s.mem ∧ (State.setDo s n on).cfg = s.cfg ∧ (State.setDo s n on).resp = s.resp ∧
    (State.setDo s n on).out = s.out ∧ (State.setDo s n on).freeCtr = s.freeCtr ∧ (State.setDo s n on).pending = s.pending := by
  simpa [Same] using State.setDo_same s n on

theorem State.setAo_same (s : State) (n : Nat) (fromLoop : Bool) (v : F32) (fail : Bool) :
    Same (fun t => (t.sys, t.pwr, t.tb, t.rtc, t.hq, t.evt, t.wb, t.core, t.dbg, t.prg, t.loop, t.slk, t.est, t.prot, t.dsp, t.dio, t.can, t.net, t.nvs, t.log, t.sec, t.upd, t.locks, t.regs, t.mem, t.cfg, t.resp, t.out, t.freeCtr, t.pending)) s (State.setAo s n fromLoop v fail) := by
  unfold State.setAo
  (try dsimp only)
  (repeat' split) <;> simp [Same]

@[simp] theorem State.setAo_frame (s : State) (n : Nat) (fromLoop : Bool) (v : F32) (fail : Bool) :
    (State.setAo s n fromLoop v fail).sys = s.sys ∧ (State.setAo s n fromLoop v fail).pwr = s.pwr ∧
    (State.setAo s n fromLoop v fail).tb = s.tb ∧ (State.setAo s n fromLoop v fail).rtc = s.rtc ∧
    (State.setAo s n fromLoop v fail).hq = s.hq ∧ (State.setAo s n fromLoop v fail).evt = s.evt ∧
    (State.setAo s n fromLoop v fail).wb = s.wb ∧ (State.setAo s n fromLoop v fail).core = s.core ∧
    (State.setAo s n fromLoop v fail).dbg = s.dbg ∧ (State.setAo s n fromLoop v fail).prg = s.prg ∧
    (State.setAo s n fromLoop v fail).loop = s.loop ∧ (State.setAo s n fromLoop v fail).slk = s.slk ∧
    (State.setAo s n fromLoop v fail).est = s.est ∧ (State.setAo s n fromLoop v fail).prot = s.prot ∧
    (State.setAo s n fromLoop v fail).dsp = s.dsp ∧ (State.setAo s n fromLoop v fail).dio = s.dio ∧
    (State.setAo s n fromLoop v fail).can = s.can ∧ (State.setAo s n fromLoop v fail).net = s.net ∧
    (State.setAo s n fromLoop v fail).nvs = s.nvs ∧ (State.setAo s n fromLoop v fail).log = s.log ∧
    (State.setAo s n fromLoop v fail).sec = s.sec ∧ (State.setAo s n fromLoop v fail).upd = s.upd ∧
    (State.setAo s n fromLoop v fail).locks = s.locks ∧ (State.setAo s n fromLoop v fail).regs = s.regs ∧
    (State.setAo s n fromLoop v fail).mem = s.mem ∧ (State.setAo s n fromLoop v fail).cfg = s.cfg ∧
    (State.setAo s n fromLoop v fail).resp = s.resp ∧ (State.setAo s n fromLoop v fail).out = s.out ∧
    (State.setAo s n fromLoop v fail).freeCtr = s.freeCtr ∧ (State.setAo s n fromLoop v fail).pending = s.pending := by
  simpa [Same] using State.setAo_same s n fromLoop v fail

theorem State.safeDo_same (s : State) (n : Nat) :
    Same (fun t => (t.sys, t.pwr, t.tb, t.rtc, t.hq, t.evt, t.wb, t.core, t.dbg, t.prg, t.loop, t.slk, t.est, t.prot, t.dsp, t.aio, t.can, t.net, t.nvs, t.log, t.sec, t.upd, t.locks, t.regs, t.mem, t.cfg, t.resp, t.out, t.freeCtr, t.pending)) s (State.safeDo s n) := by
  unfold State.safeDo
  (try dsimp only)
  (repeat' split) <;> simp [Same]

@[simp] theorem State.safeDo_frame (s : State) (n : Nat) :
    (State.safeDo s n).sys = s.sys ∧ (State.safeDo s n).pwr = s.pwr ∧ (State.safeDo s n).tb = s.tb ∧
    (State.safeDo s n).rtc = s.rtc ∧ (State.safeDo s n).hq = s.hq ∧ (State.safeDo s n).evt = s.evt ∧
    (State.safeDo s n).wb = s.wb ∧ (State.safeDo s n).core = s.core ∧ (State.safeDo s n).dbg = s.dbg ∧
    (State.safeDo s n).prg = s.prg ∧ (State.safeDo s n).loop = s.loop ∧ (State.safeDo s n).slk = s.slk ∧
    (State.safeDo s n).est = s.est ∧ (State.safeDo s n).prot = s.prot ∧ (State.safeDo s n).dsp = s.dsp ∧
    (State.safeDo s n).aio = s.aio ∧ (State.safeDo s n).can = s.can ∧ (State.safeDo s n).net = s.net ∧
    (State.safeDo s n).nvs = s.nvs ∧ (State.safeDo s n).log = s.log ∧ (State.safeDo s n).sec = s.sec ∧
    (State.safeDo s n).upd = s.upd ∧ (State.safeDo s n).locks = s.locks ∧ (State.safeDo s n).regs = s.regs ∧
    (State.safeDo s n).mem = s.mem ∧ (State.safeDo s n).cfg = s.cfg ∧ (State.safeDo s n).resp = s.resp ∧
    (State.safeDo s n).out = s.out ∧ (State.safeDo s n).freeCtr = s.freeCtr ∧ (State.safeDo s n).pending = s.pending := by
  simpa [Same] using State.safeDo_same s n

theorem State.safeAo_same (s : State) (n : Nat) :
    Same (fun t => (t.sys, t.pwr, t.tb, t.rtc, t.hq, t.evt, t.wb, t.core, t.dbg, t.prg, t.loop, t.slk, t.est, t.prot, t.dsp, t.dio, t.can, t.net, t.nvs, t.log, t.sec, t.upd, t.locks, t.regs, t.mem, t.cfg, t.resp, t.out, t.freeCtr, t.pending)) s (State.safeAo s n) := by
  unfold State.safeAo
  (try dsimp only)
  (repeat' split) <;> simp [Same]

@[simp] theorem State.safeAo_frame (s : State) (n : Nat) :
    (State.safeAo s n).sys = s.sys ∧ (State.safeAo s n).pwr = s.pwr ∧ (State.safeAo s n).tb = s.tb ∧
    (State.safeAo s n).rtc = s.rtc ∧ (State.safeAo s n).hq = s.hq ∧ (State.safeAo s n).evt = s.evt ∧
    (State.safeAo s n).wb = s.wb ∧ (State.safeAo s n).core = s.core ∧ (State.safeAo s n).dbg = s.dbg ∧
    (State.safeAo s n).prg = s.prg ∧ (State.safeAo s n).loop = s.loop ∧ (State.safeAo s n).slk = s.slk ∧
    (State.safeAo s n).est = s.est ∧ (State.safeAo s n).prot = s.prot ∧ (State.safeAo s n).dsp = s.dsp ∧
    (State.safeAo s n).dio = s.dio ∧ (State.safeAo s n).can = s.can ∧ (State.safeAo s n).net = s.net ∧
    (State.safeAo s n).nvs = s.nvs ∧ (State.safeAo s n).log = s.log ∧ (State.safeAo s n).sec = s.sec ∧
    (State.safeAo s n).upd = s.upd ∧ (State.safeAo s n).locks = s.locks ∧ (State.safeAo s n).regs = s.regs ∧
    (State.safeAo s n).mem = s.mem ∧ (State.safeAo s n).cfg = s.cfg ∧ (State.safeAo s n).resp = s.resp ∧
    (State.safeAo s n).out = s.out ∧ (State.safeAo s n).freeCtr = s.freeCtr ∧ (State.safeAo s n).pending = s.pending := by
  simpa [Same] using State.safeAo_same s n

theorem State.driveSafe_same (s : State) :
    Same (fun t => (t.sys, t.pwr, t.tb, t.rtc, t.hq, t.evt, t.wb, t.core, t.dbg, t.prg, t.loop, t.slk, t.est, t.prot, t.dsp, t.can, t.net, t.nvs, t.log, t.sec, t.upd, t.locks, t.regs, t.mem, t.cfg, t.resp, t.out, t.freeCtr, t.pending)) s (State.driveSafe s) := by
  unfold State.driveSafe
  (try dsimp only)
  repeat' first | (with_reducible refine Same.foldl _ _ (fun u x => ?_) ?_) | split
  all_goals simp [Same]

@[simp] theorem State.driveSafe_frame (s : State) :
    (State.driveSafe s).sys = s.sys ∧ (State.driveSafe s).pwr = s.pwr ∧ (State.driveSafe s).tb = s.tb ∧
    (State.driveSafe s).rtc = s.rtc ∧ (State.driveSafe s).hq = s.hq ∧ (State.driveSafe s).evt = s.evt ∧
    (State.driveSafe s).wb = s.wb ∧ (State.driveSafe s).core = s.core ∧ (State.driveSafe s).dbg = s.dbg ∧
    (State.driveSafe s).prg = s.prg ∧ (State.driveSafe s).loop = s.loop ∧ (State.driveSafe s).slk = s.slk ∧
    (State.driveSafe s).est = s.est ∧ (State.driveSafe s).prot = s.prot ∧ (State.driveSafe s).dsp = s.dsp ∧
    (State.driveSafe s).can = s.can ∧ (State.driveSafe s).net = s.net ∧ (State.driveSafe s).nvs = s.nvs ∧
    (State.driveSafe s).log = s.log ∧ (State.driveSafe s).sec = s.sec ∧ (State.driveSafe s).upd = s.upd ∧
    (State.driveSafe s).locks = s.locks ∧ (State.driveSafe s).regs = s.regs ∧ (State.driveSafe s).mem = s.mem ∧
    (State.driveSafe s).cfg = s.cfg ∧ (State.driveSafe s).resp = s.resp ∧ (State.driveSafe s).out = s.out ∧
    (State.driveSafe s).freeCtr = s.freeCtr ∧ (State.driveSafe s).pending = s.pending := by
  simpa [Same] using State.driveSafe_same s

theorem State.fieldMode_same (s : State) (m : Mode) :
    Same (fun t => (t.sys, t.pwr, t.tb, t.rtc, t.hq, t.evt, t.wb, t.core, t.dbg, t.prg, t.loop, t.slk, t.est, t.prot, t.dsp, t.can, t.net, t.nvs, t.log, t.sec, t.upd, t.locks, t.regs, t.mem, t.cfg, t.resp, t.out, t.freeCtr, t.pending)) s (State.fieldMode s m) := by
  unfold State.fieldMode
  (try dsimp only)
  (repeat' split) <;> simp [Same]

@[simp] theorem State.fieldMode_frame (s : State) (m : Mode) :
    (State.fieldMode s m).sys = s.sys ∧ (State.fieldMode s m).pwr = s.pwr ∧ (State.fieldMode s m).tb = s.tb ∧
    (State.fieldMode s m).rtc = s.rtc ∧ (State.fieldMode s m).hq = s.hq ∧ (State.fieldMode s m).evt = s.evt ∧
    (State.fieldMode s m).wb = s.wb ∧ (State.fieldMode s m).core = s.core ∧ (State.fieldMode s m).dbg = s.dbg ∧
    (State.fieldMode s m).prg = s.prg ∧ (State.fieldMode s m).loop = s.loop ∧ (State.fieldMode s m).slk = s.slk ∧
    (State.fieldMode s m).est = s.est ∧ (State.fieldMode s m).prot = s.prot ∧ (State.fieldMode s m).dsp = s.dsp ∧
    (State.fieldMode s m).can = s.can ∧ (State.fieldMode s m).net = s.net ∧ (State.fieldMode s m).nvs = s.nvs ∧
    (State.fieldMode s m).log = s.log ∧ (State.fieldMode s m).sec = s.sec ∧ (State.fieldMode s m).upd = s.upd ∧
    (State.fieldMode s m).locks = s.locks ∧ (State.fieldMode s m).regs = s.regs ∧ (State.fieldMode s m).mem = s.mem ∧
    (State.fieldMode s m).cfg = s.cfg ∧ (State.fieldMode s m).resp = s.resp ∧ (State.fieldMode s m).out = s.out ∧
    (State.fieldMode s m).freeCtr = s.freeCtr ∧ (State.fieldMode s m).pending = s.pending := by
  simpa [Same] using State.fieldMode_same s m

theorem State.ringMode_same (s : State) (m : Mode) :
    Same (fun t => (t.sys, t.pwr, t.tb, t.rtc, t.hq, t.evt, t.wb, t.core, t.dbg, t.prg, t.loop, t.est, t.prot, t.dsp, t.dio, t.aio, t.can, t.net, t.nvs, t.log, t.sec, t.upd, t.locks, t.regs, t.mem, t.cfg, t.resp, t.out, t.freeCtr, t.pending)) s (State.ringMode s m) := by
  unfold State.ringMode
  (try dsimp only)
  (repeat' split) <;> simp [Same]

@[simp] theorem State.ringMode_frame (s : State) (m : Mode) :
    (State.ringMode s m).sys = s.sys ∧ (State.ringMode s m).pwr = s.pwr ∧ (State.ringMode s m).tb = s.tb ∧
    (State.ringMode s m).rtc = s.rtc ∧ (State.ringMode s m).hq = s.hq ∧ (State.ringMode s m).evt = s.evt ∧
    (State.ringMode s m).wb = s.wb ∧ (State.ringMode s m).core = s.core ∧ (State.ringMode s m).dbg = s.dbg ∧
    (State.ringMode s m).prg = s.prg ∧ (State.ringMode s m).loop = s.loop ∧ (State.ringMode s m).est = s.est ∧
    (State.ringMode s m).prot = s.prot ∧ (State.ringMode s m).dsp = s.dsp ∧ (State.ringMode s m).dio = s.dio ∧
    (State.ringMode s m).aio = s.aio ∧ (State.ringMode s m).can = s.can ∧ (State.ringMode s m).net = s.net ∧
    (State.ringMode s m).nvs = s.nvs ∧ (State.ringMode s m).log = s.log ∧ (State.ringMode s m).sec = s.sec ∧
    (State.ringMode s m).upd = s.upd ∧ (State.ringMode s m).locks = s.locks ∧ (State.ringMode s m).regs = s.regs ∧
    (State.ringMode s m).mem = s.mem ∧ (State.ringMode s m).cfg = s.cfg ∧ (State.ringMode s m).resp = s.resp ∧
    (State.ringMode s m).out = s.out ∧ (State.ringMode s m).freeCtr = s.freeCtr ∧ (State.ringMode s m).pending = s.pending := by
  simpa [Same] using State.ringMode_same s m

theorem State.setMode_same (s : State) (m : Mode) (cause : Nat) :
    Same (fun t => (t.pwr, t.tb, t.rtc, t.hq, t.evt, t.core, t.dbg, t.loop, t.est, t.prot, t.dsp, t.can, t.net, t.nvs, t.sec, t.regs, t.cfg, t.resp, t.freeCtr, t.pending)) s (State.setMode s m cause) := by
  unfold State.setMode
  (try dsimp only)
  (repeat' split) <;> simp [Same]

@[simp] theorem State.setMode_frame (s : State) (m : Mode) (cause : Nat) :
    (State.setMode s m cause).pwr = s.pwr ∧ (State.setMode s m cause).tb = s.tb ∧ (State.setMode s m cause).rtc = s.rtc ∧
    (State.setMode s m cause).hq = s.hq ∧ (State.setMode s m cause).evt = s.evt ∧ (State.setMode s m cause).core = s.core ∧
    (State.setMode s m cause).dbg = s.dbg ∧ (State.setMode s m cause).loop = s.loop ∧ (State.setMode s m cause).est = s.est ∧
    (State.setMode s m cause).prot = s.prot ∧ (State.setMode s m cause).dsp = s.dsp ∧ (State.setMode s m cause).can = s.can ∧
    (State.setMode s m cause).net = s.net ∧ (State.setMode s m cause).nvs = s.nvs ∧ (State.setMode s m cause).sec = s.sec ∧
    (State.setMode s m cause).regs = s.regs ∧ (State.setMode s m cause).cfg = s.cfg ∧ (State.setMode s m cause).resp = s.resp ∧
    (State.setMode s m cause).freeCtr = s.freeCtr ∧ (State.setMode s m cause).pending = s.pending := by
  simpa [Same] using State.setMode_same s m cause

theorem State.endUpdate_same (s : State) :
    Same (fun t => (t.pwr, t.tb, t.rtc, t.hq, t.evt, t.core, t.dbg, t.loop, t.est, t.prot, t.dsp, t.can, t.net, t.nvs, t.sec, t.regs, t.cfg, t.resp, t.freeCtr, t.pending)) s (State.endUpdate s) := by
  unfold State.endUpdate
  (try dsimp only)
  (repeat' split) <;> simp [Same]

@[simp] theorem State.endUpdate_frame (s : State) :
    (State.endUpdate s).pwr = s.pwr ∧ (State.endUpdate s).tb = s.tb ∧ (State.endUpdate s).rtc = s.rtc ∧
    (State.endUpdate s).hq = s.hq ∧ (State.endUpdate s).evt = s.evt ∧ (State.endUpdate s).core = s.core ∧
    (State.endUpdate s).dbg = s.dbg ∧ (State.endUpdate s).loop = s.loop ∧ (State.endUpdate s).est = s.est ∧
    (State.endUpdate s).prot = s.prot ∧ (State.endUpdate s).dsp = s.dsp ∧ (State.endUpdate s).can = s.can ∧
    (State.endUpdate s).net = s.net ∧ (State.endUpdate s).nvs = s.nvs ∧ (State.endUpdate s).sec = s.sec ∧
    (State.endUpdate s).regs = s.regs ∧ (State.endUpdate s).cfg = s.cfg ∧ (State.endUpdate s).resp = s.resp ∧
    (State.endUpdate s).freeCtr = s.freeCtr ∧ (State.endUpdate s).pending = s.pending := by
  simpa [Same] using State.endUpdate_same s

theorem State.wakeCocoon_same (s : State) (cause : Nat) :
    Same (fun t => (t.pwr, t.tb, t.rtc, t.hq, t.evt, t.wb, t.core, t.dbg, t.prg, t.loop, t.est, t.prot, t.dsp, t.dio, t.aio, t.can, t.net, t.nvs, t.sec, t.upd, t.locks, t.regs, t.cfg, t.resp, t.freeCtr, t.pending)) s (State.wakeCocoon s cause) := by
  unfold State.wakeCocoon
  (try dsimp only)
  (repeat' split) <;> simp [Same]

@[simp] theorem State.wakeCocoon_frame (s : State) (cause : Nat) :
    (State.wakeCocoon s cause).pwr = s.pwr ∧ (State.wakeCocoon s cause).tb = s.tb ∧ (State.wakeCocoon s cause).rtc = s.rtc ∧
    (State.wakeCocoon s cause).hq = s.hq ∧ (State.wakeCocoon s cause).evt = s.evt ∧ (State.wakeCocoon s cause).wb = s.wb ∧
    (State.wakeCocoon s cause).core = s.core ∧ (State.wakeCocoon s cause).dbg = s.dbg ∧ (State.wakeCocoon s cause).prg = s.prg ∧
    (State.wakeCocoon s cause).loop = s.loop ∧ (State.wakeCocoon s cause).est = s.est ∧
    (State.wakeCocoon s cause).prot = s.prot ∧ (State.wakeCocoon s cause).dsp = s.dsp ∧ (State.wakeCocoon s cause).dio = s.dio ∧
    (State.wakeCocoon s cause).aio = s.aio ∧ (State.wakeCocoon s cause).can = s.can ∧ (State.wakeCocoon s cause).net = s.net ∧
    (State.wakeCocoon s cause).nvs = s.nvs ∧ (State.wakeCocoon s cause).sec = s.sec ∧ (State.wakeCocoon s cause).upd = s.upd ∧
    (State.wakeCocoon s cause).locks = s.locks ∧ (State.wakeCocoon s cause).regs = s.regs ∧
    (State.wakeCocoon s cause).cfg = s.cfg ∧ (State.wakeCocoon s cause).resp = s.resp ∧
    (State.wakeCocoon s cause).freeCtr = s.freeCtr ∧ (State.wakeCocoon s cause).pending = s.pending := by
  simpa [Same] using State.wakeCocoon_same s cause

theorem State.endLease_same (s : State) :
    Same (fun t => (t.sys, t.pwr, t.tb, t.rtc, t.hq, t.core, t.dbg, t.prg, t.loop, t.slk, t.est, t.prot, t.dsp, t.dio, t.aio, t.can, t.net, t.nvs, t.log, t.sec, t.upd, t.locks, t.regs, t.mem, t.cfg, t.resp, t.freeCtr, t.pending)) s (State.endLease s) := by
  unfold State.endLease
  (try dsimp only)
  (repeat' split) <;> simp [Same]

@[simp] theorem State.endLease_frame (s : State) :
    (State.endLease s).sys = s.sys ∧ (State.endLease s).pwr = s.pwr ∧ (State.endLease s).tb = s.tb ∧
    (State.endLease s).rtc = s.rtc ∧ (State.endLease s).hq = s.hq ∧ (State.endLease s).core = s.core ∧
    (State.endLease s).dbg = s.dbg ∧ (State.endLease s).prg = s.prg ∧ (State.endLease s).loop = s.loop ∧
    (State.endLease s).slk = s.slk ∧ (State.endLease s).est = s.est ∧ (State.endLease s).prot = s.prot ∧
    (State.endLease s).dsp = s.dsp ∧ (State.endLease s).dio = s.dio ∧ (State.endLease s).aio = s.aio ∧
    (State.endLease s).can = s.can ∧ (State.endLease s).net = s.net ∧ (State.endLease s).nvs = s.nvs ∧
    (State.endLease s).log = s.log ∧ (State.endLease s).sec = s.sec ∧ (State.endLease s).upd = s.upd ∧
    (State.endLease s).locks = s.locks ∧ (State.endLease s).regs = s.regs ∧ (State.endLease s).mem = s.mem ∧
    (State.endLease s).cfg = s.cfg ∧ (State.endLease s).resp = s.resp ∧ (State.endLease s).freeCtr = s.freeCtr ∧
    (State.endLease s).pending = s.pending := by
  simpa [Same] using State.endLease_same s

theorem State.enterQuarantine_same (s : State) (n : RecName) (args : List Nat) :
    Same (fun t => (t.pwr, t.tb, t.rtc, t.hq, t.core, t.dbg, t.loop, t.est, t.prot, t.dsp, t.can, t.net, t.nvs, t.sec, t.regs, t.cfg, t.resp, t.freeCtr, t.pending)) s (State.enterQuarantine s n args) := by
  unfold State.enterQuarantine
  (try dsimp only)
  (repeat' split) <;> simp [Same]

@[simp] theorem State.enterQuarantine_frame (s : State) (n : RecName) (args : List Nat) :
    (State.enterQuarantine s n args).pwr = s.pwr ∧ (State.enterQuarantine s n args).tb = s.tb ∧
    (State.enterQuarantine s n args).rtc = s.rtc ∧ (State.enterQuarantine s n args).hq = s.hq ∧
    (State.enterQuarantine s n args).core = s.core ∧ (State.enterQuarantine s n args).dbg = s.dbg ∧
    (State.enterQuarantine s n args).loop = s.loop ∧ (State.enterQuarantine s n args).est = s.est ∧
    (State.enterQuarantine s n args).prot = s.prot ∧ (State.enterQuarantine s n args).dsp = s.dsp ∧
    (State.enterQuarantine s n args).can = s.can ∧ (State.enterQuarantine s n args).net = s.net ∧
    (State.enterQuarantine s n args).nvs = s.nvs ∧ (State.enterQuarantine s n args).sec = s.sec ∧
    (State.enterQuarantine s n args).regs = s.regs ∧ (State.enterQuarantine s n args).cfg = s.cfg ∧
    (State.enterQuarantine s n args).resp = s.resp ∧ (State.enterQuarantine s n args).freeCtr = s.freeCtr ∧
    (State.enterQuarantine s n args).pending = s.pending := by
  simpa [Same] using State.enterQuarantine_same s n args

theorem State.enterService_same (s : State) (cause : Nat) :
    Same (fun t => (t.pwr, t.tb, t.rtc, t.hq, t.core, t.dbg, t.loop, t.est, t.prot, t.dsp, t.can, t.net, t.nvs, t.sec, t.regs, t.cfg, t.resp, t.freeCtr, t.pending)) s (State.enterService s cause) := by
  unfold State.enterService
  (try dsimp only)
  (repeat' split) <;> simp [Same]

@[simp] theorem State.enterService_frame (s : State) (cause : Nat) :
    (State.enterService s cause).pwr = s.pwr ∧ (State.enterService s cause).tb = s.tb ∧
    (State.enterService s cause).rtc = s.rtc ∧ (State.enterService s cause).hq = s.hq ∧
    (State.enterService s cause).core = s.core ∧ (State.enterService s cause).dbg = s.dbg ∧
    (State.enterService s cause).loop = s.loop ∧ (State.enterService s cause).est = s.est ∧
    (State.enterService s cause).prot = s.prot ∧ (State.enterService s cause).dsp = s.dsp ∧
    (State.enterService s cause).can = s.can ∧ (State.enterService s cause).net = s.net ∧
    (State.enterService s cause).nvs = s.nvs ∧ (State.enterService s cause).sec = s.sec ∧
    (State.enterService s cause).regs = s.regs ∧ (State.enterService s cause).cfg = s.cfg ∧
    (State.enterService s cause).resp = s.resp ∧ (State.enterService s cause).freeCtr = s.freeCtr ∧
    (State.enterService s cause).pending = s.pending := by
  simpa [Same] using State.enterService_same s cause

theorem State.tellRtcLost_same (s : State) :
    Same (fun t => (t.pwr, t.tb, t.hq, t.wb, t.core, t.dbg, t.prg, t.loop, t.slk, t.est, t.prot, t.dsp, t.dio, t.aio, t.can, t.net, t.nvs, t.sec, t.upd, t.locks, t.regs, t.cfg, t.resp, t.freeCtr, t.pending)) s (State.tellRtcLost s) := by
  unfold State.tellRtcLost
  (try dsimp only)
  (repeat' split) <;> simp [Same]

@[simp] theorem State.tellRtcLost_frame (s : State) :
    (State.tellRtcLost s).pwr = s.pwr ∧ (State.tellRtcLost s).tb = s.tb ∧ (State.tellRtcLost s).hq = s.hq ∧
    (State.tellRtcLost s).wb = s.wb ∧ (State.tellRtcLost s).core = s.core ∧ (State.tellRtcLost s).dbg = s.dbg ∧
    (State.tellRtcLost s).prg = s.prg ∧ (State.tellRtcLost s).loop = s.loop ∧ (State.tellRtcLost s).slk = s.slk ∧
    (State.tellRtcLost s).est = s.est ∧ (State.tellRtcLost s).prot = s.prot ∧ (State.tellRtcLost s).dsp = s.dsp ∧
    (State.tellRtcLost s).dio = s.dio ∧ (State.tellRtcLost s).aio = s.aio ∧ (State.tellRtcLost s).can = s.can ∧
    (State.tellRtcLost s).net = s.net ∧ (State.tellRtcLost s).nvs = s.nvs ∧ (State.tellRtcLost s).sec = s.sec ∧
    (State.tellRtcLost s).upd = s.upd ∧ (State.tellRtcLost s).locks = s.locks ∧ (State.tellRtcLost s).regs = s.regs ∧
    (State.tellRtcLost s).cfg = s.cfg ∧ (State.tellRtcLost s).resp = s.resp ∧ (State.tellRtcLost s).freeCtr = s.freeCtr ∧
    (State.tellRtcLost s).pending = s.pending := by
  simpa [Same] using State.tellRtcLost_same s

theorem State.refuseExtract_same (s : State) :
    Same (fun t => (t.tb, t.rtc, t.hq, t.evt, t.wb, t.core, t.dbg, t.prg, t.loop, t.slk, t.est, t.prot, t.dsp, t.dio, t.aio, t.can, t.net, t.nvs, t.sec, t.upd, t.locks, t.regs, t.cfg, t.resp, t.out, t.freeCtr, t.pending)) s (State.refuseExtract s) := by
  unfold State.refuseExtract
  (try dsimp only)
  (repeat' split) <;> simp [Same]

@[simp] theorem State.refuseExtract_frame (s : State) :
    (State.refuseExtract s).tb = s.tb ∧ (State.refuseExtract s).rtc = s.rtc ∧ (State.refuseExtract s).hq = s.hq ∧
    (State.refuseExtract s).evt = s.evt ∧ (State.refuseExtract s).wb = s.wb ∧ (State.refuseExtract s).core = s.core ∧
    (State.refuseExtract s).dbg = s.dbg ∧ (State.refuseExtract s).prg = s.prg ∧ (State.refuseExtract s).loop = s.loop ∧
    (State.refuseExtract s).slk = s.slk ∧ (State.refuseExtract s).est = s.est ∧ (State.refuseExtract s).prot = s.prot ∧
    (State.refuseExtract s).dsp = s.dsp ∧ (State.refuseExtract s).dio = s.dio ∧ (State.refuseExtract s).aio = s.aio ∧
    (State.refuseExtract s).can = s.can ∧ (State.refuseExtract s).net = s.net ∧ (State.refuseExtract s).nvs = s.nvs ∧
    (State.refuseExtract s).sec = s.sec ∧ (State.refuseExtract s).upd = s.upd ∧ (State.refuseExtract s).locks = s.locks ∧
    (State.refuseExtract s).regs = s.regs ∧ (State.refuseExtract s).cfg = s.cfg ∧ (State.refuseExtract s).resp = s.resp ∧
    (State.refuseExtract s).out = s.out ∧ (State.refuseExtract s).freeCtr = s.freeCtr ∧
    (State.refuseExtract s).pending = s.pending := by
  simpa [Same] using State.refuseExtract_same s

theorem State.actExtraction_same (s : State) :
    Same (fun t => (t.tb, t.rtc, t.hq, t.core, t.dbg, t.loop, t.est, t.prot, t.dsp, t.can, t.net, t.nvs, t.sec, t.regs, t.cfg, t.resp, t.freeCtr, t.pending)) s (State.actExtraction s) := by
  unfold State.actExtraction
  (try dsimp only)
  (repeat' split) <;> simp [Same]

@[simp] theorem State.actExtraction_frame (s : State) :
    (State.actExtraction s).tb = s.tb ∧ (State.actExtraction s).rtc = s.rtc ∧ (State.actExtraction s).hq = s.hq ∧
    (State.actExtraction s).core = s.core ∧ (State.actExtraction s).dbg = s.dbg ∧ (State.actExtraction s).loop = s.loop ∧
    (State.actExtraction s).est = s.est ∧ (State.actExtraction s).prot = s.prot ∧ (State.actExtraction s).dsp = s.dsp ∧
    (State.actExtraction s).can = s.can ∧ (State.actExtraction s).net = s.net ∧ (State.actExtraction s).nvs = s.nvs ∧
    (State.actExtraction s).sec = s.sec ∧ (State.actExtraction s).regs = s.regs ∧ (State.actExtraction s).cfg = s.cfg ∧
    (State.actExtraction s).resp = s.resp ∧ (State.actExtraction s).freeCtr = s.freeCtr ∧
    (State.actExtraction s).pending = s.pending := by
  simpa [Same] using State.actExtraction_same s

theorem State.dropFallback_same (s : State) :
    Same (fun t => (t.pwr, t.tb, t.rtc, t.hq, t.evt, t.wb, t.core, t.dbg, t.prg, t.loop, t.slk, t.est, t.prot, t.dsp, t.dio, t.aio, t.can, t.net, t.nvs, t.log, t.sec, t.locks, t.regs, t.mem, t.cfg, t.resp, t.out, t.freeCtr, t.pending)) s (State.dropFallback s) := by
  unfold State.dropFallback
  (try dsimp only)
  (repeat' split) <;> simp [Same]

@[simp] theorem State.dropFallback_frame (s : State) :
    (State.dropFallback s).pwr = s.pwr ∧ (State.dropFallback s).tb = s.tb ∧ (State.dropFallback s).rtc = s.rtc ∧
    (State.dropFallback s).hq = s.hq ∧ (State.dropFallback s).evt = s.evt ∧ (State.dropFallback s).wb = s.wb ∧
    (State.dropFallback s).core = s.core ∧ (State.dropFallback s).dbg = s.dbg ∧ (State.dropFallback s).prg = s.prg ∧
    (State.dropFallback s).loop = s.loop ∧ (State.dropFallback s).slk = s.slk ∧ (State.dropFallback s).est = s.est ∧
    (State.dropFallback s).prot = s.prot ∧ (State.dropFallback s).dsp = s.dsp ∧ (State.dropFallback s).dio = s.dio ∧
    (State.dropFallback s).aio = s.aio ∧ (State.dropFallback s).can = s.can ∧ (State.dropFallback s).net = s.net ∧
    (State.dropFallback s).nvs = s.nvs ∧ (State.dropFallback s).log = s.log ∧ (State.dropFallback s).sec = s.sec ∧
    (State.dropFallback s).locks = s.locks ∧ (State.dropFallback s).regs = s.regs ∧ (State.dropFallback s).mem = s.mem ∧
    (State.dropFallback s).cfg = s.cfg ∧ (State.dropFallback s).resp = s.resp ∧ (State.dropFallback s).out = s.out ∧
    (State.dropFallback s).freeCtr = s.freeCtr ∧ (State.dropFallback s).pending = s.pending := by
  simpa [Same] using State.dropFallback_same s

theorem State.dropExtraction_same (s : State) :
    Same (fun t => (t.tb, t.rtc, t.hq, t.evt, t.wb, t.core, t.dbg, t.prg, t.loop, t.slk, t.est, t.prot, t.dsp, t.dio, t.aio, t.can, t.net, t.nvs, t.sec, t.locks, t.regs, t.cfg, t.resp, t.out, t.freeCtr, t.pending)) s (State.dropExtraction s) := by
  unfold State.dropExtraction
  (try dsimp only)
  (repeat' split) <;> simp [Same]

@[simp] theorem State.dropExtraction_frame (s : State) :
    (State.dropExtraction s).tb = s.tb ∧ (State.dropExtraction s).rtc = s.rtc ∧ (State.dropExtraction s).hq = s.hq ∧
    (State.dropExtraction s).evt = s.evt ∧ (State.dropExtraction s).wb = s.wb ∧ (State.dropExtraction s).core = s.core ∧
    (State.dropExtraction s).dbg = s.dbg ∧ (State.dropExtraction s).prg = s.prg ∧ (State.dropExtraction s).loop = s.loop ∧
    (State.dropExtraction s).slk = s.slk ∧ (State.dropExtraction s).est = s.est ∧ (State.dropExtraction s).prot = s.prot ∧
    (State.dropExtraction s).dsp = s.dsp ∧ (State.dropExtraction s).dio = s.dio ∧ (State.dropExtraction s).aio = s.aio ∧
    (State.dropExtraction s).can = s.can ∧ (State.dropExtraction s).net = s.net ∧ (State.dropExtraction s).nvs = s.nvs ∧
    (State.dropExtraction s).sec = s.sec ∧ (State.dropExtraction s).locks = s.locks ∧ (State.dropExtraction s).regs = s.regs ∧
    (State.dropExtraction s).cfg = s.cfg ∧ (State.dropExtraction s).resp = s.resp ∧ (State.dropExtraction s).out = s.out ∧
    (State.dropExtraction s).freeCtr = s.freeCtr ∧ (State.dropExtraction s).pending = s.pending := by
  simpa [Same] using State.dropExtraction_same s

theorem State.dropPlanned_same (s : State) :
    Same (fun t => (t.tb, t.rtc, t.hq, t.evt, t.core, t.dbg, t.prg, t.loop, t.slk, t.est, t.prot, t.dsp, t.dio, t.aio, t.can, t.net, t.nvs, t.sec, t.locks, t.regs, t.cfg, t.resp, t.out, t.freeCtr, t.pending)) s (State.dropPlanned s) := by
  unfold State.dropPlanned
  (try dsimp only)
  (repeat' split) <;> simp [Same]

@[simp] theorem State.dropPlanned_frame (s : State) :
    (State.dropPlanned s).tb = s.tb ∧ (State.dropPlanned s).rtc = s.rtc ∧ (State.dropPlanned s).hq = s.hq ∧
    (State.dropPlanned s).evt = s.evt ∧ (State.dropPlanned s).core = s.core ∧ (State.dropPlanned s).dbg = s.dbg ∧
    (State.dropPlanned s).prg = s.prg ∧ (State.dropPlanned s).loop = s.loop ∧ (State.dropPlanned s).slk = s.slk ∧
    (State.dropPlanned s).est = s.est ∧ (State.dropPlanned s).prot = s.prot ∧ (State.dropPlanned s).dsp = s.dsp ∧
    (State.dropPlanned s).dio = s.dio ∧ (State.dropPlanned s).aio = s.aio ∧ (State.dropPlanned s).can = s.can ∧
    (State.dropPlanned s).net = s.net ∧ (State.dropPlanned s).nvs = s.nvs ∧ (State.dropPlanned s).sec = s.sec ∧
    (State.dropPlanned s).locks = s.locks ∧ (State.dropPlanned s).regs = s.regs ∧ (State.dropPlanned s).cfg = s.cfg ∧
    (State.dropPlanned s).resp = s.resp ∧ (State.dropPlanned s).out = s.out ∧ (State.dropPlanned s).freeCtr = s.freeCtr ∧
    (State.dropPlanned s).pending = s.pending := by
  simpa [Same] using State.dropPlanned_same s

theorem State.checkJournalFull_same (s : State) :
    Same (fun t => (t.pwr, t.tb, t.rtc, t.hq, t.evt, t.core, t.dbg, t.prg, t.loop, t.slk, t.est, t.prot, t.dsp, t.dio, t.aio, t.can, t.net, t.nvs, t.sec, t.upd, t.locks, t.regs, t.cfg, t.resp, t.out, t.freeCtr, t.pending)) s (State.checkJournalFull s) := by
  unfold State.checkJournalFull
  (try dsimp only)
  (repeat' split) <;> simp [Same]

@[simp] theorem State.checkJournalFull_frame (s : State) :
    (State.checkJournalFull s).pwr = s.pwr ∧ (State.checkJournalFull s).tb = s.tb ∧ (State.checkJournalFull s).rtc = s.rtc ∧
    (State.checkJournalFull s).hq = s.hq ∧ (State.checkJournalFull s).evt = s.evt ∧ (State.checkJournalFull s).core = s.core ∧
    (State.checkJournalFull s).dbg = s.dbg ∧ (State.checkJournalFull s).prg = s.prg ∧ (State.checkJournalFull s).loop = s.loop ∧
    (State.checkJournalFull s).slk = s.slk ∧ (State.checkJournalFull s).est = s.est ∧ (State.checkJournalFull s).prot = s.prot ∧
    (State.checkJournalFull s).dsp = s.dsp ∧ (State.checkJournalFull s).dio = s.dio ∧ (State.checkJournalFull s).aio = s.aio ∧
    (State.checkJournalFull s).can = s.can ∧ (State.checkJournalFull s).net = s.net ∧ (State.checkJournalFull s).nvs = s.nvs ∧
    (State.checkJournalFull s).sec = s.sec ∧ (State.checkJournalFull s).upd = s.upd ∧
    (State.checkJournalFull s).locks = s.locks ∧ (State.checkJournalFull s).regs = s.regs ∧
    (State.checkJournalFull s).cfg = s.cfg ∧ (State.checkJournalFull s).resp = s.resp ∧ (State.checkJournalFull s).out = s.out ∧
    (State.checkJournalFull s).freeCtr = s.freeCtr ∧ (State.checkJournalFull s).pending = s.pending := by
  simpa [Same] using State.checkJournalFull_same s

theorem State.checkJournalFree_same (s : State) :
    Same (fun t => (t.pwr, t.tb, t.rtc, t.hq, t.evt, t.core, t.dbg, t.prg, t.loop, t.slk, t.est, t.prot, t.dsp, t.dio, t.aio, t.can, t.net, t.nvs, t.sec, t.upd, t.locks, t.regs, t.cfg, t.resp, t.out, t.freeCtr, t.pending)) s (State.checkJournalFree s) := by
  unfold State.checkJournalFree
  (try dsimp only)
  (repeat' split) <;> simp [Same]

@[simp] theorem State.checkJournalFree_frame (s : State) :
    (State.checkJournalFree s).pwr = s.pwr ∧ (State.checkJournalFree s).tb = s.tb ∧ (State.checkJournalFree s).rtc = s.rtc ∧
    (State.checkJournalFree s).hq = s.hq ∧ (State.checkJournalFree s).evt = s.evt ∧ (State.checkJournalFree s).core = s.core ∧
    (State.checkJournalFree s).dbg = s.dbg ∧ (State.checkJournalFree s).prg = s.prg ∧ (State.checkJournalFree s).loop = s.loop ∧
    (State.checkJournalFree s).slk = s.slk ∧ (State.checkJournalFree s).est = s.est ∧ (State.checkJournalFree s).prot = s.prot ∧
    (State.checkJournalFree s).dsp = s.dsp ∧ (State.checkJournalFree s).dio = s.dio ∧ (State.checkJournalFree s).aio = s.aio ∧
    (State.checkJournalFree s).can = s.can ∧ (State.checkJournalFree s).net = s.net ∧ (State.checkJournalFree s).nvs = s.nvs ∧
    (State.checkJournalFree s).sec = s.sec ∧ (State.checkJournalFree s).upd = s.upd ∧
    (State.checkJournalFree s).locks = s.locks ∧ (State.checkJournalFree s).regs = s.regs ∧
    (State.checkJournalFree s).cfg = s.cfg ∧ (State.checkJournalFree s).resp = s.resp ∧ (State.checkJournalFree s).out = s.out ∧
    (State.checkJournalFree s).freeCtr = s.freeCtr ∧ (State.checkJournalFree s).pending = s.pending := by
  simpa [Same] using State.checkJournalFree_same s

theorem State.journalAdd_same (s : State) (b : JBody) :
    Same (fun t => (t.pwr, t.tb, t.rtc, t.hq, t.evt, t.core, t.dbg, t.prg, t.loop, t.slk, t.est, t.prot, t.dsp, t.dio, t.aio, t.can, t.net, t.nvs, t.sec, t.upd, t.locks, t.regs, t.cfg, t.resp, t.freeCtr, t.pending)) s (State.journalAdd s b) := by
  unfold State.journalAdd
  (try dsimp only)
  (repeat' split) <;> simp [Same]

@[simp] theorem State.journalAdd_frame (s : State) (b : JBody) :
    (State.journalAdd s b).pwr = s.pwr ∧ (State.journalAdd s b).tb = s.tb ∧ (State.journalAdd s b).rtc = s.rtc ∧
    (State.journalAdd s b).hq = s.hq ∧ (State.journalAdd s b).evt = s.evt ∧ (State.journalAdd s b).core = s.core ∧
    (State.journalAdd s b).dbg = s.dbg ∧ (State.journalAdd s b).prg = s.prg ∧ (State.journalAdd s b).loop = s.loop ∧
    (State.journalAdd s b).slk = s.slk ∧ (State.journalAdd s b).est = s.est ∧ (State.journalAdd s b).prot = s.prot ∧
    (State.journalAdd s b).dsp = s.dsp ∧ (State.journalAdd s b).dio = s.dio ∧ (State.journalAdd s b).aio = s.aio ∧
    (State.journalAdd s b).can = s.can ∧ (State.journalAdd s b).net = s.net ∧ (State.journalAdd s b).nvs = s.nvs ∧
    (State.journalAdd s b).sec = s.sec ∧ (State.journalAdd s b).upd = s.upd ∧ (State.journalAdd s b).locks = s.locks ∧
    (State.journalAdd s b).regs = s.regs ∧ (State.journalAdd s b).cfg = s.cfg ∧ (State.journalAdd s b).resp = s.resp ∧
    (State.journalAdd s b).freeCtr = s.freeCtr ∧ (State.journalAdd s b).pending = s.pending := by
  simpa [Same] using State.journalAdd_same s b

theorem State.guaranteeBroken_same (s : State) (args : List Nat) :
    Same (fun t => (t.pwr, t.tb, t.rtc, t.hq, t.wb, t.core, t.dbg, t.prg, t.loop, t.slk, t.est, t.prot, t.dsp, t.dio, t.aio, t.can, t.net, t.nvs, t.sec, t.upd, t.locks, t.regs, t.cfg, t.resp, t.freeCtr, t.pending)) s (State.guaranteeBroken s args) := by
  unfold State.guaranteeBroken
  (try dsimp only)
  (repeat' split) <;> simp [Same]

@[simp] theorem State.guaranteeBroken_frame (s : State) (args : List Nat) :
    (State.guaranteeBroken s args).pwr = s.pwr ∧ (State.guaranteeBroken s args).tb = s.tb ∧
    (State.guaranteeBroken s args).rtc = s.rtc ∧ (State.guaranteeBroken s args).hq = s.hq ∧
    (State.guaranteeBroken s args).wb = s.wb ∧ (State.guaranteeBroken s args).core = s.core ∧
    (State.guaranteeBroken s args).dbg = s.dbg ∧ (State.guaranteeBroken s args).prg = s.prg ∧
    (State.guaranteeBroken s args).loop = s.loop ∧ (State.guaranteeBroken s args).slk = s.slk ∧
    (State.guaranteeBroken s args).est = s.est ∧ (State.guaranteeBroken s args).prot = s.prot ∧
    (State.guaranteeBroken s args).dsp = s.dsp ∧ (State.guaranteeBroken s args).dio = s.dio ∧
    (State.guaranteeBroken s args).aio = s.aio ∧ (State.guaranteeBroken s args).can = s.can ∧
    (State.guaranteeBroken s args).net = s.net ∧ (State.guaranteeBroken s args).nvs = s.nvs ∧
    (State.guaranteeBroken s args).sec = s.sec ∧ (State.guaranteeBroken s args).upd = s.upd ∧
    (State.guaranteeBroken s args).locks = s.locks ∧ (State.guaranteeBroken s args).regs = s.regs ∧
    (State.guaranteeBroken s args).cfg = s.cfg ∧ (State.guaranteeBroken s args).resp = s.resp ∧
    (State.guaranteeBroken s args).freeCtr = s.freeCtr ∧ (State.guaranteeBroken s args).pending = s.pending := by
  simpa [Same] using State.guaranteeBroken_same s args

theorem State.holdItem_same (s : State) (e : ManEntry) (content : List Byte) :
    Same (fun t => (t.sys, t.pwr, t.tb, t.rtc, t.hq, t.evt, t.core, t.dbg, t.prg, t.loop, t.slk, t.est, t.prot, t.dsp, t.dio, t.aio, t.can, t.net, t.nvs, t.log, t.sec, t.upd, t.locks, t.regs, t.mem, t.cfg, t.resp, t.out, t.freeCtr, t.pending)) s (State.holdItem s e content) := by
  unfold State.holdItem
  (try dsimp only)
  (repeat' split) <;> simp [Same]

@[simp] theorem State.holdItem_frame (s : State) (e : ManEntry) (content : List Byte) :
    (State.holdItem s e content).sys = s.sys ∧ (State.holdItem s e content).pwr = s.pwr ∧
    (State.holdItem s e content).tb = s.tb ∧ (State.holdItem s e content).rtc = s.rtc ∧ (State.holdItem s e content).hq = s.hq ∧
    (State.holdItem s e content).evt = s.evt ∧ (State.holdItem s e content).core = s.core ∧
    (State.holdItem s e content).dbg = s.dbg ∧ (State.holdItem s e content).prg = s.prg ∧
    (State.holdItem s e content).loop = s.loop ∧ (State.holdItem s e content).slk = s.slk ∧
    (State.holdItem s e content).est = s.est ∧ (State.holdItem s e content).prot = s.prot ∧
    (State.holdItem s e content).dsp = s.dsp ∧ (State.holdItem s e content).dio = s.dio ∧
    (State.holdItem s e content).aio = s.aio ∧ (State.holdItem s e content).can = s.can ∧
    (State.holdItem s e content).net = s.net ∧ (State.holdItem s e content).nvs = s.nvs ∧
    (State.holdItem s e content).log = s.log ∧ (State.holdItem s e content).sec = s.sec ∧
    (State.holdItem s e content).upd = s.upd ∧ (State.holdItem s e content).locks = s.locks ∧
    (State.holdItem s e content).regs = s.regs ∧ (State.holdItem s e content).mem = s.mem ∧
    (State.holdItem s e content).cfg = s.cfg ∧ (State.holdItem s e content).resp = s.resp ∧
    (State.holdItem s e content).out = s.out ∧ (State.holdItem s e content).freeCtr = s.freeCtr ∧
    (State.holdItem s e content).pending = s.pending := by
  simpa [Same] using State.holdItem_same s e content

theorem State.nameItem_same (s : State) (e : ManEntry) (content : List Byte) :
    Same (fun t => (t.sys, t.pwr, t.tb, t.rtc, t.hq, t.evt, t.core, t.dbg, t.prg, t.loop, t.slk, t.est, t.prot, t.dsp, t.dio, t.aio, t.can, t.net, t.nvs, t.log, t.sec, t.upd, t.locks, t.regs, t.mem, t.cfg, t.resp, t.out, t.freeCtr, t.pending)) s (State.nameItem s e content) := by
  unfold State.nameItem
  (try dsimp only)
  (repeat' split) <;> simp [Same]

@[simp] theorem State.nameItem_frame (s : State) (e : ManEntry) (content : List Byte) :
    (State.nameItem s e content).sys = s.sys ∧ (State.nameItem s e content).pwr = s.pwr ∧
    (State.nameItem s e content).tb = s.tb ∧ (State.nameItem s e content).rtc = s.rtc ∧ (State.nameItem s e content).hq = s.hq ∧
    (State.nameItem s e content).evt = s.evt ∧ (State.nameItem s e content).core = s.core ∧
    (State.nameItem s e content).dbg = s.dbg ∧ (State.nameItem s e content).prg = s.prg ∧
    (State.nameItem s e content).loop = s.loop ∧ (State.nameItem s e content).slk = s.slk ∧
    (State.nameItem s e content).est = s.est ∧ (State.nameItem s e content).prot = s.prot ∧
    (State.nameItem s e content).dsp = s.dsp ∧ (State.nameItem s e content).dio = s.dio ∧
    (State.nameItem s e content).aio = s.aio ∧ (State.nameItem s e content).can = s.can ∧
    (State.nameItem s e content).net = s.net ∧ (State.nameItem s e content).nvs = s.nvs ∧
    (State.nameItem s e content).log = s.log ∧ (State.nameItem s e content).sec = s.sec ∧
    (State.nameItem s e content).upd = s.upd ∧ (State.nameItem s e content).locks = s.locks ∧
    (State.nameItem s e content).regs = s.regs ∧ (State.nameItem s e content).mem = s.mem ∧
    (State.nameItem s e content).cfg = s.cfg ∧ (State.nameItem s e content).resp = s.resp ∧
    (State.nameItem s e content).out = s.out ∧ (State.nameItem s e content).freeCtr = s.freeCtr ∧
    (State.nameItem s e content).pending = s.pending := by
  simpa [Same] using State.nameItem_same s e content

theorem State.planIfDegraded_same (s : State) :
    Same (fun t => (t.sys, t.pwr, t.tb, t.rtc, t.hq, t.evt, t.core, t.dbg, t.prg, t.loop, t.slk, t.est, t.prot, t.dsp, t.dio, t.aio, t.can, t.net, t.nvs, t.log, t.sec, t.upd, t.locks, t.regs, t.mem, t.cfg, t.resp, t.out, t.freeCtr, t.pending)) s (State.planIfDegraded s) := by
  unfold State.planIfDegraded
  (try dsimp only)
  (repeat' split) <;> simp [Same]

@[simp] theorem State.planIfDegraded_frame (s : State) :
    (State.planIfDegraded s).sys = s.sys ∧ (State.planIfDegraded s).pwr = s.pwr ∧ (State.planIfDegraded s).tb = s.tb ∧
    (State.planIfDegraded s).rtc = s.rtc ∧ (State.planIfDegraded s).hq = s.hq ∧ (State.planIfDegraded s).evt = s.evt ∧
    (State.planIfDegraded s).core = s.core ∧ (State.planIfDegraded s).dbg = s.dbg ∧ (State.planIfDegraded s).prg = s.prg ∧
    (State.planIfDegraded s).loop = s.loop ∧ (State.planIfDegraded s).slk = s.slk ∧ (State.planIfDegraded s).est = s.est ∧
    (State.planIfDegraded s).prot = s.prot ∧ (State.planIfDegraded s).dsp = s.dsp ∧ (State.planIfDegraded s).dio = s.dio ∧
    (State.planIfDegraded s).aio = s.aio ∧ (State.planIfDegraded s).can = s.can ∧ (State.planIfDegraded s).net = s.net ∧
    (State.planIfDegraded s).nvs = s.nvs ∧ (State.planIfDegraded s).log = s.log ∧ (State.planIfDegraded s).sec = s.sec ∧
    (State.planIfDegraded s).upd = s.upd ∧ (State.planIfDegraded s).locks = s.locks ∧ (State.planIfDegraded s).regs = s.regs ∧
    (State.planIfDegraded s).mem = s.mem ∧ (State.planIfDegraded s).cfg = s.cfg ∧ (State.planIfDegraded s).resp = s.resp ∧
    (State.planIfDegraded s).out = s.out ∧ (State.planIfDegraded s).freeCtr = s.freeCtr ∧
    (State.planIfDegraded s).pending = s.pending := by
  simpa [Same] using State.planIfDegraded_same s

theorem State.setUnit_same (s : State) (u : Nat) :
    Same (fun t => (t.pwr, t.tb, t.rtc, t.hq, t.evt, t.wb, t.core, t.dbg, t.prg, t.loop, t.slk, t.est, t.prot, t.dsp, t.dio, t.aio, t.can, t.net, t.nvs, t.log, t.sec, t.locks, t.regs, t.mem, t.cfg, t.resp, t.out, t.freeCtr, t.pending)) s (State.setUnit s u) := by
  unfold State.setUnit
  (try dsimp only)
  (repeat' split) <;> simp [Same]

@[simp] theorem State.setUnit_frame (s : State) (u : Nat) :
    (State.setUnit s u).pwr = s.pwr ∧ (State.setUnit s u).tb = s.tb ∧ (State.setUnit s u).rtc = s.rtc ∧
    (State.setUnit s u).hq = s.hq ∧ (State.setUnit s u).evt = s.evt ∧ (State.setUnit s u).wb = s.wb ∧
    (State.setUnit s u).core = s.core ∧ (State.setUnit s u).dbg = s.dbg ∧ (State.setUnit s u).prg = s.prg ∧
    (State.setUnit s u).loop = s.loop ∧ (State.setUnit s u).slk = s.slk ∧ (State.setUnit s u).est = s.est ∧
    (State.setUnit s u).prot = s.prot ∧ (State.setUnit s u).dsp = s.dsp ∧ (State.setUnit s u).dio = s.dio ∧
    (State.setUnit s u).aio = s.aio ∧ (State.setUnit s u).can = s.can ∧ (State.setUnit s u).net = s.net ∧
    (State.setUnit s u).nvs = s.nvs ∧ (State.setUnit s u).log = s.log ∧ (State.setUnit s u).sec = s.sec ∧
    (State.setUnit s u).locks = s.locks ∧ (State.setUnit s u).regs = s.regs ∧ (State.setUnit s u).mem = s.mem ∧
    (State.setUnit s u).cfg = s.cfg ∧ (State.setUnit s u).resp = s.resp ∧ (State.setUnit s u).out = s.out ∧
    (State.setUnit s u).freeCtr = s.freeCtr ∧ (State.setUnit s u).pending = s.pending := by
  simpa [Same] using State.setUnit_same s u

theorem State.clearUnit_same (s : State) (u : Nat) :
    Same (fun t => (t.pwr, t.tb, t.rtc, t.hq, t.evt, t.wb, t.core, t.dbg, t.prg, t.loop, t.slk, t.est, t.prot, t.dsp, t.dio, t.aio, t.can, t.net, t.nvs, t.log, t.sec, t.locks, t.regs, t.mem, t.cfg, t.resp, t.out, t.freeCtr, t.pending)) s (State.clearUnit s u) := by
  unfold State.clearUnit
  (try dsimp only)
  (repeat' split) <;> simp [Same]

@[simp] theorem State.clearUnit_frame (s : State) (u : Nat) :
    (State.clearUnit s u).pwr = s.pwr ∧ (State.clearUnit s u).tb = s.tb ∧ (State.clearUnit s u).rtc = s.rtc ∧
    (State.clearUnit s u).hq = s.hq ∧ (State.clearUnit s u).evt = s.evt ∧ (State.clearUnit s u).wb = s.wb ∧
    (State.clearUnit s u).core = s.core ∧ (State.clearUnit s u).dbg = s.dbg ∧ (State.clearUnit s u).prg = s.prg ∧
    (State.clearUnit s u).loop = s.loop ∧ (State.clearUnit s u).slk = s.slk ∧ (State.clearUnit s u).est = s.est ∧
    (State.clearUnit s u).prot = s.prot ∧ (State.clearUnit s u).dsp = s.dsp ∧ (State.clearUnit s u).dio = s.dio ∧
    (State.clearUnit s u).aio = s.aio ∧ (State.clearUnit s u).can = s.can ∧ (State.clearUnit s u).net = s.net ∧
    (State.clearUnit s u).nvs = s.nvs ∧ (State.clearUnit s u).log = s.log ∧ (State.clearUnit s u).sec = s.sec ∧
    (State.clearUnit s u).locks = s.locks ∧ (State.clearUnit s u).regs = s.regs ∧ (State.clearUnit s u).mem = s.mem ∧
    (State.clearUnit s u).cfg = s.cfg ∧ (State.clearUnit s u).resp = s.resp ∧ (State.clearUnit s u).out = s.out ∧
    (State.clearUnit s u).freeCtr = s.freeCtr ∧ (State.clearUnit s u).pending = s.pending := by
  simpa [Same] using State.clearUnit_same s u

end Sys2Proof.Machine
end

