-- ==== Sys2Proof/Laws/Frame/Operands.lean ====
section
/-! SUPPORT. The parts of the state that operations of Machine/Operands.lean leave as they are. -/

namespace Sys2Proof.Machine

theorem State.mpuFault_same (s : State) (m a : Nat) (p : AccPriv) (k : AccKind) :
    Same (fun t => (t.pwr, t.tb, t.rtc, t.hq, t.wb, t.dbg, t.prg, t.loop, t.slk, t.est, t.prot, t.dsp, t.dio, t.aio, t.can, t.net, t.nvs, t.sec, t.upd, t.locks, t.regs, t.cfg, t.resp, t.freeCtr, t.pending)) s (State.mpuFault s m a p k) := by
  unfold State.mpuFault
  (try dsimp only)
  (repeat' split) <;> simp [Same]

@[simp] theorem State.mpuFault_frame (s : State) (m a : Nat) (p : AccPriv) (k : AccKind) :
    (State.mpuFault s m a p k).pwr = s.pwr ∧ (State.mpuFault s m a p k).tb = s.tb ∧ (State.mpuFault s m a p k).rtc = s.rtc ∧
    (State.mpuFault s m a p k).hq = s.hq ∧ (State.mpuFault s m a p k).wb = s.wb ∧ (State.mpuFault s m a p k).dbg = s.dbg ∧
    (State.mpuFault s m a p k).prg = s.prg ∧ (State.mpuFault s m a p k).loop = s.loop ∧ (State.mpuFault s m a p k).slk = s.slk ∧
    (State.mpuFault s m a p k).est = s.est ∧ (State.mpuFault s m a p k).prot = s.prot ∧ (State.mpuFault s m a p k).dsp = s.dsp ∧
    (State.mpuFault s m a p k).dio = s.dio ∧ (State.mpuFault s m a p k).aio = s.aio ∧ (State.mpuFault s m a p k).can = s.can ∧
    (State.mpuFault s m a p k).net = s.net ∧ (State.mpuFault s m a p k).nvs = s.nvs ∧ (State.mpuFault s m a p k).sec = s.sec ∧
    (State.mpuFault s m a p k).upd = s.upd ∧ (State.mpuFault s m a p k).locks = s.locks ∧
    (State.mpuFault s m a p k).regs = s.regs ∧ (State.mpuFault s m a p k).cfg = s.cfg ∧
    (State.mpuFault s m a p k).resp = s.resp ∧ (State.mpuFault s m a p k).freeCtr = s.freeCtr ∧
    (State.mpuFault s m a p k).pending = s.pending := by
  simpa [Same] using State.mpuFault_same s m a p k

theorem State.setQueue_same (s : State) (n : Nat) (f : Queue → Queue) :
    Same (fun t => (t.sys, t.pwr, t.tb, t.rtc, t.evt, t.wb, t.core, t.dbg, t.prg, t.loop, t.slk, t.est, t.prot, t.dsp, t.dio, t.aio, t.can, t.net, t.nvs, t.log, t.sec, t.upd, t.locks, t.regs, t.mem, t.cfg, t.resp, t.out, t.freeCtr, t.pending)) s (State.setQueue s n f) := by
  unfold State.setQueue
  (try dsimp only)
  (repeat' split) <;> simp [Same]

@[simp] theorem State.setQueue_frame (s : State) (n : Nat) (f : Queue → Queue) :
    (State.setQueue s n f).sys = s.sys ∧ (State.setQueue s n f).pwr = s.pwr ∧ (State.setQueue s n f).tb = s.tb ∧
    (State.setQueue s n f).rtc = s.rtc ∧ (State.setQueue s n f).evt = s.evt ∧ (State.setQueue s n f).wb = s.wb ∧
    (State.setQueue s n f).core = s.core ∧ (State.setQueue s n f).dbg = s.dbg ∧ (State.setQueue s n f).prg = s.prg ∧
    (State.setQueue s n f).loop = s.loop ∧ (State.setQueue s n f).slk = s.slk ∧ (State.setQueue s n f).est = s.est ∧
    (State.setQueue s n f).prot = s.prot ∧ (State.setQueue s n f).dsp = s.dsp ∧ (State.setQueue s n f).dio = s.dio ∧
    (State.setQueue s n f).aio = s.aio ∧ (State.setQueue s n f).can = s.can ∧ (State.setQueue s n f).net = s.net ∧
    (State.setQueue s n f).nvs = s.nvs ∧ (State.setQueue s n f).log = s.log ∧ (State.setQueue s n f).sec = s.sec ∧
    (State.setQueue s n f).upd = s.upd ∧ (State.setQueue s n f).locks = s.locks ∧ (State.setQueue s n f).regs = s.regs ∧
    (State.setQueue s n f).mem = s.mem ∧ (State.setQueue s n f).cfg = s.cfg ∧ (State.setQueue s n f).resp = s.resp ∧
    (State.setQueue s n f).out = s.out ∧ (State.setQueue s n f).freeCtr = s.freeCtr ∧ (State.setQueue s n f).pending = s.pending := by
  simpa [Same] using State.setQueue_same s n f

theorem State.queueEvent_same (s : State) (n : Nat) :
    Same (fun t => (t.sys, t.pwr, t.tb, t.rtc, t.wb, t.core, t.dbg, t.prg, t.loop, t.slk, t.est, t.prot, t.dsp, t.dio, t.aio, t.can, t.net, t.nvs, t.log, t.sec, t.upd, t.locks, t.regs, t.mem, t.cfg, t.resp, t.freeCtr, t.pending)) s (State.queueEvent s n) := by
  unfold State.queueEvent
  (try dsimp only)
  (repeat' split) <;> simp [Same]

@[simp] theorem State.queueEvent_frame (s : State) (n : Nat) :
    (State.queueEvent s n).sys = s.sys ∧ (State.queueEvent s n).pwr = s.pwr ∧ (State.queueEvent s n).tb = s.tb ∧
    (State.queueEvent s n).rtc = s.rtc ∧ (State.queueEvent s n).wb = s.wb ∧ (State.queueEvent s n).core = s.core ∧
    (State.queueEvent s n).dbg = s.dbg ∧ (State.queueEvent s n).prg = s.prg ∧ (State.queueEvent s n).loop = s.loop ∧
    (State.queueEvent s n).slk = s.slk ∧ (State.queueEvent s n).est = s.est ∧ (State.queueEvent s n).prot = s.prot ∧
    (State.queueEvent s n).dsp = s.dsp ∧ (State.queueEvent s n).dio = s.dio ∧ (State.queueEvent s n).aio = s.aio ∧
    (State.queueEvent s n).can = s.can ∧ (State.queueEvent s n).net = s.net ∧ (State.queueEvent s n).nvs = s.nvs ∧
    (State.queueEvent s n).log = s.log ∧ (State.queueEvent s n).sec = s.sec ∧ (State.queueEvent s n).upd = s.upd ∧
    (State.queueEvent s n).locks = s.locks ∧ (State.queueEvent s n).regs = s.regs ∧ (State.queueEvent s n).mem = s.mem ∧
    (State.queueEvent s n).cfg = s.cfg ∧ (State.queueEvent s n).resp = s.resp ∧ (State.queueEvent s n).freeCtr = s.freeCtr ∧
    (State.queueEvent s n).pending = s.pending := by
  simpa [Same] using State.queueEvent_same s n

theorem State.contentMade_same (s : State) (n k : Nat) (now had : Bool) :
    Same (fun t => (t.sys, t.pwr, t.tb, t.rtc, t.wb, t.core, t.dbg, t.prg, t.loop, t.slk, t.est, t.prot, t.dsp, t.dio, t.aio, t.can, t.net, t.nvs, t.log, t.sec, t.upd, t.locks, t.regs, t.mem, t.cfg, t.resp, t.freeCtr, t.pending)) s (State.contentMade s n k now had) := by
  unfold State.contentMade
  (try dsimp only)
  (repeat' split) <;> simp [Same]

@[simp] theorem State.contentMade_frame (s : State) (n k : Nat) (now had : Bool) :
    (State.contentMade s n k now had).sys = s.sys ∧ (State.contentMade s n k now had).pwr = s.pwr ∧
    (State.contentMade s n k now had).tb = s.tb ∧ (State.contentMade s n k now had).rtc = s.rtc ∧
    (State.contentMade s n k now had).wb = s.wb ∧ (State.contentMade s n k now had).core = s.core ∧
    (State.contentMade s n k now had).dbg = s.dbg ∧ (State.contentMade s n k now had).prg = s.prg ∧
    (State.contentMade s n k now had).loop = s.loop ∧ (State.contentMade s n k now had).slk = s.slk ∧
    (State.contentMade s n k now had).est = s.est ∧ (State.contentMade s n k now had).prot = s.prot ∧
    (State.contentMade s n k now had).dsp = s.dsp ∧ (State.contentMade s n k now had).dio = s.dio ∧
    (State.contentMade s n k now had).aio = s.aio ∧ (State.contentMade s n k now had).can = s.can ∧
    (State.contentMade s n k now had).net = s.net ∧ (State.contentMade s n k now had).nvs = s.nvs ∧
    (State.contentMade s n k now had).log = s.log ∧ (State.contentMade s n k now had).sec = s.sec ∧
    (State.contentMade s n k now had).upd = s.upd ∧ (State.contentMade s n k now had).locks = s.locks ∧
    (State.contentMade s n k now had).regs = s.regs ∧ (State.contentMade s n k now had).mem = s.mem ∧
    (State.contentMade s n k now had).cfg = s.cfg ∧ (State.contentMade s n k now had).resp = s.resp ∧
    (State.contentMade s n k now had).freeCtr = s.freeCtr ∧ (State.contentMade s n k now had).pending = s.pending := by
  simpa [Same] using State.contentMade_same s n k now had

theorem State.putCompletion_same (s : State) (n : Nat) (d : List Byte) (tag status result flags : Nat) :
    Same (fun t => (t.sys, t.pwr, t.tb, t.rtc, t.wb, t.core, t.dbg, t.prg, t.loop, t.slk, t.est, t.prot, t.dsp, t.dio, t.aio, t.can, t.net, t.nvs, t.log, t.sec, t.upd, t.locks, t.regs, t.cfg, t.resp, t.freeCtr, t.pending)) s (State.putCompletion s n d tag status result flags) := by
  unfold State.putCompletion
  (try dsimp only)
  (repeat' split) <;> simp [Same]

@[simp] theorem State.putCompletion_frame (s : State) (n : Nat) (d : List Byte) (tag status result flags : Nat) :
    (State.putCompletion s n d tag status result flags).sys = s.sys ∧
    (State.putCompletion s n d tag status result flags).pwr = s.pwr ∧
    (State.putCompletion s n d tag status result flags).tb = s.tb ∧
    (State.putCompletion s n d tag status result flags).rtc = s.rtc ∧
    (State.putCompletion s n d tag status result flags).wb = s.wb ∧
    (State.putCompletion s n d tag status result flags).core = s.core ∧
    (State.putCompletion s n d tag status result flags).dbg = s.dbg ∧
    (State.putCompletion s n d tag status result flags).prg = s.prg ∧
    (State.putCompletion s n d tag status result flags).loop = s.loop ∧
    (State.putCompletion s n d tag status result flags).slk = s.slk ∧
    (State.putCompletion s n d tag status result flags).est = s.est ∧
    (State.putCompletion s n d tag status result flags).prot = s.prot ∧
    (State.putCompletion s n d tag status result flags).dsp = s.dsp ∧
    (State.putCompletion s n d tag status result flags).dio = s.dio ∧
    (State.putCompletion s n d tag status result flags).aio = s.aio ∧
    (State.putCompletion s n d tag status result flags).can = s.can ∧
    (State.putCompletion s n d tag status result flags).net = s.net ∧
    (State.putCompletion s n d tag status result flags).nvs = s.nvs ∧
    (State.putCompletion s n d tag status result flags).log = s.log ∧
    (State.putCompletion s n d tag status result flags).sec = s.sec ∧
    (State.putCompletion s n d tag status result flags).upd = s.upd ∧
    (State.putCompletion s n d tag status result flags).locks = s.locks ∧
    (State.putCompletion s n d tag status result flags).regs = s.regs ∧
    (State.putCompletion s n d tag status result flags).cfg = s.cfg ∧
    (State.putCompletion s n d tag status result flags).resp = s.resp ∧
    (State.putCompletion s n d tag status result flags).freeCtr = s.freeCtr ∧
    (State.putCompletion s n d tag status result flags).pending = s.pending := by
  simpa [Same] using State.putCompletion_same s n d tag status result flags

theorem State.writeCompletion_same (s : State) (n : Nat) (d : List Byte) (tag status result flags : Nat) :
    Same (fun t => (t.sys, t.pwr, t.tb, t.rtc, t.wb, t.core, t.dbg, t.prg, t.loop, t.slk, t.est, t.prot, t.dsp, t.dio, t.aio, t.can, t.net, t.nvs, t.log, t.sec, t.upd, t.locks, t.regs, t.cfg, t.resp, t.freeCtr, t.pending)) s (State.writeCompletion s n d tag status result flags) := by
  unfold State.writeCompletion
  (try dsimp only)
  (repeat' split) <;> simp [Same]

@[simp] theorem State.writeCompletion_frame (s : State) (n : Nat) (d : List Byte) (tag status result flags : Nat) :
    (State.writeCompletion s n d tag status result flags).sys = s.sys ∧
    (State.writeCompletion s n d tag status result flags).pwr = s.pwr ∧
    (State.writeCompletion s n d tag status result flags).tb = s.tb ∧
    (State.writeCompletion s n d tag status result flags).rtc = s.rtc ∧
    (State.writeCompletion s n d tag status result flags).wb = s.wb ∧
    (State.writeCompletion s n d tag status result flags).core = s.core ∧
    (State.writeCompletion s n d tag status result flags).dbg = s.dbg ∧
    (State.writeCompletion s n d tag status result flags).prg = s.prg ∧
    (State.writeCompletion s n d tag status result flags).loop = s.loop ∧
    (State.writeCompletion s n d tag status result flags).slk = s.slk ∧
    (State.writeCompletion s n d tag status result flags).est = s.est ∧
    (State.writeCompletion s n d tag status result flags).prot = s.prot ∧
    (State.writeCompletion s n d tag status result flags).dsp = s.dsp ∧
    (State.writeCompletion s n d tag status result flags).dio = s.dio ∧
    (State.writeCompletion s n d tag status result flags).aio = s.aio ∧
    (State.writeCompletion s n d tag status result flags).can = s.can ∧
    (State.writeCompletion s n d tag status result flags).net = s.net ∧
    (State.writeCompletion s n d tag status result flags).nvs = s.nvs ∧
    (State.writeCompletion s n d tag status result flags).log = s.log ∧
    (State.writeCompletion s n d tag status result flags).sec = s.sec ∧
    (State.writeCompletion s n d tag status result flags).upd = s.upd ∧
    (State.writeCompletion s n d tag status result flags).locks = s.locks ∧
    (State.writeCompletion s n d tag status result flags).regs = s.regs ∧
    (State.writeCompletion s n d tag status result flags).cfg = s.cfg ∧
    (State.writeCompletion s n d tag status result flags).resp = s.resp ∧
    (State.writeCompletion s n d tag status result flags).freeCtr = s.freeCtr ∧
    (State.writeCompletion s n d tag status result flags).pending = s.pending := by
  simpa [Same] using State.writeCompletion_same s n d tag status result flags

theorem State.putHeld_same (s : State) (n : Nat) (a0 : List HeldEntry) :
    Same (fun t => (t.sys, t.pwr, t.tb, t.rtc, t.wb, t.core, t.dbg, t.prg, t.loop, t.slk, t.est, t.prot, t.dsp, t.dio, t.aio, t.can, t.net, t.nvs, t.log, t.sec, t.upd, t.locks, t.regs, t.cfg, t.resp, t.freeCtr, t.pending)) s (State.putHeld s n a0) := by
  simp only [Same]
  induction a0 generalizing s n with
  | nil => simp [State.putHeld]
  | cons y ys ih =>
    rw [State.putHeld]
    (try dsimp only)
    (repeat' split) <;> simp [ih]

@[simp] theorem State.putHeld_frame (s : State) (n : Nat) (a0 : List HeldEntry) :
    (State.putHeld s n a0).sys = s.sys ∧ (State.putHeld s n a0).pwr = s.pwr ∧ (State.putHeld s n a0).tb = s.tb ∧
    (State.putHeld s n a0).rtc = s.rtc ∧ (State.putHeld s n a0).wb = s.wb ∧ (State.putHeld s n a0).core = s.core ∧
    (State.putHeld s n a0).dbg = s.dbg ∧ (State.putHeld s n a0).prg = s.prg ∧ (State.putHeld s n a0).loop = s.loop ∧
    (State.putHeld s n a0).slk = s.slk ∧ (State.putHeld s n a0).est = s.est ∧ (State.putHeld s n a0).prot = s.prot ∧
    (State.putHeld s n a0).dsp = s.dsp ∧ (State.putHeld s n a0).dio = s.dio ∧ (State.putHeld s n a0).aio = s.aio ∧
    (State.putHeld s n a0).can = s.can ∧ (State.putHeld s n a0).net = s.net ∧ (State.putHeld s n a0).nvs = s.nvs ∧
    (State.putHeld s n a0).log = s.log ∧ (State.putHeld s n a0).sec = s.sec ∧ (State.putHeld s n a0).upd = s.upd ∧
    (State.putHeld s n a0).locks = s.locks ∧ (State.putHeld s n a0).regs = s.regs ∧ (State.putHeld s n a0).cfg = s.cfg ∧
    (State.putHeld s n a0).resp = s.resp ∧ (State.putHeld s n a0).freeCtr = s.freeCtr ∧
    (State.putHeld s n a0).pending = s.pending := by
  simpa [Same] using State.putHeld_same s n a0

theorem State.setOp_same (s : State) (w : WorkRef) (f : Op → Op) :
    Same (fun t => (t.sys, t.pwr, t.tb, t.rtc, t.evt, t.wb, t.core, t.dbg, t.prg, t.loop, t.slk, t.est, t.prot, t.dsp, t.dio, t.aio, t.can, t.net, t.nvs, t.log, t.sec, t.upd, t.locks, t.regs, t.mem, t.cfg, t.resp, t.out, t.freeCtr, t.pending)) s (State.setOp s w f) := by
  unfold State.setOp
  (try dsimp only)
  (repeat' split) <;> simp [Same]

@[simp] theorem State.setOp_frame (s : State) (w : WorkRef) (f : Op → Op) :
    (State.setOp s w f).sys = s.sys ∧ (State.setOp s w f).pwr = s.pwr ∧ (State.setOp s w f).tb = s.tb ∧
    (State.setOp s w f).rtc = s.rtc ∧ (State.setOp s w f).evt = s.evt ∧ (State.setOp s w f).wb = s.wb ∧
    (State.setOp s w f).core = s.core ∧ (State.setOp s w f).dbg = s.dbg ∧ (State.setOp s w f).prg = s.prg ∧
    (State.setOp s w f).loop = s.loop ∧ (State.setOp s w f).slk = s.slk ∧ (State.setOp s w f).est = s.est ∧
    (State.setOp s w f).prot = s.prot ∧ (State.setOp s w f).dsp = s.dsp ∧ (State.setOp s w f).dio = s.dio ∧
    (State.setOp s w f).aio = s.aio ∧ (State.setOp s w f).can = s.can ∧ (State.setOp s w f).net = s.net ∧
    (State.setOp s w f).nvs = s.nvs ∧ (State.setOp s w f).log = s.log ∧ (State.setOp s w f).sec = s.sec ∧
    (State.setOp s w f).upd = s.upd ∧ (State.setOp s w f).locks = s.locks ∧ (State.setOp s w f).regs = s.regs ∧
    (State.setOp s w f).mem = s.mem ∧ (State.setOp s w f).cfg = s.cfg ∧ (State.setOp s w f).resp = s.resp ∧
    (State.setOp s w f).out = s.out ∧ (State.setOp s w f).freeCtr = s.freeCtr ∧ (State.setOp s w f).pending = s.pending := by
  simpa [Same] using State.setOp_same s w f

theorem State.writeBuf_same (s : State) (op : Op) (off : Nat) (b : List Byte) :
    Same (fun t => (t.sys, t.pwr, t.tb, t.rtc, t.hq, t.evt, t.wb, t.core, t.dbg, t.prg, t.loop, t.slk, t.est, t.prot, t.dsp, t.dio, t.aio, t.can, t.net, t.nvs, t.log, t.sec, t.upd, t.locks, t.regs, t.cfg, t.resp, t.out, t.freeCtr, t.pending)) s (State.writeBuf s op off b) := by
  unfold State.writeBuf
  (try dsimp only)
  (repeat' split) <;> simp [Same]

@[simp] theorem State.writeBuf_frame (s : State) (op : Op) (off : Nat) (b : List Byte) :
    (State.writeBuf s op off b).sys = s.sys ∧ (State.writeBuf s op off b).pwr = s.pwr ∧ (State.writeBuf s op off b).tb = s.tb ∧
    (State.writeBuf s op off b).rtc = s.rtc ∧ (State.writeBuf s op off b).hq = s.hq ∧ (State.writeBuf s op off b).evt = s.evt ∧
    (State.writeBuf s op off b).wb = s.wb ∧ (State.writeBuf s op off b).core = s.core ∧
    (State.writeBuf s op off b).dbg = s.dbg ∧ (State.writeBuf s op off b).prg = s.prg ∧
    (State.writeBuf s op off b).loop = s.loop ∧ (State.writeBuf s op off b).slk = s.slk ∧
    (State.writeBuf s op off b).est = s.est ∧ (State.writeBuf s op off b).prot = s.prot ∧
    (State.writeBuf s op off b).dsp = s.dsp ∧ (State.writeBuf s op off b).dio = s.dio ∧
    (State.writeBuf s op off b).aio = s.aio ∧ (State.writeBuf s op off b).can = s.can ∧
    (State.writeBuf s op off b).net = s.net ∧ (State.writeBuf s op off b).nvs = s.nvs ∧
    (State.writeBuf s op off b).log = s.log ∧ (State.writeBuf s op off b).sec = s.sec ∧
    (State.writeBuf s op off b).upd = s.upd ∧ (State.writeBuf s op off b).locks = s.locks ∧
    (State.writeBuf s op off b).regs = s.regs ∧ (State.writeBuf s op off b).cfg = s.cfg ∧
    (State.writeBuf s op off b).resp = s.resp ∧ (State.writeBuf s op off b).out = s.out ∧
    (State.writeBuf s op off b).freeCtr = s.freeCtr ∧ (State.writeBuf s op off b).pending = s.pending := by
  simpa [Same] using State.writeBuf_same s op off b

theorem State.writeRes_same (s : State) (op : Op) (off : Nat) (b : List Byte) :
    Same (fun t => (t.sys, t.pwr, t.tb, t.rtc, t.hq, t.evt, t.wb, t.core, t.dbg, t.prg, t.loop, t.slk, t.est, t.prot, t.dsp, t.dio, t.aio, t.can, t.net, t.nvs, t.log, t.sec, t.upd, t.locks, t.regs, t.cfg, t.resp, t.out, t.freeCtr, t.pending)) s (State.writeRes s op off b) := by
  unfold State.writeRes
  (try dsimp only)
  (repeat' split) <;> simp [Same]

@[simp] theorem State.writeRes_frame (s : State) (op : Op) (off : Nat) (b : List Byte) :
    (State.writeRes s op off b).sys = s.sys ∧ (State.writeRes s op off b).pwr = s.pwr ∧ (State.writeRes s op off b).tb = s.tb ∧
    (State.writeRes s op off b).rtc = s.rtc ∧ (State.writeRes s op off b).hq = s.hq ∧ (State.writeRes s op off b).evt = s.evt ∧
    (State.writeRes s op off b).wb = s.wb ∧ (State.writeRes s op off b).core = s.core ∧
    (State.writeRes s op off b).dbg = s.dbg ∧ (State.writeRes s op off b).prg = s.prg ∧
    (State.writeRes s op off b).loop = s.loop ∧ (State.writeRes s op off b).slk = s.slk ∧
    (State.writeRes s op off b).est = s.est ∧ (State.writeRes s op off b).prot = s.prot ∧
    (State.writeRes s op off b).dsp = s.dsp ∧ (State.writeRes s op off b).dio = s.dio ∧
    (State.writeRes s op off b).aio = s.aio ∧ (State.writeRes s op off b).can = s.can ∧
    (State.writeRes s op off b).net = s.net ∧ (State.writeRes s op off b).nvs = s.nvs ∧
    (State.writeRes s op off b).log = s.log ∧ (State.writeRes s op off b).sec = s.sec ∧
    (State.writeRes s op off b).upd = s.upd ∧ (State.writeRes s op off b).locks = s.locks ∧
    (State.writeRes s op off b).regs = s.regs ∧ (State.writeRes s op off b).cfg = s.cfg ∧
    (State.writeRes s op off b).resp = s.resp ∧ (State.writeRes s op off b).out = s.out ∧
    (State.writeRes s op off b).freeCtr = s.freeCtr ∧ (State.writeRes s op off b).pending = s.pending := by
  simpa [Same] using State.writeRes_same s op off b

theorem State.lastProgress_same (s : State) (op : Op) (status : Nat) :
    Same (fun t => (t.sys, t.pwr, t.tb, t.rtc, t.hq, t.evt, t.wb, t.core, t.dbg, t.prg, t.loop, t.slk, t.est, t.prot, t.dsp, t.dio, t.aio, t.can, t.net, t.nvs, t.log, t.sec, t.upd, t.locks, t.regs, t.cfg, t.resp, t.out, t.freeCtr, t.pending)) s (State.lastProgress s op status) := by
  unfold State.lastProgress
  (try dsimp only)
  (repeat' split) <;> simp [Same]

@[simp] theorem State.lastProgress_frame (s : State) (op : Op) (status : Nat) :
    (State.lastProgress s op status).sys = s.sys ∧ (State.lastProgress s op status).pwr = s.pwr ∧
    (State.lastProgress s op status).tb = s.tb ∧ (State.lastProgress s op status).rtc = s.rtc ∧
    (State.lastProgress s op status).hq = s.hq ∧ (State.lastProgress s op status).evt = s.evt ∧
    (State.lastProgress s op status).wb = s.wb ∧ (State.lastProgress s op status).core = s.core ∧
    (State.lastProgress s op status).dbg = s.dbg ∧ (State.lastProgress s op status).prg = s.prg ∧
    (State.lastProgress s op status).loop = s.loop ∧ (State.lastProgress s op status).slk = s.slk ∧
    (State.lastProgress s op status).est = s.est ∧ (State.lastProgress s op status).prot = s.prot ∧
    (State.lastProgress s op status).dsp = s.dsp ∧ (State.lastProgress s op status).dio = s.dio ∧
    (State.lastProgress s op status).aio = s.aio ∧ (State.lastProgress s op status).can = s.can ∧
    (State.lastProgress s op status).net = s.net ∧ (State.lastProgress s op status).nvs = s.nvs ∧
    (State.lastProgress s op status).log = s.log ∧ (State.lastProgress s op status).sec = s.sec ∧
    (State.lastProgress s op status).upd = s.upd ∧ (State.lastProgress s op status).locks = s.locks ∧
    (State.lastProgress s op status).regs = s.regs ∧ (State.lastProgress s op status).cfg = s.cfg ∧
    (State.lastProgress s op status).resp = s.resp ∧ (State.lastProgress s op status).out = s.out ∧
    (State.lastProgress s op status).freeCtr = s.freeCtr ∧ (State.lastProgress s op status).pending = s.pending := by
  simpa [Same] using State.lastProgress_same s op status

theorem State.finish_same (s : State) (op : Op) (status0 result0 : Nat) (data0 : List Byte) :
    Same (fun t => (t.pwr, t.tb, t.rtc, t.core, t.dbg, t.prg, t.loop, t.slk, t.est, t.prot, t.dsp, t.dio, t.aio, t.can, t.net, t.nvs, t.sec, t.upd, t.locks, t.regs, t.cfg, t.resp, t.freeCtr, t.pending)) s (State.finish s op status0 result0 data0) := by
  unfold State.finish
  (try dsimp only)
  (repeat' split) <;> simp [Same]

@[simp] theorem State.finish_frame (s : State) (op : Op) (status0 result0 : Nat) (data0 : List Byte) :
    (State.finish s op status0 result0 data0).pwr = s.pwr ∧ (State.finish s op status0 result0 data0).tb = s.tb ∧
    (State.finish s op status0 result0 data0).rtc = s.rtc ∧ (State.finish s op status0 result0 data0).core = s.core ∧
    (State.finish s op status0 result0 data0).dbg = s.dbg ∧ (State.finish s op status0 result0 data0).prg = s.prg ∧
    (State.finish s op status0 result0 data0).loop = s.loop ∧ (State.finish s op status0 result0 data0).slk = s.slk ∧
    (State.finish s op status0 result0 data0).est = s.est ∧ (State.finish s op status0 result0 data0).prot = s.prot ∧
    (State.finish s op status0 result0 data0).dsp = s.dsp ∧ (State.finish s op status0 result0 data0).dio = s.dio ∧
    (State.finish s op status0 result0 data0).aio = s.aio ∧ (State.finish s op status0 result0 data0).can = s.can ∧
    (State.finish s op status0 result0 data0).net = s.net ∧ (State.finish s op status0 result0 data0).nvs = s.nvs ∧
    (State.finish s op status0 result0 data0).sec = s.sec ∧ (State.finish s op status0 result0 data0).upd = s.upd ∧
    (State.finish s op status0 result0 data0).locks = s.locks ∧ (State.finish s op status0 result0 data0).regs = s.regs ∧
    (State.finish s op status0 result0 data0).cfg = s.cfg ∧ (State.finish s op status0 result0 data0).resp = s.resp ∧
    (State.finish s op status0 result0 data0).freeCtr = s.freeCtr ∧
    (State.finish s op status0 result0 data0).pending = s.pending := by
  simpa [Same] using State.finish_same s op status0 result0 data0

end Sys2Proof.Machine
end

