-- ==== Sys2Proof/Laws/Frame/Queues.lean ====
section
/-! SUPPORT. The parts of the state that operations of Machine/Queues.lean leave as they are. -/

namespace Sys2Proof.Machine

theorem State.refuseHq_same (s : State) (q : Requester) (n : Nat) :
    Same (fun t => (t.pwr, t.tb, t.rtc, t.hq, t.wb, t.core, t.dbg, t.prg, t.loop, t.slk, t.est, t.prot, t.dsp, t.dio, t.aio, t.can, t.net, t.nvs, t.sec, t.upd, t.locks, t.regs, t.cfg, t.resp, t.freeCtr, t.pending)) s (State.refuseHq s q n) := by
  unfold State.refuseHq
  (try dsimp only)
  (repeat' split) <;> simp [Same]

@[simp] theorem State.refuseHq_frame (s : State) (q : Requester) (n : Nat) :
    (State.refuseHq s q n).pwr = s.pwr ∧ (State.refuseHq s q n).tb = s.tb ∧ (State.refuseHq s q n).rtc = s.rtc ∧
    (State.refuseHq s q n).hq = s.hq ∧ (State.refuseHq s q n).wb = s.wb ∧ (State.refuseHq s q n).core = s.core ∧
    (State.refuseHq s q n).dbg = s.dbg ∧ (State.refuseHq s q n).prg = s.prg ∧ (State.refuseHq s q n).loop = s.loop ∧
    (State.refuseHq s q n).slk = s.slk ∧ (State.refuseHq s q n).est = s.est ∧ (State.refuseHq s q n).prot = s.prot ∧
    (State.refuseHq s q n).dsp = s.dsp ∧ (State.refuseHq s q n).dio = s.dio ∧ (State.refuseHq s q n).aio = s.aio ∧
    (State.refuseHq s q n).can = s.can ∧ (State.refuseHq s q n).net = s.net ∧ (State.refuseHq s q n).nvs = s.nvs ∧
    (State.refuseHq s q n).sec = s.sec ∧ (State.refuseHq s q n).upd = s.upd ∧ (State.refuseHq s q n).locks = s.locks ∧
    (State.refuseHq s q n).regs = s.regs ∧ (State.refuseHq s q n).cfg = s.cfg ∧ (State.refuseHq s q n).resp = s.resp ∧
    (State.refuseHq s q n).freeCtr = s.freeCtr ∧ (State.refuseHq s q n).pending = s.pending := by
  simpa [Same] using State.refuseHq_same s q n

theorem State.completeFetched_same (s : State) (n status : Nat) (a0 : List Fetched) :
    Same (fun t => (t.sys, t.pwr, t.tb, t.rtc, t.wb, t.core, t.dbg, t.prg, t.loop, t.slk, t.est, t.prot, t.dsp, t.dio, t.aio, t.can, t.net, t.nvs, t.log, t.sec, t.upd, t.locks, t.regs, t.cfg, t.resp, t.freeCtr, t.pending)) s (State.completeFetched s n status a0) := by
  simp only [Same]
  induction a0 generalizing s n status with
  | nil => simp [State.completeFetched]
  | cons y ys ih =>
    rw [State.completeFetched]
    (try dsimp only)
    (repeat' split) <;> simp [ih]

@[simp] theorem State.completeFetched_frame (s : State) (n status : Nat) (a0 : List Fetched) :
    (State.completeFetched s n status a0).sys = s.sys ∧ (State.completeFetched s n status a0).pwr = s.pwr ∧
    (State.completeFetched s n status a0).tb = s.tb ∧ (State.completeFetched s n status a0).rtc = s.rtc ∧
    (State.completeFetched s n status a0).wb = s.wb ∧ (State.completeFetched s n status a0).core = s.core ∧
    (State.completeFetched s n status a0).dbg = s.dbg ∧ (State.completeFetched s n status a0).prg = s.prg ∧
    (State.completeFetched s n status a0).loop = s.loop ∧ (State.completeFetched s n status a0).slk = s.slk ∧
    (State.completeFetched s n status a0).est = s.est ∧ (State.completeFetched s n status a0).prot = s.prot ∧
    (State.completeFetched s n status a0).dsp = s.dsp ∧ (State.completeFetched s n status a0).dio = s.dio ∧
    (State.completeFetched s n status a0).aio = s.aio ∧ (State.completeFetched s n status a0).can = s.can ∧
    (State.completeFetched s n status a0).net = s.net ∧ (State.completeFetched s n status a0).nvs = s.nvs ∧
    (State.completeFetched s n status a0).log = s.log ∧ (State.completeFetched s n status a0).sec = s.sec ∧
    (State.completeFetched s n status a0).upd = s.upd ∧ (State.completeFetched s n status a0).locks = s.locks ∧
    (State.completeFetched s n status a0).regs = s.regs ∧ (State.completeFetched s n status a0).cfg = s.cfg ∧
    (State.completeFetched s n status a0).resp = s.resp ∧ (State.completeFetched s n status a0).freeCtr = s.freeCtr ∧
    (State.completeFetched s n status a0).pending = s.pending := by
  simpa [Same] using State.completeFetched_same s n status a0

theorem State.completeOps_same (s : State) (status : Nat) (a0 : List Op) :
    Same (fun t => (t.sys, t.pwr, t.tb, t.rtc, t.wb, t.core, t.dbg, t.prg, t.loop, t.slk, t.est, t.prot, t.dsp, t.dio, t.aio, t.can, t.net, t.nvs, t.log, t.sec, t.upd, t.locks, t.regs, t.cfg, t.resp, t.freeCtr, t.pending)) s (State.completeOps s status a0) := by
  simp only [Same]
  induction a0 generalizing s status with
  | nil => simp [State.completeOps]
  | cons y ys ih =>
    rw [State.completeOps]
    (try dsimp only)
    (repeat' split) <;> simp [ih]

@[simp] theorem State.completeOps_frame (s : State) (status : Nat) (a0 : List Op) :
    (State.completeOps s status a0).sys = s.sys ∧ (State.completeOps s status a0).pwr = s.pwr ∧
    (State.completeOps s status a0).tb = s.tb ∧ (State.completeOps s status a0).rtc = s.rtc ∧
    (State.completeOps s status a0).wb = s.wb ∧ (State.completeOps s status a0).core = s.core ∧
    (State.completeOps s status a0).dbg = s.dbg ∧ (State.completeOps s status a0).prg = s.prg ∧
    (State.completeOps s status a0).loop = s.loop ∧ (State.completeOps s status a0).slk = s.slk ∧
    (State.completeOps s status a0).est = s.est ∧ (State.completeOps s status a0).prot = s.prot ∧
    (State.completeOps s status a0).dsp = s.dsp ∧ (State.completeOps s status a0).dio = s.dio ∧
    (State.completeOps s status a0).aio = s.aio ∧ (State.completeOps s status a0).can = s.can ∧
    (State.completeOps s status a0).net = s.net ∧ (State.completeOps s status a0).nvs = s.nvs ∧
    (State.completeOps s status a0).log = s.log ∧ (State.completeOps s status a0).sec = s.sec ∧
    (State.completeOps s status a0).upd = s.upd ∧ (State.completeOps s status a0).locks = s.locks ∧
    (State.completeOps s status a0).regs = s.regs ∧ (State.completeOps s status a0).cfg = s.cfg ∧
    (State.completeOps s status a0).resp = s.resp ∧ (State.completeOps s status a0).freeCtr = s.freeCtr ∧
    (State.completeOps s status a0).pending = s.pending := by
  simpa [Same] using State.completeOps_same s status a0

theorem State.cancelRing_same (s : State) (n status : Nat) :
    Same (fun t => (t.sys, t.pwr, t.tb, t.rtc, t.wb, t.core, t.dbg, t.prg, t.loop, t.slk, t.est, t.prot, t.dsp, t.dio, t.aio, t.can, t.net, t.nvs, t.log, t.sec, t.upd, t.locks, t.regs, t.cfg, t.resp, t.freeCtr, t.pending)) s (State.cancelRing s n status) := by
  unfold State.cancelRing
  (try dsimp only)
  (repeat' split) <;> simp [Same]

@[simp] theorem State.cancelRing_frame (s : State) (n status : Nat) :
    (State.cancelRing s n status).sys = s.sys ∧ (State.cancelRing s n status).pwr = s.pwr ∧
    (State.cancelRing s n status).tb = s.tb ∧ (State.cancelRing s n status).rtc = s.rtc ∧
    (State.cancelRing s n status).wb = s.wb ∧ (State.cancelRing s n status).core = s.core ∧
    (State.cancelRing s n status).dbg = s.dbg ∧ (State.cancelRing s n status).prg = s.prg ∧
    (State.cancelRing s n status).loop = s.loop ∧ (State.cancelRing s n status).slk = s.slk ∧
    (State.cancelRing s n status).est = s.est ∧ (State.cancelRing s n status).prot = s.prot ∧
    (State.cancelRing s n status).dsp = s.dsp ∧ (State.cancelRing s n status).dio = s.dio ∧
    (State.cancelRing s n status).aio = s.aio ∧ (State.cancelRing s n status).can = s.can ∧
    (State.cancelRing s n status).net = s.net ∧ (State.cancelRing s n status).nvs = s.nvs ∧
    (State.cancelRing s n status).log = s.log ∧ (State.cancelRing s n status).sec = s.sec ∧
    (State.cancelRing s n status).upd = s.upd ∧ (State.cancelRing s n status).locks = s.locks ∧
    (State.cancelRing s n status).regs = s.regs ∧ (State.cancelRing s n status).cfg = s.cfg ∧
    (State.cancelRing s n status).resp = s.resp ∧ (State.cancelRing s n status).freeCtr = s.freeCtr ∧
    (State.cancelRing s n status).pending = s.pending := by
  simpa [Same] using State.cancelRing_same s n status

theorem State.hqCtrlFields_same (s : State) (q : Requester) (n : Nat) (v : Nat) :
    Same (fun t => (t.pwr, t.tb, t.rtc, t.wb, t.core, t.dbg, t.prg, t.loop, t.slk, t.est, t.prot, t.dsp, t.dio, t.aio, t.can, t.net, t.nvs, t.sec, t.upd, t.locks, t.regs, t.cfg, t.resp, t.freeCtr, t.pending)) s (State.hqCtrlFields s q n v) := by
  unfold State.hqCtrlFields
  (try dsimp only)
  (repeat' split) <;> simp [Same]

@[simp] theorem State.hqCtrlFields_frame (s : State) (q : Requester) (n : Nat) (v : Nat) :
    (State.hqCtrlFields s q n v).pwr = s.pwr ∧ (State.hqCtrlFields s q n v).tb = s.tb ∧
    (State.hqCtrlFields s q n v).rtc = s.rtc ∧ (State.hqCtrlFields s q n v).wb = s.wb ∧
    (State.hqCtrlFields s q n v).core = s.core ∧ (State.hqCtrlFields s q n v).dbg = s.dbg ∧
    (State.hqCtrlFields s q n v).prg = s.prg ∧ (State.hqCtrlFields s q n v).loop = s.loop ∧
    (State.hqCtrlFields s q n v).slk = s.slk ∧ (State.hqCtrlFields s q n v).est = s.est ∧
    (State.hqCtrlFields s q n v).prot = s.prot ∧ (State.hqCtrlFields s q n v).dsp = s.dsp ∧
    (State.hqCtrlFields s q n v).dio = s.dio ∧ (State.hqCtrlFields s q n v).aio = s.aio ∧
    (State.hqCtrlFields s q n v).can = s.can ∧ (State.hqCtrlFields s q n v).net = s.net ∧
    (State.hqCtrlFields s q n v).nvs = s.nvs ∧ (State.hqCtrlFields s q n v).sec = s.sec ∧
    (State.hqCtrlFields s q n v).upd = s.upd ∧ (State.hqCtrlFields s q n v).locks = s.locks ∧
    (State.hqCtrlFields s q n v).regs = s.regs ∧ (State.hqCtrlFields s q n v).cfg = s.cfg ∧
    (State.hqCtrlFields s q n v).resp = s.resp ∧ (State.hqCtrlFields s q n v).freeCtr = s.freeCtr ∧
    (State.hqCtrlFields s q n v).pending = s.pending := by
  simpa [Same] using State.hqCtrlFields_same s q n v

theorem State.claimRing_same (s : State) (q : Requester) (n : Nat) (v : Nat) :
    Same (fun t => (t.pwr, t.tb, t.rtc, t.wb, t.core, t.dbg, t.prg, t.loop, t.slk, t.est, t.prot, t.dsp, t.dio, t.aio, t.can, t.net, t.nvs, t.sec, t.upd, t.locks, t.regs, t.cfg, t.resp, t.freeCtr, t.pending)) s (State.claimRing s q n v) := by
  unfold State.claimRing
  (try dsimp only)
  (repeat' split) <;> simp [Same]

@[simp] theorem State.claimRing_frame (s : State) (q : Requester) (n : Nat) (v : Nat) :
    (State.claimRing s q n v).pwr = s.pwr ∧ (State.claimRing s q n v).tb = s.tb ∧ (State.claimRing s q n v).rtc = s.rtc ∧
    (State.claimRing s q n v).wb = s.wb ∧ (State.claimRing s q n v).core = s.core ∧ (State.claimRing s q n v).dbg = s.dbg ∧
    (State.claimRing s q n v).prg = s.prg ∧ (State.claimRing s q n v).loop = s.loop ∧ (State.claimRing s q n v).slk = s.slk ∧
    (State.claimRing s q n v).est = s.est ∧ (State.claimRing s q n v).prot = s.prot ∧ (State.claimRing s q n v).dsp = s.dsp ∧
    (State.claimRing s q n v).dio = s.dio ∧ (State.claimRing s q n v).aio = s.aio ∧ (State.claimRing s q n v).can = s.can ∧
    (State.claimRing s q n v).net = s.net ∧ (State.claimRing s q n v).nvs = s.nvs ∧ (State.claimRing s q n v).sec = s.sec ∧
    (State.claimRing s q n v).upd = s.upd ∧ (State.claimRing s q n v).locks = s.locks ∧
    (State.claimRing s q n v).regs = s.regs ∧ (State.claimRing s q n v).cfg = s.cfg ∧ (State.claimRing s q n v).resp = s.resp ∧
    (State.claimRing s q n v).freeCtr = s.freeCtr ∧ (State.claimRing s q n v).pending = s.pending := by
  simpa [Same] using State.claimRing_same s q n v

theorem State.releaseRing_same (s : State) (q : Requester) (n : Nat) :
    Same (fun t => (t.pwr, t.tb, t.rtc, t.wb, t.core, t.dbg, t.prg, t.loop, t.slk, t.est, t.prot, t.dsp, t.dio, t.aio, t.can, t.net, t.nvs, t.sec, t.upd, t.locks, t.regs, t.cfg, t.resp, t.freeCtr, t.pending)) s (State.releaseRing s q n) := by
  unfold State.releaseRing
  (try dsimp only)
  (repeat' split) <;> simp [Same]

@[simp] theorem State.releaseRing_frame (s : State) (q : Requester) (n : Nat) :
    (State.releaseRing s q n).pwr = s.pwr ∧ (State.releaseRing s q n).tb = s.tb ∧ (State.releaseRing s q n).rtc = s.rtc ∧
    (State.releaseRing s q n).wb = s.wb ∧ (State.releaseRing s q n).core = s.core ∧ (State.releaseRing s q n).dbg = s.dbg ∧
    (State.releaseRing s q n).prg = s.prg ∧ (State.releaseRing s q n).loop = s.loop ∧ (State.releaseRing s q n).slk = s.slk ∧
    (State.releaseRing s q n).est = s.est ∧ (State.releaseRing s q n).prot = s.prot ∧ (State.releaseRing s q n).dsp = s.dsp ∧
    (State.releaseRing s q n).dio = s.dio ∧ (State.releaseRing s q n).aio = s.aio ∧ (State.releaseRing s q n).can = s.can ∧
    (State.releaseRing s q n).net = s.net ∧ (State.releaseRing s q n).nvs = s.nvs ∧ (State.releaseRing s q n).sec = s.sec ∧
    (State.releaseRing s q n).upd = s.upd ∧ (State.releaseRing s q n).locks = s.locks ∧
    (State.releaseRing s q n).regs = s.regs ∧ (State.releaseRing s q n).cfg = s.cfg ∧ (State.releaseRing s q n).resp = s.resp ∧
    (State.releaseRing s q n).freeCtr = s.freeCtr ∧ (State.releaseRing s q n).pending = s.pending := by
  simpa [Same] using State.releaseRing_same s q n

theorem State.writeHqCtrl_same (s : State) (q : Requester) (n : Nat) (v : Nat) :
    Same (fun t => (t.pwr, t.tb, t.rtc, t.wb, t.core, t.dbg, t.prg, t.loop, t.slk, t.est, t.prot, t.dsp, t.dio, t.aio, t.can, t.net, t.nvs, t.sec, t.upd, t.locks, t.regs, t.cfg, t.resp, t.freeCtr, t.pending)) s (State.writeHqCtrl s q n v) := by
  unfold State.writeHqCtrl
  (try dsimp only)
  (repeat' split) <;> simp [Same]

@[simp] theorem State.writeHqCtrl_frame (s : State) (q : Requester) (n : Nat) (v : Nat) :
    (State.writeHqCtrl s q n v).pwr = s.pwr ∧ (State.writeHqCtrl s q n v).tb = s.tb ∧ (State.writeHqCtrl s q n v).rtc = s.rtc ∧
    (State.writeHqCtrl s q n v).wb = s.wb ∧ (State.writeHqCtrl s q n v).core = s.core ∧
    (State.writeHqCtrl s q n v).dbg = s.dbg ∧ (State.writeHqCtrl s q n v).prg = s.prg ∧
    (State.writeHqCtrl s q n v).loop = s.loop ∧ (State.writeHqCtrl s q n v).slk = s.slk ∧
    (State.writeHqCtrl s q n v).est = s.est ∧ (State.writeHqCtrl s q n v).prot = s.prot ∧
    (State.writeHqCtrl s q n v).dsp = s.dsp ∧ (State.writeHqCtrl s q n v).dio = s.dio ∧
    (State.writeHqCtrl s q n v).aio = s.aio ∧ (State.writeHqCtrl s q n v).can = s.can ∧
    (State.writeHqCtrl s q n v).net = s.net ∧ (State.writeHqCtrl s q n v).nvs = s.nvs ∧
    (State.writeHqCtrl s q n v).sec = s.sec ∧ (State.writeHqCtrl s q n v).upd = s.upd ∧
    (State.writeHqCtrl s q n v).locks = s.locks ∧ (State.writeHqCtrl s q n v).regs = s.regs ∧
    (State.writeHqCtrl s q n v).cfg = s.cfg ∧ (State.writeHqCtrl s q n v).resp = s.resp ∧
    (State.writeHqCtrl s q n v).freeCtr = s.freeCtr ∧ (State.writeHqCtrl s q n v).pending = s.pending := by
  simpa [Same] using State.writeHqCtrl_same s q n v

theorem State.readDoorbell_same (s : State) (n : Nat) :
    Same (fun t => (t.sys, t.pwr, t.tb, t.rtc, t.wb, t.core, t.dbg, t.prg, t.loop, t.slk, t.est, t.prot, t.dsp, t.dio, t.aio, t.can, t.net, t.nvs, t.log, t.sec, t.upd, t.locks, t.regs, t.cfg, t.resp, t.freeCtr, t.pending)) s (State.readDoorbell s n) := by
  unfold State.readDoorbell
  (try dsimp only)
  (repeat' split) <;> simp [Same]

@[simp] theorem State.readDoorbell_frame (s : State) (n : Nat) :
    (State.readDoorbell s n).sys = s.sys ∧ (State.readDoorbell s n).pwr = s.pwr ∧ (State.readDoorbell s n).tb = s.tb ∧
    (State.readDoorbell s n).rtc = s.rtc ∧ (State.readDoorbell s n).wb = s.wb ∧ (State.readDoorbell s n).core = s.core ∧
    (State.readDoorbell s n).dbg = s.dbg ∧ (State.readDoorbell s n).prg = s.prg ∧ (State.readDoorbell s n).loop = s.loop ∧
    (State.readDoorbell s n).slk = s.slk ∧ (State.readDoorbell s n).est = s.est ∧ (State.readDoorbell s n).prot = s.prot ∧
    (State.readDoorbell s n).dsp = s.dsp ∧ (State.readDoorbell s n).dio = s.dio ∧ (State.readDoorbell s n).aio = s.aio ∧
    (State.readDoorbell s n).can = s.can ∧ (State.readDoorbell s n).net = s.net ∧ (State.readDoorbell s n).nvs = s.nvs ∧
    (State.readDoorbell s n).log = s.log ∧ (State.readDoorbell s n).sec = s.sec ∧ (State.readDoorbell s n).upd = s.upd ∧
    (State.readDoorbell s n).locks = s.locks ∧ (State.readDoorbell s n).regs = s.regs ∧ (State.readDoorbell s n).cfg = s.cfg ∧
    (State.readDoorbell s n).resp = s.resp ∧ (State.readDoorbell s n).freeCtr = s.freeCtr ∧
    (State.readDoorbell s n).pending = s.pending := by
  simpa [Same] using State.readDoorbell_same s n

theorem State.readDoorbells_same (s : State) (p : Nat → Queue → Bool) (a0 : Nat) :
    Same (fun t => (t.sys, t.pwr, t.tb, t.rtc, t.wb, t.core, t.dbg, t.prg, t.loop, t.slk, t.est, t.prot, t.dsp, t.dio, t.aio, t.can, t.net, t.nvs, t.log, t.sec, t.upd, t.locks, t.regs, t.cfg, t.resp, t.freeCtr, t.pending)) s (State.readDoorbells s p a0) := by
  simp only [Same]
  induction a0 generalizing s p with
  | zero => simp [State.readDoorbells]
  | succ y ih =>
    rw [State.readDoorbells]
    (try dsimp only)
    (repeat' split) <;> simp [ih]

@[simp] theorem State.readDoorbells_frame (s : State) (p : Nat → Queue → Bool) (a0 : Nat) :
    (State.readDoorbells s p a0).sys = s.sys ∧ (State.readDoorbells s p a0).pwr = s.pwr ∧
    (State.readDoorbells s p a0).tb = s.tb ∧ (State.readDoorbells s p a0).rtc = s.rtc ∧ (State.readDoorbells s p a0).wb = s.wb ∧
    (State.readDoorbells s p a0).core = s.core ∧ (State.readDoorbells s p a0).dbg = s.dbg ∧
    (State.readDoorbells s p a0).prg = s.prg ∧ (State.readDoorbells s p a0).loop = s.loop ∧
    (State.readDoorbells s p a0).slk = s.slk ∧ (State.readDoorbells s p a0).est = s.est ∧
    (State.readDoorbells s p a0).prot = s.prot ∧ (State.readDoorbells s p a0).dsp = s.dsp ∧
    (State.readDoorbells s p a0).dio = s.dio ∧ (State.readDoorbells s p a0).aio = s.aio ∧
    (State.readDoorbells s p a0).can = s.can ∧ (State.readDoorbells s p a0).net = s.net ∧
    (State.readDoorbells s p a0).nvs = s.nvs ∧ (State.readDoorbells s p a0).log = s.log ∧
    (State.readDoorbells s p a0).sec = s.sec ∧ (State.readDoorbells s p a0).upd = s.upd ∧
    (State.readDoorbells s p a0).locks = s.locks ∧ (State.readDoorbells s p a0).regs = s.regs ∧
    (State.readDoorbells s p a0).cfg = s.cfg ∧ (State.readDoorbells s p a0).resp = s.resp ∧
    (State.readDoorbells s p a0).freeCtr = s.freeCtr ∧ (State.readDoorbells s p a0).pending = s.pending := by
  simpa [Same] using State.readDoorbells_same s p a0

theorem State.fetchDescs_same (s : State) (n : Nat) (a0 : Nat) :
    Same (fun t => (t.sys, t.pwr, t.tb, t.rtc, t.evt, t.wb, t.core, t.dbg, t.prg, t.loop, t.slk, t.est, t.prot, t.dsp, t.dio, t.aio, t.can, t.net, t.nvs, t.log, t.sec, t.upd, t.locks, t.regs, t.mem, t.cfg, t.resp, t.out, t.freeCtr, t.pending)) s (State.fetchDescs s n a0) := by
  simp only [Same]
  induction a0 generalizing s n with
  | zero => simp [State.fetchDescs]
  | succ y ih =>
    rw [State.fetchDescs]
    (try dsimp only)
    (repeat' split) <;> simp [ih]

@[simp] theorem State.fetchDescs_frame (s : State) (n : Nat) (a0 : Nat) :
    (State.fetchDescs s n a0).sys = s.sys ∧ (State.fetchDescs s n a0).pwr = s.pwr ∧ (State.fetchDescs s n a0).tb = s.tb ∧
    (State.fetchDescs s n a0).rtc = s.rtc ∧ (State.fetchDescs s n a0).evt = s.evt ∧ (State.fetchDescs s n a0).wb = s.wb ∧
    (State.fetchDescs s n a0).core = s.core ∧ (State.fetchDescs s n a0).dbg = s.dbg ∧ (State.fetchDescs s n a0).prg = s.prg ∧
    (State.fetchDescs s n a0).loop = s.loop ∧ (State.fetchDescs s n a0).slk = s.slk ∧ (State.fetchDescs s n a0).est = s.est ∧
    (State.fetchDescs s n a0).prot = s.prot ∧ (State.fetchDescs s n a0).dsp = s.dsp ∧ (State.fetchDescs s n a0).dio = s.dio ∧
    (State.fetchDescs s n a0).aio = s.aio ∧ (State.fetchDescs s n a0).can = s.can ∧ (State.fetchDescs s n a0).net = s.net ∧
    (State.fetchDescs s n a0).nvs = s.nvs ∧ (State.fetchDescs s n a0).log = s.log ∧ (State.fetchDescs s n a0).sec = s.sec ∧
    (State.fetchDescs s n a0).upd = s.upd ∧ (State.fetchDescs s n a0).locks = s.locks ∧
    (State.fetchDescs s n a0).regs = s.regs ∧ (State.fetchDescs s n a0).mem = s.mem ∧ (State.fetchDescs s n a0).cfg = s.cfg ∧
    (State.fetchDescs s n a0).resp = s.resp ∧ (State.fetchDescs s n a0).out = s.out ∧
    (State.fetchDescs s n a0).freeCtr = s.freeCtr ∧ (State.fetchDescs s n a0).pending = s.pending := by
  simpa [Same] using State.fetchDescs_same s n a0

theorem State.rememberSubmit_same (s : State) (n id : Nat) (d : List Byte) :
    Same (fun t => (t.sys, t.pwr, t.tb, t.rtc, t.evt, t.wb, t.core, t.dbg, t.prg, t.loop, t.slk, t.est, t.prot, t.dsp, t.dio, t.aio, t.can, t.net, t.nvs, t.log, t.sec, t.upd, t.locks, t.regs, t.mem, t.cfg, t.resp, t.out, t.freeCtr, t.pending)) s (State.rememberSubmit s n id d) := by
  unfold State.rememberSubmit
  (try dsimp only)
  (repeat' split) <;> simp [Same]

@[simp] theorem State.rememberSubmit_frame (s : State) (n id : Nat) (d : List Byte) :
    (State.rememberSubmit s n id d).sys = s.sys ∧ (State.rememberSubmit s n id d).pwr = s.pwr ∧
    (State.rememberSubmit s n id d).tb = s.tb ∧ (State.rememberSubmit s n id d).rtc = s.rtc ∧
    (State.rememberSubmit s n id d).evt = s.evt ∧ (State.rememberSubmit s n id d).wb = s.wb ∧
    (State.rememberSubmit s n id d).core = s.core ∧ (State.rememberSubmit s n id d).dbg = s.dbg ∧
    (State.rememberSubmit s n id d).prg = s.prg ∧ (State.rememberSubmit s n id d).loop = s.loop ∧
    (State.rememberSubmit s n id d).slk = s.slk ∧ (State.rememberSubmit s n id d).est = s.est ∧
    (State.rememberSubmit s n id d).prot = s.prot ∧ (State.rememberSubmit s n id d).dsp = s.dsp ∧
    (State.rememberSubmit s n id d).dio = s.dio ∧ (State.rememberSubmit s n id d).aio = s.aio ∧
    (State.rememberSubmit s n id d).can = s.can ∧ (State.rememberSubmit s n id d).net = s.net ∧
    (State.rememberSubmit s n id d).nvs = s.nvs ∧ (State.rememberSubmit s n id d).log = s.log ∧
    (State.rememberSubmit s n id d).sec = s.sec ∧ (State.rememberSubmit s n id d).upd = s.upd ∧
    (State.rememberSubmit s n id d).locks = s.locks ∧ (State.rememberSubmit s n id d).regs = s.regs ∧
    (State.rememberSubmit s n id d).mem = s.mem ∧ (State.rememberSubmit s n id d).cfg = s.cfg ∧
    (State.rememberSubmit s n id d).resp = s.resp ∧ (State.rememberSubmit s n id d).out = s.out ∧
    (State.rememberSubmit s n id d).freeCtr = s.freeCtr ∧ (State.rememberSubmit s n id d).pending = s.pending := by
  simpa [Same] using State.rememberSubmit_same s n id d

theorem State.dropFetched_same (s : State) (n : Nat) :
    Same (fun t => (t.sys, t.pwr, t.tb, t.rtc, t.evt, t.wb, t.core, t.dbg, t.prg, t.loop, t.slk, t.est, t.prot, t.dsp, t.dio, t.aio, t.can, t.net, t.nvs, t.log, t.sec, t.upd, t.locks, t.regs, t.mem, t.cfg, t.resp, t.out, t.freeCtr, t.pending)) s (State.dropFetched s n) := by
  unfold State.dropFetched
  (try dsimp only)
  (repeat' split) <;> simp [Same]

@[simp] theorem State.dropFetched_frame (s : State) (n : Nat) :
    (State.dropFetched s n).sys = s.sys ∧ (State.dropFetched s n).pwr = s.pwr ∧ (State.dropFetched s n).tb = s.tb ∧
    (State.dropFetched s n).rtc = s.rtc ∧ (State.dropFetched s n).evt = s.evt ∧ (State.dropFetched s n).wb = s.wb ∧
    (State.dropFetched s n).core = s.core ∧ (State.dropFetched s n).dbg = s.dbg ∧ (State.dropFetched s n).prg = s.prg ∧
    (State.dropFetched s n).loop = s.loop ∧ (State.dropFetched s n).slk = s.slk ∧ (State.dropFetched s n).est = s.est ∧
    (State.dropFetched s n).prot = s.prot ∧ (State.dropFetched s n).dsp = s.dsp ∧ (State.dropFetched s n).dio = s.dio ∧
    (State.dropFetched s n).aio = s.aio ∧ (State.dropFetched s n).can = s.can ∧ (State.dropFetched s n).net = s.net ∧
    (State.dropFetched s n).nvs = s.nvs ∧ (State.dropFetched s n).log = s.log ∧ (State.dropFetched s n).sec = s.sec ∧
    (State.dropFetched s n).upd = s.upd ∧ (State.dropFetched s n).locks = s.locks ∧ (State.dropFetched s n).regs = s.regs ∧
    (State.dropFetched s n).mem = s.mem ∧ (State.dropFetched s n).cfg = s.cfg ∧ (State.dropFetched s n).resp = s.resp ∧
    (State.dropFetched s n).out = s.out ∧ (State.dropFetched s n).freeCtr = s.freeCtr ∧
    (State.dropFetched s n).pending = s.pending := by
  simpa [Same] using State.dropFetched_same s n

theorem State.acceptOp_same (s : State) (o : Op) (solo : Bool) :
    Same (fun t => (t.sys, t.pwr, t.tb, t.rtc, t.wb, t.core, t.dbg, t.prg, t.loop, t.slk, t.est, t.prot, t.dsp, t.dio, t.aio, t.can, t.net, t.nvs, t.log, t.sec, t.upd, t.locks, t.regs, t.cfg, t.resp, t.freeCtr, t.pending)) s (State.acceptOp s o solo) := by
  unfold State.acceptOp
  (try dsimp only)
  (repeat' split) <;> simp [Same]

@[simp] theorem State.acceptOp_frame (s : State) (o : Op) (solo : Bool) :
    (State.acceptOp s o solo).sys = s.sys ∧ (State.acceptOp s o solo).pwr = s.pwr ∧ (State.acceptOp s o solo).tb = s.tb ∧
    (State.acceptOp s o solo).rtc = s.rtc ∧ (State.acceptOp s o solo).wb = s.wb ∧ (State.acceptOp s o solo).core = s.core ∧
    (State.acceptOp s o solo).dbg = s.dbg ∧ (State.acceptOp s o solo).prg = s.prg ∧ (State.acceptOp s o solo).loop = s.loop ∧
    (State.acceptOp s o solo).slk = s.slk ∧ (State.acceptOp s o solo).est = s.est ∧ (State.acceptOp s o solo).prot = s.prot ∧
    (State.acceptOp s o solo).dsp = s.dsp ∧ (State.acceptOp s o solo).dio = s.dio ∧ (State.acceptOp s o solo).aio = s.aio ∧
    (State.acceptOp s o solo).can = s.can ∧ (State.acceptOp s o solo).net = s.net ∧ (State.acceptOp s o solo).nvs = s.nvs ∧
    (State.acceptOp s o solo).log = s.log ∧ (State.acceptOp s o solo).sec = s.sec ∧ (State.acceptOp s o solo).upd = s.upd ∧
    (State.acceptOp s o solo).locks = s.locks ∧ (State.acceptOp s o solo).regs = s.regs ∧
    (State.acceptOp s o solo).cfg = s.cfg ∧ (State.acceptOp s o solo).resp = s.resp ∧
    (State.acceptOp s o solo).freeCtr = s.freeCtr ∧ (State.acceptOp s o solo).pending = s.pending := by
  simpa [Same] using State.acceptOp_same s o solo

theorem State.acceptAll_same (s : State) (a0 : List Op) :
    Same (fun t => (t.sys, t.pwr, t.tb, t.rtc, t.wb, t.core, t.dbg, t.prg, t.loop, t.slk, t.est, t.prot, t.dsp, t.dio, t.aio, t.can, t.net, t.nvs, t.log, t.sec, t.upd, t.locks, t.regs, t.cfg, t.resp, t.freeCtr, t.pending)) s (State.acceptAll s a0) := by
  simp only [Same]
  induction a0 generalizing s with
  | nil => simp [State.acceptAll]
  | cons y ys ih =>
    rw [State.acceptAll]
    (try dsimp only)
    (repeat' split) <;> simp [ih]

@[simp] theorem State.acceptAll_frame (s : State) (a0 : List Op) :
    (State.acceptAll s a0).sys = s.sys ∧ (State.acceptAll s a0).pwr = s.pwr ∧ (State.acceptAll s a0).tb = s.tb ∧
    (State.acceptAll s a0).rtc = s.rtc ∧ (State.acceptAll s a0).wb = s.wb ∧ (State.acceptAll s a0).core = s.core ∧
    (State.acceptAll s a0).dbg = s.dbg ∧ (State.acceptAll s a0).prg = s.prg ∧ (State.acceptAll s a0).loop = s.loop ∧
    (State.acceptAll s a0).slk = s.slk ∧ (State.acceptAll s a0).est = s.est ∧ (State.acceptAll s a0).prot = s.prot ∧
    (State.acceptAll s a0).dsp = s.dsp ∧ (State.acceptAll s a0).dio = s.dio ∧ (State.acceptAll s a0).aio = s.aio ∧
    (State.acceptAll s a0).can = s.can ∧ (State.acceptAll s a0).net = s.net ∧ (State.acceptAll s a0).nvs = s.nvs ∧
    (State.acceptAll s a0).log = s.log ∧ (State.acceptAll s a0).sec = s.sec ∧ (State.acceptAll s a0).upd = s.upd ∧
    (State.acceptAll s a0).locks = s.locks ∧ (State.acceptAll s a0).regs = s.regs ∧ (State.acceptAll s a0).cfg = s.cfg ∧
    (State.acceptAll s a0).resp = s.resp ∧ (State.acceptAll s a0).freeCtr = s.freeCtr ∧
    (State.acceptAll s a0).pending = s.pending := by
  simpa [Same] using State.acceptAll_same s a0

theorem State.acceptReady_same (s : State) :
    Same (fun t => (t.sys, t.pwr, t.tb, t.rtc, t.wb, t.core, t.dbg, t.prg, t.loop, t.slk, t.est, t.prot, t.dsp, t.dio, t.aio, t.can, t.net, t.nvs, t.log, t.sec, t.upd, t.locks, t.regs, t.cfg, t.resp, t.freeCtr, t.pending)) s (State.acceptReady s) := by
  unfold State.acceptReady
  (try dsimp only)
  (repeat' split) <;> simp [Same]

@[simp] theorem State.acceptReady_frame (s : State) :
    (State.acceptReady s).sys = s.sys ∧ (State.acceptReady s).pwr = s.pwr ∧ (State.acceptReady s).tb = s.tb ∧
    (State.acceptReady s).rtc = s.rtc ∧ (State.acceptReady s).wb = s.wb ∧ (State.acceptReady s).core = s.core ∧
    (State.acceptReady s).dbg = s.dbg ∧ (State.acceptReady s).prg = s.prg ∧ (State.acceptReady s).loop = s.loop ∧
    (State.acceptReady s).slk = s.slk ∧ (State.acceptReady s).est = s.est ∧ (State.acceptReady s).prot = s.prot ∧
    (State.acceptReady s).dsp = s.dsp ∧ (State.acceptReady s).dio = s.dio ∧ (State.acceptReady s).aio = s.aio ∧
    (State.acceptReady s).can = s.can ∧ (State.acceptReady s).net = s.net ∧ (State.acceptReady s).nvs = s.nvs ∧
    (State.acceptReady s).log = s.log ∧ (State.acceptReady s).sec = s.sec ∧ (State.acceptReady s).upd = s.upd ∧
    (State.acceptReady s).locks = s.locks ∧ (State.acceptReady s).regs = s.regs ∧ (State.acceptReady s).cfg = s.cfg ∧
    (State.acceptReady s).resp = s.resp ∧ (State.acceptReady s).freeCtr = s.freeCtr ∧ (State.acceptReady s).pending = s.pending := by
  simpa [Same] using State.acceptReady_same s

theorem State.settleOps_same (s : State) (both alone : Nat → Bool) (a0 : List Op) :
    Same (fun t => (t.sys, t.pwr, t.tb, t.rtc, t.wb, t.core, t.dbg, t.prg, t.loop, t.slk, t.est, t.prot, t.dsp, t.dio, t.aio, t.can, t.net, t.nvs, t.log, t.sec, t.upd, t.locks, t.regs, t.cfg, t.resp, t.freeCtr, t.pending)) s (State.settleOps s both alone a0) := by
  simp only [Same]
  induction a0 generalizing s both alone with
  | nil => simp [State.settleOps]
  | cons y ys ih =>
    rw [State.settleOps]
    (try dsimp only)
    (repeat' split) <;> simp [ih]

@[simp] theorem State.settleOps_frame (s : State) (both alone : Nat → Bool) (a0 : List Op) :
    (State.settleOps s both alone a0).sys = s.sys ∧ (State.settleOps s both alone a0).pwr = s.pwr ∧
    (State.settleOps s both alone a0).tb = s.tb ∧ (State.settleOps s both alone a0).rtc = s.rtc ∧
    (State.settleOps s both alone a0).wb = s.wb ∧ (State.settleOps s both alone a0).core = s.core ∧
    (State.settleOps s both alone a0).dbg = s.dbg ∧ (State.settleOps s both alone a0).prg = s.prg ∧
    (State.settleOps s both alone a0).loop = s.loop ∧ (State.settleOps s both alone a0).slk = s.slk ∧
    (State.settleOps s both alone a0).est = s.est ∧ (State.settleOps s both alone a0).prot = s.prot ∧
    (State.settleOps s both alone a0).dsp = s.dsp ∧ (State.settleOps s both alone a0).dio = s.dio ∧
    (State.settleOps s both alone a0).aio = s.aio ∧ (State.settleOps s both alone a0).can = s.can ∧
    (State.settleOps s both alone a0).net = s.net ∧ (State.settleOps s both alone a0).nvs = s.nvs ∧
    (State.settleOps s both alone a0).log = s.log ∧ (State.settleOps s both alone a0).sec = s.sec ∧
    (State.settleOps s both alone a0).upd = s.upd ∧ (State.settleOps s both alone a0).locks = s.locks ∧
    (State.settleOps s both alone a0).regs = s.regs ∧ (State.settleOps s both alone a0).cfg = s.cfg ∧
    (State.settleOps s both alone a0).resp = s.resp ∧ (State.settleOps s both alone a0).freeCtr = s.freeCtr ∧
    (State.settleOps s both alone a0).pending = s.pending := by
  simpa [Same] using State.settleOps_same s both alone a0

theorem State.issueHead_same (s : State) (n : Nat) (f : Fetched) :
    Same (fun t => (t.pwr, t.tb, t.rtc, t.dbg, t.prg, t.loop, t.slk, t.est, t.prot, t.dsp, t.dio, t.aio, t.can, t.net, t.nvs, t.sec, t.upd, t.locks, t.regs, t.cfg, t.resp, t.freeCtr, t.pending)) s (State.issueHead s n f) := by
  unfold State.issueHead
  (try dsimp only)
  (repeat' split) <;> simp [Same]

@[simp] theorem State.issueHead_frame (s : State) (n : Nat) (f : Fetched) :
    (State.issueHead s n f).pwr = s.pwr ∧ (State.issueHead s n f).tb = s.tb ∧ (State.issueHead s n f).rtc = s.rtc ∧
    (State.issueHead s n f).dbg = s.dbg ∧ (State.issueHead s n f).prg = s.prg ∧ (State.issueHead s n f).loop = s.loop ∧
    (State.issueHead s n f).slk = s.slk ∧ (State.issueHead s n f).est = s.est ∧ (State.issueHead s n f).prot = s.prot ∧
    (State.issueHead s n f).dsp = s.dsp ∧ (State.issueHead s n f).dio = s.dio ∧ (State.issueHead s n f).aio = s.aio ∧
    (State.issueHead s n f).can = s.can ∧ (State.issueHead s n f).net = s.net ∧ (State.issueHead s n f).nvs = s.nvs ∧
    (State.issueHead s n f).sec = s.sec ∧ (State.issueHead s n f).upd = s.upd ∧ (State.issueHead s n f).locks = s.locks ∧
    (State.issueHead s n f).regs = s.regs ∧ (State.issueHead s n f).cfg = s.cfg ∧ (State.issueHead s n f).resp = s.resp ∧
    (State.issueHead s n f).freeCtr = s.freeCtr ∧ (State.issueHead s n f).pending = s.pending := by
  simpa [Same] using State.issueHead_same s n f

theorem State.useGrant_same (s : State) (i : Nat) :
    Same (fun t => (t.sys, t.pwr, t.tb, t.rtc, t.evt, t.wb, t.core, t.dbg, t.prg, t.loop, t.slk, t.est, t.prot, t.dsp, t.dio, t.aio, t.can, t.net, t.nvs, t.log, t.sec, t.upd, t.locks, t.regs, t.mem, t.cfg, t.resp, t.out, t.freeCtr, t.pending)) s (State.useGrant s i) := by
  unfold State.useGrant
  (try dsimp only)
  (repeat' split) <;> simp [Same]

@[simp] theorem State.useGrant_frame (s : State) (i : Nat) :
    (State.useGrant s i).sys = s.sys ∧ (State.useGrant s i).pwr = s.pwr ∧ (State.useGrant s i).tb = s.tb ∧
    (State.useGrant s i).rtc = s.rtc ∧ (State.useGrant s i).evt = s.evt ∧ (State.useGrant s i).wb = s.wb ∧
    (State.useGrant s i).core = s.core ∧ (State.useGrant s i).dbg = s.dbg ∧ (State.useGrant s i).prg = s.prg ∧
    (State.useGrant s i).loop = s.loop ∧ (State.useGrant s i).slk = s.slk ∧ (State.useGrant s i).est = s.est ∧
    (State.useGrant s i).prot = s.prot ∧ (State.useGrant s i).dsp = s.dsp ∧ (State.useGrant s i).dio = s.dio ∧
    (State.useGrant s i).aio = s.aio ∧ (State.useGrant s i).can = s.can ∧ (State.useGrant s i).net = s.net ∧
    (State.useGrant s i).nvs = s.nvs ∧ (State.useGrant s i).log = s.log ∧ (State.useGrant s i).sec = s.sec ∧
    (State.useGrant s i).upd = s.upd ∧ (State.useGrant s i).locks = s.locks ∧ (State.useGrant s i).regs = s.regs ∧
    (State.useGrant s i).mem = s.mem ∧ (State.useGrant s i).cfg = s.cfg ∧ (State.useGrant s i).resp = s.resp ∧
    (State.useGrant s i).out = s.out ∧ (State.useGrant s i).freeCtr = s.freeCtr ∧ (State.useGrant s i).pending = s.pending := by
  simpa [Same] using State.useGrant_same s i

theorem State.startDue_same (s : State) (w : WorkRef) (o : Op) (mark : Nat) :
    Same (fun t => (t.sys, t.pwr, t.tb, t.rtc, t.wb, t.core, t.dbg, t.prg, t.loop, t.slk, t.est, t.prot, t.dsp, t.dio, t.aio, t.can, t.net, t.nvs, t.log, t.sec, t.upd, t.locks, t.regs, t.cfg, t.resp, t.freeCtr, t.pending)) s (State.startDue s w o mark) := by
  unfold State.startDue
  (try dsimp only)
  (repeat' split) <;> simp [Same]

@[simp] theorem State.startDue_frame (s : State) (w : WorkRef) (o : Op) (mark : Nat) :
    (State.startDue s w o mark).sys = s.sys ∧ (State.startDue s w o mark).pwr = s.pwr ∧ (State.startDue s w o mark).tb = s.tb ∧
    (State.startDue s w o mark).rtc = s.rtc ∧ (State.startDue s w o mark).wb = s.wb ∧
    (State.startDue s w o mark).core = s.core ∧ (State.startDue s w o mark).dbg = s.dbg ∧
    (State.startDue s w o mark).prg = s.prg ∧ (State.startDue s w o mark).loop = s.loop ∧
    (State.startDue s w o mark).slk = s.slk ∧ (State.startDue s w o mark).est = s.est ∧
    (State.startDue s w o mark).prot = s.prot ∧ (State.startDue s w o mark).dsp = s.dsp ∧
    (State.startDue s w o mark).dio = s.dio ∧ (State.startDue s w o mark).aio = s.aio ∧
    (State.startDue s w o mark).can = s.can ∧ (State.startDue s w o mark).net = s.net ∧
    (State.startDue s w o mark).nvs = s.nvs ∧ (State.startDue s w o mark).log = s.log ∧
    (State.startDue s w o mark).sec = s.sec ∧ (State.startDue s w o mark).upd = s.upd ∧
    (State.startDue s w o mark).locks = s.locks ∧ (State.startDue s w o mark).regs = s.regs ∧
    (State.startDue s w o mark).cfg = s.cfg ∧ (State.startDue s w o mark).resp = s.resp ∧
    (State.startDue s w o mark).freeCtr = s.freeCtr ∧ (State.startDue s w o mark).pending = s.pending := by
  simpa [Same] using State.startDue_same s w o mark

theorem State.refillWork_same (s : State) (n : Nat) :
    Same (fun t => (t.sys, t.pwr, t.tb, t.rtc, t.evt, t.wb, t.core, t.dbg, t.prg, t.loop, t.slk, t.est, t.prot, t.dsp, t.dio, t.aio, t.can, t.net, t.nvs, t.log, t.sec, t.upd, t.locks, t.regs, t.mem, t.cfg, t.resp, t.out, t.freeCtr, t.pending)) s (State.refillWork s n) := by
  unfold State.refillWork
  (try dsimp only)
  repeat' first | (with_reducible refine Same.foldl _ _ (fun u x => ?_) ?_) | split
  all_goals simp [Same]

@[simp] theorem State.refillWork_frame (s : State) (n : Nat) :
    (State.refillWork s n).sys = s.sys ∧ (State.refillWork s n).pwr = s.pwr ∧ (State.refillWork s n).tb = s.tb ∧
    (State.refillWork s n).rtc = s.rtc ∧ (State.refillWork s n).evt = s.evt ∧ (State.refillWork s n).wb = s.wb ∧
    (State.refillWork s n).core = s.core ∧ (State.refillWork s n).dbg = s.dbg ∧ (State.refillWork s n).prg = s.prg ∧
    (State.refillWork s n).loop = s.loop ∧ (State.refillWork s n).slk = s.slk ∧ (State.refillWork s n).est = s.est ∧
    (State.refillWork s n).prot = s.prot ∧ (State.refillWork s n).dsp = s.dsp ∧ (State.refillWork s n).dio = s.dio ∧
    (State.refillWork s n).aio = s.aio ∧ (State.refillWork s n).can = s.can ∧ (State.refillWork s n).net = s.net ∧
    (State.refillWork s n).nvs = s.nvs ∧ (State.refillWork s n).log = s.log ∧ (State.refillWork s n).sec = s.sec ∧
    (State.refillWork s n).upd = s.upd ∧ (State.refillWork s n).locks = s.locks ∧ (State.refillWork s n).regs = s.regs ∧
    (State.refillWork s n).mem = s.mem ∧ (State.refillWork s n).cfg = s.cfg ∧ (State.refillWork s n).resp = s.resp ∧
    (State.refillWork s n).out = s.out ∧ (State.refillWork s n).freeCtr = s.freeCtr ∧ (State.refillWork s n).pending = s.pending := by
  simpa [Same] using State.refillWork_same s n

theorem State.pushPacket_same (s : State) (n type : Nat) (trunc : Bool) (b : List Byte) :
    Same (fun t => (t.sys, t.pwr, t.tb, t.rtc, t.wb, t.core, t.dbg, t.prg, t.loop, t.slk, t.est, t.prot, t.dsp, t.dio, t.aio, t.can, t.net, t.nvs, t.log, t.sec, t.upd, t.locks, t.regs, t.mem, t.cfg, t.freeCtr, t.pending)) s (State.pushPacket s n type trunc b) := by
  unfold State.pushPacket
  (try dsimp only)
  (repeat' split) <;> simp [Same]

@[simp] theorem State.pushPacket_frame (s : State) (n type : Nat) (trunc : Bool) (b : List Byte) :
    (State.pushPacket s n type trunc b).sys = s.sys ∧ (State.pushPacket s n type trunc b).pwr = s.pwr ∧
    (State.pushPacket s n type trunc b).tb = s.tb ∧ (State.pushPacket s n type trunc b).rtc = s.rtc ∧
    (State.pushPacket s n type trunc b).wb = s.wb ∧ (State.pushPacket s n type trunc b).core = s.core ∧
    (State.pushPacket s n type trunc b).dbg = s.dbg ∧ (State.pushPacket s n type trunc b).prg = s.prg ∧
    (State.pushPacket s n type trunc b).loop = s.loop ∧ (State.pushPacket s n type trunc b).slk = s.slk ∧
    (State.pushPacket s n type trunc b).est = s.est ∧ (State.pushPacket s n type trunc b).prot = s.prot ∧
    (State.pushPacket s n type trunc b).dsp = s.dsp ∧ (State.pushPacket s n type trunc b).dio = s.dio ∧
    (State.pushPacket s n type trunc b).aio = s.aio ∧ (State.pushPacket s n type trunc b).can = s.can ∧
    (State.pushPacket s n type trunc b).net = s.net ∧ (State.pushPacket s n type trunc b).nvs = s.nvs ∧
    (State.pushPacket s n type trunc b).log = s.log ∧ (State.pushPacket s n type trunc b).sec = s.sec ∧
    (State.pushPacket s n type trunc b).upd = s.upd ∧ (State.pushPacket s n type trunc b).locks = s.locks ∧
    (State.pushPacket s n type trunc b).regs = s.regs ∧ (State.pushPacket s n type trunc b).mem = s.mem ∧
    (State.pushPacket s n type trunc b).cfg = s.cfg ∧ (State.pushPacket s n type trunc b).freeCtr = s.freeCtr ∧
    (State.pushPacket s n type trunc b).pending = s.pending := by
  simpa [Same] using State.pushPacket_same s n type trunc b

theorem State.portRead_same (s : State) (q : Requester) (n : Nat) :
    Same (fun t => (t.sys, t.pwr, t.tb, t.rtc, t.wb, t.core, t.dbg, t.prg, t.loop, t.slk, t.est, t.prot, t.dsp, t.dio, t.aio, t.can, t.net, t.nvs, t.log, t.sec, t.upd, t.locks, t.regs, t.mem, t.cfg, t.freeCtr, t.pending)) s (State.portRead s q n) := by
  unfold State.portRead
  (try dsimp only)
  (repeat' split) <;> simp [Same]

@[simp] theorem State.portRead_frame (s : State) (q : Requester) (n : Nat) :
    (State.portRead s q n).sys = s.sys ∧ (State.portRead s q n).pwr = s.pwr ∧ (State.portRead s q n).tb = s.tb ∧
    (State.portRead s q n).rtc = s.rtc ∧ (State.portRead s q n).wb = s.wb ∧ (State.portRead s q n).core = s.core ∧
    (State.portRead s q n).dbg = s.dbg ∧ (State.portRead s q n).prg = s.prg ∧ (State.portRead s q n).loop = s.loop ∧
    (State.portRead s q n).slk = s.slk ∧ (State.portRead s q n).est = s.est ∧ (State.portRead s q n).prot = s.prot ∧
    (State.portRead s q n).dsp = s.dsp ∧ (State.portRead s q n).dio = s.dio ∧ (State.portRead s q n).aio = s.aio ∧
    (State.portRead s q n).can = s.can ∧ (State.portRead s q n).net = s.net ∧ (State.portRead s q n).nvs = s.nvs ∧
    (State.portRead s q n).log = s.log ∧ (State.portRead s q n).sec = s.sec ∧ (State.portRead s q n).upd = s.upd ∧
    (State.portRead s q n).locks = s.locks ∧ (State.portRead s q n).regs = s.regs ∧ (State.portRead s q n).mem = s.mem ∧
    (State.portRead s q n).cfg = s.cfg ∧ (State.portRead s q n).freeCtr = s.freeCtr ∧ (State.portRead s q n).pending = s.pending := by
  simpa [Same] using State.portRead_same s q n

theorem State.popRead_same (s : State) (q : Requester) (n : Nat) :
    Same (fun t => (t.sys, t.pwr, t.tb, t.rtc, t.wb, t.core, t.dbg, t.prg, t.loop, t.slk, t.est, t.prot, t.dsp, t.dio, t.aio, t.can, t.net, t.nvs, t.log, t.sec, t.upd, t.locks, t.regs, t.mem, t.cfg, t.freeCtr, t.pending)) s (State.popRead s q n) := by
  unfold State.popRead
  (try dsimp only)
  (repeat' split) <;> simp [Same]

@[simp] theorem State.popRead_frame (s : State) (q : Requester) (n : Nat) :
    (State.popRead s q n).sys = s.sys ∧ (State.popRead s q n).pwr = s.pwr ∧ (State.popRead s q n).tb = s.tb ∧
    (State.popRead s q n).rtc = s.rtc ∧ (State.popRead s q n).wb = s.wb ∧ (State.popRead s q n).core = s.core ∧
    (State.popRead s q n).dbg = s.dbg ∧ (State.popRead s q n).prg = s.prg ∧ (State.popRead s q n).loop = s.loop ∧
    (State.popRead s q n).slk = s.slk ∧ (State.popRead s q n).est = s.est ∧ (State.popRead s q n).prot = s.prot ∧
    (State.popRead s q n).dsp = s.dsp ∧ (State.popRead s q n).dio = s.dio ∧ (State.popRead s q n).aio = s.aio ∧
    (State.popRead s q n).can = s.can ∧ (State.popRead s q n).net = s.net ∧ (State.popRead s q n).nvs = s.nvs ∧
    (State.popRead s q n).log = s.log ∧ (State.popRead s q n).sec = s.sec ∧ (State.popRead s q n).upd = s.upd ∧
    (State.popRead s q n).locks = s.locks ∧ (State.popRead s q n).regs = s.regs ∧ (State.popRead s q n).mem = s.mem ∧
    (State.popRead s q n).cfg = s.cfg ∧ (State.popRead s q n).freeCtr = s.freeCtr ∧ (State.popRead s q n).pending = s.pending := by
  simpa [Same] using State.popRead_same s q n

end Sys2Proof.Machine
end

