-- ==== Sys2Proof/Laws/Memory.lean ====
section
/-! SUPPORT. The laws of byte memory: a read after a write, and that every operation keeps the canonical form. -/

namespace Sys2Proof.Machine

theorem Memory.above_mono {m : Memory} {lo hi : Nat} (h : lo ≤ hi) : Memory.above hi m = true → Memory.above lo m = true := by
  cases m with
  | nil => simp [Memory.above]
  | cons c cs => simp only [Memory.above, Bool.and_eq_true, decide_eq_true_eq]; intro ⟨⟨h1, h2⟩, h3⟩; exact ⟨⟨by omega, h2⟩, h3⟩

/-- A write at or above a bound keeps a canonical memory above it. -/
theorem Memory.write_above (m : Memory) (a : Nat) (b : Byte) (lo : Nat) (hlo : lo ≤ a) :
    Memory.above lo m = true → Memory.above lo (Memory.write m a b) = true := by
  induction m generalizing lo with
  | nil => intro _; unfold Memory.write; split <;> simp [Memory.above, *]
  | cons c cs ih =>
    simp only [Memory.above, Bool.and_eq_true, decide_eq_true_eq, and_imp]
    intro h1 h2 h3
    unfold Memory.write
    split
    · split
      · simp [Memory.above, h1, h2, h3]
      · simp only [Memory.above, Bool.and_eq_true, decide_eq_true_eq]; exact ⟨⟨hlo, by assumption⟩, ⟨by omega, h2⟩, h3⟩
    · split
      · split
        · exact Memory.above_mono (by omega) h3
        · subst a; simp only [Memory.above, Bool.and_eq_true, decide_eq_true_eq]; exact ⟨⟨hlo, by assumption⟩, h3⟩
      · simp only [Memory.above, Bool.and_eq_true, decide_eq_true_eq]; exact ⟨⟨h1, h2⟩, ih _ (by omega) h3⟩

/-- A write keeps the canonical form. -/
theorem Memory.write_wf {m : Memory} (a : Nat) (b : Byte) (h : Memory.wf m = true) : Memory.wf (Memory.write m a b) = true :=
  Memory.write_above m a b 0 (Nat.zero_le a) h

/-- A write of bytes keeps the canonical form. -/
theorem Memory.writeN_wf {m : Memory} (a : Nat) (l : List Byte) (h : Memory.wf m = true) : Memory.wf (Memory.writeN m a l) = true := by
  induction l generalizing m a with
  | nil => exact h
  | cons b bs ih => exact ih _ (Memory.write_wf a b h)

theorem Memory.filter_above (p : Host.Cell → Bool) (m : Memory) (lo : Nat) :
    Memory.above lo m = true → Memory.above lo (m.filter p) = true := by
  induction m generalizing lo with
  | nil => exact id
  | cons c cs ih =>
    simp only [Memory.above, Bool.and_eq_true, decide_eq_true_eq, and_imp]
    intro h1 h2 h3
    rw [List.filter_cons]
    split
    · simp only [Memory.above, Bool.and_eq_true, decide_eq_true_eq]; exact ⟨⟨h1, h2⟩, ih _ h3⟩
    · exact Memory.above_mono (by omega) (ih _ h3)

/-- Dropping cells keeps the canonical form. -/
theorem Memory.filter_wf (p : Host.Cell → Bool) {m : Memory} (h : Memory.wf m = true) : Memory.wf (m.filter p) = true :=
  Memory.filter_above p m 0 h

/-- A fold of writes keeps the canonical form. -/
theorem Memory.foldl_writeN_wf {α : Type} (f : α → Nat) (g : α → List Byte) (l : List α) {m : Memory} (h : Memory.wf m = true) :
    Memory.wf (l.foldl (fun m e => Memory.writeN m (f e) (g e)) m) = true := by
  induction l generalizing m with
  | nil => exact h
  | cons x xs ih => exact ih (Memory.writeN_wf _ _ h)

theorem Memory.read_above {m : Memory} {lo a : Nat} (h : Memory.above lo m = true) (ha : a < lo) : Memory.read m a = unlisted := by
  induction m generalizing lo with
  | nil => rfl
  | cons c cs ih =>
    simp only [Memory.above, Bool.and_eq_true, decide_eq_true_eq] at h
    rw [Memory.read, if_neg (by omega)]
    exact ih h.2 (by omega)

theorem Memory.read_write_above (m : Memory) (a : Nat) (b : Byte) (lo : Nat) (x : Nat) (h : Memory.above lo m = true) :
    Memory.read (Memory.write m a b) x = if x = a then b else Memory.read m x := by
  induction m generalizing lo with
  | nil =>
    unfold Memory.write
    split
    · simp only [Memory.read]; split <;> simp_all
    · simp only [Memory.read]
      by_cases hx : x = a
      · simp [hx]
      · rw [if_neg (fun e => hx e.symm), if_neg hx]
  | cons c cs ih =>
    simp only [Memory.above, Bool.and_eq_true, decide_eq_true_eq] at h
    obtain ⟨⟨h1, h2⟩, h3⟩ := h
    have key : x ≤ c.1 → Memory.read cs x = unlisted := fun hx => Memory.read_above h3 (by omega)
    unfold Memory.write
    split
    · split
      · simp only [Memory.read]
        split
        · split
          · omega
          · rfl
        · split
          · rw [key (by omega)]; simp_all
          · rfl
      · simp only [Memory.read]; by_cases hx : x = a
        · simp [hx]
        · rw [if_neg (fun e => hx e.symm), if_neg hx]
    · split
      · subst a
        split
        · simp only [Memory.read]
          by_cases hx : x = c.1
          · rw [key (by omega)]; simp_all
          · rw [if_neg hx, if_neg (fun e => hx e.symm)]
        · simp only [Memory.read]
          by_cases hx : x = c.1
          · simp [hx]
          · simp [hx, Ne.symm hx]
      · simp only [Memory.read]
        rw [ih _ h3]
        split
        · split
          · omega
          · rfl
        · rfl

/-- A read after a write: the byte written there, every other byte as before. -/
theorem Memory.read_write {m : Memory} (h : Memory.wf m = true) (a : Nat) (b : Byte) (x : Nat) :
    Memory.read (Memory.write m a b) x = if x = a then b else Memory.read m x :=
  Memory.read_write_above m a b 0 x h

/-- Bytes outside a written range read as before. -/
theorem Memory.read_writeN_outside {m : Memory} (h : Memory.wf m = true) (a : Nat) (l : List Byte) (x : Nat)
    (hx : x < a ∨ a + l.length ≤ x) : Memory.read (Memory.writeN m a l) x = Memory.read m x := by
  induction l generalizing m a with
  | nil => rfl
  | cons b bs ih =>
    simp only [List.length_cons] at hx
    rw [Memory.writeN, ih (Memory.write_wf a b h) (a + 1) (by omega), Memory.read_write h, if_neg (by omega)]

/-- Bytes of a written range read as written. -/
theorem Memory.read_writeN_inside {m : Memory} (h : Memory.wf m = true) (a : Nat) (l : List Byte) (i : Nat) (hi : i < l.length) :
    Memory.read (Memory.writeN m a l) (a + i) = l[i] := by
  induction l generalizing m a i with
  | nil => simp at hi
  | cons b bs ih =>
    rw [Memory.writeN]
    cases i with
    | zero =>
      show Memory.read (Memory.writeN (Memory.write m a b) (a + 1) bs) a = b
      rw [Memory.read_writeN_outside (Memory.write_wf a b h) (a + 1) bs a (by omega), Memory.read_write h]; simp
    | succ j =>
      have := ih (Memory.write_wf a b h) (a + 1) j (by simpa using hi)
      rw [show a + (j + 1) = a + 1 + j by omega, this]; rfl

/-- The bytes read back are those written. -/
theorem Memory.readN_writeN {m : Memory} (h : Memory.wf m = true) (a : Nat) (l : List Byte) :
    Memory.readN (Memory.writeN m a l) a l.length = l := by
  induction l generalizing m a with
  | nil => rfl
  | cons b bs ih =>
    simp only [List.length_cons, Memory.readN]
    rw [show Memory.read (Memory.writeN m a (b :: bs)) a = b from by
      have := Memory.read_writeN_inside h a (b :: bs) 0 (by simp); simpa using this]
    rw [Memory.writeN, ih (Memory.write_wf a b h)]

end Sys2Proof.Machine
end

