-- ==== Sys2Proof/Laws/Evolves.lean ====
section
/-! SUPPORT. What every operation of the block keeps, as one relation between the state before and the state after: the canonical form
of memory, the queue of waiting commands, what is fused, the SVN floor (which only rises), and the rule of the fence. Each
operation has one lemma `<operation>_evolves` in the files beside this one. -/

namespace Sys2Proof.Machine

/-- The fields that the fence rule reads. -/
def State.fenceView (s : State) : Bool × Bool × Mode × Bool × Bool × Bool :=
  (s.wb.fenced, s.wb.wdAlive, s.sys.mode, s.sys.starting, s.sys.exitKind.isSome, s.sys.cocoonWoke)

/-- What every operation keeps, the rule of the fence apart. -/
structure Steady (s t : State) : Prop where
  mem : Memory.wf s.mem = true → Memory.wf t.mem = true
  data : Memory.wf s.nvs.data = true → Memory.wf t.nvs.data = true
  queue : t.pending = s.pending
  fused : t.fused = s.fused
  floor : s.sec.svnFloor ≤ t.sec.svnFloor

/-- `t` comes out of `s` by an operation of the block. -/
structure Evolves (s t : State) : Prop extends Steady s t where
  fence : s.fenceOk = true → t.fenceOk = true

theorem State.fenceOk_congr {s t : State} (h : t.fenceView = s.fenceView) : t.fenceOk = s.fenceOk := by
  simp only [State.fenceView, Prod.mk.injEq] at h
  obtain ⟨h1, h2, h3, h4, h5, h6⟩ := h
  simp only [State.fenceOk, State.fenceAllowed, h1, h2, h3, h4, h5, h6]

theorem Steady.refl (s : State) : Steady s s := ⟨id, id, rfl, rfl, Nat.le_refl _⟩

theorem Steady.trans {s t u : State} (h : Steady s t) (k : Steady t u) : Steady s u where
  mem := k.mem ∘ h.mem
  data := k.data ∘ h.data
  queue := k.queue.trans h.queue
  fused := k.fused.trans h.fused
  floor := Nat.le_trans h.floor k.floor

/-- An operation after a change that may have left the fence's rule open. -/
theorem Steady.after {s t u : State} (h : Steady s t) (k : Evolves t u) : Steady s u := h.trans k.toSteady

theorem Evolves.refl (s : State) : Evolves s s := ⟨Steady.refl s, id⟩

theorem Evolves.trans {s t u : State} (h : Evolves s t) (k : Evolves t u) : Evolves s u :=
  ⟨h.toSteady.trans k.toSteady, k.fence ∘ h.fence⟩

/-- With the fence down its rule holds. -/
theorem Evolves.ofFenced {s t : State} (h : Steady s t) (hf : t.wb.fenced = true) : Evolves s t :=
  ⟨h, fun _ => by simp only [State.fenceOk, hf, Bool.true_or]⟩

/-- The state that a command answers comes out of `s`. -/
def Leads (s : State) (r : Result) : Prop :=
  match r with
  | .next t => Evolves s t
  | .fault _ => True
  | .refused _ => True

theorem Leads.next {s t : State} (h : Evolves s t) : Leads s (.next t) := h

theorem State.after_evolves {s : State} {f : State → Result} (h : Leads s (f s)) : Evolves s (s.after f) := by
  unfold State.after
  generalize f s = r at h ⊢
  cases r with
  | next t => exact h
  | fault _ => exact Evolves.refl s
  | refused _ => exact Evolves.refl s

/-- The first component of a pair met by name. -/
theorem Evolves.ofFst {β : Type} {s t : State} {b : β} {p : State × β} (e : p = (t, b)) (h : Evolves s p.1) : Evolves s t := by
  subst e; exact h

/-- The second component of a pair met by name. -/
theorem Evolves.ofSnd {β : Type} {s t : State} {b : β} {p : β × State} (e : p = (b, t)) (h : Evolves s p.2) : Evolves s t := by
  subst e; exact h

/-- A fold of operations. -/
theorem Evolves.foldl {α : Type} {s t : State} (f : State → α → State) (l : List α)
    (hf : ∀ u x, Evolves s u → Evolves s (f u x)) (h : Evolves s t) : Evolves s (l.foldl f t) := by
  induction l generalizing t with
  | nil => exact h
  | cons x xs ih => exact ih (hf t x h)

/-- A fold that carries the state as the second of a pair. -/
theorem Evolves.foldlSnd {α β : Type} {s : State} {p : β × State} (f : β × State → α → β × State) (l : List α)
    (hf : ∀ r x, Evolves s r.2 → Evolves s (f r x).2) (h : Evolves s p.2) : Evolves s (l.foldl f p).2 := by
  induction l generalizing p with
  | nil => exact h
  | cons x xs ih => exact ih (hf p x h)

/-- A fold that carries the state as the first of a pair. -/
theorem Evolves.foldlFst {α β : Type} {s : State} {p : State × β} (f : State × β → α → State × β) (l : List α)
    (hf : ∀ r x, Evolves s r.1 → Evolves s (f r x).1) (h : Evolves s p.1) : Evolves s (l.foldl f p).1 := by
  induction l generalizing p with
  | nil => exact h
  | cons x xs ih => exact ih (hf p x h)

/-- An operation carried out on a condition. -/
theorem Evolves.opt {s t u : State} {c : Prop} [Decidable c] (h : Evolves s t) (hf : Evolves t u) : Evolves s (if c then u else t) := by
  split
  · exact h.trans hf
  · exact h

/-- An update of fields that the relation does not read, or of the memory in a way that keeps its form. -/
theorem Steady.upd {s t : State} (h : Steady s t) {sys : SysSt} {pwr : PwrSt} {tb : TbSt} {rtc : RtcSt} {hq : HqSt} {evt : EvtSt}
    {wb : WbSt} {core : CoreSt} {dbg : DbgSt} {prg : PrgSt} {loop : LoopSt} {slk : SlkSt} {est : EstSt} {prot : ProtSt} {dsp : DspSt}
    {dio : DioSt} {aio : AioSt} {can : CanSt} {net : NetSt} {nvs : NvsSt} {log : LogSt} {sec : SecSt} {upd : UpdSt}
    {locks : List LockSt} {regs : List (Nat × Word)} {mem : List Host.Cell} {cfg : Cfg} {resp : Option Resp} {out : List Out}
    {freeCtr : Nat}
    (hm : Memory.wf t.mem = true → Memory.wf mem = true)
    (hd : nvs.data = t.nvs.data)
    (hf : (sec.serial, sys.variant, sys.siliconRev, sys.boardRev, sys.bomRev, sys.pciVendor, sec.devKey, sec.devCert) = t.fused)
    (hs : sec.svnFloor = t.sec.svnFloor) :
    Steady s (State.mk sys pwr tb rtc hq evt wb core dbg prg loop slk est prot dsp dio aio can net nvs log sec upd locks regs mem cfg
      resp out freeCtr t.pending) where
  mem := hm ∘ h.mem
  data := fun k => by show Memory.wf nvs.data = true; rw [hd]; exact h.data k
  queue := h.queue
  fused := hf.trans h.fused
  floor := by show _ ≤ sec.svnFloor; rw [hs]; exact h.floor

/-- The same, with the fields that the fence rule reads as they were. -/
theorem Evolves.upd {s t : State} (h : Evolves s t) {sys : SysSt} {pwr : PwrSt} {tb : TbSt} {rtc : RtcSt} {hq : HqSt} {evt : EvtSt}
    {wb : WbSt} {core : CoreSt} {dbg : DbgSt} {prg : PrgSt} {loop : LoopSt} {slk : SlkSt} {est : EstSt} {prot : ProtSt} {dsp : DspSt}
    {dio : DioSt} {aio : AioSt} {can : CanSt} {net : NetSt} {nvs : NvsSt} {log : LogSt} {sec : SecSt} {upd : UpdSt}
    {locks : List LockSt} {regs : List (Nat × Word)} {mem : List Host.Cell} {cfg : Cfg} {resp : Option Resp} {out : List Out}
    {freeCtr : Nat}
    (hm : Memory.wf t.mem = true → Memory.wf mem = true)
    (hd : nvs.data = t.nvs.data)
    (hf : (sec.serial, sys.variant, sys.siliconRev, sys.boardRev, sys.bomRev, sys.pciVendor, sec.devKey, sec.devCert) = t.fused)
    (hs : sec.svnFloor = t.sec.svnFloor)
    (hv : (wb.fenced, wb.wdAlive, sys.mode, sys.starting, sys.exitKind.isSome, sys.cocoonWoke) = t.fenceView) :
    Evolves s (State.mk sys pwr tb rtc hq evt wb core dbg prg loop slk est prot dsp dio aio can net nvs log sec upd locks regs mem cfg
      resp out freeCtr t.pending) :=
  ⟨h.toSteady.upd hm hd hf hs, fun k => (State.fenceOk_congr (t := State.mk sys pwr tb rtc hq evt wb core dbg prg loop slk est prot dsp
    dio aio can net nvs log sec upd locks regs mem cfg resp out freeCtr t.pending) hv).trans (h.fence k)⟩

/-- The NAND store changed in a way that keeps the form of its data. -/
theorem Evolves.setNvs {s t : State} (h : Evolves s t) (nvs : NvsSt)
    (hd : Memory.wf t.nvs.data = true → Memory.wf nvs.data = true) : Evolves s { t with nvs := nvs } :=
  ⟨⟨h.mem, hd ∘ h.data, h.queue, h.fused, h.floor⟩, fun k => (State.fenceOk_congr (t := { t with nvs := nvs }) rfl).trans (h.fence k)⟩

/-- Memory changed in a way that keeps its form. -/
theorem Evolves.setMem {s t : State} (h : Evolves s t) (m : Memory) (hm : Memory.wf t.mem = true → Memory.wf m = true) :
    Evolves s { t with mem := m } :=
  ⟨⟨hm ∘ h.mem, h.data, h.queue, h.fused, h.floor⟩, fun k => (State.fenceOk_congr (t := { t with mem := m }) rfl).trans (h.fence k)⟩

/-- The fence recomputed meets its rule, whatever came before. -/
theorem Evolves.refenced {s t : State} (h : Steady s t) : Evolves s t.refence := by
  refine ⟨h.trans ((Steady.refl t).upd id rfl rfl rfl), fun _ => ?_⟩
  show (!(t.fenceAllowed && t.wb.wdAlive) || (t.wb.wdAlive && t.fenceAllowed)) = true
  cases t.fenceAllowed <;> cases t.wb.wdAlive <;> rfl

end Sys2Proof.Machine
end

