-- ==== Sys2Proof/Laws/Evolve/Regs.lean ====
section
/-! SUPPORT. The operations of Machine/Regs.lean keep what the relation `Evolves` says. -/

namespace Sys2Proof.Machine

theorem State.setReg_evolves {s0 s : State} (h : Evolves s0 s) (r : RegName) (i j : Nat) (w : Word) :
    Evolves s0 (State.setReg s r i j w) := by
  unfold State.setReg
  with_reducible repeat' first
    | assumption | exact Evolves.refl _ | ((conv => arg 2; arg 25); refine Evolves.upd ?_ (fun h => h) rfl rfl rfl rfl)
    | dsimp only

theorem State.setFld_evolves {s0 s : State} (h : Evolves s0 s) (r : RegName) (i lo width v : Nat) :
    Evolves s0 (State.setFld s r i lo width v) := by
  unfold State.setFld
  with_reducible repeat' first
    | assumption | exact Evolves.refl _ | refine State.setReg_evolves ?_ .. | dsimp only

end Sys2Proof.Machine
end

