-- ==== Sys2Proof/Laws/Evolve/Ops.lean ====
section
/-! SUPPORT. The operations of Machine/Ops.lean keep what the relation `Evolves` says. -/

namespace Sys2Proof.Machine

theorem State.useFree_evolves {s0 s : State} (h : Evolves s0 s) : Evolves s0 (State.useFree s) := by
  unfold State.useFree
  with_reducible repeat' first
    | assumption | exact Evolves.refl _ | ((conv => arg 2; arg 25); refine Evolves.upd ?_ (fun h => h) rfl rfl rfl rfl)
    | dsimp only

theorem State.emit_evolves {s0 s : State} (h : Evolves s0 s) (o : Out) : Evolves s0 (State.emit s o) := by
  unfold State.emit
  with_reducible repeat' first
    | assumption | exact Evolves.refl _ | ((conv => arg 2; arg 25); refine Evolves.upd ?_ (fun h => h) rfl rfl rfl rfl)
    | dsimp only

theorem State.deliver_evolves {s0 s : State} (h : Evolves s0 s) (src : Nat) : Evolves s0 (State.deliver s src) := by
  unfold State.deliver
  with_reducible repeat' first
    | assumption | exact Evolves.refl _ | refine State.emit_evolves ?_ ..
    | ((conv => arg 2; arg 25); refine Evolves.upd ?_ (fun h => h) rfl rfl rfl rfl) | dsimp only | split
    | refine Evolves.ofFst (by assumption) ?_ | refine Evolves.ofSnd (by assumption) ?_

theorem State.raise_evolves {s0 s : State} (h : Evolves s0 s) (src : Nat) : Evolves s0 (State.raise s src) := by
  unfold State.raise
  with_reducible repeat' first
    | assumption | exact Evolves.refl _ | refine State.deliver_evolves ?_ ..
    | ((conv => arg 2; arg 25); refine Evolves.upd ?_ (fun h => h) rfl rfl rfl rfl) | dsimp only | split

theorem liveMem_wf {m : Memory} (h : Memory.wf m = true) (base : Nat) (slotB : Bool) (l : LogSt) (r : Rec) :
    Memory.wf (liveMem m base slotB l r) = true := by
  unfold liveMem
  refine Memory.writeN_wf _ _ (Memory.writeN_wf _ _ ?_)
  split
  · exact Memory.writeN_wf _ _ h
  · exact h

theorem State.liveCopy_self (s : State) (r : Rec) : Evolves s (State.liveCopy s r) := by
  unfold State.liveCopy
  split
  · exact (Evolves.refl s).upd (fun h => liveMem_wf h _ _ _ _) rfl rfl rfl rfl
  · exact Evolves.refl s

theorem State.liveCopy_evolves {s0 s : State} (h : Evolves s0 s) (r : Rec) : Evolves s0 (State.liveCopy s r) :=
  h.trans (State.liveCopy_self s r)

theorem State.lightFault_evolves {s0 s : State} (h : Evolves s0 s) (sev : Nat) : Evolves s0 (State.lightFault s sev) := by
  unfold State.lightFault
  with_reducible repeat' first
    | assumption | exact Evolves.refl _ | ((conv => arg 2; arg 25); refine Evolves.upd ?_ (fun h => h) rfl rfl rfl rfl)
    | dsimp only | split

theorem State.setLog_evolves {s0 s : State} (h : Evolves s0 s) (l : LogSt) : Evolves s0 (State.setLog s l) := by
  unfold State.setLog
  with_reducible repeat' first
    | assumption | exact Evolves.refl _ | ((conv => arg 2; arg 25); refine Evolves.upd ?_ (fun h => h) rfl rfl rfl rfl)
    | dsimp only

theorem State.addRec_evolves {s0 s : State} (h : Evolves s0 s) (r : Rec) : Evolves s0 (State.addRec s r) := by
  unfold State.addRec
  with_reducible repeat' first
    | assumption | exact Evolves.refl _ | refine State.liveCopy_evolves ?_ .. | refine State.lightFault_evolves ?_ ..
    | refine State.setLog_evolves ?_ .. | ((conv => arg 2; arg 25); refine Evolves.upd ?_ (fun h => h) rfl rfl rfl rfl)
    | dsimp only | split | refine Evolves.ofFst (by assumption) ?_ | refine Evolves.ofSnd (by assumption) ?_

theorem State.recordAt_evolves {s0 s : State} (h : Evolves s0 s) (n : RecName) (args : List Nat) (status : Nat) :
    Evolves s0 (State.recordAt s n args status) := by
  unfold State.recordAt
  with_reducible repeat' first
    | assumption | exact Evolves.refl _ | refine State.addRec_evolves ?_ ..
    | ((conv => arg 2; arg 25); refine Evolves.upd ?_ (fun h => h) rfl rfl rfl rfl) | dsimp only | split
    | refine Evolves.ofFst (by assumption) ?_ | refine Evolves.ofSnd (by assumption) ?_

theorem State.record_evolves {s0 s : State} (h : Evolves s0 s) (n : RecName) (args : List Nat) :
    Evolves s0 (State.record s n args) := by
  unfold State.record
  with_reducible repeat' first
    | assumption | exact Evolves.refl _ | refine State.recordAt_evolves ?_ .. | dsimp only

theorem State.givenRec_evolves {s0 s : State} (h : Evolves s0 s) (code sev source : Nat) (body : List Byte) (ang : Nat) (pt : PlantTime) :
    Evolves s0 (State.givenRec s code sev source body ang pt) := by
  unfold State.givenRec
  with_reducible repeat' first
    | assumption | exact Evolves.refl _ | refine State.addRec_evolves ?_ .. | dsimp only

theorem State.flushLog_evolves {s0 s : State} (h : Evolves s0 s) : Evolves s0 (State.flushLog s) := by
  unfold State.flushLog
  with_reducible repeat' first
    | assumption | exact Evolves.refl _ | refine State.raise_evolves ?_ .. | refine State.record_evolves ?_ ..
    | ((conv => arg 2; arg 25); refine Evolves.upd ?_ (fun h => h) rfl rfl rfl rfl)
    | refine Evolves.foldl _ _ (fun u x hu => ?_) ?_ | dsimp only | split

theorem State.flushAll_evolves {s0 s : State} (h : Evolves s0 s) : Evolves s0 (State.flushAll s) := by
  unfold State.flushAll
  with_reducible repeat' first
    | assumption | exact Evolves.refl _ | refine State.flushLog_evolves ?_ .. | dsimp only

theorem State.refuseWrite_evolves {s0 s : State} (h : Evolves s0 s) (q : Requester) (addr : Nat) :
    Evolves s0 (State.refuseWrite s q addr) := by
  unfold State.refuseWrite
  with_reducible repeat' first
    | assumption | exact Evolves.refl _ | refine State.raise_evolves ?_ .. | refine State.record_evolves ?_ .. | dsimp only

theorem State.denyDebug_evolves {s0 s : State} (h : Evolves s0 s) (addr : Nat) : Evolves s0 (State.denyDebug s addr) := by
  unfold State.denyDebug
  with_reducible repeat' first
    | assumption | exact Evolves.refl _ | refine State.raise_evolves ?_ .. | refine State.record_evolves ?_ ..
    | ((conv => arg 2; arg 25); refine Evolves.upd ?_ (fun h => h) rfl rfl rfl rfl) | dsimp only

theorem State.answer_evolves {s0 s : State} (h : Evolves s0 s) (q : Requester) (v : Nat) : Evolves s0 (State.answer s q v) := by
  unfold State.answer
  with_reducible repeat' first
    | assumption | exact Evolves.refl _ | ((conv => arg 2; arg 25); refine Evolves.upd ?_ (fun h => h) rfl rfl rfl rfl)
    | dsimp only

theorem State.answerErr_evolves {s0 s : State} (h : Evolves s0 s) (q : Requester) (e : BusErr) :
    Evolves s0 (State.answerErr s q e) := by
  unfold State.answerErr
  with_reducible repeat' first
    | assumption | exact Evolves.refl _ | ((conv => arg 2; arg 25); refine Evolves.upd ?_ (fun h => h) rfl rfl rfl rfl)
    | dsimp only

theorem State.refence_self (s : State) : Evolves s (State.refence s) := Evolves.refenced (Steady.refl s)

theorem State.refence_evolves {s0 s : State} (h : Evolves s0 s) : Evolves s0 (State.refence s ) :=
  h.trans (State.refence_self s )

theorem State.sendRef_evolves {s0 s : State} (h : Evolves s0 s) (t : RefType) : Evolves s0 (State.sendRef s t) := by
  unfold State.sendRef
  with_reducible repeat' first
    | assumption | exact Evolves.refl _ | refine State.emit_evolves ?_ ..
    | ((conv => arg 2; arg 25); refine Evolves.upd ?_ (fun h => h) rfl rfl rfl rfl) | dsimp only

theorem State.dropFence_self (s : State) : Evolves s (State.dropFence s) := by
  unfold State.dropFence
  dsimp only
  split
  · refine Evolves.trans (Evolves.ofFenced ?_ rfl) (State.sendRef_evolves (Evolves.refl _) ..)
    exact (Steady.refl s).upd id rfl rfl rfl
  · exact Evolves.ofFenced ((Steady.refl s).upd id rfl rfl rfl) rfl

theorem State.dropFence_evolves {s0 s : State} (h : Evolves s0 s) : Evolves s0 (State.dropFence s ) :=
  h.trans (State.dropFence_self s )

theorem State.sendWb_evolves {s0 s : State} (h : Evolves s0 s) (m : WbMsg) : Evolves s0 (State.sendWb s m) := by
  unfold State.sendWb
  with_reducible repeat' first
    | assumption | exact Evolves.refl _ | refine State.emit_evolves ?_ .. | dsimp only | split

theorem State.seeGen_evolves {s0 s : State} (h : Evolves s0 s) (g : Nat) : Evolves s0 (State.seeGen s g) := by
  unfold State.seeGen
  with_reducible repeat' first
    | assumption | exact Evolves.refl _ | ((conv => arg 2; arg 25); refine Evolves.upd ?_ (fun h => h) rfl rfl rfl rfl)
    | dsimp only

theorem State.closeLocks_evolves {s0 s : State} (h : Evolves s0 s) : Evolves s0 (State.closeLocks s) := by
  unfold State.closeLocks
  with_reducible repeat' first
    | assumption | exact Evolves.refl _ | ((conv => arg 2; arg 25); refine Evolves.upd ?_ (fun h => h) rfl rfl rfl rfl)
    | dsimp only | split

theorem State.setDoSt_evolves {s0 s : State} (h : Evolves s0 s) (n : Nat) (f : DoSt → DoSt) :
    Evolves s0 (State.setDoSt s n f) := by
  unfold State.setDoSt
  with_reducible repeat' first
    | assumption | exact Evolves.refl _ | ((conv => arg 2; arg 25); refine Evolves.upd ?_ (fun h => h) rfl rfl rfl rfl)
    | dsimp only

theorem State.setAoSt_evolves {s0 s : State} (h : Evolves s0 s) (n : Nat) (f : AoSt → AoSt) :
    Evolves s0 (State.setAoSt s n f) := by
  unfold State.setAoSt
  with_reducible repeat' first
    | assumption | exact Evolves.refl _ | ((conv => arg 2; arg 25); refine Evolves.upd ?_ (fun h => h) rfl rfl rfl rfl)
    | dsimp only

theorem State.setDo_evolves {s0 s : State} (h : Evolves s0 s) (n : Nat) (on : Bool) : Evolves s0 (State.setDo s n on) := by
  unfold State.setDo
  with_reducible repeat' first
    | assumption | exact Evolves.refl _ | refine State.setDoSt_evolves ?_ ..
    | ((conv => arg 2; arg 25); refine Evolves.upd ?_ (fun h => h) rfl rfl rfl rfl) | dsimp only | split

theorem State.setAo_evolves {s0 s : State} (h : Evolves s0 s) (n : Nat) (fromLoop : Bool) (v : F32) (fail : Bool) :
    Evolves s0 (State.setAo s n fromLoop v fail) := by
  unfold State.setAo
  with_reducible repeat' first
    | assumption | exact Evolves.refl _ | refine State.setAoSt_evolves ?_ ..
    | ((conv => arg 2; arg 25); refine Evolves.upd ?_ (fun h => h) rfl rfl rfl rfl) | dsimp only | split

theorem State.safeDo_evolves {s0 s : State} (h : Evolves s0 s) (n : Nat) : Evolves s0 (State.safeDo s n) := by
  unfold State.safeDo
  with_reducible repeat' first
    | assumption | exact Evolves.refl _ | refine State.setDo_evolves ?_ ..
    | ((conv => arg 2; arg 25); refine Evolves.upd ?_ (fun h => h) rfl rfl rfl rfl) | dsimp only | split
    | refine Evolves.ofFst (by assumption) ?_ | refine Evolves.ofSnd (by assumption) ?_

theorem State.safeAo_evolves {s0 s : State} (h : Evolves s0 s) (n : Nat) : Evolves s0 (State.safeAo s n) := by
  unfold State.safeAo
  with_reducible repeat' first
    | assumption | exact Evolves.refl _ | refine State.setAoSt_evolves ?_ .. | refine State.setAo_evolves ?_ ..
    | ((conv => arg 2; arg 25); refine Evolves.upd ?_ (fun h => h) rfl rfl rfl rfl) | dsimp only | split
    | refine Evolves.ofFst (by assumption) ?_ | refine Evolves.ofSnd (by assumption) ?_

theorem State.driveSafe_evolves {s0 s : State} (h : Evolves s0 s) : Evolves s0 (State.driveSafe s) := by
  unfold State.driveSafe
  with_reducible repeat' first
    | assumption | exact Evolves.refl _ | refine State.safeDo_evolves ?_ .. | refine State.safeAo_evolves ?_ ..
    | refine Evolves.foldl _ _ (fun u x hu => ?_) ?_ | dsimp only

theorem State.fieldMode_evolves {s0 s : State} (h : Evolves s0 s) (m : Mode) : Evolves s0 (State.fieldMode s m) := by
  unfold State.fieldMode
  with_reducible repeat' first
    | assumption | exact Evolves.refl _ | refine State.driveSafe_evolves ?_ ..
    | ((conv => arg 2; arg 25); refine Evolves.upd ?_ (fun h => h) rfl rfl rfl rfl) | dsimp only | split

theorem State.ringMode_evolves {s0 s : State} (h : Evolves s0 s) (m : Mode) : Evolves s0 (State.ringMode s m) := by
  unfold State.ringMode
  with_reducible repeat' first
    | assumption | exact Evolves.refl _ | ((conv => arg 2; arg 25); refine Evolves.upd ?_ (fun h => h) rfl rfl rfl rfl)
    | dsimp only | split

theorem State.setMode_steady (s u : State) (m : Mode) (cause : Nat) (h : Steady u s)
    (hf : s.sys.mode = m → u.fenceOk = true → s.fenceOk = true) : Evolves u (State.setMode s m cause) := by
  unfold State.setMode
  split
  · rename_i e; exact ⟨h, hf e⟩
  · dsimp only
    refine Evolves.refenced (Steady.after ?_ (State.record_evolves (Evolves.refl _) ..))
    have key : ∀ x, Steady u x → Steady u (((State.closeLocks x).fieldMode m).ringMode m) := fun x hx =>
      ((hx.after (State.closeLocks_evolves (Evolves.refl _))).after (State.fieldMode_evolves (Evolves.refl _) ..)).after (State.ringMode_evolves (Evolves.refl _) ..)
    split
    · with_reducible refine Steady.after (key _ ?_) (State.dropFence_evolves (Evolves.refl _))
      with_reducible exact h.upd id rfl rfl rfl
    · with_reducible refine key _ ?_
      with_reducible exact h.upd id rfl rfl rfl

/-- Into another mode the fence is recomputed. -/
theorem State.setMode_other (s u : State) (m : Mode) (cause : Nat) (h : Steady u s) (hm : s.sys.mode ≠ m) :
    Evolves u (State.setMode s m cause) := by
  unfold State.setMode
  rw [if_neg hm]
  dsimp only
  refine Evolves.refenced (Steady.after ?_ (State.record_evolves (Evolves.refl _) ..))
  have key : ∀ x, Steady u x → Steady u (((State.closeLocks x).fieldMode m).ringMode m) := fun x hx =>
    ((hx.after (State.closeLocks_evolves (Evolves.refl _))).after (State.fieldMode_evolves (Evolves.refl _) ..)).after (State.ringMode_evolves (Evolves.refl _) ..)
  split
  · with_reducible refine Steady.after (key _ ?_) (State.dropFence_evolves (Evolves.refl _))
    with_reducible exact h.upd id rfl rfl rfl
  · with_reducible refine key _ ?_
    with_reducible exact h.upd id rfl rfl rfl

theorem State.setMode_self (s : State) (m : Mode) (cause : Nat) : Evolves s (State.setMode s m cause) :=
  State.setMode_steady s s m cause (Steady.refl s) fun _ => id

theorem State.setMode_evolves {s0 s : State} (h : Evolves s0 s) (m : Mode) (cause : Nat) : Evolves s0 (State.setMode s m cause) :=
  h.trans (State.setMode_self s m cause)


/-- What comes before a change of mode need not mind the fence, if the change recomputes it after. -/
theorem State.setMode_after (s u : State) (m : Mode) (cause : Nat) (h : Steady u s) : Steady u (State.setMode s m cause) :=
  h.after (State.setMode_evolves (Evolves.refl s) m cause)

theorem State.endUpdate_evolves {s0 s : State} (h : Evolves s0 s) : Evolves s0 (State.endUpdate s) := by
  unfold State.endUpdate
  with_reducible repeat' first
    | assumption | exact Evolves.refl _ | refine State.setMode_evolves ?_ ..
    | ((conv => arg 2; arg 25); refine Evolves.upd ?_ (fun h => h) rfl rfl rfl rfl) | dsimp only | split

theorem State.wakeCocoon_self (s : State) (cause : Nat) : Evolves s (State.wakeCocoon s cause) := by
  unfold State.wakeCocoon
  split
  · exact Evolves.refl _
  · dsimp only
    with_reducible refine Evolves.trans ?_ (State.emit_evolves (Evolves.refl _) ..)
    refine (State.record_evolves (Evolves.refl s) .cocoonWake [cause]).trans ⟨by with_reducible exact (Steady.refl _).upd id rfl rfl rfl, ?_⟩
    simp only [State.fenceOk, State.fenceAllowed]
    cases (s.record .cocoonWake [cause]).sys.mode <;> simp
    intro h; cases h <;> simp_all

theorem State.wakeCocoon_evolves {s0 s : State} (h : Evolves s0 s) (cause : Nat) : Evolves s0 (State.wakeCocoon s cause) :=
  h.trans (State.wakeCocoon_self s cause)

theorem State.endLease_evolves {s0 s : State} (h : Evolves s0 s) : Evolves s0 (State.endLease s) := by
  unfold State.endLease
  with_reducible repeat' first
    | assumption | exact Evolves.refl _ | refine State.raise_evolves ?_ ..
    | ((conv => arg 2; arg 25); refine Evolves.upd ?_ (fun h => h) rfl rfl rfl rfl) | dsimp only | split

theorem State.enterQuarantine_evolves {s0 s : State} (h : Evolves s0 s) (n : RecName) (args : List Nat) :
    Evolves s0 (State.enterQuarantine s n args) := by
  unfold State.enterQuarantine
  with_reducible repeat' first
    | assumption | exact Evolves.refl _ | refine State.record_evolves ?_ .. | refine State.setMode_evolves ?_ ..
    | refine State.endLease_evolves ?_ .. | dsimp only

theorem State.enterService_evolves {s0 s : State} (h : Evolves s0 s) (cause : Nat) : Evolves s0 (State.enterService s cause) := by
  unfold State.enterService
  with_reducible repeat' first
    | assumption | exact Evolves.refl _ | refine State.setMode_evolves ?_ .. | refine State.endLease_evolves ?_ .. | dsimp only

theorem State.afterRestart_self (s : State) (cause : Nat) : Evolves s (State.afterRestart s cause) :=
  Evolves.ofFenced ⟨Memory.filter_wf _, id, rfl, rfl, Nat.le_refl _⟩ rfl

theorem State.afterRestart_evolves {s0 s : State} (h : Evolves s0 s) (cause : Nat) : Evolves s0 (State.afterRestart s cause) :=
  h.trans (State.afterRestart_self s cause)

theorem State.tellRtcLost_evolves {s0 s : State} (h : Evolves s0 s) : Evolves s0 (State.tellRtcLost s) := by
  unfold State.tellRtcLost
  with_reducible repeat' first
    | assumption | exact Evolves.refl _ | refine State.raise_evolves ?_ .. | refine State.record_evolves ?_ ..
    | ((conv => arg 2; arg 25); refine Evolves.upd ?_ (fun h => h) rfl rfl rfl rfl) | dsimp only | split
    | refine Evolves.ofFst (by assumption) ?_ | refine Evolves.ofSnd (by assumption) ?_

theorem State.restart_evolves {s0 s : State} (h : Evolves s0 s) (cause : Nat) : Evolves s0 (State.restart s cause) := by
  unfold State.restart
  with_reducible repeat' first
    | assumption | exact Evolves.refl _ | refine State.record_evolves ?_ .. | refine State.setMode_evolves ?_ ..
    | refine State.afterRestart_evolves ?_ .. | refine State.tellRtcLost_evolves ?_ ..
    | ((conv => arg 2; arg 25); first | refine Evolves.upd ?_ (fun h => h) rfl rfl rfl rfl | refine Evolves.ofFenced (Steady.upd (Evolves.toSteady ?_) (fun h => h) rfl rfl rfl) rfl)
    | dsimp only | split

theorem State.refuseExtract_evolves {s0 s : State} (h : Evolves s0 s) : Evolves s0 (State.refuseExtract s) := by
  unfold State.refuseExtract
  with_reducible repeat' first
    | assumption | exact Evolves.refl _ | refine State.record_evolves ?_ ..
    | ((conv => arg 2; arg 25); refine Evolves.upd ?_ (fun h => h) rfl rfl rfl rfl) | dsimp only

theorem State.actExtraction_evolves {s0 s : State} (h : Evolves s0 s) : Evolves s0 (State.actExtraction s) := by
  unfold State.actExtraction
  with_reducible repeat' first
    | assumption | exact Evolves.refl _ | refine State.sendRef_evolves ?_ .. | refine State.enterService_evolves ?_ ..
    | refine State.refuseExtract_evolves ?_ .. | ((conv => arg 2; arg 25); refine Evolves.upd ?_ (fun h => h) rfl rfl rfl rfl)
    | dsimp only | split | refine Evolves.ofFst (by assumption) ?_ | refine Evolves.ofSnd (by assumption) ?_

theorem State.afterSettle_evolves {s0 s : State} (h : Evolves s0 s) : Evolves s0 (State.afterSettle s) := by
  unfold State.afterSettle
  with_reducible repeat' first
    | assumption | exact Evolves.refl _ | refine State.restart_evolves ?_ .. | refine State.actExtraction_evolves ?_ ..
    | ((conv => arg 2; arg 25); refine Evolves.upd ?_ (fun h => h) rfl rfl rfl rfl) | dsimp only | split
    | refine Evolves.ofFst (by assumption) ?_ | refine Evolves.ofSnd (by assumption) ?_

theorem State.dropFallback_evolves {s0 s : State} (h : Evolves s0 s) : Evolves s0 (State.dropFallback s) := by
  unfold State.dropFallback
  with_reducible repeat' first
    | assumption | exact Evolves.refl _ | ((conv => arg 2; arg 25); refine Evolves.upd ?_ (fun h => h) rfl rfl rfl rfl)
    | dsimp only | split

theorem State.dropExtraction_evolves {s0 s : State} (h : Evolves s0 s) : Evolves s0 (State.dropExtraction s) := by
  unfold State.dropExtraction
  with_reducible repeat' first
    | assumption | exact Evolves.refl _ | refine State.refuseExtract_evolves ?_ .. | refine State.dropFallback_evolves ?_ ..
    | ((conv => arg 2; arg 25); refine Evolves.upd ?_ (fun h => h) rfl rfl rfl rfl) | dsimp only | split

theorem State.dropPlanned_evolves {s0 s : State} (h : Evolves s0 s) : Evolves s0 (State.dropPlanned s) := by
  unfold State.dropPlanned
  with_reducible repeat' first
    | assumption | exact Evolves.refl _ | refine State.dropExtraction_evolves ?_ ..
    | ((conv => arg 2; arg 25); refine Evolves.upd ?_ (fun h => h) rfl rfl rfl rfl) | dsimp only | split

theorem State.enterSafeHold_steady (s u : State) (cause code : Nat) (h : Steady u s) : Evolves u (State.enterSafeHold s cause code) := by
  unfold State.enterSafeHold
  refine Evolves.trans (Evolves.refenced (State.setMode_after _ _ _ _ (Steady.trans (h.after (State.endLease_evolves (Evolves.refl s))) ?_)))
    (State.afterSettle_evolves (Evolves.refl _))
  exact (Steady.refl _).upd id rfl rfl rfl

theorem State.enterSafeHold_self (s : State) (cause code : Nat) : Evolves s (State.enterSafeHold s cause code) :=
  State.enterSafeHold_steady s s cause code (Steady.refl s)

theorem State.enterSafeHold_evolves {s0 s : State} (h : Evolves s0 s) (cause code : Nat) : Evolves s0 (State.enterSafeHold s cause code) :=
  h.trans (State.enterSafeHold_self s cause code)

theorem State.checkJournalFull_evolves {s0 s : State} (h : Evolves s0 s) : Evolves s0 (State.checkJournalFull s) := by
  unfold State.checkJournalFull
  with_reducible repeat' first
    | assumption | exact Evolves.refl _ | refine State.record_evolves ?_ ..
    | ((conv => arg 2; arg 25); refine Evolves.upd ?_ (fun h => h) rfl rfl rfl rfl) | dsimp only | split

theorem State.checkJournalFree_evolves {s0 s : State} (h : Evolves s0 s) : Evolves s0 (State.checkJournalFree s) := by
  unfold State.checkJournalFree
  with_reducible repeat' first
    | assumption | exact Evolves.refl _ | refine State.record_evolves ?_ ..
    | ((conv => arg 2; arg 25); refine Evolves.upd ?_ (fun h => h) rfl rfl rfl rfl) | dsimp only | split

theorem State.journalAdd_evolves {s0 s : State} (h : Evolves s0 s) (b : JBody) : Evolves s0 (State.journalAdd s b) := by
  unfold State.journalAdd
  with_reducible repeat' first
    | assumption | exact Evolves.refl _ | refine State.sendWb_evolves ?_ .. | refine State.checkJournalFull_evolves ?_ ..
    | ((conv => arg 2; arg 25); refine Evolves.upd ?_ (fun h => h) rfl rfl rfl rfl) | dsimp only

theorem State.guaranteeBroken_evolves {s0 s : State} (h : Evolves s0 s) (args : List Nat) :
    Evolves s0 (State.guaranteeBroken s args) := by
  unfold State.guaranteeBroken
  with_reducible repeat' first
    | assumption | exact Evolves.refl _ | refine State.raise_evolves ?_ .. | refine State.record_evolves ?_ .. | dsimp only

theorem State.holdItem_evolves {s0 s : State} (h : Evolves s0 s) (e : ManEntry) (content : List Byte) :
    Evolves s0 (State.holdItem s e content) := by
  unfold State.holdItem
  with_reducible repeat' first
    | assumption | exact Evolves.refl _ | ((conv => arg 2; arg 25); refine Evolves.upd ?_ (fun h => h) rfl rfl rfl rfl)
    | dsimp only | split

theorem State.nameItem_evolves {s0 s : State} (h : Evolves s0 s) (e : ManEntry) (content : List Byte) :
    Evolves s0 (State.nameItem s e content) := by
  unfold State.nameItem
  with_reducible repeat' first
    | assumption | exact Evolves.refl _ | refine State.holdItem_evolves ?_ ..
    | ((conv => arg 2; arg 25); refine Evolves.upd ?_ (fun h => h) rfl rfl rfl rfl) | dsimp only | split

theorem State.planIfDegraded_evolves {s0 s : State} (h : Evolves s0 s) : Evolves s0 (State.planIfDegraded s) := by
  unfold State.planIfDegraded
  with_reducible repeat' first
    | assumption | exact Evolves.refl _ | ((conv => arg 2; arg 25); refine Evolves.upd ?_ (fun h => h) rfl rfl rfl rfl)
    | dsimp only | split

theorem State.leaveControl_self (s : State) : Evolves s (State.leaveControl s) := by
  unfold State.leaveControl
  split
  · exact State.enterSafeHold_steady _ _ _ _ ((Steady.refl s).upd id rfl rfl rfl)
  · exact Evolves.refl s

theorem State.leaveControl_evolves {s0 s : State} (h : Evolves s0 s) : Evolves s0 (State.leaveControl s ) :=
  h.trans (State.leaveControl_self s )

theorem State.safeIfLost_evolves {s0 s : State} (h : Evolves s0 s) : Evolves s0 (State.safeIfLost s) := by
  unfold State.safeIfLost
  with_reducible repeat' first
    | assumption | exact Evolves.refl _ | refine State.leaveControl_evolves ?_ .. | dsimp only | split

theorem State.setUnit_evolves {s0 s : State} (h : Evolves s0 s) (u : Nat) : Evolves s0 (State.setUnit s u) := by
  unfold State.setUnit
  with_reducible repeat' first
    | assumption | exact Evolves.refl _ | ((conv => arg 2; arg 25); refine Evolves.upd ?_ (fun h => h) rfl rfl rfl rfl)
    | dsimp only

theorem State.clearUnit_evolves {s0 s : State} (h : Evolves s0 s) (u : Nat) : Evolves s0 (State.clearUnit s u) := by
  unfold State.clearUnit
  with_reducible repeat' first
    | assumption | exact Evolves.refl _ | ((conv => arg 2; arg 25); refine Evolves.upd ?_ (fun h => h) rfl rfl rfl rfl)
    | dsimp only | split

theorem State.loseUnit_evolves {s0 s : State} (h : Evolves s0 s) (u : Nat) : Evolves s0 (State.loseUnit s u) := by
  unfold State.loseUnit
  with_reducible repeat' first
    | assumption | exact Evolves.refl _ | refine State.raise_evolves ?_ .. | refine State.record_evolves ?_ ..
    | refine State.planIfDegraded_evolves ?_ .. | refine State.safeIfLost_evolves ?_ .. | refine State.setUnit_evolves ?_ ..
    | dsimp only

theorem State.fromPartner_leads {s : State} (crcOk : Bool) (gen : Nat) {f : State → State} (hf : ∀ u, Evolves u (f u)) :
    Leads s (State.fromPartner s crcOk gen f) := by
  unfold State.fromPartner
  refine Leads.next ?_
  split
  · exact Evolves.refl s
  · exact (State.seeGen_evolves (Evolves.refl s) gen).trans (hf _)

end Sys2Proof.Machine
end

