-- ==== Sys2Proof/Laws/Says.lean ====
section
/-! SUPPORT. What recording, raising an event and sending do, said once: the relation `Says` of Safety.lean is built up step by step along a
command, one lemma for each operation. -/

namespace Sys2Proof.Machine

/-- The recorder after a record is offered to it. -/
def LogSt.offered (l : LogSt) (on info live : Bool) (r : Rec) : LogSt :=
  if l.taking && on then
    match (l.enter info r).2 with
    | some r' => if live ∧ r'.size ≤ 4194240 then (l.enter info r).1.copied r' else (l.enter info r).1
    | none => (l.enter info r).1
  else l

theorem State.liveCopy_log (s : State) (r : Rec) :
    (s.liveCopy r).log = if inDram s.liveBase ∧ r.size ≤ 4194240 then s.log.copied r else s.log := by
  unfold State.liveCopy
  split <;> rfl

theorem State.addRec_log (s : State) (r : Rec) :
    (s.addRec r).log = s.log.offered (s.powered 1) (s.bit .logCtrl 0) (inDram s.liveBase) r := by
  unfold State.addRec LogSt.offered
  split
  · split
    · rename_i e; rw [e, State.liveCopy_log]; rfl
    · rename_i e; rw [e]; rfl
  · rfl

/-- What a record depends on, the log apart. -/
def State.recView (s : State) : Nat × PlantTime × Nat × Bool × List (Nat × Word) := (s.tb.ang, s.tb.pt, s.status, s.powered 1, s.regs)

theorem State.recordAt_log_congr {s t : State} (hv : t.recView = s.recView) (hl : t.log = s.log) (n : RecName) (args : List Nat)
    (st : Nat) : (t.recordAt n args st).log = (s.recordAt n args st).log := by
  simp only [State.recView, Prod.mk.injEq] at hv
  obtain ⟨h1, h2, -, h3, h4⟩ := hv
  unfold State.recordAt
  simp only [State.addRec_log, State.recCode, State.bit, State.reg, State.liveBase, h1, h2, h3, h4, hl]

theorem State.record_log_congr {s t : State} (hv : t.recView = s.recView) (hl : t.log = s.log) (n : RecName) (args : List Nat) :
    (t.record n args).log = (s.record n args).log := by
  have hs : t.status = s.status := by
    simp only [State.recView, Prod.mk.injEq] at hv
    exact hv.2.2.1
  unfold State.record
  rw [hs]; exact State.recordAt_log_congr hv hl n args _

theorem State.liveCopy_powered (s : State) (r : Rec) (d : Nat) : (s.liveCopy r).powered d = s.powered d := by
  simp only [State.powered, State.liveCopy_frame]

theorem State.addRec_powered (s : State) (r : Rec) (d : Nat) : (s.addRec r).powered d = s.powered d := by
  unfold State.addRec
  split
  · split
    · rw [State.liveCopy_powered]; rfl
    · rfl
  · rfl

theorem State.record_recView (s : State) (n : RecName) (args : List Nat) : (s.record n args).recView = s.recView := by
  simp only [State.recView, State.record_frame, State.status, State.statusWith, State.mapValid]
  simp only [State.record, State.recordAt, State.addRec_powered]

/-! Memory outside the live window. -/

theorem leBytes_length (k n : Nat) : (leBytes k n).length = k := by
  induction k generalizing n with
  | zero => rfl
  | succ k ih => simp only [leBytes, List.length_cons, ih]

theorem ptBytes_length (t : PlantTime) : (ptBytes t).length = 12 := by
  simp only [ptBytes, List.length_append, leBytes_length, List.length_cons, List.length_nil]

theorem liveHeader_length (l : LogSt) : (liveHeader l).length = 64 := by
  simp only [liveHeader, List.length_append, leBytes_length, List.length_replicate]

/-- The record's own body fits the size it is given. -/
def Rec.fits (r : Rec) : Prop := r.soft.length + 48 ≤ r.size

theorem recBytes_length (slotB : Bool) (r : Rec) (h : r.fits) : (recBytes slotB r).length = r.size := by
  unfold Rec.fits at h
  have hb : (recBody r (r.size - 48)).length ≤ r.size - 48 := by
    unfold recBody
    split
    · omega
    · simp only [List.length_map, List.length_range, Nat.le_refl]
  simp only [recBytes, List.length_append, leBytes_length, ptBytes_length, List.length_replicate]
  omega

theorem liveMem_read {m : Memory} (hm : Memory.wf m = true) (base : Nat) (slotB : Bool) (l : LogSt) (r : Rec) (hf : r.fits)
    (hs : r.size ≤ 4194240) (a : Nat) (ha : a < base ∨ base + 4194304 ≤ a) : Memory.read (liveMem m base slotB l r) a = Memory.read m a := by
  have hoff : (l.copied r).headOff + r.size ≤ 4194304 := by
    unfold LogSt.copied
    dsimp only
    split <;> omega
  unfold liveMem
  dsimp only
  have key : ∀ m', Memory.wf m' = true → Memory.read (Memory.writeN (Memory.writeN m' (base + (l.copied r).headOff) (recBytes slotB r)) base
      (liveHeader (l.copied r))) a = Memory.read m' a := by
    intro m' hm'
    rw [Memory.read_writeN_outside (Memory.writeN_wf _ _ hm'), Memory.read_writeN_outside hm']
    · rw [recBytes_length _ _ hf]; omega
    · rw [liveHeader_length]; omega
  split
  · rw [key _ (Memory.writeN_wf _ _ hm), Memory.read_writeN_outside hm]
    simp only [padBytes, List.length_take]
    omega
  · exact key _ hm

theorem LogSt.enter_fits {l : LogSt} {i : Bool} {r r' : Rec} {l' : LogSt} (h : l.enter i r = (l', some r')) (hf : r.fits) : r'.fits := by
  unfold LogSt.enter at h
  dsimp only at h
  repeat' split at h
  all_goals
    first
    | (simp only [Prod.mk.injEq, reduceCtorEq, and_false] at h; done)
    | (simp only [Prod.mk.injEq, Option.some.injEq] at h
       obtain ⟨_, rfl⟩ := h
       exact hf)

theorem State.liveCopy_read {s : State} (hm : Memory.wf s.mem = true) {r : Rec} (hf : r.fits) {a : Nat} (ha : s.inLive a = false) :
    Memory.read (s.liveCopy r).mem a = Memory.read s.mem a := by
  unfold State.liveCopy
  split
  · rename_i h
    dsimp only
    refine liveMem_read hm _ _ _ _ hf h.2 a ?_
    simp only [State.inLive, h.1, Bool.true_and, decide_eq_false_iff_not] at ha
    omega
  · rfl

theorem State.addRec_read {s : State} (hm : Memory.wf s.mem = true) {r : Rec} (hf : r.fits) {a : Nat} (ha : s.inLive a = false) :
    Memory.read (s.addRec r).mem a = Memory.read s.mem a := by
  unfold State.addRec
  split
  · split
    · rename_i e
      exact State.liveCopy_read (s := (s.lightFault r.sev).setLog _) hm (LogSt.enter_fits e hf) ha
    · rfl
  · rfl

theorem recSize_le (n : Nat) : n + 48 ≤ recSize n := by unfold recSize; omega

theorem State.record_read {s : State} (hm : Memory.wf s.mem = true) (n : RecName) (args : List Nat) {a : Nat} (ha : s.inLive a = false) :
    Memory.read (s.record n args).mem a = Memory.read s.mem a := by
  refine State.addRec_read hm ?_ ha
  have := recSize_le (match assocGet s.log.codeTab n with | some (_, b) => b | none => 16)
  simp only [Rec.fits, List.length_nil]
  exact Nat.le_trans (by omega) this

/-! The relations. -/

theorem Reports.refl (u : State) : Reports u u := ⟨rfl, ⟨rfl, rfl⟩, rfl, id, fun _ _ _ => rfl⟩

theorem Says.refl (u : State) : Says u [] [] u := ⟨Reports.refl u, rfl, fun _ => by simp⟩

/-- What no report changes. -/
def State.repView (s : State) : PwrSt × TbSt × RtcSt × HqSt × WbSt × CoreSt × DbgSt × PrgSt × LoopSt × SlkSt × EstSt × ProtSt × DspSt ×
    DioSt × AioSt × CanSt × NetSt × NvsSt × SecSt × UpdSt × List LockSt × List (Nat × Word) × Cfg × Option Resp × Nat × List Instr :=
  (s.pwr, s.tb, s.rtc, s.hq, s.wb, s.core, s.dbg, s.prg, s.loop, s.slk, s.est, s.prot, s.dsp, s.dio, s.aio, s.can, s.net, s.nvs, s.sec,
    s.upd, s.locks, s.regs, s.cfg, s.resp, s.freeCtr, s.pending)

theorem State.eq_of_repView {u t : State} (h : t.repView = u.repView) (hs : t.sys = { u.sys with faultFlash := t.sys.faultFlash, faultAt := t.sys.faultAt }) :
    t = { u with sys := { u.sys with faultFlash := t.sys.faultFlash, faultAt := t.sys.faultAt }, evt := t.evt, log := t.log, mem := t.mem, out := t.out } := by
  rw [← hs]
  cases t
  cases u
  simp only [State.repView, Prod.mk.injEq] at h
  obtain ⟨rfl, rfl, rfl, rfl, rfl, rfl, rfl, rfl, rfl, rfl, rfl, rfl, rfl, rfl, rfl, rfl, rfl, rfl, rfl, rfl, rfl, rfl, rfl, rfl, rfl, rfl⟩ := h
  rfl

theorem State.addRec_sys (s : State) (r : Rec) :
    (s.addRec r).sys = { s.sys with faultFlash := s.sys.faultFlash || decide (2 ≤ r.sev), faultAt := if 2 ≤ r.sev then s.tb.csr else s.sys.faultAt } := by
  unfold State.addRec
  split
  · split
    · simp only [State.liveCopy_frame]; rfl
    · rfl
  · rfl

theorem Reports.trans {u t v : State} (h : Reports u t) (k : Reports t v) :
    Reports u v where
  frame := by have a := h.frame; have b := k.frame; rw [b]; rw [a]
  host := ⟨k.host.1.trans h.host.1, k.host.2.trans h.host.2⟩
  sent := k.sent.trans h.sent
  form := k.form ∘ h.form
  live := fun w a ha => by
    have hi : t.inLive a = u.inLive a := by
      have e := h.frame
      rw [e]; rfl
    rw [k.live (h.form w) a (hi.trans ha), h.live w a ha]

theorem Reports.record (s : State) (n : RecName) (args : List Nat) : Reports s (s.record n args) where
  frame := by
    refine State.eq_of_repView (by simp only [State.repView, State.record_frame]) ?_
    have e : (s.record n args).sys = { s.sys with faultFlash := (s.record n args).sys.faultFlash, faultAt := (s.record n args).sys.faultAt } := by
      unfold State.record State.recordAt
      rw [State.addRec_sys]
    exact e
  host := by simp
  sent := by simp
  form := (State.record_evolves (Evolves.refl s) n args).mem
  live := fun w _ ha => State.record_read w n args ha

theorem bitOf_eq_testBit (n i : Nat) : bitOf n i = n.testBit i := by
  simp only [bitOf, bitsOf, Nat.testBit_eq_decide_div_mod_eq, Nat.pow_one]
  rfl

/-- The event sources after one more is raised. -/
theorem State.raise_isPending (s : State) {k : Nat} (hk : k < 128) (j : Nat) :
    (s.raise k).isPending j = (s.isPending j || decide (k = j)) := by
  have hp : ∀ u : State, (u.deliver k).evt.pend = u.evt.pend := by
    intro u
    unfold State.deliver
    split
    · rfl
    · split
      · rfl
      · split <;> rfl
  unfold State.raise
  split
  · rename_i h
    by_cases e : k = j
    · subst e; simp only [h, Bool.true_or]
    · simp only [e, decide_false, Bool.or_false]
  · simp only [State.isPending, hp, bitOf_eq_testBit, BitVec.toNat_or, Nat.testBit_or, BitVec.toNat_ofNat]
    rw [Nat.mod_eq_of_lt (Nat.pow_lt_pow_right (by omega) hk), Nat.testBit_two_pow]

theorem Reports.raise (s : State) (k : Nat) : Reports s (s.raise k) where
  frame := by
    refine State.eq_of_repView (by simp only [State.repView, State.raise_frame]) ?_
    simp only [State.raise_frame]
  host := by
    unfold State.raise State.deliver
    repeat' split
    all_goals exact ⟨rfl, rfl⟩
  sent := by
    unfold State.raise State.deliver State.emit
    repeat' split
    all_goals first
      | rfl
      | (dsimp only; rw [List.filter_append]; exact List.append_nil _)
  form := (State.raise_evolves (Evolves.refl s) k).mem
  live := fun _ _ _ => by simp only [State.raise_frame]

theorem Reports.recView {u t : State} (h : Reports u t) : t.recView = u.recView := by
  have e := h.frame
  rw [e]; rfl

theorem recs_recView (rs : List (RecName × List Nat)) (u : State) :
    (rs.foldl (fun s (r : RecName × List Nat) => s.record r.1 r.2) u).recView = u.recView := by
  induction rs generalizing u with
  | nil => rfl
  | cons r rs ih => exact (ih _).trans (State.record_recView u r.1 r.2)

theorem recs_log_congr (rs : List (RecName × List Nat)) {u v : State} (hv : v.recView = u.recView) (hl : v.log = u.log) :
    (rs.foldl (fun s (r : RecName × List Nat) => s.record r.1 r.2) v).log =
      (rs.foldl (fun s (r : RecName × List Nat) => s.record r.1 r.2) u).log := by
  induction rs generalizing u v with
  | nil => exact hl
  | cons r rs ih =>
    refine ih ?_ (State.record_log_congr hv hl r.1 r.2)
    rw [State.record_recView, State.record_recView, hv]

/-- One more record. -/
theorem Says.record {u t : State} {rs : List (RecName × List Nat)} {es : List Nat} (h : Says u rs es t) (n : RecName) (args : List Nat) :
    Says u (rs ++ [(n, args)]) es (t.record n args) where
  toReports := h.toReports.trans (Reports.record t n args)
  log := by
    rw [List.foldl_append]
    refine State.record_log_congr ?_ h.log n args
    rw [recs_recView]; exact h.toReports.recView
  events := fun k => by rw [← h.events k]; simp only [State.isPending, State.record_frame]

/-- One more event source. -/
theorem Says.raise {u t : State} {rs : List (RecName × List Nat)} {es : List Nat} (h : Says u rs es t) (k : Nat) (hk : k < 128) :
    Says u rs (es ++ [k]) (t.raise k) where
  toReports := h.toReports.trans (Reports.raise t k)
  log := by rw [← h.log]; simp only [State.raise_frame]
  events := fun j => by
    rw [State.raise_isPending t hk, h.events j]
    simp only [List.any_append, List.any_cons, List.any_nil, Bool.or_false, Bool.or_assoc]

/-- Reports after reports. -/
theorem Says.trans {u t v : State} {rs rs' : List (RecName × List Nat)} {es es' : List Nat} (h : Says u rs es t) (k : Says t rs' es' v) :
    Says u (rs ++ rs') (es ++ es') v where
  toReports := h.toReports.trans k.toReports
  log := by
    rw [List.foldl_append, k.log]
    refine recs_log_congr rs' ?_ h.log
    rw [recs_recView]; exact h.toReports.recView
  events := fun j => by rw [k.events, h.events, List.any_append, Bool.or_assoc]

/-- `s` with the parts that a report may change set. -/
def State.withReport (s : State) (ff : Bool × Nat) (ev : EvtSt) (lg : LogSt) (mm : List Host.Cell) (oo : List Out) : State :=
  { s with sys := { s.sys with faultFlash := ff.1, faultAt := ff.2 }, evt := ev, log := lg, mem := mm, out := oo }

theorem Reports.eq {u t : State} (h : Reports u t) : t = u.withReport (t.sys.faultFlash, t.sys.faultAt) t.evt t.log t.mem t.out := h.frame

/-- An update that neither reads nor changes what a report changes may come before or after the reports. -/
theorem Says.upd {u t : State} {rs : List (RecName × List Nat)} {es : List Nat} (h : Says u rs es t) (f : State → State)
    (hf : ∀ ff ev lg mm oo, f (u.withReport ff ev lg mm oo) = (f u).withReport ff ev lg mm oo) (hv : (f u).recView = u.recView)
    (hs : (f u).withReport (u.sys.faultFlash, u.sys.faultAt) u.evt u.log u.mem u.out = f u) : Says (f u) rs es (f t) := by
  have et : f t = (f u).withReport (t.sys.faultFlash, t.sys.faultAt) t.evt t.log t.mem t.out := by
    conv => lhs; rw [h.toReports.eq]
    exact hf ..
  have eu : (f u).log = u.log ∧ (f u).evt = u.evt ∧ (f u).mem = u.mem ∧ (f u).out = u.out := by
    rw [← hs]; exact ⟨rfl, rfl, rfl, rfl⟩
  have hi : ∀ a, (f u).inLive a = u.inLive a := by
    intro a
    have hr : (f u).regs = u.regs := by simp only [State.recView, Prod.mk.injEq] at hv; exact hv.2.2.2.2
    have hb : (f u).liveBase = u.liveBase := by simp only [State.liveBase, State.reg, hr]
    unfold State.inLive
    rw [hb]
  have at' : (f t).log = t.log ∧ (f t).evt = t.evt ∧ (f t).mem = t.mem ∧ (f t).out = t.out := by
    rw [et]; exact ⟨rfl, rfl, rfl, rfl⟩
  refine { frame := ?_, host := ?_, sent := ?_, form := ?_, live := ?_, log := ?_, events := ?_ }
  · conv => lhs; rw [et]
    rw [et]; rfl
  · rw [eu.2.1, at'.2.1]; exact h.host
  · rw [eu.2.2.2, at'.2.2.2]; exact h.sent
  · rw [eu.2.2.1, at'.2.2.1]; exact h.form
  · rw [eu.2.2.1, at'.2.2.1]
    intro w a ha
    exact h.live w a ((hi a).symm.trans ha)
  · rw [at'.1, h.log]; exact (recs_log_congr rs hv eu.1).symm
  · intro k
    simp only [State.isPending, at'.2.1, eu.2.1]
    exact h.events k

/-- A message sent before or after the reports. -/
theorem Says.emit {u t : State} {rs : List (RecName × List Nat)} {es : List Nat} (h : Says u rs es t) (o : Out) :
    Says (u.emit o) rs es (t.emit o) := by
  have eo : (u.emit o).recView = u.recView := rfl
  refine { frame := ?_, host := h.host, sent := ?_, form := h.form, live := h.live, log := ?_, events := h.events }
  · conv => lhs; rw [h.toReports.eq]
    rfl
  · show (t.out ++ [o]).filter _ = (u.out ++ [o]).filter _
    rw [List.filter_append, List.filter_append, h.sent]
  · exact h.log.trans (recs_log_congr rs (v := u) (u := u.emit o) rfl rfl)

/-! What a report leaves alone, field by field. -/

theorem Reports.pwr {u t : State} (h : Reports u t) : t.pwr = u.pwr := by have e := h.frame; rw [e]
theorem Reports.tb {u t : State} (h : Reports u t) : t.tb = u.tb := by have e := h.frame; rw [e]
theorem Reports.rtc {u t : State} (h : Reports u t) : t.rtc = u.rtc := by have e := h.frame; rw [e]
theorem Reports.hq {u t : State} (h : Reports u t) : t.hq = u.hq := by have e := h.frame; rw [e]
theorem Reports.wb {u t : State} (h : Reports u t) : t.wb = u.wb := by have e := h.frame; rw [e]
theorem Reports.core {u t : State} (h : Reports u t) : t.core = u.core := by have e := h.frame; rw [e]
theorem Reports.dbg {u t : State} (h : Reports u t) : t.dbg = u.dbg := by have e := h.frame; rw [e]
theorem Reports.prg {u t : State} (h : Reports u t) : t.prg = u.prg := by have e := h.frame; rw [e]
theorem Reports.loop {u t : State} (h : Reports u t) : t.loop = u.loop := by have e := h.frame; rw [e]
theorem Reports.slk {u t : State} (h : Reports u t) : t.slk = u.slk := by have e := h.frame; rw [e]
theorem Reports.est {u t : State} (h : Reports u t) : t.est = u.est := by have e := h.frame; rw [e]
theorem Reports.prot {u t : State} (h : Reports u t) : t.prot = u.prot := by have e := h.frame; rw [e]
theorem Reports.dsp {u t : State} (h : Reports u t) : t.dsp = u.dsp := by have e := h.frame; rw [e]
theorem Reports.dio {u t : State} (h : Reports u t) : t.dio = u.dio := by have e := h.frame; rw [e]
theorem Reports.aio {u t : State} (h : Reports u t) : t.aio = u.aio := by have e := h.frame; rw [e]
theorem Reports.can {u t : State} (h : Reports u t) : t.can = u.can := by have e := h.frame; rw [e]
theorem Reports.net {u t : State} (h : Reports u t) : t.net = u.net := by have e := h.frame; rw [e]
theorem Reports.nvs {u t : State} (h : Reports u t) : t.nvs = u.nvs := by have e := h.frame; rw [e]
theorem Reports.sec {u t : State} (h : Reports u t) : t.sec = u.sec := by have e := h.frame; rw [e]
theorem Reports.upd {u t : State} (h : Reports u t) : t.upd = u.upd := by have e := h.frame; rw [e]
theorem Reports.locks {u t : State} (h : Reports u t) : t.locks = u.locks := by have e := h.frame; rw [e]
theorem Reports.regs {u t : State} (h : Reports u t) : t.regs = u.regs := by have e := h.frame; rw [e]
theorem Reports.cfg {u t : State} (h : Reports u t) : t.cfg = u.cfg := by have e := h.frame; rw [e]
theorem Reports.resp {u t : State} (h : Reports u t) : t.resp = u.resp := by have e := h.frame; rw [e]
theorem Reports.freeCtr {u t : State} (h : Reports u t) : t.freeCtr = u.freeCtr := by have e := h.frame; rw [e]
theorem Reports.pending {u t : State} (h : Reports u t) : t.pending = u.pending := by have e := h.frame; rw [e]
theorem Reports.sys {u t : State} (h : Reports u t) : t.sys = { u.sys with faultFlash := t.sys.faultFlash, faultAt := t.sys.faultAt } := by
  have e := h.frame; rw [e]
theorem Reports.mode {u t : State} (h : Reports u t) : t.sys.mode = u.sys.mode := by rw [h.sys]
theorem Reports.unitHealth {u t : State} (h : Reports u t) : t.sys.unitHealth = u.sys.unitHealth := by rw [h.sys]
theorem Reports.domains {u t : State} (h : Reports u t) : t.sys.domains = u.sys.domains := by rw [h.sys]

end Sys2Proof.Machine
end

