-- ==== Sys2Proof/Laws/Modes.lean ====
section
/-! SUPPORT. What a change of mode, the end of a lease and a restart leave, said once. -/

namespace Sys2Proof.Machine

theorem State.record_sys (s : State) (n : RecName) (args : List Nat) :
    (s.record n args).sys = { s.sys with faultFlash := (s.record n args).sys.faultFlash, faultAt := (s.record n args).sys.faultAt } := (Reports.record s n args).sys

theorem State.dropFence_wb (s : State) : s.dropFence.wb.fenced = true ∧ s.dropFence.wb.wdAlive = false ∧ s.dropFence.wb.lease = s.wb.lease ∧
    s.dropFence.wb.gen = s.wb.gen ∧ s.dropFence.wb.flushMarker = s.wb.flushMarker := by
  unfold State.dropFence
  dsimp only
  split <;> exact ⟨rfl, rfl, rfl, rfl, rfl⟩

theorem State.dropFence_lease (s : State) : s.dropFence.wb.lease = s.wb.lease := (State.dropFence_wb s).2.2.1
theorem State.dropFence_gen (s : State) : s.dropFence.wb.gen = s.wb.gen := (State.dropFence_wb s).2.2.2.1
theorem State.dropFence_flushMarker (s : State) : s.dropFence.wb.flushMarker = s.wb.flushMarker := (State.dropFence_wb s).2.2.2.2

/-- The system part of a changed mode before it is recorded. -/
theorem State.setMode_sys {s : State} {m : Mode} (h : s.sys.mode ≠ m) (c : Nat) :
    (s.setMode m c).sys.mode = m ∧ (s.setMode m c).sys.prevMode = s.sys.mode ∧ (s.setMode m c).sys.domains = modeDomains m ∧
    (s.setMode m c).sys.resetCause = s.sys.resetCause ∧ (s.setMode m c).sys.unitHealth = s.sys.unitHealth ∧
    (s.setMode m c).sys.safeHoldCause = (if m = .safeHold then s.sys.safeHoldCause else 0) ∧
    (s.setMode m c).sys.exitKind = (if m = .safeHold then s.sys.exitKind else none) ∧
    (s.setMode m c).sys.starting = (s.sys.starting && decide (m = .boot)) ∧
    (s.setMode m c).sys.cocoonWoke = (s.sys.cocoonWoke && decide (m = .cocoon)) ∧
    (s.setMode m c).sys.restartPend = s.sys.restartPend ∧ (s.setMode m c).sys.starter = s.sys.starter := by
  unfold State.setMode
  rw [if_neg h]
  simp only [State.refence_frame]
  rw [State.record_sys]
  split <;> simp only [State.dropFence_frame, State.ringMode_frame, State.fieldMode_frame, State.closeLocks_frame, and_self]

theorem State.setMode_mode (s : State) (m : Mode) (c : Nat) : (s.setMode m c).sys.mode = m := by
  by_cases h : s.sys.mode = m
  · unfold State.setMode; rw [if_pos h]; exact h
  · exact (State.setMode_sys h c).1

theorem State.setMode_unitHealth (s : State) (m : Mode) (c : Nat) : (s.setMode m c).sys.unitHealth = s.sys.unitHealth := by
  by_cases h : s.sys.mode = m
  · unfold State.setMode; rw [if_pos h]
  · exact (State.setMode_sys h c).2.2.2.2.1

theorem State.setMode_cause (s : State) (m : Mode) (c : Nat) : (s.setMode m c).sys.resetCause = s.sys.resetCause := by
  by_cases h : s.sys.mode = m
  · unfold State.setMode; rw [if_pos h]
  · exact (State.setMode_sys h c).2.2.2.1

/-- Lease, generation and flush marker pass through a change of mode; the fence follows R629. -/
theorem State.setMode_wb (s : State) (m : Mode) (c : Nat) :
    (s.setMode m c).wb.lease = s.wb.lease ∧ (s.setMode m c).wb.gen = s.wb.gen ∧ (s.setMode m c).wb.flushMarker = s.wb.flushMarker := by
  unfold State.setMode
  split
  · exact ⟨rfl, rfl, rfl⟩
  · dsimp only
    unfold State.refence
    simp only [State.record_frame]
    split <;> simp only [State.dropFence_lease, State.dropFence_gen, State.dropFence_flushMarker, State.ringMode_frame, State.fieldMode_frame,
      State.closeLocks_frame, and_self]

/-- In a mode that never drives the fence it is low. -/
theorem State.setMode_fenced {s : State} {m : Mode} (h : s.sys.mode ≠ m) (c : Nat)
    (hm : m = .inserted ∨ m = .quarantine ∨ m = .service ∨ m = .sync) : (s.setMode m c).wb.fenced = true := by
  have hs := State.setMode_sys h c
  have : (s.setMode m c).wb.fenced = !((s.setMode m c).fenceAllowed && (s.setMode m c).wb.wdAlive) := by
    unfold State.setMode
    rw [if_neg h]
    rfl
  rw [this]
  have : (s.setMode m c).fenceAllowed = false := by
    unfold State.fenceAllowed
    rw [hs.1]
    rcases hm with rfl | rfl | rfl | rfl <;> rfl
  rw [this]; rfl

theorem State.endLease_facts (s : State) : s.endLease.wb.lease = .none ∧ s.endLease.wb.gen = s.wb.gen ∧ s.endLease.sys = s.sys := by
  unfold State.endLease
  split
  · exact ⟨by assumption, rfl, rfl⟩
  · simp only [State.raise_frame, and_self]

theorem State.enterService_facts {s : State} (h : s.sys.mode ≠ .service) (c : Nat) :
    (s.enterService c).sys.mode = .service ∧ (s.enterService c).wb.lease = .none ∧ (s.enterService c).wb.fenced = true := by
  unfold State.enterService
  have e := State.endLease_facts s
  refine ⟨State.setMode_mode _ _ _, (State.setMode_wb _ _ _).1.trans e.1, ?_⟩
  exact State.setMode_fenced (by rw [e.2.2]; exact h) c (by simp)

/-- In SAFE-HOLD what waited for a settled lease is a refused extraction, unless a restart waited. -/
theorem State.afterSettle_safeHold {s : State} (hm : s.sys.mode = .safeHold) (hr : s.sys.restartPend = none) :
    s.afterSettle = s ∨ s.afterSettle = s.refuseExtract := by
  unfold State.afterSettle
  rw [hr]
  dsimp only
  split
  · exact .inr (by unfold State.actExtraction; rw [hm])
  · exact .inl rfl

theorem State.refuseExtract_sys (s : State) : s.refuseExtract.sys.mode = s.sys.mode ∧ s.refuseExtract.sys.safeHoldCause = s.sys.safeHoldCause ∧
    s.refuseExtract.sys.unitHealth = s.sys.unitHealth ∧ s.refuseExtract.wb = s.wb := by
  unfold State.refuseExtract
  rw [State.record_sys]
  simp only [State.record_frame, and_self]

theorem State.enterSafeHold_facts {s : State} (h : s.sys.mode ≠ .safeHold) (hr : s.sys.restartPend = none) (k c : Nat) :
    (s.enterSafeHold k c).sys.mode = .safeHold ∧ (s.enterSafeHold k c).sys.safeHoldCause = k ∧
    (s.enterSafeHold k c).wb.lease = .none ∧ (s.enterSafeHold k c).wb.fenced = true ∧
    (s.enterSafeHold k c).sys.unitHealth = s.sys.unitHealth := by
  unfold State.enterSafeHold
  dsimp only
  have e := State.endLease_facts s
  generalize hv : ({ s.endLease with sys := { s.endLease.sys with safeHoldCause := k, exitKind := none } } : State) = v
  have v1 : v.sys = { s.sys with safeHoldCause := k, exitKind := none } := by rw [← hv, ← e.2.2]
  have v2 : v.wb = s.endLease.wb := by rw [← hv]
  have hm : v.sys.mode ≠ .safeHold := by rw [v1]; exact h
  have f := State.setMode_sys hm c
  have hw := (State.setMode_wb v .safeHold c).1
  have key : (v.setMode .safeHold c).refence.sys.mode = .safeHold ∧ (v.setMode .safeHold c).refence.sys.safeHoldCause = k ∧
      (v.setMode .safeHold c).refence.wb.lease = .none ∧ (v.setMode .safeHold c).refence.wb.fenced = true ∧
      (v.setMode .safeHold c).refence.sys.unitHealth = s.sys.unitHealth := by
    refine ⟨f.1, f.2.2.2.2.2.1.trans (by rw [v1]; rfl), hw.trans (by rw [v2]; exact e.1), ?_, f.2.2.2.2.1.trans (by rw [v1])⟩
    show (!(State.fenceAllowed _ && _)) = true
    have : State.fenceAllowed (v.setMode .safeHold c) = false := by
      unfold State.fenceAllowed
      rw [f.1]
      dsimp only
      rw [f.2.2.2.2.2.2.1, v1]
      rfl
    rw [this]; rfl
  have hp : (v.setMode .safeHold c).refence.sys.restartPend = none := f.2.2.2.2.2.2.2.2.2.1.trans (by rw [v1]; exact hr)
  rcases State.afterSettle_safeHold key.1 hp with q | q
  · rw [q]; exact key
  · rw [q]
    have r := State.refuseExtract_sys (v.setMode .safeHold c).refence
    exact ⟨r.1.trans key.1, r.2.1.trans key.2.1, by rw [r.2.2.2]; exact key.2.2.1, by rw [r.2.2.2]; exact key.2.2.2.1, r.2.2.1.trans key.2.2.2.2⟩

/-- What the entry into SAFE-HOLD keeps while no restart waits. -/
theorem State.enterSafeHold_keeps {s : State} (hr : s.sys.restartPend = none) (h : s.sys.mode ≠ .safeHold) (k c : Nat) : (s.enterSafeHold k c).core = s.core ∧
    ∃ f e, (s.enterSafeHold k c).pwr = { s.pwr with pullFlash := f, extraction := e } := by
  unfold State.enterSafeHold
  dsimp only
  have e := State.endLease_facts s
  generalize hv : ({ s.endLease with sys := { s.endLease.sys with safeHoldCause := k, exitKind := none } } : State) = v
  have v1 : v.sys = { s.sys with safeHoldCause := k, exitKind := none } := by rw [← hv, ← e.2.2]
  have hm : v.sys.mode ≠ .safeHold := by rw [v1]; exact h
  have f := State.setMode_sys hm c
  have hp : (v.setMode .safeHold c).refence.sys.restartPend = none := f.2.2.2.2.2.2.2.2.2.1.trans (by rw [v1]; exact hr)
  have hc : (v.setMode .safeHold c).refence.core = s.core ∧ (v.setMode .safeHold c).refence.pwr = s.pwr := by
    simp only [State.refence_frame, State.setMode_frame]
    rw [← hv]
    simp only [State.endLease_frame, and_self]
  rcases State.afterSettle_safeHold (show (v.setMode .safeHold c).refence.sys.mode = .safeHold from f.1) hp with q | q <;> rw [q]
  · exact ⟨hc.1, _, _, hc.2⟩
  · unfold State.refuseExtract
    simp only [State.record_frame]
    exact ⟨hc.1, true, false, by rw [hc.2]⟩

theorem State.enterSafeHold_core {s : State} (hr : s.sys.restartPend = none) (h : s.sys.mode ≠ .safeHold) (k c : Nat) : (s.enterSafeHold k c).core = s.core :=
  (State.enterSafeHold_keeps hr h k c).1

/-- An RTC_LOST record that waits is one record and one event. -/
theorem State.tellRtcLost_reports (s : State) : Reports { s with rtc := { s.rtc with lostPend := none } } s.tellRtcLost := by
  unfold State.tellRtcLost
  split
  · exact (Reports.record _ _ _).trans (Reports.raise _ 106)
  · rename_i h
    have : ({ s with rtc := { s.rtc with lostPend := none } } : State) = s := by rw [← h]
    rw [this]; exact Reports.refl s

/-- A restart ends in BOOT with its cause, the fence low and no lease. -/
theorem State.restart_facts (s : State) (c : Nat) :
    (s.restart c).sys.mode = .boot ∧ (s.restart c).sys.resetCause = c ∧ (s.restart c).wb.fenced = true ∧ (s.restart c).wb.lease = .none ∧
    (s.restart c).sys.domains = modeDomains .boot := by
  have h0 : (s.afterRestart c).wb.fenced = true ∧ (s.afterRestart c).wb.lease = .none ∧ (s.afterRestart c).sys.starting = false ∧
      (s.afterRestart c).sys.resetCause = c := ⟨rfl, rfl, rfl, rfl⟩
  have key : ∀ u : State, u.wb.fenced = true ∧ u.wb.lease = .none ∧ u.sys.starting = false ∧ u.sys.resetCause = c ∧ u.sys.domains = modeDomains .boot →
      (u.setMode .boot).sys.mode = .boot ∧ (u.setMode .boot).sys.resetCause = c ∧ (u.setMode .boot).wb.fenced = true ∧
      (u.setMode .boot).wb.lease = .none ∧ (u.setMode .boot).sys.domains = modeDomains .boot := by
    intro u ⟨h1, h2, h3, h4, h5⟩
    by_cases h : u.sys.mode = .boot
    · unfold State.setMode; rw [if_pos h]; exact ⟨h, h4, h1, h2, h5⟩
    · have f := State.setMode_sys h 0
      refine ⟨f.1, f.2.2.2.1.trans h4, ?_, (State.setMode_wb _ _ _).1.trans h2, f.2.2.1⟩
      have : (u.setMode .boot).wb.fenced = !((u.setMode .boot).fenceAllowed && (u.setMode .boot).wb.wdAlive) := by
        unfold State.setMode
        rw [if_neg h]
        rfl
      rw [this]
      have : (u.setMode .boot).fenceAllowed = false := by
        unfold State.fenceAllowed
        rw [f.1]
        dsimp only
        rw [f.2.2.2.2.2.2.2.1, h3]; rfl
      rw [this]; rfl
  have rec3 : ∀ (u : State) (n : RecName) (a : List Nat), (u.sys.mode = .boot ∧ u.sys.resetCause = c ∧ u.wb.fenced = true ∧ u.wb.lease = .none ∧
      u.sys.domains = modeDomains .boot) → ((u.record n a).sys.mode = .boot ∧ (u.record n a).sys.resetCause = c ∧
      (u.record n a).wb.fenced = true ∧ (u.record n a).wb.lease = .none ∧ (u.record n a).sys.domains = modeDomains .boot) := by
    intro u n a h
    rw [State.record_sys]
    simp only [State.record_frame]
    exact h
  unfold State.restart
  dsimp only
  refine rec3 _ _ _ ?_
  have tell : ∀ u : State, (u.sys.mode = .boot ∧ u.sys.resetCause = c ∧ u.wb.fenced = true ∧ u.wb.lease = .none ∧ u.sys.domains = modeDomains .boot) →
      (u.tellRtcLost.sys.mode = .boot ∧ u.tellRtcLost.sys.resetCause = c ∧ u.tellRtcLost.wb.fenced = true ∧ u.tellRtcLost.wb.lease = .none ∧
        u.tellRtcLost.sys.domains = modeDomains .boot) := by
    intro u h
    have r := State.tellRtcLost_reports u
    rw [r.sys, r.wb]
    exact h
  refine tell _ ?_
  have k2 := key { s.afterRestart c with sys := { (s.afterRestart c).sys with domains := modeDomains .boot } }
    ⟨h0.1, h0.2.1, h0.2.2.1, h0.2.2.2, rfl⟩
  split <;> (try refine rec3 _ _ _ ?_) <;> split <;> (try refine rec3 _ _ _ ?_) <;> exact k2

/-- What else a restart leaves as its own rule says. -/
theorem State.restart_keeps (s : State) (c : Nat) :
    (s.restart c).pwr = (s.afterRestart c).pwr ∧ (s.restart c).wb.flushMarker = s.wb.flushMarker ∧ (s.restart c).tb = (s.afterRestart c).tb ∧
    (s.restart c).core = (s.afterRestart c).core ∧ (s.restart c).sec = (s.afterRestart c).sec ∧ (s.restart c).nvs = (s.afterRestart c).nvs ∧
    (s.restart c).regs = (s.afterRestart c).regs ∧ (s.restart c).rtc = { s.rtc with lostPend := none } ∧ (s.restart c).hq = (s.afterRestart c).hq := by
  unfold State.restart
  dsimp only
  have r := State.tellRtcLost_reports
  simp only [State.record_frame, (r _).pwr, (r _).wb, (r _).tb, (r _).core, (r _).sec, (r _).nvs, (r _).regs, (r _).rtc, (r _).hq]
  split <;> split <;> simp only [State.record_frame, State.setMode_frame, (State.setMode_wb _ _ _).2.2, and_true, true_and] <;>
    exact ⟨rfl, rfl⟩

/-! Units. -/

theorem planIfDegraded_id {s : State} (h : s.sys.mode ≠ .active) : s.planIfDegraded = s := by
  unfold State.planIfDegraded; rw [if_neg (fun x => h x.1)]
theorem safeIfLost_id {s : State} (h : controlLost s.sys.unitHealth true = false) : s.safeIfLost = s := by
  unfold State.safeIfLost; rw [if_neg (by simp [h])]

theorem loseUnit_says (s : State) (u : Nat) (hm : s.sys.mode ≠ .active) (hc : controlLost (s.sys.unitHealth ||| 2 ^ u) true = false) :
    Says (s.setUnit u) [(.unitLost, [u])] [108] (s.loseUnit u) := by
  have h := (((Says.refl (s.setUnit u)).record .unitLost [u]).raise 108 (by decide))
  unfold State.loseUnit
  rw [planIfDegraded_id (by rw [h.toReports.mode]; exact hm), safeIfLost_id]
  · exact h
  · rw [h.toReports.unitHealth]; exact hc

theorem unitUp_false {s : State} {u : Nat} : s.unitUp u = false ↔ bitOf s.sys.unitHealth u = true := by
  simp [State.unitUp]

theorem clearUnit_up (s : State) (u i : Nat) : (s.clearUnit u).unitUp i = (s.unitUp i || decide (i = u)) := by
  simp only [State.unitUp, State.clearUnit, bitOf_eq_testBit]
  split
  · rename_i h
    rw [Nat.testBit_xor, Nat.testBit_two_pow]
    by_cases e : i = u
    · subst e; simp [h]
    · simp [e, Ne.symm e]
  · rename_i h
    by_cases e : i = u
    · subst e; simp [h]
    · simp [e]

theorem setUnit_down (s : State) (u : Nat) : (s.setUnit u).unitUp u = false := by
  simp [State.unitUp, State.setUnit, bitOf_eq_testBit, Nat.testBit_or, Nat.testBit_two_pow_self]

end Sys2Proof.Machine
end

