-- ==== Sys2Proof/Laws/Operations.lean ====
section
/-! SUPPORT. What the shared operations of engines do, said once: journal entries, result areas, the end of an operation. -/

namespace Sys2Proof.Machine

theorem setOp_opOf {s : State} {t : Nat} {op : Op} (h : s.opOf (.tag t) = some op) : op ∈ s.hq.ops ∧ op.tag = t ∧ op.done = none ∧ op.jsn = none := by
  unfold State.opOf at h
  have h1 := List.find?_some h
  have h2 := List.mem_of_find?_eq_some h
  simp [Op.atEngine] at h1
  exact ⟨h2, h1.1.1.1.1, h1.1.1.2.1.1, h1.1.1.1.2⟩

theorem journalAdd_facts (s : State) (b : JBody) : (s.journalAdd b).wb.jsn = s.wb.jsn + 1 ∧
    (s.journalAdd b).wb.journal = s.wb.journal ++ [⟨s.wb.jsn + 1, s.sendGen, b⟩] ∧ (s.journalAdd b).hq = s.hq ∧ (s.journalAdd b).sys.mode = s.sys.mode := by
  have hk : ∀ u : State, u.checkJournalFull.wb.jsn = u.wb.jsn ∧ u.checkJournalFull.wb.journal = u.wb.journal ∧ u.checkJournalFull.hq = u.hq
      ∧ u.checkJournalFull.sys.mode = u.sys.mode := by
    intro u
    unfold State.checkJournalFull
    split
    · rw [State.record_sys]; simp only [State.record_frame, and_self]
    · exact ⟨rfl, rfl, rfl, rfl⟩
  have hw : ∀ (u : State) m, (u.sendWb m).wb = u.wb ∧ (u.sendWb m).hq = u.hq ∧ (u.sendWb m).sys = u.sys := by
    intro u m; unfold State.sendWb; split <;> exact ⟨rfl, rfl, rfl⟩
  unfold State.journalAdd
  dsimp only
  rw [(hk _).1, (hk _).2.1, (hk _).2.2.1, (hk _).2.2.2, (hw _ _).1, (hw _ _).2.1, (hw _ _).2.2]
  exact ⟨rfl, rfl, rfl, rfl⟩

theorem writeRes_mem (s : State) (op : Op) (o : Nat) (b : List Byte) : ∃ m, s.writeRes op o b = { s with mem := m } := by
  unfold State.writeRes; split
  · exact ⟨s.mem, rfl⟩
  · exact ⟨_, rfl⟩

theorem stepBoundary_durable (s : State) (op : Op) (hj : op.jsn.isSome = true) (ha : s.authoritative = true) :
    (s.stepBoundary op).wb.jsn = s.wb.jsn + 1 ∧
    (s.stepBoundary op).wb.journal = s.wb.journal ++ [⟨s.wb.jsn + 1, s.sendGen, .step op.ring (dSubmit op.bytes) op.steps⟩] ∧
    (s.stepBoundary op).hq = s.hq := by
  unfold State.stepBoundary
  dsimp only
  generalize hs2 : (if dProgress op.bytes = true ∧ op.steps % 256 = 0 then _ else s) = s2
  have f2 : ∃ m, s2 = { s with mem := m } := by
    rw [← hs2]; split
    · exact writeRes_mem ..
    · exact ⟨s.mem, rfl⟩
  obtain ⟨m, rfl⟩ := f2
  rw [if_pos ⟨hj, ha⟩]
  obtain ⟨g1, g2, g3, _⟩ := journalAdd_facts ({ s with mem := m } : State) (.step op.ring (dSubmit op.bytes) op.steps)
  exact ⟨g1, g2, g3⟩

end Sys2Proof.Machine
end

