-- ==== Sys2Proof/Laws/Registers.lean ====
section
/-! SUPPORT. What a register access does, said once: the latches of a wide value, a write that reaches a register, refusals, block locks, and
the fields of a register word. -/

namespace Sys2Proof.Machine

theorem unlatch_latched (s : State) (key a : Nat) (as : List Nat) (h : a ∈ as) : (s.unlatch key as).latched key a = none := by
  simp only [State.latched, State.unlatch, Option.map_eq_none_iff, List.find?_eq_none, List.mem_filter]
  intro l hl
  simp only [Bool.and_eq_true, beq_iff_eq, not_and]
  intro hk ha
  have := hl.2
  simp [hk, ha, h] at this

theorem latchWords_latched (s : State) (k : LatchKind) (key a : Nat) (ws : List (RegName × Nat × Nat)) (h : s.latched key a = none) :
    (s.latchWords k key ws).latched key a =
      (ws.find? fun w => w.1.addr w.2.1 w.2.2 == a).map fun w => s.regWord w.1 w.2.1 w.2.2 := by
  simp only [State.latched, Option.map_eq_none_iff] at h
  simp only [State.latched, State.latchWords, List.find?_append, h, Option.none_or, List.find?_map, Option.map_map]
  simp [Function.comp_def]

theorem regWord_latches (s : State) (l : List Latch) (r : RegName) (i j : Nat) :
    ({ s with tb := { s.tb with latches := l } } : State).regWord r i j = s.regWord r i j := rfl

theorem readLatched_first {s : State} {q : Requester} {r : RegName} {i j : Nat} {k : LatchKind} {ws : List (RegName × Nat × Nat)}
    (hk : s.dropOldLatches.seriesOf r i j = (k, ws)) (hn : s.dropOldLatches.latched (latchKey k q) (r.addr i j) = none)
    (hs : k ≠ .shadow) (h1 : (seriesAddrs ws).head? = some (r.addr i j)) (h2 : 1 < (seriesAddrs ws).length) :
    s.readLatched q r i j = ((s.dropOldLatches.unlatch (latchKey k q) (seriesAddrs ws)).latchWords k (latchKey k q) (ws.drop 1),
      s.regWord r i j) := by
  unfold State.readLatched
  simp only [hk, hn, hs, if_false, h1, h2, and_self, if_true]
  rfl

theorem readSpace_reg {s : State} {q : Requester} {r : RegName} {i j : Nat} (e1 : findReg (r.addr i j) = some (r, i, j))
    (e2 : debugLocked (r.addr i j) = false) (e4 : inWindow (r.addr i j) = false) (e5 : r.addr i j / 65536 ≠ 0x4016)
    (e6 : r ≠ .dbgDm) : s.readRegs q (r.addr i j) = s.readReg q r i j := by
  have e7 : dmAt (r.addr i j) = none := by
    unfold dmAt; rw [e1]
    split
    · rename_i h; simp only [Option.some.injEq, Prod.mk.injEq] at h; exact absurd h.1 e6
    · rfl
  unfold State.readRegs State.debugBlind State.readSpace
  rw [e2, e7, e4, e1]
  simp [e5]

theorem answer_latched (s : State) (q : Requester) (v key a : Nat) : (s.answer q v).latched key a = s.latched key a := rfl

/-- `t` is `s` but for its latches. -/
def State.latchOnly (s t : State) : Prop := ∃ l, t = { s with tb := { s.tb with latches := l } }
theorem dropOld_only (s : State) : State.latchOnly s s.dropOldLatches := ⟨_, rfl⟩
theorem unlatch_only {s t : State} (h : State.latchOnly s t) (key : Nat) (as : List Nat) : State.latchOnly s (t.unlatch key as) := by
  obtain ⟨l, rfl⟩ := h; exact ⟨_, rfl⟩
theorem latchWords_only {s t : State} (h : State.latchOnly s t) (k : LatchKind) (key : Nat) (ws : List (RegName × Nat × Nat)) :
    State.latchOnly s (t.latchWords k key ws) := by
  have e : ∀ u : State, ∃ new, u.latchWords k key ws = { u with tb := { u.tb with latches := u.tb.latches ++ new } } := fun u => ⟨_, rfl⟩
  obtain ⟨n, hn⟩ := e t
  rw [hn]
  obtain ⟨l, rfl⟩ := h
  exact ⟨l ++ n, rfl⟩
theorem answer_only {s t : State} (h : State.latchOnly s t) (q : Requester) (v : Nat) :
    t.answer q v = { s with tb := { s.tb with latches := (t.answer q v).tb.latches }, resp := (t.answer q v).resp } := by
  obtain ⟨l, rfl⟩ := h; rfl

theorem readRegs_first {s : State} {q : Requester} {r : RegName} {i j : Nat} {k : LatchKind} {ws : List (RegName × Nat × Nat)}
    (e1 : findReg (r.addr i j) = some (r, i, j))
    (e2 : debugLocked (r.addr i j) = false) (e4 : inWindow (r.addr i j) = false) (e5 : r.addr i j / 65536 ≠ 0x4016)
    (e6 : r ≠ .dbgDm) (e7 : ∀ u : State, u.readReg q r i j = (u.readLatched q r i j).1.answer q (u.readLatched q r i j).2.toNat)
    (hk : s.dropOldLatches.seriesOf r i j = (k, ws)) (hn : s.dropOldLatches.latched (latchKey k q) (r.addr i j) = none)
    (hs : k ≠ .shadow) (h1 : (seriesAddrs ws).head? = some (r.addr i j)) (h2 : 1 < (seriesAddrs ws).length) :
    ∃ t, s.readRegs q (r.addr i j) = t ∧ t = { s with tb := { s.tb with latches := t.tb.latches }, resp := t.resp } ∧
      t.resp = some ⟨q, (s.regWord r i j).toNat, .ok⟩ ∧
      ∀ a ∈ seriesAddrs ws, t.latched (latchKey k q) a =
        ((ws.drop 1).find? fun w => w.1.addr w.2.1 w.2.2 == a).map fun w => s.regWord w.1 w.2.1 w.2.2 := by
  refine ⟨_, rfl, ?_⟩
  rw [readSpace_reg e1 e2 e4 e5 e6, e7, readLatched_first hk hn hs h1 h2]
  refine ⟨answer_only (latchWords_only (unlatch_only (dropOld_only s) _ _) _ _ _) _ _, rfl, ?_⟩
  intro a ha
  rw [answer_latched, latchWords_latched _ _ _ _ _ (unlatch_latched _ _ _ _ ha)]
  congr 1

theorem writeRegs_reg {s : State} {q : Requester} {r : RegName} {i j : Nat} (v : Word) (e1 : findReg (r.addr i j) = some (r, i, j))
    (e6 : r ≠ .dbgDm) : s.writeRegs q (r.addr i j) v = s.writeSpace q (r.addr i j) v := by
  have e7 : dmAt (r.addr i j) = none := by
    unfold dmAt; rw [e1]
    split
    · rename_i h; simp only [Option.some.injEq, Prod.mk.injEq] at h; exact absurd h.1 e6
    · rfl
  unfold State.writeRegs
  rw [e7]

theorem writeSpace_reg {s : State} {q : Requester} {r : RegName} {i j : Nat} (v : Word) (e1 : findReg (r.addr i j) = some (r, i, j))
    (hb : s.writeBarred q (r.addr i j) = none) (e4 : inWindow (r.addr i j) = false) :
    s.writeSpace q (r.addr i j) v = (s.writeAt q r i j v).unlatch (latchKey (s.seriesOf r i j).1 q) [r.addr i j] := by
  unfold State.writeSpace
  rw [hb, e4, e1]
  rfl

theorem refuse_says (s : State) (q : Requester) (a : Nat) : Says s [(.writeRefused, [a, q.code])] [115] (s.refuseWrite q a) :=
  (((Says.refl s).record .writeRefused [a, q.code]).raise 115 (by decide))

theorem deny_says (s : State) (a : Nat) :
    Says { s with dbg := { s.dbg with denied := satAt 65535 (s.dbg.denied + 1) } } [(.debugDenied, [a])] [114] (s.denyDebug a) :=
  (((Says.refl _).record .debugDenied [a]).raise 114 (by decide))

theorem findReg_lock : ∀ b < 23, findReg (RegName.lock.addr b 0) = some (.lock, b, 0) := by decide +kernel
theorem window_lock : ∀ b < 23, inWindow (RegName.lock.addr b 0) = false := by decide +kernel
theorem blk_lock : ∀ b < 23, RegName.lock.addr b 0 / 65536 = 0x4000 + b := by decide +kernel
theorem mod_lock : ∀ b < 23, RegName.lock.addr b 0 % 65536 = 0x7FF0 := by decide +kernel
theorem locked_lock : ∀ b < 23, debugLocked (RegName.lock.addr b 0) = false := by decide +kernel

theorem updAt_getD {α : Type} (l : List α) (i k : Nat) (f : α → α) (d : α) :
    (updAt l i f).getD k d = if k = i ∧ i < l.length then f (l.getD i d) else l.getD k d := by
  induction l generalizing i k with
  | nil => simp [updAt]
  | cons x xs ih =>
    cases i with
    | zero => cases k <;> simp [updAt]
    | succ i =>
      cases k with
      | zero => simp [updAt]
      | succ k =>
        simp only [updAt, List.getD_cons_succ, ih, List.length_cons, Nat.add_lt_add_iff_right, Nat.add_right_cancel_iff]

theorem setLock_of (s : State) (b c : Nat) (f : LockSt → LockSt) :
    (s.setLock b f).lockOf c = if c = b ∧ b < s.locks.length then f (s.lockOf b) else s.lockOf c := updAt_getD ..

theorem unlatch_upd {u t : State} {rs : List (RecName × List Nat)} {es : List Nat} (h : Says u rs es t) (k : Nat) (as : List Nat) :
    Says (u.unlatch k as) rs es (t.unlatch k as) :=
  h.upd (fun s => s.unlatch k as) (fun _ _ _ _ _ => rfl) rfl rfl

theorem writeRegs_lock {s : State} {q : Requester} {b : Nat} (hb : b < 23) (hh : q = .host → b ≠ 22)
    (hd : q = .debug → s.debugMayWrite = true) (v : Word) :
    s.writeRegs q (RegName.lock.addr b 0) v = (s.writeLock q b v).unlatch (latchKey .timed q) [RegName.lock.addr b 0] := by
  have hbar : s.writeBarred q (RegName.lock.addr b 0) = none := by
    unfold State.writeBarred
    cases q with
    | core => rfl
    | engine => rfl
    | host =>
      have : ¬ (0x4000 + b = 0x4016) := by have := hh rfl; omega
      simp only [blk_lock b hb, this, if_false]
    | debug => simp only [locked_lock b hb, hd rfl, Bool.false_eq_true, if_false]; simp
  rw [writeRegs_reg v (findReg_lock b hb) (by decide), writeSpace_reg v (findReg_lock b hb) hbar (window_lock b hb)]
  rfl

theorem hi16 (key : Nat) (o : Nat) (ho : o ≤ 1) (hk : key < 2 ^ 16) : bitsOf (BitVec.ofNat 32 (2 ^ 16 * (key % 2 ^ 16) + o)).toNat 16 16 = key := by
  simp only [bitsOf, BitVec.toNat_ofNat]; omega
theorem lo1 (key : Nat) : bitOf (BitVec.ofNat 32 (2 ^ 16 * (key % 2 ^ 16) + 1)).toNat 0 = true := by
  simp only [bitOf, bitsOf, BitVec.toNat_ofNat, beq_iff_eq]; omega
theorem lo0 (key : Nat) : bitOf (BitVec.ofNat 32 (2 ^ 16 * (key % 2 ^ 16))).toNat 0 = false := by
  simp only [bitOf, bitsOf, BitVec.toNat_ofNat, beq_eq_false_iff_ne, ne_eq]; omega

theorem may_debug {s : State} {q : Requester} (h : s.mayOpenLock q = true) : q = .debug → s.debugMayWrite = true := by
  rintro rfl; exact h

theorem writeRegs_plain {s : State} {q : Requester} {r : RegName} (v : Word) (e1 : findReg (r.addr 0 0) = some (r, 0, 0))
    (hb : s.writeBarred q (r.addr 0 0) = none) (e4 : inWindow (r.addr 0 0) = false) (e5 : inRegs (r.addr 0 0) = true) (e6 : badAccess (r.addr 0 0) 4 = false)
    (hr : r = .mapSel ∨ r = .dramCeWarn ∨ r = .sysStart) :
    exec (.registerWrite q (r.addr 0 0) v) s = .next ((s.writeHeld q r 0 0 v).1.unlatch (latchKey .timed q) [r.addr 0 0]) := by
  have e : exec (.registerWrite q (r.addr 0 0) v) s = .next (s.writeRegs q (r.addr 0 0) v) := by
    simp [exec, execRegisterWrite, e5, e6]
  rw [e, writeRegs_reg v e1 (by rcases hr with rfl | rfl | rfl <;> decide), writeSpace_reg v e1 hb e4]
  have hw : s.writeAt q r 0 0 v = (s.writeHeld q r 0 0 v).1 := by
    rcases hr with rfl | rfl | rfl <;>
    · simp only [State.writeAt, State.writePlain, State.clearBits]
      rw [if_neg (by decide)]
      simp only [State.writeWide, State.isLow, State.lowsFor, lowOf]
      cases h : (s.writeHeld q _ 0 0 v).2 <;> simp [State.takeLows]
  rw [hw]
  rcases hr with rfl | rfl | rfl <;> rfl

theorem barred_core {s : State} {q : Requester} {a : Nat} (hq : q ≠ .debug) (ha : a / 65536 ≠ 0x4016) : s.writeBarred q a = none := by
  unfold State.writeBarred
  cases q <;> simp_all

theorem assocSet_get {κ α : Type} [DecidableEq κ] (l : List (κ × α)) (k : κ) (a : α) (k' : κ) :
    assocGet (assocSet l k a) k' = if k' = k then some a else assocGet l k' := by
  induction l with
  | nil => simp [assocSet, assocGet]; split <;> simp_all [eq_comm]
  | cons p l ih =>
    obtain ⟨x, y⟩ := p
    simp only [assocSet]
    split
    · rename_i h; subst h; simp only [assocGet]; split <;> simp_all [eq_comm]
    · rename_i h; simp only [assocGet, ih]; split <;> simp_all

theorem setReg_reg (s : State) (r r' : RegName) (i j i' j' : Nat) (w : Word) :
    (s.setReg r i j w).reg r' i' j' = if r'.addr i' j' = r.addr i j then w else s.reg r' i' j' := by
  simp only [State.reg, State.setReg, assocSet_get]
  split <;> rfl
theorem bitsOf_testBit (n lo w k : Nat) : (bitsOf n lo w).testBit k = (decide (k < w) && n.testBit (lo + k)) := by
  simp only [bitsOf, Nat.testBit_mod_two_pow, Nat.testBit_div_two_pow, Nat.add_comm]

theorem setField_get (w : Word) (lo width x : Nat) (h : lo + width ≤ 32) :
    bitsOf (setField w lo width x).toNat lo width = x % 2 ^ width := by
  apply Nat.eq_of_testBit_eq
  intro k
  rw [bitsOf_testBit]
  simp only [Nat.testBit_mod_two_pow]
  by_cases hk : k < width
  · simp only [hk, decide_true, Bool.true_and]
    rw [BitVec.testBit_toNat]
    have hl : lo + k < 32 := by omega
    simp only [setField, BitVec.getLsbD_or, BitVec.getLsbD_and, BitVec.getLsbD_not, BitVec.getLsbD_ofNat, hl, decide_true, Bool.true_and,
      Nat.mul_comm _ (2 ^ lo), Nat.testBit_two_pow_mul, Nat.testBit_two_pow_sub_one, Nat.testBit_mod_two_pow]
    simp [hk]
  · simp [hk]

theorem bits_lt (v : Word) (lo w : Nat) : bitsOf v.toNat lo w % 2 ^ w = bitsOf v.toNat lo w := by simp [bitsOf]

theorem bitsOf_setField_other (w : Word) (lo wd x lo' wd' : Nat) (h : lo' + wd' ≤ lo ∨ lo + wd ≤ lo') :
    bitsOf (setField w lo wd x).toNat lo' wd' = bitsOf w.toNat lo' wd' := by
  apply Nat.eq_of_testBit_eq
  intro k
  rw [bitsOf_testBit, bitsOf_testBit]
  by_cases hk : k < wd'
  · simp only [hk, decide_true, Bool.true_and]
    unfold setField
    simp only [BitVec.testBit_toNat, BitVec.getLsbD_or, BitVec.getLsbD_and, BitVec.getLsbD_not, BitVec.getLsbD_ofNat]
    by_cases h32 : lo' + k < 32
    · simp only [h32, decide_true, Bool.true_and, Nat.testBit_mul_two_pow, Nat.testBit_two_pow_sub_one, Nat.testBit_mod_two_pow]
      have e : (decide (lo' + k ≥ lo) && decide (lo' + k - lo < wd)) = false := by
        rcases h with h | h <;> simp <;> omega
      rw [← Bool.and_assoc, e]
      simp
    · have : w.getLsbD (lo' + k) = false := BitVec.getLsbD_of_ge _ _ (by omega)
      simp [h32, this]
  · simp [hk]

theorem applyFields_ok (old v : Word) (fs : List RegField) (h : ∀ f ∈ fs, fieldOk f (bitsOf v.toNat f.lo f.width) = true) :
    (applyFields old v fs).2 = false := by
  induction fs with
  | nil => rfl
  | cons f fs ih =>
    have := ih fun g hg => h g (List.mem_cons_of_mem _ hg)
    unfold applyFields
    dsimp only
    split
    · exact this
    · rw [if_pos (h f List.mem_cons_self)]; exact this

theorem applyFields_get (old v : Word) (fs : List RegField) (f : RegField) (hf : f ∈ fs)
    (ha : ∀ g ∈ fs, g.acc ≠ .wo ∧ g.acc ≠ .w1c ∧ g.acc ≠ .w1s) (h : fieldOk f (bitsOf v.toNat f.lo f.width) = true)
    (hd : ∀ g ∈ fs, g = f ∨ f.lo + f.width ≤ g.lo ∨ g.lo + g.width ≤ f.lo) (h32 : f.lo + f.width ≤ 32) :
    bitsOf (applyFields old v fs).1.toNat f.lo f.width = bitsOf v.toNat f.lo f.width := by
  induction fs with
  | nil => simp at hf
  | cons g fs ih =>
    unfold applyFields
    dsimp only
    have hg := ha g List.mem_cons_self
    rw [if_neg (by simp [hg])]
    by_cases he : g = f
    · subst he
      rw [if_pos h]
      dsimp only
      rw [setField_get _ _ _ _ h32, bits_lt]
    · have hm : f ∈ fs := by rcases List.mem_cons.1 hf with h | h; · exact absurd h.symm he
                             · exact h
      have := ih hm (fun g hg => ha g (List.mem_cons_of_mem _ hg)) fun g hg => hd g (List.mem_cons_of_mem _ hg)
      rcases hd g List.mem_cons_self with h | h
      · exact absurd h he
      · split
        · dsimp only
          rw [bitsOf_setField_other _ _ _ _ _ _ h, this]
        · exact this

theorem writeHeld_rwl {s : State} {q : Requester} {r : RegName} {i j : Nat} {v : Word} (h1 : heldRegs.contains r = false)
    (h2 : isMpuReg r = false) (hw : fieldsOf r .rw = []) (hs : fieldsOf r .rws = []) (hc : ∀ w, s.comboReserved r w = false)
    (hn : fieldsOf r .rwl ≠ []) (hl : s.lockedFor r.desc.block q = true)
    (ha : r = .angCtrl → bitOf v.toNat 4 = bitOf (s.reg r i j).toNat 4)
    (hok : ∀ f ∈ fieldsOf r .rwl, fieldOk f (bitsOf v.toNat f.lo f.width) = true) :
    s.writeHeld q r i j v = ((s.setReg r i j (applyFields (s.reg r i j) v (fieldsOf r .rwl)).1).touchLock r.desc.block, true) := by
  unfold State.writeHeld
  dsimp only
  rw [h1, h2, hw, hs, hl]
  rw [if_neg (by simp), if_neg (by rintro ⟨a, -, b⟩; exact b (ha a)), if_neg (by simp), if_neg (by simp), if_neg (by simp)]
  simp only [if_true, List.nil_append]
  have h0 := applyFields_ok (s.reg r i j) v _ hok
  rw [hc, h0]
  simp [hn]

theorem bitOf_or_one (v : Word) (k : Nat) : bitOf (v ||| 1).toNat k = (bitOf v.toNat k || decide (k = 0)) := by
  rw [bitOf_eq_testBit, bitOf_eq_testBit, BitVec.toNat_or, Nat.testBit_or]
  congr 1
  show Nat.testBit 1 k = _
  cases k with
  | zero => rfl
  | succ k => rw [Nat.testBit_succ]; simp

theorem bitOf_clear0 (v : Word) (k : Nat) (hk : k < 32) : bitOf (v &&& ~~~1).toNat k = (bitOf v.toNat k && decide (k ≠ 0)) := by
  rw [bitOf_eq_testBit, bitOf_eq_testBit, BitVec.testBit_toNat, BitVec.testBit_toNat, BitVec.getLsbD_and, BitVec.getLsbD_not]
  have : (1 : Word).getLsbD k = decide (k = 0) := by
    have h : ∀ j : Fin 32, (1 : Word).getLsbD j.val = decide (j.val = 0) := by decide
    exact h ⟨k, hk⟩
  rw [this]; simp [hk]

theorem updAt_updAt {α : Type} (l : List α) (n : Nat) (f g : α → α) : updAt (updAt l n f) n g = updAt l n fun x => g (f x) := by
  induction l generalizing n with
  | nil => cases n <;> rfl
  | cons x l ih => cases n with
    | zero => rfl
    | succ n => simp only [updAt, ih]

theorem updAt_congr {α : Type} (l : List α) (n : Nat) (f g : α → α) (h : ∀ a, l[n]? = some a → f a = g a) : updAt l n f = updAt l n g := by
  induction l generalizing n with
  | nil => cases n <;> rfl
  | cons x l ih => cases n with
    | zero => simp only [updAt]; rw [h x rfl]
    | succ n => simp only [updAt]; rw [ih n fun a ha => h a ha]

theorem getD_updAt_self {α : Type} (l : List α) (n : Nat) (f : α → α) (d a : α) (h : l[n]? = some a) : (updAt l n f).getD n d = f a := by
  induction l generalizing n with
  | nil => cases h
  | cons x l ih => cases n with
    | zero => cases h; rfl
    | succ n => simp only [updAt]; exact ih n h

theorem getD_of {α : Type} (l : List α) (n : Nat) (d a : α) (h : l[n]? = some a) : l.getD n d = a := by
  rw [List.getD_eq_getElem?_getD, h]; rfl

end Sys2Proof.Machine
end

