-- ==== Sys2Proof/Laws/Queues.lean ====
section
/-! SUPPORT. What changing a queue, a set-up of a ring and a completion entry do (R151, R166, R168, R182). -/

namespace Sys2Proof.Machine

theorem getD_updAt (l : List Queue) (n k : Nat) (f : Queue → Queue) (d : Queue) :
    (updAt l n f).getD k d = if k = n ∧ n < l.length then f (l.getD k d) else l.getD k d := by
  induction l generalizing n k with
  | nil => cases n <;> simp [updAt]
  | cons x l ih =>
    cases n with
    | zero => cases k <;> simp [updAt]
    | succ n =>
      cases k with
      | zero => simp [updAt]
      | succ k =>
        have := ih n k
        simp only [updAt, List.getD_cons_succ, List.length_cons, Nat.add_lt_add_iff_right, Nat.add_right_cancel_iff]
        exact this

/-- A queue after another, or itself, is changed. -/
theorem setQueue_queue (s : State) (n k : Nat) (f : Queue → Queue) :
    (s.setQueue n f).queue k = if k = n ∧ n < s.hq.queues.length then f (s.queue k) else s.queue k := getD_updAt _ _ _ _ _

theorem setQueue_self {s : State} {n : Nat} (h : n < s.hq.queues.length) (f : Queue → Queue) : (s.setQueue n f).queue n = f (s.queue n) := by
  rw [setQueue_queue, if_pos ⟨rfl, h⟩]

theorem setQueue_other {s : State} {n k : Nat} (h : k ≠ n) (f : Queue → Queue) : (s.setQueue n f).queue k = s.queue k := by
  rw [setQueue_queue, if_neg (fun x => h x.1)]

theorem updAt_length {α : Type} (l : List α) (n : Nat) (f : α → α) : (updAt l n f).length = l.length := by
  induction l generalizing n with
  | nil => cases n <;> rfl
  | cons x l ih => cases n with
    | zero => rfl
    | succ n => simp only [updAt, List.length_cons, ih]

theorem setQueue_length (s : State) (n : Nat) (f : Queue → Queue) : (s.setQueue n f).hq.queues.length = s.hq.queues.length := updAt_length _ _ _

theorem setQueue_setQueue (s : State) (n : Nat) (f g : Queue → Queue) : (s.setQueue n f).setQueue n g = s.setQueue n fun x => g (f x) := by
  unfold State.setQueue; dsimp only; rw [updAt_updAt]

theorem setQueue_congr {s : State} {n : Nat} {f g : Queue → Queue} (h : f (s.queue n) = g (s.queue n)) : s.setQueue n f = s.setQueue n g := by
  unfold State.setQueue
  rw [updAt_congr]
  intro a ha
  have : s.queue n = a := getD_of _ _ _ _ ha
  rw [← this]; exact h

theorem bitOf_or_two (v : Word) (k b : Nat) (hb : b < 32) : bitOf (v ||| BitVec.ofNat 32 (2 ^ b)).toNat k = (bitOf v.toNat k || decide (k = b)) := by
  rw [bitOf_eq_testBit, bitOf_eq_testBit, BitVec.toNat_or, Nat.testBit_or, BitVec.toNat_ofNat,
    Nat.mod_eq_of_lt (Nat.pow_lt_pow_right (by decide) hb), Nat.testBit_two_pow]
  congr 1; exact decide_eq_decide.2 eq_comm

theorem bitsOf_congr {v w lo wd : Nat} (h : ∀ k, lo ≤ k → k < lo + wd → v.testBit k = w.testBit k) : bitsOf v lo wd = bitsOf w lo wd := by
  apply Nat.eq_of_testBit_eq
  intro k
  rw [bitsOf_testBit, bitsOf_testBit]
  by_cases hk : k < wd
  · rw [h (lo + k) (by omega) (by omega)]
  · simp [hk]

theorem bitOf_masked (v a b : Word) (k : Nat) (hk : k < 32) :
    bitOf ((v ||| a) &&& ~~~b).toNat k = ((bitOf v.toNat k || a.getLsbD k) && !b.getLsbD k) := by
  rw [bitOf_eq_testBit, bitOf_eq_testBit, BitVec.testBit_toNat, BitVec.testBit_toNat, BitVec.getLsbD_and, BitVec.getLsbD_or, BitVec.getLsbD_not]
  simp [hk]

/-- Two words that agree above bit 2 give the same set-up. -/
theorem hqSetup_congr {v w : Nat} (h : ∀ k, 3 ≤ k → v.testBit k = w.testBit k) (x : Queue) :
    hqSetup x v = hqSetup x w ∧ hqReserved v = hqReserved w ∧ bitOf v 4 = bitOf w 4 ∧ bitOf v 5 = bitOf w 5 ∧ bitOf v 6 = bitOf w 6 ∧
    bitOf v 7 = bitOf w 7 := by
  have b : ∀ k, 3 ≤ k → bitOf v k = bitOf w k := by intro k hk; rw [bitOf_eq_testBit, bitOf_eq_testBit, h k hk]
  have f : ∀ lo wd, 3 ≤ lo → bitsOf v lo wd = bitsOf w lo wd := by intro lo wd hl; exact bitsOf_congr fun k hk _ => h k (by omega)
  unfold hqSetup hqReserved
  rw [b 3 (by omega), b 4 (by omega), b 5 (by omega), b 6 (by omega), b 7 (by omega), f 12 4 (by omega), f 16 4 (by omega), f 20 4 (by omega)]
  simp

/-- The set-up of an idle ring. -/
theorem hqCtrlFields_idle {s : State} {q : Requester} {n v : Nat} (_hn : n < s.hq.queues.length) (he : (s.queue n).enable = false)
    (hr : hqReserved v = false) :
    s.hqCtrlFields q n v = s.setQueue n fun x => { hqSetup x v with legacyPop := bitOf v 6, poll := bitOf v 7, enable := bitOf v 0 } := by
  unfold State.hqCtrlFields
  dsimp only
  rw [he, hr]
  simp only [Bool.false_eq_true, if_false, Bool.false_and, Bool.or_self]
  have hs : (hqSetup (s.queue n) v).enable = false := he
  split
  · rename_i h0
    rw [setQueue_setQueue]
    apply setQueue_congr
    simp [h0]
  · rename_i h0
    apply setQueue_congr
    simp only [Bool.not_eq_true] at h0
    rw [h0, ← hs]

theorem raise_hq (u : State) (j : Nat) : (u.raise j).hq = u.hq := by simp only [State.raise_frame]
theorem raise_queue (u : State) (j m : Nat) : (u.raise j).queue m = u.queue m := by unfold State.queue; rw [raise_hq]

theorem contentMade_queue {s : State} {n : Nat} (hn : n < s.hq.queues.length) (k : Nat) (now had : Bool) :
    (∃ e y, (s.contentMade n k now had).queue n = { s.queue n with unread := (s.queue n).unread + k, evt := e, quietFrom := y }) ∧
    (∀ m, m ≠ n → (s.contentMade n k now had).queue m = s.queue m) ∧ (s.contentMade n k now had).hq.queues.length = s.hq.queues.length ∧
    (s.contentMade n k now had).hq.ops = s.hq.ops := by
  unfold State.contentMade
  dsimp only
  split
  · unfold State.queueEvent
    refine ⟨⟨true, if had then (s.queue n).quietFrom else s.tb.csr, ?_⟩, ?_, ?_, ?_⟩
    · rw [raise_queue, setQueue_self (by rw [setQueue_length]; exact hn), setQueue_self hn]
    · intro m hm
      rw [raise_queue, setQueue_other hm, setQueue_other hm]
    · rw [raise_hq, setQueue_length, setQueue_length]
    · rw [raise_hq]; rfl
  · refine ⟨⟨(s.queue n).evt, if had then (s.queue n).quietFrom else s.tb.csr, ?_⟩, ?_, ?_, rfl⟩
    · rw [setQueue_self hn]
    · intro m hm; exact setQueue_other hm _
    · rw [setQueue_length]

/-- What a completion entry that has its slot changes in the queues. -/
theorem putCompletion_queue {s : State} {n : Nat} (hn : n < s.hq.queues.length) (d : List Byte) (tag st res fl : Nat) :
    (∃ u e y, (s.putCompletion n d tag st res fl).queue n =
      { s.queue n with cqProd := (s.queue n).cqProd + 1, reported := (s.queue n).fetchIdx, unread := u, evt := e, quietFrom := y }) ∧
    (∀ m, m ≠ n → (s.putCompletion n d tag st res fl).queue m = s.queue m) ∧
    (s.putCompletion n d tag st res fl).hq.queues.length = s.hq.queues.length ∧ (s.putCompletion n d tag st res fl).hq.ops = s.hq.ops := by
  unfold State.putCompletion
  dsimp only
  generalize Memory.writeN s.mem _ _ = mm
  have hq := setQueue_self (s := { s with mem := mm }) (n := n) hn fun q => { q with cqProd := q.cqProd + 1, reported := q.fetchIdx }
  have ho : ∀ m, m ≠ n → _ := fun m hm => setQueue_other (s := { s with mem := mm }) (n := n) (k := m) hm fun q => { q with cqProd := q.cqProd + 1, reported := q.fetchIdx }
  have hl := setQueue_length { s with mem := mm } n fun q => { q with cqProd := q.cqProd + 1, reported := q.fetchIdx }
  have hop : (({ s with mem := mm } : State).setQueue n fun q => { q with cqProd := q.cqProd + 1, reported := q.fetchIdx }).hq.ops = s.hq.ops := rfl
  generalize ({ s with mem := mm } : State).setQueue n (fun q => { q with cqProd := q.cqProd + 1, reported := q.fetchIdx }) = u at hq ho hl hop ⊢
  obtain ⟨⟨e, y, c1⟩, c2, c3, c4⟩ := contentMade_queue (s := u) (n := n) (by rw [hl]; exact hn) 1 (dEvent d) (s.queue n).hasContent
  refine ⟨⟨(u.queue n).unread + 1, e, y, ?_⟩, ?_, ?_, ?_⟩
  · rw [c1]; rw [hq]; rfl
  · intro m hm; rw [c2 m hm, ho m hm]; rfl
  · rw [c3, hl]
  · rw [c4, hop]

/-- A completion entry changes its own ring alone: the entry stands in its slot, or it is held (R168). -/
theorem writeCompletion_queue {s : State} {n : Nat} (hn : n < s.hq.queues.length) (d : List Byte) (tag st res fl : Nat) :
    (s.cqFree n = 0 ∧ (s.writeCompletion n d tag st res fl).queue n = { s.queue n with held := (s.queue n).held ++ [⟨d, tag, st, res, fl⟩] } ∨
     s.cqFree n ≠ 0 ∧ ∃ u e y, (s.writeCompletion n d tag st res fl).queue n =
      { s.queue n with cqProd := (s.queue n).cqProd + 1, reported := (s.queue n).fetchIdx, unread := u, evt := e, quietFrom := y }) ∧
    (∀ m, m ≠ n → (s.writeCompletion n d tag st res fl).queue m = s.queue m) ∧
    (s.writeCompletion n d tag st res fl).hq.queues.length = s.hq.queues.length ∧ (s.writeCompletion n d tag st res fl).hq.ops = s.hq.ops := by
  unfold State.writeCompletion
  split
  · rename_i h
    exact ⟨.inl ⟨h, setQueue_self hn _⟩, fun m hm => setQueue_other hm _, setQueue_length _ _ _, rfl⟩
  · rename_i h
    obtain ⟨a, b, c, e⟩ := putCompletion_queue hn d tag st res fl
    exact ⟨.inr ⟨h, a⟩, b, c, e⟩

/-- Of the descriptors that complete so, some entries stand in their slots and the rest are held. -/
theorem completeFetched_queue {s : State} {n : Nat} (hn : n < s.hq.queues.length) (st : Nat) (l : List Fetched) :
    (∃ k, k ≤ l.length ∧ ((s.completeFetched n st l).queue n).cqProd = (s.queue n).cqProd + BitVec.ofNat 32 k ∧
      ((s.completeFetched n st l).queue n).held.length = (s.queue n).held.length + (l.length - k)) ∧
    ((s.completeFetched n st l).queue n).enable = (s.queue n).enable ∧
    (∀ m, m ≠ n → (s.completeFetched n st l).queue m = s.queue m) ∧
    (s.completeFetched n st l).hq.queues.length = s.hq.queues.length ∧ (s.completeFetched n st l).hq.ops = s.hq.ops := by
  induction l generalizing s with
  | nil => exact ⟨⟨0, Nat.le_refl _, by simp [State.completeFetched], rfl⟩, rfl, fun _ _ => rfl, rfl, rfl⟩
  | cons f l ih =>
    obtain ⟨w1, w2, w3, w4⟩ := writeCompletion_queue hn f.bytes 0 st 0 0
    obtain ⟨⟨k, k1, k2, k3⟩, ie, i2, i3, i4⟩ := ih (s := s.writeCompletion n f.bytes 0 st 0 0) (by rw [w3]; exact hn)
    have hw : ∀ (c : Word) (k : Nat), c + 1 + BitVec.ofNat 32 k = c + BitVec.ofNat 32 (k + 1) := by
      intro c k
      rw [BitVec.ofNat_add, BitVec.add_assoc, BitVec.add_comm 1]; rfl
    unfold State.completeFetched
    refine ⟨?_, ?_, fun m hm => (i2 m hm).trans (w2 m hm), i3.trans w3, i4.trans w4⟩
    · rcases w1 with ⟨-, w⟩ | ⟨-, u, e, y, w⟩
      · refine ⟨k, by simp only [List.length_cons]; omega, ?_, ?_⟩
        · rw [k2, w]
        · rw [k3, w]; simp only [List.length_cons, List.length_append, List.length_nil]; omega
      · refine ⟨k + 1, by simp only [List.length_cons]; omega, ?_, ?_⟩
        · rw [k2, w]; exact hw _ _
        · rw [k3, w]; simp only [List.length_cons]; omega
    · rw [ie]; rcases w1 with ⟨-, w⟩ | ⟨-, u, e, y, w⟩ <;> rw [w]

/-- The descriptors of a ring that have no tag at an engine yet complete so, each with its tag back. -/
theorem completeOps_queue {n : Nat} (st : Nat) (l : List Op) (hl : ∀ o ∈ l, o.ring = n) : ∀ {s : State}, n < s.hq.queues.length →
    (∃ k, k ≤ l.length ∧ ((s.completeOps st l).queue n).cqProd = (s.queue n).cqProd + BitVec.ofNat 32 k ∧
      ((s.completeOps st l).queue n).held.length = (s.queue n).held.length + (l.length - k)) ∧
    ((s.completeOps st l).queue n).enable = (s.queue n).enable ∧ ((s.completeOps st l).queue n).fetched = (s.queue n).fetched ∧
    (∀ m, m ≠ n → (s.completeOps st l).queue m = s.queue m) ∧
    (s.completeOps st l).hq.queues.length = s.hq.queues.length ∧
    (∀ o, o ∈ (s.completeOps st l).hq.ops ↔ o ∈ s.hq.ops ∧ ∀ p ∈ l, p.tag ≠ o.tag) := by
  induction l with
  | nil => intro s _; exact ⟨⟨0, Nat.le_refl _, by simp [State.completeOps], rfl⟩, rfl, rfl, fun _ _ => rfl, rfl, fun o => by simp [State.completeOps]⟩
  | cons o l ih =>
    intro s hn
    have hr : o.ring = n := hl o List.mem_cons_self
    obtain ⟨w1, w2, w3, w4⟩ := writeCompletion_queue hn o.bytes o.tag st 0 (cflags false false o.long)
    have hv := ih (fun p hp => hl p (List.mem_cons_of_mem _ hp)) (s := { s.writeCompletion n o.bytes o.tag st 0 (cflags false false o.long) with
      hq := { (s.writeCompletion n o.bytes o.tag st 0 (cflags false false o.long)).hq with
        ops := (s.writeCompletion n o.bytes o.tag st 0 (cflags false false o.long)).hq.ops.filter fun p => decide (p.tag ≠ o.tag) } }) (by rw [← w3] at hn; exact hn)
    have e : s.completeOps st (o :: l) = ({ s.writeCompletion n o.bytes o.tag st 0 (cflags false false o.long) with
      hq := { (s.writeCompletion n o.bytes o.tag st 0 (cflags false false o.long)).hq with
        ops := (s.writeCompletion n o.bytes o.tag st 0 (cflags false false o.long)).hq.ops.filter fun p => decide (p.tag ≠ o.tag) } } : State).completeOps st l := by
      rw [State.completeOps, hr]
    rw [e]
    have q : ∀ m, ({ s.writeCompletion n o.bytes o.tag st 0 (cflags false false o.long) with
      hq := { (s.writeCompletion n o.bytes o.tag st 0 (cflags false false o.long)).hq with
        ops := (s.writeCompletion n o.bytes o.tag st 0 (cflags false false o.long)).hq.ops.filter fun p => decide (p.tag ≠ o.tag) } } : State).queue m =
        (s.writeCompletion n o.bytes o.tag st 0 (cflags false false o.long)).queue m := fun _ => rfl
    simp only [q] at hv
    obtain ⟨⟨k, k1, k2, k3⟩, ie, jf, i2, i3, i4⟩ := hv
    have hw : ∀ (c : Word) (k : Nat), c + 1 + BitVec.ofNat 32 k = c + BitVec.ofNat 32 (k + 1) := by
      intro c k
      rw [BitVec.ofNat_add, BitVec.add_assoc, BitVec.add_comm 1]; rfl
    refine ⟨?_, ?_, ?_, fun m hm => (i2 m hm).trans (w2 m hm), i3.trans w3, fun p => ?_⟩
    · rcases w1 with ⟨-, w⟩ | ⟨-, u, e, y, w⟩
      · refine ⟨k, by simp only [List.length_cons]; omega, ?_, ?_⟩
        · rw [k2, w]
        · rw [k3, w]; simp only [List.length_cons, List.length_append, List.length_nil]; omega
      · refine ⟨k + 1, by simp only [List.length_cons]; omega, ?_, ?_⟩
        · rw [k2, w]; exact hw _ _
        · rw [k3, w]; simp only [List.length_cons]; omega
    · rw [ie]; rcases w1 with ⟨-, w⟩ | ⟨-, u, e, y, w⟩ <;> rw [w]
    · rw [jf]; rcases w1 with ⟨-, w⟩ | ⟨-, u, e, y, w⟩ <;> rw [w]
    · rw [i4, List.mem_filter, w4]
      simp only [decide_eq_true_eq, List.mem_cons, forall_eq_or_imp]
      constructor
      · rintro ⟨⟨a, b⟩, c⟩; exact ⟨a, fun x => b x.symm, c⟩
      · rintro ⟨a, b, c⟩; exact ⟨⟨a, fun x => b x.symm⟩, c⟩

/-- A state equal to another in all but its queues, events, memory and messages. -/
theorem eq_of_same {s t : State} (h : Same (fun t : State => (t.sys, t.pwr, t.tb, t.rtc, t.wb, t.core, t.dbg, t.prg, t.loop, t.slk, t.est, t.prot, t.dsp, t.dio, t.aio, t.can, t.net, t.nvs, t.log, t.sec, t.upd, t.locks, t.regs, t.cfg, t.resp, t.freeCtr, t.pending)) s t) :
    t = { s with hq := t.hq, evt := t.evt, mem := t.mem, out := t.out } := by
  cases s; cases t
  simp only [Same, Prod.mk.injEq] at h
  obtain ⟨rfl, rfl, rfl, rfl, rfl, rfl, rfl, rfl, rfl, rfl, rfl, rfl, rfl, rfl, rfl, rfl, rfl, rfl, rfl, rfl, rfl, rfl, rfl, rfl, rfl, rfl, rfl⟩ := h
  rfl

theorem readDoorbell_other (s : State) (n : Nat) {k : Nat} (hk : k ≠ n) : (s.readDoorbell n).queue k = s.queue k := by
  unfold State.readDoorbell
  dsimp only
  split
  · rfl
  · split
    · rfl
    · have hp : ∀ l (u : State), (u.putHeld n l).queue k = u.queue k := by
        intro l
        induction l with
        | nil => intro u; exact setQueue_other hk _
        | cons h l ih =>
          intro u
          rw [State.putHeld]
          split
          · exact setQueue_other hk _
          · rw [ih]
            unfold State.putCompletion State.contentMade
            dsimp only
            split
            · unfold State.queueEvent
              rw [raise_queue, setQueue_other hk, setQueue_other hk, setQueue_other hk]; rfl
            · rw [setQueue_other hk, setQueue_other hk]; rfl
      have hc : ∀ u : State, u.queue k = s.queue k → ∀ a b : Prop, ∀ [Decidable a] f g,
          (if a then (u.setQueue n f).queueEvent n else u.setQueue n g).queue k = s.queue k := by
        intro u hu a _ _ f g
        split
        · unfold State.queueEvent
          rw [raise_queue, setQueue_other hk, setQueue_other hk, hu]
        · rw [setQueue_other hk, hu]
      refine hc _ ?_ _ True _ _
      split
      · rfl
      · rw [hp, setQueue_other hk]

theorem readDoorbells_none (s : State) (p : Nat → Queue → Bool) (k : Nat) (h : ∀ m, m < k → p m (s.queue m) = false) : s.readDoorbells p k = s := by
  induction k with
  | zero => rfl
  | succ k ih =>
    unfold State.readDoorbells
    dsimp only
    rw [ih fun m hm => h m (by omega), if_neg (by simp [h k (by omega)])]

theorem readDoorbells_one (s : State) (p : Nat → Queue → Bool) (n k : Nat) (hn : n < k) (h1 : p n (s.queue n) = true)
    (h : ∀ m, m ≠ n → p m (s.queue m) = false) : s.readDoorbells p k = s.readDoorbell n := by
  induction k with
  | zero => omega
  | succ k ih =>
    unfold State.readDoorbells
    dsimp only
    by_cases hk : k = n
    · subst hk
      rw [readDoorbells_none _ _ _ fun m hm => h m (by omega), if_pos h1]
    · rw [ih (by omega), if_neg (by rw [readDoorbell_other _ _ hk, h k hk]; simp)]

theorem nextRing_eq (s : State) (i k n : Nat) (hi : i < k) (a : Nat) (h1 : (a + i) % 256 = n)
    (hj : ∀ j, j < i → s.fetchable ((a + j) % 256) = false) (hf : s.fetchable n = true) : s.nextRing a k = some n := by
  induction i generalizing a k with
  | zero =>
    cases k with
    | zero => omega
    | succ k => unfold State.nextRing; rw [Nat.add_zero] at h1; rw [h1, if_pos hf]
  | succ i ih =>
    cases k with
    | zero => omega
    | succ k =>
      unfold State.nextRing
      rw [if_neg (by have := hj 0 (by omega); rw [Nat.add_zero] at this; simp [this])]
      refine ih k (by omega) (a + 1) (by rw [← h1]; congr 1; omega) ?_
      intro j hjj
      have := hj (j + 1) (by omega)
      rw [← this]; congr 2; omega

theorem nextRing_none (s : State) (k a : Nat) (h : ∀ n, n < 256 → s.fetchable n = false) : s.nextRing a k = none := by
  induction k generalizing a with
  | zero => rfl
  | succ k ih =>
    unfold State.nextRing
    rw [if_neg (by rw [h _ (Nat.mod_lt _ (by decide))]; simp), ih]

theorem fetchDescs_queue (k : Nat) {s : State} {n : Nat} (hn : n < s.hq.queues.length) :
    (s.fetchDescs n k).queue n = { s.queue n with
        caches := Caches.times Caches.push k (s.queue n).caches,
        fetchIdx := (s.queue n).fetchIdx + BitVec.ofNat 32 k,
        fetched := (s.queue n).fetched ++ (List.range k).map fun i =>
          let x := (s.queue n).fetchIdx + BitVec.ofNat 32 i
          { idx := x.toNat, bytes := Memory.readN s.mem (ownerKey (s.queue n).owner (s.sqBase n + x.toNat % (s.queue n).sqSize * 64)) 64 } } ∧
    (∀ m, m ≠ n → (s.fetchDescs n k).queue m = s.queue m) ∧
    s.fetchDescs n k = { s with hq := { s.hq with queues := (s.fetchDescs n k).hq.queues } } := by
  induction k generalizing s with
  | zero =>
    refine ⟨?_, fun _ _ => rfl, rfl⟩
    unfold State.fetchDescs
    generalize s.queue n = x
    obtain ⟨⟩ := x
    simp [Caches.times]
  | succ k ih =>
    unfold State.fetchDescs
    dsimp only
    generalize hu : s.setQueue n _ = u
    have hq : u.queue n = { s.queue n with
        caches := (s.queue n).caches.push,
        fetched := (s.queue n).fetched ++ [{ idx := (s.queue n).fetchIdx.toNat, bytes := Memory.readN s.mem (ownerKey (s.queue n).owner (s.sqBase n + (s.queue n).fetchIdx.toNat % (s.queue n).sqSize * 64)) 64 }],
        fetchIdx := (s.queue n).fetchIdx + 1 } := by
      rw [← hu]; exact setQueue_self hn _
    have ho : ∀ m, m ≠ n → u.queue m = s.queue m := by intro m hm; rw [← hu]; exact setQueue_other hm _
    have he : u = { s with hq := { s.hq with queues := u.hq.queues } } := by rw [← hu]; rfl
    have hl : u.hq.queues.length = s.hq.queues.length := by rw [← hu]; exact setQueue_length _ _ _
    obtain ⟨i1, i2, i3⟩ := ih (s := u) (by rw [hl]; exact hn)
    refine ⟨?_, fun m hm => (i2 m hm).trans (ho m hm), ?_⟩
    · rw [i1, hq]
      have hm : u.mem = s.mem := by rw [he]
      have hb : u.sqBase n = s.sqBase n := by rw [he]; rfl
      have hsz : ∀ (x : Queue) (f : List Fetched) (g : Word) (c : Caches), ({ x with fetched := f, fetchIdx := g, caches := c } : Queue).sqSize = x.sqSize := fun _ _ _ _ => rfl
      have hw : ∀ (c : Word) (k : Nat), c + 1 + BitVec.ofNat 32 k = c + BitVec.ofNat 32 (k + 1) := by
        intro c k
        rw [BitVec.ofNat_add, BitVec.add_assoc, BitVec.add_comm 1]; rfl
      simp only [hm, hb, hsz, hw, List.range_succ_eq_map, List.map_cons, List.map_map, List.append_assoc, List.singleton_append]
      simp only [Function.comp_def, Nat.succ_eq_add_one, BitVec.add_zero, Caches.times]
    · rw [i3, he]

theorem tagFree_false {s : State} {i : Nat} (h1 : 32 ≤ s.tagsOf i) (h2 : s.sharedFree = false) (h3 : i ∉ s.hq.tagGiven) : s.tagFree i = false := by
  unfold State.tagFree; rw [h2]; simp [h3, h1]

theorem useGrant_eq (s : State) (i : Nat) : ∃ l, s.useGrant i = { s with hq := { s.hq with tagGiven := l } } := by
  unfold State.useGrant; split
  · exact ⟨_, rfl⟩
  · exact ⟨_, rfl⟩

/-- DESC_ISSUE reaches the first descriptor. -/
theorem descIssue_head {s : State} {n : Nat} {f : Fetched} {fs : List Fetched} (h1 : (s.queue n).fetched = f :: fs) (h2 : dFence f.bytes = false)
    (h3 : (s.queue n).auth = false ∨ s.sys.mode ≠ .handover) (h4 : s.tagFree (ownerIssuer (s.queue n).owner) = true)
    (h5 : (s.queue n).durable = false ∨ s.awaitsAccept n (dSubmit f.bytes) = false) :
    exec (.descIssue n) s = .next ((s.useGrant (ownerIssuer (s.queue n).owner)).issueHead n f) := by
  show execDescIssue n s = _
  unfold execDescIssue
  dsimp only
  rw [h1]
  dsimp only
  rw [if_neg (by simp [h2]), if_neg (by rcases h3 with h | h <;> simp [h]), if_neg (by rcases h5 with h | h <;> simp [h]), if_neg (by simp [h4])]

theorem setQueue_keeps (s : State) (m : Nat) (f : Queue → Queue) (hf : ∀ x, (f x).fetched = x.fetched) (n : Nat) :
    ((s.setQueue m f).queue n).fetched = (s.queue n).fetched := by
  rw [setQueue_queue]; split
  · exact hf _
  · rfl

theorem contentMade_keeps (s : State) (m k : Nat) (b c : Bool) (n : Nat) :
    ((s.contentMade m k b c).queue n).fetched = (s.queue n).fetched ∧ (s.contentMade m k b c).hq.ops = s.hq.ops := by
  unfold State.contentMade
  dsimp only
  split
  · unfold State.queueEvent
    refine ⟨?_, ?_⟩
    · rw [raise_queue, setQueue_keeps, setQueue_keeps] <;> exact fun _ => rfl
    · rw [raise_hq]; rfl
  · refine ⟨setQueue_keeps _ _ _ ?_ n, rfl⟩
    exact fun _ => rfl

theorem complete_keeps (s : State) (m : Nat) (d : List Byte) (tag st res fl : Nat) (n : Nat) :
    ((s.writeCompletion m d tag st res fl).queue n).fetched = (s.queue n).fetched ∧ (s.writeCompletion m d tag st res fl).hq.ops = s.hq.ops := by
  unfold State.writeCompletion
  split
  · refine ⟨setQueue_keeps s m _ ?_ n, rfl⟩
    exact fun _ => rfl
  · unfold State.putCompletion
    dsimp only
    generalize Memory.writeN s.mem _ _ = mm
    have h := contentMade_keeps (({ s with mem := mm } : State).setQueue m fun q => { q with cqProd := q.cqProd + 1, reported := q.fetchIdx }) m 1 (dEvent d)
      (s.queue m).hasContent n
    refine ⟨h.1.trans ?_, h.2⟩
    exact setQueue_keeps { s with mem := mm } m (fun q => { q with cqProd := q.cqProd + 1, reported := q.fetchIdx }) (fun _ => rfl) n

theorem acceptOp_keeps (s : State) (o : Op) (b : Bool) (n : Nat) :
    ((s.acceptOp o b).queue n).fetched = (s.queue n).fetched ∧ (∀ p ∈ (s.acceptOp o b).hq.ops, p ∈ s.hq.ops) := by
  have h := complete_keeps s o.ring o.bytes o.tag stAccepted 0 (cflags false b o.long) n
  unfold State.acceptOp
  dsimp only
  refine ⟨?_, fun p hp => ?_⟩
  · refine Eq.trans ?_ h.1
    unfold State.rememberSubmit
    refine setQueue_keeps (s.writeCompletion o.ring o.bytes o.tag stAccepted 0 (cflags false b o.long)) o.ring _ ?_ n
    exact fun _ => rfl
  · rw [List.mem_filter] at hp
    rw [← h.2]; exact hp.1

theorem acceptAll_keeps (l : List Op) (s : State) (n : Nat) :
    ((s.acceptAll l).queue n).fetched = (s.queue n).fetched ∧ (∀ p ∈ (s.acceptAll l).hq.ops, p ∈ s.hq.ops) := by
  induction l generalizing s with
  | nil => exact ⟨rfl, fun _ h => h⟩
  | cons o l ih =>
    unfold State.acceptAll
    split
    · split
      · have h := acceptOp_keeps s o (!s.wb.dual) n
        obtain ⟨i1, i2⟩ := ih (s.acceptOp o (!s.wb.dual))
        exact ⟨i1.trans h.1, fun p hp => h.2 p (i2 p hp)⟩
      · exact ih _
    · exact ih _

theorem mpuFault_hq (s : State) (m a : Nat) (p : AccPriv) (k : AccKind) : (s.mpuFault m a p k).hq = s.hq := by
  simp only [State.mpuFault_frame]

theorem dropFetched_fetched {s : State} {n : Nat} (hn : n < s.hq.queues.length) : ((s.dropFetched n).queue n).fetched = (s.queue n).fetched.drop 1 := by
  unfold State.dropFetched
  rw [setQueue_self hn]

/-- What the issue of a ring's first descriptor leaves of it, and which operation is new. -/
theorem issueHead_facts {s : State} {n : Nat} (hn : n < s.hq.queues.length) (f : Fetched) :
    ((s.issueHead n f).queue n).fetched = (s.queue n).fetched.drop 1 ∧
    ∀ o ∈ (s.issueHead n f).hq.ops, o ∉ s.hq.ops → o.ring = n ∧ o.idx = f.idx ∧ o.bytes = f.bytes := by
  have hd := dropFetched_fetched hn
  have done : ∀ st fl, (((s.dropFetched n).writeCompletion n f.bytes 0 st 0 fl).queue n).fetched = (s.queue n).fetched.drop 1 ∧
      ∀ o ∈ ((s.dropFetched n).writeCompletion n f.bytes 0 st 0 fl).hq.ops, o ∉ s.hq.ops → o.ring = n ∧ o.idx = f.idx ∧ o.bytes = f.bytes := by
    intro st fl
    have h := complete_keeps (s.dropFetched n) n f.bytes 0 st 0 fl n
    refine ⟨h.1.trans hd, fun o ho hx => ?_⟩
    rw [h.2] at ho
    exact absurd ho hx
  unfold State.issueHead
  dsimp only
  split
  · exact done _ _
  split
  · exact done _ _
  split
  · exact done _ _
  split
  · exact done _ _
  split
  · split
    · exact done _ _
    · refine ⟨hd, fun o ho hx => ?_⟩
      rcases List.mem_append.1 ho with h | h
      · exact absurd h hx
      · rw [List.mem_singleton] at h; subst h; exact ⟨rfl, rfl, rfl⟩
  split
  · rename_i m a k _
    have hq := mpuFault_hq s m a .engine k
    have h := complete_keeps ((s.mpuFault m a .engine k).dropFetched n) n f.bytes 0 stAccessFault 0 0 n
    have hd' := dropFetched_fetched (s := s.mpuFault m a .engine k) (n := n) (by rw [hq]; exact hn)
    refine ⟨h.1.trans (hd'.trans ?_), fun o ho hx => ?_⟩
    · unfold State.queue; rw [hq]
    · rw [h.2] at ho
      have : ((s.mpuFault m a .engine k).dropFetched n).hq.ops = s.hq.ops := by
        show (s.mpuFault m a .engine k).hq.ops = _
        rw [hq]
      rw [this] at ho
      exact absurd ho hx
  split
  · split
    · exact done _ _
    · exact done _ _
    · exact done _ _
    · generalize hu : State.journalAdd (s.dropFetched n) (.desc n (dSubmit f.bytes) f.bytes) = u
      have hj : u.hq = (s.dropFetched n).hq := by rw [← hu]; exact (journalAdd_facts _ _).2.2.1
      have h1 : (u.queue n).fetched = (s.queue n).fetched.drop 1 := by
        rw [← hd]; unfold State.queue; rw [hj]
      have h2 : u.hq.ops = s.hq.ops := by
        rw [hj]; rfl
      unfold State.acceptReady
      split
      · obtain ⟨a1, a2⟩ := acceptAll_keeps ({ u with hq := { u.hq with ops := u.hq.ops ++ [{ s.mkOp n f with jsn := some (s.wb.jsn + 1) }] } } : State).hq.ops
          { u with hq := { u.hq with ops := u.hq.ops ++ [{ s.mkOp n f with jsn := some (s.wb.jsn + 1) }] } } n
        refine ⟨a1.trans h1, fun o ho hx => ?_⟩
        have := a2 o ho
        rcases List.mem_append.1 this with h | h
        · rw [h2] at h; exact absurd h hx
        · rw [List.mem_singleton] at h; subst h; exact ⟨rfl, rfl, rfl⟩
      · refine ⟨h1, fun o ho hx => ?_⟩
        rcases List.mem_append.1 ho with h | h
        · rw [h2] at h; exact absurd h hx
        · rw [List.mem_singleton] at h; subst h; exact ⟨rfl, rfl, rfl⟩
  · refine ⟨hd, fun o ho hx => ?_⟩
    rcases List.mem_append.1 ho with h | h
    · exact absurd h hx
    · rw [List.mem_singleton] at h; subst h; exact ⟨rfl, rfl, rfl⟩

theorem takePackets_spec (l : List Packet) (room : Nat) : ∃ k, (takePackets l room).2 = l.drop k ∧
    (takePackets l room).1 = (l.take k).flatMap (·.words) ∧ 4 * (takePackets l room).1.length ≤ room := by
  induction l generalizing room with
  | nil => exact ⟨0, rfl, rfl, Nat.zero_le _⟩
  | cons p l ih =>
    unfold takePackets
    split
    · obtain ⟨k, h1, h2, h3⟩ := ih (room - 4 * p.words.length)
      refine ⟨k + 1, h1, ?_, ?_⟩
      · dsimp only; rw [h2]; rfl
      · dsimp only; rw [List.length_append]; omega
    · exact ⟨0, rfl, rfl, Nat.zero_le _⟩

end Sys2Proof.Machine
end

