-- ==== Sys2Proof/Laws/Events.lean ====
section
/-! SUPPORT. What raising, masking and unmasking do in the event unit (R190 to R194). -/

namespace Sys2Proof.Machine

theorem raiseSoft_facts (s : State) (v : Nat) (k : Nat) (hk : k ≤ 4) : Reports s (s.raiseSoft v k) ∧ (s.raiseSoft v k).log = s.log ∧
    ∀ j, (s.raiseSoft v k).isPending j = (s.isPending j || (decide (124 ≤ j ∧ j < 124 + k) && bitOf v (j - 124))) := by
  induction k with
  | zero => exact ⟨Reports.refl _, rfl, fun j => by simp [State.raiseSoft] <;> omega⟩
  | succ k ih =>
    obtain ⟨i1, i2, i3⟩ := ih (by omega)
    unfold State.raiseSoft
    dsimp only
    split
    · rename_i hb
      refine ⟨i1.trans (Reports.raise _ _), ?_, ?_⟩
      · rw [← i2]; simp only [State.raise_frame]
      · intro j
        rw [State.raise_isPending _ (by omega), i3]
        by_cases hj : 124 + k = j
        · subst hj; simp [hb]
        · have : decide (124 ≤ j ∧ j < 124 + (k + 1)) = decide (124 ≤ j ∧ j < 124 + k) := by
            apply decide_eq_decide.2; omega
          rw [this]; simp [hj]
    · rename_i hb
      refine ⟨i1, i2, ?_⟩
      intro j
      rw [i3]
      by_cases hj : j = 124 + k
      · subst hj; simp [hb]
      · have : decide (124 ≤ j ∧ j < 124 + (k + 1)) = decide (124 ≤ j ∧ j < 124 + k) := by
          apply decide_eq_decide.2; omega
        rw [this]

theorem pend_setEvt (s : State) (e : EvtSt) (j : Nat) : ({ s with evt := e } : State).isPending j = bitOf e.pend.toNat j := rfl

theorem raise_eq {s : State} {src m : Nat} (h : s.hostVec src = some m) (hl : s.vecMasked m = true ∨ s.hostUp = true)
    (hp : s.isPending src = false) : s.raise src = if s.vecMasked m then
        { s with evt := { s.evt with pend := s.evt.pend ||| BitVec.ofNat 128 (2 ^ src), msixPba := s.evt.msixPba ||| BitVec.ofNat 32 (2 ^ m) } }
      else { s with evt := { s.evt with pend := s.evt.pend ||| BitVec.ofNat 128 (2 ^ src) }, out := s.out ++ [.msix m] } := by
  unfold State.raise
  rw [if_neg (by simp [hp])]
  unfold State.deliver
  have h1 : ({ s with evt := { s.evt with pend := s.evt.pend ||| BitVec.ofNat 128 (2 ^ src) } } : State).hostVec src = some m := h
  rw [h1]
  dsimp only
  by_cases hm : s.vecMasked m = true
  · rw [if_pos hm, if_pos (by exact hm)]
  · rw [if_neg hm, if_neg (by exact hm)]
    have hu := hl.resolve_left hm
    rw [if_neg (by show ¬ (!s.hostUp) = true; rw [hu]; decide)]
    rfl

theorem unmaskVecs_same (s : State) (was : Nat → Bool) (k : Nat) (h : ∀ m, m < k → ¬ (was m = true ∧ s.vecMasked m = false)) : s.unmaskVecs was k = s := by
  induction k with
  | zero => rfl
  | succ k ih =>
    unfold State.unmaskVecs
    dsimp only
    rw [ih fun m hm => h m (by omega), if_neg (h k (by omega))]

theorem unmaskVec_masked (s : State) (m k : Nat) : (s.unmaskVec m).vecMasked k = s.vecMasked k := by
  unfold State.unmaskVec
  split
  · rfl
  · split <;> rfl

theorem unmaskVecs_one (s : State) (was : Nat → Bool) (n k : Nat) (hn : n < k) (h1 : was n = true) (h2 : s.vecMasked n = false)
    (h : ∀ m, m ≠ n → ¬ (was m = true ∧ s.vecMasked m = false)) : s.unmaskVecs was k = s.unmaskVec n := by
  induction k with
  | zero => omega
  | succ k ih =>
    unfold State.unmaskVecs
    dsimp only
    by_cases hk : k = n
    · subst hk
      rw [unmaskVecs_same _ _ _ fun m hm => h m (by omega), if_pos ⟨h1, h2⟩]
    · rw [ih (by omega), if_neg (by rw [unmaskVec_masked]; exact h k hk)]

theorem linkMessages_none (s : State) (k : Nat) (h : ∀ m, m < k → s.anyPending m = false) : s.linkMessages k = s := by
  induction k with
  | zero => rfl
  | succ k ih =>
    unfold State.linkMessages
    dsimp only
    rw [ih fun m hm => h m (by omega), if_neg (by simp [h k (by omega)])]

theorem find_range (p : Nat → Bool) (n : Nat) :
    (∃ x, x < n ∧ (List.range n).find? p = some x ∧ p x = true ∧ ∀ y, y < x → p y = false) ∨
    ((List.range n).find? p = none ∧ ∀ y, y < n → p y = false) := by
  induction n with
  | zero => exact .inr ⟨rfl, fun y h => absurd h (by omega)⟩
  | succ n ih =>
    rw [List.range_succ, List.find?_append]
    rcases ih with ⟨x, h1, h2, h3, h4⟩ | ⟨h1, h2⟩
    · exact .inl ⟨x, by omega, by rw [h2]; rfl, h3, h4⟩
    · rw [h1]
      by_cases hp : p n = true
      · exact .inl ⟨n, by omega, by simp [hp], hp, h2⟩
      · refine .inr ⟨by simp [hp], fun y hy => ?_⟩
        by_cases hy' : y = n
        · subst hy'; simpa using hp
        · exact h2 y (by omega)

end Sys2Proof.Machine
end

