-- ==== Sys2Proof/Laws/Frame/Events.lean ====
section
/-! SUPPORT. The parts of the state that operations of Machine/Events.lean leave as they are. -/

namespace Sys2Proof.Machine

theorem State.clearPba_same (s : State) (m : Nat) :
    Same (fun t => (t.sys, t.pwr, t.tb, t.rtc, t.hq, t.wb, t.core, t.dbg, t.prg, t.loop, t.slk, t.est, t.prot, t.dsp, t.dio, t.aio, t.can, t.net, t.nvs, t.log, t.sec, t.upd, t.locks, t.regs, t.mem, t.cfg, t.resp, t.out, t.freeCtr, t.pending)) s (State.clearPba s m) := by
  unfold State.clearPba
  (try dsimp only)
  (repeat' split) <;> simp [Same]

@[simp] theorem State.clearPba_frame (s : State) (m : Nat) :
    (State.clearPba s m).sys = s.sys ∧ (State.clearPba s m).pwr = s.pwr ∧ (State.clearPba s m).tb = s.tb ∧
    (State.clearPba s m).rtc = s.rtc ∧ (State.clearPba s m).hq = s.hq ∧ (State.clearPba s m).wb = s.wb ∧
    (State.clearPba s m).core = s.core ∧ (State.clearPba s m).dbg = s.dbg ∧ (State.clearPba s m).prg = s.prg ∧
    (State.clearPba s m).loop = s.loop ∧ (State.clearPba s m).slk = s.slk ∧ (State.clearPba s m).est = s.est ∧
    (State.clearPba s m).prot = s.prot ∧ (State.clearPba s m).dsp = s.dsp ∧ (State.clearPba s m).dio = s.dio ∧
    (State.clearPba s m).aio = s.aio ∧ (State.clearPba s m).can = s.can ∧ (State.clearPba s m).net = s.net ∧
    (State.clearPba s m).nvs = s.nvs ∧ (State.clearPba s m).log = s.log ∧ (State.clearPba s m).sec = s.sec ∧
    (State.clearPba s m).upd = s.upd ∧ (State.clearPba s m).locks = s.locks ∧ (State.clearPba s m).regs = s.regs ∧
    (State.clearPba s m).mem = s.mem ∧ (State.clearPba s m).cfg = s.cfg ∧ (State.clearPba s m).resp = s.resp ∧
    (State.clearPba s m).out = s.out ∧ (State.clearPba s m).freeCtr = s.freeCtr ∧ (State.clearPba s m).pending = s.pending := by
  simpa [Same] using State.clearPba_same s m

theorem State.unmaskVec_same (s : State) (m : Nat) :
    Same (fun t => (t.sys, t.pwr, t.tb, t.rtc, t.hq, t.wb, t.core, t.dbg, t.prg, t.loop, t.slk, t.est, t.prot, t.dsp, t.dio, t.aio, t.can, t.net, t.nvs, t.log, t.sec, t.upd, t.locks, t.regs, t.mem, t.cfg, t.resp, t.freeCtr, t.pending)) s (State.unmaskVec s m) := by
  unfold State.unmaskVec
  (try dsimp only)
  (repeat' split) <;> simp [Same]

@[simp] theorem State.unmaskVec_frame (s : State) (m : Nat) :
    (State.unmaskVec s m).sys = s.sys ∧ (State.unmaskVec s m).pwr = s.pwr ∧ (State.unmaskVec s m).tb = s.tb ∧
    (State.unmaskVec s m).rtc = s.rtc ∧ (State.unmaskVec s m).hq = s.hq ∧ (State.unmaskVec s m).wb = s.wb ∧
    (State.unmaskVec s m).core = s.core ∧ (State.unmaskVec s m).dbg = s.dbg ∧ (State.unmaskVec s m).prg = s.prg ∧
    (State.unmaskVec s m).loop = s.loop ∧ (State.unmaskVec s m).slk = s.slk ∧ (State.unmaskVec s m).est = s.est ∧
    (State.unmaskVec s m).prot = s.prot ∧ (State.unmaskVec s m).dsp = s.dsp ∧ (State.unmaskVec s m).dio = s.dio ∧
    (State.unmaskVec s m).aio = s.aio ∧ (State.unmaskVec s m).can = s.can ∧ (State.unmaskVec s m).net = s.net ∧
    (State.unmaskVec s m).nvs = s.nvs ∧ (State.unmaskVec s m).log = s.log ∧ (State.unmaskVec s m).sec = s.sec ∧
    (State.unmaskVec s m).upd = s.upd ∧ (State.unmaskVec s m).locks = s.locks ∧ (State.unmaskVec s m).regs = s.regs ∧
    (State.unmaskVec s m).mem = s.mem ∧ (State.unmaskVec s m).cfg = s.cfg ∧ (State.unmaskVec s m).resp = s.resp ∧
    (State.unmaskVec s m).freeCtr = s.freeCtr ∧ (State.unmaskVec s m).pending = s.pending := by
  simpa [Same] using State.unmaskVec_same s m

theorem State.unmaskVecs_same (s : State) (was : Nat → Bool) (a0 : Nat) :
    Same (fun t => (t.sys, t.pwr, t.tb, t.rtc, t.hq, t.wb, t.core, t.dbg, t.prg, t.loop, t.slk, t.est, t.prot, t.dsp, t.dio, t.aio, t.can, t.net, t.nvs, t.log, t.sec, t.upd, t.locks, t.regs, t.mem, t.cfg, t.resp, t.freeCtr, t.pending)) s (State.unmaskVecs s was a0) := by
  simp only [Same]
  induction a0 generalizing s was with
  | zero => simp [State.unmaskVecs]
  | succ y ih =>
    rw [State.unmaskVecs]
    (try dsimp only)
    (repeat' split) <;> simp [ih]

@[simp] theorem State.unmaskVecs_frame (s : State) (was : Nat → Bool) (a0 : Nat) :
    (State.unmaskVecs s was a0).sys = s.sys ∧ (State.unmaskVecs s was a0).pwr = s.pwr ∧ (State.unmaskVecs s was a0).tb = s.tb ∧
    (State.unmaskVecs s was a0).rtc = s.rtc ∧ (State.unmaskVecs s was a0).hq = s.hq ∧ (State.unmaskVecs s was a0).wb = s.wb ∧
    (State.unmaskVecs s was a0).core = s.core ∧ (State.unmaskVecs s was a0).dbg = s.dbg ∧
    (State.unmaskVecs s was a0).prg = s.prg ∧ (State.unmaskVecs s was a0).loop = s.loop ∧
    (State.unmaskVecs s was a0).slk = s.slk ∧ (State.unmaskVecs s was a0).est = s.est ∧
    (State.unmaskVecs s was a0).prot = s.prot ∧ (State.unmaskVecs s was a0).dsp = s.dsp ∧
    (State.unmaskVecs s was a0).dio = s.dio ∧ (State.unmaskVecs s was a0).aio = s.aio ∧
    (State.unmaskVecs s was a0).can = s.can ∧ (State.unmaskVecs s was a0).net = s.net ∧
    (State.unmaskVecs s was a0).nvs = s.nvs ∧ (State.unmaskVecs s was a0).log = s.log ∧
    (State.unmaskVecs s was a0).sec = s.sec ∧ (State.unmaskVecs s was a0).upd = s.upd ∧
    (State.unmaskVecs s was a0).locks = s.locks ∧ (State.unmaskVecs s was a0).regs = s.regs ∧
    (State.unmaskVecs s was a0).mem = s.mem ∧ (State.unmaskVecs s was a0).cfg = s.cfg ∧
    (State.unmaskVecs s was a0).resp = s.resp ∧ (State.unmaskVecs s was a0).freeCtr = s.freeCtr ∧
    (State.unmaskVecs s was a0).pending = s.pending := by
  simpa [Same] using State.unmaskVecs_same s was a0

theorem State.raiseSoft_same (s : State) (v : Nat) (a0 : Nat) :
    Same (fun t => (t.sys, t.pwr, t.tb, t.rtc, t.hq, t.wb, t.core, t.dbg, t.prg, t.loop, t.slk, t.est, t.prot, t.dsp, t.dio, t.aio, t.can, t.net, t.nvs, t.log, t.sec, t.upd, t.locks, t.regs, t.mem, t.cfg, t.resp, t.freeCtr, t.pending)) s (State.raiseSoft s v a0) := by
  simp only [Same]
  induction a0 generalizing s v with
  | zero => simp [State.raiseSoft]
  | succ y ih =>
    rw [State.raiseSoft]
    (try dsimp only)
    (repeat' split) <;> simp [ih]

@[simp] theorem State.raiseSoft_frame (s : State) (v : Nat) (a0 : Nat) :
    (State.raiseSoft s v a0).sys = s.sys ∧ (State.raiseSoft s v a0).pwr = s.pwr ∧ (State.raiseSoft s v a0).tb = s.tb ∧
    (State.raiseSoft s v a0).rtc = s.rtc ∧ (State.raiseSoft s v a0).hq = s.hq ∧ (State.raiseSoft s v a0).wb = s.wb ∧
    (State.raiseSoft s v a0).core = s.core ∧ (State.raiseSoft s v a0).dbg = s.dbg ∧ (State.raiseSoft s v a0).prg = s.prg ∧
    (State.raiseSoft s v a0).loop = s.loop ∧ (State.raiseSoft s v a0).slk = s.slk ∧ (State.raiseSoft s v a0).est = s.est ∧
    (State.raiseSoft s v a0).prot = s.prot ∧ (State.raiseSoft s v a0).dsp = s.dsp ∧ (State.raiseSoft s v a0).dio = s.dio ∧
    (State.raiseSoft s v a0).aio = s.aio ∧ (State.raiseSoft s v a0).can = s.can ∧ (State.raiseSoft s v a0).net = s.net ∧
    (State.raiseSoft s v a0).nvs = s.nvs ∧ (State.raiseSoft s v a0).log = s.log ∧ (State.raiseSoft s v a0).sec = s.sec ∧
    (State.raiseSoft s v a0).upd = s.upd ∧ (State.raiseSoft s v a0).locks = s.locks ∧ (State.raiseSoft s v a0).regs = s.regs ∧
    (State.raiseSoft s v a0).mem = s.mem ∧ (State.raiseSoft s v a0).cfg = s.cfg ∧ (State.raiseSoft s v a0).resp = s.resp ∧
    (State.raiseSoft s v a0).freeCtr = s.freeCtr ∧ (State.raiseSoft s v a0).pending = s.pending := by
  simpa [Same] using State.raiseSoft_same s v a0

theorem State.linkMessages_same (s : State) (a0 : Nat) :
    Same (fun t => (t.sys, t.pwr, t.tb, t.rtc, t.hq, t.wb, t.core, t.dbg, t.prg, t.loop, t.slk, t.est, t.prot, t.dsp, t.dio, t.aio, t.can, t.net, t.nvs, t.log, t.sec, t.upd, t.locks, t.regs, t.mem, t.cfg, t.resp, t.freeCtr, t.pending)) s (State.linkMessages s a0) := by
  simp only [Same]
  induction a0 generalizing s with
  | zero => simp [State.linkMessages]
  | succ y ih =>
    rw [State.linkMessages]
    (try dsimp only)
    (repeat' split) <;> simp [ih]

@[simp] theorem State.linkMessages_frame (s : State) (a0 : Nat) :
    (State.linkMessages s a0).sys = s.sys ∧ (State.linkMessages s a0).pwr = s.pwr ∧ (State.linkMessages s a0).tb = s.tb ∧
    (State.linkMessages s a0).rtc = s.rtc ∧ (State.linkMessages s a0).hq = s.hq ∧ (State.linkMessages s a0).wb = s.wb ∧
    (State.linkMessages s a0).core = s.core ∧ (State.linkMessages s a0).dbg = s.dbg ∧ (State.linkMessages s a0).prg = s.prg ∧
    (State.linkMessages s a0).loop = s.loop ∧ (State.linkMessages s a0).slk = s.slk ∧ (State.linkMessages s a0).est = s.est ∧
    (State.linkMessages s a0).prot = s.prot ∧ (State.linkMessages s a0).dsp = s.dsp ∧ (State.linkMessages s a0).dio = s.dio ∧
    (State.linkMessages s a0).aio = s.aio ∧ (State.linkMessages s a0).can = s.can ∧ (State.linkMessages s a0).net = s.net ∧
    (State.linkMessages s a0).nvs = s.nvs ∧ (State.linkMessages s a0).log = s.log ∧ (State.linkMessages s a0).sec = s.sec ∧
    (State.linkMessages s a0).upd = s.upd ∧ (State.linkMessages s a0).locks = s.locks ∧
    (State.linkMessages s a0).regs = s.regs ∧ (State.linkMessages s a0).mem = s.mem ∧ (State.linkMessages s a0).cfg = s.cfg ∧
    (State.linkMessages s a0).resp = s.resp ∧ (State.linkMessages s a0).freeCtr = s.freeCtr ∧
    (State.linkMessages s a0).pending = s.pending := by
  simpa [Same] using State.linkMessages_same s a0

end Sys2Proof.Machine
end

