-- ==== Sys2Proof/Laws/Frame/Clock.lean ====
section
/-! SUPPORT. The parts of the state that operations of Machine/Clock.lean leave as they are. -/

namespace Sys2Proof.Machine

theorem State.setSlot_same (s : State) (n : Nat) (f : Slot → Slot) :
    Same (fun t => (t.sys, t.pwr, t.tb, t.rtc, t.hq, t.evt, t.wb, t.core, t.dbg, t.prg, t.slk, t.est, t.prot, t.dsp, t.dio, t.aio, t.can, t.net, t.nvs, t.log, t.sec, t.upd, t.locks, t.regs, t.mem, t.cfg, t.resp, t.out, t.freeCtr, t.pending)) s (State.setSlot s n f) := by
  unfold State.setSlot
  (try dsimp only)
  (repeat' split) <;> simp [Same]

@[simp] theorem State.setSlot_frame (s : State) (n : Nat) (f : Slot → Slot) :
    (State.setSlot s n f).sys = s.sys ∧ (State.setSlot s n f).pwr = s.pwr ∧ (State.setSlot s n f).tb = s.tb ∧
    (State.setSlot s n f).rtc = s.rtc ∧ (State.setSlot s n f).hq = s.hq ∧ (State.setSlot s n f).evt = s.evt ∧
    (State.setSlot s n f).wb = s.wb ∧ (State.setSlot s n f).core = s.core ∧ (State.setSlot s n f).dbg = s.dbg ∧
    (State.setSlot s n f).prg = s.prg ∧ (State.setSlot s n f).slk = s.slk ∧ (State.setSlot s n f).est = s.est ∧
    (State.setSlot s n f).prot = s.prot ∧ (State.setSlot s n f).dsp = s.dsp ∧ (State.setSlot s n f).dio = s.dio ∧
    (State.setSlot s n f).aio = s.aio ∧ (State.setSlot s n f).can = s.can ∧ (State.setSlot s n f).net = s.net ∧
    (State.setSlot s n f).nvs = s.nvs ∧ (State.setSlot s n f).log = s.log ∧ (State.setSlot s n f).sec = s.sec ∧
    (State.setSlot s n f).upd = s.upd ∧ (State.setSlot s n f).locks = s.locks ∧ (State.setSlot s n f).regs = s.regs ∧
    (State.setSlot s n f).mem = s.mem ∧ (State.setSlot s n f).cfg = s.cfg ∧ (State.setSlot s n f).resp = s.resp ∧
    (State.setSlot s n f).out = s.out ∧ (State.setSlot s n f).freeCtr = s.freeCtr ∧ (State.setSlot s n f).pending = s.pending := by
  simpa [Same] using State.setSlot_same s n f

theorem State.applySetpoint_same (s : State) (now : Nat) :
    Same (fun t => (t.sys, t.pwr, t.tb, t.rtc, t.hq, t.evt, t.wb, t.core, t.dbg, t.prg, t.slk, t.est, t.prot, t.dio, t.aio, t.can, t.net, t.nvs, t.log, t.sec, t.upd, t.locks, t.regs, t.mem, t.cfg, t.resp, t.out, t.freeCtr, t.pending)) s (State.applySetpoint s now) := by
  unfold State.applySetpoint
  (try dsimp only)
  (repeat' split) <;> simp [Same]

@[simp] theorem State.applySetpoint_frame (s : State) (now : Nat) :
    (State.applySetpoint s now).sys = s.sys ∧ (State.applySetpoint s now).pwr = s.pwr ∧ (State.applySetpoint s now).tb = s.tb ∧
    (State.applySetpoint s now).rtc = s.rtc ∧ (State.applySetpoint s now).hq = s.hq ∧ (State.applySetpoint s now).evt = s.evt ∧
    (State.applySetpoint s now).wb = s.wb ∧ (State.applySetpoint s now).core = s.core ∧
    (State.applySetpoint s now).dbg = s.dbg ∧ (State.applySetpoint s now).prg = s.prg ∧
    (State.applySetpoint s now).slk = s.slk ∧ (State.applySetpoint s now).est = s.est ∧
    (State.applySetpoint s now).prot = s.prot ∧ (State.applySetpoint s now).dio = s.dio ∧
    (State.applySetpoint s now).aio = s.aio ∧ (State.applySetpoint s now).can = s.can ∧
    (State.applySetpoint s now).net = s.net ∧ (State.applySetpoint s now).nvs = s.nvs ∧
    (State.applySetpoint s now).log = s.log ∧ (State.applySetpoint s now).sec = s.sec ∧
    (State.applySetpoint s now).upd = s.upd ∧ (State.applySetpoint s now).locks = s.locks ∧
    (State.applySetpoint s now).regs = s.regs ∧ (State.applySetpoint s now).mem = s.mem ∧
    (State.applySetpoint s now).cfg = s.cfg ∧ (State.applySetpoint s now).resp = s.resp ∧
    (State.applySetpoint s now).out = s.out ∧ (State.applySetpoint s now).freeCtr = s.freeCtr ∧
    (State.applySetpoint s now).pending = s.pending := by
  simpa [Same] using State.applySetpoint_same s now

end Sys2Proof.Machine
end

