-- ==== Sys2Proof/Laws/Frame/Comms.lean ====
section
/-! SUPPORT. The parts of the state that operations of Machine/Comms.lean leave as they are. -/

namespace Sys2Proof.Machine

theorem State.setInput_same (s : State) (cls idx : Nat) (v : F32) (stamp : Nat) (valid : Bool) :
    Same (fun t => (t.sys, t.pwr, t.tb, t.rtc, t.hq, t.evt, t.wb, t.core, t.dbg, t.prg, t.slk, t.est, t.prot, t.dsp, t.dio, t.aio, t.can, t.net, t.nvs, t.log, t.sec, t.upd, t.locks, t.regs, t.mem, t.cfg, t.resp, t.out, t.freeCtr, t.pending)) s (State.setInput s cls idx v stamp valid) := by
  unfold State.setInput
  (try dsimp only)
  (repeat' split) <;> simp [Same]

@[simp] theorem State.setInput_frame (s : State) (cls idx : Nat) (v : F32) (stamp : Nat) (valid : Bool) :
    (State.setInput s cls idx v stamp valid).sys = s.sys ∧ (State.setInput s cls idx v stamp valid).pwr = s.pwr ∧
    (State.setInput s cls idx v stamp valid).tb = s.tb ∧ (State.setInput s cls idx v stamp valid).rtc = s.rtc ∧
    (State.setInput s cls idx v stamp valid).hq = s.hq ∧ (State.setInput s cls idx v stamp valid).evt = s.evt ∧
    (State.setInput s cls idx v stamp valid).wb = s.wb ∧ (State.setInput s cls idx v stamp valid).core = s.core ∧
    (State.setInput s cls idx v stamp valid).dbg = s.dbg ∧ (State.setInput s cls idx v stamp valid).prg = s.prg ∧
    (State.setInput s cls idx v stamp valid).slk = s.slk ∧ (State.setInput s cls idx v stamp valid).est = s.est ∧
    (State.setInput s cls idx v stamp valid).prot = s.prot ∧ (State.setInput s cls idx v stamp valid).dsp = s.dsp ∧
    (State.setInput s cls idx v stamp valid).dio = s.dio ∧ (State.setInput s cls idx v stamp valid).aio = s.aio ∧
    (State.setInput s cls idx v stamp valid).can = s.can ∧ (State.setInput s cls idx v stamp valid).net = s.net ∧
    (State.setInput s cls idx v stamp valid).nvs = s.nvs ∧ (State.setInput s cls idx v stamp valid).log = s.log ∧
    (State.setInput s cls idx v stamp valid).sec = s.sec ∧ (State.setInput s cls idx v stamp valid).upd = s.upd ∧
    (State.setInput s cls idx v stamp valid).locks = s.locks ∧ (State.setInput s cls idx v stamp valid).regs = s.regs ∧
    (State.setInput s cls idx v stamp valid).mem = s.mem ∧ (State.setInput s cls idx v stamp valid).cfg = s.cfg ∧
    (State.setInput s cls idx v stamp valid).resp = s.resp ∧ (State.setInput s cls idx v stamp valid).out = s.out ∧
    (State.setInput s cls idx v stamp valid).freeCtr = s.freeCtr ∧ (State.setInput s cls idx v stamp valid).pending = s.pending := by
  simpa [Same] using State.setInput_same s cls idx v stamp valid

theorem State.setSignal_same (s : State) (i : Nat) (v : F32) :
    Same (fun t => (t.sys, t.pwr, t.tb, t.rtc, t.hq, t.evt, t.wb, t.core, t.dbg, t.prg, t.loop, t.slk, t.est, t.prot, t.dsp, t.dio, t.aio, t.net, t.nvs, t.log, t.sec, t.upd, t.locks, t.regs, t.mem, t.cfg, t.resp, t.out, t.pending)) s (State.setSignal s i v) := by
  unfold State.setSignal
  (try dsimp only)
  (repeat' split) <;> simp [Same]

@[simp] theorem State.setSignal_frame (s : State) (i : Nat) (v : F32) :
    (State.setSignal s i v).sys = s.sys ∧ (State.setSignal s i v).pwr = s.pwr ∧ (State.setSignal s i v).tb = s.tb ∧
    (State.setSignal s i v).rtc = s.rtc ∧ (State.setSignal s i v).hq = s.hq ∧ (State.setSignal s i v).evt = s.evt ∧
    (State.setSignal s i v).wb = s.wb ∧ (State.setSignal s i v).core = s.core ∧ (State.setSignal s i v).dbg = s.dbg ∧
    (State.setSignal s i v).prg = s.prg ∧ (State.setSignal s i v).loop = s.loop ∧ (State.setSignal s i v).slk = s.slk ∧
    (State.setSignal s i v).est = s.est ∧ (State.setSignal s i v).prot = s.prot ∧ (State.setSignal s i v).dsp = s.dsp ∧
    (State.setSignal s i v).dio = s.dio ∧ (State.setSignal s i v).aio = s.aio ∧ (State.setSignal s i v).net = s.net ∧
    (State.setSignal s i v).nvs = s.nvs ∧ (State.setSignal s i v).log = s.log ∧ (State.setSignal s i v).sec = s.sec ∧
    (State.setSignal s i v).upd = s.upd ∧ (State.setSignal s i v).locks = s.locks ∧ (State.setSignal s i v).regs = s.regs ∧
    (State.setSignal s i v).mem = s.mem ∧ (State.setSignal s i v).cfg = s.cfg ∧ (State.setSignal s i v).resp = s.resp ∧
    (State.setSignal s i v).out = s.out ∧ (State.setSignal s i v).pending = s.pending := by
  simpa [Same] using State.setSignal_same s i v

end Sys2Proof.Machine
end

