-- ==== Sys2Proof/Laws/Frame/Pair.lean ====
section
/-! SUPPORT. The parts of the state that operations of Machine/Pair.lean leave as they are. -/

namespace Sys2Proof.Machine

theorem State.sendOrdered_same (s : State) (st : Stream) (resend start : Bool) (f : Nat × Nat × List Byte) :
    Same (fun t => (t.sys, t.pwr, t.tb, t.rtc, t.hq, t.evt, t.wb, t.core, t.dbg, t.prg, t.loop, t.slk, t.est, t.prot, t.dsp, t.dio, t.aio, t.can, t.net, t.nvs, t.log, t.sec, t.upd, t.locks, t.regs, t.mem, t.cfg, t.resp, t.freeCtr, t.pending)) s (State.sendOrdered s st resend start f) := by
  unfold State.sendOrdered
  (try dsimp only)
  (repeat' split) <;> simp [Same]

@[simp] theorem State.sendOrdered_frame (s : State) (st : Stream) (resend start : Bool) (f : Nat × Nat × List Byte) :
    (State.sendOrdered s st resend start f).sys = s.sys ∧ (State.sendOrdered s st resend start f).pwr = s.pwr ∧
    (State.sendOrdered s st resend start f).tb = s.tb ∧ (State.sendOrdered s st resend start f).rtc = s.rtc ∧
    (State.sendOrdered s st resend start f).hq = s.hq ∧ (State.sendOrdered s st resend start f).evt = s.evt ∧
    (State.sendOrdered s st resend start f).wb = s.wb ∧ (State.sendOrdered s st resend start f).core = s.core ∧
    (State.sendOrdered s st resend start f).dbg = s.dbg ∧ (State.sendOrdered s st resend start f).prg = s.prg ∧
    (State.sendOrdered s st resend start f).loop = s.loop ∧ (State.sendOrdered s st resend start f).slk = s.slk ∧
    (State.sendOrdered s st resend start f).est = s.est ∧ (State.sendOrdered s st resend start f).prot = s.prot ∧
    (State.sendOrdered s st resend start f).dsp = s.dsp ∧ (State.sendOrdered s st resend start f).dio = s.dio ∧
    (State.sendOrdered s st resend start f).aio = s.aio ∧ (State.sendOrdered s st resend start f).can = s.can ∧
    (State.sendOrdered s st resend start f).net = s.net ∧ (State.sendOrdered s st resend start f).nvs = s.nvs ∧
    (State.sendOrdered s st resend start f).log = s.log ∧ (State.sendOrdered s st resend start f).sec = s.sec ∧
    (State.sendOrdered s st resend start f).upd = s.upd ∧ (State.sendOrdered s st resend start f).locks = s.locks ∧
    (State.sendOrdered s st resend start f).regs = s.regs ∧ (State.sendOrdered s st resend start f).mem = s.mem ∧
    (State.sendOrdered s st resend start f).cfg = s.cfg ∧ (State.sendOrdered s st resend start f).resp = s.resp ∧
    (State.sendOrdered s st resend start f).freeCtr = s.freeCtr ∧ (State.sendOrdered s st resend start f).pending = s.pending := by
  simpa [Same] using State.sendOrdered_same s st resend start f

theorem State.sendAllOrdered_same (s : State) (st : Stream) (resend : Bool) (l : List (Nat × Nat × List Byte)) :
    Same (fun t => (t.sys, t.pwr, t.tb, t.rtc, t.hq, t.evt, t.wb, t.core, t.dbg, t.prg, t.loop, t.slk, t.est, t.prot, t.dsp, t.dio, t.aio, t.can, t.net, t.nvs, t.log, t.sec, t.upd, t.locks, t.regs, t.mem, t.cfg, t.resp, t.freeCtr, t.pending)) s (State.sendAllOrdered s st resend l) := by
  unfold State.sendAllOrdered
  (try dsimp only)
  repeat' first | (with_reducible refine Same.foldl _ _ (fun u x => ?_) ?_) | split
  all_goals simp [Same]

@[simp] theorem State.sendAllOrdered_frame (s : State) (st : Stream) (resend : Bool) (l : List (Nat × Nat × List Byte)) :
    (State.sendAllOrdered s st resend l).sys = s.sys ∧ (State.sendAllOrdered s st resend l).pwr = s.pwr ∧
    (State.sendAllOrdered s st resend l).tb = s.tb ∧ (State.sendAllOrdered s st resend l).rtc = s.rtc ∧
    (State.sendAllOrdered s st resend l).hq = s.hq ∧ (State.sendAllOrdered s st resend l).evt = s.evt ∧
    (State.sendAllOrdered s st resend l).wb = s.wb ∧ (State.sendAllOrdered s st resend l).core = s.core ∧
    (State.sendAllOrdered s st resend l).dbg = s.dbg ∧ (State.sendAllOrdered s st resend l).prg = s.prg ∧
    (State.sendAllOrdered s st resend l).loop = s.loop ∧ (State.sendAllOrdered s st resend l).slk = s.slk ∧
    (State.sendAllOrdered s st resend l).est = s.est ∧ (State.sendAllOrdered s st resend l).prot = s.prot ∧
    (State.sendAllOrdered s st resend l).dsp = s.dsp ∧ (State.sendAllOrdered s st resend l).dio = s.dio ∧
    (State.sendAllOrdered s st resend l).aio = s.aio ∧ (State.sendAllOrdered s st resend l).can = s.can ∧
    (State.sendAllOrdered s st resend l).net = s.net ∧ (State.sendAllOrdered s st resend l).nvs = s.nvs ∧
    (State.sendAllOrdered s st resend l).log = s.log ∧ (State.sendAllOrdered s st resend l).sec = s.sec ∧
    (State.sendAllOrdered s st resend l).upd = s.upd ∧ (State.sendAllOrdered s st resend l).locks = s.locks ∧
    (State.sendAllOrdered s st resend l).regs = s.regs ∧ (State.sendAllOrdered s st resend l).mem = s.mem ∧
    (State.sendAllOrdered s st resend l).cfg = s.cfg ∧ (State.sendAllOrdered s st resend l).resp = s.resp ∧
    (State.sendAllOrdered s st resend l).freeCtr = s.freeCtr ∧ (State.sendAllOrdered s st resend l).pending = s.pending := by
  simpa [Same] using State.sendAllOrdered_same s st resend l

theorem State.setStream_same (s : State) (id : Nat) (f : Stream → Stream) :
    Same (fun t => (t.sys, t.pwr, t.tb, t.rtc, t.hq, t.evt, t.core, t.dbg, t.prg, t.loop, t.slk, t.est, t.prot, t.dsp, t.dio, t.aio, t.can, t.net, t.nvs, t.log, t.sec, t.upd, t.locks, t.regs, t.mem, t.cfg, t.resp, t.out, t.freeCtr, t.pending)) s (State.setStream s id f) := by
  unfold State.setStream
  (try dsimp only)
  (repeat' split) <;> simp [Same]

@[simp] theorem State.setStream_frame (s : State) (id : Nat) (f : Stream → Stream) :
    (State.setStream s id f).sys = s.sys ∧ (State.setStream s id f).pwr = s.pwr ∧ (State.setStream s id f).tb = s.tb ∧
    (State.setStream s id f).rtc = s.rtc ∧ (State.setStream s id f).hq = s.hq ∧ (State.setStream s id f).evt = s.evt ∧
    (State.setStream s id f).core = s.core ∧ (State.setStream s id f).dbg = s.dbg ∧ (State.setStream s id f).prg = s.prg ∧
    (State.setStream s id f).loop = s.loop ∧ (State.setStream s id f).slk = s.slk ∧ (State.setStream s id f).est = s.est ∧
    (State.setStream s id f).prot = s.prot ∧ (State.setStream s id f).dsp = s.dsp ∧ (State.setStream s id f).dio = s.dio ∧
    (State.setStream s id f).aio = s.aio ∧ (State.setStream s id f).can = s.can ∧ (State.setStream s id f).net = s.net ∧
    (State.setStream s id f).nvs = s.nvs ∧ (State.setStream s id f).log = s.log ∧ (State.setStream s id f).sec = s.sec ∧
    (State.setStream s id f).upd = s.upd ∧ (State.setStream s id f).locks = s.locks ∧ (State.setStream s id f).regs = s.regs ∧
    (State.setStream s id f).mem = s.mem ∧ (State.setStream s id f).cfg = s.cfg ∧ (State.setStream s id f).resp = s.resp ∧
    (State.setStream s id f).out = s.out ∧ (State.setStream s id f).freeCtr = s.freeCtr ∧
    (State.setStream s id f).pending = s.pending := by
  simpa [Same] using State.setStream_same s id f

theorem State.intend_same (s : State) (id : Nat) (payload : List Byte) :
    Same (fun t => (t.pwr, t.tb, t.rtc, t.hq, t.evt, t.core, t.dbg, t.prg, t.loop, t.slk, t.est, t.prot, t.dsp, t.dio, t.aio, t.can, t.net, t.nvs, t.sec, t.upd, t.locks, t.regs, t.cfg, t.resp, t.freeCtr, t.pending)) s (State.intend s id payload) := by
  unfold State.intend
  (try dsimp only)
  (repeat' split) <;> simp [Same]

@[simp] theorem State.intend_frame (s : State) (id : Nat) (payload : List Byte) :
    (State.intend s id payload).pwr = s.pwr ∧ (State.intend s id payload).tb = s.tb ∧ (State.intend s id payload).rtc = s.rtc ∧
    (State.intend s id payload).hq = s.hq ∧ (State.intend s id payload).evt = s.evt ∧
    (State.intend s id payload).core = s.core ∧ (State.intend s id payload).dbg = s.dbg ∧
    (State.intend s id payload).prg = s.prg ∧ (State.intend s id payload).loop = s.loop ∧
    (State.intend s id payload).slk = s.slk ∧ (State.intend s id payload).est = s.est ∧
    (State.intend s id payload).prot = s.prot ∧ (State.intend s id payload).dsp = s.dsp ∧
    (State.intend s id payload).dio = s.dio ∧ (State.intend s id payload).aio = s.aio ∧
    (State.intend s id payload).can = s.can ∧ (State.intend s id payload).net = s.net ∧
    (State.intend s id payload).nvs = s.nvs ∧ (State.intend s id payload).sec = s.sec ∧
    (State.intend s id payload).upd = s.upd ∧ (State.intend s id payload).locks = s.locks ∧
    (State.intend s id payload).regs = s.regs ∧ (State.intend s id payload).cfg = s.cfg ∧
    (State.intend s id payload).resp = s.resp ∧ (State.intend s id payload).freeCtr = s.freeCtr ∧
    (State.intend s id payload).pending = s.pending := by
  simpa [Same] using State.intend_same s id payload

theorem State.sendCommitted_same (s : State) (old : Nat) :
    Same (fun t => (t.sys, t.pwr, t.tb, t.rtc, t.hq, t.evt, t.wb, t.core, t.dbg, t.prg, t.loop, t.slk, t.est, t.prot, t.dsp, t.dio, t.aio, t.can, t.net, t.nvs, t.log, t.sec, t.upd, t.locks, t.regs, t.mem, t.cfg, t.resp, t.freeCtr, t.pending)) s (State.sendCommitted s old) := by
  unfold State.sendCommitted
  (try dsimp only)
  repeat' first | (with_reducible refine Same.foldl _ _ (fun u x => ?_) ?_) | split
  all_goals simp [Same]

@[simp] theorem State.sendCommitted_frame (s : State) (old : Nat) :
    (State.sendCommitted s old).sys = s.sys ∧ (State.sendCommitted s old).pwr = s.pwr ∧ (State.sendCommitted s old).tb = s.tb ∧
    (State.sendCommitted s old).rtc = s.rtc ∧ (State.sendCommitted s old).hq = s.hq ∧ (State.sendCommitted s old).evt = s.evt ∧
    (State.sendCommitted s old).wb = s.wb ∧ (State.sendCommitted s old).core = s.core ∧
    (State.sendCommitted s old).dbg = s.dbg ∧ (State.sendCommitted s old).prg = s.prg ∧
    (State.sendCommitted s old).loop = s.loop ∧ (State.sendCommitted s old).slk = s.slk ∧
    (State.sendCommitted s old).est = s.est ∧ (State.sendCommitted s old).prot = s.prot ∧
    (State.sendCommitted s old).dsp = s.dsp ∧ (State.sendCommitted s old).dio = s.dio ∧
    (State.sendCommitted s old).aio = s.aio ∧ (State.sendCommitted s old).can = s.can ∧
    (State.sendCommitted s old).net = s.net ∧ (State.sendCommitted s old).nvs = s.nvs ∧
    (State.sendCommitted s old).log = s.log ∧ (State.sendCommitted s old).sec = s.sec ∧
    (State.sendCommitted s old).upd = s.upd ∧ (State.sendCommitted s old).locks = s.locks ∧
    (State.sendCommitted s old).regs = s.regs ∧ (State.sendCommitted s old).mem = s.mem ∧
    (State.sendCommitted s old).cfg = s.cfg ∧ (State.sendCommitted s old).resp = s.resp ∧
    (State.sendCommitted s old).freeCtr = s.freeCtr ∧ (State.sendCommitted s old).pending = s.pending := by
  simpa [Same] using State.sendCommitted_same s old

theorem State.freeJournal_same (s : State) :
    Same (fun t => (t.pwr, t.tb, t.rtc, t.hq, t.evt, t.core, t.dbg, t.prg, t.loop, t.slk, t.est, t.prot, t.dsp, t.dio, t.aio, t.can, t.net, t.nvs, t.sec, t.upd, t.locks, t.regs, t.cfg, t.resp, t.out, t.freeCtr, t.pending)) s (State.freeJournal s) := by
  unfold State.freeJournal
  (try dsimp only)
  (repeat' split) <;> simp [Same]

@[simp] theorem State.freeJournal_frame (s : State) :
    (State.freeJournal s).pwr = s.pwr ∧ (State.freeJournal s).tb = s.tb ∧ (State.freeJournal s).rtc = s.rtc ∧
    (State.freeJournal s).hq = s.hq ∧ (State.freeJournal s).evt = s.evt ∧ (State.freeJournal s).core = s.core ∧
    (State.freeJournal s).dbg = s.dbg ∧ (State.freeJournal s).prg = s.prg ∧ (State.freeJournal s).loop = s.loop ∧
    (State.freeJournal s).slk = s.slk ∧ (State.freeJournal s).est = s.est ∧ (State.freeJournal s).prot = s.prot ∧
    (State.freeJournal s).dsp = s.dsp ∧ (State.freeJournal s).dio = s.dio ∧ (State.freeJournal s).aio = s.aio ∧
    (State.freeJournal s).can = s.can ∧ (State.freeJournal s).net = s.net ∧ (State.freeJournal s).nvs = s.nvs ∧
    (State.freeJournal s).sec = s.sec ∧ (State.freeJournal s).upd = s.upd ∧ (State.freeJournal s).locks = s.locks ∧
    (State.freeJournal s).regs = s.regs ∧ (State.freeJournal s).cfg = s.cfg ∧ (State.freeJournal s).resp = s.resp ∧
    (State.freeJournal s).out = s.out ∧ (State.freeJournal s).freeCtr = s.freeCtr ∧ (State.freeJournal s).pending = s.pending := by
  simpa [Same] using State.freeJournal_same s

theorem State.keepEpochs_same (s : State) :
    Same (fun t => (t.sys, t.pwr, t.tb, t.rtc, t.hq, t.evt, t.wb, t.core, t.dbg, t.prg, t.loop, t.slk, t.est, t.prot, t.dsp, t.dio, t.aio, t.can, t.net, t.log, t.sec, t.upd, t.locks, t.regs, t.mem, t.cfg, t.resp, t.out, t.freeCtr, t.pending)) s (State.keepEpochs s) := by
  unfold State.keepEpochs
  (try dsimp only)
  repeat' first | (with_reducible refine Same.foldl _ _ (fun u x => ?_) ?_) | split
  all_goals simp [Same]

@[simp] theorem State.keepEpochs_frame (s : State) :
    (State.keepEpochs s).sys = s.sys ∧ (State.keepEpochs s).pwr = s.pwr ∧ (State.keepEpochs s).tb = s.tb ∧
    (State.keepEpochs s).rtc = s.rtc ∧ (State.keepEpochs s).hq = s.hq ∧ (State.keepEpochs s).evt = s.evt ∧
    (State.keepEpochs s).wb = s.wb ∧ (State.keepEpochs s).core = s.core ∧ (State.keepEpochs s).dbg = s.dbg ∧
    (State.keepEpochs s).prg = s.prg ∧ (State.keepEpochs s).loop = s.loop ∧ (State.keepEpochs s).slk = s.slk ∧
    (State.keepEpochs s).est = s.est ∧ (State.keepEpochs s).prot = s.prot ∧ (State.keepEpochs s).dsp = s.dsp ∧
    (State.keepEpochs s).dio = s.dio ∧ (State.keepEpochs s).aio = s.aio ∧ (State.keepEpochs s).can = s.can ∧
    (State.keepEpochs s).net = s.net ∧ (State.keepEpochs s).log = s.log ∧ (State.keepEpochs s).sec = s.sec ∧
    (State.keepEpochs s).upd = s.upd ∧ (State.keepEpochs s).locks = s.locks ∧ (State.keepEpochs s).regs = s.regs ∧
    (State.keepEpochs s).mem = s.mem ∧ (State.keepEpochs s).cfg = s.cfg ∧ (State.keepEpochs s).resp = s.resp ∧
    (State.keepEpochs s).out = s.out ∧ (State.keepEpochs s).freeCtr = s.freeCtr ∧ (State.keepEpochs s).pending = s.pending := by
  simpa [Same] using State.keepEpochs_same s

theorem State.request_same (s : State) :
    Same (fun t => (t.sys, t.pwr, t.tb, t.rtc, t.hq, t.evt, t.core, t.dbg, t.prg, t.loop, t.slk, t.est, t.prot, t.dsp, t.dio, t.aio, t.can, t.net, t.nvs, t.log, t.sec, t.upd, t.locks, t.regs, t.mem, t.cfg, t.resp, t.freeCtr, t.pending)) s (State.request s) := by
  unfold State.request
  (try dsimp only)
  (repeat' split) <;> simp [Same]

@[simp] theorem State.request_frame (s : State) :
    (State.request s).sys = s.sys ∧ (State.request s).pwr = s.pwr ∧ (State.request s).tb = s.tb ∧
    (State.request s).rtc = s.rtc ∧ (State.request s).hq = s.hq ∧ (State.request s).evt = s.evt ∧
    (State.request s).core = s.core ∧ (State.request s).dbg = s.dbg ∧ (State.request s).prg = s.prg ∧
    (State.request s).loop = s.loop ∧ (State.request s).slk = s.slk ∧ (State.request s).est = s.est ∧
    (State.request s).prot = s.prot ∧ (State.request s).dsp = s.dsp ∧ (State.request s).dio = s.dio ∧
    (State.request s).aio = s.aio ∧ (State.request s).can = s.can ∧ (State.request s).net = s.net ∧
    (State.request s).nvs = s.nvs ∧ (State.request s).log = s.log ∧ (State.request s).sec = s.sec ∧
    (State.request s).upd = s.upd ∧ (State.request s).locks = s.locks ∧ (State.request s).regs = s.regs ∧
    (State.request s).mem = s.mem ∧ (State.request s).cfg = s.cfg ∧ (State.request s).resp = s.resp ∧
    (State.request s).freeCtr = s.freeCtr ∧ (State.request s).pending = s.pending := by
  simpa [Same] using State.request_same s

theorem State.loseLease_same (s : State) :
    Same (fun t => (t.pwr, t.tb, t.rtc, t.hq, t.core, t.dbg, t.prg, t.loop, t.slk, t.est, t.prot, t.dsp, t.dio, t.aio, t.can, t.net, t.nvs, t.sec, t.upd, t.locks, t.regs, t.cfg, t.resp, t.freeCtr, t.pending)) s (State.loseLease s) := by
  unfold State.loseLease
  (try dsimp only)
  (repeat' split) <;> simp [Same]

@[simp] theorem State.loseLease_frame (s : State) :
    (State.loseLease s).pwr = s.pwr ∧ (State.loseLease s).tb = s.tb ∧ (State.loseLease s).rtc = s.rtc ∧
    (State.loseLease s).hq = s.hq ∧ (State.loseLease s).core = s.core ∧ (State.loseLease s).dbg = s.dbg ∧
    (State.loseLease s).prg = s.prg ∧ (State.loseLease s).loop = s.loop ∧ (State.loseLease s).slk = s.slk ∧
    (State.loseLease s).est = s.est ∧ (State.loseLease s).prot = s.prot ∧ (State.loseLease s).dsp = s.dsp ∧
    (State.loseLease s).dio = s.dio ∧ (State.loseLease s).aio = s.aio ∧ (State.loseLease s).can = s.can ∧
    (State.loseLease s).net = s.net ∧ (State.loseLease s).nvs = s.nvs ∧ (State.loseLease s).sec = s.sec ∧
    (State.loseLease s).upd = s.upd ∧ (State.loseLease s).locks = s.locks ∧ (State.loseLease s).regs = s.regs ∧
    (State.loseLease s).cfg = s.cfg ∧ (State.loseLease s).resp = s.resp ∧ (State.loseLease s).freeCtr = s.freeCtr ∧
    (State.loseLease s).pending = s.pending := by
  simpa [Same] using State.loseLease_same s

theorem State.refAnswered_same (s : State) :
    Same (fun t => (t.sys, t.pwr, t.tb, t.rtc, t.hq, t.core, t.dbg, t.prg, t.loop, t.slk, t.est, t.prot, t.dsp, t.dio, t.aio, t.can, t.net, t.nvs, t.log, t.sec, t.upd, t.locks, t.regs, t.mem, t.cfg, t.resp, t.freeCtr, t.pending)) s (State.refAnswered s) := by
  unfold State.refAnswered
  (try dsimp only)
  (repeat' split) <;> simp [Same]

@[simp] theorem State.refAnswered_frame (s : State) :
    (State.refAnswered s).sys = s.sys ∧ (State.refAnswered s).pwr = s.pwr ∧ (State.refAnswered s).tb = s.tb ∧
    (State.refAnswered s).rtc = s.rtc ∧ (State.refAnswered s).hq = s.hq ∧ (State.refAnswered s).core = s.core ∧
    (State.refAnswered s).dbg = s.dbg ∧ (State.refAnswered s).prg = s.prg ∧ (State.refAnswered s).loop = s.loop ∧
    (State.refAnswered s).slk = s.slk ∧ (State.refAnswered s).est = s.est ∧ (State.refAnswered s).prot = s.prot ∧
    (State.refAnswered s).dsp = s.dsp ∧ (State.refAnswered s).dio = s.dio ∧ (State.refAnswered s).aio = s.aio ∧
    (State.refAnswered s).can = s.can ∧ (State.refAnswered s).net = s.net ∧ (State.refAnswered s).nvs = s.nvs ∧
    (State.refAnswered s).log = s.log ∧ (State.refAnswered s).sec = s.sec ∧ (State.refAnswered s).upd = s.upd ∧
    (State.refAnswered s).locks = s.locks ∧ (State.refAnswered s).regs = s.regs ∧ (State.refAnswered s).mem = s.mem ∧
    (State.refAnswered s).cfg = s.cfg ∧ (State.refAnswered s).resp = s.resp ∧ (State.refAnswered s).freeCtr = s.freeCtr ∧
    (State.refAnswered s).pending = s.pending := by
  simpa [Same] using State.refAnswered_same s

theorem State.startPlant_same (s : State) :
    Same (fun t => (t.pwr, t.tb, t.rtc, t.hq, t.evt, t.wb, t.core, t.dbg, t.loop, t.slk, t.est, t.prot, t.dsp, t.dio, t.aio, t.can, t.net, t.nvs, t.sec, t.upd, t.locks, t.regs, t.cfg, t.resp, t.out, t.freeCtr, t.pending)) s (State.startPlant s) := by
  unfold State.startPlant
  (try dsimp only)
  (repeat' split) <;> simp [Same]

@[simp] theorem State.startPlant_frame (s : State) :
    (State.startPlant s).pwr = s.pwr ∧ (State.startPlant s).tb = s.tb ∧ (State.startPlant s).rtc = s.rtc ∧
    (State.startPlant s).hq = s.hq ∧ (State.startPlant s).evt = s.evt ∧ (State.startPlant s).wb = s.wb ∧
    (State.startPlant s).core = s.core ∧ (State.startPlant s).dbg = s.dbg ∧ (State.startPlant s).loop = s.loop ∧
    (State.startPlant s).slk = s.slk ∧ (State.startPlant s).est = s.est ∧ (State.startPlant s).prot = s.prot ∧
    (State.startPlant s).dsp = s.dsp ∧ (State.startPlant s).dio = s.dio ∧ (State.startPlant s).aio = s.aio ∧
    (State.startPlant s).can = s.can ∧ (State.startPlant s).net = s.net ∧ (State.startPlant s).nvs = s.nvs ∧
    (State.startPlant s).sec = s.sec ∧ (State.startPlant s).upd = s.upd ∧ (State.startPlant s).locks = s.locks ∧
    (State.startPlant s).regs = s.regs ∧ (State.startPlant s).cfg = s.cfg ∧ (State.startPlant s).resp = s.resp ∧
    (State.startPlant s).out = s.out ∧ (State.startPlant s).freeCtr = s.freeCtr ∧ (State.startPlant s).pending = s.pending := by
  simpa [Same] using State.startPlant_same s

theorem State.endHandover_same (s : State) :
    Same (fun t => (t.sys, t.pwr, t.tb, t.rtc, t.hq, t.core, t.dbg, t.prg, t.loop, t.slk, t.est, t.prot, t.dsp, t.dio, t.aio, t.can, t.net, t.nvs, t.log, t.sec, t.upd, t.locks, t.regs, t.mem, t.cfg, t.resp, t.freeCtr, t.pending)) s (State.endHandover s) := by
  unfold State.endHandover
  (try dsimp only)
  (repeat' split) <;> simp [Same]

@[simp] theorem State.endHandover_frame (s : State) :
    (State.endHandover s).sys = s.sys ∧ (State.endHandover s).pwr = s.pwr ∧ (State.endHandover s).tb = s.tb ∧
    (State.endHandover s).rtc = s.rtc ∧ (State.endHandover s).hq = s.hq ∧ (State.endHandover s).core = s.core ∧
    (State.endHandover s).dbg = s.dbg ∧ (State.endHandover s).prg = s.prg ∧ (State.endHandover s).loop = s.loop ∧
    (State.endHandover s).slk = s.slk ∧ (State.endHandover s).est = s.est ∧ (State.endHandover s).prot = s.prot ∧
    (State.endHandover s).dsp = s.dsp ∧ (State.endHandover s).dio = s.dio ∧ (State.endHandover s).aio = s.aio ∧
    (State.endHandover s).can = s.can ∧ (State.endHandover s).net = s.net ∧ (State.endHandover s).nvs = s.nvs ∧
    (State.endHandover s).log = s.log ∧ (State.endHandover s).sec = s.sec ∧ (State.endHandover s).upd = s.upd ∧
    (State.endHandover s).locks = s.locks ∧ (State.endHandover s).regs = s.regs ∧ (State.endHandover s).mem = s.mem ∧
    (State.endHandover s).cfg = s.cfg ∧ (State.endHandover s).resp = s.resp ∧ (State.endHandover s).freeCtr = s.freeCtr ∧
    (State.endHandover s).pending = s.pending := by
  simpa [Same] using State.endHandover_same s

theorem State.drillPass_same (s : State) :
    Same (fun t => (t.pwr, t.tb, t.rtc, t.hq, t.core, t.dbg, t.prg, t.loop, t.slk, t.est, t.prot, t.dsp, t.dio, t.aio, t.can, t.net, t.nvs, t.sec, t.upd, t.locks, t.regs, t.cfg, t.resp, t.freeCtr, t.pending)) s (State.drillPass s) := by
  unfold State.drillPass
  (try dsimp only)
  (repeat' split) <;> simp [Same]

@[simp] theorem State.drillPass_frame (s : State) :
    (State.drillPass s).pwr = s.pwr ∧ (State.drillPass s).tb = s.tb ∧ (State.drillPass s).rtc = s.rtc ∧
    (State.drillPass s).hq = s.hq ∧ (State.drillPass s).core = s.core ∧ (State.drillPass s).dbg = s.dbg ∧
    (State.drillPass s).prg = s.prg ∧ (State.drillPass s).loop = s.loop ∧ (State.drillPass s).slk = s.slk ∧
    (State.drillPass s).est = s.est ∧ (State.drillPass s).prot = s.prot ∧ (State.drillPass s).dsp = s.dsp ∧
    (State.drillPass s).dio = s.dio ∧ (State.drillPass s).aio = s.aio ∧ (State.drillPass s).can = s.can ∧
    (State.drillPass s).net = s.net ∧ (State.drillPass s).nvs = s.nvs ∧ (State.drillPass s).sec = s.sec ∧
    (State.drillPass s).upd = s.upd ∧ (State.drillPass s).locks = s.locks ∧ (State.drillPass s).regs = s.regs ∧
    (State.drillPass s).cfg = s.cfg ∧ (State.drillPass s).resp = s.resp ∧ (State.drillPass s).freeCtr = s.freeCtr ∧
    (State.drillPass s).pending = s.pending := by
  simpa [Same] using State.drillPass_same s

theorem State.drillHandedOver_same (s : State) :
    Same (fun t => (t.pwr, t.tb, t.rtc, t.hq, t.core, t.dbg, t.prg, t.loop, t.slk, t.est, t.prot, t.dsp, t.dio, t.aio, t.can, t.net, t.nvs, t.sec, t.upd, t.locks, t.regs, t.cfg, t.resp, t.freeCtr, t.pending)) s (State.drillHandedOver s) := by
  unfold State.drillHandedOver
  (try dsimp only)
  (repeat' split) <;> simp [Same]

@[simp] theorem State.drillHandedOver_frame (s : State) :
    (State.drillHandedOver s).pwr = s.pwr ∧ (State.drillHandedOver s).tb = s.tb ∧ (State.drillHandedOver s).rtc = s.rtc ∧
    (State.drillHandedOver s).hq = s.hq ∧ (State.drillHandedOver s).core = s.core ∧ (State.drillHandedOver s).dbg = s.dbg ∧
    (State.drillHandedOver s).prg = s.prg ∧ (State.drillHandedOver s).loop = s.loop ∧ (State.drillHandedOver s).slk = s.slk ∧
    (State.drillHandedOver s).est = s.est ∧ (State.drillHandedOver s).prot = s.prot ∧ (State.drillHandedOver s).dsp = s.dsp ∧
    (State.drillHandedOver s).dio = s.dio ∧ (State.drillHandedOver s).aio = s.aio ∧ (State.drillHandedOver s).can = s.can ∧
    (State.drillHandedOver s).net = s.net ∧ (State.drillHandedOver s).nvs = s.nvs ∧ (State.drillHandedOver s).sec = s.sec ∧
    (State.drillHandedOver s).upd = s.upd ∧ (State.drillHandedOver s).locks = s.locks ∧
    (State.drillHandedOver s).regs = s.regs ∧ (State.drillHandedOver s).cfg = s.cfg ∧ (State.drillHandedOver s).resp = s.resp ∧
    (State.drillHandedOver s).freeCtr = s.freeCtr ∧ (State.drillHandedOver s).pending = s.pending := by
  simpa [Same] using State.drillHandedOver_same s

theorem State.dropDrill_same (s : State) :
    Same (fun t => (t.sys, t.pwr, t.tb, t.rtc, t.hq, t.evt, t.core, t.dbg, t.prg, t.loop, t.slk, t.est, t.prot, t.dsp, t.dio, t.aio, t.can, t.net, t.nvs, t.log, t.sec, t.upd, t.locks, t.regs, t.mem, t.cfg, t.resp, t.out, t.freeCtr, t.pending)) s (State.dropDrill s) := by
  unfold State.dropDrill
  (try dsimp only)
  (repeat' split) <;> simp [Same]

@[simp] theorem State.dropDrill_frame (s : State) :
    (State.dropDrill s).sys = s.sys ∧ (State.dropDrill s).pwr = s.pwr ∧ (State.dropDrill s).tb = s.tb ∧
    (State.dropDrill s).rtc = s.rtc ∧ (State.dropDrill s).hq = s.hq ∧ (State.dropDrill s).evt = s.evt ∧
    (State.dropDrill s).core = s.core ∧ (State.dropDrill s).dbg = s.dbg ∧ (State.dropDrill s).prg = s.prg ∧
    (State.dropDrill s).loop = s.loop ∧ (State.dropDrill s).slk = s.slk ∧ (State.dropDrill s).est = s.est ∧
    (State.dropDrill s).prot = s.prot ∧ (State.dropDrill s).dsp = s.dsp ∧ (State.dropDrill s).dio = s.dio ∧
    (State.dropDrill s).aio = s.aio ∧ (State.dropDrill s).can = s.can ∧ (State.dropDrill s).net = s.net ∧
    (State.dropDrill s).nvs = s.nvs ∧ (State.dropDrill s).log = s.log ∧ (State.dropDrill s).sec = s.sec ∧
    (State.dropDrill s).upd = s.upd ∧ (State.dropDrill s).locks = s.locks ∧ (State.dropDrill s).regs = s.regs ∧
    (State.dropDrill s).mem = s.mem ∧ (State.dropDrill s).cfg = s.cfg ∧ (State.dropDrill s).resp = s.resp ∧
    (State.dropDrill s).out = s.out ∧ (State.dropDrill s).freeCtr = s.freeCtr ∧ (State.dropDrill s).pending = s.pending := by
  simpa [Same] using State.dropDrill_same s

theorem State.setHeld_same (s : State) (gen : Nat) :
    Same (fun t => (t.sys, t.pwr, t.tb, t.rtc, t.hq, t.core, t.dbg, t.prg, t.loop, t.slk, t.est, t.prot, t.dsp, t.dio, t.aio, t.can, t.net, t.nvs, t.log, t.sec, t.upd, t.locks, t.regs, t.mem, t.cfg, t.resp, t.freeCtr, t.pending)) s (State.setHeld s gen) := by
  unfold State.setHeld
  (try dsimp only)
  (repeat' split) <;> simp [Same]

@[simp] theorem State.setHeld_frame (s : State) (gen : Nat) :
    (State.setHeld s gen).sys = s.sys ∧ (State.setHeld s gen).pwr = s.pwr ∧ (State.setHeld s gen).tb = s.tb ∧
    (State.setHeld s gen).rtc = s.rtc ∧ (State.setHeld s gen).hq = s.hq ∧ (State.setHeld s gen).core = s.core ∧
    (State.setHeld s gen).dbg = s.dbg ∧ (State.setHeld s gen).prg = s.prg ∧ (State.setHeld s gen).loop = s.loop ∧
    (State.setHeld s gen).slk = s.slk ∧ (State.setHeld s gen).est = s.est ∧ (State.setHeld s gen).prot = s.prot ∧
    (State.setHeld s gen).dsp = s.dsp ∧ (State.setHeld s gen).dio = s.dio ∧ (State.setHeld s gen).aio = s.aio ∧
    (State.setHeld s gen).can = s.can ∧ (State.setHeld s gen).net = s.net ∧ (State.setHeld s gen).nvs = s.nvs ∧
    (State.setHeld s gen).log = s.log ∧ (State.setHeld s gen).sec = s.sec ∧ (State.setHeld s gen).upd = s.upd ∧
    (State.setHeld s gen).locks = s.locks ∧ (State.setHeld s gen).regs = s.regs ∧ (State.setHeld s gen).mem = s.mem ∧
    (State.setHeld s gen).cfg = s.cfg ∧ (State.setHeld s gen).resp = s.resp ∧ (State.setHeld s gen).freeCtr = s.freeCtr ∧
    (State.setHeld s gen).pending = s.pending := by
  simpa [Same] using State.setHeld_same s gen

theorem State.newGen_same (s : State) (gen : Nat) :
    Same (fun t => (t.pwr, t.tb, t.rtc, t.hq, t.evt, t.core, t.dbg, t.prg, t.loop, t.slk, t.est, t.prot, t.dsp, t.dio, t.aio, t.can, t.net, t.nvs, t.sec, t.upd, t.locks, t.regs, t.cfg, t.resp, t.freeCtr, t.pending)) s (State.newGen s gen) := by
  unfold State.newGen
  (try dsimp only)
  (repeat' split) <;> simp [Same]

@[simp] theorem State.newGen_frame (s : State) (gen : Nat) :
    (State.newGen s gen).pwr = s.pwr ∧ (State.newGen s gen).tb = s.tb ∧ (State.newGen s gen).rtc = s.rtc ∧
    (State.newGen s gen).hq = s.hq ∧ (State.newGen s gen).evt = s.evt ∧ (State.newGen s gen).core = s.core ∧
    (State.newGen s gen).dbg = s.dbg ∧ (State.newGen s gen).prg = s.prg ∧ (State.newGen s gen).loop = s.loop ∧
    (State.newGen s gen).slk = s.slk ∧ (State.newGen s gen).est = s.est ∧ (State.newGen s gen).prot = s.prot ∧
    (State.newGen s gen).dsp = s.dsp ∧ (State.newGen s gen).dio = s.dio ∧ (State.newGen s gen).aio = s.aio ∧
    (State.newGen s gen).can = s.can ∧ (State.newGen s gen).net = s.net ∧ (State.newGen s gen).nvs = s.nvs ∧
    (State.newGen s gen).sec = s.sec ∧ (State.newGen s gen).upd = s.upd ∧ (State.newGen s gen).locks = s.locks ∧
    (State.newGen s gen).regs = s.regs ∧ (State.newGen s gen).cfg = s.cfg ∧ (State.newGen s gen).resp = s.resp ∧
    (State.newGen s gen).freeCtr = s.freeCtr ∧ (State.newGen s gen).pending = s.pending := by
  simpa [Same] using State.newGen_same s gen

theorem State.noteHolder_same (s : State) (holder gen : Nat) :
    Same (fun t => (t.sys, t.pwr, t.tb, t.rtc, t.hq, t.evt, t.core, t.dbg, t.prg, t.loop, t.slk, t.est, t.prot, t.dsp, t.dio, t.aio, t.can, t.net, t.nvs, t.log, t.sec, t.upd, t.locks, t.regs, t.mem, t.cfg, t.resp, t.out, t.freeCtr, t.pending)) s (State.noteHolder s holder gen) := by
  unfold State.noteHolder
  (try dsimp only)
  (repeat' split) <;> simp [Same]

@[simp] theorem State.noteHolder_frame (s : State) (holder gen : Nat) :
    (State.noteHolder s holder gen).sys = s.sys ∧ (State.noteHolder s holder gen).pwr = s.pwr ∧
    (State.noteHolder s holder gen).tb = s.tb ∧ (State.noteHolder s holder gen).rtc = s.rtc ∧
    (State.noteHolder s holder gen).hq = s.hq ∧ (State.noteHolder s holder gen).evt = s.evt ∧
    (State.noteHolder s holder gen).core = s.core ∧ (State.noteHolder s holder gen).dbg = s.dbg ∧
    (State.noteHolder s holder gen).prg = s.prg ∧ (State.noteHolder s holder gen).loop = s.loop ∧
    (State.noteHolder s holder gen).slk = s.slk ∧ (State.noteHolder s holder gen).est = s.est ∧
    (State.noteHolder s holder gen).prot = s.prot ∧ (State.noteHolder s holder gen).dsp = s.dsp ∧
    (State.noteHolder s holder gen).dio = s.dio ∧ (State.noteHolder s holder gen).aio = s.aio ∧
    (State.noteHolder s holder gen).can = s.can ∧ (State.noteHolder s holder gen).net = s.net ∧
    (State.noteHolder s holder gen).nvs = s.nvs ∧ (State.noteHolder s holder gen).log = s.log ∧
    (State.noteHolder s holder gen).sec = s.sec ∧ (State.noteHolder s holder gen).upd = s.upd ∧
    (State.noteHolder s holder gen).locks = s.locks ∧ (State.noteHolder s holder gen).regs = s.regs ∧
    (State.noteHolder s holder gen).mem = s.mem ∧ (State.noteHolder s holder gen).cfg = s.cfg ∧
    (State.noteHolder s holder gen).resp = s.resp ∧ (State.noteHolder s holder gen).out = s.out ∧
    (State.noteHolder s holder gen).freeCtr = s.freeCtr ∧ (State.noteHolder s holder gen).pending = s.pending := by
  simpa [Same] using State.noteHolder_same s holder gen

end Sys2Proof.Machine
end

