-- ==== Sys2Proof/Laws/Pair.lean ====
section
/-! SUPPORT. What the operations of the pair do, said once: sending, the lease, the mode changes of a hand-over. -/

namespace Sys2Proof.Machine

theorem sendWb_up {s : State} (h : s.wbUp = true) (m : WbMsg) : s.sendWb m = { s with out := s.out ++ [.wb ⟨nextMsgSeq s.out m.type, s.sendGen⟩ m] } := by
  unfold State.sendWb; rw [if_pos h]; rfl

theorem sendWb_facts (u : State) (m : WbMsg) : (u.sendWb m).wb = u.wb ∧ (u.sendWb m).sys = u.sys ∧ (u.sendWb m).pwr = u.pwr ∧
    (u.sendWb m).prg = u.prg ∧ (u.sendWb m).evt = u.evt := by
  unfold State.sendWb; split <;> exact ⟨rfl, rfl, rfl, rfl, rfl⟩

theorem raise_pending (s : State) {k : Nat} (hk : k < 128) (j : Nat) (h : s.isPending j = true) : (s.raise k).isPending j = true := by
  rw [State.raise_isPending s hk, h]; rfl

theorem raise_pends (s : State) {k : Nat} (hk : k < 128) : (s.raise k).isPending k = true := by
  rw [State.raise_isPending s hk]; simp

theorem setMode_pending (s : State) (m : Mode) (c j : Nat) : (s.setMode m c).isPending j = s.isPending j := by
  simp only [State.isPending, State.setMode_frame]

theorem request_probed {s : State} (h0 : s.mayRequest = true) (h1 : s.wb.probed = true) (h2 : s.promised = false) (h3 : s.wb.lease = .none) :
    s.request = { s.sendRef .request with wb := { (s.sendRef .request).wb with lease := .request } } := by
  unfold State.request
  rw [if_neg (by simp [h0, h1, h2])]
  rw [if_pos (show (s.sendRef .request).wb.lease = .none from h3)]

/-- A mode change that drops no fence leaves all of the pair's state but the fence. -/
theorem setMode_keeps (s : State) (m : Mode) (h1 : m ≠ .quarantine) (h2 : m ≠ .service) (c : Nat) :
    (s.setMode m c).wb = { s.wb with fenced := (s.setMode m c).wb.fenced } := by
  unfold State.setMode
  split
  · rfl
  · dsimp only
    unfold State.refence
    simp only [State.record_frame]
    rw [if_neg (by simp [h1, h2])]
    simp only [State.ringMode_frame, State.fieldMode_frame, State.closeLocks_frame]

theorem enterQuarantine_facts {s : State} (h : s.sys.mode ≠ .quarantine) (n : RecName) (a : List Nat) :
    (s.enterQuarantine n a).sys.mode = .quarantine ∧ (s.enterQuarantine n a).wb.lease = .none ∧ (s.enterQuarantine n a).wb.fenced = true ∧
    (s.enterQuarantine n a).wb.gen = s.wb.gen := by
  unfold State.enterQuarantine
  have e := State.endLease_facts (s.record n a)
  have w := State.setMode_wb (s.record n a).endLease .quarantine (recCodeOf n)
  refine ⟨State.setMode_mode _ _ _, w.1.trans e.1, State.setMode_fenced ?_ _ (by simp), w.2.1.trans (e.2.1.trans ?_)⟩
  · rw [e.2.2, State.record_sys]; exact h
  · simp only [State.record_frame]

theorem askTakeover_facts {u : State} (h1 : u.sys.mode = .standby) (h2 : u.wb.probed = true) (h3 : u.promised = false) (h4 : u.wb.lease = .none)
    (h5 : u.wb.refReach = true) : u.askTakeover.sys.mode = .handover ∧ u.askTakeover.wb.lease = .request ∧ u.askTakeover.wb.missedHb = u.wb.missedHb ∧
    (∃ m : RefMsg, m.type = .request ∧ u.askTakeover.wb.outstanding = some m) ∧ u.askTakeover.isPending 66 = true ∧
    (∀ k, u.isPending k = true → u.askTakeover.isPending k = true) := by
  have h0 : u.mayRequest = true := by unfold State.mayRequest; rw [h1]
  have e : u.askTakeover = ((u.request).setMode .handover).raise 66 := by
    unfold State.askTakeover
    dsimp only
    rw [request_probed h0 h2 h3 h4, if_neg (by simp)]
    rw [if_pos]
    exact ⟨h1, h5⟩
  rw [e, request_probed h0 h2 h3 h4]
  generalize ha : ({ u.sendRef .request with wb := { (u.sendRef .request).wb with lease := .request } } : State) = a
  have aw : a.wb.lease = .request ∧ a.wb.missedHb = u.wb.missedHb ∧ (∃ m : RefMsg, m.type = .request ∧ a.wb.outstanding = some m) ∧ a.evt = u.evt := by
    rw [← ha]
    exact ⟨rfl, rfl, ⟨_, rfl, rfl⟩, rfl⟩
  have k := setMode_keeps a .handover (by decide) (by decide) 0
  refine ⟨?_, ?_, ?_, ?_, raise_pends _ (by decide), ?_⟩
  · simp only [State.raise_frame]; exact State.setMode_mode _ _ _
  · simp only [State.raise_frame]; rw [k]; exact aw.1
  · simp only [State.raise_frame]; rw [k]; exact aw.2.1
  · simp only [State.raise_frame]; rw [k]; exact aw.2.2.1
  · intro j hj
    refine raise_pending _ (by decide) _ ?_
    rw [setMode_pending]
    unfold State.isPending; rw [aw.2.2.2]; exact hj

/-- What a valid HEARTBEAT sets before the module acts on it. -/
def State.heardBy (s : State) (hb : HbBody) : State :=
  let took := hb.lease == .held || hb.lease == .consent
  { s with wb := { s.wb with gen := hb.gen, missedHb := 0, partner := { s.wb.partner with heard := true, heardAt := s.tb.csr, hb := hb },
                             holderB := if took && !s.holds then !s.pwr.slotB else s.wb.holderB,
                             holderValid := (took && !s.holds) || s.wb.holderValid } }

theorem heartbeatRx_eq {s : State} {hb : HbBody} (h1 : s.lanesOn = true) (h2 : s.wb.gen ≤ hb.gen) :
    exec (.heartbeatRx true hb) s = .next ((if s.wb.partner.heard = false ∨ s.wb.partner.hb.mode ≠ hb.mode then (s.heardBy hb).raise 65
      else s.heardBy hb).heardPartner hb) := by
  have e : exec (.heartbeatRx true hb) s = execHeartbeatRx true hb s := rfl
  unfold execHeartbeatRx at e
  rw [if_neg (by simp [h1, Nat.not_lt.2 h2])] at e
  have hg : s.seeGen hb.gen = { s with wb := { s.wb with gen := hb.gen } } := by
    unfold State.seeGen; rw [Nat.max_eq_right h2]
  rw [hg] at e
  dsimp only at e
  rw [e]
  have hx : ∀ u : State, u.wb.lease = s.wb.lease → u.holds = s.holds := by intro u hu; unfold State.holds; rw [hu]
  refine congrArg Host.Outcome.next (congrArg (fun u : State => u.heardPartner hb) ?_)
  have h6 := hx { s with wb := { s.wb with gen := hb.gen, missedHb := 0, partner := { s.wb.partner with heard := true, heardAt := s.tb.csr, hb := hb } } } rfl
  dsimp only at h6
  rw [h6]
  unfold State.heardBy
  dsimp only
  generalize (hb.lease == .held || hb.lease == .consent) = b
  generalize s.holds = c
  by_cases a : s.wb.partner.heard = false
  · cases b <;> cases c <;> simp [a]
  · by_cases d : s.wb.partner.hb.mode = hb.mode
    · cases b <;> cases c <;> simp [a, d]
    · cases b <;> cases c <;> simp [a, d]

theorem enterSync_facts {s : State} (h : s.sys.mode ≠ .sync) (c : Nat) :
    (s.enterSync c).sys.mode = .sync ∧ (s.enterSync c).wb.resyncStep = 1 ∧ (s.enterSync c).wb.lease = .none ∧ (s.enterSync c).wb.fenced = true ∧
    (s.enterSync c).wb.dual = false ∧ (∀ k, (s.enterSync c).isPending k = s.isPending k) := by
  unfold State.enterSync
  dsimp only
  generalize hv : ({ s with wb := { s.wb with resyncStep := 1, resyncProg := 0, mismatches := [], rxSeq := [], early := [], lease := .none, ho := .idle, dual := false } } : State) = v
  have f : v.sys = s.sys ∧ v.wb.resyncStep = 1 ∧ v.wb.lease = .none ∧ v.wb.dual = false ∧ v.evt = s.evt := by
    rw [← hv]; exact ⟨rfl, rfl, rfl, rfl, rfl⟩
  have k := setMode_keeps v .sync (by decide) (by decide) c
  refine ⟨State.setMode_mode _ _ _, ?_, ?_, State.setMode_fenced (by rw [f.1]; exact h) _ (by simp), ?_, fun j => ?_⟩
  · rw [k]; exact f.2.1
  · rw [k]; exact f.2.2.1
  · rw [k]; exact f.2.2.2.1
  · rw [setMode_pending]; unfold State.isPending; rw [f.2.2.2.2]

theorem shadowMismatch_eq {s : State} {st c : Nat} (h4 : st < 65536) (h5 : s.sys.mode ≠ .standby) :
    s.shadowMismatch st c = { (s.record .shadowMismatch [st, c]).raise 68 with
      wb := { s.wb with shadowCount := (s.wb.shadowCount + 1) % 65536, shadowLast := st, mismatches := if s.wb.mismatches.contains c then s.wb.mismatches else s.wb.mismatches ++ [c], resyncProg := 0 },
      upd := { s.upd with healthFrom := s.tb.csr } } := by
  have hs := ((Says.refl s).record .shadowMismatch [st, c]).raise 68 (by decide)
  unfold State.shadowMismatch
  generalize (s.record .shadowMismatch [st, c]).raise 68 = u at hs
  dsimp only
  rw [hs.toReports.mode, Nat.mod_eq_of_lt h4, hs.toReports.wb, hs.toReports.upd, hs.toReports.tb]
  cases hm : s.sys.mode <;> first | rfl | exact absurd hm h5

theorem writeEntry_step {s : State} {e : JEntry} {ring id k : Nat} (hb : e.body = .step ring id k) (hg : e.gen = s.wb.gen)
    (he : s.wb.early = []) (ho : ∀ x ∈ s.wb.journal, x.jsn ≠ e.jsn) : s.writeEntry e = if e.jsn = s.wb.jsn + 1 then
      { s with wb := { s.wb with journal := s.wb.journal ++ [e], jsn := e.jsn, journalBytes := s.wb.journalBytes + 40,
                                 unwritten := s.wb.unwritten + 40, flushMarker := false } }
      else if s.wb.jsn < e.jsn then { s with wb := { s.wb with early := [e] } } else s := by
  unfold State.writeEntry
  rw [if_neg (by omega)]
  have hf : s.wb.journal.find? (fun x => x.jsn == e.jsn) = none := by
    rw [List.find?_eq_none]; intro x hx; simp [ho x hx]
  rw [hf]
  dsimp only
  split
  · have hl : s.wb.early.length = 0 := by rw [he]; rfl
    have h0 : ∀ u : State, u.putEarly 0 = u := fun _ => rfl
    rw [hl, h0]
    unfold State.putEntry State.applyEntry State.seeGen
    rw [hb, hg]
    have hm : ∀ g : Nat, max g g = g := Nat.max_self
    simp only [jLength, hm]
  · split
    · have hn : newest 4096 ((s.wb.early.filter fun x => decide (x.jsn ≠ e.jsn)) ++ [e]) = [e] := by
        rw [he]; unfold newest; simp
      rw [hn]
    · rfl

theorem complete_work (s : State) (m : Nat) (d : List Byte) (tag st res fl : Nat) : (s.writeCompletion m d tag st res fl).hq.work = s.hq.work := by
  unfold State.writeCompletion
  split
  · rfl
  · unfold State.putCompletion State.contentMade
    dsimp only
    split
    · unfold State.queueEvent; rw [raise_hq]; rfl
    · rfl

theorem acceptOp_cqFree {s : State} (o : Op) (b : Bool) {r : Nat} (hr : s.cqFree r = 0) (ho : s.cqFree o.ring ≠ 0) :
    (s.acceptOp o b).cqFree r = 0 := by
  have hne : r ≠ o.ring := by intro h; subst h; exact ho hr
  have : (s.acceptOp o b).queue r = s.queue r := by
    unfold State.acceptOp State.rememberSubmit
    dsimp only
    show ((s.writeCompletion o.ring o.bytes o.tag stAccepted 0 (cflags false b o.long)).setQueue o.ring _).queue r = _
    rw [setQueue_other hne]
    unfold State.writeCompletion
    rw [if_neg ho]
    unfold State.putCompletion State.contentMade
    dsimp only
    split
    · unfold State.queueEvent
      rw [raise_queue, setQueue_other hne, setQueue_other hne, setQueue_other hne]; rfl
    · rw [setQueue_other hne, setQueue_other hne]; rfl
  unfold State.cqFree at hr ⊢
  rw [this]; exact hr

theorem acceptAll_cqFree (l : List Op) (s : State) {r : Nat} (hr : s.cqFree r = 0) : (s.acceptAll l).cqFree r = 0 := by
  induction l generalizing s with
  | nil => exact hr
  | cons p l ih =>
    unfold State.acceptAll
    split
    · split
      · rename_i hc; exact ih _ (acceptOp_cqFree p _ hr hc.2)
      · exact ih _ hr
    · exact ih _ hr

/-- What an accepted operation goes on as. -/
def State.asWork (s : State) (o : Op) : Op := { o with late := o.late || s.timePassed o.bytes }

/-- Accepting one operation takes it out of the waiting ones and leaves what is committed and what passed as it is. -/
theorem acceptOp_facts (s : State) (p : Op) (b : Bool) :
    (s.acceptOp p b).hq.ops = s.hq.ops.filter (fun x => decide (x.tag ≠ p.tag)) ∧ (s.acceptOp p b).hq.work = s.hq.work ++ [s.asWork p] ∧
    (∀ k, (s.acceptOp p b).committed k = s.committed k) ∧ ∀ o, (s.acceptOp p b).asWork o = s.asWork o := by
  have hf : (s.acceptOp p b).tb = s.tb ∧ (s.acceptOp p b).wb = s.wb := by
    unfold State.acceptOp State.rememberSubmit State.setQueue
    simp only [State.writeCompletion_frame, and_self]
  have h := complete_keeps s p.ring p.bytes p.tag stAccepted 0 (cflags false b p.long) 0
  refine ⟨?_, ?_, fun k => ?_, fun o => ?_⟩
  · unfold State.acceptOp; dsimp only
    show (State.hq (State.rememberSubmit _ _ _ _)).ops.filter _ = _
    rw [← h.2]; rfl
  · have e := complete_work s p.ring p.bytes p.tag stAccepted 0 (cflags false b p.long)
    have ht : ((s.writeCompletion p.ring p.bytes p.tag stAccepted 0 (cflags false b p.long)).rememberSubmit p.ring (dSubmit p.bytes) p.bytes).tb = s.tb := hf.1
    unfold State.acceptOp State.asWork State.timePassed State.clockOf
    dsimp only
    rw [ht]
    exact congrArg (· ++ _) e
  · unfold State.committed; rw [hf.2]
  · unfold State.asWork State.timePassed State.clockOf; rw [hf.1]

/-- The ACCEPTED completions that commitment allows and that have a slot are written, and what they accept goes on as accepted work. -/
theorem acceptAll_done (l : List Op) (s : State) :
    (∀ o ∈ (s.acceptAll l).hq.ops, o ∈ s.hq.ops ∧
      (o ∈ l → ∀ k, o.jsn = some k → s.committed k = false ∨ (s.acceptAll l).cqFree o.ring = 0)) ∧
    (∀ o ∈ s.hq.work, o ∈ (s.acceptAll l).hq.work) ∧
    (∀ o ∈ l, ∀ k, o.jsn = some k → s.committed k = true → s.asWork o ∈ (s.acceptAll l).hq.work ∨ (s.acceptAll l).cqFree o.ring = 0) := by
  induction l generalizing s with
  | nil => exact ⟨fun o h => ⟨h, fun x => absurd x (by simp)⟩, fun _ h => h, fun o h => absurd h (by simp)⟩
  | cons p l ih =>
    unfold State.acceptAll
    split
    · rename_i j hj
      split
      · rename_i hc
        obtain ⟨hops, hwk, hcm, hw⟩ := acceptOp_facts s p (!s.wb.dual)
        obtain ⟨i1, i2, i3⟩ := ih (s.acceptOp p (!s.wb.dual))
        refine ⟨fun o ho => ?_, fun o ho => i2 o (by rw [hwk]; simp [ho]), fun o ho k hk hck => ?_⟩
        · have a := i1 o ho
          rw [hops, List.mem_filter] at a
          refine ⟨a.1.1, fun hm k hk => ?_⟩
          rcases List.mem_cons.1 hm with e | e
          · subst e; exact absurd a.1.2 (by simp)
          · rw [← hcm]; exact a.2 e k hk
        · rcases List.mem_cons.1 ho with e | e
          · subst e; exact .inl (i2 _ (by rw [hwk]; simp))
          · rw [← hw]; exact i3 o e k hk (by rw [hcm]; exact hck)
      · rename_i hc
        obtain ⟨i1, i2, i3⟩ := ih s
        have hz : s.committed j = true → (s.acceptAll l).cqFree p.ring = 0 := by
          intro h; exact acceptAll_cqFree l s (Classical.byContradiction fun hx => hc ⟨h, hx⟩)
        refine ⟨fun o ho => ⟨(i1 o ho).1, fun hm k hk => ?_⟩, i2, fun o ho k hk hck => ?_⟩
        · rcases List.mem_cons.1 hm with e | e
          · subst e; rw [hj] at hk; cases hk
            cases hx : s.committed j with
            | false => exact .inl rfl
            | true => exact .inr (hz hx)
          · exact (i1 o ho).2 e k hk
        · rcases List.mem_cons.1 ho with e | e
          · subst e; rw [hj] at hk; cases hk; exact .inr (hz hck)
          · exact i3 o e k hk hck
    · rename_i hj
      obtain ⟨i1, i2, i3⟩ := ih s
      refine ⟨fun o ho => ⟨(i1 o ho).1, fun hm k hk => ?_⟩, i2, fun o ho k hk hck => ?_⟩
      · rcases List.mem_cons.1 hm with e | e
        · subst e; rw [hj] at hk; cases hk
        · exact (i1 o ho).2 e k hk
      · rcases List.mem_cons.1 ho with e | e
        · subst e; rw [hj] at hk; cases hk
        · exact i3 o e k hk hck

/-- A waiting operation goes on waiting unless one of its tag is committed and accepted. -/
theorem acceptAll_stays (l : List Op) (s : State) : ∀ o ∈ s.hq.ops, o ∈ (s.acceptAll l).hq.ops ∨
    ∃ p ∈ l, p.tag = o.tag ∧ ∃ k, p.jsn = some k ∧ s.committed k = true ∧ s.asWork p ∈ (s.acceptAll l).hq.work := by
  induction l generalizing s with
  | nil => exact fun o h => .inl h
  | cons p l ih =>
    have up : ∀ (x : Op) (u : State), (∃ q ∈ l, q.tag = x.tag ∧ ∃ k, q.jsn = some k ∧ s.committed k = true ∧ s.asWork q ∈ u.hq.work) →
        ∃ q ∈ p :: l, q.tag = x.tag ∧ ∃ k, q.jsn = some k ∧ s.committed k = true ∧ s.asWork q ∈ u.hq.work :=
      fun _ _ ⟨q, hq, r⟩ => ⟨q, List.mem_cons_of_mem _ hq, r⟩
    unfold State.acceptAll
    split
    · rename_i j hj
      split
      · rename_i hc
        obtain ⟨hops, hwk, hcm, hw⟩ := acceptOp_facts s p (!s.wb.dual)
        intro o ho
        by_cases e : o.tag = p.tag
        · exact .inr ⟨p, by simp, e.symm, j, hj, hc.1, (acceptAll_done l _).2.1 _ (by rw [hwk]; simp)⟩
        · have a := ih (s.acceptOp p (!s.wb.dual)) o (by rw [hops]; simp [ho, e])
          simp only [hcm, hw] at a
          exact a.imp id (up o _)
      · exact fun o ho => (ih s o ho).imp id (up o _)
    · exact fun o ho => (ih s o ho).imp id (up o _)

theorem freeJournal_jsn (s : State) : s.freeJournal.wb.jsn = s.wb.jsn := by
  unfold State.freeJournal State.checkJournalFree
  dsimp only
  split
  · simp only [State.record_frame]
  · rfl

theorem beforeCheckpoint_lt {l : List JEntry} (h : l ≠ []) : beforeCheckpoint l < l.length := by
  unfold beforeCheckpoint
  have := List.length_pos_iff.2 h
  dsimp only
  split <;> omega

theorem freeJournal_last {s : State} {e : JEntry} (h : s.wb.journal.getLast? = some e) : s.freeJournal.wb.journal.getLast? = some e := by
  unfold State.freeJournal State.checkJournalFree
  dsimp only
  have key : (List.drop (List.takeWhile s.entryDone (List.take (beforeCheckpoint s.wb.journal) s.wb.journal)).length s.wb.journal).getLast? = some e := by
    have hn : s.wb.journal ≠ [] := by intro x; rw [x] at h; simp at h
    have h1 := beforeCheckpoint_lt hn
    have h2 := (List.takeWhile_sublist s.entryDone (l := List.take (beforeCheckpoint s.wb.journal) s.wb.journal)).length_le
    rw [List.length_take] at h2
    rw [List.getLast?_drop, if_neg (by omega), h]
  split
  · simp only [State.record_frame]; exact key
  · exact key

theorem sendAllOrdered_eq (st : Stream) (b : Bool) (l : List (Nat × Nat × List Byte)) (s : State) : s.sendAllOrdered st b l = { s with
    out := s.out ++ l.map fun g => .net (s.streamNet st.id) 6 (.stream 1 st.id st.epoch g.1 b false g.2.2) } := by
  induction l generalizing s with
  | nil => simp [State.sendAllOrdered]
  | cons x l ih =>
    have : s.sendAllOrdered st b (x :: l) = (s.sendOrdered st b false x).sendAllOrdered st b l := rfl
    rw [this, ih]
    have hn : (s.sendOrdered st b false x).streamNet st.id = s.streamNet st.id := rfl
    rw [hn]
    simp [State.sendOrdered, State.emit]

theorem setStream_streamOf {s : State} {id : Nat} {st : Stream} (h : s.streamOf id = some st) (f : Stream → Stream) (hf : ∀ x, x.id = id → (f x).id = id) :
    (s.setStream id f).streamOf id = some (f st) := by
  unfold State.streamOf State.setStream at *
  dsimp only
  have hid : st.id = id := by simpa using List.find?_some h
  generalize s.wb.streams = l at *
  induction l with
  | nil => simp at h
  | cons x l ih =>
    rw [List.map_cons]
    by_cases hx : x.id = id
    · rw [List.find?_cons_of_pos (by simp [hx])] at h
      cases h
      rw [List.find?_cons_of_pos (by simp [hx, hf])]
      simp [hx]
    · rw [List.find?_cons_of_neg (by simp [hx])] at h
      rw [List.find?_cons_of_neg (by simp [hx])]
      exact ih h

theorem journalAdd_wb (s : State) (b : JBody) : (s.journalAdd b).wb = { s.wb with
    jsn := s.wb.jsn + 1, journal := s.wb.journal ++ [⟨s.wb.jsn + 1, s.sendGen, b⟩], journalBytes := s.wb.journalBytes + jLength b,
    unwritten := s.wb.unwritten + jLength b, flushMarker := false, journalFull := (s.journalAdd b).wb.journalFull } := by
  have hk : ∀ u : State, u.checkJournalFull.wb = { u.wb with journalFull := u.checkJournalFull.wb.journalFull } := by
    intro u
    unfold State.checkJournalFull
    split
    · simp only [State.record_frame]
    · rfl
  unfold State.journalAdd
  dsimp only
  rw [hk, (sendWb_facts _ _).1]

/-- Changing one stream leaves the others. -/
theorem setStream_other {s : State} {id k : Nat} (h : k ≠ id) (f : Stream → Stream) (hf : ∀ x, x.id = id → (f x).id = id) :
    (s.setStream id f).streamOf k = s.streamOf k := by
  unfold State.streamOf State.setStream
  dsimp only
  generalize s.wb.streams = l
  induction l with
  | nil => rfl
  | cons x l ih =>
    rw [List.map_cons, List.find?_cons, List.find?_cons, ih]
    by_cases hx : x.id = id
    · rw [if_pos hx, show ((f x).id == k) = false by rw [hf x hx]; simp [Ne.symm h], show (x.id == k) = false by rw [hx]; simp [Ne.symm h]]
    · rw [if_neg hx]

/-- A journal entry sends nothing to the plant networks. -/
theorem journalAdd_out (s : State) (b : JBody) : ∃ l, (s.journalAdd b).out = s.out ++ l ∧ ∀ n pr f, Out.net n pr f ∉ l := by
  have hk : ∀ u : State, u.checkJournalFull.out = u.out := by
    intro u; unfold State.checkJournalFull; split
    · simp only [State.record_frame]
    · rfl
  unfold State.journalAdd
  dsimp only
  rw [hk]
  unfold State.sendWb
  split
  · exact ⟨[_], rfl, fun n pr f h => by rcases List.mem_singleton.mp h⟩
  · exact ⟨[], (List.append_nil _).symm, fun n pr f h => by cases h⟩

/-- What numbering and journalling an ORDERED frame does. -/
theorem intend_facts {s : State} {id : Nat} {st : Stream} (h : s.streamOf id = some st) (p : List Byte) :
    (s.intend id p).wb.jsn = s.wb.jsn + 1 ∧ (s.intend id p).wb.journal = s.wb.journal ++ [⟨s.wb.jsn + 1, s.sendGen, .intent id st.nextSeq st.epoch p⟩] ∧
    (s.intend id p).streamOf id = some { st with nextSeq := (st.nextSeq + 1) % 2 ^ 32, unacked := st.unacked ++ [(st.nextSeq, s.wb.jsn + 1, p)] } ∧
    (∀ k, k ≠ id → (s.intend id p).streamOf k = s.streamOf k) ∧ (s.intend id p).hq = s.hq ∧ (s.intend id p).regs = s.regs ∧
    (∃ l, (∀ n pr f, Out.net n pr f ∉ l) ∧ (s.intend id p).out = s.out ++ l ++ if (s.wb.jsn + 1 ≤ if s.wb.dual then s.wb.jsnAck else s.wb.jsn + 1) then
      [.net (s.streamNet st.id) 6 (.stream 1 st.id st.epoch st.nextSeq false false p)] else []) := by
  have e : s.intend id p = s.intend id p := rfl
  conv at e => rhs; unfold State.intend
  rw [h] at e
  dsimp only at e
  have f := journalAdd_facts s (.intent id st.nextSeq st.epoch p)
  have fo := journalAdd_out s (.intent id st.nextSeq st.epoch p)
  have fw := journalAdd_wb s (.intent id st.nextSeq st.epoch p)
  have fr : (s.journalAdd (.intent id st.nextSeq st.epoch p)).regs = s.regs := by simp only [State.journalAdd_frame]
  have fn : ∀ i, (s.journalAdd (.intent id st.nextSeq st.epoch p)).streamNet i = s.streamNet i := fun i => by unfold State.streamNet; simp only [State.journalAdd_frame]
  generalize s.journalAdd (.intent id st.nextSeq st.epoch p) = v at e f fo fw fr fn
  have hs : v.streamOf id = some st := by unfold State.streamOf at *; rw [fw]; exact h
  have hs' : ∀ k, v.streamOf k = s.streamOf k := fun k => by unfold State.streamOf; rw [fw]
  rw [f.1] at e
  have ws := setStream_streamOf hs (fun t => { t with nextSeq := (t.nextSeq + 1) % 2 ^ 32, unacked := t.unacked ++ [(st.nextSeq, s.wb.jsn + 1, p)] }) (fun x h => h)
  have wo : ∀ k, k ≠ id → _ := fun k hk => setStream_other (s := v) hk (fun t => { t with nextSeq := (t.nextSeq + 1) % 2 ^ 32, unacked := t.unacked ++ [(st.nextSeq, s.wb.jsn + 1, p)] }) (fun x h => h)
  have wf : ∀ g, (v.setStream id g).wb.jsn = v.wb.jsn ∧ (v.setStream id g).wb.journal = v.wb.journal ∧ (v.setStream id g).wb.dual = v.wb.dual ∧ (v.setStream id g).wb.jsnAck = v.wb.jsnAck ∧ (v.setStream id g).hq = v.hq ∧
      (v.setStream id g).regs = v.regs ∧ (v.setStream id g).out = v.out ∧ ∀ i, (v.setStream id g).streamNet i = v.streamNet i := fun g => ⟨rfl, rfl, rfl, rfl, rfl, rfl, rfl, fun _ => rfl⟩
  have wg := wf (fun t => { t with nextSeq := (t.nextSeq + 1) % 2 ^ 32, unacked := t.unacked ++ [(st.nextSeq, s.wb.jsn + 1, p)] })
  generalize v.setStream id (fun t => { t with nextSeq := (t.nextSeq + 1) % 2 ^ 32, unacked := t.unacked ++ [(st.nextSeq, s.wb.jsn + 1, p)] }) = w at e ws wo wg
  obtain ⟨g1, g2, g3, g4, g5, g6, g7, g8⟩ := wg
  have hc : w.committed w.wb.jsn = true ↔ s.wb.jsn + 1 ≤ if s.wb.dual then s.wb.jsnAck else s.wb.jsn + 1 := by
    unfold State.committed
    rw [decide_eq_true_eq, g1, g3, g4, fw]
  obtain ⟨l, l1, l2⟩ := fo
  by_cases z : s.wb.jsn + 1 ≤ if s.wb.dual then s.wb.jsnAck else s.wb.jsn + 1
  · rw [if_pos (hc.mpr z)] at e
    rw [e]
    simp only [State.sendOrdered_frame]
    refine ⟨g1.trans f.1, g2.trans f.2.1, ?_, fun k hk => ?_, g5.trans f.2.2.1, g6.trans fr, l, l2, ?_⟩
    · exact ws
    · exact (wo k hk).trans (hs' k)
    · rw [if_pos z]
      show w.out ++ [Out.net (w.streamNet st.id) 6 _] = _
      rw [g7, g8, fn, l1]
  · rw [if_neg (fun y => z (hc.mp y))] at e
    rw [e]
    refine ⟨g1.trans f.1, g2.trans f.2.1, ws, fun k hk => (wo k hk).trans (hs' k), g5.trans f.2.2.1, g6.trans fr, l, l2, ?_⟩
    rw [if_neg z, g7, l1, List.append_nil]

/-- What waiting frames of a stream do when places come free. -/
theorem fillStream_facts (id : Nat) (n : Nat) : ∀ (s : State) (st : Stream), s.streamOf id = some st → ∃ x k, (s.fillStream id n).streamOf id = some x ∧
    x.ackH = st.ackH ∧ x.waiting = st.waiting.drop k ∧ (s.fillStream id n).wb.jsn = s.wb.jsn + k ∧ (s.fillStream id n).hq = s.hq ∧ (s.fillStream id n).regs = s.regs ∧
    (st.waiting.length ≤ n → x.waiting = [] ∨ 64 ≤ x.unacked.length) := by
  induction n with
  | zero => exact fun s st h => ⟨st, 0, h, rfl, rfl, rfl, rfl, rfl, fun h => .inl (List.length_eq_zero_iff.mp (Nat.le_zero.mp h))⟩
  | succ n ih =>
    intro s st h
    rw [State.fillStream, h]
    dsimp only
    cases hw : st.waiting with
    | nil => exact ⟨st, 0, h, rfl, hw.trans rfl, rfl, rfl, rfl, fun _ => .inl hw⟩
    | cons p ps =>
      dsimp only
      by_cases hu : st.unacked.length < 64
      · rw [if_pos hu]
        have h1 := setStream_streamOf h (fun t => { t with waiting := ps }) (fun x h => h)
        have i := intend_facts h1 p
        obtain ⟨i1, -, i3, -, i5, i6, -⟩ := i
        generalize State.intend _ id p = u at i1 i3 i5 i6 ⊢
        obtain ⟨x, k, x1, x2, x3, x4, x5, x6, x7⟩ := ih u _ i3
        refine ⟨x, k + 1, x1, x2, x3, ?_, x5.trans i5, x6.trans i6, fun h => x7 (Nat.le_of_succ_le_succ h)⟩
        rw [x4, i1]
        show s.wb.jsn + 1 + k = _
        omega
      · rw [if_neg hu]
        exact ⟨st, 0, h, rfl, hw.trans rfl, rfl, rfl, rfl, fun _ => .inr (by omega)⟩

theorem afterSettle_id {s : State} (h1 : s.sys.restartPend = none) (h2 : s.pwr.ejectReq = false) : s.afterSettle = s := by
  unfold State.afterSettle
  rw [h1]
  dsimp only
  rw [if_neg (by simp [h2])]

theorem refAnswered_reach {s : State} (h : s.wb.refReach = true) : s.refAnswered = { s with wb := { s.wb with outstanding := none, sends := 0, refLost := false } } := by
  unfold State.refAnswered
  dsimp only
  rw [if_pos (by exact h)]

theorem journalAdd_sys (s : State) (b : JBody) : (s.journalAdd b).sys = { s.sys with faultFlash := (s.journalAdd b).sys.faultFlash, faultAt := (s.journalAdd b).sys.faultAt } := by
  have hk : ∀ u : State, u.checkJournalFull.sys = { u.sys with faultFlash := u.checkJournalFull.sys.faultFlash, faultAt := u.checkJournalFull.sys.faultAt } := by
    intro u
    unfold State.checkJournalFull
    split
    · rw [State.record_sys]
    · rfl
  unfold State.journalAdd
  dsimp only
  rw [hk, (sendWb_facts _ _).2.1]

/-- What decides who holds the lease, and the mode. -/
def State.leaseView (s : State) : Mode × Option Nat × Lease × Nat × Bool × HoPhase × PwrSt × Nat × Nat :=
  (s.sys.mode, s.sys.restartPend, s.wb.lease, s.wb.gen, s.wb.dual, s.wb.ho, s.pwr, s.wb.granted, s.sys.unitHealth)

theorem journalAdd_leaseView (s : State) (b : JBody) : (s.journalAdd b).leaseView = s.leaseView := by
  unfold State.leaseView
  rw [journalAdd_sys, journalAdd_wb]
  simp only [State.journalAdd_frame]

theorem finish_leaseView (s : State) (op : Op) (st r : Nat) (d : List Byte) : (s.finish op st r d).leaseView = s.leaseView := by
  have hw : ∀ (u : State) o b, (u.writeRes op o b).leaseView = u.leaseView := by
    intro u o b; obtain ⟨m, e⟩ := writeRes_mem u op o b; rw [e]; rfl
  have hl : ∀ (u : State) st, (u.lastProgress op st).leaseView = u.leaseView := by
    intro u st; unfold State.lastProgress; dsimp only; split
    · exact hw ..
    · rfl
  unfold State.finish
  generalize s.lateResult op st r d = x
  obtain ⟨a, b, c⟩ := x
  dsimp only
  split
  · split
    · rw [journalAdd_leaseView]
      exact (hw _ _ _).trans (hl _ _)
    · exact (hw _ _ _).trans (hl _ _)
  · have k : ∀ u : State, (u.queueEvent op.ring).leaseView = u.leaseView := by
      intro u
      have := State.queueEvent_frame u op.ring
      unfold State.leaseView
      simp only [this]
    have k2 : ∀ u : State, (if dEvent op.bytes = true then u.queueEvent op.ring else u).leaseView = u.leaseView := by
      intro u; split
      · exact k u
      · rfl
    split
    · rw [journalAdd_leaseView, k2]
      exact (hw _ _ _).trans ((hw _ _ _).trans (hl _ _))
    · rw [k2]
      exact (hw _ _ _).trans ((hw _ _ _).trans (hl _ _))

theorem foldl_view {α β : Type} (f : State → α → State) (g : State → β) (h : ∀ s a, g (f s a) = g s) (l : List α) (s : State) : g (l.foldl f s) = g s := by
  induction l generalizing s with
  | nil => rfl
  | cons a l ih => rw [List.foldl_cons, ih, h]

theorem takeDuties_leaseView (s : State) : s.takeDuties.leaseView = s.leaseView := by
  have h1 : ∀ (l : List (Nat × Nat × Nat)) (u : State), (u.finishApplied l).leaseView = u.leaseView := by
    intro l
    induction l with
    | nil => intro u; rfl
    | cons x l ih =>
      intro u
      obtain ⟨j, st, r⟩ := x
      unfold State.finishApplied
      dsimp only
      rw [ih]
      split
      · exact finish_leaseView ..
      · rfl
  have h2 : ∀ (u : State) (st : Stream), (u.sendAllOrdered st true st.unacked).leaseView = u.leaseView := by
    intro u st; rw [sendAllOrdered_eq]; rfl
  have h3 : ∀ (u : State) (o : Op), (u.unshadow o).leaseView = u.leaseView := by
    intro u o
    unfold State.unshadow
    dsimp only
    split
    · unfold State.leaseView; simp only [State.writeCompletion_frame]
    · rfl
  have h4 : ∀ u : State, u.acceptReady.leaseView = u.leaseView := by
    intro u; unfold State.leaseView; simp only [State.acceptReady_frame]
  have h5 : ∀ u : State, u.postBuilt.leaseView = u.leaseView := by
    intro u
    unfold State.postBuilt
    exact foldl_view (fun (s : State) (f : Nat × CanFrame) => s.postCan f.1 f.2 false none) State.leaseView (fun _ _ => rfl) _ _
  unfold State.takeDuties
  dsimp only
  rw [h5, h4]
  refine (foldl_view State.unshadow State.leaseView h3 _ _).trans ?_
  refine (foldl_view (fun s (st : Stream) => s.sendAllOrdered st true st.unacked) State.leaseView h2 _ _).trans ?_
  exact h1 _ _

theorem setMode_view (s : State) (m : Mode) (h1 : m ≠ .quarantine) (h2 : m ≠ .service) (c : Nat) :
    (s.setMode m c).leaseView = (m, s.sys.restartPend, s.wb.lease, s.wb.gen, s.wb.dual, s.wb.ho, s.pwr, s.wb.granted, s.sys.unitHealth) := by
  unfold State.leaseView
  rw [setMode_keeps s m h1 h2 c, State.setMode_mode]
  have hr : (s.setMode m c).sys.restartPend = s.sys.restartPend := by
    by_cases h : s.sys.mode = m
    · unfold State.setMode; rw [if_pos h]
    · exact (State.setMode_sys h c).2.2.2.2.2.2.2.2.2.1
  rw [hr, State.setMode_unitHealth]
  simp only [State.setMode_frame]

theorem refAnswered_view (s : State) : s.refAnswered.leaseView = s.leaseView := by
  unfold State.refAnswered
  dsimp only
  split
  · rfl
  · unfold State.leaseView; simp only [State.raise_frame]

theorem setHeld_view (s : State) (g : Nat) : (s.setHeld g).leaseView = (s.sys.mode, s.sys.restartPend, .held, s.wb.gen, s.wb.dual, s.wb.ho, s.pwr, g, s.sys.unitHealth) := by
  unfold State.setHeld
  dsimp only
  split
  · rfl
  · unfold State.leaseView; simp only [State.raise_frame]

theorem newGen_view (s : State) (g : Nat) : (s.newGen g).leaseView = (s.sys.mode, s.sys.restartPend, s.wb.lease, max s.wb.gen g, s.wb.dual, s.wb.ho, s.pwr, s.wb.granted, s.sys.unitHealth) := by
  unfold State.newGen
  split
  · rename_i h
    rw [journalAdd_leaseView, Nat.max_eq_right (Nat.le_of_lt h)]; rfl
  · rename_i h
    rw [Nat.max_eq_left (by omega)]; rfl

theorem endHandover_view (s : State) : s.endHandover.leaseView = (s.sys.mode, s.sys.restartPend, s.wb.lease, s.wb.gen, s.wb.dual, .idle, s.pwr, s.wb.granted, s.sys.unitHealth) := by
  unfold State.endHandover State.leaseView
  simp only [State.raise_frame]

theorem requestDenied_facts {s : State} (h1 : s.wb.lease = .request) (h2 : s.sys.mode = .handover) (h3 : s.wb.ho = .idle)
    (h4 : s.sys.restartPend = none) (h5 : s.pwr.ejectReq = false) :
    s.requestDenied.sys.mode = .standby ∧ s.requestDenied.wb.lease = .none ∧ s.requestDenied.wb.gen = s.wb.gen ∧
    s.requestDenied.wb.refDenies = s.wb.refDenies := by
  unfold State.requestDenied
  rw [if_pos h1]
  dsimp only
  rw [if_pos h2, if_neg (by simp [h3])]
  have v := setMode_view { s with wb := { s.wb with lease := .none } } .standby (by decide) (by decide) 0
  have k := setMode_keeps { s with wb := { s.wb with lease := .none } } .standby (by decide) (by decide) 0
  generalize ({ s with wb := { s.wb with lease := .none } } : State).setMode .standby = u at v k
  simp only [State.leaseView, Prod.mk.injEq] at v
  rw [if_pos (by rw [v.2.2.2.2.2.1]; exact h3), afterSettle_id (by rw [v.2.1]; exact h4) (by rw [v.2.2.2.2.2.2.1]; exact h5)]
  exact ⟨v.1, v.2.2.1, v.2.2.2.1, by rw [k]⟩

theorem loseLease_says {s : State} (h : s.partnerTakes = false) :
    Says { s with wb := { s.wb with lease := .lost, expiry := 0, consentEnd := none } } [(.leaseLost, [s.wb.gen])] [64] s.loseLease := by
  have hs := ((Says.refl ({ s with wb := { s.wb with lease := .lost, expiry := 0, consentEnd := none } } : State)).record .leaseLost [s.wb.gen]).raise 64 (by decide)
  unfold State.loseLease
  dsimp only
  rw [if_neg]
  · exact hs
  · unfold State.partnerTakes State.partnerAbsent State.partnerMode at h ⊢
    rw [hs.toReports.wb, hs.toReports.pwr]
    simp only [h]
    decide

theorem endHandover_pends (s : State) : s.endHandover.isPending 66 = true := raise_pends _ (by decide)

theorem raise_mono (s : State) (k j : Nat) (h : s.isPending j = true) : (s.raise k).isPending j = true := by
  by_cases hk : k < 128
  · exact raise_pending s hk j h
  · have hp : ∀ u : State, (u.deliver k).evt.pend = u.evt.pend := by
      intro u
      unfold State.deliver
      split
      · rfl
      · split
        · rfl
        · split <;> rfl
    unfold State.raise
    split
    · exact h
    · simp only [State.isPending, hp, bitOf_eq_testBit, BitVec.toNat_or, Nat.testBit_or] at h ⊢
      simp only [h, Bool.true_or]

theorem complete_pends (s : State) (m : Nat) (d : List Byte) (tag st res fl j : Nat) (h : s.isPending j = true) :
    (s.writeCompletion m d tag st res fl).isPending j = true := by
  unfold State.writeCompletion
  split
  · exact h
  · unfold State.putCompletion State.contentMade
    dsimp only
    split
    · unfold State.queueEvent
      exact raise_mono _ _ _ h
    · exact h

theorem acceptReady_pends (s : State) (j : Nat) (h : s.isPending j = true) : s.acceptReady.isPending j = true := by
  have key : ∀ (l : List Op) (u : State), u.isPending j = true → (u.acceptAll l).isPending j = true := by
    intro l
    induction l with
    | nil => intro u hu; exact hu
    | cons o l ih =>
      intro u hu
      unfold State.acceptAll
      split
      · split
        · refine ih _ ?_
          unfold State.acceptOp
          exact complete_pends _ _ _ _ _ _ _ _ hu
        · exact ih _ hu
      · exact ih _ hu
  unfold State.acceptReady
  split
  · exact key _ _ h
  · exact h

theorem nextDrill_regs (s : State) : s.nextDrill = { s with regs := s.nextDrill.regs } ∧
    s.nextDrill.drillStamp = (s.drillStamp +
      ((s.tb.ang - s.drillStamp) / (s.fld .wbDrillCtrl 8 8 * 86400 * (if s.bit .angCtrl 4 then 60 else 50) * countsPerCycle) + 1) *
        (s.fld .wbDrillCtrl 8 8 * 86400 * (if s.bit .angCtrl 4 then 60 else 50) * countsPerCycle)) % 2 ^ 64 := by
  refine ⟨rfl, ?_⟩
  unfold State.nextDrill
  dsimp only
  generalize s.drillStamp + _ = n
  unfold State.drillStamp
  rw [setReg_reg, setReg_reg, setReg_reg, if_neg (by decide), if_pos rfl, if_pos rfl, BitVec.toNat_ofNat, BitVec.toNat_ofNat]
  omega

theorem fresh_same {e q l : Nat} (h : l < q) : fresh e q e l = true := by
  unfold fresh
  have : signedOf 16 (unsignedOf 16 (Int.ofNat e - Int.ofNat e)) = 0 := by
    rw [Int.sub_self]; decide
  rw [this]; simp [h]

theorem stale_same {e q l : Nat} (h : q ≤ l) : fresh e q e l = false := by
  unfold fresh
  have : signedOf 16 (unsignedOf 16 (Int.ofNat e - Int.ofNat e)) = 0 := by
    rw [Int.sub_self]; decide
  rw [this]; simp; omega

end Sys2Proof.Machine
end

