-- ==== Sys2Proof/Laws/Access.lean ====
section
/-! SUPPORT. What accesses by cores and by the debug master do, said once. -/

namespace Sys2Proof.Machine

theorem loadBytes_dram {s : State} {hart a n : Nat} (h : 0x000800000000 ≤ a) : s.loadBytes hart a n = (List.range n).map fun i => Memory.read s.mem (a + i) := by
  unfold State.loadBytes
  refine List.map_congr_left fun i _ => ?_
  unfold hartKey
  rw [if_neg (by omega)]

theorem storeBytes_dram {s : State} {hart a : Nat} (l : List Byte) (h : 0x000800000000 ≤ a) : s.storeBytes hart a l = { s with mem := Memory.writeN s.mem a l } := by
  induction l generalizing s a with
  | nil => rfl
  | cons b l ih =>
    unfold State.storeBytes
    rw [ih (by omega)]
    have : inRom a = false := by unfold inRom; simp; omega
    rw [this]
    have hk : hartKey hart a = a := by unfold hartKey; rw [if_neg (by omega)]
    rw [hk]
    rfl

theorem dram_onBus {a n : Nat} (h1 : 0x000800000000 ≤ a) (h2 : a + n ≤ 0x000C00000000) (f : Nat → Bool) :
    ((List.range n).all fun i => onBus (a + i) || f i) = true := by
  rw [List.all_eq_true]
  intro i hi
  have := List.mem_range.1 hi
  unfold onBus
  simp; left; left; right; omega

theorem coreBus_dram {s : State} {q : Requester} {hart a n d : Nat} {split : Bool} {k : AccKind} (h1 : 0x000800000000 ≤ a) (h2 : a + n ≤ 0x000C00000000) :
    s.coreBus q hart split k a n d = if k = .store then { s with mem := Memory.writeN s.mem a (leBytes n d) } else
      { s with resp := some ⟨q, leNat ((List.range n).map fun i => Memory.read s.mem (a + i)), .ok⟩ } := by
  unfold State.coreBus
  have : inRegs a = false := by unfold inRegs; simp; omega
  rw [if_neg (by simp [this]), if_pos (dram_onBus h1 h2 _)]
  split
  · exact storeBytes_dram _ h1
  · rw [loadBytes_dram h1]; rfl

theorem coreAccess_admitted {s : State} {p a n d k m : Nat} {b : Bool} {pr : Priv} (h1 : s.coreRuns p b = true) (h2 : m = 2 * p + ofBool b)
    (h3 : ((s.mpu m).syncPend && (s.mpu m).own) = false)
    (h4 : firstRefused (s.core.mpus.getD m {}).cur ((s.pair p).state == 1) (privOf pr) (accKind k) maxParts a (a + n) = none) :
    exec (.coreAccess p b pr k a n d false) s = .next (s.coreBus (.core p b pr) m ((s.pair p).state == 1) (accKind k) a n d) := by
  show execCoreAccess p b pr k a n d false s = _
  subst h2
  unfold execCoreAccess State.mpuRegions hartMpu
  dsimp only
  rw [if_neg (by simp [h1]), if_neg (by rw [← Bool.and_eq_true, h3]; decide), h4]
  rfl

theorem getD_updAt_ne {α : Type} (l : List α) {n k : Nat} (h : k ≠ n) (f : α → α) (d : α) : (updAt l n f).getD k d = l.getD k d := by
  induction l generalizing n k with
  | nil => rfl
  | cons x l ih =>
    cases n with
    | zero => cases k with
      | zero => exact absurd rfl h
      | succ k => rfl
    | succ n => cases k with
      | zero => rfl
      | succ k => exact ih (by omega)

theorem setPair_other (s : State) {k b : Nat} (h : b ≠ k) (f : PairSt → PairSt) : ((s.setPair k f).setUnit k).pair b = s.pair b ∧
    bitOf ((s.setPair k f).setUnit k).sys.unitHealth b = bitOf s.sys.unitHealth b := by
  refine ⟨getD_updAt_ne _ h _ _, ?_⟩
  show bitOf (s.sys.unitHealth ||| 2 ^ k) b = _
  rw [bitOf_eq_testBit, bitOf_eq_testBit, Nat.testBit_or, Nat.testBit_two_pow]
  simp [Ne.symm h]

/-- A pair that mismatches, up to what its service does. -/
theorem mismatch_steps {s : State} {k cause : Nat} {args : List Nat} {c : Bool} (hm : s.sys.mode ≠ .active)
    (hc : controlLost (s.sys.unitHealth ||| 2 ^ k) true = false) :
    ∃ v, Says ((s.setPair k fun p => { p with state := 2, selftest := c, lastCause := cause % 8, mismatches := p.mismatches ++ [s.tb.csr],
                                              pc := args.getD 4 0 % 2 ^ 64 }).setUnit k)
      [(.lockstepMismatch, k :: args), (.unitLost, [k])] [113, 108] v ∧
      s.mismatch k cause args c = if s.core.svcPair = k then v.moveService c ((s.pair k).mismatches.any s.within100ms) else v := by
  unfold State.mismatch
  dsimp only
  generalize hu : s.setPair k _ = u
  have hu' : u.core.svcPair = s.core.svcPair ∧ u.sys = s.sys := by rw [← hu]; exact ⟨rfl, rfl⟩
  have h1 := ((Says.refl u).record .lockstepMismatch (k :: args)).raise 113 (by decide)
  generalize (u.record .lockstepMismatch (k :: args)).raise 113 = v at h1
  have h2 := loseUnit_says v k (by rw [h1.toReports.mode, hu'.2]; exact hm) (by rw [h1.toReports.unitHealth, hu'.2]; exact hc)
  have h3 : (v.loseUnit k).core.svcPair = s.core.svcPair := by
    rw [h2.toReports.core]; show v.core.svcPair = _; rw [h1.toReports.core]; exact hu'.1
  have h4 := h1.upd (fun w => w.setUnit k) (fun _ _ _ _ _ => rfl) rfl rfl
  exact ⟨v.loseUnit k, h4.trans h2, by rw [h3]⟩

theorem mismatch_says {s : State} {k cause : Nat} {args : List Nat} {c : Bool} (hs : s.core.svcPair ≠ k) (hm : s.sys.mode ≠ .active)
    (hc : controlLost (s.sys.unitHealth ||| 2 ^ k) true = false) :
    Says ((s.setPair k fun p => { p with state := 2, selftest := c, lastCause := cause % 8, mismatches := p.mismatches ++ [s.tb.csr],
                                         pc := args.getD 4 0 % 2 ^ 64 }).setUnit k)
      [(.lockstepMismatch, k :: args), (.unitLost, [k])] [113, 108] (s.mismatch k cause args c) := by
  obtain ⟨v, h1, h2⟩ := mismatch_steps (s := s) (cause := cause) (args := args) (c := c) hm hc
  rw [h2, if_neg hs]
  exact h1

end Sys2Proof.Machine
end

