-- ==== Sys2Proof/Laws/Frame/FieldIo.lean ====
section
/-! SUPPORT. The parts of the state that operations of Machine/FieldIo.lean leave as they are. -/

namespace Sys2Proof.Machine

theorem State.setDiSt_same (s : State) (n : Nat) (f : DiSt → DiSt) :
    Same (fun t => (t.sys, t.pwr, t.tb, t.rtc, t.hq, t.evt, t.wb, t.core, t.dbg, t.prg, t.loop, t.slk, t.est, t.prot, t.dsp, t.aio, t.can, t.net, t.nvs, t.log, t.sec, t.upd, t.locks, t.regs, t.mem, t.cfg, t.resp, t.out, t.freeCtr, t.pending)) s (State.setDiSt s n f) := by
  unfold State.setDiSt
  (try dsimp only)
  (repeat' split) <;> simp [Same]

@[simp] theorem State.setDiSt_frame (s : State) (n : Nat) (f : DiSt → DiSt) :
    (State.setDiSt s n f).sys = s.sys ∧ (State.setDiSt s n f).pwr = s.pwr ∧ (State.setDiSt s n f).tb = s.tb ∧
    (State.setDiSt s n f).rtc = s.rtc ∧ (State.setDiSt s n f).hq = s.hq ∧ (State.setDiSt s n f).evt = s.evt ∧
    (State.setDiSt s n f).wb = s.wb ∧ (State.setDiSt s n f).core = s.core ∧ (State.setDiSt s n f).dbg = s.dbg ∧
    (State.setDiSt s n f).prg = s.prg ∧ (State.setDiSt s n f).loop = s.loop ∧ (State.setDiSt s n f).slk = s.slk ∧
    (State.setDiSt s n f).est = s.est ∧ (State.setDiSt s n f).prot = s.prot ∧ (State.setDiSt s n f).dsp = s.dsp ∧
    (State.setDiSt s n f).aio = s.aio ∧ (State.setDiSt s n f).can = s.can ∧ (State.setDiSt s n f).net = s.net ∧
    (State.setDiSt s n f).nvs = s.nvs ∧ (State.setDiSt s n f).log = s.log ∧ (State.setDiSt s n f).sec = s.sec ∧
    (State.setDiSt s n f).upd = s.upd ∧ (State.setDiSt s n f).locks = s.locks ∧ (State.setDiSt s n f).regs = s.regs ∧
    (State.setDiSt s n f).mem = s.mem ∧ (State.setDiSt s n f).cfg = s.cfg ∧ (State.setDiSt s n f).resp = s.resp ∧
    (State.setDiSt s n f).out = s.out ∧ (State.setDiSt s n f).freeCtr = s.freeCtr ∧ (State.setDiSt s n f).pending = s.pending := by
  simpa [Same] using State.setDiSt_same s n f

theorem State.setAiSt_same (s : State) (n : Nat) (f : AiSt → AiSt) :
    Same (fun t => (t.sys, t.pwr, t.tb, t.rtc, t.hq, t.evt, t.wb, t.core, t.dbg, t.prg, t.loop, t.slk, t.est, t.prot, t.dsp, t.dio, t.can, t.net, t.nvs, t.log, t.sec, t.upd, t.locks, t.regs, t.mem, t.cfg, t.resp, t.out, t.freeCtr, t.pending)) s (State.setAiSt s n f) := by
  unfold State.setAiSt
  (try dsimp only)
  (repeat' split) <;> simp [Same]

@[simp] theorem State.setAiSt_frame (s : State) (n : Nat) (f : AiSt → AiSt) :
    (State.setAiSt s n f).sys = s.sys ∧ (State.setAiSt s n f).pwr = s.pwr ∧ (State.setAiSt s n f).tb = s.tb ∧
    (State.setAiSt s n f).rtc = s.rtc ∧ (State.setAiSt s n f).hq = s.hq ∧ (State.setAiSt s n f).evt = s.evt ∧
    (State.setAiSt s n f).wb = s.wb ∧ (State.setAiSt s n f).core = s.core ∧ (State.setAiSt s n f).dbg = s.dbg ∧
    (State.setAiSt s n f).prg = s.prg ∧ (State.setAiSt s n f).loop = s.loop ∧ (State.setAiSt s n f).slk = s.slk ∧
    (State.setAiSt s n f).est = s.est ∧ (State.setAiSt s n f).prot = s.prot ∧ (State.setAiSt s n f).dsp = s.dsp ∧
    (State.setAiSt s n f).dio = s.dio ∧ (State.setAiSt s n f).can = s.can ∧ (State.setAiSt s n f).net = s.net ∧
    (State.setAiSt s n f).nvs = s.nvs ∧ (State.setAiSt s n f).log = s.log ∧ (State.setAiSt s n f).sec = s.sec ∧
    (State.setAiSt s n f).upd = s.upd ∧ (State.setAiSt s n f).locks = s.locks ∧ (State.setAiSt s n f).regs = s.regs ∧
    (State.setAiSt s n f).mem = s.mem ∧ (State.setAiSt s n f).cfg = s.cfg ∧ (State.setAiSt s n f).resp = s.resp ∧
    (State.setAiSt s n f).out = s.out ∧ (State.setAiSt s n f).freeCtr = s.freeCtr ∧ (State.setAiSt s n f).pending = s.pending := by
  simpa [Same] using State.setAiSt_same s n f

theorem State.takeDi_same (s : State) (bits : Nat) :
    Same (fun t => (t.sys, t.pwr, t.tb, t.rtc, t.hq, t.evt, t.wb, t.core, t.dbg, t.prg, t.loop, t.slk, t.est, t.prot, t.dsp, t.aio, t.can, t.net, t.nvs, t.log, t.sec, t.upd, t.locks, t.regs, t.mem, t.cfg, t.resp, t.out, t.freeCtr, t.pending)) s (State.takeDi s bits) := by
  unfold State.takeDi
  (try dsimp only)
  (repeat' split) <;> simp [Same]

@[simp] theorem State.takeDi_frame (s : State) (bits : Nat) :
    (State.takeDi s bits).sys = s.sys ∧ (State.takeDi s bits).pwr = s.pwr ∧ (State.takeDi s bits).tb = s.tb ∧
    (State.takeDi s bits).rtc = s.rtc ∧ (State.takeDi s bits).hq = s.hq ∧ (State.takeDi s bits).evt = s.evt ∧
    (State.takeDi s bits).wb = s.wb ∧ (State.takeDi s bits).core = s.core ∧ (State.takeDi s bits).dbg = s.dbg ∧
    (State.takeDi s bits).prg = s.prg ∧ (State.takeDi s bits).loop = s.loop ∧ (State.takeDi s bits).slk = s.slk ∧
    (State.takeDi s bits).est = s.est ∧ (State.takeDi s bits).prot = s.prot ∧ (State.takeDi s bits).dsp = s.dsp ∧
    (State.takeDi s bits).aio = s.aio ∧ (State.takeDi s bits).can = s.can ∧ (State.takeDi s bits).net = s.net ∧
    (State.takeDi s bits).nvs = s.nvs ∧ (State.takeDi s bits).log = s.log ∧ (State.takeDi s bits).sec = s.sec ∧
    (State.takeDi s bits).upd = s.upd ∧ (State.takeDi s bits).locks = s.locks ∧ (State.takeDi s bits).regs = s.regs ∧
    (State.takeDi s bits).mem = s.mem ∧ (State.takeDi s bits).cfg = s.cfg ∧ (State.takeDi s bits).resp = s.resp ∧
    (State.takeDi s bits).out = s.out ∧ (State.takeDi s bits).freeCtr = s.freeCtr ∧ (State.takeDi s bits).pending = s.pending := by
  simpa [Same] using State.takeDi_same s bits

theorem State.diDiverge_same (s : State) (holder n : Nat) :
    Same (fun t => (t.pwr, t.tb, t.rtc, t.hq, t.wb, t.core, t.dbg, t.prg, t.loop, t.slk, t.est, t.prot, t.dsp, t.aio, t.can, t.net, t.nvs, t.sec, t.upd, t.locks, t.regs, t.cfg, t.resp, t.freeCtr, t.pending)) s (State.diDiverge s holder n) := by
  unfold State.diDiverge
  (try dsimp only)
  (repeat' split) <;> simp [Same]

@[simp] theorem State.diDiverge_frame (s : State) (holder n : Nat) :
    (State.diDiverge s holder n).pwr = s.pwr ∧ (State.diDiverge s holder n).tb = s.tb ∧
    (State.diDiverge s holder n).rtc = s.rtc ∧ (State.diDiverge s holder n).hq = s.hq ∧ (State.diDiverge s holder n).wb = s.wb ∧
    (State.diDiverge s holder n).core = s.core ∧ (State.diDiverge s holder n).dbg = s.dbg ∧
    (State.diDiverge s holder n).prg = s.prg ∧ (State.diDiverge s holder n).loop = s.loop ∧
    (State.diDiverge s holder n).slk = s.slk ∧ (State.diDiverge s holder n).est = s.est ∧
    (State.diDiverge s holder n).prot = s.prot ∧ (State.diDiverge s holder n).dsp = s.dsp ∧
    (State.diDiverge s holder n).aio = s.aio ∧ (State.diDiverge s holder n).can = s.can ∧
    (State.diDiverge s holder n).net = s.net ∧ (State.diDiverge s holder n).nvs = s.nvs ∧
    (State.diDiverge s holder n).sec = s.sec ∧ (State.diDiverge s holder n).upd = s.upd ∧
    (State.diDiverge s holder n).locks = s.locks ∧ (State.diDiverge s holder n).regs = s.regs ∧
    (State.diDiverge s holder n).cfg = s.cfg ∧ (State.diDiverge s holder n).resp = s.resp ∧
    (State.diDiverge s holder n).freeCtr = s.freeCtr ∧ (State.diDiverge s holder n).pending = s.pending := by
  simpa [Same] using State.diDiverge_same s holder n

theorem State.takeAi_same (s : State) (n c : Nat) :
    Same (fun t => (t.sys, t.pwr, t.tb, t.rtc, t.hq, t.evt, t.wb, t.core, t.dbg, t.prg, t.loop, t.slk, t.est, t.prot, t.dsp, t.dio, t.can, t.net, t.nvs, t.log, t.sec, t.upd, t.locks, t.regs, t.mem, t.cfg, t.resp, t.out, t.freeCtr, t.pending)) s (State.takeAi s n c) := by
  unfold State.takeAi
  (try dsimp only)
  (repeat' split) <;> simp [Same]

@[simp] theorem State.takeAi_frame (s : State) (n c : Nat) :
    (State.takeAi s n c).sys = s.sys ∧ (State.takeAi s n c).pwr = s.pwr ∧ (State.takeAi s n c).tb = s.tb ∧
    (State.takeAi s n c).rtc = s.rtc ∧ (State.takeAi s n c).hq = s.hq ∧ (State.takeAi s n c).evt = s.evt ∧
    (State.takeAi s n c).wb = s.wb ∧ (State.takeAi s n c).core = s.core ∧ (State.takeAi s n c).dbg = s.dbg ∧
    (State.takeAi s n c).prg = s.prg ∧ (State.takeAi s n c).loop = s.loop ∧ (State.takeAi s n c).slk = s.slk ∧
    (State.takeAi s n c).est = s.est ∧ (State.takeAi s n c).prot = s.prot ∧ (State.takeAi s n c).dsp = s.dsp ∧
    (State.takeAi s n c).dio = s.dio ∧ (State.takeAi s n c).can = s.can ∧ (State.takeAi s n c).net = s.net ∧
    (State.takeAi s n c).nvs = s.nvs ∧ (State.takeAi s n c).log = s.log ∧ (State.takeAi s n c).sec = s.sec ∧
    (State.takeAi s n c).upd = s.upd ∧ (State.takeAi s n c).locks = s.locks ∧ (State.takeAi s n c).regs = s.regs ∧
    (State.takeAi s n c).mem = s.mem ∧ (State.takeAi s n c).cfg = s.cfg ∧ (State.takeAi s n c).resp = s.resp ∧
    (State.takeAi s n c).out = s.out ∧ (State.takeAi s n c).freeCtr = s.freeCtr ∧ (State.takeAi s n c).pending = s.pending := by
  simpa [Same] using State.takeAi_same s n c

theorem State.takeAis_same (s : State) (n : Nat) (a0 : List Nat) :
    Same (fun t => (t.sys, t.pwr, t.tb, t.rtc, t.hq, t.evt, t.wb, t.core, t.dbg, t.prg, t.loop, t.slk, t.est, t.prot, t.dsp, t.dio, t.can, t.net, t.nvs, t.log, t.sec, t.upd, t.locks, t.regs, t.mem, t.cfg, t.resp, t.out, t.freeCtr, t.pending)) s (State.takeAis s n a0) := by
  simp only [Same]
  induction a0 generalizing s n with
  | nil => simp [State.takeAis]
  | cons y ys ih =>
    rw [State.takeAis]
    (try dsimp only)
    (repeat' split) <;> simp [ih]

@[simp] theorem State.takeAis_frame (s : State) (n : Nat) (a0 : List Nat) :
    (State.takeAis s n a0).sys = s.sys ∧ (State.takeAis s n a0).pwr = s.pwr ∧ (State.takeAis s n a0).tb = s.tb ∧
    (State.takeAis s n a0).rtc = s.rtc ∧ (State.takeAis s n a0).hq = s.hq ∧ (State.takeAis s n a0).evt = s.evt ∧
    (State.takeAis s n a0).wb = s.wb ∧ (State.takeAis s n a0).core = s.core ∧ (State.takeAis s n a0).dbg = s.dbg ∧
    (State.takeAis s n a0).prg = s.prg ∧ (State.takeAis s n a0).loop = s.loop ∧ (State.takeAis s n a0).slk = s.slk ∧
    (State.takeAis s n a0).est = s.est ∧ (State.takeAis s n a0).prot = s.prot ∧ (State.takeAis s n a0).dsp = s.dsp ∧
    (State.takeAis s n a0).dio = s.dio ∧ (State.takeAis s n a0).can = s.can ∧ (State.takeAis s n a0).net = s.net ∧
    (State.takeAis s n a0).nvs = s.nvs ∧ (State.takeAis s n a0).log = s.log ∧ (State.takeAis s n a0).sec = s.sec ∧
    (State.takeAis s n a0).upd = s.upd ∧ (State.takeAis s n a0).locks = s.locks ∧ (State.takeAis s n a0).regs = s.regs ∧
    (State.takeAis s n a0).mem = s.mem ∧ (State.takeAis s n a0).cfg = s.cfg ∧ (State.takeAis s n a0).resp = s.resp ∧
    (State.takeAis s n a0).out = s.out ∧ (State.takeAis s n a0).freeCtr = s.freeCtr ∧ (State.takeAis s n a0).pending = s.pending := by
  simpa [Same] using State.takeAis_same s n a0

theorem State.aiDiverge_same (s : State) (n : Nat) (holder : F32) :
    Same (fun t => (t.pwr, t.tb, t.rtc, t.hq, t.wb, t.core, t.dbg, t.prg, t.loop, t.slk, t.est, t.prot, t.dsp, t.dio, t.can, t.net, t.nvs, t.sec, t.upd, t.locks, t.regs, t.cfg, t.resp, t.freeCtr, t.pending)) s (State.aiDiverge s n holder) := by
  unfold State.aiDiverge
  (try dsimp only)
  (repeat' split) <;> simp [Same]

@[simp] theorem State.aiDiverge_frame (s : State) (n : Nat) (holder : F32) :
    (State.aiDiverge s n holder).pwr = s.pwr ∧ (State.aiDiverge s n holder).tb = s.tb ∧
    (State.aiDiverge s n holder).rtc = s.rtc ∧ (State.aiDiverge s n holder).hq = s.hq ∧ (State.aiDiverge s n holder).wb = s.wb ∧
    (State.aiDiverge s n holder).core = s.core ∧ (State.aiDiverge s n holder).dbg = s.dbg ∧
    (State.aiDiverge s n holder).prg = s.prg ∧ (State.aiDiverge s n holder).loop = s.loop ∧
    (State.aiDiverge s n holder).slk = s.slk ∧ (State.aiDiverge s n holder).est = s.est ∧
    (State.aiDiverge s n holder).prot = s.prot ∧ (State.aiDiverge s n holder).dsp = s.dsp ∧
    (State.aiDiverge s n holder).dio = s.dio ∧ (State.aiDiverge s n holder).can = s.can ∧
    (State.aiDiverge s n holder).net = s.net ∧ (State.aiDiverge s n holder).nvs = s.nvs ∧
    (State.aiDiverge s n holder).sec = s.sec ∧ (State.aiDiverge s n holder).upd = s.upd ∧
    (State.aiDiverge s n holder).locks = s.locks ∧ (State.aiDiverge s n holder).regs = s.regs ∧
    (State.aiDiverge s n holder).cfg = s.cfg ∧ (State.aiDiverge s n holder).resp = s.resp ∧
    (State.aiDiverge s n holder).freeCtr = s.freeCtr ∧ (State.aiDiverge s n holder).pending = s.pending := by
  simpa [Same] using State.aiDiverge_same s n holder

theorem State.learnLoopRes_same (s : State) (n : Nat) (iHolder vHolder : F32) :
    Same (fun t => (t.sys, t.pwr, t.tb, t.rtc, t.hq, t.evt, t.wb, t.core, t.dbg, t.prg, t.loop, t.slk, t.est, t.prot, t.dsp, t.dio, t.can, t.net, t.nvs, t.log, t.sec, t.upd, t.locks, t.regs, t.mem, t.cfg, t.resp, t.out, t.freeCtr, t.pending)) s (State.learnLoopRes s n iHolder vHolder) := by
  unfold State.learnLoopRes
  (try dsimp only)
  (repeat' split) <;> simp [Same]

@[simp] theorem State.learnLoopRes_frame (s : State) (n : Nat) (iHolder vHolder : F32) :
    (State.learnLoopRes s n iHolder vHolder).sys = s.sys ∧ (State.learnLoopRes s n iHolder vHolder).pwr = s.pwr ∧
    (State.learnLoopRes s n iHolder vHolder).tb = s.tb ∧ (State.learnLoopRes s n iHolder vHolder).rtc = s.rtc ∧
    (State.learnLoopRes s n iHolder vHolder).hq = s.hq ∧ (State.learnLoopRes s n iHolder vHolder).evt = s.evt ∧
    (State.learnLoopRes s n iHolder vHolder).wb = s.wb ∧ (State.learnLoopRes s n iHolder vHolder).core = s.core ∧
    (State.learnLoopRes s n iHolder vHolder).dbg = s.dbg ∧ (State.learnLoopRes s n iHolder vHolder).prg = s.prg ∧
    (State.learnLoopRes s n iHolder vHolder).loop = s.loop ∧ (State.learnLoopRes s n iHolder vHolder).slk = s.slk ∧
    (State.learnLoopRes s n iHolder vHolder).est = s.est ∧ (State.learnLoopRes s n iHolder vHolder).prot = s.prot ∧
    (State.learnLoopRes s n iHolder vHolder).dsp = s.dsp ∧ (State.learnLoopRes s n iHolder vHolder).dio = s.dio ∧
    (State.learnLoopRes s n iHolder vHolder).can = s.can ∧ (State.learnLoopRes s n iHolder vHolder).net = s.net ∧
    (State.learnLoopRes s n iHolder vHolder).nvs = s.nvs ∧ (State.learnLoopRes s n iHolder vHolder).log = s.log ∧
    (State.learnLoopRes s n iHolder vHolder).sec = s.sec ∧ (State.learnLoopRes s n iHolder vHolder).upd = s.upd ∧
    (State.learnLoopRes s n iHolder vHolder).locks = s.locks ∧ (State.learnLoopRes s n iHolder vHolder).regs = s.regs ∧
    (State.learnLoopRes s n iHolder vHolder).mem = s.mem ∧ (State.learnLoopRes s n iHolder vHolder).cfg = s.cfg ∧
    (State.learnLoopRes s n iHolder vHolder).resp = s.resp ∧ (State.learnLoopRes s n iHolder vHolder).out = s.out ∧
    (State.learnLoopRes s n iHolder vHolder).freeCtr = s.freeCtr ∧ (State.learnLoopRes s n iHolder vHolder).pending = s.pending := by
  simpa [Same] using State.learnLoopRes_same s n iHolder vHolder

end Sys2Proof.Machine
end

