-- ==== Sys2Proof/Laws/Frame/ProtPlane.lean ====
section
/-! SUPPORT. The parts of the state that operations of Machine/ProtPlane.lean leave as they are. -/

namespace Sys2Proof.Machine

theorem State.setRing_same (s : State) (p : Nat) (f : Ring → Ring) :
    Same (fun t => (t.sys, t.pwr, t.tb, t.rtc, t.hq, t.evt, t.wb, t.core, t.dbg, t.prg, t.loop, t.est, t.prot, t.dsp, t.dio, t.aio, t.can, t.net, t.nvs, t.log, t.sec, t.upd, t.locks, t.regs, t.mem, t.cfg, t.resp, t.out, t.freeCtr, t.pending)) s (State.setRing s p f) := by
  unfold State.setRing
  (try dsimp only)
  (repeat' split) <;> simp [Same]

@[simp] theorem State.setRing_frame (s : State) (p : Nat) (f : Ring → Ring) :
    (State.setRing s p f).sys = s.sys ∧ (State.setRing s p f).pwr = s.pwr ∧ (State.setRing s p f).tb = s.tb ∧
    (State.setRing s p f).rtc = s.rtc ∧ (State.setRing s p f).hq = s.hq ∧ (State.setRing s p f).evt = s.evt ∧
    (State.setRing s p f).wb = s.wb ∧ (State.setRing s p f).core = s.core ∧ (State.setRing s p f).dbg = s.dbg ∧
    (State.setRing s p f).prg = s.prg ∧ (State.setRing s p f).loop = s.loop ∧ (State.setRing s p f).est = s.est ∧
    (State.setRing s p f).prot = s.prot ∧ (State.setRing s p f).dsp = s.dsp ∧ (State.setRing s p f).dio = s.dio ∧
    (State.setRing s p f).aio = s.aio ∧ (State.setRing s p f).can = s.can ∧ (State.setRing s p f).net = s.net ∧
    (State.setRing s p f).nvs = s.nvs ∧ (State.setRing s p f).log = s.log ∧ (State.setRing s p f).sec = s.sec ∧
    (State.setRing s p f).upd = s.upd ∧ (State.setRing s p f).locks = s.locks ∧ (State.setRing s p f).regs = s.regs ∧
    (State.setRing s p f).mem = s.mem ∧ (State.setRing s p f).cfg = s.cfg ∧ (State.setRing s p f).resp = s.resp ∧
    (State.setRing s p f).out = s.out ∧ (State.setRing s p f).freeCtr = s.freeCtr ∧ (State.setRing s p f).pending = s.pending := by
  simpa [Same] using State.setRing_same s p f

theorem State.setNode_same (s : State) (p pos : Nat) (f : Node → Node) :
    Same (fun t => (t.sys, t.pwr, t.tb, t.rtc, t.hq, t.evt, t.wb, t.core, t.dbg, t.prg, t.loop, t.est, t.prot, t.dsp, t.dio, t.aio, t.can, t.net, t.nvs, t.log, t.sec, t.upd, t.locks, t.regs, t.mem, t.cfg, t.resp, t.out, t.freeCtr, t.pending)) s (State.setNode s p pos f) := by
  unfold State.setNode
  (try dsimp only)
  (repeat' split) <;> simp [Same]

@[simp] theorem State.setNode_frame (s : State) (p pos : Nat) (f : Node → Node) :
    (State.setNode s p pos f).sys = s.sys ∧ (State.setNode s p pos f).pwr = s.pwr ∧ (State.setNode s p pos f).tb = s.tb ∧
    (State.setNode s p pos f).rtc = s.rtc ∧ (State.setNode s p pos f).hq = s.hq ∧ (State.setNode s p pos f).evt = s.evt ∧
    (State.setNode s p pos f).wb = s.wb ∧ (State.setNode s p pos f).core = s.core ∧ (State.setNode s p pos f).dbg = s.dbg ∧
    (State.setNode s p pos f).prg = s.prg ∧ (State.setNode s p pos f).loop = s.loop ∧ (State.setNode s p pos f).est = s.est ∧
    (State.setNode s p pos f).prot = s.prot ∧ (State.setNode s p pos f).dsp = s.dsp ∧ (State.setNode s p pos f).dio = s.dio ∧
    (State.setNode s p pos f).aio = s.aio ∧ (State.setNode s p pos f).can = s.can ∧ (State.setNode s p pos f).net = s.net ∧
    (State.setNode s p pos f).nvs = s.nvs ∧ (State.setNode s p pos f).log = s.log ∧ (State.setNode s p pos f).sec = s.sec ∧
    (State.setNode s p pos f).upd = s.upd ∧ (State.setNode s p pos f).locks = s.locks ∧
    (State.setNode s p pos f).regs = s.regs ∧ (State.setNode s p pos f).mem = s.mem ∧ (State.setNode s p pos f).cfg = s.cfg ∧
    (State.setNode s p pos f).resp = s.resp ∧ (State.setNode s p pos f).out = s.out ∧
    (State.setNode s p pos f).freeCtr = s.freeCtr ∧ (State.setNode s p pos f).pending = s.pending := by
  simpa [Same] using State.setNode_same s p pos f

theorem State.setGroup_same (s : State) (g : Nat) (f : TripGroup → TripGroup) :
    Same (fun t => (t.sys, t.pwr, t.tb, t.rtc, t.hq, t.evt, t.wb, t.core, t.dbg, t.prg, t.loop, t.slk, t.est, t.dsp, t.dio, t.aio, t.can, t.net, t.nvs, t.log, t.sec, t.upd, t.locks, t.regs, t.mem, t.cfg, t.resp, t.out, t.freeCtr, t.pending)) s (State.setGroup s g f) := by
  unfold State.setGroup
  (try dsimp only)
  (repeat' split) <;> simp [Same]

@[simp] theorem State.setGroup_frame (s : State) (g : Nat) (f : TripGroup → TripGroup) :
    (State.setGroup s g f).sys = s.sys ∧ (State.setGroup s g f).pwr = s.pwr ∧ (State.setGroup s g f).tb = s.tb ∧
    (State.setGroup s g f).rtc = s.rtc ∧ (State.setGroup s g f).hq = s.hq ∧ (State.setGroup s g f).evt = s.evt ∧
    (State.setGroup s g f).wb = s.wb ∧ (State.setGroup s g f).core = s.core ∧ (State.setGroup s g f).dbg = s.dbg ∧
    (State.setGroup s g f).prg = s.prg ∧ (State.setGroup s g f).loop = s.loop ∧ (State.setGroup s g f).slk = s.slk ∧
    (State.setGroup s g f).est = s.est ∧ (State.setGroup s g f).dsp = s.dsp ∧ (State.setGroup s g f).dio = s.dio ∧
    (State.setGroup s g f).aio = s.aio ∧ (State.setGroup s g f).can = s.can ∧ (State.setGroup s g f).net = s.net ∧
    (State.setGroup s g f).nvs = s.nvs ∧ (State.setGroup s g f).log = s.log ∧ (State.setGroup s g f).sec = s.sec ∧
    (State.setGroup s g f).upd = s.upd ∧ (State.setGroup s g f).locks = s.locks ∧ (State.setGroup s g f).regs = s.regs ∧
    (State.setGroup s g f).mem = s.mem ∧ (State.setGroup s g f).cfg = s.cfg ∧ (State.setGroup s g f).resp = s.resp ∧
    (State.setGroup s g f).out = s.out ∧ (State.setGroup s g f).freeCtr = s.freeCtr ∧ (State.setGroup s g f).pending = s.pending := by
  simpa [Same] using State.setGroup_same s g f

end Sys2Proof.Machine
end

