-- ==== Sys2Proof/Laws/Frame/Silkline.lean ====
section
/-! SUPPORT. The parts of the state that operations of Machine/Silkline.lean leave as they are. -/

namespace Sys2Proof.Machine

theorem State.setSweep_same (s : State) (p epoch : Nat) (f : Sweep → Sweep) :
    Same (fun t => (t.sys, t.pwr, t.tb, t.rtc, t.hq, t.evt, t.wb, t.core, t.dbg, t.prg, t.loop, t.est, t.prot, t.dsp, t.dio, t.aio, t.can, t.net, t.nvs, t.log, t.sec, t.upd, t.locks, t.regs, t.mem, t.cfg, t.resp, t.out, t.freeCtr, t.pending)) s (State.setSweep s p epoch f) := by
  unfold State.setSweep
  (try dsimp only)
  (repeat' split) <;> simp [Same]

@[simp] theorem State.setSweep_frame (s : State) (p epoch : Nat) (f : Sweep → Sweep) :
    (State.setSweep s p epoch f).sys = s.sys ∧ (State.setSweep s p epoch f).pwr = s.pwr ∧
    (State.setSweep s p epoch f).tb = s.tb ∧ (State.setSweep s p epoch f).rtc = s.rtc ∧ (State.setSweep s p epoch f).hq = s.hq ∧
    (State.setSweep s p epoch f).evt = s.evt ∧ (State.setSweep s p epoch f).wb = s.wb ∧
    (State.setSweep s p epoch f).core = s.core ∧ (State.setSweep s p epoch f).dbg = s.dbg ∧
    (State.setSweep s p epoch f).prg = s.prg ∧ (State.setSweep s p epoch f).loop = s.loop ∧
    (State.setSweep s p epoch f).est = s.est ∧ (State.setSweep s p epoch f).prot = s.prot ∧
    (State.setSweep s p epoch f).dsp = s.dsp ∧ (State.setSweep s p epoch f).dio = s.dio ∧
    (State.setSweep s p epoch f).aio = s.aio ∧ (State.setSweep s p epoch f).can = s.can ∧
    (State.setSweep s p epoch f).net = s.net ∧ (State.setSweep s p epoch f).nvs = s.nvs ∧
    (State.setSweep s p epoch f).log = s.log ∧ (State.setSweep s p epoch f).sec = s.sec ∧
    (State.setSweep s p epoch f).upd = s.upd ∧ (State.setSweep s p epoch f).locks = s.locks ∧
    (State.setSweep s p epoch f).regs = s.regs ∧ (State.setSweep s p epoch f).mem = s.mem ∧
    (State.setSweep s p epoch f).cfg = s.cfg ∧ (State.setSweep s p epoch f).resp = s.resp ∧
    (State.setSweep s p epoch f).out = s.out ∧ (State.setSweep s p epoch f).freeCtr = s.freeCtr ∧
    (State.setSweep s p epoch f).pending = s.pending := by
  simpa [Same] using State.setSweep_same s p epoch f

theorem State.sendReads_same (s : State) (p epoch : Nat) (l : List Nat) :
    Same (fun t => (t.sys, t.pwr, t.tb, t.rtc, t.hq, t.evt, t.wb, t.core, t.dbg, t.prg, t.loop, t.slk, t.est, t.prot, t.dsp, t.dio, t.aio, t.can, t.net, t.nvs, t.log, t.sec, t.upd, t.locks, t.regs, t.mem, t.cfg, t.resp, t.freeCtr, t.pending)) s (State.sendReads s p epoch l) := by
  unfold State.sendReads
  (try dsimp only)
  repeat' first | (with_reducible refine Same.foldl _ _ (fun u x => ?_) ?_) | split
  all_goals simp [Same]

@[simp] theorem State.sendReads_frame (s : State) (p epoch : Nat) (l : List Nat) :
    (State.sendReads s p epoch l).sys = s.sys ∧ (State.sendReads s p epoch l).pwr = s.pwr ∧
    (State.sendReads s p epoch l).tb = s.tb ∧ (State.sendReads s p epoch l).rtc = s.rtc ∧
    (State.sendReads s p epoch l).hq = s.hq ∧ (State.sendReads s p epoch l).evt = s.evt ∧
    (State.sendReads s p epoch l).wb = s.wb ∧ (State.sendReads s p epoch l).core = s.core ∧
    (State.sendReads s p epoch l).dbg = s.dbg ∧ (State.sendReads s p epoch l).prg = s.prg ∧
    (State.sendReads s p epoch l).loop = s.loop ∧ (State.sendReads s p epoch l).slk = s.slk ∧
    (State.sendReads s p epoch l).est = s.est ∧ (State.sendReads s p epoch l).prot = s.prot ∧
    (State.sendReads s p epoch l).dsp = s.dsp ∧ (State.sendReads s p epoch l).dio = s.dio ∧
    (State.sendReads s p epoch l).aio = s.aio ∧ (State.sendReads s p epoch l).can = s.can ∧
    (State.sendReads s p epoch l).net = s.net ∧ (State.sendReads s p epoch l).nvs = s.nvs ∧
    (State.sendReads s p epoch l).log = s.log ∧ (State.sendReads s p epoch l).sec = s.sec ∧
    (State.sendReads s p epoch l).upd = s.upd ∧ (State.sendReads s p epoch l).locks = s.locks ∧
    (State.sendReads s p epoch l).regs = s.regs ∧ (State.sendReads s p epoch l).mem = s.mem ∧
    (State.sendReads s p epoch l).cfg = s.cfg ∧ (State.sendReads s p epoch l).resp = s.resp ∧
    (State.sendReads s p epoch l).freeCtr = s.freeCtr ∧ (State.sendReads s p epoch l).pending = s.pending := by
  simpa [Same] using State.sendReads_same s p epoch l

theorem State.sendState_same (s : State) (p : Nat) :
    Same (fun t => (t.sys, t.pwr, t.tb, t.rtc, t.hq, t.evt, t.wb, t.core, t.dbg, t.prg, t.loop, t.slk, t.est, t.prot, t.dsp, t.dio, t.aio, t.can, t.net, t.nvs, t.log, t.sec, t.upd, t.locks, t.regs, t.mem, t.cfg, t.resp, t.freeCtr, t.pending)) s (State.sendState s p) := by
  unfold State.sendState
  (try dsimp only)
  (repeat' split) <;> simp [Same]

@[simp] theorem State.sendState_frame (s : State) (p : Nat) :
    (State.sendState s p).sys = s.sys ∧ (State.sendState s p).pwr = s.pwr ∧ (State.sendState s p).tb = s.tb ∧
    (State.sendState s p).rtc = s.rtc ∧ (State.sendState s p).hq = s.hq ∧ (State.sendState s p).evt = s.evt ∧
    (State.sendState s p).wb = s.wb ∧ (State.sendState s p).core = s.core ∧ (State.sendState s p).dbg = s.dbg ∧
    (State.sendState s p).prg = s.prg ∧ (State.sendState s p).loop = s.loop ∧ (State.sendState s p).slk = s.slk ∧
    (State.sendState s p).est = s.est ∧ (State.sendState s p).prot = s.prot ∧ (State.sendState s p).dsp = s.dsp ∧
    (State.sendState s p).dio = s.dio ∧ (State.sendState s p).aio = s.aio ∧ (State.sendState s p).can = s.can ∧
    (State.sendState s p).net = s.net ∧ (State.sendState s p).nvs = s.nvs ∧ (State.sendState s p).log = s.log ∧
    (State.sendState s p).sec = s.sec ∧ (State.sendState s p).upd = s.upd ∧ (State.sendState s p).locks = s.locks ∧
    (State.sendState s p).regs = s.regs ∧ (State.sendState s p).mem = s.mem ∧ (State.sendState s p).cfg = s.cfg ∧
    (State.sendState s p).resp = s.resp ∧ (State.sendState s p).freeCtr = s.freeCtr ∧ (State.sendState s p).pending = s.pending := by
  simpa [Same] using State.sendState_same s p

theorem State.markLost_same (s : State) (p : Nat) :
    Same (fun t => (t.sys, t.pwr, t.tb, t.rtc, t.hq, t.evt, t.wb, t.core, t.dbg, t.prg, t.loop, t.est, t.prot, t.dsp, t.dio, t.aio, t.can, t.net, t.nvs, t.log, t.sec, t.upd, t.locks, t.regs, t.mem, t.cfg, t.resp, t.out, t.freeCtr, t.pending)) s (State.markLost s p) := by
  unfold State.markLost
  (try dsimp only)
  repeat' first | (with_reducible refine Same.foldl _ _ (fun u x => ?_) ?_) | split
  all_goals simp [Same]

@[simp] theorem State.markLost_frame (s : State) (p : Nat) :
    (State.markLost s p).sys = s.sys ∧ (State.markLost s p).pwr = s.pwr ∧ (State.markLost s p).tb = s.tb ∧
    (State.markLost s p).rtc = s.rtc ∧ (State.markLost s p).hq = s.hq ∧ (State.markLost s p).evt = s.evt ∧
    (State.markLost s p).wb = s.wb ∧ (State.markLost s p).core = s.core ∧ (State.markLost s p).dbg = s.dbg ∧
    (State.markLost s p).prg = s.prg ∧ (State.markLost s p).loop = s.loop ∧ (State.markLost s p).est = s.est ∧
    (State.markLost s p).prot = s.prot ∧ (State.markLost s p).dsp = s.dsp ∧ (State.markLost s p).dio = s.dio ∧
    (State.markLost s p).aio = s.aio ∧ (State.markLost s p).can = s.can ∧ (State.markLost s p).net = s.net ∧
    (State.markLost s p).nvs = s.nvs ∧ (State.markLost s p).log = s.log ∧ (State.markLost s p).sec = s.sec ∧
    (State.markLost s p).upd = s.upd ∧ (State.markLost s p).locks = s.locks ∧ (State.markLost s p).regs = s.regs ∧
    (State.markLost s p).mem = s.mem ∧ (State.markLost s p).cfg = s.cfg ∧ (State.markLost s p).resp = s.resp ∧
    (State.markLost s p).out = s.out ∧ (State.markLost s p).freeCtr = s.freeCtr ∧ (State.markLost s p).pending = s.pending := by
  simpa [Same] using State.markLost_same s p

theorem State.resplit_same (s : State) (p : Nat) :
    Same (fun t => (t.sys, t.pwr, t.tb, t.rtc, t.hq, t.evt, t.wb, t.core, t.dbg, t.prg, t.loop, t.est, t.prot, t.dsp, t.dio, t.aio, t.can, t.net, t.nvs, t.log, t.sec, t.upd, t.locks, t.regs, t.mem, t.cfg, t.resp, t.freeCtr, t.pending)) s (State.resplit s p) := by
  unfold State.resplit
  (try dsimp only)
  (repeat' split) <;> simp [Same]

@[simp] theorem State.resplit_frame (s : State) (p : Nat) :
    (State.resplit s p).sys = s.sys ∧ (State.resplit s p).pwr = s.pwr ∧ (State.resplit s p).tb = s.tb ∧
    (State.resplit s p).rtc = s.rtc ∧ (State.resplit s p).hq = s.hq ∧ (State.resplit s p).evt = s.evt ∧
    (State.resplit s p).wb = s.wb ∧ (State.resplit s p).core = s.core ∧ (State.resplit s p).dbg = s.dbg ∧
    (State.resplit s p).prg = s.prg ∧ (State.resplit s p).loop = s.loop ∧ (State.resplit s p).est = s.est ∧
    (State.resplit s p).prot = s.prot ∧ (State.resplit s p).dsp = s.dsp ∧ (State.resplit s p).dio = s.dio ∧
    (State.resplit s p).aio = s.aio ∧ (State.resplit s p).can = s.can ∧ (State.resplit s p).net = s.net ∧
    (State.resplit s p).nvs = s.nvs ∧ (State.resplit s p).log = s.log ∧ (State.resplit s p).sec = s.sec ∧
    (State.resplit s p).upd = s.upd ∧ (State.resplit s p).locks = s.locks ∧ (State.resplit s p).regs = s.regs ∧
    (State.resplit s p).mem = s.mem ∧ (State.resplit s p).cfg = s.cfg ∧ (State.resplit s p).resp = s.resp ∧
    (State.resplit s p).freeCtr = s.freeCtr ∧ (State.resplit s p).pending = s.pending := by
  simpa [Same] using State.resplit_same s p

theorem State.placeBreak_same (s : State) (p b : Nat) (tell : Bool) :
    Same (fun t => (t.pwr, t.tb, t.rtc, t.hq, t.wb, t.core, t.dbg, t.prg, t.loop, t.est, t.prot, t.dsp, t.dio, t.aio, t.can, t.net, t.nvs, t.sec, t.upd, t.locks, t.regs, t.cfg, t.resp, t.freeCtr, t.pending)) s (State.placeBreak s p b tell) := by
  unfold State.placeBreak
  (try dsimp only)
  (repeat' split) <;> simp [Same]

@[simp] theorem State.placeBreak_frame (s : State) (p b : Nat) (tell : Bool) :
    (State.placeBreak s p b tell).pwr = s.pwr ∧ (State.placeBreak s p b tell).tb = s.tb ∧
    (State.placeBreak s p b tell).rtc = s.rtc ∧ (State.placeBreak s p b tell).hq = s.hq ∧
    (State.placeBreak s p b tell).wb = s.wb ∧ (State.placeBreak s p b tell).core = s.core ∧
    (State.placeBreak s p b tell).dbg = s.dbg ∧ (State.placeBreak s p b tell).prg = s.prg ∧
    (State.placeBreak s p b tell).loop = s.loop ∧ (State.placeBreak s p b tell).est = s.est ∧
    (State.placeBreak s p b tell).prot = s.prot ∧ (State.placeBreak s p b tell).dsp = s.dsp ∧
    (State.placeBreak s p b tell).dio = s.dio ∧ (State.placeBreak s p b tell).aio = s.aio ∧
    (State.placeBreak s p b tell).can = s.can ∧ (State.placeBreak s p b tell).net = s.net ∧
    (State.placeBreak s p b tell).nvs = s.nvs ∧ (State.placeBreak s p b tell).sec = s.sec ∧
    (State.placeBreak s p b tell).upd = s.upd ∧ (State.placeBreak s p b tell).locks = s.locks ∧
    (State.placeBreak s p b tell).regs = s.regs ∧ (State.placeBreak s p b tell).cfg = s.cfg ∧
    (State.placeBreak s p b tell).resp = s.resp ∧ (State.placeBreak s p b tell).freeCtr = s.freeCtr ∧
    (State.placeBreak s p b tell).pending = s.pending := by
  simpa [Same] using State.placeBreak_same s p b tell

theorem State.oneEnded_same (s : State) (p : Nat) :
    Same (fun t => (t.pwr, t.tb, t.rtc, t.hq, t.evt, t.wb, t.core, t.dbg, t.prg, t.loop, t.est, t.prot, t.dsp, t.dio, t.aio, t.can, t.net, t.nvs, t.sec, t.upd, t.locks, t.regs, t.cfg, t.resp, t.freeCtr, t.pending)) s (State.oneEnded s p) := by
  unfold State.oneEnded
  (try dsimp only)
  (repeat' split) <;> simp [Same]

@[simp] theorem State.oneEnded_frame (s : State) (p : Nat) :
    (State.oneEnded s p).pwr = s.pwr ∧ (State.oneEnded s p).tb = s.tb ∧ (State.oneEnded s p).rtc = s.rtc ∧
    (State.oneEnded s p).hq = s.hq ∧ (State.oneEnded s p).evt = s.evt ∧ (State.oneEnded s p).wb = s.wb ∧
    (State.oneEnded s p).core = s.core ∧ (State.oneEnded s p).dbg = s.dbg ∧ (State.oneEnded s p).prg = s.prg ∧
    (State.oneEnded s p).loop = s.loop ∧ (State.oneEnded s p).est = s.est ∧ (State.oneEnded s p).prot = s.prot ∧
    (State.oneEnded s p).dsp = s.dsp ∧ (State.oneEnded s p).dio = s.dio ∧ (State.oneEnded s p).aio = s.aio ∧
    (State.oneEnded s p).can = s.can ∧ (State.oneEnded s p).net = s.net ∧ (State.oneEnded s p).nvs = s.nvs ∧
    (State.oneEnded s p).sec = s.sec ∧ (State.oneEnded s p).upd = s.upd ∧ (State.oneEnded s p).locks = s.locks ∧
    (State.oneEnded s p).regs = s.regs ∧ (State.oneEnded s p).cfg = s.cfg ∧ (State.oneEnded s p).resp = s.resp ∧
    (State.oneEnded s p).freeCtr = s.freeCtr ∧ (State.oneEnded s p).pending = s.pending := by
  simpa [Same] using State.oneEnded_same s p

theorem State.measure_same (s : State) (p : Nat) (l : List Nat) :
    Same (fun t => (t.sys, t.pwr, t.tb, t.rtc, t.hq, t.evt, t.wb, t.core, t.dbg, t.prg, t.loop, t.est, t.prot, t.dsp, t.dio, t.aio, t.can, t.net, t.nvs, t.log, t.sec, t.upd, t.locks, t.regs, t.mem, t.cfg, t.resp, t.freeCtr, t.pending)) s (State.measure s p l) := by
  unfold State.measure
  (try dsimp only)
  repeat' first | (with_reducible refine Same.foldl _ _ (fun u x => ?_) ?_) | split
  all_goals simp [Same]

@[simp] theorem State.measure_frame (s : State) (p : Nat) (l : List Nat) :
    (State.measure s p l).sys = s.sys ∧ (State.measure s p l).pwr = s.pwr ∧ (State.measure s p l).tb = s.tb ∧
    (State.measure s p l).rtc = s.rtc ∧ (State.measure s p l).hq = s.hq ∧ (State.measure s p l).evt = s.evt ∧
    (State.measure s p l).wb = s.wb ∧ (State.measure s p l).core = s.core ∧ (State.measure s p l).dbg = s.dbg ∧
    (State.measure s p l).prg = s.prg ∧ (State.measure s p l).loop = s.loop ∧ (State.measure s p l).est = s.est ∧
    (State.measure s p l).prot = s.prot ∧ (State.measure s p l).dsp = s.dsp ∧ (State.measure s p l).dio = s.dio ∧
    (State.measure s p l).aio = s.aio ∧ (State.measure s p l).can = s.can ∧ (State.measure s p l).net = s.net ∧
    (State.measure s p l).nvs = s.nvs ∧ (State.measure s p l).log = s.log ∧ (State.measure s p l).sec = s.sec ∧
    (State.measure s p l).upd = s.upd ∧ (State.measure s p l).locks = s.locks ∧ (State.measure s p l).regs = s.regs ∧
    (State.measure s p l).mem = s.mem ∧ (State.measure s p l).cfg = s.cfg ∧ (State.measure s p l).resp = s.resp ∧
    (State.measure s p l).freeCtr = s.freeCtr ∧ (State.measure s p l).pending = s.pending := by
  simpa [Same] using State.measure_same s p l

theorem State.silentBreak_same (s : State) (p pos : Nat) (w : Sweep) :
    Same (fun t => (t.pwr, t.tb, t.rtc, t.hq, t.wb, t.core, t.dbg, t.prg, t.loop, t.est, t.prot, t.dsp, t.dio, t.aio, t.can, t.net, t.nvs, t.sec, t.upd, t.locks, t.regs, t.cfg, t.resp, t.freeCtr, t.pending)) s (State.silentBreak s p pos w) := by
  unfold State.silentBreak
  (try dsimp only)
  (repeat' split) <;> simp [Same]

@[simp] theorem State.silentBreak_frame (s : State) (p pos : Nat) (w : Sweep) :
    (State.silentBreak s p pos w).pwr = s.pwr ∧ (State.silentBreak s p pos w).tb = s.tb ∧
    (State.silentBreak s p pos w).rtc = s.rtc ∧ (State.silentBreak s p pos w).hq = s.hq ∧
    (State.silentBreak s p pos w).wb = s.wb ∧ (State.silentBreak s p pos w).core = s.core ∧
    (State.silentBreak s p pos w).dbg = s.dbg ∧ (State.silentBreak s p pos w).prg = s.prg ∧
    (State.silentBreak s p pos w).loop = s.loop ∧ (State.silentBreak s p pos w).est = s.est ∧
    (State.silentBreak s p pos w).prot = s.prot ∧ (State.silentBreak s p pos w).dsp = s.dsp ∧
    (State.silentBreak s p pos w).dio = s.dio ∧ (State.silentBreak s p pos w).aio = s.aio ∧
    (State.silentBreak s p pos w).can = s.can ∧ (State.silentBreak s p pos w).net = s.net ∧
    (State.silentBreak s p pos w).nvs = s.nvs ∧ (State.silentBreak s p pos w).sec = s.sec ∧
    (State.silentBreak s p pos w).upd = s.upd ∧ (State.silentBreak s p pos w).locks = s.locks ∧
    (State.silentBreak s p pos w).regs = s.regs ∧ (State.silentBreak s p pos w).cfg = s.cfg ∧
    (State.silentBreak s p pos w).resp = s.resp ∧ (State.silentBreak s p pos w).freeCtr = s.freeCtr ∧
    (State.silentBreak s p pos w).pending = s.pending := by
  simpa [Same] using State.silentBreak_same s p pos w

theorem State.sampleFails_same (s : State) (p pos : Nat) (silent : Bool) :
    Same (fun t => (t.pwr, t.tb, t.rtc, t.hq, t.wb, t.core, t.dbg, t.prg, t.loop, t.est, t.prot, t.dsp, t.dio, t.aio, t.can, t.net, t.nvs, t.sec, t.upd, t.locks, t.regs, t.cfg, t.resp, t.freeCtr, t.pending)) s (State.sampleFails s p pos silent) := by
  unfold State.sampleFails
  (try dsimp only)
  (repeat' split) <;> simp [Same]

@[simp] theorem State.sampleFails_frame (s : State) (p pos : Nat) (silent : Bool) :
    (State.sampleFails s p pos silent).pwr = s.pwr ∧ (State.sampleFails s p pos silent).tb = s.tb ∧
    (State.sampleFails s p pos silent).rtc = s.rtc ∧ (State.sampleFails s p pos silent).hq = s.hq ∧
    (State.sampleFails s p pos silent).wb = s.wb ∧ (State.sampleFails s p pos silent).core = s.core ∧
    (State.sampleFails s p pos silent).dbg = s.dbg ∧ (State.sampleFails s p pos silent).prg = s.prg ∧
    (State.sampleFails s p pos silent).loop = s.loop ∧ (State.sampleFails s p pos silent).est = s.est ∧
    (State.sampleFails s p pos silent).prot = s.prot ∧ (State.sampleFails s p pos silent).dsp = s.dsp ∧
    (State.sampleFails s p pos silent).dio = s.dio ∧ (State.sampleFails s p pos silent).aio = s.aio ∧
    (State.sampleFails s p pos silent).can = s.can ∧ (State.sampleFails s p pos silent).net = s.net ∧
    (State.sampleFails s p pos silent).nvs = s.nvs ∧ (State.sampleFails s p pos silent).sec = s.sec ∧
    (State.sampleFails s p pos silent).upd = s.upd ∧ (State.sampleFails s p pos silent).locks = s.locks ∧
    (State.sampleFails s p pos silent).regs = s.regs ∧ (State.sampleFails s p pos silent).cfg = s.cfg ∧
    (State.sampleFails s p pos silent).resp = s.resp ∧ (State.sampleFails s p pos silent).freeCtr = s.freeCtr ∧
    (State.sampleFails s p pos silent).pending = s.pending := by
  simpa [Same] using State.sampleFails_same s p pos silent

theorem State.putCmd_same (s : State) (p pos : Nat) (c : NodeCmd) :
    Same (fun t => (t.sys, t.pwr, t.tb, t.rtc, t.hq, t.evt, t.wb, t.core, t.dbg, t.prg, t.loop, t.slk, t.est, t.prot, t.dsp, t.dio, t.aio, t.can, t.net, t.nvs, t.log, t.sec, t.upd, t.locks, t.regs, t.mem, t.cfg, t.resp, t.freeCtr, t.pending)) s (State.putCmd s p pos c) := by
  unfold State.putCmd
  (try dsimp only)
  (repeat' split) <;> simp [Same]

@[simp] theorem State.putCmd_frame (s : State) (p pos : Nat) (c : NodeCmd) :
    (State.putCmd s p pos c).sys = s.sys ∧ (State.putCmd s p pos c).pwr = s.pwr ∧ (State.putCmd s p pos c).tb = s.tb ∧
    (State.putCmd s p pos c).rtc = s.rtc ∧ (State.putCmd s p pos c).hq = s.hq ∧ (State.putCmd s p pos c).evt = s.evt ∧
    (State.putCmd s p pos c).wb = s.wb ∧ (State.putCmd s p pos c).core = s.core ∧ (State.putCmd s p pos c).dbg = s.dbg ∧
    (State.putCmd s p pos c).prg = s.prg ∧ (State.putCmd s p pos c).loop = s.loop ∧ (State.putCmd s p pos c).slk = s.slk ∧
    (State.putCmd s p pos c).est = s.est ∧ (State.putCmd s p pos c).prot = s.prot ∧ (State.putCmd s p pos c).dsp = s.dsp ∧
    (State.putCmd s p pos c).dio = s.dio ∧ (State.putCmd s p pos c).aio = s.aio ∧ (State.putCmd s p pos c).can = s.can ∧
    (State.putCmd s p pos c).net = s.net ∧ (State.putCmd s p pos c).nvs = s.nvs ∧ (State.putCmd s p pos c).log = s.log ∧
    (State.putCmd s p pos c).sec = s.sec ∧ (State.putCmd s p pos c).upd = s.upd ∧ (State.putCmd s p pos c).locks = s.locks ∧
    (State.putCmd s p pos c).regs = s.regs ∧ (State.putCmd s p pos c).mem = s.mem ∧ (State.putCmd s p pos c).cfg = s.cfg ∧
    (State.putCmd s p pos c).resp = s.resp ∧ (State.putCmd s p pos c).freeCtr = s.freeCtr ∧
    (State.putCmd s p pos c).pending = s.pending := by
  simpa [Same] using State.putCmd_same s p pos c

theorem State.sendCmd_same (s : State) (p pos : Nat) (c : NodeCmd) :
    Same (fun t => (t.sys, t.pwr, t.tb, t.rtc, t.hq, t.evt, t.wb, t.core, t.dbg, t.prg, t.loop, t.est, t.prot, t.dsp, t.dio, t.aio, t.can, t.net, t.nvs, t.log, t.sec, t.upd, t.locks, t.regs, t.mem, t.cfg, t.resp, t.freeCtr, t.pending)) s (State.sendCmd s p pos c) := by
  unfold State.sendCmd
  (try dsimp only)
  (repeat' split) <;> simp [Same]

@[simp] theorem State.sendCmd_frame (s : State) (p pos : Nat) (c : NodeCmd) :
    (State.sendCmd s p pos c).sys = s.sys ∧ (State.sendCmd s p pos c).pwr = s.pwr ∧ (State.sendCmd s p pos c).tb = s.tb ∧
    (State.sendCmd s p pos c).rtc = s.rtc ∧ (State.sendCmd s p pos c).hq = s.hq ∧ (State.sendCmd s p pos c).evt = s.evt ∧
    (State.sendCmd s p pos c).wb = s.wb ∧ (State.sendCmd s p pos c).core = s.core ∧ (State.sendCmd s p pos c).dbg = s.dbg ∧
    (State.sendCmd s p pos c).prg = s.prg ∧ (State.sendCmd s p pos c).loop = s.loop ∧ (State.sendCmd s p pos c).est = s.est ∧
    (State.sendCmd s p pos c).prot = s.prot ∧ (State.sendCmd s p pos c).dsp = s.dsp ∧ (State.sendCmd s p pos c).dio = s.dio ∧
    (State.sendCmd s p pos c).aio = s.aio ∧ (State.sendCmd s p pos c).can = s.can ∧ (State.sendCmd s p pos c).net = s.net ∧
    (State.sendCmd s p pos c).nvs = s.nvs ∧ (State.sendCmd s p pos c).log = s.log ∧ (State.sendCmd s p pos c).sec = s.sec ∧
    (State.sendCmd s p pos c).upd = s.upd ∧ (State.sendCmd s p pos c).locks = s.locks ∧
    (State.sendCmd s p pos c).regs = s.regs ∧ (State.sendCmd s p pos c).mem = s.mem ∧ (State.sendCmd s p pos c).cfg = s.cfg ∧
    (State.sendCmd s p pos c).resp = s.resp ∧ (State.sendCmd s p pos c).freeCtr = s.freeCtr ∧
    (State.sendCmd s p pos c).pending = s.pending := by
  simpa [Same] using State.sendCmd_same s p pos c

theorem State.queueCmd_same (s : State) (p pos : Nat) (c : NodeCmd) :
    Same (fun t => (t.sys, t.pwr, t.tb, t.rtc, t.hq, t.evt, t.wb, t.core, t.dbg, t.prg, t.loop, t.est, t.prot, t.dsp, t.dio, t.aio, t.can, t.net, t.nvs, t.log, t.sec, t.upd, t.locks, t.regs, t.mem, t.cfg, t.resp, t.out, t.freeCtr, t.pending)) s (State.queueCmd s p pos c) := by
  unfold State.queueCmd
  (try dsimp only)
  (repeat' split) <;> simp [Same]

@[simp] theorem State.queueCmd_frame (s : State) (p pos : Nat) (c : NodeCmd) :
    (State.queueCmd s p pos c).sys = s.sys ∧ (State.queueCmd s p pos c).pwr = s.pwr ∧ (State.queueCmd s p pos c).tb = s.tb ∧
    (State.queueCmd s p pos c).rtc = s.rtc ∧ (State.queueCmd s p pos c).hq = s.hq ∧ (State.queueCmd s p pos c).evt = s.evt ∧
    (State.queueCmd s p pos c).wb = s.wb ∧ (State.queueCmd s p pos c).core = s.core ∧ (State.queueCmd s p pos c).dbg = s.dbg ∧
    (State.queueCmd s p pos c).prg = s.prg ∧ (State.queueCmd s p pos c).loop = s.loop ∧ (State.queueCmd s p pos c).est = s.est ∧
    (State.queueCmd s p pos c).prot = s.prot ∧ (State.queueCmd s p pos c).dsp = s.dsp ∧ (State.queueCmd s p pos c).dio = s.dio ∧
    (State.queueCmd s p pos c).aio = s.aio ∧ (State.queueCmd s p pos c).can = s.can ∧ (State.queueCmd s p pos c).net = s.net ∧
    (State.queueCmd s p pos c).nvs = s.nvs ∧ (State.queueCmd s p pos c).log = s.log ∧ (State.queueCmd s p pos c).sec = s.sec ∧
    (State.queueCmd s p pos c).upd = s.upd ∧ (State.queueCmd s p pos c).locks = s.locks ∧
    (State.queueCmd s p pos c).regs = s.regs ∧ (State.queueCmd s p pos c).mem = s.mem ∧ (State.queueCmd s p pos c).cfg = s.cfg ∧
    (State.queueCmd s p pos c).resp = s.resp ∧ (State.queueCmd s p pos c).out = s.out ∧
    (State.queueCmd s p pos c).freeCtr = s.freeCtr ∧ (State.queueCmd s p pos c).pending = s.pending := by
  simpa [Same] using State.queueCmd_same s p pos c

theorem State.sendQueued_same (s : State) (p : Nat) (left : Option Nat) (a0 : List (Nat × NodeCmd)) :
    Same (fun t => (t.sys, t.pwr, t.tb, t.rtc, t.hq, t.evt, t.wb, t.core, t.dbg, t.prg, t.loop, t.est, t.prot, t.dsp, t.dio, t.aio, t.can, t.net, t.nvs, t.log, t.sec, t.upd, t.locks, t.regs, t.mem, t.cfg, t.resp, t.freeCtr, t.pending)) s (State.sendQueued s p left a0) := by
  simp only [Same]
  induction a0 generalizing s p left with
  | nil => simp [State.sendQueued]
  | cons y ys ih =>
    rw [State.sendQueued]
    (try dsimp only)
    (repeat' split) <;> simp [ih]

@[simp] theorem State.sendQueued_frame (s : State) (p : Nat) (left : Option Nat) (a0 : List (Nat × NodeCmd)) :
    (State.sendQueued s p left a0).sys = s.sys ∧ (State.sendQueued s p left a0).pwr = s.pwr ∧
    (State.sendQueued s p left a0).tb = s.tb ∧ (State.sendQueued s p left a0).rtc = s.rtc ∧
    (State.sendQueued s p left a0).hq = s.hq ∧ (State.sendQueued s p left a0).evt = s.evt ∧
    (State.sendQueued s p left a0).wb = s.wb ∧ (State.sendQueued s p left a0).core = s.core ∧
    (State.sendQueued s p left a0).dbg = s.dbg ∧ (State.sendQueued s p left a0).prg = s.prg ∧
    (State.sendQueued s p left a0).loop = s.loop ∧ (State.sendQueued s p left a0).est = s.est ∧
    (State.sendQueued s p left a0).prot = s.prot ∧ (State.sendQueued s p left a0).dsp = s.dsp ∧
    (State.sendQueued s p left a0).dio = s.dio ∧ (State.sendQueued s p left a0).aio = s.aio ∧
    (State.sendQueued s p left a0).can = s.can ∧ (State.sendQueued s p left a0).net = s.net ∧
    (State.sendQueued s p left a0).nvs = s.nvs ∧ (State.sendQueued s p left a0).log = s.log ∧
    (State.sendQueued s p left a0).sec = s.sec ∧ (State.sendQueued s p left a0).upd = s.upd ∧
    (State.sendQueued s p left a0).locks = s.locks ∧ (State.sendQueued s p left a0).regs = s.regs ∧
    (State.sendQueued s p left a0).mem = s.mem ∧ (State.sendQueued s p left a0).cfg = s.cfg ∧
    (State.sendQueued s p left a0).resp = s.resp ∧ (State.sendQueued s p left a0).freeCtr = s.freeCtr ∧
    (State.sendQueued s p left a0).pending = s.pending := by
  simpa [Same] using State.sendQueued_same s p left a0

theorem State.judgeTap_same (s : State) (p pos j : Nat) (readings : List Nat) :
    Same (fun t => (t.pwr, t.tb, t.rtc, t.hq, t.evt, t.wb, t.core, t.dbg, t.prg, t.loop, t.est, t.prot, t.dsp, t.dio, t.aio, t.can, t.net, t.nvs, t.sec, t.upd, t.locks, t.regs, t.cfg, t.resp, t.out, t.freeCtr, t.pending)) s (State.judgeTap s p pos j readings) := by
  unfold State.judgeTap
  (try dsimp only)
  (repeat' split) <;> simp [Same]

@[simp] theorem State.judgeTap_frame (s : State) (p pos j : Nat) (readings : List Nat) :
    (State.judgeTap s p pos j readings).pwr = s.pwr ∧ (State.judgeTap s p pos j readings).tb = s.tb ∧
    (State.judgeTap s p pos j readings).rtc = s.rtc ∧ (State.judgeTap s p pos j readings).hq = s.hq ∧
    (State.judgeTap s p pos j readings).evt = s.evt ∧ (State.judgeTap s p pos j readings).wb = s.wb ∧
    (State.judgeTap s p pos j readings).core = s.core ∧ (State.judgeTap s p pos j readings).dbg = s.dbg ∧
    (State.judgeTap s p pos j readings).prg = s.prg ∧ (State.judgeTap s p pos j readings).loop = s.loop ∧
    (State.judgeTap s p pos j readings).est = s.est ∧ (State.judgeTap s p pos j readings).prot = s.prot ∧
    (State.judgeTap s p pos j readings).dsp = s.dsp ∧ (State.judgeTap s p pos j readings).dio = s.dio ∧
    (State.judgeTap s p pos j readings).aio = s.aio ∧ (State.judgeTap s p pos j readings).can = s.can ∧
    (State.judgeTap s p pos j readings).net = s.net ∧ (State.judgeTap s p pos j readings).nvs = s.nvs ∧
    (State.judgeTap s p pos j readings).sec = s.sec ∧ (State.judgeTap s p pos j readings).upd = s.upd ∧
    (State.judgeTap s p pos j readings).locks = s.locks ∧ (State.judgeTap s p pos j readings).regs = s.regs ∧
    (State.judgeTap s p pos j readings).cfg = s.cfg ∧ (State.judgeTap s p pos j readings).resp = s.resp ∧
    (State.judgeTap s p pos j readings).out = s.out ∧ (State.judgeTap s p pos j readings).freeCtr = s.freeCtr ∧
    (State.judgeTap s p pos j readings).pending = s.pending := by
  simpa [Same] using State.judgeTap_same s p pos j readings

theorem State.acked_same (s : State) (p pos : Nat) (c : NodeCmd) (result : Nat) (readings : List Nat) :
    Same (fun t => (t.pwr, t.tb, t.rtc, t.hq, t.evt, t.wb, t.core, t.dbg, t.prg, t.loop, t.est, t.prot, t.dsp, t.dio, t.aio, t.can, t.net, t.nvs, t.sec, t.upd, t.locks, t.regs, t.cfg, t.resp, t.out, t.freeCtr, t.pending)) s (State.acked s p pos c result readings) := by
  unfold State.acked
  (try dsimp only)
  (repeat' split) <;> simp [Same]

@[simp] theorem State.acked_frame (s : State) (p pos : Nat) (c : NodeCmd) (result : Nat) (readings : List Nat) :
    (State.acked s p pos c result readings).pwr = s.pwr ∧ (State.acked s p pos c result readings).tb = s.tb ∧
    (State.acked s p pos c result readings).rtc = s.rtc ∧ (State.acked s p pos c result readings).hq = s.hq ∧
    (State.acked s p pos c result readings).evt = s.evt ∧ (State.acked s p pos c result readings).wb = s.wb ∧
    (State.acked s p pos c result readings).core = s.core ∧ (State.acked s p pos c result readings).dbg = s.dbg ∧
    (State.acked s p pos c result readings).prg = s.prg ∧ (State.acked s p pos c result readings).loop = s.loop ∧
    (State.acked s p pos c result readings).est = s.est ∧ (State.acked s p pos c result readings).prot = s.prot ∧
    (State.acked s p pos c result readings).dsp = s.dsp ∧ (State.acked s p pos c result readings).dio = s.dio ∧
    (State.acked s p pos c result readings).aio = s.aio ∧ (State.acked s p pos c result readings).can = s.can ∧
    (State.acked s p pos c result readings).net = s.net ∧ (State.acked s p pos c result readings).nvs = s.nvs ∧
    (State.acked s p pos c result readings).sec = s.sec ∧ (State.acked s p pos c result readings).upd = s.upd ∧
    (State.acked s p pos c result readings).locks = s.locks ∧ (State.acked s p pos c result readings).regs = s.regs ∧
    (State.acked s p pos c result readings).cfg = s.cfg ∧ (State.acked s p pos c result readings).resp = s.resp ∧
    (State.acked s p pos c result readings).out = s.out ∧ (State.acked s p pos c result readings).freeCtr = s.freeCtr ∧
    (State.acked s p pos c result readings).pending = s.pending := by
  simpa [Same] using State.acked_same s p pos c result readings

theorem State.writeDelay_same (s : State) (p pos : Nat) (ld : Nat) :
    Same (fun t => (t.sys, t.pwr, t.tb, t.rtc, t.hq, t.evt, t.wb, t.core, t.dbg, t.prg, t.loop, t.est, t.prot, t.dsp, t.dio, t.aio, t.can, t.net, t.nvs, t.log, t.sec, t.upd, t.locks, t.regs, t.mem, t.cfg, t.resp, t.freeCtr, t.pending)) s (State.writeDelay s p pos ld) := by
  unfold State.writeDelay
  (try dsimp only)
  (repeat' split) <;> simp [Same]

@[simp] theorem State.writeDelay_frame (s : State) (p pos : Nat) (ld : Nat) :
    (State.writeDelay s p pos ld).sys = s.sys ∧ (State.writeDelay s p pos ld).pwr = s.pwr ∧
    (State.writeDelay s p pos ld).tb = s.tb ∧ (State.writeDelay s p pos ld).rtc = s.rtc ∧
    (State.writeDelay s p pos ld).hq = s.hq ∧ (State.writeDelay s p pos ld).evt = s.evt ∧
    (State.writeDelay s p pos ld).wb = s.wb ∧ (State.writeDelay s p pos ld).core = s.core ∧
    (State.writeDelay s p pos ld).dbg = s.dbg ∧ (State.writeDelay s p pos ld).prg = s.prg ∧
    (State.writeDelay s p pos ld).loop = s.loop ∧ (State.writeDelay s p pos ld).est = s.est ∧
    (State.writeDelay s p pos ld).prot = s.prot ∧ (State.writeDelay s p pos ld).dsp = s.dsp ∧
    (State.writeDelay s p pos ld).dio = s.dio ∧ (State.writeDelay s p pos ld).aio = s.aio ∧
    (State.writeDelay s p pos ld).can = s.can ∧ (State.writeDelay s p pos ld).net = s.net ∧
    (State.writeDelay s p pos ld).nvs = s.nvs ∧ (State.writeDelay s p pos ld).log = s.log ∧
    (State.writeDelay s p pos ld).sec = s.sec ∧ (State.writeDelay s p pos ld).upd = s.upd ∧
    (State.writeDelay s p pos ld).locks = s.locks ∧ (State.writeDelay s p pos ld).regs = s.regs ∧
    (State.writeDelay s p pos ld).mem = s.mem ∧ (State.writeDelay s p pos ld).cfg = s.cfg ∧
    (State.writeDelay s p pos ld).resp = s.resp ∧ (State.writeDelay s p pos ld).freeCtr = s.freeCtr ∧
    (State.writeDelay s p pos ld).pending = s.pending := by
  simpa [Same] using State.writeDelay_same s p pos ld

theorem State.enumFails_same (s : State) (p reason : Nat) :
    Same (fun t => (t.pwr, t.tb, t.rtc, t.core, t.dbg, t.prg, t.loop, t.est, t.prot, t.dsp, t.dio, t.aio, t.can, t.net, t.nvs, t.sec, t.upd, t.locks, t.regs, t.cfg, t.resp, t.freeCtr, t.pending)) s (State.enumFails s p reason) := by
  unfold State.enumFails
  (try dsimp only)
  (repeat' split) <;> simp [Same]

@[simp] theorem State.enumFails_frame (s : State) (p reason : Nat) :
    (State.enumFails s p reason).pwr = s.pwr ∧ (State.enumFails s p reason).tb = s.tb ∧
    (State.enumFails s p reason).rtc = s.rtc ∧ (State.enumFails s p reason).core = s.core ∧
    (State.enumFails s p reason).dbg = s.dbg ∧ (State.enumFails s p reason).prg = s.prg ∧
    (State.enumFails s p reason).loop = s.loop ∧ (State.enumFails s p reason).est = s.est ∧
    (State.enumFails s p reason).prot = s.prot ∧ (State.enumFails s p reason).dsp = s.dsp ∧
    (State.enumFails s p reason).dio = s.dio ∧ (State.enumFails s p reason).aio = s.aio ∧
    (State.enumFails s p reason).can = s.can ∧ (State.enumFails s p reason).net = s.net ∧
    (State.enumFails s p reason).nvs = s.nvs ∧ (State.enumFails s p reason).sec = s.sec ∧
    (State.enumFails s p reason).upd = s.upd ∧ (State.enumFails s p reason).locks = s.locks ∧
    (State.enumFails s p reason).regs = s.regs ∧ (State.enumFails s p reason).cfg = s.cfg ∧
    (State.enumFails s p reason).resp = s.resp ∧ (State.enumFails s p reason).freeCtr = s.freeCtr ∧
    (State.enumFails s p reason).pending = s.pending := by
  simpa [Same] using State.enumFails_same s p reason

theorem State.queueBlock1_same (s : State) (p : Nat) :
    Same (fun t => (t.sys, t.pwr, t.tb, t.rtc, t.hq, t.evt, t.wb, t.core, t.dbg, t.prg, t.loop, t.est, t.prot, t.dsp, t.dio, t.aio, t.can, t.net, t.nvs, t.log, t.sec, t.upd, t.locks, t.regs, t.mem, t.cfg, t.resp, t.out, t.freeCtr, t.pending)) s (State.queueBlock1 s p) := by
  unfold State.queueBlock1
  (try dsimp only)
  repeat' first | (with_reducible refine Same.foldl _ _ (fun u x => ?_) ?_) | split
  all_goals simp [Same]

@[simp] theorem State.queueBlock1_frame (s : State) (p : Nat) :
    (State.queueBlock1 s p).sys = s.sys ∧ (State.queueBlock1 s p).pwr = s.pwr ∧ (State.queueBlock1 s p).tb = s.tb ∧
    (State.queueBlock1 s p).rtc = s.rtc ∧ (State.queueBlock1 s p).hq = s.hq ∧ (State.queueBlock1 s p).evt = s.evt ∧
    (State.queueBlock1 s p).wb = s.wb ∧ (State.queueBlock1 s p).core = s.core ∧ (State.queueBlock1 s p).dbg = s.dbg ∧
    (State.queueBlock1 s p).prg = s.prg ∧ (State.queueBlock1 s p).loop = s.loop ∧ (State.queueBlock1 s p).est = s.est ∧
    (State.queueBlock1 s p).prot = s.prot ∧ (State.queueBlock1 s p).dsp = s.dsp ∧ (State.queueBlock1 s p).dio = s.dio ∧
    (State.queueBlock1 s p).aio = s.aio ∧ (State.queueBlock1 s p).can = s.can ∧ (State.queueBlock1 s p).net = s.net ∧
    (State.queueBlock1 s p).nvs = s.nvs ∧ (State.queueBlock1 s p).log = s.log ∧ (State.queueBlock1 s p).sec = s.sec ∧
    (State.queueBlock1 s p).upd = s.upd ∧ (State.queueBlock1 s p).locks = s.locks ∧ (State.queueBlock1 s p).regs = s.regs ∧
    (State.queueBlock1 s p).mem = s.mem ∧ (State.queueBlock1 s p).cfg = s.cfg ∧ (State.queueBlock1 s p).resp = s.resp ∧
    (State.queueBlock1 s p).out = s.out ∧ (State.queueBlock1 s p).freeCtr = s.freeCtr ∧
    (State.queueBlock1 s p).pending = s.pending := by
  simpa [Same] using State.queueBlock1_same s p

theorem State.queueBlock2_same (s : State) (p : Nat) :
    Same (fun t => (t.sys, t.pwr, t.tb, t.rtc, t.hq, t.evt, t.wb, t.core, t.dbg, t.prg, t.loop, t.est, t.prot, t.dsp, t.dio, t.aio, t.can, t.net, t.nvs, t.log, t.sec, t.upd, t.locks, t.regs, t.mem, t.cfg, t.resp, t.out, t.pending)) s (State.queueBlock2 s p) := by
  unfold State.queueBlock2
  (try dsimp only)
  repeat' first | (with_reducible refine Same.foldl _ _ (fun u x => ?_) ?_) | split
  all_goals simp [Same]

@[simp] theorem State.queueBlock2_frame (s : State) (p : Nat) :
    (State.queueBlock2 s p).sys = s.sys ∧ (State.queueBlock2 s p).pwr = s.pwr ∧ (State.queueBlock2 s p).tb = s.tb ∧
    (State.queueBlock2 s p).rtc = s.rtc ∧ (State.queueBlock2 s p).hq = s.hq ∧ (State.queueBlock2 s p).evt = s.evt ∧
    (State.queueBlock2 s p).wb = s.wb ∧ (State.queueBlock2 s p).core = s.core ∧ (State.queueBlock2 s p).dbg = s.dbg ∧
    (State.queueBlock2 s p).prg = s.prg ∧ (State.queueBlock2 s p).loop = s.loop ∧ (State.queueBlock2 s p).est = s.est ∧
    (State.queueBlock2 s p).prot = s.prot ∧ (State.queueBlock2 s p).dsp = s.dsp ∧ (State.queueBlock2 s p).dio = s.dio ∧
    (State.queueBlock2 s p).aio = s.aio ∧ (State.queueBlock2 s p).can = s.can ∧ (State.queueBlock2 s p).net = s.net ∧
    (State.queueBlock2 s p).nvs = s.nvs ∧ (State.queueBlock2 s p).log = s.log ∧ (State.queueBlock2 s p).sec = s.sec ∧
    (State.queueBlock2 s p).upd = s.upd ∧ (State.queueBlock2 s p).locks = s.locks ∧ (State.queueBlock2 s p).regs = s.regs ∧
    (State.queueBlock2 s p).mem = s.mem ∧ (State.queueBlock2 s p).cfg = s.cfg ∧ (State.queueBlock2 s p).resp = s.resp ∧
    (State.queueBlock2 s p).out = s.out ∧ (State.queueBlock2 s p).pending = s.pending := by
  simpa [Same] using State.queueBlock2_same s p

end Sys2Proof.Machine
end

