-- ==== Sys2Proof/Laws/Frame/Estimator.lean ====
section
/-! SUPPORT. The parts of the state that operations of Machine/Estimator.lean leave as they are. -/

namespace Sys2Proof.Machine

theorem State.writeResults_same (s : State) (p epoch : Nat) :
    Same (fun t => (t.sys, t.pwr, t.tb, t.rtc, t.hq, t.evt, t.wb, t.core, t.dbg, t.prg, t.loop, t.slk, t.prot, t.dsp, t.dio, t.aio, t.can, t.net, t.nvs, t.log, t.sec, t.upd, t.locks, t.regs, t.cfg, t.resp, t.out, t.freeCtr, t.pending)) s (State.writeResults s p epoch) := by
  unfold State.writeResults
  (try dsimp only)
  repeat' first | (with_reducible refine Same.foldl _ _ (fun u x => ?_) ?_) | split
  all_goals simp [Same]

@[simp] theorem State.writeResults_frame (s : State) (p epoch : Nat) :
    (State.writeResults s p epoch).sys = s.sys ∧ (State.writeResults s p epoch).pwr = s.pwr ∧
    (State.writeResults s p epoch).tb = s.tb ∧ (State.writeResults s p epoch).rtc = s.rtc ∧
    (State.writeResults s p epoch).hq = s.hq ∧ (State.writeResults s p epoch).evt = s.evt ∧
    (State.writeResults s p epoch).wb = s.wb ∧ (State.writeResults s p epoch).core = s.core ∧
    (State.writeResults s p epoch).dbg = s.dbg ∧ (State.writeResults s p epoch).prg = s.prg ∧
    (State.writeResults s p epoch).loop = s.loop ∧ (State.writeResults s p epoch).slk = s.slk ∧
    (State.writeResults s p epoch).prot = s.prot ∧ (State.writeResults s p epoch).dsp = s.dsp ∧
    (State.writeResults s p epoch).dio = s.dio ∧ (State.writeResults s p epoch).aio = s.aio ∧
    (State.writeResults s p epoch).can = s.can ∧ (State.writeResults s p epoch).net = s.net ∧
    (State.writeResults s p epoch).nvs = s.nvs ∧ (State.writeResults s p epoch).log = s.log ∧
    (State.writeResults s p epoch).sec = s.sec ∧ (State.writeResults s p epoch).upd = s.upd ∧
    (State.writeResults s p epoch).locks = s.locks ∧ (State.writeResults s p epoch).regs = s.regs ∧
    (State.writeResults s p epoch).cfg = s.cfg ∧ (State.writeResults s p epoch).resp = s.resp ∧
    (State.writeResults s p epoch).out = s.out ∧ (State.writeResults s p epoch).freeCtr = s.freeCtr ∧
    (State.writeResults s p epoch).pending = s.pending := by
  simpa [Same] using State.writeResults_same s p epoch

theorem State.markBlind_same (s : State) :
    Same (fun t => (t.sys, t.pwr, t.tb, t.rtc, t.hq, t.evt, t.wb, t.core, t.dbg, t.prg, t.loop, t.slk, t.prot, t.dsp, t.dio, t.aio, t.can, t.net, t.nvs, t.log, t.sec, t.upd, t.locks, t.regs, t.mem, t.cfg, t.resp, t.out, t.freeCtr, t.pending)) s (State.markBlind s) := by
  unfold State.markBlind
  (try dsimp only)
  (repeat' split) <;> simp [Same]

@[simp] theorem State.markBlind_frame (s : State) :
    (State.markBlind s).sys = s.sys ∧ (State.markBlind s).pwr = s.pwr ∧ (State.markBlind s).tb = s.tb ∧
    (State.markBlind s).rtc = s.rtc ∧ (State.markBlind s).hq = s.hq ∧ (State.markBlind s).evt = s.evt ∧
    (State.markBlind s).wb = s.wb ∧ (State.markBlind s).core = s.core ∧ (State.markBlind s).dbg = s.dbg ∧
    (State.markBlind s).prg = s.prg ∧ (State.markBlind s).loop = s.loop ∧ (State.markBlind s).slk = s.slk ∧
    (State.markBlind s).prot = s.prot ∧ (State.markBlind s).dsp = s.dsp ∧ (State.markBlind s).dio = s.dio ∧
    (State.markBlind s).aio = s.aio ∧ (State.markBlind s).can = s.can ∧ (State.markBlind s).net = s.net ∧
    (State.markBlind s).nvs = s.nvs ∧ (State.markBlind s).log = s.log ∧ (State.markBlind s).sec = s.sec ∧
    (State.markBlind s).upd = s.upd ∧ (State.markBlind s).locks = s.locks ∧ (State.markBlind s).regs = s.regs ∧
    (State.markBlind s).mem = s.mem ∧ (State.markBlind s).cfg = s.cfg ∧ (State.markBlind s).resp = s.resp ∧
    (State.markBlind s).out = s.out ∧ (State.markBlind s).freeCtr = s.freeCtr ∧ (State.markBlind s).pending = s.pending := by
  simpa [Same] using State.markBlind_same s

theorem State.rsOutlier_same (s : State) (idx : Nat) (c : Cell) :
    Same (fun t => (t.pwr, t.tb, t.rtc, t.hq, t.evt, t.wb, t.core, t.dbg, t.prg, t.loop, t.slk, t.prot, t.dsp, t.dio, t.aio, t.can, t.net, t.nvs, t.sec, t.upd, t.locks, t.regs, t.cfg, t.resp, t.out, t.freeCtr, t.pending)) s (State.rsOutlier s idx c) := by
  unfold State.rsOutlier
  (try dsimp only)
  (repeat' split) <;> simp [Same]

@[simp] theorem State.rsOutlier_frame (s : State) (idx : Nat) (c : Cell) :
    (State.rsOutlier s idx c).pwr = s.pwr ∧ (State.rsOutlier s idx c).tb = s.tb ∧ (State.rsOutlier s idx c).rtc = s.rtc ∧
    (State.rsOutlier s idx c).hq = s.hq ∧ (State.rsOutlier s idx c).evt = s.evt ∧ (State.rsOutlier s idx c).wb = s.wb ∧
    (State.rsOutlier s idx c).core = s.core ∧ (State.rsOutlier s idx c).dbg = s.dbg ∧ (State.rsOutlier s idx c).prg = s.prg ∧
    (State.rsOutlier s idx c).loop = s.loop ∧ (State.rsOutlier s idx c).slk = s.slk ∧ (State.rsOutlier s idx c).prot = s.prot ∧
    (State.rsOutlier s idx c).dsp = s.dsp ∧ (State.rsOutlier s idx c).dio = s.dio ∧ (State.rsOutlier s idx c).aio = s.aio ∧
    (State.rsOutlier s idx c).can = s.can ∧ (State.rsOutlier s idx c).net = s.net ∧ (State.rsOutlier s idx c).nvs = s.nvs ∧
    (State.rsOutlier s idx c).sec = s.sec ∧ (State.rsOutlier s idx c).upd = s.upd ∧ (State.rsOutlier s idx c).locks = s.locks ∧
    (State.rsOutlier s idx c).regs = s.regs ∧ (State.rsOutlier s idx c).cfg = s.cfg ∧ (State.rsOutlier s idx c).resp = s.resp ∧
    (State.rsOutlier s idx c).out = s.out ∧ (State.rsOutlier s idx c).freeCtr = s.freeCtr ∧
    (State.rsOutlier s idx c).pending = s.pending := by
  simpa [Same] using State.rsOutlier_same s idx c

theorem State.paramStep_same (s : State) (epoch idx : Nat) (o : Cell) :
    Same (fun t => (t.pwr, t.tb, t.rtc, t.hq, t.wb, t.core, t.dbg, t.prg, t.loop, t.slk, t.prot, t.dsp, t.dio, t.aio, t.can, t.net, t.nvs, t.sec, t.upd, t.locks, t.regs, t.cfg, t.resp, t.freeCtr, t.pending)) s (State.paramStep s epoch idx o) := by
  unfold State.paramStep
  (try dsimp only)
  (repeat' split) <;> simp [Same]

@[simp] theorem State.paramStep_frame (s : State) (epoch idx : Nat) (o : Cell) :
    (State.paramStep s epoch idx o).pwr = s.pwr ∧ (State.paramStep s epoch idx o).tb = s.tb ∧
    (State.paramStep s epoch idx o).rtc = s.rtc ∧ (State.paramStep s epoch idx o).hq = s.hq ∧
    (State.paramStep s epoch idx o).wb = s.wb ∧ (State.paramStep s epoch idx o).core = s.core ∧
    (State.paramStep s epoch idx o).dbg = s.dbg ∧ (State.paramStep s epoch idx o).prg = s.prg ∧
    (State.paramStep s epoch idx o).loop = s.loop ∧ (State.paramStep s epoch idx o).slk = s.slk ∧
    (State.paramStep s epoch idx o).prot = s.prot ∧ (State.paramStep s epoch idx o).dsp = s.dsp ∧
    (State.paramStep s epoch idx o).dio = s.dio ∧ (State.paramStep s epoch idx o).aio = s.aio ∧
    (State.paramStep s epoch idx o).can = s.can ∧ (State.paramStep s epoch idx o).net = s.net ∧
    (State.paramStep s epoch idx o).nvs = s.nvs ∧ (State.paramStep s epoch idx o).sec = s.sec ∧
    (State.paramStep s epoch idx o).upd = s.upd ∧ (State.paramStep s epoch idx o).locks = s.locks ∧
    (State.paramStep s epoch idx o).regs = s.regs ∧ (State.paramStep s epoch idx o).cfg = s.cfg ∧
    (State.paramStep s epoch idx o).resp = s.resp ∧ (State.paramStep s epoch idx o).freeCtr = s.freeCtr ∧
    (State.paramStep s epoch idx o).pending = s.pending := by
  simpa [Same] using State.paramStep_same s epoch idx o

theorem State.planNode_same (s : State) (cap : Nat) (rate : F32) (p pos : Nat) :
    Same (fun t => (t.sys, t.pwr, t.tb, t.rtc, t.hq, t.evt, t.wb, t.core, t.dbg, t.prg, t.loop, t.prot, t.dsp, t.dio, t.aio, t.can, t.net, t.nvs, t.log, t.sec, t.upd, t.locks, t.regs, t.mem, t.cfg, t.resp, t.out, t.freeCtr, t.pending)) s (State.planNode s cap rate p pos) := by
  unfold State.planNode
  (try dsimp only)
  (repeat' split) <;> simp [Same]

@[simp] theorem State.planNode_frame (s : State) (cap : Nat) (rate : F32) (p pos : Nat) :
    (State.planNode s cap rate p pos).sys = s.sys ∧ (State.planNode s cap rate p pos).pwr = s.pwr ∧
    (State.planNode s cap rate p pos).tb = s.tb ∧ (State.planNode s cap rate p pos).rtc = s.rtc ∧
    (State.planNode s cap rate p pos).hq = s.hq ∧ (State.planNode s cap rate p pos).evt = s.evt ∧
    (State.planNode s cap rate p pos).wb = s.wb ∧ (State.planNode s cap rate p pos).core = s.core ∧
    (State.planNode s cap rate p pos).dbg = s.dbg ∧ (State.planNode s cap rate p pos).prg = s.prg ∧
    (State.planNode s cap rate p pos).loop = s.loop ∧ (State.planNode s cap rate p pos).prot = s.prot ∧
    (State.planNode s cap rate p pos).dsp = s.dsp ∧ (State.planNode s cap rate p pos).dio = s.dio ∧
    (State.planNode s cap rate p pos).aio = s.aio ∧ (State.planNode s cap rate p pos).can = s.can ∧
    (State.planNode s cap rate p pos).net = s.net ∧ (State.planNode s cap rate p pos).nvs = s.nvs ∧
    (State.planNode s cap rate p pos).log = s.log ∧ (State.planNode s cap rate p pos).sec = s.sec ∧
    (State.planNode s cap rate p pos).upd = s.upd ∧ (State.planNode s cap rate p pos).locks = s.locks ∧
    (State.planNode s cap rate p pos).regs = s.regs ∧ (State.planNode s cap rate p pos).mem = s.mem ∧
    (State.planNode s cap rate p pos).cfg = s.cfg ∧ (State.planNode s cap rate p pos).resp = s.resp ∧
    (State.planNode s cap rate p pos).out = s.out ∧ (State.planNode s cap rate p pos).freeCtr = s.freeCtr ∧
    (State.planNode s cap rate p pos).pending = s.pending := by
  simpa [Same] using State.planNode_same s cap rate p pos

theorem State.planAll_same (s : State) (cap : Nat) (rate : F32) :
    Same (fun t => (t.sys, t.pwr, t.tb, t.rtc, t.hq, t.evt, t.wb, t.core, t.dbg, t.prg, t.loop, t.prot, t.dsp, t.dio, t.aio, t.can, t.net, t.nvs, t.log, t.sec, t.upd, t.locks, t.regs, t.mem, t.cfg, t.resp, t.out, t.freeCtr, t.pending)) s (State.planAll s cap rate) := by
  unfold State.planAll
  (try dsimp only)
  repeat' first | (with_reducible refine Same.foldl _ _ (fun u x => ?_) ?_) | split
  all_goals simp [Same]

@[simp] theorem State.planAll_frame (s : State) (cap : Nat) (rate : F32) :
    (State.planAll s cap rate).sys = s.sys ∧ (State.planAll s cap rate).pwr = s.pwr ∧ (State.planAll s cap rate).tb = s.tb ∧
    (State.planAll s cap rate).rtc = s.rtc ∧ (State.planAll s cap rate).hq = s.hq ∧ (State.planAll s cap rate).evt = s.evt ∧
    (State.planAll s cap rate).wb = s.wb ∧ (State.planAll s cap rate).core = s.core ∧ (State.planAll s cap rate).dbg = s.dbg ∧
    (State.planAll s cap rate).prg = s.prg ∧ (State.planAll s cap rate).loop = s.loop ∧
    (State.planAll s cap rate).prot = s.prot ∧ (State.planAll s cap rate).dsp = s.dsp ∧ (State.planAll s cap rate).dio = s.dio ∧
    (State.planAll s cap rate).aio = s.aio ∧ (State.planAll s cap rate).can = s.can ∧ (State.planAll s cap rate).net = s.net ∧
    (State.planAll s cap rate).nvs = s.nvs ∧ (State.planAll s cap rate).log = s.log ∧ (State.planAll s cap rate).sec = s.sec ∧
    (State.planAll s cap rate).upd = s.upd ∧ (State.planAll s cap rate).locks = s.locks ∧
    (State.planAll s cap rate).regs = s.regs ∧ (State.planAll s cap rate).mem = s.mem ∧ (State.planAll s cap rate).cfg = s.cfg ∧
    (State.planAll s cap rate).resp = s.resp ∧ (State.planAll s cap rate).out = s.out ∧
    (State.planAll s cap rate).freeCtr = s.freeCtr ∧ (State.planAll s cap rate).pending = s.pending := by
  simpa [Same] using State.planAll_same s cap rate

end Sys2Proof.Machine
end

