-- ==== Sys2Proof/Laws/Frame/LoopEngine.lean ====
section
/-! SUPPORT. The parts of the state that operations of Machine/LoopEngine.lean leave as they are. -/

namespace Sys2Proof.Machine

theorem State.setStage_same (s : State) (n : Nat) (f : Stage → Stage) :
    Same (fun t => (t.sys, t.pwr, t.tb, t.rtc, t.hq, t.evt, t.wb, t.core, t.dbg, t.prg, t.slk, t.est, t.prot, t.dsp, t.dio, t.aio, t.can, t.net, t.nvs, t.log, t.sec, t.upd, t.locks, t.regs, t.mem, t.cfg, t.resp, t.out, t.freeCtr, t.pending)) s (State.setStage s n f) := by
  unfold State.setStage
  (try dsimp only)
  (repeat' split) <;> simp [Same]

@[simp] theorem State.setStage_frame (s : State) (n : Nat) (f : Stage → Stage) :
    (State.setStage s n f).sys = s.sys ∧ (State.setStage s n f).pwr = s.pwr ∧ (State.setStage s n f).tb = s.tb ∧
    (State.setStage s n f).rtc = s.rtc ∧ (State.setStage s n f).hq = s.hq ∧ (State.setStage s n f).evt = s.evt ∧
    (State.setStage s n f).wb = s.wb ∧ (State.setStage s n f).core = s.core ∧ (State.setStage s n f).dbg = s.dbg ∧
    (State.setStage s n f).prg = s.prg ∧ (State.setStage s n f).slk = s.slk ∧ (State.setStage s n f).est = s.est ∧
    (State.setStage s n f).prot = s.prot ∧ (State.setStage s n f).dsp = s.dsp ∧ (State.setStage s n f).dio = s.dio ∧
    (State.setStage s n f).aio = s.aio ∧ (State.setStage s n f).can = s.can ∧ (State.setStage s n f).net = s.net ∧
    (State.setStage s n f).nvs = s.nvs ∧ (State.setStage s n f).log = s.log ∧ (State.setStage s n f).sec = s.sec ∧
    (State.setStage s n f).upd = s.upd ∧ (State.setStage s n f).locks = s.locks ∧ (State.setStage s n f).regs = s.regs ∧
    (State.setStage s n f).mem = s.mem ∧ (State.setStage s n f).cfg = s.cfg ∧ (State.setStage s n f).resp = s.resp ∧
    (State.setStage s n f).out = s.out ∧ (State.setStage s n f).freeCtr = s.freeCtr ∧ (State.setStage s n f).pending = s.pending := by
  simpa [Same] using State.setStage_same s n f

theorem State.staleOnset_same (s : State) (n k : Nat) (was now : Bool) :
    Same (fun t => (t.pwr, t.tb, t.rtc, t.hq, t.wb, t.core, t.dbg, t.prg, t.loop, t.slk, t.est, t.prot, t.dsp, t.dio, t.aio, t.can, t.net, t.nvs, t.sec, t.upd, t.locks, t.regs, t.cfg, t.resp, t.freeCtr, t.pending)) s (State.staleOnset s n k was now) := by
  unfold State.staleOnset
  (try dsimp only)
  (repeat' split) <;> simp [Same]

@[simp] theorem State.staleOnset_frame (s : State) (n k : Nat) (was now : Bool) :
    (State.staleOnset s n k was now).pwr = s.pwr ∧ (State.staleOnset s n k was now).tb = s.tb ∧
    (State.staleOnset s n k was now).rtc = s.rtc ∧ (State.staleOnset s n k was now).hq = s.hq ∧
    (State.staleOnset s n k was now).wb = s.wb ∧ (State.staleOnset s n k was now).core = s.core ∧
    (State.staleOnset s n k was now).dbg = s.dbg ∧ (State.staleOnset s n k was now).prg = s.prg ∧
    (State.staleOnset s n k was now).loop = s.loop ∧ (State.staleOnset s n k was now).slk = s.slk ∧
    (State.staleOnset s n k was now).est = s.est ∧ (State.staleOnset s n k was now).prot = s.prot ∧
    (State.staleOnset s n k was now).dsp = s.dsp ∧ (State.staleOnset s n k was now).dio = s.dio ∧
    (State.staleOnset s n k was now).aio = s.aio ∧ (State.staleOnset s n k was now).can = s.can ∧
    (State.staleOnset s n k was now).net = s.net ∧ (State.staleOnset s n k was now).nvs = s.nvs ∧
    (State.staleOnset s n k was now).sec = s.sec ∧ (State.staleOnset s n k was now).upd = s.upd ∧
    (State.staleOnset s n k was now).locks = s.locks ∧ (State.staleOnset s n k was now).regs = s.regs ∧
    (State.staleOnset s n k was now).cfg = s.cfg ∧ (State.staleOnset s n k was now).resp = s.resp ∧
    (State.staleOnset s n k was now).freeCtr = s.freeCtr ∧ (State.staleOnset s n k was now).pending = s.pending := by
  simpa [Same] using State.staleOnset_same s n k was now

theorem State.evalSlot_same (s : State) (n stamp : Nat) (late : Bool) (skips : Nat) :
    Same (fun t => (t.pwr, t.tb, t.rtc, t.hq, t.wb, t.core, t.dbg, t.prg, t.slk, t.est, t.prot, t.dsp, t.dio, t.aio, t.can, t.net, t.nvs, t.sec, t.upd, t.locks, t.regs, t.cfg, t.resp, t.pending)) s (State.evalSlot s n stamp late skips) := by
  unfold State.evalSlot
  (try dsimp only)
  (repeat' split) <;> simp [Same]

@[simp] theorem State.evalSlot_frame (s : State) (n stamp : Nat) (late : Bool) (skips : Nat) :
    (State.evalSlot s n stamp late skips).pwr = s.pwr ∧ (State.evalSlot s n stamp late skips).tb = s.tb ∧
    (State.evalSlot s n stamp late skips).rtc = s.rtc ∧ (State.evalSlot s n stamp late skips).hq = s.hq ∧
    (State.evalSlot s n stamp late skips).wb = s.wb ∧ (State.evalSlot s n stamp late skips).core = s.core ∧
    (State.evalSlot s n stamp late skips).dbg = s.dbg ∧ (State.evalSlot s n stamp late skips).prg = s.prg ∧
    (State.evalSlot s n stamp late skips).slk = s.slk ∧ (State.evalSlot s n stamp late skips).est = s.est ∧
    (State.evalSlot s n stamp late skips).prot = s.prot ∧ (State.evalSlot s n stamp late skips).dsp = s.dsp ∧
    (State.evalSlot s n stamp late skips).dio = s.dio ∧ (State.evalSlot s n stamp late skips).aio = s.aio ∧
    (State.evalSlot s n stamp late skips).can = s.can ∧ (State.evalSlot s n stamp late skips).net = s.net ∧
    (State.evalSlot s n stamp late skips).nvs = s.nvs ∧ (State.evalSlot s n stamp late skips).sec = s.sec ∧
    (State.evalSlot s n stamp late skips).upd = s.upd ∧ (State.evalSlot s n stamp late skips).locks = s.locks ∧
    (State.evalSlot s n stamp late skips).regs = s.regs ∧ (State.evalSlot s n stamp late skips).cfg = s.cfg ∧
    (State.evalSlot s n stamp late skips).resp = s.resp ∧ (State.evalSlot s n stamp late skips).pending = s.pending := by
  simpa [Same] using State.evalSlot_same s n stamp late skips

theorem State.deliverTo_same (s : State) (dest : Nat) (v : F32) :
    Same (fun t => (t.sys, t.pwr, t.tb, t.rtc, t.hq, t.evt, t.wb, t.core, t.dbg, t.prg, t.slk, t.est, t.prot, t.dsp, t.dio, t.net, t.nvs, t.log, t.sec, t.upd, t.locks, t.regs, t.mem, t.cfg, t.resp, t.out, t.pending)) s (State.deliverTo s dest v) := by
  unfold State.deliverTo
  (try dsimp only)
  (repeat' split) <;> simp [Same]

@[simp] theorem State.deliverTo_frame (s : State) (dest : Nat) (v : F32) :
    (State.deliverTo s dest v).sys = s.sys ∧ (State.deliverTo s dest v).pwr = s.pwr ∧ (State.deliverTo s dest v).tb = s.tb ∧
    (State.deliverTo s dest v).rtc = s.rtc ∧ (State.deliverTo s dest v).hq = s.hq ∧ (State.deliverTo s dest v).evt = s.evt ∧
    (State.deliverTo s dest v).wb = s.wb ∧ (State.deliverTo s dest v).core = s.core ∧ (State.deliverTo s dest v).dbg = s.dbg ∧
    (State.deliverTo s dest v).prg = s.prg ∧ (State.deliverTo s dest v).slk = s.slk ∧ (State.deliverTo s dest v).est = s.est ∧
    (State.deliverTo s dest v).prot = s.prot ∧ (State.deliverTo s dest v).dsp = s.dsp ∧ (State.deliverTo s dest v).dio = s.dio ∧
    (State.deliverTo s dest v).net = s.net ∧ (State.deliverTo s dest v).nvs = s.nvs ∧ (State.deliverTo s dest v).log = s.log ∧
    (State.deliverTo s dest v).sec = s.sec ∧ (State.deliverTo s dest v).upd = s.upd ∧
    (State.deliverTo s dest v).locks = s.locks ∧ (State.deliverTo s dest v).regs = s.regs ∧
    (State.deliverTo s dest v).mem = s.mem ∧ (State.deliverTo s dest v).cfg = s.cfg ∧ (State.deliverTo s dest v).resp = s.resp ∧
    (State.deliverTo s dest v).out = s.out ∧ (State.deliverTo s dest v).pending = s.pending := by
  simpa [Same] using State.deliverTo_same s dest v

theorem State.setExt_same (s : State) (o : Nat) (c : Option Nat) :
    Same (fun t => (t.pwr, t.tb, t.rtc, t.hq, t.wb, t.core, t.dbg, t.prg, t.slk, t.est, t.prot, t.dsp, t.dio, t.aio, t.can, t.net, t.nvs, t.sec, t.upd, t.locks, t.regs, t.cfg, t.resp, t.freeCtr, t.pending)) s (State.setExt s o c) := by
  unfold State.setExt
  (try dsimp only)
  (repeat' split) <;> simp [Same]

@[simp] theorem State.setExt_frame (s : State) (o : Nat) (c : Option Nat) :
    (State.setExt s o c).pwr = s.pwr ∧ (State.setExt s o c).tb = s.tb ∧ (State.setExt s o c).rtc = s.rtc ∧
    (State.setExt s o c).hq = s.hq ∧ (State.setExt s o c).wb = s.wb ∧ (State.setExt s o c).core = s.core ∧
    (State.setExt s o c).dbg = s.dbg ∧ (State.setExt s o c).prg = s.prg ∧ (State.setExt s o c).slk = s.slk ∧
    (State.setExt s o c).est = s.est ∧ (State.setExt s o c).prot = s.prot ∧ (State.setExt s o c).dsp = s.dsp ∧
    (State.setExt s o c).dio = s.dio ∧ (State.setExt s o c).aio = s.aio ∧ (State.setExt s o c).can = s.can ∧
    (State.setExt s o c).net = s.net ∧ (State.setExt s o c).nvs = s.nvs ∧ (State.setExt s o c).sec = s.sec ∧
    (State.setExt s o c).upd = s.upd ∧ (State.setExt s o c).locks = s.locks ∧ (State.setExt s o c).regs = s.regs ∧
    (State.setExt s o c).cfg = s.cfg ∧ (State.setExt s o c).resp = s.resp ∧ (State.setExt s o c).freeCtr = s.freeCtr ∧
    (State.setExt s o c).pending = s.pending := by
  simpa [Same] using State.setExt_same s o c

theorem State.runStage_same (s : State) (o stamp : Nat) (uIn : Option F32) :
    Same (fun t => (t.pwr, t.tb, t.rtc, t.hq, t.evt, t.wb, t.core, t.dbg, t.prg, t.slk, t.est, t.prot, t.dsp, t.dio, t.net, t.nvs, t.sec, t.upd, t.locks, t.regs, t.cfg, t.resp, t.out, t.pending)) s (State.runStage s o stamp uIn) := by
  unfold State.runStage
  (try dsimp only)
  (repeat' split) <;> simp [Same]

@[simp] theorem State.runStage_frame (s : State) (o stamp : Nat) (uIn : Option F32) :
    (State.runStage s o stamp uIn).pwr = s.pwr ∧ (State.runStage s o stamp uIn).tb = s.tb ∧
    (State.runStage s o stamp uIn).rtc = s.rtc ∧ (State.runStage s o stamp uIn).hq = s.hq ∧
    (State.runStage s o stamp uIn).evt = s.evt ∧ (State.runStage s o stamp uIn).wb = s.wb ∧
    (State.runStage s o stamp uIn).core = s.core ∧ (State.runStage s o stamp uIn).dbg = s.dbg ∧
    (State.runStage s o stamp uIn).prg = s.prg ∧ (State.runStage s o stamp uIn).slk = s.slk ∧
    (State.runStage s o stamp uIn).est = s.est ∧ (State.runStage s o stamp uIn).prot = s.prot ∧
    (State.runStage s o stamp uIn).dsp = s.dsp ∧ (State.runStage s o stamp uIn).dio = s.dio ∧
    (State.runStage s o stamp uIn).net = s.net ∧ (State.runStage s o stamp uIn).nvs = s.nvs ∧
    (State.runStage s o stamp uIn).sec = s.sec ∧ (State.runStage s o stamp uIn).upd = s.upd ∧
    (State.runStage s o stamp uIn).locks = s.locks ∧ (State.runStage s o stamp uIn).regs = s.regs ∧
    (State.runStage s o stamp uIn).cfg = s.cfg ∧ (State.runStage s o stamp uIn).resp = s.resp ∧
    (State.runStage s o stamp uIn).out = s.out ∧ (State.runStage s o stamp uIn).pending = s.pending := by
  simpa [Same] using State.runStage_same s o stamp uIn

theorem State.evalAlone_same (s : State) (n stamp : Nat) (late : Bool) (skips : Nat) :
    Same (fun t => (t.pwr, t.tb, t.rtc, t.hq, t.wb, t.core, t.dbg, t.prg, t.slk, t.est, t.prot, t.dsp, t.dio, t.net, t.nvs, t.sec, t.upd, t.locks, t.regs, t.cfg, t.resp, t.pending)) s (State.evalAlone s n stamp late skips) := by
  unfold State.evalAlone
  (try dsimp only)
  (repeat' split) <;> simp [Same]

@[simp] theorem State.evalAlone_frame (s : State) (n stamp : Nat) (late : Bool) (skips : Nat) :
    (State.evalAlone s n stamp late skips).pwr = s.pwr ∧ (State.evalAlone s n stamp late skips).tb = s.tb ∧
    (State.evalAlone s n stamp late skips).rtc = s.rtc ∧ (State.evalAlone s n stamp late skips).hq = s.hq ∧
    (State.evalAlone s n stamp late skips).wb = s.wb ∧ (State.evalAlone s n stamp late skips).core = s.core ∧
    (State.evalAlone s n stamp late skips).dbg = s.dbg ∧ (State.evalAlone s n stamp late skips).prg = s.prg ∧
    (State.evalAlone s n stamp late skips).slk = s.slk ∧ (State.evalAlone s n stamp late skips).est = s.est ∧
    (State.evalAlone s n stamp late skips).prot = s.prot ∧ (State.evalAlone s n stamp late skips).dsp = s.dsp ∧
    (State.evalAlone s n stamp late skips).dio = s.dio ∧ (State.evalAlone s n stamp late skips).net = s.net ∧
    (State.evalAlone s n stamp late skips).nvs = s.nvs ∧ (State.evalAlone s n stamp late skips).sec = s.sec ∧
    (State.evalAlone s n stamp late skips).upd = s.upd ∧ (State.evalAlone s n stamp late skips).locks = s.locks ∧
    (State.evalAlone s n stamp late skips).regs = s.regs ∧ (State.evalAlone s n stamp late skips).cfg = s.cfg ∧
    (State.evalAlone s n stamp late skips).resp = s.resp ∧ (State.evalAlone s n stamp late skips).pending = s.pending := by
  simpa [Same] using State.evalAlone_same s n stamp late skips

theorem State.aiInputs_same (s : State) (l : List ManEntry) (stamp : Nat) :
    Same (fun t => (t.sys, t.pwr, t.tb, t.rtc, t.hq, t.evt, t.wb, t.core, t.dbg, t.prg, t.slk, t.est, t.prot, t.dsp, t.dio, t.aio, t.can, t.net, t.nvs, t.log, t.sec, t.upd, t.locks, t.regs, t.mem, t.cfg, t.resp, t.out, t.freeCtr, t.pending)) s (State.aiInputs s l stamp) := by
  unfold State.aiInputs
  (try dsimp only)
  repeat' first | (with_reducible refine Same.foldl _ _ (fun u x => ?_) ?_) | split
  all_goals simp [Same]

@[simp] theorem State.aiInputs_frame (s : State) (l : List ManEntry) (stamp : Nat) :
    (State.aiInputs s l stamp).sys = s.sys ∧ (State.aiInputs s l stamp).pwr = s.pwr ∧ (State.aiInputs s l stamp).tb = s.tb ∧
    (State.aiInputs s l stamp).rtc = s.rtc ∧ (State.aiInputs s l stamp).hq = s.hq ∧ (State.aiInputs s l stamp).evt = s.evt ∧
    (State.aiInputs s l stamp).wb = s.wb ∧ (State.aiInputs s l stamp).core = s.core ∧ (State.aiInputs s l stamp).dbg = s.dbg ∧
    (State.aiInputs s l stamp).prg = s.prg ∧ (State.aiInputs s l stamp).slk = s.slk ∧ (State.aiInputs s l stamp).est = s.est ∧
    (State.aiInputs s l stamp).prot = s.prot ∧ (State.aiInputs s l stamp).dsp = s.dsp ∧ (State.aiInputs s l stamp).dio = s.dio ∧
    (State.aiInputs s l stamp).aio = s.aio ∧ (State.aiInputs s l stamp).can = s.can ∧ (State.aiInputs s l stamp).net = s.net ∧
    (State.aiInputs s l stamp).nvs = s.nvs ∧ (State.aiInputs s l stamp).log = s.log ∧ (State.aiInputs s l stamp).sec = s.sec ∧
    (State.aiInputs s l stamp).upd = s.upd ∧ (State.aiInputs s l stamp).locks = s.locks ∧
    (State.aiInputs s l stamp).regs = s.regs ∧ (State.aiInputs s l stamp).mem = s.mem ∧ (State.aiInputs s l stamp).cfg = s.cfg ∧
    (State.aiInputs s l stamp).resp = s.resp ∧ (State.aiInputs s l stamp).out = s.out ∧
    (State.aiInputs s l stamp).freeCtr = s.freeCtr ∧ (State.aiInputs s l stamp).pending = s.pending := by
  simpa [Same] using State.aiInputs_same s l stamp

theorem State.sendManifest_same (s : State) (m : ManSt) (astatus : Nat) :
    Same (fun t => (t.sys, t.pwr, t.tb, t.rtc, t.hq, t.evt, t.wb, t.core, t.dbg, t.prg, t.loop, t.slk, t.est, t.prot, t.dsp, t.dio, t.aio, t.can, t.net, t.nvs, t.log, t.sec, t.upd, t.locks, t.regs, t.mem, t.cfg, t.resp, t.freeCtr, t.pending)) s (State.sendManifest s m astatus) := by
  unfold State.sendManifest
  (try dsimp only)
  repeat' first | (with_reducible refine Same.foldl _ _ (fun u x => ?_) ?_) | split
  all_goals simp [Same]

@[simp] theorem State.sendManifest_frame (s : State) (m : ManSt) (astatus : Nat) :
    (State.sendManifest s m astatus).sys = s.sys ∧ (State.sendManifest s m astatus).pwr = s.pwr ∧
    (State.sendManifest s m astatus).tb = s.tb ∧ (State.sendManifest s m astatus).rtc = s.rtc ∧
    (State.sendManifest s m astatus).hq = s.hq ∧ (State.sendManifest s m astatus).evt = s.evt ∧
    (State.sendManifest s m astatus).wb = s.wb ∧ (State.sendManifest s m astatus).core = s.core ∧
    (State.sendManifest s m astatus).dbg = s.dbg ∧ (State.sendManifest s m astatus).prg = s.prg ∧
    (State.sendManifest s m astatus).loop = s.loop ∧ (State.sendManifest s m astatus).slk = s.slk ∧
    (State.sendManifest s m astatus).est = s.est ∧ (State.sendManifest s m astatus).prot = s.prot ∧
    (State.sendManifest s m astatus).dsp = s.dsp ∧ (State.sendManifest s m astatus).dio = s.dio ∧
    (State.sendManifest s m astatus).aio = s.aio ∧ (State.sendManifest s m astatus).can = s.can ∧
    (State.sendManifest s m astatus).net = s.net ∧ (State.sendManifest s m astatus).nvs = s.nvs ∧
    (State.sendManifest s m astatus).log = s.log ∧ (State.sendManifest s m astatus).sec = s.sec ∧
    (State.sendManifest s m astatus).upd = s.upd ∧ (State.sendManifest s m astatus).locks = s.locks ∧
    (State.sendManifest s m astatus).regs = s.regs ∧ (State.sendManifest s m astatus).mem = s.mem ∧
    (State.sendManifest s m astatus).cfg = s.cfg ∧ (State.sendManifest s m astatus).resp = s.resp ∧
    (State.sendManifest s m astatus).freeCtr = s.freeCtr ∧ (State.sendManifest s m astatus).pending = s.pending := by
  simpa [Same] using State.sendManifest_same s m astatus

theorem State.coverLoop_same (s : State) (window cut : Nat) (work : List Op) :
    Same (fun t => (t.sys, t.pwr, t.tb, t.rtc, t.hq, t.evt, t.wb, t.core, t.dbg, t.prg, t.slk, t.est, t.prot, t.dsp, t.dio, t.aio, t.can, t.net, t.nvs, t.log, t.sec, t.upd, t.locks, t.regs, t.mem, t.cfg, t.resp, t.out, t.freeCtr, t.pending)) s (State.coverLoop s window cut work) := by
  unfold State.coverLoop
  (try dsimp only)
  (repeat' split) <;> simp [Same]

@[simp] theorem State.coverLoop_frame (s : State) (window cut : Nat) (work : List Op) :
    (State.coverLoop s window cut work).sys = s.sys ∧ (State.coverLoop s window cut work).pwr = s.pwr ∧
    (State.coverLoop s window cut work).tb = s.tb ∧ (State.coverLoop s window cut work).rtc = s.rtc ∧
    (State.coverLoop s window cut work).hq = s.hq ∧ (State.coverLoop s window cut work).evt = s.evt ∧
    (State.coverLoop s window cut work).wb = s.wb ∧ (State.coverLoop s window cut work).core = s.core ∧
    (State.coverLoop s window cut work).dbg = s.dbg ∧ (State.coverLoop s window cut work).prg = s.prg ∧
    (State.coverLoop s window cut work).slk = s.slk ∧ (State.coverLoop s window cut work).est = s.est ∧
    (State.coverLoop s window cut work).prot = s.prot ∧ (State.coverLoop s window cut work).dsp = s.dsp ∧
    (State.coverLoop s window cut work).dio = s.dio ∧ (State.coverLoop s window cut work).aio = s.aio ∧
    (State.coverLoop s window cut work).can = s.can ∧ (State.coverLoop s window cut work).net = s.net ∧
    (State.coverLoop s window cut work).nvs = s.nvs ∧ (State.coverLoop s window cut work).log = s.log ∧
    (State.coverLoop s window cut work).sec = s.sec ∧ (State.coverLoop s window cut work).upd = s.upd ∧
    (State.coverLoop s window cut work).locks = s.locks ∧ (State.coverLoop s window cut work).regs = s.regs ∧
    (State.coverLoop s window cut work).mem = s.mem ∧ (State.coverLoop s window cut work).cfg = s.cfg ∧
    (State.coverLoop s window cut work).resp = s.resp ∧ (State.coverLoop s window cut work).out = s.out ∧
    (State.coverLoop s window cut work).freeCtr = s.freeCtr ∧ (State.coverLoop s window cut work).pending = s.pending := by
  simpa [Same] using State.coverLoop_same s window cut work

end Sys2Proof.Machine
end

