-- ==== Sys2Proof/Laws/Frame/Programs.lean ====
section
/-! SUPPORT. The parts of the state that operations of Machine/Programs.lean leave as they are. -/

namespace Sys2Proof.Machine

theorem State.setTask_same (s : State) (t : Nat) (f : Task → Task) :
    Same (fun t => (t.sys, t.pwr, t.tb, t.rtc, t.hq, t.evt, t.wb, t.core, t.dbg, t.loop, t.slk, t.est, t.prot, t.dsp, t.dio, t.aio, t.can, t.net, t.nvs, t.log, t.sec, t.upd, t.locks, t.regs, t.mem, t.cfg, t.resp, t.out, t.freeCtr, t.pending)) s (State.setTask s t f) := by
  unfold State.setTask
  (try dsimp only)
  (repeat' split) <;> simp [Same]

@[simp] theorem State.setTask_frame (s : State) (t : Nat) (f : Task → Task) :
    (State.setTask s t f).sys = s.sys ∧ (State.setTask s t f).pwr = s.pwr ∧ (State.setTask s t f).tb = s.tb ∧
    (State.setTask s t f).rtc = s.rtc ∧ (State.setTask s t f).hq = s.hq ∧ (State.setTask s t f).evt = s.evt ∧
    (State.setTask s t f).wb = s.wb ∧ (State.setTask s t f).core = s.core ∧ (State.setTask s t f).dbg = s.dbg ∧
    (State.setTask s t f).loop = s.loop ∧ (State.setTask s t f).slk = s.slk ∧ (State.setTask s t f).est = s.est ∧
    (State.setTask s t f).prot = s.prot ∧ (State.setTask s t f).dsp = s.dsp ∧ (State.setTask s t f).dio = s.dio ∧
    (State.setTask s t f).aio = s.aio ∧ (State.setTask s t f).can = s.can ∧ (State.setTask s t f).net = s.net ∧
    (State.setTask s t f).nvs = s.nvs ∧ (State.setTask s t f).log = s.log ∧ (State.setTask s t f).sec = s.sec ∧
    (State.setTask s t f).upd = s.upd ∧ (State.setTask s t f).locks = s.locks ∧ (State.setTask s t f).regs = s.regs ∧
    (State.setTask s t f).mem = s.mem ∧ (State.setTask s t f).cfg = s.cfg ∧ (State.setTask s t f).resp = s.resp ∧
    (State.setTask s t f).out = s.out ∧ (State.setTask s t f).freeCtr = s.freeCtr ∧ (State.setTask s t f).pending = s.pending := by
  simpa [Same] using State.setTask_same s t f

theorem State.writeItem_same (s : State) (w : Nat × Nat) :
    Same (fun t => (t.sys, t.pwr, t.tb, t.rtc, t.hq, t.evt, t.wb, t.core, t.dbg, t.loop, t.slk, t.est, t.prot, t.dsp, t.dio, t.aio, t.can, t.net, t.nvs, t.log, t.sec, t.upd, t.locks, t.regs, t.mem, t.cfg, t.resp, t.out, t.freeCtr, t.pending)) s (State.writeItem s w) := by
  unfold State.writeItem
  (try dsimp only)
  (repeat' split) <;> simp [Same]

@[simp] theorem State.writeItem_frame (s : State) (w : Nat × Nat) :
    (State.writeItem s w).sys = s.sys ∧ (State.writeItem s w).pwr = s.pwr ∧ (State.writeItem s w).tb = s.tb ∧
    (State.writeItem s w).rtc = s.rtc ∧ (State.writeItem s w).hq = s.hq ∧ (State.writeItem s w).evt = s.evt ∧
    (State.writeItem s w).wb = s.wb ∧ (State.writeItem s w).core = s.core ∧ (State.writeItem s w).dbg = s.dbg ∧
    (State.writeItem s w).loop = s.loop ∧ (State.writeItem s w).slk = s.slk ∧ (State.writeItem s w).est = s.est ∧
    (State.writeItem s w).prot = s.prot ∧ (State.writeItem s w).dsp = s.dsp ∧ (State.writeItem s w).dio = s.dio ∧
    (State.writeItem s w).aio = s.aio ∧ (State.writeItem s w).can = s.can ∧ (State.writeItem s w).net = s.net ∧
    (State.writeItem s w).nvs = s.nvs ∧ (State.writeItem s w).log = s.log ∧ (State.writeItem s w).sec = s.sec ∧
    (State.writeItem s w).upd = s.upd ∧ (State.writeItem s w).locks = s.locks ∧ (State.writeItem s w).regs = s.regs ∧
    (State.writeItem s w).mem = s.mem ∧ (State.writeItem s w).cfg = s.cfg ∧ (State.writeItem s w).resp = s.resp ∧
    (State.writeItem s w).out = s.out ∧ (State.writeItem s w).freeCtr = s.freeCtr ∧ (State.writeItem s w).pending = s.pending := by
  simpa [Same] using State.writeItem_same s w

theorem State.callOne_same (s : State) (now : Nat) (c : FbCall) :
    Same (fun t => (t.sys, t.pwr, t.tb, t.rtc, t.hq, t.evt, t.wb, t.core, t.dbg, t.loop, t.slk, t.est, t.prot, t.dsp, t.dio, t.aio, t.can, t.net, t.nvs, t.log, t.sec, t.upd, t.locks, t.regs, t.mem, t.cfg, t.resp, t.out, t.freeCtr, t.pending)) s (State.callOne s now c) := by
  unfold State.callOne
  (try dsimp only)
  (repeat' split) <;> simp [Same]

@[simp] theorem State.callOne_frame (s : State) (now : Nat) (c : FbCall) :
    (State.callOne s now c).sys = s.sys ∧ (State.callOne s now c).pwr = s.pwr ∧ (State.callOne s now c).tb = s.tb ∧
    (State.callOne s now c).rtc = s.rtc ∧ (State.callOne s now c).hq = s.hq ∧ (State.callOne s now c).evt = s.evt ∧
    (State.callOne s now c).wb = s.wb ∧ (State.callOne s now c).core = s.core ∧ (State.callOne s now c).dbg = s.dbg ∧
    (State.callOne s now c).loop = s.loop ∧ (State.callOne s now c).slk = s.slk ∧ (State.callOne s now c).est = s.est ∧
    (State.callOne s now c).prot = s.prot ∧ (State.callOne s now c).dsp = s.dsp ∧ (State.callOne s now c).dio = s.dio ∧
    (State.callOne s now c).aio = s.aio ∧ (State.callOne s now c).can = s.can ∧ (State.callOne s now c).net = s.net ∧
    (State.callOne s now c).nvs = s.nvs ∧ (State.callOne s now c).log = s.log ∧ (State.callOne s now c).sec = s.sec ∧
    (State.callOne s now c).upd = s.upd ∧ (State.callOne s now c).locks = s.locks ∧ (State.callOne s now c).regs = s.regs ∧
    (State.callOne s now c).mem = s.mem ∧ (State.callOne s now c).cfg = s.cfg ∧ (State.callOne s now c).resp = s.resp ∧
    (State.callOne s now c).out = s.out ∧ (State.callOne s now c).freeCtr = s.freeCtr ∧
    (State.callOne s now c).pending = s.pending := by
  simpa [Same] using State.callOne_same s now c

theorem State.passRings_same (s : State) (k dst : Nat) :
    Same (fun t => (t.sys, t.pwr, t.tb, t.rtc, t.evt, t.wb, t.core, t.dbg, t.prg, t.loop, t.slk, t.est, t.prot, t.dsp, t.dio, t.aio, t.can, t.net, t.nvs, t.log, t.sec, t.upd, t.locks, t.mem, t.cfg, t.resp, t.out, t.freeCtr, t.pending)) s (State.passRings s k dst) := by
  unfold State.passRings
  (try dsimp only)
  repeat' first | (with_reducible refine Same.foldl _ _ (fun u x => ?_) ?_) | split
  all_goals simp [Same]

@[simp] theorem State.passRings_frame (s : State) (k dst : Nat) :
    (State.passRings s k dst).sys = s.sys ∧ (State.passRings s k dst).pwr = s.pwr ∧ (State.passRings s k dst).tb = s.tb ∧
    (State.passRings s k dst).rtc = s.rtc ∧ (State.passRings s k dst).evt = s.evt ∧ (State.passRings s k dst).wb = s.wb ∧
    (State.passRings s k dst).core = s.core ∧ (State.passRings s k dst).dbg = s.dbg ∧ (State.passRings s k dst).prg = s.prg ∧
    (State.passRings s k dst).loop = s.loop ∧ (State.passRings s k dst).slk = s.slk ∧ (State.passRings s k dst).est = s.est ∧
    (State.passRings s k dst).prot = s.prot ∧ (State.passRings s k dst).dsp = s.dsp ∧ (State.passRings s k dst).dio = s.dio ∧
    (State.passRings s k dst).aio = s.aio ∧ (State.passRings s k dst).can = s.can ∧ (State.passRings s k dst).net = s.net ∧
    (State.passRings s k dst).nvs = s.nvs ∧ (State.passRings s k dst).log = s.log ∧ (State.passRings s k dst).sec = s.sec ∧
    (State.passRings s k dst).upd = s.upd ∧ (State.passRings s k dst).locks = s.locks ∧ (State.passRings s k dst).mem = s.mem ∧
    (State.passRings s k dst).cfg = s.cfg ∧ (State.passRings s k dst).resp = s.resp ∧ (State.passRings s k dst).out = s.out ∧
    (State.passRings s k dst).freeCtr = s.freeCtr ∧ (State.passRings s k dst).pending = s.pending := by
  simpa [Same] using State.passRings_same s k dst

theorem State.overrun_same (s : State) (t n : Nat) :
    Same (fun t => (t.pwr, t.tb, t.rtc, t.hq, t.wb, t.core, t.dbg, t.loop, t.slk, t.est, t.prot, t.dsp, t.dio, t.aio, t.can, t.net, t.nvs, t.sec, t.upd, t.locks, t.regs, t.cfg, t.resp, t.freeCtr, t.pending)) s (State.overrun s t n) := by
  unfold State.overrun
  (try dsimp only)
  (repeat' split) <;> simp [Same]

@[simp] theorem State.overrun_frame (s : State) (t n : Nat) :
    (State.overrun s t n).pwr = s.pwr ∧ (State.overrun s t n).tb = s.tb ∧ (State.overrun s t n).rtc = s.rtc ∧
    (State.overrun s t n).hq = s.hq ∧ (State.overrun s t n).wb = s.wb ∧ (State.overrun s t n).core = s.core ∧
    (State.overrun s t n).dbg = s.dbg ∧ (State.overrun s t n).loop = s.loop ∧ (State.overrun s t n).slk = s.slk ∧
    (State.overrun s t n).est = s.est ∧ (State.overrun s t n).prot = s.prot ∧ (State.overrun s t n).dsp = s.dsp ∧
    (State.overrun s t n).dio = s.dio ∧ (State.overrun s t n).aio = s.aio ∧ (State.overrun s t n).can = s.can ∧
    (State.overrun s t n).net = s.net ∧ (State.overrun s t n).nvs = s.nvs ∧ (State.overrun s t n).sec = s.sec ∧
    (State.overrun s t n).upd = s.upd ∧ (State.overrun s t n).locks = s.locks ∧ (State.overrun s t n).regs = s.regs ∧
    (State.overrun s t n).cfg = s.cfg ∧ (State.overrun s t n).resp = s.resp ∧ (State.overrun s t n).freeCtr = s.freeCtr ∧
    (State.overrun s t n).pending = s.pending := by
  simpa [Same] using State.overrun_same s t n

theorem State.setStation_same (s : State) (k : Nat) (f : StationSt → StationSt) :
    Same (fun t => (t.sys, t.pwr, t.tb, t.rtc, t.hq, t.evt, t.wb, t.core, t.dbg, t.loop, t.slk, t.est, t.prot, t.dsp, t.dio, t.aio, t.can, t.net, t.nvs, t.log, t.sec, t.upd, t.locks, t.regs, t.mem, t.cfg, t.resp, t.out, t.freeCtr, t.pending)) s (State.setStation s k f) := by
  unfold State.setStation
  (try dsimp only)
  (repeat' split) <;> simp [Same]

@[simp] theorem State.setStation_frame (s : State) (k : Nat) (f : StationSt → StationSt) :
    (State.setStation s k f).sys = s.sys ∧ (State.setStation s k f).pwr = s.pwr ∧ (State.setStation s k f).tb = s.tb ∧
    (State.setStation s k f).rtc = s.rtc ∧ (State.setStation s k f).hq = s.hq ∧ (State.setStation s k f).evt = s.evt ∧
    (State.setStation s k f).wb = s.wb ∧ (State.setStation s k f).core = s.core ∧ (State.setStation s k f).dbg = s.dbg ∧
    (State.setStation s k f).loop = s.loop ∧ (State.setStation s k f).slk = s.slk ∧ (State.setStation s k f).est = s.est ∧
    (State.setStation s k f).prot = s.prot ∧ (State.setStation s k f).dsp = s.dsp ∧ (State.setStation s k f).dio = s.dio ∧
    (State.setStation s k f).aio = s.aio ∧ (State.setStation s k f).can = s.can ∧ (State.setStation s k f).net = s.net ∧
    (State.setStation s k f).nvs = s.nvs ∧ (State.setStation s k f).log = s.log ∧ (State.setStation s k f).sec = s.sec ∧
    (State.setStation s k f).upd = s.upd ∧ (State.setStation s k f).locks = s.locks ∧ (State.setStation s k f).regs = s.regs ∧
    (State.setStation s k f).mem = s.mem ∧ (State.setStation s k f).cfg = s.cfg ∧ (State.setStation s k f).resp = s.resp ∧
    (State.setStation s k f).out = s.out ∧ (State.setStation s k f).freeCtr = s.freeCtr ∧
    (State.setStation s k f).pending = s.pending := by
  simpa [Same] using State.setStation_same s k f

theorem State.settleStation_same (s : State) (k : Nat) (got : Option (List Word)) :
    Same (fun t => (t.pwr, t.tb, t.rtc, t.hq, t.wb, t.core, t.dbg, t.loop, t.slk, t.est, t.prot, t.dsp, t.dio, t.aio, t.can, t.net, t.nvs, t.sec, t.upd, t.locks, t.regs, t.cfg, t.resp, t.freeCtr, t.pending)) s (State.settleStation s k got) := by
  unfold State.settleStation
  (try dsimp only)
  (repeat' split) <;> simp [Same]

@[simp] theorem State.settleStation_frame (s : State) (k : Nat) (got : Option (List Word)) :
    (State.settleStation s k got).pwr = s.pwr ∧ (State.settleStation s k got).tb = s.tb ∧
    (State.settleStation s k got).rtc = s.rtc ∧ (State.settleStation s k got).hq = s.hq ∧
    (State.settleStation s k got).wb = s.wb ∧ (State.settleStation s k got).core = s.core ∧
    (State.settleStation s k got).dbg = s.dbg ∧ (State.settleStation s k got).loop = s.loop ∧
    (State.settleStation s k got).slk = s.slk ∧ (State.settleStation s k got).est = s.est ∧
    (State.settleStation s k got).prot = s.prot ∧ (State.settleStation s k got).dsp = s.dsp ∧
    (State.settleStation s k got).dio = s.dio ∧ (State.settleStation s k got).aio = s.aio ∧
    (State.settleStation s k got).can = s.can ∧ (State.settleStation s k got).net = s.net ∧
    (State.settleStation s k got).nvs = s.nvs ∧ (State.settleStation s k got).sec = s.sec ∧
    (State.settleStation s k got).upd = s.upd ∧ (State.settleStation s k got).locks = s.locks ∧
    (State.settleStation s k got).regs = s.regs ∧ (State.settleStation s k got).cfg = s.cfg ∧
    (State.settleStation s k got).resp = s.resp ∧ (State.settleStation s k got).freeCtr = s.freeCtr ∧
    (State.settleStation s k got).pending = s.pending := by
  simpa [Same] using State.settleStation_same s k got

theorem State.settleAll_same (s : State) (got : Nat → Option (List Word)) :
    Same (fun t => (t.pwr, t.tb, t.rtc, t.hq, t.wb, t.core, t.dbg, t.loop, t.slk, t.est, t.prot, t.dsp, t.dio, t.aio, t.can, t.net, t.nvs, t.sec, t.upd, t.locks, t.regs, t.cfg, t.resp, t.freeCtr, t.pending)) s (State.settleAll s got) := by
  unfold State.settleAll
  (try dsimp only)
  repeat' first | (with_reducible refine Same.foldl _ _ (fun u x => ?_) ?_) | split
  all_goals simp [Same]

@[simp] theorem State.settleAll_frame (s : State) (got : Nat → Option (List Word)) :
    (State.settleAll s got).pwr = s.pwr ∧ (State.settleAll s got).tb = s.tb ∧ (State.settleAll s got).rtc = s.rtc ∧
    (State.settleAll s got).hq = s.hq ∧ (State.settleAll s got).wb = s.wb ∧ (State.settleAll s got).core = s.core ∧
    (State.settleAll s got).dbg = s.dbg ∧ (State.settleAll s got).loop = s.loop ∧ (State.settleAll s got).slk = s.slk ∧
    (State.settleAll s got).est = s.est ∧ (State.settleAll s got).prot = s.prot ∧ (State.settleAll s got).dsp = s.dsp ∧
    (State.settleAll s got).dio = s.dio ∧ (State.settleAll s got).aio = s.aio ∧ (State.settleAll s got).can = s.can ∧
    (State.settleAll s got).net = s.net ∧ (State.settleAll s got).nvs = s.nvs ∧ (State.settleAll s got).sec = s.sec ∧
    (State.settleAll s got).upd = s.upd ∧ (State.settleAll s got).locks = s.locks ∧ (State.settleAll s got).regs = s.regs ∧
    (State.settleAll s got).cfg = s.cfg ∧ (State.settleAll s got).resp = s.resp ∧ (State.settleAll s got).freeCtr = s.freeCtr ∧
    (State.settleAll s got).pending = s.pending := by
  simpa [Same] using State.settleAll_same s got

theorem State.resumeNumbers_same (s : State) :
    Same (fun t => (t.sys, t.pwr, t.tb, t.rtc, t.hq, t.evt, t.wb, t.core, t.dbg, t.loop, t.slk, t.est, t.prot, t.dsp, t.dio, t.aio, t.can, t.net, t.nvs, t.log, t.sec, t.upd, t.locks, t.regs, t.mem, t.cfg, t.resp, t.out, t.freeCtr, t.pending)) s (State.resumeNumbers s) := by
  unfold State.resumeNumbers
  (try dsimp only)
  (repeat' split) <;> simp [Same]

@[simp] theorem State.resumeNumbers_frame (s : State) :
    (State.resumeNumbers s).sys = s.sys ∧ (State.resumeNumbers s).pwr = s.pwr ∧ (State.resumeNumbers s).tb = s.tb ∧
    (State.resumeNumbers s).rtc = s.rtc ∧ (State.resumeNumbers s).hq = s.hq ∧ (State.resumeNumbers s).evt = s.evt ∧
    (State.resumeNumbers s).wb = s.wb ∧ (State.resumeNumbers s).core = s.core ∧ (State.resumeNumbers s).dbg = s.dbg ∧
    (State.resumeNumbers s).loop = s.loop ∧ (State.resumeNumbers s).slk = s.slk ∧ (State.resumeNumbers s).est = s.est ∧
    (State.resumeNumbers s).prot = s.prot ∧ (State.resumeNumbers s).dsp = s.dsp ∧ (State.resumeNumbers s).dio = s.dio ∧
    (State.resumeNumbers s).aio = s.aio ∧ (State.resumeNumbers s).can = s.can ∧ (State.resumeNumbers s).net = s.net ∧
    (State.resumeNumbers s).nvs = s.nvs ∧ (State.resumeNumbers s).log = s.log ∧ (State.resumeNumbers s).sec = s.sec ∧
    (State.resumeNumbers s).upd = s.upd ∧ (State.resumeNumbers s).locks = s.locks ∧ (State.resumeNumbers s).regs = s.regs ∧
    (State.resumeNumbers s).mem = s.mem ∧ (State.resumeNumbers s).cfg = s.cfg ∧ (State.resumeNumbers s).resp = s.resp ∧
    (State.resumeNumbers s).out = s.out ∧ (State.resumeNumbers s).freeCtr = s.freeCtr ∧
    (State.resumeNumbers s).pending = s.pending := by
  simpa [Same] using State.resumeNumbers_same s

theorem State.prepareCycle_same (s : State) :
    Same (fun t => (t.sys, t.pwr, t.tb, t.rtc, t.hq, t.evt, t.core, t.dbg, t.loop, t.slk, t.est, t.prot, t.dsp, t.dio, t.aio, t.net, t.nvs, t.log, t.sec, t.upd, t.locks, t.regs, t.mem, t.cfg, t.resp, t.pending)) s (State.prepareCycle s) := by
  unfold State.prepareCycle
  (try dsimp only)
  repeat' first | (with_reducible refine Same.foldl _ _ (fun u x => ?_) ?_) | split
  all_goals simp [Same]

@[simp] theorem State.prepareCycle_frame (s : State) :
    (State.prepareCycle s).sys = s.sys ∧ (State.prepareCycle s).pwr = s.pwr ∧ (State.prepareCycle s).tb = s.tb ∧
    (State.prepareCycle s).rtc = s.rtc ∧ (State.prepareCycle s).hq = s.hq ∧ (State.prepareCycle s).evt = s.evt ∧
    (State.prepareCycle s).core = s.core ∧ (State.prepareCycle s).dbg = s.dbg ∧ (State.prepareCycle s).loop = s.loop ∧
    (State.prepareCycle s).slk = s.slk ∧ (State.prepareCycle s).est = s.est ∧ (State.prepareCycle s).prot = s.prot ∧
    (State.prepareCycle s).dsp = s.dsp ∧ (State.prepareCycle s).dio = s.dio ∧ (State.prepareCycle s).aio = s.aio ∧
    (State.prepareCycle s).net = s.net ∧ (State.prepareCycle s).nvs = s.nvs ∧ (State.prepareCycle s).log = s.log ∧
    (State.prepareCycle s).sec = s.sec ∧ (State.prepareCycle s).upd = s.upd ∧ (State.prepareCycle s).locks = s.locks ∧
    (State.prepareCycle s).regs = s.regs ∧ (State.prepareCycle s).mem = s.mem ∧ (State.prepareCycle s).cfg = s.cfg ∧
    (State.prepareCycle s).resp = s.resp ∧ (State.prepareCycle s).pending = s.pending := by
  simpa [Same] using State.prepareCycle_same s

theorem State.forceGone_same (s : State) (f : Force) (cause : Nat) :
    Same (fun t => (t.pwr, t.tb, t.rtc, t.hq, t.wb, t.core, t.dbg, t.prg, t.loop, t.slk, t.est, t.prot, t.dsp, t.dio, t.aio, t.can, t.net, t.nvs, t.sec, t.upd, t.locks, t.regs, t.cfg, t.resp, t.freeCtr, t.pending)) s (State.forceGone s f cause) := by
  unfold State.forceGone
  (try dsimp only)
  (repeat' split) <;> simp [Same]

@[simp] theorem State.forceGone_frame (s : State) (f : Force) (cause : Nat) :
    (State.forceGone s f cause).pwr = s.pwr ∧ (State.forceGone s f cause).tb = s.tb ∧ (State.forceGone s f cause).rtc = s.rtc ∧
    (State.forceGone s f cause).hq = s.hq ∧ (State.forceGone s f cause).wb = s.wb ∧ (State.forceGone s f cause).core = s.core ∧
    (State.forceGone s f cause).dbg = s.dbg ∧ (State.forceGone s f cause).prg = s.prg ∧
    (State.forceGone s f cause).loop = s.loop ∧ (State.forceGone s f cause).slk = s.slk ∧
    (State.forceGone s f cause).est = s.est ∧ (State.forceGone s f cause).prot = s.prot ∧
    (State.forceGone s f cause).dsp = s.dsp ∧ (State.forceGone s f cause).dio = s.dio ∧
    (State.forceGone s f cause).aio = s.aio ∧ (State.forceGone s f cause).can = s.can ∧
    (State.forceGone s f cause).net = s.net ∧ (State.forceGone s f cause).nvs = s.nvs ∧
    (State.forceGone s f cause).sec = s.sec ∧ (State.forceGone s f cause).upd = s.upd ∧
    (State.forceGone s f cause).locks = s.locks ∧ (State.forceGone s f cause).regs = s.regs ∧
    (State.forceGone s f cause).cfg = s.cfg ∧ (State.forceGone s f cause).resp = s.resp ∧
    (State.forceGone s f cause).freeCtr = s.freeCtr ∧ (State.forceGone s f cause).pending = s.pending := by
  simpa [Same] using State.forceGone_same s f cause

theorem State.sendOutputs_same (s : State) (val : Session → Nat → Nat → Nat) :
    Same (fun t => (t.sys, t.pwr, t.tb, t.rtc, t.hq, t.evt, t.wb, t.core, t.dbg, t.prg, t.loop, t.slk, t.est, t.prot, t.dsp, t.dio, t.aio, t.can, t.net, t.nvs, t.log, t.sec, t.upd, t.locks, t.regs, t.mem, t.cfg, t.resp, t.freeCtr, t.pending)) s (State.sendOutputs s val) := by
  unfold State.sendOutputs
  (try dsimp only)
  repeat' first | (with_reducible refine Same.foldl _ _ (fun u x => ?_) ?_) | split
  all_goals simp [Same]

@[simp] theorem State.sendOutputs_frame (s : State) (val : Session → Nat → Nat → Nat) :
    (State.sendOutputs s val).sys = s.sys ∧ (State.sendOutputs s val).pwr = s.pwr ∧ (State.sendOutputs s val).tb = s.tb ∧
    (State.sendOutputs s val).rtc = s.rtc ∧ (State.sendOutputs s val).hq = s.hq ∧ (State.sendOutputs s val).evt = s.evt ∧
    (State.sendOutputs s val).wb = s.wb ∧ (State.sendOutputs s val).core = s.core ∧ (State.sendOutputs s val).dbg = s.dbg ∧
    (State.sendOutputs s val).prg = s.prg ∧ (State.sendOutputs s val).loop = s.loop ∧ (State.sendOutputs s val).slk = s.slk ∧
    (State.sendOutputs s val).est = s.est ∧ (State.sendOutputs s val).prot = s.prot ∧ (State.sendOutputs s val).dsp = s.dsp ∧
    (State.sendOutputs s val).dio = s.dio ∧ (State.sendOutputs s val).aio = s.aio ∧ (State.sendOutputs s val).can = s.can ∧
    (State.sendOutputs s val).net = s.net ∧ (State.sendOutputs s val).nvs = s.nvs ∧ (State.sendOutputs s val).log = s.log ∧
    (State.sendOutputs s val).sec = s.sec ∧ (State.sendOutputs s val).upd = s.upd ∧ (State.sendOutputs s val).locks = s.locks ∧
    (State.sendOutputs s val).regs = s.regs ∧ (State.sendOutputs s val).mem = s.mem ∧ (State.sendOutputs s val).cfg = s.cfg ∧
    (State.sendOutputs s val).resp = s.resp ∧ (State.sendOutputs s val).freeCtr = s.freeCtr ∧
    (State.sendOutputs s val).pending = s.pending := by
  simpa [Same] using State.sendOutputs_same s val

theorem State.sendTaskStreams_same (s : State) (t seq : Nat) (val : Nat → Nat) :
    Same (fun t => (t.sys, t.pwr, t.tb, t.rtc, t.hq, t.evt, t.wb, t.core, t.dbg, t.prg, t.loop, t.slk, t.est, t.prot, t.dsp, t.dio, t.aio, t.can, t.net, t.nvs, t.log, t.sec, t.upd, t.locks, t.regs, t.mem, t.cfg, t.resp, t.freeCtr, t.pending)) s (State.sendTaskStreams s t seq val) := by
  unfold State.sendTaskStreams
  (try dsimp only)
  repeat' first | (with_reducible refine Same.foldl _ _ (fun u x => ?_) ?_) | split
  all_goals simp [Same]

@[simp] theorem State.sendTaskStreams_frame (s : State) (t seq : Nat) (val : Nat → Nat) :
    (State.sendTaskStreams s t seq val).sys = s.sys ∧ (State.sendTaskStreams s t seq val).pwr = s.pwr ∧
    (State.sendTaskStreams s t seq val).tb = s.tb ∧ (State.sendTaskStreams s t seq val).rtc = s.rtc ∧
    (State.sendTaskStreams s t seq val).hq = s.hq ∧ (State.sendTaskStreams s t seq val).evt = s.evt ∧
    (State.sendTaskStreams s t seq val).wb = s.wb ∧ (State.sendTaskStreams s t seq val).core = s.core ∧
    (State.sendTaskStreams s t seq val).dbg = s.dbg ∧ (State.sendTaskStreams s t seq val).prg = s.prg ∧
    (State.sendTaskStreams s t seq val).loop = s.loop ∧ (State.sendTaskStreams s t seq val).slk = s.slk ∧
    (State.sendTaskStreams s t seq val).est = s.est ∧ (State.sendTaskStreams s t seq val).prot = s.prot ∧
    (State.sendTaskStreams s t seq val).dsp = s.dsp ∧ (State.sendTaskStreams s t seq val).dio = s.dio ∧
    (State.sendTaskStreams s t seq val).aio = s.aio ∧ (State.sendTaskStreams s t seq val).can = s.can ∧
    (State.sendTaskStreams s t seq val).net = s.net ∧ (State.sendTaskStreams s t seq val).nvs = s.nvs ∧
    (State.sendTaskStreams s t seq val).log = s.log ∧ (State.sendTaskStreams s t seq val).sec = s.sec ∧
    (State.sendTaskStreams s t seq val).upd = s.upd ∧ (State.sendTaskStreams s t seq val).locks = s.locks ∧
    (State.sendTaskStreams s t seq val).regs = s.regs ∧ (State.sendTaskStreams s t seq val).mem = s.mem ∧
    (State.sendTaskStreams s t seq val).cfg = s.cfg ∧ (State.sendTaskStreams s t seq val).resp = s.resp ∧
    (State.sendTaskStreams s t seq val).freeCtr = s.freeCtr ∧ (State.sendTaskStreams s t seq val).pending = s.pending := by
  simpa [Same] using State.sendTaskStreams_same s t seq val

theorem State.rearm_same (s : State) :
    Same (fun t => (t.sys, t.pwr, t.tb, t.rtc, t.hq, t.evt, t.wb, t.core, t.dbg, t.prg, t.loop, t.slk, t.est, t.dsp, t.dio, t.aio, t.can, t.net, t.nvs, t.log, t.sec, t.upd, t.locks, t.regs, t.mem, t.cfg, t.resp, t.out, t.freeCtr, t.pending)) s (State.rearm s) := by
  unfold State.rearm
  (try dsimp only)
  repeat' first | (with_reducible refine Same.foldl _ _ (fun u x => ?_) ?_) | split
  all_goals simp [Same]

@[simp] theorem State.rearm_frame (s : State) :
    (State.rearm s).sys = s.sys ∧ (State.rearm s).pwr = s.pwr ∧ (State.rearm s).tb = s.tb ∧ (State.rearm s).rtc = s.rtc ∧
    (State.rearm s).hq = s.hq ∧ (State.rearm s).evt = s.evt ∧ (State.rearm s).wb = s.wb ∧ (State.rearm s).core = s.core ∧
    (State.rearm s).dbg = s.dbg ∧ (State.rearm s).prg = s.prg ∧ (State.rearm s).loop = s.loop ∧ (State.rearm s).slk = s.slk ∧
    (State.rearm s).est = s.est ∧ (State.rearm s).dsp = s.dsp ∧ (State.rearm s).dio = s.dio ∧ (State.rearm s).aio = s.aio ∧
    (State.rearm s).can = s.can ∧ (State.rearm s).net = s.net ∧ (State.rearm s).nvs = s.nvs ∧ (State.rearm s).log = s.log ∧
    (State.rearm s).sec = s.sec ∧ (State.rearm s).upd = s.upd ∧ (State.rearm s).locks = s.locks ∧
    (State.rearm s).regs = s.regs ∧ (State.rearm s).mem = s.mem ∧ (State.rearm s).cfg = s.cfg ∧ (State.rearm s).resp = s.resp ∧
    (State.rearm s).out = s.out ∧ (State.rearm s).freeCtr = s.freeCtr ∧ (State.rearm s).pending = s.pending := by
  simpa [Same] using State.rearm_same s

theorem State.driveLocal_same (s : State) :
    Same (fun t => (t.sys, t.pwr, t.tb, t.rtc, t.hq, t.evt, t.wb, t.core, t.dbg, t.prg, t.loop, t.slk, t.est, t.prot, t.dsp, t.can, t.net, t.nvs, t.log, t.sec, t.upd, t.locks, t.regs, t.mem, t.cfg, t.resp, t.out, t.freeCtr, t.pending)) s (State.driveLocal s) := by
  unfold State.driveLocal
  (try dsimp only)
  repeat' first | (with_reducible refine Same.foldl _ _ (fun u x => ?_) ?_) | split
  all_goals simp [Same]

@[simp] theorem State.driveLocal_frame (s : State) :
    (State.driveLocal s).sys = s.sys ∧ (State.driveLocal s).pwr = s.pwr ∧ (State.driveLocal s).tb = s.tb ∧
    (State.driveLocal s).rtc = s.rtc ∧ (State.driveLocal s).hq = s.hq ∧ (State.driveLocal s).evt = s.evt ∧
    (State.driveLocal s).wb = s.wb ∧ (State.driveLocal s).core = s.core ∧ (State.driveLocal s).dbg = s.dbg ∧
    (State.driveLocal s).prg = s.prg ∧ (State.driveLocal s).loop = s.loop ∧ (State.driveLocal s).slk = s.slk ∧
    (State.driveLocal s).est = s.est ∧ (State.driveLocal s).prot = s.prot ∧ (State.driveLocal s).dsp = s.dsp ∧
    (State.driveLocal s).can = s.can ∧ (State.driveLocal s).net = s.net ∧ (State.driveLocal s).nvs = s.nvs ∧
    (State.driveLocal s).log = s.log ∧ (State.driveLocal s).sec = s.sec ∧ (State.driveLocal s).upd = s.upd ∧
    (State.driveLocal s).locks = s.locks ∧ (State.driveLocal s).regs = s.regs ∧ (State.driveLocal s).mem = s.mem ∧
    (State.driveLocal s).cfg = s.cfg ∧ (State.driveLocal s).resp = s.resp ∧ (State.driveLocal s).out = s.out ∧
    (State.driveLocal s).freeCtr = s.freeCtr ∧ (State.driveLocal s).pending = s.pending := by
  simpa [Same] using State.driveLocal_same s

theorem State.taskDone_same (s : State) (t : Nat) (writes : List (Nat × Nat)) (calls : List FbCall) :
    Same (fun t => (t.sys, t.pwr, t.tb, t.rtc, t.hq, t.evt, t.wb, t.core, t.dbg, t.slk, t.est, t.prot, t.dsp, t.dio, t.aio, t.can, t.net, t.nvs, t.log, t.sec, t.upd, t.locks, t.regs, t.mem, t.cfg, t.resp, t.out, t.freeCtr, t.pending)) s (State.taskDone s t writes calls) := by
  unfold State.taskDone
  (try dsimp only)
  repeat' first | (with_reducible refine Same.foldl _ _ (fun u x => ?_) ?_) | split
  all_goals simp [Same]

@[simp] theorem State.taskDone_frame (s : State) (t : Nat) (writes : List (Nat × Nat)) (calls : List FbCall) :
    (State.taskDone s t writes calls).sys = s.sys ∧ (State.taskDone s t writes calls).pwr = s.pwr ∧
    (State.taskDone s t writes calls).tb = s.tb ∧ (State.taskDone s t writes calls).rtc = s.rtc ∧
    (State.taskDone s t writes calls).hq = s.hq ∧ (State.taskDone s t writes calls).evt = s.evt ∧
    (State.taskDone s t writes calls).wb = s.wb ∧ (State.taskDone s t writes calls).core = s.core ∧
    (State.taskDone s t writes calls).dbg = s.dbg ∧ (State.taskDone s t writes calls).slk = s.slk ∧
    (State.taskDone s t writes calls).est = s.est ∧ (State.taskDone s t writes calls).prot = s.prot ∧
    (State.taskDone s t writes calls).dsp = s.dsp ∧ (State.taskDone s t writes calls).dio = s.dio ∧
    (State.taskDone s t writes calls).aio = s.aio ∧ (State.taskDone s t writes calls).can = s.can ∧
    (State.taskDone s t writes calls).net = s.net ∧ (State.taskDone s t writes calls).nvs = s.nvs ∧
    (State.taskDone s t writes calls).log = s.log ∧ (State.taskDone s t writes calls).sec = s.sec ∧
    (State.taskDone s t writes calls).upd = s.upd ∧ (State.taskDone s t writes calls).locks = s.locks ∧
    (State.taskDone s t writes calls).regs = s.regs ∧ (State.taskDone s t writes calls).mem = s.mem ∧
    (State.taskDone s t writes calls).cfg = s.cfg ∧ (State.taskDone s t writes calls).resp = s.resp ∧
    (State.taskDone s t writes calls).out = s.out ∧ (State.taskDone s t writes calls).freeCtr = s.freeCtr ∧
    (State.taskDone s t writes calls).pending = s.pending := by
  simpa [Same] using State.taskDone_same s t writes calls

theorem State.journalRetained_same (s : State) (before : List (Nat × Nat)) :
    Same (fun t => (t.pwr, t.tb, t.rtc, t.hq, t.evt, t.core, t.dbg, t.prg, t.loop, t.slk, t.est, t.prot, t.dsp, t.dio, t.aio, t.can, t.net, t.nvs, t.sec, t.upd, t.locks, t.regs, t.cfg, t.resp, t.freeCtr, t.pending)) s (State.journalRetained s before) := by
  unfold State.journalRetained
  (try dsimp only)
  (repeat' split) <;> simp [Same]

@[simp] theorem State.journalRetained_frame (s : State) (before : List (Nat × Nat)) :
    (State.journalRetained s before).pwr = s.pwr ∧ (State.journalRetained s before).tb = s.tb ∧
    (State.journalRetained s before).rtc = s.rtc ∧ (State.journalRetained s before).hq = s.hq ∧
    (State.journalRetained s before).evt = s.evt ∧ (State.journalRetained s before).core = s.core ∧
    (State.journalRetained s before).dbg = s.dbg ∧ (State.journalRetained s before).prg = s.prg ∧
    (State.journalRetained s before).loop = s.loop ∧ (State.journalRetained s before).slk = s.slk ∧
    (State.journalRetained s before).est = s.est ∧ (State.journalRetained s before).prot = s.prot ∧
    (State.journalRetained s before).dsp = s.dsp ∧ (State.journalRetained s before).dio = s.dio ∧
    (State.journalRetained s before).aio = s.aio ∧ (State.journalRetained s before).can = s.can ∧
    (State.journalRetained s before).net = s.net ∧ (State.journalRetained s before).nvs = s.nvs ∧
    (State.journalRetained s before).sec = s.sec ∧ (State.journalRetained s before).upd = s.upd ∧
    (State.journalRetained s before).locks = s.locks ∧ (State.journalRetained s before).regs = s.regs ∧
    (State.journalRetained s before).cfg = s.cfg ∧ (State.journalRetained s before).resp = s.resp ∧
    (State.journalRetained s before).freeCtr = s.freeCtr ∧ (State.journalRetained s before).pending = s.pending := by
  simpa [Same] using State.journalRetained_same s before

theorem State.switchRecord_same (s : State) :
    Same (fun t => (t.pwr, t.tb, t.rtc, t.hq, t.evt, t.wb, t.core, t.dbg, t.prg, t.loop, t.slk, t.est, t.prot, t.dsp, t.dio, t.aio, t.can, t.net, t.nvs, t.sec, t.upd, t.locks, t.regs, t.cfg, t.resp, t.out, t.freeCtr, t.pending)) s (State.switchRecord s) := by
  unfold State.switchRecord
  (try dsimp only)
  (repeat' split) <;> simp [Same]

@[simp] theorem State.switchRecord_frame (s : State) :
    (State.switchRecord s).pwr = s.pwr ∧ (State.switchRecord s).tb = s.tb ∧ (State.switchRecord s).rtc = s.rtc ∧
    (State.switchRecord s).hq = s.hq ∧ (State.switchRecord s).evt = s.evt ∧ (State.switchRecord s).wb = s.wb ∧
    (State.switchRecord s).core = s.core ∧ (State.switchRecord s).dbg = s.dbg ∧ (State.switchRecord s).prg = s.prg ∧
    (State.switchRecord s).loop = s.loop ∧ (State.switchRecord s).slk = s.slk ∧ (State.switchRecord s).est = s.est ∧
    (State.switchRecord s).prot = s.prot ∧ (State.switchRecord s).dsp = s.dsp ∧ (State.switchRecord s).dio = s.dio ∧
    (State.switchRecord s).aio = s.aio ∧ (State.switchRecord s).can = s.can ∧ (State.switchRecord s).net = s.net ∧
    (State.switchRecord s).nvs = s.nvs ∧ (State.switchRecord s).sec = s.sec ∧ (State.switchRecord s).upd = s.upd ∧
    (State.switchRecord s).locks = s.locks ∧ (State.switchRecord s).regs = s.regs ∧ (State.switchRecord s).cfg = s.cfg ∧
    (State.switchRecord s).resp = s.resp ∧ (State.switchRecord s).out = s.out ∧ (State.switchRecord s).freeCtr = s.freeCtr ∧
    (State.switchRecord s).pending = s.pending := by
  simpa [Same] using State.switchRecord_same s

theorem State.commitCycle_same (s : State) (writes : List (Nat × Nat)) (calls : List FbCall) :
    Same (fun t => (t.pwr, t.tb, t.rtc, t.hq, t.evt, t.core, t.dbg, t.slk, t.est, t.dsp, t.dio, t.aio, t.net, t.nvs, t.sec, t.upd, t.locks, t.regs, t.cfg, t.resp, t.freeCtr, t.pending)) s (State.commitCycle s writes calls) := by
  unfold State.commitCycle
  (try dsimp only)
  (repeat' split) <;> simp [Same]

@[simp] theorem State.commitCycle_frame (s : State) (writes : List (Nat × Nat)) (calls : List FbCall) :
    (State.commitCycle s writes calls).pwr = s.pwr ∧ (State.commitCycle s writes calls).tb = s.tb ∧
    (State.commitCycle s writes calls).rtc = s.rtc ∧ (State.commitCycle s writes calls).hq = s.hq ∧
    (State.commitCycle s writes calls).evt = s.evt ∧ (State.commitCycle s writes calls).core = s.core ∧
    (State.commitCycle s writes calls).dbg = s.dbg ∧ (State.commitCycle s writes calls).slk = s.slk ∧
    (State.commitCycle s writes calls).est = s.est ∧ (State.commitCycle s writes calls).dsp = s.dsp ∧
    (State.commitCycle s writes calls).dio = s.dio ∧ (State.commitCycle s writes calls).aio = s.aio ∧
    (State.commitCycle s writes calls).net = s.net ∧ (State.commitCycle s writes calls).nvs = s.nvs ∧
    (State.commitCycle s writes calls).sec = s.sec ∧ (State.commitCycle s writes calls).upd = s.upd ∧
    (State.commitCycle s writes calls).locks = s.locks ∧ (State.commitCycle s writes calls).regs = s.regs ∧
    (State.commitCycle s writes calls).cfg = s.cfg ∧ (State.commitCycle s writes calls).resp = s.resp ∧
    (State.commitCycle s writes calls).freeCtr = s.freeCtr ∧ (State.commitCycle s writes calls).pending = s.pending := by
  simpa [Same] using State.commitCycle_same s writes calls

theorem State.emitCycle_same (s : State) :
    Same (fun t => (t.sys, t.pwr, t.tb, t.rtc, t.hq, t.evt, t.wb, t.core, t.dbg, t.prg, t.loop, t.slk, t.est, t.prot, t.dsp, t.can, t.net, t.nvs, t.log, t.sec, t.upd, t.locks, t.regs, t.mem, t.cfg, t.resp, t.freeCtr, t.pending)) s (State.emitCycle s) := by
  unfold State.emitCycle
  (try dsimp only)
  (repeat' split) <;> simp [Same]

@[simp] theorem State.emitCycle_frame (s : State) :
    (State.emitCycle s).sys = s.sys ∧ (State.emitCycle s).pwr = s.pwr ∧ (State.emitCycle s).tb = s.tb ∧
    (State.emitCycle s).rtc = s.rtc ∧ (State.emitCycle s).hq = s.hq ∧ (State.emitCycle s).evt = s.evt ∧
    (State.emitCycle s).wb = s.wb ∧ (State.emitCycle s).core = s.core ∧ (State.emitCycle s).dbg = s.dbg ∧
    (State.emitCycle s).prg = s.prg ∧ (State.emitCycle s).loop = s.loop ∧ (State.emitCycle s).slk = s.slk ∧
    (State.emitCycle s).est = s.est ∧ (State.emitCycle s).prot = s.prot ∧ (State.emitCycle s).dsp = s.dsp ∧
    (State.emitCycle s).can = s.can ∧ (State.emitCycle s).net = s.net ∧ (State.emitCycle s).nvs = s.nvs ∧
    (State.emitCycle s).log = s.log ∧ (State.emitCycle s).sec = s.sec ∧ (State.emitCycle s).upd = s.upd ∧
    (State.emitCycle s).locks = s.locks ∧ (State.emitCycle s).regs = s.regs ∧ (State.emitCycle s).mem = s.mem ∧
    (State.emitCycle s).cfg = s.cfg ∧ (State.emitCycle s).resp = s.resp ∧ (State.emitCycle s).freeCtr = s.freeCtr ∧
    (State.emitCycle s).pending = s.pending := by
  simpa [Same] using State.emitCycle_same s

theorem State.openScan_same (s : State) :
    Same (fun t => (t.sys, t.pwr, t.tb, t.rtc, t.hq, t.evt, t.wb, t.core, t.dbg, t.loop, t.slk, t.est, t.prot, t.dsp, t.dio, t.aio, t.can, t.net, t.nvs, t.log, t.sec, t.upd, t.locks, t.regs, t.mem, t.cfg, t.resp, t.out, t.freeCtr, t.pending)) s (State.openScan s) := by
  unfold State.openScan
  (try dsimp only)
  (repeat' split) <;> simp [Same]

@[simp] theorem State.openScan_frame (s : State) :
    (State.openScan s).sys = s.sys ∧ (State.openScan s).pwr = s.pwr ∧ (State.openScan s).tb = s.tb ∧
    (State.openScan s).rtc = s.rtc ∧ (State.openScan s).hq = s.hq ∧ (State.openScan s).evt = s.evt ∧
    (State.openScan s).wb = s.wb ∧ (State.openScan s).core = s.core ∧ (State.openScan s).dbg = s.dbg ∧
    (State.openScan s).loop = s.loop ∧ (State.openScan s).slk = s.slk ∧ (State.openScan s).est = s.est ∧
    (State.openScan s).prot = s.prot ∧ (State.openScan s).dsp = s.dsp ∧ (State.openScan s).dio = s.dio ∧
    (State.openScan s).aio = s.aio ∧ (State.openScan s).can = s.can ∧ (State.openScan s).net = s.net ∧
    (State.openScan s).nvs = s.nvs ∧ (State.openScan s).log = s.log ∧ (State.openScan s).sec = s.sec ∧
    (State.openScan s).upd = s.upd ∧ (State.openScan s).locks = s.locks ∧ (State.openScan s).regs = s.regs ∧
    (State.openScan s).mem = s.mem ∧ (State.openScan s).cfg = s.cfg ∧ (State.openScan s).resp = s.resp ∧
    (State.openScan s).out = s.out ∧ (State.openScan s).freeCtr = s.freeCtr ∧ (State.openScan s).pending = s.pending := by
  simpa [Same] using State.openScan_same s

theorem State.compareLocal_same (s : State) (es : List ManEntry) :
    Same (fun t => (t.pwr, t.tb, t.rtc, t.hq, t.wb, t.core, t.dbg, t.prg, t.loop, t.slk, t.est, t.prot, t.dsp, t.can, t.net, t.nvs, t.sec, t.upd, t.locks, t.regs, t.cfg, t.resp, t.freeCtr, t.pending)) s (State.compareLocal s es) := by
  unfold State.compareLocal
  (try dsimp only)
  repeat' first | (with_reducible refine Same.foldl _ _ (fun u x => ?_) ?_) | split
  all_goals simp [Same]

@[simp] theorem State.compareLocal_frame (s : State) (es : List ManEntry) :
    (State.compareLocal s es).pwr = s.pwr ∧ (State.compareLocal s es).tb = s.tb ∧ (State.compareLocal s es).rtc = s.rtc ∧
    (State.compareLocal s es).hq = s.hq ∧ (State.compareLocal s es).wb = s.wb ∧ (State.compareLocal s es).core = s.core ∧
    (State.compareLocal s es).dbg = s.dbg ∧ (State.compareLocal s es).prg = s.prg ∧ (State.compareLocal s es).loop = s.loop ∧
    (State.compareLocal s es).slk = s.slk ∧ (State.compareLocal s es).est = s.est ∧ (State.compareLocal s es).prot = s.prot ∧
    (State.compareLocal s es).dsp = s.dsp ∧ (State.compareLocal s es).can = s.can ∧ (State.compareLocal s es).net = s.net ∧
    (State.compareLocal s es).nvs = s.nvs ∧ (State.compareLocal s es).sec = s.sec ∧ (State.compareLocal s es).upd = s.upd ∧
    (State.compareLocal s es).locks = s.locks ∧ (State.compareLocal s es).regs = s.regs ∧
    (State.compareLocal s es).cfg = s.cfg ∧ (State.compareLocal s es).resp = s.resp ∧
    (State.compareLocal s es).freeCtr = s.freeCtr ∧ (State.compareLocal s es).pending = s.pending := by
  simpa [Same] using State.compareLocal_same s es

theorem State.switchTo_same (s : State) (old new : ProgImage) :
    Same (fun t => (t.pwr, t.tb, t.rtc, t.hq, t.wb, t.core, t.dbg, t.loop, t.slk, t.est, t.prot, t.dsp, t.dio, t.aio, t.can, t.net, t.nvs, t.sec, t.upd, t.locks, t.regs, t.cfg, t.resp, t.freeCtr, t.pending)) s (State.switchTo s old new) := by
  unfold State.switchTo
  (try dsimp only)
  repeat' first | (with_reducible refine Same.foldl _ _ (fun u x => ?_) ?_) | split
  all_goals simp [Same]

@[simp] theorem State.switchTo_frame (s : State) (old new : ProgImage) :
    (State.switchTo s old new).pwr = s.pwr ∧ (State.switchTo s old new).tb = s.tb ∧ (State.switchTo s old new).rtc = s.rtc ∧
    (State.switchTo s old new).hq = s.hq ∧ (State.switchTo s old new).wb = s.wb ∧ (State.switchTo s old new).core = s.core ∧
    (State.switchTo s old new).dbg = s.dbg ∧ (State.switchTo s old new).loop = s.loop ∧ (State.switchTo s old new).slk = s.slk ∧
    (State.switchTo s old new).est = s.est ∧ (State.switchTo s old new).prot = s.prot ∧ (State.switchTo s old new).dsp = s.dsp ∧
    (State.switchTo s old new).dio = s.dio ∧ (State.switchTo s old new).aio = s.aio ∧ (State.switchTo s old new).can = s.can ∧
    (State.switchTo s old new).net = s.net ∧ (State.switchTo s old new).nvs = s.nvs ∧ (State.switchTo s old new).sec = s.sec ∧
    (State.switchTo s old new).upd = s.upd ∧ (State.switchTo s old new).locks = s.locks ∧
    (State.switchTo s old new).regs = s.regs ∧ (State.switchTo s old new).cfg = s.cfg ∧
    (State.switchTo s old new).resp = s.resp ∧ (State.switchTo s old new).freeCtr = s.freeCtr ∧
    (State.switchTo s old new).pending = s.pending := by
  simpa [Same] using State.switchTo_same s old new

end Sys2Proof.Machine
end

