-- ==== Sys2Proof/Laws/Programs.lean ====
section
/-! SUPPORT. What program commands, cycles and releases do, said once. -/

namespace Sys2Proof.Machine

theorem progOp_due {s : State} {w : WorkRef} {o : Nat} {op : Op} (h : s.due w o op) (f : Op → State → State) : s.progOp w o f = f op s := by
  obtain ⟨h1, ⟨h2, h3, h4⟩, j, h5, h6, h7⟩ := h
  unfold State.progOp State.coveredOp State.cutOp State.engineOp
  rw [if_pos h1, h2]
  dsimp only
  rw [if_pos ⟨h3, h4⟩, h5]
  dsimp only
  rw [if_pos h6, if_neg (by simp [h7])]

theorem finishCut_holds {s : State} (h : s.holds = true) (op : Op) (st r : Nat) (d : List Byte) : s.finishCut op st r d = s.finish op st r d := by
  unfold State.finishCut
  split
  · rfl
  · rw [if_pos h]

theorem Says.holds {u t : State} {rs : List (RecName × List Nat)} {es : List Nat} (h : Says u rs es t) : t.holds = u.holds := by
  unfold State.holds; rw [h.toReports.wb]

/-- An operation that ends after reports. -/
theorem says_finish {u t : State} {rs : List (RecName × List Nat)} {es : List Nat} (h : Says u rs es t) (hu : u.holds = true) (op : Op) (st r : Nat) :
    t.finishCut op st r = t.finish op st r := finishCut_holds (h.holds.trans hu) ..

theorem stageOrder_says {s : State} (h : s.holds = true) (op : Op) : ∃ u, s.stageOrder op = u.finish op stStageOrder 0 ∧ Says s [] [88] u := by
  have hs := (Says.refl s).raise 88 (by decide)
  exact ⟨_, says_finish hs h _ _ _, hs⟩

theorem bindReport {s u : State} {rs : List (RecName × List Nat)} {es : List Nat} (h : Says s rs es u) (hs : s.holds = true) (op : Op) (o n : ProgImage)
    (k st r : Nat) (l : List Byte) :
    (u.writeBuf op 0 (reportHeader u.prg.changeId o n k ++ l)).finishCut op st r = (u.writeBuf op 0 (reportHeader s.prg.changeId o n k ++ l)).finish op st r := by
  have hp : u.prg.changeId = s.prg.changeId := congrArg (·.changeId) h.toReports.prg
  rw [hp]
  refine finishCut_holds ?_ ..
  unfold State.writeBuf
  exact h.holds.trans hs

theorem forceGone_frame_fold (l : List Force) (s : State) (c : Nat) :
    (l.foldl (fun s f => s.forceGone f c) s).prg = s.prg ∧ (l.foldl (fun s f => s.forceGone f c) s).wb = s.wb ∧
    (l.foldl (fun s f => s.forceGone f c) s).regs = s.regs := by
  induction l generalizing s with
  | nil => exact ⟨rfl, rfl, rfl⟩
  | cons a l ih => simp only [List.foldl_cons, ih, State.forceGone_frame, and_self]

/-- A force that takes hold changes the input image and the variables alone. -/
theorem overlay_keeps (p : PrgSt) : p.overlay = { p with inImage := p.overlay.inImage, items := p.overlay.items } := rfl

theorem overlay_none {p : PrgSt} (h : p.forces = []) : p.overlay = p := by
  have hf : ∀ tg id v, forced ([] : List Force) tg id v = v := fun _ _ _ => rfl
  cases p
  dsimp only at h
  subst h
  unfold PrgSt.overlay
  simp [hf]

theorem applyRestart_facts (s : State) (cold : Bool) :
    (s.applyRestart cold 0).wb = s.wb ∧ (s.applyRestart cold 0).regs = s.regs ∧ (s.applyRestart cold 0).prg.cycle = s.prg.cycle ∧
    (s.applyRestart cold 0).prg.lastCold = cold ∧ (s.applyRestart cold 0).prg.forces = (if cold then [] else s.prg.forces) := by
  unfold State.applyRestart
  dsimp only
  simp only [State.record_frame, forceGone_frame_fold]
  exact ⟨trivial, trivial, rfl, rfl, rfl⟩

theorem coldItems (s : State) (im : ProgImage) (h : s.prg.image = some im) :
    (s.applyRestart true 0).prg.items = (im.items.filter fun i => decide (i.kind = 1)).map (fun i => (i.ident, { value := i.init })) := by
  unfold State.applyRestart
  dsimp only
  simp only [State.record_frame, forceGone_frame_fold, h, Bool.not_true, Bool.false_and, Bool.false_eq_true, if_false, if_true]
  rw [overlay_none rfl]
  dsimp only
  induction im.items with
  | nil => rfl
  | cons a l ih =>
    by_cases ha : a.kind = 1 <;> simp [List.filterMap_cons, ha] <;> simpa using ih

theorem holds_of_wb {s t : State} (h : t.wb = s.wb) (hs : s.holds = true) : t.holds = true := by
  unfold State.holds at *; rw [h]; exact hs

theorem setTask_task {s : State} {n : Nat} (h : n < s.prg.tasks.length) (f : Task → Task) : (s.setTask n f).task n = f (s.task n) := by
  unfold State.task State.setTask
  dsimp only
  have hg : s.prg.tasks[n]? = some (s.prg.tasks.getD n {}) := by
    rw [List.getD_eq_getElem?_getD, List.getElem?_eq_getElem h]; rfl
  rw [getD_updAt_self _ _ _ _ _ hg]

theorem placeTask_settled {s : State} {n : Nat} (h : s.settled n) : s.placeTask n = s := by
  obtain ⟨h1, h2, h3, h4⟩ := h
  unfold State.placeTask
  dsimp only
  split
  · rfl
  · have hf : ((s.task n).home :: (s.task n).backups ++ [0, 1, 2, 3]).find? (fun k => if (s.task n).prot then s.pairSafe k else s.pairUp k) =
        some (s.task n).home := by
      rw [List.cons_append, List.find?_cons]
      rw [h2, h3, h4]
      simp
    rw [hf]
    dsimp only
    rw [if_pos h2]

theorem settled_setTask {s : State} {n : Nat} (h : s.settled n) (f : Task → Task) (hf : ∀ x, (f x).home = x.home ∧ (f x).pair = x.pair) :
    (s.setTask n f).settled n := by
  obtain ⟨h1, h2, h3, h4⟩ := h
  refine ⟨?_, ?_, ?_, ?_⟩
  · show n < (updAt s.prg.tasks n f).length
    rw [updAt_length]; exact h1
  · rw [setTask_task h1, (hf _).1, (hf _).2]; exact h2
  · rw [setTask_task h1, (hf _).2]; exact h3
  · rw [setTask_task h1, (hf _).2]; exact h4

/-- What being settled depends on. -/
theorem settled_congr {s t : State} {n : Nat} (h : s.settled n) (h1 : t.prg.tasks = s.prg.tasks) (h2 : t.core = s.core)
    (h3 : t.sys.unitHealth = s.sys.unitHealth) : t.settled n := by
  unfold State.settled State.pairSafe State.pairUp State.pair State.task at *
  rw [h1, h2, h3]; exact h

theorem plantRestart_none {s : State} (h : s.prg.restartKind = none) (t : Nat) : s.plantRestart t = s := by
  unfold State.plantRestart; rw [h]

/-- The program's inputs change the loop engine's alone. -/
theorem networkInputs_loop (s : State) : ∃ l, s.networkInputs = { s with loop := l } := by
  have hw : ∀ (f : State → Nat × Word → State), (∀ u p, ∃ l, f u p = { u with loop := l }) → ∀ (ws : List (Nat × Word)) (u : State),
      ∃ l, ws.foldl f u = { u with loop := l } := by
    intro f hf ws
    induction ws with
    | nil => exact fun u => ⟨u.loop, rfl⟩
    | cons a ws ih =>
      intro u
      obtain ⟨l1, h1⟩ := hf u a
      obtain ⟨l2, h2⟩ := ih (f u a)
      exact ⟨l2, by rw [List.foldl_cons, h2, h1]⟩
  have hs : ∀ (f : State → Nat × Session → State), (∀ u p, ∃ l, f u p = { u with loop := l }) → ∀ (ws : List (Nat × Session)) (u : State),
      ∃ l, ws.foldl f u = { u with loop := l } := by
    intro f hf ws
    induction ws with
    | nil => exact fun u => ⟨u.loop, rfl⟩
    | cons a ws ih =>
      intro u
      obtain ⟨l1, h1⟩ := hf u a
      obtain ⟨l2, h2⟩ := ih (f u a)
      exact ⟨l2, by rw [List.foldl_cons, h2, h1]⟩
  unfold State.networkInputs
  refine hs _ (fun u e => ?_) _ _
  dsimp only
  split
  · exact hw _ (fun v p => ⟨_, rfl⟩) _ _
  · split
    · exact hw _ (fun v p => ⟨_, rfl⟩) _ _
    · exact ⟨u.loop, rfl⟩

theorem switchRings_none {s : State} (h : s.prot.oldRings = []) : s.switchRings = s := by
  unfold State.switchRings
  rw [h]
  simp

/-- A cycle of task 0 that starts by a manifest, with no restart waiting and no cutover running. -/
theorem beginCycle_eq {s : State} {m : ManSt} (h : s.prg.restartKind = none) (ho : s.prot.oldRings = []) (hs : s.settled 0) :
    ∃ l : LoopSt, ∃ c, s.beginCycle m = { s with
    loop := l, est := { s.est with epochCuts := c }, wb := { s.wb with covered := max s.wb.covered m.jsnCut, cycle := m.cycle },
    prg := { s.prg with
      cycle := m.cycle, next := none, switchCycle := false, timerDue := [], scanOpen := false, taskTime := entryTime m.entries, inImage := s.buildImage m.entries, tasks := updAt s.prg.tasks 0 fun x => { x with running := true, time := entryTime m.entries, angle := m.angle } } } := by
  unfold State.beginCycle
  dsimp only
  rw [plantRestart_none (s := { s with prg := { s.prg with cycle := m.cycle, next := none, switchCycle := false, timerDue := [], scanOpen := false } }) h]
  dsimp only
  unfold State.noteEpochs
  dsimp only
  generalize newest 64 _ = c
  rw [switchRings_none]
  swap
  · exact ho
  obtain ⟨l, hl⟩ := networkInputs_loop { s with
    est := { s.est with epochCuts := c }
    wb := { s.wb with covered := max s.wb.covered m.jsnCut, cycle := m.cycle }
    prg := { s.prg with cycle := m.cycle, next := none, switchCycle := false, timerDue := [], scanOpen := false, taskTime := entryTime m.entries } }
  dsimp only at hl ⊢
  rw [hl]
  rw [placeTask_settled]
  · exact ⟨l, c, rfl⟩
  · refine settled_setTask ?_ _ (fun x => ⟨rfl, rfl⟩)
    exact settled_congr hs rfl rfl rfl

theorem sendOutputs_eq {s : State} (h : ∀ x ∈ s.cfg.sessions, s.netOn x.network = true) (val : Session → Nat → Nat → Nat) : s.sendOutputs val = { s with
    out := s.out ++ s.cfg.sessions.map fun x =>
      .net x.network 5 (.output x.station s.prg.cycle (s.cycEpoch x.stream) (s.prg.cycle % 2 ^ 32) (sessionPoints x val)) } := by
  unfold State.sendOutputs
  have key : ∀ (l : List Session) (o : List Out), (∀ x ∈ l, s.netOn x.network = true) →
      l.foldl (fun s x => if s.netOn x.network then
        s.emit (.net x.network 5 (.output x.station s.prg.cycle (s.cycEpoch x.stream) (s.prg.cycle % 2 ^ 32) (sessionPoints x val))) else s) { s with out := o } =
      { s with out := o ++ l.map fun x => .net x.network 5 (.output x.station s.prg.cycle (s.cycEpoch x.stream) (s.prg.cycle % 2 ^ 32) (sessionPoints x val)) } := by
    intro l
    induction l with
    | nil => intro o _; simp
    | cons a l ih =>
      intro o hl
      rw [List.foldl_cons, if_pos (show State.netOn { s with out := o } _ = true from hl a List.mem_cons_self)]
      have := ih (o ++ [.net a.network 5 (.output a.station s.prg.cycle (s.cycEpoch a.stream) (s.prg.cycle % 2 ^ 32) (sessionPoints a val))]) (fun x hx => hl x (List.mem_cons_of_mem _ hx))
      refine this.trans ?_
      simp
  exact key _ s.out h

theorem sendTaskStreams_eq {s : State} (h : s.netOn 0 = true) (t seq : Nat) (val : Nat → Nat) : s.sendTaskStreams t seq val = { s with
    out := s.out ++ (s.taskStreams t).map fun id =>
      .net 0 2 (.stream 0 id (s.cycEpoch id) (seq % 2 ^ 32) false false (wordBytes ((s.taskPoints t).map fun i => BitVec.ofNat 32 (val i)))) } := by
  unfold State.sendTaskStreams
  generalize wordBytes _ = pay
  have key : ∀ (l : List Nat) (o : List Out), l.foldl (fun s id => if s.netOn 0 then
        s.emit (.net 0 2 (.stream 0 id (s.cycEpoch id) (seq % 2 ^ 32) false false pay)) else s) { s with out := o } =
      { s with out := o ++ l.map fun id => .net 0 2 (.stream 0 id (s.cycEpoch id) (seq % 2 ^ 32) false false pay) } := by
    intro l
    induction l with
    | nil => intro o; simp
    | cons a l ih =>
      intro o
      rw [List.foldl_cons, if_pos (show State.netOn { s with out := o } _ = true from h)]
      refine (ih (o ++ [.net 0 2 (.stream 0 a (s.cycEpoch a) (seq % 2 ^ 32) false false pay)])).trans ?_
      simp
  exact key _ s.out

theorem judgeCycle_in {s : State} {im : ProgImage} {us : Nat} (h1 : us ≤ im.watchUs ∨ s.prg.switchCycle = true) (h2 : us ≤ im.maxCycleUs) : s.judgeCycle im us =
    (({ s with prg := { s.prg with cycleLast := min us (2 ^ 24 - 1), cycleMax := max s.prg.cycleMax (min us (2 ^ 24 - 1)) } } : State).setTask 0
      fun x => { x with ovrRun := 0 }, false) := by
  unfold State.judgeCycle
  dsimp only
  have e1 : (decide (im.watchUs < us) && !s.prg.switchCycle) = false := by
    rcases h1 with h | h
    · rw [decide_eq_false (by omega)]; rfl
    · simp [h]
  have e2 : decide (im.maxCycleUs < us) = false := by simp; omega
  rw [e1, e2]
  rfl

theorem overrun_says (s : State) (n k : Nat) : Says (s.setTask n fun x => { x with ovrRun := satAt 255 (x.ovrRun + 1), ovrTotal := satAt 65535 (x.ovrTotal + 1) })
    [(.taskOverrun, [n, k])] [87] (s.overrun n k) := ((Says.refl _).record .taskOverrun [n, k]).raise 87 (by decide)

theorem judgeCycle_long {s : State} {im : ProgImage} {us : Nat} (h : im.maxCycleUs < us) : (s.judgeCycle im us).2 = true ∧
    (s.judgeCycle im us).1.sys.mode = s.sys.mode ∧ (s.judgeCycle im us).1.sys.stopPend = s.sys.stopPend ∧ (s.judgeCycle im us).1.wb = s.wb := by
  unfold State.judgeCycle
  dsimp only
  refine ⟨by simp [h], ?_⟩
  split
  · have h := (overrun_says { s with prg := { s.prg with cycleLast := min us (2 ^ 24 - 1), cycleMax := max s.prg.cycleMax (min us (2 ^ 24 - 1)) } } 0 s.prg.cycle).toReports
    exact ⟨h.mode, by rw [h.sys]; rfl, h.wb⟩
  · exact ⟨rfl, rfl, rfl⟩

/-- A cycle that is due at a leading member between its cycles: what the length of the last one decides, and then the manifest. -/
theorem cycleStart_between {s : State} {us : Nat} {im : ProgImage} (h : s.between im) (h8 : s.sys.mode ≠ .safeHold) (h9 : im.minCycleUs ≤ us) :
    ∃ u, u = (if (s.judgeCycle im us).2 then (s.judgeCycle im us).1.toleranceGone 0 else (s.judgeCycle im us).1) ∧
    exec (.cycleStart us) s = .next (
      if u.sys.stopPend then u.configStop
      else if !u.leads ∨ u.prg.runState ≠ 1 then u
      else match u.prg.next, u.readyManifest 0 with
        | some m, _ => u.beginCycle m
        | none, some m => (u.takeManifest m).beginCycle m
        | none, none => match u.prepareCycle.prg.next with
          | some m => u.prepareCycle.beginCycle m
          | none => u.prepareCycle) := by
  obtain ⟨h1, h2, h3, h4, h5, h6, h7⟩ := h
  have e : exec (.cycleStart us) s = execCycleStart us s := rfl
  unfold execCycleStart at e
  rw [h1] at e
  dsimp only at e
  have hf : (decide (s.prg.cycle = 0) || s.prg.restartKind.isSome) = false := by simp [h6, h7]
  rw [if_neg (fun x => h8 x.2), if_neg (by simp [h2, h3, h4, h5]), hf, if_neg (by simp; omega)] at e
  exact ⟨_, rfl, e⟩

theorem leads_of_rightful {s : State} (h : s.rightful = true) : s.leads = true := by unfold State.leads; rw [h]; rfl

theorem rightful_of_authoritative {s : State} (h : s.authoritative = true) : s.rightful = true := by
  unfold State.authoritative at h
  exact (Bool.and_eq_true _ _ ▸ h).1

theorem holds_of_rightful {s : State} (h : s.rightful = true) : s.holds = true := by
  unfold State.rightful at h
  simp only [Bool.and_eq_true] at h
  exact h.1.1

theorem updAt_updAt0 {α : Type} {l : List α} {n : Nat} {a : α} {f : α → α} (h : l[n]? = some a) : (updAt l n f)[n]? = some (f a) := by
  have h2 := getD_updAt_self l n f a a h
  have hl : n < (updAt l n f).length := by rw [updAt_length]; exact (List.getElem?_eq_some_iff.1 h).1
  rw [List.getD_eq_getElem?_getD, List.getElem?_eq_getElem hl] at h2
  rw [List.getElem?_eq_getElem hl]
  exact congrArg some h2

/-- The program's record but for its variables, its outputs and the timers due. -/
def PrgSt.frameView (p : PrgSt) : PrgSt := { p with items := [], outImage := [], timerDue := [] }

theorem writeItem_view (s : State) (w : Nat × Nat) : (s.writeItem w).prg.frameView = s.prg.frameView := by
  unfold State.writeItem
  split
  · rfl
  · split <;> rfl

theorem callOne_view (s : State) (n : Nat) (c : FbCall) : (s.callOne n c).prg.frameView = s.prg.frameView := by
  unfold State.callOne
  repeat' split
  all_goals rfl

theorem taskDone_view (s : State) (n : Nat) (ws : List (Nat × Nat)) (cs : List FbCall) : (s.taskDone n ws cs).prg.frameView = s.prg.frameView := by
  have h1 : ∀ (l : List FbCall) (k : Nat → Nat → Nat) (u : State) (f : State → Nat), (l.foldl (fun s c => s.callOne (f s) c) u).prg.frameView = u.prg.frameView := by
    intro l k u f
    induction l generalizing u with
    | nil => rfl
    | cons a l ih => rw [List.foldl_cons, ih, callOne_view]
  have h2 : ∀ (l : List (Nat × Nat)) (u : State), (l.foldl State.writeItem u).prg.frameView = u.prg.frameView := by
    intro l
    induction l with
    | nil => exact fun _ => rfl
    | cons a l ih => intro u; rw [List.foldl_cons, ih, writeItem_view]
  have h3 : ∀ (l : List (Nat × Nat)) (u : State) (p : State → Nat × Nat → Bool) (v : State → Nat × Nat → F32) (k : State → Nat),
      (l.foldl (fun s e => if p s e then s.setInput 3 e.2 (v s e) (k s) true else s) u).prg = u.prg := by
    intro l u p v k
    induction l generalizing u with
    | nil => rfl
    | cons a l ih =>
      rw [List.foldl_cons, ih]
      split
      · simp only [State.setInput_frame]
      · rfl
  unfold State.taskDone
  dsimp only
  split
  · refine (congrArg PrgSt.frameView (h3 _ _ (fun _ e => ws.any fun w => w.1 == e.1) (fun s e => BitVec.ofNat 32 (((assocGet s.prg.items e.1).map (·.value)).getD 0)) (fun s => (s.task n).angle))).trans ?_
    exact (h2 _ _).trans (h1 cs (fun _ _ => 0) s (fun s => (s.task n).time))
  · exact (h2 _ _).trans (h1 cs (fun _ _ => 0) s (fun s => (s.task n).time))

theorem exchange_prg (l : List (Nat × Nat)) (u : State) (p : State → Nat × Nat → Bool) (v : State → Nat × Nat → F32) (k : State → Nat) :
    (l.foldl (fun s e => if p s e then s.setInput 3 e.2 (v s e) (k s) true else s) u).prg = u.prg := by
  induction l generalizing u with
  | nil => rfl
  | cons a l ih =>
    rw [List.foldl_cons, ih]
    split
    · simp only [State.setInput_frame]
    · rfl

theorem taskDone_out {s : State} {id v : Nat} {i : ProgItem} {n : Nat} (h1 : s.progItem id = some i) (h2 : i.kind = 6) (h3 : i.target = 2) :
    (s.taskDone n [(id, v)] []).prg = { s.prg with outImage := assocSet s.prg.outImage id v } := by
  have hw : s.writeItem (id, v) = { s with prg := { s.prg with outImage := assocSet s.prg.outImage id v } } := by
    unfold State.writeItem
    rw [h1]
    dsimp only
    rw [if_pos ⟨h2, h3⟩]
  unfold State.taskDone
  dsimp only [List.foldl_nil, List.foldl_cons]
  rw [hw]
  split
  · exact exchange_prg _ _ (fun _ e => [(id, v)].any fun w => w.1 == e.1) (fun s e => BitVec.ofNat 32 (((assocGet s.prg.items e.1).map (·.value)).getD 0)) (fun s => (s.task n).angle)
  · rfl

theorem settleStation_prg (s : State) (k : Nat) (g : Option (List Word)) : (s.settleStation k g).prg = { s.prg with stations := (s.settleStation k g).prg.stations } := by
  unfold State.settleStation
  dsimp only
  split
  · split
    · simp only [State.record_frame]; rfl
    · rfl
  · split
    · simp only [State.raise_frame, State.record_frame]; rfl
    · rfl

theorem settleAll_prg (s : State) (g : Nat → Option (List Word)) : (s.settleAll g).prg = { s.prg with stations := (s.settleAll g).prg.stations } := by
  unfold State.settleAll
  generalize List.range s.cfg.sessions.length = l
  induction l generalizing s with
  | nil => rfl
  | cons a l ih => rw [List.foldl_cons, ih, settleStation_prg]

theorem prepareCycle_facts {s : State} (h : s.prg.restartKind = none) : ∃ m, s.prepareCycle.prg = { s.prg with next := some m } ∧
    m.task = 0 ∧ m.cycle = s.prg.cycle + 1 ∧ m.jsnCut = s.jsnCut ∧ m.angle = s.tb.ang ∧ s.prepareCycle.wb.newItems = [] ∧
    s.prepareCycle.can.unused = [] ∧ s.prepareCycle.wb.jsn = s.wb.jsn := by
  have hr : s.resumeNumbers = s := by unfold State.resumeNumbers; rw [if_pos (Or.inl (by rw [h]; rfl))]
  have hl : s.lastCycle = s.prg.cycle := by unfold State.lastCycle; rw [h]; rfl
  unfold State.prepareCycle
  dsimp only
  rw [hr, hl]
  simp only [State.sendManifest_frame]
  refine ⟨_, rfl, ?_, ?_, ?_, ?_, ?_, ?_, ?_⟩ <;> first | rfl | trivial

theorem startRelease_facts {s : State} {n : Nat} (h : s.settled n) (k : Nat) (late : Bool) (can : List (ManEntry × List Byte)) :
    ∃ c, (s.startRelease n k late can).task n = { s.task n with running := true, excess := false, time := c, angle := s.tb.ang } ∧
      (s.startRelease n k late can).wb.jsn = s.wb.jsn ∧ (s.startRelease n k late can).prg.cycle = s.prg.cycle := by
  unfold State.startRelease
  dsimp only
  generalize entryTime _ = c
  generalize hu : State.sendManifest _ _ _ = u
  have u1 : u.prg = s.prg ∧ u.wb.jsn = s.wb.jsn ∧ u.core = s.core ∧ u.sys = s.sys := by
    rw [← hu]; simp only [State.sendManifest_frame, and_self]
  refine ⟨c, ?_⟩
  rw [placeTask_settled]
  · refine ⟨?_, u1.2.1, ?_⟩
    · rw [setTask_task (by show n < u.prg.tasks.length; rw [u1.1]; exact h.1)]
      unfold State.task
      rw [u1.1]
      rfl
    · show u.prg.cycle = _
      rw [u1.1]
  · refine settled_setTask (settled_congr h ?_ u1.2.2.1 (by show u.sys.unitHealth = _; rw [u1.2.2.2])) _ (fun y => ⟨rfl, rfl⟩)
    show u.prg.tasks = _
    rw [u1.1]

/-- An end of task 0 at the holder. -/
theorem commitCycle_facts {s : State} (ws : List (Nat × Nat)) (cs : List FbCall) (ha : s.authoritative = true) :
    ∃ v, (s.commitCycle ws cs).wb.jsn = s.wb.jsn + 1 ∧
      (s.commitCycle ws cs).wb.journal = s.wb.journal ++ [⟨s.wb.jsn + 1, s.sendGen, .retained s.prg.cycle v⟩] ∧
      ((s.commitCycle ws cs).prg.tasks = updAt s.prg.tasks 0 (fun x => { x with running := false }) ∧
        (s.commitCycle ws cs).prg.cycle = s.prg.cycle ∧ (s.commitCycle ws cs).prg.inImage = s.prg.inImage) ∧
      (s.commitCycle ws cs).prg.outImage = (s.taskDone 0 ws cs).prg.outImage ∧ (s.commitCycle ws cs).prg.items = (s.taskDone 0 ws cs).prg.items ∧
      (s.commitCycle ws cs).holds = true ∧
      (s.commitCycle ws cs).regs = s.regs ∧ (s.commitCycle ws cs).hq = s.hq ∧ (s.commitCycle ws cs).sys.mode = s.sys.mode := by
  unfold State.commitCycle
  dsimp only
  have hv := taskDone_view s 0 ws cs
  generalize hu : s.taskDone 0 ws cs = u at hv ⊢
  have f1 : u.wb = s.wb := by rw [← hu]; simp only [State.taskDone_frame]
  have f2 : u.regs = s.regs := by rw [← hu]; simp only [State.taskDone_frame]
  have f3 : u.hq = s.hq := by rw [← hu]; simp only [State.taskDone_frame]
  have f4 : u.sys = s.sys := by rw [← hu]; simp only [State.taskDone_frame]
  have f5 : u.pwr = s.pwr := by rw [← hu]; simp only [State.taskDone_frame]
  have g : ∀ w : State, w.switchRecord.sys.mode = w.sys.mode := by
    intro w
    unfold State.switchRecord
    split
    · rw [State.record_sys]
    · rfl
  generalize hx : (u.setTask 0 fun x => { x with running := false }).switchRecord.rearm = x
  have x1 : x.prg = (u.setTask 0 fun x => { x with running := false }).prg := by rw [← hx]; simp only [State.rearm_frame, State.switchRecord_frame]
  have x2 : x.wb = s.wb := by rw [← hx, ← f1]; simp only [State.rearm_frame, State.switchRecord_frame, State.setTask_frame]
  have x3 : x.regs = s.regs := by rw [← hx, ← f2]; simp only [State.rearm_frame, State.switchRecord_frame, State.setTask_frame]
  have x4 : x.hq = s.hq := by rw [← hx, ← f3]; simp only [State.rearm_frame, State.switchRecord_frame, State.setTask_frame]
  have x5 : x.pwr = s.pwr := by rw [← hx, ← f5]; simp only [State.rearm_frame, State.switchRecord_frame, State.setTask_frame]
  have x6 : x.sys.mode = s.sys.mode := by
    rw [← hx, ← f4]; simp only [State.rearm_frame]; rw [g]; simp only [State.setTask_frame]
  generalize hy : ({ x with can := { x.can with built := [] }, wb := { x.wb with digests := newest 64 (assocSet x.wb.digests x.prg.cycle x.cycleDigests) } } : State) = y
  have ya : y.authoritative = true := by
    rw [← ha, ← hy]; unfold State.authoritative State.rightful State.handsOver State.holds; dsimp only; rw [x2, x5, x6]
  have y1 : y.wb.jsn = s.wb.jsn ∧ y.wb.journal = s.wb.journal ∧ y.sendGen = s.sendGen ∧ y.wb.lease = s.wb.lease := by
    rw [← hy]; unfold State.sendGen State.holds; dsimp only; rw [x2]; exact ⟨rfl, rfl, rfl, rfl⟩
  have yp : y.prg = x.prg := by rw [← hy]
  have hc : y.prg.cycle = s.prg.cycle := by
    rw [yp, x1]
    have := congrArg PrgSt.cycle hv
    exact this
  unfold State.journalRetained
  rw [if_pos ya, hc]
  refine ⟨y.retainedImage.filter fun v => !s.retainedImage.contains v, ?_, ?_, ?_, ?_, ?_, ?_, ?_, ?_, ?_⟩
  · rw [journalAdd_wb]; dsimp only; rw [y1.1]
  · rw [journalAdd_wb]; dsimp only; rw [y1.1, y1.2.1, y1.2.2.1]
  · simp only [State.journalAdd_frame]
    rw [yp, x1]
    have h1 : u.prg.tasks = s.prg.tasks := by have := congrArg PrgSt.tasks hv; exact this
    have h2 : u.prg.cycle = s.prg.cycle := by have := congrArg PrgSt.cycle hv; exact this
    have h3 : u.prg.inImage = s.prg.inImage := by have := congrArg PrgSt.inImage hv; exact this
    refine ⟨?_, h2, h3⟩
    show updAt u.prg.tasks 0 _ = _
    rw [h1]
  · simp only [State.journalAdd_frame]; rw [yp, x1]; rfl
  · simp only [State.journalAdd_frame]; rw [yp, x1]; rfl
  · unfold State.holds; rw [journalAdd_wb]; dsimp only; rw [y1.2.2.2]
    exact holds_of_rightful (rightful_of_authoritative ha)
  · simp only [State.journalAdd_frame]; rw [← hy]; exact x3
  · simp only [State.journalAdd_frame]; rw [← hy]; exact x4
  · rw [journalAdd_sys]; dsimp only; rw [← hy]; exact x6

/-- The mode, the units lost and what was sent, the host's interrupts apart. -/
def State.quiet (s : State) : Mode × Nat × List Out := (s.sys.mode, s.sys.unitHealth, s.out.filter fun o => !o.toHost)

theorem Reports.quiet {u t : State} (h : Reports u t) : t.quiet = u.quiet := by
  unfold State.quiet; rw [h.mode, h.unitHealth, h.sent]

theorem foldl_quiet {α : Type} (f : State → α → State) (hf : ∀ u x, (f u x).quiet = u.quiet) (l : List α) (u : State) : (l.foldl f u).quiet = u.quiet := by
  induction l generalizing u with
  | nil => rfl
  | cons a l ih => rw [List.foldl_cons, ih, hf]

theorem settleAll_quiet (s : State) (g : Nat → Option (List Word)) : (s.settleAll g).quiet = s.quiet := by
  unfold State.settleAll
  refine foldl_quiet _ (fun u k => ?_) _ _
  unfold State.settleStation
  dsimp only
  split
  · split
    · exact (Reports.record _ _ _).quiet
    · rfl
  · split
    · exact ((Reports.record _ _ _).trans (Reports.raise _ _)).quiet
    · rfl

theorem compareLocal_quiet (s : State) (es : List ManEntry) : (s.compareLocal es).quiet = s.quiet := by
  have h1 : ∀ (u : State) h n, (u.diDiverge h n).quiet = u.quiet := by
    intro u h n
    unfold State.diDiverge
    dsimp only
    repeat' split
    all_goals first | rfl | exact ((Reports.record _ _ _).trans (Reports.raise _ _)).quiet
  have h2 : ∀ (u : State) n h, (u.aiDiverge n h).quiet = u.quiet := by
    intro u n h
    unfold State.aiDiverge
    dsimp only
    repeat' split
    all_goals first | rfl | exact ((Reports.record _ _ _).trans (Reports.raise _ _)).quiet
  have h3 : ∀ (u : State) n a b, (u.learnLoopRes n a b).quiet = u.quiet := by
    intro u n a b
    unfold State.learnLoopRes
    dsimp only
    split <;> rfl
  unfold State.compareLocal
  dsimp only
  refine (foldl_quiet _ (fun u k => ?_) _ _).trans ((foldl_quiet _ (fun u k => ?_) _ _).trans ?_)
  · split
    · exact h3 ..
    · rfl
  · split
    · exact h2 ..
    · rfl
  · split
    · exact foldl_quiet _ (fun u k => h1 ..) _ _
    · rfl

end Sys2Proof.Machine
end

