-- ==== Sys2Proof/Laws/LoopEngine.lean ====
section
/-! SUPPORT. The loop engine's commands and evaluations, said once. -/

namespace Sys2Proof.Machine

theorem cutOp_ready {s : State} {w : WorkRef} {e o : Nat} {op : Op} (hh : s.holds = true) (h : s.ready w e o op) (f : Op → State → State) :
    s.cutOp w e o f = f op s := by
  obtain ⟨h1, h2, h3⟩ := h
  unfold State.cutOp State.engineOp
  rw [if_pos hh, h1]
  dsimp only
  rw [if_pos ⟨h2, h3⟩]

theorem loopOp_due {s : State} {w : WorkRef} {o : Nat} {op : Op} {j : Nat} (h : s.loopDue w o op j) (f : Op → State → State) :
    s.loopOp w o f = f op (s.loopTaken op j) := by
  obtain ⟨h1, h2, h3, win, h4, h5⟩ := h
  unfold State.loopTaken
  unfold State.loopOp
  rw [cutOp_ready h1 h2]
  dsimp only
  split
  case h_1 e => rw [h3] at e; cases e
  rename_i j' e
  cases h3.symm.trans e
  rw [h4]
  dsimp only [Option.getD_some]
  have hl : (dTimed op.bytes && !dPtBase op.bytes && decide (windowOf (dTime op.bytes) < win)) = false := by
    rcases h5 with h | h | h
    · simp [h]
    · simp [h]
    · have : ¬ windowOf (dTime op.bytes) < win := by omega
      simp [this]
  rw [hl, if_neg (by simp), Bool.or_false]

theorem refuseLoop_refuses {s : State} (h : s.holds = true) (op : Op) (k : Nat) : LoopRefuses s op (.next (s.refuseLoop op k)) k := by
  have hs := (Says.refl ({ s with loop := { s.loop with lastRefuse := k } } : State)).record .loopRefused [k]
  exact ⟨_, congrArg Host.Outcome.next (says_finish hs h ..), hs⟩

theorem setSlot_slot {s : State} {n : Nat} (h : n < s.loop.slots.length) (f : Slot → Slot) : (s.setSlot n f).slot n = f (s.slot n) := by
  unfold State.slot State.setSlot
  dsimp only
  have hg : s.loop.slots[n]? = some (s.loop.slots.getD n {}) := by
    rw [List.getD_eq_getElem?_getD, List.getElem?_eq_getElem h]; rfl
  rw [getD_updAt_self _ _ _ _ _ hg]

theorem setStage_stage {s : State} {n : Nat} (h : n < s.loop.stages.length) (f : Stage → Stage) : (s.setStage n f).stage n = f (s.stage n) := by
  unfold State.stage State.setStage
  dsimp only
  have hg : s.loop.stages[n]? = some (s.loop.stages.getD n {}) := by
    rw [List.getD_eq_getElem?_getD, List.getElem?_eq_getElem h]; rfl
  rw [getD_updAt_self _ _ _ _ _ hg]

theorem deliverTo_loop (s : State) (d : Nat) (v : F32) : (s.deliverTo d v).loop.slots = s.loop.slots ∧ (s.deliverTo d v).loop.stages = s.loop.stages := by
  unfold State.deliverTo
  dsimp only
  split
  · simp only [State.setAo_frame, and_self]
  · exact ⟨rfl, rfl⟩
  · simp only [State.setSignal_frame, and_self]
  · exact ⟨rfl, rfl⟩
  · exact ⟨rfl, rfl⟩

theorem runStage_facts {s : State} {o : Nat} (h : o < s.loop.stages.length) (st : Nat) (u : F32) :
    (s.runStage o st (some u)).loop.slots = s.loop.slots ∧
    ((s.runStage o st (some u)).stage o).uApp = fclamp (ouMin (s.stage o).record) (ouMax (s.stage o).record) u ∧
    ((s.runStage o st (some u)).stage o).active = true ∧ ((s.runStage o st (some u)).stage o).record = (s.stage o).record := by
  unfold State.runStage
  dsimp only
  refine ⟨(deliverTo_loop _ _ _).1, ?_⟩
  unfold State.stage
  rw [(deliverTo_loop _ _ _).2]
  have := setStage_stage h
  unfold State.stage at this
  rw [this]
  exact ⟨rfl, rfl, rfl⟩

theorem staleOnset_loop (s : State) (n k : Nat) (a b : Bool) : (s.staleOnset n k a b).loop = s.loop := by
  simp only [State.staleOnset_frame]

theorem evalLaw_kept (x : Slot) (y sp ff ts u0 : F32) (b : Bool) : (evalLaw x y sp ff ts u0 b).record = x.record ∧ (evalLaw x y sp ff ts u0 b).enabled = x.enabled ∧
    (evalLaw x y sp ff ts u0 b).fresh = false := ⟨rfl, rfl, rfl⟩

theorem evalSlot_facts {s : State} {n : Nat} (h : n < s.loop.slots.length) (st sk : Nat) (late : Bool) :
    ((s.evalSlot n st late sk).slot n).record = (s.slot n).record ∧ ((s.evalSlot n st late sk).slot n).enabled = (s.slot n).enabled ∧
    ((s.evalSlot n st late sk).slot n).last = st ∧ ((s.evalSlot n st late sk).slot n).fresh = false ∧ ((s.evalSlot n st late sk).slot n).late = late ∧
    ((s.evalSlot n st late sk).slot n).skips = satAt 65535 ((s.slot n).skips + sk) ∧ (s.evalSlot n st late sk).loop.stages = s.loop.stages ∧
    (s.evalSlot n st late sk).loop.slots.length = s.loop.slots.length := by
  unfold State.evalSlot
  dsimp only
  generalize hu : State.staleOnset _ n 2 _ _ = u2
  have h2 : u2.loop = s.loop := by rw [← hu]; simp only [State.staleOnset_frame]
  have hl : n < u2.useFree.loop.slots.length := by show n < u2.loop.slots.length; rw [h2]; exact h
  rw [setSlot_slot hl]
  refine ⟨rfl, rfl, rfl, rfl, rfl, rfl, ?_, ?_⟩
  · show u2.loop.stages = _; rw [h2]
  · show (updAt u2.loop.slots n _).length = _; rw [updAt_length, h2]

theorem track_kept (x : Slot) (u : F32) (z : Bool) : (track x u z).record = x.record ∧ (track x u z).enabled = x.enabled ∧ (track x u z).last = x.last ∧
    (track x u z).fresh = x.fresh ∧ (track x u z).late = x.late ∧ (track x u z).skips = x.skips ∧ (track x u z).uSlot = x.uSlot := by
  unfold track
  dsimp only
  split <;> exact ⟨rfl, rfl, rfl, rfl, rfl, rfl, rfl⟩

theorem evalAlone_facts {s : State} {n o : Nat} (h : n < s.loop.slots.length) (ho : slOut (s.slot n).record = o) (hl : o < s.loop.stages.length)
    (st sk : Nat) (late : Bool) : ∃ t, s.evalAlone n st late sk = t ∧ (t.slot n).last = st ∧ (t.slot n).fresh = false ∧
      (t.slot n).enabled = (s.slot n).enabled ∧
      (t.slot n).record = (s.slot n).record ∧ (t.slot n).late = late ∧ (t.slot n).skips = satAt 65535 ((s.slot n).skips + sk) ∧
      (t.stage o).uApp = fclamp (ouMin (s.stage o).record) (ouMax (s.stage o).record) (t.slot n).uSlot ∧ (t.stage o).active = true ∧
      (t.stage o).record = (s.stage o).record ∧ t.wb = s.wb ∧ t.prg = s.prg ∧ t.regs = s.regs ∧ t.hq = s.hq := by
  refine ⟨_, rfl, ?_⟩
  unfold State.evalAlone
  dsimp only
  obtain ⟨e1, e2, e3, e4, e5, e6, e7, e8⟩ := evalSlot_facts h st sk late
  have hw : (s.evalSlot n st late sk).wb = s.wb ∧ (s.evalSlot n st late sk).prg = s.prg ∧ (s.evalSlot n st late sk).regs = s.regs ∧
      (s.evalSlot n st late sk).hq = s.hq := by simp only [State.evalSlot_frame, and_self]
  generalize s.evalSlot n st late sk = u at *
  rw [e1, ho]
  obtain ⟨r1, r2, r3, r4⟩ := runStage_facts (s := u) (o := o) (by rw [e7]; exact hl) st (u.slot n).uSlot
  have rw' : (u.runStage o st (some (u.slot n).uSlot)).wb = u.wb ∧ (u.runStage o st (some (u.slot n).uSlot)).prg = u.prg ∧
      (u.runStage o st (some (u.slot n).uSlot)).regs = u.regs ∧ (u.runStage o st (some (u.slot n).uSlot)).hq = u.hq := by
    simp only [State.runStage_frame, and_self]
  generalize u.runStage o st (some (u.slot n).uSlot) = v at *
  have hv : v.slot n = u.slot n := by unfold State.slot; rw [r1]
  rw [setSlot_slot (by rw [r1, e8]; exact h), hv]
  obtain ⟨k1, k2, k3, k4, k5, k6, k7⟩ := track_kept (u.slot n) (v.stage o).uApp (u.stage o).extSat
  have hs : (s.stage o) = u.stage o := by unfold State.stage; rw [e7]
  rw [k1, k2, k3, k4, k5, k6, k7, hs]
  refine ⟨e3, e4, e2, e1, e5, e6, r2, r3, r4, rw'.1.trans hw.1, rw'.2.1.trans hw.2.1, rw'.2.2.1.trans hw.2.2.1, rw'.2.2.2.trans hw.2.2.2⟩

end Sys2Proof.Machine
end

