-- ==== Sys2Proof/Laws/DspService.lean ====
section
/-! SUPPORT. The dispatch service, said once. -/

namespace Sys2Proof.Machine

theorem coveredOp_ready {s : State} {w : WorkRef} {o : Nat} {op : Op} (h : s.covers w o op) (f : Op → State → State) :
    s.coveredOp w 10 o f = f op s := by
  obtain ⟨h1, h2, j, h3, h4⟩ := h
  unfold State.coveredOp
  rw [cutOp_ready h1 h2, h3]
  dsimp only
  rw [if_pos h4]

theorem setpointEpoch_ahead (s : State) : s.tb.ang + 2 * countsPerCycle ≤ s.setpointEpoch ∧ s.setpointEpoch % countsPerCycle = 0 := by
  unfold State.setpointEpoch
  dsimp only
  have hc : countsPerCycle = 16777216 := rfl
  rw [hc]
  split
  · exact ⟨by assumption, Nat.mul_mod_left _ _⟩
  · refine ⟨?_, Nat.mul_mod_left _ _⟩
    split <;> omega

theorem noteAbsent_facts (s : State) : ∃ a m rs es, Says { s with dsp := { s.dsp with absent := a, missed := m } } rs es s.noteAbsent := by
  unfold State.noteAbsent
  dsimp only
  generalize List.filter _ (List.filter _ _) = l
  have h : ∀ (l : List Nat) (u v : State) rs es, Says u rs es v →
      ∃ rs es, Says u rs es (l.foldl (fun s i => (s.record .dspReportMissing [i]).raise 85) v) := by
    intro l
    induction l with
    | nil => exact fun u v rs es h => ⟨rs, es, h⟩
    | cons a l ih => exact fun u v rs es h => ih _ _ _ _ ((h.record _ _).raise 85 (by decide))
  obtain ⟨rs, es, r⟩ := h l s s [] [] (Says.refl s)
  generalize l.foldl _ s = v at r ⊢
  have hd := r.toReports.dsp
  have := r.upd (fun u => { u with dsp := { s.dsp with absent := s.enabledWorkers.filter fun i => (s.freshReport i).isNone, missed := satAt 65535 (s.dsp.missed + (s.enabledWorkers.filter fun i => (s.freshReport i).isNone).length) } })
    (fun _ _ _ _ _ => rfl) rfl rfl
  rw [hd]
  exact ⟨_, _, _, _, this⟩

theorem sendSetpoints (s : State) (f : State → Nat → NetFrame) (hf : ∀ o i, f { s with out := o } i = f s i) (l : List Nat) :
    ∀ o, ∃ o', l.foldl (fun (u : State) i => u.sendCyclic (f u i)) { s with out := o } = { s with out := o' } ∧
      (modeEmits s.sys.mode = true → s.netOn s.dspNet = true → o' = o ++ l.map fun i => .net s.dspNet 5 (f s i)) := by
  induction l with
  | nil => exact fun o => ⟨o, rfl, fun _ _ => by simp⟩
  | cons a l ih =>
    intro o
    rw [List.foldl_cons, hf]
    by_cases h : modeEmits s.sys.mode = true ∧ s.netOn s.dspNet = true
    · have : State.sendCyclic { s with out := o } (f s a) = { s with out := o ++ [.net s.dspNet 5 (f s a)] } := by
        unfold State.sendCyclic
        exact (if_pos (by exact h)).trans rfl
      rw [this]
      obtain ⟨o', h1, h2⟩ := ih (o ++ [.net s.dspNet 5 (f s a)])
      exact ⟨o', h1, fun g1 g2 => by rw [h2 g1 g2]; simp⟩
    · have : State.sendCyclic { s with out := o } (f s a) = { s with out := o } := by
        unfold State.sendCyclic
        exact if_neg (by exact h)
      rw [this]
      obtain ⟨o', h1, h2⟩ := ih o
      exact ⟨o', h1, fun g1 g2 => absurd ⟨g1, g2⟩ h⟩

theorem Says.applySetpoint {u t : State} {rs : List (RecName × List Nat)} {es : List Nat} (h : Says u rs es t) (k : Nat) :
    Says (u.applySetpoint k) rs es (t.applySetpoint k) := by
  unfold State.applySetpoint
  rw [h.toReports.dsp]
  split
  · rename_i e p q he
    exact h.upd (fun v => State.setSlot { v with dsp := { u.dsp with spPending := u.dsp.spPending.filter fun x => decide (k < x.1), pSet := p, spEpoch := e, spSeq := q } } v.cfg.dspSlot fun x => { x with setTarget := some p })
      (fun _ _ _ _ _ => rfl) rfl rfl
  · exact h

theorem applySetpoint_none {s : State} {k : Nat} (h : ∀ x ∈ s.dsp.spPending, k < x.1) : s.applySetpoint k = s := by
  unfold State.applySetpoint
  rw [List.filter_eq_nil_iff.2 (fun x hx => by have := h x hx; simp; omega)]
  rfl

end Sys2Proof.Machine
end

