-- ==== Sys2Proof/Laws/Silkline.lean ====
section
/-! SUPPORT. The Silkline engine's shared operations, said once. -/

namespace Sys2Proof.Machine

theorem setRing_ring {s : State} {p : Nat} {r : Ring} (h : s.slk.rings[p]? = some r) (f : Ring → Ring) : (s.setRing p f).ring p = f r := by
  unfold State.ring State.setRing
  dsimp only
  rw [getD_updAt_self _ _ _ _ _ h]

theorem ring_of {s : State} {p : Nat} {r : Ring} (h : s.slk.rings[p]? = some r) : s.ring p = r := by
  unfold State.ring; rw [List.getD_eq_getElem?_getD, h]; rfl

theorem setRing_at {s : State} {p : Nat} {r : Ring} (h : s.slk.rings[p]? = some r) (f : Ring → Ring) : (s.setRing p f).slk.rings[p]? = some (f r) :=
  updAt_updAt0 h

/-- A ring but for its nodes and sweeps. -/
def Ring.static (r : Ring) : Ring := { r with nodes := [], sweeps := [] }

theorem setRing_static (s : State) (p q : Nat) (f : Ring → Ring) (hf : ∀ r : Ring, (f r).static = r.static) : ((s.setRing q f).ring p).static = (s.ring p).static := by
  by_cases h : p = q
  · subst h
    cases hp : s.slk.rings[p]? with
    | none =>
      unfold State.ring State.setRing
      dsimp only
      have hl : s.slk.rings.length ≤ p := List.getElem?_eq_none_iff.1 hp
      rw [List.getD_eq_getElem?_getD, List.getD_eq_getElem?_getD, hp, List.getElem?_eq_none (by rw [updAt_length]; exact hl)]
    | some r => rw [setRing_ring hp, hf, ring_of hp]
  · unfold State.ring State.setRing
    dsimp only
    rw [getD_updAt_ne _ h]

theorem foldl_ring {α : Type} (f : State → α → State) (p : Nat) (hf : ∀ u x, ((f u x).ring p).static = (u.ring p).static) (l : List α) (u : State) :
    ((l.foldl f u).ring p).static = (u.ring p).static := by
  induction l generalizing u with
  | nil => rfl
  | cons a l ih => rw [List.foldl_cons, ih, hf]

theorem markLost_static (s : State) (p q : Nat) : ((s.markLost p).ring q).static = (s.ring q).static := by
  unfold State.markLost
  dsimp only
  split
  · rfl
  · refine foldl_ring _ _ (fun u x => ?_) _ _
    exact setRing_static u q p _ (fun r => rfl)

theorem sendReads_eq (s : State) (p e : Nat) (l : List Nat) : s.sendReads p e l = { s with out := s.out ++ l.map fun pos => .slk p (.read pos e) } := by
  unfold State.sendReads
  induction l generalizing s with
  | nil => simp
  | cons a l ih => rw [List.foldl_cons, ih]; unfold State.emit; simp

theorem resplit_static (s : State) (p q : Nat) : ((s.resplit p).ring q).static = (s.ring q).static := by
  unfold State.resplit
  dsimp only
  split
  · rfl
  · split
    · rfl
    · rw [sendReads_eq]
      exact setRing_static _ _ _ _ (fun r => rfl)

theorem finishHeal_none {s : State} {p : Nat} (h : (s.ring p).healing = false) : s.finishHeal p = s := by
  unfold State.finishHeal healReady
  rw [h]
  rfl

/-- A strobe of a ring that does not heal, while every earlier sweep is built. -/
theorem strobe_facts {s : State} {p : Nat} {r : Ring} (h : s.slk.rings[p]? = some r) (hl : r.healing = false) (hb : ∀ w ∈ r.sweeps, w.built = true)
    (k e i n : Nat) :
    ((s.strobe p k e i n).ring p).occ = k ∧ ((s.strobe p k e i n).ring p).epoch = e ∧ (s.strobe p k e i n).slk.epoch = e ∧
    (s.strobe p k e i n).slk.strobeAng = i ∧
    (s.strobe p k e i n).out.take (s.out.length + 1) = s.out ++ [.slk p (.strobe e (s.ditherStep e))] ∧
    s.strobe p k e i n = { s with slk := (s.strobe p k e i n).slk, out := (s.strobe p k e i n).out } := by
  unfold State.strobe
  have hr := ring_of h
  rw [finishHeal_none (by rw [hr]; exact hl)]
  dsimp only
  have hl : ((s.ring p).sweeps.any fun w => !w.built && !w.partDone) = false := by
    rw [List.any_eq_false]; intro w hw; rw [hr] at hw; simp [hb w hw]
  have ho : ((s.ring p).sweeps.filter fun w => !w.built && decide (w.epoch ≠ (s.ring p).epoch)) = [] := by
    rw [List.filter_eq_nil_iff]; intro w hw; rw [hr] at hw; simp [hb w hw]
  rw [hl, ho]
  simp only [Bool.false_eq_true, if_false, List.map_nil, List.foldl_nil, sendReads_eq]
  refine ⟨?_, ?_, rfl, rfl, ?_, rfl⟩
  · unfold State.ring State.emit State.setRing
    dsimp only
    rw [getD_updAt_self _ _ _ _ _ h]
  · unfold State.ring State.emit State.setRing
    dsimp only
    rw [getD_updAt_self _ _ _ _ _ h]
  · show ((s.out ++ [_]) ++ _).take _ = _
    rw [List.take_left' (by simp)]
    rfl

theorem engineOp_ready {s : State} {w : WorkRef} {e o : Nat} {op : Op} (h : s.ready w e o op) (f : Op → State → State) :
    s.engineOp w e o f = f op s := by
  obtain ⟨h1, h2, h3⟩ := h
  unfold State.engineOp
  rw [h1]
  dsimp only
  rw [if_pos ⟨h2, h3⟩]

theorem nodeRefusal_values (s : State) (p pos : Nat) : (pos = 0 ∨ s.ringN p < pos → s.nodeRefusal p pos = some 2) ∧
    (p < 4 → 0 < pos → pos ≤ s.ringN p → started (s.ring p) = false → s.nodeRefusal p pos = some 3) ∧
    (p < 4 → 0 < pos → pos ≤ s.ringN p → started (s.ring p) = true → (s.node p pos).presence = 1 → s.nodeRefusal p pos = none) := by
  unfold State.nodeRefusal
  refine ⟨fun h => ?_, fun h1 h2 h3 h4 => ?_, fun h1 h2 h3 h4 h5 => ?_⟩
  · rw [if_pos (Or.inr h)]
  · rw [if_neg (by omega), if_pos (by simp [h4])]
  · rw [if_neg (by omega), if_neg (by simp [h4]), if_neg (by omega)]

theorem emits_eq {α : Type} (f : α → Out) (l : List α) (s : State) : l.foldl (fun (s : State) x => s.emit (f x)) s = { s with out := s.out ++ l.map f } := by
  induction l generalizing s with
  | nil => simp
  | cons a l ih => rw [List.foldl_cons, ih]; unfold State.emit; simp

theorem measure_eq (p : Nat) (l : List Nat) (s : State) : ∃ k : SlkSt, s.measure p l = { s with
    slk := k, out := s.out ++ l.flatMap fun pos => List.replicate 4 (.slk p (.echo pos)) } ∧
    (({ s with slk := k } : State).ring p).static = (s.ring p).static := by
  unfold State.measure
  induction l generalizing s with
  | nil => exact ⟨s.slk, by simp, rfl⟩
  | cons a l ih =>
    rw [List.foldl_cons]
    rw [emits_eq (fun _ => .slk p (.echo a)) (List.range 4)]
    obtain ⟨k, hk, hr⟩ := ih { s.setNode p a (fun n => { n with rtts := [], echoDue := 4 }) with
      out := s.out ++ (List.range 4).map fun _ => .slk p (.echo a) }
    refine ⟨k, hk.trans ?_, hr.trans ?_⟩
    · simp [State.setNode, State.setRing, List.replicate] <;> rfl
    · exact setRing_static s p p _ (fun r => rfl)

theorem node_of {s : State} {p pos : Nat} {r : Ring} {n : Node} (h : s.slk.rings[p]? = some r) (hn : r.nodes[pos - 1]? = some n) : s.node p pos = n := by
  unfold State.node; rw [ring_of h, List.getD_eq_getElem?_getD, hn]; rfl

theorem setNode_at {s : State} {p pos : Nat} {r : Ring} {n : Node} (h : s.slk.rings[p]? = some r) (hn : r.nodes[pos - 1]? = some n) (f : Node → Node) :
    ∃ r', (s.setNode p pos f).slk.rings[p]? = some r' ∧ r' = { r with nodes := updAt r.nodes (pos - 1) f } ∧ r'.nodes[pos - 1]? = some (f n) :=
  ⟨_, setRing_at h _, rfl, updAt_updAt0 hn⟩

theorem setNode_node {s : State} {p pos : Nat} {r : Ring} {n : Node} (h : s.slk.rings[p]? = some r) (hn : r.nodes[pos - 1]? = some n) (f : Node → Node) :
    (s.setNode p pos f).node p pos = f n := by
  obtain ⟨r', h1, -, h2⟩ := setNode_at h hn f
  exact node_of h1 h2

theorem setNode_reaches (s : State) (p pos : Nat) (f : Node → Node) (q : Nat) : (s.setNode p pos f).reaches p q = s.reaches p q := by
  have h5 : ((s.setNode p pos f).ring p).static = (s.ring p).static := setRing_static s p p (fun r => { r with nodes := updAt r.nodes (pos - 1) f }) (fun r => rfl)
  have b1 : ((s.setNode p pos f).ring p).break1 = (s.ring p).break1 := by have := congrArg Ring.break1 h5; exact this
  have b2 : ((s.setNode p pos f).ring p).break2 = (s.ring p).break2 := by have := congrArg Ring.break2 h5; exact this
  unfold State.reaches
  dsimp only
  rw [b1, b2]
  rfl

/-- A command sent by an end that reaches its node. -/
theorem sendCmd_reaches {s : State} {p pos : Nat} {r : Ring} {n : Node} {c : NodeCmd} (h : s.slk.rings[p]? = some r) (hn : r.nodes[pos - 1]? = some n)
    (hr : s.reaches p pos = true) : ∃ d, d = { c with cseq := (n.cseq + 1) % 65536, gen8 := s.sendGen % 256, sends := 1 } ∧
      s.sendCmd p pos c = { s.setNode p pos (fun n => { n with cseq := d.cseq, cmds := n.cmds ++ [d] }) with
        out := s.out ++ [.slk p (.command d.type pos d.cseq d.gen8 d.body)] } := by
  refine ⟨_, rfl, ?_⟩
  unfold State.sendCmd
  dsimp only
  rw [node_of h hn]
  unfold State.putCmd
  rw [if_pos]
  · rfl
  · rw [setNode_reaches]; exact hr

theorem sendCmd_facts {s : State} {p pos : Nat} {r : Ring} {n : Node} (h : s.slk.rings[p]? = some r) (hn : r.nodes[pos - 1]? = some n) (c : NodeCmd) :
    ∃ d o, d = { c with cseq := (n.cseq + 1) % 65536, gen8 := s.sendGen % 256, sends := 1 } ∧
      s.sendCmd p pos c = { s.setNode p pos (fun n => { n with cseq := d.cseq, cmds := n.cmds ++ [d] }) with out := o } ∧
      (s.reaches p pos = true → o = s.out ++ [.slk p (.command d.type pos d.cseq d.gen8 d.body)]) := by
  by_cases hr : s.reaches p pos = true
  · obtain ⟨d, h1, h2⟩ := sendCmd_reaches (c := c) h hn hr
    exact ⟨d, _, h1, h2, fun _ => rfl⟩
  · unfold State.sendCmd
    dsimp only
    rw [node_of h hn]
    unfold State.putCmd
    rw [if_neg]
    · unfold State.sendWb
      split
      · exact ⟨_, _, rfl, rfl, fun x => absurd x hr⟩
      · exact ⟨_, s.out, rfl, rfl, fun x => absurd x hr⟩
    · rw [setNode_reaches]; exact hr

end Sys2Proof.Machine
end

