-- ==== Sys2Proof/Laws/Security.lean ====
section
/-! SUPPORT. What attestation, the artefact checks and the field update do, said once. -/

namespace Sys2Proof.Machine

theorem digestPrefix_length (d : List Byte) : (digestPrefix d).length = 8 := by
  unfold digestPrefix
  simp only [List.length_append, List.length_take, List.length_replicate]
  omega

theorem attestReport_length (s : State) (n : List Byte) (c : Nat) (h1 : s.sec.meas.length = 64) (h2 : n.length = 16) : (s.attestReport n c).length = 256 := by
  unfold State.attestReport
  simp only [List.length_append, leBytes_length, ptBytes_length, digestPrefix_length, List.length_take, List.length_replicate, h1, h2]
  rfl

theorem drop_take_mid (p x q : List Byte) (i k : Nat) (h : p.length = i) (hx : x.length = k) : ((p ++ (x ++ q)).drop i).take k = x := by
  rw [List.drop_left' h, List.take_left' hx]

theorem attestReport_fields (s : State) (n : List Byte) (c : Nat) (h1 : s.sec.meas.length = 64) (h2 : n.length = 16) :
    ((s.attestReport n c).drop 4).take 8 = leBytes 8 s.sec.serial ∧ ((s.attestReport n c).drop 24).take 16 = n ∧
    ((s.attestReport n c).drop 64).take 64 = s.sec.meas ∧ ((s.attestReport n c).drop 176).take 8 = leBytes 8 c := by
  have ht : s.sec.meas.take 64 = s.sec.meas := List.take_of_length_le (by omega)
  have a1 := leBytes_length 2 1
  have e : s.attestReport n c = (leBytes 2 1 ++ leBytes 1 s.sys.variant ++ leBytes 1 (ofBool s.pwr.slotB)) ++ (leBytes 8 s.sec.serial ++ ((leBytes 4 s.runningSlot.version
    ++ leBytes 4 s.sec.svnFloor ++ leBytes 2 s.pairId ++ leBytes 1 s.sys.mode.code ++ leBytes 1 s.wb.lease.code) ++ (n
    ++ ((leBytes 8 s.tb.ang ++ leBytes 4 s.status ++ ptBytes s.tb.pt) ++ (s.sec.meas
    ++ ((digestPrefix (slotDigest s.nvs.slots .imago) ++ digestPrefix (slotDigest s.nvs.slots .chrysalis) ++ digestPrefix s.cfg.digest
    ++ digestPrefix ((s.prg.image.map (·.digest)).getD []) ++ digestPrefix s.prot.setDigest
    ++ digestPrefix (if s.sec.owner = [] then [] else digest s.sec.owner)) ++ (leBytes 8 c ++ List.replicate 72 0))))))) := by
    unfold State.attestReport
    rw [ht]
    simp only [List.append_assoc]
  rw [e]
  have l1 : (leBytes 2 1 ++ leBytes 1 s.sys.variant ++ leBytes 1 (ofBool s.pwr.slotB)).length = 4 := by
    simp only [List.length_append, leBytes_length]
  have l2 : (leBytes 4 s.runningSlot.version ++ leBytes 4 s.sec.svnFloor ++ leBytes 2 s.pairId ++ leBytes 1 s.sys.mode.code ++ leBytes 1 s.wb.lease.code).length = 12 := by
    simp only [List.length_append, leBytes_length]
  have l3 : (leBytes 8 s.tb.ang ++ leBytes 4 s.status ++ ptBytes s.tb.pt).length = 24 := by
    simp only [List.length_append, leBytes_length, ptBytes_length]
  have l4 : (digestPrefix (slotDigest s.nvs.slots .imago) ++ digestPrefix (slotDigest s.nvs.slots .chrysalis) ++ digestPrefix s.cfg.digest
    ++ digestPrefix ((s.prg.image.map (·.digest)).getD []) ++ digestPrefix s.prot.setDigest
    ++ digestPrefix (if s.sec.owner = [] then [] else digest s.sec.owner)).length = 48 := by
    simp only [List.length_append, digestPrefix_length]
  generalize leBytes 2 1 ++ leBytes 1 s.sys.variant ++ leBytes 1 (ofBool s.pwr.slotB) = x1 at l1
  generalize leBytes 4 s.runningSlot.version ++ leBytes 4 s.sec.svnFloor ++ leBytes 2 s.pairId ++ leBytes 1 s.sys.mode.code ++ leBytes 1 s.wb.lease.code = x2 at l2
  generalize leBytes 8 s.tb.ang ++ leBytes 4 s.status ++ ptBytes s.tb.pt = x3 at l3
  generalize digestPrefix (slotDigest s.nvs.slots .imago) ++ digestPrefix (slotDigest s.nvs.slots .chrysalis) ++ digestPrefix s.cfg.digest
    ++ digestPrefix ((s.prg.image.map (·.digest)).getD []) ++ digestPrefix s.prot.setDigest
    ++ digestPrefix (if s.sec.owner = [] then [] else digest s.sec.owner) = x4 at l4
  have m1 := leBytes_length 8 s.sec.serial
  have m2 := leBytes_length 8 c
  generalize leBytes 8 s.sec.serial = y1 at m1
  generalize leBytes 8 c = y2 at m2
  refine ⟨drop_take_mid _ _ _ _ _ l1 m1, ?_, ?_, ?_⟩
  · refine Eq.trans ?_ (drop_take_mid (x1 ++ y1 ++ x2) n (x3 ++ (s.sec.meas ++ (x4 ++ (y2 ++ List.replicate 72 0)))) 24 16 ?_ h2)
    · simp only [List.append_assoc]
    · simp only [List.length_append, l1, l2, m1]
  · refine Eq.trans ?_ (drop_take_mid (x1 ++ y1 ++ x2 ++ n ++ x3) s.sec.meas (x4 ++ (y2 ++ List.replicate 72 0)) 64 64 ?_ h1)
    · simp only [List.append_assoc]
    · simp only [List.length_append, l1, l2, l3, m1, h2]
  · refine Eq.trans ?_ (drop_take_mid (x1 ++ y1 ++ x2 ++ n ++ x3 ++ s.sec.meas ++ x4) y2 (List.replicate 72 0) 176 8 ?_ m2)
    · simp only [List.append_assoc]
    · simp only [List.length_append, l1, l2, l3, l4, m1, h2, h1]

theorem sigFail_says (s : State) (y c : Nat) : Says { s with sec := { s.sec with sigFailSeen := true } } [(.sigFail, [y, c])] [120] (s.sigFail y c) :=
  ((Says.refl _).record .sigFail _).raise 120 (by decide)

/-- What confirming a trial does. -/
theorem confirmTrial_says (s : State) : Says { s with nvs := { s.nvs with slots := updAt s.nvs.slots s.sec.bootSlot fun (x : BootSlot) => { x with state := .imago } }, upd := { s.upd with trial := false, confirmFrom := none, fallbackPending := false }, sec := (if s.runningSlot.raiseFloor = true ∧ s.sec.svnFloor < s.runningSlot.svn ∧ s.sec.fuseLeft ≠ 0 then { s.sec with svnFloor := s.runningSlot.svn, fuseLeft := s.sec.fuseLeft - 1 } else s.sec) }
        ((if s.runningSlot.raiseFloor = true ∧ s.sec.svnFloor < s.runningSlot.svn ∧ s.sec.fuseLeft = 0 then [(.svnFuseExhausted, [s.runningSlot.svn])] else []) ++ [(.updConfirmed, [s.runningSlot.version])]) [121] s.confirmTrial := by
  unfold State.confirmTrial
  dsimp only
  generalize s.runningSlot = b
  have hb : ∀ v : State, v = { s with nvs := { s.nvs with slots := updAt s.nvs.slots s.sec.bootSlot fun (x : BootSlot) => { x with state := .imago } }, upd := { s.upd with trial := false, confirmFrom := none, fallbackPending := false } } →
     v.sec = s.sec → Says { v with sec := (if b.raiseFloor = true ∧ s.sec.svnFloor < b.svn ∧ s.sec.fuseLeft ≠ 0 then { s.sec with svnFloor := b.svn, fuseLeft := s.sec.fuseLeft - 1 } else s.sec) }
        ((if b.raiseFloor = true ∧ s.sec.svnFloor < b.svn ∧ s.sec.fuseLeft = 0 then [(.svnFuseExhausted, [b.svn])] else []) ++ [(.updConfirmed, [b.version])]) [121]
        (((if b.raiseFloor = true then v.raiseFloor b.svn else v).record .updConfirmed [b.version]).raise 121) := by
    intro v _ hv
    have hv' : ({ v with sec := s.sec } : State) = v := by rw [← hv]
    by_cases h1 : b.raiseFloor = true
    · rw [if_pos h1]
      unfold State.raiseFloor
      rw [hv]
      by_cases h2 : b.svn ≤ s.sec.svnFloor
      · rw [if_pos h2, if_neg (fun z => absurd z.2.1 (by omega)), if_neg (fun z => absurd z.2.1 (by omega)), hv']
        exact ((Says.refl v).record .updConfirmed _).raise 121 (by decide)
      · rw [if_neg h2]
        by_cases h3 : s.sec.fuseLeft = 0
        · rw [if_pos h3, if_neg (fun z => z.2.2 h3), if_pos ⟨h1, by omega, h3⟩, hv']
          exact (((Says.refl v).record .svnFuseExhausted _).record .updConfirmed _).raise 121 (by decide)
        · rw [if_neg h3, if_pos ⟨h1, by omega, h3⟩, if_neg (fun z => h3 z.2.2)]
          exact ((Says.refl _).record .updConfirmed _).raise 121 (by decide)
    · rw [if_neg h1, if_neg (fun z => h1 z.1), if_neg (fun z => h1 z.1), hv']
      exact ((Says.refl v).record .updConfirmed _).raise 121 (by decide)
  exact hb _ rfl rfl

theorem prepareFault_facts (s : State) (k : Bool) (h : ImageHdr) : ∀ x2 x3 x4 x5 : Prop, x2 = (h.full = false ∧ (s.sec.factoryBoot = true ∨ slotsIn s.nvs.slots .imago = [] ∨ h.baseDigest ≠ slotDigest s.nvs.slots .imago)) →
    x3 = (s.partnerFits h.version h.minPeer h.proto h.protoMin = false) → x4 = (slotsIn s.nvs.slots .trial ≠ [] ∨ k = true) → x5 = (s.prg.stage ≠ 0) →
    (h.svn < s.sec.svnFloor → s.prepareFault k h = some 3) ∧ (s.sec.svnFloor ≤ h.svn → x2 → s.prepareFault k h = some 4) ∧
    (s.sec.svnFloor ≤ h.svn → ¬ x2 → x3 → s.prepareFault k h = some 5) ∧ (s.sec.svnFloor ≤ h.svn → ¬ x2 → ¬ x3 → x4 → s.prepareFault k h = some 6) ∧
    (s.sec.svnFloor ≤ h.svn → ¬ x2 → ¬ x3 → ¬ x4 → x5 → s.prepareFault k h = some 7) ∧ (s.sec.svnFloor ≤ h.svn → ¬ x2 → ¬ x3 → ¬ x4 → ¬ x5 → s.prepareFault k h = none) := by
  rintro _ _ _ _ rfl rfl rfl rfl
  unfold State.prepareFault
  refine ⟨fun a => if_pos a, fun a b => ?_, fun a b c => ?_, fun a b c d => ?_, fun a b c d e => ?_, fun a b c d e => ?_⟩
  · rw [if_neg (by omega), if_pos b]
  · rw [if_neg (by omega), if_neg b, if_pos c]
  · rw [if_neg (by omega), if_neg b, if_neg c, if_pos d]
  · rw [if_neg (by omega), if_neg b, if_neg c, if_neg d, if_pos e]
  · rw [if_neg (by omega), if_neg b, if_neg c, if_neg d, if_neg e]

/-- What the activation instant does. -/
theorem activateNow_facts (s : State) (op : Op) (u : State) (hu : u = { s with upd := { s.upd with scheduled := none } }) :
    (s.upd.ready = true → s.sys.mode = .service ∨ s.activateSafe = true → ∀ l, l = updAt (s.nvs.slots.map fun (b : BootSlot) => if b.state = .imago then { b with state := .chrysalis } else b)
          s.upd.target (fun (b : BootSlot) => { b with state := .trial, attempted := false }) → ∃ v : State,
        s.activateNow op = (v.finish { op with late := false } stOk 0).restart 6 ∧ Says { u with nvs := { u.nvs with slots := l } } [(.updActivated, [(l.getD s.upd.target {}).version])] [] v) ∧
      (s.upd.ready = false ∨ (s.sys.mode ≠ .service ∧ s.activateSafe = false) → s.activateNow op = u.finish { op with late := false } 0x0D01 0) := by
  have e : s.activateNow op = if u.upd.ready = true ∧ (u.sys.mode = .service ∨ u.activateSafe = true) then u.runTrial op else u.finish { op with late := false } 0x0D01 0 := by
    subst hu; rfl
  have h1 : u.upd.ready = s.upd.ready ∧ u.sys.mode = s.sys.mode ∧ u.activateSafe = s.activateSafe := by subst hu; exact ⟨rfl, rfl, rfl⟩
  rw [h1.1, h1.2.1, h1.2.2] at e
  refine ⟨fun a b l hl => ?_, fun h => ?_⟩
  · rw [if_pos ⟨a, b⟩] at e
    refine ⟨_, e, ?_⟩
    subst hl hu
    exact (Says.refl _).record .updActivated _
  · rw [if_neg (fun ⟨a, b⟩ => by rcases h with h | ⟨h, k⟩ <;> rcases b with b | b <;> simp_all)] at e
    exact e

end Sys2Proof.Machine
end

