-- ==== Sys2Proof/Laws/Boot.lean ====
section
/-! SUPPORT. What a restart, the boot monitor, the boot stages, SYS_CTRL and the entry into COCOON do, said once. -/

namespace Sys2Proof.Machine

theorem State.setMode_sys2 {s : State} {m : Mode} (h : s.sys.mode ≠ m) (c : Nat) :
    (s.setMode m c).sys.wdCount = (if m = .standby ∨ m = .active ∨ m = .solo then 0 else s.sys.wdCount) ∧ (s.setMode m c).sys.formerHolder = s.sys.formerHolder ∧
    (s.setMode m c).hq = s.hq := by
  unfold State.setMode
  rw [if_neg h]
  simp only [State.refence_frame]
  rw [State.record_sys]
  split <;> simp only [State.dropFence_frame, State.ringMode_frame, State.fieldMode_frame, State.closeLocks_frame, and_self, State.record_frame]

theorem State.setMode_wdCount (s : State) (c : Nat) : (s.setMode .boot c).sys.wdCount = s.sys.wdCount := by
  by_cases h : s.sys.mode = .boot
  · unfold State.setMode; rw [if_pos h]
  · exact (State.setMode_sys2 h c).1.trans (if_neg (by decide))

/-- The watchdog count after a restart. -/
theorem State.restart_wdCount (s : State) (c : Nat) : (s.restart c).sys.wdCount = if c = 4 then min 15 (s.sys.wdCount + 1) else s.sys.wdCount := by
  have r : ∀ (u : State) (n : RecName) (a : List Nat), (u.record n a).sys.wdCount = u.sys.wdCount := fun u n a => by rw [State.record_sys]
  have e : ({ s.afterRestart c with sys := { (s.afterRestart c).sys with domains := modeDomains .boot } } : State).sys.wdCount = if c = 4 then min 15 (s.sys.wdCount + 1) else s.sys.wdCount := by
    show (if c = 4 then satAt 15 (s.sys.wdCount + 1) else s.sys.wdCount) = _
    unfold satAt
    split
    · split <;> omega
    · rfl
  unfold State.restart
  dsimp only
  rw [r]
  generalize ({ s.afterRestart c with sys := { (s.afterRestart c).sys with domains := modeDomains .boot } } : State) = u at e
  have k : (u.setMode .boot).sys.wdCount = if c = 4 then min 15 (s.sys.wdCount + 1) else s.sys.wdCount := (State.setMode_wdCount u 0).trans e
  rw [(State.tellRtcLost_reports _).sys]
  split <;> (try rw [r]) <;> split <;> (try rw [r]) <;> exact k

theorem powerOn_facts (s : State) : s.powerOn.sys.mode = .inserted ∧ s.powerOn.sys.domains = 1 ∧ s.powerOn.tb = {} ∧ s.powerOn.rtc = { lostPend := some false } ∧ s.powerOn.core = {} ∧ s.powerOn.hq = {} ∧
     s.powerOn.wb.lease = .none ∧ s.powerOn.wb.fenced = true ∧ s.powerOn.regs = [] ∧
     s.powerOn.nvs = { s.nvs with ready := false, scrubbing := false, fixHigh := false, uncorrSeen := false, scrubSlow := false, scrubProg := 0 } := 
  ⟨rfl, rfl, rfl, rfl, rfl, rfl, rfl, rfl, rfl, rfl⟩

/-! The boot monitor. -/

theorem slotWith_setBoot (s : State) (i : Nat) (f : BootSlot → BootSlot) (st : SlotState) (h : (s.boot i).state ≠ st) (hf : (f (s.boot i)).state ≠ st) :
    (s.setBoot i f).slotWith st = s.slotWith st := by
  unfold State.slotWith
  have : (fun j => ((s.setBoot i f).boot j).state == st) = fun j => (s.boot j).state == st := by
    funext j
    unfold State.setBoot State.boot at *
    dsimp only
    rw [updAt_getD]
    split
    · rename_i z
      rw [z.1] at *
      rw [beq_eq_false_iff_ne.mpr h, beq_eq_false_iff_ne.mpr hf]
    · rfl
  rw [this]

theorem slotWith_state {s : State} {st : SlotState} {i : Nat} (h : s.slotWith st = some i) : (s.boot i).state = st := by
  have := List.find?_some h
  simpa using this

theorem verifySlot_ok {s : State} {i : Nat} (h : s.sec.svnFloor ≤ (s.boot i).svn) : s.verifySlot i true = (s, true) := by
  unfold State.verifySlot
  dsimp only
  rw [decide_eq_false (by omega)]
  rfl

theorem verifySlot_bad {s : State} {i : Nat} {ok : Bool} (h : ok = false ∨ (s.boot i).svn < s.sec.svnFloor) : ∃ u, s.verifySlot i ok = (u, false) ∧
    Says { s with nvs := { s.nvs with slots := updAt s.nvs.slots i fun (b : BootSlot) => { b with state := .invalid } } }
      ((if ok = true then [(.rollbackRefused, [i, (s.boot i).svn])] else []) ++ [(.bootStageFail, [i])]) [] u := by
  unfold State.verifySlot
  dsimp only
  cases ok with
  | false => exact ⟨_, rfl, (Says.refl (s.setBoot i fun b => { b with state := .invalid })).record .bootStageFail _⟩
  | true =>
    have h2 : (s.boot i).svn < s.sec.svnFloor := by rcases h with h | h; contradiction; exact h
    rw [decide_eq_true h2]
    refine ⟨_, rfl, ?_⟩
    exact (((Says.refl s).record .rollbackRefused [i, (s.boot i).svn]).upd (fun (u : State) => u.setBoot i fun b => { b with state := .invalid }) (fun _ _ _ _ _ => rfl) rfl rfl).record .bootStageFail _

theorem runSlot_eq {s : State} {i : Nat} {st : SlotState} (h : (s.boot i).state = st) : s.runSlot i = if st == .factory then
    State.record { s with sec := { s.sec with picked := true, bootSlot := i, factoryBoot := st == .factory, meas := List.replicate 64 0 }, upd := { s.upd with trial := st == .trial, confirmFrom := none } } .bootFactory []
    else { s with sec := { s.sec with picked := true, bootSlot := i, factoryBoot := st == .factory, meas := List.replicate 64 0 }, upd := { s.upd with trial := st == .trial, confirmFrom := none } } := by
  subst h; rfl

theorem bootFrom_ok {s : State} {ok : Nat → Bool} {st : SlotState} {l : List SlotState} {i : Nat} (h1 : s.slotWith st = some i) (h2 : ok i = true)
    (h3 : s.sec.svnFloor ≤ (s.boot i).svn) : State.bootFrom ok (st :: l) s = (if st = .chrysalis then s.setBoot i fun b => { b with state := .imago } else s).runSlot i := by
  unfold State.bootFrom
  rw [h1]
  dsimp only
  rw [h2, verifySlot_ok h3]

theorem bootFrom_none {s : State} {ok : Nat → Bool} {st : SlotState} {l : List SlotState} (h1 : s.slotWith st = none) :
    State.bootFrom ok (st :: l) s = State.bootFrom ok l s := by
  conv => lhs; unfold State.bootFrom
  rw [h1]

theorem bootFrom_bad {s u : State} {ok : Nat → Bool} {st : SlotState} {l : List SlotState} {i : Nat} (h1 : s.slotWith st = some i)
    (h2 : s.verifySlot i (ok i) = (u, false)) : State.bootFrom ok (st :: l) s = State.bootFrom ok l u := by
  conv => lhs; unfold State.bootFrom
  rw [h1]
  dsimp only
  rw [h2]

theorem boot_setBoot (s : State) (i j : Nat) (f : BootSlot → BootSlot) : (s.setBoot i f).boot j = if j = i ∧ i < s.nvs.slots.length then f (s.boot i) else s.boot j :=
  updAt_getD _ _ _ _ _

/-! The boot stages. -/

theorem lostRecord_mode (s : State) (k : Nat) : (s.lostRecord k).sys.mode = s.sys.mode := by
  have r : ∀ (u : State) (n : RecName) (a : List Nat), (u.record n a).sys.mode = u.sys.mode := fun u n a => by rw [State.record_sys]
  have f : ∀ (l : List Nat) (u : State), (l.foldl (fun (t : State) n => t.record .aoTrimLost [n]) u).sys.mode = u.sys.mode := by
    intro l
    induction l with
    | nil => exact fun u => rfl
    | cons x l ih => exact fun u => (ih _).trans (r _ _ _)
  unfold State.lostRecord
  split
  · rfl
  · dsimp only
    split
    · rw [f]; exact r _ _ _
    · exact r _ _ _
    · exact r _ _ _
    · rw [r]; exact r _ _ _
    · exact r _ _ _
    · exact r _ _ _

theorem lostRecords_mode (l : List Nat) : ∀ s : State, (l.foldl State.lostRecord s).sys.mode = s.sys.mode := by
  induction l with
  | nil => exact fun s => rfl
  | cons k l ih => exact fun s => (ih _).trans (lostRecord_mode s k)

theorem powerUpTime_facts (s : State) : s.powerUpTime.sys = s.sys ∧ s.powerUpTime.wb = s.wb := by
  unfold State.powerUpTime
  split <;> exact ⟨rfl, rfl⟩

/-- A lost record touches the pair state alike whatever NVS holds. -/
theorem lostRecords_wb (l : List Nat) : ∀ s t : State, s.wb = t.wb → (l.foldl State.lostRecord s).wb = (l.foldl State.lostRecord t).wb := by
  have f : ∀ (l : List Nat) (u : State), (l.foldl (fun (t : State) n => t.record .aoTrimLost [n]) u).wb = u.wb := by
    intro l
    induction l with
    | nil => exact fun u => rfl
    | cons x l ih => exact fun u => (ih _).trans (by simp)
  have h1 : ∀ (s : State) (k : Nat), (s.lostRecord k).wb = if k = 4 then { s.wb with bootEpoch := 0 } else s.wb := by
    intro s k
    unfold State.lostRecord
    split
    · rw [if_neg (by omega)]
    · dsimp only
      split
      · rw [f, if_neg (by decide)]; simp
      · rw [if_neg (by decide)]; simp
      · rw [if_neg (by decide)]; simp
      · rw [if_neg (by decide)]; simp
      · rw [if_pos rfl]; simp
      · rw [if_neg (by omega)]; simp
  induction l with
  | nil => exact fun s t h => h
  | cons k l ih => exact fun s t h => ih _ _ (by rw [h1, h1, h])

theorem cfgInvalid_facts {s : State} (h : s.sys.mode ≠ .quarantine) : s.cfgInvalid.sys.mode = .quarantine ∧ s.cfgInvalid.wb.lease = .none ∧ s.cfgInvalid.wb.fenced = true := by
  have q := enterQuarantine_facts h .cfgInvalid []
  exact ⟨q.1, q.2.1, q.2.2.1⟩

theorem applySettings_mode (s : State) (l : List (Nat × Word)) : (s.applySettings l).sys.mode = s.sys.mode := rfl

theorem applyStage3_mode (s : State) (g : Cfg) (p : Option ProgImage) (z : Option ProtSet) (e : List Byte) : (s.applyStage3 g p z e).sys.mode = s.sys.mode := by
  unfold State.applyStage3
  dsimp only
  rw [applySettings_mode]
  cases z <;> rfl

theorem rememberAll_facts (l : List JEntry) : ∀ s : State, (s.rememberAll l).wb = s.wb ∧ (s.rememberAll l).evt = s.evt := by
  unfold State.rememberAll
  induction l with
  | nil => exact fun s => ⟨rfl, rfl⟩
  | cons x l ih =>
    intro s
    have h : ∀ u : State, u.wb = s.wb ∧ u.evt = s.evt → (l.foldl (fun s (e : JEntry) => match e.body with
        | .desc ring id d => s.rememberSubmit ring id d
        | _ => s) u).wb = s.wb ∧ (l.foldl (fun s (e : JEntry) => match e.body with
        | .desc ring id d => s.rememberSubmit ring id d
        | _ => s) u).evt = s.evt := fun u hu => ⟨(ih u).1.trans hu.1, (ih u).2.trans hu.2⟩
    refine h _ ?_
    dsimp only
    split <;> exact ⟨rfl, rfl⟩

/-- Each of the seven SYS_CTRL rows is a write of SYS_CTRL. -/
theorem sysCtrl_exec (s : State) (q : Requester) (v : Word) (c : Instr) (hc : c ∈ [Instr.sysRestart q v, .sysEnterService q v, .safeHoldExitWarm q v, .safeHoldExitCold q v, .plantStartColdSet q v, .plantStartColdClear q v, .configStop q v]) :
    exec c s = .next (s.sysCtrl q v) := by
  simp only [List.mem_cons, List.not_mem_nil, or_false] at hc
  rcases hc with rfl | rfl | rfl | rfl | rfl | rfl | rfl <;> rfl

theorem configStop_facts (s : State) (h : s.sys.mode ≠ .service) : s.configStop.sys.mode = .service ∧ s.configStop.wb.lease = .none ∧ s.configStop.wb.fenced = true := by
  unfold State.configStop
  dsimp only
  refine State.enterService_facts ?_ 0
  rw [State.record_sys]
  show (if State.holds _ = true then State.sendRef _ .release else _ : State).sys.mode ≠ _
  split <;> exact h

theorem cocoonGo_of (s : State) (h1 : s.sys.cocoonEntering = true) (h2 : s.sys.cocoonReq = false) (h3 : s.holds = true) (u : State)
    (hu : u = (match s.hq.work.find? (fun (o : Op) => o.engine == 10 && dOpcode o.bytes == 0x40 && o.started) with | some op => s.finish op stOk 0 | none => s)) :
    s.cocoonGo = if ((State.checkpoint { u with sys := { u.sys with cocoonReq := true } }).flushLog).partnerStandby = true then (State.checkpoint { u with sys := { u.sys with cocoonReq := true } }).flushLog
      else (((State.checkpoint { u with sys := { u.sys with cocoonReq := true } }).flushLog).sendRef .release).enterCocoon true := by
  have e : ∀ w : State, (match s.hq.work.find? (fun (o : Op) => o.engine == 10 && dOpcode o.bytes == 0x40 && o.started) with | some op => s.finishCut op stOk 0 | none => s) = w →
      s.cocoonGo = if ((State.checkpoint { w with sys := { w.sys with cocoonReq := true } }).flushLog).partnerStandby = true then (State.checkpoint { w with sys := { w.sys with cocoonReq := true } }).flushLog
      else (((State.checkpoint { w with sys := { w.sys with cocoonReq := true } }).flushLog).sendRef .release).enterCocoon true := by
    intro w hw
    subst hw
    unfold State.cocoonGo
    rw [if_neg (by simp [h1, h2, h3])] <;> rfl
  refine e u ?_
  rw [hu]
  split
  · exact finishCut_holds h3 _ _ _ _
  · rfl

theorem hostOff_wb (s : State) : s.hostOff.wb = s.wb := by
  unfold State.hostOff
  split
  · exact (Reports.raise _ 101).wb
  · rfl

theorem enterCocoon_facts (s : State) (b : Bool) : (s.enterCocoon b).sys.mode = .cocoon ∧ (s.enterCocoon b).wb.lease = .none := by
  unfold State.enterCocoon
  dsimp only
  exact ⟨State.setMode_mode _ _ _, (State.setMode_wb _ _ _).1.trans (by rw [hostOff_wb])⟩

end Sys2Proof.Machine
end

