-- ==== Sys2Proof/Laws/Clock.lean ====
section
/-! SUPPORT. What changing the state of a clock and taking an angle source do (R101, R110 to R112, R120). -/

namespace Sys2Proof.Machine

theorem setAng_says {s : State} {a : AngState} (h : s.tb.angState ≠ a) :
    Says { s with tb := { s.tb with angState := a } } [(.mapRec, anchorWords s.tb.anchor)] [104] (s.setAng a) := by
  unfold State.setAng
  rw [if_neg h]
  exact ((Says.refl _).record .mapRec (anchorWords s.tb.anchor)).raise 104 (by decide)

/-- The list of nonces lost begins its days with plant time where there was none (R552). -/
theorem setPt_says {s : State} {a : PtState} (h : s.tb.ptState ≠ a) :
    Says { s with tb := { s.tb with ptState := a },
                  sec := if s.sec.nonceLost = some {} then { s.sec with nonceLost := some s.tb.pt } else s.sec }
      [(.mapRec, anchorWords s.tb.anchor)] [105] (s.setPt a) := by
  unfold State.setPt
  rw [if_neg h]
  exact ((Says.refl _).record .mapRec (anchorWords s.tb.anchor)).raise 105 (by decide)

theorem wrapPhase_id {d : Int} (h1 : -8388608 ≤ d) (h2 : d < 8388608) : wrapPhase d = d := by
  unfold wrapPhase signedOf unsignedOf
  simp only [Int.ofNat_eq_natCast, Int.natCast_pow]
  split <;> omega

/-- A source that is there, taken before its phase difference is met. -/
def State.acquireFrom (s : State) (src freq : Nat) : State :=
  let u := s.setRate (if src = 2 then nominal (s.bit .angCtrl 4) else freq)
  { u with tb := { u.tb with angSrc := src, lostSrc := none, synthCycles := 0, goodCycles := 0, slewFrac := 0 } }

theorem takeSource_eq {s : State} {src freq : Nat} {d : Int} (hs : s.sourceOk src freq = true) (h2 : src ≠ 2) :
    s.takeSource src freq d = ((s.acquireFrom src freq).setAng .acquire).meetPhase d := by
  unfold State.takeSource
  rw [if_neg (by rw [hs]; decide)]
  dsimp only
  rw [if_neg (fun h => h2 h.1)]
  rfl

/-- A source taken at a small difference. -/
theorem takeSource_small {s : State} {src freq : Nat} {d : Int} (h1 : -4660 ≤ d) (h2 : d ≤ 4660) (hs : src ≠ 2)
    (ho : s.sourceOk src freq = true) (ha : s.tb.angState ≠ .acquire) :
    Says { s with tb := { (s.setRate freq).tb with angSrc := src, lostSrc := none, synthCycles := 0, goodCycles := 0, slewFrac := 0,
                                                   angState := .acquire, slewRem := d } }
      [(.mapRec, anchorWords (s.setRate freq).tb.anchor)] [104] (s.takeSource src freq d) := by
  rw [takeSource_eq ho hs]
  have hv := setAng_says (s := s.acquireFrom src freq) (a := .acquire) ha
  unfold State.acquireFrom at hv ⊢
  rw [if_neg hs] at hv ⊢
  dsimp only at hv ⊢
  generalize State.setAng _ AngState.acquire = v at hv ⊢
  unfold State.meetPhase
  rw [if_pos (by omega)]
  exact hv.upd (fun u => { u with tb := { u.tb with slewRem := d } }) (fun _ _ _ _ _ => rfl) rfl rfl

theorem takeSource_slew {s : State} {src freq : Nat} {d : Int} (hd : 4660 < d ∨ d < -4660) (hs : src ≠ 2)
    (ho : s.sourceOk src freq = true) (ha : s.tb.angState ≠ .acquire) (hb : s.bit .angCtrl 5 = false ∨ d < 0) :
    ∃ v, Says { s with tb := { (s.setRate freq).tb with angSrc := src, lostSrc := none, synthCycles := 0, goodCycles := 0, slewFrac := 0,
                                                        angState := .acquire } }
        [(.mapRec, anchorWords (s.setRate freq).tb.anchor)] [104] v ∧
      Says { v with tb := { v.tb with slewRem := d, angState := .slew } } [(.mapRec, anchorWords (s.setRate freq).tb.anchor)] [104]
        (s.takeSource src freq d) := by
  rw [takeSource_eq ho hs]
  have hv := setAng_says (s := s.acquireFrom src freq) (a := .acquire) ha
  unfold State.acquireFrom at hv ⊢
  rw [if_neg hs] at hv ⊢
  dsimp only at hv ⊢
  refine ⟨_, hv, ?_⟩
  generalize State.setAng _ AngState.acquire = u at hv ⊢
  have hbit : u.bit .angCtrl 5 = s.bit .angCtrl 5 := by
    unfold State.bit State.reg; rw [hv.toReports.regs]; rfl
  unfold State.meetPhase
  rw [if_neg (by omega), if_neg (by rw [hbit]; rintro ⟨h1, h2⟩; rcases hb with hb | hb; · simp [hb] at h1
                                    · omega)]
  have et := hv.toReports.tb
  have ea : u.tb.angState = .acquire := by rw [et]
  have := setAng_says (s := { u with tb := { u.tb with slewRem := d } }) (a := .slew) (by dsimp only; rw [ea]; exact fun h => nomatch h)
  have ew : u.tb.anchor = (s.setRate freq).tb.anchor := by rw [et]
  rw [← ew]
  exact this

/-- With JUMP_MODE a source ahead is stepped over to. -/
theorem takeSource_jump {s : State} {src freq d : Nat} (hd : 4660 < d) (hs : src ≠ 2) (ho : s.sourceOk src freq = true)
    (ha : s.tb.angState ≠ .acquire) (hb : s.bit .angCtrl 5 = true) :
    ∃ v, Says { s with tb := { (s.setRate freq).tb with angSrc := src, lostSrc := none, synthCycles := 0, goodCycles := 0, slewFrac := 0,
                                                        angState := .acquire } }
        [(.mapRec, anchorWords (s.setRate freq).tb.anchor)] [104] v ∧
      s.takeSource src freq d = (({ v with tb := { v.tb with slewRem := 0, slewFrac := 0 } } : State).angJump d).setAng .locked := by
  rw [takeSource_eq ho hs]
  have hv := setAng_says (s := s.acquireFrom src freq) (a := .acquire) ha
  unfold State.acquireFrom at hv ⊢
  rw [if_neg hs] at hv ⊢
  dsimp only at hv ⊢
  refine ⟨_, hv, ?_⟩
  generalize State.setAng _ AngState.acquire = u at hv ⊢
  have hbit : u.bit .angCtrl 5 = s.bit .angCtrl 5 := by
    unfold State.bit State.reg; rw [hv.toReports.regs]; rfl
  unfold State.meetPhase
  rw [if_neg (by omega), if_pos ⟨by rw [hbit]; exact hb, by omega⟩]
  rfl

theorem setCount_eq (s : State) (c : Nat) : (s.setCount c).tb.ang / countsPerCycle = c ∧ (s.setCount c).tb.ang % countsPerCycle = s.tb.ang % countsPerCycle := by
  unfold State.setCount countsPerCycle; dsimp only; omega

theorem finish_ang (s : State) (op : Op) (a b : Nat) (l : List Byte) : (s.finish op a b l).tb.ang = s.tb.ang := by
  simp only [State.finish_frame]

theorem launchFrame_ang (s : State) (f : TimedFrame) (late : Bool) (m : Nat) : (s.launchFrame f late m).tb.ang = s.tb.ang := by
  unfold State.launchFrame State.finishFrame State.pullFrame
  dsimp only
  split
  · split
    · simp only [State.finish_frame, State.emit_frame]
    · rfl
  · rfl

theorem settleQueue_ang (n cls k : Nat) (s : State) : (s.settleQueue n cls k).tb.ang = s.tb.ang := by
  induction k generalizing s with
  | zero => rfl
  | succ k ih =>
    rw [State.settleQueue]
    split
    · rfl
    · split
      · rw [ih]; rfl
      · split
        · rfl
        · split
          · split
            · rw [ih, launchFrame_ang]
            · rfl
          · split
            · rw [ih]
              unfold State.lateFrame
              split
              · exact launchFrame_ang ..
              · unfold State.finishFrame
                split
                · rw [finish_ang]; rfl
                · rfl
            · rfl

theorem settleHeads_ang (s : State) : s.settleHeads.tb.ang = s.tb.ang := by
  unfold State.settleHeads
  generalize List.range 16 = l
  induction l generalizing s with
  | nil => rfl
  | cons x l ih => rw [List.foldl_cons, ih]; exact settleQueue_ang ..

theorem firePassed_ang (s : State) (pt : Bool) (new : Nat) (d : Due) : (s.firePassed pt new d).tb.ang = s.tb.ang := by
  unfold State.firePassed
  split
  · unfold State.fireAlarm; simp only [State.raise_frame]
  · simp only [State.applySetpoint_frame]
  · split
    · split
      · exact launchFrame_ang ..
      · rfl
    · rfl
  · split
    · unfold State.startDue
      dsimp only
      repeat' split
      all_goals simp only [State.setOp_frame, State.completeOps_frame]
    · rfl

theorem fireAll_ang (pt : Bool) (new : Nat) (l : List (Nat × Due)) (s : State) : (s.fireAll pt new l).tb.ang = s.tb.ang := by
  unfold State.fireAll
  rw [settleHeads_ang]
  induction l generalizing s with
  | nil => rfl
  | cons x l ih => rw [List.foldl_cons, ih, firePassed_ang]

theorem angJump_ang (s : State) (d : Nat) : (s.angJump d).tb.ang = s.tb.ang + d := by
  unfold State.angJump; dsimp only; rw [fireAll_ang]

theorem compareCount_ang (s : State) (n : Nat) : s.tb.ang ≤ (s.compareCount n).tb.ang ∧ (s.compareCount n).tb.ang % countsPerCycle = s.tb.ang % countsPerCycle := by
  unfold State.compareCount
  dsimp only
  split
  · rw [angJump_ang]; unfold countsPerCycle; dsimp only; omega
  · split
    · simp only [State.record_frame]; exact ⟨Nat.le_refl _, trivial⟩
    · exact ⟨Nat.le_refl _, rfl⟩

/-- Plant time with no timed frame waiting steps alone, where the step passes nothing. -/
theorem stepPt_says {s : State} {d : Int} (hf : s.tb.frames = [])
    (h : s.passed true s.tb.pt.total ((Int.ofNat s.tb.pt.total + d).toNat) = [] ∨ d ≤ 0) :
    Says { s with tb := { s.tb with pt := PlantTime.ofTotal (Int.ofNat s.tb.pt.total + d).toNat } } [(.ptStep, [unsignedOf 64 d])] [] (s.stepPt d) := by
  unfold State.stepPt
  dsimp only
  have hl : (if s.tb.pt.total < (Int.ofNat s.tb.pt.total + d).toNat then
      s.passed true s.tb.pt.total (Int.ofNat s.tb.pt.total + d).toNat else []) = [] := by
    split
    · rcases h with h | h
      · exact h
      · rename_i hx; simp only [Int.ofNat_eq_natCast] at hx; omega
    · rfl
  rw [hl]
  have : ∀ u : State, u.tb.frames = [] → ∀ b n, u.fireAll b n [] = u := by
    intro u hu b n
    unfold State.fireAll
    rw [List.foldl_nil]
    unfold State.settleHeads
    generalize List.range 16 = l
    induction l with
    | nil => rfl
    | cons x l ih =>
      rw [List.foldl_cons]
      have e : u.settleFrames (x / 8) (x % 8) = u := by
        unfold State.settleFrames
        rw [State.settleQueue]
        have : u.headFrame (x / 8) (x % 8) = none := by
          unfold State.headFrame; rw [hu]; rfl
        rw [this]
      rw [e]; exact ih
  rw [this ({ s with tb := { s.tb with pt := PlantTime.ofTotal (Int.ofNat s.tb.pt.total + d).toNat } }) hf]
  exact (Says.refl _).record _ _

theorem setPt_reports {s : State} (p : PtState) (hn : s.sec.nonceLost ≠ some {}) :
    Reports { s with tb := { s.tb with ptState := p } } (s.setPt p) := by
  by_cases h : s.tb.ptState = p
  · unfold State.setPt; rw [if_pos h]; subst h; exact Reports.refl _
  · have := (setPt_says h).toReports
    rw [if_neg hn] at this; exact this

theorem servo_bounds (a : Int) : -32768 ≤ max (-32768) (min 32767 a) ∧ max (-32768) (min 32767 a) ≤ 32767 := by omega

theorem setPt_tb (s : State) (p : PtState) : (s.setPt p).tb = { s.tb with ptState := p } := by
  by_cases h : s.tb.ptState = p
  · unfold State.setPt; rw [if_pos h, ← h]
  · exact (setPt_says h).toReports.tb

end Sys2Proof.Machine
end

