-- ==== Sys2Proof/Laws/Comms.lean ====
section
/-! SUPPORT. What CAN ports and the plant network do, said once. -/

namespace Sys2Proof.Machine

theorem newest_all {α : Type} (n : Nat) (l : List α) (h : l.length ≤ n) : newest n l = l := by
  unfold newest; rw [Nat.sub_eq_zero_of_le h]; rfl

/-- Inputs that wait, the newest `n` of them. -/
theorem arriveN_facts (n : Nat) (g : Nat × F32 → LoopArr) (l : List (Nat × F32)) : ∀ s : State,
    let u := l.foldl (fun s x => ({ s with loop := { s.loop with arrived := newest n (s.loop.arrived ++ [g x]) } } : State)) s
    u = { s with loop := { s.loop with arrived := u.loop.arrived } } ∧
    (s.loop.arrived.length + l.length ≤ n → u.loop.arrived = s.loop.arrived ++ l.map g) := by
  induction l with
  | nil => exact fun s => ⟨rfl, fun _ => (List.append_nil _).symm⟩
  | cons x l ih =>
    intro s
    obtain ⟨h1, h2⟩ := ih { s with loop := { s.loop with arrived := newest n (s.loop.arrived ++ [g x]) } }
    dsimp only at h1 h2 ⊢
    rw [List.foldl_cons]
    generalize l.foldl _ ({ s with loop := { s.loop with arrived := newest n (s.loop.arrived ++ [g x]) } } : State) = u at h1 h2 ⊢
    refine ⟨h1, fun h => ?_⟩
    rw [List.length_cons] at h
    have hn := newest_all n (s.loop.arrived ++ [g x]) (by rw [List.length_append, List.length_singleton]; omega)
    rw [h2 (by rw [hn, List.length_append, List.length_singleton]; omega), hn, List.append_assoc, List.map_cons]
    rfl

/-- The signals of a frame wait for the bundle that names it; nothing else changes. -/
theorem arriveAll_facts (e : ManEntry) (body : List Byte) (st : Nat) (l : List (Nat × F32)) (s : State) :
    let u := l.foldl (fun s x => State.arrive s e body 5 x.1 x.2 st) s
    u = { s with loop := { s.loop with arrived := u.loop.arrived } } ∧
    (s.loop.arrived.length + l.length ≤ 4096 → u.loop.arrived = s.loop.arrived ++ l.map fun x => ⟨e, body, 5, x.1, ⟨x.2, st, true⟩⟩) :=
  arriveN_facts 4096 (fun x => ⟨e, body, 5, x.1, ⟨x.2, st, true⟩⟩) l s

/-- Stamps of CAN frames read alike under one time base. -/
theorem canAngle_of {s t : State} (h : t.tb = s.tb) (k : Nat) : t.canAngle k = s.canAngle k := by
  unfold State.canAngle; rw [h]

theorem arriveCanN (n : Nat) (e : ManEntry) (body : List Byte) (k a : Nat) (l : List (Nat × F32)) : ∀ u : State, u.canAngle k = a →
    l.foldl (fun s x => ({ s with loop := { s.loop with arrived := newest n (s.loop.arrived ++ [⟨e, body, 5, x.1, ⟨x.2, s.canAngle k, true⟩⟩]) } } : State)) u =
      l.foldl (fun s x => ({ s with loop := { s.loop with arrived := newest n (s.loop.arrived ++ [⟨e, body, 5, x.1, ⟨x.2, a, true⟩⟩]) } } : State)) u := by
  induction l with
  | nil => exact fun _ _ => rfl
  | cons x l ih =>
    intro u hu
    rw [List.foldl_cons, List.foldl_cons, hu]
    exact ih _ hu

/-- The signals of a CAN frame wait under the angle of its stamp. -/
theorem arriveCan_facts (e : ManEntry) (body : List Byte) (k : Nat) (l : List (Nat × F32)) (s : State) :
    let u := l.foldl (fun s x => State.arrive s e body 5 x.1 x.2 (s.canAngle k)) s
    u = { s with loop := { s.loop with arrived := u.loop.arrived } } ∧
    (s.loop.arrived.length + l.length ≤ 4096 → u.loop.arrived = s.loop.arrived ++ l.map fun x => ⟨e, body, 5, x.1, ⟨x.2, s.canAngle k, true⟩⟩) := by
  unfold State.arrive
  generalize 4096 = n
  dsimp only
  rw [arriveCanN n e body k _ l s rfl]
  exact arriveN_facts n (fun x => ⟨e, body, 5, x.1, ⟨x.2, s.canAngle k, true⟩⟩) l s

theorem headBuf_least (l : List TxBuf) : ∀ b, headBuf l = some b → b ∈ l ∧
    ∀ c ∈ l, arbKey b.f < arbKey c.f ∨ (arbKey b.f = arbKey c.f ∧ b.seq ≤ c.seq) := by
  induction l with
  | nil => exact fun _ h => by cases h
  | cons a l ih =>
    intro b h
    unfold headBuf at h
    cases hl : headBuf l with
    | none =>
      have hnil : l = [] := by
        cases l with
        | nil => rfl
        | cons x xs =>
          unfold headBuf at hl
          split at hl
          · cases hl
          · split at hl <;> cases hl
      rw [hl] at h
      cases h
      subst hnil
      exact ⟨List.mem_cons_self, fun c hc => by rw [List.mem_singleton.mp hc]; exact .inr ⟨rfl, Nat.le_refl _⟩⟩
    | some c =>
      rw [hl] at h
      dsimp only at h
      obtain ⟨h1, h2⟩ := ih c hl
      split at h
      · rename_i z
        cases h
        refine ⟨List.mem_cons_self, fun d hd => ?_⟩
        rcases List.mem_cons.mp hd with rfl | hd
        · exact .inr ⟨rfl, Nat.le_refl _⟩
        · have := h2 d hd; omega
      · rename_i z
        cases h
        refine ⟨List.mem_cons_of_mem _ h1, fun d hd => ?_⟩
        rcases List.mem_cons.mp hd with rfl | hd
        · omega
        · exact h2 d hd

end Sys2Proof.Machine
end

