-- ==== Sys2Proof/Laws/Estimator.lean ====
section
/-! SUPPORT. The estimator's updates and tasks, said once. -/

namespace Sys2Proof.Machine

/-- What the estimator's updates of its cells leave alone. -/
def EstKeeps (s t : State) : Prop :=
  t.wb = s.wb ∧ t.prot = s.prot ∧ t.slk = s.slk ∧ t.regs = s.regs ∧ t.tb = s.tb ∧ t.cfg = s.cfg ∧
  t.est.ringEpoch = s.est.ringEpoch ∧ t.est.cells.length = s.est.cells.length ∧ t.est.lagWait = s.est.lagWait ∧
  t.est.lastCsr = s.est.lastCsr

theorem EstKeeps.refl (s : State) : EstKeeps s s := ⟨rfl, rfl, rfl, rfl, rfl, rfl, rfl, rfl, rfl, rfl⟩

theorem EstKeeps.trans {s t u : State} (h : EstKeeps s t) (k : EstKeeps t u) : EstKeeps s u := by
  unfold EstKeeps at *
  obtain ⟨a, b, c, d, e, f, g, i, j, l⟩ := h
  obtain ⟨a', b', c', d', e', f', g', i', j', l'⟩ := k
  exact ⟨a'.trans a, b'.trans b, c'.trans c, d'.trans d, e'.trans e, f'.trans f, g'.trans g, i'.trans i, j'.trans j, l'.trans l⟩

theorem EstKeeps.foldl {α : Type} (f : State → α → State) (h : ∀ u x, EstKeeps u (f u x)) (l : List α) (s : State) :
    EstKeeps s (l.foldl f s) := by
  induction l generalizing s with
  | nil => exact .refl s
  | cons a l ih => exact (h s a).trans (ih _)

theorem record_estKeeps (s : State) (n : RecName) (l : List Nat) : EstKeeps s (s.record n l) := by
  unfold EstKeeps; simp only [State.record_frame]; simp

theorem raise_estKeeps (s : State) (k : Nat) : EstKeeps s (s.raise k) := by
  unfold EstKeeps; simp only [State.raise_frame]; simp

theorem takePending_estKeeps (s : State) (i e : Nat) (c : Cell) : EstKeeps s (s.takePending i e c).2 := by
  unfold State.takePending
  dsimp only
  generalize ({ c with pending := _ } : Cell) = c0
  generalize List.filter _ c.pending = l
  have key : ∀ (l : List PendEst) (r : Cell × State), EstKeeps s r.2 → EstKeeps s (l.foldl (fun (r : Cell × State) p =>
    match p with
    | .theta _ th u d => ({ r.1 with th := th, tu := u, td := d }, r.2)
    | .leak _ score =>
      let excess (lim : Nat) : Bool := match score with
        | some x => flt (fofInt (Int.ofNat lim)) x
        | none => false
      let warn := excess (r.2.fld .estLeakCfg 16 8) && !r.1.leakSuspect
      let alert := excess (r.2.fld .estLeakCfg 24 8) && !r.1.leakAlert
      let s := if warn then (r.2.record .leakSuspect [i]).raise 82 else r.2
      let s := if alert then s.record .leakAlert [i] else s
      ({ r.1 with leak := score, leakSuspect := r.1.leakSuspect || warn, leakAlert := r.1.leakAlert || alert }, s)) r).2 := by
    intro l
    induction l with
    | nil => exact fun _ h => h
    | cons a l ih =>
      intro r h
      rw [List.foldl_cons]
      apply ih
      cases a with
      | theta _ _ _ _ => exact h
      | leak _ _ =>
        dsimp only
        have h2 : ∀ b : Bool, EstKeeps s (if b = true then (r.2.record .leakSuspect [i]).raise 82 else r.2) := by
          intro b; split
          · exact (h.trans (record_estKeeps _ _ _)).trans (raise_estKeeps _ _)
          · exact h
        have h3 : ∀ (b d : Bool) (u : State), u = (if b = true then (r.2.record .leakSuspect [i]).raise 82 else r.2) →
            EstKeeps s (if d = true then u.record .leakAlert [i] else u) := by
          intro b d u hu
          subst hu
          split
          · exact (h2 b).trans (record_estKeeps _ _ _)
          · exact h2 b
        exact h3 _ _ _ rfl
  exact key l (c0, s) (.refl s)

theorem resetCell_estKeeps (s : State) (i : Nat) (f : Bool) (c : Cell) : EstKeeps s (s.resetCell i f c).2 := by
  unfold State.resetCell; dsimp only
  split
  · exact record_estKeeps _ _ _
  · exact .refl s

theorem cellStep_estKeeps (s : State) (i e : Nat) (k : Bool) (c : Cell) : EstKeeps s (s.cellStep i e k c) := by
  unfold State.cellStep
  dsimp only
  have h1 := takePending_estKeeps s i e c
  generalize s.takePending i e c = r at h1 ⊢
  have h3 : ∀ (u : State) (f : Cell → Cell) (l : List (Nat × Bool × Nat)), EstKeeps s u →
      EstKeeps s { u.useFree with est := { u.est with cells := updAt u.est.cells i f, resets := l } } :=
    fun u f l h => h.trans ⟨rfl, rfl, rfl, rfl, rfl, rfl, rfl, updAt_length _ _ _, rfl, rfl⟩
  have h4 : ∀ (u : State) (f : Cell → Cell) (l : List (Nat × Bool × Nat)) (b : Bool), EstKeeps s u → EstKeeps s (if b = true then
      State.record { u.useFree with est := { u.est with cells := updAt u.est.cells i f, resets := l } } .estReinit [i]
      else { u.useFree with est := { u.est with cells := updAt u.est.cells i f, resets := l } }) := by
    intro u f l b h
    split
    · exact (h3 _ _ _ h).trans (record_estKeeps _ _ _)
    · exact h3 _ _ _ h
  generalize List.filter _ r.2.est.resets = o
  cases o with
  | nil => exact h4 _ _ _ _ h1
  | cons x l =>
    dsimp only
    have h2 := h1.trans (resetCell_estKeeps r.2 i ((x :: l).any (·.2.1)) r.1)
    exact h4 (r.2.resetCell i ((x :: l).any (·.2.1)) r.1).2 _ _ _ h2

theorem markBlind_facts (s : State) : s.markBlind.est = { s.est with cells := s.markBlind.est.cells } ∧
    s.markBlind.est.cells.length = s.est.cells.length := ⟨rfl, by simp [State.markBlind]⟩

/-- What marking the cells, storing the records and closing the periods of an epoch leave alone. -/
theorem closing_estKeeps (s : State) (p e : Nat) : EstKeeps s ((s.markBlind.writeResults p e).closePeriods p e) ∧
    ((s.markBlind.writeResults p e).closePeriods p e).est.arrayUs = s.est.arrayUs := by
  have hw : ∀ u : State, EstKeeps u (u.writeResults p e) ∧ (u.writeResults p e).est.arrayUs = u.est.arrayUs := by
    intro u
    have hf : ∀ (g : State → Nat × Cell → State) (hg : ∀ v x, ∃ m, g v x = { v with mem := m }) (l : List (Nat × Cell)) (v : State),
        ∃ m, l.foldl g v = { v with mem := m } := by
      intro g hg l
      induction l with
      | nil => exact fun v => ⟨_, rfl⟩
      | cons a l ih =>
        intro v
        obtain ⟨m, hm⟩ := hg v a
        obtain ⟨m', hm'⟩ := ih (g v a)
        exact ⟨m', by rw [List.foldl_cons, hm', hm]⟩
    unfold State.writeResults
    dsimp only
    split
    · exact ⟨⟨rfl, rfl, rfl, rfl, rfl, rfl, rfl, List.length_map _, rfl, rfl⟩, rfl⟩
    · obtain ⟨m, hm⟩ := hf (fun t x => if x.2.ring = p then { t with mem := Memory.writeN t.mem ((u.reg .estResultBaseLo).toNat + 2 ^ 32 * (u.reg .estResultBaseHi).toNat + 0x90000 * (e % 2) + 64 * x.1) (u.cellRecord x.2 e) } else t)
        (fun v x => by split <;> exact ⟨_, rfl⟩) (numbered 0 u.est.cells)
        { u with est := { u.est with cells := u.est.cells.map fun c => if c.ring = p then { c with recs := putRec c.recs e (u.cellRecord c e) } else c } }
      rw [hm]
      exact ⟨⟨rfl, rfl, rfl, rfl, rfl, rfl, rfl, List.length_map _, rfl, rfl⟩, rfl⟩
  have hc : ∀ u : State, EstKeeps u (u.closePeriods p e) ∧ (u.closePeriods p e).est.arrayUs = u.est.arrayUs := by
    intro u
    unfold State.closePeriods
    dsimp only
    split <;> split <;> exact ⟨⟨rfl, rfl, rfl, rfl, rfl, rfl, rfl, by simp, rfl, rfl⟩, rfl⟩
  have hb : EstKeeps s s.markBlind := ⟨rfl, rfl, rfl, rfl, rfl, rfl, rfl, (markBlind_facts s).2, rfl, rfl⟩
  obtain ⟨a, b⟩ := hw s.markBlind
  obtain ⟨a', b'⟩ := hc (s.markBlind.writeResults p e)
  exact ⟨(hb.trans a).trans a', b'.trans b⟩

theorem updateRing_facts (s : State) (p e us : Nat) : (s.updateRing p e us).est.ringEpoch = updAt s.est.ringEpoch p (fun _ => e) ∧
    (s.updateRing p e us).est.arrayUs = us % 65536 ∧ (s.updateRing p e us).est.lastCsr = updAt s.est.lastCsr p (fun _ => s.tb.csr) ∧
    (s.updateRing p e us).est.cells.length = s.est.cells.length ∧ (s.updateRing p e us).wb = s.wb ∧
    (s.updateRing p e us).prot = s.prot ∧ (s.updateRing p e us).slk = s.slk ∧ (s.updateRing p e us).regs = s.regs := by
  unfold State.updateRing
  dsimp only
  have ho : EstKeeps s (s.openInterval p e) := by
    unfold State.openInterval
    split <;> exact ⟨rfl, rfl, rfl, rfl, rfl, rfl, rfl, rfl, rfl, rfl⟩
  have h := ho.trans (EstKeeps.foldl (fun (u : State) (x : Nat × Cell) => u.cellStep x.1 e (s.est.cocoonRings.contains p) x.2)
    (fun u x => cellStep_estKeeps u x.1 e _ x.2) ((numbered 0 s.est.cells).filter fun x => x.2.ring == p) (s.openInterval p e))
  generalize List.foldl _ (s.openInterval p e) ((numbered 0 s.est.cells).filter fun x => x.2.ring == p) = u at h ⊢
  obtain ⟨a, b, c, d, f, g, i, j, k, l⟩ := h
  generalize List.foldl _ u.est.lastQ _ = last
  have key : ∀ v : State, v.est.ringEpoch = updAt s.est.ringEpoch p (fun _ => e) → v.est.arrayUs = us % 65536 → v.est.lastCsr = updAt s.est.lastCsr p (fun _ => s.tb.csr) →
      v.est.cells.length = s.est.cells.length → v.wb = s.wb → v.prot = s.prot → v.slk = s.slk → v.regs = s.regs →
      let w := (v.markBlind.writeResults p e).closePeriods p e
      w.est.ringEpoch = updAt s.est.ringEpoch p (fun _ => e) ∧ w.est.arrayUs = us % 65536 ∧ w.est.lastCsr = updAt s.est.lastCsr p (fun _ => s.tb.csr) ∧
        w.est.cells.length = s.est.cells.length ∧ w.wb = s.wb ∧ w.prot = s.prot ∧ w.slk = s.slk ∧ w.regs = s.regs := by
    intro v h1 h2 h3 h4 h5 h6 h7 h8
    obtain ⟨⟨x1, x2, x3, x4, x5, x6, x7, x8, x9, z⟩, y⟩ := closing_estKeeps v p e
    exact ⟨x7.trans h1, y.trans h2, z.trans h3, x8.trans h4, x1.trans h5, x2.trans h6, x3.trans h7, x4.trans h8⟩
  have h1 : updAt u.est.ringEpoch p (fun _ => e) = updAt s.est.ringEpoch p (fun _ => e) := by rw [i]
  have h2 : updAt u.est.lastCsr p (fun _ => u.tb.csr) = updAt s.est.lastCsr p (fun _ => s.tb.csr) := by rw [l, f]
  split
  · exact key _ h1 rfl h2 j a b c d
  · exact key _ h1 rfl h2 j a b c d

theorem rsOutlier_estKeeps (s : State) (i : Nat) (c : Cell) : EstKeeps s (s.rsOutlier i c) := by
  unfold State.rsOutlier; dsimp only
  split
  · exact .trans (t := { s with est := { s.est with outlierDay := _ } }) ⟨rfl, rfl, rfl, rfl, rfl, rfl, rfl, rfl, rfl, rfl⟩ (record_estKeeps _ _ _)
  · exact .refl s

theorem paramStep_estKeeps (s : State) (e i : Nat) (c : Cell) : EstKeeps s (s.paramStep e i c) := by
  unfold State.paramStep
  split
  · exact .refl s
  dsimp only
  rename_i c1 _
  generalize s.paramCell e c c1 = r
  refine .trans ?_ (rsOutlier_estKeeps _ _ _)
  have h1 : ∀ f : Cell → Cell, EstKeeps s { s with est := { s.est with cells := updAt s.est.cells i f } } :=
    fun f => ⟨rfl, rfl, rfl, rfl, rfl, rfl, rfl, updAt_length _ _ _, rfl, rfl⟩
  have h2 : ∀ (f : Cell → Cell) (b : Bool), EstKeeps s (if b = true then State.record { s with est := { s.est with cells := updAt s.est.cells i f } } .paramClamp [i]
      else { s with est := { s.est with cells := updAt s.est.cells i f } }) := by
    intro f b; split
    · exact (h1 f).trans (record_estKeeps _ _ _)
    · exact h1 f
  split
  · exact ((h2 _ _).trans (record_estKeeps _ _ _)).trans (raise_estKeeps _ _)
  · exact h2 _ _

theorem setInputs_row (k e : Nat) (row : List F32) (j : Nat) (u : State) :
    let w := (numbered j row).foldl (fun (s : State) q => s.setInput 4 (256 * k + q.1) q.2 e true) u
    w = { u with loop := w.loop } ∧
    (∀ x : Nat × Nat, (∀ i, i < row.length → x ≠ (4, 256 * k + (j + i))) → assocGet w.loop.inputs x = assocGet u.loop.inputs x) ∧
    (∀ i, i < row.length → assocGet w.loop.inputs (4, 256 * k + (j + i)) = some ⟨row.getD i 0, e, true⟩) := by
  induction row generalizing j u with
  | nil => exact ⟨rfl, fun _ _ => rfl, fun i h => absurd h (Nat.not_lt_zero i)⟩
  | cons v row ih =>
    dsimp only [numbered, List.foldl_cons]
    obtain ⟨a, b, c⟩ := ih (j + 1) (u.setInput 4 (256 * k + j) v e true)
    have hset : ∀ x : Nat × Nat, assocGet (u.setInput 4 (256 * k + j) v e true).loop.inputs x =
        if x = (4, 256 * k + j) then some ⟨v, e, true⟩ else assocGet u.loop.inputs x := by
      intro x; exact assocSet_get _ _ _ _
    refine ⟨a.trans rfl, fun x h => ?_, fun i h => ?_⟩
    · rw [b x fun i hi => ?_, hset, if_neg (by have := h 0 (Nat.succ_pos _); rwa [Nat.add_zero] at this)]
      have := h (i + 1) (Nat.succ_lt_succ hi)
      rwa [show j + 1 + i = j + (i + 1) by omega]
    · cases i with
      | zero =>
        rw [b _ fun i hi => ?_, hset]
        · simp
        · simp; omega
      | succ i =>
        have := c i (Nat.lt_of_succ_lt_succ h)
        rwa [show j + 1 + i = j + (i + 1) by omega] at this

theorem setInputs_rows (e : Nat) (rows : List (List F32)) (hr : ∀ l ∈ rows, l.length < 256) (j : Nat) (u : State) :
    let w := (numbered j rows).foldl (fun (s : State) sc => (numbered 0 sc.2).foldl (fun s q => s.setInput 4 (256 * sc.1 + q.1) q.2 e true) s) u
    w = { u with loop := w.loop } ∧
    (∀ x : Nat × Nat, (∀ k i, j ≤ k → i < 256 → x ≠ (4, 256 * k + i)) → assocGet w.loop.inputs x = assocGet u.loop.inputs x) ∧
    (∀ k i, i < (rows.getD k []).length → assocGet w.loop.inputs (4, 256 * (j + k) + i) = some ⟨(rows.getD k []).getD i 0, e, true⟩) := by
  induction rows generalizing j u with
  | nil => exact ⟨rfl, fun _ _ => rfl, fun k i h => by simp at h⟩
  | cons row rows ih =>
    dsimp only [numbered, List.foldl_cons]
    obtain ⟨a, b, c⟩ := setInputs_row j e row 0 u
    obtain ⟨a', b', c'⟩ := ih (fun l h => hr l (List.mem_cons_of_mem _ h)) (j + 1)
      ((numbered 0 row).foldl (fun (s : State) q => s.setInput 4 (256 * j + q.1) q.2 e true) u)
    have hrow := hr row List.mem_cons_self
    refine ⟨a'.trans ?_, fun x h => ?_, fun k i h => ?_⟩
    · have hall : ∀ (m : State) (l : LoopSt), m = { u with loop := m.loop } → ({ m with loop := l } : State) = { u with loop := l } := by
        intro m l h; rw [h]
      exact hall _ _ a
    · rw [b' x fun k i hk hi => h k i (by omega) hi, b x fun i hi => ?_]
      rw [Nat.zero_add]; exact h j i (Nat.le_refl _) (by omega)
    · cases k with
      | zero =>
        have h' : i < row.length := h
        rw [b' _ fun k i' hk hi => ?_]
        · have := c i h'
          rw [Nat.zero_add] at this
          exact this
        · simp; omega
      | succ k =>
        have := c' k i h
        rwa [show j + 1 + k = j + (k + 1) by omega] at this

theorem addedPlan_step (s : State) (cap : Nat) (rate : F32) (p pos : Nat) :
    s.planNode cap rate p pos = { s with est := (s.planNode cap rate p pos).est, slk := (s.planNode cap rate p pos).slk } ∧
    (s.planNode cap rate p pos).est.cells = s.est.cells ∧ (s.holds = false → (s.planNode cap rate p pos).slk = s.slk) ∧
    (∀ k, (assocGet s.est.plans k).isSome = true ∨ k = (p, pos) → (assocGet (s.planNode cap rate p pos).est.plans k).isSome = true) := by
  unfold State.planNode
  dsimp only
  have h : ∀ (v : List Nat × List Nat) (k : Nat × Nat), (assocGet s.est.plans k).isSome = true ∨ k = (p, pos) →
      (assocGet (assocSet s.est.plans (p, pos) v) k).isSome = true := by
    intro v k h
    rw [assocSet_get]
    split
    · rfl
    · rcases h with h | h
      · exact h
      · contradiction
  split
  · rename_i hh
    refine ⟨rfl, rfl, fun hn => ?_, h _⟩
    have : s.holds = true := hh
    rw [this] at hn; cases hn
  · exact ⟨rfl, rfl, fun _ => rfl, h _⟩

/-- What planning keeps. -/
def Planned (s t : State) : Prop :=
  t = { s with est := t.est, slk := t.slk } ∧ t.est.cells = s.est.cells ∧ (s.holds = false → t.slk = s.slk) ∧
  (∀ k, (assocGet s.est.plans k).isSome = true → (assocGet t.est.plans k).isSome = true)

theorem Planned.refl (s : State) : Planned s s := ⟨rfl, rfl, fun _ => rfl, fun _ h => h⟩

theorem Planned.trans {s t u : State} (h : Planned s t) (k : Planned t u) : Planned s u := by
  obtain ⟨a, b, c, d⟩ := h
  obtain ⟨a', b', c', d'⟩ := k
  refine ⟨by rw [a', a], b'.trans b, fun h => ?_, fun k h => d' k (d k h)⟩
  have : t.holds = s.holds := by rw [a]; rfl
  exact (c' (this.trans h)).trans (c h)

theorem Planned.foldl {α : Type} (f : State → α → State) (h : ∀ u x, Planned u (f u x)) (l : List α) (s : State) : Planned s (l.foldl f s) := by
  induction l generalizing s with
  | nil => exact .refl s
  | cons a l ih => exact (h s a).trans (ih _)

theorem planNode_planned (s : State) (cap : Nat) (rate : F32) (p pos : Nat) : Planned s (s.planNode cap rate p pos) := by
  obtain ⟨a, b, c, d⟩ := addedPlan_step s cap rate p pos
  exact ⟨a, b, c, fun k h => d k (.inl h)⟩

/-- One position's turn in a plan of the whole ring. -/
def State.planPos (s : State) (cap : Nat) (rate : F32) (p k : Nat) : State :=
  match s.ringPos p (k + 1) with
  | some r => if r.ntype = .cell then s.planNode cap rate p (k + 1) else s
  | none => s

theorem planPos_planned (s : State) (cap : Nat) (rate : F32) (p k : Nat) : Planned s (s.planPos cap rate p k) := by
  unfold State.planPos
  split
  · split
    · exact planNode_planned _ _ _ _ _
    · exact .refl s
  · exact .refl s

theorem Planned.ringPos {s t : State} (h : Planned s t) (p k : Nat) : t.ringPos p k = s.ringPos p k := by
  rw [h.1]; rfl

theorem planRing_has (s : State) (cap : Nat) (rate : F32) (p : Nat) (l : List Nat) {k : Nat} (hk : k ∈ l) {r : RingPos}
    (h : s.ringPos p (k + 1) = some r) (hr : r.ntype = .cell) :
    (assocGet (l.foldl (fun s k => s.planPos cap rate p k) s).est.plans (p, k + 1)).isSome = true := by
  induction l generalizing s with
  | nil => cases hk
  | cons a l ih =>
    rw [List.foldl_cons]
    rcases List.mem_cons.mp hk with e | e
    · subst e
      refine (Planned.foldl _ (fun u x => planPos_planned u cap rate p x) l _).2.2.2 _ ?_
      unfold State.planPos
      rw [h]
      dsimp only
      rw [if_pos hr]
      exact (addedPlan_step s cap rate p (k + 1)).2.2.2 _ (.inr rfl)
    · exact ih _ e ((planPos_planned s cap rate p a).ringPos p (k + 1) ▸ h)

theorem planRing_planned (s : State) (cap : Nat) (rate : F32) (p : Nat) :
    Planned s ((List.range (s.ringN p)).foldl (fun s k => s.planPos cap rate p k) s) :=
  Planned.foldl _ (fun u x => planPos_planned u cap rate p x) _ _

theorem ringPos_range {s : State} {p pos : Nat} {r : RingPos} (h : s.ringPos p pos = some r) : ∃ k, pos = k + 1 ∧ k < s.ringN p := by
  unfold State.ringPos at h
  unfold State.ringN
  split at h
  · cases h
  · have := (List.getElem?_eq_some_iff.mp h).1
    exact ⟨pos - 1, by omega, this⟩

theorem planAll_eq (s : State) (cap : Nat) (rate : F32) : s.planAll cap rate = (List.range 4).foldl (fun s p =>
    (List.range (s.ringN p)).foldl (fun s k => s.planPos cap rate p k) s) s := by
  unfold State.planAll State.planPos
  rfl

theorem planAll_planned (s : State) (cap : Nat) (rate : F32) : Planned s (s.planAll cap rate) := by
  rw [planAll_eq]
  exact Planned.foldl _ (fun u x => planRing_planned u cap rate x) _ _

theorem planAll_has (s : State) (cap : Nat) (rate : F32) {p pos : Nat} {r : RingPos} (hp : p < 4) (h : s.ringPos p pos = some r)
    (hr : r.ntype = .cell) : (assocGet (s.planAll cap rate).est.plans (p, pos)).isSome = true := by
  obtain ⟨k, rfl, hk⟩ := ringPos_range h
  have key : ∀ (l : List Nat) (u : State), p ∈ l → u.ringPos p (k + 1) = some r → k < u.ringN p → (assocGet (l.foldl (fun s p =>
      (List.range (s.ringN p)).foldl (fun s k => s.planPos cap rate p k) s) u).est.plans (p, k + 1)).isSome = true := by
    intro l
    induction l with
    | nil => intro u h; cases h
    | cons a l ih =>
      intro u hm h hk
      rw [List.foldl_cons]
      rcases List.mem_cons.mp hm with e | e
      · subst e
        refine (Planned.foldl _ (fun u x => planRing_planned u cap rate x) l _).2.2.2 _ ?_
        exact planRing_has u cap rate p _ (List.mem_range.mpr hk) h hr
      · have hu := planRing_planned u cap rate a
        refine ih _ e ((hu.ringPos p (k + 1)).trans h) ?_
        have : (List.foldl (fun s k => s.planPos cap rate a k) u (List.range (u.ringN a))).ringN p = u.ringN p := by rw [hu.1]; rfl
        exact this ▸ hk
  rw [planAll_eq]
  exact key _ s (List.mem_range.mpr hp) h hk

end Sys2Proof.Machine
end

