-- ==== Sys2Proof/Laws/Evolve/Operands.lean ====
section
/-! SUPPORT. The operations of Machine/Operands.lean keep what the relation `Evolves` says. -/

namespace Sys2Proof.Machine

theorem State.mpuFault_evolves {s0 s : State} (h : Evolves s0 s) (m a : Nat) (p : AccPriv) (k : AccKind) :
    Evolves s0 (State.mpuFault s m a p k) := by
  unfold State.mpuFault
  with_reducible repeat' first
    | assumption | exact Evolves.refl _ | refine State.raise_evolves ?_ .. | refine State.record_evolves ?_ ..
    | ((conv => arg 2; arg 25); refine Evolves.upd ?_ (fun h => h) rfl rfl rfl rfl) | dsimp only | split

theorem State.setQueue_evolves {s0 s : State} (h : Evolves s0 s) (n : Nat) (f : Queue → Queue) :
    Evolves s0 (State.setQueue s n f) := by
  unfold State.setQueue
  with_reducible repeat' first
    | assumption | exact Evolves.refl _ | ((conv => arg 2; arg 25); refine Evolves.upd ?_ (fun h => h) rfl rfl rfl rfl)
    | dsimp only

theorem State.queueEvent_evolves {s0 s : State} (h : Evolves s0 s) (n : Nat) : Evolves s0 (State.queueEvent s n) := by
  unfold State.queueEvent
  with_reducible repeat' first
    | assumption | exact Evolves.refl _ | refine State.raise_evolves ?_ .. | refine State.setQueue_evolves ?_ ..
    | ((conv => arg 2; arg 25); refine Evolves.upd ?_ (fun h => h) rfl rfl rfl rfl) | dsimp only | split

theorem State.contentMade_evolves {s0 s : State} (h : Evolves s0 s) (n k : Nat) (now had : Bool) :
    Evolves s0 (State.contentMade s n k now had) := by
  unfold State.contentMade
  with_reducible repeat' first
    | assumption | exact Evolves.refl _ | refine State.setQueue_evolves ?_ .. | refine State.queueEvent_evolves ?_ ..
    | ((conv => arg 2; arg 25); refine Evolves.upd ?_ (fun h => h) rfl rfl rfl rfl) | dsimp only | split

theorem State.putCompletion_evolves {s0 s : State} (h : Evolves s0 s) (n : Nat) (d : List Byte) (tag status result flags : Nat) :
    Evolves s0 (State.putCompletion s n d tag status result flags) := by
  unfold State.putCompletion
  with_reducible repeat' first
    | assumption | exact Evolves.refl _ | refine State.setQueue_evolves ?_ .. | refine State.contentMade_evolves ?_ ..
    | ((conv => arg 2; arg 25); first | refine Evolves.upd ?_ (Memory.writeN_wf _ _) rfl rfl rfl rfl | refine Evolves.upd ?_ (fun h => h) rfl rfl rfl rfl)
    | dsimp only | split

theorem State.writeCompletion_evolves {s0 s : State} (h : Evolves s0 s) (n : Nat) (d : List Byte) (tag status result flags : Nat) :
    Evolves s0 (State.writeCompletion s n d tag status result flags) := by
  unfold State.writeCompletion
  with_reducible repeat' first
    | assumption | exact Evolves.refl _ | refine State.setQueue_evolves ?_ .. | refine State.putCompletion_evolves ?_ ..
    | ((conv => arg 2; arg 25); refine Evolves.upd ?_ (fun h => h) rfl rfl rfl rfl) | dsimp only | split

theorem State.putHeld_evolves {s0 s : State} (h : Evolves s0 s) (n : Nat) (a0 : List HeldEntry) :
    Evolves s0 (State.putHeld s n a0) := by
  induction a0 generalizing s0 s n with
  | nil =>
    rw [State.putHeld]
    with_reducible repeat' first
      | assumption | exact Evolves.refl _ | refine State.setQueue_evolves ?_ .. | refine State.putCompletion_evolves ?_ ..
      | ((conv => arg 2; arg 25); refine Evolves.upd ?_ (fun h => h) rfl rfl rfl rfl) | dsimp only | split
  | cons y ys ih =>
    rw [State.putHeld]
    with_reducible repeat' first
      | assumption | exact Evolves.refl _ | refine ih ?_ .. | refine State.setQueue_evolves ?_ ..
      | refine State.putCompletion_evolves ?_ .. | ((conv => arg 2; arg 25); refine Evolves.upd ?_ (fun h => h) rfl rfl rfl rfl)
      | dsimp only | split

theorem State.setOp_evolves {s0 s : State} (h : Evolves s0 s) (w : WorkRef) (f : Op → Op) : Evolves s0 (State.setOp s w f) := by
  unfold State.setOp
  with_reducible repeat' first
    | assumption | exact Evolves.refl _ | ((conv => arg 2; arg 25); refine Evolves.upd ?_ (fun h => h) rfl rfl rfl rfl)
    | dsimp only | split | refine Evolves.ofFst (by assumption) ?_ | refine Evolves.ofSnd (by assumption) ?_

theorem State.writeBuf_evolves {s0 s : State} (h : Evolves s0 s) (op : Op) (off : Nat) (b : List Byte) :
    Evolves s0 (State.writeBuf s op off b) := by
  unfold State.writeBuf
  with_reducible repeat' first
    | assumption | exact Evolves.refl _
    | ((conv => arg 2; arg 25); first | refine Evolves.upd ?_ (Memory.writeN_wf _ _) rfl rfl rfl rfl | refine Evolves.upd ?_ (fun h => h) rfl rfl rfl rfl)
    | dsimp only

theorem State.writeRes_evolves {s0 s : State} (h : Evolves s0 s) (op : Op) (off : Nat) (b : List Byte) :
    Evolves s0 (State.writeRes s op off b) := by
  unfold State.writeRes
  with_reducible repeat' first
    | assumption | exact Evolves.refl _
    | ((conv => arg 2; arg 25); first | refine Evolves.upd ?_ (Memory.writeN_wf _ _) rfl rfl rfl rfl | refine Evolves.upd ?_ (fun h => h) rfl rfl rfl rfl)
    | dsimp only | split

theorem State.lastProgress_evolves {s0 s : State} (h : Evolves s0 s) (op : Op) (status : Nat) :
    Evolves s0 (State.lastProgress s op status) := by
  unfold State.lastProgress
  with_reducible repeat' first
    | assumption | exact Evolves.refl _ | refine State.writeRes_evolves ?_ .. | dsimp only | split

theorem State.finish_evolves {s0 s : State} (h : Evolves s0 s) (op : Op) (status0 result0 : Nat) (data0 : List Byte) :
    Evolves s0 (State.finish s op status0 result0 data0) := by
  unfold State.finish
  with_reducible repeat' first
    | assumption | exact Evolves.refl _ | refine State.journalAdd_evolves ?_ .. | refine State.queueEvent_evolves ?_ ..
    | refine State.setOp_evolves ?_ .. | refine State.writeRes_evolves ?_ .. | refine State.lastProgress_evolves ?_ ..
    | ((conv => arg 2; arg 25); refine Evolves.upd ?_ (fun h => h) rfl rfl rfl rfl) | dsimp only | split
    | refine Evolves.ofFst (by assumption) ?_ | refine Evolves.ofSnd (by assumption) ?_

theorem State.engineOp_evolves {s : State} (w : WorkRef) (engine opcode : Nat) {f : Op → State → State}
    (hf : ∀ op, Evolves s (f op s)) : Evolves s (State.engineOp s w engine opcode f) := by
  unfold State.engineOp
  split
  · split
    · exact hf _
    · exact Evolves.refl s
  · exact Evolves.refl s

end Sys2Proof.Machine
end

