-- ==== Sys2Proof/Laws/Evolve/Queues.lean ====
section
/-! SUPPORT. The operations of Machine/Queues.lean keep what the relation `Evolves` says. -/

namespace Sys2Proof.Machine

theorem State.refuseHq_evolves {s0 s : State} (h : Evolves s0 s) (q : Requester) (n : Nat) :
    Evolves s0 (State.refuseHq s q n) := by
  unfold State.refuseHq
  with_reducible repeat' first
    | assumption | exact Evolves.refl _ | refine State.refuseWrite_evolves ?_ .. | dsimp only

theorem State.completeFetched_evolves {s0 s : State} (h : Evolves s0 s) (n status : Nat) (a0 : List Fetched) :
    Evolves s0 (State.completeFetched s n status a0) := by
  induction a0 generalizing s0 s n status with
  | nil =>
    rw [State.completeFetched]
    with_reducible repeat' first
      | assumption | exact Evolves.refl _ | refine State.writeCompletion_evolves ?_ .. | dsimp only | split
  | cons y ys ih =>
    rw [State.completeFetched]
    with_reducible repeat' first
      | assumption | exact Evolves.refl _ | refine ih ?_ .. | refine State.writeCompletion_evolves ?_ .. | dsimp only | split

theorem State.completeOps_evolves {s0 s : State} (h : Evolves s0 s) (status : Nat) (a0 : List Op) :
    Evolves s0 (State.completeOps s status a0) := by
  induction a0 generalizing s0 s status with
  | nil =>
    rw [State.completeOps]
    with_reducible repeat' first
      | assumption | exact Evolves.refl _ | refine State.writeCompletion_evolves ?_ ..
      | ((conv => arg 2; arg 25); refine Evolves.upd ?_ (fun h => h) rfl rfl rfl rfl) | dsimp only | split
  | cons y ys ih =>
    rw [State.completeOps]
    with_reducible repeat' first
      | assumption | exact Evolves.refl _ | refine ih ?_ .. | refine State.writeCompletion_evolves ?_ ..
      | ((conv => arg 2; arg 25); refine Evolves.upd ?_ (fun h => h) rfl rfl rfl rfl) | dsimp only | split

theorem State.cancelRing_evolves {s0 s : State} (h : Evolves s0 s) (n status : Nat) :
    Evolves s0 (State.cancelRing s n status) := by
  unfold State.cancelRing
  with_reducible repeat' first
    | assumption | exact Evolves.refl _ | refine State.setQueue_evolves ?_ .. | refine State.completeFetched_evolves ?_ ..
    | refine State.completeOps_evolves ?_ .. | ((conv => arg 2; arg 25); refine Evolves.upd ?_ (fun h => h) rfl rfl rfl rfl)
    | dsimp only | split

theorem State.hqCtrlFields_evolves {s0 s : State} (h : Evolves s0 s) (q : Requester) (n : Nat) (v : Nat) :
    Evolves s0 (State.hqCtrlFields s q n v) := by
  unfold State.hqCtrlFields
  with_reducible repeat' first
    | assumption | exact Evolves.refl _ | refine State.setQueue_evolves ?_ .. | refine State.refuseHq_evolves ?_ ..
    | refine State.cancelRing_evolves ?_ .. | ((conv => arg 2; arg 25); refine Evolves.upd ?_ (fun h => h) rfl rfl rfl rfl)
    | dsimp only | split

theorem State.claimRing_evolves {s0 s : State} (h : Evolves s0 s) (q : Requester) (n : Nat) (v : Nat) :
    Evolves s0 (State.claimRing s q n v) := by
  unfold State.claimRing
  with_reducible repeat' first
    | assumption | exact Evolves.refl _ | refine State.raise_evolves ?_ .. | refine State.setQueue_evolves ?_ ..
    | refine State.refuseHq_evolves ?_ .. | refine State.hqCtrlFields_evolves ?_ ..
    | ((conv => arg 2; arg 25); refine Evolves.upd ?_ (fun h => h) rfl rfl rfl rfl) | dsimp only | split

theorem State.releaseRing_evolves {s0 s : State} (h : Evolves s0 s) (q : Requester) (n : Nat) :
    Evolves s0 (State.releaseRing s q n) := by
  unfold State.releaseRing
  with_reducible repeat' first
    | assumption | exact Evolves.refl _ | refine State.setQueue_evolves ?_ .. | refine State.refuseHq_evolves ?_ ..
    | ((conv => arg 2; arg 25); refine Evolves.upd ?_ (fun h => h) rfl rfl rfl rfl) | dsimp only | split

theorem State.writeHqCtrl_evolves {s0 s : State} (h : Evolves s0 s) (q : Requester) (n : Nat) (v : Nat) :
    Evolves s0 (State.writeHqCtrl s q n v) := by
  unfold State.writeHqCtrl
  with_reducible repeat' first
    | assumption | exact Evolves.refl _ | refine State.refuseHq_evolves ?_ .. | refine State.hqCtrlFields_evolves ?_ ..
    | refine State.claimRing_evolves ?_ .. | refine State.releaseRing_evolves ?_ .. | dsimp only | split

theorem execRingClaim_leads (q : Requester) (n : Nat) (v : Word) (s : State) : Leads s (execRingClaim q n v s) := by
  unfold execRingClaim
  with_reducible repeat' first
    | refine Leads.next ?_ | assumption | exact Evolves.refl _ | refine State.writeHqCtrl_evolves ?_ .. | dsimp only

theorem execRingRelease_leads (q : Requester) (n : Nat) (v : Word) (s : State) : Leads s (execRingRelease q n v s) := by
  unfold execRingRelease
  with_reducible repeat' first
    | refine Leads.next ?_ | assumption | exact Evolves.refl _ | refine State.writeHqCtrl_evolves ?_ .. | dsimp only

theorem execQueueEnable_leads (q : Requester) (n : Nat) (v : Word) (s : State) : Leads s (execQueueEnable q n v s) := by
  unfold execQueueEnable
  with_reducible repeat' first
    | refine Leads.next ?_ | assumption | exact Evolves.refl _ | refine State.writeHqCtrl_evolves ?_ .. | dsimp only

theorem execQueueDisable_leads (q : Requester) (n : Nat) (v : Word) (s : State) : Leads s (execQueueDisable q n v s) := by
  unfold execQueueDisable
  with_reducible repeat' first
    | refine Leads.next ?_ | assumption | exact Evolves.refl _ | refine State.writeHqCtrl_evolves ?_ .. | dsimp only

theorem State.readDoorbell_evolves {s0 s : State} (h : Evolves s0 s) (n : Nat) : Evolves s0 (State.readDoorbell s n) := by
  unfold State.readDoorbell
  with_reducible repeat' first
    | assumption | exact Evolves.refl _ | refine State.setQueue_evolves ?_ .. | refine State.queueEvent_evolves ?_ ..
    | refine State.putHeld_evolves ?_ .. | ((conv => arg 2; arg 25); refine Evolves.upd ?_ (fun h => h) rfl rfl rfl rfl)
    | dsimp only | split

theorem State.readDoorbells_evolves {s0 s : State} (h : Evolves s0 s) (p : Nat → Queue → Bool) (a0 : Nat) :
    Evolves s0 (State.readDoorbells s p a0) := by
  induction a0 generalizing s0 s p with
  | zero =>
    rw [State.readDoorbells]
    with_reducible repeat' first
      | assumption | exact Evolves.refl _ | refine State.readDoorbell_evolves ?_ .. | dsimp only | split
  | succ y ih =>
    rw [State.readDoorbells]
    with_reducible repeat' first
      | assumption | exact Evolves.refl _ | refine ih ?_ .. | refine State.readDoorbell_evolves ?_ .. | dsimp only | split

theorem execHqKick_leads (q : Requester) (v : Word) (s : State) : Leads s (execHqKick q v s) := by
  unfold execHqKick
  with_reducible repeat' first
    | refine Leads.next ?_ | assumption | exact Evolves.refl _ | refine State.readDoorbell_evolves ?_ ..
    | refine State.readDoorbells_evolves ?_ .. | dsimp only | split

theorem execDoorbellPoll_leads (s : State) : Leads s (execDoorbellPoll s) := by
  unfold execDoorbellPoll
  with_reducible repeat' first
    | refine Leads.next ?_ | assumption | exact Evolves.refl _ | refine State.readDoorbells_evolves ?_ .. | dsimp only | split

theorem State.fetchDescs_evolves {s0 s : State} (h : Evolves s0 s) (n : Nat) (a0 : Nat) :
    Evolves s0 (State.fetchDescs s n a0) := by
  induction a0 generalizing s0 s n with
  | zero =>
    rw [State.fetchDescs]
    with_reducible repeat' first
      | assumption | exact Evolves.refl _ | refine State.setQueue_evolves ?_ ..
      | ((conv => arg 2; arg 25); refine Evolves.upd ?_ (fun h => h) rfl rfl rfl rfl) | dsimp only | split
  | succ y ih =>
    rw [State.fetchDescs]
    with_reducible repeat' first
      | assumption | exact Evolves.refl _ | refine ih ?_ .. | refine State.setQueue_evolves ?_ ..
      | ((conv => arg 2; arg 25); refine Evolves.upd ?_ (fun h => h) rfl rfl rfl rfl) | dsimp only | split

theorem execRingFetch_leads (s : State) : Leads s (execRingFetch s) := by
  unfold execRingFetch
  with_reducible repeat' first
    | refine Leads.next ?_ | assumption | exact Evolves.refl _ | refine State.fetchDescs_evolves ?_ ..
    | ((conv => arg 2; arg 25); refine Evolves.upd ?_ (fun h => h) rfl rfl rfl rfl) | dsimp only | split
    | refine Evolves.ofFst (by assumption) ?_ | refine Evolves.ofSnd (by assumption) ?_

theorem execRingErrClear_leads (zq0 : Requester) (n : Nat) (s : State) : Leads s (execRingErrClear zq0 n s) := by
  unfold execRingErrClear
  with_reducible repeat' first
    | refine Leads.next ?_ | assumption | exact Evolves.refl _ | refine State.setQueue_evolves ?_ ..
    | ((conv => arg 2; arg 25); refine Evolves.upd ?_ (fun h => h) rfl rfl rfl rfl) | dsimp only | split

theorem State.rememberSubmit_evolves {s0 s : State} (h : Evolves s0 s) (n id : Nat) (d : List Byte) :
    Evolves s0 (State.rememberSubmit s n id d) := by
  unfold State.rememberSubmit
  with_reducible repeat' first
    | assumption | exact Evolves.refl _ | refine State.setQueue_evolves ?_ ..
    | ((conv => arg 2; arg 25); refine Evolves.upd ?_ (fun h => h) rfl rfl rfl rfl) | dsimp only | split

theorem State.dropFetched_evolves {s0 s : State} (h : Evolves s0 s) (n : Nat) : Evolves s0 (State.dropFetched s n) := by
  unfold State.dropFetched
  with_reducible repeat' first
    | assumption | exact Evolves.refl _ | refine State.setQueue_evolves ?_ ..
    | ((conv => arg 2; arg 25); refine Evolves.upd ?_ (fun h => h) rfl rfl rfl rfl) | dsimp only | split

theorem State.acceptOp_evolves {s0 s : State} (h : Evolves s0 s) (o : Op) (solo : Bool) :
    Evolves s0 (State.acceptOp s o solo) := by
  unfold State.acceptOp
  with_reducible repeat' first
    | assumption | exact Evolves.refl _ | refine State.writeCompletion_evolves ?_ .. | refine State.rememberSubmit_evolves ?_ ..
    | ((conv => arg 2; arg 25); refine Evolves.upd ?_ (fun h => h) rfl rfl rfl rfl) | dsimp only | split

theorem State.acceptAll_evolves {s0 s : State} (h : Evolves s0 s) (a0 : List Op) : Evolves s0 (State.acceptAll s a0) := by
  induction a0 generalizing s0 s with
  | nil =>
    rw [State.acceptAll]
    with_reducible repeat' first
      | assumption | exact Evolves.refl _ | refine State.acceptOp_evolves ?_ ..
      | ((conv => arg 2; arg 25); refine Evolves.upd ?_ (fun h => h) rfl rfl rfl rfl) | dsimp only | split
      | refine Evolves.ofFst (by assumption) ?_ | refine Evolves.ofSnd (by assumption) ?_
  | cons y ys ih =>
    rw [State.acceptAll]
    with_reducible repeat' first
      | assumption | exact Evolves.refl _ | refine ih ?_ .. | refine State.acceptOp_evolves ?_ ..
      | ((conv => arg 2; arg 25); refine Evolves.upd ?_ (fun h => h) rfl rfl rfl rfl) | dsimp only | split
      | refine Evolves.ofFst (by assumption) ?_ | refine Evolves.ofSnd (by assumption) ?_

theorem State.acceptReady_evolves {s0 s : State} (h : Evolves s0 s) : Evolves s0 (State.acceptReady s) := by
  unfold State.acceptReady
  with_reducible repeat' first
    | assumption | exact Evolves.refl _ | refine State.acceptAll_evolves ?_ .. | dsimp only | split

theorem State.settleOps_evolves {s0 s : State} (h : Evolves s0 s) (both alone : Nat → Bool) (a0 : List Op) :
    Evolves s0 (State.settleOps s both alone a0) := by
  induction a0 generalizing s0 s both alone with
  | nil =>
    rw [State.settleOps]
    with_reducible repeat' first
      | assumption | exact Evolves.refl _ | refine State.writeCompletion_evolves ?_ ..
      | refine State.rememberSubmit_evolves ?_ ..
      | ((conv => arg 2; arg 25); refine Evolves.upd ?_ (fun h => h) rfl rfl rfl rfl) | dsimp only | split
      | refine Evolves.ofFst (by assumption) ?_ | refine Evolves.ofSnd (by assumption) ?_
  | cons y ys ih =>
    rw [State.settleOps]
    with_reducible repeat' first
      | assumption | exact Evolves.refl _ | refine ih ?_ .. | refine State.writeCompletion_evolves ?_ ..
      | refine State.rememberSubmit_evolves ?_ ..
      | ((conv => arg 2; arg 25); refine Evolves.upd ?_ (fun h => h) rfl rfl rfl rfl) | dsimp only | split
      | refine Evolves.ofFst (by assumption) ?_ | refine Evolves.ofSnd (by assumption) ?_

theorem State.issueHead_evolves {s0 s : State} (h : Evolves s0 s) (n : Nat) (f : Fetched) :
    Evolves s0 (State.issueHead s n f) := by
  unfold State.issueHead
  with_reducible repeat' first
    | assumption | exact Evolves.refl _ | refine State.journalAdd_evolves ?_ .. | refine State.mpuFault_evolves ?_ ..
    | refine State.writeCompletion_evolves ?_ .. | refine State.dropFetched_evolves ?_ ..
    | refine State.acceptReady_evolves ?_ .. | ((conv => arg 2; arg 25); refine Evolves.upd ?_ (fun h => h) rfl rfl rfl rfl)
    | dsimp only | split | refine Evolves.ofFst (by assumption) ?_ | refine Evolves.ofSnd (by assumption) ?_

theorem State.useGrant_evolves {s0 s : State} (h : Evolves s0 s) (i : Nat) : Evolves s0 (State.useGrant s i) := by
  unfold State.useGrant
  with_reducible repeat' first
    | assumption | exact Evolves.refl _ | ((conv => arg 2; arg 25); refine Evolves.upd ?_ (fun h => h) rfl rfl rfl rfl)
    | dsimp only | split

theorem execDescIssue_leads (ring : Nat) (s : State) : Leads s (execDescIssue ring s) := by
  unfold execDescIssue
  with_reducible repeat' first
    | refine Leads.next ?_ | assumption | exact Evolves.refl _ | refine State.issueHead_evolves ?_ ..
    | refine State.useGrant_evolves ?_ .. | ((conv => arg 2; arg 25); refine Evolves.upd ?_ (fun h => h) rfl rfl rfl rfl)
    | dsimp only | split | refine Evolves.ofFst (by assumption) ?_ | refine Evolves.ofSnd (by assumption) ?_

theorem execTagGrant_leads (issuer : Nat) (s : State) : Leads s (execTagGrant issuer s) := by
  unfold execTagGrant
  with_reducible repeat' first
    | refine Leads.next ?_ | assumption | exact Evolves.refl _
    | ((conv => arg 2; arg 25); refine Evolves.upd ?_ (fun h => h) rfl rfl rfl rfl) | dsimp only | split
    | refine Evolves.ofFst (by assumption) ?_ | refine Evolves.ofSnd (by assumption) ?_

theorem execOpComplete_leads (tag : Nat) (s : State) : Leads s (execOpComplete tag s) := by
  unfold execOpComplete
  with_reducible repeat' first
    | refine Leads.next ?_ | assumption | exact Evolves.refl _ | refine State.writeCompletion_evolves ?_ ..
    | ((conv => arg 2; arg 25); refine Evolves.upd ?_ (fun h => h) rfl rfl rfl rfl) | dsimp only | split
    | refine Evolves.ofFst (by assumption) ?_ | refine Evolves.ofSnd (by assumption) ?_

theorem State.anyOp_evolves {s : State} (w : WorkRef) (opcode : Nat) {f : Op → State → State} (hf : ∀ op, Evolves s (f op s)) :
    Evolves s (State.anyOp s w opcode f) := by
  unfold State.anyOp
  split
  · split
    · exact hf _
    · exact Evolves.refl s
  · exact Evolves.refl s

theorem execNop_leads (w : WorkRef) (s : State) : Leads s (execNop w s) := by
  unfold execNop
  with_reducible repeat' first
    | refine Leads.next ?_ | assumption | exact Evolves.refl _ | refine State.finish_evolves ?_ ..
    | refine Evolves.trans ?_ (State.anyOp_evolves _ _ fun op => ?_) | dsimp only | split

theorem execAbort_leads (w : WorkRef) (s : State) : Leads s (execAbort w s) := by
  unfold execAbort
  with_reducible repeat' first
    | refine Leads.next ?_ | assumption | exact Evolves.refl _ | refine State.endUpdate_evolves ?_ ..
    | refine State.setQueue_evolves ?_ .. | refine State.writeCompletion_evolves ?_ .. | refine State.finish_evolves ?_ ..
    | refine Evolves.trans ?_ (State.anyOp_evolves _ _ fun op => ?_)
    | ((conv => arg 2; arg 25); refine Evolves.upd ?_ (fun h => h) rfl rfl rfl rfl) | dsimp only | split
    | refine Evolves.ofFst (by assumption) ?_ | refine Evolves.ofSnd (by assumption) ?_

theorem execDrain_leads (w : WorkRef) (s : State) : Leads s (execDrain w s) := by
  unfold execDrain
  with_reducible repeat' first
    | refine Leads.next ?_ | assumption | exact Evolves.refl _ | refine State.setQueue_evolves ?_ ..
    | refine State.writeBuf_evolves ?_ .. | refine State.finish_evolves ?_ ..
    | refine Evolves.trans ?_ (State.anyOp_evolves _ _ fun op => ?_)
    | ((conv => arg 2; arg 25); refine Evolves.upd ?_ (fun h => h) rfl rfl rfl rfl) | dsimp only | split
    | refine Evolves.ofFst (by assumption) ?_ | refine Evolves.ofSnd (by assumption) ?_

theorem State.startDue_evolves {s0 s : State} (h : Evolves s0 s) (w : WorkRef) (o : Op) (mark : Nat) :
    Evolves s0 (State.startDue s w o mark) := by
  unfold State.startDue
  with_reducible repeat' first
    | assumption | exact Evolves.refl _ | refine State.setOp_evolves ?_ .. | refine State.completeOps_evolves ?_ ..
    | ((conv => arg 2; arg 25); refine Evolves.upd ?_ (fun h => h) rfl rfl rfl rfl) | dsimp only | split

theorem execTimedDescDue_leads (w : WorkRef) (s : State) : Leads s (execTimedDescDue w s) := by
  unfold execTimedDescDue
  with_reducible repeat' first
    | refine Leads.next ?_ | assumption | exact Evolves.refl _ | refine State.finish_evolves ?_ ..
    | refine State.startDue_evolves ?_ .. | ((conv => arg 2; arg 25); refine Evolves.upd ?_ (fun h => h) rfl rfl rfl rfl)
    | dsimp only | split | refine Evolves.ofFst (by assumption) ?_ | refine Evolves.ofSnd (by assumption) ?_

theorem execShadowPairComplete_leads (ring submitId : Nat) (s : State) : Leads s (execShadowPairComplete ring submitId s) := by
  unfold execShadowPairComplete
  with_reducible repeat' first
    | refine Leads.next ?_ | assumption | exact Evolves.refl _ | refine State.writeCompletion_evolves ?_ ..
    | ((conv => arg 2; arg 25); refine Evolves.upd ?_ (fun h => h) rfl rfl rfl rfl) | dsimp only | split
    | refine Evolves.ofFst (by assumption) ?_ | refine Evolves.ofSnd (by assumption) ?_

theorem State.refillWork_evolves {s0 s : State} (h : Evolves s0 s) (n : Nat) : Evolves s0 (State.refillWork s n) := by
  unfold State.refillWork
  with_reducible repeat' first
    | assumption | exact Evolves.refl _ | ((conv => arg 2; arg 25); refine Evolves.upd ?_ (fun h => h) rfl rfl rfl rfl)
    | refine Evolves.foldl _ _ (fun u x hu => ?_) ?_ | dsimp only | split

theorem execQueuePtrReset_leads (n pointer : Nat) (ownCopyOk partnerCopyOk : Bool) (s : State) : Leads s (execQueuePtrReset n pointer ownCopyOk partnerCopyOk s) := by
  unfold execQueuePtrReset
  with_reducible repeat' first
    | refine Leads.next ?_ | assumption | exact Evolves.refl _ | refine State.raise_evolves ?_ ..
    | refine State.record_evolves ?_ .. | refine State.guaranteeBroken_evolves ?_ .. | refine State.setQueue_evolves ?_ ..
    | refine State.cancelRing_evolves ?_ .. | refine State.refillWork_evolves ?_ ..
    | ((conv => arg 2; arg 25); refine Evolves.upd ?_ (fun h => h) rfl rfl rfl rfl) | dsimp only | split

theorem execQueueStale_leads (n : Nat) (s : State) : Leads s (execQueueStale n s) := by
  unfold execQueueStale
  with_reducible repeat' first
    | refine Leads.next ?_ | assumption | exact Evolves.refl _ | refine State.setQueue_evolves ?_ ..
    | refine State.queueEvent_evolves ?_ .. | ((conv => arg 2; arg 25); refine Evolves.upd ?_ (fun h => h) rfl rfl rfl rfl)
    | dsimp only | split

theorem State.pushPacket_evolves {s0 s : State} (h : Evolves s0 s) (n type : Nat) (trunc : Bool) (b : List Byte) :
    Evolves s0 (State.pushPacket s n type trunc b) := by
  unfold State.pushPacket
  with_reducible repeat' first
    | assumption | exact Evolves.refl _ | refine State.answer_evolves ?_ .. | refine State.setQueue_evolves ?_ ..
    | refine State.contentMade_evolves ?_ .. | ((conv => arg 2; arg 25); refine Evolves.upd ?_ (fun h => h) rfl rfl rfl rfl)
    | dsimp only | split | refine Evolves.ofFst (by assumption) ?_ | refine Evolves.ofSnd (by assumption) ?_

theorem execWordPacketDone_leads (n type : Nat) (trunc : Bool) (bytes : List Byte) (s : State) : Leads s (execWordPacketDone n type trunc bytes s) := by
  unfold execWordPacketDone
  with_reducible repeat' first
    | refine Leads.next ?_ | assumption | exact Evolves.refl _ | refine State.pushPacket_evolves ?_ .. | dsimp only

theorem State.portRead_evolves {s0 s : State} (h : Evolves s0 s) (q : Requester) (n : Nat) :
    Evolves s0 (State.portRead s q n) := by
  unfold State.portRead
  with_reducible repeat' first
    | assumption | exact Evolves.refl _ | refine State.raise_evolves ?_ .. | refine State.answer_evolves ?_ ..
    | refine State.setQueue_evolves ?_ .. | ((conv => arg 2; arg 25); refine Evolves.upd ?_ (fun h => h) rfl rfl rfl rfl)
    | dsimp only | split | refine Evolves.ofFst (by assumption) ?_ | refine Evolves.ofSnd (by assumption) ?_

theorem State.popRead_evolves {s0 s : State} (h : Evolves s0 s) (q : Requester) (n : Nat) : Evolves s0 (State.popRead s q n) := by
  unfold State.popRead
  with_reducible repeat' first
    | assumption | exact Evolves.refl _ | refine State.answerErr_evolves ?_ .. | refine State.setQueue_evolves ?_ ..
    | refine State.portRead_evolves ?_ .. | ((conv => arg 2; arg 25); refine Evolves.upd ?_ (fun h => h) rfl rfl rfl rfl)
    | dsimp only | split

theorem execPortRead_leads (q : Requester) (n : Nat) (s : State) : Leads s (execPortRead q n s) := by
  unfold execPortRead
  with_reducible repeat' first
    | refine Leads.next ?_ | assumption | exact Evolves.refl _ | refine State.popRead_evolves ?_ .. | dsimp only

theorem execLegacyPopRead_leads (q : Requester) (n : Nat) (s : State) : Leads s (execLegacyPopRead q n s) := by
  unfold execLegacyPopRead
  with_reducible repeat' first
    | refine Leads.next ?_ | assumption | exact Evolves.refl _ | refine State.popRead_evolves ?_ .. | dsimp only

theorem execLegacyPopTimeout_leads (n : Nat) (s : State) : Leads s (execLegacyPopTimeout n s) := by
  unfold execLegacyPopTimeout
  with_reducible repeat' first
    | refine Leads.next ?_ | assumption | exact Evolves.refl _ | refine State.raise_evolves ?_ ..
    | refine State.answerErr_evolves ?_ .. | refine State.setQueue_evolves ?_ ..
    | ((conv => arg 2; arg 25); refine Evolves.upd ?_ (fun h => h) rfl rfl rfl rfl) | dsimp only | split
    | refine Evolves.ofFst (by assumption) ?_ | refine Evolves.ofSnd (by assumption) ?_

end Sys2Proof.Machine
end

