-- ==== Sys2Proof/Laws/Evolve/Events.lean ====
section
/-! SUPPORT. The operations of Machine/Events.lean keep what the relation `Evolves` says. -/

namespace Sys2Proof.Machine

theorem State.clearPba_evolves {s0 s : State} (h : Evolves s0 s) (m : Nat) : Evolves s0 (State.clearPba s m) := by
  unfold State.clearPba
  with_reducible repeat' first
    | assumption | exact Evolves.refl _ | ((conv => arg 2; arg 25); refine Evolves.upd ?_ (fun h => h) rfl rfl rfl rfl)
    | dsimp only

theorem State.unmaskVec_evolves {s0 s : State} (h : Evolves s0 s) (m : Nat) : Evolves s0 (State.unmaskVec s m) := by
  unfold State.unmaskVec
  with_reducible repeat' first
    | assumption | exact Evolves.refl _ | refine State.emit_evolves ?_ .. | refine State.clearPba_evolves ?_ .. | dsimp only
    | split

theorem State.unmaskVecs_evolves {s0 s : State} (h : Evolves s0 s) (was : Nat → Bool) (a0 : Nat) :
    Evolves s0 (State.unmaskVecs s was a0) := by
  induction a0 generalizing s0 s was with
  | zero =>
    rw [State.unmaskVecs]
    with_reducible repeat' first
      | assumption | exact Evolves.refl _ | refine State.unmaskVec_evolves ?_ .. | dsimp only | split
  | succ y ih =>
    rw [State.unmaskVecs]
    with_reducible repeat' first
      | assumption | exact Evolves.refl _ | refine ih ?_ .. | refine State.unmaskVec_evolves ?_ .. | dsimp only | split

theorem execEvtRouteWrite_leads (q : Requester) (src : Nat) (v : Word) (s : State) : Leads s (execEvtRouteWrite q src v s) := by
  unfold execEvtRouteWrite
  with_reducible repeat' first
    | refine Leads.next ?_ | assumption | exact Evolves.refl _ | refine State.setReg_evolves ?_ ..
    | refine State.deliver_evolves ?_ .. | refine State.refuseWrite_evolves ?_ .. | dsimp only | split

theorem execEvtPendClear_leads (zq0 : Requester) (k : Nat) (v : Word) (s : State) : Leads s (execEvtPendClear zq0 k v s) := by
  unfold execEvtPendClear
  with_reducible repeat' first
    | refine Leads.next ?_ | assumption | exact Evolves.refl _
    | ((conv => arg 2; arg 25); refine Evolves.upd ?_ (fun h => h) rfl rfl rfl rfl) | dsimp only

theorem State.raiseSoft_evolves {s0 s : State} (h : Evolves s0 s) (v : Nat) (a0 : Nat) : Evolves s0 (State.raiseSoft s v a0) := by
  induction a0 generalizing s0 s v with
  | zero =>
    rw [State.raiseSoft]
    with_reducible repeat' first
      | assumption | exact Evolves.refl _ | refine State.raise_evolves ?_ .. | dsimp only | split
  | succ y ih =>
    rw [State.raiseSoft]
    with_reducible repeat' first
      | assumption | exact Evolves.refl _ | refine ih ?_ .. | refine State.raise_evolves ?_ .. | dsimp only | split

theorem execEvtSoft_leads (zq0 : Requester) (v : Word) (s : State) : Leads s (execEvtSoft zq0 v s) := by
  unfold execEvtSoft
  with_reducible repeat' first
    | refine Leads.next ?_ | assumption | exact Evolves.refl _ | refine State.raiseSoft_evolves ?_ .. | dsimp only

theorem execEvtHostEoi_leads (zq0 : Requester) (v : Word) (s : State) : Leads s (execEvtHostEoi zq0 v s) := by
  unfold execEvtHostEoi
  with_reducible repeat' first
    | refine Leads.next ?_ | assumption | exact Evolves.refl _ | refine State.emit_evolves ?_ .. | dsimp only | split

theorem execEvtHostMaskWrite_leads (zq0 : Requester) (v : Word) (s : State) : Leads s (execEvtHostMaskWrite zq0 v s) := by
  unfold execEvtHostMaskWrite
  with_reducible repeat' first
    | refine Leads.next ?_ | assumption | exact Evolves.refl _ | refine State.setReg_evolves ?_ ..
    | refine State.unmaskVecs_evolves ?_ .. | dsimp only

theorem execMsixMaskWrite_leads (vec : Nat) (mask : Bool) (s : State) : Leads s (execMsixMaskWrite vec mask s) := by
  unfold execMsixMaskWrite
  with_reducible repeat' first
    | refine Leads.next ?_ | assumption | exact Evolves.refl _ | refine State.unmaskVecs_evolves ?_ ..
    | ((conv => arg 2; arg 25); refine Evolves.upd ?_ (fun h => h) rfl rfl rfl rfl) | dsimp only | split

theorem execMsixMessage_leads (src : Nat) (s : State) : Leads s (execMsixMessage src s) := by
  unfold execMsixMessage
  with_reducible repeat' first
    | refine Leads.next ?_ | assumption | exact Evolves.refl _ | refine State.raise_evolves ?_ .. | dsimp only | split

theorem State.linkMessages_evolves {s0 s : State} (h : Evolves s0 s) (a0 : Nat) : Evolves s0 (State.linkMessages s a0) := by
  induction a0 generalizing s0 s with
  | zero =>
    rw [State.linkMessages]
    with_reducible repeat' first
      | assumption | exact Evolves.refl _ | refine State.emit_evolves ?_ ..
      | ((conv => arg 2; arg 25); refine Evolves.upd ?_ (fun h => h) rfl rfl rfl rfl) | dsimp only | split
  | succ y ih =>
    rw [State.linkMessages]
    with_reducible repeat' first
      | assumption | exact Evolves.refl _ | refine ih ?_ .. | refine State.emit_evolves ?_ ..
      | ((conv => arg 2; arg 25); refine Evolves.upd ?_ (fun h => h) rfl rfl rfl rfl) | dsimp only | split

theorem execHostLinkUp_leads (s : State) : Leads s (execHostLinkUp s) := by
  unfold execHostLinkUp
  with_reducible repeat' first
    | refine Leads.next ?_ | assumption | exact Evolves.refl _ | refine State.raise_evolves ?_ ..
    | refine State.linkMessages_evolves ?_ .. | ((conv => arg 2; arg 25); refine Evolves.upd ?_ (fun h => h) rfl rfl rfl rfl)
    | dsimp only | split

theorem execHostLinkDown_leads (s : State) : Leads s (execHostLinkDown s) := by
  unfold execHostLinkDown
  with_reducible repeat' first
    | refine Leads.next ?_ | assumption | exact Evolves.refl _ | refine State.raise_evolves ?_ ..
    | ((conv => arg 2; arg 25); refine Evolves.upd ?_ (fun h => h) rfl rfl rfl rfl) | dsimp only | split

theorem execHostPortReset_leads (s : State) : Leads s (execHostPortReset s) := by
  unfold execHostPortReset
  with_reducible repeat' first
    | refine Leads.next ?_ | assumption | exact Evolves.refl _
    | ((conv => arg 2; arg 25); refine Evolves.upd ?_ (fun h => h) rfl rfl rfl rfl) | dsimp only

end Sys2Proof.Machine
end

