-- ==== Sys2Proof/Laws/Evolve/RegWrite.lean ====
section
/-! SUPPORT. The operations of Machine/RegWrite.lean keep what the relation `Evolves` says. -/

namespace Sys2Proof.Machine

theorem State.touchLock_evolves {s0 s : State} (h : Evolves s0 s) (b : Nat) : Evolves s0 (State.touchLock s b) := by
  unfold State.touchLock
  with_reducible repeat' first
    | assumption | exact Evolves.refl _ | ((conv => arg 2; arg 25); refine Evolves.upd ?_ (fun h => h) rfl rfl rfl rfl)
    | dsimp only | split

theorem State.writeBarred_evolves {s t : State} {q : Requester} {addr : Nat} (h : State.writeBarred s q addr = some t) : Evolves s t := by
  unfold State.writeBarred at h
  split at h
  · split at h
    · cases h; exact State.denyDebug_evolves (Evolves.refl _) ..
    · split at h
      · cases h; exact State.denyDebug_evolves (Evolves.refl _) ..
      · split at h
        · cases h; exact State.denyDebug_evolves (Evolves.refl _) ..
        · cases h
  · split at h
    · cases h; exact State.refuseWrite_evolves (Evolves.refl _) ..
    · cases h
  · cases h
  · cases h

theorem State.writeHeld_evolves {s0 s : State} (h : Evolves s0 s) (q : Requester) (r : RegName) (i j : Nat) (v : Word) :
    Evolves s0 (State.writeHeld s q r i j v).1 := by
  unfold State.writeHeld
  with_reducible repeat' first
    | assumption | exact Evolves.refl _ | refine State.setReg_evolves ?_ .. | refine State.refuseWrite_evolves ?_ ..
    | refine State.touchLock_evolves ?_ .. | dsimp only | split | refine Evolves.ofFst (by assumption) ?_
    | refine Evolves.ofSnd (by assumption) ?_

theorem State.takeLows_evolves {s0 s : State} (h : Evolves s0 s) (q : Requester) (i j : Nat) (a0 : List RegName) :
    Evolves s0 (State.takeLows s q i j a0) := by
  induction a0 generalizing s0 s q i j with
  | nil =>
    rw [State.takeLows]
    with_reducible repeat' first
      | assumption | exact Evolves.refl _ | refine State.writeHeld_evolves ?_ ..
      | ((conv => arg 2; arg 25); refine Evolves.upd ?_ (fun h => h) rfl rfl rfl rfl) | dsimp only | split
      | refine Evolves.ofFst (by assumption) ?_ | refine Evolves.ofSnd (by assumption) ?_
  | cons y ys ih =>
    rw [State.takeLows]
    with_reducible repeat' first
      | assumption | exact Evolves.refl _ | refine ih ?_ .. | refine State.writeHeld_evolves ?_ ..
      | ((conv => arg 2; arg 25); refine Evolves.upd ?_ (fun h => h) rfl rfl rfl rfl) | dsimp only | split
      | refine Evolves.ofFst (by assumption) ?_ | refine Evolves.ofSnd (by assumption) ?_

theorem State.writeWide_evolves {s0 s : State} (h : Evolves s0 s) (q : Requester) (r : RegName) (i j : Nat) (v : Word) :
    Evolves s0 (State.writeWide s q r i j v).1 := by
  unfold State.writeWide
  with_reducible repeat' first
    | assumption | exact Evolves.refl _ | refine State.writeHeld_evolves ?_ .. | refine State.takeLows_evolves ?_ ..
    | ((conv => arg 2; arg 25); refine Evolves.upd ?_ (fun h => h) rfl rfl rfl rfl) | dsimp only | split
    | refine Evolves.ofFst (by assumption) ?_ | refine Evolves.ofSnd (by assumption) ?_

end Sys2Proof.Machine
end

