-- ==== Sys2Proof/Laws/Evolve/Clock.lean ====
section
/-! SUPPORT. The operations of Machine/Clock.lean keep what the relation `Evolves` says. -/

namespace Sys2Proof.Machine

theorem State.elapse_evolves {s0 s : State} (h : Evolves s0 s) (ns : Nat) : Evolves s0 (State.elapse s ns) := by
  unfold State.elapse
  with_reducible repeat' first
    | assumption | exact Evolves.refl _ | ((conv => arg 2; arg 25); refine Evolves.upd ?_ (fun h => h) rfl rfl rfl rfl)
    | dsimp only

theorem State.setRate_evolves {s0 s : State} (h : Evolves s0 s) (f : Nat) : Evolves s0 (State.setRate s f) := by
  unfold State.setRate
  with_reducible repeat' first
    | assumption | exact Evolves.refl _ | ((conv => arg 2; arg 25); refine Evolves.upd ?_ (fun h => h) rfl rfl rfl rfl)
    | dsimp only | split

theorem State.angElapse_evolves {s0 s : State} (h : Evolves s0 s) (ns : Nat) : Evolves s0 (State.angElapse s ns) := by
  unfold State.angElapse
  with_reducible repeat' first
    | assumption | exact Evolves.refl _ | ((conv => arg 2; arg 25); refine Evolves.upd ?_ (fun h => h) rfl rfl rfl rfl)
    | dsimp only | split

theorem State.idleTick_evolves {s0 s : State} (h : Evolves s0 s) : Evolves s0 (State.idleTick s) := by
  unfold State.idleTick
  with_reducible repeat' first
    | assumption | exact Evolves.refl _ | refine State.elapse_evolves ?_ .. | refine State.angElapse_evolves ?_ .. | dsimp only

theorem State.mapRecord_evolves {s0 s : State} (h : Evolves s0 s) : Evolves s0 (State.mapRecord s) := by
  unfold State.mapRecord
  with_reducible repeat' first
    | assumption | exact Evolves.refl _ | refine State.record_evolves ?_ .. | dsimp only

theorem State.setAng_evolves {s0 s : State} (h : Evolves s0 s) (a : AngState) : Evolves s0 (State.setAng s a) := by
  unfold State.setAng
  with_reducible repeat' first
    | assumption | exact Evolves.refl _ | refine State.raise_evolves ?_ .. | refine State.mapRecord_evolves ?_ ..
    | ((conv => arg 2; arg 25); refine Evolves.upd ?_ (fun h => h) rfl rfl rfl rfl) | dsimp only | split

theorem State.setPt_evolves {s0 s : State} (h : Evolves s0 s) (p : PtState) : Evolves s0 (State.setPt s p) := by
  unfold State.setPt
  with_reducible repeat' first
    | assumption | exact Evolves.refl _ | refine State.raise_evolves ?_ .. | refine State.mapRecord_evolves ?_ ..
    | ((conv => arg 2; arg 25); refine Evolves.upd ?_ (fun h => h) rfl rfl rfl rfl) | dsimp only | split

theorem State.fireAlarm_evolves {s0 s : State} (h : Evolves s0 s) (n k : Nat) (late skipped : Bool) (skips : Nat) :
    Evolves s0 (State.fireAlarm s n k late skipped skips) := by
  unfold State.fireAlarm
  with_reducible repeat' first
    | assumption | exact Evolves.refl _ | refine State.raise_evolves ?_ ..
    | ((conv => arg 2; arg 25); refine Evolves.upd ?_ (fun h => h) rfl rfl rfl rfl) | dsimp only | split

theorem State.setSlot_evolves {s0 s : State} (h : Evolves s0 s) (n : Nat) (f : Slot → Slot) :
    Evolves s0 (State.setSlot s n f) := by
  unfold State.setSlot
  with_reducible repeat' first
    | assumption | exact Evolves.refl _ | ((conv => arg 2; arg 25); refine Evolves.upd ?_ (fun h => h) rfl rfl rfl rfl)
    | dsimp only

theorem State.applySetpoint_evolves {s0 s : State} (h : Evolves s0 s) (now : Nat) : Evolves s0 (State.applySetpoint s now) := by
  unfold State.applySetpoint
  with_reducible repeat' first
    | assumption | exact Evolves.refl _ | refine State.setSlot_evolves ?_ ..
    | ((conv => arg 2; arg 25); refine Evolves.upd ?_ (fun h => h) rfl rfl rfl rfl) | dsimp only | split
    | refine Evolves.ofFst (by assumption) ?_ | refine Evolves.ofSnd (by assumption) ?_

theorem State.finishFrame_evolves {s0 s : State} (h : Evolves s0 s) (f : TimedFrame) (late : Bool) (mark status : Nat) :
    Evolves s0 (State.finishFrame s f late mark status) := by
  unfold State.finishFrame
  with_reducible repeat' first
    | assumption | exact Evolves.refl _ | refine State.finish_evolves ?_ ..
    | ((conv => arg 2; arg 25); refine Evolves.upd ?_ (fun h => h) rfl rfl rfl rfl) | dsimp only | split
    | refine Evolves.ofFst (by assumption) ?_ | refine Evolves.ofSnd (by assumption) ?_

theorem State.pullFrame_evolves {s0 s : State} (h : Evolves s0 s) (f : TimedFrame) : Evolves s0 (State.pullFrame s f) := by
  unfold State.pullFrame
  with_reducible repeat' first
    | assumption | exact Evolves.refl _ | ((conv => arg 2; arg 25); refine Evolves.upd ?_ (fun h => h) rfl rfl rfl rfl)
    | dsimp only | split

theorem State.launchFrame_evolves {s0 s : State} (h : Evolves s0 s) (f : TimedFrame) (late : Bool) (mark : Nat) :
    Evolves s0 (State.launchFrame s f late mark) := by
  unfold State.launchFrame
  with_reducible repeat' first
    | assumption | exact Evolves.refl _ | refine State.emit_evolves ?_ .. | refine State.finishFrame_evolves ?_ ..
    | refine State.pullFrame_evolves ?_ .. | dsimp only | split

theorem State.lateFrame_evolves {s0 s : State} (h : Evolves s0 s) (f : TimedFrame) : Evolves s0 (State.lateFrame s f) := by
  unfold State.lateFrame
  with_reducible repeat' first
    | assumption | exact Evolves.refl _ | refine State.finishFrame_evolves ?_ .. | refine State.pullFrame_evolves ?_ ..
    | refine State.launchFrame_evolves ?_ .. | dsimp only | split

theorem State.settleQueue_evolves {s0 s : State} (h : Evolves s0 s) (n cls : Nat) (a0 : Nat) :
    Evolves s0 (State.settleQueue s n cls a0) := by
  induction a0 generalizing s0 s n cls with
  | zero =>
    rw [State.settleQueue]
    with_reducible repeat' first
      | assumption | exact Evolves.refl _ | refine State.pullFrame_evolves ?_ .. | refine State.launchFrame_evolves ?_ ..
      | refine State.lateFrame_evolves ?_ .. | ((conv => arg 2; arg 25); refine Evolves.upd ?_ (fun h => h) rfl rfl rfl rfl)
      | dsimp only | split | refine Evolves.ofFst (by assumption) ?_ | refine Evolves.ofSnd (by assumption) ?_
  | succ y ih =>
    rw [State.settleQueue]
    with_reducible repeat' first
      | assumption | exact Evolves.refl _ | refine ih ?_ .. | refine State.pullFrame_evolves ?_ ..
      | refine State.launchFrame_evolves ?_ .. | refine State.lateFrame_evolves ?_ ..
      | ((conv => arg 2; arg 25); refine Evolves.upd ?_ (fun h => h) rfl rfl rfl rfl) | dsimp only | split
      | refine Evolves.ofFst (by assumption) ?_ | refine Evolves.ofSnd (by assumption) ?_

theorem State.settleFrames_evolves {s0 s : State} (h : Evolves s0 s) (n cls : Nat) : Evolves s0 (State.settleFrames s n cls) := by
  unfold State.settleFrames
  with_reducible repeat' first
    | assumption | exact Evolves.refl _ | refine State.settleQueue_evolves ?_ .. | dsimp only

theorem State.settleHeads_evolves {s0 s : State} (h : Evolves s0 s) : Evolves s0 (State.settleHeads s) := by
  unfold State.settleHeads
  with_reducible repeat' first
    | assumption | exact Evolves.refl _ | refine State.settleFrames_evolves ?_ ..
    | refine Evolves.foldl _ _ (fun u x hu => ?_) ?_ | dsimp only | split

theorem State.firePassed_evolves {s0 s : State} (h : Evolves s0 s) (ptBase : Bool) (new : Nat) (d : Due) :
    Evolves s0 (State.firePassed s ptBase new d) := by
  unfold State.firePassed
  with_reducible repeat' first
    | assumption | exact Evolves.refl _ | refine State.startDue_evolves ?_ .. | refine State.fireAlarm_evolves ?_ ..
    | refine State.applySetpoint_evolves ?_ .. | refine State.launchFrame_evolves ?_ ..
    | ((conv => arg 2; arg 25); refine Evolves.upd ?_ (fun h => h) rfl rfl rfl rfl) | dsimp only | split
    | refine Evolves.ofFst (by assumption) ?_ | refine Evolves.ofSnd (by assumption) ?_

theorem State.fireAll_evolves {s0 s : State} (h : Evolves s0 s) (ptBase : Bool) (new : Nat) (l : List (Nat × Due)) :
    Evolves s0 (State.fireAll s ptBase new l) := by
  unfold State.fireAll
  with_reducible repeat' first
    | assumption | exact Evolves.refl _ | refine State.settleHeads_evolves ?_ .. | refine State.firePassed_evolves ?_ ..
    | refine Evolves.foldl _ _ (fun u x hu => ?_) ?_ | dsimp only | split

theorem State.angJump_evolves {s0 s : State} (h : Evolves s0 s) (d : Nat) : Evolves s0 (State.angJump s d) := by
  unfold State.angJump
  with_reducible repeat' first
    | assumption | exact Evolves.refl _ | refine State.fireAll_evolves ?_ ..
    | ((conv => arg 2; arg 25); refine Evolves.upd ?_ (fun h => h) rfl rfl rfl rfl) | dsimp only

theorem State.stepPt_evolves {s0 s : State} (h : Evolves s0 s) (d : Int) : Evolves s0 (State.stepPt s d) := by
  unfold State.stepPt
  with_reducible repeat' first
    | assumption | exact Evolves.refl _ | refine State.record_evolves ?_ .. | refine State.fireAll_evolves ?_ ..
    | ((conv => arg 2; arg 25); refine Evolves.upd ?_ (fun h => h) rfl rfl rfl rfl) | dsimp only | split

theorem State.toSynth_evolves {s0 s : State} (h : Evolves s0 s) : Evolves s0 (State.toSynth s) := by
  unfold State.toSynth
  with_reducible repeat' first
    | assumption | exact Evolves.refl _ | refine State.raise_evolves ?_ .. | refine State.record_evolves ?_ ..
    | refine State.setRate_evolves ?_ .. | refine State.mapRecord_evolves ?_ ..
    | ((conv => arg 2; arg 25); refine Evolves.upd ?_ (fun h => h) rfl rfl rfl rfl) | dsimp only

theorem State.loseSource_evolves {s0 s : State} (h : Evolves s0 s) : Evolves s0 (State.loseSource s) := by
  unfold State.loseSource
  with_reducible repeat' first
    | assumption | exact Evolves.refl _ | refine State.toSynth_evolves ?_ .. | dsimp only | split

theorem State.meetPhase_evolves {s0 s : State} (h : Evolves s0 s) (d : Int) : Evolves s0 (State.meetPhase s d) := by
  unfold State.meetPhase
  with_reducible repeat' first
    | assumption | exact Evolves.refl _ | refine State.setAng_evolves ?_ .. | refine State.angJump_evolves ?_ ..
    | ((conv => arg 2; arg 25); refine Evolves.upd ?_ (fun h => h) rfl rfl rfl rfl) | dsimp only | split

theorem State.takeSource_evolves {s0 s : State} (h : Evolves s0 s) (src freq : Nat) (d : Int) :
    Evolves s0 (State.takeSource s src freq d) := by
  unfold State.takeSource
  with_reducible repeat' first
    | assumption | exact Evolves.refl _ | refine State.setRate_evolves ?_ .. | refine State.setAng_evolves ?_ ..
    | refine State.toSynth_evolves ?_ .. | refine State.meetPhase_evolves ?_ ..
    | ((conv => arg 2; arg 25); refine Evolves.upd ?_ (fun h => h) rfl rfl rfl rfl) | dsimp only | split

theorem execAngSrcLost_leads (s : State) : Leads s (execAngSrcLost s) := by
  unfold execAngSrcLost
  with_reducible repeat' first
    | refine Leads.next ?_ | assumption | exact Evolves.refl _ | refine State.loseSource_evolves ?_ .. | dsimp only

theorem execAngFallback_leads (freq : Nat) (d : Int) (s : State) : Leads s (execAngFallback freq d s) := by
  unfold execAngFallback
  with_reducible repeat' first
    | refine Leads.next ?_ | assumption | exact Evolves.refl _ | refine State.takeSource_evolves ?_ .. | dsimp only | split

theorem execAngSrcReturn_leads (freq : Nat) (d : Int) (s : State) : Leads s (execAngSrcReturn freq d s) := by
  unfold execAngSrcReturn
  with_reducible repeat' first
    | refine Leads.next ?_ | assumption | exact Evolves.refl _ | refine State.takeSource_evolves ?_ .. | dsimp only | split

theorem execAngLocked_leads (s : State) : Leads s (execAngLocked s) := by
  unfold execAngLocked
  with_reducible repeat' first
    | refine Leads.next ?_ | assumption | exact Evolves.refl _ | refine State.setAng_evolves ?_ .. | dsimp only | split

theorem execSlewDone_leads (s : State) : Leads s (execSlewDone s) := by
  unfold execSlewDone
  with_reducible repeat' first
    | refine Leads.next ?_ | assumption | exact Evolves.refl _ | refine State.setAng_evolves ?_ .. | dsimp only | split

theorem State.followFnom_evolves {s0 s : State} (h : Evolves s0 s) : Evolves s0 (State.followFnom s) := by
  unfold State.followFnom
  with_reducible repeat' first
    | assumption | exact Evolves.refl _ | refine State.setRate_evolves ?_ .. | dsimp only | split

theorem State.strobeAdjust_evolves {s0 s : State} (h : Evolves s0 s) : Evolves s0 (State.strobeAdjust s) := by
  unfold State.strobeAdjust
  with_reducible repeat' first
    | assumption | exact Evolves.refl _ | refine State.setReg_evolves ?_ .. | refine State.record_evolves ?_ .. | dsimp only
    | split

theorem State.writeAngCtrl_evolves {s0 s : State} (h : Evolves s0 s) (q : Requester) (v : Word) (freq : Nat) (d : Int) :
    Evolves s0 (State.writeAngCtrl s q v freq d) := by
  unfold State.writeAngCtrl
  with_reducible repeat' first
    | assumption | exact Evolves.refl _ | refine State.writeHeld_evolves ?_ .. | refine State.takeSource_evolves ?_ ..
    | refine State.followFnom_evolves ?_ .. | refine State.strobeAdjust_evolves ?_ .. | dsimp only | split
    | refine Evolves.ofFst (by assumption) ?_ | refine Evolves.ofSnd (by assumption) ?_

theorem execAngSrcSwitch_leads (q : Requester) (v : Word) (freq : Nat) (d : Int) (s : State) : Leads s (execAngSrcSwitch q v freq d s) := by
  unfold execAngSrcSwitch
  with_reducible repeat' first
    | refine Leads.next ?_ | assumption | exact Evolves.refl _ | refine State.writeAngCtrl_evolves ?_ ..
    | ((conv => arg 2; arg 25); refine Evolves.upd ?_ (fun h => h) rfl rfl rfl rfl) | dsimp only | split
    | refine Evolves.trans ?_ (State.writeBarred_evolves (by assumption)) | refine Evolves.ofFst (by assumption) ?_
    | refine Evolves.ofSnd (by assumption) ?_

theorem State.toBoundary_evolves {s0 s : State} (h : Evolves s0 s) : Evolves s0 (State.toBoundary s) := by
  unfold State.toBoundary
  with_reducible repeat' first
    | assumption | exact Evolves.refl _ | refine State.elapse_evolves ?_ ..
    | ((conv => arg 2; arg 25); refine Evolves.upd ?_ (fun h => h) rfl rfl rfl rfl) | dsimp only | split

theorem State.trackCycle_evolves {s0 s : State} (h : Evolves s0 s) (m : Option (Nat × Int)) :
    Evolves s0 (State.trackCycle s m) := by
  unfold State.trackCycle
  with_reducible repeat' first
    | assumption | exact Evolves.refl _ | refine State.setRate_evolves ?_ .. | refine State.loseSource_evolves ?_ ..
    | refine State.meetPhase_evolves ?_ .. | ((conv => arg 2; arg 25); refine Evolves.upd ?_ (fun h => h) rfl rfl rfl rfl)
    | dsimp only | split | refine Evolves.ofFst (by assumption) ?_ | refine Evolves.ofSnd (by assumption) ?_

theorem State.newMapping_evolves {s0 s : State} (h : Evolves s0 s) : Evolves s0 (State.newMapping s) := by
  unfold State.newMapping
  with_reducible repeat' first
    | assumption | exact Evolves.refl _ | ((conv => arg 2; arg 25); refine Evolves.upd ?_ (fun h => h) rfl rfl rfl rfl)
    | dsimp only | split

theorem execCycleBoundary_leads (src : Option (Nat × Int)) (s : State) : Leads s (execCycleBoundary src s) := by
  unfold execCycleBoundary
  with_reducible repeat' first
    | refine Leads.next ?_ | assumption | exact Evolves.refl _ | refine State.toBoundary_evolves ?_ ..
    | refine State.trackCycle_evolves ?_ .. | refine State.newMapping_evolves ?_ .. | dsimp only | split

theorem execMapRecord_leads (s : State) : Leads s (execMapRecord s) := by
  unfold execMapRecord
  with_reducible repeat' first
    | refine Leads.next ?_ | assumption | exact Evolves.refl _ | refine State.mapRecord_evolves ?_ .. | dsimp only

theorem State.setCount_evolves {s0 s : State} (h : Evolves s0 s) (c : Nat) : Evolves s0 (State.setCount s c) := by
  unfold State.setCount
  with_reducible repeat' first
    | assumption | exact Evolves.refl _ | ((conv => arg 2; arg 25); refine Evolves.upd ?_ (fun h => h) rfl rfl rfl rfl)
    | dsimp only

theorem State.seedCount_evolves {s0 s : State} (h : Evolves s0 s) (c : Nat) : Evolves s0 (State.seedCount s c) := by
  unfold State.seedCount
  with_reducible repeat' first
    | assumption | exact Evolves.refl _ | refine State.record_evolves ?_ .. | refine State.setCount_evolves ?_ ..
    | ((conv => arg 2; arg 25); refine Evolves.upd ?_ (fun h => h) rfl rfl rfl rfl) | dsimp only | split
    | refine Evolves.ofFst (by assumption) ?_ | refine Evolves.ofSnd (by assumption) ?_

theorem State.compareCount_evolves {s0 s : State} (h : Evolves s0 s) (next : Nat) : Evolves s0 (State.compareCount s next) := by
  unfold State.compareCount
  with_reducible repeat' first
    | assumption | exact Evolves.refl _ | refine State.record_evolves ?_ .. | refine State.angJump_evolves ?_ ..
    | ((conv => arg 2; arg 25); refine Evolves.upd ?_ (fun h => h) rfl rfl rfl rfl) | dsimp only | split

theorem State.takeAnchor_evolves {s0 s : State} (h : Evolves s0 s) (a : Anchor) (age astatus : Nat) :
    Evolves s0 (State.takeAnchor s a age astatus) := by
  unfold State.takeAnchor
  with_reducible repeat' first
    | assumption | exact Evolves.refl _ | refine State.seedCount_evolves ?_ .. | refine State.compareCount_evolves ?_ ..
    | dsimp only | split

theorem execCycleSeed_leads (src : SeedFrom) (s : State) : Leads s (execCycleSeed src s) := by
  unfold execCycleSeed
  with_reducible repeat' first
    | refine Leads.next ?_ | assumption | exact Evolves.refl _ | refine State.setCount_evolves ?_ ..
    | refine State.seedCount_evolves ?_ .. | refine State.takeAnchor_evolves ?_ ..
    | ((conv => arg 2; arg 25); refine Evolves.upd ?_ (fun h => h) rfl rfl rfl rfl) | dsimp only | split
    | refine Evolves.ofFst (by assumption) ?_ | refine Evolves.ofSnd (by assumption) ?_

theorem State.ptpDrop_evolves {s0 s : State} (h : Evolves s0 s) : Evolves s0 (State.ptpDrop s) := by
  unfold State.ptpDrop
  with_reducible repeat' first
    | assumption | exact Evolves.refl _ | ((conv => arg 2; arg 25); refine Evolves.upd ?_ (fun h => h) rfl rfl rfl rfl)
    | dsimp only

theorem State.servo_evolves {s0 s : State} (h : Evolves s0 s) (offset : Int) : Evolves s0 (State.servo s offset) := by
  unfold State.servo
  with_reducible repeat' first
    | assumption | exact Evolves.refl _ | refine State.useFree_evolves ?_ ..
    | ((conv => arg 2; arg 25); refine Evolves.upd ?_ (fun h => h) rfl rfl rfl rfl) | dsimp only

theorem execPtpSyncRx_leads (f : PtpForm) (offset : Int) (s : State) : Leads s (execPtpSyncRx f offset s) := by
  unfold execPtpSyncRx
  with_reducible repeat' first
    | refine Leads.next ?_ | assumption | exact Evolves.refl _ | refine State.setPt_evolves ?_ ..
    | refine State.stepPt_evolves ?_ .. | refine State.ptpDrop_evolves ?_ .. | refine State.servo_evolves ?_ ..
    | ((conv => arg 2; arg 25); refine Evolves.upd ?_ (fun h => h) rfl rfl rfl rfl) | dsimp only | split

theorem State.loseMaster_evolves {s0 s : State} (h : Evolves s0 s) : Evolves s0 (State.loseMaster s) := by
  unfold State.loseMaster
  with_reducible repeat' first
    | assumption | exact Evolves.refl _ | refine State.raise_evolves ?_ .. | refine State.record_evolves ?_ ..
    | refine State.mapRecord_evolves ?_ .. | ((conv => arg 2; arg 25); refine Evolves.upd ?_ (fun h => h) rfl rfl rfl rfl)
    | dsimp only | split

theorem execPtpAnnounceRx_leads (f : PtpForm) (master : Nat) (utc : Option Nat) (s : State) : Leads s (execPtpAnnounceRx f master utc s) := by
  unfold execPtpAnnounceRx
  with_reducible repeat' first
    | refine Leads.next ?_ | assumption | exact Evolves.refl _ | refine State.setReg_evolves ?_ ..
    | refine State.setPt_evolves ?_ .. | refine State.ptpDrop_evolves ?_ .. | refine State.loseMaster_evolves ?_ ..
    | ((conv => arg 2; arg 25); refine Evolves.upd ?_ (fun h => h) rfl rfl rfl rfl) | dsimp only | split
    | refine Evolves.ofFst (by assumption) ?_ | refine Evolves.ofSnd (by assumption) ?_

theorem execPtMasterLost_leads (s : State) : Leads s (execPtMasterLost s) := by
  unfold execPtMasterLost
  with_reducible repeat' first
    | refine Leads.next ?_ | assumption | exact Evolves.refl _ | refine State.loseMaster_evolves ?_ ..
    | ((conv => arg 2; arg 25); refine Evolves.upd ?_ (fun h => h) rfl rfl rfl rfl) | dsimp only

theorem State.writeStepGo_evolves {s0 s : State} (h : Evolves s0 s) (q : Requester) (v : Word) :
    Evolves s0 (State.writeStepGo s q v) := by
  unfold State.writeStepGo
  with_reducible repeat' first
    | assumption | exact Evolves.refl _ | refine State.writeHeld_evolves ?_ .. | refine State.stepPt_evolves ?_ .. | dsimp only
    | split | refine Evolves.ofFst (by assumption) ?_ | refine Evolves.ofSnd (by assumption) ?_

theorem execPtSoftStep_leads (q : Requester) (v : Word) (s : State) : Leads s (execPtSoftStep q v s) := by
  unfold execPtSoftStep
  with_reducible repeat' first
    | refine Leads.next ?_ | assumption | exact Evolves.refl _ | refine State.writeStepGo_evolves ?_ ..
    | ((conv => arg 2; arg 25); refine Evolves.upd ?_ (fun h => h) rfl rfl rfl rfl) | dsimp only | split
    | refine Evolves.trans ?_ (State.writeBarred_evolves (by assumption)) | refine Evolves.ofFst (by assumption) ?_
    | refine Evolves.ofSnd (by assumption) ?_

theorem State.launchHead_evolves {s0 s : State} (h : Evolves s0 s) (f : TimedFrame) : Evolves s0 (State.launchHead s f) := by
  unfold State.launchHead
  with_reducible repeat' first
    | assumption | exact Evolves.refl _ | refine State.launchFrame_evolves ?_ .. | refine State.lateFrame_evolves ?_ ..
    | refine State.settleFrames_evolves ?_ .. | ((conv => arg 2; arg 25); refine Evolves.upd ?_ (fun h => h) rfl rfl rfl rfl)
    | dsimp only | split

theorem execFrameLaunch_leads (id : Nat) (s : State) : Leads s (execFrameLaunch id s) := by
  unfold execFrameLaunch
  with_reducible repeat' first
    | refine Leads.next ?_ | assumption | exact Evolves.refl _ | refine State.settleFrames_evolves ?_ ..
    | refine State.launchHead_evolves ?_ .. | ((conv => arg 2; arg 25); refine Evolves.upd ?_ (fun h => h) rfl rfl rfl rfl)
    | dsimp only | split | refine Evolves.ofFst (by assumption) ?_ | refine Evolves.ofSnd (by assumption) ?_

theorem State.armAlarm_evolves {s0 s : State} (h : Evolves s0 s) (q : Requester) (n : Nat) :
    Evolves s0 (State.armAlarm s q n) := by
  unfold State.armAlarm
  with_reducible repeat' first
    | assumption | exact Evolves.refl _ | refine State.refuseWrite_evolves ?_ .. | refine State.fireAlarm_evolves ?_ ..
    | ((conv => arg 2; arg 25); refine Evolves.upd ?_ (fun h => h) rfl rfl rfl rfl) | dsimp only | split
    | refine Evolves.ofFst (by assumption) ?_ | refine Evolves.ofSnd (by assumption) ?_

theorem State.writeAlm_evolves {s0 s : State} (h : Evolves s0 s) (q : Requester) (n : Nat) (v : Nat) :
    Evolves s0 (State.writeAlm s q n v) := by
  unfold State.writeAlm
  with_reducible repeat' first
    | assumption | exact Evolves.refl _ | refine State.refuseWrite_evolves ?_ .. | refine State.armAlarm_evolves ?_ ..
    | ((conv => arg 2; arg 25); refine Evolves.upd ?_ (fun h => h) rfl rfl rfl rfl) | dsimp only | split

theorem execAlarmArm_leads (q : Requester) (n : Nat) (v : Word) (s : State) : Leads s (execAlarmArm q n v s) := by
  unfold execAlarmArm
  with_reducible repeat' first
    | refine Leads.next ?_ | assumption | exact Evolves.refl _ | refine State.writeAlm_evolves ?_ ..
    | ((conv => arg 2; arg 25); refine Evolves.upd ?_ (fun h => h) rfl rfl rfl rfl) | dsimp only | split
    | refine Evolves.trans ?_ (State.writeBarred_evolves (by assumption)) | refine Evolves.ofFst (by assumption) ?_
    | refine Evolves.ofSnd (by assumption) ?_

theorem execAlarmDisarm_leads (q : Requester) (n : Nat) (v : Word) (s : State) : Leads s (execAlarmDisarm q n v s) := by
  unfold execAlarmDisarm
  with_reducible repeat' first
    | refine Leads.next ?_ | assumption | exact Evolves.refl _ | refine State.writeAlm_evolves ?_ ..
    | ((conv => arg 2; arg 25); refine Evolves.upd ?_ (fun h => h) rfl rfl rfl rfl) | dsimp only | split
    | refine Evolves.trans ?_ (State.writeBarred_evolves (by assumption)) | refine Evolves.ofFst (by assumption) ?_
    | refine Evolves.ofSnd (by assumption) ?_

theorem execAlarmFire_leads (n : Nat) (s : State) : Leads s (execAlarmFire n s) := by
  unfold execAlarmFire
  with_reducible repeat' first
    | refine Leads.next ?_ | assumption | exact Evolves.refl _ | refine State.fireAlarm_evolves ?_ .. | dsimp only | split

theorem State.fireCal_evolves {s0 s : State} (h : Evolves s0 s) (due : Nat) : Evolves s0 (State.fireCal s due) := by
  unfold State.fireCal
  with_reducible repeat' first
    | assumption | exact Evolves.refl _ | refine State.raise_evolves ?_ .. | refine State.wakeCocoon_evolves ?_ ..
    | ((conv => arg 2; arg 25); refine Evolves.upd ?_ (fun h => h) rfl rfl rfl rfl) | dsimp only

theorem State.armCal_evolves {s0 s : State} (h : Evolves s0 s) : Evolves s0 (State.armCal s) := by
  unfold State.armCal
  with_reducible repeat' first
    | assumption | exact Evolves.refl _ | refine State.fireCal_evolves ?_ ..
    | ((conv => arg 2; arg 25); refine Evolves.upd ?_ (fun h => h) rfl rfl rfl rfl) | dsimp only | split

theorem State.stepCal_evolves {s0 s : State} (h : Evolves s0 s) (c : Cal) : Evolves s0 (State.stepCal s c) := by
  unfold State.stepCal
  with_reducible repeat' first
    | assumption | exact Evolves.refl _ | refine State.fireCal_evolves ?_ ..
    | ((conv => arg 2; arg 25); refine Evolves.upd ?_ (fun h => h) rfl rfl rfl rfl) | dsimp only | split
    | refine Evolves.ofFst (by assumption) ?_ | refine Evolves.ofSnd (by assumption) ?_

theorem State.writeCalDate_evolves {s0 s : State} (h : Evolves s0 s) (q : Requester) (v : Word) :
    Evolves s0 (State.writeCalDate s q v) := by
  unfold State.writeCalDate
  with_reducible repeat' first
    | assumption | exact Evolves.refl _ | refine State.refuseWrite_evolves ?_ ..
    | ((conv => arg 2; arg 25); refine Evolves.upd ?_ (fun h => h) rfl rfl rfl rfl) | dsimp only | split

theorem State.writeCalTime_evolves {s0 s : State} (h : Evolves s0 s) (q : Requester) (v : Word) :
    Evolves s0 (State.writeCalTime s q v) := by
  unfold State.writeCalTime
  with_reducible repeat' first
    | assumption | exact Evolves.refl _ | refine State.refuseWrite_evolves ?_ .. | refine State.stepCal_evolves ?_ ..
    | ((conv => arg 2; arg 25); refine Evolves.upd ?_ (fun h => h) rfl rfl rfl rfl) | dsimp only | split
    | refine Evolves.ofFst (by assumption) ?_ | refine Evolves.ofSnd (by assumption) ?_

theorem execCalDateStage_leads (q : Requester) (v : Word) (s : State) : Leads s (execCalDateStage q v s) := by
  unfold execCalDateStage
  with_reducible repeat' first
    | refine Leads.next ?_ | assumption | exact Evolves.refl _ | refine State.writeCalDate_evolves ?_ ..
    | ((conv => arg 2; arg 25); refine Evolves.upd ?_ (fun h => h) rfl rfl rfl rfl) | dsimp only | split
    | refine Evolves.trans ?_ (State.writeBarred_evolves (by assumption)) | refine Evolves.ofFst (by assumption) ?_
    | refine Evolves.ofSnd (by assumption) ?_

theorem execCalCommit_leads (q : Requester) (v : Word) (s : State) : Leads s (execCalCommit q v s) := by
  unfold execCalCommit
  with_reducible repeat' first
    | refine Leads.next ?_ | assumption | exact Evolves.refl _ | refine State.writeCalTime_evolves ?_ ..
    | ((conv => arg 2; arg 25); refine Evolves.upd ?_ (fun h => h) rfl rfl rfl rfl) | dsimp only | split
    | refine Evolves.trans ?_ (State.writeBarred_evolves (by assumption)) | refine Evolves.ofFst (by assumption) ?_
    | refine Evolves.ofSnd (by assumption) ?_

theorem execCalTick_leads (s : State) : Leads s (execCalTick s) := by
  unfold execCalTick
  with_reducible repeat' first
    | refine Leads.next ?_ | assumption | exact Evolves.refl _
    | ((conv => arg 2; arg 25); refine Evolves.upd ?_ (fun h => h) rfl rfl rfl rfl) | dsimp only | split
    | refine Evolves.ofFst (by assumption) ?_ | refine Evolves.ofSnd (by assumption) ?_

theorem execRtcTrimUpdate_leads (temp : Nat) (s : State) : Leads s (execRtcTrimUpdate temp s) := by
  unfold execRtcTrimUpdate
  with_reducible repeat' first
    | refine Leads.next ?_ | assumption | exact Evolves.refl _
    | ((conv => arg 2; arg 25); refine Evolves.upd ?_ (fun h => h) rfl rfl rfl rfl) | dsimp only

theorem execBackupMeasure_leads (volt : Nat) (weak : Bool) (s : State) : Leads s (execBackupMeasure volt weak s) := by
  unfold execBackupMeasure
  with_reducible repeat' first
    | refine Leads.next ?_ | assumption | exact Evolves.refl _ | refine State.raise_evolves ?_ ..
    | refine State.record_evolves ?_ .. | ((conv => arg 2; arg 25); refine Evolves.upd ?_ (fun h => h) rfl rfl rfl rfl)
    | dsimp only | split

theorem execBackupSwitchover_leads (s : State) : Leads s (execBackupSwitchover s) := by
  unfold execBackupSwitchover
  with_reducible repeat' first
    | refine Leads.next ?_ | assumption | exact Evolves.refl _
    | ((conv => arg 2; arg 25); first | refine Evolves.upd ?_ (fun h => h) rfl rfl rfl rfl | refine Evolves.ofFenced (Steady.upd (Evolves.toSteady ?_) (fun h => h) rfl rfl rfl) rfl)
    | dsimp only | split

theorem State.pd0Start_evolves {s0 s : State} (h : Evolves s0 s) : Evolves s0 (State.pd0Start s) := by
  unfold State.pd0Start
  with_reducible repeat' first
    | assumption | exact Evolves.refl _ | ((conv => arg 2; arg 25); refine Evolves.upd ?_ (fun h => h) rfl rfl rfl rfl)
    | dsimp only | split

theorem execRtcLost_leads (retention : Bool) (s : State) : Leads s (execRtcLost retention s) := by
  unfold execRtcLost
  with_reducible repeat' first
    | refine Leads.next ?_ | assumption | exact Evolves.refl _ | refine State.tellRtcLost_evolves ?_ ..
    | refine State.pd0Start_evolves ?_ .. | ((conv => arg 2; arg 25); refine Evolves.upd ?_ (fun h => h) rfl rfl rfl rfl)
    | dsimp only | split

theorem execCalendarAlarm_leads (s : State) : Leads s (execCalendarAlarm s) := by
  unfold execCalendarAlarm
  with_reducible repeat' first
    | refine Leads.next ?_ | assumption | exact Evolves.refl _ | refine State.fireCal_evolves ?_ ..
    | ((conv => arg 2; arg 25); refine Evolves.upd ?_ (fun h => h) rfl rfl rfl rfl) | dsimp only | split
    | refine Evolves.ofFst (by assumption) ?_ | refine Evolves.ofSnd (by assumption) ?_

end Sys2Proof.Machine
end

