-- ==== Sys2Proof/Laws/Evolve/Power.lean ====
section
/-! SUPPORT. The operations of Machine/Power.lean keep what the relation `Evolves` says. -/

namespace Sys2Proof.Machine

theorem State.setHoldup_evolves {s0 s : State} (h : Evolves s0 s) (ok : Bool) : Evolves s0 (State.setHoldup s ok) := by
  unfold State.setHoldup
  with_reducible repeat' first
    | assumption | exact Evolves.refl _ | refine State.raise_evolves ?_ .. | refine State.record_evolves ?_ ..
    | refine State.clearUnit_evolves ?_ .. | refine State.loseUnit_evolves ?_ ..
    | ((conv => arg 2; arg 25); refine Evolves.upd ?_ (fun h => h) rfl rfl rfl rfl) | dsimp only | split

theorem State.judgeHoldup_evolves {s0 s : State} (h : Evolves s0 s) : Evolves s0 (State.judgeHoldup s) := by
  unfold State.judgeHoldup
  with_reducible repeat' first
    | assumption | exact Evolves.refl _ | refine State.setHoldup_evolves ?_ .. | dsimp only

theorem State.bankAt_evolves {s0 s : State} (h : Evolves s0 s) (volt : Nat) : Evolves s0 (State.bankAt s volt) := by
  unfold State.bankAt
  with_reducible repeat' first
    | assumption | exact Evolves.refl _ | refine State.judgeHoldup_evolves ?_ ..
    | ((conv => arg 2; arg 25); refine Evolves.upd ?_ (fun h => h) rfl rfl rfl rfl) | dsimp only

theorem execHoldupMeasure_leads (found : Option (Nat × Nat)) (s : State) : Leads s (execHoldupMeasure found s) := by
  unfold execHoldupMeasure
  with_reducible repeat' first
    | refine Leads.next ?_ | assumption | exact Evolves.refl _ | refine State.bankAt_evolves ?_ ..
    | ((conv => arg 2; arg 25); refine Evolves.upd ?_ (fun h => h) rfl rfl rfl rfl) | dsimp only | split
    | refine Evolves.ofFst (by assumption) ?_ | refine Evolves.ofSnd (by assumption) ?_

theorem execHoldupLost_leads (volt : Nat) (s : State) : Leads s (execHoldupLost volt s) := by
  unfold execHoldupLost
  with_reducible repeat' first
    | refine Leads.next ?_ | assumption | exact Evolves.refl _ | refine State.bankAt_evolves ?_ .. | dsimp only

theorem execHoldupRestored_leads (volt : Nat) (s : State) : Leads s (execHoldupRestored volt s) := by
  unfold execHoldupRestored
  with_reducible repeat' first
    | refine Leads.next ?_ | assumption | exact Evolves.refl _ | refine State.bankAt_evolves ?_ .. | dsimp only

theorem State.hostOff_evolves {s0 s : State} (h : Evolves s0 s) : Evolves s0 (State.hostOff s) := by
  unfold State.hostOff
  with_reducible repeat' first
    | assumption | exact Evolves.refl _ | refine State.raise_evolves ?_ ..
    | ((conv => arg 2; arg 25); refine Evolves.upd ?_ (fun h => h) rfl rfl rfl rfl) | dsimp only | split

theorem State.fieldOff_evolves {s0 s : State} (h : Evolves s0 s) : Evolves s0 (State.fieldOff s) := by
  unfold State.fieldOff
  with_reducible repeat' first
    | assumption | exact Evolves.refl _ | ((conv => arg 2; arg 25); refine Evolves.upd ?_ (fun h => h) rfl rfl rfl rfl)
    | dsimp only | split

theorem State.declarePf_evolves {s0 s : State} (h : Evolves s0 s) : Evolves s0 (State.declarePf s) := by
  unfold State.declarePf
  with_reducible repeat' first
    | assumption | exact Evolves.refl _ | refine State.raise_evolves ?_ .. | refine State.record_evolves ?_ ..
    | refine State.dropFence_evolves ?_ .. | refine State.sendWb_evolves ?_ .. | refine State.endLease_evolves ?_ ..
    | refine State.hostOff_evolves ?_ .. | refine State.fieldOff_evolves ?_ ..
    | ((conv => arg 2; arg 25); refine Evolves.upd ?_ (fun h => h) rfl rfl rfl rfl) | dsimp only | split

theorem State.measureFeed_evolves {s0 s : State} (h : Evolves s0 s) (b : Bool) (v : Nat) :
    Evolves s0 (State.measureFeed s b v) := by
  unfold State.measureFeed
  with_reducible repeat' first
    | assumption | exact Evolves.refl _ | ((conv => arg 2; arg 25); refine Evolves.upd ?_ (fun h => h) rfl rfl rfl rfl)
    | dsimp only | split

theorem execFeedLost_leads (b : Bool) (volt : Nat) (s : State) : Leads s (execFeedLost b volt s) := by
  unfold execFeedLost
  with_reducible repeat' first
    | refine Leads.next ?_ | assumption | exact Evolves.refl _ | refine State.raise_evolves ?_ ..
    | refine State.record_evolves ?_ .. | refine State.measureFeed_evolves ?_ ..
    | ((conv => arg 2; arg 25); refine Evolves.upd ?_ (fun h => h) rfl rfl rfl rfl) | dsimp only | split

theorem execFeedRestored_leads (b : Bool) (volt : Nat) (s : State) : Leads s (execFeedRestored b volt s) := by
  unfold execFeedRestored
  with_reducible repeat' first
    | refine Leads.next ?_ | assumption | exact Evolves.refl _ | refine State.raise_evolves ?_ ..
    | refine State.record_evolves ?_ .. | refine State.restart_evolves ?_ .. | refine State.measureFeed_evolves ?_ ..
    | ((conv => arg 2; arg 25); refine Evolves.upd ?_ (fun h => h) rfl rfl rfl rfl) | dsimp only | split

theorem execPowerFail_leads (goodFor1ms : Bool) (dipUs : Nat) (s : State) : Leads s (execPowerFail goodFor1ms dipUs s) := by
  unfold execPowerFail
  with_reducible repeat' first
    | refine Leads.next ?_ | assumption | exact Evolves.refl _ | refine State.record_evolves ?_ ..
    | refine State.declarePf_evolves ?_ .. | ((conv => arg 2; arg 25); refine Evolves.upd ?_ (fun h => h) rfl rfl rfl rfl)
    | dsimp only | split

theorem State.powerDown_evolves {s0 s : State} (h : Evolves s0 s) : Evolves s0 (State.powerDown s) := by
  unfold State.powerDown
  with_reducible repeat' first
    | assumption | exact Evolves.refl _ | refine State.afterRestart_evolves ?_ ..
    | ((conv => arg 2; arg 25); first | refine Evolves.upd ?_ (fun h => h) rfl rfl rfl rfl | refine Evolves.ofFenced (Steady.upd (Evolves.toSteady ?_) (fun h => h) rfl rfl rfl) rfl)
    | dsimp only

theorem execPowerFailFlushDone_leads (s : State) : Leads s (execPowerFailFlushDone s) := by
  unfold execPowerFailFlushDone
  with_reducible repeat' first
    | refine Leads.next ?_ | assumption | exact Evolves.refl _ | refine State.flushAll_evolves ?_ ..
    | refine State.restart_evolves ?_ .. | refine State.powerDown_evolves ?_ ..
    | ((conv => arg 2; arg 25); refine Evolves.upd ?_ (fun h => h) rfl rfl rfl rfl) | dsimp only | split

theorem execPresentLost_leads (s : State) : Leads s (execPresentLost s) := by
  unfold execPresentLost
  with_reducible repeat' first
    | refine Leads.next ?_ | assumption | exact Evolves.refl _ | refine State.declarePf_evolves ?_ ..
    | ((conv => arg 2; arg 25); refine Evolves.upd ?_ (fun h => h) rfl rfl rfl rfl) | dsimp only | split

theorem execInsertion_leads (prechargeMv : Nat) (s : State) : Leads s (execInsertion prechargeMv s) := by
  unfold execInsertion
  with_reducible repeat' first
    | refine Leads.next ?_ | assumption | exact Evolves.refl _ | refine State.setMode_evolves ?_ ..
    | ((conv => arg 2; arg 25); refine Evolves.upd ?_ (fun h => h) rfl rfl rfl rfl) | dsimp only | split

theorem State.beginBoot_evolves {s0 s : State} (h : Evolves s0 s) : Evolves s0 (State.beginBoot s) := by
  unfold State.beginBoot
  with_reducible repeat' first
    | assumption | exact Evolves.refl _ | refine State.record_evolves ?_ .. | refine State.setMode_evolves ?_ ..
    | refine State.tellRtcLost_evolves ?_ .. | refine State.restart_evolves ?_ .. | dsimp only | split

theorem execStrapRead_leads (selA selB : Bool) (carrier : Nat) (s : State) : Leads s (execStrapRead selA selB carrier s) := by
  unfold execStrapRead
  with_reducible repeat' first
    | refine Leads.next ?_ | assumption | exact Evolves.refl _ | refine State.enterQuarantine_evolves ?_ ..
    | refine State.afterSettle_evolves ?_ .. | refine State.beginBoot_evolves ?_ ..
    | ((conv => arg 2; arg 25); refine Evolves.upd ?_ (fun h => h) rfl rfl rfl rfl) | dsimp only | split

theorem execEjectReq_leads (s : State) : Leads s (execEjectReq s) := by
  unfold execEjectReq
  with_reducible repeat' first
    | refine Leads.next ?_ | assumption | exact Evolves.refl _ | refine State.raise_evolves ?_ ..
    | refine State.actExtraction_evolves ?_ .. | ((conv => arg 2; arg 25); refine Evolves.upd ?_ (fun h => h) rfl rfl rfl rfl)
    | dsimp only | split

theorem execPullOk_leads (s : State) : Leads s (execPullOk s) := by
  unfold execPullOk
  with_reducible repeat' first
    | refine Leads.next ?_ | assumption | exact Evolves.refl _ | refine State.flushAll_evolves ?_ ..
    | ((conv => arg 2; arg 25); refine Evolves.upd ?_ (fun h => h) rfl rfl rfl rfl) | dsimp only | split

theorem execLeverReturn_leads (s : State) : Leads s (execLeverReturn s) := by
  unfold execLeverReturn
  with_reducible repeat' first
    | refine Leads.next ?_ | assumption | exact Evolves.refl _ | refine State.restart_evolves ?_ ..
    | ((conv => arg 2; arg 25); refine Evolves.upd ?_ (fun h => h) rfl rfl rfl rfl) | dsimp only | split

end Sys2Proof.Machine
end

