-- ==== Sys2Proof/Laws/Evolve/Comms.lean ====
section
/-! SUPPORT. The operations of Machine/Comms.lean keep what the relation `Evolves` says. -/

namespace Sys2Proof.Machine

theorem State.setCanPort_evolves {s0 s : State} (h : Evolves s0 s) (p : Nat) (f : CanPort → CanPort) :
    Evolves s0 (State.setCanPort s p f) := by
  unfold State.setCanPort
  with_reducible repeat' first
    | assumption | exact Evolves.refl _ | ((conv => arg 2; arg 25); refine Evolves.upd ?_ (fun h => h) rfl rfl rfl rfl)
    | dsimp only

theorem State.setInput_evolves {s0 s : State} (h : Evolves s0 s) (cls idx : Nat) (v : F32) (stamp : Nat) (valid : Bool) :
    Evolves s0 (State.setInput s cls idx v stamp valid) := by
  unfold State.setInput
  with_reducible repeat' first
    | assumption | exact Evolves.refl _ | ((conv => arg 2; arg 25); refine Evolves.upd ?_ (fun h => h) rfl rfl rfl rfl)
    | dsimp only

theorem State.arrive_evolves {s0 s : State} (h : Evolves s0 s) (e : ManEntry) (content : List Byte) (cls idx : Nat) (v : F32) (stamp : Nat) :
    Evolves s0 (State.arrive s e content cls idx v stamp) := by
  unfold State.arrive
  with_reducible repeat' first
    | assumption | exact Evolves.refl _ | ((conv => arg 2; arg 25); refine Evolves.upd ?_ (fun h => h) rfl rfl rfl rfl)
    | dsimp only

theorem State.setSignal_evolves {s0 s : State} (h : Evolves s0 s) (i : Nat) (v : F32) : Evolves s0 (State.setSignal s i v) := by
  unfold State.setSignal
  with_reducible repeat' first
    | assumption | exact Evolves.refl _ | refine State.useFree_evolves ?_ ..
    | ((conv => arg 2; arg 25); refine Evolves.upd ?_ (fun h => h) rfl rfl rfl rfl) | dsimp only | split
    | refine Evolves.ofFst (by assumption) ?_ | refine Evolves.ofSnd (by assumption) ?_

theorem State.postCan_evolves {s0 s : State} (h : Evolves s0 s) (port : Nat) (f : CanFrame) (oneShot : Bool) (work : Option WorkRef) :
    Evolves s0 (State.postCan s port f oneShot work) := by
  unfold State.postCan
  with_reducible repeat' first
    | assumption | exact Evolves.refl _ | refine State.setCanPort_evolves ?_ ..
    | ((conv => arg 2; arg 25); refine Evolves.upd ?_ (fun h => h) rfl rfl rfl rfl) | dsimp only | split

theorem State.sendSignals_evolves {s0 s : State} (h : Evolves s0 s) (i : Nat) : Evolves s0 (State.sendSignals s i) := by
  unfold State.sendSignals
  with_reducible repeat' first
    | assumption | exact Evolves.refl _ | refine State.postCan_evolves ?_ ..
    | ((conv => arg 2; arg 25); refine Evolves.upd ?_ (fun h => h) rfl rfl rfl rfl) | dsimp only | split
    | refine Evolves.ofFst (by assumption) ?_ | refine Evolves.ofSnd (by assumption) ?_

theorem State.postBuilt_evolves {s0 s : State} (h : Evolves s0 s) : Evolves s0 (State.postBuilt s) := by
  unfold State.postBuilt
  with_reducible repeat' first
    | assumption | exact Evolves.refl _ | refine State.postCan_evolves ?_ .. | refine Evolves.foldl _ _ (fun u x hu => ?_) ?_
    | dsimp only | split

theorem execCanRx_leads (port : Nat) (f : CanFrame) (s : State) : Leads s (execCanRx port f s) := by
  unfold execCanRx
  with_reducible repeat' first
    | refine Leads.next ?_ | assumption | exact Evolves.refl _ | refine State.record_evolves ?_ ..
    | refine State.pushPacket_evolves ?_ .. | refine State.setCanPort_evolves ?_ .. | refine State.arrive_evolves ?_ ..
    | ((conv => arg 2; arg 25); refine Evolves.upd ?_ (fun h => h) rfl rfl rfl rfl)
    | refine Evolves.foldl _ _ (fun u x hu => ?_) ?_ | dsimp only | split | refine Evolves.ofFst (by assumption) ?_
    | refine Evolves.ofSnd (by assumption) ?_

theorem State.finishBuf_evolves {s0 s : State} (h : Evolves s0 s) (b : TxBuf) (status result : Nat) :
    Evolves s0 (State.finishBuf s b status result) := by
  unfold State.finishBuf
  with_reducible repeat' first
    | assumption | exact Evolves.refl _ | refine State.finish_evolves ?_ ..
    | ((conv => arg 2; arg 25); refine Evolves.upd ?_ (fun h => h) rfl rfl rfl rfl) | dsimp only | split
    | refine Evolves.ofFst (by assumption) ?_ | refine Evolves.ofSnd (by assumption) ?_

theorem State.countTx_evolves {s0 s : State} (h : Evolves s0 s) (port : Nat) (sent err : Bool) :
    Evolves s0 (State.countTx s port sent err) := by
  unfold State.countTx
  with_reducible repeat' first
    | assumption | exact Evolves.refl _ | refine State.setCanPort_evolves ?_ ..
    | ((conv => arg 2; arg 25); refine Evolves.upd ?_ (fun h => h) rfl rfl rfl rfl) | dsimp only | split

theorem execCanTxComplete_leads (port : Nat) (sent err : Bool) (s : State) : Leads s (execCanTxComplete port sent err s) := by
  unfold execCanTxComplete
  with_reducible repeat' first
    | refine Leads.next ?_ | assumption | exact Evolves.refl _ | refine State.emit_evolves ?_ ..
    | refine State.setCanPort_evolves ?_ .. | refine State.finishBuf_evolves ?_ .. | refine State.countTx_evolves ?_ ..
    | ((conv => arg 2; arg 25); refine Evolves.upd ?_ (fun h => h) rfl rfl rfl rfl) | dsimp only | split
    | refine Evolves.ofFst (by assumption) ?_ | refine Evolves.ofSnd (by assumption) ?_

theorem execCanBusOff_leads (port : Nat) (s : State) : Leads s (execCanBusOff port s) := by
  unfold execCanBusOff
  with_reducible repeat' first
    | refine Leads.next ?_ | assumption | exact Evolves.refl _ | refine State.raise_evolves ?_ ..
    | refine State.record_evolves ?_ .. | refine State.setCanPort_evolves ?_ ..
    | ((conv => arg 2; arg 25); refine Evolves.upd ?_ (fun h => h) rfl rfl rfl rfl) | dsimp only | split

theorem State.startRecovery_evolves {s0 s : State} (h : Evolves s0 s) (port : Nat) : Evolves s0 (State.startRecovery s port) := by
  unfold State.startRecovery
  with_reducible repeat' first
    | assumption | exact Evolves.refl _ | refine State.setCanPort_evolves ?_ ..
    | ((conv => arg 2; arg 25); refine Evolves.upd ?_ (fun h => h) rfl rfl rfl rfl) | dsimp only | split

theorem State.writeCanCtrl_evolves {s0 s : State} (h : Evolves s0 s) (q : Requester) (p : Nat) (v : Word) :
    Evolves s0 (State.writeCanCtrl s q p v) := by
  unfold State.writeCanCtrl
  with_reducible repeat' first
    | assumption | exact Evolves.refl _ | refine State.refuseWrite_evolves ?_ .. | refine State.writeHeld_evolves ?_ ..
    | refine State.setCanPort_evolves ?_ .. | refine State.startRecovery_evolves ?_ ..
    | ((conv => arg 2; arg 25); refine Evolves.upd ?_ (fun h => h) rfl rfl rfl rfl) | dsimp only | split
    | refine Evolves.ofFst (by assumption) ?_ | refine Evolves.ofSnd (by assumption) ?_

theorem execCanRecoverWrite_leads (q : Requester) (port : Nat) (v : Word) (s : State) : Leads s (execCanRecoverWrite q port v s) := by
  unfold execCanRecoverWrite
  with_reducible repeat' first
    | refine Leads.next ?_ | assumption | exact Evolves.refl _ | refine State.writeCanCtrl_evolves ?_ ..
    | ((conv => arg 2; arg 25); refine Evolves.upd ?_ (fun h => h) rfl rfl rfl rfl) | dsimp only | split
    | refine Evolves.trans ?_ (State.writeBarred_evolves (by assumption)) | refine Evolves.ofFst (by assumption) ?_
    | refine Evolves.ofSnd (by assumption) ?_

theorem execCanSleep_leads (q : Requester) (port : Nat) (v : Word) (s : State) : Leads s (execCanSleep q port v s) := by
  unfold execCanSleep
  with_reducible repeat' first
    | refine Leads.next ?_ | assumption | exact Evolves.refl _ | refine State.writeCanCtrl_evolves ?_ ..
    | ((conv => arg 2; arg 25); refine Evolves.upd ?_ (fun h => h) rfl rfl rfl rfl) | dsimp only | split
    | refine Evolves.trans ?_ (State.writeBarred_evolves (by assumption)) | refine Evolves.ofFst (by assumption) ?_
    | refine Evolves.ofSnd (by assumption) ?_

theorem execCanRecover_leads (w : WorkRef) (s : State) : Leads s (execCanRecover w s) := by
  unfold execCanRecover
  with_reducible repeat' first
    | refine Leads.next ?_ | assumption | exact Evolves.refl _ | refine State.finish_evolves ?_ ..
    | refine Evolves.trans ?_ (State.engineOp_evolves _ _ _ fun op => ?_) | refine State.startRecovery_evolves ?_ ..
    | dsimp only | split

theorem execCanRecoveryDone_leads (port : Nat) (s : State) : Leads s (execCanRecoveryDone port s) := by
  unfold execCanRecoveryDone
  with_reducible repeat' first
    | refine Leads.next ?_ | assumption | exact Evolves.refl _ | refine State.setCanPort_evolves ?_ ..
    | ((conv => arg 2; arg 25); refine Evolves.upd ?_ (fun h => h) rfl rfl rfl rfl) | dsimp only | split

theorem execCanWake_leads (port : Nat) (s : State) : Leads s (execCanWake port s) := by
  unfold execCanWake
  with_reducible repeat' first
    | refine Leads.next ?_ | assumption | exact Evolves.refl _ | refine State.setFld_evolves ?_ ..
    | refine State.raise_evolves ?_ .. | refine State.record_evolves ?_ .. | refine State.wakeCocoon_evolves ?_ ..
    | refine State.setCanPort_evolves ?_ .. | ((conv => arg 2; arg 25); refine Evolves.upd ?_ (fun h => h) rfl rfl rfl rfl)
    | dsimp only | split

theorem execCanSend_leads (w : WorkRef) (s : State) : Leads s (execCanSend w s) := by
  unfold execCanSend
  with_reducible repeat' first
    | refine Leads.next ?_ | assumption | exact Evolves.refl _ | refine State.setOp_evolves ?_ ..
    | refine State.finish_evolves ?_ .. | refine Evolves.trans ?_ (State.engineOp_evolves _ _ _ fun op => ?_)
    | refine State.postCan_evolves ?_ .. | ((conv => arg 2; arg 25); refine Evolves.upd ?_ (fun h => h) rfl rfl rfl rfl)
    | dsimp only | split

theorem execCanFilter_leads (w : WorkRef) (s : State) : Leads s (execCanFilter w s) := by
  unfold execCanFilter
  with_reducible repeat' first
    | refine Leads.next ?_ | assumption | exact Evolves.refl _ | refine State.finish_evolves ?_ ..
    | refine Evolves.trans ?_ (State.engineOp_evolves _ _ _ fun op => ?_) | refine State.setCanPort_evolves ?_ ..
    | ((conv => arg 2; arg 25); refine Evolves.upd ?_ (fun h => h) rfl rfl rfl rfl) | dsimp only | split

theorem State.setNetPort_evolves {s0 s : State} (h : Evolves s0 s) (p : Nat) (f : NetPort → NetPort) :
    Evolves s0 (State.setNetPort s p f) := by
  unfold State.setNetPort
  with_reducible repeat' first
    | assumption | exact Evolves.refl _ | ((conv => arg 2; arg 25); refine Evolves.upd ?_ (fun h => h) rfl rfl rfl rfl)
    | dsimp only

theorem execNetSend_leads (w : WorkRef) (s : State) : Leads s (execNetSend w s) := by
  unfold execNetSend
  with_reducible repeat' first
    | refine Leads.next ?_ | assumption | exact Evolves.refl _ | refine State.emit_evolves ?_ ..
    | refine State.setOp_evolves ?_ .. | refine State.finish_evolves ?_ .. | refine State.settleFrames_evolves ?_ ..
    | ((conv => arg 2; arg 25); refine Evolves.upd ?_ (fun h => h) rfl rfl rfl rfl) | dsimp only | split
    | refine Evolves.ofFst (by assumption) ?_ | refine Evolves.ofSnd (by assumption) ?_

theorem execGateLoad_leads (w : WorkRef) (s : State) : Leads s (execGateLoad w s) := by
  unfold execGateLoad
  with_reducible repeat' first
    | refine Leads.next ?_ | assumption | exact Evolves.refl _ | refine State.finish_evolves ?_ ..
    | refine Evolves.trans ?_ (State.engineOp_evolves _ _ _ fun op => ?_) | refine State.setNetPort_evolves ?_ ..
    | ((conv => arg 2; arg 25); refine Evolves.upd ?_ (fun h => h) rfl rfl rfl rfl) | dsimp only | split

theorem execGateListSwitch_leads (port : Nat) (s : State) : Leads s (execGateListSwitch port s) := by
  unfold execGateListSwitch
  with_reducible repeat' first
    | refine Leads.next ?_ | assumption | exact Evolves.refl _ | refine State.setNetPort_evolves ?_ ..
    | ((conv => arg 2; arg 25); refine Evolves.upd ?_ (fun h => h) rfl rfl rfl rfl) | dsimp only | split
    | refine Evolves.ofFst (by assumption) ?_ | refine Evolves.ofSnd (by assumption) ?_

theorem execNetPortDown_leads (port : Nat) (s : State) : Leads s (execNetPortDown port s) := by
  unfold execNetPortDown
  with_reducible repeat' first
    | refine Leads.next ?_ | assumption | exact Evolves.refl _ | refine State.raise_evolves ?_ ..
    | refine State.record_evolves ?_ .. | refine State.setNetPort_evolves ?_ ..
    | ((conv => arg 2; arg 25); refine Evolves.upd ?_ (fun h => h) rfl rfl rfl rfl) | dsimp only | split

theorem execNetPortUp_leads (port : Nat) (tenGig : Bool) (s : State) : Leads s (execNetPortUp port tenGig s) := by
  unfold execNetPortUp
  with_reducible repeat' first
    | refine Leads.next ?_ | assumption | exact Evolves.refl _ | refine State.setNetPort_evolves ?_ ..
    | ((conv => arg 2; arg 25); refine Evolves.upd ?_ (fun h => h) rfl rfl rfl rfl) | dsimp only | split

theorem execNetModuleRefused_leads (port : Nat) (s : State) : Leads s (execNetModuleRefused port s) := by
  unfold execNetModuleRefused
  with_reducible repeat' first
    | refine Leads.next ?_ | assumption | exact Evolves.refl _ | refine State.record_evolves ?_ ..
    | refine State.setNetPort_evolves ?_ .. | ((conv => arg 2; arg 25); refine Evolves.upd ?_ (fun h => h) rfl rfl rfl rfl)
    | dsimp only | split

theorem State.supervise_evolves {s0 s : State} (h : Evolves s0 s) : Evolves s0 (State.supervise s) := by
  unfold State.supervise
  with_reducible repeat' first
    | assumption | exact Evolves.refl _ | refine State.emit_evolves ?_ .. | dsimp only | split

theorem execSupervisionTx_leads (s : State) : Leads s (execSupervisionTx s) := by
  unfold execSupervisionTx
  with_reducible repeat' first
    | refine Leads.next ?_ | assumption | exact Evolves.refl _ | refine State.supervise_evolves ?_ ..
    | ((conv => arg 2; arg 25); refine Evolves.upd ?_ (fun h => h) rfl rfl rfl rfl) | dsimp only | split

theorem execHsrFrameRx_leads (port src zdst0 id : Nat) (forUs multicast : Bool) (frame : List Byte) (s : State) : Leads s (execHsrFrameRx port src zdst0 id forUs multicast frame s) := by
  unfold execHsrFrameRx
  with_reducible repeat' first
    | refine Leads.next ?_ | assumption | exact Evolves.refl _ | refine State.emit_evolves ?_ ..
    | refine State.setNetPort_evolves ?_ .. | ((conv => arg 2; arg 25); refine Evolves.upd ?_ (fun h => h) rfl rfl rfl rfl)
    | dsimp only | split

theorem execSvSampleRx_leads (datasetOk qualityOk globalSync : Bool) (smpCnt : Nat) (per256 : Bool) (s : State) : Leads s (execSvSampleRx datasetOk qualityOk globalSync smpCnt per256 s) := by
  unfold execSvSampleRx
  with_reducible repeat' first
    | refine Leads.next ?_ | assumption | exact Evolves.refl _ | refine State.record_evolves ?_ ..
    | refine State.loseSource_evolves ?_ .. | ((conv => arg 2; arg 25); refine Evolves.upd ?_ (fun h => h) rfl rfl rfl rfl)
    | dsimp only | split

theorem execMgmtOpen_leads (authOk : Bool) (s : State) : Leads s (execMgmtOpen authOk s) := by
  unfold execMgmtOpen
  with_reducible repeat' first
    | refine Leads.next ?_ | assumption | exact Evolves.refl _ | refine State.record_evolves ?_ ..
    | ((conv => arg 2; arg 25); refine Evolves.upd ?_ (fun h => h) rfl rfl rfl rfl) | dsimp only | split

theorem execMgmtClose_leads (s : State) : Leads s (execMgmtClose s) := by
  unfold execMgmtClose
  with_reducible repeat' first
    | refine Leads.next ?_ | assumption | exact Evolves.refl _ | refine State.record_evolves ?_ ..
    | ((conv => arg 2; arg 25); refine Evolves.upd ?_ (fun h => h) rfl rfl rfl rfl) | dsimp only | split

theorem execSvcLinkChange_leads (up : Bool) (s : State) : Leads s (execSvcLinkChange up s) := by
  unfold execSvcLinkChange
  with_reducible repeat' first
    | refine Leads.next ?_ | assumption | exact Evolves.refl _ | refine State.raise_evolves ?_ ..
    | ((conv => arg 2; arg 25); refine Evolves.upd ?_ (fun h => h) rfl rfl rfl rfl) | dsimp only | split

theorem execWakeFrameRx_leads (etype w0 w1 : Nat) (s : State) : Leads s (execWakeFrameRx etype w0 w1 s) := by
  unfold execWakeFrameRx
  with_reducible repeat' first
    | refine Leads.next ?_ | assumption | exact Evolves.refl _ | refine State.wakeCocoon_evolves ?_ .. | dsimp only | split

end Sys2Proof.Machine
end

