-- ==== Sys2Proof/Laws/Evolve/Pair.lean ====
section
/-! SUPPORT. The operations of Machine/Pair.lean keep what the relation `Evolves` says. -/

namespace Sys2Proof.Machine

theorem State.sendOrdered_evolves {s0 s : State} (h : Evolves s0 s) (st : Stream) (resend start : Bool) (f : Nat × Nat × List Byte) :
    Evolves s0 (State.sendOrdered s st resend start f) := by
  unfold State.sendOrdered
  with_reducible repeat' first
    | assumption | exact Evolves.refl _ | refine State.emit_evolves ?_ .. | dsimp only

theorem State.sendAllOrdered_evolves {s0 s : State} (h : Evolves s0 s) (st : Stream) (resend : Bool) (l : List (Nat × Nat × List Byte)) :
    Evolves s0 (State.sendAllOrdered s st resend l) := by
  unfold State.sendAllOrdered
  with_reducible repeat' first
    | assumption | exact Evolves.refl _ | refine State.sendOrdered_evolves ?_ ..
    | refine Evolves.foldl _ _ (fun u x hu => ?_) ?_ | dsimp only | split

theorem State.setStream_evolves {s0 s : State} (h : Evolves s0 s) (id : Nat) (f : Stream → Stream) :
    Evolves s0 (State.setStream s id f) := by
  unfold State.setStream
  with_reducible repeat' first
    | assumption | exact Evolves.refl _ | ((conv => arg 2; arg 25); refine Evolves.upd ?_ (fun h => h) rfl rfl rfl rfl)
    | dsimp only | split

theorem State.intend_evolves {s0 s : State} (h : Evolves s0 s) (id : Nat) (payload : List Byte) :
    Evolves s0 (State.intend s id payload) := by
  unfold State.intend
  with_reducible repeat' first
    | assumption | exact Evolves.refl _ | refine State.journalAdd_evolves ?_ .. | refine State.sendOrdered_evolves ?_ ..
    | refine State.setStream_evolves ?_ .. | ((conv => arg 2; arg 25); refine Evolves.upd ?_ (fun h => h) rfl rfl rfl rfl)
    | dsimp only | split | refine Evolves.ofFst (by assumption) ?_ | refine Evolves.ofSnd (by assumption) ?_

theorem State.sendCommitted_evolves {s0 s : State} (h : Evolves s0 s) (old : Nat) : Evolves s0 (State.sendCommitted s old) := by
  unfold State.sendCommitted
  with_reducible repeat' first
    | assumption | exact Evolves.refl _ | refine State.sendAllOrdered_evolves ?_ ..
    | refine Evolves.foldl _ _ (fun u x hu => ?_) ?_ | dsimp only | split

theorem State.fillStream_evolves {s0 s : State} (h : Evolves s0 s) (id : Nat) (a0 : Nat) :
    Evolves s0 (State.fillStream s id a0) := by
  induction a0 generalizing s0 s id with
  | zero =>
    rw [State.fillStream]
    with_reducible repeat' first
      | assumption | exact Evolves.refl _ | refine State.setStream_evolves ?_ .. | refine State.intend_evolves ?_ ..
      | ((conv => arg 2; arg 25); refine Evolves.upd ?_ (fun h => h) rfl rfl rfl rfl) | dsimp only | split
      | refine Evolves.ofFst (by assumption) ?_ | refine Evolves.ofSnd (by assumption) ?_
  | succ y ih =>
    rw [State.fillStream]
    with_reducible repeat' first
      | assumption | exact Evolves.refl _ | refine ih ?_ .. | refine State.setStream_evolves ?_ ..
      | refine State.intend_evolves ?_ .. | ((conv => arg 2; arg 25); refine Evolves.upd ?_ (fun h => h) rfl rfl rfl rfl)
      | dsimp only | split | refine Evolves.ofFst (by assumption) ?_ | refine Evolves.ofSnd (by assumption) ?_

theorem State.freeJournal_evolves {s0 s : State} (h : Evolves s0 s) : Evolves s0 (State.freeJournal s) := by
  unfold State.freeJournal
  with_reducible repeat' first
    | assumption | exact Evolves.refl _ | refine State.checkJournalFree_evolves ?_ ..
    | ((conv => arg 2; arg 25); refine Evolves.upd ?_ (fun h => h) rfl rfl rfl rfl) | dsimp only

theorem State.keepEpochs_evolves {s0 s : State} (h : Evolves s0 s) : Evolves s0 (State.keepEpochs s) := by
  unfold State.keepEpochs
  with_reducible repeat' first
    | assumption | exact Evolves.refl _ | ((conv => arg 2; arg 25); refine Evolves.upd ?_ (fun h => h) rfl rfl rfl rfl)
    | refine Evolves.foldl _ _ (fun u x hu => ?_) ?_ | dsimp only | split

theorem State.newOrdered_evolves {s0 s : State} (h : Evolves s0 s) : Evolves s0 (State.newOrdered s) := by
  unfold State.newOrdered
  with_reducible repeat' first
    | assumption | exact Evolves.refl _ | refine State.keepEpochs_evolves ?_ ..
    | ((conv => arg 2; arg 25); refine Evolves.upd ?_ (fun h => h) rfl rfl rfl rfl) | dsimp only | split

theorem State.newEpochs_evolves {s0 s : State} (h : Evolves s0 s) : Evolves s0 (State.newEpochs s) := by
  unfold State.newEpochs
  with_reducible repeat' first
    | assumption | exact Evolves.refl _ | refine State.newOrdered_evolves ?_ ..
    | ((conv => arg 2; arg 25); refine Evolves.upd ?_ (fun h => h) rfl rfl rfl rfl) | dsimp only | split

theorem State.checkpoint_evolves {s0 s : State} (h : Evolves s0 s) : Evolves s0 (State.checkpoint s) := by
  unfold State.checkpoint
  with_reducible repeat' first
    | assumption | exact Evolves.refl _ | refine State.journalAdd_evolves ?_ .. | refine State.freeJournal_evolves ?_ ..
    | ((conv => arg 2; arg 25); refine Evolves.upd ?_ (fun h => h) rfl rfl rfl rfl)
    | refine Evolves.foldl _ _ (fun u x hu => ?_) ?_ | dsimp only | split | refine Evolves.ofFst (by assumption) ?_
    | refine Evolves.ofSnd (by assumption) ?_

theorem execCheckpointWrite_leads (s : State) : Leads s (execCheckpointWrite s) := by
  unfold execCheckpointWrite
  with_reducible repeat' first
    | refine Leads.next ?_ | assumption | exact Evolves.refl _ | refine State.checkpoint_evolves ?_ .. | dsimp only | split

theorem execJournalStreamWrite_leads (bytes : Nat) (s : State) : Leads s (execJournalStreamWrite bytes s) := by
  unfold execJournalStreamWrite
  with_reducible repeat' first
    | refine Leads.next ?_ | assumption | exact Evolves.refl _ | refine State.checkJournalFree_evolves ?_ ..
    | ((conv => arg 2; arg 25); refine Evolves.upd ?_ (fun h => h) rfl rfl rfl rfl) | dsimp only

theorem execOrderedSend_leads (stream : Nat) (payload : List Byte) (s : State) : Leads s (execOrderedSend stream payload s) := by
  unfold execOrderedSend
  with_reducible repeat' first
    | refine Leads.next ?_ | assumption | exact Evolves.refl _ | refine State.setStream_evolves ?_ ..
    | refine State.intend_evolves ?_ .. | ((conv => arg 2; arg 25); refine Evolves.upd ?_ (fun h => h) rfl rfl rfl rfl)
    | dsimp only | split | refine Evolves.ofFst (by assumption) ?_ | refine Evolves.ofSnd (by assumption) ?_

theorem State.startResend_evolves {s0 s : State} (h : Evolves s0 s) (st : Stream) : Evolves s0 (State.startResend s st) := by
  unfold State.startResend
  with_reducible repeat' first
    | assumption | exact Evolves.refl _ | refine State.sendOrdered_evolves ?_ .. | refine State.sendAllOrdered_evolves ?_ ..
    | ((conv => arg 2; arg 25); refine Evolves.upd ?_ (fun h => h) rfl rfl rfl rfl) | dsimp only | split
    | refine Evolves.ofFst (by assumption) ?_ | refine Evolves.ofSnd (by assumption) ?_

theorem execStreamAckRx_leads (stream epoch seq reason : Nat) (s : State) : Leads s (execStreamAckRx stream epoch seq reason s) := by
  unfold execStreamAckRx
  with_reducible repeat' first
    | refine Leads.next ?_ | assumption | exact Evolves.refl _ | refine State.sendAllOrdered_evolves ?_ ..
    | refine State.setStream_evolves ?_ .. | refine State.fillStream_evolves ?_ .. | refine State.startResend_evolves ?_ ..
    | ((conv => arg 2; arg 25); refine Evolves.upd ?_ (fun h => h) rfl rfl rfl rfl) | dsimp only | split
    | refine Evolves.ofFst (by assumption) ?_ | refine Evolves.ofSnd (by assumption) ?_

theorem execOrdAckTimeout_leads (stream : Nat) (s : State) : Leads s (execOrdAckTimeout stream s) := by
  unfold execOrdAckTimeout
  with_reducible repeat' first
    | refine Leads.next ?_ | assumption | exact Evolves.refl _ | refine State.sendAllOrdered_evolves ?_ ..
    | ((conv => arg 2; arg 25); refine Evolves.upd ?_ (fun h => h) rfl rfl rfl rfl) | dsimp only | split
    | refine Evolves.ofFst (by assumption) ?_ | refine Evolves.ofSnd (by assumption) ?_

theorem execOrdAckJournal_leads (stream : Nat) (s : State) : Leads s (execOrdAckJournal stream s) := by
  unfold execOrdAckJournal
  with_reducible repeat' first
    | refine Leads.next ?_ | assumption | exact Evolves.refl _ | refine State.journalAdd_evolves ?_ ..
    | refine State.setStream_evolves ?_ .. | ((conv => arg 2; arg 25); refine Evolves.upd ?_ (fun h => h) rfl rfl rfl rfl)
    | dsimp only | split | refine Evolves.ofFst (by assumption) ?_ | refine Evolves.ofSnd (by assumption) ?_

theorem State.checkSeq_evolves {s0 s : State} (h : Evolves s0 s) (type msgSeq : Nat) :
    Evolves s0 (State.checkSeq s type msgSeq) := by
  unfold State.checkSeq
  with_reducible repeat' first
    | assumption | exact Evolves.refl _ | refine State.sendWb_evolves ?_ ..
    | ((conv => arg 2; arg 25); refine Evolves.upd ?_ (fun h => h) rfl rfl rfl rfl)
    | refine Evolves.foldl _ _ (fun u x hu => ?_) ?_ | dsimp only | split | refine Evolves.ofFst (by assumption) ?_
    | refine Evolves.ofSnd (by assumption) ?_

theorem State.enterSync_evolves {s0 s : State} (h : Evolves s0 s) (cause : Nat) : Evolves s0 (State.enterSync s cause) := by
  unfold State.enterSync
  with_reducible repeat' first
    | assumption | exact Evolves.refl _ | refine State.setMode_evolves ?_ ..
    | ((conv => arg 2; arg 25); refine Evolves.upd ?_ (fun h => h) rfl rfl rfl rfl) | dsimp only
    | refine Evolves.ofFst (by assumption) ?_ | refine Evolves.ofSnd (by assumption) ?_

theorem State.takePart_evolves {s0 s : State} (h : Evolves s0 s) (m : ManPart) : Evolves s0 (State.takePart s m) := by
  unfold State.takePart
  with_reducible repeat' first
    | assumption | exact Evolves.refl _ | refine State.sendWb_evolves ?_ ..
    | ((conv => arg 2; arg 25); refine Evolves.upd ?_ (fun h => h) rfl rfl rfl rfl)
    | refine Evolves.foldl _ _ (fun u x hu => ?_) ?_ | dsimp only | split

theorem execManifestRx_leads (crcOk : Bool) (msgSeq : Nat) (m : ManPart) (s : State) : Leads s (execManifestRx crcOk msgSeq m s) := by
  unfold execManifestRx
  with_reducible repeat' first
    | refine State.fromPartner_leads _ _ fun u => ?_ | refine Leads.next ?_ | assumption | exact Evolves.refl _
    | refine State.record_evolves ?_ .. | refine State.checkSeq_evolves ?_ .. | refine State.takePart_evolves ?_ .. | dsimp only
    | split

theorem execFetchRx_leads (crcOk : Bool) (gen : Nat) (f : FetchOf) (s : State) : Leads s (execFetchRx crcOk gen f s) := by
  unfold execFetchRx
  with_reducible repeat' first
    | refine State.fromPartner_leads _ _ fun u => ?_ | refine Leads.next ?_ | assumption | exact Evolves.refl _
    | refine State.emit_evolves ?_ .. | refine State.sendWb_evolves ?_ ..
    | ((conv => arg 2; arg 25); refine Evolves.upd ?_ (fun h => h) rfl rfl rfl rfl) | dsimp only | split
    | refine Evolves.ofFst (by assumption) ?_ | refine Evolves.ofSnd (by assumption) ?_

theorem execFetchDataRx_leads (crcOk : Bool) (gen : Nat) (e : ManEntry) (content : List Byte) (checkOk : Bool) (s : State) : Leads s (execFetchDataRx crcOk gen e content checkOk s) := by
  unfold execFetchDataRx
  with_reducible repeat' first
    | refine State.fromPartner_leads _ _ fun u => ?_ | refine Leads.next ?_ | assumption | exact Evolves.refl _
    | refine State.sendWb_evolves ?_ .. | refine State.holdItem_evolves ?_ .. | dsimp only | split

theorem State.shadowMismatch_evolves {s0 s : State} (h : Evolves s0 s) (stream cycle : Nat) :
    Evolves s0 (State.shadowMismatch s stream cycle) := by
  unfold State.shadowMismatch
  with_reducible repeat' first
    | assumption | exact Evolves.refl _ | refine State.raise_evolves ?_ .. | refine State.record_evolves ?_ ..
    | refine State.enterQuarantine_evolves ?_ .. | refine State.enterSync_evolves ?_ ..
    | ((conv => arg 2; arg 25); refine Evolves.upd ?_ (fun h => h) rfl rfl rfl rfl) | dsimp only | split
    | refine Evolves.ofFst (by assumption) ?_ | refine Evolves.ofSnd (by assumption) ?_

theorem State.compareDigests_evolves {s0 s : State} (h : Evolves s0 s) (cycle : Nat) (own other : List (Nat × List Byte)) :
    Evolves s0 (State.compareDigests s cycle own other) := by
  unfold State.compareDigests
  with_reducible repeat' first
    | assumption | exact Evolves.refl _ | refine State.shadowMismatch_evolves ?_ ..
    | ((conv => arg 2; arg 25); refine Evolves.upd ?_ (fun h => h) rfl rfl rfl rfl) | dsimp only | split
    | refine Evolves.ofFst (by assumption) ?_ | refine Evolves.ofSnd (by assumption) ?_

theorem execOutputDigestRx_leads (crcOk : Bool) (gen cycle : Nat) (digests : List (Nat × List Byte)) (s : State) : Leads s (execOutputDigestRx crcOk gen cycle digests s) := by
  unfold execOutputDigestRx
  with_reducible repeat' first
    | refine State.fromPartner_leads _ _ fun u => ?_ | refine Leads.next ?_ | assumption | exact Evolves.refl _
    | refine State.compareDigests_evolves ?_ .. | ((conv => arg 2; arg 25); refine Evolves.upd ?_ (fun h => h) rfl rfl rfl rfl)
    | dsimp only | split | refine Evolves.ofFst (by assumption) ?_ | refine Evolves.ofSnd (by assumption) ?_

theorem State.applyEntry_evolves {s0 s : State} (h : Evolves s0 s) (e : JEntry) : Evolves s0 (State.applyEntry s e) := by
  unfold State.applyEntry
  with_reducible repeat' first
    | assumption | exact Evolves.refl _ | refine State.seeGen_evolves ?_ .. | refine State.rememberSubmit_evolves ?_ ..
    | refine State.settleOps_evolves ?_ .. | refine State.sendOrdered_evolves ?_ .. | refine State.setStream_evolves ?_ ..
    | refine State.freeJournal_evolves ?_ .. | refine State.checkpoint_evolves ?_ ..
    | ((conv => arg 2; arg 25); refine Evolves.upd ?_ (fun h => h) rfl rfl rfl rfl) | dsimp only | split
    | refine Evolves.ofFst (by assumption) ?_ | refine Evolves.ofSnd (by assumption) ?_

theorem State.forget_evolves {s0 s : State} (h : Evolves s0 s) (l : List JEntry) : Evolves s0 (State.forget s l) := by
  unfold State.forget
  with_reducible repeat' first
    | assumption | exact Evolves.refl _ | refine State.setQueue_evolves ?_ ..
    | ((conv => arg 2; arg 25); refine Evolves.upd ?_ (fun h => h) rfl rfl rfl rfl)
    | refine Evolves.foldl _ _ (fun u x hu => ?_) ?_ | dsimp only | split | refine Evolves.ofFst (by assumption) ?_
    | refine Evolves.ofSnd (by assumption) ?_

theorem State.rememberAll_evolves {s0 s : State} (h : Evolves s0 s) (l : List JEntry) : Evolves s0 (State.rememberAll s l) := by
  unfold State.rememberAll
  with_reducible repeat' first
    | assumption | exact Evolves.refl _ | refine State.rememberSubmit_evolves ?_ ..
    | ((conv => arg 2; arg 25); refine Evolves.upd ?_ (fun h => h) rfl rfl rfl rfl)
    | refine Evolves.foldl _ _ (fun u x hu => ?_) ?_ | dsimp only | split | refine Evolves.ofFst (by assumption) ?_
    | refine Evolves.ofSnd (by assumption) ?_

theorem State.supersede_evolves {s0 s : State} (h : Evolves s0 s) (j : Nat) : Evolves s0 (State.supersede s j) := by
  unfold State.supersede
  with_reducible repeat' first
    | assumption | exact Evolves.refl _ | refine State.record_evolves ?_ .. | refine State.forget_evolves ?_ ..
    | ((conv => arg 2; arg 25); refine Evolves.upd ?_ (fun h => h) rfl rfl rfl rfl) | dsimp only | split

theorem State.putEntry_evolves {s0 s : State} (h : Evolves s0 s) (e : JEntry) : Evolves s0 (State.putEntry s e) := by
  unfold State.putEntry
  with_reducible repeat' first
    | assumption | exact Evolves.refl _ | refine State.seeGen_evolves ?_ .. | refine State.applyEntry_evolves ?_ ..
    | ((conv => arg 2; arg 25); refine Evolves.upd ?_ (fun h => h) rfl rfl rfl rfl) | dsimp only

theorem State.putEarly_evolves {s0 s : State} (h : Evolves s0 s) (a0 : Nat) : Evolves s0 (State.putEarly s a0) := by
  induction a0 generalizing s0 s with
  | zero =>
    rw [State.putEarly]
    with_reducible repeat' first
      | assumption | exact Evolves.refl _ | refine State.putEntry_evolves ?_ ..
      | ((conv => arg 2; arg 25); refine Evolves.upd ?_ (fun h => h) rfl rfl rfl rfl) | dsimp only | split
      | refine Evolves.ofFst (by assumption) ?_ | refine Evolves.ofSnd (by assumption) ?_
  | succ y ih =>
    rw [State.putEarly]
    with_reducible repeat' first
      | assumption | exact Evolves.refl _ | refine ih ?_ .. | refine State.putEntry_evolves ?_ ..
      | ((conv => arg 2; arg 25); refine Evolves.upd ?_ (fun h => h) rfl rfl rfl rfl) | dsimp only | split
      | refine Evolves.ofFst (by assumption) ?_ | refine Evolves.ofSnd (by assumption) ?_

theorem State.writeEntry_evolves {s0 s : State} (h : Evolves s0 s) (e : JEntry) : Evolves s0 (State.writeEntry s e) := by
  unfold State.writeEntry
  with_reducible repeat' first
    | assumption | exact Evolves.refl _ | refine State.supersede_evolves ?_ .. | refine State.putEntry_evolves ?_ ..
    | refine State.putEarly_evolves ?_ .. | ((conv => arg 2; arg 25); refine Evolves.upd ?_ (fun h => h) rfl rfl rfl rfl)
    | dsimp only | split | refine Evolves.ofFst (by assumption) ?_ | refine Evolves.ofSnd (by assumption) ?_

theorem State.replyReady_evolves {s0 s : State} (h : Evolves s0 s) : Evolves s0 (State.replyReady s) := by
  unfold State.replyReady
  with_reducible repeat' first
    | assumption | exact Evolves.refl _ | refine State.sendWb_evolves ?_ ..
    | ((conv => arg 2; arg 25); refine Evolves.upd ?_ (fun h => h) rfl rfl rfl rfl) | dsimp only | split

theorem execJournalRx_leads (crcOk : Bool) (msgSeq gen : Nat) (solo : Bool) (entries : List JEntry) (s : State) : Leads s (execJournalRx crcOk msgSeq gen solo entries s) := by
  unfold execJournalRx
  with_reducible repeat' first
    | refine State.fromPartner_leads _ _ fun u => ?_ | refine Leads.next ?_ | assumption | exact Evolves.refl _
    | refine State.sendWb_evolves ?_ .. | refine State.checkSeq_evolves ?_ .. | refine State.enterSync_evolves ?_ ..
    | refine State.writeEntry_evolves ?_ .. | refine State.replyReady_evolves ?_ ..
    | refine Evolves.foldl _ _ (fun u x hu => ?_) ?_ | dsimp only | split

theorem execJournalAckRx_leads (crcOk : Bool) (gen jsn : Nat) (s : State) : Leads s (execJournalAckRx crcOk gen jsn s) := by
  unfold execJournalAckRx
  with_reducible repeat' first
    | refine State.fromPartner_leads _ _ fun u => ?_ | refine Leads.next ?_ | assumption | exact Evolves.refl _
    | refine State.acceptReady_evolves ?_ .. | refine State.sendCommitted_evolves ?_ ..
    | ((conv => arg 2; arg 25); refine Evolves.upd ?_ (fun h => h) rfl rfl rfl rfl) | dsimp only | split

theorem execJournalStall_leads (s : State) : Leads s (execJournalStall s) := by
  unfold execJournalStall
  with_reducible repeat' first
    | refine Leads.next ?_ | assumption | exact Evolves.refl _ | refine State.record_evolves ?_ ..
    | refine State.setMode_evolves ?_ .. | refine State.dropPlanned_evolves ?_ .. | refine State.acceptReady_evolves ?_ ..
    | refine State.sendCommitted_evolves ?_ .. | ((conv => arg 2; arg 25); refine Evolves.upd ?_ (fun h => h) rfl rfl rfl rfl)
    | dsimp only | split

theorem State.request_evolves {s0 s : State} (h : Evolves s0 s) : Evolves s0 (State.request s) := by
  unfold State.request
  with_reducible repeat' first
    | assumption | exact Evolves.refl _ | refine State.sendRef_evolves ?_ ..
    | ((conv => arg 2; arg 25); refine Evolves.upd ?_ (fun h => h) rfl rfl rfl rfl) | dsimp only | split

theorem State.loseLease_evolves {s0 s : State} (h : Evolves s0 s) : Evolves s0 (State.loseLease s) := by
  unfold State.loseLease
  with_reducible repeat' first
    | assumption | exact Evolves.refl _ | refine State.raise_evolves ?_ .. | refine State.record_evolves ?_ ..
    | refine State.sendWb_evolves ?_ .. | ((conv => arg 2; arg 25); refine Evolves.upd ?_ (fun h => h) rfl rfl rfl rfl)
    | dsimp only | split

theorem State.refAnswered_evolves {s0 s : State} (h : Evolves s0 s) : Evolves s0 (State.refAnswered s) := by
  unfold State.refAnswered
  with_reducible repeat' first
    | assumption | exact Evolves.refl _ | refine State.raise_evolves ?_ ..
    | ((conv => arg 2; arg 25); refine Evolves.upd ?_ (fun h => h) rfl rfl rfl rfl) | dsimp only | split

theorem State.unshadow_evolves {s0 s : State} (h : Evolves s0 s) (o : Op) : Evolves s0 (State.unshadow s o) := by
  unfold State.unshadow
  with_reducible repeat' first
    | assumption | exact Evolves.refl _ | refine State.setQueue_evolves ?_ .. | refine State.writeCompletion_evolves ?_ ..
    | ((conv => arg 2; arg 25); refine Evolves.upd ?_ (fun h => h) rfl rfl rfl rfl) | dsimp only | split

theorem State.finishApplied_evolves {s0 s : State} (h : Evolves s0 s) (a0 : List (Nat × Nat × Nat)) :
    Evolves s0 (State.finishApplied s a0) := by
  induction a0 generalizing s0 s with
  | nil =>
    rw [State.finishApplied]
    with_reducible repeat' first
      | assumption | exact Evolves.refl _ | refine State.finish_evolves ?_ ..
      | ((conv => arg 2; arg 25); refine Evolves.upd ?_ (fun h => h) rfl rfl rfl rfl) | dsimp only | split
      | refine Evolves.ofFst (by assumption) ?_ | refine Evolves.ofSnd (by assumption) ?_
  | cons y ys ih =>
    rw [State.finishApplied]
    with_reducible repeat' first
      | assumption | exact Evolves.refl _ | refine ih ?_ .. | refine State.finish_evolves ?_ ..
      | ((conv => arg 2; arg 25); refine Evolves.upd ?_ (fun h => h) rfl rfl rfl rfl) | dsimp only | split
      | refine Evolves.ofFst (by assumption) ?_ | refine Evolves.ofSnd (by assumption) ?_

theorem State.cutOp_evolves {s : State} (w : WorkRef) (engine opcode : Nat) {f : Op → State → State}
    (hf : ∀ op, Evolves s (f op s)) : Evolves s (State.cutOp s w engine opcode f) := by
  unfold State.cutOp
  split
  · exact State.engineOp_evolves w engine opcode hf
  · split
    · exact State.engineOp_evolves _ engine opcode hf
    · split
      · exact Evolves.refl s
      · split
        · split
          · exact hf _
          · exact Evolves.refl s
        · exact Evolves.refl s

theorem State.finishCut_evolves {s0 s : State} (h : Evolves s0 s) (op : Op) (status result : Nat) (data : List Byte) :
    Evolves s0 (State.finishCut s op status result data) := by
  unfold State.finishCut
  with_reducible repeat' first
    | assumption | exact Evolves.refl _ | refine State.finish_evolves ?_ ..
    | ((conv => arg 2; arg 25); refine Evolves.upd ?_ (fun h => h) rfl rfl rfl rfl) | dsimp only | split
    | refine Evolves.ofFst (by assumption) ?_ | refine Evolves.ofSnd (by assumption) ?_

theorem State.takeDuties_evolves {s0 s : State} (h : Evolves s0 s) : Evolves s0 (State.takeDuties s) := by
  unfold State.takeDuties
  with_reducible repeat' first
    | assumption | exact Evolves.refl _ | refine State.acceptReady_evolves ?_ .. | refine State.postBuilt_evolves ?_ ..
    | refine State.sendAllOrdered_evolves ?_ .. | refine State.unshadow_evolves ?_ .. | refine State.finishApplied_evolves ?_ ..
    | ((conv => arg 2; arg 25); refine Evolves.upd ?_ (fun h => h) rfl rfl rfl rfl)
    | refine Evolves.foldl _ _ (fun u x hu => ?_) ?_ | dsimp only | split

theorem State.startPlant_evolves {s0 s : State} (h : Evolves s0 s) : Evolves s0 (State.startPlant s) := by
  unfold State.startPlant
  with_reducible repeat' first
    | assumption | exact Evolves.refl _ | refine State.record_evolves ?_ ..
    | ((conv => arg 2; arg 25); refine Evolves.upd ?_ (fun h => h) rfl rfl rfl rfl) | dsimp only | split
    | refine Evolves.ofFst (by assumption) ?_ | refine Evolves.ofSnd (by assumption) ?_

theorem State.endHandover_evolves {s0 s : State} (h : Evolves s0 s) : Evolves s0 (State.endHandover s) := by
  unfold State.endHandover
  with_reducible repeat' first
    | assumption | exact Evolves.refl _ | refine State.raise_evolves ?_ ..
    | ((conv => arg 2; arg 25); refine Evolves.upd ?_ (fun h => h) rfl rfl rfl rfl) | dsimp only

theorem State.drillPass_evolves {s0 s : State} (h : Evolves s0 s) : Evolves s0 (State.drillPass s) := by
  unfold State.drillPass
  with_reducible repeat' first
    | assumption | exact Evolves.refl _ | refine State.raise_evolves ?_ .. | refine State.record_evolves ?_ ..
    | ((conv => arg 2; arg 25); refine Evolves.upd ?_ (fun h => h) rfl rfl rfl rfl) | dsimp only

theorem State.drillHandedOver_evolves {s0 s : State} (h : Evolves s0 s) : Evolves s0 (State.drillHandedOver s) := by
  unfold State.drillHandedOver
  with_reducible repeat' first
    | assumption | exact Evolves.refl _ | refine State.drillPass_evolves ?_ ..
    | ((conv => arg 2; arg 25); refine Evolves.upd ?_ (fun h => h) rfl rfl rfl rfl) | dsimp only | split
    | refine Evolves.ofFst (by assumption) ?_ | refine Evolves.ofSnd (by assumption) ?_

theorem State.drillFail_evolves {s0 s : State} (h : Evolves s0 s) : Evolves s0 (State.drillFail s) := by
  unfold State.drillFail
  with_reducible repeat' first
    | assumption | exact Evolves.refl _ | refine State.raise_evolves ?_ .. | refine State.enterQuarantine_evolves ?_ ..
    | refine State.afterSettle_evolves ?_ .. | ((conv => arg 2; arg 25); refine Evolves.upd ?_ (fun h => h) rfl rfl rfl rfl)
    | dsimp only

theorem State.dropDrill_evolves {s0 s : State} (h : Evolves s0 s) : Evolves s0 (State.dropDrill s) := by
  unfold State.dropDrill
  with_reducible repeat' first
    | assumption | exact Evolves.refl _ | ((conv => arg 2; arg 25); refine Evolves.upd ?_ (fun h => h) rfl rfl rfl rfl)
    | dsimp only

theorem State.dropUpdate_evolves {s0 s : State} (h : Evolves s0 s) : Evolves s0 (State.dropUpdate s) := by
  unfold State.dropUpdate
  with_reducible repeat' first
    | assumption | exact Evolves.refl _ | refine State.finish_evolves ?_ ..
    | ((conv => arg 2; arg 25); refine Evolves.upd ?_ (fun h => h) rfl rfl rfl rfl) | dsimp only | split
    | refine Evolves.ofFst (by assumption) ?_ | refine Evolves.ofSnd (by assumption) ?_

theorem State.setHeld_evolves {s0 s : State} (h : Evolves s0 s) (gen : Nat) : Evolves s0 (State.setHeld s gen) := by
  unfold State.setHeld
  with_reducible repeat' first
    | assumption | exact Evolves.refl _ | refine State.raise_evolves ?_ ..
    | ((conv => arg 2; arg 25); refine Evolves.upd ?_ (fun h => h) rfl rfl rfl rfl) | dsimp only | split

theorem State.newGen_evolves {s0 s : State} (h : Evolves s0 s) (gen : Nat) : Evolves s0 (State.newGen s gen) := by
  unfold State.newGen
  with_reducible repeat' first
    | assumption | exact Evolves.refl _ | refine State.journalAdd_evolves ?_ ..
    | ((conv => arg 2; arg 25); refine Evolves.upd ?_ (fun h => h) rfl rfl rfl rfl) | dsimp only | split

theorem State.gained_evolves {s0 s : State} (h : Evolves s0 s) : Evolves s0 (State.gained s) := by
  unfold State.gained
  with_reducible repeat' first
    | assumption | exact Evolves.refl _ | refine State.raise_evolves ?_ .. | refine State.sendRef_evolves ?_ ..
    | refine State.sendWb_evolves ?_ .. | refine State.setMode_evolves ?_ .. | refine State.planIfDegraded_evolves ?_ ..
    | refine State.acceptReady_evolves ?_ .. | refine State.takeDuties_evolves ?_ .. | refine State.startPlant_evolves ?_ ..
    | refine State.endHandover_evolves ?_ .. | refine State.drillHandedOver_evolves ?_ .. | refine State.dropDrill_evolves ?_ ..
    | refine State.dropUpdate_evolves ?_ .. | ((conv => arg 2; arg 25); refine Evolves.upd ?_ (fun h => h) rfl rfl rfl rfl)
    | dsimp only | split | refine Evolves.ofFst (by assumption) ?_ | refine Evolves.ofSnd (by assumption) ?_

theorem execGrantRx_leads (checkOk : Bool) (seq gen ztermUs0 : Nat) (s : State) : Leads s (execGrantRx checkOk seq gen ztermUs0 s) := by
  unfold execGrantRx
  with_reducible repeat' first
    | refine Leads.next ?_ | assumption | exact Evolves.refl _ | refine State.afterSettle_evolves ?_ ..
    | refine State.safeIfLost_evolves ?_ .. | refine State.request_evolves ?_ .. | refine State.refAnswered_evolves ?_ ..
    | refine State.setHeld_evolves ?_ .. | refine State.newGen_evolves ?_ .. | refine State.gained_evolves ?_ ..
    | ((conv => arg 2; arg 25); refine Evolves.upd ?_ (fun h => h) rfl rfl rfl rfl) | dsimp only | split
    | refine Evolves.ofFst (by assumption) ?_ | refine Evolves.ofSnd (by assumption) ?_

theorem State.requestDenied_evolves {s0 s : State} (h : Evolves s0 s) : Evolves s0 (State.requestDenied s) := by
  unfold State.requestDenied
  with_reducible repeat' first
    | assumption | exact Evolves.refl _ | refine State.setMode_evolves ?_ .. | refine State.afterSettle_evolves ?_ ..
    | refine State.request_evolves ?_ .. | refine State.endHandover_evolves ?_ .. | refine State.drillFail_evolves ?_ ..
    | ((conv => arg 2; arg 25); refine Evolves.upd ?_ (fun h => h) rfl rfl rfl rfl) | dsimp only | split

theorem State.noteHolder_evolves {s0 s : State} (h : Evolves s0 s) (holder gen : Nat) :
    Evolves s0 (State.noteHolder s holder gen) := by
  unfold State.noteHolder
  with_reducible repeat' first
    | assumption | exact Evolves.refl _ | refine State.seeGen_evolves ?_ ..
    | ((conv => arg 2; arg 25); refine Evolves.upd ?_ (fun h => h) rfl rfl rfl rfl) | dsimp only

theorem execDenyRx_leads (checkOk : Bool) (seq zrstatus0 holder gen : Nat) (s : State) : Leads s (execDenyRx checkOk seq zrstatus0 holder gen s) := by
  unfold execDenyRx
  with_reducible repeat' first
    | refine Leads.next ?_ | assumption | exact Evolves.refl _ | refine State.request_evolves ?_ ..
    | refine State.refAnswered_evolves ?_ .. | refine State.requestDenied_evolves ?_ .. | refine State.noteHolder_evolves ?_ ..
    | ((conv => arg 2; arg 25); refine Evolves.upd ?_ (fun h => h) rfl rfl rfl rfl) | dsimp only | split
    | refine Evolves.ofFst (by assumption) ?_ | refine Evolves.ofSnd (by assumption) ?_

theorem State.sendGo_evolves {s0 s : State} (h : Evolves s0 s) : Evolves s0 (State.sendGo s) := by
  unfold State.sendGo
  with_reducible repeat' first
    | assumption | exact Evolves.refl _ | refine State.raise_evolves ?_ .. | refine State.sendWb_evolves ?_ ..
    | ((conv => arg 2; arg 25); refine Evolves.upd ?_ (fun h => h) rfl rfl rfl rfl) | dsimp only

theorem execStatusRx_leads (checkOk : Bool) (seq holder gen bootEpoch : Nat) (s : State) : Leads s (execStatusRx checkOk seq holder gen bootEpoch s) := by
  unfold execStatusRx
  with_reducible repeat' first
    | refine Leads.next ?_ | assumption | exact Evolves.refl _ | refine State.refAnswered_evolves ?_ ..
    | refine State.noteHolder_evolves ?_ .. | refine State.sendGo_evolves ?_ ..
    | ((conv => arg 2; arg 25); refine Evolves.upd ?_ (fun h => h) rfl rfl rfl rfl) | dsimp only | split
    | refine Evolves.ofFst (by assumption) ?_ | refine Evolves.ofSnd (by assumption) ?_

theorem State.askConsent_evolves {s0 s : State} (h : Evolves s0 s) : Evolves s0 (State.askConsent s) := by
  unfold State.askConsent
  with_reducible repeat' first
    | assumption | exact Evolves.refl _ | refine State.sendWb_evolves ?_ ..
    | ((conv => arg 2; arg 25); refine Evolves.upd ?_ (fun h => h) rfl rfl rfl rfl) | dsimp only | split

theorem execRenewTx_leads (s : State) : Leads s (execRenewTx s) := by
  unfold execRenewTx
  with_reducible repeat' first
    | refine Leads.next ?_ | assumption | exact Evolves.refl _ | refine State.sendRef_evolves ?_ ..
    | refine State.request_evolves ?_ .. | refine State.askConsent_evolves ?_ ..
    | ((conv => arg 2; arg 25); refine Evolves.upd ?_ (fun h => h) rfl rfl rfl rfl) | dsimp only | split
    | refine Evolves.ofFst (by assumption) ?_ | refine Evolves.ofSnd (by assumption) ?_

theorem State.abandonHandover_evolves {s0 s : State} (h : Evolves s0 s) : Evolves s0 (State.abandonHandover s) := by
  unfold State.abandonHandover
  with_reducible repeat' first
    | assumption | exact Evolves.refl _ | refine State.record_evolves ?_ .. | refine State.sendWb_evolves ?_ ..
    | refine State.setMode_evolves ?_ .. | refine State.afterSettle_evolves ?_ .. | refine State.dropFallback_evolves ?_ ..
    | refine State.acceptReady_evolves ?_ .. | refine State.endHandover_evolves ?_ .. | refine State.dropDrill_evolves ?_ ..
    | dsimp only

theorem execRefereeReplyTimeout_leads (s : State) : Leads s (execRefereeReplyTimeout s) := by
  unfold execRefereeReplyTimeout
  with_reducible repeat' first
    | refine Leads.next ?_ | assumption | exact Evolves.refl _ | refine State.emit_evolves ?_ ..
    | refine State.raise_evolves ?_ .. | refine State.record_evolves ?_ .. | refine State.endLease_evolves ?_ ..
    | refine State.request_evolves ?_ .. | refine State.requestDenied_evolves ?_ .. | refine State.askConsent_evolves ?_ ..
    | refine State.abandonHandover_evolves ?_ .. | ((conv => arg 2; arg 25); refine Evolves.upd ?_ (fun h => h) rfl rfl rfl rfl)
    | dsimp only | split | refine Evolves.ofFst (by assumption) ?_ | refine Evolves.ofSnd (by assumption) ?_

theorem execProbeTx_leads (s : State) : Leads s (execProbeTx s) := by
  unfold execProbeTx
  with_reducible repeat' first
    | refine Leads.next ?_ | assumption | exact Evolves.refl _ | refine State.sendRef_evolves ?_ .. | dsimp only | split

theorem State.askTakeover_evolves {s0 s : State} (h : Evolves s0 s) : Evolves s0 (State.askTakeover s) := by
  unfold State.askTakeover
  with_reducible repeat' first
    | assumption | exact Evolves.refl _ | refine State.raise_evolves ?_ .. | refine State.setMode_evolves ?_ ..
    | refine State.request_evolves ?_ .. | dsimp only | split

theorem execRequestRepeat_leads (s : State) : Leads s (execRequestRepeat s) := by
  unfold execRequestRepeat
  with_reducible repeat' first
    | refine Leads.next ?_ | assumption | exact Evolves.refl _ | refine State.request_evolves ?_ ..
    | refine State.askTakeover_evolves ?_ .. | ((conv => arg 2; arg 25); refine Evolves.upd ?_ (fun h => h) rfl rfl rfl rfl)
    | dsimp only | split | refine Evolves.ofFst (by assumption) ?_ | refine Evolves.ofSnd (by assumption) ?_

theorem execLeaseExpiry_leads (s : State) : Leads s (execLeaseExpiry s) := by
  unfold execLeaseExpiry
  with_reducible repeat' first
    | refine Leads.next ?_ | assumption | exact Evolves.refl _ | refine State.loseLease_evolves ?_ ..
    | ((conv => arg 2; arg 25); refine Evolves.upd ?_ (fun h => h) rfl rfl rfl rfl) | dsimp only | split
    | refine Evolves.ofFst (by assumption) ?_ | refine Evolves.ofSnd (by assumption) ?_

theorem execConsentAskRx_leads (crcOk : Bool) (gen termUs : Nat) (s : State) : Leads s (execConsentAskRx crcOk gen termUs s) := by
  unfold execConsentAskRx
  with_reducible repeat' first
    | refine State.fromPartner_leads _ _ fun u => ?_ | refine Leads.next ?_ | assumption | exact Evolves.refl _
    | refine State.sendWb_evolves ?_ .. | ((conv => arg 2; arg 25); refine Evolves.upd ?_ (fun h => h) rfl rfl rfl rfl)
    | dsimp only | split

theorem execConsentGiveRx_leads (crcOk : Bool) (gen termUs : Nat) (s : State) : Leads s (execConsentGiveRx crcOk gen termUs s) := by
  unfold execConsentGiveRx
  with_reducible repeat' first
    | refine State.fromPartner_leads _ _ fun u => ?_ | refine Leads.next ?_ | assumption | exact Evolves.refl _
    | ((conv => arg 2; arg 25); refine Evolves.upd ?_ (fun h => h) rfl rfl rfl rfl) | dsimp only | split

theorem execConsentRefuseRx_leads (crcOk : Bool) (gen : Nat) (s : State) : Leads s (execConsentRefuseRx crcOk gen s) := by
  unfold execConsentRefuseRx
  with_reducible repeat' first
    | refine State.fromPartner_leads _ _ fun u => ?_ | refine Leads.next ?_ | assumption | exact Evolves.refl _
    | ((conv => arg 2; arg 25); refine Evolves.upd ?_ (fun h => h) rfl rfl rfl rfl) | dsimp only | split

theorem execConsentLapse_leads (s : State) : Leads s (execConsentLapse s) := by
  unfold execConsentLapse
  with_reducible repeat' first
    | refine Leads.next ?_ | assumption | exact Evolves.refl _ | refine State.loseLease_evolves ?_ .. | dsimp only | split

theorem State.writeLeaseWd_evolves {s0 s : State} (h : Evolves s0 s) (v : Word) : Evolves s0 (State.writeLeaseWd s v) := by
  unfold State.writeLeaseWd
  with_reducible repeat' first
    | assumption | exact Evolves.refl _ | refine Evolves.refenced (Steady.upd (Evolves.toSteady ?_) (fun h => h) rfl rfl rfl)
    | refine State.refence_evolves ?_ .. | ((conv => arg 2; arg 25); refine Evolves.upd ?_ (fun h => h) rfl rfl rfl rfl)
    | dsimp only | split

theorem execLeaseWdWrite_leads (q : Requester) (v : Word) (s : State) : Leads s (execLeaseWdWrite q v s) := by
  unfold execLeaseWdWrite
  with_reducible repeat' first
    | refine Leads.next ?_ | assumption | exact Evolves.refl _ | refine State.writeLeaseWd_evolves ?_ ..
    | ((conv => arg 2; arg 25); refine Evolves.upd ?_ (fun h => h) rfl rfl rfl rfl) | dsimp only | split
    | refine Evolves.trans ?_ (State.writeBarred_evolves (by assumption)) | refine Evolves.ofFst (by assumption) ?_
    | refine Evolves.ofSnd (by assumption) ?_

theorem execFenceWdExpiry_leads (s : State) : Leads s (execFenceWdExpiry s) := by
  unfold execFenceWdExpiry
  with_reducible repeat' first
    | refine Leads.next ?_ | assumption | exact Evolves.refl _
    | refine Evolves.refenced (Steady.upd (Evolves.toSteady ?_) (fun h => h) rfl rfl rfl) | refine State.refence_evolves ?_ ..
    | ((conv => arg 2; arg 25); refine Evolves.upd ?_ (fun h => h) rfl rfl rfl rfl) | dsimp only

theorem State.writeHandover_evolves {s0 s : State} (h : Evolves s0 s) (v : Word) : Evolves s0 (State.writeHandover s v) := by
  unfold State.writeHandover
  with_reducible repeat' first
    | assumption | exact Evolves.refl _ | ((conv => arg 2; arg 25); refine Evolves.upd ?_ (fun h => h) rfl rfl rfl rfl)
    | dsimp only | split

theorem execHandoverPlan_leads (q : Requester) (v : Word) (s : State) : Leads s (execHandoverPlan q v s) := by
  unfold execHandoverPlan
  with_reducible repeat' first
    | refine Leads.next ?_ | assumption | exact Evolves.refl _ | refine State.writeHandover_evolves ?_ ..
    | ((conv => arg 2; arg 25); refine Evolves.upd ?_ (fun h => h) rfl rfl rfl rfl) | dsimp only | split
    | refine Evolves.trans ?_ (State.writeBarred_evolves (by assumption)) | refine Evolves.ofFst (by assumption) ?_
    | refine Evolves.ofSnd (by assumption) ?_

theorem execPlannedHandoverStart_leads (s : State) : Leads s (execPlannedHandoverStart s) := by
  unfold execPlannedHandoverStart
  with_reducible repeat' first
    | refine Leads.next ?_ | assumption | exact Evolves.refl _ | refine State.raise_evolves ?_ ..
    | refine State.sendWb_evolves ?_ .. | refine State.setMode_evolves ?_ .. | refine State.dropPlanned_evolves ?_ ..
    | ((conv => arg 2; arg 25); refine Evolves.upd ?_ (fun h => h) rfl rfl rfl rfl) | dsimp only | split

theorem execHandoverOfferRx_leads (crcOk : Bool) (gen jsn : Nat) (s : State) : Leads s (execHandoverOfferRx crcOk gen jsn s) := by
  unfold execHandoverOfferRx
  with_reducible repeat' first
    | refine State.fromPartner_leads _ _ fun u => ?_ | refine Leads.next ?_ | assumption | exact Evolves.refl _
    | refine State.replyReady_evolves ?_ .. | ((conv => arg 2; arg 25); refine Evolves.upd ?_ (fun h => h) rfl rfl rfl rfl)
    | dsimp only | split

theorem execHandoverReadyRx_leads (crcOk : Bool) (gen : Nat) (s : State) : Leads s (execHandoverReadyRx crcOk gen s) := by
  unfold execHandoverReadyRx
  with_reducible repeat' first
    | refine State.fromPartner_leads _ _ fun u => ?_ | refine Leads.next ?_ | assumption | exact Evolves.refl _
    | refine State.sendRef_evolves ?_ .. | ((conv => arg 2; arg 25); refine Evolves.upd ?_ (fun h => h) rfl rfl rfl rfl)
    | dsimp only | split

theorem execHandoverGoRx_leads (crcOk : Bool) (gen : Nat) (s : State) : Leads s (execHandoverGoRx crcOk gen s) := by
  unfold execHandoverGoRx
  with_reducible repeat' first
    | refine State.fromPartner_leads _ _ fun u => ?_ | refine Leads.next ?_ | assumption | exact Evolves.refl _
    | refine State.raise_evolves ?_ .. | refine State.setMode_evolves ?_ .. | refine State.request_evolves ?_ ..
    | ((conv => arg 2; arg 25); refine Evolves.upd ?_ (fun h => h) rfl rfl rfl rfl) | dsimp only | split

theorem State.stopServing_evolves {s0 s : State} (h : Evolves s0 s) : Evolves s0 (State.stopServing s) := by
  unfold State.stopServing
  with_reducible repeat' first
    | assumption | exact Evolves.refl _ | refine State.completeOps_evolves ?_ .. | refine State.settleOps_evolves ?_ ..
    | ((conv => arg 2; arg 25); refine Evolves.upd ?_ (fun h => h) rfl rfl rfl rfl) | dsimp only | split

theorem execHandoverDoneRx_leads (crcOk : Bool) (gen : Nat) (s : State) : Leads s (execHandoverDoneRx crcOk gen s) := by
  unfold execHandoverDoneRx
  with_reducible repeat' first
    | refine State.fromPartner_leads _ _ fun u => ?_ | refine Leads.next ?_ | assumption | exact Evolves.refl _
    | refine State.setMode_evolves ?_ .. | refine State.afterSettle_evolves ?_ .. | refine State.endHandover_evolves ?_ ..
    | refine State.drillHandedOver_evolves ?_ .. | refine State.stopServing_evolves ?_ .. | dsimp only | split

theorem execHandoverAbandonRx_leads (crcOk : Bool) (gen : Nat) (s : State) : Leads s (execHandoverAbandonRx crcOk gen s) := by
  unfold execHandoverAbandonRx
  with_reducible repeat' first
    | refine State.fromPartner_leads _ _ fun u => ?_ | refine Leads.next ?_ | assumption | exact Evolves.refl _
    | refine State.setMode_evolves ?_ .. | refine State.afterSettle_evolves ?_ .. | refine State.request_evolves ?_ ..
    | refine State.endHandover_evolves ?_ .. | refine State.drillFail_evolves ?_ .. | refine State.askTakeover_evolves ?_ ..
    | ((conv => arg 2; arg 25); refine Evolves.upd ?_ (fun h => h) rfl rfl rfl rfl) | dsimp only | split

theorem execHandoverReadyTimeout_leads (s : State) : Leads s (execHandoverReadyTimeout s) := by
  unfold execHandoverReadyTimeout
  with_reducible repeat' first
    | refine Leads.next ?_ | assumption | exact Evolves.refl _ | refine State.abandonHandover_evolves ?_ .. | dsimp only | split

theorem execPowerFailNoticeRx_leads (crcOk : Bool) (gen jsn : Nat) (s : State) : Leads s (execPowerFailNoticeRx crcOk gen jsn s) := by
  unfold execPowerFailNoticeRx
  with_reducible repeat' first
    | refine State.fromPartner_leads _ _ fun u => ?_ | refine Leads.next ?_ | assumption | exact Evolves.refl _
    | ((conv => arg 2; arg 25); refine Evolves.upd ?_ (fun h => h) rfl rfl rfl rfl) | dsimp only | split

theorem execHeartbeatTx_leads (s : State) : Leads s (execHeartbeatTx s) := by
  unfold execHeartbeatTx
  with_reducible repeat' first
    | refine Leads.next ?_ | assumption | exact Evolves.refl _ | refine State.sendWb_evolves ?_ ..
    | ((conv => arg 2; arg 25); refine Evolves.upd ?_ (fun h => h) rfl rfl rfl rfl) | dsimp only

theorem State.becomeStarter_evolves {s0 s : State} (h : Evolves s0 s) : Evolves s0 (State.becomeStarter s) := by
  unfold State.becomeStarter
  with_reducible repeat' first
    | assumption | exact Evolves.refl _ | refine Evolves.refenced (Steady.upd (Evolves.toSteady ?_) (fun h => h) rfl rfl rfl)
    | refine State.refence_evolves ?_ .. | refine State.request_evolves ?_ ..
    | ((conv => arg 2; arg 25); refine Evolves.upd ?_ (fun h => h) rfl rfl rfl rfl) | dsimp only

theorem State.decidePlant_evolves {s0 s : State} (h : Evolves s0 s) (hb : HbBody) : Evolves s0 (State.decidePlant s hb) := by
  unfold State.decidePlant
  with_reducible repeat' first
    | assumption | exact Evolves.refl _ | refine State.sendRef_evolves ?_ .. | refine State.enterSync_evolves ?_ ..
    | refine State.request_evolves ?_ .. | refine State.becomeStarter_evolves ?_ .. | dsimp only | split

theorem State.enterCocoon_evolves {s0 s : State} (h : Evolves s0 s) (former : Bool) :
    Evolves s0 (State.enterCocoon s former) := by
  unfold State.enterCocoon
  with_reducible repeat' first
    | assumption | exact Evolves.refl _ | refine State.flushLog_evolves ?_ .. | refine State.setMode_evolves ?_ ..
    | refine State.hostOff_evolves ?_ .. | ((conv => arg 2; arg 25); refine Evolves.upd ?_ (fun h => h) rfl rfl rfl rfl)
    | dsimp only

theorem State.cocoonGo_evolves {s0 s : State} (h : Evolves s0 s) : Evolves s0 (State.cocoonGo s) := by
  unfold State.cocoonGo
  with_reducible repeat' first
    | assumption | exact Evolves.refl _ | refine State.flushLog_evolves ?_ .. | refine State.sendRef_evolves ?_ ..
    | refine State.checkpoint_evolves ?_ .. | refine State.finishCut_evolves ?_ .. | refine State.enterCocoon_evolves ?_ ..
    | ((conv => arg 2; arg 25); refine Evolves.upd ?_ (fun h => h) rfl rfl rfl rfl) | dsimp only | split
    | refine Evolves.ofFst (by assumption) ?_ | refine Evolves.ofSnd (by assumption) ?_

theorem State.heardPartner_evolves {s0 s : State} (h : Evolves s0 s) (hb : HbBody) : Evolves s0 (State.heardPartner s hb) := by
  unfold State.heardPartner
  with_reducible repeat' first
    | assumption | exact Evolves.refl _ | refine State.sendRef_evolves ?_ .. | refine State.sendWb_evolves ?_ ..
    | refine State.setMode_evolves ?_ .. | refine State.enterSafeHold_evolves ?_ .. | refine State.planIfDegraded_evolves ?_ ..
    | refine State.enterSync_evolves ?_ .. | refine State.request_evolves ?_ .. | refine State.stopServing_evolves ?_ ..
    | refine State.decidePlant_evolves ?_ .. | refine State.enterCocoon_evolves ?_ ..
    | ((conv => arg 2; arg 25); refine Evolves.upd ?_ (fun h => h) rfl rfl rfl rfl) | dsimp only | split
    | refine Evolves.ofFst (by assumption) ?_ | refine Evolves.ofSnd (by assumption) ?_

theorem execHeartbeatRx_leads (crcOk : Bool) (hb : HbBody) (s : State) : Leads s (execHeartbeatRx crcOk hb s) := by
  unfold execHeartbeatRx
  with_reducible repeat' first
    | refine Leads.next ?_ | assumption | exact Evolves.refl _ | refine State.raise_evolves ?_ ..
    | refine State.seeGen_evolves ?_ .. | refine State.heardPartner_evolves ?_ ..
    | ((conv => arg 2; arg 25); refine Evolves.upd ?_ (fun h => h) rfl rfl rfl rfl) | dsimp only | split

theorem execHeartbeatMissed_leads (s : State) : Leads s (execHeartbeatMissed s) := by
  unfold execHeartbeatMissed
  with_reducible repeat' first
    | refine Leads.next ?_ | assumption | exact Evolves.refl _ | refine State.raise_evolves ?_ ..
    | refine State.sendRef_evolves ?_ .. | refine State.guaranteeBroken_evolves ?_ .. | refine State.askTakeover_evolves ?_ ..
    | refine State.enterCocoon_evolves ?_ .. | ((conv => arg 2; arg 25); refine Evolves.upd ?_ (fun h => h) rfl rfl rfl rfl)
    | dsimp only | split | refine Evolves.ofFst (by assumption) ?_ | refine Evolves.ofSnd (by assumption) ?_

theorem execHelloTx_leads (s : State) : Leads s (execHelloTx s) := by
  unfold execHelloTx
  with_reducible repeat' first
    | refine Leads.next ?_ | assumption | exact Evolves.refl _ | refine State.sendWb_evolves ?_ .. | dsimp only

theorem State.judgeHello_evolves {s0 s : State} (h : Evolves s0 s) (h : HelloBody) : Evolves s0 (State.judgeHello s h) := by
  unfold State.judgeHello
  with_reducible repeat' first
    | assumption | exact Evolves.refl _ | refine State.enterQuarantine_evolves ?_ .. | dsimp only | split
    | refine Evolves.ofFst (by assumption) ?_ | refine Evolves.ofSnd (by assumption) ?_

theorem execHelloRx_leads (crcOk : Bool) (gen : Nat) (h : HelloBody) (s : State) : Leads s (execHelloRx crcOk gen h s) := by
  unfold execHelloRx
  with_reducible repeat' first
    | refine State.fromPartner_leads _ _ fun u => ?_ | refine Leads.next ?_ | assumption | exact Evolves.refl _
    | refine State.record_evolves ?_ .. | refine State.judgeHello_evolves ?_ ..
    | ((conv => arg 2; arg 25); refine Evolves.upd ?_ (fun h => h) rfl rfl rfl rfl) | dsimp only | split
    | refine Evolves.ofFst (by assumption) ?_ | refine Evolves.ofSnd (by assumption) ?_

theorem State.noteEpochs_evolves {s0 s : State} (h : Evolves s0 s) (es : List ManEntry) (cut : Nat) :
    Evolves s0 (State.noteEpochs s es cut) := by
  unfold State.noteEpochs
  with_reducible repeat' first
    | assumption | exact Evolves.refl _ | ((conv => arg 2; arg 25); refine Evolves.upd ?_ (fun h => h) rfl rfl rfl rfl)
    | refine Evolves.foldl _ _ (fun u x hu => ?_) ?_ | dsimp only | split

theorem State.sendStep_evolves {s0 s : State} (h : Evolves s0 s) : Evolves s0 (State.sendStep s) := by
  unfold State.sendStep
  with_reducible repeat' first
    | assumption | exact Evolves.refl _ | refine State.sendWb_evolves ?_ ..
    | ((conv => arg 2; arg 25); refine Evolves.upd ?_ (fun h => h) rfl rfl rfl rfl) | dsimp only | split
    | refine Evolves.ofFst (by assumption) ?_ | refine Evolves.ofSnd (by assumption) ?_

theorem State.admitReturning_evolves {s0 s : State} (h : Evolves s0 s) : Evolves s0 (State.admitReturning s) := by
  unfold State.admitReturning
  with_reducible repeat' first
    | assumption | exact Evolves.refl _ | refine State.record_evolves ?_ .. | refine State.sendStep_evolves ?_ ..
    | ((conv => arg 2; arg 25); refine Evolves.upd ?_ (fun h => h) rfl rfl rfl rfl) | dsimp only | split
    | refine Evolves.ofFst (by assumption) ?_ | refine Evolves.ofSnd (by assumption) ?_

theorem execResyncStep_leads (ok : Bool) (s : State) : Leads s (execResyncStep ok s) := by
  unfold execResyncStep
  with_reducible repeat' first
    | refine Leads.next ?_ | assumption | exact Evolves.refl _ | refine State.setMode_evolves ?_ ..
    | refine State.acceptReady_evolves ?_ .. | refine State.sendStep_evolves ?_ .. | refine State.admitReturning_evolves ?_ ..
    | ((conv => arg 2; arg 25); refine Evolves.upd ?_ (fun h => h) rfl rfl rfl rfl) | dsimp only | split

theorem execWbLaneDown_leads (l : Nat) (s : State) : Leads s (execWbLaneDown l s) := by
  unfold execWbLaneDown
  with_reducible repeat' first
    | refine Leads.next ?_ | assumption | exact Evolves.refl _ | refine State.raise_evolves ?_ ..
    | ((conv => arg 2; arg 25); refine Evolves.upd ?_ (fun h => h) rfl rfl rfl rfl) | dsimp only | split

theorem execWbLaneUp_leads (l : Nat) (s : State) : Leads s (execWbLaneUp l s) := by
  unfold execWbLaneUp
  with_reducible repeat' first
    | refine Leads.next ?_ | assumption | exact Evolves.refl _ | refine State.raise_evolves ?_ ..
    | refine State.sendWb_evolves ?_ .. | ((conv => arg 2; arg 25); refine Evolves.upd ?_ (fun h => h) rfl rfl rfl rfl)
    | dsimp only | split

theorem execPartnerPresentChange_leads (present : Bool) (s : State) : Leads s (execPartnerPresentChange present s) := by
  unfold execPartnerPresentChange
  with_reducible repeat' first
    | refine Leads.next ?_ | assumption | exact Evolves.refl _
    | ((conv => arg 2; arg 25); refine Evolves.upd ?_ (fun h => h) rfl rfl rfl rfl) | dsimp only

theorem State.nextDrill_evolves {s0 s : State} (h : Evolves s0 s) : Evolves s0 (State.nextDrill s) := by
  unfold State.nextDrill
  with_reducible repeat' first
    | assumption | exact Evolves.refl _ | refine State.setReg_evolves ?_ .. | dsimp only | split

theorem State.drillNow_evolves {s0 s : State} (h : Evolves s0 s) : Evolves s0 (State.drillNow s) := by
  unfold State.drillNow
  with_reducible repeat' first
    | assumption | exact Evolves.refl _ | refine State.raise_evolves ?_ .. | refine State.record_evolves ?_ ..
    | ((conv => arg 2; arg 25); refine Evolves.upd ?_ (fun h => h) rfl rfl rfl rfl) | dsimp only | split

theorem execDrillDue_leads (s : State) : Leads s (execDrillDue s) := by
  unfold execDrillDue
  with_reducible repeat' first
    | refine Leads.next ?_ | assumption | exact Evolves.refl _ | refine State.nextDrill_evolves ?_ ..
    | refine State.drillNow_evolves ?_ .. | ((conv => arg 2; arg 25); refine Evolves.upd ?_ (fun h => h) rfl rfl rfl rfl)
    | dsimp only | split

theorem execDrillDwellEnd_leads (s : State) : Leads s (execDrillDwellEnd s) := by
  unfold execDrillDwellEnd
  with_reducible repeat' first
    | refine Leads.next ?_ | assumption | exact Evolves.refl _
    | ((conv => arg 2; arg 25); refine Evolves.upd ?_ (fun h => h) rfl rfl rfl rfl) | dsimp only | split

theorem State.setServed_evolves {s0 s : State} (h : Evolves s0 s) (p : RefPair) : Evolves s0 (State.setServed s p) := by
  unfold State.setServed
  with_reducible repeat' first
    | assumption | exact Evolves.refl _ | refine State.journalAdd_evolves ?_ ..
    | ((conv => arg 2; arg 25); refine Evolves.upd ?_ (fun h => h) rfl rfl rfl rfl) | dsimp only

theorem State.reply_evolves {s0 s : State} (h : Evolves s0 s) (m : RefMsg) (p : RefPair) (type : RefType) (rstatus term epoch : Nat) :
    Evolves s0 (State.reply s m p type rstatus term epoch) := by
  unfold State.reply
  with_reducible repeat' first
    | assumption | exact Evolves.refl _ | refine State.emit_evolves ?_ .. | refine State.setServed_evolves ?_ ..
    | ((conv => arg 2; arg 25); refine Evolves.upd ?_ (fun h => h) rfl rfl rfl rfl) | dsimp only

theorem State.grantTo_evolves {s0 s : State} (h : Evolves s0 s) (m : RefMsg) (p : RefPair) (gen : Nat) :
    Evolves s0 (State.grantTo s m p gen) := by
  unfold State.grantTo
  with_reducible repeat' first
    | assumption | exact Evolves.refl _ | refine State.reply_evolves ?_ ..
    | ((conv => arg 2; arg 25); refine Evolves.upd ?_ (fun h => h) rfl rfl rfl rfl) | dsimp only | split

theorem State.referee_evolves {s0 s : State} (h : Evolves s0 s) (m : RefMsg) (p : RefPair) :
    Evolves s0 (State.referee s m p) := by
  unfold State.referee
  with_reducible repeat' first
    | assumption | exact Evolves.refl _ | refine State.request_evolves ?_ .. | refine State.setServed_evolves ?_ ..
    | refine State.reply_evolves ?_ .. | refine State.grantTo_evolves ?_ ..
    | ((conv => arg 2; arg 25); first | refine Evolves.upd ?_ (fun h => h) rfl rfl rfl rfl | refine Evolves.ofFenced (Steady.upd (Evolves.toSteady ?_) (fun h => h) rfl rfl rfl) rfl)
    | dsimp only | split | refine Evolves.ofFst (by assumption) ?_ | refine Evolves.ofSnd (by assumption) ?_

theorem State.refereeTakes_evolves {s0 s : State} (h : Evolves s0 s) (x : RefMsg × Bool) :
    Evolves s0 (State.refereeTakes s x) := by
  unfold State.refereeTakes
  with_reducible repeat' first
    | assumption | exact Evolves.refl _ | refine State.referee_evolves ?_ .. | dsimp only | split
    | refine Evolves.ofFst (by assumption) ?_ | refine Evolves.ofSnd (by assumption) ?_

theorem execRefereeMsgRx_leads (m : RefMsg) (checkOk : Bool) (same : Option (RefMsg × Bool)) (s : State) : Leads s (execRefereeMsgRx m checkOk same s) := by
  unfold execRefereeMsgRx
  with_reducible repeat' first
    | refine Leads.next ?_ | assumption | exact Evolves.refl _ | refine State.refereeTakes_evolves ?_ ..
    | ((conv => arg 2; arg 25); refine Evolves.upd ?_ (fun h => h) rfl rfl rfl rfl) | dsimp only | split
    | refine Evolves.ofFst (by assumption) ?_ | refine Evolves.ofSnd (by assumption) ?_

theorem execRefereeStartupHoldEnd_leads (s : State) : Leads s (execRefereeStartupHoldEnd s) := by
  unfold execRefereeStartupHoldEnd
  with_reducible repeat' first
    | refine Leads.next ?_ | assumption | exact Evolves.refl _
    | ((conv => arg 2; arg 25); refine Evolves.upd ?_ (fun h => h) rfl rfl rfl rfl) | dsimp only

end Sys2Proof.Machine
end

