-- ==== Sys2Proof/Laws/Evolve/Cores.lean ====
section
/-! SUPPORT. The operations of Machine/Cores.lean keep what the relation `Evolves` says. -/

namespace Sys2Proof.Machine

theorem State.setPair_evolves {s0 s : State} (h : Evolves s0 s) (k : Nat) (f : PairSt → PairSt) :
    Evolves s0 (State.setPair s k f) := by
  unfold State.setPair
  with_reducible repeat' first
    | assumption | exact Evolves.refl _ | ((conv => arg 2; arg 25); refine Evolves.upd ?_ (fun h => h) rfl rfl rfl rfl)
    | dsimp only

theorem State.moveService_evolves {s0 s : State} (h : Evolves s0 s) (contained second : Bool) :
    Evolves s0 (State.moveService s contained second) := by
  unfold State.moveService
  with_reducible repeat' first
    | assumption | exact Evolves.refl _ | refine State.dropFence_evolves ?_ .. | refine State.restart_evolves ?_ ..
    | ((conv => arg 2; arg 25); refine Evolves.upd ?_ (fun h => h) rfl rfl rfl rfl) | dsimp only | split

theorem State.mismatch_evolves {s0 s : State} (h : Evolves s0 s) (k cause : Nat) (args : List Nat) (contained : Bool) :
    Evolves s0 (State.mismatch s k cause args contained) := by
  unfold State.mismatch
  with_reducible repeat' first
    | assumption | exact Evolves.refl _ | refine State.raise_evolves ?_ .. | refine State.record_evolves ?_ ..
    | refine State.loseUnit_evolves ?_ .. | refine State.setPair_evolves ?_ .. | refine State.moveService_evolves ?_ ..
    | ((conv => arg 2; arg 25); refine Evolves.upd ?_ (fun h => h) rfl rfl rfl rfl) | dsimp only | split
    | refine Evolves.ofFst (by assumption) ?_ | refine Evolves.ofSnd (by assumption) ?_

theorem execLockstepMismatch_leads (pair cause port v1 v2 pc : Nat) (s : State) : Leads s (execLockstepMismatch pair cause port v1 v2 pc s) := by
  unfold execLockstepMismatch
  with_reducible repeat' first
    | refine Leads.next ?_ | assumption | exact Evolves.refl _ | refine State.mismatch_evolves ?_ .. | dsimp only | split
    | refine Evolves.ofFst (by assumption) ?_ | refine Evolves.ofSnd (by assumption) ?_

theorem execComparatorSelftest_leads (pair : Nat) (detected : Bool) (s : State) : Leads s (execComparatorSelftest pair detected s) := by
  unfold execComparatorSelftest
  with_reducible repeat' first
    | refine Leads.next ?_ | assumption | exact Evolves.refl _ | refine State.record_evolves ?_ ..
    | refine State.mismatch_evolves ?_ .. | dsimp only | split | refine Evolves.ofFst (by assumption) ?_
    | refine Evolves.ofSnd (by assumption) ?_

theorem execCoreSelftestDone_leads (pair : Nat) (pass : Bool) (s : State) : Leads s (execCoreSelftestDone pair pass s) := by
  unfold execCoreSelftestDone
  with_reducible repeat' first
    | refine Leads.next ?_ | assumption | exact Evolves.refl _ | refine State.record_evolves ?_ ..
    | refine State.clearUnit_evolves ?_ .. | refine State.setPair_evolves ?_ ..
    | ((conv => arg 2; arg 25); refine Evolves.upd ?_ (fun h => h) rfl rfl rfl rfl) | dsimp only | split
    | refine Evolves.ofFst (by assumption) ?_ | refine Evolves.ofSnd (by assumption) ?_

theorem State.writeMpuCtrl_evolves {s0 s : State} (h : Evolves s0 s) (q : Requester) (m : Nat) (v : Word) :
    Evolves s0 (State.writeMpuCtrl s q m v) := by
  unfold State.writeMpuCtrl
  with_reducible repeat' first
    | assumption | exact Evolves.refl _ | refine State.refuseWrite_evolves ?_ ..
    | ((conv => arg 2; arg 25); refine Evolves.upd ?_ (fun h => h) rfl rfl rfl rfl) | dsimp only | split
    | refine Evolves.ofFst (by assumption) ?_ | refine Evolves.ofSnd (by assumption) ?_

theorem execMpuSync_leads (q : Requester) (m : Nat) (s : State) : Leads s (execMpuSync q m s) := by
  unfold execMpuSync
  with_reducible repeat' first
    | refine Leads.next ?_ | assumption | exact Evolves.refl _ | refine State.writeMpuCtrl_evolves ?_ ..
    | ((conv => arg 2; arg 25); refine Evolves.upd ?_ (fun h => h) rfl rfl rfl rfl) | dsimp only | split
    | refine Evolves.trans ?_ (State.writeBarred_evolves (by assumption)) | refine Evolves.ofFst (by assumption) ?_
    | refine Evolves.ofSnd (by assumption) ?_

theorem execMpuSyncDone_leads (m : Nat) (s : State) : Leads s (execMpuSyncDone m s) := by
  unfold execMpuSyncDone
  with_reducible repeat' first
    | refine Leads.next ?_ | assumption | exact Evolves.refl _
    | ((conv => arg 2; arg 25); refine Evolves.upd ?_ (fun h => h) rfl rfl rfl rfl) | dsimp only | split

theorem execMpuDrainDone_leads (m : Nat) (s : State) : Leads s (execMpuDrainDone m s) := by
  unfold execMpuDrainDone
  with_reducible repeat' first
    | refine Leads.next ?_ | assumption | exact Evolves.refl _
    | ((conv => arg 2; arg 25); refine Evolves.upd ?_ (fun h => h) rfl rfl rfl rfl) | dsimp only | split

theorem State.haltPair_evolves {s0 s : State} (h : Evolves s0 s) (k : Nat) : Evolves s0 (State.haltPair s k) := by
  unfold State.haltPair
  with_reducible repeat' first
    | assumption | exact Evolves.refl _ | refine State.denyDebug_evolves ?_ .. | refine State.setPair_evolves ?_ ..
    | ((conv => arg 2; arg 25); refine Evolves.upd ?_ (fun h => h) rfl rfl rfl rfl) | dsimp only | split

theorem execDebugHalt_leads (pair : Nat) (s : State) : Leads s (execDebugHalt pair s) := by
  unfold execDebugHalt
  with_reducible repeat' first
    | refine Leads.next ?_ | assumption | exact Evolves.refl _ | refine State.haltPair_evolves ?_ .. | dsimp only

theorem State.relock_evolves {s0 s : State} (h : Evolves s0 s) : Evolves s0 (State.relock s) := by
  unfold State.relock
  with_reducible repeat' first
    | assumption | exact Evolves.refl _ | refine State.record_evolves ?_ ..
    | ((conv => arg 2; arg 25); refine Evolves.upd ?_ (fun h => h) rfl rfl rfl rfl) | dsimp only | split

theorem execDebugRelock_leads (q : Requester) (s : State) : Leads s (execDebugRelock q s) := by
  unfold execDebugRelock
  with_reducible repeat' first
    | refine Leads.next ?_ | assumption | exact Evolves.refl _ | refine State.relock_evolves ?_ ..
    | ((conv => arg 2; arg 25); refine Evolves.upd ?_ (fun h => h) rfl rfl rfl rfl) | dsimp only | split
    | refine Evolves.trans ?_ (State.writeBarred_evolves (by assumption)) | refine Evolves.ofFst (by assumption) ?_
    | refine Evolves.ofSnd (by assumption) ?_

end Sys2Proof.Machine
end

