-- ==== Sys2Proof/Laws/Evolve/FieldIo.lean ====
section
/-! SUPPORT. The operations of Machine/FieldIo.lean keep what the relation `Evolves` says. -/

namespace Sys2Proof.Machine

theorem State.setDiSt_evolves {s0 s : State} (h : Evolves s0 s) (n : Nat) (f : DiSt → DiSt) :
    Evolves s0 (State.setDiSt s n f) := by
  unfold State.setDiSt
  with_reducible repeat' first
    | assumption | exact Evolves.refl _ | ((conv => arg 2; arg 25); refine Evolves.upd ?_ (fun h => h) rfl rfl rfl rfl)
    | dsimp only

theorem State.setAiSt_evolves {s0 s : State} (h : Evolves s0 s) (n : Nat) (f : AiSt → AiSt) :
    Evolves s0 (State.setAiSt s n f) := by
  unfold State.setAiSt
  with_reducible repeat' first
    | assumption | exact Evolves.refl _ | ((conv => arg 2; arg 25); refine Evolves.upd ?_ (fun h => h) rfl rfl rfl rfl)
    | dsimp only

theorem State.setNoSupply_evolves {s0 s : State} (h : Evolves s0 s) (privileged lost : Bool) :
    Evolves s0 (State.setNoSupply s privileged lost) := by
  unfold State.setNoSupply
  with_reducible repeat' first
    | assumption | exact Evolves.refl _ | refine State.setDoSt_evolves ?_ ..
    | ((conv => arg 2; arg 25); refine Evolves.upd ?_ (fun h => h) rfl rfl rfl rfl)
    | refine Evolves.foldl _ _ (fun u x hu => ?_) ?_ | dsimp only | split

theorem State.aoFault_evolves {s0 s : State} (h : Evolves s0 s) (n flag : Nat) : Evolves s0 (State.aoFault s n flag) := by
  unfold State.aoFault
  with_reducible repeat' first
    | assumption | exact Evolves.refl _ | refine State.raise_evolves ?_ .. | refine State.record_evolves ?_ .. | dsimp only

theorem execFieldSupplyLost_leads (privileged : Bool) (volt : Nat) (s : State) : Leads s (execFieldSupplyLost privileged volt s) := by
  unfold execFieldSupplyLost
  with_reducible repeat' first
    | refine Leads.next ?_ | assumption | exact Evolves.refl _ | refine State.raise_evolves ?_ ..
    | refine State.record_evolves ?_ .. | refine State.setNoSupply_evolves ?_ .. | refine State.aoFault_evolves ?_ ..
    | ((conv => arg 2; arg 25); refine Evolves.upd ?_ (fun h => h) rfl rfl rfl rfl)
    | refine Evolves.foldl _ _ (fun u x hu => ?_) ?_ | dsimp only | split

theorem execFieldSupplyGood_leads (privileged : Bool) (volt : Nat) (s : State) : Leads s (execFieldSupplyGood privileged volt s) := by
  unfold execFieldSupplyGood
  with_reducible repeat' first
    | refine Leads.next ?_ | assumption | exact Evolves.refl _ | refine State.setNoSupply_evolves ?_ ..
    | ((conv => arg 2; arg 25); refine Evolves.upd ?_ (fun h => h) rfl rfl rfl rfl) | dsimp only | split

theorem execDiFilterChange_leads (n : Nat) (level : Bool) (stamp : Nat) (s : State) : Leads s (execDiFilterChange n level stamp s) := by
  unfold execDiFilterChange
  with_reducible repeat' first
    | refine Leads.next ?_ | assumption | exact Evolves.refl _ | refine State.record_evolves ?_ ..
    | refine State.setDiSt_evolves ?_ .. | ((conv => arg 2; arg 25); refine Evolves.upd ?_ (fun h => h) rfl rfl rfl rfl)
    | dsimp only | split

theorem State.takeDi_evolves {s0 s : State} (h : Evolves s0 s) (bits : Nat) : Evolves s0 (State.takeDi s bits) := by
  unfold State.takeDi
  with_reducible repeat' first
    | assumption | exact Evolves.refl _ | ((conv => arg 2; arg 25); refine Evolves.upd ?_ (fun h => h) rfl rfl rfl rfl)
    | dsimp only | split

theorem State.diDiverge_evolves {s0 s : State} (h : Evolves s0 s) (holder n : Nat) : Evolves s0 (State.diDiverge s holder n) := by
  unfold State.diDiverge
  with_reducible repeat' first
    | assumption | exact Evolves.refl _ | refine State.raise_evolves ?_ .. | refine State.record_evolves ?_ ..
    | refine State.setDiSt_evolves ?_ .. | ((conv => arg 2; arg 25); refine Evolves.upd ?_ (fun h => h) rfl rfl rfl rfl)
    | dsimp only | split

theorem State.doFlag_evolves {s0 s : State} (h : Evolves s0 s) (n flag : Nat) : Evolves s0 (State.doFlag s n flag) := by
  unfold State.doFlag
  with_reducible repeat' first
    | assumption | exact Evolves.refl _ | refine State.raise_evolves ?_ .. | refine State.record_evolves ?_ ..
    | refine State.setDoSt_evolves ?_ .. | refine State.mismatch_evolves ?_ ..
    | ((conv => arg 2; arg 25); refine Evolves.upd ?_ (fun h => h) rfl rfl rfl rfl) | dsimp only | split
    | refine Evolves.ofFst (by assumption) ?_ | refine Evolves.ofSnd (by assumption) ?_

theorem State.extDrive_evolves {s0 s : State} (h : Evolves s0 s) (n : Nat) : Evolves s0 (State.extDrive s n) := by
  unfold State.extDrive
  with_reducible repeat' first
    | assumption | exact Evolves.refl _ | refine State.doFlag_evolves ?_ ..
    | ((conv => arg 2; arg 25); refine Evolves.upd ?_ (fun h => h) rfl rfl rfl rfl) | dsimp only | split

theorem execDoFault_leads (n : Nat) (high atLimit : Bool) (s : State) : Leads s (execDoFault n high atLimit s) := by
  unfold execDoFault
  with_reducible repeat' first
    | refine Leads.next ?_ | assumption | exact Evolves.refl _ | refine State.setDoSt_evolves ?_ ..
    | refine State.doFlag_evolves ?_ .. | refine State.extDrive_evolves ?_ ..
    | ((conv => arg 2; arg 25); refine Evolves.upd ?_ (fun h => h) rfl rfl rfl rfl) | dsimp only | split

theorem execDarkTest_leads (n : Nat) (s : State) : Leads s (execDarkTest n s) := by
  unfold execDarkTest
  with_reducible repeat' first
    | refine Leads.next ?_ | assumption | exact Evolves.refl _ | refine State.setDoSt_evolves ?_ ..
    | ((conv => arg 2; arg 25); refine Evolves.upd ?_ (fun h => h) rfl rfl rfl rfl) | dsimp only | split

theorem execDarkTestEnd_leads (n : Nat) (fellLow : Bool) (alsoFell : List Nat) (s : State) : Leads s (execDarkTestEnd n fellLow alsoFell s) := by
  unfold execDarkTestEnd
  with_reducible repeat' first
    | refine Leads.next ?_ | assumption | exact Evolves.refl _ | refine State.record_evolves ?_ ..
    | refine State.setDoSt_evolves ?_ .. | refine State.doFlag_evolves ?_ .. | refine State.extDrive_evolves ?_ ..
    | ((conv => arg 2; arg 25); refine Evolves.upd ?_ (fun h => h) rfl rfl rfl rfl)
    | refine Evolves.foldl _ _ (fun u x hu => ?_) ?_ | dsimp only | split

theorem execDoShort_leads (n : Nat) (s : State) : Leads s (execDoShort n s) := by
  unfold execDoShort
  with_reducible repeat' first
    | refine Leads.next ?_ | assumption | exact Evolves.refl _ | refine State.record_evolves ?_ ..
    | refine State.setDoSt_evolves ?_ .. | refine State.doFlag_evolves ?_ ..
    | ((conv => arg 2; arg 25); refine Evolves.upd ?_ (fun h => h) rfl rfl rfl rfl) | dsimp only | split

theorem execDoRetry_leads (n : Nat) (stillShort : Bool) (s : State) : Leads s (execDoRetry n stillShort s) := by
  unfold execDoRetry
  with_reducible repeat' first
    | refine Leads.next ?_ | assumption | exact Evolves.refl _ | refine State.record_evolves ?_ ..
    | refine State.setDoSt_evolves ?_ .. | ((conv => arg 2; arg 25); refine Evolves.upd ?_ (fun h => h) rfl rfl rfl rfl)
    | dsimp only | split

theorem State.takeAi_evolves {s0 s : State} (h : Evolves s0 s) (n c : Nat) : Evolves s0 (State.takeAi s n c) := by
  unfold State.takeAi
  with_reducible repeat' first
    | assumption | exact Evolves.refl _ | refine State.setAiSt_evolves ?_ ..
    | ((conv => arg 2; arg 25); refine Evolves.upd ?_ (fun h => h) rfl rfl rfl rfl) | dsimp only | split

theorem State.takeAis_evolves {s0 s : State} (h : Evolves s0 s) (n : Nat) (a0 : List Nat) :
    Evolves s0 (State.takeAis s n a0) := by
  induction a0 generalizing s0 s n with
  | nil =>
    rw [State.takeAis]
    with_reducible repeat' first
      | assumption | exact Evolves.refl _ | refine State.takeAi_evolves ?_ .. | dsimp only | split
  | cons y ys ih =>
    rw [State.takeAis]
    with_reducible repeat' first
      | assumption | exact Evolves.refl _ | refine ih ?_ .. | refine State.takeAi_evolves ?_ .. | dsimp only | split

theorem State.aiDiverge_evolves {s0 s : State} (h : Evolves s0 s) (n : Nat) (holder : F32) :
    Evolves s0 (State.aiDiverge s n holder) := by
  unfold State.aiDiverge
  with_reducible repeat' first
    | assumption | exact Evolves.refl _ | refine State.raise_evolves ?_ .. | refine State.record_evolves ?_ ..
    | refine State.setAiSt_evolves ?_ .. | ((conv => arg 2; arg 25); refine Evolves.upd ?_ (fun h => h) rfl rfl rfl rfl)
    | dsimp only | split

theorem execAiOverload_leads (n : Nat) (s : State) : Leads s (execAiOverload n s) := by
  unfold execAiOverload
  with_reducible repeat' first
    | refine Leads.next ?_ | assumption | exact Evolves.refl _ | refine State.record_evolves ?_ ..
    | refine State.setAiSt_evolves ?_ .. | ((conv => arg 2; arg 25); refine Evolves.upd ?_ (fun h => h) rfl rfl rfl rfl)
    | dsimp only | split

theorem execAiOverloadRetry_leads (n current : Nat) (s : State) : Leads s (execAiOverloadRetry n current s) := by
  unfold execAiOverloadRetry
  with_reducible repeat' first
    | refine Leads.next ?_ | assumption | exact Evolves.refl _ | refine State.setAiSt_evolves ?_ ..
    | refine State.takeAi_evolves ?_ .. | ((conv => arg 2; arg 25); refine Evolves.upd ?_ (fun h => h) rfl rfl rfl rfl)
    | dsimp only | split

theorem execAoOpen_leads (n : Nat) (s : State) : Leads s (execAoOpen n s) := by
  unfold execAoOpen
  with_reducible repeat' first
    | refine Leads.next ?_ | assumption | exact Evolves.refl _ | refine State.useFree_evolves ?_ ..
    | refine State.setAoSt_evolves ?_ .. | refine State.aoFault_evolves ?_ ..
    | ((conv => arg 2; arg 25); refine Evolves.upd ?_ (fun h => h) rfl rfl rfl rfl) | dsimp only | split

theorem execAoOpenEnd_leads (n : Nat) (s : State) : Leads s (execAoOpenEnd n s) := by
  unfold execAoOpenEnd
  with_reducible repeat' first
    | refine Leads.next ?_ | assumption | exact Evolves.refl _ | refine State.setAoSt_evolves ?_ ..
    | ((conv => arg 2; arg 25); refine Evolves.upd ?_ (fun h => h) rfl rfl rfl rfl) | dsimp only | split

theorem execAoCompliance_leads (n headroom : Nat) (s : State) : Leads s (execAoCompliance n headroom s) := by
  unfold execAoCompliance
  with_reducible repeat' first
    | refine Leads.next ?_ | assumption | exact Evolves.refl _ | refine State.useFree_evolves ?_ ..
    | refine State.setAoSt_evolves ?_ .. | refine State.aoFault_evolves ?_ ..
    | ((conv => arg 2; arg 25); refine Evolves.upd ?_ (fun h => h) rfl rfl rfl rfl) | dsimp only | split

theorem execAoComplianceEnd_leads (n headroom : Nat) (s : State) : Leads s (execAoComplianceEnd n headroom s) := by
  unfold execAoComplianceEnd
  with_reducible repeat' first
    | refine Leads.next ?_ | assumption | exact Evolves.refl _ | refine State.setAoSt_evolves ?_ ..
    | ((conv => arg 2; arg 25); refine Evolves.upd ?_ (fun h => h) rfl rfl rfl rfl) | dsimp only | split

theorem execAoSelfTestFail_leads (n : Nat) (s : State) : Leads s (execAoSelfTestFail n s) := by
  unfold execAoSelfTestFail
  with_reducible repeat' first
    | refine Leads.next ?_ | assumption | exact Evolves.refl _ | refine State.setAoSt_evolves ?_ ..
    | ((conv => arg 2; arg 25); refine Evolves.upd ?_ (fun h => h) rfl rfl rfl rfl) | dsimp only | split

theorem State.learnLoopRes_evolves {s0 s : State} (h : Evolves s0 s) (n : Nat) (iHolder vHolder : F32) :
    Evolves s0 (State.learnLoopRes s n iHolder vHolder) := by
  unfold State.learnLoopRes
  with_reducible repeat' first
    | assumption | exact Evolves.refl _ | refine State.setAoSt_evolves ?_ ..
    | ((conv => arg 2; arg 25); refine Evolves.upd ?_ (fun h => h) rfl rfl rfl rfl) | dsimp only | split

theorem execMakeupStart_leads (n : Nat) (s : State) : Leads s (execMakeupStart n s) := by
  unfold execMakeupStart
  with_reducible repeat' first
    | refine Leads.next ?_ | assumption | exact Evolves.refl _ | refine State.useFree_evolves ?_ ..
    | refine State.setAoSt_evolves ?_ .. | ((conv => arg 2; arg 25); refine Evolves.upd ?_ (fun h => h) rfl rfl rfl rfl)
    | dsimp only | split

theorem execMakeupEnd_leads (n : Nat) (s : State) : Leads s (execMakeupEnd n s) := by
  unfold execMakeupEnd
  with_reducible repeat' first
    | refine Leads.next ?_ | assumption | exact Evolves.refl _ | refine State.setAoSt_evolves ?_ ..
    | ((conv => arg 2; arg 25); refine Evolves.upd ?_ (fun h => h) rfl rfl rfl rfl) | dsimp only | split

theorem State.calOff_evolves {s0 s : State} (h : Evolves s0 s) : Evolves s0 (State.calOff s) := by
  unfold State.calOff
  with_reducible repeat' first
    | assumption | exact Evolves.refl _ | ((conv => arg 2; arg 25); refine Evolves.upd ?_ (fun h => h) rfl rfl rfl rfl)
    | dsimp only | split

theorem State.writeCal_evolves {s0 s : State} (h : Evolves s0 s) (q : Requester) (v : Word) :
    Evolves s0 (State.writeCal s q v) := by
  unfold State.writeCal
  with_reducible repeat' first
    | assumption | exact Evolves.refl _ | refine State.refuseWrite_evolves ?_ .. | refine State.calOff_evolves ?_ ..
    | ((conv => arg 2; arg 25); refine Evolves.upd ?_ (fun h => h) rfl rfl rfl rfl) | dsimp only | split
    | refine Evolves.ofFst (by assumption) ?_ | refine Evolves.ofSnd (by assumption) ?_

theorem execCalEnable_leads (q : Requester) (v : Word) (s : State) : Leads s (execCalEnable q v s) := by
  unfold execCalEnable
  with_reducible repeat' first
    | refine Leads.next ?_ | assumption | exact Evolves.refl _ | refine State.writeCal_evolves ?_ ..
    | ((conv => arg 2; arg 25); refine Evolves.upd ?_ (fun h => h) rfl rfl rfl rfl) | dsimp only | split
    | refine Evolves.trans ?_ (State.writeBarred_evolves (by assumption)) | refine Evolves.ofFst (by assumption) ?_
    | refine Evolves.ofSnd (by assumption) ?_

theorem State.keyIgnored_evolves {s0 s : State} (h : Evolves s0 s) (key : Nat) : Evolves s0 (State.keyIgnored s key) := by
  unfold State.keyIgnored
  with_reducible repeat' first
    | assumption | exact Evolves.refl _ | refine State.record_evolves ?_ .. | dsimp only

theorem execSelKeyPress_leads (s : State) : Leads s (execSelKeyPress s) := by
  unfold execSelKeyPress
  with_reducible repeat' first
    | refine Leads.next ?_ | assumption | exact Evolves.refl _ | refine State.keyIgnored_evolves ?_ ..
    | ((conv => arg 2; arg 25); refine Evolves.upd ?_ (fun h => h) rfl rfl rfl rfl) | dsimp only | split
    | refine Evolves.ofFst (by assumption) ?_ | refine Evolves.ofSnd (by assumption) ?_

theorem execSelKeyHold_leads (s : State) : Leads s (execSelKeyHold s) := by
  unfold execSelKeyHold
  with_reducible repeat' first
    | refine Leads.next ?_ | assumption | exact Evolves.refl _ | refine State.record_evolves ?_ ..
    | refine State.keyIgnored_evolves ?_ .. | ((conv => arg 2; arg 25); refine Evolves.upd ?_ (fun h => h) rfl rfl rfl rfl)
    | dsimp only | split

theorem State.stepTrim_evolves {s0 s : State} (h : Evolves s0 s) (d : Int) : Evolves s0 (State.stepTrim s d) := by
  unfold State.stepTrim
  with_reducible repeat' first
    | assumption | exact Evolves.refl _ | refine State.setAoSt_evolves ?_ ..
    | ((conv => arg 2; arg 25); refine Evolves.upd ?_ (fun h => h) rfl rfl rfl rfl) | dsimp only | split

theorem execCalKeyPress_leads (s : State) : Leads s (execCalKeyPress s) := by
  unfold execCalKeyPress
  with_reducible repeat' first
    | refine Leads.next ?_ | assumption | exact Evolves.refl _ | refine State.keyIgnored_evolves ?_ ..
    | refine State.stepTrim_evolves ?_ .. | dsimp only | split

theorem execCalKeyHold_leads (s : State) : Leads s (execCalKeyHold s) := by
  unfold execCalKeyHold
  with_reducible repeat' first
    | refine Leads.next ?_ | assumption | exact Evolves.refl _ | refine State.keyIgnored_evolves ?_ ..
    | refine State.stepTrim_evolves ?_ .. | dsimp only | split

theorem execGsOverrange_leads (ovr : Nat) (s : State) : Leads s (execGsOverrange ovr s) := by
  unfold execGsOverrange
  with_reducible repeat' first
    | refine Leads.next ?_ | assumption | exact Evolves.refl _ | refine State.raise_evolves ?_ ..
    | refine State.record_evolves ?_ .. | ((conv => arg 2; arg 25); refine Evolves.upd ?_ (fun h => h) rfl rfl rfl rfl)
    | dsimp only | split

theorem State.ioRefuse_evolves {s0 s : State} (h : Evolves s0 s) (op : Op) (reason : Nat) :
    Evolves s0 (State.ioRefuse s op reason) := by
  unfold State.ioRefuse
  with_reducible repeat' first
    | assumption | exact Evolves.refl _ | refine State.finish_evolves ?_ .. | dsimp only

theorem execHartCmd_leads (w : WorkRef) (reply : Option (List Byte)) (s : State) : Leads s (execHartCmd w reply s) := by
  unfold execHartCmd
  with_reducible repeat' first
    | refine Leads.next ?_ | assumption | exact Evolves.refl _ | refine State.emit_evolves ?_ ..
    | refine State.finish_evolves ?_ .. | refine Evolves.trans ?_ (State.engineOp_evolves _ _ _ fun op => ?_)
    | refine State.ioRefuse_evolves ?_ .. | ((conv => arg 2; arg 25); refine Evolves.upd ?_ (fun h => h) rfl rfl rfl rfl)
    | dsimp only | split | refine Evolves.ofFst (by assumption) ?_ | refine Evolves.ofSnd (by assumption) ?_

theorem execAoTrim_leads (w : WorkRef) (s : State) : Leads s (execAoTrim w s) := by
  unfold execAoTrim
  with_reducible repeat' first
    | refine Leads.next ?_ | assumption | exact Evolves.refl _ | refine State.record_evolves ?_ ..
    | refine State.setAoSt_evolves ?_ .. | refine State.finish_evolves ?_ ..
    | refine Evolves.trans ?_ (State.engineOp_evolves _ _ _ fun op => ?_) | refine State.ioRefuse_evolves ?_ ..
    | ((conv => arg 2; arg 25); refine Evolves.upd ?_ (fun h => h) rfl rfl rfl rfl) | dsimp only | split

theorem execDoReset_leads (w : WorkRef) (s : State) : Leads s (execDoReset w s) := by
  unfold execDoReset
  with_reducible repeat' first
    | refine Leads.next ?_ | assumption | exact Evolves.refl _ | refine State.finish_evolves ?_ ..
    | refine Evolves.trans ?_ (State.engineOp_evolves _ _ _ fun op => ?_)
    | ((conv => arg 2; arg 25); refine Evolves.upd ?_ (fun h => h) rfl rfl rfl rfl) | dsimp only | split

end Sys2Proof.Machine
end

