-- ==== Sys2Proof/Laws/Evolve/ProtPlane.lean ====
section
/-! SUPPORT. The operations of Machine/ProtPlane.lean keep what the relation `Evolves` says. -/

namespace Sys2Proof.Machine

theorem State.setRing_evolves {s0 s : State} (h : Evolves s0 s) (p : Nat) (f : Ring → Ring) :
    Evolves s0 (State.setRing s p f) := by
  unfold State.setRing
  with_reducible repeat' first
    | assumption | exact Evolves.refl _ | ((conv => arg 2; arg 25); refine Evolves.upd ?_ (fun h => h) rfl rfl rfl rfl)
    | dsimp only

theorem State.setNode_evolves {s0 s : State} (h : Evolves s0 s) (p pos : Nat) (f : Node → Node) :
    Evolves s0 (State.setNode s p pos f) := by
  unfold State.setNode
  with_reducible repeat' first
    | assumption | exact Evolves.refl _ | refine State.setRing_evolves ?_ ..
    | ((conv => arg 2; arg 25); refine Evolves.upd ?_ (fun h => h) rfl rfl rfl rfl) | dsimp only | split

theorem State.setStr_evolves {s0 s : State} (h : Evolves s0 s) (i : Nat) (f : ProtStr → ProtStr) :
    Evolves s0 (State.setStr s i f) := by
  unfold State.setStr
  with_reducible repeat' first
    | assumption | exact Evolves.refl _ | ((conv => arg 2; arg 25); refine Evolves.upd ?_ (fun h => h) rfl rfl rfl rfl)
    | dsimp only

theorem State.setGroup_evolves {s0 s : State} (h : Evolves s0 s) (g : Nat) (f : TripGroup → TripGroup) :
    Evolves s0 (State.setGroup s g f) := by
  unfold State.setGroup
  with_reducible repeat' first
    | assumption | exact Evolves.refl _ | ((conv => arg 2; arg 25); refine Evolves.upd ?_ (fun h => h) rfl rfl rfl rfl)
    | dsimp only

theorem State.protFrame_evolves {s0 s : State} (h : Evolves s0 s) (kind : Nat) : Evolves s0 (State.protFrame s kind) := by
  unfold State.protFrame
  with_reducible repeat' first
    | assumption | exact Evolves.refl _ | refine State.emit_evolves ?_ ..
    | ((conv => arg 2; arg 25); refine Evolves.upd ?_ (fun h => h) rfl rfl rfl rfl)
    | refine Evolves.foldl _ _ (fun u x hu => ?_) ?_ | dsimp only | split | refine Evolves.ofFst (by assumption) ?_
    | refine Evolves.ofSnd (by assumption) ?_

theorem State.goose_evolves {s0 s : State} (h : Evolves s0 s) : Evolves s0 (State.goose s) := by
  unfold State.goose
  with_reducible repeat' first
    | assumption | exact Evolves.refl _ | refine State.emit_evolves ?_ ..
    | ((conv => arg 2; arg 25); refine Evolves.upd ?_ (fun h => h) rfl rfl rfl rfl) | dsimp only | split
    | refine Evolves.ofFst (by assumption) ?_ | refine Evolves.ofSnd (by assumption) ?_

theorem State.protChanged_evolves {s0 s : State} (h : Evolves s0 s) : Evolves s0 (State.protChanged s) := by
  unfold State.protChanged
  with_reducible repeat' first
    | assumption | exact Evolves.refl _ | refine State.protFrame_evolves ?_ .. | refine State.goose_evolves ?_ ..
    | ((conv => arg 2; arg 25); refine Evolves.upd ?_ (fun h => h) rfl rfl rfl rfl) | dsimp only

theorem State.protStep_evolves {s0 s : State} (h : Evolves s0 s) {f : State → State} (hf : Evolves s (f s)) :
    Evolves s0 (State.protStep s f) := by
  unfold State.protStep
  dsimp only
  split
  · exact h.trans (State.protChanged_evolves hf)
  · exact h.trans hf

theorem execProtFrameTx_leads (s : State) : Leads s (execProtFrameTx s) := by
  unfold execProtFrameTx
  with_reducible repeat' first
    | refine Leads.next ?_ | assumption | exact Evolves.refl _ | refine State.protFrame_evolves ?_ .. | dsimp only | split

theorem execGooseRetransmit_leads (s : State) : Leads s (execGooseRetransmit s) := by
  unfold execGooseRetransmit
  with_reducible repeat' first
    | refine Leads.next ?_ | assumption | exact Evolves.refl _ | refine State.goose_evolves ?_ ..
    | ((conv => arg 2; arg 25); refine Evolves.upd ?_ (fun h => h) rfl rfl rfl rfl) | dsimp only | split

theorem State.lastEvent_evolves {s0 s : State} (h : Evolves s0 s) (cause ring pos ch sev : Nat) :
    Evolves s0 (State.lastEvent s cause ring pos ch sev) := by
  unfold State.lastEvent
  with_reducible repeat' first
    | assumption | exact Evolves.refl _ | ((conv => arg 2; arg 25); refine Evolves.upd ?_ (fun h => h) rfl rfl rfl rfl)
    | dsimp only

theorem State.tripOne_evolves {s0 s : State} (h : Evolves s0 s) (g cause ring pos : Nat) :
    Evolves s0 (State.tripOne s g cause ring pos) := by
  unfold State.tripOne
  with_reducible repeat' first
    | assumption | exact Evolves.refl _ | refine State.setDoSt_evolves ?_ .. | refine State.setGroup_evolves ?_ ..
    | ((conv => arg 2; arg 25); refine Evolves.upd ?_ (fun h => h) rfl rfl rfl rfl) | dsimp only | split
    | refine Evolves.ofFst (by assumption) ?_ | refine Evolves.ofSnd (by assumption) ?_

theorem State.noteUnsent_evolves {s0 s : State} (h : Evolves s0 s) (bits cause : Nat) :
    Evolves s0 (State.noteUnsent s bits cause) := by
  unfold State.noteUnsent
  with_reducible repeat' first
    | assumption | exact Evolves.refl _ | refine State.record_evolves ?_ .. | dsimp only | split

theorem State.tripGroups_evolves {s0 s : State} (h : Evolves s0 s) (mask cause ring pos ch epoch : Nat) (own : Bool) (args : List Nat) :
    Evolves s0 (State.tripGroups s mask cause ring pos ch epoch own args) := by
  unfold State.tripGroups
  with_reducible repeat' first
    | assumption | exact Evolves.refl _ | refine State.raise_evolves ?_ .. | refine State.record_evolves ?_ ..
    | refine State.sendWb_evolves ?_ .. | refine State.lastEvent_evolves ?_ .. | refine State.tripOne_evolves ?_ ..
    | refine State.noteUnsent_evolves ?_ .. | ((conv => arg 2; arg 25); refine Evolves.upd ?_ (fun h => h) rfl rfl rfl rfl)
    | refine Evolves.foldl _ _ (fun u x hu => ?_) ?_ | dsimp only | split

theorem State.tripString_evolves {s0 s : State} (h : Evolves s0 s) (i q ring pos keyCh ch epoch : Nat) (reading : Nat) :
    Evolves s0 (State.tripString s i q ring pos keyCh ch epoch reading) := by
  unfold State.tripString
  with_reducible repeat' first
    | assumption | exact Evolves.refl _ | refine State.setStr_evolves ?_ .. | refine State.tripGroups_evolves ?_ ..
    | ((conv => arg 2; arg 25); refine Evolves.upd ?_ (fun h => h) rfl rfl rfl rfl) | dsimp only | split

theorem State.enterSev_evolves {s0 s : State} (h : Evolves s0 s) (sev i q ring pos ch epoch reading : Nat) :
    Evolves s0 (State.enterSev s sev i q ring pos ch epoch reading) := by
  unfold State.enterSev
  with_reducible repeat' first
    | assumption | exact Evolves.refl _ | refine State.raise_evolves ?_ .. | refine State.record_evolves ?_ ..
    | refine State.setStr_evolves ?_ .. | refine State.lastEvent_evolves ?_ ..
    | ((conv => arg 2; arg 25); refine Evolves.upd ?_ (fun h => h) rfl rfl rfl rfl) | dsimp only | split

theorem State.leaveSev_evolves {s0 s : State} (h : Evolves s0 s) (sev i q ring pos ch epoch reading : Nat) :
    Evolves s0 (State.leaveSev s sev i q ring pos ch epoch reading) := by
  unfold State.leaveSev
  with_reducible repeat' first
    | assumption | exact Evolves.refl _ | refine State.record_evolves ?_ .. | refine State.setStr_evolves ?_ ..
    | ((conv => arg 2; arg 25); refine Evolves.upd ?_ (fun h => h) rfl rfl rfl rfl) | dsimp only | split

theorem State.judge_self (s : State) (i : Nat) (c : ThrClass) (q ring pos ch epoch : Nat) (scale x2 : Int) :
    Evolves s (State.judge s i c q ring pos ch epoch scale x2) := by
  unfold State.judge
  dsimp only
  refine Evolves.opt (Evolves.opt (Evolves.opt (Evolves.opt (Evolves.opt (Evolves.opt (State.setStr_evolves (Evolves.refl _) ..) ?_) ?_) ?_) ?_) ?_) ?_
  · exact State.tripString_evolves (Evolves.refl _) ..
  · exact State.enterSev_evolves (Evolves.refl _) ..
  · exact State.enterSev_evolves (Evolves.refl _) ..
  · exact State.leaveSev_evolves (Evolves.refl _) ..
  · exact State.leaveSev_evolves (Evolves.refl _) ..
  · exact State.leaveSev_evolves (Evolves.refl _) ..

theorem State.judge_evolves {s0 s : State} (h : Evolves s0 s) (i : Nat) (c : ThrClass) (q ring pos ch epoch : Nat) (scale x2 : Int) : Evolves s0 (State.judge s i c q ring pos ch epoch scale x2) :=
  h.trans (State.judge_self s i c q ring pos ch epoch scale x2)

theorem State.tripCauses_evolves {s0 s : State} (h : Evolves s0 s) (i cause ring pos ch epoch reading : Nat) (discharge : Bool) :
    Evolves s0 (State.tripCauses s i cause ring pos ch epoch reading discharge) := by
  unfold State.tripCauses
  with_reducible repeat' first
    | assumption | exact Evolves.refl _ | refine State.tripString_evolves ?_ .. | refine Evolves.foldl _ _ (fun u x hu => ?_) ?_
    | dsimp only | split

theorem State.releaseNamed_evolves {s0 s : State} (h : Evolves s0 s) (i : Nat) (c : ThrClass) (ring pos epoch : Nat) (x : Sample) (qs : List (Nat × List Nat)) :
    Evolves s0 (State.releaseNamed s i c ring pos epoch x qs) := by
  unfold State.releaseNamed
  with_reducible repeat' first
    | assumption | exact Evolves.refl _ | refine State.leaveSev_evolves ?_ .. | refine Evolves.foldl _ _ (fun u x hu => ?_) ?_
    | dsimp only | split

theorem State.judgeAux_evolves {s0 s : State} (h : Evolves s0 s) (x : ProtSet) (k : Nat) (e : AuxEntry) (active : Bool) (epoch : Nat) :
    Evolves s0 (State.judgeAux s x k e active epoch) := by
  unfold State.judgeAux
  with_reducible repeat' first
    | assumption | exact Evolves.refl _ | refine State.raise_evolves ?_ .. | refine State.record_evolves ?_ ..
    | refine State.lastEvent_evolves ?_ .. | refine State.tripGroups_evolves ?_ ..
    | ((conv => arg 2; arg 25); refine Evolves.upd ?_ (fun h => h) rfl rfl rfl rfl) | dsimp only | split

theorem State.auxSample_evolves {s0 s : State} (h : Evolves s0 s) (x : ProtSet) (ring pos : Nat) (inputs epoch : Nat) :
    Evolves s0 (State.auxSample s x ring pos inputs epoch) := by
  unfold State.auxSample
  with_reducible repeat' first
    | assumption | exact Evolves.refl _ | refine State.setGroup_evolves ?_ .. | refine State.judgeAux_evolves ?_ ..
    | ((conv => arg 2; arg 25); refine Evolves.upd ?_ (fun h => h) rfl rfl rfl rfl)
    | refine Evolves.foldl _ _ (fun u x hu => ?_) ?_ | dsimp only | split | refine Evolves.ofFst (by assumption) ?_
    | refine Evolves.ofSnd (by assumption) ?_

theorem State.endMissing_evolves {s0 s : State} (h : Evolves s0 s) (x : ProtSet) (i : Nat) (epoch : Nat) :
    Evolves s0 (State.endMissing s x i epoch) := by
  unfold State.endMissing
  with_reducible repeat' first
    | assumption | exact Evolves.refl _ | refine State.record_evolves ?_ .. | refine State.setStr_evolves ?_ ..
    | ((conv => arg 2; arg 25); refine Evolves.upd ?_ (fun h => h) rfl rfl rfl rfl) | dsimp only | split

theorem State.noteTap_evolves {s0 s : State} (h : Evolves s0 s) (i ring pos epoch : Nat) :
    Evolves s0 (State.noteTap s i ring pos epoch) := by
  unfold State.noteTap
  with_reducible repeat' first
    | assumption | exact Evolves.refl _ | refine State.raise_evolves ?_ .. | refine State.record_evolves ?_ ..
    | refine State.setStr_evolves ?_ .. | refine State.lastEvent_evolves ?_ ..
    | ((conv => arg 2; arg 25); refine Evolves.upd ?_ (fun h => h) rfl rfl rfl rfl) | dsimp only | split

theorem State.compareSample_evolves {s0 s : State} (h : Evolves s0 s) (ring pos : Nat) (x : Sample) :
    Evolves s0 (State.compareSample s ring pos x) := by
  unfold State.compareSample
  with_reducible repeat' first
    | assumption | exact Evolves.refl _ | refine State.protStep_evolves ?_ ?_ | refine State.tripGroups_evolves ?_ ..
    | refine State.judge_evolves ?_ .. | refine State.tripCauses_evolves ?_ .. | refine State.releaseNamed_evolves ?_ ..
    | refine State.auxSample_evolves ?_ .. | refine State.endMissing_evolves ?_ .. | refine State.noteTap_evolves ?_ ..
    | ((conv => arg 2; arg 25); refine Evolves.upd ?_ (fun h => h) rfl rfl rfl rfl)
    | refine Evolves.foldl _ _ (fun u x hu => ?_) ?_ | dsimp only | split | refine Evolves.ofFst (by assumption) ?_
    | refine Evolves.ofSnd (by assumption) ?_

theorem execMissLimit_leads (string : Nat) (s : State) : Leads s (execMissLimit string s) := by
  unfold execMissLimit
  with_reducible repeat' first
    | refine Leads.next ?_ | assumption | exact Evolves.refl _ | refine State.raise_evolves ?_ ..
    | refine State.record_evolves ?_ .. | refine State.setStr_evolves ?_ .. | refine State.protStep_evolves ?_ ?_
    | refine State.lastEvent_evolves ?_ .. | ((conv => arg 2; arg 25); refine Evolves.upd ?_ (fun h => h) rfl rfl rfl rfl)
    | dsimp only | split | refine Evolves.ofFst (by assumption) ?_ | refine Evolves.ofSnd (by assumption) ?_

theorem execMissTrip_leads (string : Nat) (s : State) : Leads s (execMissTrip string s) := by
  unfold execMissTrip
  with_reducible repeat' first
    | refine Leads.next ?_ | assumption | exact Evolves.refl _ | refine State.setStr_evolves ?_ ..
    | refine State.protStep_evolves ?_ ?_ | refine State.tripGroups_evolves ?_ ..
    | ((conv => arg 2; arg 25); refine Evolves.upd ?_ (fun h => h) rfl rfl rfl rfl) | dsimp only | split
    | refine Evolves.ofFst (by assumption) ?_ | refine Evolves.ofSnd (by assumption) ?_

theorem execProtNoticeRx_leads (crcOk : Bool) (gen groups zcause0 ring pos channel epoch : Nat) (s : State) : Leads s (execProtNoticeRx crcOk gen groups zcause0 ring pos channel epoch s) := by
  unfold execProtNoticeRx
  with_reducible repeat' first
    | refine State.fromPartner_leads _ _ fun u => ?_ | refine Leads.next ?_ | assumption | exact Evolves.refl _
    | refine State.protStep_evolves ?_ ?_ | refine State.tripGroups_evolves ?_ .. | dsimp only | split

theorem execAuxConfirmTimeout_leads (g : Nat) (s : State) : Leads s (execAuxConfirmTimeout g s) := by
  unfold execAuxConfirmTimeout
  with_reducible repeat' first
    | refine Leads.next ?_ | assumption | exact Evolves.refl _ | refine State.record_evolves ?_ ..
    | refine State.setGroup_evolves ?_ .. | refine State.protStep_evolves ?_ ?_ | refine State.tripGroups_evolves ?_ ..
    | ((conv => arg 2; arg 25); refine Evolves.upd ?_ (fun h => h) rfl rfl rfl rfl) | dsimp only | split
    | refine Evolves.ofFst (by assumption) ?_ | refine Evolves.ofSnd (by assumption) ?_

theorem State.judgeAfresh_evolves {s0 s : State} (h : Evolves s0 s) (p epoch : Nat) :
    Evolves s0 (State.judgeAfresh s p epoch) := by
  unfold State.judgeAfresh
  with_reducible repeat' first
    | assumption | exact Evolves.refl _ | refine State.setStr_evolves ?_ .. | refine State.leaveSev_evolves ?_ ..
    | ((conv => arg 2; arg 25); refine Evolves.upd ?_ (fun h => h) rfl rfl rfl rfl)
    | refine Evolves.foldl _ _ (fun u x hu => ?_) ?_ | dsimp only | split

theorem State.switchRing_evolves {s0 s : State} (h : Evolves s0 s) (p : Nat) : Evolves s0 (State.switchRing s p) := by
  unfold State.switchRing
  with_reducible repeat' first
    | assumption | exact Evolves.refl _ | refine State.protStep_evolves ?_ ?_ | refine State.compareSample_evolves ?_ ..
    | refine State.judgeAfresh_evolves ?_ .. | ((conv => arg 2; arg 25); refine Evolves.upd ?_ (fun h => h) rfl rfl rfl rfl)
    | refine Evolves.foldl _ _ (fun u x hu => ?_) ?_ | dsimp only | split | refine Evolves.ofFst (by assumption) ?_
    | refine Evolves.ofSnd (by assumption) ?_

theorem State.switchRings_evolves {s0 s : State} (h : Evolves s0 s) : Evolves s0 (State.switchRings s) := by
  unfold State.switchRings
  with_reducible repeat' first
    | assumption | exact Evolves.refl _ | refine State.switchRing_evolves ?_ ..
    | ((conv => arg 2; arg 25); refine Evolves.upd ?_ (fun h => h) rfl rfl rfl rfl)
    | refine Evolves.foldl _ _ (fun u x hu => ?_) ?_ | dsimp only | split

end Sys2Proof.Machine
end

