-- ==== Sys2Proof/Laws/Evolve/Silkline.lean ====
section
/-! SUPPORT. The operations of Machine/Silkline.lean keep what the relation `Evolves` says. -/

namespace Sys2Proof.Machine

theorem State.setSweep_evolves {s0 s : State} (h : Evolves s0 s) (p epoch : Nat) (f : Sweep → Sweep) :
    Evolves s0 (State.setSweep s p epoch f) := by
  unfold State.setSweep
  with_reducible repeat' first
    | assumption | exact Evolves.refl _ | refine State.setRing_evolves ?_ ..
    | ((conv => arg 2; arg 25); refine Evolves.upd ?_ (fun h => h) rfl rfl rfl rfl) | dsimp only | split

theorem State.sendReads_evolves {s0 s : State} (h : Evolves s0 s) (p epoch : Nat) (l : List Nat) :
    Evolves s0 (State.sendReads s p epoch l) := by
  unfold State.sendReads
  with_reducible repeat' first
    | assumption | exact Evolves.refl _ | refine State.emit_evolves ?_ .. | refine Evolves.foldl _ _ (fun u x hu => ?_) ?_
    | dsimp only | split

theorem State.sendState_evolves {s0 s : State} (h : Evolves s0 s) (p : Nat) : Evolves s0 (State.sendState s p) := by
  unfold State.sendState
  with_reducible repeat' first
    | assumption | exact Evolves.refl _ | refine State.sendWb_evolves ?_ .. | dsimp only

theorem State.storeSweep_evolves {s0 s : State} (h : Evolves s0 s) (p : Nat) (w : Sweep) :
    Evolves s0 (State.storeSweep s p w) := by
  unfold State.storeSweep
  with_reducible repeat' first
    | assumption | exact Evolves.refl _ | refine State.nameItem_evolves ?_ ..
    | ((conv => arg 2; arg 25); first | refine Evolves.upd ?_ (Memory.writeN_wf _ _) rfl rfl rfl rfl | refine Evolves.upd ?_ (fun h => h) rfl rfl rfl rfl)
    | dsimp only | split

theorem State.ledger_evolves {s0 s : State} (h : Evolves s0 s) (p : Nat) (w : Sweep) : Evolves s0 (State.ledger s p w) := by
  unfold State.ledger
  with_reducible repeat' first
    | assumption | exact Evolves.refl _ | ((conv => arg 2; arg 25); refine Evolves.upd ?_ (fun h => h) rfl rfl rfl rfl)
    | refine Evolves.foldl _ _ (fun u x hu => ?_) ?_ | dsimp only | split | refine Evolves.ofFst (by assumption) ?_
    | refine Evolves.ofSnd (by assumption) ?_

theorem State.askWake_evolves {s0 s : State} (h : Evolves s0 s) (p cause : Nat) : Evolves s0 (State.askWake s p cause) := by
  unfold State.askWake
  with_reducible repeat' first
    | assumption | exact Evolves.refl _ | refine State.raise_evolves ?_ .. | refine State.wakeCocoon_evolves ?_ .. | dsimp only
    | split

theorem State.checkSweep_evolves {s0 s : State} (h : Evolves s0 s) (p : Nat) (w : Sweep) :
    Evolves s0 (State.checkSweep s p w) := by
  unfold State.checkSweep
  with_reducible repeat' first
    | assumption | exact Evolves.refl _ | refine State.ledger_evolves ?_ .. | refine State.askWake_evolves ?_ .. | dsimp only
    | split

theorem State.buildSweep_evolves {s0 s : State} (h : Evolves s0 s) (p epoch : Nat) : Evolves s0 (State.buildSweep s p epoch) := by
  unfold State.buildSweep
  with_reducible repeat' first
    | assumption | exact Evolves.refl _ | refine State.setRing_evolves ?_ .. | refine State.setSweep_evolves ?_ ..
    | refine State.storeSweep_evolves ?_ .. | refine State.checkSweep_evolves ?_ ..
    | ((conv => arg 2; arg 25); refine Evolves.upd ?_ (fun h => h) rfl rfl rfl rfl) | dsimp only | split
    | refine Evolves.ofFst (by assumption) ?_ | refine Evolves.ofSnd (by assumption) ?_

theorem State.finishHeal_evolves {s0 s : State} (h : Evolves s0 s) (p : Nat) : Evolves s0 (State.finishHeal s p) := by
  unfold State.finishHeal
  with_reducible repeat' first
    | assumption | exact Evolves.refl _ | refine State.record_evolves ?_ .. | refine State.setRing_evolves ?_ ..
    | ((conv => arg 2; arg 25); refine Evolves.upd ?_ (fun h => h) rfl rfl rfl rfl) | dsimp only | split

theorem State.strobe_evolves {s0 s : State} (h : Evolves s0 s) (p k epoch instant skips : Nat) :
    Evolves s0 (State.strobe s p k epoch instant skips) := by
  unfold State.strobe
  with_reducible repeat' first
    | assumption | exact Evolves.refl _ | refine State.emit_evolves ?_ .. | refine State.record_evolves ?_ ..
    | refine State.setRing_evolves ?_ .. | refine State.sendReads_evolves ?_ .. | refine State.buildSweep_evolves ?_ ..
    | refine State.finishHeal_evolves ?_ .. | ((conv => arg 2; arg 25); refine Evolves.upd ?_ (fun h => h) rfl rfl rfl rfl)
    | refine Evolves.foldl _ _ (fun u x hu => ?_) ?_ | dsimp only | split

theorem execStrobeLaunch_leads (ring : Nat) (s : State) : Leads s (execStrobeLaunch ring s) := by
  unfold execStrobeLaunch
  with_reducible repeat' first
    | refine Leads.next ?_ | assumption | exact Evolves.refl _ | refine State.strobe_evolves ?_ .. | dsimp only | split

theorem execCocoonCheckSweep_leads (ring : Nat) (hours : Nat) (s : State) : Leads s (execCocoonCheckSweep ring hours s) := by
  unfold execCocoonCheckSweep
  with_reducible repeat' first
    | refine Leads.next ?_ | assumption | exact Evolves.refl _ | refine State.askWake_evolves ?_ ..
    | refine State.strobe_evolves ?_ .. | dsimp only | split

theorem execCocoonWake_leads (cause : Nat) (s : State) : Leads s (execCocoonWake cause s) := by
  unfold execCocoonWake
  with_reducible repeat' first
    | refine Leads.next ?_ | assumption | exact Evolves.refl _ | refine State.wakeCocoon_evolves ?_ .. | dsimp only

theorem State.markLost_evolves {s0 s : State} (h : Evolves s0 s) (p : Nat) : Evolves s0 (State.markLost s p) := by
  unfold State.markLost
  with_reducible repeat' first
    | assumption | exact Evolves.refl _ | refine State.setNode_evolves ?_ ..
    | ((conv => arg 2; arg 25); refine Evolves.upd ?_ (fun h => h) rfl rfl rfl rfl)
    | refine Evolves.foldl _ _ (fun u x hu => ?_) ?_ | dsimp only | split

theorem State.resplit_evolves {s0 s : State} (h : Evolves s0 s) (p : Nat) : Evolves s0 (State.resplit s p) := by
  unfold State.resplit
  with_reducible repeat' first
    | assumption | exact Evolves.refl _ | refine State.setSweep_evolves ?_ .. | refine State.sendReads_evolves ?_ ..
    | ((conv => arg 2; arg 25); refine Evolves.upd ?_ (fun h => h) rfl rfl rfl rfl) | dsimp only | split
    | refine Evolves.ofFst (by assumption) ?_ | refine Evolves.ofSnd (by assumption) ?_

theorem State.placeBreak_evolves {s0 s : State} (h : Evolves s0 s) (p b : Nat) (tell : Bool) :
    Evolves s0 (State.placeBreak s p b tell) := by
  unfold State.placeBreak
  with_reducible repeat' first
    | assumption | exact Evolves.refl _ | refine State.raise_evolves ?_ .. | refine State.record_evolves ?_ ..
    | refine State.setRing_evolves ?_ .. | refine State.sendState_evolves ?_ .. | refine State.markLost_evolves ?_ ..
    | refine State.resplit_evolves ?_ .. | ((conv => arg 2; arg 25); refine Evolves.upd ?_ (fun h => h) rfl rfl rfl rfl)
    | dsimp only | split

theorem State.oneEnded_evolves {s0 s : State} (h : Evolves s0 s) (p : Nat) : Evolves s0 (State.oneEnded s p) := by
  unfold State.oneEnded
  with_reducible repeat' first
    | assumption | exact Evolves.refl _ | refine State.record_evolves ?_ .. | refine State.setRing_evolves ?_ ..
    | refine State.markLost_evolves ?_ .. | refine State.resplit_evolves ?_ ..
    | ((conv => arg 2; arg 25); refine Evolves.upd ?_ (fun h => h) rfl rfl rfl rfl) | dsimp only | split

theorem execBreakRx_leads (ring pos : Nat) (sideB : Bool) (s : State) : Leads s (execBreakRx ring pos sideB s) := by
  unfold execBreakRx
  with_reducible repeat' first
    | refine Leads.next ?_ | assumption | exact Evolves.refl _ | refine State.placeBreak_evolves ?_ .. | dsimp only | split

theorem execRingInputDown_leads (ring : Nat) (s : State) : Leads s (execRingInputDown ring s) := by
  unfold execRingInputDown
  with_reducible repeat' first
    | refine Leads.next ?_ | assumption | exact Evolves.refl _ | refine State.setRing_evolves ?_ ..
    | ((conv => arg 2; arg 25); refine Evolves.upd ?_ (fun h => h) rfl rfl rfl rfl) | dsimp only | split

theorem execRingInputUp_leads (ring : Nat) (s : State) : Leads s (execRingInputUp ring s) := by
  unfold execRingInputUp
  with_reducible repeat' first
    | refine Leads.next ?_ | assumption | exact Evolves.refl _ | refine State.setRing_evolves ?_ ..
    | ((conv => arg 2; arg 25); refine Evolves.upd ?_ (fun h => h) rfl rfl rfl rfl) | dsimp only | split

theorem State.measure_evolves {s0 s : State} (h : Evolves s0 s) (p : Nat) (l : List Nat) : Evolves s0 (State.measure s p l) := by
  unfold State.measure
  with_reducible repeat' first
    | assumption | exact Evolves.refl _ | refine State.emit_evolves ?_ .. | refine State.setNode_evolves ?_ ..
    | ((conv => arg 2; arg 25); refine Evolves.upd ?_ (fun h => h) rfl rfl rfl rfl)
    | refine Evolves.foldl _ _ (fun u x hu => ?_) ?_ | dsimp only | split

theorem execBreakHeal_leads (ring : Nat) (s : State) : Leads s (execBreakHeal ring s) := by
  unfold execBreakHeal
  with_reducible repeat' first
    | refine Leads.next ?_ | assumption | exact Evolves.refl _ | refine State.setRing_evolves ?_ ..
    | refine State.measure_evolves ?_ .. | ((conv => arg 2; arg 25); refine Evolves.upd ?_ (fun h => h) rfl rfl rfl rfl)
    | dsimp only | split

theorem State.takeSample_evolves {s0 s : State} (h : Evolves s0 s) (p pos : Nat) (x : Sample) :
    Evolves s0 (State.takeSample s p pos x) := by
  unfold State.takeSample
  with_reducible repeat' first
    | assumption | exact Evolves.refl _ | refine State.setNode_evolves ?_ .. | refine State.compareSample_evolves ?_ ..
    | refine State.setSweep_evolves ?_ .. | ((conv => arg 2; arg 25); refine Evolves.upd ?_ (fun h => h) rfl rfl rfl rfl)
    | dsimp only | split

theorem State.silentBreak_evolves {s0 s : State} (h : Evolves s0 s) (p pos : Nat) (w : Sweep) :
    Evolves s0 (State.silentBreak s p pos w) := by
  unfold State.silentBreak
  with_reducible repeat' first
    | assumption | exact Evolves.refl _ | refine State.placeBreak_evolves ?_ .. | dsimp only | split

theorem State.sampleFails_evolves {s0 s : State} (h : Evolves s0 s) (p pos : Nat) (silent : Bool) :
    Evolves s0 (State.sampleFails s p pos silent) := by
  unfold State.sampleFails
  with_reducible repeat' first
    | assumption | exact Evolves.refl _ | refine State.setRing_evolves ?_ .. | refine State.setSweep_evolves ?_ ..
    | refine State.sendReads_evolves ?_ .. | refine State.silentBreak_evolves ?_ ..
    | ((conv => arg 2; arg 25); refine Evolves.upd ?_ (fun h => h) rfl rfl rfl rfl) | dsimp only | split
    | refine Evolves.ofFst (by assumption) ?_ | refine Evolves.ofSnd (by assumption) ?_

theorem execSampleRx_leads (ring pos : Nat) (crcOk : Bool) (smp : Sample) (s : State) : Leads s (execSampleRx ring pos crcOk smp s) := by
  unfold execSampleRx
  with_reducible repeat' first
    | refine Leads.next ?_ | assumption | exact Evolves.refl _ | refine State.setRing_evolves ?_ ..
    | refine State.setSweep_evolves ?_ .. | refine State.takeSample_evolves ?_ .. | refine State.sampleFails_evolves ?_ ..
    | ((conv => arg 2; arg 25); refine Evolves.upd ?_ (fun h => h) rfl rfl rfl rfl) | dsimp only | split
    | refine Evolves.ofFst (by assumption) ?_ | refine Evolves.ofSnd (by assumption) ?_

theorem execSampleTimeout_leads (ring pos : Nat) (s : State) : Leads s (execSampleTimeout ring pos s) := by
  unfold execSampleTimeout
  with_reducible repeat' first
    | refine Leads.next ?_ | assumption | exact Evolves.refl _ | refine State.sampleFails_evolves ?_ .. | dsimp only | split

theorem execSweepPartDone_leads (ring us : Nat) (s : State) : Leads s (execSweepPartDone ring us s) := by
  unfold execSweepPartDone
  with_reducible repeat' first
    | refine Leads.next ?_ | assumption | exact Evolves.refl _ | refine State.sendWb_evolves ?_ ..
    | refine State.setRing_evolves ?_ .. | refine State.setSweep_evolves ?_ .. | refine State.buildSweep_evolves ?_ ..
    | ((conv => arg 2; arg 25); refine Evolves.upd ?_ (fun h => h) rfl rfl rfl rfl) | dsimp only | split
    | refine Evolves.ofFst (by assumption) ?_ | refine Evolves.ofSnd (by assumption) ?_

theorem State.takeHalf_evolves {s0 s : State} (h : Evolves s0 s) (p epoch angle astatus : Nat) (l : List (Nat × Sample)) :
    Evolves s0 (State.takeHalf s p epoch angle astatus l) := by
  unfold State.takeHalf
  with_reducible repeat' first
    | assumption | exact Evolves.refl _ | refine State.setRing_evolves ?_ .. | refine State.setSweep_evolves ?_ ..
    | refine State.buildSweep_evolves ?_ .. | refine State.takeSample_evolves ?_ ..
    | ((conv => arg 2; arg 25); refine Evolves.upd ?_ (fun h => h) rfl rfl rfl rfl)
    | refine Evolves.foldl _ _ (fun u x hu => ?_) ?_ | dsimp only | split | refine Evolves.ofFst (by assumption) ?_
    | refine Evolves.ofSnd (by assumption) ?_

theorem execHalfRingRx_leads (crcOk : Bool) (gen : Nat) (b : HalfBody) (s : State) : Leads s (execHalfRingRx crcOk gen b s) := by
  unfold execHalfRingRx
  with_reducible repeat' first
    | refine State.fromPartner_leads _ _ fun u => ?_ | refine Leads.next ?_ | assumption | exact Evolves.refl _
    | refine State.emit_evolves ?_ .. | refine State.setRing_evolves ?_ .. | refine State.placeBreak_evolves ?_ ..
    | refine State.oneEnded_evolves ?_ .. | refine State.takeHalf_evolves ?_ ..
    | ((conv => arg 2; arg 25); refine Evolves.upd ?_ (fun h => h) rfl rfl rfl rfl) | dsimp only | split
    | refine Evolves.ofFst (by assumption) ?_ | refine Evolves.ofSnd (by assumption) ?_

theorem execHalfRingTimeout_leads (ring : Nat) (s : State) : Leads s (execHalfRingTimeout ring s) := by
  unfold execHalfRingTimeout
  with_reducible repeat' first
    | refine Leads.next ?_ | assumption | exact Evolves.refl _ | refine State.oneEnded_evolves ?_ .. | dsimp only | split

theorem State.putCmd_evolves {s0 s : State} (h : Evolves s0 s) (p pos : Nat) (c : NodeCmd) :
    Evolves s0 (State.putCmd s p pos c) := by
  unfold State.putCmd
  with_reducible repeat' first
    | assumption | exact Evolves.refl _ | refine State.emit_evolves ?_ .. | refine State.sendWb_evolves ?_ .. | dsimp only
    | split

theorem State.sendCmd_evolves {s0 s : State} (h : Evolves s0 s) (p pos : Nat) (c : NodeCmd) :
    Evolves s0 (State.sendCmd s p pos c) := by
  unfold State.sendCmd
  with_reducible repeat' first
    | assumption | exact Evolves.refl _ | refine State.setNode_evolves ?_ .. | refine State.putCmd_evolves ?_ ..
    | ((conv => arg 2; arg 25); refine Evolves.upd ?_ (fun h => h) rfl rfl rfl rfl) | dsimp only | split

theorem State.queueCmd_evolves {s0 s : State} (h : Evolves s0 s) (p pos : Nat) (c : NodeCmd) :
    Evolves s0 (State.queueCmd s p pos c) := by
  unfold State.queueCmd
  with_reducible repeat' first
    | assumption | exact Evolves.refl _ | refine State.setRing_evolves ?_ ..
    | ((conv => arg 2; arg 25); refine Evolves.upd ?_ (fun h => h) rfl rfl rfl rfl) | dsimp only | split

theorem State.sendQueued_evolves {s0 s : State} (h : Evolves s0 s) (p : Nat) (left : Option Nat) (a0 : List (Nat × NodeCmd)) :
    Evolves s0 (State.sendQueued s p left a0) := by
  induction a0 generalizing s0 s p left with
  | nil =>
    rw [State.sendQueued]
    with_reducible repeat' first
      | assumption | exact Evolves.refl _ | refine State.setRing_evolves ?_ .. | refine State.sendCmd_evolves ?_ ..
      | ((conv => arg 2; arg 25); refine Evolves.upd ?_ (fun h => h) rfl rfl rfl rfl) | dsimp only | split
  | cons y ys ih =>
    rw [State.sendQueued]
    with_reducible repeat' first
      | assumption | exact Evolves.refl _ | refine ih ?_ .. | refine State.setRing_evolves ?_ ..
      | refine State.sendCmd_evolves ?_ .. | ((conv => arg 2; arg 25); refine Evolves.upd ?_ (fun h => h) rfl rfl rfl rfl)
      | dsimp only | split

theorem State.sendRelays_evolves {s0 s : State} (h : Evolves s0 s) (p : Nat) : Evolves s0 (State.sendRelays s p) := by
  unfold State.sendRelays
  with_reducible repeat' first
    | assumption | exact Evolves.refl _ | refine State.emit_evolves ?_ .. | refine State.setRing_evolves ?_ ..
    | ((conv => arg 2; arg 25); refine Evolves.upd ?_ (fun h => h) rfl rfl rfl rfl)
    | refine Evolves.foldl _ _ (fun u x hu => ?_) ?_ | dsimp only | split

theorem execCommandWindow_leads (ring : Nat) (s : State) : Leads s (execCommandWindow ring s) := by
  unfold execCommandWindow
  with_reducible repeat' first
    | refine Leads.next ?_ | assumption | exact Evolves.refl _ | refine State.setRing_evolves ?_ ..
    | refine State.sendQueued_evolves ?_ .. | refine State.sendRelays_evolves ?_ ..
    | ((conv => arg 2; arg 25); refine Evolves.upd ?_ (fun h => h) rfl rfl rfl rfl) | dsimp only | split

theorem State.finishCmd_evolves {s0 s : State} (h : Evolves s0 s) (c : NodeCmd) (status : Nat) (data : List Byte) :
    Evolves s0 (State.finishCmd s c status data) := by
  unfold State.finishCmd
  with_reducible repeat' first
    | assumption | exact Evolves.refl _ | refine State.finish_evolves ?_ ..
    | ((conv => arg 2; arg 25); refine Evolves.upd ?_ (fun h => h) rfl rfl rfl rfl) | dsimp only | split
    | refine Evolves.ofFst (by assumption) ?_ | refine Evolves.ofSnd (by assumption) ?_

theorem State.judgeTap_evolves {s0 s : State} (h : Evolves s0 s) (p pos j : Nat) (readings : List Nat) :
    Evolves s0 (State.judgeTap s p pos j readings) := by
  unfold State.judgeTap
  with_reducible repeat' first
    | assumption | exact Evolves.refl _ | refine State.record_evolves ?_ .. | refine State.setNode_evolves ?_ ..
    | ((conv => arg 2; arg 25); refine Evolves.upd ?_ (fun h => h) rfl rfl rfl rfl) | dsimp only | split
    | refine Evolves.ofFst (by assumption) ?_ | refine Evolves.ofSnd (by assumption) ?_

theorem State.acked_evolves {s0 s : State} (h : Evolves s0 s) (p pos : Nat) (c : NodeCmd) (result : Nat) (readings : List Nat) :
    Evolves s0 (State.acked s p pos c result readings) := by
  unfold State.acked
  with_reducible repeat' first
    | assumption | exact Evolves.refl _ | refine State.record_evolves ?_ .. | refine State.setNode_evolves ?_ ..
    | refine State.judgeTap_evolves ?_ .. | ((conv => arg 2; arg 25); refine Evolves.upd ?_ (fun h => h) rfl rfl rfl rfl)
    | dsimp only | split | refine Evolves.ofFst (by assumption) ?_ | refine Evolves.ofSnd (by assumption) ?_

theorem State.cocoonAcked_evolves {s0 s : State} (h : Evolves s0 s) : Evolves s0 (State.cocoonAcked s) := by
  unfold State.cocoonAcked
  with_reducible repeat' first
    | assumption | exact Evolves.refl _ | refine State.cocoonGo_evolves ?_ .. | dsimp only | split

theorem execNodeAckRx_leads (ring pos cseq gen8 result : Nat) (readings : List Nat) (s : State) : Leads s (execNodeAckRx ring pos cseq gen8 result readings s) := by
  unfold execNodeAckRx
  with_reducible repeat' first
    | refine Leads.next ?_ | assumption | exact Evolves.refl _ | refine State.setNode_evolves ?_ ..
    | refine State.finishCmd_evolves ?_ .. | refine State.acked_evolves ?_ .. | refine State.cocoonAcked_evolves ?_ ..
    | ((conv => arg 2; arg 25); refine Evolves.upd ?_ (fun h => h) rfl rfl rfl rfl) | dsimp only | split
    | refine Evolves.ofFst (by assumption) ?_ | refine Evolves.ofSnd (by assumption) ?_

theorem execNodeAckTimeout_leads (ring pos : Nat) (s : State) : Leads s (execNodeAckTimeout ring pos s) := by
  unfold execNodeAckTimeout
  with_reducible repeat' first
    | refine Leads.next ?_ | assumption | exact Evolves.refl _ | refine State.record_evolves ?_ ..
    | refine State.setNode_evolves ?_ .. | refine State.putCmd_evolves ?_ .. | refine State.finishCmd_evolves ?_ ..
    | ((conv => arg 2; arg 25); refine Evolves.upd ?_ (fun h => h) rfl rfl rfl rfl) | dsimp only | split
    | refine Evolves.ofFst (by assumption) ?_ | refine Evolves.ofSnd (by assumption) ?_

theorem State.writeDelay_evolves {s0 s : State} (h : Evolves s0 s) (p pos : Nat) (ld : Nat) :
    Evolves s0 (State.writeDelay s p pos ld) := by
  unfold State.writeDelay
  with_reducible repeat' first
    | assumption | exact Evolves.refl _ | refine State.sendWb_evolves ?_ .. | refine State.queueCmd_evolves ?_ .. | dsimp only
    | split

theorem execEchoCheck_leads (ring : Nat) (s : State) : Leads s (execEchoCheck ring s) := by
  unfold execEchoCheck
  with_reducible repeat' first
    | refine Leads.next ?_ | assumption | exact Evolves.refl _ | refine State.emit_evolves ?_ ..
    | ((conv => arg 2; arg 25); refine Evolves.upd ?_ (fun h => h) rfl rfl rfl rfl) | dsimp only | split
    | refine Evolves.ofFst (by assumption) ?_ | refine Evolves.ofSnd (by assumption) ?_

theorem execLatchRemeasure_leads (ring : Nat) (s : State) : Leads s (execLatchRemeasure ring s) := by
  unfold execLatchRemeasure
  with_reducible repeat' first
    | refine Leads.next ?_ | assumption | exact Evolves.refl _ | refine State.measure_evolves ?_ .. | dsimp only | split

theorem State.enumFails_evolves {s0 s : State} (h : Evolves s0 s) (p reason : Nat) : Evolves s0 (State.enumFails s p reason) := by
  unfold State.enumFails
  with_reducible repeat' first
    | assumption | exact Evolves.refl _ | refine State.raise_evolves ?_ .. | refine State.record_evolves ?_ ..
    | refine State.finish_evolves ?_ .. | refine State.setRing_evolves ?_ ..
    | ((conv => arg 2; arg 25); refine Evolves.upd ?_ (fun h => h) rfl rfl rfl rfl) | dsimp only | split
    | refine Evolves.ofFst (by assumption) ?_ | refine Evolves.ofSnd (by assumption) ?_

theorem execEchoReplyRx_leads (ring pos rttNs : Nat) (s : State) : Leads s (execEchoReplyRx ring pos rttNs s) := by
  unfold execEchoReplyRx
  with_reducible repeat' first
    | refine Leads.next ?_ | assumption | exact Evolves.refl _ | refine State.setNode_evolves ?_ ..
    | refine State.measure_evolves ?_ .. | refine State.writeDelay_evolves ?_ .. | refine State.enumFails_evolves ?_ ..
    | ((conv => arg 2; arg 25); refine Evolves.upd ?_ (fun h => h) rfl rfl rfl rfl)
    | refine Evolves.foldl _ _ (fun u x hu => ?_) ?_ | dsimp only | split

theorem execIdRx_leads (ring pos nodeId : Nat) (ntype : NType) (cells hopA hopB : Nat) (s : State) : Leads s (execIdRx ring pos nodeId ntype cells hopA hopB s) := by
  unfold execIdRx
  with_reducible repeat' first
    | refine Leads.next ?_ | assumption | exact Evolves.refl _ | refine State.record_evolves ?_ ..
    | refine State.setNode_evolves ?_ .. | refine State.enumFails_evolves ?_ ..
    | ((conv => arg 2; arg 25); refine Evolves.upd ?_ (fun h => h) rfl rfl rfl rfl) | dsimp only | split
    | refine Evolves.ofFst (by assumption) ?_ | refine Evolves.ofSnd (by assumption) ?_

theorem State.queueBlock1_evolves {s0 s : State} (h : Evolves s0 s) (p : Nat) : Evolves s0 (State.queueBlock1 s p) := by
  unfold State.queueBlock1
  with_reducible repeat' first
    | assumption | exact Evolves.refl _ | refine State.setNode_evolves ?_ .. | refine State.queueCmd_evolves ?_ ..
    | ((conv => arg 2; arg 25); refine Evolves.upd ?_ (fun h => h) rfl rfl rfl rfl)
    | refine Evolves.foldl _ _ (fun u x hu => ?_) ?_ | dsimp only | split | refine Evolves.ofFst (by assumption) ?_
    | refine Evolves.ofSnd (by assumption) ?_

theorem State.queueBlock2_evolves {s0 s : State} (h : Evolves s0 s) (p : Nat) : Evolves s0 (State.queueBlock2 s p) := by
  unfold State.queueBlock2
  with_reducible repeat' first
    | assumption | exact Evolves.refl _ | refine State.useFree_evolves ?_ .. | refine State.queueCmd_evolves ?_ ..
    | refine Evolves.foldl _ _ (fun u x hu => ?_) ?_ | dsimp only | split

theorem State.finishEnum_evolves {s0 s : State} (h : Evolves s0 s) (op : Op) : Evolves s0 (State.finishEnum s op) := by
  unfold State.finishEnum
  with_reducible repeat' first
    | assumption | exact Evolves.refl _ | refine State.finish_evolves ?_ .. | refine State.setRing_evolves ?_ ..
    | refine State.queueBlock1_evolves ?_ .. | refine State.queueBlock2_evolves ?_ ..
    | ((conv => arg 2; arg 25); refine Evolves.upd ?_ (fun h => h) rfl rfl rfl rfl) | dsimp only | split

theorem execRingEnumerate_leads (w : WorkRef) (hops : Nat) (answered : List Nat) (s : State) : Leads s (execRingEnumerate w hops answered s) := by
  unfold execRingEnumerate
  with_reducible repeat' first
    | refine Leads.next ?_ | assumption | exact Evolves.refl _ | refine State.emit_evolves ?_ ..
    | refine State.setOp_evolves ?_ .. | refine State.finish_evolves ?_ ..
    | refine Evolves.trans ?_ (State.engineOp_evolves _ _ _ fun op => ?_) | refine State.setRing_evolves ?_ ..
    | refine State.measure_evolves ?_ .. | refine State.enumFails_evolves ?_ ..
    | ((conv => arg 2; arg 25); refine Evolves.upd ?_ (fun h => h) rfl rfl rfl rfl)
    | refine Evolves.foldl _ _ (fun u x hu => ?_) ?_ | dsimp only | split

theorem execAlarmSymbolRx_leads (ring : Nat) (s : State) : Leads s (execAlarmSymbolRx ring s) := by
  unfold execAlarmSymbolRx
  with_reducible repeat' first
    | refine Leads.next ?_ | assumption | exact Evolves.refl _ | refine State.setRing_evolves ?_ ..
    | ((conv => arg 2; arg 25); refine Evolves.upd ?_ (fun h => h) rfl rfl rfl rfl) | dsimp only | split

theorem State.planeAlarm_evolves {s0 s : State} (h : Evolves s0 s) (ring pos cause channel reading epoch : Nat) :
    Evolves s0 (State.planeAlarm s ring pos cause channel reading epoch) := by
  unfold State.planeAlarm
  with_reducible repeat' first
    | assumption | exact Evolves.refl _ | refine State.protStep_evolves ?_ ?_ | refine State.tripCauses_evolves ?_ ..
    | refine State.judgeAux_evolves ?_ .. | ((conv => arg 2; arg 25); refine Evolves.upd ?_ (fun h => h) rfl rfl rfl rfl)
    | refine Evolves.foldl _ _ (fun u x hu => ?_) ?_ | dsimp only | split | refine Evolves.ofFst (by assumption) ?_
    | refine Evolves.ofSnd (by assumption) ?_

theorem execAlarmFrameRx_leads (ring pos cause channel reading epoch : Nat) (s : State) : Leads s (execAlarmFrameRx ring pos cause channel reading epoch s) := by
  unfold execAlarmFrameRx
  with_reducible repeat' first
    | refine Leads.next ?_ | assumption | exact Evolves.refl _ | refine State.setRing_evolves ?_ ..
    | refine State.setNode_evolves ?_ .. | refine State.sendCmd_evolves ?_ .. | refine State.planeAlarm_evolves ?_ ..
    | ((conv => arg 2; arg 25); refine Evolves.upd ?_ (fun h => h) rfl rfl rfl rfl) | dsimp only | split

theorem execAlarmUnnamed_leads (ring : Nat) (s : State) : Leads s (execAlarmUnnamed ring s) := by
  unfold execAlarmUnnamed
  with_reducible repeat' first
    | refine Leads.next ?_ | assumption | exact Evolves.refl _ | refine State.raise_evolves ?_ ..
    | refine State.record_evolves ?_ .. | refine State.setRing_evolves ?_ ..
    | ((conv => arg 2; arg 25); refine Evolves.upd ?_ (fun h => h) rfl rfl rfl rfl) | dsimp only | split

theorem execTapTestAuto_leads (ring : Nat) (s : State) : Leads s (execTapTestAuto ring s) := by
  unfold execTapTestAuto
  with_reducible repeat' first
    | refine Leads.next ?_ | assumption | exact Evolves.refl _ | refine State.setNode_evolves ?_ ..
    | refine State.sendCmd_evolves ?_ .. | ((conv => arg 2; arg 25); refine Evolves.upd ?_ (fun h => h) rfl rfl rfl rfl)
    | refine Evolves.foldl _ _ (fun u x hu => ?_) ?_ | dsimp only | split | refine Evolves.ofFst (by assumption) ?_
    | refine Evolves.ofSnd (by assumption) ?_

theorem execNodeCmd_leads (w : WorkRef) (s : State) : Leads s (execNodeCmd w s) := by
  unfold execNodeCmd
  with_reducible repeat' first
    | refine Leads.next ?_ | assumption | exact Evolves.refl _ | refine State.setOp_evolves ?_ ..
    | refine State.finish_evolves ?_ .. | refine Evolves.trans ?_ (State.engineOp_evolves _ _ _ fun op => ?_)
    | refine State.queueCmd_evolves ?_ .. | ((conv => arg 2; arg 25); refine Evolves.upd ?_ (fun h => h) rfl rfl rfl rfl)
    | dsimp only | split | refine Evolves.ofFst (by assumption) ?_ | refine Evolves.ofSnd (by assumption) ?_

theorem execTapTest_leads (w : WorkRef) (s : State) : Leads s (execTapTest w s) := by
  unfold execTapTest
  with_reducible repeat' first
    | refine Leads.next ?_ | assumption | exact Evolves.refl _ | refine State.setOp_evolves ?_ ..
    | refine State.finish_evolves ?_ .. | refine Evolves.trans ?_ (State.engineOp_evolves _ _ _ fun op => ?_)
    | refine State.queueCmd_evolves ?_ .. | ((conv => arg 2; arg 25); refine Evolves.upd ?_ (fun h => h) rfl rfl rfl rfl)
    | dsimp only | split | refine Evolves.ofFst (by assumption) ?_ | refine Evolves.ofSnd (by assumption) ?_

theorem execSweepCopy_leads (w : WorkRef) (s : State) : Leads s (execSweepCopy w s) := by
  unfold execSweepCopy
  with_reducible repeat' first
    | refine Leads.next ?_ | assumption | exact Evolves.refl _ | refine State.writeBuf_evolves ?_ ..
    | refine State.finish_evolves ?_ .. | refine Evolves.trans ?_ (State.engineOp_evolves _ _ _ fun op => ?_)
    | ((conv => arg 2; arg 25); refine Evolves.upd ?_ (fun h => h) rfl rfl rfl rfl) | dsimp only | split
    | refine Evolves.ofFst (by assumption) ?_ | refine Evolves.ofSnd (by assumption) ?_

theorem execDiagRead_leads (w : WorkRef) (body : List Byte) (s : State) : Leads s (execDiagRead w body s) := by
  unfold execDiagRead
  with_reducible repeat' first
    | refine Leads.next ?_ | assumption | exact Evolves.refl _ | refine State.emit_evolves ?_ ..
    | refine State.finish_evolves ?_ .. | refine Evolves.trans ?_ (State.engineOp_evolves _ _ _ fun op => ?_)
    | ((conv => arg 2; arg 25); refine Evolves.upd ?_ (fun h => h) rfl rfl rfl rfl) | dsimp only | split
    | refine Evolves.ofFst (by assumption) ?_ | refine Evolves.ofSnd (by assumption) ?_

theorem State.writeSlkCtrl_evolves {s0 s : State} (h : Evolves s0 s) (q : Requester) (v : Word) :
    Evolves s0 (State.writeSlkCtrl s q v) := by
  unfold State.writeSlkCtrl
  with_reducible repeat' first
    | assumption | exact Evolves.refl _ | refine State.refuseWrite_evolves ?_ .. | refine State.writeHeld_evolves ?_ ..
    | dsimp only | split | refine Evolves.ofFst (by assumption) ?_ | refine Evolves.ofSnd (by assumption) ?_

theorem State.writeSlkDither_evolves {s0 s : State} (h : Evolves s0 s) (q : Requester) (v : Word) :
    Evolves s0 (State.writeSlkDither s q v) := by
  unfold State.writeSlkDither
  with_reducible repeat' first
    | assumption | exact Evolves.refl _ | refine State.refuseWrite_evolves ?_ .. | refine State.writeHeld_evolves ?_ ..
    | dsimp only | split

theorem State.writeSlkPort_evolves {s0 s : State} (h : Evolves s0 s) (q : Requester) (p : Nat) (v : Word) :
    Evolves s0 (State.writeSlkPort s q p v) := by
  unfold State.writeSlkPort
  with_reducible repeat' first
    | assumption | exact Evolves.refl _ | refine State.writeHeld_evolves ?_ .. | refine State.setRing_evolves ?_ ..
    | refine State.sendState_evolves ?_ .. | ((conv => arg 2; arg 25); refine Evolves.upd ?_ (fun h => h) rfl rfl rfl rfl)
    | dsimp only | split

end Sys2Proof.Machine
end

