-- ==== Sys2Proof/Laws/Evolve/Estimator.lean ====
section
/-! SUPPORT. The operations of Machine/Estimator.lean keep what the relation `Evolves` says. -/

namespace Sys2Proof.Machine

theorem State.writeResults_evolves {s0 s : State} (h : Evolves s0 s) (p epoch : Nat) :
    Evolves s0 (State.writeResults s p epoch) := by
  unfold State.writeResults
  with_reducible repeat' first
    | assumption | exact Evolves.refl _
    | ((conv => arg 2; arg 25); first | refine Evolves.upd ?_ (Memory.writeN_wf _ _) rfl rfl rfl rfl | refine Evolves.upd ?_ (fun h => h) rfl rfl rfl rfl)
    | refine Evolves.foldl _ _ (fun u x hu => ?_) ?_ | dsimp only | split

theorem State.startEst_evolves {s0 s : State} (h : Evolves s0 s) : Evolves s0 (State.startEst s) := by
  unfold State.startEst
  with_reducible repeat' first
    | assumption | exact Evolves.refl _ | refine State.record_evolves ?_ .. | refine State.checkpoint_evolves ?_ ..
    | ((conv => arg 2; arg 25); refine Evolves.upd ?_ (fun h => h) rfl rfl rfl rfl) | dsimp only | split
    | refine Evolves.ofFst (by assumption) ?_ | refine Evolves.ofSnd (by assumption) ?_

theorem State.skipSweeps_evolves {s0 s : State} (h : Evolves s0 s) : Evolves s0 (State.skipSweeps s) := by
  unfold State.skipSweeps
  with_reducible repeat' first
    | assumption | exact Evolves.refl _ | ((conv => arg 2; arg 25); refine Evolves.upd ?_ (fun h => h) rfl rfl rfl rfl)
    | dsimp only | split | refine Evolves.ofFst (by assumption) ?_ | refine Evolves.ofSnd (by assumption) ?_

theorem State.takePending_evolves {s0 s : State} (h : Evolves s0 s) (idx epoch : Nat) (c : Cell) :
    Evolves s0 (State.takePending s idx epoch c).2 := by
  unfold State.takePending
  with_reducible repeat' first
    | assumption | exact Evolves.refl _ | refine State.raise_evolves ?_ .. | refine State.record_evolves ?_ ..
    | ((conv => arg 2; arg 25); refine Evolves.upd ?_ (fun h => h) rfl rfl rfl rfl)
    | refine Evolves.foldl _ _ (fun u x hu => ?_) ?_ | refine Evolves.foldlSnd _ _ (fun u x hu => ?_) ?_
    | refine Evolves.foldlFst _ _ (fun u x hu => ?_) ?_ | dsimp only | split | refine Evolves.ofFst (by assumption) ?_
    | refine Evolves.ofSnd (by assumption) ?_

theorem State.resetCell_evolves {s0 s : State} (h : Evolves s0 s) (idx : Nat) (full : Bool) (c : Cell) :
    Evolves s0 (State.resetCell s idx full c).2 := by
  unfold State.resetCell
  with_reducible repeat' first
    | assumption | exact Evolves.refl _ | refine State.record_evolves ?_ ..
    | ((conv => arg 2; arg 25); refine Evolves.upd ?_ (fun h => h) rfl rfl rfl rfl) | dsimp only | split

theorem State.cellStep_evolves {s0 s : State} (h : Evolves s0 s) (idx epoch : Nat) (cocoon : Bool) (c : Cell) :
    Evolves s0 (State.cellStep s idx epoch cocoon c) := by
  unfold State.cellStep
  with_reducible repeat' first
    | assumption | exact Evolves.refl _ | refine State.useFree_evolves ?_ .. | refine State.record_evolves ?_ ..
    | refine State.takePending_evolves ?_ .. | refine State.resetCell_evolves ?_ ..
    | ((conv => arg 2; arg 25); refine Evolves.upd ?_ (fun h => h) rfl rfl rfl rfl) | dsimp only | split
    | refine Evolves.ofFst (by assumption) ?_ | refine Evolves.ofSnd (by assumption) ?_

theorem State.markBlind_evolves {s0 s : State} (h : Evolves s0 s) : Evolves s0 (State.markBlind s) := by
  unfold State.markBlind
  with_reducible repeat' first
    | assumption | exact Evolves.refl _ | ((conv => arg 2; arg 25); refine Evolves.upd ?_ (fun h => h) rfl rfl rfl rfl)
    | dsimp only | split

theorem State.closePeriods_evolves {s0 s : State} (h : Evolves s0 s) (p epoch : Nat) :
    Evolves s0 (State.closePeriods s p epoch) := by
  unfold State.closePeriods
  with_reducible repeat' first
    | assumption | exact Evolves.refl _ | ((conv => arg 2; arg 25); refine Evolves.upd ?_ (fun h => h) rfl rfl rfl rfl)
    | dsimp only | split

theorem State.openInterval_evolves {s0 s : State} (h : Evolves s0 s) (p epoch : Nat) :
    Evolves s0 (State.openInterval s p epoch) := by
  unfold State.openInterval
  with_reducible repeat' first
    | assumption | exact Evolves.refl _ | ((conv => arg 2; arg 25); refine Evolves.upd ?_ (fun h => h) rfl rfl rfl rfl)
    | dsimp only | split | refine Evolves.ofFst (by assumption) ?_ | refine Evolves.ofSnd (by assumption) ?_

theorem State.updateRing_evolves {s0 s : State} (h : Evolves s0 s) (p epoch us : Nat) :
    Evolves s0 (State.updateRing s p epoch us) := by
  unfold State.updateRing
  with_reducible repeat' first
    | assumption | exact Evolves.refl _ | refine State.writeResults_evolves ?_ .. | refine State.cellStep_evolves ?_ ..
    | refine State.markBlind_evolves ?_ .. | refine State.closePeriods_evolves ?_ .. | refine State.openInterval_evolves ?_ ..
    | ((conv => arg 2; arg 25); refine Evolves.upd ?_ (fun h => h) rfl rfl rfl rfl)
    | refine Evolves.foldl _ _ (fun u x hu => ?_) ?_ | dsimp only | split

theorem execStrobeUpdate_leads (ring epoch arrayUs : Nat) (s : State) : Leads s (execStrobeUpdate ring epoch arrayUs s) := by
  unfold execStrobeUpdate
  with_reducible repeat' first
    | refine Leads.next ?_ | assumption | exact Evolves.refl _ | refine State.record_evolves ?_ ..
    | refine State.startEst_evolves ?_ .. | refine State.updateRing_evolves ?_ ..
    | ((conv => arg 2; arg 25); refine Evolves.upd ?_ (fun h => h) rfl rfl rfl rfl) | dsimp only | split
    | refine Evolves.ofFst (by assumption) ?_ | refine Evolves.ofSnd (by assumption) ?_

theorem execQuantityPublish_leads (epoch : Nat) (s : State) : Leads s (execQuantityPublish epoch s) := by
  unfold execQuantityPublish
  with_reducible repeat' first
    | refine Leads.next ?_ | assumption | exact Evolves.refl _ | refine State.useFree_evolves ?_ ..
    | refine State.arrive_evolves ?_ .. | ((conv => arg 2; arg 25); refine Evolves.upd ?_ (fun h => h) rfl rfl rfl rfl)
    | refine Evolves.foldl _ _ (fun u x hu => ?_) ?_ | dsimp only | split

theorem State.rsOutlier_evolves {s0 s : State} (h : Evolves s0 s) (idx : Nat) (c : Cell) :
    Evolves s0 (State.rsOutlier s idx c) := by
  unfold State.rsOutlier
  with_reducible repeat' first
    | assumption | exact Evolves.refl _ | refine State.record_evolves ?_ ..
    | ((conv => arg 2; arg 25); refine Evolves.upd ?_ (fun h => h) rfl rfl rfl rfl) | dsimp only | split

theorem State.paramStep_evolves {s0 s : State} (h : Evolves s0 s) (epoch idx : Nat) (o : Cell) :
    Evolves s0 (State.paramStep s epoch idx o) := by
  unfold State.paramStep
  with_reducible repeat' first
    | assumption | exact Evolves.refl _ | refine State.raise_evolves ?_ .. | refine State.record_evolves ?_ ..
    | refine State.rsOutlier_evolves ?_ .. | ((conv => arg 2; arg 25); refine Evolves.upd ?_ (fun h => h) rfl rfl rfl rfl)
    | dsimp only | split | refine Evolves.ofFst (by assumption) ?_ | refine Evolves.ofSnd (by assumption) ?_

theorem State.runWaiting_evolves {s0 s : State} (h : Evolves s0 s) : Evolves s0 (State.runWaiting s) := by
  unfold State.runWaiting
  with_reducible repeat' first
    | assumption | exact Evolves.refl _ | refine State.updateRing_evolves ?_ ..
    | ((conv => arg 2; arg 25); refine Evolves.upd ?_ (fun h => h) rfl rfl rfl rfl)
    | refine Evolves.foldl _ _ (fun u x hu => ?_) ?_ | dsimp only | split

theorem execParamUpdate_leads (epoch : Nat) (s : State) : Leads s (execParamUpdate epoch s) := by
  unfold execParamUpdate
  with_reducible repeat' first
    | refine Leads.next ?_ | assumption | exact Evolves.refl _ | refine State.paramStep_evolves ?_ ..
    | refine State.runWaiting_evolves ?_ .. | ((conv => arg 2; arg 25); refine Evolves.upd ?_ (fun h => h) rfl rfl rfl rfl)
    | refine Evolves.foldl _ _ (fun u x hu => ?_) ?_ | dsimp only | split | refine Evolves.ofFst (by assumption) ?_
    | refine Evolves.ofSnd (by assumption) ?_

theorem execSummary_leads (epoch : Nat) (s : State) : Leads s (execSummary epoch s) := by
  unfold execSummary
  with_reducible repeat' first
    | refine Leads.next ?_ | assumption | exact Evolves.refl _ | refine State.useFree_evolves ?_ ..
    | refine State.runWaiting_evolves ?_ .. | ((conv => arg 2; arg 25); refine Evolves.upd ?_ (fun h => h) rfl rfl rfl rfl)
    | dsimp only | split | refine Evolves.ofFst (by assumption) ?_ | refine Evolves.ofSnd (by assumption) ?_

theorem State.planNode_evolves {s0 s : State} (h : Evolves s0 s) (cap : Nat) (rate : F32) (p pos : Nat) :
    Evolves s0 (State.planNode s cap rate p pos) := by
  unfold State.planNode
  with_reducible repeat' first
    | assumption | exact Evolves.refl _ | refine State.setRing_evolves ?_ .. | refine State.queueCmd_evolves ?_ ..
    | ((conv => arg 2; arg 25); refine Evolves.upd ?_ (fun h => h) rfl rfl rfl rfl) | dsimp only | split

theorem State.planAll_evolves {s0 s : State} (h : Evolves s0 s) (cap : Nat) (rate : F32) :
    Evolves s0 (State.planAll s cap rate) := by
  unfold State.planAll
  with_reducible repeat' first
    | assumption | exact Evolves.refl _ | refine State.planNode_evolves ?_ ..
    | ((conv => arg 2; arg 25); refine Evolves.upd ?_ (fun h => h) rfl rfl rfl rfl)
    | refine Evolves.foldl _ _ (fun u x hu => ?_) ?_ | dsimp only | split | refine Evolves.ofFst (by assumption) ?_
    | refine Evolves.ofSnd (by assumption) ?_

theorem execBalancingPlan_leads (epoch : Nat) (s : State) : Leads s (execBalancingPlan epoch s) := by
  unfold execBalancingPlan
  with_reducible repeat' first
    | refine Leads.next ?_ | assumption | exact Evolves.refl _ | refine State.planAll_evolves ?_ ..
    | ((conv => arg 2; arg 25); refine Evolves.upd ?_ (fun h => h) rfl rfl rfl rfl) | dsimp only | split

theorem State.cocoonPlan_evolves {s0 s : State} (h : Evolves s0 s) : Evolves s0 (State.cocoonPlan s) := by
  unfold State.cocoonPlan
  with_reducible repeat' first
    | assumption | exact Evolves.refl _ | refine State.planAll_evolves ?_ .. | dsimp only | split

theorem execCellRead_leads (w : WorkRef) (s : State) : Leads s (execCellRead w s) := by
  unfold execCellRead
  with_reducible repeat' first
    | refine Leads.next ?_ | assumption | exact Evolves.refl _ | refine State.writeBuf_evolves ?_ ..
    | refine State.finish_evolves ?_ .. | refine Evolves.trans ?_ (State.engineOp_evolves _ _ _ fun op => ?_)
    | ((conv => arg 2; arg 25); refine Evolves.upd ?_ (fun h => h) rfl rfl rfl rfl) | dsimp only | split
    | refine Evolves.ofFst (by assumption) ?_ | refine Evolves.ofSnd (by assumption) ?_

theorem execCellReset_leads (w : WorkRef) (s : State) : Leads s (execCellReset w s) := by
  unfold execCellReset
  with_reducible repeat' first
    | refine Leads.next ?_ | assumption | exact Evolves.refl _
    | refine Evolves.trans ?_ (State.cutOp_evolves _ _ _ fun op => ?_) | refine State.finishCut_evolves ?_ ..
    | ((conv => arg 2; arg 25); refine Evolves.upd ?_ (fun h => h) rfl rfl rfl rfl) | dsimp only | split
    | refine Evolves.ofFst (by assumption) ?_ | refine Evolves.ofSnd (by assumption) ?_

theorem execHistoryRead_leads (w : WorkRef) (s : State) : Leads s (execHistoryRead w s) := by
  unfold execHistoryRead
  with_reducible repeat' first
    | refine Leads.next ?_ | assumption | exact Evolves.refl _ | refine State.writeBuf_evolves ?_ ..
    | refine State.finish_evolves ?_ .. | refine Evolves.trans ?_ (State.engineOp_evolves _ _ _ fun op => ?_)
    | ((conv => arg 2; arg 25); refine Evolves.upd ?_ (fun h => h) rfl rfl rfl rfl) | dsimp only | split
    | refine Evolves.ofFst (by assumption) ?_ | refine Evolves.ofSnd (by assumption) ?_

theorem execLifetimeRead_leads (w : WorkRef) (s : State) : Leads s (execLifetimeRead w s) := by
  unfold execLifetimeRead
  with_reducible repeat' first
    | refine Leads.next ?_ | assumption | exact Evolves.refl _ | refine State.writeBuf_evolves ?_ ..
    | refine State.finish_evolves ?_ .. | refine Evolves.trans ?_ (State.engineOp_evolves _ _ _ fun op => ?_)
    | ((conv => arg 2; arg 25); refine Evolves.upd ?_ (fun h => h) rfl rfl rfl rfl) | dsimp only | split
    | refine Evolves.ofFst (by assumption) ?_ | refine Evolves.ofSnd (by assumption) ?_

theorem execPlanRead_leads (w : WorkRef) (s : State) : Leads s (execPlanRead w s) := by
  unfold execPlanRead
  with_reducible repeat' first
    | refine Leads.next ?_ | assumption | exact Evolves.refl _ | refine State.finish_evolves ?_ ..
    | refine Evolves.trans ?_ (State.engineOp_evolves _ _ _ fun op => ?_) | dsimp only | split

theorem State.writeEstCtrl_evolves {s0 s : State} (h : Evolves s0 s) (q : Requester) (v : Word) :
    Evolves s0 (State.writeEstCtrl s q v) := by
  unfold State.writeEstCtrl
  with_reducible repeat' first
    | assumption | exact Evolves.refl _ | refine State.refuseWrite_evolves ?_ .. | refine State.writeHeld_evolves ?_ ..
    | refine State.startEst_evolves ?_ .. | refine State.skipSweeps_evolves ?_ ..
    | ((conv => arg 2; arg 25); refine Evolves.upd ?_ (fun h => h) rfl rfl rfl rfl) | dsimp only | split
    | refine Evolves.ofFst (by assumption) ?_ | refine Evolves.ofSnd (by assumption) ?_

theorem State.writeCk_evolves {s0 s : State} (h : Evolves s0 s) (q : Requester) (r : RegName) (v : Word) :
    Evolves s0 (State.writeCk s q r v) := by
  unfold State.writeCk
  with_reducible repeat' first
    | assumption | exact Evolves.refl _ | refine State.refuseWrite_evolves ?_ .. | refine State.writeHeld_evolves ?_ ..
    | dsimp only | split

end Sys2Proof.Machine
end

