-- ==== Sys2Proof/Laws/Evolve/LoopEngine.lean ====
section
/-! SUPPORT. The operations of Machine/LoopEngine.lean keep what the relation `Evolves` says. -/

namespace Sys2Proof.Machine

theorem State.setStage_evolves {s0 s : State} (h : Evolves s0 s) (n : Nat) (f : Stage → Stage) :
    Evolves s0 (State.setStage s n f) := by
  unfold State.setStage
  with_reducible repeat' first
    | assumption | exact Evolves.refl _ | ((conv => arg 2; arg 25); refine Evolves.upd ?_ (fun h => h) rfl rfl rfl rfl)
    | dsimp only

theorem State.staleOnset_evolves {s0 s : State} (h : Evolves s0 s) (n k : Nat) (was now : Bool) :
    Evolves s0 (State.staleOnset s n k was now) := by
  unfold State.staleOnset
  with_reducible repeat' first
    | assumption | exact Evolves.refl _ | refine State.raise_evolves ?_ .. | refine State.record_evolves ?_ .. | dsimp only
    | split

theorem State.evalSlot_evolves {s0 s : State} (h : Evolves s0 s) (n stamp : Nat) (late : Bool) (skips : Nat) :
    Evolves s0 (State.evalSlot s n stamp late skips) := by
  unfold State.evalSlot
  with_reducible repeat' first
    | assumption | exact Evolves.refl _ | refine State.useFree_evolves ?_ .. | refine State.record_evolves ?_ ..
    | refine State.setSlot_evolves ?_ .. | refine State.staleOnset_evolves ?_ ..
    | ((conv => arg 2; arg 25); refine Evolves.upd ?_ (fun h => h) rfl rfl rfl rfl) | dsimp only | split
    | refine Evolves.ofFst (by assumption) ?_ | refine Evolves.ofSnd (by assumption) ?_

theorem State.deliverTo_evolves {s0 s : State} (h : Evolves s0 s) (dest : Nat) (v : F32) :
    Evolves s0 (State.deliverTo s dest v) := by
  unfold State.deliverTo
  with_reducible repeat' first
    | assumption | exact Evolves.refl _ | refine State.setAo_evolves ?_ .. | refine State.setSignal_evolves ?_ ..
    | ((conv => arg 2; arg 25); refine Evolves.upd ?_ (fun h => h) rfl rfl rfl rfl) | dsimp only | split
    | refine Evolves.ofFst (by assumption) ?_ | refine Evolves.ofSnd (by assumption) ?_

theorem State.setExt_evolves {s0 s : State} (h : Evolves s0 s) (o : Nat) (c : Option Nat) : Evolves s0 (State.setExt s o c) := by
  unfold State.setExt
  with_reducible repeat' first
    | assumption | exact Evolves.refl _ | refine State.raise_evolves ?_ .. | refine State.record_evolves ?_ ..
    | refine State.setStage_evolves ?_ .. | ((conv => arg 2; arg 25); refine Evolves.upd ?_ (fun h => h) rfl rfl rfl rfl)
    | dsimp only | split

theorem State.runStage_evolves {s0 s : State} (h : Evolves s0 s) (o stamp : Nat) (uIn : Option F32) :
    Evolves s0 (State.runStage s o stamp uIn) := by
  unfold State.runStage
  with_reducible repeat' first
    | assumption | exact Evolves.refl _ | refine State.record_evolves ?_ .. | refine State.setStage_evolves ?_ ..
    | refine State.deliverTo_evolves ?_ .. | ((conv => arg 2; arg 25); refine Evolves.upd ?_ (fun h => h) rfl rfl rfl rfl)
    | dsimp only | split

theorem State.evalGroup_self (s : State) (g stamp : Nat) (late : Bool) (skips : Nat) :
    Evolves s (State.evalGroup s g stamp late skips) := by
  have h0 : Evolves s ((s.enabledMembers g).foldl (fun s n => s.evalSlot n stamp late skips) s) :=
    Evolves.foldl _ _ (fun _ _ hu => Evolves.trans hu (State.evalSlot_evolves (Evolves.refl _) ..)) (Evolves.refl s)
  unfold State.evalGroup
  dsimp only
  generalize (s.enabledMembers g).foldl (fun s n => s.evalSlot n stamp late skips) s = t at h0 ⊢
  split
  · refine Evolves.upd (t := List.foldl _ _ _) (Evolves.foldl _ _ (fun _ _ hu => Evolves.trans hu (State.setSlot_evolves (Evolves.refl _) ..)) ?_) (fun h => h)
      rfl rfl rfl rfl
    exact Evolves.trans h0 (State.runStage_evolves (Evolves.refl _) ..)
  · refine Evolves.upd (t := List.foldl _ _ _) (Evolves.foldl _ _ (fun _ _ hu => Evolves.trans hu (State.setSlot_evolves (Evolves.refl _) ..)) ?_) (fun h => h)
      rfl rfl rfl rfl
    refine Evolves.trans (Evolves.opt h0 ?_) (State.runStage_evolves (Evolves.refl _) ..)
    exact State.record_evolves (Evolves.refl _) ..

theorem State.evalGroup_evolves {s0 s : State} (h : Evolves s0 s) (g stamp : Nat) (late : Bool) (skips : Nat) : Evolves s0 (State.evalGroup s g stamp late skips) :=
  h.trans (State.evalGroup_self s g stamp late skips)

theorem State.evalAlone_evolves {s0 s : State} (h : Evolves s0 s) (n stamp : Nat) (late : Bool) (skips : Nat) :
    Evolves s0 (State.evalAlone s n stamp late skips) := by
  unfold State.evalAlone
  with_reducible repeat' first
    | assumption | exact Evolves.refl _ | refine State.record_evolves ?_ .. | refine State.setSlot_evolves ?_ ..
    | refine State.evalSlot_evolves ?_ .. | refine State.runStage_evolves ?_ .. | dsimp only | split

theorem State.aiInputs_evolves {s0 s : State} (h : Evolves s0 s) (l : List ManEntry) (stamp : Nat) :
    Evolves s0 (State.aiInputs s l stamp) := by
  unfold State.aiInputs
  with_reducible repeat' first
    | assumption | exact Evolves.refl _ | refine State.setInput_evolves ?_ .. | refine Evolves.foldl _ _ (fun u x hu => ?_) ?_
    | dsimp only | split

theorem State.takeArrived_evolves {s0 s : State} (h : Evolves s0 s) (p : ManEntry → Bool) :
    Evolves s0 (State.takeArrived s p) := by
  unfold State.takeArrived
  with_reducible repeat' first
    | assumption | exact Evolves.refl _ | ((conv => arg 2; arg 25); refine Evolves.upd ?_ (fun h => h) rfl rfl rfl rfl)
    | refine Evolves.foldl _ _ (fun u x hu => ?_) ?_ | dsimp only | split

theorem State.stationInputs_evolves {s0 s : State} (h : Evolves s0 s) (station stamp : Nat) (ws : List Word) (valid : Bool) :
    Evolves s0 (State.stationInputs s station stamp ws valid) := by
  unfold State.stationInputs
  with_reducible repeat' first
    | assumption | exact Evolves.refl _ | refine State.setInput_evolves ?_ .. | refine Evolves.foldl _ _ (fun u x hu => ?_) ?_
    | dsimp only | split

theorem State.takeNamed_evolves {s0 s : State} (h : Evolves s0 s) (stamp : Nat) (e : ManEntry) :
    Evolves s0 (State.takeNamed s stamp e) := by
  unfold State.takeNamed
  with_reducible repeat' first
    | assumption | exact Evolves.refl _ | refine State.setInput_evolves ?_ .. | refine State.takeArrived_evolves ?_ ..
    | refine State.stationInputs_evolves ?_ .. | ((conv => arg 2; arg 25); refine Evolves.upd ?_ (fun h => h) rfl rfl rfl rfl)
    | refine Evolves.foldl _ _ (fun u x hu => ?_) ?_ | dsimp only | split | refine Evolves.ofFst (by assumption) ?_
    | refine Evolves.ofSnd (by assumption) ?_

theorem State.sendManifest_evolves {s0 s : State} (h : Evolves s0 s) (m : ManSt) (astatus : Nat) :
    Evolves s0 (State.sendManifest s m astatus) := by
  unfold State.sendManifest
  with_reducible repeat' first
    | assumption | exact Evolves.refl _ | refine State.sendWb_evolves ?_ .. | refine Evolves.foldl _ _ (fun u x hu => ?_) ?_
    | dsimp only | split

theorem State.coverLoop_evolves {s0 s : State} (h : Evolves s0 s) (window cut : Nat) (work : List Op) :
    Evolves s0 (State.coverLoop s window cut work) := by
  unfold State.coverLoop
  with_reducible repeat' first
    | assumption | exact Evolves.refl _ | ((conv => arg 2; arg 25); refine Evolves.upd ?_ (fun h => h) rfl rfl rfl rfl)
    | dsimp only | split

theorem State.noteSat_evolves {s0 s : State} (h : Evolves s0 s) (cause : State → Nat → Option Nat) :
    Evolves s0 (State.noteSat s cause) := by
  unfold State.noteSat
  with_reducible repeat' first
    | assumption | exact Evolves.refl _ | refine State.record_evolves ?_ .. | refine State.setExt_evolves ?_ ..
    | refine Evolves.foldl _ _ (fun u x hu => ?_) ?_ | dsimp only | split

theorem State.useArrived_evolves {s0 s : State} (h : Evolves s0 s) : Evolves s0 (State.useArrived s) := by
  unfold State.useArrived
  with_reducible repeat' first
    | assumption | exact Evolves.refl _ | refine State.takeArrived_evolves ?_ ..
    | ((conv => arg 2; arg 25); refine Evolves.upd ?_ (fun h => h) rfl rfl rfl rfl)
    | refine Evolves.foldl _ _ (fun u x hu => ?_) ?_ | dsimp only | split

theorem execLoopBundleTx_leads (window : Nat) (ai : List Nat) (s : State) : Leads s (execLoopBundleTx window ai s) := by
  unfold execLoopBundleTx
  with_reducible repeat' first
    | refine Leads.next ?_ | assumption | exact Evolves.refl _ | refine State.record_evolves ?_ ..
    | refine State.noteEpochs_evolves ?_ .. | refine State.takeAis_evolves ?_ .. | refine State.aiInputs_evolves ?_ ..
    | refine State.sendManifest_evolves ?_ .. | refine State.coverLoop_evolves ?_ .. | refine State.noteSat_evolves ?_ ..
    | refine State.useArrived_evolves ?_ .. | ((conv => arg 2; arg 25); refine Evolves.upd ?_ (fun h => h) rfl rfl rfl rfl)
    | dsimp only | split

theorem State.takeBundle_evolves {s t : State} {window : Nat} (h : State.takeBundle s window = some t) : Evolves s t := by
  unfold State.takeBundle at h
  split at h
  · cases h
  · split at h
    · cases h; exact Evolves.refl s
    · dsimp only at h
      cases h
      refine Evolves.upd (t := State.coverLoop _ _ _ _) (State.coverLoop_evolves (State.noteEpochs_evolves (State.aiInputs_evolves ?_ ..) ..) ..) (fun h => h)
        rfl rfl rfl rfl
      refine Evolves.foldl _ _ (fun u x hu => ?_) (State.noteSat_evolves (Evolves.refl s) ..)
      split
      · exact hu
      · exact State.takeNamed_evolves hu ..

theorem State.ownInputs_evolves {s0 s : State} (h : Evolves s0 s) (window : Nat) : Evolves s0 (State.ownInputs s window) := by
  unfold State.ownInputs
  with_reducible repeat' first
    | assumption | exact Evolves.refl _ | refine State.takeArrived_evolves ?_ .. | dsimp only | split

theorem execLoopSample_leads (slot stamp : Nat) (late : Bool) (skips : Nat) (s : State) :
    Leads s (execLoopSample slot stamp late skips s) := by
  unfold execLoopSample
  refine Leads.next ?_
  split
  · exact Evolves.refl s
  · have key : ∀ t, (if s.holds then some (s.ownInputs (stamp / 65536)) else if s.follows then s.takeBundle (stamp / 65536) else none) = some t →
        Evolves s t := by
      intro t e
      split at e
      · cases e; exact State.ownInputs_evolves (Evolves.refl s) ..
      · split at e
        · exact State.takeBundle_evolves e
        · cases e
    dsimp only
    generalize (if s.holds then some (s.ownInputs (stamp / 65536)) else if s.follows then s.takeBundle (stamp / 65536) else none) = o at key ⊢
    cases o with
    | none => exact Evolves.refl s
    | some t =>
      have h := (key t rfl).trans (State.applySetpoint_evolves (Evolves.refl t) stamp)
      dsimp only
      generalize t.applySetpoint stamp = u at h ⊢
      split
      · split
        · exact Evolves.trans h (State.evalGroup_evolves (Evolves.refl _) ..)
        · exact h
      · exact Evolves.trans h (State.evalAlone_evolves (Evolves.refl _) ..)

theorem State.refuseLoop_evolves {s0 s : State} (h : Evolves s0 s) (op : Op) (reason : Nat) :
    Evolves s0 (State.refuseLoop s op reason) := by
  unfold State.refuseLoop
  with_reducible repeat' first
    | assumption | exact Evolves.refl _ | refine State.record_evolves ?_ .. | refine State.finishCut_evolves ?_ ..
    | ((conv => arg 2; arg 25); refine Evolves.upd ?_ (fun h => h) rfl rfl rfl rfl) | dsimp only

theorem State.loopOp_evolves {s : State} (w : WorkRef) (opcode : Nat) {f : Op → State → State} (hf : ∀ op t, Evolves t (f op t)) :
    Evolves s (State.loopOp s w opcode f) := by
  refine State.cutOp_evolves w 1 opcode fun op => ?_
  dsimp only
  split
  · exact hf op s
  · split
    · exact Evolves.refl s
    · split
      · refine Evolves.trans ?_ (State.finishCut_evolves (Evolves.refl _) ..)
        with_reducible exact Evolves.upd (Evolves.refl s) (fun h => h) rfl rfl rfl rfl
      · refine Evolves.trans ?_ (hf ..)
        with_reducible exact Evolves.upd (Evolves.refl s) (fun h => h) rfl rfl rfl rfl

theorem execSlotWrite_leads (w : WorkRef) (s : State) : Leads s (execSlotWrite w s) := by
  unfold execSlotWrite
  with_reducible repeat' first
    | refine Leads.next ?_ | assumption | exact Evolves.refl _ | refine State.record_evolves ?_ ..
    | refine State.setSlot_evolves ?_ .. | refine State.finishCut_evolves ?_ .. | refine State.refuseLoop_evolves ?_ ..
    | refine Evolves.trans ?_ (State.loopOp_evolves _ _ fun op u => ?_)
    | ((conv => arg 2; arg 25); refine Evolves.upd ?_ (fun h => h) rfl rfl rfl rfl) | dsimp only | split
    | refine Evolves.ofFst (by assumption) ?_ | refine Evolves.ofSnd (by assumption) ?_

theorem execSlotEnable_leads (w : WorkRef) (s : State) : Leads s (execSlotEnable w s) := by
  unfold execSlotEnable
  with_reducible repeat' first
    | refine Leads.next ?_ | assumption | exact Evolves.refl _ | refine State.setSlot_evolves ?_ ..
    | refine State.finishCut_evolves ?_ .. | refine State.setStage_evolves ?_ .. | refine State.runStage_evolves ?_ ..
    | refine State.refuseLoop_evolves ?_ .. | refine Evolves.trans ?_ (State.loopOp_evolves _ _ fun op u => ?_)
    | ((conv => arg 2; arg 25); refine Evolves.upd ?_ (fun h => h) rfl rfl rfl rfl) | dsimp only | split
    | refine Evolves.ofFst (by assumption) ?_ | refine Evolves.ofSnd (by assumption) ?_

theorem execSetTarget_leads (w : WorkRef) (s : State) : Leads s (execSetTarget w s) := by
  unfold execSetTarget
  with_reducible repeat' first
    | refine Leads.next ?_ | assumption | exact Evolves.refl _ | refine State.record_evolves ?_ ..
    | refine State.setSlot_evolves ?_ .. | refine State.finishCut_evolves ?_ .. | refine State.refuseLoop_evolves ?_ ..
    | refine Evolves.trans ?_ (State.loopOp_evolves _ _ fun op u => ?_)
    | ((conv => arg 2; arg 25); refine Evolves.upd ?_ (fun h => h) rfl rfl rfl rfl) | dsimp only | split

theorem execGroupWrite_leads (w : WorkRef) (s : State) : Leads s (execGroupWrite w s) := by
  unfold execGroupWrite
  with_reducible repeat' first
    | refine Leads.next ?_ | assumption | exact Evolves.refl _ | refine State.finishCut_evolves ?_ ..
    | refine State.refuseLoop_evolves ?_ .. | refine Evolves.trans ?_ (State.loopOp_evolves _ _ fun op u => ?_)
    | ((conv => arg 2; arg 25); refine Evolves.upd ?_ (fun h => h) rfl rfl rfl rfl) | dsimp only | split
    | refine Evolves.ofFst (by assumption) ?_ | refine Evolves.ofSnd (by assumption) ?_

theorem execOutWrite_leads (w : WorkRef) (s : State) : Leads s (execOutWrite w s) := by
  unfold execOutWrite
  with_reducible repeat' first
    | refine Leads.next ?_ | assumption | exact Evolves.refl _ | refine State.finishCut_evolves ?_ ..
    | refine State.setStage_evolves ?_ .. | refine State.refuseLoop_evolves ?_ ..
    | refine Evolves.trans ?_ (State.loopOp_evolves _ _ fun op u => ?_)
    | ((conv => arg 2; arg 25); refine Evolves.upd ?_ (fun h => h) rfl rfl rfl rfl) | dsimp only | split

theorem execTableLoad_leads (w : WorkRef) (s : State) : Leads s (execTableLoad w s) := by
  unfold execTableLoad
  with_reducible repeat' first
    | refine Leads.next ?_ | assumption | exact Evolves.refl _ | refine State.finishCut_evolves ?_ ..
    | refine State.refuseLoop_evolves ?_ .. | refine Evolves.trans ?_ (State.loopOp_evolves _ _ fun op u => ?_)
    | ((conv => arg 2; arg 25); refine Evolves.upd ?_ (fun h => h) rfl rfl rfl rfl) | dsimp only | split
    | refine Evolves.ofFst (by assumption) ?_ | refine Evolves.ofSnd (by assumption) ?_

theorem execSlotRead_leads (w : WorkRef) (s : State) : Leads s (execSlotRead w s) := by
  unfold execSlotRead
  with_reducible repeat' first
    | refine Leads.next ?_ | assumption | exact Evolves.refl _ | refine State.record_evolves ?_ ..
    | refine State.finish_evolves ?_ .. | refine Evolves.trans ?_ (State.engineOp_evolves _ _ _ fun op => ?_)
    | ((conv => arg 2; arg 25); refine Evolves.upd ?_ (fun h => h) rfl rfl rfl rfl) | dsimp only | split

end Sys2Proof.Machine
end

