-- ==== Sys2Proof/Laws/Evolve/Artefacts.lean ====
section
/-! SUPPORT. The operations of Machine/Artefacts.lean keep what the relation `Evolves` says. -/

namespace Sys2Proof.Machine

theorem State.sigFail_evolves {s0 s : State} (h : Evolves s0 s) (type check : Nat) : Evolves s0 (State.sigFail s type check) := by
  unfold State.sigFail
  with_reducible repeat' first
    | assumption | exact Evolves.refl _ | refine State.raise_evolves ?_ .. | refine State.record_evolves ?_ ..
    | ((conv => arg 2; arg 25); refine Evolves.upd ?_ (fun h => h) rfl rfl rfl rfl) | dsimp only

theorem State.keepNonce_evolves {s0 s : State} (h : Evolves s0 s) (a : Artefact) : Evolves s0 (State.keepNonce s a) := by
  unfold State.keepNonce
  with_reducible repeat' first
    | assumption | exact Evolves.refl _ | ((conv => arg 2; arg 25); refine Evolves.upd ?_ (fun h => h) rfl rfl rfl rfl)
    | dsimp only | split

end Sys2Proof.Machine
end

