-- ==== Sys2Proof/Laws/Evolve/Protection.lean ====
section
/-! SUPPORT. The operations of Machine/Protection.lean keep what the relation `Evolves` says. -/

namespace Sys2Proof.Machine

theorem State.protRefuse_evolves {s0 s : State} (h : Evolves s0 s) (op : Op) (reason : Nat) :
    Evolves s0 (State.protRefuse s op reason) := by
  unfold State.protRefuse
  with_reducible repeat' first
    | assumption | exact Evolves.refl _ | refine State.finishCut_evolves ?_ .. | dsimp only

theorem State.coveredOp_evolves {s : State} (w : WorkRef) (engine opcode : Nat) {f : Op → State → State} (hf : ∀ op, Evolves s (f op s)) :
    Evolves s (State.coveredOp s w engine opcode f) := by
  refine State.cutOp_evolves w engine opcode fun op => ?_
  split
  · exact hf op
  · split
    · exact hf op
    · exact Evolves.refl s

theorem execProtStage_leads (w : WorkRef) (s : State) : Leads s (execProtStage w s) := by
  unfold execProtStage
  with_reducible repeat' first
    | refine Leads.next ?_ | assumption | exact Evolves.refl _ | refine State.raise_evolves ?_ ..
    | refine State.record_evolves ?_ .. | refine Evolves.trans ?_ (State.cutOp_evolves _ _ _ fun op => ?_)
    | refine State.finishCut_evolves ?_ .. | refine State.sigFail_evolves ?_ .. | refine State.protRefuse_evolves ?_ ..
    | ((conv => arg 2; arg 25); refine Evolves.upd ?_ (fun h => h) rfl rfl rfl rfl) | dsimp only | split
    | refine Evolves.ofFst (by assumption) ?_ | refine Evolves.ofSnd (by assumption) ?_

theorem State.commitSet_evolves {s0 s : State} (h : Evolves s0 s) (x : ProtSet) (jsn q : Nat) :
    Evolves s0 (State.commitSet s x jsn q) := by
  unfold State.commitSet
  with_reducible repeat' first
    | assumption | exact Evolves.refl _ | refine State.raise_evolves ?_ .. | refine State.record_evolves ?_ ..
    | refine State.protStep_evolves ?_ ?_ | refine State.switchRings_evolves ?_ .. | refine State.queueBlock1_evolves ?_ ..
    | ((conv => arg 2; arg 25); refine Evolves.upd ?_ (fun h => h) rfl rfl rfl rfl)
    | refine Evolves.foldl _ _ (fun u x hu => ?_) ?_ | dsimp only | split

theorem execProtCommit_leads (w : WorkRef) (s : State) : Leads s (execProtCommit w s) := by
  unfold execProtCommit
  with_reducible repeat' first
    | refine Leads.next ?_ | assumption | exact Evolves.refl _ | refine State.finishCut_evolves ?_ ..
    | refine State.protRefuse_evolves ?_ .. | refine Evolves.trans ?_ (State.coveredOp_evolves _ _ _ fun op => ?_)
    | refine State.commitSet_evolves ?_ .. | ((conv => arg 2; arg 25); refine Evolves.upd ?_ (fun h => h) rfl rfl rfl rfl)
    | dsimp only | split | refine Evolves.ofFst (by assumption) ?_ | refine Evolves.ofSnd (by assumption) ?_

theorem execProtDiscard_leads (w : WorkRef) (s : State) : Leads s (execProtDiscard w s) := by
  unfold execProtDiscard
  with_reducible repeat' first
    | refine Leads.next ?_ | assumption | exact Evolves.refl _
    | refine Evolves.trans ?_ (State.cutOp_evolves _ _ _ fun op => ?_) | refine State.finishCut_evolves ?_ ..
    | refine State.protRefuse_evolves ?_ .. | ((conv => arg 2; arg 25); refine Evolves.upd ?_ (fun h => h) rfl rfl rfl rfl)
    | dsimp only | split | refine Evolves.ofFst (by assumption) ?_ | refine Evolves.ofSnd (by assumption) ?_

theorem State.clearTrips_evolves {s0 s : State} (h : Evolves s0 s) (l : List Nat) : Evolves s0 (State.clearTrips s l) := by
  unfold State.clearTrips
  with_reducible repeat' first
    | assumption | exact Evolves.refl _ | refine State.setStr_evolves ?_ ..
    | ((conv => arg 2; arg 25); refine Evolves.upd ?_ (fun h => h) rfl rfl rfl rfl)
    | refine Evolves.foldl _ _ (fun u x hu => ?_) ?_ | dsimp only | split

theorem execProtReset_leads (w : WorkRef) (s : State) : Leads s (execProtReset w s) := by
  unfold execProtReset
  with_reducible repeat' first
    | refine Leads.next ?_ | assumption | exact Evolves.refl _ | refine State.record_evolves ?_ ..
    | refine Evolves.trans ?_ (State.cutOp_evolves _ _ _ fun op => ?_) | refine State.finishCut_evolves ?_ ..
    | refine State.setGroup_evolves ?_ .. | refine State.protStep_evolves ?_ ?_ | refine State.protRefuse_evolves ?_ ..
    | refine State.clearTrips_evolves ?_ .. | ((conv => arg 2; arg 25); refine Evolves.upd ?_ (fun h => h) rfl rfl rfl rfl)
    | refine Evolves.foldl _ _ (fun u x hu => ?_) ?_ | dsimp only | split | refine Evolves.ofFst (by assumption) ?_
    | refine Evolves.ofSnd (by assumption) ?_

theorem execProtTest_leads (w : WorkRef) (ownOff partnerOff confirmOpen : Bool) (s : State) : Leads s (execProtTest w ownOff partnerOff confirmOpen s) := by
  unfold execProtTest
  with_reducible repeat' first
    | refine Leads.next ?_ | assumption | exact Evolves.refl _ | refine State.record_evolves ?_ ..
    | refine Evolves.trans ?_ (State.cutOp_evolves _ _ _ fun op => ?_) | refine State.finishCut_evolves ?_ ..
    | refine State.setGroup_evolves ?_ .. | refine State.protStep_evolves ?_ ?_ | refine State.tripGroups_evolves ?_ ..
    | refine State.protRefuse_evolves ?_ .. | ((conv => arg 2; arg 25); refine Evolves.upd ?_ (fun h => h) rfl rfl rfl rfl)
    | dsimp only | split

theorem execProtRead_leads (w : WorkRef) (s : State) : Leads s (execProtRead w s) := by
  unfold execProtRead
  with_reducible repeat' first
    | refine Leads.next ?_ | assumption | exact Evolves.refl _ | refine State.writeBuf_evolves ?_ ..
    | refine State.finish_evolves ?_ .. | refine Evolves.trans ?_ (State.engineOp_evolves _ _ _ fun op => ?_)
    | ((conv => arg 2; arg 25); refine Evolves.upd ?_ (fun h => h) rfl rfl rfl rfl) | dsimp only | split
    | refine Evolves.ofFst (by assumption) ?_ | refine Evolves.ofSnd (by assumption) ?_

end Sys2Proof.Machine
end

