-- ==== Sys2Proof/Laws/Evolve/DspService.lean ====
section
/-! SUPPORT. The operations of Machine/DspService.lean keep what the relation `Evolves` says. -/

namespace Sys2Proof.Machine

theorem State.sendCyclic_evolves {s0 s : State} (h : Evolves s0 s) (f : NetFrame) : Evolves s0 (State.sendCyclic s f) := by
  unfold State.sendCyclic
  with_reducible repeat' first
    | assumption | exact Evolves.refl _ | refine State.emit_evolves ?_ .. | dsimp only | split

theorem State.takeCyclic_evolves {s0 s : State} (h : Evolves s0 s) (id epoch seq : Nat) :
    Evolves s0 (State.takeCyclic s id epoch seq) := by
  unfold State.takeCyclic
  with_reducible repeat' first
    | assumption | exact Evolves.refl _ | ((conv => arg 2; arg 25); refine Evolves.upd ?_ (fun h => h) rfl rfl rfl rfl)
    | dsimp only

theorem execDspReport_leads (s : State) : Leads s (execDspReport s) := by
  unfold execDspReport
  with_reducible repeat' first
    | refine Leads.next ?_ | assumption | exact Evolves.refl _ | refine State.sendCyclic_evolves ?_ ..
    | ((conv => arg 2; arg 25); refine Evolves.upd ?_ (fun h => h) rfl rfl rfl rfl) | dsimp only | split
    | refine Evolves.ofFst (by assumption) ?_ | refine Evolves.ofSnd (by assumption) ?_

theorem State.noteAbsent_evolves {s0 s : State} (h : Evolves s0 s) : Evolves s0 (State.noteAbsent s) := by
  unfold State.noteAbsent
  with_reducible repeat' first
    | assumption | exact Evolves.refl _ | refine State.raise_evolves ?_ .. | refine State.record_evolves ?_ ..
    | ((conv => arg 2; arg 25); refine Evolves.upd ?_ (fun h => h) rfl rfl rfl rfl)
    | refine Evolves.foldl _ _ (fun u x hu => ?_) ?_ | dsimp only | split

theorem State.allocateNow_evolves {s0 s : State} (h : Evolves s0 s) : Evolves s0 (State.allocateNow s) := by
  unfold State.allocateNow
  with_reducible repeat' first
    | assumption | exact Evolves.refl _ | refine State.sendCyclic_evolves ?_ .. | refine State.noteAbsent_evolves ?_ ..
    | ((conv => arg 2; arg 25); refine Evolves.upd ?_ (fun h => h) rfl rfl rfl rfl)
    | refine Evolves.foldl _ _ (fun u x hu => ?_) ?_ | dsimp only | split | refine Evolves.ofFst (by assumption) ?_
    | refine Evolves.ofSnd (by assumption) ?_

theorem execDspAlloc_leads (s : State) : Leads s (execDspAlloc s) := by
  unfold execDspAlloc
  refine Leads.next ?_
  generalize s.dspRelease _ = o
  rcases o with _ | ⟨k, t⟩
  · exact Evolves.refl s
  · dsimp only
    split
    · exact Evolves.refl s
    · exact State.allocateNow_evolves (Evolves.upd (Evolves.refl s) (fun h => h) rfl rfl rfl rfl)

theorem execWorkerReportRx_leads (r : WorkerReport) (stream epoch seq : Nat) (s : State) : Leads s (execWorkerReportRx r stream epoch seq s) := by
  unfold execWorkerReportRx
  with_reducible repeat' first
    | refine Leads.next ?_ | assumption | exact Evolves.refl _ | refine State.takeCyclic_evolves ?_ ..
    | ((conv => arg 2; arg 25); refine Evolves.upd ?_ (fun h => h) rfl rfl rfl rfl) | dsimp only | split

theorem State.takeSetpointFrame_evolves {s0 s : State} (h : Evolves s0 s) (sp : SetPoint) (seq : Nat) :
    Evolves s0 (State.takeSetpointFrame s sp seq) := by
  unfold State.takeSetpointFrame
  with_reducible repeat' first
    | assumption | exact Evolves.refl _ | refine State.raise_evolves ?_ .. | refine State.record_evolves ?_ ..
    | refine State.applySetpoint_evolves ?_ .. | ((conv => arg 2; arg 25); refine Evolves.upd ?_ (fun h => h) rfl rfl rfl rfl)
    | dsimp only | split

theorem execSetpointFrameRx_leads (sp : SetPoint) (epoch seq : Nat) (s : State) : Leads s (execSetpointFrameRx sp epoch seq s) := by
  unfold execSetpointFrameRx
  with_reducible repeat' first
    | refine Leads.next ?_ | assumption | exact Evolves.refl _ | refine State.takeAnchor_evolves ?_ ..
    | refine State.takeCyclic_evolves ?_ .. | refine State.takeSetpointFrame_evolves ?_ .. | dsimp only | split

theorem State.dspFallBack_evolves {s0 s : State} (h : Evolves s0 s) : Evolves s0 (State.dspFallBack s) := by
  unfold State.dspFallBack
  with_reducible repeat' first
    | assumption | exact Evolves.refl _ | refine State.record_evolves ?_ .. | refine State.setSlot_evolves ?_ ..
    | ((conv => arg 2; arg 25); refine Evolves.upd ?_ (fun h => h) rfl rfl rfl rfl) | dsimp only | split

theorem execDspFallback_leads (s : State) : Leads s (execDspFallback s) := by
  unfold execDspFallback
  with_reducible repeat' first
    | refine Leads.next ?_ | assumption | exact Evolves.refl _ | refine State.dspFallBack_evolves ?_ .. | dsimp only

theorem execDspFfr_leads (s : State) : Leads s (execDspFfr s) := by
  unfold execDspFfr
  with_reducible repeat' first
    | refine Leads.next ?_ | assumption | exact Evolves.refl _ | refine State.applySetpoint_evolves ?_ ..
    | refine State.setInput_evolves ?_ .. | ((conv => arg 2; arg 25); refine Evolves.upd ?_ (fun h => h) rfl rfl rfl rfl)
    | dsimp only | split

theorem execDspPlantSet_leads (w : WorkRef) (s : State) : Leads s (execDspPlantSet w s) := by
  unfold execDspPlantSet
  with_reducible repeat' first
    | refine Leads.next ?_ | assumption | exact Evolves.refl _ | refine State.finishCut_evolves ?_ ..
    | refine Evolves.trans ?_ (State.coveredOp_evolves _ _ _ fun op => ?_)
    | ((conv => arg 2; arg 25); refine Evolves.upd ?_ (fun h => h) rfl rfl rfl rfl) | dsimp only | split

theorem execDspWorkerEnable_leads (w : WorkRef) (s : State) : Leads s (execDspWorkerEnable w s) := by
  unfold execDspWorkerEnable
  with_reducible repeat' first
    | refine Leads.next ?_ | assumption | exact Evolves.refl _ | refine State.finishCut_evolves ?_ ..
    | refine Evolves.trans ?_ (State.coveredOp_evolves _ _ _ fun op => ?_)
    | ((conv => arg 2; arg 25); refine Evolves.upd ?_ (fun h => h) rfl rfl rfl rfl) | dsimp only | split

end Sys2Proof.Machine
end

