-- ==== Sys2Proof/Laws/Evolve/Storage.lean ====
section
/-! SUPPORT. The operations of Machine/Storage.lean keep what the relation `Evolves` says. -/

namespace Sys2Proof.Machine

theorem State.dramFault_evolves {s0 s : State} (h : Evolves s0 s) (addr : Nat) (user : DramUser) :
    Evolves s0 (State.dramFault s addr user) := by
  unfold State.dramFault
  with_reducible repeat' first
    | assumption | exact Evolves.refl _ | refine State.guaranteeBroken_evolves ?_ .. | refine State.loseUnit_evolves ?_ ..
    | refine State.finish_evolves ?_ .. | refine State.mismatch_evolves ?_ ..
    | ((conv => arg 2; arg 25); refine Evolves.upd ?_ (fun h => h) rfl rfl rfl rfl) | dsimp only | split
    | refine Evolves.ofFst (by assumption) ?_ | refine Evolves.ofSnd (by assumption) ?_

theorem execDramUe_leads (addr : Nat) (user : DramUser) (s : State) : Leads s (execDramUe addr user s) := by
  unfold execDramUe
  with_reducible repeat' first
    | refine Leads.next ?_ | assumption | exact Evolves.refl _ | refine State.raise_evolves ?_ ..
    | refine State.record_evolves ?_ .. | refine State.dramFault_evolves ?_ ..
    | ((conv => arg 2; arg 25); refine Evolves.upd ?_ (fun h => h) rfl rfl rfl rfl) | dsimp only

theorem execDramCeHigh_leads (count : Nat) (s : State) : Leads s (execDramCeHigh count s) := by
  unfold execDramCeHigh
  with_reducible repeat' first
    | refine Leads.next ?_ | assumption | exact Evolves.refl _ | refine State.raise_evolves ?_ ..
    | refine State.record_evolves ?_ .. | ((conv => arg 2; arg 25); refine Evolves.upd ?_ (fun h => h) rfl rfl rfl rfl)
    | dsimp only | split | refine Evolves.ofFst (by assumption) ?_ | refine Evolves.ofSnd (by assumption) ?_

theorem execDramPatrolLap_leads (minutes : Nat) (s : State) : Leads s (execDramPatrolLap minutes s) := by
  unfold execDramPatrolLap
  with_reducible repeat' first
    | refine Leads.next ?_ | assumption | exact Evolves.refl _
    | ((conv => arg 2; arg 25); refine Evolves.upd ?_ (fun h => h) rfl rfl rfl rfl) | dsimp only

theorem State.setPage_evolves {s0 s : State} (h : Evolves s0 s) (p i : Nat) (g : Page) : Evolves s0 (State.setPage s p i g) := by
  unfold State.setPage
  with_reducible repeat' first
    | assumption | exact Evolves.refl _ | ((conv => arg 2; arg 25); refine Evolves.upd ?_ (fun h => h) rfl rfl rfl rfl)
    | dsimp only

theorem State.readPage_evolves {s0 s : State} (h : Evolves s0 s) (p i fix : Nat) (bad : Bool) :
    Evolves s0 (State.readPage s p i fix bad) := by
  unfold State.readPage
  with_reducible repeat' first
    | assumption | exact Evolves.refl _ | refine State.raise_evolves ?_ .. | refine State.record_evolves ?_ ..
    | refine State.guaranteeBroken_evolves ?_ .. | refine State.setPage_evolves ?_ ..
    | ((conv => arg 2; arg 25); refine Evolves.upd ?_ (fun h => h) rfl rfl rfl rfl) | dsimp only | split

theorem State.readPages_evolves {s0 s : State} (h : Evolves s0 s) (l : List (Nat × Nat × Nat × Bool)) :
    Evolves s0 (State.readPages s l) := by
  unfold State.readPages
  with_reducible repeat' first
    | assumption | exact Evolves.refl _ | refine State.readPage_evolves ?_ .. | refine Evolves.foldl _ _ (fun u x hu => ?_) ?_
    | dsimp only | split

theorem execScrubLap_leads (hours : Nat) (reads : List (Nat × Nat × Nat × Bool)) (s : State) : Leads s (execScrubLap hours reads s) := by
  unfold execScrubLap
  with_reducible repeat' first
    | refine Leads.next ?_ | assumption | exact Evolves.refl _ | refine State.raise_evolves ?_ ..
    | refine State.record_evolves ?_ .. | refine State.readPages_evolves ?_ ..
    | ((conv => arg 2; arg 25); refine Evolves.upd ?_ (fun h => h) rfl rfl rfl rfl) | dsimp only | split

theorem State.slotBad_evolves {s0 s : State} (h : Evolves s0 s) (k : Nat) (ok : Bool) : Evolves s0 (State.slotBad s k ok) := by
  unfold State.slotBad
  with_reducible repeat' first
    | assumption | exact Evolves.refl _ | refine State.raise_evolves ?_ .. | refine State.record_evolves ?_ ..
    | ((conv => arg 2; arg 25); refine Evolves.upd ?_ (fun h => h) rfl rfl rfl rfl) | dsimp only | split

theorem execBootSlotVerify_leads (ok0 ok1 ok2 : Bool) (s : State) : Leads s (execBootSlotVerify ok0 ok1 ok2 s) := by
  unfold execBootSlotVerify
  with_reducible repeat' first
    | refine Leads.next ?_ | assumption | exact Evolves.refl _ | refine State.slotBad_evolves ?_ ..
    | ((conv => arg 2; arg 25); refine Evolves.upd ?_ (fun h => h) rfl rfl rfl rfl) | dsimp only | split

theorem State.flushCounters_evolves {s0 s : State} (h : Evolves s0 s) : Evolves s0 (State.flushCounters s) := by
  unfold State.flushCounters
  with_reducible repeat' first
    | assumption | exact Evolves.refl _ | ((conv => arg 2; arg 25); refine Evolves.upd ?_ (fun h => h) rfl rfl rfl rfl)
    | dsimp only

theorem execCounterFlush_leads (s : State) : Leads s (execCounterFlush s) := by
  unfold execCounterFlush
  with_reducible repeat' first
    | refine Leads.next ?_ | assumption | exact Evolves.refl _ | refine State.flushCounters_evolves ?_ ..
    | ((conv => arg 2; arg 25); refine Evolves.upd ?_ (fun h => h) rfl rfl rfl rfl) | dsimp only | split

theorem State.copyWords_evolves {s0 s : State} (h : Evolves s0 s) (op : Op) (off : Nat) (data : List Byte) (bad : Nat) (a0 : Nat) :
    Evolves s0 (State.copyWords s op off data bad a0) := by
  induction a0 generalizing s0 s op off data bad with
  | zero =>
    rw [State.copyWords]
    with_reducible repeat' first
      | assumption | exact Evolves.refl _ | refine State.writeBuf_evolves ?_ .. | dsimp only | split
  | succ y ih =>
    rw [State.copyWords]
    with_reducible repeat' first
      | assumption | exact Evolves.refl _ | refine ih ?_ .. | refine State.writeBuf_evolves ?_ .. | dsimp only | split

theorem State.copyPages_evolves {s0 s : State} (h : Evolves s0 s) (op : Op) (p a : Nat) (reads : List (Nat × Nat × Nat)) (a0 : Nat) :
    Evolves s0 (State.copyPages s op p a reads a0) := by
  induction a0 generalizing s0 s op p a reads with
  | zero =>
    rw [State.copyPages]
    with_reducible repeat' first
      | assumption | exact Evolves.refl _ | refine State.useFree_evolves ?_ .. | refine State.copyWords_evolves ?_ ..
      | dsimp only | split
  | succ y ih =>
    rw [State.copyPages]
    with_reducible repeat' first
      | assumption | exact Evolves.refl _ | refine ih ?_ .. | refine State.useFree_evolves ?_ ..
      | refine State.copyWords_evolves ?_ .. | dsimp only | split

theorem State.readRange_evolves {s0 s : State} (h : Evolves s0 s) (p a : Nat) (reads : List (Nat × Nat × Nat)) (a0 : Nat) :
    Evolves s0 (State.readRange s p a reads a0) := by
  induction a0 generalizing s0 s p a reads with
  | zero =>
    rw [State.readRange]
    with_reducible repeat' first
      | assumption | exact Evolves.refl _ | refine State.readPage_evolves ?_ .. | dsimp only | split
  | succ y ih =>
    rw [State.readRange]
    with_reducible repeat' first
      | assumption | exact Evolves.refl _ | refine ih ?_ .. | refine State.readPage_evolves ?_ .. | dsimp only | split

theorem execNvsRead_leads (w : WorkRef) (reads : List (Nat × Nat × Nat)) (s : State) : Leads s (execNvsRead w reads s) := by
  unfold execNvsRead
  with_reducible repeat' first
    | refine Leads.next ?_ | assumption | exact Evolves.refl _ | refine State.finish_evolves ?_ ..
    | refine Evolves.trans ?_ (State.engineOp_evolves _ _ _ fun op => ?_) | refine State.copyPages_evolves ?_ ..
    | refine State.readRange_evolves ?_ .. | ((conv => arg 2; arg 25); refine Evolves.upd ?_ (fun h => h) rfl rfl rfl rfl)
    | dsimp only | split | refine Evolves.ofFst (by assumption) ?_ | refine Evolves.ofSnd (by assumption) ?_

theorem State.storePage_self (s : State) (op : Op) (p a k : Nat) : Evolves s (State.storePage s op p a k) := by
  rw [State.storePage]
  have h := State.setPage_evolves (Evolves.refl s) p (a + k) { ((s.page p (a + k)).getD {}) with t := s.fld .nvsPartCfg 0 7 p }
  generalize s.readBuf op (k * pageBytes) pageBytes = b
  dsimp only
  generalize s.setPage p (a + k) _ = u at h ⊢
  exact h.setNvs _ (Memory.writeN_wf (nandKey p (a + k) 0) b)

theorem State.storePage_evolves {s0 s : State} (h : Evolves s0 s) (op : Op) (p a k : Nat) : Evolves s0 (State.storePage s op p a k) :=
  h.trans (State.storePage_self s op p a k)

theorem State.storePages_self (s : State) (op : Op) (p a k m : Nat) : Evolves s (State.storePages s op p a k m) := by
  induction m with
  | zero => exact Evolves.refl s
  | succ m ih => exact State.storePage_evolves ih op p a (k + m)

theorem State.storePages_evolves {s0 s : State} (h : Evolves s0 s) (op : Op) (p a k m : Nat) : Evolves s0 (State.storePages s op p a k m) :=
  h.trans (State.storePages_self s op p a k m)

theorem execNvsWrite_leads (w : WorkRef) (s : State) : Leads s (execNvsWrite w s) := by
  unfold execNvsWrite
  with_reducible repeat' first
    | refine Leads.next ?_ | assumption | exact Evolves.refl _ | refine State.finish_evolves ?_ ..
    | refine Evolves.trans ?_ (State.engineOp_evolves _ _ _ fun op => ?_) | refine State.storePages_evolves ?_ ..
    | ((conv => arg 2; arg 25); refine Evolves.upd ?_ (fun h => h) rfl rfl rfl rfl) | dsimp only | split
    | refine Evolves.ofFst (by assumption) ?_ | refine Evolves.ofSnd (by assumption) ?_

theorem State.eraseBlocks_evolves {s0 s : State} (h : Evolves s0 s) (p a n : Nat) : Evolves s0 (State.eraseBlocks s p a n) := by
  unfold State.eraseBlocks
  exact h.setNvs _ (Memory.filter_wf _)

theorem execNvsErase_leads (w : WorkRef) (s : State) : Leads s (execNvsErase w s) := by
  unfold execNvsErase
  refine Leads.next (State.engineOp_evolves _ _ _ fun op => ?_)
  split
  · exact State.finish_evolves (Evolves.refl _) ..
  · exact State.finish_evolves (State.eraseBlocks_evolves (Evolves.refl _) ..) ..

theorem execNvsCounters_leads (w : WorkRef) (s : State) : Leads s (execNvsCounters w s) := by
  unfold execNvsCounters
  with_reducible repeat' first
    | refine Leads.next ?_ | assumption | exact Evolves.refl _ | refine State.writeBuf_evolves ?_ ..
    | refine State.finish_evolves ?_ .. | refine Evolves.trans ?_ (State.engineOp_evolves _ _ _ fun op => ?_) | dsimp only
    | split | refine Evolves.ofFst (by assumption) ?_ | refine Evolves.ofSnd (by assumption) ?_

theorem execLogRecord_leads (code sev source : Nat) (body : List Byte) (s : State) : Leads s (execLogRecord code sev source body s) := by
  unfold execLogRecord
  with_reducible repeat' first
    | refine Leads.next ?_ | assumption | exact Evolves.refl _ | refine State.givenRec_evolves ?_ .. | dsimp only | split

theorem execRecorderFlush_leads (s : State) : Leads s (execRecorderFlush s) := by
  unfold execRecorderFlush
  with_reducible repeat' first
    | refine Leads.next ?_ | assumption | exact Evolves.refl _ | refine State.flushLog_evolves ?_ .. | dsimp only | split

theorem execLogWrite_leads (w : WorkRef) (s : State) : Leads s (execLogWrite w s) := by
  unfold execLogWrite
  with_reducible repeat' first
    | refine Leads.next ?_ | assumption | exact Evolves.refl _ | refine State.givenRec_evolves ?_ ..
    | refine State.finish_evolves ?_ .. | refine Evolves.trans ?_ (State.engineOp_evolves _ _ _ fun op => ?_) | dsimp only
    | split

theorem execLogExport_leads (w : WorkRef) (s : State) : Leads s (execLogExport w s) := by
  unfold execLogExport
  with_reducible repeat' first
    | refine Leads.next ?_ | assumption | exact Evolves.refl _ | refine State.writeBuf_evolves ?_ ..
    | refine State.finish_evolves ?_ .. | refine Evolves.trans ?_ (State.engineOp_evolves _ _ _ fun op => ?_) | dsimp only
    | split | refine Evolves.ofFst (by assumption) ?_ | refine Evolves.ofSnd (by assumption) ?_

theorem State.exportStep_evolves {s0 s : State} (h : Evolves s0 s) (w : WorkRef) (op : Op) :
    Evolves s0 (State.exportStep s w op) := by
  unfold State.exportStep
  with_reducible repeat' first
    | assumption | exact Evolves.refl _ | refine State.setOp_evolves ?_ .. | refine State.writeBuf_evolves ?_ ..
    | ((conv => arg 2; arg 25); refine Evolves.upd ?_ (fun h => h) rfl rfl rfl rfl) | dsimp only | split
    | refine Evolves.ofFst (by assumption) ?_ | refine Evolves.ofSnd (by assumption) ?_

theorem State.clearLive_self (s : State) (gone : Rec → Bool) : Evolves s (State.clearLive s gone) := by
  unfold State.clearLive
  dsimp only
  split
  · refine Evolves.upd (t := s) (Evolves.refl s) (fun h => ?_) rfl rfl rfl rfl
    exact Memory.writeN_wf _ _ (Memory.foldl_writeN_wf _ _ _ h)
  · with_reducible exact Evolves.upd (Evolves.refl s) (fun h => h) rfl rfl rfl rfl

theorem State.clearLive_evolves {s0 s : State} (h : Evolves s0 s) (gone : Rec → Bool) : Evolves s0 (State.clearLive s gone) :=
  h.trans (State.clearLive_self s gone)

theorem State.removeUpto_evolves {s0 s : State} (h : Evolves s0 s) (upto : Nat) : Evolves s0 (State.removeUpto s upto) := by
  unfold State.removeUpto
  with_reducible repeat' first
    | assumption | exact Evolves.refl _ | refine State.clearLive_evolves ?_ ..
    | ((conv => arg 2; arg 25); refine Evolves.upd ?_ (fun h => h) rfl rfl rfl rfl) | dsimp only | split

theorem State.refuseClear_evolves {s0 s : State} (h : Evolves s0 s) (op : Op) (reason : Nat) :
    Evolves s0 (State.refuseClear s op reason) := by
  unfold State.refuseClear
  with_reducible repeat' first
    | assumption | exact Evolves.refl _ | refine State.record_evolves ?_ .. | refine State.finish_evolves ?_ .. | dsimp only

theorem State.beginClear_evolves {s0 s : State} (h : Evolves s0 s) (op : Op) (a : Artefact) :
    Evolves s0 (State.beginClear s op a) := by
  unfold State.beginClear
  with_reducible repeat' first
    | assumption | exact Evolves.refl _ | refine State.record_evolves ?_ .. | refine State.flushLog_evolves ?_ ..
    | refine State.keepNonce_evolves ?_ .. | dsimp only

theorem execLogClear_leads (w : WorkRef) (s : State) : Leads s (execLogClear w s) := by
  unfold execLogClear
  with_reducible repeat' first
    | refine Leads.next ?_ | assumption | exact Evolves.refl _ | refine State.finish_evolves ?_ ..
    | refine Evolves.trans ?_ (State.engineOp_evolves _ _ _ fun op => ?_) | refine State.sigFail_evolves ?_ ..
    | refine State.removeUpto_evolves ?_ .. | refine State.refuseClear_evolves ?_ .. | refine State.beginClear_evolves ?_ ..
    | ((conv => arg 2; arg 25); refine Evolves.upd ?_ (fun h => h) rfl rfl rfl rfl) | dsimp only | split
    | refine Evolves.ofFst (by assumption) ?_ | refine Evolves.ofSnd (by assumption) ?_

theorem State.removeOldest_evolves {s0 s : State} (h : Evolves s0 s) (upto : Nat) : Evolves s0 (State.removeOldest s upto) := by
  unfold State.removeOldest
  with_reducible repeat' first
    | assumption | exact Evolves.refl _ | refine State.clearLive_evolves ?_ ..
    | ((conv => arg 2; arg 25); refine Evolves.upd ?_ (fun h => h) rfl rfl rfl rfl) | dsimp only | split
    | refine Evolves.ofFst (by assumption) ?_ | refine Evolves.ofSnd (by assumption) ?_

theorem State.clearStep_evolves {s0 s : State} (h : Evolves s0 s) (w : WorkRef) (op : Op) :
    Evolves s0 (State.clearStep s w op) := by
  unfold State.clearStep
  with_reducible repeat' first
    | assumption | exact Evolves.refl _ | refine State.setOp_evolves ?_ .. | refine State.beginClear_evolves ?_ ..
    | refine State.removeOldest_evolves ?_ .. | ((conv => arg 2; arg 25); refine Evolves.upd ?_ (fun h => h) rfl rfl rfl rfl)
    | dsimp only | split | refine Evolves.ofFst (by assumption) ?_ | refine Evolves.ofSnd (by assumption) ?_

theorem State.storageStep_evolves {s0 s : State} (h : Evolves s0 s) (w : WorkRef) (op : Op) :
    Evolves s0 (State.storageStep s w op) := by
  unfold State.storageStep
  with_reducible repeat' first
    | assumption | exact Evolves.refl _ | refine State.storePage_evolves ?_ .. | refine State.eraseBlocks_evolves ?_ ..
    | refine State.exportStep_evolves ?_ .. | refine State.clearStep_evolves ?_ ..
    | ((conv => arg 2; arg 25); refine Evolves.upd ?_ (fun h => h) rfl rfl rfl rfl) | dsimp only | split
    | refine Evolves.ofFst (by assumption) ?_ | refine Evolves.ofSnd (by assumption) ?_

end Sys2Proof.Machine
end

