-- ==== Sys2Proof/Laws/Evolve/Security.lean ====
section
/-! SUPPORT. The operations of Machine/Security.lean keep what the relation `Evolves` says. -/

namespace Sys2Proof.Machine

theorem State.secRefuse_evolves {s0 s : State} (h : Evolves s0 s) (op : Op) (reason : Nat) :
    Evolves s0 (State.secRefuse s op reason) := by
  unfold State.secRefuse
  with_reducible repeat' first
    | assumption | exact Evolves.refl _ | refine State.finish_evolves ?_ .. | dsimp only

theorem State.updRefuse_evolves {s0 s : State} (h : Evolves s0 s) (op : Op) (reason : Nat) :
    Evolves s0 (State.updRefuse s op reason) := by
  unfold State.updRefuse
  with_reducible repeat' first
    | assumption | exact Evolves.refl _ | refine State.finish_evolves ?_ .. | dsimp only

theorem execSecAttest_leads (w : WorkRef) (s : State) : Leads s (execSecAttest w s) := by
  unfold execSecAttest
  with_reducible repeat' first
    | refine Leads.next ?_ | assumption | exact Evolves.refl _ | refine State.writeBuf_evolves ?_ ..
    | refine State.finish_evolves ?_ .. | refine Evolves.trans ?_ (State.engineOp_evolves _ _ _ fun op => ?_)
    | ((conv => arg 2; arg 25); refine Evolves.upd ?_ (fun h => h) rfl rfl rfl rfl) | dsimp only | split

theorem execSecVerify_leads (w : WorkRef) (s : State) : Leads s (execSecVerify w s) := by
  unfold execSecVerify
  with_reducible repeat' first
    | refine Leads.next ?_ | assumption | exact Evolves.refl _ | refine State.finish_evolves ?_ ..
    | refine Evolves.trans ?_ (State.engineOp_evolves _ _ _ fun op => ?_) | refine State.sigFail_evolves ?_ ..
    | ((conv => arg 2; arg 25); refine Evolves.upd ?_ (fun h => h) rfl rfl rfl rfl) | dsimp only | split
    | refine Evolves.ofFst (by assumption) ?_ | refine Evolves.ofSnd (by assumption) ?_

theorem execSecOwner_leads (w : WorkRef) (s : State) : Leads s (execSecOwner w s) := by
  unfold execSecOwner
  with_reducible repeat' first
    | refine Leads.next ?_ | assumption | exact Evolves.refl _ | refine State.record_evolves ?_ ..
    | refine State.finish_evolves ?_ .. | refine Evolves.trans ?_ (State.engineOp_evolves _ _ _ fun op => ?_)
    | refine State.sigFail_evolves ?_ .. | refine State.secRefuse_evolves ?_ ..
    | ((conv => arg 2; arg 25); refine Evolves.upd ?_ (fun h => h) rfl rfl rfl rfl) | dsimp only | split
    | refine Evolves.ofFst (by assumption) ?_ | refine Evolves.ofSnd (by assumption) ?_

theorem State.tokenRefused_evolves {s0 s : State} (h : Evolves s0 s) : Evolves s0 (State.tokenRefused s) := by
  unfold State.tokenRefused
  with_reducible repeat' first
    | assumption | exact Evolves.refl _ | refine State.denyDebug_evolves ?_ .. | dsimp only

theorem State.tokenGo_evolves {s0 s : State} (h : Evolves s0 s) : Evolves s0 (State.tokenGo s) := by
  unfold State.tokenGo
  with_reducible repeat' first
    | assumption | exact Evolves.refl _ | refine State.record_evolves ?_ .. | refine State.sigFail_evolves ?_ ..
    | refine State.keepNonce_evolves ?_ .. | refine State.tokenRefused_evolves ?_ ..
    | ((conv => arg 2; arg 25); refine Evolves.upd ?_ (fun h => h) rfl rfl rfl rfl) | dsimp only | split
    | refine Evolves.ofFst (by assumption) ?_ | refine Evolves.ofSnd (by assumption) ?_

theorem execDebugTokenGo_leads (q : Requester) (s : State) : Leads s (execDebugTokenGo q s) := by
  unfold execDebugTokenGo
  with_reducible repeat' first
    | refine Leads.next ?_ | assumption | exact Evolves.refl _ | refine State.tokenGo_evolves ?_ ..
    | ((conv => arg 2; arg 25); refine Evolves.upd ?_ (fun h => h) rfl rfl rfl rfl) | dsimp only | split
    | refine Evolves.trans ?_ (State.writeBarred_evolves (by assumption)) | refine Evolves.ofFst (by assumption) ?_
    | refine Evolves.ofSnd (by assumption) ?_

theorem execDebugUnlockExpiry_leads (s : State) : Leads s (execDebugUnlockExpiry s) := by
  unfold execDebugUnlockExpiry
  with_reducible repeat' first
    | refine Leads.next ?_ | assumption | exact Evolves.refl _ | refine State.relock_evolves ?_ .. | dsimp only | split

theorem State.setBoot_evolves {s0 s : State} (h : Evolves s0 s) (i : Nat) (f : BootSlot → BootSlot) :
    Evolves s0 (State.setBoot s i f) := by
  unfold State.setBoot
  with_reducible repeat' first
    | assumption | exact Evolves.refl _ | ((conv => arg 2; arg 25); refine Evolves.upd ?_ (fun h => h) rfl rfl rfl rfl)
    | dsimp only

theorem execUpdPrepare_leads (w : WorkRef) (partnerTrial : Bool) (s : State) : Leads s (execUpdPrepare w partnerTrial s) := by
  unfold execUpdPrepare
  with_reducible repeat' first
    | refine Leads.next ?_ | assumption | exact Evolves.refl _ | refine State.setMode_evolves ?_ ..
    | refine State.setOp_evolves ?_ .. | refine Evolves.trans ?_ (State.engineOp_evolves _ _ _ fun op => ?_)
    | refine State.sigFail_evolves ?_ .. | refine State.updRefuse_evolves ?_ .. | refine State.setBoot_evolves ?_ ..
    | ((conv => arg 2; arg 25); refine Evolves.upd ?_ (fun h => h) rfl rfl rfl rfl) | dsimp only | split
    | refine Evolves.ofFst (by assumption) ?_ | refine Evolves.ofSnd (by assumption) ?_

theorem State.finishPrepare_evolves {s0 s : State} (h : Evolves s0 s) (op : Op) : Evolves s0 (State.finishPrepare s op) := by
  unfold State.finishPrepare
  with_reducible repeat' first
    | assumption | exact Evolves.refl _ | refine State.record_evolves ?_ .. | refine State.endUpdate_evolves ?_ ..
    | refine State.finish_evolves ?_ .. | refine State.updRefuse_evolves ?_ .. | refine State.setBoot_evolves ?_ ..
    | ((conv => arg 2; arg 25); refine Evolves.upd ?_ (fun h => h) rfl rfl rfl rfl) | dsimp only | split
    | refine Evolves.ofFst (by assumption) ?_ | refine Evolves.ofSnd (by assumption) ?_

theorem State.runTrial_evolves {s0 s : State} (h : Evolves s0 s) (op : Op) : Evolves s0 (State.runTrial s op) := by
  unfold State.runTrial
  with_reducible repeat' first
    | assumption | exact Evolves.refl _ | refine State.record_evolves ?_ .. | refine State.restart_evolves ?_ ..
    | refine State.finish_evolves ?_ .. | ((conv => arg 2; arg 25); refine Evolves.upd ?_ (fun h => h) rfl rfl rfl rfl)
    | dsimp only | split

theorem State.activateNow_evolves {s0 s : State} (h : Evolves s0 s) (op : Op) : Evolves s0 (State.activateNow s op) := by
  unfold State.activateNow
  with_reducible repeat' first
    | assumption | exact Evolves.refl _ | refine State.finish_evolves ?_ .. | refine State.runTrial_evolves ?_ ..
    | ((conv => arg 2; arg 25); refine Evolves.upd ?_ (fun h => h) rfl rfl rfl rfl) | dsimp only | split

theorem execUpdActivate_leads (w : WorkRef) (s : State) : Leads s (execUpdActivate w s) := by
  unfold execUpdActivate
  with_reducible repeat' first
    | refine Leads.next ?_ | assumption | exact Evolves.refl _ | refine State.updRefuse_evolves ?_ ..
    | refine State.activateNow_evolves ?_ .. | ((conv => arg 2; arg 25); refine Evolves.upd ?_ (fun h => h) rfl rfl rfl rfl)
    | dsimp only | split | refine Evolves.ofFst (by assumption) ?_ | refine Evolves.ofSnd (by assumption) ?_

theorem execUpdActivateDue_leads (s : State) : Leads s (execUpdActivateDue s) := by
  unfold execUpdActivateDue
  with_reducible repeat' first
    | refine Leads.next ?_ | assumption | exact Evolves.refl _ | refine State.activateNow_evolves ?_ ..
    | ((conv => arg 2; arg 25); refine Evolves.upd ?_ (fun h => h) rfl rfl rfl rfl) | dsimp only | split
    | refine Evolves.ofFst (by assumption) ?_ | refine Evolves.ofSnd (by assumption) ?_

theorem execUpdAbandon_leads (w : WorkRef) (s : State) : Leads s (execUpdAbandon w s) := by
  unfold execUpdAbandon
  with_reducible repeat' first
    | refine Leads.next ?_ | assumption | exact Evolves.refl _ | refine State.finish_evolves ?_ ..
    | refine Evolves.trans ?_ (State.engineOp_evolves _ _ _ fun op => ?_) | refine State.setBoot_evolves ?_ ..
    | ((conv => arg 2; arg 25); refine Evolves.upd ?_ (fun h => h) rfl rfl rfl rfl) | dsimp only | split

theorem State.raiseFloor_self (s : State) (svn : Nat) : Evolves s (State.raiseFloor s svn) := by
  unfold State.raiseFloor
  split
  · exact Evolves.refl s
  · split
    · exact State.record_evolves (Evolves.refl _) ..
    · exact ⟨⟨id, id, rfl, rfl, by show s.sec.svnFloor ≤ svn; omega⟩, id⟩

theorem State.raiseFloor_evolves {s0 s : State} (h : Evolves s0 s) (svn : Nat) : Evolves s0 (State.raiseFloor s svn) :=
  h.trans (State.raiseFloor_self s svn)

theorem State.confirmTrial_evolves {s0 s : State} (h : Evolves s0 s) : Evolves s0 (State.confirmTrial s) := by
  unfold State.confirmTrial
  with_reducible repeat' first
    | assumption | exact Evolves.refl _ | refine State.raise_evolves ?_ .. | refine State.record_evolves ?_ ..
    | refine State.setBoot_evolves ?_ .. | refine State.raiseFloor_evolves ?_ ..
    | ((conv => arg 2; arg 25); refine Evolves.upd ?_ (fun h => h) rfl rfl rfl rfl) | dsimp only | split

theorem execUpdConfirm_leads (w : WorkRef) (s : State) : Leads s (execUpdConfirm w s) := by
  unfold execUpdConfirm
  with_reducible repeat' first
    | refine Leads.next ?_ | assumption | exact Evolves.refl _ | refine State.finish_evolves ?_ ..
    | refine Evolves.trans ?_ (State.engineOp_evolves _ _ _ fun op => ?_) | refine State.updRefuse_evolves ?_ ..
    | refine State.confirmTrial_evolves ?_ .. | dsimp only | split

theorem execUpdAutoConfirm_leads (s : State) : Leads s (execUpdAutoConfirm s) := by
  unfold execUpdAutoConfirm
  with_reducible repeat' first
    | refine Leads.next ?_ | assumption | exact Evolves.refl _ | refine State.confirmTrial_evolves ?_ .. | dsimp only | split

theorem execUpdConfirmExpiry_leads (s : State) : Leads s (execUpdConfirmExpiry s) := by
  unfold execUpdConfirmExpiry
  with_reducible repeat' first
    | refine Leads.next ?_ | assumption | exact Evolves.refl _ | refine State.raise_evolves ?_ ..
    | refine State.record_evolves ?_ .. | refine State.restart_evolves ?_ ..
    | ((conv => arg 2; arg 25); refine Evolves.upd ?_ (fun h => h) rfl rfl rfl rfl) | dsimp only | split
    | refine Evolves.ofFst (by assumption) ?_ | refine Evolves.ofSnd (by assumption) ?_

end Sys2Proof.Machine
end

