-- ==== Sys2Proof/Laws/Evolve/Programs.lean ====
section
/-! SUPPORT. The operations of Machine/Programs.lean keep what the relation `Evolves` says. -/

namespace Sys2Proof.Machine

theorem State.setTask_evolves {s0 s : State} (h : Evolves s0 s) (t : Nat) (f : Task → Task) :
    Evolves s0 (State.setTask s t f) := by
  unfold State.setTask
  with_reducible repeat' first
    | assumption | exact Evolves.refl _ | ((conv => arg 2; arg 25); refine Evolves.upd ?_ (fun h => h) rfl rfl rfl rfl)
    | dsimp only

theorem State.writeItem_evolves {s0 s : State} (h : Evolves s0 s) (w : Nat × Nat) : Evolves s0 (State.writeItem s w) := by
  unfold State.writeItem
  with_reducible repeat' first
    | assumption | exact Evolves.refl _ | ((conv => arg 2; arg 25); refine Evolves.upd ?_ (fun h => h) rfl rfl rfl rfl)
    | dsimp only | split | refine Evolves.ofFst (by assumption) ?_ | refine Evolves.ofSnd (by assumption) ?_

theorem State.callOne_evolves {s0 s : State} (h : Evolves s0 s) (now : Nat) (c : FbCall) :
    Evolves s0 (State.callOne s now c) := by
  unfold State.callOne
  with_reducible repeat' first
    | assumption | exact Evolves.refl _ | ((conv => arg 2; arg 25); refine Evolves.upd ?_ (fun h => h) rfl rfl rfl rfl)
    | dsimp only | split

theorem State.passRings_evolves {s0 s : State} (h : Evolves s0 s) (k dst : Nat) : Evolves s0 (State.passRings s k dst) := by
  unfold State.passRings
  with_reducible repeat' first
    | assumption | exact Evolves.refl _ | refine State.setFld_evolves ?_ ..
    | ((conv => arg 2; arg 25); refine Evolves.upd ?_ (fun h => h) rfl rfl rfl rfl)
    | refine Evolves.foldl _ _ (fun u x hu => ?_) ?_ | dsimp only | split

theorem State.placeTask_evolves {s0 s : State} (h : Evolves s0 s) (t : Nat) : Evolves s0 (State.placeTask s t) := by
  unfold State.placeTask
  with_reducible repeat' first
    | assumption | exact Evolves.refl _ | refine State.record_evolves ?_ .. | refine State.leaveControl_evolves ?_ ..
    | refine State.setTask_evolves ?_ .. | refine State.passRings_evolves ?_ ..
    | ((conv => arg 2; arg 25); refine Evolves.upd ?_ (fun h => h) rfl rfl rfl rfl) | dsimp only | split
    | refine Evolves.ofFst (by assumption) ?_ | refine Evolves.ofSnd (by assumption) ?_

theorem State.overrun_evolves {s0 s : State} (h : Evolves s0 s) (t n : Nat) : Evolves s0 (State.overrun s t n) := by
  unfold State.overrun
  with_reducible repeat' first
    | assumption | exact Evolves.refl _ | refine State.raise_evolves ?_ .. | refine State.record_evolves ?_ ..
    | refine State.setTask_evolves ?_ .. | ((conv => arg 2; arg 25); refine Evolves.upd ?_ (fun h => h) rfl rfl rfl rfl)
    | dsimp only | split

theorem State.toleranceGone_evolves {s0 s : State} (h : Evolves s0 s) (t : Nat) : Evolves s0 (State.toleranceGone s t) := by
  unfold State.toleranceGone
  with_reducible repeat' first
    | assumption | exact Evolves.refl _ | refine State.sendRef_evolves ?_ .. | refine State.enterSafeHold_evolves ?_ ..
    | ((conv => arg 2; arg 25); refine Evolves.upd ?_ (fun h => h) rfl rfl rfl rfl) | dsimp only | split

theorem State.setStation_evolves {s0 s : State} (h : Evolves s0 s) (k : Nat) (f : StationSt → StationSt) :
    Evolves s0 (State.setStation s k f) := by
  unfold State.setStation
  with_reducible repeat' first
    | assumption | exact Evolves.refl _ | ((conv => arg 2; arg 25); refine Evolves.upd ?_ (fun h => h) rfl rfl rfl rfl)
    | dsimp only

theorem State.settleStation_evolves {s0 s : State} (h : Evolves s0 s) (k : Nat) (got : Option (List Word)) :
    Evolves s0 (State.settleStation s k got) := by
  unfold State.settleStation
  with_reducible repeat' first
    | assumption | exact Evolves.refl _ | refine State.raise_evolves ?_ .. | refine State.record_evolves ?_ ..
    | refine State.setStation_evolves ?_ .. | ((conv => arg 2; arg 25); refine Evolves.upd ?_ (fun h => h) rfl rfl rfl rfl)
    | dsimp only | split | refine Evolves.ofFst (by assumption) ?_ | refine Evolves.ofSnd (by assumption) ?_

theorem State.settleAll_evolves {s0 s : State} (h : Evolves s0 s) (got : Nat → Option (List Word)) :
    Evolves s0 (State.settleAll s got) := by
  unfold State.settleAll
  with_reducible repeat' first
    | assumption | exact Evolves.refl _ | refine State.settleStation_evolves ?_ ..
    | refine Evolves.foldl _ _ (fun u x hu => ?_) ?_ | dsimp only | split

theorem State.networkInputs_evolves {s0 s : State} (h : Evolves s0 s) : Evolves s0 (State.networkInputs s) := by
  unfold State.networkInputs
  with_reducible repeat' first
    | assumption | exact Evolves.refl _ | refine State.arrive_evolves ?_ .. | refine State.stationInputs_evolves ?_ ..
    | refine Evolves.foldl _ _ (fun u x hu => ?_) ?_ | dsimp only | split

theorem State.resumeNumbers_evolves {s0 s : State} (h : Evolves s0 s) : Evolves s0 (State.resumeNumbers s) := by
  unfold State.resumeNumbers
  with_reducible repeat' first
    | assumption | exact Evolves.refl _ | ((conv => arg 2; arg 25); refine Evolves.upd ?_ (fun h => h) rfl rfl rfl rfl)
    | dsimp only | split

theorem State.prepareCycle_evolves {s0 s : State} (h : Evolves s0 s) : Evolves s0 (State.prepareCycle s) := by
  unfold State.prepareCycle
  with_reducible repeat' first
    | assumption | exact Evolves.refl _ | refine State.sendManifest_evolves ?_ .. | refine State.resumeNumbers_evolves ?_ ..
    | ((conv => arg 2; arg 25); refine Evolves.upd ?_ (fun h => h) rfl rfl rfl rfl)
    | refine Evolves.foldl _ _ (fun u x hu => ?_) ?_ | dsimp only | split

theorem State.forceGone_evolves {s0 s : State} (h : Evolves s0 s) (f : Force) (cause : Nat) :
    Evolves s0 (State.forceGone s f cause) := by
  unfold State.forceGone
  with_reducible repeat' first
    | assumption | exact Evolves.refl _ | refine State.raise_evolves ?_ .. | refine State.record_evolves ?_ .. | dsimp only

theorem State.applyRestart_evolves {s0 s : State} (h : Evolves s0 s) (cold : Bool) (down : Nat) :
    Evolves s0 (State.applyRestart s cold down) := by
  unfold State.applyRestart
  with_reducible repeat' first
    | assumption | exact Evolves.refl _ | refine State.record_evolves ?_ .. | refine State.forceGone_evolves ?_ ..
    | ((conv => arg 2; arg 25); refine Evolves.upd ?_ (fun h => h) rfl rfl rfl rfl)
    | refine Evolves.foldl _ _ (fun u x hu => ?_) ?_ | dsimp only | split | refine Evolves.ofFst (by assumption) ?_
    | refine Evolves.ofSnd (by assumption) ?_

theorem State.plantRestart_evolves {s0 s : State} (h : Evolves s0 s) (newTime : Nat) :
    Evolves s0 (State.plantRestart s newTime) := by
  unfold State.plantRestart
  with_reducible repeat' first
    | assumption | exact Evolves.refl _ | refine State.applyRestart_evolves ?_ ..
    | ((conv => arg 2; arg 25); refine Evolves.upd ?_ (fun h => h) rfl rfl rfl rfl) | dsimp only | split
    | refine Evolves.ofFst (by assumption) ?_ | refine Evolves.ofSnd (by assumption) ?_

theorem State.takeManifest_evolves {s0 s : State} (h : Evolves s0 s) (m : ManSt) : Evolves s0 (State.takeManifest s m) := by
  unfold State.takeManifest
  with_reducible repeat' first
    | assumption | exact Evolves.refl _ | refine State.settleAll_evolves ?_ ..
    | ((conv => arg 2; arg 25); refine Evolves.upd ?_ (fun h => h) rfl rfl rfl rfl)
    | refine Evolves.foldl _ _ (fun u x hu => ?_) ?_ | dsimp only | split

theorem State.beginCycle_evolves {s0 s : State} (h : Evolves s0 s) (m : ManSt) : Evolves s0 (State.beginCycle s m) := by
  unfold State.beginCycle
  with_reducible repeat' first
    | assumption | exact Evolves.refl _ | refine State.noteEpochs_evolves ?_ .. | refine State.switchRings_evolves ?_ ..
    | refine State.setTask_evolves ?_ .. | refine State.placeTask_evolves ?_ .. | refine State.networkInputs_evolves ?_ ..
    | refine State.plantRestart_evolves ?_ .. | ((conv => arg 2; arg 25); refine Evolves.upd ?_ (fun h => h) rfl rfl rfl rfl)
    | dsimp only | split

theorem State.judgeCycle_evolves {s0 s : State} (h : Evolves s0 s) (im : ProgImage) (us : Nat) :
    Evolves s0 (State.judgeCycle s im us).1 := by
  unfold State.judgeCycle
  with_reducible repeat' first
    | assumption | exact Evolves.refl _ | refine State.setTask_evolves ?_ .. | refine State.overrun_evolves ?_ ..
    | ((conv => arg 2; arg 25); refine Evolves.upd ?_ (fun h => h) rfl rfl rfl rfl) | dsimp only | split

theorem State.sendOutputs_evolves {s0 s : State} (h : Evolves s0 s) (val : Session → Nat → Nat → Nat) :
    Evolves s0 (State.sendOutputs s val) := by
  unfold State.sendOutputs
  with_reducible repeat' first
    | assumption | exact Evolves.refl _ | refine State.emit_evolves ?_ .. | refine Evolves.foldl _ _ (fun u x hu => ?_) ?_
    | dsimp only | split

theorem State.sendTaskStreams_evolves {s0 s : State} (h : Evolves s0 s) (t seq : Nat) (val : Nat → Nat) :
    Evolves s0 (State.sendTaskStreams s t seq val) := by
  unfold State.sendTaskStreams
  with_reducible repeat' first
    | assumption | exact Evolves.refl _ | refine State.emit_evolves ?_ .. | refine Evolves.foldl _ _ (fun u x hu => ?_) ?_
    | dsimp only | split

theorem State.configStop_evolves {s0 s : State} (h : Evolves s0 s) : Evolves s0 (State.configStop s) := by
  unfold State.configStop
  with_reducible repeat' first
    | assumption | exact Evolves.refl _ | refine State.record_evolves ?_ .. | refine State.sendRef_evolves ?_ ..
    | refine State.enterService_evolves ?_ .. | ((conv => arg 2; arg 25); refine Evolves.upd ?_ (fun h => h) rfl rfl rfl rfl)
    | dsimp only | split

theorem execCycleStart_leads (cycleUs : Nat) (s : State) : Leads s (execCycleStart cycleUs s) := by
  unfold execCycleStart
  with_reducible repeat' first
    | refine Leads.next ?_ | assumption | exact Evolves.refl _ | refine State.toleranceGone_evolves ?_ ..
    | refine State.prepareCycle_evolves ?_ .. | refine State.takeManifest_evolves ?_ .. | refine State.beginCycle_evolves ?_ ..
    | refine State.judgeCycle_evolves ?_ .. | refine State.sendOutputs_evolves ?_ ..
    | refine State.sendTaskStreams_evolves ?_ .. | refine State.configStop_evolves ?_ ..
    | ((conv => arg 2; arg 25); refine Evolves.upd ?_ (fun h => h) rfl rfl rfl rfl) | dsimp only | split
    | refine Evolves.ofFst (by assumption) ?_ | refine Evolves.ofSnd (by assumption) ?_

theorem State.rearm_evolves {s0 s : State} (h : Evolves s0 s) : Evolves s0 (State.rearm s) := by
  unfold State.rearm
  with_reducible repeat' first
    | assumption | exact Evolves.refl _ | refine State.setGroup_evolves ?_ ..
    | ((conv => arg 2; arg 25); refine Evolves.upd ?_ (fun h => h) rfl rfl rfl rfl)
    | refine Evolves.foldl _ _ (fun u x hu => ?_) ?_ | dsimp only | split | refine Evolves.ofFst (by assumption) ?_
    | refine Evolves.ofSnd (by assumption) ?_

theorem State.driveLocal_evolves {s0 s : State} (h : Evolves s0 s) : Evolves s0 (State.driveLocal s) := by
  unfold State.driveLocal
  with_reducible repeat' first
    | assumption | exact Evolves.refl _ | refine State.setDo_evolves ?_ .. | refine State.setAo_evolves ?_ ..
    | refine Evolves.foldl _ _ (fun u x hu => ?_) ?_ | dsimp only | split

theorem State.taskDone_evolves {s0 s : State} (h : Evolves s0 s) (t : Nat) (writes : List (Nat × Nat)) (calls : List FbCall) :
    Evolves s0 (State.taskDone s t writes calls) := by
  unfold State.taskDone
  with_reducible repeat' first
    | assumption | exact Evolves.refl _ | refine State.setInput_evolves ?_ .. | refine State.writeItem_evolves ?_ ..
    | refine State.callOne_evolves ?_ .. | ((conv => arg 2; arg 25); refine Evolves.upd ?_ (fun h => h) rfl rfl rfl rfl)
    | refine Evolves.foldl _ _ (fun u x hu => ?_) ?_ | dsimp only | split | refine Evolves.ofFst (by assumption) ?_
    | refine Evolves.ofSnd (by assumption) ?_

theorem State.journalRetained_evolves {s0 s : State} (h : Evolves s0 s) (before : List (Nat × Nat)) :
    Evolves s0 (State.journalRetained s before) := by
  unfold State.journalRetained
  with_reducible repeat' first
    | assumption | exact Evolves.refl _ | refine State.journalAdd_evolves ?_ .. | dsimp only | split

theorem State.switchRecord_evolves {s0 s : State} (h : Evolves s0 s) : Evolves s0 (State.switchRecord s) := by
  unfold State.switchRecord
  with_reducible repeat' first
    | assumption | exact Evolves.refl _ | refine State.record_evolves ?_ ..
    | ((conv => arg 2; arg 25); refine Evolves.upd ?_ (fun h => h) rfl rfl rfl rfl) | dsimp only | split
    | refine Evolves.ofFst (by assumption) ?_ | refine Evolves.ofSnd (by assumption) ?_

theorem State.commitCycle_evolves {s0 s : State} (h : Evolves s0 s) (writes : List (Nat × Nat)) (calls : List FbCall) :
    Evolves s0 (State.commitCycle s writes calls) := by
  unfold State.commitCycle
  with_reducible repeat' first
    | assumption | exact Evolves.refl _ | refine State.setTask_evolves ?_ .. | refine State.rearm_evolves ?_ ..
    | refine State.taskDone_evolves ?_ .. | refine State.journalRetained_evolves ?_ .. | refine State.switchRecord_evolves ?_ ..
    | ((conv => arg 2; arg 25); refine Evolves.upd ?_ (fun h => h) rfl rfl rfl rfl) | dsimp only | split

theorem State.shareDigests_evolves {s0 s : State} (h : Evolves s0 s) : Evolves s0 (State.shareDigests s) := by
  unfold State.shareDigests
  with_reducible repeat' first
    | assumption | exact Evolves.refl _ | refine State.sendWb_evolves ?_ .. | refine State.compareDigests_evolves ?_ ..
    | ((conv => arg 2; arg 25); refine Evolves.upd ?_ (fun h => h) rfl rfl rfl rfl) | dsimp only | split
    | refine Evolves.ofFst (by assumption) ?_ | refine Evolves.ofSnd (by assumption) ?_

theorem State.judgeShadows_evolves {s0 s : State} (h : Evolves s0 s) : Evolves s0 (State.judgeShadows s) := by
  unfold State.judgeShadows
  with_reducible repeat' first
    | assumption | exact Evolves.refl _ | refine State.shadowMismatch_evolves ?_ .. | dsimp only | split
    | refine Evolves.ofFst (by assumption) ?_ | refine Evolves.ofSnd (by assumption) ?_

theorem State.emitCycle_evolves {s0 s : State} (h : Evolves s0 s) : Evolves s0 (State.emitCycle s) := by
  unfold State.emitCycle
  with_reducible repeat' first
    | assumption | exact Evolves.refl _ | refine State.sendOutputs_evolves ?_ .. | refine State.sendTaskStreams_evolves ?_ ..
    | refine State.driveLocal_evolves ?_ .. | dsimp only | split

theorem State.openScan_evolves {s0 s : State} (h : Evolves s0 s) : Evolves s0 (State.openScan s) := by
  unfold State.openScan
  with_reducible repeat' first
    | assumption | exact Evolves.refl _ | ((conv => arg 2; arg 25); refine Evolves.upd ?_ (fun h => h) rfl rfl rfl rfl)
    | dsimp only

theorem State.resumeTask_evolves {s0 s : State} (h : Evolves s0 s) (t : Nat) : Evolves s0 (State.resumeTask s t) := by
  unfold State.resumeTask
  with_reducible repeat' first
    | assumption | exact Evolves.refl _ | refine State.placeTask_evolves ?_ .. | dsimp only | split

theorem execTask0End_leads (writes : List (Nat × Nat)) (calls : List FbCall) (s : State) : Leads s (execTask0End writes calls s) := by
  unfold execTask0End
  with_reducible repeat' first
    | refine Leads.next ?_ | assumption | exact Evolves.refl _ | refine State.commitCycle_evolves ?_ ..
    | refine State.shareDigests_evolves ?_ .. | refine State.judgeShadows_evolves ?_ .. | refine State.emitCycle_evolves ?_ ..
    | refine State.openScan_evolves ?_ .. | refine State.resumeTask_evolves ?_ .. | dsimp only | split

theorem execStationReplyRx_leads (station pairId mac echo : Nat) (points : List Word) (s : State) : Leads s (execStationReplyRx station pairId mac echo points s) := by
  unfold execStationReplyRx
  with_reducible repeat' first
    | refine Leads.next ?_ | assumption | exact Evolves.refl _ | refine State.nameItem_evolves ?_ ..
    | refine State.setStation_evolves ?_ .. | ((conv => arg 2; arg 25); refine Evolves.upd ?_ (fun h => h) rfl rfl rfl rfl)
    | dsimp only | split | refine Evolves.ofFst (by assumption) ?_ | refine Evolves.ofSnd (by assumption) ?_

theorem execScanTimeout_leads (di : Nat) (ai : List Nat) (s : State) : Leads s (execScanTimeout di ai s) := by
  unfold execScanTimeout
  with_reducible repeat' first
    | refine Leads.next ?_ | assumption | exact Evolves.refl _ | refine State.takeDi_evolves ?_ ..
    | refine State.takeAis_evolves ?_ .. | refine State.settleAll_evolves ?_ .. | refine State.prepareCycle_evolves ?_ ..
    | ((conv => arg 2; arg 25); refine Evolves.upd ?_ (fun h => h) rfl rfl rfl rfl) | dsimp only | split

theorem State.startRelease_evolves {s0 s : State} (h : Evolves s0 s) (t skips : Nat) (late : Bool) (can : List (ManEntry × List Byte)) :
    Evolves s0 (State.startRelease s t skips late can) := by
  unfold State.startRelease
  with_reducible repeat' first
    | assumption | exact Evolves.refl _ | refine State.sendManifest_evolves ?_ .. | refine State.setTask_evolves ?_ ..
    | refine State.placeTask_evolves ?_ .. | ((conv => arg 2; arg 25); refine Evolves.upd ?_ (fun h => h) rfl rfl rfl rfl)
    | refine Evolves.foldl _ _ (fun u x hu => ?_) ?_ | dsimp only | split

theorem execTaskRelease_leads (t : Nat) (di : Nat) (ai : List Nat) (s : State) : Leads s (execTaskRelease t di ai s) := by
  unfold execTaskRelease
  with_reducible repeat' first
    | refine Leads.next ?_ | assumption | exact Evolves.refl _ | refine State.takeDi_evolves ?_ ..
    | refine State.takeAis_evolves ?_ .. | refine State.setTask_evolves ?_ .. | refine State.overrun_evolves ?_ ..
    | refine State.toleranceGone_evolves ?_ .. | refine State.startRelease_evolves ?_ ..
    | ((conv => arg 2; arg 25); refine Evolves.upd ?_ (fun h => h) rfl rfl rfl rfl) | dsimp only | split

theorem execTaskReleaseEnd_leads (t : Nat) (writes : List (Nat × Nat)) (calls : List FbCall) (s : State) : Leads s (execTaskReleaseEnd t writes calls s) := by
  unfold execTaskReleaseEnd
  with_reducible repeat' first
    | refine Leads.next ?_ | assumption | exact Evolves.refl _ | refine State.setTask_evolves ?_ ..
    | refine State.sendTaskStreams_evolves ?_ .. | refine State.driveLocal_evolves ?_ .. | refine State.taskDone_evolves ?_ ..
    | refine State.journalRetained_evolves ?_ .. | refine State.resumeTask_evolves ?_ ..
    | ((conv => arg 2; arg 25); refine Evolves.upd ?_ (fun h => h) rfl rfl rfl rfl) | dsimp only | split

theorem State.compareLocal_evolves {s0 s : State} (h : Evolves s0 s) (es : List ManEntry) :
    Evolves s0 (State.compareLocal s es) := by
  unfold State.compareLocal
  with_reducible repeat' first
    | assumption | exact Evolves.refl _ | refine State.diDiverge_evolves ?_ .. | refine State.aiDiverge_evolves ?_ ..
    | refine State.learnLoopRes_evolves ?_ .. | ((conv => arg 2; arg 25); refine Evolves.upd ?_ (fun h => h) rfl rfl rfl rfl)
    | refine Evolves.foldl _ _ (fun u x hu => ?_) ?_ | dsimp only | split | refine Evolves.ofFst (by assumption) ?_
    | refine Evolves.ofSnd (by assumption) ?_

theorem State.followDistance_evolves {s0 s : State} (h : Evolves s0 s) (us min : Nat) :
    Evolves s0 (State.followDistance s us min) := by
  unfold State.followDistance
  with_reducible repeat' first
    | assumption | exact Evolves.refl _ | refine State.record_evolves ?_ .. | refine State.enterSync_evolves ?_ ..
    | ((conv => arg 2; arg 25); refine Evolves.upd ?_ (fun h => h) rfl rfl rfl rfl) | dsimp only | split

theorem execFollowerCycleStart_leads (task : Nat) (distUs : Nat) (s : State) : Leads s (execFollowerCycleStart task distUs s) := by
  unfold execFollowerCycleStart
  with_reducible repeat' first
    | refine Leads.next ?_ | assumption | exact Evolves.refl _ | refine State.setTask_evolves ?_ ..
    | refine State.placeTask_evolves ?_ .. | refine State.takeManifest_evolves ?_ .. | refine State.beginCycle_evolves ?_ ..
    | refine State.compareLocal_evolves ?_ .. | refine State.followDistance_evolves ?_ ..
    | ((conv => arg 2; arg 25); refine Evolves.upd ?_ (fun h => h) rfl rfl rfl rfl) | dsimp only | split
    | refine Evolves.ofFst (by assumption) ?_ | refine Evolves.ofSnd (by assumption) ?_

theorem State.progOp_evolves {s : State} (w : WorkRef) (opcode : Nat) {f : Op → State → State} (hf : ∀ op t, Evolves t (f op t)) :
    Evolves s (State.progOp s w opcode f) := by
  refine State.coveredOp_evolves w 10 opcode fun op => ?_
  split
  · split
    · exact Evolves.refl s
    · exact hf op s
  · exact hf op s

theorem State.prgRefuse_evolves {s0 s : State} (h : Evolves s0 s) (op : Op) (reason : Nat) :
    Evolves s0 (State.prgRefuse s op reason) := by
  unfold State.prgRefuse
  with_reducible repeat' first
    | assumption | exact Evolves.refl _ | refine State.record_evolves ?_ .. | refine State.finishCut_evolves ?_ ..
    | ((conv => arg 2; arg 25); refine Evolves.upd ?_ (fun h => h) rfl rfl rfl rfl) | dsimp only

theorem execRestart_leads (w : WorkRef) (s : State) : Leads s (execRestart w s) := by
  unfold execRestart
  with_reducible repeat' first
    | refine Leads.next ?_ | assumption | exact Evolves.refl _ | refine State.finishCut_evolves ?_ ..
    | refine State.applyRestart_evolves ?_ .. | refine Evolves.trans ?_ (State.progOp_evolves _ _ fun op u => ?_) | dsimp only
    | split

theorem State.stageOrder_evolves {s0 s : State} (h : Evolves s0 s) (op : Op) : Evolves s0 (State.stageOrder s op) := by
  unfold State.stageOrder
  with_reducible repeat' first
    | assumption | exact Evolves.refl _ | refine State.raise_evolves ?_ .. | refine State.finishCut_evolves ?_ .. | dsimp only

theorem execInstarPrepare_leads (w : WorkRef) (img : ProgImage) (memOk runtimeOk typesOk : Bool) (s : State) : Leads s (execInstarPrepare w img memOk runtimeOk typesOk s) := by
  unfold execInstarPrepare
  with_reducible repeat' first
    | refine Leads.next ?_ | assumption | exact Evolves.refl _ | refine State.raise_evolves ?_ ..
    | refine State.finishCut_evolves ?_ .. | refine State.sigFail_evolves ?_ ..
    | refine Evolves.trans ?_ (State.progOp_evolves _ _ fun op u => ?_) | refine State.prgRefuse_evolves ?_ ..
    | refine State.stageOrder_evolves ?_ .. | ((conv => arg 2; arg 25); refine Evolves.upd ?_ (fun h => h) rfl rfl rfl rfl)
    | dsimp only | split | refine Evolves.ofFst (by assumption) ?_ | refine Evolves.ofSnd (by assumption) ?_

theorem execInstarLoad_leads (w : WorkRef) (s : State) : Leads s (execInstarLoad w s) := by
  unfold execInstarLoad
  with_reducible repeat' first
    | refine Leads.next ?_ | assumption | exact Evolves.refl _ | refine State.raise_evolves ?_ ..
    | refine State.finishCut_evolves ?_ .. | refine Evolves.trans ?_ (State.progOp_evolves _ _ fun op u => ?_)
    | refine State.stageOrder_evolves ?_ .. | ((conv => arg 2; arg 25); refine Evolves.upd ?_ (fun h => h) rfl rfl rfl rfl)
    | dsimp only | split

theorem execInstarBind_leads (w : WorkRef) (s : State) : Leads s (execInstarBind w s) := by
  unfold execInstarBind
  with_reducible repeat' first
    | refine Leads.next ?_ | assumption | exact Evolves.refl _ | refine State.raise_evolves ?_ ..
    | refine State.writeBuf_evolves ?_ .. | refine State.finishCut_evolves ?_ ..
    | refine Evolves.trans ?_ (State.progOp_evolves _ _ fun op u => ?_) | refine State.stageOrder_evolves ?_ ..
    | ((conv => arg 2; arg 25); refine Evolves.upd ?_ (fun h => h) rfl rfl rfl rfl) | dsimp only | split
    | refine Evolves.ofFst (by assumption) ?_ | refine Evolves.ofSnd (by assumption) ?_

theorem State.switchTo_evolves {s0 s : State} (h : Evolves s0 s) (old new : ProgImage) :
    Evolves s0 (State.switchTo s old new) := by
  unfold State.switchTo
  with_reducible repeat' first
    | assumption | exact Evolves.refl _ | refine State.forceGone_evolves ?_ ..
    | ((conv => arg 2; arg 25); refine Evolves.upd ?_ (fun h => h) rfl rfl rfl rfl)
    | refine Evolves.foldl _ _ (fun u x hu => ?_) ?_ | dsimp only | split

theorem execInstarSwitch_leads (w : WorkRef) (s : State) : Leads s (execInstarSwitch w s) := by
  unfold execInstarSwitch
  with_reducible repeat' first
    | refine Leads.next ?_ | assumption | exact Evolves.refl _ | refine State.raise_evolves ?_ ..
    | refine State.finishCut_evolves ?_ .. | refine Evolves.trans ?_ (State.progOp_evolves _ _ fun op u => ?_)
    | refine State.stageOrder_evolves ?_ .. | refine State.switchTo_evolves ?_ ..
    | ((conv => arg 2; arg 25); refine Evolves.upd ?_ (fun h => h) rfl rfl rfl rfl) | dsimp only | split
    | refine Evolves.ofFst (by assumption) ?_ | refine Evolves.ofSnd (by assumption) ?_

theorem State.endChange_evolves {s0 s : State} (h : Evolves s0 s) : Evolves s0 (State.endChange s) := by
  unfold State.endChange
  with_reducible repeat' first
    | assumption | exact Evolves.refl _ | refine State.raise_evolves ?_ .. | refine State.drillNow_evolves ?_ ..
    | ((conv => arg 2; arg 25); refine Evolves.upd ?_ (fun h => h) rfl rfl rfl rfl) | dsimp only | split

theorem execInstarConfirm_leads (w : WorkRef) (s : State) : Leads s (execInstarConfirm w s) := by
  unfold execInstarConfirm
  with_reducible repeat' first
    | refine Leads.next ?_ | assumption | exact Evolves.refl _ | refine State.finishCut_evolves ?_ ..
    | refine Evolves.trans ?_ (State.progOp_evolves _ _ fun op u => ?_) | refine State.stageOrder_evolves ?_ ..
    | refine State.endChange_evolves ?_ .. | dsimp only | split

theorem execInstarAbandon_leads (w : WorkRef) (s : State) : Leads s (execInstarAbandon w s) := by
  unfold execInstarAbandon
  with_reducible repeat' first
    | refine Leads.next ?_ | assumption | exact Evolves.refl _ | refine State.record_evolves ?_ ..
    | refine State.finishCut_evolves ?_ .. | refine Evolves.trans ?_ (State.progOp_evolves _ _ fun op u => ?_)
    | refine State.stageOrder_evolves ?_ .. | refine State.switchTo_evolves ?_ .. | refine State.endChange_evolves ?_ ..
    | ((conv => arg 2; arg 25); refine Evolves.upd ?_ (fun h => h) rfl rfl rfl rfl) | dsimp only | split
    | refine Evolves.ofFst (by assumption) ?_ | refine Evolves.ofSnd (by assumption) ?_

theorem execInstarConfirmExpiry_leads (s : State) : Leads s (execInstarConfirmExpiry s) := by
  unfold execInstarConfirmExpiry
  with_reducible repeat' first
    | refine Leads.next ?_ | assumption | exact Evolves.refl _ | refine State.journalAdd_evolves ?_ ..
    | ((conv => arg 2; arg 25); refine Evolves.upd ?_ (fun h => h) rfl rfl rfl rfl) | dsimp only | split
    | refine Evolves.ofFst (by assumption) ?_ | refine Evolves.ofSnd (by assumption) ?_

theorem execForceSet_leads (w : WorkRef) (s : State) : Leads s (execForceSet w s) := by
  unfold execForceSet
  with_reducible repeat' first
    | refine Leads.next ?_ | assumption | exact Evolves.refl _ | refine State.raise_evolves ?_ ..
    | refine State.record_evolves ?_ .. | refine State.finishCut_evolves ?_ ..
    | refine Evolves.trans ?_ (State.progOp_evolves _ _ fun op u => ?_) | refine State.prgRefuse_evolves ?_ ..
    | ((conv => arg 2; arg 25); refine Evolves.upd ?_ (fun h => h) rfl rfl rfl rfl) | dsimp only | split
    | refine Evolves.ofFst (by assumption) ?_ | refine Evolves.ofSnd (by assumption) ?_

theorem execForceRemove_leads (w : WorkRef) (s : State) : Leads s (execForceRemove w s) := by
  unfold execForceRemove
  with_reducible repeat' first
    | refine Leads.next ?_ | assumption | exact Evolves.refl _ | refine State.finishCut_evolves ?_ ..
    | refine State.forceGone_evolves ?_ .. | refine Evolves.trans ?_ (State.progOp_evolves _ _ fun op u => ?_)
    | ((conv => arg 2; arg 25); refine Evolves.upd ?_ (fun h => h) rfl rfl rfl rfl)
    | refine Evolves.foldl _ _ (fun u x hu => ?_) ?_ | dsimp only | split

theorem execForceList_leads (w : WorkRef) (s : State) : Leads s (execForceList w s) := by
  unfold execForceList
  with_reducible repeat' first
    | refine Leads.next ?_ | assumption | exact Evolves.refl _ | refine State.writeBuf_evolves ?_ ..
    | refine State.finishCut_evolves ?_ .. | refine Evolves.trans ?_ (State.progOp_evolves _ _ fun op u => ?_) | dsimp only
    | split

end Sys2Proof.Machine
end

