-- ==== Sys2Proof/Laws/Evolve/Modes.lean ====
section
/-! SUPPORT. The operations of Machine/Modes.lean keep what the relation `Evolves` says. -/

namespace Sys2Proof.Machine

theorem State.writeSysCtrl_evolves {s0 s : State} (h : Evolves s0 s) (q : Requester) (v : Word) :
    Evolves s0 (State.writeSysCtrl s q v) := by
  unfold State.writeSysCtrl
  with_reducible repeat' first
    | assumption | exact Evolves.refl _ | refine Evolves.refenced (Steady.upd (Evolves.toSteady ?_) (fun h => h) rfl rfl rfl)
    | refine State.refuseWrite_evolves ?_ .. | refine State.refence_evolves ?_ .. | refine State.enterService_evolves ?_ ..
    | refine State.restart_evolves ?_ .. | refine State.request_evolves ?_ .. | refine State.configStop_evolves ?_ ..
    | ((conv => arg 2; arg 25); refine Evolves.upd ?_ (fun h => h) rfl rfl rfl rfl) | dsimp only | split
    | refine Evolves.ofFst (by assumption) ?_ | refine Evolves.ofSnd (by assumption) ?_

theorem State.sysCtrl_evolves {s0 s : State} (h : Evolves s0 s) (q : Requester) (v : Word) :
    Evolves s0 (State.sysCtrl s q v) := by
  unfold State.sysCtrl
  with_reducible repeat' first
    | assumption | exact Evolves.refl _ | refine State.writeSysCtrl_evolves ?_ ..
    | ((conv => arg 2; arg 25); refine Evolves.upd ?_ (fun h => h) rfl rfl rfl rfl) | dsimp only | split
    | refine Evolves.trans ?_ (State.writeBarred_evolves (by assumption)) | refine Evolves.ofFst (by assumption) ?_
    | refine Evolves.ofSnd (by assumption) ?_

theorem execSysRestart_leads (q : Requester) (v : Word) (s : State) : Leads s (execSysRestart q v s) := by
  unfold execSysRestart
  with_reducible repeat' first
    | refine Leads.next ?_ | assumption | exact Evolves.refl _ | refine State.sysCtrl_evolves ?_ .. | dsimp only

theorem execSysEnterService_leads (q : Requester) (v : Word) (s : State) : Leads s (execSysEnterService q v s) := by
  unfold execSysEnterService
  with_reducible repeat' first
    | refine Leads.next ?_ | assumption | exact Evolves.refl _ | refine State.sysCtrl_evolves ?_ .. | dsimp only

theorem execSafeHoldExitWarm_leads (q : Requester) (v : Word) (s : State) : Leads s (execSafeHoldExitWarm q v s) := by
  unfold execSafeHoldExitWarm
  with_reducible repeat' first
    | refine Leads.next ?_ | assumption | exact Evolves.refl _ | refine State.sysCtrl_evolves ?_ .. | dsimp only

theorem execSafeHoldExitCold_leads (q : Requester) (v : Word) (s : State) : Leads s (execSafeHoldExitCold q v s) := by
  unfold execSafeHoldExitCold
  with_reducible repeat' first
    | refine Leads.next ?_ | assumption | exact Evolves.refl _ | refine State.sysCtrl_evolves ?_ .. | dsimp only

theorem execPlantStartColdSet_leads (q : Requester) (v : Word) (s : State) : Leads s (execPlantStartColdSet q v s) := by
  unfold execPlantStartColdSet
  with_reducible repeat' first
    | refine Leads.next ?_ | assumption | exact Evolves.refl _ | refine State.sysCtrl_evolves ?_ .. | dsimp only

theorem execPlantStartColdClear_leads (q : Requester) (v : Word) (s : State) : Leads s (execPlantStartColdClear q v s) := by
  unfold execPlantStartColdClear
  with_reducible repeat' first
    | refine Leads.next ?_ | assumption | exact Evolves.refl _ | refine State.sysCtrl_evolves ?_ .. | dsimp only

theorem execConfigStop_leads (q : Requester) (v : Word) (s : State) : Leads s (execConfigStop q v s) := by
  unfold execConfigStop
  with_reducible repeat' first
    | refine Leads.next ?_ | assumption | exact Evolves.refl _ | refine State.sysCtrl_evolves ?_ .. | dsimp only

theorem State.restartFor_evolves {s0 s : State} (h : Evolves s0 s) (cause : Nat) : Evolves s0 (State.restartFor s cause) := by
  unfold State.restartFor
  with_reducible repeat' first
    | assumption | exact Evolves.refl _ | refine State.enterQuarantine_evolves ?_ .. | refine State.restart_evolves ?_ ..
    | dsimp only | split

theorem execRestartReset_leads (cause : Nat) (s : State) : Leads s (execRestartReset cause s) := by
  unfold execRestartReset
  with_reducible repeat' first
    | refine Leads.next ?_ | assumption | exact Evolves.refl _ | refine State.restartFor_evolves ?_ .. | dsimp only | split

theorem execBootWatchdog_leads (s : State) : Leads s (execBootWatchdog s) := by
  unfold execBootWatchdog
  with_reducible repeat' first
    | refine Leads.next ?_ | assumption | exact Evolves.refl _ | refine State.restartFor_evolves ?_ .. | dsimp only | split

theorem State.powerOn_evolves {s0 s : State} (h : Evolves s0 s) : Evolves s0 (State.powerOn s) := by
  unfold State.powerOn
  with_reducible repeat' first
    | assumption | exact Evolves.refl _ | refine State.afterRestart_evolves ?_ ..
    | ((conv => arg 2; arg 25); first | refine Evolves.upd ?_ (fun h => h) rfl rfl rfl rfl | refine Evolves.ofFenced (Steady.upd (Evolves.toSteady ?_) (fun h => h) rfl rfl rfl) rfl)
    | dsimp only

theorem execPowerOnReset_leads (s : State) : Leads s (execPowerOnReset s) := by
  unfold execPowerOnReset
  with_reducible repeat' first
    | refine Leads.next ?_ | assumption | exact Evolves.refl _ | refine State.powerOn_evolves ?_ .. | dsimp only

theorem State.verifySlot_evolves {s0 s : State} (h : Evolves s0 s) (i : Nat) (ok : Bool) :
    Evolves s0 (State.verifySlot s i ok).1 := by
  unfold State.verifySlot
  with_reducible repeat' first
    | assumption | exact Evolves.refl _ | refine State.record_evolves ?_ .. | refine State.setBoot_evolves ?_ ..
    | ((conv => arg 2; arg 25); refine Evolves.upd ?_ (fun h => h) rfl rfl rfl rfl) | dsimp only | split

theorem State.runSlot_evolves {s0 s : State} (h : Evolves s0 s) (i : Nat) : Evolves s0 (State.runSlot s i) := by
  unfold State.runSlot
  with_reducible repeat' first
    | assumption | exact Evolves.refl _ | refine State.record_evolves ?_ ..
    | ((conv => arg 2; arg 25); refine Evolves.upd ?_ (fun h => h) rfl rfl rfl rfl) | dsimp only | split

theorem State.bootFrom_evolves {s0 s : State} (h : Evolves s0 s) (ok : Nat → Bool) (a0 : List SlotState) :
    Evolves s0 (State.bootFrom ok a0 s) := by
  induction a0 generalizing s0 ok s with
  | nil =>
    rw [State.bootFrom]
    with_reducible repeat' first
      | assumption | exact Evolves.refl _ | refine State.setBoot_evolves ?_ .. | refine State.verifySlot_evolves ?_ ..
      | refine State.runSlot_evolves ?_ .. | ((conv => arg 2; arg 25); refine Evolves.upd ?_ (fun h => h) rfl rfl rfl rfl)
      | dsimp only | split | refine Evolves.ofFst (by assumption) ?_ | refine Evolves.ofSnd (by assumption) ?_
  | cons y ys ih =>
    rw [State.bootFrom]
    with_reducible repeat' first
      | assumption | exact Evolves.refl _ | refine ih ?_ .. | refine State.setBoot_evolves ?_ ..
      | refine State.verifySlot_evolves ?_ .. | refine State.runSlot_evolves ?_ ..
      | ((conv => arg 2; arg 25); refine Evolves.upd ?_ (fun h => h) rfl rfl rfl rfl) | dsimp only | split
      | refine Evolves.ofFst (by assumption) ?_ | refine Evolves.ofSnd (by assumption) ?_

theorem State.fallBack_evolves {s0 s : State} (h : Evolves s0 s) (t : Nat) (ok : Nat → Bool) :
    Evolves s0 (State.fallBack s t ok) := by
  unfold State.fallBack
  with_reducible repeat' first
    | assumption | exact Evolves.refl _ | refine State.record_evolves ?_ .. | refine State.setBoot_evolves ?_ ..
    | refine State.bootFrom_evolves ?_ .. | ((conv => arg 2; arg 25); refine Evolves.upd ?_ (fun h => h) rfl rfl rfl rfl)
    | dsimp only | split

theorem State.bootMonitor_evolves {s0 s : State} (h : Evolves s0 s) (ok : Nat → Bool) : Evolves s0 (State.bootMonitor s ok) := by
  unfold State.bootMonitor
  with_reducible repeat' first
    | assumption | exact Evolves.refl _ | refine State.setBoot_evolves ?_ .. | refine State.verifySlot_evolves ?_ ..
    | refine State.runSlot_evolves ?_ .. | refine State.bootFrom_evolves ?_ .. | refine State.fallBack_evolves ?_ ..
    | ((conv => arg 2; arg 25); refine Evolves.upd ?_ (fun h => h) rfl rfl rfl rfl) | dsimp only | split
    | refine Evolves.ofFst (by assumption) ?_ | refine Evolves.ofSnd (by assumption) ?_

theorem execBootStart_leads (ok0 ok1 ok2 : Bool) (s : State) : Leads s (execBootStart ok0 ok1 ok2 s) := by
  unfold execBootStart
  with_reducible repeat' first
    | refine Leads.next ?_ | assumption | exact Evolves.refl _ | refine State.actExtraction_evolves ?_ ..
    | refine State.bootMonitor_evolves ?_ .. | dsimp only | split

theorem execPeerWaitExpiry_leads (s : State) : Leads s (execPeerWaitExpiry s) := by
  unfold execPeerWaitExpiry
  with_reducible repeat' first
    | refine Leads.next ?_ | assumption | exact Evolves.refl _ | refine State.becomeStarter_evolves ?_ .. | dsimp only | split

theorem execCocoonEnter_leads (w : WorkRef) (s : State) : Leads s (execCocoonEnter w s) := by
  unfold execCocoonEnter
  with_reducible repeat' first
    | refine Leads.next ?_ | assumption | exact Evolves.refl _ | refine State.setOp_evolves ?_ ..
    | refine State.finishCut_evolves ?_ .. | refine State.cocoonAcked_evolves ?_ .. | refine State.cocoonPlan_evolves ?_ ..
    | refine Evolves.trans ?_ (State.progOp_evolves _ _ fun op u => ?_)
    | ((conv => arg 2; arg 25); refine Evolves.upd ?_ (fun h => h) rfl rfl rfl rfl) | dsimp only | split
    | refine Evolves.ofFst (by assumption) ?_ | refine Evolves.ofSnd (by assumption) ?_

theorem execCocoonPlanTimeout_leads (s : State) : Leads s (execCocoonPlanTimeout s) := by
  unfold execCocoonPlanTimeout
  with_reducible repeat' first
    | refine Leads.next ?_ | assumption | exact Evolves.refl _ | refine State.cocoonGo_evolves ?_ .. | dsimp only | split

theorem execCocoonResume_leads (digestOk : Bool) (s : State) : Leads s (execCocoonResume digestOk s) := by
  unfold execCocoonResume
  with_reducible repeat' first
    | refine Leads.next ?_ | assumption | exact Evolves.refl _
    | refine Evolves.refenced (Steady.upd (Evolves.toSteady ?_) (fun h => h) rfl rfl rfl) | refine State.refence_evolves ?_ ..
    | refine State.restart_evolves ?_ .. | refine State.request_evolves ?_ ..
    | ((conv => arg 2; arg 25); refine Evolves.upd ?_ (fun h => h) rfl rfl rfl rfl) | dsimp only | split

theorem execCocoonRequestTimeout_leads (s : State) : Leads s (execCocoonRequestTimeout s) := by
  unfold execCocoonRequestTimeout
  with_reducible repeat' first
    | refine Leads.next ?_ | assumption | exact Evolves.refl _
    | refine Evolves.refenced (Steady.upd (Evolves.toSteady ?_) (fun h => h) rfl rfl rfl) | refine State.refence_evolves ?_ ..
    | refine State.request_evolves ?_ .. | ((conv => arg 2; arg 25); refine Evolves.upd ?_ (fun h => h) rfl rfl rfl rfl)
    | dsimp only | split

theorem execModuleOvertemp_leads (inlet : Int) (s : State) : Leads s (execModuleOvertemp inlet s) := by
  unfold execModuleOvertemp
  with_reducible repeat' first
    | refine Leads.next ?_ | assumption | exact Evolves.refl _ | refine State.raise_evolves ?_ ..
    | refine State.record_evolves ?_ .. | ((conv => arg 2; arg 25); refine Evolves.upd ?_ (fun h => h) rfl rfl rfl rfl)
    | dsimp only | split

theorem execFaultFlashEnd_leads (s : State) : Leads s (execFaultFlashEnd s) := by
  unfold execFaultFlashEnd
  with_reducible repeat' first
    | refine Leads.next ?_ | assumption | exact Evolves.refl _
    | ((conv => arg 2; arg 25); refine Evolves.upd ?_ (fun h => h) rfl rfl rfl rfl) | dsimp only | split

end Sys2Proof.Machine
end

