-- ==== Sys2Proof/Laws/Evolve/Architecture.lean ====
section
/-! SUPPORT. The operations of Machine/Architecture.lean keep what the relation `Evolves` says. -/

namespace Sys2Proof.Machine

theorem State.stepBoundary_evolves {s0 s : State} (h : Evolves s0 s) (op : Op) : Evolves s0 (State.stepBoundary s op) := by
  unfold State.stepBoundary
  with_reducible repeat' first
    | assumption | exact Evolves.refl _ | refine State.journalAdd_evolves ?_ .. | refine State.writeRes_evolves ?_ ..
    | dsimp only | split

theorem State.lastStep_evolves {s0 s : State} (h : Evolves s0 s) (op : Op) : Evolves s0 (State.lastStep s op) := by
  unfold State.lastStep
  with_reducible repeat' first
    | assumption | exact Evolves.refl _ | refine State.finishEnum_evolves ?_ .. | refine State.finishPrepare_evolves ?_ ..
    | dsimp only | split

theorem State.engineStep_evolves {s0 s : State} (h : Evolves s0 s) (w : WorkRef) (o : Op) :
    Evolves s0 (State.engineStep s w o) := by
  unfold State.engineStep
  with_reducible repeat' first
    | assumption | exact Evolves.refl _ | refine State.storageStep_evolves ?_ .. | dsimp only | split

theorem execLongOpStep_leads (w : WorkRef) (total : Nat) (last : Bool) (s : State) : Leads s (execLongOpStep w total last s) := by
  unfold execLongOpStep
  with_reducible repeat' first
    | refine Leads.next ?_ | assumption | exact Evolves.refl _ | refine State.setOp_evolves ?_ ..
    | refine State.stepBoundary_evolves ?_ .. | refine State.lastStep_evolves ?_ .. | refine State.engineStep_evolves ?_ ..
    | ((conv => arg 2; arg 25); refine Evolves.upd ?_ (fun h => h) rfl rfl rfl rfl) | dsimp only | split
    | refine Evolves.ofFst (by assumption) ?_ | refine Evolves.ofSnd (by assumption) ?_

theorem State.unitFails_evolves {s0 s : State} (h : Evolves s0 s) (u : UnitId) : Evolves s0 (State.unitFails s u) := by
  unfold State.unitFails
  with_reducible repeat' first
    | assumption | exact Evolves.refl _ | refine State.setPair_evolves ?_ .. | refine State.setRing_evolves ?_ ..
    | ((conv => arg 2; arg 25); refine Evolves.upd ?_ (fun h => h) rfl rfl rfl rfl) | dsimp only | split
    | refine Evolves.ofFst (by assumption) ?_ | refine Evolves.ofSnd (by assumption) ?_

theorem execUnitLost_leads (u : UnitId) (s : State) : Leads s (execUnitLost u s) := by
  unfold execUnitLost
  with_reducible repeat' first
    | refine Leads.next ?_ | assumption | exact Evolves.refl _ | refine State.loseUnit_evolves ?_ ..
    | refine State.judgeHoldup_evolves ?_ .. | refine State.moveService_evolves ?_ .. | refine State.unitFails_evolves ?_ ..
    | ((conv => arg 2; arg 25); refine Evolves.upd ?_ (fun h => h) rfl rfl rfl rfl) | dsimp only | split
    | refine Evolves.ofFst (by assumption) ?_ | refine Evolves.ofSnd (by assumption) ?_

theorem execUnitRestored_leads (u : UnitId) (s : State) : Leads s (execUnitRestored u s) := by
  unfold execUnitRestored
  with_reducible repeat' first
    | refine Leads.next ?_ | assumption | exact Evolves.refl _ | refine State.record_evolves ?_ ..
    | refine State.clearUnit_evolves ?_ .. | refine State.judgeHoldup_evolves ?_ .. | refine State.setPair_evolves ?_ ..
    | ((conv => arg 2; arg 25); refine Evolves.upd ?_ (fun h => h) rfl rfl rfl rfl) | dsimp only | split
    | refine Evolves.ofFst (by assumption) ?_ | refine Evolves.ofSnd (by assumption) ?_

theorem State.slotStale_evolves {s0 s : State} (h : Evolves s0 s) (n k : Nat) : Evolves s0 (State.slotStale s n k) := by
  unfold State.slotStale
  with_reducible repeat' first
    | assumption | exact Evolves.refl _ | refine State.record_evolves ?_ .. | refine State.setSlot_evolves ?_ ..
    | refine State.staleOnset_evolves ?_ .. | ((conv => arg 2; arg 25); refine Evolves.upd ?_ (fun h => h) rfl rfl rfl rfl)
    | dsimp only | split

theorem execInputStale_leads (i : StaleInput) (s : State) : Leads s (execInputStale i s) := by
  unfold execInputStale
  with_reducible repeat' first
    | refine Leads.next ?_ | assumption | exact Evolves.refl _ | refine State.setStage_evolves ?_ ..
    | refine State.dspFallBack_evolves ?_ .. | refine State.slotStale_evolves ?_ ..
    | ((conv => arg 2; arg 25); refine Evolves.upd ?_ (fun h => h) rfl rfl rfl rfl) | dsimp only | split
    | refine Evolves.ofFst (by assumption) ?_ | refine Evolves.ofSnd (by assumption) ?_

end Sys2Proof.Machine
end

