-- ==== Sys2Proof/Laws/Evolve/RegisterRead.lean ====
section
/-! SUPPORT. The operations of Machine/RegisterRead.lean keep what the relation `Evolves` says. -/

namespace Sys2Proof.Machine

theorem State.dropOldLatches_evolves {s0 s : State} (h : Evolves s0 s) : Evolves s0 (State.dropOldLatches s) := by
  unfold State.dropOldLatches
  with_reducible repeat' first
    | assumption | exact Evolves.refl _ | ((conv => arg 2; arg 25); refine Evolves.upd ?_ (fun h => h) rfl rfl rfl rfl)
    | dsimp only | split | refine Evolves.ofFst (by assumption) ?_ | refine Evolves.ofSnd (by assumption) ?_

theorem State.unlatch_evolves {s0 s : State} (h : Evolves s0 s) (key : Nat) (addrs : List Nat) :
    Evolves s0 (State.unlatch s key addrs) := by
  unfold State.unlatch
  with_reducible repeat' first
    | assumption | exact Evolves.refl _ | ((conv => arg 2; arg 25); refine Evolves.upd ?_ (fun h => h) rfl rfl rfl rfl)
    | dsimp only | split

theorem State.latchWords_evolves {s0 s : State} (h : Evolves s0 s) (k : LatchKind) (key : Nat) (ws : List (RegName × Nat × Nat)) :
    Evolves s0 (State.latchWords s k key ws) := by
  unfold State.latchWords
  with_reducible repeat' first
    | assumption | exact Evolves.refl _ | ((conv => arg 2; arg 25); refine Evolves.upd ?_ (fun h => h) rfl rfl rfl rfl)
    | dsimp only | split | refine Evolves.ofFst (by assumption) ?_ | refine Evolves.ofSnd (by assumption) ?_

theorem State.readLatched_evolves {s0 s : State} (h : Evolves s0 s) (q : Requester) (r : RegName) (i j : Nat) :
    Evolves s0 (State.readLatched s q r i j).1 := by
  unfold State.readLatched
  with_reducible repeat' first
    | assumption | exact Evolves.refl _ | refine State.dropOldLatches_evolves ?_ .. | refine State.unlatch_evolves ?_ ..
    | refine State.latchWords_evolves ?_ .. | ((conv => arg 2; arg 25); refine Evolves.upd ?_ (fun h => h) rfl rfl rfl rfl)
    | dsimp only | split | refine Evolves.ofFst (by assumption) ?_ | refine Evolves.ofSnd (by assumption) ?_

theorem State.readReg_evolves {s0 s : State} (h : Evolves s0 s) (q : Requester) (r : RegName) (i j : Nat) :
    Evolves s0 (State.readReg s q r i j) := by
  unfold State.readReg
  with_reducible repeat' first
    | assumption | exact Evolves.refl _ | refine State.useFree_evolves ?_ .. | refine State.answer_evolves ?_ ..
    | refine Evolves.trans ?_ (State.after_evolves (execLegacyPopRead_leads ..)) | refine State.dropOldLatches_evolves ?_ ..
    | refine State.readLatched_evolves ?_ .. | ((conv => arg 2; arg 25); refine Evolves.upd ?_ (fun h => h) rfl rfl rfl rfl)
    | dsimp only | split | refine Evolves.ofFst (by assumption) ?_ | refine Evolves.ofSnd (by assumption) ?_

theorem State.readWindow_evolves {s0 s : State} (h : Evolves s0 s) (q : Requester) : Evolves s0 (State.readWindow s q) := by
  unfold State.readWindow
  with_reducible repeat' first
    | assumption | exact Evolves.refl _ | refine State.useFree_evolves ?_ .. | refine State.answer_evolves ?_ .. | dsimp only

theorem State.readSpace_evolves {s0 s : State} (h : Evolves s0 s) (q : Requester) (addr : Nat) :
    Evolves s0 (State.readSpace s q addr) := by
  unfold State.readSpace
  with_reducible repeat' first
    | assumption | exact Evolves.refl _ | refine State.answer_evolves ?_ .. | refine State.answerErr_evolves ?_ ..
    | refine State.readReg_evolves ?_ .. | refine State.readWindow_evolves ?_ ..
    | ((conv => arg 2; arg 25); refine Evolves.upd ?_ (fun h => h) rfl rfl rfl rfl) | dsimp only | split
    | refine Evolves.ofFst (by assumption) ?_ | refine Evolves.ofSnd (by assumption) ?_

end Sys2Proof.Machine
end

