-- ==== Sys2Proof/Laws/Evolve/RegisterEffect.lean ====
section
/-! SUPPORT. The operations of Machine/RegisterEffect.lean keep what the relation `Evolves` says. -/

namespace Sys2Proof.Machine

theorem State.setLock_evolves {s0 s : State} (h : Evolves s0 s) (b : Nat) (f : LockSt → LockSt) :
    Evolves s0 (State.setLock s b f) := by
  unfold State.setLock
  with_reducible repeat' first
    | assumption | exact Evolves.refl _ | ((conv => arg 2; arg 25); refine Evolves.upd ?_ (fun h => h) rfl rfl rfl rfl)
    | dsimp only

theorem State.writeLock_evolves {s0 s : State} (h : Evolves s0 s) (q : Requester) (b : Nat) (v : Word) :
    Evolves s0 (State.writeLock s q b v) := by
  unfold State.writeLock
  with_reducible repeat' first
    | assumption | exact Evolves.refl _ | refine State.refuseWrite_evolves ?_ .. | refine State.setLock_evolves ?_ ..
    | ((conv => arg 2; arg 25); refine Evolves.upd ?_ (fun h => h) rfl rfl rfl rfl) | dsimp only | split

theorem State.clearBits_evolves {s t : State} {q : Requester} {r : RegName} {i : Nat} {v : Word} (h : State.clearBits s q r i v = some t) :
    Evolves s t := by
  unfold State.clearBits at h
  split at h <;> cases h
  all_goals
    repeat' first
      | with_reducible exact Evolves.refl _
      | with_reducible refine Evolves.trans ?_ (State.setQueue_evolves (Evolves.refl _) ..)
      | with_reducible refine Evolves.trans ?_ (State.refuseWrite_evolves (Evolves.refl _) ..)
      | with_reducible refine Evolves.trans ?_ (State.setDoSt_evolves (Evolves.refl _) ..)
      | with_reducible refine Evolves.trans ?_ (State.setAiSt_evolves (Evolves.refl _) ..)
      | with_reducible refine Evolves.trans ?_ (State.setCanPort_evolves (Evolves.refl _) ..)
      | with_reducible refine Evolves.trans ?_ (State.setRing_evolves (Evolves.refl _) ..)
      | (conv => arg 2; arg 25
         with_reducible refine Evolves.upd ?_ (fun h => h) rfl rfl rfl rfl)
      | dsimp only
      | split

theorem State.writeHqBase_evolves {s0 s : State} (h : Evolves s0 s) (q : Requester) (r : RegName) (n : Nat) (v : Word) :
    Evolves s0 (State.writeHqBase s q r n v) := by
  unfold State.writeHqBase
  with_reducible repeat' first
    | assumption | exact Evolves.refl _ | refine State.refuseWrite_evolves ?_ .. | refine State.writeWide_evolves ?_ ..
    | dsimp only | split

theorem State.writeHqTiming_evolves {s0 s : State} (h : Evolves s0 s) (q : Requester) (n : Nat) (v : Word) :
    Evolves s0 (State.writeHqTiming s q n v) := by
  unfold State.writeHqTiming
  with_reducible repeat' first
    | assumption | exact Evolves.refl _ | refine State.refuseWrite_evolves ?_ .. | refine State.setQueue_evolves ?_ ..
    | ((conv => arg 2; arg 25); refine Evolves.upd ?_ (fun h => h) rfl rfl rfl rfl) | dsimp only | split

theorem State.writeAlmWord_evolves {s0 s : State} (h : Evolves s0 s) (q : Requester) (r : RegName) (n : Nat) (v : Word) :
    Evolves s0 (State.writeAlmWord s q r n v) := by
  unfold State.writeAlmWord
  with_reducible repeat' first
    | assumption | exact Evolves.refl _ | refine State.refuseWrite_evolves ?_ .. | refine State.writeWide_evolves ?_ ..
    | dsimp only | split

theorem State.writeRtcCtrl_evolves {s0 s : State} (h : Evolves s0 s) (q : Requester) (v : Word) :
    Evolves s0 (State.writeRtcCtrl s q v) := by
  unfold State.writeRtcCtrl
  with_reducible repeat' first
    | assumption | exact Evolves.refl _ | refine State.writeHeld_evolves ?_ .. | refine State.armCal_evolves ?_ .. | dsimp only
    | split

theorem State.writeDbgCtrl_evolves {s0 s : State} (h : Evolves s0 s) (v : Word) : Evolves s0 (State.writeDbgCtrl s v) := by
  unfold State.writeDbgCtrl
  with_reducible repeat' first
    | assumption | exact Evolves.refl _ | refine State.relock_evolves ?_ .. | refine State.tokenGo_evolves ?_ .. | dsimp only
    | split

theorem State.writeToken_evolves {s0 s : State} (h : Evolves s0 s) (k : Nat) (v : Word) :
    Evolves s0 (State.writeToken s k v) := by
  unfold State.writeToken
  with_reducible repeat' first
    | assumption | exact Evolves.refl _ | ((conv => arg 2; arg 25); refine Evolves.upd ?_ (fun h => h) rfl rfl rfl rfl)
    | dsimp only

theorem State.writeLiveBase_evolves {s0 s : State} (h : Evolves s0 s) (q : Requester) (r : RegName) (v : Word) :
    Evolves s0 (State.writeLiveBase s q r v) := by
  unfold State.writeLiveBase
  with_reducible repeat' first
    | assumption | exact Evolves.refl _ | refine State.writeWide_evolves ?_ ..
    | ((conv => arg 2; arg 25); refine Evolves.upd ?_ (fun h => h) rfl rfl rfl rfl) | dsimp only | split

theorem State.writePlain_evolves {s0 s : State} (h : Evolves s0 s) (q : Requester) (r : RegName) (i j : Nat) (v : Word) :
    Evolves s0 (State.writePlain s q r i j v) := by
  unfold State.writePlain
  with_reducible repeat' first
    | assumption | exact Evolves.refl _ | refine State.writeWide_evolves ?_ ..
    | ((conv => arg 2; arg 25); refine Evolves.upd ?_ (fun h => h) rfl rfl rfl rfl) | dsimp only | split
    | refine Evolves.trans ?_ (State.clearBits_evolves (by assumption)) | refine Evolves.ofFst (by assumption) ?_
    | refine Evolves.ofSnd (by assumption) ?_

theorem State.writeAt_self (s : State) (q : Requester) (r : RegName) (i j : Nat) (v : Word) :
    Evolves s (State.writeAt s q r i j v) := by
  unfold State.writeAt
  split
  case h_1 => exact State.writeLock_evolves (Evolves.refl _) ..
  case h_2 => exact State.writeSysCtrl_evolves (Evolves.refl _) ..
  case h_3 => exact (State.writeAngCtrl_evolves (Evolves.refl _) ..).trans (State.useFree_evolves (Evolves.refl _))
  case h_4 => exact State.writeStepGo_evolves (Evolves.refl _) ..
  case h_5 => exact State.writeAlm_evolves (Evolves.refl _) ..
  case h_6 | h_7 | h_8 | h_9 | h_10 => exact State.writeAlmWord_evolves (Evolves.refl _) ..
  case h_11 => exact State.writeRtcCtrl_evolves (Evolves.refl _) ..
  case h_12 => exact State.writeCalDate_evolves (Evolves.refl _) ..
  case h_13 => exact State.writeCalTime_evolves (Evolves.refl _) ..
  case h_14 => exact State.after_evolves (execHqKick_leads ..)
  case h_15 => exact State.writeHqCtrl_evolves (Evolves.refl _) ..
  case h_16 | h_17 | h_18 => exact State.writeHqBase_evolves (Evolves.refl _) ..
  case h_19 => exact State.writeHqTiming_evolves (Evolves.refl _) ..
  case h_20 => exact State.after_evolves (execEvtRouteWrite_leads ..)
  case h_21 => exact State.after_evolves (execEvtPendClear_leads ..)
  case h_22 => exact State.after_evolves (execEvtSoft_leads ..)
  case h_23 => exact State.after_evolves (execEvtHostEoi_leads ..)
  case h_24 => exact State.after_evolves (execEvtHostMaskWrite_leads ..)
  case h_25 => exact State.writeLeaseWd_evolves (Evolves.refl _) ..
  case h_26 => exact State.writeHandover_evolves (Evolves.refl _) ..
  case h_27 => exact State.writeMpuCtrl_evolves (Evolves.refl _) ..
  case h_28 | h_29 | h_30 =>
    split
    · exact Evolves.refl s
    · exact State.writeWide_evolves (Evolves.refl _) ..
  case h_31 =>
    split
    · exact Evolves.refl s
    · exact State.writeHeld_evolves (Evolves.refl _) ..
  case h_32 => exact State.writeSlkCtrl_evolves (Evolves.refl _) ..
  case h_33 => exact State.writeSlkDither_evolves (Evolves.refl _) ..
  case h_34 | h_35 => exact State.writeCk_evolves (Evolves.refl _) ..
  case h_36 => exact State.writeSlkPort_evolves (Evolves.refl _) ..
  case h_37 => exact State.writeEstCtrl_evolves (Evolves.refl _) ..
  case h_38 | h_39 => exact State.writeLiveBase_evolves (Evolves.refl _) ..
  case h_40 => exact State.writeCal_evolves (Evolves.refl _) ..
  case h_41 => exact State.writeCanCtrl_evolves (Evolves.refl _) ..
  case h_42 => exact State.writeDbgCtrl_evolves (Evolves.refl _) ..
  case h_43 => exact State.writeToken_evolves (Evolves.refl _) ..
  case h_44 => exact Evolves.refl s
  case h_45 => exact State.writePlain_evolves (Evolves.refl _) ..

theorem State.writeAt_evolves {s0 s : State} (h : Evolves s0 s) (q : Requester) (r : RegName) (i j : Nat) (v : Word) : Evolves s0 (State.writeAt s q r i j v) :=
  h.trans (State.writeAt_self s q r i j v)

theorem State.writeSpace_evolves {s0 s : State} (h : Evolves s0 s) (q : Requester) (addr : Nat) (v : Word) :
    Evolves s0 (State.writeSpace s q addr v) := by
  unfold State.writeSpace
  with_reducible repeat' first
    | assumption | exact Evolves.refl _ | refine State.unlatch_evolves ?_ .. | refine State.writeAt_evolves ?_ ..
    | ((conv => arg 2; arg 25); refine Evolves.upd ?_ (fun h => h) rfl rfl rfl rfl) | dsimp only | split
    | refine Evolves.trans ?_ (State.writeBarred_evolves (by assumption)) | refine Evolves.ofFst (by assumption) ?_
    | refine Evolves.ofSnd (by assumption) ?_

end Sys2Proof.Machine
end

