-- ==== Sys2Proof/Laws/Evolve/BusAccess.lean ====
section
/-! SUPPORT. The operations of Machine/BusAccess.lean keep what the relation `Evolves` says. -/

namespace Sys2Proof.Machine

theorem State.storeBytes_evolves {s0 s : State} (h : Evolves s0 s) (hart : Nat) (a0 : Nat) (a1 : List Byte) :
    Evolves s0 (State.storeBytes s hart a0 a1) := by
  induction a1 generalizing s0 s hart a0 with
  | nil =>
    rw [State.storeBytes]
    with_reducible repeat' first
      | assumption | exact Evolves.refl _
      | ((conv => arg 2; arg 25); first | refine Evolves.upd ?_ (Memory.write_wf _ _) rfl rfl rfl rfl | refine Evolves.upd ?_ (fun h => h) rfl rfl rfl rfl)
      | dsimp only | split
  | cons y ys ih =>
    rw [State.storeBytes]
    with_reducible repeat' first
      | assumption | exact Evolves.refl _ | refine ih ?_ ..
      | ((conv => arg 2; arg 25); first | refine Evolves.upd ?_ (Memory.write_wf _ _) rfl rfl rfl rfl | refine Evolves.upd ?_ (fun h => h) rfl rfl rfl rfl)
      | dsimp only | split

theorem State.debugRead_evolves {s0 s : State} (h : Evolves s0 s) (addr : Nat) : Evolves s0 (State.debugRead s addr) := by
  unfold State.debugRead
  with_reducible repeat' first
    | assumption | exact Evolves.refl _ | refine State.denyDebug_evolves ?_ .. | refine State.answer_evolves ?_ ..
    | refine State.answerErr_evolves ?_ .. | refine State.readSpace_evolves ?_ .. | dsimp only | split

theorem State.debugWrite_evolves {s0 s : State} (h : Evolves s0 s) (addr : Nat) (v : Word) :
    Evolves s0 (State.debugWrite s addr v) := by
  unfold State.debugWrite
  with_reducible repeat' first
    | assumption | exact Evolves.refl _ | refine State.answerErr_evolves ?_ .. | refine State.writeSpace_evolves ?_ ..
    | refine State.storeBytes_evolves ?_ .. | ((conv => arg 2; arg 25); refine Evolves.upd ?_ (fun h => h) rfl rfl rfl rfl)
    | dsimp only | split | refine Evolves.trans ?_ (State.writeBarred_evolves (by assumption))
    | refine Evolves.ofFst (by assumption) ?_ | refine Evolves.ofSnd (by assumption) ?_

theorem State.setDm_evolves {s0 s : State} (h : Evolves s0 s) (a v : Nat) : Evolves s0 (State.setDm s a v) := by
  unfold State.setDm
  with_reducible repeat' first
    | assumption | exact Evolves.refl _ | ((conv => arg 2; arg 25); refine Evolves.upd ?_ (fun h => h) rfl rfl rfl rfl)
    | dsimp only

theorem State.setSbError_evolves {s0 s : State} (h : Evolves s0 s) (e : Nat) : Evolves s0 (State.setSbError s e) := by
  unfold State.setSbError
  with_reducible repeat' first
    | assumption | exact Evolves.refl _ | refine State.setDm_evolves ?_ .. | dsimp only

theorem State.sbNext_evolves {s0 s : State} (h : Evolves s0 s) : Evolves s0 (State.sbNext s) := by
  unfold State.sbNext
  with_reducible repeat' first
    | assumption | exact Evolves.refl _ | refine State.setDm_evolves ?_ .. | dsimp only | split

theorem State.sbReady_evolves {s : State} {f : State → State} (hf : Evolves s (f s)) : Evolves s (State.sbReady s f) := by
  unfold State.sbReady
  split
  · exact Evolves.refl s
  · split
    · exact State.setSbError_evolves (Evolves.refl _) ..
    · exact hf

theorem State.sbRead_evolves {s0 s : State} (h : Evolves s0 s) : Evolves s0 (State.sbRead s) := by
  unfold State.sbRead
  with_reducible repeat' first
    | assumption | exact Evolves.refl _ | refine State.debugRead_evolves ?_ .. | refine State.setDm_evolves ?_ ..
    | refine State.setSbError_evolves ?_ .. | refine State.sbNext_evolves ?_ ..
    | refine Evolves.trans ?_ (State.sbReady_evolves ?_)
    | ((conv => arg 2; arg 25); refine Evolves.upd ?_ (fun h => h) rfl rfl rfl rfl) | dsimp only | split
    | refine Evolves.ofFst (by assumption) ?_ | refine Evolves.ofSnd (by assumption) ?_

theorem State.sbWrite_evolves {s0 s : State} (h : Evolves s0 s) : Evolves s0 (State.sbWrite s) := by
  unfold State.sbWrite
  with_reducible repeat' first
    | assumption | exact Evolves.refl _ | refine State.debugWrite_evolves ?_ .. | refine State.setSbError_evolves ?_ ..
    | refine State.sbNext_evolves ?_ .. | refine Evolves.trans ?_ (State.sbReady_evolves ?_)
    | ((conv => arg 2; arg 25); refine Evolves.upd ?_ (fun h => h) rfl rfl rfl rfl) | dsimp only | split
    | refine Evolves.ofFst (by assumption) ?_ | refine Evolves.ofSnd (by assumption) ?_

theorem State.cmdErr_evolves {s0 s : State} (h : Evolves s0 s) (e : Nat) : Evolves s0 (State.cmdErr s e) := by
  unfold State.cmdErr
  with_reducible repeat' first
    | assumption | exact Evolves.refl _ | refine State.setDm_evolves ?_ .. | dsimp only | split

theorem State.abstractCmd_evolves {s0 s : State} (h : Evolves s0 s) (v : Nat) : Evolves s0 (State.abstractCmd s v) := by
  unfold State.abstractCmd
  with_reducible repeat' first
    | assumption | exact Evolves.refl _ | refine State.useFree_evolves ?_ .. | refine State.setDm_evolves ?_ ..
    | refine State.cmdErr_evolves ?_ .. | dsimp only | split

theorem State.dmControl_evolves {s0 s : State} (h : Evolves s0 s) (v : Nat) : Evolves s0 (State.dmControl s v) := by
  unfold State.dmControl
  with_reducible repeat' first
    | assumption | exact Evolves.refl _ | refine State.setPair_evolves ?_ .. | refine State.haltPair_evolves ?_ ..
    | refine State.setDm_evolves ?_ .. | ((conv => arg 2; arg 25); refine Evolves.upd ?_ (fun h => h) rfl rfl rfl rfl)
    | dsimp only | split

theorem State.dmWrite_evolves {s0 s : State} (h : Evolves s0 s) (a : Nat) (v : Word) : Evolves s0 (State.dmWrite s a v) := by
  unfold State.dmWrite
  with_reducible repeat' first
    | assumption | exact Evolves.refl _ | refine State.setDm_evolves ?_ .. | refine State.sbRead_evolves ?_ ..
    | refine State.sbWrite_evolves ?_ .. | refine State.abstractCmd_evolves ?_ .. | refine State.dmControl_evolves ?_ ..
    | dsimp only | split

theorem State.dmRead_evolves {s0 s : State} (h : Evolves s0 s) (q : Requester) (a : Nat) : Evolves s0 (State.dmRead s q a) := by
  unfold State.dmRead
  with_reducible repeat' first
    | assumption | exact Evolves.refl _ | refine State.answer_evolves ?_ .. | refine State.sbRead_evolves ?_ .. | dsimp only
    | split

theorem State.writeRegs_evolves {s0 s : State} (h : Evolves s0 s) (q : Requester) (addr : Nat) (v : Word) :
    Evolves s0 (State.writeRegs s q addr v) := by
  unfold State.writeRegs
  with_reducible repeat' first
    | assumption | exact Evolves.refl _ | refine State.writeSpace_evolves ?_ .. | refine State.dmWrite_evolves ?_ ..
    | ((conv => arg 2; arg 25); refine Evolves.upd ?_ (fun h => h) rfl rfl rfl rfl) | dsimp only | split
    | refine Evolves.trans ?_ (State.writeBarred_evolves (by assumption)) | refine Evolves.ofFst (by assumption) ?_
    | refine Evolves.ofSnd (by assumption) ?_

theorem State.readRegs_evolves {s0 s : State} (h : Evolves s0 s) (q : Requester) (addr : Nat) :
    Evolves s0 (State.readRegs s q addr) := by
  unfold State.readRegs
  with_reducible repeat' first
    | assumption | exact Evolves.refl _ | refine State.denyDebug_evolves ?_ .. | refine State.answer_evolves ?_ ..
    | refine State.answerErr_evolves ?_ .. | refine State.readSpace_evolves ?_ .. | refine State.dmRead_evolves ?_ ..
    | ((conv => arg 2; arg 25); refine Evolves.upd ?_ (fun h => h) rfl rfl rfl rfl) | dsimp only | split
    | refine Evolves.ofFst (by assumption) ?_ | refine Evolves.ofSnd (by assumption) ?_

theorem State.coreBus_evolves {s0 s : State} (h : Evolves s0 s) (q : Requester) (hart : Nat) (split : Bool) (k : AccKind) (addr size data : Nat) :
    Evolves s0 (State.coreBus s q hart split k addr size data) := by
  unfold State.coreBus
  with_reducible repeat' first
    | assumption | exact Evolves.refl _ | refine State.answer_evolves ?_ .. | refine State.answerErr_evolves ?_ ..
    | refine State.storeBytes_evolves ?_ .. | refine State.writeRegs_evolves ?_ .. | refine State.readRegs_evolves ?_ ..
    | dsimp only | split

theorem execCoreAccess_leads (pair : Nat) (second : Bool) (priv : Priv) (kind addr size data : Nat) (corrected : Bool) (s : State) : Leads s (execCoreAccess pair second priv kind addr size data corrected s) := by
  unfold execCoreAccess
  with_reducible repeat' first
    | refine Leads.next ?_ | assumption | exact Evolves.refl _ | refine State.answerErr_evolves ?_ ..
    | refine State.mpuFault_evolves ?_ .. | refine State.setPair_evolves ?_ .. | refine State.coreBus_evolves ?_ ..
    | ((conv => arg 2; arg 25); refine Evolves.upd ?_ (fun h => h) rfl rfl rfl rfl) | dsimp only | split
    | refine Evolves.ofFst (by assumption) ?_ | refine Evolves.ofSnd (by assumption) ?_

theorem execDebugAccess_leads (write : Bool) (addr : Nat) (v : Word) (s : State) : Leads s (execDebugAccess write addr v s) := by
  unfold execDebugAccess
  with_reducible repeat' first
    | refine Leads.next ?_ | assumption | exact Evolves.refl _ | refine State.debugRead_evolves ?_ ..
    | refine State.debugWrite_evolves ?_ .. | refine State.dmWrite_evolves ?_ .. | refine State.dmRead_evolves ?_ ..
    | ((conv => arg 2; arg 25); refine Evolves.upd ?_ (fun h => h) rfl rfl rfl rfl) | dsimp only | split
    | refine Evolves.ofFst (by assumption) ?_ | refine Evolves.ofSnd (by assumption) ?_

theorem execDmCommand_leads (write : Bool) (reg : Nat) (v : Word) (s : State) : Leads s (execDmCommand write reg v s) := by
  unfold execDmCommand
  with_reducible repeat' first
    | refine Leads.next ?_ | assumption | exact Evolves.refl _ | refine State.dmWrite_evolves ?_ ..
    | refine State.dmRead_evolves ?_ .. | dsimp only | split

end Sys2Proof.Machine
end

