-- ==== Sys2Proof/Laws/Evolve/RegisterAccess.lean ====
section
/-! SUPPORT. The operations of Machine/RegisterAccess.lean keep what the relation `Evolves` says. -/

namespace Sys2Proof.Machine

theorem State.readOf_evolves {s0 s : State} (h : Evolves s0 s) (q : Requester) (r : RegName) (i j : Nat) :
    Evolves s0 (State.readOf s q r i j) := by
  unfold State.readOf
  with_reducible repeat' first
    | assumption | exact Evolves.refl _ | refine State.readRegs_evolves ?_ .. | dsimp only

theorem execRegisterWrite_leads (q : Requester) (addr : Nat) (v : Word) (s : State) : Leads s (execRegisterWrite q addr v s) := by
  unfold execRegisterWrite
  with_reducible repeat' first
    | refine Leads.next ?_ | assumption | exact Evolves.refl _ | refine State.answerErr_evolves ?_ ..
    | refine State.writeRegs_evolves ?_ .. | dsimp only | split

theorem execWideReadLatch_leads (q : Requester) (addr : Nat) (s : State) : Leads s (execWideReadLatch q addr s) := by
  unfold execWideReadLatch
  with_reducible repeat' first
    | refine Leads.next ?_ | assumption | exact Evolves.refl _ | refine State.answerErr_evolves ?_ ..
    | refine State.readRegs_evolves ?_ .. | dsimp only | split

theorem execAngNowRead_leads (q : Requester) (s : State) : Leads s (execAngNowRead q s) := by
  unfold execAngNowRead
  with_reducible repeat' first
    | refine Leads.next ?_ | assumption | exact Evolves.refl _ | refine State.readOf_evolves ?_ .. | dsimp only

theorem execMapRead_leads (q : Requester) (s : State) : Leads s (execMapRead q s) := by
  unfold execMapRead
  with_reducible repeat' first
    | refine Leads.next ?_ | assumption | exact Evolves.refl _ | refine State.readOf_evolves ?_ .. | dsimp only

theorem execPtNowRead_leads (q : Requester) (s : State) : Leads s (execPtNowRead q s) := by
  unfold execPtNowRead
  with_reducible repeat' first
    | refine Leads.next ?_ | assumption | exact Evolves.refl _ | refine State.readOf_evolves ?_ .. | dsimp only

theorem execCalReadFreeze_leads (q : Requester) (which : Nat) (s : State) : Leads s (execCalReadFreeze q which s) := by
  unfold execCalReadFreeze
  with_reducible repeat' first
    | refine Leads.next ?_ | assumption | exact Evolves.refl _ | refine State.readOf_evolves ?_ .. | dsimp only

theorem execRegisterBadAccess_leads (q : Requester) (addr size : Nat) (s : State) : Leads s (execRegisterBadAccess q addr size s) := by
  unfold execRegisterBadAccess
  with_reducible repeat' first
    | refine Leads.next ?_ | assumption | exact Evolves.refl _ | refine State.answerErr_evolves ?_ .. | dsimp only | split

theorem execLockOpen_leads (q : Requester) (block key : Nat) (s : State) : Leads s (execLockOpen q block key s) := by
  unfold execLockOpen
  with_reducible repeat' first
    | refine Leads.next ?_ | assumption | exact Evolves.refl _ | refine State.writeRegs_evolves ?_ .. | dsimp only | split

theorem execLockClose_leads (q : Requester) (block key : Nat) (s : State) : Leads s (execLockClose q block key s) := by
  unfold execLockClose
  with_reducible repeat' first
    | refine Leads.next ?_ | assumption | exact Evolves.refl _ | refine State.writeRegs_evolves ?_ .. | dsimp only | split

theorem execLockTimeout_leads (block : Nat) (s : State) : Leads s (execLockTimeout block s) := by
  unfold execLockTimeout
  with_reducible repeat' first
    | refine Leads.next ?_ | assumption | exact Evolves.refl _ | refine State.setLock_evolves ?_ ..
    | ((conv => arg 2; arg 25); refine Evolves.upd ?_ (fun h => h) rfl rfl rfl rfl) | dsimp only | split

end Sys2Proof.Machine
end

