-- ==== Sys2Proof/Laws/Evolve/Boot.lean ====
section
/-! SUPPORT. The operations of Machine/Boot.lean keep what the relation `Evolves` says. -/

namespace Sys2Proof.Machine

theorem State.applySetting_evolves {s0 s : State} (h : Evolves s0 s) (e : Nat × Word) : Evolves s0 (State.applySetting s e) := by
  unfold State.applySetting
  with_reducible repeat' first
    | assumption | exact Evolves.refl _ | refine State.writeHeld_evolves ?_ .. | refine State.followFnom_evolves ?_ ..
    | refine State.strobeAdjust_evolves ?_ .. | refine State.writeAt_evolves ?_ ..
    | ((conv => arg 2; arg 25); refine Evolves.upd ?_ (fun h => h) rfl rfl rfl rfl) | dsimp only | split
    | refine Evolves.ofFst (by assumption) ?_ | refine Evolves.ofSnd (by assumption) ?_

theorem State.applySettings_evolves {s0 s : State} (h : Evolves s0 s) (l : List (Nat × Word)) :
    Evolves s0 (State.applySettings s l) := by
  unfold State.applySettings
  dsimp only
  refine State.closeLocks_evolves (Evolves.refenced (Steady.upd (t := List.foldl _ _ _) (Steady.after ?_
    (Evolves.foldl _ l (fun u x hu => State.applySetting_evolves hu x) (Evolves.refl _))) (fun h => h) rfl rfl rfl))
  with_reducible exact h.toSteady.upd (fun h => h) rfl rfl rfl

theorem State.rebuildJournal_evolves {s0 s : State} (h : Evolves s0 s) (l : List JEntry) (flushed : Bool) :
    Evolves s0 (State.rebuildJournal s l flushed) := by
  unfold State.rebuildJournal
  with_reducible repeat' first
    | assumption | exact Evolves.refl _ | refine State.guaranteeBroken_evolves ?_ .. | refine State.keepEpochs_evolves ?_ ..
    | refine State.newOrdered_evolves ?_ .. | refine State.newEpochs_evolves ?_ .. | refine State.rememberAll_evolves ?_ ..
    | ((conv => arg 2; arg 25); refine Evolves.upd ?_ (fun h => h) rfl rfl rfl rfl)
    | refine Evolves.foldl _ _ (fun u x hu => ?_) ?_ | dsimp only | split

theorem State.lostRecord_evolves {s0 s : State} (h : Evolves s0 s) (k : Nat) : Evolves s0 (State.lostRecord s k) := by
  unfold State.lostRecord
  with_reducible repeat' first
    | assumption | exact Evolves.refl _ | refine State.record_evolves ?_ ..
    | ((conv => arg 2; arg 25); refine Evolves.upd ?_ (fun h => h) rfl rfl rfl rfl)
    | refine Evolves.foldl _ _ (fun u x hu => ?_) ?_ | dsimp only | split | refine Evolves.ofFst (by assumption) ?_
    | refine Evolves.ofSnd (by assumption) ?_

theorem State.restoreCounters_evolves {s0 s : State} (h : Evolves s0 s) : Evolves s0 (State.restoreCounters s) := by
  unfold State.restoreCounters
  with_reducible repeat' first
    | assumption | exact Evolves.refl _ | ((conv => arg 2; arg 25); refine Evolves.upd ?_ (fun h => h) rfl rfl rfl rfl)
    | dsimp only | split

theorem State.powerUpTime_evolves {s0 s : State} (h : Evolves s0 s) : Evolves s0 (State.powerUpTime s) := by
  unfold State.powerUpTime
  with_reducible repeat' first
    | assumption | exact Evolves.refl _ | ((conv => arg 2; arg 25); refine Evolves.upd ?_ (fun h => h) rfl rfl rfl rfl)
    | dsimp only | split

theorem State.restoreSet_evolves {s0 s : State} (h : Evolves s0 s) (x : ProtSet) (dig : List Byte) :
    Evolves s0 (State.restoreSet s x dig) := by
  unfold State.restoreSet
  with_reducible repeat' first
    | assumption | exact Evolves.refl _ | ((conv => arg 2; arg 25); refine Evolves.upd ?_ (fun h => h) rfl rfl rfl rfl)
    | dsimp only

theorem State.applyStage3_evolves {s0 s : State} (h : Evolves s0 s) (cfg : Cfg) (prog : Option ProgImage) (set : Option ProtSet) (dig : List Byte) :
    Evolves s0 (State.applyStage3 s cfg prog set dig) := by
  unfold State.applyStage3
  with_reducible repeat' first
    | assumption | exact Evolves.refl _ | refine State.applySettings_evolves ?_ .. | refine State.restoreSet_evolves ?_ ..
    | ((conv => arg 2; arg 25); refine Evolves.upd ?_ (fun h => h) rfl rfl rfl rfl) | dsimp only | split
    | refine Evolves.ofFst (by assumption) ?_ | refine Evolves.ofSnd (by assumption) ?_

theorem State.cfgInvalid_evolves {s0 s : State} (h : Evolves s0 s) : Evolves s0 (State.cfgInvalid s) := by
  unfold State.cfgInvalid
  with_reducible repeat' first
    | assumption | exact Evolves.refl _ | refine State.enterQuarantine_evolves ?_ .. | dsimp only

theorem State.stage3_evolves {s0 s : State} (h : Evolves s0 s) (x : Stage3) (rebuilt : List JEntry) (flushed : Bool) (lost : List Nat) :
    Evolves s0 (State.stage3 s x rebuilt flushed lost) := by
  unfold State.stage3
  with_reducible repeat' first
    | assumption | exact Evolves.refl _ | refine State.enterService_evolves ?_ .. | refine State.startEst_evolves ?_ ..
    | refine State.rebuildJournal_evolves ?_ .. | refine State.lostRecord_evolves ?_ ..
    | refine State.restoreCounters_evolves ?_ .. | refine State.powerUpTime_evolves ?_ ..
    | refine State.applyStage3_evolves ?_ .. | refine State.cfgInvalid_evolves ?_ ..
    | ((conv => arg 2; arg 25); refine Evolves.upd ?_ (fun h => h) rfl rfl rfl rfl)
    | refine Evolves.foldl _ _ (fun u x hu => ?_) ?_ | dsimp only | split | refine Evolves.ofFst (by assumption) ?_
    | refine Evolves.ofSnd (by assumption) ?_

theorem State.stage2_evolves {s0 s : State} (h : Evolves s0 s) : Evolves s0 (State.stage2 s) := by
  unfold State.stage2
  with_reducible repeat' first
    | assumption | exact Evolves.refl _ | refine State.sendWb_evolves ?_ .. | refine State.enterService_evolves ?_ ..
    | ((conv => arg 2; arg 25); refine Evolves.upd ?_ (fun h => h) rfl rfl rfl rfl) | dsimp only | split

theorem State.stage1_evolves {s0 s : State} (h : Evolves s0 s) : Evolves s0 (State.stage1 s) := by
  unfold State.stage1
  with_reducible repeat' first
    | assumption | exact Evolves.refl _ | ((conv => arg 2; arg 25); refine Evolves.upd ?_ (fun h => h) rfl rfl rfl rfl)
    | dsimp only | split

theorem State.extendChain_evolves {s0 s : State} (h : Evolves s0 s) (stage : Nat) (dig : List Byte) :
    Evolves s0 (State.extendChain s stage dig) := by
  unfold State.extendChain
  with_reducible repeat' first
    | assumption | exact Evolves.refl _ | ((conv => arg 2; arg 25); refine Evolves.upd ?_ (fun h => h) rfl rfl rfl rfl)
    | dsimp only

theorem execBootStageVerified_leads (stage : Nat) (dig : List Byte) (s3 : Stage3) (rebuilt : List JEntry) (flushed : Bool) (lost : List Nat) (s : State) : Leads s (execBootStageVerified stage dig s3 rebuilt flushed lost s) := by
  unfold execBootStageVerified
  with_reducible repeat' first
    | refine Leads.next ?_ | assumption | exact Evolves.refl _ | refine State.enterService_evolves ?_ ..
    | refine State.stage3_evolves ?_ .. | refine State.stage2_evolves ?_ .. | refine State.stage1_evolves ?_ ..
    | refine State.extendChain_evolves ?_ .. | ((conv => arg 2; arg 25); refine Evolves.upd ?_ (fun h => h) rfl rfl rfl rfl)
    | dsimp only | split | refine Evolves.ofFst (by assumption) ?_ | refine Evolves.ofSnd (by assumption) ?_

end Sys2Proof.Machine
end

