-- ==== Sys2Proof/Laws/Evolve/Resync.lean ====
section
/-! SUPPORT. The operations of Machine/Resync.lean keep what the relation `Evolves` says. -/

namespace Sys2Proof.Machine

theorem State.takeAdmission_evolves {s0 s : State} (h : Evolves s0 s) (ok : Bool) : Evolves s0 (State.takeAdmission s ok) := by
  unfold State.takeAdmission
  with_reducible repeat' first
    | assumption | exact Evolves.refl _ | refine State.enterQuarantine_evolves ?_ .. | refine State.judgeHello_evolves ?_ ..
    | ((conv => arg 2; arg 25); refine Evolves.upd ?_ (fun h => h) rfl rfl rfl rfl) | dsimp only | split
    | refine Evolves.ofFst (by assumption) ?_ | refine Evolves.ofSnd (by assumption) ?_

theorem State.takeConfig_evolves {s0 s : State} (h : Evolves s0 s) (cfg : Cfg) (prog : Option ProgImage) (set : Option ProtSet) (dig owner : List Byte) (sigOk : Bool) :
    Evolves s0 (State.takeConfig s cfg prog set dig owner sigOk) := by
  unfold State.takeConfig
  with_reducible repeat' first
    | assumption | exact Evolves.refl _ | refine State.startEst_evolves ?_ .. | refine State.applyStage3_evolves ?_ ..
    | ((conv => arg 2; arg 25); refine Evolves.upd ?_ (fun h => h) rfl rfl rfl rfl) | dsimp only | split

theorem State.takePt_evolves {s0 s : State} (h : Evolves s0 s) (pt : PlantTime) : Evolves s0 (State.takePt s pt) := by
  unfold State.takePt
  with_reducible repeat' first
    | assumption | exact Evolves.refl _ | refine State.setPt_evolves ?_ .. | refine State.fireAll_evolves ?_ ..
    | ((conv => arg 2; arg 25); refine Evolves.upd ?_ (fun h => h) rfl rfl rfl rfl) | dsimp only | split

theorem State.takeTime_evolves {s0 s : State} (h : Evolves s0 s) (pt : PlantTime) (ok : Bool) (count off : Nat) (pairOff : Int) :
    Evolves s0 (State.takeTime s pt ok count off pairOff) := by
  unfold State.takeTime
  with_reducible repeat' first
    | assumption | exact Evolves.refl _ | refine State.setReg_evolves ?_ .. | refine State.setCount_evolves ?_ ..
    | refine State.takePt_evolves ?_ .. | ((conv => arg 2; arg 25); refine Evolves.upd ?_ (fun h => h) rfl rfl rfl rfl)
    | dsimp only | split

theorem State.takeJournal_evolves {s0 s : State} (h : Evolves s0 s) (l : List JEntry) : Evolves s0 (State.takeJournal s l) := by
  unfold State.takeJournal
  with_reducible repeat' first
    | assumption | exact Evolves.refl _ | refine State.rememberAll_evolves ?_ ..
    | ((conv => arg 2; arg 25); refine Evolves.upd ?_ (fun h => h) rfl rfl rfl rfl) | dsimp only | split

theorem State.takeStep_evolves {s0 s : State} (h : Evolves s0 s) (m : ResyncMsg) : Evolves s0 (State.takeStep s m) := by
  unfold State.takeStep
  with_reducible repeat' first
    | assumption | exact Evolves.refl _ | refine State.record_evolves ?_ .. | refine State.sendWb_evolves ?_ ..
    | refine State.seeGen_evolves ?_ .. | refine State.setMode_evolves ?_ .. | refine State.safeIfLost_evolves ?_ ..
    | refine State.keepEpochs_evolves ?_ .. | refine State.stopServing_evolves ?_ .. | refine State.takeAdmission_evolves ?_ ..
    | refine State.takeConfig_evolves ?_ .. | refine State.takeTime_evolves ?_ .. | refine State.takeJournal_evolves ?_ ..
    | ((conv => arg 2; arg 25); refine Evolves.upd ?_ (fun h => h) rfl rfl rfl rfl) | dsimp only | split
    | refine Evolves.ofFst (by assumption) ?_ | refine Evolves.ofSnd (by assumption) ?_

theorem execResyncRx_leads (crcOk : Bool) (gen : Nat) (m : ResyncMsg) (s : State) : Leads s (execResyncRx crcOk gen m s) := by
  unfold execResyncRx
  with_reducible repeat' first
    | refine State.fromPartner_leads _ _ fun u => ?_ | refine Leads.next ?_ | assumption | exact Evolves.refl _
    | refine State.takeStep_evolves ?_ .. | ((conv => arg 2; arg 25); refine Evolves.upd ?_ (fun h => h) rfl rfl rfl rfl)
    | dsimp only | split | refine Evolves.ofFst (by assumption) ?_ | refine Evolves.ofSnd (by assumption) ?_

end Sys2Proof.Machine
end

