-- ==== Sys2Proof/Laws/Protection.lean ====
section
/-! SUPPORT. What the steps of the protection plane and its commands do, said once. -/

namespace Sys2Proof.Machine

theorem Plane.of {s t u : State} {rs : List (RecName × List Nat)} {es : List Nat} {o : List Out} (h : Says u rs es t)
    (e : u = { s with prot := u.prot, dio := u.dio, out := s.out ++ o }) : Plane s rs es t := by
  refine ⟨o, ?_⟩
  rw [h.toReports.prot, h.toReports.dio, ← e]
  exact h

theorem Plane.refl (s : State) : Plane s [] [] s := ⟨[], by rw [List.append_nil]; exact Says.refl s⟩

theorem Plane.record {s t : State} {rs : List (RecName × List Nat)} {es : List Nat} (h : Plane s rs es t) (n : RecName) (args : List Nat) :
    Plane s (rs ++ [(n, args)]) es (t.record n args) := by
  obtain ⟨o, h⟩ := h
  exact Plane.of (h.record n args) rfl

theorem Plane.raise {s t : State} {rs : List (RecName × List Nat)} {es : List Nat} (h : Plane s rs es t) (k : Nat) (hk : k < 128) :
    Plane s rs (es ++ [k]) (t.raise k) := by
  obtain ⟨o, h⟩ := h
  exact Plane.of (h.raise k hk) rfl

theorem Plane.emit {s t : State} {rs : List (RecName × List Nat)} {es : List Nat} (h : Plane s rs es t) (x : Out) :
    Plane s rs es (t.emit x) := by
  obtain ⟨o, h⟩ := h
  exact Plane.of (o := o ++ [x]) (h.emit x) (by unfold State.emit; simp [List.append_assoc])

/-- A change of the plane and of outputs. -/
theorem Plane.set {s t : State} {rs : List (RecName × List Nat)} {es : List Nat} (h : Plane s rs es t) (p : ProtSt) (d : DioSt) :
    Plane s rs es { t with prot := p, dio := d } := by
  obtain ⟨o, h⟩ := h
  exact Plane.of (h.upd (fun u => { u with prot := p, dio := d }) (fun _ _ _ _ _ => rfl) rfl rfl) rfl

theorem Plane.sendWb {s t : State} {rs : List (RecName × List Nat)} {es : List Nat} (h : Plane s rs es t) (m : WbMsg) :
    Plane s rs es (t.sendWb m) := by
  unfold State.sendWb; split
  · exact h.emit _
  · exact h

theorem Plane.sendIf {s t : State} {rs : List (RecName × List Nat)} {es : List Nat} (h : Plane s rs es t) (b : Bool) (m : WbMsg) :
    Plane s rs es (if b = true then t.sendWb m else t) := by
  split
  · exact h.sendWb m
  · exact h

theorem Plane.trans {s t u : State} {rs rs' : List (RecName × List Nat)} {es es' : List Nat} (h : Plane s rs es t) (k : Plane t rs' es' u) :
    Plane s (rs ++ rs') (es ++ es') u := by
  obtain ⟨o, h⟩ := h
  obtain ⟨o', k⟩ := k
  have hm : ∀ (l : List Out) {a b : State}, Says a rs es b → Says { a with out := a.out ++ l } rs es { b with out := b.out ++ l } := by
    intro l
    induction l with
    | nil => intro a b h; simpa using h
    | cons x l ih =>
      intro a b h
      have := ih (h.emit x)
      unfold State.emit at this
      simpa [List.append_assoc] using this
  have h2 := hm o' (h.upd (fun v => { v with prot := u.prot, dio := u.dio }) (fun _ _ _ _ _ => rfl) rfl rfl)
  exact Plane.of (o := o ++ o') (h2.trans k) (by simp [List.append_assoc])

/-- What the rest of the block sees of the plane, unchanged. -/
theorem Plane.eq_rest {s t : State} {rs : List (RecName × List Nat)} {es : List Nat} (h : Plane s rs es t) :
    t = { s with sys := { s.sys with faultFlash := t.sys.faultFlash, faultAt := t.sys.faultAt }, evt := t.evt, log := t.log, mem := t.mem, out := t.out, prot := t.prot, dio := t.dio } := by
  obtain ⟨o, h⟩ := h
  exact h.toReports.frame

theorem trip_setGroup (s : State) (g k : Nat) (f : TripGroup → TripGroup) :
    (s.setGroup g f).trip k = if k = g ∧ g < s.prot.groups.length then f (s.trip g) else s.trip k := by
  exact updAt_getD _ _ _ _ _

theorem doCh_setDoSt (s : State) (n k : Nat) (f : DoSt → DoSt) : (s.setDoSt n f).doCh k = if k = n ∧ n < s.dio.dos.length then f (s.doCh n) else s.doCh k :=
  updAt_getD _ _ _ _ _

theorem mem_tripping {s : State} {mask g : Nat} : g ∈ s.tripping mask ↔ g < 4 ∧ bitOf mask g = true ∧ (s.trip g).en = true ∧ (s.trip g).tripped = false := by
  unfold State.tripping State.enabledOf
  simp only [List.mem_filter, List.mem_range, Bool.and_eq_true, Bool.not_eq_true']
  exact ⟨fun h => ⟨h.1.1, h.1.2.1, h.1.2.2, h.2⟩, fun h => ⟨⟨h.1, h.2.1, h.2.2.1⟩, h.2.2.2⟩⟩

theorem trip_range {s : State} {g : Nat} (h : (s.trip g).en = true) : g < s.prot.groups.length := by
  unfold State.trip at h
  rcases Nat.lt_or_ge g s.prot.groups.length with k | k
  · exact k
  · rw [List.getD_eq_getElem?_getD, List.getElem?_eq_none k] at h
    cases h

theorem tripOne_facts (s : State) (g cause ring pos : Nat) (h : g < s.prot.groups.length) :
    Plane s [] [] (s.tripOne g cause ring pos) ∧
    (((s.tripOne g cause ring pos).trip g).tripped = true ∧ ((s.tripOne g cause ring pos).trip g).firstCause = cause ∧
      ((s.tripOne g cause ring pos).trip g).firstRing = ring ∧ ((s.tripOne g cause ring pos).trip g).firstPos = pos ∧
      ((s.tripOne g cause ring pos).trip g).en = (s.trip g).en) ∧
    (∀ k, k ≠ g → (s.tripOne g cause ring pos).trip k = s.trip k) ∧
    (∀ n, n ≠ 12 + g → (s.tripOne g cause ring pos).doCh n = s.doCh n) ∧
    (s.tripOne g cause ring pos).prot.groups.length = s.prot.groups.length ∧
    (s.tripOne g cause ring pos).prot = { s.prot with groups := (s.tripOne g cause ring pos).prot.groups } := by
  unfold State.tripOne
  dsimp only
  generalize (match s.prot.set with | some x => _ | none => _ : Bool) = named
  have hs : ∀ f : TripGroup → TripGroup, Plane s [] [] (s.setGroup g f) := fun f => (Plane.refl s).set _ _
  have hl : ∀ f : TripGroup → TripGroup, (s.setGroup g f).prot.groups.length = s.prot.groups.length := fun f => updAt_length _ _ _
  split
  · refine ⟨((Plane.refl s).set _ _).set _ _, ?_, fun k hk => ?_, fun n hn => ?_, hl _, rfl⟩
    · rw [show ∀ (u : State) (n : Nat) (f : DoSt → DoSt), (u.setDoSt n f).trip g = u.trip g from fun _ _ _ => rfl, trip_setGroup, if_pos ⟨rfl, h⟩]
      exact ⟨rfl, rfl, rfl, rfl, rfl⟩
    · rw [show ∀ (u : State) (n : Nat) (f : DoSt → DoSt), (u.setDoSt n f).trip k = u.trip k from fun _ _ _ => rfl, trip_setGroup, if_neg (fun z => hk z.1)]
    · rw [doCh_setDoSt, if_neg (fun z => hn z.1)]; rfl
  · refine ⟨hs _, ?_, fun k hk => ?_, fun n hn => rfl, hl _, rfl⟩
    · rw [trip_setGroup, if_pos ⟨rfl, h⟩]
      exact ⟨rfl, rfl, rfl, rfl, rfl⟩
    · rw [trip_setGroup, if_neg (fun z => hk z.1)]

theorem tripAll_facts (cause ring pos : Nat) (l : List Nat) : ∀ (s : State), l.Nodup → (∀ g ∈ l, g < s.prot.groups.length) →
    let t := l.foldl (fun s g => State.tripOne s g cause ring pos) s
    Plane s [] [] t ∧
    (∀ g ∈ l, (t.trip g).tripped = true ∧ (t.trip g).firstCause = cause ∧ (t.trip g).firstRing = ring ∧ (t.trip g).firstPos = pos ∧ (t.trip g).en = (s.trip g).en) ∧
    (∀ k, k ∉ l → t.trip k = s.trip k) ∧ (∀ n, (∀ g ∈ l, n ≠ 12 + g) → t.doCh n = s.doCh n) ∧
    t.prot = { s.prot with groups := t.prot.groups } := by
  induction l with
  | nil => exact fun s _ _ => ⟨Plane.refl s, by simp, fun _ _ => rfl, fun _ _ => rfl, rfl⟩
  | cons g l ih =>
    intro s hd hl
    obtain ⟨hg, hd⟩ := List.nodup_cons.mp hd
    obtain ⟨a, b, c, d, e, f⟩ := tripOne_facts s g cause ring pos (hl g List.mem_cons_self)
    obtain ⟨a', b', c', d', f'⟩ := ih (s.tripOne g cause ring pos) hd fun k hk => by rw [e]; exact hl k (List.mem_cons_of_mem _ hk)
    rw [List.foldl_cons]
    refine ⟨a.trans a', fun k hk => ?_, fun k hk => ?_, fun n hn => ?_, ?_⟩
    · rcases List.mem_cons.mp hk with rfl | hk
      · rw [c' k hg]; exact b
      · have := c k fun z => hg (z ▸ hk)
        rw [← this]; exact b' k hk
    · rw [c' k fun z => hk (List.mem_cons_of_mem _ z), c k fun z => hk (z ▸ List.mem_cons_self)]
    · rw [d' n fun k hk => hn k (List.mem_cons_of_mem _ hk), d n (hn g List.mem_cons_self)]
    · rw [f', f]

theorem records_plane (f : Nat → RecName × List Nat) (l : List Nat) : ∀ s : State,
    Says s (l.map f) [] (l.foldl (fun s g => State.record s (f g).1 (f g).2) s) := by
  induction l with
  | nil => exact Says.refl
  | cons g l ih => intro s; exact ((Says.refl s).record _ _).trans (ih _)

theorem doOn_held {s : State} {g : Nat} (h : (s.trip g).tripped = true) : s.doOn (12 + g) = false := by
  unfold State.doOn State.heldTrip
  have : (s.prot.groups.getD (12 + g - 12) {}).tripped = true := by rw [Nat.add_sub_cancel_left]; exact h
  simp only [this, Bool.true_or, Bool.and_true, Nat.le_add_right, decide_true, Bool.not_true, Bool.and_false, Bool.false_and]

/-- A plane step that also records a trip without PD5. -/
theorem noteUnsent_plane {s t : State} {rs : List (RecName × List Nat)} {es : List Nat} (h : Plane s rs es t) (bits cause : Nat) :
    Plane s (rs ++ if t.powered 5 = true then [] else [(.tripNetUnsent, [bits, cause])]) es (t.noteUnsent bits cause) ∧
    (t.noteUnsent bits cause).prot = t.prot ∧ (t.noteUnsent bits cause).dio = t.dio := by
  unfold State.noteUnsent
  split
  · exact ⟨by rw [List.append_nil]; exact h, rfl, rfl⟩
  · exact ⟨h.record _ _, by simp only [State.record_frame], by simp only [State.record_frame]⟩

theorem Plane.powered {s t : State} {rs : List (RecName × List Nat)} {es : List Nat} (h : Plane s rs es t) (k : Nat) : t.powered k = s.powered k := by
  rw [h.eq_rest]; rfl

theorem tripGroups_facts (s : State) (mask cause ring pos ch epoch : Nat) (own : Bool) (args : List Nat) :
    let t := s.tripGroups mask cause ring pos ch epoch own args
    Plane s (s.tripRecords mask cause ring pos ch epoch own args) (if s.tripless mask own then [] else [72]) t ∧
    (∀ g ∈ s.tripping mask, (t.trip g).tripped = true ∧ (t.trip g).firstCause = cause ∧ (t.trip g).firstRing = ring ∧ (t.trip g).firstPos = pos ∧ (t.trip g).en = (s.trip g).en) ∧
    (∀ g, g ∉ s.tripping mask → t.trip g = s.trip g) ∧
    (∀ n, (∀ g ∈ s.tripping mask, n ≠ 12 + g) → t.doCh n = s.doCh n) ∧
    (t.prot = { s.prot with
      groups := t.prot.groups, lastCause := t.prot.lastCause, lastRing := t.prot.lastRing, lastPos := t.prot.lastPos, lastCh := t.prot.lastCh, lastSev := t.prot.lastSev, trips := t.prot.trips, lastTrip := t.prot.lastTrip }) ∧
    (s.tripping mask ≠ [] → t.prot.lastTrip = (ring, pos, cause, ch)) ∧
    (¬ s.tripless mask own → t.prot.lastCause = cause ∧ t.prot.lastRing = ring ∧ t.prot.lastPos = pos ∧ t.prot.lastCh = ch ∧ t.prot.lastSev = 3) := by
  unfold State.tripGroups
  dsimp only
  have h0 := records_plane (fun g => (RecName.protTripAdd, [g, cause, ring, pos, ch, epoch] ++ args)) (s.standing mask) s
  have e1 : List.filter (fun g => (s.trip g).tripped) (s.enabledOf mask) = s.standing mask := rfl
  have e2 : List.filter (fun g => !(s.trip g).tripped) (s.enabledOf mask) = s.tripping mask := rfl
  rw [e1, e2]
  have hn : (s.tripping mask).Nodup := ((List.nodup_range (n := 4)).filter _).filter _
  have hr : ∀ g ∈ s.tripping mask, g < s.prot.groups.length := fun g h => trip_range (mem_tripping.mp h).2.2.1
  have hp := h0.toReports.prot
  have hd := h0.toReports.dio
  have h0' : Plane s _ _ _ := Plane.of (o := []) h0 (by rw [List.append_nil])
  generalize List.foldl (fun s g => State.record s RecName.protTripAdd ([g, cause, ring, pos, ch, epoch] ++ args)) s (s.standing mask) = u at h0' hp hd ⊢
  have htr : ∀ k, u.trip k = s.trip k := fun k => by unfold State.trip; rw [hp]
  have hdo : ∀ k, u.doCh k = s.doCh k := fun k => by unfold State.doCh; rw [hd]
  have hsub : s.enabledOf mask = [] → s.tripping mask = [] := fun h => by unfold State.tripping; rw [h]; rfl
  unfold State.tripRecords
  dsimp only
  by_cases hno : s.tripless mask own
  · rw [if_pos (show s.enabledOf mask = [] ∧ own = false from hno), if_pos hno]
    have hnil := hsub hno.1
    rw [hnil]
    refine ⟨?_, by simp, fun g _ => htr g, fun n _ => hdo n, ?_, fun h => absurd rfl h, fun h => absurd hno h⟩
    · rw [if_pos (.inl hno), if_pos (.inl rfl), List.append_nil, List.append_nil]; exact h0'
    · rw [hp]
  · rename' hno => hyes
    rw [if_neg (show ¬ (s.enabledOf mask = [] ∧ own = false) from hyes), if_neg hyes]
    generalize hb : (s.tripping mask).foldl (fun n g => n + 2 ^ g) 0 = bits
    have hif : (if s.tripless mask own ∨ (s.tripping mask = [] ∧ s.enabledOf mask ≠ []) then [] else
        [((RecName.protTrip, [bits, cause, ring, pos, ch, epoch] ++ args) : RecName × List Nat)]) =
        if s.tripping mask = [] ∧ s.enabledOf mask ≠ [] then [] else [(RecName.protTrip, [bits, cause, ring, pos, ch, epoch] ++ args)] := by
      by_cases hc : s.tripping mask = [] ∧ s.enabledOf mask ≠ []
      · rw [if_pos (.inr hc), if_pos hc]
      · rw [if_neg (fun z => z.elim hyes hc), if_neg hc]
    rw [hif]
    have h1 : Plane s ((s.standing mask).map (fun g => (RecName.protTripAdd, [g, cause, ring, pos, ch, epoch] ++ args)) ++
        if s.tripping mask = [] ∧ s.enabledOf mask ≠ [] then [] else [(RecName.protTrip, [bits, cause, ring, pos, ch, epoch] ++ args)]) []
        (if s.tripping mask = [] ∧ s.enabledOf mask ≠ [] then u else u.record .protTrip ([bits, cause, ring, pos, ch, epoch] ++ args)) := by
      split
      · rw [List.append_nil]; exact h0'
      · exact h0'.record _ _
    have hp1 : (if s.tripping mask = [] ∧ s.enabledOf mask ≠ [] then u else u.record .protTrip ([bits, cause, ring, pos, ch, epoch] ++ args)).prot = s.prot := by
      split
      · exact hp
      · simp only [State.record_frame]; exact hp
    have hd1 : (if s.tripping mask = [] ∧ s.enabledOf mask ≠ [] then u else u.record .protTrip ([bits, cause, ring, pos, ch, epoch] ++ args)).dio = s.dio := by
      split
      · exact hd
      · simp only [State.record_frame]; exact hd
    generalize (if s.tripping mask = [] ∧ s.enabledOf mask ≠ [] then u else u.record .protTrip ([bits, cause, ring, pos, ch, epoch] ++ args)) = v at h1 hp1 hd1 ⊢
    have h2 := (h1.raise 72 (by decide)).set ((v.raise 72).lastEvent cause ring pos ch 3).prot (v.raise 72).dio
    have hpv : ((v.raise 72).lastEvent cause ring pos ch 3).prot = { s.prot with lastCause := cause, lastRing := ring, lastPos := pos, lastCh := ch, lastSev := 3 } := by
      show ({ (v.raise 72).prot with lastCause := _, lastRing := _, lastPos := _, lastCh := _, lastSev := _ } : ProtSt) = _
      simp only [State.raise_frame]
      rw [hp1]
    have hdv : ((v.raise 72).lastEvent cause ring pos ch 3).dio = s.dio := by
      show (v.raise 72).dio = _
      simp only [State.raise_frame]
      exact hd1
    have h2 : Plane s _ _ ((v.raise 72).lastEvent cause ring pos ch 3) := h2
    generalize (v.raise 72).lastEvent cause ring pos ch 3 = x at h2 hpv hdv ⊢
    have htx : ∀ k, x.trip k = s.trip k := fun k => by unfold State.trip; rw [hpv]
    have hdx : ∀ k, x.doCh k = s.doCh k := fun k => by unfold State.doCh; rw [hdv]
    by_cases hnil : s.tripping mask = []
    · rw [if_pos hnil]
      rw [hnil] at h2 ⊢
      refine ⟨?_, by simp, fun g _ => htx g, fun n _ => hdx n, ?_, fun h => absurd rfl h, fun _ => ?_⟩
      · rw [if_pos (show ([] : List Nat) = [] ∨ s.powered 5 = true from .inl rfl), List.append_nil]; simpa using h2
      · rw [hpv]
      · rw [hpv]; exact ⟨rfl, rfl, rfl, rfl, rfl⟩
    · rename' hnil => hne
      rw [if_neg hne]
      obtain ⟨h3, hp3, hd3⟩ := noteUnsent_plane h2 bits cause
      rw [h2.powered 5] at h3
      have hun : (if s.tripping mask = [] ∨ s.powered 5 = true then [] else [((RecName.tripNetUnsent, [bits, cause]) : RecName × List Nat)]) =
          if s.powered 5 = true then [] else [(.tripNetUnsent, [bits, cause])] := by
        by_cases hc : s.powered 5 = true
        · rw [if_pos (.inr hc), if_pos hc]
        · rw [if_neg (fun z => z.elim hne hc), if_neg hc]
      rw [hun]
      rw [hpv] at hp3
      rw [hdv] at hd3
      generalize x.noteUnsent bits cause = y at h3 hp3 hd3 ⊢
      obtain ⟨a, b, c, d, e⟩ := tripAll_facts cause ring pos (s.tripping mask) y hn (by
        intro g h; rw [hp3]; exact hr g h)
      have hty : ∀ k, y.trip k = s.trip k := fun k => by unfold State.trip; rw [hp3]
      have hdy : ∀ k, y.doCh k = s.doCh k := fun k => by unfold State.doCh; rw [hd3]
      rw [hp3] at e
      have h4 := h3.trans a
      generalize List.foldl _ y (s.tripping mask) = w at b c d e h4 ⊢
      have h5 := h4.set { w.prot with trips := satAt 65535 (w.prot.trips + 1), lastTrip := (ring, pos, cause, ch) } w.dio
      have h6 : ∀ x : WbMsg, (if own = true then State.sendWb { w with prot := { w.prot with trips := satAt 65535 (w.prot.trips + 1), lastTrip := (ring, pos, cause, ch) } } x
          else { w with prot := { w.prot with trips := satAt 65535 (w.prot.trips + 1), lastTrip := (ring, pos, cause, ch) } }).prot = { w.prot with trips := satAt 65535 (w.prot.trips + 1), lastTrip := (ring, pos, cause, ch) } ∧
          (if own = true then State.sendWb { w with prot := { w.prot with trips := satAt 65535 (w.prot.trips + 1), lastTrip := (ring, pos, cause, ch) } } x
          else { w with prot := { w.prot with trips := satAt 65535 (w.prot.trips + 1), lastTrip := (ring, pos, cause, ch) } }).dio = w.dio := by
        intro x; split
        · simp only [State.sendWb_frame, and_self]
        · exact ⟨rfl, rfl⟩
      generalize hm : WbMsg.protNotice bits cause ring pos ch epoch = m
      have h7 := Plane.sendIf h5 own m
      have h6 := h6 m
      generalize (if own = true then State.sendWb { w with prot := { w.prot with trips := satAt 65535 (w.prot.trips + 1), lastTrip := (ring, pos, cause, ch) } } m else { w with prot := { w.prot with trips := satAt 65535 (w.prot.trips + 1), lastTrip := (ring, pos, cause, ch) } }) = t at h7 h6 ⊢
      have htr2 : ∀ k, t.trip k = w.trip k := fun k => by unfold State.trip; rw [h6.1]
      have hdo2 : ∀ k, t.doCh k = w.doCh k := fun k => by unfold State.doCh; rw [h6.2]
      refine ⟨?_, fun g h => ?_, fun g h => ?_, fun n h => ?_, ?_, fun _ => ?_, fun _ => ?_⟩
      · simpa using h7
      · rw [htr2, ← hty]; exact b g h
      · rw [htr2, c g h, hty]
      · rw [hdo2, d n h, hdy]
      · rw [h6.1, e]
      · rw [h6.1]
      · rw [h6.1, e]; exact ⟨rfl, rfl, rfl, rfl, rfl⟩

theorem emits_plane {α : Type} (f : State → α → Out) (l : List α) : ∀ s : State, Plane s [] [] (l.foldl (fun s x => s.emit (f s x)) s) ∧
    (l.foldl (fun s x => State.emit s (f s x)) s).prot = s.prot ∧ (l.foldl (fun s x => State.emit s (f s x)) s).dio = s.dio := by
  induction l with
  | nil => exact fun s => ⟨Plane.refl s, rfl, rfl⟩
  | cons x l ih =>
    intro s
    obtain ⟨a, b, c⟩ := ih (s.emit (f s x))
    exact ⟨((Plane.refl s).emit _).trans a, b, c⟩

theorem protFrame_plane (s : State) (k : Nat) : Plane s [] [] (s.protFrame k) ∧
    (s.protFrame k).prot = { s.prot with roll := (s.protFrame k).prot.roll } ∧ (s.protFrame k).dio = s.dio := by
  unfold State.protFrame
  cases s.prot.set with
  | none => exact ⟨Plane.refl s, rfl, rfl⟩
  | some x =>
    dsimp only
    generalize (List.range 4).filter _ = l
    split
    · exact ⟨Plane.refl s, rfl, rfl⟩
    · obtain ⟨a, b, c⟩ := emits_plane (fun (s : State) p => Out.protCan p (s.protCanId x) x.fd (s.protData k)) l
        { s with prot := { s.prot with roll := (s.prot.roll + 1) % 256 } }
      refine ⟨((Plane.refl s).set _ _).trans a, ?_, c⟩
      rw [b]

theorem goose_plane (s : State) : Plane s [] [] s.goose ∧ s.goose.prot = s.prot ∧ s.goose.dio = s.dio := by
  unfold State.goose
  cases s.prot.set with
  | none => exact ⟨Plane.refl s, rfl, rfl⟩
  | some x =>
    dsimp only
    split
    · exact ⟨(Plane.refl s).emit _, rfl, rfl⟩
    · exact ⟨Plane.refl s, rfl, rfl⟩

theorem protChanged_plane (s : State) : Plane s [] [] s.protChanged ∧
    s.protChanged.prot = { s.prot with stNum := s.prot.stNum + 1, sqNum := 0, gooseMs := 1, roll := s.protChanged.prot.roll } ∧
    s.protChanged.dio = s.dio := by
  unfold State.protChanged
  dsimp only
  have h0 : Plane s [] [] { s with prot := { s.prot with stNum := s.prot.stNum + 1, sqNum := 0, gooseMs := 1 } } := (Plane.refl s).set _ _
  obtain ⟨a, b, c⟩ := protFrame_plane { s with prot := { s.prot with stNum := s.prot.stNum + 1, sqNum := 0, gooseMs := 1 } } 2
  obtain ⟨a', b', c'⟩ := goose_plane (State.protFrame { s with prot := { s.prot with stNum := s.prot.stNum + 1, sqNum := 0, gooseMs := 1 } } 2)
  refine ⟨(h0.trans a).trans a', ?_, by rw [c', c]⟩
  rw [b', b]

/-- A step of the plane that changes neither trips nor inhibits sends nothing of its own; any other starts a trip frame and GOOSE. -/
theorem protStep_facts {s u : State} {f : State → State} {rs : List (RecName × List Nat)} {es : List Nat} (h : Plane u rs es (f s)) :
    Plane u rs es (s.protStep f) ∧ (s.protStep f).dio = (f s).dio ∧
    (s.protStep f).prot = { (f s).prot with stNum := (s.protStep f).prot.stNum, sqNum := (s.protStep f).prot.sqNum, gooseMs := (s.protStep f).prot.gooseMs, roll := (s.protStep f).prot.roll } ∧
    ((f s).tripBits ≠ s.tripBits ∨ (f s).inhibit true ≠ s.inhibit true ∨ (f s).inhibit false ≠ s.inhibit false →
      (s.protStep f).prot.stNum = (f s).prot.stNum + 1 ∧ (s.protStep f).prot.sqNum = 0 ∧ (s.protStep f).prot.gooseMs = 1) := by
  unfold State.protStep
  dsimp only
  obtain ⟨a, b, c⟩ := protChanged_plane (f s)
  split
  · refine ⟨by simpa using h.trans a, c, by rw [b], fun _ => by rw [b]; exact ⟨rfl, rfl, rfl⟩⟩
  · rename_i hn
    exact ⟨h, rfl, rfl, fun z => absurd z hn⟩

theorem tripBits_bit (s : State) (g : Nat) (hg : g < 4) : bitOf s.tripBits g = (s.trip g).tripped := by
  have : s.tripBits = ofBool (s.trip 0).tripped * 1 + ofBool (s.trip 1).tripped * 2 + ofBool (s.trip 2).tripped * 4 + ofBool (s.trip 3).tripped * 8 := by
    unfold State.tripBits
    simp [List.range_succ]
  rw [this]
  have key : ∀ a b c d : Bool, bitOf (ofBool a * 1 + ofBool b * 2 + ofBool c * 4 + ofBool d * 8) 0 = a ∧
      bitOf (ofBool a * 1 + ofBool b * 2 + ofBool c * 4 + ofBool d * 8) 1 = b ∧
      bitOf (ofBool a * 1 + ofBool b * 2 + ofBool c * 4 + ofBool d * 8) 2 = c ∧
      bitOf (ofBool a * 1 + ofBool b * 2 + ofBool c * 4 + ofBool d * 8) 3 = d := by decide
  obtain ⟨k0, k1, k2, k3⟩ := key (s.trip 0).tripped (s.trip 1).tripped (s.trip 2).tripped (s.trip 3).tripped
  have : g = 0 ∨ g = 1 ∨ g = 2 ∨ g = 3 := by omega
  rcases this with rfl | rfl | rfl | rfl
  · exact k0
  · exact k1
  · exact k2
  · exact k3

/-- A step that trips groups of `u`, which differs from `s` in nothing that trips or the interlocks show, trips them. -/
theorem protStep_trips {s u : State} {f : State → State} (mask cause ring pos ch epoch : Nat) (own : Bool) (args : List Nat)
    (hf : f s = u.tripGroups mask cause ring pos ch epoch own args) (ht : u.tripBits = s.tripBits) :
    TripsTo u mask cause ring pos ch epoch own args (s.protStep f) := by
  obtain ⟨a, b, c, d, e, g, l⟩ := tripGroups_facts u mask cause ring pos ch epoch own args
  rw [← hf] at a b c d e g l
  obtain ⟨a', d', p', n'⟩ := protStep_facts a
  generalize f s = v at b c d e g l d' p' n'
  have htr : ∀ k, (s.protStep f).trip k = v.trip k := fun k => by unfold State.trip; rw [p']
  have hdo : ∀ k, (s.protStep f).doCh k = v.doCh k := fun k => by unfold State.doCh; rw [d']
  refine ⟨a', fun k hk => ?_, fun k hk => ?_, fun k => ?_, fun n hn => ?_, fun hne => ?_, fun hy => ?_⟩
  · obtain ⟨x1, x2, x3, x4, -⟩ := b k hk
    have := htr k
    refine ⟨by rw [this]; exact x1, by rw [this]; exact x2, by rw [this]; exact x3, by rw [this]; exact x4, doOn_held (by rw [this]; exact x1)⟩
  · rw [htr, c k hk]
  · rw [htr]
    by_cases hk : k ∈ u.tripping mask
    · exact (b k hk).2.2.2.2
    · rw [c k hk]
  · rw [hdo, d n hn]
  · have hb : v.tripBits ≠ s.tripBits := by
      obtain ⟨k, l, hk⟩ := List.exists_cons_of_ne_nil hne
      have hm : k ∈ u.tripping mask := by rw [hk]; exact List.mem_cons_self
      obtain ⟨m1, m2, m3, m4⟩ := mem_tripping.mp hm
      intro z
      have := tripBits_bit v k m1
      rw [z, ← ht, tripBits_bit u k m1, m4, (b k hm).1] at this
      cases this
    obtain ⟨y1, y2, y3⟩ := n' (.inl hb)
    exact ⟨by rw [y1, e], y2, y3, by rw [p']; exact g hne⟩
  · rw [p']; exact l hy

/-- The step that AUX_CONFIRM_TIMEOUT takes where the contactor was not seen to open. -/
def State.confirmStep (g : Nat) (s : State) : State :=
  let s := (s.setGroup g fun t => { t with confirmDue := false }).record .contactorFail [g]
  match s.prot.set with
  | some x =>
    match x.groups[g]? with
    | some e =>
      if e.backupEn then
        (s.setGroup g fun t => { t with backupFired := true }).tripGroups (2 ^ e.backupPdo) 12 e.confRing e.confPos e.confInput 0 true [g]
      else s
    | none => s
  | none => s

theorem numbered_get {α : Type} (l : List α) (k i : Nat) : (numbered k l)[i]? = (l[i]?).map fun a => (k + i, a) := by
  induction l generalizing k i with
  | nil => rfl
  | cons a l ih =>
    cases i with
    | zero => rfl
    | succ i => simp only [numbered, List.getElem?_cons_succ, ih]; rw [show k + 1 + i = k + (i + 1) by omega]

theorem Plane.holds {s t : State} {rs : List (RecName × List Nat)} {es : List Nat} (h : Plane s rs es t) : t.holds = s.holds := by
  rw [h.eq_rest]; rfl

theorem coveredNone {s : State} {w : WorkRef} {e o : Nat} {op : Op} (hh : s.holds = true) (h : s.ready w e o op)
    (hc : ∀ j, op.jsn = some j → j ≤ s.wb.covered) (f : Op → State → State) : s.coveredOp w e o f = f op s := by
  unfold State.coveredOp
  rw [cutOp_ready hh h]
  cases hj : op.jsn with
  | none => rfl
  | some j => dsimp only; rw [if_pos (hc j hj)]

/-- The plane under a newly committed set, before any ring has gone over. -/
def State.withSet (x : ProtSet) (jsn : Nat) (s : State) : State :=
  { s with prot := { s.prot with
      set := some x, setDigest := s.prot.stagedDigest, staged := none, stagedDigest := [], oldSet := s.prot.set, oldRings := List.range 4, commitJsn := jsn,
      groups := mapGroups (commitGroup x) s.prot.groups, auxCnt := [], auxOn := [] } }

/-- Rings go over only at an epoch that a manifest covering the commit named. -/
theorem switchRings_wait {s : State} (h : ∀ c ∈ s.est.epochCuts, c.2 < s.prot.commitJsn) : s.switchRings = s := by
  have h1 : ∀ p, s.switchRing p = s := by
    intro p
    unfold State.switchRing
    rw [List.find?_eq_none.2]
    intro x hx
    have := h x hx
    simp only [Bool.and_eq_true, decide_eq_true_eq, not_and]
    intro _
    omega
  have h2 : ∀ l : List Nat, l.foldl State.switchRing s = s := by
    intro l
    induction l with
    | nil => rfl
    | cons a l ih => rw [List.foldl_cons, h1, ih]
  unfold State.switchRings
  dsimp only
  rw [h2, if_neg]
  exact fun z => z.2 z.1

theorem commitSet_facts (s : State) (x : ProtSet) (j q : Nat) (hj : ∀ c ∈ s.est.epochCuts, c.2 < j) :
    let u := ((s.protStep (State.withSet x j)).record
      .protCommitted [(s.prot.set.map (·.setSeq)).getD 0, x.setSeq, q]).raise 75
    Plane s [(.protCommitted, [(s.prot.set.map (·.setSeq)).getD 0, x.setSeq, q])] [75] u ∧
    (s.holds = true → s.commitSet x j q = (List.range 4).foldl (fun s p => s.queueBlock1 p) u) ∧
    u.prot.set = some x ∧ u.prot.setDigest = s.prot.stagedDigest ∧ u.prot.staged = none ∧ u.prot.oldSet = s.prot.set ∧
    u.prot.oldRings = List.range 4 ∧ u.prot.commitJsn = j ∧ u.prot.strings = s.prot.strings ∧ u.dio = s.dio ∧
    (∀ g, g < s.prot.groups.length → u.trip g = if (s.trip g).tripped = true ∧ (s.trip g).firstCause = 11 then
      { s.trip g with en := (x.groups[g]?).any (·.en), tripped := false, rearmWait := true, firstCause := 0 }
      else { s.trip g with en := (x.groups[g]?).any (·.en) }) := by
  dsimp only
  have h1 : Plane s [] [] (State.withSet x j s) :=
    (Plane.refl s).set _ _
  obtain ⟨a, d, p, -⟩ := protStep_facts h1
  have hc : s.commitSet x j q = (if ((((s.protStep (State.withSet x j)).record
      .protCommitted [(s.prot.set.map (·.setSeq)).getD 0, x.setSeq, q]).raise 75).switchRings).holds = true then (List.range 4).foldl (fun s p => s.queueBlock1 p) (((s.protStep (State.withSet x j)).record
      .protCommitted [(s.prot.set.map (·.setSeq)).getD 0, x.setSeq, q]).raise 75).switchRings else (((s.protStep (State.withSet x j)).record
      .protCommitted [(s.prot.set.map (·.setSeq)).getD 0, x.setSeq, q]).raise 75).switchRings) := rfl
  have h2 := (a.record .protCommitted [(s.prot.set.map (·.setSeq)).getD 0, x.setSeq, q]).raise 75 (by decide)
  generalize hv : s.protStep (State.withSet x j) = v at a d p hc h2 ⊢
  have hp : (State.raise (v.record .protCommitted [(s.prot.set.map (·.setSeq)).getD 0, x.setSeq, q]) 75).prot = v.prot := by
    simp only [State.raise_frame, State.record_frame]
  have hd : (State.raise (v.record .protCommitted [(s.prot.set.map (·.setSeq)).getD 0, x.setSeq, q]) 75).dio = v.dio := by
    simp only [State.raise_frame, State.record_frame]
  have he : (State.raise (v.record .protCommitted [(s.prot.set.map (·.setSeq)).getD 0, x.setSeq, q]) 75).est = s.est := by
    rw [h2.eq_rest]
  rw [switchRings_wait (by rw [he, hp, p]; exact hj)] at hc
  refine ⟨by simpa using h2, fun hh => ?_, ?_, ?_, ?_, ?_, ?_, ?_, ?_, hd.trans d, fun g hg => ?_⟩
  · rw [hc, if_pos (by rw [h2.holds]; exact hh)]
  · rw [hp, p]; rfl
  · rw [hp, p]; rfl
  · rw [hp, p]; rfl
  · rw [hp, p]; rfl
  · rw [hp, p]; rfl
  · rw [hp, p]; rfl
  · rw [hp, p]; rfl
  · unfold State.trip
    rw [hp, p]
    show (mapGroups (commitGroup x) s.prot.groups).getD g {} = _
    unfold mapGroups
    rw [List.getD_eq_getElem?_getD, List.getElem?_map, numbered_get, List.getD_eq_getElem?_getD, List.getElem?_eq_getElem hg]
    simp only [Option.map_some, Option.getD_some, Nat.zero_add]
    rfl

theorem resetFold_facts (l : List Nat) : ∀ s : State, l.Nodup → let t := l.foldl (fun (s : State) g => s.setGroup g resetGroup) s
    Plane s [] [] t ∧ t.dio = s.dio ∧ ∀ k, t.trip k = if k ∈ l ∧ k < s.prot.groups.length then resetGroup (s.trip k) else s.trip k := by
  induction l with
  | nil => exact fun s _ => ⟨Plane.refl s, rfl, fun k => by simp⟩
  | cons g l ih =>
    intro s hd
    obtain ⟨hg, hd⟩ := List.nodup_cons.mp hd
    obtain ⟨a, b, c⟩ := ih (s.setGroup g resetGroup) hd
    refine ⟨((Plane.refl s).set _ _).trans a, b, fun k => ?_⟩
    rw [List.foldl_cons, c, trip_setGroup, show (s.setGroup g resetGroup).prot.groups.length = s.prot.groups.length from updAt_length _ _ _]
    by_cases hk : k = g
    · subst hk
      simp [hg]
    · simp [hk]

theorem clearTrips_facts (s : State) (l : List Nat) : Plane s [] [] (s.clearTrips l) ∧ (s.clearTrips l).dio = s.dio ∧
    (s.clearTrips l).prot.groups = s.prot.groups := by
  unfold State.clearTrips
  have hi : ∀ (l : List Nat) (s : State), Plane s [] [] (l.foldl (fun s i => State.setStr s i fun t => { t with trip := 0, missTrip := false }) s) ∧
      (l.foldl (fun s i => State.setStr s i fun t => { t with trip := 0, missTrip := false }) s).dio = s.dio ∧
      (l.foldl (fun s i => State.setStr s i fun t => { t with trip := 0, missTrip := false }) s).prot.groups = s.prot.groups := by
    intro l
    induction l with
    | nil => exact fun s => ⟨Plane.refl s, rfl, rfl⟩
    | cons i l ih =>
      intro s
      obtain ⟨a, b, c⟩ := ih (s.setStr i fun t => { t with trip := 0, missTrip := false })
      exact ⟨((Plane.refl s).set _ _).trans a, b, c⟩
  induction l generalizing s with
  | nil => exact ⟨Plane.refl s, rfl, rfl⟩
  | cons g l ih =>
    rw [List.foldl_cons]
    obtain ⟨a, b, c⟩ := hi ((s.groupStrings g).filter fun i => !(s.enabledOf (s.groupMask i)).any fun h => (s.trip h).tripped) s
    obtain ⟨a', b', c'⟩ := ih (((s.groupStrings g).filter fun i => !(s.enabledOf (s.groupMask i)).any fun h => (s.trip h).tripped).foldl (fun s i => State.setStr s i fun t => { t with trip := 0, missTrip := false }) s)
    exact ⟨a.trans a', b'.trans b, c'.trans c⟩

theorem bitOf_mod16 (m g : Nat) (h : g < 4) : bitOf (m % 16) g = bitOf m g := by
  rw [bitOf_eq_testBit, bitOf_eq_testBit, show (16 : Nat) = 2 ^ 4 from rfl, Nat.testBit_mod_two_pow]
  simp [h]

theorem mem_groups4 {m g : Nat} : g ∈ (List.range 4).filter (fun g => bitOf (m % 16) g) ↔ g < 4 ∧ bitOf m g = true := by
  rw [List.mem_filter, List.mem_range]
  exact ⟨fun h => ⟨h.1, by rw [← bitOf_mod16 m g h.1]; exact h.2⟩, fun h => ⟨h.1, by rw [bitOf_mod16 m g h.1]; exact h.2⟩⟩

/-- The step that PROT_RESET takes for the groups it names. -/
def State.resetStep (l : List Nat) (s : State) : State := (l.foldl (fun (s : State) g => s.setGroup g resetGroup) s).clearTrips l

end Sys2Proof.Machine
end

