-- ==== Sys2Proof/Laws/FieldIo.lean ====
section
/-! SUPPORT. What the events of the field channels and the calibration do, said once. -/

namespace Sys2Proof.Machine

theorem setDoSt_setDoSt (s : State) (n : Nat) (f g : DoSt → DoSt) : (s.setDoSt n f).setDoSt n g = s.setDoSt n fun d => g (f d) := by
  unfold State.setDoSt; dsimp only; rw [updAt_updAt]

theorem setAoSt_setAoSt (s : State) (n : Nat) (f g : AoSt → AoSt) : (s.setAoSt n f).setAoSt n g = s.setAoSt n fun d => g (f d) := by
  unfold State.setAoSt; dsimp only; rw [updAt_updAt]

theorem setAiSt_setAiSt (s : State) (n : Nat) (f g : AiSt → AiSt) : (s.setAiSt n f).setAiSt n g = s.setAiSt n fun d => g (f d) := by
  unfold State.setAiSt; dsimp only; rw [updAt_updAt]

/-- A flag of the output as the output stands after a change that leaves its flags. -/
theorem flag_setDoSt (s : State) (n m k : Nat) (f : DoSt → DoSt) (hf : ∀ d, (f d).flag k = d.flag k) : ((s.setDoSt n f).doCh m).flag k = (s.doCh m).flag k := by
  rw [doCh_setDoSt]
  split
  · rename_i z; rw [hf, z.1]
  · rfl

theorem doFlag_eq (s : State) (n k : Nat) (hk : k = 2 ∨ k = 3 ∨ k = 4 ∨ k = 6) : s.doFlag n k = if (s.doCh n).flag k = true then s else
    ((s.setDoSt n fun d => d.withFlag k).record .doFault [n, k]).raise 116 := by
  rcases hk with rfl | rfl | rfl | rfl <;> rfl

theorem doFlag_says (s : State) (n k : Nat) (hk : k = 2 ∨ k = 3 ∨ k = 4 ∨ k = 6) (h : (s.doCh n).flag k = false) :
    Says (s.setDoSt n fun d => d.withFlag k) [(.doFault, [n, k])] [116] (s.doFlag n k) := by
  rw [doFlag_eq s n k hk, if_neg (by rw [h]; simp)]
  exact ((Says.refl _).record .doFault _).raise 116 (by decide)

theorem doFlag_same (s : State) (n k : Nat) (hk : k = 2 ∨ k = 3 ∨ k = 4 ∨ k = 6) (h : (s.doCh n).flag k = true) : s.doFlag n k = s := by
  rw [doFlag_eq s n k hk, if_pos h]

/-- A readback is no part of what switches an output on. -/
theorem doOn_readback (s : State) (n m : Nat) (b : Bool) (k : Nat) : (s.setDoSt m fun d => { d with readback := b, swAt := k }).doOn n = s.doOn n := by
  have h : ∀ f : DoSt → Bool, (∀ d : DoSt, f { d with readback := b, swAt := k } = f d) → f ((s.setDoSt m fun d => { d with readback := b, swAt := k }).doCh n) = f (s.doCh n) := by
    intro f hf
    rw [doCh_setDoSt]
    split
    · rename_i z; rw [hf, z.1]
    · rfl
  exact h (fun d => d.cmd && !d.thermal && !d.latched && !d.dark && !s.heldTrip n && !d.noSupply && s.fieldOn) (fun _ => rfl)

/-- The outputs of a supply after it went or came back: each takes NO_SUPPLY, and its readback follows. -/
theorem setNoSupply_facts (s : State) (p l : Bool) : (s.setNoSupply p l = { s with
      dio := { s.dio with dos := (s.setNoSupply p l).dio.dos }, aio := { s.aio with aos := (s.setNoSupply p l).aio.aos } }) ∧
    (∀ n, n < 16 → (s.setNoSupply p l).doCh n = if decide (12 ≤ n) = p then
      { s.doCh n with noSupply := l, readback := (s.setNoSupply p l).doOn n, swAt := s.tb.csr } else s.doCh n) ∧
    (s.setNoSupply p l).aio.aos = if p then s.aio.aos else s.aio.aos.map fun a => { a with noSupply := l } := by
  unfold State.setNoSupply
  dsimp only
  have hb : ∀ n, n < 16 → State.doCh { s with
      dio := { s.dio with dos := (List.range 16).map fun n => if fedBy p n = true then { s.doCh n with noSupply := l } else s.doCh n }
      aio := { s.aio with aos := if p = true then s.aio.aos else s.aio.aos.map fun a => { a with noSupply := l } } } n =
      if decide (12 ≤ n) = p then { s.doCh n with noSupply := l } else s.doCh n := by
    intro n hn
    show ((List.range 16).map fun n => if fedBy p n = true then ({ s.doCh n with noSupply := l } : DoSt) else s.doCh n).getD n {} = _
    rw [List.getD_eq_getElem?_getD, List.getElem?_map, List.getElem?_range hn]
    unfold fedBy
    simp only [Option.map_some, Option.getD_some, beq_iff_eq]
  have hl : ((List.range 16).map fun n => if fedBy p n = true then ({ s.doCh n with noSupply := l } : DoSt) else s.doCh n).length = 16 := by simp
  generalize ht : ({ s with
      dio := { s.dio with dos := (List.range 16).map fun n => if fedBy p n = true then { s.doCh n with noSupply := l } else s.doCh n }
      aio := { s.aio with aos := if p = true then s.aio.aos else s.aio.aos.map fun a => { a with noSupply := l } } } : State) = t at hb
  have key : ∀ (ks : List Nat) (u : State), u.dio.dos.length = 16 → (∀ k ∈ ks, k < 16) → ks.Nodup →
      let v := ks.foldl (fun s n => if fedBy p n = true then s.setDoSt n fun d => { d with readback := s.doOn n, swAt := s.tb.csr } else s) u
      v = { u with dio := { u.dio with dos := v.dio.dos } } ∧ (∀ n, v.doOn n = u.doOn n) ∧
      ∀ n, v.doCh n = if n ∈ ks ∧ fedBy p n = true then { u.doCh n with readback := u.doOn n, swAt := u.tb.csr } else u.doCh n := by
    intro ks
    induction ks with
    | nil => exact fun u _ _ _ => ⟨rfl, fun _ => rfl, fun n => by simp⟩
    | cons k ks ih =>
      intro u h16 hlt hnd
      obtain ⟨hk, hnd⟩ := List.nodup_cons.mp hnd
      rw [List.foldl_cons]
      by_cases hf : fedBy p k = true
      · rw [if_pos hf]
        obtain ⟨a1, a2, a3⟩ := ih (u.setDoSt k fun d => { d with readback := u.doOn k, swAt := u.tb.csr })
          (by show (updAt u.dio.dos k _).length = 16; rw [updAt_length]; exact h16) (fun j hj => hlt j (List.mem_cons_of_mem _ hj)) hnd
        refine ⟨a1.trans rfl, fun n => by rw [a2, doOn_readback], fun n => ?_⟩
        rw [a3 n, doOn_readback, doCh_setDoSt]
        by_cases hn : n = k
        · subst hn
          rw [if_neg (fun z => hk z.1), if_pos ⟨rfl, by rw [h16]; exact hlt n List.mem_cons_self⟩, if_pos ⟨List.mem_cons_self, hf⟩]
        · by_cases hm : n ∈ ks ∧ fedBy p n = true
          · rw [if_pos hm, if_neg (fun z => hn z.1), if_pos ⟨List.mem_cons_of_mem _ hm.1, hm.2⟩]; rfl
          · rw [if_neg hm, if_neg (fun z => hn z.1), if_neg (fun z => hm ⟨(List.mem_cons.mp z.1).resolve_left hn, z.2⟩)]
      · rw [if_neg hf]
        obtain ⟨a1, a2, a3⟩ := ih u h16 (fun j hj => hlt j (List.mem_cons_of_mem _ hj)) hnd
        refine ⟨a1, a2, fun n => ?_⟩
        rw [a3 n]
        by_cases hm : n ∈ ks ∧ fedBy p n = true
        · rw [if_pos hm, if_pos ⟨List.mem_cons_of_mem _ hm.1, hm.2⟩]
        · rw [if_neg hm, if_neg]
          rintro ⟨z1, z2⟩
          rcases List.mem_cons.mp z1 with rfl | z1
          · exact hf z2
          · exact hm ⟨z1, z2⟩
  obtain ⟨k1, k2, k3⟩ := key (List.range 16) t (by rw [← ht]; exact hl) (fun k hk => List.mem_range.mp hk) List.nodup_range
  dsimp only at k1 k2 k3
  generalize (List.range 16).foldl (fun s n => if fedBy p n = true then s.setDoSt n fun d => { d with readback := s.doOn n, swAt := s.tb.csr } else s) t = v at k1 k2 k3
  have hv : v.tb = s.tb ∧ v.aio.aos = if p = true then s.aio.aos else s.aio.aos.map fun a => { a with noSupply := l } := by
    rw [k1, ← ht]; exact ⟨rfl, rfl⟩
  refine ⟨?_, fun n hn => ?_, hv.2⟩
  · have h2 : v = { t with dio := { t.dio with dos := v.dio.dos } } := k1
    have h3 : ∀ w : State, w = { t with dio := { t.dio with dos := w.dio.dos } } → w = { s with dio := { s.dio with dos := w.dio.dos }, aio := { s.aio with aos := w.aio.aos } } := by
      intro w hw
      rw [hw, ← ht]
    exact h3 v h2
  · rw [k3 n, hb n hn, k2 n]
    have htb : t.tb = s.tb := by rw [← ht]
    rw [htb]
    unfold fedBy
    simp only [beq_iff_eq, List.mem_range, hn, true_and]
    by_cases hp : decide (12 ≤ n) = p
    · simp only [if_pos hp]
    · simp only [if_neg hp]

theorem pointFrom_none {s : State} {p n : Nat} (h : ∀ k, k < 4 → (s.aoCfg k).shared = true) : s.pointFrom p n = none := by
  induction n generalizing p with
  | zero => rfl
  | succ n ih => unfold State.pointFrom; rw [if_pos (h _ (by omega))]; exact ih

theorem pointFrom_some {s : State} {p k n : Nat} (hn : k < n) (h : ∀ j, j < k → (s.aoCfg ((p + j) % 8 / 2)).shared = true)
    (hk : (s.aoCfg ((p + k) % 8 / 2)).shared = false) : s.pointFrom p n = some ((p + k) % 8) := by
  induction k generalizing p n with
  | zero =>
    cases n with
    | zero => omega
    | succ n => unfold State.pointFrom; rw [if_neg (by simpa using hk)]; rfl
  | succ k ih =>
    cases n with
    | zero => omega
    | succ n =>
      unfold State.pointFrom
      rw [if_pos (show (s.aoCfg (p % 8 / 2)).shared = true from h 0 (by omega)), ih (by omega) (fun j hj => by have := h (j + 1) (by omega); rwa [show p + 1 + j = p + (j + 1) by omega]) (by rwa [show p + 1 + k = p + (k + 1) by omega])]
      rw [show p + 1 + k = p + (k + 1) by omega]

end Sys2Proof.Machine
end

