-- ==== Sys2Proof/Laws/Storage.lean ====
section
/-! SUPPORT. What the storage commands and the recorder's commands do, said once. -/

namespace Sys2Proof.Machine

theorem page_setPage (s : State) (p i q j : Nat) (g : Page) : (s.setPage p i g).page q j = if (q, j) = (p, i) then some g else s.page q j :=
  assocSet_get _ _ _ _

theorem nvs_set_set (s : State) (l l' : List ((Nat × Nat) × Page)) (d d' : Memory) :
    ({ ({ s with nvs := { s.nvs with pages := l, data := d } } : State) with nvs := { ({ s with nvs := { s.nvs with pages := l, data := d } } : State).nvs with pages := l', data := d' } } : State) =
      { s with nvs := { s.nvs with pages := l', data := d' } } := rfl

/-- What writing pages from page `j` of a command on changes and keeps. -/
theorem storePages_facts (op : Op) (p a j : Nat) (n : Nat) : ∀ s : State, (∃ l d, s.storePages op p a j n = { s with nvs := { s.nvs with pages := l, data := d } }) ∧
    (Memory.wf s.nvs.data = true → Memory.wf (s.storePages op p a j n).nvs.data = true) ∧
    (∀ k, k < n → ∃ g, (s.storePages op p a j n).page p (a + (j + k)) = some g ∧ g.t = s.fld .nvsPartCfg 0 7 p) := by
  induction n with
  | zero => exact fun s => ⟨⟨_, _, rfl⟩, id, fun k h => absurd h (Nat.not_lt_zero k)⟩
  | succ n ih =>
    intro s
    obtain ⟨⟨l, d, x⟩, y, z⟩ := ih s
    have e : ∃ g d', s.storePages op p a j (n + 1) = { s.storePages op p a j n with nvs := { (s.storePages op p a j n).nvs with pages := assocSet (s.storePages op p a j n).nvs.pages (p, a + (j + n)) g, data := d' } } ∧
        g.t = (s.storePages op p a j n).fld .nvsPartCfg 0 7 p ∧ d' = Memory.writeN (s.storePages op p a j n).nvs.data (nandKey p (a + (j + n)) 0) ((s.storePages op p a j n).readBuf op ((j + n) * pageBytes) pageBytes) :=
      ⟨_, _, rfl, rfl, rfl⟩
    obtain ⟨g, d', e, e1, e2⟩ := e
    have hf : (s.storePages op p a j n).fld .nvsPartCfg 0 7 p = s.fld .nvsPartCfg 0 7 p := by rw [x]; rfl
    refine ⟨⟨assocSet (s.storePages op p a j n).nvs.pages (p, a + (j + n)) g, d', ?_⟩, fun h => ?_, fun k hk => ?_⟩
    · rw [e]
      generalize assocSet (s.storePages op p a j n).nvs.pages (p, a + (j + n)) g = l'
      rw [x]
    · rw [e]; show Memory.wf d' = true; rw [e2]; exact Memory.writeN_wf _ _ (y h)
    · rw [e]
      show ∃ g', (State.setPage (s.storePages op p a j n) p (a + (j + n)) g).page p (a + (j + k)) = some g' ∧ _
      rw [page_setPage]
      split
      · exact ⟨_, rfl, e1.trans hf⟩
      · rename_i h
        exact z k (by
          rcases Nat.lt_or_ge k n with h' | h'
          · exact h'
          · have : k = n := by omega
            exact absurd (by rw [this]) h)

theorem flushLog_facts (s : State) (h : s.log.dropped = false) : (∀ r ∈ s.flushLog.log.recs, r.flushed = true) ∧ s.flushLog.log.dropped = false ∧ s.flushLog.log.seq = s.log.seq ∧
    (∃ l, s.flushLog = { s with log := l }) := by
  have ht : ∀ (k : Nat) (l : List Rec), (∀ r ∈ l, r.flushed = true) → ∀ r ∈ trimLog k l, r.flushed = true := by
    intro k
    induction k with
    | zero => intro l h; exact h
    | succ k ih =>
      intro l h
      unfold trimLog
      split
      · exact ih _ (fun r hr => h r (List.mem_of_mem_drop hr))
      · exact h
  have e : s.flushLog = { s with log := { s.log with recs := trimLog (s.log.recs.map fun r => { r with flushed := true }).length (s.log.recs.map fun r => { r with flushed := true }), infoDrop := false, flushAt := s.tb.csr, erased := s.flushLog.log.erased } } := by
    unfold State.flushLog
    dsimp only
    rw [if_neg (by simp [h])]
  rw [e]
  refine ⟨?_, h, rfl, ⟨_, rfl⟩⟩
  apply ht
  intro r hr
  simp only [List.mem_map] at hr
  obtain ⟨x, -, rfl⟩ := hr
  rfl

theorem read_filter (f : Nat → Bool) (m : Memory) (x : Nat) :
    Memory.read (m.filter fun c => f c.1) x = if f x = true then Memory.read m x else unlisted := by
  induction m with
  | nil => simp [Memory.read]
  | cons c m ih =>
    rw [List.filter_cons]
    by_cases h : f c.1 = true
    · rw [if_pos h]
      simp only [Memory.read, ih]
      split
      · rename_i z; rw [if_pos (z ▸ h)]
      · rfl
    · rw [if_neg h, ih]
      simp only [Memory.read]
      split
      · split
        · rename_i _ z; rw [z] at h; contradiction
        · rfl
      · rfl

theorem slotBad_facts (s : State) (k : Nat) (ok : Bool) : (ok = true ∨ (s.nvs.slots.getD k {}).state = .empty ∨ (s.nvs.slots.getD k {}).state = .writing ∨
      (s.nvs.slots.getD k {}).state = .invalid → s.slotBad k ok = s) ∧
    (ok = false → (s.nvs.slots.getD k {}).state ≠ .empty → (s.nvs.slots.getD k {}).state ≠ .writing → (s.nvs.slots.getD k {}).state ≠ .invalid →
      Says { s with nvs := { s.nvs with slots := updAt s.nvs.slots k fun (x : BootSlot) => { x with state := .invalid } } } [(.bootSlotBad, [k])] [118] (s.slotBad k ok)) := by
  unfold State.slotBad
  dsimp only
  refine ⟨fun h => if_pos h, fun a b c d => ?_⟩
  rw [if_neg (by rintro (z | z | z | z) <;> simp_all)]
  exact ((Says.refl _).record .bootSlotBad _).raise 118 (by decide)

theorem storePage_data (s : State) (op : Op) (p a k : Nat) :
    (s.storePage op p a k).nvs.data = Memory.writeN s.nvs.data (nandKey p (a + k) 0) (s.readBuf op (k * pageBytes) pageBytes) := by
  unfold State.storePage
  generalize pageBytes = n
  rfl

theorem storePages_one (s : State) (op : Op) (p a j : Nat) : s.storePages op p a j 1 = s.storePage op p a j := rfl

theorem assocGet_map {κ α : Type} [DecidableEq κ] (c : κ → Bool) (v : α → α) (l : List (κ × α)) (k : κ) :
    assocGet (l.map fun g => if c g.1 = true then (g.1, v g.2) else g) k = if c k = true then (assocGet l k).map v else assocGet l k := by
  induction l with
  | nil => simp [assocGet]
  | cons a l ih =>
    rw [List.map_cons]
    by_cases h : c a.1 = true
    · rw [if_pos h]
      simp only [assocGet, ih]
      by_cases hk : a.1 = k
      · rw [if_pos hk, if_pos (hk ▸ h), if_pos hk]; rfl
      · rw [if_neg hk, if_neg hk]
    · rw [if_neg h]
      simp only [assocGet, ih]
      by_cases hk : a.1 = k
      · rw [if_pos hk, if_neg (hk ▸ h), if_pos hk]
      · rw [if_neg hk, if_neg hk]

/-- What erasing blocks changes and keeps. -/
theorem erase_facts (s u : State) (p lo hi : Nat) (hu : u = { s with nvs := { s.nvs with
      pages := (s.nvs.pages.map fun (g : (Nat × Nat) × Page) => if g.1.1 = p ∧ lo ≤ g.1.2 ∧ g.1.2 < hi then (g.1, { g.2 with t := 0 }) else g),
      data := s.nvs.data.filter fun c => decide (c.1 < nandKey p lo 0 ∨ nandKey p hi 0 ≤ c.1) } }) :
    (∀ i, lo ≤ i → i < hi → u.pageWritten p i = false) ∧ (∀ q i, q ≠ p ∨ i < lo ∨ hi ≤ i → u.page q i = s.page q i) ∧
    (∀ x, Memory.read u.nvs.data x = if x < nandKey p lo 0 ∨ nandKey p hi 0 ≤ x then Memory.read s.nvs.data x else unlisted) := by
  have hp : ∀ q i, u.page q i = if q = p ∧ lo ≤ i ∧ i < hi then (s.page q i).map fun g => { g with t := 0 } else s.page q i := by
    intro q i
    have := assocGet_map (fun k : Nat × Nat => decide (k.1 = p ∧ lo ≤ k.2 ∧ k.2 < hi)) (fun g : Page => { g with t := 0 }) s.nvs.pages (q, i)
    simp only [decide_eq_true_eq] at this
    rw [hu]
    exact this
  refine ⟨fun i h1 h2 => ?_, fun q i h => ?_, fun x => ?_⟩
  · unfold State.pageWritten
    rw [hp, if_pos ⟨rfl, h1, h2⟩]
    cases s.page p i <;> rfl
  · rw [hp, if_neg (by omega)]
  · rw [hu]
    refine (read_filter (fun x => decide (x < nandKey p lo 0 ∨ nandKey p hi 0 ≤ x)) s.nvs.data x).trans ?_
    simp only [decide_eq_true_eq]

/-- A record offered to the recorder with a given header is a report. -/
theorem Reports.addRec (s : State) {r : Rec} (hf : r.fits) : Reports s (s.addRec r) where
  frame := by
    refine State.eq_of_repView (by simp only [State.repView, State.addRec_frame]) ?_
    rw [State.addRec_sys]
  host := by simp
  sent := by simp
  form := (State.addRec_evolves (Evolves.refl s) r).mem
  live := fun w _ ha => State.addRec_read w hf ha

theorem Reports.givenRec (s : State) (c v o : Nat) (b : List Byte) (a : Nat) (p : PlantTime) : Reports s (s.givenRec c v o b a p) :=
  Reports.addRec s (recSize_le _)

theorem givenRec_log (s : State) (c v o : Nat) (b : List Byte) (a : Nat) (p : PlantTime) (hb : b.length ≤ 1024) :
    (s.log.taking = false ∨ s.powered 1 = false → (s.givenRec c v o b a p).log = s.log) ∧
    (s.log.taking = true → s.powered 1 = true → v = 0 → s.bit .logCtrl 0 = false → (s.givenRec c v o b a p).log = s.log) ∧
    (s.log.taking = true → s.powered 1 = true → v ≠ 0 → unflushedBytes s.log.recs + 1088 ≤ 4194304 →
      (s.givenRec c v o b a p).log.seq = s.log.seq + 1 ∧ ∃ r, (s.givenRec c v o b a p).log.recs = s.log.recs ++ [r] ∧ r.seq = s.log.seq + 1 ∧ r.code = some c ∧
        r.sev = v ∧ r.source = some o ∧ r.ang = a ∧ r.pt = p ∧ r.flushed = false ∧ r.soft = b ++ List.replicate ((8 - b.length % 8) % 8) (0 : Byte)) := by
  unfold State.givenRec
  dsimp only
  have hsz : recSize (b ++ List.replicate ((8 - b.length % 8) % 8) (0 : Byte)).length ≤ 1088 := by
    unfold recSize
    simp only [List.length_append, List.length_replicate]
    omega
  generalize b ++ List.replicate ((8 - b.length % 8) % 8) (0 : Byte) = d at hsz ⊢
  rw [State.addRec_log]
  unfold LogSt.offered
  refine ⟨fun h => if_neg (by rcases h with h | h <;> simp [h]), fun h1 h2 h3 h4 => ?_, fun h1 h2 h3 h4 => ?_⟩
  · rw [if_pos (by simp [h1, h2])]
    unfold LogSt.enter
    dsimp only
    rw [if_pos ⟨h3, h4⟩]
  · rw [if_pos (by simp [h1, h2])]
    unfold LogSt.enter
    dsimp only
    rw [if_neg (fun z => h3 z.1), if_neg (fun z => h3 z.1), if_pos (show unflushedBytes s.log.recs + recSize d.length ≤ 4194304 by omega),
      if_neg (show ¬ 4194304 < unflushedBytes s.log.recs + recSize d.length by omega)]
    dsimp only
    split
    · exact ⟨rfl, _, rfl, rfl, rfl, rfl, rfl, rfl, rfl, rfl, rfl⟩
    · exact ⟨rfl, _, rfl, rfl, rfl, rfl, rfl, rfl, rfl, rfl, rfl⟩

/-- A periodic task is too early exactly within its period after its last run. -/
theorem tooEarly_iff (s : State) (last : Option Nat) (us : Nat) :
    s.tooEarly last us = true ↔ ∃ k, last = some k ∧ s.tb.csr < k + usTicks us := by
  unfold State.tooEarly
  cases last with
  | none => exact ⟨fun h => absurd h Bool.false_ne_true, fun ⟨_, h, _⟩ => by cases h⟩
  | some t => exact ⟨fun h => ⟨t, rfl, of_decide_eq_true h⟩, fun ⟨k, h, h2⟩ => by cases h; exact decide_eq_true h2⟩

theorem readN_length (m : Memory) (n : Nat) : ∀ a, (Memory.readN m a n).length = n := by
  induction n with
  | zero => exact fun _ => rfl
  | succ n ih => exact fun a => congrArg (· + 1) (ih (a + 1))

theorem removeUpto_facts (s : State) (n : Nat) : (s.removeUpto n).log.cleared = n ∧
    ∀ r ∈ (s.removeUpto n).log.recs, n < r.seq ∨ r.name = .logCleared := by
  refine ⟨rfl, fun r hr => ?_⟩
  unfold State.removeUpto at hr
  dsimp only at hr
  have := (List.mem_filter.mp hr).2
  simp only [Bool.not_and, Bool.or_eq_true, decide_eq_false_iff_not, Bool.not_eq_eq_eq_not, Bool.not_true, bne_eq_false_iff_eq] at this
  rcases this with h | h
  · left; omega
  · right; simpa using h

/-- What a page's read of too many corrected bits says. -/
def State.pageHigh (u : State) (p i : Nat) (w : Bool) (R : Prop) [Decidable R] : State :=
  if w = true then (if R then { u with nvs := { u.nvs with fixHigh := true } } else State.record { u with nvs := { u.nvs with fixHigh := true } } .nvsFixHigh [p, i]).raise 118 else u

/-- What a page's read of an uncorrectable codeword says. -/
def State.pageBad (v : State) (p i : Nat) (bad : Bool) : State :=
  if bad = true then
    (if p = 1 ∧ ((State.record { v with nvs := { v.nvs with uncorrSeen := true } } .nvsUncorrectable [p, i]).raise 118).sys.mode = .solo then
      ((State.record { v with nvs := { v.nvs with uncorrSeen := true } } .nvsUncorrectable [p, i]).raise 118).guaranteeBroken [i]
     else (State.record { v with nvs := { v.nvs with uncorrSeen := true } } .nvsUncorrectable [p, i]).raise 118)
  else v

/-- The records of a page's read: NVS_FIX_HIGH, NVS_UNCORRECTABLE, and GUARANTEE_BROKEN where the journal's page is lost in SOLO (R539). -/
abbrev State.pageRecords (u : State) (p i : Nat) (w bad : Bool) (R : Prop) [Decidable R] : List (RecName × List Nat) :=
  (if w = true ∧ ¬ R then [(.nvsFixHigh, [p, i])] else []) ++ (if bad = true then [(.nvsUncorrectable, [p, i])] else []) ++
    if bad = true ∧ p = 1 ∧ u.sys.mode = .solo then [(.guaranteeBroken, u.wb.jsn :: i :: u.streamSeqs)] else []

theorem pageHigh_says (u : State) (p i : Nat) (w : Bool) (R : Prop) [Decidable R] :
    Says { u with nvs := { u.nvs with fixHigh := u.nvs.fixHigh || w } } (if w = true ∧ ¬ R then [(.nvsFixHigh, [p, i])] else [])
      (if w = true then [118] else []) (u.pageHigh p i w R) := by
  unfold State.pageHigh
  cases w with
  | false => simp; exact Says.refl u
  | true =>
    by_cases hR : R
    · simp [hR]; exact (Says.refl _).raise 118 (by decide)
    · simp [hR]; exact ((Says.refl _).record .nvsFixHigh _).raise 118 (by decide)

theorem pageSays_says (u : State) (p i : Nat) (w bad : Bool) (R : Prop) [Decidable R] :
    Says { u with nvs := { u.nvs with fixHigh := u.nvs.fixHigh || w, uncorrSeen := u.nvs.uncorrSeen || bad } } (u.pageRecords p i w bad R)
      ((if w = true ∨ bad = true then [118] else []) ++ if bad = true ∧ p = 1 ∧ u.sys.mode = .solo then [70] else []) ((u.pageHigh p i w R).pageBad p i bad) := by
  have h1 := pageHigh_says u p i w R
  unfold State.pageBad State.pageRecords
  generalize u.pageHigh p i w R = v at h1 ⊢
  cases bad with
  | false => simpa using h1
  | true =>
    have h2 := ((h1.upd (fun x => { x with nvs := { x.nvs with uncorrSeen := true } }) (fun _ _ _ _ _ => rfl) rfl rfl).record .nvsUncorrectable [p, i]).raise 118 (by decide)
    generalize (State.record { v with nvs := { v.nvs with uncorrSeen := true } } .nvsUncorrectable [p, i]).raise 118 = x at h2
    have hm : x.sys.mode = u.sys.mode := by rw [h2.toReports.sys]
    have hw : x.wb = u.wb := by rw [h2.toReports.wb]
    simp only [if_true, Bool.or_true, or_true, true_and]
    rw [hm]
    by_cases hc : p = 1 ∧ u.sys.mode = .solo
    · rw [if_pos hc, if_pos hc, if_pos hc]
      have h3 := (h2.record .guaranteeBroken (x.wb.jsn :: [i] ++ x.streamSeqs)).raise 70 (by decide)
      have hq : x.streamSeqs = u.streamSeqs := by unfold State.streamSeqs; rw [hw]
      rw [hq, hw] at h3
      refine ⟨?_, ?_, fun k => (?_ : _ = _)⟩
      · have := h3.toReports; unfold State.guaranteeBroken; rw [hq, hw]; exact this
      · have := h3.log; unfold State.guaranteeBroken; rw [hq, hw]; simpa using this
      · unfold State.guaranteeBroken; rw [hq, hw]
        refine (h3.events k).trans ?_
        cases w <;> simp [Bool.or_assoc]
    · rw [if_neg hc, if_neg hc, if_neg hc, List.append_nil, List.append_nil]
      exact ⟨h2.toReports, h2.log, fun k => (h2.events k).trans (by cases w <;> simp)⟩

theorem readPage_eq (s : State) (p i f : Nat) (b : Bool) (g : Page) (h : (s.page p i).getD { t := partStrength p } = g) : s.readPage p i f b =
    State.pageBad (State.pageHigh (s.setPage p i { g with maxFix := f % 128, uncorr := g.uncorr || b, excess := if decide (s.fixWarn p g ≤ f) = true then satAt 255 (g.excess + 1) else g.excess, reported := if decide (s.fixWarn p g ≤ f) = true then s.ptDay else g.reported })
      p i (decide (s.fixWarn p g ≤ f)) (g.reported = s.ptDay)) p i b := by
  subst h
  rfl

theorem readPage_regs (s : State) (p i f : Nat) (b : Bool) : (s.readPage p i f b).regs = s.regs := by
  rw [readPage_eq s p i f b _ rfl]
  rw [(pageSays_says _ _ _ _ _ _).toReports.frame]
  rfl

theorem readPages_regs (l : List (Nat × Nat × Nat × Bool)) : ∀ s : State, (l.foldl (fun s r => s.readPage r.1 r.2.1 r.2.2.1 r.2.2.2) s).regs = s.regs := by
  induction l with
  | nil => exact fun v => rfl
  | cons r l ih => exact fun v => (ih _).trans (readPage_regs v _ _ _ _)

/-- What a read of a page keeps and says. -/
theorem readPage_facts (s : State) (p i f : Nat) (b : Bool) (g : Page) (h : s.page p i = some g) : ∃ g', (s.readPage p i f b).page p i = some g' ∧ g'.t = g.t ∧
    g'.maxFix = f % 128 ∧ g'.uncorr = (g.uncorr || b) ∧ g'.excess = (if s.fixWarn p g ≤ f then satAt 255 (g.excess + 1) else g.excess) ∧
    Says { s with nvs := { s.nvs with pages := assocSet s.nvs.pages (p, i) g', fixHigh := s.nvs.fixHigh || decide (s.fixWarn p g ≤ f), uncorrSeen := s.nvs.uncorrSeen || b } }
      (s.pageRecords p i (decide (s.fixWarn p g ≤ f)) b (g.reported = s.ptDay))
      ((if s.fixWarn p g ≤ f ∨ b = true then [118] else []) ++ if b = true ∧ p = 1 ∧ s.sys.mode = .solo then [70] else []) (s.readPage p i f b) := by
  have e := readPage_eq s p i f b g (by rw [h]; rfl)
  generalize hg : ({ g with maxFix := f % 128, uncorr := g.uncorr || b, excess := if decide (s.fixWarn p g ≤ f) = true then satAt 255 (g.excess + 1) else g.excess, reported := if decide (s.fixWarn p g ≤ f) = true then s.ptDay else g.reported } : Page) = g' at e
  have k := pageSays_says (s.setPage p i g') p i (decide (s.fixWarn p g ≤ f)) b (g.reported = s.ptDay)
  rw [← e] at k
  refine ⟨g', ?_, by rw [← hg], by rw [← hg], by rw [← hg], by rw [← hg]; simp, ?_⟩
  · have := k.toReports.frame
    rw [this]
    exact (page_setPage s p i p i g').trans (if_pos rfl)
  · simp only [decide_eq_true_eq] at k
    exact k

end Sys2Proof.Machine
end

