-- ==== Sys2Proof/Machine/Wire.lean ====
section
/-! DEFINITION. The module's own formats as bytes, little-endian: Wingbeat messages, manifests, journal entries, the stream header, referee
messages and Silkline frames (R13; tables of 05_pair_operation.md and 09_silkline_cell_rings.md). -/

namespace Sys2Proof.Machine

/-- A manifest entry, 16 bytes (table Manifest entry). -/
def manEntryBytes (e : ManEntry) : List Byte :=
  leBytes 1 e.kind ++ leBytes 1 e.b1 ++ leBytes 2 e.b2 ++ leBytes 4 e.b4 ++ leBytes 8 e.b8

/-- A part of a manifest (table Manifest header). -/
def manifestBytes (m : ManPart) : List Byte :=
  leBytes 8 m.cycle ++ leBytes 8 m.angle ++ leBytes 4 m.astatus ++ leBytes 4 m.gen ++ leBytes 2 m.task ++ leBytes 1 m.part ++ leBytes 1 m.parts
    ++ leBytes 2 m.entries.length ++ leBytes 2 0 ++ leBytes 8 m.jsnCut ++ m.entries.flatMap manEntryBytes

/-- A list of identities and values, 16 bytes each. -/
def pairBytes (l : List (Nat × Nat)) : List Byte := l.flatMap fun v => leBytes 8 v.1 ++ leBytes 8 v.2

/-- TYPE, RING and KEY of an entry (table Journal entry header); the lease table's entry has a TYPE of the model's own
(notes/assumptions/83.md). -/
def jHead : JBody → Nat × Nat × List Byte
  | .desc r i _ => (1, r, leBytes 8 i)
  | .step r i _ => (2, r, leBytes 8 i)
  | .intent t q _ _ => (3, 0xFF, leBytes 4 t ++ leBytes 4 q)
  | .done r i _ _ _ _ _ => (4, r, leBytes 8 i)
  | .retained c _ => (5, 0xFF, leBytes 8 c)
  | .checkpoint c _ _ => (6, 0xFF, leBytes 8 c)
  | .lease _ _ => (7, 0xFF, leBytes 8 0)
  | .ordAck t _ h => (8, 0xFF, leBytes 4 t ++ leBytes 4 h)
  | .referee p => (9, 0xFF, leBytes 8 p.pairId)

/-- The body of an entry. -/
def jBodyBytes : JBody → List Byte
  | .desc _ _ b => b
  | .step _ _ n => leBytes 8 n
  | .intent _ _ e p => leBytes 4 e ++ p
  | .done _ _ j st r a w => leBytes 8 j ++ leBytes 2 st ++ leBytes 2 0 ++ leBytes 8 a ++ leBytes 4 w ++ leBytes 4 r ++ leBytes 4 0
  | .retained _ v => pairBytes v
  | .checkpoint _ d v => d ++ pairBytes v
  | .lease g b => leBytes 4 g ++ leBytes 1 (ofBool b)
  | .ordAck _ e h => leBytes 4 e ++ leBytes 4 h
  | .referee p => leBytes 2 p.pairId ++ leBytes 1 p.holder ++ leBytes 1 (ofBool p.fencedA + 2 * ofBool p.fencedB) ++ leBytes 8 p.expiry
      ++ leBytes 4 p.gen ++ leBytes 2 p.termUs ++ leBytes 2 p.epochA ++ leBytes 4 p.seqA ++ leBytes 2 p.epochB ++ leBytes 4 p.seqB
      ++ leBytes 1 p.lastGranted ++ List.replicate 17 0

/-- A journal entry: its header with the CRC, and its body (table Journal entry header). -/
def jEntryBytes (e : JEntry) : List Byte :=
  let (type, ring, key) := jHead e.body
  let b := jBodyBytes e.body
  let h := leBytes 8 e.jsn ++ leBytes 4 e.gen ++ leBytes 1 type ++ leBytes 1 ring ++ leBytes 2 0 ++ leBytes 4 b.length ++ key
  h ++ leBytes 4 (crc32 (h ++ b)) ++ b

/-- The body of a Wingbeat message, where the spec gives its layout. -/
def wbBody : WbMsg → Option (List Byte)
  | .manifest m => some (manifestBytes m)
  | .fetch e => some (manEntryBytes e)
  | .fetchData e c => some (manEntryBytes e ++ c)
  | .journal _ es => some (es.flatMap jEntryBytes)
  | .halfSamples ring epoch a st l => some (leBytes 1 0 ++ leBytes 1 ring ++ leBytes 1 l.length ++ leBytes 1 0 ++ leBytes 4 epoch
      ++ leBytes 8 a ++ leBytes 4 st ++ l.flatMap fun e => sampleBytes e.1 e.2)
  | .halfState ring epoch a st b1 b2 last endOk missing => some (leBytes 1 1 ++ leBytes 1 ring ++ leBytes 2 0 ++ leBytes 4 epoch ++ leBytes 8 a
      ++ leBytes 4 st ++ leBytes 1 b1 ++ leBytes 1 b2 ++ leBytes 1 last ++ leBytes 1 (ofBool endOk) ++ posMap missing)
  | .halfRelay ring f => some (leBytes 1 2 ++ leBytes 1 ring ++ List.replicate 18 0 ++ f)
  | .heartbeat _ | .fetchMsg .. | .outputDigest .. | .journalAck .. | .handover .. | .consent .. | .resync _ | .powerFail _ | .hello _
  | .protNotice .. => none

/-- A Wingbeat message on a lane: header, body, CRC (table Wingbeat message header). -/
def wbFrame (lane : Bool) (h : WbHead) (m : WbMsg) (body : List Byte) : List Byte :=
  let solo := match m with
    | .journal s _ => s
    | _ => false
  let b := leBytes 1 m.type ++ leBytes 1 (ofBool lane + 2 + 4 * ofBool solo) ++ leBytes 2 body.length ++ leBytes 4 h.seq ++ body
  b ++ leBytes 4 (crc32 b)

/-- The stream header of a frame that this module sends (table Stream header). -/
def streamHead (s : State) (cls stream epoch seq : Nat) (resend start : Bool) : List Byte :=
  leBytes 1 (1 + 16 * cls) ++ leBytes 1 (ofBool s.pwr.slotB + 2 * ofBool s.holds + 4 * ofBool resend + 8 * ofBool start) ++ leBytes 2 s.pairId
    ++ leBytes 2 stream ++ leBytes 2 0 ++ leBytes 4 epoch ++ leBytes 4 seq

/-- TYPE of a referee message. -/
def refTypeCode : RefType → Nat
  | .request => 0x01 | .renew => 0x02 | .release => 0x03 | .fenced => 0x04 | .probe => 0x05
  | .grant => 0x81 | .deny => 0x82 | .status => 0x83

/-- A referee message on the backplane (table Referee message body). -/
def refBytes (m : RefMsg) : List Byte :=
  let b := leBytes 1 (refTypeCode m.type) ++ leBytes 1 (ofBool m.slotB) ++ leBytes 2 m.pairId ++ leBytes 4 m.seq ++ leBytes 2 m.termUs
    ++ leBytes 4 m.gen ++ leBytes 1 m.rstatus ++ leBytes 1 m.holder ++ leBytes 2 m.bootEpoch
  b ++ leBytes 2 (crc16 b)

/-- A frame with header, body and CRC (table Frame header). -/
def slkFramed (type : Nat) (toB : Bool) (pos : Nat) (body : List Byte) : List Byte :=
  let b := leBytes 1 type ++ leBytes 1 (ofBool toB) ++ leBytes 1 pos ++ leBytes 1 (8 + body.length) ++ body
  b ++ leBytes 4 (crc32 b)

/-- A Silkline frame as the end sends it (tables Silkline frame types, Short frame bodies, CONFIG_WRITE and BALANCE bodies). -/
def slkBytes (slotB : Bool) : SlkFrame → List Byte
  | .strobe e d => slkFramed 0x01 slotB 0 (leBytes 4 e ++ leBytes 1 d ++ leBytes 3 0)
  | .read pos e => slkFramed 0x02 slotB pos (leBytes 4 e)
  | .enum hops n => slkFramed 0x04 slotB 0 (leBytes 1 hops ++ leBytes 1 n ++ leBytes 2 0)
  | .idRead pos => slkFramed 0x05 slotB pos (leBytes 4 0)
  | .echo pos => slkFramed 0x07 slotB pos (leBytes 4 0)
  | .diagRead pos => slkFramed 0x10 slotB pos (leBytes 4 0)
  | .command type pos cseq gen8 body => commandBytes slotB pos { type := type, body := body, cseq := cseq, gen8 := gen8 }

end Sys2Proof.Machine
end

