-- ==== Sys2Proof/WellFormed.lean ====
section
/-! DEFINITION. Which commands are well formed: every number an operand carries lies in the range the spec gives the thing it numbers
(core pairs, rings, nodes, channels, ports, vectors, addresses). The machine runs on any operands; a command outside the range names
nothing that exists. -/

namespace Sys2Proof

/-- A requester that exists: core pairs 0 to 3, engines 0 to 10. -/
def Requester.wf : Requester → Bool
  | .core p _ _ => decide (p < 4)
  | .host | .debug => true
  | .engine e => decide (e ≤ 10)

/-- A core address of a register. -/
def regAddrOk (a : Nat) : Bool := decide (0x40000000 ≤ a ∧ a < 0x41000000)

/-- An operation that exists: tags 0 to 1023, journal sequence numbers from 1. -/
def WorkRef.wf : WorkRef → Bool
  | .tag t => decide (t < 1024)
  | .jsn j => decide (1 ≤ j)

/-- A unit of SYS_UNIT_HEALTH. -/
def UnitId.wf : UnitId → Bool
  | .corePair k | .core1 k => decide (k < 4)
  | .laneGrp g | .ringEnd g | .netPort g => decide (g < 4)
  | .wbLane l => decide (l < 2)
  | .holdup | .loop | .nand | .can => true

/-- An input that can go stale. -/
def StaleInput.wf : StaleInput → Bool
  | .slot s i => decide (s < 512 ∧ i < 3)
  | .stagePos o => decide (o < 128)
  | .dispatch => true

/-- A ring end. -/
def ringOk (r : Nat) : Bool := decide (r < 4)

/-- A position on a ring. -/
def posOk (p : Nat) : Bool := decide (1 ≤ p ∧ p ≤ 128)

/-- A CAN or network port. -/
def portOk (p : Nat) : Bool := decide (p < 4)

/-- A ring of the queue engine. -/
def queueOk (n : Nat) : Bool := decide (n < 256)

/-- A register block. -/
def blockOk (b : Nat) : Bool := decide (b < 23)

/-- A number below a bound. -/
def below (n b : Nat) : Bool := decide (n < b)

/-- The operands of a command lie in their ranges. -/
def Instr.wf : Instr → Bool
  | .registerWrite q a _ => q.wf && regAddrOk a
  | .wideReadLatch q a => q.wf && regAddrOk a
  | .angNowRead q | .mapRead q | .ptNowRead q => q.wf
  | .calReadFreeze q w => q.wf && below w 4
  | .registerBadAccess q _ size => q.wf && below size 65
  | .lockOpen q b key => q.wf && blockOk b && below key 65536
  | .lockClose q b key => q.wf && blockOk b && below key 65536
  | .lockTimeout b => blockOk b
  | .longOpStep w _ _ => w.wf
  | .opComplete t => below t 1024
  | .tagGrant i => below i 12
  | .unitLost u | .unitRestored u => u.wf
  | .inputStale i => i.wf
  | .insertion _ | .strapRead .. | .holdupMeasure _ | .holdupLost _ | .holdupRestored _ | .feedLost .. | .feedRestored .. => true
  | .powerFail .. | .powerFailFlushDone | .presentLost | .ejectReq | .pullOk | .leverReturn => true
  | .angSrcLost | .angFallback .. | .angSrcReturn .. | .angLocked | .slewDone | .cycleBoundary _ | .mapRecord | .cycleSeed _ => true
  | .angSrcSwitch q _ _ _ => q.wf
  | .ptpSyncRx .. | .ptpAnnounceRx .. | .ptMasterLost => true
  | .ptSoftStep q _ => q.wf
  | .frameLaunch _ => true
  | .alarmArm q n _ | .alarmDisarm q n _ => q.wf && below n 32
  | .alarmFire n => below n 32
  | .calDateStage q _ | .calCommit q _ => q.wf
  | .calTick | .rtcTrimUpdate _ | .backupMeasure .. | .backupSwitchover | .rtcLost _ | .calendarAlarm => true
  | .ringClaim q n _ | .ringRelease q n _ | .queueEnable q n _ | .queueDisable q n _ | .ringErrClear q n => q.wf && queueOk n
  | .hqKick q _ => q.wf
  | .doorbellPoll | .ringFetch => true
  | .descIssue n => queueOk n
  | .nop w | .abort w | .drain w | .timedDescDue w => w.wf
  | .shadowPairComplete n _ => queueOk n
  | .queuePtrReset n p _ _ => queueOk n && below p 8
  | .queueStale n => queueOk n
  | .wordPacketDone n t _ b => queueOk n && below t 256 && below b.length 65536
  | .portRead q n | .legacyPopRead q n => q.wf && queueOk n
  | .legacyPopTimeout n => queueOk n
  | .evtRouteWrite q src _ => q.wf && below src 128
  | .evtPendClear q k _ => q.wf && below k 4
  | .evtSoft q _ | .evtHostEoi q _ | .evtHostMaskWrite q _ => q.wf
  | .msixMaskWrite v _ => below v 32
  | .msixMessage src => below src 128
  | .hostLinkUp | .hostPortReset | .hostLinkDown => true
  | .heartbeatTx | .heartbeatRx .. | .heartbeatMissed | .helloTx | .helloRx .. | .manifestRx .. | .fetchRx .. | .fetchDataRx .. => true
  | .followerCycleStart t _ => below t 32
  | .outputDigestRx .. | .journalRx .. | .journalAckRx .. | .journalStall | .journalStreamWrite _ | .checkpointWrite => true
  | .orderedSend st p => below st 1024 && below p.length 1500
  | .streamAckRx st _ _ r => below st 1024 && below r 4
  | .ordAckTimeout st | .ordAckJournal st => below st 1024
  | .renewTx | .refereeReplyTimeout | .grantRx .. | .denyRx .. | .statusRx .. | .probeTx | .requestRepeat | .leaseExpiry => true
  | .consentAskRx .. | .consentGiveRx .. | .consentRefuseRx .. | .consentLapse => true
  | .leaseWdWrite q _ | .handoverPlan q _ => q.wf
  | .fenceWdExpiry | .plannedHandoverStart | .handoverOfferRx .. | .handoverReadyRx .. | .handoverGoRx .. | .handoverDoneRx .. => true
  | .handoverAbandonRx .. | .handoverReadyTimeout | .powerFailNoticeRx .. | .resyncRx .. | .resyncStep _ => true
  | .wbLaneDown l | .wbLaneUp l => below l 2
  | .drillDue | .drillDwellEnd | .refereeMsgRx .. | .refereeStartupHoldEnd => true
  | .lockstepMismatch p _ _ _ _ _ => below p 4
  | .comparatorSelftest p _ | .coreSelftestDone p _ => below p 4
  | .coreAccess p _ _ k a size _ _ => below p 4 && below k 3 && below a (2 ^ 48) && below size 9
  | .mpuSync q m => q.wf && below m 19
  | .mpuSyncDone m | .mpuDrainDone m => below m 19
  | .debugAccess _ a _ => below a (2 ^ 48)
  | .debugHalt p => below p 4
  | .dmCommand _ r _ => below r 128
  | .debugTokenGo q | .debugRelock q => q.wf
  | .debugUnlockExpiry => true
  | .cycleStart _ | .task0End .. => true
  | .taskRelease t _ _ => below t 32
  | .taskReleaseEnd t _ _ => below t 32
  | .stationReplyRx .. | .scanTimeout .. => true
  | .restart w | .instarPrepare w _ _ _ _ | .instarLoad w | .instarBind w | .instarSwitch w | .instarConfirm w | .instarAbandon w => w.wf
  | .instarConfirmExpiry => true
  | .forceSet w | .forceRemove w | .forceList w => w.wf
  | .loopSample n _ _ _ => below n 512
  | .loopBundleTx .. => true
  | .slotWrite w | .slotEnable w | .setTarget w | .groupWrite w | .outWrite w | .tableLoad w | .slotRead w => w.wf
  | .strobeLaunch r => ringOk r
  | .sampleRx r p _ _ => ringOk r && posOk p
  | .sampleTimeout r p => ringOk r && posOk p
  | .sweepPartDone r _ => ringOk r
  | .halfRingRx _ _ b => ringOk b.ring
  | .halfRingTimeout r => ringOk r
  | .breakRx r p _ => ringOk r && posOk p
  | .ringInputDown r | .ringInputUp r | .breakHeal r | .alarmSymbolRx r => ringOk r
  | .alarmFrameRx r p _ _ _ _ => ringOk r && posOk p
  | .alarmUnnamed r | .commandWindow r => ringOk r
  | .nodeAckRx r p _ _ _ _ | .nodeAckTimeout r p => ringOk r && posOk p
  | .echoCheck r | .latchRemeasure r => ringOk r
  | .echoReplyRx r p _ => ringOk r && posOk p
  | .idRx r p _ _ c _ _ => ringOk r && posOk p && below c 17
  | .tapTestAuto r => ringOk r
  | .ringEnumerate w _ _ | .nodeCmd w | .sweepCopy w | .tapTest w => w.wf
  | .diagRead w _ => w.wf
  | .strobeUpdate r _ _ => ringOk r
  | .quantityPublish _ | .paramUpdate _ | .summary _ | .balancingPlan _ => true
  | .cocoonCheckSweep r _ => ringOk r
  | .cocoonWake c => below c 16
  | .cellRead w | .cellReset w | .historyRead w | .lifetimeRead w | .planRead w => w.wf
  | .missLimit st | .missTrip st => below st 64
  | .protNoticeRx _ _ g _ _ _ _ _ => below g 16
  | .auxConfirmTimeout g => below g 4
  | .protFrameTx | .gooseRetransmit => true
  | .protStage w | .protCommit w | .protDiscard w | .protReset w | .protTest w _ _ _ | .protRead w => w.wf
  | .dspReport | .dspAlloc | .setpointFrameRx .. | .dspFallback | .dspFfr => true
  | .dspPlantSet w | .dspWorkerEnable w => w.wf
  | .fieldSupplyLost .. | .fieldSupplyGood .. => true
  | .diFilterChange n _ _ => below n 16
  | .doFault n _ _ | .doShort n | .doRetry n _ => below n 16
  | .darkTest n | .darkTestEnd n _ _ => below n 12
  | .doReset w => w.wf
  | .aiOverload n | .aiOverloadRetry n _ => below n 8
  | .aoOpen n | .aoOpenEnd n | .aoCompliance n _ | .aoComplianceEnd n _ | .makeupStart n | .makeupEnd n | .aoSelfTestFail n => below n 4
  | .gsOverrange o => below o 16
  | .calEnable q _ => q.wf
  | .selKeyPress | .selKeyHold | .calKeyPress | .calKeyHold => true
  | .hartCmd w _ | .aoTrim w => w.wf
  | .canRx p f => portOk p && below f.id (2 ^ 29) && below f.data.length 2049
  | .canTxComplete p _ _ | .canBusOff p | .canRecoveryDone p | .canWake p => portOk p
  | .canRecoverWrite q p _ | .canSleep q p _ => q.wf && portOk p
  | .canRecover w | .canSend w | .canFilter w | .netSend w | .gateLoad w => w.wf
  | .gateListSwitch p | .netPortDown p | .netModuleRefused p | .netPortUp p _ => portOk p
  | .supervisionTx | .svSampleRx .. | .mgmtOpen _ | .mgmtClose | .svcLinkChange _ | .wakeFrameRx .. => true
  | .dramUe _ _ | .dramCeHigh _ | .dramPatrolLap _ | .scrubLap .. | .bootSlotVerify .. | .counterFlush => true
  | .logRecord c sev src _ => below c 65536 && below sev 4 && below src 256
  | .recorderFlush => true
  | .nvsRead w _ | .nvsWrite w | .nvsErase w | .nvsCounters w | .logWrite w | .logExport w | .logClear w => w.wf
  | .secAttest w | .secVerify w | .secOwner w | .updPrepare w _ | .updActivate w | .updConfirm w | .updAbandon w => w.wf
  | .updActivateDue | .updAutoConfirm | .updConfirmExpiry => true
  | .bootStart .. => true
  | .bootStageVerified st _ _ _ _ l => below st 5 && l.all (below · 6)
  | .bootWatchdog | .peerWaitExpiry => true
  | .restartReset c => below c 9
  | .sysRestart q _ | .sysEnterService q _ | .safeHoldExitWarm q _ | .safeHoldExitCold q _ => q.wf
  | .plantStartColdSet q _ | .plantStartColdClear q _ | .configStop q _ => q.wf
  | .cocoonEnter w => w.wf
  | .cocoonPlanTimeout | .cocoonResume _ | .cocoonRequestTimeout | .moduleOvertemp _ => true
  | .powerOnReset | .partnerPresentChange _ => true
  | .workerReportRx r _ _ _ => below r.worker 65536
  | .hsrFrameRx p _ _ _ _ _ _ => portOk p
  | .faultFlashEnd => true

end Sys2Proof
end

