-- ==== Sys2Proof/Tests/Slice0.lean ====
section
/-! SUPPORT. Tests: for every obligation with hypotheses, clause by clause, a state and operands that meet them together (the theorems
test_hyp_<Name>); the checks of Instr.wf with an ill-formed term for each; single steps with results read from the spec's rules. -/

open Sys2Proof Sys2Proof.Machine
namespace Sys2Proof.Tests
set_option Elab.async false
set_option linter.unusedTactic false
set_option linter.unreachableTactic false

/-- The machine right after reset. -/
def z : State := State.reset
/-- Core 0 in machine mode. -/
def c0 : Requester := .core 0 false .machine
/-- Reset, in a mode, every domain on. -/
def zm (m : Mode) : State := { z with sys := { z.sys with mode := m, domains := 0xFF, bootStage := 3 } }
/-- In BOOT, a number of stages verified. -/
def bt (n : Nat) : State := { z with sys := { z.sys with mode := .boot, domains := 0xFF, bootStage := n } }
/-- A holder of the lease in ACTIVE. -/
def act : State := { zm .active with wb := { z.wb with lease := .held, lane0 := true, lane1 := true, refReach := true } }
/-- The state after a command. -/
def nx (c : Instr) (s : State) : State := match exec c s with
  | .next t => t
  | .fault _ | .refused _ => s
/-- A descriptor with fields at byte offsets: offset, bytes, value. -/
def desc (l : List (Nat × Nat × Nat)) : List Byte :=
  l.foldl (fun b f => b.take f.1 ++ leBytes f.2.1 f.2.2 ++ b.drop (f.1 + f.2.1)) (List.replicate 64 0)
/-- An operation of engine `e` with opcode `o` and further descriptor fields. -/
def mkOp (e o : Nat) (l : List (Nat × Nat × Nat) := []) : Op :=
  { tag := 0, issuer := 0, ring := 0, idx := 0, bytes := desc ((0, 1, o) :: l), engine := e }
/-- The state with one operation in flight under tag 0. -/
def fly (s : State) (o : Op) : State := { s with hq := { s.hq with ops := [o] } }
/-- The state with one accepted work under JSN 1, covered by the cut. -/
def wk (s : State) (o : Op) : State := { s with hq := { s.hq with work := [{ o with jsn := some 1 }] }, wb := { s.wb with covered := 1 } }
def hb0 : HbBody := ⟨.active, .held, 0, 0, 0, true, true, 0, 0, false⟩
def he0 : HelloBody := ⟨0, 0, 0, 0, false, 0, 0, false⟩
def me0 : ManEntry := ⟨0, 0, 0, 0, 0⟩
def mp0 : ManPart := ⟨1, 0, 0, 0, 0, 0, 1, 0, []⟩
def mn0 : ManSt := ⟨0, 1, 0, 1, [], 0, [], []⟩
def je0 : JEntry := ⟨1, 0, .lease 0 false⟩
def st0 : Stream := { id := 0 }
def rm0 : RefMsg := { type := .request, slotB := false, pairId := 0, seq := 0, termUs := 0, gen := 0 }
def rp0 : RefPair := { pairId := 0 }
def sw0 : Sweep := { epoch := 1, angle := 0, astatus := 0, meet := 0, mode := 0 }
def sm0 : Sample := { epoch := 1, ntype := .cell }
def nc0 : NodeCmd := { type := 0, body := [] }
def ih0 : ImageHdr := ⟨0, 0, 0, 0, 0, false, true, 0, 60, [], []⟩
def wr0 : WorkerReport := ⟨0, 0, 0, 0, 0, 0, 0, 0, 0, 0, 0, 0, 0, 0, 0, 0, 0⟩
def sp0 : SetPoint := ⟨0, 0, 0, 0, 0, false, false, 0, {}, 0⟩
def ps0 : ProtSet := ⟨1, 0, 0, 100, 200, 0, 0, false, 0, [], [], [], []⟩
def ge0 : GroupEntry := ⟨true, false, 0, 0, 0, 0, 0⟩
def im0 : ProgImage := ⟨[], false, 0, 0, 0, 100, 3, 1000, 100000, [], [], []⟩
def it0 : ProgItem := ⟨0, 0, 0, 0, 0, false, 0, 1⟩
def cf0 : CanFrame := { id := 0, ide := false, fmt := 1, data := [] }
def tx0 : TxBuf := ⟨cf0, false, none, 0⟩
def pos0 : RingPos := ⟨.cell, 1, 0, 0, 0, [], 0⟩
def se0 : Session := ⟨0, 0, 0, 0, [], [], [], []⟩
def tf0 : TimedFrame := { id := 0, work := none, network := 0, prio := 0, ptBase := false, due := 0, latePolicy := false, bytes := [] }
def fo0 : Force := ⟨0, 0, 0, 0, 0, {}, 0, 0⟩
def ar0 : Artefact := ⟨1, 0, 0, 0, 0, none, 0, [], []⟩
/-- Memory with fields at addresses: address, bytes, value. -/
def cells (l : List (Nat × Nat × Nat)) : List Host.Cell := l.foldl (fun m f => Memory.writeN m f.1 (leBytes f.2.1 f.2.2)) []
/-- The public key that is the neutral point. -/
def idKey : List Byte := 1 :: List.replicate 56 0
/-- A signature that holds under `idKey`. -/
def idSig : List Byte := idKey ++ List.replicate 57 0
/-- An artefact of a TYPE in memory from address 0, signed under a key index, with a body of `n` bytes. -/
def artMem (type key n : Nat) (body : List (Nat × Nat × Nat) := []) : List Host.Cell :=
  cells ([(0, 2, 1), (2, 1, type), (3, 1, key), (4, 4, n), (64 + n, 1, 1)] ++ body.map fun f => (64 + f.1, f.2))

theorem smul_neutral : ∀ f n, EdPoint.smul f n ⟨0, 1, 1⟩ = ⟨0, 1, 1⟩
  | 0, _ => rfl
  | f + 1, n => by
    have a : EdPoint.add ⟨0, 1, 1⟩ ⟨0, 1, 1⟩ = ⟨0, 1, 1⟩ := by decide +kernel
    simp only [EdPoint.smul, a, smul_neutral f, ite_self]

theorem smul_zero : ∀ f p, EdPoint.smul f 0 p = ⟨0, 1, 1⟩
  | 0, _ => rfl
  | f + 1, p => by simp [EdPoint.smul, smul_zero f]

/-- The neutral key takes its signature for every message. -/
theorem neutral_verifies (msg : List Byte) : ed448Verify idKey msg idSig = true := by
  have a : edDecode idKey = some ⟨0, 1, 1⟩ := by decide +kernel
  have b : edDecode (idSig.take 57) = some ⟨0, 1, 1⟩ := by decide +kernel
  have c : leNat (idSig.drop 57) = 0 := by decide +kernel
  have d : ¬ (idSig.length ≠ 114 ∨ edL ≤ 0) := by decide +kernel
  have e : EdPoint.add ⟨0, 1, 1⟩ ⟨0, 1, 1⟩ = ⟨0, 1, 1⟩ := by decide +kernel
  unfold ed448Verify
  simp only [a, b, c, smul_neutral, smul_zero, e, if_neg d]
  decide +kernel

theorem art_good {s : State} {t : Option Nat} {b : List Byte} {a : Artefact} (h : artefactOf b = some a)
    (ht : (match t with | some x => a.type != x | none => false) = false) (hf : ¬ (a.format ≠ 1 ∨ keyAllowed a.type a.keyIdx = false))
    (hk : s.artKey a = some idKey) (hs : a.sig = idSig) (hn : ¬ (a.serial ≠ s.sec.serial ∧ (a.serial ≠ 0 ∨ 5 ≤ a.type)))
    (hp : ¬ (a.pairId ≠ s.pairId ∧ a.pairId ≠ 0)) (hu : ¬ s.unexpired a = false) : s.judgeArtefact t b = .good a := by
  simp only [State.judgeArtefact, h]
  rw [show State.artCheck s a (b.take (64 + leField b 4 4)) = none from ?_]
  · cases t with
    | none => rfl
    | some x => simp only [ht] at *; exact if_neg (by simpa using ht)
  · rw [State.artCheck, if_neg hf, hk]
    simp only [hs, neutral_verifies, if_neg hn, if_neg hp, if_neg hu]
    rfl
/-- A record of `n` bytes with fields at byte offsets. -/
def recN (n : Nat) (l : List (Nat × Nat × Nat)) : List Byte :=
  l.foldl (fun b f => b.take f.1 ++ leBytes f.2.1 f.2.2 ++ b.drop (f.1 + f.2.1)) (List.replicate n 0)
/-- A loop slot's record that the engine takes, for output stage 0. -/
def slotRec : List Byte := recN 128 [(0, 1, 1), (2, 2, 1), (8, 2, 0xFFFF), (64, 4, 0x3F800000), (93, 1, 255)]
theorem all_of {α : Type} {p : α → Bool} {l : List α} (h : l.all p = true) : ∀ x ∈ l, p x = true := List.all_eq_true.1 h
/-- A started ring without sweeps, every node present. -/
def rg0 : Ring := { rstate := 2, nodes := List.replicate 128 { presence := 1 } }
/-- Four rings of two positions that this module drives, in ACTIVE with the lease. -/
def rst : State := (({ act with cfg := { act.cfg with ringTable := List.replicate 4 [pos0, pos0] }, slk := { act.slk with rings := List.replicate 4 rg0 } }
  : State).setReg .slkCtrl 0 0 0xF1 |>.setReg .slkPortCtrl 0 0 1 |>.setReg .slkPortCtrl 1 0 1 |>.setReg .slkPortCtrl 2 0 1).setReg .slkPortCtrl 3 0 1

theorem poll_off {s : State} {n : Nat} (h : ((List.range 256).all fun k => k == n || !(s.queue k).poll) = true)
    (hl : s.hq.queues.length = 256) (k : Nat) (hk : k ≠ n) : (s.queue k).poll = false := by
  rcases Nat.lt_or_ge k 256 with g | g
  · have := List.all_eq_true.1 h k (List.mem_range.2 g)
    simpa [hk] using this
  · simp [State.queue, List.getD, List.getElem?_eq_none (hl ▸ g : s.hq.queues.length ≤ k)]

theorem abort_clear {s : State} {ab : Op} {c : Nat}
    (h : ((s.hq.ops ++ s.hq.work).all fun o => o.ring != ab.ring || dCookie o.bytes != c || o.same ab || o.done.isSome) = true)
    (o : Op) (ho : o ∈ s.hq.ops ∨ o ∈ s.hq.work) (hr : o.ring = ab.ring) (hc : dCookie o.bytes = c) : o.same ab = true ∨ o.done ≠ none := by
  have g := List.all_eq_true.1 h o (List.mem_append.2 ho)
  simp only [hr, hc, bne_self_eq_false, Bool.false_or, Bool.or_eq_true] at g
  exact g.imp id fun d e => by simp [e] at d

/-- What `Obligations.StepRunsTheFrontCommand` assumes can be met, clause by clause. -/
theorem test_hyp_StepRunsTheFrontCommand :
    (∃ (c : Instr) (rest : List Instr) (s : State), s.pending = c :: rest) ∧
    (∃ (s : State), s.pending = []) := by
  refine ⟨⟨(.abort (.tag 0)), [.ejectReq], ({ z with pending := [.abort (.tag 0), .ejectReq] } : State), ?_⟩,
    ⟨act, ?_⟩⟩ <;> and_intros <;>
    first | exact (Option.some_get _).symm | decide +kernel | rfl | exact ⟨1, by decide +kernel, by decide +kernel, by decide +kernel⟩ | exact ⟨1, by decide +kernel, by decide +kernel⟩ | exact ⟨0, by decide +kernel, by decide +kernel⟩ | (intros; first | rfl | contradiction | decide +kernel | simp)

/-- What `Obligations.StepKeepsMemoryForm` assumes can be met, clause by clause. -/
theorem test_hyp_StepKeepsMemoryForm :
    ∃ (s : State) (t : State), step s = .next t ∧ s.memOk = true := 
  ⟨({ z with pending := [.ejectReq] } : State), (match step ({ z with pending := [.ejectReq] } : State) with | .next t => t | _ => z),
    ⟨rfl, by decide +kernel⟩⟩

/-- What `Obligations.StepKeepsFenceRule` assumes can be met, clause by clause. -/
theorem test_hyp_StepKeepsFenceRule :
    ∃ (s : State) (t : State), step s = .next t ∧ s.fenceOk = true := 
  ⟨({ z with pending := [.ejectReq] } : State), (match step ({ z with pending := [.ejectReq] } : State) with | .next t => t | _ => z),
    ⟨rfl, by decide +kernel⟩⟩

/-- What `Obligations.StepKeepsFusesAndFloor` assumes can be met, clause by clause. -/
theorem test_hyp_StepKeepsFusesAndFloor :
    ∃ (s : State) (t : State), step s = .next t := 
  ⟨({ z with pending := [.ejectReq] } : State), (match step ({ z with pending := [.ejectReq] } : State) with | .next t => t | _ => z), rfl⟩

/-- What `Obligations.RegisterAccessErrorsAndHoles` assumes can be met, clause by clause. -/
theorem test_hyp_RegisterAccessErrorsAndHoles :
    (∃ (s : State) (q : Requester) (addr : Nat) (size : Nat), 0x40000000 ≤ addr ∧ addr < 0x41000000 ∧ (size ≠ 4 ∨ addr % 4 ≠ 0 ∨ 0x40170000 ≤ addr)) ∧
    (∃ (s : State) (q : Requester) (addr : Nat) (v : Word), 0x40000000 ≤ addr ∧ addr < 0x41000000 ∧ (addr % 4 ≠ 0 ∨ 0x40170000 ≤ addr)) ∧
    (∃ (s : State) (q : Requester) (addr : Nat) (v : Word), 0x40000000 ≤ addr ∧ addr < 0x40160000 ∧ addr % 4 = 0 ∧ q ≠ .debug ∧ findReg addr = none ∧
    inWindow addr = false) := by
  refine ⟨⟨act, c0, 0x40000000, 0, ?_⟩,
    ⟨act, c0, 0x40170000, 0, ?_⟩,
    ⟨act, c0, 0x40000FF8, 0, ?_⟩⟩ <;> and_intros <;>
    first | exact (Option.some_get _).symm | decide +kernel | rfl | exact ⟨1, by decide +kernel, by decide +kernel, by decide +kernel⟩ | exact ⟨1, by decide +kernel, by decide +kernel⟩ | exact ⟨0, by decide +kernel, by decide +kernel⟩ | (intros; first | rfl | contradiction | decide +kernel | simp)

/-- What `Obligations.WideReadsLatchTheirWords` assumes can be met, clause by clause. -/
theorem test_hyp_WideReadsLatchTheirWords :
    (∃ (s : State) (q : Requester), s.dropOldLatches.latched (latchKey .untimed q) (RegName.angNowLo.addr 0 0) = none) ∧
    (∃ (s : State) (q : Requester) (w : Word), s.dropOldLatches.latched (latchKey .untimed q) (RegName.angNowHi.addr 0 0) = some w) ∧
    (∃ (s : State) (q : Requester) (k : Nat), 1 ≤ k ∧ k ≤ 6 ∧ s.dropOldLatches.latched (latchKey .timed q) (RegName.mapWord.addr 0 0) = none) ∧
    (∃ (s : State) (q : Requester) (k : Nat), k ≤ 1 ∧ s.dropOldLatches.latched (latchKey .timed q) (RegName.ptNowNs.addr 0 0) = none) ∧
    (∃ (s : State) (q : Requester) (which : Nat) (k : Nat), which < 3 ∧ k < 4 ∧
    s.dropOldLatches.latched (latchKey .shadow q) ((calReg which).addr 0 0) = none) := by
  refine ⟨⟨act, c0, ?_⟩,
    ⟨({ act with tb := { act.tb with latches := [⟨latchKey .untimed c0, RegName.angNowHi.addr 0 0, 5, none⟩] } }), c0,
    ((({ act with tb := { act.tb with latches := [⟨latchKey .untimed c0, RegName.angNowHi.addr 0 0, 5, none⟩] } }).dropOldLatches.latched (latchKey .untimed c0) (RegName.angNowHi.addr 0 0)).get (by decide +kernel)),
    ?_⟩,
    ⟨act, c0, 1, ?_⟩,
    ⟨act, c0, 1, ?_⟩,
    ⟨act, c0, 2, 3, ?_⟩⟩ <;> and_intros <;>
    first | exact (Option.some_get _).symm | decide +kernel | rfl | exact ⟨1, by decide +kernel, by decide +kernel, by decide +kernel⟩ | exact ⟨1, by decide +kernel, by decide +kernel⟩ | exact ⟨0, by decide +kernel, by decide +kernel⟩ | (intros; first | rfl | contradiction | decide +kernel | simp)

/-- What `Obligations.RegisterWritesObeyAccessCodes` assumes can be met, clause by clause. -/
theorem test_hyp_RegisterWritesObeyAccessCodes :
    (∃ (s : State) (q : Requester) (v : Word), q ≠ .debug) ∧
    (∃ (s : State) (q : Requester) (v : Word), q ≠ .debug ∧ s.lockedFor 0 q = true) ∧
    (∃ (s : State) (q : Requester) (v : Word), q ≠ .debug ∧ s.lockedFor 0 q = false) ∧
    (∃ (s : State) (q : Requester) (v : Word), s.sys.mode = .service ∧ mayWriteRws q = true ∧ 1 ≤ bitsOf v.toNat 16 10 ∧ bitsOf v.toNat 16 10 ≤ 600) ∧
    (∃ (s : State) (q : Requester) (v : Word), s.sys.mode = .service ∧ mayWriteRws q = true ∧ (bitsOf v.toNat 16 10 = 0 ∨ 600 < bitsOf v.toNat 16 10)) := by
  refine ⟨⟨act, c0, 0, ?_⟩,
    ⟨((State.setLock (act) 0 (fun _ => ⟨some c0, 0⟩)).setLock 0 fun _ => ⟨some c0, 0⟩), c0, 0, ?_⟩,
    ⟨act, c0, 0, ?_⟩,
    ⟨({ act with sys := { act.sys with mode := .service } }), c0, 0x10000, ?_⟩,
    ⟨({ act with sys := { act.sys with mode := .service } }), c0, 0, ?_⟩⟩ <;> and_intros <;>
    first | exact (Option.some_get _).symm | decide +kernel | rfl | exact ⟨1, by decide +kernel, by decide +kernel, by decide +kernel⟩ | exact ⟨1, by decide +kernel, by decide +kernel⟩ | exact ⟨0, by decide +kernel, by decide +kernel⟩ | (intros; first | rfl | contradiction | decide +kernel | simp)

/-- What `Obligations.BlockLocksBelongToTheirOpener` assumes can be met, clause by clause. -/
theorem test_hyp_BlockLocksBelongToTheirOpener :
    (∃ (s : State) (q : Requester) (b : Nat), b < 23 ∧ ((q = .host → b ≠ 22)) ∧ s.locks.length = 23 ∧ s.mayOpenLock q = true ∧
    ((s.lockOf b).holder = none ∨ s.lockedFor b q = true)) ∧
    (∃ (s : State) (q : Requester) (b : Nat) (key : Nat), b < 23 ∧ ((q = .host → b ≠ 22)) ∧ q ≠ .debug ∧ key < 2 ^ 16 ∧
    (key ≠ 0x6B0C ∨ s.mayOpenLock q = false ∨ ((s.lockOf b).holder ≠ none ∧ s.lockedFor b q = false))) ∧
    (∃ (s : State) (q : Requester) (b : Nat), b < 23 ∧ ((q = .host → b ≠ 22)) ∧ q ≠ .debug ∧ s.lockedFor b q = true) ∧
    (∃ (s : State) (q : Requester) (b : Nat), b < 23 ∧ ((q = .host → b ≠ 22)) ∧ q ≠ .debug ∧ s.lockedFor b q = false) ∧
    (∃ (s : State) (b : Nat) (key : Nat), b < 23 ∧ s.sys.mode ≠ .service ∧ s.sys.mode ≠ .quarantine) ∧
    (∃ (s : State) (b : Nat), (s.lockOf b).holder ≠ none ∧ (s.lockOf b).since + 10000000 ≤ s.tb.csr) := by
  refine ⟨⟨act, c0, 22, ?_⟩,
    ⟨act, c0, 22, 0, ?_⟩,
    ⟨((State.setLock (act) 22 (fun _ => ⟨some c0, 0⟩)).setLock 22 fun _ => ⟨some c0, 0⟩), c0, 22, ?_⟩,
    ⟨act, c0, 22, ?_⟩,
    ⟨act, 22, 0, ?_⟩,
    ⟨(({ act with tb := { act.tb with csr := 10000000 } }).setLock 0 fun _ => ⟨some c0, 0⟩), 0, ?_⟩⟩ <;> and_intros <;>
    first | exact (Option.some_get _).symm | decide +kernel | rfl | exact ⟨1, by decide +kernel, by decide +kernel, by decide +kernel⟩ | exact ⟨1, by decide +kernel, by decide +kernel⟩ | exact ⟨0, by decide +kernel, by decide +kernel⟩ | (intros; first | rfl | contradiction | decide +kernel | simp)

/-- What `Obligations.LongOperationStepsAreCounted` assumes can be met, clause by clause. -/
theorem test_hyp_LongOperationStepsAreCounted :
    (∃ (s : State) (t : Nat) (total : Nat) (op : Op), s.opOf (.tag t) = some op ∧ op.long = true ∧ op.jsn = none ∧ dProgress op.bytes = false ∧
    op.engine ≠ 7 ∧ op.engine ≠ 8 ∧ op.engine ≠ 10) ∧
    (∃ (s : State) (t : Nat) (total : Nat) (p : Nat) (a : Nat) (n : Nat) (op : Op), s.opOf (.tag t) = some op ∧ op.long = true ∧ op.jsn = none ∧
    dProgress op.bytes = false ∧ op.engine = 7 ∧ dOpcode op.bytes = 0x11 ∧ nvsArgs op = (p, a, n) ∧ nvsRefusal op 1 (some 16384) = none ∧
    s.notErased op = false ∧ op.steps < n) ∧
    (∃ (s : State) (j : Nat) (total : Nat) (op : Op), s.opOf (.jsn j) = some op ∧ op.long = true ∧ op.jsn = some j ∧ op.engine ≠ 7 ∧ op.engine ≠ 8 ∧
    op.engine ≠ 10 ∧ s.authoritative = true) ∧
    (∃ (s : State) (n : Nat), n < 512 ∧ n < s.loop.slots.length ∧ (s.slot n).enabled = true ∧ (s.slot n).staleM = false ∧
    s.freshSource (slSrc (s.slot n).record 0) (slAge (s.slot n).record 0) (recF (s.slot n).record 72) s.tb.ang = none) := by
  refine ⟨⟨({ act with hq := { act.hq with ops := [({ mkOp 0 0 [] with long := true })] } }), 0, 0, ({ mkOp 0 0 [] with long := true }), ?_⟩,
    ⟨({ act with hq := { act.hq with ops := [({ mkOp 7 0x11 [(48, 1, 5), (52, 4, 0), (56, 4, 1), (28, 4, 16384)] with long := true })] } }), 0, 0, 5,
    0, 1, ({ mkOp 7 0x11 [(48, 1, 5), (52, 4, 0), (56, 4, 1), (28, 4, 16384)] with long := true }), ?_⟩,
    ⟨(({ act with hq := { act.hq with work := [({ mkOp 0 0 [] with long := true, jsn := some 1 })] } }).setSlot 511 fun x => { x with enabled := true, record := desc [(12, 4, 2 * 2 ^ 28)] }),
    1, 0, ({ mkOp 0 0 [] with long := true, jsn := some 1 }), ?_⟩,
    ⟨((State.setSlot (act) 511 fun x => { x with enabled := true, staleM := false }).setSlot 511 fun x => { x with enabled := true, record := desc [(12, 4, 2 * 2 ^ 28)] }),
    511,
    by and_intros <;> first | decide +kernel | rfl | exact ⟨1, by decide +kernel, by decide +kernel, by decide +kernel⟩ | exact ⟨1, by decide +kernel, by decide +kernel⟩⟩⟩ <;> and_intros <;>
    first | exact (Option.some_get _).symm | decide +kernel | rfl | exact ⟨1, by decide +kernel, by decide +kernel, by decide +kernel⟩ | exact ⟨1, by decide +kernel, by decide +kernel⟩ | exact ⟨0, by decide +kernel, by decide +kernel⟩ | (intros; first | rfl | contradiction | decide +kernel | simp)

/-- What `Obligations.UnitsAreLostAndRestored` assumes can be met, clause by clause. -/
theorem test_hyp_UnitsAreLostAndRestored :
    (∃ (s : State) (u : UnitId), u ≠ .holdup ∧ ((∀ k, u ≠ .corePair k)) ∧ s.unitUp u.bit = true ∧ s.sys.mode ≠ .active ∧
    controlLost (s.sys.unitHealth ||| 2 ^ u.bit) true = false) ∧
    (∃ (s : State) (k : Nat), k < 4 ∧ s.unitUp k = true ∧ s.sys.mode ≠ .active ∧ s.core.svcPair ≠ k ∧
    controlLost (s.sys.unitHealth ||| 2 ^ k) true = false) ∧
    (∃ (s : State) (k : Nat), k < 4 ∧ s.unitUp k = true ∧ s.sys.mode = .standby ∧ s.core.svcPair ≠ k ∧ s.sys.restartPend = none ∧
    controlLost (s.sys.unitHealth ||| 2 ^ k) true = true) ∧
    (∃ (s : State) (u : UnitId), u ≠ .holdup ∧ u ≠ .nand ∧ ((∀ k, u ≠ .corePair k)) ∧ s.unitUp u.bit = false) ∧
    (∃ (s : State) (k : Nat), k < 4 ∧ s.unitUp k = false ∧ (s.pair k).state ≠ 3) ∧
    (∃ (s : State) (k : Nat), k < 4 ∧ s.unitUp k = false ∧ (s.pair k).state = 3) := by
  refine ⟨⟨({ act with sys := { act.sys with unitHealth := 0, mode := .standby } }), (UnitId.wbLane 1), ?_⟩,
    ⟨({ act with sys := { act.sys with unitHealth := 0, mode := .standby } }), 3, ?_⟩,
    ⟨({ act with sys := { act.sys with unitHealth := 7, mode := .standby, restartPend := none } }), 3, ?_⟩,
    ⟨({ act with sys := { act.sys with unitHealth := 2 ^ ((UnitId.wbLane 1).bit) } }), (UnitId.wbLane 1), ?_⟩,
    ⟨({ act with sys := { act.sys with unitHealth := 2 ^ (3) } }), 3, ?_⟩,
    ⟨(State.setPair ({ act with sys := { act.sys with unitHealth := 2 ^ (3) } }) 3 fun x => { x with state := 3 }), 3, ?_⟩⟩ <;> and_intros <;>
    first | exact (Option.some_get _).symm | decide +kernel | rfl | exact ⟨1, by decide +kernel, by decide +kernel, by decide +kernel⟩ | exact ⟨1, by decide +kernel, by decide +kernel⟩ | exact ⟨0, by decide +kernel, by decide +kernel⟩ | (intros; first | rfl | contradiction | decide +kernel | simp)

/-- What `Obligations.FeedsAndHoldupBank` assumes can be met, clause by clause. -/
theorem test_hyp_FeedsAndHoldupBank :
    (∃ (s : State) (b : Bool) (v : Nat), v < 1800 ∧ (if b then s.pwr.feedBOk else s.pwr.feedAOk) = true) ∧
    (∃ (s : State) (b : Bool) (v : Nat), 1900 < v ∧ v < 4096 ∧ (if b then s.pwr.feedBOk else s.pwr.feedAOk) = false ∧ s.pwr.pf = .idle) ∧
    (∃ (s : State), s.pwr.rideThrough = false ∧ s.pwr.pf = .idle) ∧
    (∃ (s : State) (volt : Nat) (cap : Nat), volt < 4096 ∧ cap < 4096 ∧ s.pwr.rideThrough = false ∧ s.pwr.pf = .idle ∧ s.pwr.charging = true ∧
    s.sys.restartPend = none) ∧
    (∃ (s : State) (volt : Nat), s.pwr.holdupOk = true ∧ volt < 4096 ∧ (volt < 3800 ∨ s.pwr.bankCap < 540) ∧ s.sys.mode = .standby ∧
    controlLost (s.sys.unitHealth ||| 2 ^ 22) true = false) ∧
    (∃ (s : State) (volt : Nat), s.pwr.holdupOk = true ∧ volt < 4096 ∧ (volt < 3800 ∨ s.pwr.bankCap < 540) ∧ holdupModes s.sys.mode = false) ∧
    (∃ (s : State) (volt : Nat), s.pwr.holdupOk = false ∧ volt < 4096 ∧ 3800 ≤ volt ∧ 540 ≤ s.pwr.bankCap ∧ s.unitUp 22 = false) ∧
    (∃ (s : State) (volt : Nat), volt < 4096 ∧ (s.pwr.holdupOk = true ↔ 3800 ≤ volt ∧ 540 ≤ s.pwr.bankCap)) ∧
    (∃ (s : State) (dip : Nat), s.pwr.rideThrough = true ∧ s.pwr.pf = .idle) := by
  refine ⟨⟨({ act with pwr := { act.pwr with feedAOk := true, feedBOk := true } }), false, 1799, ?_⟩,
    ⟨({ act with pwr := { act.pwr with pf := .idle } }), false, 1901, ?_⟩,
    ⟨({ act with pwr := { act.pwr with rideThrough := false, pf := .idle } }), ?_⟩,
    ⟨({ act with pwr := { act.pwr with rideThrough := false, pf := .idle, charging := true }, sys := { act.sys with restartPend := none } }), 4095,
    4095, ?_⟩,
    ⟨({ act with pwr := { act.pwr with holdupOk := true }, sys := { act.sys with mode := .standby } }), 4095, ?_⟩,
    ⟨({ act with pwr := { act.pwr with holdupOk := true }, sys := { act.sys with mode := .service } }), 4095, ?_⟩,
    ⟨({ act with pwr := { act.pwr with holdupOk := false, bankCap := 540 }, sys := { act.sys with unitHealth := 2 ^ (22) } }), 4095, ?_⟩,
    ⟨({ act with pwr := { act.pwr with holdupOk := true ↔ 3800 ≤ 4095, bankCap := 540 } }), 4095, ?_⟩,
    ⟨({ act with pwr := { act.pwr with rideThrough := true, pf := .idle } }), 0, ?_⟩⟩ <;> and_intros <;>
    first | exact (Option.some_get _).symm | decide +kernel | rfl | exact ⟨1, by decide +kernel, by decide +kernel, by decide +kernel⟩ | exact ⟨1, by decide +kernel, by decide +kernel⟩ | exact ⟨0, by decide +kernel, by decide +kernel⟩ | (intros; first | rfl | contradiction | decide +kernel | simp)

/-- What `Obligations.PowerFailAndInsertion` assumes can be met, clause by clause. -/
theorem test_hyp_PowerFailAndInsertion :
    (∃ (s : State) (dip : Nat), s.pwr.rideThrough = true ∧ s.pwr.pf = .idle) ∧
    (∃ (s : State), s.sys.mode ≠ .service ∧ s.sys.mode ≠ .quarantine ∧ s.pwr.pf = .idle) ∧
    (∃ (s : State), (s.sys.mode = .service ∨ s.sys.mode = .quarantine)) ∧
    (∃ (s : State), s.pwr.pf = .declared ∧ (s.pwr.feedReturned = false ∨ s.canRestart = false)) ∧
    (∃ (s : State), s.pwr.pf = .declared ∧ s.pwr.feedReturned = true ∧ s.canRestart = true) ∧
    (∃ (s : State) (mv : Nat), s.pwr.seated = false ∧ s.pwr.pf ≠ .declared) ∧
    (∃ (s : State) (a : Bool) (b : Bool) (c : Nat), s.sys.mode = .inserted ∧ s.pwr.strapsRead = false ∧ s.pwr.pullOk = false ∧ a ≠ b ∧ c < 256) ∧
    (∃ (s : State) (a : Bool) (b : Bool) (c : Nat), s.sys.mode = .inserted ∧ s.pwr.strapsRead = false ∧ s.pwr.pullOk = true ∧ a ≠ b ∧ c < 256) ∧
    (∃ (s : State) (a : Bool) (c : Nat), s.sys.mode = .inserted ∧ s.pwr.strapsRead = false ∧ s.sys.restartPend = none ∧ s.pwr.ejectReq = false) ∧
    (∃ (s : State) (a : Bool) (b : Bool) (c : Nat), s.pwr.strapsRead = true) := by
  refine ⟨⟨({ act with pwr := { act.pwr with rideThrough := true, pf := .idle } }), 0, ?_⟩,
    ⟨({ act with pwr := { act.pwr with pf := .idle } }), ?_⟩,
    ⟨({ act with sys := { act.sys with mode := .service } }), ?_⟩,
    ⟨({ act with pwr := { act.pwr with pf := .declared, feedReturned := false } }), ?_⟩,
    ⟨({ act with pwr := { act.pwr with pf := .declared, feedReturned := true, seated := true, strapsRead := true, feedAOk := true } }), ?_⟩,
    ⟨({ act with pwr := { act.pwr with seated := false } }), 0, ?_⟩,
    ⟨({ act with sys := { act.sys with mode := .inserted }, pwr := { act.pwr with strapsRead := false, pullOk := false } }), true, false, 255, ?_⟩,
    ⟨({ act with sys := { act.sys with mode := .inserted }, pwr := { act.pwr with strapsRead := false, pullOk := true } }), true, false, 255, ?_⟩,
    ⟨({ act with sys := { act.sys with mode := .inserted, restartPend := none }, pwr := { act.pwr with strapsRead := false, ejectReq := false } }),
    false, 0, ?_⟩,
    ⟨({ act with pwr := { act.pwr with strapsRead := true } }), false, false, 0, ?_⟩⟩ <;> and_intros <;>
    first | exact (Option.some_get _).symm | decide +kernel | rfl | exact ⟨1, by decide +kernel, by decide +kernel, by decide +kernel⟩ | exact ⟨1, by decide +kernel, by decide +kernel⟩ | exact ⟨0, by decide +kernel, by decide +kernel⟩ | (intros; first | rfl | contradiction | decide +kernel | simp)

/-- What `Obligations.LeverAndExtraction` assumes can be met, clause by clause. -/
theorem test_hyp_LeverAndExtraction :
    (∃ (s : State), s.pwr.ejectReq = false ∧ s.sys.mode = .inserted) ∧
    (∃ (s : State), s.pwr.ejectReq = false ∧ (s.sys.mode = .solo ∨ s.sys.mode = .cocoon ∨ s.sys.mode = .safeHold)) ∧
    (∃ (s : State), s.pwr.ejectReq = false ∧ s.sys.mode = .active ∧ s.partnerStandby = true ∧ s.wb.ho = .idle) ∧
    (∃ (s : State), s.pwr.ejectReq = false ∧ (s.sys.mode = .standby ∨ s.sys.mode = .update ∨ s.sys.mode = .sync ∨ s.sys.mode = .quarantine)) ∧
    (∃ (s : State), s.pwr.ejectReq = true ∧ s.pwr.extraction = true ∧ s.sys.mode = .service) ∧
    (∃ (s : State), s.pwr.ejectReq = true ∧ s.pwr.extraction = false) ∧
    (∃ (s : State), s.pwr.ejectReq = true ∧ s.pwr.extraction = true ∧ s.sys.mode = .inserted ∧ s.pwr.strapsRead = false ∧ s.pwr.pf ≠ .flushed) ∧
    (∃ (s : State), s.pwr.ejectReq = true ∧ s.pwr.extraction = true ∧ s.sys.mode ≠ .inserted ∧ (s.sys.mode = .handover ∨ s.wb.ho ≠ .idle)) ∧
    (∃ (s : State), s.pwr.ejectReq = true ∧ s.pwr.extraction = true ∧ s.sys.mode ≠ .handover ∧ s.wb.ho = .idle ∧
    (s.sys.mode ≠ .inserted ∨ (s.pwr.strapsRead = true ∧ s.pwr.pf ≠ .flushed))) := by
  refine ⟨⟨({ act with pwr := { act.pwr with ejectReq := false }, sys := { act.sys with mode := .inserted } }), ?_⟩,
    ⟨({ act with pwr := { act.pwr with ejectReq := false }, sys := { act.sys with mode := .solo } }), ?_⟩,
    ⟨({ act with pwr := { act.pwr with ejectReq := false }, sys := { act.sys with mode := .active }, wb := { act.wb with partner := { act.wb.partner with heard := true, hb := { act.wb.partner.hb with mode := .standby } }, missedHb := 0, ho := .idle } }),
    ?_⟩,
    ⟨({ act with pwr := { act.pwr with ejectReq := false }, sys := { act.sys with mode := .standby } }), ?_⟩,
    ⟨({ act with pwr := { act.pwr with ejectReq := true, extraction := true }, sys := { act.sys with mode := .service } }), ?_⟩,
    ⟨({ act with pwr := { act.pwr with ejectReq := true, extraction := false } }), ?_⟩,
    ⟨({ act with pwr := { act.pwr with ejectReq := true, extraction := true, strapsRead := false }, sys := { act.sys with mode := .inserted } }), ?_⟩,
    ⟨({ act with pwr := { act.pwr with ejectReq := true, extraction := true }, sys := { act.sys with mode := .handover } }), ?_⟩,
    ⟨({ act with pwr := { act.pwr with ejectReq := true, extraction := true }, wb := { act.wb with ho := .idle } }), ?_⟩⟩ <;> and_intros <;>
    first | exact (Option.some_get _).symm | decide +kernel | rfl | exact ⟨1, by decide +kernel, by decide +kernel, by decide +kernel⟩ | exact ⟨1, by decide +kernel, by decide +kernel⟩ | exact ⟨0, by decide +kernel, by decide +kernel⟩ | (intros; first | rfl | contradiction | decide +kernel | simp)

/-- What `Obligations.AngleSourceChanges` assumes can be met, clause by clause. -/
theorem test_hyp_AngleSourceChanges :
    (∃ (s : State) (r : Nat), s.tb.angState ≠ .synth ∧ s.tb.angSrc ≠ 2 ∧ s.tb.lockRate.getD (if s.bit .angCtrl 4 then 600000 else 500000) = r) ∧
    (∃ (s : State) (d : Int) (f : Nat) (freq : Nat), s.tb.angState = .synth ∧ s.tb.lostSrc.isSome ∧ s.fld .angCtrl 2 2 = f ∧ f < 2 ∧
    s.sourceOk f freq = true ∧ s.fld .angCtrl 16 8 ≤ s.tb.synthCycles ∧ -4660 ≤ d ∧ d ≤ 4660) ∧
    (∃ (s : State) (d : Int) (f : Nat) (freq : Nat), s.tb.angState = .synth ∧ s.awaitsSeed = false ∧ s.tb.lostSrc.getD (s.fld .angCtrl 0 2) = f ∧
    f ≠ 2 ∧ s.sourceOk f freq = true ∧ -4660 ≤ d ∧ d ≤ 4660) ∧
    (∃ (s : State) (d : Int) (f : Nat) (freq : Nat), s.tb.lostSrc.getD (s.fld .angCtrl 0 2) = f ∧ s.sourceOk f freq = false) ∧
    (∃ (s : State) (d : Int) (f : Nat) (freq : Nat), s.tb.angState = .synth ∧ s.awaitsSeed = false ∧ s.tb.lostSrc.getD (s.fld .angCtrl 0 2) = f ∧
    f ≠ 2 ∧ s.sourceOk f freq = true ∧ -8388608 ≤ d ∧ d < 8388608 ∧ (4660 < d ∨ d < -4660) ∧ (s.bit .angCtrl 5 = false ∨ d < 0)) ∧
    (∃ (s : State) (d : Nat) (f : Nat) (freq : Nat), s.tb.angState = .synth ∧ s.awaitsSeed = false ∧ s.tb.lostSrc.getD (s.fld .angCtrl 0 2) = f ∧
    f ≠ 2 ∧ s.sourceOk f freq = true ∧ 4660 < d ∧ d < 8388608 ∧ s.bit .angCtrl 5 = true ∧ s.tb.frames = [] ∧
    s.passed false s.tb.ang (s.tb.ang + d) = []) ∧
    (∃ (s : State), s.tb.angState = .acquire ∧ (s.tb.angSrc = 2 ∨ 10 ≤ s.tb.goodCycles)) ∧
    (∃ (s : State), s.tb.angState = .acquire ∧ s.tb.angSrc ≠ 2 ∧ s.tb.goodCycles < 10) ∧
    (∃ (s : State), s.tb.angState = .slew ∧ s.tb.slewRem = 0) ∧
    (∃ (s : State), s.tb.slewRem ≠ 0) ∧
    (∃ (s : State) (q : Requester) (v : Word) (d : Int) (freq : Nat), q ≠ .debug ∧ s.lockedFor 2 q = true ∧ bitOf v.toNat 4 = s.bit .angCtrl 4 ∧
    bitsOf v.toNat 0 2 < 2 ∧ bitsOf v.toNat 0 2 ≠ s.fld .angCtrl 0 2 ∧ s.awaitsSeed = false ∧ s.tb.angState ≠ .acquire ∧
    s.sourceOk (bitsOf v.toNat 0 2) freq = true ∧ 2 ≤ bitsOf v.toNat 8 5 ∧ bitsOf v.toNat 8 5 ≤ 20 ∧ -4660 ≤ d ∧ d ≤ 4660) := by
  refine ⟨⟨({ act with tb := { act.tb with angState := .locked, lockRate := some 600000 } }), 600000, ?_⟩,
    ⟨((State.setFld ({ act with tb := { act.tb with angState := .synth, lostSrc := some 0, synthCycles := 255, svAt := some 0 } }) .angCtrl 0 2 2 (1)).setFld .angCtrl 0 2 2 1),
    4660, 1, 500000, ?_⟩,
    ⟨({ act with tb := { act.tb with angState := .synth } }), (-4660), 0, 400000, ?_⟩,
    ⟨act, 0, 0, 0, ?_⟩,
    ⟨(State.setFld ({ act with tb := { act.tb with angState := .synth } }) .angCtrl 0 5 1 0), (-4661), 0, 720000, ?_⟩,
    ⟨(State.setFld ({ act with tb := { act.tb with angState := .synth, frames := [] } }) .angCtrl 0 5 1 1), 4661, 0, 500000, ?_⟩,
    ⟨({ act with tb := { act.tb with angState := .acquire, angSrc := 2 } }), ?_⟩,
    ⟨({ act with tb := { act.tb with angState := .acquire, goodCycles := 9 } }), ?_⟩,
    ⟨({ act with tb := { act.tb with angState := .slew, slewRem := 0 } }), ?_⟩,
    ⟨({ act with tb := { act.tb with slewRem := -1 } }), ?_⟩,
    ⟨(State.setLock ({ act with tb := { act.tb with angState := .locked, svAt := some 0 } }) 2 (fun _ => ⟨some c0, 0⟩)), c0, 0x201, 4660, 500000, ?_⟩⟩ <;> and_intros <;>
    first | exact (Option.some_get _).symm | decide +kernel | rfl | exact ⟨1, by decide +kernel, by decide +kernel, by decide +kernel⟩ | exact ⟨1, by decide +kernel, by decide +kernel⟩ | exact ⟨0, by decide +kernel, by decide +kernel⟩ | (intros; first | rfl | contradiction | decide +kernel | simp)

/-- What `Obligations.CycleBoundariesAndSeeds` assumes can be met, clause by clause. -/
theorem test_hyp_CycleBoundariesAndSeeds :
    (∃ (s : State), s.tb.ang % countsPerCycle = 0 ∧ s.tb.ang ≠ s.tb.anchor.ang) ∧
    (∃ (s : State) (f : Nat) (e : Int), s.tb.ang % countsPerCycle = 0 ∧ s.tb.ang ≠ s.tb.anchor.ang ∧ s.tb.angState ≠ .synth ∧ s.tb.angSrc ≠ 2 ∧
    (f < 400000 ∨ 720000 < f)) ∧
    (∃ (s : State) (f : Nat) (e : Int), s.tb.ang % countsPerCycle = 0 ∧ s.tb.ang ≠ s.tb.anchor.ang ∧ s.tb.angState ≠ .synth ∧ s.tb.angSrc ≠ 2 ∧
    400000 ≤ f ∧ f ≤ 720000 ∧ s.tb.angState = .locked ∧ -4660 < e ∧ e < 4660) ∧
    (∃ (s : State) (c : Nat), s.sys.mode = .sync) ∧
    (∃ (s : State) (a : Anchor) (age : Nat) (st : Nat), s.fld .angSeed 0 2 = 1 ∧ age ≤ 10000 ∧ s.tb.ptState = .locked ∧ bitsOf st 6 2 = 0 ∧
    s.tb.seeded = false ∧ s.tb.ang / countsPerCycle ≤ s.countBy a - 1 ∧ ((∀ j, journalCycle s.wb.journal = some j → j + 1 ≤ s.countBy a - 1))) ∧
    (∃ (s : State) (j : Nat) (c : Nat) (low : Nat), s.fld .angSeed 0 2 = 2 ∧ s.tb.seeded = false ∧ journalCycle s.wb.journal = some j ∧
    (s.tb.pt.total - tai2000 * 10 ^ 9) * (if s.bit .angCtrl 4 then 60 else 50) / 10 ^ 9 = c ∧ max (s.tb.ang / countsPerCycle) (j + 1) = low ∧ c < low) ∧
    (∃ (s : State) (a : Anchor) (age : Nat) (st : Nat), s.fld .angSeed 0 2 = 1 ∧ s.mapValid = true ∧ bitOf st 9 = true ∧ s.tb.seeded = true ∧
    s.countBy a < s.tb.ang / countsPerCycle + 1) ∧
    (∃ (s : State) (src : SeedFrom), s.sys.mode ≠ .sync) := by
  refine ⟨⟨({ act with tb := { act.tb with ang := countsPerCycle } }), ?_⟩,
    ⟨({ act with tb := { act.tb with ang := countsPerCycle, angState := .locked } }), 399999, 0, ?_⟩,
    ⟨({ act with tb := { act.tb with angState := .locked, ang := countsPerCycle } }), 400000, 4659, ?_⟩,
    ⟨({ act with sys := { act.sys with mode := .sync }, wb := { act.wb with journal := [⟨1, 0, .done 0 0 1 0 0 (9 * countsPerCycle) 0⟩] } }), 0, ?_⟩,
    ⟨(State.setFld ({ act with tb := { act.tb with ptState := .locked, seeded := false } }) .angSeed 0 0 2 (1)), ({} : Anchor), 10000, 0, ?_⟩,
    ⟨(State.setFld ({ act with tb := { act.tb with seeded := false }, wb := { act.wb with journal := [⟨1, 0, .done 0 0 1 0 0 (9 * countsPerCycle) 0⟩] } }) .angSeed 0 0 2 (2)),
    9, 0, 10, ?_⟩,
    ⟨(State.setFld ({ act with tb := { act.tb with seeded := true, ptState := .locked, ang := 5 * countsPerCycle } }) .angSeed 0 0 2 (1)),
    ({} : Anchor), 0, 512, ?_⟩,
    ⟨act, (.partner 7), ?_⟩⟩ <;> and_intros <;>
    first | exact (Option.some_get _).symm | decide +kernel | rfl | exact ⟨1, by decide +kernel, by decide +kernel, by decide +kernel⟩ | exact ⟨1, by decide +kernel, by decide +kernel⟩ | exact ⟨0, by decide +kernel, by decide +kernel⟩ | (intros; first | rfl | contradiction | decide +kernel | simp)

/-- What `Obligations.PlantTimeAndItsMasters` assumes can be met, clause by clause. -/
theorem test_hyp_PlantTimeAndItsMasters :
    (∃ (s : State) (f : PtpForm), (4 ≤ f.port ∨ f.layer2 = false ∨ f.peer = false ∨ f.mgmt = true)) ∧
    (∃ (s : State) (f : PtpForm) (off : Int), s.ptpSupported f = false) ∧
    (∃ (s : State) (f : PtpForm) (m : Nat) (utc : Option Nat), s.ptpSupported f = false) ∧
    (∃ (s : State) (f : PtpForm) (m : Nat), s.ptpSupported f = true ∧ s.tb.master = 255 ∧ m < 255 ∧ s.tb.ptState ≠ .acquire ∧
    s.sec.nonceLost ≠ some {}) ∧
    (∃ (s : State) (f : PtpForm) (u : Nat), s.ptpSupported f = true ∧ s.tb.master < 255) ∧
    (∃ (s : State), s.tb.master ≠ 255 ∧ s.tb.ptState ≠ .freerun) ∧
    (∃ (s : State) (f : PtpForm) (off : Int), s.ptpSupported f = true ∧ s.fld .portCtrl 0 2 f.port = 1 ∧ s.sec.nonceLost ≠ some {} ∧
    s.tb.master ≠ 255 ∧ -100 ≤ off ∧ off ≤ 100 ∧ off.natAbs ≤ s.fld .ptStepThresh 0 32 * 1000 ∧ s.tb.ptState = .acquire) ∧
    (∃ (s : State) (f : PtpForm) (off : Int), s.ptpSupported f = true ∧ s.fld .portCtrl 0 2 f.port ≠ 0 ∧ s.tb.frames = [] ∧ s.tb.master ≠ 255 ∧
    s.bit .ptCtrl 2 = true ∧ 2 ≤ s.tb.ptBad ∧ s.fld .ptStepThresh 0 32 * 1000 < off.natAbs ∧ off < 0 ∧
    s.passed true s.tb.pt.total (s.tb.pt.total + off.natAbs) = [] ∧ s.tb.ptState = .acquire ∧ 10000 < off.natAbs) ∧
    (∃ (s : State) (q : Requester) (v : Word), q ≠ .debug ∧ s.lockedFor 2 q = true ∧ s.softStep < 0 ∧ s.tb.frames = []) := by
  refine ⟨⟨act, ({ port := 4 } : PtpForm), ?_⟩,
    ⟨act, ({ port := 3, mgmt := true } : PtpForm), 0, ?_⟩,
    ⟨act, ({ port := 3, peer := false } : PtpForm), 0, none, ?_⟩,
    ⟨({ act with tb := { act.tb with master := 255 } }), ({ port := 0 } : PtpForm), 254, ?_⟩,
    ⟨({ act with tb := { act.tb with master := 254 } }), ({ port := 0 } : PtpForm), 0, ?_⟩,
    ⟨({ act with tb := { act.tb with master := 0 } }), ?_⟩,
    ⟨(State.setFld ({ act with tb := { act.tb with ptState := .acquire, master := 0 } }) .portCtrl ({ port := 0 } : PtpForm).port 0 2 (1)),
    ({ port := 0 } : PtpForm), (-100), ?_⟩,
    ⟨(((State.setFld ({ act with tb := { act.tb with frames := [], ptBad := 2, ptState := .acquire, master := 0 } }) .ptCtrl 0 2 1 1).setFld .ptCtrl 0 2 1 1).setFld .portCtrl 0 0 2 1),
    ({ port := 0 } : PtpForm), (-99999999999), ?_⟩,
    ⟨((State.setLock ({ act with tb := { act.tb with frames := [] } }) 2 (fun _ => ⟨some c0, 0⟩)).setReg .ptStepSec 0 0 0xFFFFFFFF), c0, 0, ?_⟩⟩ <;> and_intros <;>
    first | exact (Option.some_get _).symm | decide +kernel | rfl | exact ⟨1, by decide +kernel, by decide +kernel, by decide +kernel⟩ | exact ⟨1, by decide +kernel, by decide +kernel⟩ | exact ⟨0, by decide +kernel, by decide +kernel⟩ | (intros; first | rfl | contradiction | decide +kernel | simp)

/-- What `Obligations.AlarmsAndTimedFrames` assumes can be met, clause by clause. -/
theorem test_hyp_AlarmsAndTimedFrames :
    (∃ (s : State) (q : Requester) (n : Nat) (v : Word) (a : AlarmSt), q ≠ .debug ∧ n < 32 ∧ s.tb.alarms[n]? = some a ∧ a.armed = false ∧
    bitOf v.toNat 1 = false ∧ bitOf v.toNat 2 = false ∧ bitOf v.toNat 3 = false ∧ s.tb.ang < (s.almRegs n false).1) ∧
    (∃ (s : State) (q : Requester) (n : Nat) (v : Word) (a : AlarmSt), q ≠ .debug ∧ n < 32 ∧ s.tb.alarms[n]? = some a ∧ a.armed = false ∧
    bitOf v.toNat 1 = false ∧ bitOf v.toNat 2 = false ∧ bitOf v.toNat 3 = false ∧ (s.almRegs n false).1 ≤ s.tb.ang) ∧
    (∃ (s : State) (q : Requester) (n : Nat) (v : Word) (a : AlarmSt), q ≠ .debug ∧ n < 32 ∧ s.tb.alarms[n]? = some a ∧ a.armed = false ∧
    bitOf v.toNat 1 = false ∧ bitOf v.toNat 2 = true ∧ bitOf v.toNat 3 = false ∧ (s.almRegs n false).2 = 0) ∧
    (∃ (s : State) (q : Requester) (n : Nat) (v : Word), q ≠ .debug ∧ n < 32) ∧
    (∃ (s : State) (n : Nat) (a : AlarmSt), n < 32 ∧ s.tb.alarms[n]? = some a ∧ a.armed = true ∧ a.due ≤ s.almClock a.ptBase) ∧
    (∃ (s : State) (d : Nat), s.calDue = some d ∧ d ≤ s.rtc.cal.secs ∧ s.sys.mode ≠ .cocoon) ∧
    (∃ (s : State) (id : Nat) (f : TimedFrame), (s.tb.frames.find? fun g => g.id == id) = some f ∧ f.id = id ∧ f.work = none ∧ f.headed = true ∧
    (s.tb.frames.filter fun g => g.network == f.network && g.prio == f.prio) = [f] ∧ s.gatesOpen f.network f.prio = true ∧
    s.firstOfInstant f = true ∧ f.due ≤ s.almClock f.ptBase ∧ (f.lateAtHead = false ∨ f.latePolicy = true)) ∧
    (∃ (s : State) (id : Nat) (f : TimedFrame) (w : WorkRef) (op : Op), (s.tb.frames.find? fun g => g.id == id) = some f ∧ f.id = id ∧
    f.work = some w ∧ s.frameOp w = some op ∧ s.mayServe op = true ∧ (s.tb.frames.filter fun g => g.network == f.network && g.prio == f.prio) = [f] ∧
    f.headed = false ∧ f.timed = true ∧ f.due < s.almClock f.ptBase ∧ f.latePolicy = false) := by
  refine ⟨⟨(State.setReg (act) .almDueLo 31 0 1), c0, 31, 0, (((State.setReg (act) .almDueLo 31 0 1).tb.alarms[31]?).get (by decide +kernel)), ?_⟩,
    ⟨act, c0, 31, 0, ((act.tb.alarms[31]?).get (by decide +kernel)), ?_⟩,
    ⟨act, c0, 31, 0x4, ((act.tb.alarms[31]?).get (by decide +kernel)), ?_⟩,
    ⟨act, c0, 31, 0, ?_⟩,
    ⟨({ act with tb := { act.tb with alarms := [{ armed := true }] } }), 0,
    ((({ act with tb := { act.tb with alarms := [{ armed := true }] } }).tb.alarms[0]?).get (by decide +kernel)), ?_⟩,
    ⟨((act).setFld .rtcCtrl 0 0 2 1), 0, ?_⟩,
    ⟨({ act with tb := { act.tb with frames := [({ tf0 with ptBase := true, headed := true } : TimedFrame)] } }), 0,
    ({ tf0 with ptBase := true, headed := true } : TimedFrame), ?_⟩,
    ⟨({ act with tb := { act.tb with frames := [({ tf0 with work := some (.tag 0) } : TimedFrame)], ang := 1 }, hq := { act.hq with ops := [mkOp 6 0x10 []] } }),
    0, ({ tf0 with work := some (.tag 0) } : TimedFrame), (.tag 0), (mkOp 6 0x10 []), ?_⟩⟩ <;> and_intros <;>
    first | exact (Option.some_get _).symm | decide +kernel | rfl | exact ⟨1, by decide +kernel, by decide +kernel, by decide +kernel⟩ | exact ⟨1, by decide +kernel, by decide +kernel⟩ | exact ⟨0, by decide +kernel, by decide +kernel⟩ | (intros; first | rfl | contradiction | decide +kernel | simp)

/-- What `Obligations.CalendarAndBackup` assumes can be met, clause by clause. -/
theorem test_hyp_CalendarAndBackup :
    (∃ (s : State) (q : Requester) (v : Word), q ≠ .debug ∧ 1 ≤ bitsOf v.toNat 0 5 ∧ 1 ≤ bitsOf v.toNat 8 4 ∧ bitsOf v.toNat 8 4 ≤ 12 ∧
    bitsOf v.toNat 16 8 ≤ 199) ∧
    (∃ (s : State) (q : Requester) (v : Word) (old : Word), q ≠ .debug ∧ s.rtc.staged = some old ∧ 12 < bitsOf v.toNat 8 4 ∧ 1 ≤ bitsOf v.toNat 0 5 ∧
    bitsOf v.toNat 16 8 ≤ 199) ∧
    (∃ (s : State) (q : Requester) (v : Word) (d : Word), q ≠ .debug ∧ s.rtc.staged = some d ∧ (calOf d.toNat v.toNat).ok = true ∧
    s.bit .rtcCtrl 0 = false) ∧
    (∃ (s : State) (q : Requester) (v : Word) (d : Word), q ≠ .debug ∧ s.rtc.staged = some d ∧ (calOf d.toNat v.toNat).ok = false) ∧
    (∃ (s : State) (k : Nat), s.rtc.tickFrom = some k ∧ s.tb.csr < k + 100000000) ∧
    (∃ (s : State), s.tickEarly = false ∧ s.rtc.cal.sec < 59) ∧
    (∃ (s : State) (c : Cal), s.tickEarly = false ∧ s.rtc.cal = { c with month := 2, day := monthDays c.year 2, hour := 23, min := 59, sec := 59 }) ∧
    (∃ (s : State), s.tickEarly = false ∧ s.rtc.cal = ⟨199, 12, 31, 23, 59, 59⟩) ∧
    (∃ (s : State) (volt : Nat), volt < 4096) ∧
    (∃ (s : State), s.pwr.feedAOk = false ∧ s.pwr.feedBOk = false) ∧
    (∃ (s : State), s.log.taking = true ∧ s.powered 1 = true) ∧
    (∃ (s : State), s.log.taking = false) ∧
    (∃ (s : State), s.log.taking = true ∧ s.powered 1 = true) := by
  refine ⟨⟨act, c0, 0x101, ?_⟩,
    ⟨({ act with rtc := { act.rtc with staged := some 5 } }), c0, 0x0D01, 5, ?_⟩,
    ⟨(State.setFld ({ act with rtc := { act.rtc with staged := some 0x00630201 } }) .rtcCtrl 0 0 1 0), c0, 0x00173B3B, 0x00630201, ?_⟩,
    ⟨({ act with rtc := { act.rtc with staged := some 0 } }), c0, 0, 0, ?_⟩,
    ⟨({ act with rtc := { act.rtc with tickFrom := some 0 } }), 0, ?_⟩,
    ⟨act, ?_⟩,
    ⟨({ act with rtc := { act.rtc with cal := { ({} : Cal) with month := 2, day := monthDays ({} : Cal).year 2, hour := 23, min := 59, sec := 59 } } }),
    ({} : Cal), ?_⟩,
    ⟨({ act with rtc := { act.rtc with cal := ⟨199, 12, 31, 23, 59, 59⟩ } }), ?_⟩,
    ⟨act, 4095, ?_⟩,
    ⟨({ act with pwr := { act.pwr with feedAOk := false, feedBOk := false } }), ?_⟩,
    ⟨({ act with log := { act.log with taking := true } }), ?_⟩,
    ⟨({ act with log := { act.log with taking := false } }), ?_⟩,
    ⟨({ act with log := { act.log with taking := true } }), ?_⟩⟩ <;> and_intros <;>
    first | exact (Option.some_get _).symm | decide +kernel | rfl | exact ⟨1, by decide +kernel, by decide +kernel, by decide +kernel⟩ | exact ⟨1, by decide +kernel, by decide +kernel⟩ | exact ⟨0, by decide +kernel, by decide +kernel⟩ | (intros; first | rfl | contradiction | decide +kernel | simp)

/-- What `Obligations.RingsAreClaimedAndReleased` assumes can be met, clause by clause. -/
theorem test_hyp_RingsAreClaimedAndReleased :
    (∃ (s : State) (q : Requester) (n : Nat) (v : Word), n < s.hq.queues.length ∧ canOwn q = true ∧ (s.queue n).owner = 0 ∧
    (s.queue n).enable = false ∧ bitOf v.toNat 0 = false ∧ hqReserved v.toNat = false ∧ badDurable v.toNat = false) ∧
    (∃ (s : State) (q : Requester) (n : Nat) (v : Word), n < 256 ∧ canOwn q = true ∧ (s.queue n).owner ≠ 0) ∧
    (∃ (s : State) (q : Requester) (n : Nat) (v : Word), canOwn q = true ∧ (s.queue n).owner = q.code ∧ (s.queue n).enable = false ∧
    badDurable v.toNat = false) ∧
    (∃ (s : State) (q : Requester) (n : Nat) (v : Word), n < s.hq.queues.length ∧ canOwn q = true ∧ (s.queue n).owner = q.code ∧
    (s.queue n).enable = false ∧ hqReserved v.toNat = false ∧ badDurable v.toNat = false) ∧
    (∃ (s : State) (q : Requester) (n : Nat) (v : Word), canOwn q = true ∧ badDurable v.toNat = true) ∧
    (∃ (s : State) (q : Requester) (n : Nat) (v : Word), n < 256 ∧ n < s.hq.queues.length ∧ canOwn q = true ∧ (s.queue n).owner = q.code ∧
    (s.queue n).enable = true ∧ hqReserved v.toNat = false ∧ hqSetup (s.queue n) v.toNat = s.queue n ∧ badDurable v.toNat = false) ∧
    (∃ (s : State) (q : Requester) (n : Nat) (v : Word), (s.queue n).owner ≠ q.code) := by
  refine ⟨⟨(State.setQueue (act) 0 fun x => { x with owner := 0, enable := false }), c0, 0, 0, ?_⟩,
    ⟨(State.setQueue (act) 255 fun x => { x with owner := 1 }), c0, 255, 0, ?_⟩,
    ⟨(State.setQueue (act) 0 fun x => { x with owner := c0.code, enable := false }), c0, 0, 0, ?_⟩,
    ⟨(State.setQueue (act) 0 fun x => { x with owner := c0.code, enable := false }), c0, 0, 0, ?_⟩,
    ⟨act, c0, 255, 0x10, ?_⟩,
    ⟨(State.setQueue (act) 255 fun x => { x with owner := c0.code, enable := true }), c0, 255, 0, ?_⟩,
    ⟨act, c0, 0, 0, ?_⟩⟩ <;> and_intros <;>
    first | exact (Option.some_get _).symm | decide +kernel | rfl | exact ⟨1, by decide +kernel, by decide +kernel, by decide +kernel⟩ | exact ⟨1, by decide +kernel, by decide +kernel⟩ | exact ⟨0, by decide +kernel, by decide +kernel⟩ | (intros; first | rfl | contradiction | decide +kernel | simp)

/-- What `Obligations.DoorbellsAndFetching` assumes can be met, clause by clause. -/
theorem test_hyp_DoorbellsAndFetching :
    (∃ (s : State) (q : Requester) (n : Nat) (v : Word), bitOf v.toNat 31 = false ∧ bitsOf v.toNat 0 8 = n ∧ n < s.hq.queues.length ∧
    (s.queue n).enable = true ∧ (s.queue n).owner ≠ 0 ∧ (s.queue n).kind = false ∧
    leField (Memory.readN s.mem (s.doorbellKey n) 12) 4 4 = (s.queue n).gen.toNat ∧
    (BitVec.ofNat 32 (leField (Memory.readN s.mem (s.doorbellKey n) 12) 0 4) - (s.queue n).reported).toNat ≤ (s.queue n).sqSize ∧
    (s.queue n).cqCons = BitVec.ofNat 32 (leField (Memory.readN s.mem (s.doorbellKey n) 12) 8 4)) ∧
    (∃ (s : State) (q : Requester) (n : Nat) (v : Word), bitOf v.toNat 31 = false ∧ bitsOf v.toNat 0 8 = n ∧ n < s.hq.queues.length ∧
    (s.queue n).enable = true ∧ (s.queue n).owner ≠ 0 ∧ (s.queue n).kind = false ∧
    leField (Memory.readN s.mem (s.doorbellKey n) 12) 4 4 = (s.queue n).gen.toNat ∧
    (BitVec.ofNat 32 (leField (Memory.readN s.mem (s.doorbellKey n) 12) 0 4) - (s.queue n).reported).toNat ≤ (s.queue n).sqSize ∧
    (s.queue n).cqCons ≠ BitVec.ofNat 32 (leField (Memory.readN s.mem (s.doorbellKey n) 12) 8 4) ∧ (s.queue n).held = []) ∧
    (∃ (s : State) (q : Requester) (n : Nat) (v : Word), bitOf v.toNat 31 = false ∧ bitsOf v.toNat 0 8 = n ∧ (s.queue n).enable = true ∧
    (s.queue n).owner ≠ 0 ∧ (s.queue n).kind = false ∧ leField (Memory.readN s.mem (s.doorbellKey n) 12) 4 4 = (s.queue n).gen.toNat ∧
    (s.queue n).cqCons = BitVec.ofNat 32 (leField (Memory.readN s.mem (s.doorbellKey n) 12) 8 4) ∧
    (s.queue n).sqSize < (BitVec.ofNat 32 (leField (Memory.readN s.mem (s.doorbellKey n) 12) 0 4) - (s.queue n).reported).toNat) ∧
    (∃ (s : State) (q : Requester) (n : Nat) (v : Word), bitOf v.toNat 31 = false ∧ bitsOf v.toNat 0 8 = n ∧
    leField (Memory.readN s.mem (s.doorbellKey n) 12) 4 4 ≠ (s.queue n).gen.toNat) ∧
    (∃ (s : State) (n : Nat), n < 256 ∧ (s.queue n).poll = true ∧ ((∀ k, k ≠ n → (s.queue k).poll = false)) ∧
    (if (s.queue n).owner = 9 then s.bit .hqCtrl 1 else s.bit .hqCtrl 0) = true) ∧
    (∃ (s : State) (i : Nat) (n : Nat), i < 256 ∧ (s.hq.lastServed + 1 + i) % 256 = n ∧ n < s.hq.queues.length ∧
    ((∀ j, j < i → s.fetchable ((s.hq.lastServed + 1 + j) % 256) = false)) ∧ s.fetchable n = true) ∧
    (∃ (s : State), ((∀ n, n < 256 → s.fetchable n = false))) := by
  refine ⟨⟨(((({ z with mem := cells [(4096 + 16 * 255, 4, 16)] } : State).setReg .dbCoreLo 0 0 4096).setQueue 255 fun x => { x with enable := true, owner := 1 })),
    c0, 255, 255, ?_⟩,
    ⟨(((State.setQueue ({ act with mem := cells [(4096 + 16 * 255, 4, 1), (4096 + 16 * 255 + 4, 4, 0), (4096 + 16 * 255 + 8, 4, 1)] }) 255 fun x => { x with enable := true, kind := false, held := [] }).setReg .dbCoreLo 0 0 4096).setQueue 255 fun x => { x with enable := true, owner := 1 }),
    c0, 255, 255, ?_⟩,
    ⟨(((({ z with mem := cells [(4096 + 16 * 7, 4, 17), (4096 + 16 * 7 + 4, 4, 3)] } : State).setReg .dbCoreLo 0 0 4096).setQueue 7 fun x => { x with enable := true, owner := 1, gen := 3 })),
    c0, 7, 7, ?_⟩,
    ⟨(({ act with mem := cells [(4096 + 16 * 0, 4, 0), (4096 + 16 * 0 + 4, 4, 1), (4096 + 16 * 0 + 8, 4, 0)] }).setReg .dbCoreLo 0 0 4096), c0, 0, 0,
    ?_⟩,
    ⟨(((State.setQueue (act) 0 fun x => { x with poll := true }).setQueue 0 fun x => { x with poll := true, owner := 9 }).setFld .hqCtrl 0 1 1 1), 0,
    by refine ⟨by decide +kernel, by decide +kernel, poll_off (by decide +kernel) (by decide +kernel), by decide +kernel⟩⟩,
    ⟨((act).setQueue 1 fun x => { x with enable := true, owner := 1, prod := 1, sqLog2 := 4, cqLog2 := 4 }), 0, 1,
    by refine ⟨by decide +kernel, by decide +kernel, by decide +kernel, fun j hj => absurd hj (Nat.not_lt_zero j), by decide +kernel⟩⟩,
    ⟨act, ?_⟩⟩ <;> and_intros <;>
    first | exact (Option.some_get _).symm | decide +kernel | rfl | exact ⟨1, by decide +kernel, by decide +kernel, by decide +kernel⟩ | exact ⟨1, by decide +kernel, by decide +kernel⟩ | exact ⟨0, by decide +kernel, by decide +kernel⟩ | (intros; first | rfl | contradiction | decide +kernel | simp)

/-- What `Obligations.DescriptorsAreIssuedInRingOrder` assumes can be met, clause by clause. -/
theorem test_hyp_DescriptorsAreIssuedInRingOrder :
    (∃ (s : State) (n : Nat), n < s.hq.queues.length) ∧
    (∃ (s : State) (n : Nat) (f : Fetched) (fs : List Fetched), (s.queue n).fetched = f :: fs ∧ dFence f.bytes = true ∧
    ((∃ o ∈ s.hq.ops, o.ring = n))) := by
  refine ⟨⟨act, 0, ?_⟩,
    ⟨(State.setQueue ({ act with hq := { act.hq with ops := [mkOp 0 0 []] } }) 0 fun x => { x with fetched := [({ idx := 0, bytes := desc [(1, 1, 1)] })] }),
    0, ({ idx := 0, bytes := desc [(1, 1, 1)] }), [], ?_⟩⟩ <;> and_intros <;>
    first | exact (Option.some_get _).symm | decide +kernel | rfl | exact ⟨1, by decide +kernel, by decide +kernel, by decide +kernel⟩ | exact ⟨1, by decide +kernel, by decide +kernel⟩ | exact ⟨0, by decide +kernel, by decide +kernel⟩ | (intros; first | rfl | contradiction | decide +kernel | simp)

/-- What `Obligations.IssuersWaitForTags` assumes can be met, clause by clause. -/
theorem test_hyp_IssuersWaitForTags :
    (∃ (s : State) (n : Nat) (i : Nat), ownerIssuer (s.queue n).owner = i ∧ 32 ≤ s.tagsOf i ∧ s.sharedFree = false ∧ i ∉ s.hq.tagGiven) ∧
    (∃ (s : State) (n : Nat) (i : Nat) (f : Fetched) (fs : List Fetched), ownerIssuer (s.queue n).owner = i ∧ 32 ≤ s.tagsOf i ∧
    (s.sharedFree = false ∨ s.hq.tagWait ≠ []) ∧ i ∉ s.hq.tagGiven ∧ (s.queue n).fetched = f :: fs ∧ dFence f.bytes = false ∧
    s.sys.mode ≠ .handover ∧ ((s.queue n).durable = false ∨ s.awaitsAccept n (dSubmit f.bytes) = false) ∧ ((∀ e ∈ s.hq.tagWait, e.1 ≠ i))) ∧
    (∃ (l : List (Nat × Nat)) (i : Nat) (t : Nat), ((∀ e ∈ l, e.2 < t))) ∧
    (∃ (s : State) (i : Nat) (t : Nat) (l : List (Nat × Nat)), s.hq.tagWait = (i, t) :: l ∧ s.sharedFree = true) ∧
    (∃ (s : State) (i : Nat), (s.sharedFree = false ∨ (∀ e ∈ s.hq.tagWait.head?, e.1 ≠ i))) := by
  refine ⟨⟨({ act with hq := { act.hq with ops := List.replicate 672 (mkOp 0 0 []) } }), 0,
    (ownerIssuer (({ act with hq := { act.hq with ops := List.replicate 672 (mkOp 0 0 []) } }).queue 0).owner),
    by and_intros <;> first | decide +kernel | rfl | exact ⟨1, by decide +kernel, by decide +kernel, by decide +kernel⟩ | exact ⟨1, by decide +kernel, by decide +kernel⟩⟩,
    ⟨(State.setQueue ({ act with hq := { act.hq with ops := List.replicate 672 (mkOp 0 0 []) } }) 0 fun x => { x with fetched := [({ idx := 0, bytes := desc [] })], durable := false }),
    0,
    (ownerIssuer ((State.setQueue ({ act with hq := { act.hq with ops := List.replicate 672 (mkOp 0 0 []) } }) 0 fun x => { x with fetched := [({ idx := 0, bytes := desc [] })], durable := false }).queue 0).owner),
    ({ idx := 0, bytes := desc [] }), [], ?_⟩,
    ⟨[], 0, 0, ?_⟩,
    ⟨({ act with hq := { act.hq with tagWait := [(31, 0)], ops := List.replicate 32 (mkOp 0 0 []) } }), 31, 0, [], ?_⟩,
    ⟨act, 0, ?_⟩⟩ <;> and_intros <;>
    first | exact (Option.some_get _).symm | decide +kernel | rfl | exact ⟨1, by decide +kernel, by decide +kernel, by decide +kernel⟩ | exact ⟨1, by decide +kernel, by decide +kernel⟩ | exact ⟨0, by decide +kernel, by decide +kernel⟩ | (intros; first | rfl | contradiction | decide +kernel | simp)

/-- What `Obligations.DescriptorsAreJudgedAtIssue` assumes can be met, clause by clause. -/
theorem test_hyp_DescriptorsAreJudgedAtIssue :
    (∃ (s : State) (n : Nat) (f : Fetched) (fs : List Fetched) (u : _), (s.queue n).fetched = f :: fs ∧ dFence f.bytes = false ∧
    ((s.queue n).auth = false ∨ s.sys.mode ≠ .handover) ∧ s.tagFree (ownerIssuer (s.queue n).owner) = true ∧
    ((s.queue n).durable = false ∨ s.awaitsAccept n (dSubmit f.bytes) = false) ∧ u = s.useGrant (ownerIssuer (s.queue n).owner) ∧
    descFormOk f.bytes = false) ∧
    (∃ (s : State) (n : Nat) (f : Fetched) (fs : List Fetched) (u : _), (s.queue n).fetched = f :: fs ∧ dFence f.bytes = false ∧
    ((s.queue n).auth = false ∨ s.sys.mode ≠ .handover) ∧ s.tagFree (ownerIssuer (s.queue n).owner) = true ∧
    ((s.queue n).durable = false ∨ s.awaitsAccept n (dSubmit f.bytes) = false) ∧ u = s.useGrant (ownerIssuer (s.queue n).owner) ∧
    descFormOk f.bytes = true ∧
    (opInfo (s.queue n).engine (dOpcode f.bytes) = none ∨ ringAllows (s.queue n).engine (dOpcode f.bytes) (s.queue n).auth (s.queue n).durable = false)) ∧
    (∃ (s : State) (n : Nat) (f : Fetched) (fs : List Fetched) (u : _), (s.queue n).fetched = f :: fs ∧ dFence f.bytes = false ∧
    ((s.queue n).auth = false ∨ s.sys.mode ≠ .handover) ∧ s.tagFree (ownerIssuer (s.queue n).owner) = true ∧
    ((s.queue n).durable = false ∨ s.awaitsAccept n (dSubmit f.bytes) = false) ∧ u = s.useGrant (ownerIssuer (s.queue n).owner) ∧
    descFormOk f.bytes = true ∧ (opInfo (s.queue n).engine (dOpcode f.bytes)).isSome ∧
    ringAllows (s.queue n).engine (dOpcode f.bytes) (s.queue n).auth (s.queue n).durable = true ∧ progressOk (s.queue n).engine f.bytes = true ∧
    (s.queue n).durable = true ∧ dSubmit f.bytes = 0) ∧
    (∃ (s : State) (n : Nat) (f : Fetched) (fs : List Fetched) (u : _), (s.queue n).fetched = f :: fs ∧ dFence f.bytes = false ∧
    ((s.queue n).auth = false ∨ s.sys.mode ≠ .handover) ∧ s.tagFree (ownerIssuer (s.queue n).owner) = true ∧
    ((s.queue n).durable = false ∨ s.awaitsAccept n (dSubmit f.bytes) = false) ∧ u = s.useGrant (ownerIssuer (s.queue n).owner) ∧
    descFormOk f.bytes = true ∧ (opInfo (s.queue n).engine (dOpcode f.bytes)).isSome ∧
    ringAllows (s.queue n).engine (dOpcode f.bytes) (s.queue n).auth (s.queue n).durable = true ∧ progressOk (s.queue n).engine f.bytes = true ∧
    ((s.queue n).durable = false ∨ dSubmit f.bytes ≠ 0) ∧ (s.queue n).auth = true ∧ s.authoritative = false ∧ s.shadowed n f.bytes = false) ∧
    (∃ (s : State) (n : Nat) (f : Fetched) (fs : List Fetched) (u : _), (s.queue n).fetched = f :: fs ∧ dFence f.bytes = false ∧
    ((s.queue n).auth = false ∨ s.sys.mode ≠ .handover) ∧ s.tagFree (ownerIssuer (s.queue n).owner) = true ∧
    ((s.queue n).durable = false ∨ s.awaitsAccept n (dSubmit f.bytes) = false) ∧ u = s.useGrant (ownerIssuer (s.queue n).owner) ∧
    descFormOk f.bytes = true ∧ (opInfo (s.queue n).engine (dOpcode f.bytes)).isSome ∧
    ringAllows (s.queue n).engine (dOpcode f.bytes) (s.queue n).auth (s.queue n).durable = true ∧ progressOk (s.queue n).engine f.bytes = true ∧
    ((s.queue n).durable = false ∨ dSubmit f.bytes ≠ 0) ∧ (s.queue n).auth = true ∧ s.authoritative = false ∧ s.shadowed n f.bytes = true) ∧
    (∃ (s : State) (n : Nat) (f : Fetched) (fs : List Fetched) (u : _) (m : Nat) (a : Nat) (k : AccKind), (s.queue n).fetched = f :: fs ∧
    dFence f.bytes = false ∧ ((s.queue n).auth = false ∨ s.sys.mode ≠ .handover) ∧ s.tagFree (ownerIssuer (s.queue n).owner) = true ∧
    ((s.queue n).durable = false ∨ s.awaitsAccept n (dSubmit f.bytes) = false) ∧ u = s.useGrant (ownerIssuer (s.queue n).owner) ∧
    descFormOk f.bytes = true ∧ (opInfo (s.queue n).engine (dOpcode f.bytes)).isSome ∧
    ringAllows (s.queue n).engine (dOpcode f.bytes) (s.queue n).auth (s.queue n).durable = true ∧ progressOk (s.queue n).engine f.bytes = true ∧
    ((s.queue n).durable = false ∨ dSubmit f.bytes ≠ 0) ∧ ((s.queue n).auth = false ∨ s.authoritative = true) ∧
    s.descRefused (s.queue n).owner (s.queue n).engine f.bytes (s.queue n).durable = some (m, a, k)) ∧
    (∃ (s : State) (n : Nat) (f : Fetched) (fs : List Fetched) (u : _), (s.queue n).fetched = f :: fs ∧ dFence f.bytes = false ∧
    ((s.queue n).auth = false ∨ s.sys.mode ≠ .handover) ∧ s.tagFree (ownerIssuer (s.queue n).owner) = true ∧
    ((s.queue n).durable = false ∨ s.awaitsAccept n (dSubmit f.bytes) = false) ∧ u = s.useGrant (ownerIssuer (s.queue n).owner) ∧
    descFormOk f.bytes = true ∧ (opInfo (s.queue n).engine (dOpcode f.bytes)).isSome ∧
    ringAllows (s.queue n).engine (dOpcode f.bytes) (s.queue n).auth (s.queue n).durable = true ∧ progressOk (s.queue n).engine f.bytes = true ∧
    ((s.queue n).durable = false ∨ dSubmit f.bytes ≠ 0) ∧ ((s.queue n).auth = false ∨ s.authoritative = true) ∧
    s.descRefused (s.queue n).owner (s.queue n).engine f.bytes (s.queue n).durable = none ∧ (s.queue n).durable = false) ∧
    (∃ (s : State) (n : Nat) (f : Fetched) (fs : List Fetched) (u : _) (d : _), (s.queue n).fetched = f :: fs ∧ dFence f.bytes = false ∧
    ((s.queue n).auth = false ∨ s.sys.mode ≠ .handover) ∧ s.tagFree (ownerIssuer (s.queue n).owner) = true ∧
    ((s.queue n).durable = false ∨ s.awaitsAccept n (dSubmit f.bytes) = false) ∧ u = s.useGrant (ownerIssuer (s.queue n).owner) ∧
    descFormOk f.bytes = true ∧ (opInfo (s.queue n).engine (dOpcode f.bytes)).isSome ∧
    ringAllows (s.queue n).engine (dOpcode f.bytes) (s.queue n).auth (s.queue n).durable = true ∧ progressOk (s.queue n).engine f.bytes = true ∧
    ((s.queue n).durable = false ∨ dSubmit f.bytes ≠ 0) ∧ ((s.queue n).auth = false ∨ s.authoritative = true) ∧
    s.descRefused (s.queue n).owner (s.queue n).engine f.bytes (s.queue n).durable = none ∧ (s.queue n).durable = true ∧
    assocGet (s.queue n).submitted (dSubmit f.bytes) = some d) ∧
    (∃ (s : State) (n : Nat) (f : Fetched) (fs : List Fetched) (u : _), (s.queue n).fetched = f :: fs ∧ dFence f.bytes = false ∧
    ((s.queue n).auth = false ∨ s.sys.mode ≠ .handover) ∧ s.tagFree (ownerIssuer (s.queue n).owner) = true ∧
    ((s.queue n).durable = false ∨ s.awaitsAccept n (dSubmit f.bytes) = false) ∧ u = s.useGrant (ownerIssuer (s.queue n).owner) ∧
    descFormOk f.bytes = true ∧ (opInfo (s.queue n).engine (dOpcode f.bytes)).isSome ∧
    ringAllows (s.queue n).engine (dOpcode f.bytes) (s.queue n).auth (s.queue n).durable = true ∧ progressOk (s.queue n).engine f.bytes = true ∧
    ((s.queue n).durable = false ∨ dSubmit f.bytes ≠ 0) ∧ ((s.queue n).auth = false ∨ s.authoritative = true) ∧
    s.descRefused (s.queue n).owner (s.queue n).engine f.bytes (s.queue n).durable = none ∧ (s.queue n).durable = true ∧
    assocGet (s.queue n).submitted (dSubmit f.bytes) = none ∧ (s.queue n).submitted ≠ [] ∧ dSubmit f.bytes < (s.queue n).lowestSubmit) ∧
    (∃ (s : State) (n : Nat) (f : Fetched) (fs : List Fetched), (s.queue n).fetched = f :: fs ∧ (s.queue n).auth = true ∧ s.sys.mode = .handover) ∧
    (∃ (s : State) (n : Nat) (f : Fetched) (fs : List Fetched), (s.queue n).fetched = f :: fs ∧ (s.queue n).durable = true ∧
    s.awaitsAccept n (dSubmit f.bytes) = true) := by
  refine ⟨⟨(State.setQueue (act) 0 fun x => { x with fetched := [(⟨0, [], none, false⟩ : Fetched)], auth := false, durable := false }), 0,
    (⟨0, [], none, false⟩ : Fetched), [],
    ((State.setQueue (act) 0 fun x => { x with fetched := [(⟨0, [], none, false⟩ : Fetched)], auth := false, durable := false }).useGrant (ownerIssuer ((State.setQueue (act) 0 fun x => { x with fetched := [(⟨0, [], none, false⟩ : Fetched)], auth := false, durable := false }).queue 0).owner)),
    ?_⟩,
    ⟨(State.setQueue (act) 0 fun x => { x with fetched := [({ idx := 0, bytes := desc [(0, 1, 0xEE)] })], auth := false, durable := false }), 0,
    ({ idx := 0, bytes := desc [(0, 1, 0xEE)] }), [],
    ((State.setQueue (act) 0 fun x => { x with fetched := [({ idx := 0, bytes := desc [(0, 1, 0xEE)] })], auth := false, durable := false }).useGrant (ownerIssuer ((State.setQueue (act) 0 fun x => { x with fetched := [({ idx := 0, bytes := desc [(0, 1, 0xEE)] })], auth := false, durable := false }).queue 0).owner)),
    ?_⟩,
    ⟨(State.setQueue (act) 0 fun x => { x with fetched := [({ idx := 0, bytes := desc [(8, 8, 0)] })], auth := false, durable := true }), 0,
    ({ idx := 0, bytes := desc [(8, 8, 0)] }), [],
    ((State.setQueue (act) 0 fun x => { x with fetched := [({ idx := 0, bytes := desc [(8, 8, 0)] })], auth := false, durable := true }).useGrant (ownerIssuer ((State.setQueue (act) 0 fun x => { x with fetched := [({ idx := 0, bytes := desc [(8, 8, 0)] })], auth := false, durable := true }).queue 0).owner)),
    ?_⟩,
    ⟨(State.setQueue ({ act with sys := { act.sys with mode := .service } }) 0 fun x => { x with fetched := [({ idx := 0, bytes := desc [] })], auth := true, durable := false }),
    0, ({ idx := 0, bytes := desc [] }), [],
    ((State.setQueue ({ act with sys := { act.sys with mode := .service } }) 0 fun x => { x with fetched := [({ idx := 0, bytes := desc [] })], auth := true, durable := false }).useGrant (ownerIssuer ((State.setQueue ({ act with sys := { act.sys with mode := .service } }) 0 fun x => { x with fetched := [({ idx := 0, bytes := desc [] })], auth := true, durable := false }).queue 0).owner)),
    ?_⟩,
    ⟨(State.setQueue ({ act with sys := { act.sys with mode := .standby } }) 0 fun x => { x with fetched := [({ idx := 0, bytes := desc [(8, 8, 7)] })], auth := true, durable := false, owner := 1 }),
    0, ({ idx := 0, bytes := desc [(8, 8, 7)] }), [],
    ((State.setQueue ({ act with sys := { act.sys with mode := .standby } }) 0 fun x => { x with fetched := [({ idx := 0, bytes := desc [(8, 8, 7)] })], auth := true, durable := false, owner := 1 }).useGrant (ownerIssuer ((State.setQueue ({ act with sys := { act.sys with mode := .standby } }) 0 fun x => { x with fetched := [({ idx := 0, bytes := desc [(8, 8, 7)] })], auth := true, durable := false, owner := 1 }).queue 0).owner)),
    ?_⟩,
    ⟨(State.setQueue (act) 0 fun x => { x with fetched := [({ idx := 0, bytes := desc [(0, 1, 2), (28, 4, 4)] })], auth := false, durable := false }),
    0, ({ idx := 0, bytes := desc [(0, 1, 2), (28, 4, 4)] }), [],
    ((State.setQueue (act) 0 fun x => { x with fetched := [({ idx := 0, bytes := desc [(0, 1, 2), (28, 4, 4)] })], auth := false, durable := false }).useGrant (ownerIssuer ((State.setQueue (act) 0 fun x => { x with fetched := [({ idx := 0, bytes := desc [(0, 1, 2), (28, 4, 4)] })], auth := false, durable := false }).queue 0).owner)),
    8, 0, AccKind.store, ?_⟩,
    ⟨(State.setQueue (act) 0 fun x => { x with fetched := [({ idx := 0, bytes := desc [] })], auth := false, durable := false }), 0,
    ({ idx := 0, bytes := desc [] }), [],
    ((State.setQueue (act) 0 fun x => { x with fetched := [({ idx := 0, bytes := desc [] })], auth := false, durable := false }).useGrant (ownerIssuer ((State.setQueue (act) 0 fun x => { x with fetched := [({ idx := 0, bytes := desc [] })], auth := false, durable := false }).queue 0).owner)),
    ?_⟩,
    ⟨(State.setQueue (act) 0 fun x => { x with fetched := [({ idx := 0, bytes := desc [(8, 8, 3)] })], auth := false, durable := true, submitted := [(3, [])] }),
    0, ({ idx := 0, bytes := desc [(8, 8, 3)] }), [],
    ((State.setQueue (act) 0 fun x => { x with fetched := [({ idx := 0, bytes := desc [(8, 8, 3)] })], auth := false, durable := true, submitted := [(3, [])] }).useGrant (ownerIssuer ((State.setQueue (act) 0 fun x => { x with fetched := [({ idx := 0, bytes := desc [(8, 8, 3)] })], auth := false, durable := true, submitted := [(3, [])] }).queue 0).owner)),
    ([] : List Byte), ?_⟩,
    ⟨(State.setQueue (act) 0 fun x => { x with fetched := [({ idx := 0, bytes := desc [(8, 8, 2)] })], auth := false, durable := true, submitted := [(3, [])], lowestSubmit := 3 }),
    0, ({ idx := 0, bytes := desc [(8, 8, 2)] }), [],
    ((State.setQueue (act) 0 fun x => { x with fetched := [({ idx := 0, bytes := desc [(8, 8, 2)] })], auth := false, durable := true, submitted := [(3, [])], lowestSubmit := 3 }).useGrant (ownerIssuer ((State.setQueue (act) 0 fun x => { x with fetched := [({ idx := 0, bytes := desc [(8, 8, 2)] })], auth := false, durable := true, submitted := [(3, [])], lowestSubmit := 3 }).queue 0).owner)),
    ?_⟩,
    ⟨(State.setQueue ({ act with sys := { act.sys with mode := .handover } }) 0 fun x => { x with fetched := [({ idx := 0, bytes := desc [] })], auth := true }),
    0, ({ idx := 0, bytes := desc [] }), [], ?_⟩,
    ⟨(State.setQueue ({ act with hq := { act.hq with ops := [{ mkOp 0 0 [] with jsn := some 1 }] } }) 0 fun x => { x with fetched := [({ idx := 0, bytes := desc [(8, 8, 0)] })], durable := true }),
    0, ({ idx := 0, bytes := desc [(8, 8, 0)] }), [], ?_⟩⟩ <;> and_intros <;>
    first | exact (Option.some_get _).symm | decide +kernel | rfl | exact ⟨1, by decide +kernel, by decide +kernel, by decide +kernel⟩ | exact ⟨1, by decide +kernel, by decide +kernel⟩ | exact ⟨0, by decide +kernel, by decide +kernel⟩ | (intros; first | rfl | contradiction | decide +kernel | simp)

/-- What `Obligations.CompletionsAreWrittenOnce` assumes can be met, clause by clause. -/
theorem test_hyp_CompletionsAreWrittenOnce :
    (∃ (s : State) (w : WorkRef) (op : Op), s.opOf w = some op ∧ dOpcode op.bytes = 0) ∧
    (∃ (s : State) (tag : Nat) (op : Op) (res : Nat), s.opOf (.tag tag) = some op ∧ op.jsn = none ∧ op.late = false ∧
    opLong op.engine (dOpcode op.bytes) = false ∧ dSubmit op.bytes = 0) ∧
    (∃ (s : State) (j : Nat) (op : Op) (res : Nat), op.jsn = some j ∧ op.late = false ∧ s.authoritative = true) ∧
    (∃ (s : State) (tag : Nat) (n : Nat) (st : Nat) (res : Nat) (o : Op), n < 256 ∧ n < s.hq.queues.length ∧
    (s.hq.ops.find? fun o => o.tag == tag && o.done.isSome) = some o ∧ o.done = some (st, res) ∧ o.ring = n ∧ s.cqFree n ≠ 0 ∧
    ((∀ p ∈ s.hq.ops, p.ring = n → p.done.isSome = true → o.fin ≤ p.fin))) ∧
    (∃ (s : State) (tag : Nat) (n : Nat) (st : Nat) (res : Nat) (o : Op), n < 256 ∧ n < s.hq.queues.length ∧
    (s.hq.ops.find? fun o => o.tag == tag && o.done.isSome) = some o ∧ o.done = some (st, res) ∧ o.ring = n ∧
    (s.cqFree n = 0 ∨ (∃ p ∈ s.hq.ops, p.ring = n ∧ p.done.isSome = true ∧ p.fin < o.fin))) ∧
    (∃ (s : State) (n : Nat) (d : List Byte) (tag : Nat) (st : Nat) (res : Nat) (fl : Nat), n < s.hq.queues.length ∧ s.cqFree n = 0) ∧
    (∃ (s : State) (w : WorkRef) (op : Op), s.timedOp w = some op ∧ op.late = true ∧ dLatePolicy op.bytes = false) ∧
    (∃ (s : State) (w : WorkRef) (op : Op), s.timedOp w = some op ∧ (op.late = false ∨ dLatePolicy op.bytes = true) ∧
    s.clockOf (dPtBase op.bytes) < dTime op.bytes) ∧
    (∃ (s : State) (w : WorkRef) (op : Op), s.timedOp w = some op ∧ (op.late = false ∨ dLatePolicy op.bytes = true) ∧
    dTime op.bytes ≤ s.clockOf (dPtBase op.bytes) ∧
    (op.jsn.isSome = true ∧ s.holds = true ∨ op.jsn = none ∧ ((s.queue op.ring).auth = false ∨ s.authoritative = true ∧ s.sys.mode ≠ .handover))) ∧
    (∃ (s : State) (w : WorkRef) (op : Op), s.timedOp w = some op ∧ (op.late = false ∨ dLatePolicy op.bytes = true) ∧
    dTime op.bytes ≤ s.clockOf (dPtBase op.bytes) ∧
    (op.jsn.isSome = true ∧ s.holds = false ∨ op.jsn = none ∧ (s.queue op.ring).auth = true ∧ s.sys.mode = .handover)) ∧
    (∃ (s : State) (w : WorkRef) (op : Op), s.timedOp w = some op ∧ (op.late = false ∨ dLatePolicy op.bytes = true) ∧
    dTime op.bytes ≤ s.clockOf (dPtBase op.bytes) ∧ op.jsn = none ∧ (s.queue op.ring).auth = true ∧ s.authoritative = false ∧ s.sys.mode ≠ .handover) ∧
    (∃ (s : State) (w : WorkRef) (ab : Op), s.opOf w = some ab ∧ dOpcode ab.bytes = 1 ∧
    ((∀ o, (o ∈ s.hq.ops ∨ o ∈ s.hq.work) → o.ring = ab.ring → dCookie o.bytes = dInline ab.bytes 0 4 → o.same ab = true ∨ o.done ≠ none)) ∧
    ((∀ f ∈ (s.queue ab.ring).fetched, dCookie f.bytes ≠ dInline ab.bytes 0 4))) ∧
    (∃ (s : State) (w : WorkRef) (ab : Op) (f : _), s.opOf w = some ab ∧ dOpcode ab.bytes = 1 ∧
    ((∀ o, (o ∈ s.hq.ops ∨ o ∈ s.hq.work) → o.ring = ab.ring → dCookie o.bytes = dInline ab.bytes 0 4 → o.same ab = true ∨ o.done ≠ none)) ∧
    (s.queue ab.ring).fetched.find? (fun f => dCookie f.bytes == dInline ab.bytes 0 4) = some f) ∧
    (∃ (s : State) (w : WorkRef) (ab : Op) (o : Op), s.opOf w = some ab ∧ dOpcode ab.bytes = 1 ∧
    earliest (s.queue ab.ring).fetchIdx (s.abortOps ab (dInline ab.bytes 0 4)) = some o ∧ (s.upd.work ≠ some (.tag o.tag) ∨ o.jsn ≠ none)) ∧
    (∃ (s : State) (ring : Nat) (id : Nat) (o : Op), (s.hq.ops.find? fun o => o.shadow && o.ring == ring && dSubmit o.bytes == id) = some o ∧
    (s.queue ring).durable = true ∧ journalDesc s.wb.journal ring id = true ∧ s.cqFree ring ≠ 0) := by
  refine ⟨⟨({ act with hq := { act.hq with ops := [(mkOp 0 0 [])] } }), (.tag 0), (mkOp 0 0 []), ?_⟩,
    ⟨({ act with hq := { act.hq with ops := [({ mkOp 0 0 [(8, 8, 0)] with late := false })] } }), 0, ({ mkOp 0 0 [(8, 8, 0)] with late := false }),
    0, ?_⟩,
    ⟨act, 0, ({ mkOp 0 0 [] with jsn := some 0, late := false }), 0, ?_⟩,
    ⟨({ act with hq := { act.hq with ops := [({ mkOp 0 0 [] with done := some (0, 0), ring := 255 })] } }), 0, 255, 0, 0,
    ({ mkOp 0 0 [] with done := some (0, 0), ring := 255 }), ?_⟩,
    ⟨(({ act with hq := { act.hq with ops := [({ mkOp 0 0 [] with done := some (0, 0), ring := 0 })] } }).setQueue 0 fun x => { x with cqProd := 16 }),
    0, 0, 0, 0, ({ mkOp 0 0 [] with done := some (0, 0), ring := 0 }), ?_⟩,
    ⟨((act).setQueue 255 fun x => { x with cqProd := 16 }), 255, [], 0, 0, 0, 0, ?_⟩,
    ⟨({ act with hq := { act.hq with ops := [({ mkOp 0 0 [] with late := true, waitTime := true })] } }), (.tag 0),
    ({ mkOp 0 0 [] with late := true, waitTime := true }), ?_⟩,
    ⟨({ act with hq := { act.hq with ops := [({ mkOp 0 0 [(16, 8, 1)] with waitTime := true })] } }), (.tag 0),
    ({ mkOp 0 0 [(16, 8, 1)] with waitTime := true }), ?_⟩,
    ⟨(State.setQueue ({ act with hq := { act.hq with ops := [({ mkOp 0 0 [] with waitTime := true })] }, wb := { act.wb with lease := .held } }) ({ mkOp 0 0 [] with waitTime := true }).ring fun x => { x with auth := false }),
    (.tag 0), ({ mkOp 0 0 [] with waitTime := true }), ?_⟩,
    ⟨((State.setQueue ({ act with hq := { act.hq with ops := [({ mkOp 0 0 [] with waitTime := true })] }, wb := { act.wb with lease := .none }, sys := { act.sys with mode := .handover } }) ({ mkOp 0 0 [] with waitTime := true }).ring fun x => { x with auth := true }).setQueue 0 fun x => { x with auth := true }),
    (.tag 0), ({ mkOp 0 0 [] with waitTime := true }), ?_⟩,
    ⟨((State.setQueue ({ act with hq := { act.hq with ops := [({ mkOp 0 0 [] with waitTime := true })] }, sys := { act.sys with mode := .service }, wb := { act.wb with lease := .none } }) ({ mkOp 0 0 [] with waitTime := true }).ring fun x => { x with auth := true }).setQueue 0 fun x => { x with auth := true }),
    (.tag 0), ({ mkOp 0 0 [] with waitTime := true }), ?_⟩,
    ⟨({ act with hq := { act.hq with ops := [mkOp 0 1 [(48, 4, 9)]] } }), (.tag 0), (mkOp 0 1 [(48, 4, 9)]),
    ⟨by decide +kernel, by decide +kernel, abort_clear (by decide +kernel), by decide +kernel⟩⟩,
    ⟨(({ act with hq := { act.hq with ops := [mkOp 0 1 [(48, 4, 9)]] } }).setQueue 0 fun x => { x with fetched := [{ idx := 0, bytes := desc [(4, 4, 9)] }] }),
    (.tag 0), (mkOp 0 1 [(48, 4, 9)]), ({ idx := 0, bytes := desc [(4, 4, 9)] } : Fetched),
    ⟨by decide +kernel, by decide +kernel, abort_clear (by decide +kernel), by decide +kernel⟩⟩,
    ⟨({ act with hq := { act.hq with ops := [mkOp 0 1 [(48, 4, 9)], { mkOp 1 1 [(4, 4, 9)] with tag := 1 }] } }), (.tag 0), (mkOp 0 1 [(48, 4, 9)]),
    ({ mkOp 1 1 [(4, 4, 9)] with tag := 1 }), ?_⟩,
    ⟨(State.setQueue ({ act with hq := { act.hq with ops := [({ mkOp 0 0 [] with shadow := true })] }, wb := { act.wb with journal := [⟨1, 0, .desc 0 0 []⟩] } }) 0 fun x => { x with durable := true }),
    0, 0, ({ mkOp 0 0 [] with shadow := true }), ?_⟩⟩ <;> and_intros <;>
    first | exact (Option.some_get _).symm | decide +kernel | rfl | exact ⟨1, by decide +kernel, by decide +kernel, by decide +kernel⟩ | exact ⟨1, by decide +kernel, by decide +kernel⟩ | exact ⟨0, by decide +kernel, by decide +kernel⟩ | (intros; first | rfl | contradiction | decide +kernel | simp)

/-- What `Obligations.WordQueuesAndPorts` assumes can be met, clause by clause. -/
theorem test_hyp_WordQueuesAndPorts :
    (∃ (s : State) (n : Nat) (type : Nat) (tr : Bool) (b : List Byte), n < s.hq.queues.length ∧ b.length ≤ 65532 ∧ (s.queue n).kind = true ∧
    (s.queue n).enable = true ∧ (s.queue n).roomFor (mkPacket type tr b).words.length = true ∧ (s.queue n).legacyWait = none ∧
    (s.queue n).coalesce = 0) ∧
    (∃ (s : State) (q : Requester) (n : Nat) (w : Word) (x : Queue), (s.queue n).kind = true ∧ (s.queue n).owner = q.code ∧ q ≠ .debug ∧ q.code ≠ 0 ∧
    (s.queue n).pop = some (w, x)) ∧
    (∃ (s : State) (q : Requester) (n : Nat), (s.queue n).kind = true ∧ (s.queue n).owner = q.code ∧ q ≠ .debug ∧ q.code ≠ 0 ∧
    (s.queue n).pop = none ∧ ((s.queue n).legacyPop = false ∨ q = .host)) ∧
    (∃ (s : State) (q : Requester) (n : Nat), q ≠ .debug ∧ (s.queue n).owner ≠ q.code) ∧
    (∃ (s : State) (p : Nat) (h : Bool) (m : Priv) (n : Nat), (s.queue n).kind = true ∧ (s.queue n).legacyPop = true ∧
    (s.queue n).owner = (Requester.core p h m).code ∧ (Requester.core p h m).code < 9 ∧ (s.queue n).pop = none) ∧
    (∃ (s : State) (n : Nat) (q : Requester), (s.queue n).legacyWait = some q ∧ s.tb.csr < (s.queue n).legacyFrom + 100 * s.fld .legacyTmo 0 32) ∧
    (∃ (s : State) (n : Nat) (q : Requester), (s.queue n).legacyWait = some q ∧ (s.queue n).legacyFrom + 100 * s.fld .legacyTmo 0 32 ≤ s.tb.csr) ∧
    (∃ (s : State) (w : WorkRef) (op : Op) (n : Nat), s.opOf w = some op ∧ dOpcode op.bytes = 2 ∧ dInline op.bytes 0 1 = n ∧
    (s.queue n).kind = true ∧ (s.queue n).readable = []) ∧
    (∃ (s : State) (n : Nat), n < 256 ∧ (s.queue n).hasContent = true ∧ (s.queue n).staleUs ≠ 0 ∧
    (s.queue n).quietFrom + 100 * (s.queue n).staleUs ≤ s.tb.csr) ∧
    (∃ (s : State) (n : Nat), ((s.queue n).hasContent = false ∨ s.tb.csr < (s.queue n).quietFrom + 100 * (s.queue n).staleUs)) ∧
    (∃ (s : State) (n : Nat) (p : Nat) (a : Bool) (b : Bool), n < 256 ∧ p < 8 ∧ (s.queue n).fetched = [] ∧ ((∀ o ∈ s.hq.ops, o.unissued n = false)) ∧
    ((s.queue n).durable = false ∨ s.holds = false)) ∧
    (∃ (s : State) (n : Nat) (p : Nat) (a : Bool) (b : Bool), n < 256 ∧ n < s.hq.queues.length) ∧
    (∃ (s : State) (n : Nat) (o : Op), o ∈ s.hq.work ∧ (o.ring ≠ n ∨ o.started = true ∨ o.steps ≠ 0)) ∧
    (∃ (s : State) (n : Nat) (o : Op), o ∈ s.workOf ∧ o.ring = n ∧ ((∀ p ∈ s.hq.ops, p.jsn ≠ o.jsn))) := by
  refine ⟨⟨(State.setQueue (act) 0 fun x => { x with kind := true, enable := true, legacyWait := none, coalesce := 0 }), 0, 0, false, [], ?_⟩,
    ⟨(State.setQueue (act) 0 fun x => { x with kind := true, owner := c0.code, readable := [5] }), c0, 0, 5,
    ({ kind := true, owner := 1, lastWord := 5 } : Queue), ?_⟩,
    ⟨(State.setQueue (act) 0 fun x => { x with kind := true, owner := c0.code, legacyPop := false }), c0, 0, ?_⟩,
    ⟨act, c0, 0, ?_⟩,
    ⟨(State.setQueue (act) 0 fun x => { x with kind := true, legacyPop := true, owner := (Requester.core 0 false .machine).code }), 0, false,
    .machine, 0, ?_⟩,
    ⟨(State.setQueue (act) 0 fun x => { x with legacyWait := some c0 }), 0, c0, ?_⟩,
    ⟨(State.setQueue ({ act with tb := { act.tb with csr := 2000000000 } }) 0 fun x => { x with legacyWait := some c0 }), 0, c0, ?_⟩,
    ⟨(State.setQueue ({ act with hq := { act.hq with ops := [(mkOp 0 2 [(48, 1, 0)])] } }) 0 fun x => { x with kind := true, readable := [], unread := 1, staleUs := 10 }),
    (.tag 0), (mkOp 0 2 [(48, 1, 0)]), 0, ?_⟩,
    ⟨(({ act with tb := { act.tb with csr := 10000 } }).setQueue 255 fun x => { x with fetched := [{ idx := 0, bytes := desc [] }], kind := true, readable := [0] }),
    255, ?_⟩,
    ⟨act, 255, ?_⟩,
    ⟨(State.setQueue (act) 255 fun x => { x with fetched := [], durable := false }), 255, 7, false, false, ?_⟩,
    ⟨act, 255, 0, false, false, ?_⟩,
    ⟨({ act with hq := { act.hq with work := [{ mkOp 0 0 [] with started := true }] } }), 0, ({ mkOp 0 0 [] with started := true }), ?_⟩,
    ⟨({ act with wb := { act.wb with journal := [⟨1, 0, .desc 0 0 (desc [])⟩] } } : State), 0,
    (State.workOf ({ act with wb := { act.wb with journal := [⟨1, 0, .desc 0 0 (desc [])⟩] } } : State) |>.headD (mkOp 0 0 [])), ?_⟩⟩ <;> and_intros <;>
    first | exact (Option.some_get _).symm | decide +kernel | rfl | exact ⟨1, by decide +kernel, by decide +kernel, by decide +kernel⟩ | exact ⟨1, by decide +kernel, by decide +kernel⟩ | exact ⟨0, by decide +kernel, by decide +kernel⟩ | (intros; first | rfl | contradiction | decide +kernel | simp)

/-- What `Obligations.EventsPendAndReachTheirVectors` assumes can be met, clause by clause. -/
theorem test_hyp_EventsPendAndReachTheirVectors :
    (∃ (s : State) (q : Requester) (w : Nat) (v : Word), w < 4) ∧
    (∃ (s : State) (src : Nat) (m : Nat), src < 128 ∧ s.hostVec src = some m ∧ s.isPending src = false ∧ s.vecMasked m = false ∧ s.hostUp = true) ∧
    (∃ (s : State) (src : Nat) (m : Nat), src < 128 ∧ s.hostVec src = some m ∧ s.isPending src = false ∧ s.vecMasked m = true) ∧
    (∃ (s : State) (src : Nat) (m : Nat), src < 128 ∧ s.hostVec src = some m ∧ s.isPending src = false ∧ s.vecMasked m = false ∧ s.hostUp = false) ∧
    (∃ (s : State), s.hostUp = true) ∧
    (∃ (s : State) (src : Nat), s.isPending src = true) ∧
    (∃ (s : State) (q : Requester) (src : Nat) (v : Word), src < 128 ∧ routeReserved (v &&& 0x1FF#32).toNat = true) ∧
    (∃ (s : State) (q : Requester) (src : Nat) (v : Word), src < 128 ∧ routeReserved (v &&& 0x1FF#32).toNat = false) ∧
    (∃ (s : State) (vec : Nat), vec < 32) ∧
    (∃ (s : State) (vec : Nat), vec < 32 ∧ s.hostUp = true ∧ s.bit .evtHostMask vec = false ∧ bitOf s.evt.msixMask.toNat vec = true ∧
    s.anyPending vec = true) ∧
    (∃ (s : State) (q : Requester) (v : Word), s.hostUp = true ∧ s.anyPending (bitsOf v.toNat 0 5) = true ∧ s.vecMasked (bitsOf v.toNat 0 5) = false) ∧
    (∃ (s : State), s.evt.hostLink = false ∧ s.lanesOn = true ∧ ((∀ m, m < 32 → s.anyPending m = false))) ∧
    (∃ (s : State), s.evt.hostLink = true) := by
  refine ⟨⟨act, c0, 3, 0, ?_⟩,
    ⟨((({ act with evt := { act.evt with hostLink := true, msixMask := 0 } }).setFld .evtRoute 127 0 9 0x1F3).setReg .evtHostMask 0 0 0), 127, 31, ?_⟩,
    ⟨((({ act with evt := { act.evt with hostLink := true } }).setFld .evtRoute 127 0 9 0x1F3).setReg .evtHostMask 0 0 0xFFFFFFFF), 127, 31, ?_⟩,
    ⟨((act.setFld .evtRoute 127 0 9 0x1F3).setReg .evtHostMask 0 0 0 : State), 127, 31, ?_⟩,
    ⟨({ act with evt := { act.evt with hostLink := true } }), ?_⟩,
    ⟨({ act with evt := { act.evt with pend := 1 <<< 127 } }), 127, ?_⟩,
    ⟨act, c0, 127, 0x1F1, ?_⟩,
    ⟨(({ act with evt := { act.evt with hostLink := true, pend := 1 <<< 127, msixMask := 0x80000000 } }).setFld .evtRoute 127 0 9 0x1F3), c0, 127, 0,
    ?_⟩,
    ⟨((({ act with evt := { act.evt with hostLink := true, pend := 1 <<< 127 } }).setFld .evtRoute 127 0 9 0x1F3).setReg .evtHostMask 0 0 0), 31, ?_⟩,
    ⟨(((State.setFld ({ act with evt := { act.evt with hostLink := true, msixMask := 0x80000000, pend := 1 <<< 127 } }) .evtHostMask 0 31 1 0).setFld .evtRoute 127 0 9 0x1F3).setReg .evtHostMask 0 0 0),
    31, ?_⟩,
    ⟨((({ act with evt := { act.evt with hostLink := true, pend := 1 <<< 127 } }).setFld .evtRoute 127 0 9 0x1F3).setReg .evtHostMask 0 0 0), c0, 31,
    ?_⟩,
    ⟨({ act with evt := { act.evt with hostLink := false } }), ⟨by decide +kernel, by decide +kernel, by decide +kernel⟩⟩,
    ⟨({ act with evt := { act.evt with hostLink := true } }), ?_⟩⟩ <;> and_intros <;>
    first | exact (Option.some_get _).symm | decide +kernel | rfl | exact ⟨1, by decide +kernel, by decide +kernel, by decide +kernel⟩ | exact ⟨1, by decide +kernel, by decide +kernel⟩ | exact ⟨0, by decide +kernel, by decide +kernel⟩ | (intros; first | rfl | contradiction | decide +kernel | simp)

/-- What `Obligations.EvtNextReadsTheLowestSource` assumes can be met, clause by clause. -/
theorem test_hyp_EvtNextReadsTheLowestSource :
    ∃ (s : State) (q : Requester) (r : RegName) (k : Nat) (v : Nat) (on : Nat → Bool), q ≠ .debug ∧ (r = .evtNextCore ∧ k < 4 ∧ v < 8 ∧
    on = (fun y => s.isPending y && s.bit .evtRoute 0 y && !s.bit .evtRoute 1 y && s.fld .evtRoute 2 2 y == k && s.fld .evtRoute 4 5 y == v) ∨ r = .evtNextHost ∧
    k < 32 ∧ v = 0 ∧ on = (fun y => s.isPending y && s.bit .evtRoute 0 y && s.bit .evtRoute 1 y && s.fld .evtRoute 4 5 y == k)) ∧
    s.dropOldLatches.latched (latchKey .timed q) (r.addr k v) = none := 
  ⟨act, c0, RegName.evtNextHost, 31, 0,
    (fun y => act.isPending y && act.bit .evtRoute 0 y && act.bit .evtRoute 1 y && act.fld .evtRoute 4 5 y == 31),
    by refine ⟨by decide, .inr ⟨rfl, by decide, rfl, rfl⟩, by decide +kernel⟩⟩

/-- What `Obligations.HeartbeatsAndHello` assumes can be met, clause by clause. -/
theorem test_hyp_HeartbeatsAndHello :
    (∃ (s : State), s.wbUp = true) ∧
    (∃ (s : State) (ok : Bool) (g : Nat) (h : HelloBody), (ok = false ∨ s.wbUp = false ∨ g < s.wb.gen)) ∧
    (∃ (s : State) (ok : Bool) (g : Nat) (q : Nat) (m : ManPart), (ok = false ∨ s.wbUp = false ∨ g < s.wb.gen) ∧ m.gen = g) ∧
    (∃ (s : State) (ok : Bool) (g : Nat) (f : FetchOf), (ok = false ∨ s.wbUp = false ∨ g < s.wb.gen)) ∧
    (∃ (s : State) (ok : Bool) (g : Nat) (e : ManEntry) (c : List Byte) (b : Bool), (ok = false ∨ s.wbUp = false ∨ g < s.wb.gen)) ∧
    (∃ (s : State) (ok : Bool) (g : Nat) (c : Nat) (d : List (Nat × List Byte)), (ok = false ∨ s.wbUp = false ∨ g < s.wb.gen)) ∧
    (∃ (s : State) (ok : Bool) (g : Nat) (q : Nat) (b : Bool) (l : List JEntry), (ok = false ∨ s.wbUp = false ∨ g < s.wb.gen)) ∧
    (∃ (s : State) (ok : Bool) (g : Nat) (j : Nat), (ok = false ∨ s.wbUp = false ∨ g < s.wb.gen)) ∧
    (∃ (s : State) (ok : Bool) (g : Nat) (x : Nat), (ok = false ∨ s.wbUp = false ∨ g < s.wb.gen)) ∧
    (∃ (s : State) (ok : Bool) (g : Nat) (x : Nat), (ok = false ∨ s.wbUp = false ∨ g < s.wb.gen)) ∧
    (∃ (s : State) (ok : Bool) (g : Nat) (j : Nat), (ok = false ∨ s.wbUp = false ∨ g < s.wb.gen)) ∧
    (∃ (s : State) (ok : Bool) (g : Nat) (j : Nat), (ok = false ∨ s.wbUp = false ∨ g < s.wb.gen)) ∧
    (∃ (s : State) (ok : Bool) (g : Nat) (m : ResyncMsg), (ok = false ∨ s.wbUp = false ∨ g < s.wb.gen)) ∧
    (∃ (s : State) (ok : Bool) (g : Nat) (b : HalfBody), (ok = false ∨ s.wbUp = false ∨ g < s.wb.gen)) ∧
    (∃ (s : State) (ok : Bool) (g : Nat) (a : Nat) (b : Nat) (c : Nat) (d : Nat) (e : Nat) (f : Nat), (ok = false ∨ s.wbUp = false ∨ g < s.wb.gen)) ∧
    (∃ (s : State) (ok : Bool) (g : Nat), (ok = false ∨ s.wbUp = false ∨ g < s.wb.gen)) ∧
    (∃ (s : State) (g : Nat) (j : Nat), s.wbUp = true ∧ s.wb.gen ≤ g) ∧
    (∃ (s : State) (hb : HbBody), (hb.gen < s.wb.gen ∨ s.lanesOn = false)) ∧
    (∃ (s : State) (hb : HbBody), s.lanesOn = true ∧ s.wb.gen ≤ hb.gen ∧ s.wb.partner.heard = true ∧
    (s.sys.mode = .sync ∨ s.sys.mode = .update ∨ s.sys.mode = .handover ∨ s.sys.mode = .standby ∧ hb.mode ≠ .safeHold ∧ hb.cocoonReq = false ∧ hb.cycle < s.wb.cycle + 2)) ∧
    (∃ (s : State) (hb : HbBody), s.lanesOn = true ∧ s.wb.gen ≤ hb.gen ∧ s.sys.mode = .standby ∧ hb.lease = .held ∧ hb.mode ≠ .safeHold ∧
    hb.cocoonReq = false ∧ s.wb.cycle + 2 ≤ hb.cycle) ∧
    (∃ (s : State) (hb : HbBody), s.lanesOn = true ∧ s.wb.gen ≤ hb.gen ∧ s.sys.mode = .standby ∧ hb.mode = .safeHold ∧ hb.safeHoldCause = 1 ∧
    s.sys.restartPend = none) ∧
    (∃ (s : State), s.wb.partner.heard = true ∧ s.wb.missedHb = 0) ∧
    (∃ (s : State), s.wb.partner.heard = true ∧ s.wb.missedHb = 1 ∧ s.sys.mode = .sync ∧ s.wb.partner.hb.lease = .held) ∧
    (∃ (s : State), s.wb.partner.heard = true ∧ s.wb.missedHb = 1 ∧ s.sys.mode = .standby ∧ s.wb.refReach = true ∧ s.wb.probed = true ∧
    s.wb.gaveConsent = none ∧ s.wb.lease = .none) ∧
    (∃ (s : State), s.wbUp = true) ∧
    (∃ (s : State) (g : Nat) (h : HelloBody), s.wbUp = true ∧ s.wb.gen ≤ g ∧ s.sys.mode ≠ .sync ∧ s.holds = false) ∧
    (∃ (s : State) (g : Nat) (h : HelloBody), s.wbUp = true ∧ s.wb.gen ≤ g ∧ s.sys.mode = .sync ∧
    (h.carrierId ≠ s.pwr.carrierId ∨ helloCompatible s.helloBody h = false)) ∧
    (∃ (s : State) (g : Nat) (h : HelloBody), s.wbUp = true ∧ s.wb.gen ≤ g ∧ s.sys.mode ≠ .sync ∧ s.holds = true ∧ s.partnerMode = some .sync ∧
    h.carrierId ≠ s.pwr.carrierId) := by
  refine ⟨⟨act, ?_⟩,
    ⟨({ act with wb := { act.wb with gen := 1 } }), false, 0, he0, ?_⟩,
    ⟨act, false, 0, 0, ({ mp0 with gen := 0 }), ?_⟩,
    ⟨act, false, 0, (.item me0), ?_⟩,
    ⟨act, false, 0, me0, [], false, ?_⟩,
    ⟨act, false, 0, 0, [], ?_⟩,
    ⟨act, false, 0, 0, false, ([] : List JEntry), ?_⟩,
    ⟨act, false, 0, 0, ?_⟩,
    ⟨act, false, 0, 0, ?_⟩,
    ⟨act, false, 0, 0, ?_⟩,
    ⟨act, false, 0, 0, ?_⟩,
    ⟨act, false, 0, 0, ?_⟩,
    ⟨act, false, 0, (.standby), ?_⟩,
    ⟨act, false, 0, ({ kind := 0, ring := 0 } : HalfBody), ?_⟩,
    ⟨act, false, 0, 0, 0, 0, 0, 0, 0, ?_⟩,
    ⟨act, false, 0, ?_⟩,
    ⟨act, 0, 0, ?_⟩,
    ⟨({ act with wb := { act.wb with gen := 1 } }), hb0, ?_⟩,
    ⟨({ act with wb := { act.wb with partner := { act.wb.partner with heard := true } }, sys := { act.sys with mode := .sync } }),
    ({ hb0 with cocoonReq := false }), ?_⟩,
    ⟨({ act with sys := { act.sys with mode := .standby } }), ({ hb0 with cycle := 2 }), ?_⟩,
    ⟨({ act with sys := { act.sys with mode := .standby, restartPend := none } }), ({ hb0 with mode := .safeHold, safeHoldCause := 1 }), ?_⟩,
    ⟨({ act with wb := { act.wb with partner := { act.wb.partner with heard := true }, missedHb := 0 } }), ?_⟩,
    ⟨({ act with wb := { act.wb with partner := { act.wb.partner with heard := true, hb := { act.wb.partner.hb with lease := .held } }, missedHb := 1 }, sys := { act.sys with mode := .sync } }),
    ?_⟩,
    ⟨({ act with wb := { act.wb with partner := { act.wb.partner with heard := true }, missedHb := 1, refReach := true, probed := true, gaveConsent := none, lease := .none }, sys := { act.sys with mode := .standby } }),
    ?_⟩,
    ⟨act, ?_⟩,
    ⟨({ act with wb := { act.wb with lease := .none } }), 0, he0, ?_⟩,
    ⟨({ act with sys := { act.sys with mode := .sync } }), 0, ({ he0 with carrierId := 1 }), ?_⟩,
    ⟨({ act with wb := { act.wb with lease := .held, partner := { act.wb.partner with heard := true, hb := { act.wb.partner.hb with mode := .sync } }, missedHb := 0 } }),
    0, ({ he0 with carrierId := 1 }), ?_⟩⟩ <;> and_intros <;>
    first | exact (Option.some_get _).symm | decide +kernel | rfl | exact ⟨1, by decide +kernel, by decide +kernel, by decide +kernel⟩ | exact ⟨1, by decide +kernel, by decide +kernel⟩ | exact ⟨0, by decide +kernel, by decide +kernel⟩ | (intros; first | rfl | contradiction | decide +kernel | simp)

/-- What `Obligations.FollowersTakeManifestsAndResync` assumes can be met, clause by clause. -/
theorem test_hyp_FollowersTakeManifestsAndResync :
    (∃ (s : State) (q : Nat) (m : ManPart), s.wbUp = true ∧ s.wb.gen ≤ m.gen ∧ s.follows = false) ∧
    (∃ (s : State) (q : Nat) (m : ManPart), s.wbUp = true ∧ s.follows = true ∧ assocGet s.wb.rxSeq 2 = some q ∧ m.gen = s.wb.gen ∧
    ((∀ e ∈ m.entries, s.hasItem e = true))) ∧
    (∃ (s : State) (q : Nat) (m : ManPart) (e : ManEntry), s.wbUp = true ∧ s.follows = true ∧ assocGet s.wb.rxSeq 2 = none ∧ m.gen = s.wb.gen ∧
    s.tb.ang = m.angle ∧ m.task ≠ 0 ∧ m.entries = [e] ∧ s.hasItem e = false) ∧
    (∃ (s : State) (q : Nat) (m : ManPart), s.wbUp = true ∧ s.follows = true ∧ assocGet s.wb.rxSeq 2 = some q ∧ m.gen = s.wb.gen ∧
    s.tb.ang = m.angle ∧ m.entries = []) ∧
    (∃ (s : State) (e : ManEntry) (c : List Byte), s.holds = true ∧ s.wbUp = true ∧ assocGet s.wb.heldItems e = some c) ∧
    (∃ (s : State) (type : Nat) (seq : Nat) (h : WbHead) (m : WbMsg), s.holds = true ∧ s.wbUp = true ∧ sentMsg s.out type seq = some (h, m)) ∧
    (∃ (s : State) (e : ManEntry) (c : List Byte), s.follows = true ∧ s.wbUp = true) ∧
    (∃ (s : State) (c : Nat) (own : List (Nat × List Byte)) (other : List (Nat × List Byte)), s.wbUp = true ∧ s.follows = true ∧
    assocGet s.wb.digests c = some own ∧ ((∀ d ∈ other, assocGet own d.1 = some d.2)) ∧ s.sys.mode ≠ .sync) ∧
    (∃ (s : State) (c : Nat) (st : Nat) (own : List (Nat × List Byte)) (d : List Byte), s.wbUp = true ∧ s.follows = true ∧
    assocGet s.wb.digests c = some own ∧ assocGet own st ≠ some d ∧ st < 65536 ∧ s.sys.mode = .update ∧ c ∉ s.wb.mismatches) ∧
    (∃ (s : State) (c : Nat) (st : Nat) (a : Nat) (b : Nat) (own : List (Nat × List Byte)) (d : List Byte), s.wbUp = true ∧ s.follows = true ∧
    assocGet s.wb.digests c = some own ∧ assocGet own st ≠ some d ∧ s.sys.mode = .standby ∧ s.wb.resynced = none ∧ s.wb.mismatches = [a, b] ∧ c ≠ a ∧
    c ≠ b ∧ c < a + 100 ∧ c < b + 100) ∧
    (∃ (s : State) (k : Nat) (m : ResyncMsg) (h : _), s.holds = true ∧ s.wbUp = true ∧ s.wb.resyncStep = k ∧ k ≠ 0 ∧ s.resyncMsg k = some m ∧ k = 1 ∧
    s.wb.partner.hello = some h ∧ h.carrierId = s.pwr.carrierId) ∧
    (∃ (s : State) (k : Nat) (m : ResyncMsg), s.holds = true ∧ s.wbUp = true ∧ s.wb.resyncStep = k ∧ k ≠ 0 ∧ s.resyncMsg k = some m ∧ k = 1 ∧
    s.wb.partner.hello = none) ∧
    (∃ (s : State) (k : Nat) (m : ResyncMsg), s.holds = true ∧ s.wbUp = true ∧ s.wb.resyncStep = k ∧ k ≠ 0 ∧ s.resyncMsg k = some m ∧ k ≠ 1 ∧ k ≠ 5 ∧
    k < 7) ∧
    (∃ (s : State) (k : Nat) (m : ResyncMsg), s.holds = true ∧ s.wbUp = true ∧ s.wb.resyncStep = k ∧ k ≠ 0 ∧ s.resyncMsg k = some m ∧ k = 7) ∧
    (∃ (s : State) (k : Nat) (m : ResyncMsg), s.holds = true ∧ s.wbUp = true ∧ s.wb.resyncStep = k ∧ k ≠ 0 ∧ s.resyncMsg k = some m ∧ k = 5 ∧
    s.wb.jsn ≤ s.wb.jsnAck ∧ s.sys.mode = .solo) ∧
    (∃ (s : State) (k : Nat) (m : ResyncMsg), s.holds = true ∧ s.wbUp = true ∧ s.wb.resyncStep = k ∧ k ≠ 0 ∧ s.resyncMsg k = some m) ∧
    (∃ (s : State) (h : _), s.wbUp = true ∧ s.sys.mode = .sync ∧ s.wb.partner.hello = some h ∧ h.carrierId = s.pwr.carrierId ∧
    helloCompatible s.helloBody h = true) ∧
    (∃ (s : State) (b : Nat) (j : List JEntry) (it : List (Nat × ItemSt)) (fo : List Force) (ta : List Task) (sl : List Slot) (gr : List Group) (sg : List Stage) (fr : List (List F32)) (ri : List (List F32)) (es : EstCopy) (st : List Stream) (cy : List (Nat × Nat × Nat)) (se : List RefPair), s.wbUp = true ∧
    s.sys.mode = .sync) ∧
    (∃ (s : State) (n : Nat), s.wbUp = true ∧ s.sys.mode = .sync) ∧
    (∃ (s : State), s.wbUp = true ∧ s.sys.mode = .sync ∧ s.wb.resyncProg < 1000) ∧
    (∃ (s : State), s.wbUp = true ∧ s.sys.mode = .sync ∧ 1000 ≤ s.wb.resyncProg ∧ s.wb.resyncStep = 6 ∧ s.pwr.holdupOk = true ∧
    controlLost s.sys.unitHealth true = false) ∧
    (∃ (s : State), s.wbUp = true ∧ s.sys.mode = .sync) := by
  refine ⟨⟨act, 0, mp0, ?_⟩,
    ⟨({ act with wb := { act.wb with lease := .none, rxSeq := [(2, 0)] }, sys := { act.sys with mode := .standby } }), 0,
    ({ mp0 with gen := ({ act with wb := { act.wb with lease := .none, rxSeq := [(2, 0)] }, sys := { act.sys with mode := .standby } }).wb.gen }), ?_⟩,
    ⟨({ act with wb := { act.wb with lease := .none, gen := 0 }, sys := { act.sys with mode := .standby }, tb := { act.tb with ang := 0 } }), 0,
    ({ mp0 with task := 1, entries := [(⟨1, 0, 0, 0, 0⟩ : ManEntry)] }), (⟨1, 0, 0, 0, 0⟩ : ManEntry), ?_⟩,
    ⟨({ act with wb := { act.wb with lease := .none, rxSeq := [(2, 0)], gen := 0 }, sys := { act.sys with mode := .standby }, tb := { act.tb with ang := 0 } }),
    0, ({ mp0 with task := 1 }), ?_⟩,
    ⟨({ act with wb := { act.wb with lease := .held, heldItems := [(me0, [])] } }), me0, [], ?_⟩,
    ⟨({ act with wb := { act.wb with lease := .held }, out := [.wb ⟨4, 0⟩ (.fetch me0)] }), 3, 4, (⟨4, 0⟩ : WbHead), (.fetch me0 : WbMsg), ?_⟩,
    ⟨({ act with wb := { act.wb with lease := .none }, sys := { act.sys with mode := .standby } }), me0, [], ?_⟩,
    ⟨({ act with wb := { act.wb with lease := .none, digests := [(0, [])] }, sys := { act.sys with mode := .standby } }), 0, [], [], ?_⟩,
    ⟨({ act with wb := { act.wb with lease := .none, digests := [(0, [])] }, sys := { act.sys with mode := .update } }), 0, 65535, [], [], ?_⟩,
    ⟨({ act with wb := { act.wb with lease := .none, digests := [(99, [])], resynced := none, mismatches := [0, 1] }, sys := { act.sys with mode := .standby } }),
    99, 0, 0, 1, [], [], ?_⟩,
    ⟨({ act with wb := { act.wb with lease := .held, resyncStep := 1, partner := { act.wb.partner with hello := some he0 } } }), 1,
    (.admission true), he0, ?_⟩,
    ⟨({ act with wb := { act.wb with lease := .held, resyncStep := 1, partner := { act.wb.partner with hello := none } } }), 1, (.admission false),
    ?_⟩,
    ⟨({ act with wb := { act.wb with lease := .held, resyncStep := 2 } }), 2,
    ((({ act with wb := { act.wb with lease := .held, resyncStep := 2 } }).resyncMsg 2).get (by decide +kernel)), ?_⟩,
    ⟨({ act with wb := { act.wb with lease := .held, resyncStep := (7) } }), (7),
    ((({ act with wb := { act.wb with lease := .held, resyncStep := (7) } }).resyncMsg (7)).get (by decide +kernel)), ?_⟩,
    ⟨({ act with wb := { act.wb with lease := .held, resyncStep := 5 }, sys := { act.sys with mode := .solo } }), 5, (.live 0), ?_⟩,
    ⟨({ act with wb := { act.wb with lease := .held, resyncStep := 6 } }), 6, (.follow 0), ?_⟩,
    ⟨({ act with sys := { act.sys with mode := .sync }, wb := { act.wb with partner := { act.wb.partner with hello := some he0 } } }), he0, ?_⟩,
    ⟨({ act with sys := { act.sys with mode := .sync } }), 0, ([] : List JEntry), [], [], [], [], [], [], [], [], ({} : EstCopy), [], [], [], ?_⟩,
    ⟨({ act with sys := { act.sys with mode := .sync } }), 0, ?_⟩,
    ⟨({ act with sys := { act.sys with mode := .sync } }), ?_⟩,
    ⟨({ act with sys := { act.sys with mode := .sync }, wb := { act.wb with resyncProg := 1000, resyncStep := 6 }, pwr := { act.pwr with holdupOk := true } }),
    ?_⟩,
    ⟨({ act with sys := { act.sys with mode := .sync } }), ?_⟩⟩ <;> and_intros <;>
    first | exact (Option.some_get _).symm | decide +kernel | rfl | exact ⟨1, by decide +kernel, by decide +kernel, by decide +kernel⟩ | exact ⟨1, by decide +kernel, by decide +kernel⟩ | exact ⟨0, by decide +kernel, by decide +kernel⟩ | (intros; first | rfl | contradiction | decide +kernel | simp)

/-- What `Obligations.JournalIsReplicatedInOrder` assumes can be met, clause by clause. -/
theorem test_hyp_JournalIsReplicatedInOrder :
    (∃ (s : State) (q : Nat) (e : JEntry) (ring : Nat) (id : Nat) (k : Nat), s.wbUp = true ∧ s.follows = true ∧ assocGet s.wb.rxSeq 6 = some q ∧
    s.wb.ho = .idle ∧ e.body = .step ring id k ∧ e.gen = s.wb.gen ∧ ((∀ x ∈ s.wb.journal, x.jsn ≠ e.jsn)) ∧ s.wb.early = [] ∧ e.jsn = s.wb.jsn + 1) ∧
    (∃ (s : State) (q : Nat) (e : JEntry) (ring : Nat) (id : Nat) (k : Nat), s.wbUp = true ∧ s.follows = true ∧ assocGet s.wb.rxSeq 6 = some q ∧
    s.wb.ho = .idle ∧ e.body = .step ring id k ∧ e.gen = s.wb.gen ∧ ((∀ x ∈ s.wb.journal, x.jsn ≠ e.jsn)) ∧ s.wb.early = [] ∧ s.wb.jsn + 1 < e.jsn) ∧
    (∃ (s : State) (q : Nat) (e : JEntry) (ring : Nat) (id : Nat) (k : Nat), s.wbUp = true ∧ s.follows = true ∧ assocGet s.wb.rxSeq 6 = some q ∧
    s.wb.ho = .idle ∧ e.body = .step ring id k ∧ e.gen = s.wb.gen ∧ ((∀ x ∈ s.wb.journal, x.jsn ≠ e.jsn)) ∧ s.wb.early = [] ∧ e.jsn ≤ s.wb.jsn) ∧
    (∃ (s : State) (q : Nat), s.wbUp = true ∧ s.holds = false ∧ s.sys.mode = .standby) ∧
    (∃ (s : State) (j : Nat) (a : Nat), s.wbUp = true ∧ s.holds = true ∧ s.pwr.pf = .idle ∧ s.sys.mode = .active ∧ s.wb.dual = true ∧
    max s.wb.jsnAck (min j s.wb.jsn) = a) ∧
    (∃ (s : State), s.holds = true ∧ s.wb.dual = true ∧ s.wb.jsnAck < s.wb.jsn ∧ s.sys.mode = .active) ∧
    (∃ (s : State) (b : Nat), s.wb.journalFull = false) ∧
    (∃ (s : State) (b : Nat), s.wb.journalFull = true ∧ s.wb.journalBytes * 100 ≤ 536870912 * 85 ∧ s.wb.unwritten - b ≤ 12582912) ∧
    (∃ (s : State) (im : ProgImage), s.holds = true ∧ s.prg.image = some im ∧ s.wb.served = []) := by
  refine ⟨⟨({ act with wb := { act.wb with lease := .none, rxSeq := [(6, 0)], ho := .idle, early := [] }, sys := { act.sys with mode := .standby } }), 0,
    ({ je0 with body := .step 0 0 0, gen := ({ act with wb := { act.wb with lease := .none, rxSeq := [(6, 0)], ho := .idle, early := [] }, sys := { act.sys with mode := .standby } }).wb.gen, jsn := ({ act with wb := { act.wb with lease := .none, rxSeq := [(6, 0)], ho := .idle, early := [] }, sys := { act.sys with mode := .standby } }).wb.jsn + 1 }),
    0, 0, 0, ?_⟩,
    ⟨({ act with wb := { act.wb with lease := .none, rxSeq := [(6, 0)], ho := .idle, early := [] }, sys := { act.sys with mode := .standby } }), 0,
    ({ je0 with body := .step 0 0 0, gen := ({ act with wb := { act.wb with lease := .none, rxSeq := [(6, 0)], ho := .idle, early := [] }, sys := { act.sys with mode := .standby } }).wb.gen, jsn := 5 }),
    0, 0, 0, ?_⟩,
    ⟨({ act with wb := { act.wb with lease := .none, rxSeq := [(6, 0)], ho := .idle, early := [] }, sys := { act.sys with mode := .standby } }), 0,
    ({ je0 with body := .step 1 2 3, jsn := 0 }), 1, 2, 3, by and_intros <;> first | decide +kernel | exact fun x hx => absurd hx (List.not_mem_nil)⟩,
    ⟨({ act with wb := { act.wb with lease := .none, gen := 1 }, sys := { act.sys with mode := .standby } }), 0, ?_⟩,
    ⟨({ act with wb := { act.wb with lease := .held, dual := true }, pwr := { act.pwr with pf := .idle }, sys := { act.sys with mode := .active } }),
    0,
    (max ({ act with wb := { act.wb with lease := .held, dual := true }, pwr := { act.pwr with pf := .idle }, sys := { act.sys with mode := .active } }).wb.jsnAck (min 0 ({ act with wb := { act.wb with lease := .held, dual := true }, pwr := { act.pwr with pf := .idle }, sys := { act.sys with mode := .active } }).wb.jsn)),
    ?_⟩,
    ⟨({ act with wb := { act.wb with lease := .held, dual := true, jsn := 1 }, sys := { act.sys with mode := .active } }), ?_⟩,
    ⟨({ act with wb := { act.wb with journalFull := false } }), 0, ?_⟩,
    ⟨({ act with wb := { act.wb with journalFull := true } }), 0, ?_⟩,
    ⟨({ act with wb := { act.wb with lease := .held, served := [] }, prg := { act.prg with image := some im0 } }), im0, ?_⟩⟩ <;> and_intros <;>
    first | exact (Option.some_get _).symm | decide +kernel | rfl | exact ⟨1, by decide +kernel, by decide +kernel, by decide +kernel⟩ | exact ⟨1, by decide +kernel, by decide +kernel⟩ | exact ⟨0, by decide +kernel, by decide +kernel⟩ | (intros; first | rfl | contradiction | decide +kernel | simp)

/-- What `Obligations.OrderedStreamsAreSequenced` assumes can be met, clause by clause. -/
theorem test_hyp_OrderedStreamsAreSequenced :
    (∃ (s : State) (id : Nat) (st : Stream) (p : List Byte), s.authoritative = true ∧ s.streamOf id = some st ∧ st.unacked.length < 64 ∧
    st.waiting = []) ∧
    (∃ (s : State) (id : Nat) (st : Stream) (p : List Byte), s.authoritative = true ∧ s.streamOf id = some st ∧
    (64 ≤ st.unacked.length ∨ st.waiting ≠ [])) ∧
    (∃ (s : State) (id : Nat) (e : Nat) (q : Nat) (r : Nat) (st : Stream), s.streamOf id = some st ∧ e ≠ st.epoch) ∧
    (∃ (s : State) (id : Nat) (q : Nat) (r : Nat) (st : Stream) (u : State), s.authoritative = true ∧ s.streamOf id = some st ∧ r ≠ 3 ∧
    u = { s with wb := { s.wb with streams := s.wb.streams.map fun t => if t.id = id then { t with unacked := st.unacked.filter fun f => decide (0 < signedOf 32 (unsignedOf 32 (Int.ofNat f.1 - Int.ofNat q))), ackH := max t.ackH q } else t } } ∧
    r ≠ 2 ∧ st.waiting = []) ∧
    (∃ (s : State) (id : Nat) (q : Nat) (r : Nat) (st : Stream) (u : State), s.authoritative = true ∧ s.streamOf id = some st ∧ r ≠ 3 ∧
    u = { s with wb := { s.wb with streams := s.wb.streams.map fun t => if t.id = id then { t with unacked := st.unacked.filter fun f => decide (0 < signedOf 32 (unsignedOf 32 (Int.ofNat f.1 - Int.ofNat q))), ackH := max t.ackH q } else t } } ∧
    r = 2 ∧ st.waiting = []) ∧
    (∃ (s : State) (id : Nat) (q : Nat) (r : Nat) (st : Stream) (u : State), s.authoritative = true ∧ s.streamOf id = some st ∧ r ≠ 3 ∧
    u = { s with wb := { s.wb with streams := s.wb.streams.map fun t => if t.id = id then { t with unacked := st.unacked.filter fun f => decide (0 < signedOf 32 (unsignedOf 32 (Int.ofNat f.1 - Int.ofNat q))), ackH := max t.ackH q } else t } }) ∧
    (∃ (s : State) (id : Nat) (q : Nat) (st : Stream) (f : Nat × Nat × List Byte) (fs : List (Nat × Nat × List Byte)), s.authoritative = true ∧
    s.streamOf id = some st ∧ s.committedOf st.unacked = f :: fs) ∧
    (∃ (s : State) (id : Nat) (st : Stream), s.authoritative = true ∧ s.streamOf id = some st) ∧
    (∃ (s : State) (id : Nat) (st : Stream), s.authoritative = true ∧ s.streamOf id = some st ∧ st.journalledH < st.ackH) ∧
    (∃ (s : State) (id : Nat) (st : Stream), s.streamOf id = some st ∧ st.ackH ≤ st.journalledH) ∧
    (∃ (s : State) (id : Nat) (e : Nat) (q : Nat) (r : Nat) (p : List Byte), (s.authoritative = false ∨ s.streamOf id = none)) := by
  refine ⟨⟨({ act with wb := { act.wb with streams := [({ st0 with waiting := [] })] } }), 0, ({ st0 with waiting := [] }), [], ?_⟩,
    ⟨({ act with wb := { act.wb with streams := [({ st0 with unacked := List.replicate 64 (0, 0, []) })] } }), 0,
    ({ st0 with unacked := List.replicate 64 (0, 0, []) }), [], ?_⟩,
    ⟨({ act with wb := { act.wb with streams := [st0] } }), 0, 0, 0, 0, st0, ?_⟩,
    ⟨({ act with wb := { act.wb with streams := [({ st0 with unacked := [(1, 1, []), (2, 2, [])], nextSeq := 3 } : Stream)], dual := true } }), 0, 1,
    1, ({ st0 with unacked := [(1, 1, []), (2, 2, [])], nextSeq := 3 } : Stream), _,
    ⟨by decide +kernel, by decide +kernel, by decide, rfl, by decide, rfl⟩⟩,
    ⟨({ act with wb := { act.wb with streams := [({ st0 with unacked := [(1, 1, []), (2, 2, [])], nextSeq := 3 } : Stream)], dual := true } }), 0, 1,
    2, ({ st0 with unacked := [(1, 1, []), (2, 2, [])], nextSeq := 3 } : Stream), _, ⟨by decide +kernel, by decide +kernel, by decide, rfl, rfl, rfl⟩⟩,
    ⟨({ act with wb := { act.wb with streams := [({ st0 with unacked := [(1, 1, []), (2, 2, [])], nextSeq := 3 } : Stream)], dual := true } }), 0, 1,
    2, ({ st0 with unacked := [(1, 1, []), (2, 2, [])], nextSeq := 3 } : Stream), _, ⟨by decide +kernel, by decide +kernel, by decide, rfl⟩⟩,
    ⟨({ act with wb := { act.wb with streams := [({ st0 with unacked := [(1, 1, []), (2, 2, [])], nextSeq := 3 } : Stream)], jsn := 2 } }), 0, 1,
    ({ st0 with unacked := [(1, 1, []), (2, 2, [])], nextSeq := 3 } : Stream), (1, 1, []), [(2, 2, [])], ?_⟩,
    ⟨({ act with wb := { act.wb with streams := [st0] } }), 0, st0, ?_⟩,
    ⟨({ act with wb := { act.wb with streams := [({ st0 with ackH := 1 } : Stream)] } }), 0, ({ st0 with ackH := 1 } : Stream), ?_⟩,
    ⟨({ act with wb := { act.wb with streams := [st0] } }), 0, st0, ?_⟩,
    ⟨({ act with sys := { act.sys with mode := .service } }), 0, 0, 0, 0, [], ?_⟩⟩ <;> and_intros <;>
    first | exact (Option.some_get _).symm | decide +kernel | rfl | exact ⟨1, by decide +kernel, by decide +kernel, by decide +kernel⟩ | exact ⟨1, by decide +kernel, by decide +kernel⟩ | exact ⟨0, by decide +kernel, by decide +kernel⟩ | (intros; first | rfl | contradiction | decide +kernel | simp)

/-- What `Obligations.RefereeGrantsTheLease` assumes can be met, clause by clause. -/
theorem test_hyp_RefereeGrantsTheLease :
    (∃ (s : State), s.refSilent = false ∧ s.wb.outstanding = none) ∧
    (∃ (s : State), (s.sys.mode = .inserted ∨ s.sys.mode = .sync ∧ s.fld .wbLeaseCfg 16 2 = 0)) ∧
    (∃ (s : State) (m : RefMsg) (holder : Nat) (gen : Nat) (ep : Nat), s.wb.outstanding = some m ∧ m.type = .probe ∧ s.wb.probed = false ∧
    s.wb.refReach = true) ∧
    (∃ (s : State), (s.sys.mode = .inserted ∨ s.sys.mode = .quarantine ∨ s.sys.mode = .service ∨ s.sys.mode = .sync)) ∧
    (∃ (s : State), s.sys.mode = .boot ∧ s.sys.starting = true ∧ s.wb.probed = true ∧ s.promised = false ∧ s.wb.lease = .request) ∧
    (∃ (s : State), s.sys.mode = .standby ∧ 2 ≤ s.wb.missedHb ∧ s.wb.refReach = true ∧ s.wb.probed = true ∧ s.promised = false ∧ s.wb.lease = .none) ∧
    (∃ (s : State), s.sys.mode = .standby ∧ 2 ≤ s.wb.missedHb ∧ s.wb.refReach = false ∧ s.wb.probed = true ∧ s.promised = false ∧
    s.wb.lease = .request) ∧
    (∃ (s : State) (ok : Bool) (seq : Nat) (gen : Nat) (term : Nat) (rs : Nat) (holder : Nat), (ok = false ∨ (∀ m, s.wb.outstanding = some m → m.seq ≠ seq))) ∧
    (∃ (s : State) (m : RefMsg) (term : Nat), s.wb.outstanding = some m ∧ m.type = .renew ∧ s.wb.lease = .held ∧ s.wb.refReach = true) ∧
    (∃ (s : State) (m : RefMsg) (gen : Nat) (term : Nat), s.wb.outstanding = some m ∧ m.type = .request ∧ s.wb.lease = .request ∧
    s.sys.mode = .handover ∧ s.wb.ho = .idle ∧ s.sys.restartPend = none ∧ s.pwr.ejectReq = false ∧ controlLost s.sys.unitHealth true = false) ∧
    (∃ (s : State) (m : RefMsg) (rs : Nat) (holder : Nat) (gen : Nat), s.wb.outstanding = some m ∧ m.type = .request ∧ s.wb.lease = .request ∧
    s.sys.mode = .handover ∧ s.wb.ho = .idle ∧ s.sys.restartPend = none ∧ s.pwr.ejectReq = false) ∧
    (∃ (s : State) (m : RefMsg), s.wb.outstanding = some m ∧ s.wb.sends < 3 ∧ (m.type ≠ .request ∨ s.mayRequest = true)) ∧
    (∃ (s : State) (m : RefMsg), s.wb.outstanding = some m ∧ m.type = .request ∧ s.sys.mode = .service ∧ s.wb.lease = .none) ∧
    (∃ (s : State) (m : RefMsg), s.wb.outstanding = some m ∧ 3 ≤ s.wb.sends ∧ m.type = .probe ∧ s.wb.refLost = false) := by
  refine ⟨⟨({ act with wb := { act.wb with outstanding := none } }), ?_⟩,
    ⟨(State.setFld ({ act with sys := { act.sys with mode := .inserted } }) .wbLeaseCfg 0 16 2 (0)), ?_⟩,
    ⟨({ act with wb := { act.wb with outstanding := some ({ rm0 with type := .probe }), probed := false, refReach := true } }),
    ({ rm0 with type := .probe }), 0, 0, 0, ?_⟩,
    ⟨({ act with sys := { act.sys with mode := .inserted } }), ?_⟩,
    ⟨({ act with sys := { act.sys with mode := .boot, starting := true }, wb := { act.wb with probed := true, lease := .request } }), ?_⟩,
    ⟨({ act with sys := { act.sys with mode := .standby }, wb := { act.wb with missedHb := 2, refReach := true, probed := true, lease := .none } }),
    ?_⟩,
    ⟨({ act with sys := { act.sys with mode := .standby }, wb := { act.wb with missedHb := 2, refReach := false, probed := true, lease := .request } }),
    ?_⟩,
    ⟨act, false, 0, 0, 0, 0, 0, ?_⟩,
    ⟨({ act with wb := { act.wb with outstanding := some ({ rm0 with type := .renew }), lease := .held, refReach := true } }),
    ({ rm0 with type := .renew }), 0, ?_⟩,
    ⟨({ act with wb := { act.wb with outstanding := some ({ rm0 with type := .request }), lease := .request, ho := .idle }, sys := { act.sys with mode := .handover, restartPend := none }, pwr := { act.pwr with ejectReq := false } }),
    ({ rm0 with type := .request }), 0, 0, ?_⟩,
    ⟨({ act with wb := { act.wb with outstanding := some ({ rm0 with type := .request }), lease := .request, ho := .idle }, sys := { act.sys with mode := .handover, restartPend := none }, pwr := { act.pwr with ejectReq := false } }),
    ({ rm0 with type := .request }), 0, 0, 0, ?_⟩,
    ⟨({ act with wb := { act.wb with outstanding := some rm0 } }), rm0, ?_⟩,
    ⟨({ act with wb := { act.wb with outstanding := some ({ rm0 with type := .request }), lease := .none }, sys := { act.sys with mode := .service } }),
    ({ rm0 with type := .request }), ?_⟩,
    ⟨({ act with wb := { act.wb with outstanding := some ({ rm0 with type := .probe }), sends := 3, refLost := false } }),
    ({ rm0 with type := .probe }), ?_⟩⟩ <;> and_intros <;>
    first | exact (Option.some_get _).symm | decide +kernel | rfl | exact ⟨1, by decide +kernel, by decide +kernel, by decide +kernel⟩ | exact ⟨1, by decide +kernel, by decide +kernel⟩ | exact ⟨0, by decide +kernel, by decide +kernel⟩ | (intros; first | rfl | contradiction | decide +kernel | simp)

/-- What `Obligations.LeaseClockFenceAndConsent` assumes can be met, clause by clause. -/
theorem test_hyp_LeaseClockFenceAndConsent :
    (∃ (s : State), s.wb.lease = .held) ∧
    (∃ (s : State), s.wb.lease = .consent ∧ s.wb.refReach = true ∧ s.wb.probed = true ∧ s.promised = false ∧ s.sys.mode = .solo) ∧
    (∃ (s : State), s.wb.lease = .consent ∧ s.wb.refReach = false ∧ s.bit .wbLeaseCfg 18 = true ∧ s.impliedConsent = true) ∧
    (∃ (s : State), s.wb.lease = .consent ∧ s.wb.refReach = false ∧ s.bit .wbLeaseCfg 18 = true ∧ s.impliedConsent = false ∧ s.wbUp = true) ∧
    (∃ (s : State), s.wb.lease = .consent ∧ s.wb.refReach = false ∧ s.bit .wbLeaseCfg 18 = false) ∧
    (∃ (s : State), s.tb.csr < s.wb.expiry) ∧
    (∃ (s : State) (e : Nat), s.wb.lease = .held ∧ s.wb.expiry ≤ s.tb.csr ∧ s.wb.consentEnd = some e ∧ s.tb.csr < e) ∧
    (∃ (s : State), s.wb.lease = .held ∧ s.wb.expiry ≤ s.tb.csr ∧ s.wb.consentEnd = none ∧ s.partnerTakes = false) ∧
    (∃ (s : State) (e : Nat), s.wb.lease = .consent ∧ s.wb.consentEnd = some e ∧ s.tb.csr < e) ∧
    (∃ (s : State) (e : Nat), s.wb.lease = .consent ∧ s.wb.consentEnd = some e ∧ e ≤ s.tb.csr ∧ s.partnerTakes = false) ∧
    (∃ (s : State) (term : Nat), s.wbUp = true ∧ (s.sys.mode = .standby ∨ s.sys.mode = .update) ∧ s.wb.refReach = false ∧ s.bit .wbLeaseCfg 18 = true) ∧
    (∃ (s : State) (term : Nat), s.wbUp = true ∧ (s.sys.mode ≠ .standby ∧ s.sys.mode ≠ .update ∨ s.wb.refReach = true ∨ s.bit .wbLeaseCfg 18 = false)) ∧
    (∃ (s : State) (term : Nat), s.wbUp = true ∧ s.bit .wbLeaseCfg 18 = true ∧ s.wb.lease = .held) ∧
    (∃ (s : State) (term : Nat), s.wbUp = true ∧ s.bit .wbLeaseCfg 18 = true ∧ s.wb.lease = .consent) ∧
    (∃ (s : State) (term : Nat), s.wbUp = true ∧ s.bit .wbLeaseCfg 18 = false) ∧
    (∃ (s : State), s.wbUp = true ∧ s.wb.lease = .held) ∧
    (∃ (s : State) (q : Requester), q ≠ .debug ∧ s.pwr.pf = .idle) ∧
    (∃ (s : State) (q : Requester) (v : Word), q ≠ .debug ∧ v ≠ 0x5AFE) := by
  refine ⟨⟨({ act with wb := { act.wb with lease := .held } }), ?_⟩,
    ⟨({ act with wb := { act.wb with lease := .consent, refReach := true, probed := true }, sys := { act.sys with mode := .solo } }), ?_⟩,
    ⟨(State.setFld ({ act with wb := { act.wb with lease := .consent, refReach := false }, pwr := { act.pwr with partnerPresent := false } }) .wbLeaseCfg 0 18 1 1),
    ?_⟩,
    ⟨(State.setFld ({ act with wb := { act.wb with lease := .consent, refReach := false }, pwr := { act.pwr with partnerPresent := true } }) .wbLeaseCfg 0 18 1 1),
    ?_⟩,
    ⟨(State.setFld ({ act with wb := { act.wb with lease := .consent, refReach := false } }) .wbLeaseCfg 0 18 1 0), ?_⟩,
    ⟨({ act with wb := { act.wb with expiry := 1 } }), ?_⟩,
    ⟨({ act with wb := { act.wb with lease := .held, consentEnd := some 1 } }), 1, ?_⟩,
    ⟨({ act with wb := { act.wb with lease := .held, consentEnd := none } }), ?_⟩,
    ⟨({ act with wb := { act.wb with lease := .consent, consentEnd := some 1 } }), 1, ?_⟩,
    ⟨({ act with wb := { act.wb with lease := .consent, consentEnd := some 0 } }), 0, ?_⟩,
    ⟨(State.setFld ({ act with sys := { act.sys with mode := .standby }, wb := { act.wb with refReach := false } }) .wbLeaseCfg 0 18 1 1), 0, ?_⟩,
    ⟨act, 0, ?_⟩,
    ⟨(State.setFld ({ act with wb := { act.wb with lease := .held } }) .wbLeaseCfg 0 18 1 1), 0, ?_⟩,
    ⟨(State.setFld ({ act with wb := { act.wb with lease := .consent } }) .wbLeaseCfg 0 18 1 1), 0, ?_⟩,
    ⟨(State.setFld (act) .wbLeaseCfg 0 18 1 0), 0, ?_⟩,
    ⟨({ act with wb := { act.wb with lease := .held } }), ?_⟩,
    ⟨({ act with pwr := { act.pwr with pf := .idle } }), c0, ?_⟩,
    ⟨act, c0, 0, ?_⟩⟩ <;> and_intros <;>
    first | exact (Option.some_get _).symm | decide +kernel | rfl | exact ⟨1, by decide +kernel, by decide +kernel, by decide +kernel⟩ | exact ⟨1, by decide +kernel, by decide +kernel⟩ | exact ⟨0, by decide +kernel, by decide +kernel⟩ | (intros; first | rfl | contradiction | decide +kernel | simp)

/-- What `Obligations.HandoversAndDrills` assumes can be met, clause by clause. -/
theorem test_hyp_HandoversAndDrills :
    (∃ (s : State) (q : Requester) (v : Word), q ≠ .debug ∧ bitOf v.toNat 0 = true ∧ s.sys.mode = .active ∧ s.wb.ho = .idle ∧ s.partnerStandby = true) ∧
    (∃ (s : State) (q : Requester) (v : Word), q ≠ .debug ∧ s.partnerStandby = false) ∧
    (∃ (s : State), s.wb.ho = .planned ∧ s.sys.mode = .active ∧ s.partnerStandby = true) ∧
    (∃ (s : State), s.wb.ho = .planned ∧ s.sys.mode = .active ∧ s.partnerStandby = false ∧ s.sys.restartPend = none ∧ s.pwr.ejectReq = false) ∧
    (∃ (s : State) (j : Nat), s.sys.mode = .standby ∧ s.wbUp = true ∧ j ≤ s.wb.jsn) ∧
    (∃ (s : State) (j : Nat), s.sys.mode = .standby ∧ s.wbUp = true ∧ s.wb.jsn < j) ∧
    (∃ (s : State), s.wbUp = true ∧ s.wb.ho = .offered ∧ s.sys.mode = .handover) ∧
    (∃ (s : State), s.wbUp = true ∧ s.wb.ho = .ready ∧ s.sys.mode = .standby ∧ s.wb.probed = true ∧ s.wb.gaveConsent = none ∧ s.wb.lease = .none) ∧
    (∃ (s : State), s.wbUp = true ∧ s.wb.ho = .gone ∧ s.sys.mode = .handover ∧ s.wb.drill = .idle ∧ s.sys.restartPend = none ∧ s.pwr.ejectReq = false) ∧
    (∃ (s : State), s.wbUp = true ∧ s.wb.ho = .requesting ∧ s.sys.mode = .handover ∧ s.wb.drill = .idle ∧ s.wb.lease = .request ∧
    s.sys.restartPend = none ∧ s.pwr.ejectReq = false) ∧
    (∃ (s : State), s.wbUp = true ∧ s.wb.ho = .idle ∧ s.sys.mode = .standby ∧ s.wb.refReach = true ∧ s.wb.probed = true ∧ s.promised = false ∧
    s.wb.lease = .none) ∧
    (∃ (s : State), s.wb.ho = .offered ∧ s.sys.mode = .handover ∧ s.wb.lease = .held ∧ s.sys.restartPend = none ∧ s.pwr.ejectReq = false) ∧
    (∃ (s : State), s.tb.ang < (s.reg .wbDrillDueLo).toNat + 2 ^ 32 * (s.reg .wbDrillDueHi).toNat) ∧
    (∃ (s : State) (due : Nat) (per : Nat), s.bit .wbDrillCtrl 0 = true ∧ s.sys.mode = .active ∧ s.holds = true ∧ s.prg.stage = 0 ∧
    s.pwr.holdupOk = false ∧ (s.reg .wbDrillDueLo).toNat + 2 ^ 32 * (s.reg .wbDrillDueHi).toNat = due ∧ due ≤ s.tb.ang ∧
    s.fld .wbDrillCtrl 8 8 * 86400 * (if s.bit .angCtrl 4 then 60 else 50) * countsPerCycle = per) ∧
    (∃ (s : State), s.bit .wbDrillCtrl 0 = true ∧ s.sys.mode = .active ∧ s.holds = true ∧ s.prg.stage = 0 ∧ s.pwr.holdupOk = true ∧
    (s.reg .wbDrillDueLo).toNat + 2 ^ 32 * (s.reg .wbDrillDueHi).toNat ≤ s.tb.ang ∧ s.partnerStandby = true ∧ s.wb.partner.hb.holdupOk = true ∧
    s.sys.unitHealth = 0 ∧ s.partnerWhole = true ∧ s.wb.ho = .idle) ∧
    (∃ (s : State), s.wb.drill = .dwell ∧ s.sys.mode = .active ∧ s.holds = true ∧ s.wb.ho = .idle) := by
  refine ⟨⟨({ act with sys := { act.sys with mode := .active }, wb := { act.wb with ho := .idle, partner := { act.wb.partner with heard := true, hb := { act.wb.partner.hb with mode := .standby } }, missedHb := 0 } }),
    c0, 0x1, ?_⟩,
    ⟨act, c0, 0, ?_⟩,
    ⟨({ act with wb := { act.wb with ho := .planned, partner := { act.wb.partner with heard := true, hb := { act.wb.partner.hb with mode := .standby } }, missedHb := 0 }, sys := { act.sys with mode := .active } }),
    ?_⟩,
    ⟨({ act with wb := { act.wb with ho := .planned }, sys := { act.sys with mode := .active, restartPend := none }, pwr := { act.pwr with ejectReq := false } }),
    ?_⟩,
    ⟨({ act with sys := { act.sys with mode := .standby } }), 0, ?_⟩,
    ⟨({ act with sys := { act.sys with mode := .standby } }), 1, ?_⟩,
    ⟨({ act with wb := { act.wb with ho := .offered }, sys := { act.sys with mode := .handover } }), ?_⟩,
    ⟨({ act with wb := { act.wb with ho := .ready, probed := true, gaveConsent := none, lease := .none }, sys := { act.sys with mode := .standby } }),
    ?_⟩,
    ⟨({ act with wb := { act.wb with ho := .gone, drill := .idle }, sys := { act.sys with mode := .handover, restartPend := none }, pwr := { act.pwr with ejectReq := false } }),
    ?_⟩,
    ⟨({ act with wb := { act.wb with ho := .requesting, drill := .idle, lease := .request }, sys := { act.sys with mode := .handover, restartPend := none }, pwr := { act.pwr with ejectReq := false } }),
    ?_⟩,
    ⟨({ act with wb := { act.wb with ho := .idle, refReach := true, probed := true, lease := .none }, sys := { act.sys with mode := .standby } }), ?_⟩,
    ⟨({ act with wb := { act.wb with ho := .offered, lease := .held }, sys := { act.sys with mode := .handover, restartPend := none }, pwr := { act.pwr with ejectReq := false } }),
    ?_⟩,
    ⟨((act).setReg .wbDrillDueHi 0 0 1), ?_⟩,
    ⟨(((({ act with tb := { act.tb with ang := 7 } } : State).setReg .wbDrillDueLo 0 0 7).setFld .wbDrillCtrl 0 8 8 100).setFld .wbDrillCtrl 0 0 1 1),
    7, (100 * 86400 * 50 * countsPerCycle), ?_⟩,
    ⟨(State.setFld ({ act with sys := { act.sys with mode := .active, unitHealth := 0 }, wb := { act.wb with lease := .held, partner := { act.wb.partner with heard := true, hb := { act.wb.partner.hb with mode := .standby, holdupOk := true } }, missedHb := 0, ho := .idle }, prg := { act.prg with stage := 0 }, pwr := { act.pwr with holdupOk := true } }) .wbDrillCtrl 0 0 1 1),
    ?_⟩,
    ⟨({ act with wb := { act.wb with drill := .dwell, lease := .held, ho := .idle }, sys := { act.sys with mode := .active } }), ?_⟩⟩ <;> and_intros <;>
    first | exact (Option.some_get _).symm | decide +kernel | rfl | exact ⟨1, by decide +kernel, by decide +kernel, by decide +kernel⟩ | exact ⟨1, by decide +kernel, by decide +kernel⟩ | exact ⟨0, by decide +kernel, by decide +kernel⟩ | (intros; first | rfl | contradiction | decide +kernel | simp)

/-- What `Obligations.RefereeDutiesForServedPairs` assumes can be met, clause by clause. -/
theorem test_hyp_RefereeDutiesForServedPairs :
    (∃ (s : State) (m : RefMsg) (b : Bool), s.authoritative = false) ∧
    (∃ (s : State) (m : RefMsg) (b : Bool), ((∀ x ∈ s.cfg.servedPairs, x.1 ≠ m.pairId))) ∧
    (∃ (s : State) (m : RefMsg) (p : RefPair), s.servedPair m.pairId = p ∧ m.type ≠ .probe ∧ m.slotB = false ∧ m.bootEpoch = p.epochA ∧
    m.seq ≤ p.seqA) ∧
    (∃ (s : State) (m : RefMsg) (x : RefMsg) (b : Bool) (c : Bool) (t : State), m.slotB = true ∧ x.slotB = false ∧
    exec (.refereeMsgRx x c none) s = .next t) ∧
    (∃ (s : State) (m : RefMsg) (p : RefPair) (q : RefPair), s.authoritative = true ∧
    (s.cfg.servedPairs.take 32).any (fun x => x.1 == m.pairId) = true ∧ s.servedPair m.pairId = p ∧ m.slotB = false ∧ m.bootEpoch = p.epochA ∧
    p.seqA < m.seq ∧ q = { p with seqA := m.seq } ∧ m.type = .fenced ∧ p.holder ≠ 1) ∧
    (∃ (s : State) (m : RefMsg) (p : RefPair) (q : RefPair), s.authoritative = true ∧
    (s.cfg.servedPairs.take 32).any (fun x => x.1 == m.pairId) = true ∧ s.servedPair m.pairId = p ∧ m.slotB = false ∧ m.bootEpoch = p.epochA ∧
    p.seqA < m.seq ∧ q = { p with seqA := m.seq } ∧ m.type = .request ∧ p.fencedA = true) ∧
    (∃ (s : State) (m : RefMsg) (p : RefPair) (q : RefPair), s.authoritative = true ∧
    (s.cfg.servedPairs.take 32).any (fun x => x.1 == m.pairId) = true ∧ s.servedPair m.pairId = p ∧ m.slotB = false ∧ m.bootEpoch = p.epochA ∧
    p.seqA < m.seq ∧ q = { p with seqA := m.seq } ∧ p.fencedA = false ∧ m.type = .request ∧ s.wb.startupHold = true) ∧
    (∃ (s : State) (m : RefMsg) (p : RefPair) (q : RefPair), s.authoritative = true ∧
    (s.cfg.servedPairs.take 32).any (fun x => x.1 == m.pairId) = true ∧ s.servedPair m.pairId = p ∧ m.slotB = false ∧ m.bootEpoch = p.epochA ∧
    p.seqA < m.seq ∧ q = { p with seqA := m.seq } ∧ p.fencedA = false ∧ m.type = .request ∧ s.wb.startupHold = false ∧ p.holder = 2 ∧
    p.fencedB = false ∧ s.tb.csr < p.expiry) ∧
    (∃ (s : State) (m : RefMsg) (p : RefPair) (q : RefPair) (r : _), s.authoritative = true ∧
    (s.cfg.servedPairs.take 32).any (fun x => x.1 == m.pairId) = true ∧ s.servedPair m.pairId = p ∧ m.slotB = false ∧ m.bootEpoch = p.epochA ∧
    p.seqA < m.seq ∧ q = { p with seqA := m.seq } ∧ p.fencedA = false ∧ m.type = .request ∧ s.wb.startupHold = false ∧
    (p.holder = 0 ∨ p.holder = 2 ∧ p.expiry ≤ s.tb.csr) ∧ p.lastGranted ≠ 1 ∧
    r = { q with holder := 1, expiry := s.tb.csr + m.termUs * 100, gen := max p.gen m.gen + 1, lastGranted := 1, termUs := m.termUs }) ∧
    (∃ (s : State) (m : RefMsg) (p : RefPair) (q : RefPair) (r : _), s.authoritative = true ∧
    (s.cfg.servedPairs.take 32).any (fun x => x.1 == m.pairId) = true ∧ s.servedPair m.pairId = p ∧ m.slotB = false ∧ m.bootEpoch = p.epochA ∧
    p.seqA < m.seq ∧ q = { p with seqA := m.seq } ∧ p.fencedA = false ∧ m.type = .renew ∧ p.holder = 1 ∧
    r = { q with holder := 1, expiry := s.tb.csr + m.termUs * 100, lastGranted := 1, termUs := m.termUs }) ∧
    (∃ (s : State) (m : RefMsg) (p : RefPair) (q : RefPair) (r : _), s.authoritative = true ∧
    (s.cfg.servedPairs.take 32).any (fun x => x.1 == m.pairId) = true ∧ s.servedPair m.pairId = p ∧ m.slotB = false ∧ m.bootEpoch = p.epochA ∧
    p.seqA < m.seq ∧ q = { p with seqA := m.seq } ∧ p.fencedA = false ∧ m.type = .release ∧ p.holder = 1 ∧ r = { q with holder := 0 }) := by
  refine ⟨⟨({ act with sys := { act.sys with mode := .service } }), rm0, false, ?_⟩,
    ⟨act, rm0, false, ?_⟩,
    ⟨act, ({ rm0 with slotB := false, bootEpoch := rp0.epochA }), rp0, ?_⟩,
    ⟨({ act with cfg := { act.cfg with servedPairs := [(0, [])] }, wb := { act.wb with startupHold := false } } : State),
    ({ rm0 with slotB := true, seq := 1 } : RefMsg), ({ rm0 with seq := 1 } : RefMsg), true, true,
    (nx (.refereeMsgRx ({ rm0 with seq := 1 } : RefMsg) true none) ({ act with cfg := { act.cfg with servedPairs := [(0, [])] }, wb := { act.wb with startupHold := false } } : State)),
    ⟨rfl, rfl, rfl⟩⟩,
    ⟨({ act with cfg := { act.cfg with servedPairs := [(0, [])] }, wb := { act.wb with served := [({ rp0 with holder := 2, expiry := 1 } : RefPair)] } }),
    ({ rm0 with type := .fenced, seq := 1 } : RefMsg), ({ rp0 with holder := 2, expiry := 1 } : RefPair),
    ({ ({ rp0 with holder := 2, expiry := 1 } : RefPair) with seqA := 1 } : RefPair), ?_⟩,
    ⟨({ act with cfg := { act.cfg with servedPairs := [(0, [])] }, wb := { act.wb with served := [({ rp0 with fencedA := true } : RefPair)] } }),
    ({ rm0 with seq := 1 } : RefMsg), ({ rp0 with fencedA := true } : RefPair),
    ({ ({ rp0 with fencedA := true } : RefPair) with seqA := 1 } : RefPair), ?_⟩,
    ⟨({ act with wb := { act.wb with startupHold := true, served := [({ rp0 with holder := 2, expiry := 1 } : RefPair)] }, cfg := { act.cfg with servedPairs := [(0, [])] } }),
    ({ rm0 with seq := 1 } : RefMsg), ({ rp0 with holder := 2, expiry := 1 } : RefPair),
    ({ ({ rp0 with holder := 2, expiry := 1 } : RefPair) with seqA := 1 } : RefPair), ?_⟩,
    ⟨({ act with wb := { act.wb with startupHold := false, served := [({ rp0 with holder := 2, expiry := 1 } : RefPair)] }, cfg := { act.cfg with servedPairs := [(0, [])] } }),
    ({ rm0 with seq := 1 } : RefMsg), ({ rp0 with holder := 2, expiry := 1 } : RefPair),
    ({ ({ rp0 with holder := 2, expiry := 1 } : RefPair) with seqA := 1 } : RefPair), ?_⟩,
    ⟨({ act with wb := { act.wb with startupHold := false, served := [({ rp0 with holder := 2, expiry := 1 } : RefPair)] }, cfg := { act.cfg with servedPairs := [(0, [])] }, tb := { act.tb with csr := 1 } }),
    ({ rm0 with seq := 1 } : RefMsg), ({ rp0 with holder := 2, expiry := 1 } : RefPair),
    ({ ({ rp0 with holder := 2, expiry := 1 } : RefPair) with seqA := 1 } : RefPair), _,
    by refine ⟨?_, ?_, ?_, ?_, ?_, ?_, ?_, ?_, ?_, ?_, ?_, ?_, rfl⟩ <;> decide +kernel⟩,
    ⟨({ act with cfg := { act.cfg with servedPairs := [(0, [])] }, wb := { act.wb with served := [({ rp0 with holder := 1 } : RefPair)] } }),
    ({ rm0 with type := .renew, seq := 1 } : RefMsg), ({ rp0 with holder := 1 } : RefPair),
    ({ ({ rp0 with holder := 1 } : RefPair) with seqA := 1 } : RefPair), _,
    by refine ⟨?_, ?_, ?_, ?_, ?_, ?_, ?_, ?_, ?_, ?_, rfl⟩ <;> decide +kernel⟩,
    ⟨({ act with cfg := { act.cfg with servedPairs := [(0, [])] }, wb := { act.wb with served := [({ rp0 with holder := 1 } : RefPair)] } }),
    ({ rm0 with type := .release, seq := 1 } : RefMsg), ({ rp0 with holder := 1 } : RefPair),
    ({ ({ rp0 with holder := 1 } : RefPair) with seqA := 1 } : RefPair), _,
    by refine ⟨?_, ?_, ?_, ?_, ?_, ?_, ?_, ?_, ?_, ?_, rfl⟩ <;> decide +kernel⟩⟩ <;> and_intros <;>
    first | exact (Option.some_get _).symm | decide +kernel | rfl | exact ⟨1, by decide +kernel, by decide +kernel, by decide +kernel⟩ | exact ⟨1, by decide +kernel, by decide +kernel⟩ | exact ⟨0, by decide +kernel, by decide +kernel⟩ | (intros; first | rfl | contradiction | decide +kernel | simp)

/-- What `Obligations.CoreAccessesAreCheckedWhole` assumes can be met, clause by clause. -/
theorem test_hyp_CoreAccessesAreCheckedWhole :
    (∃ (s : State) (p : Nat) (b : Bool) (pr : Priv) (k : Nat) (a : Nat) (n : Nat) (d : Nat) (c : Bool), s.coreRuns p b = false) ∧
    (∃ (s : State) (p : Nat) (b : Bool) (pr : Priv) (k : Nat) (a : Nat) (n : Nat) (d : Nat) (c : Bool), s.coreRuns p b = true ∧
    (s.core.mpus.getD (2 * p + ofBool b) {}).syncPend = true ∧ (s.core.mpus.getD (2 * p + ofBool b) {}).own = true) ∧
    (∃ (s : State) (p : Nat) (b : Bool) (pr : Priv) (k : Nat) (a : Nat) (n : Nat) (d : Nat) (x : Nat) (m : Nat) (c : Bool), s.coreRuns p b = true ∧
    m = 2 * p + ofBool b ∧ (((s.core.mpus.getD m {}).syncPend = true → (s.core.mpus.getD m {}).own = false)) ∧
    firstRefused (s.core.mpus.getD m {}).cur ((s.pair p).state == 1) (privOf pr) (accKind k) maxParts a (a + n) = some x) ∧
    (∃ (s : State) (p : Nat) (b : Bool) (pr : Priv) (k : Nat) (a : Nat) (n : Nat) (d : Nat) (m : Nat), s.coreRuns p b = true ∧ m = 2 * p + ofBool b ∧
    (((s.core.mpus.getD m {}).syncPend = true → (s.core.mpus.getD m {}).own = false)) ∧
    firstRefused (s.core.mpus.getD m {}).cur ((s.pair p).state == 1) (privOf pr) (accKind k) maxParts a (a + n) = none ∧ 0x000800000000 ≤ a ∧
    a + n ≤ 0x000C00000000 ∧ k ≤ 1) ∧
    (∃ (s : State) (p : Nat) (b : Bool) (pr : Priv) (k : Nat) (a : Nat) (n : Nat) (d : Nat) (m : Nat), s.coreRuns p b = true ∧ m = 2 * p + ofBool b ∧
    (((s.core.mpus.getD m {}).syncPend = true → (s.core.mpus.getD m {}).own = false)) ∧
    firstRefused (s.core.mpus.getD m {}).cur ((s.pair p).state == 1) (privOf pr) (accKind k) maxParts a (a + n) = none ∧ 0x000800000000 ≤ a ∧
    a + n ≤ 0x000C00000000 ∧ 1 < k ∧ Memory.wf s.mem = true) ∧
    (∃ (s : State) (p : Nat) (m : Nat), (s.core.pairs.getD p {}).state = 0 ∧ s.mpuAbsent m = false ∧
    ((∀ r, r < 32 → regionBad (s.staged m r) = false))) ∧
    (∃ (s : State) (p : Nat) (m : Nat) (r : Nat), (s.core.pairs.getD p {}).state = 0 ∧ s.mpuAbsent m = false ∧ r < 32 ∧
    regionBad (s.staged m r) = true ∧ ((∀ x, x < r → regionBad (s.staged m x) = false))) ∧
    (∃ (s : State) (p : Nat) (m : Nat) (b : Bool) (pr : Priv), (b = true ∨ pr ≠ .machine) ∧ s.mpuAbsent m = false) ∧
    (∃ (s : State) (m : Nat), (s.mpu m).syncPend = false) ∧
    (∃ (s : State) (m : Nat), (s.mpu m).syncPend = true) ∧
    (∃ (s : State) (m : Nat), s.mpuBusy m (s.mpu m).fences = true) ∧
    (∃ (s : State) (m : Nat), s.mpuBusy m (s.mpu m).fences = false) := by
  refine ⟨⟨act, 4, false, .machine, 0, 0, 0, 0, false, ?_⟩,
    ⟨({ act with core := { act.core with mpus := List.replicate 6 {} ++ [{ syncPend := true, own := true }] } }), 3, false, .machine, 0, 0, 0, 0,
    false, ?_⟩,
    ⟨act, 3, false, .machine, 2, 0, 4, 0, 0, (2 * 3 + ofBool false), false, ?_⟩,
    ⟨act, 0, false, .machine, 1, 0x000800000000, 0, 0, (2 * 0 + ofBool false), ?_⟩,
    ⟨act, 0, false, .machine, 2, 0x000800000000, 0, 0, (2 * 0 + ofBool false), ?_⟩,
    ⟨act, 0, 0, ?_⟩,
    ⟨(((act).setReg .mpuAttr 6 31 0x0000000B).setReg .mpuBaseLo 6 31 1), 3, 6, 31, ?_⟩,
    ⟨act, 0, 0, true, .machine, ?_⟩,
    ⟨act, 0, ?_⟩,
    ⟨({ act with core := { act.core with mpus := List.replicate 18 {} ++ [{ syncPend := true }] } }), 18, ?_⟩,
    ⟨({ act with core := { act.core with mpus := List.replicate 19 { fences := 1 } }, hq := { act.hq with ops := (List.range 17).map fun e => mkOp e 0 [] } }),
    ((engineMpu 1).getD 8), by decide +kernel⟩,
    ⟨act, 0, ?_⟩⟩ <;> and_intros <;>
    first | exact (Option.some_get _).symm | decide +kernel | rfl | exact ⟨1, by decide +kernel, by decide +kernel, by decide +kernel⟩ | exact ⟨1, by decide +kernel, by decide +kernel⟩ | exact ⟨0, by decide +kernel, by decide +kernel⟩ | (intros; first | rfl | contradiction | decide +kernel | simp)

/-- What `Obligations.LockstepAndDebugAreContained` assumes can be met, clause by clause. -/
theorem test_hyp_LockstepAndDebugAreContained :
    (∃ (s : State) (k : Nat) (cause : Nat) (port : Nat) (v1 : Nat) (v2 : Nat) (pc : Nat), k < 4 ∧ s.powered (pairDomain k) = true ∧
    (s.pair k).state = 0 ∧ s.core.svcPair ≠ k ∧ s.sys.mode ≠ .active ∧ controlLost (s.sys.unitHealth ||| 2 ^ k) true = false ∧ cause < 8) ∧
    (∃ (s : State) (k : Nat) (cause : Nat) (port : Nat) (v1 : Nat) (v2 : Nat) (pc : Nat), k < 4 ∧ s.powered (pairDomain k) = true ∧
    (s.pair k).state = 0 ∧ s.core.svcPair = k ∧ s.sys.mode ≠ .active ∧ controlLost (s.sys.unitHealth ||| 2 ^ k) true = false ∧
    (cause = 6 ∨ cause = 7)) ∧
    (∃ (s : State) (k : Nat) (b : Nat) (cause : Nat) (port : Nat) (v1 : Nat) (v2 : Nat) (pc : Nat), k < 4 ∧ s.powered (pairDomain k) = true ∧
    (s.pair k).state = 0 ∧ s.core.svcPair = k ∧ s.sys.mode ≠ .active ∧ controlLost (s.sys.unitHealth ||| 2 ^ k) true = false ∧ cause < 6 ∧
    ((s.pair k).mismatches.any fun m => decide (s.tb.csr < m + 10000000)) = false ∧ s.fld .coreSvc 4 2 = b ∧ b ≠ k ∧ (s.pair b).state = 0 ∧
    s.unitUp b = true) ∧
    (∃ (s : State) (k : Nat), k < 4 ∧ s.powered (pairDomain k) = true ∧ (s.pair k).state = 0 ∧ s.core.svcPair ≠ k ∧ s.sys.mode ≠ .active ∧
    controlLost (s.sys.unitHealth ||| 2 ^ k) true = false) ∧
    (∃ (s : State) (k : Nat), (s.pair k).selftest = true ∧ s.recentMismatches k < 3) ∧
    (∃ (s : State) (k : Nat), (s.pair k).selftest = true ∧ 3 ≤ s.recentMismatches k) ∧
    (∃ (s : State) (k : Nat), (s.pair k).selftest = true) ∧
    (∃ (s : State) (a : Nat) (v : Word), debugLocked a = true ∧ dmAt a = none ∧ s.dbg.unlocked = false) ∧
    (∃ (s : State) (a : Nat) (v : Word), debugLocked a = true ∧ dmAt a = none) ∧
    (∃ (s : State) (a : Nat) (v : Word), debugLocked a = false ∧ dmAt a = none ∧ 0x000800000000 ≤ a ∧ a + 3 < 0x000C00000000) ∧
    (∃ (s : State) (k : Nat), (s.sys.mode = .service ∨ s.sys.mode = .quarantine)) ∧
    (∃ (s : State) (k : Nat), s.sys.mode ≠ .service ∧ s.sys.mode ≠ .quarantine) ∧
    (∃ (s : State) (q : Requester) (a : Artefact), s.writeBarred q (RegName.dbgCtrl.addr 0 0) = none ∧
    s.judgeArtefact (some 5) s.dbg.token = .good a ∧ s.nonceUsed a = false) ∧
    (∃ (s : State) (q : Requester), s.writeBarred q (RegName.dbgCtrl.addr 0 0) = none ∧ s.dbg.unlocked = true) ∧
    (∃ (s : State), (s.dbg.unlocked = false ∨ s.unlockPassed = false)) ∧
    (∃ (s : State) (e : PlantTime) (n : Nat), s.dbg.expiry = some e ∧ s.judgeTime = some n) := by
  refine ⟨⟨(State.setPair ({ act with sys := { act.sys with mode := .standby } }) 3 fun x => { x with state := 0 }), 3, 7, 0, 0, 0, 0, ?_⟩,
    ⟨(State.setPair ({ act with core := { act.core with svcPair := 3 }, sys := { act.sys with mode := .standby } }) 3 fun x => { x with state := 0 }),
    3, 6, 0, 0, 0, 0, ?_⟩,
    ⟨((State.setFld (State.setPair (State.setPair ({ act with core := { act.core with svcPair := 0 }, sys := { act.sys with unitHealth := 0, mode := .standby } }) 0 fun x => { x with state := 0 }) 3 fun x => { x with state := 0 }) .coreSvc 0 4 2 (3)).setFld .coreSvc 0 4 2 3),
    0, 3, 5, 0, 0, 0, 0, ?_⟩,
    ⟨(State.setPair ({ act with sys := { act.sys with mode := .standby } }) 3 fun x => { x with state := 0 }), 3, ?_⟩,
    ⟨(State.setPair (act) 0 fun x => { x with selftest := true }), 0, ?_⟩,
    ⟨(State.setPair (act) 0 fun x => { x with selftest := true, mismatches := [0, 0, 0] }), 0, ?_⟩,
    ⟨(State.setPair (act) 0 fun x => { x with selftest := true }), 0, ?_⟩,
    ⟨({ act with dbg := { act.dbg with unlocked := false } }), 0x40148000, 0, ?_⟩,
    ⟨act, 0x4014FFFF, 0, ?_⟩,
    ⟨act, 0x000800000000, 0, ?_⟩,
    ⟨({ act with sys := { act.sys with mode := .service } }), 0, ?_⟩,
    ⟨act, 0, ?_⟩,
    ⟨({ act with dbg := { act.dbg with token := Memory.readN (artMem 5 1 8 [(0, 8, 7)]) 0 256 }, sec := { act.sec with owner := idKey } }), c0,
    ((artefactOf ((Memory.readN (artMem 5 1 8 [(0, 8, 7)]) 0 256))).get (by decide +kernel)), by decide +kernel,
    by refine art_good ?_ ?_ ?_ ?_ ?_ ?_ ?_ ?_ <;> decide +kernel, by decide +kernel⟩,
    ⟨({ act with dbg := { act.dbg with unlocked := true } }), c0, ?_⟩,
    ⟨({ act with dbg := { act.dbg with unlocked := false } }), ?_⟩,
    ⟨({ act with dbg := { act.dbg with expiry := some ({} : PlantTime) }, tb := { act.tb with ptState := .locked, pt := { ns := 7 } } }),
    ({} : PlantTime), 7, ?_⟩⟩ <;> and_intros <;>
    first | exact (Option.some_get _).symm | decide +kernel | rfl | exact ⟨1, by decide +kernel, by decide +kernel, by decide +kernel⟩ | exact ⟨1, by decide +kernel, by decide +kernel⟩ | exact ⟨0, by decide +kernel, by decide +kernel⟩ | (intros; first | rfl | contradiction | decide +kernel | simp)

/-- What `Obligations.ControlCyclesFollowTheirManifest` assumes can be met, clause by clause. -/
theorem test_hyp_ControlCyclesFollowTheirManifest :
    (∃ (s : State) (us : Nat), s.prg.image = none) ∧
    (∃ (s : State) (us : Nat), s.sys.mode ≠ .safeHold ∧ s.leads = false) ∧
    (∃ (s : State) (us : Nat) (im : ProgImage), s.between im ∧ s.sys.mode ≠ .safeHold ∧ us < im.minCycleUs) ∧
    (∃ (s : State) (us : Nat) (im : ProgImage), s.prg.image = some im ∧ s.prg.runState = 2 ∧ s.sys.mode = .safeHold ∧ im.minCycleUs ≤ us ∧
    bitsOf s.sys.unitHealth 0 4 ≠ 15 ∧ s.powered 5 = true ∧ s.netOn 0 = true ∧ ((∀ x ∈ s.cfg.sessions, s.netOn x.network = true))) ∧
    (∃ (s : State) (us : Nat) (im : ProgImage) (m : ManSt), s.between im ∧ s.sys.mode ≠ .safeHold ∧ im.minCycleUs ≤ us ∧
    (us ≤ im.watchUs ∨ s.prg.switchCycle = true) ∧ us ≤ im.maxCycleUs ∧ s.sys.stopPend = false ∧ s.prot.oldRings = [] ∧ s.settled 0 ∧
    s.prg.next = none ∧ s.readyManifest 0 = some m) ∧
    (∃ (s : State) (us : Nat) (im : ProgImage) (m : ManSt), s.between im ∧ s.sys.mode ≠ .safeHold ∧ im.minCycleUs ≤ us ∧
    (us ≤ im.watchUs ∨ s.prg.switchCycle = true) ∧ us ≤ im.maxCycleUs ∧ s.sys.stopPend = false ∧ s.prot.oldRings = [] ∧ s.settled 0 ∧
    s.prg.next = some m) ∧
    (∃ (s : State) (us : Nat) (im : ProgImage), s.between im ∧ s.sys.mode ≠ .safeHold ∧ im.minCycleUs ≤ us ∧
    (im.maxCycleUs < us ∨ (im.watchUs < us ∧ s.prg.switchCycle = false ∧ 0 < s.prg.tasks.length ∧ (s.task 0).ovrRun < 255 ∧ (s.task 0).ovrLimit ≤ (s.task 0).ovrRun + 1)) ∧
    s.sys.stopPend = false ∧ s.sys.restartPend = none ∧ s.partnerStandby = false) ∧
    (∃ (s : State) (us : Nat) (im : ProgImage), s.between im ∧ s.sys.mode ≠ .safeHold ∧ im.minCycleUs ≤ us ∧ us ≤ im.maxCycleUs ∧
    (us ≤ im.watchUs ∨ s.prg.switchCycle = true ∨ ((s.task 0).ovrRun + 1 < (s.task 0).ovrLimit ∧ 0 < s.prg.tasks.length)) ∧ s.sys.stopPend = true) ∧
    (∃ (s : State) (ws : List (Nat × Nat)) (cs : List FbCall), (s.task 0).running = false) ∧
    (∃ (s : State) (ws : List (Nat × Nat)) (cs : List FbCall), s.mayEnd 0 = true ∧ s.authoritative = true) ∧
    (∃ (s : State) (id : Nat) (v : Nat) (i : ProgItem), s.mayEnd 0 = true ∧ s.authoritative = true ∧ s.progItem id = some i ∧ i.kind = 6 ∧
    i.target = 2) ∧
    (∃ (s : State) (st : Nat) (pid : Nat) (mac : Nat) (echo : Nat) (pts : List Word), ((∀ x ∈ s.cfg.sessions, x.station = st → x.mac ≠ mac))) ∧
    (∃ (s : State) (st : Nat) (k : Nat) (x : Session) (pts : List Word), s.cfg.sessions.findIdx (fun y => y.station == st) = k ∧
    s.cfg.sessions[k]? = some x ∧ (s.prg.scanOpen = true ∨ s.follows = true) ∧ s.powered 5 = true) ∧
    (∃ (s : State) (di : Nat) (ai : List Nat), s.prg.scanOpen = false) ∧
    (∃ (s : State) (di : Nat) (ai : List Nat), s.prg.scanOpen = true ∧ s.leads = true ∧ s.prg.restartKind = none) ∧
    (∃ (s : State) (n : Nat) (di : Nat) (ai : List Nat), s.tb.ang < (s.task n).rel ∧ (s.task n).late = false) ∧
    (∃ (s : State) (n : Nat) (di : Nat) (ai : List Nat) (x : Task), s.task n = x ∧ 0 < n ∧ n < 32 ∧ n < s.prg.tasks.length ∧ x.present = true ∧
    x.late = false ∧ s.releaseDue n = true ∧ s.tb.ang < x.rel + x.per ∧ s.prg.runState = 1 ∧ s.leads = true ∧ x.running = true ∧ x.ovrRun < 254 ∧
    x.ovrRun + 1 < x.ovrLimit) ∧
    (∃ (s : State) (n : Nat) (di : Nat) (ai : List Nat) (x : Task), s.task n = x ∧ 0 < n ∧ n < 32 ∧ n < s.prg.tasks.length ∧ x.present = true ∧
    x.late = false ∧ s.releaseDue n = true ∧ s.tb.ang < x.rel + x.per ∧ s.prg.runState = 1 ∧ s.leads = true ∧ x.running = false ∧ s.settled n) ∧
    (∃ (s : State) (n : Nat) (ws : List (Nat × Nat)) (cs : List FbCall), (s.task n).running = false) ∧
    (∃ (s : State) (n : Nat) (ws : List (Nat × Nat)) (cs : List FbCall), 0 < n ∧ s.mayEnd n = true ∧ s.authoritative = true) := by
  refine ⟨⟨({ act with prg := { act.prg with image := none } }), 0, ?_⟩,
    ⟨({ act with wb := { act.wb with lease := .none } }), 0, ?_⟩,
    ⟨({ act with prg := { act.prg with image := some im0, runState := 1, cycle := 1 } }), 0, im0, ?_⟩,
    ⟨({ act with prg := { act.prg with image := some im0, runState := 2 }, sys := { act.sys with mode := .safeHold } }), 100, im0, ?_⟩,
    ⟨({ act with prg := { act.prg with image := some im0, runState := 1, cycle := 1, next := none }, sys := { act.sys with stopPend := false }, prot := { act.prot with oldRings := [] }, wb := { act.wb with manifests := [({ mn0 with cycle := 2, parts := 1, held := [0] } : ManSt)] } }),
    100, im0, ({ mn0 with cycle := 2, parts := 1, held := [0] } : ManSt), ?_⟩,
    ⟨({ act with prg := { act.prg with image := some im0, runState := 1, cycle := 1, next := some ({ mn0 with cycle := 2, parts := 1, held := [0] } : ManSt) }, sys := { act.sys with stopPend := false }, prot := { act.prot with oldRings := [] } }),
    100, im0, ({ mn0 with cycle := 2, parts := 1, held := [0] } : ManSt), ?_⟩,
    ⟨({ act with prg := { act.prg with image := some im0, runState := 1, cycle := 1 }, sys := { act.sys with stopPend := false, restartPend := none } }),
    100001, im0, ?_⟩,
    ⟨({ act with prg := { act.prg with image := some im0, runState := 1, cycle := 1 }, sys := { act.sys with stopPend := true } }), 100, im0, ?_⟩,
    ⟨(State.setTask (act) 0 fun x => { x with running := false }), [], [], ?_⟩,
    ⟨((act).setTask 0 fun x => { x with running := true }), [], [], ?_⟩,
    ⟨(({ act with prg := { act.prg with image := some ({ im0 with items := [({ it0 with ident := 5, kind := 6, type := 12, target := 2, elements := 2 } : ProgItem)] } : ProgImage) } }).setTask 0 fun x => { x with running := true }),
    5, 7, ({ it0 with ident := 5, kind := 6, type := 12, target := 2, elements := 2 } : ProgItem), ?_⟩,
    ⟨({ act with cfg := { act.cfg with sessions := [se0] } }), 0, 0, 9, 0, [], by intro x hx hs; revert x; decide +kernel⟩,
    ⟨({ act with prg := { act.prg with scanOpen := true }, cfg := { act.cfg with sessions := [se0] } }), 0, 0, se0, [], ?_⟩,
    ⟨({ act with prg := { act.prg with scanOpen := false } }), 0, [], ?_⟩,
    ⟨({ act with prg := { act.prg with scanOpen := true, restartKind := none } }), 0, [], ?_⟩,
    ⟨((State.setTask (act) 31 fun x => { x with late := false }).setTask 31 fun x => { x with rel := 1 }), 31, 0, [], ?_⟩,
    ⟨({ act with prg := { act.prg with runState := 1, tasks := List.replicate 31 {} ++ [({ present := true, per := 1, running := true } : Task)] } }),
    31, 0, [], ({ present := true, per := 1, running := true } : Task), ?_⟩,
    ⟨({ act with prg := { act.prg with runState := 1, tasks := List.replicate 31 {} ++ [({ present := true, per := 1 } : Task)] } }), 31, 0, [],
    ({ present := true, per := 1 } : Task), ?_⟩,
    ⟨(State.setTask (act) 0 fun x => { x with running := false }), 0, [], [], ?_⟩,
    ⟨((act).setTask 31 fun x => { x with running := true }), 31, [], [], ?_⟩⟩ <;> and_intros <;>
    first | exact (Option.some_get _).symm | decide +kernel | rfl | exact ⟨1, by decide +kernel, by decide +kernel, by decide +kernel⟩ | exact ⟨1, by decide +kernel, by decide +kernel⟩ | exact ⟨0, by decide +kernel, by decide +kernel⟩ | (intros; first | rfl | contradiction | decide +kernel | simp)

/-- What `Obligations.FollowersRunTheHoldersCycles` assumes can be met, clause by clause. -/
theorem test_hyp_FollowersRunTheHoldersCycles :
    (∃ (s : State) (n : Nat) (d : Nat), s.follows = false) ∧
    (∃ (s : State) (n : Nat) (d : Nat), s.readyManifest n = none) ∧
    (∃ (s : State) (d : Nat) (im : ProgImage) (m : ManSt), s.prg.image = some im ∧ s.holds = false ∧ s.sys.mode = .standby ∧ s.pwr.pf = .idle ∧
    s.prot.oldRings = [] ∧ (s.task 0).running = false ∧ s.readyManifest 0 = some m ∧ s.bindMissing m.jsnCut = false ∧ s.settled 0 ∧
    s.prg.restartKind = none ∧ d < im.minCycleUs) ∧
    (∃ (s : State) (d : Nat) (im : ProgImage) (m : ManSt), s.prg.image = some im ∧ s.holds = false ∧ s.sys.mode = .standby ∧ s.pwr.pf = .idle ∧
    s.prot.oldRings = [] ∧ (s.task 0).running = false ∧ s.readyManifest 0 = some m ∧ s.bindMissing m.jsnCut = false ∧ s.settled 0 ∧
    s.prg.restartKind = none ∧ im.minCycleUs ≤ d) ∧
    (∃ (s : State) (n : Nat) (d : Nat) (im : ProgImage) (m : ManSt), s.prg.image = some im ∧ s.holds = false ∧ s.sys.mode = .standby ∧
    s.pwr.pf = .idle ∧ 0 < n ∧ n < 32 ∧ (s.task n).running = false ∧ s.readyManifest n = some m ∧ s.bindMissing m.jsnCut = false ∧ s.settled n) := by
  refine ⟨⟨act, 0, 0, ?_⟩,
    ⟨act, 0, 0, ?_⟩,
    ⟨(State.setTask ({ act with prg := { act.prg with image := some im0, restartKind := none }, wb := { act.wb with lease := .none, manifests := [({ mn0 with cycle := 1, parts := 1, held := [0] } : ManSt)] }, sys := { act.sys with mode := .standby }, pwr := { act.pwr with pf := .idle }, prot := { act.prot with oldRings := [] } }) 0 fun x => { x with running := false }),
    0, im0, ({ mn0 with cycle := 1, parts := 1, held := [0] } : ManSt), ?_⟩,
    ⟨(State.setTask ({ act with prg := { act.prg with image := some im0, restartKind := none }, wb := { act.wb with lease := .none, manifests := [({ mn0 with cycle := 1, parts := 1, held := [0] } : ManSt)] }, sys := { act.sys with mode := .standby }, pwr := { act.pwr with pf := .idle }, prot := { act.prot with oldRings := [] } }) 0 fun x => { x with running := false }),
    100, im0, ({ mn0 with cycle := 1, parts := 1, held := [0] } : ManSt), ?_⟩,
    ⟨(State.setTask ({ act with prg := { act.prg with image := some im0 }, wb := { act.wb with lease := .none, manifests := [({ mn0 with task := 31, cycle := 1, parts := 1, held := [0] } : ManSt)] }, sys := { act.sys with mode := .standby }, pwr := { act.pwr with pf := .idle } }) 31 fun x => { x with running := false }),
    31, 0, im0, ({ mn0 with task := 31, cycle := 1, parts := 1, held := [0] } : ManSt), ?_⟩⟩ <;> and_intros <;>
    first | exact (Option.some_get _).symm | decide +kernel | rfl | exact ⟨1, by decide +kernel, by decide +kernel, by decide +kernel⟩ | exact ⟨1, by decide +kernel, by decide +kernel⟩ | exact ⟨0, by decide +kernel, by decide +kernel⟩ | (intros; first | rfl | contradiction | decide +kernel | simp)

/-- What `Obligations.RestartsAndForcesTakeTheirPlace` assumes can be met, clause by clause. -/
theorem test_hyp_RestartsAndForcesTakeTheirPlace :
    (∃ (s : State) (j : Nat) (op : Op), s.holds = true ∧ s.ready (.jsn j) 10 0x20 op ∧ op.jsn = some j ∧ s.wb.covered < j) ∧
    (∃ (s : State) (w : WorkRef) (op : Op), s.due w 0x20 op ∧ 1 < dSubop op.bytes) ∧
    (∃ (s : State) (w : WorkRef) (op : Op), s.due w 0x20 op ∧ dSubop op.bytes ≤ 1 ∧ s.prg.stage ≠ 0) ∧
    (∃ (s : State) (w : WorkRef) (op : Op), s.due w 0x20 op ∧ dSubop op.bytes = 0 ∧ s.prg.stage = 0) ∧
    (∃ (s : State) (w : WorkRef) (op : Op) (im : ProgImage), s.due w 0x20 op ∧ dSubop op.bytes = 1 ∧ s.prg.stage = 0 ∧ s.prg.image = some im) ∧
    (∃ (s : State) (w : WorkRef) (op : Op) (id : Nat) (el : Nat) (tg : Nat) (ty : Nat), s.due w 0x27 op ∧ leField (s.buffer op) 0 8 = id ∧
    leField (s.buffer op) 8 2 = el ∧ leField (s.buffer op) 10 1 = tg ∧ leField (s.buffer op) 11 1 = ty ∧ dLength op.bytes ≠ 64) ∧
    (∃ (s : State) (w : WorkRef) (op : Op) (id : Nat) (el : Nat) (tg : Nat) (ty : Nat), s.due w 0x27 op ∧ leField (s.buffer op) 0 8 = id ∧
    leField (s.buffer op) 8 2 = el ∧ leField (s.buffer op) 10 1 = tg ∧ leField (s.buffer op) 11 1 = ty ∧ dLength op.bytes = 64 ∧ s.progItem id = none) ∧
    (∃ (s : State) (w : WorkRef) (op : Op) (id : Nat) (el : Nat) (tg : Nat) (ty : Nat) (i : ProgItem), s.due w 0x27 op ∧
    leField (s.buffer op) 0 8 = id ∧ leField (s.buffer op) 8 2 = el ∧ leField (s.buffer op) 10 1 = tg ∧ leField (s.buffer op) 11 1 = ty ∧
    dLength op.bytes = 64 ∧ s.progItem id = some i ∧ i.target = tg ∧ (el = 0xFFFF ∨ el < i.elements) ∧ 1 ≤ i.type ∧ i.type ≤ 12 ∧ ty ≠ i.type) ∧
    (∃ (s : State) (w : WorkRef) (op : Op) (id : Nat) (el : Nat) (tg : Nat) (ty : Nat) (i : ProgItem), s.due w 0x27 op ∧
    leField (s.buffer op) 0 8 = id ∧ leField (s.buffer op) 8 2 = el ∧ leField (s.buffer op) 10 1 = tg ∧ leField (s.buffer op) 11 1 = ty ∧
    dLength op.bytes = 64 ∧ s.progItem id = some i ∧ i.target = tg ∧ (el = 0xFFFF ∨ el < i.elements) ∧ 1 ≤ i.type ∧ i.type ≤ 12 ∧ ty = i.type ∧
    (s.prg.forces.filter fun f => !(f.ident == id && f.element == el && f.target == tg)).length < 1024) ∧
    (∃ (s : State) (w : WorkRef) (op : Op) (id : Nat) (el : Nat), s.due w 0x28 op ∧ dInline op.bytes 0 8 = id ∧ dInline op.bytes 8 2 = el ∧
    dSubop op.bytes = 0 ∧ ((∀ f ∈ s.prg.forces, f.ident ≠ id ∨ f.element ≠ el))) ∧
    (∃ (s : State) (w : WorkRef) (op : Op) (id : Nat) (el : Nat) (f : Force), s.due w 0x28 op ∧ dInline op.bytes 0 8 = id ∧
    dInline op.bytes 8 2 = el ∧ dSubop op.bytes = 0 ∧ (s.prg.forces.filter fun g => g.ident == id && g.element == el) = [f]) ∧
    (∃ (s : State) (w : WorkRef) (op : Op) (l : List Force), s.due w 0x29 op ∧ s.prg.forces.take (dLength op.bytes / 64) = l) := by
  refine ⟨⟨({ act with wb := { act.wb with lease := .held }, hq := { act.hq with work := [{ mkOp 10 0x20 [] with jsn := some 1 }] } }), 1,
    ({ mkOp 10 0x20 [] with jsn := some 1 }), ?_⟩,
    ⟨({ act with hq := { act.hq with work := [({ mkOp 10 0x20 [(2, 2, 2)] with jsn := some 1 })] }, wb := { act.wb with lease := .held, covered := 1 } }),
    (.jsn 1), ({ mkOp 10 0x20 [(2, 2, 2)] with jsn := some 1 }), ?_⟩,
    ⟨({ act with hq := { act.hq with work := [({ mkOp 10 0x20 [] with jsn := some 1 })] }, wb := { act.wb with lease := .held, covered := 1 }, prg := { act.prg with stage := 1 } }),
    (.jsn 1), ({ mkOp 10 0x20 [] with jsn := some 1 }), ?_⟩,
    ⟨({ act with hq := { act.hq with work := [({ mkOp 10 0x20 [(2, 2, 0)] with jsn := some 1 })] }, wb := { act.wb with lease := .held, covered := 1 }, prg := { act.prg with stage := 0 } }),
    (.jsn 1), ({ mkOp 10 0x20 [(2, 2, 0)] with jsn := some 1 }), ?_⟩,
    ⟨({ act with hq := { act.hq with work := [({ mkOp 10 0x20 [(2, 2, 1)] with jsn := some 1 })] }, wb := { act.wb with lease := .held, covered := 1 }, prg := { act.prg with stage := 0, image := some im0 } }),
    (.jsn 1), ({ mkOp 10 0x20 [(2, 2, 1)] with jsn := some 1 }), im0, ?_⟩,
    ⟨({ act with hq := { act.hq with work := [({ mkOp 10 0x27 [] with jsn := some 1 })] }, wb := { act.wb with lease := .held, covered := 1 } }),
    (.jsn 1), ({ mkOp 10 0x27 [] with jsn := some 1 }),
    (leField (({ act with hq := { act.hq with work := [({ mkOp 10 0x27 [] with jsn := some 1 })] }, wb := { act.wb with lease := .held, covered := 1 } }).buffer ({ mkOp 10 0x27 [] with jsn := some 1 })) 0 8),
    (leField (({ act with hq := { act.hq with work := [({ mkOp 10 0x27 [] with jsn := some 1 })] }, wb := { act.wb with lease := .held, covered := 1 } }).buffer ({ mkOp 10 0x27 [] with jsn := some 1 })) 8 2),
    (leField (({ act with hq := { act.hq with work := [({ mkOp 10 0x27 [] with jsn := some 1 })] }, wb := { act.wb with lease := .held, covered := 1 } }).buffer ({ mkOp 10 0x27 [] with jsn := some 1 })) 10 1),
    (leField (({ act with hq := { act.hq with work := [({ mkOp 10 0x27 [] with jsn := some 1 })] }, wb := { act.wb with lease := .held, covered := 1 } }).buffer ({ mkOp 10 0x27 [] with jsn := some 1 })) 11 1),
    ?_⟩,
    ⟨({ act with hq := { act.hq with work := [({ mkOp 10 0x27 [(28, 4, 64)] with jsn := some 1 })] }, wb := { act.wb with lease := .held, covered := 1 } }),
    (.jsn 1), ({ mkOp 10 0x27 [(28, 4, 64)] with jsn := some 1 }),
    (leField (({ act with hq := { act.hq with work := [({ mkOp 10 0x27 [(28, 4, 64)] with jsn := some 1 })] }, wb := { act.wb with lease := .held, covered := 1 } }).buffer ({ mkOp 10 0x27 [(28, 4, 64)] with jsn := some 1 })) 0 8),
    (leField (({ act with hq := { act.hq with work := [({ mkOp 10 0x27 [(28, 4, 64)] with jsn := some 1 })] }, wb := { act.wb with lease := .held, covered := 1 } }).buffer ({ mkOp 10 0x27 [(28, 4, 64)] with jsn := some 1 })) 8 2),
    (leField (({ act with hq := { act.hq with work := [({ mkOp 10 0x27 [(28, 4, 64)] with jsn := some 1 })] }, wb := { act.wb with lease := .held, covered := 1 } }).buffer ({ mkOp 10 0x27 [(28, 4, 64)] with jsn := some 1 })) 10 1),
    (leField (({ act with hq := { act.hq with work := [({ mkOp 10 0x27 [(28, 4, 64)] with jsn := some 1 })] }, wb := { act.wb with lease := .held, covered := 1 } }).buffer ({ mkOp 10 0x27 [(28, 4, 64)] with jsn := some 1 })) 11 1),
    ?_⟩,
    ⟨({ act with hq := { act.hq with work := [({ mkOp 10 0x27 [(28, 4, 64)] with jsn := some 1 })] }, wb := { act.wb with lease := .held, covered := 1 }, mem := cells [(0, 8, 5), (8, 2, 1), (10, 1, 2), (11, 1, 11)], prg := { act.prg with image := some ({ im0 with items := [{ it0 with ident := 5, kind := 6, type := 12, target := 2, elements := 2 }] } : ProgImage) } }),
    (.jsn 1), ({ mkOp 10 0x27 [(28, 4, 64)] with jsn := some 1 }), 5, 1, 2, 11,
    ({ it0 with ident := 5, kind := 6, type := 12, target := 2, elements := 2 }), ?_⟩,
    ⟨({ act with hq := { act.hq with work := [({ mkOp 10 0x27 [(28, 4, 64)] with jsn := some 1 })] }, wb := { act.wb with lease := .held, covered := 1 }, mem := cells [(0, 8, 5), (8, 2, 1), (10, 1, 2), (11, 1, 12)], prg := { act.prg with image := some ({ im0 with items := [{ it0 with ident := 5, kind := 6, type := 12, target := 2, elements := 2 }] } : ProgImage) } }),
    (.jsn 1), ({ mkOp 10 0x27 [(28, 4, 64)] with jsn := some 1 }), 5, 1, 2, 12,
    ({ it0 with ident := 5, kind := 6, type := 12, target := 2, elements := 2 }), ?_⟩,
    ⟨({ act with hq := { act.hq with work := [({ mkOp 10 0x28 [(48, 8, 0), (56, 2, 0), (2, 2, 0)] with jsn := some 1 })] }, wb := { act.wb with lease := .held, covered := 1 } }),
    (.jsn 1), ({ mkOp 10 0x28 [(48, 8, 0), (56, 2, 0), (2, 2, 0)] with jsn := some 1 }), 0, 0, ?_⟩,
    ⟨({ act with hq := { act.hq with work := [({ mkOp 10 0x28 [(48, 8, 0), (56, 2, 0), (2, 2, 0)] with jsn := some 1 })] }, wb := { act.wb with lease := .held, covered := 1 }, prg := { act.prg with forces := [fo0] } }),
    (.jsn 1), ({ mkOp 10 0x28 [(48, 8, 0), (56, 2, 0), (2, 2, 0)] with jsn := some 1 }), 0, 0, fo0, ?_⟩,
    ⟨({ act with hq := { act.hq with work := [({ mkOp 10 0x29 [] with jsn := some 1 })] }, wb := { act.wb with lease := .held, covered := 1 } }),
    (.jsn 1), ({ mkOp 10 0x29 [] with jsn := some 1 }), [], ?_⟩⟩ <;> and_intros <;>
    first | exact (Option.some_get _).symm | decide +kernel | rfl | exact ⟨1, by decide +kernel, by decide +kernel, by decide +kernel⟩ | exact ⟨1, by decide +kernel, by decide +kernel⟩ | exact ⟨0, by decide +kernel, by decide +kernel⟩ | (intros; first | rfl | contradiction | decide +kernel | simp)

/-- What `Obligations.InstarChangesPassTheirStages` assumes can be met, clause by clause. -/
theorem test_hyp_InstarChangesPassTheirStages :
    (∃ (s : State) (w : WorkRef) (op : Op) (img : ProgImage) (a : Bool) (b : Bool) (c : Bool), s.due w 0x21 op ∧ s.prg.stage ≠ 0) ∧
    (∃ (s : State) (w : WorkRef) (op : Op) (img : ProgImage) (a : Bool) (b : Bool) (c : Bool), s.due w 0x21 op ∧ s.prg.stage = 0 ∧
    (dInline op.bytes 8 4 < 10 ∨ 86400 < dInline op.bytes 8 4)) ∧
    (∃ (s : State) (w : WorkRef) (op : Op) (img : ProgImage) (a : Bool) (b : Bool) (c : Bool) (art : Artefact) (r : Nat), s.due w 0x21 op ∧
    s.prg.stage = 0 ∧ 10 ≤ dInline op.bytes 8 4 ∧ dInline op.bytes 8 4 ≤ 86400 ∧ s.judgeArtefact (some 3) (s.buffer op) = .good art ∧
    s.imageFault img a b c = some r) ∧
    (∃ (s : State) (w : WorkRef) (op : Op) (img : ProgImage) (a : Bool) (b : Bool) (c : Bool) (art : Artefact), s.due w 0x21 op ∧ s.prg.stage = 0 ∧
    10 ≤ dInline op.bytes 8 4 ∧ dInline op.bytes 8 4 ≤ 86400 ∧ s.judgeArtefact (some 3) (s.buffer op) = .good art ∧ s.imageFault img a b c = none) ∧
    (∃ (s : State) (w : WorkRef) (op : Op), s.due w 0x22 op ∧ s.prg.stage = 1 ∧ dInline op.bytes 0 8 = s.prg.changeId) ∧
    (∃ (s : State) (w : WorkRef) (op : Op), s.due w 0x22 op ∧ (s.prg.stage ≠ 1 ∨ dInline op.bytes 0 8 ≠ s.prg.changeId)) ∧
    (∃ (s : State) (w : WorkRef) (op : Op) (old : ProgImage) (new : ProgImage), s.due w 0x23 op ∧ s.prg.image = some old ∧
    s.prg.newImage = some new ∧ s.prg.stage = 2 ∧ dInline op.bytes 0 8 = s.prg.changeId ∧ 48 ≤ dLength op.bytes) ∧
    (∃ (s : State) (w : WorkRef) (op : Op) (old : ProgImage) (new : ProgImage), s.due w 0x23 op ∧ s.prg.image = some old ∧
    s.prg.newImage = some new ∧ (s.prg.stage ≠ 2 ∨ dInline op.bytes 0 8 ≠ s.prg.changeId)) ∧
    (∃ (s : State) (w : WorkRef) (op : Op) (old : ProgImage) (new : ProgImage), s.due w 0x24 op ∧ s.prg.image = some old ∧
    s.prg.newImage = some new ∧ s.prg.stage = 3 ∧ dInline op.bytes 0 8 = s.prg.changeId ∧ ((∀ f ∈ s.prg.forces, forceStays new.items f = true))) ∧
    (∃ (s : State) (w : WorkRef) (op : Op) (old : ProgImage) (new : ProgImage), s.due w 0x24 op ∧ s.prg.image = some old ∧
    s.prg.newImage = some new ∧ (s.prg.stage ≠ 3 ∨ dInline op.bytes 0 8 ≠ s.prg.changeId)) ∧
    (∃ (s : State) (w : WorkRef) (op : Op), s.due w 0x25 op ∧ s.wb.drillBegun = false ∧ s.prg.stage = 4 ∧ dInline op.bytes 0 8 = s.prg.changeId) ∧
    (∃ (s : State) (w : WorkRef) (op : Op), s.due w 0x25 op ∧ s.wb.drillBegun = false ∧ s.prg.stage ≠ 4) ∧
    (∃ (s : State) (w : WorkRef) (op : Op), s.due w 0x26 op ∧ s.wb.drillBegun = false ∧ 1 ≤ s.prg.stage ∧ s.prg.stage ≤ 3 ∧
    dInline op.bytes 0 8 = s.prg.changeId) ∧
    (∃ (s : State) (w : WorkRef) (op : Op), s.due w 0x26 op ∧ s.wb.drillBegun = false ∧ s.prg.stage = 0) ∧
    (∃ (s : State) (e : Nat), s.prg.confirmEnd = some e ∧ s.prg.stage = 4 ∧ s.authoritative = true ∧ s.prg.taskTime < e) ∧
    (∃ (s : State) (e : Nat), s.prg.confirmEnd = some e ∧ s.prg.stage = 4 ∧ s.authoritative = true ∧ e ≤ s.prg.taskTime) := by
  refine ⟨⟨({ act with hq := { act.hq with work := [({ mkOp 10 0x21 [] with jsn := some 1 })] }, wb := { act.wb with lease := .held, covered := 1 }, prg := { act.prg with stage := 1 } }),
    (.jsn 1), ({ mkOp 10 0x21 [] with jsn := some 1 }), im0, false, false, false, ?_⟩,
    ⟨({ act with hq := { act.hq with work := [({ mkOp 10 0x21 [] with jsn := some 1 })] }, wb := { act.wb with lease := .held, covered := 1 }, prg := { act.prg with stage := 0 } }),
    (.jsn 1), ({ mkOp 10 0x21 [] with jsn := some 1 }), im0, false, false, false, ?_⟩,
    ⟨({ act with mem := artMem 3 1 0, sec := { act.sec with owner := idKey }, hq := { act.hq with work := [({ mkOp 10 0x21 [(56, 4, 10), (28, 4, 178)] with jsn := some 1 })] }, wb := { act.wb with lease := .held, covered := 1 }, prg := { act.prg with stage := 0 } }),
    (.jsn 1), ({ mkOp 10 0x21 [(56, 4, 10), (28, 4, 178)] with jsn := some 1 }), im0, false, false, false,
    (⟨1, 3, 1, 0, 0, none, 0, recN 0 [], idSig⟩ : Artefact), 3,
    by and_intros <;> first | (refine art_good ?_ ?_ ?_ ?_ ?_ ?_ ?_ ?_ <;> decide +kernel) | exact (Option.some_get _).symm | decide +kernel | rfl | exact ⟨1, by decide +kernel, by decide +kernel, by decide +kernel⟩ | exact ⟨1, by decide +kernel, by decide +kernel⟩ | exact ⟨0, by decide +kernel, by decide +kernel⟩ | (intros; first | rfl | contradiction | decide +kernel | simp)⟩,
    ⟨({ act with mem := artMem 3 1 0, sec := { act.sec with owner := idKey }, hq := { act.hq with work := [({ mkOp 10 0x21 [(56, 4, 86400), (28, 4, 178)] with jsn := some 1 })] }, wb := { act.wb with lease := .held, covered := 1 }, prg := { act.prg with stage := 0 } }),
    (.jsn 1), ({ mkOp 10 0x21 [(56, 4, 86400), (28, 4, 178)] with jsn := some 1 }), im0, true, true, true,
    (⟨1, 3, 1, 0, 0, none, 0, recN 0 [], idSig⟩ : Artefact),
    by and_intros <;> first | (refine art_good ?_ ?_ ?_ ?_ ?_ ?_ ?_ ?_ <;> decide +kernel) | exact (Option.some_get _).symm | decide +kernel | rfl | exact ⟨1, by decide +kernel, by decide +kernel, by decide +kernel⟩ | exact ⟨1, by decide +kernel, by decide +kernel⟩ | exact ⟨0, by decide +kernel, by decide +kernel⟩ | (intros; first | rfl | contradiction | decide +kernel | simp)⟩,
    ⟨({ act with hq := { act.hq with work := [({ mkOp 10 0x22 [(48, 8, (act.prg.changeId))] with jsn := some 1 })] }, wb := { act.wb with lease := .held, covered := 1 }, prg := { act.prg with stage := 1 } }),
    (.jsn 1), ({ mkOp 10 0x22 [(48, 8, (act.prg.changeId))] with jsn := some 1 }), ?_⟩,
    ⟨({ act with hq := { act.hq with work := [({ mkOp 10 0x22 [] with jsn := some 1 })] }, wb := { act.wb with lease := .held, covered := 1 } }),
    (.jsn 1), ({ mkOp 10 0x22 [] with jsn := some 1 }), ?_⟩,
    ⟨({ act with hq := { act.hq with work := [({ mkOp 10 0x23 [(48, 8, (act.prg.changeId)), (28, 4, 48)] with jsn := some 1 })] }, wb := { act.wb with lease := .held, covered := 1 }, prg := { act.prg with image := some im0, newImage := some im0, stage := 2 } }),
    (.jsn 1), ({ mkOp 10 0x23 [(48, 8, (act.prg.changeId)), (28, 4, 48)] with jsn := some 1 }), im0, im0, ?_⟩,
    ⟨({ act with hq := { act.hq with work := [({ mkOp 10 0x23 [] with jsn := some 1 })] }, wb := { act.wb with lease := .held, covered := 1 }, prg := { act.prg with image := some im0, newImage := some im0 } }),
    (.jsn 1), ({ mkOp 10 0x23 [] with jsn := some 1 }), im0, im0, ?_⟩,
    ⟨({ act with hq := { act.hq with work := [({ mkOp 10 0x24 [(48, 8, (act.prg.changeId))] with jsn := some 1 })] }, wb := { act.wb with lease := .held, covered := 1 }, prg := { act.prg with image := some im0, newImage := some im0, stage := 3 } }),
    (.jsn 1), ({ mkOp 10 0x24 [(48, 8, (act.prg.changeId))] with jsn := some 1 }), im0, im0, ?_⟩,
    ⟨({ act with hq := { act.hq with work := [({ mkOp 10 0x24 [] with jsn := some 1 })] }, wb := { act.wb with lease := .held, covered := 1 }, prg := { act.prg with image := some im0, newImage := some im0 } }),
    (.jsn 1), ({ mkOp 10 0x24 [] with jsn := some 1 }), im0, im0, ?_⟩,
    ⟨({ act with hq := { act.hq with work := [({ mkOp 10 0x25 [(48, 8, (act.prg.changeId))] with jsn := some 1 })] }, wb := { act.wb with lease := .held, covered := 1, drillBegun := false }, prg := { act.prg with stage := 4 } }),
    (.jsn 1), ({ mkOp 10 0x25 [(48, 8, (act.prg.changeId))] with jsn := some 1 }), ?_⟩,
    ⟨({ act with hq := { act.hq with work := [({ mkOp 10 0x25 [] with jsn := some 1 })] }, wb := { act.wb with lease := .held, covered := 1, drillBegun := false } }),
    (.jsn 1), ({ mkOp 10 0x25 [] with jsn := some 1 }), ?_⟩,
    ⟨({ act with hq := { act.hq with work := [({ mkOp 10 0x26 [(48, 8, (act.prg.changeId))] with jsn := some 1 })] }, wb := { act.wb with lease := .held, covered := 1, drillBegun := false }, prg := { act.prg with stage := 1 } }),
    (.jsn 1), ({ mkOp 10 0x26 [(48, 8, (act.prg.changeId))] with jsn := some 1 }), ?_⟩,
    ⟨({ act with hq := { act.hq with work := [({ mkOp 10 0x26 [] with jsn := some 1 })] }, wb := { act.wb with lease := .held, covered := 1, drillBegun := false }, prg := { act.prg with stage := 0 } }),
    (.jsn 1), ({ mkOp 10 0x26 [] with jsn := some 1 }), ?_⟩,
    ⟨({ act with prg := { act.prg with confirmEnd := some 1, stage := 4 } }), 1, ?_⟩,
    ⟨({ act with prg := { act.prg with confirmEnd := some 0, stage := 4 } }), 0, ?_⟩⟩ <;> and_intros <;>
    first | exact (Option.some_get _).symm | decide +kernel | rfl | exact ⟨1, by decide +kernel, by decide +kernel, by decide +kernel⟩ | exact ⟨1, by decide +kernel, by decide +kernel⟩ | exact ⟨0, by decide +kernel, by decide +kernel⟩ | (intros; first | rfl | contradiction | decide +kernel | simp)

/-- What `Obligations.LoopSamplesUseTheBundle` assumes can be met, clause by clause. -/
theorem test_hyp_LoopSamplesUseTheBundle :
    (∃ (s : State) (n : Nat) (st : Nat) (sk : Nat) (late : Bool), (512 ≤ n ∨ s.loopOn = false ∨ (s.slot n).enabled = false ∨ s.sampleDue (s.slot n) st late sk = false ∨ s.lowerOwed n st late = true)) ∧
    (∃ (s : State) (n : Nat) (st : Nat) (sk : Nat) (late : Bool), s.holds = false ∧
    ((s.follows = true → ∀ m ∈ s.wb.manifests, m.task = 0x100 → m.cycle ≠ st / 65536))) ∧
    (∃ (s : State) (n : Nat) (st : Nat) (sk : Nat) (g : Nat) (k : Nat) (late : Bool), s.holds = true ∧ s.dsp.spPending = [] ∧
    s.loop.window = st / 65536 % 65536 ∧ slotGroup (s.slot n) = some g ∧ (s.enabledMembers g).head? = some k ∧ k ≠ n) ∧
    (∃ (s : State) (n : Nat) (st : Nat) (sk : Nat) (o : Nat) (late : Bool), n < 512 ∧ n < s.loop.slots.length ∧ s.loopOn = true ∧
    (s.slot n).enabled = true ∧ s.holds = true ∧ s.sampleDue (s.slot n) st late sk = true ∧ s.lowerOwed n st late = false ∧ s.dsp.spPending = [] ∧
    slotGroup (s.slot n) = none ∧ slOut (s.slot n).record = o ∧ o < s.loop.stages.length) ∧
    (∃ (s : State) (win : Nat) (ai : List Nat), (s.holds = false ∨ s.loopOn = false ∨ s.tb.ang < win * 65536)) ∧
    (∃ (s : State) (win : Nat) (ai : List Nat), s.holds = true ∧ s.loopOn = true ∧ win * 65536 ≤ s.tb.ang) := by
  refine ⟨⟨act, 0, 0, 0, false, ?_⟩,
    ⟨({ act with wb := { act.wb with lease := .none } }), 0, 0, 0, false, ?_⟩,
    ⟨(State.setSlot (State.setSlot ({ act with wb := { act.wb with lease := .held }, dsp := { act.dsp with spPending := [] }, loop := { act.loop with window := 0 / 65536 % 65536, groups := List.replicate 63 {} ++ [{ configured := true, record := recN 32 [(0, 1, 2), (6, 2, 511)] }] } }) 511 fun x => { x with record := recN 128 [(8, 2, 63)] }) 0 fun x => { x with record := recN 128 [(8, 2, 63)], enabled := true }),
    511, 0, 0, 63, 0, false,
    by and_intros <;> first | decide +kernel | rfl | exact ⟨1, by decide +kernel, by decide +kernel, by decide +kernel⟩ | exact ⟨1, by decide +kernel, by decide +kernel⟩⟩,
    ⟨(State.setSlot (State.setSlot ({ act with wb := { act.wb with lease := .held }, dsp := { act.dsp with spPending := [] }, tb := { act.tb with ang := 2 ^ 24 } }) 511 fun x => { x with enabled := true }) 511 fun x => { x with record := recN 128 [(2, 2, 1), (8, 2, 0xFFFF), (10, 2, 127)] }),
    511, (2 ^ 24), 0, 127, false,
    by and_intros <;> first | decide +kernel | rfl | exact ⟨1, by decide +kernel, by decide +kernel, by decide +kernel⟩ | exact ⟨1, by decide +kernel, by decide +kernel⟩⟩,
    ⟨({ act with wb := { act.wb with lease := .none } }), 0, [], ?_⟩,
    ⟨({ act with wb := { act.wb with lease := .held } }), 0, [], ?_⟩⟩ <;> and_intros <;>
    first | exact (Option.some_get _).symm | decide +kernel | rfl | exact ⟨1, by decide +kernel, by decide +kernel, by decide +kernel⟩ | exact ⟨1, by decide +kernel, by decide +kernel⟩ | exact ⟨0, by decide +kernel, by decide +kernel⟩ | (intros; first | rfl | contradiction | decide +kernel | simp)

/-- What `Obligations.LoopCommandsTakeEffectWhenCovered` assumes can be met, clause by clause. -/
theorem test_hyp_LoopCommandsTakeEffectWhenCovered :
    (∃ (s : State) (w : WorkRef) (op : Op) (j : Nat), s.holds = true ∧ s.ready w 1 0x10 op ∧ op.jsn = some j ∧ assocGet s.loop.seen j = none) ∧
    (∃ (s : State) (w : WorkRef) (op : Op) (j : Nat) (win : Nat), s.holds = true ∧ s.ready w 1 0x12 op ∧ op.jsn = some j ∧
    assocGet s.loop.seen j = some win ∧ dTimed op.bytes = true ∧ dPtBase op.bytes = false ∧ windowOf (dTime op.bytes) < win ∧
    dLatePolicy op.bytes = false) ∧
    (∃ (s : State) (w : WorkRef) (op : Op) (j : Nat) (win : Nat) (n : Nat), s.holds = true ∧ s.ready w 1 0x12 op ∧ op.jsn = some j ∧
    assocGet s.loop.seen j = some win ∧ dTimed op.bytes = true ∧ dPtBase op.bytes = false ∧ windowOf (dTime op.bytes) < win ∧
    dLatePolicy op.bytes = true ∧ dInline op.bytes 0 2 = n ∧ n < 512 ∧ ffinite (BitVec.ofNat 32 (dInline op.bytes 4 4)) = true ∧
    selClass (slSrc (s.slot n).record 1) = 1 ∧ (s.slot n).record ≠ []) ∧
    (∃ (s : State) (w : WorkRef) (op : Op) (j : Nat) (n : Nat), s.loopDue w 0x10 op j ∧ dInline op.bytes 0 2 = n ∧ 512 ≤ n) ∧
    (∃ (s : State) (w : WorkRef) (op : Op) (j : Nat) (n : Nat), s.loopDue w 0x10 op j ∧ dInline op.bytes 0 2 = n ∧ n < 512 ∧
    (s.slot n).enabled = true ∧ sameShape (s.slot n).record (s.buffer op) = false) ∧
    (∃ (s : State) (w : WorkRef) (op : Op) (j : Nat) (n : Nat) (k : Nat), s.loopDue w 0x10 op j ∧ dInline op.bytes 0 2 = n ∧ n < 512 ∧
    (s.slot n).enabled = false ∧ s.slotRefusal (s.buffer op) = some k) ∧
    (∃ (s : State) (w : WorkRef) (op : Op) (j : Nat) (n : Nat), s.loopDue w 0x10 op j ∧ dInline op.bytes 0 2 = n ∧ n < 512 ∧
    (s.slot n).enabled = false ∧ s.slotRefusal (s.buffer op) = none) ∧
    (∃ (s : State) (w : WorkRef) (op : Op) (j : Nat) (n : Nat), s.loopDue w 0x11 op j ∧ dInline op.bytes 0 2 = n ∧ n < 512 ∧ dSubop op.bytes = 1 ∧
    (s.slot n).enabled = true) ∧
    (∃ (s : State) (w : WorkRef) (op : Op) (j : Nat) (n : Nat), s.loopDue w 0x11 op j ∧ dInline op.bytes 0 2 = n ∧ n < 512 ∧ dSubop op.bytes = 1 ∧
    (s.slot n).enabled = false ∧ s.slotRefusal (s.slot n).record = none ∧ 55555 < s.loopLoad + slN (s.slot n).record) ∧
    (∃ (s : State) (w : WorkRef) (op : Op) (j : Nat) (n : Nat), s.loopDue w 0x11 op j ∧ dInline op.bytes 0 2 = n ∧ n < 512 ∧ dSubop op.bytes = 1 ∧
    (s.slot n).enabled = false ∧ s.enableRefusal n = none ∧ n < s.loop.slots.length) ∧
    (∃ (s : State) (w : WorkRef) (op : Op) (j : Nat) (n : Nat), s.loopDue w 0x11 op j ∧ dInline op.bytes 0 2 = n ∧ n < 512 ∧ dSubop op.bytes = 0 ∧
    n < s.loop.slots.length ∧ (slotGroup (s.slot n) = none ∨ (s.slot n).enabled = false)) ∧
    (∃ (s : State) (w : WorkRef) (op : Op) (j : Nat) (n : Nat), s.loopDue w 0x12 op j ∧ dInline op.bytes 0 2 = n ∧ n < 512 ∧
    ffinite (BitVec.ofNat 32 (dInline op.bytes 4 4)) = true ∧ selClass (slSrc (s.slot n).record 1) ≠ 1) ∧
    (∃ (s : State) (w : WorkRef) (op : Op) (j : Nat) (n : Nat), s.loopDue w 0x12 op j ∧ dInline op.bytes 0 2 = n ∧ n < 512 ∧
    ffinite (BitVec.ofNat 32 (dInline op.bytes 4 4)) = true ∧ selClass (slSrc (s.slot n).record 1) = 1 ∧ (s.slot n).record ≠ []) ∧
    (∃ (s : State) (w : WorkRef) (op : Op) (j : Nat) (g : Nat), s.loopDue w 0x13 op j ∧ dInline op.bytes 0 1 = g ∧ 64 ≤ g) ∧
    (∃ (s : State) (w : WorkRef) (op : Op) (j : Nat) (g : Nat) (k : Nat), s.loopDue w 0x13 op j ∧ dInline op.bytes 0 1 = g ∧ g < 64 ∧
    s.groupRefusal g (s.buffer op) = some k) ∧
    (∃ (s : State) (w : WorkRef) (op : Op) (j : Nat) (g : Nat), s.loopDue w 0x13 op j ∧ dInline op.bytes 0 1 = g ∧ g < 64 ∧
    s.groupRefusal g (s.buffer op) = none) ∧
    (∃ (s : State) (w : WorkRef) (op : Op) (j : Nat) (o : Nat), s.loopDue w 0x14 op j ∧ dInline op.bytes 0 1 = o ∧
    (128 ≤ o ∨ s.stageOk (s.buffer op) = false)) ∧
    (∃ (s : State) (w : WorkRef) (op : Op) (j : Nat) (o : Nat), s.loopDue w 0x14 op j ∧ dInline op.bytes 0 1 = o ∧ o < 128 ∧
    s.stageOk (s.buffer op) = true) ∧
    (∃ (s : State) (w : WorkRef) (op : Op) (j : Nat) (t : Nat), s.loopDue w 0x15 op j ∧ dInline op.bytes 0 1 = t ∧ 1 < dSubop op.bytes) ∧
    (∃ (s : State) (w : WorkRef) (op : Op) (j : Nat) (t : Nat), s.loopDue w 0x15 op j ∧ dInline op.bytes 0 1 = t ∧ dSubop op.bytes = 0 ∧ t < 64 ∧
    (s.buffer op).length = 128 ∧ ((∀ x ∈ tableOf 32 (s.buffer op), ffinite x = true ∧ flt x 0 = false))) ∧
    (∃ (s : State) (w : WorkRef) (op : Op) (j : Nat) (t : Nat), s.loopDue w 0x15 op j ∧ dInline op.bytes 0 1 = t ∧ dSubop op.bytes = 1 ∧ t < 32 ∧
    (s.buffer op).length = 1024 ∧ ((∀ x ∈ tableOf 256 (s.buffer op), ffinite x = true))) ∧
    (∃ (s : State) (w : WorkRef) (op : Op) (n : Nat), s.ready w 1 0x16 op ∧ dInline op.bytes 0 2 = n ∧ 512 ≤ n) ∧
    (∃ (s : State) (w : WorkRef) (op : Op) (n : Nat), s.ready w 1 0x16 op ∧ dInline op.bytes 0 2 = n ∧ n < 512) := by
  refine ⟨⟨({ act with hq := { act.hq with work := [({ mkOp 1 0x10 [] with jsn := some 1 })] }, wb := { act.wb with lease := .held } }), (.jsn 1),
    ({ mkOp 1 0x10 [] with jsn := some 1 }), 1, ?_⟩,
    ⟨({ act with hq := { act.hq with work := [({ mkOp 1 0x12 [(1, 1, 4)] with jsn := some 1 })] }, wb := { act.wb with lease := .held }, loop := { act.loop with seen := [(1, 1)] } }),
    (.jsn 1), ({ mkOp 1 0x12 [(1, 1, 4)] with jsn := some 1 }), 1, 1, ?_⟩,
    ⟨(State.setSlot ({ act with hq := { act.hq with work := [({ mkOp 1 0x12 [(48, 2, 511), (1, 1, 20)] with jsn := some 1 })] }, wb := { act.wb with lease := .held }, loop := { act.loop with seen := [(1, 1)] } }) 511 fun x => { x with record := recN 128 [(16, 4, 0x01000000)] }),
    (.jsn 1), ({ mkOp 1 0x12 [(48, 2, 511), (1, 1, 20)] with jsn := some 1 }), 1, 1, 511,
    by and_intros <;> first | decide +kernel | rfl | exact ⟨1, by decide +kernel, by decide +kernel, by decide +kernel⟩ | exact ⟨1, by decide +kernel, by decide +kernel⟩⟩,
    ⟨(State.setSlot ({ act with hq := { act.hq with work := [({ mkOp 1 0x10 [(48, 2, 512)] with jsn := some 1 })] }, wb := { act.wb with lease := .held, covered := 1 }, loop := { act.loop with seen := [(1, 0)] } }) 512 fun x => { x with record := recN 128 [(0, 1, 9)] }),
    (.jsn 1), ({ mkOp 1 0x10 [(48, 2, 512)] with jsn := some 1 }), 1, 512, ?_⟩,
    ⟨(State.setSlot ({ act with hq := { act.hq with work := [({ mkOp 1 0x10 [(48, 2, 511), (28, 4, 128)] with jsn := some 1 })] }, wb := { act.wb with lease := .held, covered := 1 }, loop := { act.loop with seen := [(1, 0)] } }) 511 fun x => { x with enabled := true, record := recN 128 [(0, 1, 9)] }),
    (.jsn 1), ({ mkOp 1 0x10 [(48, 2, 511), (28, 4, 128)] with jsn := some 1 }), 1, 511,
    by and_intros <;> first | decide +kernel | rfl | exact ⟨1, by decide +kernel, by decide +kernel, by decide +kernel⟩ | exact ⟨1, by decide +kernel, by decide +kernel⟩⟩,
    ⟨(State.setSlot ({ act with hq := { act.hq with work := [({ mkOp 1 0x10 [(48, 2, 511), (28, 4, 128)] with jsn := some 1 })] }, wb := { act.wb with lease := .held, covered := 1 }, loop := { act.loop with seen := [(1, 0)] } }) 511 fun x => { x with enabled := false }),
    (.jsn 1), ({ mkOp 1 0x10 [(48, 2, 511), (28, 4, 128)] with jsn := some 1 }), 1, 511, 4,
    by and_intros <;> first | decide +kernel | rfl | exact ⟨1, by decide +kernel, by decide +kernel, by decide +kernel⟩ | exact ⟨1, by decide +kernel, by decide +kernel⟩⟩,
    ⟨(State.setSlot ({ act with hq := { act.hq with work := [({ mkOp 1 0x10 [(48, 2, 511), (28, 4, 128)] with jsn := some 1 })] }, wb := { act.wb with lease := .held, covered := 1 }, loop := { act.loop with seen := [(1, 0)] }, mem := cells [(0, 1, 1), (2, 2, 1), (8, 2, 0xFFFF), (64, 4, 0x3F800000), (93, 1, 255)] }) 511 fun x => { x with enabled := false }),
    (.jsn 1), ({ mkOp 1 0x10 [(48, 2, 511), (28, 4, 128)] with jsn := some 1 }), 1, 511,
    by and_intros <;> first | decide +kernel | rfl | exact ⟨1, by decide +kernel, by decide +kernel, by decide +kernel⟩ | exact ⟨1, by decide +kernel, by decide +kernel⟩⟩,
    ⟨((((State.setSlot ({ act with hq := { act.hq with work := [({ mkOp 1 0x11 [(48, 2, 511), (2, 2, 1)] with jsn := some 1 })] }, wb := { act.wb with lease := .held, covered := 1 }, loop := { act.loop with seen := [(1, 0)] } }) 511 fun x => { x with enabled := true, record := slotRec }).setStage 0 fun x => { x with record := recN 64 [] })).setSlot 0 fun x => { x with enabled := true, record := recN 128 [(2, 2, 55555)] }),
    (.jsn 1), ({ mkOp 1 0x11 [(48, 2, 511), (2, 2, 1)] with jsn := some 1 }), 1, 511,
    by and_intros <;> first | decide +kernel | rfl | exact ⟨1, by decide +kernel, by decide +kernel, by decide +kernel⟩ | exact ⟨1, by decide +kernel, by decide +kernel⟩⟩,
    ⟨((State.setSlot ({ act with hq := { act.hq with work := [({ mkOp 1 0x11 [(48, 2, 511), (2, 2, 1)] with jsn := some 1 })] }, wb := { act.wb with lease := .held, covered := 1 }, loop := { act.loop with seen := [(1, 0)] } }) 511 fun x => { x with enabled := false, record := slotRec }).setSlot 0 fun x => { x with enabled := true, record := recN 128 [(2, 2, 55555)] }),
    (.jsn 1), ({ mkOp 1 0x11 [(48, 2, 511), (2, 2, 1)] with jsn := some 1 }), 1, 511,
    by and_intros <;> first | decide +kernel | rfl | exact ⟨1, by decide +kernel, by decide +kernel, by decide +kernel⟩ | exact ⟨1, by decide +kernel, by decide +kernel⟩⟩,
    ⟨((State.setSlot ({ act with hq := { act.hq with work := [({ mkOp 1 0x11 [(48, 2, 511), (2, 2, 1)] with jsn := some 1 })] }, wb := { act.wb with lease := .held, covered := 1 }, loop := { act.loop with seen := [(1, 0)] } }) 511 fun x => { x with enabled := false, record := slotRec }).setStage 0 fun x => { x with record := recN 64 [] }),
    (.jsn 1), ({ mkOp 1 0x11 [(48, 2, 511), (2, 2, 1)] with jsn := some 1 }), 1, 511,
    by and_intros <;> first | decide +kernel | rfl | exact ⟨1, by decide +kernel, by decide +kernel, by decide +kernel⟩ | exact ⟨1, by decide +kernel, by decide +kernel⟩⟩,
    ⟨({ act with hq := { act.hq with work := [({ mkOp 1 0x11 [(48, 2, 511), (2, 2, 0)] with jsn := some 1 })] }, wb := { act.wb with lease := .held, covered := 1 }, loop := { act.loop with seen := [(1, 0)] } }),
    (.jsn 1), ({ mkOp 1 0x11 [(48, 2, 511), (2, 2, 0)] with jsn := some 1 }), 1, 511, ?_⟩,
    ⟨({ act with hq := { act.hq with work := [({ mkOp 1 0x12 [(48, 2, 511)] with jsn := some 1 })] }, wb := { act.wb with lease := .held, covered := 1 }, loop := { act.loop with seen := [(1, 0)] } }),
    (.jsn 1), ({ mkOp 1 0x12 [(48, 2, 511)] with jsn := some 1 }), 1, 511, ?_⟩,
    ⟨(State.setSlot ({ act with hq := { act.hq with work := [({ mkOp 1 0x12 [(48, 2, 511)] with jsn := some 1 })] }, wb := { act.wb with lease := .held, covered := 1 }, loop := { act.loop with seen := [(1, 0)] } }) 511 fun x => { x with record := recN 128 [(16, 4, 0x01000000)] }),
    (.jsn 1), ({ mkOp 1 0x12 [(48, 2, 511)] with jsn := some 1 }), 1, 511,
    by and_intros <;> first | decide +kernel | rfl | exact ⟨1, by decide +kernel, by decide +kernel, by decide +kernel⟩ | exact ⟨1, by decide +kernel, by decide +kernel⟩⟩,
    ⟨({ act with hq := { act.hq with work := [({ mkOp 1 0x13 [(48, 1, 64)] with jsn := some 1 })] }, wb := { act.wb with lease := .held, covered := 1 }, loop := { act.loop with seen := [(1, 0)] } }),
    (.jsn 1), ({ mkOp 1 0x13 [(48, 1, 64)] with jsn := some 1 }), 1, 64, ?_⟩,
    ⟨({ act with hq := { act.hq with work := [({ mkOp 1 0x13 [(48, 1, 63), (28, 4, 32)] with jsn := some 1 })] }, wb := { act.wb with lease := .held, covered := 1 }, loop := { act.loop with seen := [(1, 0)] } }),
    (.jsn 1), ({ mkOp 1 0x13 [(48, 1, 63), (28, 4, 32)] with jsn := some 1 }), 1, 63, 5, ?_⟩,
    ⟨({ act with hq := { act.hq with work := [({ mkOp 1 0x13 [(48, 1, 63), (28, 4, 32)] with jsn := some 1 })] }, wb := { act.wb with lease := .held, covered := 1 }, loop := { act.loop with seen := [(1, 0)] }, mem := cells [(0, 1, 2), (4, 2, 0), (6, 2, 1), (8, 12, 2 ^ 96 - 1)] }),
    (.jsn 1), ({ mkOp 1 0x13 [(48, 1, 63), (28, 4, 32)] with jsn := some 1 }), 1, 63, ?_⟩,
    ⟨({ act with hq := { act.hq with work := [({ mkOp 1 0x14 [(48, 1, 128)] with jsn := some 1 })] }, wb := { act.wb with lease := .held, covered := 1 }, loop := { act.loop with seen := [(1, 0)] } }),
    (.jsn 1), ({ mkOp 1 0x14 [(48, 1, 128)] with jsn := some 1 }), 1, 128, ?_⟩,
    ⟨({ act with hq := { act.hq with work := [({ mkOp 1 0x14 [(48, 1, 127), (28, 4, 64)] with jsn := some 1 })] }, wb := { act.wb with lease := .held, covered := 1 }, loop := { act.loop with seen := [(1, 0)] }, mem := cells [(16, 1, 255), (17, 1, 255)] }),
    (.jsn 1), ({ mkOp 1 0x14 [(48, 1, 127), (28, 4, 64)] with jsn := some 1 }), 1, 127, ?_⟩,
    ⟨({ act with hq := { act.hq with work := [({ mkOp 1 0x15 [(48, 1, 0), (2, 2, 2)] with jsn := some 1 })] }, wb := { act.wb with lease := .held, covered := 1 }, loop := { act.loop with seen := [(1, 0)] } }),
    (.jsn 1), ({ mkOp 1 0x15 [(48, 1, 0), (2, 2, 2)] with jsn := some 1 }), 1, 0, ?_⟩,
    ⟨({ act with hq := { act.hq with work := [({ mkOp 1 0x15 [(48, 1, 63), (2, 2, 0), (28, 4, 128)] with jsn := some 1 })] }, wb := { act.wb with lease := .held, covered := 1 }, loop := { act.loop with seen := [(1, 0)] } }),
    (.jsn 1), ({ mkOp 1 0x15 [(48, 1, 63), (2, 2, 0), (28, 4, 128)] with jsn := some 1 }), 1, 63,
    by and_intros <;> first | (intro x hx; have h := all_of (p := fun x => ffinite x && !flt x 0) (by decide +kernel) x hx; simpa using h) | decide +kernel | exact ⟨0, by decide +kernel, by decide +kernel⟩⟩,
    ⟨({ act with hq := { act.hq with work := [({ mkOp 1 0x15 [(48, 1, 31), (2, 2, 1), (28, 4, 1024)] with jsn := some 1 })] }, wb := { act.wb with lease := .held, covered := 1 }, loop := { act.loop with seen := [(1, 0)] } }),
    (.jsn 1), ({ mkOp 1 0x15 [(48, 1, 31), (2, 2, 1), (28, 4, 1024)] with jsn := some 1 }), 1, 31,
    by and_intros <;> first | (intro x hx; have h := all_of (p := fun x => ffinite x) (by decide +kernel) x hx; simpa using h) | decide +kernel | exact ⟨0, by decide +kernel, by decide +kernel⟩⟩,
    ⟨({ act with hq := { act.hq with ops := [(mkOp 1 0x16 [(48, 2, 512)])] } }), (.tag 0), (mkOp 1 0x16 [(48, 2, 512)]), 512, ?_⟩,
    ⟨({ act with hq := { act.hq with ops := [(mkOp 1 0x16 [(48, 2, 511)])] } }), (.tag 0), (mkOp 1 0x16 [(48, 2, 511)]), 511, ?_⟩⟩ <;> and_intros <;>
    first | exact (Option.some_get _).symm | decide +kernel | rfl | exact ⟨1, by decide +kernel, by decide +kernel, by decide +kernel⟩ | exact ⟨1, by decide +kernel, by decide +kernel⟩ | exact ⟨0, by decide +kernel, by decide +kernel⟩ | (intros; first | rfl | contradiction | decide +kernel | simp)

/-- What `Obligations.DispatchSharesThePlantSetPoint` assumes can be met, clause by clause. -/
theorem test_hyp_DispatchSharesThePlantSetPoint :
    (∃ (s : State) (r : WorkerReport) (st : Nat) (ep : Nat) (q : Nat), s.cfg.manager = true ∧ r.worker < s.cfg.workers ∧
    st = s.cfg.dspRpBase + r.worker ∧ s.cyclicNew st ep q = true) ∧
    (∃ (s : State) (r : WorkerReport) (st : Nat) (ep : Nat) (q : Nat), (s.cfg.manager = false ∨ s.cfg.workers ≤ r.worker ∨ st ≠ s.cfg.dspRpBase + r.worker ∨ s.cyclicNew st ep q = false)) ∧
    (∃ (s : State) (id : Nat) (ep : Nat) (q : Nat) (e : Nat) (h : Nat), assocGet s.wb.cyclic id = some (e, h) ∧ ep < e) ∧
    (∃ (s : State) (id : Nat) (ep : Nat) (q : Nat) (e : Nat) (h : Nat), assocGet s.wb.cyclic id = some (e, h) ∧ e < ep) ∧
    (∃ (s : State) (id : Nat) (ep : Nat) (q : Nat) (e : Nat) (h : Nat), assocGet s.wb.cyclic id = some (e, h) ∧ ep = e ∧ q = h) ∧
    (∃ (s : State) (id : Nat) (ep : Nat) (q : Nat) (e : Nat) (h : Nat), assocGet s.wb.cyclic id = some (e, h) ∧ ep = e ∧ h < q ∧ q < h + 2 ^ 31) ∧
    (∃ (s : State), (s.cfg.manager = true ∨ s.dspRelease 0 = none)) ∧
    (∃ (s : State) (k : Nat) (t : Nat), s.dspRelease 0 = some (k, t) ∧ newRelease k s.dsp.repRel = false) ∧
    (∃ (s : State) (k : Nat) (t : Nat) (n : Nat), s.cfg.manager = false ∧ s.dspRelease 0 = some (k, t) ∧ newRelease k s.dsp.repRel = true ∧
    modeEmits s.sys.mode = true ∧ s.netOn s.dspNet = true ∧ n = s.cfg.dspRpBase + s.cfg.dspWorker) ∧
    (∃ (s : State), (s.cfg.manager = false ∨ s.dspRelease (2 ^ 23) = none)) ∧
    (∃ (s : State) (u : State) (k : Nat) (at_ : Nat), s.cfg.manager = true ∧ s.dspRelease (2 ^ 23) = some (k, at_) ∧
    newRelease k s.dsp.allocRel = true ∧ u = { s with dsp := { s.dsp with allocRel := k, allocAt := at_ } }) ∧
    (∃ (s : State) (sp : SetPoint) (ep : Nat) (seq : Nat), (s.cfg.manager = true ∨ sp.worker ≠ s.cfg.dspWorker ∨ s.cyclicNew (s.cfg.dspSpBase + s.cfg.dspWorker) ep seq = false)) ∧
    (∃ (s : State) (u : State) (sp : SetPoint) (ep : Nat) (seq : Nat), s.cfg.manager = false ∧ sp.worker = s.cfg.dspWorker ∧
    s.cyclicNew (s.cfg.dspSpBase + s.cfg.dspWorker) ep seq = true ∧ spHeard s sp ep seq = u ∧ s.fld .angSeed 0 2 ≠ 1) ∧
    (∃ (s : State) (u : State) (sp : SetPoint) (ep : Nat) (seq : Nat), s.cfg.manager = false ∧ sp.worker = s.cfg.dspWorker ∧
    s.cyclicNew (s.cfg.dspSpBase + s.cfg.dspWorker) ep seq = true ∧ spHeard s sp ep seq = u ∧ u.tb.ang ≤ spInstant u sp ∧
    spInstant u sp ≤ u.tb.ang + 50 * countsPerCycle) ∧
    (∃ (s : State) (u : State) (sp : SetPoint) (ep : Nat) (seq : Nat), s.cfg.manager = false ∧ sp.worker = s.cfg.dspWorker ∧
    s.cyclicNew (s.cfg.dspSpBase + s.cfg.dspWorker) ep seq = true ∧ spHeard s sp ep seq = u ∧ u.tb.ang + 50 * countsPerCycle < spInstant u sp) ∧
    (∃ (s : State) (u : State) (sp : SetPoint) (ep : Nat) (seq : Nat), s.cfg.manager = false ∧ sp.worker = s.cfg.dspWorker ∧
    s.cyclicNew (s.cfg.dspSpBase + s.cfg.dspWorker) ep seq = true ∧ spHeard s sp ep seq = u ∧ spInstant u sp < u.tb.ang) ∧
    (∃ (s : State) (e : Nat) (q : Nat) (p : F32), s.dsp.spPending = [(e, p, q)] ∧ s.tb.ang < e) ∧
    (∃ (s : State) (e : Nat) (q : Nat) (p : F32), s.dsp.spPending = [(e, p, q)] ∧ e ≤ s.tb.ang) ∧
    (∃ (s : State), (s.cfg.manager = true ∨ s.dsp.fallback = true ∨ s.tb.csr < s.dsp.spAt + usTicks (1000 * s.fld .dspStaleMs 0 16))) ∧
    (∃ (s : State), s.cfg.manager = false ∧ s.dsp.fallback = false ∧ s.dsp.spAt + usTicks (1000 * s.fld .dspStaleMs 0 16) ≤ s.tb.csr) ∧
    (∃ (s : State), (s.cfg.manager = true ∨ newRelease (s.tb.ang / countsPerCycle + 1) s.dsp.ffrRel = false)) ∧
    (∃ (s : State) (df : F32), s.cfg.manager = false ∧ s.dsp.spPending = [] ∧ newRelease (s.tb.ang / countsPerCycle + 1) s.dsp.ffrRel = true ∧
    fsub (fratio (Int.ofNat s.tb.freq) 10000) (fofInt (Int.ofNat s.fnom)) = df ∧ (s.dsp.ffrEn = false ∨ fle (fabs df) s.dsp.ffrDb = true)) ∧
    (∃ (s : State) (df : F32), s.cfg.manager = false ∧ s.dsp.spPending = [] ∧ newRelease (s.tb.ang / countsPerCycle + 1) s.dsp.ffrRel = true ∧
    fsub (fratio (Int.ofNat s.tb.freq) 10000) (fofInt (Int.ofNat s.fnom)) = df ∧ s.dsp.ffrEn = true ∧ fle (fabs df) s.dsp.ffrDb = false) ∧
    (∃ (s : State) (w : WorkRef) (op : Op) (p : F32) (k : F32) (l : F32) (d : F32), s.covers w 0x30 op ∧ p = BitVec.ofNat 32 (dInline op.bytes 0 4) ∧
    k = BitVec.ofNat 32 (dInline op.bytes 4 4) ∧ l = BitVec.ofNat 32 (dInline op.bytes 8 4) ∧ d = BitVec.ofNat 32 (dInline op.bytes 12 4) ∧
    s.cfg.manager = false) ∧
    (∃ (s : State) (w : WorkRef) (op : Op) (p : F32) (k : F32) (l : F32) (d : F32), s.covers w 0x30 op ∧ p = BitVec.ofNat 32 (dInline op.bytes 0 4) ∧
    k = BitVec.ofNat 32 (dInline op.bytes 4 4) ∧ l = BitVec.ofNat 32 (dInline op.bytes 8 4) ∧ d = BitVec.ofNat 32 (dInline op.bytes 12 4) ∧
    s.cfg.manager = true ∧ (ffinite p && ffinite k && ffinite l && ffinite d) = false) ∧
    (∃ (s : State) (w : WorkRef) (op : Op) (p : F32) (k : F32) (l : F32) (d : F32), s.covers w 0x30 op ∧ p = BitVec.ofNat 32 (dInline op.bytes 0 4) ∧
    k = BitVec.ofNat 32 (dInline op.bytes 4 4) ∧ l = BitVec.ofNat 32 (dInline op.bytes 8 4) ∧ d = BitVec.ofNat 32 (dInline op.bytes 12 4) ∧
    s.cfg.manager = true ∧ (ffinite p && ffinite k && ffinite l && ffinite d) = true) ∧
    (∃ (s : State) (w : WorkRef) (op : Op) (i : Nat), s.covers w 0x31 op ∧ dInline op.bytes 0 1 = i ∧ s.cfg.manager = false) ∧
    (∃ (s : State) (w : WorkRef) (op : Op) (i : Nat), s.covers w 0x31 op ∧ dInline op.bytes 0 1 = i ∧ s.cfg.manager = true ∧ s.cfg.workers ≤ i) ∧
    (∃ (s : State) (w : WorkRef) (op : Op) (i : Nat), s.covers w 0x31 op ∧ dInline op.bytes 0 1 = i ∧ s.cfg.manager = true ∧ i < s.cfg.workers) := by
  refine ⟨⟨({ act with cfg := { act.cfg with manager := true, workers := 1 } }), wr0,
    (({ act with cfg := { act.cfg with manager := true, workers := 1 } }).cfg.dspRpBase + wr0.worker), 0, 0, ?_⟩,
    ⟨({ act with cfg := { act.cfg with manager := false } }), wr0, 0, 0, 0, ?_⟩,
    ⟨({ act with wb := { act.wb with cyclic := [(0, (1, 0))] } }), 0, 0, 0, 1, 0, ?_⟩,
    ⟨({ act with wb := { act.wb with cyclic := [(0, (0, 0))] } }), 0, 1, 0, 0, 0, ?_⟩,
    ⟨({ act with wb := { act.wb with cyclic := [(0, (1, 0))] } }), 0, 1, 0, 1, 0, ?_⟩,
    ⟨({ act with wb := { act.wb with cyclic := [(0, (1, 0))] } }), 0, 1, (2 ^ 31 - 1), 1, 0, ?_⟩,
    ⟨({ act with cfg := { act.cfg with manager := true } }), ?_⟩,
    ⟨({ act with dsp := { act.dsp with repRel := 1 } }), 1, 0, ?_⟩,
    ⟨({ act with cfg := { act.cfg with manager := false } }), 1, 0,
    (({ act with cfg := { act.cfg with manager := false } }).cfg.dspRpBase + ({ act with cfg := { act.cfg with manager := false } }).cfg.dspWorker),
    ?_⟩,
    ⟨({ act with cfg := { act.cfg with manager := false }, tb := { act.tb with ang := 0 } }), ?_⟩,
    ⟨({ act with cfg := { act.cfg with manager := true }, tb := { act.tb with ang := 2 ^ 23 } }),
    ({ ({ act with cfg := { act.cfg with manager := true }, tb := { act.tb with ang := 2 ^ 23 } }) with dsp := { ({ act with cfg := { act.cfg with manager := true }, tb := { act.tb with ang := 2 ^ 23 } }).dsp with allocRel := 1, allocAt := (2 ^ 23) } }),
    1, (2 ^ 23),
    by and_intros <;> first | decide +kernel | rfl | exact ⟨1, by decide +kernel, by decide +kernel, by decide +kernel⟩ | exact ⟨1, by decide +kernel, by decide +kernel⟩⟩,
    ⟨({ act with cfg := { act.cfg with manager := true } }), sp0, 0, 0, ?_⟩,
    ⟨({ act with cfg := { act.cfg with manager := false } }),
    (spHeard ({ act with cfg := { act.cfg with manager := false } }) ({ sp0 with worker := ({ act with cfg := { act.cfg with manager := false } }).cfg.dspWorker }) 0 0),
    ({ sp0 with worker := ({ act with cfg := { act.cfg with manager := false } }).cfg.dspWorker }), 0, 0, ?_⟩,
    ⟨({ act with cfg := { act.cfg with manager := false } }),
    (spHeard ({ act with cfg := { act.cfg with manager := false } }) ({ sp0 with worker := ({ act with cfg := { act.cfg with manager := false } }).cfg.dspWorker }) 0 0),
    ({ sp0 with worker := ({ act with cfg := { act.cfg with manager := false } }).cfg.dspWorker }), 0, 0, ?_⟩,
    ⟨({ act with cfg := { act.cfg with manager := false } }),
    (spHeard ({ act with cfg := { act.cfg with manager := false } }) ({ sp0 with worker := ({ act with cfg := { act.cfg with manager := false } }).cfg.dspWorker, epoch := 51 * countsPerCycle }) 0 0),
    ({ sp0 with worker := ({ act with cfg := { act.cfg with manager := false } }).cfg.dspWorker, epoch := 51 * countsPerCycle }), 0, 0, ?_⟩,
    ⟨({ act with cfg := { act.cfg with manager := false }, tb := { act.tb with ang := 1 } }),
    (spHeard ({ act with cfg := { act.cfg with manager := false }, tb := { act.tb with ang := 1 } }) ({ sp0 with worker := ({ act with cfg := { act.cfg with manager := false }, tb := { act.tb with ang := 1 } }).cfg.dspWorker, epoch := 0 }) 0 0),
    ({ sp0 with worker := ({ act with cfg := { act.cfg with manager := false }, tb := { act.tb with ang := 1 } }).cfg.dspWorker, epoch := 0 }), 0, 0,
    ?_⟩,
    ⟨({ act with dsp := { act.dsp with spPending := [(1, 0, 0)] } }), 1, 0, 0, ?_⟩,
    ⟨({ act with dsp := { act.dsp with spPending := [(0, 0, 0)] } }), 0, 0, 0, ?_⟩,
    ⟨({ act with cfg := { act.cfg with manager := true } }), ?_⟩,
    ⟨({ act with cfg := { act.cfg with manager := false }, dsp := { act.dsp with fallback := false }, tb := { act.tb with csr := 50000000 } }), ?_⟩,
    ⟨({ act with cfg := { act.cfg with manager := true } }), ?_⟩,
    ⟨({ act with cfg := { act.cfg with manager := false, workers := 1 }, dsp := { act.dsp with spPending := [], ffrEn := false } }),
    (fsub (fratio (Int.ofNat ({ act with cfg := { act.cfg with manager := false, workers := 1 }, dsp := { act.dsp with spPending := [], ffrEn := false } }).tb.freq) 10000) (fofInt (Int.ofNat ({ act with cfg := { act.cfg with manager := false, workers := 1 }, dsp := { act.dsp with spPending := [], ffrEn := false } }).fnom))),
    ?_⟩,
    ⟨({ act with cfg := { act.cfg with manager := false }, dsp := { act.dsp with spPending := [], ffrEn := true }, tb := { act.tb with freq := 510000 } }),
    (fsub (fratio (Int.ofNat 510000) 10000) (fofInt (Int.ofNat act.fnom))), ?_⟩,
    ⟨({ act with hq := { act.hq with work := [({ mkOp 10 0x30 [] with jsn := some 1 })] }, wb := { act.wb with lease := .held, covered := 1 }, cfg := { act.cfg with manager := false } }),
    (.jsn 1), ({ mkOp 10 0x30 [] with jsn := some 1 }), (BitVec.ofNat 32 (dInline ({ mkOp 10 0x30 [] with jsn := some 1 }).bytes 0 4)),
    (BitVec.ofNat 32 (dInline ({ mkOp 10 0x30 [] with jsn := some 1 }).bytes 4 4)),
    (BitVec.ofNat 32 (dInline ({ mkOp 10 0x30 [] with jsn := some 1 }).bytes 8 4)),
    (BitVec.ofNat 32 (dInline ({ mkOp 10 0x30 [] with jsn := some 1 }).bytes 12 4)), ?_⟩,
    ⟨({ act with hq := { act.hq with work := [({ mkOp 10 0x30 [(48, 4, 0x7FC00000)] with jsn := some 1 })] }, wb := { act.wb with lease := .held, covered := 1 }, cfg := { act.cfg with manager := true } }),
    (.jsn 1), ({ mkOp 10 0x30 [(48, 4, 0x7FC00000)] with jsn := some 1 }),
    (BitVec.ofNat 32 (dInline ({ mkOp 10 0x30 [(48, 4, 0x7FC00000)] with jsn := some 1 }).bytes 0 4)),
    (BitVec.ofNat 32 (dInline ({ mkOp 10 0x30 [(48, 4, 0x7FC00000)] with jsn := some 1 }).bytes 4 4)),
    (BitVec.ofNat 32 (dInline ({ mkOp 10 0x30 [(48, 4, 0x7FC00000)] with jsn := some 1 }).bytes 8 4)),
    (BitVec.ofNat 32 (dInline ({ mkOp 10 0x30 [(48, 4, 0x7FC00000)] with jsn := some 1 }).bytes 12 4)), ?_⟩,
    ⟨({ act with hq := { act.hq with work := [({ mkOp 10 0x30 [] with jsn := some 1 })] }, wb := { act.wb with lease := .held, covered := 1 }, cfg := { act.cfg with manager := true } }),
    (.jsn 1), ({ mkOp 10 0x30 [] with jsn := some 1 }), (BitVec.ofNat 32 (dInline ({ mkOp 10 0x30 [] with jsn := some 1 }).bytes 0 4)),
    (BitVec.ofNat 32 (dInline ({ mkOp 10 0x30 [] with jsn := some 1 }).bytes 4 4)),
    (BitVec.ofNat 32 (dInline ({ mkOp 10 0x30 [] with jsn := some 1 }).bytes 8 4)),
    (BitVec.ofNat 32 (dInline ({ mkOp 10 0x30 [] with jsn := some 1 }).bytes 12 4)), ?_⟩,
    ⟨({ act with hq := { act.hq with work := [({ mkOp 10 0x31 [(48, 1, 0)] with jsn := some 1 })] }, wb := { act.wb with lease := .held, covered := 1 }, cfg := { act.cfg with manager := false } }),
    (.jsn 1), ({ mkOp 10 0x31 [(48, 1, 0)] with jsn := some 1 }), 0, ?_⟩,
    ⟨({ act with hq := { act.hq with work := [({ mkOp 10 0x31 [(48, 1, 0)] with jsn := some 1 })] }, wb := { act.wb with lease := .held, covered := 1 }, cfg := { act.cfg with manager := true } }),
    (.jsn 1), ({ mkOp 10 0x31 [(48, 1, 0)] with jsn := some 1 }), 0, ?_⟩,
    ⟨({ act with hq := { act.hq with work := [({ mkOp 10 0x31 [(48, 1, 0)] with jsn := some 1 })] }, wb := { act.wb with lease := .held, covered := 1 }, cfg := { act.cfg with manager := true, workers := 1 } }),
    (.jsn 1), ({ mkOp 10 0x31 [(48, 1, 0)] with jsn := some 1 }), 0, ?_⟩⟩ <;> and_intros <;>
    first | exact (Option.some_get _).symm | decide +kernel | rfl | exact ⟨1, by decide +kernel, by decide +kernel, by decide +kernel⟩ | exact ⟨1, by decide +kernel, by decide +kernel⟩ | exact ⟨0, by decide +kernel, by decide +kernel⟩ | (intros; first | rfl | contradiction | decide +kernel | simp)

/-- What `Obligations.SweepsAreStrobedReadAndShared` assumes can be met, clause by clause. -/
theorem test_hyp_SweepsAreStrobedReadAndShared :
    (∃ (s : State) (p : Nat) (us : Nat) (pos : Nat), p < 4 ∧ s.drivesEnd p = false) ∧
    (∃ (s : State) (p : Nat) (r : Ring), s.slk.rings[p]? = some r ∧ p < 4 ∧ s.drivesEnd p = true ∧ s.bit .slkCtrl 0 = true ∧ started r = true ∧
    s.sys.mode ≠ .cocoon ∧ ((∀ w ∈ r.sweeps, w.built = true)) ∧ (s.nextStrobe p).2.2 = 0 ∧
    s.tb.ang + s.launchLead < s.strobeAt (s.nextStrobe p).1 (s.nextStrobe p).2.1) ∧
    (∃ (s : State) (p : Nat) (r : Ring), s.slk.rings[p]? = some r ∧ p < 4 ∧ s.drivesEnd p = true ∧ s.bit .slkCtrl 0 = true ∧ started r = true ∧
    s.sys.mode ≠ .cocoon ∧ ((∀ w ∈ r.sweeps, w.built = true)) ∧
    ((s.nextStrobe p).2.2 ≠ 0 ∨ s.strobeAt (s.nextStrobe p).1 (s.nextStrobe p).2.1 ≤ s.tb.ang + s.launchLead) ∧ r.healing = false) ∧
    (∃ (s : State) (p : Nat) (r : Ring), s.slk.rings[p]? = some r ∧ p < 4 ∧ s.drivesEnd p = true ∧ s.bit .slkCtrl 0 = true ∧ started r = true ∧
    s.sys.mode ≠ .cocoon ∧ ((∀ w ∈ r.sweeps, w.built = true)) ∧
    ((s.nextStrobe p).2.2 ≠ 0 ∨ s.strobeAt (s.nextStrobe p).1 (s.nextStrobe p).2.1 ≤ s.tb.ang + s.launchLead) ∧ healReady r = true) ∧
    (∃ (s : State) (p : Nat) (pos : Nat) (ok : Bool) (x : Sample), (4 ≤ p ∨ s.powered 6 = false ∨ pos = 0 ∨ s.ringN p < pos)) ∧
    (∃ (s : State) (p : Nat) (pos : Nat) (x : Sample), ((∀ w ∈ (s.ring p).sweeps, w.epoch ≠ x.epoch ∨ w.built = true))) ∧
    (∃ (s : State) (p : Nat) (pos : Nat) (x : Sample) (w : Sweep), ((s.ring p).sweeps.find? fun w => w.epoch == x.epoch && !w.built) = some w ∧
    (assocGet w.samples pos).isSome = true) ∧
    (∃ (s : State) (p : Nat) (pos : Nat) (x : Sample) (w : Sweep), p < 4 ∧ p < s.slk.rings.length ∧ s.powered 6 = true ∧ 0 < pos ∧ pos ≤ s.ringN p ∧
    s.setFor p = none ∧ ((s.ring p).sweeps.find? fun w => w.epoch == x.epoch && !w.built) = some w ∧ assocGet w.samples pos = none ∧
    (s.node p pos).presence ≠ 3 ∧ bitOf x.nstat 0 = false) ∧
    (∃ (s : State) (p : Nat) (pos : Nat) (x : Sample) (w : Sweep) (r : Ring), s.slk.rings[p]? = some r ∧ p < 4 ∧ s.powered 6 = true ∧ 0 < pos ∧
    pos ≤ s.ringN p ∧ (r.sweeps.find? fun w => !w.built && (partOf s.pwr.slotB (s.ringN p) w).contains pos && unread w pos) = some w ∧ pos ∉ w.once ∧
    s.drivesEnd p = true) ∧
    (∃ (s : State) (p : Nat) (pos : Nat) (x : Sample) (w : Sweep) (r : Ring), s.slk.rings[p]? = some r ∧ p < 4 ∧ s.powered 6 = true ∧ 0 < pos ∧
    pos ≤ s.ringN p ∧ (r.sweeps.find? fun w => !w.built && (partOf s.pwr.slotB (s.ringN p) w).contains pos && unread w pos) = some w ∧ pos ∉ w.once) ∧
    (∃ (s : State) (p : Nat) (us : Nat), p < 4 ∧ s.drivesEnd p = true ∧ openSweep (s.ring p) = none) ∧
    (∃ (s : State) (p : Nat) (us : Nat) (w : Sweep), p < 4 ∧ p < s.slk.rings.length ∧ s.drivesEnd p = true ∧ s.wbUp = true ∧
    openSweep (s.ring p) = some w ∧ (partOf s.pwr.slotB (s.ringN p) w).any (unread w) = true) ∧
    (∃ (s : State) (p : Nat) (us : Nat) (w : Sweep), p < 4 ∧ p < s.slk.rings.length ∧ s.drivesEnd p = true ∧ s.wbUp = true ∧
    openSweep (s.ring p) = some w ∧ (partOf s.pwr.slotB (s.ringN p) w).any (unread w) = false ∧ w.partnerDone = false ∧ w.mode ≠ 1 ∧ w.mode ≠ 2) ∧
    (∃ (s : State) (g : Nat) (ok : Bool) (b : HalfBody), (ok = false ∨ s.wbUp = false ∨ g < s.wb.gen)) ∧
    (∃ (s : State) (g : Nat) (b : HalfBody), (4 ≤ b.ring ∨ s.powered 6 = false ∨ s.cfg.manager = true ∨ 3 ≤ b.kind) ∧ s.wbUp = true ∧ g = s.wb.gen) ∧
    (∃ (s : State) (g : Nat) (p : Nat) (b : HalfBody), b.ring = p ∧ p < 4 ∧ s.powered 6 = true ∧ s.cfg.manager = false ∧ s.wbUp = true ∧
    g = s.wb.gen ∧ b.kind = 1 ∧ b.break1 = 0 ∧ b.break2 = 0 ∧ b.endOk = true) ∧
    (∃ (s : State) (g : Nat) (p : Nat) (b : HalfBody), b.ring = p ∧ p < 4 ∧ s.powered 6 = true ∧ s.cfg.manager = false ∧ s.wbUp = true ∧
    g = s.wb.gen ∧ b.kind = 2 ∧ s.holds = false ∧ s.drivesEnd p = false) ∧
    (∃ (s : State) (g : Nat) (p : Nat) (b : HalfBody), b.ring = p ∧ p < 4 ∧ s.powered 6 = true ∧ s.cfg.manager = false ∧ s.wbUp = true ∧
    g = s.wb.gen ∧ b.kind = 2 ∧ s.holds = false ∧ s.drivesEnd p = true ∧ leField b.frame 0 1 = 0x0E) ∧
    (∃ (s : State) (g : Nat) (p : Nat) (b : HalfBody), b.ring = p ∧ p < 4 ∧ s.powered 6 = true ∧ s.cfg.manager = false ∧ s.wbUp = true ∧
    g = s.wb.gen ∧ b.kind = 2 ∧ s.holds = false ∧ s.drivesEnd p = true ∧ leField b.frame 0 1 ≠ 0x0E) ∧
    (∃ (s : State) (p : Nat), p < 4 ∧ ((s.ring p).rstate = 3 ∨ (s.ring p).rstate = 5 ∨ (∀ w ∈ (s.ring p).sweeps, s.halfOverdue w = false))) ∧
    (∃ (s : State) (p : Nat) (r : Ring), s.slk.rings[p]? = some r ∧ p < 4 ∧ s.drivesEnd p = true ∧ (r.rstate = 2 ∨ r.rstate = 4) ∧
    ((∃ w ∈ r.sweeps, w.built = false ∧ w.partnerDone = false ∧ (s.wbUp = false ∨ s.wb.partner.heard = false ∨ 4000000 ≤ countsNs (s.tb.ang - w.angle) s.tb.freq)))) ∧
    (∃ (s : State) (p : Nat) (pos : Nat) (b : Bool), (4 ≤ p ∨ started (s.ring p) = false ∨ (s.ring p).break1 = (if b then pos + 1 else pos))) ∧
    (∃ (s : State) (p : Nat) (pos : Nat) (b : Bool) (r : Ring), s.slk.rings[p]? = some r ∧ p < 4 ∧ s.powered 6 = true ∧ started r = true ∧ 0 < pos ∧
    pos ≤ s.ringN p ∧ r.break1 = 0 ∧ r.break2 = 0) ∧
    (∃ (s : State) (p : Nat) (r : Ring), s.slk.rings[p]? = some r ∧ p < 4 ∧ s.drivesEnd p = true ∧ 3 ≤ r.rstate ∧ r.rstate ≤ 5) := by
  refine ⟨⟨act, 3, 0, 0, ?_⟩,
    ⟨((State.setFld (rst) .slkCtrl 0 0 1 1).setFld .slkPhase 0 0 24 0xFFFFFF), 3, rg0,
    by and_intros <;> first | decide +kernel | rfl | exact fun w hw => absurd hw (List.not_mem_nil)⟩,
    ⟨(State.setFld (rst) .slkCtrl 0 0 1 1), 3, (((State.setFld (rst) .slkCtrl 0 0 1 1).slk.rings[3]?).get (by decide +kernel)), ?_⟩,
    ⟨(State.setFld ({ rst with slk := { rst.slk with rings := List.replicate 4 ({ rg0 with healing := true } : Ring) } }) .slkCtrl 0 0 1 1), 3,
    ({ rg0 with healing := true } : Ring), by and_intros <;> first | decide +kernel | rfl | exact fun w hw => absurd hw (List.not_mem_nil)⟩,
    ⟨({ rst with slk := { rst.slk with rings := List.replicate 4 { rg0 with sweeps := [{ sw0 with samples := [(0, sm0)] }] } } }), 0, 0, false, sm0,
    ?_⟩,
    ⟨rst, 0, 2, sm0, by exact fun w hw => absurd hw (List.not_mem_nil)⟩,
    ⟨({ rst with slk := { rst.slk with rings := List.replicate 4 ({ rg0 with sweeps := [{ sw0 with meet := 2, samples := [(1, sm0)] }] } : Ring) } }),
    3, 1, sm0, ({ sw0 with meet := 2, samples := [(1, sm0)] } : Sweep), ?_⟩,
    ⟨({ rst with slk := { rst.slk with rings := List.replicate 4 { rg0 with sweeps := [{ sw0 with meet := 2 }] } } }), 3, 1, sm0,
    ({ sw0 with meet := 2 }), ?_⟩,
    ⟨({ rst with slk := { rst.slk with rings := List.replicate 4 ({ rg0 with sweeps := [({ sw0 with meet := 2 } : Sweep)] } : Ring) } }), 3, 1, sm0,
    ({ sw0 with meet := 2 } : Sweep), ({ rg0 with sweeps := [({ sw0 with meet := 2 } : Sweep)] } : Ring), ?_⟩,
    ⟨({ rst with slk := { rst.slk with rings := List.replicate 4 ({ rg0 with sweeps := [({ sw0 with meet := 2 } : Sweep)] } : Ring) } }), 3, 1, sm0,
    ({ sw0 with meet := 2 } : Sweep), ({ rg0 with sweeps := [({ sw0 with meet := 2 } : Sweep)] } : Ring), ?_⟩,
    ⟨rst, 3, 0, ?_⟩,
    ⟨({ rst with slk := { rst.slk with rings := List.replicate 4 ({ rg0 with sweeps := [({ sw0 with meet := 2 } : Sweep)] } : Ring) } }), 3, 0,
    ({ sw0 with meet := 2 } : Sweep), ?_⟩,
    ⟨({ rst with slk := { rst.slk with rings := List.replicate 4 ({ rg0 with sweeps := [({ sw0 with meet := 2, samples := [(1, sm0), (2, sm0)] } : Sweep)] } : Ring) } }),
    3, 0, ({ sw0 with meet := 2, samples := [(1, sm0), (2, sm0)] } : Sweep), ?_⟩,
    ⟨rst, 0, false, ({ kind := 0, ring := 0 } : HalfBody), ?_⟩,
    ⟨rst, (rst.wb.gen), ({ kind := 3, ring := 3 } : HalfBody), ?_⟩,
    ⟨({ rst with cfg := { rst.cfg with manager := false } }), (({ rst with cfg := { rst.cfg with manager := false } }).wb.gen), 3,
    ({ ({ kind := 0, ring := 0 } : HalfBody) with ring := 3, kind := 1, break1 := 0, break2 := 0, endOk := true }), ?_⟩,
    ⟨({ act with cfg := { act.cfg with manager := false }, wb := { act.wb with lease := .none } }),
    (({ act with cfg := { act.cfg with manager := false }, wb := { act.wb with lease := .none } }).wb.gen), 3, ({ kind := 2, ring := 3 } : HalfBody),
    ?_⟩,
    ⟨({ rst with cfg := { rst.cfg with manager := false }, wb := { rst.wb with lease := .none } }),
    (({ rst with cfg := { rst.cfg with manager := false }, wb := { rst.wb with lease := .none } }).wb.gen), 3,
    ({ kind := 2, ring := 3, frame := [0x0E] } : HalfBody), ?_⟩,
    ⟨({ rst with cfg := { rst.cfg with manager := false }, wb := { rst.wb with lease := .none } }),
    (({ rst with cfg := { rst.cfg with manager := false }, wb := { rst.wb with lease := .none } }).wb.gen), 3,
    ({ ({ kind := 0, ring := 0 } : HalfBody) with ring := 3, kind := 2 }), ?_⟩,
    ⟨(State.setRing (rst) 3 fun x => { x with rstate := 3 }), 3, ?_⟩,
    ⟨({ rst with slk := { rst.slk with rings := List.replicate 4 ({ rg0 with sweeps := [sw0] } : Ring) } }), 3,
    ({ rg0 with sweeps := [sw0] } : Ring), ?_⟩,
    ⟨rst, 0, 0, false, ?_⟩,
    ⟨rst, 3, 1, false, ((rst.slk.rings[3]?).get (by decide +kernel)), ?_⟩,
    ⟨({ rst with slk := { rst.slk with rings := List.replicate 4 ({ rg0 with rstate := 3 } : Ring) } }), 3, ({ rg0 with rstate := 3 } : Ring), ?_⟩⟩ <;> and_intros <;>
    first | exact (Option.some_get _).symm | decide +kernel | rfl | exact ⟨1, by decide +kernel, by decide +kernel, by decide +kernel⟩ | exact ⟨1, by decide +kernel, by decide +kernel⟩ | exact ⟨0, by decide +kernel, by decide +kernel⟩ | (intros; first | rfl | contradiction | decide +kernel | simp)

/-- What `Obligations.RingAlarmsAndNodesAreAnswered` assumes can be met, clause by clause. -/
theorem test_hyp_RingAlarmsAndNodesAreAnswered :
    (∃ (s : State) (p : Nat), (p < 4 ∧ s.powered 6 = true)) ∧
    (∃ (s : State) (p : Nat), (4 ≤ p ∨ s.powered 6 = false)) ∧
    (∃ (s : State) (p : Nat), ((s.ring p).symbolPending = false ∨ s.tb.csr < (s.ring p).symbolAt + usTicks 50)) ∧
    (∃ (s : State) (p : Nat), (s.ring p).symbolPending = true ∧ (s.ring p).symbolAt + usTicks 50 ≤ s.tb.csr) ∧
    (∃ (s : State) (p : Nat) (pos : Nat) (c : Nat) (ch : Nat) (rd : Nat) (e : Nat), (4 ≤ p ∨ s.powered 6 = false ∨ pos = 0 ∨ s.ringN p < pos)) ∧
    (∃ (s : State) (p : Nat) (pos : Nat) (c : Nat) (ch : Nat) (rd : Nat) (e : Nat) (r : Ring) (n : Node), s.slk.rings[p]? = some r ∧
    r.nodes[pos - 1]? = some n ∧ p < 4 ∧ s.powered 6 = true ∧ 0 < pos ∧ pos ≤ s.ringN p ∧ s.setFor p = none) ∧
    (∃ (s : State) (p : Nat), (4 ≤ p ∨ s.powered 6 = false ∨ (s.drivesEnd p = true ∧ (s.ring p).partRead = false))) ∧
    (∃ (s : State) (p : Nat), p < 4 ∧ s.powered 6 = true ∧ s.drivesEnd p = true ∧ (s.ring p).partRead = true ∧ s.holds = false) ∧
    (∃ (s : State) (p : Nat) (pos : Nat) (r : Ring) (n : Node) (c : NodeCmd), s.slk.rings[p]? = some r ∧ r.nodes[pos - 1]? = some n ∧ p < 4 ∧
    s.holds = true ∧ s.drivesEnd p = true ∧ r.partRead = true ∧ r.relays = [] ∧ r.queue = [(pos, c)] ∧ c.work = none ∧ n.cmds = [] ∧
    s.reaches p pos = true ∧ fits (s.windowNs p) c.needNs = false) ∧
    (∃ (s : State) (p : Nat) (pos : Nat) (r : Ring) (n : Node) (c : NodeCmd), s.slk.rings[p]? = some r ∧ r.nodes[pos - 1]? = some n ∧ p < 4 ∧
    s.holds = true ∧ s.drivesEnd p = true ∧ r.partRead = true ∧ r.relays = [] ∧ r.queue = [(pos, c)] ∧ c.work = none ∧ n.cmds = [] ∧
    s.reaches p pos = true ∧ fits (s.windowNs p) c.needNs = true) ∧
    (∃ (s : State) (p : Nat) (pos : Nat) (q : Nat) (g : Nat) (res : Nat) (l : List Nat), ((∀ c ∈ (s.node p pos).cmds, c.cseq ≠ q ∨ c.gen8 ≠ g))) ∧
    (∃ (s : State) (p : Nat) (pos : Nat) (q : Nat) (g : Nat) (res : Nat) (l : List Nat) (c : NodeCmd), p < 4 ∧ 0 < pos ∧
    ((s.node p pos).cmds.find? fun c => c.cseq == q && c.gen8 == g) = some c ∧ c.type = 10 ∧ c.work = none ∧ s.sys.cocoonEntering = false) ∧
    (∃ (s : State) (p : Nat) (pos : Nat), (s.node p pos).cmds = []) ∧
    (∃ (s : State) (p : Nat) (pos : Nat) (c : NodeCmd) (cs : List NodeCmd), p < 4 ∧ 0 < pos ∧ (s.node p pos).cmds = c :: cs ∧ c.sends < 3 ∧
    s.reaches p pos = true) ∧
    (∃ (s : State) (p : Nat) (pos : Nat) (c : NodeCmd) (cs : List NodeCmd), p < 4 ∧ 0 < pos ∧ (s.node p pos).cmds = c :: cs ∧ 3 ≤ c.sends ∧
    c.work = none) ∧
    (∃ (s : State) (p : Nat), (s.drivesEnd p = false ∨ started (s.ring p) = false ∨ (s.ring p).partRead = false)) ∧
    (∃ (s : State) (p : Nat), (s.drivesEnd p = false ∨ started (s.ring p) = false)) ∧
    (∃ (s : State) (p : Nat) (pos : Nat), p < 4 ∧ s.drivesEnd p = true ∧ started (s.ring p) = true ∧ (s.ring p).partRead = true ∧
    (s.ownPart p).getLast? = some pos) ∧
    (∃ (s : State) (p : Nat), p < 4 ∧ s.drivesEnd p = true ∧ started (s.ring p) = true) ∧
    (∃ (s : State) (p : Nat) (pos : Nat) (rtt : Nat), (s.drivesEnd p = false ∨ ((s.node p pos).echoDue = 0 ∧ (started (s.ring p) = false ∨ apart rtt (s.node p pos).lastRtt ≤ 20)))) ∧
    (∃ (s : State) (p : Nat) (pos : Nat) (rtt : Nat) (d : Nat) (r : Ring) (n : Node), s.slk.rings[p]? = some r ∧ r.nodes[pos - 1]? = some n ∧ p < 4 ∧
    0 < pos ∧ s.drivesEnd p = true ∧ n.echoDue = 1 ∧ ((n.rtts ++ [rtt]).foldl (fun t r => t + (r - 12000)) 0) / 8 = d ∧
    d ≤ s.fld .slkLatchBase 0 10 * 1000 - 50000) ∧
    (∃ (s : State) (p : Nat) (pos : Nat) (nid : Nat) (c : Nat) (a : Nat) (b : Nat) (ty : NType), (s.ringPos p pos = none ∨ s.drivesEnd p = false)) ∧
    (∃ (s : State) (p : Nat) (pos : Nat) (nid : Nat) (c : Nat) (a : Nat) (b : Nat) (ty : NType) (q : RingPos), s.ringPos p pos = some q ∧
    s.drivesEnd p = true ∧ ((s.ring p).rstate ≠ 1 ∨ a = 0 ∨ b = 0 ∨ a + b = s.ringN p + 1) ∧ q.ntype = ty ∧ (ty ≠ .cell ∨ q.cells = c) ∧
    q.nodeId = nid) ∧
    (∃ (s : State) (p : Nat) (pos : Nat) (nid : Nat) (c : Nat) (a : Nat) (b : Nat) (ty : NType) (q : RingPos), s.ringPos p pos = some q ∧
    s.drivesEnd p = true ∧ ((s.ring p).rstate ≠ 1 ∨ a = 0 ∨ b = 0 ∨ a + b = s.ringN p + 1) ∧ q.ntype = ty ∧ (ty ≠ .cell ∨ q.cells = c) ∧
    q.nodeId ≠ nid) ∧
    (∃ (s : State) (p : Nat) (pos : Nat) (nid : Nat) (c : Nat) (a : Nat) (b : Nat) (ty : NType) (q : RingPos), s.ringPos p pos = some q ∧
    s.drivesEnd p = true ∧ ((s.ring p).rstate ≠ 1 ∨ a = 0 ∨ b = 0 ∨ a + b = s.ringN p + 1) ∧ (q.ntype ≠ ty ∨ (ty = .cell ∧ q.cells ≠ c))) ∧
    (∃ (s : State) (p : Nat) (r : Ring) (n : Node) (q : RingPos), s.slk.rings[p]? = some r ∧ r.nodes[0]? = some n ∧ p < 4 ∧ s.holds = true ∧
    s.drivesEnd p = true ∧ started r = true ∧ r.partRead = true ∧ fits (s.windowNs p) (slkFrameNs 12 + 1200000) = true ∧ s.ringN p = 1 ∧
    s.ringPos p 1 = some q ∧ q.ntype = .cell ∧ n.presence = 1 ∧ n.cmds = [] ∧ tapFirst n = none ∧ s.reaches p 1 = true) := by
  refine ⟨⟨rst, 0, ?_⟩,
    ⟨rst, 4, ?_⟩,
    ⟨(State.setRing (rst) 0 fun x => { x with symbolPending := false }), 0, ?_⟩,
    ⟨(State.setRing ({ rst with tb := { rst.tb with csr := 5000 } }) 3 fun x => { x with symbolPending := true }), 3, ?_⟩,
    ⟨rst, 0, 0, 0, 0, 0, 0, ?_⟩,
    ⟨rst, 3, 1, 0, 0, 0, 0, ((rst.slk.rings[3]?).get (by decide +kernel)), ({ presence := 1 }), ?_⟩,
    ⟨act, 4, ?_⟩,
    ⟨({ rst with wb := { rst.wb with lease := .none } }), 3, ?_⟩,
    ⟨({ rst with wb := { rst.wb with lease := .held }, slk := { rst.slk with rings := List.replicate 4 ({ rg0 with queue := [(1, nc0)] } : Ring) } }),
    3, 1, ({ rg0 with queue := [(1, nc0)] } : Ring), ({ presence := 1 } : Node), nc0, ?_⟩,
    ⟨(({ rst with wb := { rst.wb with lease := .held }, slk := { rst.slk with rings := List.replicate 4 ({ rg0 with queue := [(1, nc0)] } : Ring) } }).setFld .slkPhase 0 0 24 0xFFFFFF),
    3, 1, ({ rg0 with queue := [(1, nc0)] } : Ring), ({ presence := 1 } : Node), nc0, ?_⟩,
    ⟨rst, 0, 0, 0, 0, 0, [], ?_⟩,
    ⟨({ rst with sys := { rst.sys with cocoonEntering := false }, slk := { rst.slk with rings := List.replicate 4 { rg0 with nodes := List.replicate 128 { presence := 1, cmds := [{ nc0 with type := 10, sends := 2 }] } } } }),
    3, 2, 0, 0, 0, [], ({ nc0 with type := 10, sends := 2 }), ?_⟩,
    ⟨(State.setNode ({ rst with slk := { rst.slk with rings := List.replicate 4 { rg0 with nodes := List.replicate 128 { presence := 1, cmds := [{ nc0 with type := 10, sends := 3 }] } } } }) 0 2 fun x => { x with cmds := [] }),
    0, 2, ?_⟩,
    ⟨(State.setNode ({ rst with slk := { rst.slk with rings := List.replicate 4 ({ rg0 with nodes := List.replicate 128 { presence := 1, cmds := [({ nc0 with type := 10, sends := 2 } : NodeCmd)] } } : Ring) } }) 3 2 fun x => { x with cmds := [({ nc0 with type := 10, sends := 2 } : NodeCmd)] }),
    3, 2, ({ nc0 with type := 10, sends := 2 } : NodeCmd), [], ?_⟩,
    ⟨(State.setNode ({ rst with slk := { rst.slk with rings := List.replicate 4 ({ rg0 with nodes := List.replicate 128 { presence := 1, cmds := [({ nc0 with type := 10, sends := 3 } : NodeCmd)] } } : Ring) } }) 3 2 fun x => { x with cmds := [({ nc0 with type := 10, sends := 3 } : NodeCmd)] }),
    3, 2, ({ nc0 with type := 10, sends := 3 } : NodeCmd), [], ?_⟩,
    ⟨act, 3, ?_⟩,
    ⟨act, 3, ?_⟩,
    ⟨rst, 3, 1, ?_⟩,
    ⟨rst, 3, ?_⟩,
    ⟨rst, 0, 2, 0, ?_⟩,
    ⟨({ rst with slk := { rst.slk with rings := List.replicate 4 ({ rg0 with nodes := List.replicate 128 { presence := 1, echoDue := 1 } } : Ring) } }),
    3, 1, 12000, 0, ({ rg0 with nodes := List.replicate 128 { presence := 1, echoDue := 1 } } : Ring), ({ presence := 1, echoDue := 1 } : Node), ?_⟩,
    ⟨({ rst with cfg := { rst.cfg with ringTable := List.replicate 4 [pos0] } }), 0, 0, 0, 0, 0, 0, NType.cell, ?_⟩,
    ⟨rst, 3, 2, 0, 1, 0, 0, .cell, pos0, ?_⟩,
    ⟨rst, 3, 2, 1, 1, 0, 0, .cell, pos0, ?_⟩,
    ⟨rst, 3, 2, 1, 1, 0, 0, .shunt, pos0, ?_⟩,
    ⟨(({ rst with wb := { rst.wb with lease := .held }, cfg := { rst.cfg with ringTable := List.replicate 4 [pos0] } }).setFld .slkPhase 0 0 24 0xFFFFFF),
    3, rg0, ({ presence := 1 } : Node), pos0, ?_⟩⟩ <;> and_intros <;>
    first | exact (Option.some_get _).symm | decide +kernel | rfl | exact ⟨1, by decide +kernel, by decide +kernel, by decide +kernel⟩ | exact ⟨1, by decide +kernel, by decide +kernel⟩ | exact ⟨0, by decide +kernel, by decide +kernel⟩ | (intros; first | rfl | contradiction | decide +kernel | simp)

/-- What `Obligations.RingWorkIsRefusedOrDone` assumes can be met, clause by clause. -/
theorem test_hyp_RingWorkIsRefusedOrDone :
    (∃ (s : State) (w : WorkRef) (op : Op) (p : Nat) (hops : Nat) (an : List Nat), s.ready w 2 0x10 op ∧ dInline op.bytes 0 1 = p ∧
    (4 ≤ p ∨ s.ringN p = 0)) ∧
    (∃ (s : State) (w : WorkRef) (op : Op) (p : Nat) (hops : Nat) (an : List Nat), s.ready w 2 0x10 op ∧ dInline op.bytes 0 1 = p ∧ p < 4 ∧
    s.ringN p ≠ 0 ∧ s.drivesEnd p = false) ∧
    (∃ (s : State) (w : WorkRef) (op : Op) (p : Nat) (hops : Nat) (an : List Nat), s.ready w 2 0x10 op ∧ dInline op.bytes 0 1 = p ∧ p < 4 ∧
    s.ringN p ≠ 0 ∧ s.drivesEnd p = true ∧ op.started = true) ∧
    (∃ (s : State) (w : WorkRef) (op : Op) (p : Nat) (hops : Nat) (an : List Nat) (r : _), s.ready w 2 0x10 op ∧ dInline op.bytes 0 1 = p ∧
    s.slk.rings[p]? = some r ∧ p < 4 ∧ s.ringN p ≠ 0 ∧ s.drivesEnd p = true ∧ op.started = false ∧ hops = s.ringN p ∧
    ((∀ k, 1 ≤ k → k ≤ s.ringN p → k ∈ an))) ∧
    (∃ (s : State) (w : WorkRef) (op : Op) (p : Nat) (pos : Nat) (body : List Byte) (r : _), dInline op.bytes 0 1 = p ∧ dInline op.bytes 1 1 = pos ∧
    s.nodeRefusal p pos = some r ∧ s.ready w 2 0x11 op) ∧
    (∃ (s : State) (w : WorkRef) (op : Op) (p : Nat) (pos : Nat) (body : List Byte) (r : _), dInline op.bytes 0 1 = p ∧ dInline op.bytes 1 1 = pos ∧
    s.nodeRefusal p pos = some r ∧ s.ready w 2 0x13 op) ∧
    (∃ (s : State) (w : WorkRef) (op : Op) (p : Nat) (pos : Nat) (body : List Byte) (r : _), dInline op.bytes 0 1 = p ∧ dInline op.bytes 1 1 = pos ∧
    s.nodeRefusal p pos = some r ∧ s.ready w 2 0x14 op) ∧
    (∃ (s : State) (w : WorkRef) (op : Op) (p : Nat) (pos : Nat) (body : List Byte), dInline op.bytes 0 1 = p ∧ dInline op.bytes 1 1 = pos ∧
    s.nodeRefusal p pos = none ∧ s.ready w 2 0x11 op ∧ dInline op.bytes 2 1 = 9 ∧ leField (s.buffer op) 0 1 = 1) ∧
    (∃ (s : State) (w : WorkRef) (op : Op) (p : Nat) (pos : Nat) (body : List Byte) (ty : Nat), dInline op.bytes 0 1 = p ∧
    dInline op.bytes 1 1 = pos ∧ s.nodeRefusal p pos = none ∧ s.ready w 2 0x11 op ∧ dInline op.bytes 2 1 = ty ∧
    ((ty = 9 → leField (s.buffer op) 0 1 ≠ 1)) ∧ cmdBodyOk ty (s.buffer op) = false) ∧
    (∃ (s : State) (w : WorkRef) (op : Op) (p : Nat) (pos : Nat) (body : List Byte) (ty : Nat), dInline op.bytes 0 1 = p ∧
    dInline op.bytes 1 1 = pos ∧ s.nodeRefusal p pos = none ∧ s.ready w 2 0x11 op ∧ dInline op.bytes 2 1 = ty ∧
    ((ty = 9 → leField (s.buffer op) 0 1 ≠ 1)) ∧ cmdBodyOk ty (s.buffer op) = true ∧ op.started = true) ∧
    (∃ (s : State) (w : WorkRef) (op : Op) (p : Nat) (pos : Nat) (body : List Byte) (ty : Nat), dInline op.bytes 0 1 = p ∧
    dInline op.bytes 1 1 = pos ∧ s.nodeRefusal p pos = none ∧ s.ready w 2 0x11 op ∧ dInline op.bytes 2 1 = ty ∧
    ((ty = 9 → leField (s.buffer op) 0 1 ≠ 1)) ∧ cmdBodyOk ty (s.buffer op) = true ∧ op.started = false) ∧
    (∃ (s : State) (w : WorkRef) (op : Op) (p : Nat) (pos : Nat) (body : List Byte) (q : RingPos) (tap : Nat), dInline op.bytes 0 1 = p ∧
    dInline op.bytes 1 1 = pos ∧ s.nodeRefusal p pos = none ∧ s.ready w 2 0x13 op ∧ s.ringPos p pos = some q ∧ dInline op.bytes 2 1 = tap ∧
    (q.ntype ≠ .cell ∨ q.cells < tap)) ∧
    (∃ (s : State) (w : WorkRef) (op : Op) (p : Nat) (pos : Nat) (body : List Byte) (q : RingPos) (tap : Nat), dInline op.bytes 0 1 = p ∧
    dInline op.bytes 1 1 = pos ∧ s.nodeRefusal p pos = none ∧ s.ready w 2 0x13 op ∧ s.ringPos p pos = some q ∧ dInline op.bytes 2 1 = tap ∧
    q.ntype = .cell ∧ tap ≤ q.cells ∧ op.started = false) ∧
    (∃ (s : State) (w : WorkRef) (op : Op) (p : Nat) (pos : Nat) (body : List Byte), dInline op.bytes 0 1 = p ∧ dInline op.bytes 1 1 = pos ∧
    s.nodeRefusal p pos = none ∧ s.ready w 2 0x14 op) ∧
    (∃ (s : State) (p : Nat) (pos : Nat), (pos = 0 ∨ s.ringN p < pos)) ∧
    (∃ (s : State) (p : Nat) (pos : Nat), p < 4 ∧ 0 < pos ∧ pos ≤ s.ringN p ∧ started (s.ring p) = false) ∧
    (∃ (s : State) (p : Nat) (pos : Nat), p < 4 ∧ 0 < pos ∧ pos ≤ s.ringN p ∧ started (s.ring p) = true ∧ (s.node p pos).presence = 1) ∧
    (∃ (s : State) (w : WorkRef) (op : Op) (p : Nat), s.ready w 2 0x12 op ∧ dInline op.bytes 0 1 = p ∧ 4 ≤ p) ∧
    (∃ (s : State) (w : WorkRef) (op : Op) (p : Nat), s.ready w 2 0x12 op ∧ dInline op.bytes 0 1 = p ∧ p < 4 ∧
    ((∀ x ∈ (s.ring p).sweeps, x.built = false ∨ x.epoch ≠ dInline op.bytes 4 4))) ∧
    (∃ (s : State) (w : WorkRef) (op : Op) (p : Nat) (x : Sweep), s.ready w 2 0x12 op ∧ dInline op.bytes 0 1 = p ∧ p < 4 ∧
    ((s.ring p).sweeps.find? fun x => x.built && x.epoch == dInline op.bytes 4 4) = some x) := by
  refine ⟨⟨({ act with hq := { act.hq with ops := [(mkOp 2 0x10 [(48, 1, 0)])] } }), (.tag 0), (mkOp 2 0x10 [(48, 1, 0)]), 0, 0, [], ?_⟩,
    ⟨(({ rst with hq := { rst.hq with ops := [(mkOp 2 0x10 [(48, 1, 3)])] } }).setReg .slkCtrl 0 0 0), (.tag 0), (mkOp 2 0x10 [(48, 1, 3)]), 3, 0,
    [], ?_⟩,
    ⟨({ rst with hq := { rst.hq with ops := [({ mkOp 2 0x10 [(48, 1, 3)] with started := true })] } }), (.tag 0),
    ({ mkOp 2 0x10 [(48, 1, 3)] with started := true }), 3, 0, [], ?_⟩,
    ⟨({ rst with hq := { rst.hq with ops := [({ mkOp 2 0x10 [(48, 1, 3)] with started := false })] } }), (.tag 0),
    ({ mkOp 2 0x10 [(48, 1, 3)] with started := false }), 3,
    (({ rst with hq := { rst.hq with ops := [({ mkOp 2 0x10 [(48, 1, 3)] with started := false })] } }).ringN 3), [1, 2],
    ((({ rst with hq := { rst.hq with ops := [({ mkOp 2 0x10 [(48, 1, 3)] with started := false })] } }).slk.rings[3]?).get (by decide +kernel)),
    by and_intros <;> first | decide +kernel | (intro k h1 h2; have h3 : k ≤ 2 := Nat.le_trans h2 (by decide +kernel); interval_cases k <;> decide)⟩,
    ⟨({ rst with hq := { rst.hq with ops := [(mkOp 2 0x11 [(48, 1, 0), (49, 1, 0)])] } }), (.tag 0), (mkOp 2 0x11 [(48, 1, 0), (49, 1, 0)]), 0, 0,
    [], ((({ rst with hq := { rst.hq with ops := [(mkOp 2 0x11 [(48, 1, 0), (49, 1, 0)])] } }).nodeRefusal 0 0).get (by decide +kernel)), ?_⟩,
    ⟨({ rst with hq := { rst.hq with ops := [(mkOp 2 0x13 [(48, 1, 0), (49, 1, 0)])] } }), (.tag 0), (mkOp 2 0x13 [(48, 1, 0), (49, 1, 0)]), 0, 0,
    [], ((({ rst with hq := { rst.hq with ops := [(mkOp 2 0x13 [(48, 1, 0), (49, 1, 0)])] } }).nodeRefusal 0 0).get (by decide +kernel)), ?_⟩,
    ⟨({ rst with hq := { rst.hq with ops := [(mkOp 2 0x14 [(48, 1, 0), (49, 1, 0)])] } }), (.tag 0), (mkOp 2 0x14 [(48, 1, 0), (49, 1, 0)]), 0, 0,
    [], ((({ rst with hq := { rst.hq with ops := [(mkOp 2 0x14 [(48, 1, 0), (49, 1, 0)])] } }).nodeRefusal 0 0).get (by decide +kernel)), ?_⟩,
    ⟨({ rst with hq := { rst.hq with ops := [(mkOp 2 0x11 [(48, 1, 0), (49, 1, 2), (50, 1, 9), (28, 4, 1)])] }, mem := cells [(0, 1, 1)] }),
    (.tag 0), (mkOp 2 0x11 [(48, 1, 0), (49, 1, 2), (50, 1, 9), (28, 4, 1)]), 0, 2, [], ?_⟩,
    ⟨({ rst with hq := { rst.hq with ops := [(mkOp 2 0x11 [(48, 1, 0), (49, 1, 2), (50, 1, 0)])] } }), (.tag 0),
    (mkOp 2 0x11 [(48, 1, 0), (49, 1, 2), (50, 1, 0)]), 0, 2, [], 0, ?_⟩,
    ⟨({ rst with hq := { rst.hq with ops := [({ mkOp 2 0x11 [(48, 1, 0), (49, 1, 2), (50, 1, 10), (28, 4, 73)] with started := true })] } }),
    (.tag 0), ({ mkOp 2 0x11 [(48, 1, 0), (49, 1, 2), (50, 1, 10), (28, 4, 73)] with started := true }), 0, 2, [], 10, ?_⟩,
    ⟨({ rst with hq := { rst.hq with ops := [({ mkOp 2 0x11 [(48, 1, 0), (49, 1, 2), (50, 1, 10), (28, 4, 73)] with started := false })] } }),
    (.tag 0), ({ mkOp 2 0x11 [(48, 1, 0), (49, 1, 2), (50, 1, 10), (28, 4, 73)] with started := false }), 0, 2, [], 10, ?_⟩,
    ⟨({ rst with hq := { rst.hq with ops := [(mkOp 2 0x13 [(48, 1, 0), (49, 1, 2), (50, 1, 2)])] } }), (.tag 0),
    (mkOp 2 0x13 [(48, 1, 0), (49, 1, 2), (50, 1, 2)]), 0, 2, [], pos0, 2, ?_⟩,
    ⟨({ rst with hq := { rst.hq with ops := [({ mkOp 2 0x13 [(48, 1, 0), (49, 1, 2), (50, 1, 1)] with started := false })] } }), (.tag 0),
    ({ mkOp 2 0x13 [(48, 1, 0), (49, 1, 2), (50, 1, 1)] with started := false }), 0, 2, [], pos0, 1, ?_⟩,
    ⟨({ rst with hq := { rst.hq with ops := [(mkOp 2 0x14 [(48, 1, 0), (49, 1, 2)])] } }), (.tag 0), (mkOp 2 0x14 [(48, 1, 0), (49, 1, 2)]), 0, 2,
    [], ?_⟩,
    ⟨rst, 0, 0, ?_⟩,
    ⟨({ rst with slk := { rst.slk with rings := List.replicate 4 { rg0 with rstate := 1 } } }), 3, 1, ?_⟩,
    ⟨(State.setNode (rst) 3 1 fun x => { x with presence := 1 }), 3, 1, ?_⟩,
    ⟨({ rst with hq := { rst.hq with ops := [(mkOp 2 0x12 [(48, 1, 4)])] } }), (.tag 0), (mkOp 2 0x12 [(48, 1, 4)]), 4, ?_⟩,
    ⟨({ rst with hq := { rst.hq with ops := [(mkOp 2 0x12 [(48, 1, 3)])] } }), (.tag 0), (mkOp 2 0x12 [(48, 1, 3)]), 3, ?_⟩,
    ⟨({ rst with hq := { rst.hq with ops := [(mkOp 2 0x12 [(48, 1, 3), (52, 4, 1)])] }, slk := { rst.slk with rings := List.replicate 4 { rg0 with sweeps := [{ sw0 with built := true }] } } }),
    (.tag 0), (mkOp 2 0x12 [(48, 1, 3), (52, 4, 1)]), 3, ({ sw0 with built := true }), ?_⟩⟩ <;> and_intros <;>
    first | exact (Option.some_get _).symm | decide +kernel | rfl | exact ⟨1, by decide +kernel, by decide +kernel, by decide +kernel⟩ | exact ⟨1, by decide +kernel, by decide +kernel⟩ | exact ⟨0, by decide +kernel, by decide +kernel⟩ | (intros; first | rfl | contradiction | decide +kernel | simp)

/-- What `Obligations.EstimatorTasksKeepTheirEpochs` assumes can be met, clause by clause. -/
theorem test_hyp_EstimatorTasksKeepTheirEpochs :
    (∃ (s : State) (e : Nat), (s.est.running = false ∨ s.arrayOn = false)) ∧
    (∃ (s : State) (e : Nat), s.publishDue e = false) ∧
    (∃ (s : State) (e : Nat), (s.allUpdated e = false ∨ (s.est.parSnap.all fun x => x.1 != e) = true)) ∧
    (∃ (s : State) (e : Nat), (s.allUpdated e = false ∨ (s.est.sumSnap.all fun x => x.1 != e) = true)) ∧
    (∃ (s : State) (p : Nat) (e : Nat) (us : Nat), (4 ≤ p ∨ s.arrayOn = false ∨ s.bit .slkCtrl (4 + p) = false)) ∧
    (∃ (s : State) (p : Nat) (e : Nat) (us : Nat), s.est.running = true ∧
    (s.bit .estCtrl 0 = false ∨ s.resetDue p e = true ∨ s.nextUpdate p = none ∨ (∃ w, s.nextUpdate p = some w ∧ (w.built = false ∨ w.epoch ≠ e)))) ∧
    (∃ (s : State) (p : Nat) (e : Nat) (us : Nat) (w : Sweep), p < 4 ∧ s.arrayOn = true ∧ s.bit .slkCtrl (4 + p) = true ∧ s.est.running = true ∧
    s.bit .estCtrl 0 = true ∧ s.resetDue p e = false ∧ s.nextUpdate p = some w ∧ w.built = true ∧ w.epoch = e ∧ ((∀ x ∈ s.est.lagWait, x.1 ≠ p)) ∧
    s.resultsLate e = true) ∧
    (∃ (s : State) (p : Nat) (e : Nat) (us : Nat) (w : Sweep), p < 4 ∧ s.arrayOn = true ∧ s.bit .slkCtrl (4 + p) = true ∧ s.est.running = true ∧
    s.bit .estCtrl 0 = true ∧ s.resetDue p e = false ∧ s.nextUpdate p = some w ∧ w.built = true ∧ w.epoch = e ∧ ((∀ x ∈ s.est.lagWait, x.1 ≠ p)) ∧
    s.resultsLate e = false) ∧
    (∃ (s : State) (e : Nat), s.est.running = true ∧ s.arrayOn = true ∧ s.publishDue e = true) ∧
    (∃ (s : State) (e : Nat) (l : List (Nat × Cell)) (m : List (Nat × List (Nat × Cell))), s.est.running = true ∧ s.arrayOn = true ∧
    s.est.parSnap = (e, l) :: m ∧ s.allUpdated e = true ∧ s.est.lagWait = []) ∧
    (∃ (s : State) (e : Nat) (l : List (Nat × Cell)) (m : List (Nat × List (Nat × Cell))), s.est.running = true ∧ s.arrayOn = true ∧
    s.est.sumSnap = (e, l) :: m ∧ s.allUpdated e = true ∧ s.est.lagWait = []) ∧
    (∃ (s : State) (e : Nat), (s.bit .estCtrl 1 = false ∨ e % (s.reg .estBalPeriod).toNat ≠ 0 ∨ s.est.epoch ≠ e ∨ laterEpoch e s.est.planEpoch = false)) ∧
    (∃ (s : State) (e : Nat), s.est.running = true ∧ s.arrayOn = true ∧ s.bit .estCtrl 1 = true ∧ (s.reg .estBalPeriod).toNat ≠ 0 ∧
    e % (s.reg .estBalPeriod).toNat = 0 ∧ s.est.epoch = e ∧ laterEpoch e s.est.planEpoch = true) ∧
    (∃ (s : State) (p : Nat) (h : Nat), (s.sys.mode ≠ .cocoon ∨ s.drivesEnd p = false)) ∧
    (∃ (s : State) (p : Nat) (h : Nat) (r : Ring), s.slk.rings[p]? = some r ∧ p < 4 ∧ s.sys.mode = .cocoon ∧ s.sys.cocoonWoke = false ∧
    s.drivesEnd p = true ∧ started r = true ∧ r.healing = false ∧ ((∀ w ∈ r.sweeps, w.built = true)) ∧
    (s.fld .slkCkCtrl 16 8 = 0 ∨ h < s.fld .slkCkCtrl 16 8)) ∧
    (∃ (s : State) (c : Nat), (s.sys.mode ≠ .cocoon ∨ s.sys.cocoonWoke = true)) ∧
    (∃ (s : State) (c : Nat), s.sys.mode = .cocoon ∧ s.sys.cocoonWoke = false) := by
  refine ⟨⟨({ act with est := { act.est with running := false } }), 0, ?_⟩,
    ⟨({ act with est := { act.est with pubEpoch := 5 } }), 5, ?_⟩,
    ⟨act, 0, ?_⟩,
    ⟨act, 0, ?_⟩,
    ⟨act, 0, 0, 0, ?_⟩,
    ⟨(State.setFld ({ act with est := { act.est with running := true } }) .estCtrl 0 0 1 0), 0, 0, 0, ?_⟩,
    ⟨((State.setFld (State.setFld ({ rst with est := { rst.est with running := true, parSnap := [(0, [])], ringEpoch := [0, 0, 0, 0] }, slk := { rst.slk with rings := List.replicate 4 ({ rg0 with sweeps := [({ sw0 with epoch := 2, built := true } : Sweep)] } : Ring) } }) .slkCtrl 0 (4 + 3) 1 1) .estCtrl 0 0 1 1).setFld .estCtrl 0 0 1 1),
    3, 2, 0, ({ sw0 with epoch := 2, built := true } : Sweep),
    by and_intros <;> first | decide +kernel | rfl | exact fun w hw => absurd hw (List.not_mem_nil)⟩,
    ⟨((State.setFld (State.setFld ({ rst with est := { rst.est with running := true }, slk := { rst.slk with rings := List.replicate 4 ({ rg0 with sweeps := [({ sw0 with built := true } : Sweep)] } : Ring) } }) .slkCtrl 0 (4 + 3) 1 1) .estCtrl 0 0 1 1).setFld .estCtrl 0 0 1 1),
    3, 1, 0, ({ sw0 with built := true } : Sweep), by and_intros <;> first | decide +kernel | rfl | exact fun w hw => absurd hw (List.not_mem_nil)⟩,
    ⟨({ act with est := { act.est with running := true } }), 0, ?_⟩,
    ⟨({ act with est := { act.est with running := true, parSnap := [(0, [])], lagWait := [] } }), 0, [], [], ?_⟩,
    ⟨({ act with est := { act.est with running := true, sumSnap := [(0, [])], lagWait := [] } }), 0, [], [], ?_⟩,
    ⟨(State.setFld (act) .estCtrl 0 1 1 0), 0, ?_⟩,
    ⟨(State.setFld ({ act with est := { act.est with running := true, epoch := 0 } }) .estCtrl 0 1 1 1), 0, ?_⟩,
    ⟨act, 0, 0, ?_⟩,
    ⟨(((({ rst with sys := { rst.sys with mode := .cocoon, formerHolder := true } } : State)))), 3, 0, rg0,
    by and_intros <;> first | decide +kernel | rfl | exact fun w hw => absurd hw (List.not_mem_nil)⟩,
    ⟨act, 0, ?_⟩,
    ⟨({ act with sys := { act.sys with mode := .cocoon, cocoonWoke := false } }), 0, ?_⟩⟩ <;> and_intros <;>
    first | exact (Option.some_get _).symm | decide +kernel | rfl | exact ⟨1, by decide +kernel, by decide +kernel, by decide +kernel⟩ | exact ⟨1, by decide +kernel, by decide +kernel⟩ | exact ⟨0, by decide +kernel, by decide +kernel⟩ | (intros; first | rfl | contradiction | decide +kernel | simp)

/-- What `Obligations.EstimatorWorkReadsAndResets` assumes can be met, clause by clause. -/
theorem test_hyp_EstimatorWorkReadsAndResets :
    (∃ (s : State) (w : WorkRef) (op : Op) (first : Nat) (n : Nat), dInline op.bytes 0 2 = first ∧ dInline op.bytes 2 2 = n ∧ s.ready w 0 0x10 op ∧
    s.est.running = false) ∧
    (∃ (s : State) (w : WorkRef) (op : Op) (first : Nat) (n : Nat), dInline op.bytes 0 2 = first ∧ dInline op.bytes 2 2 = n ∧ s.ready w 0 0x10 op ∧
    s.est.running = true ∧ s.est.cells.length < first + n) ∧
    (∃ (s : State) (w : WorkRef) (op : Op) (first : Nat) (n : Nat), dInline op.bytes 0 2 = first ∧ dInline op.bytes 2 2 = n ∧ s.ready w 0 0x10 op ∧
    s.est.running = true ∧ first + n ≤ s.est.cells.length) ∧
    (∃ (s : State) (w : WorkRef) (op : Op) (first : Nat) (n : Nat), dInline op.bytes 0 2 = first ∧ dInline op.bytes 2 2 = n ∧ s.ready w 0 0x13 op ∧
    s.est.running = false) ∧
    (∃ (s : State) (w : WorkRef) (op : Op) (first : Nat) (n : Nat), dInline op.bytes 0 2 = first ∧ dInline op.bytes 2 2 = n ∧ s.ready w 0 0x13 op ∧
    s.est.running = true ∧ s.est.cells.length < first + n) ∧
    (∃ (s : State) (w : WorkRef) (op : Op) (first : Nat) (n : Nat), dInline op.bytes 0 2 = first ∧ dInline op.bytes 2 2 = n ∧ s.ready w 0 0x13 op ∧
    s.est.running = true ∧ first + n ≤ s.est.cells.length) ∧
    (∃ (s : State) (w : WorkRef) (op : Op) (first : Nat) (n : Nat), dInline op.bytes 0 2 = first ∧ dInline op.bytes 2 2 = n ∧ s.holds = true ∧
    s.ready w 0 0x11 op ∧ (s.est.epochCuts.all fun e => decide (e.2 < op.jsn.getD 0)) = true) ∧
    (∃ (s : State) (w : WorkRef) (op : Op) (first : Nat) (n : Nat), dInline op.bytes 0 2 = first ∧ dInline op.bytes 2 2 = n ∧ s.holds = true ∧
    s.ready w 0 0x11 op ∧ (s.est.epochCuts.any fun e => decide (op.jsn.getD 0 ≤ e.2)) = true ∧ s.est.running = false) ∧
    (∃ (s : State) (w : WorkRef) (op : Op) (first : Nat) (n : Nat), dInline op.bytes 0 2 = first ∧ dInline op.bytes 2 2 = n ∧ s.holds = true ∧
    s.ready w 0 0x11 op ∧ (s.est.epochCuts.any fun e => decide (op.jsn.getD 0 ≤ e.2)) = true ∧ s.est.running = true ∧ s.est.cells.length ≤ first) ∧
    (∃ (s : State) (w : WorkRef) (op : Op) (first : Nat) (n : Nat), dInline op.bytes 0 2 = first ∧ dInline op.bytes 2 2 = n ∧ s.holds = true ∧
    s.ready w 0 0x11 op ∧ (s.est.epochCuts.any fun e => decide (op.jsn.getD 0 ≤ e.2)) = true ∧ s.est.running = true ∧ first < s.est.cells.length) ∧
    (∃ (s : State) (w : WorkRef) (op : Op) (e : Nat) (n : Nat) (first : Nat) (k : Nat), s.ready w 0 0x12 op ∧ dInline op.bytes 0 4 = e ∧
    dInline op.bytes 4 4 = n ∧ dInline op.bytes 8 2 = first ∧ dInline op.bytes 10 2 = k ∧ s.est.running = true ∧ s.est.cells.length < first + k) ∧
    (∃ (s : State) (w : WorkRef) (op : Op) (e : Nat) (n : Nat) (first : Nat) (k : Nat), s.ready w 0 0x12 op ∧ dInline op.bytes 0 4 = e ∧
    dInline op.bytes 4 4 = n ∧ dInline op.bytes 8 2 = first ∧ dInline op.bytes 10 2 = k ∧ s.est.running = true ∧ first + k ≤ s.est.cells.length ∧
    ((∀ b ∈ s.est.history, b.epoch ≠ e)) ∧ 0 < n) ∧
    (∃ (s : State) (w : WorkRef) (op : Op) (e : Nat) (n : Nat) (first : Nat) (k : Nat) (pre : List HistBlock) (l : List HistBlock), s.ready w 0 0x12 op ∧
    dInline op.bytes 0 4 = e ∧ dInline op.bytes 4 4 = n ∧ dInline op.bytes 8 2 = first ∧ dInline op.bytes 10 2 = k ∧ s.est.running = true ∧
    first + k ≤ s.est.cells.length ∧ s.est.history = pre ++ l ∧ ((∀ b ∈ pre, b.epoch ≠ e)) ∧ ((∀ b ∈ l.head?, b.epoch = e)) ∧ n ≤ l.length) ∧
    (∃ (s : State) (w : WorkRef) (op : Op) (p : Nat) (pos : Nat), s.ready w 0 0x14 op ∧ dInline op.bytes 0 1 = p ∧ dInline op.bytes 1 1 = pos ∧
    s.est.running = false) ∧
    (∃ (s : State) (w : WorkRef) (op : Op) (p : Nat) (pos : Nat), s.ready w 0 0x14 op ∧ dInline op.bytes 0 1 = p ∧ dInline op.bytes 1 1 = pos ∧
    s.est.running = true ∧ ((∀ c ∈ s.est.cells, c.ring ≠ p ∨ c.pos ≠ pos))) ∧
    (∃ (s : State) (w : WorkRef) (op : Op) (p : Nat) (pos : Nat) (c : Cell) (t : List Nat) (rt : List Nat), s.ready w 0 0x14 op ∧
    dInline op.bytes 0 1 = p ∧ dInline op.bytes 1 1 = pos ∧ s.est.running = true ∧ c ∈ s.est.cells ∧ c.ring = p ∧ c.pos = pos ∧
    (assocGet s.est.plans (p, pos)).getD ([], []) = (t, rt)) := by
  refine ⟨⟨({ act with hq := { act.hq with ops := [(mkOp 0 0x10 [(48, 2, 0), (50, 2, 0)])] }, est := { act.est with running := false } }), (.tag 0),
    (mkOp 0 0x10 [(48, 2, 0), (50, 2, 0)]), 0, 0, ?_⟩,
    ⟨({ act with hq := { act.hq with ops := [(mkOp 0 0x10 [(48, 2, 0), (50, 2, 1)])] }, est := { act.est with running := true } }), (.tag 0),
    (mkOp 0 0x10 [(48, 2, 0), (50, 2, 1)]), 0, 1, ?_⟩,
    ⟨({ act with hq := { act.hq with ops := [(mkOp 0 0x10 [(48, 2, 0), (50, 2, 0)])] }, est := { act.est with running := true } }), (.tag 0),
    (mkOp 0 0x10 [(48, 2, 0), (50, 2, 0)]), 0, 0, ?_⟩,
    ⟨({ act with hq := { act.hq with ops := [(mkOp 0 0x13 [(48, 2, 0), (50, 2, 0)])] }, est := { act.est with running := false } }), (.tag 0),
    (mkOp 0 0x13 [(48, 2, 0), (50, 2, 0)]), 0, 0, ?_⟩,
    ⟨({ act with hq := { act.hq with ops := [(mkOp 0 0x13 [(48, 2, 0), (50, 2, 1)])] }, est := { act.est with running := true } }), (.tag 0),
    (mkOp 0 0x13 [(48, 2, 0), (50, 2, 1)]), 0, 1, ?_⟩,
    ⟨({ act with hq := { act.hq with ops := [(mkOp 0 0x13 [(48, 2, 0), (50, 2, 0)])] }, est := { act.est with running := true } }), (.tag 0),
    (mkOp 0 0x13 [(48, 2, 0), (50, 2, 0)]), 0, 0, ?_⟩,
    ⟨({ act with hq := { act.hq with ops := [(mkOp 0 0x11 [(48, 2, 0), (50, 2, 0)])] }, wb := { act.wb with lease := .held } }), (.tag 0),
    (mkOp 0 0x11 [(48, 2, 0), (50, 2, 0)]), 0, 0, ?_⟩,
    ⟨({ act with hq := { act.hq with ops := [(mkOp 0 0x11 [(48, 2, 0), (50, 2, 0)])] }, wb := { act.wb with lease := .held }, est := { act.est with running := false, epochCuts := [((0, 0), 1)] } }),
    (.tag 0), (mkOp 0 0x11 [(48, 2, 0), (50, 2, 0)]), 0, 0, ?_⟩,
    ⟨({ act with hq := { act.hq with ops := [(mkOp 0 0x11 [(48, 2, 0), (50, 2, 0)])] }, wb := { act.wb with lease := .held }, est := { act.est with running := true, epochCuts := [((0, 0), 1)] } }),
    (.tag 0), (mkOp 0 0x11 [(48, 2, 0), (50, 2, 0)]), 0, 0, ?_⟩,
    ⟨({ act with hq := { act.hq with ops := [(mkOp 0 0x11 [(48, 2, 0), (50, 2, 0)])] }, wb := { act.wb with lease := .held }, est := { act.est with running := true, epochCuts := [((0, 0), 1)], cells := ([{ ring := 0, pos := 1, k := 0, string := 0 }] : List Cell) } }),
    (.tag 0), (mkOp 0 0x11 [(48, 2, 0), (50, 2, 0)]), 0, 0, ?_⟩,
    ⟨({ act with hq := { act.hq with ops := [(mkOp 0 0x12 [(48, 4, 0), (52, 4, 0), (56, 2, 0), (58, 2, 1)])] }, est := { act.est with running := true } }),
    (.tag 0), (mkOp 0 0x12 [(48, 4, 0), (52, 4, 0), (56, 2, 0), (58, 2, 1)]), 0, 0, 0, 1, ?_⟩,
    ⟨({ act with hq := { act.hq with ops := [(mkOp 0 0x12 [(48, 4, 0), (52, 4, 1), (56, 2, 0), (58, 2, 0)])] }, est := { act.est with running := true } }),
    (.tag 0), (mkOp 0 0x12 [(48, 4, 0), (52, 4, 1), (56, 2, 0), (58, 2, 0)]), 0, 1, 0, 0, ?_⟩,
    ⟨({ act with hq := { act.hq with ops := [(mkOp 0 0x12 [(48, 4, 7), (52, 4, 1), (56, 2, 0), (58, 2, 0)])] }, est := { act.est with running := true, history := [({ epoch := 7, angle := 0, astatus := 0, cells := [] } : HistBlock)] } }),
    (.tag 0), (mkOp 0 0x12 [(48, 4, 7), (52, 4, 1), (56, 2, 0), (58, 2, 0)]), 7, 1, 0, 0, [],
    [({ epoch := 7, angle := 0, astatus := 0, cells := [] } : HistBlock)], ?_⟩,
    ⟨({ act with hq := { act.hq with ops := [(mkOp 0 0x14 [(48, 1, 0), (49, 1, 0)])] }, est := { act.est with running := false } }), (.tag 0),
    (mkOp 0 0x14 [(48, 1, 0), (49, 1, 0)]), 0, 0, ?_⟩,
    ⟨({ act with hq := { act.hq with ops := [(mkOp 0 0x14 [(48, 1, 0), (49, 1, 0)])] }, est := { act.est with running := true } }), (.tag 0),
    (mkOp 0 0x14 [(48, 1, 0), (49, 1, 0)]), 0, 0, ?_⟩,
    ⟨({ act with hq := { act.hq with ops := [(mkOp 0 0x14 [(48, 1, 0), (49, 1, 1)])] }, est := { act.est with running := true, cells := ([{ ring := 0, pos := 1, k := 0, string := 0 }] : List Cell) } }),
    (.tag 0), (mkOp 0 0x14 [(48, 1, 0), (49, 1, 1)]), 0, 1, ({ ring := 0, pos := 1, k := 0, string := 0 } : Cell), [], [], ?_⟩⟩ <;> and_intros <;>
    first | exact (Option.some_get _).symm | decide +kernel | rfl | exact ⟨1, by decide +kernel, by decide +kernel, by decide +kernel⟩ | exact ⟨1, by decide +kernel, by decide +kernel⟩ | exact ⟨0, by decide +kernel, by decide +kernel⟩ | (intros; first | rfl | contradiction | decide +kernel | simp)

/-- What `Obligations.ProtectionPlaneTripsGroups` assumes can be met, clause by clause. -/
theorem test_hyp_ProtectionPlaneTripsGroups :
    (∃ (s : State) (i : Nat), (s.prot.set = none ∨ (∀ x, s.prot.set = some x → s.strOverdue i x.missLimitMs = false) ∨ (s.prot.strings.getD i {}).missLimit = true)) ∧
    (∃ (s : State) (i : Nat) (x : ProtSet), s.prot.set = some x ∧ i < s.prot.strings.length ∧ s.strOverdue i x.missLimitMs = true ∧
    (s.prot.strings.getD i {}).missLimit = false) ∧
    (∃ (s : State) (i : Nat), (s.prot.set = none ∨ (∀ x, s.prot.set = some x → s.strOverdue i x.missTripMs = false) ∨ (s.prot.strings.getD i {}).missTrip = true)) ∧
    (∃ (s : State) (i : Nat) (x : ProtSet), s.prot.set = some x ∧ s.strOverdue i x.missTripMs = true ∧ (s.prot.strings.getD i {}).missTrip = false) ∧
    (∃ (s : State) (crc : Bool) (gen : Nat) (m : Nat) (c : Nat) (r : Nat) (p : Nat) (k : Nat) (e : Nat), (s.wbUp = false ∨ crc = false ∨ gen < s.wb.gen)) ∧
    (∃ (s : State) (crc : Bool) (gen : Nat) (m : Nat) (c : Nat) (r : Nat) (p : Nat) (k : Nat) (e : Nat), s.wbUp = true ∧ crc = true ∧ gen = s.wb.gen) ∧
    (∃ (s : State) (g : Nat), ((s.trip g).tripped = false ∨ (s.trip g).confirmDue = false ∨ (s.trip g).confirmed = true ∨ (∀ x e, s.prot.set = some x → x.groups[g]? = some e → s.tb.csr < (s.trip g).trippedAt + usTicks (1000 * e.confirmMs)))) ∧
    (∃ (s : State) (g : Nat) (x : ProtSet) (e : GroupEntry), g < s.prot.groups.length ∧ (s.trip g).tripped = true ∧ (s.trip g).confirmDue = true ∧
    (s.trip g).confirmed = false ∧ s.prot.set = some x ∧ x.groups[g]? = some e ∧ (s.trip g).trippedAt + usTicks (1000 * e.confirmMs) ≤ s.tb.csr ∧
    e.backupEn = false) ∧
    (∃ (s : State) (g : Nat) (x : ProtSet) (e : GroupEntry), g < s.prot.groups.length ∧ (s.trip g).tripped = true ∧ (s.trip g).confirmDue = true ∧
    (s.trip g).confirmed = false ∧ s.prot.set = some x ∧ x.groups[g]? = some e ∧ (s.trip g).trippedAt + usTicks (1000 * e.confirmMs) ≤ s.tb.csr ∧
    e.backupEn = true) ∧
    (∃ (s : State), (s.prot.set = none ∨ s.powered 6 = false)) ∧
    (∃ (s : State) (x : ProtSet) (l : List Nat), s.prot.set = some x ∧ s.powered 6 = true ∧
    l = ((List.range 4).filter fun p => bitOf x.canPorts p && (s.canTx p || (s.canLive p && s.protSelf))) ∧ l ≠ []) ∧
    (∃ (s : State) (x : ProtSet), s.prot.set = some x ∧ s.powered 6 = true) := by
  refine ⟨⟨({ act with prot := { act.prot with set := none } }), 0, ?_⟩,
    ⟨({ act with prot := { act.prot with set := some ps0 }, cfg := { act.cfg with ringTable := List.replicate 4 [pos0] }, slk := { act.slk with rings := List.replicate 4 { rg0 with nodes := List.replicate 128 { presence := 1, missingRun := true } } }, tb := { act.tb with csr := 10 ^ 9 } }),
    0, ps0, ?_⟩,
    ⟨({ act with prot := { act.prot with set := none } }), 0, ?_⟩,
    ⟨({ act with prot := { act.prot with set := some ps0 }, cfg := { act.cfg with ringTable := List.replicate 4 [pos0] }, slk := { act.slk with rings := List.replicate 4 { rg0 with nodes := List.replicate 128 { presence := 1, missingRun := true } } }, tb := { act.tb with csr := 10 ^ 9 } }),
    0, ps0, ?_⟩,
    ⟨({ act with wb := { act.wb with lane0 := false, lane1 := false } }), false, 0, 0, 0, 0, 0, 0, 0, ?_⟩,
    ⟨act, true, (act.wb.gen), 0, 0, 0, 0, 0, 0, ?_⟩,
    ⟨({ act with prot := { act.prot with groups := List.replicate 4 { tripped := false } } } : State), 3, .inl (by decide +kernel)⟩,
    ⟨({ act with prot := { act.prot with set := some ({ ps0 with groups := [({ ge0 with en := true } : GroupEntry)] } : ProtSet), groups := List.replicate 4 { tripped := true, confirmDue := true } } }),
    0, ({ ps0 with groups := [({ ge0 with en := true } : GroupEntry)] } : ProtSet), ({ ge0 with en := true } : GroupEntry), ?_⟩,
    ⟨({ act with prot := { act.prot with set := some ({ ps0 with groups := [({ ge0 with en := true, backupEn := true } : GroupEntry)] } : ProtSet), groups := List.replicate 4 { tripped := true, confirmDue := true } } }),
    0, ({ ps0 with groups := [({ ge0 with en := true, backupEn := true } : GroupEntry)] } : ProtSet),
    ({ ge0 with en := true, backupEn := true } : GroupEntry), ?_⟩,
    ⟨({ act with prot := { act.prot with set := none } }), ?_⟩,
    ⟨(({ act with prot := { act.prot with set := some ({ ps0 with canPorts := 15 } : ProtSet) } }).setFld .canCtrl 0 0 1 1),
    ({ ps0 with canPorts := 15 } : ProtSet), _, by refine ⟨rfl, by decide +kernel, rfl, by decide +kernel⟩⟩,
    ⟨({ act with prot := { act.prot with set := some ps0 } }), ps0, ?_⟩⟩ <;> and_intros <;>
    first | exact (Option.some_get _).symm | decide +kernel | rfl | exact ⟨1, by decide +kernel, by decide +kernel, by decide +kernel⟩ | exact ⟨1, by decide +kernel, by decide +kernel⟩ | exact ⟨0, by decide +kernel, by decide +kernel⟩ | (intros; first | rfl | contradiction | decide +kernel | simp)

/-- What `Obligations.ProtectionWorkChangesTheSet` assumes can be met, clause by clause. -/
theorem test_hyp_ProtectionWorkChangesTheSet :
    (∃ (s : State) (w : WorkRef) (op : Op) (t : _) (c : _), s.holds = true ∧ s.ready w 2 0x20 op ∧
    s.judgeArtefact (some 4) (s.buffer op) = .refused t c) ∧
    (∃ (s : State) (w : WorkRef) (op : Op) (a : _), s.holds = true ∧ s.ready w 2 0x20 op ∧ s.judgeArtefact (some 4) (s.buffer op) = .good a ∧
    protSetOf a.body = none) ∧
    (∃ (s : State) (w : WorkRef) (op : Op) (a : Artefact) (x : ProtSet), s.holds = true ∧ s.ready w 2 0x20 op ∧
    s.judgeArtefact (some 4) (s.buffer op) = .good a ∧ protSetOf a.body = some x ∧ (x.pairId ≠ s.pairId ∨ s.cfg.manager = true)) ∧
    (∃ (s : State) (w : WorkRef) (op : Op) (a : Artefact) (x : ProtSet), s.holds = true ∧ s.ready w 2 0x20 op ∧
    s.judgeArtefact (some 4) (s.buffer op) = .good a ∧ protSetOf a.body = some x ∧ x.pairId = s.pairId ∧ s.cfg.manager = false ∧ s.setOk x = false) ∧
    (∃ (s : State) (w : WorkRef) (op : Op) (a : Artefact) (x : ProtSet), s.holds = true ∧ s.ready w 2 0x20 op ∧
    s.judgeArtefact (some 4) (s.buffer op) = .good a ∧ protSetOf a.body = some x ∧ x.pairId = s.pairId ∧ s.cfg.manager = false ∧ s.setOk x = true) ∧
    (∃ (s : State) (w : WorkRef) (op : Op), s.holds = true ∧ s.ready w 2 0x21 op ∧ ((∀ j, op.jsn = some j → s.wb.covered < j)) ∧ op.jsn.isSome = true) ∧
    (∃ (s : State) (w : WorkRef) (op : Op), s.holds = true ∧ s.ready w 2 0x21 op ∧ ((∀ j, op.jsn = some j → j ≤ s.wb.covered)) ∧
    (s.prot.staged = none ∨ leField s.prot.stagedDigest 0 8 ≠ dInline op.bytes 0 8)) ∧
    (∃ (s : State) (w : WorkRef) (op : Op) (x : ProtSet) (y : ProtSet), s.holds = true ∧ s.ready w 2 0x21 op ∧
    ((∀ j, op.jsn = some j → j ≤ s.wb.covered)) ∧ s.prot.staged = some x ∧ leField s.prot.stagedDigest 0 8 = dInline op.bytes 0 8 ∧
    s.prot.set = some y ∧ x.setSeq ≤ y.setSeq) ∧
    (∃ (s : State) (w : WorkRef) (op : Op) (x : ProtSet), s.holds = true ∧ s.ready w 2 0x21 op ∧ ((∀ j, op.jsn = some j → j ≤ s.wb.covered)) ∧
    s.prot.staged = some x ∧ leField s.prot.stagedDigest 0 8 = dInline op.bytes 0 8 ∧ ((∀ y, s.prot.set = some y → y.setSeq < x.setSeq)) ∧
    ((∀ c ∈ s.est.epochCuts, c.2 < op.jsn.getD 0))) ∧
    (∃ (s : State) (w : WorkRef) (op : Op), s.holds = true ∧ s.ready w 2 0x22 op ∧ s.prot.staged = none) ∧
    (∃ (s : State) (w : WorkRef) (op : Op), s.holds = true ∧ s.ready w 2 0x22 op ∧ s.prot.staged ≠ none) ∧
    (∃ (s : State) (w : WorkRef) (op : Op), s.holds = true ∧ s.ready w 2 0x23 op ∧
    ((∃ g, g < 4 ∧ bitOf (dInline op.bytes 0 1) g = true ∧ (s.trip g).en = false))) ∧
    (∃ (s : State) (w : WorkRef) (op : Op), s.holds = true ∧ s.ready w 2 0x23 op ∧
    ((∀ g, g < 4 → bitOf (dInline op.bytes 0 1) g = true → (s.trip g).en = true)) ∧
    ((∃ g, g < 4 ∧ bitOf (dInline op.bytes 0 1) g = true ∧ (s.trip g).tripped = true ∧ s.resetOk g = false))) ∧
    (∃ (s : State) (w : WorkRef) (op : Op), s.holds = true ∧ s.ready w 2 0x23 op ∧
    ((∀ g, g < 4 → bitOf (dInline op.bytes 0 1) g = true → (s.trip g).en = true ∧ ((s.trip g).tripped = true → s.resetOk g = true)))) ∧
    (∃ (s : State) (w : WorkRef) (op : Op) (g : Nat) (a : Bool) (b : Bool) (c : Bool), s.holds = true ∧ s.ready w 2 0x24 op ∧
    dInline op.bytes 0 1 = g ∧ (4 ≤ g ∨ (s.trip g).en = false)) ∧
    (∃ (s : State) (w : WorkRef) (op : Op) (g : Nat) (a : Bool) (b : Bool) (c : Bool), s.holds = true ∧ s.ready w 2 0x24 op ∧
    dInline op.bytes 0 1 = g ∧ g < 4 ∧ (s.trip g).en = true ∧ s.groupLoaded g = true) ∧
    (∃ (s : State) (w : WorkRef) (op : Op) (g : Nat) (a : Bool) (b : Bool) (c : Bool), s.holds = true ∧ s.ready w 2 0x24 op ∧
    dInline op.bytes 0 1 = g ∧ g < 4 ∧ (s.trip g).en = true ∧ s.groupLoaded g = false) ∧
    (∃ (s : State) (w : WorkRef) (op : Op), s.ready w 2 0x25 op ∧ s.prot.set = none) ∧
    (∃ (s : State) (w : WorkRef) (op : Op) (x : ProtSet), s.ready w 2 0x25 op ∧ s.prot.set = some x) := by
  refine ⟨⟨({ act with hq := { act.hq with ops := [(mkOp 2 0x20 [])] }, wb := { act.wb with lease := .held } }), (.tag 0), (mkOp 2 0x20 []), _, _,
    by and_intros <;> first | (refine art_good ?_ ?_ ?_ ?_ ?_ ?_ ?_ ?_ <;> decide +kernel) | exact (Option.some_get _).symm | decide +kernel | rfl | exact ⟨1, by decide +kernel, by decide +kernel, by decide +kernel⟩ | exact ⟨1, by decide +kernel, by decide +kernel⟩ | exact ⟨0, by decide +kernel, by decide +kernel⟩ | (intros; first | rfl | contradiction | decide +kernel | simp)⟩,
    ⟨({ act with mem := artMem 4 1 0, sec := { act.sec with owner := idKey }, hq := { act.hq with ops := [(mkOp 2 0x20 [(28, 4, 178)])] }, wb := { act.wb with lease := .held } }),
    (.tag 0), (mkOp 2 0x20 [(28, 4, 178)]), (⟨1, 4, 1, 0, 0, none, 0, recN 0 [], idSig⟩ : Artefact),
    by and_intros <;> first | (refine art_good ?_ ?_ ?_ ?_ ?_ ?_ ?_ ?_ <;> decide +kernel) | exact (Option.some_get _).symm | decide +kernel | rfl | exact ⟨1, by decide +kernel, by decide +kernel, by decide +kernel⟩ | exact ⟨1, by decide +kernel, by decide +kernel⟩ | exact ⟨0, by decide +kernel, by decide +kernel⟩ | (intros; first | rfl | contradiction | decide +kernel | simp)⟩,
    ⟨({ act with mem := artMem 4 1 168 [(8, 2, 5), (10, 1, 1), (11, 1, 1)], sec := { act.sec with owner := idKey }, hq := { act.hq with ops := [(mkOp 2 0x20 [(28, 4, 346)])] }, wb := { act.wb with lease := .held } }),
    (.tag 0), (mkOp 2 0x20 [(28, 4, 346)]), (⟨1, 4, 1, 0, 0, none, 0, recN 168 [(8, 2, 5), (10, 1, 1), (11, 1, 1)], idSig⟩ : Artefact),
    ((protSetOf (⟨1, 4, 1, 0, 0, none, 0, recN 168 [(8, 2, 5), (10, 1, 1), (11, 1, 1)], idSig⟩ : Artefact).body).get (by decide +kernel)),
    ⟨by decide +kernel, ⟨by decide +kernel, by decide +kernel, by decide +kernel⟩, by refine art_good ?_ ?_ ?_ ?_ ?_ ?_ ?_ ?_ <;> decide +kernel, (Option.some_get _).symm, by decide +kernel⟩⟩,
    ⟨({ act with mem := artMem 4 1 168 [(10, 1, 1), (11, 1, 1)], sec := { act.sec with owner := idKey }, hq := { act.hq with ops := [(mkOp 2 0x20 [(28, 4, 346)])] }, wb := { act.wb with lease := .held }, cfg := { act.cfg with manager := false } }),
    (.tag 0), (mkOp 2 0x20 [(28, 4, 346)]), (⟨1, 4, 1, 0, 0, none, 0, recN 168 [(10, 1, 1), (11, 1, 1)], idSig⟩ : Artefact),
    ((protSetOf (⟨1, 4, 1, 0, 0, none, 0, recN 168 [(10, 1, 1), (11, 1, 1)], idSig⟩ : Artefact).body).get (by decide +kernel)),
    ⟨by decide +kernel, ⟨by decide +kernel, by decide +kernel, by decide +kernel⟩, by refine art_good ?_ ?_ ?_ ?_ ?_ ?_ ?_ ?_ <;> decide +kernel, (Option.some_get _).symm, by decide +kernel, by decide +kernel, by decide +kernel⟩⟩,
    ⟨({ act with mem := artMem 4 1 168 [(0, 2, 1), (10, 1, 1), (11, 1, 1), (16, 4, 10), (20, 4, 10), (144, 4, 16843009), (163, 1, 1)], sec := { act.sec with owner := idKey }, hq := { act.hq with ops := [(mkOp 2 0x20 [(28, 4, 346)])] }, wb := { act.wb with lease := .held }, cfg := { act.cfg with manager := false, ringTable := List.replicate 4 [({ pos0 with ntype := .shunt } : RingPos)] } }),
    (.tag 0), (mkOp 2 0x20 [(28, 4, 346)]),
    (⟨1, 4, 1, 0, 0, none, 0, recN 168 [(0, 2, 1), (10, 1, 1), (11, 1, 1), (16, 4, 10), (20, 4, 10), (144, 4, 16843009), (163, 1, 1)], idSig⟩ : Artefact),
    ((protSetOf (⟨1, 4, 1, 0, 0, none, 0, recN 168 [(0, 2, 1), (10, 1, 1), (11, 1, 1), (16, 4, 10), (20, 4, 10), (144, 4, 16843009), (163, 1, 1)], idSig⟩ : Artefact).body).get (by decide +kernel)),
    ⟨by decide +kernel, ⟨by decide +kernel, by decide +kernel, by decide +kernel⟩, by refine art_good ?_ ?_ ?_ ?_ ?_ ?_ ?_ ?_ <;> decide +kernel, (Option.some_get _).symm, by decide +kernel, by decide +kernel, by decide +kernel⟩⟩,
    ⟨({ act with wb := { act.wb with lease := .held }, hq := { act.hq with work := [{ mkOp 2 0x21 [] with jsn := some 1 }], ops := [] } }), (.jsn 1),
    ({ mkOp 2 0x21 [] with jsn := some 1 }),
    by and_intros <;> first | decide +kernel | rfl | exact ⟨1, by decide +kernel, by decide +kernel⟩ | (intro j h; cases h; decide +kernel)⟩,
    ⟨({ act with hq := { act.hq with ops := [(mkOp 2 0x21 [])] }, wb := { act.wb with lease := .held }, prot := { act.prot with staged := none } }),
    (.tag 0), (mkOp 2 0x21 []), ?_⟩,
    ⟨({ act with wb := { act.wb with lease := .held, covered := 1 }, prot := { act.prot with staged := some ps0, set := some ps0 }, hq := { act.hq with work := [{ mkOp 2 0x21 [] with jsn := some 1 }], ops := [] } }),
    (.jsn 1), ({ mkOp 2 0x21 [] with jsn := some 1 }), ps0, ps0,
    by and_intros <;> first | decide +kernel | rfl | exact ⟨1, by decide +kernel, by decide +kernel⟩ | (intro j h; cases h; decide +kernel)⟩,
    ⟨({ act with wb := { act.wb with lease := .held, covered := 1 }, prot := { act.prot with staged := some ps0 }, hq := { act.hq with work := [{ mkOp 2 0x21 [] with jsn := some 1 }], ops := [] } }),
    (.jsn 1), ({ mkOp 2 0x21 [] with jsn := some 1 }), ps0,
    by and_intros <;> first | decide +kernel | rfl | exact ⟨1, by decide +kernel, by decide +kernel⟩ | (intro j h; cases h <;> decide +kernel) | exact fun w hw => absurd hw (List.not_mem_nil)⟩,
    ⟨({ act with hq := { act.hq with ops := [(mkOp 2 0x22 [])] }, wb := { act.wb with lease := .held }, prot := { act.prot with staged := none } }),
    (.tag 0), (mkOp 2 0x22 []), ?_⟩,
    ⟨({ act with hq := { act.hq with ops := [(mkOp 2 0x22 [])] }, wb := { act.wb with lease := .held }, prot := { act.prot with staged := some ps0 } }),
    (.tag 0), (mkOp 2 0x22 []), ?_⟩,
    ⟨({ act with hq := { act.hq with ops := [(mkOp 2 0x23 [(48, 1, 1)])] }, wb := { act.wb with lease := .held } }), (.tag 0),
    (mkOp 2 0x23 [(48, 1, 1)]), ?_⟩,
    ⟨({ act with hq := { act.hq with ops := [(mkOp 2 0x23 [(48, 1, 8)])] }, wb := { act.wb with lease := .held }, prot := { act.prot with groups := List.replicate 4 { en := true, tripped := true } } }),
    (.tag 0), (mkOp 2 0x23 [(48, 1, 8)]),
    by and_intros <;> first | decide +kernel | exact ⟨0, by decide +kernel, by decide +kernel, by decide +kernel⟩ | exact ⟨3, by decide +kernel, by decide +kernel, by decide +kernel⟩ | (intro g hg _; revert g; decide +kernel)⟩,
    ⟨({ act with hq := { act.hq with ops := [(mkOp 2 0x23 [])] }, wb := { act.wb with lease := .held } }), (.tag 0), (mkOp 2 0x23 []), ?_⟩,
    ⟨({ act with hq := { act.hq with ops := [(mkOp 2 0x24 [(48, 1, 0)])] }, wb := { act.wb with lease := .held } }), (.tag 0),
    (mkOp 2 0x24 [(48, 1, 0)]), 0, false, false, false, ?_⟩,
    ⟨({ act with hq := { act.hq with ops := [(mkOp 2 0x24 [(48, 1, 3)])] }, wb := { act.wb with lease := .held }, prot := { act.prot with groups := List.replicate 4 { en := true }, set := some ({ ps0 with strings := [⟨0, 8, 0, 1⟩] } : ProtSet) }, slk := { act.slk with rings := List.replicate 4 ({ rg0 with nodes := List.replicate 128 { presence := 1, prev := some ({ sm0 with current := -2001 } : Sample) } } : Ring) } }),
    (.tag 0), (mkOp 2 0x24 [(48, 1, 3)]), 3, false, false, false, ?_⟩,
    ⟨({ act with hq := { act.hq with ops := [(mkOp 2 0x24 [(48, 1, 3)])] }, wb := { act.wb with lease := .held }, prot := { act.prot with groups := List.replicate 4 { en := true } } }),
    (.tag 0), (mkOp 2 0x24 [(48, 1, 3)]), 3, false, false, false, ?_⟩,
    ⟨({ act with hq := { act.hq with ops := [(mkOp 2 0x25 [])] }, prot := { act.prot with set := none } }), (.tag 0), (mkOp 2 0x25 []), ?_⟩,
    ⟨({ act with hq := { act.hq with ops := [(mkOp 2 0x25 [])] }, prot := { act.prot with set := some ps0 } }), (.tag 0), (mkOp 2 0x25 []), ps0, ?_⟩⟩ <;> and_intros <;>
    first | exact (Option.some_get _).symm | decide +kernel | rfl | exact ⟨1, by decide +kernel, by decide +kernel, by decide +kernel⟩ | exact ⟨1, by decide +kernel, by decide +kernel⟩ | exact ⟨0, by decide +kernel, by decide +kernel⟩ | (intros; first | rfl | contradiction | decide +kernel | simp)

/-- What `Obligations.FieldChannelsFlagTheirFaults` assumes can be met, clause by clause. -/
theorem test_hyp_FieldChannelsFlagTheirFaults :
    (∃ (s : State) (p : Bool) (v : Nat), (s.supplied p = false ∨ 1800 ≤ v % 4096 ∨ s.powered 7 = false)) ∧
    (∃ (s : State) (p : Bool) (v : Nat), s.supplied p = true ∧ v % 4096 < 1800 ∧ s.powered 7 = true) ∧
    (∃ (s : State) (p : Bool) (v : Nat), (v % 4096 ≤ 1900 ∨ s.powered 7 = false)) ∧
    (∃ (s : State) (p : Bool) (v : Nat), 1900 < v % 4096 ∧ s.powered 7 = true) ∧
    (∃ (s : State) (n : Nat) (l : Bool) (e : Nat), ((s.dio.dis.getD n {}).filtered = l ∨ 16 ≤ n ∨ s.powered 7 = false)) ∧
    (∃ (s : State) (n : Nat) (l : Bool) (e : Nat), (s.dio.dis.getD n {}).filtered ≠ l ∧ n < 16 ∧ s.powered 7 = true) ∧
    (∃ (s : State) (n : Nat) (h : Bool) (l : Bool), (16 ≤ n ∨ readbackJudged s.sys.mode = false ∨ (s.doCh n).noSupply = true ∨ h = s.doOn n ∨ s.tb.csr < (s.doCh n).swAt + usTicks 1000)) ∧
    (∃ (s : State) (n : Nat) (h : Bool) (l : Bool) (k : Nat), n < 16 ∧ readbackJudged s.sys.mode = true ∧ (s.doCh n).noSupply = false ∧
    h ≠ s.doOn n ∧ (s.doCh n).swAt + usTicks 1000 ≤ s.tb.csr ∧
    k = (if h = true then (if n < 12 ∨ s.parMode n = true then 2 else 3) else if l = true then 4 else 3) ∧ h = true ∧ 12 ≤ n ∧ s.parMode n = true ∧
    s.tb.csr < (s.doCh n).offAt + 200000) ∧
    (∃ (s : State) (n : Nat) (h : Bool) (l : Bool) (k : Nat), n < 16 ∧ readbackJudged s.sys.mode = true ∧ (s.doCh n).noSupply = false ∧
    h ≠ s.doOn n ∧ (s.doCh n).swAt + usTicks 1000 ≤ s.tb.csr ∧
    k = (if h = true then (if n < 12 ∨ s.parMode n = true then 2 else 3) else if l = true then 4 else 3) ∧
    (h = false ∨ n < 12 ∨ s.parMode n = false ∨ (s.doCh n).offAt + 200000 ≤ s.tb.csr) ∧ (s.doCh n).flag k = true) ∧
    (∃ (s : State) (n : Nat) (h : Bool) (l : Bool) (k : Nat), n < 16 ∧ readbackJudged s.sys.mode = true ∧ (s.doCh n).noSupply = false ∧
    h ≠ s.doOn n ∧ (s.doCh n).swAt + usTicks 1000 ≤ s.tb.csr ∧
    k = (if h = true then (if n < 12 ∨ s.parMode n = true then 2 else 3) else if l = true then 4 else 3) ∧
    (h = false ∨ n < 12 ∨ s.parMode n = false ∨ (s.doCh n).offAt + 200000 ≤ s.tb.csr) ∧ (s.doCh n).flag k = false) ∧
    (∃ (s : State) (n : Nat), (12 ≤ n ∨ s.bit .dioDoCfg 1 n = false ∨ s.doOn n = false ∨ s.darkDue n = false)) ∧
    (∃ (s : State) (n : Nat), n < 12 ∧ n < s.dio.dos.length ∧ s.bit .dioDoCfg 1 n = true ∧ s.doOn n = true ∧ s.darkDue n = true) ∧
    (∃ (s : State) (n : Nat) (f : Bool) (l : List Nat), ((s.doCh n).dark = false ∨ s.tb.csr < (s.doCh n).darkAt + usTicks 200)) ∧
    (∃ (s : State) (n : Nat) (f : Bool), (s.doCh n).dark = true ∧ (s.doCh n).darkAt + usTicks 200 ≤ s.tb.csr ∧
    (f = true ∨ (s.doCh n).darkFail = true)) ∧
    (∃ (s : State) (n : Nat) (f : Bool), (s.doCh n).dark = true ∧ (s.doCh n).darkAt + usTicks 200 ≤ s.tb.csr ∧ f = false ∧
    (s.doCh n).darkFail = false) ∧
    (∃ (s : State) (n : Nat) (f : Bool) (k : Nat), (s.doCh n).dark = true ∧ (s.doCh n).darkAt + usTicks 200 ≤ s.tb.csr ∧ f = true ∧ k < 12 ∧ k ≠ n ∧
    (s.doCh k).extDrive = true ∧ (s.doCh n).extDrive = false) ∧
    (∃ (s : State) (n : Nat), (16 ≤ n ∨ s.doOn n = false)) ∧
    (∃ (s : State) (n : Nat), n < 16 ∧ s.doOn n = true ∧ (s.doCh n).short = true) ∧
    (∃ (s : State) (n : Nat), n < 16 ∧ s.doOn n = true ∧ (s.doCh n).short = false) ∧
    (∃ (s : State) (n : Nat) (b : Bool), (16 ≤ n ∨ (s.doCh n).thermal = false ∨ (s.doCh n).latched = true ∨ (s.doCh n).cmd = false ∨ s.fld .dioDoCfg 16 14 n = 0 ∨ s.heldTrip n = true ∨ s.tb.csr < (s.doCh n).hotAt + usTicks (1000 * s.fld .dioDoCfg 16 14 n))) ∧
    (∃ (s : State) (n : Nat) (b : Bool), n < 16 ∧ (s.doCh n).thermal = true ∧ (s.doCh n).latched = false ∧ (s.doCh n).cmd = true ∧
    s.fld .dioDoCfg 16 14 n ≠ 0 ∧ s.heldTrip n = false ∧ (s.doCh n).hotAt + usTicks (1000 * s.fld .dioDoCfg 16 14 n) ≤ s.tb.csr ∧ b = false) ∧
    (∃ (s : State) (n : Nat) (b : Bool), n < 16 ∧ (s.doCh n).thermal = true ∧ (s.doCh n).latched = false ∧ (s.doCh n).cmd = true ∧
    s.fld .dioDoCfg 16 14 n ≠ 0 ∧ s.heldTrip n = false ∧ (s.doCh n).hotAt + usTicks (1000 * s.fld .dioDoCfg 16 14 n) ≤ s.tb.csr ∧ b = true) ∧
    (∃ (s : State) (n : Nat), (8 ≤ n ∨ (s.aio.ais.getD n {}).protPath = true ∨ s.powered 7 = false)) ∧
    (∃ (s : State) (n : Nat), n < 8 ∧ (s.aio.ais.getD n {}).protPath = false ∧ s.powered 7 = true) ∧
    (∃ (s : State) (n : Nat) (c : Nat), ((s.aio.ais.getD n {}).protPath = false ∨ s.tb.csr < (s.aio.ais.getD n {}).pathAt + usTicks 1000000)) ∧
    (∃ (s : State) (n : Nat) (c : Nat), (s.aio.ais.getD n {}).protPath = true ∧ (s.aio.ais.getD n {}).pathAt + usTicks 1000000 ≤ s.tb.csr ∧ 50000 < c) ∧
    (∃ (s : State) (n : Nat) (c : Nat), (s.aio.ais.getD n {}).protPath = true ∧ (s.aio.ais.getD n {}).pathAt + usTicks 1000000 ≤ s.tb.csr ∧
    c ≤ 50000 ∧ n < s.aio.ais.length) ∧
    (∃ (s : State) (n : Nat), (4 ≤ n ∨ (s.aoCh n).open_ = true ∨ s.aoSources n = false ∨ flt (s.aoTarget n) 0x3F800000 = true)) ∧
    (∃ (s : State) (n : Nat), n < 4 ∧ (s.aoCh n).open_ = false ∧ s.aoSources n = true ∧ flt (s.aoTarget n) 0x3F800000 = false) ∧
    (∃ (s : State) (n : Nat) (h : Nat), (4 ≤ n ∨ 15 ≤ h ∨ (s.aoCh n).open_ = true ∨ (s.aoCh n).compliance = true ∨ s.aoSources n = false)) ∧
    (∃ (s : State) (n : Nat) (h : Nat), n < 4 ∧ h < 15 ∧ (s.aoCh n).open_ = false ∧ (s.aoCh n).compliance = false ∧ s.aoSources n = true) ∧
    (∃ (s : State) (n : Nat) (h : Nat), h < 20) ∧
    (∃ (s : State) (n : Nat) (h : Nat), 20 ≤ h) ∧
    (∃ (s : State) (n : Nat), n < 4 ∧ (s.aoCfg n).shared = true ∧ s.holds = false ∧ s.fieldOn = true ∧ (s.aoCh n).loopResAt.isSome = true ∧
    (s.aoCh n).makeup = false ∧ (s.aoCh n).cmdAt + usTicks 2000 ≤ s.tb.csr) ∧
    (∃ (s : State) (n : Nat), (4 ≤ n ∨ (s.aoCfg n).shared = false ∨ s.holds = true ∨ s.fieldOn = false ∨ (s.aoCh n).loopResAt = none ∨ (s.aoCh n).makeup = true ∨ s.tb.csr < (s.aoCh n).cmdAt + usTicks 2000)) ∧
    (∃ (s : State) (n : Nat), s.holds = true) ∧
    (∃ (s : State) (n : Nat), s.holds = false) ∧
    (∃ (s : State) (o : Nat), (o % 8 = 0 ∨ s.powered 7 = false)) ∧
    (∃ (s : State) (o : Nat), o % 8 ≠ 0 ∧ s.powered 7 = true) := by
  refine ⟨⟨act, true, 1800, ?_⟩,
    ⟨act, false, 0, ?_⟩,
    ⟨act, false, 0, ?_⟩,
    ⟨act, true, 1901, ?_⟩,
    ⟨act, 0, false, 0, ?_⟩,
    ⟨act, 15, true, 0, ?_⟩,
    ⟨act, 0, false, false, ?_⟩,
    ⟨(State.setDoSt ({ act with tb := { act.tb with csr := 100000 }, cfg := { act.cfg with parMode := 8 }, dio := { act.dio with dos := List.replicate 16 { swAt := 0 } } }) 15 fun x => { x with noSupply := false }),
    15, true, false, 2, ?_⟩,
    ⟨(State.setDoSt ({ act with tb := { act.tb with csr := 10 ^ 12 }, dio := { act.dio with dos := List.replicate 16 { mismatch := true } } }) 15 fun x => { x with noSupply := false }),
    15, true, false, 3, ?_⟩,
    ⟨(State.setDoSt ({ act with tb := { act.tb with csr := 10 ^ 12 } }) 0 fun x => { x with noSupply := false }), 0, true, false, 2, ?_⟩,
    ⟨act, 0, ?_⟩,
    ⟨((State.setFld ({ act with tb := { act.tb with csr := 10 ^ 12 }, dio := { act.dio with dos := List.replicate 16 { cmd := true } } }) .dioDoCfg 11 1 1 1).setFld .dioDoCfg 11 1 1 1),
    11, ?_⟩,
    ⟨(State.setDoSt (act) 0 fun x => { x with dark := false }), 0, false, [], ?_⟩,
    ⟨(State.setDoSt ({ act with tb := { act.tb with csr := 10 ^ 12 }, dio := { act.dio with dos := List.replicate 16 { dark := true } } }) 11 fun x => { x with dark := true }),
    11, true, ?_⟩,
    ⟨(State.setDoSt ({ act with tb := { act.tb with csr := 10 ^ 12 }, dio := { act.dio with dos := List.replicate 16 { dark := true } } }) 11 fun x => { x with dark := true, darkFail := false }),
    11, false, ?_⟩,
    ⟨(State.setDoSt (State.setDoSt ({ act with tb := { act.tb with csr := 10 ^ 12 }, dio := { act.dio with dos := { dark := true } :: List.replicate 15 { extDrive := true } } }) 0 fun x => { x with dark := true, extDrive := false }) 11 fun x => { x with extDrive := true }),
    0, (true), 11, ?_⟩,
    ⟨act, 0, ?_⟩,
    ⟨(State.setDoSt ({ act with dio := { act.dio with dos := List.replicate 16 { cmd := true, short := true } } }) 11 fun x => { x with short := true }),
    11, ?_⟩,
    ⟨(State.setDoSt ({ act with dio := { act.dio with dos := List.replicate 16 { cmd := true } } }) 11 fun x => { x with short := false }), 11, ?_⟩,
    ⟨act, 0, false, ?_⟩,
    ⟨((State.setDoSt ({ act with tb := { act.tb with csr := 10 ^ 12 }, dio := { act.dio with dos := List.replicate 16 { cmd := true, thermal := true } } }) 11 fun x => { x with thermal := true, latched := false, cmd := true }).setFld .dioDoCfg 11 16 14 10),
    11, (false), ?_⟩,
    ⟨((State.setDoSt ({ act with tb := { act.tb with csr := 10 ^ 12 }, dio := { act.dio with dos := List.replicate 16 { cmd := true, thermal := true } } }) 11 fun x => { x with thermal := true, latched := false, cmd := true }).setFld .dioDoCfg 11 16 14 10),
    11, true, ?_⟩,
    ⟨act, 8, ?_⟩,
    ⟨act, 7, ?_⟩,
    ⟨act, 0, 0, ?_⟩,
    ⟨({ act with tb := { act.tb with csr := 10 ^ 12 }, aio := { act.aio with ais := List.replicate 8 { protPath := true } } }), 7, 50001, ?_⟩,
    ⟨({ act with tb := { act.tb with csr := 10 ^ 12 }, aio := { act.aio with ais := List.replicate 8 { protPath := true } } }), 7, 50000, ?_⟩,
    ⟨act, 4, ?_⟩,
    ⟨act, 3, ?_⟩,
    ⟨act, 4, 0, ?_⟩,
    ⟨act, 3, 14, ?_⟩,
    ⟨act, 0, 19, ?_⟩,
    ⟨act, 0, 20, ?_⟩,
    ⟨({ act with wb := { act.wb with lease := .none }, tb := { act.tb with csr := 10 ^ 12 }, cfg := { act.cfg with ao := List.replicate 4 { shared := true } }, aio := { act.aio with aos := List.replicate 4 { loopResAt := some 0 } } }),
    3, ?_⟩,
    ⟨act, 0, ?_⟩,
    ⟨({ act with wb := { act.wb with lease := .held } }), 0, ?_⟩,
    ⟨({ act with wb := { act.wb with lease := .none } }), 0, ?_⟩,
    ⟨act, 0, ?_⟩,
    ⟨act, 7, ?_⟩⟩ <;> and_intros <;>
    first | exact (Option.some_get _).symm | decide +kernel | rfl | exact ⟨1, by decide +kernel, by decide +kernel, by decide +kernel⟩ | exact ⟨1, by decide +kernel, by decide +kernel⟩ | exact ⟨0, by decide +kernel, by decide +kernel⟩ | (intros; first | rfl | contradiction | decide +kernel | simp)

/-- What `Obligations.CalibrationAndIoCommands` assumes can be met, clause by clause. -/
theorem test_hyp_CalibrationAndIoCommands :
    (∃ (s : State) (q : Requester) (v : Word) (t : State), s.writeBarred q (RegName.aioCal.addr 0 0) = some t) ∧
    (∃ (s : State) (q : Requester) (v : Word), s.writeBarred q (RegName.aioCal.addr 0 0) = none ∧ bitOf v.toNat 0 = false) ∧
    (∃ (s : State) (q : Requester) (v : Word), s.writeBarred q (RegName.aioCal.addr 0 0) = none ∧ bitOf v.toNat 0 = true ∧
    (s.sys.mode ≠ .standby ∨ (∀ k, k < 4 → (s.aoCfg k).shared = true))) ∧
    (∃ (s : State) (q : Requester) (v : Word) (k : Nat), s.writeBarred q (RegName.aioCal.addr 0 0) = none ∧ bitOf v.toNat 0 = true ∧
    s.sys.mode = .standby ∧ k < 8 ∧ ((∀ j, j < k → (s.aoCfg ((s.aio.point + j) % 8 / 2)).shared = true)) ∧
    (s.aoCfg ((s.aio.point + k) % 8 / 2)).shared = false) ∧
    (∃ (s : State), s.aio.calEn = false) ∧
    (∃ (s : State), s.aio.calEn = true ∧ ((∀ k, k < 4 → (s.aoCfg k).shared = true))) ∧
    (∃ (s : State) (k : Nat), s.aio.calEn = true ∧ k < 8 ∧ ((∀ j, j < k → (s.aoCfg ((s.aio.point + 1 + j) % 8 / 2)).shared = true)) ∧
    (s.aoCfg ((s.aio.point + 1 + k) % 8 / 2)).shared = false) ∧
    (∃ (s : State) (d : Int) (c : Instr), s.aio.calEn = true ∧ ((c = .calKeyPress ∧ d = 10) ∨ (c = .calKeyHold ∧ d = -10))) ∧
    (∃ (s : State), s.aio.calEn = true) ∧
    (∃ (s : State) (w : WorkRef) (op : Op) (r : Option (List Byte)) (k : Nat) (ch : Nat) (p : Nat), s.ready w 9 0x10 op ∧ dInline op.bytes 0 1 = k ∧
    dInline op.bytes 1 1 = ch ∧ dInline op.bytes 2 1 = p ∧ (1 < k ∨ (k = 1 ∧ 4 ≤ ch) ∨ (k = 0 ∧ 8 ≤ ch) ∨ 63 < p ∨ 255 < dLength op.bytes)) ∧
    (∃ (s : State) (w : WorkRef) (op : Op) (r : Option (List Byte)) (k : Nat) (ch : Nat) (p : Nat), s.ready w 9 0x10 op ∧ dInline op.bytes 0 1 = k ∧
    dInline op.bytes 1 1 = ch ∧ dInline op.bytes 2 1 = p ∧ k ≤ 1 ∧ ((k = 1 → ch < 4)) ∧ ((k = 0 → ch < 8)) ∧ p ≤ 63 ∧ dLength op.bytes ≤ 255 ∧
    k = 0 ∧ bitOf s.cfg.aiHart ch = false) ∧
    (∃ (s : State) (w : WorkRef) (op : Op) (r : Option (List Byte)) (k : Nat) (ch : Nat) (p : Nat), s.ready w 9 0x10 op ∧ dInline op.bytes 0 1 = k ∧
    dInline op.bytes 1 1 = ch ∧ dInline op.bytes 2 1 = p ∧ k ≤ 1 ∧ ((k = 1 → ch < 4)) ∧ ((k = 0 → ch < 8)) ∧ p ≤ 63 ∧ dLength op.bytes ≤ 255 ∧
    k = 0 ∧ bitOf s.cfg.aiHart ch = true ∧ s.authoritative = false) ∧
    (∃ (s : State) (w : WorkRef) (op : Op) (r : Option (List Byte)) (k : Nat) (ch : Nat) (p : Nat), s.ready w 9 0x10 op ∧ dInline op.bytes 0 1 = k ∧
    dInline op.bytes 1 1 = ch ∧ dInline op.bytes 2 1 = p ∧ k ≤ 1 ∧ ((k = 1 → ch < 4)) ∧ ((k = 0 → ch < 8)) ∧ p ≤ 63 ∧ dLength op.bytes ≤ 255 ∧
    k = 1 ∧ s.authoritative = false) ∧
    (∃ (s : State) (w : WorkRef) (op : Op) (r : Option (List Byte)) (k : Nat) (ch : Nat) (p : Nat), s.ready w 9 0x10 op ∧ dInline op.bytes 0 1 = k ∧
    dInline op.bytes 1 1 = ch ∧ dInline op.bytes 2 1 = p ∧ k ≤ 1 ∧ ((k = 1 → ch < 4)) ∧ ((k = 0 → ch < 8)) ∧ p ≤ 63 ∧ dLength op.bytes ≤ 255 ∧
    (k = 1 ∨ bitOf s.cfg.aiHart ch = true) ∧ s.authoritative = true) ∧
    (∃ (s : State) (w : WorkRef) (op : Op) (ch : Nat) (z : Int) (p : Int), s.ready w 9 0x11 op ∧ dInline op.bytes 0 1 = ch ∧
    signedOf 16 (dInline op.bytes 4 2) = z ∧ signedOf 16 (dInline op.bytes 6 2) = p ∧ s.sys.mode ≠ .standby) ∧
    (∃ (s : State) (w : WorkRef) (op : Op) (ch : Nat) (z : Int) (p : Int), s.ready w 9 0x11 op ∧ dInline op.bytes 0 1 = ch ∧
    signedOf 16 (dInline op.bytes 4 2) = z ∧ signedOf 16 (dInline op.bytes 6 2) = p ∧ s.sys.mode = .standby ∧
    (4 ≤ ch ∨ 2000 < z.natAbs ∨ 2000 < p.natAbs)) ∧
    (∃ (s : State) (w : WorkRef) (op : Op) (ch : Nat) (z : Int) (p : Int), s.ready w 9 0x11 op ∧ dInline op.bytes 0 1 = ch ∧
    signedOf 16 (dInline op.bytes 4 2) = z ∧ signedOf 16 (dInline op.bytes 6 2) = p ∧ s.sys.mode = .standby ∧ ch < 4 ∧ z.natAbs ≤ 2000 ∧
    p.natAbs ≤ 2000 ∧ (s.aoCfg ch).shared = true) ∧
    (∃ (s : State) (w : WorkRef) (op : Op) (ch : Nat) (z : Int) (p : Int), s.ready w 9 0x11 op ∧ dInline op.bytes 0 1 = ch ∧
    signedOf 16 (dInline op.bytes 4 2) = z ∧ signedOf 16 (dInline op.bytes 6 2) = p ∧ s.sys.mode = .standby ∧ ch < 4 ∧ z.natAbs ≤ 2000 ∧
    p.natAbs ≤ 2000 ∧ (s.aoCfg ch).shared = false) ∧
    (∃ (s : State) (w : WorkRef) (op : Op), s.ready w 9 0x12 op) := by
  refine ⟨⟨act, .debug, 0, ((act.writeBarred .debug (RegName.aioCal.addr 0 0)).get (by decide +kernel)), ?_⟩,
    ⟨act, c0, 0, ?_⟩,
    ⟨act, c0, 0x1, ?_⟩,
    ⟨({ act with sys := { act.sys with mode := .standby } }), c0, 1, 0,
    by and_intros <;> first | decide +kernel | exact fun j hj => absurd hj (Nat.not_lt_zero j)⟩,
    ⟨({ act with aio := { act.aio with calEn := false } }), ?_⟩,
    ⟨({ act with aio := { act.aio with calEn := true }, cfg := { act.cfg with ao := List.replicate 4 { shared := true } } }), ?_⟩,
    ⟨({ act with aio := { act.aio with calEn := true }, cfg := { act.cfg with ao := [{ shared := true }] } }), 1, ?_⟩,
    ⟨({ act with aio := { act.aio with calEn := true } }), 10, .calKeyPress, ?_⟩,
    ⟨({ act with aio := { act.aio with calEn := true } }), ?_⟩,
    ⟨({ act with hq := { act.hq with ops := [(mkOp 9 0x10 [(48, 1, 1), (49, 1, 4), (50, 1, 0)])] } }), (.tag 0),
    (mkOp 9 0x10 [(48, 1, 1), (49, 1, 4), (50, 1, 0)]), none, 1, 4, 0, ?_⟩,
    ⟨({ act with hq := { act.hq with ops := [(mkOp 9 0x10 [(48, 1, (0)), (49, 1, 0), (50, 1, 63)])] } }), (.tag 0),
    (mkOp 9 0x10 [(48, 1, (0)), (49, 1, 0), (50, 1, 63)]), none, (0), 0, 63, ?_⟩,
    ⟨({ act with hq := { act.hq with ops := [(mkOp 9 0x10 [(48, 1, 0), (49, 1, 7), (50, 1, 63), (28, 4, 255)])] }, sys := { act.sys with mode := .standby }, cfg := { act.cfg with aiHart := 128 }, wb := { act.wb with lease := .none } }),
    (.tag 0), (mkOp 9 0x10 [(48, 1, 0), (49, 1, 7), (50, 1, 63), (28, 4, 255)]), none, 0, 7, 63,
    by and_intros <;> first | decide +kernel | (intro h; first | exact absurd h (by decide) | decide +kernel) | exact ⟨1, by decide +kernel, by decide +kernel⟩⟩,
    ⟨({ act with hq := { act.hq with ops := [(mkOp 9 0x10 [(48, 1, (1)), (49, 1, 0), (50, 1, 63)])] }, sys := { act.sys with mode := .service } }),
    (.tag 0), (mkOp 9 0x10 [(48, 1, (1)), (49, 1, 0), (50, 1, 63)]), none, (1), 0, 63, ?_⟩,
    ⟨({ act with hq := { act.hq with ops := [(mkOp 9 0x10 [(48, 1, 1), (49, 1, 0), (50, 1, 63)])] } }), (.tag 0),
    (mkOp 9 0x10 [(48, 1, 1), (49, 1, 0), (50, 1, 63)]), none, 1, 0, 63, ?_⟩,
    ⟨({ act with hq := { act.hq with ops := [mkOp 9 0x11 [(48, 1, 3)]] } }), (.tag 0), (mkOp 9 0x11 [(48, 1, 3)]), 3, 0, 0, ?_⟩,
    ⟨({ act with sys := { act.sys with mode := .standby }, hq := { act.hq with ops := [mkOp 9 0x11 [(48, 1, 4)]] } }), (.tag 0),
    (mkOp 9 0x11 [(48, 1, 4)]), 4, 0, 0, ?_⟩,
    ⟨({ act with sys := { act.sys with mode := .standby }, hq := { act.hq with ops := [mkOp 9 0x11 [(48, 1, 3)]] }, cfg := { act.cfg with ao := List.replicate 4 { shared := true } } }),
    (.tag 0), (mkOp 9 0x11 [(48, 1, 3)]), 3, 0, 0, ?_⟩,
    ⟨({ act with sys := { act.sys with mode := .standby }, hq := { act.hq with ops := [mkOp 9 0x11 [(48, 1, 3)]] } }), (.tag 0),
    (mkOp 9 0x11 [(48, 1, 3)]), 3, 0, 0, ?_⟩,
    ⟨({ act with hq := { act.hq with ops := [(mkOp 9 0x12 [])] } }), (.tag 0), (mkOp 9 0x12 []), ?_⟩⟩ <;> and_intros <;>
    first | exact (Option.some_get _).symm | decide +kernel | rfl | exact ⟨1, by decide +kernel, by decide +kernel, by decide +kernel⟩ | exact ⟨1, by decide +kernel, by decide +kernel⟩ | exact ⟨0, by decide +kernel, by decide +kernel⟩ | (intros; first | rfl | contradiction | decide +kernel | simp)

/-- What `Obligations.CanPortsReceiveSendAndRecover` assumes can be met, clause by clause. -/
theorem test_hyp_CanPortsReceiveSendAndRecover :
    (∃ (s : State) (p : Nat) (f : CanFrame), s.canLive p = false) ∧
    (∃ (s : State) (p : Nat) (f : CanFrame), s.canLive p = true ∧ f.remote = true) ∧
    (∃ (s : State) (p : Nat) (f : CanFrame) (hit : Option (Nat × CanFilter)) (body : List Byte) (qn : Nat), s.canLive p = true ∧ f.remote = false ∧
    hit = matchFilter (s.canPort p).filters f ∧ body = canBody p s.can.counter ((hit.map (·.1)).getD 0) f ∧ qn = (hit.map (·.2.queue)).getD 0) ∧
    (∃ (l : List TxBuf) (b : TxBuf) (c : TxBuf), headBuf l = some b ∧ c ∈ l) ∧
    (∃ (l : List TxBuf) (b : TxBuf), headBuf l = some b) ∧
    (∃ (s : State) (p : Nat) (x : Bool) (e : Bool), (s.canTx p = false ∨ (s.canPort p).bufs = [])) ∧
    (∃ (s : State) (p : Nat) (b : TxBuf) (e : Bool), s.canTx p = true ∧ headBuf (s.canPort p).bufs = some b ∧ b.oneShot = true) ∧
    (∃ (s : State) (p : Nat) (b : TxBuf) (e : Bool), s.canTx p = true ∧ headBuf (s.canPort p).bufs = some b ∧ b.oneShot = false) ∧
    (∃ (s : State) (p : Nat) (b : TxBuf) (e : Bool), s.canTx p = true ∧ headBuf (s.canPort p).bufs = some b) ∧
    (∃ (s : State) (p : Nat), s.canLive p = false) ∧
    (∃ (s : State) (p : Nat), p < 4 ∧ s.canLive p = true) ∧
    (∃ (s : State) (p : Nat), ((s.canPort p).busOff = false ∨ (s.canPort p).recovering = false ∨ s.holds = false)) ∧
    (∃ (s : State) (p : Nat), (s.canPort p).busOff = true ∧ (s.canPort p).recovering = true ∧ s.holds = true) ∧
    (∃ (s : State) (p : Nat), ((s.canPort p).sleep = false ∨ s.powered 6 = false)) ∧
    (∃ (s : State) (p : Nat), p < 4 ∧ (s.canPort p).sleep = true ∧ s.powered 6 = true) ∧
    (∃ (s : State) (q : Requester) (p : Nat) (v : Word) (x : Word) (c : Instr) (t : State), ((c = .canRecoverWrite q p v ∧ x = v ||| 0x10) ∨ (c = .canSleep q p v ∧ x = v ||| 0x8)) ∧
    s.writeBarred q (RegName.canCtrl.addr p 0) = some t) ∧
    (∃ (s : State) (q : Requester) (p : Nat) (v : Word) (x : Word) (c : Instr) (b : Bool) (t : State) (r : Bool), ((c = .canRecoverWrite q p v ∧ x = v ||| 0x10) ∨ (c = .canSleep q p v ∧ x = v ||| 0x8)) ∧
    s.writeBarred q (RegName.canCtrl.addr p 0) = none ∧ b = (if bitOf x.toNat 3 && s.canProt p then (s.canPort p).sleep else bitOf x.toNat 3) ∧
    s.writeHeld q .canCtrl p 0 (setField x 3 1 (ofBool b)) = (t, r)) ∧
    (∃ (s : State) (w : WorkRef) (op : Op) (p : Nat), s.ready w 3 0x11 op ∧ dInline op.bytes 0 1 = p ∧ (4 ≤ p ∨ s.bit .canCtrl 0 p = false)) ∧
    (∃ (s : State) (w : WorkRef) (op : Op) (p : Nat), s.ready w 3 0x11 op ∧ dInline op.bytes 0 1 = p ∧ p < 4 ∧ s.bit .canCtrl 0 p = true) ∧
    (∃ (s : State) (w : WorkRef) (op : Op) (p : Nat) (id : Nat) (ty : Nat) (ide : Bool), s.ready w 3 0x10 op ∧ dInline op.bytes 4 1 = p ∧
    dInline op.bytes 0 4 % 2 ^ 29 = id ∧ bitOf (dInline op.bytes 0 4) 29 = ide ∧ dInline op.bytes 5 1 = ty ∧ op.started = true) ∧
    (∃ (s : State) (w : WorkRef) (op : Op) (p : Nat) (id : Nat) (ty : Nat) (ide : Bool), s.ready w 3 0x10 op ∧ dInline op.bytes 4 1 = p ∧
    dInline op.bytes 0 4 % 2 ^ 29 = id ∧ bitOf (dInline op.bytes 0 4) 29 = ide ∧ dInline op.bytes 5 1 = ty ∧ op.started = false ∧
    (4 ≤ p ∨ s.bit .canCtrl 0 p = false ∨ s.powered 6 = false)) ∧
    (∃ (s : State) (w : WorkRef) (op : Op) (p : Nat) (id : Nat) (ty : Nat) (ide : Bool), s.ready w 3 0x10 op ∧ dInline op.bytes 4 1 = p ∧
    dInline op.bytes 0 4 % 2 ^ 29 = id ∧ bitOf (dInline op.bytes 0 4) 29 = ide ∧ dInline op.bytes 5 1 = ty ∧ op.started = false ∧ p < 4 ∧
    s.bit .canCtrl 0 p = true ∧ s.powered 6 = true ∧ s.canFormOk p ty (dLength op.bytes) id ide = false) ∧
    (∃ (s : State) (w : WorkRef) (op : Op) (p : Nat) (id : Nat) (ty : Nat) (ide : Bool), s.ready w 3 0x10 op ∧ dInline op.bytes 4 1 = p ∧
    dInline op.bytes 0 4 % 2 ^ 29 = id ∧ bitOf (dInline op.bytes 0 4) 29 = ide ∧ dInline op.bytes 5 1 = ty ∧ op.started = false ∧ p < 4 ∧
    s.bit .canCtrl 0 p = true ∧ s.powered 6 = true ∧ s.canFormOk p ty (dLength op.bytes) id ide = true ∧ (s.canPort p).busOff = true) ∧
    (∃ (s : State) (w : WorkRef) (op : Op) (p : Nat) (id : Nat) (ty : Nat) (ide : Bool), s.ready w 3 0x10 op ∧ dInline op.bytes 4 1 = p ∧
    dInline op.bytes 0 4 % 2 ^ 29 = id ∧ bitOf (dInline op.bytes 0 4) 29 = ide ∧ dInline op.bytes 5 1 = ty ∧ op.started = false ∧ p < 4 ∧
    s.bit .canCtrl 0 p = true ∧ s.powered 6 = true ∧ s.canFormOk p ty (dLength op.bytes) id ide = true ∧ (s.canPort p).busOff = false ∧
    32 ≤ (s.canPort p).bufs.length) ∧
    (∃ (s : State) (w : WorkRef) (op : Op) (p : Nat) (id : Nat) (ty : Nat) (ide : Bool), s.ready w 3 0x10 op ∧ dInline op.bytes 4 1 = p ∧
    dInline op.bytes 0 4 % 2 ^ 29 = id ∧ bitOf (dInline op.bytes 0 4) 29 = ide ∧ dInline op.bytes 5 1 = ty ∧ op.started = false ∧ p < 4 ∧
    s.bit .canCtrl 0 p = true ∧ s.powered 6 = true ∧ s.canFormOk p ty (dLength op.bytes) id ide = true ∧ (s.canPort p).busOff = false ∧
    (s.canPort p).bufs.length < 32) ∧
    (∃ (s : State) (w : WorkRef) (op : Op) (p : Nat) (i : Nat) (r : List Byte), s.ready w 3 0x12 op ∧ dInline op.bytes 0 1 = p ∧
    dInline op.bytes 1 1 = i ∧ s.buffer op = r ∧ 4 ≤ p) ∧
    (∃ (s : State) (w : WorkRef) (op : Op) (p : Nat) (i : Nat) (r : List Byte), s.ready w 3 0x12 op ∧ dInline op.bytes 0 1 = p ∧
    dInline op.bytes 1 1 = i ∧ s.buffer op = r ∧ p < 4 ∧ (64 ≤ i ∨ dLength op.bytes ≠ 16)) ∧
    (∃ (s : State) (w : WorkRef) (op : Op) (p : Nat) (i : Nat) (r : List Byte), s.ready w 3 0x12 op ∧ dInline op.bytes 0 1 = p ∧
    dInline op.bytes 1 1 = i ∧ s.buffer op = r ∧ p < 4 ∧ i < 64 ∧ dLength op.bytes = 16) := by
  refine ⟨⟨act, 0, cf0, ?_⟩,
    ⟨((act).setFld .canCtrl 3 0 1 1), 3, ({ cf0 with remote := true } : CanFrame), ?_⟩,
    ⟨((act).setFld .canCtrl 3 0 1 1), 3, cf0, none, _, 0, by refine ⟨by decide +kernel, rfl, rfl, rfl, rfl⟩⟩,
    ⟨[tx0], tx0, tx0, ?_⟩,
    ⟨[tx0], tx0, ?_⟩,
    ⟨act, 0, false, false, ?_⟩,
    ⟨(({ act with can := { act.can with ports := List.replicate 4 { bufs := [({ tx0 with oneShot := true } : TxBuf)] } } }).setFld .canCtrl 3 0 1 1),
    3, ({ tx0 with oneShot := true } : TxBuf), true, ?_⟩,
    ⟨(({ act with can := { act.can with ports := List.replicate 4 { bufs := [tx0] } } }).setFld .canCtrl 3 0 1 1), 3, tx0, false, ?_⟩,
    ⟨(({ act with can := { act.can with ports := List.replicate 4 { bufs := [tx0] } } }).setFld .canCtrl 3 0 1 1), 3, tx0, false, ?_⟩,
    ⟨act, 0, ?_⟩,
    ⟨((act).setFld .canCtrl 3 0 1 1), 3, ?_⟩,
    ⟨(State.setCanPort (act) 0 fun x => { x with busOff := false }), 0, ?_⟩,
    ⟨(State.setCanPort ({ act with wb := { act.wb with lease := .held } }) 0 fun x => { x with busOff := true, recovering := true }), 0, ?_⟩,
    ⟨(State.setCanPort (act) 0 fun x => { x with sleep := false }), 0, ?_⟩,
    ⟨(State.setCanPort (act) 3 fun x => { x with sleep := true }), 3, ?_⟩,
    ⟨act, .debug, 3, 0, (0 ||| 0x8), (.canSleep .debug 3 0), _, ⟨.inr ⟨rfl, rfl⟩, (Option.some_get (by decide +kernel)).symm⟩⟩,
    ⟨act, c0, 3, 0, (0 ||| 0x8), (.canSleep c0 3 0), true, _, true,
    ⟨.inr ⟨rfl, rfl⟩, by decide +kernel, by decide +kernel, Prod.ext rfl (by decide +kernel)⟩⟩,
    ⟨({ act with hq := { act.hq with ops := [(mkOp 3 0x11 [(48, 1, 0)])] } }), (.tag 0), (mkOp 3 0x11 [(48, 1, 0)]), 0, ?_⟩,
    ⟨(State.setFld ({ act with hq := { act.hq with ops := [(mkOp 3 0x11 [(48, 1, 3)])] } }) .canCtrl 3 0 1 1), (.tag 0), (mkOp 3 0x11 [(48, 1, 3)]),
    3, ?_⟩,
    ⟨({ act with hq := { act.hq with ops := [({ mkOp 3 0x10 [(52, 1, 0), (48, 4, 0), (53, 1, 0)] with started := true })] } }), (.tag 0),
    ({ mkOp 3 0x10 [(52, 1, 0), (48, 4, 0), (53, 1, 0)] with started := true }), 0, 0, 0,
    (bitOf (dInline ({ mkOp 3 0x10 [(52, 1, 0), (48, 4, 0), (53, 1, 0)] with started := true }).bytes 0 4) 29), ?_⟩,
    ⟨({ act with hq := { act.hq with ops := [({ mkOp 3 0x10 [(52, 1, 0), (48, 4, 0), (53, 1, 0)] with started := false })] } }), (.tag 0),
    ({ mkOp 3 0x10 [(52, 1, 0), (48, 4, 0), (53, 1, 0)] with started := false }), 0, 0, 0,
    (bitOf (dInline ({ mkOp 3 0x10 [(52, 1, 0), (48, 4, 0), (53, 1, 0)] with started := false }).bytes 0 4) 29), ?_⟩,
    ⟨(State.setFld ({ act with hq := { act.hq with ops := [({ mkOp 3 0x10 [(52, 1, 3), (48, 4, 0), (53, 1, 0)] with started := false })] } }) .canCtrl 3 0 1 1),
    (.tag 0), ({ mkOp 3 0x10 [(52, 1, 3), (48, 4, 0), (53, 1, 0)] with started := false }), 3, 0, 0,
    (bitOf (dInline ({ mkOp 3 0x10 [(52, 1, 3), (48, 4, 0), (53, 1, 0)] with started := false }).bytes 0 4) 29), ?_⟩,
    ⟨((State.setFld (State.setCanPort ({ act with hq := { act.hq with ops := [({ mkOp 3 0x10 [(52, 1, 3), (48, 4, 2047), (53, 1, 1), (28, 4, 8)] with started := false })] }, can := { act.can with ports := List.replicate 4 { busOff := true } } }) 3 fun x => { x with busOff := true }) .canCtrl 3 0 1 1).setFld .canCtrl 3 0 1 1),
    (.tag 0), ({ mkOp 3 0x10 [(52, 1, 3), (48, 4, 2047), (53, 1, 1), (28, 4, 8)] with started := false }), 3, 2047, 1,
    (bitOf (dInline ({ mkOp 3 0x10 [(52, 1, 3), (48, 4, 2047), (53, 1, 1), (28, 4, 8)] with started := false }).bytes 0 4) 29), ?_⟩,
    ⟨((State.setFld (State.setCanPort ({ act with hq := { act.hq with ops := [({ mkOp 3 0x10 [(52, 1, 3), (48, 4, 2047), (53, 1, 1), (28, 4, 8)] with started := false })] }, can := { act.can with ports := List.replicate 4 { bufs := List.replicate 32 tx0 } } }) 3 fun x => { x with busOff := false }) .canCtrl 3 0 1 1).setFld .canCtrl 3 0 1 1),
    (.tag 0), ({ mkOp 3 0x10 [(52, 1, 3), (48, 4, 2047), (53, 1, 1), (28, 4, 8)] with started := false }), 3, 2047, 1,
    (bitOf (dInline ({ mkOp 3 0x10 [(52, 1, 3), (48, 4, 2047), (53, 1, 1), (28, 4, 8)] with started := false }).bytes 0 4) 29), ?_⟩,
    ⟨((State.setFld (State.setCanPort ({ act with hq := { act.hq with ops := [({ mkOp 3 0x10 [(52, 1, 3), (48, 4, 2047), (53, 1, 1), (28, 4, 8)] with started := false })] }, can := { act.can with ports := List.replicate 4 { bufs := List.replicate 31 tx0 } } }) 3 fun x => { x with busOff := false }) .canCtrl 3 0 1 1).setFld .canCtrl 3 0 1 1),
    (.tag 0), ({ mkOp 3 0x10 [(52, 1, 3), (48, 4, 2047), (53, 1, 1), (28, 4, 8)] with started := false }), 3, 2047, 1,
    (bitOf (dInline ({ mkOp 3 0x10 [(52, 1, 3), (48, 4, 2047), (53, 1, 1), (28, 4, 8)] with started := false }).bytes 0 4) 29), ?_⟩,
    ⟨({ act with hq := { act.hq with ops := [(mkOp 3 0x12 [(48, 1, 4), (49, 1, 0)])] } }), (.tag 0), (mkOp 3 0x12 [(48, 1, 4), (49, 1, 0)]), 4, 0,
    (({ act with hq := { act.hq with ops := [(mkOp 3 0x12 [(48, 1, 4), (49, 1, 0)])] } }).buffer (mkOp 3 0x12 [(48, 1, 4), (49, 1, 0)])), ?_⟩,
    ⟨({ act with hq := { act.hq with ops := [(mkOp 3 0x12 [(48, 1, 3), (49, 1, 0)])] } }), (.tag 0), (mkOp 3 0x12 [(48, 1, 3), (49, 1, 0)]), 3, 0,
    (({ act with hq := { act.hq with ops := [(mkOp 3 0x12 [(48, 1, 3), (49, 1, 0)])] } }).buffer (mkOp 3 0x12 [(48, 1, 3), (49, 1, 0)])), ?_⟩,
    ⟨({ act with hq := { act.hq with ops := [(mkOp 3 0x12 [(48, 1, 3), (49, 1, 63), (28, 4, 16)])] } }), (.tag 0),
    (mkOp 3 0x12 [(48, 1, 3), (49, 1, 63), (28, 4, 16)]), 3, 63,
    (({ act with hq := { act.hq with ops := [(mkOp 3 0x12 [(48, 1, 3), (49, 1, 63), (28, 4, 16)])] } }).buffer (mkOp 3 0x12 [(48, 1, 3), (49, 1, 63), (28, 4, 16)])),
    ?_⟩⟩ <;> and_intros <;>
    first | exact (Option.some_get _).symm | decide +kernel | rfl | exact ⟨1, by decide +kernel, by decide +kernel, by decide +kernel⟩ | exact ⟨1, by decide +kernel, by decide +kernel⟩ | exact ⟨0, by decide +kernel, by decide +kernel⟩ | (intros; first | rfl | contradiction | decide +kernel | simp)

/-- What `Obligations.PlantNetworkPortsFramesAndSessions` assumes can be met, clause by clause. -/
theorem test_hyp_PlantNetworkPortsFramesAndSessions :
    (∃ (s : State) (w : WorkRef) (op : Op) (n : Nat) (c : Nat), s.frameOp w = some op ∧ op.engine = 5 ∧ dOpcode op.bytes = 0x10 ∧
    dInline op.bytes 0 1 = n ∧ dInline op.bytes 1 1 = c ∧ (op.started = true ∨ op.shadow = true ∨ s.mayServe op = false)) ∧
    (∃ (s : State) (w : WorkRef) (op : Op) (n : Nat) (c : Nat), s.frameOp w = some op ∧ op.engine = 5 ∧ dOpcode op.bytes = 0x10 ∧
    dInline op.bytes 0 1 = n ∧ dInline op.bytes 1 1 = c ∧ op.started = false ∧ op.shadow = false ∧ s.mayServe op = true ∧ (2 ≤ n ∨ s.netOn n = false)) ∧
    (∃ (s : State) (w : WorkRef) (op : Op) (n : Nat) (c : Nat), s.frameOp w = some op ∧ op.engine = 5 ∧ dOpcode op.bytes = 0x10 ∧
    dInline op.bytes 0 1 = n ∧ dInline op.bytes 1 1 = c ∧ op.started = false ∧ op.shadow = false ∧ s.mayServe op = true ∧ n < 2 ∧ s.netOn n = true ∧
    (dLength op.bytes < 60 ∨ 1514 < dLength op.bytes ∨ 8 ≤ c)) ∧
    (∃ (s : State) (w : WorkRef) (op : Op) (n : Nat) (c : Nat), s.frameOp w = some op ∧ op.engine = 5 ∧ dOpcode op.bytes = 0x10 ∧
    dInline op.bytes 0 1 = n ∧ dInline op.bytes 1 1 = c ∧ op.started = false ∧ op.shadow = false ∧ s.mayServe op = true ∧ n < 2 ∧ s.netOn n = true ∧
    60 ≤ dLength op.bytes ∧ dLength op.bytes ≤ 1514 ∧ c < 8 ∧ (dTimed op.bytes && op.waitTime) = false ∧ s.headFrame n c = none ∧
    s.gatesOpen n c = true) ∧
    (∃ (s : State) (w : WorkRef) (op : Op) (n : Nat) (c : Nat), s.frameOp w = some op ∧ op.engine = 5 ∧ dOpcode op.bytes = 0x10 ∧
    dInline op.bytes 0 1 = n ∧ dInline op.bytes 1 1 = c ∧ op.started = false ∧ op.shadow = false ∧ s.mayServe op = true ∧ n < 2 ∧ s.netOn n = true ∧
    60 ≤ dLength op.bytes ∧ dLength op.bytes ≤ 1514 ∧ c < 8 ∧
    ((dTimed op.bytes && op.waitTime) = true ∨ s.headFrame n c ≠ none ∨ s.gatesOpen n c = false)) ∧
    (∃ (s : State) (n : Nat) (c : Nat), s.headFrame n c = none) ∧
    (∃ (s : State) (n : Nat) (c : Nat) (f : TimedFrame), s.headFrame n c = some f ∧ s.frameAlive f = true ∧
    (f.headed = true ∨ s.frameMay f = false ∨ (f.timed = false ∧ s.gatesOpen n c = false))) ∧
    (∃ (s : State) (n : Nat) (c : Nat) (f : TimedFrame), s.headFrame n c = some f ∧ s.frameAlive f = true ∧ f.headed = false ∧ s.frameMay f = true ∧
    f.timed = true ∧ s.almClock f.ptBase ≤ f.due) ∧
    (∃ (s : State) (w : WorkRef) (op : Op) (p : Nat) (k : Nat) (b : List Byte), s.ready w 5 0x11 op ∧ dInline op.bytes 0 1 = p ∧ s.buffer op = b ∧
    (dLength op.bytes - 16) / 8 = k ∧ (4 ≤ p ∨ s.netPortUsed p = false)) ∧
    (∃ (s : State) (w : WorkRef) (op : Op) (p : Nat) (k : Nat) (b : List Byte), s.ready w 5 0x11 op ∧ dInline op.bytes 0 1 = p ∧ s.buffer op = b ∧
    (dLength op.bytes - 16) / 8 = k ∧ p < 4 ∧ s.netPortUsed p = true ∧ dLength op.bytes ≠ 16 + 8 * k) ∧
    (∃ (s : State) (w : WorkRef) (op : Op) (p : Nat) (k : Nat) (b : List Byte), s.ready w 5 0x11 op ∧ dInline op.bytes 0 1 = p ∧ s.buffer op = b ∧
    (dLength op.bytes - 16) / 8 = k ∧ p < 4 ∧ s.netPortUsed p = true ∧ dLength op.bytes = 16 + 8 * k ∧
    (k = 0 ∨ 64 < k ∨ 1 < leField b 12 1 ∨ (leField b 12 1 = 1 ∧ 1000000000 ≤ leField b 0 4) ∨ (∃ e ∈ gateEntries k (b.drop 16), e.2 < 1000 ∨ 1000000000 < e.2))) ∧
    (∃ (s : State) (w : WorkRef) (op : Op) (p : Nat) (k : Nat) (b : List Byte), s.ready w 5 0x11 op ∧ dInline op.bytes 0 1 = p ∧ s.buffer op = b ∧
    (dLength op.bytes - 16) / 8 = k ∧ p < 4 ∧ s.netPortUsed p = true ∧ dLength op.bytes = 16 + 8 * k ∧ 0 < k ∧ k ≤ 64 ∧ leField b 12 1 ≤ 1 ∧
    ((leField b 12 1 = 1 → leField b 0 4 < 1000000000)) ∧ ((∀ e ∈ gateEntries k (b.drop 16), 1000 ≤ e.2 ∧ e.2 ≤ 1000000000))) ∧
    (∃ (s : State) (p : Nat), (s.net.ports.getD p {}).newGate = none) ∧
    (∃ (s : State) (p : Nat) (g : GateList), (s.net.ports.getD p {}).newGate = some g ∧ (s.almClock g.ptBase < g.base ∨ s.gateNs g < g.start)) ∧
    (∃ (s : State) (p : Nat) (g : GateList), (s.net.ports.getD p {}).newGate = some g ∧ g.base ≤ s.almClock g.ptBase ∧ g.start ≤ s.gateNs g) ∧
    (∃ (s : State) (g : GateList) (n : Nat), gateCycle g.entries = n ∧ 0 < n) ∧
    (∃ (s : State) (p : Nat), (s.net.ports.getD p {}).link = false) ∧
    (∃ (s : State) (p : Nat), p < 4 ∧ (s.net.ports.getD p {}).link = true) ∧
    (∃ (s : State) (p : Nat) (g : Bool), s.netPortUsed p = false) ∧
    (∃ (s : State) (p : Nat) (g : Bool), s.netPortUsed p = true) ∧
    (∃ (s : State) (k : Nat), s.net.supAt = some k ∧ s.tb.csr < k + usTicks 2000000) ∧
    (∃ (s : State), ((∀ k, s.net.supAt = some k → k + usTicks 2000000 ≤ s.tb.csr))) ∧
    (∃ (s : State) (p : Nat) (src : Nat) (dst : Nat) (id : Nat) (u : Bool) (m : Bool) (f : List Byte), (s.netUp p = false ∨ s.fld .netCfg 0 2 ≠ 0 ∨ (p ≠ 2 ∧ p ≠ 3) ∨ src = s.net.mac)) ∧
    (∃ (s : State) (p : Nat) (src : Nat) (dst : Nat) (id : Nat) (u : Bool) (m : Bool) (f : List Byte), s.netUp p = true ∧ s.fld .netCfg 0 2 = 0 ∧
    (p = 2 ∨ p = 3) ∧ src ≠ s.net.mac ∧ (src, id) ∈ s.net.hsrSeen) ∧
    (∃ (s : State) (p : Nat) (src : Nat) (dst : Nat) (id : Nat) (u : Bool) (m : Bool) (f : List Byte), s.netUp p = true ∧ s.fld .netCfg 0 2 = 0 ∧
    (p = 2 ∨ p = 3) ∧ src ≠ s.net.mac ∧ (src, id) ∉ s.net.hsrSeen) ∧
    (∃ (s : State) (q : Bool) (g : Bool) (per256 : Bool) (n : Nat), q = true ∧ g = true) ∧
    (∃ (s : State) (q : Bool) (g : Bool) (per256 : Bool) (n : Nat) (u : State), (q = false ∨ g = false) ∧
    { s with tb := { s.tb with svAt := none } } = u ∧ (s.tb.angSrc ≠ 1 ∨ s.tb.angState = .synth)) ∧
    (∃ (s : State) (q : Bool) (g : Bool) (per256 : Bool) (n : Nat) (u : State), (q = false ∨ g = false) ∧
    { s with tb := { s.tb with svAt := none } } = u ∧ s.tb.angSrc = 1 ∧ s.tb.angState ≠ .synth) ∧
    (∃ (s : State) (n : Nat) (d : Nat) (per256 : Bool), s.sampleInstant n per256 = d ∧ s.tb.pt.total < s.tb.pt.sec * 10 ^ 9 + 10 ^ 9 ∧
    n < (if per256 then 256 else 80) * (if s.bit .angCtrl 4 then 60 else 50) ∧ 10 ^ 9 ≤ s.tb.pt.total) ∧
    (∃ (s : State) (a : Bool), (a = false ∨ 8 ≤ s.net.sessions ∨ s.sys.mode = .inserted)) ∧
    (∃ (s : State) (a : Bool), a = true ∧ s.net.sessions < 8 ∧ s.sys.mode ≠ .inserted) ∧
    (∃ (s : State) (a : Bool), s.net.sessions = 0) ∧
    (∃ (s : State) (a : Bool), s.net.sessions ≠ 0) ∧
    (∃ (s : State) (u : Bool), (s.sys.mode = .inserted ∨ s.net.svcLink = u)) ∧
    (∃ (s : State) (u : Bool), s.sys.mode ≠ .inserted ∧ s.net.svcLink ≠ u) ∧
    (∃ (s : State) (e : Nat) (a : Nat) (b : Nat), (e ≠ s.fld .netCfg 16 16 ∨ a ≠ 0xC0C0 ∨ b ≠ s.pairId)) ∧
    (∃ (s : State) (e : Nat) (a : Nat) (b : Nat), e = s.fld .netCfg 16 16 ∧ a = 0xC0C0 ∧ b = s.pairId) := by
  refine ⟨⟨({ act with hq := { act.hq with ops := [{ mkOp 5 0x10 [(48, 1, 1), (49, 1, 7), (28, 4, 60)] with started := true }] } }), (.tag 0),
    ({ mkOp 5 0x10 [(48, 1, 1), (49, 1, 7), (28, 4, 60)] with started := true }), 1, 7, ?_⟩,
    ⟨({ act with hq := { act.hq with ops := [mkOp 5 0x10 [(48, 1, 2), (49, 1, 7), (28, 4, 60)]] } }), (.tag 0),
    (mkOp 5 0x10 [(48, 1, 2), (49, 1, 7), (28, 4, 60)]), 2, 7, ?_⟩,
    ⟨(({ act with hq := { act.hq with ops := [mkOp 5 0x10 [(48, 1, 1), (49, 1, 8), (28, 4, 1515)]] } }).setFld .netCfg 0 0 2 1), (.tag 0),
    (mkOp 5 0x10 [(48, 1, 1), (49, 1, 8), (28, 4, 1515)]), 1, 8, ?_⟩,
    ⟨(({ act with hq := { act.hq with ops := [mkOp 5 0x10 [(48, 1, 1), (49, 1, 7), (28, 4, 1514)]] } }).setFld .netCfg 0 0 2 1), (.tag 0),
    (mkOp 5 0x10 [(48, 1, 1), (49, 1, 7), (28, 4, 1514)]), 1, 7, ?_⟩,
    ⟨(({ act with hq := { act.hq with ops := [mkOp 5 0x10 [(48, 1, 1), (49, 1, 7), (28, 4, 60)]] }, tb := { act.tb with frames := [({ tf0 with network := 1, prio := 7, headed := true } : TimedFrame)] } }).setFld .netCfg 0 0 2 1),
    (.tag 0), (mkOp 5 0x10 [(48, 1, 1), (49, 1, 7), (28, 4, 60)]), 1, 7, ?_⟩,
    ⟨act, 0, 0, ?_⟩,
    ⟨({ act with tb := { act.tb with frames := [({ tf0 with network := 1, prio := 7, headed := true } : TimedFrame)] } }), 1, 7,
    ({ tf0 with network := 1, prio := 7, headed := true } : TimedFrame), ?_⟩,
    ⟨({ act with tb := { act.tb with frames := [({ tf0 with network := 1, prio := 7 } : TimedFrame)] } }), 1, 7,
    ({ tf0 with network := 1, prio := 7 } : TimedFrame), ?_⟩,
    ⟨(({ act with hq := { act.hq with ops := [mkOp 5 0x11 [(48, 1, 4), (28, 4, 16)]] } }).setFld .netCfg 0 0 2 1), (.tag 0),
    (mkOp 5 0x11 [(48, 1, 4), (28, 4, 16)]), 4, 0, _,
    by refine ⟨⟨by decide +kernel, by decide +kernel, by decide +kernel⟩, ?_, rfl, ?_, ?_⟩ <;> decide +kernel⟩,
    ⟨(({ act with hq := { act.hq with ops := [mkOp 5 0x11 [(48, 1, 3), (28, 4, 17)]] } }).setFld .netCfg 0 0 2 1), (.tag 0),
    (mkOp 5 0x11 [(48, 1, 3), (28, 4, 17)]), 3, 0, _,
    by refine ⟨⟨by decide +kernel, by decide +kernel, by decide +kernel⟩, ?_, rfl, ?_, ?_, ?_, ?_⟩ <;> decide +kernel⟩,
    ⟨(({ act with hq := { act.hq with ops := [mkOp 5 0x11 [(48, 1, 3), (28, 4, 16)]] } }).setFld .netCfg 0 0 2 1), (.tag 0),
    (mkOp 5 0x11 [(48, 1, 3), (28, 4, 16)]), 3, 0, _,
    by refine ⟨⟨by decide +kernel, by decide +kernel, by decide +kernel⟩, ?_, rfl, ?_, ?_, ?_, ?_, ?_⟩ <;> decide +kernel⟩,
    ⟨(({ act with hq := { act.hq with ops := [mkOp 5 0x11 [(48, 1, 3), (28, 4, 24)]] }, mem := cells [(16, 4, 255), (20, 4, 1000)] }).setFld .netCfg 0 0 2 1),
    (.tag 0), (mkOp 5 0x11 [(48, 1, 3), (28, 4, 24)]), 3, 1, _,
    by refine ⟨⟨by decide +kernel, by decide +kernel, by decide +kernel⟩, ?_, rfl, ?_, ?_, ?_, ?_, ?_, ?_, ?_, fun h => ?_, ?_⟩ <;> first | decide +kernel | exact absurd h (by decide +kernel)⟩,
    ⟨act, 0, ?_⟩,
    ⟨({ act with net := { act.net with ports := List.replicate 4 { newGate := some ({ ptBase := false, base := 0, entries := [(255, 1000)], start := 1 } : GateList) } } }),
    3, ({ ptBase := false, base := 0, entries := [(255, 1000)], start := 1 } : GateList), ?_⟩,
    ⟨({ act with net := { act.net with ports := List.replicate 4 { newGate := some ({ ptBase := false, base := 0, entries := [(255, 1000)], start := 0 } : GateList) } } }),
    3, ({ ptBase := false, base := 0, entries := [(255, 1000)], start := 0 } : GateList), ?_⟩,
    ⟨act, ({ ptBase := false, base := 0, entries := [(255, 1000)], start := 0 } : GateList), 1000, ?_⟩,
    ⟨act, 0, ?_⟩,
    ⟨({ act with net := { act.net with ports := List.replicate 4 { link := true } } }), 3, ?_⟩,
    ⟨z, 3, true, ?_⟩,
    ⟨act, 0, false, ?_⟩,
    ⟨({ act with net := { act.net with supAt := some 1 } }), 1, ?_⟩,
    ⟨act, ?_⟩,
    ⟨act, 0, 0, 0, 0, false, false, [], ?_⟩,
    ⟨(State.setFld ({ act with net := { act.net with ports := List.replicate 4 { link := true }, hsrSeen := [(7, 1)] } }) .netCfg 0 0 2 (0)), 3, 7,
    0, 1, false, false, [], ?_⟩,
    ⟨(State.setFld ({ act with net := { act.net with ports := List.replicate 4 { link := true } } }) .netCfg 0 0 2 (0)), 2, 7, 0, 1, false, false,
    [], ?_⟩,
    ⟨act, (true), (true), false, 0, ?_⟩,
    ⟨act, false, false, false, 0, ({ act with tb := { act.tb with svAt := none } }), ?_⟩,
    ⟨({ act with tb := { act.tb with angSrc := 1, angState := .locked } }), false, false, false, 0, _,
    ⟨by decide, rfl, by decide +kernel, by decide +kernel⟩⟩,
    ⟨({ act with tb := { act.tb with pt := { sec := 1 } } }), 255, _, true, by refine ⟨rfl, ?_, ?_, ?_⟩ <;> decide +kernel⟩,
    ⟨act, false, ?_⟩,
    ⟨act, (true), ?_⟩,
    ⟨({ act with net := { act.net with sessions := 0 } }), false, ?_⟩,
    ⟨({ act with net := { act.net with sessions := 8 } }), false, ?_⟩,
    ⟨({ act with sys := { act.sys with mode := .inserted } }), false, ?_⟩,
    ⟨act, true, ?_⟩,
    ⟨act, 0, 0, 0, ?_⟩,
    ⟨act, (act.fld .netCfg 16 16), (0xC0C0), (act.pairId), ?_⟩⟩ <;> and_intros <;>
    first | exact (Option.some_get _).symm | decide +kernel | rfl | exact ⟨1, by decide +kernel, by decide +kernel, by decide +kernel⟩ | exact ⟨1, by decide +kernel, by decide +kernel⟩ | exact ⟨0, by decide +kernel, by decide +kernel⟩ | (intros; first | rfl | contradiction | decide +kernel | simp)

/-- What `Obligations.StorageAndRecorderKeepWhatTheySay` assumes can be met, clause by clause. -/
theorem test_hyp_StorageAndRecorderKeepWhatTheySay :
    (∃ (s : State) (n : Nat), s.fld .dramCeWarn 0 16 < n ∧ ((∀ t, s.sys.dramCeAt = some t → t + ticks24h ≤ s.tb.csr))) ∧
    (∃ (s : State) (n : Nat), (n ≤ s.fld .dramCeWarn 0 16 ∨ (∃ t, s.sys.dramCeAt = some t ∧ s.tb.csr < t + ticks24h))) ∧
    (∃ (s : State) (p : Nat) (i : Nat) (f : Nat) (b : Bool) (g : Page), s.page p i = some g) ∧
    (∃ (s : State) (h : Nat) (l : List (Nat × Nat × Nat × Bool)), (s.bit .nvsCtrl 0 = false ∨ s.nvs.ready = false)) ∧
    (∃ (s : State) (h : Nat) (l : List (Nat × Nat × Nat × Bool)), s.bit .nvsCtrl 0 = true ∧ s.nvs.ready = true) ∧
    (∃ (s : State) (o0 : Bool) (o1 : Bool) (o2 : Bool) (k : Nat), s.sys.slotsAt = some k ∧ s.tb.csr < k + usTicks 604800000000) ∧
    (∃ (s : State) (o0 : Bool) (o1 : Bool) (o2 : Bool), ((∀ k, s.sys.slotsAt = some k → k + usTicks 604800000000 ≤ s.tb.csr))) ∧
    (∃ (s : State) (k : Nat) (ok : Bool), (ok = true ∨ (s.nvs.slots.getD k {}).state = .empty ∨ (s.nvs.slots.getD k {}).state = .writing ∨ (s.nvs.slots.getD k {}).state = .invalid)) ∧
    (∃ (s : State) (k : Nat) (ok : Bool), ok = false ∧ (s.nvs.slots.getD k {}).state ≠ .empty ∧ (s.nvs.slots.getD k {}).state ≠ .writing ∧
    (s.nvs.slots.getD k {}).state ≠ .invalid) ∧
    (∃ (s : State) (k : Nat), s.sys.countersAt = some k ∧ s.tb.csr < k + usTicks 600000000) ∧
    (∃ (s : State), ((∀ k, s.sys.countersAt = some k → k + usTicks 600000000 ≤ s.tb.csr))) ∧
    (∃ (s : State) (w : WorkRef) (op : Op) (p : Nat) (a : Nat) (n : Nat) (l : List (Nat × Nat × Nat)) (c : Instr) (o : Nat), dInline op.bytes 0 1 = p ∧
    dInline op.bytes 4 4 = a ∧ dInline op.bytes 8 4 = n ∧ ((c = .nvsRead w l ∧ o = 0x10) ∨ (c = .nvsWrite w ∧ o = 0x11)) ∧ s.ready w 7 o op ∧ p ≠ 5 ∧
    p ≠ 6) ∧
    (∃ (s : State) (w : WorkRef) (op : Op) (p : Nat) (a : Nat) (n : Nat) (l : List (Nat × Nat × Nat)) (c : Instr) (o : Nat), dInline op.bytes 0 1 = p ∧
    dInline op.bytes 4 4 = a ∧ dInline op.bytes 8 4 = n ∧ ((c = .nvsRead w l ∧ o = 0x10) ∨ (c = .nvsWrite w ∧ o = 0x11)) ∧ s.ready w 7 o op ∧
    (p = 5 ∨ p = 6) ∧ partPages p < a + n) ∧
    (∃ (s : State) (w : WorkRef) (op : Op) (p : Nat) (a : Nat) (n : Nat) (l : List (Nat × Nat × Nat)) (c : Instr) (o : Nat), dInline op.bytes 0 1 = p ∧
    dInline op.bytes 4 4 = a ∧ dInline op.bytes 8 4 = n ∧ ((c = .nvsRead w l ∧ o = 0x10) ∨ (c = .nvsWrite w ∧ o = 0x11)) ∧ s.ready w 7 o op ∧
    (p = 5 ∨ p = 6) ∧ a + n ≤ partPages p ∧ dLength op.bytes ≠ n * 16384) ∧
    (∃ (s : State) (w : WorkRef) (op : Op) (p : Nat) (a : Nat) (n : Nat) (l : List (Nat × Nat × Nat)) (r : List (Nat × Nat × Nat)), dInline op.bytes 0 1 = p ∧
    dInline op.bytes 4 4 = a ∧ dInline op.bytes 8 4 = n ∧ (p = 5 ∨ p = 6) ∧ a + n ≤ partPages p ∧ dLength op.bytes = n * 16384 ∧
    s.ready w 7 0x10 op ∧ r = l.filter (fun r => decide (a ≤ r.1 ∧ r.1 < a + n) && s.pageWritten p r.1) ∧ ((∃ x ∈ r, x.2.2 % 65536 ≠ 0))) ∧
    (∃ (s : State) (w : WorkRef) (op : Op) (p : Nat) (a : Nat) (n : Nat) (l : List (Nat × Nat × Nat)) (r : List (Nat × Nat × Nat)), dInline op.bytes 0 1 = p ∧
    dInline op.bytes 4 4 = a ∧ dInline op.bytes 8 4 = n ∧ (p = 5 ∨ p = 6) ∧ a + n ≤ partPages p ∧ dLength op.bytes = n * 16384 ∧
    s.ready w 7 0x10 op ∧ r = l.filter (fun r => decide (a ≤ r.1 ∧ r.1 < a + n) && s.pageWritten p r.1) ∧ ((∀ x ∈ r, x.2.2 % 65536 = 0))) ∧
    (∃ (s : State) (w : WorkRef) (op : Op) (p : Nat) (a : Nat) (n : Nat) (l : List (Nat × Nat × Nat)) (m : Nat), dInline op.bytes 0 1 = p ∧
    dInline op.bytes 4 4 = a ∧ dInline op.bytes 8 4 = n ∧ (p = 5 ∨ p = 6) ∧ a + n ≤ partPages p ∧ dLength op.bytes = n * 16384 ∧
    s.ready w 7 0x11 op ∧ op.steps = m ∧ ((∃ k, m ≤ k ∧ k < n ∧ s.pageWritten p (a + k) = true))) ∧
    (∃ (s : State) (w : WorkRef) (op : Op) (p : Nat) (a : Nat) (n : Nat) (l : List (Nat × Nat × Nat)) (m : Nat), dInline op.bytes 0 1 = p ∧
    dInline op.bytes 4 4 = a ∧ dInline op.bytes 8 4 = n ∧ (p = 5 ∨ p = 6) ∧ a + n ≤ partPages p ∧ dLength op.bytes = n * 16384 ∧
    s.ready w 7 0x11 op ∧ op.steps = m ∧ ((∀ k, m ≤ k → k < n → s.pageWritten p (a + k) = false))) ∧
    (∃ (s : State) (w : WorkRef) (op : Op) (p : Nat) (a : Nat) (n : Nat) (l : List (Nat × Nat × Nat)), dInline op.bytes 0 1 = p ∧
    dInline op.bytes 4 4 = a ∧ dInline op.bytes 8 4 = n ∧ s.ready w 7 0x12 op ∧ p ≠ 5 ∧ p ≠ 6) ∧
    (∃ (s : State) (w : WorkRef) (op : Op) (p : Nat) (a : Nat) (n : Nat) (l : List (Nat × Nat × Nat)), dInline op.bytes 0 1 = p ∧
    dInline op.bytes 4 4 = a ∧ dInline op.bytes 8 4 = n ∧ s.ready w 7 0x12 op ∧ (p = 5 ∨ p = 6) ∧ partPages p < (a + n) * 256) ∧
    (∃ (s : State) (w : WorkRef) (op : Op) (p : Nat) (a : Nat) (n : Nat) (l : List (Nat × Nat × Nat)) (m : Nat), dInline op.bytes 0 1 = p ∧
    dInline op.bytes 4 4 = a ∧ dInline op.bytes 8 4 = n ∧ s.ready w 7 0x12 op ∧ (p = 5 ∨ p = 6) ∧ (a + n) * 256 ≤ partPages p ∧ op.steps = m ∧ m ≤ n) ∧
    (∃ (s : State) (w : WorkRef) (op : Op) (p : Nat) (a : Nat) (n : Nat) (l : List (Nat × Nat × Nat)), dInline op.bytes 0 1 = p ∧
    dInline op.bytes 4 4 = a ∧ dInline op.bytes 8 4 = n ∧ s.ready w 7 0x13 op ∧ 7 ≤ p) ∧
    (∃ (s : State) (w : WorkRef) (op : Op) (p : Nat) (a : Nat) (n : Nat) (l : List (Nat × Nat × Nat)), dInline op.bytes 0 1 = p ∧
    dInline op.bytes 4 4 = a ∧ dInline op.bytes 8 4 = n ∧ s.ready w 7 0x13 op ∧ p < 7 ∧ partPages p < a + n) ∧
    (∃ (s : State) (w : WorkRef) (op : Op) (p : Nat) (a : Nat) (n : Nat) (l : List (Nat × Nat × Nat)), dInline op.bytes 0 1 = p ∧
    dInline op.bytes 4 4 = a ∧ dInline op.bytes 8 4 = n ∧ s.ready w 7 0x13 op ∧ p < 7 ∧ a + n ≤ partPages p ∧ dLength op.bytes < 4 * n) ∧
    (∃ (s : State) (w : WorkRef) (op : Op) (p : Nat) (a : Nat) (n : Nat) (l : List (Nat × Nat × Nat)), dInline op.bytes 0 1 = p ∧
    dInline op.bytes 4 4 = a ∧ dInline op.bytes 8 4 = n ∧ s.ready w 7 0x13 op ∧ p < 7 ∧ a + n ≤ partPages p ∧ 4 * n ≤ dLength op.bytes) ∧
    (∃ (s : State) (c : Nat) (v : Nat) (o : Nat) (b : List Byte), (c = 0 ∨ 0xFFFE ≤ c)) ∧
    (∃ (s : State) (c : Nat) (v : Nat) (o : Nat) (b : List Byte), 0 < c ∧ c < 0xFFFE) ∧
    (∃ (s : State), unflushedBytes s.log.recs < 262144 ∧ s.tb.csr < s.log.flushAt + usTicks 5000000 ∧
    ((∀ r ∈ s.log.recs, r.flushed = false → r.sev < 2))) ∧
    (∃ (s : State), (262144 ≤ unflushedBytes s.log.recs ∨ s.log.flushAt + usTicks 5000000 ≤ s.tb.csr ∨ (∃ r ∈ s.log.recs, r.flushed = false ∧ 2 ≤ r.sev)) ∧
    s.log.dropped = false) ∧
    (∃ (s : State) (w : WorkRef) (op : Op) (c : Nat) (v : Nat), s.ready w 7 0x20 op ∧ dSubop op.bytes = c ∧ dInline op.bytes 0 1 = v ∧
    (c < 0xF000 ∨ 0xFFFD < c ∨ 3 < v)) ∧
    (∃ (s : State) (w : WorkRef) (op : Op) (c : Nat) (v : Nat), s.ready w 7 0x20 op ∧ dSubop op.bytes = c ∧ dInline op.bytes 0 1 = v ∧ 0xF000 ≤ c ∧
    c ≤ 0xFFFD ∧ v ≤ 3 ∧ (dLength op.bytes < 16 ∨ 1024 < dLength op.bytes)) ∧
    (∃ (s : State) (w : WorkRef) (op : Op) (c : Nat) (v : Nat), s.ready w 7 0x20 op ∧ dSubop op.bytes = c ∧ dInline op.bytes 0 1 = v ∧ 0xF000 ≤ c ∧
    c ≤ 0xFFFD ∧ v ≤ 3 ∧ 16 ≤ dLength op.bytes ∧ dLength op.bytes ≤ 1024) ∧
    (∃ (s : State) (w : WorkRef) (op : Op) (a : Nat) (b : Nat) (e : Export), s.ready w 7 0x21 op ∧ max (dInline op.bytes 0 8) op.logLo = a ∧
    min (dInline op.bytes 8 8) op.logHi = b ∧ op.copied.getD { last := a - 1 } = e ∧ a ≤ b ∧ e.last < b ∧ e.last < s.log.erased) ∧
    (∃ (s : State) (w : WorkRef) (op : Op) (a : Nat) (b : Nat) (e : Export), s.ready w 7 0x21 op ∧ max (dInline op.bytes 0 8) op.logLo = a ∧
    min (dInline op.bytes 8 8) op.logHi = b ∧ op.copied.getD { last := a - 1 } = e ∧ b < a) ∧
    (∃ (s : State) (w : WorkRef) (op : Op) (a : Nat) (b : Nat) (e : Export) (x : Export) (b' : List Byte), s.ready w 7 0x21 op ∧
    max (dInline op.bytes 0 8) op.logLo = a ∧ min (dInline op.bytes 8 8) op.logHi = b ∧ op.copied.getD { last := a - 1 } = e ∧ a ≤ b ∧
    (b ≤ e.last ∨ s.log.erased ≤ e.last) ∧
    exportRecs s.pwr.slotB (dLength op.bytes) b (s.log.recs.filter fun r => decide (a ≤ r.seq ∧ r.seq ≤ b ∧ e.last < r.seq)) (e, []) = (x, b')) ∧
    (∃ (s : State) (w : WorkRef) (op : Op), s.ready w 7 0x22 op ∧ op.started = true) ∧
    (∃ (s : State) (w : WorkRef) (op : Op) (y : _) (c : _), s.ready w 7 0x22 op ∧ op.started = false ∧
    s.judgeArtefact (some 6) (s.buffer op) = .refused y c) ∧
    (∃ (s : State) (w : WorkRef) (op : Op) (z : Artefact) (n : Nat) (r : Nat), s.ready w 7 0x22 op ∧ op.started = false ∧
    s.judgeArtefact (some 6) (s.buffer op) = .good z ∧ leField z.body 8 8 = n ∧
    ((r = 4 ∧ s.log.seq < n) ∨ (r = 5 ∧ n ≤ s.log.seq ∧ s.nonceUsed z = true) ∨ (r = 6 ∧ n ≤ s.log.seq ∧ s.nonceUsed z = false ∧ s.exporting = true))) ∧
    (∃ (s : State) (w : WorkRef) (op : Op) (z : _) (n : _), s.ready w 7 0x22 op ∧ op.started = false ∧
    s.judgeArtefact (some 6) (s.buffer op) = .good z ∧ leField z.body 8 8 = n ∧ n ≤ s.log.seq ∧ s.nonceUsed z = false ∧ s.exporting = false) := by
  refine ⟨⟨act, 65536, ⟨by decide +kernel, fun t h => by cases h⟩⟩,
    ⟨act, 0, ?_⟩,
    ⟨({ act with nvs := { act.nvs with pages := [((0, 0), ({} : Page))] } }), 0, 0, 0, false, ({} : Page), ?_⟩,
    ⟨(State.setFld (act) .nvsCtrl 0 0 1 0), 0, [], ?_⟩,
    ⟨(State.setFld ({ act with nvs := { act.nvs with ready := true } }) .nvsCtrl 0 0 1 1), 0, [], ?_⟩,
    ⟨({ act with sys := { act.sys with slotsAt := some 0 } }), false, false, false, 0, ?_⟩,
    ⟨act, false, false, false, ?_⟩,
    ⟨act, 0, true, ?_⟩,
    ⟨act, 2, false, ?_⟩,
    ⟨({ act with sys := { act.sys with countersAt := some 0 } }), 0, ?_⟩,
    ⟨act, ?_⟩,
    ⟨({ act with hq := { act.hq with ops := [mkOp 7 0x10 [(48, 1, 4), (52, 4, 0), (56, 4, 1)]] } }), (.tag 0),
    (mkOp 7 0x10 [(48, 1, 4), (52, 4, 0), (56, 4, 1)]), 4, 0, 1, [], (.nvsRead (.tag 0) []), 0x10,
    by and_intros <;> first | exact .inl ⟨rfl, rfl⟩ | decide +kernel⟩,
    ⟨({ act with hq := { act.hq with ops := [mkOp 7 0x10 [(48, 1, 5), (52, 4, 1572864), (56, 4, 1)]] } }), (.tag 0),
    (mkOp 7 0x10 [(48, 1, 5), (52, 4, 1572864), (56, 4, 1)]), 5, 1572864, 1, [], (.nvsRead (.tag 0) []), 0x10,
    by and_intros <;> first | exact .inl ⟨rfl, rfl⟩ | decide +kernel⟩,
    ⟨({ act with hq := { act.hq with ops := [mkOp 7 0x10 [(48, 1, 5), (52, 4, 0), (56, 4, 1)]] } }), (.tag 0),
    (mkOp 7 0x10 [(48, 1, 5), (52, 4, 0), (56, 4, 1)]), 5, 0, 1, [], (.nvsRead (.tag 0) []), 0x10,
    by and_intros <;> first | exact .inl ⟨rfl, rfl⟩ | decide +kernel⟩,
    ⟨({ act with hq := { act.hq with ops := [mkOp 7 0x10 [(48, 1, 6), (52, 4, 0), (56, 4, 1), (28, 4, 16384)]] }, nvs := { act.nvs with pages := [((6, 0), ({} : Page))] } }),
    (.tag 0), (mkOp 7 0x10 [(48, 1, 6), (52, 4, 0), (56, 4, 1), (28, 4, 16384)]), 6, 0, 1, [(0, 0, 1)], _,
    by refine ⟨?_, ?_, ?_, ?_, ?_, ?_, ⟨by decide +kernel, by decide +kernel, by decide +kernel⟩, rfl, ⟨(0, 0, 1), ?_, ?_⟩⟩ <;> decide +kernel⟩,
    ⟨({ act with hq := { act.hq with ops := [mkOp 7 0x10 [(48, 1, 6), (52, 4, 0), (56, 4, 1), (28, 4, 16384)]] }, nvs := { act.nvs with pages := [((6, 0), ({} : Page))] } }),
    (.tag 0), (mkOp 7 0x10 [(48, 1, 6), (52, 4, 0), (56, 4, 1), (28, 4, 16384)]), 6, 0, 1, [(0, 0, 0)], _,
    by refine ⟨?_, ?_, ?_, ?_, ?_, ?_, ⟨by decide +kernel, by decide +kernel, by decide +kernel⟩, rfl, ?_⟩ <;> decide +kernel⟩,
    ⟨({ act with hq := { act.hq with ops := [mkOp 7 0x11 [(48, 1, 6), (52, 4, 0), (56, 4, 1), (28, 4, 16384)]] }, nvs := { act.nvs with pages := [((6, 0), ({} : Page))] } }),
    (.tag 0), (mkOp 7 0x11 [(48, 1, 6), (52, 4, 0), (56, 4, 1), (28, 4, 16384)]), 6, 0, 1, [], 0,
    by refine ⟨?_, ?_, ?_, ?_, ?_, ?_, ⟨by decide +kernel, by decide +kernel, by decide +kernel⟩, ?_, ⟨0, ?_, ?_, ?_⟩⟩ <;> decide +kernel⟩,
    ⟨({ act with hq := { act.hq with ops := [mkOp 7 0x11 [(48, 1, 6), (52, 4, 0), (56, 4, 1), (28, 4, 16384)]] } }), (.tag 0),
    (mkOp 7 0x11 [(48, 1, 6), (52, 4, 0), (56, 4, 1), (28, 4, 16384)]), 6, 0, 1, [], 0,
    by refine ⟨?_, ?_, ?_, ?_, ?_, ?_, ⟨by decide +kernel, by decide +kernel, by decide +kernel⟩, ?_, fun k _ h => ?_⟩ <;> first | decide +kernel | (cases Nat.lt_one_iff.1 h; decide +kernel)⟩,
    ⟨({ act with hq := { act.hq with ops := [(mkOp 7 0x12 [(48, 1, 0), (52, 4, 0), (56, 4, 0)])] } }), (.tag 0),
    (mkOp 7 0x12 [(48, 1, 0), (52, 4, 0), (56, 4, 0)]), 0, 0, 0, [], ?_⟩,
    ⟨({ act with hq := { act.hq with ops := [mkOp 7 0x12 [(48, 1, 5), (52, 4, 6144), (56, 4, 1)]] } }), (.tag 0),
    (mkOp 7 0x12 [(48, 1, 5), (52, 4, 6144), (56, 4, 1)]), 5, 6144, 1, [], ?_⟩,
    ⟨({ act with hq := { act.hq with ops := [({ mkOp 7 0x12 [(48, 1, 5), (52, 4, 0), (56, 4, 0)] with steps := 0 })] } }), (.tag 0),
    ({ mkOp 7 0x12 [(48, 1, 5), (52, 4, 0), (56, 4, 0)] with steps := 0 }), 5, 0, 0, [], 0, ?_⟩,
    ⟨({ act with hq := { act.hq with ops := [(mkOp 7 0x13 [(48, 1, 7), (52, 4, 0), (56, 4, 0)])] } }), (.tag 0),
    (mkOp 7 0x13 [(48, 1, 7), (52, 4, 0), (56, 4, 0)]), 7, 0, 0, [], ?_⟩,
    ⟨({ act with hq := { act.hq with ops := [mkOp 7 0x13 [(48, 1, 6), (52, 4, 245760), (56, 4, 1)]] } }), (.tag 0),
    (mkOp 7 0x13 [(48, 1, 6), (52, 4, 245760), (56, 4, 1)]), 6, 245760, 1, [], ?_⟩,
    ⟨({ act with hq := { act.hq with ops := [mkOp 7 0x13 [(48, 1, 6), (52, 4, 0), (56, 4, 1), (28, 4, 3)]] } }), (.tag 0),
    (mkOp 7 0x13 [(48, 1, 6), (52, 4, 0), (56, 4, 1), (28, 4, 3)]), 6, 0, 1, [], ?_⟩,
    ⟨({ act with hq := { act.hq with ops := [(mkOp 7 0x13 [(48, 1, 6), (52, 4, 0), (56, 4, 0)])] } }), (.tag 0),
    (mkOp 7 0x13 [(48, 1, 6), (52, 4, 0), (56, 4, 0)]), 6, 0, 0, [], ?_⟩,
    ⟨act, 0, 0, 0, [], ?_⟩,
    ⟨act, 1, 0, 0, [], ?_⟩,
    ⟨act, ?_⟩,
    ⟨({ act with log := { act.log with dropped := false }, tb := { act.tb with csr := usTicks 5000000 } }),
    by and_intros <;> first | exact .inr (.inl (by decide +kernel)) | decide +kernel⟩,
    ⟨({ act with hq := { act.hq with ops := [(mkOp 7 0x20 [(2, 2, 0), (48, 1, 0)])] } }), (.tag 0), (mkOp 7 0x20 [(2, 2, 0), (48, 1, 0)]), 0, 0, ?_⟩,
    ⟨({ act with hq := { act.hq with ops := [(mkOp 7 0x20 [(2, 2, 0xF000), (48, 1, 3)])] } }), (.tag 0), (mkOp 7 0x20 [(2, 2, 0xF000), (48, 1, 3)]),
    0xF000, 3, ?_⟩,
    ⟨({ act with hq := { act.hq with ops := [(mkOp 7 0x20 [(2, 2, 0xF000), (48, 1, 3), (28, 4, 1024)])] } }), (.tag 0),
    (mkOp 7 0x20 [(2, 2, 0xF000), (48, 1, 3), (28, 4, 1024)]), 0xF000, 3, ?_⟩,
    ⟨({ act with hq := { act.hq with ops := [{ mkOp 7 0x21 [(48, 8, 1), (56, 8, 9)] with logHi := 9 }] }, log := { act.log with erased := 5 } }),
    (.tag 0), ({ mkOp 7 0x21 [(48, 8, 1), (56, 8, 9)] with logHi := 9 }), 1, 9, ({ last := 0 } : Export), ?_⟩,
    ⟨({ act with hq := { act.hq with ops := [{ mkOp 7 0x21 [(48, 8, 9), (56, 8, 1)] with logHi := 9 }] } }), (.tag 0),
    ({ mkOp 7 0x21 [(48, 8, 9), (56, 8, 1)] with logHi := 9 }), 9, 1, ({ last := 8 } : Export), ?_⟩,
    ⟨({ act with hq := { act.hq with ops := [{ mkOp 7 0x21 [] with copied := some { last := 0 } }] } }), (.tag 0),
    ({ mkOp 7 0x21 [] with copied := some { last := 0 } }), 0, 0, ({ last := 0 } : Export),
    ((exportRecs ({ act with hq := { act.hq with ops := [{ mkOp 7 0x21 [] with copied := some { last := 0 } }] } }).pwr.slotB (dLength ({ mkOp 7 0x21 [] with copied := some { last := 0 } }).bytes) 0 (({ act with hq := { act.hq with ops := [{ mkOp 7 0x21 [] with copied := some { last := 0 } }] } }).log.recs.filter fun (r : Rec) => decide (0 ≤ r.seq ∧ r.seq ≤ 0 ∧ ({ last := 0 } : Export).last < r.seq)) (({ last := 0 } : Export), [])).1),
    ((exportRecs ({ act with hq := { act.hq with ops := [{ mkOp 7 0x21 [] with copied := some { last := 0 } }] } }).pwr.slotB (dLength ({ mkOp 7 0x21 [] with copied := some { last := 0 } }).bytes) 0 (({ act with hq := { act.hq with ops := [{ mkOp 7 0x21 [] with copied := some { last := 0 } }] } }).log.recs.filter fun (r : Rec) => decide (0 ≤ r.seq ∧ r.seq ≤ 0 ∧ ({ last := 0 } : Export).last < r.seq)) (({ last := 0 } : Export), [])).2),
    ?_⟩,
    ⟨({ act with hq := { act.hq with ops := [({ mkOp 7 0x22 [] with started := true })] } }), (.tag 0), ({ mkOp 7 0x22 [] with started := true }), ?_⟩,
    ⟨({ act with hq := { act.hq with ops := [({ mkOp 7 0x22 [] with started := false })] } }), (.tag 0), ({ mkOp 7 0x22 [] with started := false }),
    _, _,
    by and_intros <;> first | (refine art_good ?_ ?_ ?_ ?_ ?_ ?_ ?_ ?_ <;> decide +kernel) | exact (Option.some_get _).symm | decide +kernel | rfl | exact ⟨1, by decide +kernel, by decide +kernel, by decide +kernel⟩ | exact ⟨1, by decide +kernel, by decide +kernel⟩ | exact ⟨0, by decide +kernel, by decide +kernel⟩ | (intros; first | rfl | contradiction | decide +kernel | simp)⟩,
    ⟨({ act with mem := artMem 6 1 16 [(8, 8, 1)], sec := { act.sec with owner := idKey }, hq := { act.hq with ops := [({ mkOp 7 0x22 [(28, 4, 194)] with started := false })] } }),
    (.tag 0), ({ mkOp 7 0x22 [(28, 4, 194)] with started := false }), (⟨1, 6, 1, 0, 0, none, 0, recN 16 [(8, 8, 1)], idSig⟩ : Artefact), 1, 4,
    by refine ⟨⟨by decide +kernel, by decide +kernel, by decide +kernel⟩, ?_, art_good ?_ ?_ ?_ ?_ ?_ ?_ ?_ ?_, ?_, .inl ⟨?_, ?_⟩⟩ <;> decide +kernel⟩,
    ⟨({ act with mem := artMem 6 1 0, sec := { act.sec with owner := idKey }, hq := { act.hq with ops := [({ mkOp 7 0x22 [(28, 4, 178)] with started := false })] } }),
    (.tag 0), ({ mkOp 7 0x22 [(28, 4, 178)] with started := false }), (⟨1, 6, 1, 0, 0, none, 0, recN 0 [], idSig⟩ : Artefact),
    (leField (⟨1, 6, 1, 0, 0, none, 0, recN 0 [], idSig⟩ : Artefact).body 8 8),
    by and_intros <;> first | (refine art_good ?_ ?_ ?_ ?_ ?_ ?_ ?_ ?_ <;> decide +kernel) | exact (Option.some_get _).symm | decide +kernel | rfl | exact ⟨1, by decide +kernel, by decide +kernel, by decide +kernel⟩ | exact ⟨1, by decide +kernel, by decide +kernel⟩ | exact ⟨0, by decide +kernel, by decide +kernel⟩ | (intros; first | rfl | contradiction | decide +kernel | simp)⟩⟩ <;> and_intros <;>
    first | exact (Option.some_get _).symm | decide +kernel | rfl | exact ⟨1, by decide +kernel, by decide +kernel, by decide +kernel⟩ | exact ⟨1, by decide +kernel, by decide +kernel⟩ | exact ⟨0, by decide +kernel, by decide +kernel⟩ | (intros; first | rfl | contradiction | decide +kernel | simp)

/-- What `Obligations.SecurityAndUpdateCommandsActAsTheySay` assumes can be met, clause by clause. -/
theorem test_hyp_SecurityAndUpdateCommandsActAsTheySay :
    (∃ (s : State) (w : WorkRef) (op : Op) (c : Nat) (r : List Byte), s.ready w 8 0x10 op ∧ c = (s.sec.reportCtr + 1) % 2 ^ 64 ∧
    r = s.attestReport ((op.bytes.drop 48).take 16) c ∧ dLength op.bytes < 370) ∧
    (∃ (s : State) (w : WorkRef) (op : Op) (c : Nat) (r : List Byte), s.ready w 8 0x10 op ∧ c = (s.sec.reportCtr + 1) % 2 ^ 64 ∧
    r = s.attestReport ((op.bytes.drop 48).take 16) c ∧ 370 ≤ dLength op.bytes) ∧
    (∃ (s : State) (w : WorkRef) (op : Op) (c : Nat) (r : List Byte), s.ready w 8 0x10 op ∧ c = (s.sec.reportCtr + 1) % 2 ^ 64 ∧
    r = s.attestReport ((op.bytes.drop 48).take 16) c ∧ s.sec.meas.length = 64 ∧ op.bytes.length = 64) ∧
    (∃ (s : State) (w : WorkRef) (op : Op) (d : List Byte) (y : _) (c : _), s.ready w 8 0x11 op ∧ d = artefactDigest (s.buffer op) ∧
    s.judgeArtefact none (s.buffer op) = .refused y c) ∧
    (∃ (s : State) (w : WorkRef) (op : Op) (d : List Byte) (a : Artefact), s.ready w 8 0x11 op ∧ d = artefactDigest (s.buffer op) ∧
    s.judgeArtefact none (s.buffer op) = .good a ∧ (isToken a = true ∧ s.nonceUsed a = true)) ∧
    (∃ (s : State) (w : WorkRef) (op : Op) (d : List Byte) (a : Artefact), s.ready w 8 0x11 op ∧ d = artefactDigest (s.buffer op) ∧
    s.judgeArtefact none (s.buffer op) = .good a ∧ ¬ (isToken a = true ∧ s.nonceUsed a = true) ∧ s.enrolBarred a = true) ∧
    (∃ (s : State) (w : WorkRef) (op : Op) (d : List Byte) (a : _), s.ready w 8 0x11 op ∧ d = artefactDigest (s.buffer op) ∧
    s.judgeArtefact none (s.buffer op) = .good a ∧ ¬ (isToken a = true ∧ s.nonceUsed a = true) ∧ s.enrolBarred a = false) ∧
    (∃ (s : State) (w : WorkRef) (op : Op) (y : _) (c : _), s.ready w 8 0x12 op ∧ s.judgeArtefact (some 7) (s.buffer op) = .refused y c) ∧
    (∃ (s : State) (w : WorkRef) (op : Op) (a : Artefact), s.ready w 8 0x12 op ∧ s.judgeArtefact (some 7) (s.buffer op) = .good a ∧
    s.enrolBarred a = true) ∧
    (∃ (s : State) (w : WorkRef) (op : Op) (a : _), s.ready w 8 0x12 op ∧ s.judgeArtefact (some 7) (s.buffer op) = .good a ∧ s.enrolBarred a = false) ∧
    (∃ (s : State) (w : WorkRef) (op : Op) (p : Bool), s.ready w 8 0x30 op ∧ op.started = true) ∧
    (∃ (s : State) (w : WorkRef) (op : Op) (p : Bool), s.ready w 8 0x30 op ∧ op.started = false ∧ s.sys.mode ≠ .standby ∧ s.sys.mode ≠ .service) ∧
    (∃ (s : State) (w : WorkRef) (op : Op) (p : Bool) (u : _) (y : _) (c : _), s.ready w 8 0x30 op ∧ op.started = false ∧
    (s.sys.mode = .standby ∨ s.sys.mode = .service) ∧ u = (if s.sys.mode = .standby then s.setMode .update else s) ∧
    u.judgeArtefact (some 1) (u.buffer op) = .refused y c) ∧
    (∃ (s : State) (w : WorkRef) (op : Op) (p : Bool) (u : State) (a : Artefact) (h : ImageHdr) (r : Nat), s.ready w 8 0x30 op ∧ op.started = false ∧
    (s.sys.mode = .standby ∨ s.sys.mode = .service) ∧ u = (if s.sys.mode = .standby then s.setMode .update else s) ∧
    u.judgeArtefact (some 1) (u.buffer op) = .good a ∧ h = imageHdr a.body ∧ u.prepareFault p h = some r) ∧
    (∃ (s : State) (w : WorkRef) (op : Op) (p : Bool) (u : State) (a : Artefact) (h : ImageHdr), s.ready w 8 0x30 op ∧ op.started = false ∧
    (s.sys.mode = .standby ∨ s.sys.mode = .service) ∧ u = (if s.sys.mode = .standby then s.setMode .update else s) ∧
    u.judgeArtefact (some 1) (u.buffer op) = .good a ∧ h = imageHdr a.body ∧ u.prepareFault p h = none) ∧
    (∃ (s : State) (h : ImageHdr) (p : Bool) (x2 : Prop) (x3 : Prop) (x4 : Prop) (x5 : Prop), x2 = (h.full = false ∧ (s.sec.factoryBoot = true ∨ slotsIn s.nvs.slots .imago = [] ∨ h.baseDigest ≠ slotDigest s.nvs.slots .imago)) ∧
    x3 = (s.partnerFits h.version h.minPeer h.proto h.protoMin = false) ∧ x4 = (slotsIn s.nvs.slots .trial ≠ [] ∨ p = true) ∧
    x5 = (s.prg.stage ≠ 0) ∧ h.svn < s.sec.svnFloor) ∧
    (∃ (s : State) (h : ImageHdr) (p : Bool) (x2 : Prop) (x3 : Prop) (x4 : Prop) (x5 : Prop), x2 = (h.full = false ∧ (s.sec.factoryBoot = true ∨ slotsIn s.nvs.slots .imago = [] ∨ h.baseDigest ≠ slotDigest s.nvs.slots .imago)) ∧
    x3 = (s.partnerFits h.version h.minPeer h.proto h.protoMin = false) ∧ x4 = (slotsIn s.nvs.slots .trial ≠ [] ∨ p = true) ∧
    x5 = (s.prg.stage ≠ 0) ∧ s.sec.svnFloor ≤ h.svn ∧ x2) ∧
    (∃ (s : State) (h : ImageHdr) (p : Bool) (x2 : Prop) (x3 : Prop) (x4 : Prop) (x5 : Prop), x2 = (h.full = false ∧ (s.sec.factoryBoot = true ∨ slotsIn s.nvs.slots .imago = [] ∨ h.baseDigest ≠ slotDigest s.nvs.slots .imago)) ∧
    x3 = (s.partnerFits h.version h.minPeer h.proto h.protoMin = false) ∧ x4 = (slotsIn s.nvs.slots .trial ≠ [] ∨ p = true) ∧
    x5 = (s.prg.stage ≠ 0) ∧ s.sec.svnFloor ≤ h.svn ∧ ¬ x2 ∧ x3) ∧
    (∃ (s : State) (h : ImageHdr) (p : Bool) (x2 : Prop) (x3 : Prop) (x4 : Prop) (x5 : Prop), x2 = (h.full = false ∧ (s.sec.factoryBoot = true ∨ slotsIn s.nvs.slots .imago = [] ∨ h.baseDigest ≠ slotDigest s.nvs.slots .imago)) ∧
    x3 = (s.partnerFits h.version h.minPeer h.proto h.protoMin = false) ∧ x4 = (slotsIn s.nvs.slots .trial ≠ [] ∨ p = true) ∧
    x5 = (s.prg.stage ≠ 0) ∧ s.sec.svnFloor ≤ h.svn ∧ ¬ x2 ∧ ¬ x3 ∧ x4) ∧
    (∃ (s : State) (h : ImageHdr) (p : Bool) (x2 : Prop) (x3 : Prop) (x4 : Prop) (x5 : Prop), x2 = (h.full = false ∧ (s.sec.factoryBoot = true ∨ slotsIn s.nvs.slots .imago = [] ∨ h.baseDigest ≠ slotDigest s.nvs.slots .imago)) ∧
    x3 = (s.partnerFits h.version h.minPeer h.proto h.protoMin = false) ∧ x4 = (slotsIn s.nvs.slots .trial ≠ [] ∨ p = true) ∧
    x5 = (s.prg.stage ≠ 0) ∧ s.sec.svnFloor ≤ h.svn ∧ ¬ x2 ∧ ¬ x3 ∧ ¬ x4 ∧ x5) ∧
    (∃ (s : State) (h : ImageHdr) (p : Bool) (x2 : Prop) (x3 : Prop) (x4 : Prop) (x5 : Prop), x2 = (h.full = false ∧ (s.sec.factoryBoot = true ∨ slotsIn s.nvs.slots .imago = [] ∨ h.baseDigest ≠ slotDigest s.nvs.slots .imago)) ∧
    x3 = (s.partnerFits h.version h.minPeer h.proto h.protoMin = false) ∧ x4 = (slotsIn s.nvs.slots .trial ≠ [] ∨ p = true) ∧
    x5 = (s.prg.stage ≠ 0) ∧ s.sec.svnFloor ≤ h.svn ∧ ¬ x2 ∧ ¬ x3 ∧ ¬ x4 ∧ ¬ x5) ∧
    (∃ (s : State) (w : WorkRef), s.activateOp w = none) ∧
    (∃ (s : State) (w : WorkRef) (op : Op) (c : Instr), s.activateOp w = some op ∧ c = .updActivate w ∧
    (op.waitTime = true ∧ op.late = true ∧ dLatePolicy op.bytes = false)) ∧
    (∃ (s : State) (w : WorkRef) (op : Op) (c : Instr), s.activateOp w = some op ∧ c = .updActivate w ∧
    (op.late = false ∨ op.waitTime = false ∨ dLatePolicy op.bytes = true) ∧ s.sys.mode ≠ .standby ∧ s.sys.mode ≠ .service) ∧
    (∃ (s : State) (w : WorkRef) (op : Op) (c : Instr), s.activateOp w = some op ∧ c = .updActivate w ∧
    (op.late = false ∨ op.waitTime = false ∨ dLatePolicy op.bytes = true) ∧ (s.sys.mode = .standby ∨ s.sys.mode = .service) ∧ s.upd.ready = false) ∧
    (∃ (s : State) (w : WorkRef) (op : Op) (c : Instr), s.activateOp w = some op ∧ c = .updActivate w ∧
    (op.late = false ∨ op.waitTime = false ∨ dLatePolicy op.bytes = true) ∧ (s.sys.mode = .standby ∨ s.sys.mode = .service) ∧ s.upd.ready = true ∧
    op.waitTime = true ∧ s.clockOf (dPtBase op.bytes) < dTime op.bytes) ∧
    (∃ (s : State) (w : WorkRef) (op : Op) (c : Instr) (u : State) (l : List BootSlot), s.activateOp w = some op ∧
    ((c = .updActivate w ∧ (op.late = false ∨ op.waitTime = false ∨ dLatePolicy op.bytes = true) ∧ (s.sys.mode = .standby ∨ s.sys.mode = .service) ∧ s.upd.ready = true ∧ (op.waitTime = false ∨ dTime op.bytes ≤ s.clockOf (dPtBase op.bytes))) ∨ (c = .updActivateDue ∧ ∃ p t, s.upd.scheduled = some (p, t, w) ∧ t ≤ s.clockOf p)) ∧
    u = { s with upd := { s.upd with scheduled := none } } ∧ s.upd.ready = true ∧ (s.sys.mode = .service ∨ s.activateSafe = true) ∧
    l = updAt (s.nvs.slots.map fun (b : BootSlot) => if b.state = .imago then { b with state := .chrysalis } else b) s.upd.target (fun (b : BootSlot) => { b with state := .trial, attempted := false })) ∧
    (∃ (s : State) (w : WorkRef) (op : Op) (c : Instr) (u : State), s.activateOp w = some op ∧
    ((c = .updActivate w ∧ (op.late = false ∨ op.waitTime = false ∨ dLatePolicy op.bytes = true) ∧ (s.sys.mode = .standby ∨ s.sys.mode = .service) ∧ s.upd.ready = true ∧ (op.waitTime = false ∨ dTime op.bytes ≤ s.clockOf (dPtBase op.bytes))) ∨ (c = .updActivateDue ∧ ∃ p t, s.upd.scheduled = some (p, t, w) ∧ t ≤ s.clockOf p)) ∧
    u = { s with upd := { s.upd with scheduled := none } } ∧ (s.upd.ready = false ∨ (s.sys.mode ≠ .service ∧ s.activateSafe = false))) ∧
    (∃ (s : State), s.upd.scheduled = none) ∧
    (∃ (s : State) (p : Bool) (t : Nat) (w : WorkRef), s.upd.scheduled = some (p, t, w) ∧ s.clockOf p < t) ∧
    (∃ (s : State) (p : Bool) (t : Nat) (w : WorkRef), s.upd.scheduled = some (p, t, w) ∧ t ≤ s.clockOf p ∧ s.activateOp w = none) ∧
    (∃ (s : State) (w : WorkRef) (op : Op), s.ready w 8 0x33 op ∧ s.upd.ready = false) ∧
    (∃ (s : State) (w : WorkRef) (op : Op), s.ready w 8 0x33 op ∧ s.upd.ready = true) ∧
    (∃ (s : State), ((s.confirmEnd = none ∨ ∃ e, s.confirmEnd = some e ∧ s.tb.csr < e))) ∧
    (∃ (s : State) (e : Nat), s.confirmEnd = some e ∧ e ≤ s.tb.csr) := by
  refine ⟨⟨({ act with hq := { act.hq with ops := [(mkOp 8 0x10 [])] } }), (.tag 0), (mkOp 8 0x10 []),
    ((({ act with hq := { act.hq with ops := [(mkOp 8 0x10 [])] } }).sec.reportCtr + 1) % 2 ^ 64),
    (({ act with hq := { act.hq with ops := [(mkOp 8 0x10 [])] } }).attestReport (((mkOp 8 0x10 []).bytes.drop 48).take 16) ((({ act with hq := { act.hq with ops := [(mkOp 8 0x10 [])] } }).sec.reportCtr + 1) % 2 ^ 64)),
    ?_⟩,
    ⟨({ act with hq := { act.hq with ops := [(mkOp 8 0x10 [(28, 4, 370)])] } }), (.tag 0), (mkOp 8 0x10 [(28, 4, 370)]),
    ((({ act with hq := { act.hq with ops := [(mkOp 8 0x10 [(28, 4, 370)])] } }).sec.reportCtr + 1) % 2 ^ 64),
    (({ act with hq := { act.hq with ops := [(mkOp 8 0x10 [(28, 4, 370)])] } }).attestReport (((mkOp 8 0x10 [(28, 4, 370)]).bytes.drop 48).take 16) ((({ act with hq := { act.hq with ops := [(mkOp 8 0x10 [(28, 4, 370)])] } }).sec.reportCtr + 1) % 2 ^ 64)),
    ?_⟩,
    ⟨({ act with hq := { act.hq with ops := [mkOp 8 0x10 [(28, 4, 370)]] } }), (.tag 0), (mkOp 8 0x10 [(28, 4, 370)]),
    ((({ act with hq := { act.hq with ops := [mkOp 8 0x10 [(28, 4, 370)]] } }).sec.reportCtr + 1) % 2 ^ 64),
    (({ act with hq := { act.hq with ops := [mkOp 8 0x10 [(28, 4, 370)]] } }).attestReport (((mkOp 8 0x10 [(28, 4, 370)]).bytes.drop 48).take 16) ((({ act with hq := { act.hq with ops := [mkOp 8 0x10 [(28, 4, 370)]] } }).sec.reportCtr + 1) % 2 ^ 64)),
    ?_⟩,
    ⟨({ act with hq := { act.hq with ops := [(mkOp 8 0x11 [])] } }), (.tag 0), (mkOp 8 0x11 []),
    (artefactDigest (({ act with hq := { act.hq with ops := [(mkOp 8 0x11 [])] } }).buffer (mkOp 8 0x11 []))), _, _,
    by and_intros <;> first | (refine art_good ?_ ?_ ?_ ?_ ?_ ?_ ?_ ?_ <;> decide +kernel) | exact (Option.some_get _).symm | decide +kernel | rfl | exact ⟨1, by decide +kernel, by decide +kernel, by decide +kernel⟩ | exact ⟨1, by decide +kernel, by decide +kernel⟩ | exact ⟨0, by decide +kernel, by decide +kernel⟩ | (intros; first | rfl | contradiction | decide +kernel | simp)⟩,
    ⟨({ act with mem := artMem 5 1 16, sec := { act.sec with owner := idKey, nonceDbg := [0] }, hq := { act.hq with ops := [(mkOp 8 0x11 [(28, 4, 194)])] } }),
    (.tag 0), (mkOp 8 0x11 [(28, 4, 194)]),
    (artefactDigest (({ act with mem := artMem 5 1 16, sec := { act.sec with owner := idKey, nonceDbg := [0] }, hq := { act.hq with ops := [(mkOp 8 0x11 [(28, 4, 194)])] } }).buffer (mkOp 8 0x11 [(28, 4, 194)]))),
    (⟨1, 5, 1, 0, 0, none, 0, recN 16 [], idSig⟩ : Artefact),
    by and_intros <;> first | (refine art_good ?_ ?_ ?_ ?_ ?_ ?_ ?_ ?_ <;> decide +kernel) | exact (Option.some_get _).symm | decide +kernel | rfl | exact ⟨1, by decide +kernel, by decide +kernel, by decide +kernel⟩ | exact ⟨1, by decide +kernel, by decide +kernel⟩ | exact ⟨0, by decide +kernel, by decide +kernel⟩ | (intros; first | rfl | contradiction | decide +kernel | simp)⟩,
    ⟨({ act with mem := artMem 7 1 57 [(0, 1, 1)], sec := { act.sec with owner := [] }, hq := { act.hq with ops := [(mkOp 8 0x11 [(28, 4, 235)])] } }),
    (.tag 0), (mkOp 8 0x11 [(28, 4, 235)]),
    (artefactDigest (({ act with mem := artMem 7 1 57 [(0, 1, 1)], sec := { act.sec with owner := [] }, hq := { act.hq with ops := [(mkOp 8 0x11 [(28, 4, 235)])] } }).buffer (mkOp 8 0x11 [(28, 4, 235)]))),
    (⟨1, 7, 1, 0, 0, none, 0, recN 57 [(0, 1, 1)], idSig⟩ : Artefact),
    by and_intros <;> first | (refine art_good ?_ ?_ ?_ ?_ ?_ ?_ ?_ ?_ <;> decide +kernel) | exact (Option.some_get _).symm | decide +kernel | rfl | exact ⟨1, by decide +kernel, by decide +kernel, by decide +kernel⟩ | exact ⟨1, by decide +kernel, by decide +kernel⟩ | exact ⟨0, by decide +kernel, by decide +kernel⟩ | (intros; first | rfl | contradiction | decide +kernel | simp)⟩,
    ⟨({ act with mem := artMem 4 1 0, sec := { act.sec with owner := idKey }, hq := { act.hq with ops := [(mkOp 8 0x11 [(28, 4, 178)])] } }),
    (.tag 0), (mkOp 8 0x11 [(28, 4, 178)]),
    (artefactDigest (({ act with mem := artMem 4 1 0, sec := { act.sec with owner := idKey }, hq := { act.hq with ops := [(mkOp 8 0x11 [(28, 4, 178)])] } }).buffer (mkOp 8 0x11 [(28, 4, 178)]))),
    (⟨1, 4, 1, 0, 0, none, 0, recN 0 [], idSig⟩ : Artefact),
    by and_intros <;> first | (refine art_good ?_ ?_ ?_ ?_ ?_ ?_ ?_ ?_ <;> decide +kernel) | exact (Option.some_get _).symm | decide +kernel | rfl | exact ⟨1, by decide +kernel, by decide +kernel, by decide +kernel⟩ | exact ⟨1, by decide +kernel, by decide +kernel⟩ | exact ⟨0, by decide +kernel, by decide +kernel⟩ | (intros; first | rfl | contradiction | decide +kernel | simp)⟩,
    ⟨({ act with hq := { act.hq with ops := [(mkOp 8 0x12 [])] } }), (.tag 0), (mkOp 8 0x12 []), _, _,
    by and_intros <;> first | (refine art_good ?_ ?_ ?_ ?_ ?_ ?_ ?_ ?_ <;> decide +kernel) | exact (Option.some_get _).symm | decide +kernel | rfl | exact ⟨1, by decide +kernel, by decide +kernel, by decide +kernel⟩ | exact ⟨1, by decide +kernel, by decide +kernel⟩ | exact ⟨0, by decide +kernel, by decide +kernel⟩ | (intros; first | rfl | contradiction | decide +kernel | simp)⟩,
    ⟨({ act with mem := artMem 7 1 57 [(0, 1, 1)], sec := { act.sec with owner := [] }, hq := { act.hq with ops := [(mkOp 8 0x12 [(28, 4, 235)])] } }),
    (.tag 0), (mkOp 8 0x12 [(28, 4, 235)]), (⟨1, 7, 1, 0, 0, none, 0, recN 57 [(0, 1, 1)], idSig⟩ : Artefact),
    by and_intros <;> first | (refine art_good ?_ ?_ ?_ ?_ ?_ ?_ ?_ ?_ <;> decide +kernel) | exact (Option.some_get _).symm | decide +kernel | rfl | exact ⟨1, by decide +kernel, by decide +kernel, by decide +kernel⟩ | exact ⟨1, by decide +kernel, by decide +kernel⟩ | exact ⟨0, by decide +kernel, by decide +kernel⟩ | (intros; first | rfl | contradiction | decide +kernel | simp)⟩,
    ⟨({ act with mem := artMem 7 1 0, sec := { act.sec with owner := idKey }, hq := { act.hq with ops := [(mkOp 8 0x12 [(28, 4, 178)])] } }),
    (.tag 0), (mkOp 8 0x12 [(28, 4, 178)]), (⟨1, 7, 1, 0, 0, none, 0, recN 0 [], idSig⟩ : Artefact),
    by and_intros <;> first | (refine art_good ?_ ?_ ?_ ?_ ?_ ?_ ?_ ?_ <;> decide +kernel) | exact (Option.some_get _).symm | decide +kernel | rfl | exact ⟨1, by decide +kernel, by decide +kernel, by decide +kernel⟩ | exact ⟨1, by decide +kernel, by decide +kernel⟩ | exact ⟨0, by decide +kernel, by decide +kernel⟩ | (intros; first | rfl | contradiction | decide +kernel | simp)⟩,
    ⟨({ act with hq := { act.hq with ops := [({ mkOp 8 0x30 [] with started := true })] } }), (.tag 0), ({ mkOp 8 0x30 [] with started := true }),
    false, ?_⟩,
    ⟨({ act with hq := { act.hq with ops := [({ mkOp 8 0x30 [] with started := false })] } }), (.tag 0), ({ mkOp 8 0x30 [] with started := false }),
    false, ?_⟩,
    ⟨({ act with hq := { act.hq with ops := [({ mkOp 8 0x30 [] with started := false })] }, sys := { act.sys with mode := .standby } }), (.tag 0),
    ({ mkOp 8 0x30 [] with started := false }), false,
    ((if ({ act with hq := { act.hq with ops := [({ mkOp 8 0x30 [] with started := false })] }, sys := { act.sys with mode := .standby } }).sys.mode = .standby then ({ act with hq := { act.hq with ops := [({ mkOp 8 0x30 [] with started := false })] }, sys := { act.sys with mode := .standby } }).setMode .update else ({ act with hq := { act.hq with ops := [({ mkOp 8 0x30 [] with started := false })] }, sys := { act.sys with mode := .standby } }))),
    _, _,
    by and_intros <;> first | (refine art_good ?_ ?_ ?_ ?_ ?_ ?_ ?_ ?_ <;> decide +kernel) | exact (Option.some_get _).symm | decide +kernel | rfl | exact ⟨1, by decide +kernel, by decide +kernel, by decide +kernel⟩ | exact ⟨1, by decide +kernel, by decide +kernel⟩ | exact ⟨0, by decide +kernel, by decide +kernel⟩ | (intros; first | rfl | contradiction | decide +kernel | simp)⟩,
    ⟨({ act with mem := artMem 1 0 152 [(14, 1, 2)], sec := { act.sec with vendor := idKey, svnFloor := 1 }, hq := { act.hq with ops := [({ mkOp 8 0x30 [(28, 4, 330)] with started := false })] }, sys := { act.sys with mode := .standby } }),
    (.tag 0), ({ mkOp 8 0x30 [(28, 4, 330)] with started := false }), false,
    ((if ({ act with mem := artMem 1 0 152 [(14, 1, 2)], sec := { act.sec with vendor := idKey, svnFloor := 1 }, hq := { act.hq with ops := [({ mkOp 8 0x30 [(28, 4, 330)] with started := false })] }, sys := { act.sys with mode := .standby } }).sys.mode = .standby then ({ act with mem := artMem 1 0 152 [(14, 1, 2)], sec := { act.sec with vendor := idKey, svnFloor := 1 }, hq := { act.hq with ops := [({ mkOp 8 0x30 [(28, 4, 330)] with started := false })] }, sys := { act.sys with mode := .standby } }).setMode .update else ({ act with mem := artMem 1 0 152 [(14, 1, 2)], sec := { act.sec with vendor := idKey, svnFloor := 1 }, hq := { act.hq with ops := [({ mkOp 8 0x30 [(28, 4, 330)] with started := false })] }, sys := { act.sys with mode := .standby } }))),
    (⟨1, 1, 0, 0, 0, none, 0, recN 152 [(14, 1, 2)], idSig⟩ : Artefact),
    (imageHdr (⟨1, 1, 0, 0, 0, none, 0, recN 152 [(14, 1, 2)], idSig⟩ : Artefact).body), 3,
    by and_intros <;> first | (refine art_good ?_ ?_ ?_ ?_ ?_ ?_ ?_ ?_ <;> decide +kernel) | exact (Option.some_get _).symm | decide +kernel | rfl | exact ⟨1, by decide +kernel, by decide +kernel, by decide +kernel⟩ | exact ⟨1, by decide +kernel, by decide +kernel⟩ | exact ⟨0, by decide +kernel, by decide +kernel⟩ | (intros; first | rfl | contradiction | decide +kernel | simp)⟩,
    ⟨({ act with mem := artMem 1 0 152 [(14, 1, 2)], sec := { act.sec with vendor := idKey }, hq := { act.hq with ops := [({ mkOp 8 0x30 [(28, 4, 330)] with started := false })] }, sys := { act.sys with mode := .standby } }),
    (.tag 0), ({ mkOp 8 0x30 [(28, 4, 330)] with started := false }), false,
    ((if ({ act with mem := artMem 1 0 152 [(14, 1, 2)], sec := { act.sec with vendor := idKey }, hq := { act.hq with ops := [({ mkOp 8 0x30 [(28, 4, 330)] with started := false })] }, sys := { act.sys with mode := .standby } }).sys.mode = .standby then ({ act with mem := artMem 1 0 152 [(14, 1, 2)], sec := { act.sec with vendor := idKey }, hq := { act.hq with ops := [({ mkOp 8 0x30 [(28, 4, 330)] with started := false })] }, sys := { act.sys with mode := .standby } }).setMode .update else ({ act with mem := artMem 1 0 152 [(14, 1, 2)], sec := { act.sec with vendor := idKey }, hq := { act.hq with ops := [({ mkOp 8 0x30 [(28, 4, 330)] with started := false })] }, sys := { act.sys with mode := .standby } }))),
    (⟨1, 1, 0, 0, 0, none, 0, recN 152 [(14, 1, 2)], idSig⟩ : Artefact),
    (imageHdr (⟨1, 1, 0, 0, 0, none, 0, recN 152 [(14, 1, 2)], idSig⟩ : Artefact).body),
    by and_intros <;> first | (refine art_good ?_ ?_ ?_ ?_ ?_ ?_ ?_ ?_ <;> decide +kernel) | exact (Option.some_get _).symm | decide +kernel | rfl | exact ⟨1, by decide +kernel, by decide +kernel, by decide +kernel⟩ | exact ⟨1, by decide +kernel, by decide +kernel⟩ | exact ⟨0, by decide +kernel, by decide +kernel⟩ | (intros; first | rfl | contradiction | decide +kernel | simp)⟩,
    ⟨({ act with sec := { act.sec with svnFloor := 1 } }), ih0, false, _, _, _, _, ⟨rfl, rfl, rfl, rfl, by decide +kernel⟩⟩,
    ⟨act, ({ ih0 with full := false }), false, _, _, _, _, ⟨rfl, rfl, rfl, rfl, by decide +kernel, by decide +kernel⟩⟩,
    ⟨({ act with wb := { act.wb with partner := { act.wb.partner with hello := some { he0 with minPeer := 1 } } } }), ih0, false, _, _, _, _,
    ⟨rfl, rfl, rfl, rfl, by decide +kernel, by decide +kernel, by decide +kernel⟩⟩,
    ⟨act, ih0, true, _, _, _, _, ⟨rfl, rfl, rfl, rfl, by decide +kernel, by decide +kernel, by decide +kernel, by decide +kernel⟩⟩,
    ⟨({ act with prg := { act.prg with stage := 1 } }), ih0, false, _, _, _, _,
    ⟨rfl, rfl, rfl, rfl, by decide +kernel, by decide +kernel, by decide +kernel, by decide +kernel, by decide +kernel⟩⟩,
    ⟨act, ih0, false,
    ((ih0.full = false ∧ (act.sec.factoryBoot = true ∨ slotsIn act.nvs.slots .imago = [] ∨ ih0.baseDigest ≠ slotDigest act.nvs.slots .imago))),
    ((act.partnerFits ih0.version ih0.minPeer ih0.proto ih0.protoMin = false)), ((slotsIn act.nvs.slots .trial ≠ [] ∨ false = true)),
    ((act.prg.stage ≠ 0)), ?_⟩,
    ⟨act, (.tag 0), ?_⟩,
    ⟨({ act with hq := { act.hq with ops := [({ mkOp 8 0x31 [] with waitTime := true, late := true })] } }), (.tag 0),
    ({ mkOp 8 0x31 [] with waitTime := true, late := true }), (.updActivate (.tag 0)), by refine ⟨by decide +kernel, rfl, ?_⟩ <;> decide +kernel⟩,
    ⟨({ act with hq := { act.hq with ops := [(mkOp 8 0x31 [])] } }), (.tag 0), (mkOp 8 0x31 []), (.updActivate (.tag 0)), ?_⟩,
    ⟨({ act with hq := { act.hq with ops := [(mkOp 8 0x31 [])] }, sys := { act.sys with mode := .standby }, upd := { act.upd with ready := false } }),
    (.tag 0), (mkOp 8 0x31 []), (.updActivate (.tag 0)), ?_⟩,
    ⟨({ zm .service with upd := { z.upd with ready := true }, hq := { z.hq with ops := [{ mkOp 8 0x31 [(16, 8, 1)] with waitTime := true }] } }),
    (.tag 0), ({ mkOp 8 0x31 [(16, 8, 1)] with waitTime := true }), (.updActivate (.tag 0)),
    by refine ⟨by decide +kernel, rfl, .inl ?_, .inr ?_, ?_, ?_, ?_⟩ <;> decide +kernel⟩,
    ⟨({ zm .service with upd := { z.upd with ready := true }, hq := { z.hq with ops := [mkOp 8 0x31 []] } }), (.tag 0), (mkOp 8 0x31 []),
    (.updActivate (.tag 0)), _, _,
    ⟨by decide +kernel, .inl ⟨rfl, .inl (by decide +kernel), .inr (by decide +kernel), by decide +kernel, .inl (by decide +kernel)⟩, rfl, by decide +kernel, .inl (by decide +kernel), rfl⟩⟩,
    ⟨({ zm .service with upd := { z.upd with ready := false, scheduled := some (false, 0, .tag 0) }, hq := { z.hq with ops := [mkOp 8 0x31 []] } }),
    (.tag 0), (mkOp 8 0x31 []), .updActivateDue, _,
    ⟨by decide +kernel, .inr ⟨rfl, false, 0, by decide +kernel, by decide +kernel⟩, rfl, .inl (by decide +kernel)⟩⟩,
    ⟨({ act with upd := { act.upd with scheduled := none } }), ?_⟩,
    ⟨({ act with upd := { act.upd with scheduled := some (false, 1, .tag 0) } }), false, 1, (.tag 0), ?_⟩,
    ⟨({ act with upd := { act.upd with scheduled := some (false, 0, .tag 0) } }), false, 0, (.tag 0), ?_⟩,
    ⟨({ act with hq := { act.hq with ops := [(mkOp 8 0x33 [])] }, upd := { act.upd with ready := false } }), (.tag 0), (mkOp 8 0x33 []), ?_⟩,
    ⟨({ act with hq := { act.hq with ops := [(mkOp 8 0x33 [])] }, upd := { act.upd with ready := true } }), (.tag 0), (mkOp 8 0x33 []), ?_⟩,
    ⟨act, ?_⟩,
    ⟨({ act with upd := { act.upd with confirmFrom := some 0 }, tb := { act.tb with csr := 10 ^ 13 } }), _,
    ⟨(Option.some_get (by decide +kernel)).symm, by decide +kernel⟩⟩⟩ <;> and_intros <;>
    first | exact (Option.some_get _).symm | decide +kernel | rfl | exact ⟨1, by decide +kernel, by decide +kernel, by decide +kernel⟩ | exact ⟨1, by decide +kernel, by decide +kernel⟩ | exact ⟨0, by decide +kernel, by decide +kernel⟩ | (intros; first | rfl | contradiction | decide +kernel | simp)

/-- What `Obligations.BootRestartAndModesFollowTheirTables` assumes can be met, clause by clause. -/
theorem test_hyp_BootRestartAndModesFollowTheirTables :
    (∃ (s : State) (k : Nat), (k = 0 ∨ 8 < k)) ∧
    (∃ (s : State) (k : Nat), 1 ≤ k ∧ k ≤ 8) ∧
    (∃ (s : State) (k : Nat), s.sys.mode = .boot ∧ s.sys.bootStage < 3 ∧ s.sys.bootStop = false ∧ s.sys.stageAt + usTicks 10000000 ≤ s.tb.csr) ∧
    (∃ (s : State) (k : Nat), (s.sys.mode ≠ .boot ∨ 3 ≤ s.sys.bootStage ∨ s.sys.bootStop = true ∨ s.tb.csr < s.sys.stageAt + usTicks 10000000)) ∧
    (∃ (s : State) (o0 : Bool) (o1 : Bool) (o2 : Bool) (ok : Nat → Bool) (c : Instr), c = .bootStart o0 o1 o2 ∧
    ok = (fun i => if i = 0 then o0 else if i = 1 then o1 else o2) ∧ (s.sys.mode ≠ .boot ∨ s.sec.picked = true ∨ s.sys.bootStop = true)) ∧
    (∃ (s : State) (o0 : Bool) (o1 : Bool) (o2 : Bool) (ok : Nat → Bool) (c : Instr) (t : Nat), c = .bootStart o0 o1 o2 ∧
    ok = (fun i => if i = 0 then o0 else if i = 1 then o1 else o2) ∧ s.sys.mode = .boot ∧ s.sec.picked = false ∧ s.sys.bootStop = false ∧
    s.slotWith .trial = some t ∧ (s.boot t).attempted = false ∧ ok t = true ∧ s.sec.svnFloor ≤ (s.boot t).svn) ∧
    (∃ (s : State) (o0 : Bool) (o1 : Bool) (o2 : Bool) (ok : Nat → Bool) (c : Instr) (i : Nat), c = .bootStart o0 o1 o2 ∧
    ok = (fun i => if i = 0 then o0 else if i = 1 then o1 else o2) ∧ s.sys.mode = .boot ∧ s.sec.picked = false ∧ s.sys.bootStop = false ∧
    s.slotWith .trial = none ∧ s.slotWith .imago = some i ∧ ok i = true ∧ s.sec.svnFloor ≤ (s.boot i).svn) ∧
    (∃ (s : State) (o0 : Bool) (o1 : Bool) (o2 : Bool) (ok : Nat → Bool) (c : Instr) (i : Nat) (j : Nat), c = .bootStart o0 o1 o2 ∧
    ok = (fun i => if i = 0 then o0 else if i = 1 then o1 else o2) ∧ s.sys.mode = .boot ∧ s.sec.picked = false ∧ s.sys.bootStop = false ∧
    s.slotWith .trial = none ∧ s.slotWith .imago = some i ∧ (ok i = false ∨ (s.boot i).svn < s.sec.svnFloor) ∧ s.slotWith .chrysalis = some j ∧
    ok j = true ∧ s.sec.svnFloor ≤ (s.boot j).svn) ∧
    (∃ (s : State) (o0 : Bool) (o1 : Bool) (o2 : Bool) (ok : Nat → Bool) (c : Instr) (v : State), c = .bootStart o0 o1 o2 ∧
    ok = (fun i => if i = 0 then o0 else if i = 1 then o1 else o2) ∧ s.sys.mode = .boot ∧ s.sec.picked = false ∧ s.sys.bootStop = false ∧
    s.slotWith .trial = none ∧ s.slotWith .imago = none ∧ s.slotWith .chrysalis = none ∧ s.slotWith .factory = none ∧
    { s with sys := { s.sys with bootStop := true }, sec := { s.sec with bootFail := true } } = v ∧ s.pwr.ejectReq = false) ∧
    (∃ (s : State) (o0 : Bool) (o1 : Bool) (o2 : Bool) (ok : Nat → Bool) (c : Instr) (v : State), c = .bootStart o0 o1 o2 ∧
    ok = (fun i => if i = 0 then o0 else if i = 1 then o1 else o2) ∧ s.sys.mode = .boot ∧ s.sec.picked = false ∧ s.sys.bootStop = false ∧
    s.slotWith .trial = none ∧ s.slotWith .imago = none ∧ s.slotWith .chrysalis = none ∧ s.slotWith .factory = none ∧
    { s with sys := { s.sys with bootStop := true }, sec := { s.sec with bootFail := true } } = v ∧ s.pwr.ejectReq = true) ∧
    (∃ (s : State) (o0 : Bool) (o1 : Bool) (o2 : Bool) (ok : Nat → Bool) (c : Instr) (i : Nat), c = .bootStart o0 o1 o2 ∧
    ok = (fun i => if i = 0 then o0 else if i = 1 then o1 else o2) ∧ s.sys.mode = .boot ∧ s.sec.picked = false ∧ s.sys.bootStop = false ∧
    s.slotWith .trial = none ∧ s.slotWith .imago = none ∧ s.slotWith .chrysalis = none ∧ s.slotWith .factory = some i ∧ ok i = true ∧
    s.sec.svnFloor ≤ (s.boot i).svn) ∧
    (∃ (s : State) (o0 : Bool) (o1 : Bool) (o2 : Bool) (ok : Nat → Bool) (c : Instr) (t : Nat) (i : Nat), c = .bootStart o0 o1 o2 ∧
    ok = (fun i => if i = 0 then o0 else if i = 1 then o1 else o2) ∧ s.sys.mode = .boot ∧ s.sec.picked = false ∧ s.sys.bootStop = false ∧
    s.slotWith .trial = some t ∧ (s.boot t).attempted = true ∧ s.slotWith .imago = some i ∧ ok i = true ∧ s.sec.svnFloor ≤ (s.boot i).svn) ∧
    (∃ (s : State) (n : Nat) (d : List Byte) (x : Stage3) (l : List JEntry) (f : Bool) (k : List Nat) (c : Instr), c = .bootStageVerified n d x l f k ∧
    (s.sys.mode ≠ .boot ∨ s.sec.picked = false ∨ s.sys.bootStop = true ∨ n ≠ s.sys.bootStage + 1 ∨ 3 < n)) ∧
    (∃ (s : State) (n : Nat) (d : List Byte) (x : Stage3) (l : List JEntry) (f : Bool) (k : List Nat) (c : Instr) (v : State), c = .bootStageVerified n d x l f k ∧
    s.sys.mode = .boot ∧ s.sec.picked = true ∧ s.sys.bootStop = false ∧ n = s.sys.bootStage + 1 ∧ n ≤ 3 ∧
    v = { s with sys := { s.sys with bootStage := n, stageAt := s.tb.csr }, sec := { s.sec with meas := shake256 64 (s.sec.meas ++ d) } } ∧
    s.pwr.ejectReq = true) ∧
    (∃ (s : State) (n : Nat) (d : List Byte) (x : Stage3) (l : List JEntry) (f : Bool) (k : List Nat) (c : Instr) (v : State), c = .bootStageVerified n d x l f k ∧
    s.sys.mode = .boot ∧ s.sec.picked = true ∧ s.sys.bootStop = false ∧ n = s.sys.bootStage + 1 ∧ n ≤ 3 ∧
    v = { s with sys := { s.sys with bootStage := n, stageAt := s.tb.csr }, sec := { s.sec with meas := shake256 64 (s.sec.meas ++ d) } } ∧
    s.pwr.ejectReq = false ∧ n = 1) ∧
    (∃ (s : State) (n : Nat) (d : List Byte) (x : Stage3) (l : List JEntry) (f : Bool) (k : List Nat) (c : Instr) (v : State), c = .bootStageVerified n d x l f k ∧
    s.sys.mode = .boot ∧ s.sec.picked = true ∧ s.sys.bootStop = false ∧ n = s.sys.bootStage + 1 ∧ n ≤ 3 ∧
    v = { s with sys := { s.sys with bootStage := n, stageAt := s.tb.csr }, sec := { s.sec with meas := shake256 64 (s.sec.meas ++ d) } } ∧
    s.pwr.ejectReq = false ∧ n = 2) ∧
    (∃ (s : State) (n : Nat) (d : List Byte) (x : Stage3) (l : List JEntry) (f : Bool) (k : List Nat) (c : Instr) (v : State), c = .bootStageVerified n d x l f k ∧
    s.sys.mode = .boot ∧ s.sec.picked = true ∧ s.sys.bootStop = false ∧ n = s.sys.bootStage + 1 ∧ n ≤ 3 ∧
    v = { s with sys := { s.sys with bootStage := n, stageAt := s.tb.csr }, sec := { s.sec with meas := shake256 64 (s.sec.meas ++ d) } } ∧
    s.pwr.ejectReq = false ∧ n = 3 ∧ x = .none) ∧
    (∃ (s : State) (n : Nat) (d : List Byte) (x : Stage3) (l : List JEntry) (f : Bool) (k : List Nat) (c : Instr) (v : State), c = .bootStageVerified n d x l f k ∧
    s.sys.mode = .boot ∧ s.sec.picked = true ∧ s.sys.bootStop = false ∧ n = s.sys.bootStage + 1 ∧ n ≤ 3 ∧
    v = { s with sys := { s.sys with bootStage := n, stageAt := s.tb.csr }, sec := { s.sec with meas := shake256 64 (s.sec.meas ++ d) } } ∧
    s.pwr.ejectReq = false ∧ n = 3 ∧ x = .bad) ∧
    (∃ (s : State) (n : Nat) (d : List Byte) (x : Stage3) (l : List JEntry) (f : Bool) (k : List Nat) (c : Instr) (v : State) (g : Cfg) (p : Option ProgImage) (z : Option ProtSet) (e : List Byte), c = .bootStageVerified n d x l f k ∧
    s.sys.mode = .boot ∧ s.sec.picked = true ∧ s.sys.bootStop = false ∧ n = s.sys.bootStage + 1 ∧ n ≤ 3 ∧
    v = { s with sys := { s.sys with bootStage := n, stageAt := s.tb.csr }, sec := { s.sec with meas := shake256 64 (s.sec.meas ++ d) } } ∧
    s.pwr.ejectReq = false ∧ n = 3 ∧ x = .ok g p z e) ∧
    (∃ (s : State) (l : List JEntry) (f : Bool), f = false) ∧
    (∃ (s : State) (q : Requester) (v : Word) (c : Instr) (t : State), c ∈ [Instr.sysRestart q v, .sysEnterService q v, .safeHoldExitWarm q v, .safeHoldExitCold q v, .plantStartColdSet q v, .plantStartColdClear q v, .configStop q v] ∧
    s.writeBarred q (RegName.sysCtrl.addr 0 0) = some t) ∧
    (∃ (s : State) (q : Requester) (v : Word) (c : Instr) (k : Nat), c ∈ [Instr.sysRestart q v, .sysEnterService q v, .safeHoldExitWarm q v, .safeHoldExitCold q v, .plantStartColdSet q v, .plantStartColdClear q v, .configStop q v] ∧
    s.writeBarred q (RegName.sysCtrl.addr 0 0) = none ∧ k = bitsOf v.toNat 0 4 ∧
    (bitsOf v.toNat 16 16 ≠ 0xA5C3 ∨ k = 0 ∨ 7 < k ∨ (k = 1 ∧ s.sys.mode ≠ .quarantine ∧ s.sys.mode ≠ .service ∧ s.sys.mode ≠ .sync ∧ s.sys.mode ≠ .standby) ∨ (k = 2 ∧ s.sys.mode ≠ .standby) ∨ ((k = 3 ∨ k = 4) ∧ (s.sys.mode ≠ .safeHold ∨ s.safeCauseHolds = true)) ∨ (k = 7 ∧ s.mayStop = false))) ∧
    (∃ (s : State) (q : Requester) (v : Word) (c : Instr) (k : Nat), c ∈ [Instr.sysRestart q v, .sysEnterService q v, .safeHoldExitWarm q v, .safeHoldExitCold q v, .plantStartColdSet q v, .plantStartColdClear q v, .configStop q v] ∧
    s.writeBarred q (RegName.sysCtrl.addr 0 0) = none ∧ k = bitsOf v.toNat 0 4 ∧ bitsOf v.toNat 16 16 = 0xA5C3 ∧ k = 1 ∧
    (s.sys.mode = .quarantine ∨ s.sys.mode = .service ∨ s.sys.mode = .sync ∨ s.sys.mode = .standby)) ∧
    (∃ (s : State) (q : Requester) (v : Word) (c : Instr) (k : Nat), c ∈ [Instr.sysRestart q v, .sysEnterService q v, .safeHoldExitWarm q v, .safeHoldExitCold q v, .plantStartColdSet q v, .plantStartColdClear q v, .configStop q v] ∧
    s.writeBarred q (RegName.sysCtrl.addr 0 0) = none ∧ k = bitsOf v.toNat 0 4 ∧ bitsOf v.toNat 16 16 = 0xA5C3 ∧ k = 2 ∧ s.sys.mode = .standby) ∧
    (∃ (s : State) (q : Requester) (v : Word) (c : Instr) (k : Nat), c ∈ [Instr.sysRestart q v, .sysEnterService q v, .safeHoldExitWarm q v, .safeHoldExitCold q v, .plantStartColdSet q v, .plantStartColdClear q v, .configStop q v] ∧
    s.writeBarred q (RegName.sysCtrl.addr 0 0) = none ∧ k = bitsOf v.toNat 0 4 ∧ bitsOf v.toNat 16 16 = 0xA5C3 ∧ (k = 5 ∨ k = 6)) ∧
    (∃ (s : State) (q : Requester) (v : Word) (c : Instr) (k : Nat), c ∈ [Instr.sysRestart q v, .sysEnterService q v, .safeHoldExitWarm q v, .safeHoldExitCold q v, .plantStartColdSet q v, .plantStartColdClear q v, .configStop q v] ∧
    s.writeBarred q (RegName.sysCtrl.addr 0 0) = none ∧ k = bitsOf v.toNat 0 4 ∧ bitsOf v.toNat 16 16 = 0xA5C3 ∧ k = 7 ∧ s.mayStop = true ∧
    s.prg.runState = 1) ∧
    (∃ (s : State) (q : Requester) (v : Word) (c : Instr) (k : Nat), c ∈ [Instr.sysRestart q v, .sysEnterService q v, .safeHoldExitWarm q v, .safeHoldExitCold q v, .plantStartColdSet q v, .plantStartColdClear q v, .configStop q v] ∧
    s.writeBarred q (RegName.sysCtrl.addr 0 0) = none ∧ k = bitsOf v.toNat 0 4 ∧ bitsOf v.toNat 16 16 = 0xA5C3 ∧ k = 7 ∧ s.mayStop = true ∧
    s.prg.runState ≠ 1) ∧
    (∃ (s : State) (c : Instr) (y : SysSt) (v : State), ((∃ q v, s.writeBarred q (RegName.sysCtrl.addr 0 0) = none ∧ bitsOf v.toNat 16 16 = 0xA5C3 ∧ s.sys.mode = .safeHold ∧ s.safeCauseHolds = false ∧ ((c = .safeHoldExitWarm q v ∧ bitsOf v.toNat 0 4 = 3 ∧ y = { s.sys with exitKind := some false }) ∨ (c = .safeHoldExitCold q v ∧ bitsOf v.toNat 0 4 = 4 ∧ y = { s.sys with exitKind := some true }))) ∨ (c = .peerWaitExpiry ∧ s.sys.mode = .boot ∧ 3 ≤ s.sys.bootStage ∧ s.sys.bootStop = false ∧ s.wb.partner.heard = false ∧ s.sys.starting = false ∧ s.sys.stageAt + usTicks (s.fld .sysStart 16 10 * 1000000) ≤ s.tb.csr ∧ y = { s.sys with starting := true, starter := true }) ∨ (s.sys.mode = .cocoon ∧ s.sys.cocoonWoke = true ∧ y = { s.sys with starting := true } ∧ ((c = .cocoonResume true ∧ s.sys.formerHolder = true) ∨ (c = .cocoonRequestTimeout ∧ s.sys.formerHolder = false ∧ s.partnerHolds = false ∧ s.sys.cocoonAt + usTicks 2000000 ≤ s.tb.csr)))) ∧
    v = { s with sys := y, wb := { s.wb with fenced := !s.wb.wdAlive } } ∧ (s.wb.probed = false ∨ s.promised = true)) ∧
    (∃ (s : State) (c : Instr) (y : SysSt) (v : State), ((∃ q v, s.writeBarred q (RegName.sysCtrl.addr 0 0) = none ∧ bitsOf v.toNat 16 16 = 0xA5C3 ∧ s.sys.mode = .safeHold ∧ s.safeCauseHolds = false ∧ ((c = .safeHoldExitWarm q v ∧ bitsOf v.toNat 0 4 = 3 ∧ y = { s.sys with exitKind := some false }) ∨ (c = .safeHoldExitCold q v ∧ bitsOf v.toNat 0 4 = 4 ∧ y = { s.sys with exitKind := some true }))) ∨ (c = .peerWaitExpiry ∧ s.sys.mode = .boot ∧ 3 ≤ s.sys.bootStage ∧ s.sys.bootStop = false ∧ s.wb.partner.heard = false ∧ s.sys.starting = false ∧ s.sys.stageAt + usTicks (s.fld .sysStart 16 10 * 1000000) ≤ s.tb.csr ∧ y = { s.sys with starting := true, starter := true }) ∨ (s.sys.mode = .cocoon ∧ s.sys.cocoonWoke = true ∧ y = { s.sys with starting := true } ∧ ((c = .cocoonResume true ∧ s.sys.formerHolder = true) ∨ (c = .cocoonRequestTimeout ∧ s.sys.formerHolder = false ∧ s.partnerHolds = false ∧ s.sys.cocoonAt + usTicks 2000000 ≤ s.tb.csr)))) ∧
    v = { s with sys := y, wb := { s.wb with fenced := !s.wb.wdAlive } } ∧ s.wb.probed = true ∧ s.promised = false) ∧
    (∃ (s : State), (s.sys.mode ≠ .boot ∨ s.sys.bootStage < 3 ∨ s.sys.bootStop = true ∨ s.wb.partner.heard = true ∨ s.sys.starting = true ∨ s.tb.csr < s.sys.stageAt + usTicks (s.fld .sysStart 16 10 * 1000000))) ∧
    (∃ (s : State), (s.sys.mode ≠ .cocoon ∨ s.sys.cocoonWoke = false ∨ s.sys.formerHolder = true ∨ s.partnerHolds = true ∨ s.tb.csr < s.sys.cocoonAt + usTicks 2000000)) ∧
    (∃ (s : State) (b : Bool), (s.sys.mode ≠ .cocoon ∨ s.sys.cocoonWoke = false ∨ (b = true ∧ s.sys.formerHolder = false))) ∧
    (∃ (s : State), s.sys.mode = .cocoon ∧ s.sys.cocoonWoke = true) ∧
    (∃ (s : State), s.tb.csr < s.sys.faultAt + usTicks 600000000) ∧
    (∃ (s : State), s.sys.faultAt + usTicks 600000000 ≤ s.tb.csr) ∧
    (∃ (s : State) (x : Int), x ≤ 700) ∧
    (∃ (s : State) (x : Int), 700 < x) ∧
    (∃ (s : State) (w : WorkRef) (op : Op), s.due w 0x40 op ∧ (op.started = true ∨ (s.sys.mode ≠ .active ∧ s.sys.mode ≠ .solo))) ∧
    (∃ (s : State) (w : WorkRef) (op : Op) (r : Nat), s.due w 0x40 op ∧ op.started = false ∧ (s.sys.mode = .active ∨ s.sys.mode = .solo) ∧
    s.cocoonRefusal = some r) ∧
    (∃ (s : State) (w : WorkRef) (op : Op) (u : State), s.due w 0x40 op ∧ op.started = false ∧ (s.sys.mode = .active ∨ s.sys.mode = .solo) ∧
    s.cocoonRefusal = none ∧
    u = { (s.setOp w fun (o : Op) => { o with started := true }) with sys := { s.sys with cocoonEntering := true, cocoonReq := false, cocoonAt := s.tb.csr } } ∧
    s.est.running = false ∧ s.slk.rings = []) ∧
    (∃ (s : State) (w : WorkRef) (op : Op) (u : State), s.due w 0x40 op ∧ op.started = false ∧ (s.sys.mode = .active ∨ s.sys.mode = .solo) ∧
    s.cocoonRefusal = none ∧
    u = { (s.setOp w fun (o : Op) => { o with started := true }) with sys := { s.sys with cocoonEntering := true, cocoonReq := false, cocoonAt := s.tb.csr } }) ∧
    (∃ (s : State) (x2 : Prop) (x3 : Prop) (x4 : Prop) (x5 : Prop), x2 = (s.prot.set = none) ∧
    x3 = (s.prg.stage ≠ 0 ∨ s.upd.work.isSome = true ∨ s.upd.scheduled.isSome = true ∨ s.upd.trial = true ∨ s.wb.drill ≠ .idle) ∧
    (x4 = (∃ e, e ∈ s.est.lastQ ∧ flt (fratio (Int.ofNat (s.fld .estRest 0 16)) 10) (fabs e.2) = true)) ∧
    x5 = (s.partnerMode = some .sync ∨ s.partnerMode = some .update) ∧ s.cfg.manager = true) ∧
    (∃ (s : State) (x2 : Prop) (x3 : Prop) (x4 : Prop) (x5 : Prop), x2 = (s.prot.set = none) ∧
    x3 = (s.prg.stage ≠ 0 ∨ s.upd.work.isSome = true ∨ s.upd.scheduled.isSome = true ∨ s.upd.trial = true ∨ s.wb.drill ≠ .idle) ∧
    (x4 = (∃ e, e ∈ s.est.lastQ ∧ flt (fratio (Int.ofNat (s.fld .estRest 0 16)) 10) (fabs e.2) = true)) ∧
    x5 = (s.partnerMode = some .sync ∨ s.partnerMode = some .update) ∧ s.cfg.manager = false ∧ x2) ∧
    (∃ (s : State) (x2 : Prop) (x3 : Prop) (x4 : Prop) (x5 : Prop), x2 = (s.prot.set = none) ∧
    x3 = (s.prg.stage ≠ 0 ∨ s.upd.work.isSome = true ∨ s.upd.scheduled.isSome = true ∨ s.upd.trial = true ∨ s.wb.drill ≠ .idle) ∧
    (x4 = (∃ e, e ∈ s.est.lastQ ∧ flt (fratio (Int.ofNat (s.fld .estRest 0 16)) 10) (fabs e.2) = true)) ∧
    x5 = (s.partnerMode = some .sync ∨ s.partnerMode = some .update) ∧ s.cfg.manager = false ∧ ¬ x2 ∧ x3) ∧
    (∃ (s : State) (x2 : Prop) (x3 : Prop) (x4 : Prop) (x5 : Prop), x2 = (s.prot.set = none) ∧
    x3 = (s.prg.stage ≠ 0 ∨ s.upd.work.isSome = true ∨ s.upd.scheduled.isSome = true ∨ s.upd.trial = true ∨ s.wb.drill ≠ .idle) ∧
    (x4 = (∃ e, e ∈ s.est.lastQ ∧ flt (fratio (Int.ofNat (s.fld .estRest 0 16)) 10) (fabs e.2) = true)) ∧
    x5 = (s.partnerMode = some .sync ∨ s.partnerMode = some .update) ∧ s.cfg.manager = false ∧ ¬ x2 ∧ ¬ x3 ∧ x4) ∧
    (∃ (s : State) (x2 : Prop) (x3 : Prop) (x4 : Prop) (x5 : Prop), x2 = (s.prot.set = none) ∧
    x3 = (s.prg.stage ≠ 0 ∨ s.upd.work.isSome = true ∨ s.upd.scheduled.isSome = true ∨ s.upd.trial = true ∨ s.wb.drill ≠ .idle) ∧
    (x4 = (∃ e, e ∈ s.est.lastQ ∧ flt (fratio (Int.ofNat (s.fld .estRest 0 16)) 10) (fabs e.2) = true)) ∧
    x5 = (s.partnerMode = some .sync ∨ s.partnerMode = some .update) ∧ s.cfg.manager = false ∧ ¬ x2 ∧ ¬ x3 ∧ ¬ x4 ∧ x5) ∧
    (∃ (s : State) (x2 : Prop) (x3 : Prop) (x4 : Prop) (x5 : Prop), x2 = (s.prot.set = none) ∧
    x3 = (s.prg.stage ≠ 0 ∨ s.upd.work.isSome = true ∨ s.upd.scheduled.isSome = true ∨ s.upd.trial = true ∨ s.wb.drill ≠ .idle) ∧
    (x4 = (∃ e, e ∈ s.est.lastQ ∧ flt (fratio (Int.ofNat (s.fld .estRest 0 16)) 10) (fabs e.2) = true)) ∧
    x5 = (s.partnerMode = some .sync ∨ s.partnerMode = some .update) ∧ s.cfg.manager = false ∧ ¬ x2 ∧ ¬ x3 ∧ ¬ x4 ∧ ¬ x5) ∧
    (∃ (s : State), (s.sys.cocoonEntering = false ∨ s.sys.cocoonReq = true ∨ s.holds = false ∨ s.tb.csr < s.sys.cocoonAt + usTicks 60000000)) ∧
    (∃ (s : State), s.sys.cocoonEntering = true ∧ s.sys.cocoonAt + usTicks 60000000 ≤ s.tb.csr) ∧
    (∃ (s : State) (u : State) (v : State), s.sys.cocoonEntering = true ∧ s.sys.cocoonReq = false ∧ s.holds = true ∧
    u = (match s.hq.work.find? (fun (o : Op) => o.engine == 10 && dOpcode o.bytes == 0x40 && o.started) with | some op => s.finish op stOk 0 | none => s) ∧
    v = (State.checkpoint { u with sys := { u.sys with cocoonReq := true } }).flushLog ∧ v.partnerStandby = true) ∧
    (∃ (s : State) (u : State) (v : State), s.sys.cocoonEntering = true ∧ s.sys.cocoonReq = false ∧ s.holds = true ∧
    u = (match s.hq.work.find? (fun (o : Op) => o.engine == 10 && dOpcode o.bytes == 0x40 && o.started) with | some op => s.finish op stOk 0 | none => s) ∧
    v = (State.checkpoint { u with sys := { u.sys with cocoonReq := true } }).flushLog ∧ v.partnerStandby = false) := by
  refine ⟨⟨act, 9, ?_⟩,
    ⟨act, 1, ?_⟩,
    ⟨({ bt 2 with tb := { z.tb with csr := 10 ^ 12 } }), 0, ?_⟩,
    ⟨act, 0, ?_⟩,
    ⟨({ bt 0 with sec := { z.sec with picked := true } }), true, true, true, _, (.bootStart true true true),
    ⟨rfl, rfl, .inr (.inl (by decide +kernel))⟩⟩,
    ⟨({ bt 0 with nvs := { z.nvs with slots := [{ state := .trial }, { state := .empty }, { state := .factory }] } }), true, true, true, _,
    (.bootStart true true true), 0,
    ⟨rfl, rfl, by decide +kernel, by decide +kernel, by decide +kernel, by decide +kernel, by decide +kernel, by decide +kernel, by decide +kernel⟩⟩,
    ⟨({ bt 0 with nvs := { z.nvs with slots := [{ state := .imago }, { state := .empty }, { state := .factory }] } }), true, true, true, _,
    (.bootStart true true true), 0,
    ⟨rfl, rfl, by decide +kernel, by decide +kernel, by decide +kernel, by decide +kernel, by decide +kernel, by decide +kernel, by decide +kernel⟩⟩,
    ⟨({ bt 0 with nvs := { z.nvs with slots := [{ state := .imago }, { state := .chrysalis, svn := 1 }, { state := .factory }] }, sec := { z.sec with svnFloor := 1 } }),
    true, true, true, _, (.bootStart true true true), 0, 1,
    ⟨rfl, rfl, by decide +kernel, by decide +kernel, by decide +kernel, by decide +kernel, by decide +kernel, .inr (by decide +kernel), by decide +kernel, by decide +kernel, by decide +kernel⟩⟩,
    ⟨({ bt 0 with nvs := { z.nvs with slots := [{ state := .empty }, { state := .empty }, { state := .empty }] } }), true, true, true, _,
    (.bootStart true true true), _,
    ⟨rfl, rfl, by decide +kernel, by decide +kernel, by decide +kernel, by decide +kernel, by decide +kernel, by decide +kernel, by decide +kernel, rfl, by decide +kernel⟩⟩,
    ⟨({ bt 0 with nvs := { z.nvs with slots := [{ state := .empty }, { state := .empty }, { state := .empty }] }, pwr := { z.pwr with ejectReq := true } }),
    true, true, true, _, (.bootStart true true true), _,
    ⟨rfl, rfl, by decide +kernel, by decide +kernel, by decide +kernel, by decide +kernel, by decide +kernel, by decide +kernel, by decide +kernel, rfl, by decide +kernel⟩⟩,
    ⟨({ bt 0 with nvs := { z.nvs with slots := [{ state := .empty }, { state := .empty }, { state := .factory }] } }), true, true, true, _,
    (.bootStart true true true), 2,
    ⟨rfl, rfl, by decide +kernel, by decide +kernel, by decide +kernel, by decide +kernel, by decide +kernel, by decide +kernel, by decide +kernel, by decide +kernel, by decide +kernel⟩⟩,
    ⟨({ bt 0 with nvs := { z.nvs with slots := [{ state := .trial, attempted := true }, { state := .imago }, { state := .factory }] } }), true, true,
    true, _, (.bootStart true true true), 0, 1,
    ⟨rfl, rfl, by decide +kernel, by decide +kernel, by decide +kernel, by decide +kernel, by decide +kernel, by decide +kernel, by decide +kernel, by decide +kernel⟩⟩,
    ⟨(bt 0), 2, [], .none, [], false, [], (.bootStageVerified 2 [] .none [] false []), ⟨rfl, .inr (.inr (.inr (.inl (by decide +kernel))))⟩⟩,
    ⟨({ bt 2 with sec := { z.sec with picked := true }, pwr := { z.pwr with ejectReq := true } }), 3, [], .none, [], false, [],
    (.bootStageVerified 3 [] .none [] false []), _,
    ⟨rfl, by decide +kernel, by decide +kernel, by decide +kernel, by decide +kernel, by decide +kernel, rfl, by decide +kernel⟩⟩,
    ⟨({ bt 0 with sec := { z.sec with picked := true } }), 1, [], .none, [], false, [], (.bootStageVerified 1 [] .none [] false []), _,
    ⟨rfl, by decide +kernel, by decide +kernel, by decide +kernel, by decide +kernel, by decide +kernel, rfl, by decide +kernel, by decide +kernel⟩⟩,
    ⟨({ bt 1 with sec := { z.sec with picked := true } }), 2, [], .none, [], false, [], (.bootStageVerified 2 [] .none [] false []), _,
    ⟨rfl, by decide +kernel, by decide +kernel, by decide +kernel, by decide +kernel, by decide +kernel, rfl, by decide +kernel, by decide +kernel⟩⟩,
    ⟨({ bt 2 with sec := { z.sec with picked := true } }), 3, [], .none, [], false, [], (.bootStageVerified 3 [] .none [] false []), _,
    ⟨rfl, by decide +kernel, by decide +kernel, by decide +kernel, by decide +kernel, by decide +kernel, rfl, by decide +kernel, by decide +kernel, rfl⟩⟩,
    ⟨({ bt 2 with sec := { z.sec with picked := true } }), 3, [], .bad, [], false, [], (.bootStageVerified 3 [] .bad [] false []), _,
    ⟨rfl, by decide +kernel, by decide +kernel, by decide +kernel, by decide +kernel, by decide +kernel, rfl, by decide +kernel, by decide +kernel, rfl⟩⟩,
    ⟨({ bt 2 with sec := { State.reset.sec with picked := true } }), 3, [], (.ok State.reset.cfg none none []), [], false, [],
    (.bootStageVerified 3 [] (.ok State.reset.cfg none none []) [] false []), _, _, _, _, _,
    ⟨rfl, by decide +kernel, by decide +kernel, by decide +kernel, by decide +kernel, by decide +kernel, rfl, by decide +kernel, by decide +kernel, rfl⟩⟩,
    ⟨act, ([] : List JEntry), (false), ?_⟩,
    ⟨act, .debug, 0, (.sysRestart .debug 0), _, ⟨by decide +kernel, (Option.some_get (by decide +kernel)).symm⟩⟩,
    ⟨act, c0, 0xA5C30001, (.sysRestart c0 0xA5C30001), 1,
    ⟨by decide +kernel, by decide +kernel, by decide +kernel, .inr (.inr (.inr (.inl (by decide +kernel))))⟩⟩,
    ⟨(zm .standby), c0, 0xA5C30001, (.sysRestart c0 0xA5C30001), 1,
    ⟨by decide +kernel, by decide +kernel, by decide +kernel, by decide +kernel, by decide +kernel, .inr (.inr (.inr (by decide +kernel)))⟩⟩,
    ⟨(zm .standby), c0, 0xA5C30002, (.sysRestart c0 0xA5C30002), 2, ?_⟩,
    ⟨act, c0, 0xA5C30005, (.sysRestart c0 0xA5C30005), 5,
    ⟨by decide +kernel, by decide +kernel, by decide +kernel, by decide +kernel, .inl (by decide +kernel)⟩⟩,
    ⟨({ zm .safeHold with prg := { z.prg with runState := 1 }, wb := { z.wb with partner := { z.wb.partner with heard := true, hb := { hb0 with mode := .service } } } }),
    c0, 0xA5C30007, (.sysRestart c0 0xA5C30007), 7, ?_⟩,
    ⟨({ zm .safeHold with wb := { z.wb with partner := { z.wb.partner with heard := true, hb := { hb0 with mode := .service } } } }), c0, 0xA5C30007,
    (.sysRestart c0 0xA5C30007), 7, ?_⟩,
    ⟨({ bt 3 with tb := { z.tb with csr := 10 ^ 13 } }), .peerWaitExpiry, _, _,
    ⟨.inr (.inl ⟨rfl, by decide +kernel, by decide +kernel, by decide +kernel, by decide +kernel, by decide +kernel, by decide +kernel, rfl⟩), rfl, .inl (by decide +kernel)⟩⟩,
    ⟨({ zm .safeHold with wb := { z.wb with probed := true } }), (.safeHoldExitWarm c0 0xA5C30003), _, _,
    ⟨.inl ⟨c0, 0xA5C30003, by decide +kernel, by decide +kernel, by decide +kernel, by decide +kernel, .inl ⟨rfl, by decide +kernel, rfl⟩⟩, rfl, by decide +kernel, by decide +kernel⟩⟩,
    ⟨act, ?_⟩,
    ⟨act, ?_⟩,
    ⟨({ zm .cocoon with sys := { (zm .cocoon).sys with cocoonWoke := true } }), true, .inr (.inr (by decide +kernel))⟩,
    ⟨({ act with sys := { act.sys with mode := .cocoon, cocoonWoke := true } }), ?_⟩,
    ⟨z, ?_⟩,
    ⟨({ z with tb := { z.tb with csr := 10 ^ 12 } }), ?_⟩,
    ⟨act, 700, ?_⟩,
    ⟨act, 701, ?_⟩,
    ⟨({ act with hq := { act.hq with work := [({ mkOp 10 0x40 [] with started := true, jsn := some 1 })] }, wb := { act.wb with lease := .held, covered := 1 } }),
    (.jsn 1), ({ mkOp 10 0x40 [] with started := true, jsn := some 1 }), ?_⟩,
    ⟨({ act with hq := { act.hq with work := [({ mkOp 10 0x40 [] with started := false, jsn := some 1 })] }, wb := { act.wb with lease := .held, covered := 1 }, sys := { act.sys with mode := .active } }),
    (.jsn 1), ({ mkOp 10 0x40 [] with started := false, jsn := some 1 }), 2, ?_⟩,
    ⟨({ act with hq := { act.hq with work := [({ mkOp 10 0x40 [] with started := false, jsn := some 1 })] }, wb := { act.wb with lease := .held, covered := 1 }, sys := { act.sys with mode := .active }, est := { act.est with running := false }, slk := { act.slk with rings := [] }, prot := { act.prot with set := some ps0 } }),
    (.jsn 1), ({ mkOp 10 0x40 [] with started := false, jsn := some 1 }),
    ({ (({ act with hq := { act.hq with work := [({ mkOp 10 0x40 [] with started := false, jsn := some 1 })] }, wb := { act.wb with lease := .held, covered := 1 }, sys := { act.sys with mode := .active }, est := { act.est with running := false }, slk := { act.slk with rings := [] }, prot := { act.prot with set := some ps0 } }).setOp (.jsn 1) fun (o : Op) => { o with started := true }) with sys := { ({ act with hq := { act.hq with work := [({ mkOp 10 0x40 [] with started := false, jsn := some 1 })] }, wb := { act.wb with lease := .held, covered := 1 }, sys := { act.sys with mode := .active }, est := { act.est with running := false }, slk := { act.slk with rings := [] }, prot := { act.prot with set := some ps0 } }).sys with cocoonEntering := true, cocoonReq := false, cocoonAt := ({ act with hq := { act.hq with work := [({ mkOp 10 0x40 [] with started := false, jsn := some 1 })] }, wb := { act.wb with lease := .held, covered := 1 }, sys := { act.sys with mode := .active }, est := { act.est with running := false }, slk := { act.slk with rings := [] }, prot := { act.prot with set := some ps0 } }).tb.csr } }),
    ?_⟩,
    ⟨({ act with hq := { act.hq with work := [({ mkOp 10 0x40 [] with started := false, jsn := some 1 })] }, wb := { act.wb with lease := .held, covered := 1 }, sys := { act.sys with mode := .active }, prot := { act.prot with set := some ps0 } }),
    (.jsn 1), ({ mkOp 10 0x40 [] with started := false, jsn := some 1 }),
    ({ (({ act with hq := { act.hq with work := [({ mkOp 10 0x40 [] with started := false, jsn := some 1 })] }, wb := { act.wb with lease := .held, covered := 1 }, sys := { act.sys with mode := .active }, prot := { act.prot with set := some ps0 } }).setOp (.jsn 1) fun (o : Op) => { o with started := true }) with sys := { ({ act with hq := { act.hq with work := [({ mkOp 10 0x40 [] with started := false, jsn := some 1 })] }, wb := { act.wb with lease := .held, covered := 1 }, sys := { act.sys with mode := .active }, prot := { act.prot with set := some ps0 } }).sys with cocoonEntering := true, cocoonReq := false, cocoonAt := ({ act with hq := { act.hq with work := [({ mkOp 10 0x40 [] with started := false, jsn := some 1 })] }, wb := { act.wb with lease := .held, covered := 1 }, sys := { act.sys with mode := .active }, prot := { act.prot with set := some ps0 } }).tb.csr } }),
    ?_⟩,
    ⟨({ act with cfg := { z.cfg with manager := true } }), _, _, _, _, ⟨rfl, rfl, rfl, rfl, by decide +kernel⟩⟩,
    ⟨act, _, _, _, _, ⟨rfl, rfl, rfl, rfl, by decide +kernel, by decide +kernel⟩⟩,
    ⟨({ act with prot := { z.prot with set := some ps0 }, prg := { z.prg with stage := 1 } }), _, _, _, _,
    ⟨rfl, rfl, rfl, rfl, by decide +kernel, by decide +kernel, by decide +kernel⟩⟩,
    ⟨({ act with prot := { z.prot with set := some ps0 }, est := { z.est with lastQ := [(0, 0xC7000000)] } }), _, _, _, _,
    ⟨rfl, rfl, rfl, rfl, by decide +kernel, by decide +kernel, by decide +kernel, by decide +kernel⟩⟩,
    ⟨({ act with prot := { z.prot with set := some ps0 }, wb := { act.wb with partner := { act.wb.partner with heard := true, hb := { hb0 with mode := .sync } } } }),
    _, _, _, _, ⟨rfl, rfl, rfl, rfl, by decide +kernel, by decide +kernel, by decide +kernel, by decide +kernel, by decide +kernel⟩⟩,
    ⟨({ act with prot := { z.prot with set := some ps0 } }), _, _, _, _,
    ⟨rfl, rfl, rfl, rfl, by decide +kernel, by decide +kernel, by decide +kernel, by decide +kernel, by decide +kernel⟩⟩,
    ⟨({ act with sys := { act.sys with cocoonEntering := false } }), ?_⟩,
    ⟨({ act with sys := { act.sys with cocoonEntering := true }, tb := { act.tb with csr := 10 ^ 12 } }), ?_⟩,
    ⟨({ act with sys := { act.sys with cocoonEntering := true }, wb := { act.wb with partner := { act.wb.partner with heard := true, hb := { hb0 with mode := .standby } } } }),
    _, _, ⟨by decide +kernel, by decide +kernel, by decide +kernel, rfl, rfl, by decide +kernel⟩⟩,
    ⟨({ act with sys := { act.sys with cocoonEntering := true, cocoonReq := false }, wb := { act.wb with lease := .held } }),
    ((match ({ act with sys := { act.sys with cocoonEntering := true, cocoonReq := false }, wb := { act.wb with lease := .held } }).hq.work.find? (fun (o : Op) => o.engine == 10 && dOpcode o.bytes == 0x40 && o.started) with | some op => ({ act with sys := { act.sys with cocoonEntering := true, cocoonReq := false }, wb := { act.wb with lease := .held } }).finish op stOk 0 | none => ({ act with sys := { act.sys with cocoonEntering := true, cocoonReq := false }, wb := { act.wb with lease := .held } }))),
    ((State.checkpoint { ((match ({ act with sys := { act.sys with cocoonEntering := true, cocoonReq := false }, wb := { act.wb with lease := .held } }).hq.work.find? (fun (o : Op) => o.engine == 10 && dOpcode o.bytes == 0x40 && o.started) with | some op => ({ act with sys := { act.sys with cocoonEntering := true, cocoonReq := false }, wb := { act.wb with lease := .held } }).finish op stOk 0 | none => ({ act with sys := { act.sys with cocoonEntering := true, cocoonReq := false }, wb := { act.wb with lease := .held } }))) with sys := { ((match ({ act with sys := { act.sys with cocoonEntering := true, cocoonReq := false }, wb := { act.wb with lease := .held } }).hq.work.find? (fun (o : Op) => o.engine == 10 && dOpcode o.bytes == 0x40 && o.started) with | some op => ({ act with sys := { act.sys with cocoonEntering := true, cocoonReq := false }, wb := { act.wb with lease := .held } }).finish op stOk 0 | none => ({ act with sys := { act.sys with cocoonEntering := true, cocoonReq := false }, wb := { act.wb with lease := .held } }))).sys with cocoonReq := true } }).flushLog),
    ?_⟩⟩ <;> and_intros <;>
    first | exact (Option.some_get _).symm | decide +kernel | rfl | exact ⟨1, by decide +kernel, by decide +kernel, by decide +kernel⟩ | exact ⟨1, by decide +kernel, by decide +kernel⟩ | exact ⟨0, by decide +kernel, by decide +kernel⟩ | (intros; first | rfl | contradiction | decide +kernel | simp)

/-! The checks of `Instr.wf`: each refuses a command that names nothing that exists, and takes its neighbour that does. -/

theorem test_wf_requester : (Instr.angNowRead (.core 4 false .machine)).wf = false ∧ (Instr.angNowRead (.engine 11)).wf = false ∧
    (Instr.angNowRead (.core 3 true .user)).wf = true := by decide
theorem test_wf_register_address : (Instr.registerWrite c0 0x41000000 0).wf = false ∧ (Instr.registerWrite c0 0x40FFFFFC 0).wf = true := by decide
theorem test_wf_work : (Instr.nop (.tag 1024)).wf = false ∧ (Instr.nop (.jsn 0)).wf = false ∧ (Instr.nop (.tag 1023)).wf = true := by decide
theorem test_wf_unit : (Instr.unitLost (.corePair 4)).wf = false ∧ (Instr.unitLost (.netPort 4)).wf = false ∧
    (Instr.unitLost (.wbLane 2)).wf = false ∧ (Instr.unitLost (.wbLane 1)).wf = true := by decide
theorem test_wf_stale : (Instr.inputStale (.slot 512 0)).wf = false ∧ (Instr.inputStale (.stagePos 128)).wf = false ∧
    (Instr.inputStale (.slot 511 2)).wf = true := by decide
theorem test_wf_ring_end : (Instr.strobeLaunch 4).wf = false ∧ (Instr.strobeLaunch 3).wf = true := by decide
theorem test_wf_position : (Instr.sampleTimeout 0 0).wf = false ∧ (Instr.sampleTimeout 0 129).wf = false ∧ (Instr.sampleTimeout 0 128).wf = true := by
  decide
theorem test_wf_port : (Instr.canWake 4).wf = false ∧ (Instr.canWake 3).wf = true := by decide
theorem test_wf_queue : (Instr.descIssue 256).wf = false ∧ (Instr.descIssue 255).wf = true := by decide
theorem test_wf_block : (Instr.lockTimeout 23).wf = false ∧ (Instr.lockTimeout 22).wf = true := by decide
theorem test_wf_bound : (Instr.opComplete 1024).wf = false ∧ (Instr.alarmFire 32).wf = false ∧ (Instr.wbLaneUp 2).wf = false ∧
    (Instr.doReset (.tag 0)).wf = true := by decide

/-! No row of the table gives bits, so no word spells a command, and `withFetchWord` changes nothing. -/

theorem test_decode (n w : Nat) : decodeTableWord n w = none := rfl
theorem test_fetch (s : State) (n w : Nat) : s.withFetchWord n w = s := rfl

/-! Single steps, with results read from the rules named. -/

/-- R172: a queue that nobody owns takes its claimant as owner, with the next generation. -/
theorem test_claim : ((nx (.ringClaim c0 3 0) act).queue 3).owner ≠ 0 ∧ ((nx (.ringClaim c0 3 0) act).queue 3).gen = 1 := by decide +kernel
/-- R144 and R19: a month 13 is refused and leaves the month as it was. -/
theorem test_month : ((nx (.calDateStage c0 0x00000D01) act).rtc.staged.map fun v => v.toNat / 256 % 16) = some act.rtc.cal.month := by decide +kernel
/-- R35: the first waiter gets a shared tag, not the second. -/
theorem test_tag : (nx (.tagGrant 2) { act with hq := { act.hq with tagWait := [(1, 0), (2, 0)] } }).hq.tagGiven = [] ∧
    (nx (.tagGrant 1) { act with hq := { act.hq with tagWait := [(1, 0), (2, 0)] } }).hq.tagGiven = [1] := by decide +kernel
/-- R57: the loss of the loop engine by a module in ACTIVE is shown in SYS_UNIT_HEALTH. -/
theorem test_unit : (nx (.unitLost .loop) act).unitUp UnitId.loop.bit = false := by decide +kernel
/-- An empty queue idles. -/
theorem test_idle : (match step z with | .next t => t.pending | _ => [.nop (.tag 0)]) = [] := by decide +kernel
/-- The front command leaves the queue. -/
theorem test_front : (match step { act with pending := [.nop (.tag 0), .ringFetch] } with | .next t => t.pending | _ => []) = [.ringFetch] := by
  decide +kernel

end Sys2Proof.Tests
end

section
/-! SUPPORT. A write of the held bits of a register under each access code (R15 to R19, R621 to R625), and the reset state's registers. -/

namespace Sys2Proof.Machine

/-- No register is listed at reset, so each reads as its Reset value (R18). -/
@[simp] theorem reg_reset (r : RegName) (i j : Nat) : State.reset.reg r i j = r.resetWord i := rfl

/-- Memory and the NAND data store are empty at reset, and REF_FENCE is low. -/
theorem safe_reset : State.reset.safe = true := by
  have hmem : State.reset.memOk = true := rfl
  have hfence : State.reset.fenceOk = true := rfl
  simp only [State.safe, hmem, hfence, Bool.and_self]

section
variable {s : State} {q : Requester} {r : RegName} {i j : Nat} {v : Word}

/-- A register without RWL fields takes its fields from the word; a reserved code leaves its field and is reported (R19). Its RWS fields
ask for SERVICE and a writer of R625. -/
theorem writeHeld_of_no_rwl (hheld : heldRegs.contains r = false) (hang : r ≠ .angCtrl) (hmpu : isMpuReg r = false)
    (hrwl : fieldsOf r .rwl = []) (hrws : fieldsOf r .rws = [] ∨ (s.sys.mode = .service ∧ mayWriteRws q = true))
    (hcombo : ∀ w, s.comboReserved r w = false) :
    s.writeHeld q r i j v =
      (if (applyFields (s.reg r i j) v (fieldsOf r .rw ++ fieldsOf r .rws)).2
        then (s.setReg r i j (applyFields (s.reg r i j) v (fieldsOf r .rw ++ fieldsOf r .rws)).1).refuseWrite q (r.addr i j)
        else s.setReg r i j (applyFields (s.reg r i j) v (fieldsOf r .rw ++ fieldsOf r .rws)).1, true) := by
  have hopen : ¬ (fieldsOf r .rws ≠ [] ∧ (s.sys.mode ≠ .service ∨ (!mayWriteRws q) = true)) := by
    rintro ⟨hne, hclosed⟩
    rcases hrws with h | ⟨hmode, hmay⟩
    · exact hne h
    · simp [hmode, hmay] at hclosed
  unfold State.writeHeld
  dsimp only
  rw [hheld, hmpu, hrwl, if_neg (by simp), if_neg (by simp [hang]), if_neg (by simp), if_neg (by simp), if_neg hopen, hcombo]
  simp

/-- An RWL register whose block lock is not open for the writer keeps its value, and the write is refused (R621). -/
theorem writeHeld_rwl_locked (hheld : heldRegs.contains r = false) (hang : r ≠ .angCtrl) (hmpu : isMpuReg r = false)
    (hrwl : fieldsOf r .rwl ≠ []) (hrw : fieldsOf r .rw = []) (hlock : s.lockedFor r.desc.block q = false) :
    s.writeHeld q r i j v = (s.refuseWrite q (r.addr i j), false) := by
  unfold State.writeHeld
  dsimp only
  rw [hheld, hmpu, hlock, if_neg (by simp), if_neg (by simp [hang]), if_neg (by simp), if_pos ⟨hrwl, hrw, rfl⟩]

theorem setReg_reg_other {r' : RegName} {i' j' : Nat} (h : r'.addr i' j' ≠ r.addr i j) :
    (s.setReg r i j v).reg r' i' j' = s.reg r' i' j' := by
  rw [setReg_reg, if_neg h]

/-- A register whose one field is held shows there the allowed code that it was written with. -/
theorem fld_setReg_applyFields {f : RegField} (hfields : r.desc.fields = [f]) (hacc : f.acc ≠ .wo ∧ f.acc ≠ .w1c ∧ f.acc ≠ .w1s)
    (hok : fieldOk f (bitsOf v.toNat f.lo f.width) = true) (hfit : f.lo + f.width ≤ 32) :
    (s.setReg r i j (applyFields (s.reg r i j) v r.desc.fields).1).fld r f.lo f.width i j = bitsOf v.toNat f.lo f.width := by
  rw [hfields, State.fld, setReg_reg, if_pos rfl]
  exact applyFields_get _ v [f] f (List.mem_singleton_self f) (by simpa using hacc) hok (by simp) hfit

/-- A debug write outside the locked regions and the DBG block reaches the registers in SERVICE, as any other requester's does (R278). -/
theorem writeBarred_service (hmode : s.sys.mode = .service) {a : Nat} (hdbg : a / 65536 ≠ 0x4016) (hfree : debugLocked a = false) :
    s.writeBarred q a = none := by
  by_cases hq : q = .debug
  · subst hq
    simp [State.writeBarred, hfree, State.debugMayWrite, hmode]
  · exact barred_core hq hdbg

end

/-- Writing a register's own value back leaves every register as it reads. -/
theorem setReg_reg_self (s : State) (r : RegName) : (s.setReg r 0 0 (s.reg r)).reg r = s.reg r := by
  rw [setReg_reg, if_pos rfl]

theorem refuseWrite_reg (s : State) (q : Requester) (a : Nat) (r : RegName) (i j : Nat) : (s.refuseWrite q a).reg r i j = s.reg r i j := by
  simp only [State.reg, State.refuseWrite_frame]

/-- A refused write is reported and touches no register. -/
theorem refuseWrite_unlatch_says (s : State) (q : Requester) (r : RegName) (w : Word) (a key : Nat) (as : List Nat) :
    Says { s.unlatch key as with regs := (((s.setReg r 0 0 w).refuseWrite q a).unlatch key as).regs } [(.writeRefused, [a, q.code])] [115]
      (((s.setReg r 0 0 w).refuseWrite q a).unlatch key as) := by
  have hregs : (((s.setReg r 0 0 w).refuseWrite q a).unlatch key as).regs = (s.setReg r 0 0 w).regs := by
    simp only [State.unlatch, State.refuseWrite_frame]
  rw [hregs]
  exact unlatch_upd (refuse_says (s.setReg r 0 0 w) q a) key as

/-! A write of one register of each access code. -/

theorem exec_write_mapSel (s : State) {q : Requester} (hq : q ≠ .debug) (v : Word) :
    exec (.registerWrite q (RegName.mapSel.addr 0 0) v) s =
      .next ((s.setReg .mapSel 0 0 (applyFields (s.reg .mapSel) v (RegName.desc .mapSel).fields).1).unlatch (latchKey .timed q)
        [RegName.mapSel.addr 0 0]) := by
  have hfields : fieldsOf .mapSel .rw ++ fieldsOf .mapSel .rws = (RegName.desc .mapSel).fields := by decide
  have hok : (applyFields (s.reg .mapSel) v (RegName.desc .mapSel).fields).2 = false :=
    applyFields_ok _ _ _ (by simp [RegName.desc, fieldOk])
  rw [writeRegs_plain v (by decide +kernel) (barred_core hq (by decide)) (by decide) (by decide) (by decide) (.inl rfl),
    writeHeld_of_no_rwl (by decide) (by decide) (by decide) (by decide) (.inl (by decide)) (fun _ => rfl), hfields, hok]
  rfl

theorem exec_write_dramCeWarn_open {s : State} {q : Requester} (hq : q ≠ .debug) (hlock : s.lockedFor 0 q = true) (v : Word) :
    exec (.registerWrite q (RegName.dramCeWarn.addr 0 0) v) s =
      .next (((s.setReg .dramCeWarn 0 0 (applyFields (s.reg .dramCeWarn) v (RegName.desc .dramCeWarn).fields).1).touchLock 0).unlatch
        (latchKey .timed q) [RegName.dramCeWarn.addr 0 0]) := by
  have hfields : fieldsOf .dramCeWarn .rwl = (RegName.desc .dramCeWarn).fields := by decide
  have hok : ∀ f ∈ fieldsOf .dramCeWarn .rwl, fieldOk f (bitsOf v.toNat f.lo f.width) = true := by simp [hfields, RegName.desc, fieldOk]
  rw [writeRegs_plain v (by decide +kernel) (barred_core hq (by decide)) (by decide) (by decide) (by decide) (.inr (.inl rfl)),
    writeHeld_rwl (r := .dramCeWarn) (by decide) (by decide) (by decide) (by decide) (fun _ => rfl) (by decide) hlock nofun hok, hfields]
  rfl

theorem exec_write_dramCeWarn_locked {s : State} {q : Requester} (hq : q ≠ .debug) (hlock : s.lockedFor 0 q = false) (v : Word) :
    exec (.registerWrite q (RegName.dramCeWarn.addr 0 0) v) s =
      .next ((s.refuseWrite q (RegName.dramCeWarn.addr 0 0)).unlatch (latchKey .timed q) [RegName.dramCeWarn.addr 0 0]) := by
  rw [writeRegs_plain v (by decide +kernel) (barred_core hq (by decide)) (by decide) (by decide) (by decide) (.inr (.inl rfl)),
    writeHeld_rwl_locked (by decide) (by decide) (by decide) (by decide) (by decide) hlock]

theorem exec_write_sysStart {s : State} {q : Requester} (hmode : s.sys.mode = .service) (hmay : mayWriteRws q = true) (v : Word) :
    exec (.registerWrite q (RegName.sysStart.addr 0 0) v) s =
      .next ((if 1 ≤ bitsOf v.toNat 16 10 ∧ bitsOf v.toNat 16 10 ≤ 600
        then s.setReg .sysStart 0 0 (applyFields (s.reg .sysStart) v (RegName.desc .sysStart).fields).1
        else (s.setReg .sysStart 0 0 (s.reg .sysStart)).refuseWrite q (RegName.sysStart.addr 0 0)).unlatch (latchKey .timed q)
          [RegName.sysStart.addr 0 0]) := by
  have hfields : fieldsOf .sysStart .rw ++ fieldsOf .sysStart .rws = (RegName.desc .sysStart).fields := by decide
  rw [writeRegs_plain v (by decide +kernel) (writeBarred_service hmode (by decide) (by decide)) (by decide) (by decide) (by decide)
      (.inr (.inr rfl)),
    writeHeld_of_no_rwl (by decide) (by decide) (by decide) (by decide) (.inr ⟨hmode, hmay⟩) (fun _ => rfl), hfields]
  by_cases hcode : 1 ≤ bitsOf v.toNat 16 10 ∧ bitsOf v.toNat 16 10 ≤ 600 <;>
    simp [applyFields, RegName.desc, fieldOk, hcode]

/-- Settles O3: the structures' default values, with every register unlisted and so at its Reset value. -/
theorem resetIsSafe : Obligations.ResetIsSafe := by
  unfold Obligations.ResetIsSafe
  exact ⟨safe_reset, rfl, rfl, rfl, rfl, rfl, reg_reset⟩

/-- Settles O9: one write per access code, through the rules of `State.writeHeld` for that code. -/
theorem registerWritesObeyAccessCodes : Obligations.RegisterWritesObeyAccessCodes := by
  unfold Obligations.RegisterWritesObeyAccessCodes
  refine ⟨fun s q v hq => ?_, fun s q v hq hlock => ?_, fun s q v hq hlock => ?_, fun s q v hmode hmay hlow hhigh => ?_,
    fun s q v hmode hmay hbad => ?_⟩
  · exact ⟨_, exec_write_mapSel s hq v, fld_setReg_applyFields (r := .mapSel) rfl (by decide) rfl (by decide),
      fun _ _ _ h => setReg_reg_other h, rfl⟩
  · exact ⟨_, exec_write_dramCeWarn_open hq hlock v, fld_setReg_applyFields (r := .dramCeWarn) rfl (by decide) rfl (by decide),
      fun _ _ _ h => setReg_reg_other h, rfl⟩
  · exact ⟨_, exec_write_dramCeWarn_locked hq hlock v, unlatch_upd (refuse_says ..) _ _⟩
  · have hexec := exec_write_sysStart hmode hmay v
    rw [if_pos ⟨hlow, hhigh⟩] at hexec
    exact ⟨_, hexec, fld_setReg_applyFields (r := .sysStart) rfl (by decide) (by simp [fieldOk, hlow, hhigh]) (by decide),
      fun _ _ _ h => setReg_reg_other h, rfl⟩
  · have hexec := exec_write_sysStart hmode hmay v
    rw [if_neg (by omega)] at hexec
    exact ⟨_, hexec, (refuseWrite_reg ..).trans (setReg_reg_self ..), refuseWrite_unlatch_says ..⟩

end Sys2Proof.Machine
end

section
/-! SUPPORT. Tags and the wait for them (R35, R36), the steps of long operations (R40 to R44, R187), stale inputs (R27), and lost and restored
units (R54 to R57, R597). -/

namespace Sys2Proof.Machine

/-! The wait for a shared tag. -/

theorem mem_joinWait {i t : Nat} {l : List (Nat × Nat)} {e : Nat × Nat} : e ∈ joinWait i t l ↔ e = (i, t) ∨ e ∈ l := by
  induction l with
  | nil => simp [joinWait]
  | cons x l ih =>
    unfold joinWait
    split
    · exact List.mem_cons
    · rw [List.mem_cons, ih, List.mem_cons, or_left_comm]

theorem length_joinWait (i t : Nat) (l : List (Nat × Nat)) : (joinWait i t l).length = l.length + 1 := by
  induction l with
  | nil => rfl
  | cons x l ih =>
    unfold joinWait
    split
    · rfl
    · rw [List.length_cons, ih, List.length_cons]

/-- A later request stands behind every earlier one. -/
theorem joinWait_eq_append {i t : Nat} {l : List (Nat × Nat)} (h : ∀ e ∈ l, e.2 < t) : joinWait i t l = l ++ [(i, t)] := by
  induction l with
  | nil => rfl
  | cons x l ih =>
    rw [List.forall_mem_cons] at h
    unfold joinWait
    rw [if_neg (by omega), ih h.2, List.cons_append]

/-- Beyond its floor an issuer without a grant gets no tag while the pool is empty or another waits (R36). -/
theorem tagFree_eq_false {s : State} {i : Nat} (hfloor : 32 ≤ s.tagsOf i) (hpool : s.sharedFree = false ∨ s.hq.tagWait ≠ [])
    (hgrant : i ∉ s.hq.tagGiven) : s.tagFree i = false := by
  rcases hpool with h | h
  · exact tagFree_false hfloor h hgrant
  · simp [State.tagFree, hfloor, hgrant, h]

/-- The waiting issuers after `i` has asked for a tag and got none: it is noted once. -/
def State.waitsAfter (s : State) (i : Nat) : List (Nat × Nat) :=
  if s.hq.tagWait.any (fun e => e.1 == i) then s.hq.tagWait else joinWait i s.tb.csr s.hq.tagWait

theorem waitsAfter_of_new {s : State} {i : Nat} (h : ∀ e ∈ s.hq.tagWait, e.1 ≠ i) :
    s.waitsAfter i = joinWait i s.tb.csr s.hq.tagWait := by
  unfold State.waitsAfter
  rw [if_neg (by simpa using fun t ht => h (i, t) ht rfl)]

/-- The first descriptor of a ring does not ask for a tag yet: for its FENCE, for the lease, or for an earlier submission (R162, R172, R177). -/
def State.headWaits (s : State) (n : Nat) (f : Fetched) : Prop :=
  (dFence f.bytes = true ∧ s.inFlight n ≠ 0) ∨ ((s.queue n).auth = true ∧ s.sys.mode = .handover) ∨
    ((s.queue n).durable = true ∧ s.awaitsAccept n (dSubmit f.bytes) = true)

section
variable {s : State} {n : Nat} {f : Fetched} {fs : List Fetched}

theorem exec_descIssue_headWaits (hhead : (s.queue n).fetched = f :: fs) (hwait : s.headWaits n f) : exec (.descIssue n) s = .next s := by
  show execDescIssue n s = _
  unfold execDescIssue
  dsimp only
  rw [hhead]
  dsimp only
  rcases hwait with h | h | h
  · exact if_pos h
  · rw [if_pos h, ite_self]
  · rw [if_pos h, ite_self, ite_self]

/-- Without a tag the issuer of a descriptor is noted as waiting (R36). -/
theorem exec_descIssue_without_tag (hhead : (s.queue n).fetched = f :: fs) (hask : ¬ s.headWaits n f)
    (htag : s.tagFree (ownerIssuer (s.queue n).owner) = false) :
    exec (.descIssue n) s = .next { s with hq := { s.hq with tagWait := s.waitsAfter (ownerIssuer (s.queue n).owner) } } := by
  obtain ⟨hfence, hauth, hid⟩ : ¬ _ ∧ ¬ _ ∧ ¬ _ := by simpa only [State.headWaits, not_or] using hask
  show execDescIssue n s = _
  unfold execDescIssue
  dsimp only
  rw [hhead]
  dsimp only
  rw [if_neg hfence, if_neg hauth, if_neg hid, htag]
  rfl

end

/-- Whatever stands in its queue, a ring whose issuer gets no tag issues nothing (R36). -/
theorem descIssue_without_tag {s : State} {n : Nat} (htag : s.tagFree (ownerIssuer (s.queue n).owner) = false) :
    exec (.descIssue n) s = .next s ∨
    exec (.descIssue n) s = .next { s with hq := { s.hq with tagWait := s.waitsAfter (ownerIssuer (s.queue n).owner) } } := by
  cases hhead : (s.queue n).fetched with
  | nil =>
    left
    show execDescIssue n s = _
    unfold execDescIssue
    dsimp only
    rw [hhead]
  | cons f fs =>
    by_cases hwait : s.headWaits n f
    · exact .inl (exec_descIssue_headWaits hhead hwait)
    · exact .inr (exec_descIssue_without_tag hhead hwait htag)

/-- Settles O24: an issue without a tag changes the list of waiting issuers alone, and TAG_GRANT looks at its head alone. -/
theorem issuersWaitForTags : Obligations.IssuersWaitForTags := by
  unfold Obligations.IssuersWaitForTags
  refine ⟨?_, ?_, fun l i t h => joinWait_eq_append h, ?_, ?_⟩
  · rintro s n i rfl hfloor hpool hgrant
    rcases descIssue_without_tag (tagFree_false hfloor hpool hgrant) with h | h
    · exact ⟨s.hq.tagWait, h, fun _ => .inl, fun _ => id, Nat.le_succ _⟩
    · refine ⟨_, h, ?_⟩
      unfold State.waitsAfter
      split
      · exact ⟨fun _ => .inl, fun _ => id, Nat.le_succ _⟩
      · exact ⟨fun e he => (mem_joinWait.1 he).symm, fun e he => mem_joinWait.2 (.inr he), (length_joinWait ..).le⟩
  · rintro s n i f fs rfl hfloor hpool hgrant hhead hfence hmode hid hnew
    have hask : ¬ s.headWaits n f := by
      rintro (h | h | h)
      · simp [hfence] at h
      · exact hmode h.2
      · rcases hid with hd | hd <;> simp [hd] at h
    rw [exec_descIssue_without_tag hhead hask (tagFree_eq_false hfloor hpool hgrant), waitsAfter_of_new hnew]
  · intro s i t l hwait hfree
    show execTagGrant i s = _
    unfold execTagGrant
    rw [hwait]
    exact congrArg _ (if_pos ⟨rfl, hfree⟩)
  · intro s i h
    show execTagGrant i s = _
    unfold execTagGrant
    split
    · rename_i hwait
      rw [hwait] at h
      rw [if_neg (by rintro ⟨rfl, hfree⟩; simp [hfree] at h)]
    · rfl

/-! Steps of long operations. -/

/-- The operation with so many steps done of so many. -/
def Op.counted (o : Op) (steps total : Nat) : Op := { o with steps := steps, total := total }

theorem exec_longOpStep {s : State} {w : WorkRef} {op : Op} (hop : s.opOf w = some op) (hlong : op.long = true) (h8 : op.engine ≠ 8)
    (h10 : op.engine ≠ 10) (total : Nat) :
    exec (.longOpStep w total false) s = .next (((s.engineStep w op).setOp w fun o => o.counted (op.steps + 1) total).stepBoundary
      (op.counted (op.steps + 1) total)) := by
  show execLongOpStep w total false s = _
  unfold execLongOpStep
  rw [hop]
  simp [hlong, h8, h10, Op.counted]

/-- Without PROGRESS and outside the journal a step boundary leaves no trace. -/
theorem stepBoundary_plain (s : State) {op : Op} (hjsn : op.jsn = none) (hprog : dProgress op.bytes = false) (steps total : Nat) :
    s.stepBoundary (op.counted steps total) = s := by
  simp [State.stepBoundary, Op.counted, hjsn, hprog]

theorem engineStep_other (s : State) (w : WorkRef) {op : Op} (h7 : op.engine ≠ 7) : s.engineStep w op = s := if_neg h7

/-- A step of NVS_WRITE writes the page that its count names (R43). -/
theorem engineStep_nvsWrite {s : State} (w : WorkRef) {op : Op} {p a n : Nat} (h7 : op.engine = 7) (hcode : dOpcode op.bytes = 0x11)
    (hargs : nvsArgs op = (p, a, n)) (hok : nvsRefusal op 1 (some pageBytes) = none) (hclean : s.notErased op = false)
    (hmore : op.steps < n) : s.engineStep w op = s.storePage op p a op.steps := by
  unfold State.engineStep State.storageStep
  rw [if_pos h7, hargs, hcode]
  exact if_neg (by simp [hok, hclean, hmore])

theorem slotStale_measured {s : State} {n : Nat} (hn : n < 512) (hen : (s.slot n).enabled = true) (hfirst : (s.slot n).staleM = false)
    (hold : s.freshSource (slSrc (s.slot n).record 0) (slAge (s.slot n).record 0) (recF (s.slot n).record 72) s.tb.ang = none) :
    s.slotStale n 0 = ((s.record .loopStale [n, 0]).raise 83).setSlot n fun x => { x with staleM := true } := by
  unfold State.slotStale State.staleOnset
  rw [if_neg (by simp [hn, hen, hold])]
  simp [hfirst]

/-- Settles O11: a step counts, and what its engine and its boundary add to that is said by their own lemmas. -/
theorem longOperationStepsAreCounted : Obligations.LongOperationStepsAreCounted := by
  unfold Obligations.LongOperationStepsAreCounted
  refine ⟨?_, ?_, ?_, fun s o => rfl, ?_⟩
  · intro s t total op hop hlong hjsn hprog h7 h8 h10
    rw [exec_longOpStep hop hlong h8 h10, engineStep_other s _ h7, stepBoundary_plain _ hjsn hprog]
    rfl
  · intro s t total p a n op hop hlong hjsn hprog h7 hcode hargs hok hclean hmore
    rw [exec_longOpStep hop hlong (by omega) (by omega), engineStep_nvsWrite _ h7 hcode hargs hok hclean hmore,
      stepBoundary_plain _ hjsn hprog]
    rfl
  · intro s j total op hop hlong hjsn h7 h8 h10 hauth
    have hstep := exec_longOpStep hop hlong h8 h10 total
    rw [engineStep_other s _ h7] at hstep
    obtain ⟨hnext, hentry, hhq⟩ := stepBoundary_durable (s.setOp (.jsn j) fun o => o.counted (op.steps + 1) total)
      (op.counted (op.steps + 1) total) (by simp [Op.counted, hjsn]) hauth
    exact ⟨_, hstep, hnext, hentry, congrArg HqSt.work hhq⟩
  · intro s n hn _ hen hfirst hold
    refine ⟨_, congrArg Host.Outcome.next (slotStale_measured hn hen hfirst hold), ?_⟩
    exact (((Says.refl s).record .loopStale [n, 0]).raise 83 (by decide)).upd
      (fun t => t.setSlot n fun x => { x with staleM := true }) (fun _ _ _ _ _ => rfl) rfl rfl

/-! Lost and restored units. -/

theorem unitFails_sys (s : State) (u : UnitId) : (s.unitFails u).sys = s.sys := by
  cases u with
  | corePair k => unfold State.unitFails; dsimp only; split <;> rfl
  | _ => rfl

theorem unitFails_svcPair (s : State) (k : Nat) : (s.unitFails (.corePair k)).core.svcPair = s.core.svcPair := by
  unfold State.unitFails; dsimp only; split <;> rfl

/-- Losing a unit is a report where the rest gives the control service (R54, R57). -/
theorem loseUnit_unitFails_says {s : State} {u : UnitId} (hmode : s.sys.mode ≠ .active)
    (hrest : controlLost (s.sys.unitHealth ||| 2 ^ u.bit) true = false) :
    Says ((s.unitFails u).setUnit u.bit) [(.unitLost, [u.bit])] [108] ((s.unitFails u).loseUnit u.bit) :=
  loseUnit_says _ _ (by rwa [unitFails_sys]) (by rwa [unitFails_sys])

theorem exec_unitLost {s : State} {u : UnitId} (hbank : u ≠ .holdup) (hpair : ∀ k, u ≠ .corePair k) (hup : s.unitUp u.bit = true) :
    exec (.unitLost u) s = .next ((s.unitFails u).loseUnit u.bit) := by
  show execUnitLost u s = _
  unfold execUnitLost
  rw [if_neg (by simp [hup])]
  cases u with
  | corePair k => exact absurd rfl (hpair k)
  | holdup => exact absurd rfl hbank
  | _ => rfl

/-- A lost core pair that does not run the pair service moves nothing (R261). -/
theorem exec_unitLost_corePair {s : State} {k : Nat} (hk : k < 4) (hup : s.unitUp k = true)
    (hsvc : ((s.unitFails (.corePair k)).loseUnit k).core.svcPair ≠ k) :
    exec (.unitLost (.corePair k)) s = .next ((s.unitFails (.corePair k)).loseUnit k) := by
  have hbit : (UnitId.corePair k).bit = k := Nat.mod_eq_of_lt hk
  show execUnitLost (.corePair k) s = _
  unfold execUnitLost
  rw [hbit, if_neg (by simp [hup])]
  dsimp only
  rw [Nat.mod_eq_of_lt hk, if_neg (fun h => hsvc h.1)]

/-- In STANDBY the loss of the last unit of the control service leads to SAFE-HOLD, whatever else stands (R57). -/
theorem loseUnit_standby {s : State} (u : Nat) (hmode : s.sys.mode = .standby) (hpend : s.sys.restartPend = none)
    (hlost : controlLost (s.sys.unitHealth ||| 2 ^ u) true = true) :
    (s.loseUnit u).sys.mode = .safeHold ∧ (s.loseUnit u).sys.safeHoldCause = 3 ∧ (s.loseUnit u).wb.fenced = true ∧
    (s.loseUnit u).wb.lease = .none ∧ (s.loseUnit u).unitUp u = false ∧ (s.loseUnit u).core = s.core := by
  have hsaid := ((Says.refl (s.setUnit u)).record .unitLost [u]).raise 108 (by decide)
  unfold State.loseUnit
  generalize ((s.setUnit u).record .unitLost [u]).raise 108 = t at hsaid ⊢
  have hrep := hsaid.toReports
  have htmode : t.sys.mode = .standby := hrep.mode.trans hmode
  have htpend : t.sys.restartPend = none := by rw [hrep.sys]; exact hpend
  have hleave : t.planIfDegraded.safeIfLost =
      ({ t with wb := { t.wb with wdAlive := false } } : State).enterSafeHold 3 (recCodeOf .unitLost) := by
    rw [planIfDegraded_id (by simp [htmode]), State.safeIfLost, if_pos (by rw [hrep.unitHealth]; exact hlost), State.leaveControl,
      if_pos (by simp [htmode])]
  rw [hleave]
  have hcore : ({ t with wb := { t.wb with wdAlive := false } } : State).core = s.core := hrep.core
  have hnot : ({ t with wb := { t.wb with wdAlive := false } } : State).sys.mode ≠ .safeHold := by simp [htmode]
  obtain ⟨hm, hc, hl, hf, hu⟩ := State.enterSafeHold_facts hnot htpend 3 (recCodeOf .unitLost)
  have hkept := State.enterSafeHold_core (s := { t with wb := { t.wb with wdAlive := false } }) htpend hnot 3 (recCodeOf .unitLost)
  refine ⟨hm, hc, hf, hl, ?_, hkept.trans hcore⟩
  rw [State.unitUp, hu, hrep.unitHealth]
  exact setUnit_down s u

theorem exec_unitRestored {s : State} {u : UnitId} (hbank : u ≠ .holdup) (hnand : u ≠ .nand) (hpair : ∀ k, u ≠ .corePair k)
    (hdown : s.unitUp u.bit = false) : exec (.unitRestored u) s = .next (s.clearUnit u.bit) := by
  show execUnitRestored u s = _
  unfold execUnitRestored
  rw [if_neg (by simp [hdown])]
  cases u with
  | corePair k => exact absurd rfl (hpair k)
  | holdup => exact absurd rfl hbank
  | nand => exact absurd rfl hnand
  | _ => rfl

theorem exec_unitRestored_corePair {s : State} {k : Nat} (hk : k < 4) (hdown : s.unitUp k = false) :
    exec (.unitRestored (.corePair k)) s = .next (if (s.pair k).state = 3 then s
      else ((s.setPair k fun p => { p with state := if p.state = 2 then 0 else p.state, selftest := false }).clearUnit k).record
        .corePairRestored [k]) := by
  have hbit : (UnitId.corePair k).bit = k := Nat.mod_eq_of_lt hk
  show execUnitRestored (.corePair k) s = _
  unfold execUnitRestored
  rw [hbit, if_neg (by simp [hdown])]

/-- Settles O12: a lost unit is a report, or the way into SAFE-HOLD; a restored one clears its own bit. -/
theorem unitsAreLostAndRestored : Obligations.UnitsAreLostAndRestored := by
  unfold Obligations.UnitsAreLostAndRestored
  refine ⟨?_, ?_, ?_, ?_, ?_, ?_⟩
  · intro s u hbank hpair hup hmode hrest
    exact ⟨_, exec_unitLost hbank hpair hup, loseUnit_unitFails_says hmode hrest⟩
  · intro s k hk hup hmode hsvc hrest
    have hbit : (UnitId.corePair k).bit = k := Nat.mod_eq_of_lt hk
    have hsaid := loseUnit_unitFails_says (u := .corePair k) hmode (by rwa [hbit])
    rw [hbit] at hsaid
    exact ⟨_, exec_unitLost_corePair hk hup (by rw [hsaid.core]; exact (unitFails_svcPair s k).trans_ne hsvc), hsaid⟩
  · intro s k hk hup hmode hsvc hpend hlost
    have hsys := unitFails_sys s (.corePair k)
    obtain ⟨hm, hc, hf, hl, hd, hcore⟩ := loseUnit_standby (s := s.unitFails (.corePair k)) k (by rwa [hsys]) (by rwa [hsys]) (by rwa [hsys])
    exact ⟨_, exec_unitLost_corePair hk hup (by rw [hcore]; exact (unitFails_svcPair s k).trans_ne hsvc), hm, hc, hf, hl, hd⟩
  · intro s u hbank hnand hpair hdown
    exact ⟨_, exec_unitRestored hbank hnand hpair hdown, clearUnit_up s u.bit, rfl⟩
  · intro s k hk hdown hstate
    exact ⟨_, (exec_unitRestored_corePair hk hdown).trans (congrArg _ (if_neg hstate)), (Says.refl _).record .corePairRestored [k]⟩
  · intro s k hk hdown hstate
    exact (exec_unitRestored_corePair hk hdown).trans (congrArg _ (if_pos hstate))

end Sys2Proof.Machine
end

section
/-! SUPPORT. The end of an operation and its completion entry (R34, R38, R166 to R168, R176), the instant of a TIMED descriptor (R163, R172),
ABORT (R188), and the end of a standby's copy (R173). -/

namespace Sys2Proof.Machine

/-! The end of an operation. -/

@[simp] theorem cflags_plain (long : Bool) : cflags false false long = if long then 4 else 0 := by cases long <;> rfl

theorem lateResult_onTime (s : State) {op : Op} (hlate : op.late = false) (st res : Nat) (data : List Byte) :
    s.lateResult op st res data = (st, res, data) := by
  simp [State.lateResult, hlate]

theorem lastProgress_short (s : State) {op : Op} (hshort : opLong op.engine (dOpcode op.bytes) = false) (st : Nat) :
    s.lastProgress op st = s := by
  simp [State.lastProgress, hshort]

@[simp] theorem writeRes_nil (s : State) (op : Op) (off : Nat) : s.writeRes op off [] = s := if_pos (.inr rfl)

theorem lastProgress_mem (s : State) (op : Op) (st : Nat) : ∃ m, s.lastProgress op st = { s with mem := m } := by
  unfold State.lastProgress
  dsimp only
  split
  · exact writeRes_mem ..
  · exact ⟨s.mem, rfl⟩

/-- An operation in flight that core software gave no SUBMIT_ID only takes its outcome: its tag stays in use (R34, R38). -/
theorem finish_inFlight {s : State} {op : Op} (hjsn : op.jsn = none) (hlate : op.late = false)
    (hshort : opLong op.engine (dOpcode op.bytes) = false) (hid : dSubmit op.bytes = 0) (st res : Nat) :
    s.finish op st res = { s with hq := { s.hq with finished := s.hq.finished + 1, ops := s.hq.ops.map fun o =>
      if o.tag = op.tag then { o with done := some (st, res), fin := s.hq.finished } else o } } := by
  unfold State.finish
  simp [lateResult_onTime s hlate, lastProgress_short s hshort, hjsn, hid, State.setOp]

/-- The queue event of a ring leaves work, operations and what a journal entry is made of. -/
theorem queueEvent_keeps (s : State) (n : Nat) :
    (s.queueEvent n).hq.work = s.hq.work ∧ (s.queueEvent n).hq.ops = s.hq.ops ∧ (s.queueEvent n).wb = s.wb := by
  unfold State.queueEvent
  simp only [State.raise_frame]
  exact ⟨rfl, rfl, rfl⟩

/-- Accepted work of the holder is journalled DONE and gone (R176, R238). -/
theorem finish_accepted {s : State} {op : Op} {j : Nat} (hjsn : op.jsn = some j) (hlate : op.late = false) (hauth : s.authoritative = true)
    (st res : Nat) :
    (s.finish op st res).hq.work = s.hq.work.filter (fun o => decide (o.jsn ≠ some j)) ∧ (s.finish op st res).hq.ops = s.hq.ops ∧
    (s.finish op st res).wb.jsn = s.wb.jsn + 1 ∧ (s.finish op st res).wb.journal =
      s.wb.journal ++ [⟨s.wb.jsn + 1, s.sendGen, .done op.ring (dSubmit op.bytes) j st res s.tb.ang (s.opStatus op)⟩] := by
  unfold State.finish
  simp only [lateResult_onTime s hlate, hjsn, writeRes_nil, hauth, if_true]
  obtain ⟨m, hm⟩ := lastProgress_mem s op st
  rw [hm]
  obtain ⟨m', hm'⟩ := writeRes_mem { s with mem := m } op (outcomeOff op) (({ s with mem := m } : State).outcomeBytes op st res)
  rw [hm']
  dsimp only
  generalize hgone : ({ s with mem := m', hq := { s.hq with work := s.hq.work.filter fun o => decide (o.jsn ≠ some j) } } : State) = u
  obtain ⟨v, hv, hwork, hops, hwb⟩ : ∃ v, (if dEvent op.bytes = true then u.queueEvent op.ring else u) = v ∧
      v.hq.work = u.hq.work ∧ v.hq.ops = u.hq.ops ∧ v.wb = u.wb := by
    split
    · exact ⟨_, rfl, queueEvent_keeps u op.ring⟩
    · exact ⟨_, rfl, rfl, rfl, rfl⟩
  rw [hv]
  obtain ⟨hnext, hentry, hhq, -⟩ := journalAdd_facts v (.done op.ring (dSubmit op.bytes) j st res s.tb.ang (s.opStatus op))
  have hgen : v.sendGen = s.sendGen := by
    unfold State.sendGen State.holds
    rw [hwb, ← hgone]
  rw [hhq, hwork, hops, hnext, hentry, hgen, hwb, ← hgone]
  exact ⟨rfl, rfl, rfl, rfl⟩

theorem exec_nop {s : State} {w : WorkRef} {op : Op} (hop : s.opOf w = some op) (hcode : dOpcode op.bytes = 0) :
    exec (.nop w) s = .next (s.finish op 0 0) := by
  show Host.Outcome.next (s.anyOp w 0 fun op s => s.finish op stOk 0) = _
  unfold State.anyOp
  rw [hop]
  exact congrArg _ (if_pos hcode)

/-! The completion entry. -/

theorem contentMade_mem (s : State) (n k : Nat) (now had : Bool) : (s.contentMade n k now had).mem = s.mem := by
  unfold State.contentMade
  dsimp only
  split
  · simp only [State.queueEvent, State.raise_frame]; rfl
  · rfl

/-- A completion entry with a free slot stands there (R166, R167). -/
theorem writeCompletion_mem {s : State} {n : Nat} (hfree : s.cqFree n ≠ 0) (d : List Byte) (tag st res fl : Nat) :
    (s.writeCompletion n d tag st res fl).mem =
      Memory.writeN s.mem (ownerKey (s.queue n).owner (s.cqBase n + (s.queue n).cqProd.toNat % (s.queue n).cqSize * 16))
        (cqBytes (dCookie d) tag ((s.queue n).fetchIdx.toNat % 65536) res st fl
          (decide ((s.queue n).cqProd.toNat / (s.queue n).cqSize % 2 = 0))) := by
  unfold State.writeCompletion
  rw [if_neg hfree]
  exact contentMade_mem ..

/-- A completion entry without a free slot is held, and memory stays (R168). -/
theorem writeCompletion_held {s : State} {n : Nat} (hn : n < s.hq.queues.length) (hfull : s.cqFree n = 0) (d : List Byte)
    (tag st res fl : Nat) :
    (s.writeCompletion n d tag st res fl).queue n = { s.queue n with held := (s.queue n).held ++ [⟨d, tag, st, res, fl⟩] } ∧
    (s.writeCompletion n d tag st res fl).mem = s.mem := by
  unfold State.writeCompletion
  rw [if_pos hfull]
  exact ⟨setQueue_self hn _, rfl⟩

/-- The state after an operation's completion entry: the operations of that tag are gone (R34). -/
def State.completed (s : State) (n : Nat) (o : Op) (st res : Nat) : State :=
  let t := s.writeCompletion n o.bytes o.tag st res (if o.long then 4 else 0)
  { t with hq := { t.hq with ops := t.hq.ops.filter fun p => decide (p.tag ≠ o.tag) } }

theorem completed_ops (s : State) (n : Nat) (o : Op) (st res : Nat) :
    (s.completed n o st res).hq.ops = s.hq.ops.filter fun p => decide (p.tag ≠ o.tag) :=
  congrArg (List.filter _) (complete_keeps s n o.bytes o.tag st res _ n).2

/-- OP_COMPLETE writes one entry, and none while a slot or an earlier end of its ring is wanting (R38, R168). -/
theorem exec_opComplete {s : State} {tag st res : Nat} {o : Op}
    (hfind : (s.hq.ops.find? fun o => o.tag == tag && o.done.isSome) = some o) (hdone : o.done = some (st, res)) :
    exec (.opComplete tag) s = .next (if s.cqFree o.ring = 0 ∨ (∃ p ∈ s.hq.ops, p.ring = o.ring ∧ p.done.isSome = true ∧ p.fin < o.fin)
      then s else s.completed o.ring o st res) := by
  have htag : o.tag = tag := by simpa using (And.left <| by simpa using List.find?_some hfind)
  subst htag
  have hany : s.hq.ops.any (fun p => p.ring == o.ring && p.done.isSome && decide (p.fin < o.fin)) = true ↔
      ∃ p ∈ s.hq.ops, p.ring = o.ring ∧ p.done.isSome = true ∧ p.fin < o.fin := by
    simp [and_assoc]
  show execOpComplete o.tag s = _
  unfold execOpComplete
  rw [hfind]
  dsimp only
  rw [hdone]
  dsimp only
  by_cases hwait : s.cqFree o.ring = 0 ∨ ∃ p ∈ s.hq.ops, p.ring = o.ring ∧ p.done.isSome = true ∧ p.fin < o.fin
  · rw [if_pos hwait, if_pos (hwait.imp_right hany.2)]
  · rw [if_neg hwait, if_neg fun h => hwait (h.imp_right hany.1), cflags_plain]
    rfl

/-- What the entry of a completed operation changes of its ring and of memory; nothing but events and messages changes beside it. -/
theorem completed_facts {s t : State} {n : Nat} {o : Op} {st res : Nat} (hn : n < s.hq.queues.length) (hfree : s.cqFree n ≠ 0)
    (ht : t = s.completed n o st res) :
    (t.queue n).cqProd = (s.queue n).cqProd + 1 ∧ (t.queue n).reported = (s.queue n).fetchIdx ∧
    (∀ k, k ≠ n → t.queue k = s.queue k) ∧ t = { s with hq := t.hq, evt := t.evt, mem := t.mem, out := t.out } := by
  subst ht
  obtain ⟨hentry, hother, -⟩ := writeCompletion_queue hn o.bytes o.tag st res (if o.long then 4 else 0)
  obtain ⟨u, e, y, hq⟩ := (hentry.resolve_left fun h => hfree h.1).2
  refine ⟨congrArg Queue.cqProd hq, congrArg Queue.reported hq, hother, ?_⟩
  have hframe := eq_of_same (State.writeCompletion_same s n o.bytes o.tag st res (if o.long then 4 else 0))
  unfold State.completed
  dsimp only
  generalize s.writeCompletion n o.bytes o.tag st res (if o.long then 4 else 0) = t at hframe ⊢
  rw [hframe]

/-- SHADOW_PAIR_COMPLETE ends the copy of a journalled descriptor with ACCEPTED (R173). -/
theorem exec_shadowPairComplete {s : State} {ring id : Nat} {o : Op}
    (hfind : (s.hq.ops.find? fun o => o.shadow && o.ring == ring && dSubmit o.bytes == id) = some o)
    (hdur : (s.queue ring).durable = true) (hdesc : journalDesc s.wb.journal ring id = true) (hfree : s.cqFree ring ≠ 0) :
    exec (.shadowPairComplete ring id) s = .next (s.completed ring o 1 0) := by
  show execShadowPairComplete ring id s = _
  unfold execShadowPairComplete
  rw [hfind]
  simp only [hdur, hdesc, if_true, if_neg hfree, cflags_plain]
  rfl

/-! The instant of a TIMED descriptor. -/

/-- A TIMED descriptor that came too late and has no LATE_POLICY is missed; any other starts at its TIME (R131, R163). -/
theorem exec_timedDescDue {s : State} {w : WorkRef} {op : Op} (hop : s.timedOp w = some op) :
    exec (.timedDescDue w) s = .next (if op.late = true ∧ dLatePolicy op.bytes = false then s.finish { op with late := false } 12 0
      else if dTime op.bytes ≤ s.clockOf (dPtBase op.bytes) then s.startDue w op 0 else s) := by
  show execTimedDescDue w s = _
  unfold execTimedDescDue
  rw [hop]
  dsimp only
  split
  · rfl
  · split <;> rfl

/-- What starts without a jump keeps its lateness. -/
theorem startDue_go {s : State} {w : WorkRef} {o : Op} (h : o.jsn.isSome = true ∧ s.holds = true ∨
      o.jsn = none ∧ ((s.queue o.ring).auth = false ∨ s.authoritative = true ∧ s.sys.mode ≠ .handover)) :
    s.startDue w o 0 = s.setOp w fun p => { p with waitTime := false, mark := 0 } := by
  unfold State.startDue
  rcases h with ⟨hjsn, hholds⟩ | ⟨hjsn, hmay⟩
  · simp [hjsn, hholds]
  · simp [hjsn, hmay]

theorem startDue_waits {s : State} {w : WorkRef} {o : Op} (h : o.jsn.isSome = true ∧ s.holds = false ∨
      o.jsn = none ∧ (s.queue o.ring).auth = true ∧ s.sys.mode = .handover) : s.startDue w o 0 = s := by
  unfold State.startDue
  rcases h with ⟨hjsn, hholds⟩ | ⟨hjsn, hauth, hmode⟩
  · simp [hjsn, hholds]
  · simp [hjsn, hauth, hmode]

/-- Without the lease an AUTH descriptor becomes a shadow or is turned away (R172, R173). -/
theorem startDue_elsewhere {s : State} {w : WorkRef} {o : Op} (hjsn : o.jsn = none) (hauth : (s.queue o.ring).auth = true)
    (hmay : s.authoritative = false) (hmode : s.sys.mode ≠ .handover) :
    s.startDue w o 0 = if s.shadowed o.ring o.bytes = true then s.setOp w fun p => { p with shadow := true, seen := s.prg.cycle }
      else s.completeOps 5 [o] := by
  unfold State.startDue
  simp [hjsn, hauth, hmay, hmode, stNotActive]

/-! ABORT. -/

/-- ABORT, by the earliest issued operation with the COOKIE and else by the first fetched descriptor with it (R188). -/
theorem exec_abort {s : State} {w : WorkRef} {ab : Op} (hop : s.opOf w = some ab) (hcode : dOpcode ab.bytes = 1) :
    exec (.abort w) s = .next (match earliest (s.queue ab.ring).fetchIdx (s.abortOps ab (dInline ab.bytes 0 4)),
        (s.queue ab.ring).fetched.find? (fun f => dCookie f.bytes == dInline ab.bytes 0 4) with
      | some o, _ =>
        let s := if s.upd.work = some (.tag o.tag) ∧ o.jsn = none then s.endUpdate else s
        if o.waitTime ∨ o.long then (s.finish { o with late := false } stAborted 0).finish ab stOk 0 else s.finish ab stOk 0
      | none, some f =>
        ((s.setQueue ab.ring fun q => { q with fetched := q.fetched.filter fun g => decide (g.idx ≠ f.idx), caches := q.caches.pop })
          |>.writeCompletion ab.ring f.bytes 0 stAborted 0 0).finish ab stOk 0
      | none, none => s.finish ab stNotFound 0) := by
  show execAbort w s = _
  unfold execAbort State.anyOp
  rw [hop]
  exact congrArg _ (if_pos hcode)

/-- No issued operation has the COOKIE but such as have ended, and the ABORT itself. -/
theorem abortOps_eq_nil {s : State} {ab : Op} {cookie : Nat} (h : ∀ o, (o ∈ s.hq.ops ∨ o ∈ s.hq.work) → o.ring = ab.ring →
    dCookie o.bytes = cookie → o.same ab = true ∨ o.done ≠ none) : s.abortOps ab cookie = [] := by
  unfold State.abortOps
  rw [List.filter_eq_nil_iff]
  intro o ho hsel
  simp only [Bool.and_eq_true, beq_iff_eq, Bool.not_eq_true', Option.isNone_iff_eq_none] at hsel
  obtain ⟨⟨⟨hring, hcookie⟩, hsame⟩, hdone⟩ := hsel
  rcases h o (List.mem_append.1 ho) hring hcookie with hs | hd
  · rw [hs] at hsame; cases hsame
  · exact hd hdone

/-- Settles O26: each command by its own rule, and one completion entry by `completed_facts`. -/
theorem completionsAreWrittenOnce : Obligations.CompletionsAreWrittenOnce := by
  unfold Obligations.CompletionsAreWrittenOnce
  refine ⟨fun s w op => exec_nop, ?_, ?_, ?_, ?_, ?_, ?_, ?_⟩
  · intro s tag op res hop hjsn hlate hshort hid
    obtain ⟨-, rfl, -⟩ := setOp_opOf hop
    exact finish_inFlight hjsn hlate hshort hid 0 res
  · intro s j op res hjsn hlate hauth
    exact ⟨_, rfl, finish_accepted hjsn hlate hauth 0 res⟩
  · rintro s tag _ st res o - hn hfind hdone rfl
    have hexec := exec_opComplete hfind hdone
    have htag : o.tag = tag := by simpa using (And.left <| by simpa using List.find?_some hfind)
    refine ⟨fun hfree hfirst => ?_, fun hwait => by rw [hexec, if_pos hwait]⟩
    have hnot : ¬ (s.cqFree o.ring = 0 ∨ ∃ p ∈ s.hq.ops, p.ring = o.ring ∧ p.done.isSome = true ∧ p.fin < o.fin) := by
      rintro (h | ⟨p, hp, hring, hend, hlt⟩)
      · exact hfree h
      · exact absurd (hfirst p hp hring hend) (by omega)
    rw [if_neg hnot] at hexec
    obtain ⟨hprod, hrep, hother, hframe⟩ := completed_facts hn hfree (rfl : s.completed o.ring o st res = _)
    refine ⟨_, hexec, ?_, hprod, hrep, hother, ?_, hframe⟩
    · rw [completed_ops, htag]
    · rw [← htag]; exact writeCompletion_mem hfree ..
  · intro s n d tag st res fl hn hfull
    exact writeCompletion_held hn hfull ..
  · intro s w op hop
    have hexec := exec_timedDescDue hop
    have honTime : op.late = false ∨ dLatePolicy op.bytes = true → ¬ (op.late = true ∧ dLatePolicy op.bytes = false) := by
      rintro (h | h) <;> simp [h]
    refine ⟨fun hlate hpol => by rw [hexec, if_pos ⟨hlate, hpol⟩], fun h hclock => ?_, fun h hclock => ?_⟩
    · rw [hexec, if_neg (honTime h), if_neg (by omega)]
    · rw [if_neg (honTime h), if_pos hclock] at hexec
      rw [hexec]
      exact ⟨fun h => congrArg _ (startDue_go h), fun h => congrArg _ (startDue_waits h),
        fun hjsn hauth hmay hmode => congrArg _ (startDue_elsewhere hjsn hauth hmay hmode)⟩
  · intro s w ab hop hcode
    have hexec := exec_abort hop hcode
    refine ⟨fun hops hfetched => ?_, fun f hops hfind => ?_, fun o hearly hupd => ?_⟩
    · have hnone : (s.queue ab.ring).fetched.find? (fun f => dCookie f.bytes == dInline ab.bytes 0 4) = none := by
        simpa using hfetched
      rw [hexec, abortOps_eq_nil hops, hnone]
      rfl
    · rw [hexec, abortOps_eq_nil hops, hfind]
      rfl
    · rw [hexec, hearly]
      have hkeep : ¬ (s.upd.work = some (.tag o.tag) ∧ o.jsn = none) := fun h => hupd.elim (· h.1) (· h.2)
      dsimp only
      rw [if_neg hkeep]
      rfl
  · intro s ring id o hfind hdur hdesc hfree
    exact ⟨_, exec_shadowPairComplete hfind hdur hdesc hfree, completed_ops .., rfl⟩

end Sys2Proof.Machine
end

section
/-! SUPPORT. DRAM errors (R538, R539), the pages of the NAND store and its commands (R543 to R554, R569), and the recorder's commands (R556 to
R568). -/

namespace Sys2Proof.Machine

/-! DRAM errors. -/

/-- What DRAM_UE records before its reader sees what the rules say (R539). -/
def State.tellDramUe (s : State) (a : Nat) (x : DramUser) : State :=
  ({ s with sys := { s.sys with dramUe := (s.sys.dramUe + 1) % 65536, dramUeAddr := a % 2 ^ 48 } }.record .dramUe [a, x.code]).raise 122

theorem tellDramUe_says (s : State) (a : Nat) (x : DramUser) :
    Says { s with sys := { s.sys with dramUe := (s.sys.dramUe + 1) % 65536, dramUeAddr := a % 2 ^ 48 } } [(.dramUe, [a, x.code])] [122]
      (s.tellDramUe a x) :=
  ((Says.refl _).record .dramUe [a, x.code]).raise 122 (by decide)

theorem engineHead_congr {s t : State} (h : t.hq = s.hq) (e : Nat) : t.engineHead e = s.engineHead e := by
  unfold State.engineHead State.engineOps
  rw [h]

theorem dramFault_core_off {s : State} {k : Nat} (h : 4 ≤ k ∨ s.powered (pairDomain k) = false) (a : Nat) (second : Bool) :
    s.dramFault a (.core k second) = s := if_pos h

theorem dramFault_engine_idle {s : State} {e : Nat} (h : s.engineHead e = none) (a : Nat) : s.dramFault a (.engine e) = s := by
  unfold State.dramFault
  dsimp only
  rw [h]

theorem dramFault_engine {s : State} {e : Nat} {o : Op} (h : s.engineHead e = some o) (a : Nat) :
    s.dramFault a (.engine e) = s.finish o stEngineError 1 := by
  unfold State.dramFault
  dsimp only
  rw [h]

theorem dramFault_journal_kept {s : State} (h : s.sys.mode ≠ .solo) (a j : Nat) : s.dramFault a (.journal j true) = s := if_pos ⟨rfl, h⟩

/-- A journal entry that cannot be fetched again is lost, and GUARANTEE_BROKEN says so (R62, R539). -/
theorem dramFault_journal_lost {s : State} {j : Nat} {ok : Bool} (h : ok = false ∨ s.sys.mode = .solo) (a : Nat) :
    Says { s with wb := { s.wb with journal := s.wb.journal.filter fun e => e.jsn != j } }
      [(.guaranteeBroken, s.wb.jsn :: j :: a :: s.streamSeqs)] [70] (s.dramFault a (.journal j ok)) := by
  unfold State.dramFault
  dsimp only
  rw [if_neg (by rcases h with h | h <;> simp [h])]
  exact ((Says.refl _).record .guaranteeBroken _).raise 70 (by decide)

/-- The corrections of the last 24 h were recorded already (R538). -/
theorem exec_dramCeHigh_told {s : State} {n : Nat}
    (h : n ≤ s.fld .dramCeWarn 0 16 ∨ ∃ t, s.sys.dramCeAt = some t ∧ s.tb.csr < t + ticks24h) :
    exec (.dramCeHigh n) s = .next { s with sys := { s.sys with dramCe := satAt (2 ^ 32 - 1) (max s.sys.dramCe n) } } := by
  refine congrArg Host.Outcome.next (if_neg ?_)
  rintro ⟨hlow, hrecent⟩
  rcases h with h | ⟨t, ht, hlt⟩
  · exact absurd hlow (Nat.not_lt.2 h)
  · simp [ht, hlt] at hrecent

theorem exec_dramCeHigh {s : State} {n : Nat} (hhigh : s.fld .dramCeWarn 0 16 < n)
    (hold : ∀ t, s.sys.dramCeAt = some t → t + ticks24h ≤ s.tb.csr) :
    ∃ t, exec (.dramCeHigh n) s = .next t ∧
      Says { s with sys := { s.sys with dramCe := satAt (2 ^ 32 - 1) (max s.sys.dramCe n), dramCeAt := some s.tb.csr } }
        [(.dramCeHigh, [n])] [122] t := by
  refine ⟨_, congrArg Host.Outcome.next (if_pos ⟨hhigh, ?_⟩), ((Says.refl _).record .dramCeHigh [n]).raise 122 (by decide)⟩
  cases h : s.sys.dramCeAt with
  | none => rfl
  | some t => simpa using hold t h

/-! The scrub lap. -/

/-- A lap reads what the ECC reports of known pages, and every written page besides (R553). -/
theorem mem_lapReads {s : State} {l : List (Nat × Nat × Nat × Bool)} {p i f : Nat} {b : Bool} :
    (p, i, f, b) ∈ s.lapReads l ↔ ((p, i, f, b) ∈ l ∧ i < partPages p ∧ (p < 5 ∨ s.pageWritten p i = true)) ∨
      (f = 0 ∧ b = false ∧ (∃ g, ((p, i), g) ∈ s.nvs.pages ∧ g.t ≠ 0) ∧ ∀ f' b', (p, i, f', b') ∉ l) := by
  have hnone : (l.any fun r => r.1 == p && r.2.1 == i) = false ↔ ∀ f' b', (p, i, f', b') ∉ l := by
    rw [List.any_eq_false]
    constructor
    · intro h f' b' hm
      simpa using h _ hm
    · rintro h ⟨p', i', f', b'⟩ hm hsel
      simp only [Bool.and_eq_true, beq_iff_eq] at hsel
      obtain ⟨rfl, rfl⟩ := hsel
      exact h f' b' hm
  unfold State.lapReads
  rw [List.mem_append, or_comm]
  refine or_congr ?_ ?_
  · simp
  · rw [List.mem_map, ← hnone]
    constructor
    · rintro ⟨⟨⟨p', i'⟩, g⟩, hg, hread⟩
      simp only [Prod.mk.injEq] at hread
      obtain ⟨rfl, rfl, rfl, rfl⟩ := hread
      obtain ⟨hmem, hsel⟩ := List.mem_filter.1 hg
      simp only [Bool.and_eq_true, bne_iff_ne, Bool.not_eq_true'] at hsel
      exact ⟨rfl, rfl, ⟨g, hmem, hsel.1⟩, hsel.2⟩
    · rintro ⟨rfl, rfl, ⟨g, hg, ht⟩, hfree⟩
      exact ⟨((p, i), g), List.mem_filter.2 ⟨hg, by simp [ht, hfree]⟩, rfl⟩

/-- The end of a lap: its time, SCRUB_LAP, and SCRUB_SLOW past LAP_WARN_D days (R553, R554). -/
theorem exec_scrubLap {s : State} {h : Nat} {l : List (Nat × Nat × Nat × Bool)} (hon : s.bit .nvsCtrl 0 = true) (hready : s.nvs.ready = true)
    {u : State} (hu : u = s.readPages (s.lapReads l)) :
    ∃ t, exec (.scrubLap h l) s = .next t ∧
      Says { u with nvs := { u.nvs with scrubLap := h, scrubProg := 0, scrubSlow := u.nvs.scrubSlow || decide (24 * s.fld .nvsCtrl 8 8 < h) } }
        ([(.scrubLap, [h, u.fixPages])] ++ if 24 * s.fld .nvsCtrl 8 8 < h then [(.scrubSlow, [h])] else []) [118] t := by
  subst hu
  have hregs : (s.readPages (s.lapReads l)).regs = s.regs := readPages_regs _ s
  refine ⟨_, congrArg Host.Outcome.next (if_neg (by simp [hon, hready])), ?_⟩
  generalize s.readPages (s.lapReads l) = u at hregs ⊢
  have hlap := ((Says.refl { u with nvs := { u.nvs with scrubLap := h, scrubProg := 0 } }).record .scrubLap [h, u.fixPages]).raise 118 (by decide)
  have hwarn : State.fld ((({ u with nvs := { u.nvs with scrubLap := h, scrubProg := 0 } } : State).record .scrubLap [h, u.fixPages]).raise 118)
      .nvsCtrl 8 8 = s.fld .nvsCtrl 8 8 := by
    unfold State.fld State.reg
    rw [hlap.regs, ← hregs]
  dsimp only
  rw [show State.fixPages { u with nvs := { u.nvs with scrubLap := h, scrubProg := 0 } } = u.fixPages from rfl, hwarn]
  by_cases hslow : 24 * s.fld .nvsCtrl 8 8 < h
  · rw [if_pos hslow, if_pos hslow, decide_eq_true hslow, Bool.or_true]
    exact (hlap.upd (fun t => { t with nvs := { t.nvs with scrubSlow := true } }) (fun _ _ _ _ _ => rfl) rfl rfl).record .scrubSlow [h]
  · rw [if_neg hslow, if_neg hslow, decide_eq_false hslow, Bool.or_false, List.append_nil]
    exact hlap

/-! Periodic tasks. -/

theorem tooEarly_of_recent {s : State} {last : Option Nat} {us k : Nat} (hlast : last = some k) (h : s.tb.csr < k + usTicks us) :
    s.tooEarly last us = true := (tooEarly_iff ..).2 ⟨k, hlast, h⟩

theorem tooEarly_of_past {s : State} {last : Option Nat} {us : Nat} (h : ∀ k, last = some k → k + usTicks us ≤ s.tb.csr) :
    ¬ s.tooEarly last us = true := by
  rw [tooEarly_iff]
  rintro ⟨k, hk, hlt⟩
  exact absurd (h k hk) (by omega)

/-! Storage commands. -/

/-- What a range of whole pages is refused for: the partition, its end, LENGTH (R569). -/
theorem nvsRefusal_pages (op : Op) {p a n : Nat} (hargs : nvsArgs op = (p, a, n)) : nvsRefusal op 1 (some pageBytes) =
    if p ≠ 5 ∧ p ≠ 6 then some 1 else if partPages p < a + n then some 2 else if dLength op.bytes ≠ n * 16384 then some 4 else none := by
  unfold nvsRefusal
  rw [hargs]
  dsimp only
  rw [Nat.mul_one]
  rfl

theorem nvsRefusal_pages_eq_none {op : Op} {p a n : Nat} (hargs : nvsArgs op = (p, a, n)) (hp : p = 5 ∨ p = 6)
    (hend : a + n ≤ partPages p) (hlen : dLength op.bytes = n * 16384) : nvsRefusal op 1 (some pageBytes) = none := by
  rw [nvsRefusal_pages op hargs, if_neg (by omega), if_neg (by omega), if_neg (not_not.2 hlen)]

/-- What a range of blocks is refused for (R569). -/
theorem nvsRefusal_blocks (op : Op) {p a n : Nat} (hargs : nvsArgs op = (p, a, n)) : nvsRefusal op blockPages none =
    if p ≠ 5 ∧ p ≠ 6 then some 1 else if partPages p < (a + n) * 256 then some 2 else none := by
  unfold nvsRefusal
  rw [hargs]
  rfl

section
variable {s : State} {w : WorkRef} {op : Op} {p a n : Nat} {l : List (Nat × Nat × Nat)}

theorem exec_nvsRead_refused (h : s.ready w 7 0x10 op) {r : Nat} (hr : nvsRefusal op 1 (some pageBytes) = some r) :
    exec (.nvsRead w l) s = .next (s.finish op 0xB00 r) := by
  refine congrArg Host.Outcome.next ((engineOp_ready h _).trans ?_)
  rw [hr]
  rfl

theorem exec_nvsWrite_refused (h : s.ready w 7 0x11 op) {r : Nat} (hr : nvsRefusal op 1 (some pageBytes) = some r) :
    exec (.nvsWrite w) s = .next (s.finish op 0xB00 r) := by
  refine congrArg Host.Outcome.next ((engineOp_ready h _).trans ?_)
  rw [hr]
  rfl

/-- Refused page commands name the partition, the range or the length (R569). -/
theorem nvsPages_refused {c : Instr} {o : Nat}
    (hc : (c = .nvsRead w l ∧ o = 0x10) ∨ (c = .nvsWrite w ∧ o = 0x11)) (h : s.ready w 7 o op) {r : Nat}
    (hr : nvsRefusal op 1 (some pageBytes) = some r) : exec c s = .next (s.finish op 0xB00 r) := by
  rcases hc with ⟨rfl, rfl⟩ | ⟨rfl, rfl⟩
  · exact exec_nvsRead_refused h hr
  · exact exec_nvsWrite_refused h hr

theorem exec_nvsErase_refused (h : s.ready w 7 0x12 op) {r : Nat} (hr : nvsRefusal op blockPages none = some r) :
    exec (.nvsErase w) s = .next (s.finish op 0xB00 r) := by
  refine congrArg Host.Outcome.next ((engineOp_ready h _).trans ?_)
  rw [hr]
  rfl

/-- NVS_READ reads its written pages and copies all; a codeword beyond correction shows in its status (R551). -/
theorem exec_nvsRead (h : s.ready w 7 0x10 op) (hargs : nvsArgs op = (p, a, n)) (hok : nvsRefusal op 1 (some pageBytes) = none)
    {r : List (Nat × Nat × Nat)} (hr : r = l.filter fun r => decide (a ≤ r.1 ∧ r.1 < a + n) && s.pageWritten p r.1) :
    exec (.nvsRead w l) s = .next (((s.readRange p a r n).copyPages op p a r n).finish op
      (if (r.any fun x => x.2.2 % 65536 != 0) = true then 0xB01 else stOk) 0) := by
  subst hr
  refine congrArg Host.Outcome.next ((engineOp_ready h _).trans ?_)
  rw [hok, hargs]
  rfl

/-- Some page that the steps so far have not filled is not erased (R547). -/
theorem notErased_iff (hargs : nvsArgs op = (p, a, n)) :
    s.notErased op = true ↔ ∃ k, op.steps ≤ k ∧ k < n ∧ s.pageWritten p (a + k) = true := by
  unfold State.notErased
  rw [hargs]
  simp only [List.any_eq_true, List.mem_range, Bool.and_eq_true, decide_eq_true_eq]
  exact exists_congr fun k => and_left_comm

/-- NVS_WRITE fills the pages that its steps have not, all of which must be erased (R547). -/
theorem exec_nvsWrite (h : s.ready w 7 0x11 op) (hargs : nvsArgs op = (p, a, n)) (hok : nvsRefusal op 1 (some pageBytes) = none) :
    exec (.nvsWrite w) s = .next (if s.notErased op = true then s.finish op 0xB00 3
      else (s.storePages op p a op.steps (n - op.steps)).finish op stOk 0) := by
  refine congrArg Host.Outcome.next ((engineOp_ready h _).trans ?_)
  rw [hok, hargs]
  rfl

theorem exec_nvsWrite_erased (h : s.ready w 7 0x11 op) (hargs : nvsArgs op = (p, a, n)) (hok : nvsRefusal op 1 (some pageBytes) = none)
    (hclean : ∀ k, op.steps ≤ k → k < n → s.pageWritten p (a + k) = false) :
    exec (.nvsWrite w) s = .next ((s.storePages op p a op.steps (n - op.steps)).finish op stOk 0) := by
  rw [exec_nvsWrite h hargs hok, if_neg]
  rw [notErased_iff hargs]
  rintro ⟨k, hfrom, hto, hk⟩
  rw [hclean k hfrom hto] at hk
  cases hk

theorem exec_nvsErase (h : s.ready w 7 0x12 op) (hargs : nvsArgs op = (p, a, n)) (hok : nvsRefusal op blockPages none = none) :
    exec (.nvsErase w) s = .next ((s.eraseBlocks p (a + op.steps) (n - op.steps)).finish op stOk 0) := by
  refine congrArg Host.Outcome.next ((engineOp_ready h _).trans ?_)
  rw [hok, hargs]

theorem exec_nvsCounters (h : s.ready w 7 0x13 op) (hargs : nvsArgs op = (p, a, n)) :
    exec (.nvsCounters w) s = .next (if 7 ≤ p then s.finish op 0xB00 1 else if partPages p < a + n then s.finish op 0xB00 2
      else if dLength op.bytes < 4 * n then s.finish op 0xB00 4
      else (s.writeBuf op 0 ((List.range n).flatMap fun k => leBytes 4 (s.counterWord p (a + k)))).finish op stOk 0) := by
  refine congrArg Host.Outcome.next ((engineOp_ready h _).trans ?_)
  rw [hargs]
  rfl

/-- The pages a write has still to fill hold the partition's present strength, and the store its canonical form (R546). -/
theorem storePages_rest {m : Nat} {u : State} (hu : u = s.storePages op p a m (n - m)) :
    u = { s with nvs := { s.nvs with pages := u.nvs.pages, data := u.nvs.data } } ∧
    (Memory.wf s.nvs.data = true → Memory.wf u.nvs.data = true) ∧
    (∀ k, m ≤ k → k < n → ∃ g, u.page p (a + k) = some g ∧ g.t = s.fld .nvsPartCfg 0 7 p) ∧
    (n = m + 1 → u.nvs.data = Memory.writeN s.nvs.data (nandKey p (a + m) 0) (s.readBuf op (m * 16384) 16384)) := by
  obtain ⟨⟨pages, data, heq⟩, hwf, hpage⟩ := storePages_facts op p a m (n - m) s
  rw [← hu] at heq hwf hpage
  refine ⟨by rw [heq], hwf, fun k hmk hkn => ?_, fun hn => ?_⟩
  · have := hpage (k - m) (by omega)
    rwa [show a + (m + (k - m)) = a + k by omega] at this
  · rw [hu, hn, Nat.add_sub_cancel_left, storePages_one]
    exact storePage_data s op p a m

/-- Erased blocks hold nothing, and every other page and byte stays (R547). -/
theorem eraseBlocks_rest {m : Nat} (hm : m ≤ n) {u : State} (hu : u = s.eraseBlocks p (a + m) (n - m)) :
    u = { s with nvs := { s.nvs with pages := u.nvs.pages, data := u.nvs.data } } ∧
    (∀ i, (a + m) * 256 ≤ i → i < (a + n) * 256 → u.pageWritten p i = false) ∧
    (∀ q i, q ≠ p ∨ i < (a + m) * 256 ∨ (a + n) * 256 ≤ i → u.page q i = s.page q i) ∧
    (∀ x, Memory.read u.nvs.data x = if x < nandKey p ((a + m) * 256) 0 ∨ nandKey p ((a + n) * 256) 0 ≤ x then Memory.read s.nvs.data x
      else unlisted) := by
  have hend : a + m + (n - m) = a + n := by omega
  have hdef := hu
  unfold State.eraseBlocks at hdef
  rw [hend] at hdef
  exact ⟨by rw [hu]; rfl, erase_facts s u p _ _ hdef⟩

end

/-! The recorder. -/

/-- A flush is due for the bytes, the time or the severity of what is unflushed (R557). -/
theorem flushDue_iff (s : State) : s.flushDue = true ↔ 262144 ≤ unflushedBytes s.log.recs ∨ s.log.flushAt + usTicks 5000000 ≤ s.tb.csr ∨
    ∃ r ∈ s.log.recs, r.flushed = false ∧ 2 ≤ r.sev := by
  unfold State.flushDue
  simp [or_assoc]

theorem exec_recorderFlush (s : State) : exec .recorderFlush s = .next (if s.flushDue = true then s.flushLog else s) := rfl

/-- The body that LOG_RECORD enters has 16 to 1,024 bytes (R555). -/
def logBody (b : List Byte) : List Byte := b.take 1024 ++ List.replicate (16 - b.length) 0

theorem logBody_length_le (b : List Byte) : (logBody b).length ≤ 1024 := by
  simp only [logBody, List.length_append, List.length_take, List.length_replicate]
  omega

theorem logBody_eq {b : List Byte} (hlow : 16 ≤ b.length) (hhigh : b.length ≤ 1024) : logBody b = b := by
  unfold logBody
  rw [List.take_of_length_le hhigh, Nat.sub_eq_zero_of_le hlow, List.replicate_zero, List.append_nil]

theorem exec_logRecord (s : State) (c v o : Nat) (b : List Byte) :
    exec (.logRecord c v o b) s = .next (if c = 0 ∨ 0xFFFE ≤ c then s else s.givenRec c (v % 4) o (logBody b) s.tb.ang s.tb.pt) := rfl

section
variable {s : State} {w : WorkRef} {op : Op}

/-- LOG_WRITE refuses its code and its length, or gives the SEQ of the record that entered (R568). -/
theorem exec_logWrite (h : s.ready w 7 0x20 op) {t : State}
    (ht : t = s.givenRec (dSubop op.bytes) (dInline op.bytes 0 1) 19 (s.buffer op) op.issuedAng op.issuedPt) :
    exec (.logWrite w) s = .next (if dSubop op.bytes < 0xF000 ∨ 0xFFFD < dSubop op.bytes ∨ 3 < dInline op.bytes 0 1 then s.finish op 0xB00 5
      else if dLength op.bytes < 16 ∨ 1024 < dLength op.bytes then s.finish op 0xB00 4
      else if t.log.seq = s.log.seq then t.finish op 0xB04 0
      else t.finish op stOk (t.log.seq % 2 ^ 32) (leBytes 8 t.log.seq)) := by
  subst ht
  exact congrArg Host.Outcome.next (engineOp_ready h _)

theorem buffer_length (s : State) (op : Op) : (s.buffer op).length = dLength op.bytes := readN_length ..

/-- The rollover has erased what LOG_EXPORT has still to copy (R563). -/
theorem overtaken_iff : s.overtaken op = true ↔ (exportBounds op).1 ≤ (exportBounds op).2 ∧ (exportSoFar op).last < (exportBounds op).2 ∧
    (exportSoFar op).last < s.log.erased := decide_eq_true_iff

/-- LOG_EXPORT ends with what stands copied, or copies the rest of its range first (R562 to R564). -/
theorem exec_logExport (h : s.ready w 7 0x21 op) {x : Export} {b : List Byte}
    (hx : (if s.overtaken op = true ∨ (exportBounds op).2 < (exportBounds op).1 then (exportSoFar op, [])
      else exportRecs s.pwr.slotB (dLength op.bytes) (exportBounds op).2 (s.exportRest op) (exportSoFar op, [])) = (x, b)) :
    exec (.logExport w) s = .next ((s.writeBuf op (exportSoFar op).len b).finish op (if s.overtaken op = true then 0xB02 else stOk)
      (if x.recs + x.gaps = 0 then 0 else x.last % 2 ^ 32) (exportResult (exportBounds op).1 x)) := by
  refine congrArg Host.Outcome.next ((engineOp_ready h _).trans ?_)
  dsimp only
  rw [hx]
  rfl

theorem exec_logExport_overtaken (h : s.ready w 7 0x21 op) (hlost : s.overtaken op = true) :
    exec (.logExport w) s = .next ((s.writeBuf op (exportSoFar op).len []).finish op 0xB02
      (if (exportSoFar op).recs + (exportSoFar op).gaps = 0 then 0 else (exportSoFar op).last % 2 ^ 32)
      (exportResult (exportBounds op).1 (exportSoFar op))) := by
  rw [exec_logExport h (if_pos (.inl hlost)), if_pos hlost]

theorem exec_logExport_empty (h : s.ready w 7 0x21 op) (hempty : (exportBounds op).2 < (exportBounds op).1) :
    exec (.logExport w) s = .next ((s.writeBuf op (exportSoFar op).len []).finish op stOk
      (if (exportSoFar op).recs + (exportSoFar op).gaps = 0 then 0 else (exportSoFar op).last % 2 ^ 32)
      (exportResult (exportBounds op).1 (exportSoFar op))) := by
  rw [exec_logExport h (if_pos (.inr hempty)), if_neg fun hlost => absurd (overtaken_iff.1 hlost).1 (Nat.not_le.2 hempty)]

theorem exec_logExport_rest (h : s.ready w 7 0x21 op) (hrange : (exportBounds op).1 ≤ (exportBounds op).2)
    (hkept : (exportBounds op).2 ≤ (exportSoFar op).last ∨ s.log.erased ≤ (exportSoFar op).last) {x : Export} {b : List Byte}
    (hx : exportRecs s.pwr.slotB (dLength op.bytes) (exportBounds op).2 (s.exportRest op) (exportSoFar op, []) = (x, b)) :
    exec (.logExport w) s = .next ((s.writeBuf op (exportSoFar op).len b).finish op stOk
      (if x.recs + x.gaps = 0 then 0 else x.last % 2 ^ 32) (exportResult (exportBounds op).1 x)) := by
  have hnot : ¬ s.overtaken op = true := fun hlost =>
    have ⟨_, hmore, hgone⟩ := overtaken_iff.1 hlost
    hkept.elim (Nat.not_le.2 hmore) (Nat.not_le.2 hgone)
  have hcopy : ¬ (s.overtaken op = true ∨ (exportBounds op).2 < (exportBounds op).1) := fun h => h.elim hnot (Nat.not_lt.2 hrange)
  rw [exec_logExport h ((if_neg hcopy).trans hx), if_neg hnot]

/-- A refused clear records the reason and ends (R565). -/
theorem refuseClear_says {s t : State} {rs : List (RecName × List Nat)} {es : List Nat} (h : Says s rs es t) (op : Op) (r : Nat) :
    ∃ u : State, t.refuseClear op r = u.finish op 0xB03 r ∧ Says s (rs ++ [(.logClearRefused, [r])]) es u :=
  ⟨_, rfl, h.record .logClearRefused [r]⟩

theorem exec_logClear_started (h : s.ready w 7 0x22 op) (hst : op.started = true) :
    exec (.logClear w) s = .next ((s.removeUpto (lastCleared s.log.recs)).finish op stOk 0) :=
  congrArg Host.Outcome.next ((engineOp_ready h _).trans (if_pos hst))

theorem exec_logClear_badToken (h : s.ready w 7 0x22 op) (hst : op.started = false) {y c : Nat}
    (hj : s.judgeArtefact (some 6) (s.buffer op) = .refused y c) :
    exec (.logClear w) s = .next ((s.sigFail y c).refuseClear op (secReason c)) := by
  refine congrArg Host.Outcome.next ((engineOp_ready h _).trans ?_)
  rw [if_neg (by simp [hst]), hj]

theorem exec_logClear_refused (h : s.ready w 7 0x22 op) (hst : op.started = false) {z : Artefact}
    (hj : s.judgeArtefact (some 6) (s.buffer op) = .good z) {r : Nat} (hr : s.clearRefusal z = some r) :
    exec (.logClear w) s = .next (s.refuseClear op r) := by
  refine congrArg Host.Outcome.next ((engineOp_ready h _).trans ?_)
  rw [if_neg (by simp [hst]), hj]
  dsimp only
  rw [hr]

theorem exec_logClear_accepted (h : s.ready w 7 0x22 op) (hst : op.started = false) {z : Artefact}
    (hj : s.judgeArtefact (some 6) (s.buffer op) = .good z) (hr : s.clearRefusal z = none) :
    exec (.logClear w) s = .next (((s.beginClear op z).removeUpto (clearUpto z)).finish op stOk 0) := by
  refine congrArg Host.Outcome.next ((engineOp_ready h _).trans ?_)
  rw [if_neg (by simp [hst]), hj]
  dsimp only
  rw [hr]

/-- The order in which a verified clear is refused: its range, its nonce, a running LOG_EXPORT (R565). -/
theorem clearRefusal_eq (s : State) (z : Artefact) : s.clearRefusal z =
    if s.log.seq < leField z.body 8 8 then some 4 else if s.nonceUsed z = true then some 5 else if s.exporting = true then some 6 else none := rfl

theorem keepNonce_sec (s : State) (z : Artefact) : ∃ x, s.keepNonce z = { s with sec := x } := by
  unfold State.keepNonce
  dsimp only
  split
  · exact ⟨_, rfl⟩
  · split
    · exact ⟨_, rfl⟩
    · exact ⟨s.sec, rfl⟩

/-- An accepted clear begins with LOG_CLEARED, which is flushed (R566). -/
theorem beginClear_says (s : State) (op : Op) (z : Artefact) : ∃ u : State, s.beginClear op z = u.flushLog ∧
    Says (s.keepNonce z) [(.logCleared, [clearUpto z, oldestSeq s.log.recs, leField (artefactDigest (s.buffer op)) 0 8,
      (s.queue op.ring).owner])] [] u := by
  obtain ⟨x, hx⟩ := keepNonce_sec s z
  unfold State.beginClear
  dsimp only
  rw [hx]
  exact ⟨_, rfl, (Says.refl _).record .logCleared _⟩

end

/-- Settles O58: each command by its own rule; pages, blocks and records by what their operations leave. -/
theorem storageAndRecorderKeepWhatTheySay : Obligations.StorageAndRecorderKeepWhatTheySay := by
  unfold Obligations.StorageAndRecorderKeepWhatTheySay
  refine ⟨?dramUe, ?dramCe, ?pageRead, ?lap, ?slots, slotBad_facts, ?counters, ?storage, ?logRecord, ?flush, ?logWrite, ?logExport,
    ?logClear⟩
  case dramUe =>
    intro s a x
    have hsaid := tellDramUe_says s a x
    refine ⟨s.tellDramUe a x, rfl, hsaid, ?_, ?_, ?_⟩
    · rintro (rfl | ⟨j, rfl, hmode⟩ | ⟨e, rfl, hidle⟩ | ⟨k, b, rfl, hoff⟩)
      · rfl
      · exact dramFault_journal_kept (by rwa [hsaid.mode]) a j
      · exact dramFault_engine_idle (by rwa [engineHead_congr hsaid.hq]) a
      · exact dramFault_core_off (by rwa [State.powered, hsaid.domains]) a b
    · rintro e o rfl hhead
      exact dramFault_engine (by rwa [engineHead_congr hsaid.hq]) a
    · rintro j b rfl hlost
      exact ⟨_, rfl, dramFault_journal_lost (by rwa [hsaid.mode]) a⟩
  case dramCe => exact fun s n => ⟨fun hhigh hold => exec_dramCeHigh hhigh hold, exec_dramCeHigh_told, rfl⟩
  case pageRead =>
    intro s p i f b g hpage
    simpa only [State.pageRecords, decide_eq_true_eq] using readPage_facts s p i f b g hpage
  case lap =>
    intro s h l
    refine ⟨fun hoff => congrArg Host.Outcome.next (if_pos hoff), fun p i f b => mem_lapReads, fun hon hready => ?_⟩
    obtain ⟨t, hexec, hsays⟩ := exec_scrubLap (h := h) (l := l) hon hready rfl
    exact ⟨_, t, rfl, hexec, hsays⟩
  case slots =>
    exact fun s o0 o1 o2 => ⟨fun k hk hlt => congrArg Host.Outcome.next (if_pos (tooEarly_of_recent hk hlt)),
      fun hpast => congrArg Host.Outcome.next (if_neg (tooEarly_of_past hpast))⟩
  case counters =>
    exact fun s => ⟨fun k hk hlt => congrArg Host.Outcome.next (if_pos (tooEarly_of_recent hk hlt)),
      fun hpast => congrArg Host.Outcome.next (if_neg (tooEarly_of_past hpast))⟩
  case storage =>
    rintro s w op p a n l rfl rfl rfl
    have hargs : nvsArgs op = (_, _, _) := rfl
    have hpages := nvsRefusal_pages op hargs
    have hblocks := nvsRefusal_blocks op hargs
    generalize dInline op.bytes 0 1 = p at *
    generalize dInline op.bytes 4 4 = a at *
    generalize dInline op.bytes 8 4 = n at *
    refine ⟨fun c o hc h => ⟨fun h5 h6 => ?_, fun hp hend => ?_, fun hp hend hlen => ?_⟩, fun hp hend hlen => ⟨fun h r hr => ?_, fun h m hm => ?_⟩,
      fun h => ⟨fun h5 h6 => ?_, fun hp hend => ?_, fun hp hend m hm hmn => ?_⟩, fun h => ?_⟩
    · exact nvsPages_refused hc h (hpages.trans (if_pos ⟨h5, h6⟩))
    · exact nvsPages_refused hc h (by rw [hpages, if_neg (by omega), if_pos hend])
    · exact nvsPages_refused hc h (by rw [hpages, if_neg (by omega), if_neg (by omega), if_pos hlen])
    · rw [exec_nvsRead h hargs (nvsRefusal_pages_eq_none hargs hp hend hlen) hr]
      exact ⟨fun hbad => by rw [if_pos (by simpa using hbad)], fun hgood => by rw [if_neg (by simpa using hgood)]⟩
    · subst hm
      have hok := nvsRefusal_pages_eq_none hargs hp hend hlen
      exact ⟨fun hfull => (exec_nvsWrite h hargs hok).trans (congrArg _ (if_pos ((notErased_iff hargs).2 hfull))),
        fun hclean => ⟨_, exec_nvsWrite_erased h hargs hok hclean, storePages_rest rfl⟩⟩
    · exact exec_nvsErase_refused h (hblocks.trans (if_pos ⟨h5, h6⟩))
    · exact exec_nvsErase_refused h (by rw [hblocks, if_neg (by omega), if_pos hend])
    · subst hm
      exact ⟨_, exec_nvsErase h hargs (by rw [hblocks, if_neg (by omega), if_neg (by omega)]), eraseBlocks_rest hmn rfl⟩
    · rw [exec_nvsCounters h hargs]
      refine ⟨fun hp => by rw [if_pos hp], fun hp hend => ?_, fun hp hend hlen => ?_, fun hp hend hlen => ?_⟩
      · rw [if_neg (by omega), if_pos hend]
      · rw [if_neg (by omega), if_neg (by omega), if_pos hlen]
      · rw [if_neg (by omega), if_neg (by omega), if_neg (by omega)]
  case logRecord =>
    intro s c v o b
    rw [exec_logRecord]
    refine ⟨fun hc => by rw [if_pos hc], fun hlow hhigh => ?_⟩
    rw [if_neg (by omega)]
    obtain ⟨hoff, hinfo, henter⟩ := givenRec_log s c (v % 4) o (logBody b) s.tb.ang s.tb.pt (logBody_length_le b)
    refine ⟨_, rfl, Reports.givenRec .., by simp only [State.givenRec_frame], by simp only [State.givenRec_frame], hoff, hinfo,
      fun htake hpow hsev hroom => ?_⟩
    obtain ⟨hseq, r, hrecs, hrseq, hcode, hrsev, hsrc, hang, hpt, hfl, hsoft⟩ := henter htake hpow hsev hroom
    refine ⟨hseq, r, hrecs, hrseq, hcode, hrsev, hsrc, hang, hpt, hfl, fun hlow hhigh height => ?_⟩
    rw [hsoft, logBody_eq hlow hhigh, height]
    exact List.append_nil b
  case flush =>
    intro s
    rw [exec_recorderFlush]
    refine ⟨fun hbytes htime hsev => ?_, fun hdue hkept => ?_⟩
    · rw [if_neg]
      rw [flushDue_iff]
      rintro (h | h | ⟨r, hr, hfl, hge⟩)
      · omega
      · omega
      · exact absurd (hsev r hr hfl) (by omega)
    · obtain ⟨hall, -, hseq, l, hl⟩ := flushLog_facts s hkept
      exact ⟨_, by rw [if_pos ((flushDue_iff s).2 hdue)], by rw [hl], hall, hseq⟩
  case logWrite =>
    rintro s w op c v h rfl rfl
    rw [exec_logWrite h rfl]
    refine ⟨fun hbad => by rw [if_pos hbad], fun hlow hhigh hsev => ⟨fun hlen => ?_, fun hmin hmax => ?_⟩⟩
    · rw [if_neg (by omega), if_pos hlen]
    · rw [if_neg (by omega), if_neg (by omega)]
      obtain ⟨-, -, henter⟩ := givenRec_log s (dSubop op.bytes) (dInline op.bytes 0 1) 19 (s.buffer op) op.issuedAng op.issuedPt
        (by rwa [buffer_length])
      refine ⟨_, Reports.givenRec .., fun hsame => by rw [if_pos hsame], fun hnew => by rw [if_neg hnew], fun htake hpow hpos hroom => ?_⟩
      obtain ⟨hseq, -⟩ := henter htake hpow (by omega) hroom
      exact ⟨hseq, by rw [if_neg (by omega), hseq]⟩
  case logExport =>
    rintro s w op a b e h rfl rfl rfl
    exact ⟨fun hrange hmore hgone => exec_logExport_overtaken h (overtaken_iff.2 ⟨hrange, hmore, hgone⟩), exec_logExport_empty h,
      fun hrange hkept x b' hx => exec_logExport_rest h hrange hkept hx⟩
  case logClear =>
    intro s w op h
    refine ⟨exec_logClear_started h, fun hst => ⟨fun y c hj => ?_, fun z hj n hn => ?_⟩⟩
    · obtain ⟨u, hu, hsays⟩ := refuseClear_says (sigFail_says s y c) op (secReason c)
      exact ⟨u, (exec_logClear_badToken h hst hj).trans (congrArg _ hu), hsays⟩
    · subst hn
      have hcause := clearRefusal_eq s z
      refine ⟨fun r hr => ?_, fun hupto hnonce hexp => ?_⟩
      · obtain ⟨u, hu, hsays⟩ := refuseClear_says (Says.refl s) op r
        refine ⟨u, (exec_logClear_refused h hst hj ?_).trans (congrArg _ hu), hsays⟩
        rcases hr with ⟨rfl, hlt⟩ | ⟨rfl, hle, hused⟩ | ⟨rfl, hle, hused, hexp⟩
        · rw [hcause, if_pos hlt]
        · rw [hcause, if_neg (by omega), if_pos hused]
        · rw [hcause, if_neg (by omega), if_neg (by simp [hused]), if_pos hexp]
      · obtain ⟨u, hu, hsays⟩ := beginClear_says s op z
        refine ⟨u, hsays, ?_, removeUpto_facts _ _⟩
        rw [exec_logClear_accepted h hst hj (by rw [hcause, if_neg (by omega), if_neg (by simp [hnonce]), if_neg (by simp [hexp])]), hu]
        rfl

end Sys2Proof.Machine
end

section
/-! SUPPORT. Feeds, the hold-up bank, the power failure, insertion and the lever (02_module_power_and_insertion.md, R69 to R96). -/

namespace Sys2Proof.Machine

/-! Feeds. -/

/-- A feed that falls begins the ride-through when the other is gone too, at which a measurement stops (R76, R80, R83). -/
theorem PwrSt.feed_lost (p : PwrSt) (b : Bool) (v : Nat) : p.feed b v false =
    if b then { p with feedB := v, feedBOk := false, rideThrough := p.rideThrough || !p.feedAOk, charging := p.charging && p.feedAOk }
    else { p with feedA := v, feedAOk := false, rideThrough := p.rideThrough || !p.feedBOk, charging := p.charging && p.feedBOk } := by
  cases b <;> simp [PwrSt.feed]

/-- A feed that recovers before a power failure touches nothing but itself (R76). -/
theorem PwrSt.feed_restored {p : PwrSt} (b : Bool) (v : Nat) (hpf : p.pf = .idle) : p.feed b v true =
    if b then { p with feedB := v, feedBOk := true } else { p with feedA := v, feedAOk := true } := by
  cases b <;> simp [PwrSt.feed, hpf]

theorem feedLost_says {s : State} {b : Bool} {v : Nat} (hlow : v < 1800) (hgood : s.pwr.feedOk b = true) :
    ∃ t, exec (.feedLost b v) s = .next t ∧ Says { s with pwr := s.pwr.feed b v false } [(.feedLost, [ofBool b, v])] [107] t := by
  have hmod : v % 4096 = v := Nat.mod_eq_of_lt (by omega)
  refine ⟨_, ?_, ((Says.refl _).record .feedLost [ofBool b, v]).raise 107 (by decide)⟩
  show execFeedLost b v s = _
  unfold execFeedLost
  dsimp only
  rw [hmod, if_pos ⟨hgood, hlow⟩]

theorem feedRestored_says {s : State} {b : Bool} {v : Nat} (hhigh : 1900 < v) (hv : v < 4096) (hbad : s.pwr.feedOk b = false)
    (hpf : s.pwr.pf = .idle) :
    ∃ t, exec (.feedRestored b v) s = .next t ∧ Says { s with pwr := s.pwr.feed b v true } [(.feedRestored, [ofBool b, v])] [107] t := by
  refine ⟨_, ?_, ((Says.refl _).record .feedRestored [ofBool b, v]).raise 107 (by decide)⟩
  show execFeedRestored b v s = _
  unfold execFeedRestored
  dsimp only
  rw [Nat.mod_eq_of_lt hv, if_pos ⟨hbad, hhigh⟩, if_neg (by simp [hpf])]

/-! The hold-up bank. -/

theorem holdupGood_iff {volt cap : Nat} : holdupGood volt cap = true ↔ 3800 ≤ volt ∧ 540 ≤ cap := decide_eq_true_iff

theorem holdupGood_eq_false {volt cap : Nat} (h : volt < 3800 ∨ cap < 540) : holdupGood volt cap = false := by
  simp [holdupGood]
  omega

/-- The bank's voltage seen, HOLDUP_OK is judged on it and on the capacitance measured last (R79). -/
theorem bankAt_eq (s : State) {volt : Nat} (hv : volt < 4096) :
    s.bankAt volt = { s with pwr := { s.pwr with bankVolt := volt } }.setHoldup (holdupGood volt s.pwr.bankCap) := by
  unfold State.bankAt
  rw [Nat.mod_eq_of_lt hv]
  rfl

theorem setHoldup_same {s : State} {ok : Bool} (h : s.pwr.holdupOk = ok) : s.setHoldup ok = s := if_pos h

/-- A bank that fails in a mode which counts on it is a lost unit (R82). -/
theorem setHoldup_lost {s : State} (hok : s.pwr.holdupOk = true) (hmode : holdupModes s.sys.mode = true) :
    s.setHoldup false = ((({ s with pwr := { s.pwr with holdupOk := false } }.raise 107).record .holdupLost
      [s.pwr.bankVolt, s.pwr.bankCap]).loseUnit 22) := by
  unfold State.setHoldup
  rw [if_neg (by simp [hok])]
  dsimp only
  rw [if_neg (by simp), if_pos (by simpa using hmode), (Reports.raise _ 107).pwr]

theorem setHoldup_uncounted {s : State} (hok : s.pwr.holdupOk = true) (hmode : holdupModes s.sys.mode = false) :
    s.setHoldup false = { s with pwr := { s.pwr with holdupOk := false } }.raise 107 := by
  unfold State.setHoldup
  rw [if_neg (by simp [hok])]
  dsimp only
  rw [if_neg (by simp), if_neg (by simp [hmode])]

theorem setHoldup_restored {s : State} (hok : s.pwr.holdupOk = false) (hunit : s.unitUp 22 = false) :
    s.setHoldup true = (({ s with pwr := { s.pwr with holdupOk := true } }.raise 107).clearUnit 22).record .holdupRestored := by
  have hbit : bitOf s.sys.unitHealth 22 = true := unitUp_false.1 hunit
  unfold State.setHoldup
  rw [if_neg (by simp [hok])]
  dsimp only
  rw [if_pos rfl, if_pos (by simpa using hbit)]



/-- An entry into SAFE-HOLD for lost units leaves feeds and bank as they are: at most it refuses an extraction (R57, R94). -/
theorem safeIfLost_pwr {s : State} (hpend : s.sys.restartPend = none) :
    ∃ f e, s.safeIfLost.pwr = { s.pwr with pullFlash := f, extraction := e } := by
  unfold State.safeIfLost State.leaveControl
  split
  · split
    · next hmode =>
      exact (State.enterSafeHold_keeps (s := { s with wb := { s.wb with wdAlive := false } }) hpend
        (fun h : s.sys.mode = .safeHold => by simp [h] at hmode) _ _).2
    · exact ⟨_, _, rfl⟩
  · exact ⟨_, _, rfl⟩

/-- So does the loss of a unit. -/
theorem loseUnit_pwr {s : State} (hpend : s.sys.restartPend = none) (u : Nat) :
    ∃ f e, (s.loseUnit u).pwr = { s.pwr with pullFlash := f, extraction := e } := by
  have hsaid := ((Says.refl (s.setUnit u)).record .unitLost [u]).raise 108 (by decide)
  unfold State.loseUnit
  obtain ⟨f, e, h⟩ := safeIfLost_pwr (s := (((s.setUnit u).record .unitLost [u]).raise 108).planIfDegraded)
    (by rw [(State.planIfDegraded_frame _).1, hsaid.toReports.sys]; exact hpend)
  exact ⟨f, e, by rw [h, (State.planIfDegraded_frame _).2.1, hsaid.toReports.pwr]; rfl⟩

/-- However HOLDUP_OK is judged, the rest of the bank and the feeds stay as they are. -/
theorem setHoldup_pwr {s : State} (hpend : s.sys.restartPend = none) (ok : Bool) :
    ∃ f e, (s.setHoldup ok).pwr = { s.pwr with holdupOk := ok, pullFlash := f, extraction := e } := by
  by_cases hsame : s.pwr.holdupOk = ok
  · exact ⟨_, _, by rw [setHoldup_same hsame, ← hsame]⟩
  cases ok with
  | true =>
    have hclear : ∀ v : State, (v.clearUnit 22).pwr = v.pwr := fun _ => rfl
    refine ⟨_, _, show _ = { s.pwr with holdupOk := true } from ?_⟩
    unfold State.setHoldup
    rw [if_neg hsame, if_pos rfl]
    split
    · rw [(Reports.record _ _ _).pwr, hclear, (Reports.raise _ 107).pwr]
    · rw [(Reports.raise _ 107).pwr]
  | false =>
    have hok : s.pwr.holdupOk = true := by simpa using hsame
    cases hmode : holdupModes s.sys.mode with
    | true =>
      have hsaid := ((Says.refl { s with pwr := { s.pwr with holdupOk := false } }).raise 107 (by decide)).record .holdupLost
        [s.pwr.bankVolt, s.pwr.bankCap]
      rw [setHoldup_lost hok hmode]
      obtain ⟨f, e, h⟩ := loseUnit_pwr (s := State.record _ .holdupLost [s.pwr.bankVolt, s.pwr.bankCap])
        (by rw [hsaid.toReports.sys]; exact hpend) 22
      exact ⟨f, e, by rw [h, hsaid.toReports.pwr]⟩
    | false => exact ⟨_, _, by rw [setHoldup_uncounted hok hmode, (Reports.raise _ 107).pwr]⟩

theorem holdupMeasure_end {s : State} {volt cap : Nat} (hc : cap < 4096) (hride : s.pwr.rideThrough = false)
    (hpf : s.pwr.pf = .idle) (hcharging : s.pwr.charging = true) :
    exec (.holdupMeasure (some (volt, cap))) s = .next ({ s with pwr := { s.pwr with bankCap := cap, charging := false } }.bankAt volt) := by
  show execHoldupMeasure (some (volt, cap)) s = _
  unfold execHoldupMeasure
  dsimp only
  rw [if_neg (by simp [hride, hpf]), if_pos hcharging, Nat.mod_eq_of_lt hc]

/-- Settles O13: each command by its own rule; the bank's by what HOLDUP_OK takes and tells. -/
theorem feedsAndHoldupBank : Obligations.FeedsAndHoldupBank := by
  unfold Obligations.FeedsAndHoldupBank
  refine ⟨?lost, ?restored, ?begins, ?measured, ?bankLost, ?uncounted, ?bankRestored, ?same, ?dip⟩
  case lost =>
    intro s b v hlow hgood
    obtain ⟨t, hexec, hsays⟩ := feedLost_says (s := s) (b := b) hlow hgood
    exact ⟨t, hexec, by rwa [PwrSt.feed_lost] at hsays⟩
  case restored =>
    intro s b v hhigh hv hbad hpf
    obtain ⟨t, hexec, hsays⟩ := feedRestored_says (s := s) (b := b) hhigh hv hbad hpf
    exact ⟨t, hexec, by rwa [PwrSt.feed_restored b v hpf] at hsays⟩
  case begins => exact fun s hride hpf => congrArg Host.Outcome.next (if_neg (by simp [hride, hpf]))
  case measured =>
    intro s volt cap hv hc hride hpf hcharging hpend
    obtain ⟨f, e, h⟩ := setHoldup_pwr (s := { s with pwr := { s.pwr with bankCap := cap, charging := false, bankVolt := volt } })
      hpend (holdupGood volt cap)
    refine ⟨_, holdupMeasure_end hc hride hpf hcharging, ?_⟩
    rw [bankAt_eq _ hv, h]
    exact ⟨rfl, rfl, rfl, holdupGood_iff⟩
  case bankLost =>
    intro s volt hok hv hlow hmode hcontrol
    have hbad := holdupGood_eq_false hlow
    have hsaid := ((Says.refl { s with pwr := { s.pwr with bankVolt := volt, holdupOk := false } }).raise 107 (by decide)).record
      .holdupLost [volt, s.pwr.bankCap]
    have hunit := hsaid.upd (fun u => u.setUnit 22) (fun _ _ _ _ _ => rfl) rfl rfl
    refine ⟨_, congrArg Host.Outcome.next ((bankAt_eq s hv).trans ?_), hunit.trans (loseUnit_says _ 22 ?_ ?_)⟩
    · rw [hbad]
      exact setHoldup_lost hok (by simp [hmode, holdupModes])
    · rw [hsaid.toReports.mode]; simp [hmode]
    · rw [hsaid.toReports.unitHealth]; exact hcontrol
  case uncounted =>
    intro s volt hok hv hlow hmode
    refine ⟨_, congrArg Host.Outcome.next ((bankAt_eq s hv).trans ?_), (Says.refl _).raise 107 (by decide)⟩
    rw [holdupGood_eq_false hlow]
    exact setHoldup_uncounted hok hmode
  case bankRestored =>
    intro s volt hok hv hvolt hcap hunit
    refine ⟨_, congrArg Host.Outcome.next ((bankAt_eq s hv).trans ?_), (((Says.refl _).raise 107 (by decide)).upd
      (fun u => u.clearUnit 22) (fun _ _ _ _ _ => rfl) rfl rfl).record .holdupRestored []⟩
    rw [holdupGood_iff.2 ⟨hvolt, hcap⟩]
    exact setHoldup_restored hok hunit
  case same =>
    intro s volt hv hsame
    have hbank : s.bankAt volt = { s with pwr := { s.pwr with bankVolt := volt } } :=
      (bankAt_eq s hv).trans (setHoldup_same (Bool.eq_iff_iff.2 (hsame.trans holdupGood_iff.symm)))
    exact ⟨congrArg Host.Outcome.next hbank, congrArg Host.Outcome.next hbank⟩
  case dip =>
    intro s dip hride hpf
    exact ⟨_, congrArg Host.Outcome.next ((if_neg (by simp [hride, hpf])).trans (if_pos rfl)), (Says.refl _).record .feedDip [dip]⟩

/-! Events, the lease and the host link, as later proofs follow them. -/

/-- An event source that is told is pending. -/
theorem Says.told {u t : State} {rs : List (RecName × List Nat)} {es : List Nat} (h : Says u rs es t) {k : Nat} (hk : k ∈ es) :
    t.isPending k = true := by
  rw [h.events, Bool.or_eq_true]
  exact .inr (List.any_eq_true.2 ⟨k, hk, decide_eq_true rfl⟩)

theorem endLease_fenced (s : State) : s.endLease.wb.fenced = s.wb.fenced := by
  unfold State.endLease
  split
  · rfl
  · rw [(Reports.raise _ 64).wb]

theorem endLease_pends {s : State} {k : Nat} (h : s.isPending k = true) : s.endLease.isPending k = true := by
  unfold State.endLease
  split
  · exact h
  · exact raise_mono _ _ _ h

/-- The host port has no link afterwards; its event source is told if it had one. -/
theorem hostOff_link (s : State) : s.hostOff.evt.hostLink = false := by
  unfold State.hostOff
  split
  · exact (Reports.raise _ 101).host.2
  · next hlink => exact (Bool.not_eq_true _).mp hlink

theorem hostOff_frame (s : State) : s.hostOff.sys = s.sys ∧ s.hostOff.pwr = s.pwr ∧ s.hostOff.wb = s.wb ∧ s.hostOff.prg = s.prg := by
  unfold State.hostOff
  split
  · simp only [State.raise_frame, and_self]
  · exact ⟨rfl, rfl, rfl, rfl⟩

theorem hostOff_pends {s : State} {k : Nat} (h : s.isPending k = true) : s.hostOff.isPending k = true := by
  unfold State.hostOff
  split
  · exact raise_mono _ _ _ h
  · exact h

/-! The power failure. -/

/-- What a declared power failure leaves: the domains of t2 and t3, no lease, the fence low, the program stopped and the pins harmless
(table Power-fail sequence). -/
structure PowerFailed (s t : State) : Prop where
  pwr : t.pwr = { s.pwr with pf := .declared, charging := false, feedReturned := s.pwr.feedAOk || s.pwr.feedBOk }
  domains : t.sys.domains = Nat.land s.sys.domains 0x43
  mode : t.sys.mode = s.sys.mode
  stopped : t.prg.runState = 0
  told : t.isPending 107 = true
  lease : t.wb.lease = .none
  fence : t.wb.fenced = true
  link : t.evt.hostLink = false
  outputs : ∀ d ∈ t.dio.dos, d.cmd = false

/-- The module drops its fence and its lease, tells the partner, and cuts the host's link. -/
def State.cutOff (s : State) : State :=
  let s := (s.dropFence).endLease
  (s.sendWb (.powerFail s.wb.jsn)).hostOff

theorem cutOff_frame (s : State) : s.cutOff.sys = s.sys ∧ s.cutOff.pwr = s.pwr ∧ s.cutOff.prg = s.prg := by
  unfold State.cutOff
  simp only [hostOff_frame, State.sendWb_frame, State.endLease_frame, State.dropFence_frame, and_self]

theorem cutOff_wb (s : State) : s.cutOff.wb.lease = .none ∧ s.cutOff.wb.fenced = true := by
  unfold State.cutOff
  simp only [hostOff_frame, State.sendWb_frame, endLease_fenced, (State.endLease_facts _).1, (State.dropFence_wb s).1, and_self]

theorem cutOff_pends {s : State} {k : Nat} (h : s.isPending k = true) : s.cutOff.isPending k = true := by
  have hdrop : s.dropFence.isPending k = true := by simpa only [State.isPending, State.dropFence_frame] using h
  refine hostOff_pends ?_
  simpa only [State.isPending, State.sendWb_frame] using endLease_pends hdrop

theorem declarePf_powerFailed {s : State} (hpf : s.pwr.pf = .idle) : PowerFailed s s.declarePf := by
  have hsaid := ((Says.refl s).record .powerFail [s.pwr.feedA, s.pwr.feedB]).raise 107 (by decide)
  unfold State.declarePf
  rw [if_neg (by simp [hpf])]
  dsimp only
  generalize (s.record .powerFail [s.pwr.feedA, s.pwr.feedB]).raise 107 = r at hsaid
  generalize ha : ({ r with pwr := _, prg := _ } : State) = a
  have hpwr : a.pwr = { s.pwr with pf := .declared, charging := false, feedReturned := s.pwr.feedAOk || s.pwr.feedBOk } := by
    rw [← ha, ← hsaid.toReports.pwr]
  have hsys : a.sys.mode = s.sys.mode ∧ a.sys.domains = s.sys.domains := by
    rw [← ha]
    exact ⟨hsaid.toReports.mode, hsaid.toReports.domains⟩
  have hrun : a.prg.runState = 0 := by rw [← ha]
  have htold : a.isPending 107 = true := by
    rw [← ha]
    exact hsaid.told (by simp)
  clear ha hsaid
  obtain ⟨hcsys, hcpwr, hcprg⟩ := cutOff_frame a
  exact {
    pwr := hcpwr.trans hpwr
    domains := congrArg (Nat.land · 0x43) ((congrArg SysSt.domains hcsys).trans hsys.2)
    mode := (congrArg SysSt.mode hcsys).trans hsys.1
    stopped := (congrArg PrgSt.runState hcprg).trans hrun
    told := cutOff_pends htold
    lease := (cutOff_wb a).1
    fence := (cutOff_wb a).2
    link := hostOff_link _
    outputs := fun d hd => by
      obtain ⟨x, -, rfl⟩ := List.mem_map.1 hd
      rfl }

/-! The flush at the end of a power failure, and what follows it. -/

/-- A flush changes no mode (R557). -/
theorem flushLog_mode (s : State) : s.flushLog.sys.mode = s.sys.mode := by
  unfold State.flushLog
  dsimp only
  split
  · rw [(Reports.raise _ 119).mode, (Reports.record _ _ _).mode]
  · rfl

theorem flushAll_mode (s : State) : s.flushAll.sys.mode = s.sys.mode := (flushLog_mode _).trans (flushLog_mode s)

/-- With no record dropped every record stands in NAND after the flush (R95, R557). -/
theorem flushAll_flushed {s : State} (hkept : s.log.dropped = false) : ∀ r ∈ s.flushAll.log.recs, r.flushed = true :=
  (flushLog_facts s.flushLog (flushLog_facts s hkept).2.1).1

/-- The state in which a declared power failure has been written to NAND (table Power-fail sequence t4). -/
def State.flushedDown (s : State) : State :=
  { s.flushAll with wb := { s.flushAll.wb with flushMarker := true, unwritten := 0 }, log := { s.flushAll.log with taking := false } }

theorem flushedDown_pwr (s : State) : s.flushedDown.pwr = s.pwr := (State.flushAll_frame s).1

theorem exec_powerFailFlushDone {s : State} (hpf : s.pwr.pf = .declared) :
    exec .powerFailFlushDone s = .next (if s.pwr.feedReturned = true ∧ s.canRestart = true then s.flushedDown.restart 2
      else s.flushedDown.powerDown) := by
  have hback : s.flushedDown.canRestart = s.canRestart := by simp only [State.canRestart, flushedDown_pwr]
  refine congrArg Host.Outcome.next ((if_neg (by simp [hpf])).trans ?_)
  show (if s.flushedDown.pwr.feedReturned = true ∧ s.flushedDown.canRestart = true then s.flushedDown.restart 2 else _) = _
  rw [hback, flushedDown_pwr]
  rfl

/-- The clear that a power loss interrupts leaves flushed records alone in the log (R566). -/
theorem afterRestart_flushed (s : State) (c : Nat) : ∀ r ∈ (s.afterRestart c).log.recs, r.flushed = true := by
  intro r hr
  exact (List.mem_filter.1 (List.mem_filter.1 hr).1).2

/-! Insertion. -/

/-- The module with its straps read: the slot, whether they were at fault, and CARRIER_ID (R69, R70). -/
def State.strapped (s : State) (slotB fault : Bool) (c : Nat) : State :=
  { s with pwr := { s.pwr with slotB := slotB, strapFault := fault, carrierId := c, charging := !s.pwr.pullOk, strapsRead := true } }

/-- Straps that differ name the slot by SEL_A; BOOT begins unless the lever is open (R69, R94). -/
theorem exec_strapRead_differ {s : State} {a b : Bool} {c : Nat} (hmode : s.sys.mode = .inserted) (hunread : s.pwr.strapsRead = false)
    (hdiffer : a ≠ b) (hc : c < 256) :
    exec (.strapRead a b c) s = .next (if s.pwr.pullOk = true then s.strapped a false c else (s.strapped a false c).beginBoot) := by
  have hslot : (a && !b) = a := by revert a b; decide
  show execStrapRead a b c s = _
  unfold execStrapRead
  dsimp only
  rw [if_neg (by simp [hmode, hunread]), if_neg hdiffer, hslot, beq_false_of_ne hdiffer, Nat.mod_eq_of_lt hc]
  rfl

/-- The module with equal straps, in the domains of QUARANTINE. -/
def State.strapsAtFault (s : State) (c : Nat) : State :=
  { s.strapped false true (c % 256) with sys := { s.sys with domains := modeDomains .quarantine } }

theorem exec_strapRead_equal {s : State} (hmode : s.sys.mode = .inserted) (hunread : s.pwr.strapsRead = false) (a : Bool) (c : Nat) :
    exec (.strapRead a a c) s = .next ((s.strapsAtFault c).enterQuarantine .strapFault).afterSettle := by
  refine congrArg Host.Outcome.next ((if_neg (by simp [hmode, hunread])).trans ((if_pos rfl).trans ?_))
  rw [Bool.and_not_self, beq_self_eq_true]
  rfl

/-- BOOT begins in its own domains, with the straps as read; a restart on the feed that ended a power failure has cause 2 (R69, R87). -/
theorem beginBoot_facts {s : State} (hmode : s.sys.mode ≠ .boot) : s.beginBoot.sys.mode = .boot ∧ s.beginBoot.sys.domains = modeDomains .boot ∧
    s.beginBoot.pwr.slotB = s.pwr.slotB ∧ s.beginBoot.pwr.strapFault = s.pwr.strapFault ∧ s.beginBoot.pwr.carrierId = s.pwr.carrierId ∧
    s.beginBoot.pwr.strapsRead = s.pwr.strapsRead ∧ (s.pwr.pf = .flushed → s.beginBoot.sys.resetCause = 2) := by
  by_cases hpf : s.pwr.pf = .flushed
  · rw [State.beginBoot, if_pos hpf]
    obtain ⟨hboot, hcause, -, -, hdomains⟩ := s.restart_facts 2
    rw [(s.restart_keeps 2).1]
    exact ⟨hboot, hdomains, rfl, rfl, rfl, rfl, fun _ => hcause⟩
  · have hreports := ((s.setMode .boot).tellRtcLost_reports).trans (Reports.record _ .restartRec [(s.setMode .boot).tellRtcLost.sys.resetCause])
    obtain ⟨hboot, -, hdomains, -⟩ := State.setMode_sys hmode 0
    rw [State.beginBoot, if_neg hpf]
    dsimp only
    rw [hreports.mode, hreports.domains, hreports.pwr]
    simp only [State.setMode_frame, true_and]
    exact ⟨hboot, hdomains, fun h => absurd h hpf⟩

theorem setMode_restartPend (s : State) (m : Mode) (c : Nat) : (s.setMode m c).sys.restartPend = s.sys.restartPend := by
  by_cases h : s.sys.mode = m
  · unfold State.setMode
    rw [if_pos h]
  · obtain ⟨-, -, -, -, -, -, -, -, -, hpend, -⟩ := State.setMode_sys h c
    exact hpend

theorem enterQuarantine_restartPend (s : State) (n : RecName) (args : List Nat) : (s.enterQuarantine n args).sys.restartPend = s.sys.restartPend := by
  unfold State.enterQuarantine
  rw [setMode_restartPend, (State.endLease_facts _).2.2, State.record_sys]

/-- In QUARANTINE nothing waited for the mode to be settled, while no restart waits and the lever is latched. -/
theorem enterQuarantine_afterSettle {s : State} (hpend : s.sys.restartPend = none) (heject : s.pwr.ejectReq = false) (n : RecName) (args : List Nat) :
    (s.enterQuarantine n args).afterSettle = s.enterQuarantine n args :=
  afterSettle_id ((enterQuarantine_restartPend s n args).trans hpend) (by simpa only [State.enterQuarantine_frame] using heject)

/-- Settles O14: what a declared power failure leaves, how its flush ends, and the three ways out of a strap reading. -/
theorem powerFailAndInsertion : Obligations.PowerFailAndInsertion := by
  unfold Obligations.PowerFailAndInsertion
  refine ⟨?fails, ?pulled, ?pulledInService, ?down, ?restarts, ?inserted, ?boots, ?leverOpen, ?strapsEqual, ?once⟩
  case fails =>
    intro s dip hride hpf
    have h := declarePf_powerFailed hpf
    have hexec : exec (.powerFail false dip) s = .next s.declarePf :=
      congrArg Host.Outcome.next ((if_neg (by simp [hride, hpf])).trans (if_neg (by decide)))
    exact ⟨_, hexec, by rw [h.pwr], h.domains, h.stopped, h.told, h.mode, h.lease, h.fence, by rw [h.pwr], h.link, h.outputs⟩
  case pulled =>
    intro s hservice hquarantine hpf
    have h := declarePf_powerFailed (s := { s with pwr := { s.pwr with seated := false, hotSwap := false, strapsRead := false } }) hpf
    exact ⟨_, congrArg Host.Outcome.next (if_neg (by simp [hservice, hquarantine])), by rw [h.pwr], by rw [h.pwr], by rw [h.pwr], by rw [h.pwr],
      h.domains, h.lease, h.fence⟩
  case pulledInService => exact fun s hmode => congrArg Host.Outcome.next (if_pos hmode)
  case down =>
    intro s hpf hstays
    refine ⟨_, (exec_powerFailFlushDone hpf).trans (congrArg _ (if_neg ?_)), rfl, rfl, rfl, rfl, rfl, rfl, rfl,
      fun _ => afterRestart_flushed s.flushedDown s.flushedDown.sys.resetCause⟩
    rcases hstays with h | h <;> simp [h]
  case restarts =>
    intro s hpf hreturned hrestart
    obtain ⟨hboot, hcause, -⟩ := s.flushedDown.restart_facts 2
    obtain ⟨hpwr, hmarker, -⟩ := s.flushedDown.restart_keeps 2
    exact ⟨_, (exec_powerFailFlushDone hpf).trans (congrArg _ (if_pos ⟨hreturned, hrestart⟩)), hboot, hcause, by rw [hpwr]; rfl, hmarker⟩
  case inserted =>
    intro s mv hseated hpf
    refine ⟨_, congrArg Host.Outcome.next ((if_neg (by simp [hseated])).trans (if_neg hpf)), ?_, ?_, ?_, State.setMode_mode ..⟩ <;>
      simp only [State.setMode_frame, decide_eq_true_eq]
  case boots =>
    intro s a b c hmode hunread hpull hdiffer hc
    have hexec := exec_strapRead_differ hmode hunread hdiffer hc
    rw [if_neg (by simp [hpull])] at hexec
    obtain ⟨hboot, hdomains, hslot, hfault, hcarrier, hread, hcause⟩ := beginBoot_facts (s := s.strapped a false c)
      (fun h : s.sys.mode = .boot => by simp [hmode] at h)
    exact ⟨_, hexec, hboot, hslot, hfault, hcarrier, hread, hdomains, hcause⟩
  case leverOpen =>
    intro s a b c hmode hunread hpull hdiffer hc
    rw [exec_strapRead_differ hmode hunread hdiffer hc, if_pos hpull, State.strapped, hpull]
    rfl
  case strapsEqual =>
    intro s a c hmode hunread hpend heject
    obtain ⟨hquarantine, -, hfence, -⟩ := enterQuarantine_facts (s := s.strapsAtFault c)
      (fun h : s.sys.mode = .quarantine => by simp [hmode] at h) .strapFault []
    rw [exec_strapRead_equal hmode hunread, enterQuarantine_afterSettle (s := s.strapsAtFault c) hpend heject]
    exact ⟨_, rfl, hquarantine, by rw [(State.enterQuarantine_frame _ _ _).1]; rfl, hfence⟩
  case once => exact fun s a b c hread => congrArg Host.Outcome.next (if_pos (.inr hread))

/-! The lever. -/

theorem exec_ejectReq {s : State} (hlatched : s.pwr.ejectReq = false) :
    exec .ejectReq s = .next ({ s with pwr := { s.pwr with ejectReq := true } }.raise 107).actExtraction :=
  congrArg Host.Outcome.next (if_neg (by simp [hlatched]))

/-- The lever is at its first detent: EJECT_REQ stands and event 107 is told (R94). -/
theorem leverOut_says (s : State) : Says { s with pwr := { s.pwr with ejectReq := true } } [] [107]
    ({ s with pwr := { s.pwr with ejectReq := true } }.raise 107) :=
  (Says.refl _).raise 107 (by decide)

theorem actExtraction_inserted {s : State} (hmode : s.sys.mode = .inserted) :
    s.actExtraction = { s with pwr := { s.pwr with extraction := true, pullOk := true } } := by
  unfold State.actExtraction
  rw [hmode]

theorem actExtraction_refused {s : State} (hmode : s.sys.mode = .solo ∨ s.sys.mode = .cocoon ∨ s.sys.mode = .safeHold) :
    s.actExtraction = s.refuseExtract := by
  unfold State.actExtraction
  rcases hmode with h | h | h <;> rw [h]

theorem actExtraction_active {s : State} (hmode : s.sys.mode = .active) (hpartner : s.partnerStandby = true) (hidle : s.wb.ho = .idle) :
    s.actExtraction = { s with pwr := { s.pwr with extraction := true }, wb := { s.wb with ho := .planned } } := by
  unfold State.actExtraction
  rw [hmode]
  dsimp only
  rw [if_pos hpartner, if_pos hidle]

theorem actExtraction_service {s : State}
    (hmode : s.sys.mode = .standby ∨ s.sys.mode = .update ∨ s.sys.mode = .sync ∨ s.sys.mode = .quarantine) :
    s.actExtraction = { s with pwr := { s.pwr with extraction := true } }.enterService := by
  unfold State.actExtraction
  rcases hmode with h | h | h | h <;> rw [h]

/-- SERVICE entered after reports: no lease, the fence low, the lever as it was, and what was told still pending. -/
theorem enterService_of_says {u t : State} {rs : List (RecName × List Nat)} {es : List Nat} (h : Says u rs es t) (hmode : u.sys.mode ≠ .service) :
    t.enterService.sys.mode = .service ∧ t.enterService.wb.lease = .none ∧ t.enterService.wb.fenced = true ∧ t.enterService.pwr = u.pwr ∧
    ∀ k ∈ es, t.enterService.isPending k = true := by
  obtain ⟨hservice, hlease, hfence⟩ := State.enterService_facts (s := t) (by rwa [h.toReports.mode]) 0
  refine ⟨hservice, hlease, hfence, ?_, fun k hk => ?_⟩ <;> unfold State.enterService
  · simp only [State.setMode_frame, State.endLease_frame, h.toReports.pwr]
  · rw [setMode_pending]
    exact endLease_pends (h.told hk)

/-- Settles O15: what the module does about its lever in each mode, and how a lever latched again ends it. -/
theorem leverAndExtraction : Obligations.LeverAndExtraction := by
  unfold Obligations.LeverAndExtraction
  refine ⟨?inserted, ?refused, ?active, ?leaves, ?pullOk, ?takesBackRefusal, ?takesBack, ?waits, ?restarts⟩
  case inserted =>
    intro s hlatched hmode
    have hout := leverOut_says s
    rw [exec_ejectReq hlatched, actExtraction_inserted (hout.toReports.mode.trans hmode)]
    exact ⟨_, rfl, hout.upd (fun u => { u with pwr := { u.pwr with extraction := true, pullOk := true } }) (fun _ _ _ _ _ => rfl) rfl rfl⟩
  case refused =>
    intro s hlatched hmode
    have hout := leverOut_says s
    rw [exec_ejectReq hlatched, actExtraction_refused (by rwa [hout.toReports.mode]), State.refuseExtract, hout.toReports.mode]
    exact ⟨_, rfl, (hout.upd (fun u => { u with pwr := { u.pwr with pullFlash := true, extraction := false } }) (fun _ _ _ _ _ => rfl)
      rfl rfl).record .extractRefused [s.sys.mode.code]⟩
  case active =>
    intro s hlatched hmode hpartner hidle
    have hout := leverOut_says s
    have hwb := hout.toReports.wb
    rw [exec_ejectReq hlatched, actExtraction_active (hout.toReports.mode.trans hmode)
      (by simpa only [State.partnerStandby, State.partnerMode, hwb] using hpartner) (by rw [hwb]; exact hidle)]
    exact ⟨_, rfl, hout.upd (fun u => { u with pwr := { u.pwr with extraction := true }, wb := { u.wb with ho := .planned } })
      (fun _ _ _ _ _ => rfl) rfl rfl⟩
  case leaves =>
    intro s hlatched hmode
    have hout := leverOut_says s
    rw [exec_ejectReq hlatched, actExtraction_service (by rwa [hout.toReports.mode])]
    obtain ⟨hservice, hlease, hfence, hpwr, htold⟩ := enterService_of_says
      (hout.upd (fun u => { u with pwr := { u.pwr with extraction := true } }) (fun _ _ _ _ _ => rfl) rfl rfl)
      (fun h : s.sys.mode = .service => by simp [h] at hmode)
    exact ⟨_, rfl, hservice, by rw [hpwr], by rw [hpwr], hfence, hlease, htold 107 (by simp)⟩
  case pullOk =>
    intro s heject hextraction hmode
    refine ⟨_, congrArg Host.Outcome.next (if_pos ⟨heject, hextraction, hmode⟩), ?_, (flushAll_mode s).trans hmode, ?_, ?_,
      flushAll_flushed⟩ <;> simp only [State.flushAll_frame]
  case takesBackRefusal =>
    exact fun s heject hrefused => congrArg Host.Outcome.next ((if_neg (by simp [heject])).trans (if_pos hrefused))
  case takesBack =>
    intro s heject hextraction hmode hunread hpf
    exact congrArg Host.Outcome.next ((if_neg (by simp [heject])).trans ((if_neg (by simp [hextraction])).trans
      ((if_pos ⟨hmode, .inl hunread⟩).trans (if_neg fun h => hpf h.1))))
  case waits =>
    intro s heject hextraction hmode hunderway
    exact congrArg Host.Outcome.next ((if_neg (by simp [heject])).trans ((if_neg (by simp [hextraction])).trans
      ((if_neg fun h => hmode h.1).trans (if_pos hunderway))))
  case restarts =>
    intro s heject hextraction hhandover hidle hplace
    have hbegun : ¬ (s.sys.mode = .inserted ∧ (s.pwr.strapsRead = false ∨ s.pwr.pf = .flushed)) := by
      rintro ⟨hin, hunread | hflushed⟩ <;> obtain hout | ⟨hread, hpf⟩ := hplace
      · exact hout hin
      · simp [hread] at hunread
      · exact hout hin
      · exact hpf hflushed
    have hexec : exec .leverReturn s = .next ({ s with pwr := { s.pwr with ejectReq := false } }.restart 3) :=
      congrArg Host.Outcome.next ((if_neg (by simp [heject])).trans ((if_neg (by simp [hextraction])).trans
        ((if_neg hbegun).trans (if_neg (by simp [hhandover, hidle])))))
    obtain ⟨hboot, hcause, hfence, -⟩ := State.restart_facts { s with pwr := { s.pwr with ejectReq := false } } 3
    exact ⟨_, hexec, hboot, hcause, by rw [(State.restart_keeps _ 3).1]; rfl, hfence⟩

end Sys2Proof.Machine
end

section
/-! SUPPORT. Heartbeats, HELLO and the messages of the partner (05_pair_operation.md, R196 to R201, R217, R218, R230, R250). -/

namespace Sys2Proof.Machine

/-! Messages of the partner. -/

/-- A message that fails its CRC, comes with no lane up or carries a lower generation changes nothing (R197, R217). -/
theorem fromPartner_dropped {s : State} {ok : Bool} {g : Nat} (h : ok = false ∨ s.wbUp = false ∨ g < s.wb.gen) (f : State → State) :
    s.fromPartner ok g f = .next s := by
  unfold State.fromPartner
  rw [if_pos]
  rcases h with h | h | h <;> simp [h]

/-- A message that is taken makes its generation the highest one seen (R217). -/
theorem fromPartner_taken {s : State} {g : Nat} (hup : s.wbUp = true) (hgen : s.wb.gen ≤ g) (f : State → State) :
    s.fromPartner true g f = .next (f { s with wb := { s.wb with gen := g } }) := by
  unfold State.fromPartner State.seeGen
  rw [if_neg (by simp [hup, Nat.not_lt.2 hgen]), Nat.max_eq_right hgen]

/-- A message of the present generation leaves the highest one seen as it is. -/
theorem fromPartner_present {s : State} (hup : s.wbUp = true) (f : State → State) : s.fromPartner true s.wb.gen f = .next (f s) :=
  fromPartner_taken hup (Nat.le_refl _) f

/-! HEARTBEAT. -/

/-- The state in which the module acts on a valid HEARTBEAT: it is kept, and told where it shows another mode (R196). -/
def State.heardTold (s : State) (hb : HbBody) : State :=
  if s.wb.partner.heard = false ∨ s.wb.partner.hb.mode ≠ hb.mode then (s.heardBy hb).raise 65 else s.heardBy hb

theorem exec_heartbeatRx {s : State} {hb : HbBody} (hon : s.lanesOn = true) (hgen : s.wb.gen ≤ hb.gen) :
    exec (.heartbeatRx true hb) s = .next ((s.heardTold hb).heardPartner hb) := heartbeatRx_eq hon hgen

theorem heardTold_reports (s : State) (hb : HbBody) : Reports (s.heardBy hb) (s.heardTold hb) := by
  unfold State.heardTold
  split
  · exact Reports.raise _ 65
  · exact Reports.refl _

theorem heardTold_says {s : State} {hb : HbBody} (hheard : s.wb.partner.heard = true) :
    Says (s.heardBy hb) [] (if s.wb.partner.hb.mode = hb.mode then [] else [65]) (s.heardTold hb) := by
  unfold State.heardTold
  by_cases hmode : s.wb.partner.hb.mode = hb.mode
  · rw [if_pos hmode, if_neg (by simp [hheard, hmode])]
    exact Says.refl _
  · rw [if_neg hmode, if_pos (.inr hmode)]
    exact (Says.refl _).raise 65 (by decide)

theorem heardTold_mode (s : State) (hb : HbBody) : (s.heardTold hb).sys.mode = s.sys.mode := (heardTold_reports s hb).mode

theorem heardTold_cycle (s : State) (hb : HbBody) : (s.heardTold hb).wb.cycle = s.wb.cycle := by rw [(heardTold_reports s hb).wb]; rfl

/-- What a valid HEARTBEAT of a partner heard before keeps, with the holder as the state then names it. -/
theorem heardBy_eq {s t : State} {hb : HbBody} (hheard : s.wb.partner.heard = true) (ht : t.wb = (s.heardBy hb).wb) :
    s.heardBy hb = { s with wb := { s.wb with gen := hb.gen, missedHb := 0, partner := { s.wb.partner with heardAt := s.tb.csr, hb := hb },
                                              holderB := t.wb.holderB, holderValid := t.wb.holderValid } } := by
  rw [ht, State.heardBy, ← hheard]

/-- Heard from the holder, a module that holds no lease notes which slot holds it. -/
theorem heardBy_holder {s : State} {hb : HbBody} (hheld : hb.lease = .held) (hfree : s.holds = false) :
    (s.heardBy hb).wb.holderB = !s.pwr.slotB ∧ (s.heardBy hb).wb.holderValid = true := by
  simp [State.heardBy, hheld, hfree]

/-- A module that follows, or hands over, does no more on a HEARTBEAT of a partner that keeps on. -/
theorem heardPartner_quiet {s : State} {hb : HbBody} (h : s.sys.mode = .sync ∨ s.sys.mode = .update ∨ s.sys.mode = .handover ∨
    s.sys.mode = .standby ∧ hb.mode ≠ .safeHold ∧ hb.cocoonReq = false ∧ hb.cycle < s.wb.cycle + 2) : s.heardPartner hb = s := by
  unfold State.heardPartner
  rcases h with h | h | h | ⟨h, hmode, hcocoon, hcycle⟩ <;> rw [h]
  dsimp only
  rw [if_neg (by simp [hmode]), if_neg (by simp [hcocoon]), if_neg (by omega)]

/-- A standby that the holder has left behind by a whole cycle resynchronises (R201). -/
theorem heardPartner_behind {s : State} {hb : HbBody} (hstandby : s.sys.mode = .standby) (hheld : hb.lease = .held) (hmode : hb.mode ≠ .safeHold)
    (hcocoon : hb.cocoonReq = false) (hcycle : s.wb.cycle + 2 ≤ hb.cycle) : s.heardPartner hb = s.enterSync (recCodeOf .followLag) := by
  unfold State.heardPartner
  rw [hstandby]
  dsimp only
  rw [if_neg (by simp [hmode]), if_neg (by simp [hcocoon]), if_pos ⟨by simp [hheld], hcycle⟩]

/-- A standby whose partner stopped at its own overrun follows it into SAFE-HOLD (R250). -/
theorem heardPartner_overrun {s : State} {hb : HbBody} (hstandby : s.sys.mode = .standby) (hmode : hb.mode = .safeHold)
    (hcause : hb.safeHoldCause = 1) : s.heardPartner hb = s.enterSafeHold 2 (recCodeOf .taskOverrun) := by
  unfold State.heardPartner
  rw [hstandby]
  dsimp only
  rw [if_pos ⟨hmode, .inl hcause⟩]

/-- The first HEARTBEAT missed is counted, and no more (R196). -/
theorem heartbeatMissed_first {s : State} (hheard : s.wb.partner.heard = true) (hmissed : s.wb.missedHb = 0) :
    exec .heartbeatMissed s = .next { s with wb := { s.wb with missedHb := 1 } } := by
  show execHeartbeatMissed s = _
  unfold execHeartbeatMissed
  rw [if_neg (by simp [hheard]), hmissed]
  rfl

/-- The second miss is told before the module acts on it by its mode (R196, R218). -/
def State.missedTwice (s : State) : State := { s with wb := { s.wb with missedHb := 2 } }.raise 65

theorem missedTwice_says (s : State) : Says { s with wb := { s.wb with missedHb := 2 } } [] [65] s.missedTwice :=
  (Says.refl _).raise 65 (by decide)

/-- In SYNC the silence of a partner that held the lease breaks the guarantee (R250). -/
theorem heartbeatMissed_sync {s : State} (hheard : s.wb.partner.heard = true) (hmissed : s.wb.missedHb = 1) (hmode : s.sys.mode = .sync)
    (hheld : s.wb.partner.hb.lease = .held) : exec .heartbeatMissed s = .next (s.missedTwice.guaranteeBroken []) := by
  have hholds : s.partnerHolds = true := by simp [State.partnerHolds, State.partnerMode, hheard, hmissed, hheld]
  show execHeartbeatMissed s = _
  unfold execHeartbeatMissed
  rw [if_neg (by simp [hheard]), hmissed, show satAt 255 (1 + 1) = 2 from rfl]
  dsimp only
  rw [if_pos rfl, if_neg (by decide)]
  simp only [State.raise_frame, hmode]
  exact congrArg Host.Outcome.next (if_pos ⟨trivial, hholds⟩)

/-- In STANDBY it makes the module ask for the lease (R218). -/
theorem heartbeatMissed_standby {s : State} (hheard : s.wb.partner.heard = true) (hmissed : s.wb.missedHb = 1) (hmode : s.sys.mode = .standby) :
    exec .heartbeatMissed s = .next s.missedTwice.askTakeover := by
  have hmisses : s.missedTwice.missesPartner = true := by
    rw [State.missesPartner, (missedTwice_says s).toReports.wb]
    rfl
  show execHeartbeatMissed s = _
  unfold execHeartbeatMissed
  rw [if_neg (by simp [hheard]), hmissed, show satAt 255 (1 + 1) = 2 from rfl]
  dsimp only
  rw [if_pos rfl, if_neg (by decide)]
  simp only [State.raise_frame, hmode]
  exact congrArg Host.Outcome.next (if_pos ⟨trivial, hmisses⟩)

/-! HELLO. -/

/-- The partner's HELLO as it is kept (table Wingbeat messages). -/
def State.heardHello (s : State) (g : Nat) (h : HelloBody) : State :=
  { s with wb := { s.wb with gen := g, partner := { s.wb.partner with hello := some h }, proto := min s.helloBody.proto h.proto } }

theorem exec_helloRx {s : State} {g : Nat} (hup : s.wbUp = true) (hgen : s.wb.gen ≤ g) (h : HelloBody) :
    exec (.helloRx true g h) s = .next (if s.sys.mode = .sync then (s.heardHello g h).judgeHello h
      else if s.holds = true ∧ s.partnerMode = some .sync ∧ h.carrierId ≠ s.pwr.carrierId then
        (s.heardHello g h).record .carrierMismatch [s.pwr.carrierId, h.carrierId]
      else s.heardHello g h) := by
  show execHelloRx true g h s = _
  unfold execHelloRx
  rw [fromPartner_taken hup hgen]
  rfl

/-- A foreign carrier or an incompatible partner ends in QUARANTINE (R71, R584, R585). -/
theorem judgeHello_foreign {s : State} {h : HelloBody} (hforeign : h.carrierId ≠ s.pwr.carrierId ∨ helloCompatible s.helloBody h = false) :
    ∃ n args, s.judgeHello h = s.enterQuarantine n args := by
  by_cases hcarrier : h.carrierId ≠ s.pwr.carrierId
  · exact ⟨_, _, if_pos hcarrier⟩
  · exact ⟨_, _, (if_neg hcarrier).trans (if_pos (by simp [hforeign.resolve_left hcarrier]))⟩

/-- Settles O30: a message of the partner is taken or dropped once for all types; HEARTBEAT, its absence and HELLO act by the module's mode. -/
theorem heartbeatsAndHello : Obligations.HeartbeatsAndHello := by
  unfold Obligations.HeartbeatsAndHello
  refine ⟨?sends, ?dropped, ?notice, ?badHb, ?quietHb, ?behind, ?overrun, ?miss, ?missSync, ?missStandby, ?helloTx, ?helloKept, ?helloSync,
    ?helloHolder, ?laneDown, ?laneUp, fun s b => rfl⟩
  case sends => exact fun s hup => congrArg Host.Outcome.next (sendWb_up (s := { s with wb := { s.wb with hbSent := true } }) hup _)
  case dropped =>
    intro s ok g hdrop
    have h := fun f => fromPartner_dropped hdrop f
    show (∀ h, execHelloRx ok g h s = _) ∧ (∀ q m, m.gen = g → execManifestRx ok q m s = _) ∧ (∀ f, execFetchRx ok g f s = _) ∧
      (∀ e c b, execFetchDataRx ok g e c b s = _) ∧ (∀ c d, execOutputDigestRx ok g c d s = _) ∧ (∀ q b l, execJournalRx ok q g b l s = _) ∧
      (∀ j, execJournalAckRx ok g j s = _) ∧ (∀ x, execConsentAskRx ok g x s = _) ∧ (∀ x, execConsentGiveRx ok g x s = _) ∧
      execConsentRefuseRx ok g s = _ ∧ (∀ j, execHandoverOfferRx ok g j s = _) ∧ execHandoverReadyRx ok g s = _ ∧ execHandoverGoRx ok g s = _ ∧
      execHandoverDoneRx ok g s = _ ∧ execHandoverAbandonRx ok g s = _ ∧ (∀ j, execPowerFailNoticeRx ok g j s = _) ∧
      (∀ m, execResyncRx ok g m s = _) ∧ (∀ b, execHalfRingRx ok g b s = _) ∧ (∀ a b c d e f, execProtNoticeRx ok g a b c d e f s = _)
    exact ⟨fun _ => h _, fun q m hm => by subst hm; exact h _, fun _ => h _, fun _ _ _ => h _, fun _ _ => h _, fun _ _ _ => h _, fun _ => h _,
      fun _ => h _, fun _ => h _, h _, fun _ => h _, h _, h _, h _, h _, fun _ => h _, fun _ => h _, fun _ => h _, fun _ _ _ _ _ _ => h _⟩
  case notice =>
    intro s g j hup hgen
    show execPowerFailNoticeRx true g j s = _
    exact fromPartner_taken hup hgen _
  case badHb =>
    refine fun s hb => ⟨rfl, fun hbad => congrArg Host.Outcome.next (if_pos ?_)⟩
    rcases hbad with h | h <;> simp [h]
  case quietHb =>
    intro s hb hon hgen hheard hquiet
    have hwb := (heardTold_reports s hb).wb
    have hsays := heardTold_says (hb := hb) hheard
    rw [heardBy_eq hheard hwb] at hsays
    rw [exec_heartbeatRx hon hgen, heardPartner_quiet (by rwa [heardTold_mode, heardTold_cycle])]
    refine ⟨_, rfl, hsays, fun hheld hfree => ?_⟩
    rw [hwb]
    exact heardBy_holder hheld hfree
  case behind =>
    intro s hb hon hgen hstandby hheld hmode hcocoon hcycle
    have htold := (heardTold_mode s hb).trans hstandby
    obtain ⟨hsync, hstep, -, hfence, -⟩ := enterSync_facts (s := s.heardTold hb) (by simp [htold]) (recCodeOf .followLag)
    rw [exec_heartbeatRx hon hgen, heardPartner_behind htold hheld hmode hcocoon (by rwa [heardTold_cycle])]
    exact ⟨_, rfl, hsync, hstep, hfence⟩
  case overrun =>
    intro s hb hon hgen hstandby hmode hcause hpend
    have htold := (heardTold_mode s hb).trans hstandby
    have hpend' : (s.heardTold hb).sys.restartPend = none := by rw [(heardTold_reports s hb).sys]; exact hpend
    obtain ⟨hhold, hwhy, -, hfence, -⟩ := State.enterSafeHold_facts (s := s.heardTold hb) (by simp [htold]) hpend' 2 (recCodeOf .taskOverrun)
    rw [exec_heartbeatRx hon hgen, heardPartner_overrun htold hmode hcause]
    exact ⟨_, rfl, hhold, hwhy, hfence⟩
  case miss => exact fun s hheard hmissed => heartbeatMissed_first hheard hmissed
  case missSync =>
    intro s hheard hmissed hmode hheld
    refine ⟨_, heartbeatMissed_sync hheard hmissed hmode hheld, ?_⟩
    have hwb := (missedTwice_says s).toReports.wb
    unfold State.guaranteeBroken State.streamSeqs
    rw [hwb]
    exact ((missedTwice_says s).record .guaranteeBroken _).raise 70 (by decide)
  case missStandby =>
    intro s hheard hmissed hmode hreach hprobed hpromise hlease
    have hsays := missedTwice_says s
    have hwb := hsays.toReports.wb
    obtain ⟨hhandover, hrequest, hmisses, hsent, htold, hkept⟩ := askTakeover_facts (u := s.missedTwice) (hsays.toReports.mode.trans hmode)
      (by rw [hwb]; exact hprobed) (by simp [State.promised, hwb, hpromise]) (by rw [hwb]; exact hlease) (by rw [hwb]; exact hreach)
    exact ⟨_, heartbeatMissed_standby hheard hmissed hmode, hhandover, hrequest, by rw [hmisses, hwb], hsent, hkept 65 (hsays.told (by simp)), htold⟩
  case helloTx => exact fun s hup => congrArg Host.Outcome.next (sendWb_up hup _)
  case helloKept =>
    intro s g h hup hgen hmode hfree
    rw [exec_helloRx hup hgen, if_neg hmode, if_neg (by simp [hfree])]
    rfl
  case helloSync =>
    intro s g h hup hgen hmode hforeign
    obtain ⟨n, args, hjudged⟩ := judgeHello_foreign (s := s.heardHello g h) hforeign
    obtain ⟨hquarantine, hlease, hfence, -⟩ := enterQuarantine_facts (s := s.heardHello g h)
      (fun e : s.sys.mode = .quarantine => by simp [hmode] at e) n args
    rw [exec_helloRx hup hgen, if_pos hmode, hjudged]
    exact ⟨_, rfl, hquarantine, hlease, hfence⟩
  case helloHolder =>
    intro s g h hup hgen hmode hholds hpartner hforeign
    rw [exec_helloRx hup hgen, if_neg hmode, if_pos ⟨hholds, hpartner, hforeign⟩]
    exact ⟨_, rfl, (Says.refl (s.heardHello g h)).record .carrierMismatch _⟩
  case laneDown => exact fun s l => ⟨_, rfl, (Says.refl _).raise 102 (by decide)⟩
  case laneUp => exact fun s l => ⟨_, (Says.refl _).raise 102 (by decide), rfl⟩

end Sys2Proof.Machine
end

section
/-! SUPPORT. Planned hand-overs and swap drills (05_pair_operation.md, R216, R235, R244 to R247). -/

namespace Sys2Proof.Machine

/-! The parts of a hand-over. -/

theorem endHandover_wb (s : State) : s.endHandover.wb = { s.wb with ho := .idle, hoReplied := false } := by
  unfold State.endHandover
  rw [(Reports.raise _ 66).wb]

theorem drillHandedOver_idle {s : State} (hdrill : s.wb.drill = .idle) : s.drillHandedOver = s := by
  unfold State.drillHandedOver
  rw [hdrill]

theorem dropFallback_id {s : State} (hpend : s.sys.restartPend = none) : s.dropFallback = s := if_neg (by simp [hpend])

/-- Nothing waited for the hand-over while no restart waits and the lever is latched. -/
theorem dropExtraction_id {s : State} (hpend : s.sys.restartPend = none) (heject : s.pwr.ejectReq = false) : s.dropExtraction = s := by
  unfold State.dropExtraction
  dsimp only
  rw [dropFallback_id hpend, if_neg (by simp [heject])]

/-- A former holder serves no more, and is otherwise as it was. -/
theorem stopServing_frame (s : State) : s.stopServing.sys = s.sys ∧ s.stopServing.pwr = s.pwr ∧ s.stopServing.wb = s.wb ∧
    s.stopServing.hq.work = [] := by
  unfold State.stopServing
  simp only [State.completeOps_frame, State.settleOps_frame, and_self]

/-- The entry into a mode that keeps the fence logic: the pair's state but the fence, the lever and a waiting restart are as they were. -/
theorem setMode_facts {s : State} {m : Mode} (hquarantine : m ≠ .quarantine) (hservice : m ≠ .service) :
    (s.setMode m).sys.mode = m ∧ (s.setMode m).sys.restartPend = s.sys.restartPend ∧ (s.setMode m).pwr = s.pwr ∧
    (s.setMode m).wb = { s.wb with fenced := (s.setMode m).wb.fenced } :=
  ⟨State.setMode_mode s m 0, setMode_restartPend s m 0, (State.setMode_frame s m 0).1, setMode_keeps s m hquarantine hservice 0⟩

/-! The holder's side. -/

theorem exec_handoverPlan {s : State} {q : Requester} (hq : q ≠ .debug) (v : Word) : exec (.handoverPlan q v) s = .next (s.writeHandover v) := by
  show execHandoverPlan q v s = _
  unfold execHandoverPlan
  rw [barred_core hq (by decide)]

/-- The holder as it offers the lease under its last JSN (table Planned handover t0). -/
def State.offering (s : State) : State :=
  { s with wb := { s.wb with ho := .offered, hoJsn := s.wb.jsn, hoStart := s.tb.csr } }.setMode .handover

theorem exec_plannedHandoverStart {s : State} (hplanned : s.wb.ho = .planned) (hmode : s.sys.mode = .active) :
    exec .plannedHandoverStart s = .next (if s.partnerStandby = true then (s.offering.sendWb (.handover 0 s.offering.wb.jsn)).raise 66
      else s.dropPlanned) := by
  refine congrArg Host.Outcome.next ((if_neg (by simp [hplanned, hmode])).trans ?_)
  cases s.partnerStandby <;> rfl

/-- From OFFER on the holder takes no authoritative action (table Planned handover t0). -/
theorem not_authoritative_offered {s : State} (hmode : s.sys.mode = .handover) (hoffered : s.wb.ho = .offered) : s.authoritative = false := by
  simp [State.authoritative, State.handsOver, hmode, hoffered]

/-- A hand-over that the standby does not answer leaves the lease with the holder, back in ACTIVE (R235). -/
theorem abandonHandover_facts {s : State} (hpend : s.sys.restartPend = none) (heject : s.pwr.ejectReq = false) :
    s.abandonHandover.sys.mode = .active ∧ s.abandonHandover.wb.ho = .idle ∧ s.abandonHandover.wb.lease = s.wb.lease ∧
    s.abandonHandover.wb.drill = .idle ∧ s.abandonHandover.isPending 66 = true := by
  unfold State.abandonHandover
  dsimp only
  generalize hv : (((s.sendWb (.handover 4 s.wb.jsn)).record .handoverAbandoned [s.wb.jsn]).endHandover).dropDrill = v
  have hwb : v.wb = { s.wb with ho := .idle, hoReplied := false, drill := .idle, drillTimes := [] } := by
    rw [← hv]
    simp only [State.dropDrill, endHandover_wb, State.record_frame, State.sendWb_frame]
  have hpwr : v.pwr = s.pwr := by
    rw [← hv]
    simp only [State.dropDrill_frame, State.endHandover_frame, State.record_frame, State.sendWb_frame]
  have hsys : v.sys.restartPend = none := by
    rw [← hv]
    simp only [State.dropDrill_frame, State.endHandover_frame]
    rw [State.record_sys, (State.sendWb_frame _ _).1]
    exact hpend
  have htold : v.isPending 66 = true := by
    rw [← hv]
    exact endHandover_pends _
  obtain ⟨hmode, hwait, hlever, hkept⟩ := setMode_facts (s := v) (m := .active) (by decide) (by decide)
  have hsettled : ((v.setMode .active).acceptReady).dropFallback.afterSettle = (v.setMode .active).acceptReady := by
    have hnone : (v.setMode .active).acceptReady.sys.restartPend = none := by
      rw [(State.acceptReady_frame _).1, hwait, hsys]
    rw [dropFallback_id hnone, afterSettle_id hnone (by rw [(State.acceptReady_frame _).2.1, hlever, hpwr, heject])]
  rw [hsettled]
  refine ⟨?_, ?_, ?_, ?_, acceptReady_pends _ _ (by rwa [setMode_pending])⟩ <;> simp only [State.acceptReady_frame]
  · exact hmode
  all_goals rw [hkept, hwb]

/-- The former holder is STANDBY and serves no more (table Planned handover t4). -/
theorem handedOver_facts {s : State} (hdrill : s.wb.drill = .idle) (hpend : s.sys.restartPend = none) (heject : s.pwr.ejectReq = false) :
    ∃ t, (((s.setMode .standby).stopServing).endHandover).drillHandedOver.afterSettle = t ∧ t.sys.mode = .standby ∧ t.wb.ho = .idle ∧
    t.wb.lease = s.wb.lease ∧ t.hq.work = [] ∧ t.isPending 66 = true := by
  obtain ⟨hmode, hwait, hlever, hkept⟩ := setMode_facts (s := s) (m := .standby) (by decide) (by decide)
  obtain ⟨hsys, hpwr, hwb, hwork⟩ := stopServing_frame (s.setMode .standby)
  generalize (s.setMode .standby).stopServing = v at hsys hpwr hwb hwork
  have hended : v.endHandover.drillHandedOver = v.endHandover := drillHandedOver_idle (by rw [endHandover_wb, hwb, hkept]; exact hdrill)
  rw [hended, afterSettle_id (by rw [(State.endHandover_frame _).1, hsys, hwait, hpend])
    (by rw [(State.endHandover_frame _).2.1, hpwr, hlever, heject])]
  refine ⟨_, rfl, ?_, ?_, ?_, ?_, endHandover_pends _⟩ <;> simp only [endHandover_wb, State.endHandover_frame]
  · rw [hsys, hmode]
  · rw [hwb, hkept]
  · exact hwork

/-! The standby's side. -/

/-- READY goes out once the own journal holds the offered number (table Planned handover t1). -/
theorem replyReady_held {s : State} (hready : s.wb.ho = .ready) (hunsent : s.wb.hoReplied = false) (hheld : s.wb.hoJsn ≤ s.wb.jsn)
    (hup : s.wbUp = true) :
    s.replyReady = { s with wb := { s.wb with hoReplied := true }, out := s.out ++ [wbOut s (.handover 1 s.wb.jsn)] } :=
  (if_pos ⟨hready, hunsent, hheld⟩).trans (sendWb_up (s := { s with wb := { s.wb with hoReplied := true } }) hup _)

theorem replyReady_waits {s : State} (hlacks : s.wb.jsn < s.wb.hoJsn) : s.replyReady = s := if_neg fun h => Nat.not_le.2 hlacks h.2.2

/-- The standby as an OFFER finds it, its READY not yet sent. -/
def State.offeredAt (s : State) (j : Nat) : State :=
  { s with wb := { s.wb with ho := .ready, hoJsn := j, hoReplied := false, hoStart := s.tb.csr } }

theorem exec_handoverOfferRx {s : State} (hup : s.wbUp = true) (hmode : s.sys.mode = .standby) (j : Nat) :
    exec (.handoverOfferRx true s.wb.gen j) s = .next (s.offeredAt j).replyReady := by
  show execHandoverOfferRx true s.wb.gen j s = _
  unfold execHandoverOfferRx
  rw [fromPartner_present hup, if_neg (by simp [hmode])]
  rfl

theorem exec_handoverGoRx {s : State} (hup : s.wbUp = true) (hready : s.wb.ho = .ready) (hmode : s.sys.mode = .standby) :
    exec (.handoverGoRx true s.wb.gen) s = .next (({ s with wb := { s.wb with ho := .requesting } }.setMode .handover).raise 66).request := by
  show execHandoverGoRx true s.wb.gen s = _
  unfold execHandoverGoRx
  rw [fromPartner_present hup, if_pos ⟨hready, hmode⟩]

/-- REQUEST asked for in HANDOVER with a boot epoch and no promise given is under way (R219, R225, R229). -/
theorem goTaken_facts {s : State} (hprobed : s.wb.probed = true) (hfree : s.wb.gaveConsent = none) (hlease : s.wb.lease = .none) :
    ∃ t, ((s.setMode .handover).raise 66).request = t ∧ t.sys.mode = .handover ∧ t.wb.ho = s.wb.ho ∧ t.wb.lease = .request ∧
    t.isPending 66 = true := by
  obtain ⟨hmode, -, -, hkept⟩ := setMode_facts (s := s) (m := .handover) (by decide) (by decide)
  have hsaid := (Says.refl (s.setMode .handover)).raise 66 (by decide)
  have hwb := hsaid.toReports.wb.trans hkept
  have hasks := hsaid.toReports.mode.trans hmode
  generalize (s.setMode .handover).raise 66 = v at hsaid hwb hasks
  refine ⟨_, request_probed (by rw [State.mayRequest, hasks]) (by rw [hwb]; exact hprobed) (by simp [State.promised, hwb, hfree])
    (by rw [hwb]; exact hlease), ?_, ?_, rfl, ?_⟩
  · rw [(State.sendRef_frame _ _).1, hasks]
  · show v.wb.ho = _
    rw [hwb]
  · simpa only [State.isPending, State.sendRef_frame] using hsaid.told (k := 66) (by simp)

/-- An ABANDON of the holder ends the hand-over that the standby asked for (R235). -/
theorem exec_handoverAbandonRx_requesting {s : State} (hup : s.wbUp = true) (hasking : s.wb.ho = .requesting) (hmode : s.sys.mode = .handover)
    (hdrill : s.wb.drill = .idle) (hlease : s.wb.lease = .request) : exec (.handoverAbandonRx true s.wb.gen) s =
      .next (({ s with wb := { s.wb with lease := .none } }.setMode .standby).endHandover).afterSettle := by
  show execHandoverAbandonRx true s.wb.gen s = _
  unfold execHandoverAbandonRx
  rw [fromPartner_present hup, if_pos (.inr hasking)]
  dsimp only
  rw [if_pos hlease, if_pos hmode, if_neg (by simp [hdrill])]

/-- An ABANDON outside a hand-over comes from a LOST holder, and makes the standby ask (R216). -/
theorem exec_handoverAbandonRx_lost {s : State} (hup : s.wbUp = true) (hidle : s.wb.ho = .idle) (hmode : s.sys.mode = .standby)
    (hreach : s.wb.refReach = true) : exec (.handoverAbandonRx true s.wb.gen) s = .next s.askTakeover := by
  show execHandoverAbandonRx true s.wb.gen s = _
  unfold execHandoverAbandonRx
  rw [fromPartner_present hup, if_neg (by simp [hidle]), if_pos (.inl hmode), if_pos hreach]

theorem abandoned_facts {s : State} (hpend : s.sys.restartPend = none) (heject : s.pwr.ejectReq = false) :
    ∃ t, ((s.setMode .standby).endHandover).afterSettle = t ∧ t.sys.mode = .standby ∧ t.wb.ho = .idle ∧ t.wb.lease = s.wb.lease ∧
    t.isPending 66 = true := by
  obtain ⟨hmode, hwait, hlever, hkept⟩ := setMode_facts (s := s) (m := .standby) (by decide) (by decide)
  rw [afterSettle_id (by rw [(State.endHandover_frame _).1, hwait, hpend]) (by rw [(State.endHandover_frame _).2.1, hlever, heject])]
  refine ⟨_, rfl, ?_, ?_, ?_, endHandover_pends _⟩ <;> simp only [endHandover_wb, State.endHandover_frame]
  · exact hmode
  · rw [hkept]

/-! Drills. -/

/-- At its due stamp an active that holds the lease, in no instar change, moves the stamp on and then drills or skips (R244 to R246). -/
theorem exec_drillDue {s : State} (hon : s.bit .wbDrillCtrl 0 = true) (hmode : s.sys.mode = .active) (hholds : s.holds = true)
    (hstage : s.prg.stage = 0) (hdue : s.drillStamp ≤ s.tb.ang) : exec .drillDue s = .next s.nextDrill.drillNow := by
  refine congrArg Host.Outcome.next ((if_neg ?_).trans ((if_pos ⟨hmode, hholds⟩).trans (if_neg (fun h => h hstage))))
  rintro (hoff | hearly)
  · simp [hon] at hoff
  · exact Nat.not_lt.2 hdue hearly

theorem drillNow_skipped {s : State} (hbank : s.pwr.holdupOk = false) :
    Says { s with wb := { s.wb with drillBegun := false, drillResult := 2 } } [(.drillSkipped, [])] [69] s.drillNow := by
  have hskip : s.drillNow = ({ s with wb := { s.wb with drillBegun := false, drillResult := 2 } }.record .drillSkipped).raise 69 :=
    if_neg fun h => by simp [hbank] at h
  rw [hskip]
  exact ((Says.refl _).record .drillSkipped []).raise 69 (by decide)

theorem drillNow_planned {s : State} (hpartner : s.partnerStandby = true) (hbank : s.pwr.holdupOk = true)
    (hbank' : s.wb.partner.hb.holdupOk = true) (hunits : s.sys.unitHealth = 0) (hwhole : s.partnerWhole = true) (hidle : s.wb.ho = .idle) :
    s.drillNow = { s with wb := { s.wb with drillBegun := false, drill := .going, ho := .planned, drillTimes := [] } }.raise 69 :=
  if_pos ⟨hpartner, hbank, hbank', hunits, hwhole, hidle⟩

/-- Settles O36: the hand-over message by message on both sides, and the drill at its due stamp and after its dwell. -/
theorem handoversAndDrills : Obligations.HandoversAndDrills := by
  unfold Obligations.HandoversAndDrills
  refine ⟨?plan, ?noPlan, ?starts, ?drops, ?offerHeld, ?offerAhead, ?ready, ?go, ?done, ?abandon, ?lost, ?timeout, ?early, ?skipped, ?drill,
    ?dwellEnd⟩
  case plan =>
    intro s q v hq hbit hmode hidle hpartner
    rw [exec_handoverPlan hq]
    exact congrArg Host.Outcome.next (if_pos ⟨hbit, hmode, hidle, hpartner⟩)
  case noPlan =>
    intro s q v hq hpartner
    rw [exec_handoverPlan hq]
    exact congrArg Host.Outcome.next (if_neg fun h => by simp [hpartner] at h)
  case starts =>
    intro s hplanned hmode hpartner
    obtain ⟨hin, -, -, hkept⟩ := setMode_facts (s := { s with wb := { s.wb with ho := .offered, hoJsn := s.wb.jsn, hoStart := s.tb.csr } })
      (m := .handover) (by decide) (by decide)
    have hsaid := (Says.refl (s.offering.sendWb (.handover 0 s.offering.wb.jsn))).raise 66 (by decide)
    have hwb := hsaid.toReports.wb
    have hthere := hsaid.toReports.mode
    simp only [State.sendWb_frame] at hwb hthere
    rw [exec_plannedHandoverStart hplanned hmode, if_pos hpartner]
    refine ⟨_, rfl, hthere.trans hin, ?_, ?_, ?_, hsaid.told (by simp), not_authoritative_offered (hthere.trans hin) ?_⟩ <;>
      rw [hwb, State.offering, hkept]
  case drops =>
    intro s hplanned hmode hpartner hpend heject
    rw [exec_plannedHandoverStart hplanned hmode, if_neg (by simp [hpartner])]
    exact congrArg Host.Outcome.next ((if_pos hplanned).trans (dropExtraction_id hpend heject))
  case offerHeld =>
    intro s j hmode hup hheld
    rw [exec_handoverOfferRx hup hmode, replyReady_held (s := s.offeredAt j) rfl rfl hheld hup]
    rfl
  case offerAhead =>
    intro s j hmode hup hlacks
    rw [exec_handoverOfferRx hup hmode, replyReady_waits (s := s.offeredAt j) hlacks]
    rfl
  case ready =>
    intro s hup hoffered hmode
    have hexec : exec (.handoverReadyRx true s.wb.gen) s = .next ({ s with wb := { s.wb with ho := .releasing } }.sendRef .release) := by
      show execHandoverReadyRx true s.wb.gen s = _
      unfold execHandoverReadyRx
      rw [fromPartner_present hup, if_pos ⟨hoffered, hmode⟩]
    exact ⟨_, hexec, _, rfl, rfl, rfl, rfl, rfl, rfl, rfl, rfl⟩
  case go =>
    intro s hup hready hmode hprobed hfree hlease
    obtain ⟨t, ht, hin, hho, hasked, htold⟩ := goTaken_facts (s := { s with wb := { s.wb with ho := .requesting } }) hprobed hfree hlease
    exact ⟨t, (exec_handoverGoRx hup hready hmode).trans (congrArg _ ht), hin, hho, hasked, htold⟩
  case done =>
    intro s hup hgone hmode hdrill hpend heject
    have hexec : exec (.handoverDoneRx true s.wb.gen) s =
        .next (((s.setMode .standby).stopServing).endHandover).drillHandedOver.afterSettle := by
      show execHandoverDoneRx true s.wb.gen s = _
      unfold execHandoverDoneRx
      rw [fromPartner_present hup, if_pos ⟨hgone, hmode⟩]
    obtain ⟨t, ht, hfacts⟩ := handedOver_facts hdrill hpend heject
    exact ⟨t, hexec.trans (congrArg _ ht), hfacts⟩
  case abandon =>
    intro s hup hasking hmode hdrill hlease hpend heject
    obtain ⟨t, ht, hfacts⟩ := abandoned_facts (s := { s with wb := { s.wb with lease := .none } }) hpend heject
    exact ⟨t, (exec_handoverAbandonRx_requesting hup hasking hmode hdrill hlease).trans (congrArg _ ht), hfacts⟩
  case lost =>
    intro s hup hidle hmode hreach hprobed hfree hlease
    obtain ⟨hin, hasked, -⟩ := askTakeover_facts hmode hprobed hfree hlease hreach
    exact ⟨_, exec_handoverAbandonRx_lost hup hidle hmode hreach, hin, hasked⟩
  case timeout =>
    intro s hoffered hmode hheld hpend heject
    obtain ⟨hactive, hidle, hlease, hdrill, htold⟩ := abandonHandover_facts hpend heject
    exact ⟨_, congrArg Host.Outcome.next (if_pos ⟨hoffered, hmode⟩), hactive, hidle, hlease.trans hheld, hdrill, htold⟩
  case early => exact fun s hearly => congrArg Host.Outcome.next (if_pos (.inr hearly))
  case skipped =>
    rintro s due per hon hmode hholds hstage hbank rfl hdue rfl
    obtain ⟨hregs, hstamp⟩ := nextDrill_regs s
    exact ⟨s.nextDrill, _, exec_drillDue hon hmode hholds hstage hdue, hregs, hstamp, drillNow_skipped hbank⟩
  case drill =>
    intro s hon hmode hholds hstage hbank hdue hpartner hbank' hunits hwhole hidle
    have hplanned := drillNow_planned (s := s.nextDrill) hpartner hbank hbank' hunits hwhole hidle
    have hsaid := (Says.refl { s.nextDrill with wb := { s.wb with drillBegun := false, drill := .going, ho := .planned, drillTimes := [] } }).raise
      69 (by decide)
    refine ⟨_, (exec_drillDue hon hmode hholds hstage hdue).trans (congrArg _ hplanned), ?_, ?_, raise_pends _ (by decide), ?_⟩ <;>
      simp only [State.raise_frame]
    rfl
  case dwellEnd =>
    intro s hdwell hmode hholds hidle
    exact congrArg Host.Outcome.next ((if_neg (by simp [hdwell])).trans (if_pos ⟨hmode, hholds, hidle⟩))

end Sys2Proof.Machine
end

section
/-! SUPPORT. Reads of wide values: what a read of the first, a latched and a calendar word answers and leaves latched (R117, R118, R142,
R617, R618). -/

namespace Sys2Proof.Machine

section
variable {s : State} {q : Requester} {r : RegName} {i j : Nat} {k : LatchKind} {ws : List (RegName × Nat × Nat)}

/-- The highest word of a wide value is answered from its latch, which ends with the read. -/
theorem readLatched_last {w : Word} (hseries : s.dropOldLatches.seriesOf r i j = (k, ws))
    (hheld : s.dropOldLatches.latched (latchKey k q) (r.addr i j) = some w) (hlast : (seriesAddrs ws).getLast? = some (r.addr i j)) :
    s.readLatched q r i j = (s.dropOldLatches.unlatch (latchKey k q) (seriesAddrs ws), w) := by
  unfold State.readLatched
  simp only [hseries, hheld, hlast, if_true]

/-- A calendar register but the last freezes the series it belongs to (R142). -/
theorem readLatched_freeze (hseries : s.dropOldLatches.seriesOf r i j = (.shadow, ws))
    (hheld : s.dropOldLatches.latched (latchKey .shadow q) (r.addr i j) = none) (hlast : (seriesAddrs ws).getLast? ≠ some (r.addr i j)) :
    s.readLatched q r i j =
      ((s.dropOldLatches.unlatch (latchKey .shadow q) (seriesAddrs ws)).latchWords .shadow (latchKey .shadow q) ws, s.regWord r i j) := by
  unfold State.readLatched
  simp only [hseries, hheld, hlast, if_true, if_false]
  rfl

end

/-- A read of a register in plain space, neither locked nor the debug module's, runs the register's own read (R615, R626). -/
theorem exec_wideReadLatch_reg {s : State} {q : Requester} {r : RegName} {i j : Nat} (hfind : findReg (r.addr i j) = some (r, i, j))
    (hspace : inRegs (r.addr i j) = true ∧ badAccess (r.addr i j) 4 = false) (hfree : debugLocked (r.addr i j) = false)
    (hwin : inWindow (r.addr i j) = false) (hdbg : r.addr i j / 65536 ≠ 0x4016) (hdm : r ≠ .dbgDm) :
    exec (.wideReadLatch q (r.addr i j)) s = .next (s.readReg q r i j) := by
  show execWideReadLatch q (r.addr i j) s = _
  unfold execWideReadLatch
  rw [hspace.1, hspace.2, if_neg (by decide), readSpace_reg hfind hfree hwin hdbg hdm]

/-- The clock's two words are those of its 64-bit count. -/
theorem regWord_angNow (s : State) :
    (s.regWord .angNowLo 0 0).toNat = s.tb.ang % 2 ^ 32 ∧ s.regWord .angNowHi 0 0 = BitVec.ofNat 32 (s.tb.ang / 2 ^ 32) := by
  have hlo : s.regWord .angNowLo 0 0 = BitVec.ofNat 32 (wordOf s.tb.ang 0) := rfl
  have hhi : s.regWord .angNowHi 0 0 = BitVec.ofNat 32 (wordOf s.tb.ang 1) := rfl
  rw [hlo, hhi]
  refine ⟨by simp [wordOf], BitVec.eq_of_toNat_eq (by simp [wordOf])⟩

/-- The four calendar registers are one series, in the order of their offsets (R142). -/
theorem seriesOf_calReg (s : State) (which : Nat) :
    s.seriesOf (calReg which) 0 0 = (.shadow, [(.calTime, 0, 0), (.calDate, 0, 0), (.locTime, 0, 0), (.locDate, 0, 0)]) := by
  unfold calReg
  split <;> rfl

/-- A calendar register but the last, with no latch standing, latches all four for the requester (R142). -/
theorem exec_calReadFreeze {s : State} {q : Requester} {which : Nat} (hwhich : which < 3)
    (hheld : s.dropOldLatches.latched (latchKey .shadow q) ((calReg which).addr 0 0) = none) :
    ∃ t, exec (.calReadFreeze q which) s = .next t ∧ t = { s with tb := { s.tb with latches := t.tb.latches }, resp := t.resp } ∧
      t.resp = some ⟨q, (s.regWord (calReg which) 0 0).toNat, .ok⟩ ∧
      ∀ k, k < 4 → t.latched (latchKey .shadow q) ((calReg k).addr 0 0) = some (s.regWord (calReg k) 0 0) := by
  have hlast : (seriesAddrs [(.calTime, 0, 0), (.calDate, 0, 0), (.locTime, 0, 0), (.locDate, 0, 0)]).getLast? ≠
      some ((calReg which).addr 0 0) := by
    interval_cases which <;> decide
  have hread : s.readRegs q ((calReg which).addr 0 0) = s.readReg q (calReg which) 0 0 := by
    interval_cases which <;>
      exact readSpace_reg (by decide +kernel) (by decide) (by decide) (by decide) (by decide)
  have hplain : s.readReg q (calReg which) 0 0 =
      (s.readLatched q (calReg which) 0 0).1.answer q (s.readLatched q (calReg which) 0 0).2.toNat := by
    interval_cases which <;> rfl
  refine ⟨_, congrArg Host.Outcome.next (hread.trans hplain), ?_⟩
  rw [readLatched_freeze (seriesOf_calReg _ _) hheld hlast]
  refine ⟨answer_only (latchWords_only (unlatch_only (dropOld_only s) _ _) _ _ _) _ _, rfl, fun k hk => ?_⟩
  rw [answer_latched, latchWords_latched _ _ _ _ _ (unlatch_latched _ _ _ _ (by interval_cases k <;> decide))]
  interval_cases k <;> rfl

/-- Settles O8: the first word by `readRegs_first`, the last by its latch, the calendar by its shadow. -/
theorem wideReadsLatchTheirWords : Obligations.WideReadsLatchTheirWords := by
  unfold Obligations.WideReadsLatchTheirWords
  refine ⟨fun s q hheld => ?_, fun s q w hheld => ?_, fun s q k hlow hhigh hheld => ?_, fun s q k hk hheld => ?_,
    fun s q which k hwhich hk hheld => ?_⟩
  · obtain ⟨t, ht, honly, hresp, hlatched⟩ := readRegs_first (s := s) (q := q) (r := .angNowLo) (i := 0) (j := 0)
      (by decide +kernel) (by decide) (by decide) (by decide) (by decide) (fun _ => rfl) rfl hheld (by decide) (by decide) (by decide)
    obtain ⟨hlo, hhi⟩ := regWord_angNow s
    refine ⟨t, congrArg _ ht, honly, hlo ▸ hresp, ?_, hlatched _ (by decide)⟩
    rw [hlatched _ (by decide), ← hhi]
    rfl
  · have hread := exec_wideReadLatch_reg (s := s) (q := q) (r := .angNowHi) (i := 0) (j := 0)
      (by decide +kernel) (by decide) (by decide) (by decide) (by decide) (by decide)
    have hlast := readLatched_last (s := s) (r := .angNowHi) rfl hheld (by decide)
    refine ⟨_, hread, ?_⟩
    have hplain : s.readReg q .angNowHi 0 0 = (s.readLatched q .angNowHi 0 0).1.answer q (s.readLatched q .angNowHi 0 0).2.toNat := rfl
    rw [hplain, hlast]
    refine ⟨answer_only (unlatch_only (dropOld_only s) _ _) _ _, rfl, ?_, ?_⟩ <;> rw [answer_latched] <;>
      exact unlatch_latched _ _ _ _ (by decide)
  · obtain ⟨t, ht, honly, hresp, hlatched⟩ := readRegs_first (s := s) (q := q) (r := .mapWord) (i := 0) (j := 0)
      (by decide +kernel) (by decide) (by decide) (by decide) (by decide) (fun _ => rfl) rfl hheld (by decide) (by decide) (by decide)
    refine ⟨t, congrArg _ ht, honly, hresp, ?_⟩
    rw [hlatched _ (by interval_cases k <;> decide)]
    interval_cases k <;> rfl
  · obtain ⟨t, ht, honly, hresp, hlatched⟩ := readRegs_first (s := s) (q := q) (r := .ptNowNs) (i := 0) (j := 0)
      (by decide +kernel) (by decide) (by decide) (by decide) (by decide) (fun _ => rfl) rfl hheld (by decide) (by decide) (by decide)
    refine ⟨t, congrArg _ ht, honly, hresp, ?_⟩
    rw [hlatched _ (by interval_cases k <;> decide)]
    interval_cases k <;> rfl
  · obtain ⟨t, ht, honly, hresp, hlatched⟩ := exec_calReadFreeze hwhich hheld
    exact ⟨t, ht, honly, hresp, hlatched k hk⟩

end Sys2Proof.Machine
end

section
/-! SUPPORT. The angle source: its loss, the way back to it, and the jump and the slew that meet its phase (R99 to R114). -/

namespace Sys2Proof.Machine

/-! Losing and leaving a source. -/

/-- A MAP record after what is said already: the mapping is the one it was. -/
theorem mapRecord_says {u t : State} {rs : List (RecName × List Nat)} {es : List Nat} (h : Says u rs es t) :
    Says u (rs ++ [(.mapRec, anchorWords u.tb.anchor)]) es t.mapRecord := by
  rw [← h.tb]
  exact h.record .mapRec (anchorWords t.tb.anchor)

/-- A lost source is recorded, and the clock free-runs at the rate it last had in LOCKED (R101, R103). -/
theorem toSynth_says (s : State) {r : Nat} (hrate : s.tb.lockRate.getD (nominal (s.bit .angCtrl 4)) = r) :
    Says { s with tb := { (s.setRate r).tb with lostSrc := some s.tb.angSrc, synthCycles := 0, slewRem := 0, slewFrac := 0, goodCycles := 0,
                                                angState := .synth } }
      [(.angSrcLost, [s.tb.angSrc]), (.mapRec, anchorWords (s.setRate r).tb.anchor)] [104] s.toSynth := by
  subst hrate
  exact (mapRecord_says ((Says.refl _).record .angSrcLost [s.tb.angSrc])).raise 104 (by decide)

theorem loseSource_eq {s : State} (hstate : s.tb.angState ≠ .synth) (hsrc : s.tb.angSrc ≠ 2) : s.loseSource = s.toSynth :=
  if_neg (by simp [hstate, hsrc])

/-! The ways back to a source. -/

theorem exec_angSrcReturn {s : State} {d : Int} {f freq : Nat} (hstate : s.tb.angState = .synth) (hseed : s.awaitsSeed = false)
    (hsrc : s.tb.lostSrc.getD (s.fld .angCtrl 0 2) = f) (hok : s.sourceOk f freq = true) (hlow : -8388608 ≤ d) (hhigh : d < 8388608) :
    exec (.angSrcReturn freq d) s = .next (s.takeSource f freq d) := by
  subst hsrc
  exact congrArg Host.Outcome.next ((if_pos ⟨hstate, hseed, hok⟩).trans (congrArg (s.takeSource _ freq) (wrapPhase_id hlow hhigh)))

theorem exec_angFallback {s : State} {d : Int} {f freq : Nat} (hstate : s.tb.angState = .synth) (hlost : s.tb.lostSrc.isSome)
    (hfall : s.fld .angCtrl 2 2 = f) (hf : f ≠ 3) (hok : s.sourceOk f freq = true) (hdelay : s.fld .angCtrl 16 8 ≤ s.tb.synthCycles)
    (hlow : -8388608 ≤ d) (hhigh : d < 8388608) : exec (.angFallback freq d) s = .next (s.takeSource f freq d) := by
  subst hfall
  exact congrArg Host.Outcome.next ((if_pos ⟨hstate, hlost, hf, hdelay, hok⟩).trans
    (congrArg (s.takeSource _ freq) (wrapPhase_id hlow hhigh)))

/-! A jump that passes nothing. -/

/-- With no frame waiting the heads of the queues hold nothing to serve. -/
theorem settleHeads_of_no_frames {s : State} (hframes : s.tb.frames = []) : s.settleHeads = s := by
  have hone : ∀ n c, s.settleFrames n c = s := by
    intro n c
    have hhead : s.headFrame n c = none := by unfold State.headFrame; rw [hframes]; rfl
    unfold State.settleFrames
    rw [State.settleQueue, hhead]
  exact List.foldlRecOn (motive := (· = s)) (List.range 16) _ rfl fun t ht k _ => by rw [ht, hone]

/-- The angle and the angle tasks after a jump, before what the jump passed fires. -/
def State.jumped (s : State) (d : Nat) : State :=
  { s with tb := { s.tb with ang := s.tb.ang + d, jump := some (s.tb.ang, s.tb.ang + d) },
           prg := { s.prg with tasks := s.prg.tasks.map (jumpTask s.tb.ang (s.tb.ang + d)) } }

/-- A jump that passes nothing moves the angle and the angle tasks alone, and the clock is LOCKED after it (R112, R114). -/
theorem angJump_locked_says {s : State} {d : Nat} (hframes : s.tb.frames = []) (hpassed : s.passed false s.tb.ang (s.tb.ang + d) = [])
    (hstate : s.tb.angState ≠ .locked) :
    Says { s with tb := { s.tb with ang := s.tb.ang + d, jump := some (s.tb.ang, s.tb.ang + d), angState := .locked },
                  prg := { s.prg with tasks := s.prg.tasks.map (jumpTask s.tb.ang (s.tb.ang + d)) } }
      [(.mapRec, anchorWords s.tb.anchor)] [104] ((s.angJump d).setAng .locked) := by
  have hjump : s.angJump d = s.jumped d := by
    unfold State.angJump State.fireAll
    dsimp only
    rw [hpassed]
    exact settleHeads_of_no_frames hframes
  rw [hjump]
  exact setAng_says (s := s.jumped d) hstate

/-- What a jump passes depends on the alarms, the set-points, the frames and the work that wait. -/
theorem passed_congr {s t : State} (halarms : t.tb.alarms = s.tb.alarms) (hdsp : t.dsp = s.dsp) (hframes : t.tb.frames = s.tb.frames)
    (hhq : t.hq = s.hq) (b : Bool) (old new : Nat) : t.passed b old new = s.passed b old new := by
  unfold State.passed
  rw [halarms, hdsp, hframes, hhq]

/-- With JUMP_MODE a source ahead is stepped over to, and the clock is LOCKED at once (R112 to R114). -/
theorem takeSource_jump_says {s : State} {d f freq : Nat} (hd : 4660 < d) (hf : f ≠ 2) (hok : s.sourceOk f freq = true)
    (hstate : s.tb.angState ≠ .acquire) (hjump : s.bit .angCtrl 5 = true) (hframes : s.tb.frames = [])
    (hpassed : s.passed false s.tb.ang (s.tb.ang + d) = []) :
    ∃ v, Says { s with tb := { (s.setRate freq).tb with angSrc := f, lostSrc := none, synthCycles := 0, goodCycles := 0, slewFrac := 0,
                                                        angState := .acquire } }
        [(.mapRec, anchorWords (s.setRate freq).tb.anchor)] [104] v ∧
      Says { v with tb := { v.tb with slewRem := 0, slewFrac := 0, ang := s.tb.ang + d, jump := some (s.tb.ang, s.tb.ang + d),
                                      angState := .locked },
                    prg := { v.prg with tasks := s.prg.tasks.map (jumpTask s.tb.ang (s.tb.ang + d)) } }
        [(.mapRec, anchorWords (s.setRate freq).tb.anchor)] [104] (s.takeSource f freq d) := by
  obtain ⟨v, hacquired, htake⟩ := takeSource_jump hd hf hok hstate hjump
  have htb := hacquired.tb
  have hang : v.tb.ang = s.tb.ang := by rw [htb]; rfl
  have hanchor : v.tb.anchor = (s.setRate freq).tb.anchor := by rw [htb]
  have htasks : v.prg.tasks = s.prg.tasks := congrArg PrgSt.tasks hacquired.prg
  have hvpassed : v.passed false v.tb.ang (v.tb.ang + d) = [] := by
    rw [passed_congr (s := s) (by rw [htb]; rfl) hacquired.dsp (by rw [htb]; rfl) hacquired.hq, hang]
    exact hpassed
  have hlocked := angJump_locked_says (s := { v with tb := { v.tb with slewRem := 0, slewFrac := 0 } }) (d := d)
    (by rw [htb]; exact hframes) hvpassed
    (by rw [htb]; exact nofun)
  refine ⟨v, hacquired, ?_⟩
  rw [htake, ← hang, ← htasks, ← hanchor]
  exact hlocked

/-! A written change of SRC. -/

/-- A write of TB_ANG_CTRL under its lock that keeps FNOM takes its fields and restarts the lock's 100 ms (R19, R623). -/
theorem writeHeld_angCtrl {s : State} {q : Requester} {v : Word} (hlock : s.lockedFor 2 q = true) (hfnom : bitOf v.toNat 4 = s.bit .angCtrl 4)
    (hsrc : bitsOf v.toNat 0 2 < 2) (hbwLow : 2 ≤ bitsOf v.toNat 8 5) (hbwHigh : bitsOf v.toNat 8 5 ≤ 20) :
    s.writeHeld q .angCtrl 0 0 v =
      ((s.setReg .angCtrl 0 0 (applyFields (s.reg .angCtrl) v (RegName.desc .angCtrl).fields).1).touchLock 2, true) ∧
    ∀ f ∈ (RegName.desc .angCtrl).fields, bitsOf (applyFields (s.reg .angCtrl) v (RegName.desc .angCtrl).fields).1.toNat f.lo f.width =
      bitsOf v.toNat f.lo f.width := by
  have hfields : fieldsOf .angCtrl .rwl = (RegName.desc .angCtrl).fields := by decide
  have hallowed : ∀ f ∈ (RegName.desc .angCtrl).fields, fieldOk f (bitsOf v.toNat f.lo f.width) = true := by
    have hsrc' : bitsOf v.toNat 0 2 ≤ 2 := by omega
    simp [RegName.desc, fieldOk, hsrc', hbwLow, hbwHigh]
  refine ⟨?_, fun f hf => applyFields_get _ v _ f hf (by decide) (hallowed f hf) ?_ ?_⟩
  · rw [writeHeld_rwl (by decide) (by decide) (by decide) (by decide) (fun _ => rfl) (by decide) hlock (fun _ => hfnom)
      (hfields ▸ hallowed), hfields]
    rfl
  · revert f; decide
  · revert f; decide

/-- A written change of SRC takes the new source (R110). -/
theorem exec_angSrcSwitch {s : State} {q : Requester} {v : Word} {freq : Nat} {d : Int} (hq : q ≠ .debug) (hlock : s.lockedFor 2 q = true)
    (hfnom : bitOf v.toNat 4 = s.bit .angCtrl 4) (hsrc : bitsOf v.toNat 0 2 < 2) (hchange : bitsOf v.toNat 0 2 ≠ s.fld .angCtrl 0 2)
    (hseed : s.awaitsSeed = false) (hbwLow : 2 ≤ bitsOf v.toNat 8 5) (hbwHigh : bitsOf v.toNat 8 5 ≤ 20) (hlow : -8388608 ≤ d)
    (hhigh : d < 8388608) : ∃ w : Word, (∀ f ∈ (RegName.desc .angCtrl).fields, bitsOf w.toNat f.lo f.width = bitsOf v.toNat f.lo f.width) ∧
      exec (.angSrcSwitch q v freq d) s =
        .next (((s.setReg .angCtrl 0 0 w).touchLock 2).takeSource (bitsOf v.toNat 0 2) freq d) := by
  obtain ⟨hheld, hfields⟩ := writeHeld_angCtrl hlock hfnom hsrc hbwLow hbwHigh
  refine ⟨_, hfields, ?_⟩
  generalize (applyFields (s.reg .angCtrl) v (RegName.desc .angCtrl).fields).1 = w at hheld hfields
  have hreg : ((s.setReg .angCtrl 0 0 w).touchLock 2).reg .angCtrl = w := (setReg_reg ..).trans (if_pos rfl)
  have hseed' : ((s.setReg .angCtrl 0 0 w).touchLock 2).awaitsSeed = s.awaitsSeed := by
    have hother : ((s.setReg .angCtrl 0 0 w).touchLock 2).reg .angSeed = s.reg .angSeed := setReg_reg_other (by decide)
    unfold State.awaitsSeed State.fld
    rw [hother]
    rfl
  have hsrc' : ((s.setReg .angCtrl 0 0 w).touchLock 2).fld .angCtrl 0 2 = bitsOf v.toNat 0 2 := by
    rw [State.fld, hreg]
    exact hfields ⟨.rwl, 0, 2, 0, [(0, 2)]⟩ (by decide)
  have hbit : ((s.setReg .angCtrl 0 0 w).touchLock 2).bit .angCtrl 4 = bitOf (s.reg .angCtrl).toNat 4 := by
    rw [State.bit, hreg]
    refine Eq.trans ?_ hfnom
    unfold bitOf
    rw [hfields ⟨.rwl, 4, 1, 0, []⟩ (by decide)]
  show execAngSrcSwitch q v freq d s = _
  unfold execAngSrcSwitch
  rw [barred_core hq (by decide)]
  dsimp only
  unfold State.writeAngCtrl
  rw [hheld]
  dsimp only
  rw [if_neg (by decide), if_pos hbit.symm, hsrc', hseed', if_pos ⟨hchange, hseed⟩, wrapPhase_id hlow hhigh]

/-- Settles O16: a source is taken by `takeSource` in its three forms, whichever command brings it; the states change by `setAng_says`. -/
theorem angleSourceChanges : Obligations.AngleSourceChanges := by
  unfold Obligations.AngleSourceChanges
  refine ⟨?lost, ?fallback, ?back, ?absent, ?slewed, ?jumped, ?locked, ?acquiring, ?slewDone, ?slewing, ?switched⟩
  case lost =>
    intro s r hstate hsrc hrate
    exact ⟨_, congrArg Host.Outcome.next (loseSource_eq hstate hsrc), toSynth_says s hrate⟩
  case fallback =>
    intro s d f freq hstate hlost hfall hf hok hdelay hlow hhigh
    exact ⟨_, exec_angFallback hstate hlost hfall (by omega) hok hdelay (by omega) (by omega),
      takeSource_small hlow hhigh (by omega) hok (by simp [hstate])⟩
  case back =>
    intro s d f freq hstate hseed hsrc hf hok hlow hhigh
    exact ⟨_, exec_angSrcReturn hstate hseed hsrc hok (by omega) (by omega), takeSource_small hlow hhigh hf hok (by simp [hstate])⟩
  case absent =>
    intro s d f freq hsrc hok
    subst hsrc
    exact congrArg Host.Outcome.next (if_neg (by simp [hok]))
  case slewed =>
    intro s d f freq hstate hseed hsrc hf hok hlow hhigh hfar hslew
    obtain ⟨v, hacquired, hsaid⟩ := takeSource_slew hfar hf hok (by simp [hstate]) hslew
    exact ⟨v, _, exec_angSrcReturn hstate hseed hsrc hok hlow hhigh, hacquired, hsaid⟩
  case jumped =>
    intro s d f freq hstate hseed hsrc hf hok hfar hhigh hjump hframes hpassed
    obtain ⟨v, hacquired, hsaid⟩ := takeSource_jump_says hfar hf hok (by simp [hstate]) hjump hframes hpassed
    exact ⟨v, _, exec_angSrcReturn hstate hseed hsrc hok (by omega) (by omega), hacquired, hsaid⟩
  case locked =>
    intro s hstate hgood
    exact ⟨_, congrArg Host.Outcome.next (if_pos ⟨hstate, hgood⟩), setAng_says (by simp [hstate])⟩
  case acquiring =>
    intro s hstate hsrc hgood
    exact congrArg Host.Outcome.next (if_neg (by simp [hsrc, hgood]))
  case slewDone =>
    intro s hstate hrem
    exact ⟨_, congrArg Host.Outcome.next (if_pos ⟨hstate, hrem⟩), setAng_says (by simp [hstate])⟩
  case slewing =>
    intro s hrem
    exact congrArg Host.Outcome.next (if_neg (by simp [hrem]))
  case switched =>
    intro s q v d freq hq hlock hfnom hsrc hchange hseed hstate hok hbwLow hbwHigh hlow hhigh
    obtain ⟨w, hfields, hexec⟩ := exec_angSrcSwitch (freq := freq) (d := d) hq hlock hfnom hsrc hchange hseed hbwLow hbwHigh (by omega) (by omega)
    have hfld : ∀ f ∈ (RegName.desc .angCtrl).fields,
        ((s.setReg .angCtrl 0 0 w).touchLock 2).fld .angCtrl f.lo f.width = bitsOf v.toNat f.lo f.width := fun f hf => by
      rw [State.fld, show ((s.setReg .angCtrl 0 0 w).touchLock 2).reg .angCtrl = w from (setReg_reg ..).trans (if_pos rfl)]
      exact hfields f hf
    refine ⟨(s.setReg .angCtrl 0 0 w).touchLock 2, _, hexec, rfl, hfld ⟨.rwl, 0, 2, 0, [(0, 2)]⟩ (by decide),
      hfld ⟨.rwl, 16, 8, 10, []⟩ (by decide), fun _ _ _ h => setReg_reg_other h, ?_⟩
    exact takeSource_small (s := (s.setReg .angCtrl 0 0 w).touchLock 2) hlow hhigh (by omega) hok hstate

end Sys2Proof.Machine
end

section
/-! SUPPORT. The cycle boundary with its mapping, and the seeds of the cycle count (R99, R101, R103, R107 to R109, R118, R120). -/

namespace Sys2Proof.Machine

/-! The cycle boundary. -/

/-- At a new angle 0 the mapping is renewed and the cycle's measurement taken; no clock moves. -/
theorem exec_cycleBoundary_atZero {s : State} (hzero : s.tb.ang % countsPerCycle = 0) (hnew : s.tb.ang ≠ s.tb.anchor.ang)
    (m : Option (Nat × Int)) : exec (.cycleBoundary m) s = .next (s.newMapping.trackCycle m) := by
  show Host.Outcome.next ((if s.tb.ang % countsPerCycle = 0 ∧ s.tb.ang ≠ s.tb.anchor.ang then s else s.toBoundary).newMapping.trackCycle m) = _
  rw [if_pos ⟨hzero, hnew⟩]

/-- The new mapping's period: the cycle just ended, measured in plant time, or before that a cycle at the present rate (R118). -/
theorem newMapping_period (s : State) :
    (s.tb.anchor.ang ≠ 0 → s.tb.anchor.ang + countsPerCycle = s.tb.ang →
      s.newMapping.tb.anchor.period = (s.tb.pt.total - s.tb.anchor.pt.total) * 65536) ∧
    (s.tb.anchor.ang = 0 → s.newMapping.tb.anchor.period = countsNs (countsPerCycle * 65536) s.tb.freq) :=
  ⟨fun h h' => if_pos ⟨h, h'⟩, fun h => if_neg fun hc => hc.1 h⟩

/-- A frequency out of the band loses the source (R99, R103). -/
theorem trackCycle_outOfBand {s : State} {f : Nat} (e : Int) (hband : f < 400000 ∨ 720000 < f) (hstate : s.tb.angState ≠ .synth)
    (hsrc : s.tb.angSrc ≠ 2) : s.trackCycle (some (f, e)) = s.toSynth := by
  have hout : inBand f = false := by unfold inBand; simp; omega
  unfold State.trackCycle
  dsimp only
  rw [if_neg (by simp [hstate, hsrc]), if_pos hout, loseSource_eq hstate hsrc]

/-- In LOCKED a small difference is tracked away at the source's frequency (R99, R101, R110). -/
theorem trackCycle_locked {s : State} {f : Nat} {e : Int} (hlow : 400000 ≤ f) (hhigh : f ≤ 720000) (hstate : s.tb.angState = .locked)
    (hsrc : s.tb.angSrc ≠ 2) (hneg : -4660 < e) (hpos : e < 4660) :
    s.trackCycle (some (f, e)) = { s with tb := { (s.setRate f).tb with
      goodCycles := s.tb.goodCycles + 1, lockRate := some f, slewRem := e } } := by
  have hin : inBand f = true := by unfold inBand; simp; omega
  have hstate' : (s.setRate f).tb.angState = .locked := hstate
  have hwrap : wrapPhase e = e := wrapPhase_id (by omega) (by omega)
  have hsmall : e.natAbs < 4660 := by omega
  unfold State.trackCycle
  dsimp only
  rw [if_neg (by simp [hstate, hsrc]), if_neg (by simp [hin]), hwrap, if_pos hsmall, hstate', if_pos rfl, if_neg nofun]
  exact if_pos hsmall.le

/-! Seeds of the cycle count. -/

/-- The lowest count that a seed may set: the running one, and the journal's last plus one (R108). -/
def State.seedFloor (s : State) : Nat :=
  match journalCycle s.wb.journal with
  | some j => max (s.tb.ang / countsPerCycle) (j + 1)
  | none => s.tb.ang / countsPerCycle

theorem seedCount_eq (s : State) (c : Nat) : s.seedCount c =
    if c < s.seedFloor then
      ({ s with dsp := { s.dsp with cycleAhead := true, aheadBy := s.seedFloor - c } }.setCount s.seedFloor).record .cycleAhead [s.seedFloor, c]
    else s.setCount c := rfl

theorem own_le_seedFloor (s : State) : s.tb.ang / countsPerCycle ≤ s.seedFloor := by
  unfold State.seedFloor
  split
  · exact Nat.le_max_left ..
  · exact Nat.le_refl _

theorem seedFloor_le {s : State} {c : Nat} (hown : s.tb.ang / countsPerCycle ≤ c)
    (hjournal : ∀ j, journalCycle s.wb.journal = some j → j + 1 ≤ c) : s.seedFloor ≤ c := by
  unfold State.seedFloor
  split
  · exact Nat.max_le.mpr ⟨hown, hjournal _ ‹_›⟩
  · exact hown

/-- A count at or above the running one moves the clock on by whole cycles. -/
theorem setCount_mono {s : State} {c : Nat} (hown : s.tb.ang / countsPerCycle ≤ c) :
    s.tb.ang ≤ (s.setCount c).tb.ang ∧ (s.setCount c).tb.ang % countsPerCycle = s.tb.ang % countsPerCycle := by
  refine ⟨?_, (setCount_eq s c).2⟩
  have hsplit := Nat.div_add_mod' s.tb.ang countsPerCycle
  have hcycles := Nat.mul_le_mul_right countsPerCycle hown
  show s.tb.ang ≤ c * countsPerCycle + s.tb.ang % countsPerCycle
  omega

/-- A seed never moves the clock back, and leaves its angle (R108). -/
theorem seedCount_mono (s : State) (c : Nat) :
    s.tb.ang ≤ (s.seedCount c).tb.ang ∧ (s.seedCount c).tb.ang % countsPerCycle = s.tb.ang % countsPerCycle := by
  rw [seedCount_eq]
  split
  case isTrue hlow =>
    rw [(Reports.record _ _ _).tb]
    exact setCount_mono (s := { s with dsp := _ }) (own_le_seedFloor s)
  case isFalse hlow => exact setCount_mono ((own_le_seedFloor s).trans (Nat.not_lt.mp hlow))

/-- An anchor of the seed pair never moves the clock back, and leaves its angle (R108, R109). -/
theorem takeAnchor_mono (s : State) (a : Anchor) (age st : Nat) :
    s.tb.ang ≤ (s.takeAnchor a age st).tb.ang ∧ (s.takeAnchor a age st).tb.ang % countsPerCycle = s.tb.ang % countsPerCycle := by
  have hstay : s.tb.ang ≤ s.tb.ang ∧ s.tb.ang % countsPerCycle = s.tb.ang % countsPerCycle := ⟨Nat.le_refl _, rfl⟩
  unfold State.takeAnchor
  split
  · exact hstay
  · split
    · split
      · exact compareCount_ang s _
      · exact hstay
    · split
      · exact seedCount_mono s _
      · exact hstay

/-- The first anchor of a seed pair that R107 admits gives the count before the next boundary's. -/
theorem takeAnchor_seeds {s : State} {a : Anchor} {age st : Nat} (hcfg : s.fld .angSeed 0 2 = 1) (hage : age ≤ 10000)
    (hlocked : s.tb.ptState = .locked) (hst : bitsOf st 6 2 = 0) (hunseeded : s.tb.seeded = false)
    (hfloor : s.seedFloor ≤ s.countBy a - 1) : s.takeAnchor a age st = s.setCount (s.countBy a - 1) := by
  unfold State.takeAnchor
  rw [if_neg (by simp [hcfg]), if_neg (by simp [hunseeded]), if_pos ⟨hage, hlocked, hst⟩, seedCount_eq, if_neg (by omega)]

/-- A clock ahead of a seed pair's anchor keeps counting and is recorded (R109). -/
theorem takeAnchor_ahead {s : State} {a : Anchor} {age st : Nat} (hcfg : s.fld .angSeed 0 2 = 1) (hmap : s.mapValid = true)
    (hst : bitOf st 9 = true) (hseeded : s.tb.seeded = true) (hahead : s.countBy a < s.tb.ang / countsPerCycle + 1) :
    s.takeAnchor a age st =
      ({ s with dsp := { s.dsp with cycleAhead := true, aheadBy := s.tb.ang / countsPerCycle + 1 - s.countBy a } } : State).record .cycleAhead
        [s.tb.ang / countsPerCycle + 1, s.countBy a] := by
  unfold State.takeAnchor
  rw [if_neg (by simp [hcfg]), if_pos hseeded, if_pos (by simp [hmap, hst])]
  unfold State.compareCount
  dsimp only
  rw [if_neg (by omega), if_pos hahead]

/-- Settles O17: the boundary by its new mapping and what it tracks, the seeds by `seedCount_eq` and its floor. -/
theorem cycleBoundariesAndSeeds : Obligations.CycleBoundariesAndSeeds := by
  unfold Obligations.CycleBoundariesAndSeeds
  refine ⟨?mapping, ?tracking, ?record, ?partner, ?seedPair, ?plantTime, ?ahead, ?forward⟩
  case mapping =>
    intro s hzero hnew
    obtain ⟨hmeasured, hfirst⟩ := newMapping_period s
    exact ⟨_, exec_cycleBoundary_atZero hzero hnew none, rfl, rfl, rfl, hmeasured, hfirst, rfl, rfl, rfl⟩
  case tracking =>
    intro s f e hzero hnew hstate hsrc
    refine ⟨fun hband => ?_, fun hlow hhigh hlocked hneg hpos => ?_⟩
    · have hsaid := toSynth_says s.newMapping rfl
      refine ⟨_, exec_cycleBoundary_atZero hzero hnew _, ?_⟩
      rw [trackCycle_outOfBand (s := s.newMapping) e hband hstate hsrc, hsaid.tb]
      exact ⟨rfl, rfl⟩
    · refine ⟨_, exec_cycleBoundary_atZero hzero hnew _, ?_⟩
      rw [trackCycle_locked (s := s.newMapping) hlow hhigh hlocked hsrc hneg hpos]
      exact ⟨rfl, rfl, rfl, rfl, hlocked⟩
  case record =>
    exact fun s => ⟨_, rfl, mapRecord_says (Says.refl s)⟩
  case partner =>
    intro s c hsync
    obtain ⟨hcount, hangle⟩ := setCount_eq s c
    exact ⟨_, congrArg Host.Outcome.next (if_pos hsync), hcount, hangle, rfl⟩
  case seedPair =>
    intro s a age st hcfg hage hlocked hst hunseeded hown hjournal
    obtain ⟨hcount, hangle⟩ := setCount_eq s (s.countBy a - 1)
    exact ⟨_, congrArg Host.Outcome.next (takeAnchor_seeds hcfg hage hlocked hst hunseeded (seedFloor_le hown hjournal)), hcount, hangle, rfl⟩
  case plantTime =>
    intro s j c low hcfg hunseeded hjournal hc hlow hbelow
    have hfloor : s.seedFloor = low := by unfold State.seedFloor; rw [hjournal]; exact hlow
    refine ⟨s.seedCount c, ?_, ?_⟩
    · rw [← hc]
      exact congrArg Host.Outcome.next (if_pos ⟨hcfg, hunseeded⟩)
    · rw [seedCount_eq, hfloor, if_pos hbelow]
      exact (Says.refl _).record .cycleAhead [low, c]
  case ahead =>
    intro s a age st hcfg hmap hst hseeded hahead
    exact ⟨_, congrArg Host.Outcome.next (takeAnchor_ahead hcfg hmap hst hseeded hahead), (Says.refl _).record .cycleAhead _⟩
  case forward =>
    intro s src hmode
    cases src with
    | partner c => exact ⟨s, congrArg Host.Outcome.next (if_neg hmode), Nat.le_refl _, rfl⟩
    | seedPair a age st => exact ⟨_, rfl, takeAnchor_mono s a age st⟩
    | plantTime =>
      by_cases hseeds : s.fld .angSeed 0 2 = 2 ∧ s.tb.seeded = false
      · exact ⟨_, congrArg Host.Outcome.next (if_pos hseeds), seedCount_mono s _⟩
      · exact ⟨s, congrArg Host.Outcome.next (if_neg hseeds), Nat.le_refl _, rfl⟩

end Sys2Proof.Machine
end

section
/-! SUPPORT. Plant time and its masters: frames of no supported form, the choice and the loss of a master, the servo and the steps (R120, R122,
R123, R125, R126). -/

namespace Sys2Proof.Machine

/-! Masters. -/

theorem ptpSupported_false {s : State} {f : PtpForm} (h : 4 ≤ f.port ∨ f.layer2 = false ∨ f.peer = false ∨ f.mgmt = true) :
    s.ptpSupported f = false := by
  unfold State.ptpSupported
  rcases h with h | h | h | h
  · simp [Nat.not_lt.mpr h]
  all_goals simp [h]

theorem setPt_self {s : State} {p : PtState} (h : s.tb.ptState = p) : s.setPt p = s := if_pos h

theorem loseMaster_none {s : State} (h : s.tb.master = 255) : s.loseMaster = s := if_pos h

/-- A lost master leaves plant time free-running at the mean of its last adjustments (R125). -/
theorem loseMaster_says {s : State} (hmaster : s.tb.master ≠ 255) (hstate : s.tb.ptState ≠ .freerun) :
    Says { s with tb := { s.tb with master := 255, ptAdj := meanAdj s.tb.adjHist, ptGood := 0, ptBad := 0, ptState := .freerun } }
      [(.ptMasterLost, [s.tb.master]), (.mapRec, anchorWords s.tb.anchor)] [105] s.loseMaster := by
  unfold State.loseMaster
  rw [if_neg hmaster, if_neg hstate]
  exact (mapRecord_says ((Says.refl _).record .ptMasterLost [s.tb.master])).raise 105 (by decide)

/-- The first master is taken through ACQUIRE (R125). -/
theorem exec_ptpAnnounceRx_first {s : State} {f : PtpForm} {m : Nat} (hform : s.ptpSupported f = true) (hmaster : s.tb.master = 255)
    (hm : m < 255) : exec (.ptpAnnounceRx f m none) s =
      .next (({ s with tb := { s.tb with master := m, ptGood := 0, ptBad := 0, adjHist := [] } } : State).setPt .acquire) := by
  have hmod : m % 256 = m := Nat.mod_eq_of_lt (by omega)
  show execPtpAnnounceRx f m none s = _
  unfold execPtpAnnounceRx
  dsimp only
  rw [if_neg (by simp [hform]), hmod, if_neg (by omega), loseMaster_none hmaster]

/-- The selected master's announce brings its UTC offset alone (R125). -/
theorem exec_ptpAnnounceRx_again {s : State} {f : PtpForm} {u : Nat} (hform : s.ptpSupported f = true) (hmaster : s.tb.master < 255) :
    exec (.ptpAnnounceRx f s.tb.master (some u)) s = .next (s.setReg .ptUtc 0 0 (BitVec.ofNat 32 (u % 65536))) := by
  have hsame : s.tb.master = s.tb.master % 256 := (Nat.mod_eq_of_lt (by omega)).symm
  exact congrArg Host.Outcome.next ((if_neg (by simp [hform])).trans (if_pos hsame))

/-! The servo and the steps. -/

/-- The adjustment that the servo takes, in range of TB_PT_ADJ. -/
def State.servoValue (s : State) (off : Int) : Int :=
  max (-32768) (min 32767 (Config.servoAdj s.freeCtr off (s.fld .ptCtrl 16 4) (s.fld .ptCtrl 20 4) s.tb.ptAdj))

/-- The state after a good offset stamped in hardware, before it decides on ACQUIRE or LOCKED. -/
def State.takeOffset (s : State) (off : Int) : State :=
  { s with freeCtr := s.freeCtr + 1, tb :=
    { s.tb with ptOffset := off, ptSw := false, ptGood := s.tb.ptGood + 1, ptBad := 0, ptAdj := s.servoValue off,
                adjHist := (s.servoValue off :: s.tb.adjHist).take 16 } }

/-- A good offset: the servo's adjustment joins the history, and the sixteenth good one in a row is LOCKED (R123). -/
theorem exec_ptpSyncRx_good {s : State} {f : PtpForm} {off : Int} (hform : s.ptpSupported f = true) (hport : s.fld .portCtrl 0 2 f.port = 1)
    (hmaster : s.tb.master ≠ 255) (hnear : off.natAbs ≤ 100) (hsmall : off.natAbs ≤ s.fld .ptStepThresh 0 32 * 1000) :
    exec (.ptpSyncRx f off) s = .next ((s.takeOffset off).setPt (if 16 ≤ s.tb.ptGood + 1 then .locked else .acquire)) := by
  have hsoft : (s.fld .portCtrl 0 2 f.port == 2) = false := by rw [hport]; rfl
  show execPtpSyncRx f off s = _
  unfold execPtpSyncRx
  dsimp only
  rw [if_neg (by simp [hform]), if_neg (by simp [hmaster, hport]), hsoft, if_neg (by omega : ¬ s.fld .ptStepThresh 0 32 * 1000 < off.natAbs),
    if_neg (by omega)]
  simp only [Bool.false_eq_true, if_false, hnear, decide_true, if_true]
  exact congrArg Host.Outcome.next (apply_ite (s.takeOffset off).setPt (16 ≤ s.tb.ptGood + 1) .locked .acquire).symm

/-- The third offset in a row beyond the threshold steps plant time by it, into ACQUIRE (R126). -/
theorem exec_ptpSyncRx_step {s : State} {f : PtpForm} {off : Int} (hform : s.ptpSupported f = true)
    (hport : s.fld .portCtrl 0 2 f.port ≠ 0) (hmaster : s.tb.master ≠ 255) (hstep : s.bit .ptCtrl 2 = true) (hbad : 2 ≤ s.tb.ptBad)
    (hfar : s.fld .ptStepThresh 0 32 * 1000 < off.natAbs) (hhuge : 10000 < off.natAbs) :
    exec (.ptpSyncRx f off) s = .next ((({ s with tb := { s.tb with
      ptOffset := off, ptSw := s.fld .portCtrl 0 2 f.port == 2, ptGood := 0, ptBad := 0 } } : State).stepPt (-off)).setPt .acquire) := by
  have hnear : decide (off.natAbs ≤ if (s.fld .portCtrl 0 2 f.port == 2) = true then 10000 else 100) = false := by
    split <;> simp <;> omega
  show execPtpSyncRx f off s = _
  unfold execPtpSyncRx
  dsimp only
  rw [if_neg (by simp [hform]), if_neg (by simp [hmaster, hport]), hnear, if_pos hfar, if_pos ⟨hstep, by omega⟩]
  rfl

/-- TB_PT_STEP_GO under the TB lock steps plant time by what TB_PT_STEP holds (R126). -/
theorem exec_ptSoftStep {s : State} {q : Requester} (v : Word) (hq : q ≠ .debug) (hlock : s.lockedFor 2 q = true) :
    ∃ w, exec (.ptSoftStep q v) s = .next (((s.setReg .ptStepGo 0 0 w).touchLock 2).stepPt s.softStep) := by
  have hfields : fieldsOf .ptStepGo .rwl = (RegName.desc .ptStepGo).fields := by decide
  have hheld := writeHeld_rwl (s := s) (q := q) (r := .ptStepGo) (i := 0) (j := 0) (v := v) (by decide) (by decide) (by decide) (by decide)
    (fun _ => rfl) (by decide) hlock nofun (by simp [hfields, RegName.desc, fieldOk])
  generalize (applyFields (s.reg .ptStepGo) v (fieldsOf .ptStepGo .rwl)).1 = w at hheld
  have hsec : ((s.setReg .ptStepGo 0 0 w).touchLock 2).reg .ptStepSec = s.reg .ptStepSec := setReg_reg_other (by decide)
  have hns : ((s.setReg .ptStepGo 0 0 w).touchLock 2).reg .ptStepNs = s.reg .ptStepNs := setReg_reg_other (by decide)
  have hsoft : ((s.setReg .ptStepGo 0 0 w).touchLock 2).softStep = s.softStep := by
    unfold State.softStep
    rw [hsec, hns]
  refine ⟨w, ?_⟩
  show execPtSoftStep q v s = _
  unfold execPtSoftStep
  rw [barred_core hq (by decide)]
  dsimp only
  unfold State.writeStepGo
  rw [hheld]
  dsimp only
  rw [if_pos rfl]
  exact congrArg (fun d => Host.Outcome.next (((s.setReg .ptStepGo 0 0 w).touchLock 2).stepPt d)) hsoft

/-- Settles O18: masters by `loseMaster_says` and `setPt_says`, offsets by the servo or a step of plant time. -/
theorem plantTimeAndItsMasters : Obligations.PlantTimeAndItsMasters := by
  unfold Obligations.PlantTimeAndItsMasters
  refine ⟨fun s f h => ptpSupported_false h, fun s f off h => congrArg Host.Outcome.next (if_pos h),
    fun s f m utc h => congrArg Host.Outcome.next (if_pos h), ?first, ?again, ?lost, ?good, ?step, ?soft⟩
  case first =>
    intro s f m hform hmaster hm hstate hnonce
    refine ⟨_, exec_ptpAnnounceRx_first hform hmaster hm, ?_⟩
    have hsaid := setPt_says (s := { s with tb := { s.tb with master := m, ptGood := 0, ptBad := 0, adjHist := [] } }) (a := .acquire) hstate
    rwa [if_neg hnonce] at hsaid
  case again =>
    intro s f u hform hmaster
    refine ⟨_, exec_ptpAnnounceRx_again hform hmaster, ?_, fun _ _ _ h => setReg_reg_other h, rfl⟩
    rw [State.fld, setReg_reg, if_pos rfl]
    simp only [bitsOf, BitVec.toNat_ofNat]
    omega
  case lost =>
    exact fun s hmaster hstate => ⟨_, rfl,
      loseMaster_says (s := { s with tb := { s.tb with annTimeouts := satAt 65535 (s.tb.annTimeouts + 1) } }) hmaster hstate⟩
  case good =>
    intro s f off hform hport hnonce hmaster hneg hpos hsmall hstate
    refine ⟨_, exec_ptpSyncRx_good hform hport hmaster (by omega) hsmall, ?_⟩
    rw [setPt_tb]
    refine ⟨rfl, rfl, (servo_bounds _).1, (servo_bounds _).2, ?_, ?_⟩
    · dsimp only
      split <;> simp_all
    · exact setPt_reports (s := s.takeOffset off) _ hnonce
  case step =>
    intro s f off hform hport hframes hmaster hstep hbad hfar hneg hpassed hstate hhuge
    have hnew : (Int.ofNat s.tb.pt.total + -off).toNat = s.tb.pt.total + off.natAbs := by simp only [Int.ofNat_eq_natCast]; omega
    have hsaid := stepPt_says (s := { s with tb := { s.tb with
      ptOffset := off, ptSw := s.fld .portCtrl 0 2 f.port == 2, ptGood := 0, ptBad := 0 } }) (d := -off) hframes (.inl (hnew ▸ hpassed))
    have hacquire : (State.stepPt _ _).tb.ptState = .acquire := (congrArg TbSt.ptState hsaid.tb).trans hstate
    refine ⟨_, exec_ptpSyncRx_step hform hport hmaster hstep hbad hfar hhuge, ?_⟩
    rw [setPt_self hacquire, ← hnew]
    exact hsaid
  case soft =>
    intro s q v hq hlock hback hframes
    obtain ⟨w, hexec⟩ := exec_ptSoftStep v hq hlock
    exact ⟨(s.setReg .ptStepGo 0 0 w).touchLock 2, _, hexec, rfl, fun _ _ _ h => setReg_reg_other h,
      stepPt_says (s := (s.setReg .ptStepGo 0 0 w).touchLock 2) hframes (.inr hback.le)⟩

end Sys2Proof.Machine
end

section
/-! SUPPORT. The transmit queues' heads, alarms, and timed frames at their instant (R130, R131, R134 to R138, R529, R530). -/

namespace Sys2Proof.Machine

/-! The head of a transmit queue. -/

section
variable {s : State} {f : TimedFrame} {n c : Nat}

theorem headFrame_eq_none (h : (s.tb.frames.filter fun g => g.network == n && g.prio == c) = []) : s.headFrame n c = none := by
  unfold State.headFrame
  rw [h]

theorem headFrame_single (h : (s.tb.frames.filter fun g => g.network == n && g.prio == c) = [f]) : s.headFrame n c = some f := by
  unfold State.headFrame
  rw [h]
  rfl

theorem settleQueue_empty (h : s.headFrame n c = none) (k : Nat) : s.settleQueue n c k = s := by
  cases k with
  | zero => rfl
  | succ k => rw [State.settleQueue, h]

theorem settleFrames_empty (h : s.headFrame n c = none) : s.settleFrames n c = s := settleQueue_empty h _

/-- A head that waits for its instant, for its module's turn or for its gate stays. -/
theorem settleFrames_stays (hhead : s.headFrame n c = some f) (halive : s.frameAlive f = true)
    (hwait : f.headed = true ∨ s.frameMay f = false ∨ (f.timed = false ∧ s.gatesOpen n c = false)) : s.settleFrames n c = s := by
  unfold State.settleFrames
  rw [State.settleQueue, hhead]
  dsimp only
  rw [if_neg (by simp [halive])]
  by_cases hheld : f.headed = true ∨ s.frameMay f = false
  · exact if_pos hheld
  · obtain ⟨htimed, hclosed⟩ := (or_assoc.mpr hwait).resolve_left hheld
    rw [if_neg hheld, if_pos htimed, if_neg (by simp [hclosed])]

/-- A timed frame that comes to the head before its instant waits there for it (R131). -/
theorem settleFrames_waits (hhead : s.headFrame n c = some f) (halive : s.frameAlive f = true) (hnew : f.headed = false)
    (hmay : s.frameMay f = true) (htimed : f.timed = true) (hearly : s.almClock f.ptBase ≤ f.due) :
    s.settleFrames n c = { s with tb := { s.tb with frames := s.tb.frames.map fun g => if g.id = f.id then { g with headed := true } else g } } := by
  unfold State.settleFrames
  rw [State.settleQueue, hhead]
  dsimp only
  rw [if_neg (by simp [halive]), if_neg (by simp [hnew, hmay]), if_neg (by simp [htimed]), if_neg (Nat.not_lt.mpr hearly)]

/-- A timed frame that comes to the head after its instant goes by its LATE_POLICY (R131). -/
theorem settleFrames_late (hhead : s.headFrame n c = some f) (halive : s.frameAlive f = true) (hnew : f.headed = false)
    (hmay : s.frameMay f = true) (htimed : f.timed = true) (hlate : f.due < s.almClock f.ptBase) :
    s.settleFrames n c = (s.lateFrame f).settleQueue n c s.tb.frames.length := by
  unfold State.settleFrames
  rw [State.settleQueue, hhead]
  dsimp only
  rw [if_neg (by simp [halive]), if_neg (by simp [hnew, hmay]), if_neg (by simp [htimed]), if_pos hlate]

/-- A queue of one frame is empty once the frame has left. -/
theorem filter_leaves_empty {l : List TimedFrame} (h : (l.filter fun g => g.network == n && g.prio == c) = [f]) :
    ((l.filter fun g => decide (g.id ≠ f.id)).filter fun g => g.network == n && g.prio == c) = [] := by
  rw [List.filter_comm, h]
  simp

end

/-- A frame without a descriptor leaves its queue and the module (R131). -/
theorem launchFrame_plain {s : State} {f : TimedFrame} (hwork : f.work = none) (late : Bool) (mark : Nat) :
    s.launchFrame f late mark = { s with tb := { s.tb with frames := s.tb.frames.filter fun g => decide (g.id ≠ f.id) },
                                         out := s.out ++ [.net f.network f.prio (.raw f.bytes)] } := by
  unfold State.launchFrame State.frameAlive State.finishFrame
  rw [hwork]
  rfl

/-- A frame alone in its queue at its instant, with its gates open, leaves. -/
theorem exec_frameLaunch_sends {s : State} {id : Nat} {f : TimedFrame} (hfind : (s.tb.frames.find? fun g => g.id == id) = some f)
    (hid : f.id = id) (hwork : f.work = none) (hheaded : f.headed = true)
    (hqueue : (s.tb.frames.filter fun g => g.network == f.network && g.prio == f.prio) = [f]) (hgates : s.gatesOpen f.network f.prio = true)
    (hfirst : s.firstOfInstant f = true) (hdue : f.due ≤ s.almClock f.ptBase) (hpolicy : f.lateAtHead = false ∨ f.latePolicy = true) :
    exec (.frameLaunch id) s = .next { s with tb := { s.tb with frames := s.tb.frames.filter fun g => decide (g.id ≠ id) },
                                              out := s.out ++ [.net f.network f.prio (.raw f.bytes)] } := by
  have hhead := headFrame_single hqueue
  have halive : s.frameAlive f = true := by unfold State.frameAlive; rw [hwork]; rfl
  have hmay : s.frameMay f = true := by unfold State.frameMay; rw [hwork]; rfl
  have hsent : (if f.lateAtHead = true then s.lateFrame f else s.launchFrame f false 0) =
      { s with tb := { s.tb with frames := s.tb.frames.filter fun g => decide (g.id ≠ f.id) },
               out := s.out ++ [.net f.network f.prio (.raw f.bytes)] } := by
    unfold State.lateFrame
    rw [launchFrame_plain hwork, launchFrame_plain hwork]
    rcases hpolicy with h | h <;> simp [h]
  show execFrameLaunch id s = _
  unfold execFrameLaunch
  rw [hfind]
  dsimp only
  rw [settleFrames_stays hhead halive (.inl hheaded), hhead]
  dsimp only
  rw [if_pos ⟨hid, hdue⟩]
  unfold State.launchHead
  rw [if_neg (by simp [hgates]), if_neg (by simp [hfirst, hmay]), hsent, settleFrames_empty (headFrame_eq_none (filter_leaves_empty hqueue)), hid]

/-- A frame that comes to the head of its queue after its instant, without LATE_POLICY, is dropped with LAUNCH_MISSED (R131). -/
theorem exec_frameLaunch_drops {s : State} {id : Nat} {f : TimedFrame} {w : WorkRef} {op : Op}
    (hfind : (s.tb.frames.find? fun g => g.id == id) = some f) (hid : f.id = id) (hwork : f.work = some w) (hop : s.frameOp w = some op)
    (hserve : s.mayServe op = true) (hqueue : (s.tb.frames.filter fun g => g.network == f.network && g.prio == f.prio) = [f])
    (hnew : f.headed = false) (htimed : f.timed = true) (hlate : f.due < s.almClock f.ptBase) (hpolicy : f.latePolicy = false) :
    exec (.frameLaunch id) s = .next (State.finish
      { s with tb := { s.tb with frames := s.tb.frames.filter fun g => decide (g.id ≠ id) } } { op with late := false, mark := 0 } 12 0) := by
  have halive : s.frameAlive f = true := by unfold State.frameAlive; rw [hwork]; simp [hop]
  have hmay : s.frameMay f = true := by unfold State.frameMay; rw [hwork]; simp [hop, hserve]
  have hdropped : s.lateFrame f = (s.pullFrame f).finish { op with late := false, mark := 0 } 12 0 := by
    have hpulled : (f.work.bind (s.pullFrame f).frameOp) = some op := by rw [hwork]; exact hop
    unfold State.lateFrame State.finishFrame
    rw [if_neg (by simp [hpolicy]), hpulled]
    rfl
  have hempty : ((s.pullFrame f).finish { op with late := false, mark := 0 } 12 0).headFrame f.network f.prio = none := by
    refine headFrame_eq_none ?_
    simp only [State.finish_frame]
    exact filter_leaves_empty hqueue
  have hsettled : s.settleFrames f.network f.prio = (s.pullFrame f).finish { op with late := false, mark := 0 } 12 0 := by
    rw [settleFrames_late (headFrame_single hqueue) halive hnew hmay htimed hlate, hdropped, settleQueue_empty hempty]
  subst hid
  show execFrameLaunch f.id s = _
  unfold execFrameLaunch
  rw [hfind]
  dsimp only
  rw [hsettled, hempty]
  rfl

/-! Alarms. -/

theorem almCtrl_free : ∀ n < 32, RegName.almCtrl.addr n 0 / 65536 ≠ 0x4016 := by decide

/-- The state with BASE and PERIODIC of alarm n set. -/
def State.setAlarmKind (s : State) (n : Nat) (ptBase periodic : Bool) : State :=
  { s with tb := { s.tb with alarms := updAt s.tb.alarms n fun a => { a with ptBase := ptBase, periodic := periodic } } }

theorem setAlarmKind_get {s : State} {n : Nat} {a : AlarmSt} (ha : s.tb.alarms[n]? = some a) (ptBase periodic : Bool) :
    (s.setAlarmKind n ptBase periodic).tb.alarms.getD n {} = { a with ptBase := ptBase, periodic := periodic } :=
  getD_updAt_self _ _ _ _ a ha

/-- A disarmed alarm written with ENABLE takes BASE and PERIODIC of the word and is armed (R135). -/
theorem exec_alarmArm {s : State} {q : Requester} {n : Nat} (v : Word) {a : AlarmSt} (hq : q ≠ .debug) (hn : n < 32)
    (ha : s.tb.alarms[n]? = some a) (hidle : a.armed = false) (hfired : bitOf v.toNat 3 = false) :
    exec (.alarmArm q n v) s = .next ((s.setAlarmKind n (bitOf v.toNat 1) (bitOf v.toNat 2)).armAlarm q n) := by
  have hbit : ∀ k, 1 ≤ k → bitOf (v ||| 1).toNat k = bitOf v.toNat k := fun k hk => by
    rw [bitOf_or_one]; simp [Nat.ne_of_gt hk]
  have henable : bitOf (v ||| 1).toNat 0 = true := by rw [bitOf_or_one]; simp
  have hkept : (updAt s.tb.alarms n fun a => { a with fired := a.fired && !bitOf v.toNat 3 }).getD n {} = a := by
    rw [getD_updAt_self _ _ _ _ a ha, hfired]; simp
  show execAlarmArm q n v s = _
  unfold execAlarmArm
  rw [barred_core hq (almCtrl_free n hn)]
  dsimp only
  unfold State.writeAlm
  rw [if_neg (by omega), hbit 1 (by omega), hbit 2 (by omega), hbit 3 (by omega), henable]
  dsimp only
  rw [hkept, if_neg (by simp [hidle]), if_pos rfl, updAt_updAt]
  refine congrArg (fun l => Host.Outcome.next (State.armAlarm { s with tb := { s.tb with alarms := l } } q n)) (updAt_congr _ _ _ _ ?_)
  intro b hb
  obtain rfl : b = a := Option.some.inj (hb.symm.trans ha)
  simp [hfired, hidle]

/-- The state with alarm n armed at a due instant. -/
def State.armedAt (s : State) (n due per : Nat) : State :=
  { s with tb := { s.tb with alarms := updAt s.tb.alarms n fun a => { a with armed := true, due := due, per := per, lastFired := none } } }

/-- A one-shot alarm of the angle clock waits for its instant, or fires at once when it is past (R135). -/
theorem armAlarm_oneShot {s : State} {n : Nat} (q : Requester) (hbase : (s.tb.alarms.getD n {}).ptBase = false)
    (honce : (s.tb.alarms.getD n {}).periodic = false) :
    s.armAlarm q n = if s.tb.ang < (s.almRegs n false).1 then s.armedAt n (s.almRegs n false).1 (s.almRegs n false).2
      else (s.armedAt n (s.almRegs n false).1 (s.almRegs n false).2).fireAlarm n 1 true false 0 := by
  unfold State.armAlarm
  dsimp only
  rw [hbase, honce, if_neg (by simp)]
  rfl

/-- A periodic alarm of the angle clock without a period is refused (R138). -/
theorem armAlarm_noPeriod {s : State} {n : Nat} (q : Requester) (hbase : (s.tb.alarms.getD n {}).ptBase = false)
    (hperiodic : (s.tb.alarms.getD n {}).periodic = true) (hper : (s.almRegs n false).2 = 0) :
    s.armAlarm q n = s.refuseWrite q (RegName.almCtrl.addr n 0) := by
  unfold State.armAlarm
  dsimp only
  rw [hbase]
  exact if_pos (.inr ⟨hperiodic, hper⟩)

/-- An alarm after it fired: a one-shot is done, a periodic one goes on `k` periods later (R137). -/
def AlarmSt.fire (k : Nat) (late skipped : Bool) (skips : Nat) (a : AlarmSt) : AlarmSt :=
  { a with fired := true, late := late, skipped := skipped, skipCount := satAt 65535 skips, lastFired := some a.due,
           armed := a.periodic, due := if a.periodic then a.due + k * a.per else a.due }

theorem fireAlarm_says (s : State) {n : Nat} (hn : n < 32) (k : Nat) (late skipped : Bool) (skips : Nat) :
    Says { s with tb := { s.tb with alarms := updAt s.tb.alarms n (AlarmSt.fire k late skipped skips) } } [] [32 + n]
      (s.fireAlarm n k late skipped skips) :=
  (Says.refl _).raise (32 + n) (by omega)

theorem exec_alarmDisarm {s : State} {q : Requester} {n : Nat} (v : Word) (hq : q ≠ .debug) (hn : n < 32) :
    exec (.alarmDisarm q n v) s = .next { s with tb := { s.tb with alarms := updAt s.tb.alarms n fun a =>
      { a with armed := false, ptBase := bitOf v.toNat 1, periodic := bitOf v.toNat 2, fired := a.fired && !bitOf v.toNat 3 } } } := by
  have hbit : ∀ k, 1 ≤ k → k < 32 → bitOf (v &&& ~~~1).toNat k = bitOf v.toNat k := fun k hk h32 => by
    rw [bitOf_clear0 v k h32]; simp [Nat.ne_of_gt hk]
  have hoff : bitOf (v &&& ~~~1).toNat 0 = false := by rw [bitOf_clear0 v 0 (by omega)]; simp
  show execAlarmDisarm q n v s = _
  unfold execAlarmDisarm
  rw [barred_core hq (almCtrl_free n hn)]
  dsimp only
  unfold State.writeAlm
  rw [if_neg (by omega), hbit 1 (by omega) (by omega), hbit 2 (by omega) (by omega), hbit 3 (by omega) (by omega), hoff]
  dsimp only
  rw [if_neg (by simp), if_neg (by simp), updAt_updAt]

/-- The calendar alarm fires at its due instant; outside COCOON it wakes nothing (R134, R610). -/
theorem exec_calendarAlarm_says {s : State} {d : Nat} (hdue : s.calDue = some d) (hnow : d ≤ s.rtc.cal.secs) (hmode : s.sys.mode ≠ .cocoon) :
    ∃ t, exec .calendarAlarm s = .next t ∧ Says { s with rtc := { s.rtc with almFired := some d } } [] [106] t := by
  have hsaid := (Says.refl { s with rtc := { s.rtc with almFired := some d } }).raise 106 (by decide)
  refine ⟨_, ?_, hsaid⟩
  show execCalendarAlarm s = _
  unfold execCalendarAlarm
  rw [hdue]
  exact congrArg Host.Outcome.next ((if_pos hnow).trans (if_pos (.inl (hsaid.mode.trans_ne hmode))))

/-- Settles O19: an alarm by what arming and firing do to it, a timed frame by the head of its queue. -/
theorem alarmsAndTimedFrames : Obligations.AlarmsAndTimedFrames := by
  unfold Obligations.AlarmsAndTimedFrames
  refine ⟨?waits, ?late, ?noPeriod, fun s q n v hq hn => exec_alarmDisarm v hq hn, ?fires, fun s d hdue hnow hmode =>
    exec_calendarAlarm_says hdue hnow hmode, ?sends, ?drops⟩
  case waits =>
    intro s q n v a hq hn ha hidle hbase honce hfired hearly
    have hkind := setAlarmKind_get ha false false
    have hwaits := (armAlarm_oneShot q (congrArg AlarmSt.ptBase hkind) (congrArg AlarmSt.periodic hkind)).trans (if_pos hearly)
    rw [exec_alarmArm v hq hn ha hidle hfired, hbase, honce, hwaits, State.armedAt, State.setAlarmKind, updAt_updAt]
    rfl
  case late =>
    intro s q n v a hq hn ha hidle hbase honce hfired hpast
    have hkind := setAlarmKind_get ha false false
    have hfires := (armAlarm_oneShot q (congrArg AlarmSt.ptBase hkind) (congrArg AlarmSt.periodic hkind)).trans
      (if_neg (Nat.not_lt.mpr hpast))
    refine ⟨_, exec_alarmArm v hq hn ha hidle hfired, ?_⟩
    rw [hbase, honce, hfires]
    have halarms : updAt ((s.setAlarmKind n false false).armedAt n (s.almRegs n false).1 (s.almRegs n false).2).tb.alarms n
        (AlarmSt.fire 1 true false 0) = updAt s.tb.alarms n fun a =>
          { a with armed := false, ptBase := false, periodic := false, due := (s.almRegs n false).1, per := (s.almRegs n false).2,
                   fired := true, late := true, skipped := false, skipCount := 0, lastFired := some (s.almRegs n false).1 } :=
      (congrArg (updAt · n (AlarmSt.fire 1 true false 0)) (updAt_updAt ..)).trans (updAt_updAt ..)
    have hsaid := fireAlarm_says ((s.setAlarmKind n false false).armedAt n (s.almRegs n false).1 (s.almRegs n false).2) hn 1 true false 0
    rw [halarms] at hsaid
    exact hsaid
  case noPeriod =>
    intro s q n v a hq hn ha hidle hbase hperiodic hfired hper
    have hkind := setAlarmKind_get ha false true
    refine ⟨_, exec_alarmArm v hq hn ha hidle hfired, ?_⟩
    rw [hbase, hperiodic, armAlarm_noPeriod q (congrArg AlarmSt.ptBase hkind) (congrArg AlarmSt.periodic hkind) hper]
    exact refuse_says _ q _
  case fires =>
    intro s n a hn ha harmed hdue
    have hget := getD_of _ _ {} _ ha
    refine ⟨s.fireAlarm n 1 false false 0, ?_, ?_⟩
    · show execAlarmFire n s = _
      unfold execAlarmFire
      dsimp only
      rw [hget, if_pos ⟨harmed, hdue⟩]
    · have hsaid := fireAlarm_says s hn 1 false false 0
      unfold AlarmSt.fire at hsaid
      simp only [Nat.one_mul] at hsaid
      exact hsaid
  case sends =>
    intro s id f hfind hid hwork hheaded hqueue hgates hfirst hdue hpolicy
    exact exec_frameLaunch_sends hfind hid hwork hheaded hqueue hgates hfirst hdue hpolicy
  case drops =>
    intro s id f w op hfind hid hwork hop hserve hqueue hnew htimed hlate hpolicy
    exact exec_frameLaunch_drops hfind hid hwork hop hserve hqueue hnew htimed hlate hpolicy

end Sys2Proof.Machine
end

section
/-! SUPPORT. The calendar's staging, commit and tick, its trim and backup, and what a lost clock leaves (R139 to R149). -/

namespace Sys2Proof.Machine

/-! Staging and committing. -/

theorem rangedField_ok {lo n low high new : Nat} (old : Nat) (hlow : low ≤ bitsOf new lo n) (hhigh : bitsOf new lo n ≤ high) :
    rangedField lo n low high old new = bitsOf new lo n := if_pos ⟨hlow, hhigh⟩

theorem rangedField_above {lo n low high new : Nat} (old : Nat) (h : high < bitsOf new lo n) :
    rangedField lo n low high old new = bitsOf old lo n := if_neg fun hc => absurd hc.2 (Nat.not_le.mpr h)

theorem bitsOf_lt (n lo w : Nat) : bitsOf n lo w < 2 ^ w := Nat.mod_lt _ (by positivity)

theorem exec_calDateStage {s : State} {q : Requester} (v : Word) (hq : q ≠ .debug) :
    exec (.calDateStage q v) s = .next (s.writeCalDate q v) := by
  show execCalDateStage q v s = _
  unfold execCalDateStage
  rw [barred_core hq (by decide)]

theorem exec_calCommit {s : State} {q : Requester} {d : Word} (v : Word) (hq : q ≠ .debug) (hstaged : s.rtc.staged = some d) :
    exec (.calCommit q v) s = .next (if (calOf d.toNat v.toNat).ok then
      { s.stepCal (calOf d.toNat v.toNat) with rtc := { (s.stepCal (calOf d.toNat v.toNat)).rtc with
        staged := none, osf := false, rangeEnd := false, tickFrom := some s.tb.csr } }
      else s.refuseWrite q (RegName.calTime.addr 0 0)) := by
  show execCalCommit q v s = _
  unfold execCalCommit
  rw [barred_core hq (by decide)]
  dsimp only
  unfold State.writeCalTime
  rw [hstaged]

/-- With no calendar alarm armed a step of the calendar is its new date and time (R133). -/
theorem stepCal_unarmed {s : State} (c : Cal) (harmed : s.bit .rtcCtrl 0 = false) : s.stepCal c = { s with rtc := { s.rtc with cal := c } } := by
  have hnone : State.calDue { s with rtc := { s.rtc with cal := c } } = none := if_pos harmed
  unfold State.stepCal
  dsimp only
  rw [hnone]

/-! The tick. -/

theorem exec_calTick_early {s : State} (h : s.tickEarly = true) : exec .calTick s = .next s := congrArg Host.Outcome.next (if_pos h)

theorem exec_calTick {s : State} (h : s.tickEarly = false) : exec .calTick s = .next
    { s with rtc := { s.rtc with cal := s.rtc.cal.tick.1, rangeEnd := s.rtc.rangeEnd || s.rtc.cal.tick.2, tickFrom := none } } :=
  congrArg Host.Outcome.next (if_neg (by simp [h]))

theorem tickEarly_of_commit {s : State} {k : Nat} (hfrom : s.rtc.tickFrom = some k) (hsoon : s.tb.csr < k + 100000000) : s.tickEarly = true := by
  unfold State.tickEarly
  rw [hfrom]
  exact decide_eq_true hsoon

/-- The last second of February is followed by March (R140). -/
theorem tick_endOfFebruary (c : Cal) : ({ c with month := 2, day := monthDays c.year 2, hour := 23, min := 59, sec := 59 } : Cal).tick =
    ({ c with month := 3, day := 1, hour := 0, min := 0, sec := 0 }, false) := by
  unfold Cal.tick
  simp

/-- February has 29 days in the leap years of the Gregorian calendar alone. -/
theorem monthDays_february (y : Nat) : monthDays y 2 = 29 ↔ 4 ∣ y ∧ (¬ 100 ∣ y ∨ 400 ∣ y + 2000) := by
  have hleap : leapYear y = true ↔ 4 ∣ y ∧ (¬ 100 ∣ y ∨ 400 ∣ y + 2000) := by
    simp [leapYear, Nat.dvd_iff_mod_eq_zero]
  rw [← hleap]
  unfold monthDays
  cases leapYear y <;> simp

/-! The clock lost. -/

/-- With the recorder taking records RTC_LOST is recorded at once (R148). -/
theorem tellRtcLost_says {s : State} {r : Bool} (h : s.rtc.lostPend = some r) :
    Says { s with rtc := { s.rtc with lostPend := none } } [(.rtcLost, [ofBool r])] [106] s.tellRtcLost := by
  unfold State.tellRtcLost
  rw [h]
  exact ((Says.refl _).record .rtcLost [ofBool r]).raise 106 (by decide)

/-- Settles O20: the calendar command by command; a loss by `tellRtcLost_says`. -/
theorem calendarAndBackup : Obligations.CalendarAndBackup := by
  unfold Obligations.CalendarAndBackup
  refine ⟨?staged, ?badMonth, ?commit, ?impossible, ?early, ?second, ?february, ?rangeEnd, fun _ _ => rfl, ?backup, ?switchover, ?lost,
    ?lostUntaken, ?retention⟩
  case staged =>
    intro s q v hq hday hmonth hmonth' hyear
    have hday' : bitsOf v.toNat 0 5 ≤ 31 := by have := bitsOf_lt v.toNat 0 5; omega
    rw [exec_calDateStage v hq, State.writeCalDate, rangedField_ok _ hday hday', rangedField_ok _ hmonth hmonth',
      rangedField_ok _ (Nat.zero_le _) hyear, if_pos (by simp [dateFieldsOk, hday, hmonth, hmonth', hyear])]
  case badMonth =>
    intro s q v old hq hstaged hmonth hday hyear
    have hday' : bitsOf v.toNat 0 5 ≤ 31 := by have := bitsOf_lt v.toNat 0 5; omega
    refine ⟨_, exec_calDateStage v hq, ?_⟩
    rw [State.writeCalDate, hstaged, rangedField_ok _ hday hday', rangedField_above _ hmonth, rangedField_ok _ (Nat.zero_le _) hyear,
      if_neg (by simp [dateFieldsOk]; omega)]
    exact refuse_says _ q _
  case commit =>
    intro s q v d hq hstaged hok harmed
    rw [exec_calCommit v hq hstaged, if_pos hok, stepCal_unarmed _ harmed]
  case impossible =>
    intro s q v d hq hstaged hbad
    refine ⟨_, exec_calCommit v hq hstaged, ?_⟩
    rw [if_neg (by simp [hbad])]
    exact refuse_says s q _
  case early =>
    exact fun s k hfrom hsoon => exec_calTick_early (tickEarly_of_commit hfrom hsoon)
  case second =>
    intro s hnow hsec
    have htick : s.rtc.cal.tick = ({ s.rtc.cal with sec := s.rtc.cal.sec + 1 }, false) := if_pos hsec
    rw [exec_calTick hnow, htick, Bool.or_false]
  case february =>
    intro s c hnow hcal
    refine ⟨?_, monthDays_february c.year⟩
    rw [exec_calTick hnow, hcal, tick_endOfFebruary, Bool.or_false]
  case rangeEnd =>
    intro s hnow hcal
    have htick : s.rtc.cal.tick = (s.rtc.cal, true) := by rw [hcal]; decide
    rw [exec_calTick hnow, htick, Bool.or_true]
  case backup =>
    intro s volt hvolt
    have hmod : volt % 4096 = volt := Nat.mod_eq_of_lt hvolt
    have hsaid := ((Says.refl { s with rtc := { s.rtc with backupVolt := volt % 4096, backupWeak := true } }).record .backupWeak [volt]).raise
      106 (by decide)
    refine ⟨?_, _, rfl, ?_⟩
    · show execBackupMeasure volt false s = _
      unfold execBackupMeasure
      rw [hmod]
      rfl
    · rw [hmod] at hsaid ⊢
      exact hsaid
  case switchover =>
    intro s hA hB
    exact congrArg Host.Outcome.next (if_neg (by simp [hA, hB]))
  case lost =>
    intro s htaking hpowered
    exact ⟨_, congrArg Host.Outcome.next (if_pos ⟨htaking, hpowered⟩),
      tellRtcLost_says (s := { s with rtc := { s.rtc with osf := true, lostPend := some false } }) rfl⟩
  case lostUntaken =>
    intro s htaking
    exact congrArg Host.Outcome.next (if_neg (by simp [htaking]))
  case retention =>
    intro s htaking hpowered
    exact ⟨_, congrArg Host.Outcome.next (if_pos ⟨htaking, hpowered⟩),
      tellRtcLost_says (s := { s.pd0Start with rtc := { s.pd0Start.rtc with osf := true, lostPend := some true } }) rfl⟩

end Sys2Proof.Machine
end

section
/-! SUPPORT. The follower's manifests and what they name, what the holder sends again, and the comparison of output digests (R106, R197, R199,
R233, R242, R243). -/

namespace Sys2Proof.Machine

/-! MSG_SEQ. -/

/-- The distance of two MSG_SEQ is the number of messages between them (R197). -/
theorem seqDistance (q : Nat) {n : Nat} (hn : n < 2 ^ 31) :
    signedOf 32 (unsignedOf 32 (Int.ofNat ((q + n) % 2 ^ 32) - Int.ofNat q)) = n := by
  unfold signedOf unsignedOf
  simp only [Int.ofNat_eq_natCast, Nat.reducePow] at hn ⊢
  split <;> omega

theorem checkSeq_first {s : State} {type : Nat} (hnone : assocGet s.wb.rxSeq type = none) (q : Nat) :
    s.checkSeq type q = { s with wb := { s.wb with rxSeq := assocSet s.wb.rxSeq type q } } := by
  unfold State.checkSeq
  rw [hnone]

theorem checkSeq_next {s : State} {type q : Nat} (hlast : assocGet s.wb.rxSeq type = some q) :
    s.checkSeq type ((q + 1) % 2 ^ 32) = { s with wb := { s.wb with rxSeq := assocSet s.wb.rxSeq type ((q + 1) % 2 ^ 32) } } := by
  unfold State.checkSeq
  rw [hlast]
  dsimp only
  rw [seqDistance q (by decide)]
  rfl

/-- A message missing between two is asked for (R197). -/
theorem checkSeq_gap {s : State} {type q : Nat} (hup : s.wbUp = true) (hlast : assocGet s.wb.rxSeq type = some q) :
    s.checkSeq type ((q + 2) % 2 ^ 32) = { s with wb := { s.wb with rxSeq := assocSet s.wb.rxSeq type ((q + 2) % 2 ^ 32) },
                                                  out := s.out ++ [wbOut s (.fetchMsg type ((q + 1) % 2 ^ 32))] } := by
  have hasked : (List.range (((2 : Nat) : Int).toNat - 1)).foldl (fun s k => s.sendWb (.fetchMsg type ((q + 1 + k) % 2 ^ 32))) s =
      { s with out := s.out ++ [wbOut s (.fetchMsg type ((q + 1) % 2 ^ 32))] } := sendWb_up hup _
  unfold State.checkSeq
  rw [hlast]
  dsimp only
  rw [seqDistance q (by decide), if_neg (by decide), hasked]

/-! Parts of manifests. -/

/-- A clock too far from the angle of the manifest is recorded (R106). -/
def State.noteAngle (s : State) (a : Nat) : State :=
  if 4660 < (Int.ofNat s.tb.ang - Int.ofNat a).natAbs then s.record .angDiverge [s.tb.ang, a] else s

theorem noteAngle_says (s : State) (a : Nat) :
    Says s (if 4660 < (Int.ofNat s.tb.ang - Int.ofNat a).natAbs then [(.angDiverge, [s.tb.ang, a])] else []) [] (s.noteAngle a) := by
  unfold State.noteAngle
  split
  · exact (Says.refl s).record .angDiverge _
  · exact Says.refl s

theorem noteAngle_same {s : State} {a : Nat} (h : s.tb.ang = a) : s.noteAngle a = s := if_neg (by rw [h]; omega)

/-- A part at a follower is kept after its MSG_SEQ is checked, and then the clock is compared. -/
theorem exec_manifestRx {s : State} {q : Nat} {m : ManPart} (hup : s.wbUp = true) (hfollows : s.follows = true) (hgen : m.gen = s.wb.gen) :
    exec (.manifestRx true q m) s = .next (((s.checkSeq 2 q).takePart m).noteAngle m.angle) := by
  show execManifestRx true q m s = _
  unfold execManifestRx
  rw [hgen, fromPartner_present hup, if_neg (by simp [hfollows])]
  rfl

/-- The part kept, with what it lacks still to be fetched; what task 0 names is no longer new (R199, R233). -/
def State.keepPart (s : State) (m : ManPart) (lacks : List ManEntry) : State :=
  { s with wb := { s.wb with manifests := addPart s.wb.manifests m lacks,
                             newItems := s.wb.newItems.filter fun e => !(m.task == 0 && m.entries.contains e) } }

theorem takePart_held {s : State} {m : ManPart} (hheld : ∀ e ∈ m.entries, s.hasItem e = true) : s.takePart m = s.keepPart m [] := by
  have hlacks : (m.entries.filter fun e => !s.hasItem e) = [] := by
    rw [List.filter_eq_nil_iff]
    intro e he
    simp [hheld e he]
  unfold State.takePart
  dsimp only
  rw [hlacks]
  rfl

/-- What a part names and the module does not hold is fetched (R199). -/
theorem takePart_lacking {s : State} {m : ManPart} {e : ManEntry} (hup : s.wbUp = true) (hone : m.entries = [e]) (hlacks : s.hasItem e = false) :
    s.takePart m = { s.keepPart m [e] with out := s.out ++ [wbOut s (.fetch e)] } := by
  have hmissing : (m.entries.filter fun e => !s.hasItem e) = [e] := by simp [hone, hlacks]
  unfold State.takePart
  dsimp only
  rw [hmissing]
  exact sendWb_up (s := s.keepPart m [e]) hup _

/-! What the holder sends again, and what comes of it. -/

theorem exec_fetchRx_item {s : State} {e : ManEntry} {c : List Byte} (hholds : s.holds = true) (hup : s.wbUp = true)
    (hitem : assocGet s.wb.heldItems e = some c) :
    exec (.fetchRx true s.wb.gen (.item e)) s = .next { s with out := s.out ++ [wbOut s (.fetchData e c)] } := by
  show execFetchRx true s.wb.gen (.item e) s = _
  unfold execFetchRx
  rw [fromPartner_present hup, if_neg (by simp [hholds])]
  dsimp only
  rw [hitem]
  exact congrArg Host.Outcome.next (sendWb_up hup _)

theorem exec_fetchRx_msg {s : State} {type seq : Nat} {h : WbHead} {m : WbMsg} (hholds : s.holds = true) (hup : s.wbUp = true)
    (hsent : sentMsg s.out type seq = some (h, m)) :
    exec (.fetchRx true s.wb.gen (.msg type seq)) s = .next { s with out := s.out ++ [.wbAgain h m] } := by
  show execFetchRx true s.wb.gen (.msg type seq) s = _
  unfold execFetchRx
  rw [fromPartner_present hup, if_neg (by simp [hholds])]
  dsimp only
  rw [hsent]
  rfl

theorem exec_fetchDataRx {s : State} (e : ManEntry) (c : List Byte) (ok : Bool) (hfollows : s.follows = true) (hup : s.wbUp = true) :
    exec (.fetchDataRx true s.wb.gen e c ok) s =
      .next (if ok then s.holdItem e c else { s with out := s.out ++ [wbOut s (.fetch e)] }) := by
  show execFetchDataRx true s.wb.gen e c ok s = _
  unfold execFetchDataRx
  rw [fromPartner_present hup, if_neg (by simp [hfollows])]
  cases ok
  · exact congrArg Host.Outcome.next (sendWb_up hup _)
  · rfl

/-! Output digests. -/

theorem exec_outputDigestRx {s : State} {c : Nat} {own : List (Nat × List Byte)} (other : List (Nat × List Byte)) (hup : s.wbUp = true)
    (hfollows : s.follows = true) (hown : assocGet s.wb.digests c = some own) :
    exec (.outputDigestRx true s.wb.gen c other) s = .next (s.compareDigests c own other) := by
  show execOutputDigestRx true s.wb.gen c other s = _
  unfold execOutputDigestRx
  rw [fromPartner_present hup, if_neg (by simp [hfollows])]
  dsimp only
  rw [hown]

theorem digestDiff_none {own other : List (Nat × List Byte)} (h : ∀ d ∈ other, assocGet own d.1 = some d.2) : digestDiff own other = none := by
  unfold digestDiff
  rw [List.find?_eq_none.mpr fun d hd => by simp [h d hd]]
  rfl

theorem digestDiff_one {own : List (Nat × List Byte)} {st : Nat} {d : List Byte} (h : assocGet own st ≠ some d) :
    digestDiff own [(st, d)] = some st := by
  unfold digestDiff
  rw [List.find?_cons_of_pos (by simpa using h)]
  rfl

/-- Outside SYNC equal digests change nothing (R242). -/
theorem compareDigests_equal {s : State} (c : Nat) {own other : List (Nat × List Byte)} (h : ∀ d ∈ other, assocGet own d.1 = some d.2)
    (hmode : s.sys.mode ≠ .sync) : s.compareDigests c own other = s := by
  unfold State.compareDigests
  rw [digestDiff_none h]
  dsimp only
  rw [if_neg fun hc => hmode hc.1]

theorem compareDigests_differ {s : State} (c : Nat) {own : List (Nat × List Byte)} {st : Nat} {d : List Byte} (h : assocGet own st ≠ some d) :
    s.compareDigests c own [(st, d)] = s.shadowMismatch st c := by
  unfold State.compareDigests
  rw [digestDiff_one h]

/-- A first mismatch of a cycle is counted and told (R242). -/
theorem shadowMismatch_says {s : State} {st c : Nat} (hst : st < 65536) (hmode : s.sys.mode ≠ .standby) (hnew : c ∉ s.wb.mismatches) :
    Says { s with wb := { s.wb with shadowCount := (s.wb.shadowCount + 1) % 65536, shadowLast := st, mismatches := s.wb.mismatches ++ [c],
                                    resyncProg := 0 },
                  upd := { s.upd with healthFrom := s.tb.csr } } [(.shadowMismatch, [st, c])] [68] (s.shadowMismatch st c) := by
  rw [shadowMismatch_eq hst hmode, if_neg (by simpa using hnew)]
  exact (((Says.refl s).record .shadowMismatch [st, c]).raise 68 (by decide)).upd
    (fun u => { u with wb := { s.wb with shadowCount := (s.wb.shadowCount + 1) % 65536, shadowLast := st,
                                         mismatches := s.wb.mismatches ++ [c], resyncProg := 0 },
                       upd := { s.upd with healthFrom := s.tb.csr } }) (fun _ _ _ _ _ => rfl) rfl rfl

/-- A standby's third mismatch within 100 cycles leads it to SYNC (R243). -/
theorem shadowMismatch_third {s : State} {st c a b : Nat} (hmode : s.sys.mode = .standby) (hfirst : s.wb.resynced = none)
    (hbefore : s.wb.mismatches = [a, b]) (hca : c ≠ a) (hcb : c ≠ b) (ha : c < a + 100) (hb : c < b + 100) :
    ∃ u : State, s.shadowMismatch st c = u.enterSync (recCodeOf .shadowMismatch) ∧ u.sys.mode = .standby ∧ u.isPending 68 = true := by
  have hsaid := ((Says.refl s).record .shadowMismatch [st, c]).raise 68 (by decide)
  have hpend := raise_pends (s.record .shadowMismatch [st, c]) (k := 68) (by decide)
  unfold State.shadowMismatch
  generalize (s.record .shadowMismatch [st, c]).raise 68 = v at hsaid hpend
  have hvmode : v.sys.mode = .standby := hsaid.mode.trans hmode
  have hrecent : ((s.wb.mismatches ++ [c]).filter fun x => decide (c < x + 100)).length = 3 := by simp [hbefore, ha, hb]
  have hnew : s.wb.mismatches.contains c = false := by simp [hbefore, hca, hcb]
  dsimp only
  rw [hsaid.wb, hvmode, hnew, hfirst]
  simp only [Bool.false_eq_true, if_false]
  rw [hrecent, if_neg (by decide), if_pos (by decide)]
  exact ⟨_, rfl, hvmode, hpend⟩

end Sys2Proof.Machine
end

section
/-! SUPPORT. Resynchronisation: the active's steps, and what the returning module takes of each (R248, R249; table Resynchronisation
steps). -/

namespace Sys2Proof.Machine

/-! The active's side. -/

theorem sendStep_eq {s : State} {k : Nat} {m : ResyncMsg} (hup : s.wbUp = true) (hstep : s.wb.resyncStep = k) (hmsg : s.resyncMsg k = some m) :
    s.sendStep = { s with out := s.out ++ [wbOut s (.resync m)] } := by
  unfold State.sendStep
  rw [hstep, hmsg]
  exact sendWb_up hup _

/-- A failed step is repeated (R248). -/
theorem exec_resyncStep_failed {s : State} (hholds : s.holds = true) (hstep : s.wb.resyncStep ≠ 0) :
    exec (.resyncStep false) s = .next s.sendStep :=
  congrArg Host.Outcome.next ((if_neg (by simp [hholds, hstep])).trans (if_pos rfl))

theorem exec_resyncStep_admits {s : State} (hholds : s.holds = true) (hstep : s.wb.resyncStep = 1) :
    exec (.resyncStep true) s = .next s.admitReturning :=
  congrArg Host.Outcome.next ((if_neg (by simp [hholds, hstep])).trans ((if_neg nofun).trans (if_pos hstep)))

/-- The active as dual commit starts (R248). -/
def State.dualCommit (s : State) : State := { s with wb := { s.wb with dual := true, resyncStep := 6, resyncProg := 0 } }

/-- What a good step after admission goes on to, by the step it is (R248). -/
def State.nextStep (s : State) : State :=
  if s.wb.resyncStep = 5 then
    (if s.wb.jsn ≤ s.wb.jsnAck then (if s.sys.mode = .solo then s.dualCommit.setMode .active else s.dualCommit).acceptReady else s)
  else if s.wb.resyncStep = 7 then { s with wb := { s.wb with resyncStep := 0, resyncProg := 0 } }
  else { s with wb := { s.wb with resyncStep := s.wb.resyncStep + 1, resyncProg := 0 } }

theorem exec_resyncStep_good {s : State} (hholds : s.holds = true) (hstep : s.wb.resyncStep ≠ 0) (hlater : s.wb.resyncStep ≠ 1) :
    exec (.resyncStep true) s = .next s.sendStep.nextStep :=
  congrArg Host.Outcome.next ((if_neg (by simp [hholds, hstep])).trans ((if_neg nofun).trans (if_neg hlater)))

/-- The end of step 5 in SOLO starts dual commit and ends SOLO (R248). -/
theorem nextStep_five {s : State} (hstep : s.wb.resyncStep = 5) (hacked : s.wb.jsn ≤ s.wb.jsnAck) (hsolo : s.sys.mode = .solo) :
    s.nextStep.sys.mode = .active ∧ s.nextStep.wb.dual = true ∧ s.nextStep.wb.resyncStep = 6 := by
  have hnext : s.nextStep = (s.dualCommit.setMode .active).acceptReady := by
    unfold State.nextStep
    rw [if_pos hstep, if_pos hacked, if_pos hsolo]
  obtain ⟨hmode, -, -, hwb⟩ := setMode_facts (s := s.dualCommit) (m := .active) nofun nofun
  rw [hnext]
  simp only [State.acceptReady_frame]
  exact ⟨hmode, by rw [hwb]; rfl, by rw [hwb]; rfl⟩

theorem nextStep_last {s : State} (hstep : s.wb.resyncStep = 7) :
    s.nextStep = { s with wb := { s.wb with resyncStep := 0, resyncProg := 0 } } :=
  (if_neg (by omega)).trans (if_pos hstep)

theorem nextStep_middle {s : State} (h5 : s.wb.resyncStep ≠ 5) (h7 : s.wb.resyncStep ≠ 7) :
    s.nextStep = { s with wb := { s.wb with resyncStep := s.wb.resyncStep + 1, resyncProg := 0 } } :=
  (if_neg h5).trans (if_neg h7)

/-- Without a HELLO of the returning module there is nothing to compare yet. -/
theorem admitReturning_unknown {s : State} (hhello : s.wb.partner.hello = none) : s.admitReturning = s := by
  unfold State.admitReturning
  rw [hhello]

theorem admitReturning_fits {s : State} {h : HelloBody} (hhello : s.wb.partner.hello = some h) (hcarrier : h.carrierId = s.pwr.carrierId) :
    s.admitReturning = { s.sendStep with wb := { s.sendStep.wb with resyncStep := 2, resyncProg := 0 } } := by
  unfold State.admitReturning
  rw [hhello]
  dsimp only
  rw [if_neg (not_not.mpr hcarrier)]

/-! The returning module's side. -/

theorem exec_resyncRx {s : State} (m : ResyncMsg) (hup : s.wbUp = true) (hsync : s.sys.mode = .sync) :
    exec (.resyncRx true s.wb.gen m) s = .next (s.takeStep m) := by
  show execResyncRx true s.wb.gen m s = _
  unfold execResyncRx
  rw [fromPartner_present hup, if_pos hsync]

/-- A module still in SYNC goes on to the configuration (R248). -/
def State.toConfig (s : State) : State := if s.sys.mode = .sync then { s with wb := { s.wb with resyncStep := 2 } } else s

/-- A partner of the same carrier that fits is admitted (R584, R585). -/
theorem takeAdmission_fits {s : State} {h : HelloBody} (hsync : s.sys.mode = .sync) (hhello : s.wb.partner.hello = some h)
    (hcarrier : h.carrierId = s.pwr.carrierId) (hfits : helloCompatible s.helloBody h = true) :
    s.takeAdmission true = { s with wb := { s.wb with resyncStep := 2 } } := by
  have hjudged : s.judgeHello h = s := (if_neg (not_not.mpr hcarrier)).trans (if_neg (by simp [hfits]))
  have htaken : s.takeAdmission true = (s.judgeHello h).toConfig := by
    unfold State.takeAdmission
    rw [hhello]
    rfl
  rw [htaken, hjudged]
  exact if_pos hsync

/-- Remembering a journal's submissions changes the queues alone. -/
theorem rememberAll_eq (l : List JEntry) (s : State) : s.rememberAll l = { s with hq := { s.hq with queues := (s.rememberAll l).hq.queues } } := by
  unfold State.rememberAll
  induction l generalizing s with
  | nil => rfl
  | cons e l ih =>
    rw [List.foldl_cons, ih]
    cases e.body <;> rfl

theorem takeJournal_eq (s : State) (l : List JEntry) : s.takeJournal l =
    { s with hq := { s.hq with queues := (s.takeJournal l).hq.queues, work := [] },
             wb := { s.wb with journal := l, jsn := (l.getLast?.map (·.jsn)).getD 0, journalBytes := journalLength l, applied := [],
                               early := [] } } :=
  rememberAll_eq l _

/-- With the cut come the journal and the program state of the active; no operation goes on (R249). -/
theorem takeStep_cut {s t : State} {b j it fo ta sl gr sg fr ri es st cy se}
    (ht : t = s.takeStep (.cut b j it fo ta s.wb.gen sl gr sg fr ri es st cy se)) :
    t.wb.journal = j ∧ t.prg.items = it ∧ t.prg.forces = fo ∧ t.prg.cycle = b ∧ t.wb.resyncStep = 5 ∧ t.wb.streams = st ∧ t.wb.served = se ∧
      t.hq.work = [] ∧ t.sys.mode = s.sys.mode := by
  rw [ht]
  unfold State.takeStep
  simp only [State.keepEpochs_frame, State.seeGen_frame]
  rw [takeJournal_eq]
  simp only [State.seeGen, and_self]

/-- The returning module as its resynchronisation ends (R249). -/
def State.resyncDone (s : State) : State :=
  { s with wb := { s.wb with resyncStep := 0, resynced := if s.wb.resynced.isSome then some s.prg.cycle else none, mismatches := [] },
           upd := { s.upd with resyncDone := true } }

/-- After 1,000 matching cycles the module is a standby again, its lease as it was (R243, R249). -/
theorem takeStep_standby {s : State} (hprog : 1000 ≤ s.wb.resyncProg) (hstep : s.wb.resyncStep = 6) (hbank : s.pwr.holdupOk = true)
    (hunits : controlLost s.sys.unitHealth true = false) :
    (s.takeStep .standby).sys.mode = .standby ∧ (s.takeStep .standby).wb.resyncStep = 0 ∧ (s.takeStep .standby).wb.lease = s.wb.lease := by
  have hhealth : ((s.resyncDone.setMode .standby).record .resyncDone [s.wb.jsn]).sys.unitHealth = s.sys.unitHealth := by
    rw [State.record_sys]
    exact State.setMode_unitHealth _ _ _
  have htaken : s.takeStep .standby = ((s.resyncDone.setMode .standby).record .resyncDone [s.wb.jsn]).stopServing := by
    have hsafe := safeIfLost_id (s := (s.resyncDone.setMode .standby).record .resyncDone [s.wb.jsn]) (by rw [hhealth]; exact hunits)
    calc s.takeStep .standby
        = (((s.resyncDone.setMode .standby).record .resyncDone [s.wb.jsn]).safeIfLost).stopServing :=
          (if_neg (by omega)).trans (if_neg (by simp [hbank]))
      _ = _ := by rw [hsafe]
  obtain ⟨hsys, -, hwb, -⟩ := stopServing_frame ((s.resyncDone.setMode .standby).record .resyncDone [s.wb.jsn])
  obtain ⟨hmode, -, -, hkept⟩ := setMode_facts (s := s.resyncDone) (m := .standby) nofun nofun
  rw [htaken, hsys, hwb, State.record_sys]
  simp only [State.record_frame]
  exact ⟨hmode, by rw [hkept]; rfl, by rw [hkept]; rfl⟩

/-- Settles O31: a follower's message is taken once, then its MSG_SEQ, its items and its clock are compared; digests that differ count as
mismatches of a cycle; each resynchronisation step is one message of the active and one change of the returning module. -/
theorem followersTakeManifestsAndResync : Obligations.FollowersTakeManifestsAndResync := by
  unfold Obligations.FollowersTakeManifestsAndResync
  refine ⟨?other, ?held, ?lacking, ?gap, fun s e c => exec_fetchRx_item, fun s type seq h m => exec_fetchRx_msg, ?data, ?equal, ?differ, ?third,
    ?active, ?returning⟩
  case other =>
    intro s q m hup hgen hfollows
    show execManifestRx true q m s = _
    unfold execManifestRx
    rw [fromPartner_taken hup hgen]
    exact congrArg Host.Outcome.next (if_pos (congrArg not hfollows))
  case held =>
    intro s q m hup hfollows hlast hgen hheld
    refine ⟨_, exec_manifestRx hup hfollows hgen, ?_⟩
    rw [checkSeq_next hlast, takePart_held (by exact hheld)]
    exact noteAngle_says _ _
  case lacking =>
    intro s q m e hup hfollows hnone hgen hang htask hone hlacks
    rw [exec_manifestRx hup hfollows hgen, checkSeq_first hnone, takePart_lacking (by exact hup) hone (by exact hlacks),
      noteAngle_same (by exact hang)]
    have htasked : (m.task == 0) = false := by simpa using htask
    unfold State.keepPart
    rw [htasked]
    rfl
  case gap =>
    intro s q m hup hfollows hlast hgen hang hempty
    rw [exec_manifestRx hup hfollows hgen, checkSeq_gap hup hlast, takePart_held (by simp [hempty]), noteAngle_same (by exact hang)]
    rfl
  case data => exact fun s e c hfollows hup => ⟨exec_fetchDataRx e c false hfollows hup, exec_fetchDataRx e c true hfollows hup⟩
  case equal =>
    intro s c own other hup hfollows hown hsame hmode
    rw [exec_outputDigestRx other hup hfollows hown, compareDigests_equal c hsame hmode]
  case differ =>
    intro s c st own d hup hfollows hown hdiff hst hmode hnew
    refine ⟨_, exec_outputDigestRx _ hup hfollows hown, ?_⟩
    rw [compareDigests_differ c hdiff]
    exact shadowMismatch_says hst (by rw [hmode]; nofun) hnew
  case third =>
    intro s c st a b own d hup hfollows hown hdiff hmode hfirst hbefore hca hcb ha hb
    obtain ⟨u, hu, humode, hpend⟩ := shadowMismatch_third (st := st) hmode hfirst hbefore hca hcb ha hb
    obtain ⟨hsync, hstep, -, hfence, -, hkept⟩ := enterSync_facts (s := u) (by rw [humode]; nofun) (recCodeOf .shadowMismatch)
    refine ⟨_, exec_outputDigestRx _ hup hfollows hown, ?_⟩
    rw [compareDigests_differ c hdiff, hu]
    exact ⟨hsync, hstep, (hkept 68).trans hpend, hfence⟩
  case active =>
    intro s k m hholds hup hstep hsome hmsg
    have hsent := sendStep_eq hup hstep hmsg
    have hnone : s.wb.resyncStep ≠ 0 := hstep.trans_ne hsome
    refine ⟨by rw [exec_resyncStep_failed hholds hnone, hsent], ?one, ?middle, ?last, ?five⟩
    case one =>
      intro hk
      have hadmits := exec_resyncStep_admits hholds (hstep.trans hk)
      refine ⟨fun h hhello hcarrier => ?_, fun hhello => ?_⟩ <;> rw [hadmits]
      · rw [admitReturning_fits hhello hcarrier, hsent]
      · exact congrArg Host.Outcome.next (admitReturning_unknown hhello)
    case middle =>
      intro h1 h5 h7
      subst hstep
      rw [exec_resyncStep_good hholds hnone h1, hsent]
      exact congrArg Host.Outcome.next (nextStep_middle h5 (Nat.ne_of_lt h7))
    case last =>
      intro h7
      rw [exec_resyncStep_good hholds hnone (by omega), hsent]
      exact congrArg Host.Outcome.next (nextStep_last (hstep.trans h7))
    case five =>
      intro h5 hacked hsolo
      refine ⟨_, exec_resyncStep_good hholds hnone (by omega), ?_⟩
      rw [hsent]
      exact nextStep_five (hstep.trans h5) hacked hsolo
  case returning =>
    intro s hup hsync
    refine ⟨?fits, ?unfit, ?cut, ?follow, ?early, ?standby⟩
    case fits =>
      intro h hhello hcarrier hfits
      rw [exec_resyncRx _ hup hsync]
      exact congrArg Host.Outcome.next (takeAdmission_fits hsync hhello hcarrier hfits)
    case unfit =>
      obtain ⟨hmode, -, hfence, -⟩ := enterQuarantine_facts (s := s) (by rw [hsync]; nofun) .incompatiblePeer []
      exact ⟨_, exec_resyncRx _ hup hsync, hmode, hfence⟩
    case cut =>
      intro b j it fo ta sl gr sg fr ri es st cy se
      obtain ⟨hj, hit, hfo, hb, hstep, hst, hse, hwork, hmode⟩ := takeStep_cut (s := s) rfl
      exact ⟨_, exec_resyncRx _ hup hsync, hj, hit, hfo, hb, hstep, hst, hse, hwork, hmode.trans hsync⟩
    case follow =>
      intro n
      rw [exec_resyncRx _ hup hsync]
      exact congrArg Host.Outcome.next (sendWb_up hup _)
    case early =>
      intro hprog
      rw [exec_resyncRx _ hup hsync]
      exact congrArg Host.Outcome.next (if_pos (Or.inl hprog))
    case standby => exact fun hprog hstep hbank hunits => ⟨_, exec_resyncRx _ hup hsync, takeStep_standby hprog hstep hbank hunits⟩

end Sys2Proof.Machine
end

section
/-! SUPPORT. Frames into the transmit queues and gate lists (R130, R528, R529, R536). -/

namespace Sys2Proof.Machine

/-! NET_SEND. -/

/-- The frame that NET_SEND puts into the queue of its class. -/
def State.sendingFrame (s : State) (w : WorkRef) (op : Op) (n c : Nat) : TimedFrame :=
  { id := s.tb.nextFrame, work := some w, ring := op.ring, network := n, prio := c, timed := dTimed op.bytes && op.waitTime,
    ptBase := dPtBase op.bytes, due := dTime op.bytes, latePolicy := dLatePolicy op.bytes, bytes := s.buffer op }

section NetSend
variable {s : State} {w : WorkRef} {op : Op} {n c : Nat}

theorem exec_netSend_idle (hop : s.frameOp w = some op) (hidle : op.started = true ∨ op.shadow = true ∨ s.mayServe op = false) :
    exec (.netSend w) s = .next s := by
  show execNetSend w s = _
  unfold execNetSend
  rw [hop]
  exact congrArg Host.Outcome.next (if_pos (Or.inr (Or.inr hidle)))

/-- What becomes of a frame whose turn has come: it is refused, joins its queue or leaves (R130, R528). -/
def State.sendFrame (s : State) (w : WorkRef) (op : Op) (n c : Nat) : State :=
  if 2 ≤ n ∨ s.netOn n = false then s.finish { op with late := false } 0x0A00 1
  else if dLength op.bytes < 60 ∨ 1514 < dLength op.bytes ∨ 8 ≤ c then s.finish { op with late := false } 0x0A00 2
  else if (dTimed op.bytes ∧ op.waitTime) ∨ (s.headFrame n c).isSome ∨ s.gatesOpen n c = false then
    ({ s with tb := { s.tb with frames := s.tb.frames ++ [s.sendingFrame w op n c], nextFrame := s.tb.nextFrame + 1 } }.setOp w
      fun o => { o with started := true }).settleFrames n c
  else (s.emit (.net n c (.raw (s.buffer op)))).finish op stOk 0

theorem exec_netSend (hop : s.frameOp w = some op) (hengine : op.engine = 5) (hcode : dOpcode op.bytes = 0x10) (hn : dInline op.bytes 0 1 = n)
    (hc : dInline op.bytes 1 1 = c) (hnew : op.started = false) (hown : op.shadow = false) (hmay : s.mayServe op = true) :
    exec (.netSend w) s = .next (s.sendFrame w op n c) := by
  subst hn hc
  show execNetSend w s = _
  unfold execNetSend
  rw [hop]
  exact congrArg Host.Outcome.next (if_neg (by simp [hengine, hcode, hnew, hown, hmay]))

section Fits
variable (hn : n < 2) (hon : s.netOn n = true) (hlow : 60 ≤ dLength op.bytes) (hhigh : dLength op.bytes ≤ 1514) (hc : c < 8)
include hn hon hlow hhigh hc

/-- A frame without an instant that finds its queue empty and its gates open leaves at once. -/
theorem sendFrame_leaves (htimed : (dTimed op.bytes && op.waitTime) = false) (hempty : s.headFrame n c = none) (hopen : s.gatesOpen n c = true) :
    s.sendFrame w op n c = State.finish { s with out := s.out ++ [.net n c (.raw (s.buffer op))] } op stOk 0 := by
  have hnow : ¬ ((dTimed op.bytes ∧ op.waitTime) ∨ (s.headFrame n c).isSome ∨ s.gatesOpen n c = false) := by simpa [hempty, hopen] using htimed
  exact (if_neg (by simp [hn, hon])).trans ((if_neg (by omega)).trans (if_neg hnow))

theorem sendFrame_queues (hwaits : (dTimed op.bytes && op.waitTime) = true ∨ s.headFrame n c ≠ none ∨ s.gatesOpen n c = false) :
    s.sendFrame w op n c = State.settleFrames { (s.setOp w fun o => { o with started := true }) with
      tb := { s.tb with frames := s.tb.frames ++ [s.sendingFrame w op n c], nextFrame := s.tb.nextFrame + 1 } } n c := by
  have hqueued : (dTimed op.bytes ∧ op.waitTime) ∨ (s.headFrame n c).isSome ∨ s.gatesOpen n c = false := by
    simpa [Option.isSome_iff_ne_none] using hwaits
  refine (if_neg (by simp [hn, hon])).trans ((if_neg (by omega)).trans ((if_pos hqueued).trans ?_))
  cases w <;> rfl

end Fits
end NetSend

/-! Gate lists. -/

/-- A list takes over at the first start of its cycle that is still to come (R529). -/
theorem gateFrom_start (s : State) (g : GateList) {n : Nat} (hcycle : gateCycle g.entries = n) (hn : 0 < n) :
    ∃ k, (s.gateFrom g).start = k * n ∧ s.gateNs g ≤ k * n ∧ k * n < s.gateNs g + n := by
  subst hcycle
  have hdiv := Nat.div_add_mod (s.gateNs g + gateCycle g.entries - 1) (gateCycle g.entries)
  have hmod := Nat.mod_lt (s.gateNs g + gateCycle g.entries - 1) hn
  rw [Nat.mul_comm] at hdiv
  exact ⟨_, rfl, by omega, by omega⟩

/-- What GATE_LOAD does with the list that its buffer holds (R529, R536). -/
def State.loadGate (s : State) (op : Op) (p k : Nat) (b : List Byte) : State :=
  if 4 ≤ p ∨ s.netPortUsed p = false then s.finish op 0x0A00 1
  else if dLength op.bytes ≠ 16 + 8 * k then s.finish op 0x0A00 2
  else if k = 0 ∨ 64 < k ∨ 1 < leField b 12 1 ∨ (leField b 12 1 = 1 ∧ 1000000000 ≤ leField b 0 4)
      ∨ (gateEntries k (b.drop 16)).any (fun e => decide (e.2 < 1000 ∨ 1000000000 < e.2)) then s.finish op 0x0A00 3
  else (s.setNetPort p fun x => { x with newGate := some (s.gateFrom
    { ptBase := leField b 12 1 == 1, base := if leField b 12 1 = 1 then ptField b 0 else leField b 0 8,
      entries := gateEntries k (b.drop 16) }) }).finish op stOk 0

theorem exec_gateLoad {s : State} {w : WorkRef} {op : Op} {p k : Nat} {b : List Byte} (hready : s.ready w 5 0x11 op)
    (hp : dInline op.bytes 0 1 = p) (hb : s.buffer op = b) (hk : (dLength op.bytes - 16) / 8 = k) :
    exec (.gateLoad w) s = .next (s.loadGate op p k b) := by
  subst hp hb hk
  exact congrArg Host.Outcome.next (engineOp_ready hready _)

/-- The switch of GATE_LIST_SWITCH, whose list is pending. -/
theorem exec_gateListSwitch {s : State} {p : Nat} {g : GateList} (hpending : (s.net.ports.getD p {}).newGate = some g) :
    exec (.gateListSwitch p) s = .next (if g.base ≤ s.almClock g.ptBase ∧ g.start ≤ s.gateNs g then
      s.setNetPort p fun x => { x with gate := some g, newGate := none } else s) := by
  show execGateListSwitch p s = _
  unfold execGateListSwitch
  rw [hpending]

end Sys2Proof.Machine
end

section
/-! SUPPORT. Ports, the HSR ring, supervision, sampled values and sessions of the plant network (R100, R103, R525, R526, R527, R534, R535). -/

namespace Sys2Proof.Machine

/-! Frames of the module's own and of the HSR ring. -/

theorem supervise_eq (s : State) : s.supervise = { s with out := s.out ++ (if s.netOn 0 then [.net 0 7 (.supervision false)] else []) ++
    (if s.netOn 1 then [.net 1 7 (.supervision (s.fld .netCfg 0 2 == 0))] else []) } := by
  have hfirst : (if s.netOn 0 then s.emit (.net 0 7 (.supervision false)) else s) =
      { s with out := s.out ++ if s.netOn 0 then [.net 0 7 (.supervision false)] else [] } := by
    split
    · rfl
    · rw [List.append_nil]
  unfold State.supervise
  rw [hfirst]
  dsimp only
  by_cases h1 : s.netOn 1 = true
  · rw [if_pos h1]
    exact if_pos h1
  · rw [if_neg h1, List.append_nil]
    exact if_neg h1

/-- The frames are due when the last ones left a period ago, or none left yet. -/
theorem supervision_due {s : State} {period : Nat} (hdue : ∀ k, s.net.supAt = some k → k + period ≤ s.tb.csr) :
    s.net.supAt.any (fun t => decide (s.tb.csr < t + period)) = false := by
  cases hat : s.net.supAt with
  | none => rfl
  | some k => simpa using hdue k hat

theorem supervision_early {s : State} {period k : Nat} (hat : s.net.supAt = some k) (hearly : s.tb.csr < k + period) :
    s.net.supAt.any (fun t => decide (s.tb.csr < t + period)) = true := by
  rw [hat]
  exact decide_eq_true hearly

theorem exec_supervisionTx_early {s : State} {k : Nat} (hat : s.net.supAt = some k) (hearly : s.tb.csr < k + usTicks 2000000) :
    exec .supervisionTx s = .next s :=
  congrArg Host.Outcome.next (if_pos (supervision_early hat hearly))

theorem exec_supervisionTx_due {s : State} (hdue : ∀ k, s.net.supAt = some k → k + usTicks 2000000 ≤ s.tb.csr) :
    exec .supervisionTx s = .next { s with
      net := { s.net with supAt := some s.tb.csr }
      out := s.out ++ (if s.netOn 0 then [.net 0 7 (.supervision false)] else []) ++
        (if s.netOn 1 then [.net 1 7 (.supervision (s.fld .netCfg 0 2 == 0))] else []) } := by
  have hsent : exec .supervisionTx s = .next { s.supervise with net := { s.supervise.net with supAt := some s.tb.csr } } :=
    congrArg Host.Outcome.next (if_neg (by rw [supervision_due hdue]; nofun))
  rw [hsent, supervise_eq]

section Hsr
variable {s : State} {p src : Nat} (dst id : Nat) (u m : Bool) (f : List Byte)

theorem exec_hsrFrameRx_ignored (h : s.netUp p = false ∨ s.fld .netCfg 0 2 ≠ 0 ∨ (p ≠ 2 ∧ p ≠ 3) ∨ src = s.net.mac) :
    exec (.hsrFrameRx p src dst id u m f) s = .next s := by
  refine congrArg Host.Outcome.next ?_
  by_cases hport : s.netUp p = false ∨ s.fld .netCfg 0 2 ≠ 0 ∨ (p ≠ 2 ∧ p ≠ 3)
  · exact if_pos hport
  · exact (if_neg hport).trans (if_pos (by tauto))

theorem hsrRing_taken (hup : s.netUp p = true) (hring : s.fld .netCfg 0 2 = 0) (hport : p = 2 ∨ p = 3) :
    ¬ (s.netUp p = false ∨ s.fld .netCfg 0 2 ≠ 0 ∨ (p ≠ 2 ∧ p ≠ 3)) := by
  rintro (hdown | hother | hport')
  · exact Bool.noConfusion (hup.symm.trans hdown)
  · exact hother hring
  · omega

/-- The frame of another module is known from now on (R526). -/
def State.noteHsr (s : State) (src id : Nat) : State := { s with net := { s.net with hsrSeen := ((src, id) :: s.net.hsrSeen).take 1024 } }

/-- The frame of another module goes on to the other ring port unless it is for this module alone (R526). -/
theorem exec_hsrFrameRx_forwarded (hup : s.netUp p = true) (hring : s.fld .netCfg 0 2 = 0) (hport : p = 2 ∨ p = 3) (hother : src ≠ s.net.mac)
    (hnew : (src, id) ∉ s.net.hsrSeen) : exec (.hsrFrameRx p src dst id u m f) s = .next { s.noteHsr src id with
      out := s.out ++ (if (u = true ∧ m = false) ∨ s.netUp (5 - p) = false then [] else [.net 1 0 (.raw f)]) } := by
  refine congrArg Host.Outcome.next ((if_neg (hsrRing_taken hup hring hport)).trans ((if_neg hother).trans ((if_neg (by simpa using hnew)).trans ?_)))
  by_cases hours : (u = true ∧ m = false) ∨ s.netUp (5 - p) = false
  · rw [if_pos hours, List.append_nil]
    exact if_pos hours
  · rw [if_neg hours]
    exact if_neg hours

theorem exec_hsrFrameRx_duplicate (hup : s.netUp p = true) (hring : s.fld .netCfg 0 2 = 0) (hport : p = 2 ∨ p = 3) (hother : src ≠ s.net.mac)
    (hseen : (src, id) ∈ s.net.hsrSeen) : exec (.hsrFrameRx p src dst id u m f) s =
      .next (s.setNetPort p fun x => { x with dups := (x.dups + 1) % 65536 }) := by
  exact congrArg Host.Outcome.next ((if_neg (hsrRing_taken hup hring hport)).trans ((if_neg hother).trans (if_pos (by simpa using hseen))))

end Hsr

/-! Sampled values. -/

/-- The instant of a sample lies in the nearest second at its place within it (R100). -/
theorem sampleInstant_nearest {s : State} {n : Nat} {per256 : Bool} (hone : 10 ^ 9 ≤ s.tb.pt.total)
    (hns : s.tb.pt.total < s.tb.pt.sec * 10 ^ 9 + 10 ^ 9) (hn : n < (if per256 then 256 else 80) * (if s.bit .angCtrl 4 then 60 else 50)) :
    s.tb.pt.total ≤ s.sampleInstant n per256 + 5 * 10 ^ 8 ∧ s.sampleInstant n per256 ≤ s.tb.pt.total + 5 * 10 ^ 8 ∧
      s.sampleInstant n per256 % 10 ^ 9 = n * 10 ^ 9 / ((if per256 then 256 else 80) * (if s.bit .angCtrl 4 then 60 else 50)) := by
  unfold State.sampleInstant
  generalize (if per256 then 256 else 80) * (if s.bit .angCtrl 4 then 60 else 50) = rate at hn ⊢
  have hplace : n * 10 ^ 9 / rate < 10 ^ 9 := Nat.div_lt_of_lt_mul (Nat.mul_lt_mul_of_pos_right hn (by decide))
  have htotal : s.tb.pt.total = s.tb.pt.sec * 10 ^ 9 + s.tb.pt.ns := rfl
  generalize n * 10 ^ 9 / rate = place at hplace ⊢
  dsimp only
  split
  · omega
  · split <;> omega

/-- Settles O57: each command of the plant network is a choice of few cases, a frame's way taken from the rules of its queue. -/
theorem plantNetworkPortsFramesAndSessions : Obligations.PlantNetworkPortsFramesAndSessions := by
  unfold Obligations.PlantNetworkPortsFramesAndSessions
  refine ⟨?send, ?head, ?load, ?switch, fun s g n => gateFrom_start s g, ?port, ?supervision, ?hsr, ?sample, ?instant, ?session, ?link, ?wake⟩
  case send =>
    intro s w op n c hop hengine hcode hn hc
    refine ⟨exec_netSend_idle hop, fun hnew hown hmay => ?_⟩
    rw [exec_netSend hop hengine hcode hn hc hnew hown hmay]
    refine ⟨fun hoff => congrArg Host.Outcome.next (if_pos hoff), fun hnet hon => ⟨fun hbad => ?bad, fun hlow hhigh hclass => ⟨?leaves, ?queues⟩⟩⟩
    case bad => exact congrArg Host.Outcome.next ((if_neg (by simp [hnet, hon])).trans (if_pos hbad))
    case leaves => exact fun htimed hempty hopen => congrArg Host.Outcome.next (sendFrame_leaves hnet hon hlow hhigh hclass htimed hempty hopen)
    case queues =>
      exact fun hwaits => ⟨s.sendingFrame w op n c, rfl, rfl, rfl, rfl, rfl, rfl, rfl, rfl, rfl, rfl, rfl,
        congrArg Host.Outcome.next (sendFrame_queues hnet hon hlow hhigh hclass hwaits)⟩
  case head =>
    exact fun s n c => ⟨settleFrames_empty, fun f hhead halive => ⟨settleFrames_stays hhead halive, settleFrames_waits hhead halive⟩⟩
  case load =>
    intro s w op p k b hready hp hb hk
    rw [exec_gateLoad hready hp hb hk]
    refine ⟨fun hoff => congrArg Host.Outcome.next (if_pos hoff), fun hport hused =>
      ⟨fun hlen => ?bad, fun hlen => ⟨fun hbad => ?refused, ?kept⟩⟩⟩ <;>
      have huse : ¬ (4 ≤ p ∨ s.netPortUsed p = false) := by simp [hport, hused]
    case bad => exact congrArg Host.Outcome.next ((if_neg huse).trans (if_pos hlen))
    case refused =>
      refine congrArg Host.Outcome.next ((if_neg huse).trans ((if_neg (not_not.mpr hlen)).trans (if_pos ?_)))
      simpa using hbad
    case kept =>
      intro hsome hmany hkind hns hlengths
      refine congrArg Host.Outcome.next ((if_neg huse).trans ((if_neg (not_not.mpr hlen)).trans (if_neg ?_)))
      have hgood : (gateEntries k (b.drop 16)).any (fun e => decide (e.2 < 1000 ∨ 1000000000 < e.2)) = false := by
        rw [List.any_eq_false]
        intro e he
        have := hlengths e he
        simp only [decide_eq_true_eq]
        omega
      rw [hgood]
      simp only [Bool.false_eq_true, or_false]
      omega
  case switch =>
    intro s p
    refine ⟨fun hnone => ?none, fun g hpending => ?some⟩
    case none =>
      show execGateListSwitch p s = _
      unfold execGateListSwitch
      rw [hnone]
    case some =>
      rw [exec_gateListSwitch hpending]
      exact ⟨fun hearly => congrArg Host.Outcome.next (if_neg (by omega)), fun hbase hstart => congrArg Host.Outcome.next (if_pos ⟨hbase, hstart⟩)⟩
  case port =>
    intro s p
    refine ⟨fun hdown => congrArg Host.Outcome.next (if_neg (by rw [hdown]; nofun)), fun hp hlink => ?falls,
      fun g => ⟨fun hunused => ?_, fun hused => ?_⟩, ?unfit⟩
    case falls =>
      exact ⟨_, congrArg Host.Outcome.next (if_pos hlink), ((Says.refl _).record .netPortDown [p]).raise (96 + p) (by omega)⟩
    · exact congrArg Host.Outcome.next (if_neg (by simp [hunused]))
    · exact congrArg Host.Outcome.next (if_pos hused)
    case unfit => exact ⟨_, rfl, (Says.refl _).record .netModuleRefused [p]⟩
  case supervision =>
    intro s
    exact ⟨fun k hat hearly => exec_supervisionTx_early hat hearly, exec_supervisionTx_due⟩
  case hsr =>
    intro s p src dst id u m f
    exact ⟨exec_hsrFrameRx_ignored dst id u m f, fun hup hring hport hother =>
      ⟨exec_hsrFrameRx_duplicate dst id u m f hup hring hport hother, exec_hsrFrameRx_forwarded dst id u m f hup hring hport hother⟩⟩
  case sample =>
    intro s q g per256 n
    refine ⟨⟨_, rfl, (Says.refl s).record .svRefused _⟩, fun hq hg => ?_, fun hbad u hu => ?_⟩
    · subst hq hg
      rfl
    · subst hu
      have hlost : exec (.svSampleRx true q g n per256) s = .next (if s.tb.angSrc = 1 then
          ({ s with tb := { s.tb with svAt := none } } : State).loseSource else { s with tb := { s.tb with svAt := none } }) :=
        congrArg Host.Outcome.next ((if_neg nofun).trans (if_neg (by simpa [or_iff_not_imp_left] using hbad)))
      rw [hlost]
      refine ⟨fun hkept => congrArg Host.Outcome.next ?_, fun hsrc hstate => congrArg Host.Outcome.next (if_pos hsrc)⟩
      by_cases hsrc : s.tb.angSrc = 1
      · exact (if_pos hsrc).trans (if_pos (Or.inl (hkept.resolve_left (not_not.mpr hsrc))))
      · exact if_neg hsrc
  case instant =>
    intro s n d per256 hd hns hn hone
    subst hd
    exact sampleInstant_nearest hone hns hn
  case session =>
    intro s a
    refine ⟨fun hno => ?_, fun ha hfree hmode => ?_, fun hnone => ?_, fun hsome => ?_⟩
    · exact congrArg Host.Outcome.next (if_neg (by rintro ⟨ha, hfree, hmode⟩; simp [ha, hmode] at hno; omega))
    · exact ⟨_, congrArg Host.Outcome.next (if_pos ⟨ha, hfree, hmode⟩), (Says.refl _).record .mgmtOpen _⟩
    · exact congrArg Host.Outcome.next (if_pos hnone)
    · exact ⟨_, congrArg Host.Outcome.next (if_neg hsome), (Says.refl _).record .mgmtClose _⟩
  case link =>
    intro s u
    refine ⟨fun hsame => congrArg Host.Outcome.next (if_pos hsame), fun hmode hchange => ⟨_, congrArg Host.Outcome.next (if_neg (by tauto)), ?_⟩⟩
    exact (Says.refl _).raise 100 (by decide)
  case wake =>
    intro s e a b
    exact ⟨fun hother => congrArg Host.Outcome.next (if_neg (by tauto)), fun he ha hb => congrArg Host.Outcome.next (if_pos ⟨he, ha, hb⟩)⟩

end Sys2Proof.Machine
end

section
/-! SUPPORT. The issue of a ring's first descriptor: its order and FENCE (R162), and what its form, its opcode, its ring and the MPU make of
it (R160, R161, R171 to R177). -/

namespace Sys2Proof.Machine

/-! Ring order. -/

section
variable {s : State} {n : Nat} {f : Fetched} {fs : List Fetched}

/-- A descriptor that waits for nothing, with a tag free, is issued (R162, R164). -/
theorem exec_descIssue_issues (hhead : (s.queue n).fetched = f :: fs) (hask : ¬ s.headWaits n f)
    (htag : s.tagFree (ownerIssuer (s.queue n).owner) = true) :
    exec (.descIssue n) s = .next ((s.useGrant (ownerIssuer (s.queue n).owner)).issueHead n f) := by
  obtain ⟨hfence, hauth, hid⟩ : ¬ _ ∧ ¬ _ ∧ ¬ _ := by simpa only [State.headWaits, not_or] using hask
  show execDescIssue n s = _
  unfold execDescIssue
  dsimp only
  rw [hhead]
  dsimp only
  rw [if_neg hfence, if_neg hauth, if_neg hid, htag]
  rfl

end

/-- DESC_ISSUE issues the first fetched descriptor, or it changes the list of waiting issuers at most. -/
theorem exec_descIssue_cases (s : State) (n : Nat) :
    (∃ l, exec (.descIssue n) s = .next { s with hq := { s.hq with tagWait := l } }) ∨
    ∃ f, (s.queue n).fetched.head? = some f ∧
      exec (.descIssue n) s = .next ((s.useGrant (ownerIssuer (s.queue n).owner)).issueHead n f) := by
  cases htag : s.tagFree (ownerIssuer (s.queue n).owner) with
  | false => exact .inl ((descIssue_without_tag htag).elim (⟨s.hq.tagWait, ·⟩) (⟨_, ·⟩))
  | true =>
    cases hhead : (s.queue n).fetched with
    | nil =>
      refine .inl ⟨s.hq.tagWait, ?_⟩
      show execDescIssue n s = _
      unfold execDescIssue
      dsimp only
      rw [hhead]
    | cons f fs =>
      by_cases hwait : s.headWaits n f
      · exact .inl ⟨s.hq.tagWait, exec_descIssue_headWaits hhead hwait⟩
      · exact .inr ⟨f, rfl, exec_descIssue_issues hhead hwait htag⟩

/-- A ring with an operation in flight has one to wait for. -/
theorem inFlight_ne_zero {s : State} {n : Nat} (h : ∃ o ∈ s.hq.ops, o.ring = n) : s.inFlight n ≠ 0 := by
  obtain ⟨o, ho, hring⟩ := h
  unfold State.inFlight
  rw [Ne, List.length_eq_zero_iff, List.filter_eq_nil_iff]
  exact fun hnone => hnone o ho (by simpa using hring)

/-- Settles O23: what an issue leaves is said by `issueHead_facts`; every other outcome leaves the ring, the operations and memory. -/
theorem descriptorsAreIssuedInRingOrder : Obligations.DescriptorsAreIssuedInRingOrder := by
  unfold Obligations.DescriptorsAreIssuedInRingOrder
  refine ⟨fun s n hn => ?_, fun s n f fs hhead hfence hop => exec_descIssue_headWaits hhead (.inl ⟨hfence, inFlight_ne_zero hop⟩)⟩
  rcases exec_descIssue_cases s n with ⟨l, hexec⟩ | ⟨f, hhead, hexec⟩
  · exact ⟨_, hexec, .inl ⟨rfl, rfl, rfl⟩⟩
  · refine ⟨_, hexec, .inr ?_⟩
    obtain ⟨l, hgrant⟩ := useGrant_eq s (ownerIssuer (s.queue n).owner)
    rw [hgrant]
    obtain ⟨hdrop, hnew⟩ := issueHead_facts (s := { s with hq := { s.hq with tagGiven := l } }) hn f
    refine ⟨hdrop, fun o ho hfresh => ?_⟩
    obtain ⟨hring, hidx, hbytes⟩ := hnew o ho hfresh
    exact ⟨hring, f, hhead, hidx, hbytes⟩

/-! The judgement at issue. -/

theorem issueHead_badForm {s : State} {n : Nat} {f : Fetched} (hform : descFormOk f.bytes = false) :
    s.issueHead n f = (s.dropFetched n).writeCompletion n f.bytes 0 6 0 0 :=
  if_pos (by rw [hform]; rfl)

theorem issueHead_badOpcode {s : State} {n : Nat} {f : Fetched} (hform : descFormOk f.bytes = true)
    (hop : opInfo (s.queue n).engine (dOpcode f.bytes) = none ∨
      ringAllows (s.queue n).engine (dOpcode f.bytes) (s.queue n).auth (s.queue n).durable = false) :
    s.issueHead n f = (s.dropFetched n).writeCompletion n f.bytes 0 7 0 0 := by
  unfold State.issueHead
  dsimp only
  rw [if_neg (by simp [hform]), if_pos (by simpa using hop)]
  rfl

/-- A SUBMIT_ID that the ring remembers (R177). -/
theorem submitCase_known {l : List (Nat × List Byte)} {id : Nat} {d' : List Byte} (h : assocGet l id = some d') (lowest : Nat) (d : List Byte) :
    submitCase l lowest id d = if d' = d then .same else .conflict := by
  unfold submitCase
  rw [h]

theorem submitCase_stale {l : List (Nat × List Byte)} {lowest id : Nat} (h : assocGet l id = none) (hsome : l ≠ []) (hlow : id < lowest)
    (d : List Byte) : submitCase l lowest id d = .stale := by
  unfold submitCase
  rw [h]
  exact if_pos ⟨hsome, hlow⟩

/-- A descriptor that its engine and its ring carry out, in the form of R161. -/
structure State.Takes (s : State) (n : Nat) (f : Fetched) : Prop where
  form : descFormOk f.bytes = true
  known : (opInfo (s.queue n).engine (dOpcode f.bytes)).isNone = false
  allowed : ringAllows (s.queue n).engine (dOpcode f.bytes) (s.queue n).auth (s.queue n).durable = true
  progress : progressOk (s.queue n).engine f.bytes = true

/-- What becomes of a descriptor that the module may carry out: the MPU's check, then its SUBMIT_ID (R160, R175, R177). -/
def State.admitHead (s : State) (n : Nat) (f : Fetched) : State :=
  match s.descRefused (s.queue n).owner (s.queue n).engine f.bytes (s.queue n).durable with
  | some (m, a, k) => ((s.mpuFault m a .engine k).dropFetched n).writeCompletion n f.bytes 0 stAccessFault 0 0
  | none =>
    if (s.queue n).durable then
      match submitCase (s.queue n).submitted (s.queue n).lowestSubmit (dSubmit f.bytes) f.bytes with
      | .same => (s.dropFetched n).writeCompletion n f.bytes 0 stAccepted 0 (cflags true (!s.wb.dual) false)
      | .conflict => (s.dropFetched n).writeCompletion n f.bytes 0 stSubmitConflict 0 0
      | .stale => (s.dropFetched n).writeCompletion n f.bytes 0 stSubmitStale 0 0
      | .fresh =>
        let t := (s.dropFetched n).journalAdd (.desc n (dSubmit f.bytes) f.bytes)
        { t with hq := { t.hq with ops := t.hq.ops ++ [{ s.mkOp n f with jsn := some (s.wb.jsn + 1) }] } }.acceptReady
    else { s.dropFetched n with hq := { (s.dropFetched n).hq with ops := s.hq.ops ++ [s.mkOp n f] } }

/-- What is judged beside its form: its SUBMIT_ID on a durable ring (R174), then, on an AUTH ring without the lease, whether it is kept as a
shadow (R172, R173). -/
theorem issueHead_taken {s : State} {n : Nat} {f : Fetched} (h : s.Takes n f) :
    s.issueHead n f = if (s.queue n).durable = true ∧ dSubmit f.bytes = 0 then (s.dropFetched n).writeCompletion n f.bytes 0 6 0 0
      else if (s.queue n).auth = true ∧ (!s.authoritative) = true then
        if (!s.shadowed n f.bytes) = true then (s.dropFetched n).writeCompletion n f.bytes 0 5 0 0
        else { s.dropFetched n with hq := { (s.dropFetched n).hq with
          ops := s.hq.ops ++ [{ s.mkOp n f with shadow := true, seen := s.prg.cycle }] } }
      else s.admitHead n f := by
  unfold State.issueHead
  dsimp only
  rw [if_neg (by simp [h.form]), if_neg (by simp [h.known, h.allowed]), if_neg (by simp [h.progress])]
  rfl

section
variable {s : State} {n : Nat} {f : Fetched}

/-- The MPU's refusal of a buffer ends the descriptor (R160, R271). -/
theorem admitHead_refused {m a : Nat} {k : AccKind}
    (href : s.descRefused (s.queue n).owner (s.queue n).engine f.bytes (s.queue n).durable = some (m, a, k)) :
    s.admitHead n f = ((s.mpuFault m a .engine k).dropFetched n).writeCompletion n f.bytes 0 8 0 0 := by
  unfold State.admitHead
  rw [href]
  rfl

/-- On a ring without DURABLE a descriptor becomes an operation in flight (R164). -/
theorem admitHead_operation (hmpu : s.descRefused (s.queue n).owner (s.queue n).engine f.bytes (s.queue n).durable = none)
    (hdur : (s.queue n).durable = false) :
    s.admitHead n f = { s.dropFetched n with hq := { (s.dropFetched n).hq with ops := s.hq.ops ++ [s.mkOp n f] } } := by
  unfold State.admitHead
  rw [hmpu]
  exact if_neg (by simp [hdur])

/-- A SUBMIT_ID that the ring remembers answers RESUBMIT or SUBMIT_CONFLICT (R177). -/
theorem admitHead_known (hmpu : s.descRefused (s.queue n).owner (s.queue n).engine f.bytes (s.queue n).durable = none)
    (hdur : (s.queue n).durable = true) {d : List Byte} (hknown : assocGet (s.queue n).submitted (dSubmit f.bytes) = some d) :
    s.admitHead n f = (s.dropFetched n).writeCompletion n f.bytes 0 (if d = f.bytes then 1 else 10) 0
      (if d = f.bytes then cflags true (!s.wb.dual) false else 0) := by
  unfold State.admitHead
  rw [hmpu]
  dsimp only
  rw [if_pos hdur, submitCase_known hknown]
  by_cases hsame : d = f.bytes
  · simp only [if_pos hsame, stAccepted]
  · simp only [if_neg hsame, stSubmitConflict]

/-- A SUBMIT_ID below the remembered ones is stale (R177). -/
theorem admitHead_stale (hmpu : s.descRefused (s.queue n).owner (s.queue n).engine f.bytes (s.queue n).durable = none)
    (hdur : (s.queue n).durable = true) (hnew : assocGet (s.queue n).submitted (dSubmit f.bytes) = none)
    (hsome : (s.queue n).submitted ≠ []) (hlow : dSubmit f.bytes < (s.queue n).lowestSubmit) :
    s.admitHead n f = (s.dropFetched n).writeCompletion n f.bytes 0 9 0 0 := by
  unfold State.admitHead
  rw [hmpu]
  dsimp only
  rw [if_pos hdur, submitCase_stale hnew hsome hlow]
  rfl

end

/-- A standby's core descriptor is kept as a shadow when its ring is durable or it has a SUBMIT_ID (R173). -/
theorem shadowed_iff (s : State) (n : Nat) (d : List Byte) : s.shadowed n d = true ↔
    (s.queue n).owner ≠ 9 ∧ (s.sys.mode = .standby ∨ s.sys.mode = .update) ∧ ((s.queue n).durable = true ∨ dSubmit d ≠ 0) := by
  simp [State.shadowed, and_assoc]

/-- Using up a grant changes nothing that an issue is judged by. -/
theorem useGrant_judged {s u : State} {i : Nat} (hu : u = s.useGrant i) (n : Nat) :
    u.queue n = s.queue n ∧ u.authoritative = s.authoritative ∧ u.shadowed n = s.shadowed n ∧ u.descRefused = s.descRefused ∧ u.wb = s.wb := by
  obtain ⟨l, hgrant⟩ := useGrant_eq s i
  rw [hu, hgrant]
  exact ⟨rfl, rfl, rfl, rfl, rfl⟩

/-- Settles O25: with its waits over, DESC_ISSUE is `State.issueHead`, whose checks are taken one by one in their order. -/
theorem descriptorsAreJudgedAtIssue : Obligations.DescriptorsAreJudgedAtIssue := by
  unfold Obligations.DescriptorsAreJudgedAtIssue
  refine ⟨?judged, fun s n f fs hhead hauth hmode => exec_descIssue_headWaits hhead (.inr (.inl ⟨hauth, hmode⟩)), shadowed_iff,
    fun s n f fs hhead hdur hwait => exec_descIssue_headWaits hhead (.inr (.inr ⟨hdur, hwait⟩))⟩
  case judged =>
    intro s n f fs hhead hfence hmode htag haccept u hu
    rw [descIssue_head hhead hfence hmode htag haccept, ← hu]
    obtain ⟨hqueue, hmay, hshadow, hmpu, hwb⟩ := useGrant_judged hu n
    clear hhead hmode htag haccept hu
    simp only [← hqueue, ← hmay, ← hshadow, ← hmpu, ← hwb, Host.Outcome.next.injEq]
    refine ⟨issueHead_badForm, issueHead_badOpcode, fun hform hop hring hprog => ?_⟩
    have htakes : u.Takes n f := ⟨hform, by simpa using hop, hring, hprog⟩
    rw [issueHead_taken htakes]
    refine ⟨fun hdur hid => if_pos ⟨hdur, hid⟩, fun hid => ?_⟩
    rw [if_neg fun hbad => hid.elim (by simp [hbad.1]) (absurd hbad.2)]
    refine ⟨fun hauth hno hplain => ?notActive, fun hauth hno hkept => ?shadow, fun hyes m a k href => ?refused,
      fun hyes hok => ⟨fun hdur => ?operation, fun hdur d hknown => ?known, fun hdur hnew hsome hlow => ?stale⟩⟩
    case notActive => rw [if_pos ⟨hauth, by simp [hno]⟩, if_pos (by simp [hplain])]
    case shadow => rw [if_pos ⟨hauth, by simp [hno]⟩, if_neg (by simp [hkept])]
    all_goals rw [if_neg (by rcases hyes with h | h <;> simp [h])]
    case refused => exact admitHead_refused href
    case operation => exact admitHead_operation hok hdur
    case known => exact admitHead_known hok hdur hknown
    case stale => exact admitHead_stale hok hdur hnew hsome hlow

end Sys2Proof.Machine
end

section
/-! SUPPORT. Word queues, the port and its legacy wait, DRAIN, staleness and the reset of a queue's pointers (R62, R180 to R186). -/

namespace Sys2Proof.Machine

/-! Packets. -/

/-- Content below COALESCE = 0 changes its queue's counts alone (R182). -/
theorem contentMade_quiet {s : State} {n : Nat} (hcoal : (s.queue n).coalesce = 0) (k : Nat) (had : Bool) :
    s.contentMade n k false had = s.setQueue n fun q =>
      { q with unread := (s.queue n).unread + k, quietFrom := if had then q.quietFrom else s.tb.csr } := by
  unfold State.contentMade
  exact if_neg (by simp [hcoal])

theorem exec_wordPacketDone {s : State} {n type : Nat} {tr : Bool} {b : List Byte} (hn : n < s.hq.queues.length) (hlen : b.length ≤ 65532)
    (hkind : (s.queue n).kind = true) (hon : (s.queue n).enable = true)
    (hroom : (s.queue n).roomFor (mkPacket type tr b).words.length = true) (hwait : (s.queue n).legacyWait = none)
    (hcoal : (s.queue n).coalesce = 0) :
    exec (.wordPacketDone n type tr b) s = .next (s.setQueue n fun q =>
      { q with packets := q.packets ++ [mkPacket type tr b], unread := q.unread + (mkPacket type tr b).words.length,
               quietFrom := if (s.queue n).hasContent = true then q.quietFrom else s.tb.csr,
               caches := q.caches.resize q.entriesHeld ({ q with packets := q.packets ++ [mkPacket type tr b] } : Queue).entriesHeld }) := by
  show Host.Outcome.next (s.pushPacket n type tr (b.take 65532)) = _
  rw [List.take_of_length_le hlen]
  unfold State.pushPacket
  dsimp only
  rw [if_neg (by simp [hkind, hon, hroom]), hwait]
  dsimp only
  rw [contentMade_quiet (by rw [setQueue_self hn]; exact hcoal), setQueue_setQueue]
  refine congrArg Host.Outcome.next (setQueue_congr ?_)
  rw [setQueue_self hn]
  rfl

/-! The port. -/

section
variable {s : State} {q : Requester} {n : Nat}

/-- Only an owning core waits on the port (R186). -/
theorem popRead_unwaiting (h : (s.queue n).owner = q.code → (s.queue n).legacyPop = true → (s.queue n).owner < 9 → (s.queue n).owner ≠ 0 →
      (s.queue n).pop ≠ none) : s.popRead q n = s.portRead q n :=
  if_neg fun ⟨_, hpop, hown, hfree, hcore, hempty⟩ => h hown hpop hcore hfree hempty

/-- The owner's read of the port removes the next word, or repeats the last one with UNDERRUN (R185). -/
theorem portRead_owner (hkind : (s.queue n).kind = true) (hown : (s.queue n).owner = q.code) (hq : q ≠ .debug) (hcode : q.code ≠ 0) :
    s.portRead q n = match (s.queue n).pop with
      | some (w, x) => (s.setQueue n fun _ => x.readNow s.tb.csr).answer q w.toNat
      | none => ((s.setQueue n fun x => { x with underrun := true }).raise 110).answer q (s.queue n).lastWord.toNat :=
  (if_neg (by simp [hkind])).trans ((if_neg hq).trans (if_neg (by simp [hown, hcode])))

/-- Any other requester reads 0 (R185). -/
theorem portRead_other (hown : (s.queue n).owner ≠ q.code) (hq : q ≠ .debug) : s.portRead q n = s.answer q 0 := by
  unfold State.portRead
  dsimp only
  split
  · rfl
  · exact if_pos (.inr hown)

theorem exec_portRead_word {w : Word} {x : Queue} (hkind : (s.queue n).kind = true) (hown : (s.queue n).owner = q.code) (hq : q ≠ .debug)
    (hcode : q.code ≠ 0) (hpop : (s.queue n).pop = some (w, x)) :
    exec (.portRead q n) s =
      .next { s.setQueue n fun _ => { x with unread := 0, quietFrom := s.tb.csr } with resp := some ⟨q, w.toNat, .ok⟩ } := by
  show Host.Outcome.next (s.popRead q n) = _
  rw [popRead_unwaiting (fun _ _ _ _ => by rw [hpop]; nofun), portRead_owner hkind hown hq hcode, hpop]
  rfl

theorem exec_portRead_empty (hkind : (s.queue n).kind = true) (hown : (s.queue n).owner = q.code) (hq : q ≠ .debug)
    (hcode : q.code ≠ 0) (hpop : (s.queue n).pop = none) (hnowait : (s.queue n).legacyPop = false ∨ q = .host) :
    exec (.portRead q n) s =
      .next (((s.setQueue n fun x => { x with underrun := true }).raise 110).answer q (s.queue n).lastWord.toNat) := by
  show Host.Outcome.next (s.popRead q n) = _
  rw [popRead_unwaiting, portRead_owner hkind hown hq hcode, hpop]
  intro _ hlegacy hcore _
  rcases hnowait with h | rfl
  · simp [h] at hlegacy
  · simp [hown, Requester.code] at hcore

theorem exec_portRead_other (hq : q ≠ .debug) (hown : (s.queue n).owner ≠ q.code) :
    exec (.portRead q n) s = .next { s with resp := some ⟨q, 0, .ok⟩ } := by
  show Host.Outcome.next (s.popRead q n) = _
  rw [popRead_unwaiting (fun h => absurd h hown), portRead_other hown hq]
  rfl

/-- Debug reads the next word and removes nothing (R185). -/
theorem exec_portRead_debug (s : State) (n : Nat) :
    exec (.portRead .debug n) s = .next (s.answer .debug
      (if (s.queue n).kind = true then ((s.queue n).pop.map fun p => p.1.toNat).getD (s.queue n).lastWord.toNat else 0)) := by
  show Host.Outcome.next (s.popRead .debug n) = _
  rw [popRead_unwaiting (fun hown _ hcore _ => by simp [hown, Requester.code] at hcore)]
  unfold State.portRead
  dsimp only
  cases hkind : (s.queue n).kind <;> rfl

/-- With LEGACY_POP an owning core waits on an empty port (R186). -/
theorem popRead_waits (hkind : (s.queue n).kind = true) (hlegacy : (s.queue n).legacyPop = true) (hown : (s.queue n).owner = q.code)
    (hcore : q.code < 9) (hcode : q.code ≠ 0) (hpop : (s.queue n).pop = none) :
    s.popRead q n = (s.setQueue n fun x => { x with legacyWait := some q, legacyFrom := s.tb.csr }).answerErr q .waiting :=
  if_pos ⟨hkind, hlegacy, hown, by rwa [hown], by rwa [hown], hpop⟩

theorem exec_legacyPopTimeout (hwait : (s.queue n).legacyWait = some q) :
    exec (.legacyPopTimeout n) s = .next (if s.tb.csr < (s.queue n).legacyFrom + 100 * s.fld .legacyTmo 0 32 then s
      else ((s.setQueue n fun x => { x with legacyWait := none }).raise 110).answerErr q .busError) := by
  show execLegacyPopTimeout n s = _
  unfold execLegacyPopTimeout
  rw [hwait]

end

/-- An answer after event 110 says that event and the answer. -/
theorem raise_resp_says (s : State) (r : Resp) : Says { s with resp := some r } [] [110] { s.raise 110 with resp := some r } :=
  ((Says.refl s).raise 110 (by decide)).upd (fun t => { t with resp := some r }) (fun _ _ _ _ _ => rfl) rfl rfl

/-! DRAIN and staleness. -/

theorem exec_drain {s : State} {w : WorkRef} {op : Op} {n : Nat} (hop : s.opOf w = some op) (hcode : dOpcode op.bytes = 2)
    (hn : dInline op.bytes 0 1 = n) (hkind : (s.queue n).kind = true) (hread : (s.queue n).readable = []) :
    exec (.drain w) s = .next ((((s.setQueue n fun q =>
        { q with packets := (takePackets (s.queue n).packets (dLength op.bytes)).2,
                 unread := min q.unread ({ q with packets := (takePackets (s.queue n).packets (dLength op.bytes)).2 } : Queue).wordsHeld,
                 caches := q.caches.resize q.entriesHeld ({ q with packets := (takePackets (s.queue n).packets (dLength op.bytes)).2 } : Queue).entriesHeld }).writeBuf op 0
      (wordBytes (takePackets (s.queue n).packets (dLength op.bytes)).1)).finish op 0
      (4 * (takePackets (s.queue n).packets (dLength op.bytes)).1.length))) := by
  subst hn
  show execDrain w s = _
  unfold execDrain State.anyOp
  rw [hop]
  dsimp only
  rw [if_pos hcode, if_pos ⟨hkind, hread⟩]
  rfl

theorem exec_queueStale (s : State) (n : Nat) :
    exec (.queueStale n) s = .next (if (s.queue n).hasContent = true ∧ (s.queue n).staleUs ≠ 0 ∧
        (s.queue n).quietFrom + 100 * (s.queue n).staleUs ≤ s.tb.csr then
      (s.setQueue n fun q => { q with stale := true, evt := true, caches := q.caches.forward }).raise (n / 8) else s) := by
  show execQueueStale n s = _
  unfold execQueueStale State.queueEvent
  rw [setQueue_setQueue]

/-! The reset of a queue's pointers. -/

/-- A completion entry leaves its ring's generation. -/
theorem writeCompletion_gen {s : State} {n : Nat} (hn : n < s.hq.queues.length) (d : List Byte) (tag st res fl : Nat) :
    ((s.writeCompletion n d tag st res fl).queue n).gen = (s.queue n).gen := by
  rcases (writeCompletion_queue hn d tag st res fl).1 with ⟨-, h⟩ | ⟨-, u, e, y, h⟩ <;> rw [h]

theorem completeFetched_gen {n : Nat} (st : Nat) (l : List Fetched) : ∀ {s : State}, n < s.hq.queues.length →
    ((s.completeFetched n st l).queue n).gen = (s.queue n).gen := by
  induction l with
  | nil => exact fun _ => rfl
  | cons f l ih =>
    intro s hn
    obtain ⟨-, -, hlen, -⟩ := writeCompletion_queue hn f.bytes 0 st 0 0
    exact (ih (hlen.symm ▸ hn)).trans (writeCompletion_gen hn ..)

theorem completeOps_gen {n : Nat} (st : Nat) (l : List Op) (hl : ∀ o ∈ l, o.ring = n) : ∀ {s : State}, n < s.hq.queues.length →
    ((s.completeOps st l).queue n).gen = (s.queue n).gen := by
  induction l with
  | nil => exact fun _ => rfl
  | cons o l ih =>
    intro s hn
    obtain ⟨rfl, hrest⟩ := List.forall_mem_cons.1 hl
    obtain ⟨-, -, hlen, -⟩ := writeCompletion_queue hn o.bytes o.tag st 0 (cflags false false o.long)
    exact (ih hrest (hlen.symm ▸ hn)).trans (writeCompletion_gen hn ..)

/-- A cancelled ring holds no descriptor: of the completions of what was not issued, some stand in their slots and the rest are held (R168,
R181, R189). -/
theorem cancelRing_queue {s : State} {n : Nat} (hn : n < s.hq.queues.length) (st : Nat) :
    (∃ k, k ≤ (s.hq.ops.filter fun o => o.unissued n).length + (s.queue n).fetched.length ∧
      ((s.cancelRing n st).queue n).cqProd = (s.queue n).cqProd + BitVec.ofNat 32 k ∧
      ((s.cancelRing n st).queue n).held.length = (s.queue n).held.length +
        ((s.hq.ops.filter fun o => o.unissued n).length + (s.queue n).fetched.length - k)) ∧
    ((s.cancelRing n st).queue n).fetched = [] ∧ ((s.cancelRing n st).queue n).gen = (s.queue n).gen ∧
    (∀ m, m ≠ n → (s.cancelRing n st).queue m = s.queue m) ∧ (s.cancelRing n st).hq.queues.length = s.hq.queues.length := by
  have hring : ∀ o ∈ s.hq.ops.filter fun o => o.unissued n, o.ring = n := by
    intro o ho
    simp only [List.mem_filter, Op.unissued, Bool.and_eq_true, beq_iff_eq] at ho
    obtain ⟨-, ⟨⟨hring, -⟩, -⟩, -⟩ := ho
    exact hring
  unfold State.cancelRing
  dsimp only
  generalize s.hq.ops.filter (fun o => o.unissued n) = l at hring ⊢
  obtain ⟨⟨a, ha, haprod, haheld⟩, -, -, haother, halen, -⟩ := completeOps_queue st l hring hn
  have hagen := completeOps_gen st l hring hn
  generalize s.completeOps st l = t at haprod haheld haother halen hagen ⊢
  obtain ⟨⟨b, hb, hbprod, hbheld⟩, -, hbother, hblen, -⟩ := completeFetched_queue (s := t) (n := n) (by omega) st (s.queue n).fetched
  have hbgen := completeFetched_gen (n := n) st (s.queue n).fetched (s := t) (by omega)
  generalize t.completeFetched n st (s.queue n).fetched = u at hbprod hbheld hbother hblen hbgen ⊢
  have hself := setQueue_self (s := u) (n := n) (by omega) fun q => { q with fetched := [], caches := {} }
  refine ⟨⟨a + b, by omega, ?_, ?_⟩, ?_, ?_, fun m hm => ?_, ?_⟩
  · rw [hself, BitVec.ofNat_add, ← BitVec.add_assoc, ← haprod, ← hbprod]
  · rw [hself]
    exact hbheld.trans (by omega)
  · rw [hself]
  · rw [hself, ← hagen, ← hbgen]
  · rw [setQueue_other hm, hbother m hm, haother m hm]
  · rw [setQueue_length, hblen, halen]

/-- A ring with nothing fetched and nothing waiting for its TIME completes nothing when it is cancelled. -/
theorem cancelRing_idle {s : State} {n : Nat} (hfetched : (s.queue n).fetched = []) (hops : ∀ o ∈ s.hq.ops, o.unissued n = false) (st : Nat) :
    s.cancelRing n st = s.setQueue n fun q => { q with fetched := [], caches := {} } := by
  have hnone : (s.hq.ops.filter fun o => o.unissued n) = [] := List.filter_eq_nil_iff.2 fun o ho => by simp [hops o ho]
  unfold State.cancelRing
  rw [hfetched, hnone]
  rfl

/-- A queue emptied under a new generation (R181). -/
def Queue.emptied (q : Queue) : Queue := { q with packets := [], readable := [], unread := 0, gen := q.gen + 1, ptrReset := true }

/-- Queue `n` cancelled and emptied, with the pointer that failed (R180, R181). -/
def State.emptied (s : State) (n pointer : Nat) : State :=
  let t := (s.cancelRing n stQueueReset).setQueue n Queue.emptied
  { t with hq := { t.hq with faultQueue := n % 256, faultPtr := pointer % 8 } }

/-- The emptied queue with its record and its event (R180). -/
def State.ptrReset (s : State) (n pointer : Nat) : State := ((s.emptied n pointer).record .queuePtrReset [n, pointer]).raise 109

theorem ptrReset_says (s : State) (n p : Nat) : Says (s.emptied n p) [(.queuePtrReset, [n, p])] [109] (s.ptrReset n p) :=
  ((Says.refl _).record .queuePtrReset [n, p]).raise 109 (by decide)

/-- No completion moves the lease. -/
theorem ptrReset_holds (s : State) (n p : Nat) : (s.ptrReset n p).holds = s.holds := by
  rw [(ptrReset_says s n p).holds]
  simp only [State.holds, State.emptied, State.setQueue, State.cancelRing_frame]

/-- QUEUE_PTR_RESET: accepted work of the holder comes back from a whole copy of the journal, or is lost with the guarantee (R62, R181). -/
theorem exec_queuePtrReset (s : State) (n p : Nat) (a b : Bool) :
    exec (.queuePtrReset n p a b) s = .next (
      if (s.queue n).durable = false ∨ s.holds = false then s.ptrReset n p
      else if a = true ∨ b = true then (s.ptrReset n p).refillWork n
      else ({ s.ptrReset n p with hq := { (s.ptrReset n p).hq with work := (s.ptrReset n p).hq.work.filter fun o => decide (o.ring ≠ n) } }
        : State).guaranteeBroken (n :: ((s.ptrReset n p).hq.work.filter fun o => o.ring == n).map fun o => dSubmit o.bytes)) := by
  rw [← ptrReset_holds s n p]
  rfl

/-- Whatever becomes of accepted work, the queues are the emptied ones; without a whole copy of the journal the holder keeps no work of the
ring (R181). -/
theorem queuePtrReset_hq (s : State) (n p : Nat) (a b : Bool) : ∃ t, exec (.queuePtrReset n p a b) s = .next t ∧
    t.hq.queues = (s.emptied n p).hq.queues ∧
    ((s.queue n).durable = true → s.holds = true → a = false → b = false → ∀ o ∈ t.hq.work, o.ring ≠ n) := by
  have hhq := (ptrReset_says s n p).toReports.hq
  refine ⟨_, exec_queuePtrReset s n p a b, ?_⟩
  split
  next hnot => exact ⟨by rw [hhq], fun hdur hholds => by simp [hdur, hholds] at hnot⟩
  split
  next hcopy => exact ⟨(congrArg HqSt.queues hhq :), fun _ _ ha hb => by simp [ha, hb] at hcopy⟩
  next =>
    simp only [State.guaranteeBroken_frame]
    exact ⟨congrArg HqSt.queues hhq, fun _ _ _ _ o ho => by simpa using (List.mem_filter.1 ho).2⟩

/-- What an emptied queue holds. -/
theorem emptied_queue {s : State} {n : Nat} (hn : n < s.hq.queues.length) (p : Nat) :
    (s.emptied n p).queue n = ((s.cancelRing n stQueueReset).queue n).emptied := by
  obtain ⟨-, -, -, -, hlen⟩ := cancelRing_queue hn stQueueReset
  exact setQueue_self (hlen.symm ▸ hn) _

/-- A queue with nothing to complete is emptied in one change (R181). -/
theorem emptied_idle {s : State} {n p : Nat} (hn : n < 256) (hp : p < 8) (hfetched : (s.queue n).fetched = [])
    (hops : ∀ o ∈ s.hq.ops, o.unissued n = false) :
    s.emptied n p =
      let t := s.setQueue n fun q => ({ q with fetched := [], caches := {} } : Queue).emptied
      { t with hq := { t.hq with faultQueue := n, faultPtr := p } } := by
  unfold State.emptied
  rw [cancelRing_idle hfetched hops, setQueue_setQueue, Nat.mod_eq_of_lt hn, Nat.mod_eq_of_lt hp]

/-! Work that comes back from the journal. -/

theorem mem_insertWork {o x : Op} {l : List Op} : x ∈ insertWork o l ↔ x = o ∨ x ∈ l := by
  induction l with
  | nil => simp [insertWork]
  | cons y l ih =>
    unfold insertWork
    split
    · exact List.mem_cons
    · rw [List.mem_cons, ih, List.mem_cons, or_left_comm]

theorem mem_foldl_insertWork {x : Op} (back : List Op) : ∀ {l : List Op},
    x ∈ back.foldl (fun l o => insertWork o l) l ↔ x ∈ back ∨ x ∈ l := by
  induction back with
  | nil => simp
  | cons o back ih =>
    intro l
    rw [List.foldl_cons, ih, mem_insertWork, List.mem_cons, or_left_comm, or_assoc]

/-- The work of a refilled queue: what is not the ring's or has begun, and what the journal has of the ring beside that and beside what is
in flight (R181). -/
theorem mem_refillWork {s : State} {n : Nat} {x : Op} : x ∈ (s.refillWork n).hq.work ↔
    (x ∈ s.hq.work ∧ (x.ring ≠ n ∨ x.started = true ∨ x.steps ≠ 0)) ∨
    (x ∈ s.workOf ∧ x.ring = n ∧ (∀ p ∈ s.hq.work, p.ring ≠ n ∨ p.started = true ∨ p.steps ≠ 0 → p.jsn ≠ x.jsn) ∧
      ∀ p ∈ s.hq.ops, p.jsn ≠ x.jsn) := by
  unfold State.refillWork
  simp [mem_foldl_insertWork, or_assoc, and_assoc]

/-- Every accepted, unexecuted descriptor of the journal that is not in flight stands in the work afterwards (R181). -/
theorem refillWork_covers {s : State} {n : Nat} {o : Op} (ho : o ∈ s.workOf) (hring : o.ring = n) (hnew : ∀ p ∈ s.hq.ops, p.jsn ≠ o.jsn) :
    ∃ p ∈ (s.refillWork n).hq.work, p.jsn = o.jsn := by
  by_cases hkept : ∃ p ∈ s.hq.work, (p.ring ≠ n ∨ p.started = true ∨ p.steps ≠ 0) ∧ p.jsn = o.jsn
  · obtain ⟨p, hp, hbegun, hjsn⟩ := hkept
    exact ⟨p, mem_refillWork.2 (.inl ⟨hp, hbegun⟩), hjsn⟩
  · exact ⟨o, mem_refillWork.2 (.inr ⟨ho, hring, fun p hp hbegun hjsn => hkept ⟨p, hp, hbegun, hjsn⟩, hnew⟩), rfl⟩

/-- Settles O27: packets and the port by their own rules, the reset by `cancelRing_queue` and the work that comes back. -/
theorem wordQueuesAndPorts : Obligations.WordQueuesAndPorts := by
  unfold Obligations.WordQueuesAndPorts
  refine ⟨fun s n type tr b => exec_wordPacketDone, fun s q n w x => exec_portRead_word, ?empty, fun s q n => exec_portRead_other, ?debug, ?waits,
    ?timeout, fun s w op n => exec_drain, takePackets_spec, ?stale, ?fresh, ?idle, ?reset, ?refill⟩
  case empty =>
    intro s q n hkind hown hq hcode hpop hnowait
    exact ⟨_, exec_portRead_empty hkind hown hq hcode hpop hnowait, raise_resp_says _ _⟩
  case debug =>
    intro s n
    refine ⟨_, exec_portRead_debug s n, fun w x hkind hpop => ?_⟩
    rw [if_pos hkind, hpop]
    rfl
  case waits =>
    intro s p h m n hkind hlegacy hown hcore hpop
    have hcode : (Requester.core p h m).code ≠ 0 := by cases h <;> simp [Requester.code]
    have hwaits := popRead_waits hkind hlegacy hown hcore hcode hpop
    exact ⟨_, congrArg Host.Outcome.next hwaits, congrArg Host.Outcome.next hwaits, rfl⟩
  case timeout =>
    intro s n q hwait
    rw [exec_legacyPopTimeout hwait]
    exact ⟨fun hearly => by rw [if_pos hearly], fun hover => ⟨_, congrArg _ (if_neg (Nat.not_lt.2 hover)), raise_resp_says _ _⟩⟩
  case stale =>
    intro s n hn hcontent hstale hquiet
    exact ⟨_, (exec_queueStale s n).trans (congrArg _ (if_pos ⟨hcontent, hstale, hquiet⟩)), (Says.refl _).raise (n / 8) (by omega)⟩
  case fresh =>
    intro s n hfresh
    refine (exec_queueStale s n).trans (congrArg _ (if_neg ?_))
    rintro ⟨hcontent, -, hquiet⟩
    rcases hfresh with h | h
    · simp [h] at hcontent
    · omega
  case idle =>
    intro s n p a b hn hp hfetched hops hkept
    have hsaid := ptrReset_says s n p
    rw [emptied_idle hn hp hfetched hops] at hsaid
    exact ⟨_, (exec_queuePtrReset s n p a b).trans (congrArg _ (if_pos hkept)), hsaid⟩
  case reset =>
    intro s n p a b _ hn
    obtain ⟨t, hexec, hqueues, hlost⟩ := queuePtrReset_hq s n p a b
    obtain ⟨⟨k, hk, hprod, hheld⟩, hfetched, hgen, hother, -⟩ := cancelRing_queue hn stQueueReset
    have hself : t.queue n = _ := (congrArg (·.getD n {}) hqueues).trans (emptied_queue hn p)
    refine ⟨t, k, hexec, ?_⟩
    rw [hself]
    refine ⟨hfetched, rfl, rfl, congrArg (· + 1) hgen, rfl, hk, hprod, hheld, fun m hm => ?_, hlost⟩
    exact (congrArg (·.getD m {}) hqueues).trans ((setQueue_other hm _).trans (hother m hm))
  case refill =>
    exact fun s n => ⟨rfl, fun o ho hbegun => mem_refillWork.2 (.inl ⟨ho, hbegun⟩), fun o => refillWork_covers⟩

end Sys2Proof.Machine
end

section
/-! SUPPORT. EVT_NEXT: the lowest pending enabled source of a vector (R194). -/

namespace Sys2Proof.Machine

/-- A register of one word with no latch standing reads as it is, and freezes nothing (R617). -/
theorem readLatched_single {s : State} {q : Requester} {r : RegName} {i j : Nat} (hseries : s.dropOldLatches.seriesOf r i j = (.timed, []))
    (hheld : s.dropOldLatches.latched (latchKey .timed q) (r.addr i j) = none) :
    s.readLatched q r i j = (s.dropOldLatches, s.regWord r i j) := by
  unfold State.readLatched
  simp only [hseries, hheld, seriesAddrs, List.map_nil, List.head?_nil, reduceCtorEq, false_and, if_false]
  rfl

/-- The first source that meets a test, or 0xFF. -/
theorem lowestSource_spec (p : Nat → Bool) : ∃ x, ((List.range 128).find? p).getD 0xFF = x ∧
    (x < 128 ∧ p x = true ∧ (∀ y, y < x → p y = false) ∨ x = 255 ∧ ∀ y, y < 128 → p y = false) := by
  rcases find_range p 128 with ⟨x, hlt, hfind, hon, hlow⟩ | ⟨hfind, hnone⟩
  · exact ⟨x, by rw [hfind]; rfl, .inl ⟨hlt, hon, hlow⟩⟩
  · exact ⟨255, by rw [hfind]; rfl, .inr ⟨rfl, hnone⟩⟩

/-- A source shows on a host vector while it is pending, enabled and routed there (R191). -/
theorem pendingOn_eq (s : State) (m : Nat) :
    s.pendingOn m = fun y => s.isPending y && s.bit .evtRoute 0 y && s.bit .evtRoute 1 y && s.fld .evtRoute 4 5 y == m := by
  funext y
  unfold State.pendingOn State.hostVec
  cases hen : s.bit .evtRoute 0 y
  · simp
  · cases hhost : s.bit .evtRoute 1 y <;> simp

/-- A register found at its own address, in space that is neither locked nor the debug module's (R615, R626). -/
def plainReg (r : RegName) (i j : Nat) : Bool :=
  findReg (r.addr i j) == some (r, i, j) && inRegs (r.addr i j) && !badAccess (r.addr i j) 4 && !debugLocked (r.addr i j) &&
    !inWindow (r.addr i j) && decide (r.addr i j / 65536 ≠ 0x4016)

theorem plainReg_evtNextCore : ∀ k < 4, ∀ v < 8, plainReg .evtNextCore k v = true := by decide +kernel
theorem plainReg_evtNextHost : ∀ m < 32, plainReg .evtNextHost m 0 = true := by decide +kernel

/-- A read of a register of one word with no latch standing answers its word; expired latches alone go (R617). -/
theorem exec_read_single {s : State} {q : Requester} {r : RegName} {i j : Nat} (hplain : plainReg r i j = true) (hdm : r ≠ .dbgDm)
    (hread : ∀ u : State, u.readReg q r i j = (u.readLatched q r i j).1.answer q (u.readLatched q r i j).2.toNat)
    (hseries : s.dropOldLatches.seriesOf r i j = (.timed, []))
    (hheld : s.dropOldLatches.latched (latchKey .timed q) (r.addr i j) = none) :
    exec (.wideReadLatch q (r.addr i j)) s = .next (s.dropOldLatches.answer q (s.regWord r i j).toNat) := by
  simp only [plainReg, Bool.and_eq_true, beq_iff_eq, Bool.not_eq_true', decide_eq_true_eq] at hplain
  obtain ⟨⟨⟨⟨⟨hfind, hregs⟩, hsize⟩, hfree⟩, hwin⟩, hdbg⟩ := hplain
  rw [exec_wideReadLatch_reg hfind ⟨hregs, hsize⟩ hfree hwin hdbg hdm, hread, readLatched_single hseries hheld]

/-- Settles O29: the register's word is the first source of the vector in ascending order, and its read latches nothing. -/
theorem evtNextReadsTheLowestSource : Obligations.EvtNextReadsTheLowestSource := by
  unfold Obligations.EvtNextReadsTheLowestSource
  intro s q r k v on _ hwhich hheld
  obtain ⟨x, hx, hspec⟩ := lowestSource_spec on
  have hfit : (BitVec.ofNat 32 x).toNat = x := by
    have hsmall := hspec.imp And.left And.left
    rw [BitVec.toNat_ofNat]
    omega
  refine ⟨x, ?_, hspec⟩
  rcases hwhich with ⟨rfl, hk, hv, rfl⟩ | ⟨rfl, hk, rfl, rfl⟩
  · have hword : s.regWord .evtNextCore k v = BitVec.ofNat 32 x := congrArg (BitVec.ofNat 32) hx
    rw [exec_read_single (plainReg_evtNextCore k hk v hv) (by decide) (fun _ => rfl) rfl hheld, hword, hfit]
    rfl
  · have hword : s.regWord .evtNextHost k 0 = BitVec.ofNat 32 x := congrArg (BitVec.ofNat 32) (by rw [← hx, ← pendingOn_eq]; rfl)
    rw [exec_read_single (plainReg_evtNextHost k hk) (by decide) (fun _ => rfl) rfl hheld, hword, hfit]
    rfl

end Sys2Proof.Machine
end

section
/-! SUPPORT. Every command and every idle microsecond keeps what the relation `Evolves` says, the rule of the fence among it (R220, R629). -/

namespace Sys2Proof.Machine

/-- The state that a command answers comes out of the one it ran on, by the lemma of its arm. -/
theorem exec_leads : ∀ (c : Instr) (s : State), Leads s (exec c s)
  | .registerWrite q addr v, s => execRegisterWrite_leads q addr v s
  | .wideReadLatch q addr, s => execWideReadLatch_leads q addr s
  | .angNowRead q, s => execAngNowRead_leads q s
  | .mapRead q, s => execMapRead_leads q s
  | .ptNowRead q, s => execPtNowRead_leads q s
  | .calReadFreeze q which, s => execCalReadFreeze_leads q which s
  | .registerBadAccess q addr size, s => execRegisterBadAccess_leads q addr size s
  | .lockOpen q block key, s => execLockOpen_leads q block key s
  | .lockClose q block key, s => execLockClose_leads q block key s
  | .lockTimeout block, s => execLockTimeout_leads block s
  | .longOpStep w total last, s => execLongOpStep_leads w total last s
  | .opComplete tag, s => execOpComplete_leads tag s
  | .tagGrant issuer, s => execTagGrant_leads issuer s
  | .unitLost u, s => execUnitLost_leads u s
  | .unitRestored u, s => execUnitRestored_leads u s
  | .inputStale inp, s => execInputStale_leads inp s
  | .insertion prechargeMv, s => execInsertion_leads prechargeMv s
  | .strapRead selA selB carrier, s => execStrapRead_leads selA selB carrier s
  | .holdupMeasure found, s => execHoldupMeasure_leads found s
  | .holdupLost volt, s => execHoldupLost_leads volt s
  | .holdupRestored volt, s => execHoldupRestored_leads volt s
  | .feedLost b volt, s => execFeedLost_leads b volt s
  | .feedRestored b volt, s => execFeedRestored_leads b volt s
  | .powerFail goodFor1ms dipUs, s => execPowerFail_leads goodFor1ms dipUs s
  | .powerFailFlushDone, s => execPowerFailFlushDone_leads s
  | .presentLost, s => execPresentLost_leads s
  | .ejectReq, s => execEjectReq_leads s
  | .pullOk, s => execPullOk_leads s
  | .leverReturn, s => execLeverReturn_leads s
  | .angSrcLost, s => execAngSrcLost_leads s
  | .angFallback freq d, s => execAngFallback_leads freq d s
  | .angSrcReturn freq d, s => execAngSrcReturn_leads freq d s
  | .angLocked, s => execAngLocked_leads s
  | .angSrcSwitch q v freq d, s => execAngSrcSwitch_leads q v freq d s
  | .slewDone, s => execSlewDone_leads s
  | .cycleBoundary src, s => execCycleBoundary_leads src s
  | .mapRecord, s => execMapRecord_leads s
  | .cycleSeed src, s => execCycleSeed_leads src s
  | .ptpSyncRx f offset, s => execPtpSyncRx_leads f offset s
  | .ptpAnnounceRx f master utc, s => execPtpAnnounceRx_leads f master utc s
  | .ptMasterLost, s => execPtMasterLost_leads s
  | .ptSoftStep q v, s => execPtSoftStep_leads q v s
  | .frameLaunch id, s => execFrameLaunch_leads id s
  | .alarmArm q n v, s => execAlarmArm_leads q n v s
  | .alarmDisarm q n v, s => execAlarmDisarm_leads q n v s
  | .alarmFire n, s => execAlarmFire_leads n s
  | .calDateStage q v, s => execCalDateStage_leads q v s
  | .calCommit q v, s => execCalCommit_leads q v s
  | .calTick, s => execCalTick_leads s
  | .rtcTrimUpdate temp, s => execRtcTrimUpdate_leads temp s
  | .backupMeasure volt weak, s => execBackupMeasure_leads volt weak s
  | .backupSwitchover, s => execBackupSwitchover_leads s
  | .rtcLost retention, s => execRtcLost_leads retention s
  | .calendarAlarm, s => execCalendarAlarm_leads s
  | .ringClaim q n v, s => execRingClaim_leads q n v s
  | .ringRelease q n v, s => execRingRelease_leads q n v s
  | .queueEnable q n v, s => execQueueEnable_leads q n v s
  | .queueDisable q n v, s => execQueueDisable_leads q n v s
  | .hqKick q v, s => execHqKick_leads q v s
  | .doorbellPoll, s => execDoorbellPoll_leads s
  | .ringFetch, s => execRingFetch_leads s
  | .ringErrClear q n, s => execRingErrClear_leads q n s
  | .descIssue ring, s => execDescIssue_leads ring s
  | .nop w, s => execNop_leads w s
  | .abort w, s => execAbort_leads w s
  | .drain w, s => execDrain_leads w s
  | .timedDescDue w, s => execTimedDescDue_leads w s
  | .shadowPairComplete ring submitId, s => execShadowPairComplete_leads ring submitId s
  | .queuePtrReset n pointer ownCopyOk partnerCopyOk, s => execQueuePtrReset_leads n pointer ownCopyOk partnerCopyOk s
  | .queueStale n, s => execQueueStale_leads n s
  | .wordPacketDone n type trunc bytes, s => execWordPacketDone_leads n type trunc bytes s
  | .portRead q n, s => execPortRead_leads q n s
  | .legacyPopRead q n, s => execLegacyPopRead_leads q n s
  | .legacyPopTimeout n, s => execLegacyPopTimeout_leads n s
  | .evtRouteWrite q src v, s => execEvtRouteWrite_leads q src v s
  | .evtPendClear q k v, s => execEvtPendClear_leads q k v s
  | .evtSoft q v, s => execEvtSoft_leads q v s
  | .evtHostEoi q v, s => execEvtHostEoi_leads q v s
  | .evtHostMaskWrite q v, s => execEvtHostMaskWrite_leads q v s
  | .msixMaskWrite vec mask, s => execMsixMaskWrite_leads vec mask s
  | .msixMessage src, s => execMsixMessage_leads src s
  | .hostLinkUp, s => execHostLinkUp_leads s
  | .hostPortReset, s => execHostPortReset_leads s
  | .heartbeatTx, s => execHeartbeatTx_leads s
  | .heartbeatRx crcOk hb, s => execHeartbeatRx_leads crcOk hb s
  | .heartbeatMissed, s => execHeartbeatMissed_leads s
  | .helloTx, s => execHelloTx_leads s
  | .helloRx crcOk gen h, s => execHelloRx_leads crcOk gen h s
  | .manifestRx crcOk msgSeq m, s => execManifestRx_leads crcOk msgSeq m s
  | .fetchRx crcOk gen f, s => execFetchRx_leads crcOk gen f s
  | .fetchDataRx crcOk gen e content checkOk, s => execFetchDataRx_leads crcOk gen e content checkOk s
  | .followerCycleStart task distUs, s => execFollowerCycleStart_leads task distUs s
  | .outputDigestRx crcOk gen cycle digests, s => execOutputDigestRx_leads crcOk gen cycle digests s
  | .journalRx crcOk msgSeq gen solo entries, s => execJournalRx_leads crcOk msgSeq gen solo entries s
  | .journalAckRx crcOk gen jsn, s => execJournalAckRx_leads crcOk gen jsn s
  | .journalStall, s => execJournalStall_leads s
  | .journalStreamWrite bytes, s => execJournalStreamWrite_leads bytes s
  | .checkpointWrite, s => execCheckpointWrite_leads s
  | .orderedSend stream payload, s => execOrderedSend_leads stream payload s
  | .streamAckRx stream epoch seq reason, s => execStreamAckRx_leads stream epoch seq reason s
  | .ordAckTimeout stream, s => execOrdAckTimeout_leads stream s
  | .ordAckJournal stream, s => execOrdAckJournal_leads stream s
  | .renewTx, s => execRenewTx_leads s
  | .refereeReplyTimeout, s => execRefereeReplyTimeout_leads s
  | .grantRx checkOk seq gen termUs, s => execGrantRx_leads checkOk seq gen termUs s
  | .denyRx checkOk seq rstatus holder gen, s => execDenyRx_leads checkOk seq rstatus holder gen s
  | .statusRx checkOk seq holder gen bootEpoch, s => execStatusRx_leads checkOk seq holder gen bootEpoch s
  | .probeTx, s => execProbeTx_leads s
  | .requestRepeat, s => execRequestRepeat_leads s
  | .leaseExpiry, s => execLeaseExpiry_leads s
  | .consentAskRx crcOk gen termUs, s => execConsentAskRx_leads crcOk gen termUs s
  | .consentGiveRx crcOk gen termUs, s => execConsentGiveRx_leads crcOk gen termUs s
  | .consentRefuseRx crcOk gen, s => execConsentRefuseRx_leads crcOk gen s
  | .consentLapse, s => execConsentLapse_leads s
  | .leaseWdWrite q v, s => execLeaseWdWrite_leads q v s
  | .fenceWdExpiry, s => execFenceWdExpiry_leads s
  | .handoverPlan q v, s => execHandoverPlan_leads q v s
  | .plannedHandoverStart, s => execPlannedHandoverStart_leads s
  | .handoverOfferRx crcOk gen jsn, s => execHandoverOfferRx_leads crcOk gen jsn s
  | .handoverReadyRx crcOk gen, s => execHandoverReadyRx_leads crcOk gen s
  | .handoverGoRx crcOk gen, s => execHandoverGoRx_leads crcOk gen s
  | .handoverDoneRx crcOk gen, s => execHandoverDoneRx_leads crcOk gen s
  | .handoverAbandonRx crcOk gen, s => execHandoverAbandonRx_leads crcOk gen s
  | .handoverReadyTimeout, s => execHandoverReadyTimeout_leads s
  | .powerFailNoticeRx crcOk gen jsn, s => execPowerFailNoticeRx_leads crcOk gen jsn s
  | .resyncRx crcOk gen m, s => execResyncRx_leads crcOk gen m s
  | .resyncStep ok, s => execResyncStep_leads ok s
  | .wbLaneDown l, s => execWbLaneDown_leads l s
  | .drillDue, s => execDrillDue_leads s
  | .drillDwellEnd, s => execDrillDwellEnd_leads s
  | .refereeMsgRx m checkOk same, s => execRefereeMsgRx_leads m checkOk same s
  | .refereeStartupHoldEnd, s => execRefereeStartupHoldEnd_leads s
  | .lockstepMismatch pair cause port v1 v2 pc, s => execLockstepMismatch_leads pair cause port v1 v2 pc s
  | .comparatorSelftest pair detected, s => execComparatorSelftest_leads pair detected s
  | .coreSelftestDone pair pass, s => execCoreSelftestDone_leads pair pass s
  | .coreAccess pair second priv kind addr size data corrected, s => execCoreAccess_leads pair second priv kind addr size data corrected s
  | .mpuSync q m, s => execMpuSync_leads q m s
  | .mpuSyncDone m, s => execMpuSyncDone_leads m s
  | .mpuDrainDone m, s => execMpuDrainDone_leads m s
  | .debugAccess write addr v, s => execDebugAccess_leads write addr v s
  | .debugHalt pair, s => execDebugHalt_leads pair s
  | .dmCommand write reg v, s => execDmCommand_leads write reg v s
  | .debugTokenGo q, s => execDebugTokenGo_leads q s
  | .debugRelock q, s => execDebugRelock_leads q s
  | .debugUnlockExpiry, s => execDebugUnlockExpiry_leads s
  | .cycleStart cycleUs, s => execCycleStart_leads cycleUs s
  | .task0End writes calls, s => execTask0End_leads writes calls s
  | .taskRelease t di ai, s => execTaskRelease_leads t di ai s
  | .taskReleaseEnd t writes calls, s => execTaskReleaseEnd_leads t writes calls s
  | .stationReplyRx station pairId mac echo points, s => execStationReplyRx_leads station pairId mac echo points s
  | .scanTimeout di ai, s => execScanTimeout_leads di ai s
  | .restart w, s => execRestart_leads w s
  | .instarPrepare w img memOk runtimeOk typesOk, s => execInstarPrepare_leads w img memOk runtimeOk typesOk s
  | .instarLoad w, s => execInstarLoad_leads w s
  | .instarBind w, s => execInstarBind_leads w s
  | .instarSwitch w, s => execInstarSwitch_leads w s
  | .instarConfirm w, s => execInstarConfirm_leads w s
  | .instarAbandon w, s => execInstarAbandon_leads w s
  | .instarConfirmExpiry, s => execInstarConfirmExpiry_leads s
  | .forceSet w, s => execForceSet_leads w s
  | .forceRemove w, s => execForceRemove_leads w s
  | .forceList w, s => execForceList_leads w s
  | .loopSample slot stamp late skips, s => execLoopSample_leads slot stamp late skips s
  | .loopBundleTx window ai, s => execLoopBundleTx_leads window ai s
  | .slotWrite w, s => execSlotWrite_leads w s
  | .slotEnable w, s => execSlotEnable_leads w s
  | .setTarget w, s => execSetTarget_leads w s
  | .groupWrite w, s => execGroupWrite_leads w s
  | .outWrite w, s => execOutWrite_leads w s
  | .tableLoad w, s => execTableLoad_leads w s
  | .slotRead w, s => execSlotRead_leads w s
  | .strobeLaunch ring, s => execStrobeLaunch_leads ring s
  | .sampleRx ring pos crcOk smp, s => execSampleRx_leads ring pos crcOk smp s
  | .sampleTimeout ring pos, s => execSampleTimeout_leads ring pos s
  | .sweepPartDone ring us, s => execSweepPartDone_leads ring us s
  | .halfRingRx crcOk gen b, s => execHalfRingRx_leads crcOk gen b s
  | .halfRingTimeout ring, s => execHalfRingTimeout_leads ring s
  | .breakRx ring pos sideB, s => execBreakRx_leads ring pos sideB s
  | .ringInputDown ring, s => execRingInputDown_leads ring s
  | .ringInputUp ring, s => execRingInputUp_leads ring s
  | .breakHeal ring, s => execBreakHeal_leads ring s
  | .alarmSymbolRx ring, s => execAlarmSymbolRx_leads ring s
  | .alarmFrameRx ring pos cause channel reading epoch, s => execAlarmFrameRx_leads ring pos cause channel reading epoch s
  | .alarmUnnamed ring, s => execAlarmUnnamed_leads ring s
  | .commandWindow ring, s => execCommandWindow_leads ring s
  | .nodeAckRx ring pos cseq gen8 result readings, s => execNodeAckRx_leads ring pos cseq gen8 result readings s
  | .nodeAckTimeout ring pos, s => execNodeAckTimeout_leads ring pos s
  | .echoCheck ring, s => execEchoCheck_leads ring s
  | .latchRemeasure ring, s => execLatchRemeasure_leads ring s
  | .echoReplyRx ring pos rttNs, s => execEchoReplyRx_leads ring pos rttNs s
  | .idRx ring pos nodeId ntype cells hopA hopB, s => execIdRx_leads ring pos nodeId ntype cells hopA hopB s
  | .tapTestAuto ring, s => execTapTestAuto_leads ring s
  | .ringEnumerate w hops answered, s => execRingEnumerate_leads w hops answered s
  | .nodeCmd w, s => execNodeCmd_leads w s
  | .sweepCopy w, s => execSweepCopy_leads w s
  | .tapTest w, s => execTapTest_leads w s
  | .diagRead w body, s => execDiagRead_leads w body s
  | .strobeUpdate ring epoch arrayUs, s => execStrobeUpdate_leads ring epoch arrayUs s
  | .quantityPublish epoch, s => execQuantityPublish_leads epoch s
  | .paramUpdate epoch, s => execParamUpdate_leads epoch s
  | .summary epoch, s => execSummary_leads epoch s
  | .balancingPlan epoch, s => execBalancingPlan_leads epoch s
  | .cocoonCheckSweep ring hours, s => execCocoonCheckSweep_leads ring hours s
  | .cocoonWake cause, s => execCocoonWake_leads cause s
  | .cellRead w, s => execCellRead_leads w s
  | .cellReset w, s => execCellReset_leads w s
  | .historyRead w, s => execHistoryRead_leads w s
  | .lifetimeRead w, s => execLifetimeRead_leads w s
  | .planRead w, s => execPlanRead_leads w s
  | .missLimit string, s => execMissLimit_leads string s
  | .missTrip string, s => execMissTrip_leads string s
  | .protNoticeRx crcOk gen groups cause ring pos channel epoch, s => execProtNoticeRx_leads crcOk gen groups cause ring pos channel epoch s
  | .auxConfirmTimeout g, s => execAuxConfirmTimeout_leads g s
  | .protFrameTx, s => execProtFrameTx_leads s
  | .gooseRetransmit, s => execGooseRetransmit_leads s
  | .protStage w, s => execProtStage_leads w s
  | .protCommit w, s => execProtCommit_leads w s
  | .protDiscard w, s => execProtDiscard_leads w s
  | .protReset w, s => execProtReset_leads w s
  | .protTest w ownOff partnerOff confirmOpen, s => execProtTest_leads w ownOff partnerOff confirmOpen s
  | .protRead w, s => execProtRead_leads w s
  | .dspReport, s => execDspReport_leads s
  | .dspAlloc, s => execDspAlloc_leads s
  | .setpointFrameRx sp epoch seq, s => execSetpointFrameRx_leads sp epoch seq s
  | .dspFallback, s => execDspFallback_leads s
  | .dspFfr, s => execDspFfr_leads s
  | .dspPlantSet w, s => execDspPlantSet_leads w s
  | .dspWorkerEnable w, s => execDspWorkerEnable_leads w s
  | .fieldSupplyLost privileged volt, s => execFieldSupplyLost_leads privileged volt s
  | .fieldSupplyGood privileged volt, s => execFieldSupplyGood_leads privileged volt s
  | .diFilterChange n level stamp, s => execDiFilterChange_leads n level stamp s
  | .doFault n high atLimit, s => execDoFault_leads n high atLimit s
  | .darkTest n, s => execDarkTest_leads n s
  | .darkTestEnd n fellLow alsoFell, s => execDarkTestEnd_leads n fellLow alsoFell s
  | .doShort n, s => execDoShort_leads n s
  | .doRetry n stillShort, s => execDoRetry_leads n stillShort s
  | .doReset w, s => execDoReset_leads w s
  | .aiOverload n, s => execAiOverload_leads n s
  | .aiOverloadRetry n current, s => execAiOverloadRetry_leads n current s
  | .aoOpen n, s => execAoOpen_leads n s
  | .aoOpenEnd n, s => execAoOpenEnd_leads n s
  | .aoCompliance n headroom, s => execAoCompliance_leads n headroom s
  | .aoComplianceEnd n headroom, s => execAoComplianceEnd_leads n headroom s
  | .makeupStart n, s => execMakeupStart_leads n s
  | .makeupEnd n, s => execMakeupEnd_leads n s
  | .gsOverrange ovr, s => execGsOverrange_leads ovr s
  | .calEnable q v, s => execCalEnable_leads q v s
  | .selKeyPress, s => execSelKeyPress_leads s
  | .selKeyHold, s => execSelKeyHold_leads s
  | .calKeyPress, s => execCalKeyPress_leads s
  | .calKeyHold, s => execCalKeyHold_leads s
  | .hartCmd w reply, s => execHartCmd_leads w reply s
  | .aoTrim w, s => execAoTrim_leads w s
  | .canRx port f, s => execCanRx_leads port f s
  | .canTxComplete port sent err, s => execCanTxComplete_leads port sent err s
  | .canBusOff port, s => execCanBusOff_leads port s
  | .canRecoverWrite q port v, s => execCanRecoverWrite_leads q port v s
  | .canRecover w, s => execCanRecover_leads w s
  | .canRecoveryDone port, s => execCanRecoveryDone_leads port s
  | .canSleep q port v, s => execCanSleep_leads q port v s
  | .canWake port, s => execCanWake_leads port s
  | .canSend w, s => execCanSend_leads w s
  | .canFilter w, s => execCanFilter_leads w s
  | .netSend w, s => execNetSend_leads w s
  | .gateLoad w, s => execGateLoad_leads w s
  | .gateListSwitch port, s => execGateListSwitch_leads port s
  | .netPortDown port, s => execNetPortDown_leads port s
  | .netModuleRefused port, s => execNetModuleRefused_leads port s
  | .supervisionTx, s => execSupervisionTx_leads s
  | .svSampleRx datasetOk qualityOk globalSync smpCnt per256, s => execSvSampleRx_leads datasetOk qualityOk globalSync smpCnt per256 s
  | .mgmtOpen authOk, s => execMgmtOpen_leads authOk s
  | .mgmtClose, s => execMgmtClose_leads s
  | .svcLinkChange up, s => execSvcLinkChange_leads up s
  | .wakeFrameRx etype w0 w1, s => execWakeFrameRx_leads etype w0 w1 s
  | .dramUe addr user, s => execDramUe_leads addr user s
  | .dramCeHigh count, s => execDramCeHigh_leads count s
  | .dramPatrolLap minutes, s => execDramPatrolLap_leads minutes s
  | .scrubLap hours reads, s => execScrubLap_leads hours reads s
  | .bootSlotVerify ok0 ok1 ok2, s => execBootSlotVerify_leads ok0 ok1 ok2 s
  | .counterFlush, s => execCounterFlush_leads s
  | .logRecord code sev source body, s => execLogRecord_leads code sev source body s
  | .recorderFlush, s => execRecorderFlush_leads s
  | .nvsRead w reads, s => execNvsRead_leads w reads s
  | .nvsWrite w, s => execNvsWrite_leads w s
  | .nvsErase w, s => execNvsErase_leads w s
  | .nvsCounters w, s => execNvsCounters_leads w s
  | .logWrite w, s => execLogWrite_leads w s
  | .logExport w, s => execLogExport_leads w s
  | .logClear w, s => execLogClear_leads w s
  | .secAttest w, s => execSecAttest_leads w s
  | .secVerify w, s => execSecVerify_leads w s
  | .secOwner w, s => execSecOwner_leads w s
  | .updPrepare w trial, s => execUpdPrepare_leads w trial s
  | .updActivate w, s => execUpdActivate_leads w s
  | .updActivateDue, s => execUpdActivateDue_leads s
  | .updConfirm w, s => execUpdConfirm_leads w s
  | .updAutoConfirm, s => execUpdAutoConfirm_leads s
  | .updAbandon w, s => execUpdAbandon_leads w s
  | .updConfirmExpiry, s => execUpdConfirmExpiry_leads s
  | .bootStart ok0 ok1 ok2, s => execBootStart_leads ok0 ok1 ok2 s
  | .bootStageVerified stage digest s3 rebuilt flushMarker lost, s => execBootStageVerified_leads stage digest s3 rebuilt flushMarker lost s
  | .bootWatchdog, s => execBootWatchdog_leads s
  | .peerWaitExpiry, s => execPeerWaitExpiry_leads s
  | .restartReset cause, s => execRestartReset_leads cause s
  | .sysRestart q v, s => execSysRestart_leads q v s
  | .sysEnterService q v, s => execSysEnterService_leads q v s
  | .safeHoldExitWarm q v, s => execSafeHoldExitWarm_leads q v s
  | .safeHoldExitCold q v, s => execSafeHoldExitCold_leads q v s
  | .plantStartColdSet q v, s => execPlantStartColdSet_leads q v s
  | .plantStartColdClear q v, s => execPlantStartColdClear_leads q v s
  | .configStop q v, s => execConfigStop_leads q v s
  | .cocoonEnter w, s => execCocoonEnter_leads w s
  | .cocoonPlanTimeout, s => execCocoonPlanTimeout_leads s
  | .cocoonResume digestOk, s => execCocoonResume_leads digestOk s
  | .cocoonRequestTimeout, s => execCocoonRequestTimeout_leads s
  | .moduleOvertemp inlet, s => execModuleOvertemp_leads inlet s
  | .powerOnReset, s => execPowerOnReset_leads s
  | .partnerPresentChange present, s => execPartnerPresentChange_leads present s
  | .wbLaneUp l, s => execWbLaneUp_leads l s
  | .netPortUp port tenGig, s => execNetPortUp_leads port tenGig s
  | .hostLinkDown, s => execHostLinkDown_leads s
  | .workerReportRx r stream epoch seq, s => execWorkerReportRx_leads r stream epoch seq s
  | .hsrFrameRx port src dst id forUs multicast frame, s => execHsrFrameRx_leads port src dst id forUs multicast frame s
  | .aoSelfTestFail n, s => execAoSelfTestFail_leads n s
  | .faultFlashEnd, s => execFaultFlashEnd_leads s

/-- A step answers a state that evolves from the one before, but for the front command taken off the queue. -/
theorem step_evolves {s t : State} (h : step s = .next t) : ∃ rest, Evolves { s with pending := rest } t := by
  unfold step at h
  split at h
  · cases h
    exact ⟨s.pending, State.idleTick_evolves (Evolves.refl s)⟩
  · rename_i c rest _
    have hlead := exec_leads c { s with pending := rest }
    rw [h] at hlead
    exact ⟨rest, hlead⟩

/-- Settles O5: the front command leaves the queue without touching the fence, and what it then does keeps the fence's rule. -/
theorem stepKeepsFenceRule : Obligations.StepKeepsFenceRule := by
  unfold Obligations.StepKeepsFenceRule
  intro s t hstep hrule
  obtain ⟨rest, hevolves⟩ := step_evolves hstep
  exact hevolves.fence ((State.fenceOk_congr (s := s) rfl).trans hrule)

end Sys2Proof.Machine
end

section
/-! SUPPORT. The journal at both members: entries received and acknowledged, the end of dual commit, and what is freed (05_pair_operation.md,
R197, R236, R237, R240, R241). -/

namespace Sys2Proof.Machine

/-! Entries received. -/

/-- Outside a hand-over no READY is owed. -/
theorem replyReady_idle {s : State} (hidle : s.wb.ho = .idle) : s.replyReady = s := if_neg fun h => by simp [hidle] at h

/-- A follower's answer to a message of the journal: it writes the entries in their order and acknowledges its last JSN (R236). -/
def State.ackEntries (s : State) (l : List JEntry) : State :=
  let t := l.foldl State.writeEntry s
  (t.sendWb (.journalAck t.wb.gen t.wb.jsn)).replyReady

theorem exec_journalRx {s : State} (hup : s.wbUp = true) (hfollows : s.follows = true) (q : Nat) (solo : Bool) (l : List JEntry) :
    exec (.journalRx true q s.wb.gen solo l) s = .next (
      if solo = true ∧ ((s.checkSeq 6 q).ackEntries l).sys.mode = .standby then
        ((s.checkSeq 6 q).ackEntries l).enterSync (recCodeOf .journalStall)
      else (s.checkSeq 6 q).ackEntries l) := by
  show execJournalRx true q s.wb.gen solo l s = _
  unfold execJournalRx
  rw [fromPartner_present hup, if_neg (by simp [hfollows])]
  rfl

/-- Outside a hand-over a written entry is followed by its acknowledgement alone. -/
theorem ackEntries_one {s t : State} {e : JEntry} (hwrite : s.writeEntry e = t) (hup : t.wbUp = true) (hidle : t.wb.ho = .idle) :
    s.ackEntries [e] = { t with out := t.out ++ [wbOut t (.journalAck t.wb.gen t.wb.jsn)] } := by
  unfold State.ackEntries
  simp only [List.foldl_cons, List.foldl_nil, hwrite]
  rw [replyReady_idle (by rw [(sendWb_facts _ _).1]; exact hidle), sendWb_up hup]
  rfl

/-- The MSG_SEQ of a message that follows on is noted before its entries are written (R197). -/
def State.seqNoted (s : State) (q : Nat) : State := { s with wb := { s.wb with rxSeq := assocSet s.wb.rxSeq 6 ((q + 1) % 2 ^ 32) } }

theorem exec_journalRx_one {s t : State} {q : Nat} {e : JEntry} (hup : s.wbUp = true) (hfollows : s.follows = true)
    (hlast : assocGet s.wb.rxSeq 6 = some q) (hwrite : (s.seqNoted q).writeEntry e = t) (hup' : t.wbUp = true) (hidle : t.wb.ho = .idle) :
    exec (.journalRx true ((q + 1) % 2 ^ 32) s.wb.gen false [e]) s =
      .next { t with out := t.out ++ [wbOut t (.journalAck t.wb.gen t.wb.jsn)] } := by
  rw [exec_journalRx hup hfollows, checkSeq_next hlast, if_neg (by simp)]
  exact congrArg Host.Outcome.next (ackEntries_one hwrite hup' hidle)

theorem checkSeq_frame (s : State) (type q : Nat) : (s.checkSeq type q).sys = s.sys := by
  unfold State.checkSeq
  split
  · rfl
  · dsimp only
    split
    · rfl
    · exact foldl_view (fun s k => s.sendWb _) State.sys (fun u _ => (sendWb_facts u _).2.1) _ s

theorem replyReady_sys (s : State) : s.replyReady.sys = s.sys := by
  unfold State.replyReady
  split
  · rw [(sendWb_facts _ _).2.1]
  · rfl

/-- The SOLO flag of a message without entries leads a standby to SYNC (R240). -/
theorem exec_journalRx_solo {s : State} (hup : s.wbUp = true) (hfree : s.holds = false) (hmode : s.sys.mode = .standby) (q : Nat) :
    ∃ u : State, exec (.journalRx true q s.wb.gen true []) s = .next (u.enterSync (recCodeOf .journalStall)) ∧ u.sys.mode = .standby := by
  have hthere : ((s.checkSeq 6 q).ackEntries []).sys.mode = .standby := by
    unfold State.ackEntries
    rw [List.foldl_nil, replyReady_sys, (sendWb_facts _ _).2.1, checkSeq_frame, hmode]
  rw [exec_journalRx hup (by simp [State.follows, hfree, hmode]), if_pos ⟨rfl, hthere⟩]
  exact ⟨_, rfl, hthere⟩

/-! Entries acknowledged. -/

/-- The holder with what an acknowledgement commits (R237). -/
def State.committedTo (s : State) (j : Nat) : State := { s with wb := { s.wb with jsnAck := max s.wb.jsnAck (min j s.wb.jsn) } }

theorem exec_journalAckRx {s : State} (hup : s.wbUp = true) (hholds : s.holds = true) (hdual : s.wb.dual = true) (j : Nat) :
    exec (.journalAckRx true s.wb.gen j) s = .next ((s.committedTo j).sendCommitted s.wb.jsnAck).acceptReady := by
  show execJournalAckRx true s.wb.gen j s = _
  unfold execJournalAckRx
  rw [fromPartner_present hup, if_neg (by simp [hholds])]
  dsimp only
  rw [if_pos hdual]
  rfl

theorem acceptReady_acts {s : State} (hholds : s.holds = true) (hpf : s.pwr.pf = .idle) (hmode : s.sys.mode = .active ∨ s.sys.mode = .solo) :
    s.acceptReady = s.acceptAll s.hq.ops := if_pos ⟨hholds, hpf, hmode⟩

/-- What waits after the committed operations have gone on: one that is committed waits for a completion slot; with tags that name one
operation each every committed one waits or is accepted work, and one that is not committed waits (R168, R237). -/
theorem acceptAll_ops (s : State) :
    (∀ o ∈ (s.acceptAll s.hq.ops).hq.ops, o ∈ s.hq.ops ∧
      ∀ k, o.jsn = some k → s.committed k = true → (s.acceptAll s.hq.ops).cqFree o.ring = 0) ∧
    ((∀ o ∈ s.hq.ops, ∀ p ∈ s.hq.ops, o.tag = p.tag → o = p) → ∀ o ∈ s.hq.ops, ∀ k, o.jsn = some k →
      o ∈ (s.acceptAll s.hq.ops).hq.ops ∨ ∃ w ∈ (s.acceptAll s.hq.ops).hq.work, w.jsn = some k ∧ w.bytes = o.bytes ∧ w.ring = o.ring) ∧
    ∀ o ∈ s.hq.ops, (∀ p ∈ s.hq.ops, ∀ k, p.jsn = some k → s.committed k = true → p.tag ≠ o.tag) → o ∈ (s.acceptAll s.hq.ops).hq.ops := by
  have hstays := acceptAll_stays s.hq.ops s
  refine ⟨fun o ho => ?_, fun hone o ho k hk => ?_, fun o ho hfree => ?_⟩
  · obtain ⟨hwas, hwaits⟩ := (acceptAll_done s.hq.ops s).1 o ho
    exact ⟨hwas, fun k hk hcommitted => (hwaits hwas k hk).resolve_left (by simp [hcommitted])⟩
  · refine (hstays o ho).imp_right ?_
    rintro ⟨p, hp, htag, -, -, -, hwork⟩
    obtain rfl := hone p hp o ho htag
    exact ⟨_, hwork, hk, rfl, rfl⟩
  · refine (hstays o ho).resolve_right ?_
    rintro ⟨p, hp, htag, k, hk, hcommitted, -⟩
    exact hfree p hp k hk hcommitted htag

/-! The end of dual commit. -/

theorem dropFallback_mode (s : State) : s.dropFallback.sys.mode = s.sys.mode := by
  unfold State.dropFallback
  split <;> rfl

theorem dropExtraction_mode (s : State) : s.dropExtraction.sys.mode = s.sys.mode := by
  have hrefused := (State.refuseExtract_sys s.dropFallback).1.trans (dropFallback_mode s)
  unfold State.dropExtraction
  dsimp only
  split
  · split <;> exact hrefused
  · exact dropFallback_mode s

theorem dropPlanned_mode (s : State) : s.dropPlanned.sys.mode = s.sys.mode := by
  unfold State.dropPlanned
  split
  · exact dropExtraction_mode _
  · rfl

theorem dropPlanned_wb (s : State) : ∃ ho drill times, s.dropPlanned.wb = { s.wb with ho := ho, drill := drill, drillTimes := times } := by
  unfold State.dropPlanned
  split
  · exact ⟨.idle, .idle, [], by simp only [State.dropExtraction_frame]⟩
  · exact ⟨_, _, _, rfl⟩

/-- The holder out of dual commit, with its stall recorded and the frames sent whose INTENT waited (R240). -/
def State.stalled (s : State) : State :=
  let r := s.record .journalStall [s.wb.jsnAck, s.wb.jsn]
  let t := ({ r with wb := { r.wb with jsnAck := r.wb.jsn } } : State).sendCommitted r.wb.jsnAck
  { t with wb := { t.wb with dual := false, jsnAck := r.wb.jsnAck } }

theorem stalled_facts (s : State) : s.stalled.sys.mode = s.sys.mode ∧ s.stalled.wb = { s.wb with dual := false } := by
  unfold State.stalled
  simp only [State.sendCommitted_frame, State.record_frame]
  exact ⟨(Reports.record _ _ _).mode, trivial⟩

theorem exec_journalStall {s : State} (hholds : s.holds = true) (hdual : s.wb.dual = true) (hbehind : s.wb.jsnAck < s.wb.jsn)
    (hmode : s.sys.mode = .active) :
    exec .journalStall s = .next ((s.stalled.setMode .solo (recCodeOf .journalStall)).dropPlanned.acceptReady) := by
  refine congrArg Host.Outcome.next ((if_neg (by simp [hholds, hdual]; omega)).trans ?_)
  show (if s.stalled.sys.mode = .active then (s.stalled.setMode .solo (recCodeOf .journalStall)).dropPlanned else s.stalled).acceptReady = _
  rw [if_pos ((stalled_facts s).1.trans hmode)]

/-! What is freed. -/

/-- The last entry of a journal to which a CHECKPOINT is added, with no other pair served, is that CHECKPOINT (R241). -/
theorem checkpoint_facts {s : State} {im : ProgImage} (himage : s.prg.image = some im) (hserved : s.wb.served = []) :
    s.checkpoint.wb.jsn = s.wb.jsn + 1 ∧
    s.checkpoint.wb.journal.getLast? = some ⟨s.wb.jsn + 1, s.sendGen, .checkpoint s.prg.cycle im.digest s.retainedImage⟩ ∧
    s.checkpoint.prg = s.prg ∧ s.checkpoint.hq = s.hq := by
  have hwb := journalAdd_wb s (.checkpoint s.prg.cycle im.digest s.retainedImage)
  have heq : s.checkpoint = (s.journalAdd (.checkpoint s.prg.cycle im.digest s.retainedImage)).freeJournal := by
    unfold State.checkpoint
    rw [himage]
    dsimp only
    rw [hwb]
    dsimp only
    rw [hserved, List.foldl_nil]
  rw [heq, freeJournal_jsn, freeJournal_last (by rw [hwb]; exact List.getLast?_concat), hwb]
  simp only [State.freeJournal_frame, State.journalAdd_frame, and_self]

/-- Settles O32: entries by `writeEntry_step`, what an acknowledgement accepts by `acceptAll_ops`, the end of dual commit by what it keeps. -/
theorem journalIsReplicatedInOrder : Obligations.JournalIsReplicatedInOrder := by
  unfold Obligations.JournalIsReplicatedInOrder
  refine ⟨?entry, ?solo, ?acked, ?stall, fun s b hfree => ?_, fun s b hfull hbytes hunwritten => ?_, ?checkpoint⟩
  case entry =>
    intro s q e ring id k hup hfollows hlast hidle hbody hgen hnew hearly
    have hwrite := writeEntry_step (s := s.seqNoted q) hbody hgen hearly hnew
    refine ⟨fun hnext => ?_, fun hahead => ?_, fun hstands => ?_⟩
    · rw [if_pos (by exact hnext)] at hwrite
      exact exec_journalRx_one hup hfollows hlast hwrite hup hidle
    · have hkept : newest 4096 [e] = [e] := by simp [newest]
      rw [if_neg (by show ¬ e.jsn = s.wb.jsn + 1; omega), if_pos (by show s.wb.jsn < e.jsn; omega)] at hwrite
      rw [hkept]
      exact exec_journalRx_one hup hfollows hlast hwrite hup hidle
    · rw [if_neg (by show ¬ e.jsn = s.wb.jsn + 1; omega), if_neg (by show ¬ s.wb.jsn < e.jsn; omega)] at hwrite
      exact exec_journalRx_one hup hfollows hlast hwrite hup hidle
  case solo =>
    intro s q hup hfree hmode
    obtain ⟨u, hexec, hthere⟩ := exec_journalRx_solo hup hfree hmode q
    obtain ⟨hsync, hstep, -, hfence, -⟩ := enterSync_facts (s := u) (by simp [hthere]) (recCodeOf .journalStall)
    exact ⟨_, hexec, hsync, hstep, hfence⟩
  case acked =>
    rintro s j a hup hholds hpf hmode hdual rfl
    rw [exec_journalAckRx hup hholds hdual]
    obtain ⟨hsys, hpwr, -, -, hhq, -, hwb, -⟩ := State.sendCommitted_frame (s.committedTo j) s.wb.jsnAck
    generalize (s.committedTo j).sendCommitted s.wb.jsnAck = v at hsys hpwr hhq hwb
    have hholds' : v.holds = true := by rw [State.holds, hwb]; exact hholds
    have hcommitted : ∀ k, v.committed k = true ↔ k ≤ max s.wb.jsnAck (min j s.wb.jsn) := fun k => by
      rw [State.committed, hwb]
      simp [State.committedTo, hdual]
    have hops : v.hq.ops = s.hq.ops := congrArg HqSt.ops hhq
    have haccepts : v.acceptReady = v.acceptAll s.hq.ops :=
      hops ▸ acceptReady_acts hholds' (by rw [hpwr]; exact hpf) (.inl (by rw [hsys]; exact hmode))
    obtain ⟨hwaits, hgoes, hstays⟩ := acceptAll_ops v
    simp only [hcommitted, hops] at hwaits hgoes hstays
    have hafter : v.acceptReady.wb = v.wb := by simp only [State.acceptReady_frame]
    refine ⟨_, congrArg Host.Outcome.next haccepts, ?_, hwaits, fun hone o ho k hk _ => hgoes hone o ho k hk, hstays⟩
    rw [← haccepts, hafter, hwb]
    rfl
  case stall =>
    intro s hholds hdual hbehind hmode
    obtain ⟨hthere, hkept⟩ := stalled_facts s
    obtain ⟨low, hsolo⟩ : ∃ low, (s.stalled.setMode .solo (recCodeOf .journalStall)).wb = { s.stalled.wb with fenced := low } :=
      ⟨_, setMode_keeps s.stalled .solo (by decide) (by decide) _⟩
    obtain ⟨ho, drill, times, hdropped⟩ := dropPlanned_wb (s.stalled.setMode .solo (recCodeOf .journalStall))
    rw [exec_journalStall hholds hdual hbehind hmode]
    refine ⟨_, rfl, ?_⟩
    simp only [State.acceptReady_frame, hdropped, hsolo, hkept, and_self, and_true]
    rw [dropPlanned_mode, State.setMode_mode]
  case checkpoint =>
    intro s im hholds himage hserved
    exact ⟨_, congrArg Host.Outcome.next (if_pos hholds), checkpoint_facts himage hserved⟩
  · exact congrArg Host.Outcome.next (if_neg fun h => by simp [hfree] at h)
  · have hexec : exec (.journalStreamWrite b) s = .next
        (({ s with wb := { s.wb with unwritten := s.wb.unwritten - b, journalFull := false } } : State).record .journalFullEnd) := congrArg Host.Outcome.next (if_pos ⟨hfull, hbytes, hunwritten⟩)
    exact ⟨_, hexec, (Says.refl _).record .journalFullEnd []⟩

end Sys2Proof.Machine
end

section
/-! SUPPORT. ORDERED streams: frames numbered and journalled, their acknowledgements, and what is sent again (05_pair_operation.md, R204, R207,
R209, R210, R238). -/

namespace Sys2Proof.Machine

theorem streamOf_id {s : State} {id : Nat} {st : Stream} (h : s.streamOf id = some st) : st.id = id := by
  simpa using List.find?_some h

/-! Without the lease, or without the stream. -/

theorem exec_stream_idle {s : State} {id : Nat} (hidle : s.authoritative = false ∨ s.streamOf id = none) (p : List Byte) (e q r : Nat) :
    exec (.orderedSend id p) s = .next s ∧ exec (.streamAckRx id e q r) s = .next s ∧ exec (.ordAckTimeout id) s = .next s ∧
    exec (.ordAckJournal id) s = .next s := by
  show execOrderedSend id p s = _ ∧ execStreamAckRx id e q r s = _ ∧ execOrdAckTimeout id s = _ ∧ execOrdAckJournal id s = _
  unfold execOrderedSend execStreamAckRx execOrdAckTimeout execOrdAckJournal
  cases hauth : s.authoritative
  · simp
  · simp [hidle.resolve_left (by simp [hauth])]

/-! Sending. -/

theorem exec_orderedSend {s : State} {id : Nat} {st : Stream} (hauth : s.authoritative = true) (hst : s.streamOf id = some st) (p : List Byte) :
    exec (.orderedSend id p) s = .next (if st.unacked.length < 64 ∧ st.waiting = [] then s.intend id p
      else s.setStream id fun t => { t with waiting := t.waiting ++ [p] }) := by
  show execOrderedSend id p s = _
  unfold execOrderedSend
  rw [if_neg (by simp [hauth]), hst]

/-! Acknowledgements. -/

/-- The frames of a stream that an ACK of SEQ `q` leaves unacknowledged (R207). -/
def unackedAfter (st : Stream) (q : Nat) : List (Nat × Nat × List Byte) :=
  st.unacked.filter fun f => decide (0 < signedOf 32 (unsignedOf 32 (Int.ofNat f.1 - Int.ofNat q)))

/-- The state in which a stream has taken an ACK. -/
def State.ackTaken (s : State) (id q : Nat) (st : Stream) : State :=
  s.setStream id fun t => { t with unacked := unackedAfter st q, ackH := max t.ackH q }

/-- That state with the frames left sent again where the ACK asks for it (R209). -/
def State.ackAnswered (s : State) (id q r : Nat) (st : Stream) : State :=
  if r = 2 then (s.ackTaken id q st).sendAllOrdered st true (s.committedOf (unackedAfter st q)) else s.ackTaken id q st

theorem exec_streamAckRx_other {s : State} {id e : Nat} {st : Stream} (hst : s.streamOf id = some st) (hother : e ≠ st.epoch) (q r : Nat) :
    exec (.streamAckRx id e q r) s = .next s := by
  show execStreamAckRx id e q r s = _
  unfold execStreamAckRx
  rw [hst]
  simp [hother]

theorem exec_streamAckRx {s : State} {id : Nat} {st : Stream} (hauth : s.authoritative = true) (hst : s.streamOf id = some st) (q r : Nat) :
    exec (.streamAckRx id st.epoch q r) s =
      .next (if r = 3 then s.startResend st else (s.ackAnswered id q r st).fillStream id st.waiting.length) := by
  show execStreamAckRx id st.epoch q r s = _
  unfold execStreamAckRx
  rw [if_neg (by simp [hauth]), hst]
  dsimp only
  rw [if_neg (by simp)]
  rfl

/-- Sending again changes no stream, no operation and no register. -/
theorem ackAnswered_facts {s : State} {id : Nat} {st : Stream} (hst : s.streamOf id = some st) (q r : Nat) :
    (s.ackAnswered id q r st).streamOf id = some { st with unacked := unackedAfter st q, ackH := max st.ackH q } ∧
    (s.ackAnswered id q r st).wb.jsn = s.wb.jsn ∧ (s.ackAnswered id q r st).hq = s.hq ∧ (s.ackAnswered id q r st).regs = s.regs := by
  have htaken : (s.ackTaken id q st).streamOf id = _ := setStream_streamOf hst _ fun _ h => h
  unfold State.ackAnswered
  split
  · simp only [State.streamOf, State.sendAllOrdered_frame]
    exact ⟨htaken, rfl, rfl, rfl⟩
  · exact ⟨htaken, rfl, rfl, rfl⟩

/-- REASON 3: the oldest frame goes again with START and the rest behind it (R209). -/
theorem startResend_eq {s : State} {st : Stream} {f : Nat × Nat × List Byte} {fs : List (Nat × Nat × List Byte)}
    (hfirst : s.committedOf st.unacked = f :: fs) :
    s.startResend st = { s with
      out := s.out ++ .net (s.streamNet st.id) 6 (.stream 1 st.id st.epoch f.1 true true f.2.2) :: fs.map fun g =>
        .net (s.streamNet st.id) 6 (.stream 1 st.id st.epoch g.1 true false g.2.2) } := by
  unfold State.startResend
  rw [hfirst]
  dsimp only
  rw [sendAllOrdered_eq]
  simp only [State.sendOrdered, State.emit, State.streamNet, List.append_assoc, List.cons_append, List.nil_append]

theorem exec_ordAckTimeout {s : State} {id : Nat} {st : Stream} (hauth : s.authoritative = true) (hst : s.streamOf id = some st) :
    exec (.ordAckTimeout id) s = .next (s.sendAllOrdered st true (s.committedOf st.unacked)) := by
  show execOrdAckTimeout id s = _
  unfold execOrdAckTimeout
  rw [if_neg (by simp [hauth]), hst]

/-! Acknowledged numbers in the journal. -/

theorem exec_ordAckJournal_new {s : State} {id : Nat} {st : Stream} (hauth : s.authoritative = true) (hst : s.streamOf id = some st)
    (hnew : st.journalledH < st.ackH) : exec (.ordAckJournal id) s =
      .next ((s.journalAdd (.ordAck id st.epoch st.ackH)).setStream id fun t => { t with journalledH := st.ackH }) := by
  show execOrdAckJournal id s = _
  unfold execOrdAckJournal
  rw [if_neg (by simp [hauth]), hst]
  exact congrArg Host.Outcome.next (if_pos hnew)

theorem exec_ordAckJournal_known {s : State} {id : Nat} {st : Stream} (hst : s.streamOf id = some st) (hknown : st.ackH ≤ st.journalledH) :
    exec (.ordAckJournal id) s = .next s := by
  show execOrdAckJournal id s = _
  unfold execOrdAckJournal
  rw [hst]
  simp [Nat.not_lt.2 hknown]

/-- Settles O33: a frame by `intend_facts`, an ACK by what it leaves and what waits by `fillStream_facts`, the rest by what is sent again. -/
theorem orderedStreamsAreSequenced : Obligations.OrderedStreamsAreSequenced := by
  unfold Obligations.OrderedStreamsAreSequenced
  refine ⟨?send, ?waits, fun s id e q r st hst hother => exec_streamAckRx_other hst hother q r, ?ack, ?start, ?timeout, ?journal,
    fun s id st hst hknown => exec_ordAckJournal_known hst hknown, fun s id e q r p hidle => exec_stream_idle hidle p e q r⟩
  case send =>
    intro s id st p hauth hst hroom hnone
    obtain ⟨hjsn, hjournal, hstream, hothers, hhq, hregs, l, hquiet, hout⟩ := intend_facts hst p
    rw [exec_orderedSend hauth hst, if_pos ⟨hroom, hnone⟩]
    refine ⟨_, rfl, hjsn, hjournal, hstream, hothers, hhq, hregs, fun hsolo => ?_, fun hdual hacked n pr f hsent => ?_⟩
    · rw [hout, if_pos (by simp [hsolo]), streamOf_id hst, List.getLast?_concat]
    · rw [hout, hdual, if_pos rfl, if_neg (by omega), List.append_nil, List.mem_append] at hsent
      exact hsent.resolve_right (hquiet n pr f)
  case waits =>
    intro s id st p hauth hst hfull
    rw [exec_orderedSend hauth hst, if_neg (by rintro ⟨hroom, hnone⟩; exact hfull.elim (fun h => by omega) fun h => h hnone)]
    rfl
  case ack =>
    rintro s id q r st u hauth hst hr rfl
    rw [exec_streamAckRx hauth hst, if_neg hr]
    refine ⟨fun hno hnone => ?_, fun hagain hnone => ?_, ?_⟩
    · rw [hnone, State.ackAnswered, if_neg hno]
      rfl
    · rw [hnone, State.ackAnswered, if_pos hagain, sendAllOrdered_eq]
      rfl
    · obtain ⟨hstream, hjsn, hhq, hregs⟩ := ackAnswered_facts hst q r
      obtain ⟨x, k, hfilled, hackH, hwaiting, hcount, hhq', hregs', hroom⟩ := fillStream_facts id st.waiting.length _ _ hstream
      refine ⟨_, rfl, hhq'.trans hhq, hregs'.trans hregs, fun y hy => ?_⟩
      obtain rfl : x = y := Option.some.inj (hfilled.symm.trans hy)
      exact ⟨hackH, hroom (Nat.le_refl _), k, hwaiting, by rw [hcount, hjsn]⟩
  case start =>
    intro s id q st f fs hauth hst hfirst
    rw [exec_streamAckRx hauth hst, if_pos rfl, startResend_eq hfirst]
  case timeout =>
    intro s id st hauth hst
    rw [exec_ordAckTimeout hauth hst, sendAllOrdered_eq]
  case journal =>
    intro s id st hauth hst hnew
    obtain ⟨hjsn, hjournal, -, -⟩ := journalAdd_facts s (.ordAck id st.epoch st.ackH)
    have hadded : (s.journalAdd (.ordAck id st.epoch st.ackH)).streamOf id = some st := by
      rw [State.streamOf, journalAdd_wb]
      exact hst
    have hstream := setStream_streamOf hadded (fun t => { t with journalledH := st.ackH }) fun _ h => h
    exact ⟨_, exec_ordAckJournal_new hauth hst hnew, hjsn, hjournal, hstream, exec_ordAckJournal_known hstream (Nat.le_refl _)⟩

end Sys2Proof.Machine
end

section
/-! SUPPORT. The lease's clock at the holder, consent, and the fence's watchdog (05_pair_operation.md, R213 to R216, R220, R221, R229 to
R231). -/

namespace Sys2Proof.Machine

/-! Asking the referee. -/

theorem sendRef_asks (s : State) (type : RefType) : Asks s type (s.sendRef type) := ⟨_, rfl, rfl, rfl, rfl, rfl, rfl, rfl, rfl⟩

/-- REQUEST from a module whose lease state stands: it is sent, and nothing else changes (R219, R225, R229). -/
theorem request_asks {s : State} (hmay : s.mayRequest = true) (hprobed : s.wb.probed = true) (hfree : s.promised = false)
    (hlease : s.wb.lease ≠ .none) : Asks s .request s.request := by
  have hsent : s.request = s.sendRef .request := (if_neg (by simp [hmay, hprobed, hfree])).trans (if_neg hlease)
  rw [hsent]
  exact sendRef_asks s .request

/-! RENEW_TX. -/

theorem exec_renewTx_held {s : State} (hheld : s.wb.lease = .held) : exec .renewTx s = .next (s.sendRef .renew) := by
  show execRenewTx s = _
  unfold execRenewTx
  rw [hheld]

theorem exec_renewTx_consent {s : State} (hconsent : s.wb.lease = .consent) :
    exec .renewTx s = .next (if s.wb.refReach = true then s.request else s.askConsent) := by
  show execRenewTx s = _
  unfold execRenewTx
  rw [hconsent]

/-- Consent is asked for where CONSENT_EN allows it; from a partner that counts as giving it, it runs from now (R229, R230). -/
theorem askConsent_eq {s : State} (hallowed : s.bit .wbLeaseCfg 18 = true) : s.askConsent =
    if s.impliedConsent = true then { s with wb := { s.wb with consentEnd := some (s.tb.csr + usTicks s.term) } }
    else s.sendWb (.consent 0 s.term) := if_neg (by simp [hallowed])

/-! LEASE_EXPIRY and CONSENT_LAPSE. -/

theorem exec_leaseExpiry_early {s : State} (hearly : s.tb.csr < s.wb.expiry) : exec .leaseExpiry s = .next s :=
  congrArg Host.Outcome.next (if_pos (.inr hearly))

theorem exec_leaseExpiry {s : State} (hheld : s.wb.lease = .held) (hdue : s.wb.expiry ≤ s.tb.csr) : exec .leaseExpiry s =
    .next (match s.wb.consentEnd with
      | some e => if s.tb.csr < e then { s with wb := { s.wb with lease := .consent, expiry := e } } else s.loseLease
      | none => s.loseLease) :=
  congrArg Host.Outcome.next (if_neg (by simp [hheld, hdue]))

/-- In LOST nothing authoritative is done (R215). -/
theorem not_authoritative_lost {s : State} (hlost : s.wb.lease = .lost) : s.authoritative = false := by
  simp [State.authoritative, State.rightful, State.holds, hlost]

theorem exec_consentLapse {s : State} {e : Nat} (hconsent : s.wb.lease = .consent) (hend : s.wb.consentEnd = some e) :
    exec .consentLapse s = .next (if e ≤ s.tb.csr then s.loseLease else s) := by
  show execConsentLapse s = _
  unfold execConsentLapse
  rw [hconsent, hend]
  simp

/-! Messages of consent. -/

theorem exec_consentAskRx {s : State} (hup : s.wbUp = true) (term : Nat) : exec (.consentAskRx true s.wb.gen term) s = .next (
    if (s.sys.mode = .standby ∨ s.sys.mode = .update) ∧ s.wb.refReach = false ∧ s.bit .wbLeaseCfg 18 = true then
      { s with wb := { s.wb with gaveConsent := some (s.tb.csr + usTicks term) }, out := s.out ++ [wbOut s (.consent 1 term)] }
    else { s with out := s.out ++ [wbOut s (.consent 2 0)] }) := by
  show execConsentAskRx true s.wb.gen term s = _
  unfold execConsentAskRx
  rw [fromPartner_present hup]
  refine congrArg Host.Outcome.next (if_congr Iff.rfl ?_ (sendWb_up hup _))
  exact sendWb_up (s := { s with wb := { s.wb with gaveConsent := some (s.tb.csr + usTicks term) } }) hup _

theorem exec_consentGiveRx {s : State} (hup : s.wbUp = true) (term : Nat) : exec (.consentGiveRx true s.wb.gen term) s = .next (
    if s.bit .wbLeaseCfg 18 = true ∧ s.holds = true then
      { s with wb := { s.wb with consentEnd := some (s.tb.csr + usTicks term),
                                 expiry := if s.wb.lease = .consent then s.tb.csr + usTicks term else s.wb.expiry } }
    else s) := by
  show execConsentGiveRx true s.wb.gen term s = _
  unfold execConsentGiveRx
  rw [fromPartner_present hup]

theorem exec_consentRefuseRx {s : State} (hup : s.wbUp = true) (hheld : s.wb.lease = .held) :
    exec (.consentRefuseRx true s.wb.gen) s = .next { s with wb := { s.wb with consentEnd := none } } := by
  show execConsentRefuseRx true s.wb.gen s = _
  unfold execConsentRefuseRx
  rw [fromPartner_present hup, if_pos hheld]

/-! The fence's watchdog. -/

theorem exec_leaseWdWrite {s : State} {q : Requester} (hq : q ≠ .debug) (v : Word) :
    exec (.leaseWdWrite q v) s = .next
      (if v = 0x5AFE#32 ∧ s.pwr.pf = .idle then { s with wb := { s.wb with wdAlive := true } }.refence else s) := by
  show execLeaseWdWrite q v s = _
  unfold execLeaseWdWrite
  rw [barred_core hq (by decide)]
  rfl

/-- Settles O35: each command by its own rule; the way to LOST by `loseLease_says`. -/
theorem leaseClockFenceAndConsent : Obligations.LeaseClockFenceAndConsent := by
  unfold Obligations.LeaseClockFenceAndConsent
  refine ⟨?renew, ?requests, ?asks, ?barred, fun s hearly => exec_leaseExpiry_early hearly, ?consent, ?lost, ?lapse, ?ask, ?give, ?refuse,
    ?alive, ?other, ?fence⟩
  case renew => exact fun s hheld => ⟨_, exec_renewTx_held hheld, sendRef_asks s .renew⟩
  case requests =>
    intro s hconsent hreach hprobed hfree hmode
    rw [exec_renewTx_consent hconsent, if_pos hreach]
    exact ⟨_, rfl, request_asks (by rw [State.mayRequest, hmode]) hprobed hfree (by simp [hconsent])⟩
  case asks =>
    intro s hconsent hreach hallowed
    rw [exec_renewTx_consent hconsent, if_neg (by simp [hreach]), askConsent_eq hallowed]
    exact ⟨fun himplied => congrArg Host.Outcome.next (if_pos himplied),
      fun hasks hup => congrArg Host.Outcome.next ((if_neg (by simp [hasks])).trans (sendWb_up hup _))⟩
  case barred =>
    intro s hconsent hreach hbarred
    rw [exec_renewTx_consent hconsent, if_neg (by simp [hreach])]
    exact congrArg Host.Outcome.next (if_pos hbarred)
  case consent =>
    intro s e hheld hdue hend hlater
    rw [exec_leaseExpiry hheld hdue, hend]
    exact congrArg Host.Outcome.next (if_pos hlater)
  case lost =>
    intro s hheld hdue hend hfree
    have hsays := loseLease_says hfree
    rw [exec_leaseExpiry hheld hdue, hend]
    exact ⟨_, rfl, not_authoritative_lost (by rw [hsays.toReports.wb]), hsays⟩
  case lapse =>
    intro s e hconsent hend
    rw [exec_consentLapse hconsent hend]
    exact ⟨fun hearly => congrArg Host.Outcome.next (if_neg (by omega)),
      fun hdue hfree => ⟨_, congrArg Host.Outcome.next (if_pos hdue), loseLease_says hfree⟩⟩
  case ask =>
    intro s term hup
    rw [exec_consentAskRx hup]
    refine ⟨fun hmode hreach hallowed => congrArg Host.Outcome.next (if_pos ⟨hmode, hreach, hallowed⟩),
      fun hrefused => congrArg Host.Outcome.next (if_neg ?_)⟩
    rintro ⟨hmode, hreach, hallowed⟩
    rcases hrefused with ⟨hstandby, hupdate⟩ | h | h
    · exact hmode.elim hstandby hupdate
    · simp [h] at hreach
    · simp [h] at hallowed
  case give =>
    intro s term hup
    rw [exec_consentGiveRx hup]
    refine ⟨fun hallowed hheld => ?_, fun hallowed hconsent => ?_, fun hbarred => congrArg Host.Outcome.next (if_neg (by simp [hbarred]))⟩
    · rw [if_pos ⟨hallowed, by simp [State.holds, hheld]⟩, if_neg (by simp [hheld])]
      rfl
    · rw [if_pos ⟨hallowed, by simp [State.holds, hconsent]⟩, if_pos hconsent]
      rfl
  case refuse => exact fun s hup hheld => exec_consentRefuseRx hup hheld
  case alive =>
    intro s q hq hpf
    rw [exec_leaseWdWrite hq, if_pos ⟨rfl, hpf⟩]
    simp only [State.refence, Bool.and_true]
    rfl
  case other => exact fun s q v hq hother => (exec_leaseWdWrite hq v).trans (congrArg Host.Outcome.next (if_neg fun h => hother h.1))
  case fence =>
    intro s
    show Host.Outcome.next (State.refence _) = _
    simp only [State.refence, Bool.and_false, Bool.not_false]

end Sys2Proof.Machine
end

section
/-! SUPPORT. The referee's replies and what comes without one: PROBE, REQUEST, GRANT, DENY and STATUS (05_pair_operation.md, R213, R214, R217 to
R219, R224, R225, R228). -/

namespace Sys2Proof.Machine

/-! Asking. -/

theorem exec_probeTx {s : State} (hspeaks : s.refSilent = false) (hfree : s.wb.outstanding = none) :
    exec .probeTx s = .next (s.sendRef .probe) := congrArg Host.Outcome.next (if_neg (by simp [hspeaks, hfree]))

theorem exec_probeTx_silent {s : State} (hsilent : s.refSilent = true) : exec .probeTx s = .next s :=
  congrArg Host.Outcome.next (if_pos (.inl hsilent))

theorem exec_requestRepeat_silent {s : State}
    (hmode : s.sys.mode = .inserted ∨ s.sys.mode = .quarantine ∨ s.sys.mode = .service ∨ s.sys.mode = .sync) :
    exec .requestRepeat s = .next s := by
  show execRequestRepeat s = _
  unfold execRequestRepeat
  rcases hmode with h | h | h | h <;> rw [h]

theorem exec_requestRepeat_starting {s : State} (hmode : s.sys.mode = .boot) (hstarting : s.sys.starting = true) :
    exec .requestRepeat s = .next s.request := by
  show execRequestRepeat s = _
  unfold execRequestRepeat
  rw [hmode]
  exact congrArg Host.Outcome.next (if_pos hstarting)

theorem exec_requestRepeat_standby {s : State} (hmode : s.sys.mode = .standby) (hmisses : 2 ≤ s.wb.missedHb) :
    exec .requestRepeat s = .next s.askTakeover := by
  show execRequestRepeat s = _
  unfold execRequestRepeat
  rw [hmode]
  exact congrArg Host.Outcome.next (if_pos (by simp [State.missesPartner, hmisses]))

/-- A standby that cannot reach the referee goes on asking in STANDBY (R228). -/
theorem askTakeover_unreached {s : State} (hmode : s.sys.mode = .standby) (hreach : s.wb.refReach = false) (hprobed : s.wb.probed = true)
    (hfree : s.promised = false) (hlease : s.wb.lease = .request) : Asks s .request s.askTakeover := by
  have hasks := request_asks (s := s) (by rw [State.mayRequest, hmode]) hprobed hfree (by simp [hlease])
  have hsame : s.askTakeover = s.request := by
    obtain ⟨m, -, -, -, -, -, -, -, heq⟩ := hasks
    unfold State.askTakeover
    dsimp only
    rw [if_neg (by rw [heq]; simp [hlease]), if_neg (by simp [hreach])]
  rwa [hsame]

/-! Replies. -/

/-- A reply that fails its check, or comes under another SEQ than that of the outstanding message, changes nothing (R213). -/
theorem exec_reply_other {s : State} {ok : Bool} {seq : Nat} (h : ok = false ∨ ∀ m, s.wb.outstanding = some m → m.seq ≠ seq)
    (gen term rs holder : Nat) : exec (.grantRx ok seq gen term) s = .next s ∧ exec (.denyRx ok seq rs holder gen) s = .next s ∧
    exec (.statusRx ok seq holder gen term) s = .next s := by
  show execGrantRx ok seq gen term s = _ ∧ execDenyRx ok seq rs holder gen s = _ ∧ execStatusRx ok seq holder gen term s = _
  unfold execGrantRx execDenyRx execStatusRx
  cases hout : s.wb.outstanding with
  | none => exact ⟨rfl, rfl, rfl⟩
  | some m =>
    have hfails : (!ok) = true ∨ m.seq ≠ seq := h.imp (by simp) fun hother => hother m hout
    exact ⟨congrArg Host.Outcome.next (if_pos (hfails.imp_right .inl)), congrArg Host.Outcome.next (if_pos hfails),
      congrArg Host.Outcome.next (if_pos hfails)⟩

theorem exec_statusRx_probe {s : State} {m : RefMsg} (hout : s.wb.outstanding = some m) (htype : m.type = .probe) (holder gen ep : Nat) :
    exec (.statusRx true m.seq holder gen ep) s = .next (
      if (s.refAnswered.noteHolder holder gen).wb.probed = true then s.refAnswered.noteHolder holder gen
      else { s.refAnswered.noteHolder holder gen with wb := { (s.refAnswered.noteHolder holder gen).wb with
        bootEpoch := (max (s.refAnswered.noteHolder holder gen).wb.bootEpoch ep + 1) % 65536, refSeq := 0, probed := true } }) := by
  show execStatusRx true m.seq holder gen ep s = _
  unfold execStatusRx
  rw [hout]
  dsimp only
  rw [if_neg (by simp), htype]

theorem exec_grantRx {s : State} {m : RefMsg} (hout : s.wb.outstanding = some m) (htype : m.type = .request ∨ m.type = .renew) (gen term : Nat) :
    exec (.grantRx true m.seq gen term) s = .next (if s.wb.lease = .held ∨ s.wb.lease = .consent then (s.refAnswered.setHeld gen).newGen gen
      else (((s.refAnswered.setHeld gen).newGen gen).gained.safeIfLost).afterSettle) := by
  show execGrantRx true m.seq gen term s = _
  unfold execGrantRx
  rw [hout]
  dsimp only
  rw [if_neg (by rcases htype with h | h <;> simp [h])]

theorem newGen_known {s : State} {g : Nat} (hknown : g ≤ s.wb.gen) : s.newGen g = s := if_neg (Nat.not_lt.2 hknown)

/-- At a holder the lease runs on from the instant at which its message was first sent, under the generation granted (R214, R217). -/
theorem setHeld_renewed {s : State} (hheld : s.wb.lease = .held) (g : Nat) :
    s.setHeld g = { s with wb := { s.wb with granted := g, expiry := expiryOf s.wb.lastSent s.term, holderB := s.pwr.slotB, holderValid := true,
                                             consentEnd := none, refGrants := (s.wb.refGrants + 1) % 65536 } } := by
  unfold State.setHeld
  dsimp only
  rw [if_pos hheld, ← hheld]

/-- A GRANT makes the module the holder under its generation, the highest one seen (R217). -/
theorem granted_view (s : State) (g : Nat) : ((s.refAnswered.setHeld g).newGen g).leaseView =
    (s.sys.mode, s.sys.restartPend, .held, max s.wb.gen g, s.wb.dual, s.wb.ho, s.pwr, g, s.sys.unitHealth) := by
  have hanswered := refAnswered_view s
  have hset := setHeld_view s.refAnswered g
  have hnew := newGen_view (s.refAnswered.setHeld g) g
  simp only [State.leaseView, Prod.mk.injEq] at hanswered hset
  obtain ⟨hmode, hpend, -, hgen, hdual, hidle, hpwr, -, hunits⟩ := hanswered
  obtain ⟨hmode', hpend', hheld, hgen', hdual', hidle', hpwr', hunder, hunits'⟩ := hset
  rw [hnew, hmode', hpend', hheld, hgen', hdual', hidle', hpwr', hunder, hunits', hmode, hpend, hgen, hdual, hidle, hpwr, hunits]

/-- A takeover: a module in HANDOVER that no planned hand-over brought there is the SOLO holder (R218). -/
theorem gained_takeover {s : State} (hmode : s.sys.mode = .handover) (hidle : s.wb.ho = .idle) : s.gained.leaseView =
    (.solo, s.sys.restartPend, s.wb.lease, s.wb.gen, false, .idle, s.pwr, s.wb.granted, s.sys.unitHealth) := by
  have hdrill : ∀ u : State, u.dropDrill.leaseView = u.leaseView := fun _ => rfl
  have hsolo := setMode_view { s with wb := { s.wb with dual := false } } .solo (by decide) (by decide) 0
  have htakes := takeDuties_leaseView (({ s with wb := { s.wb with dual := false } } : State).setMode .solo)
  have hends := endHandover_view (({ s with wb := { s.wb with dual := false } } : State).setMode .solo).takeDuties
  unfold State.gained
  rw [hmode]
  dsimp only
  rw [if_neg (by simp [hidle]), hdrill, hends]
  rw [hsolo] at htakes
  simp only [State.leaseView, Prod.mk.injEq] at htakes ⊢
  obtain ⟨h1, h2, h3, h4, h5, -, h7, h8, h9⟩ := htakes
  exact ⟨h1, h2, h3, h4, h5, trivial, h7, h8, h9⟩

theorem exec_denyRx_request {s : State} {m : RefMsg} (hout : s.wb.outstanding = some m) (htype : m.type = .request) (rs holder gen : Nat) :
    exec (.denyRx true m.seq rs holder gen) s = .next (State.requestDenied { s.refAnswered.noteHolder holder gen with
      wb := { (s.refAnswered.noteHolder holder gen).wb with refDenies := ((s.refAnswered.noteHolder holder gen).wb.refDenies + 1) % 65536 } }) := by
  show execDenyRx true m.seq rs holder gen s = _
  unfold execDenyRx
  rw [hout]
  dsimp only
  rw [if_neg (by simp), if_pos htype]

theorem refAnswered_denies (s : State) : s.refAnswered.wb.refDenies = s.wb.refDenies := by
  unfold State.refAnswered
  dsimp only
  split
  · rfl
  · rw [(Reports.raise _ 67).wb]

/-! No reply. -/

theorem exec_refereeReplyTimeout_again {s : State} {m : RefMsg} (hout : s.wb.outstanding = some m) (hfew : s.wb.sends < 3)
    (hmay : m.type ≠ .request ∨ s.mayRequest = true) : exec .refereeReplyTimeout s =
      .next { s with wb := { s.wb with sends := s.wb.sends + 1 }, out := s.out ++ [.referee s.refByNet m] } := by
  show execRefereeReplyTimeout s = _
  unfold execRefereeReplyTimeout
  rw [hout]
  dsimp only
  rw [if_neg (fun h => hmay.elim (fun hother => hother h.1) fun hyes => by simp [hyes] at h), if_pos hfew]
  rfl

/-- A REQUEST outstanding in a mode that sends none ends (R219). -/
theorem exec_refereeReplyTimeout_barred {s : State} {m : RefMsg} (hout : s.wb.outstanding = some m) (htype : m.type = .request)
    (hbarred : s.mayRequest = false) :
    exec .refereeReplyTimeout s = .next (State.requestDenied { s with wb := { s.wb with outstanding := none } }) := by
  show execRefereeReplyTimeout s = _
  unfold execRefereeReplyTimeout
  rw [hout]
  exact congrArg Host.Outcome.next (if_pos ⟨htype, hbarred⟩)

theorem requestDenied_idle {s : State} (hlease : s.wb.lease ≠ .request) (hmode : s.sys.mode ≠ .handover) : s.requestDenied = s := by
  unfold State.requestDenied
  rw [if_neg hlease]
  exact if_neg hmode

theorem exec_refereeReplyTimeout_probe {s : State} {m : RefMsg} (hout : s.wb.outstanding = some m) (hsent : 3 ≤ s.wb.sends)
    (htype : m.type = .probe) (hnew : s.wb.refLost = false) : exec .refereeReplyTimeout s =
      .next (({ s with wb := { s.wb with outstanding := none, refReach := false, refLost := true } }.record .refereeUnreachable [m.seq]).raise
        67) := by
  show execRefereeReplyTimeout s = _
  unfold execRefereeReplyTimeout
  rw [hout]
  dsimp only
  rw [if_neg (by simp [htype]), if_neg (by omega), if_neg (by simp [hnew]), htype]

/-- Settles O34: a message by `sendRef_asks`, a reply by the state it is judged in, a takeover by what every one of its steps leaves of the
lease. -/
theorem refereeGrantsTheLease : Obligations.RefereeGrantsTheLease := by
  unfold Obligations.RefereeGrantsTheLease
  refine ⟨?probe, ?silent, ?status, fun s hmode => exec_requestRepeat_silent hmode, ?starting, ?takeover, ?unreached,
    fun s ok seq gen term rs holder h => exec_reply_other h gen term rs holder, ?renewed, ?granted, ?denied, ?again, ?ends, ?unreachable⟩
  case probe => exact fun s hspeaks hfree => ⟨_, exec_probeTx hspeaks hfree, sendRef_asks s .probe⟩
  case silent =>
    intro s hmode
    refine exec_probeTx_silent ?_
    rcases hmode with h | ⟨h, hpath⟩ <;> simp [State.refSilent, *]
  case status =>
    intro s m holder gen ep hout htype hnew hreach
    rw [exec_statusRx_probe hout htype, refAnswered_reach hreach]
    exact congrArg Host.Outcome.next (if_neg (by show ¬ s.wb.probed = true; simp [hnew]))
  case starting =>
    intro s hmode hstarting hprobed hfree hlease
    rw [exec_requestRepeat_starting hmode hstarting]
    exact ⟨_, rfl, request_asks (by rw [State.mayRequest, hmode]; exact hstarting) hprobed hfree (by simp [hlease])⟩
  case takeover =>
    intro s hmode hmisses hreach hprobed hfree hlease
    obtain ⟨hhandover, hrequest, -, -, htold, -⟩ := askTakeover_facts hmode hprobed hfree hlease hreach
    exact ⟨_, exec_requestRepeat_standby hmode hmisses, hhandover, hrequest, htold⟩
  case unreached =>
    intro s hmode hmisses hreach hprobed hfree hlease
    exact ⟨_, exec_requestRepeat_standby hmode hmisses, askTakeover_unreached hmode hreach hprobed hfree hlease⟩
  case renewed =>
    intro s m term hout htype hheld hreach
    rw [exec_grantRx hout (.inr htype), if_pos (.inl hheld), refAnswered_reach hreach, setHeld_renewed (by exact hheld),
      newGen_known (by exact Nat.le_refl _)]
    rfl
  case granted =>
    intro s m gen term hout htype hasked hmode hidle hpend heject hunits
    have hgranted := granted_view s gen
    simp only [hmode, hpend, hidle, State.leaseView, Prod.mk.injEq] at hgranted
    rw [exec_grantRx hout (.inl htype), if_neg (by simp [hasked])]
    generalize (s.refAnswered.setHeld gen).newGen gen = v at hgranted
    obtain ⟨hmode', hpend', hheld, hgen, -, hidle', hpwr, hunder, hunits'⟩ := hgranted
    have htaken := gained_takeover hmode' hidle'
    simp only [State.leaseView, Prod.mk.injEq] at htaken
    obtain ⟨hsolo, hpend'', hheld', hgen', hdual, -, hpwr', hunder', hunits''⟩ := htaken
    rw [safeIfLost_id (by rw [hunits'', hunits', hunits]), afterSettle_id (hpend''.trans hpend') (by rw [hpwr', hpwr, heject])]
    exact ⟨_, rfl, hsolo, hheld'.trans hheld, hunder'.trans hunder, hdual, hgen'.trans hgen⟩
  case denied =>
    intro s m rs holder gen hout htype hasked hmode hidle hpend heject
    have hanswered := refAnswered_view s
    simp only [State.leaseView, Prod.mk.injEq] at hanswered
    obtain ⟨hmode', hpend', hlease', hgen', -, hidle', hpwr', -, -⟩ := hanswered
    rw [exec_denyRx_request hout htype]
    generalize hv : ({ s.refAnswered.noteHolder holder gen with wb := _ } : State) = v
    obtain ⟨hstandby, hnone, hgen, hdenies⟩ := requestDenied_facts (s := v) (by rw [← hv]; exact hlease'.trans hasked)
      (by rw [← hv]; exact hmode'.trans hmode) (by rw [← hv]; exact hidle'.trans hidle) (by rw [← hv]; exact hpend'.trans hpend)
      (by rw [← hv]; exact (congrArg PwrSt.ejectReq hpwr').trans heject)
    refine ⟨_, rfl, hstandby, hnone, hdenies.trans ?_, hgen.trans ?_⟩
    · rw [← hv]
      show (s.refAnswered.wb.refDenies + 1) % 65536 = _
      rw [refAnswered_denies]
    · rw [← hv]
      show max s.refAnswered.wb.gen gen = _
      rw [hgen']
  case again => exact fun s m hout hfew hmay => ⟨_, exec_refereeReplyTimeout_again hout hfew hmay⟩
  case ends =>
    intro s m hout htype hmode hlease
    rw [exec_refereeReplyTimeout_barred hout htype (by rw [State.mayRequest, hmode]),
      requestDenied_idle (by simp [hlease]) (by simp [hmode])]
  case unreachable =>
    intro s m hout hsent htype hnew
    exact ⟨_, exec_refereeReplyTimeout_probe hout hsent htype hnew, ((Says.refl _).record .refereeUnreachable [m.seq]).raise 67 (by decide)⟩

end Sys2Proof.Machine
end

section
/-! SUPPORT. A cycle taken over from a manifest, at the follower with its task time and its distance to the holder (05_pair_operation.md, R199 to
R201, R289, R290, R297). -/

namespace Sys2Proof.Machine

/-! Taking a manifest. -/

/-- Taking what a manifest names changes the stations, the manifests kept and the CAN frames unused, and tells of stations lost and back. -/
theorem takeManifest_facts (s : State) (m : ManSt) : (s.takeManifest m).prg = { s.prg with stations := (s.takeManifest m).prg.stations } ∧
    (s.takeManifest m).wb = { s.wb with manifests := s.wb.manifests.filter fun x => decide (x.task ≠ 0 ∨ m.cycle < x.cycle) } ∧
    (s.takeManifest m).core = s.core ∧ (s.takeManifest m).prot = s.prot ∧ (s.takeManifest m).quiet = s.quiet := by
  unfold State.takeManifest
  dsimp only
  generalize hv : ({ s with wb := { s.wb with manifests := s.wb.manifests.filter fun x => decide (x.task ≠ 0 ∨ m.cycle < x.cycle) } } : State) = v
  refine ⟨?_, ?_, ?_, ?_, (settleAll_quiet v (v.namedReply m.entries)).trans ?_⟩
  · rw [settleAll_prg, ← hv]
  · simp only [State.settleAll_frame, ← hv]
  · simp only [State.settleAll_frame, ← hv]
  · simp only [State.settleAll_frame, ← hv]
  · rw [← hv]
    rfl

/-- The comparison of the own channels changes none of it. -/
theorem manifestCompared_facts (s : State) (m : ManSt) :
    ((s.takeManifest m).compareLocal m.entries).prg = { s.prg with stations := (s.takeManifest m).prg.stations } ∧
    ((s.takeManifest m).compareLocal m.entries).wb =
      { s.wb with manifests := s.wb.manifests.filter fun x => decide (x.task ≠ 0 ∨ m.cycle < x.cycle) } ∧
    ((s.takeManifest m).compareLocal m.entries).core = s.core ∧ ((s.takeManifest m).compareLocal m.entries).prot = s.prot ∧
    ((s.takeManifest m).compareLocal m.entries).quiet = s.quiet := by
  obtain ⟨hprg, hwb, hcore, hprot, hquiet⟩ := takeManifest_facts s m
  simp only [State.compareLocal_frame]
  exact ⟨hprg, hwb, hcore, hprot, (compareLocal_quiet _ _).trans hquiet⟩

/-- Of settled tasks the placement depends on the tasks, the cores and the units lost alone. -/
theorem settled_of_quiet {s t : State} {n : Nat} (h : s.settled n) (htasks : t.prg.tasks = s.prg.tasks) (hcore : t.core = s.core)
    (hquiet : t.quiet = s.quiet) : t.settled n := settled_congr h htasks hcore (congrArg (fun q => q.2.1) hquiet)

/-- A cycle begun by a manifest: its number, its task time, its cut and its image are the manifest's, and nothing is sent or journalled (R202,
R289, R297). -/
theorem beginCycle_facts {s : State} {m : ManSt} (hrestart : s.prg.restartKind = none) (hrings : s.prot.oldRings = []) (hsettled : s.settled 0) :
    (s.beginCycle m).task 0 = { s.task 0 with running := true, time := entryTime m.entries, angle := m.angle } ∧
    (s.beginCycle m).prg = { s.prg with
      cycle := m.cycle, next := none, switchCycle := false, timerDue := [], scanOpen := false, taskTime := entryTime m.entries,
      inImage := s.buildImage m.entries, tasks := (s.beginCycle m).prg.tasks } ∧
    (s.beginCycle m).wb = { s.wb with covered := max s.wb.covered m.jsnCut, cycle := m.cycle } ∧ (s.beginCycle m).sys = s.sys ∧
    (s.beginCycle m).out = s.out ∧ (s.beginCycle m).regs = s.regs ∧ (s.beginCycle m).hq = s.hq := by
  obtain ⟨l, c, heq⟩ := beginCycle_eq hrestart hrings hsettled (m := m)
  rw [heq]
  exact ⟨setTask_task hsettled.1 fun x => { x with running := true, time := entryTime m.entries, angle := m.angle }, rfl, rfl, rfl, rfl, rfl, rfl⟩

/-! The follow distance. -/

/-- The distance as it is kept, with its maximum and the run of cycles that lag (R200). -/
def State.distanceKept (s : State) (us : Nat) : State :=
  { s with wb := { s.wb with followLast := satAt 65535 us, followMax := satAt 65535 (max s.wb.followMax us),
                             lagRun := if 150 < us then s.wb.lagRun + 1 else 0 } }

/-- The eighth cycle in a row that lags is told (R200). -/
def State.lagTold (s : State) (us : Nat) : State :=
  if (s.distanceKept us).wb.lagRun = 8 then (s.distanceKept us).record .followLag [us] else s.distanceKept us

theorem lagTold_reports (s : State) (us : Nat) : Reports (s.distanceKept us) (s.lagTold us) := by
  unfold State.lagTold
  split
  · exact Reports.record _ _ _
  · exact Reports.refl _

/-- A standby a whole cycle behind, of MIN_CYCLE_US or more, resynchronises (R201). -/
theorem followDistance_eq (s : State) (us min : Nat) : s.followDistance us min =
    if min ≤ us ∧ (s.lagTold us).sys.mode = .standby then (s.lagTold us).enterSync (recCodeOf .followLag) else s.lagTold us := rfl

/-! FOLLOWER_CYCLE_START. -/

theorem exec_followerCycleStart_idle {s : State} {n : Nat} (h : s.follows = false ∨ s.readyManifest n = none) (d : Nat) :
    exec (.followerCycleStart n d) s = .next s := by
  show execFollowerCycleStart n d s = _
  unfold execFollowerCycleStart
  cases s.prg.image with
  | none => rfl
  | some im =>
    dsimp only
    rcases h with h | h
    · rw [if_pos (.inl (by simp [h]))]
    · rw [h]
      exact congrArg Host.Outcome.next (ite_self s)

/-- The follower with the pair offset that makes its own count agree with a task time (R290). -/
def State.offsetTo (s : State) (time : Nat) : State :=
  { s with prg := { s.prg with pairOffset := Int.ofNat time - Int.ofNat (s.tb.csr * 10), runState := 1 } }

/-- An angle task that goes on by a manifest of its holder after its release `last`: every release between them counts (R289). -/
def followRelease (m : ManSt) (last : Nat) (y : Task) : Task :=
  { y with running := true, excess := false, relNum := m.cycle, rel := y.rel + (m.cycle - last) * y.per, time := entryTime m.entries,
           angle := m.angle }

/-- The release of an angle task at the follower: its manifests up to this one go, and task time never decreases (R289). -/
def State.released (s : State) (n : Nat) (m : ManSt) : State :=
  { s with wb := { s.wb with manifests := s.wb.manifests.filter fun x => decide (x.task ≠ n ∨ m.cycle < x.cycle) },
           prg := { s.prg with taskTime := max s.prg.taskTime (entryTime m.entries) } }

theorem exec_followerCycleStart {s : State} {n : Nat} {im : ProgImage} {m : ManSt} (himage : s.prg.image = some im) (hfree : s.holds = false)
    (hmode : s.sys.mode = .standby) (hpf : s.pwr.pf = .idle) (hn : n < 32) (hidle : (s.task n).running = false)
    (hready : s.readyManifest n = some m) (hbound : s.bindMissing m.jsnCut = false) (d : Nat) :
    exec (.followerCycleStart n d) s = .next (if n = 0 then
        ((((s.offsetTo (entryTime m.entries)).takeManifest m).compareLocal m.entries).beginCycle m).followDistance d im.minCycleUs
      else (((s.offsetTo (entryTime m.entries)).released n m).setTask n (followRelease m (s.task n).relNum)).placeTask n) := by
  show execFollowerCycleStart n d s = _
  unfold execFollowerCycleStart
  rw [himage]
  dsimp only
  rw [if_neg (by simp [State.follows, hfree, hmode, hpf, hidle]; omega), hready]
  dsimp only
  rw [if_neg (by simp [hbound])]
  rfl

/-- Settles O41: without a manifest nothing starts; with one a cycle is begun by `beginCycle_facts` and the distance is kept. -/
theorem followersRunTheHoldersCycles : Obligations.FollowersRunTheHoldersCycles := by
  unfold Obligations.FollowersRunTheHoldersCycles
  refine ⟨fun s n d h => exec_followerCycleStart_idle (.inl h) d, fun s n d h => exec_followerCycleStart_idle (.inr h) d, ?cycle, ?release⟩
  case cycle =>
    intro s d im m himage hfree hmode hpf hrings hidle hready hbound hsettled hrestart
    rw [exec_followerCycleStart himage hfree hmode hpf (by decide) hidle hready hbound, if_pos rfl]
    obtain ⟨hprg, hwb, hcore, hprot, hquiet⟩ := manifestCompared_facts (s.offsetTo (entryTime m.entries)) m
    generalize ((s.offsetTo (entryTime m.entries)).takeManifest m).compareLocal m.entries = v at hprg hwb hcore hprot hquiet
    have hthere : v.settled 0 := settled_of_quiet hsettled (by rw [hprg]; rfl) hcore hquiet
    obtain ⟨htask, hprg', hwb', hsys', hout', -, -⟩ := beginCycle_facts (s := v) (m := m) (by rw [hprg]; exact hrestart)
      (by rw [hprot]; exact hrings) hthere
    generalize v.beginCycle m = w at htask hprg' hwb' hsys' hout'
    have htold := lagTold_reports w d
    have hmode' : (w.lagTold d).sys.mode = .standby := by
      rw [htold.mode]
      show w.sys.mode = _
      rw [hsys']
      exact (congrArg Prod.fst hquiet).trans hmode
    rw [followDistance_eq]
    refine ⟨fun hnear => ?_, fun hfar => ?_⟩
    · rw [if_neg (by omega)]
      have hkept : (w.lagTold d).prg = w.prg := htold.prg
      refine ⟨_, rfl, ?_, ?_, ?_, ?_, ?_, ?_, ?_, ?_, hmode', ?_⟩
      · rw [hkept, hprg']
      · rw [hkept, hprg']
      · rw [hkept, hprg', hprg]
        rfl
      · rw [State.task, hkept]
        exact congrArg Task.running htask
      · rw [hkept, hprg', hprg]
        rfl
      · rw [htold.wb]
        rfl
      · rw [htold.wb]
        show satAt 65535 (max w.wb.followMax d) = _
        rw [hwb', hwb]
        rfl
      · rw [htold.wb]
        show w.wb.covered = _
        rw [hwb', hwb]
        rfl
      · rw [htold.sent]
        show w.out.filter _ = _
        rw [hout']
        exact congrArg (fun q => q.2.2) hquiet
    · rw [if_pos ⟨hfar, hmode'⟩]
      obtain ⟨hsync, hstep, -, hfence, -⟩ := enterSync_facts (s := w.lagTold d) (by simp [hmode']) (recCodeOf .followLag)
      exact ⟨_, rfl, hsync, hstep, hfence⟩
  case release =>
    intro s n d im m himage hfree hmode hpf hpos hn hidle hready hbound hsettled
    rw [exec_followerCycleStart himage hfree hmode hpf hn hidle hready hbound, if_neg (by omega)]
    have hthere : ((s.offsetTo (entryTime m.entries)).released n m).settled n := settled_congr hsettled rfl rfl rfl
    have htask := setTask_task hthere.1 (followRelease m (s.task n).relNum)
    rw [placeTask_settled (settled_setTask hthere (followRelease m (s.task n).relNum) fun _ => ⟨rfl, rfl⟩)]
    refine ⟨_, rfl, ?_, ?_, ?_, rfl, rfl, rfl, rfl⟩ <;> rw [htask, followRelease]

end Sys2Proof.Machine
end

section
/-! SUPPORT. Cycles and releases at the member that leads: their start and its overruns, their end, the scan of the stations, and what angle tasks
count (R198, R202, R242, R283, R286, R289, R294 to R300, R302, R600). -/

namespace Sys2Proof.Machine

/-! Tasks. -/

theorem setTask_setTask (s : State) (n : Nat) (f g : Task → Task) : (s.setTask n f).setTask n g = s.setTask n fun x => g (f x) := by
  unfold State.setTask
  dsimp only
  rw [updAt_updAt]

theorem setTask_congr {s : State} {n : Nat} {f g : Task → Task} (h : f (s.task n) = g (s.task n)) : s.setTask n f = s.setTask n g := by
  unfold State.setTask
  rw [updAt_congr]
  intro x hx
  have hself : s.task n = x := by
    rw [State.task, List.getD_eq_getElem?_getD, hx]
    rfl
  rwa [hself] at h

/-- A task that runs stands in the table. -/
theorem lt_of_running {s : State} {n : Nat} (h : (s.task n).running = true) : n < s.prg.tasks.length := by
  by_contra hout
  rw [State.task, List.getD_eq_getElem?_getD, List.getElem?_eq_none (Nat.not_lt.1 hout)] at h
  cases h

theorem mayEnd_iff {s : State} {n : Nat} :
    s.mayEnd n = true ↔ (s.task n).running = true ∧ s.pairUp (s.task n).pair = true ∧ s.preempted n = false := by
  simp [State.mayEnd, and_assoc]

theorem mayEnd_idle {s : State} {n : Nat} (h : (s.task n).running = false) : s.mayEnd n = false := by simp [State.mayEnd, h]

theorem resumeTask_up {s : State} {n : Nat} (h : s.pairUp (s.task n).pair = true) : s.resumeTask n = s := if_pos h

/-! Overruns. -/

theorem overrun_task {s : State} {n : Nat} (h : n < s.prg.tasks.length) (k : Nat) : (s.overrun n k).task n =
    { s.task n with ovrRun := satAt 255 ((s.task n).ovrRun + 1), ovrTotal := satAt 65535 ((s.task n).ovrTotal + 1) } := by
  rw [State.task, (overrun_says s n k).toReports.prg]
  exact setTask_task h _

/-- The judgement of a cycle reports and counts; the pair's state, the power and the mode are as they were. -/
theorem judgeCycle_keeps (s : State) (im : ProgImage) (us : Nat) : (s.judgeCycle im us).1.wb = s.wb ∧ (s.judgeCycle im us).1.pwr = s.pwr ∧
    (s.judgeCycle im us).1.sys.mode = s.sys.mode ∧ (s.judgeCycle im us).1.sys.stopPend = s.sys.stopPend ∧
    (s.judgeCycle im us).1.sys.restartPend = s.sys.restartPend := by
  unfold State.judgeCycle
  dsimp only
  split
  · have h := (overrun_says { s with prg := { s.prg with cycleLast := min us (2 ^ 24 - 1), cycleMax := max s.prg.cycleMax (min us (2 ^ 24 - 1)) } }
      0 s.prg.cycle).toReports
    exact ⟨h.wb, h.pwr, h.mode, by rw [h.sys]; rfl, by rw [h.sys]; rfl⟩
  · exact ⟨rfl, rfl, rfl, rfl, rfl⟩

/-- A cycle that overran is beyond the tolerance at the limit of overruns in a row, or beyond MAX_CYCLE_US (R298, R299). -/
theorem judgeCycle_over {s : State} {im : ProgImage} {us : Nat} (hover : im.watchUs < us) (hcounted : s.prg.switchCycle = false)
    (htask : 0 < s.prg.tasks.length) : (s.judgeCycle im us).2 =
      (decide ((s.task 0).ovrLimit ≤ satAt 255 ((s.task 0).ovrRun + 1)) || decide (im.maxCycleUs < us)) := by
  unfold State.judgeCycle
  simp only [hover, hcounted, decide_true, Bool.not_false, Bool.and_true, if_true, Bool.true_and]
  rw [overrun_task (by exact htask)]
  rfl

theorem judgeCycle_gone {s : State} {im : ProgImage} {us : Nat}
    (h : im.maxCycleUs < us ∨ (im.watchUs < us ∧ s.prg.switchCycle = false ∧ 0 < s.prg.tasks.length ∧ (s.task 0).ovrRun < 255 ∧
      (s.task 0).ovrLimit ≤ (s.task 0).ovrRun + 1)) : (s.judgeCycle im us).2 = true := by
  rcases h with hlong | ⟨hover, hcounted, htask, hfew, hlimit⟩
  · exact (judgeCycle_long hlong).1
  · rw [judgeCycle_over hover hcounted htask, satAt, if_pos (by omega), decide_eq_true hlimit, Bool.true_or]

theorem judgeCycle_stays {s : State} {im : ProgImage} {us : Nat} (hmax : us ≤ im.maxCycleUs)
    (h : us ≤ im.watchUs ∨ s.prg.switchCycle = true ∨ ((s.task 0).ovrRun + 1 < (s.task 0).ovrLimit ∧ 0 < s.prg.tasks.length)) :
    (s.judgeCycle im us).2 = false := by
  by_cases hin : us ≤ im.watchUs ∨ s.prg.switchCycle = true
  · rw [judgeCycle_in hin hmax]
  · obtain ⟨hover, hcounted⟩ := not_or.1 hin
    obtain ⟨hlimit, htask⟩ := (h.resolve_left hover).resolve_left hcounted
    have hfew : satAt 255 ((s.task 0).ovrRun + 1) ≤ (s.task 0).ovrRun + 1 := by unfold satAt; split <;> omega
    rw [judgeCycle_over (by omega) (by simpa using hcounted) htask, decide_eq_false (by omega), decide_eq_false (by omega), Bool.or_self]

/-- Beside no standby the tolerance exceeded gives the lease up for SAFE-HOLD (R300). -/
theorem toleranceGone_alone {s : State} (halone : s.partnerStandby = false) (n : Nat) :
    s.toleranceGone n = (s.sendRef .release).enterSafeHold 1 (recCodeOf .taskOverrun) := if_neg (by simp [halone])

theorem setMode_stopPend {s : State} {m : Mode} (h : s.sys.mode ≠ m) (c : Nat) :
    (s.setMode m c).sys.stopPend = (s.sys.stopPend && decide (m = .active ∨ m = .solo)) := by
  unfold State.setMode
  rw [if_neg h]
  simp only [State.refence_frame]
  rw [State.record_sys]
  split <;> simp only [State.dropFence_frame, State.ringMode_frame, State.fieldMode_frame, State.closeLocks_frame]

/-- No requested stop waits in SAFE-HOLD. -/
theorem enterSafeHold_stopPend {s : State} (h : s.sys.mode ≠ .safeHold) (hpend : s.sys.restartPend = none) (k c : Nat) :
    (s.enterSafeHold k c).sys.stopPend = false := by
  unfold State.enterSafeHold
  dsimp only
  have hsys := (State.endLease_facts s).2.2
  generalize hv : ({ s.endLease with sys := { s.endLease.sys with safeHoldCause := k, exitKind := none } } : State) = v
  have hvsys : v.sys = { s.sys with safeHoldCause := k, exitKind := none } := by rw [← hv, ← hsys]
  have hmode : v.sys.mode ≠ .safeHold := by rw [hvsys]; exact h
  have hstop : (v.setMode .safeHold c).refence.sys.stopPend = false := (setMode_stopPend hmode c).trans (Bool.and_false _)
  rcases State.afterSettle_safeHold (s := (v.setMode .safeHold c).refence) (State.setMode_mode v .safeHold c)
    ((setMode_restartPend v .safeHold c).trans (by rw [hvsys]; exact hpend)) with heq | heq
  · rw [heq]
    exact hstop
  · rw [heq, State.refuseExtract, State.record_sys]
    exact hstop

/-! CYCLE_START. -/

theorem exec_cycleStart_stopped {s : State} (himage : s.prg.image = none) (us : Nat) : exec (.cycleStart us) s = .next s := by
  show execCycleStart us s = _
  unfold execCycleStart
  rw [himage]

theorem exec_cycleStart_follower {s : State} (hmode : s.sys.mode ≠ .safeHold) (hleads : s.leads = false) (us : Nat) :
    exec (.cycleStart us) s = .next s := by
  show execCycleStart us s = _
  unfold execCycleStart
  cases s.prg.image with
  | none => rfl
  | some im =>
    dsimp only
    rw [if_neg (fun h => hmode h.2), if_pos (.inl (by simp [hleads]))]

theorem exec_cycleStart_early {s : State} {im : ProgImage} {us : Nat} (hbetween : s.between im) (hmode : s.sys.mode ≠ .safeHold)
    (hearly : us < im.minCycleUs) : exec (.cycleStart us) s = .next s := by
  obtain ⟨himage, hleads, hruns, hidle, hclosed, hcycle, hrestart⟩ := hbetween
  show execCycleStart us s = _
  unfold execCycleStart
  rw [himage]
  dsimp only
  rw [if_neg (fun h => hmode h.2), if_neg (by simp [hleads, hruns, hidle, hclosed]), if_pos ⟨by simp [hcycle, hrestart], hearly⟩]

/-- A cycle counted in SAFE-HOLD (R302). -/
def State.cycleCounted (s : State) : State :=
  { s with prg := { s.prg with cycle := s.prg.cycle + 1 }, wb := { s.wb with cycle := s.prg.cycle + 1 } }

theorem exec_cycleStart_safeHold {s : State} {im : ProgImage} {us : Nat} (himage : s.prg.image = some im) (hruns : s.prg.runState = 2)
    (hmode : s.sys.mode = .safeHold) (hdue : im.minCycleUs ≤ us) (hpair : bitsOf s.sys.unitHealth 0 4 ≠ 15) (hon : s.powered 5 = true) :
    exec (.cycleStart us) s = .next ((s.cycleCounted.sendOutputs fun _ _ id => s.safeVal id).sendTaskStreams 0 (s.prg.cycle + 1) s.safeVal) := by
  show execCycleStart us s = _
  unfold execCycleStart
  rw [himage]
  dsimp only
  rw [if_pos ⟨hruns, hmode⟩, if_neg (by simp [hpair, hon]; omega)]
  rfl

/-- The state in which a cycle in time begins. -/
def State.inTime (s : State) (us : Nat) : State :=
  ({ s with prg := { s.prg with cycleLast := min us (2 ^ 24 - 1), cycleMax := max s.prg.cycleMax (min us (2 ^ 24 - 1)) } } : State).setTask 0
    fun x => { x with ovrRun := 0 }

/-- The oldest whole manifest of task 0 depends on the manifests kept and the cycle alone. -/
theorem readyManifest_congr {s t : State} (hkept : t.wb.manifests = s.wb.manifests) (hcycle : t.prg.cycle = s.prg.cycle) :
    t.readyManifest 0 = s.readyManifest 0 := by
  simp only [State.readyManifest, hkept, hcycle, if_true]

theorem exec_cycleStart_inTime {s : State} {im : ProgImage} {us : Nat} (hbetween : s.between im) (hmode : s.sys.mode ≠ .safeHold)
    (hdue : im.minCycleUs ≤ us) (hwatch : us ≤ im.watchUs ∨ s.prg.switchCycle = true) (hmax : us ≤ im.maxCycleUs)
    (hstop : s.sys.stopPend = false) {m : ManSt} :
    (s.prg.next = some m → exec (.cycleStart us) s = .next ((s.inTime us).beginCycle m)) ∧
    (s.prg.next = none → s.readyManifest 0 = some m → exec (.cycleStart us) s = .next (((s.inTime us).takeManifest m).beginCycle m)) := by
  obtain ⟨u, hu, hexec⟩ := cycleStart_between hbetween hmode hdue
  rw [judgeCycle_in hwatch hmax, if_neg (by simp)] at hu
  obtain rfl : u = s.inTime us := hu
  obtain ⟨-, hleads, hruns, -⟩ := hbetween
  have hleads' : (s.inTime us).leads = true := hleads
  have hruns' : (s.inTime us).prg.runState = 1 := hruns
  have hstop' : (s.inTime us).sys.stopPend = false := hstop
  rw [hexec, if_neg (by simp [hstop']), if_neg (by simp [hleads', hruns'])]
  refine ⟨fun hnext => ?_, fun hnone hready => ?_⟩
  · rw [show (s.inTime us).prg.next = some m from hnext]
  · have hready' : (s.inTime us).readyManifest 0 = some m := (readyManifest_congr (s := s) (t := s.inTime us) rfl rfl).trans hready
    rw [show (s.inTime us).prg.next = none from hnone, hready']

theorem leads_mode {s : State} (hleads : s.leads = true) : s.sys.mode = .active ∨ s.sys.mode = .solo ∨ s.sys.mode = .handover := by
  simp only [State.leads, State.rightful, Bool.or_eq_true, Bool.and_eq_true, beq_iff_eq] at hleads
  tauto

/-- A module without a lease leads no cycle. -/
theorem not_leads_unleased {s : State} (hlease : s.wb.lease = .none) : s.leads = false := by
  simp [State.leads, State.rightful, State.holds, hlease]

/-- Beyond the tolerance and beside no standby the start of a cycle ends in SAFE-HOLD with cause 1 (R298 to R300). -/
theorem exec_cycleStart_gone {s : State} {im : ProgImage} {us : Nat} (hbetween : s.between im) (hmode : s.sys.mode ≠ .safeHold)
    (hdue : im.minCycleUs ≤ us) (hgone : (s.judgeCycle im us).2 = true) (hpend : s.sys.restartPend = none) (halone : s.partnerStandby = false) :
    ∃ t, exec (.cycleStart us) s = .next t ∧ t.sys.mode = .safeHold ∧ t.sys.safeHoldCause = 1 ∧ t.wb.lease = .none ∧ t.wb.fenced = true := by
  obtain ⟨u, hu, hexec⟩ := cycleStart_between hbetween hmode hdue
  obtain ⟨hwb, -, hmode', -, hpend'⟩ := judgeCycle_keeps s im us
  have halone' : (s.judgeCycle im us).1.partnerStandby = false := by
    rw [State.partnerStandby, State.partnerMode, hwb]
    exact halone
  rw [hgone, if_pos rfl, toleranceGone_alone halone'] at hu
  have hthere : ((s.judgeCycle im us).1.sendRef .release).sys.mode ≠ .safeHold := by
    rw [(State.sendRef_frame _ _).1, hmode']
    exact hmode
  have hnone : ((s.judgeCycle im us).1.sendRef .release).sys.restartPend = none := by
    rw [(State.sendRef_frame _ _).1, hpend']
    exact hpend
  obtain ⟨hin, hcause, hlease, hfence, -⟩ := State.enterSafeHold_facts hthere hnone 1 (recCodeOf .taskOverrun)
  have hstop := enterSafeHold_stopPend hthere hnone 1 (recCodeOf .taskOverrun)
  rw [← hu] at hin hcause hlease hfence hstop
  rw [hexec, if_neg (by simp [hstop]), if_pos (.inl (by simp [not_leads_unleased hlease]))]
  exact ⟨u, rfl, hin, hcause, hlease, hfence⟩

/-- A requested stop is met at the start of a cycle within the tolerance (R600). -/
theorem exec_cycleStart_stop {s : State} {im : ProgImage} {us : Nat} (hbetween : s.between im) (hmode : s.sys.mode ≠ .safeHold)
    (hdue : im.minCycleUs ≤ us) (hstays : (s.judgeCycle im us).2 = false) (hstop : s.sys.stopPend = true) :
    ∃ t, exec (.cycleStart us) s = .next t ∧ t.sys.mode = .service ∧ t.wb.lease = .none ∧ t.wb.fenced = true := by
  obtain ⟨u, hu, hexec⟩ := cycleStart_between hbetween hmode hdue
  obtain ⟨-, -, hmode', hstop', -⟩ := judgeCycle_keeps s im us
  rw [hstays, if_neg (by simp)] at hu
  rw [hexec, if_pos (by rw [hu, hstop']; exact hstop)]
  refine ⟨_, rfl, configStop_facts u ?_⟩
  rw [hu, hmode']
  rcases leads_mode hbetween.2.1 with h | h | h <;> simp [h]

/-! TASK0_END. -/

theorem exec_task0End_idle {s : State} (hidle : (s.task 0).running = false) (ws : List (Nat × Nat)) (cs : List FbCall) :
    exec (.task0End ws cs) s = .next s := by
  show execTask0End ws cs s = _
  unfold execTask0End
  have hstays : (if (s.task 0).running = true then s.resumeTask 0 else s) = s := if_neg (by simp [hidle])
  dsimp only
  rw [hstays, if_pos (mayEnd_idle hidle)]

theorem exec_task0End {s : State} (hmay : s.mayEnd 0 = true) (ws : List (Nat × Nat)) (cs : List FbCall) :
    exec (.task0End ws cs) s = .next (s.commitCycle ws cs).shareDigests.judgeShadows.emitCycle.openScan := by
  obtain ⟨hruns, hpair, -⟩ := mayEnd_iff.1 hmay
  show execTask0End ws cs s = _
  unfold execTask0End
  dsimp only
  rw [if_pos hruns, resumeTask_up hpair, if_neg (by simp [hmay])]

theorem authoritative_mode {s : State} (hauth : s.authoritative = true) : s.sys.mode = .active ∨ s.sys.mode = .solo ∨ s.sys.mode = .handover :=
  leads_mode (leads_of_rightful (rightful_of_authoritative hauth))

/-- What the holder sends at the end of a cycle changes neither its pair's state nor the program but for the scan, which opens. -/
theorem endCycle_facts {s : State} (hholds : s.holds = true) (hmode : s.sys.mode = .active ∨ s.sys.mode = .solo ∨ s.sys.mode = .handover) :
    s.shareDigests.judgeShadows.emitCycle.openScan.prg = { s.prg with scanOpen := true } ∧
    s.shareDigests.judgeShadows.emitCycle.openScan.wb = s.wb ∧ s.shareDigests.judgeShadows.emitCycle.openScan.regs = s.regs ∧
    s.shareDigests.judgeShadows.emitCycle.openScan.hq = s.hq := by
  have hshare : s.shareDigests = s.sendWb (.outputDigest s.prg.cycle ((assocGet s.wb.digests s.prg.cycle).getD [])) := if_pos hholds
  have hjudge : s.shareDigests.judgeShadows = s.shareDigests := by
    refine if_neg fun h => ?_
    rw [hshare, (sendWb_facts _ _).2.1] at h
    rcases hmode with hm | hm | hm <;> simp [hm] at h
  rw [hjudge, hshare]
  simp only [State.openScan, State.emitCycle_frame, State.sendWb_frame, and_self]

/-- What the end of task 0 leaves at the holder: RETAINED journalled under the next JSN, the scan begun, the image of the cycle (R292). -/
theorem task0End_facts {s : State} (hmay : s.mayEnd 0 = true) (hauth : s.authoritative = true) (ws : List (Nat × Nat)) (cs : List FbCall) :
    ∃ t, exec (.task0End ws cs) s = .next t ∧ (t.task 0).running = false ∧ t.prg.scanOpen = true ∧ t.wb.jsn = s.wb.jsn + 1 ∧
      (∃ v, t.wb.journal = s.wb.journal ++ [⟨s.wb.jsn + 1, s.sendGen, .retained s.prg.cycle v⟩]) ∧ t.prg.cycle = s.prg.cycle ∧
      t.prg.inImage = s.prg.inImage ∧ t.regs = s.regs ∧ t.hq = s.hq ∧ t.prg.outImage = (s.taskDone 0 ws cs).prg.outImage ∧
      t.prg.items = (s.taskDone 0 ws cs).prg.items := by
  obtain ⟨v, hjsn, hjournal, ⟨htasks, hcycle, himage⟩, hout, hitems, hholds, hregs, hhq, hmode⟩ := commitCycle_facts ws cs hauth
  obtain ⟨hprg, hwb, hregs', hhq'⟩ := endCycle_facts hholds (by rw [hmode]; exact authoritative_mode hauth)
  refine ⟨_, exec_task0End hmay ws cs, ?_, ?_⟩
  · rw [State.task, hprg, htasks]
    exact congrArg Task.running (setTask_task (lt_of_running (mayEnd_iff.1 hmay).1) fun x => { x with running := false })
  · rw [hprg, hwb, hregs', hhq']
    dsimp only
    exact ⟨rfl, hjsn, ⟨v, hjournal⟩, hcycle, himage, hregs, hhq, hout, hitems⟩

/-! Station replies. -/

/-- A reply that is not taken is counted (R531). -/
def State.replyDropped (s : State) : State := { s with net := { s.net with replyDiscard := (s.net.replyDiscard + 1) % 2 ^ 32 } }

theorem exec_stationReplyRx_foreign {s : State} {st mac : Nat} (hforeign : ∀ x ∈ s.cfg.sessions, x.station = st → x.mac ≠ mac)
    (pid echo : Nat) (pts : List Word) : exec (.stationReplyRx st pid mac echo pts) s = .next s.replyDropped := by
  show execStationReplyRx st pid mac echo pts s = _
  unfold execStationReplyRx State.replyDropped
  dsimp only
  split
  · rename_i x hx
    obtain ⟨hlt, hget⟩ := List.getElem?_eq_some_iff.1 hx
    have hstation : x.station = st := by simpa [hget] using List.findIdx_getElem (w := hlt)
    have hmac := hforeign x (hget ▸ List.getElem_mem hlt) hstation
    split
    · rename_i h
      exact absurd h.2.1.symm hmac
    · rfl
  · rfl

theorem exec_stationReplyRx {s : State} {st k : Nat} {x : Session} (hfind : s.cfg.sessions.findIdx (fun y => y.station == st) = k)
    (hget : s.cfg.sessions[k]? = some x) (hopen : s.prg.scanOpen = true ∨ s.follows = true) (hon : s.powered 5 = true) (pts : List Word) :
    exec (.stationReplyRx st s.pairId x.mac (s.prg.cycle % 2 ^ 32) pts) s = .next
      ((s.setStation k fun t => { t with replied := true, recent := pts, stamp := s.tb.ang }).nameItem
        ⟨1, 2 * x.network, st, s.prg.cycle % 2 ^ 32, crc32 (wordBytes pts)⟩ (wordBytes pts)) := by
  show execStationReplyRx st s.pairId x.mac (s.prg.cycle % 2 ^ 32) pts s = _
  unfold execStationReplyRx
  dsimp only
  rw [hfind, hget]
  dsimp only
  rw [if_pos ⟨rfl, rfl, rfl, hopen, hon⟩]

theorem setStation_station (s : State) (k : Nat) (f : StationSt → StationSt) : (s.setStation k f).station k = f (s.station k) := by
  unfold State.setStation State.station
  dsimp only
  refine getD_updAt_self _ k f {} _ ?_
  by_cases hk : k < s.prg.stations.length
  · rw [List.getElem?_append_left hk, List.getD_eq_getElem?_getD, List.getElem?_eq_getElem hk]
    rfl
  · rw [List.getElem?_append_right (Nat.not_lt.1 hk), List.getD_eq_getElem?_getD, List.getElem?_eq_none (Nat.not_lt.1 hk),
      List.getElem?_replicate_of_lt (by omega)]
    rfl

/-- With no manifest kept an item named is new (R198, R233). -/
theorem nameItem_new {s : State} (hnone : s.wb.manifests = []) (e : ManEntry) (c : List Byte) :
    (s.nameItem e c).wb.newItems = newest 4096 (s.wb.newItems ++ [e]) := by
  simp only [State.nameItem, State.holdItem, hnone, List.any_nil, Bool.false_eq_true, if_false]

/-! The end of the scan. -/

theorem exec_scanTimeout_closed {s : State} (hclosed : s.prg.scanOpen = false) (di : Nat) (ai : List Nat) :
    exec (.scanTimeout di ai) s = .next s := congrArg Host.Outcome.next (if_pos hclosed)

/-- The local inputs as they are sampled while PD7 is on (R488). -/
def State.sampled (s : State) (di : Nat) (ai : List Nat) : State := if s.powered 7 = true then (s.takeDi di).takeAis 0 ai else s

theorem sampled_frame (s : State) (di : Nat) (ai : List Nat) : (s.sampled di ai).sys = s.sys ∧ (s.sampled di ai).pwr = s.pwr ∧
    (s.sampled di ai).tb = s.tb ∧ (s.sampled di ai).wb = s.wb ∧ (s.sampled di ai).core = s.core ∧ (s.sampled di ai).prg = s.prg ∧
    (s.sampled di ai).regs = s.regs := by
  unfold State.sampled
  split
  · simp only [State.takeAis_frame, State.takeDi_frame, and_self]
  · exact ⟨rfl, rfl, rfl, rfl, rfl, rfl, rfl⟩

/-- The scan closed. -/
def State.closeScan (s : State) : State := { s with prg := { s.prg with scanOpen := false } }

theorem exec_scanTimeout {s : State} (hopen : s.prg.scanOpen = true) (hleads : s.leads = true) (di : Nat) (ai : List Nat) :
    ∃ got, exec (.scanTimeout di ai) s = .next ((s.closeScan.sampled di ai).settleAll got).prepareCycle := by
  have hleads' : (s.closeScan.sampled di ai).leads = true := by
    obtain ⟨hsys, hpwr, -, hwb, -⟩ := sampled_frame s.closeScan di ai
    rw [State.leads, State.rightful, State.holds, hsys, hpwr, hwb]
    exact hleads
  exact ⟨_, congrArg Host.Outcome.next ((if_neg (by simp [hopen])).trans (if_pos hleads'))⟩

/-- The stations settled at the end of the scan: their states change, and reports are made of those lost and back (R295). -/
theorem scanSettled_facts (s : State) (di : Nat) (ai : List Nat) (got : Nat → Option (List Word)) :
    ((s.closeScan.sampled di ai).settleAll got).prg =
      { s.prg with scanOpen := false, stations := ((s.closeScan.sampled di ai).settleAll got).prg.stations } ∧
    ((s.closeScan.sampled di ai).settleAll got).wb = s.wb ∧ ((s.closeScan.sampled di ai).settleAll got).tb = s.tb ∧
    ((s.closeScan.sampled di ai).settleAll got).regs = s.regs := by
  obtain ⟨-, -, htb, hwb, -, hprg, hregs⟩ := sampled_frame s.closeScan di ai
  refine ⟨by rw [settleAll_prg, hprg]; rfl, ?_⟩
  simp only [State.settleAll_frame]
  exact ⟨hwb, htb, hregs⟩

/-! TASK_RELEASE. -/

theorem releaseDue_early {s : State} {n : Nat} (hearly : s.tb.ang < (s.task n).rel) (hlate : (s.task n).late = false) :
    s.releaseDue n = false := by
  simp [State.releaseDue, hlate, Nat.not_le.2 hearly]

theorem exec_taskRelease_undue {s : State} {n : Nat} (hundue : s.releaseDue n = false) (di : Nat) (ai : List Nat) :
    exec (.taskRelease n di ai) s = .next s :=
  congrArg Host.Outcome.next (if_pos (.inr (.inr (.inr (.inr (.inl hundue))))))

/-- One occurrence of an angle task counted, its schedule moved on by one period (R286). -/
def nextRelease (y : Task) : Task := { y with rel := y.rel + y.per, relNum := y.relNum + 1, late := false, skips := 0 }

/-- A release that finds the last one running, noted as an overrun (R298). -/
def noteExcess (y : Task) : Task := { y with excess := true }

/-- A release that finds the last one running, counted as an overrun under its occurrence (R298). -/
def State.releaseOverran (s : State) (n : Nat) : State :=
  ((s.setTask n nextRelease).setTask n noteExcess).overrun n ((s.setTask n nextRelease).task n).relNum

/-- A release due within one period of its angle is one occurrence, in time (R286). -/
theorem exec_taskRelease {s : State} {n : Nat} (hpos : 0 < n) (hn : n < 32) (hpresent : (s.task n).present = true)
    (hlate : (s.task n).late = false) (hdue : s.releaseDue n = true) (hone : s.tb.ang < (s.task n).rel + (s.task n).per)
    (hruns : s.prg.runState = 1) (hleads : s.leads = true) (di : Nat) (ai : List Nat) :
    ∃ can, exec (.taskRelease n di ai) s = .next (
      if (s.task n).running = true then
        (if ((s.releaseOverran n).task n).ovrLimit ≤ ((s.releaseOverran n).task n).ovrRun then (s.releaseOverran n).toleranceGone n
        else s.releaseOverran n)
      else ((s.setTask n nextRelease).sampled di ai).startRelease n 0 false can) := by
  have hrel : (s.task n).rel ≤ s.tb.ang := by
    simp only [State.releaseDue, hlate, Bool.false_or, Bool.and_eq_true, decide_eq_true_eq] at hdue
    exact hdue.1
  have hwhole : (s.tb.ang - (s.task n).rel) / (s.task n).per = 0 := Nat.div_eq_of_lt (by omega)
  refine ⟨((s.setTask n nextRelease).sampled di ai).canItems, ?_⟩
  show execTaskRelease n di ai s = _
  unfold execTaskRelease
  dsimp only
  rw [if_neg (by simp [hpresent, hdue, hruns, hleads]; omega), hlate]
  simp only [Bool.false_eq_true, if_false, hwhole, Nat.zero_add, Nat.one_mul, Nat.sub_self, Nat.lt_irrefl, decide_false, Bool.or_false]
  rfl

/-- What an overrun of an angle task leaves of its task, and what it tells (R298). -/
theorem releaseOverran_says {s : State} {n : Nat} (hthere : n < s.prg.tasks.length) (hfew : (s.task n).ovrRun < 254) :
    Says (s.setTask n fun y => { y with
      rel := (s.task n).rel + (s.task n).per, relNum := (s.task n).relNum + 1, late := false, skips := 0, excess := true,
      ovrRun := (s.task n).ovrRun + 1, ovrTotal := satAt 65535 ((s.task n).ovrTotal + 1) })
      [(.taskOverrun, [n, (s.task n).relNum + 1])] [87] (s.releaseOverran n) := by
  have hsays := overrun_says ((s.setTask n nextRelease).setTask n noteExcess) n ((s.setTask n nextRelease).task n).relNum
  have hnumber : ((s.setTask n nextRelease).task n).relNum = (s.task n).relNum + 1 := congrArg Task.relNum (setTask_task hthere nextRelease)
  have hcount : satAt 255 ((s.task n).ovrRun + 1) = (s.task n).ovrRun + 1 := if_pos (by omega)
  rw [State.releaseOverran]
  rw [hnumber] at hsays ⊢
  convert hsays using 1
  rw [setTask_setTask, setTask_setTask]
  refine setTask_congr ?_
  dsimp only [nextRelease, noteExcess]
  rw [hcount]

theorem exec_taskRelease_overrun {s : State} {n : Nat} (hpos : 0 < n) (hn : n < 32) (hthere : n < s.prg.tasks.length)
    (hpresent : (s.task n).present = true) (hlate : (s.task n).late = false) (hdue : s.releaseDue n = true)
    (hone : s.tb.ang < (s.task n).rel + (s.task n).per) (hruns : s.prg.runState = 1) (hleads : s.leads = true)
    (hrunning : (s.task n).running = true) (hfew : (s.task n).ovrRun < 254) (hlimit : (s.task n).ovrRun + 1 < (s.task n).ovrLimit) (di : Nat)
    (ai : List Nat) : exec (.taskRelease n di ai) s = .next (s.releaseOverran n) := by
  obtain ⟨can, hexec⟩ := exec_taskRelease hpos hn hpresent hlate hdue hone hruns hleads di ai
  have htask := congrArg (fun p : PrgSt => p.tasks.getD n {}) (releaseOverran_says hthere hfew).toReports.prg
  have hafter := htask.trans (setTask_task hthere _)
  have hwithin : ¬ ((s.releaseOverran n).task n).ovrLimit ≤ ((s.releaseOverran n).task n).ovrRun := by
    rw [State.task, hafter]
    exact Nat.not_le.2 hlimit
  rw [hexec, if_pos hrunning, if_neg hwithin]

/-- A release whose last one has ended runs, under the next occurrence of its angle (R286). -/
theorem exec_taskRelease_starts {s : State} {n : Nat} (hpos : 0 < n) (hn : n < 32) (hpresent : (s.task n).present = true)
    (hlate : (s.task n).late = false) (hdue : s.releaseDue n = true) (hone : s.tb.ang < (s.task n).rel + (s.task n).per)
    (hruns : s.prg.runState = 1) (hleads : s.leads = true) (hidle : (s.task n).running = false) (hsettled : s.settled n) (di : Nat)
    (ai : List Nat) : ∃ t, exec (.taskRelease n di ai) s = .next t ∧ (t.task n).running = true ∧
      (t.task n).rel = (s.task n).rel + (s.task n).per ∧ (t.task n).relNum = (s.task n).relNum + 1 ∧ t.wb.jsn = s.wb.jsn ∧
      t.prg.cycle = s.prg.cycle := by
  obtain ⟨can, hexec⟩ := exec_taskRelease hpos hn hpresent hlate hdue hone hruns hleads di ai
  rw [if_neg (by simp [hidle])] at hexec
  obtain ⟨hsys, -, -, hwb, hcore, hprg, -⟩ := sampled_frame (s.setTask n nextRelease) di ai
  generalize (s.setTask n nextRelease).sampled di ai = u at hexec hsys hwb hcore hprg
  have hthere : u.settled n := settled_congr (settled_setTask hsettled nextRelease fun _ => ⟨rfl, rfl⟩) (congrArg PrgSt.tasks hprg) hcore
    (by rw [hsys])
  obtain ⟨c, htask, hjsn, hcycle⟩ := startRelease_facts hthere 0 false can
  have hnext : u.task n = nextRelease (s.task n) := by
    rw [State.task, hprg]
    exact setTask_task hsettled.1 nextRelease
  refine ⟨_, hexec, ?_, ?_, ?_, hjsn.trans (by rw [hwb]; rfl), hcycle.trans (by rw [hprg]; rfl)⟩ <;> rw [htask, hnext, nextRelease]

/-! TASK_RELEASE_END. -/

theorem exec_taskReleaseEnd_idle {s : State} {n : Nat} (hidle : (s.task n).running = false) (ws : List (Nat × Nat)) (cs : List FbCall) :
    exec (.taskReleaseEnd n ws cs) s = .next s := by
  show execTaskReleaseEnd n ws cs s = _
  unfold execTaskReleaseEnd
  have hstays : (if n ≠ 0 ∧ (s.task n).running = true then s.resumeTask n else s) = s := if_neg (by simp [hidle])
  dsimp only
  rw [hstays, if_pos (.inr (mayEnd_idle hidle))]

/-- A release ended: overruns in a row are forgotten where it did not overrun (R298). -/
def endRelease (y : Task) : Task := { y with running := false, ovrRun := if y.excess then y.ovrRun else 0, excess := false }

/-- The work of a release done, its retained variables journalled (R242). -/
def State.releaseDone (s : State) (n : Nat) (ws : List (Nat × Nat)) (cs : List FbCall) : State :=
  ((s.taskDone n ws cs).setTask n endRelease).journalRetained s.retainedImage

theorem exec_taskReleaseEnd {s : State} {n : Nat} (hpos : 0 < n) (hmay : s.mayEnd n = true) (ws : List (Nat × Nat)) (cs : List FbCall) :
    exec (.taskReleaseEnd n ws cs) s = .next (
      if modeEmits (s.releaseDone n ws cs).sys.mode = true then
        (s.releaseDone n ws cs).driveLocal.sendTaskStreams n ((s.releaseDone n ws cs).task n).relNum (s.releaseDone n ws cs).outVal
      else s.releaseDone n ws cs) := by
  obtain ⟨hruns, hpair, -⟩ := mayEnd_iff.1 hmay
  have hnonzero : n ≠ 0 := by omega
  show execTaskReleaseEnd n ws cs s = _
  unfold execTaskReleaseEnd
  have hstays : (if n ≠ 0 ∧ (s.task n).running = true then s.resumeTask n else s) = s :=
    (if_pos ⟨hnonzero, hruns⟩).trans (resumeTask_up hpair)
  dsimp only
  rw [hstays, if_neg (by simp [hmay, hnonzero])]
  rfl

theorem journalRetained_facts {s : State} (hauth : s.authoritative = true) (before : List (Nat × Nat)) :
    (s.journalRetained before).wb.jsn = s.wb.jsn + 1 ∧
    (∃ v, (s.journalRetained before).wb.journal = s.wb.journal ++ [⟨s.wb.jsn + 1, s.sendGen, .retained s.prg.cycle v⟩]) ∧
    (s.journalRetained before).prg = s.prg := by
  rw [State.journalRetained, if_pos hauth, journalAdd_wb]
  refine ⟨rfl, ⟨_, rfl⟩, ?_⟩
  simp only [State.journalAdd_frame]

theorem releaseDone_facts {s : State} {n : Nat} (hthere : n < s.prg.tasks.length) (hauth : s.authoritative = true) (ws : List (Nat × Nat))
    (cs : List FbCall) : ((s.releaseDone n ws cs).task n).running = false ∧ (s.releaseDone n ws cs).wb.jsn = s.wb.jsn + 1 ∧
      (∃ v, (s.releaseDone n ws cs).wb.journal = s.wb.journal ++ [⟨s.wb.jsn + 1, s.sendGen, .retained s.prg.cycle v⟩]) ∧
      (s.releaseDone n ws cs).prg.cycle = s.prg.cycle := by
  have hview := taskDone_view s n ws cs
  have htasks : (s.taskDone n ws cs).prg.tasks = s.prg.tasks := (congrArg PrgSt.tasks hview :)
  have hcycle : (s.taskDone n ws cs).prg.cycle = s.prg.cycle := (congrArg PrgSt.cycle hview :)
  have hwb : (s.taskDone n ws cs).wb = s.wb := by simp only [State.taskDone_frame]
  have hauth' : ((s.taskDone n ws cs).setTask n endRelease).authoritative = true := by
    rw [← hauth]
    simp only [State.authoritative, State.rightful, State.handsOver, State.holds, State.setTask_frame, State.taskDone_frame]
  rw [State.releaseDone]
  generalize s.taskDone n ws cs = u at *
  obtain ⟨hjsn, ⟨v, hjournal⟩, hprg⟩ := journalRetained_facts hauth' s.retainedImage
  have hgen : (u.setTask n endRelease).sendGen = s.sendGen := by
    show u.sendGen = _
    rw [State.sendGen, State.holds, hwb]
    rfl
  refine ⟨?_, hjsn.trans ?_, ⟨v, hjournal.trans ?_⟩, ?_⟩
  · rw [State.task, hprg]
    exact congrArg Task.running (setTask_task (htasks ▸ hthere) endRelease)
  · show u.wb.jsn + 1 = _
    rw [hwb]
  · rw [hgen]
    show u.wb.journal ++ [⟨u.wb.jsn + 1, s.sendGen, .retained u.prg.cycle v⟩] = _
    rw [hwb, hcycle]
  · rw [hprg]
    exact hcycle

/-- The local outputs and the task's streams follow (R202); task, journal and cycle stay. -/
theorem exec_taskReleaseEnd_facts {s : State} {n : Nat} (hpos : 0 < n) (hmay : s.mayEnd n = true) (ws : List (Nat × Nat)) (cs : List FbCall) :
    ∃ t, exec (.taskReleaseEnd n ws cs) s = .next t ∧ t.prg = (s.releaseDone n ws cs).prg ∧ t.wb = (s.releaseDone n ws cs).wb := by
  refine ⟨_, exec_taskReleaseEnd hpos hmay ws cs, ?_⟩
  split
  · simp only [State.sendTaskStreams_frame, State.driveLocal_frame, and_self]
  · exact ⟨rfl, rfl⟩

/-- Settles O40, command by command: each clause of a start is one branch of `cycleStart_between`; an end of task 0 is `task0End_facts`, a scan
`scanSettled_facts` and `prepareCycle_facts`, a release `exec_taskRelease`. -/
theorem controlCyclesFollowTheirManifest : Obligations.ControlCyclesFollowTheirManifest := by
  unfold Obligations.ControlCyclesFollowTheirManifest
  refine ⟨fun s us himage => exec_cycleStart_stopped himage us, fun s us hmode hleads => exec_cycleStart_follower hmode hleads us,
    fun s us im hbetween hmode hearly => exec_cycleStart_early hbetween hmode hearly, ?safeHold, ?start,
    fun s us im hbetween hmode hdue hover _ hpend halone => exec_cycleStart_gone hbetween hmode hdue (judgeCycle_gone hover) hpend halone,
    fun s us im hbetween hmode hdue hmax hstays hstop => exec_cycleStart_stop hbetween hmode hdue (judgeCycle_stays hmax hstays) hstop,
    fun s ws cs hidle => exec_task0End_idle hidle ws cs, ?taskEnd, ?output,
    fun s st pid mac echo pts hforeign => exec_stationReplyRx_foreign hforeign pid echo pts, ?reply,
    fun s di ai hclosed => exec_scanTimeout_closed hclosed di ai, ?scan,
    fun s n di ai hearly hlate => exec_taskRelease_undue (releaseDue_early hearly hlate) di ai, ?release,
    fun s n ws cs hidle => exec_taskReleaseEnd_idle hidle ws cs, ?releaseEnd⟩
  case safeHold =>
    intro s us im himage hruns hmode hdue hpair hon hnet hsessions
    rw [exec_cycleStart_safeHold himage hruns hmode hdue hpair hon, sendOutputs_eq (s := s.cycleCounted) hsessions]
    rw [sendTaskStreams_eq (by exact hnet)]
    rfl
  case start =>
    intro s us im m hbetween hmode hdue hwatch hmax hstop hrings hsettled
    obtain ⟨hprepared, hnamed⟩ := exec_cycleStart_inTime hbetween hmode hdue hwatch hmax hstop (m := m)
    obtain ⟨-, -, -, -, -, -, hrestart⟩ := hbetween
    have hthere : (s.inTime us).settled 0 := settled_setTask (settled_congr hsettled rfl rfl rfl) _ fun _ => ⟨rfl, rfl⟩
    refine ⟨fun hnone hready => ?_, fun hnext => ?_⟩
    · obtain ⟨hprg, hwb, hcore, hprot, hquiet⟩ := takeManifest_facts (s.inTime us) m
      rw [hnamed hnone hready]
      generalize (s.inTime us).takeManifest m = v at hprg hwb hcore hprot hquiet
      have hthere' : v.settled 0 := settled_of_quiet hthere (by rw [hprg]) hcore hquiet
      obtain ⟨htask, hprg', hwb', -, hout', -, -⟩ := beginCycle_facts (s := v) (m := m) (by rw [hprg]; exact hrestart)
        (by rw [hprot]; exact hrings) hthere'
      refine ⟨_, rfl, ?_, ?_, congrArg Task.running htask, ?_, ?_⟩
      · rw [hprg']
      · rw [hprg']
      · rw [hwb', hwb]
        rfl
      · rw [hout']
        exact congrArg (fun q => q.2.2) hquiet
    · obtain ⟨htask, hprg, hwb, -, hout, hregs, hhq⟩ := beginCycle_facts (s := s.inTime us) (m := m) hrestart hrings hthere
      have hbefore : ((s.inTime us).task 0).ovrRun = 0 := congrArg Task.ovrRun (setTask_task (by exact hsettled.1) _)
      rw [hprepared hnext]
      refine ⟨_, rfl, ?_, ?_, ?_, congrArg Task.running htask, (congrArg Task.ovrRun htask).trans hbefore, ?_, ?_, ?_, hout, ?_, hregs, hhq⟩
      · rw [hprg]
      · rw [hprg]
      · rw [hprg]
      · rw [hwb]
        rfl
      · rw [hprg]
        rfl
      · rw [hprg]
        rfl
      · rw [hwb]
        rfl
  case taskEnd =>
    intro s ws cs hmay hauth
    obtain ⟨t, hexec, hidle, hscan, hjsn, hjournal, hcycle, himage, hregs, hhq, -⟩ := task0End_facts hmay hauth ws cs
    exact ⟨t, hexec, hidle, hscan, hjsn, hjournal, hcycle, himage, hregs, hhq⟩
  case output =>
    intro s id v i hmay hauth hitem hkind htarget
    obtain ⟨t, hexec, -, -, -, -, -, -, -, -, hout, hitems⟩ := task0End_facts hmay hauth [(id, v)] []
    have hdone := taskDone_out (n := 0) (v := v) hitem hkind htarget
    refine ⟨t, hexec, ?_, by rw [hitems, hdone]⟩
    rw [hout, hdone]
    exact (assocSet_get _ id v id).trans (if_pos rfl)
  case reply =>
    intro s st k x pts hfind hget hopen hon
    refine ⟨_, exec_stationReplyRx hfind hget hopen hon pts, ?_, ?_, ?_, fun hnone => ?_⟩
    · simp only [State.station, State.nameItem_frame]
      exact setStation_station s k _
    · simp only [State.nameItem_frame, State.setStation_frame]
    · simp only [State.nameItem_frame, State.setStation_frame]
    · rw [nameItem_new (by simpa only [State.setStation_frame] using hnone)]
      simp only [State.setStation_frame]
  case scan =>
    intro s di ai hopen hleads hrestart
    obtain ⟨got, hexec⟩ := exec_scanTimeout hopen hleads di ai
    obtain ⟨hprg, hwb, htb, hregs⟩ := scanSettled_facts s di ai got
    generalize (s.closeScan.sampled di ai).settleAll got = u at hexec hprg hwb htb hregs
    obtain ⟨m, hprg', htask, hcycle, hcut, hangle, hnew, hunused, hjsn⟩ := prepareCycle_facts (s := u) (by rw [hprg]; exact hrestart)
    refine ⟨_, m, hexec, ?_, ?_, htask, ?_, ?_, ?_, hnew, hunused, ?_, ?_⟩
    · rw [hprg', hprg]
    · rw [hprg']
    · rw [hcycle, hprg]
    · rw [hcut, State.jsnCut, hwb]
      rfl
    · rw [hangle, htb]
    · rw [hjsn, hwb]
    · rw [← hregs]
      simp only [State.prepareCycle_frame]
  case release =>
    rintro s n di ai x rfl hpos hn hthere hpresent hlate hdue hone hruns hleads
    exact ⟨fun hrunning hfew hlimit => ⟨_,
        exec_taskRelease_overrun hpos hn hthere hpresent hlate hdue hone hruns hleads hrunning hfew hlimit di ai,
        releaseOverran_says hthere hfew⟩,
      fun hidle hsettled => exec_taskRelease_starts hpos hn hpresent hlate hdue hone hruns hleads hidle hsettled di ai⟩
  case releaseEnd =>
    intro s n ws cs hpos hmay hauth
    obtain ⟨t, hexec, hprg, hwb⟩ := exec_taskReleaseEnd_facts hpos hmay ws cs
    have hfacts := releaseDone_facts (lt_of_running (mayEnd_iff.1 hmay).1) hauth ws cs
    rw [State.task, ← hprg, ← hwb] at hfacts
    exact ⟨t, hexec, hfacts⟩

end Sys2Proof.Machine
end

section
/-! SUPPORT. Accesses of a hart under its MPU, and the fence that switches the MPU's regions (R257, R267 to R270, R272 to R276). -/

namespace Sys2Proof.Machine

/-! Accesses of a hart. -/

theorem exec_coreAccess_stopped {s : State} {p : Nat} {b : Bool} (hstop : s.coreRuns p b = false) (pr : Priv) (k a n d : Nat) (c : Bool) :
    exec (.coreAccess p b pr k a n d c) s = .next s := congrArg Host.Outcome.next (if_pos hstop)

theorem exec_coreAccess_waits {s : State} {p : Nat} {b : Bool} (hruns : s.coreRuns p b = true) (hpend : (s.mpu (hartMpu p b)).syncPend = true)
    (hown : (s.mpu (hartMpu p b)).own = true) (pr : Priv) (k a n d : Nat) (c : Bool) :
    exec (.coreAccess p b pr k a n d c) s = .next (s.answerErr (.core p b pr) .waiting) := by
  show execCoreAccess p b pr k a n d c s = _
  unfold execCoreAccess
  dsimp only
  rw [if_neg (by simp [hruns]), if_pos ⟨hpend, hown⟩]

/-- A refused access ends at its first refused address (R268, R270). -/
theorem exec_coreAccess_refused {s : State} {p x : Nat} {b : Bool} {pr : Priv} {k a n : Nat} (hruns : s.coreRuns p b = true)
    (hfree : (s.mpu (hartMpu p b)).syncPend = true → (s.mpu (hartMpu p b)).own = false)
    (hrefused : firstRefused (s.mpuRegions (hartMpu p b)) ((s.pair p).state == 1) (privOf pr) (accKind k) maxParts a (a + n) = some x)
    (d : Nat) (c : Bool) :
    exec (.coreAccess p b pr k a n d c) s =
      .next (({ s.mpuFault (hartMpu p b) x (privOf pr) (accKind k) with core :=
        { (s.mpuFault (hartMpu p b) x (privOf pr) (accKind k)).core with exc := some (hartMpu p b, faultCause (accKind k), x) } }).answerErr
          (.core p b pr) .accessFault) := by
  show execCoreAccess p b pr k a n d c s = _
  unfold execCoreAccess
  dsimp only
  rw [if_neg (by simp [hruns]), if_neg (fun h => by simp [hfree h.1] at h), hrefused]

/-- A refused access is counted in its MPU, recorded and raised (R270). -/
theorem mpuFault_says (s : State) (m a : Nat) (p : AccPriv) (k : AccKind) :
    Says { s with core := { s.core with mpus := updAt s.core.mpus m fun y => { y with
      faultCount := satAt 65535 (y.faultCount + 1), faultAddr := a % 2 ^ 48, faultPriv := p.num, faultKind := k.num } } }
      [(.mpuFault, [m, a, p.num, k.num])] [112] (s.mpuFault m a p k) :=
  ((Says.refl _).record .mpuFault [m, a, p.num, k.num]).raise 112 (by decide)

/-- Reports made before an exception and an answer are those of the state with both (R270). -/
theorem Says.faulted {u t : State} {rs : List (RecName × List Nat)} {es : List Nat} (h : Says u rs es t) (q : Requester) (e : BusErr)
    (x : Nat × Nat × Nat) : Says ({ u with core := { u.core with exc := some x } }.answerErr q e) rs es
      ({ t with core := { t.core with exc := some x } }.answerErr q e) :=
  h.upd (fun v => { v with core := { v.core with exc := some x } }.answerErr q e) (fun _ _ _ _ _ => rfl) rfl rfl

theorem accKind_le_one {k : Nat} (h : k ≤ 1) : accKind k ≠ .store := by
  unfold accKind
  split
  · decide
  · rw [if_pos (by omega)]
    decide

theorem accKind_one_lt {k : Nat} (h : 1 < k) : accKind k = .store := by
  unfold accKind
  rw [if_neg (by omega), if_neg (by omega)]

/-- A little-endian store leaves the bytes of its number and no other change (R257). -/
theorem read_storeWord {m : Memory} (h : Memory.wf m = true) (a n d : Nat) :
    (∀ x, x < a ∨ a + n ≤ x → Memory.read (Memory.writeN m a (leBytes n d)) x = Memory.read m x) ∧
    ∀ i, i < n → Memory.read (Memory.writeN m a (leBytes n d)) (a + i) = (leBytes n d).getD i 0 := by
  refine ⟨fun x hx => Memory.read_writeN_outside h a _ x (by rwa [leBytes_length]), fun i hi => ?_⟩
  have hi' : i < (leBytes n d).length := by rwa [leBytes_length]
  rw [Memory.read_writeN_inside h a _ i hi', List.getD_eq_getElem _ _ hi']

/-! The fence. -/

/-- What bars the debug master and the host keeps no core from MPU_m_CTRL (R276, R278). -/
theorem exec_mpuSync_core (s : State) (p m : Nat) (b : Bool) (pr : Priv) :
    exec (.mpuSync (.core p b pr) m) s = .next (s.writeMpuCtrl (.core p b pr) m 1) := rfl

/-- The SYNC bit reaches an MPU that is there (table MPU instances). -/
theorem syncTaken {s : State} {m : Nat} (hthere : s.mpuAbsent m = false) : ¬ (s.mpuAbsent m = true ∨ bitOf (1 : Word).toNat 0 = false) := by
  rw [hthere]
  decide

/-- Only machine mode on a lockstep pair synchronises an MPU (R276). -/
theorem writeMpuCtrl_barred {s : State} {q : Requester} {m : Nat} (hthere : s.mpuAbsent m = false) (hwho : s.machineLockstep q = false) :
    s.writeMpuCtrl q m 1 = s.refuseWrite q (RegName.mpuCtrl.addr m 0) := by
  unfold State.writeMpuCtrl
  dsimp only
  rw [if_neg (syncTaken hthere), hwho]
  rfl

theorem machineLockstep_machine {s : State} {p : Nat} (h : (s.core.pairs.getD p {}).state = 0) :
    s.machineLockstep (.core p false .machine) = true := beq_iff_eq.2 h

theorem machineLockstep_other {s : State} {p : Nat} {b : Bool} {pr : Priv} (h : b = true ∨ pr ≠ .machine) :
    s.machineLockstep (.core p b pr) = false := by
  unfold State.machineLockstep
  split
  · next heq =>
    cases heq
    simp at h
  · rfl

/-- The fence looks for a misaligned region in the copy that it takes of the staged ones (R272, R274). -/
theorem find_copiedRegion (s : State) (m : Nat) :
    ((List.range 32).find? fun r => regionBad (((List.range 32).map (s.staged m)).getD r {})) =
      (List.range 32).find? fun r => regionBad (s.staged m r) := by
  refine List.find?_congr fun r hr => ?_
  have hlt : r < 32 := List.mem_range.1 hr
  rw [List.getD_eq_getElem _ _ (by simpa using hlt), List.getElem_map, List.getElem_range]

/-- Aligned regions are copied whole and wait for the fence's end (R272, R273). -/
theorem writeMpuCtrl_aligned {s : State} {q : Requester} {m : Nat} (hthere : s.mpuAbsent m = false) (hwho : s.machineLockstep q = true)
    (haligned : ∀ r, r < 32 → regionBad (s.staged m r) = false) :
    s.writeMpuCtrl q m 1 = { s with core := { s.core with mpus := updAt s.core.mpus m fun x =>
      { x with next := (List.range 32).map (s.staged m), syncPend := true, own := isOwnMpu q m } } } := by
  have hnone : (List.range 32).find? (fun r => regionBad (s.staged m r)) = none := by
    rw [List.find?_range_eq_none]
    simpa using haligned
  unfold State.writeMpuCtrl
  dsimp only
  rw [if_neg (syncTaken hthere), hwho, find_copiedRegion, hnone]
  rfl

/-- The first misaligned region is named, and no region is taken (R274). -/
theorem writeMpuCtrl_misaligned {s : State} {q : Requester} {m r : Nat} (hthere : s.mpuAbsent m = false) (hwho : s.machineLockstep q = true)
    (hr : r < 32) (hbad : regionBad (s.staged m r) = true) (hfirst : ∀ x, x < r → regionBad (s.staged m x) = false) :
    s.writeMpuCtrl q m 1 =
      { s with core := { s.core with mpus := updAt s.core.mpus m fun x => { x with syncErr := true, errRegion := r } } }.refuseWrite q
        (RegName.mpuCtrl.addr m 0) := by
  have hsome : (List.range 32).find? (fun r => regionBad (s.staged m r)) = some r := by
    rw [List.find?_range_eq_some]
    exact ⟨hbad, List.mem_range.2 hr, by simpa using hfirst⟩
  unfold State.writeMpuCtrl
  dsimp only
  rw [if_neg (syncTaken hthere), hwho, find_copiedRegion, hsome]
  rfl

/-- Settles O38: an access by what its MPU makes of it, in DRAM by `coreBus_dram`; the fence by the first misaligned staged region. -/
theorem coreAccessesAreCheckedWhole : Obligations.CoreAccessesAreCheckedWhole := by
  unfold Obligations.CoreAccessesAreCheckedWhole
  refine ⟨fun s p b pr k a n d c hstop => exec_coreAccess_stopped hstop pr k a n d c,
    fun s p b pr k a n d c hruns hpend hown => exec_coreAccess_waits hruns hpend hown pr k a n d c, ?refused, ?admitted, ?aligned, ?misaligned,
    ?barred, ?fence⟩
  case refused =>
    rintro s p b pr k a n d x m c hruns rfl hfree hrefused
    exact ⟨_, exec_coreAccess_refused hruns hfree hrefused d c,
      (mpuFault_says s (2 * p + ofBool b) x (privOf pr) (accKind k)).faulted (.core p b pr) .accessFault _⟩
  case admitted =>
    intro s p b pr k a n d m hruns hm hfree hadmitted hlow hhigh
    have hidle : ((s.mpu m).syncPend && (s.mpu m).own) = false := by
      rw [Bool.and_eq_false_imp]
      exact hfree
    have hexec := coreAccess_admitted (d := d) hruns hm hidle hadmitted
    rw [coreBus_dram hlow hhigh] at hexec
    refine ⟨fun hload => ?_, fun hstore hwf => ⟨_, hexec, ?_⟩⟩
    · rw [hexec, if_neg (accKind_le_one hload)]
    · rw [if_pos (accKind_one_lt hstore)]
      exact ⟨rfl, read_storeWord hwf a n d⟩
  case aligned =>
    intro s p m hpair hthere haligned
    rw [exec_mpuSync_core, writeMpuCtrl_aligned hthere (machineLockstep_machine hpair) haligned]
    rfl
  case misaligned =>
    intro s p m r hpair hthere hr hbad hfirst
    refine ⟨_, exec_mpuSync_core .., ?_⟩
    rw [writeMpuCtrl_misaligned hthere (machineLockstep_machine hpair) hr hbad hfirst]
    exact refuse_says _ _ _
  case barred =>
    intro s p m b pr hwho hthere
    refine ⟨_, exec_mpuSync_core .., ?_⟩
    rw [writeMpuCtrl_barred hthere (machineLockstep_other hwho)]
    exact refuse_says _ _ _
  case fence =>
    exact fun s m => ⟨fun hidle => congrArg Host.Outcome.next (if_neg (by simp [hidle])), fun hpend => congrArg Host.Outcome.next (if_pos hpend),
      fun hbusy => congrArg Host.Outcome.next (if_pos hbusy), fun hdrained => congrArg Host.Outcome.next (if_neg (by simp [hdrained]))⟩

end Sys2Proof.Machine
end

section
/-! SUPPORT. Lockstep mismatches, the comparator's and the pairs' self-tests (R258 to R261), and the debug master with its unlock (R277 to R281,
R628). -/

namespace Sys2Proof.Machine

/-! Lockstep pairs. -/

/-- A pair of the module that is powered and in lockstep: the one that its comparator watches (R255, R256). -/
def State.watched (s : State) (k : Nat) : Prop := s.powered (pairDomain k) = true ∧ (s.pair k).state = 0 ∧ k < 4

theorem exec_lockstepMismatch {s : State} {k : Nat} (hpair : s.watched k) (cause port v1 v2 pc : Nat) :
    exec (.lockstepMismatch k cause port v1 v2 pc) s = .next (s.mismatch k cause [cause, port, v1, v2, pc] (cause != 6 && cause != 7)) :=
  congrArg Host.Outcome.next (if_pos hpair)

theorem exec_comparatorSelftest_undetected {s : State} {k : Nat} (hpair : s.watched k) :
    exec (.comparatorSelftest k false) s = .next ((s.record .comparatorFault [k]).mismatch k 6 [6, 0, 0, 0, 0] false) :=
  congrArg Host.Outcome.next (if_pos ⟨rfl, hpair⟩)

/-- Causes 6 and 7 are uncontained (table Contained lockstep mismatch). -/
theorem contained_iff {cause : Nat} : (cause != 6 && cause != 7) = false ↔ cause = 6 ∨ cause = 7 := by
  simp only [bne, Bool.and_eq_false_iff, Bool.not_eq_false', beq_iff_eq]

/-- Reports made before a pair is lost are those of the state that has lost it. -/
theorem Says.losePair {u t : State} {rs : List (RecName × List Nat)} {es : List Nat} (h : Says u rs es t) (k : Nat) (f : PairSt → PairSt) :
    Says ((u.setPair k f).setUnit k) rs es ((t.setPair k f).setUnit k) :=
  h.upd (fun w => (w.setPair k f).setUnit k) (fun _ _ _ _ _ => rfl) rfl rfl

/-- A service that cannot move restarts the module with cause 5 (R261). -/
theorem moveService_uncontained (s : State) (second : Bool) : s.moveService false second = s.dropFence.restart 5 := by
  unfold State.moveService
  exact if_neg fun h => Bool.false_ne_true h.1

/-- A contained first mismatch moves the service to the healthy backup pair (R261). -/
theorem moveService_backup {s : State} (hsafe : s.pairSafe (s.fld .coreSvc 4 2) = true) :
    s.moveService true false = { s with core := { s.core with svcPair := s.fld .coreSvc 4 2 } } := if_pos ⟨rfl, rfl, hsafe⟩

/-- A backup pair in order is as fit after another pair has mismatched as before (R261). -/
theorem pairSafe_of_reports {s v : State} {k b : Nat} {f : PairSt → PairSt} (h : Reports ((s.setPair k f).setUnit k) v) (hb : b < 4) (hne : b ≠ k)
    (hstate : (s.pair b).state = 0) (hup : s.unitUp b = true) : v.pairSafe b = true := by
  obtain ⟨hpair, hbit⟩ := setPair_other s hne f
  have hcore : v.pair b = s.pair b := by rw [← hpair, State.pair, h.core]; rfl
  have hdown : bitOf v.sys.unitHealth b = false := by
    rw [h.unitHealth, hbit]
    simpa [State.unitUp] using hup
  simp only [State.pairSafe, hcore, hstate, hdown, hb, decide_true, beq_self_eq_true, Bool.not_false, Bool.and_self]

theorem exec_coreSelftestDone {s : State} {k : Nat} {pass : Bool} (hasked : (s.pair k).selftest = true) :
    exec (.coreSelftestDone k pass) s = .next (if pass ∧ s.recentMismatches k < 3 then
      ((s.setPair k fun p => { p with state := 0, selftest := false }).clearUnit k).record .corePairRestored [k]
    else (s.setPair k fun p => { p with state := 3, selftest := false }).record .corePairRetired [k]) :=
  congrArg Host.Outcome.next (if_neg (by simp [hasked]))

/-- A pair that failed its self-test, or mismatched too often, is retired (R260). -/
theorem exec_coreSelftestDone_retires {s : State} {k : Nat} {pass : Bool} (hasked : (s.pair k).selftest = true)
    (hbad : ¬ (pass = true ∧ s.recentMismatches k < 3)) : ∃ t, exec (.coreSelftestDone k pass) s = .next t ∧
      Says (s.setPair k fun p => { p with state := 3, selftest := false }) [(.corePairRetired, [k])] [] t := by
  refine ⟨_, exec_coreSelftestDone hasked, ?_⟩
  rw [if_neg hbad]
  exact (Says.refl _).record .corePairRetired [k]

/-! The debug master. -/

theorem exec_debugRead {s : State} {a : Nat} (v : Word) (hdm : dmAt a = none) : exec (.debugAccess false a v) s = .next (s.debugRead a) := by
  show execDebugAccess false a v s = _
  unfold execDebugAccess
  rw [hdm]

theorem exec_debugWrite {s : State} {a : Nat} (v : Word) (hdm : dmAt a = none) : exec (.debugAccess true a v) s = .next (s.debugWrite a v) := by
  show execDebugAccess true a v s = _
  unfold execDebugAccess
  rw [hdm]

/-- While no unlock holds, a read of a locked region is denied and ends in a bus error (R277). -/
theorem debugRead_locked {s : State} {a : Nat} (hlocked : debugLocked a = true) (hunlock : s.dbg.unlocked = false) :
    s.debugRead a = (s.denyDebug a).answerErr .debug .busError := if_pos (by simp [State.debugBlind, hlocked, hunlock])

/-- No unlock opens a locked region to writes (R277, R281). -/
theorem debugWrite_locked {s : State} {a : Nat} (hlocked : debugLocked a = true) (v : Word) : s.debugWrite a v = s.denyDebug a := by
  have hbar : s.writeBarred .debug a = some (s.denyDebug a) := if_pos hlocked
  unfold State.debugWrite
  rw [hbar]

theorem onBus_dram {a : Nat} (hlow : 0x000800000000 ≤ a) (hhigh : a < 0x000C00000000) : onBus a = true := by
  simp [onBus, hlow, hhigh]

theorem inRegs_dram {a : Nat} (hlow : 0x000800000000 ≤ a) : inRegs a = false := by
  simp only [inRegs, decide_eq_false_iff_not]
  omega

/-- A read of DRAM outside the locked regions answers its four bytes. -/
theorem debugRead_dram {s : State} {a : Nat} (hopen : debugLocked a = false) (hlow : 0x000800000000 ≤ a) (hhigh : a + 3 < 0x000C00000000) :
    s.debugRead a = s.answer .debug (leNat ((List.range 4).map fun i => Memory.read s.mem (a + i))) := by
  unfold State.debugRead
  rw [if_neg (by simp [State.debugBlind, hopen]), if_neg (by simp [inRegs_dram hlow]),
    if_pos ⟨onBus_dram hlow (by omega), onBus_dram (by omega) hhigh⟩, loadBytes_dram hlow]

theorem debugMayWrite_iff {s : State} : s.debugMayWrite = true ↔ s.sys.mode = .service ∨ s.sys.mode = .quarantine := by
  simp only [State.debugMayWrite, Bool.or_eq_true, beq_iff_eq]

/-- With nothing else written, sbreadonaddr is clear and a write of sbaddress0 is held alone (R628). -/
theorem dmWrite_sbaddress {s : State} (hempty : s.dbg.dm = []) (v : Word) : s.dmWrite 57 v = { s with dbg := { s.dbg with dm := [(57, v)] } } := by
  have hsbcs : bitOf (s.dm 56) 20 = false := by
    unfold State.dm
    rw [hempty]
    rfl
  have hset : s.setDm 57 v.toNat = { s with dbg := { s.dbg with dm := [(57, v)] } } := by
    unfold State.setDm
    rw [hempty, BitVec.ofNat_toNat, BitVec.setWidth_eq]
    rfl
  have hwrite : s.dmWrite 57 v = if bitOf (s.dm 56) 20 then (s.setDm 57 v.toNat).sbRead else s.setDm 57 v.toNat := rfl
  rw [hwrite, hsbcs, hset]
  rfl

/-- A good token under an unused nonce unlocks until its expiry (R280, R281, R576). -/
theorem tokenGo_good {s : State} {a : Artefact} (hgood : s.judgeArtefact (some 5) s.dbg.token = .good a) (hfresh : s.nonceUsed a = false) :
    s.tokenGo = ({ s.keepNonce a with dbg := { (s.keepNonce a).dbg with unlocked := true, expiry := a.notAfter } }).record .debugUnlock
      [tokenNonce a] := by
  unfold State.tokenGo
  rw [hgood]
  exact if_neg (by simp [hfresh])

theorem keepNonce_dbg (s : State) (a : Artefact) : (s.keepNonce a).dbg = s.dbg := by
  unfold State.keepNonce
  dsimp only
  split
  · rfl
  · split <;> rfl

theorem exec_debugTokenGo {s : State} {q : Requester} (hopen : s.writeBarred q (RegName.dbgCtrl.addr 0 0) = none) :
    exec (.debugTokenGo q) s = .next s.tokenGo := by
  show execDebugTokenGo q s = _
  unfold execDebugTokenGo
  rw [hopen]

theorem exec_debugRelock {s : State} {q : Requester} (hopen : s.writeBarred q (RegName.dbgCtrl.addr 0 0) = none) :
    exec (.debugRelock q) s = .next s.relock := by
  show execDebugRelock q s = _
  unfold execDebugRelock
  rw [hopen]

/-- A standing unlock ends with its record (R281). -/
theorem relock_says {s : State} (h : s.dbg.unlocked = true) :
    Says { s with dbg := { s.dbg with unlocked := false, expiry := none } } [(.debugRelock, [])] [] s.relock := by
  unfold State.relock
  rw [if_pos h]
  exact (Says.refl _).record .debugRelock []

theorem relock_locked {s : State} (h : s.dbg.unlocked = false) : s.relock = s := if_neg (by simp [h])

theorem unlockPassed_iff {s : State} {e : PlantTime} {n : Nat} (hexpiry : s.dbg.expiry = some e) (hnow : s.judgeTime = some n) :
    s.unlockPassed = true ↔ e.total ≤ n := by
  unfold State.unlockPassed
  rw [hexpiry, hnow]
  exact decide_eq_true_iff

/-- Settles O39: mismatches by `mismatch_steps` and what the service does after them; the debug master by what bars its accesses. -/
theorem lockstepAndDebugAreContained : Obligations.LockstepAndDebugAreContained := by
  unfold Obligations.LockstepAndDebugAreContained
  refine ⟨?lost, ?restarts, ?moves, fun s k => ⟨congrArg Host.Outcome.next (if_neg (by simp)), ?undetected⟩, ?selftest, ?locked, ?dram, ?halt, ?dm,
    ?token, ?relock, ?stands, fun s e n => unlockPassed_iff⟩
  case lost =>
    intro s k cause port v1 v2 pc hk hpow hstate hsvc hmode hctl hcause
    have hsaid := mismatch_says (s := s) (cause := cause) (args := [cause, port, v1, v2, pc]) (c := cause != 6 && cause != 7) hsvc hmode hctl
    rw [Nat.mod_eq_of_lt hcause] at hsaid
    exact ⟨_, exec_lockstepMismatch ⟨hpow, hstate, hk⟩ .., hsaid⟩
  case restarts =>
    intro s k cause port v1 v2 pc hk hpow hstate hsvc hmode hctl hcause
    obtain ⟨v, -, hv⟩ := mismatch_steps (s := s) (k := k) (cause := cause) (args := [cause, port, v1, v2, pc]) (c := cause != 6 && cause != 7)
      hmode hctl
    rw [if_pos hsvc, contained_iff.2 hcause, moveService_uncontained] at hv
    obtain ⟨hboot, hreset, hfence, hlease, -⟩ := State.restart_facts v.dropFence 5
    exact ⟨_, (exec_lockstepMismatch ⟨hpow, hstate, hk⟩ ..).trans (by rw [contained_iff.2 hcause, hv]), hboot, hreset, hfence, hlease⟩
  case moves =>
    rintro s k b cause port v1 v2 pc hk hpow hstate hsvc hmode hctl hcause hfirst rfl hne hbstate hbup
    have hcontained : (cause != 6 && cause != 7) = true := by
      rw [← Bool.not_eq_false, contained_iff]
      omega
    obtain ⟨v, hsaid, hv⟩ := mismatch_steps (s := s) (k := k) (cause := cause) (args := [cause, port, v1, v2, pc]) (c := true) hmode hctl
    have hfld : v.fld .coreSvc 4 2 = s.fld .coreSvc 4 2 := by
      simp only [State.fld, State.reg, hsaid.toReports.regs]
      rfl
    have hsafe : v.pairSafe (v.fld .coreSvc 4 2) = true := by
      rw [hfld]
      exact pairSafe_of_reports hsaid.toReports (bitsOf_lt _ 4 2) hne hbstate hbup
    have hsecond : (s.pair k).mismatches.any s.within100ms = false := hfirst
    rw [if_pos hsvc, hsecond, moveService_backup hsafe] at hv
    have hlost : v.unitUp k = false := by
      rw [State.unitUp, hsaid.toReports.unitHealth]
      exact setUnit_down s k
    exact ⟨{ v with core := { v.core with svcPair := v.fld .coreSvc 4 2 } },
      (exec_lockstepMismatch ⟨hpow, hstate, hk⟩ ..).trans (by rw [hcontained, hv]), hfld, hsaid.toReports.mode, hsaid.toReports.wb, hlost⟩
  case undetected =>
    intro hk hpow hstate hsvc hmode hctl
    have hfault := (Says.refl s).record .comparatorFault [k]
    have hrep := hfault.toReports
    refine ⟨_, exec_comparatorSelftest_undetected ⟨hpow, hstate, hk⟩, ?_⟩
    generalize s.record .comparatorFault [k] = u at hfault hrep
    have hlost := mismatch_says (s := u) (k := k) (cause := 6) (args := [6, 0, 0, 0, 0]) (c := false) (by rwa [hrep.core])
      (by rwa [hrep.mode]) (by rwa [hrep.unitHealth])
    rw [hrep.tb] at hlost
    exact (hfault.losePair k _).trans hlost
  case selftest =>
    refine fun s k hasked => ⟨fun hfew => ⟨_, exec_coreSelftestDone hasked, ?_⟩,
      fun hmany => exec_coreSelftestDone_retires hasked (by omega), exec_coreSelftestDone_retires hasked (by simp)⟩
    rw [if_pos ⟨rfl, hfew⟩]
    exact (Says.refl _).record .corePairRestored [k]
  case locked =>
    intro s a v hlocked hdm
    refine ⟨fun hunlock => ⟨_, exec_debugRead v hdm, ?_⟩, _, exec_debugWrite v hdm, ?_⟩
    · rw [debugRead_locked hlocked hunlock]
      exact (deny_says s a).upd (fun w => w.answerErr .debug .busError) (fun _ _ _ _ _ => rfl) rfl rfl
    · rw [debugWrite_locked hlocked]
      exact deny_says s a
  case dram =>
    intro s a v hopen hdm hlow hhigh
    rw [exec_debugRead v hdm, debugRead_dram hopen hlow hhigh]
    rfl
  case halt =>
    exact fun s k => ⟨fun hmode => congrArg Host.Outcome.next (if_pos (debugMayWrite_iff.2 hmode)),
      fun hservice hquarantine => ⟨_, congrArg Host.Outcome.next (if_neg fun h => (debugMayWrite_iff.1 h).elim hservice hquarantine), deny_says s _⟩⟩
  case dm =>
    exact fun s v => ⟨congrArg Host.Outcome.next (dmWrite_sbaddress rfl v), rfl⟩
  case token =>
    intro s q a hopen hgood hfresh
    refine ⟨_, exec_debugTokenGo hopen, ?_⟩
    rw [tokenGo_good hgood hfresh, keepNonce_dbg]
    exact (Says.refl _).record .debugUnlock [tokenNonce a]
  case relock =>
    exact fun s q hopen hunlock => ⟨_, exec_debugRelock hopen, fun hpassed => congrArg Host.Outcome.next (if_pos hpassed), relock_says hunlock⟩
  case stands =>
    rintro s (hlocked | hearly)
    · exact congrArg Host.Outcome.next ((congrArg (ite _ · s) (relock_locked hlocked)).trans (ite_self s))
    · exact congrArg Host.Outcome.next (if_neg (by simp [hearly]))

end Sys2Proof.Machine
end


section
/-! SUPPORT. What program commands do at a covered boundary: restarts and forces, command by command (R297, R307, R311 to R314). -/

namespace Sys2Proof.Machine

/-- Program work that the cut of no cycle covers yet waits (R297). -/
theorem progOp_uncovered {s : State} {j o : Nat} {op : Op} (hholds : s.holds = true) (hready : s.ready (.jsn j) 10 o op) (hjsn : op.jsn = some j)
    (hcut : s.wb.covered < j) (f : Op → State → State) : s.progOp (.jsn j) o f = s := by
  obtain ⟨hop, hengine, hcode⟩ := hready
  rw [State.progOp, State.coveredOp, State.cutOp, if_pos hholds, State.engineOp, hop]
  dsimp only
  rw [if_pos ⟨hengine, hcode⟩, hjsn]
  exact if_neg (Nat.not_le.2 hcut)

/-! RESTART. -/

theorem exec_restart {s : State} {w : WorkRef} {op : Op} (h : s.due w 0x20 op) : exec (.restart w) s = .next (
    if 1 < dSubop op.bytes then s.finish op stBadDesc 0
    else if s.prg.stage ≠ 0 then s.finish op stStageOrder 0
    else (s.applyRestart (dSubop op.bytes == 1) 0).finish op stOk 0) := by
  have hholds' : (s.applyRestart (dSubop op.bytes == 1) 0).holds = true := holds_of_wb (applyRestart_facts s _).1 h.1
  show execRestart w s = _
  rw [execRestart, progOp_due h, finishCut_holds h.1, finishCut_holds h.1, finishCut_holds hholds']

theorem exec_restart_cold {s : State} {w : WorkRef} {op : Op} (h : s.due w 0x20 op) (hcold : dSubop op.bytes = 1) (hstage : s.prg.stage = 0) :
    exec (.restart w) s = .next ((s.applyRestart true 0).finish op stOk 0) := by
  rw [exec_restart h, hcold, if_neg (by decide), if_neg (by simp [hstage])]
  rfl

theorem exec_restart_warm {s : State} {w : WorkRef} {op : Op} (h : s.due w 0x20 op) (hwarm : dSubop op.bytes = 0) (hstage : s.prg.stage = 0) :
    exec (.restart w) s = .next ((s.applyRestart false 0).finish op stOk 0) := by
  rw [exec_restart h, hwarm, if_neg (by decide), if_neg (by simp [hstage])]
  rfl

/-! FORCE_SET. -/

theorem exec_forceSet_badLength {s : State} {w : WorkRef} {op : Op} (h : s.due w 0x27 op) (hlen : dLength op.bytes ≠ 64) :
    exec (.forceSet w) s = .next (s.finish op stBadDesc 0) :=
  congrArg Host.Outcome.next ((progOp_due h _).trans ((if_pos hlen).trans (finishCut_holds h.1 ..)))

theorem exec_forceSet_noItem {s : State} {w : WorkRef} {op : Op} (h : s.due w 0x27 op) (hlen : dLength op.bytes = 64)
    (hitem : s.progItem (leField (s.buffer op) 0 8) = none) : exec (.forceSet w) s = .next (s.finish op stNoItem 0) := by
  show execForceSet w s = _
  rw [execForceSet, progOp_due h]
  dsimp only
  rw [if_neg (by simp [hlen]), hitem, finishCut_holds h.1]

/-- The force that a FORCE_SET puts on an item: its entry's element and value, set now by the owner of the ring (table Force entry). -/
def State.forceOf (s : State) (op : Op) (i : ProgItem) : Force :=
  { ident := leField (s.buffer op) 0 8, element := leField (s.buffer op) 8 2, target := i.target, type := i.type,
    value := leField (s.buffer op) 16 16, setTime := s.tb.pt, setStatus := s.status, setBy := (s.queue op.ring).owner }

/-- The forces that a FORCE_SET leaves standing: those of other elements (R311). -/
def State.otherForces (s : State) (op : Op) : List Force := s.prg.forces.filter fun f =>
  !(f.ident == leField (s.buffer op) 0 8 && f.element == leField (s.buffer op) 8 2 && f.target == leField (s.buffer op) 10 1)

/-- The state in which the force of a FORCE_SET has replaced that of its element (R311, R312). -/
def State.forcePlaced (s : State) (op : Op) (i : ProgItem) : State :=
  { s with prg := s.prg.placeForce (s.otherForces op ++ [s.forceOf op i]) (s.forceOf op i) i.init }

/-- The same with the record FORCE_SET and event source 89 (R314). -/
def State.forceTold (s : State) (op : Op) (i : ProgItem) : State :=
  ((s.forcePlaced op i).record .forceSet ((forceBytes (s.forceOf op i)).map (·.toNat))).raise 89

theorem forceTold_says (s : State) (op : Op) (i : ProgItem) :
    Says (s.forcePlaced op i) [(.forceSet, (forceBytes (s.forceOf op i)).map (·.toNat))] [89] (s.forceTold op i) :=
  ((Says.refl _).record .forceSet _).raise 89 (by decide)

theorem placeForce_forces (p : PrgSt) (fs : List Force) (f : Force) (init : Nat) : (p.placeForce fs f init).forces = fs := by
  unfold PrgSt.placeForce
  dsimp only
  split <;> rfl

theorem placeForce_inImage (p : PrgSt) (fs : List Force) (f : Force) (init : Nat) :
    (p.placeForce fs f init).inImage = p.inImage.map fun x => (x.1, forced fs 1 x.1 x.2) := by
  unfold PrgSt.placeForce
  dsimp only
  split <;> rfl

/-- An input point shows its value as the new forces leave it (R312). -/
theorem mem_placeForce_inImage {p : PrgSt} {fs : List Force} {f : Force} {init : Nat} {x : Nat × Nat} :
    x ∈ (p.placeForce fs f init).inImage ↔ ∃ v, (x.1, v) ∈ p.inImage ∧ x.2 = forced fs 1 x.1 v := by
  rw [placeForce_inImage, List.mem_map]
  constructor
  · rintro ⟨y, hy, rfl⟩
    exact ⟨y.2, hy, rfl⟩
  · rintro ⟨v, hv, hx⟩
    exact ⟨_, hv, Prod.ext rfl hx.symm⟩

/-- A FORCE_SET on an element of a program item of a data type that forces have (table Force data types). -/
theorem exec_forceSet {s : State} {w : WorkRef} {op : Op} {i : ProgItem} (h : s.due w 0x27 op) (hlen : dLength op.bytes = 64)
    (hitem : s.progItem (leField (s.buffer op) 0 8) = some i) (htarget : i.target = leField (s.buffer op) 10 1)
    (helement : leField (s.buffer op) 8 2 = 0xFFFF ∨ leField (s.buffer op) 8 2 < i.elements) (hlow : 1 ≤ i.type) (hhigh : i.type ≤ 12) :
    exec (.forceSet w) s = .next (
      if leField (s.buffer op) 11 1 ≠ i.type then s.finish op stTypeMismatch 0
      else if 1024 ≤ (s.otherForces op).length then s.finish op stForceFull 0
      else (s.forceTold op i).finish op stOk 0) := by
  have hthere : ¬ (i.target ≠ leField (s.buffer op) 10 1 ∨
      (leField (s.buffer op) 8 2 ≠ 0xFFFF ∧ i.elements ≤ leField (s.buffer op) 8 2)) := by omega
  have htype : ¬ (i.type = 0 ∨ 12 < i.type) := by omega
  show execForceSet w s = _
  rw [execForceSet, progOp_due h]
  dsimp only
  rw [if_neg (by simp [hlen]), hitem]
  dsimp only
  rw [if_neg hthere, if_neg htype, finishCut_holds h.1, finishCut_holds h.1, ← says_finish (forceTold_says s op i) h.1]
  rfl

/-! FORCE_REMOVE and FORCE_LIST. -/

/-- The element that a FORCE_REMOVE of one force names carries this one. -/
def removes (op : Op) (f : Force) : Bool := f.ident == dInline op.bytes 0 8 && f.element == dInline op.bytes 8 2

theorem exec_forceRemove {s : State} {w : WorkRef} {op : Op} (h : s.due w 0x28 op) (hone : dSubop op.bytes = 0) :
    exec (.forceRemove w) s = .next (
      if s.prg.forces.filter (removes op) = [] then s.finish op stNoItem 0
      else (((s.prg.forces.filter (removes op)).foldl (fun (u : State) f => u.forceGone f 0)
        { s with prg := { s.prg with forces := s.prg.forces.filter fun f => !removes op f } })).finish op stOk 0) := by
  have hholds' := holds_of_wb (forceGone_frame_fold (s.prg.forces.filter (removes op))
    { s with prg := { s.prg with forces := s.prg.forces.filter fun f => !removes op f } } 0).2.1 h.1
  show execForceRemove w s = _
  rw [execForceRemove, progOp_due h, ← finishCut_holds hholds', ← finishCut_holds h.1]
  dsimp only
  rw [hone, if_neg (by decide)]
  simp only [Nat.reduceBEq, Bool.false_or, true_and]
  rfl

theorem filter_removes_eq_nil {l : List Force} {op : Op}
    (h : ∀ f ∈ l, f.ident ≠ dInline op.bytes 0 8 ∨ f.element ≠ dInline op.bytes 8 2) : l.filter (removes op) = [] := by
  rw [List.filter_eq_nil_iff]
  intro f hf
  have hother := h f hf
  simp only [removes, Bool.and_eq_true, beq_iff_eq]
  tauto

theorem forceGone_says (s : State) (f : Force) (cause : Nat) :
    Says s [(.forceRemoved, cause :: (forceBytes f).map (·.toNat))] [89] (s.forceGone f cause) :=
  ((Says.refl s).record .forceRemoved _).raise 89 (by decide)

theorem exec_forceList {s : State} {w : WorkRef} {op : Op} (h : s.due w 0x29 op) :
    exec (.forceList w) s = .next ((s.writeBuf op 0 ((s.prg.forces.take (dLength op.bytes / 64)).map forceBytes).flatten).finish op stOk
      (s.prg.forces.take (dLength op.bytes / 64)).length) :=
  congrArg Host.Outcome.next ((progOp_due h _).trans (finishCut_holds (holds_of_wb (by simp only [State.writeBuf_frame]) h.1) ..))

/-- Settles O42: each command by its own rule; a restart by `applyRestart_facts`, a new force by what `PrgSt.placeForce` leaves. -/
theorem restartsAndForcesTakeTheirPlace : Obligations.RestartsAndForcesTakeTheirPlace := by
  unfold Obligations.RestartsAndForcesTakeTheirPlace
  refine ⟨fun s j op hholds hready hjsn hcut => congrArg Host.Outcome.next (progOp_uncovered hholds hready hjsn hcut _), ?restart, ?set,
    ?remove, ?list⟩
  case restart =>
    intro s w op h
    refine ⟨fun hsub => ?_, fun hsub hstage => ?_, fun hwarm hstage => ⟨_, exec_restart_warm h hwarm hstage, ?_⟩,
      fun im hcold hstage himage => ⟨_, exec_restart_cold h hcold hstage, coldItems s im himage, ?_⟩⟩
    · rw [exec_restart h, if_pos hsub]
    · rw [exec_restart h, if_neg (Nat.not_lt.2 hsub), if_pos hstage]
    · obtain ⟨hwb, hregs, hcycle, hlast, hforces⟩ := applyRestart_facts s false
      exact ⟨hforces, hlast, hcycle, hwb, hregs⟩
    · obtain ⟨hwb, hregs, hcycle, hlast, hforces⟩ := applyRestart_facts s true
      exact ⟨hforces, hlast, hcycle, hwb, hregs⟩
  case set =>
    rintro s w op id el tg ty h rfl rfl rfl rfl
    refine ⟨exec_forceSet_badLength h, exec_forceSet_noItem h, fun i hlen hitem htarget helement hlow hhigh => ?_⟩
    have hexec := exec_forceSet h hlen hitem htarget helement hlow hhigh
    refine ⟨fun htype => hexec.trans (by rw [if_pos htype]), fun htype hroom => ⟨s.forceTold op i, s.forceOf op i, ?_, ?_, ?_⟩⟩
    · have hfits : ¬ 1024 ≤ (s.otherForces op).length := Nat.not_le.2 hroom
      rw [hexec, if_neg (by simp [htype]), if_neg hfits]
    · rw [htype, ← htarget]
      rfl
    · have hsays := forceTold_says s op i
      have hprg : (s.forceTold op i).prg = (s.forcePlaced op i).prg := hsays.toReports.prg
      rw [hprg]
      refine ⟨placeForce_forces .., fun p => ?_, hsays⟩
      have hforces : (s.forcePlaced op i).prg.forces = s.otherForces op ++ [s.forceOf op i] := placeForce_forces ..
      rw [hforces]
      exact mem_placeForce_inImage
  case remove =>
    rintro s w op id el h rfl rfl hone
    refine ⟨fun hnone => ?_, fun f hf => ⟨_, ?_, forceGone_says _ f 0⟩⟩
    · rw [exec_forceRemove h hone, if_pos (filter_removes_eq_nil hnone)]
    · have hgone : s.prg.forces.filter (removes op) = [f] := hf
      rw [exec_forceRemove h hone, hgone, if_neg (List.cons_ne_nil f [])]
      rfl
  case list =>
    rintro s w op l h rfl
    exact exec_forceList h

end Sys2Proof.Machine
end

section
/-! SUPPORT. The stages of an instar change, command by command (R315 to R322). -/

namespace Sys2Proof.Machine

/-- Event source 88 tells every step of a change (R320). -/
theorem raise88_says (s : State) : Says s [] [88] (s.raise 88) := (Says.refl s).raise 88 (by decide)

/-- A program command that is due ends as its meaning says, after its reports. -/
theorem due_ends {s u t : State} {w : WorkRef} {o st r : Nat} {op : Op} {c : Instr} {f : Op → State → State} {rs : List (RecName × List Nat)}
    {es : List Nat} (h : s.due w o op) (hexec : exec c s = .next (s.progOp w o f)) (hmeaning : f op s = t.finishCut op st r)
    (hwb : u.wb = s.wb) (hsays : Says u rs es t) : ∃ v, exec c s = .next (v.finish op st r) ∧ Says u rs es v :=
  ⟨t, by rw [hexec, progOp_due h, hmeaning, says_finish hsays (holds_of_wb hwb h.1)], hsays⟩

/-- A step out of order is refused, and event source 88 tells it (R315, R320). -/
theorem due_outOfOrder {s : State} {w : WorkRef} {o : Nat} {op : Op} {c : Instr} {f : Op → State → State} (h : s.due w o op)
    (hexec : exec c s = .next (s.progOp w o f)) (hmeaning : f op s = s.stageOrder op) :
    ∃ u, exec c s = .next (u.finish op stStageOrder 0) ∧ Says s [] [88] u := due_ends h hexec hmeaning rfl (raise88_says s)

theorem changeIs_iff {s : State} {op : Op} : s.changeIs op = true ↔ dInline op.bytes 0 8 = s.prg.changeId := beq_iff_eq

/-- A command of another stage or of another change is not the next step of the change (R315). -/
theorem not_nextStep {s : State} {op : Op} {n : Nat} (h : s.prg.stage ≠ n ∨ dInline op.bytes 0 8 ≠ s.prg.changeId) :
    ¬ (s.prg.stage = n ∧ s.changeIs op = true) := by
  rw [changeIs_iff]
  tauto

/-! INSTAR_PREPARE. -/

theorem exec_instarPrepare_badWindow {s : State} {w : WorkRef} {op : Op} (h : s.due w 0x21 op) (hstage : s.prg.stage = 0)
    (hwindow : dInline op.bytes 8 4 < 10 ∨ 86400 < dInline op.bytes 8 4) (img : ProgImage) (a b c : Bool) :
    exec (.instarPrepare w img a b c) s = .next (s.finish op stBadDesc 0) :=
  congrArg Host.Outcome.next ((progOp_due h _).trans
    ((if_neg (not_not.2 hstage)).trans ((if_pos hwindow).trans (finishCut_holds h.1 ..))))

/-- The change that an INSTAR_PREPARE begins: its image, CHANGE_ID, confirm window and ring (R315). -/
def State.prepared (s : State) (op : Op) (img : ProgImage) : State :=
  { s with prg := { s.prg with newImage := some img, stage := 1, changeId := dInline op.bytes 0 8, windowS := dInline op.bytes 8 4,
                               changeRing := op.ring, progress := 0 } }

/-- An INSTAR_PREPARE of a signed artefact with a window within its bounds goes by its image (R285, R310). -/
theorem exec_instarPrepare {s : State} {w : WorkRef} {op : Op} {art : Artefact} (h : s.due w 0x21 op) (hstage : s.prg.stage = 0)
    (hlow : 10 ≤ dInline op.bytes 8 4) (hhigh : dInline op.bytes 8 4 ≤ 86400) (hgood : s.judgeArtefact (some 3) (s.buffer op) = .good art)
    (img : ProgImage) (a b c : Bool) : exec (.instarPrepare w img a b c) s = .next (
      (s.imageFault img a b c).elim (((s.prepared op img).raise 88).finishCut op stOk 0) ((s.raise 88).prgRefuse op)) := by
  show execInstarPrepare w img a b c s = _
  rw [execInstarPrepare, progOp_due h]
  dsimp only
  rw [if_neg (not_not.2 hstage), if_neg (by omega), hgood]
  cases s.imageFault img a b c <;> rfl

/-- A refused image is named in PRG_REFUSE and in the record (R310). -/
theorem prgRefuse_says (s : State) (r : Nat) : Says { s with prg := { s.prg with refuse := r } } [(.prgRefused, [r])] [88]
    ({ s.raise 88 with prg := { (s.raise 88).prg with refuse := r } }.record .prgRefused [r]) :=
  ((raise88_says s).upd (fun u => { u with prg := { u.prg with refuse := r } }) (fun _ _ _ _ _ => rfl) rfl rfl).record .prgRefused [r]

/-! INSTAR_BIND. -/

/-- The change has reached a stage (R315). -/
def State.atStage (s : State) (n : Nat) : State := { s with prg := { s.prg with stage := n, progress := 0 } }

/-- The change report of INSTAR_BIND, cut to the buffer, and REPORT_TRUNCATED where entries are missing (R316, R323). -/
theorem exec_instarBind {s : State} {w : WorkRef} {op : Op} {old new : ProgImage} (h : s.due w 0x23 op) (himage : s.prg.image = some old)
    (hnew : s.prg.newImage = some new) (hstage : s.prg.stage = 2) (hchange : dInline op.bytes 0 8 = s.prg.changeId)
    (hlen : 48 ≤ dLength op.bytes) : exec (.instarBind w) s = .next
      ((((s.atStage 3).raise 88).writeBuf op 0
        (reportHeader s.prg.changeId old new (reportEntries old.items new.items s.prg.forces).length ++
          ((reportEntries old.items new.items s.prg.forces).take ((dLength op.bytes - 48) / 16)).flatten)).finish op
        (if (dLength op.bytes - 48) / 16 < (reportEntries old.items new.items s.prg.forces).length then stTruncated else stOk) 0) := by
  have hreport := bindReport (raise88_says (s.atStage 3)) h.1 op old new (reportEntries old.items new.items s.prg.forces).length
    (if (dLength op.bytes - 48) / 16 < (reportEntries old.items new.items s.prg.forces).length then stTruncated else stOk) 0
    ((reportEntries old.items new.items s.prg.forces).take ((dLength op.bytes - 48) / 16)).flatten
  show execInstarBind w s = _
  rw [execInstarBind, progOp_due h]
  dsimp only
  split
  next hold hnew' =>
    cases himage.symm.trans hold
    cases hnew.symm.trans hnew'
    rw [if_pos ⟨hstage, changeIs_iff.2 hchange⟩, if_neg (Nat.not_lt.2 hlen)]
    exact congrArg Host.Outcome.next hreport
  next hmissing => exact absurd hnew (hmissing old new himage)

/-! INSTAR_SWITCH. -/

/-- A SWITCH to a program in which the item of every force stands drops no force (R321, R322). -/
theorem switchTo_of_stays {s : State} {new : ProgImage} (hstays : ∀ f ∈ s.prg.forces, forceStays new.items f = true) (old : ProgImage) :
    s.switchTo old new = { s with prg := { s.prg with
      image := some new, tasks := List.zipWith (mergeTask s.tb.ang) s.prg.tasks (tasksOf new), drops := [],
      items := (transfer old.items new.items s.prg.items).map fun x => (x.1, { x.2 with value := forced s.prg.forces 0 x.1 x.2.value }),
      inImage := s.prg.inImage.map fun x => (x.1, forced s.prg.forces 1 x.1 x.2) } } := by
  have hgone : s.prg.forces.filter (fun f => !forceStays new.items f) = [] := by
    rw [List.filter_eq_nil_iff]
    intro f hf
    rw [hstays f hf]
    decide
  have hkept : s.prg.forces.filter (forceStays new.items) = s.prg.forces := List.filter_eq_self.2 hstays
  rw [State.switchTo]
  dsimp only
  rw [hgone, hkept]
  rfl

/-! The end of a change. -/

/-- The change ends at INSTAR_CONFIRM, or with the new program discarded (R319, R320); without a drill waiting nothing else happens. -/
theorem endChange_says {s : State} (hdrill : s.wb.drillBegun = false) : Says { s with prg := { s.prg with
    stage := 0, newImage := none, oldImage := none, confirmEnd := none, progress := 0, drops := [] } } [] [88] s.endChange := by
  have hsays := raise88_says { s with prg := { s.prg with
    stage := 0, newImage := none, oldImage := none, confirmEnd := none, progress := 0, drops := [] } }
  have hundrilled : s.endChange = _ := if_neg fun hbegun => by
    rw [hsays.toReports.wb] at hbegun
    exact Bool.false_ne_true (hdrill.symm.trans hbegun.1)
  rw [hundrilled]
  exact hsays

/-- The INSTAR_ABANDON that the holder gives itself at the end of the confirm window, journalled under a JSN (R319). -/
def State.expiryOp (s : State) (j : Nat) : Op :=
  { tag := 0, issuer := ownerIssuer (s.queue s.prg.changeRing).owner, ring := s.prg.changeRing, idx := 0,
    bytes := abandonDesc s.prg.changeId, engine := 10, jsn := some j }

theorem exec_instarConfirmExpiry_open {s : State} {e : Nat} (hend : s.prg.confirmEnd = some e) (hopen : s.prg.taskTime < e) :
    exec .instarConfirmExpiry s = .next s := by
  show execInstarConfirmExpiry s = _
  rw [execInstarConfirmExpiry, hend]
  exact congrArg Host.Outcome.next (if_pos (.inr (.inr hopen)))

/-- The confirm window's end is journalled and waits as accepted work (R319). -/
theorem exec_instarConfirmExpiry {s t : State} {e : Nat} (hend : s.prg.confirmEnd = some e) (hstage : s.prg.stage = 4)
    (hauth : s.authoritative = true) (hover : e ≤ s.prg.taskTime)
    (ht : s.journalAdd (.desc s.prg.changeRing 0 (abandonDesc s.prg.changeId)) = t) :
    exec .instarConfirmExpiry s = .next { t with hq := { t.hq with work := t.hq.work ++ [s.expiryOp t.wb.jsn] },
                                                 prg := { t.prg with confirmEnd := none } } := by
  have hqueue : ∀ n, t.queue n = s.queue n := fun n => by
    rw [State.queue, ← ht, State.queue, (journalAdd_facts ..).2.2.1]
  subst ht
  show execInstarConfirmExpiry s = _
  rw [execInstarConfirmExpiry, hend]
  dsimp only
  rw [if_neg (by simp [hstage, hauth, Nat.not_lt.2 hover]), hqueue]
  rfl

/-- Settles O43: each stage by `due_ends`, a command out of order by `due_outOfOrder`; the report, the switch and the window's end by their
own rules. -/
theorem instarChangesPassTheirStages : Obligations.InstarChangesPassTheirStages := by
  unfold Obligations.InstarChangesPassTheirStages
  refine ⟨?prepare, ?load, ?bind, ?switch, ?confirm, ?abandon, ?expiry⟩
  case prepare =>
    intro s w op img a b c h
    refine ⟨fun hstage => due_outOfOrder h rfl (if_pos hstage), fun hstage hwindow => exec_instarPrepare_badWindow h hstage hwindow img a b c,
      fun art hstage hlow hhigh hgood => ?_⟩
    have hexec := exec_instarPrepare h hstage hlow hhigh hgood img a b c
    refine ⟨fun r hfault => ⟨_, ?_, prgRefuse_says s r⟩, fun hsound => ⟨_, ?_, raise88_says (s.prepared op img)⟩⟩
    · rw [hexec, hfault, Option.elim_some, ← says_finish (prgRefuse_says s r) h.1]
      rfl
    · rw [hexec, hsound, Option.elim_none, ← says_finish (raise88_says (s.prepared op img)) h.1]
  case load =>
    exact fun s w op h => ⟨fun hstage hchange => due_ends h rfl (if_pos ⟨hstage, changeIs_iff.2 hchange⟩) rfl (raise88_says _),
      fun hother => due_outOfOrder h rfl (if_neg (not_nextStep hother))⟩
  case bind =>
    intro s w op old new h himage hnew
    refine ⟨fun hstage hchange hlen => ⟨_, _, exec_instarBind h himage hnew hstage hchange hlen, rfl, raise88_says _⟩,
      fun hother => due_outOfOrder h rfl ?_⟩
    dsimp only
    rw [himage, hnew]
    exact if_neg (not_nextStep hother)
  case switch =>
    intro s w op old new h himage hnew
    refine ⟨fun hstage hchange hstays => due_ends h rfl ?_ rfl (raise88_says _), fun hother => due_outOfOrder h rfl ?_⟩
    · dsimp only
      rw [himage, hnew]
      dsimp only
      rw [if_pos ⟨hstage, changeIs_iff.2 hchange⟩, switchTo_of_stays hstays]
    · dsimp only
      rw [himage, hnew]
      exact if_neg (not_nextStep hother)
  case confirm =>
    exact fun s w op h hdrill =>
      ⟨fun hstage hchange => due_ends h rfl (if_pos ⟨hstage, changeIs_iff.2 hchange⟩) rfl (endChange_says hdrill),
      fun hstage => due_outOfOrder h rfl (if_neg (not_nextStep (.inl hstage)))⟩
  case abandon =>
    intro s w op h hdrill
    refine ⟨fun hbegun hunswitched hchange => due_ends h rfl ?_ rfl (endChange_says hdrill),
      fun hstage => due_outOfOrder h rfl (if_pos (.inl hstage))⟩
    have hnamed : ¬ (s.prg.stage = 0 ∨ (!s.changeIs op) = true) := by
      rw [changeIs_iff.2 hchange]
      simpa using Nat.ne_of_gt hbegun
    exact (if_neg hnamed).trans (if_pos hunswitched)
  case expiry =>
    intro s e hend hstage hauth
    refine ⟨fun hopen => exec_instarConfirmExpiry_open hend hopen, fun hover => ⟨_, exec_instarConfirmExpiry hend hstage hauth hover rfl, ?_⟩⟩
    obtain ⟨hjsn, hjournal, hhq, -⟩ := journalAdd_facts s (.desc s.prg.changeRing 0 (abandonDesc s.prg.changeId))
    refine ⟨hjsn, ?_, hjournal, s.expiryOp (s.wb.jsn + 1), ?_, rfl, rfl⟩
    · simp only [State.journalAdd_frame]
    · rw [hhq, hjsn]

end Sys2Proof.Machine
end

section
/-! SUPPORT. Samples and bundles of the loop engine (R325, R328, R350 to R353). -/

namespace Sys2Proof.Machine

/-! LOOP_SAMPLE. -/

/-- A sample that is not to be evaluated now: no such slot, the engine off, the slot disabled, its sample not due, or a lower slot's turn (R328). -/
def State.sampleBarred (s : State) (n st : Nat) (late : Bool) (sk : Nat) : Prop :=
  512 ≤ n ∨ s.loopOn = false ∨ (s.slot n).enabled = false ∨ s.sampleDue (s.slot n) st late sk = false ∨ s.lowerOwed n st late = true

theorem exec_loopSample_barred {s : State} {n st sk : Nat} {late : Bool} (h : s.sampleBarred n st late sk) :
    exec (.loopSample n st late sk) s = .next s := congrArg Host.Outcome.next (if_pos h)

/-- Without the window's bundle a follower has nothing to go by (R352). -/
theorem takeBundle_none {s : State} {window : Nat} (h : ∀ m ∈ s.wb.manifests, m.task = 0x100 → m.cycle ≠ window) :
    s.takeBundle window = none := by
  have hnone : (s.wb.manifests.find? fun m => m.task == 0x100 && m.cycle == window && m.held.length == m.parts && m.missing.isEmpty) = none :=
    List.find?_eq_none.2 fun m hm hall => by
      simp only [Bool.and_eq_true, beq_iff_eq] at hall
      obtain ⟨⟨⟨htask, hcycle⟩, -⟩, -⟩ := hall
      exact h m hm htask hcycle
  unfold State.takeBundle
  rw [hnone]

theorem exec_loopSample_noBundle {s : State} {n st sk : Nat} {late : Bool} (hholds : s.holds = false)
    (hnone : s.follows = true → s.takeBundle (st / 65536) = none) : exec (.loopSample n st late sk) s = .next s := by
  by_cases hbar : s.sampleBarred n st late sk
  · exact exec_loopSample_barred hbar
  · refine congrArg Host.Outcome.next ((if_neg hbar).trans ?_)
    dsimp only
    rw [hholds, if_neg Bool.false_ne_true]
    by_cases hfollows : s.follows = true
    · rw [if_pos hfollows, hnone hfollows]
    · rw [if_neg hfollows]

/-- A sample at the holder, once the posted set-points have reached their slot: of a group at its first member, else of the slot alone (R328). -/
def State.sampleAs (s : State) (n st : Nat) (late : Bool) (sk : Nat) : State :=
  match slotGroup (s.slot n) with
  | some g => if s.leadsGroup n then s.evalGroup g st late sk else s
  | none => s.evalAlone n st late sk

theorem exec_loopSample_holder {s : State} {n st sk : Nat} {late : Bool} (hholds : s.holds = true) (hopen : ¬ s.sampleBarred n st late sk) :
    exec (.loopSample n st late sk) s = .next (((s.ownInputs (st / 65536)).applySetpoint st).sampleAs n st late sk) := by
  refine congrArg Host.Outcome.next ((if_neg hopen).trans ?_)
  dsimp only
  rw [hholds, if_pos rfl]
  rfl

/-- In a window that a bundle opened the holder goes by the bundle's inputs (R353). -/
theorem ownInputs_same {s : State} {window : Nat} (h : s.loop.window = window % 65536) : s.ownInputs window = s := if_pos h

/-- The own inputs of a window without a bundle are loop inputs and nothing else (R353). -/
theorem ownInputs_keeps (s : State) (window : Nat) :
    s.ownInputs window = { s with loop := (s.ownInputs window).loop } ∧ (s.ownInputs window).loop.slots = s.loop.slots ∧
    (s.ownInputs window).loop.stages = s.loop.stages := by
  unfold State.ownInputs
  split <;> exact ⟨rfl, rfl, rfl⟩

@[simp] theorem ownInputs_slot (s : State) (window n : Nat) : (s.ownInputs window).slot n = s.slot n := by
  rw [State.slot, (ownInputs_keeps s window).2.1, ← State.slot]

@[simp] theorem ownInputs_stage (s : State) (window o : Nat) : (s.ownInputs window).stage o = s.stage o := by
  rw [State.stage, (ownInputs_keeps s window).2.2, ← State.stage]

@[simp] theorem ownInputs_frame (s : State) (window : Nat) : (s.ownInputs window).wb = s.wb ∧ (s.ownInputs window).prg = s.prg ∧
    (s.ownInputs window).regs = s.regs ∧ (s.ownInputs window).hq = s.hq ∧ (s.ownInputs window).dsp = s.dsp := by
  rw [(ownInputs_keeps s window).1]
  exact ⟨rfl, rfl, rfl, rfl, rfl⟩

/-- Without a posted set-point nothing is applied. -/
theorem applySetpoint_unposted {s : State} (h : s.dsp.spPending = []) (now : Nat) : s.applySetpoint now = s :=
  applySetpoint_none (by simp [h])

/-- A group is evaluated at its first enabled member alone (R328). -/
theorem sampleAs_notFirst {s : State} {n g k : Nat} (hgroup : slotGroup (s.slot n) = some g) (hfirst : (s.enabledMembers g).head? = some k)
    (hother : k ≠ n) (st : Nat) (late : Bool) (sk : Nat) : s.sampleAs n st late sk = s := by
  have hleads : s.leadsGroup n = false := by
    unfold State.leadsGroup
    rw [hgroup]
    simpa [hfirst] using hother
  unfold State.sampleAs
  rw [hgroup, hleads]
  rfl

theorem exec_loopSample_notFirst {s : State} {n st sk g k : Nat} {late : Bool} (hholds : s.holds = true) (hposted : s.dsp.spPending = [])
    (hwindow : s.loop.window = st / 65536 % 65536) (hgroup : slotGroup (s.slot n) = some g) (hfirst : (s.enabledMembers g).head? = some k)
    (hother : k ≠ n) : exec (.loopSample n st late sk) s = .next s := by
  by_cases hbar : s.sampleBarred n st late sk
  · exact exec_loopSample_barred hbar
  · rw [exec_loopSample_holder hholds hbar, ownInputs_same hwindow, applySetpoint_unposted hposted, sampleAs_notFirst hgroup hfirst hother]

/-- A slot alone at the holder is evaluated on the inputs of its window (R328, R353). -/
theorem exec_loopSample_alone {s : State} {n st sk : Nat} {late : Bool} (hholds : s.holds = true) (hopen : ¬ s.sampleBarred n st late sk)
    (hposted : s.dsp.spPending = []) (halone : slotGroup (s.slot n) = none) :
    exec (.loopSample n st late sk) s = .next ((s.ownInputs (st / 65536)).evalAlone n st late sk) := by
  rw [exec_loopSample_holder hholds hopen, applySetpoint_unposted (by simpa only [ownInputs_frame] using hposted), State.sampleAs,
    ownInputs_slot, halone]

/-- A slot's sample at its stamp: the slot as its law leaves it, and its stage between its limits (R332, R336, R345). -/
theorem exec_loopSample_alone_facts {s : State} {n st sk o : Nat} {late : Bool} (hthere : n < s.loop.slots.length) (hholds : s.holds = true)
    (hopen : ¬ s.sampleBarred n st late sk) (hposted : s.dsp.spPending = []) (halone : slotGroup (s.slot n) = none)
    (hout : slOut (s.slot n).record = o) (hstage : o < s.loop.stages.length) :
    ∃ t, exec (.loopSample n st late sk) s = .next t ∧ (t.slot n).last = st ∧ (t.slot n).fresh = false ∧
      (t.slot n).enabled = (s.slot n).enabled ∧ (t.slot n).record = (s.slot n).record ∧ (t.slot n).late = late ∧
      (t.slot n).skips = satAt 65535 ((s.slot n).skips + sk) ∧
      (t.stage o).uApp = fclamp (ouMin (s.stage o).record) (ouMax (s.stage o).record) (t.slot n).uSlot ∧ (t.stage o).active = true ∧
      (t.stage o).record = (s.stage o).record ∧ t.wb = s.wb ∧ t.prg = s.prg ∧ t.regs = s.regs ∧ t.hq = s.hq := by
  obtain ⟨-, hslots, hstages⟩ := ownInputs_keeps s (st / 65536)
  obtain ⟨t, ht, hfacts⟩ := evalAlone_facts (s := s.ownInputs (st / 65536)) (hslots ▸ hthere)
    (by rwa [ownInputs_slot]) (hstages ▸ hstage) st sk late
  simp only [ownInputs_slot, ownInputs_stage, ownInputs_frame] at hfacts
  exact ⟨t, (exec_loopSample_alone hholds hopen hposted halone).trans (congrArg Host.Outcome.next ht), hfacts⟩

/-! LOOP_BUNDLE_TX. -/

theorem exec_loopBundleTx_barred {s : State} {window : Nat} {ai : List Nat} (h : s.holds = false ∨ s.loopOn = false ∨ s.tb.ang < window * 65536) :
    exec (.loopBundleTx window ai) s = .next s := congrArg Host.Outcome.next (if_pos (by simpa [or_assoc] using h))

/-- What a bundle leaves as it is while its content is gathered. -/
def State.bundleView (s : State) : PrgSt × List (Nat × Word) × HqSt × Nat := (s.prg, s.regs, s.hq, s.loop.covered)

theorem noteSat_keeps (s : State) (cause : State → Nat → Option Nat) :
    (s.noteSat cause).bundleView = s.bundleView ∧ (s.noteSat cause).wb = s.wb := by
  have hext : ∀ (u : State) (o : Nat) (c : Option Nat), (u.setExt o c).loop.covered = u.loop.covered := by
    intro u o c
    unfold State.setExt
    dsimp only
    split
    · simp only [State.raise_frame, State.record_frame]; rfl
    · split
      · simp only [State.record_frame]; rfl
      · rfl
  have h : Same (fun t => (t.bundleView, t.wb)) s (s.noteSat cause) := by
    unfold State.noteSat
    refine Same.foldl _ _ (fun u o => ?_) rfl
    split
    · rfl
    · simp only [Same, State.bundleView, hext, State.setExt_frame]
  simp only [Same, Prod.mk.injEq] at h
  exact h

theorem setInput_bundleView (s : State) (cls idx : Nat) (v : F32) (stamp : Nat) (valid : Bool) :
    (s.setInput cls idx v stamp valid).bundleView = s.bundleView := rfl

theorem aiInputs_keeps (s : State) (l : List ManEntry) (stamp : Nat) : (s.aiInputs l stamp).bundleView = s.bundleView := by
  unfold State.aiInputs
  refine Same.foldl (view := State.bundleView) _ l (fun u e => ?_) rfl
  split
  · exact setInput_bundleView ..
  · rfl

theorem takeArrived_bundleView (s : State) (wb : WbSt) (p : ManEntry → Bool) :
    ({ s with wb := wb }.takeArrived p).bundleView = s.bundleView := rfl

theorem useArrived_bundleView (s : State) : s.useArrived.bundleView = s.bundleView := takeArrived_bundleView s _ _

/-- The bundle's items are used, then its cut covers loop work (R350, R356). -/
theorem coverLoop_useArrived_facts (s : State) (es all : List ManEntry) (stamp window cut : Nat) (work : List Op) :
    let t := ((s.useArrived.aiInputs es stamp).noteEpochs all cut).coverLoop window cut work
    t.loop.window = window % 65536 ∧ t.loop.covered = max s.loop.covered cut ∧ t.prg = s.prg ∧ t.regs = s.regs ∧ t.hq = s.hq := by
  have hinputs : (s.useArrived.aiInputs es stamp).bundleView = s.bundleView :=
    (aiInputs_keeps s.useArrived es stamp).trans (useArrived_bundleView s)
  simp only [State.bundleView, Prod.mk.injEq] at hinputs
  obtain ⟨hprg, hregs, hhq, hcovered⟩ := hinputs
  exact ⟨rfl, congrArg (max · cut) hcovered, hprg, hregs, hhq⟩

/-- LOOP_BUNDLE_TX of a window that has begun, at the holder: the window, and the cut of the work that has a JSN (R350, R351). -/
theorem exec_loopBundleTx {s : State} {window : Nat} (hholds : s.holds = true) (hon : s.loopOn = true) (hbegun : window * 65536 ≤ s.tb.ang)
    (ai : List Nat) : ∃ t, exec (.loopBundleTx window ai) s = .next t ∧ t.loop.window = window % 65536 ∧
      t.loop.covered = max s.loop.covered (if s.wb.dual then s.wb.jsnAck else s.wb.jsn) ∧ t.prg = s.prg ∧ t.regs = s.regs ∧ t.hq = s.hq := by
  refine ⟨_, congrArg Host.Outcome.next (if_neg (by simp [hholds, hon, hbegun])), ?_⟩
  dsimp only
  simp only [State.sendManifest_frame]
  obtain ⟨hview, hwb⟩ := noteSat_keeps (s.takeAis 0 ai) fun s o => s.extCause (ouDest (s.stage o).record)
  generalize (s.takeAis 0 ai).noteSat _ = u at hview hwb ⊢
  simp only [State.bundleView, State.takeAis_frame, Prod.mk.injEq] at hview hwb
  obtain ⟨hprg, hregs, hhq, hcovered⟩ := hview
  rw [← hprg, ← hregs, ← hhq, ← hcovered, ← hwb]
  exact coverLoop_useArrived_facts ..

/-- Settles O44: a sample by what bars it, by the inputs it goes by and by `evalAlone_facts`; a bundle by what gathering it leaves as it is. -/
theorem loopSamplesUseTheBundle : Obligations.LoopSamplesUseTheBundle := by
  unfold Obligations.LoopSamplesUseTheBundle
  refine ⟨?barred, ?noBundle, ?notFirst, ?alone, ?bundleBarred, ?bundle⟩
  case barred =>
    exact fun s n st sk late => exec_loopSample_barred
  case noBundle =>
    exact fun s n st sk late hholds hnone => exec_loopSample_noBundle hholds fun hfollows => takeBundle_none (hnone hfollows)
  case notFirst =>
    exact fun s n st sk g k late => exec_loopSample_notFirst
  case alone =>
    intro s n st sk o late hlow hthere hon henabled hholds hdue hlower hposted halone hout hstage
    have hopen : ¬ s.sampleBarred n st late sk := by simp [State.sampleBarred, hlow, hon, henabled, hdue, hlower]
    simpa only [henabled] using exec_loopSample_alone_facts hthere hholds hopen hposted halone hout hstage
  case bundleBarred =>
    exact fun s win ai => exec_loopBundleTx_barred
  case bundle =>
    exact fun s win ai hholds hon hbegun => exec_loopBundleTx hholds hon hbegun ai

end Sys2Proof.Machine
end

section
/-! SUPPORT. Loop commands, one by one, once a bundle has covered them (R356 to R358). -/

namespace Sys2Proof.Machine

/-! When a loop command acts. -/

/-- Work that no bundle has covered yet waits (R356). -/
theorem loopOp_uncovered {s : State} {w : WorkRef} {o j : Nat} {op : Op} (hholds : s.holds = true) (hready : s.ready w 1 o op)
    (hjsn : op.jsn = some j) (hseen : assocGet s.loop.seen j = none) (f : Op → State → State) : s.loopOp w o f = s := by
  unfold State.loopOp
  rw [cutOp_ready hholds hready, hjsn]
  dsimp only
  rw [hseen]

/-- Loop work that this holder may carry out now and that is first covered in a window later than its TIME (R356). -/
def State.loopLate (s : State) (w : WorkRef) (opcode : Nat) (op : Op) (j : Nat) : Prop :=
  s.holds = true ∧ s.ready w 1 opcode op ∧ op.jsn = some j ∧ ∃ win, assocGet s.loop.seen j = some win ∧
  dTimed op.bytes = true ∧ dPtBase op.bytes = false ∧ windowOf (dTime op.bytes) < win

/-- Late work goes by its LATE_POLICY: it is missed, or it is done as late work (R356). -/
theorem loopOp_late {s : State} {w : WorkRef} {o j : Nat} {op : Op} (h : s.loopLate w o op j) (f : Op → State → State) :
    s.loopOp w o f = if dLatePolicy op.bytes = false then (s.loopTaken op j).finishCut { op with late := false } stLaunchMissed 0
      else f { op with late := true } (s.loopTaken op j) := by
  obtain ⟨hholds, hready, hjsn, win, hseen, htimed, hangle, hpast⟩ := h
  unfold State.loopOp State.loopTaken
  rw [cutOp_ready hholds hready, hjsn]
  dsimp only
  rw [hseen]
  simp only [htimed, hangle, hpast, Option.getD_some, Bool.not_false, Bool.and_self, decide_true, true_and, Bool.or_true]

/-- Late work that may be done late ends as its meaning says, which then speaks of late work. -/
theorem loopLate_ends {s t : State} {w : WorkRef} {o j st r : Nat} {op : Op} {c : Instr} {f : Op → State → State} (h : s.loopLate w o op j)
    (hpolicy : dLatePolicy op.bytes = true) (hexec : exec c s = .next (s.loopOp w o f))
    (hmeaning : f { op with late := true } (s.loopTaken op j) = t.finishCut { op with late := true } st r) (hwb : t.wb = s.wb) :
    exec c s = .next (t.finish { op with late := true } st r) := by
  rw [hexec, loopOp_late h, if_neg (by simp [hpolicy]), hmeaning, finishCut_holds (holds_of_wb hwb h.1)]

/-- Due loop work ends as its meaning says. -/
theorem loopDue_ends {s t : State} {w : WorkRef} {o j st r : Nat} {op : Op} {c : Instr} {f : Op → State → State} (h : s.loopDue w o op j)
    (hexec : exec c s = .next (s.loopOp w o f)) (hmeaning : f op (s.loopTaken op j) = t.finishCut op st r) (hwb : t.wb = s.wb) :
    exec c s = .next (t.finish op st r) := by
  rw [hexec, loopOp_due h, hmeaning, finishCut_holds (holds_of_wb hwb h.1)]

/-- Due loop work is refused as its meaning says. -/
theorem loopDue_refuses {s : State} {w : WorkRef} {o j k : Nat} {op : Op} {c : Instr} {f : Op → State → State} (h : s.loopDue w o op j)
    (hexec : exec c s = .next (s.loopOp w o f)) (hmeaning : f op (s.loopTaken op j) = (s.loopTaken op j).refuseLoop op k) :
    LoopRefuses (s.loopTaken op j) op (exec c s) k := by
  rw [hexec, loopOp_due h, hmeaning]
  exact refuseLoop_refuses (s := s.loopTaken op j) (holds_of_wb rfl h.1) op k

/-! Taking the work leaves slots, groups, stages and memory as they are. -/

section
variable (s : State) (op : Op) (j : Nat)

@[simp] theorem loopTaken_slot (n : Nat) : (s.loopTaken op j).slot n = s.slot n := rfl

@[simp] theorem loopTaken_buffer (p : Op) : (s.loopTaken op j).buffer p = s.buffer p := rfl

@[simp] theorem loopTaken_slotRefusal (r : List Byte) : (s.loopTaken op j).slotRefusal r = s.slotRefusal r := rfl

@[simp] theorem loopTaken_enableRefusal (n : Nat) : (s.loopTaken op j).enableRefusal n = s.enableRefusal n := rfl

@[simp] theorem loopTaken_groupRefusal (g : Nat) (r : List Byte) : (s.loopTaken op j).groupRefusal g r = s.groupRefusal g r := rfl

@[simp] theorem loopTaken_stageOk (r : List Byte) : (s.loopTaken op j).stageOk r = s.stageOk r := rfl

end

/-- A slot is changed by what becomes of the slot that stands there. -/
theorem setSlot_congr {s : State} {n : Nat} {f g : Slot → Slot} (h : f (s.slot n) = g (s.slot n)) : s.setSlot n f = s.setSlot n g := by
  unfold State.setSlot
  rw [updAt_congr _ n f g fun x hx => by rwa [State.slot, getD_of _ n _ x hx] at h]

/-! SLOT_WRITE. -/

/-- A record that is in range replaces the one of a disabled slot, and no gain waits to be carried over (R338). -/
theorem exec_slotWrite {s : State} {w : WorkRef} {op : Op} {j n : Nat} (h : s.loopDue w 0x10 op j) (hn : dInline op.bytes 0 2 = n)
    (hlow : n < 512) (hoff : (s.slot n).enabled = false) (hgood : s.slotRefusal (s.buffer op) = none) :
    exec (.slotWrite w) s = .next (((s.loopTaken op j).setSlot n fun x => { x with record := s.buffer op }).finish op stOk 0) := by
  refine loopDue_ends h rfl ?_ rfl
  dsimp only
  rw [hn, if_neg (Nat.not_le.2 hlow)]
  simp only [loopTaken_slot, loopTaken_buffer, loopTaken_slotRefusal, hoff, hgood, Bool.false_eq_true, false_and, if_false]
  exact congrArg (State.finishCut · op stOk 0 []) (setSlot_congr (by simp only [loopTaken_slot, hoff, Bool.false_and, Bool.false_eq_true, if_false]))

theorem exec_slotWrite_refused {s : State} {w : WorkRef} {op : Op} {j n k : Nat} (h : s.loopDue w 0x10 op j) (hn : dInline op.bytes 0 2 = n)
    (hlow : n < 512) (hoff : (s.slot n).enabled = false) (hbad : s.slotRefusal (s.buffer op) = some k) :
    LoopRefuses (s.loopTaken op j) op (exec (.slotWrite w) s) k := by
  refine loopDue_refuses h rfl ?_
  dsimp only
  rw [hn, if_neg (Nat.not_le.2 hlow)]
  simp only [loopTaken_slot, loopTaken_buffer, loopTaken_slotRefusal, hoff, hbad, Bool.false_eq_true, false_and, if_false]

/-- An enabled slot keeps its structure (R338). -/
theorem exec_slotWrite_otherShape {s : State} {w : WorkRef} {op : Op} {j n : Nat} (h : s.loopDue w 0x10 op j) (hn : dInline op.bytes 0 2 = n)
    (hlow : n < 512) (hon : (s.slot n).enabled = true) (hshape : sameShape (s.slot n).record (s.buffer op) = false) :
    LoopRefuses (s.loopTaken op j) op (exec (.slotWrite w) s) 1 := by
  refine loopDue_refuses h rfl ?_
  dsimp only
  rw [hn, if_neg (Nat.not_le.2 hlow)]
  exact if_pos ⟨hon, by simp [hshape]⟩

/-! SLOT_ENABLE. -/

/-- A slot as it waits for its bumpless first sample, at or after an instant (R337, R356). -/
def startedSlot (x : Slot) (effect : Nat) : Slot :=
  { x with enabled := true, fresh := true, ramping := true, last := max x.last (effect - 1), skips := 0, late := false, staleM := false,
           staleS := false, staleF := false, adjust := none }

/-- A slot taken out of service. -/
def stoppedSlot (x : Slot) : Slot := { x with enabled := false, ramping := false, selected := false, safe := false }

theorem exec_slotEnable_again {s : State} {w : WorkRef} {op : Op} {j n : Nat} (h : s.loopDue w 0x11 op j) (hn : dInline op.bytes 0 2 = n)
    (hlow : n < 512) (hsub : dSubop op.bytes = 1) (hon : (s.slot n).enabled = true) :
    exec (.slotEnable w) s = .next ((s.loopTaken op j).finish op stOk 0) := by
  refine loopDue_ends h rfl ?_ rfl
  dsimp only
  rw [hn, hsub, if_neg (by omega), if_neg Nat.one_ne_zero]
  exact if_pos hon

/-- The load of a slot that does not fit is reason 2 (R327). -/
theorem enableRefusal_capacity {s : State} {n : Nat} (hgood : s.slotRefusal (s.slot n).record = none)
    (hfull : 55555 < s.loopLoad + slN (s.slot n).record) : s.enableRefusal n = some 2 := by
  unfold State.enableRefusal
  dsimp only
  rw [hgood]
  exact if_pos hfull

theorem exec_slotEnable_refused {s : State} {w : WorkRef} {op : Op} {j n k : Nat} (h : s.loopDue w 0x11 op j) (hn : dInline op.bytes 0 2 = n)
    (hlow : n < 512) (hsub : dSubop op.bytes = 1) (hoff : (s.slot n).enabled = false) (hbad : s.enableRefusal n = some k) :
    LoopRefuses (s.loopTaken op j) op (exec (.slotEnable w) s) k := by
  refine loopDue_refuses h rfl ?_
  dsimp only
  rw [hn, hsub, if_neg (by omega), if_neg Nat.one_ne_zero]
  simp only [loopTaken_slot, loopTaken_enableRefusal, hoff, hbad, Bool.false_eq_true, if_false]

theorem exec_slotEnable_starts {s : State} {w : WorkRef} {op : Op} {j n : Nat} (h : s.loopDue w 0x11 op j) (hn : dInline op.bytes 0 2 = n)
    (hlow : n < 512) (hsub : dSubop op.bytes = 1) (hoff : (s.slot n).enabled = false) (hgood : s.enableRefusal n = none)
    (hthere : n < s.loop.slots.length) : ∃ u : State, exec (.slotEnable w) s = .next (u.finish op stOk 0) ∧
      u.slot n = startedSlot (s.slot n) (s.loopTaken op j).loop.effect ∧ u = { s.loopTaken op j with loop := u.loop } := by
  let v := (s.loopTaken op j).setSlot n fun x => startedSlot x (s.loopTaken op j).loop.effect
  refine ⟨v.setStage (v.stageOfSlot (v.slot n)) fun t => { t with active := true }, loopDue_ends h rfl ?_ rfl,
    setSlot_slot (s := s.loopTaken op j) hthere _, rfl⟩
  dsimp only
  rw [hn, hsub, if_neg (by omega), if_neg Nat.one_ne_zero]
  simp only [loopTaken_slot, loopTaken_enableRefusal, hoff, hgood, Bool.false_eq_true, if_false]
  rfl

/-- A slot that feeds its stage itself, or that is out of service already, is taken out without a run of its stage (R344). -/
theorem exec_slotEnable_stops {s : State} {w : WorkRef} {op : Op} {j n : Nat} (h : s.loopDue w 0x11 op j) (hn : dInline op.bytes 0 2 = n)
    (hlow : n < 512) (hsub : dSubop op.bytes = 0) (hthere : n < s.loop.slots.length)
    (halone : slotGroup (s.slot n) = none ∨ (s.slot n).enabled = false) : ∃ u : State, exec (.slotEnable w) s = .next (u.finish op stOk 0) ∧
      u.slot n = stoppedSlot (s.slot n) ∧ u = { s.loopTaken op j with loop := u.loop } := by
  let v := (s.loopTaken op j).setSlot n stoppedSlot
  let o := s.stageOfSlot (s.slot n)
  refine ⟨v.setStage o fun t => { t with active := v.stageFed o }, loopDue_ends h rfl ?_ rfl, setSlot_slot (s := s.loopTaken op j) hthere _, rfl⟩
  have hrest : ¬ (((s.loopTaken op j).slot n).enabled = true ∧ (slotGroup ((s.loopTaken op j).slot n)).isSome = true ∧
      (!v.stageFed o) = true) := by
    rintro ⟨hon, hgroup, -⟩
    rcases halone with hnone | hoff
    · simp [hnone] at hgroup
    · simp [hoff] at hon
  dsimp only
  rw [hn, hsub, if_neg (by omega), if_pos rfl]
  exact congrArg (fun u : State => (u.setStage o fun t => { t with active := u.stageFed o }).finishCut op stOk 0) (if_neg hrest)

/-! SET_TARGET. -/

theorem exec_setTarget_missed {s : State} {w : WorkRef} {op : Op} {j : Nat} (h : s.loopLate w 0x12 op j) (hpolicy : dLatePolicy op.bytes = false) :
    exec (.setTarget w) s = .next ((s.loopTaken op j).finish { op with late := false } stLaunchMissed 0) :=
  congrArg Host.Outcome.next (by rw [loopOp_late h, if_pos hpolicy, finishCut_holds (s := s.loopTaken op j) (holds_of_wb rfl h.1)])

theorem exec_setTarget_late {s : State} {w : WorkRef} {op : Op} {j n : Nat} (h : s.loopLate w 0x12 op j) (hpolicy : dLatePolicy op.bytes = true)
    (hn : dInline op.bytes 0 2 = n) (hlow : n < 512) (hfinite : ffinite (BitVec.ofNat 32 (dInline op.bytes 4 4)) = true)
    (hclass : selClass (slSrc (s.slot n).record 1) = 1) (hrecord : (s.slot n).record ≠ []) :
    exec (.setTarget w) s = .next (((s.loopTaken op j).setSlot n fun x =>
      { x with setTarget := some (BitVec.ofNat 32 (dInline op.bytes 4 4)) }).finish { op with late := true } stOk 0) := by
  subst hn
  exact loopLate_ends h hpolicy rfl ((if_neg (by simp [hfinite, hlow])).trans (if_neg (by simp [hclass, hrecord]))) rfl

theorem exec_setTarget {s : State} {w : WorkRef} {op : Op} {j n : Nat} (h : s.loopDue w 0x12 op j) (hn : dInline op.bytes 0 2 = n)
    (hlow : n < 512) (hfinite : ffinite (BitVec.ofNat 32 (dInline op.bytes 4 4)) = true)
    (hclass : selClass (slSrc (s.slot n).record 1) = 1) (hrecord : (s.slot n).record ≠ []) :
    exec (.setTarget w) s = .next (((s.loopTaken op j).setSlot n fun x =>
      { x with setTarget := some (BitVec.ofNat 32 (dInline op.bytes 4 4)) }).finish op stOk 0) := by
  subst hn
  exact loopDue_ends h rfl ((if_neg (by simp [hfinite, hlow])).trans (if_neg (by simp [hclass, hrecord]))) rfl

/-- A slot whose set-point is no constant takes no target (R358). -/
theorem exec_setTarget_otherClass {s : State} {w : WorkRef} {op : Op} {j n : Nat} (h : s.loopDue w 0x12 op j) (hn : dInline op.bytes 0 2 = n)
    (hlow : n < 512) (hfinite : ffinite (BitVec.ofNat 32 (dInline op.bytes 4 4)) = true)
    (hclass : selClass (slSrc (s.slot n).record 1) ≠ 1) : LoopRefuses (s.loopTaken op j) op (exec (.setTarget w) s) 7 := by
  subst hn
  exact loopDue_refuses h rfl ((if_neg (by simp [hfinite, hlow])).trans (if_pos (.inl hclass)))

/-! GROUP_WRITE. -/

theorem exec_groupWrite_refused {s : State} {w : WorkRef} {op : Op} {j g k : Nat} (h : s.loopDue w 0x13 op j) (hg : dInline op.bytes 0 1 = g)
    (hlow : g < 64) (hbad : s.groupRefusal g (s.buffer op) = some k) :
    LoopRefuses (s.loopTaken op j) op (exec (.groupWrite w) s) k := by
  refine loopDue_refuses h rfl ?_
  dsimp only
  rw [hg, if_neg (Nat.not_le.2 hlow), loopTaken_buffer, loopTaken_groupRefusal, hbad]

theorem exec_groupWrite {s : State} {w : WorkRef} {op : Op} {j g : Nat} (h : s.loopDue w 0x13 op j) (hg : dInline op.bytes 0 1 = g)
    (hlow : g < 64) (hgood : s.groupRefusal g (s.buffer op) = none) :
    exec (.groupWrite w) s = .next (State.finish { s.loopTaken op j with loop := { (s.loopTaken op j).loop with
      groups := updAt s.loop.groups g fun x => { x with record := s.buffer op, configured := true } } } op stOk 0) := by
  refine loopDue_ends h rfl ?_ rfl
  dsimp only
  rw [hg, if_neg (Nat.not_le.2 hlow), loopTaken_buffer, loopTaken_groupRefusal, hgood]
  rfl

/-! TABLE_LOAD. -/

/-- A table kind above 1 is none (R357). -/
theorem exec_tableLoad_noKind {s : State} {w : WorkRef} {op : Op} {j : Nat} (h : s.loopDue w 0x15 op j) (hkind : 1 < dSubop op.bytes) :
    LoopRefuses (s.loopTaken op j) op (exec (.tableLoad w) s) 5 := by
  obtain ⟨k, hk⟩ : ∃ k, dSubop op.bytes = k + 2 := Nat.exists_eq_add_of_le' hkind
  refine loopDue_refuses h rfl ?_
  dsimp only
  rw [hk]
  rfl

theorem exec_tableLoad_friction {s : State} {w : WorkRef} {op : Op} {j t : Nat} (h : s.loopDue w 0x15 op j) (ht : dInline op.bytes 0 1 = t)
    (hkind : dSubop op.bytes = 0) (hlow : t < 64) (hlen : (s.buffer op).length = 128)
    (hgood : ∀ x ∈ tableOf 32 (s.buffer op), ffinite x = true ∧ flt x 0 = false) :
    exec (.tableLoad w) s = .next (State.finish { s.loopTaken op j with
      loop := { (s.loopTaken op j).loop with friction := updAt s.loop.friction t fun _ => tableOf 32 (s.buffer op) } } op stOk 0) := by
  have hall : (tableOf 32 (s.buffer op)).all (fun x => ffinite x && !flt x 0) = true := List.all_eq_true.2 fun x hx => by
    rw [(hgood x hx).1, (hgood x hx).2]; rfl
  refine loopDue_ends h rfl ?_ rfl
  dsimp only
  rw [hkind, ht]
  exact if_neg (by rw [loopTaken_buffer, hall]; simp [hlen, hlow])

theorem exec_tableLoad_ripple {s : State} {w : WorkRef} {op : Op} {j t : Nat} (h : s.loopDue w 0x15 op j) (ht : dInline op.bytes 0 1 = t)
    (hkind : dSubop op.bytes = 1) (hlow : t < 32) (hlen : (s.buffer op).length = 1024)
    (hgood : ∀ x ∈ tableOf 256 (s.buffer op), ffinite x = true) :
    exec (.tableLoad w) s = .next (State.finish { s.loopTaken op j with
      loop := { (s.loopTaken op j).loop with ripple := updAt s.loop.ripple t fun _ => tableOf 256 (s.buffer op) } } op stOk 0) := by
  have hall : (tableOf 256 (s.buffer op)).all ffinite = true := List.all_eq_true.2 hgood
  refine loopDue_ends h rfl ?_ rfl
  dsimp only
  rw [hkind, ht]
  exact if_neg (by rw [loopTaken_buffer, hall]; simp [hlen, hlow])

/-! SLOT_READ, which waits for no bundle. -/

theorem exec_slotRead {s : State} {w : WorkRef} {op : Op} (h : s.ready w 1 0x16 op) :
    exec (.slotRead w) s = .next (
      if 512 ≤ dInline op.bytes 0 2 then
        ({ s with loop := { s.loop with lastRefuse := 5 } }.record .loopRefused [5]).finish op stLoopRefused 5
      else
        let x := s.slot (dInline op.bytes 0 2)
        s.finish op stOk 64 (leBytes 4 x.w.toNat ++ leBytes 4 x.uSlot.toNat ++ leBytes 8 x.i.toNat ++ leBytes 8 x.d.toNat
          ++ leBytes 4 x.uPrevIn.toNat ++ leBytes 4 x.vPrev.toNat ++ leBytes 4 (slotStatus x) ++ List.replicate 28 0)) :=
  congrArg Host.Outcome.next (engineOp_ready h _)

/-- Settles O45: a command that is due acts as its own rule says, work that is not covered or is late by `State.loopOp` alone. -/
theorem loopCommandsTakeEffectWhenCovered : Obligations.LoopCommandsTakeEffectWhenCovered := by
  unfold Obligations.LoopCommandsTakeEffectWhenCovered
  refine ⟨?uncovered, ?missed, ?late, ?slotWrite, ?slotEnable, ?setTarget, ?groupWrite, ?outWrite, ?tableLoad, ?slotRead⟩
  case uncovered =>
    exact fun s w op j hholds hready hjsn hseen => congrArg Host.Outcome.next (loopOp_uncovered hholds hready hjsn hseen _)
  case missed =>
    exact fun s w op j win hholds hready hjsn hseen htimed hangle hpast =>
      exec_setTarget_missed ⟨hholds, hready, hjsn, win, hseen, htimed, hangle, hpast⟩
  case late =>
    exact fun s w op j win n hholds hready hjsn hseen htimed hangle hpast =>
      exec_setTarget_late ⟨hholds, hready, hjsn, win, hseen, htimed, hangle, hpast⟩
  case slotWrite =>
    exact fun s w op j n h hn => ⟨fun hhigh => loopDue_refuses h rfl (if_pos (hn ▸ hhigh)), exec_slotWrite_otherShape h hn,
      fun k => exec_slotWrite_refused h hn, exec_slotWrite h hn⟩
  case slotEnable =>
    exact fun s w op j n h hn hlow => ⟨exec_slotEnable_again h hn hlow,
      fun hsub hoff hgood hfull => exec_slotEnable_refused h hn hlow hsub hoff (enableRefusal_capacity hgood hfull),
      exec_slotEnable_starts h hn hlow, exec_slotEnable_stops h hn hlow⟩
  case setTarget =>
    exact fun s w op j n h hn hlow hfinite => ⟨exec_setTarget_otherClass h hn hlow hfinite, exec_setTarget h hn hlow hfinite⟩
  case groupWrite =>
    exact fun s w op j g h hg => ⟨fun hhigh => loopDue_refuses h rfl (if_pos (hg ▸ hhigh)), fun k => exec_groupWrite_refused h hg,
      exec_groupWrite h hg⟩
  case outWrite =>
    rintro s w op j o h rfl
    exact ⟨fun hbad => loopDue_refuses h rfl (if_pos hbad),
      fun hlow hgood => loopDue_ends h rfl (if_neg (by simp [hlow, hgood])) rfl⟩
  case tableLoad =>
    exact fun s w op j t h ht => ⟨exec_tableLoad_noKind h, exec_tableLoad_friction h ht, exec_tableLoad_ripple h ht⟩
  case slotRead =>
    rintro s w op n h rfl
    refine ⟨fun hhigh => ⟨_, ?_, (Says.refl _).record .loopRefused [5]⟩, fun hlow => ?_⟩
    · rw [exec_slotRead h, if_pos hhigh]
    · rw [exec_slotRead h, if_neg (Nat.not_le.2 hlow)]

end Sys2Proof.Machine
end

section
/-! SUPPORT. Sweeps of the Silkline rings: their strobes, their samples, the halves that the ends share, breaks and healing (R363, R370 to R388). -/

namespace Sys2Proof.Machine

/-! The ring behind an update. -/

/-- A ring is read from the Silkline block alone. -/
theorem ring_of_slk {s t : State} (h : t.slk = s.slk) (p : Nat) : t.ring p = s.ring p := by
  unfold State.ring; rw [h]

/-- Rings that agree but for their nodes and sweeps agree in every field but these. -/
theorem static_field {α : Type} (f : Ring → α) {r q : Ring} (h : r.static = q.static) (hf : ∀ r : Ring, f r.static = f r := by intro; rfl) :
    f r = f q := by
  rw [← hf r, h, hf q]

@[simp] theorem record_ring (s : State) (n : RecName) (args : List Nat) (p : Nat) : (s.record n args).ring p = s.ring p :=
  ring_of_slk (by simp only [State.record_frame]) p

@[simp] theorem raise_ring (s : State) (k p : Nat) : (s.raise k).ring p = s.ring p := ring_of_slk (by simp only [State.raise_frame]) p

@[simp] theorem sendState_ring (s : State) (q p : Nat) : (s.sendState q).ring p = s.ring p := ring_of_slk (by simp only [State.sendState_frame]) p

/-- A ring that stands at its place. -/
theorem rings_at {s : State} {p : Nat} (h : p < s.slk.rings.length) : s.slk.rings[p]? = some (s.ring p) := by
  rw [List.getElem?_eq_getElem h, State.ring, List.getD_eq_getElem?_getD, List.getElem?_eq_getElem h]; rfl

/-- What a change of one sweep makes of its ring. -/
theorem setSweep_at {s : State} {p : Nat} {r : Ring} (h : s.slk.rings[p]? = some r) (e : Nat) (f : Sweep → Sweep) :
    (s.setSweep p e f).slk.rings[p]? = some { r with sweeps := r.sweeps.map fun w => if w.epoch = e then f w else w } := setRing_at h _

/-! STROBE_LAUNCH. -/

/-- Ring p takes strobes of its schedule from this end (R370). -/
def State.launches (s : State) (p : Nat) : Prop :=
  p < 4 ∧ s.drivesEnd p = true ∧ s.bit .slkCtrl 0 = true ∧ started (s.ring p) = true ∧ s.sys.mode ≠ .cocoon

theorem exec_strobeLaunch_notDriven {s : State} {p : Nat} (h : s.drivesEnd p = false) : exec (.strobeLaunch p) s = .next s :=
  congrArg Host.Outcome.next (if_neg (by simp [h]))

/-- A strobe waits for LATCH_BASE before its instant (R370). -/
theorem exec_strobeLaunch_early {s : State} {p : Nat} (h : s.launches p) (hnext : (s.nextStrobe p).2.2 = 0)
    (hearly : s.tb.ang + s.launchLead < s.strobeAt (s.nextStrobe p).1 (s.nextStrobe p).2.1) : exec (.strobeLaunch p) s = .next s :=
  congrArg Host.Outcome.next ((if_pos h).trans ((if_pos hnext).trans (if_neg (Nat.not_le.2 hearly))))

/-- A strobe that is due, or one LATE strobe for the occurrences passed over, is launched (R115, R374). -/
theorem exec_strobeLaunch_due {s : State} {p : Nat} (h : s.launches p)
    (hdue : (s.nextStrobe p).2.2 ≠ 0 ∨ s.strobeAt (s.nextStrobe p).1 (s.nextStrobe p).2.1 ≤ s.tb.ang + s.launchLead) :
    exec (.strobeLaunch p) s = .next (s.strobe p (s.nextStrobe p).1 (s.nextStrobe p).2.1
      (if (s.nextStrobe p).2.2 = 0 then s.strobeAt (s.nextStrobe p).1 (s.nextStrobe p).2.1 else s.tb.ang) (s.nextStrobe p).2.2) := by
  refine congrArg Host.Outcome.next ((if_pos h).trans ?_)
  dsimp only
  by_cases hskips : (s.nextStrobe p).2.2 = 0
  · rw [if_pos hskips, if_pos hskips, if_pos (hdue.resolve_left (absurd hskips)), hskips]
  · rw [if_neg hskips, if_neg hskips]

/-- A ring back on the parts of R377 (R388). -/
def Ring.healed (r : Ring) : Ring :=
  { r with rstate := if r.partnerEnd then 2 else 3, break1 := 0, break2 := 0, healing := false,
           nodes := r.nodes.map fun (n : Node) => if n.presence = 2 then { n with presence := 1 } else n }

theorem finishHeal_at {s : State} {p : Nat} {r : Ring} (h : s.slk.rings[p]? = some r) (hready : healReady r = true) :
    (s.finishHeal p).slk.rings[p]? = some r.healed := by
  unfold State.finishHeal
  rw [ring_of h, hready, if_neg Bool.noConfusion]
  simp only [State.record_frame]
  exact setRing_at h Ring.healed

/-- A strobe finds its ring as healing has left it. -/
theorem strobe_finishHeal {s : State} {p : Nat} (h : ((s.finishHeal p).ring p).healing = false) (k e i n : Nat) :
    s.strobe p k e i n = (s.finishHeal p).strobe p k e i n := by
  unfold State.strobe
  rw [finishHeal_none h]

/-- A strobe of a ring that does not heal, while every earlier sweep is built, takes its occurrence and its epoch and changes nothing else of the
ring but its sweeps. -/
theorem strobe_static {s : State} {p : Nat} {r : Ring} (h : s.slk.rings[p]? = some r) (hheals : r.healing = false)
    (hbuilt : ∀ w ∈ r.sweeps, w.built = true) (k e i n : Nat) :
    ((s.strobe p k e i n).ring p).static = { r with occ := k, epoch := e }.static := by
  have hlag : (r.sweeps.any fun w => !w.built && !w.partDone) = false := List.any_eq_false.2 fun w hw => by simp [hbuilt w hw]
  have hopen : (r.sweeps.filter fun w => !w.built && decide (w.epoch ≠ r.epoch)) = [] :=
    List.filter_eq_nil_iff.2 fun w hw => by simp [hbuilt w hw]
  unfold State.strobe
  rw [finishHeal_none (by rw [ring_of h]; exact hheals)]
  dsimp only
  rw [ring_of h, hlag, hopen, sendReads_eq]
  simp only [Bool.false_eq_true, if_false, List.map_nil, List.foldl_nil]
  unfold State.ring State.emit State.setRing
  dsimp only
  rw [getD_updAt_self _ _ _ _ _ h]
  rfl

/-- A launch of a ring that has healed goes back to the parts of R377 with its epoch (R388). -/
theorem strobe_heals {s : State} {p : Nat} {r : Ring} (h : s.slk.rings[p]? = some r) (hready : healReady r = true)
    (hbuilt : ∀ w ∈ r.sweeps, w.built = true) (k e i n : Nat) :
    ((s.strobe p k e i n).ring p).static = { r.healed with occ := k, epoch := e }.static := by
  have hat := finishHeal_at h hready
  rw [strobe_finishHeal (by rw [ring_of hat]; rfl)]
  exact strobe_static hat rfl hbuilt k e i n

/-! Samples. -/

/-- A frame of no position of a ring of this module, or with the domain of its rings off. -/
def State.offRing (s : State) (p pos : Nat) : Prop := 4 ≤ p ∨ s.powered 6 = false ∨ pos = 0 ∨ s.ringN p < pos

theorem onRing {s : State} {p pos : Nat} (hlow : p < 4) (hpower : s.powered 6 = true) (hpos : 0 < pos) (hin : pos ≤ s.ringN p) :
    ¬ s.offRing p pos := by
  unfold State.offRing
  simp only [hpower, Bool.true_eq_false, false_or]
  omega

theorem exec_sampleRx_outOfRange {s : State} {p pos : Nat} (h : s.offRing p pos) (ok : Bool) (x : Sample) :
    exec (.sampleRx p pos ok x) s = .next s := congrArg Host.Outcome.next (if_pos h)

/-- A sample of no open sweep changes nothing (R379). -/
theorem exec_sampleRx_noSweep {s : State} {p : Nat} {x : Sample} (h : ∀ w ∈ (s.ring p).sweeps, w.epoch ≠ x.epoch ∨ w.built = true)
    (pos : Nat) : exec (.sampleRx p pos true x) s = .next s := by
  have hnone : ((s.ring p).sweeps.find? fun w => w.epoch == x.epoch && !w.built) = none :=
    List.find?_eq_none.2 fun w hw => by rcases h w hw with hother | hbuilt <;> simp [*]
  by_cases hrange : s.offRing p pos
  · exact exec_sampleRx_outOfRange hrange true x
  · refine congrArg Host.Outcome.next ((if_neg hrange).trans ?_)
    rw [hnone]
    rfl

/-- A position's sample that its sweep already holds is not kept again. -/
theorem exec_sampleRx_held {s : State} {p pos : Nat} {x : Sample} {w : Sweep}
    (hsweep : ((s.ring p).sweeps.find? fun w => w.epoch == x.epoch && !w.built) = some w) (hheld : (assocGet w.samples pos).isSome = true) :
    exec (.sampleRx p pos true x) s = .next s := by
  by_cases hrange : s.offRing p pos
  · exact exec_sampleRx_outOfRange hrange true x
  · refine congrArg Host.Outcome.next ((if_neg hrange).trans ?_)
    rw [hsweep]
    exact if_pos hheld

/-- A good sample that its sweep lacks enters it (R382). -/
theorem exec_sampleRx_kept {s : State} {p pos : Nat} {x : Sample} {w : Sweep} (hrange : ¬ s.offRing p pos)
    (hsweep : ((s.ring p).sweeps.find? fun w => w.epoch == x.epoch && !w.built) = some w) (hlacks : assocGet w.samples pos = none)
    (hgood : ¬ ((s.node p pos).presence = 3 ∨ bitOf x.nstat 0 = true)) : exec (.sampleRx p pos true x) s = .next (s.takeSample p pos x) := by
  refine congrArg Host.Outcome.next ((if_neg hrange).trans ?_)
  rw [hsweep, if_neg (by decide)]
  dsimp only
  rw [hlacks, if_neg (by decide), if_neg hgood]

theorem openSweep_of_epoch {l : List Sweep} {e : Nat} {w : Sweep} (h : (l.find? fun w => w.epoch == e && !w.built) = some w) :
    w ∈ l ∧ w.epoch = e := by
  have hw := List.find?_some h
  simp only [Bool.and_eq_true, beq_iff_eq] at hw
  exact ⟨List.mem_of_find?_eq_some h, hw.1⟩

/-- A sweep with a sample kept at a position. -/
def Sweep.keeping (w : Sweep) (pos : Nat) (x : Sample) : Sweep :=
  { w with samples := assocSet w.samples pos x, failed := w.failed.filter (· != pos) }

/-- With no protection set in force for its ring a sample is compared with nothing (R442). -/
theorem compareSample_unset {s : State} {p : Nat} (h : s.setFor p = none) (pos : Nat) (x : Sample) : s.compareSample p pos x = s := by
  unfold State.compareSample
  rw [h]

theorem takeSample_uncompared {s : State} {p pos : Nat} (x : Sample) (h : s.setFor p = none) :
    s.takeSample p pos x = (s.setSweep p x.epoch (·.keeping pos x)).setNode p pos
      (fun n => { (s.setSweep p x.epoch (·.keeping pos x)).tapChecks x n with missingRun := false, presence := 1 }) := by
  unfold State.takeSample
  exact compareSample_unset (by exact h) pos x

theorem takeSample_keeps {s : State} {p pos : Nat} {r : Ring} {x : Sample} {w : Sweep} (h : s.slk.rings[p]? = some r) (hset : s.setFor p = none)
    (hin : w ∈ r.sweeps) (hepoch : w.epoch = x.epoch) : s.takeSample p pos x = { s with slk := (s.takeSample p pos x).slk } ∧
      w.keeping pos x ∈ ((s.takeSample p pos x).ring p).sweeps := by
  rw [takeSample_uncompared x hset]
  refine ⟨rfl, ?_⟩
  rw [State.setNode, setRing_ring (setSweep_at h _ _)]
  exact List.mem_map.2 ⟨w, hin, if_pos hepoch⟩

/-- The oldest sweep in which this end still has to read a position. -/
def State.wants (s : State) (p pos : Nat) (l : List Sweep) : Option Sweep :=
  l.find? fun w => !w.built && (partOf s.pwr.slotB (s.ringN p) w).contains pos && unread w pos

/-- A position that fails for the first time in its sweep is read once more (R379). -/
theorem sampleFails_first {s : State} {p pos : Nat} {r : Ring} {w : Sweep} (h : s.slk.rings[p]? = some r) (hwants : s.wants p pos r.sweeps = some w)
    (honce : pos ∉ w.once) (silent : Bool) : ∃ t, s.sampleFails p pos silent = t ∧
      (t.ring p).static = { r with rereads := (r.rereads + 1) % 65536 }.static ∧ t.out = s.out ++ [.slk p (.read pos w.epoch)] ∧
      t = { s with slk := t.slk, out := t.out } := by
  refine ⟨_, rfl, ?_⟩
  unfold State.sampleFails
  rw [ring_of h, show r.sweeps.find? _ = some w from hwants]
  dsimp only
  rw [if_pos (by simpa using honce), sendReads_eq]
  have hring := setRing_ring (setSweep_at h w.epoch fun w => { w with once := w.once ++ [pos] })
    fun r => { r with rereads := (r.rereads + 1) % 65536 }
  exact ⟨(congrArg Ring.static hring :), rfl, rfl⟩

/-- A sample that fails its check is counted, and its position has failed (R379). -/
theorem exec_sampleRx_bad {s : State} {p pos : Nat} (hrange : ¬ s.offRing p pos) (x : Sample) :
    exec (.sampleRx p pos false x) s = .next ((s.setRing p fun r => { r with crcErr := (r.crcErr + 1) % 65536 }).sampleFails p pos false) :=
  congrArg Host.Outcome.next ((if_neg hrange).trans (if_pos rfl))

theorem exec_sampleRx_badOnce {s : State} {p pos : Nat} {r : Ring} {w : Sweep} (h : s.slk.rings[p]? = some r)
    (hrange : ¬ s.offRing p pos) (hwants : s.wants p pos r.sweeps = some w) (honce : pos ∉ w.once)
    (x : Sample) : ∃ t, exec (.sampleRx p pos false x) s = .next t ∧ (t.ring p).crcErr = (r.crcErr + 1) % 65536 ∧
      (t.ring p).rereads = (r.rereads + 1) % 65536 ∧ t.out = s.out ++ [.slk p (.read pos w.epoch)] ∧
      t = { s with slk := t.slk, out := t.out } := by
  obtain ⟨t, ht, hring, hout, hframe⟩ := sampleFails_first (setRing_at h fun r => { r with crcErr := (r.crcErr + 1) % 65536 }) hwants honce false
  exact ⟨t, (exec_sampleRx_bad hrange x).trans (congrArg _ ht), static_field Ring.crcErr hring, static_field Ring.rereads hring, hout, hframe⟩

theorem exec_sampleTimeout_notDriven {s : State} {p : Nat} (h : s.drivesEnd p = false) (pos : Nat) : exec (.sampleTimeout p pos) s = .next s :=
  congrArg Host.Outcome.next (if_neg (by simp [h]))

theorem exec_sampleTimeout_once {s : State} {p pos : Nat} {r : Ring} {w : Sweep} (h : s.slk.rings[p]? = some r) (hlow : p < 4) (hpos : 0 < pos)
    (hdrives : s.drivesEnd p = true) (hwants : s.wants p pos r.sweeps = some w) (honce : pos ∉ w.once) :
    ∃ t, exec (.sampleTimeout p pos) s = .next t ∧ (t.ring p).rereads = (r.rereads + 1) % 65536 ∧
      t.out = s.out ++ [.slk p (.read pos w.epoch)] ∧ t = { s with slk := t.slk, out := t.out } := by
  obtain ⟨t, ht, hring, hout, hframe⟩ := sampleFails_first h hwants honce true
  exact ⟨t, congrArg Host.Outcome.next ((if_pos ⟨hlow, hdrives, hpos⟩).trans ht), static_field Ring.rereads hring, hout, hframe⟩

/-! The part of an end. -/

theorem exec_sweepPartDone_notDriven {s : State} {p : Nat} (h : s.drivesEnd p = false) (us : Nat) : exec (.sweepPartDone p us) s = .next s :=
  congrArg Host.Outcome.next (if_pos (.inr h))

theorem exec_sweepPartDone_noSweep {s : State} {p : Nat} (h : openSweep (s.ring p) = none) (us : Nat) : exec (.sweepPartDone p us) s = .next s := by
  by_cases hdrives : 4 ≤ p ∨ s.drivesEnd p = false
  · exact congrArg Host.Outcome.next (if_pos hdrives)
  · refine congrArg Host.Outcome.next ((if_neg hdrives).trans ?_)
    rw [h]

theorem exec_sweepPartDone_unread {s : State} {p : Nat} {w : Sweep} (hopen : openSweep (s.ring p) = some w)
    (hunread : (partOf s.pwr.slotB (s.ringN p) w).any (unread w) = true) (us : Nat) : exec (.sweepPartDone p us) s = .next s := by
  by_cases hdrives : 4 ≤ p ∨ s.drivesEnd p = false
  · exact congrArg Host.Outcome.next (if_pos hdrives)
  · refine congrArg Host.Outcome.next ((if_neg hdrives).trans ?_)
    rw [hopen]
    exact if_pos hunread

/-- The samples of a sweep at this end's own part, in ring order. -/
def State.ownSamples (s : State) (p : Nat) (w : Sweep) : List (Nat × Sample) :=
  (posRange 1 (s.ringN p)).filterMap fun pos =>
    if (partOf s.pwr.slotB (s.ringN p) w).contains pos then (assocGet w.samples pos).map fun x => (pos, x) else none

theorem mem_ownSamples {s : State} {p : Nat} {w : Sweep} {e : Nat × Sample} (h : e ∈ s.ownSamples p w) :
    e.1 ∈ partOf s.pwr.slotB (s.ringN p) w ∧ assocGet w.samples e.1 = some e.2 := by
  obtain ⟨pos, -, hpos⟩ := List.mem_filterMap.1 h
  by_cases hpart : (partOf s.pwr.slotB (s.ringN p) w).contains pos = true
  · rw [if_pos hpart] at hpos
    obtain ⟨x, hx, rfl⟩ := Option.map_eq_some_iff.1 hpos
    exact ⟨List.contains_iff_mem.1 hpart, hx⟩
  · rw [if_neg hpart] at hpos
    cases hpos

/-- A whole part of a two-ended sweep goes to the partner, whose own part is still out (R381). -/
theorem exec_sweepPartDone_shares {s : State} {p : Nat} {r : Ring} {w : Sweep} (h : s.slk.rings[p]? = some r) (hlow : p < 4)
    (hdrives : s.drivesEnd p = true) (hup : s.wbUp = true) (hopen : openSweep (s.ring p) = some w)
    (hread : (partOf s.pwr.slotB (s.ringN p) w).any (unread w) = false) (htwo : ¬ (w.partnerDone = true ∨ w.mode = 1 ∨ w.mode = 2)) (us : Nat) :
    ∃ t, exec (.sweepPartDone p us) s = .next t ∧ t = { s with
      slk := t.slk, out := s.out ++ [wbOut s (.halfSamples p w.epoch w.angle w.astatus (s.ownSamples p w))] } ∧
      (t.ring p).sweepUs = us % 65536 := by
  let u := (s.setSweep p w.epoch fun w => { w with partDone := true }).setRing p fun r => { r with sweepUs := us % 65536 }
  have hsent := sendWb_up (s := u) hup (.halfSamples p w.epoch w.angle w.astatus (s.ownSamples p w))
  refine ⟨u.sendWb (.halfSamples p w.epoch w.angle w.astatus (s.ownSamples p w)), ?_, by rw [hsent]; rfl, ?_⟩
  · refine congrArg Host.Outcome.next ((if_neg (by simp [hlow, hdrives])).trans ?_)
    rw [hopen]
    dsimp only
    rw [hread, if_neg Bool.noConfusion, if_neg htwo]
    rfl
  · rw [ring_of_slk (s := u) (by simp only [State.sendWb_frame]) p]
    exact congrArg Ring.sweepUs (setRing_ring (setSweep_at h w.epoch fun w => { w with partDone := true }) fun r => { r with sweepUs := us % 65536 })

/-! The partner's half. -/

theorem exec_halfRingRx_dropped {s : State} {g : Nat} {ok : Bool} (h : ok = false ∨ s.wbUp = false ∨ g < s.wb.gen) (b : HalfBody) :
    exec (.halfRingRx ok g b) s = .next s := by
  show execHalfRingRx ok g b s = _
  unfold execHalfRingRx
  exact fromPartner_dropped h _

/-- A HALF_RING message that no ring of this module takes, or of a kind that is reserved (table HALF_RING body). -/
theorem exec_halfRingRx_notTaken {s : State} {b : HalfBody} (hup : s.wbUp = true)
    (h : 4 ≤ b.ring ∨ s.powered 6 = false ∨ s.cfg.manager = true ∨ 3 ≤ b.kind) : exec (.halfRingRx true s.wb.gen b) s = .next s := by
  show execHalfRingRx true s.wb.gen b s = _
  unfold execHalfRingRx
  rw [fromPartner_present hup]
  refine congrArg Host.Outcome.next ?_
  by_cases hbarred : 4 ≤ b.ring ∨ s.powered 6 = false ∨ s.cfg.manager = true
  · exact if_pos hbarred
  · obtain ⟨k, hk⟩ : ∃ k, b.kind = k + 3 := Nat.exists_eq_add_of_le' (by tauto)
    rw [if_neg hbarred, hk]
    rfl

/-- Position 0 names no break. -/
theorem placeBreak_zero (s : State) (p : Nat) (tell : Bool) : s.placeBreak p 0 tell = s := by
  unfold State.placeBreak
  exact if_pos (.inl rfl)

/-- STATE of a partner whose end is in order and sees no break (R386). -/
theorem exec_halfRingRx_endOk {s : State} {b : HalfBody} (hup : s.wbUp = true)
    (hopen : ¬ (4 ≤ b.ring ∨ s.powered 6 = false ∨ s.cfg.manager = true)) (hkind : b.kind = 1) (hbreak1 : b.break1 = 0)
    (hbreak2 : b.break2 = 0) (hok : b.endOk = true) :
    exec (.halfRingRx true s.wb.gen b) s = .next (s.setRing b.ring fun r => { r with partnerEnd := true }) := by
  show execHalfRingRx true s.wb.gen b s = _
  unfold execHalfRingRx
  rw [fromPartner_present hup, if_neg hopen, hkind, hbreak1, hbreak2, hok]
  dsimp only
  rw [placeBreak_zero, placeBreak_zero]
  rfl

/-- A frame to relay, at an end of a module without the lease (R392). -/
theorem exec_halfRingRx_relay {s : State} {b : HalfBody} (hup : s.wbUp = true)
    (hopen : ¬ (4 ≤ b.ring ∨ s.powered 6 = false ∨ s.cfg.manager = true)) (hkind : b.kind = 2) (hholds : s.holds = false) :
    exec (.halfRingRx true s.wb.gen b) s = .next (
      if s.drivesEnd b.ring = false then s
      else if leField b.frame 0 1 = 0x0E then s.emit (.slk b.ring (relayedFrame b.frame))
      else s.setRing b.ring fun r => { r with relays := r.relays ++ [b.frame] }) := by
  show execHalfRingRx true s.wb.gen b s = _
  unfold execHalfRingRx
  rw [fromPartner_present hup, if_neg hopen, hkind]
  exact congrArg Host.Outcome.next (if_neg (by simp [hholds]))

/-! One-ended rings and breaks. -/

theorem exec_halfRingTimeout_notDriven {s : State} {p : Nat} (h : s.drivesEnd p = false) : exec (.halfRingTimeout p) s = .next s :=
  congrArg Host.Outcome.next (if_neg (by simp [h]))

/-- A ring that runs one-ended already stays as it is (R386). -/
theorem oneEnded_again {s : State} {p : Nat} (h : (s.ring p).rstate = 3 ∨ (s.ring p).rstate = 5) : s.oneEnded p = s :=
  if_neg (by omega)

theorem exec_halfRingTimeout_unchanged {s : State} {p : Nat}
    (h : (s.ring p).rstate = 3 ∨ (s.ring p).rstate = 5 ∨ ∀ w ∈ (s.ring p).sweeps, s.halfOverdue w = false) :
    exec (.halfRingTimeout p) s = .next s := by
  by_cases hdue : p < 4 ∧ s.drivesEnd p = true ∧ (s.ring p).sweeps.any s.halfOverdue = true
  · obtain ⟨w, hw, hover⟩ := List.any_eq_true.1 hdue.2.2
    refine congrArg Host.Outcome.next ((if_pos hdue).trans (oneEnded_again ?_))
    rcases h with h | h | h
    · exact .inl h
    · exact .inr h
    · simp [h w hw] at hover
  · exact congrArg Host.Outcome.next (if_neg hdue)

/-- A two-ended ring that goes on one-ended (R386). -/
theorem oneEnded_static {s : State} {p : Nat} {r : Ring} (h : s.slk.rings[p]? = some r) (htwo : r.rstate = 2 ∨ r.rstate = 4) :
    ((s.oneEnded p).ring p).static = { r with rstate := if r.rstate = 2 then 3 else 5, partnerEnd := false }.static := by
  unfold State.oneEnded
  rw [ring_of h]
  dsimp only
  rw [if_pos htwo, resplit_static, markLost_static, record_ring, setRing_ring h]

/-- The partner's half of a sweep is overdue with Wingbeat or the partner lost, or 4.0 ms after the strobe (R386). -/
theorem halfOverdue_of {s : State} {w : Sweep} (hbuilt : w.built = false) (hpartner : w.partnerDone = false)
    (hwhy : s.wbUp = false ∨ s.wb.partner.heard = false ∨ 4000000 ≤ countsNs (s.tb.ang - w.angle) s.tb.freq) : s.halfOverdue w = true := by
  unfold State.halfOverdue
  rcases hwhy with h | h | h <;> simp [hbuilt, hpartner, h]

theorem exec_halfRingTimeout_due {s : State} {p : Nat} {w : Sweep} (hlow : p < 4) (hdrives : s.drivesEnd p = true) (hin : w ∈ (s.ring p).sweeps)
    (hover : s.halfOverdue w = true) : exec (.halfRingTimeout p) s = .next (s.oneEnded p) :=
  congrArg Host.Outcome.next (if_pos ⟨hlow, hdrives, List.any_eq_true.2 ⟨w, hin, hover⟩⟩)

/-- A break is placed once (R383). -/
theorem exec_breakRx_unchanged {s : State} {p pos : Nat} {b : Bool}
    (h : 4 ≤ p ∨ started (s.ring p) = false ∨ (s.ring p).break1 = if b then pos + 1 else pos) : exec (.breakRx p pos b) s = .next s := by
  by_cases hseen : p < 4 ∧ s.powered 6 = true ∧ started (s.ring p) = true ∧ 0 < pos ∧ pos ≤ s.ringN p
  · obtain ⟨hlow, hpower, hstarted, hin⟩ := hseen
    have hsame := (h.resolve_left (Nat.not_le.2 hlow)).resolve_left (by simp [hstarted])
    exact congrArg Host.Outcome.next ((if_pos ⟨hlow, hpower, hstarted, hin⟩).trans (if_pos (.inr (.inl hsame))))
  · exact congrArg Host.Outcome.next (if_neg hseen)

/-- A whole ring after its first break (R383, R384). -/
def Ring.broken (r : Ring) (b : Nat) : Ring :=
  { r with healing := false, break1 := b, break2 := 0, breakSeen := true,
           rstate := if r.rstate = 2 then 4 else if r.rstate = 3 then 5 else r.rstate }

theorem placeBreak_first {s : State} {p b : Nat} {r : Ring} (h : s.slk.rings[p]? = some r) (hbreak1 : r.break1 = 0) (hbreak2 : r.break2 = 0)
    (hb : b ≠ 0) (tell : Bool) : ((s.placeBreak p b tell).ring p).static = (r.broken b).static := by
  have htold : ∀ u : State, (if tell = true then u.sendState p else u).ring p = u.ring p := fun u => by split <;> simp
  unfold State.placeBreak
  rw [ring_of h]
  dsimp only
  rw [if_neg (by simp [hb, hb.symm, hbreak1, hbreak2]), resplit_static, markLost_static, raise_ring, record_ring, htold, setRing_ring h]
  simp [hbreak1, Ring.broken]

theorem exec_breakRx {s : State} {p pos : Nat} (hlow : p < 4) (hpower : s.powered 6 = true) (hstarted : started (s.ring p) = true) (hpos : 0 < pos)
    (hin : pos ≤ s.ringN p) (b : Bool) : exec (.breakRx p pos b) s = .next (s.placeBreak p (if b then pos + 1 else pos) true) :=
  congrArg Host.Outcome.next (if_pos ⟨hlow, hpower, hstarted, hpos, hin⟩)

/-! BREAK_HEAL. -/

theorem exec_breakHeal_notDriven {s : State} {p : Nat} (h : s.drivesEnd p = false) : exec (.breakHeal p) s = .next s :=
  congrArg Host.Outcome.next (if_neg (by simp [h]))

/-- A broken or one-ended ring has its nodes measured again (R388). -/
theorem exec_breakHeal {s : State} {p : Nat} {r : Ring} (h : s.slk.rings[p]? = some r) (hlow : p < 4) (hdrives : s.drivesEnd p = true)
    (hfrom : 3 ≤ r.rstate) (hto : r.rstate ≤ 5) : ∃ t, exec (.breakHeal p) s = .next t ∧
      (t.ring p).static = { r with healing := true }.static ∧
      t.out = s.out ++ (s.healPart p).flatMap (fun pos => List.replicate 4 (.slk p (.echo pos))) ∧
      t.wb = s.wb ∧ t.prot = s.prot ∧ t.regs = s.regs := by
  have hcond : p < 4 ∧ s.drivesEnd p = true ∧ (s.ring p).rstate ≠ 6 ∧ (s.ring p).rstate ≠ 1 ∧
      (3 ≤ (s.ring p).rstate ∨ (s.ring p).partnerEnd = true) := by
    rw [ring_of h]
    exact ⟨hlow, hdrives, by omega, by omega, .inl hfrom⟩
  refine ⟨_, congrArg Host.Outcome.next (if_pos hcond), ?_⟩
  obtain ⟨k, hk, hstatic⟩ := measure_eq p (s.healPart p) (s.setRing p fun r => { r with healing := true })
  rw [hk]
  exact ⟨hstatic.trans (congrArg Ring.static (setRing_ring h _)), rfl, rfl, rfl, rfl⟩

/-- Settles O47: a launch by what its strobe leaves, a sample by the sweep that wants it, a half by its kind, and what becomes of the ring by
its parts besides nodes and sweeps. -/
theorem sweepsAreStrobedReadAndShared : Obligations.SweepsAreStrobedReadAndShared := by
  unfold Obligations.SweepsAreStrobedReadAndShared
  refine ⟨?notDriven, ?launch, ?outOfRange, ?noSweep, ?held, ?kept, ?failed, ?noOpen, ?part, ?dropped, ?notTaken, ?half, ?oneAlready, ?oneEnded,
    ?breakAgain, ?broken, ?heal, ?carrier⟩
  case notDriven =>
    exact fun s p us pos _ h => ⟨exec_strobeLaunch_notDriven h, exec_sampleTimeout_notDriven h pos, exec_sweepPartDone_notDriven h us,
      exec_halfRingTimeout_notDriven h, exec_breakHeal_notDriven h⟩
  case launch =>
    intro s p r h hlow hdrives hen hstarted hmode hbuilt
    have hlaunches : s.launches p := ⟨hlow, hdrives, hen, by rw [ring_of h]; exact hstarted, hmode⟩
    refine ⟨exec_strobeLaunch_early hlaunches, fun hdue => ⟨fun hheals => ⟨_, exec_strobeLaunch_due hlaunches hdue, ?_⟩, fun hready =>
      ⟨_, exec_strobeLaunch_due hlaunches hdue, ?_⟩⟩⟩
    · exact strobe_facts h hheals hbuilt _ _ _ _
    · have hring := strobe_heals h hready hbuilt (s.nextStrobe p).1 (s.nextStrobe p).2.1
        (if (s.nextStrobe p).2.2 = 0 then s.strobeAt (s.nextStrobe p).1 (s.nextStrobe p).2.1 else s.tb.ang) (s.nextStrobe p).2.2
      exact ⟨static_field Ring.rstate hring, static_field Ring.break1 hring, static_field Ring.break2 hring, static_field Ring.healing hring,
        static_field Ring.epoch hring⟩
  case outOfRange =>
    exact fun s p pos ok x h => exec_sampleRx_outOfRange h ok x
  case noSweep =>
    exact fun s p pos x h => exec_sampleRx_noSweep h pos
  case held =>
    exact fun s p pos x w => exec_sampleRx_held
  case kept =>
    intro s p pos x w hlow hthere hpower hpos hin hset hsweep hlacks hpresence hgood
    obtain ⟨hw, hepoch⟩ := openSweep_of_epoch hsweep
    obtain ⟨hframe, hkept⟩ := takeSample_keeps (pos := pos) (rings_at hthere) hset hw hepoch
    exact ⟨_, exec_sampleRx_kept (onRing hlow hpower hpos hin) hsweep hlacks (by simp [hpresence, hgood]), hframe, _, hkept, hepoch,
      (assocSet_get _ _ _ _).trans (if_pos rfl)⟩
  case failed =>
    intro s p pos x w r h hlow hpower hpos hin hwants honce
    exact ⟨exec_sampleRx_badOnce h (onRing hlow hpower hpos hin) hwants honce x,
      fun hdrives => exec_sampleTimeout_once h hlow hpos hdrives hwants honce⟩
  case noOpen =>
    exact fun s p us _ _ h => exec_sweepPartDone_noSweep h us
  case part =>
    intro s p us w hlow hthere hdrives hup hopen
    refine ⟨fun hunread => exec_sweepPartDone_unread hopen hunread us, fun hread hpartner hone htwo => ?_⟩
    obtain ⟨t, ht, hsent, hus⟩ := exec_sweepPartDone_shares (rings_at hthere) hlow hdrives hup hopen hread (by simp [hpartner, hone, htwo]) us
    exact ⟨t, s.ownSamples p w, ht, hsent, hus, fun e he => mem_ownSamples he⟩
  case dropped =>
    exact fun s g ok b h => exec_halfRingRx_dropped h b
  case notTaken =>
    rintro s g b h hup rfl
    exact exec_halfRingRx_notTaken hup h
  case half =>
    rintro s g p b rfl hlow hpower hmanager hup rfl
    have hopen : ¬ (4 ≤ b.ring ∨ s.powered 6 = false ∨ s.cfg.manager = true) := by simp [hlow, hpower, hmanager]
    refine ⟨exec_halfRingRx_endOk hup hopen, fun hkind hholds hdrives => ?_, fun hkind hholds hdrives hack => ?_,
      fun hkind hholds hdrives hframe => ?_⟩
    · rw [exec_halfRingRx_relay hup hopen hkind hholds, if_pos hdrives]
    · rw [exec_halfRingRx_relay hup hopen hkind hholds, if_neg (by simp [hdrives]), if_pos hack]
      rfl
    · rw [exec_halfRingRx_relay hup hopen hkind hholds, if_neg (by simp [hdrives]), if_neg hframe]
  case oneAlready =>
    exact fun s p _ h => exec_halfRingTimeout_unchanged h
  case oneEnded =>
    rintro s p r h hlow hdrives htwo ⟨w, hw, hbuilt, hpartner, hwhy⟩
    have hring := oneEnded_static h htwo
    refine ⟨_, exec_halfRingTimeout_due hlow hdrives (by rwa [ring_of h]) (halfOverdue_of hbuilt hpartner hwhy), static_field Ring.rstate hring,
      static_field Ring.partnerEnd hring, ?_⟩
    simp only [State.oneEnded_frame, and_self]
  case breakAgain =>
    exact fun s p pos b => exec_breakRx_unchanged
  case broken =>
    intro s p pos b r h hlow hpower hstarted hpos hin hbreak1 hbreak2
    have hring := placeBreak_first h hbreak1 hbreak2 (b := if b then pos + 1 else pos) (by split <;> omega) true
    refine ⟨_, exec_breakRx hlow hpower (by rwa [ring_of h]) hpos hin b, static_field Ring.break1 hring, static_field Ring.breakSeen hring,
      static_field Ring.rstate hring, ?_⟩
    simp only [State.placeBreak_frame, and_self]
  case heal =>
    intro s p r h hlow hdrives hfrom hto
    obtain ⟨t, ht, hring, hrest⟩ := exec_breakHeal h hlow hdrives hfrom hto
    exact ⟨t, ht, static_field Ring.healing hring, (static_field Ring.rstate hring :), (static_field Ring.break1 hring :),
      (static_field Ring.break2 hring :), hrest⟩
  case carrier =>
    exact fun s p => ⟨rfl, rfl⟩

end Sys2Proof.Machine
end

section
/-! SUPPORT. The nodes of a Silkline ring: their alarms, command windows, acknowledgements, delays, identities and tap tests (R365 to R372, R380,
R390 to R402, R451). -/

namespace Sys2Proof.Machine

/-! Rings and nodes behind an update. -/

/-- An update that leaves what stands at a place leaves the list. -/
theorem updAt_self {α : Type} {l : List α} {n : Nat} {f : α → α} (h : ∀ a, l[n]? = some a → f a = a) : updAt l n f = l := by
  induction l generalizing n with
  | nil => rfl
  | cons x l ih =>
    cases n with
    | zero => rw [updAt, h x rfl]
    | succ n => rw [updAt, ih h]

theorem setRing_self {s : State} {p : Nat} {r : Ring} (h : s.slk.rings[p]? = some r) {f : Ring → Ring} (hf : f r = r) : s.setRing p f = s := by
  unfold State.setRing
  rw [updAt_self fun x hx => by rw [h] at hx; cases hx; exact hf]

theorem setRing_setRing (s : State) (p : Nat) (f g : Ring → Ring) : (s.setRing p f).setRing p g = s.setRing p fun r => g (f r) := by
  unfold State.setRing
  dsimp only
  rw [updAt_updAt]

/-- A change of the ring that leaves its nodes. -/
theorem setRing_node {s : State} {p : Nat} {r : Ring} (h : s.slk.rings[p]? = some r) {f : Ring → Ring} (hf : (f r).nodes = r.nodes) (pos : Nat) :
    (s.setRing p f).node p pos = s.node p pos := by
  unfold State.node
  rw [setRing_ring h, hf, ring_of h]

theorem drivesEnd_powered {s : State} {p : Nat} (h : s.drivesEnd p = true) : s.powered 6 = true := by
  unfold State.drivesEnd at h
  simp only [Bool.and_eq_true] at h
  obtain ⟨⟨⟨⟨⟨⟨-, hpower⟩, -⟩, -⟩, -⟩, -⟩, -⟩ := h
  exact hpower

/-- What an end reaches depends on the ring's breaks and on who drives. -/
theorem reaches_congr {s t : State} {p : Nat} {r r' : Ring} (h : s.slk.rings[p]? = some r) (h' : t.slk.rings[p]? = some r')
    (hbreak1 : r'.break1 = r.break1) (hbreak2 : r'.break2 = r.break2) (hdrives : t.drivesEnd p = s.drivesEnd p) (hpwr : t.pwr = s.pwr)
    (hcfg : t.cfg = s.cfg) (pos : Nat) : t.reaches p pos = s.reaches p pos := by
  unfold State.reaches State.ringN
  dsimp only
  rw [hdrives, hpwr, hcfg, ring_of h, ring_of h', hbreak1, hbreak2]

/-- What a command sent leaves: its node with it, the ring but for its nodes, and everything else but the messages (R393). -/
theorem sendCmd_leaves {s : State} {p pos : Nat} {r : Ring} {n : Node} (h : s.slk.rings[p]? = some r) (hn : r.nodes[pos - 1]? = some n)
    (c : NodeCmd) : ∃ t d, s.sendCmd p pos c = t ∧ d = { c with cseq := (n.cseq + 1) % 65536, gen8 := s.sendGen % 256, sends := 1 } ∧
      t.node p pos = { n with cseq := d.cseq, cmds := n.cmds ++ [d] } ∧ (t.ring p).static = r.static ∧
      t = { s with slk := t.slk, out := t.out } ∧
      (s.reaches p pos = true → t.out = s.out ++ [.slk p (.command d.type pos d.cseq d.gen8 d.body)]) := by
  obtain ⟨d, o, hd, hsent, hout⟩ := sendCmd_facts h hn c
  obtain ⟨r', hr', hring, hn'⟩ := setNode_at h hn fun n => { n with cseq := d.cseq, cmds := n.cmds ++ [d] }
  refine ⟨_, d, hsent, hd, node_of hr' hn', ?_, rfl, hout⟩
  have hstatic := congrArg Ring.static ((ring_of hr').trans hring)
  exact hstatic

/-! Alarms. -/

theorem exec_alarmUnnamed_unchanged {s : State} {p : Nat} (h : (s.ring p).symbolPending = false ∨ s.tb.csr < (s.ring p).symbolAt + usTicks 50) :
    exec (.alarmUnnamed p) s = .next s :=
  congrArg Host.Outcome.next (if_neg fun ⟨hpending, hdue⟩ => h.elim (by simp [hpending]) (Nat.not_lt.2 hdue))

/-- A symbol without its frame sets the ring's warn (R451). -/
theorem exec_alarmUnnamed {s : State} {p : Nat} (hpending : (s.ring p).symbolPending = true) (hdue : (s.ring p).symbolAt + usTicks 50 ≤ s.tb.csr) :
    ∃ t, exec (.alarmUnnamed p) s = .next t ∧
      Says { s.setRing p (fun r => { r with symbolPending := false }) with prot := { s.prot with ringWarn := s.prot.ringWarn ||| 2 ^ p } }
        [(.alarmUnnamed, [p])] [74] t :=
  ⟨_, congrArg Host.Outcome.next (if_pos ⟨hpending, hdue⟩), ((Says.refl _).record .alarmUnnamed [p]).raise 74 (by decide)⟩

/-- With no protection set in force for its ring an ALARM frame trips nothing (R445). -/
theorem planeAlarm_unset {s : State} {p : Nat} (h : s.setFor p = none) (pos c ch rd e : Nat) : s.planeAlarm p pos c ch rd e = s := by
  unfold State.planeAlarm
  rw [h]

/-- The state in which an ALARM frame has named its alarm (R390, R451). -/
def State.alarmNamed (s : State) (p pos c : Nat) : State :=
  ({ s.setRing p (fun r => { r with symbolPending := false, alarmPos := pos % 256, alarmCause := c % 256 }) with
    prot := { s.prot with ringWarn := if bitOf s.prot.ringWarn p then s.prot.ringWarn - 2 ^ p else s.prot.ringWarn } }).setNode p pos
      fun n => { n with alarmPend := true }

theorem alarmNamed_at {s : State} {p : Nat} {r : Ring} (h : s.slk.rings[p]? = some r) (pos c : Nat) :
    (s.alarmNamed p pos c).slk.rings[p]? = some { r with
      symbolPending := false, alarmPos := pos % 256, alarmCause := c % 256,
      nodes := updAt r.nodes (pos - 1) fun n => { n with alarmPend := true } } :=
  setRing_at (setRing_at h fun r => { r with symbolPending := false, alarmPos := pos % 256, alarmCause := c % 256 }) _

/-- An ALARM frame is named, and acknowledged by the holder or, in COCOON, by the end that drives (R391). -/
theorem exec_alarmFrameRx {s : State} {p pos : Nat} (hrange : ¬ s.offRing p pos)
    (hset : s.setFor p = none) (c ch rd e : Nat) : exec (.alarmFrameRx p pos c ch rd e) s = .next (
      if s.holds = true ∨ (s.sys.mode = .cocoon ∧ s.drivesEnd p = true) then
        (s.alarmNamed p pos c).sendCmd p pos { type := 0x0E, body := leBytes 1 0 }
      else s.alarmNamed p pos c) := by
  refine congrArg Host.Outcome.next ((if_neg hrange).trans ?_)
  dsimp only
  rw [planeAlarm_unset (by exact hset)]
  rfl

/-! COMMAND_WINDOW. -/

theorem exec_commandWindow_closed {s : State} {p : Nat}
    (h : 4 ≤ p ∨ s.powered 6 = false ∨ (s.drivesEnd p = true ∧ (s.ring p).partRead = false)) : exec (.commandWindow p) s = .next s :=
  congrArg Host.Outcome.next (if_pos h)

/-- An end that drives sends the frames of its partner (R392). -/
theorem sendRelays_facts {s : State} {p : Nat} (hdrives : s.drivesEnd p = true) :
    s.sendRelays p = { s with slk := (s.sendRelays p).slk, out := s.out ++ (s.ring p).relays.map fun f => .slk p (relayedFrame f) } ∧
      ∀ r, s.slk.rings[p]? = some r → (s.sendRelays p).ring p = { r with relays := [] } := by
  unfold State.sendRelays
  rw [if_pos hdrives, emits_eq]
  exact ⟨rfl, fun r h => setRing_ring (s := { s with out := _ }) h _⟩

theorem sendRelays_none {s : State} {p : Nat} {r : Ring} (h : s.slk.rings[p]? = some r) (hnone : r.relays = []) : s.sendRelays p = s := by
  unfold State.sendRelays
  rw [ring_of h, hnone]
  split
  · exact setRing_self h (by rw [← hnone])
  · rfl

theorem exec_commandWindow_relays {s : State} {p : Nat} (hlow : p < 4) (hdrives : s.drivesEnd p = true) (hread : (s.ring p).partRead = true)
    (hholds : s.holds = false) : exec (.commandWindow p) s = .next (s.sendRelays p) := by
  refine congrArg Host.Outcome.next ((if_neg (by simp [hlow, drivesEnd_powered hdrives, hread])).trans (if_pos ?_))
  rw [(sendRelays_facts hdrives).1]
  exact hholds

/-- The holder, with nothing to relay and one command queued that serves no work of software. -/
theorem exec_commandWindow_one {s : State} {p pos : Nat} {r : Ring} {c : NodeCmd} (h : s.slk.rings[p]? = some r) (hlow : p < 4)
    (hholds : s.holds = true) (hdrives : s.drivesEnd p = true) (hread : r.partRead = true) (hrelays : r.relays = []) (hqueue : r.queue = [(pos, c)])
    (hwork : c.work = none) : exec (.commandWindow p) s =
      .next ((s.setRing p fun r => { r with queue := [] }).sendQueued p (s.windowNs p) [(pos, c)]) := by
  have halive : s.cmdAlive c = true := by unfold State.cmdAlive; rw [hwork]
  refine congrArg Host.Outcome.next ((if_neg (by simp [hlow, drivesEnd_powered hdrives, ring_of h, hread])).trans ?_)
  dsimp only
  rw [sendRelays_none h hrelays, hholds, if_neg (by decide), ring_of h, hqueue]
  simp only [List.filter, halive]

/-- A queued command whose node awaits no ACK is sent where it fits into the window, and else stays queued (R376). -/
theorem sendQueued_one {s : State} {p pos : Nat} {r : Ring} {n : Node} (h : s.slk.rings[p]? = some r) (hn : r.nodes[pos - 1]? = some n)
    (hcmds : n.cmds = []) (left : Option Nat) (c : NodeCmd) : s.sendQueued p left [(pos, c)] =
      if fits left c.needNs = true then s.sendCmd p pos c else s.setRing p fun r => { r with queue := (pos, c) :: r.queue } := by
  rw [State.sendQueued, node_of h hn, hcmds]
  simp only [true_and, State.sendQueued]

/-! Acknowledgements. -/

/-- An ACK of no command that its node has open changes nothing (R393). -/
theorem exec_nodeAckRx_unmatched {s : State} {p pos q g : Nat} (h : ∀ c ∈ (s.node p pos).cmds, c.cseq ≠ q ∨ c.gen8 ≠ g)
    (res : Nat) (l : List Nat) : exec (.nodeAckRx p pos q g res l) s = .next s := by
  have hnone : ((s.node p pos).cmds.find? fun c => c.cseq == q && c.gen8 == g) = none :=
    List.find?_eq_none.2 fun c hc => by rcases h c hc with hcseq | hgen <;> simp [*]
  by_cases hbarred : 4 ≤ p ∨ pos = 0
  · exact congrArg Host.Outcome.next (if_pos hbarred)
  · refine congrArg Host.Outcome.next ((if_neg hbarred).trans ?_)
    rw [hnone]

/-- The ACK of a BALANCE frame that serves no work of software ends its command. -/
theorem exec_nodeAckRx_plan {s : State} {p pos q g : Nat} {c : NodeCmd} (hlow : p < 4) (hpos : 0 < pos)
    (hc : ((s.node p pos).cmds.find? fun c => c.cseq == q && c.gen8 == g) = some c) (htype : c.type = 10) (hwork : c.work = none)
    (hstays : s.sys.cocoonEntering = false) (res : Nat) (l : List Nat) : exec (.nodeAckRx p pos q g res l) s =
      .next (s.setNode p pos fun n => { n with cmds := n.cmds.filter fun d => decide (d ≠ c) }) := by
  refine congrArg Host.Outcome.next ((if_neg (by omega)).trans ?_)
  rw [hc]
  unfold State.acked State.finishCmd State.cocoonAcked
  dsimp only
  rw [hwork, htype]
  exact if_neg (by simp [hstays])

theorem exec_nodeAckTimeout_nothing {s : State} {p pos : Nat} (h : (s.node p pos).cmds = []) : exec (.nodeAckTimeout p pos) s = .next s := by
  by_cases hbarred : 4 ≤ p ∨ pos = 0
  · exact congrArg Host.Outcome.next (if_pos hbarred)
  · refine congrArg Host.Outcome.next ((if_neg hbarred).trans ?_)
    rw [h]

/-- A command without its ACK is sent up to three times (R394). -/
theorem exec_nodeAckTimeout_again {s : State} {p pos : Nat} {c : NodeCmd} {cs : List NodeCmd} (hlow : p < 4) (hpos : 0 < pos)
    (hcmds : (s.node p pos).cmds = c :: cs) (hsends : c.sends < 3) (hreaches : s.reaches p pos = true) : exec (.nodeAckTimeout p pos) s =
      .next ((s.setNode p pos fun n => { n with cmds := { c with sends := c.sends + 1 } :: cs }).emit
        (.slk p (.command c.type pos c.cseq c.gen8 c.body))) := by
  refine congrArg Host.Outcome.next ((if_neg (by omega)).trans ?_)
  rw [hcmds]
  dsimp only
  rw [if_pos hsends]
  unfold State.putCmd
  exact if_pos (by rw [setNode_reaches]; exact hreaches)

theorem exec_nodeAckTimeout_fails {s : State} {p pos : Nat} {c : NodeCmd} {cs : List NodeCmd} (hlow : p < 4) (hpos : 0 < pos)
    (hcmds : (s.node p pos).cmds = c :: cs) (hsends : 3 ≤ c.sends) (hwork : c.work = none) : exec (.nodeAckTimeout p pos) s =
      .next ((s.setNode p pos fun n => { n with cmds := cs }).record .nodeCmdFail [p, pos, c.type]) := by
  refine congrArg Host.Outcome.next ((if_neg (by omega)).trans ?_)
  rw [hcmds]
  dsimp only
  rw [if_neg (Nat.not_lt.2 hsends)]
  unfold State.finishCmd
  rw [hwork]

/-! Delays. -/

theorem exec_echoCheck_idle {s : State} {p : Nat} (h : s.drivesEnd p = false ∨ started (s.ring p) = false ∨ (s.ring p).partRead = false) :
    exec (.echoCheck p) s = .next s :=
  congrArg Host.Outcome.next (if_neg fun ⟨_, hdrives, hstarted, hread⟩ => by simp [hdrives, hstarted, hread] at h)

/-- One ECHO goes to the farthest node that the end reads (R372). -/
theorem exec_echoCheck {s : State} {p pos : Nat} (hlow : p < 4) (hdrives : s.drivesEnd p = true) (hstarted : started (s.ring p) = true)
    (hread : (s.ring p).partRead = true) (hlast : (s.ownPart p).getLast? = some pos) :
    exec (.echoCheck p) s = .next { s with out := s.out ++ [.slk p (.echo pos)] } := by
  refine congrArg Host.Outcome.next ((if_pos ⟨hlow, hdrives, hstarted, hread⟩).trans ?_)
  rw [hlast]
  rfl

theorem exec_latchRemeasure_idle {s : State} {p : Nat} (h : s.drivesEnd p = false ∨ started (s.ring p) = false) :
    exec (.latchRemeasure p) s = .next s :=
  congrArg Host.Outcome.next (if_neg fun ⟨_, hdrives, hstarted⟩ => by simp [hdrives, hstarted] at h)

theorem exec_latchRemeasure {s : State} {p : Nat} (hlow : p < 4) (hdrives : s.drivesEnd p = true) (hstarted : started (s.ring p) = true) :
    exec (.latchRemeasure p) s = .next (s.measure p (s.ownPart p)) := congrArg Host.Outcome.next (if_pos ⟨hlow, hdrives, hstarted⟩)

/-- A reply that no measurement waits for changes nothing within 20 ns of the last (R372). -/
theorem exec_echoReplyRx_unchanged {s : State} {p pos rtt : Nat}
    (h : s.drivesEnd p = false ∨ ((s.node p pos).echoDue = 0 ∧ (started (s.ring p) = false ∨ apart rtt (s.node p pos).lastRtt ≤ 20))) :
    exec (.echoReplyRx p pos rtt) s = .next s := by
  by_cases hbarred : 4 ≤ p ∨ pos = 0 ∨ s.drivesEnd p = false
  · exact congrArg Host.Outcome.next (if_pos hbarred)
  · obtain ⟨hdue, hclose⟩ := h.resolve_left fun hdrives => hbarred (.inr (.inr hdrives))
    refine congrArg Host.Outcome.next ((if_neg hbarred).trans ((if_pos hdue).trans (if_neg ?_)))
    rintro ⟨hstarted, hfar⟩
    exact hclose.elim (by simp [hstarted]) (Nat.not_le.2 hfar)

/-- The state after the last reply of a measurement, with the delay it gives (R366). -/
def State.measured (s : State) (p pos rtt d : Nat) : State :=
  (s.setNode p pos fun n => { n with rtts := (s.node p pos).rtts ++ [rtt], echoDue := n.echoDue - 1, lastRtt := rtt }).setNode p pos
    fun n => { n with delay := d }

theorem measured_at {s : State} {p pos : Nat} {r : Ring} {n : Node} (h : s.slk.rings[p]? = some r) (hn : r.nodes[pos - 1]? = some n) (rtt d : Nat) :
    ∃ r', (s.measured p pos rtt d).slk.rings[p]? = some r' ∧ r'.queue = r.queue ∧
      r'.nodes[pos - 1]? = some { n with rtts := n.rtts ++ [rtt], echoDue := n.echoDue - 1, lastRtt := rtt, delay := d } := by
  unfold State.measured
  rw [node_of h hn]
  obtain ⟨r1, h1, rfl, hn1⟩ := setNode_at h hn fun x => { x with rtts := n.rtts ++ [rtt], echoDue := x.echoDue - 1, lastRtt := rtt }
  obtain ⟨r2, h2, rfl, hn2⟩ := setNode_at h1 hn1 fun x => { x with delay := d }
  exact ⟨_, h2, rfl, hn2⟩

/-- The last reply of a measurement gives D, and its latch delay is written (R366). -/
theorem exec_echoReplyRx_last {s : State} {p pos rtt d : Nat} (hlow : p < 4) (hpos : 0 < pos) (hdrives : s.drivesEnd p = true)
    (hdue : (s.node p pos).echoDue = 1) (hd : (((s.node p pos).rtts ++ [rtt]).foldl (fun t r => t + (r - 12000)) 0) / 8 = d)
    (hfits : d ≤ s.fld .slkLatchBase 0 10 * 1000 - 50000) : exec (.echoReplyRx p pos rtt) s =
      .next ((s.measured p pos rtt d).writeDelay p pos (s.fld .slkLatchBase 0 10 * 1000 - d)) := by
  subst hd
  refine congrArg Host.Outcome.next ((if_neg (by simp [hlow, hdrives]; omega)).trans ?_)
  dsimp only
  rw [if_neg (by rw [hdue]; decide), if_neg (fun hmore => hmore hdue)]
  refine (if_neg ?_).trans rfl
  exact Nat.not_lt.2 hfits

theorem writeDelay_holds {s : State} (h : s.holds = true) (p pos ld : Nat) :
    s.writeDelay p pos ld = s.queueCmd p pos { type := 9, body := ldBody s.pwr.slotB ld } := if_pos h

theorem writeDelay_relays {s : State} (h : s.holds = false) (hup : s.wbUp = true) (p pos ld : Nat) : s.writeDelay p pos ld = { s with
    out := s.out ++ [wbOut s (.halfRelay p (commandBytes s.pwr.slotB pos { type := 9, body := ldBody s.pwr.slotB ld }))] } :=
  (if_neg (by simp [h])).trans (sendWb_up hup _)

theorem writeDelay_node {s : State} {p : Nat} {r : Ring} (h : s.slk.rings[p]? = some r) (pos ld k : Nat) :
    (s.writeDelay p pos ld).node p k = s.node p k := by
  unfold State.writeDelay
  dsimp only
  split
  · exact setRing_node h rfl k
  · unfold State.node
    rw [ring_of_slk (s := s) (by simp only [State.sendWb_frame]) p]

/-! Identities. -/

theorem exec_idRx_unknown {s : State} {p pos : Nat} (h : s.ringPos p pos = none ∨ s.drivesEnd p = false) (nid : Nat) (ty : NType) (c a b : Nat) :
    exec (.idRx p pos nid ty c a b) s = .next s := by
  refine congrArg Host.Outcome.next ?_
  rcases h with hnone | hdrives
  · rw [hnone]
  · rw [hdrives]
    split <;> rfl

/-- An ID is compared with its position in the ring table (R368). -/
theorem exec_idRx_checked {s : State} {p pos a b : Nat} {q : RingPos} (hq : s.ringPos p pos = some q) (hdrives : s.drivesEnd p = true)
    (hhops : (s.ring p).rstate ≠ 1 ∨ a = 0 ∨ b = 0 ∨ a + b = s.ringN p + 1) (nid : Nat) (ty : NType) (c : Nat) :
    exec (.idRx p pos nid ty c a b) s = .next (
      let t := s.setNode p pos fun n =>
        { n with presence := if q.ntype ≠ ty ∨ (ty = .cell ∧ q.cells ≠ c) then 3 else 1, idMismatch := decide (q.nodeId ≠ nid) }
      if (q.ntype ≠ ty ∨ (ty = .cell ∧ q.cells ≠ c)) ∨ q.nodeId ≠ nid then t.record .nodeMismatch [p, pos] else t) := by
  refine congrArg Host.Outcome.next ?_
  rw [hq]
  dsimp only
  rw [if_neg (by simp [hdrives]), if_neg (by tauto)]

/-! Tap tests. -/

theorem exec_tapTestAuto_idle {s : State} {p : Nat} (h : s.drivesEnd p = false ∨ started (s.ring p) = false ∨ (s.ring p).partRead = false) :
    exec (.tapTestAuto p) s = .next s := congrArg Host.Outcome.next (if_pos (.inr (.inr h)))

/-- On a ring of one cell node with no tap out of turn, the next tap in turn is tested (R402). -/
theorem exec_tapTestAuto_one {s : State} {p : Nat} {q : RingPos} (hlow : p < 4) (hholds : s.holds = true) (hdrives : s.drivesEnd p = true)
    (hstarted : started (s.ring p) = true) (hread : (s.ring p).partRead = true) (hfits : fits (s.windowNs p) (slkFrameNs 12 + 1200000) = true)
    (hone : s.ringN p = 1) (hq : s.ringPos p 1 = some q) (hcell : q.ntype = .cell) (hpresent : (s.node p 1).presence = 1)
    (hcmds : (s.node p 1).cmds = []) (hturn : tapFirst (s.node p 1) = none) : exec (.tapTestAuto p) s =
      .next ((s.setNode p 1 fun n => { n with nextTap := ((s.node p 1).nextTap % (q.cells + 1) + 1) % (q.cells + 1) }).sendCmd p 1
        { type := 0x0B, body := leBytes 1 ((s.node p 1).nextTap % (q.cells + 1)) }) := by
  have htap : tapToTest q.cells (s.node p 1) = (s.node p 1).nextTap % (q.cells + 1) := by unfold tapToTest; rw [hturn]; rfl
  refine congrArg Host.Outcome.next ((if_neg (by simp [hlow, hholds, hdrives, hstarted, hread])).trans ?_)
  rw [hone, show posRange 1 1 = [1] from rfl]
  simp only [List.foldl, hq, hcell, hpresent, hcmds, Nat.one_mul, hfits, and_self, if_true, hturn, Option.isNone_none, htap]

/-- Settles O48: a command by what it comes to in the state that its frame, its window or its reply leaves, and a frame to a node by what
`sendCmd_facts` and `sendCmd_reaches` say of it. -/
theorem ringAlarmsAndNodesAreAnswered : Obligations.RingAlarmsAndNodesAreAnswered := by
  unfold Obligations.RingAlarmsAndNodesAreAnswered
  refine ⟨?symbol, ?unnamed, ?frameOut, ?frame, ?closed, ?relays, ?one, ?unmatched, ?plan, ?noneSent, ?timeout, ?idle, ?idleRemeasure, ?echo,
    ?remeasure, ?replyIdle, ?reply, ?idUnknown, ?id, ?tap⟩
  case symbol =>
    exact fun s p => ⟨fun h => congrArg Host.Outcome.next (if_pos h),
      fun h => congrArg Host.Outcome.next (if_neg (by rintro ⟨hlow, hpower⟩; simp [hpower] at h; omega))⟩
  case unnamed =>
    exact fun s p => ⟨exec_alarmUnnamed_unchanged, exec_alarmUnnamed⟩
  case frameOut =>
    exact fun s p pos c ch rd e h => congrArg Host.Outcome.next (if_pos h)
  case frame =>
    intro s p pos c ch rd e r n h hn hlow hpower hpos hin hset
    have hexec := exec_alarmFrameRx (onRing hlow hpower hpos hin) hset c ch rd e
    have hat := alarmNamed_at h pos c
    have hnode : (updAt r.nodes (pos - 1) fun n => { n with alarmPend := true })[pos - 1]? = _ := updAt_updAt0 hn
    by_cases hack : s.holds = true ∨ (s.sys.mode = .cocoon ∧ s.drivesEnd p = true)
    · rw [if_pos hack] at hexec
      obtain ⟨t, d, ht, hd, htnode, hring, hframe, hout⟩ := sendCmd_leaves hat hnode { type := 0x0E, body := leBytes 1 0 }
      have hreaches : (s.alarmNamed p pos c).reaches p pos = s.reaches p pos :=
        reaches_congr h hat rfl rfl rfl rfl rfl pos
      rw [ht] at hexec
      refine ⟨t, hexec, static_field Ring.symbolPending hring, static_field Ring.alarmPos hring, static_field Ring.alarmCause hring,
        by rw [htnode], by rw [hframe]; rfl, by rw [hframe]; rfl, fun hholds hmode => absurd hack (by simp [hholds, hmode]), fun _ =>
        ⟨d, by rw [htnode], by rw [hd], by rw [hd], by rw [hd]; rfl, fun hto => ?_⟩⟩
      rw [hout (hreaches.trans hto), hd]
      rfl
    · rw [if_neg hack] at hexec
      exact ⟨_, hexec, by rw [ring_of hat], by rw [ring_of hat], by rw [ring_of hat], by rw [node_of hat hnode], rfl, rfl, fun _ _ => rfl,
        fun hholds => absurd (.inl hholds) hack⟩
  case closed =>
    exact fun s p => exec_commandWindow_closed
  case relays =>
    intro s p hlow _ hdrives hread hholds
    obtain ⟨hframe, hring⟩ := sendRelays_facts hdrives
    exact ⟨_, exec_commandWindow_relays hlow hdrives hread hholds, hframe, hring⟩
  case one =>
    intro s p pos r n c h hn hlow hholds hdrives hread hrelays hqueue hwork hcmds hreaches
    have hempty := setRing_at h fun r => { r with queue := [] }
    have hexec := (exec_commandWindow_one h hlow hholds hdrives hread hrelays hqueue hwork).trans
      (congrArg _ (sendQueued_one hempty hn hcmds (s.windowNs p) c))
    refine ⟨fun hlate => ⟨s, ?_, by rw [ring_of h, hqueue], by rw [node_of h hn, hcmds], rfl⟩, fun hfits => ?_⟩
    · rw [hexec, if_neg (by simp [hlate]), setRing_setRing, setRing_self h (by rw [← hqueue])]
    · obtain ⟨t, d, ht, hd, htnode, hring, hframe, hout⟩ := sendCmd_leaves hempty hn c
      have hto : (s.setRing p fun r => { r with queue := [] }).reaches p pos = s.reaches p pos :=
        reaches_congr h hempty rfl rfl rfl rfl rfl pos
      rw [if_pos hfits, ht] at hexec
      exact ⟨t, d, hexec, hd, static_field Ring.queue hring, by rw [htnode, hcmds]; rfl, 
        hframe.trans (by rw [hout (hto.trans hreaches)]; rfl)⟩
  case unmatched =>
    exact fun s p pos q g res l h => exec_nodeAckRx_unmatched h res l
  case plan =>
    exact fun s p pos q g res l c hlow hpos hc htype hwork hstays => exec_nodeAckRx_plan hlow hpos hc htype hwork hstays res l
  case noneSent =>
    exact fun s p pos => exec_nodeAckTimeout_nothing
  case timeout =>
    exact fun s p pos c cs hlow hpos hcmds => ⟨fun hsends hreaches => ⟨_, exec_nodeAckTimeout_again hlow hpos hcmds hsends hreaches, rfl⟩,
      fun hsends hwork => ⟨_, exec_nodeAckTimeout_fails hlow hpos hcmds hsends hwork, (Says.refl _).record .nodeCmdFail _⟩⟩
  case idle =>
    exact fun s p h => ⟨exec_echoCheck_idle h, exec_tapTestAuto_idle h⟩
  case idleRemeasure =>
    exact fun s p => exec_latchRemeasure_idle
  case echo =>
    exact fun s p pos => exec_echoCheck
  case remeasure =>
    intro s p hlow hdrives hstarted
    obtain ⟨k, hk, -⟩ := measure_eq p (s.ownPart p) s
    exact ⟨_, exec_latchRemeasure hlow hdrives hstarted, by rw [hk]⟩
  case replyIdle =>
    exact fun s p pos rtt => exec_echoReplyRx_unchanged
  case reply =>
    intro s p pos rtt d r n h hn hlow hpos hdrives hdue hd hfits
    rw [← node_of h hn] at hdue hd
    obtain ⟨r', hr', hqueue, hn'⟩ := measured_at h hn rtt d
    have hnode := (writeDelay_node hr' pos (s.fld .slkLatchBase 0 10 * 1000 - d) pos).trans (node_of hr' hn')
    refine ⟨_, exec_echoReplyRx_last hlow hpos hdrives hdue hd hfits, by rw [hnode], ?_, fun hholds => ?_, fun hholds hup => ?_⟩
    · rw [hnode, ← node_of h hn, hdue]
    · rw [writeDelay_holds (s := s.measured p pos rtt d) hholds]
      refine ⟨rfl, (congrArg Ring.queue (setRing_ring hr' _)).trans ?_⟩
      rw [hqueue]
      rfl
    · rw [writeDelay_relays (s := s.measured p pos rtt d) hholds hup]
      rfl
  case idUnknown =>
    exact fun s p pos nid c a b ty h => exec_idRx_unknown h nid ty c a b
  case id =>
    intro s p pos nid c a b ty q hq hdrives hhops
    have hexec := exec_idRx_checked hq hdrives hhops nid ty c
    refine ⟨fun htype hcells hid => ?_, fun htype hcells hid => ?_, fun hwrong => ?_⟩
    · have hright : ¬ (q.ntype ≠ ty ∨ (ty = .cell ∧ q.cells ≠ c)) := by tauto
      simpa only [hright, hid, ne_eq, not_true, or_self, if_false, decide_false] using hexec
    · have hright : ¬ (q.ntype ≠ ty ∨ (ty = .cell ∧ q.cells ≠ c)) := by tauto
      simp only [hright, hid, ne_eq, not_false_eq_true, false_or, if_true, if_false, decide_true] at hexec
      exact ⟨_, hexec, (Says.refl _).record .nodeMismatch _⟩
    · simp only [hwrong, true_or, if_true] at hexec
      exact ⟨_, hexec, (Says.refl _).record .nodeMismatch _⟩
  case tap =>
    intro s p r n q h hn hlow hholds hdrives hstarted hread hfits hone hq hcell hpresent hcmds hturn hreaches
    obtain ⟨r', hr', rfl, hn'⟩ := setNode_at (pos := 1) h hn fun x => { x with nextTap := (n.nextTap % (q.cells + 1) + 1) % (q.cells + 1) }
    obtain ⟨t, d, ht, hd, htnode, -, hframe, hout⟩ := sendCmd_leaves hr' hn' { type := 0x0B, body := leBytes 1 (n.nextTap % (q.cells + 1)) }
    have hexec : exec (.tapTestAuto p) s = .next t := by
      have hnode : s.node p 1 = n := node_of h hn
      rw [← ht, ← hnode]
      rw [← hnode] at hpresent hcmds hturn
      exact exec_tapTestAuto_one hlow hholds hdrives (by rwa [ring_of h]) (by rwa [ring_of h]) hfits hone hq hcell hpresent hcmds hturn
    have hsent := hout ((setNode_reaches s p 1 _ 1).trans hreaches)
    rw [show d.type = 0x0B by rw [hd]] at hsent
    exact ⟨t, d, hexec, by rw [hd], by rw [hd], by rw [htnode, hcmds]; rfl, by rw [htnode], hframe.trans (by rw [hsent]; rfl)⟩

end Sys2Proof.Machine
end

section
/-! SUPPORT. The Silkline engine's commands, refused or done (R367, R369, R382, R392, R397, R403). -/

namespace Sys2Proof.Machine

/-! RING_ENUMERATE. -/

theorem mem_posRange {lo hi k : Nat} : k ∈ posRange lo hi ↔ lo ≤ k ∧ k ≤ hi := by
  unfold posRange
  simp only [List.mem_map, List.mem_range]
  exact ⟨by rintro ⟨i, hi, rfl⟩; omega, fun h => ⟨k - lo, by omega, by omega⟩⟩

theorem exec_ringEnumerate_notDriven {s : State} {w : WorkRef} {op : Op} (h : s.ready w 2 0x10 op) (hlow : dInline op.bytes 0 1 < 4)
    (hring : s.ringN (dInline op.bytes 0 1) ≠ 0) (hdrives : s.drivesEnd (dInline op.bytes 0 1) = false) (hops : Nat) (an : List Nat) :
    exec (.ringEnumerate w hops an) s = .next (s.finish op stSlkRefused 3) :=
  congrArg Host.Outcome.next ((engineOp_ready h _).trans ((if_neg (by simp [hlow, hring])).trans (if_pos hdrives)))

theorem exec_ringEnumerate_again {s : State} {w : WorkRef} {op : Op} (h : s.ready w 2 0x10 op) (hlow : dInline op.bytes 0 1 < 4)
    (hring : s.ringN (dInline op.bytes 0 1) ≠ 0) (hdrives : s.drivesEnd (dInline op.bytes 0 1) = true) (hagain : op.started = true) (hops : Nat)
    (an : List Nat) : exec (.ringEnumerate w hops an) s = .next s :=
  congrArg Host.Outcome.next ((engineOp_ready h _).trans
    ((if_neg (by simp [hlow, hring])).trans ((if_neg (by simp [hdrives])).trans (if_pos hagain))))

/-- A ring as its enumeration starts (table Enumeration from one end). -/
def Ring.enumerating (r : Ring) : Ring :=
  { r with rstate := 1, enumReason := 0, break1 := 0, break2 := 0, sweeps := r.sweeps.filter (·.built),
           nodes := r.nodes.map fun (x : Node) => { x with presence := 0, cmds := [] } }

/-- The positions of a ring, nearest to this end first. -/
def State.nearFirst (s : State) (p : Nat) : List Nat :=
  if s.pwr.slotB then (posRange 1 (s.ringN p)).reverse else posRange 1 (s.ringN p)

theorem nearFirst_range {s : State} {p k : Nat} (h : k ∈ s.nearFirst p) : 1 ≤ k ∧ k ≤ s.ringN p := by
  unfold State.nearFirst at h
  split at h
  · exact mem_posRange.1 (List.mem_reverse.1 h)
  · exact mem_posRange.1 h

/-- The state after ENUM and an ID_READ per position, while every node is measured (table Enumeration from one end). -/
def State.enumerated (s : State) (w : WorkRef) (p : Nat) : State :=
  ((s.nearFirst p).foldl (fun (t : State) pos => t.emit (.slk p (.idRead pos)))
    (((s.setOp w fun o => { o with started := true }).setRing p Ring.enumerating).emit (.slk p (.enum 0 (s.ringN p))))).measure p (s.nearFirst p)

/-- An enumeration that finds N positions, each of which answers, goes on to measure them (R367, R369). -/
theorem exec_ringEnumerate_starts {s : State} {w : WorkRef} {op : Op} {p : Nat} {an : List Nat} (h : s.ready w 2 0x10 op)
    (hp : dInline op.bytes 0 1 = p) (hlow : p < 4) (hring : s.ringN p ≠ 0) (hdrives : s.drivesEnd p = true) (hfirst : op.started = false)
    (hall : ∀ k, 1 ≤ k → k ≤ s.ringN p → k ∈ an) : exec (.ringEnumerate w (s.ringN p) an) s = .next (s.enumerated w p) := by
  have hanswered : (s.nearFirst p).all an.contains = true := List.all_eq_true.2 fun k hk =>
    List.contains_iff_mem.2 (hall k (nearFirst_range hk).1 (nearFirst_range hk).2)
  have hnoneMissing : ¬ (!(s.nearFirst p).all an.contains) = true := by simp only [hanswered, Bool.not_true, Bool.false_eq_true, not_false_eq_true]
  subst hp
  refine congrArg Host.Outcome.next ((engineOp_ready h _).trans ?_)
  dsimp only
  rw [if_neg (by simp [hlow, hring]), if_neg (by simp [hdrives]), if_neg (by simp [hfirst]), if_neg (fun hmore => hmore rfl)]
  exact if_neg hnoneMissing

/-- An enumeration that goes on has sent ENUM first, and leaves a ring without breaks (R367). -/
theorem enumerated_facts {s : State} {p : Nat} {r : Ring} (h : s.slk.rings[p]? = some r) (w : WorkRef) :
    ((s.enumerated w p).ring p).static = r.enumerating.static ∧
    (∃ l, (s.enumerated w p).out = s.out ++ [.slk p (.enum 0 (s.ringN p))] ++ l) ∧ (s.enumerated w p).wb = s.wb ∧
    (s.enumerated w p).regs = s.regs ∧ (s.enumerated w p).prot = s.prot := by
  let u := s.setOp w fun o => { o with started := true }
  let v : State := { u.setRing p Ring.enumerating with
    out := u.out ++ [.slk p (.enum 0 (s.ringN p))] ++ (s.nearFirst p).map fun pos => .slk p (.idRead pos) }
  have hop : u.slk = s.slk ∧ u.out = s.out ∧ u.wb = s.wb ∧ u.regs = s.regs ∧ u.prot = s.prot := by
    simp only [u, State.setOp_frame, and_self]
  obtain ⟨hslk, hout, hwb, hregs, hprot⟩ := hop
  have hring : v.ring p = r.enumerating := setRing_ring (s := u) (by rw [hslk]; exact h) Ring.enumerating
  have hsent : s.enumerated w p = v.measure p (s.nearFirst p) := congrArg (State.measure · p (s.nearFirst p)) (emits_eq _ _ _)
  obtain ⟨k, hk, hstatic⟩ := measure_eq p (s.nearFirst p) v
  rw [hsent, hk, ← hout, ← hwb, ← hregs, ← hprot]
  exact ⟨hstatic.trans (congrArg Ring.static hring), ⟨_, List.append_assoc _ _ _⟩, rfl, rfl, rfl⟩

/-! Commands to a node. -/

/-- Each command to a node is refused where the node is (R403). -/
theorem exec_nodeCommand_refused {s : State} {w : WorkRef} {op : Op} {r : Nat}
    (hrefused : s.nodeRefusal (dInline op.bytes 0 1) (dInline op.bytes 1 1) = some r) (body : List Byte) :
    (s.ready w 2 0x11 op → exec (.nodeCmd w) s = .next (s.finish op stSlkRefused r)) ∧
    (s.ready w 2 0x13 op → exec (.tapTest w) s = .next (s.finish op stSlkRefused r)) ∧
    (s.ready w 2 0x14 op → exec (.diagRead w body) s = .next (s.finish op stSlkRefused r)) := by
  refine ⟨fun h => ?_, fun h => ?_, fun h => ?_⟩ <;>
  · refine congrArg Host.Outcome.next ((engineOp_ready h _).trans ?_)
    dsimp only
    rw [hrefused]

/-- NODE_CMD to a node that takes commands: block 1 is the plane's own, a wrong body is refused, and a command is queued once (R392, R397). -/
theorem exec_nodeCmd {s : State} {w : WorkRef} {op : Op} (h : s.ready w 2 0x11 op)
    (htakes : s.nodeRefusal (dInline op.bytes 0 1) (dInline op.bytes 1 1) = none) : exec (.nodeCmd w) s = .next (
      if dInline op.bytes 2 1 = 9 ∧ leField (s.buffer op) 0 1 = 1 then s.finish op stSlkRefused 1
      else if !cmdBodyOk (dInline op.bytes 2 1) (s.buffer op) then s.finish op stSlkRefused 4
      else if op.started then s
      else (s.setOp w fun o => { o with started := true }).queueCmd (dInline op.bytes 0 1) (dInline op.bytes 1 1)
        { type := dInline op.bytes 2 1, body := s.buffer op, work := some w }) := by
  refine congrArg Host.Outcome.next ((engineOp_ready h _).trans ?_)
  dsimp only
  rw [htakes]

/-- TAP_TEST of a node that takes commands: of a cell node's tap, queued once (R401). -/
theorem exec_tapTest {s : State} {w : WorkRef} {op : Op} {q : RingPos} (h : s.ready w 2 0x13 op)
    (htakes : s.nodeRefusal (dInline op.bytes 0 1) (dInline op.bytes 1 1) = none)
    (hq : s.ringPos (dInline op.bytes 0 1) (dInline op.bytes 1 1) = some q) : exec (.tapTest w) s = .next (
      if q.ntype ≠ .cell ∨ q.cells < dInline op.bytes 2 1 then s.finish op stSlkRefused 4
      else if op.started then s
      else (s.setOp w fun o => { o with started := true }).queueCmd (dInline op.bytes 0 1) (dInline op.bytes 1 1)
        { type := 0x0B, body := leBytes 1 (dInline op.bytes 2 1), work := some w }) := by
  refine congrArg Host.Outcome.next ((engineOp_ready h _).trans ?_)
  dsimp only
  rw [htakes]
  dsimp only
  rw [hq]

theorem exec_diagRead {s : State} {w : WorkRef} {op : Op} (h : s.ready w 2 0x14 op)
    (htakes : s.nodeRefusal (dInline op.bytes 0 1) (dInline op.bytes 1 1) = none) (body : List Byte) : exec (.diagRead w body) s =
      .next ((s.emit (.slk (dInline op.bytes 0 1) (.diagRead (dInline op.bytes 1 1)))).finish op stOk (body.take 40).length (body.take 40)) := by
  refine congrArg Host.Outcome.next ((engineOp_ready h _).trans ?_)
  dsimp only
  rw [htakes]

/-! SWEEP_COPY. -/

theorem exec_sweepCopy_noRing {s : State} {w : WorkRef} {op : Op} (h : s.ready w 2 0x12 op) (hhigh : 4 ≤ dInline op.bytes 0 1) :
    exec (.sweepCopy w) s = .next (s.finish op stSlkRefused 4) :=
  congrArg Host.Outcome.next ((engineOp_ready h _).trans (if_pos hhigh))

/-- A sweep that is not kept any more, or not built yet (R382). -/
theorem exec_sweepCopy_notKept {s : State} {w : WorkRef} {op : Op} (h : s.ready w 2 0x12 op) (hlow : dInline op.bytes 0 1 < 4)
    (hnone : ∀ x ∈ (s.ring (dInline op.bytes 0 1)).sweeps, x.built = false ∨ x.epoch ≠ dInline op.bytes 4 4) :
    exec (.sweepCopy w) s = .next (s.finish op 0x402 0) := by
  have hfind : ((s.ring (dInline op.bytes 0 1)).sweeps.find? fun x => x.built && x.epoch == dInline op.bytes 4 4) = none :=
    List.find?_eq_none.2 fun x hx => by rcases hnone x hx with hopen | hother <;> simp [*]
  refine congrArg Host.Outcome.next ((engineOp_ready h _).trans ((if_neg (Nat.not_le.2 hlow)).trans ?_))
  rw [hfind]

theorem exec_sweepCopy {s : State} {w : WorkRef} {op : Op} {x : Sweep} (h : s.ready w 2 0x12 op) (hlow : dInline op.bytes 0 1 < 4)
    (hx : ((s.ring (dInline op.bytes 0 1)).sweeps.find? fun x => x.built && x.epoch == dInline op.bytes 4 4) = some x) :
    exec (.sweepCopy w) s = .next ((s.writeBuf op 0
      ((sweepBytes (dInline op.bytes 0 1) (s.ringN (dInline op.bytes 0 1)) x).take (dLength op.bytes))).finish op stOk 0) := by
  refine congrArg Host.Outcome.next ((engineOp_ready h _).trans ((if_neg (Nat.not_le.2 hlow)).trans ?_))
  rw [hx]

/-- Settles O49: a command that is ready is its engine's operation (`engineOp_ready`), refused where its ring or node is, and else done. -/
theorem ringWorkIsRefusedOrDone : Obligations.RingWorkIsRefusedOrDone := by
  unfold Obligations.RingWorkIsRefusedOrDone
  refine ⟨?enumerate, ?node, nodeRefusal_values, ?copy⟩
  case enumerate =>
    rintro s w op p hops an h rfl
    refine ⟨fun hnone => congrArg Host.Outcome.next ((engineOp_ready h _).trans (if_pos hnone)), fun hlow hring hdrives =>
      exec_ringEnumerate_notDriven h hlow hring hdrives hops an, fun hlow hring hdrives hagain =>
      exec_ringEnumerate_again h hlow hring hdrives hagain hops an, ?_⟩
    rintro r hr hlow hring hdrives hfirst rfl hall
    obtain ⟨hstatic, ⟨l, hout⟩, hwb, hregs, hprot⟩ := enumerated_facts hr w
    exact ⟨_, l, exec_ringEnumerate_starts h rfl hlow hring hdrives hfirst hall, static_field Ring.rstate hstatic,
      static_field Ring.break1 hstatic, hout, by rw [hwb], hregs, hprot⟩
  case node =>
    rintro s w op p pos body rfl rfl
    refine ⟨fun r hrefused => exec_nodeCommand_refused hrefused body, fun htakes h htype hblock => ?_, ?_, ?_,
      fun htakes h => exec_diagRead h htakes body⟩
    · rw [exec_nodeCmd h htakes, if_pos ⟨htype, hblock⟩]
    · rintro ty htakes h rfl hblock
      have hother : ¬ (dInline op.bytes 2 1 = 9 ∧ leField (s.buffer op) 0 1 = 1) := fun hboth => hblock hboth.1 hboth.2
      rw [exec_nodeCmd h htakes, if_neg hother]
      refine ⟨fun hbad => ?_, fun hgood hagain => ?_, fun hgood hfirst => ?_⟩
      · rw [if_pos (by simp [hbad])]
      · rw [if_neg (by simp [hgood]), if_pos hagain]
      · rw [if_neg (by simp [hgood]), if_neg (by simp [hfirst])]
    · rintro q tap htakes h hq rfl
      rw [exec_tapTest h htakes hq]
      refine ⟨fun hbad => ?_, fun hcell hlow hfirst => ?_⟩
      · rw [if_pos hbad]
      · rw [if_neg (by simp [hcell, hlow]), if_neg (by simp [hfirst])]
  case copy =>
    rintro s w op p h rfl
    exact ⟨exec_sweepCopy_noRing h, exec_sweepCopy_notKept h, fun x hlow => exec_sweepCopy h hlow⟩

end Sys2Proof.Machine
end

section
/-! SUPPORT. The estimator's commands: what they read, what they reset and why they are refused (R408, R417, R428, R432, R435, R441). -/

namespace Sys2Proof.Machine

/-! Ranges of cells (R441). -/

theorem rangeRefusal_stopped {s : State} (hstopped : s.est.running = false) (first n : Nat) : s.rangeRefusal first n = some 2 := if_pos hstopped

theorem rangeRefusal_beyond {s : State} (hrun : s.est.running = true) {first n : Nat} (hlast : s.est.cells.length < first + n) :
    s.rangeRefusal first n = some 1 := (if_neg (by simp [hrun])).trans (if_pos hlast)

theorem rangeRefusal_within {s : State} (hrun : s.est.running = true) {first n : Nat} (hlast : first + n ≤ s.est.cells.length) :
    s.rangeRefusal first n = none := (if_neg (by simp [hrun])).trans (if_neg (Nat.not_lt.2 hlast))

/-! Reads. -/

/-- Each read of a range of cells is refused for its range. -/
theorem exec_rangeRead_refused {s : State} {w : WorkRef} {op : Op} {r : Nat}
    (hrefused : s.rangeRefusal (dInline op.bytes 0 2) (dInline op.bytes 2 2) = some r) :
    (s.ready w 0 0x10 op → exec (.cellRead w) s = .next (s.finish op stEstRefused r)) ∧
    (s.ready w 0 0x13 op → exec (.lifetimeRead w) s = .next (s.finish op stEstRefused r)) := by
  refine ⟨fun h => ?_, fun h => ?_⟩ <;>
  · refine congrArg Host.Outcome.next ((engineOp_ready h _).trans ?_)
    dsimp only
    rw [hrefused]

/-- A read of cells that there are writes their records up to LENGTH. -/
theorem exec_rangeRead {s : State} {w : WorkRef} {op : Op}
    (htakes : s.rangeRefusal (dInline op.bytes 0 2) (dInline op.bytes 2 2) = none) :
    (s.ready w 0 0x10 op → exec (.cellRead w) s = .next ((s.writeBuf op 0
      ((((s.est.cells.drop (dInline op.bytes 0 2)).take (dInline op.bytes 2 2)).flatMap (s.readRecord s.est.epoch)).take
        (dLength op.bytes))).finish op stOk 0)) ∧
    (s.ready w 0 0x13 op → exec (.lifetimeRead w) s = .next ((s.writeBuf op 0
      ((((s.est.cells.drop (dInline op.bytes 0 2)).take (dInline op.bytes 2 2)).flatMap fun c => lifeBytes c.life).take
        (dLength op.bytes))).finish op stOk 0)) := by
  refine ⟨fun h => ?_, fun h => ?_⟩ <;>
  · refine congrArg Host.Outcome.next ((engineOp_ready h _).trans ?_)
    dsimp only
    rw [htakes]

/-- The blocks from the one that starts at an epoch (R428). -/
theorem dropWhile_history {pre l : List HistBlock} {e : Nat} (hbefore : ∀ b ∈ pre, b.epoch ≠ e) (hfirst : ∀ b ∈ l.head?, b.epoch = e) :
    (pre ++ l).dropWhile (fun b => b.epoch != e) = l := by
  rw [List.dropWhile_append_of_pos fun b hb => bne_iff_ne.2 (hbefore b hb)]
  cases l with
  | nil => rfl
  | cons b l => exact List.dropWhile_cons_of_neg (by simp [hfirst b rfl])

theorem exec_historyRead_refused {s : State} {w : WorkRef} {op : Op} {r : Nat} (h : s.ready w 0 0x12 op)
    (hrefused : s.rangeRefusal (dInline op.bytes 8 2) (dInline op.bytes 10 2) = some r) :
    exec (.historyRead w) s = .next (s.finish op stEstRefused r) := by
  refine congrArg Host.Outcome.next ((engineOp_ready h _).trans ?_)
  dsimp only
  rw [hrefused]

/-- HISTORY_READ of the run `l` that the store holds from its epoch on: refused where it is shorter than asked, else written up to LENGTH. -/
theorem exec_historyRead {s : State} {w : WorkRef} {op : Op} {l : List HistBlock} (h : s.ready w 0 0x12 op)
    (htakes : s.rangeRefusal (dInline op.bytes 8 2) (dInline op.bytes 10 2) = none)
    (hl : (s.est.history.dropWhile fun b => b.epoch != dInline op.bytes 0 4) = l) : exec (.historyRead w) s = .next (
      if (l.take (dInline op.bytes 4 4)).length < dInline op.bytes 4 4 then s.finish op stEstRefused 3
      else (s.writeBuf op 0 (((l.take (dInline op.bytes 4 4)).flatMap fun x =>
        ((x.cells.drop (dInline op.bytes 8 2)).take (dInline op.bytes 10 2)).flatMap sumBytes).take (dLength op.bytes))).finish op stOk 0) := by
  subst hl
  refine congrArg Host.Outcome.next ((engineOp_ready h _).trans ?_)
  dsimp only
  rw [htakes]

/-- PLAN_READ of a node with cells answers its plan (R435). -/
theorem exec_planRead {s : State} {w : WorkRef} {op : Op} (h : s.ready w 0 0x14 op) : exec (.planRead w) s = .next (
    if s.est.running = false then s.finish op stEstRefused 2
    else if !(s.est.cells.any fun c => c.ring == dInline op.bytes 0 1 && c.pos == dInline op.bytes 1 1) then s.finish op stEstRefused 1
    else s.finish op stOk 72 (planBytes ((assocGet s.est.plans (dInline op.bytes 0 1, dInline op.bytes 1 1)).getD ([], [])).1
      ((assocGet s.est.plans (dInline op.bytes 0 1, dInline op.bytes 1 1)).getD ([], [])).2)) :=
  congrArg Host.Outcome.next (engineOp_ready h _)

/-! CELL_RESET. -/

/-- A reset waits for a manifest that names an epoch and covers it (R408). -/
theorem exec_cellReset_waits {s : State} {w : WorkRef} {op : Op} (hholds : s.holds = true) (h : s.ready w 0 0x11 op)
    (hcuts : (s.est.epochCuts.all fun e => decide (e.2 < op.jsn.getD 0)) = true) : exec (.cellReset w) s = .next s := by
  have hnone : (s.est.epochCuts.any fun e => decide (op.jsn.getD 0 ≤ e.2)) = false :=
    List.any_eq_false.2 fun e he => by simpa using List.all_eq_true.1 hcuts e he
  exact congrArg Host.Outcome.next ((cutOp_ready hholds h _).trans (if_pos (by rw [hnone]; rfl)))

theorem exec_cellReset_refused {s : State} {w : WorkRef} {op : Op} {r : Nat} (hholds : s.holds = true) (h : s.ready w 0 0x11 op)
    (hcuts : (s.est.epochCuts.any fun e => decide (op.jsn.getD 0 ≤ e.2)) = true) (hrefused : s.rangeRefusal (dInline op.bytes 0 2) 1 = some r) :
    exec (.cellReset w) s = .next (s.finish op stEstRefused r) := by
  refine congrArg Host.Outcome.next ((cutOp_ready hholds h _).trans ((if_neg (by simp only [hcuts]; decide)).trans ?_))
  dsimp only
  rw [hrefused]
  exact finishCut_holds hholds op stEstRefused r []

/-- The state that has noted a CELL_RESET for the next strobe update of its cell: which cell, full or fast, under which JSN. -/
def State.noteReset (s : State) (op : Op) : State :=
  { s with est := { s.est with resets := s.est.resets ++ [(dInline op.bytes 0 2, dSubop op.bytes == 1, op.jsn.getD 0)] } }

/-- A covered reset is noted for its cell, full or fast (R417). -/
theorem exec_cellReset {s : State} {w : WorkRef} {op : Op} (hholds : s.holds = true) (h : s.ready w 0 0x11 op)
    (hcuts : (s.est.epochCuts.any fun e => decide (op.jsn.getD 0 ≤ e.2)) = true) (htakes : s.rangeRefusal (dInline op.bytes 0 2) 1 = none) :
    exec (.cellReset w) s = .next ((s.noteReset op).finish op stOk 0) := by
  refine congrArg Host.Outcome.next ((cutOp_ready hholds h _).trans ((if_neg (by simp only [hcuts]; decide)).trans ?_))
  dsimp only
  rw [htakes]
  exact finishCut_holds (s := s.noteReset op) hholds op stOk 0 []

/-- Settles O51: a command that is ready is its engine's operation (`engineOp_ready`, `cutOp_ready`), refused for its range
(`State.rangeRefusal`), and else done. -/
theorem estimatorWorkReadsAndResets : Obligations.EstimatorWorkReadsAndResets := by
  unfold Obligations.EstimatorWorkReadsAndResets
  refine ⟨?cells, ?history, ?plan⟩
  case cells =>
    rintro s w op first n rfl rfl
    refine ⟨fun h => ⟨fun hstopped => ?_, fun hrun hlast => ?_, fun hrun hlast => ?_⟩,
      fun h => ⟨fun hstopped => ?_, fun hrun hlast => ?_, fun hrun hlast => ?_⟩,
      fun hholds h hcuts => exec_cellReset_waits hholds h hcuts,
      fun hholds h hcuts => ⟨fun hstopped => ?_, fun hrun hlast => ?_, fun hrun hlast => ?_⟩⟩
    · exact (exec_rangeRead_refused (rangeRefusal_stopped hstopped _ _)).1 h
    · exact (exec_rangeRead_refused (rangeRefusal_beyond hrun hlast)).1 h
    · exact (exec_rangeRead (rangeRefusal_within hrun hlast)).1 h
    · exact (exec_rangeRead_refused (rangeRefusal_stopped hstopped _ _)).2 h
    · exact (exec_rangeRead_refused (rangeRefusal_beyond hrun hlast)).2 h
    · exact (exec_rangeRead (rangeRefusal_within hrun hlast)).2 h
    · exact exec_cellReset_refused hholds h hcuts (rangeRefusal_stopped hstopped _ _)
    · exact exec_cellReset_refused hholds h hcuts (rangeRefusal_beyond hrun (Nat.lt_succ_of_le hlast))
    · exact exec_cellReset hholds h hcuts (rangeRefusal_within hrun hlast)
  case history =>
    rintro s w op e n first k h rfl rfl rfl rfl hrun
    refine ⟨fun hlast => exec_historyRead_refused h (rangeRefusal_beyond hrun hlast), fun hlast hnone hn => ?_,
      fun pre l hlast hstore hbefore hfirst hlong => ?_⟩
    · have hempty := dropWhile_history (l := []) hnone fun b hb => by cases hb
      rw [List.append_nil] at hempty
      rw [exec_historyRead h (rangeRefusal_within hrun hlast) hempty, if_pos (by simpa using hn)]
    · have hrest : (s.est.history.dropWhile fun b => b.epoch != dInline op.bytes 0 4) = l := by
        rw [hstore, dropWhile_history hbefore hfirst]
      rw [exec_historyRead h (rangeRefusal_within hrun hlast) hrest, if_neg (by simpa using hlong)]
  case plan =>
    rintro s w op p pos h rfl rfl
    rw [exec_planRead h]
    refine ⟨fun hstopped => by rw [if_pos hstopped], fun hrun hnone => ?_, fun c t rt hrun hmem hring hpos hplan => ?_⟩
    · have hany : (s.est.cells.any fun c => c.ring == dInline op.bytes 0 1 && c.pos == dInline op.bytes 1 1) = false :=
        List.any_eq_false.2 fun c hc => by rcases hnone c hc with hother | hother <;> simp [hother]
      rw [if_neg (by simp [hrun]), hany, if_pos (by decide)]
    · have hany : (s.est.cells.any fun c => c.ring == dInline op.bytes 0 1 && c.pos == dInline op.bytes 1 1) = true :=
        List.any_eq_true.2 ⟨c, hmem, by simp [hring, hpos]⟩
      rw [if_neg (by simp [hrun]), hany, if_neg (by decide), hplan]

end Sys2Proof.Machine
end

section
/-! SUPPORT. The estimator's periodic tasks, and COCOON's check sweep and wake (R404, R407, R416, R418, R425 to R438). -/

namespace Sys2Proof.Machine

/-! STROBE_UPDATE. -/

theorem startEst_running {s : State} (hrun : s.est.running = true) : s.startEst = s := if_pos (Or.inl hrun)

/-- An update of an estimator that runs finds it as it is. -/
theorem ite_startEst_running {s : State} (hrun : s.est.running = true) : (if s.est.modelBad = true then s else s.startEst) = s := by
  rw [startEst_running hrun, ite_self]

theorem exec_strobeUpdate_off {s : State} {p : Nat} (h : 4 ≤ p ∨ s.arrayOn = false ∨ s.bit .slkCtrl (4 + p) = false) (e us : Nat) :
    exec (.strobeUpdate p e us) s = .next s := congrArg Host.Outcome.next (if_pos h)

/-- With RUN cleared, a reset still due, or no complete record of this epoch next, a ring gets no update (R404, R408). -/
theorem exec_strobeUpdate_notNext {s : State} {p e : Nat} (hrun : s.est.running = true) (h : s.bit .estCtrl 0 = false ∨ s.resetDue p e = true ∨
    s.nextUpdate p = none ∨ ∃ w, s.nextUpdate p = some w ∧ (w.built = false ∨ w.epoch ≠ e)) (us : Nat) :
    exec (.strobeUpdate p e us) s = .next s := by
  by_cases hoff : 4 ≤ p ∨ s.arrayOn = false ∨ s.bit .slkCtrl (4 + p) = false
  · exact exec_strobeUpdate_off hoff e us
  refine congrArg Host.Outcome.next ((if_neg hoff).trans ?_)
  dsimp only
  rw [ite_startEst_running hrun]
  rcases h with hctrl | hreset | hnone | ⟨w, hnext, hwrong⟩
  · exact if_pos (Or.inr (Or.inl hctrl))
  · exact if_pos (Or.inr (Or.inr hreset))
  · rw [hnone, ite_self]
  · rw [hnext]
    dsimp only
    rw [if_pos (hwrong.imp_right Or.inl), ite_self]

/-- The update of ring p for epoch e is next, on the complete record `w` (R404). -/
structure State.UpdatesNext (s : State) (p e : Nat) (w : Sweep) : Prop where
  ring : p < 4
  array : s.arrayOn = true
  enabled : s.bit .slkCtrl (4 + p) = true
  running : s.est.running = true
  run : s.bit .estCtrl 0 = true
  reset : s.resetDue p e = false
  next : s.nextUpdate p = some w
  built : w.built = true
  epoch : w.epoch = e
  free : ∀ x ∈ s.est.lagWait, x.1 ≠ p

/-- The next update waits for a late parameter update or summary, and is run otherwise (R404, R407). -/
theorem exec_strobeUpdate {s : State} {p e : Nat} {w : Sweep} (h : s.UpdatesNext p e w) (us : Nat) : exec (.strobeUpdate p e us) s = .next (
    if s.resultsLate e then
      State.record { s with est := { s.est with lag := true, lagWait := s.est.lagWait ++ [(p, e, us)] } } .estLag [e]
    else s.updateRing p e us) := by
  have hfree : s.est.lagWait.any (fun x => x.1 == p) = false := List.any_eq_false.2 fun x hx => by simp [h.free x hx]
  refine congrArg Host.Outcome.next ((if_neg (by simp [h.ring, h.array, h.enabled])).trans ?_)
  dsimp only
  rw [ite_startEst_running h.running, if_neg (by simp [h.running, h.run, h.reset]), h.next]
  exact if_neg (by simp [h.built, h.epoch, hfree])

/-! QUANTITY_PUBLISH. -/

theorem exec_quantityPublish_idle {s : State} {e : Nat} (h : s.est.running = false ∨ s.arrayOn = false ∨ s.publishDue e = false) :
    exec (.quantityPublish e) s = .next s := congrArg Host.Outcome.next (if_pos h)

/-- The state with other values waiting for the loop engine's bundles. -/
def State.withArrived (s : State) (l : List LoopArr) : State := { s with loop := { s.loop with arrived := l } }

/-- Keeping the newest of a list before more is added to it keeps what counts. -/
theorem newest_newest_append {α : Type} (n : Nat) (l m : List α) : newest n (newest n l ++ m) = newest n (l ++ m) := by
  unfold newest
  rw [← List.drop_append_of_le_length (Nat.sub_le _ _), List.drop_drop]
  congr 1
  simp only [List.length_drop, List.length_append]
  omega

/-- A value joins those that wait, of which the newest `n` are kept. -/
def State.joinArrived (n : Nat) (s : State) (a : LoopArr) : State := s.withArrived (newest n (s.loop.arrived ++ [a]))

theorem joinArrived_foldl (n : Nat) (l : List LoopArr) (s : State) (kept : List LoopArr) :
    l.foldl (State.joinArrived n) (s.withArrived (newest n kept)) = s.withArrived (newest n (kept ++ l)) := by
  induction l generalizing kept with
  | nil => rw [List.append_nil]; rfl
  | cons a l ih =>
    have hjoin : (s.withArrived (newest n kept)).joinArrived n a = s.withArrived (newest n (kept ++ [a])) :=
      congrArg s.withArrived (newest_newest_append n kept [a])
    rw [List.foldl_cons, hjoin, ih, List.append_assoc]
    rfl

/-- Values that arrive one after another, at least one. -/
theorem joinArrived_all (n : Nat) {l : List LoopArr} (hl : l ≠ []) (s : State) :
    l.foldl (State.joinArrived n) s = s.withArrived (newest n (s.loop.arrived ++ l)) := by
  obtain ⟨a, l, rfl⟩ := List.exists_cons_of_ne_nil hl
  rw [List.foldl_cons, State.joinArrived, joinArrived_foldl, List.append_assoc]
  rfl

/-- Quantity `q.1` of scope `k`, as an item that the loop engine waits for (R427). -/
def quantityItem (e k : Nat) (q : Nat × F32) : LoopArr := ⟨⟨3, 0, 0, e, 0⟩, [], 4, 256 * k + q.1, ⟨q.2, e, true⟩⟩

/-- The quantities of every scope as items. -/
def quantityItems (e : Nat) (qs : List (List F32)) : List LoopArr :=
  (numbered 0 qs).flatMap fun sc => (numbered 0 sc.2).map fun q => quantityItem e sc.1 q

/-- The eleven quantities of the five scopes. -/
def State.allQuantities (s : State) : List (List F32) := (List.range 5).map (s.quantitiesOf (BitVec.ofNat 32 (Config.free s.freeCtr)))

/-- QUANTITY_PUBLISH in its registers. -/
def State.published (s : State) (e : Nat) : State :=
  { s.useFree with est := { s.est with quantities := s.allQuantities, qEpoch := s.oldestEpoch e, pubEpoch := e } }

/-- A publication changes the estimator and what waits for the loop engine. -/
theorem published_frame {s t : State} {e : Nat} {l : List LoopArr} (h : (s.published e).withArrived l = t) :
    t = { s with est := t.est, loop := { s.loop with arrived := t.loop.arrived }, freeCtr := t.freeCtr } := by
  subst h
  rfl

theorem allQuantities_shape (s : State) : s.allQuantities.length = 5 ∧ ∀ l ∈ s.allQuantities, l.length = 11 :=
  ⟨(List.length_map _).trans List.length_range, fun l hl => by obtain ⟨k, -, rfl⟩ := List.mem_map.1 hl; rfl⟩

theorem quantityItems_ne_nil (s : State) (e : Nat) : quantityItems e s.allQuantities ≠ [] := List.cons_ne_nil _ _

/-- The quantities are kept with their oldest epoch and join what waits for the loop engine's bundles (R427). -/
theorem exec_quantityPublish {s : State} {e : Nat} (hrun : s.est.running = true) (harray : s.arrayOn = true) (hdue : s.publishDue e = true) :
    exec (.quantityPublish e) s = .next ((s.published e).withArrived
      (newest 4096 (s.loop.arrived ++ quantityItems (s.oldestEpoch e) s.allQuantities))) := by
  refine congrArg Host.Outcome.next ((if_neg (by simp [hrun, harray, hdue])).trans ?_)
  refine Eq.trans ?_ (joinArrived_all 4096 (quantityItems_ne_nil s (s.oldestEpoch e)) (s.published e))
  unfold quantityItems
  simp only [List.foldl_flatMap, List.foldl_map]
  rfl

/-! PARAM_UPDATE. -/

/-- PARAM_UPDATE waits for a running estimator, its array and every ring's update of the oldest period's epoch (R407). -/
theorem exec_paramUpdate_idle {s : State} {e : Nat} (h : ∀ x ∈ s.est.parSnap.head?, s.est.running = false ∨ s.arrayOn = false ∨ x.1 ≠ e ∨
    s.allUpdated e = false) : exec (.paramUpdate e) s = .next s := by
  refine congrArg Host.Outcome.next ?_
  cases hhead : s.est.parSnap.head? with
  | none => rfl
  | some x => exact if_pos (h x hhead)

theorem rsOutlier_parSnap (s : State) (i : Nat) (c : Cell) : (s.rsOutlier i c).est.parSnap = s.est.parSnap := by
  unfold State.rsOutlier
  dsimp only
  split
  · simp only [State.record_frame]
  · rfl

/-- The update of a cell leaves the periods that wait. -/
theorem paramStep_parSnap (s : State) (e i : Nat) (c : Cell) : (s.paramStep e i c).est.parSnap = s.est.parSnap := by
  unfold State.paramStep
  split
  · rfl
  · dsimp only
    rw [rsOutlier_parSnap]
    split <;> split <;> simp only [State.raise_frame, State.record_frame]

/-- With no update waiting nothing follows. -/
theorem runWaiting_nothing {s : State} (h : s.est.lagWait = []) : s.runWaiting = s := by
  unfold State.runWaiting
  rw [h]
  show ({ s with est := { s.est with lagWait := [] } } : State) = s
  rw [← h]

/-- Every cell kept for a period has its update. -/
def State.paramAll (s : State) (e : Nat) (l : List (Nat × Cell)) : State := l.foldl (fun s x => s.paramStep e x.1 x.2) s

theorem paramAll_estKeeps (s : State) (e : Nat) (l : List (Nat × Cell)) : EstKeeps s (s.paramAll e l) :=
  EstKeeps.foldl (fun u (x : Nat × Cell) => u.paramStep e x.1 x.2) (fun u x => paramStep_estKeeps u e x.1 x.2) l s

theorem paramAll_parSnap (s : State) (e : Nat) (l : List (Nat × Cell)) : (s.paramAll e l).est.parSnap = s.est.parSnap :=
  foldl_view (fun u (x : Nat × Cell) => u.paramStep e x.1 x.2) (fun u => u.est.parSnap) (fun u x => paramStep_parSnap u e x.1 x.2) l s

theorem exec_paramUpdate {s : State} {e : Nat} {l : List (Nat × Cell)} {m : List (Nat × List (Nat × Cell))} (hrun : s.est.running = true)
    (harray : s.arrayOn = true) (hsnap : s.est.parSnap = (e, l) :: m) (hall : s.allUpdated e = true) (hwait : s.est.lagWait = []) :
    exec (.paramUpdate e) s =
      .next { s.paramAll e l with est := { (s.paramAll e l).est with paramEpoch := e, parSnap := m } } := by
  obtain ⟨-, -, -, -, -, -, -, -, hlag, -⟩ := paramAll_estKeeps s e l
  have hrest : (s.paramAll e l).est.parSnap.drop 1 = m := by rw [paramAll_parSnap, hsnap]; rfl
  rw [← hrest]
  refine congrArg Host.Outcome.next ?_
  rw [hsnap]
  refine (if_neg (by simp [hrun, harray, hall])).trans ?_
  exact runWaiting_nothing (hlag.trans hwait)

/-! SUMMARY. -/

theorem exec_summary_idle {s : State} {e : Nat} (h : ∀ x ∈ s.est.sumSnap.head?, s.est.running = false ∨ s.arrayOn = false ∨ x.1 ≠ e ∨
    s.allUpdated e = false) : exec (.summary e) s = .next s := by
  refine congrArg Host.Outcome.next ?_
  cases hhead : s.est.sumSnap.head? with
  | none => rfl
  | some x => exact if_pos (h x hhead)

theorem numbered_length {α : Type} (l : List α) (k : Nat) : (numbered k l).length = l.length := by
  induction l generalizing k with
  | nil => rfl
  | cons a l ih => exact congrArg Nat.succ (ih (k + 1))

/-- A numbered cell as it stood at the end of the interval whose cells `l` holds; as it stands where it is not among them. -/
def stoodAt (l : List (Nat × Cell)) (x : Nat × Cell) : Cell := (assocGet l x.1).getD x.2

/-- The cells as they stood at the end of an interval. -/
def State.stoodCells (s : State) (l : List (Nat × Cell)) : List Cell := (numbered 0 s.est.cells).map (stoodAt l)

/-- A cell as it stood, as it stands, and what its summary gives (R428, R429, R432). -/
def State.summedCells (s : State) (l : List (Nat × Cell)) : List (Cell × Cell × Summed) :=
  (numbered 0 s.est.cells).map fun x => (stoodAt l x, x.2, s.summed (s.stoodCells l) (stoodAt l x))

/-- The block that an interval adds to the history (R428). -/
def State.historyBlock (s : State) (e : Nat) (l : List (Nat × Cell)) : HistBlock :=
  { epoch := (s.est.sumFirst.getD (e, 0, 0)).1, angle := (s.est.sumFirst.getD (e, 0, 0)).2.1, astatus := (s.est.sumFirst.getD (e, 0, 0)).2.2,
    cells := (s.stoodCells l).map fun c =>
      cellSum (Config.free s.freeCtr) (decide (s.fld .estRest 16 16 * 1000000 ≤ c.restUs)) c }

/-- The blocks that the history store keeps: five years (R428). -/
def historyRoom : Nat := 175320

/-- The estimator after the summary of its oldest interval. -/
def State.summarized (s : State) (e : Nat) (l : List (Nat × Cell)) : State :=
  { s.useFree with est := { s.est with
      cells := (s.summedCells l).map fun x => takeSummed e x.2.2 x.2.1,
      history := newest historyRoom (s.est.history ++ [s.historyBlock e l]),
      checkpoint := (s.summedCells l).map fun x => takeSummed e x.2.2 x.1, sumFirst := none, sumSnap := s.est.sumSnap.drop 1 } }

theorem exec_summary {s : State} {e : Nat} {l : List (Nat × Cell)} {m : List (Nat × List (Nat × Cell))} (hrun : s.est.running = true)
    (harray : s.arrayOn = true) (hsnap : s.est.sumSnap = (e, l) :: m) (hall : s.allUpdated e = true) (hwait : s.est.lagWait = []) :
    exec (.summary e) s = .next (s.summarized e l) := by
  have hhead : s.est.sumSnap.head? = some (e, l) := by rw [hsnap]; rfl
  refine congrArg Host.Outcome.next ?_
  rw [hhead]
  refine (if_neg (by simp [hrun, harray, hall])).trans ?_
  exact runWaiting_nothing (s := s.summarized e l) hwait

theorem summarized_history (s : State) (e : Nat) (l : List (Nat × Cell)) :
    (s.summarized e l).est.history = newest historyRoom (s.est.history ++ [s.historyBlock e l]) := by
  dsimp only [State.summarized]

theorem summedCells_length (s : State) (l : List (Nat × Cell)) : (s.summedCells l).length = s.est.cells.length :=
  (List.length_map _).trans (numbered_length _ _)

/-- The figures of one cell in a summary. -/
theorem summedCells_get {s : State} {i : Nat} {c : Cell} (hc : s.est.cells[i]? = some c) (l : List (Nat × Cell)) :
    (s.summedCells l)[i]? = some (stoodAt l (i, c), c, s.summed (s.stoodCells l) (stoodAt l (i, c))) := by
  unfold State.summedCells
  rw [List.getElem?_map, numbered_get, hc, Nat.zero_add]
  rfl

theorem historyBlock_length (s : State) (e : Nat) (l : List (Nat × Cell)) : (s.historyBlock e l).cells.length = s.est.cells.length :=
  (List.length_map _).trans ((List.length_map _).trans (numbered_length _ _))

/-- The summary keeps the number of cells and checkpoints every one (R418). -/
theorem summarized_lengths (s : State) (e : Nat) (l : List (Nat × Cell)) :
    (s.summarized e l).est.checkpoint.length = s.est.cells.length ∧ (s.summarized e l).est.cells.length = s.est.cells.length :=
  ⟨(List.length_map _).trans (summedCells_length s l), (List.length_map _).trans (summedCells_length s l)⟩

/-- A cell goes on from where it stands, its checkpoint from where it stood, both with the figures of the interval. -/
theorem summarized_cell {s : State} {i : Nat} {c : Cell} (hc : s.est.cells[i]? = some c) (e : Nat) (l : List (Nat × Cell)) :
    (s.summarized e l).est.cells[i]? = some (takeSummed e (s.summed (s.stoodCells l) (stoodAt l (i, c))) c) ∧
    (s.summarized e l).est.checkpoint[i]? = some (takeSummed e (s.summed (s.stoodCells l) (stoodAt l (i, c))) (stoodAt l (i, c))) :=
  ⟨(List.getElem?_map ..).trans (congrArg (Option.map _) (summedCells_get hc l)),
    (List.getElem?_map ..).trans (congrArg (Option.map _) (summedCells_get hc l))⟩

/-! BALANCING_PLAN. -/

/-- A plan is due at an epoch divisible by BAL_PERIOD, once its strobe updates are complete (R433). -/
def State.planDue (s : State) (e : Nat) : Prop :=
  s.est.running ∧ s.arrayOn ∧ s.bit .estCtrl 1 ∧ (s.reg .estBalPeriod).toNat ≠ 0 ∧ e % (s.reg .estBalPeriod).toNat = 0 ∧ s.est.epoch = e ∧
    laterEpoch e s.est.planEpoch

theorem exec_balancingPlan_idle {s : State} {e : Nat} (h : ¬ s.planDue e) : exec (.balancingPlan e) s = .next s :=
  congrArg Host.Outcome.next (if_neg h)

/-- The cap on a plan's times: twice its period, at most 65,535 s (table Balancing plan). -/
def State.planCap (s : State) : Nat := min 65535 (2 * (s.reg .estBalPeriod).toNat * s.nominalUs / 1000000)

/-- A state that takes up the plan of an epoch. -/
def State.planning (s : State) (e : Nat) : State := { s with est := { s.est with planEpoch := e } }

theorem planning_planned (s : State) (e cap : Nat) (rate : F32) : Planned s ((s.planning e).planAll cap rate) :=
  Planned.trans (t := s.planning e) ⟨rfl, rfl, fun _ => rfl, fun _ h => h⟩ (planAll_planned _ _ _)

theorem exec_balancingPlan {s : State} {e : Nat} (h : s.planDue e) : exec (.balancingPlan e) s =
    .next ((s.planning e).planAll s.planCap s.strobeRate) :=
  congrArg Host.Outcome.next (if_pos h)

/-! COCOON. -/

theorem exec_cocoonCheckSweep_awake {s : State} {p : Nat} (h : s.sys.mode ≠ .cocoon ∨ s.drivesEnd p = false) (hours : Nat) :
    exec (.cocoonCheckSweep p hours) s = .next s :=
  congrArg Host.Outcome.next (if_neg fun ⟨_, hcocoon, _, hdrives, _⟩ => h.elim (absurd hcocoon) (by simp [hdrives]))

/-- The former holder strobes its ring; within MAX_SLEEP_H no wake is asked for (R437). -/
theorem exec_cocoonCheckSweep {s : State} {p hours : Nat} (hlow : p < 4) (hcocoon : s.sys.mode = .cocoon) (hasleep : s.sys.cocoonWoke = false)
    (hdrives : s.drivesEnd p = true) (hstarted : started (s.ring p) = true) (hsleep : s.fld .slkCkCtrl 16 8 = 0 ∨ hours < s.fld .slkCkCtrl 16 8) :
    exec (.cocoonCheckSweep p hours) s = .next (s.strobe p (s.nextStrobe p).1 (s.nextStrobe p).2.1 s.tb.ang 0) :=
  congrArg Host.Outcome.next ((if_pos ⟨hlow, hcocoon, hasleep, hdrives, hstarted⟩).trans (if_neg (by omega)))

theorem exec_cocoonWake_nothing {s : State} (h : s.sys.mode ≠ .cocoon ∨ s.sys.cocoonWoke = true) (c : Nat) :
    exec (.cocoonWake c) s = .next s := congrArg Host.Outcome.next (if_pos h)

/-- A state out of COCOON's sleep: the domains on, the causes kept, one wake frame sent (R438). -/
def State.woken (u : State) (c : Nat) : State :=
  { u with sys := { u.sys with cocoonWoke := true, cocoonAt := u.tb.csr, domains := 0xFF }, slk := { u.slk with ckCause := c },
           out := u.out ++ [.net (u.fld .sysCocoon 0 2 / 2) 0 (.wake u.pairId)] }

theorem exec_cocoonWake {s : State} (hcocoon : s.sys.mode = .cocoon) (hasleep : s.sys.cocoonWoke = false) (c : Nat) :
    exec (.cocoonWake c) s = .next ((s.record .cocoonWake [c % 256]).woken (c % 256)) :=
  congrArg Host.Outcome.next (if_neg (by simp [hcocoon, hasleep]))

/-- Settles O50: a task that is not due changes nothing; one that is due does what the model's laws of `State.updateRing`, `State.paramStep`,
`State.planAll` and `State.strobe` say, on states that each task's own lemma names. -/
theorem estimatorTasksKeepTheirEpochs : Obligations.EstimatorTasksKeepTheirEpochs := by
  unfold Obligations.EstimatorTasksKeepTheirEpochs
  refine ⟨?stopped, ?notPublished, ?noPeriod, ?noInterval, ?off, ?notNext, ?update, ?publish, ?param, ?summary, ?noPlan, ?plan, ?awake, ?check,
    ?woken, ?wake⟩
  case stopped =>
    intro s e h
    refine ⟨exec_quantityPublish_idle (h.imp_right Or.inl), exec_paramUpdate_idle fun x _ => h.imp_right Or.inl,
      exec_summary_idle fun x _ => h.imp_right Or.inl, exec_balancingPlan_idle ?_⟩
    rintro ⟨hrun, harray, -⟩
    simp [hrun, harray] at h
  case notPublished =>
    exact fun s e h => exec_quantityPublish_idle (Or.inr (Or.inr h))
  case noPeriod =>
    refine fun s e h => exec_paramUpdate_idle fun x hx => Or.inr (Or.inr (h.elim Or.inr fun hother => Or.inl ?_))
    exact bne_iff_ne.1 (List.all_eq_true.1 hother x (List.mem_of_mem_head? hx))
  case noInterval =>
    refine fun s e h => exec_summary_idle fun x hx => Or.inr (Or.inr (h.elim Or.inr fun hother => Or.inl ?_))
    exact bne_iff_ne.1 (List.all_eq_true.1 hother x (List.mem_of_mem_head? hx))
  case off =>
    exact fun s p e us h => exec_strobeUpdate_off h e us
  case notNext =>
    exact fun s p e us hrun h => exec_strobeUpdate_notNext hrun h us
  case update =>
    intro s p e us w hlow harray henabled hrun hctrl hreset hnext hbuilt hepoch hfree
    have hexec := exec_strobeUpdate ⟨hlow, harray, henabled, hrun, hctrl, hreset, hnext, hbuilt, hepoch, hfree⟩ us
    refine ⟨fun hlate => ?_, fun hready => ?_⟩
    · rw [if_pos hlate] at hexec
      exact ⟨_, hexec, (Says.refl _).record .estLag [e]⟩
    · rw [if_neg (by simp [hready])] at hexec
      exact ⟨_, hexec, updateRing_facts s p e us⟩
  case publish =>
    intro s e hrun harray hdue
    obtain ⟨hfive, heleven⟩ := allQuantities_shape s
    refine ⟨_, exec_quantityPublish hrun harray hdue, rfl, rfl, hfive, heleven, ?_, rfl, published_frame rfl⟩
    simp only [State.withArrived, State.published, quantityItems, quantityItem]
  case param =>
    intro s e l m hrun harray hsnap hall hwait
    obtain ⟨hwb, hprot, hslk, hregs, -, -, -, hcells, hlag, -⟩ := paramAll_estKeeps s e l
    exact ⟨_, exec_paramUpdate hrun harray hsnap hall hwait, rfl, rfl, hlag.trans hwait, hcells, hwb, hprot, hslk, hregs⟩
  case summary =>
    intro s e l m hrun harray hsnap hall hwait
    obtain ⟨hcheckpoint, hcells⟩ := summarized_lengths s e l
    refine ⟨_, exec_summary hrun harray hsnap hall hwait, rfl, congrArg (List.drop 1) hsnap, rfl, hcheckpoint, hcells, fun hroom => ?_,
      fun i c hc => ?_⟩
    · have hkept : newest historyRoom (s.est.history ++ [s.historyBlock e l]) = s.est.history ++ [s.historyBlock e l] :=
        newest_all _ _ (by simpa [historyRoom] using hroom)
      exact ⟨s.historyBlock e l, (summarized_history s e l).trans hkept, rfl, historyBlock_length s e l⟩
    · obtain ⟨hcell, hkept⟩ := summarized_cell hc e l
      exact ⟨_, _, _, hcell, hkept, rfl, rfl, rfl, rfl, rfl, rfl⟩
  case noPlan =>
    refine fun s e h => exec_balancingPlan_idle ?_
    rintro ⟨-, -, hbal, -, hmultiple, hepoch, hlater⟩
    simp [hbal, hmultiple, hepoch, hlater] at h
  case plan =>
    intro s e hrun harray hbal hperiod hmultiple hepoch hlater
    obtain ⟨hframe, hcells, hslk, -⟩ := planning_planned s e s.planCap s.strobeRate
    exact ⟨_, exec_balancingPlan ⟨hrun, harray, hbal, hperiod, hmultiple, hepoch, hlater⟩, hcells, hframe, hslk,
      fun p pos r hlow hpos hcell => planAll_has (s.planning e) _ _ hlow hpos hcell⟩
  case awake =>
    exact fun s p h hidle => exec_cocoonCheckSweep_awake hidle h
  case check =>
    intro s p h r hr hlow hcocoon hasleep hdrives hstarted hheals hbuilt hsleep
    obtain ⟨hocc, hepoch, -, -, -, hframe⟩ := strobe_facts hr hheals hbuilt (s.nextStrobe p).1 (s.nextStrobe p).2.1 s.tb.ang 0
    exact ⟨_, exec_cocoonCheckSweep hlow hcocoon hasleep hdrives (by rwa [ring_of hr]) hsleep, hocc, hepoch, hframe⟩
  case woken =>
    exact fun s c h => exec_cocoonWake_nothing h c
  case wake =>
    intro s c hcocoon hasleep
    refine ⟨_, _, exec_cocoonWake hcocoon hasleep c, (Says.refl s).record .cocoonWake [c % 256], ?_⟩
    simp only [State.woken, State.fld, State.reg, State.pairId, State.record_frame]

end Sys2Proof.Machine
end

section
/-! SUPPORT. What every step keeps of memory's form, of the fuses and of the queue, and that every command goes on (R541, R545, R559, R591, R617). -/

namespace Sys2Proof.Machine

/-- Settles O4: the front command leaves the queue without touching memory, and what it then does keeps both canonical forms. -/
theorem stepKeepsMemoryForm : Obligations.StepKeepsMemoryForm := by
  unfold Obligations.StepKeepsMemoryForm State.memOk
  intro s t hstep hform
  obtain ⟨rest, hevolves⟩ := step_evolves hstep
  obtain ⟨hmem, hdata⟩ := (Bool.and_eq_true _ _).mp hform
  exact (Bool.and_eq_true _ _).mpr ⟨hevolves.mem hmem, hevolves.data hdata⟩

/-- Settles O6: taking the front command off the queue touches neither fuse nor floor, and no operation of the block changes the one or lowers
the other. -/
theorem stepKeepsFusesAndFloor : Obligations.StepKeepsFusesAndFloor := by
  unfold Obligations.StepKeepsFusesAndFloor
  intro s t hstep
  obtain ⟨rest, hevolves⟩ := step_evolves hstep
  exact ⟨hevolves.fused, hevolves.floor⟩

/-- Settles O1: `step` by the head of the queue, and idle time leaves the queue as it was. -/
theorem stepRunsTheFrontCommand : Obligations.StepRunsTheFrontCommand := by
  unfold Obligations.StepRunsTheFrontCommand
  refine ⟨fun c rest s hfront => ?front, fun c s => rfl, fun s hempty => ⟨?idle, ?stays⟩⟩
  case front =>
    unfold step
    rw [hfront]
  case idle =>
    unfold step
    rw [hempty]
  case stays => exact (State.idleTick_evolves (Evolves.refl s)).queue.trans hempty

/-! Every command goes on. -/

theorem execRingFetch_goesOn (s : State) : goesOn (execRingFetch s) = true := by
  unfold execRingFetch
  split <;> rfl

theorem execDescIssue_goesOn (n : Nat) (s : State) : goesOn (execDescIssue n s) = true := by
  unfold execDescIssue
  dsimp only
  split
  · rfl
  · repeat' split
    all_goals rfl

theorem execOpComplete_goesOn (tag : Nat) (s : State) : goesOn (execOpComplete tag s) = true := by
  unfold execOpComplete
  split
  · rfl
  · split
    · rfl
    · split <;> rfl

theorem execTimedDescDue_goesOn (w : WorkRef) (s : State) : goesOn (execTimedDescDue w s) = true := by
  unfold execTimedDescDue
  split
  · rfl
  · split
    · rfl
    · split <;> rfl

theorem execShadowPairComplete_goesOn (n id : Nat) (s : State) : goesOn (execShadowPairComplete n id s) = true := by
  unfold execShadowPairComplete
  split
  · rfl
  · dsimp only
    split
    · rfl
    · split <;> rfl

/-- No command faults or is refused: but for five that choose between two next states, each names the next state outright. -/
theorem exec_goesOn (c : Instr) (s : State) : goesOn (exec c s) = true := by
  cases c
  case ringFetch => exact execRingFetch_goesOn s
  case descIssue n => exact execDescIssue_goesOn n s
  case opComplete tag => exact execOpComplete_goesOn tag s
  case timedDescDue w => exact execTimedDescDue_goesOn w s
  case shadowPairComplete n id => exact execShadowPairComplete_goesOn n id s
  all_goals rfl

/-- Settles O2: every command goes on, and the state it leads to comes out of the one before by operations that keep the queue. -/
theorem everyCommandGoesOn : Obligations.EveryCommandGoesOn := by
  unfold Obligations.EveryCommandGoesOn
  intro c s
  have hgoes := exec_goesOn c s
  have hlead := exec_leads c s
  cases hexec : exec c s with
  | next t =>
    rw [hexec] at hlead
    exact ⟨t, rfl, hlead.queue⟩
  | fault f =>
    rw [hexec] at hgoes
    cases hgoes
  | refused r =>
    rw [hexec] at hgoes
    cases hgoes

end Sys2Proof.Machine
end

section
/-! SUPPORT. Register accesses that R615 refuses, holes, and block locks (R615, R616, R621 to R623, R626). -/

namespace Sys2Proof.Machine

/-! Accesses that are refused, and holes. -/

theorem inRegs_eq {a : Nat} (hlow : 0x40000000 ≤ a) (hhigh : a < 0x41000000) : inRegs a = true := decide_eq_true ⟨hlow, hhigh⟩

theorem badAccess_eq_true {a size : Nat} (hhigh : a < 0x41000000) (h : size ≠ 4 ∨ a % 4 ≠ 0 ∨ 0x40170000 ≤ a) : badAccess a size = true := by
  unfold badAccess
  rcases h with h | h | h
  · simp [h]
  · simp [h]
  · simp [h, show a ≤ 0x40FFFFFF by omega]

theorem badAccess_eq_false {a : Nat} (hhigh : a < 0x40170000) (haligned : a % 4 = 0) : badAccess a 4 = false := by
  unfold badAccess
  simp [haligned, Nat.not_le.2 hhigh]

theorem exec_registerBadAccess {s : State} {a size : Nat} (hregs : inRegs a = true) (hbad : badAccess a size = true) (q : Requester) :
    exec (.registerBadAccess q a size) s = .next (s.answerErr q (badError q)) :=
  congrArg Host.Outcome.next (if_pos ⟨hregs, hbad⟩)

theorem exec_registerWrite_bad {s : State} {a : Nat} (hbad : badAccess a 4 = true) (q : Requester) (v : Word) :
    exec (.registerWrite q a v) s = .next (s.answerErr q (badError q)) :=
  congrArg Host.Outcome.next (if_pos (Or.inr hbad))

theorem exec_wideReadLatch_bad {s : State} {a : Nat} (hbad : badAccess a 4 = true) (q : Requester) :
    exec (.wideReadLatch q a) s = .next (s.answerErr q (badError q)) :=
  congrArg Host.Outcome.next (if_pos (Or.inr hbad))

theorem exec_registerWrite_good {s : State} {a : Nat} (hregs : inRegs a = true) (hgood : badAccess a 4 = false) (q : Requester) (v : Word) :
    exec (.registerWrite q a v) s = .next (s.writeRegs q a v) :=
  congrArg Host.Outcome.next (if_neg (by simp [hregs, hgood]))

theorem exec_wideReadLatch_good {s : State} {a : Nat} (hregs : inRegs a = true) (hgood : badAccess a 4 = false) (q : Requester) :
    exec (.wideReadLatch q a) s = .next (s.readRegs q a) :=
  congrArg Host.Outcome.next (if_neg (by simp [hregs, hgood]))

theorem dmAt_hole {a : Nat} (hhole : findReg a = none) : dmAt a = none := by
  unfold dmAt
  rw [hhole]

/-- A write to a hole is ignored (R615). -/
theorem writeRegs_hole {s : State} {q : Requester} {a : Nat} (hq : q ≠ .debug) (hdbg : a / 65536 ≠ 0x4016) (hhole : findReg a = none)
    (hwindow : inWindow a = false) (v : Word) : s.writeRegs q a v = s := by
  unfold State.writeRegs State.writeSpace
  rw [dmAt_hole hhole, barred_core hq hdbg, hwindow, hhole]
  rfl

/-- A hole reads 0 (R615). -/
theorem readRegs_hole {s : State} {q : Requester} {a : Nat} (hq : q ≠ .debug) (hhole : findReg a = none) (hwindow : inWindow a = false) :
    s.readRegs q a = s.answer q 0 := by
  unfold State.readRegs State.readSpace
  rw [if_neg (by simp [hq]), dmAt_hole hhole, hwindow, hhole]
  exact ite_self _

/-- Settles O7: a refused access answers its requester's own error, and past the checks a hole is no register. -/
theorem registerAccessErrorsAndHoles : Obligations.RegisterAccessErrorsAndHoles := by
  unfold Obligations.RegisterAccessErrorsAndHoles
  refine ⟨fun s q a size hlow hhigh hbad => ?refused, fun s q a v hlow hhigh hbad => ?same, fun s q a v hlow hhigh haligned hq hhole hwindow => ?hole⟩
  case refused =>
    rw [exec_registerBadAccess (inRegs_eq hlow hhigh) (badAccess_eq_true hhigh hbad)]
    cases q <;> rfl
  case same =>
    have hbad := badAccess_eq_true (size := 4) hhigh (Or.inr hbad)
    rw [exec_registerWrite_bad hbad, exec_wideReadLatch_bad hbad, exec_registerBadAccess (inRegs_eq hlow hhigh) hbad]
    exact ⟨rfl, rfl⟩
  case hole =>
    have hregs : inRegs a = true := inRegs_eq hlow (by omega)
    have hgood : badAccess a 4 = false := badAccess_eq_false (by omega) haligned
    rw [exec_registerWrite_good hregs hgood, exec_wideReadLatch_good hregs hgood, writeRegs_hole hq (by omega) hhole hwindow,
      readRegs_hole hq hhole hwindow]
    exact ⟨rfl, rfl⟩

/-! Block locks. -/

theorem exec_lockOpen {s : State} {b : Nat} (hb : b < 23) (q : Requester) (key : Nat) :
    exec (.lockOpen q b key) s = .next (s.writeRegs q (RegName.lock.addr b 0) (BitVec.ofNat 32 (2 ^ 16 * (key % 2 ^ 16) + 1))) :=
  congrArg Host.Outcome.next (if_pos hb)

theorem exec_lockClose {s : State} {b : Nat} (hb : b < 23) (q : Requester) (key : Nat) :
    exec (.lockClose q b key) s = .next (s.writeRegs q (RegName.lock.addr b 0) (BitVec.ofNat 32 (2 ^ 16 * (key % 2 ^ 16)))) :=
  congrArg Host.Outcome.next (if_pos hb)

/-- A write of a lock register that is barred from the registers leaves its refusal alone. -/
theorem writeRegs_lock_barred {s t : State} {q : Requester} {b : Nat} (hb : b < 23) (hbar : s.writeBarred q (RegName.lock.addr b 0) = some t)
    (v : Word) : s.writeRegs q (RegName.lock.addr b 0) v = t := by
  rw [writeRegs_reg v (findReg_lock b hb) (by decide)]
  unfold State.writeSpace
  rw [hbar]

/-- A write with the key that opens a lock, by one that may and on a lock that is free or its own (R621, R622). -/
theorem writeLock_opens {s : State} {q : Requester} {b : Nat} {v : Word} (hkey : bitsOf v.toNat 16 16 = 0x6B0C) (hopen : bitOf v.toNat 0 = true)
    (hmay : s.mayOpenLock q = true) (hfree : (s.lockOf b).holder = none ∨ s.lockedFor b q = true) :
    s.writeLock q b v = s.setLock b fun _ => { holder := some q, since := s.tb.csr } := by
  unfold State.writeLock
  dsimp only
  rw [if_neg (not_not_intro hkey), if_pos hopen, if_pos ⟨hmay, hfree.imp_left Option.isNone_iff_eq_none.2⟩]

theorem writeLock_notOpened {s : State} {q : Requester} {b : Nat} {v : Word} (hopen : bitOf v.toNat 0 = true)
    (h : bitsOf v.toNat 16 16 ≠ 0x6B0C ∨ s.mayOpenLock q = false ∨ ((s.lockOf b).holder ≠ none ∧ s.lockedFor b q = false)) :
    s.writeLock q b v = s.refuseWrite q (RegName.lock.addr b 0) := by
  unfold State.writeLock
  dsimp only
  by_cases hkey : bitsOf v.toNat 16 16 = 0x6B0C
  · rw [if_neg (not_not_intro hkey), if_pos hopen, if_neg]
    rintro ⟨hmay, hfree⟩
    rcases h with h | h | ⟨hheld, hother⟩
    · exact h hkey
    · simp [hmay] at h
    · simp [hheld, hother] at hfree
  · rw [if_pos hkey]

/-- A write with the key that closes a lock, by its holder (R623). -/
theorem writeLock_closes {s : State} {q : Requester} {b : Nat} {v : Word} (hkey : bitsOf v.toNat 16 16 = 0x6B0C) (hclose : bitOf v.toNat 0 = false)
    (hmine : s.lockedFor b q = true) : s.writeLock q b v = s.setLock b fun l => { l with holder := none } := by
  unfold State.writeLock
  dsimp only
  rw [if_neg (not_not_intro hkey), if_neg (by simp [hclose]), if_pos hmine]

theorem writeLock_notClosed {s : State} {q : Requester} {b : Nat} {v : Word} (hkey : bitsOf v.toNat 16 16 = 0x6B0C) (hclose : bitOf v.toNat 0 = false)
    (hother : s.lockedFor b q = false) : s.writeLock q b v = s.refuseWrite q (RegName.lock.addr b 0) := by
  unfold State.writeLock
  dsimp only
  rw [if_neg (not_not_intro hkey), if_neg (by simp [hclose]), if_neg (by simp [hother])]

/-- A lock with a holder is one of the module's. -/
theorem lockOf_range {s : State} {b : Nat} (h : (s.lockOf b).holder ≠ none) : b < s.locks.length := by
  by_contra hrange
  exact h (by rw [State.lockOf, List.getD_eq_default _ _ (Nat.le_of_not_lt hrange)])

theorem lockedFor_range {s : State} {b : Nat} {q : Requester} (h : s.lockedFor b q = true) : b < s.locks.length :=
  lockOf_range fun hnone => by simp [State.lockedFor, hnone] at h

theorem setLock_self {s : State} {b : Nat} (h : b < s.locks.length) (f : LockSt → LockSt) : (s.setLock b f).lockOf b = f (s.lockOf b) := by
  rw [setLock_of, if_pos ⟨rfl, h⟩]

theorem setLock_other {s : State} {b c : Nat} (h : c ≠ b) (f : LockSt → LockSt) : (s.setLock b f).lockOf c = s.lockOf c := by
  rw [setLock_of, if_neg fun hc => h hc.1]

theorem writeBarred_host_dbg {s : State} : s.writeBarred .host (RegName.lock.addr 22 0) = some (s.refuseWrite .host (RegName.lock.addr 22 0)) := by
  unfold State.writeBarred
  exact if_pos (by decide)

/-- Debug outside SERVICE and QUARANTINE changes no lock, DBG's own among them (R278). -/
theorem writeBarred_debug_lock {s : State} {b : Nat} (hb : b < 23) (hmode : s.debugMayWrite = false) :
    s.writeBarred .debug (RegName.lock.addr b 0) = some (s.denyDebug (RegName.lock.addr b 0)) := by
  unfold State.writeBarred
  simp only [locked_lock b hb, mod_lock b hb, hmode, and_true, Bool.false_eq_true, if_true, ite_self]

theorem exec_lockTimeout {s : State} {b : Nat} (hheld : (s.lockOf b).holder ≠ none) (hpast : (s.lockOf b).since + 10000000 ≤ s.tb.csr) :
    exec (.lockTimeout b) s = .next (s.setLock b fun l => { l with holder := none }) :=
  congrArg Host.Outcome.next (if_pos ⟨Option.isSome_iff_ne_none.2 hheld, hpast⟩)

/-- Settles O10: each command writes the lock's register, and what becomes of the write is said by `State.writeLock` or by what bars it. -/
theorem blockLocksBelongToTheirOpener : Obligations.BlockLocksBelongToTheirOpener := by
  unfold Obligations.BlockLocksBelongToTheirOpener
  refine ⟨?opens, ?notOpened, ?closes, ?notClosed, ?hostDbg, ?debug, ?timeout⟩
  case opens =>
    intro s q b hb hhost hlength hmay hfree
    refine ⟨_, exec_lockOpen hb q _, ?_⟩
    rw [writeRegs_lock hb hhost (may_debug hmay), writeLock_opens (hi16 _ 1 (Nat.le_refl 1) (by decide)) (lo1 _) hmay hfree]
    exact ⟨setLock_self (by omega) _, fun c hc => setLock_other hc _, rfl⟩
  case notOpened =>
    intro s q b key hb hhost hq hlt h
    refine ⟨_, exec_lockOpen hb q _, ?_⟩
    rw [writeRegs_lock hb hhost (absurd · hq), writeLock_notOpened (lo1 _) (by rwa [hi16 _ 1 (Nat.le_refl 1) hlt])]
    exact unlatch_upd (refuse_says ..) _ _
  case closes =>
    intro s q b hb hhost hq hmine
    refine ⟨_, exec_lockClose hb q _, ?_⟩
    rw [writeRegs_lock hb hhost (absurd · hq), writeLock_closes (by decide) (lo0 _) hmine]
    exact ⟨congrArg LockSt.holder (setLock_self (lockedFor_range hmine) _), fun c hc => setLock_other hc _, rfl⟩
  case notClosed =>
    intro s q b hb hhost hq hother
    refine ⟨_, exec_lockClose hb q _, ?_⟩
    rw [writeRegs_lock hb hhost (absurd · hq), writeLock_notClosed (by decide) (lo0 _) hother]
    exact unlatch_upd (refuse_says ..) _ _
  case hostDbg =>
    intro s key
    refine ⟨s.refuseWrite .host (RegName.lock.addr 22 0), ?_, ?_, refuse_says s .host _⟩
    · rw [exec_lockOpen (by decide), writeRegs_lock_barred (by decide) writeBarred_host_dbg]
    · rw [exec_lockClose (by decide), writeRegs_lock_barred (by decide) writeBarred_host_dbg]
  case debug =>
    intro s b key hb hservice hquarantine
    have hbar := writeBarred_debug_lock hb (s := s) (by simp [State.debugMayWrite, hservice, hquarantine])
    refine ⟨s.denyDebug (RegName.lock.addr b 0), ?_, ?_, deny_says s _⟩
    · rw [exec_lockOpen hb, writeRegs_lock_barred hb hbar]
    · rw [exec_lockClose hb, writeRegs_lock_barred hb hbar]
  case timeout =>
    intro s b hheld hpast
    exact ⟨_, exec_lockTimeout hheld hpast, congrArg LockSt.holder (setLock_self (lockOf_range hheld) _), fun c hc => setLock_other hc _, rfl⟩

end Sys2Proof.Machine
end

section
/-! SUPPORT. The dispatch service's tasks, its set-point at the worker, and the manager's commands (R206, R471 to R482, R533). -/

namespace Sys2Proof.Machine

/-! The worker's report. -/

theorem exec_workerReportRx {s : State} {r : WorkerReport} {st ep q : Nat}
    (h : s.cfg.manager = true ∧ r.worker < s.cfg.workers ∧ st = s.cfg.dspRpBase + r.worker ∧ s.cyclicNew st ep q = true) :
    exec (.workerReportRx r st ep q) s = .next { s.takeCyclic st ep q with dsp := { s.dsp with reports := assocSet s.dsp.reports r.worker r } } :=
  congrArg Host.Outcome.next (if_pos h)

theorem exec_workerReportRx_discarded {s : State} {r : WorkerReport} {st ep q : Nat}
    (h : s.cfg.manager = false ∨ s.cfg.workers ≤ r.worker ∨ st ≠ s.cfg.dspRpBase + r.worker ∨ s.cyclicNew st ep q = false) :
    exec (.workerReportRx r st ep q) s = .next s := by
  refine congrArg Host.Outcome.next (if_neg ?_)
  rintro ⟨hmanager, hworker, hstream, hnew⟩
  rcases h with h | h | h | h
  · simp [hmanager] at h
  · exact absurd hworker (Nat.not_lt.2 h)
  · exact h hstream
  · simp [hnew] at h

/-- A stream with a number delivered takes a later epoch, or a higher number of the same one (table Station duties for sequenced streams). -/
theorem cyclicNew_eq {s : State} {id e h : Nat} (hlast : assocGet s.wb.cyclic id = some (e, h)) (ep q : Nat) :
    s.cyclicNew id ep q = (decide (e < ep) || (ep == e && decide (0 < signedOf 32 (unsignedOf 32 (Int.ofNat q - Int.ofNat h))))) := by
  unfold State.cyclicNew
  rw [hlast]

theorem serialAhead_self (h : Nat) : ¬ 0 < signedOf 32 (unsignedOf 32 (Int.ofNat h - Int.ofNat h)) := by
  rw [Int.sub_self]
  decide

theorem serialAhead_of_lt {q h : Nat} (hlow : h < q) (hhigh : q < h + 2 ^ 31) :
    0 < signedOf 32 (unsignedOf 32 (Int.ofNat q - Int.ofNat h)) := by
  have hdiff : unsignedOf 32 (Int.ofNat q - Int.ofNat h) = q - h := by
    unfold unsignedOf
    simp only [Int.ofNat_eq_natCast]
    omega
  rw [hdiff]
  unfold signedOf
  split
  · simp only [Int.ofNat_eq_natCast]
    omega
  · omega

theorem exec_dspReport_idle {s : State} (h : s.cfg.manager = true ∨ s.dspRelease 0 = none) : exec .dspReport s = .next s := by
  refine congrArg Host.Outcome.next ?_
  split
  · rfl
  · next hrelease => exact if_pos (Or.inl (h.resolve_right (by simp [hrelease])))

theorem exec_dspReport_served {s : State} {k t : Nat} (hrelease : s.dspRelease 0 = some (k, t)) (hold : newRelease k s.dsp.repRel = false) :
    exec .dspReport s = .next s := by
  show Host.Outcome.next _ = _
  rw [hrelease]
  exact congrArg Host.Outcome.next (if_pos (Or.inr hold))

/-- At a new release a worker reports on its stream, in the modes that emit (R471, R472). -/
theorem exec_dspReport {s : State} {k t n : Nat} (hworker : s.cfg.manager = false) (hrelease : s.dspRelease 0 = some (k, t))
    (hnew : newRelease k s.dsp.repRel = true) (hmode : modeEmits s.sys.mode = true) (hnet : s.netOn s.dspNet = true)
    (hn : n = s.cfg.dspRpBase + s.cfg.dspWorker) : exec .dspReport s = .next { s with
      dsp := { s.dsp with repRel := k },
      out := s.out ++ [.net s.dspNet 5 (.report n (s.cycEpoch n) (s.streamSeq n)
        (s.workerReport t (if s.dsp.repRel = 0 ∨ k < s.dsp.repRel then 0 else k - s.dsp.repRel - 1)))] } := by
  subst hn
  show Host.Outcome.next _ = _
  rw [hrelease]
  refine congrArg Host.Outcome.next ((if_neg (by simp [hworker, hnew])).trans ?_)
  exact if_pos ⟨hmode, hnet⟩

/-! The allocation. -/

theorem exec_dspAlloc_idle {s : State} (h : s.cfg.manager = false ∨ s.dspRelease (2 ^ 23) = none) : exec .dspAlloc s = .next s := by
  refine congrArg Host.Outcome.next ?_
  split
  · rfl
  · next hrelease => exact if_pos (Or.inl (h.resolve_right fun hnone => Option.some_ne_none _ (hrelease.symm.trans hnone)))

theorem exec_dspAlloc {s : State} {k t : Nat} (hmanager : s.cfg.manager = true) (hrelease : s.dspRelease (2 ^ 23) = some (k, t))
    (hnew : newRelease k s.dsp.allocRel = true) :
    exec .dspAlloc s = .next (State.allocateNow { s with dsp := { s.dsp with allocRel := k, allocAt := t } }) := by
  show Host.Outcome.next _ = _
  rw [hrelease]
  exact congrArg Host.Outcome.next (if_neg (by simp [hmanager, hnew]))

/-- What the allocation knows of each enabled worker, in the direction of the plant's set-point. -/
def State.allocs (s : State) : List Alloc :=
  s.enabledWorkers.map fun i => { idx := i, l := f2d (s.limitOf (flt s.dsp.plant 0) i), w := s.weightOf (flt s.dsp.plant 0) i }

/-- Where the limits do not exceed |P| every worker gets its own (R473). -/
theorem allocate_within {p : F64} {l : List Alloc} (h : dle (dsum (l.map (·.l))) p = true) : (allocate p l).1 = l.map fun x => (x.idx, x.l) := by
  unfold allocate
  rw [if_pos h]

/-- The set-point frame of a worker. -/
def State.setpointFrame (epoch : Nat) (wsum : F64) (u : State) (i : Nat) : NetFrame :=
  .setpoint (u.cfg.dspSpBase + i) (u.cycEpoch (u.cfg.dspSpBase + i)) (u.streamSeq (u.cfg.dspSpBase + i)) (u.setpointOf epoch wsum i)

/-- An allocation sets the shares and what it counted, then sends each worker its set-point (R473 to R475). -/
theorem allocateNow_eq (s : State) : ∃ (d : DspSt) (wsum : F64),
    s.allocateNow = (List.range s.noteAbsent.cfg.workers).foldl (fun (u : State) i => u.sendCyclic
      (State.setpointFrame (State.setpointEpoch { s.noteAbsent with dsp := d }) wsum u i)) { s.noteAbsent with dsp := d } ∧
    d.reports = s.noteAbsent.dsp.reports ∧ d.plant = s.noteAbsent.dsp.plant ∧
    d.shares = (allocate (f2d (fabs s.noteAbsent.dsp.plant)) s.noteAbsent.allocs).1.map
      (fun e => (e.1, if flt s.noteAbsent.dsp.plant 0 then fneg (d2f e.2) else d2f e.2)) :=
  ⟨_, _, rfl, rfl, rfl, rfl⟩

/-- A set-point frame for an angle 0 at least two cycles ahead of `now`. -/
def setpointAhead (net now : Nat) (o : Out) : Prop :=
  ∃ id ep q sp, o = .net net 5 (.setpoint id ep q sp) ∧ now + 2 * countsPerCycle ≤ sp.epoch ∧ sp.epoch % countsPerCycle = 0

/-- What an absence notes is nothing that a limit or a weight reads. -/
theorem Reports.allocs {s v : State} {a : List Nat} {m : Nat} (h : Reports { s with dsp := { s.dsp with absent := a, missed := m } } v) :
    v.allocs = s.allocs := by
  rw [h.eq]
  rfl

theorem Reports.dspNet {u v : State} (h : Reports u v) : v.dspNet = u.dspNet := by
  rw [h.eq]
  rfl

theorem Reports.netOn {u v : State} (h : Reports u v) (n : Nat) : v.netOn n = u.netOn n := by
  rw [h.eq]
  rfl

theorem allocateNow_facts (s : State) : s.allocateNow.dsp.reports = s.dsp.reports ∧ s.allocateNow.dsp.plant = s.dsp.plant ∧
    s.allocateNow.prg = s.prg ∧ s.allocateNow.regs = s.regs ∧ s.allocateNow.hq = s.hq ∧
    (dle (dsum (s.allocs.map (·.l))) (f2d (fabs s.dsp.plant)) = true →
      s.allocateNow.dsp.shares = s.allocs.map fun x => (x.idx, if flt s.dsp.plant 0 then fneg (d2f x.l) else d2f x.l)) ∧
    (modeEmits s.sys.mode = true → s.netOn s.dspNet = true → ∃ l,
      s.allocateNow.out.filter (fun o => !o.toHost) = s.out.filter (fun o => !o.toHost) ++ l ∧ l.length = s.cfg.workers ∧
      ∀ o ∈ l, setpointAhead s.dspNet s.tb.ang o) := by
  obtain ⟨absent, missed, rs, es, hsays⟩ := noteAbsent_facts s
  obtain ⟨d, wsum, hall, hreports, hplant, hshares⟩ := allocateNow_eq s
  have hrep := hsays.toReports
  generalize s.noteAbsent = v at hreports hplant hshares hall hrep
  obtain ⟨o', hout, hlist⟩ := sendSetpoints { v with dsp := d } (State.setpointFrame (State.setpointEpoch { v with dsp := d }) wsum) (fun _ _ => rfl)
    (List.range v.cfg.workers) v.out
  obtain ⟨hahead, hzero⟩ := setpointEpoch_ahead { v with dsp := d }
  have hdsp := hrep.dsp
  rw [hall.trans hout]
  refine ⟨hreports.trans (by rw [hdsp]), hplant.trans (by rw [hdsp]), hrep.prg, hrep.regs, hrep.hq, fun hwithin => ?shares, fun hmode hnet => ?sent⟩
  case shares =>
    have hp : v.dsp.plant = s.dsp.plant := by rw [hdsp]
    rw [hrep.allocs, hp, allocate_within hwithin, List.map_map] at hshares
    exact hshares
  case sent =>
    have hlist := hlist (hrep.mode ▸ hmode) ((hrep.netOn _).trans (hrep.dspNet ▸ hnet))
    have hworkers : (List.range v.cfg.workers).length = s.cfg.workers := List.length_range.trans (by rw [hrep.cfg])
    refine ⟨_, (congrArg _ hlist).trans ((List.filter_append ..).trans (congrArg₂ _ hrep.sent (List.filter_eq_self.2 fun o ho => ?_))),
      (List.length_map _).trans hworkers, fun o ho => ?_⟩
    · obtain ⟨i, -, rfl⟩ := List.mem_map.1 ho
      rfl
    · obtain ⟨i, -, rfl⟩ := List.mem_map.1 ho
      exact ⟨_, _, _, _, congrArg (Out.net · 5 _) hrep.dspNet, hrep.tb ▸ hahead, hzero⟩

/-! The set-point at the worker. -/

theorem exec_setpointFrameRx_discarded {s : State} {sp : SetPoint} {ep seq : Nat} (h : s.cfg.manager = true ∨ sp.worker ≠ s.cfg.dspWorker ∨
    s.cyclicNew (s.cfg.dspSpBase + s.cfg.dspWorker) ep seq = false) : exec (.setpointFrameRx sp ep seq) s = .next s :=
  congrArg Host.Outcome.next (if_pos h)

theorem exec_setpointFrameRx {s u : State} {sp : SetPoint} {ep seq : Nat} (hworker : s.cfg.manager = false) (hown : sp.worker = s.cfg.dspWorker)
    (hnew : s.cyclicNew (s.cfg.dspSpBase + s.cfg.dspWorker) ep seq = true) (hu : spHeard s sp ep seq = u) :
    exec (.setpointFrameRx sp ep seq) s = .next (u.takeSetpointFrame sp seq) := by
  subst hu
  exact congrArg Host.Outcome.next (if_neg (by simp [hworker, hown, hnew]))

/-- Where an anchor does not seed the angle clock, a heard frame only counts in its stream. -/
theorem spHeard_unseeded {s : State} (h : s.fld .angSeed 0 2 ≠ 1) (sp : SetPoint) (ep seq : Nat) :
    spHeard s sp ep seq = s.takeCyclic (s.cfg.dspSpBase + s.cfg.dspWorker) ep seq :=
  if_pos h

/-- A worker that hears a set-point is fresh, and no longer on its fallback. -/
def State.spFresh (u : State) : State := { u with dsp := { u.dsp with fresh := true, fallback := false, spAt := u.tb.csr } }

/-- A set-point more than 50 cycles ahead is only recorded (R477). -/
theorem takeSetpointFrame_far {u : State} {sp : SetPoint} (h : u.tb.ang + 50 * countsPerCycle < spInstant u sp) (seq : Nat) :
    Says u.spFresh [(.dspEpochFar, [spInstant u sp])] [] (u.takeSetpointFrame sp seq) := by
  have hfar : u.takeSetpointFrame sp seq = u.spFresh.record .dspEpochFar [spInstant u sp] := if_pos h
  rw [hfar]
  exact (Says.refl _).record .dspEpochFar _

/-- The arguments of a set-point's record (R476). -/
def spArgs (u : State) (sp : SetPoint) (seq : Nat) : List Nat := [spInstant u sp, BitVec.toNat (if sp.excluded then (0 : F32) else sp.pSet), seq]

theorem spTold_says (u : State) (sp : SetPoint) (seq : Nat) :
    Says (spWaiting u sp seq) [(.dspSetpoint, spArgs u sp seq)] [84] (((spWaiting u sp seq).record .dspSetpoint (spArgs u sp seq)).raise 84) :=
  ((Says.refl _).record .dspSetpoint _).raise 84 (by decide)

/-- Within 50 cycles a set-point waits, or is applied at once where its instant is past (R477, R478). -/
theorem takeSetpointFrame_near {u : State} {sp : SetPoint} {seq : Nat} {t : State} (h : spInstant u sp ≤ u.tb.ang + 50 * countsPerCycle)
    (ht : ((spWaiting u sp seq).record .dspSetpoint (spArgs u sp seq)).raise 84 = t) :
    u.takeSetpointFrame sp seq = if spInstant u sp < u.tb.ang then (t.applySetpoint u.tb.ang).record .dspLate [spInstant u sp] else t := by
  have htb : t.tb = u.tb := ht ▸ (spTold_says u sp seq).toReports.tb
  rw [← htb]
  subst ht
  exact if_neg (Nat.not_lt.2 h)

/-- One set-point posted stays until its epoch and is then applied. -/
theorem applySetpoint_posted {s : State} {e q : Nat} {p : F32} (h : s.dsp.spPending = [(e, p, q)]) {now : Nat} (hdue : e ≤ now) :
    s.applySetpoint now = State.setSlot { s with dsp := { s.dsp with spPending := [], pSet := p, spEpoch := e, spSeq := q } }
      s.cfg.dspSlot fun x => { x with setTarget := some p } := by
  have hkept : (s.dsp.spPending.filter fun x => decide (now < x.1)) = [] := by simp [h, hdue]
  have hlast : (s.dsp.spPending.filter fun x => decide (x.1 ≤ now)).getLast? = some (e, p, q) := by simp [h, hdue]
  unfold State.applySetpoint
  rw [hlast]
  dsimp only
  rw [hkept]

/-! The fallback and the frequency response. -/

theorem exec_dspFallback_idle {s : State} (h : s.cfg.manager = true ∨ s.dsp.fallback = true ∨
    s.tb.csr < s.dsp.spAt + usTicks (1000 * s.fld .dspStaleMs 0 16)) : exec .dspFallback s = .next s := by
  refine congrArg Host.Outcome.next (if_pos (h.imp_right (Or.imp_right fun hearly => ?_)))
  exact decide_eq_false (Nat.not_le.2 hearly)

theorem exec_dspFallback {s : State} (hworker : s.cfg.manager = false) (hfirst : s.dsp.fallback = false)
    (hstale : s.dsp.spAt + usTicks (1000 * s.fld .dspStaleMs 0 16) ≤ s.tb.csr) : exec .dspFallback s = .next
      ((State.setSlot { s with dsp := { s.dsp with fallback := true, fresh := false, pSet := s.reg .dspFallbackMw, spEpoch := s.tb.ang } } s.cfg.dspSlot
        fun x => { x with setTarget := some (s.reg .dspFallbackMw) }).record .dspFallback [(s.reg .dspFallbackMw).toNat]) := by
  have hset : s.setpointStale = true := decide_eq_true hstale
  exact congrArg Host.Outcome.next (if_neg (by simp [hworker, hfirst, hset]))

theorem exec_dspFfr_idle {s : State} (h : s.cfg.manager = true ∨ newRelease (s.tb.ang / countsPerCycle + 1) s.dsp.ffrRel = false) :
    exec .dspFfr s = .next s :=
  congrArg Host.Outcome.next (if_pos h)

/-- The response of a cycle, written as the exchange variable DSP_FFR_VAR (R479). -/
def State.ffrWritten (s : State) (x : F32) : State :=
  State.setInput { s with dsp := { s.dsp with ffrRel := s.tb.ang / countsPerCycle + 1, ffr := x } } 3 s.cfg.dspFfrVar x
    (s.tb.ang / countsPerCycle * countsPerCycle) true

theorem exec_dspFfr {s : State} {df : F32} (hworker : s.cfg.manager = false) (hunposted : s.dsp.spPending = [])
    (hnew : newRelease (s.tb.ang / countsPerCycle + 1) s.dsp.ffrRel = true)
    (hdf : fsub (fratio (Int.ofNat s.tb.freq) 10000) (fofInt (Int.ofNat s.fnom)) = df) :
    exec .dspFfr s = .next (s.ffrWritten (if s.dsp.ffrEn then ffrOf s.dsp.kFfr s.dsp.ffrLim s.dsp.ffrDb df else 0)) := by
  subst hdf
  have hsame := applySetpoint_unposted (s := { s with dsp := { s.dsp with ffrRel := s.tb.ang / countsPerCycle + 1 } }) hunposted s.tb.ang
  refine congrArg Host.Outcome.next ((if_neg (by simp [hworker, hnew])).trans ?_)
  dsimp only
  rw [hsame]
  rfl

/-! The manager's commands. -/

/-- The four values of DSP_PLANT_SET are all finite. -/
def plantFinite (b : List Byte) : Bool :=
  ffinite (BitVec.ofNat 32 (dInline b 0 4)) && ffinite (BitVec.ofNat 32 (dInline b 4 4)) && ffinite (BitVec.ofNat 32 (dInline b 8 4)) &&
    ffinite (BitVec.ofNat 32 (dInline b 12 4))

theorem plantFinite_false (b : List Byte) :
    ((List.range 4).any fun i => !ffinite (BitVec.ofNat 32 (dInline b (4 * i) 4))) = true ↔ plantFinite b = false := by
  unfold plantFinite
  simp [List.range_succ, imp_iff_not_or, or_assoc]

theorem exec_dspPlantSet {s : State} {w : WorkRef} {op : Op} (h : s.covers w 0x30 op) : exec (.dspPlantSet w) s = .next (
    if s.cfg.manager = false then s.finish op stDspRefused 1
    else if plantFinite op.bytes = false then s.finish op stDspRefused 2
    else State.finish { s with dsp := { s.dsp with
      plant := BitVec.ofNat 32 (dInline op.bytes 0 4), kPlant := BitVec.ofNat 32 (dInline op.bytes 4 4)
      ffrLimPlant := BitVec.ofNat 32 (dInline op.bytes 8 4), ffrDbPlant := BitVec.ofNat 32 (dInline op.bytes 12 4) } } op stOk 0) := by
  refine congrArg Host.Outcome.next ((coveredOp_ready h _).trans ?_)
  dsimp only
  rw [finishCut_holds h.1, finishCut_holds h.1, finishCut_holds (by exact h.1)]
  simp only [plantFinite_false]

/-- What a DSP_WORKER_ENABLE with a SUBOP makes of the disabled workers (R481). -/
def disabledAfter (subop i : Nat) (l : List Nat) : List Nat := if subop = 1 then l.filter (· ≠ i) else l.filter (· ≠ i) ++ [i]

theorem mem_disabledAfter_self {subop i : Nat} {l : List Nat} : i ∈ disabledAfter subop i l ↔ subop ≠ 1 := by
  unfold disabledAfter
  split <;> simp [*]

theorem mem_disabledAfter_other {subop i k : Nat} {l : List Nat} (h : k ≠ i) : k ∈ disabledAfter subop i l ↔ k ∈ l := by
  unfold disabledAfter
  split <;> simp [h]

/-- The workers that take no part. -/
def State.withDisabled (s : State) (l : List Nat) : State := { s with dsp := { s.dsp with disabled := l } }

theorem exec_dspWorkerEnable {s : State} {w : WorkRef} {op : Op} {i : Nat} (h : s.covers w 0x31 op) (hi : dInline op.bytes 0 1 = i) :
    exec (.dspWorkerEnable w) s = .next (
      if s.cfg.manager = false then s.finish op stDspRefused 1
      else if s.cfg.workers ≤ i then s.finish op stDspRefused 3
      else (s.withDisabled (disabledAfter (dSubop op.bytes) i s.dsp.disabled)).finish op stOk 0) := by
  subst hi
  refine congrArg Host.Outcome.next ((coveredOp_ready h _).trans ?_)
  dsimp only
  rw [finishCut_holds h.1, finishCut_holds h.1, finishCut_holds (by exact h.1)]
  rfl

/-- Settles O46: each task and command by its own equation; the allocation by `allocateNow_facts`. -/
theorem dispatchSharesThePlantSetPoint : Obligations.DispatchSharesThePlantSetPoint := by
  unfold Obligations.DispatchSharesThePlantSetPoint
  refine ⟨?report, fun s r st ep q => exec_workerReportRx_discarded, ?serial, fun s => exec_dspReport_idle, fun s k t => exec_dspReport_served, ?answer,
    fun s => exec_dspAlloc_idle, ?allocation, fun s sp ep seq => exec_setpointFrameRx_discarded, ?setpoint, ?posted, fun s => exec_dspFallback_idle,
    ?fallback, fun s => exec_dspFfr_idle, ?response, ?plantSet, ?workerEnable⟩
  case report => exact fun s r st ep q hmanager hworker hstream hnew => exec_workerReportRx ⟨hmanager, hworker, hstream, hnew⟩
  case serial =>
    intro s id ep q e h hlast
    rw [cyclicNew_eq hlast]
    refine ⟨fun hold => ?_, fun hnew => ?_, ?_, ?_⟩
    · simp [Nat.le_of_lt hold, Nat.ne_of_lt hold]
    · simp [hnew]
    · rintro rfl rfl
      rw [decide_eq_false (serialAhead_self q)]
      simp
    · rintro rfl hlow hhigh
      rw [decide_eq_true (serialAhead_of_lt hlow hhigh)]
      simp
  case answer => exact fun s k t n hworker hrelease hnew hmode hnet hn => exec_dspReport hworker hrelease hnew hmode hnet hn
  case allocation =>
    rintro s u k t hmanager hrelease hnew rfl
    obtain ⟨hreports, hplant, hprg, hregs, hhq, hshares, hsent⟩ := allocateNow_facts { s with dsp := { s.dsp with allocRel := k, allocAt := t } }
    refine ⟨_, exec_dspAlloc hmanager hrelease hnew, hreports, hplant, hprg, hregs, hhq, fun hwithin => ?_, hsent⟩
    unfold State.allocs at hshares
    rw [List.map_map, List.map_map] at hshares
    refine (hshares hwithin).trans (List.map_congr_left fun i _ => ?_)
    cases flt s.dsp.plant 0 <;> simp
  case setpoint =>
    intro s u sp ep seq hworker hown hnew hu
    have hexec := exec_setpointFrameRx hworker hown hnew hu
    refine ⟨fun hseed => hu.symm.trans (spHeard_unseeded hseed sp ep seq), fun hahead hnear => ?_, fun hfar => ⟨_, hexec, takeSetpointFrame_far hfar seq⟩,
      fun hpast => ?_⟩
    · rw [takeSetpointFrame_near hnear rfl, if_neg (Nat.not_lt.2 hahead)] at hexec
      exact ⟨_, hexec, spTold_says u sp seq⟩
    · rw [takeSetpointFrame_near (by omega) rfl, if_pos hpast] at hexec
      exact ⟨_, hexec, ((spTold_says u sp seq).applySetpoint u.tb.ang).record .dspLate _⟩
  case posted =>
    exact fun s e q p hposted => ⟨fun hearly => applySetpoint_none (by simpa [hposted] using hearly), applySetpoint_posted hposted⟩
  case fallback => exact fun s hworker hfirst hstale => ⟨_, exec_dspFallback hworker hfirst hstale, (Says.refl _).record .dspFallback _⟩
  case response =>
    intro s df hworker hunposted hnew hdf
    have hexec := exec_dspFfr hworker hunposted hnew hdf
    refine ⟨fun hnone => ?_, fun hen hband => ⟨_, rfl, ?_⟩⟩
    · rcases hnone with hoff | hband
      · rw [hoff] at hexec
        exact hexec
      · rw [ffrOf, if_pos hband, ite_self] at hexec
        exact hexec
    · rw [if_pos hen, ffrOf, if_neg (by simp [hband])] at hexec
      exact hexec
  case plantSet =>
    rintro s w op p k l d h rfl rfl rfl rfl
    have hexec := exec_dspPlantSet h
    refine ⟨fun hworker => ?_, fun hmanager hbad => ?_, fun hmanager hfinite => ?_⟩
    · rwa [if_pos hworker] at hexec
    · rwa [if_neg (by simp [hmanager]), if_pos (show plantFinite op.bytes = false from hbad)] at hexec
    · rwa [if_neg (by simp [hmanager]), if_neg (ne_of_eq_of_ne (show plantFinite op.bytes = true from hfinite) (by decide))] at hexec
  case workerEnable =>
    intro s w op i h hi
    have hexec := exec_dspWorkerEnable h hi
    refine ⟨fun hworker => ?_, fun hmanager hunknown => ?_, fun hmanager hknown =>
      ⟨disabledAfter (dSubop op.bytes) i s.dsp.disabled, mem_disabledAfter_self, fun k => mem_disabledAfter_other, ?_⟩⟩
    · rwa [if_pos hworker] at hexec
    · rwa [if_neg (by simp [hmanager]), if_pos hunknown] at hexec
    · exact hexec.trans (congrArg _ ((if_neg (by simp [hmanager])).trans (if_neg (Nat.not_le.2 hknown))))

end Sys2Proof.Machine
end

section
/-! SUPPORT. The protection plane: missing samples, notices, contactors that do not open, and the frames it sends (R448 to R459). -/

namespace Sys2Proof.Machine

/-! Missing samples (R450). -/

theorem exec_missLimit_idle {s : State} {i : Nat} (h : s.prot.set = none ∨ (∀ x, s.prot.set = some x → s.strOverdue i x.missLimitMs = false) ∨
    (s.prot.strings.getD i {}).missLimit = true) : exec (.missLimit i) s = .next s := by
  refine congrArg Host.Outcome.next ?_
  split
  · rfl
  · next x hset =>
    refine if_pos ?_
    rcases h with h | h | h
    · simp [hset] at h
    · exact Or.inl (h x hset)
    · exact Or.inr h

/-- The step of the plane in which a string's MISSING limit begins. -/
def State.missLimitOn (i : Nat) (s : State) : State :=
  (((s.setStr i fun t => { t with missLimit := true }).record .protLimit [1, i, 7]).raise 73).lastEvent 7 0 0 0 2

theorem exec_missLimit {s : State} {i : Nat} {x : ProtSet} (hset : s.prot.set = some x) (hover : s.strOverdue i x.missLimitMs = true)
    (hnew : (s.prot.strings.getD i {}).missLimit = false) : exec (.missLimit i) s = .next (s.protStep (State.missLimitOn i)) := by
  show Host.Outcome.next _ = _
  rw [hset]
  exact congrArg Host.Outcome.next (if_neg (by simp only [hover, hnew]; decide))

theorem missLimitOn_plane (s : State) (i : Nat) : Plane s [(.protLimit, [1, i, 7])] [73] (s.missLimitOn i) :=
  ((((Plane.refl s).set (s.setStr i fun t => { t with missLimit := true }).prot s.dio).record .protLimit [1, i, 7]).raise 73 (by decide)).set _ _

theorem missLimitOn_prot (s : State) (i : Nat) : (s.missLimitOn i).prot = { s.prot with
    strings := updAt s.prot.strings i fun t => { t with missLimit := true }
    lastCause := 7, lastRing := 0, lastPos := 0, lastCh := 0, lastSev := 2 } := by
  unfold State.missLimitOn State.lastEvent
  simp only [State.raise_frame, State.record_frame, State.setStr]

theorem missLimitOn_dio (s : State) (i : Nat) : (s.missLimitOn i).dio = s.dio := by
  unfold State.missLimitOn State.lastEvent
  simp only [State.raise_frame, State.record_frame, State.setStr]

/-- A string in the MISSING limit inhibits both directions (R449, R450). -/
theorem inhibit_of_missLimit {s : State} {t : ProtStr} (hstr : t ∈ s.prot.strings) (hlimit : t.missLimit = true) (charge : Bool) :
    s.inhibit charge = true := by
  unfold State.inhibit
  rw [List.any_eq_true.2 ⟨t, hstr, by unfold strInhibit; rw [hlimit]; rfl⟩]
  rfl

theorem inhibit_congr {s t : State} (hstr : t.prot.strings = s.prot.strings) (haux : t.prot.auxOn = s.prot.auxOn) (charge : Bool) :
    t.inhibit charge = s.inhibit charge := by
  unfold State.inhibit
  rw [hstr, haux]

theorem exec_missTrip_idle {s : State} {i : Nat} (h : s.prot.set = none ∨ (∀ x, s.prot.set = some x → s.strOverdue i x.missTripMs = false) ∨
    (s.prot.strings.getD i {}).missTrip = true) : exec (.missTrip i) s = .next s := by
  refine congrArg Host.Outcome.next ?_
  split
  · rfl
  · next x hset =>
    refine if_pos ?_
    rcases h with h | h | h
    · simp [hset] at h
    · exact Or.inl (h x hset)
    · exact Or.inr h

theorem exec_missTrip {s : State} {i : Nat} {x : ProtSet} (hset : s.prot.set = some x) (hover : s.strOverdue i x.missTripMs = true)
    (hnew : (s.prot.strings.getD i {}).missTrip = false) : exec (.missTrip i) s = .next (s.protStep fun s =>
      (s.setStr i fun t => { t with missTrip := true }).tripGroups (((x.strings[i]?).map (·.groups)).getD 0) 7 0 0 0 0 true [i]) := by
  show Host.Outcome.next _ = _
  rw [hset]
  exact congrArg Host.Outcome.next (if_neg (by simp only [hover, hnew]; decide))

/-! A contactor that is not seen to open (R454). -/

theorem exec_auxConfirmTimeout_idle {s : State} {g : Nat} (h : (s.trip g).tripped = false ∨ (s.trip g).confirmDue = false ∨
    (s.trip g).confirmed = true ∨ (∀ x e, s.prot.set = some x → x.groups[g]? = some e →
      s.tb.csr < (s.trip g).trippedAt + usTicks (1000 * e.confirmMs))) : exec (.auxConfirmTimeout g) s = .next s := by
  refine congrArg Host.Outcome.next ?_
  split
  · rfl
  · next e he =>
    obtain ⟨x, hset, hentry⟩ := Option.bind_eq_some_iff.1 he
    refine if_pos ?_
    rcases h with h | h | h | h
    · simp [h]
    · simp [h]
    · simp [h]
    · simp [h x e hset hentry]

/-- The step of the plane in which a contactor is found not to have opened. -/
def State.contactorFailed (g : Nat) (s : State) : State := (s.setGroup g fun t => { t with confirmDue := false }).record .contactorFail [g]

theorem exec_auxConfirmTimeout {s : State} {g : Nat} {x : ProtSet} {e : GroupEntry} (htripped : (s.trip g).tripped = true)
    (hdue : (s.trip g).confirmDue = true) (hunseen : (s.trip g).confirmed = false) (hset : s.prot.set = some x) (hentry : x.groups[g]? = some e)
    (hpast : (s.trip g).trippedAt + usTicks (1000 * e.confirmMs) ≤ s.tb.csr) :
    exec (.auxConfirmTimeout g) s = .next (s.protStep fun s => if e.backupEn then
      ((s.contactorFailed g).setGroup g fun t => { t with backupFired := true }).tripGroups (2 ^ e.backupPdo) 12 e.confRing e.confPos e.confInput 0
        true [g] else s.contactorFailed g) := by
  show Host.Outcome.next _ = _
  rw [hset]
  show Host.Outcome.next (match x.groups[g]? with | none => s | some e => _) = _
  rw [hentry]
  exact congrArg Host.Outcome.next (if_neg (by simp [htripped, hdue, hunseen, Nat.not_lt.2 hpast]))

theorem contactorFailed_plane (s : State) (g : Nat) : Plane s [(.contactorFail, [g])] [] (s.contactorFailed g) :=
  ((Plane.refl s).set (s.setGroup g fun t => { t with confirmDue := false }).prot s.dio).record .contactorFail [g]

theorem contactorFailed_prot (s : State) (g : Nat) :
    (s.contactorFailed g).prot = (s.setGroup g fun t => { t with confirmDue := false }).prot ∧ (s.contactorFailed g).dio = s.dio := by
  unfold State.contactorFailed
  simp only [State.record_frame, State.setGroup, and_self]

theorem trip_congr {s t : State} (h : t.prot.groups = s.prot.groups) (g : Nat) : t.trip g = s.trip g := by
  unfold State.trip
  rw [h]

theorem trip_setGroup_self {s : State} {g : Nat} (h : g < s.prot.groups.length) (f : TripGroup → TripGroup) : (s.setGroup g f).trip g = f (s.trip g) := by
  rw [trip_setGroup, if_pos ⟨rfl, h⟩]

theorem trip_setGroup_other {s : State} {g k : Nat} (h : k ≠ g) (f : TripGroup → TripGroup) : (s.setGroup g f).trip k = s.trip k := by
  rw [trip_setGroup, if_neg fun hk => h hk.1]

theorem contactorFailed_trip {s : State} {g : Nat} (h : g < s.prot.groups.length) :
    (s.contactorFailed g).trip g = { s.trip g with confirmDue := false } ∧ ∀ k, k ≠ g → (s.contactorFailed g).trip k = s.trip k := by
  have hgroups := congrArg ProtSt.groups (contactorFailed_prot s g).1
  exact ⟨(trip_congr hgroups g).trans (trip_setGroup_self h _), fun k hk => (trip_congr hgroups k).trans (trip_setGroup_other hk _)⟩

theorem tripBits_congr {s t : State} (h : ∀ g, (t.trip g).tripped = (s.trip g).tripped) : t.tripBits = s.tripBits := by
  unfold State.tripBits
  simp only [h]

/-- With a backup its group trips too; the step that asks for it (R454). -/
theorem backupFired_facts {s : State} {g : Nat} (h : g < s.prot.groups.length) :
    let u := (s.contactorFailed g).setGroup g fun t => { t with backupFired := true }
    Plane s [(.contactorFail, [g])] [] u ∧ u.dio = s.dio ∧ u.trip g = { s.trip g with confirmDue := false, backupFired := true } ∧
      ∀ k, k ≠ g → u.trip k = s.trip k := by
  obtain ⟨hself, hother⟩ := contactorFailed_trip h
  obtain ⟨hprot, hdio⟩ := contactorFailed_prot s g
  have hlength : g < (s.contactorFailed g).prot.groups.length := by
    rw [hprot]
    exact (updAt_length ..).symm ▸ h
  refine ⟨(contactorFailed_plane s g).set _ _, hdio, ?_, fun k hk => (trip_setGroup_other hk _).trans (hother k hk)⟩
  rw [trip_setGroup_self hlength, hself]

/-! Frames (R457 to R459). -/

theorem exec_planeFrames_idle {s : State} (h : s.prot.set = none ∨ s.powered 6 = false) :
    exec .protFrameTx s = .next s ∧ exec .gooseRetransmit s = .next s := by
  refine ⟨congrArg Host.Outcome.next ?_, congrArg Host.Outcome.next (if_pos (h.imp_left Option.isNone_iff_eq_none.2))⟩
  rcases h with h | h
  · refine (ite_congr rfl (fun _ => ?_) fun _ => rfl).trans (ite_self s)
    unfold State.protFrame
    rw [h]
  · rw [h]
    rfl

/-- Messages that depend on nothing that sending changes. -/
theorem emits_out {α : Type} (f : State → α → Out) (hf : ∀ (u : State) o a, f { u with out := o } a = f u a) (l : List α) (s : State) :
    l.foldl (fun u a => u.emit (f u a)) s = { s with out := s.out ++ l.map (f s) } := by
  induction l generalizing s with
  | nil => simp
  | cons a l ih =>
    rw [List.foldl_cons, ih]
    have hmap : l.map (f (s.emit (f s a))) = l.map (f s) := List.map_congr_left fun b _ => hf s _ b
    rw [hmap]
    unfold State.emit
    rw [List.append_assoc]
    rfl

theorem exec_protNoticeRx (s : State) (crc : Bool) (gen m c r p k e : Nat) : exec (.protNoticeRx crc gen m c r p k e) s =
    s.fromPartner crc gen fun s => s.protStep fun s => s.tripGroups m 9 r p k e false [] := rfl

/-- The ports of CAN_PORTS on which the module may send its protection frame (R457, R458). -/
def State.protPorts (s : State) (x : ProtSet) : List Nat :=
  (List.range 4).filter fun p => bitOf x.canPorts p && (s.canTx p || (s.canLive p && s.protSelf))

theorem exec_protFrameTx {s : State} {x : ProtSet} (hset : s.prot.set = some x) (hpower : s.powered 6 = true) (hports : s.protPorts x ≠ []) :
    exec .protFrameTx s = .next { s with
      prot := { s.prot with roll := (s.prot.roll + 1) % 256 }
      out := s.out ++ (s.protPorts x).map fun p =>
        .protCan p (s.protCanId x) x.fd (State.protData { s with prot := { s.prot with roll := (s.prot.roll + 1) % 256 } } 1) } := by
  refine congrArg Host.Outcome.next ((if_pos hpower).trans ?_)
  unfold State.protFrame
  rw [hset]
  refine (if_neg hports).trans ?_
  exact emits_out (fun u p => .protCan p (u.protCanId x) x.fd (u.protData 1)) (fun _ _ _ => rfl) (s.protPorts x)
    { s with prot := { s.prot with roll := (s.prot.roll + 1) % 256 } }

theorem exec_gooseRetransmit {s : State} {x : ProtSet} (hset : s.prot.set = some x) (hpower : s.powered 6 = true) :
    exec .gooseRetransmit s = .next (State.goose { s with prot := { s.prot with
      sqNum := s.prot.sqNum + 1, gooseMs := min 1000 (2 * s.prot.gooseMs) } }) :=
  congrArg Host.Outcome.next (if_neg (by simp [hset, hpower]))

theorem goose_out {s : State} {x : ProtSet} (hset : s.prot.set = some x) : ∃ o : List Out, s.goose.out = s.out ++ o ∧ o.length ≤ 1 ∧
    (s.bit .protCtrl 0 = true → s.netOn 0 = true → o = [.net 0 7 (.goose s.goId x.appId s.prot.stNum s.prot.sqNum s.tripBits
      (ofBool (s.inhibit true) + 2 * ofBool (s.inhibit false)) x.setSeq)]) := by
  unfold State.goose
  rw [hset]
  dsimp only
  split
  · exact ⟨_, rfl, Nat.le_refl 1, fun _ _ => rfl⟩
  · next hoff => exact ⟨[], (List.append_nil _).symm, Nat.zero_le 1, fun hbit hnet => absurd ⟨hbit, hnet⟩ hoff⟩

/-- Settles O52: each command by its own step of the plane, and what a step sends by `protStep_facts` and `protStep_trips`. -/
theorem protectionPlaneTripsGroups : Obligations.ProtectionPlaneTripsGroups := by
  unfold Obligations.ProtectionPlaneTripsGroups
  refine ⟨fun s i => exec_missLimit_idle, ?limit, fun s i => exec_missTrip_idle, ?trip, ?notice, fun s g => exec_auxConfirmTimeout_idle, ?contactor,
    fun s => exec_planeFrames_idle, ?frames⟩
  case limit =>
    intro s i x hset hi hover hnew
    obtain ⟨hplane, hdio, hprot, hchanged⟩ := protStep_facts (missLimitOn_plane s i) (s := s)
    have hstr : ((s.missLimitOn i).prot.strings.getD i {}).missLimit = true := by
      rw [missLimitOn_prot, updAt_getD, if_pos ⟨rfl, hi⟩]
    have hmem : (s.missLimitOn i).prot.strings.getD i {} ∈ (s.missLimitOn i).prot.strings := by
      rw [List.getD_eq_getElem _ _ (by rw [missLimitOn_prot]; exact (updAt_length ..).symm ▸ hi)]
      exact List.getElem_mem _
    have hinhibit : ∀ charge, (s.missLimitOn i).inhibit charge = true := inhibit_of_missLimit hmem hstr
    have hsame : ∀ charge, (s.protStep (State.missLimitOn i)).inhibit charge = (s.missLimitOn i).inhibit charge :=
      inhibit_congr (by rw [hprot]) (by rw [hprot])
    refine ⟨_, exec_missLimit hset hover hnew, hplane, by rw [hprot]; exact hstr, (hsame true).trans (hinhibit true),
      (hsame false).trans (hinhibit false), by rw [hprot, missLimitOn_prot], by rw [hprot, missLimitOn_prot], by rw [hprot, missLimitOn_prot],
      hdio.trans (missLimitOn_dio s i), fun hfree => ?_⟩
    obtain ⟨hst, hsq, hms⟩ := hchanged (Or.inr (hfree.imp (fun h => by rw [h, hinhibit]; decide) fun h => by rw [h, hinhibit]; decide))
    exact ⟨by rw [hst, missLimitOn_prot], hsq, hms⟩
  case trip => exact fun s i x hset hover hnew => ⟨_, exec_missTrip hset hover hnew, protStep_trips _ _ _ _ _ _ _ _ rfl rfl⟩
  case notice =>
    intro s crc gen m c r p k e
    rw [exec_protNoticeRx]
    refine ⟨fun h => fromPartner_dropped (by tauto) _, fun hup hcrc hgen => ?_⟩
    subst hcrc hgen
    exact ⟨_, fromPartner_present hup _, protStep_trips _ _ _ _ _ _ _ _ rfl rfl⟩
  case contactor =>
    intro s g x e hg htripped hdue hunseen hset hentry hpast
    have hexec := exec_auxConfirmTimeout htripped hdue hunseen hset hentry hpast
    refine ⟨fun hno => ?_, fun hyes => ?_⟩
    · obtain ⟨hplane, hdio, hprot, -⟩ := protStep_facts (contactorFailed_plane s g) (s := s)
      obtain ⟨hself, hother⟩ := contactorFailed_trip hg
      have hsame := trip_congr (s := s.contactorFailed g) (t := s.protStep (State.contactorFailed g)) (by rw [hprot])
      simp only [hno, Bool.false_eq_true, if_false] at hexec
      exact ⟨_, hexec, hplane, hdio.trans (contactorFailed_prot s g).2, (hsame g).trans hself, fun k hk => (hsame k).trans (hother k hk)⟩
    · obtain ⟨hplane, hdio, hself, hother⟩ := backupFired_facts hg
      simp only [hyes, if_true] at hexec
      refine ⟨_, _, hexec, hplane, hdio, hself, hother, protStep_trips _ _ _ _ _ _ _ _ rfl (tripBits_congr fun k => ?_)⟩
      by_cases hk : k = g
      · rw [hk, hself]
      · rw [hother k hk]
  case frames =>
    intro s x hset hpower
    refine ⟨fun l hl hports => ?_, ?_⟩
    · subst hl
      exact exec_protFrameTx hset hpower hports
    · obtain ⟨hplane, hprot, hdio⟩ := goose_plane { s with prot := { s.prot with sqNum := s.prot.sqNum + 1, gooseMs := min 1000 (2 * s.prot.gooseMs) } }
      obtain ⟨o, hout, hone, hsent⟩ := goose_out (s := { s with prot := { s.prot with
        sqNum := s.prot.sqNum + 1, gooseMs := min 1000 (2 * s.prot.gooseMs) } }) hset
      exact ⟨_, o, exec_gooseRetransmit hset hpower, ((Plane.refl s).set _ s.dio).trans hplane, hout, hone, hprot, hdio, hsent⟩

end Sys2Proof.Machine
end

section
/-! SUPPORT. The commands that stage, commit, discard, reset, test and read the protection set (R455, R456, R464 to R468, R482). -/

namespace Sys2Proof.Machine

theorem protRefuse_holds {s : State} (hholds : s.holds = true) (op : Op) (r : Nat) : s.protRefuse op r = s.finish op stProtRefused r :=
  finishCut_holds hholds ..

/-! Staging (R464). -/

theorem exec_protStage_badArtefact {s : State} {w : WorkRef} {op : Op} {t c : Nat} (hholds : s.holds = true) (h : s.ready w 2 0x20 op)
    (hbad : s.judgeArtefact (some 4) (s.buffer op) = .refused t c) :
    exec (.protStage w) s = .next ((s.sigFail t c).finish op stProtRefused (if c = 4 ∨ c = 5 then 2 else 1)) := by
  refine congrArg Host.Outcome.next ((cutOp_ready hholds h _).trans ?_)
  dsimp only
  rw [hbad]
  exact protRefuse_holds ((sigFail_says s t c).holds.trans hholds) ..

theorem exec_protStage_noSet {s : State} {w : WorkRef} {op : Op} {a : Artefact} (hholds : s.holds = true) (h : s.ready w 2 0x20 op)
    (hgood : s.judgeArtefact (some 4) (s.buffer op) = .good a) (hnone : protSetOf a.body = none) :
    exec (.protStage w) s = .next (s.finish op stProtRefused 3) := by
  refine congrArg Host.Outcome.next ((cutOp_ready hholds h _).trans ?_)
  dsimp only
  rw [hgood]
  dsimp only
  rw [hnone]
  exact protRefuse_holds hholds ..

/-- The staged set with its digest. -/
def State.staging (s : State) (x : ProtSet) (b : List Byte) : State :=
  { s with prot := { s.prot with staged := some x, stagedDigest := artefactDigest b } }

/-- A set is staged: recorded and event source 75 (R464). -/
def State.stagedNow (s : State) (x : ProtSet) (b : List Byte) : State :=
  ((s.staging x b).record .protStaged [x.setSeq, leField (artefactDigest b) 0 8]).raise 75

theorem staged_says (s : State) (x : ProtSet) (b : List Byte) :
    Says (s.staging x b) [(.protStaged, [x.setSeq, leField (artefactDigest b) 0 8])] [75] (s.stagedNow x b) :=
  ((Says.refl (s.staging x b)).record .protStaged _).raise 75 (by decide)

theorem exec_protStage_set {s : State} {w : WorkRef} {op : Op} {a : Artefact} {x : ProtSet} (hholds : s.holds = true) (h : s.ready w 2 0x20 op)
    (hgood : s.judgeArtefact (some 4) (s.buffer op) = .good a) (hset : protSetOf a.body = some x) : exec (.protStage w) s = .next (
      if x.pairId ≠ s.pairId ∨ s.cfg.manager = true then s.finish op stProtRefused 2
      else if s.setOk x = false then s.finish op stProtRefused 3
      else (s.stagedNow x (s.buffer op)).finish op stOk 0) := by
  refine congrArg Host.Outcome.next ((cutOp_ready hholds h _).trans ?_)
  dsimp only
  rw [hgood]
  dsimp only
  rw [hset]
  exact if_congr Iff.rfl (protRefuse_holds hholds ..) (if_congr Iff.rfl (protRefuse_holds hholds ..)
    (finishCut_holds ((staged_says s x (s.buffer op)).holds.trans hholds) ..))

/-! The commit (R465, R466). -/

theorem exec_protCommit_waits {s : State} {w : WorkRef} {op : Op} (hholds : s.holds = true) (h : s.ready w 2 0x21 op)
    (hcut : ∀ j, op.jsn = some j → s.wb.covered < j) (hjsn : op.jsn.isSome = true) : exec (.protCommit w) s = .next s := by
  obtain ⟨j, hj⟩ := Option.isSome_iff_exists.1 hjsn
  refine congrArg Host.Outcome.next ((cutOp_ready hholds h _).trans ?_)
  rw [hj]
  exact if_neg (Nat.not_le.2 (hcut j hj))

theorem exec_protCommit_nothing {s : State} {w : WorkRef} {op : Op} (hholds : s.holds = true) (h : s.ready w 2 0x21 op)
    (hcut : ∀ j, op.jsn = some j → j ≤ s.wb.covered)
    (hnone : s.prot.staged = none ∨ leField s.prot.stagedDigest 0 8 ≠ dInline op.bytes 0 8) :
    exec (.protCommit w) s = .next (s.finish op stProtRefused 5) := by
  refine congrArg Host.Outcome.next ((coveredNone hholds h hcut _).trans ?_)
  cases hstaged : s.prot.staged with
  | none => exact protRefuse_holds hholds ..
  | some x => exact (if_pos (hnone.resolve_left (by simp [hstaged]))).trans (protRefuse_holds hholds ..)

theorem exec_protCommit_old {s : State} {w : WorkRef} {op : Op} {x y : ProtSet} (hholds : s.holds = true) (h : s.ready w 2 0x21 op)
    (hcut : ∀ j, op.jsn = some j → j ≤ s.wb.covered) (hstaged : s.prot.staged = some x)
    (hdigest : leField s.prot.stagedDigest 0 8 = dInline op.bytes 0 8) (hset : s.prot.set = some y) (hold : x.setSeq ≤ y.setSeq) :
    exec (.protCommit w) s = .next (s.finish op stProtRefused 4) := by
  refine congrArg Host.Outcome.next ((coveredNone hholds h hcut _).trans ?_)
  rw [hstaged]
  refine (if_neg (not_not_intro hdigest)).trans ((if_pos ?_).trans (protRefuse_holds hholds ..))
  rw [hset]
  exact decide_eq_true hold

theorem queueBlocks_holds (l : List Nat) (s : State) : (l.foldl (fun s p => s.queueBlock1 p) s).holds = s.holds :=
  foldl_view _ State.holds (fun u p => by simp only [State.holds, State.queueBlock1_frame]) l s

theorem exec_protCommit {s v : State} {w : WorkRef} {op : Op} {x : ProtSet} (hholds : s.holds = true) (h : s.ready w 2 0x21 op)
    (hcut : ∀ j, op.jsn = some j → j ≤ s.wb.covered) (hstaged : s.prot.staged = some x)
    (hdigest : leField s.prot.stagedDigest 0 8 = dInline op.bytes 0 8) (hnewer : ∀ y, s.prot.set = some y → y.setSeq < x.setSeq)
    (hcommit : s.commitSet x (op.jsn.getD 0) (s.queue op.ring).owner = v) (hv : v.holds = true) :
    exec (.protCommit w) s = .next (v.finish op stOk 0) := by
  subst hcommit
  refine congrArg Host.Outcome.next ((coveredNone hholds h hcut _).trans ?_)
  rw [hstaged]
  refine (if_neg (not_not_intro hdigest)).trans ((if_neg ?_).trans (finishCut_holds hv ..))
  cases hset : s.prot.set with
  | none => exact Bool.false_ne_true
  | some y => simp [hnewer y hset]

/-- Until an epoch covers the commit every ring compares under the set before (R465). -/
theorem setFor_waiting {u : State} {p : Nat} (hrings : u.prot.oldRings = List.range 4) (hp : p < 4) : u.setFor p = u.prot.oldSet :=
  if_pos (by rw [hrings]; simpa using hp)

/-! Discard, reset and test. -/

theorem exec_protDiscard_nothing {s : State} {w : WorkRef} {op : Op} (hholds : s.holds = true) (h : s.ready w 2 0x22 op)
    (hnone : s.prot.staged = none) : exec (.protDiscard w) s = .next (s.finish op stProtRefused 5) := by
  refine congrArg Host.Outcome.next ((cutOp_ready hholds h _).trans ?_)
  dsimp only
  rw [hnone]
  exact protRefuse_holds hholds ..

theorem exec_protDiscard {s : State} {w : WorkRef} {op : Op} (hholds : s.holds = true) (h : s.ready w 2 0x22 op)
    (hstaged : s.prot.staged ≠ none) :
    exec (.protDiscard w) s = .next (State.finish { s with prot := { s.prot with staged := none, stagedDigest := [] } } op stOk 0) := by
  obtain ⟨x, hx⟩ := Option.ne_none_iff_exists'.1 hstaged
  refine congrArg Host.Outcome.next ((cutOp_ready hholds h _).trans ?_)
  dsimp only
  rw [hx]
  exact finishCut_holds (s := { s with prot := { s.prot with staged := none, stagedDigest := [] } }) hholds ..

/-- The groups that a PROT_RESET names. -/
def resetGroups (op : Op) : List Nat := (List.range 4).filter fun g => bitOf (dInline op.bytes 0 1 % 16) g

theorem mem_resetGroups {op : Op} {g : Nat} : g ∈ resetGroups op ↔ g < 4 ∧ bitOf (dInline op.bytes 0 1) g = true := mem_groups4

theorem resetRefusal_disabled {s : State} {l : List Nat} {g : Nat} (hg : g ∈ l) (h : (s.trip g).en = false) : s.resetRefusal l = some 8 :=
  if_pos (List.any_eq_true.2 ⟨g, hg, by rw [h]; rfl⟩)

theorem resetRefusal_standing {s : State} {l : List Nat} {g : Nat} (hall : ∀ k ∈ l, (s.trip k).en = true) (hg : g ∈ l)
    (htripped : (s.trip g).tripped = true) (hcause : s.resetOk g = false) : s.resetRefusal l = some 6 := by
  refine (if_neg ?_).trans (if_pos (List.any_eq_true.2 ⟨g, hg, by rw [htripped, hcause]; rfl⟩))
  simpa using hall

theorem resetRefusal_none {s : State} {l : List Nat} (hall : ∀ k ∈ l, (s.trip k).en = true ∧ ((s.trip k).tripped = true → s.resetOk k = true)) :
    s.resetRefusal l = none := by
  refine (if_neg ?_).trans (if_neg ?_)
  · simpa using fun k hk => (hall k hk).1
  · simpa using fun k hk => (hall k hk).2

theorem exec_protReset_refused {s : State} {w : WorkRef} {op : Op} {r : Nat} (hholds : s.holds = true) (h : s.ready w 2 0x23 op)
    (hrefused : s.resetRefusal (resetGroups op) = some r) : exec (.protReset w) s = .next (s.finish op stProtRefused r) := by
  refine congrArg Host.Outcome.next ((cutOp_ready hholds h _).trans ?_)
  show (match s.resetRefusal (resetGroups op) with | some r => _ | none => _) = _
  rw [hrefused]
  exact protRefuse_holds hholds ..

/-- The reset groups: a record names them and the writer. -/
def State.groupsReset (s : State) (op : Op) : State :=
  (s.protStep (State.resetStep (resetGroups op))).record .protReset [dInline op.bytes 0 1 % 16, (s.queue op.ring).owner]

theorem resetStep_facts (s : State) {l : List Nat} (hl : l.Nodup) : Plane s [] [] (s.resetStep l) ∧ (s.resetStep l).dio = s.dio ∧
    ∀ k, (s.resetStep l).trip k = if k ∈ l ∧ k < s.prot.groups.length then resetGroup (s.trip k) else s.trip k := by
  obtain ⟨hplane, hdio, htrip⟩ := resetFold_facts l s hl
  obtain ⟨hplane', hdio', hgroups⟩ := clearTrips_facts (l.foldl (fun (s : State) g => s.setGroup g resetGroup) s) l
  exact ⟨hplane.trans hplane', hdio'.trans hdio, fun k => (trip_congr hgroups k).trans (htrip k)⟩

theorem groupsReset_facts (s : State) (op : Op) :
    Plane s [(.protReset, [dInline op.bytes 0 1 % 16, (s.queue op.ring).owner])] [] (s.groupsReset op) ∧ (s.groupsReset op).dio = s.dio ∧
    ∀ k, (s.groupsReset op).trip k =
      if k ∈ resetGroups op ∧ k < s.prot.groups.length then resetGroup (s.trip k) else s.trip k := by
  obtain ⟨hstep, hdio, htrip⟩ := resetStep_facts s (l := resetGroups op) (List.nodup_range.filter _)
  obtain ⟨hplane, hdio', hprot, -⟩ := protStep_facts hstep (s := s)
  have hframe : (s.groupsReset op).prot = (s.protStep (State.resetStep (resetGroups op))).prot ∧
      (s.groupsReset op).dio = (s.protStep (State.resetStep (resetGroups op))).dio := by
    unfold State.groupsReset
    simp only [State.record_frame, and_self]
  exact ⟨hplane.record .protReset _, hframe.2.trans (hdio'.trans hdio), fun k => (trip_congr (by rw [hframe.1, hprot]) k).trans (htrip k)⟩

theorem exec_protReset {s : State} {w : WorkRef} {op : Op} (hholds : s.holds = true) (h : s.ready w 2 0x23 op)
    (htaken : s.resetRefusal (resetGroups op) = none) : exec (.protReset w) s = .next ((s.groupsReset op).finish op stOk 0) := by
  refine congrArg Host.Outcome.next ((cutOp_ready hholds h _).trans ?_)
  show (match s.resetRefusal (resetGroups op) with | some r => _ | none => _) = _
  rw [htaken]
  show State.finishCut (State.record (s.protStep (State.resetStep (resetGroups op))) _
    [_, ((s.protStep (State.resetStep (resetGroups op))).queue op.ring).owner]) op stOk 0 = _
  have hqueue : (s.protStep (State.resetStep (resetGroups op))).queue op.ring = s.queue op.ring := by
    unfold State.queue
    rw [(protStep_facts (resetStep_facts s (l := resetGroups op) (List.nodup_range.filter _)).1 (s := s)).1.eq_rest]
  rw [hqueue]
  exact finishCut_holds ((groupsReset_facts s op).1.holds.trans hholds) ..

/-- A test trips its group (R468). -/
def State.testTrip (s : State) (g : Nat) : State := s.protStep fun s => s.tripGroups (2 ^ g) 10 0 0 0 0 true []

theorem testTrip_trips (s : State) (g : Nat) : TripsTo s (2 ^ g) 10 0 0 0 0 true [] (s.testTrip g) := protStep_trips _ _ _ _ _ _ _ _ rfl rfl

theorem testTrip_set (s : State) (g : Nat) : (s.testTrip g).prot.set = s.prot.set := by
  obtain ⟨hplane, -, -, -, hprot, -⟩ := tripGroups_facts s (2 ^ g) 10 0 0 0 0 true []
  have hset := congrArg ProtSt.set hprot
  obtain ⟨-, -, hstep, -⟩ := protStep_facts hplane (s := s) (f := fun s => s.tripGroups (2 ^ g) 10 0 0 0 0 true [])
  exact (congrArg ProtSt.set hstep).trans hset

theorem testTrip_tripped {s : State} {g : Nat} (hg : g < 4) (hen : (s.trip g).en = true) : ((s.testTrip g).trip g).tripped = true := by
  have htrips := testTrip_trips s g
  by_cases h : (s.trip g).tripped = true
  · rw [htrips.kept g fun hmem => by simp [(mem_tripping.1 hmem).2.2.2] at h, h]
  · exact (htrips.trips g (mem_tripping.2 ⟨hg, by rw [bitOf_eq_testBit, Nat.testBit_two_pow_self], hen, by simpa using h⟩)).1

/-- The confirm input of the tested group, where it has one, shows its contactor open. -/
def State.testConfirmed (s : State) (g : Nat) (named c : Bool) : State :=
  if named ∧ c then s.setGroup g fun t => { t with confirmed := true } else s

/-- A test in its tripped state: passed where both members' outputs are off and the confirm input, where there is one, is open (R468). -/
def State.testJudged (s : State) (op : Op) (g : Nat) (a b c named : Bool) : State :=
  if a ∧ b ∧ (c ∨ !named) then ((s.testConfirmed g named c).record .protTestPass [g]).finishCut op stOk 0
  else ((s.testConfirmed g named c).record .protTestFail [g, ofBool a, ofBool b, ofBool c]).finishCut op stProtTestFail 0

/-- What the readbacks of both members and the confirm input make of a test (R468). -/
def testRecord (g : Nat) (a b c p : Bool) : RecName × List Nat :=
  if p then (.protTestPass, [g]) else (.protTestFail, [g, ofBool a, ofBool b, ofBool c])

theorem exec_protTest {s : State} {w : WorkRef} {op : Op} {g : Nat} {a b c p : Bool} (hholds : s.holds = true) (h : s.ready w 2 0x24 op)
    (hop : dInline op.bytes 0 1 = g) (hg : g < 4) (hen : (s.trip g).en = true) (hload : s.groupLoaded g = false)
    (hp : p = (a && b && (c || !s.confirmNamed g))) : exec (.protTest w a b c) s = .next
      ((((s.testTrip g).testConfirmed g (s.confirmNamed g) c).record (testRecord g a b c p).1 (testRecord g a b c p).2).finish op
        (if p then stOk else stProtTestFail) 0) := by
  subst hop
  have hnamed : (s.testTrip (dInline op.bytes 0 1)).confirmNamed (dInline op.bytes 0 1) = s.confirmNamed (dInline op.bytes 0 1) := by
    unfold State.confirmNamed
    rw [testTrip_set]
  refine congrArg Host.Outcome.next ((cutOp_ready hholds h _).trans ((if_neg (by simp [hen]; omega)).trans ((if_neg (by simp [hload])).trans ?_)))
  show (s.testTrip (dInline op.bytes 0 1)).testJudged op (dInline op.bytes 0 1) a b c
    ((s.testTrip (dInline op.bytes 0 1)).confirmNamed (dInline op.bytes 0 1)) = _
  rw [hnamed]
  unfold State.testJudged
  generalize dInline op.bytes 0 1 = g at *
  have hu : ∀ n l, (((s.testTrip g).testConfirmed g (s.confirmNamed g) c).record n l).holds = true := fun n l => by
    have htest := (testTrip_trips s g).said.holds.trans hholds
    refine ((Says.refl _).record n l).holds.trans ?_
    unfold State.testConfirmed
    split <;> exact htest
  by_cases hpass : a = true ∧ b = true ∧ (c = true ∨ (!s.confirmNamed g) = true)
  · have htrue : p = true := by rw [hp]; simpa [and_assoc] using hpass
    subst htrue
    rw [if_pos hpass]
    exact finishCut_holds (hu _ _) ..
  · have hfalse : p = false := by rw [hp]; simpa [and_assoc] using hpass
    subst hfalse
    rw [if_neg hpass]
    exact finishCut_holds (hu _ _) ..

theorem testConfirmed_facts (u : State) {g : Nat} (hg : g < u.prot.groups.length) (named c : Bool) :
    Plane u [] [] (u.testConfirmed g named c) ∧ (u.testConfirmed g named c).dio = u.dio ∧
    (u.testConfirmed g named c).trip g = (if named = true ∧ c = true then { u.trip g with confirmed := true } else u.trip g) ∧
    ∀ k, k ≠ g → (u.testConfirmed g named c).trip k = u.trip k := by
  unfold State.testConfirmed
  split
  · exact ⟨(Plane.refl u).set _ _, rfl, trip_setGroup_self hg _, fun k hk => trip_setGroup_other hk _⟩
  · exact ⟨Plane.refl u, rfl, rfl, fun _ _ => rfl⟩

theorem exec_protTest_refused {s : State} {w : WorkRef} {op : Op} {g r : Nat} (hholds : s.holds = true) (h : s.ready w 2 0x24 op)
    (hop : dInline op.bytes 0 1 = g)
    (hr : (r = 8 ∧ (4 ≤ g ∨ (s.trip g).en = false)) ∨ (r = 7 ∧ g < 4 ∧ (s.trip g).en = true ∧ s.groupLoaded g = true)) (a b c : Bool) :
    exec (.protTest w a b c) s = .next (s.finish op stProtRefused r) := by
  subst hop
  refine congrArg Host.Outcome.next ((cutOp_ready hholds h _).trans ?_)
  rcases hr with ⟨rfl, hoff⟩ | ⟨rfl, hg, hen, hload⟩
  · exact (if_pos hoff).trans (protRefuse_holds hholds ..)
  · exact (if_neg (by simp [hen]; omega)).trans ((if_pos hload).trans (protRefuse_holds hholds ..))

theorem exec_protRead {s : State} {w : WorkRef} {op : Op} {b : List Byte} (h : s.ready w 2 0x25 op)
    (hb : (match s.prot.set with | some x => (protSetBytes x).take (dLength op.bytes) | none => []) = b) :
    exec (.protRead w) s = .next ((s.writeBuf op 0 b).finish op stOk b.length) := by
  subst hb
  exact congrArg Host.Outcome.next (engineOp_ready h _)

/-- Settles O53: each command of the holder by its own rule; a commit by `commitSet_facts`, a reset by what its step leaves of each group, a
test by the trip it makes. -/
theorem protectionWorkChangesTheSet : Obligations.ProtectionWorkChangesTheSet := by
  unfold Obligations.ProtectionWorkChangesTheSet
  refine ⟨?stage, fun s w op => exec_protCommit_waits, ?commit, ?discard, ?reset, ?test, ?read⟩
  case stage =>
    intro s w op hholds h
    refine ⟨fun t c hbad => ⟨_, exec_protStage_badArtefact hholds h hbad, sigFail_says s t c⟩, fun a hgood =>
      ⟨exec_protStage_noSet hholds h hgood, fun x hset => ?_⟩⟩
    have hexec := exec_protStage_set hholds h hgood hset
    refine ⟨fun hother => hexec.trans (congrArg _ (if_pos hother)), fun hpair hworker hbad => ?_, fun hpair hworker hok => ⟨s.stagedNow x (s.buffer op), ?_,
      staged_says s x _⟩⟩
    · exact hexec.trans (congrArg _ ((if_neg (by simp [hpair, hworker])).trans (if_pos hbad)))
    · exact hexec.trans (congrArg _ ((if_neg (by simp [hpair, hworker])).trans (if_neg (by simp [hok]))))
  case commit =>
    intro s w op hholds h hcut
    refine ⟨exec_protCommit_nothing hholds h hcut, fun x hstaged hdigest => ⟨fun y hset hold =>
      exec_protCommit_old hholds h hcut hstaged hdigest hset hold, fun hnewer hepochs => ?_⟩⟩
    obtain ⟨hplane, hcommit, hset, hsetDigest, hnone, hold, hrings, hjsn, hstrings, hdio, htrips⟩ :=
      commitSet_facts s x (op.jsn.getD 0) (s.queue op.ring).owner hepochs
    refine ⟨_, _, exec_protCommit hholds h hcut hstaged hdigest hnewer (hcommit hholds) ?_, hplane, hset, hsetDigest, hnone, hdio, hold, hrings,
      hjsn, hstrings, fun p hp => (setFor_waiting hrings hp).trans hold, htrips, rfl⟩
    exact (queueBlocks_holds _ _).trans (hplane.holds.trans hholds)
  case discard => exact fun s w op hholds h => ⟨exec_protDiscard_nothing hholds h, exec_protDiscard hholds h⟩
  case reset =>
    intro s w op hholds h
    refine ⟨fun ⟨g, hg, hbit, hoff⟩ => ?_, fun hall ⟨g, hg, hbit, htripped, hcause⟩ => ?_, fun hall => ?_⟩
    · exact exec_protReset_refused hholds h (resetRefusal_disabled (mem_resetGroups.2 ⟨hg, hbit⟩) hoff)
    · refine exec_protReset_refused hholds h (resetRefusal_standing (fun k hk => ?_) (mem_resetGroups.2 ⟨hg, hbit⟩) htripped hcause)
      obtain ⟨hk, hbitk⟩ := mem_resetGroups.1 hk
      exact hall k hk hbitk
    · have hnone : s.resetRefusal (resetGroups op) = none := resetRefusal_none fun k hk => by
        obtain ⟨hk, hbitk⟩ := mem_resetGroups.1 hk
        exact hall k hk hbitk
      obtain ⟨hplane, hdio, htrip⟩ := groupsReset_facts s op
      refine ⟨_, exec_protReset hholds h hnone, hplane, hdio, fun g hg hbit htripped => ?_, fun g hother => ?_⟩
      · rw [htrip, if_pos ⟨mem_resetGroups.2 ⟨hg, hbit⟩, trip_range (hall g hg hbit).1⟩]
        exact if_pos htripped
      · rw [htrip]
        split
        · next hmem =>
          obtain ⟨hg, hbit⟩ := mem_resetGroups.1 hmem.1
          rcases hother with hhigh | hclear | huntripped
          · omega
          · simp [hbit] at hclear
          · exact if_neg (by simp [huntripped])
        · rfl
  case test =>
    intro s w op g a b c hholds h hop
    refine ⟨fun hoff => exec_protTest_refused hholds h hop (Or.inl ⟨rfl, hoff⟩) a b c,
      fun hg hen hload => exec_protTest_refused hholds h hop (Or.inr ⟨rfl, hg, hen, hload⟩) a b c,
      fun hg hen hload => ⟨_, testTrip_trips s g, testTrip_tripped hg hen, fun p hp => ?_⟩⟩
    have hrange : g < (s.testTrip g).prot.groups.length := trip_range (((testTrip_trips s g).enables g).trans hen)
    obtain ⟨hplane, hdio, hself, hother⟩ := testConfirmed_facts (s.testTrip g) hrange (s.confirmNamed g) c
    have hrecord := fun n l => State.record_frame ((s.testTrip g).testConfirmed g (s.confirmNamed g) c) n l
    refine ⟨_, exec_protTest hholds h hop hg hen hload hp, hplane.record _ _, ?_, ?_, fun k hk => ?_⟩
    · simp only [State.record_frame, hdio]
    · exact (trip_congr (by simp only [State.record_frame]) g).trans hself
    · exact (trip_congr (by simp only [State.record_frame]) k).trans (hother k hk)
  case read =>
    intro s w op h
    refine ⟨fun hnone => exec_protRead h (by rw [hnone]), fun x hset => exec_protRead h (by rw [hset])⟩

end Sys2Proof.Machine
end

section
/-! SUPPORT. The field channels: supplies, digital inputs and outputs with their faults, current loops and grid sense (R484 to R508). -/

namespace Sys2Proof.Machine

/-- The same sources raised, in another order or more than once. -/
theorem Says.sameEvents {u t : State} {rs : List (RecName × List Nat)} {es es' : List Nat} (h : Says u rs es t) (hes : ∀ k, k ∈ es ↔ k ∈ es') :
    Says u rs es' t := by
  refine ⟨h.toReports, h.log, fun k => (h.events k).trans ?_⟩
  have hany : ∀ l : List Nat, (l.any fun e => decide (e = k)) = decide (k ∈ l) := fun l => by
    rw [Bool.eq_iff_iff]
    simp
  rw [hany, hany, decide_eq_decide.2 (hes k)]

/-! Field supplies (R484). -/

/-- A measurement of a supply. -/
def State.supplyMeasured (s : State) (p : Bool) (v : Nat) : State :=
  { s with dio := if p then { s.dio with voltP := v % 4096 } else { s.dio with voltS := v % 4096 } }

/-- A supply measured and noted as below its threshold, or as good. -/
def State.supplyNoted (s : State) (p good : Bool) (v : Nat) : State :=
  { s with dio := if p then { s.dio with voltP := v % 4096, fsP := good } else { s.dio with voltS := v % 4096, fsS := good } }

theorem supplyNoted_eq (s : State) (p good : Bool) (v : Nat) : ({ s.supplyMeasured p v with
    dio := if p then { (s.supplyMeasured p v).dio with fsP := good } else { (s.supplyMeasured p v).dio with fsS := good } } : State) =
      s.supplyNoted p good v := by
  cases p <;> rfl

theorem supplyMeasured_supplied (s : State) (p : Bool) (v : Nat) : (s.supplyMeasured p v).supplied p = s.supplied p := by
  cases p <;> rfl

theorem supplyNoted_dos (s : State) (p good : Bool) (v : Nat) : (s.supplyNoted p good v).dio.dos = s.dio.dos := by
  cases p <;> rfl

theorem exec_fieldSupplyLost_measured {s : State} {p : Bool} {v : Nat} (h : s.supplied p = false ∨ 1800 ≤ v % 4096 ∨ s.powered 7 = false) :
    exec (.fieldSupplyLost p v) s = .next (s.supplyMeasured p v) := by
  refine congrArg Host.Outcome.next (if_neg ?_)
  show ¬ ((s.supplyMeasured p v).supplied p = true ∧ v % 4096 < 1800 ∧ s.powered 7 = true)
  rw [supplyMeasured_supplied]
  rintro ⟨hsupplied, hlow, hpower⟩
  rcases h with h | h | h
  · simp [hsupplied] at h
  · omega
  · simp [hpower] at h

/-- A loss reported, before the channels take it. -/
def State.supplyLossTold (s : State) (p : Bool) (v : Nat) : State :=
  ((s.supplyNoted p false v).record .fieldSupplyLost [ofBool p, v % 4096]).raise 116

/-- The current outputs report that their supply is gone. -/
def State.aoSupplyFaults (s : State) : State := (List.range 4).foldl (fun s n => s.aoFault n 2) s

theorem exec_fieldSupplyLost {s : State} {p : Bool} {v : Nat} (hsupplied : s.supplied p = true) (hlow : v % 4096 < 1800)
    (hpower : s.powered 7 = true) : exec (.fieldSupplyLost p v) s = .next (
      if p then (s.supplyLossTold p v).setNoSupply p true else ((s.supplyLossTold p v).setNoSupply p true).aoSupplyFaults) := by
  refine congrArg Host.Outcome.next ((if_pos ?_).trans ?_)
  · exact ⟨(supplyMeasured_supplied s p v).trans hsupplied, hlow, hpower⟩
  · unfold State.supplyLossTold
    rw [← supplyNoted_eq]
    rfl

/-- Onsets of fault states of several current outputs. -/
theorem aoFaults_says (flag : Nat) (l : List Nat) (s : State) : Says s (l.map fun n => (.aoFault, [n, flag])) (l.map fun _ => 117)
    (l.foldl (fun s n => s.aoFault n flag) s) := by
  induction l generalizing s with
  | nil => exact Says.refl s
  | cons n l ih => exact (((Says.refl s).record .aoFault [n, flag]).raise 117 (by decide)).trans (ih _)

theorem doOn_noSupply {s : State} {n : Nat} (h : (s.doCh n).noSupply = true) : s.doOn n = false := by
  unfold State.doOn
  simp [h]

/-- What the loss of a supply leaves of its channels (R484). -/
theorem setNoSupply_lost (s : State) (p : Bool) {n : Nat} (hn : n < 16) : (s.setNoSupply p true).doCh n =
    if decide (12 ≤ n) = p then { s.doCh n with noSupply := true, readback := false, swAt := s.tb.csr } else s.doCh n := by
  have hch := (setNoSupply_facts s p true).2.1 n hn
  split at hch
  · next hfed =>
    rw [if_pos hfed, hch, doOn_noSupply (congrArg DoSt.noSupply hch)]
  · next hfed => rw [if_neg hfed, hch]

theorem supplyLost_says (s : State) (p : Bool) (v : Nat) :
    let t := (s.supplyLossTold p v).setNoSupply p true
    Says { s.supplyNoted p false v with dio := { (s.supplyNoted p false v).dio with dos := t.dio.dos }, aio := { s.aio with aos := t.aio.aos } }
      [(.fieldSupplyLost, [ofBool p, v % 4096])] [116] t := by
  dsimp only
  have htold : Says (s.supplyNoted p false v) [(.fieldSupplyLost, [ofBool p, v % 4096])] [116] (s.supplyLossTold p v) :=
    ((Says.refl _).record .fieldSupplyLost _).raise 116 (by decide)
  have hframe := (setNoSupply_facts (s.supplyLossTold p v) p true).1
  generalize (s.supplyLossTold p v).setNoSupply p true = t at hframe
  rw [htold.toReports.dio, htold.toReports.aio] at hframe
  have hset := htold.upd (fun u => { u with dio := { (s.supplyNoted p false v).dio with dos := t.dio.dos }, aio := { s.aio with aos := t.aio.aos } })
    (fun _ _ _ _ _ => rfl) rfl rfl
  exact hframe ▸ hset

theorem exec_fieldSupplyGood_measured {s : State} {p : Bool} {v : Nat} (h : v % 4096 ≤ 1900 ∨ s.powered 7 = false) :
    exec (.fieldSupplyGood p v) s = .next (s.supplyMeasured p v) := by
  refine congrArg Host.Outcome.next (if_neg ?_)
  rintro ⟨hhigh, hpower⟩
  rcases h with h | h
  · omega
  · exact absurd (show s.powered 7 = true from hpower) (by simp [h])

theorem exec_fieldSupplyGood {s : State} {p : Bool} {v : Nat} (hhigh : 1900 < v % 4096) (hpower : s.powered 7 = true) :
    exec (.fieldSupplyGood p v) s = .next ((s.supplyNoted p true v).setNoSupply p false) := by
  refine congrArg Host.Outcome.next ((if_pos ⟨hhigh, hpower⟩).trans ?_)
  rw [← supplyNoted_eq]
  rfl

/-! Digital inputs (R487). -/

theorem exec_diFilterChange_unchanged {s : State} {n : Nat} {l : Bool}
    (h : (s.dio.dis.getD n {}).filtered = l ∨ 16 ≤ n ∨ s.powered 7 = false) (e : Nat) : exec (.diFilterChange n l e) s = .next s :=
  congrArg Host.Outcome.next (if_pos h)

theorem exec_diFilterChange {s : State} {n : Nat} {l : Bool} (hnew : (s.dio.dis.getD n {}).filtered ≠ l) (hn : n < 16)
    (hpower : s.powered 7 = true) (e : Nat) : ∃ t, exec (.diFilterChange n l e) s = .next t ∧
      Says (s.setDiSt n fun d => { d with filtered := l }) (if s.bit .dioDiCfg 2 n then [(.diChange, [n, ofBool l, e])] else []) [] t := by
  refine ⟨_, congrArg Host.Outcome.next (if_neg (not_or.2 ⟨hnew, not_or.2 ⟨Nat.not_le.2 hn, by simp [hpower]⟩⟩)), ?_⟩
  have hbit : (s.setDiSt n fun d => { d with filtered := l }).bit .dioDiCfg 2 n = s.bit .dioDiCfg 2 n := rfl
  dsimp only
  rw [hbit]
  split
  · exact (Says.refl _).record .diChange _
  · exact Says.refl _

/-! Digital outputs: readback judgement and dark tests (R490, R491). -/

/-- A readback is no part of what switches an output on. -/
theorem doOn_setReadback (s : State) (n m : Nat) (h : Bool) : (s.setDoSt m fun d => { d with readback := h }).doOn n = s.doOn n := by
  unfold State.doOn
  rw [doCh_setDoSt]
  split
  · next hm =>
    rw [hm.1]
    rfl
  · rfl

theorem doOn_setOther {s : State} {n m : Nat} (h : n ≠ m) (f : DoSt → DoSt) : (s.setDoSt m f).doOn n = s.doOn n := by
  unfold State.doOn
  rw [doCh_setDoSt, if_neg fun hm => h hm.1]
  rfl

theorem withFlag_darkFail (d : DoSt) : d.withFlag 6 = { d with darkFail := true } := by simp [DoSt.withFlag]

theorem withFlag_extDrive (d : DoSt) : d.withFlag 2 = { d with extDrive := true } := by simp [DoSt.withFlag]

/-- The channels that an output's line driven from outside has tested (R491). -/
def State.darkTests (s : State) (n : Nat) : List Nat := (List.range 12).filter fun k => decide (n < 12 ∧ k ≠ n) && s.bit .dioDoCfg 1 k && s.doOn k

/-- Two states whose other outputs are on alike have the same channels to test. -/
theorem darkTests_congr {s t : State} {n : Nat} (hregs : t.regs = s.regs) (hon : ∀ k, k ≠ n → t.doOn k = s.doOn k) : t.darkTests n = s.darkTests n := by
  unfold State.darkTests
  refine List.filter_congr fun k _ => ?_
  have hbit : t.bit .dioDoCfg 1 k = s.bit .dioDoCfg 1 k := by
    unfold State.bit State.reg
    rw [hregs]
  rw [hbit]
  by_cases hk : k = n
  · simp [hk]
  · rw [hon k hk]

theorem extDrive_same {s : State} {n : Nat} (h : (s.doCh n).extDrive = true) : s.extDrive n = s := if_pos h

theorem extDrive_says {s : State} {n : Nat} (h : (s.doCh n).extDrive = false) :
    Says { s.setDoSt n (fun d => d.withFlag 2) with dio := { (s.setDoSt n fun d => d.withFlag 2).dio with darkDue := s.darkTests n } }
      [(.doFault, [n, 2])] [116] (s.extDrive n) := by
  have hflag := doFlag_says s n 2 (Or.inl rfl) h
  have heq : s.extDrive n = { s.doFlag n 2 with dio := { (s.doFlag n 2).dio with darkDue := s.darkTests n } } := if_neg (by simp [h])
  rw [heq, hflag.toReports.dio]
  exact hflag.upd (fun u => { u with dio := { (s.setDoSt n fun d => d.withFlag 2).dio with darkDue := s.darkTests n } }) (fun _ _ _ _ _ => rfl) rfl rfl

theorem exec_doFault_unjudged {s : State} {n : Nat} {h : Bool} (hno : 16 ≤ n ∨ readbackJudged s.sys.mode = false ∨ (s.doCh n).noSupply = true ∨
    h = s.doOn n ∨ s.tb.csr < (s.doCh n).swAt + usTicks 1000) (l : Bool) : exec (.doFault n h l) s = .next s :=
  congrArg Host.Outcome.next (if_pos hno)

/-- The flag that a disagreeing readback sets (table Readback judgement). -/
def State.faultFlag (s : State) (n : Nat) (h l : Bool) : Nat :=
  if h = true then (if n < 12 ∨ s.parMode n = true then 2 else 3) else if l = true then 4 else 3

/-- An output whose disagreeing readback has been read. -/
def State.readBack (s : State) (n : Nat) (h : Bool) : State := s.setDoSt n fun d => { d with readback := h }

/-- A readback that disagrees sets its flag, unless the other half of a parallel pair may still be letting go (R490, R493). -/
theorem exec_doFault {s : State} {n : Nat} {h : Bool} (hn : n < 16) (hjudged : readbackJudged s.sys.mode = true)
    (hsupply : (s.doCh n).noSupply = false) (hdiffers : h ≠ s.doOn n) (hold : (s.doCh n).swAt + usTicks 1000 ≤ s.tb.csr) (l : Bool) :
    exec (.doFault n h l) s = .next (
      if h = true ∧ 12 ≤ n ∧ s.parMode n = true ∧ s.tb.csr < (s.doCh n).offAt + 200000 then s.readBack n h
      else if s.faultFlag n h l = 2 then (s.readBack n h).extDrive n else (s.readBack n h).doFlag n (s.faultFlag n h l)) := by
  refine congrArg Host.Outcome.next ((if_neg (by simp only [hjudged, hsupply, hdiffers]; simp; omega)).trans ?_)
  have hpar : (s.readBack n h).parMode n = s.parMode n := rfl
  show (if h = true then (if n < 12 then (s.readBack n h).extDrive n else if (s.readBack n h).parMode n = false then (s.readBack n h).doFlag n 3
      else if s.tb.csr < (s.doCh n).offAt + 200000 then s.readBack n h else (s.readBack n h).extDrive n)
    else if l = true then (s.readBack n h).doFlag n 4 else (s.readBack n h).doFlag n 3) = _
  rw [hpar]
  unfold State.faultFlag
  cases h with
  | false => cases l <;> simp
  | true =>
    by_cases hlow : n < 12
    · simp [hlow, Nat.not_le.2 hlow]
    · cases s.parMode n with
      | false => simp [hlow]
      | true => simp [hlow, Nat.not_lt.1 hlow]

theorem readBack_flag (s : State) (n k : Nat) (h : Bool) : ((s.readBack n h).doCh n).flag k = (s.doCh n).flag k :=
  flag_setDoSt s n n k _ fun _ => rfl

theorem faultFlag_known (s : State) (n : Nat) (h l : Bool) :
    s.faultFlag n h l = 2 ∨ s.faultFlag n h l = 3 ∨ s.faultFlag n h l = 4 ∨ s.faultFlag n h l = 6 := by
  unfold State.faultFlag
  repeat' split
  all_goals simp

/-- The flag of a fault once its onset has been reported stands without another report. -/
theorem fault_again {s : State} {n : Nat} {h l : Bool} (hset : (s.doCh n).flag (s.faultFlag n h l) = true) :
    (if s.faultFlag n h l = 2 then (s.readBack n h).extDrive n else (s.readBack n h).doFlag n (s.faultFlag n h l)) = s.readBack n h := by
  have hflag := (readBack_flag s n (s.faultFlag n h l) h).trans hset
  split
  · next htwo =>
    rw [htwo] at hflag
    exact extDrive_same hflag
  · exact doFlag_same _ n _ (faultFlag_known s n h l) hflag

theorem fault_says {s : State} {n : Nat} {h l : Bool} (hclear : (s.doCh n).flag (s.faultFlag n h l) = false) :
    Says { s with dio := { (s.setDoSt n fun d => ({ d with readback := h } : DoSt).withFlag (s.faultFlag n h l)).dio with
        darkDue := if s.faultFlag n h l = 2 then s.darkTests n else s.dio.darkDue } } [(.doFault, [n, s.faultFlag n h l])] [116]
      (if s.faultFlag n h l = 2 then (s.readBack n h).extDrive n else (s.readBack n h).doFlag n (s.faultFlag n h l)) := by
  have hflag := (readBack_flag s n (s.faultFlag n h l) h).trans hclear
  have hset : ∀ k, (s.readBack n h).setDoSt n (fun d => d.withFlag k) = s.setDoSt n fun d => ({ d with readback := h } : DoSt).withFlag k :=
    fun k => setDoSt_setDoSt s n _ _
  split
  · next htwo =>
    rw [htwo] at hflag ⊢
    have hsays := extDrive_says hflag
    rw [hset, darkTests_congr (s := s) (t := s.readBack n h) rfl fun k _ => doOn_setReadback s k n h] at hsays
    exact hsays
  · have hsays := doFlag_says (s.readBack n h) n _ (faultFlag_known s n h l) hflag
    rw [hset] at hsays
    exact hsays

theorem exec_darkTest_notDue {s : State} {n : Nat} (h : 12 ≤ n ∨ s.bit .dioDoCfg 1 n = false ∨ s.doOn n = false ∨ s.darkDue n = false) :
    exec (.darkTest n) s = .next s := by
  refine congrArg Host.Outcome.next (if_neg ?_)
  rintro ⟨hn, hbit, hon, hdue⟩
  rcases h with h | h | h | h
  · omega
  · simp [hbit] at h
  · simp [hon] at h
  · simp [hdue] at h

/-- A dark test switches its output off (R491). -/
def State.darkTested (s : State) (n : Nat) : State :=
  State.setDoSt { s with dio := { s.dio with darkLast := s.tb.csr, darkDue := s.dio.darkDue.filter (· ≠ n) } } n
    (fun d => { d with dark := true, darkAt := s.tb.csr, swAt := s.tb.csr })

theorem exec_darkTest {s : State} {n : Nat} (hn : n < 12) (hbit : s.bit .dioDoCfg 1 n = true) (hon : s.doOn n = true) (hdue : s.darkDue n = true) :
    exec (.darkTest n) s = .next (s.darkTested n) := congrArg Host.Outcome.next (if_pos ⟨hn, hbit, hon, hdue⟩)

theorem darkTested_off {s : State} {n : Nat} (h : n < s.dio.dos.length) : (s.darkTested n).doOn n = false := by
  have hch : ((s.darkTested n).doCh n).dark = true := by
    unfold State.darkTested
    rw [doCh_setDoSt, if_pos ⟨rfl, h⟩]
  unfold State.doOn
  simp [hch]

theorem exec_darkTestEnd_early {s : State} {n : Nat} (h : (s.doCh n).dark = false ∨ s.tb.csr < (s.doCh n).darkAt + usTicks 200) (f : Bool)
    (l : List Nat) : exec (.darkTestEnd n f l) s = .next s := congrArg Host.Outcome.next (if_pos h)

/-- An output switched on again after its dark test. -/
def State.darkEnded (s : State) (n : Nat) : State := s.setDoSt n fun d => { d with dark := false, swAt := s.tb.csr }

theorem exec_darkTestEnd {s : State} {n : Nat} (hdark : (s.doCh n).dark = true) (hpast : (s.doCh n).darkAt + usTicks 200 ≤ s.tb.csr) (f : Bool)
    (l : List Nat) : exec (.darkTestEnd n f l) s = .next (l.foldl (fun s k =>
      if (s.doCh k).extDrive ∧ k ≠ n ∧ k < 12 then (s.extDrive n).record .doWiredTogether [k, n] else s)
        (if f then s.darkEnded n else (s.darkEnded n).doFlag n 6)) :=
  congrArg Host.Outcome.next (if_neg (by simp [hdark, Nat.not_lt.2 hpast]))

theorem darkEnded_flag (s : State) (n m k : Nat) : ((s.darkEnded n).doCh m).flag k = (s.doCh m).flag k :=
  flag_setDoSt s n m k _ fun _ => rfl

theorem darkFail_says {s : State} {n : Nat} (hclear : (s.doCh n).darkFail = false) :
    Says (s.setDoSt n fun d => { d with dark := false, swAt := s.tb.csr, darkFail := true }) [(.doFault, [n, 6])] [116] ((s.darkEnded n).doFlag n 6) := by
  have hsays := doFlag_says (s.darkEnded n) n 6 (by simp) ((darkEnded_flag s n n 6).trans hclear)
  unfold State.darkEnded at hsays ⊢
  simp only [setDoSt_setDoSt, withFlag_darkFail] at hsays
  exact hsays

/-- A flagged channel whose readback fell with the test finds the two wired together (R491). -/
theorem wiredTogether_says {s : State} {n k : Nat} (hclear : (s.doCh n).extDrive = false) :
    Says { s with dio := { (s.setDoSt n fun d => { d with dark := false, swAt := s.tb.csr, extDrive := true }).dio with darkDue := s.darkTests n } }
      [(.doFault, [n, 2]), (.doWiredTogether, [k, n])] [116] (((s.darkEnded n).extDrive n).record .doWiredTogether [k, n]) := by
  have hsays := extDrive_says (s := s.darkEnded n) ((darkEnded_flag s n n 2).trans hclear)
  rw [darkTests_congr (s := s) (t := s.darkEnded n) rfl fun k hk => doOn_setOther hk _] at hsays
  unfold State.darkEnded at hsays ⊢
  simp only [setDoSt_setDoSt, withFlag_extDrive] at hsays
  exact hsays.record .doWiredTogether [k, n]

/-! Digital outputs: short circuits and their retries (R492). -/

theorem exec_doShort_off {s : State} {n : Nat} (h : 16 ≤ n ∨ s.doOn n = false) : exec (.doShort n) s = .next s := by
  refine congrArg Host.Outcome.next (if_neg ?_)
  rintro ⟨hon, hn⟩
  rcases h with h | h
  · omega
  · simp [hon] at h

theorem exec_doShort {s : State} {n : Nat} (hn : n < 16) (hon : s.doOn n = true) : exec (.doShort n) s = .next
    (((s.doFlag n 4).setDoSt n fun d => { d with thermal := true, readback := false, hotAt := s.tb.csr, swAt := s.tb.csr }).record .doShort [n]) :=
  congrArg Host.Outcome.next (if_pos ⟨hon, hn⟩)

theorem doShort_says {s : State} {n : Nat} (hclear : (s.doCh n).short = false) (f : DoSt → DoSt) :
    Says (s.setDoSt n fun d => f (d.withFlag 4)) [(.doFault, [n, 4]), (.doShort, [n])] [116] (((s.doFlag n 4).setDoSt n f).record .doShort [n]) := by
  have hflag := doFlag_says s n 4 (by simp) hclear
  rw [← setDoSt_setDoSt]
  exact (hflag.upd (fun u => u.setDoSt n f) (fun _ _ _ _ _ => rfl) rfl rfl).record .doShort [n]

theorem exec_doRetry_idle {s : State} {n : Nat} (h : 16 ≤ n ∨ (s.doCh n).thermal = false ∨ (s.doCh n).latched = true ∨ (s.doCh n).cmd = false ∨
    s.fld .dioDoCfg 16 14 n = 0 ∨ s.heldTrip n = true ∨ s.tb.csr < (s.doCh n).hotAt + usTicks (1000 * s.fld .dioDoCfg 16 14 n)) (b : Bool) :
    exec (.doRetry n b) s = .next s := congrArg Host.Outcome.next (if_pos h)

/-- An output whose retry is due: shut down hot, commanded, and neither latched nor held by a trip (R492). -/
structure State.RetryDue (s : State) (n : Nat) : Prop where
  channel : n < 16
  thermal : (s.doCh n).thermal = true
  free : (s.doCh n).latched = false
  cmd : (s.doCh n).cmd = true
  interval : s.fld .dioDoCfg 16 14 n ≠ 0
  untripped : s.heldTrip n = false
  past : (s.doCh n).hotAt + usTicks (1000 * s.fld .dioDoCfg 16 14 n) ≤ s.tb.csr

theorem State.RetryDue.due {s : State} {n : Nat} (h : s.RetryDue n) : ¬ (16 ≤ n ∨ (s.doCh n).thermal = false ∨ (s.doCh n).latched = true ∨
    (s.doCh n).cmd = false ∨ s.fld .dioDoCfg 16 14 n = 0 ∨ s.heldTrip n = true ∨
    s.tb.csr < (s.doCh n).hotAt + usTicks (1000 * s.fld .dioDoCfg 16 14 n)) := by
  obtain ⟨hn, hthermal, hfree, hcmd, hinterval, htrip, hpast⟩ := h
  simp [hthermal, hfree, hcmd, hinterval, htrip, Nat.not_lt.2 hpast, Nat.not_le.2 hn]

theorem exec_doRetry_again {s : State} {n : Nat} (h : s.RetryDue n) : exec (.doRetry n true) s = .next
    ((s.setDoSt n fun d => { d with
      retries := satAt 65535 (d.retries + 1), swAt := s.tb.csr, short := true, hotAt := s.tb.csr, retryRun := d.retryRun + 1
      latched := decide (s.fld .dioDoCfg 8 8 n ≠ 0 ∧ s.fld .dioDoCfg 8 8 n ≤ d.retryRun + 1) }).record .doShort [n]) := by
  refine congrArg Host.Outcome.next ((if_neg h.due).trans ?_)
  simp only [if_true, setDoSt_setDoSt]
  rfl

/-- An output that is one of the module's. -/
theorem doCh_get {s : State} {n : Nat} (h : (s.doCh n).thermal = true) : s.dio.dos[n]? = some (s.doCh n) := by
  unfold State.doCh at h ⊢
  cases hget : s.dio.dos[n]? with
  | none =>
    rw [List.getD_eq_getElem?_getD, hget] at h
    cases h
  | some d => rw [getD_of _ _ _ _ hget]

theorem exec_doRetry {s : State} {n : Nat} (h : s.RetryDue n) : exec (.doRetry n false) s = .next (s.setDoSt n fun d =>
    { d with retries := satAt 65535 (d.retries + 1), swAt := s.tb.csr, thermal := false, retryRun := 0,
             readback := !d.dark && !d.noSupply && s.fieldOn }) := by
  refine congrArg Host.Outcome.next ((if_neg h.due).trans ?_)
  have hget := doCh_get h.thermal
  have hlt : n < s.dio.dos.length := (List.getElem?_eq_some_iff.1 hget).1
  simp only [Bool.false_eq_true, if_false, setDoSt_setDoSt]
  have hon : ∀ f : DoSt → DoSt, (s.setDoSt n f).doOn n = ((f (s.doCh n)).cmd && !(f (s.doCh n)).thermal && !(f (s.doCh n)).latched &&
      !(f (s.doCh n)).dark && !s.heldTrip n && !(f (s.doCh n)).noSupply && s.fieldOn) := fun f => by
    unfold State.doOn
    rw [doCh_setDoSt, if_pos ⟨rfl, hlt⟩]
    rfl
  unfold State.setDoSt
  dsimp only
  rw [updAt_congr]
  intro d hd
  cases hget.symm.trans hd
  have hcmd := h.cmd
  have hfree := h.free
  have htrip := h.untripped
  have := hon fun d => { d with retries := satAt 65535 (d.retries + 1), swAt := s.tb.csr, thermal := false, retryRun := 0 }
  unfold State.setDoSt at this
  simp only [this, hcmd, hfree, htrip, Bool.not_false, Bool.true_and, Bool.and_true]

/-! Current inputs (R496, R497). -/

theorem exec_aiOverload_idle {s : State} {n : Nat} (h : 8 ≤ n ∨ (s.aio.ais.getD n {}).protPath = true ∨ s.powered 7 = false) :
    exec (.aiOverload n) s = .next s := congrArg Host.Outcome.next (if_pos h)

theorem exec_aiOverload {s : State} {n : Nat} (hn : n < 8) (hsense : (s.aio.ais.getD n {}).protPath = false) (hpower : s.powered 7 = true) :
    ∃ t, exec (.aiOverload n) s = .next t ∧
      Says (s.setAiSt n fun a => { a with protPath := true, pathAt := s.tb.csr, quality := 5, overloadSeen := true }) [(.aiOverload, [n])] [] t :=
  ⟨_, congrArg Host.Outcome.next (if_neg (by simp [hpower]; exact ⟨hn, by simpa using hsense⟩)), (Says.refl _).record .aiOverload [n]⟩

theorem exec_aiOverloadRetry_early {s : State} {n : Nat} (h : (s.aio.ais.getD n {}).protPath = false ∨
    s.tb.csr < (s.aio.ais.getD n {}).pathAt + usTicks 1000000) (c : Nat) : exec (.aiOverloadRetry n c) s = .next s :=
  congrArg Host.Outcome.next (if_pos h)

theorem exec_aiOverloadRetry {s : State} {n : Nat} (hprot : (s.aio.ais.getD n {}).protPath = true)
    (hpast : (s.aio.ais.getD n {}).pathAt + usTicks 1000000 ≤ s.tb.csr) (c : Nat) : exec (.aiOverloadRetry n c) s = .next (
      if c ≤ 50000 then (s.setAiSt n fun a => { a with protPath := false }).takeAi n c else s.setAiSt n fun a => { a with pathAt := s.tb.csr }) :=
  congrArg Host.Outcome.next (if_neg (not_or.2 ⟨by rw [hprot]; decide, Nat.not_lt.2 hpast⟩))

theorem takeAi_sense {s : State} {n : Nat} (hn : n < s.aio.ais.length) (c : Nat) : (s.setAiSt n fun a => { a with protPath := false }).takeAi n c =
    s.setAiSt n fun a => { a with
      protPath := false, current := c % 65536, quality := aiQuality c,
      value := if aiQuality c ≤ 2 then engUnits (s.reg .aiLoEu n) (s.reg .aiHiEu n) c else a.value } := by
  have hsense : (((s.setAiSt n fun a => { a with protPath := false }).aio.ais).getD n {}).protPath = false := by
    show ((updAt s.aio.ais n _).getD n {}).protPath = false
    rw [updAt_getD, if_pos ⟨rfl, hn⟩]
  unfold State.takeAi
  rw [hsense]
  exact setAiSt_setAiSt s n _ _

/-! Current outputs (R499 to R503). -/

theorem aoCh_setHeadroom (s : State) (n h : Nat) : ((s.setAoSt n fun a => { a with headroom := h }).aoCh n).open_ = (s.aoCh n).open_ ∧
    ((s.setAoSt n fun a => { a with headroom := h }).aoCh n).compliance = (s.aoCh n).compliance ∧
    ((s.setAoSt n fun a => { a with headroom := h }).aoCh n).noSupply = (s.aoCh n).noSupply ∧
    ((s.setAoSt n fun a => { a with headroom := h }).aoCh n).makeup = (s.aoCh n).makeup := by
  have hch : (s.setAoSt n fun a => { a with headroom := h }).aoCh n =
      if n = n ∧ n < s.aio.aos.length then { s.aoCh n with headroom := h } else s.aoCh n := updAt_getD ..
  rw [hch]
  split <;> exact ⟨rfl, rfl, rfl, rfl⟩

theorem aoSources_setHeadroom (s : State) (n h : Nat) : (s.setAoSt n fun a => { a with headroom := h }).aoSources n = s.aoSources n := by
  obtain ⟨-, -, hsupply, hmakeup⟩ := aoCh_setHeadroom s n h
  unfold State.aoSources
  rw [hsupply, hmakeup]
  rfl

theorem exec_aoOpen_idle {s : State} {n : Nat} (h : 4 ≤ n ∨ (s.aoCh n).open_ = true ∨ s.aoSources n = false ∨
    flt (s.aoTarget n) 0x3F800000 = true) : exec (.aoOpen n) s = .next s := congrArg Host.Outcome.next (if_pos h)

/-- The free reading of an output that delivers what its loop allows. -/
def State.freeReading (s : State) : F32 := BitVec.ofNat 32 (Config.free s.freeCtr)

theorem exec_aoOpen {s : State} {n : Nat} (hn : n < 4) (hclosed : (s.aoCh n).open_ = false) (hsources : s.aoSources n = true)
    (htarget : flt (s.aoTarget n) 0x3F800000 = false) : ∃ t, exec (.aoOpen n) s = .next t ∧
      Says { s.setAoSt n (fun a => { a with open_ := true, compliance := false, readback := s.freeReading }) with freeCtr := s.freeCtr + 1 }
        [(.aoFault, [n, 0])] [117] t :=
  ⟨_, congrArg Host.Outcome.next (if_neg (not_or.2 ⟨Nat.not_le.2 hn, by rw [hclosed, hsources, htarget]; decide⟩)),
    ((Says.refl _).record .aoFault [n, 0]).raise 117 (by decide)⟩

theorem exec_aoCompliance_idle {s : State} {n h : Nat} (hno : 4 ≤ n ∨ 15 ≤ h ∨ (s.aoCh n).open_ = true ∨ (s.aoCh n).compliance = true ∨
    s.aoSources n = false) : exec (.aoCompliance n h) s = .next (s.setAoSt n fun a => { a with headroom := satAt 255 h }) := by
  obtain ⟨hopen, hcompliance, -, -⟩ := aoCh_setHeadroom s n (satAt 255 h)
  refine congrArg Host.Outcome.next (if_pos ?_)
  rwa [hopen, hcompliance, aoSources_setHeadroom]

theorem exec_aoCompliance {s : State} {n h : Nat} (hn : n < 4) (hlow : h < 15) (hclosed : (s.aoCh n).open_ = false)
    (hfirst : (s.aoCh n).compliance = false) (hsources : s.aoSources n = true) : ∃ t, exec (.aoCompliance n h) s = .next t ∧
      Says { s.setAoSt n (fun a => { a with headroom := satAt 255 h, compliance := true, readback := s.freeReading }) with freeCtr := s.freeCtr + 1 }
        [(.aoFault, [n, 1])] [117] t := by
  obtain ⟨hopen, hcompliance, -, -⟩ := aoCh_setHeadroom s n (satAt 255 h)
  refine ⟨_, congrArg Host.Outcome.next (if_neg ?_), ?_⟩
  · rw [hopen, hcompliance, aoSources_setHeadroom]
    simp [hclosed, hfirst, hsources]
    omega
  · rw [setAoSt_setAoSt]
    exact ((Says.refl _).record .aoFault [n, 1]).raise 117 (by decide)

theorem exec_aoComplianceEnd {s : State} (n h : Nat) : exec (.aoComplianceEnd n h) s = .next (
    if 20 ≤ h then s.setAoSt n fun a => { a with headroom := satAt 255 h, compliance := false } else s.setAoSt n fun a => { a with headroom := satAt 255 h }) := by
  refine congrArg Host.Outcome.next (if_congr Iff.rfl ?_ rfl)
  exact setAoSt_setAoSt s n _ _

theorem exec_makeupStart {s : State} {n : Nat} (h : n < 4 ∧ (s.aoCfg n).shared = true ∧ s.holds = false ∧ s.fieldOn = true ∧
    (s.aoCh n).loopResAt.isSome = true ∧ (s.aoCh n).makeup = false ∧ (s.aoCh n).cmdAt + usTicks 2000 ≤ s.tb.csr) :
    exec (.makeupStart n) s =
      .next { s.setAoSt n (fun a => { a with makeup := true, readback := s.freeReading }) with freeCtr := s.freeCtr + 1 } :=
  congrArg Host.Outcome.next (if_pos h)

theorem exec_makeupStart_idle {s : State} {n : Nat} (h : 4 ≤ n ∨ (s.aoCfg n).shared = false ∨ s.holds = true ∨ s.fieldOn = false ∨
    (s.aoCh n).loopResAt = none ∨ (s.aoCh n).makeup = true ∨ s.tb.csr < (s.aoCh n).cmdAt + usTicks 2000) : exec (.makeupStart n) s = .next s := by
  refine congrArg Host.Outcome.next (if_neg ?_)
  rintro ⟨hn, hshared, hfollows, hfield, hlearned, hnot, hsettled⟩
  rcases h with h | h | h | h | h | h | h
  · omega
  · simp [hshared] at h
  · simp [hfollows] at h
  · simp [hfield] at h
  · simp [h] at hlearned
  · simp [hnot] at h
  · omega

theorem exec_gsOverrange {s : State} {o : Nat} (hover : o % 8 ≠ 0) (hpower : s.powered 7 = true) : ∃ t, exec (.gsOverrange o) s = .next t ∧
    Says { s with aio := { s.aio with ovr := o % 8 } } [(.gsOverrange, [o % 8])] [117] t :=
  ⟨_, congrArg Host.Outcome.next (if_neg (by simp [hover, hpower])), ((Says.refl _).record .gsOverrange [o % 8]).raise 117 (by decide)⟩

/-- Settles O54: each event by its own rule; a supply by what `State.setNoSupply` leaves, an output's fault by the flag that judges it. -/
theorem fieldChannelsFlagTheirFaults : Obligations.FieldChannelsFlagTheirFaults := by
  unfold Obligations.FieldChannelsFlagTheirFaults
  refine ⟨fun s p v => exec_fieldSupplyLost_measured, ?lost, ?good, ?input, fun s n h l hno => exec_doFault_unjudged hno l, ?fault, ?dark,
    fun s n f l h => exec_darkTestEnd_early h f l, ?darkEnd, ?short, ?retry, ?overload, ?overloadRetry, ?open_, ?compliance, ?makeup, ?grid⟩
  case lost =>
    intro s p v hsupplied hlow hpower
    have hexec := exec_fieldSupplyLost hsupplied hlow hpower
    have hsays := supplyLost_says s p v
    have hch := fun n hn => setNoSupply_lost (s.supplyLossTold p v) p (n := n) hn
    have haos := (setNoSupply_facts (s.supplyLossTold p v) p true).2.2
    have htb : (s.supplyLossTold p v).tb = s.tb := by
      unfold State.supplyLossTold
      simp only [State.raise_frame, State.record_frame, State.supplyNoted]
    have hdos : ∀ n, (s.supplyLossTold p v).doCh n = s.doCh n := fun n => by
      unfold State.supplyLossTold State.doCh
      simp only [State.raise_frame, State.record_frame, supplyNoted_dos]
    have haio : (s.supplyLossTold p v).aio = s.aio := by
      unfold State.supplyLossTold
      simp only [State.raise_frame, State.record_frame, State.supplyNoted]
    simp only [htb, hdos] at hch
    rw [haio] at haos
    generalize (s.supplyLossTold p v).setNoSupply p true = u at hexec hsays hch haos
    cases p with
    | true => exact ⟨u, hexec, hsays, hch, haos⟩
    | false =>
      have hfaults := aoFaults_says 2 (List.range 4) u
      have hdio := hfaults.toReports.dio
      refine ⟨u.aoSupplyFaults, hexec, ?_, fun n hn => ?_, ?_⟩
      · have hboth := hsays.trans hfaults
        have haioAll := hfaults.toReports.aio
        unfold State.aoSupplyFaults
        rw [hdio, haioAll]
        exact hboth.sameEvents fun k => by simp [List.range_succ]
      · unfold State.doCh State.aoSupplyFaults
        rw [hdio]
        exact hch n hn
      · unfold State.aoSupplyFaults
        rw [hfaults.toReports.aio]
        exact haos
  case good =>
    intro s p v
    refine ⟨exec_fieldSupplyGood_measured, fun hhigh hpower => ⟨_, exec_fieldSupplyGood hhigh hpower, ?_⟩⟩
    obtain ⟨hframe, hch, haos⟩ := setNoSupply_facts (s.supplyNoted p true v) p false
    refine ⟨hframe, fun n hn => ?_, haos⟩
    have hdos : (s.supplyNoted p true v).doCh n = s.doCh n := by
      unfold State.doCh
      rw [supplyNoted_dos]
    rw [hch n hn, hdos]
    rfl
  case input => exact fun s n l e => ⟨fun h => exec_diFilterChange_unchanged h e, fun hnew hn hpower => exec_diFilterChange hnew hn hpower e⟩
  case fault =>
    intro s n h l k hn hjudged hsupply hdiffers hold hk
    have hflag : s.faultFlag n h l = k := hk.symm
    subst hflag
    have hexec := exec_doFault hn hjudged hsupply hdiffers hold l
    refine ⟨fun hhigh hpar hmode hearly => hexec.trans (congrArg _ (if_pos ⟨hhigh, hpar, hmode, hearly⟩)), fun hjudge => ?_⟩
    have hexec := hexec.trans (congrArg _ (if_neg ?_))
    · exact ⟨fun hset => hexec.trans (congrArg _ (fault_again hset)), fun hclear => ⟨_, hexec, fault_says hclear⟩⟩
    · rintro ⟨hhigh, hpar, hmode, hearly⟩
      rcases hjudge with hlow | hlow | hlow | hlow
      · simp [hhigh] at hlow
      · omega
      · simp [hmode] at hlow
      · omega
  case dark =>
    intro s n
    exact ⟨exec_darkTest_notDue, fun hn hrange hbit hon hdue => ⟨_, exec_darkTest hn hbit hon hdue, rfl, darkTested_off hrange⟩⟩
  case darkEnd =>
    intro s n f hdark hpast
    have hexec := exec_darkTestEnd hdark hpast f
    refine ⟨fun hfine => (hexec []).trans (congrArg _ ?_), fun hfell hclear => ⟨_, hexec [], ?_⟩, fun k hfell hk hkn hdriven hclear => ⟨_, hexec [k], ?_⟩⟩
    · cases f with
      | true => rfl
      | false =>
        exact doFlag_same _ n 6 (by simp) ((darkEnded_flag s n n 6).trans (hfine.resolve_left (by decide)))
    · subst hfell
      exact darkFail_says hclear
    · subst hfell
      rw [List.foldl_cons, List.foldl_nil, if_pos rfl, if_pos ⟨(darkEnded_flag s n k 2).trans hdriven, hkn, hk⟩]
      exact wiredTogether_says hclear
  case short =>
    intro s n
    refine ⟨exec_doShort_off, fun hn hon hset => ⟨_, exec_doShort hn hon, ?_⟩, fun hn hon hclear => ⟨_, exec_doShort hn hon,
      doShort_says hclear fun d => { d with thermal := true, readback := false, hotAt := s.tb.csr, swAt := s.tb.csr }⟩⟩
    rw [doFlag_same s n 4 (by simp) hset]
    exact (Says.refl _).record .doShort [n]
  case retry =>
    intro s n b
    refine ⟨fun h => exec_doRetry_idle h b, fun hn hthermal hfree hcmd hinterval htrip hpast => ?_⟩
    have hdue : s.RetryDue n := ⟨hn, hthermal, hfree, hcmd, hinterval, htrip, hpast⟩
    refine ⟨fun hb => ?_, fun hb => ?_⟩
    · subst hb
      exact exec_doRetry hdue
    · subst hb
      exact ⟨_, exec_doRetry_again hdue, (Says.refl _).record .doShort [n]⟩
  case overload => exact fun s n => ⟨exec_aiOverload_idle, exec_aiOverload⟩
  case overloadRetry =>
    intro s n c
    refine ⟨fun h => exec_aiOverloadRetry_early h c, fun hprot hpast hhigh => ?_, fun hprot hpast hlow hrange => ?_⟩
    · rw [exec_aiOverloadRetry hprot hpast, if_neg (by omega)]
    · rw [exec_aiOverloadRetry hprot hpast, if_pos hlow, takeAi_sense hrange]
      rfl
  case open_ =>
    intro s n
    refine ⟨exec_aoOpen_idle, fun hn hclosed hsources htarget => ?_, rfl⟩
    obtain ⟨t, hexec, hsays⟩ := exec_aoOpen hn hclosed hsources htarget
    exact ⟨t, _, hexec, hsays⟩
  case compliance =>
    intro s n h
    refine ⟨exec_aoCompliance_idle, fun hn hlow hclosed hfirst hsources => ?_, fun hlow => ?_, fun hhigh => ?_⟩
    · obtain ⟨t, hexec, hsays⟩ := exec_aoCompliance hn hlow hclosed hfirst hsources
      exact ⟨t, _, hexec, hsays⟩
    · rw [exec_aoComplianceEnd, if_neg (by omega)]
    · rw [exec_aoComplianceEnd, if_pos hhigh]
  case makeup =>
    intro s n
    exact ⟨fun hn hshared hfollows hfield hlearned hnot hsettled =>
        ⟨_, exec_makeupStart ⟨hn, hshared, hfollows, hfield, hlearned, hnot, hsettled⟩⟩,
      exec_makeupStart_idle, fun hholds => congrArg Host.Outcome.next (if_pos hholds),
      fun hfollows => congrArg Host.Outcome.next (if_neg (by simp [hfollows])), rfl⟩
  case grid => exact fun s o => ⟨fun h => congrArg Host.Outcome.next (if_pos h), exec_gsOverrange⟩

end Sys2Proof.Machine
end

section
/-! SUPPORT. Calibration of the current outputs and the commands of the local field I/O (R492, R495, R501, R504 to R506, R509). -/

namespace Sys2Proof.Machine

/-! Calibration by register and keys. -/

theorem exec_calEnable_barred {s t : State} {q : Requester} (h : s.writeBarred q (RegName.aioCal.addr 0 0) = some t) (v : Word) :
    exec (.calEnable q v) s = .next t := by
  refine congrArg Host.Outcome.next ?_
  rw [h]

theorem exec_calEnable {s : State} {q : Requester} (h : s.writeBarred q (RegName.aioCal.addr 0 0) = none) (v : Word) :
    exec (.calEnable q v) s = .next (s.writeCal q v) := by
  refine congrArg Host.Outcome.next ?_
  rw [h]

theorem writeCal_off {s : State} {v : Word} (h : bitOf v.toNat 0 = false) (q : Requester) : s.writeCal q v = s.calOff := if_pos h

theorem writeCal_refused {s : State} {v : Word} (hset : bitOf v.toNat 0 = true)
    (h : s.sys.mode ≠ .standby ∨ ∀ k, k < 4 → (s.aoCfg k).shared = true) (q : Requester) :
    s.writeCal q v = s.refuseWrite q (RegName.aioCal.addr 0 0) := by
  unfold State.writeCal
  rw [if_neg (by simp [hset])]
  by_cases hmode : s.sys.mode = .standby
  · rw [if_neg (not_not_intro hmode), pointFrom_none (h.resolve_left (not_not_intro hmode))]
  · rw [if_pos hmode]

/-- EN starts at the first point from POINT whose channel is not shared (R505). -/
theorem writeCal_on {s : State} {v : Word} {k : Nat} (hset : bitOf v.toNat 0 = true) (hmode : s.sys.mode = .standby) (hk : k < 8)
    (hbefore : ∀ j, j < k → (s.aoCfg ((s.aio.point + j) % 8 / 2)).shared = true) (hfree : (s.aoCfg ((s.aio.point + k) % 8 / 2)).shared = false)
    (q : Requester) : s.writeCal q v = { s with aio := { s.aio with calEn := true, point := (s.aio.point + k) % 8 } } := by
  unfold State.writeCal
  rw [if_neg (by simp [hset]), if_neg (not_not_intro hmode), pointFrom_some hk hbefore hfree]

theorem exec_selKeyPress_shared {s : State} (hen : s.aio.calEn = true) (h : ∀ k, k < 4 → (s.aoCfg k).shared = true) :
    exec .selKeyPress s = .next s := by
  refine congrArg Host.Outcome.next ((if_pos hen).trans ?_)
  rw [pointFrom_none h]

theorem exec_selKeyPress {s : State} {k : Nat} (hen : s.aio.calEn = true) (hk : k < 8)
    (hbefore : ∀ j, j < k → (s.aoCfg ((s.aio.point + 1 + j) % 8 / 2)).shared = true)
    (hfree : (s.aoCfg ((s.aio.point + 1 + k) % 8 / 2)).shared = false) :
    exec .selKeyPress s = .next { s with aio := { s.aio with point := (s.aio.point + 1 + k) % 8 } } := by
  refine congrArg Host.Outcome.next ((if_pos hen).trans ?_)
  rw [pointFrom_some hk hbefore hfree]

/-- A CAL key with calibration on steps the trim, up for a press and down for a hold (R506). -/
theorem exec_calKey {s : State} {d : Int} {c : Instr} (hen : s.aio.calEn = true) (hc : (c = .calKeyPress ∧ d = 10) ∨ (c = .calKeyHold ∧ d = -10)) :
    exec c s = .next (s.stepTrim d) := by
  rcases hc with ⟨rfl, rfl⟩ | ⟨rfl, rfl⟩
  · exact congrArg Host.Outcome.next (if_pos hen)
  · exact congrArg Host.Outcome.next (if_pos hen)

/-- A trim stepped within 200 µA, of the zero at an even point and of the span at an odd one (R506). -/
def AoSt.stepped (a : AoSt) (point : Nat) (d : Int) : AoSt :=
  if point % 2 = 0 then { a with wZero := max (-2000) (min 2000 (a.wZero + d)) } else { a with wSpan := max (-2000) (min 2000 (a.wSpan + d)) }

theorem stepTrim_eq (s : State) (d : Int) : s.stepTrim d =
    { s with aio := { s.aio with aos := updAt s.aio.aos (s.aio.point / 2) (AoSt.stepped · s.aio.point d), dirty := true } } := by
  unfold State.stepTrim AoSt.stepped clampTrim State.setAoSt State.calChannel
  simp only [beq_iff_eq]

/-! The commands. -/

/-- A HART_CMD that names a channel, an address or a length out of range (R509). -/
theorem exec_hartCmd_value {s : State} {w : WorkRef} {op : Op} {k ch p : Nat} (h : s.ready w 9 0x10 op) (hk : dInline op.bytes 0 1 = k)
    (hch : dInline op.bytes 1 1 = ch) (hp : dInline op.bytes 2 1 = p)
    (hbad : 1 < k ∨ (k = 1 ∧ 4 ≤ ch) ∨ (k = 0 ∧ 8 ≤ ch) ∨ 63 < p ∨ 255 < dLength op.bytes) (r : Option (List Byte)) :
    exec (.hartCmd w r) s = .next (s.finish op 0x0800 4) := by
  subst hk hch hp
  refine congrArg Host.Outcome.next ((engineOp_ready h _).trans (if_pos ?_))
  rcases hbad with hbad | ⟨hao, hch⟩ | ⟨hai, hch⟩ | hbad | hbad
  · exact .inl hbad
  · exact .inr (.inl (by simpa [hao] using hch))
  · exact .inr (.inl (by simpa [hai] using hch))
  · exact .inr (.inr (.inl hbad))
  · exact .inr (.inr (.inr hbad))

/-- A HART_CMD whose values are in range: one to an AI channel needs HART there, and both need the lease (R495, R501). -/
theorem exec_hartCmd {s : State} {w : WorkRef} {op : Op} {k ch p : Nat} (h : s.ready w 9 0x10 op) (hk : dInline op.bytes 0 1 = k)
    (hch : dInline op.bytes 1 1 = ch) (hp : dInline op.bytes 2 1 = p) (hkind : k ≤ 1) (hao : k = 1 → ch < 4) (hai : k = 0 → ch < 8)
    (hpoll : p ≤ 63) (hlength : dLength op.bytes ≤ 255) (r : Option (List Byte)) : exec (.hartCmd w r) s = .next (
      if k = 0 ∧ bitOf s.cfg.aiHart ch = false then s.finish op 0x0800 3
      else if s.authoritative = false then s.finish op 0x0801 0
      else (s.emit (.hart (k == 1) ch p (dInline op.bytes 3 1) (s.buffer op))).finish op (if r.isSome then stOk else 0x0801)
        ((r.getD []).length) (r.getD [])) := by
  subst hk hch hp
  have hkinds : dInline op.bytes 0 1 = 0 ∨ dInline op.bytes 0 1 = 1 := by omega
  refine congrArg Host.Outcome.next ((engineOp_ready h _).trans ((if_neg ?_).trans ?_))
  · rintro (hbad | hbad | hbad | hbad)
    · omega
    · rcases hkinds with hzero | hone
      · exact absurd (hai hzero) (by simpa [hzero] using hbad)
      · exact absurd (hao hone) (by simpa [hone] using hbad)
    · omega
    · omega
  · have hao : ((dInline op.bytes 0 1 == 1) = false) = (dInline op.bytes 0 1 = 0) := by
      rcases hkinds with hkind | hkind <;> simp [hkind]
    cases r <;> simp [hao, State.ioRefuse, State.emit]

theorem exec_aoTrim_mode {s : State} {w : WorkRef} {op : Op} (h : s.ready w 9 0x11 op) (hmode : s.sys.mode ≠ .standby) :
    exec (.aoTrim w) s = .next (s.finish op 0x0800 1) :=
  congrArg Host.Outcome.next ((engineOp_ready h _).trans (if_pos hmode))

theorem exec_aoTrim_value {s : State} {w : WorkRef} {op : Op} {ch : Nat} {z p : Int} (h : s.ready w 9 0x11 op) (hch : dInline op.bytes 0 1 = ch)
    (hz : signedOf 16 (dInline op.bytes 4 2) = z) (hp : signedOf 16 (dInline op.bytes 6 2) = p) (hmode : s.sys.mode = .standby)
    (hbad : 4 ≤ ch ∨ 2000 < z.natAbs ∨ 2000 < p.natAbs) : exec (.aoTrim w) s = .next (s.finish op 0x0800 4) := by
  subst hch hz hp
  exact congrArg Host.Outcome.next ((engineOp_ready h _).trans ((if_neg (not_not_intro hmode)).trans (if_pos hbad)))

/-- An AO_TRIM whose values are in range takes effect but on a shared channel (R504 to R506). -/
theorem exec_aoTrim {s : State} {w : WorkRef} {op : Op} {ch : Nat} {z p : Int} (h : s.ready w 9 0x11 op) (hch : dInline op.bytes 0 1 = ch)
    (hz : signedOf 16 (dInline op.bytes 4 2) = z) (hp : signedOf 16 (dInline op.bytes 6 2) = p) (hmode : s.sys.mode = .standby)
    (hrange : ch < 4) (hzero : z.natAbs ≤ 2000) (hspan : p.natAbs ≤ 2000) : exec (.aoTrim w) s = .next (
      if (s.aoCfg ch).shared = true then s.finish op 0x0800 2
      else ((s.setAoSt ch fun a => { a with zero := z, span := p, wZero := z, wSpan := p }).record .aoTrim
        [ch, unsignedOf 16 (s.aoCh ch).zero, unsignedOf 16 (s.aoCh ch).span, unsignedOf 16 z, unsignedOf 16 p]).finish op stOk 0) := by
  subst hch hz hp
  refine congrArg Host.Outcome.next ((engineOp_ready h _).trans ((if_neg (not_not_intro hmode)).trans (if_neg ?_)))
  rintro (hbad | hbad | hbad) <;> omega

/-- An output no longer latched or hot (R492). -/
def DoSt.reset (d : DoSt) : DoSt := { d with latched := false, thermal := false, retryRun := 0 }

/-- The outputs named in a mask reset. -/
def State.dosReset (s : State) (mask : Nat) : State :=
  { s with dio := { s.dio with dos := (List.range 16).map fun n => if bitOf mask n then (s.doCh n).reset else s.doCh n } }

theorem dosReset_doCh (s : State) (mask : Nat) {n : Nat} (hn : n < 16) :
    (s.dosReset mask).doCh n = if bitOf mask n = true then (s.doCh n).reset else s.doCh n :=
  getD_of _ _ _ _ (by simp only [State.dosReset, List.getElem?_map, List.getElem?_range hn, Option.map_some])

theorem exec_doReset {s : State} {w : WorkRef} {op : Op} (h : s.ready w 9 0x12 op) :
    exec (.doReset w) s = .next ((s.dosReset (dInline op.bytes 0 2)).finish op stOk 0) :=
  congrArg Host.Outcome.next ((engineOp_ready h _).trans rfl)

/-- Settles O55: the register, the keys and each command by its own equation. -/
theorem calibrationAndIoCommands : Obligations.CalibrationAndIoCommands := by
  unfold Obligations.CalibrationAndIoCommands
  refine ⟨?enable, ?ignored, ?keys, ?hart, ?trim, fun s w op h => ⟨_, exec_doReset h, rfl, fun n hn => dosReset_doCh s _ hn⟩⟩
  case enable =>
    intro s q v
    refine ⟨fun t hbarred => exec_calEnable_barred hbarred v, fun hopen => ?_⟩
    rw [exec_calEnable hopen]
    refine ⟨fun hoff => congrArg _ (writeCal_off hoff q), fun hset hno => ⟨_, rfl, ?_⟩, fun k hset hmode hk hbefore hfree =>
      congrArg _ (writeCal_on hset hmode hk hbefore hfree q)⟩
    rw [writeCal_refused hset hno]
    exact refuse_says s q _
  case ignored =>
    intro s hoff
    have hno : ¬ s.aio.calEn = true := by simp [hoff]
    have hsays : ∀ key, Says s [(.keyIgnored, [key])] [] (s.keyIgnored key) := fun key => (Says.refl s).record .keyIgnored [key]
    exact ⟨_, _, _, _, congrArg Host.Outcome.next (if_neg hno), hsays 0, congrArg Host.Outcome.next (if_neg hno), hsays 0,
      congrArg Host.Outcome.next (if_neg hno), hsays 1, congrArg Host.Outcome.next (if_neg hno), hsays 1⟩
  case keys =>
    intro s hen
    refine ⟨exec_selKeyPress_shared hen, fun k => exec_selKeyPress hen, ⟨_, congrArg Host.Outcome.next (if_pos hen), (Says.refl _).record .aoTrim _⟩,
      fun d c hc => ⟨_, exec_calKey hen hc, ?_, fun k hk => ?_, fun hrange => ?_⟩⟩
    · rw [stepTrim_eq]
    · rw [stepTrim_eq]
      exact (updAt_getD ..).trans (if_neg fun hpoint => hk hpoint.1)
    · rw [stepTrim_eq]
      exact (updAt_getD ..).trans (if_pos ⟨rfl, hrange⟩)
  case hart =>
    intro s w op r k ch p h hk hch hp
    refine ⟨fun hbad => exec_hartCmd_value h hk hch hp hbad r, fun hkind hao hai hpoll hlength => ?_⟩
    rw [exec_hartCmd h hk hch hp hkind hao hai hpoll hlength]
    refine ⟨fun hzero hno => congrArg _ (if_pos ⟨hzero, hno⟩), fun _ hyes hlease => ?_, fun hone hlease => ?_, fun hmodem hlease => ?_⟩
    · exact congrArg _ ((if_neg (by simp [hyes])).trans (if_pos hlease))
    · exact congrArg _ ((if_neg (by simp [hone])).trans (if_pos hlease))
    · refine congrArg _ ((if_neg ?_).trans (if_neg (by simp [hlease])))
      rintro ⟨hzero, hno⟩
      rcases hmodem with hone | hyes
      · omega
      · simp [hno] at hyes
  case trim =>
    intro s w op ch z p h hch hz hp
    refine ⟨exec_aoTrim_mode h, exec_aoTrim_value h hch hz hp, fun hmode hrange hzero hspan => ?_⟩
    rw [exec_aoTrim h hch hz hp hmode hrange hzero hspan]
    exact ⟨fun hshared => congrArg _ (if_pos hshared), fun hfree => ⟨_, congrArg _ (if_neg (by simp [hfree])), (Says.refl _).record .aoTrim _⟩⟩

end Sys2Proof.Machine
end

section
/-! SUPPORT. The CAN ports: reception, transmission, bus-off and recovery, low power, and the commands (R510 to R524). -/

namespace Sys2Proof.Machine

/-- A port changed twice. -/
theorem setCanPort_setCanPort (s : State) (p : Nat) (f g : CanPort → CanPort) : (s.setCanPort p f).setCanPort p g = s.setCanPort p fun c => g (f c) := by
  unfold State.setCanPort
  rw [updAt_updAt]

/-! Reception (R510 to R513, R519). -/

theorem exec_canRx_dead {s : State} {p : Nat} (h : s.canLive p = false) (f : CanFrame) : exec (.canRx p f) s = .next s :=
  congrArg Host.Outcome.next (if_pos (by simp [h]))

theorem exec_canRx_remote {s : State} {p : Nat} {f : CanFrame} (hlive : s.canLive p = true) (hremote : f.remote = true) :
    exec (.canRx p f) s = .next (s.setCanPort p fun c => { c with remotes := (c.remotes + 1) % 65536 }) :=
  congrArg Host.Outcome.next ((if_neg (by simp [hlive])).trans (if_pos hremote))

/-- The signals of a received frame wait as inputs of the item that the frame is (R352, R519). -/
def State.canArrived (s : State) (p qn : Nat) (body : List Byte) (f : CanFrame) : State :=
  (frameSignals p f.id f.ide f.data s.cfg.signals).foldl (fun u x => u.arrive (canEntry (p, qn, s.can.counter, body)) body 5 x.1 x.2
    (u.canAngle s.can.counter)) s

theorem canArrived_facts (s : State) (p qn : Nat) (body : List Byte) (f : CanFrame) :
    s.canArrived p qn body f = { s with loop := { s.loop with arrived := (s.canArrived p qn body f).loop.arrived } } ∧
    (s.loop.arrived.length + (frameSignals p f.id f.ide f.data s.cfg.signals).length ≤ 4096 →
      (s.canArrived p qn body f).loop.arrived = s.loop.arrived ++ (frameSignals p f.id f.ide f.data s.cfg.signals).map fun x =>
        ⟨canEntry (p, qn, s.can.counter, body), body, 5, x.1, ⟨x.2, s.canAngle s.can.counter, true⟩⟩) :=
  arriveCan_facts (canEntry (p, qn, s.can.counter, body)) body s.can.counter (frameSignals p f.id f.ide f.data s.cfg.signals) s

/-- A frame that finds no room in its word queue (R513). -/
def State.canOverrun (u : State) (p : Nat) : State :=
  u.setCanPort p fun c => { c with rxOverrun := true, overrunOnset := true, overruns := (c.overruns + 1) % 65536 }

/-- A packet of a received frame enters its word queue; the frame waits for a manifest (R511). -/
def State.canQueued (u : State) (p qn stamp qi fmt : Nat) (body : List Byte) : State :=
  State.setCanPort { u.pushPacket qi fmt false body with
    can := { (u.pushPacket qi fmt false body).can with unused := (u.pushPacket qi fmt false body).can.unused ++ [(p, qn, stamp, body)] } } p
    fun c => { c with overrunOnset := false }

/-- The queue of word `qi` takes a packet with a body of `n` bytes. -/
def State.queueTakes (u : State) (qi n : Nat) : Prop :=
  (u.queue qi).kind = true ∧ (u.queue qi).enable = true ∧ (u.queue qi).roomFor (1 + n / 4) = true

theorem exec_canRx_unmatched {s : State} {p : Nat} {f : CanFrame} (hlive : s.canLive p = true) (hdata : f.remote = false)
    (hhit : matchFilter (s.canPort p).filters f = none) :
    exec (.canRx p f) s = .next (s.canArrived p 0 (canBody p s.can.counter 0 f) f) := by
  refine congrArg Host.Outcome.next ((if_neg (by simp [hlive])).trans ((if_neg (by simp [hdata])).trans ?_))
  dsimp only
  rw [hhit]
  rfl

/-- A matched frame enters the queue its filter names, where there is room (R511, R513). -/
theorem exec_canRx_matched {s : State} {p i : Nat} {f : CanFrame} {x : CanFilter} {b : List Byte} {u : State} (hlive : s.canLive p = true)
    (hdata : f.remote = false) (hhit : matchFilter (s.canPort p).filters f = some (i, x)) (hb : b = canBody p s.can.counter i f)
    (hu : u = s.canArrived p x.queue b f) :
    (u.queueTakes x.queue b.length → exec (.canRx p f) s = .next (u.canQueued p x.queue s.can.counter x.queue f.fmt b)) ∧
    (¬ u.queueTakes x.queue b.length → exec (.canRx p f) s = .next (
      if !(u.canPort p).overrunOnset then (u.canOverrun p).record .canRxOverrun [p, x.queue] else u.canOverrun p)) := by
  subst hb hu
  refine ⟨fun hroom => ?_, fun hfull => ?_⟩
  · refine congrArg Host.Outcome.next ((if_neg (by simp [hlive])).trans ((if_neg (by simp [hdata])).trans ?_))
    dsimp only
    rw [hhit]
    exact if_pos hroom
  · refine congrArg Host.Outcome.next ((if_neg (by simp [hlive])).trans ((if_neg (by simp [hdata])).trans ?_))
    dsimp only
    rw [hhit]
    exact if_neg hfull

/-- Each received signal that lies within a frame's data has its value from it (R519). -/
theorem mem_frameSignals {gs : List Signal} {i p id : Nat} {ide : Bool} {data : List Byte} {g : Signal} (hg : gs[i]? = some g)
    (hrx : g.transmit = false) (hport : g.port = p) (hid : g.id = id) (hide : g.ide = ide) (hwithin : g.start + g.bits ≤ 8 * data.length) :
    (i, sigValue g data) ∈ frameSignals p id ide data gs := by
  unfold frameSignals
  refine List.mem_filterMap.2 ⟨(i, g), List.mem_of_getElem? (i := i) ?_, ?_⟩
  · rw [numbered_get, hg]
    simp
  · simp [hrx, hport, hid, hide, hwithin]

/-! Transmission (R511, R522, R524). -/

theorem exec_canTxComplete_idle {s : State} {p : Nat} (h : s.canTx p = false ∨ (s.canPort p).bufs = []) (x e : Bool) :
    exec (.canTxComplete p x e) s = .next s := by
  refine congrArg Host.Outcome.next ?_
  cases htx : s.canTx p with
  | false => exact if_pos rfl
  | true =>
    refine (if_neg (by decide)).trans ?_
    rw [h.resolve_left (by simp [htx])]
    rfl

/-- A buffer leaves its port. -/
def TxBuf.leave (b : TxBuf) (c : CanPort) : CanPort := { c with bufs := c.bufs.filter fun d => decide (d.seq ≠ b.seq) }

theorem exec_canTxComplete {s : State} {p : Nat} {b : TxBuf} (htx : s.canTx p = true) (hhead : headBuf (s.canPort p).bufs = some b) (x e : Bool) :
    exec (.canTxComplete p x e) s = .next (
      if x then (((s.countTx p x e).setCanPort p b.leave).emit (.can p b.f)).finishBuf b stOk s.can.counter
      else if b.oneShot then ((s.countTx p x e).setCanPort p b.leave).finishBuf b 0x0901 0
      else s.countTx p x e) := by
  refine congrArg Host.Outcome.next ((if_neg (by simp [htx])).trans ?_)
  rw [hhead]
  rfl

/-- An error counts 8, an attempt lost to arbitration nothing. -/
theorem countTx_failed (s : State) (p : Nat) (e : Bool) : s.countTx p false e = s.setCanPort p fun c =>
    { c with tec := c.tec + (if e then 8 else 0), errPassive := decide (128 ≤ c.tec + (if e then 8 else 0) ∨ 128 ≤ c.recErr) } := by
  cases e <;> rfl

theorem countTx_sent (s : State) (p : Nat) (e : Bool) : s.countTx p true e = s.setCanPort p fun c =>
    { c with tec := c.tec - 1, errPassive := decide (128 ≤ c.tec - 1 ∨ 128 ≤ c.recErr) } := rfl

/-! Bus-off, recovery and low power (R515, R520 to R523). -/

theorem exec_canBusOff_dead {s : State} {p : Nat} (h : s.canLive p = false) : exec (.canBusOff p) s = .next s :=
  congrArg Host.Outcome.next (if_neg (by simp [h]))

theorem exec_canBusOff {s : State} {p : Nat} (h : s.canLive p = true) : exec (.canBusOff p) s = .next
    (((s.setCanPort p fun c => { c with busOff := true, recovering := false, busOffSeen := true, tec := 255 }).record .canBusOff [p]).raise (92 + p)) :=
  congrArg Host.Outcome.next (if_pos h)

theorem exec_canRecoveryDone_idle {s : State} {p : Nat} (h : (s.canPort p).busOff = false ∨ (s.canPort p).recovering = false ∨ s.holds = false) :
    exec (.canRecoveryDone p) s = .next s := by
  refine congrArg Host.Outcome.next (if_neg ?_)
  rintro ⟨hoff, hrecovering, hholds⟩
  rcases h with h | h | h
  · simp [hoff] at h
  · simp [hrecovering] at h
  · simp [hholds] at h

theorem exec_canRecoveryDone {s : State} {p : Nat} (hoff : (s.canPort p).busOff = true) (hrecovering : (s.canPort p).recovering = true)
    (hholds : s.holds = true) : exec (.canRecoveryDone p) s =
      .next (s.setCanPort p fun c => { c with busOff := false, recovering := false, tec := 0, recErr := 0, errPassive := false }) :=
  congrArg Host.Outcome.next (if_pos ⟨hoff, hrecovering, hholds⟩)

theorem exec_canWake_idle {s : State} {p : Nat} (h : (s.canPort p).sleep = false ∨ s.powered 6 = false) : exec (.canWake p) s = .next s :=
  congrArg Host.Outcome.next (if_pos h)

/-- A port that a wake has taken out of low power (R521). -/
def State.canWoken (s : State) (p : Nat) : State :=
  ((((s.setCanPort p fun c => { c with sleep := false, wakeSeen := true }).setFld .canCtrl p 3 1 0).record .canWake [p]).raise (92 + p))

theorem exec_canWake {s : State} {p : Nat} (hsleep : (s.canPort p).sleep = true) (hpower : s.powered 6 = true) : exec (.canWake p) s =
    .next (if (s.canWoken p).bit .canCtrl 6 p then (s.canWoken p).wakeCocoon 0 else s.canWoken p) :=
  congrArg Host.Outcome.next (if_neg (by simp [hsleep, hpower]))

/-- A write of CAN_p_CTRL takes RECOVER and SLEEP of the word (R520, R523). -/
theorem exec_canCtrl {s : State} {q : Requester} {p : Nat} {v x : Word} {c : Instr}
    (hc : (c = .canRecoverWrite q p v ∧ x = v ||| 0x10) ∨ (c = .canSleep q p v ∧ x = v ||| 0x8)) : exec c s = .next
      (match s.writeBarred q (RegName.canCtrl.addr p 0) with | some t => t | none => s.writeCanCtrl q p x) := by
  rcases hc with ⟨rfl, rfl⟩ | ⟨rfl, rfl⟩
  · rfl
  · rfl

/-- CAN_p_CTRL has an RW field, so a write of it is admitted whatever the block's lock holds. -/
theorem writeHeld_canCtrl (s : State) (q : Requester) (p : Nat) (v : Word) : (s.writeHeld q .canCtrl p 0 v).2 = true := by
  unfold State.writeHeld
  dsimp only
  rw [if_neg fun h => absurd h.1 (by decide), if_neg fun h => absurd h.1 (by decide), if_neg fun h => absurd h.1 (by decide),
    if_neg fun h => absurd h.2.1 (by decide), if_neg fun h => absurd h.1 (by decide)]
  rfl

theorem bitOf_setBit (w : Word) (b : Bool) : bitOf (setField w 3 1 (ofBool b)).toNat 3 = b := by
  unfold bitOf
  rw [setField_get _ _ _ _ (by decide)]
  cases b <;> rfl

/-- What a write of CAN_p_CTRL does beyond the held bits: SLEEP and RECOVER act, and a SLEEP refused is WRITE_REFUSED (R520, R523). -/
theorem writeCanCtrl_eq {s t : State} {q : Requester} {p : Nat} {x : Word} {b r : Bool}
    (hb : b = (if bitOf x.toNat 3 && s.canProt p then (s.canPort p).sleep else bitOf x.toNat 3))
    (ht : s.writeHeld q .canCtrl p 0 (setField x 3 1 (ofBool b)) = (t, r)) : r = true ∧ ∃ u,
      u = t.setCanPort p (fun y => { y with sleep := b, recovering := y.recovering || (bitOf x.toNat 4 && y.busOff) }) ∧
      s.writeCanCtrl q p x = if bitOf x.toNat 3 && s.canProt p then u.refuseWrite q (RegName.canCtrl.addr p 0) else u := by
  have hr : r = true := by
    have hadmitted := writeHeld_canCtrl s q p (setField x 3 1 (ofBool b))
    rwa [ht] at hadmitted
  subst hr
  refine ⟨rfl, _, rfl, ?_⟩
  unfold State.writeCanCtrl
  dsimp only
  rw [← hb, ht]
  dsimp only
  rw [if_neg (by decide), bitOf_setBit]
  cases bitOf x.toNat 4 with
  | false => simp
  | true =>
    unfold State.startRecovery
    rw [setCanPort_setCanPort]
    simp

/-! The commands (R523, R524). -/

theorem exec_canRecover_off {s : State} {w : WorkRef} {op : Op} {p : Nat} (h : s.ready w 3 0x11 op) (hp : dInline op.bytes 0 1 = p)
    (hoff : 4 ≤ p ∨ s.bit .canCtrl 0 p = false) : exec (.canRecover w) s = .next (s.finish op 0x0900 1) := by
  subst hp
  exact congrArg Host.Outcome.next ((engineOp_ready h _).trans (if_pos hoff))

theorem exec_canRecover {s : State} {w : WorkRef} {op : Op} {p : Nat} (h : s.ready w 3 0x11 op) (hp : dInline op.bytes 0 1 = p) (hport : p < 4)
    (hon : s.bit .canCtrl 0 p = true) : exec (.canRecover w) s =
      .next ((s.setCanPort p fun c => { c with recovering := c.recovering || c.busOff }).finish op stOk 0) := by
  subst hp
  exact congrArg Host.Outcome.next ((engineOp_ready h _).trans (if_neg (by simp [hon, hport])))

/-- A frame posted by a descriptor replaces none (R516). -/
theorem postCan_work (s : State) (p : Nat) (f : CanFrame) (o : Bool) (w : WorkRef) : s.postCan p f o (some w) = { s with can := { s.can with
    posted := s.can.posted + 1
    ports := updAt s.can.ports p fun c => { c with bufs := c.bufs ++ [(⟨f, o, some w, s.can.posted⟩ : TxBuf)] } } } := by
  unfold State.postCan State.setCanPort
  simp

/-- A CAN_SEND, by the first of its checks that fails, else its frame takes one of the port's 32 buffers (R524). -/
theorem exec_canSend {s : State} {w : WorkRef} {op : Op} {p id ty : Nat} {ide : Bool} (h : s.ready w 3 0x10 op) (hp : dInline op.bytes 4 1 = p)
    (hid : dInline op.bytes 0 4 % 2 ^ 29 = id) (hide : bitOf (dInline op.bytes 0 4) 29 = ide) (hty : dInline op.bytes 5 1 = ty) :
    exec (.canSend w) s = .next (
      if op.started then s
      else if 4 ≤ p ∨ s.bit .canCtrl 0 p = false ∨ s.powered 6 = false then s.finish op 0x0900 1
      else if s.canFormOk p ty (dLength op.bytes) id ide = false then s.finish op 0x0900 2
      else if (s.canPort p).busOff then s.finish op 0x0900 3
      else if 32 ≤ (s.canPort p).bufs.length then s
      else (s.setOp w fun o => { o with started := true }).postCan p
        { id := id, ide := ide, fmt := ty, brs := bitOf (dInline op.bytes 0 4) 30, data := s.buffer op } (bitOf (dInline op.bytes 6 1) 0) (some w)) := by
  subst hp hid hide hty
  exact congrArg Host.Outcome.next (engineOp_ready h _)

/-- The filter that a record gives (notes/assumptions/16.md). -/
def canFilterOf (r : List Byte) : CanFilter := ⟨leField r 0 4 % 2 ^ 29, leField r 4 4 % 2 ^ 29, bitOf (leField r 0 4) 29, leField r 8 2 % 256⟩

/-- A CAN_FILTER, by the first of its checks that fails, else the filter stands in its place (R524). -/
theorem exec_canFilter {s : State} {w : WorkRef} {op : Op} {p i : Nat} {r : List Byte} (h : s.ready w 3 0x12 op) (hp : dInline op.bytes 0 1 = p)
    (hi : dInline op.bytes 1 1 = i) (hr : s.buffer op = r) : exec (.canFilter w) s = .next (
      if 4 ≤ p then s.finish op 0x0900 1
      else if 64 ≤ i ∨ dLength op.bytes ≠ 16 then s.finish op 0x0900 2
      else (s.setCanPort p fun c => { c with filters := assocSet c.filters i (canFilterOf r) }).finish op stOk 0) := by
  subst hp hi hr
  exact congrArg Host.Outcome.next (engineOp_ready h _)

/-- Settles O56: reception by `canArrived_facts` and the queue's room, the rest by each command's own equation. -/
theorem canPortsReceiveSendAndRecover : Obligations.CanPortsReceiveSendAndRecover := by
  unfold Obligations.CanPortsReceiveSendAndRecover
  refine ⟨?receive, headBuf_least, fun s p x e h => exec_canTxComplete_idle h x e, ?send, ?busOff, ?control, ?recover, ?post, ?filter⟩
  case receive =>
    intro s p f
    refine ⟨fun h => exec_canRx_dead h f, exec_canRx_remote, fun hit body qn hlive hdata hhit hbody hqn => ?_⟩
    obtain ⟨hframe, hall⟩ := canArrived_facts s p qn body f
    refine ⟨s.canArrived p qn body f, hframe, hall, fun i g => mem_frameSignals, fun hnone => ?_, fun i x b hsome hb => ?_⟩
    · subst hbody hqn hnone
      exact exec_canRx_unmatched hlive hdata hhit.symm
    · have hqueue : qn = x.queue := by rw [hqn, hsome]; rfl
      have hown : b = canBody p s.can.counter i f := by rw [hb, hbody, hsome]; rfl
      subst hqueue hb
      obtain ⟨hroom, hfull⟩ := exec_canRx_matched hlive hdata (hhit.symm.trans hsome) hown rfl
      generalize s.canArrived p x.queue b f = u at hframe hall hroom hfull
      have hkeeps : u.queue x.queue = s.queue x.queue ∧ u.canPort p = s.canPort p := by
        rw [hframe]
        exact ⟨rfl, rfl⟩
      obtain ⟨hq, hport⟩ := hkeeps
      unfold State.queueTakes at hroom hfull
      rw [hq] at hroom hfull
      rw [hport] at hfull
      refine ⟨fun hkind henable hfits => ⟨_, _, rfl, hroom ⟨hkind, henable, hfits⟩, rfl⟩, fun hno => ⟨_, hfull ?_, ?_⟩⟩
      · rintro ⟨hkind, henable, hfits⟩
        simp [hkind, henable, hfits] at hno
      · cases (s.canPort p).overrunOnset with
        | true => exact Says.refl _
        | false => exact (Says.refl _).record .canRxOverrun _
  case send =>
    intro s p b e htx hhead
    refine ⟨?_, fun hone => ?_, fun hagain => ?_⟩
    · rw [exec_canTxComplete htx hhead, if_pos rfl, countTx_sent, setCanPort_setCanPort]
      rfl
    · rw [exec_canTxComplete htx hhead, if_neg Bool.false_ne_true, if_pos hone, countTx_failed, setCanPort_setCanPort]
      rfl
    · rw [exec_canTxComplete htx hhead, if_neg Bool.false_ne_true, if_neg (by simp [hagain]), countTx_failed]
  case busOff =>
    exact fun s p => ⟨exec_canBusOff_dead, fun hp hlive => ⟨_, exec_canBusOff hlive, ((Says.refl _).record .canBusOff [p]).raise (92 + p) (by omega)⟩,
      exec_canRecoveryDone_idle, exec_canRecoveryDone, exec_canWake_idle, fun hp hsleep hpower =>
        ⟨_, exec_canWake hsleep hpower, ((Says.refl _).record .canWake [p]).raise (92 + p) (by omega)⟩⟩
  case control =>
    intro s q p v x c hc
    refine ⟨fun t hbarred => by rw [exec_canCtrl hc, hbarred], fun hopen b t r hb ht => ?_⟩
    obtain ⟨hr, u, hu, hwrite⟩ := writeCanCtrl_eq hb ht
    refine ⟨hr, _, by rw [exec_canCtrl hc, hopen], ?_⟩
    rw [hwrite, ← hu]
    split
    · exact refuse_says u q _
    · exact Says.refl u
  case recover => exact fun s w op p h hp => ⟨exec_canRecover_off h hp, exec_canRecover h hp⟩
  case post =>
    intro s w op p id ty ide h hp hid hide hty
    rw [exec_canSend h hp hid hide hty]
    refine ⟨fun hstarted => congrArg _ (if_pos hstarted), fun hnew hoff => congrArg _ ((if_neg (by simp [hnew])).trans (if_pos hoff)),
      fun hnew hport hon hpower => ?_⟩
    rw [if_neg (by simp [hnew]), if_neg (by simp [hon, hpower, hport])]
    refine ⟨fun hbad => congrArg _ (if_pos hbad), fun hform => ?_⟩
    rw [if_neg (by simp [hform])]
    refine ⟨fun hbus => congrArg _ (if_pos hbus), fun hbus => ?_⟩
    rw [if_neg (by simp [hbus])]
    refine ⟨fun hfull => congrArg _ (if_pos hfull), fun hroom => congrArg _ ((if_neg (Nat.not_le.2 hroom)).trans ?_)⟩
    rw [postCan_work]
    simp only [State.setOp_frame]
  case filter =>
    intro s w op p i r h hp hi hr
    rw [exec_canFilter h hp hi hr]
    refine ⟨fun hbad => congrArg _ (if_pos hbad), fun hport hbad => congrArg _ ((if_neg (Nat.not_le.2 hport)).trans (if_pos hbad)),
      fun hport hplace hlength => congrArg _ ((if_neg (Nat.not_le.2 hport)).trans (if_neg (not_or.2 ⟨Nat.not_le.2 hplace, not_not_intro hlength⟩)))⟩

end Sys2Proof.Machine
end

section
/-! SUPPORT. Attestation, verification and enrolment, and the field update from UPD_PREPARE to confirmation or expiry (R574 to R593). -/

namespace Sys2Proof.Machine

/-! Attestation, verification, enrolment. -/

theorem exec_secAttest {s : State} {w : WorkRef} {op : Op} {c : Nat} {r : List Byte} (h : s.ready w 8 0x10 op)
    (hc : c = (s.sec.reportCtr + 1) % 2 ^ 64) (hr : r = s.attestReport ((op.bytes.drop 48).take 16) c) : exec (.secAttest w) s = .next (
      if dLength op.bytes < 370 then s.finish op stBadDesc 0
      else (State.writeBuf { s with sec := { s.sec with reportCtr := c } } op 0 (r ++ deviceSignature (digest r))).finish op stOk 0) := by
  rw [hr, hc]
  exact congrArg Host.Outcome.next (engineOp_ready h _)

/-- The nonce of a SEC_ATTEST is the descriptor's last 16 bytes. -/
theorem attestNonce {b : List Byte} (h : b.length = 64) : (b.drop 48).take 16 = b.drop 48 :=
  List.take_of_length_le (by rw [List.length_drop, h])

theorem exec_secVerify_refused {s : State} {w : WorkRef} {op : Op} {y c : Nat} (h : s.ready w 8 0x11 op)
    (hbad : s.judgeArtefact none (s.buffer op) = .refused y c) :
    exec (.secVerify w) s = .next ((s.sigFail y c).finish op 0x0C00 (secReason c) (artefactDigest (s.buffer op))) := by
  refine congrArg Host.Outcome.next ((engineOp_ready h _).trans ?_)
  dsimp only
  rw [hbad]

/-- A sound artefact is refused where its nonce is used or its enrolment is barred (R574, R576). -/
theorem exec_secVerify_good {s : State} {w : WorkRef} {op : Op} {a : Artefact} (h : s.ready w 8 0x11 op)
    (hgood : s.judgeArtefact none (s.buffer op) = .good a) : exec (.secVerify w) s = .next (
      if isToken a = true ∧ s.nonceUsed a = true then s.finish op 0x0C00 4 (artefactDigest (s.buffer op))
      else if s.enrolBarred a = true then s.finish op 0x0C00 5 (artefactDigest (s.buffer op))
      else s.finish op stOk 0 (artefactDigest (s.buffer op))) := by
  refine congrArg Host.Outcome.next ((engineOp_ready h _).trans ?_)
  dsimp only
  rw [hgood]

theorem exec_secOwner_refused {s : State} {w : WorkRef} {op : Op} {y c : Nat} (h : s.ready w 8 0x12 op)
    (hbad : s.judgeArtefact (some 7) (s.buffer op) = .refused y c) :
    exec (.secOwner w) s = .next ((s.sigFail y c).finish op 0x0C00 (secReason c)) := by
  refine congrArg Host.Outcome.next ((engineOp_ready h _).trans ?_)
  rw [hbad]
  rfl

theorem exec_secOwner_good {s : State} {w : WorkRef} {op : Op} {a : Artefact} (h : s.ready w 8 0x12 op)
    (hgood : s.judgeArtefact (some 7) (s.buffer op) = .good a) : exec (.secOwner w) s = .next (
      if s.enrolBarred a = true then s.finish op 0x0C00 5
      else (State.record { s with sec := { s.sec with owner := a.body.take 57 } } .ownerEnrolled [leField (digest (a.body.take 57)) 0 8]).finish
        op stOk 0) := by
  refine congrArg Host.Outcome.next ((engineOp_ready h _).trans ?_)
  rw [hgood]
  rfl

/-! UPD_PREPARE (R581, R586, R587). -/

/-- The module as UPD_PREPARE works in it: out of STANDBY it is in UPDATE. -/
def State.preparing (s : State) : State := if s.sys.mode = .standby then s.setMode .update else s

/-- A slot that is written for an image. -/
def BootSlot.writingFor (h : ImageHdr) : BootSlot :=
  { state := .writing, version := h.version, minPeer := h.minPeer, proto := h.proto, protoMin := h.protoMin, svn := h.svn, confirmS := h.confirmS
    raiseFloor := h.raiseFloor }

/-- The spare slot begins to take an image. -/
def State.prepareStarted (u : State) (w : WorkRef) (a : Artefact) : State :=
  let t := (u.setBoot u.spareSlot fun _ => BootSlot.writingFor (imageHdr a.body)).setOp w fun o => { o with started := true }
  { t with upd := { t.upd with ready := false, target := u.spareSlot, image := a.body, work := some w, progress := 0 } }

theorem setOp_eq (s : State) (w : WorkRef) (f : Op → Op) : s.setOp w f = { s with hq := (s.setOp w f).hq } := by
  cases w <;> rfl

theorem setBoot_setOp_hq (s : State) (i : Nat) (g : BootSlot → BootSlot) (w : WorkRef) (f : Op → Op) :
    ((s.setBoot i g).setOp w f).hq = (s.setOp w f).hq := by
  cases w <;> rfl

theorem prepareStarted_eq (u : State) (w : WorkRef) (a : Artefact) : u.prepareStarted w a = { u with
    hq := (u.setOp w fun o => { o with started := true }).hq
    nvs := { u.nvs with slots := updAt u.nvs.slots u.spareSlot fun _ => BootSlot.writingFor (imageHdr a.body) }
    upd := { u.upd with ready := false, target := u.spareSlot, image := a.body, work := some w, progress := 0 } } := by
  unfold State.prepareStarted
  dsimp only
  rw [setOp_eq, setBoot_setOp_hq]
  rfl

theorem exec_updPrepare_started {s : State} {w : WorkRef} {op : Op} (h : s.ready w 8 0x30 op) (hstarted : op.started = true) (p : Bool) :
    exec (.updPrepare w p) s = .next s :=
  congrArg Host.Outcome.next ((engineOp_ready h _).trans (if_pos hstarted))

theorem exec_updPrepare_mode {s : State} {w : WorkRef} {op : Op} (h : s.ready w 8 0x30 op) (hnew : op.started = false)
    (hstandby : s.sys.mode ≠ .standby) (hservice : s.sys.mode ≠ .service) (p : Bool) :
    exec (.updPrepare w p) s = .next (s.finish op 0x0D00 1) :=
  congrArg Host.Outcome.next ((engineOp_ready h _).trans ((if_neg (by simp [hnew])).trans (if_pos ⟨hstandby, hservice⟩)))

/-- In STANDBY or SERVICE an UPD_PREPARE judges its image from the mode in which it works. -/
theorem exec_updPrepare_refused {s u : State} {w : WorkRef} {op : Op} {y c : Nat} (h : s.ready w 8 0x30 op) (hnew : op.started = false)
    (hmode : s.sys.mode = .standby ∨ s.sys.mode = .service) (hu : u = s.preparing)
    (hbad : u.judgeArtefact (some 1) (u.buffer op) = .refused y c) (p : Bool) : exec (.updPrepare w p) s =
      .next (((u.sigFail y c).finish op 0x0D00 (if c = 4 ∨ c = 5 then 2 else 10)).setMode s.sys.mode) := by
  subst hu
  refine congrArg Host.Outcome.next ((engineOp_ready h _).trans ((if_neg (by simp [hnew])).trans ((if_neg ?_).trans ?_)))
  · rintro ⟨hstandby, hservice⟩
    exact hmode.elim hstandby hservice
  · unfold State.preparing at hbad
    dsimp only
    rw [hbad]
    rfl

theorem exec_updPrepare_good {s u : State} {w : WorkRef} {op : Op} {a : Artefact} (h : s.ready w 8 0x30 op) (hnew : op.started = false)
    (hmode : s.sys.mode = .standby ∨ s.sys.mode = .service) (hu : u = s.preparing)
    (hgood : u.judgeArtefact (some 1) (u.buffer op) = .good a) (p : Bool) : exec (.updPrepare w p) s = .next (
      match u.prepareFault p (imageHdr a.body) with
      | some r => (u.finish op 0x0D00 r).setMode s.sys.mode
      | none => u.prepareStarted w a) := by
  subst hu
  refine congrArg Host.Outcome.next ((engineOp_ready h _).trans ((if_neg (by simp [hnew])).trans ((if_neg ?_).trans ?_)))
  · rintro ⟨hstandby, hservice⟩
    exact hmode.elim hstandby hservice
  · unfold State.preparing at hgood ⊢
    dsimp only
    rw [hgood]
    rfl

/-! UPD_ACTIVATE, its instant, and UPD_ABANDON (R587 to R589). -/

theorem exec_updActivate_none {s : State} {w : WorkRef} (h : s.activateOp w = none) : exec (.updActivate w) s = .next s := by
  refine congrArg Host.Outcome.next ?_
  rw [h]

theorem exec_updActivate {s : State} {w : WorkRef} {op : Op} (h : s.activateOp w = some op) : exec (.updActivate w) s = .next (
    if op.waitTime = true ∧ op.late = true ∧ dLatePolicy op.bytes = false then s
    else if s.sys.mode ≠ .standby ∧ s.sys.mode ≠ .service then s.finish op 0x0D00 1
    else if s.upd.ready = false then s.finish op 0x0D00 9
    else if op.waitTime = true ∧ s.clockOf (dPtBase op.bytes) < dTime op.bytes then
      { s with upd := { s.upd with scheduled := some (dPtBase op.bytes, dTime op.bytes, w) } }
    else s.activateNow op) := by
  refine congrArg Host.Outcome.next ?_
  rw [h]
  rfl

/-- An UPD_ACTIVATE that is not late, or acts late, is judged (R137). -/
theorem notLate {op : Op} (h : op.late = false ∨ op.waitTime = false ∨ dLatePolicy op.bytes = true) :
    ¬ (op.waitTime = true ∧ op.late = true ∧ dLatePolicy op.bytes = false) := by
  rintro ⟨hwait, hlate, hpolicy⟩
  rcases h with h | h | h
  · simp [hlate] at h
  · simp [hwait] at h
  · simp [hpolicy] at h

theorem exec_updActivateDue_none {s : State} (h : s.upd.scheduled = none) : exec .updActivateDue s = .next s := by
  refine congrArg Host.Outcome.next ?_
  rw [h]

theorem exec_updActivateDue {s : State} {p : Bool} {t : Nat} {w : WorkRef} (h : s.upd.scheduled = some (p, t, w)) : exec .updActivateDue s = .next (
    if s.clockOf p < t then s
    else match s.activateOp w with
      | some op => s.activateNow op
      | none => { s with upd := { s.upd with scheduled := none } }) := by
  refine congrArg Host.Outcome.next ?_
  rw [h] <;> rfl

/-- Either command at its instant activates (R588). -/
theorem exec_activate {s : State} {w : WorkRef} {op : Op} {c : Instr} (h : s.activateOp w = some op)
    (hc : (c = .updActivate w ∧ (op.late = false ∨ op.waitTime = false ∨ dLatePolicy op.bytes = true) ∧
        (s.sys.mode = .standby ∨ s.sys.mode = .service) ∧ s.upd.ready = true ∧ (op.waitTime = false ∨ dTime op.bytes ≤ s.clockOf (dPtBase op.bytes))) ∨
      (c = .updActivateDue ∧ ∃ p t, s.upd.scheduled = some (p, t, w) ∧ t ≤ s.clockOf p)) : exec c s = .next (s.activateNow op) := by
  rcases hc with ⟨rfl, hlate, hmode, hready, hdue⟩ | ⟨rfl, p, t, hscheduled, hdue⟩
  · rw [exec_updActivate h, if_neg (notLate hlate), if_neg fun hm => hmode.elim hm.1 hm.2, if_neg (by simp [hready]), if_neg]
    rintro ⟨hwait, hearly⟩
    rcases hdue with hdue | hdue
    · simp [hwait] at hdue
    · omega
  · rw [exec_updActivateDue hscheduled, if_neg (Nat.not_lt.2 hdue), h]

theorem exec_updAbandon {s : State} {w : WorkRef} {op : Op} (h : s.ready w 8 0x33 op) : exec (.updAbandon w) s = .next (
    if s.upd.ready = false then s.finish op stOk 0
    else State.finish { s with
      nvs := { s.nvs with slots := updAt s.nvs.slots s.upd.target fun (_ : BootSlot) => ({} : BootSlot) }
      upd := { s.upd with ready := false } } op stOk 0) :=
  congrArg Host.Outcome.next (engineOp_ready h _)

/-! Confirmation and expiry (R590 to R592). -/

theorem exec_updConfirm {s : State} {w : WorkRef} {op : Op} (h : s.ready w 8 0x32 op) : exec (.updConfirm w) s = .next (
    if s.trialHealthy = true ∧ s.upd.confirmFrom.isSome = true then s.confirmTrial.finish op stOk 0 else s.finish op 0x0D00 9) :=
  congrArg Host.Outcome.next (engineOp_ready h _)

theorem exec_updAutoConfirm_idle {s : State} (h : s.bit .updCfg 0 = false ∨ s.upd.confirmFrom = none ∨ s.trialHealthy = false ∨
    s.holdS < s.confirmHoldS) : exec .updAutoConfirm s = .next s := by
  refine congrArg Host.Outcome.next (if_neg ?_)
  rintro ⟨hauto, hwindow, hhealthy, hheld⟩
  rcases h with h | h | h | h
  · simp [hauto] at h
  · simp [h] at hwindow
  · simp [hhealthy] at h
  · omega

theorem exec_updConfirmExpiry_idle {s : State} (h : s.confirmEnd = none ∨ ∃ e, s.confirmEnd = some e ∧ s.tb.csr < e) :
    exec .updConfirmExpiry s = .next s := by
  refine congrArg Host.Outcome.next ?_
  rcases h with hnone | ⟨e, hend, hearly⟩
  · rw [hnone]
  · rw [hend]
    exact if_pos hearly

/-- The confirm window has ended: recorded, with event source 121 (R592). -/
def State.confirmExpired (s : State) : State :=
  (State.record { s with upd := { s.upd with confirmFrom := none } } .updConfirmExpired [s.runningSlot.version]).raise 121

theorem confirmExpired_says (s : State) : Says { s with upd := { s.upd with confirmFrom := none } } [(.updConfirmExpired, [s.runningSlot.version])] [121]
    s.confirmExpired :=
  ((Says.refl _).record .updConfirmExpired _).raise 121 (by decide)

theorem confirmExpired_same (s : State) : s.confirmExpired.sys.mode = s.sys.mode ∧ s.confirmExpired.wb = s.wb ∧
    s.confirmExpired.partnerStandby = s.partnerStandby := by
  have hrep := (confirmExpired_says s).toReports
  refine ⟨hrep.mode, hrep.wb, ?_⟩
  rw [hrep.eq]
  rfl

/-- The trial falls back: at once where no plant work waits on the module, by a planned handover, or once it may (R592). -/
def State.trialEnds (u : State) : State :=
  match u.sys.mode with
  | .sync | .standby | .quarantine | .service => u.restart 6
  | .active =>
    if u.partnerStandby then
      { u with sys := { u.sys with restartPend := some 6 }, wb := { u.wb with ho := if u.wb.ho = .idle then .planned else u.wb.ho } }
    else { u with upd := { u.upd with fallbackPending := true } }
  | _ => { u with upd := { u.upd with fallbackPending := true } }

theorem exec_updConfirmExpiry {s : State} {e : Nat} (hend : s.confirmEnd = some e) (hpast : e ≤ s.tb.csr) :
    exec .updConfirmExpiry s = .next s.confirmExpired.trialEnds := by
  refine congrArg Host.Outcome.next ?_
  rw [hend]
  exact if_neg (Nat.not_lt.2 hpast)

theorem trialEnds_restart {u : State} (h : u.sys.mode = .sync ∨ u.sys.mode = .standby ∨ u.sys.mode = .quarantine ∨ u.sys.mode = .service) :
    u.trialEnds = u.restart 6 := by
  unfold State.trialEnds
  rcases h with h | h | h | h <;> rw [h]

theorem trialEnds_active {u : State} (h : u.sys.mode = .active) (hstandby : u.partnerStandby = true) : u.trialEnds =
    { u with sys := { u.sys with restartPend := some 6 }, wb := { u.wb with ho := if u.wb.ho = .idle then .planned else u.wb.ho } } := by
  unfold State.trialEnds
  rw [h]
  exact if_pos hstandby

theorem trialEnds_pending {u : State} (hsync : u.sys.mode ≠ .sync) (hstandby : u.sys.mode ≠ .standby) (hquarantine : u.sys.mode ≠ .quarantine)
    (hservice : u.sys.mode ≠ .service) (halone : u.sys.mode = .active → u.partnerStandby = false) :
    u.trialEnds = { u with upd := { u.upd with fallbackPending := true } } := by
  unfold State.trialEnds
  split
  · next h => exact absurd h hsync
  · next h => exact absurd h hstandby
  · next h => exact absurd h hquarantine
  · next h => exact absurd h hservice
  · next h => exact if_neg (by simp [halone h])
  · rfl

/-- Settles O59: each command by its own equation; the report, the checks, the activation and the confirmation by their laws. -/
theorem securityAndUpdateCommandsActAsTheySay : Obligations.SecurityAndUpdateCommandsActAsTheySay := by
  unfold Obligations.SecurityAndUpdateCommandsActAsTheySay
  refine ⟨?attest, ?verify, ?owner, ?prepare, fun s h p => prepareFault_facts s p h, fun s w => exec_updActivate_none, ?activate, ?due, ?abandon, ?confirm, ?expiry⟩
  case attest =>
    intro s w op c r h hc hr
    rw [exec_secAttest h hc hr]
    refine ⟨fun hshort => congrArg _ (if_pos hshort), fun hlong => congrArg _ (if_neg (Nat.not_lt.2 hlong)), fun hmeas hbytes => ?_⟩
    have hnonce : (op.bytes.drop 48).length = 16 := by rw [List.length_drop, hbytes]
    rw [hr, attestNonce hbytes]
    exact ⟨attestReport_length s _ c hmeas hnonce, attestReport_fields s _ c hmeas hnonce⟩
  case verify =>
    intro s w op d h hd
    rw [hd]
    refine ⟨fun y c hbad => ⟨_, exec_secVerify_refused h hbad, sigFail_says s y c⟩, fun a hgood => ?_⟩
    rw [exec_secVerify_good h hgood]
    exact ⟨fun hused => congrArg _ (if_pos hused), fun hfree hbarred => congrArg _ ((if_neg hfree).trans (if_pos hbarred)),
      fun hfree hopen => congrArg _ ((if_neg hfree).trans (if_neg (by simp [hopen])))⟩
  case owner =>
    intro s w op h
    refine ⟨fun y c hbad => ⟨_, exec_secOwner_refused h hbad, sigFail_says s y c⟩, fun a hgood => ?_⟩
    rw [exec_secOwner_good h hgood]
    exact ⟨fun hbarred => congrArg _ (if_pos hbarred), fun hopen => ⟨_, congrArg _ (if_neg (by simp [hopen])), (Says.refl _).record .ownerEnrolled _⟩⟩
  case prepare =>
    intro s w op p h
    refine ⟨fun hstarted => exec_updPrepare_started h hstarted p, fun hnew hstandby hservice => exec_updPrepare_mode h hnew hstandby hservice p,
      fun hnew hmode u hu => ⟨fun y c hbad => ⟨_, exec_updPrepare_refused h hnew hmode hu hbad p, sigFail_says u y c⟩, ?_⟩⟩
    rintro a hdr hgood rfl
    rw [exec_updPrepare_good h hnew hmode hu hgood p]
    refine ⟨fun r hfault => by rw [hfault], fun hsound => ⟨u.prepareStarted w a, by rw [hsound], ?_⟩⟩
    rw [prepareStarted_eq]
    exact ⟨rfl, rfl, rfl, rfl⟩
  case activate =>
    intro s w op c h
    refine ⟨?_, ?_, fun hc u hu => ?_⟩
    · rintro rfl hlate
      rw [exec_updActivate h, if_pos hlate]
    · rintro rfl hlate
      rw [exec_updActivate h, if_neg (notLate hlate)]
      refine ⟨fun hstandby hservice => congrArg _ (if_pos ⟨hstandby, hservice⟩), fun hmode hunready => ?_, fun hmode hready hwait hearly => ?_⟩
      · exact congrArg _ ((if_neg fun hm => hmode.elim hm.1 hm.2).trans (if_pos hunready))
      · exact congrArg _ ((if_neg fun hm => hmode.elim hm.1 hm.2).trans ((if_neg (by simp [hready])).trans (if_pos ⟨hwait, hearly⟩)))
    · obtain ⟨hruns, hunsafe⟩ := activateNow_facts s op u hu
      rw [exec_activate h hc]
      refine ⟨fun hready hsafe l hl => ?_, fun hno => congrArg _ (hunsafe hno)⟩
      obtain ⟨v, hv, hsays⟩ := hruns hready hsafe l hl
      exact ⟨v, congrArg _ hv, hsays⟩
  case due =>
    refine fun s => ⟨exec_updActivateDue_none, fun p t w hscheduled => ?_⟩
    rw [exec_updActivateDue hscheduled]
    refine ⟨fun hearly => congrArg _ (if_pos hearly), fun hdue hnone => congrArg _ ((if_neg (Nat.not_lt.2 hdue)).trans ?_)⟩
    rw [hnone]
  case abandon =>
    intro s w op h
    rw [exec_updAbandon h]
    exact ⟨fun hunready => congrArg _ (if_pos hunready), fun hready => congrArg _ (if_neg (by simp [hready]))⟩
  case confirm =>
    refine fun s => ⟨s.confirmTrial, confirmTrial_says s, fun w op h => ?_, fun hauto hwindow hhealthy hheld =>
      congrArg Host.Outcome.next (if_pos ⟨hauto, hwindow, hhealthy, hheld⟩), exec_updAutoConfirm_idle⟩
    rw [exec_updConfirm h]
    refine ⟨fun hhealthy hwindow => congrArg _ (if_pos ⟨hhealthy, hwindow⟩), fun hno => congrArg _ (if_neg ?_)⟩
    rintro ⟨hhealthy, hwindow⟩
    rcases hno with hno | hno
    · simp [hhealthy] at hno
    · simp [hno] at hwindow
  case expiry =>
    refine fun s => ⟨exec_updConfirmExpiry_idle, fun e hend hpast => ⟨s.confirmExpired, confirmExpired_says s, ?_⟩⟩
    rw [exec_updConfirmExpiry hend hpast]
    obtain ⟨hmode, hwb, hpartner⟩ := confirmExpired_same s
    refine ⟨fun hm => congrArg _ (trialEnds_restart (hmode ▸ hm)), fun hm hstandby => congrArg _ ((trialEnds_active (hmode.trans hm)
      (hpartner.trans hstandby)).trans (by rw [hwb])), fun hsync hstandby hquarantine hservice halone => congrArg _ ?_⟩
    rw [← hmode] at hsync hstandby hquarantine hservice halone
    rw [← hpartner] at halone
    exact trialEnds_pending hsync hstandby hquarantine hservice halone

end Sys2Proof.Machine
end

section
/-! SUPPORT. Restart, the boot watchdog, and the boot monitor's choice of a slot (R578 to R581, R601, R602). -/

namespace Sys2Proof.Machine

/-! Restart and the boot watchdog. -/

/-- An RTC_LOST that waited for the recorder is told with event source 106 (R148). -/
theorem restart_tellsLost {s : State} (h : s.rtc.lostPend.isSome = true) (k : Nat) : (s.restart k).isPending 106 = true := by
  have htold : ∀ (u : State) (n : RecName) (a : List Nat), u.rtc.lostPend.isSome = true → (u.tellRtcLost.record n a).isPending 106 = true := by
    intro u n a hu
    obtain ⟨r, hr⟩ := Option.isSome_iff_exists.1 hu
    exact ((tellRtcLost_says hr).record n a).told (List.mem_singleton.2 rfl)
  unfold State.restart
  refine htold _ _ _ ?_
  dsimp only
  split <;> split <;> simp only [State.record_frame, State.setMode_frame] <;> exact h

theorem exec_restartReset_unknown {s : State} {k : Nat} (h : k = 0 ∨ 8 < k) : exec (.restartReset k) s = .next s :=
  congrArg Host.Outcome.next (if_neg (by omega))

theorem exec_restartReset {s : State} {k : Nat} (hlow : 1 ≤ k) (hhigh : k ≤ 8) : exec (.restartReset k) s = .next (s.restartFor k) :=
  congrArg Host.Outcome.next (if_pos ⟨hlow, hhigh⟩)

theorem restart_watchdogs (s : State) : 3 ≤ (s.restart 4).sys.wdCount ↔ 2 ≤ s.sys.wdCount := by
  rw [State.restart_wdCount, if_pos rfl]
  omega

theorem restartFor_once {s : State} {k : Nat} (h : k ≠ 4 ∨ s.sys.wdCount < 2) : s.restartFor k = s.restart k := by
  refine if_neg ?_
  rintro ⟨rfl, hthird⟩
  rw [restart_watchdogs] at hthird
  exact h.elim (absurd rfl) (fun hfew => absurd hthird (Nat.not_le.2 hfew))

/-- The third boot watchdog in a row ends in QUARANTINE (R602). -/
theorem restartFor_third {s : State} (h : 2 ≤ s.sys.wdCount) :
    s.restartFor 4 = (s.restart 4).enterQuarantine .bootWatchdog [(s.restart 4).sys.wdCount] :=
  if_pos ⟨rfl, (restart_watchdogs s).2 h⟩

theorem exec_bootWatchdog {s : State} (hmode : s.sys.mode = .boot) (hstage : s.sys.bootStage < 3) (hstop : s.sys.bootStop = false)
    (hlate : s.sys.stageAt + usTicks 10000000 ≤ s.tb.csr) : exec .bootWatchdog s = exec (.restartReset 4) s := by
  rw [exec_restartReset (by decide) (by decide)]
  exact congrArg Host.Outcome.next (if_pos ⟨hmode, hstage, hstop, hlate⟩)

theorem exec_bootWatchdog_idle {s : State} (h : s.sys.mode ≠ .boot ∨ 3 ≤ s.sys.bootStage ∨ s.sys.bootStop = true ∨
    s.tb.csr < s.sys.stageAt + usTicks 10000000) : exec .bootWatchdog s = .next s := by
  refine congrArg Host.Outcome.next (if_neg ?_)
  rintro ⟨hmode, hstage, hstop, hlate⟩
  rcases h with h | h | h | h
  · exact h hmode
  · omega
  · simp [hstop] at h
  · exact absurd hlate (Nat.not_le.2 h)

/-! The monitor's slots. -/

/-- A slot that holds anything is one of the module's. -/
theorem boot_range {s : State} {i : Nat} (h : (s.boot i).state ≠ .empty) : i < s.nvs.slots.length := by
  by_contra hrange
  exact h (by rw [State.boot, List.getD_eq_default _ _ (Nat.le_of_not_lt hrange)])

theorem boot_setBoot_self {s : State} {i : Nat} (h : (s.boot i).state ≠ .empty) (f : BootSlot → BootSlot) : (s.setBoot i f).boot i = f (s.boot i) := by
  rw [boot_setBoot, if_pos ⟨rfl, boot_range h⟩]

theorem boot_setBoot_other {s : State} {i j : Nat} (h : j ≠ i) (f : BootSlot → BootSlot) : (s.setBoot i f).boot j = s.boot j := by
  rw [boot_setBoot, if_neg fun hj => h hj.1]

/-- Slots of different states are different slots. -/
theorem slotWith_ne {s : State} {st st' : SlotState} {i j : Nat} (hi : s.slotWith st = some i) (hj : s.slotWith st' = some j) (hst : st' ≠ st) : j ≠ i := by
  rintro rfl
  exact hst ((slotWith_state hj).symm.trans (slotWith_state hi))

theorem slotWith_congr {s t : State} (h : t.nvs = s.nvs) (st : SlotState) : t.slotWith st = s.slotWith st := by
  unfold State.slotWith State.boot
  rw [h]

theorem boot_congr {s t : State} (h : t.nvs = s.nvs) (i : Nat) : t.boot i = s.boot i := by
  unfold State.boot
  rw [h]

/-- The state in which a slot that is no factory image runs: the measurement chain starts anew (R578). -/
def State.slotRuns (s : State) (i : Nat) (trial : Bool) : State := { s with
  sec := { s.sec with picked := true, bootSlot := i, factoryBoot := false, meas := List.replicate 64 0 }
  upd := { s.upd with trial := trial, confirmFrom := none } }

theorem runSlot_trial {s : State} {i : Nat} (h : (s.boot i).state = .trial) : s.runSlot i = s.slotRuns i true := runSlot_eq h

theorem runSlot_imago {s : State} {i : Nat} (h : (s.boot i).state = .imago) : s.runSlot i = s.slotRuns i false := runSlot_eq h

/-! The monitor's choice (R579, R580). -/

theorem bootMonitor_trial {s : State} {ok : Nat → Bool} {t : Nat} (htrial : s.slotWith .trial = some t) (hfresh : (s.boot t).attempted = false)
    (hok : ok t = true) (hsvn : s.sec.svnFloor ≤ (s.boot t).svn) :
    s.bootMonitor ok = (s.setBoot t fun b => { b with attempted := true }).slotRuns t true := by
  have hboot := boot_setBoot_self (s := s) (i := t) (by rw [slotWith_state htrial]; decide) fun b => { b with attempted := true }
  unfold State.bootMonitor
  rw [htrial]
  dsimp only
  rw [if_neg (by simp [hfresh]), hok, verifySlot_ok (by rw [hboot]; exact hsvn)]
  exact runSlot_trial (by rw [hboot]; exact slotWith_state htrial)

theorem bootMonitor_untried {s : State} {ok : Nat → Bool} (h : s.slotWith .trial = none) :
    s.bootMonitor ok = State.bootFrom ok [.imago, .chrysalis, .factory] s := by
  unfold State.bootMonitor
  rw [h]

/-- A trial whose only attempt was made: its slot is emptied, and the fallback is recorded (R580). -/
def State.trialDropped (s : State) (t : Nat) : State :=
  State.record { s with
    nvs := { s.nvs with slots := updAt s.nvs.slots t fun (_ : BootSlot) => ({} : BootSlot) }
    upd := { s.upd with fellBack := true, trial := false, confirmFrom := none, fallbackPending := false } } .updFallback [t]

theorem bootMonitor_attempted {s : State} {ok : Nat → Bool} {t : Nat} (htrial : s.slotWith .trial = some t) (hdone : (s.boot t).attempted = true) :
    s.bootMonitor ok = State.bootFrom ok [.imago, .chrysalis, .factory] (s.trialDropped t) := by
  have hempty : updAt s.nvs.slots t (fun b => if b.state = .invalid then b else {}) = updAt s.nvs.slots t fun _ => ({} : BootSlot) := by
    refine updAt_congr _ _ _ _ fun b hb => if_neg ?_
    have hstate := slotWith_state htrial
    rw [State.boot, getD_of _ _ _ _ hb] at hstate
    rw [hstate]
    decide
  unfold State.bootMonitor
  rw [htrial]
  dsimp only
  rw [if_pos hdone]
  unfold State.fallBack State.setBoot State.trialDropped
  rw [hempty]

/-- A sound IMAGO slot runs (R580). -/
theorem bootFrom_imago {s : State} {ok : Nat → Bool} {i : Nat} {l : List SlotState} (himago : s.slotWith .imago = some i) (hok : ok i = true)
    (hsvn : s.sec.svnFloor ≤ (s.boot i).svn) : State.bootFrom ok (.imago :: l) s = s.slotRuns i false := by
  rw [bootFrom_ok himago hok hsvn]
  exact runSlot_imago (slotWith_state himago)

/-- An IMAGO slot that fails is INVALID, and a sound CHRYSALIS slot runs as IMAGO (R579, R580). -/
theorem bootFrom_chrysalis {s : State} {ok : Nat → Bool} {i j : Nat} (himago : s.slotWith .imago = some i)
    (hbad : ok i = false ∨ (s.boot i).svn < s.sec.svnFloor) (hchrysalis : s.slotWith .chrysalis = some j) (hok : ok j = true)
    (hsvn : s.sec.svnFloor ≤ (s.boot j).svn) : ∃ u : State,
    Says { s with nvs := { s.nvs with slots := updAt s.nvs.slots i fun (b : BootSlot) => { b with state := .invalid } } }
      ((if ok i = true then [(.rollbackRefused, [i, (s.boot i).svn])] else []) ++ [(.bootStageFail, [i])]) [] u ∧
    State.bootFrom ok [.imago, .chrysalis, .factory] s = (u.setBoot j fun b => { b with state := .imago }).slotRuns j false := by
  obtain ⟨u, hverify, hsays⟩ := verifySlot_bad hbad
  refine ⟨u, hsays, ?_⟩
  have hnvs : u.nvs = (s.setBoot i fun b => { b with state := .invalid }).nvs := hsays.toReports.nvs
  have hsec : u.sec = s.sec := hsays.toReports.sec
  have hboot : u.boot j = s.boot j := (boot_congr hnvs j).trans (boot_setBoot_other (slotWith_ne himago hchrysalis (by decide)) _)
  have hfound : u.slotWith .chrysalis = some j := by
    rw [slotWith_congr hnvs, slotWith_setBoot, hchrysalis]
    · rw [slotWith_state himago]
      decide
    · exact (by decide : SlotState.invalid ≠ .chrysalis)
  have hstate : (u.boot j).state = .chrysalis := slotWith_state hfound
  rw [bootFrom_bad himago hverify, bootFrom_ok hfound hok (by rw [hsec, hboot]; exact hsvn), if_pos rfl]
  refine runSlot_imago ?_
  rw [boot_setBoot_self (by rw [hstate]; decide)]

/-- Without a slot the module stays in BOOT (R580). -/
def State.noSlot (s : State) : State := { s with sys := { s.sys with bootStop := true }, sec := { s.sec with bootFail := true } }

theorem bootFrom_empty {s : State} {ok : Nat → Bool} (himago : s.slotWith .imago = none) (hchrysalis : s.slotWith .chrysalis = none)
    (hfactory : s.slotWith .factory = none) : State.bootFrom ok [.imago, .chrysalis, .factory] s = s.noSlot := by
  rw [bootFrom_none himago, bootFrom_none hchrysalis, bootFrom_none hfactory]
  rfl

/-- A factory image runs as the last choice, and is recorded (R581). -/
theorem bootFrom_factory {s : State} {ok : Nat → Bool} {i : Nat} (himago : s.slotWith .imago = none) (hchrysalis : s.slotWith .chrysalis = none)
    (hfactory : s.slotWith .factory = some i) (hok : ok i = true) (hsvn : s.sec.svnFloor ≤ (s.boot i).svn) :
    Says { s with
        sec := { s.sec with picked := true, bootSlot := i, factoryBoot := true, meas := List.replicate 64 0 }
        upd := { s.upd with trial := false, confirmFrom := none } } [(.bootFactory, [])] []
      (State.bootFrom ok [.imago, .chrysalis, .factory] s) := by
  rw [bootFrom_none himago, bootFrom_none hchrysalis, bootFrom_ok hfactory hok hsvn, if_neg (by decide), runSlot_eq (slotWith_state hfactory)]
  exact (Says.refl _).record .bootFactory []

/-- Where an attempted trial was dropped, the IMAGO slot runs (R580). -/
theorem bootFrom_dropped {s : State} {ok : Nat → Bool} {t i : Nat} (htrial : s.slotWith .trial = some t) (himago : s.slotWith .imago = some i)
    (hok : ok i = true) (hsvn : s.sec.svnFloor ≤ (s.boot i).svn) :
    State.bootFrom ok [.imago, .chrysalis, .factory] (s.trialDropped t) = { s.trialDropped t with
      sec := { (s.trialDropped t).sec with picked := true, bootSlot := i, factoryBoot := false, meas := List.replicate 64 0 } } := by
  have hsays : Says _ _ _ (s.trialDropped t) := (Says.refl _).record .updFallback [t]
  have hnvs : (s.trialDropped t).nvs = (s.setBoot t fun _ => {}).nvs := hsays.toReports.nvs
  have hsec : (s.trialDropped t).sec = s.sec := hsays.toReports.sec
  have hupd : { (s.trialDropped t).upd with trial := false, confirmFrom := none } = (s.trialDropped t).upd := by rw [hsays.toReports.upd]
  have hboot : (s.trialDropped t).boot i = s.boot i := (boot_congr hnvs i).trans (boot_setBoot_other (slotWith_ne htrial himago (by decide)) _)
  have hfound : (s.trialDropped t).slotWith .imago = some i := by
    rw [slotWith_congr hnvs, slotWith_setBoot, himago]
    · rw [slotWith_state htrial]
      decide
    · decide
  rw [bootFrom_imago hfound hok (by rw [hsec, hboot]; exact hsvn)]
  unfold State.slotRuns
  rw [hupd]

/-! BOOT_START. -/

/-- What the monitor finds of the three slots. -/
def slotChecks (o0 o1 o2 : Bool) (i : Nat) : Bool := if i = 0 then o0 else if i = 1 then o1 else o2

theorem exec_bootStart_idle {s : State} (h : s.sys.mode ≠ .boot ∨ s.sec.picked = true ∨ s.sys.bootStop = true) (o0 o1 o2 : Bool) :
    exec (.bootStart o0 o1 o2) s = .next s := by
  refine congrArg Host.Outcome.next (if_neg ?_)
  rintro ⟨hmode, hpicked, hstop⟩
  rcases h with h | h | h
  · exact h hmode
  · simp [hpicked] at h
  · simp [hstop] at h

theorem exec_bootStart {s t : State} {o0 o1 o2 : Bool} (hmode : s.sys.mode = .boot) (hpicked : s.sec.picked = false) (hstop : s.sys.bootStop = false)
    (ht : s.bootMonitor (slotChecks o0 o1 o2) = t) : exec (.bootStart o0 o1 o2) s = .next (
      if t.sys.bootStop = true ∧ t.pwr.ejectReq = true then t.actExtraction else t) := by
  subst ht
  exact congrArg Host.Outcome.next (if_pos ⟨hmode, hpicked, hstop⟩)

theorem exec_bootStart_runs {s t : State} {o0 o1 o2 : Bool} (hmode : s.sys.mode = .boot) (hpicked : s.sec.picked = false)
    (hstop : s.sys.bootStop = false) (ht : s.bootMonitor (slotChecks o0 o1 o2) = t) (hruns : t.sys.bootStop = s.sys.bootStop) :
    exec (.bootStart o0 o1 o2) s = .next t :=
  (exec_bootStart hmode hpicked hstop ht).trans (congrArg _ (if_neg fun h => by simp [hruns, hstop] at h))

/-- An extraction asked for ends a boot that found no slot (R94). -/
theorem noSlot_extracted {s : State} (hmode : s.sys.mode = .boot) : s.noSlot.actExtraction.sys.mode = .service ∧
    s.noSlot.actExtraction.wb.lease = .none ∧ s.noSlot.actExtraction.wb.fenced = true := by
  have hboot : s.noSlot.sys.mode = .boot := hmode
  unfold State.actExtraction
  rw [hboot]
  dsimp only
  have hstop : s.noSlot.sys.bootStop = true := rfl
  rw [if_pos (Or.inr hstop)]
  refine State.enterService_facts ?_ 0
  have hnot : s.sys.mode ≠ .service := by rw [hmode]; decide
  split <;> exact hnot

end Sys2Proof.Machine
end

section
/-! SUPPORT. The boot stages and the journal that stage 3 rebuilds (R88, R94, R205, R308, R578, R581, R582, R592). -/

namespace Sys2Proof.Machine

/-! The stages. -/

theorem exec_bootStage_idle {s : State} {n : Nat} (h : s.sys.mode ≠ .boot ∨ s.sec.picked = false ∨ s.sys.bootStop = true ∨
    n ≠ s.sys.bootStage + 1 ∨ 3 < n) (d : List Byte) (x : Stage3) (l : List JEntry) (f : Bool) (k : List Nat) :
    exec (.bootStageVerified n d x l f k) s = .next s :=
  congrArg Host.Outcome.next (if_pos h)

/-- A stage that comes in its order after the monitor has picked a slot. -/
structure State.StageNext (s : State) (n : Nat) : Prop where
  mode : s.sys.mode = .boot
  picked : s.sec.picked = true
  goes : s.sys.bootStop = false
  order : n = s.sys.bootStage + 1
  last : n ≤ 3

theorem State.StageNext.taken {s : State} {n : Nat} (h : s.StageNext n) :
    ¬ (s.sys.mode ≠ .boot ∨ s.sec.picked = false ∨ s.sys.bootStop = true ∨ n ≠ s.sys.bootStage + 1 ∨ 3 < n) := by
  obtain ⟨hmode, hpicked, hgoes, horder, hlast⟩ := h
  simp only [hmode, hpicked, hgoes, ← horder]
  simp only [ne_eq, not_true, Bool.true_eq_false, Bool.false_eq_true, false_or]
  exact Nat.not_lt.2 hlast

theorem extendChain_mode {s : State} (h : s.sys.mode = .boot) (n : Nat) (d : List Byte) : (s.extendChain n d).sys.mode = .boot := h

/-- An extraction asked for ends the boot in SERVICE at the stage boundary (R94). -/
theorem exec_bootStage_extracted {s : State} {n : Nat} (h : s.StageNext n) (heject : s.pwr.ejectReq = true) (d : List Byte) (x : Stage3)
    (l : List JEntry) (f : Bool) (k : List Nat) : ∃ t, exec (.bootStageVerified n d x l f k) s = .next t ∧ t.sys.mode = .service ∧
      t.wb.lease = .none ∧ t.wb.fenced = true := by
  refine ⟨_, congrArg Host.Outcome.next ((if_neg h.taken).trans (if_pos heject)), State.enterService_facts ?_ 0⟩
  have hboot : s.sys.mode ≠ .service := by rw [h.mode]; decide
  exact hboot

theorem exec_bootStage_one {s : State} (h : s.StageNext 1) (heject : s.pwr.ejectReq = false) (d : List Byte) (x : Stage3) (l : List JEntry)
    (f : Bool) (k : List Nat) : exec (.bootStageVerified 1 d x l f k) s = .next (s.extendChain 1 d).stage1 :=
  congrArg Host.Outcome.next ((if_neg h.taken).trans (if_neg (Bool.eq_false_iff.1 heject)))

theorem exec_bootStage_two {s : State} (h : s.StageNext 2) (heject : s.pwr.ejectReq = false) (d : List Byte) (x : Stage3) (l : List JEntry)
    (f : Bool) (k : List Nat) : exec (.bootStageVerified 2 d x l f k) s = .next (s.extendChain 2 d).stage2 :=
  congrArg Host.Outcome.next ((if_neg h.taken).trans (if_neg (Bool.eq_false_iff.1 heject)))

theorem exec_bootStage_three {s : State} (h : s.StageNext 3) (heject : s.pwr.ejectReq = false) (d : List Byte) (x : Stage3) (l : List JEntry)
    (f : Bool) (k : List Nat) : exec (.bootStageVerified 3 d x l f k) s = .next ((s.extendChain 3 d).stage3 x l f k) :=
  congrArg Host.Outcome.next ((if_neg h.taken).trans (if_neg (Bool.eq_false_iff.1 heject)))

/-- Stage 2 turns PD5 on and sends HELLO where a lane is up (R91). -/
def State.stage2Sent (v : State) : State :=
  State.sendWb { v with sys := { v.sys with domains := v.sys.domains ||| 0x20 } }
    (.hello (State.helloBody { v with sys := { v.sys with domains := v.sys.domains ||| 0x20 } }))

theorem stage2_eq (v : State) : v.stage2 = if v.sec.factoryBoot = true then v.stage2Sent.enterService (recCodeOf .bootFactory) else v.stage2Sent := rfl

theorem stage2Sent_frame (v : State) : v.stage2Sent = { v with
    sys := { v.sys with domains := v.sys.domains ||| 0x20 }
    out := v.stage2Sent.out } := by
  unfold State.stage2Sent State.sendWb
  split <;> rfl

/-- HELLO goes out on a lane that is up, as the module sends it before the stage. -/
theorem stage2Sent_out {s v : State} (hwb : v.wb = s.wb) (hout : v.out = s.out) :
    ∃ h, v.stage2Sent.out = if v.stage2Sent.wbUp = true then s.out ++ [wbOut s (.hello h)] else s.out := by
  have hup : v.stage2Sent.wbUp = State.wbUp { v with sys := { v.sys with domains := v.sys.domains ||| 0x20 } } := by
    rw [stage2Sent_frame]
    rfl
  have hgen : v.sendGen = s.sendGen := by
    unfold State.sendGen State.holds
    rw [hwb]
  refine ⟨State.helloBody { v with sys := { v.sys with domains := v.sys.domains ||| 0x20 } }, ?_⟩
  rw [hup]
  unfold State.stage2Sent State.sendWb wbOut
  rw [← hout, ← hgen]
  split <;> rfl

/-- What stage 3 has restored of NVS, the module's own records and plant time, before it looks at the configuration. -/
def State.restored (v : State) (k : List Nat) : State :=
  k.foldl State.lostRecord (State.restoreCounters { v with nvs := { v.nvs with ready := v.unitUp 24, scrubbing := v.unitUp 24 } }).powerUpTime

theorem restored_mode (v : State) (k : List Nat) : (v.restored k).sys.mode = v.sys.mode := by
  unfold State.restored
  rw [lostRecords_mode, (powerUpTime_facts _).1]
  rfl

theorem restored_wb (v : State) (k : List Nat) : (v.restored k).wb = (k.foldl State.lostRecord v).wb :=
  lostRecords_wb k _ _ (powerUpTime_facts _).2

/-- A sound configuration comes into force, and the journal is rebuilt, unless it breaks a limit (R266, R532, R582). -/
theorem stage3_ok (v : State) (g : Cfg) (p : Option ProgImage) (z : Option ProtSet) (e : List Byte) (l : List JEntry) (f : Bool) (k : List Nat) :
    v.stage3 (.ok g p z e) l f k =
      if (v.restored k).cfgOk g p = false then (v.restored k).cfgInvalid
      else if ((v.restored k).applyStage3 g p z e).svcOk = false then ((v.restored k).applyStage3 g p z e).cfgInvalid
      else (((v.restored k).applyStage3 g p z e).rebuildJournal l (f && (v.restored k).wb.flushMarker)).startEst := rfl

/-! The journal rebuilt (R88, R205, R308). -/

/-- The state with its journal read back from the partition, before anything lost is told. -/
def State.journalRead (s : State) (l : List JEntry) (f : Bool) : State :=
  ((State.rememberAll { s with wb := { s.wb with
      journal := l, journalBytes := journalLength l, unwritten := 0, flushMarker := f
      jsn := l.foldl (fun m (e : JEntry) => max m e.jsn) 0, gen := max s.wb.gen (genOf l)
      streams := s.cfg.orderedStreams.map fun id => streamFrom l id (s.streamEpoch id)
      cycEpochs := (ownCyclic s.cfg).map fun id => (id, s.streamEpoch id), served := servedFrom l } } l).keepEpochs)

theorem rebuildJournal_eq (s : State) (l : List JEntry) (f : Bool) : s.rebuildJournal l f =
    if f = true then s.journalRead l f
    else if journalProgCycle l = none then ((s.journalRead l f).guaranteeBroken []).newEpochs else ((s.journalRead l f).guaranteeBroken []).newOrdered := rfl

/-- What a journal with its position and its marker is. -/
def State.journalIs (s : State) (l : List JEntry) (f : Bool) : Prop :=
  s.wb.journal = l ∧ s.wb.flushMarker = f ∧ s.wb.jsn = l.foldl (fun m (e : JEntry) => max m e.jsn) 0

theorem journalRead_is (s : State) (l : List JEntry) (f : Bool) : (s.journalRead l f).journalIs l f := by
  unfold State.journalIs State.journalRead
  simp only [State.keepEpochs_frame, (rememberAll_facts l _).1, and_self]

theorem newOrdered_is {s : State} {l : List JEntry} {f : Bool} (h : s.journalIs l f) : s.newOrdered.journalIs l f := by
  unfold State.journalIs State.newOrdered
  simp only [State.keepEpochs_frame]
  exact h

theorem newEpochs_is {s : State} {l : List JEntry} {f : Bool} (h : s.journalIs l f) : s.newEpochs.journalIs l f :=
  newOrdered_is (s := { s with wb := { s.wb with cycEpochs := s.wb.cycEpochs.map fun (e : Nat × Nat) => (e.1, e.2 + 1) } }) h

theorem newOrdered_evt (s : State) : s.newOrdered.evt = s.evt := by
  unfold State.newOrdered
  simp only [State.keepEpochs_frame]

theorem newEpochs_evt (s : State) : s.newEpochs.evt = s.evt := newOrdered_evt _

theorem guaranteeBroken_says (s : State) : Says s [(.guaranteeBroken, s.wb.jsn :: s.streamSeqs)] [70] (s.guaranteeBroken []) :=
  ((Says.refl s).record .guaranteeBroken _).raise 70 (by decide)

theorem guaranteeBroken_is {s : State} {l : List JEntry} {f : Bool} (h : s.journalIs l f) : (s.guaranteeBroken []).journalIs l f := by
  unfold State.journalIs
  rw [(guaranteeBroken_says s).toReports.wb]
  exact h

theorem rebuildJournal_is (s : State) (l : List JEntry) (f : Bool) : (s.rebuildJournal l f).journalIs l f := by
  rw [rebuildJournal_eq]
  split
  · exact journalRead_is s l f
  · split
    · exact newEpochs_is (guaranteeBroken_is (journalRead_is s l f))
    · exact newOrdered_is (guaranteeBroken_is (journalRead_is s l f))

/-- A journal without its marker has lost what it guarantees (R88). -/
theorem rebuildJournal_unflushed (s : State) (l : List JEntry) : (s.rebuildJournal l false).isPending 70 = true ∧
    s.rebuildJournal l false = if journalProgCycle l = none then ((s.journalRead l false).guaranteeBroken []).newEpochs
      else ((s.journalRead l false).guaranteeBroken []).newOrdered := by
  have heq := (rebuildJournal_eq s l false).trans (if_neg Bool.false_ne_true)
  have htold := (guaranteeBroken_says (s.journalRead l false)).told (List.mem_singleton.2 rfl)
  refine ⟨?_, heq⟩
  rw [heq]
  unfold State.isPending at htold ⊢
  split
  · rw [newEpochs_evt]
    exact htold
  · rw [newOrdered_evt]
    exact htold

end Sys2Proof.Machine
end

section
/-! SUPPORT. SYS_CTRL, what sends REQUEST, the entry into COCOON, and the module's own faults (R598 to R600, R604, R607, R608, R611, R612). -/

namespace Sys2Proof.Machine

/-! SYS_CTRL (R598 to R600). -/

/-- The exit from SAFE-HOLD (R598). -/
def State.leaveSafeHold (s : State) (q : Requester) (cold : Bool) : State :=
  if s.sys.mode = .safeHold ∧ s.safeCauseHolds = false then ({ s with sys := { s.sys with exitKind := some cold } }.refence).request
  else s.refuseWrite q (RegName.sysCtrl.addr 0 0)

/-- A restart asked for, in the modes that take one (R599). -/
def State.restartAsked (s : State) (q : Requester) : State :=
  match s.sys.mode with
  | .quarantine | .service | .sync | .standby => s.restart 3
  | _ => s.refuseWrite q (RegName.sysCtrl.addr 0 0)

/-- A command of SYS_CTRL under its key. -/
def State.sysCommand (s : State) (q : Requester) (k : Nat) : State :=
  match k with
  | 1 => s.restartAsked q
  | 2 => if s.sys.mode = .standby then s.enterService else s.refuseWrite q (RegName.sysCtrl.addr 0 0)
  | 3 => s.leaveSafeHold q false
  | 4 => s.leaveSafeHold q true
  | 5 => { s with sys := { s.sys with cold := true } }
  | 6 => { s with sys := { s.sys with cold := false } }
  | 7 =>
    if s.mayStop = false then s.refuseWrite q (RegName.sysCtrl.addr 0 0)
    else if s.prg.runState = 1 then { s with sys := { s.sys with stopPend := true } }
    else s.configStop
  | _ => s.refuseWrite q (RegName.sysCtrl.addr 0 0)

theorem writeSysCtrl_eq (s : State) (q : Requester) (v : Word) : s.writeSysCtrl q v =
    if bitsOf v.toNat 16 16 ≠ 0xA5C3 then s.refuseWrite q (RegName.sysCtrl.addr 0 0) else s.sysCommand q (bitsOf v.toNat 0 4) := rfl

/-- A command that has no meaning, or is out of its place, is refused. -/
theorem sysCommand_refused {s : State} {k : Nat} (h : k = 0 ∨ 7 < k ∨
    (k = 1 ∧ s.sys.mode ≠ .quarantine ∧ s.sys.mode ≠ .service ∧ s.sys.mode ≠ .sync ∧ s.sys.mode ≠ .standby) ∨ (k = 2 ∧ s.sys.mode ≠ .standby) ∨
    ((k = 3 ∨ k = 4) ∧ (s.sys.mode ≠ .safeHold ∨ s.safeCauseHolds = true)) ∨ (k = 7 ∧ s.mayStop = false)) (q : Requester) :
    s.sysCommand q k = s.refuseWrite q (RegName.sysCtrl.addr 0 0) := by
  rcases h with rfl | h | ⟨rfl, hquarantine, hservice, hsync, hstandby⟩ | ⟨rfl, hstandby⟩ | ⟨hk, hstays⟩ | ⟨rfl, hmay⟩
  · rfl
  · obtain ⟨m, rfl⟩ := Nat.exists_eq_add_of_le' h
    rfl
  · refine Eq.trans (b := s.restartAsked q) rfl ?_
    unfold State.restartAsked
    split
    · next hmode => exact absurd hmode hquarantine
    · next hmode => exact absurd hmode hservice
    · next hmode => exact absurd hmode hsync
    · next hmode => exact absurd hmode hstandby
    · rfl
  · exact if_neg hstandby
  · have hleave : ∀ cold, s.leaveSafeHold q cold = s.refuseWrite q (RegName.sysCtrl.addr 0 0) := fun cold => by
      refine if_neg ?_
      rintro ⟨hmode, hcause⟩
      exact hstays.elim (absurd hmode) (fun hholds => by simp [hcause] at hholds)
    rcases hk with rfl | rfl
    · exact hleave false
    · exact hleave true
  · exact if_pos hmay

/-- The modes in which a restart is taken (R599). -/
theorem sysCommand_restart {s : State} (h : s.sys.mode = .quarantine ∨ s.sys.mode = .service ∨ s.sys.mode = .sync ∨ s.sys.mode = .standby)
    (q : Requester) : s.sysCommand q 1 = s.restart 3 := by
  refine Eq.trans (b := s.restartAsked q) rfl ?_
  unfold State.restartAsked
  rcases h with h | h | h | h <;> rw [h]

theorem mayStop_mode {s : State} (h : s.mayStop = true) : s.sys.mode ≠ .service := by
  intro hmode
  simp [State.mayStop, hmode] at h

theorem sysCtrl_open {s : State} {q : Requester} {v : Word} (hopen : s.writeBarred q (RegName.sysCtrl.addr 0 0) = none)
    (hkey : bitsOf v.toNat 16 16 = 0xA5C3) : s.sysCtrl q v = s.sysCommand q (bitsOf v.toNat 0 4) := by
  unfold State.sysCtrl
  rw [hopen]
  exact (writeSysCtrl_eq s q v).trans (if_neg (not_not_intro hkey))

theorem sysCtrl_refused {s : State} {q : Requester} {v : Word} (hopen : s.writeBarred q (RegName.sysCtrl.addr 0 0) = none)
    (h : bitsOf v.toNat 16 16 ≠ 0xA5C3 ∨ s.sysCommand q (bitsOf v.toNat 0 4) = s.refuseWrite q (RegName.sysCtrl.addr 0 0)) :
    s.sysCtrl q v = s.refuseWrite q (RegName.sysCtrl.addr 0 0) := by
  unfold State.sysCtrl
  rw [hopen]
  refine (writeSysCtrl_eq s q v).trans ?_
  split
  · rfl
  · next hkey => exact h.resolve_left hkey

/-! What sends REQUEST (R219, R598, R604, R611). -/

/-- The module asks for the lease from a system state in which it may, with the fence following it. -/
def State.asking (s : State) (y : SysSt) : State := ({ s with sys := y }.refence).request

/-- A system state in which the module may ask, and the fence is driven. -/
def State.mayAsk (s : State) (y : SysSt) : Prop :=
  State.fenceAllowed { s with sys := y } = true ∧ State.mayRequest { s with sys := y } = true

theorem request_closed {v : State} (h : v.wb.probed = false ∨ v.promised = true) : v.request = v := by
  refine if_pos ?_
  rcases h with h | h
  · exact .inr (.inl h)
  · exact .inr (.inr h)

theorem request_open {v : State} (hmay : v.mayRequest = true) (hprobed : v.wb.probed = true) (hfree : v.promised = false) :
    v.request = { v.sendRef .request with wb := { (v.sendRef .request).wb with lease := if v.wb.lease = .none then .request else v.wb.lease } } := by
  refine (if_neg (by simp [hmay, hprobed, hfree])).trans ?_
  dsimp only
  split
  · next hnone => rw [if_pos (show v.wb.lease = .none from hnone)]
  · next hheld =>
    rw [if_neg (show ¬ v.wb.lease = .none from hheld)]
    rfl

theorem asking_facts {s v : State} {y : SysSt} (h : s.mayAsk y) (hv : v = { s with sys := y, wb := { s.wb with fenced := !s.wb.wdAlive } }) :
    (s.wb.probed = false ∨ s.promised = true → s.asking y = v) ∧
    (s.wb.probed = true → s.promised = false → ∃ u : State, Asks v .request u ∧
      s.asking y = { u with wb := { u.wb with lease := (if s.wb.lease = .none then .request else s.wb.lease) } }) := by
  obtain ⟨hfence, hmay⟩ := h
  have hrefenced : State.refence { s with sys := y } = v := by
    unfold State.refence
    rw [hfence, Bool.true_and, hv]
  unfold State.asking
  rw [hrefenced]
  subst hv
  exact ⟨fun hno => request_closed hno, fun hprobed hfree => ⟨_, sendRef_asks _ .request, request_open hmay hprobed hfree⟩⟩

theorem leaveSafeHold_asks {s : State} {cold : Bool} (hmode : s.sys.mode = .safeHold) (hcause : s.safeCauseHolds = false) (q : Requester) :
    s.leaveSafeHold q cold = s.asking { s.sys with exitKind := some cold } ∧ s.mayAsk { s.sys with exitKind := some cold } := by
  refine ⟨if_pos ⟨hmode, hcause⟩, ?_, ?_⟩
  · unfold State.fenceAllowed
    dsimp only
    rw [hmode]
    rfl
  · unfold State.mayRequest
    dsimp only
    rw [hmode]

/-- The starter alone: no HEARTBEAT within PEER_WAIT_S (R604). -/
theorem exec_peerWaitExpiry {s : State} (hmode : s.sys.mode = .boot) (hstage : 3 ≤ s.sys.bootStage) (hstop : s.sys.bootStop = false)
    (hsilent : s.wb.partner.heard = false) (hfirst : s.sys.starting = false)
    (hpast : s.sys.stageAt + usTicks (s.fld .sysStart 16 10 * 1000000) ≤ s.tb.csr) :
    exec .peerWaitExpiry s = .next (s.asking { s.sys with starting := true, starter := true }) ∧
      s.mayAsk { s.sys with starting := true, starter := true } := by
  refine ⟨congrArg Host.Outcome.next (if_pos ⟨hmode, hstage, hstop, hsilent, hfirst, hpast⟩), ?_, ?_⟩
  · unfold State.fenceAllowed
    dsimp only
    rw [hmode]
  · unfold State.mayRequest
    dsimp only
    rw [hmode]

theorem exec_peerWaitExpiry_idle {s : State} (h : s.sys.mode ≠ .boot ∨ s.sys.bootStage < 3 ∨ s.sys.bootStop = true ∨ s.wb.partner.heard = true ∨
    s.sys.starting = true ∨ s.tb.csr < s.sys.stageAt + usTicks (s.fld .sysStart 16 10 * 1000000)) : exec .peerWaitExpiry s = .next s := by
  refine congrArg Host.Outcome.next (if_neg ?_)
  rintro ⟨hmode, hstage, hstop, hsilent, hfirst, hpast⟩
  rcases h with h | h | h | h | h | h
  · exact h hmode
  · omega
  · simp [hstop] at h
  · simp [hsilent] at h
  · simp [hfirst] at h
  · exact absurd hpast (Nat.not_le.2 h)

/-- A woken module may ask (R611). -/
theorem cocoon_mayAsk {s : State} (hmode : s.sys.mode = .cocoon) (hwoke : s.sys.cocoonWoke = true) : s.mayAsk { s.sys with starting := true } := by
  refine ⟨?_, ?_⟩
  · unfold State.fenceAllowed
    dsimp only
    rw [hmode]
    exact hwoke
  · unfold State.mayRequest
    dsimp only
    rw [hmode]
    exact hwoke

theorem exec_cocoonResume_asks {s : State} (hmode : s.sys.mode = .cocoon) (hwoke : s.sys.cocoonWoke = true) (hformer : s.sys.formerHolder = true) :
    exec (.cocoonResume true) s = .next (s.asking { s.sys with starting := true }) :=
  congrArg Host.Outcome.next ((if_neg (not_or.2 ⟨not_not_intro hmode, by simp [hwoke]⟩)).trans (if_pos hformer))

theorem exec_cocoonResume_idle {s : State} {b : Bool} (h : s.sys.mode ≠ .cocoon ∨ s.sys.cocoonWoke = false ∨ (b = true ∧ s.sys.formerHolder = false)) :
    exec (.cocoonResume b) s = .next s := by
  refine congrArg Host.Outcome.next ?_
  by_cases hasleep : s.sys.mode ≠ .cocoon ∨ s.sys.cocoonWoke = false
  · exact if_pos hasleep
  · obtain ⟨rfl, hother⟩ := (or_assoc.2 h).resolve_left hasleep
    exact (if_neg hasleep).trans ((if_neg Bool.false_ne_true).trans (if_neg (by simp [hother])))

/-- A runtime whose digest differs restarts with cause 8 (R611). -/
theorem exec_cocoonResume_differs {s : State} (hmode : s.sys.mode = .cocoon) (hwoke : s.sys.cocoonWoke = true) :
    exec (.cocoonResume false) s = exec (.restartReset 8) s := by
  rw [exec_restartReset (by decide) (by decide), restartFor_once (.inl (by decide))]
  exact congrArg Host.Outcome.next (if_neg (not_or.2 ⟨not_not_intro hmode, by simp [hwoke]⟩))

theorem exec_cocoonRequestTimeout_idle {s : State} (h : s.sys.mode ≠ .cocoon ∨ s.sys.cocoonWoke = false ∨ s.sys.formerHolder = true ∨
    s.partnerHolds = true ∨ s.tb.csr < s.sys.cocoonAt + usTicks 2000000) : exec .cocoonRequestTimeout s = .next s := by
  refine congrArg Host.Outcome.next (if_neg ?_)
  rintro ⟨hmode, hwoke, hformer, hholds, hpast⟩
  rcases h with h | h | h | h | h
  · exact h hmode
  · simp [hwoke] at h
  · simp [hformer] at h
  · simp [hholds] at h
  · exact absurd hpast (Nat.not_le.2 h)

/-! The module's own faults (R67, R612). -/

/-- Over-temperature as recorded, with event source 123 (R612). -/
def State.overtempTold (s : State) (x : Int) : State :=
  (State.record { s with sys := { s.sys with tempInlet := x } } .moduleOvertemp [unsignedOf 16 x]).raise 123

theorem overtempTold_says (s : State) (x : Int) :
    Says { s with sys := { s.sys with tempInlet := x } } [(.moduleOvertemp, [unsignedOf 16 x])] [123] (s.overtempTold x) :=
  ((Says.refl _).record .moduleOvertemp _).raise 123 (by decide)

/-- An active module over temperature plans a handover to a whole standby (R55, R612). -/
theorem exec_moduleOvertemp {s : State} {x : Int} (h : 700 < x) : exec (.moduleOvertemp x) s = .next (
    if s.sys.mode = .active ∧ s.partnerStandby = true ∧ s.partnerWhole = true ∧ s.wb.ho = .idle then
      { s.overtempTold x with wb := { (s.overtempTold x).wb with ho := .planned } }
    else s.overtempTold x) := by
  have hrep := (overtempTold_says s x).toReports
  have hsame : (s.overtempTold x).sys.mode = s.sys.mode ∧ (s.overtempTold x).partnerStandby = s.partnerStandby ∧
      (s.overtempTold x).partnerWhole = s.partnerWhole ∧ (s.overtempTold x).wb.ho = s.wb.ho := by
    rw [hrep.eq]
    exact ⟨rfl, rfl, rfl, rfl⟩
  obtain ⟨hmode, hstandby, hwhole, hidle⟩ := hsame
  rw [← hmode, ← hstandby, ← hwhole, ← hidle]
  exact congrArg Host.Outcome.next (if_neg (Int.not_le.2 h))

/-! COCOON_ENTER and its plan (R607, R608). -/

/-- The module that begins to enter COCOON. -/
def State.cocoonBegun (s : State) (w : WorkRef) : State :=
  { (s.setOp w fun (o : Op) => { o with started := true }) with
    sys := { s.sys with cocoonEntering := true, cocoonReq := false, cocoonAt := s.tb.csr } }

theorem exec_cocoonEnter_waits {s : State} {w : WorkRef} {op : Op} (h : s.due w 0x40 op)
    (hno : op.started = true ∨ (s.sys.mode ≠ .active ∧ s.sys.mode ≠ .solo)) : exec (.cocoonEnter w) s = .next s := by
  refine congrArg Host.Outcome.next ((progOp_due h _).trans ?_)
  by_cases hstarted : op.started = true
  · exact if_pos hstarted
  · exact (if_neg hstarted).trans ((if_neg (by simp [h.1])).trans (if_pos (hno.resolve_left hstarted)))

theorem exec_cocoonEnter {s : State} {w : WorkRef} {op : Op} (h : s.due w 0x40 op) (hnew : op.started = false)
    (hmode : s.sys.mode = .active ∨ s.sys.mode = .solo) : exec (.cocoonEnter w) s = .next (
      match s.cocoonRefusal with
      | some r => s.finish op 0xE00 r
      | none => (s.cocoonBegun w).cocoonPlan.cocoonAcked) := by
  refine congrArg Host.Outcome.next ((progOp_due h _).trans ((if_neg (by simp [hnew])).trans ((if_neg (by simp [h.1])).trans ((if_neg ?_).trans ?_))))
  · rintro ⟨hactive, hsolo⟩
    exact hmode.elim hactive hsolo
  · cases s.cocoonRefusal with
    | some r => exact finishCut_holds h.1 ..
    | none =>
      unfold State.cocoonBegun
      simp only [State.setOp_frame]

/-- Without an estimator and a ring there is no plan to acknowledge. -/
theorem cocoonBegun_alone {s : State} {w : WorkRef} (hest : s.est.running = false) (hrings : s.slk.rings = []) :
    (s.cocoonBegun w).cocoonPlan.cocoonAcked = (s.cocoonBegun w).cocoonGo := by
  have hplan : (s.cocoonBegun w).cocoonPlan = s.cocoonBegun w := by
    refine if_neg ?_
    simp [State.cocoonBegun, hest]
  rw [hplan]
  refine if_pos ⟨rfl, ?_⟩
  simp [State.plansAcked, State.cocoonBegun, hrings]

theorem cocoonRefusal_facts (s : State) : (s.cfg.manager = true → s.cocoonRefusal = some 1) ∧ (s.cfg.manager = false →
    (s.prot.set = none → s.cocoonRefusal = some 2) ∧ (s.prot.set ≠ none → s.cocoonRefusal =
      if s.prg.stage ≠ 0 ∨ s.upd.work.isSome = true ∨ s.upd.scheduled.isSome = true ∨ s.upd.trial = true ∨ s.wb.drill ≠ .idle then some 3
      else if (s.est.lastQ.any fun (e : Nat × F32) => flt (fratio (Int.ofNat (s.fld .estRest 0 16)) 10) (fabs e.2)) = true then some 4
      else if s.partnerMode = some .sync ∨ s.partnerMode = some .update then some 5
      else none)) := by
  refine ⟨fun hmanager => if_pos hmanager, fun hworker => ⟨fun hnone => ?_, fun hset => ?_⟩⟩
  · exact (if_neg (by simp [hworker])).trans (if_pos (by simp [hnone]))
  · exact (if_neg (by simp [hworker])).trans (if_neg (by simpa using hset))

theorem exec_cocoonPlanTimeout_idle {s : State} (h : s.sys.cocoonEntering = false ∨ s.sys.cocoonReq = true ∨ s.holds = false ∨
    s.tb.csr < s.sys.cocoonAt + usTicks 60000000) : exec .cocoonPlanTimeout s = .next s := by
  refine congrArg Host.Outcome.next ?_
  split
  · next hpast =>
    obtain ⟨hentering, hpast⟩ := hpast
    rcases h with h | h | h | h
    · simp [hentering] at h
    · exact if_pos (.inr (.inl h))
    · exact if_pos (.inr (.inr (by simp [h])))
    · exact absurd hpast (Nat.not_le.2 h)
  · rfl

end Sys2Proof.Machine
end

section
/-! SUPPORT. O60: restart, the boot monitor and stages, SYS_CTRL, the plant start, COCOON, and the module's own faults. -/

namespace Sys2Proof.Machine

theorem reports_bootStop {u t : State} (h : Reports u t) : t.sys.bootStop = u.sys.bootStop := by rw [h.sys]

theorem restart_ends {s : State} {k : Nat} (hlow : 1 ≤ k) (hhigh : k ≤ 8) :
    (k ≠ 4 ∨ s.sys.wdCount < 2 → exec (.restartReset k) s = .next (s.restart k)) ∧
    (k = 4 → 2 ≤ s.sys.wdCount → ∃ u, exec (.restartReset k) s = .next u ∧
      u = (s.restart k).enterQuarantine .bootWatchdog [(s.restart k).sys.wdCount] ∧ u.sys.mode = .quarantine ∧ u.wb.lease = .none ∧ u.wb.fenced = true) := by
  refine ⟨fun hfew => (exec_restartReset hlow hhigh).trans (congrArg _ (restartFor_once hfew)), ?_⟩
  rintro rfl hthird
  have hboot : (s.restart 4).sys.mode ≠ .quarantine := by
    rw [(s.restart_facts 4).1]
    decide
  obtain ⟨hmode, hlease, hfenced, -⟩ := enterQuarantine_facts hboot .bootWatchdog [(s.restart 4).sys.wdCount]
  exact ⟨_, (exec_restartReset hlow hhigh).trans (congrArg _ (restartFor_third hthird)), rfl, hmode, hlease, hfenced⟩

theorem sysCtrl_barred {s t : State} {q : Requester} (h : s.writeBarred q (RegName.sysCtrl.addr 0 0) = some t) (v : Word) : s.sysCtrl q v = t := by
  unfold State.sysCtrl
  rw [h]

/-- The exit from SAFE-HOLD by SYS_CTRL asks for the lease (R598). -/
theorem safeHoldExit_asks {s : State} {q : Requester} {v : Word} {cold : Bool} (hopen : s.writeBarred q (RegName.sysCtrl.addr 0 0) = none)
    (hkey : bitsOf v.toNat 16 16 = 0xA5C3) (hcmd : s.sysCommand q (bitsOf v.toNat 0 4) = s.leaveSafeHold q cold) (hmode : s.sys.mode = .safeHold)
    (hcause : s.safeCauseHolds = false) :
    Host.Outcome.next (s.sysCtrl q v) = (.next (s.asking { s.sys with exitKind := some cold }) : Result) ∧ s.mayAsk { s.sys with exitKind := some cold } := by
  obtain ⟨hleaves, hmay⟩ := leaveSafeHold_asks (cold := cold) hmode hcause q
  exact ⟨congrArg _ ((sysCtrl_open hopen hkey).trans (hcmd.trans hleaves)), hmay⟩

/-- Settles O60: a lemma per choice of the monitor, per stage and per command of SYS_CTRL; what sends REQUEST is one lemma over the system state
in which the module asks. -/
theorem bootRestartAndModesFollowTheirTables : Obligations.BootRestartAndModesFollowTheirTables := by
  unfold Obligations.BootRestartAndModesFollowTheirTables
  refine ⟨fun s k => ⟨exec_restartReset_unknown, ?restart, exec_bootWatchdog, exec_bootWatchdog_idle, s.powerOn, rfl, powerOn_facts s⟩, ⟨rfl, rfl, rfl⟩,
    ?monitor, ?stages, ?journal, ?control, ?asks, ?idle, ?overtemp, ?enter, ?refusal, ?plan⟩
  case restart =>
    intro hlow hhigh
    obtain ⟨hmode, hcause, hfenced, hlease, hdomains⟩ := s.restart_facts k
    obtain ⟨-, hmarker, htb, -, hsec, hnvs, hregs, hrtc, hhq⟩ := s.restart_keeps k
    exact ⟨s.restart k, hmode, hcause, hdomains, s.restart_wdCount k, hlease, hfenced, hmarker, hrtc, fun hlost => restart_tellsLost hlost k, hhq,
      hregs, htb, hsec, hnvs, restart_ends hlow hhigh⟩
  case monitor =>
    intro s o0 o1 o2 ok c hc hok
    rw [hc]
    obtain rfl : ok = slotChecks o0 o1 o2 := hok
    refine ⟨fun hidle => exec_bootStart_idle hidle o0 o1 o2, fun hmode hpicked hstop => ⟨?_, ?_, ?_⟩⟩
    · intro t htrial hfresh hok hsvn
      exact exec_bootStart_runs hmode hpicked hstop (bootMonitor_trial htrial hfresh hok hsvn) rfl
    · intro htrial
      have huntried := bootMonitor_untried (ok := slotChecks o0 o1 o2) htrial
      refine ⟨fun i himago => ⟨fun hok hsvn => ?_, fun j hbad hchrysalis hok hsvn => ?_⟩,
        fun himago hchrysalis => ⟨fun hfactory v hv => ?_, fun i hfactory hok hsvn => ?_⟩⟩
      · exact exec_bootStart_runs hmode hpicked hstop (huntried.trans (bootFrom_imago himago hok hsvn)) rfl
      · obtain ⟨u, hsays, hruns⟩ := bootFrom_chrysalis himago hbad hchrysalis hok hsvn
        have hstays := reports_bootStop hsays.toReports
        exact ⟨u, hsays, exec_bootStart_runs hmode hpicked hstop (huntried.trans hruns) hstays⟩
      · rw [exec_bootStart hmode hpicked hstop (huntried.trans (bootFrom_empty himago hchrysalis hfactory)), ← hv]
        refine ⟨fun heject => congrArg _ (if_neg fun h => ?_), fun heject => ⟨_, congrArg _ (if_pos ⟨rfl, heject⟩), noSlot_extracted hmode⟩⟩
        exact absurd h.2 (by rw [show s.noSlot.pwr.ejectReq = false from heject]; decide)
      · have hsays := bootFrom_factory himago hchrysalis hfactory hok hsvn
        have hstays := reports_bootStop hsays.toReports
        exact ⟨_, exec_bootStart_runs hmode hpicked hstop huntried hstays, hsays⟩
    · intro t i htrial hdone himago hok hsvn
      have hsays : Says _ _ _ (s.trialDropped t) := (Says.refl _).record .updFallback [t]
      have hruns := (bootMonitor_attempted htrial hdone).trans (bootFrom_dropped htrial himago hok hsvn)
      have hstays := reports_bootStop hsays.toReports
      exact ⟨s.trialDropped t, hsays, exec_bootStart_runs hmode hpicked hstop hruns hstays⟩
  case stages =>
    intro s n d x l f k c hc
    rw [hc]
    refine ⟨fun hidle => exec_bootStage_idle hidle d x l f k, fun hmode hpicked hgoes horder hlast v hv => ?_⟩
    have hnext : s.StageNext n := ⟨hmode, hpicked, hgoes, horder, hlast⟩
    replace hv : v = s.extendChain n d := hv
    have hboot : v.sys.mode = .boot := by rw [hv]; exact hmode
    have hservice : ∀ c, (v.enterService c).sys.mode = .service ∧ (v.enterService c).wb.lease = .none ∧ (v.enterService c).wb.fenced = true :=
      State.enterService_facts (by rw [hboot]; decide)
    refine ⟨fun heject => exec_bootStage_extracted hnext heject d x l f k, fun heject hn => ?_, fun heject hn => ?_, fun heject hn => ?_⟩
    · obtain rfl : n = 1 := hn
      rw [hv]
      exact exec_bootStage_one hnext heject d x l f k
    · obtain rfl : n = 2 := hn
      have hexec := (exec_bootStage_two hnext heject d x l f k).trans (congrArg Host.Outcome.next (stage2_eq _))
      rw [← hv] at hexec
      have hframe : v.stage2Sent = { v with sys := { v.sys with domains := s.sys.domains ||| 0x20 }, out := v.stage2Sent.out } := by
        rw [hv]
        exact stage2Sent_frame _
      refine ⟨v.stage2Sent, hframe, stage2Sent_out (by rw [hv]; rfl) (by rw [hv]; rfl), fun hown => ?_, fun hfactory => ?_⟩
      · exact hexec.trans (congrArg _ (if_neg (by rw [hv]; exact Bool.eq_false_iff.1 hown)))
      · refine ⟨_, hexec.trans (congrArg _ (if_pos (by rw [hv]; exact hfactory))), State.enterService_facts ?_ _⟩
        rw [stage2Sent_frame]
        exact fun h => absurd (hboot.symm.trans h) (by decide)
    · obtain rfl : n = 3 := hn
      have hexec := exec_bootStage_three hnext heject d x l f k
      rw [← hv] at hexec
      have hrestored : (v.restored k).sys.mode = .boot := (restored_mode v k).trans hboot
      refine ⟨fun hx => ?_, fun hx => ?_, fun g p z e hx => ?_⟩
      · rw [hx] at hexec ⊢
        exact ⟨(v.restored k).enterService, hexec, State.enterService_facts (by rw [hrestored]; decide) _⟩
      · rw [hx] at hexec ⊢
        exact ⟨(v.restored k).cfgInvalid, hexec, cfgInvalid_facts (by rw [hrestored]; decide)⟩
      · rw [hx] at hexec ⊢
        rw [stage3_ok] at hexec
        refine ⟨v.restored k, hrestored, restored_wb v k, fun hbad => ?_, fun hcfg hsvc => ?_⟩
        · by_cases hcfg : (v.restored k).cfgOk g p = false
          · exact ⟨_, hexec.trans (congrArg _ (if_pos hcfg)), cfgInvalid_facts (by rw [hrestored]; decide)⟩
          · have hsvc := hbad.resolve_left hcfg
            refine ⟨_, hexec.trans (congrArg _ ((if_neg hcfg).trans (if_pos hsvc))), cfgInvalid_facts ?_⟩
            rw [applyStage3_mode, hrestored]
            decide
        · exact hexec.trans (congrArg _ ((if_neg (by simp [hcfg])).trans (if_neg (by simp [hsvc]))))
  case journal =>
    intro s l f
    obtain ⟨hjournal, hmarker, hjsn⟩ := rebuildJournal_is s l f
    refine ⟨hjournal, hmarker, hjsn, ?_⟩
    rintro rfl
    obtain ⟨htold, heq⟩ := rebuildJournal_unflushed s l
    obtain ⟨hread, -, hposition⟩ := journalRead_is s l false
    exact ⟨htold, _, _, guaranteeBroken_says _, hread, hposition.trans hjsn.symm, heq⟩
  case control =>
    intro s q v c hc
    rw [sysCtrl_exec s q v c hc]
    refine ⟨fun t hbarred => ?_, fun hopen k hk => ?_⟩
    · exact congrArg _ (sysCtrl_barred hbarred v)
    · refine ⟨fun hrefused => ?_, fun hkey => ?_⟩
      · rw [sysCtrl_refused hopen (hrefused.imp_right fun h => hk ▸ sysCommand_refused h q)]
        exact ⟨_, rfl, refuse_says s q _⟩
      · rw [sysCtrl_open hopen hkey, ← hk]
        refine ⟨?_, ?_, ?_, ?_, ?_⟩
        · rintro rfl hmode
          rw [exec_restartReset (by decide) (by decide), restartFor_once (.inl (by decide))]
          exact congrArg _ (sysCommand_restart hmode q)
        · rintro rfl hstandby
          exact ⟨_, congrArg _ (if_pos hstandby), State.enterService_facts (by rw [hstandby]; decide) _⟩
        · rintro (rfl | rfl) <;> rfl
        · rintro rfl hmay hruns
          exact congrArg _ ((if_neg (by simp [hmay])).trans (if_pos hruns))
        · rintro rfl hmay hstopped
          exact ⟨_, congrArg _ ((if_neg (by simp [hmay])).trans (if_neg hstopped)), configStop_facts s (mayStop_mode hmay)⟩
  case asks =>
    intro s c y hasks v hv
    have hreq : exec c s = .next (s.asking y) ∧ s.mayAsk y := by
      rcases hasks with ⟨q, w, hopen, hkey, hmode, hcause, ⟨rfl, hk, rfl⟩ | ⟨rfl, hk, rfl⟩⟩ |
        ⟨rfl, hmode, hstage, hstop, hsilent, hfirst, hpast, rfl⟩ |
        ⟨hmode, hwoke, rfl, ⟨rfl, hformer⟩ | ⟨rfl, hformer, hholds, hpast⟩⟩
      · exact safeHoldExit_asks hopen hkey (congrArg (s.sysCommand q) hk) hmode hcause
      · exact safeHoldExit_asks hopen hkey (congrArg (s.sysCommand q) hk) hmode hcause
      · exact exec_peerWaitExpiry hmode hstage hstop hsilent hfirst hpast
      · exact ⟨exec_cocoonResume_asks hmode hwoke hformer, cocoon_mayAsk hmode hwoke⟩
      · exact ⟨congrArg _ (if_pos ⟨hmode, hwoke, hformer, hholds, hpast⟩), cocoon_mayAsk hmode hwoke⟩
    obtain ⟨hexec, hmay⟩ := hreq
    rw [hexec]
    obtain ⟨hclosed, hopen⟩ := asking_facts hmay hv
    refine ⟨fun hno => congrArg _ (hclosed hno), fun hprobed hfree => ?_⟩
    obtain ⟨u, hsent, heq⟩ := hopen hprobed hfree
    exact ⟨u, hsent, congrArg _ heq⟩
  case idle =>
    intro s
    exact ⟨exec_peerWaitExpiry_idle, exec_cocoonRequestTimeout_idle, fun b => exec_cocoonResume_idle, exec_cocoonResume_differs,
      fun hearly => congrArg _ (if_neg (Nat.not_le.2 hearly)), fun hpast => congrArg _ (if_pos hpast)⟩
  case overtemp =>
    intro s x
    refine ⟨fun hcool => congrArg _ (if_pos hcool), fun hhot => ⟨s.overtempTold x, overtempTold_says s x, ?_, ?_⟩⟩
    · intro hactive hstandby hwhole hidle
      exact (exec_moduleOvertemp hhot).trans (congrArg _ (if_pos ⟨hactive, hstandby, hwhole, hidle⟩))
    · intro hno
      refine (exec_moduleOvertemp hhot).trans (congrArg _ (if_neg ?_))
      rintro ⟨hactive, hstandby, hwhole, hidle⟩
      simp [hactive, hstandby, hwhole, hidle] at hno
  case enter =>
    intro s w op hdue
    refine ⟨exec_cocoonEnter_waits hdue, fun hnew hmode => ?_⟩
    have henter := exec_cocoonEnter hdue hnew hmode
    refine ⟨fun r hr => ?_, fun hnone u hu => ?_⟩
    · rw [henter, hr]
    · replace hu : u = s.cocoonBegun w := hu
      rw [henter, hnone, hu]
      exact ⟨rfl, fun hest hrings => congrArg _ (cocoonBegun_alone hest hrings)⟩
  case refusal =>
    intro s x2 x3 x4 x5 h2 h3 h4 h5
    obtain ⟨hmanager, hworker⟩ := cocoonRefusal_facts s
    refine ⟨hmanager, fun hno => ?_⟩
    obtain ⟨hnone, hset⟩ := hworker hno
    replace h4 := (iff_of_eq h4).trans List.any_eq_true.symm
    refine ⟨fun y2 => hnone (h2.mp y2), ?_, ?_, ?_, ?_⟩ <;> intro n2 <;> rw [hset (mt h2.mpr n2)]
    · exact fun y3 => if_pos (h3.mp y3)
    · exact fun n3 y4 => (if_neg (mt h3.mpr n3)).trans (if_pos (h4.1 y4))
    · exact fun n3 n4 y5 => (if_neg (mt h3.mpr n3)).trans ((if_neg (mt h4.2 n4)).trans (if_pos (h5.mp y5)))
    · exact fun n3 n4 n5 => (if_neg (mt h3.mpr n3)).trans ((if_neg (mt h4.2 n4)).trans (if_neg (mt h5.mpr n5)))
  case plan =>
    intro s
    refine ⟨exec_cocoonPlanTimeout_idle, fun hentering hpast => congrArg _ (if_pos ⟨hentering, hpast⟩), fun hentering hfree hholds u hu v hv => ?_⟩
    have hgo := cocoonGo_of s hentering hfree hholds u hu
    rw [← hv] at hgo
    refine ⟨fun hstandby => hgo.trans (if_pos hstandby), fun hstandby => ?_⟩
    have halone := hgo.trans (if_neg (Bool.eq_false_iff.1 hstandby))
    rw [halone]
    exact ⟨rfl, enterCocoon_facts _ true⟩

end Sys2Proof.Machine
end
